-- ==== Sys2Proof/Word.lean ====
section
/-!
DEFINITION. The word types of the LVX-9608 model: bytes, the numbers of ports, dies, stations and lanes.
Only the types stand here; byte order, bit fields and sign extension are in Machine/Bytes.lean.
-/
namespace Sys2Proof

/-- One byte. -/
abbrev Byte := BitVec 8
/-- A host port, 0 or 1 (00, Indices). -/
abbrev Port := Fin 2
/-- A die, 0 or 1 (00, Indices). -/
abbrev DieId := Fin 2
/-- A station, 0 to 7 (00, Indices). -/
abbrev Stn := Fin 8
/-- A Swiosh lane of a station, 0 to 15 (R33). -/
abbrev Lane := Fin 16
/-- A data track of a wrap, 0 to 127 (R89). -/
abbrev Track := Fin 128
/-- A signed loop word of 32 bits (R223). -/
abbrev Word := BitVec 32

end Sys2Proof
end

