-- ==== Sys2Proof/Syntax.lean ====
section
/-!
DEFINITION. The commands of the block: one constructor of `Instr` per row of spec/opcode_table.json, with what the
outside world supplies with that step as its operands (log 9). No row of the table gives bits.
-/
namespace Sys2Proof

/-- A submission entry as the port fetched it (Table 10.1). Byte k of `cdw` (entry byte 0x20 + k) is bits 8k to 8k + 7. -/
structure Entry where
  opc    : BitVec 8
  flags  : BitVec 8
  tag    : BitVec 16
  stn    : BitVec 8
  cflags : BitVec 8
  rsv    : BitVec 16
  mnt    : BitVec 32
  dlen   : BitVec 32
  dptr   : BitVec 64
  rptr   : BitVec 64
  cdw    : BitVec 256
  deriving DecidableEq, Repr

/-- A scatter entry (Table 10.2). -/
structure SglEntry where
  addr : BitVec 64
  len  : BitVec 32
  rsv  : BitVec 32
  deriving DecidableEq, Repr

/-- An entry that a port takes from a submission queue, with the scatter list it fetches at check 6 of R469. -/
structure HostCmd where
  port  : Port
  qid   : Nat
  entry : Entry
  sgl   : List SglEntry
  deriving DecidableEq, Repr

/-- What the transport reports of the cartridge when a MOUNT threads it (R334). -/
structure Cartridge where
  loaded         : Bool
  writeProtected : Bool
  deriving DecidableEq, Repr

/-- A reset source of Table 12.2 that stays asserted until it is released (R396). -/
inductive ResetSource where
  | powerOn | resetN | supply | thermal | watchdogCold | packageFault | warmN | warmRequest | watchdogWarm
  | perst (p : Port)
  deriving DecidableEq, Repr

/-- DETAIL of a black-box entry of cause 5 (Table 10.17). -/
inductive PkgFault where
  | vault | ledger | bootController | resetController | refclk | imageStore | ucieNotRetrained | stackLostAgain
  deriving DecidableEq, Repr

/-- One slot of the flash as the boot controller read it (R359, reason 4 of Table 11.6). -/
structure SlotRead where
  bytes       : List Byte
  strobeFault : Bool
  deriving DecidableEq, Repr

/-- The three slots of the flash (Table 11.1). -/
structure Flash where
  factory : SlotRead
  slotA   : SlotRead
  slotB   : SlotRead
  deriving DecidableEq, Repr

/-- The 5,440 line bits of a frame as the pair of a lane carries them, the first bit sent being bit 5439 (R169, R170). -/
abbrev RxFrame := BitVec 5440

/-- How TRC_DATA is read (R428). -/
inductive TrcAccess where
  | whole | low | high
  deriving DecidableEq, Repr

/-- The engine regions of a die in the order of Table 1.2. -/
inductive Region where
  | hash | compression | decompression | crypto
  deriving DecidableEq, Repr

/-- The four loops of a station (Table 7.1). -/
inductive LoopId where
  | reel | lateral | skew | aux
  deriving DecidableEq, Repr

/-- The verify grades of Table 4.4. -/
inductive Grade where
  | good | marginal | failed | missing
  deriving DecidableEq, Repr

/-- The regions of a stack (Table 9.1). -/
inductive HbmRegion where
  | pool | selfTest | trace | errorLog | spare
  deriving DecidableEq, Repr

/-- A page of HBM: a stack, a region and a frame of that region (R283, R284). -/
structure PageAddr where
  stack  : Fin 4
  region : HbmRegion
  frame  : Nat
  deriving DecidableEq, Repr

/-- What a stack gives back at one read of a page (R286, R287): the bits of the code word that read wrong, counted from its first, and
the page that answered where it is not the one addressed (DESIGN CHOICE, log 12). -/
structure PageLine where
  flips : List Nat
  place : Option PageAddr
  deriving DecidableEq, Repr

/-- Who reads a page, and for what: the rows of Table 9.3. `lon` names the record concerned. -/
inductive Consumer where
  | copyOnly
  | readData (p : Port) (q : Nat) (tag : BitVec 16) (ofs : Nat)
  | otherHostData (p : Port) (q : Nat) (tag : BitVec 16)
  | compressionInput (st : Stn) (lon : Nat) (block : Nat)
  | assemblyBlock (st : Stn) (lon : Nat)
  | releasedGathering (st : Stn) (gnum : Nat)
  | rewriteCopy (st : Stn) (gnum : Nat) (row : Nat)
  | recallArea (st : Stn) (gnum : Nat)
  | plaintext (st : Stn) (lon : Nat)
  | migratePlaintext (st : Stn) (lon : Nat)
  | volumeContext (st : Stn) (mirror : PageLine)
  | traceSpill (d : DieId) (q : Fin 4)
  deriving DecidableEq, Repr

/-- What a buffer is requested for (R104, R159, R312): a command's data, a record's output, the open gathering, a gathering's C2
rows, a volume context, or nothing more. -/
inductive PoolUse where
  | command (p : Port) (q : Nat) (tag : BitVec 16)
  | compressOut (st : Stn) (lon : Nat)
  | siding (st : Stn) (lon : Nat)
  | gathering (st : Stn)
  | c2Rows (st : Stn) (gnum : Nat)
  | context (st : Stn)
  | other
  deriving DecidableEq, Repr

/-- One raw upset seen at a control-store word (R385): the bits that read wrong. -/
structure StoreUpset where
  store : Fin 10
  addr  : BitVec 13
  flips : BitVec 144
  deriving DecidableEq, Repr

/-- One part entry of a self-test report (Table 10.15). -/
structure TestPart where
  part   : Nat
  die    : BitVec 8
  state  : Nat
  detail : BitVec 32
  deriving DecidableEq, Repr

/-- The outcome of decoding again one row that was graded in a dip (R410). -/
structure Regrade where
  st    : Stn
  pos   : Nat
  track : Track
  grade : Grade
  deriving DecidableEq, Repr

/-- The commands, in the order of spec/opcode_table.json. -/
inductive Instr where
  | append (c : HostCmd)
  | read (c : HostCmd)
  | locate (c : HostCmd)
  | flush (c : HostCmd)
  | orderFence (c : HostCmd)
  | verify (c : HostCmd)
  | migrate (c : HostCmd)
  | seal (c : HostCmd)
  | identify (c : HostCmd)
  | createQp (c : HostCmd)
  | deleteQp (c : HostCmd)
  | resetQp (c : HostCmd)
  | getLog (c : HostCmd)
  | mount (c : HostCmd) (cart : Cartridge)
  | unmount (c : HostCmd)
  | initVolume (c : HostCmd)
  | selfTest (c : HostCmd) (parts : List TestPart)
  | powerState (c : HostCmd)
  | imageStage (c : HostCmd) (data : List Byte)
  | imageConfirm (c : HostCmd)
  | retirePage (c : HostCmd)
  | scrubRange (c : HostCmd)
  | monitorCtl (c : HostCmd) (data : List Byte)
  | recoverStabled (c : HostCmd)
  | discardStabled (c : HostCmd)
  | blockReset (c : HostCmd)
  | sqTailWrite (p : Port) (q : Nat) (v : BitVec 32)
  | cqHeadWrite (p : Port) (q : Nat) (v : BitVec 32)
  | completionWrite (p : Port) (q : Nat)
  | adminQueueEnable (p : Port)
  | warmRequest (p : Port)
  | evtStatClear (p : Port) (w : Fin 8) (v : BitVec 32) (raised : BitVec 32)
  | evtMaskWrite (p : Port) (w : Fin 8) (v : BitVec 32)
  | evtRouteWrite (p : Port) (w : Fin 64) (v : BitVec 32)
  | msixVectorUnmask (p : Port) (v : Fin 64)
  | monSelWrite (p : Port) (v : BitVec 32)
  | flushNow (p : Port)
  | flushAtBoundary (p : Port)
  | clrcnt (p : Port)
  | trcDataRead (p : Port) (acc : TrcAccess) (flips : BitVec 73)
  | elogIdxWrite (p : Port) (v : BitVec 32) (poisoned : Bool)
  | supV0Read (p : Port)
  | registerWrite (p : Port) (ofs : Nat) (size : Nat) (v : BitVec 64)
  | powerOnReset
  | resetN
  | supplyReset (rail : Fin 6) (mv : Nat)
  | thermalTrip (d : DieId) (temp : BitVec 16)
  | thermalTripRelease
  | watchdogExpiry
  | watchdogReport (d : DieId)
  | packageFault (f : PkgFault)
  | refclkLoss
  | refclkStable
  | warmN
  | stationStateSave (st : Stn)
  | quiesceEnd
  | portReset (p : Port)
  | resetRelease (src : ResetSource)
  | fuseLoadDone
  | bootImageChoice (f : Flash)
  | memoryReady
  | deviceReady
  | portLinkTrained (p : Port) (gen : Nat) (width : Nat) (msix : Option (BitVec 64))
  | vddCoreWarning (mv : Nat)
  | dipStop
  | dipRecovery (min : Nat) (regrades : List Regrade)
  | thermalThrottle (d : DieId) (temp : BitVec 16)
  | thermalThrottleStep
  | thermalCapRaise
  | thermalStop (d : DieId) (temp : BitVec 16)
  | thermalStopClear
  | busWarning (st : Stn) (counts : Nat)
  | busWarningStep (st : Stn) (counts : Nat)
  | busStop (st : Stn) (counts : Nat)
  | busHold (st : Stn) (counts : Nat)
  | busRecovery (st : Stn) (counts : Nat)
  | busRecoveryStep (st : Stn) (counts : Nat)
  | vbusMismatch (st : Stn)
  | upstreamFrame (st : Stn) (lane : Lane) (f : RxFrame)
  | downstreamFrame (st : Stn) (lane : Lane) (ncell : Nat)
  | sidebandContainer (st : Stn) (slot : BitVec 16)
  | headEndResponse (st : Stn) (msg : BitVec 64)
  | laneDown (st : Stn) (lane : Lane)
  | laneTrainingDone (st : Stn) (lane : Lane) (ok : Bool) (upNs : Nat) (downNs : Nat)
  | laneTrainingRetry (st : Stn) (lane : Lane)
  | linkLoss (st : Stn)
  | linkRecovered (st : Stn)
  | rowDecode (st : Stn) (pos : Nat) (track : Track)
  | retryAttempt (st : Stn)
  | bandFreeze (st : Stn)
  | gatheringAcceptance (st : Stn) (gnum : Nat)
  | intakeDone (p : Port) (q : Nat) (tag : BitVec 16) (data : List Byte) (ep : Bool)
  | engineDispatch (d : DieId) (r : Region)
  | engineLaneFault (d : DieId) (r : Region) (lane : Nat)
  | blockEmit (st : Stn) (lon : Nat)
  | rightAwayMark (st : Stn) (lon : Nat) (block : Nat)
  | checkFail (st : Stn) (lon : Nat) (block : Nat)
  | encryptionDone (st : Stn) (gnum : Nat)
  | gatheringPlace (st : Stn) (ahead : Nat)
  | emptyGathering (st : Stn)
  | speedDecision (st : Stn)
  | speedStepDone (st : Stn)
  | stopDone (st : Stn)
  | backhitchDone (st : Stn) (gap : Nat)
  | wrapEnd (st : Stn)
  | wrapStart (st : Stn)
  | gatheringDecode (st : Stn) (gnum : Nat)
  | quireDecode (st : Stn) (quire : Nat)
  | rereadPassDone (st : Stn)
  | recordHandover (st : Stn) (lon : Nat)
  | rebuildPassDone (st : Stn)
  | lateralSample (st : Stn)
  | writeInhibitEnd (st : Stn)
  | lateralSettled (st : Stn)
  | missWinh (st : Stn)
  | missStop (st : Stn)
  | reelSample (st : Stn)
  | reelMissStop (st : Stn)
  | auxSample (st : Stn)
  | lposWord (st : Stn)
  | lposLost (st : Stn)
  | kappaUpdate (st : Stn) (takeUp : Bool) (servoLen : Nat)
  | bankSwapTimeout (st : Stn) (loop : LoopId)
  | rampDone (st : Stn)
  | tensioned (st : Stn)
  | tensionTimeout (st : Stn)
  | poolGrant (d : DieId) (owner : Nat) (len : Nat) (use : PoolUse)
  | poolAdd (d : DieId) (owner : Nat) (handle : BitVec 32) (name : Nat)
  | poolRelease (d : DieId) (owner : Nat) (handle : BitVec 32)
  | poolFree (d : DieId) (owner : Nat) (handle : BitVec 32)
  | pageRead (a : PageAddr) (handle : BitVec 32) (actor : Nat) (l : PageLine) (c : Consumer)
  | pageWrite (a : PageAddr) (handle : BitVec 32) (actor : Nat) (first : Nat) (beats : List (BitVec 512)) (poison : BitVec 64) (l : PageLine)
  | writeBack (k : Fin 4) (verify : PageLine)
  | patrolScrub (k : Fin 4) (flips : List Nat) (place : Option PageAddr)
  | ceLeak
  | controlStoreFetch (store : Fin 10) (cond : Bool) (flips : BitVec 144)
  | controlStoreScrub (upsets : List StoreUpset)
  | stackLost (k : Fin 4)
  | ucieLinkDown
  | trialWindowExpiry
  | drbgHealthFail
  | ledgerWriteDone
  | selfTestTimeout (parts : List TestPart)
  | selfTestDone (parts : List TestPart)
  | powerStateExitDone
  | monitorSample (d : DieId) (slot : Fin 64) (v : BitVec 32)
  | decryptionDone (st : Stn) (gnum : Nat)
  | decompressionDone (st : Stn) (lon : Nat)
  | chunkReadBack (back : List Byte) (target : SlotRead)
  | blockReturn (k : Nat)
  | rangeScrubRead (d : DieId) (flips : List Nat) (place : Option PageAddr)
  | ucieLinkRetrain (d : DieId)
  | linkRateOrWidthChange (p : Port) (gen : Nat) (width : Nat)
  | mountOpenTimeout (st : Stn)
  deriving DecidableEq, Repr

end Sys2Proof
end

