-- ==== Sys2Proof/Decode.lean ====
section
/-!
DEFINITION. The decoder of the table's bits. No row of spec/opcode_table.json gives bits: a command of the block is no
word, so no word spells one.
-/
namespace Sys2Proof

/-- The command that a word of `nbits` bits spells: none, as no row gives bits. -/
def decodeTableWord (_nbits _w : Nat) : Option Instr := none

end Sys2Proof
end

