-- ==== Sys2Proof/Machine/Bytes.lean ====
section
/-!
DEFINITION. Bytes, byte order, bit fields and small list helpers. Tape fields are big-endian, host-memory structures and
registers little-endian, strings of bytes keep their order (R5).
-/
namespace Sys2Proof.Machine

/-- The `n` low bytes of `v`, most significant first (R5, tape). -/
def beBytes : Nat → Nat → List Byte
  | 0, _ => []
  | n + 1, v => BitVec.ofNat 8 (v / 256 ^ n) :: beBytes n v

/-- The `n` low bytes of `v`, least significant first (R5, host memory and registers). -/
def leBytes : Nat → Nat → List Byte
  | 0, _ => []
  | n + 1, v => BitVec.ofNat 8 v :: leBytes n (v / 256)

/-- The number a big-endian string of bytes spells. -/
def beNat (l : List Byte) : Nat :=
  l.foldl (fun a b => a * 256 + b.toNat) 0

/-- The number a little-endian string of bytes spells. -/
def leNat : List Byte → Nat
  | [] => 0
  | b :: r => b.toNat + 256 * leNat r

/-- `n` zero bytes. -/
def zeros (n : Nat) : List Byte := List.replicate n 0

/-- `l` cut or zero-filled to `n` bytes. -/
def padTo (n : Nat) (l : List Byte) : List Byte :=
  l.take n ++ zeros (n - l.length)

/-- `len` bytes from offset `ofs`, missing bytes zero. -/
def bytesAt (l : List Byte) (ofs len : Nat) : List Byte :=
  padTo len ((l.drop ofs).take len)

/-! ### Sorting -/

/-- An element put into a sorted list, before those that are not less. -/
def insertBy {α : Type} (le : α → α → Bool) (x : α) : List α → List α
  | [] => [x]
  | y :: r => if le x y then x :: y :: r else y :: insertBy le x r

/-- A list sorted by `le`; elements that are alike keep their order. -/
def sortBy {α : Type} (le : α → α → Bool) (l : List α) : List α := l.foldr (insertBy le) []

@[simp] theorem mem_insertBy {α : Type} (le : α → α → Bool) (x a : α) (l : List α) : a ∈ insertBy le x l ↔ a = x ∨ a ∈ l := by
  induction l with
  | nil => simp [insertBy]
  | cons y r ih =>
    unfold insertBy
    split
    · simp
    · simp only [List.mem_cons, ih, or_left_comm]

@[simp] theorem mem_sortBy {α : Type} (le : α → α → Bool) (a : α) (l : List α) : a ∈ sortBy le l ↔ a ∈ l := by
  induction l with
  | nil => simp [sortBy]
  | cons y r ih => rw [List.mem_cons, ← ih]; exact mem_insertBy le y a _

/-- A little-endian field of an image section. -/
def leAt (l : List Byte) (ofs len : Nat) : Nat := leNat (bytesAt l ofs len)

/-- A big-endian field of a geometry descriptor or a tape structure. -/
def beAt (l : List Byte) (ofs len : Nat) : Nat := beNat (bytesAt l ofs len)

/-- A number of `bits` bits read in two's complement. -/
def signed (bits v : Nat) : Int :=
  if v < 2 ^ (bits - 1) then (v : Int) else (v : Int) - 2 ^ bits

/-- The two's complement code of an integer in `bits` bits. -/
def unsigned (bits : Nat) (v : Int) : Nat := (v % (2 ^ bits : Int)).toNat

/-- Saturation of an integer to a signed word of 32 bits (R224, step 4). -/
def sat32 (v : Int) : Word :=
  BitVec.ofInt 32 (if v > 2147483647 then 2147483647 else if v < -2147483648 then -2147483648 else v)

/-- Saturation to a signed accumulator of 64 bits (R224, step 3). -/
def sat64 (v : Int) : Int :=
  if v > 9223372036854775807 then 9223372036854775807
  else if v < -9223372036854775808 then -9223372036854775808 else v

/-- Bits [lo + len - 1 : lo] of a word, as a number (R6). -/
def bits {w : Nat} (x : BitVec w) (lo len : Nat) : Nat := (x.extractLsb' lo len).toNat

/-- `len` bytes of a command's CDW from entry offset 0x20 + `ofs`, as a number (Table 10.1, R5). -/
def cdwAt (x : BitVec 256) (ofs len : Nat) : Nat := bits x (8 * ofs) (8 * len)

/-- The bytes of a CDW field in their order. -/
def cdwBytes (x : BitVec 256) (ofs len : Nat) : List Byte := leBytes len (cdwAt x ofs len)

/-- The bits of a byte string, each byte most significant bit first (R86, R286). -/
def bitsOf (l : List Byte) : List Bool :=
  l.flatMap fun b => (List.range 8).map fun i => b.getLsbD (7 - i)

/-- The number spelt by bits, most significant first. -/
def natOfBits (l : List Bool) : Nat :=
  l.foldl (fun a b => 2 * a + b.toNat) 0

/-- `n` bits of a number, most significant first. -/
def bitsOfNat : Nat → Nat → List Bool
  | 0, _ => []
  | n + 1, v => v.testBit n :: bitsOfNat n v

/-- A list cut into pieces of `n` (the last may be shorter); at most `k` pieces. -/
def chunks {α : Type} (n : Nat) : Nat → List α → List (List α)
  | 0, _ => []
  | k + 1, l => if l.isEmpty then [] else l.take n :: chunks n k (l.drop n)

/-- Bytes spelt by bits, eight at a time. -/
def bytesOfBits (l : List Bool) : List Byte :=
  (chunks 8 (l.length / 8 + 1) l).map fun c => BitVec.ofNat 8 (natOfBits c)

/-- The element at `i` changed by `f`. -/
def modAt {α : Type} (l : List α) (i : Nat) (f : α → α) : List α :=
  l.mapIdx fun j x => if j = i then f x else x

/-- The first element that satisfies `p` changed by `f`. -/
def modFirst {α : Type} (p : α → Bool) (f : α → α) : List α → List α
  | [] => []
  | x :: r => if p x then f x :: r else x :: modFirst p f r

/-- The first element that satisfies `p` removed. -/
def dropFirst {α : Type} (p : α → Bool) : List α → List α
  | [] => []
  | x :: r => if p x then r else x :: dropFirst p r

/-- Division rounded up. -/
def ceilDiv (a b : Nat) : Nat := (a + b - 1) / b

/-- The bytes of a 48-byte string, or 48 zeros when it is empty (pins, PROV). -/
def str48 (l : List Byte) : List Byte := padTo 48 l

end Sys2Proof.Machine
end

