-- ==== Sys2Proof/Machine/Codes.lean ====
section
/-!
DEFINITION. The codes of the chapters Error Correction on Tape, Buffer Memory, Control Stores and Trace Queues: CRCs,
Galois fields, Reed-Solomon encoding and decoding, the 32/33 code, the header code, the page code, the control-store
code and the trace words' check.
-/
namespace Sys2Proof.Machine

/-! ### CRCs -/

/-- One bit into a CRC register of `w` bits with generator `g` (top bit left out), most significant bit first. -/
def crcStep (w g : Nat) (r : Nat) (b : Bool) : Nat :=
  let top := r.testBit (w - 1) != b
  let s := (r <<< 1) % 2 ^ w
  if top then s ^^^ g else s

/-- The row-header CRC-16 of R83: generator 0x1021, preset 0xFFFF, no reflection, no inversion. -/
def crc16 (l : List Bool) : Nat := l.foldl (crcStep 16 0x1021) 0xFFFF

/-- The LPOS word's CRC-8 of Table 7.3: x^8 + x^2 + x + 1, preset 0. -/
def crc8 (l : List Bool) : Nat := l.foldl (crcStep 8 0x07) 0

/-- One byte into a reflected CRC-32C register (RFC 3720, log 6). -/
def crc32cByte (r : Nat) (b : Byte) : Nat :=
  (List.range 8).foldl (fun x _ => if x % 2 = 1 then (x / 2) ^^^ 0x82F63B78 else x / 2) (r ^^^ b.toNat)

/-- CRC-32C as R52 and R74 use it. -/
def crc32c (l : List Byte) : Nat := (l.foldl crc32cByte 0xFFFFFFFF) ^^^ 0xFFFFFFFF

/-! ### Galois fields (R84, R286) -/

/-- A field GF(2^bits) by its primitive polynomial. -/
structure GF where
  size : Nat
  poly : Nat
  deriving DecidableEq, Repr

/-- GF(2^10) of C1 and C2 (Table 3.3). -/
def gf10 : GF := ⟨10, 0x409⟩
/-- GF(2^8) of C3 and of the control-store code (Table 3.3, R381). -/
def gf8 : GF := ⟨8, 0x11D⟩
/-- GF(2^16) of the page code (R286). -/
def gf16 : GF := ⟨16, 0x1100B⟩

/-- Multiplication by x. -/
def GF.xtime (f : GF) (a : Nat) : Nat :=
  let s := a <<< 1
  if s.testBit f.size then s ^^^ f.poly else s

/-- Product of two elements, from the top bit of `b` down. -/
def GF.mul (f : GF) (a b : Nat) : Nat :=
  (List.range f.size).foldl (fun acc i => f.xtime acc ^^^ (if b.testBit (f.size - 1 - i) then a else 0)) 0

/-- Powers. -/
def GF.pow (f : GF) (a : Nat) : Nat → Nat
  | 0 => 1
  | n + 1 => f.mul a (f.pow a n)

/-- a^(2^n): repeated squaring. -/
def GF.sq (f : GF) (a : Nat) : Nat → Nat
  | 0 => a
  | n + 1 => let s := f.sq a n; f.mul s s

/-- The inverse a^(2^m - 2) of a non-zero element. -/
def GF.inv (f : GF) (a : Nat) : Nat :=
  (List.range (f.size - 1)).foldl (fun acc i => f.mul acc (f.sq a (i + 1))) 1

/-- The value of a polynomial (coefficients from x^0 up) at x. -/
def GF.eval (f : GF) (p : List Nat) (x : Nat) : Nat :=
  p.foldr (fun c acc => f.mul acc x ^^^ c) 0

/-- Sum of two polynomials. -/
def polyAdd : List Nat → List Nat → List Nat
  | [], q => q
  | p, [] => p
  | a :: p, b :: q => (a ^^^ b) :: polyAdd p q

/-- Product of two polynomials. -/
def GF.polyMul (f : GF) (p q : List Nat) : List Nat :=
  p.foldr (fun c acc => polyAdd (q.map (f.mul c)) (0 :: acc)) []

/-- The degree, with the zero polynomial at 0. -/
def polyDeg (p : List Nat) : Nat :=
  (p.reverse.dropWhile (· == 0)).length - 1

/-- Formal derivative. -/
def polyDeriv (p : List Nat) : List Nat :=
  (p.mapIdx fun i c => if i % 2 = 1 then c else 0).drop 1

/-! ### Reed-Solomon codes (R85, R91, R95, R101) -/

/-- The generator (x + a^0) ... (x + a^(r-1)), coefficients from x^0 up. -/
def rsGen (f : GF) (a r : Nat) : List Nat :=
  (List.range r).foldl (fun g i => f.polyMul g [f.pow a i, 1]) [1]

/-- Systematic parity of a message given from its highest coefficient down: the r remainder symbols, highest first. -/
def rsParity (f : GF) (gen : List Nat) (msg : List Nat) : List Nat :=
  let r := gen.length - 1
  let low := (gen.take r).reverse
  msg.foldl (fun st m =>
    let fb := m ^^^ st.headD 0
    List.zipWith (fun s g => s ^^^ f.mul fb g) (st.drop 1 ++ [0]) low) (List.replicate r 0)

/-- Syndromes S_i = w(a^i) of a word given from its highest coefficient down. -/
def rsSyndromes (f : GF) (a r : Nat) (w : List Nat) : List Nat :=
  (List.range r).map fun i => let x := f.pow a i; w.foldl (fun acc c => f.mul acc x ^^^ c) 0

/-- The erasure locator: the product of (1 + X x) over the erased coefficients. -/
def rsLocator (f : GF) (a : Nat) (erased : List Nat) : List Nat :=
  erased.foldl (fun g j => f.polyMul g [1, f.pow a j]) [1]

/-- Berlekamp-Massey from the erasure locator: the error-and-erasure locator and its length. -/
def rsMassey (f : GF) (r : Nat) (syn : List Nat) (fe : Nat) (g0 : List Nat) : List Nat × Nat :=
  let st := (List.range (r - fe)).foldl (fun (st : List Nat × List Nat × Nat) k0 =>
    let k := fe + k0
    let lam := st.1
    let b := st.2.1
    let len := st.2.2
    let d := (lam.mapIdx fun i c => if i ≤ k then f.mul c (syn.getD (k - i) 0) else 0).foldl (· ^^^ ·) 0
    if d = 0 then (lam, 0 :: b, len)
    else
      let t := polyAdd lam (0 :: b.map (f.mul d))
      if 2 * len ≤ k + fe then (t, lam.map (f.mul (f.inv d)), k + 1 + fe - len)
      else (t, 0 :: b, len)) (g0, g0, fe)
  (st.1, st.2.2)

/-- What a Reed-Solomon decoder answers: the corrected word (highest coefficient first) and the number e of errors. -/
structure RsOk where
  word : List Nat
  errs : Nat
  deriving DecidableEq, Repr

/-- Error-and-erasure decoding of R95: erasures are coefficient indices; accepted only when 2e + f is at most r, e at
most `limit`, the locator has as many distinct roots among the word's positions as its degree, and the corrected word
has zero syndromes. -/
def rsDecode (f : GF) (a r limit : Nat) (w : List Nat) (erased : List Nat) : Option RsOk :=
  let n := w.length
  let fe := erased.length
  if fe > r then none
  else
    let syn := rsSyndromes f a r w
    let ml := rsMassey f r syn fe (rsLocator f a erased)
    let lam := ml.1
    let len := ml.2
    let roots := (List.range n).filter fun j => f.eval lam (f.inv (f.pow a j)) == 0
    if roots.length != len || polyDeg lam != len then none
    else
      let omega := (f.polyMul syn lam).take r
      let der := polyDeriv lam
      let fix := roots.map fun j =>
        let x := f.pow a j
        let xi := f.inv x
        (j, f.mul x (f.mul (f.eval omega xi) (f.inv (f.eval der xi))))
      let w' := w.mapIdx fun i c =>
        match fix.find? (fun p => p.1 == n - 1 - i) with
        | some p => c ^^^ p.2
        | none => c
      let e := (fix.filter fun p => !(erased.contains p.1) && p.2 != 0).length
      if 2 * e + fe ≤ r ∧ e ≤ limit ∧ (rsSyndromes f a r w').all (· == 0) then some ⟨w', e⟩ else none

/-- Generator of C1 and C2 (R85). -/
def c12Gen : List Nat := rsGen gf10 2 32

/-- C1 parity of a row's 464 symbols (R86). -/
def c1Parity (s : List Nat) : List Nat := rsParity gf10 c12Gen s

/-- C2 parity of one codeword's 480 symbols (R87, R88). -/
def c2Parity (s : List Nat) : List Nat := rsParity gf10 c12Gen s

/-- C3 parity of the 32 bytes at one byte position (R91), P bytes. -/
def c3Parity (p : Nat) (s : List Nat) : List Nat := rsParity gf8 (rsGen gf8 2 p) s

/-! ### The frame code (R168, R169) -/

/-- Generator of RS(544,514). -/
def frameGen : List Nat := rsGen gf10 2 30

/-- The symbols of some line or message bits, first sent first. -/
def frameSymbols {w : Nat} (x : BitVec w) : List Nat := (chunks 10 (w / 10) (bitsOfNat w x.toNat)).map natOfBits

/-- The bits of some symbols. -/
def symbolBits (l : List Nat) : Nat := natOfBits (l.flatMap (bitsOfNat 10))

/-- The codeword of a frame's message: message bit m(i) is bit 5139 - i, and the parity symbols follow (R169, R170). -/
def lineOf (m : BitVec 5140) : BitVec 5440 := m ++ BitVec.ofNat 300 (symbolBits (rsParity gf10 frameGen (frameSymbols m)))

/-- A received word corrected: its message and the number of symbols corrected, at most 15; none where it cannot be (R169). -/
def lineDecode (x : BitVec 5440) : Option (BitVec 5140 × Nat) :=
  let m := x.extractLsb' 300 5140
  if lineOf m = x then some (m, 0)
  else (rsDecode gf10 2 30 15 (frameSymbols x) []).map fun r => (BitVec.ofNat 5140 (symbolBits (r.word.take 514)), r.errs)

/-- A frame read from its own codeword needs no correction. -/
theorem lineDecode_lineOf (m : BitVec 5140) : lineDecode (lineOf m) = some (m, 0) := by
  have h : (lineOf m).extractLsb' 300 5140 = m := by
    unfold lineOf
    rw [BitVec.extractLsb'_append_eq_of_le (by decide)]
    simp
  simp [lineDecode, h]

/-- The first bit of each PAM4 symbol of a frame: inverting a pair's polarity flips it, for the Gray-coded levels 00, 01, 11,
10 then change places end for end (R168). -/
def pamFirst : BitVec 5440 := BitVec.ofNat 5440 (2 * (4 ^ 2720 - 1) / 3)

/-- Line bits at a pair, with its polarity setting (R168). -/
def polarity (inverted : Bool) (x : BitVec 5440) : BitVec 5440 := if inverted then x ^^^ pamFirst else x

/-- Inverting twice gives the line bits back. -/
@[simp] theorem polarity_polarity (b : Bool) (x : BitVec 5440) : polarity b (polarity b x) = x := by
  cases b <;> simp [polarity, BitVec.xor_assoc]

/-- The C1 symbols of a row's 580 data bytes (R86). -/
def rowSymbols (b : List Byte) : List Nat :=
  (chunks 10 464 (bitsOf b)).map natOfBits

/-- The 580 data bytes of a row's first 464 symbols (R86). -/
def rowBytes (s : List Nat) : List Byte :=
  bytesOfBits ((s.take 464).flatMap (bitsOfNat 10))

/-! ### The 32/33 code and the header code (R79-R82) -/

/-- The counts `completions(r, z, seen)` of R80 for one r: by z for seen = false, and for seen = true. -/
def compRow : Nat → List Nat × List Nat
  | 0 => ((List.range 15).map fun z => if z ≤ 6 then 1 else 0, (List.range 15).map fun z => if z ≤ 6 then 1 else 0)
  | r + 1 =>
    let p := compRow r
    let one := p.2.getD 0 0
    ((List.range 15).map fun z => one + (if z < 6 then p.1.getD (z + 1) 0 else 0),
     (List.range 15).map fun z => one + (if z < 12 then p.2.getD (z + 1) 0 else 0))

/-- `zero_count(i, z, seen)` of R80. -/
def zeroCount (i z : Nat) (seen : Bool) : Nat :=
  if (seen && z < 12) || (!seen && z < 6) then
    let p := compRow (32 - i)
    if seen then p.2.getD (z + 1) 0 else p.1.getD (z + 1) 0
  else 0

/-- The valid 33-cell pattern of rank d (R80). -/
def encode33 (d : Nat) : List Bool :=
  ((List.range 33).foldl (fun (st : Nat × Nat × Bool × List Bool) i =>
    let n0 := zeroCount i st.2.1 st.2.2.1
    if st.1 < n0 then (st.1, st.2.1 + 1, st.2.2.1, false :: st.2.2.2)
    else (st.1 - n0, 0, true, true :: st.2.2.2)) (d, 0, false, [])).2.2.2.reverse

/-- The value of a pattern, or none when it is invalid (R80). -/
def decode33 (cells : List Bool) : Option Nat :=
  let st := (cells.mapIdx fun i c => (i, c)).foldl (fun (st : Option (Nat × Nat × Bool)) ic =>
    match st with
    | none => none
    | some (d, z, seen) =>
      let n0 := zeroCount ic.1 z seen
      if ic.2 then some (d + n0, 0, true)
      else if n0 = 0 then none else some (d, z + 1, seen)) (some (0, 0, false))
  match st with
  | some (d, z, _) => if z > 6 ∨ d ≥ 2 ^ 32 then none else some d
  | none => none

/-- The 64 cells of 48 header bits, bit 47 first (R79). -/
def encodeHeader (h : List Bool) : List Bool :=
  (chunks 3 16 h).flatMap fun g => [g.getD 0 false, true, g.getD 1 false, g.getD 2 false]

/-- The header bits of 64 cells, or none when a word's second cell is 0 (R79). -/
def decodeHeader (c : List Bool) : Option (List Bool) :=
  let ws := chunks 4 16 c
  if ws.all fun w => w.getD 1 false then
    some (ws.flatMap fun w => [w.getD 0 false, w.getD 2 false, w.getD 3 false])
  else none

/-- The sync mark 0x8002_000A of R45, first cell first. -/
def syncMark : List Bool := bitsOfNat 32 0x8002000A

/-- The postamble of R45. -/
def postamble : List Bool := [true, false, true, false, true]

/-- The C1 symbols that block j carries (R81). -/
def blockSymbols (j : Nat) : List Nat :=
  (List.range 4).map fun i => 32 * j / 10 + i

/-! ### The page code (R286) -/

/-- Remainder of a binary polynomial (as a number) by g, `n` being an upper bound on the bits of the dividend. -/
def binMod (g dg : Nat) : Nat → Nat → Nat
  | 0, v => v
  | n + 1, v => binMod g dg n (if n ≥ dg && v.testBit n then v ^^^ (g <<< (n - dg)) else v)

/-- Product of binary polynomials; `n` bounds the bits of b. -/
def binMul (a b n : Nat) : Nat :=
  (List.range n).foldl (fun acc i => if b.testBit i then acc ^^^ (a <<< i) else acc) 0

/-- The minimal polynomial of the k-th power of the field's element 2, as a binary polynomial. -/
def minPoly (f : GF) (k : Nat) : Nat :=
  let a := f.pow 2 k
  let cs := ((List.range f.size).map (f.sq a)).eraseDups
  let p := cs.foldl (fun g c => f.polyMul g [c, 1]) [1]
  (p.mapIdx fun i c => if c = 1 then 2 ^ i else 0).foldl (· + ·) 0

/-- The generator of the page code: the product of the distinct minimal polynomials of the odd powers up to 2t - 1. -/
def pageGen (t : Nat) : Nat :=
  (((List.range t).map fun i => minPoly gf16 (2 * i + 1)).eraseDups).foldl (fun g m => binMul g m 17) 1

/-- The 16t parity bits of a page: 4,096 data bytes, then sideband bytes 0x00 to 0x1F (R286), as 2t bytes. -/
def pageParity (t : Nat) (msg : List Byte) : List Byte :=
  beBytes (2 * t) (binMod (pageGen t) (16 * t) (33024 + 16 * t) (natOfBits (bitsOf msg) <<< (16 * t)))

/-- The bits that the page decoder corrects, as places in the code word from its first bit, where the bits `flips` of a word were read
wrong; none where it finds no word within t bits (R286). The code is linear, so the error pattern alone tells: up to t wrong bits are
found, and with more of them the decoder finds another word or none (DEDUCED, log 19). -/
def pageErrors (t : Nat) (flips : List Nat) : Option (List Nat) :=
  let n := 33024 + 16 * t
  let e := flips.eraseDups.filter (· < n)
  if e.length ≤ t then some e
  else
    let syn := (List.range (2 * t)).map fun j => e.foldl (fun a p => a ^^^ gf16.pow 2 ((j + 1) * (n - 1 - p))) 0
    let ml := rsMassey gf16 (2 * t) syn 0 [1]
    let roots := (List.range n).filter fun p => gf16.eval ml.1 (gf16.inv (gf16.pow 2 (n - 1 - p))) == 0
    if ml.2 ≤ t ∧ roots.length = ml.2 ∧ polyDeg ml.1 = ml.2 then some roots else none

/-- Bytes with some of their bits inverted, counted from the first byte's most significant bit. -/
def flipBits (l : List Byte) (ps : List Nat) : List Byte :=
  l.mapIdx fun i x => x ^^^ BitVec.ofNat 8 ((List.range 8).foldl (fun a j => 2 * a + if ps.contains (8 * i + j) then 1 else 0) 0)

/-! ### The control-store code (R381) -/

/-- G(x) = (x + 1) m1(x) m3(x). -/
def storeGen : Nat := binMul (binMul (minPoly gf8 1) (minPoly gf8 3) 9) 3 2

/-- The remainder of a stored word by G; zero for a valid word. Word bit i of the microword is x^(16+i). -/
def storeSyndrome (w : BitVec 144) : Nat := binMod storeGen 17 144 w.toNat

/-- The stored word of a 128-bit microword whose bit 0 is ignored: PAR and the check bits appended (R381). -/
def storeEncode (m : BitVec 128) : BitVec 144 :=
  let msg := (m.toNat / 2) <<< 17
  BitVec.ofNat 144 (msg ^^^ binMod storeGen 17 144 msg)

/-- What the decoder makes of a stored word (R381): the word with up to two bits corrected and their number, or none. -/
def storeDecode (w : BitVec 144) : Option (BitVec 144 × Nat) :=
  let s := storeSyndrome w
  if s = 0 then some (w, 0)
  else
    let singles := (List.range 144).map fun i => (i, binMod storeGen 17 144 (2 ^ i))
    match singles.find? (fun p => p.2 == s) with
    | some p => some (w ^^^ BitVec.ofNat 144 (2 ^ p.1), 1)
    | none =>
      match singles.findSome? (fun p => (singles.find? fun q => q.1 > p.1 && (q.2 ^^^ p.2) == s).map fun q => (p.1, q.1)) with
      | some (i, j) => some (w ^^^ BitVec.ofNat 144 (2 ^ i ^^^ 2 ^ j), 2)
      | none => none

/-! ### The trace word's check (R425) -/

/-- The positions of the protected bits: those of 1 to 72 that are no power of two, ascending. -/
def secdedPos : List Nat :=
  ((List.range 73).drop 1).filter fun p => !([1, 2, 4, 8, 16, 32, 64].contains p)

/-- Check bits [6:0] of 65 protected bits: data 0 to 63, then the end mark. -/
def secdedLow (prot : List Bool) : Nat :=
  (List.range 7).foldl (fun acc j =>
    let x := (List.zip secdedPos prot).foldl (fun b pb => if pb.1.testBit j then b != pb.2 else b) false
    acc + x.toNat * 2 ^ j) 0

/-- The eight check bits of R425. -/
def secded (data : BitVec 64) (last : Bool) : BitVec 8 :=
  let prot := ((List.range 64).map fun i => data.getLsbD i) ++ [last]
  let low := secdedLow prot
  let all := (prot ++ bitsOfNat 7 low).foldl (fun b x => b != x) false
  BitVec.ofNat 8 (low + all.toNat * 128)

/-- Reading a trace word out (R425): none for a double error, else the word's data and end mark and whether it was
corrected. -/
def secdedRead (data : BitVec 64) (last : Bool) (check : BitVec 8) : Option (BitVec 64 × Bool × Bool) :=
  let prot := ((List.range 64).map fun i => data.getLsbD i) ++ [last]
  let syn := secdedLow prot ^^^ (check.toNat % 128)
  let par := (prot ++ bitsOfNat 8 check.toNat).foldl (fun b x => b != x) false
  if syn = 0 then some (data, last, par)
  else if !par then none
  else
    match (List.zip secdedPos (List.range 65)).find? (fun p => p.1 == syn) with
    | some (_, 64) => some (data, !last, true)
    | some (_, i) => some (data ^^^ BitVec.ofNat 64 (2 ^ i), last, true)
    | none => if [1, 2, 4, 8, 16, 32, 64].contains syn then some (data, last, true) else none

end Sys2Proof.Machine
end

