-- ==== Sys2Proof/Machine/Crypto.lean ====
section
/-!
DEFINITION. The primitives the spec names by their standards and gives no text of (PRESUMED, log 6): SHA-384
(FIPS 180-4), AES-256 (FIPS 197), GCM (SP 800-38D), AES-KW (SP 800-38F), XXH64. Signatures, key encapsulation and
certificate checks are uninterpreted (Config).
-/
namespace Sys2Proof.Machine

/-! ### SHA-384 -/

/-- The first n primes above 1, by trial division. -/
def primesTo (n : Nat) : List Nat :=
  (List.range n).filter fun p => p ≥ 2 && ((List.range p).drop 2).all fun d => p % d != 0

/-- The first 80 primes. -/
def primes80 : List Nat := primesTo 410

/-- Largest r of at most `k` bits with r^e at most x. -/
def iroot (e x : Nat) : Nat → Nat → Nat
  | 0, r => r
  | k + 1, r => iroot e x k (if (r + 2 ^ k) ^ e ≤ x then r + 2 ^ k else r)

/-- The 80 round constants: fractional parts of cube roots of primes. -/
def shaK : List (BitVec 64) := primes80.map fun p => BitVec.ofNat 64 (iroot 3 (p * 2 ^ 192) 68 0)

/-- SHA-384's initial value: fractional parts of square roots of the ninth to sixteenth primes. -/
def sha384Init : List (BitVec 64) :=
  ((primes80.drop 8).take 8).map fun p => BitVec.ofNat 64 (iroot 2 (p * 2 ^ 128) 68 0)

/-- Message padding to 128-byte blocks. -/
def shaPad (m : List Byte) : List Byte :=
  m ++ 0x80 :: zeros ((239 - m.length % 128) % 128) ++ beBytes 16 (8 * m.length)

/-- The message schedule, newest word first. -/
def shaSched (block : List Byte) : List (BitVec 64) :=
  let w0 := ((chunks 8 16 block).map fun c => BitVec.ofNat 64 (beNat c)).reverse
  ((List.range 64).foldl (fun (w : List (BitVec 64)) _ =>
    let a := w.getD 14 0
    let b := w.getD 1 0
    let s0 := a.rotateRight 1 ^^^ a.rotateRight 8 ^^^ (a >>> 7)
    let s1 := b.rotateRight 19 ^^^ b.rotateRight 61 ^^^ (b >>> 6)
    (w.getD 15 0 + s0 + w.getD 6 0 + s1) :: w) w0)

/-- One block of compression. -/
def shaBlock (h : List (BitVec 64)) (block : List Byte) : List (BitVec 64) :=
  let r := (List.zip shaK (shaSched block).reverse).foldl (fun (v : List (BitVec 64)) kw =>
    let a := v.getD 0 0
    let e := v.getD 4 0
    let s1 := e.rotateRight 14 ^^^ e.rotateRight 18 ^^^ e.rotateRight 41
    let ch := (e &&& v.getD 5 0) ^^^ (~~~e &&& v.getD 6 0)
    let t1 := v.getD 7 0 + s1 + ch + kw.1 + kw.2
    let s0 := a.rotateRight 28 ^^^ a.rotateRight 34 ^^^ a.rotateRight 39
    let mj := (a &&& v.getD 1 0) ^^^ (a &&& v.getD 2 0) ^^^ (v.getD 1 0 &&& v.getD 2 0)
    [t1 + s0 + mj, a, v.getD 1 0, v.getD 2 0, v.getD 3 0 + t1, e, v.getD 5 0, v.getD 6 0]) h
  List.zipWith (· + ·) h r

/-- SHA-384 of a byte string. -/
def sha384 (m : List Byte) : List Byte :=
  let p := shaPad m
  (((chunks 128 (p.length / 128) p).foldl shaBlock sha384Init).flatMap fun w => beBytes 8 w.toNat).take 48

/-! ### AES-256 -/

/-- The field of AES. -/
def gfAes : GF := ⟨8, 0x11B⟩

/-- Rotation of a byte to the left. -/
def rotl8 (b n : Nat) : Nat := ((b <<< n) ||| (b >>> (8 - n))) % 256

/-- The S-box. -/
def aesS (b : Byte) : Byte :=
  let v := if b = 0 then 0 else gfAes.inv b.toNat
  BitVec.ofNat 8 (v ^^^ rotl8 v 1 ^^^ rotl8 v 2 ^^^ rotl8 v 3 ^^^ rotl8 v 4 ^^^ 0x63)

/-- The S-box as a list. -/
def aesSbox : List Byte := (List.range 256).map fun i => aesS (BitVec.ofNat 8 i)

/-- Substitution. -/
def aesSub (b : Byte) : Byte := aesSbox.getD b.toNat 0

/-- Inverse substitution. -/
def aesInvSub (b : Byte) : Byte := BitVec.ofNat 8 (aesSbox.idxOf b)

/-- Key schedule: 60 words of 4 bytes, newest first. -/
def aesWords (key : List Byte) : List (List Byte) :=
  (List.range 52).foldl (fun (w : List (List Byte)) i0 =>
    let i := i0 + 8
    let t := w.headD []
    let t := if i % 8 = 0 then
        List.zipWith (· ^^^ ·) ((t.drop 1 ++ t.take 1).map aesSub) [BitVec.ofNat 8 (gfAes.pow 2 (i / 8 - 1)), 0, 0, 0]
      else if i % 8 = 4 then t.map aesSub else t
    List.zipWith (· ^^^ ·) (w.getD 7 []) t :: w) (chunks 4 8 key).reverse

/-- The fifteen round keys. -/
def aesKeys (key : List Byte) : List (List Byte) :=
  (chunks 4 15 (aesWords key).reverse).map List.flatten

/-- One column through a matrix whose first row is m. -/
def aesMix (m : List Nat) (c : List Byte) : List Byte :=
  (List.range 4).map fun r =>
    BitVec.ofNat 8 ((List.range 4).foldl (fun a k => a ^^^ gfAes.mul (m.getD ((k + 4 - r) % 4) 0) (c.getD k 0).toNat) 0)

/-- Row shift: byte 4c + r comes from column c + s r. -/
def aesShift (s : Nat) (b : List Byte) : List Byte :=
  (List.range 16).map fun i => b.getD (4 * ((i / 4 + s * (i % 4)) % 4) + i % 4) 0

/-- XOR of byte strings. -/
def xorBytes (a b : List Byte) : List Byte := List.zipWith (· ^^^ ·) a b

/-- AES-256 encryption of a block under its round keys. -/
def aesEnc (ks : List (List Byte)) (b : List Byte) : List Byte :=
  (ks.drop 1).zipIdx.foldl (fun s ki =>
    let t := aesShift 1 (s.map aesSub)
    xorBytes (if ki.2 < 13 then ((chunks 4 4 t).map (aesMix [2, 3, 1, 1])).flatten else t) ki.1) (xorBytes b (ks.headD []))

/-- AES-256 decryption of a block. -/
def aesDec (ks : List (List Byte)) (b : List Byte) : List Byte :=
  let rk := ks.reverse
  (rk.drop 1).zipIdx.foldl (fun s ki =>
    let t := xorBytes ((aesShift 3 s).map aesInvSub) ki.1
    if ki.2 < 13 then ((chunks 4 4 t).map (aesMix [14, 11, 13, 9])).flatten else t) (xorBytes b (rk.headD []))

/-! ### GCM and key wrap -/

/-- Product in GCM's field, on numbers whose top bit is the first. -/
def gcmMul (x y : Nat) : Nat :=
  ((List.range 128).foldl (fun (zv : Nat × Nat) i =>
    (if x.testBit (127 - i) then zv.1 ^^^ zv.2 else zv.1,
     if zv.2 % 2 = 1 then (zv.2 / 2) ^^^ (0xE1 <<< 120) else zv.2 / 2)) (0, y)).1

/-- GHASH of whole blocks. -/
def ghash (h : Nat) (l : List Byte) : Nat :=
  (chunks 16 (l.length / 16 + 1) l).foldl (fun y b => gcmMul (y ^^^ beNat (padTo 16 b)) h) 0

/-- Zero fill to a multiple of 16. -/
def pad16 (l : List Byte) : List Byte := l ++ zeros ((16 - l.length % 16) % 16)

/-- The key stream XORed onto a byte string, from counter value c. -/
def gcmCtr (ks : List (List Byte)) (iv : List Byte) (l : List Byte) : List Byte :=
  ((chunks 16 (l.length / 16 + 1) l).zipIdx).flatMap fun bi => xorBytes bi.1 (aesEnc ks (iv ++ beBytes 4 (bi.2 + 2)))

/-- The tag of a ciphertext under a 12-byte nonce. -/
def gcmTag (key iv aad ct : List Byte) : List Byte :=
  let ks := aesKeys key
  let h := beNat (aesEnc ks (zeros 16))
  let s := ghash h (pad16 aad ++ pad16 ct ++ beBytes 8 (8 * aad.length) ++ beBytes 8 (8 * ct.length))
  xorBytes (beBytes 16 s) (aesEnc ks (iv ++ [0, 0, 0, 1]))

/-- AES-256-GCM encryption: ciphertext and tag. -/
def gcmEncrypt (key iv aad pt : List Byte) : List Byte × List Byte :=
  let ct := gcmCtr (aesKeys key) iv pt
  (ct, gcmTag key iv aad ct)

/-- AES-256-GCM decryption, none where the tag fails. -/
def gcmDecrypt (key iv aad ct tag : List Byte) : Option (List Byte) :=
  if gcmTag key iv aad ct = tag then some (gcmCtr (aesKeys key) iv ct) else none

/-- AES-KW of a string of 8-byte words, with the default initial value. -/
def kwWrap (kek p : List Byte) : List Byte :=
  let ks := aesKeys kek
  let n := p.length / 8
  let r := (List.range (6 * n)).foldl (fun (ar : List Byte × List (List Byte)) t0 =>
    let i := t0 % n
    let b := aesEnc ks (ar.1 ++ ar.2.getD i [])
    (xorBytes (b.take 8) (beBytes 8 (t0 + 1)), ar.2.set i (b.drop 8))) (List.replicate 8 0xA6, chunks 8 n p)
  r.1 ++ r.2.flatten

/-- AES-KW unwrapping, none where the integrity check fails. -/
def kwUnwrap (kek c : List Byte) : Option (List Byte) :=
  let ks := aesKeys kek
  let n := c.length / 8 - 1
  let r := (List.range (6 * n)).foldl (fun (ar : List Byte × List (List Byte)) t0 =>
    let t := 6 * n - t0
    let i := (t - 1) % n
    let b := aesDec ks (xorBytes ar.1 (beBytes 8 t) ++ ar.2.getD i [])
    (b.take 8, ar.2.set i (b.drop 8))) (c.take 8, chunks 8 n (c.drop 8))
  if r.1 = List.replicate 8 0xA6 then some r.2.flatten else none

/-! ### XXH64 -/

/-- The primes of XXH64. -/
def xxP : Nat → BitVec 64
  | 1 => 0x9E3779B185EBCA87
  | 2 => 0xC2B2AE3D27D4EB4F
  | 3 => 0x165667B19E3779F9
  | 4 => 0x85EBCA77C2B2AE63
  | _ => 0x27D4EB2F165667C5

/-- One round. -/
def xxRound (acc v : BitVec 64) : BitVec 64 := ((acc + v * xxP 2).rotateLeft 31) * xxP 1

/-- Merge of an accumulator. -/
def xxMerge (h v : BitVec 64) : BitVec 64 := (h ^^^ xxRound 0 v) * xxP 1 + xxP 4

/-- A little-endian word. -/
def le64 (l : List Byte) : BitVec 64 := BitVec.ofNat 64 (leNat l)

/-- The last bytes of the input: words of 8, one of 4, single bytes. -/
def xxTail (h : BitVec 64) (l : List Byte) : BitVec 64 :=
  let h := (chunks 8 (l.length / 8) l).foldl (fun h c =>
    ((h ^^^ xxRound 0 (le64 c)).rotateLeft 27) * xxP 1 + xxP 4) h
  let r := l.drop (8 * (l.length / 8))
  let h4 := if r.length ≥ 4 then ((h ^^^ (le64 (r.take 4) * xxP 1)).rotateLeft 23) * xxP 2 + xxP 3 else h
  (if r.length ≥ 4 then r.drop 4 else r).foldl (fun h b => ((h ^^^ (b.zeroExtend 64 * xxP 5)).rotateLeft 11) * xxP 1) h4

/-- XXH64 with seed 0 (R150). -/
def xxh64 (l : List Byte) : BitVec 64 :=
  let n := l.length / 32
  let h0 :=
    if l.length < 32 then xxP 5
    else
      let v := (chunks 32 n l).foldl (fun (v : List (BitVec 64)) c =>
        List.zipWith xxRound v ((chunks 8 4 c).map le64)) [xxP 1 + xxP 2, xxP 2, 0, 0 - xxP 1]
      let a := v.getD 0 0
      let b := v.getD 1 0
      let c := v.getD 2 0
      let d := v.getD 3 0
      xxMerge (xxMerge (xxMerge (xxMerge (a.rotateLeft 1 + b.rotateLeft 7 + c.rotateLeft 12 + d.rotateLeft 18) a) b) c) d
  let h := xxTail (h0 + BitVec.ofNat 64 l.length) (l.drop (32 * n))
  let h := (h ^^^ (h >>> 33)) * xxP 2
  let h := (h ^^^ (h >>> 29)) * xxP 3
  h ^^^ (h >>> 32)

end Sys2Proof.Machine
end

