-- ==== Sys2Proof/Config.lean ====
section
/-!
DEFINITION. What one device fixes, and the values the spec leaves open: uninterpreted constants with no body, so that a
claim holds whatever they are (logs 5 to 8).
-/
namespace Sys2Proof.Config

/-- DEV_ID (Table 14.3). -/
def devId : BitVec 32 := 0x4C569608
/-- DEV_REV of silicon B0 (Table 14.3). -/
def devRev : BitVec 32 := 0xB0
/-- Features that silicon B0 supports: bits 0 to 7 (R378). -/
def features : BitVec 64 := 0xFF

/-- The device serial (SERIAL, Table 14.3). -/
opaque serial : BitVec 64
/-- The usable stations, as the fuses give them (STNMAP, Table 14.3; log 65). -/
opaque stnMap : BitVec 8
/-- The public halves of the device identity key (R253): ML-DSA-65, ECDSA P-384, ML-KEM-1024. -/
opaque devKey : Nat → List Byte
/-- What is signed of a device certificate: it names a subject serial number, the kind of key and the key (R254, log 6). -/
opaque devTbs : BitVec 64 → Nat → List Byte → List Byte
/-- The intermediate's public key of an algorithm: 0 ML-DSA-65, 1 ECDSA P-384 (R254). -/
opaque interKey : Nat → List Byte
/-- What is signed of the intermediate's certificate of an algorithm. -/
opaque interTbs : Nat → List Byte → List Byte
/-- The intermediate's signature of an algorithm. -/
opaque interSign : Nat → List Byte → List Byte
/-- The signature of Ronanger's root of an algorithm. -/
opaque rootSign : Nat → List Byte → List Byte
/-- Ronanger's root certificate of an algorithm, as published (R255). -/
opaque rootCert : Nat → List Byte
/-- The DER of the algorithm that signs a certificate. -/
opaque algId : Nat → List Byte
/-- The public key in what is signed of a certificate. -/
opaque tbsKey : List Byte → List Byte
/-- The subject serial number in what is signed of a certificate. -/
opaque tbsSerial : List Byte → Option Nat
/-- Whether the extended key usage of a certificate carries a purpose of Ronanger's: 0 image signing, 1 microcode signing (R366,
R384). -/
opaque tbsPurpose : List Byte → Nat → Bool

/-- A free value that the spec does not state, drawn with a fresh number (log 5). -/
opaque freeNat : Nat → Nat
/-- What a register of the ledger read-out reads as on a port that cannot reach the ledger (R16, log 144). -/
opaque cutRead : Nat → Nat
/-- Bytes drawn from the CTR_DRBG (R261, R263). -/
opaque drbg : Nat → List Byte
/-- The weights of the Huffman tree that the silicon builds for some literals, all but the last one; none where Huffman coding
would not shorten them. R154 fixes neither (log 7). -/
opaque huffTree : List Byte → Option (List Nat)
/-- An FSE-compressed form of more than 128 weights, without its header byte (R154, log 7). -/
opaque weightBytes : List Nat → List Byte
/-- Which of the states of a symbol an FSE stream ends with, for the sequences of a block and the table: 0 literal lengths, 1
offsets, 2 match lengths (log 7). -/
opaque lastState : List (Nat × Nat × Nat) → Nat → Nat
/-- Whether the n-th sequence of a block takes a repeat code where R149 leaves it free (log 7). -/
opaque repeats : List (Nat × Nat × Nat) → Nat → Bool
/-- The device's ML-DSA-65 signature over a byte string, in its hedged form with 32 bytes drawn (R273). -/
opaque signMl : List Byte → List Byte → List Byte
/-- The device's ECDSA P-384 signature over a byte string (R273). -/
opaque signEc : List Byte → List Byte
/-- The shared secret that decapsulating a ciphertext with the device's ML-KEM-1024 key yields (R258). -/
opaque decapsulate : List Byte → List Byte
/-- Whether an ML-DSA-65 signature verifies: key, message, signature. -/
opaque mlVerify : List Byte → List Byte → List Byte → Bool
/-- Whether an ECDSA P-384 signature verifies: key, message, signature. -/
opaque ecVerify : List Byte → List Byte → List Byte → Bool
/-- The logarithm of the flash's page size to base 2, which its SFDP tables give and the spec does not (R361, log 169). -/
opaque flashPage : Nat
/-- The skew set-point of a station, which R219 places in LOOPS and no field of LOOPS holds (log 33). -/
opaque skewSetPoint : Nat → BitVec 32

end Sys2Proof.Config
end

