-- ==== Sys2Proof/Machine/Certs.lean ====
section
/-!
DEFINITION. Certificates (08, R254, R255; 11, R366, R384): the device's identity, the order of a chain, and its way to a root. What
the to-be-signed part of a certificate says, and whether one signature verifies, are the opaque functions of Config (log 6).
-/
namespace Sys2Proof.Machine

/-! ### DER (X.690; PRESUMED, log 6) -/

/-- The length octets of DER. -/
def derLen (n : Nat) : List Byte :=
  if n < 128 then beBytes 1 n
  else if n < 256 then 0x81 :: beBytes 1 n
  else if n < 65536 then 0x82 :: beBytes 2 n else 0x84 :: beBytes 4 n

/-- An element of DER. -/
def derTlv (tag : Byte) (content : List Byte) : List Byte := tag :: derLen content.length ++ content

/-- Octets before the content of the element that begins a byte string, and the length of the content. -/
def derHead (b : List Byte) : Nat × Nat :=
  let n := beAt b 1 1
  if n < 128 then (2, n) else (2 + (n - 128), beAt b 2 (n - 128))

/-- The element that begins a byte string, its content, and what follows it. -/
def derNext (b : List Byte) : Option (List Byte × List Byte × List Byte) :=
  let h := derHead b
  if b.length < 2 ∨ b.length < h.1 + h.2 then none else some (b.take (h.1 + h.2), bytesAt b h.1 h.2, b.drop (h.1 + h.2))

/-- A certificate as a check takes it apart: the part that is signed, and the signature. -/
structure Cert where
  tbs : List Byte
  sig : List Byte
  deriving DecidableEq, Repr

/-- A certificate: a sequence of what is signed, the algorithm, and a bit string. -/
def derCert (tbs : List Byte) (alg : Nat) (sig : List Byte) : List Byte :=
  derTlv 0x30 (tbs ++ Config.algId alg ++ derTlv 0x03 (0 :: sig))

/-- The certificate in the content of a sequence. -/
def certOf (content : List Byte) : Option Cert :=
  (derNext content).bind fun t => (derNext t.2.2).bind fun a => (derNext a.2.2).map fun s => ⟨t.1, s.2.1.drop 1⟩

/-- The certificates of a chain of exactly `n`. -/
def certsIn : Nat → List Byte → Option (List Cert)
  | 0, b => if b.isEmpty then some [] else none
  | n + 1, b => (derNext b).bind fun x => (certOf x.2.1).bind fun c => (certsIn n x.2.2).map (c :: ·)

/-! ### The device's identity (R254, R255) -/

/-- The signature algorithm of a certificate of the device: ECDSA P-384 (1) for its ECDSA key, ML-DSA-65 (0) for the others. -/
def devAlg (n : Nat) : Nat := if n = 1 then 1 else 0

/-- A certificate of the device, in the order ML-DSA-65, ECDSA P-384, ML-KEM-1024: it names the serial and the key, and the
intermediate of its algorithm has signed it (R254). -/
def devCert (n : Nat) : List Byte :=
  let tbs := Config.devTbs Config.serial n (Config.devKey n)
  derCert tbs (devAlg n) (Config.interSign (devAlg n) tbs)

/-- The intermediate's certificate of an algorithm, signed by Ronanger's root of the same algorithm (R254). -/
def interCert (alg : Nat) : List Byte :=
  let tbs := Config.interTbs alg (Config.interKey alg)
  derCert tbs alg (Config.rootSign alg tbs)

/-- The certificates of IDENTIFY and CCHAIN, in their order (R255, R256, Table 10.18). -/
def certs : List (List Byte) := [devCert 0, devCert 1, devCert 2, interCert 0, interCert 1]

/-- What the vault holds of Ronanger's roots: the SHA-384 of each (R255). No command changes it. -/
def vaultRoots : List (List Byte) := [sha384 (Config.rootCert 0), sha384 (Config.rootCert 1)]

/-! ### Checks -/

/-- Whether a signature of an algorithm verifies under a certificate's key: ML-DSA-65 in its pure form with an empty context string,
or ECDSA P-384 with SHA-384 (R366). -/
def Cert.verifies (c : Cert) (alg : Nat) (msg sig : List Byte) : Bool :=
  if alg = 0 then Config.mlVerify (Config.tbsKey c.tbs) msg sig else Config.ecVerify (Config.tbsKey c.tbs) msg sig

/-- Whether one certificate has been signed with another's key. -/
def Cert.signs (issuer : Cert) (alg : Nat) (c : Cert) : Bool := issuer.verifies alg c.tbs c.sig

/-- Whether an intermediate's certificate is signed by the root of its algorithm, whose SHA-384 the vault holds. No chain carries a
root: it is the one that Ronanger publishes (R255; DESIGN CHOICE, log 6). -/
def Cert.rooted (c : Cert) (alg : Nat) : Bool :=
  vaultRoots.contains (sha384 (Config.rootCert alg))
    && ((derNext (Config.rootCert alg)).bind fun x => certOf x.2.1).any fun r => r.signs alg c

/-- The chain of an image or of microcode (R366, R384): the signer's two certificates, which carry the purpose, and the
intermediate's two. -/
def signerChain (b : List Byte) (purpose : Nat) : Bool :=
  match certsIn 4 b with
  | some [ml, ec, iml, iec] => iml.signs 0 ml && iec.signs 1 ec && iml.rooted 0 && iec.rooted 1
      && Config.tbsPurpose ml.tbs purpose && Config.tbsPurpose ec.tbs purpose
  | _ => false

/-- Whether the two signatures over a byte string verify under the first two certificates of such a chain (R366). -/
def signedBy (b msg ml ec : List Byte) : Bool :=
  match certsIn 4 b with
  | some (x :: y :: _) => x.verifies 0 msg ml && y.verifies 1 msg ec
  | _ => false

/-- Whether the signatures of a colophon verify under the sealing device's certificates (check 2 of Table 8.5). -/
def sealedBy (b msg ml ec : List Byte) : Bool :=
  match certsIn 5 b with
  | some (x :: y :: _) => x.verifies 0 msg ml && y.verifies 1 msg ec
  | _ => false

/-- Check 3 of Table 8.5: each device certificate verifies under the intermediate of its algorithm, and each of these under its root. -/
def deviceChain (b : List Byte) : Bool :=
  match certsIn 5 b with
  | some [ml, ec, kem, iml, iec] => iml.signs 0 ml && iec.signs 1 ec && iml.signs 0 kem && iml.rooted 0 && iec.rooted 1
  | _ => false

/-- The one serial that the three device certificates of a chain name (check 4 of Table 8.5, R275). -/
def sealingSerial (b : List Byte) : Option Nat :=
  match certsIn 5 b with
  | some (ml :: ec :: kem :: _) => (Config.tbsSerial ml.tbs).bind fun n =>
    if Config.tbsSerial ec.tbs = some n ∧ Config.tbsSerial kem.tbs = some n then some n else none
  | _ => none

/-- Whether the rollover signatures of a KEYDOMAIN entry verify under a domain certificate, whose ECDSA P-384 certificate comes first
(Tables 8.2 and 8.3). -/
def rolledBy (dcert msg ml ec : List Byte) : Bool :=
  match certsIn 2 dcert with
  | some [x, y] => y.verifies 0 msg ml && x.verifies 1 msg ec
  | _ => false

end Sys2Proof.Machine
end

