-- ==== Sys2Proof/Machine/State.lean ====
section
/-!
DEFINITION. The state of the LVX-9608: every register, queue, buffer, counter, mode and pin the spec gives the package,
as plain data, grouped by the owner the spec names. INVENTORY.md lists each with its rule and its reset value.
-/
namespace Sys2Proof.Machine

/-! ## Ledger, boot record and image (11, 12) -/

/-- An image slot of the flash (Table 11.1). -/
inductive SlotId where
  | factory | a | b
  deriving DecidableEq, Repr

/-- TSTATE of the boot record (Table 11.7). -/
inductive TState where
  | none | pending | running | expired
  deriving DecidableEq, Repr

/-- The accepted image as the image store keeps it: its sections by TYPE, as bytes (R362, R363, R372). -/
structure Image where
  imgVer   : BitVec 32
  secVer   : BitVec 32
  sections : List (Nat × List Byte)
  deriving DecidableEq, Repr

/-- A black-box entry (Table 10.17). -/
structure BlackBox where
  pwrCnt : BitVec 64
  time   : Nat
  cause  : Nat
  store  : BitVec 8
  addr   : BitVec 16
  vmin   : List Nat
  temp   : List (BitVec 16)
  detail : Nat
  deriving DecidableEq, Repr

/-- A command by its queue and tag. -/
structure CmdRef where
  port : Port
  qid  : Nat
  tag  : BitVec 16
  deriving DecidableEq, Repr

/-- An entry of the interlocking (R343). -/
structure Lock where
  write : Bool
  stn   : Stn
  mnt   : BitVec 32
  lo    : Nat
  hi    : Nat
  cmd   : CmdRef
  deriving DecidableEq, Repr

/-- A ledger write in progress and what proceeds when it completes (R368, R261, R300, R374, R376). -/
inductive LedgerOp where
  | newVolume (st : Stn) (w : CmdRef)
  | retire (d : DieId) (dpn : Nat) (w : CmdRef)
  | confirm (w : CmdRef)
  | stageTrial (slot : SlotId) (w : CmdRef)
  deriving DecidableEq, Repr

/-- The MRAM ledger (R368, R412, Table 14.13). Values are those of completed writes (R444). -/
structure Ledger where
  cur      : SlotId
  trial    : Option SlotId
  tstate   : TState
  floor    : BitVec 32
  pin      : List Byte
  tpin     : List Byte
  booted   : Option SlotId
  rejSlot  : Option SlotId
  rejReason : Nat
  volCnt   : BitVec 64
  npfx     : BitVec 32
  pwrCnt   : BitVec 64
  lifeG    : BitVec 64
  lifeB    : BitVec 64
  retired  : Vector (List Nat) 2
  bbox     : List BlackBox          -- newest first, at most 64 held
  bboxCnt  : Nat                    -- entries ever written
  writing  : List LedgerOp          -- oldest first
  deriving DecidableEq, Repr

/-- An open staging session (R374). -/
structure Staging where
  port    : Port
  target  : SlotId
  nextOfs : Nat
  total   : List Byte               -- bytes staged so far
  chunk   : Option (CmdRef × Nat × List Byte × Bool)  -- command, OFS, bytes, LAST
  deriving DecidableEq, Repr

/-- Boot controller: image store, recovery, trial window, staging (11). `octal` is whether the flash port runs in 8D-8D-8D mode, which every
cold start finds in 1S-1S-1S (R361); `trialEnd` is the clock at which the window ends. -/
structure Boot where
  octal    : Bool
  image    : Option Image
  recovery : Bool
  trialEnd : Option Nat
  staging  : Option Staging
  deriving DecidableEq, Repr

/-! ## Reset controller, supply, thermal (12) -/

/-- Reaches of a reset, widest first (00). -/
inductive Reach where
  | powerOn | cold | warm
  deriving DecidableEq, Repr

/-- Where the package stands in its resets (R395, R396, R400, R370). -/
inductive Stage where
  | held | e1 | e2 | e3 | holdE4 | e4 | ready | recovery | quiesce
  deriving DecidableEq, Repr

/-- The reset controller (always domain). -/
structure ResetCtl where
  cause    : BitVec 14
  lastRst  : BitVec 3
  asserted : List ResetSource
  stage    : Stage
  reach    : Reach
  deferred : List ResetSource
  refclkLost : Bool
  tripHeld : Bool
  saved    : BitVec 8
  portRst  : BitVec 2               -- ports whose link has not trained since their port reset (Table 14.4)
  wdogLast : Vector Nat 2
  coldAt   : Nat                    -- clock of the last cold reset (R426)
  deriving DecidableEq, Repr

/-- The supply monitors (R408-R410, Table 14.12). Readings in 0.1 mV, rails in Table 12.9 order. -/
structure Supply where
  now      : Vector Nat 7
  min      : Vector Nat 7
  dip      : Bool
  recov    : Bool
  dipStart : Nat
  dipNow   : Nat                    -- minimum of the dip in progress
  dipStopped : Bool
  dipLen   : BitVec 32
  dipMin   : BitVec 16
  deriving DecidableEq, Repr

/-- The thermal monitors (R411, Table 14.12). -/
structure Thermal where
  now   : Vector (BitVec 16) 2
  max   : Vector (BitVec 16) 2
  throt : Bool
  stop  : Bool
  cap   : Option Nat
  trip  : Bool                      -- THERMTRIP_N driven low
  deriving DecidableEq, Repr

/-! ## Key vault (08) -/

/-- A domain key in force (R258, R265). -/
structure DomainKey where
  write  : Bool
  dchash : List Byte
  key    : List Byte
  deriving DecidableEq, Repr

/-- The key vault (R265, R263). -/
structure Vault where
  domains : List DomainKey
  slots   : Vector (Option (List Byte)) 8
  halted  : Bool
  deriving DecidableEq, Repr

/-! ## Buffer memory and pools (09) -/

/-- An entry of a stack's remap table (R298). -/
structure Remap where
  region : HbmRegion
  frame  : Nat
  spare  : Nat
  deriving DecidableEq, Repr

/-- A write-back scheduled by a corrected read (R294): the page's WGEN at the read, the bits corrected, and whose read it was: source,
handle and owner as the buffer error log names them (R302). -/
structure PendingWb where
  addr   : PageAddr
  wgen   : BitVec 64
  bits   : Nat
  detail : Nat
  handle : BitVec 32
  actor  : Nat
  deriving DecidableEq, Repr

/-- One HBM stack (R283, R293, R295, R298). -/
structure Stack where
  lost      : Bool
  buckets   : Vector Nat 32
  remap     : List Remap
  badSpares : List Nat
  nextSpare : Nat
  patrol    : Nat
  wbs       : List PendingWb
  mSlots    : Vector (Nat × Nat) 32  -- by pseudo-channel: clock of class M's last grant, and slots of other classes since (R29)
  deriving DecidableEq, Repr

/-- What a granted buffer holds (R104, R402): `len` bytes of a record's input or of its frame stream from byte `from_` on, a
gathering's data area or C2 rows, a volume context, or something else. -/
inductive BufUse where
  | other
  | input (st : Stn) (lon from_ len : Nat)
  | output (st : Stn) (lon from_ len : Nat)
  | gathering (st : Stn)
  | context (st : Stn)
  deriving DecidableEq, Repr

/-- A buffer that is not in its first state: its generation, its owner list in the order added, whether a FREE is
pending, whether it is (or is to be) withdrawn, and what it holds (R300, R306, R308, R309, R402). -/
structure Buf where
  index    : Nat
  gen      : Nat
  owners   : List Nat
  freePend : Bool
  withdrawn : Bool
  holds    : BufUse
  deriving DecidableEq, Repr

/-- A request on a pool's wait list (R313). -/
structure Waiter where
  owner : Nat
  len   : Nat
  use   : PoolUse
  deriving DecidableEq, Repr

/-- One pool of a die. `bufs` lists by rising index every buffer that is not free in generation 1. -/
structure Pool where
  count   : Nat
  bufs    : List Buf
  waits   : List Waiter
  due     : Nat                      -- buffers returned in this cycle for which no waiter has been looked for yet (R310)
  stnTurn : Nat
  portTurn : Nat
  deriving DecidableEq, Repr

/-- An entry of the buffer error log (Table 9.7). -/
structure ELogEntry where
  time   : Nat
  dpn    : BitVec 32
  loc    : BitVec 8
  kind   : Nat
  bits   : Nat
  detail : Nat
  handle : BitVec 32
  actor  : Nat
  wgen   : BitVec 64
  deriving DecidableEq, Repr

/-- A range scrub in progress (R296, Table 9.4). -/
structure ScrubJob where
  cmd   : CmdRef
  rptr  : BitVec 64
  next  : Nat
  left  : Nat
  npage : Nat
  ncorr : Nat
  nbits : Nat
  maxBits : Nat
  nunc  : Nat
  nremap : Nat
  nskip : Nat
  unc   : List Nat
  deriving DecidableEq, Repr

/-! ## Engines and control stores (01, 11) -/

/-- The work of an engine job (R18): a record hashed from its first byte to its last, a record's stream compressed, a gathering
encrypted or decrypted, a record's stream decompressed, and its fixity check (R21). -/
inductive JobKind where
  | hash (st : Stn) (lon : Nat)
  | compress (st : Stn) (lon : Nat)
  | encrypt (st : Stn) (gnum : Nat)
  | decrypt (st : Stn) (gnum : Nat)
  | decompress (st : Stn) (lon : Nat)
  | fixity (st : Stn) (lon : Nat)
  deriving DecidableEq, Repr

/-- An engine job: its station, its age, its re-run, and its place in the order in which jobs joined the wait (R19, R36, R37); `key` is
what the key register of the lane that runs it holds: on die 1 it comes across the UCIe link, and it goes with the job (R252). -/
structure Job where
  kind  : JobKind
  stn   : Stn
  age   : Nat
  rerun : Bool
  ord   : Nat
  key   : Option (List Byte)
  deriving DecidableEq, Repr

/-- One engine region of a die (Table 1.2, R36, R37). -/
structure Engine where
  fenced  : List Nat
  groups  : List Nat
  running : List (Nat × Job)
  waiting : List Job
  inReset : Bool
  deriving DecidableEq, Repr

/-- Why a sequencer halted (R385). -/
inductive HaltCause where
  | uncorrectable | haltWord | reservedClass
  deriving DecidableEq, Repr

/-- A control store and its sequencer (R380-R385). -/
structure Store where
  words     : List (BitVec 144)
  addr      : BitVec 13
  halted    : Option HaltCause
  corrected : Nat
  deriving DecidableEq, Repr

/-! ## Monitors and trace queues (13) -/

/-- A monitor slot (R419). -/
structure MonSlot where
  run    : Bool
  source : BitVec 32
  edges  : List (BitVec 32)
  min    : BitVec 32
  max    : BitVec 32
  count  : BitVec 64
  bins   : Vector (BitVec 32) 32
  empty  : Bool
  sat    : Bool
  deriving DecidableEq, Repr

/-- A trace word: data, end mark and SECDED check (R424, R425). -/
structure TWord where
  data  : BitVec 64
  last  : Bool
  check : BitVec 8
  deriving DecidableEq, Repr

/-- A trace queue, oldest word first (R424-R432). `lossSeen` is set once a loss has raised its event since LOST was cleared. -/
structure TraceQ where
  en       : Bool
  words    : List TWord
  frag     : Bool
  bfPend   : Bool
  lost     : BitVec 32
  corr     : BitVec 16
  unc      : BitVec 16
  lossSeen : Bool
  lastWord : BitVec 64
  lastEnd  : Bool
  lastCorr : Bool
  deriving DecidableEq, Repr

/-- One die (Table 1.1). -/
structure Die where
  pools    : Vector Pool 5
  scrub    : Option ScrubJob
  elog     : List ELogEntry          -- newest first, at most 65,536 held (DESIGN CHOICE, log 81)
  elogCnt  : Nat
  builtRet : List Nat                -- DPNs the pool build skipped (R301)
  engines  : Vector Engine 4
  monitors : Vector MonSlot 64
  trace    : Vector TraceQ 4
  servoCnt : Nat                     -- loop samples since the last one traced (R422)
  misuse   : Vector Nat 64          -- pool misuse by acting owner (R309)
  fault    : Bool
  deriving DecidableEq, Repr

/-! ## Ports and queues (10, 13, 14) -/

/-- How far an outstanding command has come. -/
inductive Phase where
  | needBuffer      -- waits for a grant (R313)
  | waitBuffer      -- on a pool's wait list
  | moving          -- its data moves, or its work is under way
  | threading | readEndpaper | rebuilding | flushing | opening | sealing   -- MOUNT, UNMOUNT, SEAL, INIT_VOLUME
  | queued          -- waits for its station (R346, R352)
  deriving DecidableEq, Repr

/-- An outstanding command of a queue. `lon` is its record or first LON, `got` what it has moved or found so far. -/
structure Cmd where
  entry  : Entry
  sgl    : List SglEntry
  at_    : Nat
  lon    : Nat
  count  : Nat
  handle : Option (BitVec 32)
  phase  : Phase
  got    : Nat
  okCnt  : Nat
  status : BitVec 8                  -- first failing status so far (VERIFY)
  reason : Nat                       -- log reason of that failure, and what else its log entry tells: AUX0, AUX1, AUX2
  aux    : Nat × Nat
  hash   : List Byte
  bumped : Bool                      -- a record opened by this FIRST, or a rebuilt mount
  poisoned : Bool                    -- a poisoned beat lies in the data of its result buffer (R341, Table 9.3)
  deriving DecidableEq, Repr

/-- A finished command whose completion entry is still to be written (R319). -/
structure Done where
  opc    : BitVec 8
  stn    : BitVec 8
  tag    : BitVec 16
  status : BitVec 8
  result : BitVec 64
  log    : Bool
  final  : Bool
  at_    : Nat
  sqhd   : Option Nat                -- SQHD fixed at the reset, for a FINAL entry (R347)
  len    : Nat                       -- bytes of an APPEND (R345)
  kept   : Bool                      -- what it did stands: it has succeeded, or only its result was poisoned (R341)
  locks  : Bool                      -- it was outstanding, so that what it holds in the interlocking goes with its completion (R326, R343)
  deriving DecidableEq, Repr

/-- A registered record key of a queue (R339). -/
structure RecKey where
  key : BitVec 32
  stn : Stn
  mnt : BitVec 32
  lon : Nat
  deriving DecidableEq, Repr

/-- Why an entry at the head of a queue cannot be taken yet (R320): a fence of the queue, an entry that the interlocking does not take,
the limit of R272 on LONs without a segment, or a staging session whose chunk is not read back. -/
inductive Hold where
  | fence
  | lock (l : Lock)
  | lonLimit (st : Stn)
  | staging (p : Port)
  deriving DecidableEq, Repr

/-- A queue pair (R316, R318-R321, R347). -/
structure Qp where
  id     : Nat
  depth  : Nat
  sqBase : BitVec 64
  cqBase : BitVec 64
  vec    : Nat
  sqHead : Nat
  sqTail : Nat
  cqHead : Nat
  cqNext : Nat
  phase  : Bool
  cmds   : List Cmd                  -- outstanding, oldest first
  done   : List Done                 -- finished, in the order they finished
  keys   : List RecKey
  held   : Option Hold               -- its head entry could not be taken, and why (R320)
  resetting : Option CmdRef          -- the RESET_QP whose FINAL entry is still to be written (R347, R349)
  deriving DecidableEq, Repr

/-- An entry of a port's command error log (R333). -/
structure CmdErr where
  time   : Nat
  sqid   : Nat
  tag    : BitVec 16
  opc    : BitVec 8
  status : BitVec 8
  reason : Nat
  lon    : Nat
  aux0   : Nat
  aux1   : Nat
  aux2   : List Byte
  deriving DecidableEq, Repr

/-- A port's monitor snapshot (R423). -/
structure MonSnap where
  run    : Bool
  empty  : Bool
  signed : Bool
  sat    : Bool
  source : BitVec 32
  min    : BitVec 32
  max    : BitVec 32
  count  : BitVec 64
  bins   : Vector (BitVec 32) 32
  deriving DecidableEq, Repr

/-- One host port: its link domain, its BAR0 registers and its queues. -/
structure HostPort where
  linkUp   : Bool
  gen      : Nat
  width    : Nat
  l1       : Bool
  msixEn   : Bool
  msixMask : BitVec 64
  msixPend : BitVec 64
  featAccept : BitVec 64
  aqEn     : Bool
  aqErr    : BitVec 3
  aqDepth  : BitVec 13
  aqSqBase : BitVec 64
  aqCqBase : BitVec 64
  stat     : BitVec 256
  mask     : BitVec 256
  route    : Vector Byte 256
  monSel   : BitVec 9
  snap     : MonSnap
  qsel     : BitVec 3
  underrun : BitVec 8
  trcHigh  : Option (BitVec 32)
  elogDie  : Bool
  elogIdx  : BitVec 16
  elogValid : Bool
  elogPois : Bool
  elogView : Option ELogEntry
  errs     : List CmdErr             -- newest first, at most 4,096 held
  errCnt   : Nat
  qps      : List Qp
  rr       : Nat
  deriving DecidableEq, Repr

/-! ## Volumes and the write pass (02, 04, 08) -/

/-- How a record was abandoned (R466, R470). -/
inductive Abandon where
  | lost        -- after acceptance: poison, poisoned host data, lane exhaustion, lost context
  | breach      -- declared-size breach (R163)
  | queueGone   -- its queue was deleted or reset
  | sealed      -- SEAL
  | fault       -- write fault
  | discarded   -- DISCARD_STABLED, RECOVER_STABLED of an open record
  deriving DecidableEq, Repr

/-- A block of a record's frame stream (R147-R150). `bytes` holds header and content, and the frame header or checksum
that belongs to it (R108). -/
structure Block where
  start    : Nat
  len      : Nat
  last     : Bool
  bytes    : List Byte
  marked   : Bool
  poisoned : Bool
  lane     : Nat                     -- compression lane that emitted it (R111, R156)
  deriving DecidableEq, Repr

/-- A record of a volume (R337, R57-R60, R466). -/
structure Rec where
  lon      : Nat
  port     : Port
  qid      : Nat
  key      : Option (BitVec 32)      -- the record key that its FIRST registered (R339)
  declared : Option Nat
  taken    : Nat                     -- bytes of the APPENDs taken so far
  accepted : Nat                     -- bytes that have arrived
  written  : Nat                     -- bytes of APPENDs whose completion has been written (R345)
  input    : List Byte
  ended    : Bool                    -- END taken
  endFrom  : Nat                     -- offset at which the END's APPEND starts (R152)
  complete : Bool                    -- END's APPEND completed
  anyDone  : Bool                    -- some APPEND completed with 0x00
  hash     : Option (List Byte)
  cuts     : List Nat
  blocks   : List Block
  packed   : Nat                     -- stream bytes that lie in segments
  abandon  : Option Abandon
  incDone  : Bool                    -- its INCOMPLETE segment is packed (R466)
  last     : Bool                    -- its LAST segment is packed
  recorded : Bool                    -- a segment lies in a recorded gathering
  durable  : Bool
  reported : Bool                    -- its loss has been logged by a FLUSH
  grps     : List Nat                -- interleave groups that hold a segment of it (R128, R139)
  outCap   : Nat                     -- bytes of output buffers granted to its job so far (R159, R160)
  redo     : Option Nat              -- the block that a re-run emits again next (R157)
  rerun    : Bool                    -- its compression job has been re-run (R36)
  deriving DecidableEq, Repr

/-- A segment-table entry (Table 2.7). -/
structure Seg where
  lon    : Nat
  offset : Nat
  len    : Nat
  first  : Bool
  last   : Bool
  inc    : Bool
  deriving DecidableEq, Repr

/-- Kinds of gathering (Table 2.5). -/
inductive GKind where
  | data | parity | endpaper | spine | colophon
  deriving DecidableEq, Repr

/-- A gathering in the write pipeline: the fields of Table 2.6 and where it stands (R104-R113, R471). -/
structure Gath where
  kind    : GKind
  gnum    : Nat
  quire   : Nat
  qpos    : Nat
  flushEnd : Bool                    -- FLAGS bit 0
  groupEnd : Bool                    -- FLAGS bit 1
  segs    : List Seg
  payload : List Byte                -- plaintext up to USED, or the whole data area of a parity gathering
  cipher  : List Byte                -- payload as recorded
  tag     : List Byte
  wrap    : Nat
  lpos    : Nat
  prev    : List Byte
  crc     : BitVec 32
  chain   : List Byte
  encrypted : Bool
  released : Bool
  placed  : Bool
  recorded : Bool
  accepted : Bool
  poisoned : Bool
  closure : Bool                     -- recorded in steps 3 or 4 of Table 4.5
  group   : Nat                      -- interleave group, counted from 0
  dead    : List Nat                 -- tracks dead at any moment of its recording
  unre0   : Nat                      -- unrewritten rows of even parity
  unre1   : Nat
  reachEnd : Nat                     -- band count at which its last row leaves its reach
  buffer  : Option (BitVec 32)
  c2Buf   : Option (BitVec 32)       -- the pool 1 buffer of its C2 rows (Table 4.1)
  deriving DecidableEq, Repr

/-- A quire entry of a spine (Table 2.10). -/
structure QEntry where
  quire : Nat
  lo    : Option Nat
  hi    : Option Nat
  lpos  : Nat
  ndata : Nat
  npar  : Nat
  wrap  : Nat
  deriving DecidableEq, Repr

/-- What a volume's state is (MOUNT RESULT [39:32]). -/
inductive VolState where
  | blank | unsealed | sealed | faultSealed
  deriving DecidableEq, Repr

/-- How far the sealing of a volume, or its closure after a write fault, has come. -/
inductive Closing where
  | none | flushing | incompletes | endpapers | spine | colophon | tail | done
  deriving DecidableEq, Repr

/-- The context of a mounted volume (memory domain: R107, R265, R292). -/
structure VolCtx where
  state    : VolState
  sealing  : Bool
  faulted  : Bool                    -- a write fault has occurred (R128)
  closureBad : Bool                  -- R130
  volid    : List Byte
  geo      : List Byte
  dchash   : List Byte
  wkey     : List Byte
  npfx     : BitVec 32
  depth    : Nat
  parity   : Nat
  endpaper : List Byte               -- payload bytes 0x000-0x1FF
  prov     : List Byte
  srcvol   : List Byte
  gnum     : Nat                     -- next gathering number
  burned   : List (Nat × Nat)        -- ranges, rising
  lon      : Nat                     -- next LON
  lonGaps  : List (Nat × Nat)        -- ranges skipped by rebuilds (R271)
  recs     : List Rec                -- by rising LON
  group    : Nat                     -- interleave groups begun
  q0       : Nat                     -- first quire of the open group
  inGroup  : Nat                     -- quire positions of the open group taken so far
  grpEnd   : Bool                    -- the open group's last data gathering has closed (R472)
  freeSlots : List (Nat × Nat)       -- quire numbers and positions burned before accumulation (R112)
  parDue   : List (Nat × Nat)        -- parity gatherings due: quire, position
  accs     : List (Nat × List (List Byte))   -- C3 accumulators by quire, P byte strings each
  quires   : List QEntry
  wrapFirst : List Nat               -- first quire number of each wrap so far
  spineDue : List Nat                -- wraps whose spine is still to be composed
  labelQ   : List (GKind × Nat × List Byte)  -- label gatherings that wait for their numbers: kind, part, payload (R110)
  prevIn   : Nat                     -- data gatherings of the group before the open one
  copies   : Nat                     -- endpaper copies composed
  colStream : Option (List Byte)
  colDone  : Nat                     -- colophon copies accepted or failed
  closing  : Closing                 -- how far the sealing or the closure has come (R42, R142, Table 4.5)
  sealCmd  : Option CmdRef           -- the SEAL in progress
  initCmd  : Option CmdRef           -- the INIT_VOLUME or MIGRATE that waits for endpaper copies 0 and 1
  colBad   : Bool
  chain    : List Byte               -- chain value of the last placed headered gathering
  ndata    : Nat
  npar     : Nat
  nlabel   : Nat
  lost     : Bool                    -- context lost (R292)
  deriving DecidableEq, Repr

/-- Why a FLUSH's work is done, and for whom (R138, R139, R344, R335, R142). -/
inductive FlushFor where
  | flush (c : CmdRef)
  | reader (c : CmdRef)
  | unmount (c : CmdRef)
  | seal (c : CmdRef)
  | migrate
  | power
  | none        -- its command was aborted; the work runs to its end (Table 10.10)
  deriving DecidableEq, Repr

/-- A FLUSH whose work is not finished: the LONs and bytes it covers (R345). -/
structure FlushJob where
  why    : FlushFor
  cover  : List (Nat × Nat)          -- LON and bytes covered
  closed : Bool                      -- its group has been closed short
  lastG  : Nat                       -- number of the gathering closed for it
  deriving DecidableEq, Repr

/-- The kind of a row position on tape (Table 2.2). -/
inductive PosKind where
  | gathering (gnum : Nat) (k : GKind) (pi : Nat)
  | band (n : Nat)
  | splice
  | tail (gnum : Nat) (pi : Nat)
  deriving DecidableEq, Repr

/-- What a band slot holds (R63, R64). -/
inductive SlotFill where
  | filler
  | copy (gnum : Nat) (kind : GKind) (row : Nat)
  deriving DecidableEq, Repr

/-- A row position the station sends or has sent: its number in sending order, the last gathering before it, its band
slots, the lanes on which it overlaps a cell not written as sent, the write cell number of its first cell once it has been
sent, and the grades given so far. -/
structure TxPos where
  seq    : Nat
  kind   : PosKind
  lastG  : Nat
  slots  : List SlotFill
  bandNo : Nat                       -- rewrite bands placed on the volume before it
  off    : BitVec 16                 -- lanes on which it overlaps a cell sent with WG 0 (R241), not sent (R34) or in a failed frame (R190)
  cell   : BitVec 32                 -- write cell number of its first cell, once sent
  graded : List (Track × Grade)
  deriving DecidableEq, Repr

/-- An entry of the rewrite queue (R121-R124). -/
structure RwEntry where
  gnum    : Nat
  row     : Nat
  track   : Track
  hard    : Bool                     -- Failed or Missing
  reach   : Nat                      -- band count at which its reach ends
  tried   : List Track
  inBand  : Bool                     -- a copy is recorded and awaits its verdict
  deriving DecidableEq, Repr

/-- What the write feed is doing (R115-R117, R473). -/
inductive Feed where
  | off | writing | runOut | resume
  deriving DecidableEq, Repr

/-- The write side of a station (logic domain; saved by R400). -/
structure Write where
  feed     : Feed
  toSend   : List TxPos              -- placed positions not yet sent on every lane
  sent     : List TxPos              -- sent positions awaiting grades
  seq      : Nat                     -- number of the next position
  gaths    : List Gath               -- numbered gatherings not yet finally accepted, by number
  openSegs : List Seg
  openBytes : List Byte
  openBuf  : Option (BitVec 32)
  bufs     : List (BitVec 32)        -- pool 2 buffers granted for gatherings and not in use yet (Table 4.1)
  closeDue : Bool                    -- the open gathering is to close as soon as it may (R61)
  flushes  : List FlushJob
  rwq      : List RwEntry
  sums     : Vector (List (Nat × Nat)) 128  -- by track: the weights of each rewrite interval, named by the band that ends it (R125)
  dead     : BitVec 128
  wrap     : Nat
  inRun    : Nat                     -- gatherings and tail slots placed on the wrap (R62)
  bandsOn  : Nat                     -- rewrite bands placed on the wrap
  bandsPut : Nat                     -- rewrite bands placed on the volume
  bands    : Nat                     -- rewrite bands recorded on the volume
  cellPos  : Nat                     -- cells recorded on the wrap
  late     : Nat                     -- cells by which that may be too many, where a rebuild has counted them (R117, log 63)
  empties  : Nat                     -- empty gatherings in a row (R475)
  tailLeft : Option Nat              -- tail slots still allowed (R476)
  wrapOver : Bool                    -- the wrap's last rewrite band is laid out or recorded: nothing more goes on the wrap (R62, R472)
  owed     : Option (List SlotFill)  -- a rewrite band to be recorded when writing goes on, with the contents of one cut short (R62, R474)
  deriving DecidableEq, Repr

/-! ## Link and read channel (06) -/

/-- A CTRL request to the head-end not answered yet (R192). -/
structure CtrlReq where
  write : Bool
  tag   : BitVec 6
  addr  : BitVec 16
  data  : BitVec 32
  sent  : Bool
  deriving DecidableEq, Repr

/-- The samples of one upstream frame on a lane: its first cell, whether the head-end was flywheeling, and the sample
bytes by cell and track. -/
structure SampleRun where
  cell  : BitVec 32
  fly   : Bool
  bytes : List (BitVec 8)
  deriving DecidableEq, Repr

/-- Receive state of a lane (R175, R186). -/
structure LaneRx where
  up       : Bool
  training : Bool
  wrongSync : Nat
  badFec   : Nat
  badType  : Nat                     -- frames of an unknown type (R176)
  fixed    : Nat                     -- symbols corrected in the last frame (R186)
  started  : Bool
  seq      : BitVec 8
  cell     : BitVec 32
  legUp    : Nat
  legDown  : Nat
  frames   : List SampleRun          -- newest first
  txSeq    : BitVec 8
  txCells  : Nat                     -- cells of the current run sent on this lane
  sentRuns : List (BitVec 32 × Nat)  -- write cell number and cells of the last 8 downstream frames, newest first (R190)
  deriving DecidableEq, Repr

/-- A decided cell: its bit and whether it is ambiguous (R201). -/
structure Cell where
  bit : Bool
  amb : Bool
  deriving DecidableEq, Repr

/-- The peak detector of a track (R201, R202): level A with 8 fraction bits, and the sign of the last peak. -/
structure Peak where
  level : Nat
  last  : Option Bool
  deriving DecidableEq, Repr

/-- A row position seen in the clock tracks (R199). `phase` is its place in the 33 positions of four gatherings and their band
(R62): 8j + i in the gathering j, 32 in the band; a splice slot keeps the place before it. `ord` and `bandNo` count the gathering
slots and the rewrite bands begun up to it. -/
structure RxPos where
  num    : Nat
  cell   : BitVec 32
  kind   : PosKind
  known  : Bool                      -- its gathering number is established
  lost   : Bool
  phase  : Nat
  ord    : Nat
  bandNo : Nat
  tried  : BitVec 128                -- tracks whose row has had its primary attempt
  done   : BitVec 128                -- tracks whose row has its outcome
  deriving DecidableEq, Repr

/-- A row kept for the retry decoder (R207): its position, track, the detector state at its start, its aligned samples
with the flywheel mark of each, whether its primary header passed, the attempts made, and the first headerless pass:
alignment, symbols, e and f. -/
structure RetryRow where
  pos    : Nat
  track  : Track
  peak   : Peak
  raw    : List (BitVec 8 × Bool)
  sync   : Bool                      -- a sync mark was found
  hdrOk  : Bool
  tries  : Nat
  verify : Bool
  back   : Option (Int × List Nat × Nat × Nat)
  deriving DecidableEq, Repr

/-- The sync offset of a row read in calibration, and the sum and number of |C| over qualified peaks in the even and the
odd phase (R195). -/
structure CalRow where
  track : Track
  ofs   : Int
  even  : Nat × Nat
  odd   : Nat × Nat
  deriving DecidableEq, Repr

/-- Counts of R212 by kind and track, entries not zero. Kinds 0-5: rows rescued at rungs 0-5; 6 missed sync, 7 false sync,
8 mismatch, 9 retry drop, 10 LATE, 11 SOVF (track 0); 12-17: rows tried at rungs 0-5; 18 C2 miscorrections; 19 header failed,
20 rung 2 exhausted, 21 not received, 29 sync found (Table 6.10); 22-28: the cases of Table 7.11, in its order (DESIGN CHOICE, log 93). -/
abbrev Counts := List (Nat × Nat × Nat)

/-- The link and read channel of a station. -/
structure Link where
  lanes    : Vector LaneRx 16
  lost     : Bool
  atRest   : Bool
  heHold   : Bool
  heId     : BitVec 32
  heCap    : BitVec 32
  heIfs    : BitVec 32
  reqs     : List CtrlReq
  nextTag  : BitVec 6
  cfgDone  : Bool
  wcell    : BitVec 32               -- write cell number of the next run
  slot     : BitVec 16               -- formatter's sideband slot
  outCmds  : List (BitVec 3 × BitVec 24 × BitVec 16)   -- actuator commands not yet sent: c, VALUE, APPLY
  lastSb   : BitVec 448              -- the containers last built, for the copy on lane 1
  inBox    : List (Bool × BitVec 208)                  -- upstream containers by lane (true: lane 0), newest first
  clkBits  : List (BitVec 32 × Bool) -- clock-track cells of the followed track, newest first
  srcB     : Bool
  lostCnt  : Bool
  fly      : Bool
  grid     : Option (BitVec 32)      -- counted start of the next position
  marks   : List (BitVec 32 × Nat)   -- markers of the last 5,216 cells, newest first: cell and kind
  missed   : Nat
  rx       : List RxPos              -- positions awaiting row decoding, oldest first
  rxNum    : Nat
  rxOrd    : Nat                     -- gathering slots begun so far, as the grid counts them
  rxBand   : Nat                     -- rewrite bands begun so far
  rxRun    : Nat                     -- number of the first position since the tape last left its place
  cut      : Bool                    -- the next position is the first of such a run
  skew     : Vector (Vector (BitVec 8) 128) 2
  calLeft  : Vector Nat 2            -- rows of calibration left, by direction
  calOfs   : Vector (List CalRow) 2  -- rows read in the calibration in progress, by direction
  runs     : Vector (Int × Nat) 128  -- equal-offset runs (R196)
  peaks    : Vector Peak 128
  retry    : List RetryRow
  counts   : Counts
  c1Load   : Vector (Vector Nat 128) 2  -- C1 load of the last row decoded by track: recall, verify (Table 13.2)
  c1Last   : Vector Nat 2            -- the same of the last row of any track
  deriving DecidableEq, Repr

/-! ## Servo and motion (07) -/

/-- Motion states (Table 7.13). -/
inductive Motion where
  | open_ | tensioned | moving | hold
  deriving DecidableEq, Repr

/-- What a ramp in progress is for; `backhitch` is the run back before a place where writing or reading is to go on. -/
inductive RampFor where
  | step | start | stop | backhitch | locate | tension | fallback
  deriving DecidableEq, Repr

/-- A section's history (Table 7.6, stage 2). -/
structure SecHist where
  x1 : Word
  x2 : Word
  v1 : Word
  v2 : Word
  deriving DecidableEq, Repr

/-- A loop channel: histories, integrator, repetitive table by bin (entries not zero), references. -/
structure Channel where
  secs  : Vector SecHist 8
  integ : Word
  table : List (Nat × Word)
  r1    : Word
  r2    : Word
  deriving DecidableEq, Repr

/-- A banked loop (R242): two coefficient sets as bytes of Table 7.7, the active one, and a requested swap. -/
structure BankedLoop where
  banks  : Vector (List Byte) 2
  active : Fin 2
  swap   : Bool
  ch     : Channel
  deriving DecidableEq, Repr

/-- A run back (R137, R209): the LPOS to be passed, the direction of travel after it, and the ramp that follows. -/
structure RunBack where
  lpos : Nat
  rev  : Bool
  why  : RampFor
  mm   : Nat
  deriving DecidableEq, Repr

/-- A change of data band in progress (R238): the band sought, whether both readers gave valid frames at the last sample,
whether an LPOS word has carried the band's number, the points of the seek profile not yet applied, and the sideband slots until
the next of them falls due (R389). -/
structure Seek where
  band : Nat
  both : Bool
  word : Bool
  points : List (BitVec 24)
  due  : Nat
  deriving DecidableEq, Repr

/-- Servo, reel and auxiliary control of a station (motion domain). -/
structure Servo where
  motion   : Motion
  reverse  : Bool
  ramp     : Option (RampFor × Nat)  -- purpose and target speed in mm/s
  vRef     : Word
  aRef     : Int                     -- acceleration of vRef, word units per reel period (R236)
  tRef     : Word
  tenFresh : Bool                    -- the tension ramp waits for the first tension measured (R236, R246)
  step     : Nat                     -- ladder step of the lateral set in use
  setStep  : Nat                     -- ladder step the tape runs at or steps to
  clkStep  : Nat                     -- ladder step that the cell clock runs at: n - 8 (R24, R25)
  lateral  : BankedLoop
  skewL    : BankedLoop
  aux      : BankedLoop
  reelSet  : List Byte
  speedCh  : Channel
  tensCh   : Channel
  yStar    : Word
  yTarget  : Word
  crossings : List (Bool × BitVec 26)   -- reader, HT; oldest first
  badSlots : List (BitVec 16)        -- slots with SOVF or without their container, newest first (R218)
  missSrv  : Nat
  missReel : Nat
  angles   : List (BitVec 14 × BitVec 14)  -- ENC_S, ENC_T of the last periods, newest first
  kappaS   : Nat                     -- 1.0 is 65,536
  kappaT   : Nat
  radS     : Nat                     -- µm
  radT     : Nat
  vHat     : Word
  tHat     : Word
  ends     : List (BitVec 26)        -- frame ends of the last three servo samples, newest first
  srvAge   : Nat                     -- reel periods since the last servo sample
  lastBox  : BitVec 208              -- the latest upstream container
  perNext  : BitVec 16               -- slot that begins the next reel period (R231)
  perCnt   : Nat                     -- reel periods begun since the loops closed (R231)
  perSlot  : BitVec 16               -- reading slot of the period
  perBox   : BitVec 208              -- its container, or the last one that came
  reelSeen : Bool                    -- its container came, and the reel sample has not used it yet
  auxSeen  : Bool                    -- the same for the auxiliary sample
  lposOk   : Bool
  lpos     : Nat
  lposBits : List Bool               -- bits of consecutive frames, newest first
  lposRev  : Bool                    -- they were read in reverse travel
  lposWord : Option Nat              -- last word whose CRC passed
  lposMiss : Nat
  band     : Nat                     -- servo band of the last word
  inhibit  : Bool
  within   : Nat                     -- consecutive samples within WINH_LIM
  calm     : Nat                     -- those since the last ramp began and the last lateral swap acted (R240)
  eLat     : Word                    -- last position error, skew error and tension error (Table 13.2)
  eSkew    : Word
  eTen     : Word
  settled  : Bool
  threaded : Bool
  closing  : Bool                    -- the loops are closing (R246)
  dataBand : Nat                     -- data band of the wrap the station was last sent to (R41)
  back     : Option RunBack          -- the tape runs back before it goes on (R137, R209)
  seek     : Option Seek             -- the lateral loop is open, for the data band changes (R238)
  deriving DecidableEq, Repr

/-- Speed matching of a station (R131-R137). -/
structure Speed where
  stopped  : Bool
  stopping : Bool
  stepping : Option Nat
  lastStep : Nat                     -- clock
  fed      : List (Nat × Nat)        -- clock, compressed bytes entering assembly
  taken    : List (Nat × Nat × Nat)  -- clock, uncompressed, compressed bytes of the intake
  ratioN   : Nat                     -- last defined c, compressed over uncompressed
  ratioD   : Nat
  rate     : Nat                     -- declared feed D in MB/s, 0 for none
  busCap   : Option Nat
  busStop  : Bool
  busHeld  : Bool
  ceil     : Nat
  vbus     : Nat
  dipMin   : Nat
  inDip    : Bool                    -- the last reading of the bus lay below the warning level (R250)
  wantSeek : Bool                    -- a reader waits for the tape (R346)
  deriving DecidableEq, Repr

/-! ## Recall and through working (03, 06, 08) -/

/-- A row of a gathering being read: the row index, its 496 symbols, 2e + f, the pass that read it (0 the first, then those of
rung 3) and the number of its position. -/
structure RRow where
  row  : Nat
  syms : List (BitVec 10)
  load : Nat
  pass : Nat
  pos  : Nat
  deriving DecidableEq, Repr

/-- A gathering being read (R97-R102). -/
structure RGath where
  gnum   : Nat
  kind   : GKind
  rows   : List RRow                 -- originals that passed, one for each row and pass
  copies : List RRow                 -- copies that passed, the first of each row and pass
  area   : Option (List Byte)        -- data area after C2, unknown bytes zero
  erased : List Nat                  -- erased byte positions after C2, rising (R99)
  whole  : Bool                      -- erased as a whole (R100)
  tagTried : Bool                    -- its tag has failed once
  plain  : Option (List Byte)        -- payload after the tag check
  unrec  : Bool                      -- unrecovered for good
  slot   : Option (Nat × Nat)        -- quire and position, where its header has been read
  ord    : Nat                       -- gathering slots of the recording up to it (R67)
  base   : Nat                       -- number of its position 0 in the pass that read it last
  pass   : Nat                       -- that pass
  lastPi : Nat                       -- the last of its positions of which a row passed
  band   : Nat                       -- rewrite bands begun before its last position
  lpos   : Nat                       -- LPOS counted as it was first read
  wrap   : Nat                       -- wrap on which it was read
  deriving DecidableEq, Repr

/-- The recall side of a station: what the reading under way, or a rebuild, has read so far. -/
structure Recall where
  active  : Bool
  wrap    : Nat                      -- the wrap being read
  gaths   : List RGath
  poisoned : List Nat                -- LONs whose plaintext is poisoned
  decoded : List Nat                 -- LONs that the decompression lanes have decoded for a MIGRATE
  pass    : Nat                      -- rung 3 passes done on what is re-read now
  reread  : Bool                     -- a rung 3 pass is under way
  failed  : List Nat                 -- the gatherings that it is for (R209)
  moved   : Bool                     -- the tape has been moved back, so that gatherings come again
  c3Done  : List Nat                 -- quires that have been through C3 since they were read
  tail    : Option Nat               -- the tail has been reached: gathering slots up to it (R476)
  ended   : Bool                     -- the end of recording has been reached
  epFail  : Bool                     -- an endpaper copy decoded and failed its tag
  seekTo  : Option Nat               -- LPOS of the place 2 m behind which the reading is to begin (R281)
  colophon : List Byte               -- colophon stream read, empty before
  highG   : Nat
  deriving DecidableEq, Repr

/-- A mounted cartridge's mode (STN_STATE.MOUNT). -/
inductive Mode where
  | read | append | blank
  deriving DecidableEq, Repr

/-- A mount (R325, R334). -/
structure Mount where
  num     : BitVec 32
  mode    : Mode
  geoid   : BitVec 32
  geo     : List Byte
  deriving DecidableEq, Repr

/-- Why a station is in fault (R193). -/
inductive StnFault where
  | headEnd | sequencer | die
  deriving DecidableEq, Repr

/-- One station. -/
structure Station where
  wgate    : Bool                    -- true: WGATE_N_s is high
  men      : Bool                    -- true: MEN_N_s is high
  link     : Link
  servo    : Servo
  speed    : Speed
  write    : Write
  readSide : Recall
  mount    : Option Mount
  ctx      : Option VolCtx
  faults   : List StnFault           -- causes in force (R193, R385, Table 1.9)
  inReset  : Bool                    -- held by BLOCK_RESET
  stabled  : Bool
  broken   : Bool                    -- broken write state (R401)
  resumes  : Bool                    -- RECOVER_STABLED or DISCARD_STABLED has asked for writing to go on (Table 12.6)
  latency  : Bool                    -- latency fault: link taken as lost (R185)
  mountCmd : Option CmdRef           -- MOUNT, UNMOUNT or INIT_VOLUME in progress
  deriving DecidableEq, Repr

/-- A MIGRATE job (R276-R282). -/
structure MigJob where
  cmd     : Option CmdRef
  src     : Stn
  dst     : Stn
  phase   : Nat                      -- Table 8.7: 1 to 4; 5 finishing after a stop
  skip    : Option Nat
  skipped : List Nat                 -- LONs skipped (R281)
  seen    : List RGath               -- what was read of the source before a stop
  unsealed : Bool
  status  : BitVec 8
  failLon : Option Nat               -- the LON that the stop reported, where it concerns one
  check   : Nat
  resume  : Nat
  around  : Nat × Nat                -- gathering numbers concerned
  outcome : Nat                      -- what the SHA-384 came to where an earlier check has failed (R166)
  hash    : List Byte                -- the stored SHA-384 of the failing record
  stopped : Bool
  deriving DecidableEq, Repr

/-- A self-test in progress (R353), and what was in use when it began: mounts by station and number, buffers by die and handle. What stays in
use to its end it never tests (R354). -/
structure TestRun where
  kind   : Nat
  cmd    : CmdRef
  rptr   : BitVec 64
  at_    : Nat
  mounts : List (Nat × BitVec 32)
  busy   : List (Nat × BitVec 32)
  deriving DecidableEq, Repr

/-- The power state (R351, R352): the state in force, a POWER_STATE being entered, and commands waiting for an exit. -/
structure Power where
  state  : Nat
  target : Option (Nat × CmdRef)
  exiting : Bool
  waiting : List CmdRef
  deriving DecidableEq, Repr

/-- A BLOCK_RESET in progress (R406, R407). -/
structure BlkReset where
  kind  : Nat
  die   : DieId
  index : Nat
  cmd   : CmdRef
  deriving DecidableEq, Repr

/-! ## The test access port (15) -/

/-- The instructions of the test access port (R454). -/
inductive TapInstr where
  | bypass | samplePreload | extest
  deriving DecidableEq, Repr

/-- The test access port: the instruction in force, the bypass bit, and the shift stage and the update stage of the boundary-scan
cells, one for each single-ended pin in the order of Table 15.4 (R454). -/
structure Tap where
  instr  : TapInstr
  bypass : Bool
  shift  : List Bool
  update : List Bool
  deriving DecidableEq, Repr

/-! ## What leaves the package (log 10) -/

/-- An operation of the flash port, of those of xSPI Profile 1.0 that the formatter supports (R361, R461). Every address has four bytes. -/
inductive FlashOp where
  | softReset (octal : Bool)         -- the software-reset sequence, in 8D-8D-8D or in 1S-1S-1S form (R461)
  | readSfdp                         -- the JESD216 tables, for the sequence that enters 8D-8D-8D
  | enterOctal                       -- that sequence
  | read (addr : Nat) (len : Nat)    -- with data strobe
  | writeEnable
  | eraseBlock (addr : Nat)          -- 64 KiB
  | programPage (addr : Nat) (data : List Byte)
  | pollBusy                         -- the status register, until it is not busy
  deriving DecidableEq, Repr

/-- One thing that has left the package. -/
inductive Out where
  | completion (p : Port) (q : Nat) (slot : Nat) (addr : BitVec 64) (word : BitVec 128)
  | msix (p : Port) (vec : Nat)
  | hostWrite (p : Port) (addr : BitVec 64) (data : List Byte) (ep : Bool)
  | frame (st : Stn) (lane : Lane) (line : BitVec 5440)
  | gatePulse (st : Stn)             -- WGATE_N_s high for 1 µs, then low (Table 4.7)
  | ctrl (st : Stn) (msg : BitVec 64)
  | flash (op : FlashOp)
  | value (p : Port) (v : BitVec 64)
  deriving DecidableEq, Repr

/-! ## Stops -/

/-- Why the machine stops. -/
inductive Fault where
  /-- PAGE_READ, PAGE_WRITE: the frame lies outside the region of Table 9.1, so no such page exists. Safe: the machine
  stops where the hardware has no behaviour. -/
  | noSuchPage
  deriving DecidableEq, Repr

/-- Why a command has no meaning. -/
inductive Refusal where
  /-- Raised by an arm of exec whose command has no meaning in this model yet. Safe: nothing can be proved of it. -/
  | notModelled (mnemonic : String)
  deriving DecidableEq, Repr

/-! ## The state -/

/-- The whole machine. `pending` is the queue of commands, first in, first out. -/
structure State where
  pending : List Instr
  clock   : Nat
  fresh   : Nat
  out     : List Out
  rst     : ResetCtl
  ledger  : Ledger
  boot    : Boot
  vault   : Vault
  supply  : Supply
  thermal : Thermal
  pinsSet : Bool
  mem     : List Host.Cell
  hbm     : Vector Stack 4
  dies    : Vector Die 2
  stores  : Vector Store 10
  ports   : Vector HostPort 2
  stns    : Vector Station 8
  stnMap  : BitVec 8                 -- STNMAP, once the fuses are loaded
  locks   : List Lock
  mntCnt  : BitVec 32
  ucieDown : Bool
  migs    : List MigJob
  test    : Option TestRun
  power   : Power
  blkRst  : List BlkReset            -- blocks in reset, oldest first
  tap     : Tap
  deriving DecidableEq, Repr

/-! ## Reset -/

/-- Port registers after a port or wider reset, with the port number p (Tables 14.3-14.10). -/
def MonSnap.reset : MonSnap :=
  ⟨false, true, false, false, 0, 0, 0, 0, Vector.replicate 32 0⟩

/-- A host port after a power-on reset: the link is down, nothing is set up. -/
def HostPort.reset : HostPort :=
  { linkUp := false, gen := 0, width := 0, l1 := false, msixEn := false, msixMask := 0, msixPend := 0,
    featAccept := 0, aqEn := false, aqErr := 0, aqDepth := 0, aqSqBase := 0, aqCqBase := 0,
    stat := 0, mask := 0, route := Vector.replicate 256 0xFF, monSel := 0, snap := MonSnap.reset,
    qsel := 0, underrun := 0, trcHigh := none, elogDie := false, elogIdx := 0, elogValid := false,
    elogPois := false, elogView := none, errs := [], errCnt := 0, qps := [], rr := 0 }

/-- An unprogrammed monitor slot (R419). -/
def MonSlot.reset : MonSlot :=
  ⟨false, 0, [], 0, 0, 0, Vector.replicate 32 0, true, false⟩

/-- An empty trace queue (Table 13.5). -/
def TraceQ.reset : TraceQ :=
  ⟨false, [], false, false, 0, 0, 0, false, 0, false, false⟩

/-- A pool before it is built (R301). -/
def Pool.reset : Pool := ⟨0, [], [], 0, 7, 1⟩

/-- An engine region with no fence and no work. -/
def Engine.reset : Engine := ⟨[], [], [], [], false⟩

/-- A control store filled with HALT words (R384). -/
def Store.reset : Store := ⟨[], 0, none, 0⟩

/-- A die after power-on. -/
def Die.reset : Die :=
  { pools := Vector.replicate 5 Pool.reset, scrub := none, elog := [], elogCnt := 0, builtRet := [],
    engines := Vector.replicate 4 Engine.reset, monitors := Vector.replicate 64 MonSlot.reset,
    trace := Vector.replicate 4 TraceQ.reset, servoCnt := 0, misuse := Vector.replicate 64 0, fault := false }

/-- A stack after power-on. -/
def Stack.reset : Stack := ⟨false, Vector.replicate 32 0, [], [], 0, 0, [], Vector.replicate 32 (0, 31)⟩

/-- A lane in electrical idle. -/
def LaneRx.reset : LaneRx := ⟨false, false, 0, 0, 0, 0, false, 0, 0, 0, 0, [], 0, 0, []⟩

/-- The read channel and link before training. A peak detector starts at the default THR_INIT of 20 quarter steps (R202). -/
def Link.reset : Link :=
  { lanes := Vector.replicate 16 LaneRx.reset, lost := false, atRest := false, heHold := false, heId := 0,
    heCap := 0, heIfs := 0, reqs := [], nextTag := 0, cfgDone := false, wcell := 0, slot := 0, outCmds := [],
    lastSb := 0, inBox := [], clkBits := [], srcB := false, lostCnt := false, fly := false, grid := none, marks := [],
    missed := 0, rx := [], rxNum := 0, rxOrd := 0, rxBand := 0, rxRun := 0, cut := true, skew := Vector.replicate 2 (Vector.replicate 128 0),
    calLeft := Vector.replicate 2 0, calOfs := Vector.replicate 2 [], runs := Vector.replicate 128 (0, 0),
    peaks := Vector.replicate 128 ⟨20 * 256, none⟩, retry := [], counts := [],
    c1Load := Vector.replicate 2 (Vector.replicate 128 0), c1Last := Vector.replicate 2 0 }

/-- A loop channel at rest. -/
def Channel.reset : Channel := ⟨Vector.replicate 8 ⟨0, 0, 0, 0⟩, 0, [], 0, 0⟩

/-- A banked loop with no coefficients loaded. -/
def BankedLoop.reset : BankedLoop := ⟨Vector.replicate 2 [], 0, false, Channel.reset⟩

/-- Servo and motion with the station Open. Kappa is 1 (65,536). -/
def Servo.reset : Servo :=
  { motion := .open_, reverse := false, ramp := none, vRef := 0, aRef := 0, tRef := 0, tenFresh := false, step := 0, setStep := 0,
    clkStep := 0,
    lateral := BankedLoop.reset, skewL := BankedLoop.reset, aux := BankedLoop.reset, reelSet := [],
    speedCh := Channel.reset, tensCh := Channel.reset, yStar := 0, yTarget := 0, crossings := [],
    badSlots := [], missSrv := 0, missReel := 0, angles := [], kappaS := 65536, kappaT := 65536,
    radS := 0, radT := 0, vHat := 0, tHat := 0, ends := [], srvAge := 0, lastBox := 0, perNext := 0,
    perCnt := 0, perSlot := 0, perBox := 0, reelSeen := false, auxSeen := false, lposOk := false, lpos := 0, lposBits := [],
    lposRev := false, lposWord := none, lposMiss := 0, band := 0, inhibit := false, within := 0, calm := 0,
    eLat := 0, eSkew := 0, eTen := 0, settled := false,
    threaded := false, closing := false, dataBand := 0, back := none, seek := none }

/-- Speed matching before a mount: no cap (ceiling 32), c is 1 (R134). -/
def Speed.reset : Speed :=
  { stopped := true, stopping := false, stepping := none, lastStep := 0, fed := [], taken := [], ratioN := 1,
    ratioD := 1, rate := 0, busCap := none, busStop := false, busHeld := false, ceil := 32, vbus := 0, dipMin := 0, inDip := false,
    wantSeek := false }

/-- The write side with nothing in progress. -/
def Write.reset : Write :=
  { feed := .off, toSend := [], sent := [], seq := 0, gaths := [], openSegs := [], openBytes := [], openBuf := none, bufs := [], closeDue := false,
    flushes := [], rwq := [], sums := Vector.replicate 128 [], dead := 0, wrap := 0,
    inRun := 0, bandsOn := 0, bandsPut := 0, bands := 0, cellPos := 0, late := 0, empties := 0, tailLeft := none, wrapOver := false, owed := none }

/-- The recall side with nothing in progress. -/
def Recall.reset : Recall :=
  { active := false, wrap := 0, gaths := [], poisoned := [], decoded := [], pass := 0, reread := false, failed := [],
    moved := false, c3Done := [], tail := none, ended := false, epFail := false, seekTo := none, colophon := [], highG := 0 }

/-- A station after power-on: Open, both hardwired outputs high (R398), no mount. -/
def Station.reset : Station :=
  { wgate := true, men := true, link := Link.reset, servo := Servo.reset, speed := Speed.reset, write := Write.reset,
    readSide := Recall.reset, mount := none, ctx := none, faults := [], inReset := false, stabled := false,
    broken := false, resumes := false, latency := false, mountCmd := none }

/-- The ledger as the device leaves the factory, but for the power-on just counted (Table 11.7, R262, log 3). -/
def Ledger.factory : Ledger :=
  { cur := .factory, trial := none, tstate := .none, floor := 0, pin := [], tpin := [], booted := none,
    rejSlot := none, rejReason := 0, volCnt := 0, npfx := 0, pwrCnt := 1, lifeG := 0, lifeB := 0,
    retired := Vector.replicate 2 [], bbox := [], bboxCnt := 0, writing := [] }

/-- The test access port with TRST_N low: BYPASS, for there is no IDCODE register (R454; PRESUMED, IEEE 1149.1, log 140). -/
def Tap.reset : Tap := ⟨.bypass, false, List.replicate 33 false, List.replicate 33 false⟩

/-- The machine right after a power-on reset of a device as it leaves the factory, with every source released: the
exit stands at its first stage, E1 (Table 12.3, log 3). RST_CAUSE shows POR; rails read their nominal values (log 4). -/
def State.reset : State :=
  { pending := [], clock := 0, fresh := 0, out := [],
    rst := { cause := 1, lastRst := 0, asserted := [], stage := .e1, reach := .powerOn, deferred := [],
             refclkLost := false, tripHeld := false, saved := 0, portRst := 0, wdogLast := Vector.replicate 2 0, coldAt := 0 },
    ledger := Ledger.factory,
    boot := { octal := false, image := none, recovery := false, trialEnd := none, staging := none },
    vault := { domains := [], slots := Vector.replicate 8 none, halted := false },
    supply := { now := #v[7500, 8000, 8500, 11000, 4000, 18000, 33000], min := #v[7500, 8000, 8500, 11000, 4000, 18000, 33000],
                dip := false, recov := false, dipStart := 0, dipNow := 0, dipStopped := false, dipLen := 0, dipMin := 0 },
    thermal := { now := Vector.replicate 2 0, max := Vector.replicate 2 0, throt := false, stop := false, cap := none, trip := false },
    pinsSet := false, mem := [], hbm := Vector.replicate 4 Stack.reset, dies := Vector.replicate 2 Die.reset,
    stores := Vector.replicate 10 Store.reset, ports := Vector.replicate 2 HostPort.reset,
    stns := Vector.replicate 8 Station.reset, stnMap := 0, locks := [], mntCnt := 0, ucieDown := false, migs := [], test := none,
    power := { state := 0, target := none, exiting := false, waiting := [] }, blkRst := [], tap := Tap.reset }

end Sys2Proof.Machine
end

