-- ==== Sys2Proof/Machine/Image.lean ====
section
/-!
DEFINITION. The configuration image: reading its sections (Tables 11.2 to 11.19 and those they name) and the acceptance
checks of Table 11.6.
-/
namespace Sys2Proof.Machine

/-! ### Section types (Table 11.4) -/

/-- The required sections. -/
def requiredSections : List Nat := [1, 2, 3, 5, 6, 8, 11, 12]

/-- A section's bytes, empty when absent. -/
def Image.sec (g : Image) (ty : Nat) : List Byte :=
  match g.sections.find? (fun s => s.1 == ty) with
  | some s => s.2
  | none => []

/-- Whether the section is present. -/
def Image.has (g : Image) (ty : Nat) : Bool := g.sections.any fun s => s.1 == ty

/-! ### Geometry descriptors (Table 2.12) -/

/-- Descriptor ID. -/
def geoId (g : List Byte) : Nat := beAt g 0 4
/-- Tape length in mm. -/
def geoLength (g : List Byte) : Nat := beAt g 0x18 4
/-- Data bands. -/
def geoBands (g : List Byte) : Nat := beAt g 0x1C 1
/-- Wraps per band. -/
def geoWpb (g : List Byte) : Nat := beAt g 0x1D 1
/-- Wraps of the volume. -/
def geoWraps (g : List Byte) : Nat := geoBands g * geoWpb g
/-- First usable LPOS. -/
def geoFirst (g : List Byte) : Nat := beAt g 0x20 4
/-- Last usable LPOS. -/
def geoLast (g : List Byte) : Nat := beAt g 0x24 4
/-- Track pitch, nm. -/
def geoPitch (g : List Byte) : Nat := beAt g 0x28 4
/-- Lateral offset of servo reader 0, nm, signed. -/
def geoServo (g : List Byte) : Int := signed 32 (beAt g 0x2C 4)
/-- Data band pitch, nm. -/
def geoBandPitch (g : List Byte) : Nat := beAt g 0x30 4
/-- Servo frame length, µm. -/
def geoFrame (g : List Byte) : Nat := beAt g 0x34 2
/-- Lowest permitted speed-ladder step. -/
def geoLow (g : List Byte) : Nat := beAt g 0x36 1
/-- Highest permitted speed-ladder step. -/
def geoHigh (g : List Byte) : Nat := beAt g 0x37 1
/-- Reel hub radius, µm. -/
def geoHub (g : List Byte) : Nat := beAt g 0x38 4
/-- Tape thickness, nm. -/
def geoThick (g : List Byte) : Nat := beAt g 0x3C 4

/-- The L1 descriptor of Table 2.12. -/
def geoL1 : List Byte :=
  let b := beBytes 4 0x4C31 ++ beBytes 2 1 ++ zeros 2
    ++ padTo 16 [0x4C, 0x41, 0x4E, 0x49, 0x56, 0x45, 0x58, 0x20, 0x4C, 0x31]
    ++ beBytes 4 1450000 ++ [4, 40] ++ beBytes 2 128 ++ beBytes 4 250000 ++ beBytes 4 14250000 ++ beBytes 4 480
    ++ beBytes 4 (unsigned 32 (-9600)) ++ beBytes 4 2900000 ++ beBytes 2 100 ++ [0, 32] ++ beBytes 4 22000
    ++ beBytes 4 4300 ++ beBytes 4 400000 ++ zeros 184
  b ++ beBytes 4 (crc32c b)

/-- Whether a descriptor's CRC holds and its fields are in range (R74, R364). -/
def geoOk (g : List Byte) : Bool :=
  g.length == 256 && beAt g 0xFC 4 == crc32c (g.take 252) && beAt g 0x1E 2 == 128
    && geoLow g ≤ geoHigh g && geoHigh g ≤ 32 && geoFirst g < geoLast g && geoWraps g > 0
    && (bytesAt g 0x44 184).all (· == 0) && beAt g 6 2 == 0

/-- The descriptors of the GEOMETRY section. -/
def Image.geos (g : Image) : List (List Byte) :=
  let s := g.sec 2
  chunks 256 (s.length / 256) s

/-- The descriptor with an ID. -/
def Image.geo? (g : Image) (id : Nat) : Option (List Byte) := g.geos.find? fun d => geoId d == id

/-! ### CODES, QUEUES, FEATURES (Table 11.5) -/

/-- Whether CODES allows a parity count. -/
def Image.parityOk (g : Image) (p : Nat) : Bool :=
  let m := if g.has 4 then leAt (g.sec 4) 0 1 else 0x0F
  match p with
  | 0 => m.testBit 0
  | 2 => m.testBit 1
  | 4 => m.testBit 2
  | 8 => m.testBit 3
  | _ => false

/-- Whether CODES allows an interleave depth. -/
def Image.depthOk (g : Image) (d : Nat) : Bool :=
  if g.has 4 then leAt (g.sec 4) 1 1 ≤ d && d ≤ leAt (g.sec 4) 2 1 else 1 ≤ d && d ≤ 64

/-- Whether port p is enabled (PEN_p). -/
def Image.portOn (g : Image) (p : Nat) : Bool := leAt (g.sec 6) (8 * p) 1 == 1
/-- Highest PCIe base specification of port p. -/
def Image.linkMax (g : Image) (p : Nat) : Nat := leAt (g.sec 6) (8 * p + 1) 1
/-- MSI-X vectors offered on port p. -/
def Image.nvec (g : Image) (p : Nat) : Nat := leAt (g.sec 6) (8 * p + 2) 1

/-- FEATURES.ENABLE; bit 0 is treated as 1. -/
def Image.enable (g : Image) : BitVec 64 :=
  (if g.has 7 then BitVec.ofNat 64 (leAt (g.sec 7) 0 8) else BitVec.allOnes 64) ||| 1
/-- The trial window in minutes. -/
def Image.trialMin (g : Image) : Nat := if g.has 7 then leAt (g.sec 7) 8 2 else 30
/-- The watchdog period in ms, 0 when off. -/
def Image.wdogMs (g : Image) : Nat := if g.has 7 then leAt (g.sec 7) 10 2 else 0
/-- Whether a watchdog expiry is a cold reset. -/
def Image.wdogCold (g : Image) : Bool := if g.has 7 then leAt (g.sec 7) 12 1 == 1 else false

/-! ### POOLS, EVENTS, MONITORS (R386, R417, R422) -/

/-- Buffer count of pool p of die d. -/
def Image.poolCount (g : Image) (d p : Nat) : Nat := leAt (g.sec 5) (64 * (5 * d + p)) 4
/-- Reserved minimum of owner k (1 to 15) in pool p of die d. -/
def Image.reserve (g : Image) (d p k : Nat) : Nat :=
  if 1 ≤ k ∧ k ≤ 15 then leAt (g.sec 5) (64 * (5 * d + p) + 4 * k) 4 else 0

/-- Buffer sizes of the pools (Table 9.8). -/
def poolSize : Nat → Nat
  | 0 => 4096
  | 1 => 65536
  | 2 => 557056
  | 3 => 2097152
  | _ => 33554432

/-- Pages of a buffer of pool p (Table 9.8). -/
def poolPages (p : Nat) : Nat := poolSize p / 4096

/-- Vector of source n on port p: 0xFF for none. -/
def Image.vector (g : Image) (p n : Nat) : Byte := ((g.sec 8).drop (256 * p)).getD n 0xFF
/-- Initial mask of port p. -/
def Image.mask0 (g : Image) (p : Nat) : BitVec 256 := BitVec.ofNat 256 (leAt (g.sec 8) (512 + 32 * p) 32)

/-- Slot entries of MONITORS. -/
def Image.monEntries (g : Image) : List (List Byte) :=
  let s := g.sec 9
  if s.length < 8 then [] else chunks 136 ((s.length - 8) / 136) (s.take (s.length - 8))
/-- TRACE_EN. -/
def Image.traceEn (g : Image) : Nat := let s := g.sec 9; if s.length < 8 then 0 else leAt s (s.length - 8) 2
/-- SERVO_DIV, 1 when MONITORS is absent. -/
def Image.servoDiv (g : Image) : Nat := let s := g.sec 9; if s.length < 8 then 1 else leAt s (s.length - 6) 2

/-! ### THRESHOLDS (Table 11.15) -/

/-- A THRESHOLDS field. -/
def Image.thr (g : Image) (ofs len : Nat) : Nat := leAt (g.sec 12) ofs len
/-- Verify distance of a station, µm (R118). -/
def Image.vdist (g : Image) (s : Nat) : Nat := g.thr (2 * s) 2
/-- RW_SCORE. -/
def Image.rwScore (g : Image) : Nat := g.thr 0x10 1
/-- THR_INIT. -/
def Image.thrInit (g : Image) : Nat := g.thr 0x11 1
/-- THR_FRAC. -/
def Image.thrFrac (g : Image) : Nat := g.thr 0x12 1
/-- THR_K. -/
def Image.thrK (g : Image) : Nat := g.thr 0x13 1
/-- GUARD. -/
def Image.guard (g : Image) : Nat := g.thr 0x14 1
/-- THR_OFFS, in list order. -/
def Image.thrOffs (g : Image) : List Int :=
  (List.range (g.thr 0x15 1)).map fun i => signed 8 (g.thr (0x16 + i) 1)
/-- SYNC_TOL. -/
def Image.syncTol (g : Image) : Nat := g.thr 0x1A 1
/-- SKEW_TRACK. -/
def Image.skewTrack (g : Image) : Nat := g.thr 0x1B 1
/-- RETRY_ROWS. -/
def Image.retryRows (g : Image) : Nat := g.thr 0x1C 2
/-- REREAD_MAX. -/
def Image.rereadMax (g : Image) : Nat := g.thr 0x1E 1
/-- REREAD_STEP. -/
def Image.rereadStep (g : Image) : Nat := g.thr 0x1F 1
/-- HIGH, bytes. -/
def Image.high (g : Image) : Nat := g.thr 0x20 4 * 2 ^ 20
/-- RESTART, bytes. -/
def Image.restart (g : Image) : Nat := g.thr 0x24 4 * 2 ^ 20
/-- LOW, bytes. -/
def Image.low (g : Image) : Nat := g.thr 0x28 4 * 2 ^ 20
/-- STOP, bytes. -/
def Image.stop (g : Image) : Nat := g.thr 0x2C 4 * 2 ^ 20
/-- DWELL in FABRIC cycles (800 MHz). -/
def Image.dwell (g : Image) : Nat := g.thr 0x30 2 * 80000000
/-- BUS_WARN, mV. -/
def Image.busWarn (g : Image) : Nat := g.thr 0x34 2
/-- BUS_STOP, mV. -/
def Image.busStop (g : Image) : Nat := g.thr 0x36 2
/-- BUS_HOLD, mV. -/
def Image.busHold (g : Image) : Nat := g.thr 0x38 2
/-- BUS_RECOV, mV. -/
def Image.busRecov (g : Image) : Nat := g.thr 0x3A 2
/-- THROTTLE_C. -/
def Image.throttleC (g : Image) : Nat := g.thr 0x3C 1
/-- STOP_C. -/
def Image.stopC (g : Image) : Nat := g.thr 0x3D 1
/-- PAGE_T. -/
def Image.pageT (g : Image) : Nat := g.thr 0x40 1
/-- WB_BITS. -/
def Image.wbBits (g : Image) : Nat := g.thr 0x41 1
/-- HARD_BITS. -/
def Image.hardBits (g : Image) : Nat := g.thr 0x42 1
/-- PATROL_H. -/
def Image.patrolH (g : Image) : Nat := g.thr 0x43 1
/-- CE_CAP. -/
def Image.ceCap (g : Image) : Nat := g.thr 0x44 2
/-- CE_LEAK, ms. -/
def Image.ceLeak (g : Image) : Nat := g.thr 0x46 2

/-! ### PINS (Table 11.16) -/

/-- Head-end register list of a station: address and value (R193, R388). -/
def Image.heList (g : Image) (s : Nat) : List (BitVec 16 × BitVec 32) :=
  let p := g.sec 11
  let ofs := leAt p (0x80 + 4 * s) 4
  (List.range (leAt p (0xA0 + 2 * s) 2)).map fun i =>
    (BitVec.ofNat 16 (leAt p (ofs + 8 * i) 2), BitVec.ofNat 32 (leAt p (ofs + 8 * i + 4) 4))

/-- Whether PINS inverts the transmit (or receive) pair of a lane (R168). -/
def Image.inverts (g : Image) (s lane : Nat) (rx : Bool) : Bool :=
  (leAt (g.sec 11) (4 * s) 4).testBit (if rx then 16 + lane else lane)

/-- BUS_SCALE of a station in hundredths of a volt per volt (R249). -/
def Image.busScale (g : Image) (s : Nat) : Nat :=
  let v := leAt (g.sec 11) (0x20 + 2 * s) 2
  if v = 0 then 5000 else v

/-- The bus of a station in mV at a reading of its pin: 1.2 V in 4,096 counts, full scale above it, times BUS_SCALE (R249, R462), cut to a
whole mV (DESIGN CHOICE, log 165). -/
def Image.busMv (g : Image) (s counts : Nat) : Nat := min counts 4095 * 1200 * g.busScale s / 409600

/-! ### LOOPS (Tables 11.18, 11.19) -/

/-- A station's block of LOOPS. -/
def Image.stnBlock (g : Image) (s : Nat) : List Byte := (g.sec 3).drop (leAt (g.sec 3) (0x10 + 4 * s) 4)
/-- The reel set of the k-th descriptor. -/
def Image.reelSet (g : Image) (k : Nat) : List Byte := bytesAt (g.sec 3) (0x40 + 768 * k) 768
/-- The lateral set of a ladder step. -/
def Image.latSet (g : Image) (s step : Nat) : List Byte := bytesAt (g.stnBlock s) (0x160 + 320 * step) 320
/-- The number of the skew set a step uses. -/
def Image.skewMap (g : Image) (s step : Nat) : Nat := leAt (g.stnBlock s) (0x20 + step) 1
/-- The skew set of a step. -/
def Image.skewSet (g : Image) (s step : Nat) : List Byte := bytesAt (g.stnBlock s) (0x2D20 + 320 * g.skewMap s step) 320
/-- The auxiliary set: 0 threading, 1 loading. -/
def Image.auxSet (g : Image) (s k : Nat) : List Byte := bytesAt (g.stnBlock s) (0x2AA0 + 320 * k) 320
/-- A motion parameter of two bytes (Table 7.9). -/
def Image.motion (g : Image) (s ofs : Nat) : Nat := leAt (g.stnBlock s) ofs 2
/-- REEL_PHASE. -/
def Image.reelPhase (g : Image) (s : Nat) : Nat := g.motion s 0
/-- AUX_PHASE. -/
def Image.auxPhase (g : Image) (s : Nat) : Nat := g.motion s 2
/-- WINH_LIM, nm. -/
def Image.winhLim (g : Image) (s : Nat) : Nat := g.motion s 0x0E
/-- MISS_WINH, frames. -/
def Image.missWinh (g : Image) (s : Nat) : Nat := g.motion s 0x10
/-- MISS_STOP, frames. -/
def Image.missStop (g : Image) (s : Nat) : Nat := g.motion s 0x12
/-- HEAD_YOFS, nm. -/
def Image.headY (g : Image) (s : Nat) : Int := signed 32 (leAt (g.stnBlock s) 0x14 4)
/-- HEAD_XOFS, µm. -/
def Image.headX (g : Image) (s : Nat) : Int := signed 32 (leAt (g.stnBlock s) 0x18 4)

/-- SEEKDT, µs (Table 11.19). -/
def Image.seekDt (g : Image) (s : Nat) : Nat := leAt (g.stnBlock s) 0x52 2
/-- The seek profile: the VCM commands of a move of one data band towards clock track B (R389, Table 11.19). -/
def Image.seekPoints (g : Image) (s : Nat) : List (BitVec 24) :=
  (List.range (leAt (g.stnBlock s) 0x50 2)).map fun i => BitVec.ofNat 24 (leAt (g.stnBlock s) (0x60 + 4 * i) 4)

/-! ### Range checks (reason 10) -/

/-- Whether a number lies in a range, ends included. -/
def within (lo v hi : Nat) : Bool := lo ≤ v && v ≤ hi

/-- Zero bytes at an offset. -/
def zeroAt (l : List Byte) (ofs len : Nat) : Bool := (bytesAt l ofs len).all (· == 0)

/-- A banked coefficient set (Table 7.7); a reel channel has at most four sections (R227, R228). -/
def setOk (reel : Bool) (b : List Byte) : Bool :=
  let nsec := leAt b 0 1
  b.length == 320 && nsec ≤ (if reel then 4 else 8) && leAt b 1 1 < 16 && leAt b 2 1 < 64 && leAt b 3 1 < 32
    && within 1 (leAt b 4 4) 0x7FFFFFFF && zeroAt b 8 8
    && ((List.range 8).all fun k =>
      let o := 0x10 + 28 * k
      ((List.range 5).all fun j => leAt b (o + 20 + j) 1 < 32) && zeroAt b (o + 25) 3
        && (!(reel && k ≥ 4) || zeroAt b o 28))
    && leAt b 0xF4 1 < 32 && zeroAt b 0xF5 3 && leAt b 0xF8 4 ≤ 0x7FFFFFFF && leAt b 0x100 1 < 32 && zeroAt b 0x101 3
    && ((List.range 3).all fun j => leAt b (0x110 + j) 1 < 32) && zeroAt b 0x113 45

/-- A reel set (Table 7.8). -/
def reelOk (b : List Byte) : Bool :=
  setOk true (bytesAt b 0 320) && setOk true (bytesAt b 0x140 320) && !(leAt b 1 1).testBit 1
    && ((List.range 4).all fun j => leAt b (0x290 + j) 1 < 32) && zeroAt b 0x2B4 76

/-- A station block of LOOPS (Tables 7.9, 11.19). -/
def blockOk (b : List Byte) : Bool :=
  let m := fun o => leAt b o 2
  let y := signed 32 (leAt b 0x14 4)
  let x := signed 32 (leAt b 0x18 4)
  let nsk := leAt b 0x1C 1
  let seekN := leAt b 0x50 2
  within 104 (m 0) 9900 && within 104 (m 2) 9900 && !(within (m 0) (m 2 + 40) (m 0 + 120))
    && within 50 (m 4) 800 && m 6 ≤ 500 && within 50 (m 8) (m 4) && within 20 (m 10) 1000 && within 10 (m 12) 1000
    && within 20 (m 14) 240 && within 1 (m 16) 16 && within 32 (m 18) 4096
    && (-20000 ≤ y && y ≤ 20000) && (-5000 ≤ x && x ≤ 5000)
    && within 1 nsk 8 && zeroAt b 0x1D 3 && ((List.range 33).all fun i => leAt b (0x20 + i) 1 < nsk) && zeroAt b 0x41 15
    && within 1 seekN 64 && within 1 (leAt b 0x52 2) 1000 && zeroAt b 0x54 12
    && ((List.range 64).all fun i => leAt b (0x63 + 4 * i) 1 == 0 && (i < seekN || leAt b (0x60 + 4 * i) 4 == 0))
    && ((List.range 33).all fun i => setOk false (bytesAt b (0x160 + 320 * i) 320))
    && ((List.range 2).all fun i => setOk false (bytesAt b (0x2AA0 + 320 * i) 320))
    && ((List.range nsk).all fun i => setOk false (bytesAt b (0x2D20 + 320 * i) 320))

/-- Length of a station block. -/
def blockLen (b : List Byte) : Nat := 0x2D20 + 320 * leAt b 0x1C 1

/-- Ranges (start, length) that lie apart from one another. -/
def apart : List (Nat × Nat) → Bool
  | [] => true
  | a :: r => (r.all fun b => a.1 + a.2 ≤ b.1 || b.1 + b.2 ≤ a.1) && apart r

/-- LOOPS (R389). -/
def Image.loopsOk (g : Image) : Bool :=
  let l := g.sec 3
  let n := leAt l 0 1
  let reelEnd := 0x40 + 768 * n
  let blks := (List.range 8).map fun s => (leAt l (0x10 + 4 * s) 4, blockLen (g.stnBlock s))
  n == g.geos.length && zeroAt l 1 15 && zeroAt l 0x30 16
    && ((List.range n).all fun k => reelOk (g.reelSet k))
    && (blks.all fun b => b.1 % 16 == 0 && b.1 ≥ reelEnd && b.1 + b.2 ≤ l.length) && apart blks
    && ((List.range 8).all fun s => blockOk (bytesAt (g.stnBlock s) 0 (blockLen (g.stnBlock s))))

/-- THRESHOLDS (R213, R297, R387, Tables 4.6 and 12.11). VDIST is checked at MOUNT. -/
def Image.thrOk (g : Image) : Bool :=
  let s := g.sec 12
  let t := g.pageT
  s.length == 128 && within 4 g.rwScore 24 && within 4 g.thrInit 28 && within 8 g.thrFrac 24 && within 3 g.thrK 10
    && g.guard ≤ 4 && within 1 (g.thr 0x15 1) 4 && (g.thrOffs.all fun o => -8 ≤ o && o ≤ 8)
    && ((List.range 4).all fun i => i < g.thr 0x15 1 || g.thr (0x16 + i) 1 == 0)
    && g.syncTol ≤ 6 && (g.skewTrack == 0 || g.skewTrack ≥ 4) && within 512 g.retryRows 16384 && g.rereadMax ≤ 6
    && g.rereadStep ≤ 32
    && within 1024 (g.thr 0x20 4) 32768 && within 512 (g.thr 0x24 4) (g.thr 0x20 4)
    && within (g.thr 0x2C 4 + 512) (g.thr 0x28 4) (g.thr 0x24 4) && within 64 (g.thr 0x2C 4) 1024
    && within 5 (g.thr 0x30 2) 600 && zeroAt s 0x32 2
    && 0 < g.busHold && g.busHold < g.busStop && g.busStop < g.busWarn && g.busWarn < g.busRecov && g.busRecov ≤ 60000
    && within 85 g.throttleC 105 && within (g.throttleC + 5) g.stopC 118 && zeroAt s 0x3E 2
    && [8, 16, 24, 32, 40, 48].contains t && within 1 g.wbBits t && g.hardBits < t && g.patrolH ≤ 168
    && 1 ≤ g.ceCap && within 1 g.ceLeak 60000 && zeroAt s 0x48 56

/-- POOLS (R303, R386). -/
def Image.poolsOk (g : Image) : Bool :=
  (g.sec 5).length == 640 && ((List.range 2).all fun d =>
    ((List.range 5).foldl (fun a p => a + g.poolCount d p * poolSize p) 0) ≤ 68 * 2 ^ 30
      && ((List.range 5).all fun p =>
        ((List.range 15).foldl (fun a k => a + g.reserve d p (k + 1)) 0) ≤ g.poolCount d p))

/-- CODES, QUEUES and FEATURES (Table 11.5). -/
def Image.smallOk (g : Image) : Bool :=
  let c := g.sec 4
  let q := g.sec 6
  let f := g.sec 7
  (!g.has 4 || (c.length == 16 && leAt c 0 1 < 16 && (leAt c 0 1).testBit 2 && within 1 (leAt c 1 1) 16
      && within 16 (leAt c 2 1) 64 && zeroAt c 3 13))
    && q.length == 16 && g.portOn 0
    && ((List.range 2).all fun p => leAt q (8 * p) 1 ≤ 1 && within 5 (g.linkMax p) 7 && within 1 (g.nvec p) 64 && zeroAt q (8 * p + 3) 5)
    && (!g.has 7 || (f.length == 16 && within 5 (leAt f 8 2) 1440 && (leAt f 10 2 == 0 || within 10 (leAt f 10 2) 10000)
      && leAt f 12 1 ≤ 1 && zeroAt f 13 3))

/-- EVENTS (R416, R417). -/
def Image.eventsOk (g : Image) : Bool :=
  (g.sec 8).length == 576 && ((List.range 2).all fun p => (List.range 256).all fun n =>
    g.vector p n == 0xFF || (g.vector p n).toNat < g.nvec p)

/-! ### Monitor sources and edges (R419 to R422) -/

/-- The class of a monitor source. -/
def srcClass (src : BitVec 32) : Nat := bits src 24 8
/-- INST of a monitor source. -/
def srcInst (src : BitVec 32) : Nat := bits src 16 8
/-- SEL of a monitor source. -/
def srcSel (src : BitVec 32) : Nat := bits src 0 16

/-- Whether a source's samples are signed (Table 13.2). -/
def srcSigned (src : BitVec 32) : Bool := [5, 6, 9].contains (srcClass src)

/-- Whether SOURCE stands in the catalogue of Table 13.2 and may be taken by a slot of die d (R420). -/
def srcOk (d : Nat) (src : BitVec 32) : Bool :=
  let i := srcInst src
  let s := srcSel src
  let stn := i < 8 && i / 4 == d
  match srcClass src with
  | 0x01 => i == d && (within 1 s 8 || within 0x80 s 0x91 || s == 0xFFFF)
  | 0x02 => i < 4 && (s < 64 || s == 0xFFFF)
  | 0x03 => stn && s / 256 ≤ 1 && (s % 256 < 128 || s % 256 == 255)
  | 0x04 => stn && s < 128
  | 0x05 => stn && s ≤ 1
  | 0x06 | 0x07 | 0x0D | 0x0E => stn && s == 0
  | 0x08 => i < 7 && s == 0
  | 0x09 => i < 2 && s == 0
  | 0x0A => stn && s / 256 < 12 && (s % 256 < 128 || s % 256 == 255)
  | 0x0B => i / 2 == d && i < 4 && (s < 32 || s == 0xFFFF)
  | 0x0C => stn && s < 16
  | _ => false

/-- Order of samples in a source's signedness. -/
def monLt (sgn : Bool) (a b : BitVec 32) : Bool := if sgn then a.slt b else a.ult b

/-- Edges that strictly rise. -/
def edgesRise (sgn : Bool) : List (BitVec 32) → Bool
  | a :: b :: r => monLt sgn a b && edgesRise sgn (b :: r)
  | _ => true

/-- The half-octave edges from E0 (Table 13.3). -/
def halfOctave (e0 : Nat) : List (BitVec 32) :=
  (List.range 31).map fun i => BitVec.ofNat 32 <|
    if i % 2 = 0 then e0 * 2 ^ (i / 2) else if i = 1 then 3 * e0 / 2 else e0 * 3 * 2 ^ ((i - 3) / 2)

/-- The edges a start operation sets, or none where the operation fails its condition (R421). -/
def monEdges (op : Nat) (src : BitVec 32) (data : List Byte) : Option (List (BitVec 32)) :=
  if op = 1 then
    let e := (chunks 4 31 data).map fun b => BitVec.ofNat 32 (leNat b)
    if data.length = 124 ∧ edgesRise (srcSigned src) e then some e else none
  else
    let e0 := leAt data 0 4
    if op = 2 ∧ data.length = 4 ∧ !srcSigned src ∧ 2 ≤ e0 ∧ e0 ≤ 131071 then some (halfOctave e0) else none

/-- MONITORS (R422). -/
def Image.monitorsOk (g : Image) : Bool :=
  let s := g.sec 9
  !g.has 9 || (s.length ≥ 8 && (s.length - 8) % 136 == 0 && (s.length - 8) / 136 ≤ 128 && g.servoDiv ≥ 1
    && g.traceEn < 256 && zeroAt s (s.length - 4) 4 && g.monEntries.all fun e =>
      let op := leAt e 2 1
      let src := BitVec.ofNat 32 (leAt e 4 4)
      leAt e 0 1 < 2 && leAt e 1 1 < 64 && within 1 op 2 && leAt e 3 1 == 0 && srcOk (leAt e 0 1) src && zeroAt e 132 4
        && (monEdges op src (bytesAt e 8 (if op = 1 then 124 else 4))).isSome && (op == 1 || zeroAt e 12 120))

/-- A PINCFG byte whose fields apply to its pin (Table 11.17). -/
def pinCfgOk (i v : Nat) : Bool :=
  let drive := v % 4
  let slew := v / 4 % 2
  let pull := v / 8 % 4
  let ds := i < 16 || i == 18 || i == 19 || within 21 i 28 || i == 32
  let pl := within 20 i 31
  v < 32 && drive ≤ 2 && pull ≤ 2 && (ds || (drive == 0 && slew == 0)) && (pl || pull == 0)

/-- PINS (R388). -/
def Image.pinsOk (g : Image) : Bool :=
  let p := g.sec 11
  p.length ≥ 192 && zeroAt p 0x30 16 && zeroAt p 0xB0 16 && ((List.range 64).all fun i => pinCfgOk i (leAt p (0x40 + i) 1))
    && ((List.range 8).all fun s =>
      let ofs := leAt p (0x80 + 4 * s) 4
      let n := leAt p (0xA0 + 2 * s) 2
      n ≤ 256 && (if n = 0 then ofs == 0 else ofs % 8 == 0 && ofs ≥ 0xC0 && ofs + 8 * n ≤ p.length)
        && ((List.range n).all fun i => within 0x100 (leAt p (ofs + 8 * i) 2) 0xFFF && leAt p (ofs + 8 * i + 2) 2 == 0))

/-! ### MICROCODE (R384) and KEYDOMAIN (R257 to R259, R390) -/

/-- A stored word: 16 bytes of microword, little-endian, then 2 check bytes. -/
def storedWord (b : List Byte) : BitVec 144 :=
  BitVec.ofNat 144 (leAt b 0 16 * 65536 + leAt b 16 2)

/-- The stored words of the timetable program, and of the signal-box program. -/
def Image.programs (g : Image) : List (BitVec 144) × List (BitVec 144) :=
  let m := g.sec 1
  let ntt := leAt m 4 2
  let nsb := leAt m 6 2
  ((chunks 18 ntt (bytesAt m 0x10 (18 * ntt))).map storedWord,
   (chunks 18 nsb (bytesAt m (0x10 + 18 * ntt) (18 * nsb))).map storedWord)

/-- A signature block (R366): certificate chain, ML-DSA and ECDSA signatures, and whether its frame holds. -/
structure SigBlock where
  cchain : List Byte
  ml     : List Byte
  ec     : List Byte
  ok     : Bool
  deriving DecidableEq, Repr

/-- The signature block at an offset, `len` being the bytes it must end at. -/
def sigBlock (b : List Byte) (ofs endd : Nat) : SigBlock :=
  let cc := leAt b (ofs + 4) 4
  ⟨bytesAt b (ofs + 8) cc, bytesAt b (ofs + 8 + cc) 3309, bytesAt b (ofs + 8 + cc + 3309) 96,
   leAt b ofs 4 == 0x5358564C && ofs + 3413 + cc == endd⟩

/-- Whether a signature block's chain carries a purpose. -/
def SigBlock.chain (s : SigBlock) (purpose : Nat) : Bool := signerChain s.cchain purpose
/-- Whether both signatures verify over a byte string. -/
def SigBlock.verifies (s : SigBlock) (msg : List Byte) : Bool :=
  signedBy s.cchain msg s.ml s.ec

/-- Where MICROCODE's signature block starts. -/
def Image.ucSig (g : Image) : Nat :=
  let m := g.sec 1
  let n := 0x10 + 18 * (leAt m 4 2 + leAt m 6 2)
  (n + 15) / 16 * 16

/-- Reason 9: the MICROCODE signature, and every stored word valid without correction. -/
def Image.ucOk (g : Image) : Bool :=
  let m := g.sec 1
  let sb := sigBlock m g.ucSig m.length
  sb.ok && sb.chain 1 && sb.verifies (m.take g.ucSig)
    && (g.programs.1 ++ g.programs.2).all fun w => storeSyndrome w == 0

/-- MICROCODE's own ranges (R384). -/
def Image.ucRange (g : Image) : Bool :=
  let m := g.sec 1
  within 1 (leAt m 4 2) 8192 && within 1 (leAt m 6 2) 8192 && zeroAt m 8 8

/-- The KEYDOMAIN entries, as bytes from each entry's start; none where the frame breaks R390. -/
def kdEntries : Nat → List Byte → Option (List (List Byte))
  | 0, b => if b.all (· == 0) then some [] else none
  | n + 1, b =>
    let len := 0x690 + leAt b 0x688 4 + 3309 + 96
    let pad := (len + 15) / 16 * 16
    if b.length < pad ∨ !zeroAt b len (pad - len) then none
    else (kdEntries n (b.drop pad)).map fun r => b.take len :: r

/-- The entries of an image's KEYDOMAIN; none where the frame is broken. -/
def Image.keydomain (g : Image) : Option (List (List Byte)) :=
  if !g.has 10 then some []
  else
    let b := g.sec 10
    let n := leAt b 0 1
    if within 1 n 4 && zeroAt b 1 15 && b.length ≥ 16 then
      match kdEntries n (b.drop 16) with
      | some l => if (b.drop 16).length == (l.map fun e => (e.length + 15) / 16 * 16).foldl (· + ·) 0 then some l else none
      | none => none
    else none

/-- DCHASH of an entry. -/
def kdHash (e : List Byte) : List Byte := bytesAt e 0x10 48
/-- DCERT of an entry. -/
def kdCert (e : List Byte) : List Byte := bytesAt e 0x690 (leAt e 0x688 4)
/-- Whether an entry has ROLE 0. -/
def kdWrite (e : List Byte) : Bool := leAt e 4 1 == 0

/-- The KEK of an entry: one-step derivation of SP 800-56C with SHA-384 over counter, Z and FixedInfo (R258). -/
def kdKek (e : List Byte) : List Byte :=
  let z := Config.decapsulate (bytesAt e 0x40 1568)
  let info := [0x4C, 0x56, 0x58, 0x2D, 0x44, 0x4F, 0x4D, 0x41, 0x49, 0x4E, 0x2D, 0x4B, 0x45, 0x4B].map (BitVec.ofNat 8)
    ++ bytesAt e 8 8 ++ kdHash e
  (sha384 ([0, 0, 0, 1] ++ z ++ info)).take 32

/-- The domain key of an entry, none when WDKEY fails its integrity check. -/
def kdKey (e : List Byte) : Option (List Byte) := kwUnwrap (kdKek e) (bytesAt e 0x660 40)

/-- No element twice. -/
def distinct {α : Type} [BEq α] : List α → Bool
  | [] => true
  | a :: r => !r.contains a && distinct r

/-- Whether the ROLE 0 entry is accepted against the pin (Table 8.3). -/
def pinOk (es : List (List Byte)) (pin : List Byte) : Bool :=
  match es.find? kdWrite with
  | none => true
  | some e =>
    let n := 0x690 + leAt e 0x688 4
    pin.isEmpty || kdHash e == pin || (match es.find? fun r => !kdWrite r && kdHash r == pin with
      | some r => rolledBy (kdCert r) (e.take n) (bytesAt e n 3309) (bytesAt e (n + 3309) 96)
      | none => false)

/-- Reason 11: R258 and R259 over all entries. -/
def kdOk (es : List (List Byte)) (pin : List Byte) : Bool :=
  (es.all fun e => leAt e 0 4 == 0x4458564C && leAt e 4 1 ≤ 1 && zeroAt e 5 3 && zeroAt e 0x68C 4
      && leAt e 8 8 == Config.serial.toNat && kdHash e == sha384 (kdCert e) && (kdKey e).isSome)
    && (es.filter kdWrite).length ≤ 1 && distinct (es.map kdHash) && pinOk es pin

/-- The domain keys of accepted entries (R265). -/
def kdLoad (es : List (List Byte)) : List DomainKey :=
  es.map fun e => ⟨kdWrite e, kdHash e, (kdKey e).getD []⟩

/-! ### Acceptance (R367) -/

/-- The section table: TYPE, SVER, CRITICAL, OFS, LEN. -/
def sectTable (b : List Byte) : List (Nat × Nat × Bool × Nat × Nat) :=
  (List.range (leAt b 6 2)).map fun i =>
    let e := bytesAt b (0x100 + 16 * i) 16
    (leAt e 0 2, leAt e 2 1, (leAt e 3 1).testBit 0, leAt e 4 4, leAt e 8 4)

/-- Reason 3: R362, R363 and R366 on lengths and bounds. -/
def boundsOk (b : List Byte) : Bool :=
  let ilen := leAt b 0x10 4
  let sig := leAt b 0x14 4
  let st := sectTable b
  within 1 (leAt b 6 2) 16 && ilen ≤ 8388608 && sig % 16 == 0 && (sigBlock b sig ilen).ok
    && (st.all fun s => s.2.2.2.1 % 16 == 0 && s.2.2.2.1 ≥ 0x1000 && s.2.2.2.1 + s.2.2.2.2 ≤ sig)
    && ((List.range (leAt b 6 2)).all fun i => leAt b (0x103 + 16 * i) 1 < 2 && zeroAt b (0x10C + 16 * i) 4)
    && apart (st.map fun s => (s.2.2.2.1, s.2.2.2.2)) && zeroAt b 0x20 32 && zeroAt b 0x80 128 && zeroAt b 0x200 3584
    && zeroAt b (0x100 + 16 * leAt b 6 2) (16 * (16 - leAt b 6 2))

/-- The image's contents once its bounds hold. -/
def imageOf (b : List Byte) : Image :=
  ⟨BitVec.ofNat 32 (leAt b 8 4), BitVec.ofNat 32 (leAt b 0xC 4),
   (sectTable b).map fun s => (s.1, bytesAt b s.2.2.2.1 s.2.2.2.2)⟩

/-- Reason 10 over every section. -/
def Image.rangesOk (g : Image) : Bool :=
  let gs := g.geos
  g.ucRange && (g.sec 2).length == 256 * gs.length && within 1 gs.length 8 && gs.all geoOk && distinct (gs.map geoId)
    && g.loopsOk && g.smallOk && g.poolsOk && g.eventsOk && g.monitorsOk && g.pinsOk && g.thrOk && g.keydomain.isSome

/-- The acceptance checks of Table 11.6 in order: the image, or the reason of the first failure (R367). -/
def accept (r : SlotRead) (floor : BitVec 32) (pin : List Byte) : Except Nat Image :=
  let b := r.bytes
  let st := sectTable b
  let g := imageOf b
  let ilen := leAt b 0x10 4
  let sig := leAt b 0x14 4
  let sb := sigBlock b sig ilen
  if leAt b 0 4 ≠ 0x4958564C ∨ leAt b 4 2 ≠ 1 then .error 1
  else if leAt b 0x18 4 ≠ Config.devId.toNat ∨ Config.devRev.toNat < leAt b 0x1C 4 then .error 2
  else if !boundsOk b then .error 3
  else if r.strobeFault ∨ b.length < ilen then .error 4
  else if !sb.chain 0 then .error 5
  else if !sb.verifies (b.take sig) then .error 6
  else if leAt b 0xC 4 < floor.toNat then .error 7
  else if !(requiredSections.all g.has) || !distinct (st.map fun s => s.1)
      || (st.any fun s => s.2.2.1 && !(within 1 s.1 12)) || (st.any fun s => within 1 s.1 12 && s.2.1 != 1) then .error 8
  else if !g.ucOk then .error 9
  else if !g.rangesOk then .error 10
  else if !kdOk (g.keydomain.getD []) pin then .error 11
  else .ok g

end Sys2Proof.Machine
end

