-- ==== Sys2Proof/Machine/Format.lean ====
section
/-!
DEFINITION. The Itholt format (02) and the encoding order (03): gathering headers, tags and chain values, segment
tables, endpaper and spine streams, rows and their cells, the rotation of rows over tracks, and C3 accumulation.
-/
namespace Sys2Proof.Machine

/-- Payload bytes of a gathering (R49). -/
def payloadBytes : Nat := 552960
/-- Data-area bytes of a gathering. -/
def areaBytes : Nat := 556800

/-! ### Gathering headers (R52 to R55) -/

/-- KIND of the row headers (Table 2.5). -/
def GKind.row : GKind → Nat
  | .data => 0
  | .parity => 1
  | _ => 2
/-- KIND byte of a gathering header (Table 2.5). -/
def GKind.byte : GKind → Nat
  | .data | .parity => 0
  | .endpaper => 1
  | .spine => 2
  | .colophon => 3
/-- Whether a gathering is a label gathering. -/
def GKind.label : GKind → Bool
  | .data | .parity => false
  | _ => true

/-- SFLAGS of a segment (Table 2.7). -/
def Seg.flags (g : Seg) : Nat := g.first.toNat + 2 * g.last.toNat + 4 * g.inc.toNat

/-- The 24 bytes of a segment-table entry (Table 2.7). -/
def Seg.bytes (g : Seg) : List Byte := beBytes 8 g.lon ++ beBytes 8 g.offset ++ beBytes 4 g.len ++ beBytes 4 g.flags

/-- The nonce of a gathering: prefix and number (Table 2.6). -/
def nonceOf (v : VolCtx) (gnum : Nat) : List Byte := beBytes 4 v.npfx.toNat ++ beBytes 8 gnum

/-- Header bytes 0x000 to 0xEFB with the fields that placement fills given (Table 2.6). -/
def headerBody (v : VolCtx) (g : Gath) (wrap lpos : Nat) (tag prev : List Byte) : List Byte :=
  beBytes 4 0x49544847 ++ [1] ++ beBytes 1 g.kind.byte ++ beBytes 2 0xF00 ++ padTo 16 v.volid ++ beBytes 8 g.gnum
    ++ (if g.kind.label then List.replicate 8 0xFF else beBytes 8 g.quire) ++ beBytes 1 g.qpos ++ beBytes 1 v.depth
    ++ beBytes 1 v.parity ++ beBytes 1 (g.flushEnd.toNat + 2 * g.groupEnd.toNat) ++ beBytes 2 wrap
    ++ beBytes 2 g.segs.length ++ beBytes 4 lpos ++ beBytes 4 g.payload.length ++ nonceOf v g.gnum ++ padTo 16 tag
    ++ padTo 48 prev ++ zeros 124 ++ padTo 2880 (g.segs.flatMap Seg.bytes) ++ zeros 700

/-- The header with its CRC (R55). -/
def headerBytes (v : VolCtx) (g : Gath) : List Byte :=
  let b := headerBody v g g.wrap g.lpos g.tag g.prev
  b ++ beBytes 4 (crc32c b)

/-- The additional authenticated data: the header with WRAP, LPOS, TAG, PREV and CRC zero, and in a label gathering the
payload (R53). -/
def gathAad (v : VolCtx) (g : Gath) : List Byte :=
  headerBody v g 0 0 [] [] ++ zeros 4 ++ (if g.kind.label then padTo payloadBytes g.payload else [])

/-- Encryption of a gathering, or authentication of a label gathering, under the key of the station's slot (R53, R113, R265): the payload as recorded and the tag. -/
def sealGath (key : List Byte) (v : VolCtx) (g : Gath) : Gath :=
  if g.kind = .parity then { g with encrypted := true }
  else
    let pt := if g.kind.label then [] else padTo payloadBytes g.payload
    let r := gcmEncrypt key (nonceOf v g.gnum) (gathAad v g) pt
    { g with encrypted := true, tag := r.2, cipher := if g.kind.label then padTo payloadBytes g.payload else r.1 }

/-- The 556,800-byte data area (R49); a C3 parity gathering is all parity. -/
def Gath.area (v : VolCtx) (g : Gath) : List Byte :=
  if g.kind = .parity then padTo areaBytes g.payload else headerBytes v g ++ padTo payloadBytes g.cipher

/-- The chain value (R54). -/
def Gath.chainOf (v : VolCtx) (g : Gath) : List Byte := sha384 (g.area v)

/-! ### C3 accumulation (R91, R93) -/

/-- The parity of a quire's codeword that holds 1 at position k and 0 elsewhere. -/
def c3Unit (p k : Nat) : List Nat := c3Parity p ((List.range 32).map fun i => if i = k then 1 else 0)

/-- A data area added to the P byte strings of its quire's accumulators, at position k. Adding it again removes it. -/
def c3Add (p k : Nat) (area : List Byte) (acc : List (List Byte)) : List (List Byte) :=
  let u := c3Unit p k
  (List.range p).map fun j =>
    List.zipWith (fun a b => a ^^^ BitVec.ofNat 8 (gf8.mul (u.getD j 0) b.toNat)) (padTo areaBytes (acc.getD j [])) area

/-- The accumulators of a quire. -/
def VolCtx.acc (v : VolCtx) (q : Nat) : List (List Byte) :=
  match v.accs.find? fun a => a.1 == q with
  | some a => a.2
  | none => List.replicate v.parity (zeros areaBytes)

/-- A quire's accumulators replaced. -/
def VolCtx.setAcc (v : VolCtx) (q : Nat) (a : List (List Byte)) : VolCtx :=
  { v with accs := (q, a) :: v.accs.filter fun x => x.1 != q }

/-! ### Rows and cells (R44 to R50, R79 to R89) -/

/-- The 464 symbols of data row r. -/
def dataRow (area : List Byte) (r : Nat) : List Nat := rowSymbols (bytesAt area (580 * r) 580)

/-- The 32 parity symbols of C2 codeword (s, p) (R87). -/
def c2Column (area : List Byte) (s p : Nat) : List Nat :=
  c2Parity ((List.range 480).map fun i => (dataRow area (2 * i + p)).getD s 0)

/-- The 464 symbols of row r of a gathering: a data row, or a C2 parity row (R87, R88). -/
def gathRow (area : List Byte) (r : Nat) : List Nat :=
  if r < 960 then dataRow area r
  else (List.range 464).map fun s => (c2Column area s (r % 2)).getD ((r - 960) / 2) 0

/-- The 48 header bits of a row, bit 47 first (R46, R83). -/
def rowHeader (kind row gnum : Nat) : List Bool :=
  let b := bitsOfNat 2 kind ++ bitsOfNat 10 row ++ bitsOfNat 18 gnum ++ bitsOfNat 2 0
  b ++ bitsOfNat 16 (crc16 b)

/-- The 5,216 cells of a row (Table 2.3): its header identity and its 464 data symbols. -/
def rowCells (kind row gnum : Nat) (syms : List Nat) : List Bool :=
  let word := syms ++ c1Parity syms
  let blocks := chunks 32 155 (word.flatMap (bitsOfNat 10))
  syncMark ++ encodeHeader (rowHeader kind row gnum) ++ (blocks.flatMap fun b => encode33 (natOfBits b)) ++ postamble

/-- The cells of a filler row (R64). -/
def fillerCells (row gnum : Nat) : List Bool := rowCells 3 row gnum (List.replicate 464 0)

/-- The row that track t carries at position π of gathering g (R89). -/
def rowOn (g pos t : Nat) : Nat := 128 * pos + (t + 128 * 20 - 19 * pos - 2 * (g % 64)) % 128

/-- The track and position of row r of gathering g (R89). -/
def trackOf (g r : Nat) : Nat := (r % 128 + 19 * (r / 128) + 2 * (g % 64)) % 128

/-- The marker of a row position (Table 2.2). -/
def markerCells : PosKind → List Bool
  | .gathering _ _ 0 | .tail _ 0 => bitsOfNat 16 0b0000000010101010
  | .gathering _ _ _ | .tail _ _ => bitsOfNat 16 0b0000101010101010
  | .band _ => bitsOfNat 16 0b0000101000001010
  | .splice => bitsOfNat 16 0b0000000000001010

/-- The cells of a clock track in a row position (R43). -/
def clockCells (k : PosKind) : List Bool := markerCells k ++ (List.range 5200).map fun i => i % 2 == 0

/-! ### Label payloads -/

/-- Endpaper payload bytes 0x000 to 0x1FF (Table 2.8). -/
def endpaperPayload (volid : List Byte) (geo : List Byte) (depth parity : Nat) (domain wrapped : List Byte)
    (npfx : BitVec 32) (prov srcvol : List Byte) (lifeg pwrcnt : BitVec 64) (imgver secver : BitVec 32) (hlabel : List Byte) : List Byte :=
  beBytes 4 0x49544845 ++ [1] ++ zeros 3 ++ padTo 16 volid ++ beBytes 4 (geoId geo) ++ beBytes 1 depth ++ beBytes 1 parity
    ++ zeros 2 ++ padTo 48 domain ++ padTo 40 wrapped ++ beBytes 4 npfx.toNat ++ zeros 4 ++ padTo 48 prov ++ padTo 16 srcvol
    ++ beBytes 8 lifeg.toNat ++ beBytes 8 pwrcnt.toNat ++ beBytes 4 imgver.toNat ++ beBytes 4 secver.toNat
    ++ padTo 8 hlabel ++ zeros 32 ++ padTo 256 geo

/-- A LON range; one that holds no LON is all ones and zero (R478). -/
def lonRange (lo hi : Option Nat) : List Byte :=
  match lo, hi with
  | some a, some b => beBytes 8 a ++ beBytes 8 b
  | _, _ => List.replicate 8 0xFF ++ zeros 8

/-- The least of the known numbers. -/
def minO (a b : Option Nat) : Option Nat :=
  match a, b with
  | some x, some y => some (min x y)
  | some x, none => some x
  | none, y => y
/-- The greatest of the known numbers. -/
def maxO (a b : Option Nat) : Option Nat :=
  match a, b with
  | some x, some y => some (max x y)
  | some x, none => some x
  | none, y => y

/-- A spine's quire entry (Table 2.10). -/
def QEntry.bytes (e : QEntry) : List Byte :=
  beBytes 8 e.quire ++ lonRange e.lo e.hi ++ beBytes 4 e.lpos ++ beBytes 1 e.ndata ++ beBytes 1 e.npar ++ beBytes 2 e.wrap

/-- The spine stream of wrap w (Table 2.9): E entries for the quires that begin on w, in quire order. -/
def spineStream (v : VolCtx) (w : Nat) : List Byte :=
  let own := v.quires.filter fun q => q.wrap == w
  let tab := (List.range (w + 1)).flatMap fun x =>
    let qs := v.quires.filter fun q => q.wrap == x
    beBytes 8 (v.wrapFirst.getD x (v.quires.filter (fun q => q.wrap < x)).length)
      ++ lonRange (qs.foldl (fun a q => minO a q.lo) none) (qs.foldl (fun a q => maxO a q.hi) none)
  beBytes 4 0x49544853 ++ [1] ++ zeros 1 ++ beBytes 2 w ++ padTo 16 v.volid ++ beBytes 4 (48 + 24 * (w + 1) + 32 * own.length)
    ++ beBytes 4 own.length ++ beBytes 2 (w + 1) ++ zeros 14 ++ tab ++ own.flatMap QEntry.bytes

/-- A stream cut into the payloads of its parts (R71, R72); at least one. -/
def streamParts (s : List Byte) : List (List Byte) :=
  chunks payloadBytes (s.length / payloadBytes + 1) s

/-- A gathering newly numbered, with nothing done to it yet. -/
def Gath.fresh (kind : GKind) (gnum quire qpos : Nat) (payload : List Byte) : Gath :=
  { kind := kind, gnum := gnum, quire := quire, qpos := qpos, flushEnd := false, groupEnd := false, segs := [], payload := payload,
    cipher := [], tag := [], wrap := 0, lpos := 0, prev := [], crc := 0, chain := [], encrypted := false, released := false,
    placed := false, recorded := false, accepted := false, poisoned := false, closure := false, group := 0,
    dead := [], unre0 := 0, unre1 := 0, reachEnd := 0, buffer := none, c2Buf := none }

end Sys2Proof.Machine
end

