-- ==== Sys2Proof/Machine/Ops.lean ====
section
/-!
DEFINITION. The named operations on State that everything else is built from: one changer for each owner (port, die,
station, stack, store, queue), the free-value draw, the log of what leaves the package, and the package-wide read-outs.
-/
namespace Sys2Proof.Machine

/-- The element of a vector at `i` changed by `f`. -/
def vmod {α : Type} {n : Nat} (v : Vector α n) (i : Fin n) (f : α → α) : Vector α n := v.set i (f v[i])

/-! ### One changer for each owner -/

/-- A host port changed by `f`. -/
def State.modPort (s : State) (p : Port) (f : HostPort → HostPort) : State := { s with ports := vmod s.ports p f }
/-- A die changed by `f`. -/
def State.modDie (s : State) (d : DieId) (f : Die → Die) : State := { s with dies := vmod s.dies d f }
/-- A station changed by `f`. -/
def State.modStn (s : State) (t : Stn) (f : Station → Station) : State := { s with stns := vmod s.stns t f }
/-- A stack changed by `f`. -/
def State.modStack (s : State) (k : Fin 4) (f : Stack → Stack) : State := { s with hbm := vmod s.hbm k f }
/-- A control store changed by `f`. -/
def State.modStore (s : State) (k : Fin 10) (f : Store → Store) : State := { s with stores := vmod s.stores k f }
/-- Both ports changed by `f`, which sees the port number. -/
def State.eachPort (s : State) (f : Port → HostPort → HostPort) : State :=
  (s.modPort 0 (f 0)).modPort 1 (f 1)
/-- Both dies changed by `f`. -/
def State.eachDie (s : State) (f : DieId → Die → Die) : State := (s.modDie 0 (f 0)).modDie 1 (f 1)
/-- Every station, in rising order. -/
def allStns : List Stn := [0, 1, 2, 3, 4, 5, 6, 7]
/-- Every lane, in rising order. -/
def allLanes : List Lane := [0, 1, 2, 3, 4, 5, 6, 7, 8, 9, 10, 11, 12, 13, 14, 15]
/-- Every station changed by `f`. -/
def State.eachStn (s : State) (f : Stn → Station → Station) : State :=
  allStns.foldl (fun a t => a.modStn t (f t)) s

/-- A pool of a die changed by `f`. -/
def Die.modPool (d : Die) (p : Fin 5) (f : Pool → Pool) : Die := { d with pools := vmod d.pools p f }
/-- An engine region of a die changed by `f`. -/
def Die.modEngine (d : Die) (r : Fin 4) (f : Engine → Engine) : Die := { d with engines := vmod d.engines r f }
/-- A trace queue of a die changed by `f`. -/
def Die.modTrace (d : Die) (q : Fin 4) (f : TraceQ → TraceQ) : Die := { d with trace := vmod d.trace q f }
/-- A monitor slot of a die changed by `f`. -/
def Die.modMon (d : Die) (m : Fin 64) (f : MonSlot → MonSlot) : Die := { d with monitors := vmod d.monitors m f }

/-- The link of a station changed by `f`. -/
def Station.modLink (t : Station) (f : Link → Link) : Station := { t with link := f t.link }
/-- The servo of a station changed by `f`. -/
def Station.modServo (t : Station) (f : Servo → Servo) : Station := { t with servo := f t.servo }
/-- The speed matching of a station changed by `f`. -/
def Station.modSpeed (t : Station) (f : Speed → Speed) : Station := { t with speed := f t.speed }
/-- The write side of a station changed by `f`. -/
def Station.modWrite (t : Station) (f : Write → Write) : Station := { t with write := f t.write }
/-- The recall side of a station changed by `f`. -/
def Station.modRecall (t : Station) (f : Recall → Recall) : Station := { t with readSide := f t.readSide }
/-- The volume context of a station, if it has one, changed by `f`. -/
def Station.modCtx (t : Station) (f : VolCtx → VolCtx) : Station := { t with ctx := t.ctx.map f }
/-- A lane of a link changed by `f`. -/
def Link.modLane (k : Link) (l : Lane) (f : LaneRx → LaneRx) : Link := { k with lanes := vmod k.lanes l f }

/-- Cells of the run being sent that the lane with the sideband has sent: lane 0, or lane 1 while it is down (R188). -/
def Link.leadCells (k : Link) : Nat :=
  if (k.lanes[(0 : Fin 16)]).up then (k.lanes[(0 : Fin 16)]).txCells else (k.lanes[(1 : Fin 16)]).txCells
/-- A run of cells ends: the next one begins at the write cell number that follows (R175). -/
def Link.endRun (k : Link) : Link :=
  { k with wcell := k.wcell + BitVec.ofNat 32 k.leadCells, lanes := k.lanes.map fun l => { l with txCells := 0 } }
/-- At the start of reading the detectors start anew (R202), and so does the grid. -/
def Link.startReading (k : Link) (g : Image) : Link :=
  { k with peaks := Vector.replicate 128 ⟨g.thrInit * 256, none⟩, grid := none, marks := [], cut := true }
/-- The head leaves a wrap: no rewrite band of it is still to be read (R97). -/
def Link.leaveWrap (k : Link) : Link := { k with rxBand := k.rxBand + 4, cut := true }

/-! ### Stations in fault (R193) -/

/-- Whether a station is in fault, for whatever cause. -/
def Station.inFault (t : Station) : Bool := !t.faults.isEmpty
/-- A cause of fault joins those in force. -/
def Station.addFault (t : Station) (f : StnFault) : Station :=
  if t.faults.contains f then t else { t with faults := t.faults ++ [f] }

/-! ### Numbers of owners -/

/-- The die of a station (Table 0.1). -/
def dieOf (t : Stn) : DieId := if t.val < 4 then 0 else 1
/-- The die of a stack (R413). -/
def dieOfStack (k : Fin 4) : DieId := if k.val < 2 then 0 else 1
/-- The control store of a station's timetable sequencer; stores 8 and 9 are the signal boxes (R380). -/
def stnStore (t : Stn) : Fin 10 := t.castLE (by decide)
/-- The control store of a die's signal box. -/
def boxStore (d : DieId) : Fin 10 := if d = 0 then 8 else 9
/-- The station of a number below 8. -/
def stnOf (n : Nat) : Stn := ⟨n % 8, by omega⟩
/-- The port or die of a number below 2. -/
def fin2 (n : Nat) : Fin 2 := ⟨n % 2, by omega⟩
/-- The pool of a number below 5. -/
def fin5 (n : Nat) : Fin 5 := ⟨n % 5, by omega⟩

/-! ### Free values and what leaves the package -/

/-- A value the spec leaves open, and the state in which it has been drawn (log 5). -/
def State.draw (s : State) : Nat × State := (Config.freeNat s.fresh, { s with fresh := s.fresh + 1 })

/-- Bytes drawn from the CTR_DRBG, and the state after the draw (R263, log 5). -/
def State.drawBytes (s : State) (n : Nat) : List Byte × State :=
  (padTo n (Config.drbg s.fresh), { s with fresh := s.fresh + 1 })

/-- Something leaves the package (log 10). -/
def State.emit (s : State) (o : Out) : State := { s with out := o :: s.out }

/-! ### Package-wide read-outs -/

/-- DEV_STATUS.READY (Table 14.4). -/
def State.ready (s : State) : Bool := s.rst.stage == .ready
/-- The running image, or an empty one where none runs. -/
def State.img (s : State) : Image := s.boot.image.getD ⟨0, 0, []⟩
/-- FABRIC cycles since the last cold reset, as packets and logs show them (R426) (DESIGN CHOICE, log 105). -/
def State.time (s : State) : Nat := (s.clock - s.rst.coldAt) % 2 ^ 48
/-- Whether a station is usable: STNMAP (Table 14.3). -/
def State.usable (s : State) (t : Stn) : Bool := s.stnMap.getLsbD t.val
/-- FEAT_OFFER: enabled features that the silicon supports; bit 0 only in the recovery state (R378). -/
def State.featOffer (s : State) : BitVec 64 :=
  if s.boot.recovery then 1 else Config.features &&& s.img.enable

end Sys2Proof.Machine
end

