-- ==== Sys2Proof/Machine/Flags.lean ====
section
/-!
DEFINITION. Events, trace queues and monitors (13): how a status flag is raised, masked, routed and cleared, how a
packet is written and a word popped, and how a monitor slot takes a sample.
-/
namespace Sys2Proof.Machine

/-! ### Trace queues (R424 to R432) -/

/-- Words a trace queue can hold (R424). -/
def traceDepth : Nat := 8192

/-- A saturating count of `w` bits increased by 1. -/
def satInc {w : Nat} (x : BitVec w) : BitVec w := if x = BitVec.allOnes w then x else x + 1

/-- Whether the packet last written has not been ended: the queue's youngest word has no end mark, or the queue was
emptied in the middle of a packet. -/
def TraceQ.openPkt (q : TraceQ) : Bool :=
  match q.words.getLast? with
  | some w => !w.last
  | none => q.frag

/-- The queue without its head word; what remains of that word's packet is a fragment (R427). -/
def TraceQ.dropHead (q : TraceQ) : TraceQ :=
  match q.words with
  | [] => q
  | w :: r => { q with words := r, frag := !w.last }

/-- The queue emptied by a flush (R430): what is still to come of a packet being written is a fragment. -/
def TraceQ.empty (q : TraceQ) : TraceQ := { q with words := [], frag := q.openPkt, bfPend := false }

/-- One word arrives (R427), with whether it cost the queue its oldest word. A pending boundary flush acts once an
end-marked word is in (R430, R431). -/
def TraceQ.put (q : TraceQ) (data : BitVec 64) (last : Bool) : TraceQ × Bool :=
  let full := q.words.length ≥ traceDepth
  let q1 := if full then { q.dropHead with lost := satInc q.lost } else q
  let q2 := { q1 with words := q1.words ++ [⟨data, last, secded data last⟩] }
  (if q2.bfPend && last then q2.empty else q2, full)

/-- A packet's words arrive in order; the last carries the end mark (R426). A disabled queue takes none. -/
def TraceQ.putAll (q : TraceQ) : List (BitVec 64) → TraceQ × Bool
  | [] => (q, false)
  | [w] => q.put w true
  | w :: r =>
    let a := q.put w false
    let b := TraceQ.putAll a.1 r
    (b.1, a.2 || b.2)

/-- Whole packets waiting (R429). -/
def TraceQ.packets (q : TraceQ) : Nat :=
  let n := (q.words.filter (·.last)).length
  if q.frag && n > 0 then n - 1 else n

/-- The header word of a packet (R426). -/
def packetHead (type src time : Nat) : BitVec 64 :=
  BitVec.ofNat 8 type ++ BitVec.ofNat 8 src ++ BitVec.ofNat 48 time

/-- A packet is written to queue `q` of die `d`, and whether the event of a first loss is due (R427). -/
def State.putTrace (s : State) (d : DieId) (q : Fin 4) (words : List (BitVec 64)) : State × Bool :=
  let tq := s.dies[d].trace[q]
  if !tq.en then (s, false)
  else
    let r := tq.putAll words
    let first := r.2 && !r.1.lossSeen
    (s.modDie d fun x => x.modTrace q fun _ => { r.1 with lossSeen := r.1.lossSeen || r.2 }, first)

/-! ### Raising an event (R413 to R418) -/

/-- The sources whose mask and routing cannot silence them: the die faults (R416). -/
def alwaysSent (n : Nat) : Bool := n == 198 || n == 214

/-- The die whose event trace queue takes a source's packets (R418). -/
def srcDie (n : Nat) : DieId :=
  if n < 32 then 0
  else if n < 64 then dieOfStack ⟨(n - 32) / 8 % 4, by omega⟩
  else if n < 192 then dieOf (stnOf ((n - 64) / 16))
  else if n < 224 then fin2 ((n - 192) / 16)
  else if n < 240 then fin2 ((n - 224) / 8)
  else fin2 ((n - 240) / 8)

/-- The vector that a source counts as routed to on a port, if any (R416). -/
def HostPort.vecOf (h : HostPort) (n : Nat) : Option Nat :=
  let v := (h.route.toList.getD n 0xFF).toNat
  if v = 0xFF then (if alwaysSent n then some 0 else none) else some v

/-- A message on a vector: sent, or held as the pending bit where the MSI-X table masks the vector; none where the link
is down or MSI-X is disabled (R414, R415). -/
def State.msix (s : State) (p : Port) (v : Nat) : State :=
  let h := s.ports[p]
  if !h.linkUp || !h.msixEn then s
  else if h.msixMask.getLsbD v then
    s.modPort p fun x => { x with msixPend := x.msixPend ||| BitVec.twoPow 64 v }
  else s.emit (.msix p v)

/-- A port sends the message of a source that its mask lets through and that has a vector (R414). -/
def State.sendEvent (s : State) (p : Port) (n : Nat) : State :=
  let h := s.ports[p]
  if h.mask.getLsbD n && !alwaysSent n then s
  else match h.vecOf n with
    | some v => s.msix p v
    | none => s

/-- A raise as one port sees it: the status bit is set, and a message goes only on a change from 0 to 1 (R414). -/
def State.raisePort (s : State) (p : Port) (n : Nat) : State :=
  if s.ports[p].stat.getLsbD n then s
  else (s.modPort p fun x => { x with stat := x.stat ||| BitVec.twoPow 256 n }).sendEvent p n

/-- The packet of a raise (Table 13.4). -/
def eventPacket (n time detail : Nat) : List (BitVec 64) := [packetHead 1 n time, BitVec.ofNat 64 detail]

/-- A raise without the loss event that its own packet may cause. -/
def State.raise1 (s : State) (n detail : Nat) : State × Bool :=
  ((s.raisePort 0 n).raisePort 1 n).putTrace (srcDie n) 1 (eventPacket n s.time detail)

/-- EVENT_RAISE: source `n` is raised in both ports and written to the event trace queue (R414, R418). The first loss
of a word in that queue raises 240 + 8d + 2 in turn (R427); its own packet can raise it no second time. -/
def State.raise (s : State) (n : Nat) (detail : Nat := 0) : State :=
  let r := s.raise1 n detail
  if r.2 then (r.1.raise1 (242 + 8 * (srcDie n).val) 0).1 else r.1

/-- TRACE_WORD_WRITE: a packet goes to a queue, and the first loss since LOST was cleared raises its event (R427). -/
def State.trace (s : State) (d : DieId) (q : Fin 4) (words : List (BitVec 64)) : State :=
  let r := s.putTrace d q words
  if r.2 then r.1.raise (242 + 8 * d.val) else r.1

/-- Raises of several sources in turn. -/
def State.raiseAll (s : State) (l : List Nat) : State := l.foldl (fun a n => a.raise n) s

/-! ### Popping a word (R425, R428) -/

/-- The head word is dropped as uncorrectable: UNC and LOST count it and the event is raised (R425). -/
def State.dropWord (s : State) (d : DieId) (q : Fin 4) : State :=
  (s.modDie d fun x => x.modTrace q fun t =>
    { t.dropHead with lost := satInc t.lost, unc := satInc t.unc }).raise (242 + 8 * d.val)

/-- The pop of a queue for port `p`; `flips` is what the stored word reads wrong. The word delivered goes to `out`; a
read of an empty queue returns the last word popped and sets UNDERRUN; where the word is dropped the spec states no
value, and a free value is read (log 16). -/
def State.popTrace (s : State) (p : Port) (d : DieId) (q : Fin 4) (flips : BitVec 73) : BitVec 64 × State :=
  let t := s.dies[d].trace[q]
  match t.words with
  | [] => (t.lastWord, s.modPort p fun x => { x with underrun := x.underrun ||| BitVec.twoPow 8 (4 * d.val + q.val) })
  | w :: _ =>
    let data := w.data ^^^ flips.extractLsb' 0 64
    let last := w.last ^^ flips.getLsbD 64
    let check := w.check ^^^ flips.extractLsb' 65 8
    match secdedRead data last check with
    | some (v, e, c) =>
      (v, s.modDie d fun x => x.modTrace q fun t =>
        { { t with words := ⟨v, e, w.check⟩ :: t.words.drop 1 }.dropHead with
          lastWord := v, lastEnd := e, lastCorr := c, corr := if c then satInc t.corr else t.corr })
    | none =>
      let f := (s.dropWord d q).draw
      (BitVec.ofNat 64 f.1, f.2)

/-! ### Monitors (R419, R421, R423) -/

/-- Captures cleared (R419). -/
def MonSlot.clear (m : MonSlot) : MonSlot :=
  { m with min := 0, max := 0, count := 0, bins := Vector.replicate 32 0, empty := true, sat := false }

/-- The bin of a sample: as many edges as it has reached (R419). -/
def monBin (sgn : Bool) (edges : List (BitVec 32)) (v : BitVec 32) : Nat :=
  (edges.takeWhile fun e => !monLt sgn v e).length

/-- A running slot takes a sample (R419). The flag says whether a bin has just saturated for the first time. -/
def MonSlot.sample (m : MonSlot) (v : BitVec 32) : MonSlot × Bool :=
  if !m.run then (m, false)
  else
    let sgn := srcSigned m.source
    let b : Fin 32 := ⟨monBin sgn m.edges v % 32, by omega⟩
    let bins := vmod m.bins b satInc
    let full := bins[b] == 0xFFFFFFFF
    ({ m with min := if m.empty || monLt sgn v m.min then v else m.min,
              max := if m.empty || monLt sgn m.max v then v else m.max,
              count := m.count + 1, bins := bins, empty := false, sat := m.sat || full }, full && !m.sat)

/-- A slot takes a sample, and the first saturation in it raises its event (R419). -/
def State.monTake (s : State) (d : DieId) (k : Fin 64) (v : BitVec 32) : State :=
  let r := s.dies[d].monitors[k].sample v
  let s1 := s.modDie d fun x => x.modMon k fun _ => r.1
  if r.2 then s1.raise (243 + 8 * d.val) else s1

/-- The copy that a write of MON_SEL takes (R423). -/
def MonSlot.snapshot (m : MonSlot) : MonSnap :=
  { run := m.run, empty := m.empty, signed := srcSigned m.source, sat := m.bins.toList.any (· == 0xFFFFFFFF),
    source := m.source, min := m.min, max := m.max, count := m.count, bins := m.bins }

/-- The slot as the MONITORS section starts it, for the entries that name it (R422). -/
def MonSlot.start (op : Nat) (src : BitVec 32) (data : List Byte) : MonSlot :=
  match monEdges op src data with
  | some e => { MonSlot.reset with run := true, source := src, edges := e }
  | none => MonSlot.reset

end Sys2Proof.Machine
end

