-- ==== Sys2Proof/Machine/Hbm.lean ====
section
/-!
DEFINITION. Buffer memory (09): where a page lies, reading and writing the bytes of the stacks, the page sideband, the
buffer error log, corrected and uncorrectable reads, remapping, and the HBM arbiter's classes.
-/

namespace Sys2Proof

/-! ### Where a page lies (R283, R284) -/

/-- Bytes of one stack. -/
def stackBytes : Nat := 36 * 2 ^ 30
/-- Bytes of a physical page (R285). -/
def pageBytes : Nat := 4224
/-- Data pages of a region (Table 9.1). -/
def regionPages : HbmRegion → Nat
  | .pool => 8912896
  | .selfTest => 196608
  | .trace => 32768
  | .errorLog => 4096
  | .spare => 4096
/-- Where a region starts in its stack: the regions in the order of Table 9.1. -/
def regionBase : HbmRegion → Nat
  | .pool => 0
  | .selfTest => 35904 * 2 ^ 20
  | .trace => 36696 * 2 ^ 20
  | .errorLog => 36828 * 2 ^ 20
  | .spare => 36828 * 2 ^ 20 + 4096 * 4224
/-- Pages of a stack that are ever accessed. -/
def stackPages : Nat := 9150464

/-- DPNs of one die (R284). -/
def dieDpns : Nat := 17825792
/-- The page of a DPN (R284). -/
def dpnPage (d : DieId) (n : Nat) : PageAddr :=
  ⟨⟨(2 * d.val + n % 64 / 32) % 4, by omega⟩, .pool, n / 64 * 32 + n % 32⟩
/-- The DPN of a page of the pool region, or the frame number outside it: the sideband's DPN field (Table 9.2). -/
def pageName (k : Fin 4) (r : HbmRegion) (f : Nat) : Nat :=
  match r with
  | .pool => f / 32 * 64 + k.val % 2 * 32 + f % 32
  | _ => f
/-- The DPN field of a page. -/
def PageAddr.name (a : PageAddr) : Nat := pageName a.stack a.region a.frame
/-- The pseudo-channel of a page; outside the pool region it is taken to walk like the pool's (DEDUCED, log 17). -/
def PageAddr.channel (a : PageAddr) : Fin 32 := ⟨a.frame % 32, by omega⟩
/-- Whether such a page exists (Table 9.1). -/
def PageAddr.exists (a : PageAddr) : Bool := a.frame < regionPages a.region
/-- The first byte of a page. -/
def PageAddr.base (a : PageAddr) : Nat := a.stack.val * stackBytes + regionBase a.region + a.frame * pageBytes

/-- The n-th page of a stack in the patrol's order: ascending frames, region after region of Table 9.1 (R295). -/
def patrolPage (k : Fin 4) (n : Nat) : PageAddr :=
  if n < 8912896 then ⟨k, .pool, n⟩
  else if n < 9109504 then ⟨k, .selfTest, n - 8912896⟩
  else if n < 9142272 then ⟨k, .trace, n - 9109504⟩
  else if n < 9146368 then ⟨k, .errorLog, n - 9142272⟩
  else ⟨k, .spare, n - 9146368⟩

/-- The three results of a page read (R287). -/
inductive PageOutcome where
  | clean
  | corrected (bits : Nat)
  | uncorrectable
  deriving DecidableEq, Repr

/-- Whether a read's outcome is uncorrectable (R287). -/
def PageOutcome.bad : PageOutcome → Bool
  | .uncorrectable => true
  | _ => false
/-- Bits corrected in an outcome. -/
def PageOutcome.fixed : PageOutcome → Nat
  | .corrected n => n
  | _ => 0

/-- A read of the page addressed, every bit right. -/
def PageLine.clean : PageLine := ⟨[], none⟩

end Sys2Proof

namespace Sys2Proof.Machine

/-! ### Bytes (R285, R288) -/

/-- What the cold-start fill leaves in a byte of a page's data and sideband fields: zero, but for the page's own DPN or
frame number (R288). The parity field is computed (`State.pageParity`) and takes no cells (DEDUCED, log 11). -/
def fillByte (a : Nat) : Byte :=
  let k : Fin 4 := ⟨a / stackBytes % 4, by omega⟩
  let o := a % stackBytes
  let r := if o < regionBase .selfTest then HbmRegion.pool else if o < regionBase .trace then .selfTest
    else if o < regionBase .errorLog then .trace else if o < regionBase .spare then .errorLog else .spare
  let f := (o - regionBase r) / pageBytes
  let b := (o - regionBase r) % pageBytes
  if 4120 ≤ b ∧ b < 4124 then BitVec.ofNat 8 (pageName k r f / 256 ^ (b - 4120)) else 0

/-- Reading one byte of the stacks: what is listed, else what the cold-start fill left. -/
def Memory.read (m : List Host.Cell) (a : Nat) : Byte :=
  match m with
  | [] => fillByte a
  | c :: r => if c.1 = a then c.2 else Memory.read r a

/-- Writing one byte; the canonical form is kept: addresses rise, and no entry equals what the fill left. -/
def Memory.write (m : List Host.Cell) (a : Nat) (b : Byte) : List Host.Cell :=
  match m with
  | [] => if b = fillByte a then [] else [(a, b)]
  | c :: r =>
    if a < c.1 then (if b = fillByte a then c :: r else (a, b) :: c :: r)
    else if a = c.1 then (if b = fillByte a then r else (a, b) :: r)
    else c :: Memory.write r a b

/-- The canonical form from an address on. -/
def Memory.wfFrom (lo : Nat) : List Host.Cell → Bool
  | [] => true
  | c :: r => decide (lo ≤ c.1) && (c.2 != fillByte c.1) && Memory.wfFrom (c.1 + 1) r

/-- The canonical form: strictly rising addresses, and no entry equal to what an unlisted address reads as. -/
def Memory.wf (m : List Host.Cell) : Bool := Memory.wfFrom 0 m

/-- `n` bytes from an address. -/
def Memory.readBytes (m : List Host.Cell) (a n : Nat) : List Byte :=
  (List.range n).map fun i => Memory.read m (a + i)

/-- A string of bytes written from an address on. -/
def Memory.writeBytes (m : List Host.Cell) (a : Nat) : List Byte → List Host.Cell
  | [] => m
  | b :: r => Memory.writeBytes (Memory.write m a b) (a + 1) r

/-! ### Pages and their sideband (Table 9.2) -/

/-- A page as it is stored: data, poison marks, and the fields of its sideband. -/
structure PageImg where
  data   : List Byte
  poison : BitVec 64
  handle : BitVec 32
  owner  : Nat
  wgen   : BitVec 64
  deriving DecidableEq, Repr

/-- The page an access of `a` goes to: the spare of its remap entry, if it has one (R298). -/
def State.redirect (s : State) (a : PageAddr) : PageAddr :=
  match (s.hbm[a.stack].remap).find? fun e => e.region == a.region && e.frame == a.frame with
  | some e => { a with region := .spare, frame := e.spare }
  | none => a

/-- The page that a page serves: the one whose remap entry names it, where it is a spare in use (R298). -/
def State.serves (s : State) (a : PageAddr) : PageAddr :=
  if a.region = .spare then
    match (s.hbm[a.stack].remap).find? fun e => e.spare == a.frame with
    | some e => { a with region := e.region, frame := e.frame }
    | none => a
  else a

/-- The page stored at a place. -/
def State.pageAt (s : State) (a : PageAddr) : PageImg :=
  let b := a.base
  let f := fun o n => leNat (Memory.readBytes s.mem (b + 4096 + o) n)
  { data := Memory.readBytes s.mem b 4096, poison := BitVec.ofNat 64 (f 0 8), handle := BitVec.ofNat 32 (f 8 4),
    owner := f 12 1, wgen := BitVec.ofNat 64 (f 16 8) }

/-- The DPN field stored at a place. -/
def State.nameAt (s : State) (a : PageAddr) : Nat := leNat (Memory.readBytes s.mem (a.base + 4096 + 24) 4)

/-- The stored page that an access of `a` finds. -/
def State.page (s : State) (a : PageAddr) : PageImg := s.pageAt (s.redirect a)

/-- Sideband bytes 0x00 to 0x1F of a page with the name `dpn` (Table 9.2). -/
def PageImg.side (g : PageImg) (dpn : Nat) : List Byte :=
  leBytes 8 g.poison.toNat ++ leBytes 4 g.handle.toNat ++ leBytes 1 (g.owner % 64) ++ zeros 3 ++ leBytes 8 g.wgen.toNat
    ++ leBytes 4 dpn ++ zeros 4

/-- A page stored where an access of `a` goes; it keeps the name of `a`. -/
def State.setPage (s : State) (a : PageAddr) (g : PageImg) : State :=
  { s with mem := Memory.writeBytes s.mem (s.redirect a).base (padTo 4096 g.data ++ g.side a.name) }

/-- The page-code parity that stands in the sideband (R286): PAGE_T of the image, over data and sideband 0x00 to 0x1F. -/
def State.parity (s : State) (a : PageAddr) : List Byte :=
  let g := s.page a
  pageParity s.img.pageT (g.data ++ g.side a.name)

/-! ### Decoding a read (R286, R287) -/

/-- A page and its DPN field with some bits of its code word inverted. -/
def PageImg.flipped (g : PageImg) (name : Nat) (ps : List Nat) : PageImg × Nat :=
  if ps.isEmpty then (g, name)
  else
    let b := flipBits (g.data ++ g.side name) ps
    let f := fun (o n : Nat) => leNat ((b.drop (4096 + o)).take n)
    ({ data := b.take 4096, poison := BitVec.ofNat 64 (f 0 8), handle := BitVec.ofNat 32 (f 8 4), owner := f 12 1,
       wgen := BitVec.ofNat 64 (f 16 8) }, f 24 4)

/-- What the page code makes of a read of `a`, and the page as it leaves the decoder: corrected, or as received where it cannot be
corrected or carries another DPN than the one read (R287, R290). -/
def State.decodePage (s : State) (a : PageAddr) (l : PageLine) : PageOutcome × PageImg :=
  let src := l.place.getD (s.redirect a)
  let g := s.pageAt src
  let name := s.nameAt src
  let raw := (g.flipped name l.flips).1
  match pageErrors s.img.pageT l.flips with
  | none => (.uncorrectable, raw)
  | some fix =>
    let x := g.flipped name (l.flips.filter (fun p => !fix.contains p) ++ fix.filter fun p => !l.flips.contains p)
    if x.2 ≠ a.name then (.uncorrectable, raw) else if fix.isEmpty then (.clean, x.1) else (.corrected fix.length, x.1)

/-! ### The buffer error log (R302) -/

/-- Entries a die's ring holds. -/
def elogDepth : Nat := 65536

/-- An entry goes into a die's ring; the oldest is overwritten when it is full. -/
def State.elogPut (s : State) (d : DieId) (e : ELogEntry) : State :=
  s.modDie d fun x => { x with elog := (e :: x.elog).take elogDepth, elogCnt := x.elogCnt + 1 }

/-- Microseconds since the last cold reset: 800 FABRIC cycles each. -/
def State.micros (s : State) : Nat := (s.clock - s.rst.coldAt) / 800

/-- An entry about a page (Table 9.7). -/
def State.elogPage (s : State) (a : PageAddr) (kind bits detail : Nat) (handle : BitVec 32) (actor : Nat) : State :=
  let d := dieOfStack a.stack
  s.elogPut d
    { time := s.micros, dpn := BitVec.ofNat 32 a.name,
      loc := BitVec.ofNat 8 (128 * d.val + 64 * (a.stack.val % 2) + a.channel.val),
      kind := kind, bits := bits, detail := detail, handle := handle, actor := actor, wgen := (s.page a).wgen }

/-- The bytes of an entry (Table 9.7). -/
def ELogEntry.bytes (e : ELogEntry) : List Byte :=
  leBytes 8 e.time ++ leBytes 4 e.dpn.toNat ++ [e.loc] ++ leBytes 1 e.kind ++ leBytes 1 e.bits ++ leBytes 1 e.detail
    ++ leBytes 4 e.handle.toNat ++ leBytes 1 e.actor ++ zeros 3 ++ leBytes 8 e.wgen.toNat

/-- The entry at an index of a die's ring, if that slot has been written since the cold reset. -/
def Die.elogAt (d : Die) (i : Nat) : Option ELogEntry :=
  let newest := (d.elogCnt + elogDepth - 1) % elogDepth
  if d.elogCnt = 0 then none else d.elog[(newest + elogDepth - i % elogDepth) % elogDepth]?

/-! ### Corrected reads (R293, R294) -/

/-- A corrected read feeds every monitor slot of its die that runs on the corrected bits of its stack and pseudo-channel (R293,
Table 13.2, class 0x0B). -/
def State.feedCorrected (s : State) (k : Fin 4) (ch : Fin 32) (bits : Nat) : State :=
  let d := dieOfStack k
  (List.finRange 64).foldl (fun a i =>
    let m := ((a.dies[d]).monitors[i])
    if m.run && srcClass m.source == 0x0B && srcInst m.source == k.val && (srcSel m.source == ch.val || srcSel m.source == 0xFFFF) then
      a.monTake d i (BitVec.ofNat 32 bits)
    else a) s

/-- A corrected read counts in the bucket of the pseudo-channel it was made on; an overflow raises the stack's event with the
pseudo-channel as its detail and empties the bucket. Event or not, the monitors are fed (R293). -/
def State.countCorrected (s : State) (a : PageAddr) (bits : Nat) : State :=
  let ch := (s.redirect a).channel
  let n := (s.hbm[a.stack]).buckets[ch]
  (if n + 1 > s.img.ceCap then
    (s.modStack a.stack fun x => { x with buckets := vmod x.buckets ch fun _ => 0 }).raise (32 + 8 * a.stack.val) ch.val
  else s.modStack a.stack fun x => { x with buckets := vmod x.buckets ch (· + 1) }).feedCorrected a.stack ch bits

/-- A write-back is scheduled (R294). -/
def State.schedule (s : State) (w : PendingWb) : State := s.modStack w.addr.stack fun x => { x with wbs := x.wbs ++ [w] }

/-! ### Hard faults (R298, R299) -/

/-- The free spare at which a stack goes on: cyclically, past spares that failed or are in use. -/
def Stack.spareFrom (k : Stack) : Nat → Nat → Option Nat
  | 0, _ => none
  | n + 1, i =>
    if k.badSpares.contains (i % 4096) || k.remap.any (fun e => e.spare == i % 4096) then k.spareFrom n (i + 1)
    else some (i % 4096)

/-- HARD_FAULT_REMAP: page `a` is copied with `g` to a spare, and later accesses go there; a failed spare gives way to a
new one in the same entry; with the table full the page stays in service with its poison marks and the event is raised (R299). A spare that fails while no
entry uses it is only skipped from then on (DEDUCED, log 18). The copy does not count in WGEN (DESIGN CHOICE, log 142). -/
def State.hardFault (s : State) (a : PageAddr) (g : PageImg) (bits detail : Nat) (handle : BitVec 32) (actor : Nat) : State :=
  let s := s.elogPage a 4 bits detail handle actor
  let k := s.hbm[a.stack]
  let target : Option PageAddr :=
    if a.region = .spare then (k.remap.find? fun e => e.spare == a.frame).map fun e => ⟨a.stack, e.region, e.frame⟩
    else some a
  match target with
  | none => s.modStack a.stack fun x => { x with badSpares := a.frame :: x.badSpares }
  | some t =>
    let old := k.remap.find? fun e => e.region == t.region && e.frame == t.frame
    let bad := match old with
      | some e => e.spare :: k.badSpares
      | none => k.badSpares
    let rest := k.remap.filter fun e => !(e.region == t.region && e.frame == t.frame)
    match (if rest.length < 32 then ({ k with badSpares := bad, remap := rest }).spareFrom 4096 k.nextSpare else none) with
    | some n =>
      let s1 := s.modStack a.stack fun x =>
        { x with badSpares := bad, remap := ⟨t.region, t.frame, n⟩ :: rest, nextSpare := (n + 1) % 4096 }
      ((s1.setPage t g).elogPage t 5 bits detail handle actor).raise (34 + 8 * a.stack.val) t.name
    | none => ((s.setPage t g).elogPage t 6 bits detail handle actor).raise (35 + 8 * a.stack.val) t.name

/-- Every poison bit set. -/
def allPoison : BitVec 64 := BitVec.allOnes 64

/-- A read of a page (R287, R290, R293, R294, R298): the page as delivered, and the state after. A corrected read counts and may
schedule a write-back; an uncorrectable one is logged, raises its event and is remapped with every beat poisoned. `detail` is the
source of Table 9.7. -/
def State.readPage (s : State) (a : PageAddr) (l : PageLine) (detail : Nat) (handle : BitVec 32) (actor : Nat) : PageImg × State :=
  let r := s.decodePage a l
  if r.1.bad then
    let g1 := { r.2 with poison := allPoison }
    (g1, ((s.elogPage a 1 0 detail handle actor).raise (33 + 8 * a.stack.val) a.name).hardFault a g1 0 detail handle actor)
  else
    let n := r.1.fixed
    let s1 := if n > 0 then s.countCorrected a n else s
    (r.2, if n ≥ s.img.wbBits ∧ n > 0 then s1.schedule ⟨a, r.2.wgen, n, detail, handle, actor⟩ else s1)

/-- A page written by an agent: WGEN goes up by 1 (Table 9.2, R289). -/
def State.writePage (s : State) (a : PageAddr) (g : PageImg) : State := s.setPage a { g with wgen := g.wgen + 1 }

/-- A write-back and its verify read (R294): logged, and a hard fault where the verify read corrects more than HARD_BITS or is
uncorrectable; up to there it is a read as any other. -/
def State.writeBackPage (s : State) (w : PendingWb) (verify : PageLine) : State :=
  let s1 := (s.writePage w.addr (s.page w.addr)).elogPage w.addr 2 w.bits w.detail w.handle w.actor
  let o := (s1.decodePage w.addr verify).1
  if !o.bad ∧ o.fixed > s.img.hardBits then
    (s1.countCorrected w.addr o.fixed).hardFault w.addr (s1.decodePage w.addr verify).2 o.fixed w.detail w.handle w.actor
  else (s1.readPage w.addr verify w.detail w.handle w.actor).2

/-! ### Handles and buffers (R305, R306, R308) -/

/-- The handle of a buffer (Table 9.9). -/
def mkHandle (p i g : Nat) : BitVec 32 := BitVec.ofNat 3 p ++ BitVec.ofNat 24 i ++ BitVec.ofNat 5 g
/-- POOL of a handle. -/
def hPool (h : BitVec 32) : Nat := bits h 29 3
/-- INDEX of a handle. -/
def hIndex (h : BitVec 32) : Nat := bits h 5 24
/-- GEN of a handle. -/
def hGen (h : BitVec 32) : Nat := bits h 0 5

/-- A buffer in its first state: free, generation 1. -/
def Buf.fresh (i : Nat) : Buf := ⟨i, 1, [], false, false, .other⟩

/-- The buffer at an index. -/
def Pool.buf (p : Pool) (i : Nat) : Buf := (p.bufs.find? fun b => b.index == i).getD (Buf.fresh i)

/-- A buffer put in its place in the list of those that are not in their first state. -/
def putBuf (b : Buf) : List Buf → List Buf
  | [] => if b = Buf.fresh b.index then [] else [b]
  | c :: r =>
    if b.index < c.index then (if b = Buf.fresh b.index then c :: r else b :: c :: r)
    else if b.index = c.index then (if b = Buf.fresh b.index then r else b :: r)
    else c :: putBuf b r

/-- A pool with one buffer replaced. -/
def Pool.setBuf (p : Pool) (b : Buf) : Pool := { p with bufs := putBuf b p.bufs }

/-! ### The HBM arbiter (R27 to R29) -/

/-- The access classes of a stack, by base priority (Table 1.7). -/
inductive HbmClass where
  | w | v | h | x | m
  deriving DecidableEq, Repr

/-- Base priority of a class, 1 the highest. -/
def HbmClass.prio : HbmClass → Nat
  | .w => 1
  | .v => 2
  | .h => 3
  | .x => 4
  | .m => 5

/-- Worst-case blocking of a class in ns; none for class M (Table 1.7). -/
def HbmClass.bound : HbmClass → Option Nat
  | .w => some 1200
  | .v => some 2500
  | .h => some 8000
  | .x => some 20000
  | .m => none

/-- Whether a request that has waited so many ns has been promoted: its bound less 0.4 µs (R28). -/
def HbmClass.promoted (c : HbmClass) (waited : Nat) : Bool :=
  match c.bound with
  | some b => waited ≥ b - 400
  | none => false

/-- The first request of the lowest priority number, in arrival order. -/
def firstByPrio : Nat → List (HbmClass × Nat) → Option (HbmClass × Nat)
  | 0, _ => none
  | n + 1, l =>
    match l.find? fun r => r.1.prio == 5 - n with
    | some r => some r
    | none => firstByPrio n l

/-- The grant of a pseudo-channel's arbiter over the waiting requests (class, ns waited) in arrival order: promoted
requests first, each group in base-priority order (R28); class M only where no other class waits and its one slot of
32 is free (R29). -/
def arbiterGrant (waiting : List (HbmClass × Nat)) (mFree : Bool) : Option (HbmClass × Nat) :=
  let others := waiting.filter fun r => r.1 != .m
  match firstByPrio 5 (others.filter fun r => r.1.promoted r.2) with
  | some r => some r
  | none =>
    match firstByPrio 5 others with
    | some r => some r
    | none => if mFree then waiting.head? else none

/-- Command slots of a page's pseudo-channel since class M's last grant: those of other accesses, and one for each cycle gone by
(DESIGN CHOICE, log 135). -/
def State.slotsSinceM (s : State) (a : PageAddr) : Nat :=
  let x := (s.hbm[a.stack]).mSlots[(s.redirect a).channel]
  x.2 + (s.clock - x.1)

/-- Whether a class M access that waits alone at a page's pseudo-channel is granted now: one slot of every 32 (R29). -/
def State.mGranted (s : State) (a : PageAddr) : Bool := (arbiterGrant [(.m, 0)] (decide (31 ≤ s.slotsSinceM a))).isSome

/-- An access of another class takes a slot of a page's pseudo-channel. -/
def State.takeSlot (s : State) (a : PageAddr) : State :=
  s.modStack a.stack fun x => { x with mSlots := vmod x.mSlots (s.redirect a).channel fun y => (y.1, y.2 + 1) }

/-- Class M takes a slot. -/
def State.takeM (s : State) (a : PageAddr) : State :=
  s.modStack a.stack fun x => { x with mSlots := vmod x.mSlots (s.redirect a).channel fun _ => (s.clock, 0) }

end Sys2Proof.Machine
end

