-- ==== Sys2Proof/Machine/Operands.lean ====
section
/-!
DEFINITION. Submission entries and queues (10): the fields each command uses, the ordered checks of R469, when a port
may take an entry, the interlocking, how a command finishes, and the data and result buffers it writes.
-/
namespace Sys2Proof.Machine

/-! ### Entry fields (Tables 10.1 and 10.5) -/

/-- Whether a command names a station: none, one station, or one station or all. -/
inductive StnUse where
  | none | one | oneOrAll
  deriving DecidableEq, Repr

/-- What a command uses of Tables 10.1 and 10.5: its station, a volume, data, whether a result buffer is forbidden,
allowed or required, its FLAGS bits, and its CDW fields as (offset in CDW, length). -/
structure CmdSpec where
  stn   : StnUse
  vol   : Bool
  data  : Bool
  rptr  : Nat
  flags : Nat
  cdw   : List (Nat × Nat)
  deriving DecidableEq, Repr

/-- The row of Table 10.5 for an opcode. -/
def cmdSpec : Nat → Option CmdSpec
  | 0x01 => some ⟨.one, true, true, 1, 0x1F, [(0, 8), (8, 8), (0x10, 8), (0x18, 4)]⟩
  | 0x02 => some ⟨.one, true, true, 1, 0, [(0, 8), (8, 8)]⟩
  | 0x03 => some ⟨.one, true, false, 0, 1, [(0, 8)]⟩
  | 0x04 => some ⟨.one, true, false, 0, 0, []⟩
  | 0x05 => some ⟨.none, false, false, 0, 0, []⟩
  | 0x06 => some ⟨.one, true, true, 1, 1, [(0, 8), (8, 8)]⟩
  | 0x07 => some ⟨.one, true, false, 2, 0xF, [(0, 1), (4, 4), (8, 8)]⟩
  | 0x08 => some ⟨.one, true, false, 0, 0, []⟩
  | 0x80 => some ⟨.none, false, true, 0, 0, [(0, 1)]⟩
  | 0x81 => some ⟨.none, false, false, 0, 0, [(0, 2), (2, 2), (4, 2), (8, 8), (0x10, 8)]⟩
  | 0x82 => some ⟨.none, false, false, 0, 0, [(0, 2)]⟩
  | 0x83 => some ⟨.none, false, false, 0, 0, [(0, 2)]⟩
  | 0x84 => some ⟨.none, false, true, 0, 0, [(0, 1), (1, 1), (8, 8)]⟩
  | 0x85 => some ⟨.one, false, false, 1, 7, [(0, 4), (8, 4), (0x10, 16)]⟩
  | 0x86 => some ⟨.one, true, false, 0, 1, []⟩
  | 0x87 => some ⟨.one, true, false, 2, 0, [(0, 8), (8, 1), (9, 1)]⟩
  | 0x88 => some ⟨.none, false, false, 2, 0, [(0, 1)]⟩
  | 0x89 => some ⟨.none, false, false, 0, 0, [(0, 1)]⟩
  | 0x8A => some ⟨.none, false, true, 0, 1, [(0, 4)]⟩
  | 0x8B => some ⟨.none, false, false, 0, 0, []⟩
  | 0x8C => some ⟨.none, false, false, 0, 0, [(0, 1), (4, 4)]⟩
  | 0x8D => some ⟨.none, false, false, 2, 0, [(0, 1), (4, 4), (8, 4)]⟩
  | 0x8E => some ⟨.none, false, true, 0, 0, [(0, 1), (1, 1), (2, 1), (4, 4)]⟩
  | 0x8F => some ⟨.oneOrAll, false, false, 0, 0, []⟩
  | 0x90 => some ⟨.oneOrAll, false, false, 0, 0, []⟩
  | 0x91 => some ⟨.none, false, false, 0, 0, [(0, 1), (1, 1), (2, 1)]⟩
  | _ => none

end Sys2Proof.Machine

namespace Sys2Proof

/-- A CDW field at entry offset 0x20 + `ofs`. -/
def Entry.cd (e : Entry) (ofs len : Nat) : Nat := Machine.cdwAt e.cdw ofs len
/-- FLAGS bit `b` of a submission entry. -/
def Entry.flag (e : Entry) (b : Nat) : Bool := e.flags.getLsbD b
/-- FLAGS bit `b` of a command. -/
def HostCmd.flag (c : HostCmd) (b : Nat) : Bool := c.entry.flag b
/-- The station an entry names, if STN is 0 to 7. -/
def Entry.stn? (e : Entry) : Option Stn := if e.stn.toNat < 8 then some (Machine.stnOf e.stn.toNat) else none
/-- The station an entry names, its number taken modulo 8. -/
def Entry.st (e : Entry) : Stn := Machine.stnOf e.stn.toNat

end Sys2Proof

namespace Sys2Proof.Machine

/-- The bits of CDW that the fields of a command cover. -/
def cdwMask (l : List (Nat × Nat)) : Nat :=
  l.foldl (fun a f => a ||| ((2 ^ (8 * f.2) - 1) <<< (8 * f.1))) 0

/-- The command a port took, by queue and tag. -/
def refOf (c : HostCmd) : CmdRef := ⟨c.port, c.qid, c.entry.tag⟩

/-! ### Queues -/

/-- The queue pair of a port. -/
def HostPort.qp? (h : HostPort) (q : Nat) : Option Qp := h.qps.find? fun x => x.id == q

/-- A queue pair of a port changed by `f`. -/
def State.modQp (s : State) (p : Port) (q : Nat) (f : Qp → Qp) : State :=
  s.modPort p fun h => { h with qps := h.qps.map fun x => if x.id = q then f x else x }

/-- A fresh queue pair (R321, R350). -/
def Qp.fresh (q depth : Nat) (sq cq : BitVec 64) (vec : Nat) : Qp :=
  { id := q, depth := depth, sqBase := sq, cqBase := cq, vec := vec, sqHead := 0, sqTail := 0, cqHead := 0, cqNext := 0,
    phase := true, cmds := [], done := [], keys := [], held := none, resetting := none }

/-- Whether entries wait in a submission queue. -/
def Qp.waiting (x : Qp) : Bool := x.sqHead != x.sqTail && x.resetting.isNone
/-- Whether a fence of the queue has not completed (R342). -/
def Qp.fenced (x : Qp) : Bool := x.cmds.any (fun c => c.entry.opc == 5) || x.done.any (fun d => d.opc == 5 && !d.final)
/-- Whether the completion queue is full (R319, read as for the submission queue, log 23). -/
def Qp.cqFull (x : Qp) : Bool := (x.cqNext + 1) % x.depth == x.cqHead
/-- Whether a TAG is in use: its command is outstanding until its completion is written (R326). -/
def Qp.tagUsed (x : Qp) (t : BitVec 16) : Bool := x.cmds.any (fun c => c.entry.tag == t) || x.done.any (fun d => d.tag == t && !d.final)

/-- An outstanding command. -/
def State.cmd? (s : State) (r : CmdRef) : Option Cmd :=
  match (s.ports[r.port]).qp? r.qid with
  | some x => x.cmds.find? fun c => c.entry.tag == r.tag
  | none => none

/-- An outstanding command changed by `f`. -/
def State.modCmd (s : State) (r : CmdRef) (f : Cmd → Cmd) : State :=
  s.modQp r.port r.qid fun x => { x with cmds := modFirst (fun c => c.entry.tag == r.tag) f x.cmds }

/-- Every outstanding command, with its queue. -/
def State.allCmds (s : State) : List (CmdRef × Cmd) :=
  ([0, 1] : List Port).flatMap fun p => (s.ports[p]).qps.flatMap fun x => x.cmds.map fun c => (⟨p, x.id, c.entry.tag⟩, c)

/-! ### Finishing a command (R319, R328, R329, R333) -/

/-- How a command ends: status, RESULT, and what its error-log entry says (DEDUCED, log 69). -/
structure Ending where
  status : Nat
  result : Nat := 0
  reason : Nat := 0
  lon    : Nat := 0
  aux0   : Nat := 0
  aux1   : Nat := 0
  aux2   : List Byte := []
  kept   : Bool := false
  deriving DecidableEq, Repr

/-- An ending with a status and nothing more to say. -/
def Ending.st (n : Nat) : Ending := { status := n }
/-- A success with a RESULT. -/
def Ending.ok (r : Nat) : Ending := { status := 0, result := r }

/-- Whether a completion has an entry in the command error log (R333). -/
def Ending.logged (f : Ending) : Bool :=
  (6 ≤ f.status && f.status ≤ 0xC) || f.status == 0x10 || f.status == 0x12 || f.status == 0xF || (f.status == 2 && f.reason != 0)

/-- An entry goes into a port's command error log; event 224 + 8p + 4 when the ring wraps to its first entry (R333). -/
def State.logErr (s : State) (p : Port) (e : CmdErr) : State :=
  let n := (s.ports[p]).errCnt + 1
  let s1 := s.modPort p fun h => { h with errs := (e :: h.errs).take 4096, errCnt := n }
  if n % 4096 = 0 then s1.raise (228 + 8 * p.val) else s1

/-- The error-log entry of an ending (R333). -/
def cmdErr (time : Nat) (q : Nat) (e : Entry) (f : Ending) : CmdErr :=
  { time := time, sqid := q, tag := e.tag, opc := e.opc, status := BitVec.ofNat 8 f.status, reason := f.reason, lon := f.lon,
    aux0 := f.aux0, aux1 := f.aux1, aux2 := f.aux2 }

/-- The bytes of an error-log entry (R333). -/
def CmdErr.bytes (e : CmdErr) : List Byte :=
  leBytes 8 e.time ++ leBytes 2 e.sqid ++ leBytes 2 e.tag.toNat ++ [e.opc, e.status] ++ leBytes 1 e.reason ++ zeros 1
    ++ leBytes 8 e.lon ++ leBytes 8 e.aux0 ++ leBytes 8 e.aux1 ++ padTo 16 e.aux2 ++ zeros 8

/-- A command of a queue has finished: its completion waits to be written, in the order commands finish (R319); `own` says that it
was outstanding. -/
def State.putDone (s : State) (p : Port) (q : Nat) (e : Entry) (at_ : Nat) (f : Ending) (log own : Bool) : State :=
  s.modQp p q fun x => { x with done := x.done ++
    [{ opc := e.opc, stn := e.stn, tag := e.tag, status := BitVec.ofNat 8 f.status, result := BitVec.ofNat 64 f.result,
       log := log, final := false, at_ := at_, sqhd := none, len := e.dlen.toNat, kept := f.status == 0 || f.kept, locks := own }] }

/-- A command that is not among the outstanding ones ends (a check of R469 has failed). -/
def State.finishNew (s : State) (c : HostCmd) (f : Ending) : State :=
  let s1 := if f.logged then s.logErr c.port (cmdErr s.micros c.qid c.entry f) else s
  s1.putDone c.port c.qid c.entry s.clock f f.logged false

/-- An outstanding command ends: it leaves the outstanding ones, its error-log entry is written, and its completion
waits to be written. Nothing happens where it is not outstanding any more. -/
def State.finish (s : State) (r : CmdRef) (f : Ending) : State :=
  match s.cmd? r with
  | none => s
  | some c =>
    let s1 := s.modQp r.port r.qid fun x => { x with cmds := dropFirst (fun k => k.entry.tag == r.tag) x.cmds }
    let s2 := if f.logged then s1.logErr r.port (cmdErr s.micros r.qid c.entry f) else s1
    s2.putDone r.port r.qid c.entry c.at_ f f.logged true

/-- Every command of a list ends alike. -/
def State.finishAll (s : State) (l : List CmdRef) (f : Ending) : State := l.foldl (fun a r => a.finish r f) s

/-! ### Data and result buffers (R324, R328) -/

/-- The segments of a command's data buffer as (address, length) (R324). -/
def dataSegs (e : Entry) (sgl : List SglEntry) : List (BitVec 64 × Nat) :=
  if e.cflags.getLsbD 0 then sgl.map fun g => (g.addr, g.len.toNat)
  else if e.dlen.toNat = 0 then [] else [(e.dptr, e.dlen.toNat)]

/-- Data to the host's data buffer from byte `ofs` on, piece by piece, never past its end. -/
def sendSegs (p : Port) (ofs : Nat) (data : List Byte) (ep : Bool) : List (BitVec 64 × Nat) → List Out
  | [] => []
  | (a, n) :: r =>
    if data.isEmpty then []
    else if ofs ≥ n then sendSegs p (ofs - n) data ep r
    else .hostWrite p (a + BitVec.ofNat 64 ofs) (data.take (n - ofs)) ep :: sendSegs p 0 (data.drop (n - ofs)) ep r

/-- Data sent to a command's data buffer. -/
def State.sendData (s : State) (p : Port) (e : Entry) (sgl : List SglEntry) (ofs : Nat) (data : List Byte) (ep : Bool := false) : State :=
  (sendSegs p ofs data ep (dataSegs e sgl)).foldl (fun a o => a.emit o) s

/-- A result buffer written, where the command names one (R328). -/
def State.sendResult (s : State) (p : Port) (e : Entry) (data : List Byte) (ep : Bool := false) : State :=
  if e.rptr = 0 then s else s.emit (.hostWrite p e.rptr data ep)

/-- An ending with a result buffer: data first, then the completion (R328). A poisoned beat sends it with EP, and the command
completes with 0x08, though what it did stands (R341, Table 9.3) (DEDUCED, log 115). -/
def State.finishWith (s : State) (r : CmdRef) (f : Ending) (buf : List Byte) : State :=
  match s.cmd? r with
  | none => s
  | some c =>
    if c.poisoned && c.entry.rptr ≠ 0 then (s.sendResult r.port c.entry buf true).finish r { f with status := 8, kept := f.status == 0 }
    else (s.sendResult r.port c.entry buf).finish r f

/-! ### The interlocking (R343) -/

/-- Whether two entries conflict. Write entries of one LON are those of one record's APPENDs, which R339 and R470 let
be taken together; so a conflict has a reader and a writer (DEDUCED, log 24). -/
def Lock.conflicts (a b : Lock) : Bool :=
  a.stn == b.stn && a.mnt == b.mnt && a.lo ≤ b.hi && b.lo ≤ a.hi && a.write != b.write

/-- Whether the interlocking can take an entry now: 1,024 entries in all. -/
def State.lockFree (s : State) (l : Lock) : Bool := s.locks.length < 1024 && !s.locks.any fun x => x.conflicts l

/-- INTERLOCKING_RELEASE: the entries of a command go. -/
def State.unlock (s : State) (r : CmdRef) : State := { s with locks := s.locks.filter fun l => l.cmd != r }

/-! ### When an entry may be taken (R320, R342, R436, R38) -/

/-- Whether a port answers its driver: READY, or port 0 of the recovery state (R370, R436). -/
def State.answers (s : State) (p : Port) : Bool :=
  (s.ports[p]).linkUp && (s.rst.stage == .ready || (s.rst.stage == .recovery && p == 0))

/-- Whether a register answers on a port (Table 14.1): all where READY, a few during a warm reset, and those of port 0 that the
recovery state serves. -/
def State.regAnswers (s : State) (p : Port) (ofs : Nat) : Bool :=
  (s.ports[p]).linkUp && match s.rst.stage with
    | .ready => true
    | .recovery => p == 0 && (ofs < 0x90 || (0x100 ≤ ofs && ofs < 0x200) || (0x1000 ≤ ofs && ofs < 0x1008)
        || (0x4000 ≤ ofs && ofs < 0x4100) || (0x5000 ≤ ofs && ofs < 0x5100))
    | _ => s.rst.reach == .warm && (ofs < 0x20 || (0x84 ≤ ofs && ofs < 0x90))

/-- LONs assigned to APPENDs that have no segment on tape (R272): those a rebuild skipped are not counted. -/
def VolCtx.noSegment (v : VolCtx) : Nat :=
  v.lon - (v.lonGaps.foldl (fun a g => a + (g.2 + 1 - g.1)) 0) - (v.recs.filter (·.recorded)).length

/-- Whether what was found to block the head entry of a queue still does. -/
def State.blocks (s : State) (x : Qp) : Hold → Bool
  | .fence => x.fenced
  | .lock l => !s.lockFree l
  | .lonLimit st => (s.stns[st]).ctx.any fun v => decide (v.noSegment ≥ 2 ^ 24)
  | .staging p => s.boot.staging.any fun g => g.port == p && g.chunk.isSome

/-- Whether it is a queue's turn: the admin queue before any other, then the next waiting queue in rising number after
the one last served. A queue whose head entry was found blocked, and still is, holds back only itself (R320, log 14). -/
def State.queueTurn (s : State) (p : Port) (q : Nat) : Bool :=
  let h := s.ports[p]
  let ready := h.qps.filter fun x => x.waiting && !x.held.any (s.blocks x)
  let key := fun n => if n > h.rr then n else n + 512
  if q = 0 then true else !(ready.any fun x => x.id == 0) && ready.all fun x => x.id == 0 || key q ≤ key x.id

/-- Whether the port looks at the entry at the head of a queue now. A port whose die is in fault accepts only admin
commands (Table 1.9). -/
def State.atTurn (s : State) (c : HostCmd) : Bool :=
  let h := s.ports[c.port]
  s.answers c.port && h.aqEn && (h.qp? c.qid).any (·.waiting) && s.queueTurn c.port c.qid
    && (c.qid == 0 || !(s.dies[c.port]).fault)

/-- Whether a fence holds the queue back (R342). -/
def State.fenceHolds (s : State) (c : HostCmd) : Bool := ((s.ports[c.port]).qp? c.qid).any (·.fenced)

/-- The entry at the head cannot be taken yet and holds back its queue (R320). -/
def State.hold (s : State) (c : HostCmd) (why : Hold) : State := s.modQp c.port c.qid fun x => { x with held := some why }

/-- The LON that a command's trace packet shows. -/
def State.lonOf (s : State) (c : HostCmd) : Nat :=
  match c.entry.opc.toNat with
  | 0x01 => if c.flag 0 then (match (s.stns[c.entry.st]).ctx with | some v => v.lon | none => 0) else c.entry.cd 0 8
  | 0x02 | 0x03 | 0x06 => c.entry.cd 0 8
  | _ => 0

/-- The word of a command packet that names the command (Table 13.4). -/
def cmdWord (q : Nat) (tag : BitVec 16) (opc stn status : BitVec 8) : BitVec 64 :=
  BitVec.ofNat 16 q ++ tag ++ opc ++ stn ++ status ++ (0 : BitVec 8)

/-- A port takes the entry at the head of a queue: the head moves on, the turn passes, and the taken packet is written
(R320, Table 13.4). -/
def State.take (s : State) (c : HostCmd) : State :=
  let s1 := (s.modQp c.port c.qid fun x => { x with sqHead := (x.sqHead + 1) % x.depth, held := none }).modPort c.port
    fun h => if c.qid = 0 then h else { h with rr := c.qid }
  s1.trace c.port 2 [packetHead 1 c.port.val s.time, cmdWord c.qid c.entry.tag c.entry.opc c.entry.stn 0,
    BitVec.ofNat 64 (s.lonOf c)]

/-! ### The checks of R469 -/

/-- The feature that an opcode belongs to (Table 11.11). -/
def opcFeature : Nat → Nat
  | 0x07 => 2
  | 0x8D => 5
  | 0x8E => 6
  | _ => 0

/-- Whether a port accepted a feature. -/
def State.accepted (s : State) (p : Port) (b : Nat) : Bool := (s.ports[p]).featAccept.getLsbD b

/-- Check 1: the opcode is the row's, belongs on this kind of queue, and its feature is accepted (R316, R379; log 13). -/
def State.check1 (s : State) (opc : Nat) (c : HostCmd) : Bool :=
  c.entry.opc.toNat == opc && (decide (opc ≥ 0x80) == (c.qid == 0)) && s.accepted c.port (opcFeature opc)

/-- Check 2: reserved fields, CFLAGS, STN and TAG (R10, R323, R326). -/
def State.check2 (s : State) (k : CmdSpec) (c : HostCmd) : Bool :=
  let e := c.entry
  let stnOk := match k.stn with
    | .none => e.stn == 0xFF
    | .one => e.stn.toNat < 8
    | .oneOrAll => e.stn.toNat < 8 || e.stn == 0xFF
  e.rsv == 0 && e.cflags.toNat ≤ 1 && (e.cflags == 0 || (k.data && e.dlen != 0 && s.accepted c.port 1)) && stnOk
    && (k.vol || e.mnt == 0) && (k.data || (e.dlen == 0 && e.dptr == 0)) && (e.dlen != 0 || e.dptr == 0)
    && (k.rptr != 0 || e.rptr == 0) && !((s.ports[c.port]).qp? c.qid).any fun x => x.tagUsed e.tag

/-- Check 3: a volume is mounted and MNT matches (R325). -/
def State.check3 (s : State) (k : CmdSpec) (e : Entry) : Bool :=
  !k.vol || (s.stns[e.st]).mount.any fun m => m.num == e.mnt

/-- Whether a MIGRATE names a station (R282). -/
def State.migrating (s : State) (t : Stn) : Bool := s.migs.any fun j => !j.stopped && (j.src == t || j.dst == t)

/-- Check 4: no stabled buffers (which RECOVER_STABLED and DISCARD_STABLED are there to resolve), no MIGRATE, no block
reset (R403, R282, R407). -/
def State.check4 (s : State) (opc : Nat) (k : CmdSpec) (e : Entry) : Bool :=
  match k.stn, e.stn? with
  | .none, _ => true
  | _, none => true
  | _, some t => (!(s.stns[t]).stabled || opc == 0x8F || opc == 0x90) && !s.migrating t && !(s.stns[t]).inReset

/-- Whether a station's link is lost, as it stays where STNMAP has no such station or a latency fault holds (R185, R187). -/
def State.linkLost (s : State) (t : Stn) : Bool := (s.stns[t]).link.lost || (s.stns[t]).latency || !s.usable t

/-- Whether a command that names no station crosses the dies: port 1's that need the ledger, the boot controller or the reset controller
(R16): IMAGE_STAGE, IMAGE_CONFIRM, RETIRE_PAGE, BLOCK_RESET, an IDENTIFY of the device data with their domain pin, and a GET_LOG of
the black box or a retired list; those that name the other die in the field DIE (Table 10.5); and a self-test, which has parts on
both (Table 10.16) (DEDUCED, log 137). -/
def entryCrosses (e : Entry) (p : Port) (opc : Nat) : Bool :=
  (p == 1 && ([0x8A, 0x8B, 0x8C, 0x91].contains opc || (opc == 0x80 && e.cd 0 1 == 0) || (opc == 0x84 && (e.cd 0 1 == 3 || e.cd 0 1 == 4))))
    || ((opc == 0x8C || opc == 0x8D || opc == 0x8E) && e.cd 0 1 == 1 - p.val) || (opc == 0x91 && e.cd 1 1 == 1 - p.val)
    || (opc == 0x84 && e.cd 0 1 == 2 && e.cd 1 1 == 1 - p.val) || opc == 0x88

/-- Check 5: the station is not in fault and its link is not lost; with the UCIe link down, commands that cross dies
or need the interlocking from port 1 fail; a lost volume context fails all but UNMOUNT (R187, R193, R292, Table 1.9). -/
def State.check5 (s : State) (opc : Nat) (k : CmdSpec) (p : Port) (e : Entry) : Bool :=
  match k.stn, e.stn? with
  | .none, _ => !(s.ucieDown && entryCrosses e p opc)
  | _, none => !s.ucieDown
  | _, some t =>
    !(s.stns[t]).inFault && !s.linkLost t && !(s.ucieDown && (t.val ≥ 4 || p == 1))
      && !(s.dies[dieOf t]).fault && !(k.vol && opc != 0x86 && (s.stns[t]).ctx.any (·.lost))

/-- Whether an opcode is served in the recovery state (R370). -/
def recoveryServes (opc : Nat) : Bool := opc == 0x80 || opc == 0x84 || opc == 0x8A || opc == 0x8B

/-- Checks 1 to 5 in order, with the recovery state's refusal at check 4 (R370, R469). -/
def State.checks (s : State) (opc : Nat) (c : HostCmd) : Option Ending :=
  match cmdSpec opc with
  | none => some (.st 1)
  | some k =>
    if !s.check1 opc c then some (.st 1)
    else if !s.check2 k c then some (.st 2)
    else if !s.check3 k c.entry then some (.st 3)
    else if (s.rst.stage == .recovery && !recoveryServes opc) || !s.check4 opc k c.entry then some (.st 0xE)
    else if !s.check5 opc k c.port c.entry then some (.st 0xC)
    else none

/-- The flags and CDW fields that a command does not have are zero (R10, Table 10.5). -/
def reservedOk (opc : Nat) (e : Entry) : Bool :=
  match cmdSpec opc with
  | none => false
  | some k => (e.flags.toNat &&& (0xFF - k.flags)) == 0 && (e.cdw.toNat &&& (2 ^ 256 - 1 - cdwMask k.cdw)) == 0

/-- The scatter list of a command is valid (R324). -/
def listOk (c : HostCmd) : Bool :=
  !c.entry.cflags.getLsbD 0
    || (c.entry.dptr.toNat % 16 == 0 && 1 ≤ c.sgl.length && c.sgl.length ≤ 4096 && c.sgl.all (fun g => g.rsv == 0 && g.len != 0)
      && (c.sgl.foldl (fun a g => a + g.len.toNat) 0) == c.entry.dlen.toNat)

/-- The part of check 6 that every command has: FLAGS, CDW fields, a required result buffer, and the scatter list
(R10, R324). -/
def fieldsOk (opc : Nat) (c : HostCmd) : Bool :=
  reservedOk opc c.entry && (cmdSpec opc).any (fun k => k.rptr != 2 || c.entry.rptr != 0) && listOk c

/-- A command newly outstanding. -/
def Cmd.start (c : HostCmd) (at_ : Nat) (ph : Phase) : Cmd :=
  { entry := c.entry, sgl := c.sgl, at_ := at_, lon := 0, count := 0, handle := none, phase := ph, got := 0, okCnt := 0,
    status := 0, reason := 0, aux := (0, 0), hash := [], bumped := false, poisoned := false }

/-- A command joins the outstanding ones of its queue. -/
def State.addCmd (s : State) (c : HostCmd) (k : Cmd) : State :=
  s.modQp c.port c.qid fun x => { x with cmds := x.cmds ++ [k] }

/-- COMMAND_TAKE_CHECKS: what every host row does. Where the port does not look at the entry nothing happens; a fence,
a lock or a limit (`blocked`, which names it) holds the queue; otherwise the entry is taken, a failing check of R469 ends it, and
`run` gives the command its own effect. `own` is checks 6 to 10. -/
def State.host (s : State) (opc : Nat) (c : HostCmd) (own : State → Option Ending) (blocked : State → Option Hold)
    (run : State → State) : State :=
  if !s.atTurn c then s
  else if s.fenceHolds c then s.hold c .fence
  else match s.checks opc c with
    | some f => (s.take c).finishNew c f
    | none =>
      if !fieldsOk opc c then (s.take c).finishNew c (.st 2)
      else match own s with
        | some f => (s.take c).finishNew c f
        | none => match blocked s with
          | some why => s.hold c why
          | none => run (s.take c)

/-- A command that nothing blocks. -/
def unblocked (_ : State) : Option Hold := none

end Sys2Proof.Machine
end

