-- ==== Sys2Proof/Machine/PoolOps.lean ====
section
/-!
DEFINITION. The pool manager (R303 to R315): handles, owner lists, grants, reserves, wait lists, misuse, withdrawal, and
what the resets do to buffers. The write pipeline's buffers go back when it needs them no more (R104); others by POOL_RELEASE and
POOL_FREE (DESIGN CHOICE, log 40).
-/
namespace Sys2Proof.Machine

/-! ### Buffers (R306, R308) -/

/-- Whether a buffer is allocated: some owner is named on it. -/
def Buf.allocated (b : Buf) : Bool := !b.owners.isEmpty
/-- Whether a buffer can be granted. -/
def Buf.free (b : Buf) : Bool := b.owners.isEmpty && !b.withdrawn
/-- The last-named owner; none while a FREE is pending (R308, R309). -/
def Buf.lastOwner (b : Buf) : Option Nat := if b.freePend then none else b.owners.getLast?
/-- The generation after a return: from 31 back to 1 (R306). -/
def nextGen (g : Nat) : Nat := if g ≥ 31 then 1 else g + 1

/-- Free buffers of a pool. -/
def Pool.freeCount (p : Pool) : Nat := p.count - (p.bufs.filter fun b => !b.free).length

/-- The n-th free index of a pool, counted from 0. -/
def freeIndex (n : Nat) : List Buf → Nat
  | [] => n
  | b :: r => if b.free then freeIndex n r else if b.index ≤ n then freeIndex (n + 1) r else n

/-! ### The buffer of a page (R301) -/

/-- The place of a DPN among those the pool build used; none for a retired one. -/
def Die.ordinal (d : Die) (dpn : Nat) : Option Nat :=
  if d.builtRet.contains dpn then none else some (dpn - (d.builtRet.filter (· < dpn)).length)

/-- Pool and index of the buffer that holds the n-th page of the build, from pool `p` on. -/
def bufferAt (pools : List Pool) (p n : Nat) : Option (Nat × Nat) :=
  match pools with
  | [] => none
  | q :: r =>
    let pages := poolPages p
    if n < q.count * pages then some (p, n / pages) else bufferAt r (p + 1) (n - q.count * pages)

/-- Pool and index of the buffer that holds a DPN (R301). -/
def Die.bufferOf (d : Die) (dpn : Nat) : Option (Nat × Nat) :=
  match d.ordinal dpn with
  | some n => bufferAt d.pools.toList 0 n
  | none => none

/-- The n-th DPN of the build: retired ones are skipped. -/
def nthDpn (n : Nat) (retired : List Nat) : Nat :=
  (sortBy (· ≤ ·) retired).foldl (fun a r => if r ≤ a then a + 1 else a) n

/-- The pages of a buffer, first to last (R301). -/
def Die.dpnOf (d : Die) (p i page : Nat) : Nat :=
  let before := ((d.pools.toList.take p).zipIdx.map fun q => q.1.count * poolPages q.2).foldl (· + ·) 0
  nthDpn (before + i * poolPages p + page) d.builtRet

/-- The counts of the pools as the build finds them: each as POOLS gives it, or what is left (R301). The rule has pool 4 run short; where
the pages do not last for an earlier one, that one is built with fewer buffers too, with the same event (DESIGN CHOICE, log 167). -/
def builtCounts : List (Nat × Nat) → Nat → List Nat
  | [], _ => []
  | (n, pages) :: r, left => let m := min n (left / pages); m :: builtCounts r (left - m * pages)

/-- POOL_BUILD: every buffer free in generation 1, retired DPNs skipped (R301). -/
def State.buildPools (s : State) (d : DieId) : State :=
  let ret := s.ledger.retired[d]
  let want := (List.range 5).map fun p => (s.img.poolCount d.val p, poolPages p)
  let got := builtCounts want (dieDpns - ret.length)
  let s1 := s.modDie d fun x =>
    { x with pools := Vector.ofFn fun p : Fin 5 => { Pool.reset with count := got.getD p.val 0 }, builtRet := ret }
  if got = want.map (·.1) then s1 else s1.raise (241 + 8 * d.val)

/-! ### Misuse (R307, R309) -/

/-- POOL_MISUSE: counted against the acting owner, raised and logged with its reason; nothing else changes. -/
def State.misuse (s : State) (d : DieId) (owner : Nat) (handle : BitVec 32) (reason : Nat) : State :=
  ((s.modDie d fun x => { x with misuse := vmod x.misuse ⟨owner % 64, by omega⟩ (· + 1) }).elogPut d
    { time := s.micros, dpn := 0xFFFFFFFF, loc := BitVec.ofNat 8 (128 * d.val), kind := 9, bits := 0, detail := reason,
      handle := handle, actor := owner, wgen := 0 }).raise (240 + 8 * d.val)

/-- Whether an owner ID may act on a buffer: 1 to 15 (R308; 0 names no agent, DEDUCED, log 20). -/
def actingOwner (k : Nat) : Bool := 1 ≤ k && k ≤ 15

/-- Reasons 9 and 10, which every operation can break (R309). -/
def Pool.badHandle (d : Die) (owner : Nat) (h : BitVec 32) : Option Nat :=
  if hPool h ≥ 5 ∨ hIndex h ≥ (d.pools[fin5 (hPool h)]).count then some 9
  else if !actingOwner owner then some 10 else none

/-- The buffer a handle names. -/
def Die.bufOf (d : Die) (h : BitVec 32) : Buf := (d.pools[fin5 (hPool h)]).buf (hIndex h)

/-- Reason 3: a stale handle on an allocated buffer. -/
def Buf.stale (b : Buf) (h : BitVec 32) : Bool := b.allocated && b.gen != hGen h

/-- The misuse of an ADD, if any (R309) (DEDUCED, log 109). -/
def addMisuse (d : Die) (owner : Nat) (h : BitVec 32) (name : Nat) : Option Nat :=
  match Pool.badHandle d owner h with
  | some r => some r
  | none =>
    let b := d.bufOf h
    if b.stale h then some 3
    else if b.owners.length ≥ 4 ∨ b.freePend then some 7
    else if b.owners.contains name ∨ !actingOwner name then some 8
    else if b.lastOwner ≠ some owner then some 6 else none

/-- The misuse of a RELEASE, if any. -/
def releaseMisuse (d : Die) (owner : Nat) (h : BitVec 32) : Option Nat :=
  match Pool.badHandle d owner h with
  | some r => some r
  | none =>
    let b := d.bufOf h
    if b.stale h then some 3
    else if !b.owners.contains owner then some 4
    else if b.lastOwner = some owner then some 5 else none

/-- The misuse of a FREE, if any. -/
def freeMisuse (d : Die) (owner : Nat) (h : BitVec 32) : Option Nat :=
  match Pool.badHandle d owner h with
  | some r => some r
  | none =>
    let b := d.bufOf h
    if !b.allocated then some 2
    else if b.stale h then some 3
    else if b.lastOwner ≠ some owner then some 1 else none

/-! ### Grants (R304, R311, R312) -/

/-- The pool that serves a length: the smallest whose buffer size is at least it (R304). -/
def poolFor (len : Nat) : Option (Fin 5) :=
  if len = 0 ∨ len > 33554432 then none
  else if len ≤ 4096 then some 0 else if len ≤ 65536 then some 1 else if len ≤ 557056 then some 2
  else if len ≤ 2097152 then some 3 else some 4

/-- An owner's unmet reserve in a pool of a die (R311). -/
def State.unmet (s : State) (d : DieId) (p : Fin 5) (k : Nat) : Nat :=
  s.img.reserve d.val p.val k - (((s.dies[d]).pools[p]).bufs.filter fun b => b.owners.contains k).length

/-- The unmet reserves of every owner but `k`. -/
def State.othersUnmet (s : State) (d : DieId) (p : Fin 5) (k : Nat) : Nat :=
  ((List.range 16).filter (fun j => j != k && j != 0)).foldl (fun a j => a + s.unmet d p j) 0

/-- The outcome of a request (R312). -/
inductive Grant where
  | granted | none | refused
  deriving DecidableEq, Repr

/-- What R312 answers to a request by owner `k`. -/
def State.grantOutcome (s : State) (d : DieId) (p : Fin 5) (k : Nat) : Grant :=
  let free := ((s.dies[d]).pools[p]).freeCount
  let others := s.othersUnmet d p k
  if free ≥ 1 ∧ free - 1 ≥ others then .granted
  else if free = 0 ∧ others = 0 then .none else .refused

/-- A buffer is granted to owner `k`: which free one the spec does not say (log 21). Answers its handle. -/
def State.takeBuf (s : State) (d : DieId) (p : Fin 5) (k : Nat) : BitVec 32 × State :=
  let q := (s.dies[d]).pools[p]
  let r := s.draw
  let i := freeIndex (r.1 % max q.freeCount 1) q.bufs
  let b := q.buf i
  (mkHandle p.val i b.gen,
   r.2.modDie d fun x => x.modPool p fun q =>
    { (q.setBuf { b with owners := [k], freePend := false }) with
      stnTurn := if 5 ≤ k ∧ k ≤ 12 then k - 5 else q.stnTurn, portTurn := if 1 ≤ k ∧ k ≤ 2 then k - 1 else q.portTurn })

/-! ### Return, withdrawal and wake (R300, R309, R313) -/

/-- The DPNs of a buffer that are on the ledger's retired list. -/
def State.retiredIn (s : State) (d : DieId) (p i : Nat) : List Nat :=
  (s.ledger.retired[d]).filter fun n => (s.dies[d]).bufferOf n == some (p, i)

/-- A withdrawn buffer's pages leave the remap table of their stacks, and the withdrawal is logged (R300, R302). -/
def State.dropRemap (s : State) (d : DieId) (h : BitVec 32) (dpns : List Nat) : State :=
  dpns.foldl (fun a n =>
    let pg := dpnPage d n
    (a.modStack pg.stack fun x => { x with remap := x.remap.filter fun e => !(e.region == .pool && e.frame == pg.frame) }).elogPage
      pg 8 0 0 h 0) s

/-- A buffer goes back to its pool: its generation advances, and a buffer marked for withdrawal is withdrawn instead
of becoming free (R300, R306). -/
def State.putBack (s : State) (d : DieId) (p : Fin 5) (i : Nat) : State :=
  let b := ((s.dies[d]).pools[p]).buf i
  let s1 := s.modDie d fun x => x.modPool p fun q =>
    q.setBuf { b with owners := [], freePend := false, gen := nextGen b.gen, holds := .other }
  if b.withdrawn then s1.dropRemap d (mkHandle p.val i b.gen) (s.retiredIn d p.val i) else s1

/-- Hash, compression, decompression and crypto as numbers of Table 1.2. -/
def rHash : Fin 4 := 0
def rComp : Fin 4 := 1
def rDecomp : Fin 4 := 2
def rCrypto : Fin 4 := 3

/-- A job that has not run yet. -/
def Job.fresh (k : JobKind) (st : Stn) (age : Nat) : Job := ⟨k, st, age, false, 0, none⟩

/-- A record's compression job, which keeps what is known of its re-run while it is away from its region (R36, R157). -/
def State.compressJob (s : State) (st : Stn) (lon : Nat) : Job :=
  { Job.fresh (.compress st lon) st s.clock with
    rerun := ((s.stns[st]).ctx.bind fun v => v.recs.find? fun r => r.lon == lon).any (·.rerun) }

/-- The place of the next job that joins a region's wait. -/
def Engine.nextOrd (e : Engine) : Nat := ((e.waiting ++ e.running.map (·.2)).map (·.ord)).foldl max 0 + 1

/-- A job joins the wait of an engine region of a station's die, unless it is there already. -/
def State.addJob (s : State) (d : DieId) (r : Fin 4) (j : Job) : State :=
  s.modDie d fun x => x.modEngine r fun e =>
    if e.waiting.any (fun w => w.kind == j.kind) || e.running.any (fun w => w.2.kind == j.kind) then e
    else { e with waiting := e.waiting ++ [{ j with ord := e.nextOrd }] }

/-- A job that runs on a lane joins the wait of its region again (R156, R160). -/
def State.backToWait (s : State) (d : DieId) (r : Fin 4) (k : JobKind) : State :=
  s.modDie d fun x => x.modEngine r fun e =>
    match e.running.find? fun w => w.2.kind == k with
    | none => e
    | some w => { e with running := e.running.filter (fun y => y.2.kind != k), waiting := e.waiting ++ [{ w.2 with age := s.clock, ord := e.nextOrd, key := none }] }

/-- A command gets the buffer it asked for and goes on; an APPEND's data then passes the hash lane (R18, R331). -/
def Cmd.granted (c : Cmd) (h : BitVec 32) : Cmd :=
  { c with handle := some h, phase := if c.phase = .needBuffer ∨ c.phase = .waitBuffer then .moving else c.phase }

/-- A record's job gets room for its output (R159, R160). -/
def State.addRoom (s : State) (st : Stn) (lon n : Nat) : State :=
  s.modStn st fun t => t.modCtx fun v => { v with recs := v.recs.map fun r => if r.lon = lon then { r with outCap := r.outCap + n } else r }

/-- Bytes of output buffers granted to a record's job so far. -/
def State.outCap (s : State) (st : Stn) (lon : Nat) : Nat :=
  match (s.stns[st]).ctx.bind fun v => v.recs.find? fun r => r.lon == lon with
  | some r => r.outCap
  | none => 0

/-- What a buffer granted for a use holds (R104, R159, R402): an APPEND's buffer its part of the record's input, an output buffer the
part of the frame stream that follows those before it. -/
def State.holdsFor (s : State) (use : PoolUse) : BufUse :=
  match use with
  | .command p q tag => match s.cmd? ⟨p, q, tag⟩ with
    | some c => if c.entry.opc = 1 then .input c.entry.st c.lon c.count c.entry.dlen.toNat else .other
    | none => .other
  | .compressOut st lon => .output st lon (s.outCap st lon) 2097152
  | .siding st lon => .output st lon (s.outCap st lon) 65536
  | .gathering st | .c2Rows st _ => .gathering st
  | .context st => .context st
  | .other => .other

/-- What a granted buffer is for (R312): a command goes on with it, a job gets room, a gathering opens in it. -/
def State.grantUse (s0 : State) (d : DieId) (h : BitVec 32) (use : PoolUse) : State :=
  let s := s0.modDie d fun x => x.modPool (fin5 (hPool h)) fun q => q.setBuf { q.buf (hIndex h) with holds := s0.holdsFor use }
  match use with
  | .command p q tag =>
    match s.cmd? ⟨p, q, tag⟩ with
    | none => s
    | some c =>
      let s1 := s.modCmd ⟨p, q, tag⟩ fun c => c.granted h
      if c.entry.opc = 1 ∧ (c.phase = .needBuffer ∨ c.phase = .waitBuffer) then
        s1.addJob (dieOf c.entry.st) rHash (Job.fresh (.hash c.entry.st c.lon) c.entry.st s.clock)
      else s1
  | .compressOut st lon => s.addRoom st lon 2097152
  | .siding st lon => s.addRoom st lon 65536
  | .gathering st => s.modStn st fun t => t.modWrite fun w => { w with bufs := w.bufs ++ [h] }
  | .c2Rows st n => s.modStn st fun t => t.modWrite fun w => { w with gaths := w.gaths.map fun g => if g.gnum = n then { g with c2Buf := some h } else g }
  | .context _ | .other => s

/-- The first waiter whose grant R312 allows, with the waiters around it. -/
def State.firstWaiter (s : State) (d : DieId) (p : Fin 5) : List Waiter → Option (Waiter × List Waiter)
  | [] => none
  | w :: r =>
    if s.grantOutcome d p w.owner = .granted then some (w, r)
    else (s.firstWaiter d p r).map fun x => (x.1, w :: x.2)

/-- POOL_WAIT_WAKE: a buffer has returned, and the first waiter that may have one gets it (R313). -/
def State.wake (s : State) (d : DieId) (p : Fin 5) : State :=
  match s.firstWaiter d p ((s.dies[d]).pools[p]).waits with
  | none => s
  | some (w, rest) =>
    let s1 := s.modDie d fun x => x.modPool p fun q => { q with waits := rest }
    let r := s1.takeBuf d p w.owner
    r.2.grantUse d r.1 w.use

/-- The order of R310 within a cycle, and in it that of R312: where a waiting row of a pool stands among the operations on it. Stations
and host ports rotate, from the one after the last granted. -/
def Pool.rank (q : Pool) (d : DieId) (p : Fin 5) : Instr → Option Nat
  | .poolRelease d' _ h => if d' = d ∧ hPool h = p.val then some 0 else none
  | .poolAdd d' _ h _ => if d' = d ∧ hPool h = p.val then some 1 else none
  | .poolFree d' _ h => if d' = d ∧ hPool h = p.val then some 2 else none
  | .poolGrant d' k len _ => if d' = d ∧ poolFor len = some p then some (
      if 5 ≤ k ∧ k ≤ 12 then 3 + (k - 5 + 7 - q.stnTurn) % 8
      else if k = 13 then 11 else if k = 3 then 12 else if k = 4 then 13
      else if k = 1 ∨ k = 2 then 14 + (k - 1 + 1 - q.portTurn) % 2 else 16) else none
  | _ => none

/-- Whether a pool's operation comes in its order: none that waits in the same cycle goes before it (R310, R312; the rows that wait are
those of this cycle, DESIGN CHOICE, log 168). -/
def State.poolTurn (s : State) (d : DieId) (p : Fin 5) (i : Instr) : Bool :=
  let q := (s.dies[d]).pools[p]
  (q.rank d p i).all fun n => s.pending.all fun j => (q.rank d p j).all (n ≤ ·)

/-- Whether a RELEASE, ADD or FREE still waits in this cycle: wakes come after them (R310). -/
def State.poolBusy (s : State) (d : DieId) (p : Fin 5) : Bool := s.pending.any fun j => (((s.dies[d]).pools[p]).rank d p j).any (· < 3)

/-- The wakes that are due, one for each buffer that has returned. -/
def State.wakeDue (s : State) (d : DieId) (p : Fin 5) : State :=
  let n := ((s.dies[d]).pools[p]).due
  (List.range n).foldl (fun a _ => a.wake d p) (s.modDie d fun x => x.modPool p fun q => { q with due := 0 })

/-- A buffer returns to its pool; waiters are served once the cycle's operations on the pool are done (R310, R313). -/
def State.returnBuf (s : State) (d : DieId) (p : Fin 5) (i : Nat) : State :=
  let s1 := (s.putBack d p i).modDie d fun x => x.modPool p fun q => { q with due := q.due + 1 }
  if s1.poolBusy d p then s1 else s1.wakeDue d p

/-- An owner's name is struck from a buffer; it returns when no name is left. `asLast` makes the FREE pending. -/
def State.strike (s : State) (d : DieId) (h : BitVec 32) (owners : List Nat) (pend : Bool) : State :=
  let p := fin5 (hPool h)
  let i := hIndex h
  if owners.isEmpty then s.returnBuf d p i
  else s.modDie d fun x => x.modPool p fun q => q.setBuf { q.buf i with owners := owners, freePend := pend }

/-- FREE by the last-named owner, its condition met (R309). -/
def State.freeBuf (s : State) (d : DieId) (h : BitVec 32) : State :=
  s.strike d h ((s.dies[d]).bufOf h).owners.dropLast true

/-- The waits of an owner, or of a command, are removed (R313). -/
def State.dropWaits (s : State) (f : Waiter → Bool) : State :=
  s.eachDie fun _ x => { x with pools := x.pools.map fun q => { q with waits := q.waits.filter fun w => !f w } }

/-! ### Stale data accesses (R307) -/

/-- Whether a data access to a page through a handle is stale: the handle does not name the buffer of the page in its
current generation (R306; DEDUCED for a handle of another buffer, log 22). Pages outside the pools take no handle. -/
def State.staleAccess (s : State) (a : PageAddr) (h : BitVec 32) : Bool :=
  let d := dieOfStack a.stack
  a.region == .pool && (match (s.dies[d]).bufferOf a.name with
    | some (p, i) => !(hPool h == p && hIndex h == i && hGen h == ((s.dies[d]).bufOf h).gen)
    | none => true)

/-- A stale access is misuse of the accessing owner, with reason 11, logged as kind 10 (R302, R307). -/
def State.logStale (s : State) (a : PageAddr) (h : BitVec 32) (actor : Nat) : State :=
  let d := dieOfStack a.stack
  ((s.modDie d fun x => { x with misuse := vmod x.misuse ⟨actor % 64, by omega⟩ (· + 1) }).elogPage a 10 0 11 h actor).raise
    (240 + 8 * d.val)

/-! ### Resets (R314, R315) -/

/-- A pool's buffers with every name `k` replaced in place by `n`. -/
def Pool.rename (q : Pool) (k n : Nat) : Pool :=
  { q with bufs := q.bufs.map fun b => { b with owners := b.owners.map fun o => if o = k then n else o } }

/-- Each name 17 is removed: as a RELEASE where other names follow or remain, as a FREE where it is last (R315). -/
def State.dropQuarantine (s : State) (d : DieId) : State :=
  (List.range 5).foldl (fun a p =>
    (((a.dies[d]).pools[fin5 p]).bufs.filter fun b => b.owners.contains 17).foldl (fun a b =>
      a.strike d (mkHandle p b.index b.gen) (b.owners.filter (· != 17)) (b.freePend || b.owners.getLast? == some 17)) a) s

end Sys2Proof.Machine
end

