-- ==== Sys2Proof/Machine/ZstdBlock.lean ====
section
/-!
DEFINITION. The content of a Compressed_Block: how RFC 8878, which R147, R148 and R164 name, lays out literals, Huffman trees,
FSE tables and sequences, and what a decoder makes of them (logs 7, 8).
-/
namespace Sys2Proof.Machine

/-! ### Bit streams -/

/-- Bytes read as one number, and a place in it. A forward stream counts the bits passed, a backward one the bits left. -/
structure Bits where
  val : Nat
  pos : Int
  deriving DecidableEq, Repr

/-- The next `n` bits of a forward stream. -/
def Bits.next (b : Bits) (n : Nat) : Nat × Bits := (b.val / 2 ^ b.pos.toNat % 2 ^ n, { b with pos := b.pos + n })

/-- A backward stream: it starts below the highest bit set of its last byte. None where that byte is 0, or is missing. -/
def Bits.back (s : List Byte) : Option Bits :=
  match s.getLast? with
  | none => none
  | some b => if b = 0 then none else some ⟨leNat s, (leNat s).log2⟩

/-- The `n` bits before the place of a backward stream; those before its beginning are 0. -/
def Bits.peek (b : Bits) (n : Nat) : Nat :=
  if n ≤ b.pos then b.val / 2 ^ (b.pos.toNat - n) % 2 ^ n
  else if 0 ≤ b.pos then b.val % 2 ^ b.pos.toNat * 2 ^ (n - b.pos.toNat) else 0

/-- A backward stream after `n` bits. -/
def Bits.skip (b : Bits) (n : Nat) : Bits := { b with pos := b.pos - n }

/-- The next `n` bits of a backward stream. -/
def Bits.prev (b : Bits) (n : Nat) : Nat × Bits := (b.peek n, b.skip n)

/-- A backward stream written from the values it gives, in the order in which they are read, with their widths. -/
def packBits (l : List (Nat × Nat)) : List Byte :=
  let v := l.foldl (fun a x => a * 2 ^ x.2 + x.1 % 2 ^ x.2) 1
  leBytes ((v.log2 + 8) / 8) v

/-! ### FSE -/

/-- An FSE table: its accuracy, and for each state its symbol, the bits that lead on from it and the base they are added to. -/
structure Fse where
  log  : Nat
  rows : List (Nat × Nat × Nat)
  deriving DecidableEq, Repr

/-- Symbols in the order in which a state is given to each: those of probability "less than 1" from the last state downward, the
others spread by steps of 5/8 of the size plus 3. -/
def fseSpread (log : Nat) (norm : List Int) : List Nat :=
  let size := 2 ^ log
  let rare := (norm.zipIdx.filter fun x => x.1 = -1).map (·.2)
  let high := size - rare.length
  let places := ((List.range size).map fun k => k * (size / 2 + size / 8 + 3) % size).filter (· < high)
  let placed := places.zip (norm.zipIdx.flatMap fun x => List.replicate x.1.toNat x.2)
  (List.range size).map fun i =>
    if high ≤ i then rare.getD (size - 1 - i) 0 else ((placed.find? fun x => x.1 = i).map (·.2)).getD 0

/-- The rows of a table from its symbols: the states of a symbol share the range in rising order. `seen` holds the symbols before. -/
def fseRows (log : Nat) (norm : List Int) : List Nat → List Nat → List (Nat × Nat × Nat)
  | _, [] => []
  | seen, s :: r =>
    let next := (norm.getD s 0).natAbs + seen.count s
    let bits := log - next.log2
    (s, bits, next * 2 ^ bits - 2 ^ log) :: fseRows log norm (s :: seen) r

/-- The table of a distribution. -/
def Fse.build (log : Nat) (norm : List Int) : Fse := ⟨log, fseRows log norm [] (fseSpread log norm)⟩

/-- The table of RLE_Mode: one symbol, no bits. -/
def Fse.rle (s : Nat) : Fse := ⟨0, [(s, 0, 0)]⟩

/-- Zeros that follow a probability of 0, two bits at a time. -/
def fseZeros : Nat → Bits → Nat × Bits
  | 0, b => (0, b)
  | n + 1, b =>
    let r := b.next 2
    if r.1 = 3 then let q := fseZeros n r.2; (3 + q.1, q.2) else (r.1, r.2)

/-- The probabilities of an FSE_Table_Description; `left` is what is still to be shared out. At most 256 symbols. -/
def fseNorm : Nat → Nat → List Int → Bits → Option (List Int × Bits)
  | 0, _, _, _ => none
  | n + 1, left, acc, b =>
    if left = 0 then some (acc, b)
    else if acc.length ≥ 256 then none
    else
      let w := (left + 1).log2 + 1
      let v := (b.next w).1
      let low := v % 2 ^ (w - 1)
      let limit := 2 ^ w - 1 - (left + 1)
      let short := low < limit
      let x : Nat := if short then low else if v ≥ 2 ^ (w - 1) then v - limit else v
      let b1 := (b.next (if short then w - 1 else w)).2
      if x = 1 then let z := fseZeros 128 b1; fseNorm n left (acc ++ List.replicate (1 + z.1) 0) z.2
      else let p : Int := (x : Int) - 1; fseNorm n (left - p.natAbs) (acc ++ [p]) b1

/-- An FSE_Table_Description from the front of some bytes: the table, and the bytes it takes. -/
def fseTable (maxLog : Nat) (s : List Byte) : Option (Fse × Nat) :=
  let b : Bits := ⟨leNat s, 0⟩
  let log := (b.next 4).1 + 5
  if s.isEmpty ∨ log > maxLog then none
  else match fseNorm 600 (2 ^ log) [] (b.next 4).2 with
    | none => none
    | some (norm, b1) =>
      let used := (b1.pos.toNat + 7) / 8
      if used > s.length ∨ norm.length > 256 then none else some (Fse.build log norm, used)

/-- The row of a state. -/
def Fse.row (t : Fse) (x : Nat) : Nat × Nat × Nat := t.rows.getD x (0, 0, 0)
/-- The symbol of a state. -/
def Fse.sym (t : Fse) (x : Nat) : Nat := (t.row x).1
/-- The first state of a stream. -/
def Fse.start (t : Fse) (b : Bits) : Nat × Bits := b.prev t.log
/-- The state after this one. -/
def Fse.advance (t : Fse) (x : Nat) (b : Bits) : Nat × Bits :=
  let r := b.prev (t.row x).2.1
  ((t.row x).2.2 + r.1, r.2)

/-! ### Huffman trees -/

/-- A Huffman table: the longest code, and the symbol and code length for each value of that many bits. -/
structure Huff where
  bits : Nat
  rows : List (Nat × Nat)
  deriving DecidableEq, Repr

/-- Whether a number is a power of 2. -/
def isPow2 (n : Nat) : Bool := n != 0 && n == 2 ^ n.log2

/-- The tree of some weights, the last of which is not written: it completes the sum to a power of 2. Codes are at most 11 bits. -/
def Huff.build (weights : List Nat) : Option Huff :=
  let sum := weights.foldl (fun a w => if w = 0 then a else a + 2 ^ (w - 1)) 0
  let bits := sum.log2 + 1
  let rest := 2 ^ bits - sum
  if sum = 0 ∨ bits > 11 ∨ !isPow2 rest ∨ weights.length > 255 then none
  else
    let all := (weights ++ [rest.log2 + 1]).zipIdx
    some ⟨bits, (List.range bits).flatMap fun w => (all.filter fun x => x.1 = w + 1).flatMap fun x =>
      List.replicate (2 ^ w) (x.2, bits - w)⟩

/-- Weights written as an FSE stream with two states in turn; it ends with the state that is left when the bits run out. -/
def huffWeightsFse (t : Fse) : Nat → Nat → Nat → Bits → List Nat → Option (List Nat)
  | 0, _, _, _, _ => none
  | n + 1, x, y, b, acc =>
    let r := t.advance x b
    if r.2.pos < 0 then some (acc ++ [t.sym x, t.sym y])
    else huffWeightsFse t n y r.1 r.2 (acc ++ [t.sym x])

/-- The weights of a Huffman_Tree_Description and the bytes it takes. -/
def huffWeights (s : List Byte) : Option (List Nat × Nat) :=
  match s with
  | [] => none
  | h :: r =>
    let n := h.toNat
    if n ≥ 128 then
      let k := n - 127
      let body := r.take ((k + 1) / 2)
      if body.length < (k + 1) / 2 then none
      else some ((body.flatMap fun b => [b.toNat / 16, b.toNat % 16]).take k, 1 + (k + 1) / 2)
    else if r.length < n then none
    else match fseTable 6 (r.take n) with
      | none => none
      | some (t, used) => match Bits.back ((r.take n).drop used) with
        | none => none
        | some b =>
          let x := t.start b
          let y := t.start x.2
          (huffWeightsFse t 255 x.1 y.1 y.2 []).map fun w => (w, 1 + n)

/-- `n` symbols of a Huffman stream, which they must use up. -/
def Huff.symbols (t : Huff) : Nat → Bits → List Byte → Option (List Byte)
  | 0, b, acc => if b.pos = 0 then some acc.reverse else none
  | n + 1, b, acc =>
    let r := t.rows.getD (b.peek t.bits) (0, 0)
    if (b.skip r.2).pos < 0 then none else t.symbols n (b.skip r.2) (BitVec.ofNat 8 r.1 :: acc)

/-- One Huffman stream. -/
def Huff.stream (t : Huff) (n : Nat) (s : List Byte) : Option (List Byte) := (Bits.back s).bind fun b => t.symbols n b []

/-- The streams of a literals section: one, or four behind a jump table. -/
def Huff.streams (t : Huff) (four : Bool) (n : Nat) (s : List Byte) : Option (List Byte) :=
  if !four then t.stream n s
  else
    let q := (n + 3) / 4
    let a := leAt s 0 2
    let b := leAt s 2 2
    let c := leAt s 4 2
    let r := s.drop 6
    if s.length < 6 + a + b + c ∨ n < 3 * q then none
    else match t.stream q (r.take a), t.stream q ((r.drop a).take b), t.stream q ((r.drop (a + b)).take c),
        t.stream (n - 3 * q) (r.drop (a + b + c)) with
      | some w, some x, some y, some z => some (w ++ x ++ y ++ z)
      | _, _, _, _ => none

/-! ### What one block leaves to the next -/

/-- What a block of a frame finds: the last Huffman tree, the last tables of literal lengths, offsets and match lengths, and the
repeated offsets. -/
structure ZState where
  huff : Option Huff
  ll   : Option Fse
  of   : Option Fse
  ml   : Option Fse
  reps : Nat × Nat × Nat
  deriving DecidableEq, Repr

/-- What the first block of a frame finds. -/
def ZState.fresh : ZState := ⟨none, none, none, none, (1, 4, 8)⟩

/-! ### The literals section -/

/-- The literals of a block, the tree to be kept, and the bytes that the section takes. `most` bounds what a block may give. -/
def literals (z : ZState) (most : Nat) (s : List Byte) : Option (List Byte × Option Huff × Nat) :=
  match s with
  | [] => none
  | h :: _ =>
    let type := h.toNat % 4
    let form := h.toNat / 4 % 4
    if type ≤ 1 then
      let hd := if form % 2 = 0 then 1 else if form = 1 then 2 else 3
      let n := if form % 2 = 0 then h.toNat / 8 else leAt s 0 hd / 16
      let used := hd + (if type = 0 then n else 1)
      if s.length < used ∨ n > most then none
      else some (if type = 0 then (s.drop hd).take n else List.replicate n ((s.drop hd).headD 0), z.huff, used)
    else
      let w := [10, 10, 14, 18].getD form 0
      let hd := [3, 3, 4, 5].getD form 0
      let v := leAt s 0 hd / 16
      let n := v % 2 ^ w
      let c := v / 2 ^ w
      let body := (s.drop hd).take c
      let tree := if type = 2 then (huffWeights body).bind fun x => (Huff.build x.1).map fun t => (t, x.2) else z.huff.map fun t => (t, 0)
      if s.length < hd + c ∨ n > most then none
      else match tree with
        | none => none
        | some (t, used) => (t.streams (form != 0) n (body.drop used)).map fun l => (l, some t, hd + c)

/-! ### The sequences section -/

/-- Base and extra bits of the literal length codes 16 to 35. -/
def llCodes : List (Nat × Nat) :=
  [(16, 1), (18, 1), (20, 1), (22, 1), (24, 2), (28, 2), (32, 3), (40, 3), (48, 4), (64, 6), (128, 7), (256, 8), (512, 9),
   (1024, 10), (2048, 11), (4096, 12), (8192, 13), (16384, 14), (32768, 15), (65536, 16)]
/-- Base and extra bits of the match length codes 32 to 52. -/
def mlCodes : List (Nat × Nat) :=
  [(35, 1), (37, 1), (39, 1), (41, 1), (43, 2), (47, 2), (51, 3), (59, 3), (67, 4), (83, 4), (99, 5), (131, 7), (259, 8), (515, 9),
   (1027, 10), (2051, 11), (4099, 12), (8195, 13), (16387, 14), (32771, 15), (65539, 16)]

/-- Base and extra bits of a literal length code. -/
def llCode (c : Nat) : Nat × Nat := if c < 16 then (c, 0) else llCodes.getD (c - 16) (0, 0)
/-- Base and extra bits of a match length code. -/
def mlCode (c : Nat) : Nat × Nat := if c < 32 then (c + 3, 0) else mlCodes.getD (c - 32) (0, 0)

/-- The code of a literal or match length: the last one whose base is not above it. -/
def codeOf (base : Nat → Nat × Nat) (codes n : Nat) : Nat :=
  (List.range codes).foldl (fun a c => if (base c).1 ≤ n then c else a) 0

/-- The distributions of Predefined_Mode. -/
def llNorm : List Int :=
  [4, 3, 2, 2, 2, 2, 2, 2, 2, 2, 2, 2, 2, 1, 1, 1, 2, 2, 2, 2, 2, 2, 2, 2, 2, 3, 2, 1, 1, 1, 1, 1, -1, -1, -1, -1]
def ofNorm : List Int := [1, 1, 1, 1, 1, 1, 2, 2, 2] ++ List.replicate 15 1 ++ List.replicate 5 (-1)
def mlNorm : List Int := [1, 4, 3, 2, 2, 2, 2, 2, 2] ++ List.replicate 37 1 ++ List.replicate 7 (-1)

/-- The tables of Predefined_Mode. -/
def llTable : Fse := Fse.build 6 llNorm
def ofTable : Fse := Fse.build 5 ofNorm
def mlTable : Fse := Fse.build 6 mlNorm

/-- The table that a compression mode gives, and the bytes it takes. -/
def modeTable (mode : Nat) (std : Fse) (maxLog maxSym : Nat) (last : Option Fse) (s : List Byte) : Option (Fse × Nat) :=
  match mode with
  | 0 => some (std, 0)
  | 1 => match s with
    | [] => none
    | b :: _ => if b.toNat ≤ maxSym then some (Fse.rle b.toNat, 1) else none
  | 2 => (fseTable maxLog s).filter fun t => t.1.rows.all fun r => r.1 ≤ maxSym
  | _ => last.map fun t => (t, 0)

/-- The sequences of a stream: literal length, Offset_Value and match length of each. Nothing may be left of the stream. -/
def sequences (ll of ml : Fse) : Nat → Nat → Nat → Nat → Bits → List (Nat × Nat × Nat) → Option (List (Nat × Nat × Nat))
  | 0, _, _, _, b, acc => if b.pos = 0 then some acc.reverse else none
  | n + 1, x, y, z, b, acc =>
    let o := b.prev (of.sym y)
    let m := o.2.prev (mlCode (ml.sym z)).2
    let l := m.2.prev (llCode (ll.sym x)).2
    let seq := ((llCode (ll.sym x)).1 + l.1, 2 ^ of.sym y + o.1, (mlCode (ml.sym z)).1 + m.1)
    if l.2.pos < 0 then none
    else if n = 0 then sequences ll of ml n x y z l.2 (seq :: acc)
    else
      let x' := ll.advance x l.2
      let z' := ml.advance z x'.2
      let y' := of.advance y z'.2
      if y'.2.pos < 0 then none else sequences ll of ml n x'.1 y'.1 z'.1 y'.2 (seq :: acc)

/-- The offset that an Offset_Value stands for after `ll` literals, and the repeated offsets then. -/
def repStep (reps : Nat × Nat × Nat) (ll ov : Nat) : Nat × (Nat × Nat × Nat) :=
  let (a, b, c) := reps
  if ov > 3 then (ov - 3, (ov - 3, a, b))
  else match (if ll = 0 then ov + 1 else ov) with
    | 1 => (a, (a, b, c))
    | 2 => (b, (b, a, c))
    | 3 => (c, (c, a, b))
    | _ => (a - 1, (a - 1, a, b))

/-- A match copied from `ofs` bytes back. -/
def copyBack (ofs : Nat) : Nat → Array Byte → Array Byte
  | 0, a => a
  | n + 1, a => copyBack ofs n (a.push (a.getD (a.size - ofs) 0))

/-- The sequences carried out on a frame's output: an offset reaches back no further than the frame and its window. -/
def runSeqs (win : Nat) : List (Nat × Nat × Nat) → List Byte → Nat × Nat × Nat → Array Byte → Option (Array Byte × (Nat × Nat × Nat))
  | [], lits, reps, a => some (lits.foldl (·.push ·) a, reps)
  | (l, ov, m) :: r, lits, reps, a =>
    let o := repStep reps l ov
    let a1 := (lits.take l).foldl (·.push ·) a
    if lits.length < l ∨ o.1 = 0 ∨ o.1 > a1.size ∨ o.1 > win then none
    else runSeqs win r (lits.drop l) o.2 (copyBack o.1 m a1)

/-- Number_of_Sequences and the bytes it takes. -/
def seqCount (s : List Byte) : Option (Nat × Nat) :=
  match s with
  | [] => none
  | h :: r =>
    if h.toNat < 128 then some (h.toNat, 1)
    else if h.toNat < 255 then r.head?.map fun b => ((h.toNat - 128) * 256 + b.toNat, 2)
    else if r.length < 2 then none else some (leAt r 0 2 + 0x7F00, 3)

/-- The sequences section of a block, and the tables to be kept. -/
def seqSection (z : ZState) (s : List Byte) : Option (List (Nat × Nat × Nat) × ZState) :=
  match seqCount s with
  | none => none
  | some (0, k) => if s.length = k then some ([], z) else none
  | some (n, k) =>
    let m := leAt s k 1
    let s1 := s.drop (k + 1)
    if s.length < k + 1 ∨ m % 4 ≠ 0 then none
    else match modeTable (m / 64) llTable 9 35 z.ll s1 with
      | none => none
      | some (ll, a) => match modeTable (m / 16 % 4) ofTable 8 31 z.of (s1.drop a) with
        | none => none
        | some (of, b) => match modeTable (m / 4 % 4) mlTable 9 52 z.ml (s1.drop (a + b)) with
          | none => none
          | some (ml, c) => match Bits.back (s1.drop (a + b + c)) with
            | none => none
            | some bits =>
              let x := ll.start bits
              let y := of.start x.2
              let w := ml.start y.2
              (sequences ll of ml n x.1 y.1 w.1 w.2 []).map fun l => (l, { z with ll := some ll, of := some of, ml := some ml })

/-- A Compressed_Block decoded behind a frame's output: the output with it, and what it leaves to the next block. A block gives at
most the smaller of the window and 128 KiB (DEDUCED, log 8). -/
def decodeBlock (win : Nat) (z : ZState) (out : Array Byte) (s : List Byte) : Option (Array Byte × ZState) :=
  let most := min win 131072
  match literals z most s with
  | none => none
  | some (lits, tree, used) => match seqSection { z with huff := tree } (s.drop used) with
    | none => none
    | some (seqs, z1) => match runSeqs win seqs lits z1.reps out with
      | none => none
      | some (a, reps) => if a.size > out.size + most then none else some (a, { z1 with reps := reps })

end Sys2Proof.Machine
end

