-- ==== Sys2Proof/Machine/Zstd.lean ====
section
/-!
DEFINITION. Compression and decompression (05): the frames the formatter writes, block by block, the match finder, the
reckoning of expansion, and what the decompressor makes of a stored stream.
-/
namespace Sys2Proof.Machine

/-! ### Frames written (R144 to R152) -/

/-- The frame header for a declared size (Tables 5.1 and 5.2). -/
def frameHeader (declared : Option Nat) : List Byte :=
  let magic : List Byte := [0x28, 0xB5, 0x2F, 0xFD]
  match declared with
  | none => magic ++ [0x04, 0x38]
  | some n =>
    if 256 ≤ n ∧ n ≤ 65791 then magic ++ [0x44, 0x38] ++ leBytes 2 (n - 256)
    else if n ≤ 4294967295 then magic ++ [0x84, 0x38] ++ leBytes 4 n
    else magic ++ [0xC4, 0x38] ++ leBytes 8 n

/-- The three bytes of a block header (RFC 8878 as R147 uses it). -/
def blockHeader (last : Bool) (type size : Nat) : List Byte :=
  leBytes 3 ((if last then 1 else 0) + 2 * type + 8 * size)

/-- The four bytes at a position, little-endian. -/
def le32At (inp : Array Byte) (p : Nat) : Nat :=
  leNat [inp.getD p 0, inp.getD (p + 1) 0, inp.getD (p + 2) 0, inp.getD (p + 3) 0]

/-- `hash4` of R153. -/
def hash4 (inp : Array Byte) (p : Nat) : Nat := le32At inp p * 0x9E3779B1 % 2 ^ 32 / 2 ^ 16

/-- The table's entry for position `p`: every earlier position is in the table and a later one replaces an earlier one of
the same hash, so it is the last of them; one further back than 131,072 counts as not set (R153). -/
def candidate (inp : Array Byte) (h p : Nat) : Nat → Option Nat
  | 0 => none
  | n + 1 =>
    let q := p - 1 - (131071 - n)
    if 131072 - n > p then none
    else if hash4 inp q = h then some q else candidate inp h p n

/-- The length of a match from `c` and `p`, which never passes the end of the block. -/
def matchLen (inp : Array Byte) (c p e : Nat) : Nat → Nat → Nat
  | 0, l => l
  | n + 1, l => if p + l < e ∧ inp.getD (c + l) 0 = inp.getD (p + l) 0 then matchLen inp c p e n (l + 1) else l

/-- `compress_block(s, e)` of R153 from position `p` with literals from `lit`: the literals and the sequences (literal
length, offset, match length). -/
def findMatches (inp : Array Byte) (e : Nat) : Nat → Nat → Nat → List Byte × List (Nat × Nat × Nat)
  | 0, _, lit => ((inp.toList.drop lit).take (e - lit), [])
  | n + 1, p, lit =>
    if p + 4 ≤ e then
      match candidate inp (hash4 inp p) p 131072 with
      | some c =>
        if le32At inp c = le32At inp p then
          let l := matchLen inp c p e (e - p) 4
          let r := findMatches inp e n (p + l) (p + l)
          ((inp.toList.drop lit).take (p - lit) ++ r.1, (p - lit, p - c, l) :: r.2)
        else findMatches inp e n (p + 1) lit
      | none => findMatches inp e n (p + 1) lit
    else ((inp.toList.drop lit).take (e - lit), [])

/-- The header of a literals section whose literals are not coded: Raw (type 0) or RLE (type 1), in its shortest form (log 7). -/
def plainLiterals (type n : Nat) : List Byte :=
  if n < 32 then leBytes 1 (type + 8 * n) else if n < 4096 then leBytes 2 (type + 4 + 16 * n) else leBytes 3 (type + 12 + 16 * n)

/-- The code of a symbol and its length: the states that begin with it are contiguous. -/
def Huff.code (t : Huff) (b : Byte) : Nat × Nat :=
  match t.rows.zipIdx.find? fun r => r.1.1 == b.toNat with
  | some (r, i) => (i / 2 ^ (t.bits - r.2), r.2)
  | none => (0, 0)

/-- Literals as one Huffman stream. -/
def Huff.pack (t : Huff) (l : List Byte) : List Byte := packBits (l.map t.code)

/-- The Huffman_Tree_Description of R148: direct up to 128 weights, FSE-compressed beyond. -/
def treeBytes (weights : List Nat) : List Byte :=
  if weights.length ≤ 128 then
    leBytes 1 (127 + weights.length) ++ (List.range ((weights.length + 1) / 2)).map fun i =>
      BitVec.ofNat 8 (16 * weights.getD (2 * i) 0 + weights.getD (2 * i + 1) 0)
  else let w := Config.weightBytes weights; leBytes 1 w.length ++ w

/-- A Compressed_Literals section: one stream up to 1,023 literals, four behind a jump table above; none where the tree is none
of RFC 8878 for these literals, or does not shorten them (R148). -/
def huffLiterals (l : List Byte) : Option (List Byte) :=
  match Config.huffTree l with
  | none => none
  | some w => match Huff.build w with
    | none => none
    | some t =>
      let q := (l.length + 3) / 4
      let parts := [t.pack (l.take q), t.pack ((l.drop q).take q), t.pack ((l.drop (2 * q)).take q), t.pack (l.drop (3 * q))]
      let tree := treeBytes w
      let body := tree ++ (if l.length ≤ 1023 then t.pack l else (parts.take 3).flatMap (fun p => leBytes 2 p.length) ++ parts.flatten)
      let size := body.length
      let head := if l.length ≤ 1023 then leBytes 3 (2 + 16 * l.length + 2 ^ 14 * size)
        else if l.length < 16384 then leBytes 4 (10 + 16 * l.length + 2 ^ 18 * size) else leBytes 5 (14 + 16 * l.length + 2 ^ 22 * size)
      if size < l.length ∧ (l.all fun b => (t.code b).2 != 0) ∧ (huffWeights tree).map (·.1) = some w then some (head ++ body) else none

/-- The literals section of a block, as R148 chooses it. -/
def literalsSection (l : List Byte) : List Byte :=
  if !l.isEmpty ∧ l.all (· == l.headD 0) then plainLiterals 1 l.length ++ [l.headD 0]
  else if l.length < 32 then plainLiterals 0 l.length ++ l
  else (huffLiterals l).getD (plainLiterals 0 l.length ++ l)

/-- The repeat code that stands for an offset after `ll` literals, if there is one. -/
def repeatCode (reps : Nat × Nat × Nat) (ll ofs : Nat) : Option Nat := [1, 2, 3].find? fun v => (repStep reps ll v).1 == ofs && ofs != 0

/-- The Offset_Values of a block's sequences: offset + 3 in the first three, later a repeat code where the silicon takes one
(R149). `i` counts the sequences before, `all` is the whole block's. -/
def offsetValues (all : List (Nat × Nat × Nat)) : Nat → Nat × Nat × Nat → List (Nat × Nat × Nat) → List (Nat × Nat × Nat)
  | _, _, [] => []
  | i, reps, (l, ofs, m) :: r =>
    let v := if i ≥ 3 ∧ Config.repeats all i then (repeatCode reps l ofs).getD (ofs + 3) else ofs + 3
    (l, v, m) :: offsetValues all (i + 1) (repStep reps l v).2 r

/-- The state of a symbol from which the stream leads on to a given state, with the bits that do it. -/
def Fse.before (t : Fse) (s next : Nat) : Nat × Nat × Nat :=
  match t.rows.zipIdx.find? fun r => r.1.1 == s && r.1.2.2 ≤ next && next < r.1.2.2 + 2 ^ r.1.2.1 with
  | some (r, i) => (i, next - r.2.2, r.2.1)
  | none => (0, 0, 0)

/-- A state of a symbol to end a stream with. -/
def Fse.last (t : Fse) (s pick : Nat) : Nat :=
  let l := (t.rows.zipIdx.filter fun r => r.1.1 == s).map (·.2)
  l.getD (pick % max l.length 1) 0

/-- The sequences of a block as the three states of the first one and the values that follow them in the stream (RFC 8878):
extra bits of offset, match length and literal length, then the bits that lead on in literal length, match length and offset. -/
def packSeqs (pick : Nat → Nat) : List (Nat × Nat × Nat) → (Nat × Nat × Nat) × List (Nat × Nat)
  | [] => ((0, 0, 0), [])
  | (l, v, m) :: r =>
    let lc := codeOf llCode 36 l
    let mc := codeOf mlCode 53 m
    let oc := v.log2
    let extra := [(v - 2 ^ oc, oc), (m - (mlCode mc).1, (mlCode mc).2), (l - (llCode lc).1, (llCode lc).2)]
    if r.isEmpty then ((llTable.last lc (pick 0), ofTable.last oc (pick 1), mlTable.last mc (pick 2)), extra)
    else
      let q := packSeqs pick r
      let x := llTable.before lc q.1.1
      let y := ofTable.before oc q.1.2.1
      let z := mlTable.before mc q.1.2.2
      ((x.1, y.1, z.1), extra ++ [x.2, z.2, y.2] ++ q.2)

/-- The sequences section of a block: Symbol_Compression_Modes is 0x00 (R148). -/
def sequencesSection (seqs : List (Nat × Nat × Nat)) : List Byte :=
  let n := seqs.length
  let count := if n < 128 then leBytes 1 n else if n < 0x7F00 then [BitVec.ofNat 8 (128 + n / 256), BitVec.ofNat 8 n] else 0xFF :: leBytes 2 (n - 0x7F00)
  if n = 0 then count
  else
    let q := packSeqs (Config.lastState seqs) (offsetValues seqs 0 (1, 4, 8) seqs)
    count ++ [0x00] ++ packBits ([(q.1.1, 6), (q.1.2.1, 5), (q.1.2.2, 6)] ++ q.2)

/-- The content of a Compressed_Block (R148, R149). -/
def blockContent (lits : List Byte) (seqs : List (Nat × Nat × Nat)) : List Byte := literalsSection lits ++ sequencesSection seqs

/-- The bytes of the block that covers record bytes s to e - 1 (Table 5.3). -/
def blockBytes (input : List Byte) (s e : Nat) (last : Bool) : List Byte :=
  let m := (input.drop s).take (e - s)
  match m with
  | [] => blockHeader last 0 0
  | b :: _ =>
    if m.all (· == b) then blockHeader last 1 m.length ++ [b]
    else
      let f := findMatches input.toArray e (e - s + 1) s s
      let c := blockContent f.1 f.2
      if c.length < m.length then blockHeader last 2 c.length ++ c else blockHeader last 0 m.length ++ m

/-- The Raw_Block that replaces a failed block (R111). -/
def rawBlock (input : List Byte) (s e : Nat) (last : Bool) : List Byte :=
  blockHeader last 0 (e - s) ++ (input.drop s).take (e - s)

/-- The frame header before a record's first block and the checksum after its last one (R150). -/
def dressBlock (r : Rec) (s : Nat) (last : Bool) (body : List Byte) : List Byte :=
  (if r.blocks.isEmpty ∧ s = 0 then frameHeader r.declared else []) ++ body
    ++ (if last then leBytes 4 (xxh64 r.input).toNat else [])

/-- The span of the next block of a record, if one can be cut: its start, its end, and whether it is the last
(R151, R152). -/
def Rec.nextBlock (r : Rec) : Option (Nat × Nat × Bool) :=
  let s := match r.blocks.getLast? with
    | some b => b.start + b.len
    | none => 0
  let done := r.blocks.getLast?.any (·.last)
  let cuts := r.cuts.filter fun c => s < c && c ≤ r.accepted
  let e := min (cuts.foldl min r.accepted) (s + 131072)
  let whole := r.complete && e == r.accepted && r.endFrom < r.accepted
  if done then none
  else if s < r.accepted then
    if e = s + 131072 ∨ cuts.contains e ∨ r.complete then some (s, e, whole) else none
  else if r.complete && r.endFrom == r.accepted then some (s, s, true) else none

/-- The next block, compressed on a lane. -/
def Rec.emitBlock (r : Rec) (lane : Nat) : Option Block :=
  r.nextBlock.map fun b =>
    { start := b.1, len := b.2.1 - b.1, last := b.2.2, bytes := dressBlock r b.1 b.2.2 (blockBytes r.input b.1 b.2.1 b.2.2),
      marked := false, poisoned := false, lane := lane }

/-- A record's frame stream as far as it is compressed. -/
def Rec.stream (r : Rec) : List Byte := r.blocks.flatMap (·.bytes)

/-- Whether the whole frame stream is compressed. -/
def Rec.framed (r : Rec) : Bool := r.blocks.getLast?.any (·.last)

/-- The 64-byte trailer (R59), ready once the record hash is there and the last block is compressed (R105). -/
def Rec.trailer (r : Rec) : Option (List Byte) :=
  match r.hash with
  | some h => if r.framed then some (padTo 48 h ++ beBytes 8 r.accepted ++ beBytes 8 r.stream.length) else none
  | none => none

/-! ### Expansion (R143, R161, R162) -/

/-- The uncompressed size plus 3 bytes for each started 131,072 bytes of each span (R162). -/
def expanded (n spans : Nat) : Nat := n + 3 * (n / 131072 + spans) + 85

/-! ### Frames read (R164, R166) -/

/-- What decoding a stored stream gives: the bytes decoded before anything failed, and the log reason of the first
failing check of Table 5.5 among those that concern frames, 0 where the stream ended too early. -/
structure Decoded where
  out    : List Byte
  reason : Option Nat
  deriving DecidableEq, Repr

/-- The blocks of a frame: the bytes decoded and the rest of the stream after the last block, or the bytes decoded before
something was malformed. `win` is the window, `z` what the block finds of those before it. -/
def decodeBlocks (win : Nat) : Nat → ZState → List Byte → Array Byte → Except (List Byte × Nat) (List Byte × List Byte)
  | 0, _, _, out => .error (out.toList, 0)
  | n + 1, z, s, out =>
    if s.length < 3 then .error (out.toList, 0)
    else
      let h := leNat (s.take 3)
      let size := h / 8
      let body := s.drop 3
      let step := fun (used : Nat) (out : Array Byte) (z : ZState) =>
        if h % 2 = 1 then Except.ok (out.toList, body.drop used) else decodeBlocks win n z (body.drop used) out
      if size > min win 131072 then .error (out.toList, 1)
      else match h / 2 % 4 with
        | 0 => if body.length < size then .error (out.toList, 0) else step size ((body.take size).foldl (·.push ·) out) z
        | 1 => if body.isEmpty then .error (out.toList, 0) else step 1 ((List.replicate size (body.headD 0)).foldl (·.push ·) out) z
        | 2 =>
          if body.length < size then .error (out.toList, 0)
          else match decodeBlock win z out (body.take size) with
            | some r => step size r.1 r.2
            | none => .error (out.toList, 1)
        | _ => .error (out.toList, 1)

/-- One frame from the front of a stream: the content and the rest, or the bytes decoded and the log reason (R164, Table 5.5). -/
def decodeFrame (s : List Byte) : Except (List Byte × Nat) (List Byte × List Byte) :=
  let magic := leNat (s.take 4)
  if 0x184D2A50 ≤ magic ∧ magic ≤ 0x184D2A5F then
    let n := leAt s 4 4
    if s.length < 8 + n then .error ([], 0) else .ok ([], s.drop (8 + n))
  else if s.length < 6 then .error ([], 0)
  else if magic ≠ 0xFD2FB528 then .error ([], 1)
  else
    let d := leAt s 4 1
    let single := d / 32 % 2 = 1
    let dictLen := [0, 1, 2, 4].getD (d % 4) 0
    let flag := d / 64
    let fcsLen := if flag = 0 then (if single then 1 else 0) else 2 ^ flag
    let o1 := if single then 5 else 6
    let dict := leAt s o1 dictLen
    let o2 := o1 + dictLen
    let fcs := if fcsLen = 0 then none else some (leAt s o2 fcsLen + if fcsLen = 2 then 256 else 0)
    let body := o2 + fcsLen
    let wd := leAt s 5 1
    let win := if single then fcs.getD 0 else 2 ^ (10 + wd / 8) + 2 ^ (10 + wd / 8) / 8 * (wd % 8)
    if s.length < body then .error ([], 0)
    else if d / 8 % 2 = 1 then .error ([], 1)
    else if win > 1048576 then .error ([], 2)
    else if dict ≠ 0 then .error ([], 3)
    else match decodeBlocks win s.length ZState.fresh (s.drop body) #[] with
      | .error e => .error e
      | .ok (out, rest) =>
        let sum := d / 4 % 2 = 1
        if sum ∧ rest.length < 4 then .error (out, 0)
        else if sum ∧ leNat (rest.take 4) ≠ (xxh64 out).toNat % 2 ^ 32 then .error (out, 4)
        else if fcs.any (· != out.length) then .error (out, 5)
        else .ok (out, if sum then rest.drop 4 else rest)

/-- The frames of a stream, one after another. -/
def decodeFrames : Nat → List Byte → Decoded
  | 0, _ => ⟨[], some 1⟩
  | n + 1, s =>
    if s.isEmpty then ⟨[], none⟩
    else match decodeFrame s with
      | .error (out, r) => ⟨out, some r⟩
      | .ok (out, rest) => let d := decodeFrames n rest; ⟨out ++ d.out, d.reason⟩

/-- What the decompressor makes of a frame stream, which holds at least one frame (R164). -/
def decodeStream (s : List Byte) : Decoded := if s.isEmpty then ⟨[], some 0⟩ else decodeFrames (s.length + 1) s

end Sys2Proof.Machine
end

