-- ==== Sys2Proof/Machine/WriteOps.lean ====
section
/-!
DEFINITION. The write pass (04): records and their abandonment, packing, closing and numbering of gatherings, release,
burning, placement, room on the wrap, acceptance and the write fault, and what a FLUSH waits for.
-/
namespace Sys2Proof

/-! ### Grades (Table 4.4) -/

/-- Weight of a grade. -/
def Grade.weight : Grade → Nat
  | .good => 0
  | .marginal => 1
  | .failed | .missing => 2

/-- Whether a grade is Failed or Missing. -/
def Grade.hard (g : Grade) : Bool := g == .failed || g == .missing

/-- The worse of two grades (R410). -/
def Grade.worse (a b : Grade) : Grade :=
  if a = .missing ∨ b = .missing then .missing
  else if a = .failed ∨ b = .failed then .failed
  else if a = .marginal ∨ b = .marginal then .marginal else .good

/-- A grade as a trace packet shows it: 0 Good to 3 Missing. -/
def Grade.code : Grade → Nat
  | .good => 0
  | .marginal => 1
  | .failed => 2
  | .missing => 3

end Sys2Proof

namespace Sys2Proof.Machine

/-! ### Records (R60, R337, R466) -/

/-- The record of a LON. -/
def VolCtx.rec? (v : VolCtx) (lon : Nat) : Option Rec := v.recs.find? fun r => r.lon == lon
/-- A record changed by `f`. -/
def VolCtx.modRec (v : VolCtx) (lon : Nat) (f : Rec → Rec) : VolCtx :=
  { v with recs := v.recs.map fun r => if r.lon = lon then f r else r }
/-- Whether a record is open: its FIRST has been taken, its END has not, and it has not been abandoned (R340). -/
def Rec.isOpen (r : Rec) : Bool := !r.ended && r.abandon.isNone
/-- Whether a zero-length INCOMPLETE segment is still to be recorded (R466). -/
def Rec.incWanted (r : Rec) : Bool := r.abandon.isSome && !r.incDone && (r.anyDone || r.recorded)
/-- A record abandoned; only once (R466). -/
def Rec.abandonAs (r : Rec) (why : Abandon) : Rec := if r.abandon.isSome then r else { r with abandon := some why }
/-- Whether a record is complete on the volume (R60). -/
def Rec.isComplete (r : Rec) : Bool := r.last && !r.incDone && r.abandon.isNone
/-- A record just started (R337). -/
def Rec.fresh (lon : Nat) (p : Port) (q : Nat) (key : Option (BitVec 32)) (declared : Option Nat) : Rec :=
  { lon := lon, port := p, qid := q, key := key, declared := declared, taken := 0, accepted := 0, written := 0, input := [], ended := false,
    endFrom := 0, complete := false, anyDone := false, hash := none, cuts := [], blocks := [], packed := 0, abandon := none,
    incDone := false, last := false, recorded := false, durable := false, reported := false, grps := [], outCap := 0,
    redo := none, rerun := false }

/-- Whether the data of some APPEND of a record has arrived. -/
def Rec.arrived (r : Rec) : Bool := r.accepted > 0 || r.complete
/-- The highest interleave group that holds a segment of a record. -/
def Rec.maxGroup (r : Rec) : Option Nat := r.grps.max?

/-! ### Engine jobs (R18, R19) -/

/-- A job of a kind leaves its region. -/
def State.dropJobs (s : State) (f : JobKind → Bool) : State :=
  s.eachDie fun _ x => { x with engines := x.engines.map fun e =>
    { e with running := e.running.filter (fun w => !f w.2.kind), waiting := e.waiting.filter (fun w => !f w.kind) } }

/-- Whether a job runs on a lane of its region. -/
def State.jobRuns (s : State) (d : DieId) (r : Fin 4) (k : JobKind) : Bool :=
  (s.dies[d]).engines[r].running.any fun w => w.2.kind == k

/-- The key that the lane of a crypto job holds (R252). -/
def State.jobKey (s : State) (d : DieId) (k : JobKind) : List Byte :=
  (((s.dies[d]).engines[rCrypto].running.find? fun w => w.2.kind == k).bind fun w => w.2.key).getD []

/-! ### Occupancy and room (R132, R143, R162, R476, R477) -/

/-- Stream bytes of a record that lie in gatherings not yet released or in the open gathering; the trailer that a LAST segment ends
with is none of them (R59). -/
def Write.heldBytes (w : Write) (lon : Nat) : Nat :=
  let f := fun (l : List Seg) => (l.filter fun g => g.lon == lon).foldl (fun a g => a + (if g.last then g.len - 64 else g.len)) 0
  (w.gaths.filter fun g => !g.released).foldl (fun a g => a + f g.segs) (f w.openSegs)

/-- Whether a segment of a record lies in a gathering not yet released or in the open gathering. -/
def Write.holdsSeg (w : Write) (lon : Nat) : Bool :=
  w.openSegs.any (fun g => g.lon == lon) || w.gaths.any fun x => !x.released && x.segs.any fun g => g.lon == lon

/-- Input bytes of a record that lie in blocks whose every byte is in a released gathering. -/
def Rec.releasedInput (r : Rec) (rel : Nat) : Nat :=
  (r.blocks.foldl (fun (a : Nat × Nat) b =>
    let e := a.2 + b.bytes.length
    (if e ≤ rel then b.start + b.len else a.1, e)) (0, 0)).1

/-- Bytes of a record that are compressed. -/
def Rec.compressed (r : Rec) : Nat := match r.blocks.getLast? with | some b => b.start + b.len | none => 0

/-- Where the first block without a right-away mark begins, one not yet compressed included; none where every block is marked. -/
def Rec.firstUnmarked (r : Rec) : Option Nat :=
  match r.blocks.find? fun b => !b.marked with
  | some b => some b.start
  | none => if r.framed then none else some r.compressed

/-- Whether the pipeline needs a buffer of a station's write side no more (R104, Table 4.1, R159): record input whose blocks are
marked and are no history of an unmarked one, a part of a frame stream that lies in released gatherings, or the rows of a
gathering whose verdicts are all final. Buffers of 16 and 17 wait for their resets. -/
def Station.spent (t : Station) (h : BitVec 32) (b : Buf) : Bool :=
  let rec? := fun (lon : Nat) => t.ctx.bind fun v => (v.rec? lon).filter fun r => r.abandon.isNone
  !(b.owners.contains 16 || b.owners.contains 17) && match b.holds with
  | .input _ lon n len => (rec? lon).all fun r => decide (r.taken ≤ n) || r.firstUnmarked.all fun u => decide (n + len + 131072 ≤ u)
  | .output _ lon n len => (rec? lon).all fun r =>
    let rel := r.packed - t.write.heldBytes r.lon
    decide (n + len ≤ rel) || (r.framed && r.packed == r.stream.length && decide (t.write.heldBytes r.lon = 0))
  | .gathering _ => t.write.openBuf != some h && !t.write.bufs.contains h && !t.write.gaths.any fun g => g.buffer == some h || g.c2Buf == some h
  | .context _ | .other => false

/-- The station that a buffer's contents belong to. -/
def BufUse.stn : BufUse → Option Stn
  | .other => none
  | .input st _ _ _ | .output st _ _ _ | .gathering st | .context st => some st

/-- Bytes of a buffer of each pool (Table 9.8). -/
def poolBytes (p : Nat) : Nat := 4096 * poolPages p

/-- Whether a buffer is charged to a station's write pipeline as input, output or an unreleased gathering (R132; what counts as
unreleased DEDUCED, log 25). -/
def Station.charges (t : Station) (st : Stn) (h : BitVec 32) (b : Buf) : Bool :=
  b.allocated && match b.holds with
  | .input x _ _ _ | .output x _ _ _ => x == st
  | .gathering x => x == st && !t.write.gaths.any fun g => g.released && (g.buffer == some h || g.c2Buf == some h)
  | .context _ | .other => false

/-- Occupancy O of a station in bytes (R132). -/
def State.occupancy (s : State) (st : Stn) : Nat :=
  let t := s.stns[st]
  ([0, 1, 2, 3, 4] : List (Fin 5)).foldl (fun a p =>
    a + poolBytes p.val * ((((s.dies[dieOf st]).pools[p]).bufs.filter fun b => t.charges st (mkHandle p.val b.index b.gen) b).length)) 0

/-- Cells per track in the usable range of a wrap: 160 cells per µm (R41, R76). -/
def wrapCells (geo : List Byte) : Nat := (geoLast geo - geoFirst geo) * (geoFrame geo * 160)

/-- Row positions of n more gatherings after c of the wrap: eight each, and a band after every fourth (R62). -/
def layout (c n : Nat) : Nat := 8 * n + ((c + n) / 4 - c / 4)

/-- Row positions per track still free on the current wrap, after what is placed. -/
def Write.posLeft (w : Write) (v : VolCtx) : Nat := (wrapCells v.geo - w.cellPos) / 5216 - w.toSend.length

/-- Numbered gatherings that are not placed yet. -/
def Write.unplaced (w : Write) : Nat := (w.gaths.filter fun g => !g.placed).length

/-- Parts of a full wrap's spine (R143). -/
def fullSpineParts (geo : List Byte) : Nat :=
  let s := 4 * (wrapCells geo / 5216) / 33
  ceilDiv (48 + 24 * geoWraps geo + 32 * ceilDiv s 32) payloadBytes

/-- LON ranges without segments, among LONs 0 to n - 1, given the LONs that have one in rising order (R60, R72). -/
def gapsFrom (lo n : Nat) : List Nat → List (Nat × Nat)
  | [] => if lo < n then [(lo, n - 1)] else []
  | x :: r => if lo < x then (lo, x - 1) :: gapsFrom (x + 1) n r else gapsFrom (x + 1) n r

/-- LGAPS of a volume. -/
def VolCtx.lgaps (v : VolCtx) : List (Nat × Nat) :=
  gapsFrom 0 v.lon (sortBy (· ≤ ·) ((v.recs.filter fun r => r.packed > 0 || r.incDone || r.recorded).map (·.lon)))

/-- The certificate chain that a colophon carries (R255); its length fits CCLEN's 4 bytes (Table 2.11). -/
def cchain : List Byte := certs.flatten.take (2 ^ 32 - 1)
theorem cchain_length : cchain.length < 2 ^ 32 := by
  have := List.length_take_le (2 ^ 32 - 1) certs.flatten
  unfold cchain; omega

/-- Length of the colophon stream that the context would produce now (Table 2.11). -/
def VolCtx.colLen (v : VolCtx) : Nat := 0x110 + 16 * v.burned.length + 16 * v.lgaps.length + 4 + cchain.length + 3309 + 96

/-- The part numbers of the label gatherings of a kind that are composed or queued and not recorded, in order. -/
def labelsLeft (v : VolCtx) (w : Write) (k : GKind) : List Nat :=
  ((w.gaths.filter fun g => g.kind == k && !g.recorded).map (·.qpos)) ++ (v.labelQ.filter fun x => x.1 == k).map (·.2.1)

/-- Wraps whose spine is still to be recorded, the final one's included: those not composed, and those of which a part is not
recorded (R143). -/
def spinesLeft (v : VolCtx) (w : Write) : Nat :=
  let l := labelsLeft v w .spine
  (geoWraps v.geo - (w.wrap - v.spineDue.length)) + ((l.zip (l.drop 1 ++ [0])).filter fun x => x.2 ≤ x.1).length

/-- X of R143, in gathering slots. -/
def reserveSlots (v : VolCtx) (w : Write) : Nat :=
  let waiting := (v.recs.filter fun r => r.isOpen || (r.abandon.isNone && r.complete && !r.durable) || r.incWanted).length
  v.parity * v.depth + spinesLeft v w * fullSpineParts v.geo + (4 - v.copies + (labelsLeft v w .endpaper).length)
    + 2 * ceilDiv v.colLen payloadBytes + 2 + ceilDiv waiting 120 + 16 + 64

/-- Gathering slots still free on the volume: G of R143. -/
def freeSlots (v : VolCtx) (w : Write) : Nat :=
  let r := (wrapCells v.geo - w.cellPos) / 5216 + (geoWraps v.geo - 1 - w.wrap) * (wrapCells v.geo / 5216)
  4 * r / 33

/-- A of R143, the payload still available. -/
def available (v : VolCtx) (w : Write) : Nat :=
  payloadBytes * (freeSlots v w * 32 / (32 + v.parity) - reserveSlots v w)

/-- The 3-byte charges of R162 for record bytes u to n, spans beginning at u and at the cuts between. -/
def spanCharge (u n : Nat) (cuts : List Nat) : Nat :=
  let b := (sortBy (· ≤ ·) (cuts.filter fun c => u < c && c < n)) ++ [n]
  3 * (b.foldl (fun (a : Nat × Nat) c => (a.1 + ceilDiv (c - a.2) 131072, c)) (0, u)).1

/-- What a record's bytes not yet released may take, `extra` bytes more being appended (R143, R162). -/
def Rec.demand (r : Rec) (w : Write) (extra : Nat) : Nat :=
  if r.abandon.isSome || (r.last && !w.holdsSeg r.lon) then 0
  else
    let u := r.releasedInput (r.packed - w.heldBytes r.lon)
    let n := r.taken + extra
    (n - u) + spanCharge u n r.cuts + 85

/-- Whether an APPEND of `len` bytes to record `lon` (a new one where there is no such record) has room (R143). -/
def hasRoom (v : VolCtx) (w : Write) (lon len : Nat) : Bool :=
  let old := v.recs.foldl (fun a r => a + r.demand w (if r.lon = lon then len else 0)) 0
  let new := if (v.rec? lon).isSome then 0 else len + spanCharge 0 len [] + 85
  old + new ≤ available v w

/-! ### Packing (R105, R58, R59, R138) -/

/-- Stream bytes of a record that are ready, within the first `cover` input bytes where a FLUSH limits packing: the
blocks' bytes, and whether the trailer is ready with them. -/
def Rec.readyUpTo (r : Rec) (cover : Option Nat) : Nat × Bool :=
  let bs := match cover with
    | none => r.blocks
    | some n => r.blocks.takeWhile fun b => b.start + b.len ≤ n
  ((bs.foldl (fun a b => a + b.bytes.length) 0), r.trailer.isSome && bs.length == r.blocks.length && (cover.all fun n => r.accepted ≤ n))

/-- One segment packed into the open gathering from record r, or none (R105). -/
def packRec (w : Write) (r : Rec) (cover : Option Nat) : Option (Write × Rec) :=
  let has := w.openSegs.any fun g => g.lon == r.lon
  let grow := w.openSegs.getLast?.any fun g => g.lon == r.lon && !g.last && !g.inc
  let full := w.openSegs.length ≥ 120
  if r.abandon.isSome then
    if r.incWanted && !has && !full then
      some ({ w with openSegs := w.openSegs ++ [⟨r.lon, r.packed, 0, r.packed == 0, false, true⟩] }, { r with incDone := true })
    else none
  else if (has && !grow) || (!has && full) || r.last then none
  else
    let rd := r.readyUpTo cover
    let room := payloadBytes - w.openBytes.length
    let n := min room (rd.1 - r.packed)
    let whole := rd.2 && r.packed + n == r.stream.length && room - n ≥ 64
    let total := n + if whole then 64 else 0
    if total = 0 then none
    else
      let bytes := (r.stream.drop r.packed).take n ++ (if whole then r.trailer.getD [] else [])
      let segs :=
        if has then modAt w.openSegs (w.openSegs.length - 1) fun g => { g with len := g.len + total, last := whole }
        else w.openSegs ++ [⟨r.lon, r.packed, total, r.packed == 0, whole, false⟩]
      some ({ w with openSegs := segs, openBytes := w.openBytes ++ bytes }, { r with packed := r.packed + n, last := whole })

/-- The first record, in ascending LON order, that has something to pack. -/
def packFirst (w : Write) (cover : Option (List (Nat × Nat))) : List Rec → Option (Write × List Rec)
  | [] => none
  | r :: rest =>
    let c : Option (Option Nat) := match cover with
      | none => some none
      | some l => match l.find? fun x => x.1 == r.lon with
        | some x => some (some x.2)
        | none => if r.incWanted then some none else none
    match c.bind (packRec w r) with
    | some (w1, r1) => some (w1, r1 :: rest)
    | none => (packFirst w cover rest).map fun x => (x.1, r :: x.2)

/-- An INCOMPLETE segment that is still wanted goes into the open gathering before anything else, so that the next one to close
holds it (R466). -/
def packInc (w : Write) : List Rec → Option (Write × List Rec)
  | [] => none
  | r :: rest =>
    match if r.incWanted then packRec w r none else none with
    | some (w1, r1) => some (w1, r1 :: rest)
    | none => (packInc w rest).map fun x => (x.1, r :: x.2)

/-- The FLUSH whose data is being packed: the first that has not closed its gathering (R138). -/
def Write.packingFor (w : Write) : Option FlushJob := w.flushes.find? fun j => !j.closed

/-- Whether everything a FLUSH covers of a record is packed: its covered blocks, and its trailer where it has ended. -/
def coverPacked (v : VolCtx) (c : Nat × Nat) : Bool :=
  match v.rec? c.1 with
  | none => true
  | some r =>
    r.abandon.isSome || r.last
      || (let b := (r.blocks.takeWhile fun b => b.start + b.len ≤ c.2)
          !(r.complete && r.accepted ≤ c.2) && (b.foldl (fun a x => a + x.len) 0) ≥ c.2
            && r.packed ≥ b.foldl (fun a x => a + x.bytes.length) 0)

/-! ### Closing a data gathering (R61, R67, R68, R106, R472) -/

/-- Whether the wrap has room for the first data gathering of another group and all that must follow it (R472). -/
def groupRoom (v : VolCtx) (w : Write) : Bool :=
  !w.wrapOver && layout w.inRun (w.unplaced + v.labelQ.length + 1 + v.parity) + 16 + 1 ≤ w.posLeft v

/-- Whether a station's die lets it assemble: no fault of it, nor of the link to it, starts a gathering (R39, Table 1.9). -/
def State.mayAssemble (s : State) (st : Stn) : Bool := !(s.dies[dieOf st]).fault && !(s.ucieDown && st.val ≥ 4)

/-- Whether a gathering may take a number on a station: at most four numbered and unreleased (R110), fewer than 65,535 numbers
open (R264), no die in fault and none cut off (R39, Table 1.9). -/
def State.mayNumber (s : State) (st : Stn) : Bool :=
  let w := (s.stns[st]).write
  (w.gaths.filter fun g => !g.released).length < 4 && w.gaths.length < 65535 && s.mayAssemble st

/-- The write side with a buffer under its open gathering, which takes one of those granted (Table 4.1); none where there is none. -/
def Write.opened (w : Write) : Option Write :=
  match w.openBuf, w.bufs with
  | some _, _ => some w
  | none, h :: r => some { w with openBuf := some h, bufs := r }
  | none, [] => none

/-- Whether another data gathering may close now: it has its buffer (R104) and may take a number, the group's parity and the labels that come before it have
theirs, no fault forbids it (Table 4.5), and a new group begins only on a wrap that has room for it, so that the labels of the
next wrap come before it (R42, R472). -/
def State.mayClose (s : State) (st : Stn) : Bool :=
  let t := s.stns[st]
  match t.ctx with
  | none => false
  | some v =>
    let w := t.write
    s.mayNumber st && v.labelQ.isEmpty && !v.grpEnd && !v.lost && !t.inFault && [Closing.none, .flushing, .incompletes].contains v.closing
      && !w.wrapOver && (v.inGroup != 0 || groupRoom v w) && w.opened.isSome

/-- Whether the wrap has room, after this data gathering, for one more and all that must follow it (R472). -/
def roomAfter (v : VolCtx) (w : Write) (k : Nat) : Bool :=
  let c := w.inRun + w.unplaced
  let here := layout w.inRun (w.unplaced + 1)
  !w.wrapOver && here + layout (c + 1) (1 + v.parity * min v.depth (k + 1)) + 16 ≤ w.posLeft v

/-- GATHERING_CLOSE: the open gathering takes its number, quire and position, and joins the wait for a crypto lane. It
is the group's last where the group is full, a FLUSH or SEAL closes it, or the wrap has no room for another (R472). -/
def State.closeGath (s : State) (st : Stn) (forFlush ends : Bool) : State :=
  let t := s.stns[st]
  match t.ctx with
  | none => s
  | some v =>
    let w := t.write.opened.getD t.write
    let slot := v.freeSlots.headD (v.q0 + v.inGroup % v.depth, v.inGroup / v.depth)
    let fs := v.freeSlots.drop 1
    let n := if v.freeSlots.isEmpty then v.inGroup + 1 else v.inGroup
    let full := fs.isEmpty && n == 32 * v.depth
    let k := n - fs.length
    let short := !full && (forFlush || ends || !roomAfter v w k)
    let g := { Gath.fresh .data v.gnum slot.1 slot.2 w.openBytes with
      segs := w.openSegs, flushEnd := forFlush, groupEnd := short, group := v.group, buffer := w.openBuf,
      closure := v.faulted }
    let ended := full || short
    let dq := min v.depth k
    let v1 := { v with
      gnum := v.gnum + 1, freeSlots := if ended then [] else fs, inGroup := if ended then k else n, grpEnd := ended,
      parDue := if ended then (List.range (v.parity * dq)).map fun j => (v.q0 + j % dq, 32 + j / dq) else v.parDue,
      recs := v.recs.map fun r => if w.openSegs.any (fun x => x.lon == r.lon) then { r with grps := if r.grps.contains v.group then r.grps else r.grps ++ [v.group] } else r }
    let flushes := if forFlush then modFirst (fun j => !j.closed) (fun j => { j with closed := true, lastG := v.gnum }) w.flushes else w.flushes
    (s.modStn st fun t => { t with
      ctx := some v1
      write := { w with gaths := w.gaths ++ [g], openSegs := [], openBytes := [], openBuf := none, closeDue := false, flushes := flushes } }).addJob
        (dieOf st) rCrypto (Job.fresh (.encrypt st v.gnum) st s.clock)

/-- Whether something that could be packed has to wait for the next gathering: a trailer where fewer than its 64 bytes are left, or
more of a record whose segment is not the table's last entry (R58, R105). -/
def waitsNext (v : VolCtx) (w : Write) (cover : Option (List (Nat × Nat))) : Bool :=
  (packFirst { w with openSegs := [], openBytes := [] } cover v.recs).isSome

/-- One move of the timetable sequencer's assembly: a segment is packed, INCOMPLETE ones first, or the open gathering closes because
it is full, or can take no more of what a FLUSH covers, for the FLUSH whose data is all packed, or for a step, a stop or a turn for
which it could not close at once (R61, R105, R138, R466). Where the INCOMPLETE segments of a volume that ends are packed, its open
group ends with the gathering that closes, an empty one where nothing is packed (R68, R472). None where there is nothing to do, or no
buffer for it (R104). -/
def State.assembleOnce (s : State) (st : Stn) : Option State :=
  let t := s.stns[st]
  match t.ctx with
  | none => none
  | some v =>
    match (if s.mayAssemble st then t.write.opened else none) with
    | none => none
    | some w =>
    let job := w.packingFor
    let full := w.openBytes.length ≥ payloadBytes || w.openSegs.length ≥ 120 || (w.closeDue && !w.openSegs.isEmpty)
    let inc := v.recs.any fun r => r.incWanted
    let ends := v.closing == .incompletes && !inc
    match packInc w v.recs <|> (if full then none else packFirst w (job.map (·.cover)) v.recs) with
    | some (w1, recs) => some (s.modStn st fun t => { t with write := w1, ctx := some { v with recs := recs } })
    | none =>
      if !s.mayClose st then none
      else if job.any (fun j => j.cover.all (coverPacked v)) && !inc then some (s.closeGath st true true)
      else if full then some (s.closeGath st false ends)
      else match job with
        | some j => if waitsNext v w (some j.cover) then some (s.closeGath st false false) else none
        | none =>
          if ends && (!w.openSegs.isEmpty || v.inGroup != 0) then some (s.closeGath st false true)
          else if payloadBytes - w.openBytes.length < 64 ∧ waitsNext v w none then some (s.closeGath st false false) else none

/-- Assembly until nothing more can be done; each move packs or closes, so as many moves as given are enough. -/
def State.assemble (s : State) (st : Stn) : Nat → State
  | 0 => s
  | n + 1 => match s.assembleOnce st with
    | some s1 => s1.assemble st n
    | none => s

/-- Label gatherings that wait take their numbers, in order, as far as R110 allows and buffers have been granted for them (R104), and
join the wait for a crypto lane (R106, R113). -/
def State.numberLabels (s : State) (st : Stn) : State :=
  let t := s.stns[st]
  match t.ctx with
  | none => s
  | some v =>
    let room := min (4 - (t.write.gaths.filter fun g => !g.released).length) t.write.bufs.length
    if v.labelQ.isEmpty ∨ v.lost ∨ !s.mayNumber st then s
    else
      let gs := (v.labelQ.take room).zipIdx.map fun p =>
        { Gath.fresh p.1.1 (v.gnum + p.2) 0 p.1.2.1 p.1.2.2 with group := v.group, closure := v.faulted, buffer := t.write.bufs[p.2]? }
      gs.foldl (fun a g => a.addJob (dieOf st) rCrypto (Job.fresh (.encrypt st g.gnum) st s.clock))
        (s.modStn st fun t => { t with
          ctx := some { v with gnum := v.gnum + gs.length, labelQ := v.labelQ.drop room }
          write := { t.write with gaths := t.write.gaths ++ gs, bufs := t.write.bufs.drop gs.length } })

/-- Labels take their numbers, and assembly goes on, with more moves than any state holds segments and gatherings to close. -/
def State.assembleAll (s : State) (st : Stn) : State :=
  match (s.stns[st]).ctx with
  | none => s
  | some v => (s.numberLabels st).assemble st (4 * (v.recs.length + 8) + 8)

/-! ### Release (R108, R109) -/

/-- Whether every block and trailer of which a segment holds a byte carries the mark (R108). -/
def segMarked (v : VolCtx) (g : Seg) : Bool :=
  match v.rec? g.lon with
  | none => true
  | some r =>
    (r.blocks.foldl (fun (a : Nat × Bool) b =>
      let e := a.1 + b.bytes.length
      (e, a.2 && (b.marked || e ≤ g.offset || g.offset + g.len ≤ a.1))) (0, true)).2

/-- The interleave group ends once its parity is composed, or at once where P is 0; the next begins behind it (R67). -/
def VolCtx.nextGroup (v : VolCtx) : VolCtx :=
  { v with group := v.group + 1, q0 := v.q0 + min v.depth v.inGroup, prevIn := v.inGroup, inGroup := 0, grpEnd := false, freeSlots := [],
           parDue := [] }

/-- GATHERING_RELEASE over the gatherings in ascending number: each that is encrypted and marked, up to the first that
is not (R108). -/
def releaseList (v : VolCtx) : List Gath → List Gath
  | [] => []
  | g :: r =>
    if g.released then g :: releaseList v r
    else if g.encrypted && g.segs.all (segMarked v) then { g with released := true } :: releaseList v r
    else g :: r

/-- Releases what can be released; a group without parity ends with the release of its last gathering. -/
def State.releaseHere (s : State) (st : Stn) : State :=
  s.modStn st fun t =>
    match t.ctx with
    | none => t
    | some v =>
      let gs := releaseList v t.write.gaths
      let done := v.grpEnd && v.parDue.isEmpty && gs.all (·.released)
      { t with write := { t.write with gaths := gs }, ctx := some (if done then v.nextGroup else v) }

/-! ### Burning (R56, R112, R114) -/

/-- A number enters the burned ranges; consecutive ones merge (R114). -/
def burnNum (n : Nat) : List (Nat × Nat) → List (Nat × Nat)
  | [] => [(n, n)]
  | (a, b) :: r =>
    if n = b + 1 then
      match r with
      | (c, d) :: r2 => if c = n + 1 then (a, d) :: r2 else (a, n) :: r
      | [] => [(a, n)]
    else if n + 1 = a then (n, b) :: r
    else if n < a then (n, n) :: (a, b) :: r
    else (a, b) :: burnNum n r

/-- A segment given back to the packing queue (R112). -/
def Rec.unpack (r : Rec) (l : List Seg) : Rec :=
  l.foldl (fun r g =>
    if g.lon ≠ r.lon then r
    else if g.inc then { r with incDone := false }
    else { r with packed := min r.packed g.offset, last := if g.last then false else r.last }) r

/-- The group before the open one is open again, where one of its gatherings is among those given back. -/
def VolCtx.prevGroup (v : VolCtx) (gone : List Gath) : VolCtx :=
  if gone.any fun g => !g.kind.label && g.group < v.group then
    { v with group := v.group - 1, q0 := v.q0 - min v.depth v.prevIn, inGroup := v.prevIn, grpEnd := true, parDue := [] }
  else v

/-- Numbered gatherings that are not to be recorded under their numbers burn: the segments of data gatherings go back to the packing
queue and their quire positions are taken again in order, label gatherings wait for new numbers, parity gatherings are due again, and
a FLUSH closed by one of them closes again (R39, R112, R472). -/
def State.giveBack (s : State) (st : Stn) (gone : List Gath) : State :=
  let t := s.stns[st]
  match t.ctx with
  | none => s
  | some v0 =>
    let v := v0.prevGroup gone
    let w := t.write
    let has := fun (n : Nat) => gone.any fun g => g.gnum == n
    let data := gone.filter fun g => g.kind == .data
    let par := gone.filter fun g => g.kind == .parity
    let segs := gone.flatMap (·.segs) ++ w.openSegs
    let v1 := { v with
      burned := gone.foldl (fun a g => burnNum g.gnum a) v.burned
      labelQ := ((gone.filter fun g => g.kind.label).map fun g => (g.kind, g.qpos, g.payload)) ++ v.labelQ
      freeSlots := data.map (fun g => (g.quire, g.qpos)) ++ v.freeSlots
      grpEnd := v.grpEnd && data.isEmpty
      parDue := if data.isEmpty then par.map (fun g => (g.quire, g.qpos)) ++ v.parDue else []
      npar := v.npar - par.length
      quires := v.quires.map fun e => { e with npar := e.npar - (par.filter fun g => g.quire == e.quire).length }
      recs := v.recs.map fun r => r.unpack segs }
    (s.modStn st fun t => { t with
      ctx := some v1
      write := { w with
        gaths := w.gaths.filter fun g => !has g.gnum, openSegs := [], openBytes := [], closeDue := false
        flushes := w.flushes.map fun j => if j.closed && has j.lastG then { j with closed := false } else j } }).dropJobs fun k =>
        match k with
        | .encrypt a g => a == st && has g
        | _ => false

/-- Burns every unreleased numbered gathering from number `n` on, and empties the open gathering (R112, R472). -/
def State.burnFrom (s : State) (st : Stn) (n : Nat) : State :=
  (s.giveBack st ((s.stns[st]).write.gaths.filter fun g => g.gnum ≥ n && !g.released)).numberLabels st

/-- Burns every numbered gathering that is neither recorded nor in the layout (R39). -/
def State.burnUnwritten (s : State) (st : Stn) : State :=
  s.giveBack st ((s.stns[st]).write.gaths.filter fun g => !g.placed)

/-- The lowest unreleased gathering that holds a segment of a record. -/
def Write.firstWith (w : Write) (lon : Nat) : Option Nat :=
  ((w.gaths.filter fun g => !g.released && g.segs.any fun x => x.lon == lon).map (·.gnum)).head?

/-- A record is abandoned; its segments leave the unreleased gatherings, which burn and repack, and its jobs end (R140,
R466). -/
def State.abandonRec (s : State) (st : Stn) (lon : Nat) (why : Abandon) : State :=
  let s1 := (s.modStn st fun t => t.modCtx fun v => v.modRec lon fun r => r.abandonAs why).dropJobs fun k =>
    k == .compress st lon
  let s2 := match (s1.stns[st]).write.firstWith lon with
    | some n => s1.burnFrom st n
    | none =>
      if (s1.stns[st]).write.openSegs.any (fun g => g.lon == lon) then
        s1.burnFrom st (match (s1.stns[st]).ctx with | some v => v.gnum | none => 0)
      else s1
  s2.assembleAll st

/-- GATHERING_RELEASE, and labels that wait take the numbers it leaves room for (R110). -/
def State.releaseAll (s : State) (st : Stn) : State := (s.releaseHere st).numberLabels st

/-! ### Label gatherings -/

/-- A stream composed into label gatherings, which take their numbers as soon as R110 allows (R53, R71, R72, R106, R113). -/
def State.compose (s : State) (st : Stn) (kind : GKind) (stream : List Byte) : State :=
  (s.modStn st fun t => t.modCtx fun v => { v with
    labelQ := v.labelQ ++ (streamParts stream).zipIdx.map fun p => (kind, p.2, p.1)
    copies := if kind = .endpaper then v.copies + 1 else v.copies }).numberLabels st

/-- An endpaper copy composed (R69). -/
def State.composeEndpaper (s : State) (st : Stn) : State :=
  match (s.stns[st]).ctx with
  | none => s
  | some v => s.compose st .endpaper v.endpaper

/-- Every spine that is still to be recorded, composed (R71). -/
def State.composeSpines (s : State) (st : Stn) : State :=
  match (s.stns[st]).ctx with
  | none => s
  | some v =>
    (v.spineDue.foldl (fun a w => a.compose st .spine (spineStream v w)) s).modStn st fun t => t.modCtx fun v => { v with spineDue := [] }

/-! ### The colophon (R72, R73, R270, R273) -/

/-- A leaf of the Merkle tree. -/
def merkleLeaf (v : VolCtx) (lon : Nat) : List Byte :=
  let st : List Byte × List Byte := match v.rec? lon with
    | some r => if r.isComplete then ([0], r.hash.getD (zeros 48)) else if r.packed > 0 || r.incDone || r.recorded then ([1], zeros 48) else ([2], zeros 48)
    | none => ([2], zeros 48)
  sha384 ([0] ++ beBytes 8 lon ++ st.1 ++ st.2)

/-- One level of the tree above another. -/
def merkleUp : List (List Byte) → List (List Byte)
  | a :: b :: r => sha384 ([1] ++ a ++ b) :: merkleUp r
  | l => l

/-- The root over some leaves, in at most `n` levels. -/
def merkleRoot : Nat → List (List Byte) → List Byte
  | 0, l => l.headD (sha384 [2])
  | n + 1, l => if l.length ≤ 1 then l.headD (sha384 [2]) else merkleRoot n (merkleUp l)

/-- MERKLE of a volume (R270). -/
def VolCtx.merkle (v : VolCtx) : List Byte :=
  merkleRoot 64 ((List.range v.lon).map (merkleLeaf v))

/-- The colophon stream (Table 2.11); `wraps` is the number of wraps used, and `rnd` the bytes drawn for the hedged signature (R273). -/
def colophonStream (v : VolCtx) (wraps : Nat) (rnd : List Byte) : List Byte :=
  let lg := v.lgaps
  let ranges := fun (l : List (Nat × Nat)) => l.flatMap fun r => beBytes 8 r.1 ++ beBytes 8 r.2
  let comp := (v.recs.filter (·.isComplete)).length
  let inc := (v.recs.filter fun r => !r.isComplete && (r.packed > 0 || r.incDone || r.recorded)).length
  let nburn := v.burned.foldl (fun a b => a + (b.2 + 1 - b.1)) 0
  let body := beBytes 4 0x49544843 ++ [1] ++ zeros 3 ++ padTo 16 v.volid ++ padTo 48 v.chain ++ v.merkle ++ beBytes 8 v.lon
    ++ beBytes 8 comp ++ beBytes 8 inc ++ beBytes 8 v.ndata ++ beBytes 8 v.npar ++ beBytes 8 v.nlabel ++ beBytes 8 (v.gnum - 1)
    ++ beBytes 8 nburn ++ beBytes 4 v.burned.length ++ beBytes 4 lg.length ++ padTo 48 v.prov ++ padTo 16 v.srcvol
    ++ beBytes 2 wraps ++ zeros 2 ++ beBytes 4 v.colLen ++ beBytes 8 v.quires.length ++ ranges v.burned ++ ranges lg
    ++ beBytes 4 cchain.length ++ cchain
  body ++ padTo 3309 (Config.signMl body rnd) ++ padTo 96 (Config.signEc body)

/-! ### Placement (R471, R475, R62) -/

/-- Gatherings and tail slots laid out whose last position has not been sent. -/
def Write.laid (w : Write) : Nat :=
  (w.toSend.filter fun p => match p.kind with | .gathering _ _ 7 | .tail _ 7 => true | _ => false).length

/-- Gatherings and tail slots laid out beyond the position being sent (R471). -/
def Write.ahead (w : Write) : Nat :=
  ((w.toSend.drop 1).filter fun p => match p.kind with | .gathering _ _ 0 | .tail _ 0 => true | _ => false).length

/-- A row position newly laid out. -/
def Write.newPos (w : Write) (i : Nat) (k : PosKind) (lastG : Nat) : TxPos :=
  { seq := w.seq + i, kind := k, lastG := lastG, slots := [], bandNo := w.bandsPut, off := 0, cell := 0, graded := [] }

/-- Row positions added at the end of the layout. -/
def Write.lay (w : Write) (l : List PosKind) (lastG : Nat) : Write :=
  { w with toSend := w.toSend ++ l.zipIdx.map (fun k => w.newPos k.2 k.1 lastG), seq := w.seq + l.length }

/-- A rewrite band added at the end of the layout. -/
def Write.layBand (w : Write) (lastG : Nat) : Write :=
  { w.lay [.band w.bandsPut] lastG with bandsOn := w.bandsOn + 1, bandsPut := w.bandsPut + 1 }

/-- A gathering's or tail slot's eight positions added, and a band where it is the fourth since the last (R62). -/
def Write.layGath (w : Write) (l : List PosKind) (g : Nat) : Write :=
  let w1 := { w.lay l g with inRun := w.inRun + 1 }
  if w1.inRun % 4 = 0 then w1.layBand g else w1

/-- A splice slot added (R65), and after it the rewrite band that was cut short, or not begun, when writing stopped (R62, R474). -/
def Write.laySplice (w : Write) (lastG : Nat) : Write :=
  let w1 := w.lay (List.replicate 8 .splice) lastG
  match w.owed with
  | none => w1
  | some l =>
    { w1 with
      toSend := w1.toSend ++ [{ w1.newPos 0 (.band w1.bandsPut) lastG with slots := l }]
      seq := w1.seq + 1, bandsOn := w1.bandsOn + 1, bandsPut := w1.bandsPut + 1, owed := none }

/-- The LPOS of a place `ahead` frames from the counted LPOS in the direction of travel, corrected by HEAD_XOFS (R221;
the sign of the correction DEDUCED, log 26). -/
def State.lposAt (s : State) (st : Stn) (ahead : Nat) : Nat :=
  let t := s.stns[st]
  let fr : Int := match t.ctx with | some v => max (geoFrame v.geo) 1 | none => 100
  let x := (t.servo.lpos : Int) + (if t.servo.reverse then -(ahead : Int) else (ahead : Int)) - s.img.headX st.val / fr
  x.toNat

/-- A quire's spine entry brought up to date by a data gathering at a position of it (Table 2.10). -/
def putQuire (w : Nat) (g : Gath) (qs : List QEntry) : List QEntry :=
  let lo := g.segs.foldl (fun a x => minO a (some x.lon)) none
  let hi := g.segs.foldl (fun a x => maxO a (some x.lon)) none
  if qs.any fun q => q.quire == g.quire then
    qs.map fun q => if q.quire = g.quire then
      { q with lo := minO q.lo lo, hi := maxO q.hi hi, ndata := max q.ndata (g.qpos + 1),
               lpos := if g.qpos = 0 then g.lpos else q.lpos, wrap := if g.qpos = 0 then w else q.wrap } else q
  else qs ++ [⟨g.quire, lo, hi, g.lpos, g.qpos + 1, 0, w⟩]

/-- Steps 1 to 5 of R471 for a released headered gathering. -/
def placeHeadered (v : VolCtx) (w : Write) (lpos : Nat) (g : Gath) : VolCtx × Gath :=
  let g1 := { g with wrap := w.wrap, lpos := lpos, prev := if v.chain.isEmpty then zeros 48 else v.chain, placed := true }
  let g2 := { g1 with crc := BitVec.ofNat 32 (crc32c (headerBody v g1 g1.wrap g1.lpos g1.tag g1.prev)) }
  let area := g2.area v
  let g3 := { g2 with chain := sha384 area }
  let v1 := { v with chain := g3.chain }
  if g.kind = .data then
    ({ v1.setAcc g.quire (c3Add v.parity g.qpos area (v.acc g.quire)) with quires := putQuire w.wrap g3 v.quires, ndata := v.ndata + 1 }, g3)
  else ({ v1 with nlabel := v.nlabel + 1 }, g3)

/-- The next C3 parity gathering of the group composed from its accumulators: it takes its number and the buffer `h`, and will be
placed without the steps of R471 (R104, R106). -/
def composeParity (v : VolCtx) (w : Write) (h : BitVec 32) (q pos : Nat) : VolCtx × Gath :=
  let g := { Gath.fresh .parity v.gnum q pos ((v.acc q).getD (pos - 32) (zeros areaBytes)) with
    encrypted := true, released := true, group := v.group, wrap := w.wrap, closure := v.faulted, buffer := some h }
  let v1 := { v with gnum := v.gnum + 1, parDue := v.parDue.drop 1, npar := v.npar + 1,
                     quires := v.quires.map fun (e : QEntry) => if e.quire = q then { e with npar := e.npar + 1 } else e }
  (if v1.parDue.isEmpty then v1.nextGroup else v1, g)

/-- The positions of a gathering. -/
def gathPositions (g : Gath) : List PosKind := (List.range 8).map fun i => .gathering g.gnum g.kind i

/-- Whether one more gathering and the band that must end the wrap still fit (R62, R472). -/
def Write.fits (w : Write) (v : VolCtx) : Bool := layout w.inRun 1 + 1 ≤ w.posLeft v

/-- Once nothing more goes on the wrap and all that was laid out is sent, run-out fill follows up to the wrap's end (R116). -/
def Write.fillOver (w : Write) : Write :=
  if w.wrapOver ∧ w.toSend.isEmpty ∧ w.feed = .writing then { w with feed := .runOut } else w

/-- The last rewrite band of a wrap, unless the last gathering has one already (R62); nothing more is laid out on the wrap. -/
def Write.endBand (w : Write) (lastG : Nat) : Write :=
  { (if w.inRun ≤ 4 * w.bandsOn then w else w.layBand lastG) with wrapOver := true }.fillOver

/-- Number of the last gathering laid out. -/
def lastPlaced (v : VolCtx) (w : Write) : Nat :=
  match (w.gaths.filter (·.placed)).getLast? with
  | some g => g.gnum
  | none => v.gnum - 1

/-- Whether the write feed lays out gatherings: it writes, or waits for the start of a wrap (R117, R473), and nothing ends the
wrap. -/
def Write.lays (w : Write) : Bool := (w.feed == .writing || (w.feed == .resume && w.cellPos == 0)) && !w.wrapOver

/-- Whether the wrap has room for the spine of the wrap, both colophon copies and the tail, and on wrap 0 endpaper copies 2 and 3
(R42, R476). -/
def closeRoom (v : VolCtx) (w : Write) : Bool :=
  let n := (streamParts (spineStream v w.wrap)).length + 2 * (v.colLen / payloadBytes + 1) + 16 + if w.wrap = 0 then 4 - v.copies else 0
  !w.wrapOver && decide (layout w.inRun (w.unplaced + v.labelQ.length + n) + 16 + 1 ≤ w.posLeft v)

/-- Whether a wrap on which another follows ends because it has no room for another interleave group (R472), or for all that ends
the volume (R42; DEDUCED, log 129). -/
def wrapFull (v : VolCtx) (w : Write) : Bool :=
  w.unplaced == 0 && v.labelQ.isEmpty && decide (w.wrap + 1 < geoWraps v.geo)
    && (([Closing.none, .flushing, .incompletes].contains v.closing && v.inGroup == 0 && !v.grpEnd && !groupRoom v w)
      || ([Closing.endpapers, .spine].contains v.closing && !closeRoom v w))

/-- The count of empty gatherings in a row after one more gathering is placed: a gathering that was released ends the row, but an empty
one and a parity gathering leave the count as it is, for neither ends the want of one (R475; DEDUCED, log 147). -/
def Write.emptiesAfter (w : Write) (g : Gath) : Nat := if g.kind = .parity ∨ (g.segs.isEmpty && g.kind == .data) then w.empties else 0

/-- The write feed fixes the place of the next gathering in recording order (R471): a released one, which has a buffer for its C2
rows (R104); where there is none, the group's next parity gathering is composed; where none fits the wrap, its last band ends the
layout. A parity gathering takes its contents from the accumulators when it is placed, and again when it is placed again (R93). At
most two gatherings lie ahead of the position being sent, and none is started while LPOS is lost (R221). -/
def State.placeNext (s : State) (st : Stn) (ahead : Nat) : State :=
  let t := s.stns[st]
  match t.ctx with
  | none => s
  | some v =>
    let w := t.write
    if !w.lays ∨ w.ahead ≥ 2 ∨ !t.servo.lposOk ∨ w.tailLeft.isSome then s
    else
      let next := w.gaths.find? fun g => !g.placed
      let parity := v.grpEnd && next.isNone && v.labelQ.isEmpty && !v.parDue.isEmpty
      let due := (next.any (·.released)) || parity
      if !due then (if wrapFull v w then s.modStn st fun t => t.modWrite fun w => w.endBand (lastPlaced v w) else s)
      else if !w.fits v then s.modStn st fun t => t.modWrite fun w => w.endBand (lastPlaced v w)
      else match next with
        | some g => if g.c2Buf.isNone then s else
          let r := if g.kind = .parity then
              (v, { g with placed := true, wrap := w.wrap, payload := (v.acc g.quire).getD (g.qpos - 32) (zeros areaBytes) })
            else placeHeadered v w (s.lposAt st ahead) g
          s.modStn st fun t => { t with
            ctx := some r.1
            write := { (w.layGath (gathPositions g) g.gnum) with
              gaths := w.gaths.map (fun x => if x.gnum = g.gnum then r.2 else x), empties := w.emptiesAfter g } }
        | none =>
          match v.parDue, w.bufs with
          | (q, pos) :: _, h :: bufs =>
            let r := composeParity v w h q pos
            s.modStn st fun t => { t with ctx := some r.1, write := { w with gaths := w.gaths ++ [r.2], bufs := bufs } }
          | _, _ => s

/-- Positions of a splice slot at the front of the layout that have been sent. -/
def Write.spliceSent (w : Write) : Nat := (8 - (w.toSend.takeWhile fun q => q.kind == .splice).length % 8) % 8

/-- How many positions at the front of the layout belong to what is being sent: a gathering, tail or splice slot begun, or
a band begun (R116). `begun` says that cells of the first have been sent. -/
def Write.inProgress (w : Write) (begun : Bool) : Nat :=
  match w.toSend with
  | [] => 0
  | p :: _ =>
    match p.kind with
    | .gathering g _ i =>
      if begun || i > 0 then (w.toSend.takeWhile fun q => match q.kind with | .gathering h _ _ => h == g | _ => false).length else 0
    | .tail _ i => if begun || i > 0 then 8 - i else 0
    | .band _ => if begun then 1 else 0
    | .splice => if begun || w.spliceSent > 0 then (w.toSend.takeWhile fun q => q.kind == .splice).length else 0

/-- Positions sent of the gathering, tail or splice slot at the front of the layout. -/
def Write.partSent (w : Write) : Nat :=
  match w.toSend.head? with
  | some p => match p.kind with
    | .gathering _ _ i | .tail _ i => i
    | .splice => w.spliceSent
    | .band _ => 0
  | none => 0

/-- Whether a slot holds a copy of an entry's row. -/
def RwEntry.fills (e : RwEntry) : SlotFill → Bool
  | .copy g _ r => g == e.gnum && r == e.row
  | .filler => false

/-- The rewrite band that the layout after its first `keep` positions begins with, a splice slot before it left aside: it follows what
is recorded, and is owed. Where cells of it have been sent (`begun`), or it stands behind a splice slot because it was owed already, it
keeps its contents (R474); otherwise it is filled again (R122). -/
def Write.owes (w : Write) (keep : Nat) (begun : Bool) : Option (List SlotFill) :=
  let splice := fun (p : TxPos) => p.kind == .splice
  match ((w.toSend.drop keep).dropWhile splice).head? with
  | some p => match p.kind with
    | .band _ => some (if (keep = 0 && begun) || w.toSend.any splice then p.slots else [])
    | _ => w.owed
  | none => w.owed

/-- Copies that no band sent, laid out or owed holds any more go back to the queue (R121). -/
def Write.requeue (w : Write) : Write :=
  { w with rwq := w.rwq.map fun e =>
      if e.inBand && !((w.sent ++ w.toSend).any fun p => p.slots.any e.fills) && !(w.owed.any fun l => l.any e.fills) then { e with inBand := false } else e }

/-- Colophon copies that are not placed are burned, with those that wait for a number: the stream is composed again (R72; DEDUCED, log
148). -/
def Station.dropColophon (t : Station) : Station :=
  match t.ctx with
  | none => t
  | some v =>
    let gone := t.write.gaths.filter fun g => g.kind == .colophon && !g.placed
    { t with
      ctx := some { v with
        burned := gone.foldl (fun a g => burnNum g.gnum a) v.burned, labelQ := v.labelQ.filter fun x => x.1 != .colophon, colStream := none
        closing := if v.closing = .tail then .colophon else v.closing }
      write := { t.write with gaths := t.write.gaths.filter fun g => !(g.kind == .colophon && !g.placed), tailLeft := none } }

/-- The layout after its first `keep` positions is taken back: every gathering laid out there is to be placed again, its
C3 contribution is removed, the chain goes back to the gathering before it, and the bands and slots there go, but for a band that
follows what stays (R62, R471, R474). Where the chain head of a colophon changes by it, the colophon is composed again (R72). -/
def Station.unplace (t : Station) (keep : Nat) (begun : Bool) : Station :=
    match t.ctx with
    | none => t
    | some v =>
      let w := t.write
      let cut := w.toSend.drop keep
      let kept := w.toSend.take keep
      let inCut := fun (n : Nat) (l : List TxPos) => l.any fun p => match p.kind with
        | .gathering m _ _ => m == n
        | _ => false
      let undone := w.gaths.filter fun g => g.placed && !g.recorded && inCut g.gnum cut && !inCut g.gnum kept
      let heads := undone.filter fun g => g.kind != .parity
      let v1 := undone.foldl (fun a g =>
        if g.kind = .data then { a.setAcc g.quire (c3Add a.parity g.qpos (g.area v) (a.acc g.quire)) with ndata := a.ndata - 1 }
        else if g.kind = .parity then a else { a with nlabel := a.nlabel - 1 }) v
      let v2 := match heads.head? with
        | some g => { v1 with chain := g.prev }
        | none => v1
      let bands := (cut.filter fun p => match p.kind with | .band _ => true | _ => false).length
      let tails := (cut.filter fun p => match p.kind with | .tail _ 7 => true | _ => false).length
      let t1 := { t with ctx := some v2, write := ({ w with
          toSend := kept, bandsOn := w.bandsOn - bands, bandsPut := w.bandsPut - bands, inRun := w.inRun - undone.length - tails,
          tailLeft := w.tailLeft.map (· + tails), owed := w.owes keep begun, wrapOver := w.wrapOver && cut.isEmpty
          gaths := w.gaths.map fun g => if undone.any (fun u => u.gnum == g.gnum) then { g with placed := false } else g } : Write).requeue }
      if v.closing == .tail && heads.any (fun g => g.kind != .colophon) then t1.dropColophon else t1

/-- Crypto jobs of gatherings that a station has no more end (R112). -/
def State.dropLost (s : State) (st : Stn) : State :=
  s.dropJobs fun k => match k with
    | .encrypt a n => a == st && !((s.stns[st]).write.gaths.any fun g => g.gnum == n)
    | _ => false

/-- The same on a station of the machine. -/
def State.unplace (s : State) (st : Stn) (keep : Nat) (begun : Bool) : State :=
  (s.modStn st fun t => t.unplace keep begun).dropLost st

/-- Row positions sent of what is cut short are void: their rows keep no grade and ask for no copy, and the place where writing goes
on lies before them (R117, R474). -/
def Write.void (w : Write) : Write :=
  let cut := w.toSend.filterMap fun p => match p.kind with | .gathering g _ _ => some g | _ => none
  let hit := fun (p : TxPos) => match p.kind with | .gathering g _ _ => cut.contains g | _ => false
  let gone := w.sent.filter hit
  { w with
    sent := w.sent.filter (fun p => !hit p)
    cellPos := w.cellPos - 5216 * w.partSent
    rwq := w.rwq.filter fun e => !cut.contains e.gnum
    gaths := w.gaths.map fun g => if cut.contains g.gnum then { g with dead := [], unre0 := 0, unre1 := 0 } else g
    sums := w.sums.mapFinIdx fun i l _ => l.map fun x =>
      (x.1, x.2 - (gone.filter fun p => p.bandNo == x.1).foldl (fun a p => a + ((p.graded.filter fun y => y.1.val == i).foldl (fun b y => b + y.2.weight) 0)) 0)
    feed := .off }

/-- Writing that cannot finish what is in progress: its recorded positions are void, and it is recorded again whole (R474). -/
def State.voidWriting (s : State) (st : Stn) : State :=
  let begun := (s.stns[st]).link.leadCells > 0
  (s.modStn st fun t => t.modWrite Write.void).unplace st 0 begun

end Sys2Proof.Machine
end

