-- ==== Sys2Proof/Machine/AdminData.lean ====
section
/-!
DEFINITION. What IDENTIFY and GET_LOG send (10, Tables 10.7, 10.17, 10.18, R333, R356 to R358, R403), and how a command that
waits for its data buffer goes on.
-/
namespace Sys2Proof.Machine

/-! ### IDENTIFY (R331, R358) -/

/-- Device data (Table 10.7). -/
def State.identDevice (s : State) (p : Port) : List Byte :=
  padTo 4096 (leBytes 4 Config.devId.toNat ++ leBytes 4 Config.devRev.toNat ++ leBytes 8 Config.serial.toNat ++ leBytes 4 s.img.imgVer.toNat
    ++ leBytes 4 s.img.secVer.toNat ++ leBytes 8 s.featOffer.toNat ++ leBytes 2 512 ++ leBytes 2 4096 ++ leBytes 1 p.val
    ++ leBytes 1 s.stnMap.toNat ++ leBytes 1 s.img.pageT ++ leBytes 1 s.img.geos.length ++ zeros 8 ++ str48 s.ledger.pin
    ++ padTo 32 (s.img.geos.flatMap fun g => leBytes 4 (geoId g)))

/-- The five certificates laid out from an offset: the directory and the bytes (Table 10.18). -/
def certLayout (ofs : Nat) : List (List Byte) → List Byte × List Byte
  | [] => ([], [])
  | c :: r =>
    let fill := (8 - c.length % 8) % 8
    let x := certLayout (ofs + c.length + fill) r
    (leBytes 4 ofs ++ leBytes 4 c.length ++ x.1, c ++ (if r.isEmpty then [] else zeros fill) ++ x.2)

/-- Certificate data (Table 10.18). -/
def identCerts : List Byte :=
  let x := certLayout 0x30 certs
  leBytes 4 5 ++ zeros 4 ++ x.1 ++ x.2

/-- The structure that a CNS names. -/
def State.identData (s : State) (p : Port) : Nat → Option (List Byte)
  | 0 => some (s.identDevice p)
  | 1 => some identCerts
  | 2 => some (s.img.geos.flatMap (padTo 256))
  | _ => none

/-! ### GET_LOG -/

/-- A black-box entry (Table 10.17). -/
def BlackBox.bytes (b : BlackBox) : List Byte :=
  leBytes 8 b.pwrCnt.toNat ++ leBytes 8 b.time ++ leBytes 1 b.cause ++ [b.store] ++ leBytes 2 b.addr.toNat
    ++ padTo 14 (b.vmin.flatMap (leBytes 2)) ++ zeros 2 ++ padTo 4 (b.temp.flatMap fun t => leBytes 2 t.toNat) ++ leBytes 4 b.detail ++ zeros 20

/-- A ring of `depth` slots in index order, from its entries, newest first, and how many were ever written; `len` bytes each. -/
def ringBytes {α : Type} (depth cnt : Nat) (newest : List α) (f : α → List Byte) (blank : List Byte) (n : Nat) : List Byte :=
  (List.range n).flatMap fun i =>
    let back := (cnt + depth - 1 - i) % depth
    if cnt = 0 then blank else match newest[back]? with
      | some e => f e
      | none => blank

/-- The stabled records of a station (R403). -/
def stabledOf (st : Stn) (v : VolCtx) : List Byte :=
  (v.recs.filter fun r => r.isOpen || (r.abandon.isNone && r.arrived && !r.durable)).flatMap fun r =>
    leBytes 8 r.lon ++ leBytes 1 st.val ++ leBytes 1 r.isOpen.toNat ++ zeros 6

/-- The bytes of a log (LID, DIE), rings in index order as far as they have been written (R356; DEDUCED for LIDs 1 and 2, log
44). -/
def State.logData (s : State) (p : Port) (lid : Nat) (d : DieId) : Option (List Byte) :=
  let h := s.ports[p]
  let x := s.dies[d]
  match lid with
  | 1 => some (ringBytes 4096 h.errCnt h.errs CmdErr.bytes (zeros 64) (min h.errCnt 4096))
  | 2 => some (ringBytes elogDepth x.elogCnt x.elog ELogEntry.bytes (zeros 32) (min x.elogCnt elogDepth))
  | 3 => some (ringBytes 64 s.ledger.bboxCnt s.ledger.bbox BlackBox.bytes (zeros 64) 64)
  | 4 => some ((s.ledger.retired[d]).flatMap (leBytes 4))
  | 5 => some (allStns.flatMap fun st => if (s.stns[st]).stabled then (match (s.stns[st]).ctx with | some v => stabledOf st v | none => []) else [])
  | _ => none

/-! ### Sending -/

/-- What a command sends to its data buffer: the structure, or what lies in a log from OFS on, cut to DLEN. -/
def State.adminBytes (s : State) (p : Port) (e : Entry) : List Byte :=
  if e.opc = 0x80 then (s.identData p (e.cd 0 1)).getD []
  else ((s.logData p (e.cd 0 1) (fin2 (e.cd 1 1))).getD []).drop (e.cd 8 8) |>.take e.dlen.toNat

/-- An IDENTIFY or GET_LOG sends its data and completes; data with the poison mark goes out with EP, and the command completes
with 0x08 (Table 9.3). -/
def State.sendAdmin (s : State) (r : CmdRef) (ep : Bool) : State :=
  match s.cmd? r with
  | none => s
  | some k =>
    if k.entry.opc ≠ 0x80 ∧ k.entry.opc ≠ 0x84 then s
    else
      let b := s.adminBytes r.port k.entry
      (s.sendData r.port k.entry k.sgl 0 b ep).finish r { status := if ep then 8 else 0, result := b.length }

/-- An IDENTIFY or GET_LOG goes on: it asks for a buffer for its data, or, with no data to hold or with no buffer memory (in the
recovery state), sends at once (R313, R370). -/
def State.startAdmin (r : CmdRef) (s : State) : State :=
  match s.cmd? r with
  | none => s
  | some k =>
    if (s.adminBytes r.port k.entry).isEmpty ∨ s.rst.stage = .recovery then s.sendAdmin r false
    else s.modCmd r fun k => { k with phase := .needBuffer }

/-- IDENTIFY and GET_LOG whose buffer has been granted send their data (R313, R331). -/
def State.grantsGo (s : State) : State :=
  (s.allCmds.filter fun c => c.2.phase == .moving && c.2.handle.isSome && (c.2.entry.opc == 0x80 || c.2.entry.opc == 0x84)).foldl
    (fun a c => a.sendAdmin c.1 false) s

/-- Checks 6 to 10 of IDENTIFY: a CNS of Table 10.5 and room for the whole structure. -/
def identOwn (c : HostCmd) (s : State) : Option Ending :=
  match s.identData c.port (c.entry.cd 0 1) with
  | none => some (.st 2)
  | some b => if c.entry.dlen.toNat < b.length then some (.st 2) else none

/-- Checks 6 to 10 of GET_LOG: a LID of Table 10.5, and DIE only where the log has one; in the recovery state LID 3 alone (R370). -/
def logOwn (c : HostCmd) (s : State) : Option Ending :=
  let lid := c.entry.cd 0 1
  let die := c.entry.cd 1 1
  if lid < 1 ∨ lid > 5 ∨ die > 1 ∨ (die ≠ 0 ∧ lid ≠ 2 ∧ lid ≠ 4) then some (.st 2)
  else if s.boot.recovery ∧ lid ≠ 3 then some (.st 0xE) else none

end Sys2Proof.Machine
end

