-- ==== Sys2Proof/Machine/StationOps.lean ====
section
/-!
DEFINITION. Stations as a whole (04, 06, 07): the write gate, speed ramps and coefficient banks, opening and closing the
loops, stops and holds, link loss and station fault, and the speed-matching decision.
-/
namespace Sys2Proof.Machine

/-! ### Signals (R223, Table 7.5) -/

/-- A tape speed in mm/s as a loop word. -/
def speedWord (mm : Int) : Word := sat32 (mm * 131072)
/-- A tension in mN as a loop word. -/
def tensionWord (mn : Int) : Word := sat32 (mn * 524288)
/-- A lateral position in nm as a loop word. -/
def lateralWord (nm : Int) : Word := sat32 (nm * 65536)
/-- Speed of a ladder step in mm/s (R131). -/
def ladder (i : Nat) : Nat := 2000 + 250 * i
/-- The highest ladder step whose speed is at most a speed in mm/s, or step 0 (R243). -/
def ladderStep (mm : Nat) : Nat := min 32 ((mm - 2000) / 250)
/-- Payload rate of a ladder step in bytes per second (R131). -/
def stepRate (i : Nat) : Nat := 457000000 * (8 + i)

/-! ### Requests to the head-end (R192) -/

/-- HE_CAP, HE_IFS and HE_STATUS (Table 6.8). -/
def heCapAddr : BitVec 16 := 0x0008
def heIfsAddr : BitVec 16 := 0x000C
def heStatusAddr : BitVec 16 := 0x0010

/-- A request joins those not answered yet; it gets its tag when it is sent (DESIGN CHOICE, log 111). -/
def Link.ask (k : Link) (write : Bool) (addr : BitVec 16) (data : BitVec 32) : Link :=
  { k with reqs := k.reqs ++ [⟨write, 0, addr, data, false⟩] }

/-- HE_STATUS is asked for, unless it is being asked for already (R187, R245). -/
def Link.askRest (k : Link) : Link :=
  if k.reqs.any fun r => !r.write && !r.sent && r.addr == heStatusAddr then k else k.ask false heStatusAddr 0

/-! ### Coefficient banks (R242, R243) -/

/-- A whole set written into the inactive bank, and a swap requested; a swap that was pending is cancelled by the write
(R242). -/
def BankedLoop.load (b : BankedLoop) (set : List Byte) : BankedLoop :=
  { b with banks := vmod b.banks (1 - b.active) (fun _ => set), swap := true }

/-- A pending swap takes effect; histories, integrator and table carry over (R242). -/
def BankedLoop.takeSwap (b : BankedLoop) : BankedLoop :=
  if b.swap then { b with active := 1 - b.active, swap := false } else b

/-- The set in force. -/
def BankedLoop.set (b : BankedLoop) : List Byte := b.banks[b.active]

/-- The set that the loop uses once a pending swap has acted. -/
def BankedLoop.coming (b : BankedLoop) : List Byte := if b.swap then b.banks[1 - b.active] else b.set

/-- A set loaded unless the loop has it, or is to take it at the pending swap, already (R243). -/
def BankedLoop.loadNew (b : BankedLoop) (set : List Byte) : BankedLoop := if b.coming = set then b else b.load set

/-- The reference reaches or passes a ladder speed: the lateral set of that step is loaded, and the skew set if it
differs (R243). -/
def Servo.loadStep (v : Servo) (g : Image) (st : Stn) (i : Nat) : Servo :=
  { v with step := i, lateral := v.lateral.loadNew (g.latSet st.val i), skewL := v.skewL.loadNew (g.skewSet st.val i) }

/-! ### Ramps (R236, R243, R247) -/

/-- A ramp of the speed reference begins from the measured speed (R236); the loop is no longer taken as settled. A station whose reel
loop is open does not ramp (Table 7.13). -/
def Servo.rampTo (v : Servo) (why : RampFor) (mm : Nat) : Servo :=
  if v.motion = .open_ ∨ v.motion = .hold then v else
  { v with ramp := some (why, mm), vRef := v.vHat, motion := .moving, settled := false, calm := 0 }

/-- A ramp of a station's speed reference. -/
def State.rampTo (s : State) (st : Stn) (why : RampFor) (mm : Nat) : State :=
  s.modStn st fun t => t.modServo fun v => v.rampTo why mm

/-- The LPOS of a place on a wrap, `cells` from the start of its usable range (R41, R76). -/
def placeLpos (geo : List Byte) (wrap cells : Nat) : Nat :=
  let n := cells / max (geoFrame geo * 160) 1
  if wrap % 2 = 0 then geoFirst geo + n else geoLast geo - n

/-- The LPOS that lies `n` frames before another one in a direction of travel. -/
def lposBefore (rev : Bool) (lpos n : Nat) : Nat := if rev then lpos + n else lpos - n

/-- Whether a run back has passed the LPOS it was to pass. -/
def RunBack.passed (b : RunBack) (lpos : Nat) : Bool := if b.rev then b.lpos ≤ lpos else lpos ≤ b.lpos

/-- The tape runs back past an LPOS; then a ramp follows in the direction `rev` (R137, R209). -/
def State.runBack (s : State) (st : Stn) (b : RunBack) : State :=
  (s.modStn st fun t => t.modServo fun v => { v with reverse := !b.rev, back := some b }).rampTo st .backhitch b.mm

/-- Whether a station is stopping. -/
def Servo.stops (v : Servo) : Bool := v.ramp.any fun r => r.1 == .stop || r.1 == .fallback

/-- The open gathering closes for a speed step, a stop or a turn, as soon as it may (R61). -/
def State.closeOpen (s : State) (st : Stn) : State :=
  if (s.stns[st]).write.openSegs.isEmpty then s
  else if s.mayClose st then s.closeGath st false false
  else s.modStn st fun t => t.modWrite fun w => { w with closeDue := true }

/-- The write feed finishes the position in progress and then sends run-out fill (R116); what is laid out beyond it, or for a start of
a wrap that does not come, is placed again later (R471), and the open gathering closes (R61). -/
def State.runOut (s : State) (st : Stn) : State :=
  let t := s.stns[st]
  if t.write.feed = .writing then
    let begun := t.link.leadCells > 0
    ((s.unplace st (t.write.inProgress begun) begun).modStn st fun t => t.modWrite fun w => { w with feed := .runOut }).closeOpen st
  else if t.write.feed = .resume then (s.unplace st 0 false).modStn st fun t => t.modWrite fun w => { w with feed := .off }
  else s

/-- A controlled stop: run-out fill where the station writes, and a ramp to rest at A_MAX, with tension held (R116,
R247). A ramp to rest in progress is not begun again. -/
def State.controlledStop (s : State) (st : Stn) : State :=
  let t := s.stns[st]
  if t.servo.motion ≠ .moving ∨ t.servo.stops then s
  else ((s.runOut st).rampTo st .stop 0).modStn st fun t => { t with
    servo := { t.servo with back := none }, speed := { t.speed with stopping := true, stepping := none } }

/-- Hold: MEN_N_s and WGATE_N_s go high, the loops open, and the positions of a gathering in progress are void (Table
7.13, R187, R474). -/
def State.hold_ (s : State) (st : Stn) : State :=
  let t := s.stns[st]
  let s1 := if t.write.feed = .off then s else s.voidWriting st
  s1.modStn st fun t => { t with
    wgate := true, men := true
    servo := { t.servo with motion := if t.servo.motion = .open_ && !t.servo.closing then .open_ else .hold, ramp := none, closing := false, inhibit := false, settled := false, within := 0, calm := 0, aRef := 0, back := none }
    speed := { t.speed with stopped := true, stopping := false, stepping := none }
    link := { t.link.endRun with atRest := false }.askRest }

/-- A channel with its integrator and section histories cleared (R246). -/
def Channel.cleared (c : Channel) : Channel := { c with secs := Vector.replicate 8 ⟨0, 0, 0, 0⟩, integ := 0 }

/-- Closing the loops of an open station: both reel channels are cleared, MEN_N_s goes low, the tension reference ramps from the first
tension measured, and the count of reel periods starts; no servo sample is left of before (R222, R231, R246). -/
def State.closeLoops (s : State) (st : Stn) : State :=
  s.modStn st fun t => { t with
    men := false
    servo := { t.servo with
      speedCh := t.servo.speedCh.cleared, tensCh := t.servo.tensCh.cleared, vRef := 0, aRef := 0,
      tRef := t.servo.tHat, tenFresh := true, perCnt := 0, ends := [], crossings := [], badSlots := [], ramp := some (.tension, 0), closing := true } }

/-- The loops open: MEN_N_s goes high and the station is Open, but for one in Hold, which is Open once its head-end is at rest (Table
7.13). -/
def State.openLoops (s : State) (st : Stn) : State :=
  s.modStn st fun t => { t with
    men := true, wgate := true
    servo := { t.servo with motion := if t.servo.motion = .hold then .hold else .open_, ramp := none, closing := false, settled := false, within := 0, calm := 0, vRef := 0, aRef := 0, back := none } }

/-! ### Commands of a station -/

/-- Whether an outstanding command names a station or uses it: MIGRATE uses its destination too. -/
def Cmd.names (c : Cmd) (st : Stn) : Bool :=
  c.entry.stn.toNat == st.val || (c.entry.opc == 7 && c.entry.cd 0 1 == st.val)

/-- The outstanding commands that name a station. -/
def State.cmdsOf (s : State) (st : Stn) : List CmdRef := (s.allCmds.filter fun c => c.2.names st).map (·.1)

/-- A job that stops keeps what it has read of its source (R281) (DESIGN CHOICE, log 84). -/
def MigJob.park (j : MigJob) (s : State) : MigJob :=
  if j.stopped then j else { j with stopped := true, cmd := none, seen := if j.phase ≤ 3 then (s.stns[j.src]).readSide.gaths else j.seen }

/-- The MIGRATE jobs of a station stop, and can be resumed while both volumes stay mounted; their command, if it still
waits, is among the station's commands (R281, Table 8.9). -/
def State.stopMigs (s : State) (st : Stn) : State :=
  { s with migs := s.migs.map fun (j : MigJob) => if j.src == st || j.dst == st then j.park s else j }

/-- Reading is over; what it read is forgotten but for the colophon. -/
def Recall.done (k : Recall) : Recall := { Recall.reset with wrap := k.wrap, colophon := k.colophon }

/-- The work that outstanding commands of a station have under way there is forgotten: FLUSH work runs on without its
command, and reading ends. -/
def State.dropWork (s : State) (st : Stn) : State :=
  (s.stopMigs st).modStn st fun t => { t with
    mountCmd := none
    write := { t.write with flushes := t.write.flushes.map fun j => { j with why := .none } }
    readSide := t.readSide.done
    speed := { t.speed with wantSeek := false }
    ctx := t.ctx.map fun v => { v with sealCmd := none, initCmd := none } }

/-- Every outstanding command of a station completes with 0x0C. Its APPENDs do not hold back on the station's motion, but
are in progress on it, and complete alike (R187, Table 1.9). -/
def State.failStation (s : State) (st : Stn) : State :=
  (s.finishAll (s.cmdsOf st) (.st 0xC)).dropWork st

/-! ### Link loss and station fault (R187, R193, R385) -/

/-- The effects of a link loss but for its event: the hardwired outputs go high together, the station stops, and its
commands complete with 0x0C (R187). -/
def State.loseLink (s : State) (st : Stn) : State :=
  ((s.modStn st fun t => t.modLink fun k => { k with lost := true, grid := none, marks := [], reqs := [] }).hold_ st).failStation st

/-- A station enters the fault state and stays stopped (R193, R385, Table 7.13). -/
def State.faultStation (s : State) (st : Stn) (f : StnFault) : State :=
  let s1 := s.hold_ st
  (s1.modStn st fun t => t.addFault f).failStation st

/-- A die enters the fault state: its stations make a controlled stop and hold tension, its port completes its outstanding
commands with 0x0C, and its fault event is raised (Table 1.9, R38). Numbers that are neither recorded nor being recorded burn (R39)
(DEDUCED, log 76). -/
def State.faultDie (s : State) (d : DieId) : State :=
  let sts := allStns.filter fun t => dieOf t == d
  let s0 := s.modDie d fun x => { x with fault := true }
  let s1 := sts.foldl (fun a t =>
    (((a.controlledStop t).failStation t).burnUnwritten t).modStn t fun x => x.addFault .die) s0
  let mine := (s1.allCmds.filter fun c => c.1.port == d).map (·.1)
  (s1.finishAll mine (.st 0xC)).raise (198 + 16 * d.val)

/-! ### Speed matching (R132 to R136) -/

/-- Compressed bytes per second that entered assembly over the last 100 ms (R132): F. -/
def feedRate (x : Speed) (now : Nat) : Nat :=
  10 * (x.fed.filter fun e => e.1 + 80000000 > now).foldl (fun a e => a + e.2) 0

/-- The ratio c brought up to date from the intake of the last second; it keeps its value where there was none (R134). -/
def Speed.ratio (x : Speed) (now : Nat) : Speed :=
  let l := x.taken.filter fun e => e.1 + 800000000 > now
  let u := l.foldl (fun a e => a + e.2.1) 0
  let c := l.foldl (fun a e => a + e.2.2) 0
  { x with taken := l, fed := x.fed.filter (fun e => e.1 + 80000000 > now),
           ratioN := if u = 0 then x.ratioN else c, ratioD := if u = 0 then x.ratioD else u }

/-- The highest step from 32 down that satisfies a condition. -/
def topStep (f : Nat → Bool) : Nat → Option Nat
  | 0 => if f 0 then some 0 else none
  | n + 1 => if f (n + 1) then some (n + 1) else topStep f n

/-- The declared floor (R134). Where no step has a rate that low the spec names no floor; step 0 is taken (DESIGN CHOICE, log 141). -/
def Speed.declared (x : Speed) : Nat :=
  if x.rate = 0 then 0
  else (topStep (fun i => stepRate i * x.ratioD ≤ x.rate * 1000000 * x.ratioN) 32).getD 0

/-- The ceiling of R133: descriptor, thermal cap and motor-bus cap. -/
def State.ceiling (s : State) (st : Stn) : Nat :=
  let t := s.stns[st]
  let hi := match t.ctx with | some v => geoHigh v.geo | none => 32
  min hi (min (s.thermal.cap.getD 32) (t.speed.busCap.getD 32))

/-- The floor of R133. -/
def State.floor (s : State) (st : Stn) : Nat :=
  let t := s.stns[st]
  let lo := match t.ctx with | some v => geoLow v.geo | none => 0
  max lo t.speed.declared

/-- A step held between floor and ceiling; the ceiling prevails (DESIGN CHOICE, log 28). -/
def State.clampStep (s : State) (st : Stn) (i : Nat) : Nat := min (max i (s.floor st)) (s.ceiling st)

/-- Whether a FLUSH or SEAL waits on unrecorded data of a station, or label gatherings wait to be recorded (R133). -/
def Station.flushWaits (t : Station) : Bool :=
  !t.write.flushes.isEmpty || t.ctx.any fun v => (v.closing != .none && v.closing != .done) || v.initCmd.isSome

/-- Whether nothing forbids a station to move (R187, R193, R250, R400, R409, R411, Table 1.9). -/
def State.mayMove (s : State) (st : Stn) : Bool :=
  let t := s.stns[st]
  !t.inFault && !t.inReset && !s.linkLost st && !(s.dies[dieOf st]).fault && !t.stabled && !s.thermal.stop && !t.speed.busHeld
    && !t.speed.busStop && !s.supply.dip && s.ready && !(s.ucieDown && st.val ≥ 4)

/-- Whether a station may start to move for writing: a volume mounted for writing, no closure finished, nothing that
forbids motion (R133). -/
def State.mayStart (s : State) (st : Stn) : Bool :=
  let t := s.stns[st]
  t.ctx.any (fun v => !v.lost && v.closing != .done && !v.closureBad) && t.mount.any (fun m => m.mode != .read)
    && s.mayMove st && !t.readSide.active && !t.speed.wantSeek && (s.power.state == 0 || s.power.target.isSome)

/-- Whether the parity gatherings of an ended group are still to be placed or sent: speed matching steps and stops
nothing then, but a step that a cap asks for is not of its choosing (R135, R472). -/
def Station.parityRuns (t : Station) : Bool :=
  t.ctx.any (fun v => v.grpEnd && !v.parDue.isEmpty)
    || t.write.gaths.any (fun g => g.kind == .parity && !g.recorded)

/-- Whether the head stands inside the usable range of a wrap, or beyond it in the direction in which the wrap is recorded. -/
def Station.inRange (t : Station) (geo : List Byte) (rev : Bool) : Bool :=
  t.servo.lposOk && (if rev then decide (t.servo.lpos ≤ geoLast geo) else decide (geoFirst geo ≤ t.servo.lpos))

/-- A start from rest: the write feed waits for the start of the wrap, or for a backhitch, in which the tape runs back past the
resume point by a run-up of free length; a tape that stands inside the range of a wrap that begins runs out of it first (R117, R137,
R473; log 127). -/
def State.startAt (s : State) (st : Stn) (i : Nat) : State :=
  let w := (s.stns[st]).write
  let rev := w.wrap % 2 == 1
  let d := s.draw
  let geo := match (s.stns[st]).ctx with | some v => v.geo | none => []
  let s1 := if w.cellPos = 0 ∧ !(s.stns[st]).inRange geo rev then (s.modStn st fun t => t.modServo fun v => { v with reverse := rev }).rampTo st .start (ladder i)
    else d.2.runBack st ⟨lposBefore rev (placeLpos geo w.wrap w.cellPos) (1 + d.1 % 100000), rev, .start, ladder i⟩
  s1.modStn st fun t => { t with
    servo := { t.servo with setStep := i }
    write := { t.write with feed := .resume }
    speed := { t.speed with stepping := none } }

/-- A step to another ladder speed (Table 4.7). -/
def State.stepTo (s : State) (st : Stn) (i : Nat) : State :=
  ((s.runOut st).rampTo st .step (ladder i)).modStn st fun t => { t with
    servo := { t.servo with setStep := i }, speed := { t.speed with stepping := some i } }

/-- A ceiling has fallen: a station above it steps down at once; one that runs up to write does so to the ceiling, and one whose step or
ramp is under way steps down when that is over; a reading station follows with its reference alone (R135, Table 7.12). -/
def State.capDown (s : State) (st : Stn) : State :=
  let t := s.stns[st]
  let hi := s.ceiling st
  if t.servo.setStep ≤ hi ∨ t.servo.motion ≠ .moving then s
  else if t.write.feed = .resume then
    (if t.servo.back.isSome ∨ t.servo.stops then s
     else (s.rampTo st .start (ladder hi)).modStn st fun t => t.modServo fun v => { v with setStep := hi })
  else if t.servo.ramp.isSome ∨ t.speed.stepping.isSome then s
  else if t.write.feed = .writing then (if s.ready then s.stepTo st hi else s)
  else if t.readSide.active then (s.rampTo st .step (ladder hi)).modStn st fun t => t.modServo fun v => { v with setStep := hi }
  else s

/-- The decision of R133, every 10 ms. A station whose loops are open closes them before it starts (R246); one that stopped
for want of a released gathering waits for one (R475). -/
def State.speedDecide (s : State) (st : Stn) : State :=
  let s := s.modStn st fun t => t.modSpeed fun x => x.ratio s.clock
  let t := s.stns[st]
  let o := s.occupancy st
  let g := s.img
  let lo := s.floor st
  let hi := s.ceiling st
  let cur := t.servo.setStep
  if t.speed.stopped then
    if s.mayStart st && (o ≥ g.restart || t.flushWaits || t.resumes)
        && (t.write.empties < 256 || t.write.gaths.any fun x => x.released && !x.recorded) then
      match t.servo.motion with
      | .open_ => if t.servo.closing then s else s.closeLoops st
      | .tensioned => s.startAt st (s.clampStep st ((topStep (fun i => stepRate i ≤ feedRate t.speed s.clock) 32).getD 0))
      | _ => s
    else s
  else if t.speed.wantSeek && t.write.feed == .writing && t.ctx.any (fun v => v.inGroup == 0 && !v.grpEnd) && !t.parityRuns
      && t.servo.ramp.isNone && t.write.unplaced == 0 then s.controlledStop st
  else if !s.ready || t.write.feed != .writing || t.servo.ramp.isSome || t.speed.stepping.isSome || t.parityRuns then s
  else if cur > hi then s.stepTo st hi
  else if o ≤ g.stop then s.controlledStop st
  else if o ≤ g.low && cur > lo then s.stepTo st (cur - 1)
  else if o ≥ g.high && cur < hi && s.clock ≥ t.speed.lastStep + g.dwell then s.stepTo st (cur + 1)
  else s

end Sys2Proof.Machine
end

