-- ==== Sys2Proof/Machine/VerifyOps.lean ====
section
/-!
DEFINITION. Verify and what follows from it (04): grades, the rewrite queue and the bands, dead tracks, acceptance, the
write fault and its closure, sealing, and when a FLUSH is done.
-/
namespace Sys2Proof.Machine

/-- Whether a track is dead. -/
def Write.isDead (w : Write) (t : Track) : Bool := w.dead.getLsbD t.val

/-- Dead tracks of the wrap, in rising order. -/
def Write.deadTracks (w : Write) : List Nat := (List.range 128).filter fun i => w.dead.getLsbD i

/-! ### The rewrite queue and the bands (R121 to R124) -/

/-- Whether a rewrite entry goes before another (R122). -/
def RwEntry.before (a b : RwEntry) : Bool :=
  if a.hard != b.hard then a.hard
  else if a.reach != b.reach then a.reach < b.reach
  else if a.gnum != b.gnum then a.gnum < b.gnum
  else a.row ≤ b.row

/-- The slot of a copy: the first from track (t + 64) mod 128 upward that is unused, not on a dead track and not where an
earlier copy of the row failed (R123). -/
def slotFor (w : Write) (slots : List SlotFill) (e : RwEntry) : Option Nat :=
  ((List.range 128).map fun i => (e.track.val + 64 + i) % 128).find? fun k =>
    slots.getD k .filler == .filler && !w.dead.getLsbD k && !(e.tried.any fun t => t.val == k)

/-- The copy that an entry asks for: its row, with the KIND of its gathering (R63). -/
def Write.copyOf (w : Write) (e : RwEntry) : SlotFill :=
  .copy e.gnum (match w.gaths.find? fun g => g.gnum == e.gnum with | some g => g.kind | none => .data) e.row

/-- The slots of band `n` filled from the queue in the order of R122. -/
def fillBand (w : Write) (n : Nat) : List SlotFill :=
  let due := sortBy RwEntry.before (w.rwq.filter fun e => !e.inBand && n < e.reach)
  due.foldl (fun s e => match slotFor w s e with
    | some k => modAt s k fun _ => w.copyOf e
    | none => s) (List.replicate 128 .filler)

/-- BAND_FREEZE: the next band not yet frozen takes its contents (R122). -/
def Write.freeze (w : Write) : Write :=
  match w.toSend.find? fun p => match p.kind with | .band _ => p.slots.isEmpty | _ => false with
  | none => w
  | some p =>
    let slots := fillBand w p.bandNo
    { w with
      toSend := w.toSend.map fun q => if q.seq = p.seq then { q with slots := slots } else q
      rwq := w.rwq.map fun e => if !e.inBand && slots.any e.fills then { e with inBand := true } else e }

/-- An unrewritten row counted against its gathering, unless its track counts in d (R124, R127). -/
def Write.unrewritten (w : Write) (e : RwEntry) : Write :=
  { w with gaths := w.gaths.map fun g =>
      if g.gnum = e.gnum && !g.dead.contains e.track.val then
        (if e.row % 2 = 0 then { g with unre0 := g.unre0 + 1 } else { g with unre1 := g.unre1 + 1 })
      else g }

/-- Entries whose reach has ended leave the queue, unless a copy still awaits its verdict; Failed and Missing rows among
them are unrewritten (R124). -/
def Write.expire (w : Write) : Write :=
  let gone := w.rwq.filter fun e => !e.inBand && e.reach ≤ w.bands
  (gone.filter (·.hard)).foldl Write.unrewritten { w with rwq := w.rwq.filter fun e => e.inBand || w.bands < e.reach }

/-- A row is queued for rewrite, unless it already is. -/
def Write.queueRow (w : Write) (gnum row : Nat) (track : Track) (hard : Bool) (reach : Nat) : Write :=
  if w.rwq.any fun e => e.gnum == gnum && e.row == row then
    { w with rwq := w.rwq.map fun e => if e.gnum = gnum && e.row = row then { e with hard := e.hard || hard } else e }
  else { w with rwq := w.rwq ++ [⟨gnum, row, track, hard, reach, [], false⟩] }

/-- The verdict of a copy on a track: a pass settles the row; a failure puts it back with the reach it had, and that track
is not used for it again (R121, R123). -/
def Write.verdict (w : Write) (gnum row : Nat) (track : Track) (g : Grade) : Write :=
  if g.hard then
    { w with rwq := w.rwq.map fun (e : RwEntry) =>
        if e.gnum = gnum && e.row = row then { e with inBand := false, tried := track :: e.tried } else e }.expire
  else { w with rwq := w.rwq.filter fun e => !(e.gnum == gnum && e.row == row) }

/-- What a grade does to the queue: an original enters it, a copy gets its verdict; a row on a dead track is never queued
(R120, R121, R126). -/
def Write.queueGrade (w : Write) (p : TxPos) (track : Track) (g : Grade) : Write :=
  match p.kind with
  | .gathering n _ i =>
    if g = .good ∨ w.isDead track then w else w.queueRow n (rowOn n i track.val) track g.hard (p.bandNo + 4)
  | .band _ =>
    match p.slots.getD track.val .filler with
    | .copy n _ r => w.verdict n r track g
    | .filler => w
  | _ => w

/-! ### Grading (R119, R125, R126) -/

/-- Whether a position's rows count in a rewrite interval: gatherings and tail slots, and the band that ends it. -/
def PosKind.counts : PosKind → Bool
  | .splice => false
  | _ => true

/-- Whether a position is a rewrite band. -/
def PosKind.isBand : PosKind → Bool
  | .band _ => true
  | _ => false

/-- A track becomes dead: gatherings being recorded at that moment count it (R125, R127). -/
def Write.kill (w : Write) (t : Track) : Write :=
  let rec_ := fun (g : Gath) => g.placed && !g.recorded
    && (w.sent.any fun p => match p.kind with | .gathering n _ _ => n == g.gnum | _ => false)
  { w with dead := w.dead ||| BitVec.twoPow 128 t.val,
           gaths := w.gaths.map fun g => if rec_ g && !g.dead.contains t.val then { g with dead := t.val :: g.dead } else g }

/-- The weights of a rewrite interval on a track. -/
def weightOf (l : List (Nat × Nat)) (band : Nat) : Nat := (l.find? fun x => x.1 == band).elim 0 (·.2)

/-- Whether every row of a rewrite interval on a track has its grade: the band that ends it has been sent, and no position of the
interval waits for the track's grade (R125). -/
def Write.allGraded (w : Write) (band : Nat) (track : Track) : Bool :=
  decide (band < w.bands) && w.sent.all fun p => p.bandNo != band || !p.kind.counts || p.graded.any fun x => x.1 == track

/-- A row of a sent position receives its grade; where that is the last of its rewrite interval on the track, the weights are summed
(R125). Rows of an earlier wrap count no more. Answers whether the track has just died. -/
def Write.gradeRow (w : Write) (p : TxPos) (track : Track) (g : Grade) : Write × Bool :=
  let b := p.bandNo
  let w1 := { w with
    sent := w.sent.map fun (q : TxPos) => if q.seq = p.seq then { q with graded := q.graded ++ [(track, g)] } else q }
  if !p.kind.counts || decide (b + w.bandsOn < w.bandsPut) then (w1.queueGrade p track g, false)
  else
    let sum := weightOf w.sums[track] b + g.weight
    let full := w1.allGraded b track
    let dies := full && decide (sum > 64) && !w.isDead track
    let w2 := { w1 with sums := vmod w.sums track fun l => (l.filter fun (x : Nat × Nat) => x.1 != b) ++ if full then [] else [(b, sum)] }.queueGrade p track g
    (if dies then w2.kill track else w2, dies)

/-- Sent positions that nothing waits for any more leave: all rows graded, and not of a gathering still undecided. -/
def Write.dropGraded (w : Write) : Write :=
  { w with sent := w.sent.filter fun p =>
      p.graded.length < 128 || (match p.kind with
        | .gathering n _ _ => w.gaths.any fun g => g.gnum == n
        | _ => false) }

/-! ### Acceptance (R127, R129) -/

/-- Whether the acceptance of a gathering is decided now: recorded, its last row out of reach, and every verdict in that it
needs; a track that counts in d needs none (R127). -/
def Write.decidable (w : Write) (g : Gath) : Bool :=
  g.recorded && g.reachEnd ≤ w.bands
    && (w.sent.all fun p => match p.kind with
      | .gathering n _ _ => n != g.gnum || (List.range 128).all fun t => g.dead.contains t || p.graded.any fun x => x.1.val == t
      | _ => true)
    && !(w.rwq.any fun e => e.gnum == g.gnum && e.inBand && !g.dead.contains e.track.val)

/-- Whether a gathering passes: 4d + u_p at most 16 for each parity, or 32 for a closure gathering (R127, R129). -/
def Gath.passes (g : Gath) : Bool :=
  let lim := if g.closure then 32 else 16
  4 * g.dead.length + g.unre0 ≤ lim && 4 * g.dead.length + g.unre1 ≤ lim

/-- Interleave groups of the unbroken run of good groups from the first on (R128) (DEDUCED, log 77). -/
def goodRun (v : VolCtx) (w : Write) : Nat :=
  (w.gaths.filter fun g => !g.kind.label && !g.closure).foldl (fun a g => min a g.group) v.group

/-- Whether every segment of a record lies in the run of good groups, and none in the open gathering (R128, R139). -/
def Rec.inGood (r : Rec) (w : Write) (good : Nat) : Bool := r.grps.all (· < good) && !w.openSegs.any fun g => g.lon == r.lon

/-- Records that have become durable. -/
def markDurable (v : VolCtx) (w : Write) : VolCtx :=
  let good := goodRun v w
  { v with recs := v.recs.map fun r => if r.isComplete && r.inGood w good then { r with durable := true } else r }

/-! ### What a FLUSH reports (R139, R141, Table 4.8) -/

/-- LONs of a FLUSH's cover that have been lost (DEDUCED, log 112). -/
def lostIn (v : VolCtx) (cover : List (Nat × Nat)) : List Nat :=
  (v.recs.filter fun r => cover.any (fun c => c.1 == r.lon)
    && (r.abandon == some .lost || r.abandon == some .fault || (r.abandon == some .queueGone && r.reported))).map (·.lon)

/-- A command ends with the LONs it logs as lost: 0x10 with one log entry for each, or 0x00 where there is none. -/
def State.finishLosses (s : State) (r : CmdRef) (lost : List Nat) (result : Nat) : State :=
  match s.cmd? r with
  | none => s
  | some c =>
    match lost.getLast? with
    | none => s.finish r (.ok result)
    | some n =>
      let s1 := lost.dropLast.foldl (fun a m => a.logErr r.port (cmdErr s.micros r.qid c.entry { status := 0x10, lon := m })) s
      s1.finish r { status := 0x10, result := result, lon := n }

/-- A command that waited on a volume that a write fault has sealed ends with 0x10 (Table 4.5, step 5). -/
def State.finishSealed (s : State) (r : CmdRef) (lost : List Nat) (result : Nat) : State :=
  if lost.isEmpty then s.finish r { status := 0x10, result := result } else s.finishLosses r lost result

/-! ### Leaving a station (R335) -/

/-- Buffers that the write pipeline of a station needs no more return to a pool, and waiters are served (R104, R159, R313). -/
def State.freePool (s : State) (st : Stn) (p : Fin 5) : State :=
  let d := dieOf st
  (((s.dies[d]).pools[p]).bufs.filter fun b => b.allocated && b.holds.stn == some st && (s.stns[st]).spent (mkHandle p.val b.index b.gen) b).foldl
    (fun a b => a.returnBuf d p b.index) s

/-- Every buffer that the write pipeline of a station needs no more returns (R104). -/
def State.freeSpent (s : State) (st : Stn) : State :=
  (([0, 1, 2, 3, 4] : List (Fin 5)).foldl (fun a p => a.freePool st p) s).grantsGo

/-- An UNMOUNT or a failed MOUNT has opened the loops: the volume, its key and the buffers of its write pipeline leave the station. -/
def State.dismount (s : State) (st : Stn) : State :=
  let s1 := s.modStn st fun t => { t with
    mount := none, ctx := none, mountCmd := none, write := Write.reset, readSide := Recall.reset
    speed := { Speed.reset with vbus := t.speed.vbus, dipMin := t.speed.dipMin, inDip := t.speed.inDip, busCap := t.speed.busCap, busStop := t.speed.busStop, busHeld := t.speed.busHeld } }
  { s1 with migs := s1.migs.filter (fun j => !(j.src == st || j.dst == st)), vault := { s1.vault with slots := vmod s1.vault.slots st fun _ => none } }.freeSpent st

/-- The tape of a station that is to be opened: a moving one is stopped first, and one in Hold waits for its head-end's rest (Table 7.13); at rest the loops open, the cartridge is
unthreaded where UNLOAD asks for it, and the command that waits completes with its status so far. -/
def State.openStation (s : State) (st : Stn) : State :=
  let t := s.stns[st]
  if t.servo.motion = .moving then s.controlledStop st
  else if t.servo.motion = .hold then s
  else
    match t.mountCmd with
    | none => s.openLoops st
    | some r =>
      match s.cmd? r with
      | none => (s.openLoops st).dismount st
      | some c =>
        let unload := c.entry.opc == 0x86 && c.entry.flag 0
        let s1 := ((s.openLoops st).modStn st fun t => t.modServo fun v =>
          if unload then { v with threaded := false, aux := v.aux.loadNew (s.img.auxSet st.val 1) } else v).dismount st
        s1.finish r { status := c.status.toNat, result := 0, lon := c.lon }

/-! ### Through-working jobs that end (R280) -/

/-- The result buffer of a MIGRATE: failing LON, resume point, check number. A stop that concerns no LON reports 0 (DESIGN CHOICE, log
153). -/
def MigJob.report (j : MigJob) : List Byte := leBytes 8 (j.failLon.getD 0) ++ leBytes 8 j.resume ++ leBytes 1 j.check ++ zeros 47

/-- How a MIGRATE ends: its log entry has the check number and the first gathering concerned, or else the resume point, and beside it
the last one, or the outcome of the failing record's SHA-384; and that record's stored hash (R166, R267, R280, R333; DESIGN CHOICE,
log 128). -/
def MigJob.verdict (j : MigJob) (nrec : Nat) : Ending :=
  { status := j.status.toNat, result := if j.status = 0 then nrec else j.failLon.getD 0, reason := j.check, lon := j.failLon.getD 0
    aux0 := if j.around.2 = 0 then j.resume else j.around.1, aux1 := if j.outcome = 0 then j.around.2 else j.outcome, aux2 := j.hash.take 16 }

/-- A job is over: its MIGRATE completes. -/
def State.endMig (s : State) (j : MigJob) (nrec : Nat) : State :=
  let s1 := { s with migs := s.migs.filterMap fun (x : MigJob) =>
    if x.src != j.src || x.dst != j.dst then some x else if j.status = 0 then none else some { j.park s with status := j.status } }
  match j.cmd with
  | none => s1
  | some r =>
    s1.finishWith r (j.verdict nrec) j.report

/-! ### Flush work (R138, R139, R344) -/

/-- Whether the work of a FLUSH is done: its gathering closed, and accepted every gathering that holds a segment of a covered record,
and every parity gathering of their groups (R139). After a write fault it ends with the closure (Table 4.5, step 5). -/
def flushReady (v : VolCtx) (w : Write) (j : FlushJob) : Bool :=
  let covers := fun (lon : Nat) => j.cover.any fun c => c.1 == lon
  let grps := (v.recs.filter fun r => covers r.lon).flatMap (·.grps)
  !v.faulted && j.closed && grps.all (· < v.group)
    && !(w.gaths.any fun g => (g.kind == .parity && grps.contains g.group) || g.segs.any fun x => covers x.lon)

/-- CLEN of a colophon. -/
def colClen (c : List Byte) : Nat := beAt c 0x104 4
/-- Ranges at an offset. -/
def rangesAt (c : List Byte) (ofs n : Nat) : List (Nat × Nat) := (List.range n).map fun i => (beAt c (ofs + 16 * i) 8, beAt c (ofs + 16 * i + 8) 8)
/-- GGAPS of a colophon. -/
def colGgaps (c : List Byte) : List (Nat × Nat) := rangesAt c 0x110 (beAt c 0xB8 4)
/-- LGAPS of a colophon. -/
def colLgaps (c : List Byte) : List (Nat × Nat) := rangesAt c (0x110 + 16 * beAt c 0xB8 4) (beAt c 0xBC 4)
/-- Ranges that contain a number. -/
def inRanges (l : List (Nat × Nat)) (n : Nat) : Bool := l.any fun r => r.1 ≤ n && n ≤ r.2

/-- NREC as far as it is known: the counter of a volume whose record table is here, else what its colophon says. -/
def Station.nrec (t : Station) : Option Nat :=
  match t.mount, t.ctx with
  | some m, some v => if m.mode = .append then some v.lon else if t.readSide.colophon.isEmpty then none else some (beAt t.readSide.colophon 0x78 8)
  | _, _ => none

/-- The LONs that a reader reads: first and number; a VERIFY with ALL reads the whole volume. -/
def Cmd.range (k : Cmd) (t : Station) : Nat × Nat :=
  if k.entry.opc = 6 then (if k.entry.flag 0 then (0, t.nrec.getD 0) else (k.entry.cd 0 8, k.entry.cd 8 8)) else (k.entry.cd 0 8, 1)

/-- The tape of a station is wanted by a reader: an open station closes its loops; one at rest turns to the reader, and a moving
one when it comes to rest (R346, `State.serveSeek`). -/
def State.wantTape (s : State) (st : Stn) : State :=
  let s1 := s.modStn st fun t => t.modSpeed fun x => { x with wantSeek := true }
  let t := s1.stns[st]
  if t.servo.motion = .open_ ∧ t.servo.threaded ∧ !t.servo.closing then s1.closeLoops st else s1

/-- The first LON of a VERIFY. -/
def Cmd.first (k : Cmd) : Nat := if k.entry.flag 0 then 0 else k.entry.cd 0 8

/-- A 64-byte VERIFY entry (Table 10.6). -/
def verifyEntry (lon status reason : Nat) (hash : List Byte) : List Byte :=
  leBytes 8 lon ++ leBytes 1 status ++ leBytes 1 reason ++ zeros 6 ++ padTo 48 hash

/-- How a VERIFY whose records have all been checked ends: as its first failing record in LON order, with what is told of that one, its
log reason, the outcome of its SHA-384 and the stored one (R166, R267, R332, R333). -/
def Cmd.verdict (k : Cmd) : Ending :=
  { status := k.status.toNat, result := k.okCnt, lon := k.lon, reason := k.reason, aux0 := k.aux.1, aux1 := k.aux.2, aux2 := k.hash.take 16 }

/-- A VERIFY of a range is over once every record of it is checked; one of the whole volume ends with the recording (R332). -/
def State.verifyOver (s : State) (r : CmdRef) : State :=
  match s.cmd? r with
  | none => s
  | some k =>
    let fit := min k.count (k.entry.dlen.toNat / 64)
    if k.got < k.count ∨ k.entry.flag 0 then s
    else s.finishWith r k.verdict (leBytes 8 k.count ++ leBytes 8 fit)

/-- One record of a VERIFY has been checked: its entry is written where the buffer has room for it, and a failing record past
the end of the buffer is logged (R332). The status is that of the first failing record in LON order. -/
def State.verifyRec (s : State) (r : CmdRef) (lon : Nat) (f : Ending) (hash : List Byte) : State :=
  match s.cmd? r with
  | none => s
  | some k =>
    let ofs := 64 * (lon - k.first)
    let fits := ofs + 64 ≤ k.entry.dlen.toNat
    let s1 := if fits then s.sendData r.port k.entry k.sgl ofs (verifyEntry lon f.status f.reason hash) else s
    let s2 := if f.status ≠ 0 ∧ !fits then s1.logErr r.port (cmdErr s.micros r.qid k.entry { f with lon := lon, aux2 := hash.take 16 }) else s1
    let s3 := s2.modCmd r fun k =>
      let k1 := { k with got := k.got + 1, okCnt := if f.status = 0 then k.okCnt + 1 else k.okCnt }
      if f.status ≠ 0 ∧ (k.status = 0 ∨ lon < k.lon) then
        { k1 with status := BitVec.ofNat 8 f.status, lon := lon, reason := f.reason, aux := (f.aux0, f.aux1), hash := hash } else k1
    s3.verifyOver r

/-- Whether a record of a volume with its table here can be read back: it is complete on tape (R60). -/
def VolCtx.readable (v : VolCtx) (lon : Nat) : Bool := (v.rec? lon).any fun r => r.isComplete

/-- LONs of a VERIFY that are not complete on a volume whose table is here get their entries without the tape, in LON order. -/
def State.verifyNext (s : State) (r : CmdRef) : Nat → State
  | 0 => s
  | n + 1 => match s.cmd? r with
    | none => s
    | some k =>
      let t := s.stns[k.entry.st]
      let lon := k.first + k.got
      if k.entry.opc = 6 && t.mount.any (fun m => m.mode == .append) && k.got < k.count && t.ctx.any (fun v => !v.readable lon) then
        (s.verifyRec r lon (.st 0xA) []).verifyNext r n
      else s

/-- A reader whose records are durable goes on: records that are not complete on the volume end it with 0x0A or enter its list
(R60, R331); the rest is read from tape. -/
def State.goReader (s : State) (r : CmdRef) : State :=
  match s.cmd? r with
  | none => s
  | some k =>
    let st := k.entry.st
    let t := s.stns[st]
    let s1 := s.modCmd r fun k => { k with phase := .moving }
    match t.nrec, t.ctx with
    | some _, some v =>
      if k.entry.opc = 2 then
        if t.mount.any (fun m => m.mode == .append) && !v.readable (k.entry.cd 0 8) then s1.finish r { status := 0xA, lon := k.entry.cd 0 8 }
        else s1.wantTape st
      else if k.entry.opc = 6 ∧ t.mount.any (fun m => m.mode == .append) then
        let rg := k.range t
        let s2 := s1.modCmd r fun k => { k with count := rg.2 }
        let s3 := s2.verifyNext r rg.2
        if (s3.cmd? r).isNone then s3 else s3.wantTape st
      else (s1.modCmd r fun k => { k with count := if k.entry.opc = 6 && !k.entry.flag 0 then k.entry.cd 8 8 else 0 }).wantTape st
    | _, _ => (s1.modCmd r fun k => { k with count := if k.entry.opc = 6 && !k.entry.flag 0 then k.entry.cd 8 8 else 0 }).wantTape st

/-- A reader whose records are durable goes on; one whose record was lost ends with 0x0A (R344). -/
def State.readerGo (s : State) (r : CmdRef) (lost : List Nat) : State :=
  match s.cmd? r with
  | none => s
  | some c => if !lost.isEmpty && c.entry.opc != 6 then s.finish r { status := 0xA, lon := lost.headD 0 } else s.goReader r

/-- What follows when the work of a FLUSH is done. -/
def State.flushDone (s : State) (st : Stn) (j : FlushJob) : State :=
  match (s.stns[st]).ctx with
  | none => s
  | some v =>
    let lost := lostIn v j.cover
    match j.why with
    | .flush c => s.finishLosses c lost lost.length
    | .reader c => s.readerGo c lost
    | .unmount c =>
      (s.modCmd c fun k => { k with status := if lost.isEmpty then k.status else 0x10, lon := lost.headD 0, phase := .opening }).openStation st
    | .seal _ => s.modStn st fun t => t.modCtx fun v =>
        { v with closing := if v.closing = .flushing then .incompletes else v.closing, recs := v.recs.map fun r => if r.isOpen then r.abandonAs .sealed else r }
    | .migrate =>
      match s.migs.find? fun m => !m.stopped && m.dst == st && m.phase == 5 with
      | some m => s.endMig m v.lon
      | none => s
    | .power | .none => s

/-- FLUSH_COMPLETE for every FLUSH whose work is done (R139), in at most `n` rounds. -/
def State.flushesDone (s : State) (st : Stn) : Nat → State
  | 0 => s
  | n + 1 =>
    let t := s.stns[st]
    match t.ctx with
    | none => s
    | some v =>
      match t.write.flushes.find? (flushReady v t.write) with
      | none => s
      | some j =>
        ((s.modStn st fun t => t.modWrite fun w => { w with flushes := dropFirst (· == j) w.flushes }).flushDone st j).flushesDone st n

/-! ### Sealing and the closure after a write fault (R42, R72, R142, R476, Table 4.5) -/

/-- Whether the closing work of a volume goes on: a write fault's always does; a SEAL's while its command, or the MIGRATE
that seals its destination, waits (R187). -/
def State.closingRuns (s : State) (st : Stn) (v : VolCtx) : Bool :=
  !v.closureBad && (v.faulted || v.sealCmd.isSome || s.migs.any fun j => !j.stopped && j.dst == st && j.phase == 4)

/-- What still waits for a flush of a volume that a fault has sealed ends: with 0x10 and what was lost of its cover (R128). -/
def State.flushSealed (s : State) (st : Stn) (lost : List Nat) (j : FlushJob) : State :=
  let mine := lost.filter fun n => j.cover.any fun x => x.1 == n
  match j.why with
  | .flush c => s.finishSealed c mine lost.length
  | .reader c => s.readerGo c mine
  | .unmount c => (s.modCmd c fun k => { k with status := 0x10, lon := lost.headD 0, phase := .opening }).openStation st
  | _ => s

/-- A migration job whose destination is sealed: its status follows how (R128, R142). -/
def MigJob.sealedAs (j : MigJob) (v : VolCtx) : MigJob :=
  if v.faulted then { j with status := 0x10 } else if v.colBad then { j with status := 6 } else j

/-- The closing work is over: the volume is sealed, or sealed by fault, and everything that waited for it completes. -/
def State.closed (s : State) (st : Stn) (v : VolCtx) : State :=
  let t := s.stns[st]
  let s1 := (s.modStn st fun t => { t with
    ctx := some { v with closing := .done, state := if v.faulted then .faultSealed else .sealed, sealCmd := none }
    write := { t.write with tailLeft := none, flushes := if v.faulted then [] else t.write.flushes } })
  let lost := (v.recs.filter fun r => r.abandon == some .fault).map (·.lon)
  let s2 := if v.faulted then
      t.write.flushes.foldl (fun a j => a.flushSealed st lost j) s1
    else s1
  let s3 := match v.sealCmd with
    | some c => if v.faulted then s2.finishSealed c lost v.lon
                else s2.finish c { status := if v.colBad then 6 else 0, result := v.lon }
    | none => s2
  let s4 := (s3.migs.filter fun j => !j.stopped && j.dst == st).foldl (fun a j => a.endMig (j.sealedAs v) v.lon) s3
  s4.controlledStop st

/-- CLOSURE_FAILED: nothing further is recorded, the volume stays unsealed, and the station's outstanding commands complete
with 0x0C (R130) (DEDUCED, log 78). -/
def State.closureFailed (s : State) (st : Stn) : State :=
  let s1 := s.raise (68 + 16 * st.val)
  ((s1.modStn st fun t => t.modCtx fun v => { v with closureBad := true, closing := .none, sealCmd := none, initCmd := none }).controlledStop st).failStation st

/-- A colophon that cannot be signed, for its hedged form needs the DRBG, which has halted: the SEAL or MIGRATE completes with 0x0B
(R263), and the closure of a write fault fails (DESIGN CHOICE, log 151). -/
def State.unsigned (s : State) (st : Stn) (v : VolCtx) : State :=
  let s1 := match v.sealCmd with
    | some c => (s.finish c (.st 0xB)).modStn st fun t => t.modCtx fun v => { v with sealCmd := none }
    | none => s
  let s2 := (s1.migs.filter fun j => !j.stopped && j.dst == st && j.phase == 4).foldl (fun a j => a.endMig { j with status := 0xB } v.lon) s1
  if v.faulted then s2.closureFailed st else s2

/-- One move of the closing work, if one is due. The colophon is composed when the spine before it is placed, and again where a stop takes
that placing back (R72; DEDUCED, log 148). -/
def State.closeOnce (s : State) (st : Stn) : Option State :=
  let t := s.stns[st]
  match t.ctx with
  | none => none
  | some v =>
    let w := t.write
    let set := fun (a : State) (c : Closing) => a.modStn st fun t => t.modCtx fun v => { v with closing := c }
    let placed := w.gaths.all (·.placed) && v.labelQ.isEmpty
    let room := closeRoom v w || decide (w.wrap + 1 ≥ geoWraps v.geo)
    if !s.closingRuns st v then none
    else match v.closing with
      | .none | .flushing | .done => none
      | .incompletes =>
        if (v.recs.any (·.incWanted)) || !w.openSegs.isEmpty || v.grpEnd || v.inGroup != 0 || !placed then none
        else some (set s (if w.wrap > 0 then .spine else .endpapers))
      | .endpapers =>
        if v.copies ≥ 4 ∨ w.wrap > 0 then some (set s .spine)
        else if !room then none else some (set ((s.composeEndpaper st).composeEndpaper st) .spine)
      | .spine => if !room then none else
        some (set ((s.modStn st fun t => t.modCtx fun v => { v with spineDue := v.spineDue ++ [w.wrap] }).composeSpines st) .colophon)
      | .colophon =>
        if !placed then none
        else if s.vault.halted then some (s.unsigned st v)
        else
          let d := s.drawBytes 32
          let stream := colophonStream v (w.wrap + 1) d.1
          let s1 := d.2.modStn st fun t => t.modCtx fun v => { v with colStream := some stream, closing := .tail }
          some ((s1.compose st .colophon stream).compose st .colophon stream)
      | .tail =>
        if w.gaths.isEmpty && v.labelQ.isEmpty then some (s.closed st v)
        else if placed && w.tailLeft.isNone then some (s.modStn st fun t => t.modWrite fun w => { w with tailLeft := some 16 })
        else none

/-- Closing work until none is due, in at most `n` moves. -/
def State.closeAll (s : State) (st : Stn) : Nat → State
  | 0 => s
  | n + 1 => match s.closeOnce st with
    | some s1 => s1.closeAll st n
    | none => s

/-- What follows from any change of the write pipeline: FLUSHes that are done, closing work and assembly that are due, and the
buffers that it needs no more. A station with stabled buffers stands still (R403). -/
def State.settle (s : State) (st : Stn) : State :=
  if (s.stns[st]).stabled then s
  else (((s.flushesDone st ((s.stns[st]).write.flushes.length)).closeAll st 8).assembleAll st).freeSpent st

/-! ### The write fault (R128, R130, Table 4.5) -/

/-- WRITE_FAULT: steps 1 and 2 of Table 4.5, and the closure begins (DEDUCED, log 82). -/
def State.writeFault (s : State) (st : Stn) : State :=
  match (s.stns[st]).ctx with
  | none => s
  | some v0 =>
    if v0.faulted then s.closureFailed st
    else
      let good := goodRun v0 (s.stns[st]).write
      let s1 := (s.raise (68 + 16 * st.val)).modStn st fun t => t.modCtx fun v => { v with
        faulted := true, closing := .incompletes, colStream := none
        recs := v.recs.map fun r => if r.isComplete && r.inGood (s.stns[st]).write good then { r with durable := true } else r.abandonAs .fault }
      let s2 := ((((s1.burnFrom st 0).modStn st Station.dropColophon).dropLost st).dropJobs fun k => match k with
        | .compress a _ => a == st
        | _ => false)
      let s3 := s2.modStn st fun t =>
        match t.ctx with
        | none => t
        | some v =>
          let top := (v.quires.map (·.quire)).foldl (fun a q => max a (q + 1)) v.q0
          { t with
            ctx := some { v with group := v.group + 1, q0 := top, prevIn := 0, inGroup := 0, grpEnd := false, parDue := [], freeSlots := [] }
            write := { t.write with tailLeft := none, flushes := t.write.flushes.map fun j => { j with closed := true } } }
      let s4 := match v0.initCmd with
        | some c => (s3.finish c { status := 0x10 }).modStn st fun t => t.modCtx fun v => { v with initCmd := none }
        | none => s3
      s4.settle st

/-- A track of the wrap has died: its event, and where it is the fifth a write fault, or in a closure the ninth a failed
closure (R125, R128, R130). -/
def State.trackDied (s : State) (st : Stn) (t : Track) : State :=
  let s1 := s.raise (69 + 16 * st.val) t.val
  let n := (s1.stns[st]).write.deadTracks.length
  match (s1.stns[st]).ctx with
  | none => s1
  | some v => if v.faulted then (if n > 8 then s1.closureFailed st else s1) else if n ≥ 5 then s1.writeFault st else s1

/-- VERIFY_GRADE: a row of a sent position is graded, once (R119). -/
def State.grade (s : State) (st : Stn) (seq : Nat) (track : Track) (g : Grade) : State :=
  match (s.stns[st]).write.sent.find? fun p => p.seq == seq with
  | none => s
  | some p =>
    if p.graded.any fun x => x.1 == track then s
    else
      let r := (s.stns[st]).write.gradeRow p track g
      let s1 := s.modStn st fun t => { t with write := r.1.dropGraded }
      if r.2 then s1.trackDied st track else s1

/-- A grade corrected after a dip: the worse one holds (R410). -/
def State.regrade (s : State) (x : Regrade) : State :=
  let st := x.st
  match (s.stns[st]).write.sent.find? fun p => p.seq == x.pos with
  | none => s
  | some p =>
    match p.graded.find? fun y => y.1 == x.track with
    | none => s
    | some old =>
      let g := Grade.worse old.2 x.grade
      if g = old.2 then s
      else s.modStn st fun t => t.modWrite fun w =>
        ({ w with
          sent := w.sent.map fun (q : TxPos) => if q.seq = x.pos then { q with graded := q.graded.map fun (y : Track × Grade) => if y.1 = x.track then (y.1, g) else y } else q
          sums := vmod w.sums x.track fun l => l.map fun (y : Nat × Nat) => if y.1 = p.bandNo && p.kind.counts then (y.1, y.2 + g.weight - old.2.weight) else y }).queueGrade p x.track g

/-- Endpaper copies 0 and 1 of a new volume are accepted: its INIT_VOLUME completes (Table 10.6), or the MIGRATE that made it begins
to read its source (Table 8.7, phase 3). -/
def State.madeVolume (s : State) (st : Stn) (c : CmdRef) (volid : List Byte) : State :=
  match s.migs.find? fun j => !j.stopped && j.dst == st with
  | some j =>
    let s1 := { s with migs := s.migs.map fun (x : MigJob) => if x = j then { x with phase := 3 } else x }
    s1.wantTape j.src
  | none => (s.finishWith c (.ok (beNat (volid.drop 8))) volid).modStn st fun t => { t with mountCmd := none }

/-- A gathering is accepted: it leaves the undecided ones, records become durable, and what waited goes on (R127, R139). -/
def State.acceptGath (s : State) (st : Stn) (g : Gath) : State :=
  let s1 := s.modStn st fun t =>
    match t.ctx with
    | none => t
    | some v =>
      let w := { t.write with gaths := t.write.gaths.filter (fun x => x.gnum != g.gnum),
                              rwq := t.write.rwq.filter fun e => e.gnum != g.gnum }.dropGraded
      { t with write := w, ctx := some (markDurable { v with colDone := v.colDone + if g.kind = .colophon then 1 else 0 } w) }
  match (s1.stns[st]).ctx with
  | none => s1
  | some v =>
    match v.initCmd with
    | some c =>
      if g.kind == .endpaper && !((s1.stns[st]).write.gaths.any fun x => x.kind == .endpaper) && v.labelQ.isEmpty then
        ((s1.madeVolume st c v.volid).modStn st fun t => { t with
          ctx := some { v with initCmd := none }
          mount := t.mount.map fun m => { m with mode := .append } }).settle st
      else s1.settle st
    | none => s1.settle st

/-- A gathering is not accepted: a colophon copy of a SEAL only costs the SEAL its status; any other gathering is a write
fault, and in a closure the closure fails (R128, R130, R142). -/
def State.rejectGath (s : State) (st : Stn) (g : Gath) : State :=
  match (s.stns[st]).ctx with
  | none => s
  | some v =>
    if g.kind = .colophon ∧ !v.faulted then
      (s.modStn st fun t => { t with
        ctx := some { v with colBad := true }
        write := { t.write with gaths := t.write.gaths.filter fun x => x.gnum != g.gnum } }).settle st
    else if v.faulted then (if g.closure then s.closureFailed st else
      s.modStn st fun t => t.modWrite fun w => { w with gaths := w.gaths.filter fun x => x.gnum != g.gnum })
    else s.writeFault st

/-- GATHERING_ACCEPTANCE (R127). -/
def State.acceptance (s : State) (st : Stn) (gnum : Nat) : State :=
  let w := (s.stns[st]).write
  match w.gaths.find? fun g => g.gnum == gnum with
  | none => s
  | some g => if !w.decidable g || (s.stns[st]).stabled then s else if g.passes then s.acceptGath st g else s.rejectGath st g

end Sys2Proof.Machine
end

