-- ==== Sys2Proof/Machine/ReadOps.lean ====
section
/-!
DEFINITION. The read channel (06): sample alignment, peak qualification, framing, the attempts of R204 and their counts,
the row-position grid, and where a decoded row goes in verify and in recall.
-/
namespace Sys2Proof.Machine

/-! ### Samples (R174, R194) -/

/-- A 4-bit sample code as a number from -8 to +7. -/
def sample4 (b : BitVec 4) : Int := b.toInt

/-- The sample byte of a raw cell of track j of a lane, if a frame carried it, with its frame's flywheel mark. -/
def LaneRx.cellAt (l : LaneRx) (c : BitVec 32) (j : Nat) : Option (BitVec 8 × Bool) :=
  l.frames.findSome? fun f =>
    let i := (c - f.cell).toNat
    if i < f.bytes.length / 8 then some (f.bytes.getD (8 * i + j) 0x88, f.fly) else none

/-- A raw half-cell sample: even indices are boundaries, odd ones centres; -8 where none was taken (R194). -/
def LaneRx.half (l : LaneRx) (j : Nat) (h : BitVec 33) : BitVec 4 × Bool :=
  match l.cellAt (h.extractLsb' 1 32) j with
  | some (b, fly) => (if h.getLsbD 0 then b.extractLsb' 4 4 else b.extractLsb' 0 4, fly)
  | none => (8, false)

/-- The aligned samples of `n` cells from a cell on: centre in bits 7 to 4, boundary in bits 3 to 0 (R194). -/
def LaneRx.aligned (l : LaneRx) (j : Nat) (skew : BitVec 8) (c : BitVec 32) (n : Nat) : List (BitVec 8 × Bool) :=
  (List.range n).map fun i =>
    let h : BitVec 33 := (c + BitVec.ofNat 32 i) ++ (0 : BitVec 1)
    let b := l.half j (h + skew.signExtend 33)
    let m := l.half j (h + 1 + skew.signExtend 33)
    (m.1 ++ b.1, m.2)

/-! ### Peak qualification (R201, R202) -/

/-- The detector while it runs over cells: its level and last polarity, the cells decided (newest first), and the sum and
number of |C| over qualified peaks. -/
structure Detect where
  peak : Peak
  out  : List Cell
  sum  : Nat
  n    : Nat
  deriving DecidableEq, Repr

/-- Cells after the previous peak marked as ambiguous. -/
def markBack : List Cell → List Cell
  | [] => []
  | c :: r => if c.bit then c :: r else { c with amb := true } :: markBack r

/-- The threshold of R201 for a level and an offset. -/
def threshold (g : Image) (level : Nat) (o : Int) : Int :=
  min 24 (max 4 ((level * g.thrFrac / 8192 : Nat) + o))

/-- One cell decided (R201). `nb` is the next cell's boundary. The step of the level rounds down (DEDUCED, log 75). -/
def Detect.cell (d : Detect) (g : Image) (o : Int) (x : BitVec 8 × Bool) (nb : BitVec 4) : Detect :=
  let c := sample4 (x.1.extractLsb' 4 4)
  let bl := sample4 (x.1.extractLsb' 0 4)
  let br := sample4 nb
  let thr := threshold g d.peak.level o
  let m : Int := 4 * c.natAbs
  let pos := decide (0 < c)
  if c = -8 ∨ bl = -8 ∨ br = -8 then { d with out := ⟨false, true⟩ :: d.out }
  else if m ≥ thr + g.guard then
    let same := d.peak.last == some pos
    if c.natAbs > bl.natAbs && c.natAbs > br.natAbs && !same then
      let a : Int := d.peak.level
      let a1 := if x.2 then a else a + (m * 256 - a) / (2 ^ g.thrK : Nat)
      { peak := ⟨a1.toNat, some pos⟩, out := ⟨true, false⟩ :: d.out, sum := d.sum + c.natAbs, n := d.n + 1 }
    else if same then { d with peak := { d.peak with last := some pos }, out := ⟨true, true⟩ :: markBack d.out }
    else { d with peak := { d.peak with last := some pos }, out := ⟨true, true⟩ :: d.out }
  else if m ≤ thr - g.guard then { d with out := ⟨false, false⟩ :: d.out }
  else
    let bit := decide (m > thr)
    { d with peak := if bit then { d.peak with last := some pos } else d.peak, out := ⟨bit, true⟩ :: d.out }

/-- The detector run over aligned samples; the last entry only supplies its boundary. -/
def detect (g : Image) (o : Int) (d : Detect) : List (BitVec 8 × Bool) → Detect
  | x :: y :: r => detect g o (d.cell g o x (y.1.extractLsb' 0 4)) (y :: r)
  | _ => d

/-- A detector before the first cell. -/
def Detect.start (p : Peak) : Detect := ⟨p, [], 0, 0⟩

/-! ### Framing (R203, R204) -/

/-- Cells kept before and after the counted start of a row (DEDUCED, log 74). -/
def lead : Nat := 4

/-- The 5,216 cells from alignment d on, in a run that begins `lead` cells before the counted start. -/
def rowAt (cells : List Cell) (d : Int) : List Cell := (cells.drop ((lead : Int) + d).toNat).take 5216

/-- The sync distance of an alignment; an ambiguous cell counts as different (R203). -/
def syncDist (row : List Cell) : Nat :=
  ((row.zip syncMark).filter fun x => x.1.amb || x.1.bit != x.2).length

/-- The offsets in the order that settles ties: smaller |d| first, then the negative one (R203). -/
def tieOrder (n : Nat) : List Int :=
  0 :: (List.range n).flatMap fun (i : Nat) => [-((i : Int) + 1), (i : Int) + 1]

/-- The primary alignment, if some offset within `n` cells of the counted start is a candidate (R203). `at_` gives the
row at an offset. -/
def primary (tol n : Nat) (at_ : Int → List Cell) : Option Int :=
  let c := ((tieOrder n).map fun d => (d, syncDist (at_ d))).filter fun x => x.2 ≤ tol
  (c.foldl (fun (b : Option (Int × Nat)) x => match b with
    | some y => if x.2 < y.2 then some x else some y
    | none => some x) none).map (·.1)

/-- The retry order of R204. -/
def retryOrder (prim : Int) : List Int := ([0, -1, 1, -2, 2, -3, 3, -4, 4] : List Int).filter (· != prim)

/-- A row header's identity: KIND, ROW and GNUM[17:0]. -/
structure RowId where
  kind : Nat
  row  : Nat
  gnum : Nat
  deriving DecidableEq, Repr

/-- The header of a row, if its words and its CRC pass (R79, R83). -/
def headerOf (row : List Cell) : Option RowId :=
  let c := (row.drop 32).take 64
  if c.any (·.amb) then none
  else match decodeHeader (c.map (·.bit)) with
    | none => none
    | some h =>
      if crc16 (h.take 32) = natOfBits (h.drop 32) then
        some ⟨natOfBits (h.take 2), natOfBits ((h.drop 2).take 10), natOfBits ((h.drop 12).take 18)⟩
      else none

/-- C1 of a row: its symbols with e and f, if it is accepted (R82, R95). -/
def c1Of (row : List Cell) (limit : Nat) : Option (List Nat × Nat × Nat) :=
  let blocks := (List.range 155).map fun j =>
    let c := (row.drop (96 + 33 * j)).take 33
    if c.any (·.amb) then none else decode33 (c.map (·.bit))
  let erased := ((blocks.zipIdx.filter fun b => b.1.isNone).flatMap fun b => blockSymbols b.2).eraseDups
  let bits := blocks.flatMap fun b => bitsOfNat 32 (b.getD 0)
  let word := (chunks 10 496 bits).map natOfBits
  if erased.length > 32 then none
  else (rsDecode gf10 2 32 limit word (erased.map fun s => 495 - s)).map fun r => (r.word, r.errs, erased.length)

/-- What the channel makes of a row. -/
inductive RowOut where
  | use (d : Int) (syms : List Nat) (e f : Nat) (id : Option RowId) (prim : Bool)
  | mismatch (d : Int)
  | failed
  deriving DecidableEq, Repr

/-- One attempt at an alignment: a final answer, or what is left: whether the header passed, and a headerless pass
(R204). `ok` says whether an identity is the one expected. -/
def tryRow (row : List Cell) (d : Int) (prim : Bool) (ok : RowId → Bool) : Option RowOut × Bool × Option (Int × List Nat × Nat × Nat) :=
  let h := headerOf row
  match c1Of row (if prim && h.isSome then 16 else 14), h with
  | some (w, e, f), some id => (if ok id then some (.use d w e f (some id) prim) else some (.mismatch d), true, none)
  | some (w, e, f), none => (none, false, some (d, w, e, f))
  | none, _ => (none, h.isSome, none)

/-! ### Counts (R212) -/

/-- A count goes up by 1. -/
def bump (kind track : Nat) (l : Counts) : Counts :=
  if l.any fun x => x.1 == kind && x.2.1 == track then
    l.map fun x => if x.1 = kind && x.2.1 = track then (x.1, x.2.1, x.2.2 + 1) else x
  else (kind, track, 1) :: l

/-- Several counts of one track go up. -/
def State.count (s : State) (st : Stn) (track : Nat) (kinds : List Nat) : State :=
  s.modStn st fun t => t.modLink fun k => { k with counts := kinds.foldl (fun a n => bump n track a) k.counts }

/-! ### Expected rows (R96, R64, R65) -/

/-- The identity expected of a row of a sent position; a copy repeats the header of its row (R63). -/
def TxPos.expect (p : TxPos) (t : Track) : RowId :=
  match p.kind with
  | .gathering g k i => ⟨k.row, rowOn g i t.val, g % 2 ^ 18⟩
  | .band _ => match p.slots.getD t.val .filler with
    | .copy g k r => ⟨k.row, r, g % 2 ^ 18⟩
    | .filler => ⟨3, 0, p.lastG % 2 ^ 18⟩
  | .splice => ⟨3, 1023, p.lastG % 2 ^ 18⟩
  | .tail g _ => ⟨3, 0, g % 2 ^ 18⟩

/-- Whether an identity is the one a sent position expects (R96). -/
def TxPos.accepts (p : TxPos) (t : Track) (id : RowId) : Bool := id == p.expect t

/-- Whether an identity is the one expected in recall: in a gathering the row that the rotation puts there, of the kind and number
the position is known by, or a tail slot's filler; in a band a copy or a filler; in a splice slot its filler (R64, R65, R89, R96,
R476; DEDUCED, log 29). -/
def RxPos.accepts (p : RxPos) (t : Track) (id : RowId) : Bool :=
  match p.kind with
  | .gathering g k i =>
    if p.known then id.kind == k.row && id.row == rowOn g i t.val && id.gnum == g % 2 ^ 18
    else if id.kind = 3 then id.row == 0 else id.row == rowOn id.gnum i t.val
  | .band _ => id.kind != 3 || id.row == 0
  | .splice => id.kind == 3 && id.row == 1023
  | .tail g _ => id.kind == 3 && id.row == 0 && id.gnum == g % 2 ^ 18

/-- The gathering number with given low bits nearest to a reference. -/
def extendG (ref low : Nat) : Nat :=
  let m := 2 ^ 18
  let base := ref / m * m + low
  if base + m / 2 < ref then base + m else if base > ref + m / 2 ∧ base ≥ m then base - m else base

/-! ### Recall: where a row goes (R63, R97, R210, R467) -/

/-- A gathering of which nothing has been read. -/
def RGath.fresh (gnum : Nat) (kind : GKind) : RGath :=
  { gnum := gnum, kind := kind, rows := [], copies := [], area := none, erased := [], whole := false, tagTried := false,
    plain := none, unrec := false, slot := none, ord := 0, base := 0, pass := 0, lastPi := 0, band := 0, lpos := 0, wrap := 0 }

/-- The gathering of a number. -/
def Recall.gath? (k : Recall) (n : Nat) : Option RGath := k.gaths.find? fun g => g.gnum == n

/-- A gathering changed by `f`. -/
def Recall.modGath (k : Recall) (n : Nat) (f : RGath → RGath) : Recall :=
  { k with gaths := k.gaths.map fun g => if g.gnum = n then f g else g }

/-- The pass that reads now: 0, or the number of a rung 3 pass. -/
def Recall.passNow (k : Recall) : Nat := if k.reread then k.pass + 1 else 0

/-- A row put among those kept: the first of each row and pass (R97). -/
def putRow (l : List RRow) (r : RRow) : List RRow :=
  if l.any fun x => x.row == r.row && x.pass == r.pass then
    l.map fun x => if x.row = r.row ∧ x.pass = r.pass ∧ r.pos < x.pos then r else x
  else l ++ [r]

/-- What the station uses of a row: of each pass the original, or else the first copy; of several passes the one with the least
2e + f, and the earliest of equals (R97, R210). -/
def RGath.best (g : RGath) (r : Nat) : Option RRow :=
  let own := g.rows.filter fun x => x.row == r
  let cs := g.copies.filter fun x => x.row == r && !(own.any fun y => y.pass == x.pass)
  (own ++ cs).foldl (fun (b : Option RRow) x => match b with
    | none => some x
    | some y => if x.load < y.load ∨ (x.load = y.load ∧ x.pass < y.pass) then some x else some y) none

/-- The symbols of row r that C2 takes. -/
def RGath.row? (g : RGath) (r : Nat) : Option (List Nat) := (g.best r).map fun x => x.syms.map (·.toNat)

/-- A row read at position i of a gathering. A recording of it that begins later in the same pass takes the place of one cut short
by a splice slot, and what is still read of that is dropped (R474). -/
def RGath.readAt (g : RGath) (p : RxPos) (i : Nat) (r : RRow) : RGath :=
  let base := p.num - i
  if g.pass = r.pass ∧ base < g.base then g
  else
    let kept := if g.pass = r.pass ∧ g.base < base then g.rows.filter fun x => x.pass != r.pass else g.rows
    { g with rows := putRow kept r, base := base, pass := r.pass, band := p.bandNo
             lastPi := if g.base = base then max g.lastPi i else i }

/-- A row put into a gathering being read; a gathering not seen yet is begun. A second gathering of a number that has been read
whole lies beyond the end of recording, unless the tape has been moved back (R56, R467). -/
def Recall.addRow (k : Recall) (p : RxPos) (gnum : Nat) (kind : GKind) (i lpos : Nat) (r : RRow) : Recall :=
  match k.gath? gnum with
  | none => { k with gaths := k.gaths ++ [{ RGath.fresh gnum kind with ord := p.ord, base := p.num - i, pass := r.pass, lpos := lpos, wrap := k.wrap }.readAt p i r] }
  | some h =>
    if k.reread ∨ (!k.moved ∧ h.ord = p.ord) ∨ (h.lastPi < 7 ∧ h.area.isNone ∧ !h.whole) then k.modGath gnum fun g => g.readAt p i r else k

/-- Rewrite bands begun before the last position of a gathering, as the pass that reads now has it; of one that the pass has not
read, those before the last one below it that it has. -/
def Recall.bandBase (k : Recall) (gnum : Nat) : Nat :=
  (k.gaths.filter fun g => g.gnum ≤ gnum && g.pass == k.passNow).foldl (fun a g => max a g.band) 0

/-- A copy from a rewrite band, of the row that its KIND, ROW and GNUM name, in one of the first four bands after it: the first
passing one counts; a later one that differs is a conflict (R63, R97). -/
def Recall.addCopy (k : Recall) (p : RxPos) (id : RowId) (r : RRow) : Recall × Bool :=
  let hit := fun (g : RGath) => g.gnum % 2 ^ 18 == id.gnum && g.kind.row == id.kind
    && k.bandBase g.gnum < p.bandNo && p.bandNo ≤ k.bandBase g.gnum + 4
  let bad := k.gaths.any fun g => hit g && g.copies.any fun x => x.row == r.row && x.pass == r.pass && x.syms != r.syms
  ({ k with gaths := k.gaths.map fun g => if hit g then { g with copies := putRow g.copies r } else g }, bad)

/-- The gathering slots of the grid, counted anew from a position that turns out to be slot `ord` of the recording. -/
def Link.rebase (k : Link) (p : RxPos) (ord : Nat) : Link :=
  let f := fun (n : Nat) => n + ord - p.ord
  { k with rxOrd := f k.rxOrd, rx := k.rx.map fun q => if q.num ≥ k.rxRun then { q with ord := f q.ord } else q }

/-- The end of recording, at position `num` of gathering slot `ord`: nothing from there on belongs to the volume, and the tape stops
(R467); what is left of an older recording before it goes once it is decided (`Recall.trim`). -/
def State.readOver (s : State) (st : Stn) (ord num : Nat) : State :=
  (s.modStn st fun t => { t with readSide := { t.readSide with
    ended := true
    gaths := (t.readSide.gaths.filter fun g => g.ord < ord).map fun g => { g with copies := g.copies.filter fun x => x.pos < num } } }).controlledStop st

/-- Whether row 0 of a headered gathering names another volume (Table 2.6, R467). -/
def VolCtx.alien (v : VolCtx) (syms : List Nat) : Bool := bytesAt (rowBytes syms) 8 16 != padTo 16 v.volid

/-- Whether row 0 of a headered gathering names another volume than the one mounted. -/
def Station.alien (t : Station) (syms : List Nat) : Bool := t.ctx.any fun v => v.alien syms

/-- Whether a row of a gathering number at a slot lies beyond the end of recording or in the tail (R467, R476). Once the tape has been
moved back a slot's count says nothing: then what follows the last gathering does. -/
def Recall.past (k : Recall) (ord gnum : Nat) : Bool :=
  if k.reread || k.moved then (k.ended || k.tail.isSome) && decide (k.highG < gnum) else k.ended || k.tail.any (· ≤ ord)

/-- Whether the fourth rewrite band has been read after `base` of them, and every row before and in it has its outcome (R97). -/
def Station.bandsRead (t : Station) (base : Nat) : Bool :=
  base + 4 ≤ t.link.rxBand
    && t.link.rx.all fun q => q.done == BitVec.allOnes 128 || !(q.bandNo < base + 4 || (q.kind.isBand && q.bandNo == base + 4))

/-- A tail slot: nothing after it is a gathering (R476). -/
def State.tailRead (s : State) (st : Stn) (p : RxPos) (low i : Nat) : State :=
  s.modStn st fun t =>
    if low ≠ t.readSide.highG % 2 ^ 18 ∨ t.readSide.ended && !t.readSide.reread then t
    else { t with
      readSide := if t.readSide.reread || t.readSide.moved && t.readSide.tail.isSome then t.readSide
        else { t.readSide with tail := some (min p.ord (t.readSide.tail.getD p.ord)) }
      link := { t.link with rx := t.link.rx.map fun q => if q.num = p.num then { q with kind := .tail t.readSide.highG i, known := true } else q } }

/-- A row of a gathering used in recall, of number `gnum` and kind `kind`. -/
def State.gathRow (s : State) (st : Stn) (p : RxPos) (gnum : Nat) (kind : GKind) (i : Nat) (t : Track) (syms : List Nat) (r : RRow) : State :=
  let k := (s.stns[st]).readSide
  let row := rowOn gnum i t.val
  if k.past p.ord gnum then s
  else if row = 0 ∧ kind ≠ .parity ∧ (s.stns[st]).alien syms then s.readOver st p.ord (p.num - i)
  else
    let ord := match k.gath? gnum with
      | some h => if (k.reread || k.moved) && !p.known then h.ord else p.ord
      | none => p.ord
    s.modStn st fun x => { x with
      readSide := { (k.addRow { p with ord := ord } gnum kind i x.servo.lpos { r with row := row }) with
        highG := max k.highG gnum, moved := k.moved && gnum ≤ k.highG }
      link :=
        let l := if ord = p.ord then x.link else x.link.rebase p ord
        { l with rx := l.rx.map fun q => if q.num = p.num then { q with kind := .gathering gnum kind i, known := true } else q } }

/-- A row used in recall. -/
def State.recallRow (s : State) (st : Stn) (p : RxPos) (t : Track) (syms : List Nat) (load : Nat) (id : Option RowId) : State :=
  let k := (s.stns[st]).readSide
  let r : RRow := ⟨0, syms.map (BitVec.ofNat 10), load, k.passNow, p.num⟩
  match p.kind with
  | .gathering g kd i =>
    if p.known then s.gathRow st p g kd i t syms r
    else match id with
      | none => s
      | some x =>
        if x.kind = 3 then s.tailRead st p x.gnum i
        else s.gathRow st p (extendG k.highG x.gnum) (if x.kind = 0 then .data else if x.kind = 1 then .parity else .endpaper) i t syms r
  | .band _ =>
    match id with
    | some x =>
      if x.kind = 3 ∨ k.ended && !k.reread then s
      else
        let a := k.addCopy p x { r with row := x.row }
        let s1 := s.modStn st fun k => { k with readSide := a.1 }
        if a.2 then s1.raise (76 + 16 * st.val) x.gnum else s1
    | none => s
  | _ => s

/-- The reading of a tail is over with the fourth band after the last gathering (R476). -/
def State.tailOver (s : State) (st : Stn) : State :=
  let t := s.stns[st]
  let k := t.readSide
  if k.tail.isSome && !k.ended && !k.reread && t.bandsRead (k.gaths.foldl (fun a g => max a g.band) 0) then
    (s.modStn st fun t => { t with readSide := { t.readSide with ended := true } }).controlledStop st
  else s

/-! ### The outcome of a row -/

/-- The read-channel packet of a row (Table 13.4). -/
def rowPacket (s : State) (st : Stn) (gnum row : Nat) (t : Track) (d : Int) (e f rung : Nat) (g : Grade) : List (BitVec 64) :=
  [packetHead 1 st.val s.time, BitVec.ofNat 64 gnum,
   BitVec.ofNat 10 row ++ BitVec.ofNat 7 t.val ++ BitVec.ofInt 4 d ++ BitVec.ofNat 6 e ++ BitVec.ofNat 6 f
     ++ BitVec.ofNat 3 rung ++ BitVec.ofNat 2 g.code ++ (0 : BitVec 26)]

/-- The grade that an outcome earns in verify (Table 4.4, R205). -/
def gradeOf (g : Image) : RowOut → Grade
  | .use _ _ e f id prim => if 2 * e + f ≤ g.rwScore && id.isSome && prim then .good else .marginal
  | .mismatch _ => .failed
  | .failed => .failed

/-- The counts that an outcome adds to on its track: rescued at its rung, header failed, framing mismatch, rung 2 exhausted
(Table 6.10, R212). -/
def rowCounts (o : RowOut) (rung : Nat) : List Nat :=
  match o with
  | .use _ _ _ _ id _ => rung :: if id.isNone then [19] else []
  | .mismatch _ => [8]
  | .failed => if rung = 2 then [20] else []

/-- C1 load of a row: 2e + f, or 33 of one that fails (Table 13.2). -/
def rowLoad : RowOut → Nat
  | .use _ _ e f _ _ => 2 * e + f
  | _ => 33

/-- A row of the grid has its outcome. -/
def Link.rowOut (k : Link) (pos : Nat) (t : Track) : Link :=
  { k with rx := k.rx.map fun q => if q.num = pos then { q with tried := q.tried ||| BitVec.twoPow 128 t.val, done := q.done ||| BitVec.twoPow 128 t.val } else q }

/-- The gathering and row that a row of the grid is, as far as that is known. -/
def RxPos.names (p : RxPos) (ref : Nat) (t : Track) (o : RowOut) : Nat × Nat :=
  match p.kind, o with
  | _, .use _ _ _ _ (some id) _ => (extendG ref id.gnum, id.row)
  | .gathering g _ i, _ => (g, rowOn g i t.val)
  | _, _ => (0, 0)

/-- A row that a rung 3 pass is for: of a gathering unrecovered after C3, and not read yet (R208). -/
def Recall.climbs (k : Recall) (gr : Nat × Nat) : Bool :=
  k.reread && k.failed.contains gr.1 && (k.gath? gr.1).any fun g => (g.best gr.2).isNone

/-- A row's outcome takes effect: in verify it is graded, in recall it is kept; a packet is written where the primary
attempt failed or the grade is not Good. -/
def State.rowDone (s : State) (st : Stn) (pos : Nat) (t : Track) (o : RowOut) (rung : Nat) : State :=
  let k := s.stns[st]
  let info : Int × Nat × Nat := match o with
    | .use d _ e f _ _ => (d, e, f)
    | .mismatch d => (d, 0, 0)
    | .failed => (0, 0, 0)
  let sent := k.write.sent.find? fun p => p.seq == pos
  let way : Fin 2 := if sent.isSome then 1 else 0
  let s := (s.count st t.val (rowCounts o rung)).modStn st fun x => x.modLink fun l => { l.rowOut pos t with
    c1Load := vmod l.c1Load way fun v => vmod v t fun _ => rowLoad o, c1Last := vmod l.c1Last way fun _ => rowLoad o }
  match sent with
  | some p =>
    let g := gradeOf s.img o
    let x := p.expect t
    let s1 := if g = .good ∧ rung = 0 then s
      else s.trace (dieOf st) 3 (rowPacket s st (match p.kind with | .gathering n _ _ => n | _ => p.lastG) x.row t info.1 info.2.1 info.2.2 rung g)
    s1.grade st pos t g
  | none =>
    match k.link.rx.find? fun p => p.num == pos with
    | none => s
    | some p =>
      let gr := p.names k.readSide.highG t o
      let bad : Bool := match o with | .use _ _ _ _ _ _ => rung > 0 | _ => true
      let s1 := if bad then s.trace (dieOf st) 3 (rowPacket s st gr.1 gr.2 t info.1 info.2.1 info.2.2 rung
        (match o with | .use _ _ _ _ _ _ => .good | _ => .failed)) else s
      let s2 := if k.readSide.climbs gr then s1.count st t.val (15 :: match o with | .use _ _ _ _ _ _ => [3] | _ => []) else s1
      (match o with
        | .use _ w e f id _ => s2.recallRow st p t w (2 * e + f) id
        | _ => s2).tailOver st

/-- A row that was not received: Missing in verify, erased in recall (R94, R34, Table 6.10). -/
def State.rowMissing (s : State) (st : Stn) (pos : Nat) (t : Track) (grid : Bool) : State :=
  let s := (if grid then s.count st t.val [21] else s).modStn st fun k => k.modLink fun l => { l.rowOut pos t with runs := vmod l.runs t fun _ => (0, 0) }
  match (s.stns[st]).write.sent.find? fun p => p.seq == pos with
  | some p =>
    (s.trace (dieOf st) 3 (rowPacket s st (match p.kind with | .gathering n _ _ => n | _ => p.lastG) (p.expect t).row t 0 0 0 0 .missing)).grade st pos t .missing
  | none => s.tailOver st

/-! ### Skew (R195, R196) -/

/-- The direction of travel as an index of the skew tables. -/
def Servo.dir (v : Servo) : Fin 2 := if v.reverse then 1 else 0

/-- SKEW held within -128 to +127: an entry that a move would carry past its limit goes to the limit (DESIGN CHOICE, log 125). -/
def skewClamp (x : Int) : Int := if x > 127 then 127 else if x < -128 then -128 else x

/-- Twice the median of some offsets (R195). -/
def twiceMedian (l : List Int) : Int :=
  let a := sortBy (· ≤ ·) l
  if a.length % 2 = 1 then 2 * a.getD (a.length / 2) 0 else a.getD (a.length / 2 - 1) 0 + a.getD (a.length / 2) 0

/-- The calibrated entry of a track from the rows read: twice the median, and one half-cell more where the odd phase has
the larger mean |C| (R195). A track of which no sync mark was found keeps its entry. -/
def calEntry (l : List CalRow) (t : Track) (old : BitVec 8) : BitVec 8 :=
  let m := l.filter fun r => r.track == t
  if m.isEmpty then old
  else
    let sum := fun (f : CalRow → Nat × Nat) => m.foldl (fun (a : Nat × Nat) r => (a.1 + (f r).1, a.2 + (f r).2)) (0, 0)
    let e := sum (·.even)
    let o := sum (·.odd)
    let x := twiceMedian (m.map (·.ofs)) + if o.1 * e.2 > e.1 * o.2 then 1 else 0
    BitVec.ofInt 8 (skewClamp x)

/-- SKEW_CALIBRATION: one more row of the calibration has been read; the last one sets the table (R195). -/
def State.calibrate (s : State) (st : Stn) (r : Option CalRow) : State :=
  s.modStn st fun k => k.modLink fun l =>
    let d := k.servo.dir
    if l.calLeft[d] = 0 then l
    else
      let rows := match r with | some x => x :: l.calOfs[d] | none => l.calOfs[d]
      let left := l.calLeft[d] - 1
      if left = 0 then
        { l with calLeft := vmod l.calLeft d fun _ => 0, calOfs := vmod l.calOfs d fun _ => [],
                 skew := vmod l.skew d fun v => Vector.ofFn fun t => calEntry rows t v[t] }
      else { l with calLeft := vmod l.calLeft d fun _ => left, calOfs := vmod l.calOfs d fun _ => rows }

/-- SKEW_TRACK: a row framed by its own sync mark at offset d counts towards a run; a full run moves the entry by 2d within
its limits and raises the event (R196). -/
def State.skewRun (s : State) (st : Stn) (t : Track) (d : Int) : State :=
  let k := s.stns[st]
  let r := k.link.runs[t]
  let n := if d = 0 then 0 else if r.1 = d then r.2 + 1 else 1
  let lim := s.img.skewTrack
  let full := lim ≠ 0 ∧ n ≥ lim
  let s1 := s.modStn st fun k => k.modLink fun l => { l with
    runs := vmod l.runs t fun _ => if full then (0, 0) else (d, n)
    skew := if full then vmod l.skew k.servo.dir fun v => vmod v t fun x => BitVec.ofInt 8 (skewClamp (x.toInt + 2 * d)) else l.skew }
  if full then s1.raise (75 + 16 * st.val) t.val else s1

/-- A row that no sync mark of its own framed ends a run (R196). -/
def State.skewBreak (s : State) (st : Stn) (t : Track) : State :=
  s.modStn st fun k => k.modLink fun l => { l with runs := vmod l.runs t fun _ => (0, 0) }

/-! ### ROW_DECODE and RETRY_ATTEMPT -/

/-- The expected-identity test of a position. -/
def Station.okFor (k : Station) (pos : Nat) (t : Track) : RowId → Bool :=
  match k.write.sent.find? fun p => p.seq == pos with
  | some p => p.accepts t
  | none => match k.link.rx.find? fun p => p.num == pos with
    | some p => p.accepts t
    | none => fun _ => false

/-- Whether the rows of a position are decoded: those of one sent, in verify, and every one in recall. -/
def Station.wantsRows (k : Station) (pos : Nat) : Bool := k.readSide.active || k.write.sent.any fun p => p.seq == pos

/-- Whether a row's turn has come: it has not been tried, and every one before it on its track has (Table 1.8). -/
def Station.rowTurn (k : Station) (p : RxPos) (t : Track) : Bool :=
  !p.tried.getLsbD t.val && !(k.link.rx.any fun q => q.num < p.num && k.wantsRows q.num && !q.tried.getLsbD t.val)

/-- A row's primary attempt has been made. -/
def Link.rowTried (k : Link) (pos : Nat) (t : Track) : Link :=
  { k with rx := k.rx.map fun q => if q.num = pos then { q with tried := q.tried ||| BitVec.twoPow 128 t.val } else q }

/-- ROW_DECODE of a row that has been received: the primary attempt (R201 to R207). The detector's state for the next row is
the one reached `lead` cells before it. A row of calibration whose sync mark lies further than `lead` cells from the counted start is
decoded at its sync mark, the offsets of later attempts counted from there (R195; DESIGN CHOICE, log 156). -/
def State.rowRead (s : State) (st : Stn) (p : RxPos) (t : Track) : State :=
  let k := s.stns[st]
  let lane : Lane := ⟨t.val / 8, by omega⟩
  let g := s.img
  let cal := k.link.calLeft[k.servo.dir] > 0
  let ext := if cal then 64 else 4
  let skew := (k.link.skew[k.servo.dir])[t]
  let raw := (k.link.lanes[lane]).aligned (t.val % 8) skew (p.cell - BitVec.ofNat 32 lead) (5216 + 2 * lead + 1)
  let peak := k.link.peaks[t]
  let run := (detect g 0 (.start peak) raw).out.reverse
  let next := (detect g 0 (.start peak) (raw.take 5217)).peak
  let far := fun (d : Int) => (detect g 0 (.start peak)
    ((k.link.lanes[lane]).aligned (t.val % 8) skew (p.cell + BitVec.ofInt 32 d) 33)).out.reverse
  let pr := primary g.syncTol ext (fun d => if d.natAbs ≤ lead then rowAt run d else far d)
  let prim := pr.getD 0
  let base := if prim.natAbs ≤ lead then 0 else prim
  let kept := if base = 0 then raw else
    (k.link.lanes[lane]).aligned (t.val % 8) skew (p.cell - BitVec.ofNat 32 lead + BitVec.ofInt 32 base) (5216 + 2 * lead + 1)
  let found := if base = 0 then run else (detect g 0 (.start peak) kept).out.reverse
  let even := detect g 0 (.start peak) raw
  let odd := detect g 0 (.start peak) ((k.link.lanes[lane]).aligned (t.val % 8) (skew + 1) (p.cell - BitVec.ofNat 32 lead) (5216 + 2 * lead + 1))
  let s0 := s.calibrate st (pr.map fun d => ⟨t, d, (even.sum, even.n), (odd.sum, odd.n)⟩)
  let s1 := s0.modStn st fun k => k.modLink fun l => { l.rowTried p.num t with peaks := vmod l.peaks t fun _ => next }
  let s2 := s1.count st t.val [12, if pr.isNone then 6 else 29]
  let r := tryRow (rowAt found (prim - base)) prim true (k.okFor p.num t)
  match r.1 with
  | some o => (if pr.isSome then s2.skewRun st t prim else s2.skewBreak st t).rowDone st p.num t o 0
  | none =>
    let s3 := s2.skewBreak st t
    if k.link.retry.length ≥ g.retryRows then (s3.count st t.val [9]).rowDone st p.num t .failed 0
    else s3.modStn st fun k => k.modLink fun l => { l with retry := l.retry ++
      [⟨p.num, t, peak, kept, pr.isSome, r.2.1, 0, k.write.sent.any (fun q => q.seq == p.num), r.2.2⟩] }

/-- ROW_DECODE: a row position's cells have arrived on a track, or have gone by with none received (R34, R94, R190, R198, R199,
R241). -/
def State.rowDecode (s : State) (st : Stn) (pos : Nat) (t : Track) : State :=
  let k := s.stns[st]
  let lane : Lane := ⟨t.val / 8, by omega⟩
  let sent := k.write.sent.find? fun p => p.seq == pos
  let off := sent.any fun p => p.off.getLsbD lane.val
  match k.link.rx.find? fun p => p.num == pos with
  | none =>
    if sent.any (fun p => !(p.graded.any fun x => x.1 == t)) && (pos < k.link.rxNum || k.link.grid.isNone) then s.rowMissing st pos t true else s
  | some p =>
    if !k.wantsRows pos || !k.rowTurn p t then s
    else if p.lost || !(k.link.lanes[lane]).up || off then (s.calibrate st none).rowMissing st pos t p.lost
    else s.rowRead st p t

/-- The attempts that a kept row still has: the offsets of rung 1 at the primary alignment where its header passed and it
is not a verify row, then the alternative alignments of rung 2 (Table 6.11, R211). -/
def RetryRow.attempts (r : RetryRow) (g : Image) (prim : Int) : List (Nat × Int × Int) :=
  (if r.hdrOk && !r.verify then g.thrOffs.map fun o => (1, prim, o) else []) ++ (retryOrder prim).map fun d => (2, d, 0)

/-- RETRY_ATTEMPT: the row that has waited longest gets its next attempt; after its last one a headerless pass is used, or
the row fails (R204, R207). A sync that was found is false where the row passes at another alignment (Table 6.10). -/
def State.retryAttempt (s : State) (st : Stn) : State :=
  let k := s.stns[st]
  match k.link.retry with
  | [] => s
  | r :: rest =>
    let g := s.img
    let cells := fun (o : Int) => (detect g o (.start r.peak) r.raw).out.reverse
    let prim := (primary g.syncTol 4 (rowAt (cells 0))).getD 0
    let l := r.attempts g prim
    let drop := s.modStn st fun k => k.modLink fun x => { x with retry := rest }
    let lost := fun (d : Int) => if r.sync ∧ d ≠ prim then [7] else []
    let finish := fun (a : State) (b : Option (Int × List Nat × Nat × Nat)) => match b with
      | some (d, w, e, f) => (a.rowDone st r.pos r.track (.use d w e f none (d == prim)) 2).count st r.track.val (lost d)
      | none => a.rowDone st r.pos r.track .failed 2
    match l[r.tries]? with
    | none => finish drop r.back
    | some (rung, d, o) =>
      let x := tryRow (rowAt (cells o) d) d (d == prim) (k.okFor r.pos r.track)
      let back := if r.back.isSome then r.back else x.2.2
      let first := r.tries = 0 ∨ (l[r.tries - 1]?).map (·.1) ≠ some rung
      let cnt := fun (a : State) => if first then a.count st r.track.val [12 + rung] else a
      match x.1 with
      | some out => (cnt (drop.rowDone st r.pos r.track out rung)).count st r.track.val
          (match out with | .use _ _ _ _ _ _ => lost d | _ => [])
      | none =>
        if r.tries + 1 ≥ l.length then cnt (finish drop back)
        else cnt (s.modStn st fun k => k.modLink fun y => { y with retry := { r with tries := r.tries + 1, back := back } :: rest })

/-! ### The row-position grid (R199) -/

/-- The marker spelt by 32 clock-track cells, first cell first: 0 position 0 of a gathering, 1 positions 1 to 7, 2 a band, 3
a splice slot. -/
def markerOf (l : List Bool) : Option Nat :=
  let head := l.take 16
  if l.length < 32 || !((List.range 8).all fun i => l.getD (16 + 2 * i) false) then none
  else if head = markerCells (.gathering 0 .data 0) then some 0
  else if head = markerCells (.gathering 0 .data 1) then some 1
  else if head = markerCells (.band 0) then some 2
  else if head = markerCells .splice then some 3 else none

/-- Gathering slots begun by the x-th place of the layout, counted from the start of a wrap (R62). -/
def slotsTo (x : Nat) : Nat := 4 * (x / 33) + min (x % 33) 31 / 8

/-- Rewrite bands begun by the x-th place of the layout. -/
def bandsTo (x : Nat) : Nat := x / 33 + x % 33 / 32

/-- The phase of the gathering that follows a phase. -/
def nextBase (ph : Nat) : Nat := if ph ≥ 24 then 0 else 8 * (ph / 8 + 1)

/-- Splice positions at the end of the grid so far. -/
def Link.splices (k : Link) : Nat := (k.rx.reverse.takeWhile fun p => p.kind == .splice).length

/-- The position that follows, as its marker and the ones before it tell it, `gap` positions having gone by unseen: its kind is that
of its marker, or of the layout where that does not show; a gathering after a splice slot that broke into one is that gathering
again (R56, R62, R65, R474; DEDUCED, log 30). -/
def Link.placed (k : Link) (n : Nat) (c : BitVec 32) (gap : Nat) (m : Option Nat) : RxPos :=
  let at_ := fun (kind : PosKind) (known : Bool) (ph ord band : Nat) =>
    ({ num := n, cell := c, kind := kind, known := known, lost := false, phase := ph, ord := ord, bandNo := band, tried := 0, done := 0 } : RxPos)
  match (if k.cut then none else k.rx.getLast?) with
  | none => match m with
    | some 1 => at_ (.gathering 0 .data 1) false 1 (k.rxOrd + 1) k.rxBand
    | some 2 => at_ (.band 0) false 32 k.rxOrd (k.rxBand + 1)
    | some 3 => at_ .splice false 31 k.rxOrd k.rxBand
    | _ => at_ (.gathering 0 .data 0) false 0 (k.rxOrd + 1) k.rxBand
  | some p =>
    let spl := gap = 0 ∧ p.kind = .splice
    let x := p.phase + (gap - if p.kind = .splice then min gap (8 - k.splices) else 0)
    let ph := x % 33
    let ord := p.ord + slotsTo x - slotsTo p.phase
    let band := p.bandNo + bandsTo x - bandsTo p.phase
    let inside := !spl && decide (ph < 32) && ph % 8 != 7
    let next := fun (i : Nat) => at_ (.gathering 0 .data i) false (nextBase ph + i) (ord + 1) band
    match m with
    | some 2 => at_ (.band 0) false 32 ord (band + 1)
    | some 3 => at_ .splice false ph ord band
    | some 0 => if spl ∧ ph < 32 ∧ ph % 8 ≠ 7 then at_ (.gathering 0 .data 0) false (ph - ph % 8) ord band else next 0
    | some _ | none =>
      if inside then
        match p.kind, decide (gap = 0) with
        | .gathering g kd i, true => at_ (.gathering g kd (i + 1)) p.known (ph + 1) ord band
        | _, _ => at_ (.gathering 0 .data (ph % 8 + 1)) false (ph + 1) ord band
      else if m.isSome then next 1
      else if spl ∧ k.splices < 8 then at_ .splice false ph ord band
      else if ph = 31 ∧ !spl then at_ (.band 0) false 32 ord (band + 1)
      else next 0

/-- A position enters the grid; its number counts the positions that have passed since the last one. The last 32 are kept, and
those of which a row waits in the retry store (R207; DESIGN CHOICE, log 126). -/
def Link.addPos (k : Link) (c : BitVec 32) (m : Option Nat) : Link :=
  let n := match (if k.cut then none else k.rx.getLast?) with
    | some p => max k.rxNum (p.num + ((c - p.cell).toNat + 2608) / 5216)
    | none => k.rxNum
  let p := k.placed n c (n - k.rxNum) m
  let old := (k.rx.zipIdx.filter fun x => x.2 + 31 ≥ k.rx.length || k.retry.any fun r => r.pos == x.1.num).map (·.1)
  { k with rx := old ++ [p], rxNum := n + 1, rxOrd := p.ord, rxBand := p.bandNo, rxRun := if k.cut then n else k.rxRun, cut := false
           grid := some (c + 5216), missed := 0 }

/-- CLOCK_TRACK_MARKER: a marker at a cell (R199). Two markers 5,216 cells apart establish the grid, and both positions
belong to it; on the grid it is followed within 3 cells; two splice markers re-establish it anywhere. Every marker of the last
5,216 cells is kept, for the tail of one pattern can spell another (DEDUCED, log 66). -/
def Link.marker (k : Link) (c : BitVec 32) (m : Nat) : Link :=
  let before := k.marks.find? fun l => c - l.1 == 5216
  let spl := m == 3 && before.any fun l => l.2 == 3
  let k1 := { k with marks := (c, m) :: k.marks.filter fun l => (c - l.1).toNat < 5216 }
  let pair := fun (x : Link) => (x.addPos (c - 5216) (before.map fun l => l.2)).addPos c (some m)
  match k.grid with
  | some g =>
    if (c - g).toInt.natAbs ≤ 3 then k1.addPos c (some m)
    else if spl then pair { k1 with grid := none }
    else k1
  | none => if before.isSome then pair k1 else k1

/-- The grid's next position has gone by without its marker; the third in a row makes the grid void (R199). -/
def Link.passed (k : Link) (c : BitVec 32) : Link :=
  match k.grid with
  | some g =>
    if (c - g).toInt > 34 then
      if k.missed ≥ 2 then { k with grid := none, missed := 0 }
      else { (k.addPos g none) with missed := k.missed + 1 }
    else k
  | none => k

/-- One clock-track cell. -/
def Link.clockCell (k : Link) (c : BitVec 32) (b : Bool) : Link :=
  let l := ((c, b) :: k.clkBits).take 32
  let k1 := { k with clkBits := l }
  let k2 := match markerOf (l.reverse.map (·.2)) with
    | some m => k1.marker (c - 31) m
    | none => k1
  k2.passed c

/-- The clock-track cells of a frame that are new; cells of a gap carry no transition (R175). -/
def Link.clockCells (k : Link) (cell0 : BitVec 32) (l : List Bool) : Link :=
  let next := match k.clkBits.head? with
    | some x => x.1 + 1
    | none => cell0
  let gap := (cell0 - next).toInt
  let k1 := if gap > 0 then
      (List.range (min gap.toNat 64)).foldl (fun a i => a.clockCell (cell0 - BitVec.ofNat 32 (min gap.toNat 64) + BitVec.ofNat 32 i) false) k
    else k
  (l.drop (-gap).toNat).zipIdx.foldl (fun a b => a.clockCell (cell0 + BitVec.ofNat 32 ((-gap).toNat + b.2)) b.1) k1

/-- The cell count is void from a cell on: no grid, the positions that reach it not received, and the detectors start anew (R198,
R202). -/
def Link.cellsVoid (k : Link) (g : Image) (c : BitVec 32) : Link :=
  { k with grid := none, marks := [], missed := 0, clkBits := [], lostCnt := true
           rx := k.rx.map fun p => if (p.cell + 5216 - c).toInt > 0 then { p with lost := true } else p
           peaks := Vector.replicate 128 ⟨g.thrInit * 256, none⟩ }

end Sys2Proof.Machine
end

