-- ==== Sys2Proof/Machine/LinkOps.lean ====
section
/-!
DEFINITION. The Swiosh link (06): frames in and out, sideband containers, CTRL messages and the head-end's configuration,
lane training, link loss and recovery.
-/
namespace Sys2Proof.Machine

/-! ### Fields of frames and containers (R170, Tables 6.1 to 6.5) -/

/-- Field of message bits m(a) to m(a + n - 1). -/
def frameField (x : BitVec 5140) (a n : Nat) : Nat := bits x (5140 - a - n) n
/-- Bits a to a + n - 1 of an upstream container. -/
def boxField (x : BitVec 208) (a n : Nat) : Nat := bits x (208 - a - n) n
/-- One bit of an upstream container. -/
def boxBit (x : BitVec 208) (a : Nat) : Bool := boxField x a 1 == 1

/-! ### CTRL (R192, R193) -/

/-- HEAD_END_CONFIG: after a link-up the formatter reads HE_CAP, writes the station's list from PINS and reads every value
back (R193); it reads HE_IFS and HE_STATUS too (DESIGN CHOICE, log 31). -/
def Link.configure (k : Link) (l : List (BitVec 16 × BitVec 32)) : Link :=
  let k0 := { k with reqs := [], cfgDone := false }
  let k1 := ((k0.ask false heCapAddr 0).ask false heIfsAddr 0).ask false heStatusAddr 0
  let k2 := l.foldl (fun a p => a.ask true p.1 p.2) k1
  l.foldl (fun a p => a.ask false p.1 0) k2

/-- Whether HE_CAP is what a conforming head-end shows: 128 data tracks, a highest n of at least 40, and no other bits but
16 and 17 (Table 6.8), which may be either way (DESIGN CHOICE, log 120). -/
def capOk (x : BitVec 32) : Bool := bits x 0 8 == 128 && bits x 8 8 ≥ 40 && bits x 18 14 == 0

/-- The value that the list of PINS last gives an address. -/
def listed (l : List (BitVec 16 × BitVec 32)) (a : BitVec 16) : Option (BitVec 32) :=
  (l.reverse.find? fun p => p.1 == a).map (·.2)

/-- MODE of a MOUNT: 0 read, 1 append, 2 blank. -/
def mountMode (e : Entry) : Nat := e.flags.toNat % 4

/-- The geometry that a MOUNT names or, where it names none, the first of the image: the reel set has to be there before the
endpaper is read (DESIGN CHOICE, log 57). -/
def State.mountGeo (s : State) (e : Entry) : List Byte :=
  if mountMode e = 2 then (s.img.geo? (e.cd 0 4)).getD [] else s.img.geos.headD []

/-- The geometry a station works by: its volume's, its mount's, or that of the MOUNT under way. -/
def State.geoOf (s : State) (st : Stn) : List Byte :=
  let t := s.stns[st]
  match t.ctx, t.mount, t.mountCmd.bind s.cmd? with
  | some v, _, _ => v.geo
  | none, some m, _ => m.geo
  | none, none, some k => s.mountGeo k.entry
  | none, none, none => s.img.geos.headD geoL1

/-- The reel set that belongs to a descriptor (R244). -/
def Image.reelOf (g : Image) (geo : List Byte) : List Byte := g.reelSet (g.geos.findIdx fun d => d == geo)

/-- y* of a wrap, without a rung 3 offset, in nm (R237). -/
def setPoint (g : Image) (geo : List Byte) (st : Stn) (wrap : Nat) : Int :=
  geoServo geo + ((wrap % max (geoWpb geo) 1) * geoPitch geo : Nat) - g.headY st.val

/-- Whether no set-point of the first `n` wraps of a band lies more than 20 µm from the centreline (R237). -/
def reachable (g : Image) (geo : List Byte) (st : Stn) (n : Nat) : Bool :=
  (List.range (max n 1)).all fun k => (setPoint g geo st k).natAbs ≤ 20000

/-- The wraps that a MOUNT's geometry must reach before its loops close: those of the descriptor it names, or wrap 0, where its
endpaper is read (R237). -/
def mountWraps (e : Entry) (geo : List Byte) : Nat := if mountMode e = 2 then geoWpb geo else 1

/-- Threading and the reel set of a MOUNT, and what it starts anew: kappa at 1, the repetitive tables clear, the skew tables at 0 and to
be calibrated (R195, R222, R226, R244, R246); the offsets of a calibration are against entries of 0 (DEDUCED, log 156). -/
def Station.thread (t : Station) (g : Image) (st : Stn) (blank : Bool) (geo : List Byte) : Station :=
  { t with
    servo := { t.servo with
      threaded := true, kappaS := 65536, kappaT := 65536, reelSet := g.reelOf geo
      lateral := { t.servo.lateral with ch := { t.servo.lateral.ch with table := [] } }
      skewL := { t.servo.skewL with ch := { t.servo.skewL.ch with table := [] } }
      aux := { t.servo.aux.loadNew (g.auxSet st.val 0) with ch := { t.servo.aux.ch with table := [] } }
      tensCh := { t.servo.tensCh with table := [] } }
    link := { t.link with calLeft := #v[if blank then 8 * 128 else 256 * 128, 256 * 128], calOfs := Vector.replicate 2 [],
                          skew := Link.reset.skew } }

/-- A MOUNT that waits for its station goes on once it is Open: the reel set is written, the cartridge threaded where it is not, and
the loops close (R222, R244, R246); with a set-point beyond 20 µm it fails (R237). -/
def State.mountGo (s : State) (st : Stn) : State :=
  let t := s.stns[st]
  match t.mountCmd with
  | none => s
  | some r => match s.cmd? r with
    | none => s
    | some k =>
      if t.servo.motion ≠ .open_ ∨ t.servo.closing ∨ k.entry.opc ≠ 0x85 ∨ k.phase ≠ .queued then s
      else
        let geo := s.geoOf st
        let s1 := s.modCmd r fun k => { k with phase := .threading }
        if t.ctx.isSome then (s1.modStn st fun t => t.modServo fun v => { v with reelSet := s.img.reelOf geo }).closeLoops st
        else if !reachable s.img geo st (mountWraps k.entry geo) then (s.dismount st).finish r (.st 0xC)
        else (s1.modStn st fun t => t.thread s.img st (mountMode k.entry == 2) geo).closeLoops st

/-- A MOUNT whose station the Hold state overtook waits for it to be Open, as one that finds its reels turning (Table 7.12; DEDUCED, log
161). -/
def State.mountWaits (s : State) (st : Stn) : State :=
  match (s.stns[st]).mountCmd with
  | none => s
  | some r => s.modCmd r fun k => { k with
      phase := if k.entry.opc = 0x85 ∧ [Phase.threading, .readEndpaper, .rebuilding].contains k.phase then .queued else k.phase }

/-- HOLD_EXIT: a station in Hold whose head-end is at rest and whose motor bus has recovered is Open; what waited for that goes on
(R245, R250). -/
def State.holdExit (s : State) (st : Stn) : State :=
  let t := s.stns[st]
  if t.servo.motion = .hold ∧ t.link.atRest ∧ !t.speed.busHeld then
    let s1 := ((s.modStn st fun t => t.modServo fun v => { v with motion := .open_ }).mountWaits st).mountGo st
    match (s1.stns[st]).mountCmd.bind s1.cmd? with
    | some k => if k.phase = .opening then s1.openStation st else s1
    | none => s1
  else s

/-- A response to a request of the formatter. A wrong HE_CAP, a value that reads back wrong, or an error in answer to
either, is a head-end mismatch and faults the station (R193). -/
def State.answer (s : State) (st : Stn) (r : CtrlReq) (err : Bool) (data : BitVec 32) : State :=
  let l := s.img.heList st.val
  let s1 := s.modStn st fun t => t.modLink fun k => { k with
    reqs := dropFirst (· == r) k.reqs
    heId := if !r.write && r.addr = 0 && !err then data else k.heId
    heCap := if !r.write && r.addr = heCapAddr && !err then data else k.heCap
    heIfs := if !r.write && r.addr = heIfsAddr && !err then data else k.heIfs
    atRest := if !r.write && r.addr = heStatusAddr && !err then data.getLsbD 0 else k.atRest
    heHold := if !r.write && r.addr = heStatusAddr && !err then data.getLsbD 1 else k.heHold }
  let bad := if r.addr = heCapAddr then err || !capOk data
    else if r.write then err
    else match listed l r.addr with
      | some v => err || v != data
      | none => false
  if bad && !(s.stns[st]).link.cfgDone then
    let s2 := (s1.raise (67 + 16 * st.val)).modStn st fun t => t.modLink fun k => { k with reqs := [], cfgDone := true }
    (s2.faultStation st .headEnd).modStn st fun t => t.modLink Link.askRest
  else
    let s2 := s1.modStn st fun t =>
      let left := t.link.reqs.any fun x => x.addr == heCapAddr || x.write || (listed l x.addr).isSome
      if t.link.cfgDone ∨ left then t
      else { t with link := { t.link with cfgDone := true }, faults := t.faults.filter (· != StnFault.headEnd) }
    let s3 := s2.holdExit st
    let t := s3.stns[st]
    if r.addr = heStatusAddr && !t.link.atRest && (t.link.lost || t.servo.motion == .hold) then
      s3.modStn st fun t => t.modLink Link.askRest
    else s3

/-! ### Upstream frames (R173 to R176, R190, R199) -/

/-- Frames that a lane keeps samples of: more than two row positions (log 32). -/
def keptFrames : Nat := 256

/-- A frame as a lane has received it: its message, corrected where it could be, and the number of symbols corrected; none of them
where the code failed, and the frame is discarded (R169). -/
structure Received where
  msg : BitVec 5140
  fix : Option Nat
  deriving DecidableEq, Repr

/-- The line bits at a lane's receive pair, with its polarity setting, as a frame (R168, R169). -/
def State.received (s : State) (st : Stn) (lane : Lane) (line : RxFrame) : Received :=
  let x := polarity (s.img.inverts st.val lane.val true) line
  match lineDecode x with
  | some r => ⟨r.1, some r.2⟩
  | none => ⟨x.extractLsb' 300 5140, none⟩

/-- A line that carries the codeword of a message at the polarity of its pair is received as that message, with no symbol corrected. -/
theorem State.received_lineOf (s : State) (st : Stn) (lane : Lane) (m : BitVec 5140) :
    s.received st lane (polarity (s.img.inverts st.val lane.val true) (lineOf m)) = ⟨m, some 0⟩ := by
  simp [State.received, lineDecode_lineOf]

/-- Whether a frame shows SYNC. -/
def Received.sync (f : Received) : Bool := frameField f.msg 0 20 == 0xF0C35
/-- The type of a frame that is taken; 0 where it is not. -/
def Received.type (f : Received) : Nat := if f.fix.isSome && f.sync then frameField f.msg 20 4 else 0

/-- The lane's own part of an upstream frame: FEC, SYNC, continuity and samples. A frame whose first cell lies before the cell that
is due breaks the chain: what was kept is no longer the tape's (R175). -/
def LaneRx.take (l : LaneRx) (f : Received) : LaneRx :=
  let x := f.msg
  let n := frameField x 64 8
  let l1 := { l with
    wrongSync := if f.sync then 0 else l.wrongSync + 1, badFec := if f.fix.isSome then 0 else l.badFec + 1, fixed := f.fix.getD l.fixed }
  let seq := BitVec.ofNat 8 (frameField x 24 8) + 1
  match f.type with
  | 0 => l1
  | 9 =>
    let cell := BitVec.ofNat 32 (frameField x 32 32)
    let run : SampleRun := {
      cell := cell, fly := frameField x 76 1 == 1,
      bytes := (List.range (8 * min n 69)).map fun i => BitVec.ofNat 8 (frameField x (706 + 8 * i) 8) }
    let old := if l.started && (cell - l.cell).toInt < 0 then [] else l1.frames
    { l1 with started := true, seq := seq, cell := cell + BitVec.ofNat 32 n, frames := (run :: old).take keptFrames }
  | 0xA => { l1 with started := true, seq := seq }
  | _ => { l1 with badType := l1.badType + 1 }

/-- Whether n cells from write cell number c on share a cell with a position that begins at write cell number p. -/
def overlaps (c : BitVec 32) (n : Nat) (p : BitVec 32) : Bool := 0 < n && ((c - p).toNat < 5216 || (p - c).toNat < n)

/-- Positions that share a cell with n cells from write cell number c on are marked on some lanes; `base` is the number of the first
cell laid out (R34, R190, R241). -/
def Write.markCells (w : Write) (base c : BitVec 32) (n : Nat) (lanes : BitVec 16) : Write :=
  let mark := fun (x : BitVec 32) (p : TxPos) => if overlaps c n x then { p with off := p.off ||| lanes } else p
  { w with toSend := w.toSend.mapIdx fun i p => mark (base + BitVec.ofNat 32 (5216 * i)) p, sent := w.sent.map fun p => mark p.cell p }

/-- DFAIL on a lane: the frames that may have failed are those sent 6 to 8 frames ago, two legs of 110 ns and up to a frame period
back (R179, R190; DEDUCED, log 121). The rows marked are those of the failed lane's own tracks, also where lanes 0 and 1 fail together
and the head-end writes the clock tracks itself (DESIGN CHOICE, log 155). -/
def Station.downFailed (t : Station) (lane : Lane) : Station :=
  t.modWrite fun w => (((t.link.lanes[lane]).sentRuns.drop 5).take 3).foldl (fun a r =>
    a.markCells t.link.wcell r.1 r.2 (BitVec.twoPow 16 lane.val)) w

/-- STAT of an upstream frame (Tables 6.2 and 6.3): DFAIL on any lane; SRC, FLY, HOLD and LOST on lanes 0 and 1. An idle frame carries
no cell number: LOST then holds from the cell that is due on its lane. -/
def State.rxStat (s : State) (st : Stn) (lane : Lane) (x : BitVec 5140) : State :=
  let s1 := if frameField x 78 1 = 1 then s.modStn st fun t => t.downFailed lane else s
  if lane.val > 1 then s1
  else s1.modStn st fun t => t.modLink fun k =>
    let k1 := { k with srcB := frameField x 75 1 == 1, fly := frameField x 76 1 == 1, heHold := frameField x 80 1 == 1 }
    let cell := if frameField x 20 4 = 9 then BitVec.ofNat 32 (frameField x 32 32) else (k.lanes[lane]).cell
    if frameField x 77 1 = 1 then k1.cellsVoid s.img cell else k1

/-- The sideband containers of an upstream frame (R178). -/
def boxesOf (lane : Lane) (x : BitVec 5140) : List (Bool × BitVec 208) :=
  let box := fun o => (lane == 0, BitVec.ofNat 208 (frameField x o 208))
  (if frameField x 498 16 == (frameField x 290 16 + 1) % 65536 then [box 498] else []) ++ [box 290]

/-- The clock-track cells of an upstream frame reach the grid, on the track that the head-end follows (R199). -/
def Station.rxClock (t : Station) (x : BitVec 5140) : Station :=
  let clk := if frameField x 75 1 = 1 then 221 else 152
  let cells := (List.range (min (frameField x 64 8) 69)).map fun i => frameField x (clk + i) 1 == 1
  { t with link := { t.link with lostCnt := false }.clockCells (BitVec.ofNat 32 (frameField x 32 32)) cells }

/-- UPSTREAM_FRAME on a lane. -/
def State.rxFrame (s : State) (st : Stn) (lane : Lane) (line : RxFrame) : State :=
  let t := s.stns[st]
  if !(t.link.lanes[lane]).up then s
  else
    let f := s.received st lane line
    let x := f.msg
    let s1 := s.modStn st fun t => t.modLink fun k => k.modLane lane fun l => l.take f
    if f.type ≠ 9 ∧ f.type ≠ 0xA then s1
    else
      let s2 := s1.rxStat st lane x
      if f.type ≠ 9 ∨ lane.val > 1 then s2
      else
        let s3 := s2.modStn st fun t => t.modLink fun k => { k with inBox := (boxesOf lane x ++ k.inBox).take 16 }
        if frameField x 77 1 = 1 then s3 else s3.modStn st fun t => t.rxClock x

/-! ### Downstream frames (R172, R177, R178, R190, R191) -/

/-- The 5,216 cells of a track in a position (R43 to R50, R63 to R65). -/
def posCells (v : VolCtx) (w : Write) (p : TxPos) (t : Track) : List Bool :=
  let row := fun (g : Nat) (r : Nat) => match w.gaths.find? fun x => x.gnum == g with
    | some x => rowCells x.kind.row r (g % 2 ^ 18) (gathRow (x.area v) r)
    | none => fillerCells 0 (g % 2 ^ 18)
  match p.kind with
  | .gathering g _ i => row g (rowOn g i t.val)
  | .band _ => match p.slots.getD t.val .filler with
    | .copy g _ r => row g r
    | .filler => fillerCells 0 (p.lastG % 2 ^ 18)
  | .splice => fillerCells 1023 (p.lastG % 2 ^ 18)
  | .tail g _ => fillerCells 0 (g % 2 ^ 18)

/-- Cell o of what a track of the run being sent carries; past the layout, run-out fill (R116). -/
def txCell (v : VolCtx) (w : Write) (t : Track) (o : Nat) : Bool :=
  match w.toSend[o / 5216]? with
  | some p => (posCells v w p t).getD (o % 5216) false
  | none => true

/-- The clock-track cell o of the run being sent. -/
def txClock (w : Write) (o : Nat) : Bool :=
  match w.toSend[o / 5216]? with
  | some p => (clockCells p.kind).getD (o % 5216) false
  | none => true

/-- Cells that may be sent in a frame: none unless the feed runs, and none past the layout while writing (R191). -/
def Station.cellsDue (t : Station) (done ncell : Nat) : Nat :=
  match t.write.feed with
  | .writing => min (min ncell 69) (5216 * t.write.toSend.length - done)
  | .runOut => min ncell 69
  | _ => 0

/-- A downstream container: SLOT, VALID and the commands (Table 6.4). -/
def boxBits (slot : BitVec 16) (cmds : List (BitVec 3 × BitVec 24 × BitVec 16)) : List Bool :=
  let at_ := fun (c : Nat) => cmds.reverse.find? fun x => x.1.toNat == c
  bitsOfNat 16 slot.toNat ++ (List.range 5).map (fun c => (at_ c).isSome) ++ bitsOfNat 3 0
    ++ (List.range 5).flatMap fun c => match at_ c with
      | some x => bitsOfNat 24 x.2.1.toNat ++ bitsOfNat 16 x.2.2.toNat
      | none => bitsOfNat 40 0

/-- Slots that have ended since the frame before: two where SEQ is a multiple of 16 (R177), the slot that ends as the frame starts
being taken as one that has ended (R178; DESIGN CHOICE, log 122). -/
def slotsOf (seq : BitVec 8) : Nat := if seq.toNat % 16 = 0 then 2 else 1

/-- The two containers of a frame and the commands in each; the second is used where two slots have ended (R177, R178). -/
def Link.containers (k : Link) (seq : BitVec 8) (second : List (BitVec 3 × BitVec 24 × BitVec 16)) : List Bool :=
  boxBits k.slot k.outCmds
    ++ (if slotsOf seq = 2 then boxBits (k.slot + 1) second else bitsOfNat 16 k.slot.toNat ++ bitsOfNat 208 0)

/-- The seek profile over n sideband slots: the point that falls due in them with the slot it falls in, and what is left
(R238, R389). -/
def Servo.seekTick (v : Servo) (dt n : Nat) : Option (Nat × BitVec 24) × Servo :=
  match v.seek with
  | some ⟨b, x, y, p :: r, due⟩ =>
    if v.motion ≠ .moving ∧ v.motion ≠ .tensioned then (none, v)
    else if due < n then (some (due, p), { v with seek := some ⟨b, x, y, r, due + max (25 * dt) n - n⟩ })
    else (none, { v with seek := some ⟨b, x, y, p :: r, due - n⟩ })
  | _ => (none, v)

/-- A CTRL request as a message (R192). -/
def CtrlReq.bits (r : CtrlReq) : List Bool :=
  bitsOfNat 2 (if r.write then 1 else 2) ++ bitsOfNat 6 r.tag.toNat ++ bitsOfNat 16 r.addr.toNat ++ bitsOfNat 8 0 ++ bitsOfNat 32 r.data.toNat

/-- The first tag from the next one on that no request which waits for an answer carries. -/
def Link.freeTag (k : Link) : BitVec 6 :=
  let tags := (List.range 64).map fun i => k.nextTag + BitVec.ofNat 6 i
  (tags.find? fun x => !(k.reqs.any fun r => r.sent && r.tag == x)).getD k.nextTag

/-- The request that the next frame carries, with its tag: the oldest not sent, while fewer than 64 wait for an answer (R192). -/
def Link.nextReq (k : Link) : Option CtrlReq :=
  if (k.reqs.filter (·.sent)).length < 64 then (k.reqs.find? fun r => !r.sent).map fun r => { r with tag := k.freeTag } else none

/-- A request has been sent. -/
def Link.sendReq (k : Link) (r : CtrlReq) : Link :=
  { k with reqs := modFirst (fun x => !x.sent) (fun _ => { r with sent := true }) k.reqs, nextTag := r.tag + 1 }

/-- What a position's last cell brings about: dead tracks noted at its start, a gathering or a band recorded (R121, R127,
R115; LIFEG and LIFEB of Table 2.8). -/
def State.posSent (s : State) (st : Stn) (p : TxPos) : State :=
  let s1 := s.modStn st fun t => t.modWrite fun w => { w with toSend := w.toSend.drop 1, sent := w.sent ++ [p], cellPos := w.cellPos + 5216 }
  match p.kind with
  | .gathering n _ i =>
    let s2 := s1.modStn st fun t => t.modWrite fun w => { w with gaths := w.gaths.map fun (g : Gath) =>
      if g.gnum = n then
        { g with dead := if i = 0 then w.deadTracks else g.dead, recorded := g.recorded || i == 7,
                 reachEnd := if i = 7 then p.bandNo + 4 else g.reachEnd }
      else g }
    if i ≠ 7 then s2
    else
      match (s2.stns[st]).write.gaths.find? fun g => g.gnum == n with
      | none => s2
      | some g =>
        let s3 := s2.modStn st fun t => t.modCtx fun v => { v with
          recs := v.recs.map fun r => if g.segs.any fun x => x.lon == r.lon then { r with recorded := true } else r }
        { s3 with ledger := { s3.ledger with lifeG := s3.ledger.lifeG + 1, lifeB := s3.ledger.lifeB + BitVec.ofNat 64 g.payload.length } }
  | .band _ => s1.modStn st fun t => t.modWrite fun w => { w with bands := w.bands + 1 }.expire
  | _ => s1

/-- In a quiesce WGATE_N_s rises as soon as the position in progress is done, and no run-out fill is sent (R400 step 2). -/
def State.quiesceGate (s : State) (st : Stn) : State :=
  if s.rst.stage = .quiesce ∧ (s.stns[st]).write.toSend.isEmpty then
    s.modStn st fun t => { t with
      wgate := true, write := { t.write with feed := .off }
      link := t.link.endRun }
  else s

/-- The lanes that are down, which have not sent what the others have (R34). -/
def Link.lanesDown (k : Link) : BitVec 16 := BitVec.ofNat 16 (natOfBits (allLanes.map fun l => !(k.lanes[l]).up).reverse)

/-- The oldest position leaves the layout once every lane that is up has sent its cells; its rows on the others were not written
(R34). -/
def State.popSent (s : State) (st : Stn) : State :=
  let t := s.stns[st]
  match t.write.toSend with
  | [] => s
  | p :: _ =>
    if allLanes.all fun l => !(t.link.lanes[l]).up || (t.link.lanes[l]).txCells ≥ 5216 then
      let s1 := s.modStn st fun t => t.modLink fun k => { k with
        wcell := k.wcell + 5216, lanes := k.lanes.map fun l => { l with txCells := l.txCells - 5216 } }
      let s2 := (s1.posSent st { p with cell := t.link.wcell, off := p.off ||| t.link.lanesDown }).settle st
      (s2.modStn st fun t => t.modWrite Write.fillOver).quiesceGate st
    else s

/-- The message of a downstream frame that carries n cells on a lane (R172, Table 6.1), or of an idle one (R188). -/
def State.txBits (s : State) (st : Stn) (lane : Lane) (n : Nat) (wg : Bool) (ctrl : List Bool) (sb : BitVec 448) : List Bool :=
  let t := s.stns[st]
  let l := t.link.lanes[lane]
  let side := lane.val ≤ 1
  let head := fun (ty : Nat) => bitsOfNat 20 0xF0C35 ++ bitsOfNat 4 ty ++ bitsOfNat 8 l.txSeq.toNat
  if s.power.state ≥ 2 then head 2 ++ bitsOfNat 56 0 ++ ctrl
  else
    let data := match t.ctx with
      | some v => (List.range n).flatMap fun i => (List.range 8).map fun j => txCell v t.write ⟨(8 * lane.val + j) % 128, by omega⟩ (l.txCells + i)
      | none => List.replicate (8 * n) true
    let clk := if side then (List.range n).map (fun i => txClock t.write (l.txCells + i)) ++ List.replicate (69 - n) false else List.replicate 69 false
    head 1 ++ bitsOfNat 32 (t.link.wcell.toNat + l.txCells) ++ bitsOfNat 8 n ++ bitsOfNat 8 (if t.write.feed = .off then 0 else 8 + t.servo.clkStep)
      ++ [wg, !t.men] ++ bitsOfNat 6 0 ++ ctrl ++ clk ++ (if side then bitsOfNat 448 sb.toNat else bitsOfNat 448 0)
      ++ data ++ List.replicate (8 * (69 - n)) false

/-- What sending n cells on a lane changes there: SEQ, the run, and the frames that DFAIL may speak of. -/
def LaneRx.sentFrame (l : LaneRx) (wcell : BitVec 32) (n : Nat) : LaneRx :=
  { l with txSeq := l.txSeq + 1, txCells := l.txCells + n,
           sentRuns := ((wcell + BitVec.ofNat 32 l.txCells, n) :: l.sentRuns).take 8 }

/-- DOWNSTREAM_FRAME on a lane with `ncell` cells due. The lane that leads, 0 or else 1, carries a request of CTRL, the commands of
the slots that have ended, and the points of a seek profile that fell due in them, whose APPLY is a free value (log 114). -/
def State.txFrame (s : State) (st : Stn) (lane : Lane) (ncell : Nat) : State :=
  let d := s.draw
  let t := s.stns[st]
  let k := t.link
  let l := k.lanes[lane]
  let idle := s.power.state ≥ 2
  if !l.up then s
  else
    let leads := lane == 0 || (lane == 1 && !(k.lanes[(0 : Fin 16)]).up)
    let slots := slotsOf l.txSeq
    let n := if idle then 0 else t.cellsDue l.txCells ncell
    let req := if leads then k.nextReq else none
    let seek := if leads && !idle then t.servo.seekTick (s.img.seekDt st.val) slots else (none, t.servo)
    let point := fun (i : Nat) => match seek.1 with
      | some (j, p) => if i = j then [((2 : BitVec 3), p, BitVec.ofNat 16 d.1)] else []
      | none => []
    let sb := if leads then BitVec.ofNat 448 (natOfBits ({ k with outCmds := k.outCmds ++ point 0 }.containers l.txSeq (point 1))) else k.lastSb
    let wg := !t.wgate && !t.servo.inhibit
    let m := s.txBits st lane n wg (match req with | some r => r.bits | none => bitsOfNat 64 0) sb
    let line := lineOf (BitVec.ofNat 5140 (natOfBits (m ++ List.replicate (5140 - m.length) false)))
    let k1 := match req with | some r => k.sendReq r | none => k
    let s1 := ((if seek.1.isSome then d.2 else s).modStn st fun t => { t with
      servo := seek.2
      link := { (k1.modLane lane fun x => x.sentFrame k.wcell n) with
        lastSb := sb
        outCmds := if leads then [] else k.outCmds
        slot := if leads then k.slot + BitVec.ofNat 16 slots else k.slot }
      write := if n > 0 && !wg then
          t.write.markCells k.wcell (k.wcell + BitVec.ofNat 32 l.txCells) n (BitVec.twoPow 16 lane.val)
        else t.write }).emit (.frame st lane (polarity (s.img.inverts st.val lane.val false) line))
    s1.popSent st

/-! ### Sideband (R179, R182) -/

/-- The container of a slot reaches the control engine, or is missing: where the slot begins a reel period, its readings are those of
the period (R222, R231; the periods' phase a DESIGN CHOICE, log 123). -/
def Servo.period (v : Servo) (slot : BitVec 16) (box : Option (BitVec 208)) : Servo :=
  if slot ≠ v.perNext then v
  else { v with
    perNext := slot + 625, perCnt := if v.closing ∨ v.motion ≠ .open_ ∨ v.perCnt > 0 then v.perCnt + 1 else 0, perSlot := slot
    perBox := box.getD v.perBox, reelSeen := box.isSome, auxSeen := box.isSome }

/-- The servo crossings that a container carries (Table 6.5). -/
def crossingsOf (x : BitVec 208) : List (Bool × BitVec 26) :=
  (List.range 3).filterMap fun i =>
    if boxBit x (112 + 32 * i) then some (boxBit x (113 + 32 * i), BitVec.ofNat 26 (boxField x (118 + 32 * i) 26)) else none

/-- A slot is presented: what its number stood for 65,536 slots ago is over (R178, R218). -/
def Servo.slotComes (v : Servo) (slot : BitVec 16) : Servo := { v with badSlots := v.badSlots.filter (· != slot) }

/-- A slot that spoils the servo frame it lies in joins those that did (R218); 2,048 of them are kept (DESIGN CHOICE, log 162). -/
def Servo.spoil (v : Servo) (slot : BitVec 16) : Servo := { v with badSlots := (slot :: v.badSlots).take 2048 }

/-- A container is presented to the control engine: the copy of lane 0, else that of lane 1, else it is missing. -/
def State.container (s : State) (st : Stn) (slot : BitVec 16) : State :=
  let k := (s.stns[st]).link
  let hit := fun (b : Bool) => k.inBox.find? fun x => x.1 == b && boxField x.2 0 16 == slot.toNat
  let s0 := s.modStn st fun t => t.modLink fun k => { k with inBox := k.inBox.filter fun x => boxField x.2 0 16 != slot.toNat }
  match hit true <|> hit false with
  | none => s0.modStn st fun t => t.modServo fun v => ((v.period slot none).slotComes slot).spoil slot
  | some (_, x) =>
    let s1 := s0.modStn st fun t => { t with
      servo :=
        let v := (t.servo.period slot (some x)).slotComes slot
        let all := v.crossings ++ crossingsOf x
        let v1 := { v with lastBox := x, crossings := all.drop (all.length - 80) }
        if boxBit x 19 then v1.spoil slot else v1
      link := { t.link with heHold := boxBit x 18 } }
    let s2 := if boxBit x 16 then s1.count st 0 [10] else s1
    if boxBit x 19 then s2.count st 0 [11] else s2

/-! ### Lanes (R185, R186) -/

/-- LANE_DOWN: the lane goes down, its event is raised, and it retrains at once (R186). -/
def State.laneDown (s : State) (st : Stn) (lane : Lane) : State :=
  let l := (s.stns[st]).link.lanes[lane]
  if l.up && (l.wrongSync ≥ 3 || l.badFec ≥ 8) then
    (s.modStn st fun t => t.modLink fun k => k.modLane lane fun l =>
      { l with up := false, training := true, wrongSync := 0, badFec := 0, started := false }).raise (65 + 16 * st.val) lane.val
  else s

/-- LANE_TRAINING_DONE: legs of at most 110 ns are padded to 110 ns and the lane comes up; a longer one is a latency fault,
and the link counts as lost from then on (R185), until a lane of the station trains (DESIGN CHOICE, log 124). A lane falls into
step with one that leads (R177), and what it has not sent of the run is not written (R34). The link-up of a lane that carries the
sideband starts the configuration (R193). -/
def State.laneTrained (s : State) (st : Stn) (lane : Lane) (ok : Bool) (upNs downNs : Nat) : State :=
  let t := s.stns[st]
  let l := t.link.lanes[lane]
  if !l.training then s
  else if upNs > 110 ∨ downNs > 110 then
    let s1 := (s.modStn st fun t => { t with
      latency := true, link := t.link.modLane lane fun x => { x with training := false, legUp := upNs, legDown := downNs } }).raise (66 + 16 * st.val) lane.val
    if t.link.lost then s1 else s1.loseLink st
  else if !ok then s.modStn st fun t => t.modLink fun k => k.modLane lane fun x => { x with training := false }
  else
    let side := fun (i : Fin 16) => (t.link.lanes[i]).up
    let first : Lane := if side 0 then 0 else 1
    let hadSide := side 0 || side 1
    let runs := t.write.feed = Feed.writing ∨ t.write.feed = Feed.runOut
    s.modStn st fun t =>
      let k1 := t.link.modLane lane fun x => { x with
        up := true, training := false, wrongSync := 0, badFec := 0, started := false, legUp := 110, legDown := 110, sentRuns := []
        txSeq := if hadSide then (t.link.lanes[first]).txSeq else 0, txCells := if runs then t.link.leadCells else 0 }
      { t with
        latency := false
        link := if lane.val ≤ 1 ∧ !hadSide then k1.configure (s.img.heList st.val) else k1
        write := t.write.markCells t.link.wcell t.link.wcell (if runs then t.link.leadCells else 0) (BitVec.twoPow 16 lane.val) }

/-- LANE_TRAINING_RETRY: a lane that failed training tries again (R186); lanes 1 to 15 stay off in P2 (R188). -/
def State.laneRetry (s : State) (st : Stn) (lane : Lane) : State :=
  let l := (s.stns[st]).link.lanes[lane]
  if l.up ∨ l.training ∨ s.rst.stage = .held ∨ (s.power.state ≥ 2 ∧ lane ≠ 0) then s
  else s.modStn st fun t => t.modLink fun k => k.modLane lane fun x => { x with training := true }

end Sys2Proof.Machine
end

