-- ==== Sys2Proof/Machine/ServoOps.lean ====
section
/-!
DEFINITION. Servo and motion control (07): servo decoding, the loop arithmetic of R224 and Table 7.6, the reel loop, LPOS,
write inhibit, set-points, and what a ramp's end brings about.
-/
namespace Sys2Proof.Machine

/-! ### Arithmetic (R224) -/

/-- The rounded product of a signal and a coefficient with a right shift (R224, steps 1 and 2). -/
def mulShift (x c : Int) (s : Nat) : Int := if s = 0 then x * c else (x * c + 2 ^ (s - 1)) / 2 ^ s
/-- Rounded products summed in the 64-bit accumulator (R224, step 3). -/
def accum (l : List Int) : Int := l.foldl (fun a x => sat64 (a + x)) 0
/-- A quotient that the spec gives exactly and a word must round: down or up, as a free value has it (log 34). -/
def roundFree (f : Nat) (n d : Int) : Int :=
  if d = 0 then f else if n % d = 0 then n / d else Int.fdiv n d + (f % 2 : Nat)

/-! ### Fields of a coefficient set (Table 7.7) -/

/-- A signed coefficient of four bytes. -/
def coef (b : List Byte) (ofs : Nat) : Int := signed 32 (leAt b ofs 4)
/-- NSEC. -/
def setNsec (b : List Byte) : Nat := leAt b 0 1
/-- A FLAGS bit: 0 INT_EN, 1 RC_EN, 2 RC_SRC, 3 FF_EN. -/
def setFlag (b : List Byte) (i : Nat) : Bool := (leAt b 1 1).testBit i
/-- U_MAX. -/
def setUmax (b : List Byte) : Int := leAt b 4 4

/-! ### The stages of a sample (Table 7.6) -/

/-- One section in direct form I: its output and its histories. -/
def section_ (b : List Byte) (k : Nat) (x : Int) (h : SecHist) : Int × SecHist :=
  let o := 0x10 + 28 * k
  let t := fun (i : Nat) (y : Int) => mulShift y (coef b (o + 4 * i)) (leAt b (o + 20 + i) 1)
  let v := (sat32 (accum [t 0 x, t 1 h.x1.toInt, t 2 h.x2.toInt, -(t 3 h.v1.toInt), -(t 4 h.v2.toInt)]))
  (v.toInt, ⟨sat32 x, h.x1, v, h.v1⟩)

/-- Stage 2: the sections in turn. -/
def sections (b : List Byte) (e : Int) (secs : Vector SecHist 8) : Int × Vector SecHist 8 :=
  (List.range (min (setNsec b) 8)).foldl (fun (a : Int × Vector SecHist 8) k =>
    let i : Fin 8 := ⟨k % 8, by omega⟩
    let r := section_ b k a.1 a.2[i]
    (r.1, a.2.set i r.2)) (e, secs)

/-- Stage 3: the integrator candidate. -/
def integCand (b : List Byte) (e i : Int) : Int :=
  if !setFlag b 0 then 0
  else
    let m : Int := leAt b 0xF8 4
    let x := (sat32 (accum [i, mulShift e (coef b 0xF0) (leAt b 0xF4 1)])).toInt
    if x > m then m else if x < -m then -m else x

/-- An entry of the repetitive table. -/
def Channel.tab (c : Channel) (b : Nat) : Int := match c.table.find? fun x => x.1 == b with
  | some x => x.2.toInt
  | none => 0

/-- An entry of the repetitive table written; entries of zero are not listed. -/
def Channel.setTab (c : Channel) (b : Nat) (v : Word) : Channel :=
  let rest := c.table.filter fun x => x.1 != b
  { c with table := if v = 0 then rest else (b, v) :: rest }

/-- The bin of an angle of 14 bits (stage 4). -/
def angleBin (a : BitVec 14) : Nat := bits a 4 10

/-- Stage 4: the table's contribution. -/
def repCand (b : List Byte) (c : Channel) (bin : Nat) : Int :=
  if setFlag b 1 then c.tab ((bin + leAt b 2 1) % 1024) else 0

/-- Stage 5: feed-forward of a reference and its two predecessors. -/
def feedFwd (b : List Byte) (r r1 r2 : Int) : Int :=
  if setFlag b 3 then
    (sat32 (accum [mulShift r (coef b 0x104) (leAt b 0x110 1), mulShift (r - r1) (coef b 0x108) (leAt b 0x111 1),
      mulShift (r - 2 * r1 + r2) (coef b 0x10C) (leAt b 0x112 1)])).toInt
  else 0

/-- Stage 7's learning step for a bin. -/
def Channel.learn (c : Channel) (b : List Byte) (bin : Nat) (e : Int) : Channel :=
  let f := leAt b 3 1
  let t := c.tab bin
  let forget := if f = 0 then 0 else t / 2 ^ f
  c.setTab bin (sat32 (t - forget + mulShift e (coef b 0xFC) (leAt b 0x100 1)))

/-- One sample of a banked loop: the channel after it and the output u (Table 7.6). -/
def Channel.sample (c : Channel) (b : List Byte) (r e : Int) (bin : Nat) : Channel × Int :=
  let s := sections b e c.secs
  let ub := if setNsec b = 0 then e else s.1
  let ic := integCand b e c.integ.toInt
  let uc := (sat32 (accum [ub, ic, repCand b c bin, feedFwd b r c.r1.toInt c.r2.toInt])).toInt
  let c1 := { c with secs := s.2, r1 := sat32 r, r2 := c.r1 }
  if (uc.natAbs : Int) ≤ setUmax b then ({ (c1.learn b bin e) with integ := sat32 ic }, uc)
  else ({ c1 with integ := if setFlag b 0 then c1.integ else 0 }, if uc < 0 then -(setUmax b) else setUmax b)

/-- VALUE: (u + 128) >> 8 in 24 bits (stage 8). For u of 0x7FFF_FF80 and above the spec gives no 24-bit value: it wraps (DESIGN
CHOICE, log 116). -/
def valueOf (u : Int) : BitVec 24 := BitVec.ofInt 24 ((u + 128) / 256)

/-- The angle that a set's table follows, from the latest container (stage 4). -/
def binOf (b : List Byte) (box : BitVec 208) : Nat :=
  angleBin (BitVec.ofNat 14 (if setFlag b 2 then boxField box 38 14 else boxField box 24 14))

/-! ### Servo decoding (R216 to R218, R220) -/

/-- A reader's frame decoded: its stamps in burst order A to D from the frame's first crossing, its position, its end, and
whether its bursts arrived in the order D to A (R217). -/
structure Frame where
  times : List Int
  y     : Int
  sumA  : Int
  last  : BitVec 26
  rev   : Bool
  deriving DecidableEq, Repr

/-- Stamps unwrapped from the first of them. -/
def unwrap (org : BitVec 26) (l : List (BitVec 26)) : List Int := l.map fun t => ((t - org).toNat : Int)

/-- The sum of some elements of a list. -/
def pick (l : List Int) (is : List Nat) : Int := is.foldl (fun a i => a + l.getD i 0) 0

/-- The slot in which a crossing was stamped (R177). -/
def slotAt (t : BitVec 26) : BitVec 16 := t.extractLsb' 10 16

/-- Whether a slot with SOVF or without its container lies between a frame's first and last crossing (R218). -/
def spoilt (bad : List (BitVec 16)) (l : List (BitVec 26)) : Bool :=
  let a := slotAt (l.headD 0)
  bad.any fun s => (s - a).toNat ≤ (slotAt (l.getLastD 0) - a).toNat

/-- Whether two stripes of a burst are 3 to 5 µm apart at a speed (R218). -/
def stripesApart (v : Word) (a b : Int) : Bool :=
  let d := (b - a).natAbs * v.toInt.natAbs
  76800000 * 131072 ≤ d && d ≤ 128000000 * 131072

/-- A reader's frame read in one order of its bursts, if it is valid (R218). `v` is the measured speed, `org` the stamp all
times count from, `f` the free rounding. -/
def frameInOrder (f : Nat) (rev : Bool) (v : Word) (bad : List (BitVec 16)) (org : BitVec 26) (l : List (BitVec 26)) : Option Frame :=
  if l.length ≠ 18 ∨ spoilt bad l then none
  else
    let raw := unwrap org l
    let t := if rev then raw.reverse else raw
    let gapOk := fun (i : Nat) => stripesApart v (t.getD i 0) (t.getD (i + 1) 0)
    let rising := (raw.zip (raw.drop 1)).all fun x => x.1 ≤ x.2
    let sa := pick t [0, 2, 4]
    let sb := pick t [5, 7, 9]
    let sc := pick t [10, 11, 12, 13]
    let sd := pick t [14, 15, 16, 17]
    let den := 3 * sc - 4 * sa
    let y := roundFree f (163840000 * (58 * (4 * (sb - sa) + 3 * (sd - sc)) - 50 * den)) den
    if rising && den != 0 && [0, 1, 2, 3, 5, 6, 7, 8, 10, 11, 12, 14, 15, 16].all gapOk && y.natAbs ≤ 25000 * 65536 then
      some ⟨t, y, sa, l.getLastD 0, rev⟩
    else none

/-- A reader's frame, in forward or reverse travel: the bursts' sizes and places tell the order (R217, R218). -/
def decodeFrameOf (f : Nat) (v : Word) (bad : List (BitVec 16)) (org : BitVec 26) (l : List (BitVec 26)) : Option Frame :=
  frameInOrder f false v bad org l <|> frameInOrder f true v bad org l

/-- The LPOS bit of a frame (R220). -/
def Frame.bit (x : Frame) : Bool :=
  let f := fun (o : Nat) => 2 * x.times.getD (o + 1) 0 + 2 * x.times.getD (o + 3) 0 - x.times.getD o 0 - 2 * x.times.getD (o + 2) 0 - x.times.getD (o + 4) 0
  let sum := f 0 + f 5
  if x.rev then sum < 0 else 0 < sum

/-! ### Speed and direction -/

/-- |v̂| in mm/s. -/
def Servo.speedMm (v : Servo) : Nat := v.vHat.toInt.natAbs / 131072

/-- v̂ from the ends of the last frames: 100 µm over the mean of the last two frame periods (Table 7.4). -/
def speedFromEnds (f : Nat) (rev : Bool) (l : List (BitVec 26)) (old : Word) : Word :=
  match l with
  | e0 :: _ :: e2 :: _ =>
    let x := roundFree f 671088640000000 ((e0 - e2).toNat : Int)
    sat32 (if rev then -x else x)
  | _ => old

/-! ### Servo trace (R422, Table 13.4) -/

/-- One loop sample goes to the servo queue in every SERVO_DIV. -/
def State.servoTrace (s : State) (st : Stn) (ty : Nat) (w1 w2 : BitVec 64) : State :=
  let d := dieOf st
  let n := (s.dies[d]).servoCnt + 1
  if n ≥ s.img.servoDiv then
    (s.modDie d fun x => { x with servoCnt := 0 }).trace d 0 [packetHead ty st.val s.time, w1, w2]
  else s.modDie d fun x => { x with servoCnt := n }

/-! ### Set-points (R237, R239) -/

/-- The VCM commands of a move from one data band to another: the seek profile once for each band crossed, negated away from clock
track B, towards which bands rise (R41, R238, R389). -/
def seekMoves (g : Image) (st : Stn) (old new : Nat) : List (BitVec 24) :=
  let p := g.seekPoints st.val
  (List.range (new - old)).flatMap (fun _ => p) ++ (List.range (old - new)).flatMap (fun _ => p.map (- ·))

/-- The readers leave their servo bands for another data band: the lateral loop opens, the seek profile begins, after what is left of
one under way, and LPOS is acquired afresh (R238). -/
def Servo.leaveBand (v : Servo) (g : Image) (st : Stn) (band : Nat) : Servo :=
  let left := match v.seek with | some q => q.points | none => []
  let due := match v.seek with | some q => q.due | none => 0
  { v with dataBand := band, seek := some ⟨band, false, false, left ++ seekMoves g st v.dataBand band, due⟩, lposOk := false,
           lposWord := none, lposBits := [], lposMiss := 0, settled := false, within := 0, calm := 0, missSrv := 0 }

/-- A station is sent to a wrap: direction, lateral set-point and data band (R41, R237, R238); `ofs` is a rung 3 offset in nm. -/
def State.aim (s : State) (st : Stn) (wrap : Nat) (ofs : Int) : State :=
  let geo := s.geoOf st
  s.modStn st fun t =>
    let band := wrap / max (geoWpb geo) 1
    t.modServo fun v =>
      let v1 := { v with reverse := wrap % 2 == 1, back := none, yTarget := lateralWord (setPoint s.img geo st wrap + ofs) }
      if band = v.dataBand then v1 else v1.leaveBand s.img st band

/-- y* after some time, in HT units: it moves at LAT_SLEW (R237). -/
def slew (lat : Nat) (dt : Nat) (y target : Word) : Word :=
  let m : Int := (lat * dt * 256 / 10000 : Nat)
  let d := target.toInt - y.toInt
  if (d.natAbs : Int) ≤ m then target else sat32 (if d < 0 then y.toInt - m else y.toInt + m)

/-! ### Write inhibit (R241) -/

/-- WRITE_INHIBIT: writing is inhibited from the next downstream frame on, and the event is raised; only while writing, in run-out fill
too, where the gate is still low (DESIGN CHOICE, log 160). -/
def State.inhibitWrite (s : State) (st : Stn) : State :=
  let t := s.stns[st]
  if t.servo.inhibit ∨ t.write.feed = .off ∨ t.write.feed = .resume then s
  else (s.modStn st fun t => t.modServo fun v => { v with inhibit := true, within := 0, calm := 0, settled := false }).raise (70 + 16 * st.val)

/-! ### LATERAL_SAMPLE -/

/-- The skew loop's sample with two valid readers (R219): its set-point is a constant of the device. -/
def State.skewSample (s : State) (st : Stn) (f : Nat) (a b : Frame) (apply : BitVec 16) : State :=
  let t := s.stns[st]
  let pitch : Int := geoBandPitch (s.geoOf st)
  let phi := (sat32 (roundFree f (t.servo.vHat.toInt * (b.sumA - a.sumA) * 625) (96 * pitch))).toInt
  let lp := t.servo.skewL.takeSwap
  let r := (Config.skewSetPoint st.val).toInt
  let e := (sat32 (r - phi)).toInt
  let x := lp.ch.sample lp.set r e (binOf lp.set t.servo.lastBox)
  let val := valueOf x.2
  (s.modStn st fun t => { t with
    servo := { t.servo with skewL := { lp with ch := x.1 }, eSkew := sat32 e }
    link := { t.link with outCmds := t.link.outCmds ++ [(3, val, apply)] } }).servoTrace st 2
      (sat32 e ++ sat32 x.2) (sat32 phi ++ (0 : BitVec 8) ++ val)

/-- The time of the first crossing of a sample. -/
def Servo.origin (v : Servo) : BitVec 26 := match v.crossings.head? with | some x => x.2 | none => 0

/-- What the two servo readers' crossings of a sample decode to (R217, R218). -/
def Servo.frames (v : Servo) (f : Nat) : Option Frame × Option Frame :=
  let of_ := fun (r : Bool) => (v.crossings.filter fun x => x.1 == r).map (·.2)
  let dec := fun (r : Bool) => decodeFrameOf f v.vHat v.badSlots v.origin (of_ r)
  (dec false, dec true)

/-- Both frames, where both readers are valid. -/
def bothFrames (fr : Option Frame × Option Frame) : Option (Frame × Frame) :=
  match fr.1, fr.2 with
  | some x, some y => some (x, y)
  | _, _ => none

/-- The end t_e of a sample whose lateral reader decoded `a`: the last crossing of the later valid reader (R184, R218). -/
def frameEnd (org : BitVec 26) (fr : Option Frame × Option Frame) (a : Frame) : BitVec 26 :=
  match bothFrames fr with
  | some (p, q) => if (p.last - org).toNat < (q.last - org).toNat then q.last else p.last
  | none => a.last

/-- LPOS after one more frame in a direction of travel (R221). -/
def Servo.counted (v : Servo) (rev : Bool) : Nat :=
  if v.lposOk then (if rev then v.lpos - 1 else v.lpos + 1) else v.lpos

/-- What a servo frame tells beside its position, the readers having decoded `fr`: speed, LPOS count and LPOS bit, in the direction
in which its bursts arrived. A frame that no reader gives counts in the direction of the measured speed, and neither speed nor an
LPOS word runs on over it, nor over a change of direction (R220 to R222). -/
def Servo.heed (v : Servo) (f : Nat) (fr : Option Frame × Option Frame) : Servo :=
  match fr.1 <|> fr.2 with
  | none => { v with
      crossings := [], ends := [], lposBits := [], lpos := if v.vHat = 0 then v.lpos else v.counted (decide (v.vHat.toInt < 0)) }
  | some a =>
    let te := frameEnd v.origin fr a
    let on := a.rev == v.lposRev
    let ends := (te :: if on then v.ends else []).take 3
    { v with
      crossings := [], ends := ends, vHat := speedFromEnds f a.rev ends v.vHat, srvAge := 0, lpos := v.counted a.rev
      badSlots := v.badSlots.filter fun s => 0 < (s - slotAt te).toInt
      lposBits := (a.bit :: if on then v.lposBits else []).take 48, lposRev := a.rev }

/-- A sample of the closed lateral loop: the crossings of a servo frame are decoded; with a valid reader
the lateral loop runs, then, with two, the skew loop (R217 to R221, R225, R232). Without one there is no sample (Table 7.11) (DEDUCED,
log 79). A sample beyond WINH_LIM, or with which a swap takes effect, begins the settling anew (R240), and so does a frame
missed (DESIGN CHOICE, log 118). -/
def State.lateralLoop (s : State) (st : Stn) : State :=
  let d := s.draw
  let f := d.1
  let s := d.2
  let t := s.stns[st]
  let v := t.servo
  if v.motion ≠ .moving ∧ v.motion ≠ .tensioned then s
  else
    let fr := v.frames f
    match fr.1 <|> fr.2 with
    | none => (s.modStn st fun t => t.modServo fun v =>
        { v.heed f fr with missSrv := v.missSrv + 1, within := 0, calm := 0, settled := false }).count st 0 [23]
    | some a =>
      let y := match bothFrames fr with
        | some (p, q) => roundFree f (p.y + q.y) 2
        | none => a.y
      let te := frameEnd v.origin fr a
      let apply : BitVec 16 := te.extractLsb' 0 16 + 19200
      let e := (sat32 (v.yStar.toInt - y)).toInt
      let lp := v.lateral.takeSwap
      let x := lp.ch.sample lp.set v.yStar.toInt e (binOf lp.set v.lastBox)
      let val := valueOf x.2
      let ok := e.natAbs ≤ s.img.winhLim st.val * 65536
      let s1 := s.modStn st fun t => { t with
        servo := { v.heed f fr with
          lateral := { lp with ch := x.1 }, missSrv := 0, eLat := sat32 e
          within := if ok then v.within + 1 else 0, calm := if !ok then 0 else if v.lateral.swap then 1 else v.calm + 1
          settled := v.settled && ok && !v.lateral.swap }
        link := { t.link with outCmds := t.link.outCmds ++ [(2, val, apply)] } }
      let s2 := s1.servoTrace st 1 (sat32 e ++ sat32 x.2) (sat32 y ++ (0 : BitVec 8) ++ val)
      let s3 := if ok then s2 else s2.inhibitWrite st
      match bothFrames fr with
      | some (p, q) => s3.skewSample st f p q apply
      | none => s3.count st 0 [22]

/-- A frame while the lateral loop is open for a change of data band (R238): its sections and integrator are held, and VCM gets the
seek profile slot by slot (R389). A valid frame still gives speed and LPOS, and the skew loop its sample (DEDUCED, log 114). -/
def State.seekSample (s : State) (st : Stn) (q : Seek) : State :=
  let d := s.draw
  let v := (s.stns[st]).servo
  let fr := v.frames d.1
  let s1 := d.2.modStn st fun t => t.modServo fun v => { v.heed d.1 fr with seek := some { q with both := (bothFrames fr).isSome } }
  match bothFrames fr with
  | some (x, y) => s1.skewSample st d.1 x y ((frameEnd v.origin fr x).extractLsb' 0 16 + 19200)
  | none => s1

/-- LATERAL_SAMPLE: the lateral loop samples, unless a change of data band has opened it; it closes again when both readers give
valid frames and an LPOS word carries the new band (R238). -/
def State.lateral (s : State) (st : Stn) : State :=
  let v := (s.stns[st]).servo
  match v.seek with
  | none => s.lateralLoop st
  | some q =>
    let fr := v.frames s.draw.1
    if v.motion ≠ .moving ∧ v.motion ≠ .tensioned then s.draw.2
    else if fr.1.isSome && fr.2.isSome && q.word then (s.modStn st fun t => t.modServo fun v => { v with seek := none }).lateralLoop st
    else s.seekSample st q

/-- A run back that has passed its place turns round: the ramp that follows begins, under the ceiling in force (R135, R137, R209). -/
def State.turnRound (s : State) (st : Stn) : State :=
  let v := (s.stns[st]).servo
  match v.back with
  | none => s
  | some b =>
    if !v.lposOk || v.ramp.isSome || v.motion != .moving || !b.passed v.lpos then s
    else
      let hi := s.ceiling st
      (s.modStn st fun t => t.modServo fun v => { v with reverse := b.rev, back := none, setStep := min v.setStep hi }).rampTo st b.why (min b.mm (ladder hi))

/-! ### LPOS (R220, R221) -/

/-- How much of the layout stays where no gathering may be started: what is in progress, and a rewrite band that follows it. -/
def Station.started (t : Station) : Nat :=
  let n := t.write.inProgress (t.link.leadCells > 0)
  match t.write.toSend[n]? with
  | some p => match p.kind with
    | .band _ => n + 1
    | _ => n
  | none => n

/-- LPOS is lost, and the event is raised; a gathering laid out and not begun is not started, nor one laid out for the start of a wrap
(R221). -/
def State.loseLpos (s : State) (st : Stn) : State :=
  let t := s.stns[st]
  if t.servo.lposOk then
    let s1 := s.modStn st fun t => t.modServo fun v => { v with lposOk := false, lposWord := none, lposMiss := 0 }
    (if t.write.feed = .writing then s1.unplace st t.started (t.link.leadCells > 0)
     else if t.write.feed = .resume then s1.unplace st 0 false else s1).raise (71 + 16 * st.val)
  else s

/-- A change of data band after an LPOS word, which carries the band sought or not. -/
def Seek.heard (q : Seek) (carries : Bool) : Option Seek :=
  if carries then (if q.both then none else some { q with word := true }) else some q

/-- The bits of an LPOS word in the order of forward travel (R220). -/
def Servo.wordBits (v : Servo) : List Bool := if v.lposRev then v.lposBits else v.lposBits.reverse

/-- Whether the bits collected are an LPOS word that passes (Table 7.3). -/
def lposPasses (w : List Bool) : Bool :=
  w.length == 48 && natOfBits (w.take 12) == 0xFFE && crc8 ((w.drop 12).take 28) == natOfBits (w.drop 40)

/-- LPOS_WORD: the 48 bits since the last word, in the order of forward travel, are checked (Table 7.3). Two words in
succession that pass and differ by 48 acquire LPOS; afterwards each that passes is compared with the count; one that does not pass
neither is a mismatch nor ends a run of them (DESIGN CHOICE, log 119). A word that carries the band sought closes the lateral loop
once both readers give valid frames (R238). -/
def State.lposTake (s : State) (st : Stn) : State :=
  s.modStn st fun t => t.modServo fun v =>
    let w := v.wordBits
    let val := natOfBits ((w.drop 12).take 24)
    let band := natOfBits ((w.drop 36).take 4)
    let ok := lposPasses w
    let here := if v.lposRev then val else val + 47
    let v1 := { v with lposBits := [], lposWord := if ok then some val else none, seek := v.seek.bind fun q => q.heard (ok && band == q.band) }
    if !ok then v1
    else if v.lposOk then { v1 with band := band, lposMiss := if v.lpos = here then 0 else v.lposMiss + 1 }
    else match v.lposWord with
      | some p => if p + 48 = val ∨ val + 48 = p then { v1 with lposOk := true, lpos := here, lposMiss := 0, band := band } else v1
      | none => v1

/-! ### The reel loop (R222, R227, R229, R231, R233) -/

/-- The integer square root, from above. -/
def isqrt (n : Nat) : Nat := iroot 2 n 40 0

/-- The geometric radii of both reels in µm at an LPOS: supply, take-up (Table 7.4; the arithmetic's precision is a DESIGN
CHOICE, log 35). -/
def radii (geo set : List Byte) (lpos : Nat) : Nat × Nat :=
  let lt := leAt set 0x2B0 4 + lpos / 10
  let hub := geoHub geo
  let tu := leAt set 0x2AC 4
  let h := geoThick geo
  (isqrt (hub * hub + h * (geoLength geo - lt) * 1000000000 / 3141592654), isqrt (tu * tu + h * lt * 1000000000 / 3141592654))

/-- A signed difference of two angles modulo 16,384. -/
def angleDiff (a b : BitVec 14) : Int := (a - b).toInt

/-- The readings of a period: the angles of the container, or the last ones advanced by the last ω where it is missing
(Table 7.11). -/
def Servo.readAngles (v : Servo) : BitVec 14 × BitVec 14 :=
  if v.reelSeen then (BitVec.ofNat 14 (boxField v.perBox 24 14), BitVec.ofNat 14 (boxField v.perBox 38 14))
  else match v.angles with
    | a :: r =>
      let b := r.getD 3 a
      (a.1 + BitVec.ofInt 14 (angleDiff a.1 b.1 / 4), a.2 + BitVec.ofInt 14 (angleDiff a.2 b.2 / 4))
    | [] => (0, 0)

/-- ω and α of a reel in angle units: the change over four periods, and the second difference over eight (Table 7.4). -/
def omegaOf (l : List (BitVec 14)) : Int := match l with
  | a :: r => angleDiff a (r.getD 3 a)
  | [] => 0
def alphaOf (l : List (BitVec 14)) : Int := match l with
  | a :: r => angleDiff a (r.getD 3 a) - angleDiff (r.getD 3 a) (r.getD 7 (r.getD 3 a))
  | [] => 0

/-- The tension reference moved towards T_REF at TEN_SLEW for one period (R236). -/
def tenStep (slew : Nat) (x target : Word) : Word :=
  let m : Int := (slew * 131072 / 1000 : Nat)
  let d := target.toInt - x.toInt
  if (d.natAbs : Int) ≤ m then target else sat32 (if d < 0 then x.toInt - m else x.toInt + m)

/-- A number held within -m to m. -/
def clampTo (m x : Int) : Int := if x > m then m else if x < -m then -m else x

/-- What the reference still moves, period by period, while its acceleration falls from `a` to 0 by `j` a period. -/
def brakeWay (j a : Int) : Int := if 0 < a then a * (a + j) / (2 * j) else -(a.natAbs * (a.natAbs + j) / (2 * j))

/-- The speed reference of a ramp and its acceleration after one period: the shortest course with an acceleration of at most
`top` and changes of it of at most `j` a period that arrives with acceleration 0 (R236; the course in periods DEDUCED, log 36). -/
def rampStep (top j : Int) (x : Word) (a0 : Int) (target : Word) : Word × Int :=
  let a := clampTo top a0
  let d := target.toInt - x.toInt
  if a.natAbs ≤ j.natAbs ∧ d.natAbs ≤ max j a.natAbs then (target, 0)
  else
    let up := if d < 0 then -1 else 1
    let fits := fun (b : Int) => up * (brakeWay j b) ≤ up * d
    let more := clampTo top (a + up * j)
    let b := if fits more then more else if fits a then a else clampTo top (a - up * j)
    (sat32 (x.toInt + b), b)

/-- A_MAX or FALLBACK_DECEL, in 0.01 m/s², as word units per period, and the most that T_J, in 0.1 ms, lets it change in a period
(R236, Table 7.9); both rounded freely (log 34). -/
def rampLimits (f acc tj : Nat) : Int × Int :=
  let top := roundFree f (acc * 32768) 1000
  (top, if tj = 0 then 2 * top else max 1 (roundFree f top (4 * tj)))

/-- The speed a ramp's target stands for, in the direction of travel. -/
def Servo.target (v : Servo) (mm : Nat) : Word := speedWord (if v.reverse then -(mm : Int) else mm)

/-- The speed reference and its acceleration after a reel period (R236, R247, R248). -/
def Servo.nextRef (v : Servo) (g : Image) (st : Stn) (f : Nat) : Word × Int :=
  match v.ramp with
  | none | some (.tension, _) => (v.vRef, 0)
  | some (why, mm) =>
    let l := rampLimits f (g.motion st.val (if why = .fallback then 8 else 4)) (g.motion st.val 6)
    rampStep l.1 l.2 v.vRef v.aRef (v.target mm)

/-- A channel of the reel loop: sections, integrator candidate and table (stages 2 to 4). -/
def Channel.reel (c : Channel) (b : List Byte) (e : Int) (bin : Nat) : Int × Int × Vector SecHist 8 :=
  let s := sections b e c.secs
  let ic := integCand b e c.integ.toInt
  ((sat32 (accum [if setNsec b = 0 then e else s.1, ic, repCand b c bin])).toInt, ic, s.2)

/-- REEL_SAMPLE: the reel period's measurement, the two channels, and the motor commands (R222, R227, R233, R236) (DEDUCED, log 80). Servo
samples exist while one has come within the expected frame period; once they do not, three frames have to come again before they give the
speed (DEDUCED, log 117). y* moves for the period (R237; log 117). 2π ÷ 16,384 is taken as 3.83495 × 10⁻⁴ in the speed and as 3.834952 × 10⁻⁴
in the tension (DESIGN CHOICE, log 157), and the trace shows the speed channel's error with the take-up motor's command (DESIGN CHOICE, log
158). -/
def State.reel (s : State) (st : Stn) : State :=
  let dr := s.draw
  let f := dr.1
  let s := dr.2
  let t := s.stns[st]
  let v := t.servo
  if t.men ∨ t.link.lost then s
  else
    let g := s.img
    let geo := s.geoOf st
    let set := v.reelSet
    let ang := v.readAngles
    let angs := (ang :: v.angles).take 9
    let rad := radii geo set v.lpos
    let rs := max 1 (rad.1 * v.kappaS / 65536)
    let rt := max 1 (rad.2 * v.kappaT / 65536)
    let ws := angs.map (·.1)
    let wt := angs.map (·.2)
    let fresh := decide (v.srvAge < 100 ∧ v.srvAge * 25 * v.vHat.toInt.natAbs ≤ 100000 * 131072)
    let servo := fresh && v.ends.length == 3
    let vHat := if servo then v.vHat else sat32 (roundFree f ((rt : Int) * omegaOf wt * 383495 * 131072) 100000000)
    let fs := bits t.link.heIfs 0 16
    let cur := fun (o : Nat) => signed 12 (boxField v.perBox o 12) * fs
    let kS : Int := leAt set 0x29C 4
    let kT : Int := leAt set 0x2A0 4
    let jS : Int := leAt set 0x2A4 4
    let jT : Int := leAt set 0x2A8 4
    let half := fun (k j i a : Int) => (k * i * 100 - j * a * 2048 * 3834952) * 256
    let tHat := sat32 (roundFree f (half kT jT (cur 64) (alphaOf wt) * rs + half kS jS (cur 52) (alphaOf ws) * rt) (200 * (rs * rt : Nat)))
    let ref := v.nextRef g st f
    let vRef := ref.1
    let tTarget : Word := BitVec.ofNat 32 (leAt set 0x294 4)
    let tRef := if v.tenFresh then tHat else tenStep (g.motion st.val 0x0A) v.tRef tTarget
    let sp := set.take 320
    let tn := (set.drop 320).take 320
    let ev := (sat32 (vRef.toInt - vHat.toInt)).toInt
    let et := (sat32 (tRef.toInt - tHat.toInt)).toInt
    let bin := angleBin (if setFlag tn 2 then ang.2 else ang.1)
    let cv := v.speedCh.reel sp ev 0
    let ct := v.tensCh.reel tn et bin
    let fv := feedFwd sp vRef.toInt v.speedCh.r1.toInt v.speedCh.r2.toInt
    let ft := feedFwd tn tRef.toInt v.tensCh.r1.toInt v.tensCh.r2.toInt
    let uT := (sat32 (ct.1 + ft)).toInt
    let k := fun (i : Nat) (x : Int) => mulShift x (coef set (0x280 + 4 * i)) (leAt set (0x290 + i) 1)
    let fV := (sat32 (accum [k 0 cv.1, k 1 uT, fv])).toInt
    let fT := (sat32 (accum [k 2 cv.1, k 3 uT, tTarget.toInt])).toInt
    let mot := fun (r : Nat) (kk x2 : Int) => roundFree f ((r : Int) * x2 * 2048) (kk * (fs : Int))
    let mT := mot rt kT (2 * fT + fV)
    let mS := mot rs kS (2 * fT - fV)
    let lim : Int := leAt set 0x298 4
    let top := max mT.natAbs mS.natAbs
    let tooFast := (top : Int) > lim
    let within := fun (x : Int) => if tooFast then roundFree f (x * lim) top else x
    let uTo := (sat32 (within mT)).toInt
    let uSo := (sat32 (within mS)).toInt
    let apply : BitVec 16 := BitVec.ofNat 16 (1024 * v.perSlot.toNat + 64 * g.reelPhase st.val + 10240)
    let speedCh := { v.speedCh with secs := cv.2.2, integ := if tooFast && setFlag sp 0 then v.speedCh.integ else sat32 cv.2.1, r1 := vRef, r2 := v.speedCh.r1 }
    let tens0 := { v.tensCh with secs := ct.2.2, integ := if tooFast && setFlag tn 0 then v.tensCh.integ else sat32 ct.2.1, r1 := tRef, r2 := v.tensCh.r1 }
    let tensCh := if tooFast then tens0 else tens0.learn tn bin et
    let v1 := { v with
      ends := if fresh then v.ends else [], yStar := slew (g.motion st.val 0x0C) 640000 v.yStar v.yTarget
      angles := angs, missReel := if v.reelSeen then 0 else v.missReel + 1, vHat := vHat, tHat := tHat, vRef := vRef, aRef := ref.2
      tRef := tRef, tenFresh := false, speedCh := speedCh, tensCh := tensCh, radS := rs, radT := rt, reelSeen := false
      srvAge := v.srvAge + 1, eTen := sat32 et }
    let step := ladderStep (vRef.toInt.natAbs / 131072)
    let v2 := if v.motion = .moving ∧ v.ramp.any (fun x => x.1 != .fallback) ∧ step ≠ v.step then v1.loadStep g st step else v1
    ((if v.reelSeen then s else s.count st 0 [26]).modStn st fun t => { t with
      servo := v2
      link := { t.link with outCmds := t.link.outCmds ++ [(0, valueOf uSo, apply), (1, valueOf uTo, apply)] } }).servoTrace st 3
        (sat32 ev ++ sat32 uTo) (vHat ++ (0 : BitVec 8) ++ valueOf uTo)

/-- AUX_SAMPLE: in every fourth reel period since the loops closed, the auxiliary loop runs on the AUXPOS of the period's reading
slot, whose angles give the repetitive bin too (R234 against stage 4 of Table 7.6; DESIGN CHOICE, log 159); the profile's set-point is a
free value, for no field gives the profile (R231, R234, Tables 7.6 and 7.10, log 37). A missing reading skips the sample (Table 7.11), and
in Hold the loop runs none (DEDUCED, log 159). -/
def State.auxSample (s : State) (st : Stn) : State :=
  let t := s.stns[st]
  let v := t.servo
  if v.perCnt % 4 ≠ 1 ∨ t.link.lost ∨ v.motion = .hold then s
  else if !v.auxSeen then s.count st 0 [27]
  else
    let d := s.draw
    let r := (BitVec.ofNat 32 d.1).toInt
    let lp := v.aux.takeSwap
    let y : Int := (boxField v.perBox 100 12 * 2 ^ 19 : Nat)
    let e := (sat32 (r - y)).toInt
    let x := lp.ch.sample lp.set r e (binOf lp.set v.perBox)
    let apply : BitVec 16 := BitVec.ofNat 16 (1024 * v.perSlot.toNat + 64 * s.img.auxPhase st.val + 10240)
    d.2.modStn st fun t => { t with
      servo := { t.servo with aux := { lp with ch := x.1 }, auxSeen := false }
      link := { t.link with outCmds := t.link.outCmds ++ [(4, valueOf x.2, apply)] } }

/-- KAPPA_UPDATE: once per revolution of a reel, κ moves 1/16 of the way towards the measured ratio, within 0.95 to 1.05
(Table 7.4). `len` is the servo length of the revolution in µm. -/
def State.kappa (s : State) (st : Stn) (takeUp : Bool) (len : Nat) : State :=
  let v := (s.stns[st]).servo
  if v.missSrv > 0 ∨ v.ends.length < 3 ∨ v.speedMm < 500 then s
  else
    let rad := radii (s.geoOf st) v.reelSet v.lpos
    let r := max 1 (if takeUp then rad.2 else rad.1)
    let old : Int := if takeUp then v.kappaT else v.kappaS
    let want : Int := (len * 65536 * 1000000 / (6283185 * r) : Nat)
    let d := s.draw
    let new := old + roundFree d.1 (want - old) 16
    let clamped := new > 68812 ∨ new < 62260
    let k := if new > 68812 then 68812 else if new < 62260 then 62260 else new.toNat
    let s1 := d.2.modStn st fun t => t.modServo fun v => if takeUp then { v with kappaT := k } else { v with kappaS := k }
    if clamped then s1.raise (72 + 16 * st.val) else s1

/-! ### What a stop or a ramp's end brings about (R236, R243, R245, R246, R331, R335, R346) -/

/-- Commands that want a station's tape: READ, LOCATE and VERIFY whose records are durable. -/
def State.readersOf (s : State) (st : Stn) : List (CmdRef × Cmd) :=
  s.allCmds.filter fun c => c.2.entry.stn.toNat == st.val && (c.2.entry.opc == 2 || c.2.entry.opc == 3 || c.2.entry.opc == 6)
    && c.2.phase == .moving

/-- The quire that holds a LON, or the lowest higher one that has a segment. -/
def VolCtx.quireFor (v : VolCtx) (lon : Nat) : Option QEntry :=
  match v.quires.find? fun q => q.lo.any (· ≤ lon) && q.hi.any (lon ≤ ·) with
  | some q => some q
  | none => (sortBy (fun a b => a.lo.getD 0 ≤ b.lo.getD 0) (v.quires.filter fun q => q.lo.any (· > lon))).head?

/-- A station at rest turns to what waits for its tape: a reader takes it, the lowest wrap first where its record lies
(R346) (DESIGN CHOICE, log 89). A reading that is to begin at a place has the tape run back to 2 m before it (R281). -/
def State.serveSeek (s : State) (st : Stn) : State :=
  let t := s.stns[st]
  if !t.speed.wantSeek ∨ t.servo.motion ≠ .tensioned then s
  else
    let wrap := match (s.readersOf st).head?, t.ctx with
      | some c, some v => (match v.quireFor (c.2.entry.cd 0 8) with | some q => q.wrap | none => t.write.wrap)
      | _, _ => t.readSide.wrap
    let hi := s.ceiling st
    let rev := wrap % 2 == 1
    let s1 := s.aim st wrap 0
    ((match t.readSide.seekTo with
      | some p => s1.runBack st ⟨lposBefore rev p 20000, rev, .locate, ladder hi⟩
      | none => s1.rampTo st .locate (ladder hi)).modStn st fun t => { t with
      speed := { t.speed with wantSeek := false, stopped := true }
      servo := { t.servo with setStep := hi }
      link := t.link.startReading s.img
      readSide := { t.readSide with active := true, wrap := wrap, seekTo := none } })

/-- The RESULT of a LOCATE: LPOS reached and wrap (Table 10.6). -/
def Station.place (t : Station) (c : Cmd) : Nat :=
  let w := match t.ctx with
    | some v => (match v.quireFor (c.entry.cd 0 8) with | some q => q.wrap | none => t.write.wrap)
    | none => 0
  t.servo.lpos % 2 ^ 32 + 2 ^ 32 * w

/-- Whether a LON has a segment on a volume. -/
def VolCtx.onTape (v : VolCtx) (lon : Nat) : Bool := (v.rec? lon).any fun r => r.recorded || r.packed > 0 || r.incDone

/-- Whether a LON is known to have no segment: by the record table, or on a volume mounted for reading by its colophon's NREC and LGAPS
(R60, Table 2.11). Without a colophon read nothing tells a gap. -/
def Station.knownGap (t : Station) (lon : Nat) : Bool :=
  let c := t.readSide.colophon
  if t.mount.any fun m => m.mode == .read then !c.isEmpty && (decide (beAt c 0x78 8 ≤ lon) || inRanges (colLgaps c) lon)
  else !t.ctx.any fun v => v.onTape lon

/-- LOCATEs of a station whose tape has stopped complete: 0x0A where their LON has no segment (R60, Table 10.6)
(DEDUCED, log 73). -/
def State.locatesDone (s : State) (st : Stn) : State :=
  ((s.readersOf st).filter fun c => c.2.entry.opc == 3).foldl (fun a c =>
    let t := a.stns[st]
    a.finish c.1 { status := if t.knownGap (c.2.entry.cd 0 8) then 0xA else 0, result := t.place c.2, lon := c.2.entry.cd 0 8 }) s

/-- A station's tape has come to rest, Tensioned: the gate is high, and what waited for the stop goes on. Through a warm reset a station
without a mount stays Tensioned (R248). -/
def State.rested (s : State) (st : Stn) : State :=
  let s1 := s.modStn st fun t => { t with
    wgate := true
    servo := { t.servo with motion := .tensioned, ramp := none, vRef := 0, aRef := 0, settled := false, calm := 0, back := none }
    write := { t.write with feed := .off }
    speed := { t.speed with stopped := true, stopping := false, stepping := none } }
  let s2 := s1.locatesDone st
  let t := s2.stns[st]
  match t.mountCmd.bind s2.cmd? with
  | some c => if c.phase = .opening then s2.openStation st else if c.phase = .queued then (s2.openLoops st).mountGo st else s2.serveSeek st
  | none => if t.mount.isNone ∧ t.mountCmd.isNone ∧ s2.ready then s2.openLoops st else s2.serveSeek st

/-- Whether the reference of a ramp in progress has arrived at its target (R236). -/
def Servo.arrived (v : Servo) : Bool :=
  match v.ramp with
  | none => false
  | some (.tension, _) => !v.tenFresh && v.tRef == BitVec.ofNat 32 (leAt v.reelSet 0x294 4)
  | some (_, mm) => v.vRef == v.target mm

/-- RAMP_DONE: the reference of a ramp has arrived. -/
def State.rampDone (s : State) (st : Stn) : State :=
  let t := s.stns[st]
  if !t.servo.arrived then s
  else match t.servo.ramp with
  | none => s
  | some (.tension, _) => s.modStn st fun t => t.modServo fun v => { v with ramp := none }
  | some (.stop, _) | some (.fallback, _) => s.rested st
  | some (.locate, mm) =>
    let s1 := s.modStn st fun t => t.modServo fun v => { v with ramp := none, aRef := 0 }.loadStep s.img st (ladderStep mm)
    if (s1.readersOf st).all (fun c => c.2.entry.opc == 3) && (t.mountCmd.isNone) && !(s1.readersOf st).isEmpty then
      (s1.controlledStop st).modStn st fun t => t.modRecall fun k => { k with active := false }
    else s1
  | some (_, mm) => s.modStn st fun t => t.modServo fun v => { v with ramp := none, aRef := 0 }.loadStep s.img st (ladderStep mm)

end Sys2Proof.Machine
end

