-- ==== Sys2Proof/Machine/RecordOps.lean ====
section
/-!
DEFINITION. What the I/O commands share (10, 05, 08): waking from a low power state, records named by LON or by key, the
cover of a FLUSH and its cuts, readers, and how SEAL goes on.
-/
namespace Sys2Proof.Machine

/-! ### Low power states (R351, R352) -/

/-- Opcodes that need a station or buffer memory (R352). -/
def needsPower (opc : Nat) : Bool :=
  [1, 2, 3, 4, 6, 7, 8, 0x80, 0x84, 0x85, 0x86, 0x87, 0x88, 0x8D, 0x8F, 0x90].contains opc

/-- Whether a command taken now forces the exit to P0 and waits for it: a low power state is in force and entry is over. -/
def State.mustWake (s : State) (opc : Nat) : Bool := s.power.state != 0 && s.power.target.isNone && needsPower opc

/-- The lanes that a low power state has turned off train again, and the stations that hold a threaded cartridge close their
loops (R188, R246, Table 10.11). -/
def State.leaveQuiet (s : State) : State :=
  allStns.foldl (fun a st =>
    let t := a.stns[st]
    let b := a.modStn st fun t => t.modLink fun k => { k with lanes := k.lanes.map fun l => if l.up || l.training then l else { l with training := true } }
    if t.servo.motion == .open_ && t.servo.threaded && t.mount.isSome && !t.servo.closing && !t.inFault && !t.link.lost then b.closeLoops st else b) s

/-- A command forces the exit to P0 and waits (R352). -/
def State.wakeFor (s : State) (r : CmdRef) : State :=
  let s1 := { s with power := { s.power with exiting := true, waiting := s.power.waiting ++ [r] } }
  if s.power.exiting || s.power.state < 2 then s1 else s1.leaveQuiet

/-- A command that has been taken joins the outstanding ones; it goes on at once, or after the exit to P0 (R352). -/
def State.launch (s : State) (c : HostCmd) (k : Cmd) (go : CmdRef → State → State) : State :=
  if s.mustWake c.entry.opc.toNat then (s.addCmd c { k with phase := .queued }).wakeFor (refOf c)
  else go (refOf c) (s.addCmd c k)

/-! ### Records named by an APPEND (R337 to R340, R470) -/

/-- The context of the station that an entry names. -/
def State.ctxOf (s : State) (e : Entry) : Option VolCtx := (s.stns[e.st]).ctx

/-- FIRST, END, BLK_END, DECL and RKEY of an APPEND. -/
def apFirst : Nat := 0
def apEnd : Nat := 1
def apBlkEnd : Nat := 2
def apDecl : Nat := 3
def apRkey : Nat := 4

/-- LON, OFS, SIZE and RKEY of an APPEND. -/
def apLon (e : Entry) : Nat := e.cd 0 8
def apOfs (e : Entry) : Nat := e.cd 8 8
def apSize (e : Entry) : Nat := e.cd 0x10 8
def apKey (e : Entry) : BitVec 32 := BitVec.ofNat 32 (e.cd 0x18 4)

/-- The fields of an APPEND that R468 makes reserved without another flag. -/
def appendReserved (e : Entry) : Bool :=
  (!e.flag apDecl || e.flag apFirst) && (apSize e == 0 || (e.flag apFirst && e.flag apDecl))
    && (apKey e == 0 || e.flag apRkey) && (apLon e == 0 || !(e.flag apFirst || e.flag apRkey))
    && (apOfs e == 0 || !e.flag apFirst) && (e.rptr == 0 || e.flag apEnd)

/-- The field rules of R468 and Table 10.5 for an APPEND. -/
def appendFields (e : Entry) : Bool := appendReserved e && (e.dlen != 0 || e.flag apEnd) && e.dlen.toNat ≤ 33554432

/-- The key that an entry registers or names, on its queue. -/
def State.keyOf (s : State) (p : Port) (q : Nat) (k : BitVec 32) : Option RecKey :=
  match (s.ports[p]).qp? q with
  | some x => x.keys.find? fun y => y.key == k
  | none => none

/-- The record that a continuation names: by its LON, or by its key on the station and mount named (R338, R339). -/
def State.appendRec (s : State) (c : HostCmd) : Option Rec :=
  let e := c.entry
  match s.ctxOf e with
  | none => none
  | some v =>
    if e.flag apRkey then
      match s.keyOf c.port c.qid (apKey e) with
      | some k => if k.stn == e.st && k.mnt == e.mnt then v.rec? k.lon else none
      | none => none
    else v.rec? (apLon e)

/-- How an APPEND that names an abandoned record completes, where R470 says: 0x10 where it was lost after acceptance, 0x02
after a declared-size breach or where its queue was reset (DESIGN CHOICE, log 38). A sealed volume answers by check 7. -/
def Abandon.status : Abandon → Option Nat
  | .lost | .discarded => some 0x10
  | .breach | .queueGone => some 2
  | .sealed | .fault => none

/-- Whether a volume takes APPENDs (check 7 of R469: R128, R142, R334). -/
def State.writable (s : State) (st : Stn) : Bool :=
  let t := s.stns[st]
  t.mount.any (fun m => m.mode == .append) && t.ctx.any fun v => !v.sealing && !v.faulted && v.state != .sealed && v.state != .faultSealed

/-- Whether a continuation follows R338: on the queue of its FIRST, before the END, with OFS equal to the bytes taken. -/
def Rec.continues (r : Rec) (c : HostCmd) : Bool := r.port == c.port && r.qid == c.qid && !r.ended && apOfs c.entry == r.taken

/-- Checks 6 to 10 of R469 for an APPEND. -/
def appendOwn (c : HostCmd) (s : State) : Option Ending :=
  let e := c.entry
  if !appendFields e then some (.st 2)
  else
    let target := if e.flag apFirst then none else s.appendRec c
    let gone := target.bind fun r => r.abandon.bind Abandon.status
    if e.flag apFirst && e.flag apRkey && (s.keyOf c.port c.qid (apKey e)).isSome then some (.st 2)
    else if !e.flag apFirst && target.isNone then some (.st 2)
    else if target.any (fun r => r.port != c.port || r.qid != c.qid) then some (.st 2)
    else if gone.isSome && s.writable e.st then none
    else if target.any (fun r => r.abandon.isNone && !r.continues c) then some (.st 2)
    else if !s.writable e.st then some (.st 5)
    else match s.ctxOf e with
      | none => some (.st 5)
      | some v =>
        if !hasRoom v (s.stns[e.st]).write (match target with | some r => r.lon | none => v.lon) e.dlen.toNat then some (.st 4)
        else if e.flag apFirst && (v.recs.filter (·.isOpen)).length ≥ 65536 then some (.st 0xE)
        else none

/-- The LON that an APPEND writes. -/
def State.appendLon (s : State) (c : HostCmd) : Nat :=
  if c.entry.flag apFirst then (match s.ctxOf c.entry with | some v => v.lon | none => 0)
  else match s.appendRec c with
    | some r => r.lon
    | none => 0

/-- Whether the record that a continuation names has been abandoned. -/
def State.appendGone (s : State) (c : HostCmd) : Option Rec :=
  if c.entry.flag apFirst then none else (s.appendRec c).filter fun r => r.abandon.isSome

/-- From the moment a SEAL is taken the volume counts as sealed for APPEND (R142). -/
def State.sealNow (s : State) (st : Stn) : State := s.modStn st fun t => t.modCtx fun v => { v with sealing := true }

/-- What an APPEND waits for before it is taken: a conflicting lock. -/
def appendBlocked (c : HostCmd) (s : State) : Option Hold :=
  let n := s.appendLon c
  let l : Lock := ⟨true, c.entry.st, c.entry.mnt, n, n, refOf c⟩
  if (s.appendGone c).isSome || s.lockFree l then none else some (.lock l)

/-- Whether an APPEND taken in its turn passes checks 1 to 3 of R469 and starts a record on a volume that takes APPENDs; on a MIGRATE's
destination only the job assigns LONs (R282). -/
def State.startsRecord (s : State) (c : HostCmd) : Bool :=
  s.atTurn c && !s.fenceHolds c && c.entry.flag apFirst && s.writable c.entry.st && !s.migrating c.entry.st
    && (cmdSpec 1).any fun k => s.check1 1 c && s.check2 k c && s.check3 k c.entry

/-- A FIRST is not taken while the limit of R272 on LONs without a segment is reached. -/
def State.atLonLimit (s : State) (c : HostCmd) : Bool :=
  s.startsRecord c && (s.checks 1 c).isNone && (s.ctxOf c.entry).any fun (v : VolCtx) => decide (v.noSegment ≥ 2 ^ 24)

/-- Whether a FIRST that is taken on a volume that takes APPENDs fails a later check of R469: its LON stays assigned and becomes a gap
(R337, R470). A duplicate record key takes no LON (R339), nor does a reserved field (R10) (DEDUCED, log 67). -/
def State.firstBecomesGap (s : State) (c : HostCmd) : Bool :=
  s.startsRecord c && reservedOk 1 c.entry && appendReserved c.entry && !(c.entry.flag apRkey && (s.keyOf c.port c.qid (apKey c.entry)).isSome)
    && ((s.checks 1 c).isSome || !listOk c || (appendOwn c s).isSome)

/-- The volume's LON counter advances past a LON that no record has. -/
def State.gapLon (s : State) (c : HostCmd) : State :=
  s.modStn c.entry.st fun t => t.modCtx fun v => { v with lon := v.lon + 1 }

/-- A record key goes. -/
def State.dropKey (s : State) (p : Port) (q : Nat) (f : RecKey → Bool) : State :=
  s.modQp p q fun x => { x with keys := x.keys.filter fun k => !f k }

/-- Records of a volume changed in place. -/
def State.modRec (s : State) (st : Stn) (lon : Nat) (f : Rec → Rec) : State :=
  s.modStn st fun t => t.modCtx fun v => v.modRec lon f

/-- An APPEND starts its intake: its buffer is asked for by POOL_GRANT, or where it brings no bytes its hash job joins the wait
at once (R18, R313). -/
def State.startAppend (r : CmdRef) (s : State) : State :=
  match s.cmd? r with
  | none => s
  | some c =>
    if c.entry.dlen = 0 then
      (s.modCmd r fun k => { k with phase := .moving }).addJob (dieOf c.entry.st) rHash (Job.fresh (.hash c.entry.st c.lon) c.entry.st s.clock)
    else s.modCmd r fun k => { k with phase := .needBuffer }

/-- Whether an APPEND breaches the declared size (R163). -/
def breaches (declared : Option Nat) (total : Nat) (ends : Bool) : Bool :=
  match declared with
  | some d => total > d || (ends && total < d)
  | none => false

/-- The effect of taking an APPEND whose checks have passed (R163, R337 to R339, R470). -/
def State.runAppend (c : HostCmd) (s : State) : State :=
  let e := c.entry
  let st := e.st
  let len := e.dlen.toNat
  let ends := e.flag apEnd
  let lon := s.appendLon c
  match s.appendGone c with
  | some r =>
    let s1 := if ends then s.dropKey c.port c.qid fun k => k.stn == st && k.mnt == e.mnt && k.lon == r.lon else s
    s1.finishNew c { status := (r.abandon.bind Abandon.status).getD 0x10, lon := r.lon, aux0 := apOfs e }
  | none =>
    let s1 :=
      if e.flag apFirst then
        let s0 := s.modStn st fun t => t.modCtx fun v => { v with
          lon := v.lon + 1, recs := v.recs ++ [Rec.fresh lon c.port c.qid (if e.flag apRkey then some (apKey e) else none) (if e.flag apDecl then some (apSize e) else none)] }
        if e.flag apRkey && !ends then s0.modQp c.port c.qid fun x => { x with keys := x.keys ++ [⟨apKey e, st, e.mnt, lon⟩] } else s0
      else s
    match (s1.ctxOf e).bind fun v => v.rec? lon with
    | none => s1.finishNew c (.st 2)
    | some r =>
      if breaches r.declared (r.taken + len) ends then
        let s2 := if e.flag apFirst then s1.dropKey c.port c.qid fun k => k.stn == st && k.mnt == e.mnt && k.lon == lon else s1
        (s2.abandonRec st lon .breach).finishNew c (.st 2)
      else
        let s2 := s1.modRec st lon fun r => { r with
          taken := r.taken + len, cuts := if e.flag apBlkEnd && len > 0 then r.cuts ++ [r.taken + len] else r.cuts
          ended := ends, endFrom := if ends then r.taken else r.endFrom }
        let s3 : State := if ends then s2.dropKey c.port c.qid fun k => k.stn == st && k.mnt == e.mnt && k.lon == lon else s2
        let s4 := { s3 with locks := s3.locks ++ [(⟨true, st, e.mnt, lon, lon, refOf c⟩ : Lock)] }
        s4.launch c { Cmd.start c s.clock .needBuffer with lon := lon, count := r.taken, bumped := e.flag apFirst } State.startAppend

/-- Outstanding APPENDs of a record, oldest first. -/
def State.appendsOf (s : State) (st : Stn) (lon : Nat) : List (CmdRef × Cmd) :=
  s.allCmds.filter fun c => c.2.entry.opc == 1 && c.2.entry.st == st && c.2.lon == lon

/-- Outstanding APPENDs of a station. -/
def State.appendsAt (s : State) (st : Stn) : List (CmdRef × Cmd) :=
  s.allCmds.filter fun c => c.2.entry.opc == 1 && c.2.entry.st == st

/-! ### The cover of a FLUSH (R151, R138, R345) -/

/-- How far a FLUSH covers a record of which `n` bytes are covered: to the end of the block that holds the last of them, where
that block is compressed already (Table 5.4). -/
def Rec.coverEnd (r : Rec) (n : Nat) : Nat :=
  r.blocks.foldl (fun a b => if b.start < n then max a (b.start + b.len) else a) n

/-- Whether a covered record still needs work: it is not durable, or its INCOMPLETE segment is still to come. -/
def Rec.owes (r : Rec) : Bool := (r.abandon.isNone && !r.durable) || r.incWanted

/-- The cut that a cover makes in a record (R151). -/
def Rec.cutAt (r : Rec) (cover : List (Nat × Nat)) : Rec :=
  match cover.find? fun c => c.1 == r.lon with
  | some c => if r.abandon.isSome || c.2 = 0 then r else { r with cuts := r.cuts ++ [c.2] }
  | none => r

/-- A FLUSH of the given LONs and bytes begins: each record is cut at the end of its cover, and its compression goes on
(R138, R151). -/
def State.addFlush (s : State) (st : Stn) (why : FlushFor) (cover : List (Nat × Nat)) : State :=
  let s1 := s.modStn st fun t => { t with
    ctx := t.ctx.map fun v => { v with recs := v.recs.map fun r => r.cutAt cover }
    write := { t.write with flushes := t.write.flushes ++ [⟨why, cover, false, 0⟩] } }
  let s2 := cover.foldl (fun a c => a.addJob (dieOf st) rComp (a.compressJob st c.1)) s1
  s2.settle st

/-- The cover that a FLUSH taken now has: what has been reported as accepted of each record, and records of deleted or reset
queues whose loss no FLUSH has logged (R339, R345) (DEDUCED, log 70). -/
def VolCtx.cover (v : VolCtx) : List (Nat × Nat) :=
  (v.recs.filter fun r => r.written > 0 || (r.anyDone && r.accepted == 0) || (r.abandon == some .queueGone && !r.reported)).map
    fun r => (r.lon, r.coverEnd r.written)

/-- The whole of every record that has been accepted (R142, R335, Table 10.11). -/
def VolCtx.coverAll (v : VolCtx) : List (Nat × Nat) :=
  (v.recs.filter fun r => r.arrived || (r.abandon == some .queueGone && !r.reported)).map fun r => (r.lon, r.coverEnd r.accepted)

/-- Losses of reset or deleted queues are logged once (R339). -/
def VolCtx.report (v : VolCtx) : VolCtx :=
  { v with recs := v.recs.map fun r => if r.abandon = some .queueGone then { r with reported := true } else r }

/-- Whether a cover still owes anything. -/
def VolCtx.owes (v : VolCtx) (cover : List (Nat × Nat)) : Bool :=
  cover.any fun c => (v.rec? c.1).any fun r => r.owes

/-- A FLUSH that has been taken goes on: at once done where nothing of its cover is owed (R139, R345). -/
def State.startFlush (r : CmdRef) (s : State) : State :=
  match s.cmd? r with
  | none => s
  | some c =>
    let st := c.entry.st
    match (s.stns[st]).ctx with
    | none => s.finish r (.ok 0)
    | some v =>
      let cover := v.cover
      let s1 := (s.modStn st fun t => t.modCtx VolCtx.report).modCmd r fun k => { k with phase := .flushing }
      let v1 := v.report
      if v.closureBad then s1.finish r (.st 0xC)
      else if v1.owes cover then s1.addFlush st (.flush r) cover
      else let lost := lostIn v1 cover; s1.finishLosses r lost lost.length

/-! ### Readers (R343, R344, R346, R332) -/

/-- The read entry that a reader takes (R343). -/
def readLock (c : HostCmd) : Lock :=
  let e := c.entry
  if e.opc = 6 ∧ e.flag 0 then ⟨false, e.st, e.mnt, 0, 2 ^ 64 - 1, refOf c⟩
  else if e.opc = 6 then ⟨false, e.st, e.mnt, e.cd 0 8, e.cd 0 8 + e.cd 8 8 - 1, refOf c⟩
  else ⟨false, e.st, e.mnt, e.cd 0 8, e.cd 0 8, refOf c⟩

/-- A reader that has been taken goes on: accepted records of its range that are not durable are flushed first (R344). -/
def State.startReader (r : CmdRef) (s : State) : State :=
  match s.cmd? r with
  | none => s
  | some k =>
    let st := k.entry.st
    let t := s.stns[st]
    match t.ctx with
    | none => s.finish r (.st 0xC)
    | some v =>
      let rg := k.range t
      let cover := (v.recs.filter fun x => rg.1 ≤ x.lon && x.lon < rg.1 + rg.2 && x.arrived && x.abandon.isNone && !x.durable).map
        fun x => (x.lon, x.coverEnd x.accepted)
      if cover.isEmpty ∨ v.closureBad then (s.goReader r).serveSeek st
      else (s.modCmd r fun k => { k with phase := .flushing }).addFlush st (.reader r) cover

/-- Checks 6 and 7 of a READ, LOCATE or VERIFY (R331, R332, R334). -/
def readerOwn (c : HostCmd) (s : State) : Option Ending :=
  let e := c.entry
  let t := s.stns[e.st]
  let n := t.nrec
  let bad :=
    if e.opc = 6 then
      if e.flag 0 then e.cd 0 8 != 0 || e.cd 8 8 != 0 || e.dlen.toNat % 64 != 0 || e.dlen == 0
      else e.cd 8 8 < 1 || e.cd 8 8 > 2 ^ 26 || e.dlen.toNat < 64 * e.cd 8 8 || n.any fun x => e.cd 0 8 + e.cd 8 8 > x
    else n.any fun x => e.cd 0 8 ≥ x
  if bad then some (.st 2)
  else if t.mount.any (fun m => m.mode == .blank) then some (.st 5) else none

/-- What a reader waits for before it is taken (R343). -/
def readerBlocked (c : HostCmd) (s : State) : Option Hold := if s.lockFree (readLock c) then none else some (.lock (readLock c))

/-- A reader is taken. -/
def State.runReader (c : HostCmd) (s : State) : State :=
  ({ s with locks := s.locks ++ [readLock c] }).launch c (Cmd.start c s.clock .moving) State.startReader

/-! ### Sealing (R142, R271) -/

/-- SEAL goes on once every APPEND taken before it has completed: the work of a FLUSH over all that was accepted. -/
def State.sealGo (s : State) (st : Stn) : State :=
  match (s.stns[st]).ctx with
  | none => s
  | some v =>
    match v.sealCmd with
    | none => s
    | some r =>
      if v.closing ≠ .none ∨ !(s.appendsAt st).isEmpty then s
      else (s.modStn st fun t => t.modCtx fun v => { v.report with closing := .flushing }).addFlush st (.seal r) v.coverAll

/-- Every SEAL that waited for APPENDs which have completed since goes on (R142). -/
def State.sealsGo (s : State) : State := allStns.foldl (fun a st => a.sealGo st) s

/-- SEAL starts, or goes on where it was cut short. -/
def State.startSeal (r : CmdRef) (s : State) : State :=
  match s.cmd? r with
  | none => s
  | some k =>
    let st := k.entry.st
    (((s.modCmd r fun k => { k with phase := .sealing }).modStn st fun t => t.modCtx fun v =>
      { v with sealCmd := some r, sealing := true, closing := if v.closing = .flushing then .none else v.closing }).sealGo st).settle st

/-! ### Commands that end (R342, R347) -/

/-- A fence that is the only outstanding command of its queue completes (R342). -/
def State.fenceGo (s : State) (p : Port) (q : Nat) : State :=
  match (s.ports[p]).qp? q with
  | none => s
  | some x => match x.cmds with
    | [k] => if k.entry.opc = 5 then s.finish ⟨p, q, k.entry.tag⟩ (.ok 0) else s
    | _ => s

/-- The key of a record that is open again is registered again, unless another record of its queue has taken it (R339, R470; the
case of a key taken since is a DESIGN CHOICE, log 143). -/
def State.rekey (s : State) (st : Stn) (mnt : BitVec 32) (lon : Nat) : State :=
  match (s.stns[st]).ctx.bind fun v => v.rec? lon with
  | none => s
  | some r => match r.key with
    | some n => if r.isOpen ∧ (s.keyOf r.port r.qid n).isNone then s.modQp r.port r.qid fun x => { x with keys := x.keys ++ [⟨n, st, mnt, lon⟩] } else s
    | none => s

/-- A refused or failed APPEND takes none of its bytes: its record is as before, or, where it was the FIRST, was never
opened; later APPENDs of it that have been taken complete with 0x02 (R470). -/
def State.untakeAppend (s : State) (r : CmdRef) : State :=
  match s.cmd? r with
  | none => s
  | some k =>
    let st := k.entry.st
    let later := ((s.appendsOf st k.lon).filter fun c => c.2.count ≥ k.count && c.1 != r).map (·.1)
    let s1 := s.finishAll later (.st 2)
    let s2 := later.foldl (fun a c => a.dropWaits fun w => w.use == .command c.port c.qid c.tag) s1
    let s3 := (if k.bumped then s2.dropJobs fun j => j == .hash st k.lon else s2).modStn st fun t => t.modCtx fun v =>
      if k.bumped then { v with recs := v.recs.filter fun x => x.lon != k.lon }
      else v.modRec k.lon fun x => { x with taken := k.count, ended := false, endFrom := 0, cuts := x.cuts.filter (· ≤ k.count) }
    if k.bumped then s3.dropKey r.port r.qid fun y => y.stn == st && y.mnt == k.entry.mnt && y.lon == k.lon
    else s3.rekey st k.entry.mnt k.lon

/-- An APPEND that is refused a buffer completes with 0x0D (R313, R470). -/
def State.refuseCmd (s : State) (r : CmdRef) : State :=
  match s.cmd? r with
  | none => s
  | some k =>
    if k.entry.opc = 1 then (((s.untakeAppend r).finish r (.st 0xD)).sealGo k.entry.st) else s.finish r (.st 0xD)

end Sys2Proof.Machine
end

