-- ==== Sys2Proof/Machine/PowerOps.lean ====
section
/-!
DEFINITION. Power states (10, R351, R352): the entry work of P1, P2 and P3 and how entry goes on.
-/
namespace Sys2Proof.Machine

/-- Whether a station still has entry work, or a command that was accepted during entry and runs first (R352). -/
def State.powerWork (s : State) (st : Stn) : Bool :=
  let t := s.stns[st]
  t.servo.closing || t.write.flushes.any (fun j => j.why == .power) || (s.allCmds.any fun c => c.2.names st)

/-- Every volume mounted for appending records what it has accepted and not recorded, as for a FLUSH: also what APPENDs bring during
entry, once they have completed (Tables 10.11, 10.12). -/
def State.powerFlush (s : State) : State :=
  allStns.foldl (fun a st => match (a.stns[st]).ctx with
    | some v =>
      let t := a.stns[st]
      if t.mount.any (fun m => m.mode == .append) && !v.closureBad && v.owes v.coverAll && (a.appendsAt st).isEmpty
          && !t.write.flushes.any (fun j => j.why == .power) then a.addFlush st .power v.coverAll else a
    | none => a) s

/-- Stations that have recorded what entry asks for stop to Tensioned (Table 10.11, R247). -/
def State.powerStops (s : State) : State :=
  allStns.foldl (fun a st => if a.powerWork st then a else a.controlledStop st) s

/-- A station goes quiet: its loops open with the cartridge threaded and the volume mounted, and lanes 1 to 15 turn off
(Table 10.11, R188). -/
def State.quietStn (s : State) (st : Stn) : State :=
  let s1 := if (s.stns[st]).servo.motion = .tensioned then s.openLoops st else s
  s1.modStn st fun t => t.modLink fun k => { k with lanes := k.lanes.mapFinIdx fun i l _ => if i = 0 then l else { l with up := false, training := false } }

/-- One state deeper, where its entry work is done: every station is at rest and has none left. -/
def State.powerDeeper (s : State) : State :=
  if allStns.any fun st => s.powerWork st || (s.stns[st]).servo.motion == .moving then s
  else match s.power.state with
    | 0 => { s with power := { s.power with state := 1 } }
    | 1 => allStns.foldl (fun a st => a.quietStn st) { s with power := { s.power with state := 2 } }
    | 2 => { s with power := { s.power with state := 3 } }.eachPort fun _ h => { h with l1 := h.linkUp }
    | _ => s

/-- The POWER_STATE in progress completes once the state it names is in force. -/
def State.powerEnd (s : State) : State :=
  match s.power.target with
  | none => s
  | some (n, r) => if s.power.state ≥ n then { s with power := { s.power with target := none } }.finish r (.ok 0) else s

/-- Entry goes on as far as it can (R351, R352): a state that is in force already is not entered again. -/
def State.powerOnce (s : State) : State :=
  match s.power.target with
  | none => s
  | some _ => (s.powerFlush.powerStops.powerDeeper).powerEnd

/-- Entry through at most three states (DEDUCED, log 83). -/
def State.powerGo (s : State) : State := s.powerOnce.powerOnce.powerOnce

/-- POWER_STATE taken (R351): a deeper state is entered, with the recording that P1 asks for; a shallower one is reached at
once, its exit work begun. -/
def State.runPower (c : HostCmd) (s : State) : State :=
  let n := c.entry.cd 0 1
  let s1 := s.addCmd c (Cmd.start c s.clock .moving)
  if n > s.power.state then
    { s1 with power := { s1.power with target := some (n, refOf c) } }.powerGo
  else
    let s2 := if s.power.state ≥ 2 ∧ n < 2 then s1.leaveQuiet else s1
    let s3 := if n < 3 then s2.eachPort fun _ h => { h with l1 := false } else s2
    { s3 with power := { s3.power with state := n } }.finish (refOf c) (.ok 0)

/-- Checks 6 to 10 of POWER_STATE: TARGET 0 to 3, and none while another is in progress (R351). -/
def powerOwn (c : HostCmd) (s : State) : Option Ending :=
  if c.entry.cd 0 1 > 3 then some (.st 2)
  else if s.power.target.isSome ∨ s.power.exiting then some (.st 0xE) else none

end Sys2Proof.Machine
end

