-- ==== Sys2Proof/Machine/PoisonOps.lean ====
section
/-!
DEFINITION. Where the poison mark takes effect (09, Table 9.3, R292; 04, R140), and what a scrub makes of a page (R295).
-/
namespace Sys2Proof.Machine

/-! ### Volume contexts (R292) -/

/-- The page that mirrors a page on the die's other stack (R292; which page mirrors which is a DESIGN CHOICE, log 45). -/
def mirrorOf (a : PageAddr) : PageAddr :=
  { a with stack := ⟨(a.stack.val / 2 * 2 + (1 - a.stack.val % 2)) % 4, by omega⟩ }

/-- An accepted record that is lost with its context is logged on its port (R292). -/
def State.logLost (s : State) (r : Rec) : State :=
  s.logErr r.port { time := s.micros, sqid := r.qid, tag := 0, opc := 0, status := 0x10, reason := 0, lon := r.lon, aux0 := 0, aux1 := 0, aux2 := [] }

/-- Both copies of a page are poisoned: the context is lost. FLUSHes waiting on the volume complete with 0x10, accepted records
that are not durable are abandoned and logged, and what else is outstanding on the station completes with 0x0C
(R292) (DEDUCED, log 95). -/
def State.loseContext (s : State) (st : Stn) : State :=
  match (s.stns[st]).ctx with
  | none => s
  | some v =>
    let gone := v.recs.filter fun r => r.arrived && r.abandon.isNone && !r.durable
    let s1 := s.modStn st fun t => t.modCtx fun v => { v with
      lost := true, recs := v.recs.map fun r => if r.arrived && r.abandon.isNone && !r.durable then r.abandonAs .lost else r }
    let s2 := gone.foldl (fun a r => a.logLost r) s1
    let s3 := (s.stns[st]).write.flushes.foldl (fun a j => match j.why with
      | .flush c => a.finish c { status := 0x10, result := gone.length, lon := (gone.head?.map (·.lon)).getD 0 }
      | _ => a) s2
    let s4 := s3.modStn st fun t => t.modWrite fun w => { w with flushes := [] }
    ((s4.controlledStop st).failStation st).raise (79 + 16 * st.val)

/-! ### Gatherings (R140) -/

/-- A released gathering that is burned unrecorded: it keeps its quire position and its part in C3; a colophon copy is lost with it, and
the INCOMPLETE segments it held are to be recorded still (R466). -/
def State.dropArea (s : State) (st : Stn) (g : Gath) : State :=
  s.modStn st fun t =>
    match t.ctx with
    | none => t
    | some v =>
      let v1 := { v with burned := burnNum g.gnum v.burned }
      let v2 := if g.kind = .data then
          { v1.setAcc g.quire (c3Add v.parity g.qpos (g.area v) (v.acc g.quire)) with quires := putQuire t.write.wrap g v.quires }
        else v1
      { t with
        ctx := some { v2 with
          colBad := v2.colBad || g.kind == .colophon
          recs := v2.recs.map fun r => if g.segs.any (fun x => x.lon == r.lon && x.inc) then { r with incDone := false } else r }
        write := { t.write with gaths := t.write.gaths.filter fun x => x.gnum != g.gnum } }

/-- A released gathering whose data area is found poisoned before its position 0 is sent: it is burned unrecorded, keeps its
quire position and its part in C3, later ones are placed again, and its records are abandoned (R140). -/
def State.burnReleased (s : State) (st : Stn) (gnum : Nat) : State :=
  match (s.stns[st]).write.gaths.find? fun g => g.gnum == gnum && g.released && !g.recorded with
  | none => s
  | some g =>
    let t := s.stns[st]
    let here := fun (p : TxPos) => match p.kind with | .gathering n _ _ => n == gnum | _ => false
    let keep := (t.write.toSend.takeWhile fun p => !here p).length
    let begun := t.write.sent.any here || (keep = 0 && g.placed && allLanes.any fun l => (t.link.lanes[l]).txCells > 0)
    if begun then s
    else
      let s1 := if g.placed then s.unplace st keep false else s
      let s2 := s1.dropArea st g
      ((g.segs.map (·.lon)).foldl (fun a n => a.abandonRec st n .lost) s2).settle st

/-- A row that is poisoned when it is read again for a copy is unrewritten: its copies not yet sent give way to filler (R140). -/
def Write.rowPoisoned (w : Write) (gnum row : Nat) : Write :=
  match w.rwq.find? fun e => e.gnum == gnum && e.row == row with
  | none => w
  | some e =>
    { w.unrewritten e with
      rwq := w.rwq.filter fun x => x != e
      toSend := w.toSend.map fun p => { p with slots := p.slots.map fun x => match x with | .copy g _ r => if g = gnum ∧ r = row then .filler else x | .filler => x } }

/-! ### Scrubbing (R294, R295) -/

/-- Whether a page of the pool region lies in an allocated buffer. -/
def State.pageInUse (s : State) (a : PageAddr) : Bool :=
  let d := s.dies[dieOfStack a.stack]
  a.region == .pool && (match d.bufferOf a.name with
    | some (p, i) => ((d.pools[fin5 p]).buf i).allocated
    | none => false)

/-- What a scrub makes of a page (R294, R295): a corrected one is to be written back and verified; an uncorrectable one is rewritten,
with its poison stored where its buffer is in use and as a clean zero page otherwise, and remapped. A spare in use is scrubbed as the page
it serves. A scrub is no owner: its entries name owner 0 (DESIGN CHOICE, log 166). -/
def State.scrubPage (s : State) (place : PageAddr) (l : PageLine) (detail : Nat) : State :=
  let a := s.serves place
  let g := s.page a
  let r := s.decodePage a l
  if r.1.bad then
    let g1 := if s.pageInUse a then { g with data := r.2.data, poison := allPoison } else { g with data := zeros 4096, poison := 0 }
    let s1 := ((s.elogPage a 1 0 detail g.handle 0).raise (33 + 8 * a.stack.val) a.name).writePage a g1
    s1.hardFault a (s1.page a) 0 detail g.handle 0
  else if r.1.fixed > 0 then (s.countCorrected a r.1.fixed).schedule ⟨a, r.2.wgen, r.1.fixed, detail, g.handle, 0⟩
  else s

end Sys2Proof.Machine
end

