-- ==== Sys2Proof/Machine/MemCmds.lean ====
section
/-!
DEFINITION. The rows of buffer memory (09): pool operations, page reads and writes, write-backs, the patrol and the range scrub, the
leak of the error buckets, and the commands SCRUB_RANGE and RETIRE_PAGE.
-/
namespace Sys2Proof.Machine

/-! ### Pools -/

/-- A request that cannot be served now joins the wait list; a command then waits for its buffer (R313), and a compression job leaves
its lane (R160). -/
def State.poolWait (s : State) (d : DieId) (p : Fin 5) (w : Waiter) : State :=
  let s1 := s.modDie d fun x => x.modPool p fun q => { q with waits := q.waits ++ [w] }
  match w.use with
  | .command pt q tag => s1.modCmd ⟨pt, q, tag⟩ fun c => if c.phase = .needBuffer then { c with phase := .waitBuffer } else c
  | .compressOut st lon | .siding st lon => s1.backToWait (dieOf st) rComp (.compress st lon)
  | _ => s1

/-- The die whose pools serve a request: that of the station the buffer serves, or for a command that names none that of its port
(R13); none where the request does not say. -/
def State.useDie (s : State) (owner : Nat) (use : PoolUse) : Option DieId :=
  match use with
  | .command p q tag => (s.cmd? ⟨p, q, tag⟩).map fun k => if k.entry.stn.toNat < 8 then dieOf k.entry.st else p
  | .compressOut st _ | .siding st _ | .gathering st | .c2Rows st _ | .context st => some (dieOf st)
  | .other => if 5 ≤ owner ∧ owner ≤ 12 then some (dieOf (stnOf (owner - 5))) else if owner = 1 ∨ owner = 2 then some (fin2 (owner - 1)) else none

/-- The pool that the write pipeline takes a buffer from (Table 4.1, Table 9.8). -/
def usePool : PoolUse → Option (Fin 5)
  | .compressOut _ _ => some 3
  | .siding _ _ | .c2Rows _ _ => some 1
  | .gathering _ => some 2
  | .command .. | .context _ | .other => none

/-- Requests for a record's output that wait. -/
def State.outWaits (s : State) (st : Stn) (lon : Nat) : Nat :=
  ((s.dies[dieOf st]).pools.toList.flatMap (·.waits)).countP fun w => w.use == .compressOut st lon || w.use == .siding st lon

/-- Whether a request for a use waits. -/
def State.waits (s : State) (use : PoolUse) : Bool := s.dies.toList.any fun x => x.pools.toList.any fun q => q.waits.any fun w => w.use == use

/-- Whether an agent makes a request as the rules have it: from its own die's pools (R13), the 2 MiB buffer of a job first and once,
sidings as far as the block to come needs them, which is three at most (R159, R160), one buffer ahead for the next gathering, and one
for its C2 rows (Table 4.1). Other requests are never made (DEDUCED, log 132). -/
def State.mayRequest (s : State) (d : DieId) (owner len : Nat) (use : PoolUse) : Bool :=
  (s.useDie owner use).all (· == d) && (usePool use).all (fun p => poolFor len == some p) && match use with
  | .compressOut st lon => s.outCap st lon == 0 && s.outWaits st lon == 0
  | .siding st lon => ((s.stns[st]).ctx.bind fun v => v.rec? lon).any fun r =>
    r.outCap > 0 && decide (r.outCap + 65536 * s.outWaits st lon < r.stream.length + 131075)
  | .gathering st => (s.stns[st]).write.bufs.isEmpty && !s.waits use
  | .c2Rows st n => (s.stns[st]).write.gaths.any (fun g => g.gnum == n && g.released && g.c2Buf.isNone) && !s.waits use
  | _ => true

/-- A request that is refused for good: the command of a host port completes with 0x0D (R313), also where its length is invalid, for
which the spec names no status (R304; DESIGN CHOICE, log 133). -/
def State.poolRefuse (s : State) (use : PoolUse) : State :=
  match use with
  | .command p q tag => s.refuseCmd ⟨p, q, tag⟩
  | _ => s

/-- Assembly and labels go on with a buffer that has been granted for a gathering (R104). -/
def State.useGo (s : State) (use : PoolUse) : State :=
  match use with
  | .gathering st => (s.numberLabels st).settle st
  | _ => s

/-- POOL_GRANT (R13, R159, R160, R304, R309, R310, R312, R313). A request by an ID that is no agent's is misuse, with no handle in its
entry. -/
def execPoolGrant (d : DieId) (owner len : Nat) (use : PoolUse) (s : State) : Host.Outcome State Fault Refusal :=
  .next (if !actingOwner owner then s.misuse d owner 0 10
    else if !s.mayRequest d owner len use then s else match poolFor len with
    | none => s.poolRefuse use
    | some p =>
      if !s.poolTurn d p (.poolGrant d owner len use) then s else match s.grantOutcome d p owner with
      | .granted => let r := s.takeBuf d p owner; ((r.2.grantUse d r.1 use).grantsGo).useGo use
      | .none => s.poolWait d p ⟨owner, len, use⟩
      | .refused => if owner = 1 ∨ owner = 2 then s.poolRefuse use else s.poolWait d p ⟨owner, len, use⟩)

/-- A RELEASE, ADD or FREE is done: after the cycle's last one the wakes come (R310). -/
def State.opsDone (s : State) (d : DieId) (p : Fin 5) : State := if s.poolBusy d p then s else (s.wakeDue d p).grantsGo

/-- A FABRIC cycle passes: wakes still due come at its end (R310). -/
def State.tick (s : State) : State :=
  let s1 := if s.dies.toList.any fun x => x.pools.toList.any fun q => decide (0 < q.due) then
      (([0, 1] : List DieId).foldl (fun a d => ([0, 1, 2, 3, 4] : List (Fin 5)).foldl (fun b p => b.wakeDue d p) a) s).grantsGo
    else s
  { s1 with clock := s1.clock + 1 }

/-- POOL_ADD (R309, R310). -/
def execPoolAdd (d : DieId) (owner : Nat) (handle : BitVec 32) (name : Nat) (s : State) : Host.Outcome State Fault Refusal :=
  .next (match addMisuse (s.dies[d]) owner handle name with
    | some n => s.misuse d owner handle n
    | none => if !s.poolTurn d (fin5 (hPool handle)) (.poolAdd d owner handle name) then s else
      (s.modDie d fun x => x.modPool (fin5 (hPool handle)) fun q =>
        let b := q.buf (hIndex handle)
        q.setBuf { b with owners := b.owners ++ [name] }).opsDone d (fin5 (hPool handle)))

/-- POOL_RELEASE (R309, R310): an owner that is not the last-named leaves; the buffer returns with the last share of a pending FREE. -/
def execPoolRelease (d : DieId) (owner : Nat) (handle : BitVec 32) (s : State) : Host.Outcome State Fault Refusal :=
  .next (match releaseMisuse (s.dies[d]) owner handle with
    | some n => s.misuse d owner handle n
    | none => if !s.poolTurn d (fin5 (hPool handle)) (.poolRelease d owner handle) then s else
      let b := (s.dies[d]).bufOf handle
      (s.strike d handle (b.owners.filter (· != owner)) b.freePend).opsDone d (fin5 (hPool handle)))

/-- POOL_FREE (R309, R310). -/
def execPoolFree (d : DieId) (owner : Nat) (handle : BitVec 32) (s : State) : Host.Outcome State Fault Refusal :=
  .next (match freeMisuse (s.dies[d]) owner handle with
    | some n => s.misuse d owner handle n
    | none => if !s.poolTurn d (fin5 (hPool handle)) (.poolFree d owner handle) then s else (s.freeBuf d handle).opsDone d (fin5 (hPool handle)))

/-! ### Pages -/

/-- The bytes of a beat, lowest first. -/
def beatBytes (b : BitVec 512) : List Byte := leBytes 64 b.toNat

/-- Beats merged into a page from beat `first` on: data and poison marks (R289). -/
def PageImg.merge (g : PageImg) (first : Nat) (beats : List (BitVec 512)) (poison : BitVec 64) : PageImg :=
  let n := min beats.length (64 - first)
  let mask : BitVec 64 := BitVec.ofNat 64 ((2 ^ n - 1) <<< first)
  { g with
    data := g.data.take (64 * first) ++ ((beats.take n).flatMap beatBytes) ++ g.data.drop (64 * (first + n))
    poison := (g.poison &&& ~~~mask) ||| (poison &&& mask) }

/-- The owner ID last named on the buffer of a handle (Table 9.2); 0 where it has none. -/
def State.lastNamed (s : State) (a : PageAddr) (h : BitVec 32) : Nat :=
  if a.region = .pool then ((s.dies[dieOfStack a.stack]).bufOf h).owners.getLastD 0 else 0

/-- PAGE_WRITE (R289, R307, Table 9.2): a whole page is replaced; a partial write reads, merges and writes, and where that read is
uncorrectable the new beats are written clean and the others poisoned. A stale write is dropped. -/
def execPageWrite (a : PageAddr) (handle : BitVec 32) (actor first : Nat) (beats : List (BitVec 512)) (poison : BitVec 64) (l : PageLine)
    (s0 : State) : Host.Outcome State Fault Refusal :=
  let s := s0.takeSlot a
  if !a.exists then .fault .noSuchPage
  else if s.staleAccess a handle then .next (s.logStale a handle actor)
  else if beats.length ≥ 64 then
    .next (s.writePage a { ((s.page a).merge 0 beats poison) with handle := handle, owner := s.lastNamed a handle })
  else
    let r := s.readPage a l 4 handle actor
    let g := r.1.merge first beats (if (s.decodePage a l).1.bad then 0 else poison)
    .next (r.2.writePage a { g with handle := handle, owner := s.lastNamed a handle, wgen := (r.2.page a).wgen })

/-! ### Write-backs and scrubs (R29, R294 to R296) -/

/-- The summary (Table 9.4). -/
def ScrubJob.bytes (j : ScrubJob) : List Byte :=
  leBytes 4 j.npage ++ leBytes 4 j.ncorr ++ leBytes 4 j.nbits ++ leBytes 2 j.maxBits ++ leBytes 2 j.nunc ++ leBytes 2 j.nremap
    ++ leBytes 2 j.nskip ++ zeros 4 ++ ((j.unc.take 10).flatMap (leBytes 4)) ++ List.replicate (40 - 4 * min j.unc.length 10) 0xFF

/-- A range scrub that has read its last page, and of which no write-back waits, completes with its summary (R296). -/
def State.scrubGo (s : State) (d : DieId) : State :=
  match (s.dies[d]).scrub with
  | none => s
  | some j =>
    if j.left = 0 ∧ !(s.hbm.toList.any fun k => k.wbs.any fun w => w.detail == 3 && dieOfStack w.addr.stack == d) then
      (s.modDie d fun x => { x with scrub := none }).finishWith j.cmd (.ok j.nunc) j.bytes
    else s

/-- What a range scrub counts of a write-back of its own: one that was skipped, and a page that its verify read remapped. -/
def State.scrubCounts (s : State) (w : PendingWb) (skip remap : Nat) : State :=
  if w.detail = 3 then
    s.modDie (dieOfStack w.addr.stack) fun x => { x with scrub := x.scrub.map fun (j : ScrubJob) => { j with nskip := j.nskip + skip, nremap := j.nremap + remap } }
  else s

/-- Whether the remap table of a stack has changed between two states. -/
def remapped (s s1 : State) (k : Fin 4) : Nat := if (s1.hbm[k]).remap = (s.hbm[k]).remap then 0 else 1

/-- WRITE_BACK: the oldest scheduled write-back of a stack is carried out once class M has a slot, or dropped and counted as skipped
because its page has changed since the read. -/
def execWriteBack (k : Fin 4) (verify : PageLine) (s : State) : Host.Outcome State Fault Refusal :=
  .next (match (s.hbm[k]).wbs with
    | [] => s
    | w :: rest => if !s.mGranted w.addr then s else
      let s1 := (s.takeM w.addr).modStack k fun x => { x with wbs := rest }
      let s2 := if (s1.page w.addr).wgen ≠ w.wgen then (s1.elogPage w.addr 3 w.bits w.detail w.handle w.actor).scrubCounts w 1 0
        else let s2 := s1.writeBackPage w verify; s2.scrubCounts w 0 (remapped s1 s2 w.addr.stack)
      s2.scrubGo (dieOfStack w.addr.stack))

/-- Whether a range scrub waits for class M at the pseudo-channel of a page: it goes first (R296). -/
def State.scrubFirst (s : State) (a : PageAddr) : Bool :=
  match (s.dies[dieOfStack a.stack]).scrub with
  | some j => let b := dpnPage (dieOfStack a.stack) j.next
    decide (0 < j.left) && b.stack == a.stack && (s.redirect b).channel == (s.redirect a).channel
  | none => false

/-- PATROL_SCRUB (R29, R295): the next page of a stack; not while PATROL_H is 0, nor in P3 (Table 10.11), nor before class M has a slot
that a range scrub does not take. `flips` and `place` are those of a `PageLine`. -/
def execPatrolScrub (k : Fin 4) (flips : List Nat) (place : Option PageAddr) (s : State) : Host.Outcome State Fault Refusal :=
  .next (if s.img.patrolH = 0 ∨ s.power.state = 3 then s
    else
      let n := (s.hbm[k]).patrol
      let a := patrolPage k n
      if !s.mGranted a ∨ s.scrubFirst a then s
      else ((s.takeM a).scrubPage a ⟨flips, place⟩ 2).modStack k fun x => { x with patrol := (n + 1) % stackPages })

/-- CE_LEAK (R293). -/
def execCeLeak (s : State) : Host.Outcome State Fault Refusal :=
  .next { s with hbm := s.hbm.map fun k => { k with buckets := k.buckets.map (· - 1) } }

/-! ### SCRUB_RANGE (R296) -/

/-- Checks 6 to 10 of SCRUB_RANGE: the range of Table 10.5, and one scrub on a die at a time. -/
def scrubOwn (c : HostCmd) (s : State) : Option Ending :=
  let e := c.entry
  let dpn := e.cd 4 4
  let n := e.cd 8 4
  if e.cd 0 1 > 1 ∨ dpn ≥ dieDpns ∨ n < 1 ∨ n > dieDpns - dpn then some (.st 2)
  else if (s.dies[fin2 (e.cd 0 1)]).scrub.isSome then some (.st 0xE) else none

/-- A scrub with nothing read yet. -/
def ScrubJob.start (r : CmdRef) (e : Entry) : ScrubJob :=
  { cmd := r, rptr := e.rptr, next := e.cd 4 4, left := e.cd 8 4, npage := 0, ncorr := 0, nbits := 0, maxBits := 0,
    nunc := 0, nremap := 0, nskip := 0, unc := [] }

/-- The scrub begins, unless another began on the die while this command waited for P0. -/
def State.startScrub (r : CmdRef) (s : State) : State :=
  match s.cmd? r with
  | none => s
  | some k =>
    let d := fin2 (k.entry.cd 0 1)
    if (s.dies[d]).scrub.isSome then s.finish r (.st 0xE)
    else (s.modCmd r fun k => { k with phase := .moving }).modDie d fun x => { x with scrub := some (ScrubJob.start r k.entry) }

/-- SCRUB_RANGE 0x8D. -/
def execScrubRange (c : HostCmd) (s : State) : Host.Outcome State Fault Refusal :=
  .next (s.host 0x8D c (scrubOwn c) unblocked fun s => s.launch c (Cmd.start c s.clock .moving) State.startScrub)

/-- RANGE_SCRUB_READ (R29, R296): the next page of the range once class M has a slot. `flips` and `place` are those of a `PageLine`. -/
def execRangeScrubRead (d : DieId) (flips : List Nat) (place : Option PageAddr) (s : State) : Host.Outcome State Fault Refusal :=
  .next (match (s.dies[d]).scrub with
    | none => s
    | some j =>
      let a := dpnPage d j.next
      if j.left = 0 ∨ !s.mGranted a then s else
      let l : PageLine := ⟨flips, place⟩
      let o := (s.decodePage a l).1
      let s1 := (s.takeM a).scrubPage a l 3
      let j1 : ScrubJob := { j with
        next := j.next + 1, left := j.left - 1, npage := j.npage + 1, ncorr := j.ncorr + (if o.fixed > 0 then 1 else 0)
        nbits := j.nbits + o.fixed, maxBits := max j.maxBits o.fixed, nunc := j.nunc + o.bad.toNat
        nremap := j.nremap + remapped s s1 a.stack, unc := if o.bad then j.unc ++ [j.next] else j.unc }
      (s1.modDie d fun x => { x with scrub := some j1 }).scrubGo d)

/-! ### RETIRE_PAGE (R300) -/

/-- The DPNs of a die that RETIRE_PAGEs still to be written bring to its list. -/
def State.retiring (s : State) (d : DieId) : List Nat :=
  ((s.ledger.writing.filterMap fun w => match w with | .retire d' n _ => if d' = d then some n else none | _ => none).filter fun n =>
    !(s.ledger.retired[d]).contains n).eraseDups

/-- Checks 6 to 10 of RETIRE_PAGE, those under way counted; a full list has a log reason whose number the spec does not give: a free value (log 46). -/
def retireOwn (c : HostCmd) (s : State) : Option Ending :=
  let e := c.entry
  let d := fin2 (e.cd 0 1)
  let l := s.ledger.retired[d] ++ s.retiring d
  if e.cd 0 1 > 1 ∨ e.cd 4 4 ≥ dieDpns then some (.st 2)
  else if !l.contains (e.cd 4 4) ∧ l.length ≥ 2048 then some { status := 2, reason := Config.freeNat s.fresh % 255 + 1, aux1 := e.cd 4 4 }
  else none

/-- RETIRE_PAGE 0x8C: a DPN not on the list is written to the ledger, and the command waits for that write. -/
def execRetirePage (c : HostCmd) (s : State) : Host.Outcome State Fault Refusal :=
  .next (s.host 0x8C c (retireOwn c) unblocked fun s =>
    let d := fin2 (c.entry.cd 0 1)
    let s1 := s.addCmd c (Cmd.start c s.clock .moving)
    if (s.ledger.retired[d]).contains (c.entry.cd 4 4) then s1.finish (refOf c) (.ok 0)
    else { s1 with ledger := { s1.ledger with writing := s1.ledger.writing ++ [.retire d (c.entry.cd 4 4) (refOf c)] } })

/-- The ledger write of a retirement has completed: the page is logged, with its buffer and the port that sent the command, and its buffer is withdrawn, at once if it is free and
otherwise when it would return (R300, R302). -/
def State.retired (s : State) (d : DieId) (dpn : Nat) (port : Port) : State :=
  let s1 := { s with ledger := { s.ledger with retired := vmod s.ledger.retired d fun l => if l.contains dpn ∨ l.length ≥ 2048 then l else l ++ [dpn] } }
  match (s1.dies[d]).bufferOf dpn with
  | none => s1.elogPage (dpnPage d dpn) 7 0 0 0 (1 + port.val)
  | some (p, i) =>
    let b := ((s1.dies[d]).pools[fin5 p]).buf i
    let s2 := s1.elogPage (dpnPage d dpn) 7 0 0 (mkHandle p i b.gen) (1 + port.val)
    let s3 := s2.modDie d fun x => x.modPool (fin5 p) fun q => q.setBuf { b with withdrawn := true }
    if b.allocated then s3 else s3.dropRemap d (mkHandle p i b.gen) [dpn]

end Sys2Proof.Machine
end

