-- ==== Sys2Proof/Machine/QueueOps.lean ====
section
/-!
DEFINITION. What the queue rows share (10, R339, R347 to R349, Table 10.10; 12, R405): reading that nothing wants any more, and
how the commands of a queue are aborted.
-/
namespace Sys2Proof.Machine

/-- Whether anything still reads a station's tape: a reader, a MOUNT or the source of a MIGRATE. -/
def State.wantsRead (s : State) (st : Stn) : Bool :=
  !(s.readersOf st).isEmpty || (s.stns[st]).mountCmd.isSome || s.migs.any fun j => !j.stopped && j.src == st && j.phase ≤ 3

/-- Reading ends where nothing wants it: what was read is forgotten and the tape stops (R346). -/
def State.endReading (s : State) (st : Stn) : State :=
  let t := s.stns[st]
  if !t.readSide.active ∨ s.wantsRead st then s
  else (s.modStn st fun t => { t with readSide := t.readSide.done, speed := { t.speed with wantSeek := false } }).controlledStop st

/-- A mount that is given up: the volume leaves the station, which stops and opens (DEDUCED, log 96). -/
def State.dropMount (s : State) (st : Stn) : State :=
  let s1 := s.dismount st
  if (s1.stns[st]).servo.motion = .moving then s1.controlledStop st else s1.openLoops st

/-- An aborted command's locks and buffer waits go, and it waits for no power state. -/
def State.forgetCmd (s : State) (r : CmdRef) : State :=
  let s0 := (s.unlock r).dropWaits fun w => w.use == .command r.port r.qid r.tag
  { s0 with power := { s0.power with waiting := s0.power.waiting.filter (· != r) } }

/-- A job stops (R280): the source is read no further; the destination's records are finished and flushed before the job is over and its
MIGRATE, where one still waits, completes. `j` is the job as it stops. -/
def State.migHalt (s : State) (j : MigJob) : State :=
  let j1 : MigJob := { j with phase := 5, seen := if j.phase = 3 then (s.stns[j.src]).readSide.gaths else j.seen }
  let s1 := ({ s with migs := modFirst (fun x => !x.stopped && x.src == j.src) (fun _ => j1) s.migs } : State).endReading j.src
  match (s1.stns[j.dst]).ctx with
  | none => s1.endMig j1 0
  | some v => if v.owes v.coverAll then s1.addFlush j.dst .migrate v.coverAll else s1.endMig j1 v.lon

/-- What an aborted command of each kind leaves behind (Table 10.10): an APPEND's record is abandoned, a FLUSH's work runs on without
it, a SEAL and a MIGRATE stop, a MOUNT is given up, and a test, a scrub or a staging session ends. -/
def State.abortKind (s1 : State) (r : CmdRef) (k : Cmd) : State :=
  let st := k.entry.st
  match k.entry.opc.toNat with
  | 0x01 => ((s1.abandonRec st k.lon .queueGone).sealGo st).settle st
  | 0x02 | 0x03 | 0x06 => (s1.modStn st fun t => t.modWrite fun w => { w with
      flushes := w.flushes.map fun j => if j.why = .reader r then { j with why := .none } else j }).endReading st
  | 0x04 => s1.modStn st fun t => t.modWrite fun w => { w with flushes := w.flushes.map fun j => if j.why = .flush r then { j with why := .none } else j }
  | 0x07 => (match s1.migs.find? fun j => j.cmd == some r && !j.stopped with
    | some j => s1.migHalt { j with cmd := none, status := 0x0D }
    | none => s1)
  | 0x08 => s1.modStn st fun t => { t with
      ctx := t.ctx.map fun v => if v.sealCmd = some r then { v with sealCmd := none } else v
      write := { t.write with flushes := t.write.flushes.map fun j => if j.why = .seal r then { j with why := .none } else j } }
  | 0x85 => if (s1.stns[st]).mountCmd = some r then s1.dropMount st else s1
  | 0x88 => if s1.test.any (fun x => x.cmd == r) then { s1 with test := none } else s1
  | 0x8D => s1.eachDie fun _ d => { d with scrub := d.scrub.filter fun j => j.cmd != r }
  | _ => s1

/-- What an aborted command leaves behind (Table 10.10). -/
def State.abortEffect (s : State) (r : CmdRef) (k : Cmd) : State := (s.forgetCmd r).abortKind r k

/-- An APPEND that has finished but whose completion is not written: it is not done, and its record is abandoned (R348). -/
def State.undone (s : State) (p : Port) (q : Nat) (d : Done) : State :=
  let s1 := s.unlock ⟨p, q, d.tag⟩
  if d.opc = 1 ∧ d.kept then
    (let st := stnOf d.stn.toNat
     ((s1.abandonRec st d.result.toNat .queueGone).settle st))
  else s1

/-- Every command of a queue whose completion has not been written is aborted, with no completion (R347 step 2, R405). -/
def State.abortQueue (s : State) (p : Port) (q : Nat) : State :=
  match (s.ports[p]).qp? q with
  | none => s
  | some x =>
    let s1 := s.modQp p q fun x => { x with cmds := [], done := [], held := none }
    let s2 := x.cmds.foldl (fun a k => a.abortEffect ⟨p, q, k.entry.tag⟩ k) s1
    x.done.foldl (fun a d => a.undone p q d) s2

/-- Keys of a queue whose record has been abandoned are released (R470). -/
def State.dropGoneKeys (s : State) (p : Port) (q : Nat) : State :=
  s.dropKey p q fun k => (s.stns[k.stn]).ctx.all fun v => (v.rec? k.lon).all fun r => r.abandon.isSome

/-- Records still open on a queue that goes are abandoned (R339). -/
def State.abandonOpen (s : State) (p : Port) (q : Nat) : State :=
  allStns.foldl (fun a st =>
    match (a.stns[st]).ctx with
    | none => a
    | some v => ((v.recs.filter fun r => r.isOpen && r.port == p && r.qid == q).foldl (fun b r => b.abandonRec st r.lon .queueGone) a).settle st) s

/-! ### Completions (R319, R321, R322, R327, R328) -/

/-- A completion entry (Table 10.3). -/
def Done.word (d : Done) (q sqhd : Nat) (phase : Bool) : BitVec 128 :=
  BitVec.ofNat 16 (phase.toNat + 2 * d.status.toNat + 512 * d.log.toNat + 1024 * d.final.toNat) ++ (if d.final then 0 else d.tag)
    ++ BitVec.ofNat 16 q ++ BitVec.ofNat 16 sqhd ++ d.result

/-- An APPEND has completed with status 0x00, and its bytes count as reported (R345, R466). -/
def State.reported (s : State) (d : Done) : State :=
  if d.opc = 1 ∧ d.kept then
    s.modRec (stnOf d.stn.toNat) d.result.toNat fun r => { r with written := r.written + d.len, anyDone := true }
  else s

/-- After a FINAL entry: the entries written but not taken are discarded, and the RESET_QP completes (R347 steps 4 and 5). -/
def State.finalDone (s : State) (p : Port) (q : Nat) : State :=
  match (s.ports[p]).qp? q with
  | none => s
  | some x =>
    let s1 := s.modQp p q fun x => { x with sqHead := x.sqTail, resetting := none }
    match x.resetting with
    | some r => s1.finish r (.ok 0)
    | none => s1

/-- COMPLETION_WRITE: the oldest finished command of a queue is reported, where the completion queue has room and no quiesce has
stopped the port (R400 step 1). -/
def State.writeDone (s : State) (p : Port) (q : Nat) : State :=
  match (s.ports[p]).qp? q with
  | none => s
  | some x =>
    match x.done with
    | [] => s
    | d :: rest =>
      if x.cqFull || !s.answers p then s
      else
        let slot := x.cqNext
        let next := (slot + 1) % x.depth
        let s1 := s.modQp p q fun x => { x with done := rest, cqNext := next, phase := if next = 0 then !x.phase else x.phase }
        let s2 := s1.emit (.completion p q slot (x.cqBase + BitVec.ofNat 64 (16 * slot)) (d.word q (d.sqhd.getD x.sqHead) x.phase))
        let s3 := if d.final then s2 else (if d.locks then s2.unlock ⟨p, q, d.tag⟩ else s2).reported d
        let s4 := (s3.msix p x.vec).trace p 2 [packetHead 2 p.val s.time, cmdWord q (if d.final then 0 else d.tag) d.opc d.stn d.status, d.result]
        let s5 := if d.final then s4.finalDone p q else s4
        (s5.fenceGo p q).powerGo

end Sys2Proof.Machine
end

