-- ==== Sys2Proof/Machine/RegMap.lean ====
section
/-!
DEFINITION. The register map of a port (14): what a read of BAR0 returns. Reads that change the state (TRC_DATA, SUP_V0) have
rows of their own; this is the value that stands in each register.
-/
namespace Sys2Proof.Machine

/-- A register word from its fields: lowest bit, length, value. A reserved bit reads 0 (R9). -/
def fields (l : List (Nat × Nat × Nat)) : Nat := l.foldl (fun a f => a + f.2.2 % 2 ^ f.2.1 * 2 ^ f.1) 0

/-- A bit for each of a list of flags, the first at bit 0. -/
def flagBits (l : List Bool) : Nat := natOfBits l.reverse

/-- The number of a slot in the boot record (Table 11.7). -/
def SlotId.code : SlotId → Nat
  | .factory => 0
  | .a => 1
  | .b => 2

/-- TSTATE's code. -/
def TState.code : TState → Nat
  | .none => 0
  | .pending => 1
  | .running => 2
  | .expired => 3

/-- STN_STATE.MOTION. -/
def Motion.code : Motion → Nat
  | .open_ => 0
  | .tensioned => 1
  | .moving => 2
  | .hold => 3

/-- STN_STATE.MOUNT. -/
def Mode.code : Mode → Nat
  | .read => 1
  | .append => 2
  | .blank => 3

/-- STN_STATE.VOLSTATE, as MOUNT RESULT [39:32]. -/
def VolState.code : VolState → Nat
  | .blank => 0
  | .unsealed => 1
  | .sealed => 2
  | .faultSealed => 3

/-- Whether the running image is on trial. -/
def Ledger.onTrial (l : Ledger) : Bool := l.tstate == .running || l.tstate == .expired

/-- DEV_STATUS as a port reads it (Table 14.4). -/
def State.devStatus (s : State) (p : Port) : Nat :=
  let h := s.ports[p]
  fields [(0, 1, (s.ready || s.rst.stage == .recovery).toNat), (1, 1, s.boot.recovery.toNat), (2, 1, (h.aqErr != 0).toNat), (4, 2, s.power.state),
    (6, 1, (s.power.target.isSome || s.power.exiting).toNat), (7, 1, s.ledger.onTrial.toNat), (8, 1, h.aqEn.toNat),
    (9, 1, (allStns.any fun t => (s.stns[t]).stabled).toNat), (10, 2, flagBits [s.dies[0].fault, s.dies[1].fault]),
    (12, 1, s.ucieDown.toNat), (16, 8, flagBits (allStns.map fun t => (s.stns[t]).mount.isSome)),
    (24, 8, flagBits (allStns.map fun t => (s.stns[t]).inFault || s.linkLost t))]

/-- The trace queue a port has selected: die and queue (R432). -/
def HostPort.traceSel (h : HostPort) : DieId × Fin 4 := (fin2 (h.qsel.toNat / 4), ⟨h.qsel.toNat % 4, by omega⟩)

/-- The trace window of a port: TRC_CTL to TRC_ERR (Tables 13.5 and 14.8). -/
def State.traceRegs (s : State) (p : Port) : List (Nat × Nat × Nat) :=
  let h := s.ports[p]
  let q := (s.dies[h.traceSel.1]).trace[h.traceSel.2]
  [(0x800, 4, fields [(0, 3, h.qsel.toNat), (4, 1, q.en.toNat)]),
   (0x804, 4, fields [(0, 1, (h.underrun.getLsbD h.qsel.toNat).toNat), (1, 1, (q.frag && !q.words.isEmpty).toNat),
     (2, 1, q.lastEnd.toNat), (3, 1, q.lastCorr.toNat), (4, 1, q.bfPend.toNat)]),
   (0x808, 4, fields [(0, 14, q.words.length), (16, 14, q.packets)]),
   (0x80C, 4, q.lost.toNat), (0x810, 4, fields [(0, 16, q.corr.toNat), (16, 16, q.unc.toNat)])]

/-- The monitor window of a port (Table 14.7). -/
def HostPort.monRegs (h : HostPort) : List (Nat × Nat × Nat) :=
  let m := h.snap
  [(0x400, 4, h.monSel.toNat), (0x404, 4, flagBits [m.run, m.empty, m.signed, m.sat]), (0x408, 4, m.source.toNat),
   (0x410, 4, m.min.toNat), (0x414, 4, m.max.toNat), (0x418, 8, m.count.toNat),
   (0x480, 128, leNat (m.bins.toList.flatMap fun b => leBytes 4 b.toNat))]

/-- The buffer error log window of a port (Table 14.10). -/
def State.elogRegs (s : State) (p : Port) : List (Nat × Nat × Nat) :=
  let h := s.ports[p]
  let d := s.dies[fin2 h.elogDie.toNat]
  [(0x2000, 4, h.elogDie.toNat), (0x2004, 4, d.elogCnt % 65536), (0x2008, 4, d.elogCnt % 2 ^ 32), (0x200C, 4, h.elogIdx.toNat),
   (0x2010, 4, flagBits [h.elogValid, h.elogPois]),
   (0x2020, 32, match h.elogView with | some e => leNat e.bytes | none => 0)]

/-- The status block of a station from its base (Table 14.11). Speed, tension and feed rate are whole units, rounded down (DESIGN CHOICE,
log 145). -/
def State.stnRegs (s : State) (st : Stn) : List (Nat × Nat × Nat) :=
  let t := s.stns[st]
  let v := t.servo
  let b := 0x3000 + 0x100 * st.val
  let ctx := fun (f : VolCtx → Nat) => (t.ctx.map f).getD 0
  [(b, 4, fields [(0, 3, v.motion.code), (3, 2, (t.mount.map fun m => m.mode.code).getD 0), (5, 2, ctx fun c => c.state.code),
     (8, 1, ((t.link.lanes[0]).up || (t.link.lanes[1]).up).toNat), (9, 1, t.inFault.toNat), (10, 1, t.stabled.toNat),
     (11, 1, (s.migrating st).toNat), (12, 1, v.inhibit.toNat), (13, 1, v.lposOk.toNat), (14, 1, t.link.grid.isSome.toNat),
     (15, 1, v.reverse.toNat), (16, 6, v.step), (24, 6, s.ceiling st)]),
   (b + 4, 4, (t.mount.map fun m => m.num.toNat).getD 0), (b + 8, 4, v.lpos % 2 ^ 24),
   (b + 0xC, 4, fields [(0, 16, if t.readSide.active then t.readSide.wrap else t.write.wrap), (16, 8, t.write.deadTracks.length)]),
   (b + 0x10, 16, t.write.dead.toNat), (b + 0x20, 4, flagBits (t.link.lanes.toList.map (·.up))),
   (b + 0x24, 4, fields [(0, 16, v.speedMm), (16, 16, v.tHat.toInt.toNat / 524288)]),
   (b + 0x28, 4, fields [(0, 16, t.speed.vbus), (16, 16, t.speed.dipMin)]), (b + 0x2C, 4, ceilDiv (s.occupancy st) 4096),
   (b + 0x30, 4, feedRate t.speed s.clock / 1000000),
   (b + 0x34, 4, fields [(0, 16, t.write.rwq.length), (16, 3, (t.write.gaths.filter fun g => !g.released).length)]),
   (b + 0x38, 8, ctx (·.gnum)), (b + 0x40, 8, ctx (·.lon)), (b + 0x48, 4, t.link.heId.toNat), (b + 0x4C, 4, t.link.heCap.toNat),
   (b + 0x50, 16, ctx fun c => if c.state == .blank then 0 else leNat c.volid), (b + 0x60, 4, t.link.retry.length)]

/-- Supply and thermal (Table 14.12). -/
def State.supplyRegs (s : State) : List (Nat × Nat × Nat) :=
  let u := s.supply
  let h := s.thermal
  ((u.now.toList.zip u.min.toList).zipIdx.map fun x => (0x4000 + 4 * x.2, 4, fields [(0, 16, x.1.1), (16, 16, x.1.2)])) ++
  [(0x4020, 4, flagBits [u.dip, u.recov]), (0x4024, 4, u.dipLen.toNat), (0x4028, 4, u.dipMin.toNat),
   (0x4040, 4, fields [(0, 16, h.now[0].toNat), (16, 16, h.max[0].toNat)]),
   (0x4044, 4, fields [(0, 16, h.now[1].toNat), (16, 16, h.max[1].toNat)]),
   (0x4048, 4, fields [(0, 1, h.throt.toNat), (1, 1, h.stop.toNat), (8, 6, h.cap.getD 32)]),
   (0x404C, 4, fields [(0, 8, s.img.throttleC), (8, 8, s.img.stopC), (16, 8, 120)])]

/-- FABRIC cycles in a minute. -/
def minuteCycles : Nat := 48000000000

/-- Minutes left in the trial window, rounded up (LED_TRIALMIN). -/
def State.trialLeft (s : State) : Nat :=
  match s.boot.trialEnd with
  | some e => if s.ledger.tstate = .running then ceilDiv (e - s.clock) minuteCycles else 0
  | none => 0

/-- The ledger's registers (Table 14.13). -/
def State.ledgerValues (s : State) : List (Nat × Nat × Nat) :=
  let l := s.ledger
  let slot := fun (o : Option SlotId) => (o.map SlotId.code).getD 3
  [(0x5000, 4, fields [(0, 2, l.cur.code), (2, 2, (l.trial.map SlotId.code).getD 0), (4, 2, l.tstate.code), (6, 2, slot l.booted),
     (8, 8, l.rejReason), (16, 2, slot l.rejSlot)]),
   (0x5004, 4, l.floor.toNat), (0x5008, 4, s.trialLeft % 65536), (0x500C, 4, l.npfx.toNat), (0x5010, 8, l.volCnt.toNat),
   (0x5020, 48, leNat l.pin), (0x5050, 48, leNat l.tpin), (0x5080, 8, l.lifeG.toNat), (0x5088, 8, l.pwrCnt.toNat),
   (0x5090, 8, l.lifeB.toNat), (0x50C0, 4, fields [(0, 12, l.retired[0].length), (16, 12, l.retired[1].length)]),
   (0x50C4, 4, fields [(0, 7, l.bbox.length), (8, 6, if l.bboxCnt = 0 then 0 else (l.bboxCnt - 1) % 64)])]

/-- The ledger read-out of a port. Port 1 reaches the ledger only over the UCIe link (R16); what it reads there with the link down is
no value of the spec's (DESIGN CHOICE, log 144). -/
def State.ledgerRegs (s : State) (p : Port) : List (Nat × Nat × Nat) :=
  if p = 1 ∧ s.ucieDown then s.ledgerValues.map fun r => (r.1, r.2.1, Config.cutRead r.1) else s.ledgerValues

/-- Identification, features, control, admin queue and events (Tables 14.3 to 14.6). -/
def State.portRegs (s : State) (p : Port) : List (Nat × Nat × Nat) :=
  let h := s.ports[p]
  [(0, 4, Config.devId.toNat), (4, 4, Config.devRev.toNat), (8, 8, Config.serial.toNat),
   (0x10, 4, fields [(0, 1, p.val), (4, 4, h.gen), (8, 4, h.width)]), (0x14, 4, s.stnMap.toNat),
   (0x18, 4, s.img.imgVer.toNat), (0x1C, 4, s.img.secVer.toNat), (0x40, 8, s.featOffer.toNat), (0x48, 8, h.featAccept.toNat),
   (0x84, 4, s.devStatus p), (0x88, 4, s.rst.cause.toNat), (0x8C, 4, s.rst.lastRst.toNat),
   (0x100, 4, fields [(0, 1, h.aqEn.toNat), (1, 3, h.aqErr.toNat)]), (0x104, 4, h.aqDepth.toNat), (0x108, 8, h.aqSqBase.toNat),
   (0x110, 8, h.aqCqBase.toNat), (0x200, 32, h.stat.toNat), (0x220, 32, h.mask.toNat), (0x240, 256, leNat h.route.toList)]

/-- Every register of a port but TRC_DATA, as offset, length in bytes and value (Table 14.2). -/
def State.regs (s : State) (p : Port) : List (Nat × Nat × Nat) :=
  s.portRegs p ++ (s.ports[p]).monRegs ++ s.traceRegs p ++ s.elogRegs p
    ++ (allStns.flatMap fun t => if s.usable t then s.stnRegs t else []) ++ s.supplyRegs ++ s.ledgerRegs p

/-- The 4-byte word at an offset; a reserved offset reads 0 (R9). -/
def State.regWord (s : State) (p : Port) (ofs : Nat) : BitVec 32 :=
  match (s.regs p).find? fun r => r.1 ≤ ofs && ofs < r.1 + r.2.1 with
  | some r => BitVec.ofNat 32 (r.2.2 / 2 ^ (8 * (ofs - r.1)))
  | none => 0

/-- A read of BAR0 (R434, R436): one aligned access of 4 bytes, or of 8 bytes to a register of 8; any other reads 0, and so
does a register that does not answer. -/
def State.readBar0 (s : State) (p : Port) (ofs size : Nat) : BitVec 64 :=
  if !s.regAnswers p ofs then 0
  else if size = 4 ∧ ofs % 4 = 0 then (s.regWord p ofs).zeroExtend 64
  else if size = 8 ∧ (s.regs p).any (fun r => r.1 == ofs && r.2.1 == 8) then s.regWord p (ofs + 4) ++ s.regWord p ofs
  else 0

end Sys2Proof.Machine
end

