-- ==== Sys2Proof/Machine/Registers.lean ====
section
/-!
DEFINITION. The register rows (13, 14): event status, mask and routing, the MSI-X table, the monitor, trace and error-log windows,
the supply minima, and a write to any register that has no row of its own. Every one is a BAR0 access, which brings the port's link
out of L1 (R436). A read's value leaves in the log of what leaves the package.
-/
namespace Sys2Proof.Machine

/-- A write of BAR0: nothing happens where the register does not answer (R436); `f` is its effect. -/
def State.regAccess (s : State) (p : Port) (ofs : Nat) (f : State → State) : State :=
  let s1 := if (s.ports[p]).linkUp then s.modPort p fun h => { h with l1 := false } else s
  if s1.regAnswers p ofs then f s1 else s1

/-! ### Events (R414 to R416, R439) -/

/-- Word w of a 32-bit array replaced. -/
def putWord {n : Nat} (x : BitVec n) (w : Nat) (v : BitVec 32) : BitVec n :=
  (x &&& ~~~(BitVec.ofNat n (2 ^ 32 - 1) <<< (32 * w))) ||| (v.setWidth n <<< (32 * w))

/-- The sources 32w to 32w + 31 whose bit is set in a word. -/
def wordSources (w : Nat) (v : BitVec 32) : List Nat := ((List.range 32).filter fun i => v.getLsbD i).map (32 * w + ·)

/-- Several sources send their message, where mask and routing let them. -/
def State.sendEvents (s : State) (p : Port) (l : List Nat) : State := l.foldl (fun a n => a.sendEvent p n) s

/-- EVT_STAT_CLEAR: the bits written 1 are cleared; a raise that meets the write, given in `raised`, prevails: its bit stays set
and its message is sent again (R415) (DESIGN CHOICE, log 98). -/
def execEvtStatClear (p : Port) (w : Fin 8) (v : BitVec 32) (raised : BitVec 32) (s : State) : Host.Outcome State Fault Refusal :=
  .next (s.regAccess p (0x200 + 4 * w.val) fun s =>
    let old := (s.ports[p]).stat.extractLsb' (32 * w.val) 32
    let s1 := s.modPort p fun h => { h with stat := putWord h.stat w.val (old &&& ~~~(v &&& ~~~raised)) }
    s1.sendEvents p (wordSources w.val (old &&& v &&& raised)))

/-- EVT_MASK_WRITE: a source that is unmasked while its bit is set and that has a vector sends its message at once (R414). The
bits of sources 198 and 214 stay 0 (R416). -/
def execEvtMaskWrite (p : Port) (w : Fin 8) (v : BitVec 32) (s : State) : Host.Outcome State Fault Refusal :=
  .next (s.regAccess p (0x220 + 4 * w.val) fun s =>
    let h := s.ports[p]
    let old := h.mask.extractLsb' (32 * w.val) 32
    let s1 := s.modPort p fun h => { h with mask := putWord h.mask w.val v &&& ~~~(BitVec.twoPow 256 198 ||| BitVec.twoPow 256 214) }
    s1.sendEvents p (wordSources w.val (old &&& ~~~v &&& h.stat.extractLsb' (32 * w.val) 32)))

/-- Byte j of a routing word as it is applied: 0xFF or a vector the port has (R439). -/
def State.routeByte (s : State) (p : Port) (v : BitVec 32) (j : Nat) (was : Byte) : Byte :=
  let b := v.extractLsb' (8 * j) 8
  if b = 0xFF ∨ b.toNat < s.img.nvec p.val then b else was

/-- The routing bytes after a write of word w. -/
def State.routeWord (s : State) (p : Port) (w : Fin 64) (v : BitVec 32) : Vector Byte 256 :=
  let old := (s.ports[p]).route
  Vector.ofFn fun i => if i.val / 4 = w.val then s.routeByte p v (i.val % 4) old[i] else old[i]

/-- EVT_ROUTE_WRITE: a set, unmasked source that is given a vector sends its message at once (R414, R439). -/
def execEvtRouteWrite (p : Port) (w : Fin 64) (v : BitVec 32) (s : State) : Host.Outcome State Fault Refusal :=
  .next (s.regAccess p (0x240 + 4 * w.val) fun s =>
    let h := s.ports[p]
    let s1 := s.modPort p fun h => { h with route := s.routeWord p w v }
    s1.sendEvents p (((List.range 4).map (4 * w.val + ·)).filter fun n => h.stat.getLsbD n && (h.vecOf n).isNone))

/-- MSIX_VECTOR_UNMASK: a message that is pending on the vector goes out (R415). -/
def execMsixVectorUnmask (p : Port) (v : Fin 64) (s : State) : Host.Outcome State Fault Refusal :=
  .next (let h := s.ports[p]
    let s1 := s.modPort p fun h => { h with msixMask := h.msixMask &&& ~~~(BitVec.twoPow 64 v.val),
                                            msixPend := h.msixPend &&& ~~~(BitVec.twoPow 64 v.val) }
    if h.msixPend.getLsbD v.val then s1.msix p v.val else s1)

/-! ### Monitor, trace and error-log windows -/

/-- MON_SEL_WRITE: the slot named is copied into the port's snapshot (R423). -/
def execMonSelWrite (p : Port) (v : BitVec 32) (s : State) : Host.Outcome State Fault Refusal :=
  .next (s.regAccess p 0x400 fun s =>
    let d : DieId := fin2 (bits v 8 1)
    let k : Fin 64 := ⟨bits v 0 6, by unfold bits; exact (v.extractLsb' 0 6).isLt⟩
    s.modPort p fun h => { h with monSel := v.setWidth 9 &&& 0x13F, snap := ((s.dies[d]).monitors[k]).snapshot })

/-- The trace queue that a port has selected, changed by `f`. -/
def State.modSel (s : State) (p : Port) (f : TraceQ → TraceQ) : State :=
  let x := (s.ports[p]).traceSel
  s.modDie x.1 fun d => d.modTrace x.2 f

/-- FLUSH_NOW (R430). -/
def execFlushNow (p : Port) (s : State) : Host.Outcome State Fault Refusal :=
  .next (s.regAccess p 0x800 fun s => s.modSel p TraceQ.empty)

/-- FLUSH_AT_BOUNDARY: at once where the last word written ended its packet, else when the next end-marked word is in (R430). -/
def execFlushAtBoundary (p : Port) (s : State) : Host.Outcome State Fault Refusal :=
  .next (s.regAccess p 0x800 fun s => s.modSel p fun q => if q.openPkt then { q with bfPend := true } else q.empty)

/-- CLRCNT clears LOST, CORR and UNC (R432); a loss after it raises its event again (R427). -/
def execClrcnt (p : Port) (s : State) : Host.Outcome State Fault Refusal :=
  .next (s.regAccess p 0x800 fun s => s.modSel p fun q => { q with lost := 0, corr := 0, unc := 0, lossSeen := false })

/-- A port's register value leaves the package. -/
def State.answerRead (s : State) (p : Port) (v : BitVec 64) : State := s.emit (.value p v)

/-- TRC_DATA_READ: an 8-byte read, or a 4-byte read of the low half, pops the head word; the read of the high half that follows
a low one returns what that latched. With nothing latched the spec states no value, and a free one is read (R428, log 16). -/
def execTrcDataRead (p : Port) (acc : TrcAccess) (flips : BitVec 73) (s : State) : Host.Outcome State Fault Refusal :=
  .next (let s1 := s.regAccess p 0x818 fun s =>
      let h := s.ports[p]
      let x := h.traceSel
      match acc with
      | .whole => let r := s.popTrace p x.1 x.2 flips; r.2.answerRead p r.1
      | .low =>
        let r := s.popTrace p x.1 x.2 flips
        (r.2.modPort p fun h => { h with trcHigh := some (r.1.extractLsb' 32 32) }).answerRead p (r.1.setWidth 32 |>.setWidth 64)
      | .high =>
        match h.trcHigh with
        | some v => (s.modPort p fun h => { h with trcHigh := none }).answerRead p (v.setWidth 64)
        | none => let f := s.draw; f.2.answerRead p (BitVec.ofNat 64 (f.1 % 2 ^ 32))
    if (s1.regAnswers p 0x818) || !(s1.ports[p]).linkUp then s1 else s1.answerRead p 0)

/-- ELOG_IDX_WRITE: the entry named is copied into the port's view, and stays there whatever the ring does (R441). `poisoned`
says that the copy was read poisoned: the view then reads zero. -/
def execElogIdxWrite (p : Port) (v : BitVec 32) (poisoned : Bool) (s : State) : Host.Outcome State Fault Refusal :=
  .next (s.regAccess p 0x200C fun s =>
    let e := (s.dies[fin2 ((s.ports[p]).elogDie.toNat)]).elogAt (bits v 0 16)
    s.modPort p fun h => { h with elogIdx := v.setWidth 16, elogValid := e.isSome, elogPois := e.isSome && poisoned,
                                  elogView := if poisoned then none else e })

/-- SUP_V0_READ: the VDD_CORE reading and minimum are returned, and every minimum starts again from its rail's reading (R443). -/
def execSupV0Read (p : Port) (s : State) : Host.Outcome State Fault Refusal :=
  .next (if (s.ports[p]).linkUp then
    (let s1 := s.regAccess p 0x4000 id
     if s1.regAnswers p 0x4000 then
       { (s1.answerRead p (s1.readBar0 p 0x4000 4)) with supply := { s1.supply with min := s1.supply.now } }
     else s1.answerRead p 0) else s)

/-! ### REGISTER_WRITE (R8, R9, R434 to R436, R438) -/

/-- A 4-byte write into the half of an 8-byte register that starts `o` bytes in, or an 8-byte write of all of it. -/
def putHalf (x : BitVec 64) (o size : Nat) (v : BitVec 64) : BitVec 64 :=
  if size = 8 then v else putWord x (o / 4) (v.setWidth 32)

/-- A queue base as its register keeps it: bits 11 to 0 are reserved, and what is written there is ignored (R9, Table 14.5). -/
def pageBase (x : BitVec 64) : BitVec 64 := x &&& ~~~0xFFF#64

/-- The registers of 8 bytes that take a write. -/
def wideWrite (ofs : Nat) : Bool := [0x48, 0x108, 0x110].contains ofs

/-- Whether a write has a size and an alignment that its register takes (R434). -/
def writeOk (ofs size : Nat) : Bool := (size == 4 && ofs % 4 == 0) || (size == 8 && wideWrite ofs)

/-- The admin queue setup registers take a write only while EN is 0 (R438). -/
def State.setupWrite (s : State) (p : Port) (f : HostPort → HostPort) : State :=
  if (s.ports[p]).aqEn then s else s.modPort p f

/-- The effect of a write that its register takes; a read-only or reserved one ignores it (R9, R435). A TRC_CTL write selects its
queue and then enables or disables it (R440). -/
def State.regEffect (s : State) (p : Port) (ofs size : Nat) (v : BitVec 64) : State :=
  if ofs / 8 = 9 then s.setupWrite p fun h => { h with featAccept := putHalf h.featAccept (ofs - 0x48) size v }
  else if ofs = 0x104 then s.setupWrite p fun h => { h with aqDepth := v.setWidth 13 }
  else if ofs / 8 = 0x21 then s.setupWrite p fun h => { h with aqSqBase := pageBase (putHalf h.aqSqBase (ofs - 0x108) size v) }
  else if ofs / 8 = 0x22 then s.setupWrite p fun h => { h with aqCqBase := pageBase (putHalf h.aqCqBase (ofs - 0x110) size v) }
  else if ofs = 0x88 then { s with rst := { s.rst with cause := s.rst.cause &&& ~~~(v.setWidth 14) } }
  else if ofs = 0x800 then
    (s.modPort p fun h => { h with qsel := v.setWidth 3 }).modSel p fun q => { q with en := v.getLsbD 4 }
  else if ofs = 0x804 then
    s.modPort p fun h => { h with underrun := if v.getLsbD 0 then h.underrun &&& ~~~(BitVec.twoPow 8 h.qsel.toNat) else h.underrun }
  else if ofs = 0x2000 then s.modPort p fun h => { h with elogDie := v.getLsbD 0 }
  else s

/-- REGISTER_WRITE (DESIGN CHOICE, log 99) (DEDUCED, log 100). -/
def execRegisterWrite (p : Port) (ofs : Nat) (size : Nat) (v : BitVec 64) (s : State) : Host.Outcome State Fault Refusal :=
  .next (s.regAccess p ofs fun s => if writeOk ofs size then s.regEffect p ofs size v else s)

/-- LINK_RATE_OR_WIDTH_CHANGE: PORT_INFO changes and the port's event is raised (R413, Table 14.3). -/
def execLinkRateOrWidthChange (p : Port) (gen : Nat) (width : Nat) (s : State) : Host.Outcome State Fault Refusal :=
  .next (let h := s.ports[p]
    if !h.linkUp ∨ (h.gen = gen ∧ h.width = width) then s
    else (s.modPort p fun h => { h with gen := gen, width := width }).raise (226 + 8 * p.val))

end Sys2Proof.Machine
end

