-- ==== Sys2Proof/Machine/ResetOps.lean ====
section
/-!
DEFINITION. What the resets share (12; 09, R314): sources and reaches, the black box, what each reach restores (Table 12.12), the
quiesce of a warm reset, stabled buffers, and how an exit goes from stage to stage (Table 12.3).
-/
namespace Sys2Proof.Machine

/-! ### Sources (R392, Table 12.2) -/

/-- The reach of a source; none for a port's. -/
def reachOf : ResetSource → Option Reach
  | .powerOn => some .powerOn
  | .resetN | .supply | .thermal | .watchdogCold | .packageFault => some .cold
  | .warmN | .warmRequest | .watchdogWarm => some .warm
  | .perst _ => none

/-- The RST_CAUSE bit of a source. -/
def causeBit : ResetSource → Nat
  | .powerOn => 0
  | .resetN => 1
  | .supply => 2
  | .thermal => 3
  | .watchdogCold => 4
  | .packageFault => 5
  | .warmN => 8
  | .warmRequest => 9
  | .watchdogWarm => 10
  | .perst p => 12 + p.val

/-- A source asserts: its bit is set and it stays asserted until it is released (R392, R396). -/
def ResetCtl.assert (r : ResetCtl) (src : ResetSource) : ResetCtl :=
  { r with cause := r.cause ||| BitVec.twoPow 14 (causeBit src),
           asserted := if r.asserted.contains src then r.asserted else r.asserted ++ [src] }

/-- Whether a source of a reach is asserted. -/
def ResetCtl.holds (r : ResetCtl) (f : Reach → Bool) : Bool := r.asserted.any fun x => (reachOf x).any f

/-! ### The black box (R394, Table 10.17) -/

/-- The halted signal box that a watchdog entry names: store and address. Where both have halted it names store 8 (DESIGN CHOICE,
log 146). -/
def State.haltedBox (s : State) : Option (Nat × BitVec 13) :=
  ([8, 9] : List (Fin 10)).findSome? fun k => if (s.stores[k]).halted.isSome then some (k.val, (s.stores[k]).addr) else none

/-- The entry of a cause. -/
def State.boxEntry (s : State) (cause detail : Nat) : BlackBox :=
  let h := if cause = 4 ∨ cause = 10 then s.haltedBox else none
  { pwrCnt := s.ledger.pwrCnt, time := s.micros, cause := cause, store := match h with | some x => BitVec.ofNat 8 x.1 | none => 0xFF
    addr := match h with | some x => x.2.setWidth 16 | none => 0
    vmin := s.supply.min.toList, temp := s.thermal.now.toList, detail := detail }

/-- BLACK_BOX_WRITE: an entry goes into the ledger, and its event is raised, before the reset reaches any other domain. -/
def State.blackBox (s : State) (cause detail : Nat) : State :=
  let e := s.boxEntry cause detail
  { s with ledger := { s.ledger with bbox := (e :: s.ledger.bbox).take 64, bboxCnt := s.ledger.bboxCnt + 1 } }.raise 10

/-! ### Cold and power-on (R391, R396, R398, R399, R412) -/

/-- What a cold reset leaves: the always domain keeps its state, and every other domain is restored, with no link, no mount and
no work; every station is Open with WGATE_N_s and MEN_N_s high. -/
def State.coldLoss (s : State) : State :=
  { State.reset with
    pending := s.pending, clock := s.clock, fresh := s.fresh, out := s.out, tap := s.tap, rst := s.rst, stnMap := if s.rst.reach = .powerOn then 0 else s.stnMap
    ledger := { s.ledger with writing := [] }, supply := s.supply
    thermal := { State.reset.thermal with now := s.thermal.now, max := s.thermal.now, trip := s.thermal.trip } }

/-- The reach that governs once a cold source asserts: power-on where that still does, or where its exit has not passed E1; a
cold one restarts a later exit at E2 (R396, Table 12.4). -/
def ResetCtl.coldReach (r : ResetCtl) : Reach :=
  if r.reach == .powerOn && (r.stage == .held || r.stage == .e1 || r.asserted.contains .powerOn) then .powerOn else .cold

/-- A cold source asserts: everything but the always domain is lost, and the exit waits for its release. -/
def State.coldReset (s : State) (r : ResetCtl) : State :=
  { s with rst := { r with reach := s.rst.coldReach, stage := .held, deferred := [], saved := 0, coldAt := s.clock } }.coldLoss

/-- A cold source of Table 12.2 asserts. -/
def State.assertCold (s : State) (src : ResetSource) : State := s.coldReset (s.rst.assert src)

/-! ### The exit (R395, R396) -/

/-- Stage E4 begins: lanes train, all of a usable station's after a cold reset and 1 to 15 after a warm one (Table 12.3); none in
the recovery state, whose lanes stay idle (R370). -/
def State.enterE4 (s : State) : State :=
  let s1 := { s with rst := { s.rst with stage := .e4 } }
  if s.boot.recovery then s1
  else s1.eachStn fun st t =>
    if s.usable st then t.modLink fun k => { k with lanes := k.lanes.mapFinIdx fun i l _ => if l.up then l else if i = 0 ∧ s.rst.reach = .warm then l else { l with training := true } }
    else t

/-- The hold point before E4: the exit waits while a warm source is asserted. -/
def State.tryE4 (s : State) : State := if s.rst.holds (· == .warm) then { s with rst := { s.rst with stage := .holdE4 } } else s.enterE4

/-- The exit goes on as far as the sources that are asserted let it: it begins once no cold or power-on source is, and REFCLK is
good (R396, R458). -/
def State.tryExit (s : State) : State :=
  match s.rst.stage with
  | .held =>
    if s.rst.holds (· != .warm) || s.rst.refclkLost then s
    else { s with rst := { s.rst with stage := if s.rst.reach = .powerOn then .e1 else .e2 } }
  | .holdE4 => s.tryE4
  | _ => s

/-! ### The quiesce (R400) -/

/-- Whether a station is writing: it has positions to send, a gate that may open, or rows sent that are not graded. -/
def Station.writing (t : Station) : Bool :=
  t.write.feed != .off || !t.write.toSend.isEmpty || t.write.sent.any fun p => p.graded.length < 128

/-- A station in the quiesce: it starts nothing further, and finishes the position in progress (R400 step 2). -/
def State.quiesceStn (s : State) (st : Stn) : State :=
  let t := s.stns[st]
  match t.write.feed with
  | .off => s
  | .resume => s.modStn st fun t => t.modWrite fun w => { w with feed := .off }
  | _ =>
    let begun := allLanes.any fun l => (t.link.lanes[l]).txCells > 0
    ((s.unplace st (t.write.inProgress begun) begun).modStn st fun t => t.modWrite fun w => { w with feed := .writing }).quiesceGate st

/-- WARM_QUIESCE: ports stop, and writing stations finish what they have begun. A station that does not write has nothing to save. -/
def State.warmStart (s : State) : State :=
  let mask := BitVec.ofNat 8 (flagBits (allStns.map fun st => !(s.stns[st]).writing))
  allStns.foldl (fun a st => a.quiesceStn st) { s with rst := { s.rst with stage := .quiesce, reach := .warm, saved := mask, deferred := [] } }

/-- A warm source asserts: it starts a reset, holds an exit before E4, or is kept for DEVICE_READY once that is passed (R396). -/
def State.warmSource (s : State) (src : ResetSource) : State :=
  let s1 := { s with rst := s.rst.assert src }
  match s.rst.stage with
  | .ready | .recovery => s1.warmStart
  | .e4 => { s1 with rst := { s1.rst with deferred := s1.rst.deferred ++ [src] } }
  | _ => s1

/-! ### Stabled buffers (R314, R402) -/

/-- A record that is open, or accepted and not durable: its input is stabled (R402 item 2). -/
def Rec.stabled (r : Rec) : Bool := r.isOpen || (r.abandon.isNone && r.arrived && !r.durable)

/-- Whether a buffer's data is among what R402 names. An output buffer is kept while it holds bytes that lie in no released gathering. -/
def State.keptAt (s : State) (h : BitVec 32) (b : Buf) : Bool :=
  let of_ := fun (st : Stn) (f : VolCtx → Bool) => (s.stns[st]).mount.isSome && (s.stns[st]).ctx.any f
  match b.holds with
  | .context st => of_ st fun _ => true
  | .input st lon _ _ => of_ st fun v => (v.rec? lon).any Rec.stabled
  | .output st lon n len => of_ st fun v => (v.rec? lon).any fun r =>
    let rel := r.packed - (s.stns[st]).write.heldBytes lon
    r.stabled && decide (max n rel < min (n + len) r.stream.length)
  | .gathering st => (s.stns[st]).write.gaths.any fun g => (g.buffer == some h || g.c2Buf == some h) && g.released
  | .other => false

/-- Whether a buffer can still be read: no page of it lies on a lost stack. A volume context has its other copy (R292, Table 1.9). -/
def State.readable (s : State) (d : DieId) (p : Nat) (b : Buf) : Bool :=
  (match b.holds with | .context _ => true | _ => false)
    || (List.range (poolPages p)).all fun i => !(s.hbm[(dpnPage d ((s.dies[d]).dpnOf p b.index i)).stack]).lost

/-- What a buffer that cannot be read any more held is lost: its record is abandoned, and a gathering not yet on tape is burned with
the records in it (Table 1.9, R140, R141) (DEDUCED, log 139). -/
def State.loseBuf (s : State) (h : BitVec 32) (b : Buf) : State :=
  let gone := fun (a : State) (st : Stn) (lons : List Nat) => a.modStn st fun t => t.modCtx fun v =>
    { v with recs := v.recs.map fun r => if lons.contains r.lon then r.abandonAs .lost else r }
  match b.holds with
  | .input st lon _ _ | .output st lon _ _ => gone s st [lon]
  | .gathering st => ((s.stns[st]).write.gaths.filter fun g => g.buffer == some h && !g.placed).foldl
      (fun a g => gone (a.dropArea st g) st (g.segs.map (·.lon))) s
  | .context _ | .other => s

/-- One pool at the end of a quiesce: waits go, stabled buffers, as far as they can still be read, are owned by 16 alone, and every
other one returns, one of 17 alone too, but for those 16 owns already (R313, R314, R315, Table 1.9). -/
def State.stablePool (s : State) (d : DieId) (p : Fin 5) : State :=
  let q := (s.dies[d]).pools[p]
  let s0 := s.modDie d fun x => x.modPool p fun q => { q with waits := [] }
  (q.bufs.filter Buf.allocated).foldl (fun a b =>
    if b.owners = [16] then a
    else if b.owners = [17] then a.putBack d p b.index
    else if s.keptAt (mkHandle p.val b.index b.gen) b then
      if !s.readable d p.val b then (a.putBack d p b.index).loseBuf (mkHandle p.val b.index b.gen) b else
      a.modDie d fun x => x.modPool p fun q => q.setBuf { q.buf b.index with owners := [16], freePend := false }
    else a.putBack d p b.index) s0

/-- STABLE_BUFFERS over every pool. -/
def State.stableAll (s : State) : State :=
  ([0, 1] : List DieId).foldl (fun a d => ([0, 1, 2, 3, 4] : List (Fin 5)).foldl (fun b p => b.stablePool d p) a) s

/-! ### Warm: what the logic domain loses (R400 to R404, Table 12.12) -/

/-- The read channel after the logic domain's reset: lane 0, the skew tables with a calibration in progress (R195), the head-end's settings and the run counts stay. -/
def Link.warm (k0 : Link) : Link :=
  let k := k0.endRun
  { Link.reset with
    lanes := k.lanes.mapFinIdx fun i l _ => if i = 0 then l else LaneRx.reset
    lost := k.lost, atRest := k.atRest, heHold := k.heHold, heId := k.heId, heCap := k.heCap, heIfs := k.heIfs, cfgDone := k.cfgDone
    wcell := k.wcell, slot := k.slot, lastSb := k.lastSb, inBox := k.inBox, marks := [], skew := k.skew, calLeft := k.calLeft, calOfs := k.calOfs, rxNum := k.rxNum }

/-- The control engine ramps a moving station to rest at FALLBACK_DECEL (R248). -/
def State.fallback (s : State) (st : Stn) : State :=
  if (s.stns[st]).servo.motion = .moving then
    (s.rampTo st .fallback 0).modStn st fun t => t.modSpeed fun x => { x with stopping := true, stepping := none }
  else s

/-- A station at the end of the quiesce: a mount in progress is given up, the loops closed (R248), unreleased gatherings burn, the tape ramps to rest, the
volume stays mounted with its buffers stabled, and a state not saved is broken (R400 to R403). -/
def State.warmStn (s : State) (st : Stn) : State :=
  let t := s.stns[st]
  let s1 := if t.mountCmd.isSome ∧ t.mount.isNone then s.dismount st else s
  let s2 := ((if (s1.stns[st]).write.toSend.isEmpty then s1 else s1.voidWriting st).burnFrom st 0).fallback st
  (s2.dropWork st).modStn st fun t => { t with
    wgate := true, faults := [], inReset := false, link := t.link.warm
    servo := { t.servo with inhibit := false }
    stabled := t.mount.isSome
    broken := t.broken || (t.mount.isSome && !s.rst.saved.getLsbD st.val)
    write := { t.write with flushes := [], feed := .off, openBuf := none, bufs := [], closeDue := false } }

/-- A port after the logic domain's reset: link, configuration and error log stay; queues, admin setup and event state go. -/
def HostPort.warm (h : HostPort) : HostPort :=
  { HostPort.reset with
    linkUp := h.linkUp, gen := h.gen, width := h.width, msixEn := h.msixEn, msixMask := h.msixMask, msixPend := h.msixPend
    underrun := h.underrun, errs := h.errs, errCnt := h.errCnt }

/-- A die after the logic domain's reset: pools, error log and trace queues stay. -/
def Die.warm (d : Die) : Die :=
  { Die.reset with pools := d.pools, elog := d.elog, elogCnt := d.elogCnt, builtRet := d.builtRet, trace := d.trace, misuse := d.misuse }

/-- The logic domain enters reset: queues, interlocking, monitors, engines, control stores and key slots are lost; through-working
jobs stand still until a RESUME (Table 8.9); the power state is P0. -/
def State.warmLoss (s : State) : State :=
  let s1 := ((allStns.foldl (fun a st => a.warmStn st) s).stableAll.eachPort fun _ h => h.warm).eachDie fun _ d => d.warm
  { s1 with
    stores := Vector.replicate 10 Store.reset, locks := [], ucieDown := false, test := none, blkRst := []
    migs := s.migs.map fun (j : MigJob) => j.park s
    power := State.reset.power, vault := { s1.vault with slots := Vector.replicate 8 none, domains := [] }
    boot := { s1.boot with staging := none }, hbm := s1.hbm.map fun k => { k with lost := false } }

/-- QUIESCE_END. -/
def State.quiesceEnd (s : State) : State := if s.rst.stage = .quiesce then s.warmLoss.tryE4 else s

/-! ### DEVICE_READY (R371, R375, R395, R404) -/

/-- The words of a control store from the image (R384). -/
def storeOf (l : List (BitVec 144)) : Store := { Store.reset with words := l }

/-- CONTROL_STORE_LOAD: the timetable program into stores 0 to 7, the signal-box program into 8 and 9. -/
def State.loadStores (s : State) : State :=
  let x := s.img.programs
  { s with stores := Vector.ofFn fun k => storeOf (if k.val < 8 then x.1 else x.2) }

/-- A banked loop with a set in its active bank. -/
def BankedLoop.init (b : BankedLoop) (set : List Byte) : BankedLoop := { b with banks := Vector.replicate 2 set, swap := false }

/-- LOOPS goes into a station's control engine: the sets of ladder step 0 and the threading set come first (DESIGN CHOICE, log
47). -/
def Servo.loadLoops (v : Servo) (g : Image) (st : Stn) : Servo :=
  { v with step := 0, lateral := v.lateral.init (g.latSet st.val 0), skewL := v.skewL.init (g.skewSet st.val 0),
           aux := v.aux.init (g.auxSet st.val 0) }

/-- A die's monitor slots as the MONITORS section starts them (R422). -/
def Image.monSlots (g : Image) (d : DieId) : Vector MonSlot 64 :=
  let l := g.monEntries.filter fun e => leAt e 0 1 == d.val
  Vector.ofFn fun k => match (l.filter fun e => leAt e 1 1 == k.val).getLast? with
    | some e => MonSlot.start (leAt e 2 1) (BitVec.ofNat 32 (leAt e 4 4)) (bytesAt e 8 (if leAt e 2 1 = 1 then 124 else 4))
    | none => MonSlot.reset

/-- The routing and the mask that EVENTS gives a port; the bits of sources 198 and 214 stay 0 (R416, R417). -/
def HostPort.loadEvents (h : HostPort) (g : Image) (p : Port) : HostPort :=
  { h with route := Vector.ofFn fun n => g.vector p.val n.val,
           mask := g.mask0 p.val &&& ~~~(BitVec.twoPow 256 198 ||| BitVec.twoPow 256 214) }

/-- The volume key that a context's WKEY unwraps to under the domain key in force that DOMAIN names (R265, Table 8.6). -/
def Vault.unwrap (u : Vault) (v : VolCtx) : Option (List Byte) :=
  (u.domains.find? fun k => k.dchash == v.dchash).bind fun k => kwUnwrap k.key v.wkey

/-- KEY_SLOT_RESTORE: the key of every mounted volume that has one is in its station's slot again (R265). -/
def State.restoreSlots (s : State) : State :=
  { s with vault := { s.vault with slots := Vector.ofFn fun st => match (s.stns[st]).mount, (s.stns[st]).ctx with
    | some _, some v => s.vault.unwrap v
    | _, _ => none } }

/-- The sections applied at E4; a warm reset writes no LOOPS and leaves the trace queues (R404). The vault decapsulates the domain keys
from KEYDOMAIN, after a warm reset from the on-die copy, before the slots are restored (R265). -/
def State.applyImage (s : State) : State :=
  let g := s.img
  let s1 := (s.loadStores.eachPort fun p h => h.loadEvents g p).eachDie fun d x => { x with
    monitors := g.monSlots d
    trace := if s.rst.reach = .warm then x.trace else x.trace.mapFinIdx fun i q _ => { q with en := g.traceEn.testBit (4 * d.val + i) } }
  let s2 := if s.rst.reach = .warm then s1 else s1.eachStn fun st t => t.modServo fun v => v.loadLoops g st
  { s2 with vault := { s1.vault with domains := kdLoad (g.keydomain.getD []) } }.restoreSlots

/-- LAST_RST of a reach (Table 14.4). -/
def Reach.code : Reach → BitVec 3
  | .powerOn => 0
  | .cold => 1
  | .warm => 2

/-- The trial window of a running trial starts at the first DEVICE_READY (R375). -/
def State.startTrial (s : State) : State :=
  if s.rst.reach ≠ .warm ∧ s.ledger.tstate = .running then
    { s with boot := { s.boot with trialEnd := some (s.clock + s.img.trialMin * minuteCycles) } }
  else s

/-- After a warm reset the sequencers are back: a station that holds tension without a mount opens its loops (R248; DEDUCED, log 163). -/
def State.openIdle (s : State) : State :=
  allStns.foldl (fun a st =>
    let t := a.stns[st]
    if t.mount.isNone ∧ t.mountCmd.isNone ∧ (t.servo.motion = .tensioned ∨ t.servo.closing) then a.openLoops st else a) s

/-- DEVICE_READY: READY is set and event 0 raised; the watchdog runs from here, and a warm source whose hold point had been
passed is acted on now (R393, R396). -/
def State.deviceReady (s : State) : State :=
  if s.rst.stage ≠ .e4 then s
  else
    let s1 := if s.boot.recovery then s else s.applyImage.startTrial
    let s2 := { s1 with rst := { s1.rst with stage := if s.boot.recovery then .recovery else .ready, lastRst := s.rst.reach.code,
                                             wdogLast := Vector.replicate 2 s.clock } }.raise 0
    if s.rst.deferred.isEmpty then s2.openIdle else s2.warmStart

end Sys2Proof.Machine
end

