-- ==== Sys2Proof/Machine/Resets.lean ====
section
/-!
DEFINITION. The rows of the package's resets (12; 15, R458): their sources, the watchdog, the warm quiesce, port resets and release.
A source stays asserted until its release row (log 49).
-/
namespace Sys2Proof.Machine

/-! ### Power-on and cold (R391, R392, R394) -/

/-- The sources that a pin holds through a power-on reset. -/
def heldByPin : ResetSource → Bool
  | .resetN | .warmN | .perst _ => true
  | _ => false

/-- A power-on reset: only the ledger, with writes that completed, outlives it; RST_CAUSE shows POR alone, PWRCNT counts, and the
exit waits for REFCLK (R391, R392, R412, Table 12.3) (DEDUCED, log 101). -/
def State.powerOn (s : State) : State :=
  let r := { State.reset.rst with
    asserted := .powerOn :: s.rst.asserted.filter heldByPin, stage := .held, refclkLost := true, coldAt := s.clock }
  let s1 := { s with rst := r, supply := State.reset.supply, thermal := State.reset.thermal }.coldLoss
  { s1 with ledger := { s1.ledger with pwrCnt := s1.ledger.pwrCnt + 1 }, thermal := State.reset.thermal }

/-- POWER_ON_RESET. -/
def execPowerOnReset (s : State) : Host.Outcome State Fault Refusal := .next s.powerOn

/-- A cold source of Table 12.2 with a black-box entry: nothing new happens while it is asserted already. -/
def State.coldSource (s : State) (src : ResetSource) (boxed : Option (Nat × Nat)) : State :=
  if s.rst.asserted.contains src then s
  else match boxed with
    | some x => (s.blackBox x.1 x.2).assertCold src
    | none => s.assertCold src

/-- RESET_N. -/
def execResetN (s : State) : Host.Outcome State Fault Refusal := .next (s.coldSource .resetN none)

/-- A reading of a rail in mV is the one now, and the minimum if it is lower (R408) (DESIGN CHOICE, log 110). -/
def State.railReads (s : State) (rail : Fin 7) (mv : Nat) : State :=
  { s with supply := { s.supply with now := vmod s.supply.now rail fun _ => 10 * mv, min := vmod s.supply.min rail fun x => min x (10 * mv) } }

/-- Reset levels in mV, in the order of Table 12.9. -/
def railReset : List Nat := [690, 745, 790, 1025, 370, 1670]

/-- SUPPLY_RESET: the rail is at or below its reset level (Table 12.9). -/
def execSupplyReset (rail : Fin 6) (mv : Nat) (s : State) : Host.Outcome State Fault Refusal :=
  .next (if mv > railReset.getD rail.val 0 then s
    else (s.railReads rail.castSucc mv).coldSource .supply (some (2, 0)))

/-- A junction reading and the highest since the last cold reset (Table 14.12). -/
def State.heat (s : State) (d : DieId) (temp : BitVec 16) : State :=
  { s with thermal := { s.thermal with now := vmod s.thermal.now d fun _ => temp, max := vmod s.thermal.max d fun x => if x.slt temp then temp else x } }

/-- THERMAL_TRIP: THERMTRIP_N and the cold reset hold until the junction is below 105 °C (R411). -/
def execThermalTrip (d : DieId) (temp : BitVec 16) (s : State) : Host.Outcome State Fault Refusal :=
  .next (if temp.toInt < 120 * 256 then s
    else
      let s1 := s.heat d temp
      let s2 := { s1 with thermal := { s1.thermal with trip := true }, rst := { s1.rst with tripHeld := true } }
      s2.coldSource .thermal (some (3, 0)))

/-- THERMAL_TRIP_RELEASE: trip and reset are released together (R411). -/
def execThermalTripRelease (s : State) : Host.Outcome State Fault Refusal :=
  .next { s with
    thermal := { s.thermal with trip := false }
    rst := { s.rst with tripHeld := false, asserted := s.rst.asserted.filter (· != ResetSource.thermal) } }.tryExit

/-- Loss of REFCLK: a cold reset whose exit waits for REFCLK (R458). Another failure in that wait changes nothing more. -/
def State.refclkLoss (s : State) : State :=
  if s.rst.refclkLost then s
  else
    let s1 := s.blackBox 5 5
    s1.coldReset { s1.rst with cause := s1.rst.cause ||| BitVec.twoPow 14 5, refclkLost := true }

/-- DETAIL of a package fault (Table 10.17). -/
def pkgDetail : PkgFault → Nat
  | .vault => 1
  | .ledger => 2
  | .bootController => 3
  | .resetController => 4
  | .refclk => 5
  | .imageStore => 6
  | .ucieNotRetrained => 7
  | .stackLostAgain => 8

/-- PACKAGE_FAULT (Table 1.9, R372). -/
def execPackageFault (f : PkgFault) (s : State) : Host.Outcome State Fault Refusal :=
  .next (match f with
    | .refclk => s.refclkLoss
    | _ => s.coldSource .packageFault (some (5, pkgDetail f)))

/-- REFCLK_LOSS. -/
def execRefclkLoss (s : State) : Host.Outcome State Fault Refusal := .next s.refclkLoss

/-- REFCLK_STABLE. -/
def execRefclkStable (s : State) : Host.Outcome State Fault Refusal :=
  .next { s with rst := { s.rst with refclkLost := false } }.tryExit

/-! ### Warm (R392, R396, R400, R437) -/

/-- WARM_N. -/
def execWarmN (s : State) : Host.Outcome State Fault Refusal := .next (s.warmSource .warmN)

/-- WARM_REQUEST: the write acts while the port's registers live, which they do to the end of a quiesce, and not in the recovery
state (R437, Table 12.4). Port 1's does not reach the reset controller with the UCIe link down (R16). -/
def execWarmRequest (p : Port) (s : State) : Host.Outcome State Fault Refusal :=
  .next (
    let s1 := if (s.ports[p]).linkUp then s.modPort p fun h => { h with l1 := false } else s
    if (s.ports[p]).linkUp && !(p == 1 && s.ucieDown) && (s.rst.stage == .ready || s.rst.stage == .quiesce) then s1.warmSource .warmRequest else s1)

/-- WATCHDOG_REPORT (R393). -/
def execWatchdogReport (d : DieId) (s : State) : Host.Outcome State Fault Refusal :=
  .next { s with rst := { s.rst with wdogLast := vmod s.rst.wdogLast d fun _ => s.clock } }

/-- Whether a signal box has been silent for WDOG_MS (R393). -/
def State.wdogDue (s : State) : Bool :=
  s.ready && s.img.wdogMs != 0 && s.rst.wdogLast.toList.any fun t => t + s.img.wdogMs * 800000 ≤ s.clock

/-- WATCHDOG_EXPIRY: a cold reset with WDOG_REACH 1, a warm one with 0 (Table 12.2). -/
def execWatchdogExpiry (s : State) : Host.Outcome State Fault Refusal :=
  .next (if !s.wdogDue then s
    else if s.img.wdogCold then s.coldSource .watchdogCold (some (4, 0))
    else (s.blackBox 10 0).warmSource .watchdogWarm)

/-- STATION_STATE_SAVE: every row the station sent is graded, and its write state is in the volume context (R400 step 3). -/
def execStationStateSave (st : Stn) (s : State) : Host.Outcome State Fault Refusal :=
  .next (if s.rst.stage ≠ .quiesce ∨ (s.stns[st]).writing then s
    else { s with rst := { s.rst with saved := s.rst.saved ||| BitVec.twoPow 8 st.val } })

/-- QUIESCE_END (DEDUCED, log 102) (DEDUCED, log 103). -/
def execQuiesceEnd (s : State) : Host.Outcome State Fault Refusal := .next s.quiesceEnd

/-! ### Port (R405) -/

/-- A port whose link and queue logic are restored: event state and error log stay (Table 12.12). -/
def HostPort.portReset (h : HostPort) : HostPort :=
  { HostPort.reset with
    stat := h.stat, mask := h.mask, route := h.route, snap := h.snap, underrun := h.underrun, errs := h.errs, errCnt := h.errCnt }

/-- PORT_RESET: unfinished commands of the port's queues are aborted with no completion, its records still open are abandoned, its
locks, waits and staging session go (R405). -/
def State.portReset (s : State) (p : Port) : State :=
  let ids := (s.ports[p]).qps.map (·.id)
  let s1 := (ids.foldl (fun a q => (a.abortQueue p q).abandonOpen p q) s).dropWaits fun w => w.owner == 1 + p.val
  let s2 := s1.modPort p HostPort.portReset
  { s2 with
    locks := s2.locks.filter fun l => l.cmd.port != p
    boot := { s2.boot with staging := s2.boot.staging.filter fun x => x.port != p }
    power := { s2.power with target := s2.power.target.filter fun x => x.2.port != p }
    rst := { s2.rst.assert (.perst p) with portRst := s2.rst.portRst ||| BitVec.twoPow 2 p.val } }

/-- PORT_RESET. -/
def execPortReset (p : Port) (s : State) : Host.Outcome State Fault Refusal := .next (s.portReset p)

/-! ### Release (R396) -/

/-- RESET_RELEASE: the exit goes on as far as the sources that stay asserted let it. A thermal trip has a release of its own. -/
def execResetRelease (src : ResetSource) (s : State) : Host.Outcome State Fault Refusal :=
  .next (if src = .thermal then s
    else { s with rst := { s.rst with asserted := s.rst.asserted.filter (· != src) } }.tryExit)

end Sys2Proof.Machine
end

