-- ==== Sys2Proof/Machine/BlockResets.lean ====
section
/-!
DEFINITION. BLOCK_RESET and its end (12, R406, R407, Table 12.8; 09, R315). Several blocks may be in reset at once.
-/
namespace Sys2Proof.Machine

/-- KIND, DIE and INDEX (Table 10.5). -/
def blkKind (e : Entry) : Nat := e.cd 0 1
def blkDie (e : Entry) : DieId := fin2 (e.cd 1 1)
def blkIndex (e : Entry) : Nat := e.cd 2 1

/-- Whether the fields name a block; a station is one of its die (DEDUCED, log 53). -/
def blkFields (e : Entry) : Bool :=
  e.cd 1 1 ≤ 1 && (match blkKind e with
    | 0 => blkIndex e < 8 && dieOf (stnOf (blkIndex e)) == blkDie e
    | 1 => blkIndex e < 4
    | 2 => blkIndex e == 0
    | _ => false)

/-- The owner ID of a block: a station's, that of compression, that of crypto and hash; the other blocks own no buffers (Table
9.5, log 54). -/
def blkOwner (kind index : Nat) : Option Nat :=
  match kind, index with
  | 0, i => some (5 + i)
  | 1, 0 => some 4
  | 1, 1 => some 3
  | 1, 3 => some 4
  | _, _ => none

/-- Whether an owner holds a buffer of a die alone; one that shares a buffer does not own it in the sense of Table 12.8, for Table 9.11
has a station in block reset that shares a siding (DEDUCED, log 109). -/
def Die.names (d : Die) (k : Nat) : Bool := d.pools.toList.any fun q => q.bufs.any fun b => b.owners == [k]

/-- Whether a block is not quiesced (Table 12.8), or in reset already (R407). -/
def State.blkBusy (s : State) (kind : Nat) (d : DieId) (index : Nat) : Bool :=
  (s.blkRst.any fun b => b.kind == kind && b.die == d && b.index == index) || (match kind with
    | 0 =>
      let st := stnOf index
      (s.stns[st]).mount.isSome || (s.stns[st]).stabled || s.migrating st || (s.dies[d]).names (5 + index)
    | 1 =>
      let e := (s.dies[d]).engines[(⟨index % 4, by omega⟩ : Fin 4)]
      !e.waiting.isEmpty || !e.running.isEmpty
    | _ => allStns.any fun st => dieOf st == d && (s.stns[st]).mount.isSome)

/-- Checks 6 to 10 of BLOCK_RESET. -/
def blkOwn (c : HostCmd) (s : State) : Option Ending :=
  if !blkFields c.entry then some (.st 2)
  else if s.blkBusy (blkKind c.entry) (blkDie c.entry) (blkIndex c.entry) then some (.st 0xE) else none

/-- A station in reset: lanes 1 to 15 idle, Open with both outputs high; commands that need it complete with 0x0E (R407). -/
def State.blkStation (s : State) (st : Stn) : State :=
  (((s.finishAll (s.cmdsOf st) (.st 0xE)).dropWork st).openLoops st).modStn st fun t => { t with
    inReset := true
    link := { t.link with reqs := [], cfgDone := false, lanes := t.link.lanes.mapFinIdx fun i l _ => if i = 0 then l else LaneRx.reset } }

/-- A control engine in reset: its stations are Open; a MOUNT or INIT_VOLUME under way there completes with 0x0E (R407). -/
def State.blkControl (s : State) (d : DieId) : State :=
  (allStns.filter fun st => dieOf st == d).foldl (fun a st =>
    let b := match (a.stns[st]).mountCmd with
      | some r => (a.finish r (.st 0xE)).modStn st fun t => { t with mountCmd := none }
      | none => a
    b.openLoops st) s

/-- The block goes into reset. -/
def State.blkEnter (s : State) (kind : Nat) (d : DieId) (index : Nat) : State :=
  match kind with
  | 0 => s.blkStation (stnOf index)
  | 1 => s.modDie d fun x => x.modEngine ⟨index % 4, by omega⟩ fun e => { e with inReset := true, fenced := [], groups := [] }
  | _ => s.blkControl d

/-- The block's shares pass to owner 17 in place, and its waits are removed (R315). -/
def State.quarantine (s : State) (d : DieId) (owner : Option Nat) : State :=
  match owner with
  | none => s
  | some k => (s.modDie d fun x => { x with pools := x.pools.map fun q => q.rename k 17 }).modDie d fun x =>
      { x with pools := x.pools.map fun q => { q with waits := q.waits.filter fun w => w.owner != k } }

/-- BLOCK_RESET taken. -/
def State.runBlock (c : HostCmd) (s : State) : State :=
  let e := c.entry
  let s1 := (s.blkEnter (blkKind e) (blkDie e) (blkIndex e)).quarantine (blkDie e) (blkOwner (blkKind e) (blkIndex e))
  { s1.addCmd c (Cmd.start c s.clock .moving) with blkRst := s1.blkRst ++ [⟨blkKind e, blkDie e, blkIndex e, refOf c⟩] }

/-- BLOCK_RESET (DESIGN CHOICE, log 113). -/
def execBlockReset (c : HostCmd) (s : State) : Host.Outcome State Fault Refusal :=
  .next (s.host 0x91 c (blkOwn c) unblocked (State.runBlock c))

/-- A station returns: its control store is reloaded and its lanes retrain, after which its head-end is configured (R193). A
halted sequencer stays halted (R385). -/
def State.blkStationBack (s : State) (st : Stn) : State :=
  let k := stnStore st
  let words := s.img.programs.1
  (s.modStore k fun x => { storeOf words with halted := x.halted }).modStn st fun t => { t with
    inReset := false
    link := { t.link with lanes := Vector.replicate 16 { LaneRx.reset with training := s.usable st } } }

/-- A control engine returns: banks are loaded from LOOPS; loop states, repetitive tables, κ and the LPOS count are lost (R226,
Tables 12.8 and 12.12). -/
def State.blkControlBack (s : State) (d : DieId) : State :=
  let g := s.img
  s.eachStn fun st t =>
    if dieOf st != d then t else t.modServo fun v => { Servo.reset with threaded := v.threaded }.loadLoops g st

/-- The block comes back. -/
def State.blkLeave (s : State) (b : BlkReset) : State :=
  match b.kind with
  | 0 => s.blkStationBack (stnOf b.index)
  | 1 => s.modDie b.die fun x => x.modEngine ⟨b.index % 4, by omega⟩ fun e => { e with inReset := false }
  | _ => s.blkControlBack b.die

/-- BLOCK_RETURN: the i-th block in reset returns, shares of owner 17 go, and its command completes (R315, R407). -/
def execBlockReturn (i : Nat) (s : State) : Host.Outcome State Fault Refusal :=
  .next (match s.blkRst[i]? with
    | none => s
    | some b =>
      let s1 := { s with blkRst := s.blkRst.eraseIdx i }.blkLeave b
      (s1.dropQuarantine b.die).finish b.cmd (.ok 0))

end Sys2Proof.Machine
end

