-- ==== Sys2Proof/Machine/Boot.lean ====
section
/-!
DEFINITION. The rows of the boot controller (11, 12): the stages of a cold exit, the choice of an image, staging and confirming a new
one, and the trial window.
-/
namespace Sys2Proof.Machine

/-! ### E1 and E2: the image choice (R365 to R371) -/

/-- FUSE_LOAD_DONE: the fuses give STNMAP (log 65), and stage E2 follows (Table 12.3). -/
def execFuseLoadDone (s : State) : Host.Outcome State Fault Refusal :=
  .next (if s.rst.stage = .e1 then { s with rst := { s.rst with stage := .e2 }, stnMap := Config.stnMap } else s)

/-- A slot as it was read. -/
def slotOf (f : Flash) : SlotId → SlotRead
  | .factory => f.factory
  | .a => f.slotA
  | .b => f.slotB

/-- Where a slot starts in the flash (Table 11.1). -/
def SlotId.base : SlotId → Nat
  | .factory => 0x00000000
  | .a => 0x01000000
  | .b => 0x02000000

/-- Operations of the flash port, in order. -/
def State.flash (s : State) (ops : List FlashOp) : State := ops.foldl (fun a o => a.emit (.flash o)) s

/-- The flash at the start of stage E2: the software-reset sequence in both forms (R461), then, from 1S-1S-1S mode, the SFDP tables and the
sequence that they give for 8D-8D-8D (R361). -/
def flashStart : List FlashOp := [.softReset true, .softReset false, .readSfdp, .enterOctal]

/-- The order in which slots are tried, the ledger as the choice starts, and whether a trial is abandoned (R369). -/
def Ledger.beginBoot (l : Ledger) : List SlotId × Ledger × Bool :=
  let first := if l.tstate = .pending then l.trial.toList else []
  let l1 : Ledger := match l.tstate with
    | .pending => { l with tstate := .running }
    | .running | .expired => { l with tstate := .none, trial := none, tpin := [] }
    | .none => l
  let add := fun (o : List SlotId) x => if o.contains x then o else o ++ [x]
  (([l.cur, .a, .b, .factory] : List SlotId).foldl add first, l1, l.tstate == .running || l.tstate == .expired)

/-- A candidate is rejected: its slot and reason go to LASTREJ, and a trial of it ends (R367, R369). -/
def Ledger.reject (l : Ledger) (x : SlotId) (reason : Nat) : Ledger :=
  let l1 := { l with rejSlot := some x, rejReason := reason }
  if l.trial = some x then { l1 with tstate := .none, trial := none } else l1

/-- The pin that an image's write domain would set; empty where it changes nothing (R259, Table 8.3). -/
def Image.movesPin (g : Image) (pin : List Byte) : List Byte :=
  match (g.keydomain.getD []).find? kdWrite with
  | some e => if kdHash e = pin then [] else kdHash e
  | none => []

/-- An image is accepted: a change of pin is made at once for the slot that CUR names, and held in TPIN for any other (R369). -/
def Ledger.bootFrom (l : Ledger) (x : SlotId) (g : Image) : Ledger :=
  let p := g.movesPin l.pin
  if x = l.cur then { l with booted := some x, pin := if p.isEmpty then l.pin else p, tpin := [] }
  else { l with booted := some x, tpin := p }

/-- The candidates tried in turn: the ledger, the image accepted, and how many were rejected (R369). -/
def bootTry (f : Flash) (l : Ledger) (n : Nat) : List SlotId → Ledger × Option Image × Nat
  | [] => ({ l with booted := none }, none, n)
  | x :: r => match accept (slotOf f x) l.floor l.pin with
    | .ok g => (l.bootFrom x g, some g, n)
    | .error e => bootTry f (l.reject x e) (n + 1) r

/-- QUEUES applied: a port with PEN 0 holds its link down, and one above LINKMAX retrains to it (R371); in the recovery state only
port 0 comes up (R370). -/
def State.portsApply (s : State) : State :=
  s.eachPort fun p h => match s.boot.image with
    | some g => if g.portOn p.val then { h with gen := min h.gen (g.linkMax p.val) } else { h with linkUp := false }
    | none => if p = 0 then h else { h with linkUp := false }

/-- BOOT_IMAGE_CHOICE: the flash is brought into 8D-8D-8D mode and the candidates are read in turn up to the one accepted; every rejection
raises event 5, an abandoned trial event 6. -/
def execBootImageChoice (f : Flash) (s : State) : Host.Outcome State Fault Refusal :=
  .next (if s.rst.stage ≠ .e2 then s
    else
      let b := s.ledger.beginBoot
      let r := bootTry f b.2.1 0 b.1
      let tried := b.1.take (r.2.2 + if r.2.1.isSome then 1 else 0)
      let s0 := s.flash (flashStart ++ tried.map fun x => .read x.base (slotOf f x).bytes.length)
      let s1 := { s0 with ledger := r.1, boot := { s.boot with octal := true, image := r.2.1, recovery := r.2.1.isNone }, pinsSet := r.2.1.isSome }
      let s2 := s1.portsApply.raiseAll ((if b.2.2 then [6] else []) ++ List.replicate r.2.2 5)
      if r.2.1.isNone then s2.tryE4 else { s2 with rst := { s2.rst with stage := .e3 } })

/-! ### E3 to E5 (R288, R301, R371, R395) -/

/-- MEMORY_READY: memory is filled, the pools are built, and the UCIe link is trained. -/
def execMemoryReady (s : State) : Host.Outcome State Fault Refusal :=
  .next (if s.rst.stage ≠ .e3 then s else ({ s with mem := [], ucieDown := false }.buildPools 0 |>.buildPools 1).tryE4)

/-- DEVICE_READY. -/
def execDeviceReady (s : State) : Host.Outcome State Fault Refusal := .next s.deviceReady

/-- Whether a port's link may train: not under PERSTp_N, not before the flash is read, and only where QUEUES, or the recovery
state, lets it (R370, R371, Table 12.3). -/
def State.mayTrain (s : State) (p : Port) : Bool :=
  !(s.ports[p]).linkUp && !s.rst.asserted.contains (.perst p) && s.rst.stage != .held && s.rst.stage != .e1
    && (match s.boot.image with
      | some g => g.portOn p.val
      | none => !s.boot.recovery || p == 0)

/-- PORT_LINK_TRAINED: the link comes up with its rate and width, and with MSI-X as the host has configured it (log 50). A link
that trains again after its port's reset shows that reset in LAST_RST (Table 14.4). -/
def execPortLinkTrained (p : Port) (gen : Nat) (width : Nat) (msix : Option (BitVec 64)) (s : State) : Host.Outcome State Fault Refusal :=
  .next (if !s.mayTrain p then s
    else
      let top := match s.boot.image with
        | some g => g.linkMax p.val
        | none => gen
      let s1 := s.modPort p fun h => { h with
        linkUp := true, l1 := false, gen := min gen top, width := width, msixEn := msix.isSome, msixMask := msix.getD (BitVec.allOnes 64) }
      if s.rst.portRst.getLsbD p.val then
        { s1 with rst := { s1.rst with
            portRst := s1.rst.portRst &&& ~~~(BitVec.twoPow 2 p.val)
            lastRst := if s.rst.stage = .ready ∨ s.rst.stage = .recovery then BitVec.ofNat 3 (3 + p.val) else s1.rst.lastRst } }
      else s1)

/-! ### Staging (R373, R374) -/

/-- The slot that IMAGE_STAGE writes; none where it is refused (Table 11.9). -/
def Ledger.target (l : Ledger) : Option SlotId :=
  match l.booted, l.cur with
  | some .a, .a => some .b
  | some .b, .b => some .a
  | some .a, _ => none
  | some .b, _ => none
  | _, .a => some .b
  | _, _ => some .a

/-- DLEN and OFS of a chunk (Table 10.5): within the slot. -/
def stageFields (e : Entry) : Bool :=
  let n := e.dlen.toNat
  let o := e.cd 0 4
  4096 ≤ n && n ≤ 1048576 && (e.flag 0 || n % 4096 == 0) && o % 4096 == 0 && o + n ≤ 16777216

/-- Checks 6 to 10 of IMAGE_STAGE (R373, R374 items 2 and 3). A session is opened with OFS 0 (DEDUCED, log 106), which settles its target. -/
def stageOwn (c : HostCmd) (s : State) : Option Ending :=
  let o := c.entry.cd 0 4
  if !stageFields c.entry then some (.st 2)
  else if s.boot.staging.any fun x => x.port != c.port then some (.st 0xE)
  else if o = 0 ∧ s.ledger.target.isNone then some (.st 0xE)
  else if o ≠ 0 ∧ !(s.boot.staging.any fun x => x.nextOfs == o) then some (.st 2)
  else none

/-- The session a chunk belongs to: with OFS 0 a new one, at the target of Table 11.9; else the one that is open, whose target stays
(R373, R374 item 1). -/
def State.stageSession (s : State) (c : HostCmd) : Option Staging :=
  if c.entry.cd 0 4 = 0 then s.ledger.target.map fun t => { port := c.port, target := t, nextOfs := 0, total := [], chunk := none }
  else s.boot.staging

/-- The 64 KiB blocks that a chunk reaches for the first time. -/
def newBlocks (ofs n : Nat) : List Nat :=
  let from_ := (ofs + 65535) / 65536
  (List.range ((ofs + n + 65535) / 65536 - from_)).map (from_ + ·)

/-- A 64 KiB block of a slot is erased: write enable, erase, busy poll. -/
def eraseOps (target : SlotId) (block : Nat) : List FlashOp := [.writeEnable, .eraseBlock (target.base + 65536 * block), .pollBusy]

/-- Bytes programmed from a flash address on, a page at a time: write enable, page program, busy poll (R361). The size of a page is the
flash's (log 169). -/
def pageOps (addr : Nat) (data : List Byte) : List FlashOp :=
  let n := 2 ^ Config.flashPage
  (chunks n data.length data).zipIdx.flatMap fun x => [.writeEnable, .programPage (addr + n * x.2) x.1, .pollBusy]

/-- What a chunk does to the flash: the blocks it reaches for the first time are erased, its bytes programmed and read back, and after the
chunk with LAST the target is read (R374 items 4 and 5). -/
def chunkOps (target : SlotId) (ofs : Nat) (data : List Byte) (last : Bool) : List FlashOp :=
  (newBlocks ofs data.length).flatMap (eraseOps target) ++ pageOps (target.base + ofs) data ++ [.read (target.base + ofs) data.length]
    ++ if last then [.read target.base (ofs + data.length)] else []

/-- IMAGE_STAGE starts on its chunk (R374 items 1 and 4). -/
def State.stageGo (s : State) (c : HostCmd) (data : List Byte) : State :=
  match s.stageSession c with
  | none => s
  | some x =>
    let o := c.entry.cd 0 4
    let n := c.entry.dlen.toNat
    let bytes := padTo n data
    let l : Ledger := if o = 0 ∧ s.ledger.trial = some x.target then { s.ledger with tstate := .none } else s.ledger
    let y : Staging := { x with nextOfs := o + n, chunk := some (refOf c, o, bytes, c.flag 0) }
    ({ s with boot := { s.boot with staging := some y }, ledger := l }).flash (chunkOps x.target o bytes (c.flag 0))

/-- IMAGE_STAGE taken: it needs no station and no buffer memory, so it ends no low power state (R352, R374 item 4). -/
def State.runStage (c : HostCmd) (data : List Byte) (s : State) : State :=
  (s.addCmd c (Cmd.start c s.clock .moving)).stageGo c data

/-- A chunk that is still being programmed holds the next one back: the boot controller has one buffer (R374 item 4). -/
def stageBlocked (c : HostCmd) (s : State) : Option Hold :=
  if s.boot.staging.any fun x => x.port == c.port && x.chunk.isSome then some (.staging c.port) else none

/-- IMAGE_STAGE. -/
def execImageStage (c : HostCmd) (data : List Byte) (s : State) : Host.Outcome State Fault Refusal :=
  .next (s.host 0x8A c (stageOwn c) (stageBlocked c) (State.runStage c data))

/-- What the target fails, after the chunk with LAST: the checks of Table 11.6, with ILEN against what was staged as a failure of
check 3 (R374 item 5). -/
def stagedReason (x : SlotRead) (len : Nat) (floor : BitVec 32) (pin : List Byte) : Option Nat :=
  let wrong := leAt x.bytes 0x10 4 != len
  match accept x floor pin with
  | .ok _ => if wrong then some 3 else none
  | .error n => some (if wrong && n > 3 then 3 else n)

/-- The staged image is checked: it is set pending for trial, or rejected and its first block erased (R374 item 5). -/
def State.stageCheck (s : State) (x : Staging) (w : CmdRef) (len : Nat) (read : SlotRead) : State :=
  let s1 := { s with boot := { s.boot with staging := none } }
  match stagedReason read len s.ledger.floor s.ledger.pin with
  | none => { s1 with ledger := { s1.ledger with writing := s1.ledger.writing ++ [.stageTrial x.target w] } }
  | some n =>
    let s2 := { s1 with ledger := { s1.ledger with rejSlot := some x.target, rejReason := n } }
    ((s2.flash (eraseOps x.target 0)).raise 5).finish w { status := 0xF, reason := n }

/-- CHUNK_READ_BACK: `back` is what the chunk read back as, `target` the slot as it reads after the chunk with
LAST (DEDUCED, log 107). -/
def execChunkReadBack (back : List Byte) (target : SlotRead) (s : State) : Host.Outcome State Fault Refusal :=
  .next (match s.boot.staging with
    | none => s
    | some x => match x.chunk with
      | none => s
      | some (w, ofs, data, last) =>
        if back ≠ data then { s with boot := { s.boot with staging := none } }.finish w { status := 0xF, reason := 14 }
        else if last then s.stageCheck x w (ofs + data.length) target
        else
          let y : Staging := { x with chunk := none, total := x.total ++ data }
          { s with boot := { s.boot with staging := some y } }.finish w (.ok 0))

/-! ### Confirming (R375 to R377) -/

/-- The ledger once a confirmation is written: CUR, FLOOR and PIN move, and the trial is over (R376). -/
def Ledger.confirm (l : Ledger) (secVer : BitVec 32) : Ledger :=
  { l with
    cur := if l.onTrial then l.trial.getD l.cur else l.booted.getD l.cur
    floor := if l.floor.ult secVer then secVer else l.floor
    pin := if l.tpin.isEmpty then l.pin else l.tpin
    trial := if l.onTrial then none else l.trial, tstate := if l.onTrial then .none else l.tstate, tpin := [] }

/-- Checks 6 to 10 of IMAGE_CONFIRM: reasons 13 and 12 (R370, R376). -/
def confirmOwn (_ : HostCmd) (s : State) : Option Ending :=
  if s.boot.recovery then some { status := 0xF, reason := 13 }
  else if s.ledger.tstate = .expired then some { status := 0xF, reason := 12 } else none

/-- IMAGE_CONFIRM taken: a ledger write where something is to be confirmed. -/
def State.runConfirm (c : HostCmd) (s : State) : State :=
  let s1 := s.addCmd c (Cmd.start c s.clock .moving)
  if s.ledger.tstate = .running ∨ s.ledger.booted ≠ some s.ledger.cur then
    { s1 with ledger := { s1.ledger with writing := s1.ledger.writing ++ [.confirm (refOf c)] } }
  else s1.finish (refOf c) (.ok 0)

/-- IMAGE_CONFIRM. -/
def execImageConfirm (c : HostCmd) (s : State) : Host.Outcome State Fault Refusal :=
  .next (s.host 0x8B c (confirmOwn c) unblocked (State.runConfirm c))

/-- TRIAL_WINDOW_EXPIRY. -/
def execTrialWindowExpiry (s : State) : Host.Outcome State Fault Refusal :=
  .next (if s.ledger.tstate ≠ .running then s
    else { s with ledger := { s.ledger with tstate := .expired }, boot := { s.boot with trialEnd := none } }.raise 7)

end Sys2Proof.Machine
end

