-- ==== Sys2Proof/Machine/RecallOps.lean ====
section
/-!
DEFINITION. What a station makes of the gatherings it has read (03, R97 to R102; 02, R52 to R60; 05, R166; 08, R268 to R274): C2,
the slots of a quire, C3, headers, the segments of a record, the chain, and the colophon's checks.
-/
namespace Sys2Proof.Machine

/-! ### C2 (R87, R97 to R99) -/

/-- The 512 rows of one parity, data rows first: row 2i + p (R87). -/
def RGath.column (g : RGath) (p : Nat) : List (Option (List Nat)) := (List.range 512).map fun i => g.row? (2 * i + p)

/-- C2 on codeword s of a column: the corrected symbols, or none (R98). -/
def c2Word (rows : List (Option (List Nat))) (s : Nat) : Option (List Nat) :=
  let erased := (rows.zipIdx.filter fun r => r.1.isNone).map fun r => 511 - r.2
  if erased.length > 32 then none
  else (rsDecode gf10 2 32 8 (rows.map fun r => (r.getD []).getD s 0) erased).map (·.word)

/-- The 464 codewords of a column. -/
def c2Words (rows : List (Option (List Nat))) : List (Option (List Nat)) := (List.range 464).map (c2Word rows)

/-- Whether byte β of a row belongs to a failed codeword (R99). -/
def byteLost (words : List (Option (List Nat))) (b : Nat) : Bool :=
  (List.range ((8 * b + 7) / 10 + 1 - 8 * b / 10)).any fun i => (words.getD (8 * b / 10 + i) none).isNone

/-- The data area after C2 and its erased bytes (R98, R99). -/
def RGath.afterC2 (g : RGath) : List Byte × List Nat :=
  let w := [c2Words (g.column 0), c2Words (g.column 1)]
  let lost := w.map fun x => (List.range 580).filter (byteLost x)
  let rows := (List.range 960).map fun r =>
    let x := w.getD (r % 2) []
    rowBytes (x.map fun c => (c.getD []).getD (r / 2) 0)
  (rows.flatten, (List.range 960).flatMap fun r => (lost.getD (r % 2) []).map fun b => 580 * r + b)

/-- Symbols that C2 corrected in rows that had passed C1 (R98). -/
def RGath.miscorrected (g : RGath) : Nat :=
  ([0, 1] : List Nat).foldl (fun a p =>
    let rows := g.column p
    (c2Words rows).zipIdx.foldl (fun b c => match c.1 with
      | none => b
      | some w => b + ((rows.zip w).filter fun x => x.1.any fun y => y.getD c.2 0 != x.2).length) a) 0

/-- Rows that failed C1 and every copy. -/
def RGath.failedRows (g : RGath) : List Nat := (List.range 1024).filter fun r => (g.row? r).isNone

/-! ### Headers (R52 to R55) -/

/-- A big-endian field of a gathering's header. -/
def RGath.hd (g : RGath) (ofs len : Nat) : Nat := beAt (g.area.getD []) ofs len

/-- Whether a data area is known whole. -/
def RGath.clear (g : RGath) : Bool := g.area.isSome && g.erased.isEmpty && !g.whole

/-- Whether a header's CRC passes (R55). -/
def headerOk (area : List Byte) : Bool := crc32c (area.take 0xEFC) == beAt area 0xEFC 4

/-- The kind that a header names (Table 2.5). -/
def kindOf : Nat → GKind
  | 1 => .endpaper
  | 2 => .spine
  | 3 => .colophon
  | _ => .data

/-- A gathering whose header has been read takes its kind and its slot from it. -/
def RGath.headed (g : RGath) : RGath :=
  if g.kind = .parity then g
  else { g with kind := kindOf (g.hd 5 1), slot := if kindOf (g.hd 5 1) = .data then some (g.hd 0x20 8, g.hd 0x28 1) else none }

/-- Bytes of a string set to zero. -/
def blankAt (l : List Byte) (ofs len : Nat) : List Byte := l.take ofs ++ zeros (min len (l.length - ofs)) ++ l.drop (ofs + len)

/-- The additional authenticated data of a gathering read (R53). -/
def RGath.aad (g : RGath) : List Byte :=
  let a := g.area.getD []
  let h := [(0x2C, 2), (0x30, 4), (0x44, 16), (0x54, 48), (0xEFC, 4)].foldl (fun x (f : Nat × Nat) => blankAt x f.1 f.2) (a.take 3840)
  if g.kind.label then h ++ a.drop 3840 else h

/-- The tag check under a key: the payload (R20, R53). -/
def RGath.opens (g : RGath) (key : List Byte) : Option (List Byte) :=
  let a := g.area.getD []
  let r := gcmDecrypt key (bytesAt a 0x38 12) g.aad (if g.kind.label then [] else a.drop 3840) (bytesAt a 0x44 16)
  if g.kind.label then r.map fun _ => a.drop 3840 else r

/-! ### The gatherings read, by number -/

/-- Gatherings in recording order (R56). -/
def byNumber (l : List RGath) : List RGath := sortBy (fun a b => a.gnum ≤ b.gnum) l

/-- Whether it is still open what becomes of a data gathering. -/
def RGath.undecided (g : RGath) : Bool := g.kind == .data && g.plain.isNone && !g.unrec

/-- A header gives the full number of its gathering: the reading's numbers move with it where they were extended wrongly from 18
bits (DEDUCED, log 58). -/
def Recall.renumber (k : Recall) (old new : Nat) : Recall :=
  if old = new ∨ old % 2 ^ 18 ≠ new % 2 ^ 18 then k
  else
    let f := fun (n : Nat) => n + new - old
    { k with highG := f k.highG, gaths := k.gaths.map fun g => if g.area.isNone ∨ g.gnum = old then { g with gnum := f g.gnum } else g }

/-! ### Slots of a quire (R66 to R68) -/

/-- A data gathering that tells where its group's others lie: its gathering slot, its place in the group's data positions (R67), and
its number. -/
structure RMark where
  ord  : Nat
  idx  : Nat
  gnum : Nat
  deriving DecidableEq, Repr

/-- An interleave group as it is read: its first quire, the gathering slot of its data position 0, the number of its data positions,
those that were burned included (R92), whether that number is known for good, and the gatherings that tell, in slot order. -/
structure RGroup where
  q0    : Nat
  start : Nat
  n     : Nat
  sure  : Bool
  marks : List RMark
  deriving DecidableEq, Repr

/-- Quires of a group: D' of R67. -/
def RGroup.quires (x : RGroup) (d : Nat) : Nat := min d x.n

/-- Whether a group holds a quire. -/
def RGroup.holds (x : RGroup) (d quire : Nat) : Bool := x.q0 ≤ quire && quire < x.q0 + x.quires d

/-- Whether a gathering's header marks it as the last data gathering of its group (FLAGS bit 1, R68). -/
def RGath.groupEnd (g : RGath) : Bool := g.clear && (g.hd 0x2B 1).testBit 1

/-- Gatherings in the order of their slots on tape. -/
def bySlot (l : List RGath) : List RGath := sortBy (fun a b => a.ord ≤ b.ord) l

/-- Label gatherings read in slots a to b - 1. -/
def Recall.labelsIn (k : Recall) (a b : Nat) : Nat := (k.gaths.filter fun g => g.kind.label && a ≤ g.ord && g.ord < b).length

/-- Whether a group ends between two data gatherings whose headers have been read: the first is marked so, parity lies between them,
or their slots are further apart than their places in one group. Positions burned after accumulation have no slot, so that places may
be further apart than slots (R67, R68, R92). -/
def Recall.splits (k : Recall) (d : Nat) (a b : RGath) : Bool :=
  a.groupEnd || (k.gaths.any fun g => g.kind == .parity && a.ord < g.ord && g.ord < b.ord)
    || (match a.slot, b.slot with
      | some x, some y => decide (y.2 * d + y.1 < x.2 * d + x.1 + (b.ord - a.ord))
      | _, _ => true)

/-- A data or parity gathering put behind those of a run, or begins the next: data behind parity does, and a data gathering whose
header says so. Runs and what they hold are listed newest first. -/
def Recall.addRun (k : Recall) (d : Nat) (a : List (List RGath)) (g : RGath) : List (List RGath) :=
  match a with
  | (x :: r) :: l =>
    let new := g.kind == .data && (x.kind == .parity || g.slot.isSome && ((x :: r).find? (·.slot.isSome)).any fun y => k.splits d y g)
    if new then [g] :: (x :: r) :: l else (g :: x :: r) :: l
  | l => [g] :: l

/-- The data and parity gatherings read, by group, the earliest first. -/
def Recall.runs (k : Recall) (d : Nat) : List (List RGath) :=
  (((bySlot (k.gaths.filter fun g => g.kind == .data || g.kind == .parity)).foldl (k.addRun d) []).map List.reverse).reverse

/-- The least quire of a run's data gatherings whose headers have been read, with the first of these and the highest quire. -/
def groupLow (l : List RGath) : Option (Nat × RGath × Nat) :=
  let s := l.filterMap fun g => if g.kind = .data then g.slot.map fun q => (g, q.1) else none
  match s with
  | [] => none
  | x :: _ => some (s.foldl (fun a y => min a y.2) x.2, x.1, s.foldl (fun a y => max a y.2) 0)

/-- The gathering slot of data position 0 of a run whose first quire is q0, as its first header tells it. -/
def runStart (d q0 : Nat) (l : List RGath) : Option Nat :=
  (groupLow l).bind fun x => x.2.1.slot.map fun q => x.2.1.ord - (q.2 * d + (q.1 - q0))

/-- The slot at which the next run begins, as far as it tells. -/
def runBegins (d : Nat) (l : List RGath) : Option Nat :=
  match groupLow l with
  | some x => runStart d x.1 l
  | none => (l.find? fun g => g.kind == .data).map (·.ord)

/-- The marks of a run: its data gatherings whose headers have been read. Where its group is known to begin at a slot beyond the one
that the first of them tells, positions before it were burned (R92). -/
def runMarks (d q0 : Nat) (from_ : Option Nat) (l : List RGath) : List RMark :=
  let m := l.filterMap fun g => if g.kind = .data then g.slot.map fun q => (⟨g.ord, q.2 * d + (q.1 - q0), g.gnum⟩ : RMark) else none
  match from_, m.head? with
  | some b, some a => if a.ord - a.idx < b ∧ b < a.ord then ⟨b, 0, a.gnum - a.idx⟩ :: m else m
  | _, _ => m

/-- Positions burned between two marks: those for which there is no slot. -/
def RMark.skips (a b : RMark) : Nat := (b.idx - a.idx) - (b.ord - a.ord)

/-- All positions of a group known to have been burned. -/
def burnedIn : List RMark → Nat
  | a :: b :: l => a.skips b + burnedIn (b :: l)
  | _ => 0

/-- The place of a gathering slot in its group, the number of the gathering being `gnum`: as far behind the mark before it as its slot
lies, and as many burned positions more as its number says, up to all that lie there (DEDUCED, log 59). -/
def RGroup.place (x : RGroup) (ord gnum : Nat) : Option Nat :=
  match (x.marks.filter fun m => m.ord ≤ ord).getLast?, x.marks.find? fun m => ord < m.ord with
  | some a, some b => some (a.idx + (ord - a.ord) + min (a.skips b) ((gnum - a.gnum) - (ord - a.ord)))
  | some a, none => some (a.idx + (ord - a.ord))
  | none, some b => if b.ord - ord ≤ b.idx then some (b.idx - (b.ord - ord)) else none
  | none, none => if x.start ≤ ord then some (ord - x.start) else none

/-- The slot after a group's last data gathering. -/
def RGroup.stop (x : RGroup) : Nat :=
  match x.marks.getLast? with
  | some a => a.ord + (x.n - a.idx)
  | none => x.start + x.n

/-- The number of data positions of a run's group that begins at quire q0 and slot `start`, from what tells it: its last one's flag or
place, the volume's quire table, or the slot at which what follows its parity begins; else from what has been read so far (R67, R68,
R71). -/
def Recall.groupLen (k : Recall) (v : VolCtx) (l : List RGath) (x : RGroup) (next : Option Nat) : Nat × Bool :=
  let d := max v.depth 1
  let tab := v.quires.filter fun q => x.q0 ≤ q.quire && q.quire < x.q0 + d
  let data := l.filter fun g => g.kind == .data
  let top := data.foldl (fun a g => max a ((x.place g.ord g.gnum).getD 0)) 0
  let par := (l.filter fun g => g.kind == .parity).foldl (fun a g => max a g.ord) 0
  let label := (bySlot (k.gaths.filter fun g => par ≤ g.ord && next.all (g.ord < ·) && g.kind.label && par ≠ 0)).head?.map (·.ord)
  let fit := fun (e : Nat) =>
    let m := e + burnedIn x.marks - x.start - k.labelsIn x.start e
    if m ≥ d * (1 + v.parity) then m - d * v.parity else m / (1 + v.parity)
  match data.find? (·.groupEnd), label <|> next with
  | some g, _ => ((x.place g.ord g.gnum).getD 0 + 1, true)
  | none, e =>
    if top + 1 = 32 * d then (32 * d, true)
    else if (tab.find? fun q => q.quire == x.q0).any fun q => q.ndata > 1 then (tab.foldl (fun a q => a + q.ndata) 0, true)
    else match e with
      | some e => (max (top + 1) (min (32 * d) (fit e)), true)
      | none => (if par = 0 then top + 1 else max (top + 1) (min (32 * d) (fit (par + 1))), false)

/-- The slot behind a group's last parity gathering, as far as labels among its parity have been read (R472). -/
def Recall.groupStop (k : Recall) (v : VolCtx) (x : RGroup) : Nat :=
  let n := v.parity * x.quires (max v.depth 1)
  x.stop + n + k.labelsIn x.stop (x.stop + n)

/-- The group of a run, `p` being the group before it. It begins at the quire that follows that one, where that is known (R67); one of
which no header has been read begins there too, behind the labels read (R100, R103; DEDUCED, log 59). -/
def Recall.runGroup (k : Recall) (v : VolCtx) (p : Option RGroup) (l : List RGath) (next : Option Nat) : Option RGroup :=
  let d := max v.depth 1
  let q1 := match p with
    | some p => if p.sure then some (p.q0 + p.quires d) else none
    | none => if k.gaths.any fun g => g.gnum < 2 then some 0 else none
  let from_ := match p with
    | some p => if p.sure then some (k.groupStop v p) else none
    | none => none
  match groupLow l, q1 with
  | some low, q =>
    let q0 := match q with | some q => if q ≤ low.1 ∧ low.2.2 < q + d then q else low.1 | none => low.1
    let start := (runStart d q0 l).getD 0
    let b := if q = some q0 then from_.map fun f => f + k.labelsIn f low.2.1.ord else none
    let x : RGroup := ⟨q0, start, 0, false, runMarks d q0 b l⟩
    let n := k.groupLen v l x next
    some { x with n := n.1, sure := n.2 }
  | none, some q0 =>
    let first := (l.head?.map (·.ord)).getD 0
    let f := match from_ with
      | some f => f
      | none => match (bySlot (k.gaths.filter fun g => g.kind.label && g.ord < first)).getLast? with
        | some g => g.ord + 1
        | none => first
    let x : RGroup := ⟨q0, f + k.labelsIn f first, 0, false, []⟩
    let n := k.groupLen v l x next
    some { x with n := n.1, sure := n.2 }
  | none, none => none

/-- A group of which nothing at all has been read, between a group whose end is known and a run whose first quire is `low` and begins at
slot `next`: the quires missing and the slots between fit one group (R100; DEDUCED, log 59). -/
def Recall.lostGroup (k : Recall) (v : VolCtx) (p : RGroup) (l : List RGath) : Option RGroup :=
  let d := max v.depth 1
  let q0 := p.q0 + p.quires d
  match groupLow l, runStart d q0 l with
  | some low, some start =>
    let stop := k.groupStop v p
    let gap := start - stop - k.labelsIn stop start
    let m := low.1 - q0
    let n := gap + m - v.parity * m
    if p.sure ∧ q0 < low.1 ∧ v.parity * m ≤ gap ∧ (m < d ∧ n = m ∨ m = d ∧ n ≤ 32 * d) then some ⟨q0, stop + k.labelsIn stop start, n, true, []⟩
    else none
  | _, _ => none

/-- The groups read, the earliest first. Parity that lies behind the end of a group belongs to one of whose data nothing has been
read. -/
def Recall.groups (k : Recall) (v : VolCtx) : List RGroup :=
  let d := max v.depth 1
  let rs := k.runs d
  (rs.zipIdx.foldl (fun (a : List RGroup) x =>
    let next := rs[x.2 + 1]?.bind (runBegins d)
    let a1 := match a.head? with
      | some p => (match k.lostGroup v p x.1 with | some y => y :: a | none => a)
      | none => a
    match k.runGroup v a1.head? x.1 next with
    | none => a1
    | some y =>
      let rest := if y.sure then x.1.filter fun g => g.kind == .parity && k.groupStop v y ≤ g.ord else []
      if rest.isEmpty then y :: a1
      else match k.runGroup v (some y) rest next with
        | some z => z :: y :: a1
        | none => y :: a1) []).reverse

/-- Quire and position of a gathering: from its header, else from its place among the slots of its group (R67, R472) (DEDUCED, log
59). -/
def Recall.slotOf (k : Recall) (v : VolCtx) (g : RGath) : Option (Nat × Nat) :=
  let d := max v.depth 1
  match g.kind, g.slot with
  | .data, some x => some x
  | .data, none => (((k.groups v).filter fun x => x.start ≤ g.ord).getLast?).bind fun x =>
    (x.place g.ord g.gnum).bind fun i => if i < x.n then some (x.q0 + i % d, i / d) else none
  | .parity, _ => (((k.groups v).filter fun x => x.stop ≤ g.ord).getLast?).bind fun x =>
    let j := g.ord - x.stop - k.labelsIn x.stop g.ord
    if j < v.parity * x.quires d then some (x.q0 + j % x.quires d, 32 + j / x.quires d) else none
  | _, _ => none

/-- The group that holds a quire. -/
def Recall.groupOf (k : Recall) (v : VolCtx) (quire : Nat) : Option RGroup := (k.groups v).find? fun x => x.holds (max v.depth 1) quire

/-- The gatherings read of a group. -/
def Recall.inGroup (k : Recall) (v : VolCtx) (x : RGroup) : List RGath :=
  k.gaths.filter fun g => (k.slotOf v g).any fun q => x.holds (max v.depth 1) q.1

/-- Members of a quire that have been read, with their positions. -/
def Recall.members (k : Recall) (v : VolCtx) (quire : Nat) : List (Nat × RGath) :=
  k.gaths.filterMap fun g => (k.slotOf v g).bind fun x => if x.1 = quire then some (x.2, g) else none

/-- Data gatherings of a quire (R67). -/
def Recall.dataOf (k : Recall) (v : VolCtx) (quire : Nat) : Nat :=
  let d := max v.depth 1
  match k.groupOf v quire with
  | some x => min 32 ((x.n + d - 1 - (quire - x.q0)) / d)
  | none => 0

/-- The gathering of a slot that was not read at all, under the number that its place gives. -/
def Recall.unread (k : Recall) (o : Nat) : RGath :=
  let before := (bySlot (k.gaths.filter fun g => g.ord < o)).getLast?
  let after := (bySlot (k.gaths.filter fun g => o < g.ord)).head?
  let n := match before, after with
    | some g, _ => g.gnum + (o - g.ord)
    | none, some g => g.gnum - (g.ord - o)
    | none, none => o
  { RGath.fresh n .data with
    whole := true, ord := o, lpos := ((before <|> after).map (·.lpos)).getD 0, wrap := ((before <|> after).map (·.wrap)).getD k.wrap }

/-- The data gatherings of a quire's group that were not read at all enter as erased (R100). A position burned after accumulation has
no slot and no gathering: C3 takes it as erased (R92). -/
def Recall.addMissing (k : Recall) (v : VolCtx) (quire : Nat) : Recall :=
  match k.groupOf v quire with
  | none => k
  | some x =>
    let d := max v.depth 1
    let have_ := (k.gaths.filter fun g => g.kind == .data).filterMap (k.slotOf v)
    let new := (List.range (x.stop - x.start)).filterMap fun i =>
      let o := x.start + i
      let g := k.unread o
      if (k.gath? g.gnum).isSome || k.gaths.any (fun y => y.ord == o) then none
      else (x.place o g.gnum).bind fun j =>
        if x.n ≤ j || have_.contains (x.q0 + j % d, j / d) then none else some { g with slot := some (x.q0 + j % d, j / d) }
    { k with gaths := k.gaths ++ new }

/-- The gatherings of every group that has been read to its end enter, those that were not read as erased (R100). -/
def Recall.filled (k : Recall) (v : VolCtx) (done_ : RGroup → Bool) : Recall :=
  (k.groups v).foldl (fun a x => if done_ x then a.addMissing v x.q0 else a) k

/-- Whether a group has been read to its end, the grid having begun `ord` gathering slots: the recording is over, or a slot behind
its last parity gathering has begun, or that one has been through C2. -/
def Recall.groupOver (k : Recall) (v : VolCtx) (x : RGroup) (ord : Nat) : Bool :=
  let last := k.groupStop v x
  k.ended || x.sure && (decide (last ≤ ord) || k.gaths.any fun g => (g.area.isSome || g.whole) && last ≤ g.ord + 1)

/-! ### The end of recording (R467) -/

/-- Whether a gathering is known to be the volume's own and headered: its row 0 names the volume, or it has been decoded. -/
def RGath.own (g : RGath) (v : VolCtx) : Bool :=
  g.kind != .parity && (g.clear || (g.row? 0).any fun x => !v.alien x)

/-- What has been read, up to the end of recording, once that has been reached: a volume that shows no tail ends with its last headered
gathering that names it, the parity that still belongs to that group, and the band that follows. Whatever lies behind, an older
volume's parity and copies among it, is none of its; a gathering that is not decided yet stays until it is (R467; DEDUCED, log 149). -/
def Recall.trim (k : Recall) (v : VolCtx) : Recall :=
  if !k.ended || k.tail.isSome || k.reread then k
  else
    let open_ := fun (g : RGath) => g.kind != .parity && g.area.isNone && !g.whole
    match (bySlot (k.gaths.filter fun g => g.own v || open_ g)).getLast? with
    | none => { k with gaths := [] }
    | some x =>
      let mine := fun (g : RGath) => g.kind == .parity
        && (x.area.isNone || ((k.slotOf v g).bind fun q => (k.groups v).find? fun y => y.holds (max v.depth 1) q.1).any (·.sure))
      let l := k.gaths.filter fun g => g.ord ≤ x.ord || mine g
      let last := ((bySlot l).getLast?).getD x
      { k with gaths := l.map fun g => { g with copies := g.copies.filter fun c => c.pass != last.pass || decide (c.pos < last.base + 9) } }

/-! ### C3 (R91, R101) -/

/-- A data area with its erased bytes taken out; `er` lists their positions from `i` on, rising. -/
def maskArea : List Byte → List Nat → Nat → List (Option Nat)
  | [], _, _ => []
  | b :: r, er, i => match er with
    | e :: es => if e = i then none :: maskArea r es (i + 1) else some b.toNat :: maskArea r er (i + 1)
    | [] => some b.toNat :: maskArea r [] (i + 1)

/-- What a member contributes: its bytes as far as they are known. -/
def RGath.cells (g : RGath) : Array (Option Nat) :=
  match g.area with
  | some a => if g.whole then Array.replicate areaBytes none else (maskArea a g.erased 0).toArray
  | none => Array.replicate areaBytes none

/-- One byte position of a quire: positions 0 to 31 + P with their bytes, an erased one as none; missing positions are zero. The
bytes after C3, or the erasures as they are where it does not solve (R101). -/
def c3Fix (p : Nat) (w : List (Option Nat)) : List (Option Nat) :=
  let erased := (w.zipIdx.filter fun x => x.1.isNone).map fun x => 31 + p - x.2
  if erased.isEmpty ∨ erased.length > p then w
  else match rsDecode gf8 2 p 0 (w.map (·.getD 0)) erased with
    | some r => r.word.map some
    | none => w

/-- A quire after C3: for each position its bytes, those still erased as none. -/
def c3Quire (p ndata : Nat) (m : List (Nat × RGath)) : List (List (Option Nat)) :=
  let cells := (List.range (32 + p)).map fun i =>
    if 32 > i ∧ i ≥ ndata then Array.replicate areaBytes (some 0)
    else match m.find? fun x => x.1 == i with
      | some x => x.2.cells
      | none => Array.replicate areaBytes none
  let cols := (List.range areaBytes).map fun b => c3Fix p (cells.map fun c => c.getD b none)
  (List.range (32 + p)).map fun i => cols.map fun c => c.getD i none

/-- A member after C3. -/
def RGath.afterC3 (g : RGath) (b : List (Option Nat)) : RGath :=
  { g with area := some (b.map fun x => BitVec.ofNat 8 (x.getD 0)), whole := false,
           erased := (b.zipIdx.filter fun x => x.1.isNone).map (·.2) }

/-- A data gathering whose erased bytes C3 has all recovered is checked again by its CRC; one that fails is erased as a whole
(R100, R101). -/
def RGath.recheck (g : RGath) : RGath :=
  if g.erased.isEmpty then (if headerOk (g.area.getD []) then g.headed else { g with whole := true }) else g

/-! ### Records (R57 to R60, R166) -/

/-- A segment read. -/
structure RSeg where
  gnum   : Nat
  lon    : Nat
  offset : Nat
  last   : Bool
  inc    : Bool
  data   : List Byte
  deriving DecidableEq, Repr

/-- The segments of a gathering whose tag has passed (Table 2.7). -/
def RGath.segs (g : RGath) : List RSeg :=
  match g.plain with
  | none => []
  | some p =>
    if g.kind ≠ .data then []
    else ((List.range (min 120 (g.hd 0x2E 2))).foldl (fun (a : Nat × List RSeg) i =>
      let o := 0x100 + 24 * i
      let n := g.hd (o + 16) 4
      let f := g.hd (o + 20) 4
      (a.1 + n, a.2 ++ [⟨g.gnum, g.hd o 8, g.hd (o + 8) 8, f.testBit 1, f.testBit 2, (p.drop a.1).take n⟩])) (0, [])).2

/-- Every segment read, in recording order. -/
def Recall.segs (k : Recall) : List RSeg := (byNumber k.gaths).flatMap RGath.segs

/-- What has been read of a record: its stored stream from its start as far as no segment is missing, whether that ends with LAST,
whether an INCOMPLETE segment exists, the first segment beyond a hole, and the numbers of the gatherings that hold segments. -/
structure Found where
  stored : List Byte
  last   : Bool
  inc    : Bool
  beyond : Option Nat
  gaths  : List Nat
  deriving DecidableEq, Repr

/-- A segment added to what has been read of its record. -/
def Found.add (f : Found) (x : RSeg) : Found :=
  let f1 := { f with gaths := f.gaths ++ [x.gnum] }
  if x.inc then { f1 with inc := true, beyond := if f.beyond.isNone && f.stored.length < x.offset then some x.gnum else f.beyond }
  else if f.beyond.isNone && x.offset == f.stored.length then { f1 with stored := f.stored ++ x.data, last := f.last || x.last }
  else if f.beyond.isNone then { f1 with beyond := some x.gnum } else f1

/-- What has been read of a record. -/
def Recall.found (k : Recall) (lon : Nat) : Found :=
  (k.segs.filter fun x => x.lon == lon).foldl Found.add ⟨[], false, false, none, []⟩

/-- Whether no data gathering below a number is undecided and one of them is unrecovered. -/
def Recall.lostBelow (k : Recall) (n : Nat) : Bool :=
  !(k.gaths.any fun g => g.gnum < n && g.undecided) && k.gaths.any fun g => g.gnum < n && g.kind == .data && g.unrec

/-- Whether everything read so far is decided and the recording has been read to its end. -/
def Recall.exhausted (k : Recall) : Bool := k.ended && !k.reread && !k.gaths.any RGath.undecided

/-- Whether all has been read of a record that will be. -/
def Recall.settled (k : Recall) (lon : Nat) : Bool :=
  let f := k.found lon
  f.last || f.inc || f.beyond.any k.lostBelow || k.exhausted

/-- LONs that have a segment, rising. -/
def Recall.lons (k : Recall) : List Nat := (sortBy (· ≤ ·) (k.segs.map (·.lon))).eraseDups

/-- A record as the decompression lane leaves it: what the checks of Table 5.5 and Table 8.8 ask. -/
structure Checked where
  lost   : Bool                      -- a segment is unrecovered, or missing (R101)
  poison : Bool
  reason : Nat                       -- log reason of the first frame check that failed, 0 for none
  last   : Bool
  lens   : Bool
  sha    : Bool
  data   : List Byte
  hash   : List Byte                 -- stored SHA-384, where the trailer is there
  deriving DecidableEq, Repr

/-- Whether an unrecovered gathering may hold a segment of a record: its segment table says so where its header can be read. -/
def RGath.mayHold (g : RGath) (lon : Nat) : Bool :=
  !(g.area.isSome && headerOk (g.area.getD []) && g.erased.all (0xF00 ≤ ·))
    || (List.range (min 120 (g.hd 0x2E 2))).any fun i => g.hd (0x100 + 24 * i) 8 == lon

/-- The checks on a record's stream. A segment is unrecovered or missing where one lies beyond a hole, or where the stream does not end
and a gathering behind its last segment that may hold one is unrecovered (R101). Reason 1 also where a stream that ends with LAST ends within a frame
(DEDUCED, logs 72 and 90). -/
def Recall.check (k : Recall) (lon : Nat) : Checked :=
  let f := k.found lon
  let n := f.stored.length
  let whole := f.last && n ≥ 64
  let tr := f.stored.drop (n - 64)
  let d := decodeStream (if whole then f.stored.take (n - 64) else f.stored)
  { lost := !f.last && (f.beyond.isSome || !f.inc && k.gaths.any fun g => g.kind == .data && g.unrec && f.gaths.all (· < g.gnum) && g.mayHold lon)
    poison := k.poisoned.contains lon
    reason := match d.reason with
      | none => 0
      | some 0 => if f.last then 1 else 0
      | some r => r
    last := f.last && !f.inc
    lens := whole && beAt tr 48 8 == d.out.length && beAt tr 56 8 == n - 64
    sha := whole && sha384 d.out == tr.take 48
    data := d.out
    hash := if whole then tr.take 48 else [] }

/-- The status and log reason of a READ or VERIFY (Table 5.5, Table 9.3). -/
def Checked.ending (c : Checked) : Nat × Nat :=
  if c.poison then (8, 0)
  else if c.reason ≠ 0 then (9, c.reason)
  else if c.lost then (6, 0)
  else if !c.last then (0xA, 0)
  else if !c.lens then (9, 6)
  else if !c.sha then (7, 0) else (0, 0)

/-- What the SHA-384 over the bytes decoded comes to where an earlier check has failed: 1 equal to the stored one, 2 not; 0 where none
has (R166; its place in the log entry a DESIGN CHOICE, log 128). -/
def Checked.outcome (c : Checked) : Nat := if c.ending.1 = 0 ∨ c.ending.1 = 7 then 0 else if c.sha then 1 else 2

/-! ### The chain (R268, R269) -/

/-- Headered gatherings in recording order. -/
def Recall.headered (k : Recall) : List RGath := byNumber (k.gaths.filter fun g => g.kind != .parity)

/-- Whether the chain breaks between two consecutive headered gatherings: PREV, which a gathering that is not recovered leaves out, for
it has no chain value (R269), and the numbers between them where the burned ranges are known. Slots between them of which nothing was
read account for as many numbers (DEDUCED, log 150). -/
def Recall.breaks (k : Recall) (gaps : Option (List (Nat × Nat))) (a b : RGath) : Bool :=
  (a.clear && b.clear && bytesAt (b.area.getD []) 0x54 48 != sha384 (a.area.getD []))
    || gaps.any fun l =>
      let between := (k.gaths.filter fun g => g.kind == .parity && a.gnum < g.gnum && g.gnum < b.gnum).map (·.gnum)
      let bare := (List.range (b.gnum - a.gnum - 1)).filter fun i => !between.contains (a.gnum + 1 + i) && !inRanges l (a.gnum + 1 + i)
      decide ((b.ord - a.ord - 1) - between.length < bare.length)

/-- The spans of the chain that step 1 could not cover: the gathering numbers on each side of what was not recovered (R269). -/
def Recall.spans (k : Recall) : List (Nat × Nat) :=
  let h := k.headered
  let c := h.filter (·.clear)
  ((c.zip (c.drop 1)).filter fun x => h.any fun g => !g.clear && x.1.gnum < g.gnum && g.gnum < x.2.gnum).map fun x => (x.1.gnum, x.2.gnum)

/-- The first break among headered gatherings up to a number. -/
def Recall.firstBreak (k : Recall) (gaps : Option (List (Nat × Nat))) (upTo : Nat) : Option (Nat × Nat) :=
  let h := k.headered.filter fun g => g.gnum ≤ upTo
  ((h.zip (h.drop 1)).find? fun x => k.breaks gaps x.1 x.2).map fun x => (x.1.gnum, x.2.gnum)

/-! ### Labels (R71, R72) -/

/-- The parts of a label from a part 0 on, as far as they follow on. -/
def labelFrom : List RGath → Nat → List Byte
  | [], _ => []
  | g :: r, i => if g.hd 0x28 1 = i then (g.plain.getD []) ++ labelFrom r (i + 1) else []

/-- The streams of a kind of label that have been read, by their first gathering. -/
def Recall.labels (k : Recall) (kind : GKind) : List (Nat × List Byte) :=
  let l := byNumber (k.gaths.filter fun g => g.kind == kind && g.plain.isSome)
  l.zipIdx.filterMap fun x => if x.1.hd 0x28 1 = 0 then some (x.1.gnum, labelFrom (l.drop x.2) 0) else none

/-- The quire entries of a spine (Tables 2.9 and 2.10, R478). -/
def spineQuires (b : List Byte) : List QEntry :=
  (List.range (beAt b 0x1C 4)).map fun i =>
    let o := 0x30 + 24 * beAt b 0x20 2 + 32 * i
    let lo := beAt b (o + 8) 8
    let hi := beAt b (o + 16) 8
    { quire := beAt b o 8, lo := if lo > hi then none else some lo, hi := if lo > hi then none else some hi,
      lpos := beAt b (o + 24) 4, ndata := beAt b (o + 28) 1, npar := beAt b (o + 29) 1, wrap := beAt b (o + 30) 2 }

/-- Offset of CCLEN. -/
def colCc (c : List Byte) : Nat := 0x110 + 16 * (beAt c 0xB8 4 + beAt c 0xBC 4)
/-- Offset of SIGML. -/
def colSig (c : List Byte) : Nat := colCc c + 4 + beAt c (colCc c) 4

/-- Whether a colophon stream is there up to its CLEN. -/
def colWhole (c : List Byte) : Bool := colClen c ≥ 0x114 && c.length ≥ colClen c

/-- Whether the lengths of a colophon stream, as far as it has been read, contradict each other, so that it can never be whole (check 1
of Table 8.5). -/
def colTorn (c : List Byte) : Bool :=
  c.length ≥ 0x114 && (colClen c < 0x114 || c.length ≥ colCc c + 4 && colClen c != colSig c + 3309 + 96)

/-- Checks 1 to 5 of Table 8.5: the first that fails. -/
def colCheck (v : VolCtx) (c : List Byte) : Option Nat :=
  let sig := colSig c
  let msg := c.take sig
  let chain := bytesAt c (colCc c + 4) (beAt c (colCc c) 4)
  if beAt c 0 4 ≠ 0x49544843 ∨ beAt c 4 1 ≠ 1 ∨ colClen c ≠ sig + 3309 + 96 ∨ !colWhole c ∨ bytesAt c 8 16 ≠ padTo 16 v.volid then some 1
  else if !sealedBy chain msg (bytesAt c sig 3309) (bytesAt c (sig + 3309) 96) then some 2
  else if !deviceChain chain then some 3
  else if (sealingSerial chain).isNone then some 4
  else if bytesAt c 0xC0 48 ≠ padTo 48 v.prov ∨ bytesAt c 0xF0 16 ≠ padTo 16 v.srcvol then some 5 else none

/-- The leaf of a record that has been read (R270). -/
def Recall.leaf (k : Recall) (lon : Nat) : List Byte :=
  let f := k.found lon
  let st : List Byte × List Byte := if f.last && !f.inc then ([0], (f.stored.drop (f.stored.length - 64)).take 48)
    else if f.gaths.isEmpty then ([2], zeros 48) else ([1], zeros 48)
  sha384 ([0] ++ beBytes 8 lon ++ st.1 ++ st.2)

/-- MERKLE recomputed from the trailers read (R270). -/
def Recall.merkle (k : Recall) (n : Nat) : List Byte := merkleRoot 64 ((List.range n).map k.leaf)

/-- Check 6 of Table 8.5, and the HEAD of R268: what was observed equals what the colophon says. -/
def Recall.colSix (k : Recall) (c : List Byte) : Bool :=
  let first := (byNumber (k.gaths.filter fun g => g.kind == .colophon)).head?
  let before := byNumber (k.gaths.filter fun g => first.all fun x => g.gnum < x.gnum)
  let glast := match before.getLast? with | some g => g.gnum | none => 0
  let burned := gapsFrom 0 (glast + 1) (before.map (·.gnum))
  let n := fun (f : RGath → Bool) => (before.filter f).length
  let head := (before.filter fun g => g.kind != .parity).getLast?
  (head.all fun g => sha384 (g.area.getD []) == bytesAt c 0x18 48) && beAt c 0x90 8 == n (fun g => g.kind == .data)
    && beAt c 0x98 8 == n (fun g => g.kind == .parity) && beAt c 0xA0 8 == n (fun g => g.kind.label) && beAt c 0xA8 8 == glast
    && beAt c 0xB0 8 == burned.foldl (fun a r => a + (r.2 + 1 - r.1)) 0 && colGgaps c == burned
    && colLgaps c == gapsFrom 0 (beAt c 0x78 8) k.lons && k.merkle (beAt c 0x78 8) == bytesAt c 0x48 48

end Sys2Proof.Machine
end

