-- ==== Sys2Proof/Machine/MountOps.lean ====
section
/-!
DEFINITION. Mounting (02, R70, R75; 08, R261, R265, R271, R275; 10, R334 to R336): the endpaper's search and acceptance, what a
rebuild restores, creating a volume, and unmounting.
-/
namespace Sys2Proof.Machine

/-! ### Contexts -/

/-- The context of a volume of which nothing is known. -/
def VolCtx.blank : VolCtx :=
  { state := .blank, sealing := false, faulted := false, closureBad := false, volid := [], geo := [], dchash := [], wkey := [],
    npfx := 0, depth := 0, parity := 0, endpaper := [], prov := [], srcvol := [], gnum := 0, burned := [], lon := 0, lonGaps := [],
    recs := [], group := 0, q0 := 0, inGroup := 0, grpEnd := false, freeSlots := [], parDue := [], accs := [], quires := [],
    wrapFirst := [], spineDue := [], labelQ := [], prevIn := 0, copies := 0, colStream := none, colDone := 0, closing := .none, sealCmd := none,
    initCmd := none, colBad := false, chain := [], ndata := 0, npar := 0, nlabel := 0, lost := false }

/-- The context that an endpaper payload gives (Table 2.8). -/
def VolCtx.ofEndpaper (p : List Byte) (st : VolState) : VolCtx :=
  { VolCtx.blank with
    state := st, volid := bytesAt p 8 16, geo := bytesAt p 0x100 256, dchash := bytesAt p 0x20 48, wkey := bytesAt p 0x50 40
    npfx := BitVec.ofNat 32 (beAt p 0x78 4), depth := beAt p 0x1C 1, parity := beAt p 0x1D 1, endpaper := bytesAt p 0 512
    prov := bytesAt p 0x80 48, srcvol := bytesAt p 0xB0 16 }

/-! ### MOUNT (R334) -/

/-- GEOID, RATE and VOLID of a MOUNT. -/
def mountRate (e : Entry) : Nat := e.cd 8 4
def mountVolid (e : Entry) : List Byte := leBytes 16 (e.cd 0x10 16)

/-- The control engine of a station's die is held in reset (R407). -/
def State.engineHeld (s : State) (st : Stn) : Bool := s.blkRst.any fun b => b.kind == 2 && b.die == dieOf st

/-- Checks 6 to 10 of MOUNT (R75, R118, R334). A cartridge that is not loaded cannot be threaded (DESIGN CHOICE, log 60). -/
def mountOwn (c : HostCmd) (cart : Cartridge) (s : State) : Option Ending :=
  let e := c.entry
  let t := s.stns[e.st]
  let m := mountMode e
  if m > 2 ∨ (m ≠ 2 ∧ e.cd 0 4 ≠ 0) then some (.st 2)
  else if t.mount.isSome ∨ t.stabled ∨ t.mountCmd.isSome ∨ s.engineHeld e.st then some (.st 0xE)
  else if m = 2 ∧ (s.img.geo? (e.cd 0 4)).isNone then some { status := 0x12, reason := 2 }
  else if m ≠ 0 ∧ !(300 ≤ s.img.vdist e.st.val && s.img.vdist e.st.val ≤ 800) then some (.st 0xC)
  else if m ≠ 0 ∧ cart.writeProtected then some (.st 5)
  else if !cart.loaded then some (.st 0xC) else none

/-- A MOUNT that has been taken goes on: a station that is not Open is waited for (Table 7.12). -/
def State.startMount (r : CmdRef) (s : State) : State :=
  match s.cmd? r with
  | none => s
  | some k =>
    ((s.modCmd r fun k => { k with phase := .queued }).modStn k.entry.st fun t => { t with mountCmd := some r }).mountGo k.entry.st

/-- A MOUNT fails: it completes, and the station stops and opens. -/
def State.mountFail (s : State) (st : Stn) (r : CmdRef) (f : Ending) : State := (s.finish r f).dropMount st

/-- A MOUNT succeeds: the package counter gives its number (R325), and its tape stops. -/
def State.mounted (s : State) (st : Stn) (r : CmdRef) (m : Mode) (geo : List Byte) (state : Nat) (buf : List Byte) : State :=
  match s.cmd? r with
  | none => s
  | some k =>
    let n := s.mntCnt + 1
    let s1 := { s with mntCnt := n }.modStn st fun t => { t with
      mount := some ⟨n, m, BitVec.ofNat 32 (geoId geo), geo⟩, mountCmd := none, readSide := t.readSide.done
      speed := { t.speed with rate := mountRate k.entry } }
    (if buf.isEmpty then s1.finish r (.ok (n.toNat + 2 ^ 32 * state)) else s1.finishWith r (.ok (n.toNat + 2 ^ 32 * state)) buf).controlledStop st

/-- A MODE 2 mount: a blank cartridge, whose result buffer has no endpaper to show (log 61). -/
def State.mountedBlank (s : State) (st : Stn) (r : CmdRef) (k : Cmd) : State :=
  (s.modStn st fun t => { t with ctx := none }).mounted st r .blank (s.mountGeo k.entry) 0 []

/-- Where an endpaper fails R75: the log reason. -/
def State.endpaperBad (s : State) (p : List Byte) : Option Nat :=
  if beAt p 4 1 ≠ 1 then some 1
  else match s.img.geo? (beAt p 0x18 4) with
    | none => some 2
    | some g => if g = bytesAt p 0x100 256 then none else some 3

/-- An endpaper copy has been decoded during a MOUNT (R70, R75, R275, R334). Its key goes into the station's slot and a crypto lane
checks its tag. A volume of which a set-point lies more than 20 µm from the centreline cannot be mounted (R237). -/
def State.endpaperFound (s : State) (st : Stn) (r : CmdRef) (k : Cmd) (g : RGath) : State :=
  let p := (g.area.getD []).drop 3840
  let m := mountMode k.entry
  let want := mountVolid k.entry
  if want.any (· != 0) && want != bytesAt p 8 16 then s.mountFail st r (.st 5)
  else if m = 2 then (if k.entry.flag 2 then s.mountedBlank st r k else s.mountFail st r (.st 5))
  else match s.endpaperBad p with
    | some n => s.mountFail st r { status := 0x12, reason := n }
    | none =>
      let v := VolCtx.ofEndpaper p .unsealed
      if !reachable s.img v.geo st (geoWpb v.geo) then s.mountFail st r (.st 0xC)
      else match s.vault.domains.find? fun d => d.dchash == v.dchash with
      | none => s.mountFail st r (.st 0xB)
      | some d =>
        if m = 1 ∧ !d.write then s.mountFail st r (.st 0xB)
        else match kwUnwrap d.key v.wkey with
          | none => (s.raise 9).mountFail st r (.st 0xB)
          | some key =>
            { s with vault := { s.vault with slots := vmod s.vault.slots st fun _ => some key } }.addJob (dieOf st) rCrypto
              (Job.fresh (.decrypt st g.gnum) st s.clock)

/-- A MOUNT whose endpaper has passed, and whose reel set is the volume's, goes on: a volume mounted for reading is mounted, with a
state that the spec does not say how to find out before a colophon is read (free, log 62); one mounted for appending is read
through for its rebuild (R271). -/
def State.mountOn (s : State) (st : Stn) (r : CmdRef) (k : Cmd) (v0 : VolCtx) : State :=
  if mountMode k.entry = 0 then
    let d := s.draw
    let v := { v0 with state := match d.1 % 3 with | 0 => VolState.unsealed | 1 => .sealed | _ => .faultSealed }
    (d.2.modStn st fun t => { t with ctx := some v }).mounted st r .read v.geo v.state.code v.endpaper
  else
    let s1 := (s.modCmd r fun k => { k with phase := .rebuilding }).modStn st fun t => { t with
      ctx := some v0, readSide := { Recall.reset with active := true }, link := t.link.startReading s.img }
    (s1.aim st 0 0).rampTo st .locate (ladder (s.ceiling st))

/-- An endpaper's tag has passed. Where the reel set in force is not the one of the volume's descriptor, the tape stops, the loops
open, the set is written and they close again before the MOUNT goes on (R244; DEDUCED, log 88); in Hold it waits for the station to be
Open (Table 7.13). -/
def State.endpaperPassed (s : State) (st : Stn) (r : CmdRef) (k : Cmd) (p : List Byte) : State :=
  let v := VolCtx.ofEndpaper p .unsealed
  if (s.stns[st]).servo.reelSet = s.img.reelOf v.geo ∧ (s.stns[st]).servo.motion ≠ .hold then s.mountOn st r k v
  else
    let s1 := (s.modCmd r fun k => { k with phase := .queued }).modStn st fun t => { t with ctx := some v, readSide := t.readSide.done }
    if (s.stns[st]).servo.motion = .moving then s1.controlledStop st else (s1.openLoops st).mountGo st

/-- The gathering of endpaper copy c, as far as its number is known: copies 0 and 1 are gatherings 0 and 1, copies 2 and 3 the first
labels read beyond them (R42, R56). -/
def Recall.copyGath (k : Recall) (c : Nat) : List Nat :=
  if c < 2 then [c] else ((((bySlot (k.gaths.filter fun g => g.kind.label && g.gnum > 1)).map (·.gnum)).drop (c - 2)).take 1)

/-- The wrap of endpaper copy c: copies 2 and 3 lie on wrap 1, or on wrap 0 of a volume that has no other (Table 2.1), as what has been
read of them tells, or whether anything lies on wrap 1 at all. -/
def Recall.copyWrap (k : Recall) (c : Nat) : Nat :=
  if c < 2 then 0
  else match (k.copyGath c).head?.bind k.gath? with
    | some g => g.wrap
    | none => if k.gaths.any fun g => g.wrap == 1 then 1 else 0

/-- The search for an endpaper goes on (R70): the copies of wrap 0, then those of wrap 1; then rung 3 on each copy in turn, copy 0
first, with up to REREAD_MAX passes for each. A MODE 2 mount that finds none has a blank; it re-reads only where it has seen rows of a label (DESIGN
CHOICE, log 91). -/
def State.mountSearch (s : State) (st : Stn) (r : CmdRef) (k : Cmd) : State :=
  let t := s.stns[st]
  let x := t.readSide
  let seen := x.gaths.any fun g => g.kind.label
  let go := fun (a : State) (w : Nat) (ofs : Int) => ((a.aim st w ofs).rampTo st .locate (ladder (min t.servo.setStep s.img.rereadStep)))
  if x.wrap = 0 ∧ x.pass = 0 then (go s 1 0).modStn st fun t => { t with
    link := t.link.startReading s.img, readSide := { t.readSide with wrap := 1 } }
  else if x.pass < 4 * s.img.rereadMax ∧ (mountMode k.entry ≠ 2 ∨ seen) then
    let c := x.pass / s.img.rereadMax
    let q : Int := geoPitch (s.mountGeo k.entry) / 4
    let w := x.copyWrap c
    (go s w (if x.pass % s.img.rereadMax % 2 = 0 then -q else q)).modStn st fun t => { t with
      link := t.link.startReading s.img
      readSide := { t.readSide with wrap := w, reread := true, moved := true, failed := t.readSide.copyGath c } }
  else if mountMode k.entry = 2 then s.mountedBlank st r k
  else s.mountFail st r (.st (if x.epFail then 0xB else 6))

/-- A rung 3 pass has ended: what has been read is merged, and what the pass was for is decoded again, as is every parity gathering
of which it has read rows (R208, R210). -/
def Recall.again (k : Recall) : Recall :=
  let due := fun (g : RGath) => k.failed.isEmpty || k.failed.contains g.gnum || g.kind == .parity && g.pass == k.passNow
  { k with reread := false, pass := k.pass + 1, c3Done := [], gaths := k.gaths.map fun g =>
      if g.plain.isSome ∨ (g.unrec ∧ !g.kind.label) ∨ g.clear ∨ !due g then g
      else { g with area := none, erased := [], whole := false, tagTried := false, unrec := false } }

/-! ### The rebuild pass (R107, R271, R467) -/

/-- The wrap of each gathering in recording order: its header says, and a parity gathering lies where the one before it does. -/
def wrapsOf : List RGath → Nat → List (Nat × RGath)
  | [], _ => []
  | g :: r, w => let x := if g.clear && g.kind != .parity then g.hd 0x2C 2 else w; (x, g) :: wrapsOf r x

/-- A record as a rebuild finds it: one with neither LAST nor INCOMPLETE gets an INCOMPLETE segment (R271)
(DESIGN CHOICE, log 94). -/
def Recall.rebuilt (k : Recall) (lon : Nat) : Rec :=
  let l := k.segs.filter fun x => x.lon == lon
  let tail := l.find? (·.last)
  let inc := l.any (·.inc)
  { Rec.fresh lon 0 0 none none with
    ended := tail.isSome, complete := tail.isSome, last := tail.isSome, incDone := inc, recorded := true
    durable := tail.isSome && !inc, reported := true
    hash := tail.map fun x => (x.data.drop (x.data.length - 64)).take 48
    abandon := if tail.isSome && !inc then none else some .discarded }

/-- The data gathering read as the spine's tables take it. -/
def RGath.asGath (g : RGath) (q : Nat × Nat) : Gath :=
  { Gath.fresh .data g.gnum q.1 q.2 [] with lpos := g.hd 0x30 4, segs := g.segs.map fun x => ⟨x.lon, x.offset, x.data.length, false, x.last, x.inc⟩ }

/-- The quire entries of what was read (Table 2.10). -/
def Recall.quireTable (k : Recall) (v : VolCtx) (l : List (Nat × RGath)) : List QEntry :=
  let d := l.foldl (fun a x => match x.2.kind, x.2.slot with
    | .data, some q => putQuire x.1 (x.2.asGath q) a
    | _, _ => a) []
  d.map fun e => { e with npar := (l.filter fun x => x.2.kind == .parity && (k.slotOf v x.2).any fun q => q.1 == e.quire).length }

/-- The LON ranges that rebuilds have skipped, as a rebuild finds them: the first 2^24 - 1 LONs of every gap that has so many, and those
that it skips itself (R271, R272; DEDUCED, log 152). -/
def Recall.skippedLons (k : Recall) (h : Nat) : List (Nat × Nat) :=
  ((gapsFrom 0 h k.lons).filter fun r => r.1 + 2 ^ 24 - 2 ≤ r.2).map (fun r => (r.1, r.1 + 2 ^ 24 - 2)) ++ [(h, h + 2 ^ 24 - 2)]

/-- The volume's context after the rebuild (R107, R271). -/
def Recall.restore (k : Recall) (v : VolCtx) : VolCtx :=
  let gs := byNumber k.gaths
  let l := wrapsOf gs 0
  let top := match gs.getLast? with | some g => g.gnum | none => 0
  let h := match k.lons.getLast? with | some n => n + 1 | none => 0
  let w := match l.getLast? with | some x => x.1 | none => 0
  let qs := k.quireTable v l
  let cnt := fun (f : RGath → Bool) => (gs.filter f).length
  { v with
    state := .unsealed, gnum := top + 65536, burned := gapsFrom 0 (top + 1) (gs.map (·.gnum)) ++ [(top + 1, top + 65535)]
    lon := h + 2 ^ 24 - 1, lonGaps := k.skippedLons h, recs := k.lons.map k.rebuilt
    q0 := qs.foldl (fun a q => max a (q.quire + 1)) 0, quires := qs
    wrapFirst := (List.range (w + 1)).map fun i => (qs.filter fun q => q.wrap < i).length
    spineDue := (List.range w).filter fun i => !(k.labels .spine).any fun s => beAt s.2 6 2 == i
    copies := cnt fun g => g.kind == .endpaper
    chain := match (gs.filter fun g => g.kind != .parity && g.clear).getLast? with | some g => sha384 (g.area.getD []) | none => []
    ndata := cnt fun g => g.kind == .data, npar := cnt fun g => g.kind == .parity, nlabel := cnt fun g => g.kind.label }

/-- Where the recording of a wrap ends, in cells from its start, and by how much that may be too many: the header of its last gathering
that can be read tells the frame in which that begins, and the row positions read from there on are counted, splice slots and the
band that follows a fourth gathering among them. Where no header can be read the gatherings and their bands are counted (log 63). -/
def Recall.endCell (v : VolCtx) (w n : Nat) (l : List RGath) : Nat × Nat :=
  let frame := max (geoFrame v.geo * 160) 1
  let last := (bySlot l).getLast?
  match (bySlot (l.filter fun g => g.clear && g.kind != .parity)).getLast?, last with
  | some g, some x =>
    let p := g.hd 0x30 4
    let f := if w % 2 = 0 then p - geoFirst v.geo else geoLast v.geo - 1 - p
    ((f + 1) * frame + 5216 * (x.base + 8 - g.base + if n % 4 = 0 then 1 else 0), frame)
  | _, _ => (5216 * layout 0 n, 0)

/-- The write side after the rebuild. A wrap that has no room for another gathering is over, with its last band recorded (R62,
R473). -/
def Recall.restoreWrite (k : Recall) (v : VolCtx) : Write :=
  let l := wrapsOf (byNumber k.gaths) 0
  let w := match l.getLast? with | some x => x.1 | none => 0
  let on := (l.filter fun x => x.1 == w).map (·.2)
  let n := on.length
  let e := if n = 0 then (0, 0) else Recall.endCell v w n on
  let x : Write := { Write.reset with wrap := w, inRun := n, bandsOn := n / 4, bandsPut := l.length / 4, bands := l.length / 4, cellPos := e.1, late := e.2 }
  if n = 0 ∨ x.fits v then x
  else
    let b := if n % 4 = 0 then 0 else 1
    { x with wrapOver := true, bandsOn := x.bandsOn + b, bandsPut := x.bandsPut + b, bands := x.bands + b, cellPos := x.cellPos + 5216 * b }

/-- Gatherings that a rebuild judges again: those of the last 24 slots, and the rest of their groups (R271). -/
def Recall.judged (k : Recall) (v : VolCtx) : List RGath :=
  let top := k.gaths.foldl (fun a g => max a g.ord) 0
  let last := k.gaths.filter fun g => top < g.ord + 24
  last ++ (last.filterMap fun g => (k.slotOf v g).bind fun q => k.groupOf v q.1).flatMap (k.inGroup v)

/-- Whether a gathering judged again is accepted: at most 16 rows of each parity fail (R271). -/
def RGath.acceptable (g : RGath) : Bool :=
  let f := g.failedRows
  (f.filter fun r => r % 2 == 0).length ≤ 16 && (f.filter fun r => r % 2 == 1).length ≤ 16

/-- The spans of the chain that no check could cover are logged for a command, with the gathering numbers on each side (R269; DESIGN
CHOICE, log 150). -/
def State.logSpans (s : State) (st : Stn) (r : CmdRef) : State :=
  match s.cmd? r with
  | none => s
  | some k => ((s.stns[st]).readSide.spans).foldl (fun a x =>
    a.logErr r.port (cmdErr a.micros r.qid k.entry { status := 0, aux0 := x.1, aux1 := x.2 })) s

/-- REBUILD_PASS_DONE's effect: a sealed volume cannot be appended to (R334), and a chain break is reported (R268, R271); otherwise the
context is restored, the MOUNT completes, and a gathering that is not accepted is a write fault. -/
def State.rebuild (s0 : State) (st : Stn) (r : CmdRef) : State :=
  let s := s0.logSpans st r
  let t := s.stns[st]
  match t.ctx with
  | none => s
  | some v0 =>
    let k := t.readSide.trim v0
    if !(k.labels .colophon).isEmpty then s.mountFail st r (.st 5)
    else match k.firstBreak none (k.gaths.foldl (fun a g => max a g.gnum) 0) with
    | some p => s.mountFail st r { status := 7, aux0 := p.1, aux1 := p.2 }
    | none =>
      let v := k.restore v0
      let bad := (k.judged v).any fun g => !g.acceptable
      let s1 := (s.modStn st fun t => { t with ctx := some v, write := k.restoreWrite v }).mounted st r .append v.geo 1 (bytesAt v.endpaper 0 512)
      if bad then s1.writeFault st else s1

/-! ### Creating a volume (R260 to R262, R336) -/

/-- Volumes whose counters wait to be written. -/
def Ledger.creating (l : Ledger) : Nat := (l.writing.filter fun x => match x with | .newVolume _ _ => true | _ => false).length

/-- Why no volume can be created now: no write domain, a prefix counter that is exhausted or will be once the volumes being created
have theirs, a halted DRBG (R260, R262, R263). -/
def State.noVolume (s : State) : Bool :=
  !(s.vault.domains.any (·.write)) || decide (0xFFFFFFFF ≤ s.ledger.npfx.toNat + s.ledger.creating) || s.vault.halted

/-- Steps 1 and 2 of R261 for a volume on a station: its key is drawn and goes into the station's slot, and the counters are to be
written. -/
def State.drawVolume (s : State) (st : Stn) (r : CmdRef) : State :=
  let x := s.drawBytes 32
  { x.2 with vault := { x.2.vault with slots := vmod x.2.vault.slots st fun _ => some x.1 }
             ledger := { x.2.ledger with writing := x.2.ledger.writing ++ [.newVolume st r] } }

/-- Checks 6 to 10 of INIT_VOLUME. -/
def initOwn (c : HostCmd) (s : State) : Option Ending :=
  let e := c.entry
  let t := s.stns[e.st]
  if !s.img.depthOk (e.cd 8 1) ∨ !s.img.parityOk (e.cd 9 1) then some (.st 2)
  else if t.mountCmd.isSome ∨ s.engineHeld e.st ∨ (t.ctx.isSome && t.mount.any fun m => m.mode == .blank) then some (.st 0xE)
  else if !(t.mount.any fun m => m.mode == .blank) then some (.st 5)
  else if s.noVolume then some (.st 0xB) else none

/-- INIT_VOLUME goes on: its key is drawn, and the ledger's counters are to be written (R261 steps 1 and 2). -/
def State.startInit (r : CmdRef) (s : State) : State :=
  match s.cmd? r with
  | none => s
  | some k =>
    if s.noVolume then s.finish r (.st 0xB)
    else ((s.modCmd r fun k => { k with phase := .moving }).modStn k.entry.st fun t => { t with mountCmd := some r }).drawVolume k.entry.st r

/-- A volume is created on a blank mount (R261 steps 3 to 5); its key is in the station's slot, and the counters have been written. -/
def State.makeVolume (s : State) (st : Stn) (r : CmdRef) (depth parity : Nat) (prov srcvol hlabel : List Byte) : State :=
  match s.vault.domains.find? (·.write), (s.stns[st]).mount, s.vault.slots[st] with
  | some d, some m, some key =>
    let volid := beBytes 8 Config.serial.toNat ++ beBytes 8 s.ledger.volCnt.toNat
    let p := endpaperPayload volid m.geo depth parity d.dchash (kwWrap d.key key) s.ledger.npfx prov srcvol s.ledger.lifeG s.ledger.pwrCnt
      s.img.imgVer s.img.secVer hlabel
    let v := { VolCtx.ofEndpaper p .unsealed with endpaper := p, wrapFirst := [0], initCmd := some r }
    let s1 := s.modStn st fun t => { t with ctx := some v, write := Write.reset }
    ((s1.aim st 0 0).composeEndpaper st).composeEndpaper st
  | _, _, _ => s

/-! ### UNMOUNT (R335) -/

/-- Checks 6 to 10 of UNMOUNT: no other command of the station is outstanding. -/
def unmountOwn (c : HostCmd) (s : State) : Option Ending :=
  if (s.cmdsOf c.entry.st).isEmpty then none else some (.st 0xE)

/-- UNMOUNT goes on: the work of a FLUSH where accepted data is not durable, then the station opens. -/
def State.startUnmount (r : CmdRef) (s : State) : State :=
  match s.cmd? r with
  | none => s
  | some k =>
    let st := k.entry.st
    let s1 := s.modStn st fun t => { t with mountCmd := some r, ctx := t.ctx.map VolCtx.report }
    match (s1.stns[st]).ctx with
    | some v =>
      let cover := v.coverAll
      let lost := lostIn v cover
      if v.owes cover && !v.closureBad && !v.lost then (s1.modCmd r fun k => { k with phase := .flushing }).addFlush st (.unmount r) cover
      else (s1.modCmd r fun k => { k with
        phase := .opening, status := if v.closureBad then 0xC else if lost.isEmpty then 0 else 0x10, lon := lost.headD 0 }).openStation st
    | none => (s1.modCmd r fun k => { k with phase := .opening }).openStation st

end Sys2Proof.Machine
end

