-- ==== Sys2Proof/Machine/MigrateOps.lean ====
section
/-!
DEFINITION. Through working (08, R276 to R282, Tables 8.7 to 8.9): how a job starts, stops, hands a record over and finishes.
-/
namespace Sys2Proof.Machine

/-! ### Fields and conditions -/

/-- DSTN, DMNT and SKIPLON (Table 10.5). -/
def migDst (e : Entry) : Stn := stnOf (e.cd 0 1)
def migMnt (e : Entry) : BitVec 32 := BitVec.ofNat 32 (e.cd 4 4)
def migSkip (e : Entry) : Nat := e.cd 8 8

/-- The stopped job of a pair of stations. -/
def State.stoppedMig (s : State) (src dst : Stn) : Option MigJob := s.migs.find? fun j => j.stopped && j.src == src && j.dst == dst

/-- The conditions of R276 and R281 on the two volumes. -/
def migFits (e : Entry) (s : State) : Bool :=
  let a := s.stns[e.st]
  let b := s.stns[migDst e]
  a.mount.any (fun m => m.mode == .read) && b.mount.any (fun m => m.num == migMnt e)
    && a.ctx.any (fun v => (v.state != .faultSealed || e.flag 1) && (v.state != .unsealed || e.flag 0))
    && (if e.flag 2 then
          (match s.stoppedMig e.st (migDst e) with
            | some j => (!e.flag 3 || (j.failLon == some (migSkip e) && j.check != 0))
            | none => false)
            && b.mount.any (fun m => m.mode != .read) && b.ctx.all fun v => v.state == .unsealed && !v.sealing && !v.faulted && !v.lost
        else b.mount.any (fun m => m.mode == .blank) && b.ctx.isNone)

/-- Checks 6 to 10 of MIGRATE: fields (Table 10.5), the destination's state as checks 4 and 5 ask of a station, R276 and R281, and a
device that can create and sign (R260, R262, R263) (DEDUCED, log 85). -/
def migOwn (c : HostCmd) (s : State) : Option Ending :=
  let e := c.entry
  let d := migDst e
  if e.cd 0 1 > 7 ∨ d = e.st ∨ (e.flag 3 && !e.flag 2) ∨ (migSkip e ≠ 0 && !e.flag 3) then some (.st 2)
  else if (s.stns[d]).stabled ∨ (s.stns[d]).inReset ∨ s.migrating d ∨ (s.stns[d]).mountCmd.isSome then some (.st 0xE)
  else if (s.stns[d]).inFault ∨ s.linkLost d ∨ (s.dies[dieOf d]).fault ∨ s.ucieDown && d.val ≥ 4 then some (.st 0xC)
  else if !migFits e s then some (.st 2)
  else if s.vault.halted ∨ ((s.stns[d]).ctx.isNone && s.noVolume) then some (.st 0xB) else none

/-! ### Jobs -/

/-- The running job that reads a station. -/
def State.migOf (s : State) (src : Stn) : Option MigJob := s.migs.find? fun j => !j.stopped && j.src == src

/-- A running job changed by `f`. -/
def State.modMig (s : State) (src : Stn) (f : MigJob → MigJob) : State :=
  { s with migs := modFirst (fun j => !j.stopped && j.src == src) f s.migs }

/-- Reading of the source starts over from a wrap, 2 m before a place on it where one is given (R281); `seen` is known already. -/
def State.migRead (s : State) (src : Stn) (wrap : Nat) (seen : List RGath) (place : Option Nat) : State :=
  (s.modStn src fun t => { t with readSide := { Recall.reset with
    wrap := wrap, gaths := seen, moved := !seen.isEmpty, colophon := t.readSide.colophon, seekTo := place
    highG := seen.foldl (fun a g => max a g.gnum) 0 } }).wantTape src |>.serveSeek src

/-- A job stops at a failure (R280), with what its completion and its log entry are to tell. -/
def State.migStop (s : State) (j : MigJob) (status check : Nat) (lon : Option Nat) (resume : Nat) (around : Nat × Nat) : State :=
  let k := (s.stns[j.src]).readSide
  let c := lon.map k.check
  let j1 : MigJob := { j with status := BitVec.ofNat 8 status, failLon := lon, check := check, resume := resume, around := around
                              outcome := if check = 4 ∨ check = 5 then (c.map Checked.outcome).getD 0 else 0
                              hash := (c.map Checked.hash).getD [] }
  s.migHalt j1

/-- Whether a LON is on the destination already. -/
def State.migHas (s : State) (j : MigJob) (lon : Nat) : Bool := (s.stns[j.dst]).ctx.any fun v => (v.rec? lon).isSome

/-- Phase 2 (Table 8.7): the key of the new volume is drawn and its counters are written first (R261), where a volume can be created
(R260, R262, R263). -/
def State.migCreate (s : State) (j : MigJob) : State :=
  match j.cmd with
  | none => s
  | some r =>
    if s.noVolume then s.migStop j 0xB 0 none 0 (0, 0)
    else
      let s1 := (s.modMig j.src fun x => { x with phase := 2 }).modStn j.src fun t => { t with readSide := { t.readSide.done with wrap := 0 } }
      (s1.controlledStop j.src).drawVolume j.dst r

/-- Unrecovered gatherings of the source that may hold a segment of a record not yet handed over (R280). -/
def State.migLost (s : State) (j : MigJob) (l : List RGath) : List RGath :=
  byNumber (l.filter fun g => g.kind == .data && g.unrec
    && !(headerOk (g.area.getD []) && (List.range (min 120 (g.hd 0x2E 2))).all fun i => s.migHas j (g.hd (0x100 + 24 * i) 8)))

/-- A number moved past the ranges, in rising order, that hold it. -/
def pastRanges (l : List (Nat × Nat)) (n : Nat) : Nat := l.foldl (fun a r => if r.1 ≤ a ∧ a ≤ r.2 then r.2 + 1 else a) n

/-- The lowest LON that the source may have, and the destination does not, of which no segment has been found: no gap of the source's
colophon, and below its NREC, or below the highest LON found where there is no colophon. -/
def State.migMissing (s : State) (j : MigJob) : Option Nat :=
  let k := (s.stns[j.src]).readSide
  let c := k.colophon
  let n := if c.isEmpty then (match k.lons.getLast? with | some x => x + 1 | none => 0) else beAt c 0x78 8
  let gone := gapsFrom 0 n (sortBy (· ≤ ·) (k.lons ++ (match (s.stns[j.dst]).ctx with | some v => v.recs.map (·.lon) | none => [])))
  (gone.filterMap fun r => if pastRanges (colLgaps c) r.1 ≤ r.2 then some (pastRanges (colLgaps c) r.1) else none).head?

/-- The resume point: the lowest number of a gathering that holds, or may hold, a segment of a record not yet handed over (R280). -/
def State.migFrom (s : State) (j : MigJob) (l : List RGath) : Option Nat :=
  match (((byNumber l).flatMap RGath.segs).filter fun x => !s.migHas j x.lon).map (·.gnum) ++ (s.migLost j l).map (·.gnum) with
  | [] => none
  | a :: r => some (r.foldl min a)

/-- The resume point as a stop reports it; 0 where nothing read is left to hand over. -/
def State.migResume (s : State) (j : MigJob) : Nat := (s.migFrom j (s.stns[j.src]).readSide.gaths).getD 0

/-- A record put among a volume's records, by LON. -/
def insertRec (x : Rec) : List Rec → List Rec
  | [] => [x]
  | r :: rest => if x.lon < r.lon then x :: r :: rest else r :: insertRec x rest

/-- A record as it arrives on the destination: complete, with the recomputed hash, or abandoned, to be recorded with one INCOMPLETE
segment (R278, R279). -/
def migRec (r : CmdRef) (lon : Nat) (data : Option (List Byte)) : Rec :=
  let x := { Rec.fresh lon r.port r.qid none none with ended := true, anyDone := true }
  match data with
  | some b => { x with taken := b.length, accepted := b.length, written := b.length, input := b, complete := true, hash := some (sha384 b) }
  | none => { x with abandon := some .discarded }

/-- A record is handed over: compression on the destination's die takes it up. -/
def State.migGive (s : State) (j : MigJob) (lon : Nat) (data : Option (List Byte)) : State :=
  match j.cmd with
  | none => s
  | some r =>
    let s1 := s.modStn j.dst fun t => t.modCtx fun v => { v with recs := insertRec (migRec r lon data) v.recs, lon := max v.lon (lon + 1) }
    let s2 := if data.isSome then s1.addJob (dieOf j.dst) rComp (s1.compressJob j.dst lon) else s1
    s2.settle j.dst

/-! ### MIGRATE -/

/-- A new job: phase 1 looks for a source colophon; an unsealed source has none (Table 8.7). -/
def State.migBegin (s : State) (r : CmdRef) (e : Entry) (v : VolCtx) : State :=
  let j : MigJob := { cmd := some r, src := e.st, dst := migDst e, phase := 1, skip := none, skipped := [], seen := [],
                      unsealed := e.flag 0, status := 0, failLon := none, check := 0, resume := 0, around := (0, 0), outcome := 0, hash := []
                      stopped := false }
  let s1 := { s with migs := s.migs.filter (fun (x : MigJob) => !(x.src == j.src || x.dst == j.dst)) ++ [j] }
  if v.state = .unsealed then s1.migCreate j else s1.migRead j.src 0 [] none

/-- Records of the destination that a DISCARD_STABLED has made incomplete since they were handed over, and which no RESUME has
reported yet (Table 8.9). -/
def State.migDropped (s : State) (j : MigJob) : List Nat :=
  match (s.stns[j.dst]).ctx with
  | some v => (v.recs.filter fun r => r.abandon == some .discarded && r.hash.isSome && !j.skipped.contains r.lon).map (·.lon)
  | none => []

/-- A stopped job goes on (R281): 2 m before the resume point, on its wrap; what lies below is known. A skipped record is recorded as
incomplete; it is logged with the status and the check of the stop, and so are records that a DISCARD_STABLED has dropped. A job that
had no destination volume yet begins again (DEDUCED, log 86). -/
def State.migGoOn (s : State) (r : CmdRef) (k : Cmd) (j : MigJob) : State :=
  let e := k.entry
  let j1 : MigJob := { j with cmd := some r, stopped := false, status := 0, check := 0, failLon := none, around := (0, 0), outcome := 0, hash := []
                              unsealed := e.flag 0, skip := if e.flag 3 then some (migSkip e) else none
                              skipped := j.skipped ++ s.migDropped j ++ if e.flag 3 then [migSkip e] else [] }
  let note := fun (a : State) (lon : Nat) =>
    a.logErr r.port (cmdErr a.micros r.qid e { status := j.status.toNat, reason := j.check, lon := lon })
  let put := fun (p : Nat) => { s with migs := s.migs.map fun (x : MigJob) => if x = j then { j1 with phase := p } else x }
  match (s.stns[j.dst]).mount, (s.stns[j.dst]).ctx with
  | some m, some _ =>
    if m.mode = .blank then ((put 2).modStn j.dst fun t => t.modCtx fun v => { v with initCmd := some r }).settle j.dst
    else
      let resume := s.migFrom j j.seen
      let known := j.seen.filter fun g => resume.all (g.gnum < ·) && !g.undecided
      let from_ := match resume with
        | some n => (byNumber (j.seen.filter fun g => n ≤ g.gnum)).head?
        | none => (byNumber j.seen).getLast?
      let wrap := match from_, (wrapsOf (byNumber known) 0).getLast? with
        | some g, _ => g.wrap
        | none, some x => x.1
        | none, none => 0
      let s1 := (s.migDropped j).foldl note (put 3)
      let s2 := if e.flag 3 then (note s1 (migSkip e)).migGive j1 (migSkip e) none else s1
      s2.migRead j.src wrap known (from_.map (·.lpos))
  | _, _ => match (s.stns[j.src]).ctx with
    | some v =>
      let s1 := put 1
      if v.state = .unsealed then s1.migCreate j1 else s1.migRead j.src 0 [] none
    | none => s

/-- MIGRATE goes on after its checks. -/
def State.startMigrate (r : CmdRef) (s : State) : State :=
  match s.cmd? r with
  | none => s
  | some k =>
    let e := k.entry
    let s1 := s.modCmd r fun k => { k with phase := .moving }
    match (s.stns[e.st]).ctx, s.stoppedMig e.st (migDst e) with
    | some v, j => if e.flag 2 then (match j with | some x => s1.migGoOn r k x | none => s1) else s1.migBegin r e v
    | none, _ => s1.finish r (.st 0xC)

/-! ### Preflight and finish -/

/-- The first and last of some gathering numbers. -/
def firstLast (l : List Nat) : Nat × Nat := (l.foldl min (l.headD 0), l.foldl max 0)

/-- Checks of Table 8.8 on a record, in order: status, check number and the gatherings concerned of the first that fails. A record that
is carried as incomplete has no trailer lengths and no hash to compare (check 6). -/
def Recall.inFlight (k : Recall) (lon : Nat) (sealed : Bool) : Option (Nat × Nat × (Nat × Nat)) :=
  let f := k.found lon
  let c := k.check lon
  let top := f.gaths.foldl max 0
  let gaps := if sealed then some (colGgaps k.colophon) else none
  let own := firstLast f.gaths
  if c.lost then some (6, 1, firstLast ((k.gaths.filter fun g => g.kind == .data && g.unrec && g.mayHold lon).map (·.gnum)))
  else match k.firstBreak gaps top with
    | some p => some (7, 2, p)
    | none =>
      if c.poison then some (8, 3, own)
      else if c.reason ≠ 0 then some (9, 4, own)
      else if f.inc || !f.last then none
      else if !c.lens then some (9, 5, own)
      else if !c.sha then some (7, 7, own) else none

/-- The destination's root as it will be signed (R270, R278). -/
def migRoot (v : VolCtx) (nrec : Nat) : List Byte :=
  merkleRoot 64 ((List.range nrec).map fun lon =>
    let st : List Byte × List Byte := match v.rec? lon with
      | some r => if r.abandon.isNone then ([0], r.hash.getD (zeros 48)) else ([1], zeros 48)
      | none => ([2], zeros 48)
    sha384 ([0] ++ beBytes 8 lon ++ st.1 ++ st.2))

/-- The gathering numbers that are known to be burned: those of a colophon read. -/
def Recall.knownGaps (k : Recall) : Option (List (Nat × Nat)) := if k.colophon.isEmpty then none else some (colGgaps k.colophon)

/-- The serial of the device that sealed a volume, where it is another than the one that its VOLID names, is logged for the command that
checks the colophon (R275; DESIGN CHOICE, log 153). -/
def State.logSealer (s : State) (st : Stn) (r : CmdRef) : State :=
  let c := (s.stns[st]).readSide.colophon
  match s.cmd? r, (s.stns[st]).ctx, sealingSerial (bytesAt c (colCc c + 4) (beAt c (colCc c) 4)) with
  | some k, some v, some n => if c.isEmpty ∨ n = beAt v.volid 0 8 then s
    else s.logErr r.port (cmdErr s.micros r.qid k.entry { status := 0, aux0 := n })
  | _, _, _ => s

/-- Phase 4: the chain past the last record (R268), and then check 6 of R274 with the equality of R278, then NREC and a SEAL of the destination (Table 8.7)
(DEDUCED, log 87). -/
def State.migFinish (s : State) (j : MigJob) : State :=
  match (s.stns[j.src]).ctx, (s.stns[j.dst]).ctx, j.cmd with
  | some a, some b, some r =>
    let s := s.logSpans j.src r
    let k := (s.stns[j.src]).readSide
    let isSealed := a.state != .unsealed && !k.colophon.isEmpty
    let nrec := if isSealed then beAt k.colophon 0x78 8 else b.lon
    match k.firstBreak k.knownGaps (k.gaths.foldl (fun a g => max a g.gnum) 0) with
    | some p => s.migStop j 7 2 none (s.migResume j) p
    | none =>
    if isSealed && !(k.colSix k.colophon && (!j.skipped.isEmpty || migRoot b nrec == bytesAt k.colophon 0x48 48)) then
      s.migStop j 7 6 none 0 (0, 0)
    else
      let s1 := ((s.modMig j.src fun x => { x with phase := 4 }).endReading j.src).modStn j.dst fun t => t.modCtx fun v =>
        { v with lon := nrec, sealing := true, closing := .flushing }
      match (s1.stns[j.dst]).ctx with
      | some v => s1.addFlush j.dst (.seal r) v.coverAll
      | none => s1
  | _, _, _ => s

/-- A record of which nothing was found may lie in a gathering that stays unrecovered: the job stops at it with check 1 (R101, R279). -/
def State.migGone (s : State) (j : MigJob) : Option State :=
  match s.migMissing j, s.migLost j (s.stns[j.src]).readSide.gaths with
  | some lon, g :: l => some (s.migStop j 6 1 (some lon) (s.migResume j) (firstLast ((g :: l).map (·.gnum))))
  | _, _ => none

/-- The source has been read through, or the phase can go on: phase 1 without a colophon goes on only under UNSEALED; one whose lengths
contradict each other fails check 1 of Table 8.5. -/
def State.migOver (s : State) (src : Stn) : State :=
  match s.migOf src with
  | none => s
  | some j =>
    let k := (s.stns[src]).readSide
    if j.phase = 1 then
      (if (k.labels .colophon).any fun x => colTorn x.2 then s.migStop j 7 1 none 0 (0, 0)
       else if j.unsealed then s.migCreate j else s.migStop j 6 0 none 0 (0, 0))
    else if j.phase = 3 && k.lons.all (s.migHas j) then (match s.migGone j with | some s1 => s1 | none => s.migFinish j) else s

/-- A colophon copy has been read: in phase 1 checks 1 to 5 decide (Table 8.7). -/
def State.migColophon (s : State) (src : Stn) : State :=
  match s.migOf src, (s.stns[src]).ctx with
  | some j, some v =>
    if j.phase ≠ 1 then s
    else match colCheck v (s.stns[src]).readSide.colophon with
      | some n => s.migStop j 7 n none 0 (0, 0)
      | none => (match j.cmd with | some r => s.logSealer src r | none => s).migCreate j
  | _, _ => s

/-- RECORD_HANDOVER (R279): a record of which all has been read, and which the lanes have decoded, is checked and handed over, or
the job stops at it. -/
def State.handover (s : State) (src : Stn) (lon : Nat) : State :=
  match s.migOf src, (s.stns[src]).ctx with
  | some j, some v =>
    let k := (s.stns[src]).readSide
    let f := k.found lon
    if j.phase ≠ 3 ∨ f.gaths.isEmpty ∨ s.migHas j lon ∨ !k.settled lon ∨ !(f.inc && f.stored.isEmpty || k.decoded.contains lon) then s
    else match k.inFlight lon (v.state != .unsealed && !k.colophon.isEmpty) with
      | some (status, check, around) => s.migStop j status check (some lon) (s.migResume j) around
      | none => s.migGive j lon (if f.inc || !f.last then none else some (k.check lon).data)
  | _, _ => s

end Sys2Proof.Machine
end

