-- ==== Sys2Proof/Machine/Recall.lean ====
section
/-!
DEFINITION. Recall (06, R208 to R210; 05, R166; 10, R331, R332): how readers go on with what has been read, and the rows that decode
gatherings, quires and records.
-/
namespace Sys2Proof.Machine

/-! ### Readers -/

/-- LONs that a VERIFY of the whole volume has: all of NREC, or all up to the highest read once the recording is over. -/
def Station.allTotal (t : Station) : Option Nat :=
  match t.nrec with
  | some n => some n
  | none => if t.readSide.exhausted then some (match t.readSide.lons.getLast? with | some n => n + 1 | none => 0) else none

/-- The LON that a reader wants next. A VERIFY of a range waits until NREC is known: before that no record of it is checked (R332). -/
def Station.wants (t : Station) (k : Cmd) : Option Nat :=
  match k.entry.opc.toNat with
  | 2 => some (k.entry.cd 0 8)
  | 6 => if (if k.entry.flag 0 then t.allTotal.all (k.got < ·) else t.allTotal.isSome && decide (k.got < k.count)) then some (k.first + k.got) else none
  | _ => none

/-- LONs wanted now: by readers, and by a MIGRATE every complete record that it has not been given. -/
def State.wanted (s : State) (st : Stn) : List Nat :=
  let t := s.stns[st]
  let k := t.readSide
  let rd := (s.readersOf st).filterMap fun c => t.wants c.2
  let mg := match s.migOf st with
    | some j => if j.phase = 3 then k.lons.filter fun n => !s.migHas j n && !((k.found n).inc && (k.found n).stored.isEmpty) && !k.decoded.contains n else []
    | none => []
  rd ++ mg

/-- Whether a record can be judged now. Where a reader came while the tape was running, the end of the recording settles nothing for
it: the tape is read again (R346). -/
def Station.canJudge (t : Station) (lon : Nat) : Bool :=
  let k := t.readSide
  if k.exhausted && t.speed.wantSeek then (let f := k.found lon; f.last || f.inc || f.beyond.any k.lostBelow) else k.settled lon

/-- A READ gets its record: bytes from ROFS on as far as its buffer and the checks let them, and its verdict (R166, Table 10.6). -/
def State.giveRead (s : State) (r : CmdRef) (k : Cmd) (c : Checked) : State :=
  let f := c.ending
  let b := (c.data.drop (k.entry.cd 8 8)).take k.entry.dlen.toNat
  let s1 := s.sendData r.port k.entry k.sgl 0 b
  let e : Ending := { status := f.1, reason := f.2, result := b.length, lon := k.entry.cd 0 8, aux0 := c.data.length, aux1 := c.outcome, aux2 := c.hash.take 16 }
  if f.1 = 0 then s1.finishWith r e (leBytes 8 c.data.length ++ padTo 48 c.hash ++ zeros 8) else s1.finish r e

/-- VERIFYs whose range turns out to go beyond the LONs of the volume end before any record of theirs is checked (R332). -/
def State.verifyBounds (s : State) (st : Stn) : State :=
  match (s.stns[st]).allTotal with
  | none => s
  | some n => ((s.readersOf st).filter fun x => x.2.entry.opc == 6 && !x.2.entry.flag 0 && x.2.got == 0 && n < x.2.entry.cd 0 8 + x.2.entry.cd 8 8).foldl
      (fun a x => a.finish x.1 (.st 2)) s

/-- Every READ and VERIFY that wants a record gets its verdict. -/
def State.readDone (s : State) (st : Stn) (lon : Nat) : State :=
  let t := s.stns[st]
  let c := t.readSide.check lon
  let f := c.ending
  (((s.readersOf st).filter fun x => t.wants x.2 == some lon).foldl (fun a x =>
    if x.2.entry.opc = 2 then a.giveRead x.1 x.2 c
    else (a.verifyRec x.1 lon { status := f.1, reason := f.2, lon := lon, aux0 := c.data.length, aux1 := c.outcome } c.hash).verifyNext x.1 (x.2.count - x.2.got)) s).endReading st

/-- The first check of Table 8.5 that the colophon of a volume that has been read through fails; a colophon of which no copy is whole
fails check 1. -/
def Recall.colBad (k : Recall) (v : VolCtx) : Option Nat :=
  if k.colophon.isEmpty then (if (k.labels .colophon).isEmpty then none else some 1)
  else match colCheck v k.colophon with
    | some n => some n
    | none => if k.colSix k.colophon then none else some 6

/-- A VERIFY of the whole volume ends: the chain (R268), then the colophon where the volume has one (R274). The status is that of the
first failing record, or else 0x07 for these; each failure that does not give the status is logged beside it. -/
def State.endVerifyAll (s0 : State) (st : Stn) (r : CmdRef) (c : Cmd) : State :=
  let s := (s0.logSpans st r).logSealer st r
  let t := s.stns[st]
  let k := t.readSide
  match t.ctx with
  | none => s
  | some v =>
    let gaps := if t.mount.any fun m => m.mode == .append then some v.burned else k.knownGaps
    let rec_ := if c.status ≠ 0 then [c.verdict] else []
    let brk := match k.firstBreak gaps (k.gaths.foldl (fun a g => max a g.gnum) 0) with
      | some p => [({ status := 7, result := c.okCnt, aux0 := p.1, aux1 := p.2 } : Ending)]
      | none => []
    let col := match k.colBad v with
      | some n => [({ status := 7, result := c.okCnt, reason := n } : Ending)]
      | none => []
    let buf := leBytes 8 c.got ++ leBytes 8 (min c.got (c.entry.dlen.toNat / 64))
    match rec_ ++ brk ++ col with
    | [] => s.finishWith r (.ok c.okCnt) buf
    | e :: l => (l.foldl (fun a x => a.logErr r.port (cmdErr a.micros r.qid c.entry x)) s).finishWith r e buf

/-- The recording has been read to its end and everything of it is decided: VERIFYs of the whole volume end, a MIGRATE goes on, and
readers that came late have the tape read again. -/
def State.readEnd (s : State) (st : Stn) : State :=
  let all := (s.readersOf st).filter fun x => x.2.entry.opc == 6 && x.2.entry.flag 0
  let t := s.stns[st]
  if t.speed.wantSeek then
    ((s.modStn st fun t => { t with readSide := t.readSide.done }).controlledStop st).serveSeek st
  else (all.foldl (fun a x => a.endVerifyAll st x.1 x.2) s).migOver st |>.endReading st

/-- Readers go on as far as they can: a wanted record without any segment has its verdict at once; for the others a decompression
job and one for the fixity check wait, on the station's die (R18, R21). `n` bounds the verdicts. -/
def State.readGo (s : State) (st : Stn) : Nat → State
  | 0 => s
  | n + 1 =>
    let t := s.stns[st]
    if !t.readSide.active then s
    else
      let w := (s.wanted st).filter t.canJudge
      match w.find? fun lon => (t.readSide.found lon).gaths.isEmpty with
      | some lon => (s.readDone st lon).readGo st n
      | none =>
        let s1 := w.foldl (fun a lon => (a.addJob (dieOf st) rDecomp (Job.fresh (.decompress st lon) st a.clock)).addJob (dieOf st) rHash
          (Job.fresh (.fixity st lon) st a.clock)) s
        if w.isEmpty && t.readSide.exhausted then s1.readEnd st else s1

/-- A bound on the verdicts that can follow. -/
def State.readFuel (s : State) (st : Stn) : Nat :=
  (s.readersOf st).foldl (fun a x => a + x.2.count + 1) ((s.stns[st]).allTotal.getD 0 + 1)

/-- What has been read is brought up to date: it ends with the recording, and the gatherings of a group that is over, of which nothing
was read, enter as erased (R100, R467). -/
def Station.settleRead (t : Station) : Station :=
  match t.ctx with
  | none => t
  | some v => if t.readSide.reread then t else t.modRecall fun k =>
    let a := k.trim v
    a.filled v fun x => a.groupOver v x t.link.rxOrd

/-- Readers go on. -/
def State.readOn (s : State) (st : Stn) : State :=
  let s1 := (s.modStn st Station.settleRead).verifyBounds st
  s1.readGo st (s1.readFuel st)

/-! ### The MOUNT that reads -/

/-- The MOUNT in progress on a station, in a phase. -/
def State.mountIn (s : State) (st : Stn) (ph : Phase) : Option (CmdRef × Cmd) :=
  (s.stns[st]).mountCmd.bind fun r => (s.cmd? r).bind fun k => if k.phase = ph ∧ k.entry.opc = 0x85 then some (r, k) else none

/-! ### GATHERING_DECODE (R97 to R100) -/

/-- Rows of a gathering counted on their tracks. -/
def State.countRows (s : State) (st : Stn) (g : RGath) (rows : List Nat) (kinds : List Nat) : State :=
  rows.foldl (fun a r => a.count st (trackOf g.gnum r) kinds) s

/-- Whether C2 has recovered the rows of the parity of row r of a gathering decoded: none of their bytes is erased (R87, R99). -/
def RGath.parityWhole (g : RGath) (r : Nat) : Bool := g.area.isSome && g.erased.all fun b => b / 580 % 2 != r % 2

/-- Rows that failed are counted on their tracks as tried at rung 4, and as rescued where C2 has recovered their parity; C1
miscorrections have a count of their own, which no monitor source shows (R98, R212). -/
def State.countC2 (s : State) (st : Stn) (g : RGath) : State :=
  let s1 := (s.countRows st g g.failedRows [16]).countRows st g (g.failedRows.filter g.parityWhole) [4]
  (List.range g.miscorrected).foldl (fun a _ => a.count st 0xFF [18]) s1

/-- A gathering whose header has passed: it belongs to the volume or ends the recording (R467), takes its full number, and goes to
the crypto region, or to the MOUNT that looks for an endpaper. -/
def State.headerRead (s : State) (st : Stn) (g : RGath) : State :=
  let t := s.stns[st]
  match s.mountIn st .readEndpaper with
  | some (r, k) => if g.headed.kind = .endpaper then s.endpaperFound st r k g.headed else s
  | none =>
    if t.ctx.any fun v => bytesAt (g.area.getD []) 8 16 != padTo 16 v.volid then s.readOver st g.ord g.base
    else
      let n := if g.hd 0x18 8 % 2 ^ 18 = g.gnum % 2 ^ 18 then g.hd 0x18 8 else g.gnum
      let s1 := s.modStn st fun t => t.modRecall fun k => (k.modGath g.gnum fun _ => g.headed).renumber g.gnum n
      s1.addJob (dieOf st) rCrypto (Job.fresh (.decrypt st n) st s.clock)

/-- C2 on one gathering, and the checks that follow it. -/
def State.decodeGath (s : State) (st : Stn) (g : RGath) : State :=
  let a := g.afterC2
  let g1 := { g with area := some a.1, erased := a.2 }
  let s1 := (s.modStn st fun t => t.modRecall fun k => k.modGath g.gnum fun _ => g1).countC2 st g1
  let bad := s1.modStn st fun t => t.modRecall fun k => k.modGath g.gnum fun x => if x.kind.label then { x with unrec := true } else { x with whole := a.2.isEmpty }
  if g.kind = .parity then s1
  else if a.2.isEmpty && headerOk a.1 then s1.headerRead st g1
  else bad

/-- Whether everything has been read that C2 on a gathering waits for: the fourth rewrite band after it, or the end of the tape's
motion or of the recording, and no row waits for the retry decoder (R97, R207). -/
def Station.gathDue (t : Station) (g : RGath) : Bool :=
  (t.bandsRead g.band || t.servo.motion != .moving || t.readSide.ended) && t.link.retry.all (·.verify)

/-- GATHERING_DECODE: due once the fourth rewrite band after the gathering has been read, or the tape has left the wrap. -/
def execGatheringDecode (st : Stn) (gnum : Nat) (s : State) : Host.Outcome State Fault Refusal :=
  let t := s.stns[st]
  .next (match t.readSide.gath? gnum with
    | none => s
    | some g =>
      if !t.readSide.active ∨ g.area.isSome ∨ g.whole ∨ g.unrec ∨ !t.gathDue g then s
      else (s.decodeGath st g).readOn st)

/-! ### QUIRE_DECODE and rung 3 (R101, R209, R210) -/

/-- Whether C3 has not recovered a data gathering: bytes of it are erased (R101). -/
def RGath.erasedStill (g : RGath) : Bool := g.kind == .data && g.plain.isNone && !g.unrec && (g.whole || !g.erased.isEmpty)

/-- Rung 3 for gatherings that stay unrecovered after C3: the tape runs back to 2 m before the first of them, and they are read again
with the lateral set-point moved by a quarter of the track pitch, the lower side first; after REREAD_MAX passes they are
unrecovered for good (R208 to R210). -/
def State.rung3 (s : State) (st : Stn) (l : List Nat) : State :=
  let t := s.stns[st]
  let k := t.readSide
  if l.isEmpty ∨ k.reread then s
  else if k.pass < s.img.rereadMax then
    let q : Int := match t.ctx with | some v => geoPitch v.geo / 4 | none => 0
    let step := min t.servo.setStep s.img.rereadStep
    let first := (bySlot (k.gaths.filter fun g => l.contains g.gnum)).head?
    let wrap := (first.map (·.wrap)).getD k.wrap
    let rev := wrap % 2 == 1
    let at_ := (first.map (·.lpos)).getD 0
    ((s.aim st wrap (if k.pass % 2 = 0 then -q else q)).runBack st ⟨lposBefore rev at_ 20000, rev, .locate, ladder step⟩).modStn st fun t => { t with
      servo := { t.servo with setStep := step }
      link := t.link.startReading s.img
      readSide := { t.readSide with reread := true, moved := true, failed := l, wrap := wrap } }
  else
    (s.modStn st fun t => t.modRecall fun k => { k with
      pass := 0, failed := [], gaths := k.gaths.map fun g => if l.contains g.gnum then { g with unrec := true } else g }).readOn st

/-- The ladder goes on for the group of a quire once all of it has been through C3 and the tag check: what is left erased climbs to
rung 3; where nothing is, the passes for it are over (R209, R210). -/
def State.climb (s : State) (st : Stn) (v : VolCtx) (quire : Nat) : State :=
  let k := (s.stns[st]).readSide
  match k.groupOf v quire with
  | none => s
  | some x =>
    let l := (k.inGroup v x).filter fun g => g.kind == .data && g.plain.isNone && !g.unrec
    let waits := fun (g : RGath) => !g.erasedStill || !((k.slotOf v g).any fun q => k.c3Done.contains q.1)
    if l.any waits then s
    else if l.isEmpty then (if k.reread ∨ !(k.failed.any fun n => (k.inGroup v x).any fun g => g.gnum == n) then s
      else s.modStn st fun t => t.modRecall fun k => { k with pass := 0, failed := [] })
    else s.rung3 st (l.map (·.gnum))

/-- The data gatherings of a quire that are not whole yet, after C3 and with their headers checked again (R100, R101). -/
def Recall.mended (k : Recall) (v : VolCtx) (quire : Nat) : List RGath :=
  let m := k.members v quire
  let out := c3Quire v.parity (k.dataOf v quire) m
  m.filterMap fun x => if x.2.erasedStill then some ((x.2.afterC3 (out.getD x.1 [])).recheck) else none

/-- C3 on a quire: what it recovers is checked again, and decrypted; the rest climbs to rung 3. -/
def State.decodeQuire (s : State) (st : Stn) (v : VolCtx) (quire : Nat) : State :=
  let k := (s.stns[st]).readSide.addMissing v quire
  let fixed := k.mended v quire
  let s1 := s.modStn st fun t => { t with
    readSide := { (fixed.foldl (fun a g => a.modGath g.gnum fun _ => g) k) with c3Done := quire :: k.c3Done.filter (· != quire) } }
  let s2 := fixed.foldl (fun a g =>
    let rows := match k.gath? g.gnum with | some o => g.failedRows.filter fun r => !o.parityWhole r | none => []
    let b := a.countRows st g rows (17 :: if g.clear then [5] else [])
    if g.clear then b.addJob (dieOf st) rCrypto (Job.fresh (.decrypt st g.gnum) st b.clock) else b) s1
  s2.climb st v quire

/-- Whether C3 on a quire is due: its group has been read to its end, and every member read has been through C2 (R97, R101, R209). -/
def Station.quireDue (t : Station) (v : VolCtx) (quire : Nat) : Bool :=
  let k := t.readSide
  k.active && !k.reread && ((k.groupOf v quire).any fun x => k.groupOver v x t.link.rxOrd)
    && (k.members v quire).all fun x => x.2.area.isSome || x.2.whole

/-- QUIRE_DECODE: every member read has been through C2. -/
def execQuireDecode (st : Stn) (quire : Nat) (s : State) : Host.Outcome State Fault Refusal :=
  let t := s.stns[st]
  .next (match t.ctx with
    | none => s
    | some v => if t.quireDue v quire then (s.decodeQuire st v quire).readOn st else s)

/-- Whether a rung 3 pass has read through the fourth rewrite band after the last gathering it is for, or the tape has stopped
(R209). The pass has come there once it has read that gathering or one behind it. -/
def Station.passRead (t : Station) : Bool :=
  let k := t.readSide
  t.servo.motion != .moving || (t.servo.back.isNone && k.gaths.any (fun g => g.pass == k.passNow && k.failed.all (· ≤ g.gnum))
    && t.bandsRead ((k.failed.map k.bandBase).foldl max 0))

/-- REREAD_PASS_DONE: rows are merged, and what was not recovered is decoded again (R210); the reading goes on, unless it had come to
the end of the recording. A MOUNT goes on with its search. -/
def execRereadPassDone (st : Stn) (s : State) : Host.Outcome State Fault Refusal :=
  let t := s.stns[st]
  .next (if !t.readSide.active ∨ !t.readSide.reread then s
    else match s.mountIn st .readEndpaper with
      | some (r, k) => (s.modStn st fun t => t.modRecall Recall.again).mountSearch st r k
      | none =>
        if !t.passRead then s
        else
          let s1 := (s.modStn st fun t => t.modRecall Recall.again).aim st t.readSide.wrap 0
          if t.readSide.ended then s1.controlledStop st
          else (s1.rampTo st .locate (ladder (s.ceiling st))).modStn st fun t => t.modServo fun v => { v with setStep := s.ceiling st })

/-! ### DECRYPTION_DONE (R20, R70, R100) -/

/-- A label whose tag has passed: a spine fills the quire table, a colophon is kept once it is whole; a MIGRATE then checks it. -/
def State.labelRead (s : State) (st : Stn) (g : RGath) : State :=
  let k := (s.stns[st]).readSide
  match g.kind with
  | .spine =>
    let q := (k.labels .spine).flatMap fun x => if x.2.length ≥ beAt x.2 0x18 4 then spineQuires x.2 else []
    if (s.stns[st]).mount.any (fun m => m.mode == .read) then s.modStn st fun t => t.modCtx fun v => { v with quires := q } else s
  | .colophon =>
    (match (k.labels .colophon).find? fun x => colWhole x.2 with
    | some x =>
      (s.modStn st fun t => { t with
        readSide := { t.readSide with colophon := x.2.take (colClen x.2) } }).migColophon st
    | none => s)
  | _ => s

/-- A tag that fails: a label is lost, an endpaper of a MOUNT is taken as failed (Table 8.6); any other gathering is erased as a
whole once, and C3 is tried; the second time it is unrecovered after C3 (R100). -/
def State.tagFailed (s : State) (st : Stn) (g : RGath) : State :=
  if g.kind.label then s.modStn st fun t => t.modRecall fun k =>
    { (k.modGath g.gnum fun x => { x with unrec := true }) with epFail := k.epFail || g.kind == .endpaper }
  else
    match (s.stns[st]).ctx with
    | none => s
    | some v =>
      let q := ((s.stns[st]).readSide.slotOf v g).map (·.1)
      let s1 := s.modStn st fun t => t.modRecall fun k =>
        { (k.modGath g.gnum fun x => { x with whole := true, tagTried := true }) with
          c3Done := if g.tagTried then k.c3Done else k.c3Done.filter fun n => q != some n }
      match q with
      | some n => if g.tagTried then s1.climb st v n else s1
      | none => s1

/-- The ladder goes on for the group of a data gathering whose tag has passed. -/
def State.climbFrom (s : State) (st : Stn) (g : RGath) : State :=
  match (s.stns[st]).ctx with
  | none => s
  | some v => match (s.stns[st]).readSide.slotOf v g with
    | some q => if g.kind = .data then s.climb st v q.1 else s
    | none => s

/-- DECRYPTION_DONE: the lane answers for one gathering (DEDUCED, log 92). -/
def execDecryptionDone (st : Stn) (gnum : Nat) (s : State) : Host.Outcome State Fault Refusal :=
  .next (if !s.jobRuns (dieOf st) rCrypto (.decrypt st gnum) then s
    else
      let key := s.jobKey (dieOf st) (.decrypt st gnum)
      let s1 := s.dropJobs fun j => j == .decrypt st gnum
      match (s1.stns[st]).readSide.gath? gnum with
      | none => s1
      | some g =>
        match g.opens key with
        | none => (s1.tagFailed st g).readOn st
        | some p =>
          let s2 := s1.modStn st fun t => t.modRecall fun k => k.modGath gnum fun x => { x with plain := some p }
          match s2.mountIn st .readEndpaper with
          | some (r, k) => s2.endpaperPassed st r k p
          | none => ((s2.labelRead st g).climbFrom st g).readOn st)

/-! ### DECOMPRESSION_DONE, RECORD_HANDOVER, REBUILD_PASS_DONE -/

/-- DECOMPRESSION_DONE (R18, R21, R166): the decompression lane and the hash lane have done with the record; its readers get their
verdicts, and a MIGRATE may hand it over. -/
def execDecompressionDone (st : Stn) (lon : Nat) (s : State) : Host.Outcome State Fault Refusal :=
  .next (if !s.jobRuns (dieOf st) rDecomp (.decompress st lon) || !s.jobRuns (dieOf st) rHash (.fixity st lon) then s
    else
      let s1 := (s.dropJobs fun j => j == .decompress st lon || j == .fixity st lon).modStn st fun t => t.modRecall fun k =>
        { k with decoded := if (s.migOf st).isSome then lon :: k.decoded else k.decoded }
      (s1.readDone st lon).readOn st)

/-- RECORD_HANDOVER (R279). -/
def execRecordHandover (st : Stn) (lon : Nat) (s : State) : Host.Outcome State Fault Refusal :=
  .next ((s.handover st lon).readOn st)

/-- REBUILD_PASS_DONE (R271): the outside says that the end of recording has been reached; everything read is decided. -/
def execRebuildPassDone (st : Stn) (s : State) : Host.Outcome State Fault Refusal :=
  .next (match s.mountIn st .rebuilding with
    | none => s
    | some (r, _) =>
      let k := (s.stns[st]).readSide
      if k.reread ∨ k.gaths.any RGath.undecided then s else s.rebuild st r)

/-! ### WRAP_END for a reader -/

/-- The wrap on which the recording ends, as far as it is known: of a volume mounted for appending, from its colophon, else the last
wrap of the cartridge. -/
def Station.lastWrap (t : Station) : Nat :=
  let k := t.readSide.colophon
  match t.mount, t.ctx with
  | some m, some v => if m.mode = .append then t.write.wrap else if k.isEmpty then geoWraps v.geo - 1 else beAt k 0x100 2 - 1
  | _, some v => geoWraps v.geo - 1
  | _, none => 1

/-- A reader comes to the end of a wrap: it goes on with the next one, or the recording has been read to its end (log 64); a rung 3
pass ends there. A MOUNT that looks for an endpaper goes on with its search. -/
def State.recallWrapEnd (s : State) (st : Stn) : State :=
  let t := s.stns[st]
  let s1 := s.modStn st fun t => t.modLink Link.leaveWrap
  match s.mountIn st .readEndpaper with
  | some (r, k) => if t.readSide.reread then (s1.modStn st fun t => t.modRecall Recall.again).mountSearch st r k else s1.mountSearch st r k
  | none =>
    if t.readSide.reread then s1.controlledStop st
    else if t.readSide.wrap < t.lastWrap then
      ((s1.aim st (t.readSide.wrap + 1) 0).rampTo st .locate (ladder t.servo.setStep)).modStn st fun t => t.modRecall fun k => { k with wrap := k.wrap + 1 }
    else ((s1.modStn st fun t => t.modRecall fun k => { k with ended := true }).controlledStop st).readOn st

end Sys2Proof.Machine
end

