-- ==== Sys2Proof/Machine/WriteCmds.lean ====
section
/-!
DEFINITION. The rows of the write pass (04): verify and rewrite, acceptance, placement, speed matching, stops and turns, and
the rows of the read channel (06) that decode a row.
-/
namespace Sys2Proof.Machine

/-- ROW_DECODE (R119, R201 to R207). -/
def execRowDecode (st : Stn) (pos : Nat) (track : Track) (s : State) : Host.Outcome State Fault Refusal :=
  .next (s.rowDecode st pos track)

/-- RETRY_ATTEMPT (R204, R207). -/
def execRetryAttempt (st : Stn) (s : State) : Host.Outcome State Fault Refusal := .next (s.retryAttempt st)

/-- BAND_FREEZE (R122). -/
def execBandFreeze (st : Stn) (s : State) : Host.Outcome State Fault Refusal :=
  .next (s.modStn st fun t => t.modWrite Write.freeze)

/-- GATHERING_ACCEPTANCE (R127). -/
def execGatheringAcceptance (st : Stn) (gnum : Nat) (s : State) : Host.Outcome State Fault Refusal :=
  .next (s.acceptance st gnum).powerGo

/-! ### Placement (R471, R475 to R477) -/

/-- Whether the gathering that is placed next carries a segment and would take a slot of the closure reserve (R477). -/
def Station.intoReserve (t : Station) : Bool :=
  t.ctx.any fun v =>
    (t.write.gaths.find? fun g => !g.placed).any fun g => g.released && g.kind == .data && !g.segs.isEmpty && !g.closure
      && decide (freeSlots v t.write ≤ reserveSlots v t.write - 64 + t.write.laid)

/-- Accepted data would need a slot of the closure reserve: a write fault at that moment. Released gatherings that are not
placed burn with the unreleased ones (R477; DEDUCED, log 41). -/
def State.reserveFault (s : State) (st : Stn) : State :=
  (s.modStn st fun t => t.modWrite fun w => { w with
    gaths := w.gaths.map fun g => if g.kind = .data && !g.placed then { g with released := false } else g }).writeFault st

/-- A tail slot is laid out: its rows carry the number of the last gathering placed, the last part of colophon copy 1 where it has
several (R476; DESIGN CHOICE, log 130). -/
def State.placeTail (s : State) (st : Stn) (n : Nat) : State :=
  s.modStn st fun t =>
    match t.ctx with
    | none => t
    | some v =>
      let w := t.write
      if !w.lays ∨ w.ahead ≥ 2 then t
      else if !w.fits v then { t with write := w.endBand (lastPlaced v w) }
      else { t with write := { (w.layGath ((List.range 8).map fun i => .tail (v.gnum - 1) i) (v.gnum - 1)) with tailLeft := some n } }

/-- GATHERING_PLACE (R471, R476, R477). In a quiesce nothing further is begun (R400). -/
def execGatheringPlace (st : Stn) (ahead : Nat) (s : State) : Host.Outcome State Fault Refusal :=
  let t := s.stns[st]
  .next (if !s.ready then s else match t.write.tailLeft with
    | some (n + 1) => s.placeTail st n
    | some 0 => s
    | none => if t.intoReserve then s.reserveFault st else (s.placeNext st ahead).settle st)

/-- Whether an empty gathering can be made now: the open gathering is empty or is what closes, or another buffer has been granted
(R104). -/
def Write.hasEmpty (w : Write) : Bool := w.openSegs.isEmpty || w.openSegs.any (·.inc) || !w.bufs.isEmpty

/-- An empty data gathering closes and takes its number; an open gathering that holds segments stays as it is (R475), unless it holds
INCOMPLETE segments, which belong into the next gathering that closes (R466). -/
def State.closeEmpty (s : State) (st : Stn) : State :=
  let w := (s.stns[st]).write
  if w.openSegs.isEmpty ∨ w.openSegs.any (·.inc) then s.closeGath st false false else
  let s1 := (s.modStn st fun t => t.modWrite fun w => { w with openSegs := [], openBytes := [], openBuf := none }).closeGath st false false
  s1.modStn st fun t => t.modWrite fun x => { x with openSegs := w.openSegs, openBytes := w.openBytes, openBuf := w.openBuf, closeDue := w.closeDue }

/-- EMPTY_GATHERING (R139, R475): the write feed has reached a gathering's place with nothing due. One numbered behind an
unreleased gathering could not be recorded before it (R115), so none is made then (DEDUCED, log 42). After 256 in a row that
no FLUSH waits for, the station stops. -/
def execEmptyGathering (st : Stn) (s : State) : Host.Outcome State Fault Refusal :=
  let w := (s.stns[st]).write
  let flush := w.flushes.any (·.closed)
  .next (
    if !s.ready ∨ w.feed ≠ .writing ∨ w.unplaced ≠ 0 ∨ w.ahead ≥ 2 ∨ !s.mayClose st ∨ !w.hasEmpty then s
    else if w.empties ≥ 256 ∧ !flush then s.controlledStop st
    else (s.closeEmpty st).modStn st fun t => t.modWrite fun w => { w with empties := if flush then w.empties else w.empties + 1 })

/-! ### Speed (R133 to R137) -/

/-- Run-out fill, or the tape of a backhitch, ends where writing goes on: `n` more cells of the wrap lie behind, and every lane
starts a new run (R116, R175). -/
def State.endFill (s : State) (st : Stn) (n : Nat) : State :=
  s.modStn st fun t => { t with
    write := { t.write with cellPos := t.write.cellPos + n }
    link := t.link.endRun }

/-- Writing goes on with a splice slot and an open gate (R117), at the cell clock of the speed reached: its divider changes while the gate
is closed (R24, R25). -/
def State.resume (s : State) (st : Stn) : State :=
  s.modStn st fun t =>
    let w := match t.ctx with | some v => t.write.laySplice (lastPlaced v t.write) | none => t.write
    { t with
      wgate := false
      resumes := false
      write := { w with feed := .writing }
      servo := { t.servo with clkStep := t.servo.setStep }
      speed := { t.speed with stopped := false, stopping := false } }

/-- Writing goes on from run-out fill. Where the cell clock changes, the gate closes for the 1 µs in which its divider does (R25, Table
4.7). -/
def State.fillResume (s : State) (st : Stn) : State :=
  let t := s.stns[st]
  let s1 := s.endFill st t.link.leadCells
  (((if t.servo.clkStep = t.servo.setStep then s1 else s1.emit (.gatePulse st)).resume st).capDown st)

/-- Whether writing may go on where it is due to: not in a dip of VDD_CORE, nor while a reset is under way (R400, R409). -/
def State.mayResume (s : State) : Bool := s.ready && !s.supply.dip

/-- SPEED_STEP_DONE (R136, Table 4.7): the reference has arrived and the lateral loop has settled, and a splice slot follows. In a dip,
and where nothing more goes on the wrap, the run-out fill goes on (R116, R409). -/
def execSpeedStepDone (st : Stn) (s : State) : Host.Outcome State Fault Refusal :=
  let t := s.stns[st]
  .next (if t.speed.stepping.isNone ∨ t.servo.ramp.isSome ∨ !t.servo.settled ∨ t.write.feed ≠ .runOut then s
    else
      (let s1 := s.modStn st fun t => t.modSpeed fun x => { x with stepping := none, lastStep := s.clock }
       if s.mayResume ∧ !t.write.wrapOver then s1.fillResume st else s1))

/-- STOP_DONE (R116): in a stop the measured speed has fallen below 1.00 m/s, and WGATE_N_s rises. -/
def execStopDone (st : Stn) (s : State) : Host.Outcome State Fault Refusal :=
  let t := s.stns[st]
  .next (if t.speed.stopping && t.servo.speedMm < 1000 then
      s.modStn st fun t => { t with wgate := true, write := { t.write with feed := .off }, link := t.link.endRun }
    else s)

/-- The read side starts a new run of positions: those to come are counted from the next one sent. -/
def State.newRun (s : State) (st : Stn) : State :=
  s.modStn st fun t => t.modLink fun k => { k with rxNum := t.write.seq - t.write.toSend.length, grid := none, marks := [], rx := [] }.startReading s.img

/-- BACKHITCH_DONE (R117, R137): the splice slot begins 0 to 0.2 mm (at most 32,000 cells) after the last position recorded
whole. With LPOS lost no gathering could follow (R221): the station stops, to start again (DESIGN CHOICE, log 164). -/
def execBackhitchDone (st : Stn) (gap : Nat) (s : State) : Host.Outcome State Fault Refusal :=
  let t := s.stns[st]
  .next (if t.write.feed ≠ .resume ∨ t.write.cellPos = 0 ∨ t.servo.ramp.isSome ∨ t.servo.motion ≠ .moving ∨ !t.servo.settled ∨ t.servo.back.isSome
      ∨ t.servo.reverse ≠ (t.write.wrap % 2 == 1) ∨ !s.mayResume then s
    else if !t.servo.lposOk then s.controlledStop st
    else (((((s.modStn st fun t => t.modSpeed fun x => { x with lastStep := s.clock }).endFill st (min gap (32000 - t.write.late))).newRun st).resume st).capDown st).modStn st fun t => t.modWrite fun w => { w with late := 0 })

/-! ### Turns (R41, R116, R473, R472) -/

/-- The labels that begin the wrap that follows wrap `w`: endpaper copies 2 and 3 on wrap 1, and the spine of wrap `w` (R42). -/
def State.turnLabels (s : State) (st : Stn) (w : Nat) : State :=
  match (s.stns[st]).ctx with
  | none => s
  | some v =>
    let s1 := s.modStn st fun t => t.modCtx fun v => { v with
      wrapFirst := v.wrapFirst ++ [if v.grpEnd then v.q0 + min v.depth v.inGroup else v.q0], spineDue := v.spineDue ++ [w] }
    let s2 := if w = 0 ∧ v.copies < 4 then (s1.composeEndpaper st).composeEndpaper st else s1
    s2.composeSpines st

/-- The station turns to the next wrap: every track is live again (R125), a speed step in progress ends, parity gatherings that found no
room take new numbers behind the labels (R472), and the open gathering closes (R61; DEDUCED, log 131). -/
def State.nextWrap (s : State) (st : Stn) (stopping : Bool) : State :=
  let t := s.stns[st]
  match t.ctx with
  | none => s
  | some v =>
    let w := t.write.wrap
    let left := t.write.gaths.filter fun g => g.kind == .parity && !g.recorded
    let s1 := (if left.isEmpty then s else s.giveBack st left).modStn st fun t => { t with
      speed := { t.speed with stepping := none }
      write := { t.write with
        wrap := w + 1, cellPos := 0, late := 0, inRun := 0, bandsOn := 0, dead := 0, sums := Vector.replicate 128 [], wrapOver := false, owed := none
        feed := if stopping then .off else .resume }.requeue }
    let s2 := if [Closing.none, .flushing, .incompletes, .endpapers, .spine].contains v.closing then s1.turnLabels st w else s1
    (s2.closeOpen st).aim st (w + 1) 0

/-- A station at rest whose wrap is over turns to the next one (R473). -/
def State.turnAtRest (s : State) (st : Stn) : State :=
  let t := s.stns[st]
  match t.ctx with
  | none => s
  | some v =>
    if t.write.wrapOver ∧ t.write.toSend.isEmpty ∧ t.write.feed = .off ∧ t.speed.stopped ∧ t.servo.motion ≠ .moving ∧ s.mayStart st
        ∧ t.write.wrap + 1 < geoWraps v.geo then (s.nextWrap st true).settle st
    else s

/-- A reading whose tape a thermal stop, the motor bus or a fault of its loops has brought to rest goes on once the station may move: 2 m
before where it stopped, from where gatherings come again (R282; DEDUCED, log 154). -/
def State.readAgain (s : State) (st : Stn) : State :=
  let t := s.stns[st]
  let k := t.readSide
  if !k.active ∨ k.ended ∨ k.reread ∨ t.speed.wantSeek ∨ t.servo.motion ≠ .tensioned ∨ t.servo.ramp.isSome ∨ !s.mayMove st then s
  else
    let rev := k.wrap % 2 == 1
    let hi := s.ceiling st
    ((s.aim st k.wrap 0).runBack st ⟨lposBefore rev t.servo.lpos 20000, rev, .locate, ladder hi⟩).modStn st fun t => { t with
      servo := { t.servo with setStep := hi }, link := t.link.startReading s.img, readSide := { t.readSide with moved := true } }

/-- SPEED_DECISION (R132 to R135): the decision of every 10 ms; a station at rest turns to a reader that waits (R346) or goes on reading, a
power-state entry goes on, and the counts of R212 begin a new interval (log 55). -/
def execSpeedDecision (st : Stn) (s : State) : Host.Outcome State Fault Refusal :=
  .next ((((((s.turnAtRest st).speedDecide st).serveSeek st).readAgain st).powerGo).modStn st fun t => t.modLink fun k => { k with counts := [] })

/-- A recording reaches the end of a wrap: the gate closes, a gathering that could not be finished is void, and the station
turns to the next wrap; where none is left, the closure has failed (R116, R472 to R474). -/
def State.turn (s : State) (st : Stn) : State :=
  let t := s.stns[st]
  match t.ctx with
  | none => s
  | some v =>
    let w := t.write.wrap
    let stopping := t.servo.stops
    let s1 := (s.voidWriting st).modStn st fun t => { t with
      wgate := true
      link := t.link.endRun }
    if w + 1 ≥ geoWraps v.geo then (if v.faulted then s1.closureFailed st else s1.writeFault st)
    else
      let s2 := s1.nextWrap st stopping
      (if stopping then s2 else s2.rampTo st .start (ladder t.servo.setStep)).settle st

/-- WRAP_END: the head reaches the end of the usable range. A reader goes on with the next wrap, or has
read the recording to its end. -/
def execWrapEnd (st : Stn) (s : State) : Host.Outcome State Fault Refusal :=
  let t := s.stns[st]
  .next (if t.servo.motion ≠ .moving then s
    else if t.write.feed = .writing ∨ t.write.feed = .runOut then
      (if s.ready then s.turn st else (s.voidWriting st).quiesceGate st)
    else if t.readSide.active then s.recallWrapEnd st
    else s)

/-- WRAP_START (R473): the head reaches the start of the wrap's usable range at speed, settled, and the gate opens at the cell clock of
that speed (R24). With LPOS lost no gathering starts (R221): the station stops, to start again (DESIGN CHOICE, log 164). -/
def execWrapStart (st : Stn) (s : State) : Host.Outcome State Fault Refusal :=
  let t := s.stns[st]
  .next (if t.write.feed ≠ .resume ∨ t.write.cellPos ≠ 0 ∨ t.servo.ramp.isSome ∨ t.servo.motion ≠ .moving ∨ !t.servo.settled ∨ !s.mayResume then s
    else if !t.servo.lposOk then s.controlledStop st
    else ((s.newRun st).modStn st fun t => { t with
      wgate := false, resumes := false
      write := { t.write with feed := .writing, dead := 0, sums := Vector.replicate 128 [] }
      servo := { t.servo with clkStep := t.servo.setStep }
      speed := { t.speed with stopped := false, stopping := false, stepping := none, lastStep := s.clock }
      link := t.link.endRun }).capDown st)

end Sys2Proof.Machine
end

