-- ==== Sys2Proof/Machine/Supply.lean ====
section
/-!
DEFINITION. The rows of the supply, the junctions and the motor bus (07, R249, R250; 12, R408 to R411). How long a level has held is
the outside's to know (log 15).
-/
namespace Sys2Proof.Machine

/-! ### VDD_CORE dips (R408 to R410) -/

/-- What every station does that writes. -/
def State.eachWriting (s : State) (f : State → Stn → State) : State :=
  allStns.foldl (fun a st => if (a.stns[st]).write.feed = .off then a else f a st) s

/-- VDD_CORE_WARNING: a dip begins; writing stations close their gathering and go over to run-out fill. In a dip, a crossing anew ends
the recovery count (Table 12.10). -/
def execVddCoreWarning (mv : Nat) (s : State) : Host.Outcome State Fault Refusal :=
  .next (if mv ≥ 715 then s
    else
      let s1 := s.railReads 0 mv
      let u := s1.supply
      if u.dip then
        (let s2 := { s1 with supply := { u with recov := false, dipNow := min u.dipNow (10 * mv) } }
         if u.recov then s2.raise 2 else s2)
      else
        ({ s1 with supply := { u with dip := true, recov := false, dipStart := s.clock, dipNow := 10 * mv, dipStopped := false } }.raise 2).eachWriting
          fun a st => if (a.stns[st]).write.feed = Feed.writing then a.runOut st else a)

/-- DIP_STOP (R409 item 3). -/
def execDipStop (s : State) : Host.Outcome State Fault Refusal :=
  .next (if !s.supply.dip ∨ s.supply.dipStopped then s
    else { s with supply := { s.supply with dipStopped := true } }.eachWriting State.controlledStop)

/-- A station that still moves in run-out fill goes on with a splice slot, unless its wrap is over (R410, R117). -/
def State.dipResume (s : State) (st : Stn) : State :=
  let t := s.stns[st]
  if t.write.feed = .runOut ∧ !t.write.wrapOver ∧ !t.speed.stopping ∧ t.speed.stepping.isNone ∧ s.mayResume then s.fillResume st else s

/-- DIP_RECOVERY: the stored rows are decoded again and the worse grade holds; the supply event carries the length in µs above the
minimum in 0.1 mV (R410, log 51). -/
def execDipRecovery (min : Nat) (regrades : List Regrade) (s : State) : Host.Outcome State Fault Refusal :=
  .next (if !s.supply.dip then s
    else
      let u := s.supply
      let low := if 10 * min < u.dipNow then 10 * min else u.dipNow
      let len := if (s.clock - u.dipStart) / 800 < 2 ^ 32 then (s.clock - u.dipStart) / 800 else 2 ^ 32 - 1
      let s1 := { s with supply := { u with dip := false, recov := false, dipLen := BitVec.ofNat 32 len, dipMin := BitVec.ofNat 16 low } }
      let s2 := (regrades.foldl (fun a x => a.regrade x) s1).raise 1 (len * 2 ^ 32 + low)
      allStns.foldl (fun a st => a.dipResume st) s2)

/-! ### Junctions (R411, Table 12.11) -/

/-- The step that the thermal cap counts from: the highest step of a station that moves (DESIGN CHOICE, log 52). -/
def State.topMoving (s : State) : Nat :=
  match (allStns.filter fun st => (s.stns[st]).servo.motion == .moving).map fun st => (s.stns[st]).servo.setStep with
  | [] => 32
  | l => l.foldl max 0

/-- The highest ladder step that a mounted volume's descriptor gives; 32 with none mounted. -/
def State.topGeo (s : State) : Nat :=
  match allStns.filterMap fun st => (s.stns[st]).ctx.map fun v => geoHigh v.geo with
  | [] => 32
  | l => l.foldl max 0

/-- The thermal cap set, and followed at once (R135). -/
def State.setCap (s : State) (c : Option Nat) : State :=
  allStns.foldl (fun a st => a.capDown st) { s with thermal := { s.thermal with cap := c } }

/-- THERMAL_THROTTLE. -/
def execThermalThrottle (d : DieId) (temp : BitVec 16) (s : State) : Host.Outcome State Fault Refusal :=
  .next (if temp.toInt < s.img.throttleC * 256 then s
    else
      let s1 := s.heat d temp
      if s.thermal.throt then s1
      else ({ s1 with thermal := { s1.thermal with throt := true } }.raise 3).setCap (some (s.topMoving - 4)))

/-- THERMAL_THROTTLE_STEP. -/
def execThermalThrottleStep (s : State) : Host.Outcome State Fault Refusal :=
  .next (match s.thermal.throt, s.thermal.cap with
    | true, some c => s.setCap (some (c - 4))
    | _, _ => s)

/-- A cap raised by 4 steps, and removed above the highest step `top`. -/
def raisedCap (top c : Nat) : Option Nat := if c + 4 > top then none else some (c + 4)

/-- THERMAL_CAP_RAISE. -/
def execThermalCapRaise (s : State) : Host.Outcome State Fault Refusal :=
  .next { s with thermal := { s.thermal with throt := false, cap := s.thermal.cap.bind (raisedCap s.topGeo) } }

/-- THERMAL_STOP: a controlled stop of every station. -/
def execThermalStop (d : DieId) (temp : BitVec 16) (s : State) : Host.Outcome State Fault Refusal :=
  .next (if temp.toInt < s.img.stopC * 256 then s
    else
      let s1 := s.heat d temp
      if s.thermal.stop then s1
      else allStns.foldl (fun a st => a.controlledStop st) ({ s1 with thermal := { s1.thermal with stop := true } }.raise 4))

/-- THERMAL_STOP_CLEAR: stations may start again, under R133. -/
def execThermalStopClear (s : State) : Host.Outcome State Fault Refusal :=
  .next { s with thermal := { s.thermal with stop := false, throt := false } }

/-! ### The motor bus (R249, R250, Table 7.14) -/

/-- A reading of BUSMON_s, in counts. A dip is a run of readings below the warning level, and keeps its minimum (R250, STN_BUS). -/
def State.busReads (s : State) (st : Stn) (counts : Nat) : State :=
  let mv := s.img.busMv st.val counts
  let low := decide (mv < s.img.busWarn)
  s.modStn st fun t => t.modSpeed fun x =>
    { x with vbus := mv, inDip := low, dipMin := if !low then x.dipMin else if x.inDip then min x.dipMin mv else mv }

/-- A level crossed downward: the reading, the event and `f`, where the bus that the pin shows is below the level. -/
def State.busLevel (s : State) (st : Stn) (counts level : Nat) (f : State → State) : State :=
  if s.img.busMv st.val counts ≥ level then s else f ((s.busReads st counts).raise (73 + 16 * st.val))

/-- The motor-bus cap of a station set, and followed at once (R135). -/
def State.setBusCap (s : State) (st : Stn) (c : Option Nat) : State := (s.modStn st fun t => t.modSpeed fun x => { x with busCap := c }).capDown st

/-- BUS_WARNING. -/
def execBusWarning (st : Stn) (counts : Nat) (s : State) : Host.Outcome State Fault Refusal :=
  .next (s.busLevel st counts s.img.busWarn fun s => s.setBusCap st (some ((s.stns[st]).servo.setStep - 4)))

/-- BUS_WARNING_STEP: the bus is still below the warning level. -/
def execBusWarningStep (st : Stn) (counts : Nat) (s : State) : Host.Outcome State Fault Refusal :=
  .next (match (s.stns[st]).speed.busCap with
    | some c => if s.img.busMv st.val counts ≥ s.img.busWarn then s else (s.busReads st counts).setBusCap st (some (c - 4))
    | none => s)

/-- BUS_STOP. -/
def execBusStop (st : Stn) (counts : Nat) (s : State) : Host.Outcome State Fault Refusal :=
  .next (s.busLevel st counts s.img.busStop fun s =>
    (s.controlledStop st).modStn st fun t => t.modSpeed fun x => { x with busStop := true })

/-- BUS_HOLD: MEN_N_s goes high; the head-end is asked for rest. -/
def execBusHold (st : Stn) (counts : Nat) (s : State) : Host.Outcome State Fault Refusal :=
  .next (s.busLevel st counts s.img.busHold fun s =>
    (s.hold_ st).modStn st fun t => { t with speed := { t.speed with busHeld := true }, link := t.link.askRest })

/-- The cap raised, and removed above the descriptor's highest step. -/
def State.busRaise (s : State) (st : Stn) : State :=
  s.modStn st fun t =>
    let top := match t.ctx with | some v => geoHigh v.geo | none => 32
    t.modSpeed fun x => { x with busCap := x.busCap.bind (raisedCap top) }

/-- BUS_RECOVERY: the bus has recovered; a station in Hold whose head-end is at rest is Open, and one that stopped may restart under
R133 (R250). -/
def execBusRecovery (st : Stn) (counts : Nat) (s : State) : Host.Outcome State Fault Refusal :=
  .next (if s.img.busMv st.val counts ≤ s.img.busRecov then s
    else ((((s.busReads st counts).modStn st fun t => t.modSpeed fun x => { x with busStop := false, busHeld := false }).busRaise st).holdExit st))

/-- BUS_RECOVERY_STEP. -/
def execBusRecoveryStep (st : Stn) (counts : Nat) (s : State) : Host.Outcome State Fault Refusal :=
  .next (if s.img.busMv st.val counts ≤ s.img.busRecov then s else (s.busReads st counts).busRaise st)

/-- VBUS_MISMATCH: BUSMON_s governs (R250). -/
def execVbusMismatch (st : Stn) (s : State) : Host.Outcome State Fault Refusal := .next (s.raise (74 + 16 * st.val))

end Sys2Proof.Machine
end

