-- ==== Sys2Proof/Machine/Control.lean ====
section
/-!
DEFINITION. The rows of the control side (10, R351 to R355; 11, R380 to R385; 13, R419 to R421; 01, Table 1.9): power states, self-tests,
monitors, control stores, and the faults of dies, stacks, the UCIe link and the DRBG.
-/
namespace Sys2Proof.Machine

/-- POWER_STATE. -/
def execPowerState (c : HostCmd) (s : State) : Host.Outcome State Fault Refusal :=
  .next (s.host 0x89 c (powerOwn c) unblocked (State.runPower c))

/-! ### Self-tests (R353 to R355) -/

/-- The part entries of a test: its parts in order, for each die or for the package (Table 10.16). -/
def testEntries (kind : Nat) : List (Nat × BitVec 8) :=
  let short := [1, 2, 3, 4, 5, 6].flatMap (fun p => [(p, (0 : BitVec 8)), (p, 1)]) ++ [(7, 0xFF), (8, 0xFF)]
  if kind = 1 then short else short ++ [9, 10, 11].flatMap (fun p => [(p, (0 : BitVec 8)), (p, 1)])

/-- What was found for an entry: not run where nothing is said of it. -/
def partOf (parts : List TestPart) (e : Nat × BitVec 8) : TestPart :=
  match parts.find? fun x => x.part == e.1 && x.die == e.2 && x.state ≤ 2 with
  | some x => x
  | none => ⟨e.1, e.2, 0, 0⟩

/-- The mounts in force, by station and number. -/
def State.mountsHeld (s : State) : List (Nat × BitVec 32) :=
  allStns.filterMap fun st => (s.stns[st]).mount.map fun m => (st.val, m.num)

/-- The allocated buffers of a pool of a die. -/
def State.poolHeld (s : State) (d : DieId) (p : Fin 5) : List (Nat × BitVec 32) :=
  (((s.dies[d]).pools[p]).bufs.filter Buf.allocated).map fun b => (d.val, mkHandle p.val b.index b.gen)

/-- The allocated buffers, by die and handle. -/
def State.buffersHeld (s : State) : List (Nat × BitVec 32) :=
  ([0, 1] : List DieId).flatMap fun d => ([0, 1, 2, 3, 4] : List (Fin 5)).flatMap fun p => s.poolHeld d p

/-- The stations of a part's die that stayed mounted from the test's start to now, as a mask. -/
def State.keptMounted (s : State) (t : TestRun) (x : TestPart) : Nat :=
  ((t.mounts.filter fun m => s.mountsHeld.contains m && m.1 / 4 == x.die.toNat).map fun m => 2 ^ m.1).foldl (· + ·) 0

/-- Whether a page lies in a buffer that stayed allocated from the test's start to now. -/
def State.keptBuffer (s : State) (t : TestRun) (d : DieId) (dpn : Nat) : Bool :=
  match (s.dies[d]).bufferOf dpn with
  | none => false
  | some (p, i) =>
    let h := (d.val, mkHandle p i (((s.dies[d]).pools[fin5 p]).buf i).gen)
    t.busy.contains h && s.buffersHeld.contains h

/-- A part's entry without what no test may touch (R354): a station that stayed mounted is not shown as tested, and a part that all its
stations, or the page it names, were kept from is not run. A test holds nothing that a host command needs: it yields it as the
command takes it, and goes on with it once it is free. -/
def State.untouched (s : State) (t : TestRun) (x : TestPart) : TestPart :=
  if x.part = 6 then
    let m := s.keptMounted t x
    let free := ~~~(BitVec.ofNat 32 (m * 257))
    if m = 15 * 16 ^ x.die.toNat ∨ (x.state = 2 ∧ bits (x.detail &&& free) 8 8 = 0) then { x with state := 0, detail := 0 }
    else { x with detail := x.detail &&& free }
  else if x.part = 10 ∧ x.state = 2 ∧ s.keptBuffer t (fin2 x.die.toNat) x.detail.toNat then { x with state := 0, detail := 0 }
  else x

/-- The report (Table 10.15). -/
def testReport (kind outcome ms : Nat) (l : List TestPart) : List Byte :=
  let run := (l.filter fun x => x.state != 0).length
  let fail := (l.filter fun x => x.state == 2).length
  padTo 256 (leBytes 1 kind ++ leBytes 1 outcome ++ leBytes 1 run ++ leBytes 1 fail ++ leBytes 4 l.length ++ leBytes 8 ms
    ++ l.flatMap fun x => leBytes 1 x.part ++ [x.die] ++ leBytes 1 x.state ++ zeros 1 ++ leBytes 4 x.detail.toNat)

/-- The running test ends: report, RESULT and status (R354, R355). `outcome` is that of a test with no failed part. -/
def State.testEnds (s : State) (outcome : Nat) (parts : List TestPart) : State :=
  match s.test with
  | none => s
  | some t =>
    let l := (testEntries t.kind).map fun e => s.untouched t (partOf parts e)
    let run := (l.filter fun x => x.state != 0).length
    let fail := (l.filter fun x => x.state == 2).length
    let o := if outcome = 0 ∧ fail ≠ 0 then 1 else outcome
    let status := if o = 0 then 0 else if o = 1 then 0xC else 0x11
    { s with test := none }.finishWith t.cmd { status := status, result := run + 256 * fail } (testReport t.kind o ((s.clock - t.at_) / 800000) l)

/-- Checks 6 to 10 of SELF_TEST: KIND 1, 2 with its feature, or 0x0F; one test at a time (R353, R379). -/
def testOwn (c : HostCmd) (s : State) : Option Ending :=
  let k := c.entry.cd 0 1
  if !(k = 1 ∨ k = 0xF ∨ (k = 2 ∧ s.accepted c.port 7)) then some (.st 2)
  else if k ≠ 0xF ∧ s.test.isSome then some (.st 0xE) else none

/-- SELF_TEST taken. An abort ends the running test, with the parts it has run, and then itself (R354). -/
def State.runTest (c : HostCmd) (parts : List TestPart) (s : State) : State :=
  let k := c.entry.cd 0 1
  if k = 0xF then (s.testEnds 3 parts).finishNew c (.ok 0)
  else { s with test := some ⟨k, refOf c, c.entry.rptr, s.clock, s.mountsHeld, s.buffersHeld⟩ }.launch c (Cmd.start c s.clock .moving) fun _ s => s

/-- SELF_TEST: `parts` is what the running test has found, for an abort (DESIGN CHOICE, log 108). -/
def execSelfTest (c : HostCmd) (parts : List TestPart) (s : State) : Host.Outcome State Fault Refusal :=
  .next (s.host 0x88 c (testOwn c) unblocked (State.runTest c parts))

/-- SELF_TEST_DONE. -/
def execSelfTestDone (parts : List TestPart) (s : State) : Host.Outcome State Fault Refusal := .next (s.testEnds 0 parts)

/-- SELF_TEST_TIMEOUT: four times the nominal length has passed (R354). -/
def execSelfTestTimeout (parts : List TestPart) (s : State) : Host.Outcome State Fault Refusal := .next (s.testEnds 2 parts)

/-! ### Monitors (R419 to R421) -/

/-- DIE, SLOT, OP and SOURCE (Table 10.5). -/
def monOp (e : Entry) : Nat := e.cd 2 1
def monSource (e : Entry) : BitVec 32 := BitVec.ofNat 32 (e.cd 4 4)

/-- DLEN of an operation (Table 13.3). -/
def monLen : Nat → Nat
  | 1 => 124
  | 2 => 4
  | _ => 0

/-- Checks 6 to 10 of MONITOR_CTL (R421); SOURCE counts only where a slot is started (DEDUCED, log 56). -/
def monOwn (c : HostCmd) (data : List Byte) (_ : State) : Option Ending :=
  let e := c.entry
  let op := monOp e
  let starts := op == 1 || op == 2
  if e.cd 0 1 > 1 ∨ e.cd 1 1 > 63 ∨ op > 3 ∨ e.dlen.toNat ≠ monLen op then some (.st 2)
  else if starts && (!srcOk (e.cd 0 1) (monSource e) || (monEdges op (monSource e) data).isNone) then some (.st 2)
  else none

/-- The slot after an operation (Table 13.3). -/
def MonSlot.control (m : MonSlot) (op : Nat) (src : BitVec 32) (data : List Byte) : MonSlot :=
  match op with
  | 0 => { m with run := false }
  | 3 => m.clear
  | _ => MonSlot.start op src data

/-- MONITOR_CTL: `data` is the edges that the host's buffer holds. -/
def execMonitorCtl (c : HostCmd) (data : List Byte) (s : State) : Host.Outcome State Fault Refusal :=
  let e := c.entry
  .next (s.host 0x8E c (monOwn c data) unblocked fun s =>
    ((s.addCmd c (Cmd.start c s.clock .moving)).modDie (fin2 (e.cd 0 1)) fun d =>
      d.modMon ⟨e.cd 1 1 % 64, by omega⟩ fun m => m.control (monOp e) (monSource e) data).finish (refOf c) (.ok 0))

/-- A per-interval count, of one track or of all (R212). -/
def countOf (l : Counts) (kind track : Nat) : Nat :=
  (l.filter fun x => x.1 == kind && (track == 255 || x.2.1 == track)).foldl (fun a x => a + x.2.2) 0

/-- The value of a source: what State holds of it, else what was measured (Table 13.2). -/
def State.monValue (s : State) (src : BitVec 32) (v : BitVec 32) : BitVec 32 :=
  let t := s.stns[stnOf (srcInst src)]
  let sel := srcSel src
  match srcClass src with
  | 0x03 => BitVec.ofNat 32 (
      let k := fin2 (sel / 256)
      if sel % 256 = 255 then t.link.c1Last[k] else (t.link.c1Load[k])[(⟨sel % 128, by omega⟩ : Fin 128)])
  | 0x04 => BitVec.ofNat 32 (t.link.peaks[(⟨sel % 128, by omega⟩ : Fin 128)]).level
  | 0x05 => if sel = 0 then t.servo.eLat else t.servo.eSkew
  | 0x06 => t.servo.eTen
  | 0x07 => BitVec.ofNat 32 (ceilDiv (s.occupancy (stnOf (srcInst src))) 4096)
  | 0x0A => BitVec.ofNat 32 (countOf t.link.counts (sel / 256) (sel % 256))
  | 0x0C => BitVec.ofNat 32 (t.link.lanes[(⟨sel % 16, by omega⟩ : Fin 16)]).fixed
  | 0x0D => BitVec.ofNat 32 (s.img.busMv (stnOf (srcInst src)).val v.toNat)
  | 0x0E => BitVec.ofNat 32 t.servo.step
  | _ => v

/-- A reading of the supply, a junction or a motor bus is the one that the registers show; VDD_CORE above 0.730 V in a dip runs the
recovery count (R408, Table 14.12). -/
def State.monReading (s : State) (src : BitVec 32) (v : BitVec 32) : State :=
  let i := srcInst src
  match srcClass src with
  | 0x08 =>
    let k : Fin 7 := ⟨i % 7, by omega⟩
    let u := s.supply
    let recov := if i = 0 then u.dip && v.toNat > 7300 else u.recov
    { s with supply := { u with now := vmod u.now k fun _ => v.toNat, min := vmod u.min k fun x => min x v.toNat, recov := recov
                                dipNow := if i = 0 && u.dip then min u.dipNow v.toNat else u.dipNow } }
  | 0x09 => s.heat (fin2 i) (v.setWidth 16)
  | 0x0D => s.busReads (stnOf i) v.toNat
  | _ => s

/-- MONITOR_SAMPLE: a running slot takes a sample of its source; class 0x0B is fed by the corrected reads themselves (R293). -/
def execMonitorSample (d : DieId) (slot : Fin 64) (v : BitVec 32) (s : State) : Host.Outcome State Fault Refusal :=
  let m := (s.dies[d]).monitors[slot]
  .next (if !m.run ∨ srcClass m.source = 0x0B then s else (s.monReading m.source v).monTake d slot (s.monValue m.source v))

/-! ### Control stores (R380 to R385) -/

/-- Fields of a microword, whose bit i is bit 16 + i of the stored word (R381, Table 11.12). -/
def mwField (w : BitVec 144) (lo n : Nat) : Nat := bits w (16 + lo) n

/-- The stored word at an address: HALT words fill the rest of a store (R384). -/
def Store.word (k : Store) (a : BitVec 13) : BitVec 144 := k.words.getD a.toNat 0

/-- The address of the next word (R382). -/
def nextWord (w : BitVec 144) (a : BitVec 13) (cond : Bool) : BitVec 13 :=
  let holds := (mwField w 100 7 == 0 || cond) != (mwField w 99 1 == 1)
  if holds then BitVec.ofNat 13 (mwField w 107 13) else a + 1

/-- What a fetch comes to: the next address and the bits corrected, or a halt (R382, R385). -/
def Store.fetch (k : Store) (cond : Bool) (flips : BitVec 144) : Except HaltCause (BitVec 13 × Nat) :=
  match storeDecode (k.word k.addr ^^^ flips) with
  | none => .error .uncorrectable
  | some (w, n) =>
    let c := mwField w 120 5
    if c = 0 then .error .haltWord else if c ≥ 9 then .error .reservedClass else .ok (nextWord w k.addr cond, n)

/-- The die of a control store (R380). -/
def storeDie (k : Fin 10) : DieId := if k.val < 4 ∨ k.val = 8 then 0 else 1

/-- A halted timetable sequencer: the station faults; the control engine stops the tape and holds tension, and the gate closes (R385). -/
def State.stationHalts (s : State) (st : Stn) : State :=
  let s1 := s.raise (78 + 16 * st.val)
  let s2 := ((if (s1.stns[st]).write.feed = .off then s1 else s1.voidWriting st).fallback st)
  (s2.modStn st fun t => { t.addFault .sequencer with wgate := true }).failStation st

/-- A sequencer halts (R385, Table 1.9). -/
def State.halts (s : State) (k : Fin 10) (why : HaltCause) : State :=
  let s1 := s.modStore k fun x => { x with halted := some why }
  if k.val < 8 then s1.stationHalts (stnOf k.val)
  else ((s1.raise (197 + 16 * (k.val - 8))).faultDie (storeDie k)).sealsGo

/-- CONTROL_STORE_FETCH: the word at the sequencer's address, with the bits that read wrong, and the value of the condition that it
selects. A store that holds no program does not run. -/
def execControlStoreFetch (store : Fin 10) (cond : Bool) (flips : BitVec 144) (s : State) : Host.Outcome State Fault Refusal :=
  let k := s.stores[store]
  .next (if k.words.isEmpty ∨ k.halted.isSome then s
    else match k.fetch cond flips with
      | .error e => s.halts store e
      | .ok (a, n) =>
        let s1 := s.modStore store fun x => { x with addr := a, corrected := if n = 0 then x.corrected else x.corrected + 1 }
        if n = 0 then s1 else s1.raise (200 + 16 * (storeDie store).val))

/-- CONTROL_STORE_SCRUB: every word found in error is rewritten from the image store, and logged (R385). -/
def execControlStoreScrub (upsets : List StoreUpset) (s : State) : Host.Outcome State Fault Refusal :=
  .next (upsets.foldl (fun a u => if u.flips = 0 ∨ (a.stores[u.store]).words.isEmpty then a else a.raise (200 + 16 * (storeDie u.store).val)) s)

/-! ### Faults (Table 1.9, R38, R39, R263) -/

/-- STACK_LOST. -/
def execStackLost (k : Fin 4) (s : State) : Host.Outcome State Fault Refusal :=
  .next (if (s.hbm[k]).lost then s
    else (((s.modStack k fun x => { x with lost := true }).raise (36 + 8 * k.val)).faultDie (dieOfStack k)).sealsGo)

/-- Whether a command cannot be served with the UCIe link down: it names a station of die 1, or is port 1's and names any, or crosses
the dies otherwise (R16, Table 1.9). -/
def crossesDies (r : CmdRef) (c : Cmd) : Bool :=
  ([4, 5, 6, 7] : List Stn).any (fun st => c.names st) || (r.port == 1 && c.entry.stn.toNat < 8)
    || ((c.entry.opc == 0x8F || c.entry.opc == 0x90) && c.entry.stn == 0xFF) || entryCrosses c.entry r.port c.entry.opc.toNat

/-- UCIE_LINK_DOWN: die 1 reaches neither vault, ledger nor interlocking; its stations stop, numbers taken there and not written are
burned, and its fault event is raised (R38, R39, Table 1.9) (DEDUCED, log 138). -/
def execUcieLinkDown (s : State) : Host.Outcome State Fault Refusal :=
  .next (if s.ucieDown then s
    else
      let s1 := { s with ucieDown := true }
      let s2 := s1.finishAll ((s1.allCmds.filter fun c => crossesDies c.1 c.2).map (·.1)) (.st 0xC)
      let s3 := ([4, 5, 6, 7] : List Stn).foldl (fun a st => ((a.controlledStop st).failStation st).burnUnwritten st) s2
      (([0, 1, 2, 3] : List Stn).foldl (fun a st => a.endReading st) s3).raise 214 |>.sealsGo)

/-- UCIE_LINK_RETRAIN: within link-level retry only its event is seen (R413). -/
def execUcieLinkRetrain (d : DieId) (s : State) : Host.Outcome State Fault Refusal := .next (s.raise (199 + 16 * d.val))

/-- DRBG_HEALTH_FAIL: the DRBG halts until a cold reset (R263). -/
def execDrbgHealthFail (s : State) : Host.Outcome State Fault Refusal := .next ({ s with vault := { s.vault with halted := true } }.raise 8)

end Sys2Proof.Machine
end

