-- ==== Sys2Proof/Machine/HostIo.lean ====
section
/-!
DEFINITION. The commands of the I/O queues (10, Records, Ordering): APPEND, READ, LOCATE, FLUSH, ORDER_FENCE, VERIFY, SEAL.
MIGRATE is in Machine/Volumes.lean.
-/
namespace Sys2Proof.Machine

/-- APPEND 0x01 (R337 to R340, R143, R163, R468 to R470). -/
def execAppend (c : HostCmd) (s : State) : Host.Outcome State Fault Refusal :=
  .next (
    if s.atLonLimit c then s.hold c (.lonLimit c.entry.st)
    else
      let s1 := s.host 0x01 c (appendOwn c) (appendBlocked c) (State.runAppend c)
      if s.firstBecomesGap c then s1.gapLon c else s1)

/-- READ 0x02 (R331, R343, R344, R346). -/
def execRead (c : HostCmd) (s : State) : Host.Outcome State Fault Refusal :=
  .next (s.host 0x02 c (readerOwn c) (readerBlocked c) (State.runReader c))

/-- LOCATE 0x03 (R331, R343, R344, R346). -/
def execLocate (c : HostCmd) (s : State) : Host.Outcome State Fault Refusal :=
  .next (s.host 0x03 c (readerOwn c) (readerBlocked c) (State.runReader c))

/-- Check 7 of a FLUSH or SEAL: a blank mount holds no volume yet (R334). -/
def flushOwn (c : HostCmd) (s : State) : Option Ending :=
  if (s.stns[c.entry.st]).ctx.isNone ∨ (s.stns[c.entry.st]).mount.any (fun m => m.mode == .blank) then some (.st 5) else none

/-- FLUSH 0x04 (R138, R139, R345). -/
def execFlush (c : HostCmd) (s : State) : Host.Outcome State Fault Refusal :=
  .next (s.host 0x04 c (flushOwn c) unblocked fun s => s.launch c (Cmd.start c s.clock .flushing) State.startFlush)

/-- ORDER_FENCE 0x05 (R342). -/
def execOrderFence (c : HostCmd) (s : State) : Host.Outcome State Fault Refusal :=
  .next (s.host 0x05 c (fun _ => none) unblocked fun s => (s.addCmd c (Cmd.start c s.clock .moving)).fenceGo c.port c.qid)

/-- VERIFY 0x06 (R331, R332, R343, R344). -/
def execVerify (c : HostCmd) (s : State) : Host.Outcome State Fault Refusal :=
  .next (s.host 0x06 c (readerOwn c) (readerBlocked c) (State.runReader c))

/-- Checks 7 and 8 of SEAL: a volume mounted for appending that is not sealed and not being sealed by another SEAL (R142), and a
DRBG that has not halted, for the hedged signature (R263). -/
def sealOwn (c : HostCmd) (s : State) : Option Ending :=
  let t := s.stns[c.entry.st]
  let ok := t.mount.any (fun m => m.mode == .append)
    && t.ctx.any fun v => !v.faulted && !v.closureBad && v.state == .unsealed && v.sealCmd.isNone
  if !ok then some (.st 5) else if s.vault.halted then some (.st 0xB) else none

/-- SEAL 0x08 (R142, R270, R273). -/
def execSeal (c : HostCmd) (s : State) : Host.Outcome State Fault Refusal :=
  .next (s.host 0x08 c (sealOwn c) unblocked fun s => (s.sealNow c.entry.st).launch c (Cmd.start c s.clock .sealing) State.startSeal)

end Sys2Proof.Machine
end

