-- ==== Sys2Proof/Machine/LinkCmds.lean ====
section
/-!
DEFINITION. The rows of the Swiosh link (06): frames, containers, CTRL responses, lanes, link loss and recovery.
-/
namespace Sys2Proof.Machine

/-- UPSTREAM_FRAME (R169, R175, R176, R190, R199). -/
def execUpstreamFrame (st : Stn) (lane : Lane) (line : RxFrame) (s : State) : Host.Outcome State Fault Refusal :=
  .next (s.rxFrame st lane line)

/-- DOWNSTREAM_FRAME (R172, R177, R178, R191). -/
def execDownstreamFrame (st : Stn) (lane : Lane) (ncell : Nat) (s : State) : Host.Outcome State Fault Refusal :=
  .next (s.txFrame st lane ncell)

/-- SIDEBAND_CONTAINER (R179, R182). -/
def execSidebandContainer (st : Stn) (slot : BitVec 16) (s : State) : Host.Outcome State Fault Refusal :=
  .next (s.container st slot)

/-- HEAD_END_RESPONSE (R192, R193): a response answers the request sent with its TAG; any other message does nothing. -/
def execHeadEndResponse (st : Stn) (msg : BitVec 64) (s : State) : Host.Outcome State Fault Refusal :=
  .next (match (s.stns[st]).link.reqs.find? (fun r => r.sent && r.tag == msg.extractLsb' 56 6) with
    | some r => if bits msg 62 2 = 3 then s.answer st r (msg.getLsbD 32) (msg.extractLsb' 0 32) else s
    | none => s)

/-- LANE_DOWN (R186). -/
def execLaneDown (st : Stn) (lane : Lane) (s : State) : Host.Outcome State Fault Refusal := .next (s.laneDown st lane)

/-- LANE_TRAINING_DONE (R168, R185, R193). -/
def execLaneTrainingDone (st : Stn) (lane : Lane) (ok : Bool) (upNs downNs : Nat) (s : State) : Host.Outcome State Fault Refusal :=
  .next (s.laneTrained st lane ok upNs downNs)

/-- LANE_TRAINING_RETRY (R186). -/
def execLaneTrainingRetry (st : Stn) (lane : Lane) (s : State) : Host.Outcome State Fault Refusal := .next (s.laneRetry st lane)

/-- LINK_LOSS (R187): lanes 0 and 1 are both down, or 16 frame periods have gone without a good frame; the time is the outside's
to know (log 15). A link that is lost already is not lost again. A power-state entry goes on. -/
def execLinkLoss (st : Stn) (s : State) : Host.Outcome State Fault Refusal :=
  .next (if (s.stns[st]).link.lost then s else (((s.count st 0 [28]).raise (64 + 16 * st.val)).loseLink st).powerGo)

/-- LINK_RECOVERED (R187, R245): lane 0 or 1 is up and the head-end reports rest. -/
def execLinkRecovered (st : Stn) (s : State) : Host.Outcome State Fault Refusal :=
  let k := (s.stns[st]).link
  .next (if k.lost && k.atRest && ((k.lanes[(0 : Fin 16)]).up || (k.lanes[(1 : Fin 16)]).up) then
      (s.modStn st fun t => t.modLink fun k => { k with lost := false }).holdExit st
    else s)

end Sys2Proof.Machine
end

