-- ==== Sys2Proof/Machine/Motion.lean ====
section
/-!
DEFINITION. The rows of servo and motion control (07): samples, missing data, LPOS, set-points, ramps, and the closing of the
loops. A row whose condition the state shows checks it; times are the outside's to know (logs 1 and 15).
-/
namespace Sys2Proof.Machine

/-- LATERAL_SAMPLE (R217 to R221, R225, R232, R237, R238, R241). Its LPOS count shows where a run back turns round. -/
def execLateralSample (st : Stn) (s : State) : Host.Outcome State Fault Refusal := .next ((s.lateral st).turnRound st)

/-- WRITE_INHIBIT_END (R241): 16 consecutive samples within WINH_LIM. -/
def execWriteInhibitEnd (st : Stn) (s : State) : Host.Outcome State Fault Refusal :=
  let v := (s.stns[st]).servo
  .next (if v.inhibit ∧ v.within ≥ 16 then s.modStn st fun t => t.modServo fun v => { v with inhibit := false } else s)

/-- LATERAL_SETTLED (R240): 256 consecutive samples within WINH_LIM, none of them from before the last ramp began or the last swap
of the lateral bank acted (Table 4.7; DEDUCED, log 118). -/
def execLateralSettled (st : Stn) (s : State) : Host.Outcome State Fault Refusal :=
  .next (if (s.stns[st]).servo.calm ≥ 256 then s.modStn st fun t => t.modServo fun v => { v with settled := true } else s)

/-- MISS_WINH (Table 7.11). -/
def execMissWinh (st : Stn) (s : State) : Host.Outcome State Fault Refusal :=
  .next (if (s.stns[st]).servo.missSrv ≥ s.img.missWinh st.val then (s.count st 0 [24]).inhibitWrite st else s)

/-- MISS_STOP (Table 7.11, R221). -/
def execMissStop (st : Stn) (s : State) : Host.Outcome State Fault Refusal :=
  let v := (s.stns[st]).servo
  .next (if v.missSrv ≥ s.img.missStop st.val ∧ v.motion = .moving then ((s.count st 0 [25]).controlledStop st).loseLpos st else s)

/-- REEL_SAMPLE (R222, R227, R233, R236). -/
def execReelSample (st : Stn) (s : State) : Host.Outcome State Fault Refusal := .next (s.reel st)

/-- REEL_MISS_STOP (Table 7.11). -/
def execReelMissStop (st : Stn) (s : State) : Host.Outcome State Fault Refusal :=
  .next (if (s.stns[st]).servo.missReel ≥ 8 then s.controlledStop st else s)

/-- AUX_SAMPLE (R234). -/
def execAuxSample (st : Stn) (s : State) : Host.Outcome State Fault Refusal := .next (s.auxSample st)

/-- LPOS_WORD (R220, R221): the 48 bits of a word have been collected. Gatherings that waited for LPOS are laid out. -/
def execLposWord (st : Stn) (s : State) : Host.Outcome State Fault Refusal :=
  .next (if (s.stns[st]).servo.lposBits.length = 48 then (s.lposTake st).settle st else s)

/-- LPOS_LOST (R221): three words in a row that differ from the count, or 256 frames without a valid sample. -/
def execLposLost (st : Stn) (s : State) : Host.Outcome State Fault Refusal :=
  let v := (s.stns[st]).servo
  .next (if v.lposMiss ≥ 3 ∨ v.missSrv ≥ 256 then s.loseLpos st else s)

/-- KAPPA_UPDATE (R222, Table 7.4). -/
def execKappaUpdate (st : Stn) (takeUp : Bool) (servoLen : Nat) (s : State) : Host.Outcome State Fault Refusal :=
  .next (s.kappa st takeUp servoLen)

/-- BANK_SWAP_TIMEOUT (R242): a pending swap takes effect at a reel-period boundary; the reel loop has no banks (R244). -/
def execBankSwapTimeout (st : Stn) (loop : LoopId) (s : State) : Host.Outcome State Fault Refusal :=
  .next (match loop with
    | .reel => s
    | .lateral => s.modStn st fun t => t.modServo fun v => { v with
        lateral := v.lateral.takeSwap, settled := v.settled && !v.lateral.swap, calm := if v.lateral.swap then 0 else v.calm }
    | .skew => s.modStn st fun t => t.modServo fun v => { v with skewL := v.skewL.takeSwap }
    | .aux => s.modStn st fun t => t.modServo fun v => { v with aux := v.aux.takeSwap })

/-- RAMP_DONE (R236, R245, R247). -/
def execRampDone (st : Stn) (s : State) : Host.Outcome State Fault Refusal := .next (s.rampDone st).powerGo

/-- A mount whose loops have closed reads for an endpaper (R334, Table 8.6): the tape runs to the start of wrap 0. -/
def State.mountReads (s : State) (st : Stn) (r : CmdRef) : State :=
  let s1 := s.modCmd r fun k => { k with phase := .readEndpaper }
  ((s1.aim st 0 0).rampTo st .locate (ladder 0)).modStn st fun t => { t with
    servo := { t.servo with setStep := 0 }, link := t.link.startReading s.img, readSide := { Recall.reset with active := true } }

/-- A MOUNT whose loops have closed goes on: it looks for an endpaper, or it has one already (R244). -/
def State.mountTensioned (s : State) (st : Stn) (r : CmdRef) : State :=
  match s.cmd? r, (s.stns[st]).ctx with
  | some k, some v => s.mountOn st r k v
  | _, _ => s.mountReads st r

/-- TENSIONED (R246): the tension error has stayed within 5 % for 100 ms. What waited for the loops goes on. -/
def execTensioned (st : Stn) (s : State) : Host.Outcome State Fault Refusal :=
  let t := s.stns[st]
  .next (if !t.servo.closing then s
    else
      let s1 := s.modStn st fun t => t.modServo fun v => { v with motion := .tensioned, closing := false, ramp := none, vRef := 0 }
      match t.mountCmd with
      | some r => if (s1.cmd? r).any fun k => k.phase == .threading then s1.mountTensioned st r else s1.serveSeek st
      | none => (s1.serveSeek st).powerGo)

/-- TENSION_TIMEOUT (R246): a station not Tensioned within 5 s returns to Open, and its MOUNT completes with 0x0C. Where the
loops closed for a reader, the spec names no other effect: the reader goes on waiting (log 39). -/
def execTensionTimeout (st : Stn) (s : State) : Host.Outcome State Fault Refusal :=
  let t := s.stns[st]
  .next (if !t.servo.closing then s
    else
      let s1 := s.openLoops st
      match t.mountCmd with
      | some r => if (s1.cmd? r).any fun k => k.phase == .threading then (s1.dismount st).finish r (.st 0xC) else s1
      | none => s1.powerGo)

end Sys2Proof.Machine
end

