-- ==== Sys2Proof/Machine/PageReads.lean ====
section
/-!
DEFINITION. PAGE_READ and what its consumers make of the poison mark (09, R287, R291, R292, Table 9.3).
-/
namespace Sys2Proof.Machine

/-- The first poisoned beat of a page that has bytes among those from `lo` to below `hi`, the page's first byte being byte `ofs`. -/
def firstBeat (m : BitVec 64) (ofs lo hi : Nat) : Option Nat :=
  (List.range 64).find? fun i => m.getLsbD i && decide (lo < ofs + 64 * i + 64) && decide (ofs + 64 * i < hi)

/-- Whether a page read serves the data of a READ: one that waits for the record that the station's decompression lane is decoding,
from a buffer of the station's die (R1, R13, R20). -/
def State.servesRead (s : State) (a : PageAddr) (r : CmdRef) (k : Cmd) : Bool :=
  let st := k.entry.st
  k.entry.opc == 2 && ((s.readersOf st).any fun c => c.1 == r) && s.jobRuns (dieOf st) rDecomp (.decompress st (k.entry.cd 0 8))
    && a.region == .pool && dieOfStack a.stack == dieOf st

/-- READ data reaches its first poisoned beat: the record's bytes before it are sent, its TLP goes out with EP, no further byte is sent, and
the READ completes with 0x08. `ofs` is the record offset of the page's first byte. A beat that is no part of what the READ sends
has no such effect; the bytes sent are those of the record, of gatherings whose tags have passed (R1, R20). -/
def State.readPoisoned (s : State) (a : PageAddr) (r : CmdRef) (ofs : Nat) (g : PageImg) : State :=
  match s.cmd? r with
  | none => s
  | some k =>
    let st := k.entry.st
    let data := ((s.stns[st]).readSide.check (k.entry.cd 0 8)).data
    let rofs := k.entry.cd 8 8
    let sent := (data.take (rofs + k.entry.dlen.toNat)).drop rofs
    match (if s.servesRead a r k then firstBeat g.poison ofs rofs (rofs + sent.length) else none) with
    | none => s
    | some i =>
      let at_ := max (ofs + 64 * i) rofs
      let s1 := s.sendData r.port k.entry k.sgl 0 (sent.take (at_ - rofs)) false
      let s2 := s1.sendData r.port k.entry k.sgl (at_ - rofs) ((sent.drop (at_ - rofs)).take (ofs + 64 * i + 64 - at_)) true
      (s2.finish r { status := 8, lon := k.entry.cd 0 8, aux0 := at_ }).endReading st

/-- A consumer meets the mark on a page just read (Table 9.3). -/
def State.consume (s : State) (a : PageAddr) (g : PageImg) (c : Consumer) : State :=
  match c with
  | .copyOnly => s
  | .readData p q tag ofs => s.readPoisoned a ⟨p, q, tag⟩ ofs g
  | .otherHostData p q tag =>
    (match s.cmd? ⟨p, q, tag⟩ with
    | none => s
    | some k => if k.entry.opc = 0x80 ∨ k.entry.opc = 0x84 then s.sendAdmin ⟨p, q, tag⟩ true
      else s.modCmd ⟨p, q, tag⟩ fun k => { k with poisoned := true })
  | .compressionInput st lon block =>
    ((s.modRec st lon fun r => { r with blocks := modAt r.blocks block fun b => { b with poisoned := true } }).abandonRec st lon .lost).settle st
  | .assemblyBlock st lon => (s.abandonRec st lon .lost).settle st
  | .releasedGathering st gnum => s.burnReleased st gnum
  | .rewriteCopy st gnum row => s.modStn st fun t => t.modWrite fun w => w.rowPoisoned gnum row
  | .recallArea st gnum => s.modStn st fun t => t.modRecall fun k => { k with
      gaths := k.gaths.map fun x => if x.gnum = gnum ∧ x.plain.isNone then { x with whole := true } else x }
  | .plaintext st lon => s.modStn st fun t => t.modRecall fun k => { k with
      poisoned := lon :: k.poisoned }
  | .migratePlaintext st lon =>
    (match s.migs.find? fun j => !j.stopped && j.src == st with
    | some j => s.migStop j 8 3 (some lon) (s.migResume j) (firstLast ((s.stns[st]).readSide.found lon).gaths)
    | none => s)
  | .volumeContext st l =>
    let b := mirrorOf a
    let m := s.readPage b l 1 (s.page b).handle (5 + st.val)
    if m.1.poison ≠ 0 then m.2.loseContext st
    else (m.2.setPage a { m.1 with wgen := (m.2.page a).wgen + 1 }).raise (37 + 8 * a.stack.val) a.name
  | .traceSpill d q => s.dropWord d q

/-- PAGE_READ (R27, R287, R290 to R294, R307), as the arbiter grants it (log 135): the page goes to its consumer with its poison mark; a stale access returns every beat with
the mark. -/
def execPageRead (a : PageAddr) (handle : BitVec 32) (actor : Nat) (l : PageLine) (c : Consumer) (s0 : State) : Host.Outcome State Fault Refusal :=
  if !a.exists then .fault .noSuchPage
  else
    let s := s0.takeSlot a
    let r := s.readPage a l 1 handle actor
    let stale := s.staleAccess a handle
    let s1 := if stale then r.2.logStale a handle actor else r.2
    let g := if stale then { r.1 with poison := allPoison } else r.1
    .next (if g.poison = 0 then s1 else s1.consume a g c)

end Sys2Proof.Machine
end

