-- ==== Sys2Proof/Machine/Pipeline.lean ====
section
/-!
DEFINITION. The rows of the engines (01, 04, 05): dispatch and lane faults, the hash, compression and crypto jobs of the write
side, and the right-away check.
-/
namespace Sys2Proof.Machine

/-! ### Engine regions (R18, R19, R36, R37) -/

/-- The number of a region in the order of Table 1.2. -/
def regionNum : Region → Fin 4
  | .hash => rHash
  | .compression => rComp
  | .decompression => rDecomp
  | .crypto => rCrypto

/-- Lanes of a region of a die, and lanes of one of its groups (Table 1.2). -/
def laneCount : Region → Nat
  | .hash => 24
  | _ => 8
def groupSize : Region → Nat
  | .hash => 8
  | _ => 4

/-- Whether a lane is in service: neither it nor its group is fenced (R36, R37). -/
def Engine.serves (e : Engine) (r : Region) (l : Nat) : Bool := !e.fenced.contains l && !e.groups.contains (l / groupSize r)

/-- A lane that can take a job. -/
def Engine.freeLane (e : Engine) (r : Region) : Option Nat :=
  (List.range (laneCount r)).find? fun l => e.serves r l && !e.running.any fun x => x.1 == l

/-- Whether a job feeds its station's write side. -/
def JobKind.feeds : JobKind → Bool
  | .hash _ _ | .compress _ _ | .encrypt _ _ => true
  | .decrypt _ _ | .decompress _ _ | .fixity _ _ => false

/-- The dispatch class of a job now (R19). -/
def State.jobClass (s : State) (j : Job) : Nat :=
  let t := s.stns[j.stn]
  if j.kind.feeds && t.ctx.isSome && s.occupancy j.stn < s.img.low then 1
  else if s.migrating j.stn then 2 else 3

/-- The record of a station that has a LON. -/
def State.rec? (s : State) (st : Stn) (lon : Nat) : Option Rec := (s.stns[st]).ctx.bind fun v => v.rec? lon

/-- Whether a compression job has room for its next block (R160); one that emits blocks again, and other jobs, need none. -/
def State.jobRoom (s : State) (j : Job) : Bool :=
  match j.kind with
  | .compress st lon => (s.rec? st lon).all fun r => r.redo.isSome || r.stream.length + 131075 ≤ r.outCap
  | _ => true

/-- The lane that a compression job ran on last: that of its last block (R156). -/
def Rec.lastLane (r : Rec) : Option Nat := ((r.blocks.take (r.redo.getD r.blocks.length)).getLast?).map (·.lane)

/-- The lane that a region gives a job. A compression job goes back to its previous lane, and to another one only when that one is
fenced or has taken a job of a higher class (R156). -/
def State.laneFor (s : State) (d : DieId) (r : Region) (j : Job) : Option Nat :=
  let e := (s.dies[d]).engines[regionNum r]
  let last := match j.kind with
    | .compress st lon => ((s.rec? st lon).bind Rec.lastLane).filter (e.serves r)
    | _ => none
  match last with
  | none => e.freeLane r
  | some l => match e.running.find? fun x => x.1 == l with
    | none => some l
    | some x => if s.jobClass x.2 < s.jobClass j then e.freeLane r else none

/-- The job that a region dispatches next, of those that have a lane and room: the lowest class, then the oldest, in the order of the
wait (R19). -/
def State.nextJob (s : State) (d : DieId) (r : Region) : Option Job :=
  (((s.dies[d]).engines[regionNum r].waiting).filter fun j => s.jobRoom j && (s.laneFor d r j).isSome).foldl (fun a j => match a with
    | none => some j
    | some b => if s.jobClass j < s.jobClass b ∨ (s.jobClass j = s.jobClass b ∧ j.age < b.age) then some j else some b) none

/-- A recall that a job's second fault ends: the readers it serves, a MIGRATE that reads the station and a MOUNT that looks for an
endpaper complete with status `n` (R36, R407). -/
def State.recallFails (s : State) (st : Stn) (hit : Cmd → Bool) (forMig : Bool) (lon n : Nat) : State :=
  let s1 := s.finishAll (((s.readersOf st).filter fun c => hit c.2).map (·.1)) (.st n)
  let s2 := match s1.migOf st with
    | some j => if forMig then s1.migStop j n 0 (some lon) (s1.migResume j) (0, 0) else s1
    | none => s1
  s2.endReading st

/-- A MOUNT that looks for an endpaper or rebuilds. -/
def State.mountReader (s : State) (st : Stn) : Option CmdRef :=
  ((s.mountIn st .readEndpaper) <|> (s.mountIn st .rebuilding)).map (·.1)

/-- The command that a label gathering is encrypted for completes with status `n`: the INIT_VOLUME or MIGRATE that waits for the
endpaper, or the SEAL or MIGRATE that closes the volume (R36). A data gathering has no command. -/
def State.labelFails (s : State) (st : Stn) (gnum n : Nat) : State :=
  let t := s.stns[st]
  match t.ctx, t.write.gaths.find? fun g => g.gnum == gnum with
  | some v, some g =>
    let mig := s.migs.find? fun j => !j.stopped && j.dst == st
    if !g.kind.label then s
    else match mig with
      | some j => s.migStop j n 0 none (s.migResume j) (0, 0)
      | none => match v.initCmd, v.sealCmd with
        | some c, _ => (s.finish c (.st n)).modStn st fun t => { t with mountCmd := none, ctx := t.ctx.map fun v => { v with initCmd := none } }
        | none, some c => (s.finish c (.st n)).modStn st fun t => t.modCtx fun v => { v with sealCmd := none }
        | none, none => s
  | _, _ => s

/-- A job that met a fenced lane for the second time: its command completes with 0x0C (`n`), or its record is abandoned where every
APPEND of it has completed (R36, R157). A gathering's numbers burn and its segments are packed again (DEDUCED, log 43). -/
def State.jobFails (s : State) (j : Job) (n : Nat) : State :=
  match j.kind with
  | .hash st lon =>
    let l := s.appendsOf st lon
    match (l.find? fun c => c.2.phase == .moving) <|> l.head? with
    | some c => ((s.untakeAppend c.1).finish c.1 (.st n)).sealGo st
    | none => (s.abandonRec st lon .lost).settle st
  | .compress st lon => (((s.finishAll ((s.appendsOf st lon).map (·.1)) (.st n)).abandonRec st lon .lost).sealGo st).settle st
  | .encrypt st g => ((s.labelFails st g n).burnFrom st g).settle st
  | .decrypt st _ => match s.mountReader st with
    | some r => s.mountFail st r (.st n)
    | none => s.recallFails st (fun _ => true) true 0 n
  | .decompress st lon | .fixity st lon =>
    let t := s.stns[st]
    (s.dropJobs fun k => k == .decompress st lon || k == .fixity st lon).recallFails st (fun k => t.wants k == some lon)
      ((s.migOf st).any fun m => m.phase == 3 && !s.migHas m lon) lon n

/-- A job sent to a region in reset fails at once: its command completes with 0x0E. One that no command waits on stays with its
data and is sent again (R407, DEDUCED, log 48). -/
def State.jobRefused (s : State) (j : Job) : State :=
  match j.kind with
  | .compress _ _ | .encrypt _ _ => s
  | _ => (s.dropJobs fun k => k == j.kind).jobFails j 0xE

/-- Whether a hash job has nothing left to hash: its record is gone, or abandoned with no APPEND outstanding (R18, log 71). -/
def State.hashOver (s : State) (k : JobKind) : Bool :=
  match k with
  | .hash st lon => (s.rec? st lon).all fun r => r.abandon.isSome && (s.appendsOf st lon).isEmpty
  | _ => false

/-- A job as its lane takes it: the key registers of a crypto lane are loaded with the volume key of its station (R252). -/
def State.loaded (s : State) (r : Region) (j : Job) : Job := if r = .crypto then { j with key := s.vault.slots[j.stn] } else j

/-- ENGINE_DISPATCH (R19): the next job takes a lane; a region in reset takes none (R407), and a crypto region that the key vault
cannot reach has none (R38, R252). -/
def execEngineDispatch (d : DieId) (r : Region) (s0 : State) : Host.Outcome State Fault Refusal :=
  let s := s0.dropJobs s0.hashOver
  let e := (s.dies[d]).engines[regionNum r]
  .next (if e.inReset then e.waiting.foldl (fun a j => a.jobRefused j) s
    else if r = .crypto ∧ d = 1 ∧ s.ucieDown then s
    else match s.nextJob d r with
      | none => s
      | some j => match s.laneFor d r j with
        | none => s
        | some l => s.modDie d fun x => x.modEngine (regionNum r) fun e =>
          { e with running := e.running ++ [(l, s.loaded r j)], waiting := dropFirst (· == j) e.waiting })

/-- Jobs rejoin the wait in their original order, for their one re-run (R36, R37). -/
def rejoin (l : List Job) (e : Engine) : Engine :=
  { e with waiting := sortBy (fun a b => a.ord ≤ b.ord) (e.waiting ++ l.map fun (j : Job) => { j with rerun := true, key := none }) }

/-- A re-run compression job starts from the record's first block that has no right-away mark; marked blocks stand (R157). -/
def State.startOver (s : State) (st : Stn) (lon : Nat) : State :=
  s.modRec st lon fun r =>
    let n := (r.blocks.takeWhile (·.marked)).length
    { r with rerun := true, redo := if n < r.blocks.length then some n else none }

/-- What a re-run asks of the record of its job. -/
def State.startRerun (s : State) (j : Job) : State :=
  match j.kind with
  | .compress st lon => s.startOver st lon
  | _ => s

/-- ENGINE_LANE_FAULT (R36, R37, R157, R158): the lane is fenced, and its group with a second one; the jobs they held are re-run
once. -/
def State.fenceLane (s : State) (d : DieId) (r : Region) (lane : Nat) : State :=
  let e := (s.dies[d]).engines[regionNum r]
  if lane ≥ laneCount r ∨ e.fenced.contains lane then s
  else
    let g := lane / groupSize r
    let whole := (e.fenced.any fun l => l / groupSize r == g) && !e.groups.contains g
    let hit := (e.running.filter fun x => x.1 == lane || (whole && x.1 / groupSize r == g)).map (·.2)
    let s1 := s.modDie d fun x => x.modEngine (regionNum r) fun e => rejoin (hit.filter fun j => !j.rerun)
      { e with fenced := e.fenced ++ [lane], groups := if whole then e.groups ++ [g] else e.groups,
               running := e.running.filter fun x => !(x.1 == lane || (whole && x.1 / groupSize r == g)) }
    let s2 := s1.raise (192 + 16 * d.val + (regionNum r).val) lane
    let s3 := if whole then s2.raise (196 + 16 * d.val) (4 * (regionNum r).val + g) else s2
    let s4 := (hit.filter fun j => !j.rerun).foldl State.startRerun s3
    (hit.filter (·.rerun)).foldl (fun a j => a.jobFails j 0xC) s4

/-- ENGINE_LANE_FAULT. -/
def execEngineLaneFault (d : DieId) (r : Region) (lane : Nat) (s : State) : Host.Outcome State Fault Refusal :=
  .next (s.fenceLane d r lane)

/-! ### Intake (R331, R340, R466, R468, R470) -/

/-- The result of a completed APPEND: with END the record's SHA-384, once (Table 10.6). -/
def State.endAppend (s : State) (r : CmdRef) (k : Cmd) (lon : Nat) (hash : Option (List Byte)) : State :=
  match hash with
  | some h => if k.entry.flag apEnd then s.finishWith r { status := 0, result := lon, lon := lon } h else s.finish r (.ok lon)
  | none => s.finish r (.ok lon)

/-- Whether the data of a record's APPENDs is still taken in its order: that of a record that R470 ends with a status of its own is not. -/
def Rec.counts (x : Rec) : Bool := x.abandon.all fun w => w == .fault || w == .breach

/-- INTAKE_DONE: the data of an APPEND has arrived and passed the hash lane (R331). Poisoned data ends it with 0x08, and its
record is abandoned (R340); a record that was abandoned while it moved ends it as R470 says, but after a breach of the declared size earlier
APPENDs complete as if it had not been (R163). -/
def State.intake (s : State) (r : CmdRef) (data : List Byte) (ep : Bool) : State :=
  match s.cmd? r with
  | none => s
  | some k =>
    let st := k.entry.st
    let d := dieOf st
    let rec? := (s.stns[st]).ctx.bind fun v => v.rec? k.lon
    if k.entry.opc ≠ 1 ∨ k.phase ≠ .moving ∨ data.length ≠ k.entry.dlen.toNat ∨ rec?.any (fun x => x.counts && x.accepted != k.count)
        ∨ !s.jobRuns d rHash (.hash st k.lon) then s
    else
      let s0 := if k.entry.flag apEnd then s.dropJobs fun j => j == .hash st k.lon else s
      match rec? with
      | none => s0.finish r (.st 2)
      | some x =>
        if ep then
          ((((s0.raise (227 + 8 * r.port.val)).finish r { status := 8, lon := k.lon, aux0 := k.count }).abandonRec st k.lon .lost).sealGo st).settle st
        else
          let s1 := match x.abandon with
            | none => s0.modRec st k.lon fun x =>
                let y := { x with accepted := x.accepted + data.length, input := x.input ++ data, complete := x.complete || k.entry.flag apEnd }
                if k.entry.flag apEnd then { y with hash := some (sha384 y.input) } else y
            | some .fault | some .breach => s0.modRec st k.lon fun x => { x with accepted := x.accepted + data.length, input := x.input ++ data }
            | some _ => s0
          match (x.abandon.filter (· != .breach)).bind Abandon.status with
          | some n => ((s1.finish r { status := n, lon := k.lon, aux0 := k.count }).sealGo st).settle st
          | none =>
            let s2 := if x.abandon.isNone then s1.addJob d rComp (s1.compressJob st k.lon) else s1
            let h := if k.entry.flag apEnd then some (sha384 (x.input ++ data)) else none
            (((s2.endAppend r k k.lon h).sealGo st).settle st)

/-- INTAKE_DONE (DEDUCED, log 71). -/
def execIntakeDone (p : Port) (q : Nat) (tag : BitVec 16) (data : List Byte) (ep : Bool) (s : State) : Host.Outcome State Fault Refusal :=
  .next (s.intake ⟨p, q, tag⟩ data ep)

/-! ### Compression and its check (R105, R108, R111, R112, R157, R160) -/

/-- Whether a job of a higher class waits that would get the lane of a job if that left it (R156; DESIGN CHOICE, log 134). -/
def State.yields (s : State) (d : DieId) (j : Job) (l : Nat) : Bool :=
  let a := s.backToWait d rComp j.kind
  ((s.dies[d]).engines[rComp].freeLane .compression).isNone && ((a.dies[d]).engines[rComp]).waiting.any fun w =>
    decide (a.jobClass w < a.jobClass j) && a.jobRoom w && a.laneFor d .compression w == some l

/-- After a block, the job leaves its lane until more bytes arrive, or gives way to one of a higher class, or goes on; one that is short
of room asks for sidings first, and leaves when it has to wait for one (R156, R160). -/
def State.afterBlock (s : State) (st : Stn) (lon : Nat) : State :=
  let k := JobKind.compress st lon
  let d := dieOf st
  match s.rec? st lon with
  | none => s.dropJobs (· == k)
  | some r =>
    if r.nextBlock.isNone && r.redo.isNone then s.dropJobs (· == k)
    else match (s.dies[d]).engines[rComp].running.find? fun x => x.2.kind == k with
      | some x => if s.yields d x.2 x.1 then s.backToWait d rComp k else s
      | none => s

/-- The lane that a job runs on. -/
def Engine.laneOf (e : Engine) (k : JobKind) : Option Nat := (e.running.find? fun x => x.2.kind == k).map (·.1)

/-- BLOCK_EMIT: the compression lane finishes the next block of a record, and assembly packs what is ready (R105); a re-run emits the
blocks that have no mark again, with the bytes they had (R154, R157). -/
def execBlockEmit (st : Stn) (lon : Nat) (s : State) : Host.Outcome State Fault Refusal :=
  .next (match s.rec? st lon, (s.dies[dieOf st]).engines[rComp].laneOf (.compress st lon) with
    | none, _ | _, none => s
    | some r, some l =>
      match r.redo with
      | some i => (s.modRec st lon fun r => { r with
          blocks := modAt r.blocks i fun b => { b with lane := l }
          redo := if i + 1 < r.blocks.length then some (i + 1) else none }).afterBlock st lon
      | none =>
        if decide (r.outCap < r.stream.length + 131075) || r.abandon.isSome then s
        else match r.emitBlock l with
        | none => s.afterBlock st lon
        | some b =>
          let s1 := (s.modRec st lon fun r => { r with blocks := r.blocks ++ [b] }).modStn st fun t => t.modSpeed fun x =>
            { x with fed := x.fed ++ [(s.clock, b.bytes.length)], taken := x.taken ++ [(s.clock, b.len, b.bytes.length)] }
          (s1.afterBlock st lon).settle st)

/-- Whether the lane has emitted a block, in a re-run that is under way too: only then is it checked (R108, R157). -/
def Rec.emitted (r : Rec) (block : Nat) : Bool := r.redo.all (block < ·)

/-- RIGHT_AWAY_MARK: a block equals its input, and gatherings that now qualify are released (R108). -/
def execRightAwayMark (st : Stn) (lon : Nat) (block : Nat) (s : State) : Host.Outcome State Fault Refusal :=
  .next (((s.modRec st lon fun r => { r with
    blocks := if r.emitted block then modAt r.blocks block fun b => { b with marked := b.marked || !b.poisoned } else r.blocks }).releaseAll st).settle st)

/-- Where a block's bytes begin in its record's stream. -/
def Rec.blockOfs (r : Rec) (n : Nat) : Nat := (r.blocks.take n).foldl (fun a b => a + b.bytes.length) 0

/-- Whether some of a list of segments hold a byte of a record's stream. -/
def holds (l : List Seg) (lon ofs : Nat) : Bool := l.any fun g => g.lon == lon && g.offset ≤ ofs && ofs < g.offset + g.len

/-- A Raw_Block has failed its check: the lane that emitted it is faulty (R111), and where the record's job does not run on it any
more, that job is re-run all the same, or fails (R36). -/
def State.rawFails (s : State) (st : Stn) (lon lane : Nat) : State :=
  let d := dieOf st
  let k := JobKind.compress st lon
  let s1 := s.fenceLane d .compression lane
  if (s.dies[d]).engines[rComp].laneOf k = some lane then s1
  else if (s.rec? st lon).any (·.rerun) then (s1.dropJobs (· == k)).jobFails (s.compressJob st lon) 0xC
  else let s2 := (s1.dropJobs (· == k)).startOver st lon; s2.addJob d rComp (s2.compressJob st lon)

/-- CHECK_FAIL (R111, R112, Table 4.2): a Raw_Block takes the block's place, and what holds its first byte and everything packed
after it is packed again. A Raw_Block that fails is a lane fault (R36); a poisoned block is passed through (R141). -/
def execCheckFail (st : Stn) (lon : Nat) (block : Nat) (s : State) : Host.Outcome State Fault Refusal :=
  .next (match (s.stns[st]).ctx with
    | none => s
    | some v =>
      match v.rec? lon with
      | none => s
      | some r =>
        match r.blocks[block]? with
        | none => s
        | some b =>
          let raw := dressBlock { r with blocks := r.blocks.take block } b.start b.last (rawBlock r.input b.start (b.start + b.len) b.last)
          if b.marked || b.poisoned || r.abandon.isSome || !r.emitted block then s
          else if b.bytes = raw then s.rawFails st lon b.lane
          else
            let ofs := r.blockOfs block
            let w := (s.stns[st]).write
            let s1 := match w.gaths.find? fun g => !g.released && holds g.segs lon ofs with
              | some g => s.burnFrom st g.gnum
              | none => if holds w.openSegs lon ofs then s.burnFrom st v.gnum else s
            (s1.modRec st lon fun r => { r with blocks := modAt r.blocks block fun b => { b with bytes := raw } }).settle st)

/-! ### Encryption (R113) -/

/-- ENCRYPTION_DONE: the crypto lane has encrypted a gathering, or authenticated a label gathering, and computed TAG. -/
def execEncryptionDone (st : Stn) (gnum : Nat) (s : State) : Host.Outcome State Fault Refusal :=
  .next (if !s.jobRuns (dieOf st) rCrypto (.encrypt st gnum) then s
    else
      let key := s.jobKey (dieOf st) (.encrypt st gnum)
      let s1 := (s.dropJobs fun j => j == .encrypt st gnum).modStn st fun t =>
        match t.ctx with
        | none => t
        | some v => t.modWrite fun w => { w with gaths := w.gaths.map fun g => if g.gnum = gnum ∧ !g.encrypted then sealGath key v g else g }
      (s1.releaseAll st).settle st)

end Sys2Proof.Machine
end

