-- ==== Sys2Proof/Machine/Queues.lean ====
section
/-!
DEFINITION. The rows of the host queues (10; 14, R438): queue pairs, doorbells, completions, and the commands that send data about the
device.
-/
namespace Sys2Proof.Machine

/-- IDENTIFY 0x80 (R331, R358). -/
def execIdentify (c : HostCmd) (s : State) : Host.Outcome State Fault Refusal :=
  .next (s.host 0x80 c (identOwn c) unblocked fun s => s.launch c (Cmd.start c s.clock .needBuffer) State.startAdmin)

/-- GET_LOG 0x84 (R333, R356, R357, R403). -/
def execGetLog (c : HostCmd) (s : State) : Host.Outcome State Fault Refusal :=
  .next (s.host 0x84 c (logOwn c) unblocked fun s => s.launch c (Cmd.start c s.clock .needBuffer) State.startAdmin)

/-! ### CREATE_QP, DELETE_QP, RESET_QP -/

/-- The checks of R350 in order. -/
def createOwn (c : HostCmd) (s : State) : Option Ending :=
  let e := c.entry
  let q := e.cd 0 2
  if q < 1 ∨ q > 511 then some (.st 2)
  else if e.cd 2 2 < 2 ∨ e.cd 2 2 > 4096 then some (.st 2)
  else if e.cd 4 2 ≥ s.img.nvec c.port.val then some (.st 2)
  else if e.cd 8 8 % 4096 ≠ 0 ∨ e.cd 0x10 8 % 4096 ≠ 0 then some (.st 2)
  else if ((s.ports[c.port]).qp? q).isSome then some (.st 0xE) else none

/-- CREATE_QP 0x81 (R350). -/
def execCreateQp (c : HostCmd) (s : State) : Host.Outcome State Fault Refusal :=
  .next (s.host 0x81 c (createOwn c) unblocked fun s =>
    let e := c.entry
    let x := Qp.fresh (e.cd 0 2) (e.cd 2 2) (BitVec.ofNat 64 (e.cd 8 8)) (BitVec.ofNat 64 (e.cd 0x10 8)) (e.cd 4 2)
    (s.modPort c.port fun h => { h with qps := h.qps ++ [x] }).finishNew c (.ok 0))

/-- Checks of DELETE_QP (R349): the admin queue is not among the queues it may name. -/
def deleteOwn (c : HostCmd) (s : State) : Option Ending :=
  let q := c.entry.cd 0 2
  match (s.ports[c.port]).qp? q with
  | none => some (.st 2)
  | some x =>
    if q = 0 then some (.st 2)
    else if !x.cmds.isEmpty ∨ !x.done.isEmpty ∨ x.resetting.isSome then some (.st 0xE) else none

/-- DELETE_QP 0x82 (R339, R349). -/
def execDeleteQp (c : HostCmd) (s : State) : Host.Outcome State Fault Refusal :=
  .next (s.host 0x82 c (deleteOwn c) unblocked fun s =>
    let q := c.entry.cd 0 2
    ((s.abandonOpen c.port q).modPort c.port fun h => { h with qps := h.qps.filter fun x => x.id != q }).finishNew c (.ok 0))

/-- Checks of RESET_QP (R347, R349). -/
def resetOwn (c : HostCmd) (s : State) : Option Ending :=
  let q := c.entry.cd 0 2
  match (s.ports[c.port]).qp? q with
  | none => some (.st 2)
  | some x => if q = 0 then some (.st 2) else if x.resetting.isSome then some (.st 0xE) else none

/-- RESET_QP 0x83: steps 1 to 3 of R347; steps 4 and 5 follow when the FINAL entry is written. -/
def execResetQp (c : HostCmd) (s : State) : Host.Outcome State Fault Refusal :=
  .next (s.host 0x83 c (resetOwn c) unblocked fun s =>
    let q := c.entry.cd 0 2
    let s1 := (s.addCmd c (Cmd.start c s.clock .moving)).modQp c.port q fun x => { x with resetting := some (refOf c) }
    let s2 := (s1.abortQueue c.port q).dropGoneKeys c.port q
    s2.modQp c.port q fun x => { x with done := x.done ++ [
      { opc := 0, stn := 0, tag := 0, status := 0, result := 0, log := false, final := true, at_ := s.clock, sqhd := some x.sqHead, len := 0, kept := true, locks := false }] })

/-! ### Doorbells (R318, R319) -/

/-- A BAR0 access brings the port's link out of L1 (R436). -/
def State.touch (s : State) (p : Port) : State := s.modPort p fun h => { h with l1 := false }

/-- A doorbell write that is ignored raises the port's doorbell-error event (R318). -/
def State.badDoorbell (s : State) (p : Port) : State := s.raise (224 + 8 * p.val)

/-- Whether a doorbell may take a value: the queue exists and the index lies in it (R318); what is written above it is ignored (R9). -/
def doorbellOk (h : HostPort) (q : Nat) (v : BitVec 32) : Bool :=
  (h.qp? q).any fun x => bits v 0 16 < x.depth

/-- SQ_TAIL_WRITE. While a RESET_QP of the queue is in progress the write is ignored too (R318) (DEDUCED, log 68). -/
def execSqTailWrite (p : Port) (q : Nat) (v : BitVec 32) (s : State) : Host.Outcome State Fault Refusal :=
  .next (let s := s.touch p
    let h := s.ports[p]
    if !s.regAnswers p (0x1000 + 8 * q) then s
    else if !doorbellOk h q v ∨ (h.qp? q).any (fun x => x.resetting.isSome) then s.badDoorbell p
    else s.modQp p q fun x => { x with sqTail := bits v 0 16 })

/-- CQ_HEAD_WRITE. -/
def execCqHeadWrite (p : Port) (q : Nat) (v : BitVec 32) (s : State) : Host.Outcome State Fault Refusal :=
  .next (let s := s.touch p
    if !s.regAnswers p (0x1004 + 8 * q) then s
    else if !doorbellOk (s.ports[p]) q v then s.badDoorbell p
    else s.modQp p q fun x => { x with cqHead := bits v 0 16 })

/-- COMPLETION_WRITE (R319, R321, R322, R327, R328). -/
def execCompletionWrite (p : Port) (q : Nat) (s : State) : Host.Outcome State Fault Refusal := .next (s.writeDone p q)

/-! ### ADMIN_QUEUE_ENABLE (R438, R379) -/

/-- The first ERR code whose condition fails (Table 14.5). A base as the register holds it is always aligned: what is written to its
reserved low bits is ignored (R9; DEDUCED, log 136). -/
def State.aqCheck (s : State) (p : Port) : Nat :=
  let h := s.ports[p]
  if !s.answers p then 1
  else if !h.featAccept.getLsbD 0 ∨ (h.featAccept &&& ~~~s.featOffer) ≠ 0 then 2
  else if h.aqDepth.toNat < 2 ∨ h.aqDepth.toNat > 4096 then 3
  else if h.aqSqBase.toNat % 4096 ≠ 0 ∨ h.aqCqBase.toNat % 4096 ≠ 0 then 4 else 0

/-- ADMIN_QUEUE_ENABLE: a refused acceptance raises its event (Table 13.1). Where the register does not answer the write is
ignored (R436) (DESIGN CHOICE, log 97). -/
def execAdminQueueEnable (p : Port) (s : State) : Host.Outcome State Fault Refusal :=
  .next (let s := s.touch p
    let h := s.ports[p]
    if h.aqEn ∨ !s.regAnswers p 0x100 then s
    else match s.aqCheck p with
      | 0 => s.modPort p fun h => { h with aqEn := true, aqErr := 0, qps := [Qp.fresh 0 h.aqDepth.toNat h.aqSqBase h.aqCqBase 0], rr := 0 }
      | n =>
        let s1 := s.modPort p fun h => { h with aqErr := BitVec.ofNat 3 n }
        if n = 2 then s1.raise (225 + 8 * p.val) else s1)

end Sys2Proof.Machine
end

