-- ==== Sys2Proof/Machine/Stabled.lean ====
section
/-!
DEFINITION. RECOVER_STABLED and DISCARD_STABLED (12, R401 to R403, Table 12.6; 09, R314).
-/
namespace Sys2Proof.Machine

/-- Whether what a buffer holds is a station's. -/
def BufUse.ofStn (st : Stn) : BufUse → Bool
  | .other => false
  | .input x _ _ _ | .output x _ _ _ | .gathering x | .context x => x == st

/-- Whether a buffer holds a volume context, or a data area that may be recorded still (R402 items 1 and 4). -/
def BufUse.isKept : BufUse → Bool
  | .gathering _ | .context _ => true
  | _ => false

/-- One pool: of the stabled buffers of a station, those that `f` names go to the station, the others return (R314). -/
def State.unstablePool (s : State) (st : Stn) (f : BufUse → Bool) (d : DieId) (p : Fin 5) : State :=
  (((s.dies[d]).pools[p]).bufs.filter fun b => b.owners == [16] && b.holds.ofStn st).foldl (fun a b =>
    if f b.holds then a.modDie d fun x => x.modPool p fun q => q.setBuf { b with owners := [5 + st.val] }
    else a.returnBuf d p b.index) s

/-- Every stabled buffer of a station. -/
def State.unstable (s : State) (st : Stn) (f : BufUse → Bool) : State :=
  ([0, 1] : List DieId).foldl (fun a d => ([0, 1, 2, 3, 4] : List (Fin 5)).foldl (fun b p => b.unstablePool st f d p) a) s

/-- The LONs that are abandoned. -/
def Station.gone (t : Station) : List Nat :=
  match t.ctx with
  | some v => (v.recs.filter fun r => r.abandon.isSome).map (·.lon)
  | none => []

/-- A record as compression takes it up again: its marked blocks stay, and what never arrived is forgotten (Table 12.6). -/
def Rec.restart (r : Rec) : Rec := { r with blocks := r.blocks.takeWhile (·.marked), taken := r.accepted, redo := none, rerun := false }

/-- Jobs begin again: compression of every complete record that has blocks to come, and crypto of label gatherings. -/
def State.restartJobs (s : State) (st : Stn) : State :=
  let t := s.stns[st]
  match t.ctx with
  | none => s
  | some v =>
    let s1 := (v.recs.filter fun r => r.abandon.isNone && !r.framed).foldl (fun a r =>
      a.addJob (dieOf st) rComp (a.compressJob st r.lon)) s
    (t.write.gaths.filter fun g => !g.encrypted).foldl (fun a g =>
      a.addJob (dieOf st) rCrypto (Job.fresh (.encrypt st g.gnum) st s.clock)) s1

/-- A broken write state: the write fault comes first, and gatherings on tape whose acceptance can no longer be decided are given
up (R401, R128). -/
def State.brokenFault (s : State) (st : Stn) : State :=
  if !(s.stns[st]).broken then s
  else ((s.writeFault st).modStn st fun t => { t with
      broken := false
      write := { t.write with sent := [], rwq := [], gaths := t.write.gaths.filter fun g => !g.placed } }).settle st

/-- A station goes on from its saved write state: `lose` names the records that are abandoned (Table 12.6). Answers the LONs newly
abandoned, and whether a write fault was taken. -/
def State.unstableStn (s : State) (st : Stn) (keep : BufUse → Bool) (lose : Rec → Bool) : State × List Nat × Bool :=
  let t := s.stns[st]
  let was := t.gone
  let broken := t.broken
  let s1 := (s.unstable st keep).modStn st fun t => { t with
    stabled := false, resumes := true
    ctx := t.ctx.map fun v => { v with recs := v.recs.map fun r => (if r.abandon.isNone && lose r then r.abandonAs .discarded else r).restart } }
  let s2 := ((s1.brokenFault st).restartJobs st).settle st
  (s2, (s2.stns[st]).gone.filter fun n => !was.contains n, broken)

/-- The stations that a command names: one, or with 0xFF all, as far as they have stabled buffers. -/
def State.stabledStns (s : State) (e : Entry) : List Stn :=
  (match e.stn? with
    | some t => [t]
    | none => allStns).filter fun st => (s.stns[st]).stabled

/-- Both commands: station by station; 0x10 with the LONs logged where something is lost, where a write state was broken, or
always (`forced`), else 0x00 (DEDUCED, log 104). -/
def State.resolve (s : State) (r : CmdRef) (keep : BufUse → Bool) (lose : Rec → Bool) (forced : Bool) : State :=
  match s.cmd? r with
  | none => s
  | some c =>
    let l := s.stabledStns c.entry
    let x : State × List Nat × Bool := l.foldl (fun a st =>
      let y := a.1.unstableStn st keep lose
      (y.1, a.2.1 ++ y.2.1, a.2.2 || y.2.2)) (s, [], false)
    if x.2.1.isEmpty && (x.2.2 || (forced && !l.isEmpty)) then x.1.finish r (.st 0x10) else x.1.finishLosses r x.2.1 0

/-- A record that RECOVER_STABLED closes: its END has not been completed (Table 12.6). -/
def Rec.openAtReset (r : Rec) : Bool := !r.complete

/-- RECOVER_STABLED goes on: every stabled buffer is its station's again. -/
def State.startRecover (r : CmdRef) (s : State) : State := s.resolve r (fun _ => true) Rec.openAtReset false

/-- DISCARD_STABLED goes on: what has not left for a gathering that is kept is abandoned (Table 12.6). -/
def State.startDiscard (r : CmdRef) (s : State) : State := s.resolve r BufUse.isKept (fun x => x.openAtReset || !x.last) true

/-- RECOVER_STABLED. -/
def execRecoverStabled (c : HostCmd) (s : State) : Host.Outcome State Fault Refusal :=
  .next (s.host 0x8F c (fun _ => none) unblocked fun s => s.launch c (Cmd.start c s.clock .moving) State.startRecover)

/-- DISCARD_STABLED. -/
def execDiscardStabled (c : HostCmd) (s : State) : Host.Outcome State Fault Refusal :=
  .next (s.host 0x90 c (fun _ => none) unblocked fun s => s.launch c (Cmd.start c s.clock .moving) State.startDiscard)

end Sys2Proof.Machine
end

