-- ==== Sys2Proof/Machine/Volumes.lean ====
section
/-!
DEFINITION. The rows that mount, create, migrate and unmount volumes (08, 10), and the two rows on which waiting commands go on: a
ledger write (11, R368) and the exit to P0 (10, R352).
-/
namespace Sys2Proof.Machine

/-- MOUNT (R334). -/
def execMount (c : HostCmd) (cart : Cartridge) (s : State) : Host.Outcome State Fault Refusal :=
  .next (s.host 0x85 c (mountOwn c cart) unblocked fun s => s.launch c (Cmd.start c s.clock .queued) State.startMount)

/-- UNMOUNT (R335). -/
def execUnmount (c : HostCmd) (s : State) : Host.Outcome State Fault Refusal :=
  .next (s.host 0x86 c (unmountOwn c) unblocked fun s => s.launch c (Cmd.start c s.clock .flushing) State.startUnmount)

/-- INIT_VOLUME (R261, R336). -/
def execInitVolume (c : HostCmd) (s : State) : Host.Outcome State Fault Refusal :=
  .next (s.host 0x87 c (initOwn c) unblocked fun s => s.launch c (Cmd.start c s.clock .moving) State.startInit)

/-- MIGRATE (R276, R277, R281). -/
def execMigrate (c : HostCmd) (s : State) : Host.Outcome State Fault Refusal :=
  .next (s.host 0x07 c (migOwn c) unblocked fun s => s.launch c (Cmd.start c s.clock .moving) State.startMigrate)

/-- MOUNT_OPEN_TIMEOUT (Table 7.12): a MOUNT that waits for its station to open has waited 30 s. -/
def execMountOpenTimeout (st : Stn) (s : State) : Host.Outcome State Fault Refusal :=
  .next (match (s.stns[st]).mountCmd with
    | none => s
    | some r =>
      if (s.cmd? r).any fun k => k.entry.opc == 0x85 && k.phase == .queued then
        (s.finish r (.st 0xC)).modStn st fun t => { t with mountCmd := none }
      else s)

/-! ### LEDGER_WRITE_DONE (R368, R261, R300, R374, R376, R412) -/

/-- The counters of a new volume have been written: the command that asked for it goes on where its mount is still blank, with the
fields of INIT_VOLUME or the defaults of a MIGRATE (R336), whose provenance is its source's colophon (Table 8.7). Its key has been
drawn (R261). -/
def State.volumeNumbered (s : State) (st : Stn) (r : CmdRef) : State :=
  match s.cmd? r with
  | none => s
  | some k =>
    if !((s.stns[st]).mount.any fun m => m.mode == .blank) ∨ (s.stns[st]).ctx.isSome then s
    else if k.entry.opc = 0x87 then
      s.makeVolume st r (k.entry.cd 8 1) (k.entry.cd 9 1) [] [] (leBytes 8 (k.entry.cd 0 8))
    else match s.migOf k.entry.st with
      | none => s
      | some j =>
        let a := s.stns[j.src]
        let col := a.readSide.colophon
        s.makeVolume st r 16 4 (if col.isEmpty then [] else sha384 col) (match a.ctx with | some v => v.volid | none => []) []

/-- What proceeds when a ledger write completes. -/
def State.ledgerDone (s : State) : LedgerOp → State
  | .newVolume st w =>
    { s with ledger := { s.ledger with volCnt := s.ledger.volCnt + 1, npfx := s.ledger.npfx + 1 } }.volumeNumbered st w
  | .retire d dpn w => (s.retired d dpn w.port).finish w (.ok 0)
  | .confirm w => { s with ledger := s.ledger.confirm s.img.secVer, boot := { s.boot with trialEnd := none } }.finish w (.ok 0)
  | .stageTrial slot w => { s with ledger := { s.ledger with trial := some slot, tstate := .pending } }.finish w (.ok 0)

/-- LEDGER_WRITE_DONE: the oldest write completes. -/
def execLedgerWriteDone (s : State) : Host.Outcome State Fault Refusal :=
  .next (match s.ledger.writing with
    | [] => s
    | op :: rest => { s with ledger := { s.ledger with writing := rest } }.ledgerDone op)

/-! ### POWER_STATE_EXIT_DONE (R352) -/

/-- A command that waited for P0 goes on. -/
def State.runWaiting (s : State) (r : CmdRef) : State :=
  match s.cmd? r with
  | none => s
  | some k => match k.entry.opc.toNat with
    | 0x01 => State.startAppend r s
    | 0x02 | 0x03 | 0x06 => State.startReader r (s.modCmd r fun k => { k with phase := .moving })
    | 0x04 => State.startFlush r s
    | 0x07 => State.startMigrate r s
    | 0x08 => State.startSeal r s
    | 0x80 | 0x84 => State.startAdmin r s
    | 0x85 => State.startMount r s
    | 0x86 => State.startUnmount r s
    | 0x87 => State.startInit r s
    | 0x8D => State.startScrub r s
    | 0x8F => State.startRecover r s
    | 0x90 => State.startDiscard r s
    | _ => s

/-- POWER_STATE_EXIT_DONE: P0 is in force, links leave L1, and the commands that forced the exit go on, oldest first. -/
def execPowerStateExitDone (s : State) : Host.Outcome State Fault Refusal :=
  .next (if !s.power.exiting then s
    else
      let w := s.power.waiting
      let s1 := { s with power := { s.power with state := 0, exiting := false, waiting := [] } }.eachPort fun _ h => { h with l1 := false }
      w.foldl State.runWaiting s1)

end Sys2Proof.Machine
end

