-- ==== Sys2Proof/Machine/Dispatch.lean ====
section
/-!
DEFINITION. The meaning of every command: one arm for each constructor, in the order of spec/opcode_table.json.
-/
namespace Sys2Proof.Machine

/-- The effect of a command on everything but the queue. -/
def exec (i : Instr) (s : State) : Host.Outcome State Fault Refusal :=
  match i with
  | .append c => Sys2Proof.Machine.execAppend c s
  | .read c => Sys2Proof.Machine.execRead c s
  | .locate c => Sys2Proof.Machine.execLocate c s
  | .flush c => Sys2Proof.Machine.execFlush c s
  | .orderFence c => Sys2Proof.Machine.execOrderFence c s
  | .verify c => Sys2Proof.Machine.execVerify c s
  | .migrate c => Sys2Proof.Machine.execMigrate c s
  | .seal c => Sys2Proof.Machine.execSeal c s
  | .identify c => Sys2Proof.Machine.execIdentify c s
  | .createQp c => Sys2Proof.Machine.execCreateQp c s
  | .deleteQp c => Sys2Proof.Machine.execDeleteQp c s
  | .resetQp c => Sys2Proof.Machine.execResetQp c s
  | .getLog c => Sys2Proof.Machine.execGetLog c s
  | .mount c cart => Sys2Proof.Machine.execMount c cart s
  | .unmount c => Sys2Proof.Machine.execUnmount c s
  | .initVolume c => Sys2Proof.Machine.execInitVolume c s
  | .selfTest c parts => Sys2Proof.Machine.execSelfTest c parts s
  | .powerState c => Sys2Proof.Machine.execPowerState c s
  | .imageStage c data => Sys2Proof.Machine.execImageStage c data s
  | .imageConfirm c => Sys2Proof.Machine.execImageConfirm c s
  | .retirePage c => Sys2Proof.Machine.execRetirePage c s
  | .scrubRange c => Sys2Proof.Machine.execScrubRange c s
  | .monitorCtl c data => Sys2Proof.Machine.execMonitorCtl c data s
  | .recoverStabled c => Sys2Proof.Machine.execRecoverStabled c s
  | .discardStabled c => Sys2Proof.Machine.execDiscardStabled c s
  | .blockReset c => Sys2Proof.Machine.execBlockReset c s
  | .sqTailWrite p q v => Sys2Proof.Machine.execSqTailWrite p q v s
  | .cqHeadWrite p q v => Sys2Proof.Machine.execCqHeadWrite p q v s
  | .completionWrite p q => Sys2Proof.Machine.execCompletionWrite p q s
  | .adminQueueEnable p => Sys2Proof.Machine.execAdminQueueEnable p s
  | .warmRequest p => Sys2Proof.Machine.execWarmRequest p s
  | .evtStatClear p w v raised => Sys2Proof.Machine.execEvtStatClear p w v raised s
  | .evtMaskWrite p w v => Sys2Proof.Machine.execEvtMaskWrite p w v s
  | .evtRouteWrite p w v => Sys2Proof.Machine.execEvtRouteWrite p w v s
  | .msixVectorUnmask p v => Sys2Proof.Machine.execMsixVectorUnmask p v s
  | .monSelWrite p v => Sys2Proof.Machine.execMonSelWrite p v s
  | .flushNow p => Sys2Proof.Machine.execFlushNow p s
  | .flushAtBoundary p => Sys2Proof.Machine.execFlushAtBoundary p s
  | .clrcnt p => Sys2Proof.Machine.execClrcnt p s
  | .trcDataRead p acc flips => Sys2Proof.Machine.execTrcDataRead p acc flips s
  | .elogIdxWrite p v poisoned => Sys2Proof.Machine.execElogIdxWrite p v poisoned s
  | .supV0Read p => Sys2Proof.Machine.execSupV0Read p s
  | .registerWrite p ofs size v => Sys2Proof.Machine.execRegisterWrite p ofs size v s
  | .powerOnReset => Sys2Proof.Machine.execPowerOnReset s
  | .resetN => Sys2Proof.Machine.execResetN s
  | .supplyReset rail mv => Sys2Proof.Machine.execSupplyReset rail mv s
  | .thermalTrip d temp => Sys2Proof.Machine.execThermalTrip d temp s
  | .thermalTripRelease => Sys2Proof.Machine.execThermalTripRelease s
  | .watchdogExpiry => Sys2Proof.Machine.execWatchdogExpiry s
  | .watchdogReport d => Sys2Proof.Machine.execWatchdogReport d s
  | .packageFault f => Sys2Proof.Machine.execPackageFault f s
  | .refclkLoss => Sys2Proof.Machine.execRefclkLoss s
  | .refclkStable => Sys2Proof.Machine.execRefclkStable s
  | .warmN => Sys2Proof.Machine.execWarmN s
  | .stationStateSave st => Sys2Proof.Machine.execStationStateSave st s
  | .quiesceEnd => Sys2Proof.Machine.execQuiesceEnd s
  | .portReset p => Sys2Proof.Machine.execPortReset p s
  | .resetRelease src => Sys2Proof.Machine.execResetRelease src s
  | .fuseLoadDone => Sys2Proof.Machine.execFuseLoadDone s
  | .bootImageChoice f => Sys2Proof.Machine.execBootImageChoice f s
  | .memoryReady => Sys2Proof.Machine.execMemoryReady s
  | .deviceReady => Sys2Proof.Machine.execDeviceReady s
  | .portLinkTrained p gen width msix => Sys2Proof.Machine.execPortLinkTrained p gen width msix s
  | .vddCoreWarning mv => Sys2Proof.Machine.execVddCoreWarning mv s
  | .dipStop => Sys2Proof.Machine.execDipStop s
  | .dipRecovery min regrades => Sys2Proof.Machine.execDipRecovery min regrades s
  | .thermalThrottle d temp => Sys2Proof.Machine.execThermalThrottle d temp s
  | .thermalThrottleStep => Sys2Proof.Machine.execThermalThrottleStep s
  | .thermalCapRaise => Sys2Proof.Machine.execThermalCapRaise s
  | .thermalStop d temp => Sys2Proof.Machine.execThermalStop d temp s
  | .thermalStopClear => Sys2Proof.Machine.execThermalStopClear s
  | .busWarning st n => Sys2Proof.Machine.execBusWarning st n s
  | .busWarningStep st n => Sys2Proof.Machine.execBusWarningStep st n s
  | .busStop st n => Sys2Proof.Machine.execBusStop st n s
  | .busHold st n => Sys2Proof.Machine.execBusHold st n s
  | .busRecovery st n => Sys2Proof.Machine.execBusRecovery st n s
  | .busRecoveryStep st n => Sys2Proof.Machine.execBusRecoveryStep st n s
  | .vbusMismatch st => Sys2Proof.Machine.execVbusMismatch st s
  | .upstreamFrame st lane f => Sys2Proof.Machine.execUpstreamFrame st lane f s
  | .downstreamFrame st lane ncell => Sys2Proof.Machine.execDownstreamFrame st lane ncell s
  | .sidebandContainer st slot => Sys2Proof.Machine.execSidebandContainer st slot s
  | .headEndResponse st msg => Sys2Proof.Machine.execHeadEndResponse st msg s
  | .laneDown st lane => Sys2Proof.Machine.execLaneDown st lane s
  | .laneTrainingDone st lane ok upNs downNs => Sys2Proof.Machine.execLaneTrainingDone st lane ok upNs downNs s
  | .laneTrainingRetry st lane => Sys2Proof.Machine.execLaneTrainingRetry st lane s
  | .linkLoss st => Sys2Proof.Machine.execLinkLoss st s
  | .linkRecovered st => Sys2Proof.Machine.execLinkRecovered st s
  | .rowDecode st pos track => Sys2Proof.Machine.execRowDecode st pos track s
  | .retryAttempt st => Sys2Proof.Machine.execRetryAttempt st s
  | .bandFreeze st => Sys2Proof.Machine.execBandFreeze st s
  | .gatheringAcceptance st gnum => Sys2Proof.Machine.execGatheringAcceptance st gnum s
  | .intakeDone p q tag data ep => Sys2Proof.Machine.execIntakeDone p q tag data ep s
  | .engineDispatch d r => Sys2Proof.Machine.execEngineDispatch d r s
  | .engineLaneFault d r lane => Sys2Proof.Machine.execEngineLaneFault d r lane s
  | .blockEmit st lon => Sys2Proof.Machine.execBlockEmit st lon s
  | .rightAwayMark st lon block => Sys2Proof.Machine.execRightAwayMark st lon block s
  | .checkFail st lon block => Sys2Proof.Machine.execCheckFail st lon block s
  | .encryptionDone st gnum => Sys2Proof.Machine.execEncryptionDone st gnum s
  | .gatheringPlace st ahead => Sys2Proof.Machine.execGatheringPlace st ahead s
  | .emptyGathering st => Sys2Proof.Machine.execEmptyGathering st s
  | .speedDecision st => Sys2Proof.Machine.execSpeedDecision st s
  | .speedStepDone st => Sys2Proof.Machine.execSpeedStepDone st s
  | .stopDone st => Sys2Proof.Machine.execStopDone st s
  | .backhitchDone st gap => Sys2Proof.Machine.execBackhitchDone st gap s
  | .wrapEnd st => Sys2Proof.Machine.execWrapEnd st s
  | .wrapStart st => Sys2Proof.Machine.execWrapStart st s
  | .gatheringDecode st gnum => Sys2Proof.Machine.execGatheringDecode st gnum s
  | .quireDecode st quire => Sys2Proof.Machine.execQuireDecode st quire s
  | .rereadPassDone st => Sys2Proof.Machine.execRereadPassDone st s
  | .recordHandover st lon => Sys2Proof.Machine.execRecordHandover st lon s
  | .rebuildPassDone st => Sys2Proof.Machine.execRebuildPassDone st s
  | .lateralSample st => Sys2Proof.Machine.execLateralSample st s
  | .writeInhibitEnd st => Sys2Proof.Machine.execWriteInhibitEnd st s
  | .lateralSettled st => Sys2Proof.Machine.execLateralSettled st s
  | .missWinh st => Sys2Proof.Machine.execMissWinh st s
  | .missStop st => Sys2Proof.Machine.execMissStop st s
  | .reelSample st => Sys2Proof.Machine.execReelSample st s
  | .reelMissStop st => Sys2Proof.Machine.execReelMissStop st s
  | .auxSample st => Sys2Proof.Machine.execAuxSample st s
  | .lposWord st => Sys2Proof.Machine.execLposWord st s
  | .lposLost st => Sys2Proof.Machine.execLposLost st s
  | .kappaUpdate st takeUp servoLen => Sys2Proof.Machine.execKappaUpdate st takeUp servoLen s
  | .bankSwapTimeout st loop => Sys2Proof.Machine.execBankSwapTimeout st loop s
  | .rampDone st => Sys2Proof.Machine.execRampDone st s
  | .tensioned st => Sys2Proof.Machine.execTensioned st s
  | .tensionTimeout st => Sys2Proof.Machine.execTensionTimeout st s
  | .poolGrant d owner len use => Sys2Proof.Machine.execPoolGrant d owner len use s
  | .poolAdd d owner handle name => Sys2Proof.Machine.execPoolAdd d owner handle name s
  | .poolRelease d owner handle => Sys2Proof.Machine.execPoolRelease d owner handle s
  | .poolFree d owner handle => Sys2Proof.Machine.execPoolFree d owner handle s
  | .pageRead a handle actor o c => Sys2Proof.Machine.execPageRead a handle actor o c s
  | .pageWrite a handle actor first beats poison o => Sys2Proof.Machine.execPageWrite a handle actor first beats poison o s
  | .writeBack k o => Sys2Proof.Machine.execWriteBack k o s
  | .patrolScrub k flips place => Sys2Proof.Machine.execPatrolScrub k flips place s
  | .ceLeak => Sys2Proof.Machine.execCeLeak s
  | .controlStoreFetch store cond flips => Sys2Proof.Machine.execControlStoreFetch store cond flips s
  | .controlStoreScrub upsets => Sys2Proof.Machine.execControlStoreScrub upsets s
  | .stackLost k => Sys2Proof.Machine.execStackLost k s
  | .ucieLinkDown => Sys2Proof.Machine.execUcieLinkDown s
  | .trialWindowExpiry => Sys2Proof.Machine.execTrialWindowExpiry s
  | .drbgHealthFail => Sys2Proof.Machine.execDrbgHealthFail s
  | .ledgerWriteDone => Sys2Proof.Machine.execLedgerWriteDone s
  | .selfTestTimeout parts => Sys2Proof.Machine.execSelfTestTimeout parts s
  | .selfTestDone parts => Sys2Proof.Machine.execSelfTestDone parts s
  | .powerStateExitDone => Sys2Proof.Machine.execPowerStateExitDone s
  | .monitorSample d slot v => Sys2Proof.Machine.execMonitorSample d slot v s
  | .decryptionDone st gnum => Sys2Proof.Machine.execDecryptionDone st gnum s
  | .decompressionDone st lon => Sys2Proof.Machine.execDecompressionDone st lon s
  | .chunkReadBack back target => Sys2Proof.Machine.execChunkReadBack back target s
  | .blockReturn k => Sys2Proof.Machine.execBlockReturn k s
  | .rangeScrubRead d flips place => Sys2Proof.Machine.execRangeScrubRead d flips place s
  | .ucieLinkRetrain d => Sys2Proof.Machine.execUcieLinkRetrain d s
  | .linkRateOrWidthChange p gen width => Sys2Proof.Machine.execLinkRateOrWidthChange p gen width s
  | .mountOpenTimeout st => Sys2Proof.Machine.execMountOpenTimeout st s

end Sys2Proof.Machine
end

