-- ==== Sys2Proof/Safety.lean ====
section
/-!
DEFINITION. What the statements about the whole machine speak of: the state that ordinary work of the block leaves alone, and
what holds in every state that a step leads to.
-/
namespace Sys2Proof.Machine

/-- The registers of a port that its driver sets up and reads back, and the state of its link (Tables 14.3 to 14.10). The
status flags, the queues and the command error log are no part of it: ordinary work changes them. -/
structure PortRegs where
  linkUp   : Bool
  gen      : Nat
  width    : Nat
  msixEn   : Bool
  msixMask : BitVec 64
  featAccept : BitVec 64
  aqEn     : Bool
  aqErr    : BitVec 3
  aqDepth  : BitVec 13
  aqSqBase : BitVec 64
  aqCqBase : BitVec 64
  mask     : BitVec 256
  route    : Vector Byte 256
  monSel   : BitVec 9
  snap     : MonSnap
  qsel     : BitVec 3
  underrun : BitVec 8
  trcHigh  : Option (BitVec 32)
  elogDie  : Bool
  elogIdx  : BitVec 16
  elogValid : Bool
  elogPois : Bool
  elogView : Option ELogEntry
  deriving DecidableEq, Repr

/-- The set-up registers of a port. -/
def HostPort.regs (h : HostPort) : PortRegs :=
  { linkUp := h.linkUp, gen := h.gen, width := h.width, msixEn := h.msixEn, msixMask := h.msixMask, featAccept := h.featAccept,
    aqEn := h.aqEn, aqErr := h.aqErr, aqDepth := h.aqDepth, aqSqBase := h.aqSqBase, aqCqBase := h.aqCqBase, mask := h.mask,
    route := h.route, monSel := h.monSel, snap := h.snap, qsel := h.qsel, underrun := h.underrun, trcHigh := h.trcHigh,
    elogDie := h.elogDie, elogIdx := h.elogIdx, elogValid := h.elogValid, elogPois := h.elogPois, elogView := h.elogView }

/-- The control state of the package: the queue of commands, the clock, every byte of buffer memory, the reset and boot
controllers, the supply and thermal monitors, the control stores, the station map, the inter-die link, the self-test, the
blocks in reset, and the set-up registers of both ports. -/
structure Control where
  pending : List Instr
  clock   : Nat
  mem     : List Host.Cell
  rst     : ResetCtl
  boot    : Boot
  supply  : Supply
  thermal : Thermal
  pinsSet : Bool
  stores  : Vector Store 10
  stnMap  : BitVec 8
  ucieDown : Bool
  test    : Option TestRun
  blkRst  : List BlkReset
  tap     : Tap
  regs    : Vector PortRegs 2
  deriving DecidableEq, Repr

/-- The control state of a state. -/
def State.control (s : State) : Control :=
  { pending := s.pending, clock := s.clock, mem := s.mem, rst := s.rst, boot := s.boot, supply := s.supply, thermal := s.thermal,
    pinsSet := s.pinsSet, stores := s.stores, stnMap := s.stnMap, ucieDown := s.ucieDown, test := s.test, blkRst := s.blkRst, tap := s.tap,
    regs := s.ports.map HostPort.regs }

/-- The queue of commands, and the clock. -/
def State.queue (s : State) : List Instr × Nat := (s.pending, s.clock)

/-- The queues of a port and its command error log. -/
structure PortService where
  qps    : List Qp
  errs   : List CmdErr
  errCnt : Nat
  deriving DecidableEq, Repr

/-- The queues of a port and its command error log. -/
def HostPort.service (h : HostPort) : PortService := { qps := h.qps, errs := h.errs, errCnt := h.errCnt }

/-- What the package keeps of the commands it serves: queue pairs and error logs, the interlocking, mounts counted, the ledger, the
key vault, the power state, migrations and the self-test. -/
structure Service where
  ports  : Vector PortService 2
  locks  : List Lock
  mntCnt : BitVec 32
  ledger : Ledger
  vault  : Vault
  power  : Power
  migs   : List MigJob
  test   : Option TestRun
  deriving DecidableEq, Repr

/-- The service state of a state. -/
def State.service (s : State) : Service :=
  { ports := s.ports.map HostPort.service, locks := s.locks, mntCnt := s.mntCnt, ledger := s.ledger, vault := s.vault,
    power := s.power, migs := s.migs, test := s.test }

/-- What keeps a station from its work: its fault, a block reset, stabled buffers, a broken write state, a latency fault. -/
structure Standing where
  faults  : List StnFault
  inReset : Bool
  stabled : Bool
  broken  : Bool
  latency : Bool
  deriving DecidableEq, Repr

/-- What keeps a station from its work. -/
def Station.standing (t : Station) : Standing :=
  { faults := t.faults, inReset := t.inReset, stabled := t.stabled, broken := t.broken, latency := t.latency }

/-- The standing of every station. -/
def State.standing (s : State) : Vector Standing 8 := s.stns.map Station.standing

/-- What is mounted at every station. -/
def State.mounts (s : State) : Vector (Option Mount) 8 := s.stns.map (·.mount)

/-- What the ledger is trusted for over the life of a package: the slot in use, the floor of security versions, the counts that
make VOLIDs and nonces unique, the power-on count, and the retired pages (Table 11.7, R261, R300, R412). -/
structure Anchors where
  cur     : SlotId
  floor   : BitVec 32
  volCnt  : BitVec 64
  npfx    : BitVec 32
  pwrCnt  : BitVec 64
  retired : Vector (List Nat) 2
  deriving DecidableEq, Repr

/-- What a ledger is trusted for. -/
def Ledger.anchors (l : Ledger) : Anchors :=
  { cur := l.cur, floor := l.floor, volCnt := l.volCnt, npfx := l.npfx, pwrCnt := l.pwrCnt, retired := l.retired }

/-- What the ledger of a state is trusted for. -/
def State.anchors (s : State) : Anchors := s.ledger.anchors

end Sys2Proof.Machine

namespace Sys2Proof

/-! ### What each command may change -/

/-- The commands that may change the control state. -/
def Instr.setsControl (i : Instr) : Bool :=
  match i with
  | .resetQp .. | .selfTest .. | .imageStage .. | .blockReset .. | .adminQueueEnable .. | .warmRequest ..
  | .evtMaskWrite .. | .evtRouteWrite .. | .msixVectorUnmask .. | .monSelWrite .. | .trcDataRead ..
  | .elogIdxWrite .. | .supV0Read .. | .registerWrite .. | .powerOnReset | .resetN | .supplyReset ..
  | .thermalTrip .. | .thermalTripRelease | .watchdogExpiry | .watchdogReport .. | .packageFault .. | .refclkLoss
  | .refclkStable | .warmN | .stationStateSave .. | .quiesceEnd | .portReset .. | .resetRelease .. | .fuseLoadDone
  | .bootImageChoice .. | .memoryReady | .deviceReady | .portLinkTrained .. | .vddCoreWarning .. | .dipStop
  | .dipRecovery .. | .thermalThrottle .. | .thermalThrottleStep | .thermalCapRaise | .thermalStop ..
  | .thermalStopClear | .pageRead .. | .pageWrite .. | .writeBack .. | .patrolScrub .. | .controlStoreFetch ..
  | .ucieLinkDown | .trialWindowExpiry | .ledgerWriteDone | .selfTestTimeout .. | .selfTestDone ..
  | .monitorSample .. | .chunkReadBack .. | .blockReturn .. | .rangeScrubRead .. | .linkRateOrWidthChange .. => true
  | _ => false

/-- The commands that may change the service state. -/
def Instr.setsService (i : Instr) : Bool :=
  match i with
  | .append .. | .read .. | .locate .. | .flush .. | .orderFence .. | .verify .. | .migrate .. | .seal ..
  | .identify .. | .createQp .. | .deleteQp .. | .resetQp .. | .getLog .. | .mount .. | .unmount .. | .initVolume ..
  | .selfTest .. | .powerState .. | .imageStage .. | .imageConfirm .. | .retirePage .. | .scrubRange ..
  | .monitorCtl .. | .recoverStabled .. | .discardStabled .. | .blockReset .. | .sqTailWrite .. | .cqHeadWrite ..
  | .completionWrite .. | .adminQueueEnable .. | .powerOnReset | .resetN | .supplyReset .. | .thermalTrip ..
  | .watchdogExpiry | .packageFault .. | .refclkLoss | .quiesceEnd | .portReset .. | .bootImageChoice ..
  | .deviceReady | .dipRecovery .. | .busRecovery .. | .downstreamFrame .. | .headEndResponse .. | .laneTrainingDone .. | .linkLoss ..
  | .linkRecovered .. | .rowDecode .. | .retryAttempt .. | .gatheringAcceptance .. | .intakeDone ..
  | .engineDispatch .. | .engineLaneFault .. | .blockEmit .. | .rightAwayMark .. | .checkFail .. | .encryptionDone ..
  | .gatheringPlace .. | .speedDecision .. | .wrapEnd .. | .gatheringDecode .. | .quireDecode .. | .rereadPassDone ..
  | .recordHandover .. | .rebuildPassDone .. | .rampDone .. | .lposWord .. | .tensioned .. | .tensionTimeout .. | .poolGrant ..
  | .poolAdd .. | .poolRelease .. | .poolFree .. | .pageRead .. | .writeBack .. | .controlStoreFetch .. | .stackLost .. | .ucieLinkDown
  | .trialWindowExpiry | .drbgHealthFail | .ledgerWriteDone | .selfTestTimeout .. | .selfTestDone ..
  | .powerStateExitDone | .decryptionDone .. | .decompressionDone .. | .chunkReadBack .. | .blockReturn ..
  | .rangeScrubRead .. | .mountOpenTimeout .. => true
  | _ => false

/-- The commands that may change a station. -/
def Instr.movesStations (i : Instr) : Bool :=
  match i with
  | .append .. | .read .. | .locate .. | .flush .. | .verify .. | .migrate .. | .seal .. | .identify ..
  | .deleteQp .. | .resetQp .. | .getLog .. | .mount .. | .unmount .. | .initVolume .. | .selfTest ..
  | .powerState .. | .scrubRange .. | .recoverStabled .. | .discardStabled .. | .blockReset .. | .completionWrite ..
  | .warmRequest .. | .powerOnReset | .resetN | .supplyReset .. | .thermalTrip .. | .thermalTripRelease
  | .watchdogExpiry | .packageFault .. | .refclkLoss | .refclkStable | .warmN | .quiesceEnd | .portReset ..
  | .resetRelease .. | .bootImageChoice .. | .memoryReady | .deviceReady | .vddCoreWarning .. | .dipStop
  | .dipRecovery .. | .thermalThrottle .. | .thermalThrottleStep | .thermalStop .. | .busWarning ..
  | .busWarningStep .. | .busStop .. | .busHold .. | .busRecovery .. | .busRecoveryStep .. | .upstreamFrame ..
  | .downstreamFrame .. | .sidebandContainer .. | .headEndResponse .. | .laneDown .. | .laneTrainingDone ..
  | .laneTrainingRetry .. | .linkLoss .. | .linkRecovered .. | .rowDecode .. | .retryAttempt .. | .bandFreeze ..
  | .gatheringAcceptance .. | .intakeDone .. | .engineDispatch .. | .engineLaneFault .. | .blockEmit ..
  | .rightAwayMark .. | .checkFail .. | .encryptionDone .. | .gatheringPlace .. | .emptyGathering ..
  | .speedDecision .. | .speedStepDone .. | .stopDone .. | .backhitchDone .. | .wrapEnd .. | .wrapStart ..
  | .gatheringDecode .. | .quireDecode .. | .rereadPassDone .. | .recordHandover .. | .rebuildPassDone ..
  | .lateralSample .. | .writeInhibitEnd .. | .lateralSettled .. | .missWinh .. | .missStop .. | .reelSample ..
  | .reelMissStop .. | .auxSample .. | .lposWord .. | .lposLost .. | .kappaUpdate .. | .bankSwapTimeout ..
  | .rampDone .. | .tensioned .. | .tensionTimeout .. | .poolGrant .. | .poolAdd .. | .poolRelease .. | .poolFree .. | .pageRead ..
  | .controlStoreFetch .. | .stackLost .. | .ucieLinkDown | .ledgerWriteDone | .powerStateExitDone
  | .monitorSample .. | .decryptionDone .. | .decompressionDone .. | .blockReturn .. | .mountOpenTimeout .. => true
  | _ => false

/-- The commands that may change what keeps a station from its work. -/
def Instr.setsStanding (i : Instr) : Bool :=
  match i with
  | .recoverStabled .. | .discardStabled .. | .blockReset .. | .powerOnReset | .resetN | .supplyReset ..
  | .thermalTrip .. | .watchdogExpiry | .packageFault .. | .refclkLoss | .quiesceEnd | .headEndResponse ..
  | .laneTrainingDone .. | .controlStoreFetch .. | .stackLost .. | .powerStateExitDone | .blockReturn .. => true
  | _ => false

/-- The commands that may change a byte of buffer memory. -/
def Instr.writesMemory (i : Instr) : Bool :=
  match i with
  | .powerOnReset | .resetN | .supplyReset .. | .thermalTrip .. | .watchdogExpiry | .packageFault .. | .refclkLoss
  | .memoryReady | .pageRead .. | .pageWrite .. | .writeBack .. | .patrolScrub .. | .rangeScrubRead .. => true
  | _ => false

/-- The commands that may change the ledger. -/
def Instr.writesLedger (i : Instr) : Bool :=
  match i with
  | .migrate .. | .initVolume .. | .imageStage .. | .imageConfirm .. | .retirePage .. | .powerOnReset | .resetN
  | .supplyReset .. | .thermalTrip .. | .watchdogExpiry | .packageFault .. | .refclkLoss 
  | .bootImageChoice .. | .downstreamFrame .. | .wrapEnd .. | .gatheringDecode .. | .quireDecode ..
  | .recordHandover .. | .trialWindowExpiry | .ledgerWriteDone | .powerStateExitDone | .decryptionDone ..
  | .decompressionDone .. | .chunkReadBack .. => true
  | _ => false

end Sys2Proof

namespace Sys2Proof.Machine

/-- `t` is `s` but for events raised on the way: status flags and pending messages of the ports, words in the trace queues of the
dies, and messages sent. No status flag is cleared, and nothing but messages leaves. -/
def EventsOnly (s t : State) : Prop :=
  t = { s with ports := t.ports, dies := t.dies, out := t.out }
    ∧ (∀ p : Port, t.ports[p] = { s.ports[p] with stat := (t.ports[p]).stat, msixPend := (t.ports[p]).msixPend })
    ∧ (∀ d : DieId, t.dies[d] = { s.dies[d] with trace := (t.dies[d]).trace })
    ∧ (∀ (p : Port) (n : Nat), (s.ports[p]).stat.getLsbD n = true → (t.ports[p]).stat.getLsbD n = true)
    ∧ ∃ l : List Out, t.out = l ++ s.out ∧ ∀ o ∈ l, ∃ p v, o = .msix p v

/-- `t` differs from `s` at most in port `p` and in what has left. -/
def OnlyPort (s t : State) (p : Port) : Prop :=
  t = { s with ports := t.ports, out := t.out } ∧ ∀ q, q ≠ p → t.ports[q] = s.ports[q]

/-- `t` is what a cold reset of `s` leaves: every domain but the always domain as after power-on, the exit waiting; the queue of commands
and the clock are no part of the package (Table 12.12). -/
def ColdRestored (s t : State) : Prop :=
  t.mem = [] ∧ t.hbm = State.reset.hbm ∧ t.dies = State.reset.dies ∧ t.stores = State.reset.stores ∧ t.ports = State.reset.ports
    ∧ t.stns = State.reset.stns ∧ t.boot = State.reset.boot ∧ t.vault = State.reset.vault ∧ t.power = State.reset.power ∧ t.locks = []
    ∧ t.migs = [] ∧ t.blkRst = [] ∧ t.test = none ∧ t.mntCnt = 0 ∧ t.ucieDown = false ∧ t.pinsSet = false ∧ t.rst.stage = .held
    ∧ t.rst.deferred = [] ∧ t.pending = s.pending ∧ t.clock = s.clock

/-- Event source `n` is set in both ports. -/
def State.flagged (s : State) (n : Nat) : Prop := ∀ p : Port, (s.ports[p]).stat.getLsbD n = true

/-- A port takes the entry at the head of its queue, and no check of R469 fails: the entry comes to its command's own effect.
`own` is what checks 6 to 10 of that command answer. -/
def State.accepts (s : State) (opc : Nat) (c : HostCmd) (own : Option Ending) : Prop :=
  s.atTurn c = true ∧ s.fenceHolds c = false ∧ s.checks opc c = none ∧ fieldsOk opc c = true ∧ own = none

end Sys2Proof.Machine

namespace Sys2Proof

/-- The opcode of the command that a host row takes, and its queue entry. -/
def Instr.hostRow (i : Instr) : Option (Nat × HostCmd) :=
  match i with
  | .append c => some (0x01, c)
  | .read c => some (0x02, c)
  | .locate c => some (0x03, c)
  | .flush c => some (0x04, c)
  | .orderFence c => some (0x05, c)
  | .verify c => some (0x06, c)
  | .migrate c => some (0x07, c)
  | .seal c => some (0x08, c)
  | .identify c => some (0x80, c)
  | .createQp c => some (0x81, c)
  | .deleteQp c => some (0x82, c)
  | .resetQp c => some (0x83, c)
  | .getLog c => some (0x84, c)
  | .mount c _ => some (0x85, c)
  | .unmount c => some (0x86, c)
  | .initVolume c => some (0x87, c)
  | .selfTest c _ => some (0x88, c)
  | .powerState c => some (0x89, c)
  | .imageStage c _ => some (0x8A, c)
  | .imageConfirm c => some (0x8B, c)
  | .retirePage c => some (0x8C, c)
  | .scrubRange c => some (0x8D, c)
  | .monitorCtl c _ => some (0x8E, c)
  | .recoverStabled c => some (0x8F, c)
  | .discardStabled c => some (0x90, c)
  | .blockReset c => some (0x91, c)
  | _ => none

end Sys2Proof

namespace Sys2Proof.Machine

/-- The completion of a command is the last of those that wait on its queue. -/
def State.ended (t : State) (r : CmdRef) (status result : Nat) : Prop :=
  ∃ x d, (t.ports[r.port]).qp? r.qid = some x ∧ x.done.getLast? = some d ∧ d.tag = r.tag ∧ d.final = false
    ∧ d.status = BitVec.ofNat 8 status ∧ d.result = BitVec.ofNat 64 result

/-- The completion of a command waits on its queue. -/
def State.answered (t : State) (r : CmdRef) (status : Nat) : Prop :=
  ∃ x d, (t.ports[r.port]).qp? r.qid = some x ∧ d ∈ x.done ∧ d.tag = r.tag ∧ d.final = false ∧ d.status = BitVec.ofNat 8 status

/-- A command is outstanding, in a phase. -/
def State.underWay (t : State) (r : CmdRef) (e : Entry) (ph : Phase) : Prop :=
  ∃ k, t.cmd? r = some k ∧ k.entry = e ∧ k.phase = ph

/-- A job waits in an engine region of a die, or runs on a lane of it. -/
def State.hasJob (t : State) (d : DieId) (r : Fin 4) (k : JobKind) : Prop :=
  ∃ j, j.kind = k ∧ (j ∈ ((t.dies[d]).engines[r]).waiting ∨ ∃ l, (l, j) ∈ ((t.dies[d]).engines[r]).running)

/-- No IDENTIFY or GET_LOG holds a buffer: one sends its data as soon as it has its buffer, so a grant finds no other to send. -/
def State.adminIdle (s : State) : Prop :=
  ∀ c ∈ s.allCmds, c.2.entry.opc = 0x80 ∨ c.2.entry.opc = 0x84 → c.2.handle = none

end Sys2Proof.Machine
end

