-- ==== Sys2Proof/Certificates/Slice0/Obligations.lean ====
section
/-!
DEFINITION. The statements about the block, for the provers. A statement about a state holds for every state, those that no run
reaches included; a free value is never given a value.
-/
open Sys2Proof Sys2Proof.Machine

/-- A step runs the command at the front of the queue on the state with the queue's rest; with nothing waiting, one FABRIC cycle passes, and where no
pool has a wake due nothing else changes (the model's choice, log 2). No command changes the queue or the clock. -/
def Obligations.StepRunsFront : Prop :=
  (∀ (c : Instr) (rest : List Instr) (s : State), step { s with pending := c :: rest } = exec c { s with pending := rest }) ∧
  (∀ s : State, s.pending = [] → (∀ (d : DieId) (p : Fin 5), ((s.dies[d]).pools[p]).due = 0) → step s = .next { s with clock := s.clock + 1 }) ∧
  (∀ s : State, s.pending = [] → ∃ t, step s = .next t ∧ t.clock = s.clock + 1 ∧ t.pending = []) ∧
  (∀ (i : Instr) (s t : State), exec i s = .next t → t.pending = s.pending ∧ t.clock = s.clock)

/-- No command is refused. The one fault is a PAGE_READ or PAGE_WRITE of a page that Table 9.1 does not have, and each of them faults there; every
other command answers a next state, in every state and with every operand. -/
def Obligations.OnlyAbsentPagesFault : Prop :=
  (∀ (i : Instr) (s : State) (r : Refusal), exec i s ≠ .refused r) ∧
  (∀ (i : Instr) (s : State) (f : Fault), exec i s = .fault f ↔ f = .noSuchPage ∧
    ((∃ a h n o c, i = .pageRead a h n o c ∧ ¬ a.frame < regionPages a.region) ∨
     (∃ a h n k b p o, i = .pageWrite a h n k b p o ∧ ¬ a.frame < regionPages a.region))) ∧
  (∀ (i : Instr) (s : State),
    ((∀ a h n o c, i = .pageRead a h n o c → a.frame < regionPages a.region) ∧
     (∀ a h n k b p o, i = .pageWrite a h n k b p o → a.frame < regionPages a.region)) → ∃ t, exec i s = .next t)

/-- R262, R265, R391, R392, R398, R412, Table 12.3 and the reset columns of Tables 14.3 to 14.12: what State.reset holds, as far as the spec gives the
values. That State.reset is the moment just after a power-on reset of a new device, at stage E1 with a power-on count of 1 and volume counters of 0,
is the model's choice (log 3); so is that the queue of commands is empty (log 2). -/
def Obligations.ResetValues : Prop :=
  let r := State.reset
  r.pending = [] ∧ r.rst.cause = 1 ∧ r.rst.stage = .e1 ∧ r.rst.lastRst = 0 ∧ r.ledger.pwrCnt = 1 ∧ r.ledger.volCnt = 0 ∧ r.ledger.npfx = 0 ∧ r.locks = [] ∧
    r.boot.recovery = false ∧ r.boot.octal = false ∧ r.power.state = 0 ∧ r.power.target = none ∧ r.ucieDown = false ∧ r.vault.slots = Vector.replicate 8 none ∧ r.vault.domains = [] ∧
    r.supply.dip = false ∧ r.supply.recov = false ∧ r.supply.dipLen = 0 ∧ r.supply.dipMin = 0 ∧
    r.thermal.throt = false ∧ r.thermal.stop = false ∧ r.thermal.cap = none ∧ r.thermal.trip = false ∧
    (∀ st : Stn, let x := r.stns[st]
      x.wgate = true ∧ x.men = true ∧ x.servo.motion = .open_ ∧ x.mount = none ∧ x.ctx = none ∧ x.faults = [] ∧ x.stabled = false ∧ x.speed.ceil = 32 ∧
      x.servo.inhibit = false ∧ x.servo.lposOk = false ∧ x.servo.lpos = 0 ∧ x.servo.reverse = false ∧ x.servo.step = 0 ∧ x.link.grid = none ∧
      x.write.wrap = 0 ∧ x.write.dead = 0 ∧ x.link.heId = 0 ∧ x.link.heCap = 0 ∧ ∀ n : Lane, (x.link.lanes[n]).up = false) ∧
    (∀ p : Port, let h := r.ports[p]
      h.linkUp = false ∧ h.aqEn = false ∧ h.aqErr = 0 ∧ h.aqDepth = 0 ∧ h.aqSqBase = 0 ∧ h.aqCqBase = 0 ∧ h.featAccept = 0 ∧ h.stat = 0 ∧ h.qps = [] ∧
      h.monSel = 0 ∧ h.snap = MonSnap.reset ∧ h.elogDie = false ∧ h.elogIdx = 0 ∧ h.elogValid = false ∧ h.elogPois = false ∧ h.elogView = none) ∧
    ∀ d : DieId, (∀ n : Fin 64, (r.dies[d]).monitors[n] = MonSlot.reset) ∧ (r.dies[d]).fault = false ∧ (r.dies[d]).elog = [] ∧ (r.dies[d]).elogCnt = 0

/-- Buffer memory is canonical at reset. -/
def Obligations.MemoryCanonicalAtReset : Prop := Memory.wf State.reset.mem = true

/-- Buffer memory stays canonical: in every state in which it is, every step leaves it so. -/
def Obligations.MemoryStaysCanonical : Prop :=
  ∀ s t : State, Memory.wf s.mem = true → step s = .next t → Memory.wf t.mem = true

/-- Every byte of buffer memory is as it was, but for the commands of Instr.writesMemory. -/
def Obligations.MemoryFrame : Prop :=
  ∀ (i : Instr) (s t : State), i.writesMemory = false → exec i s = .next t → t.mem = s.mem

/-- The commands outside Instr.setsControl leave the control state alone. The commands outside Instr.setsService leave queues, locks, ledger, keys,
power state and migrations alone. -/
def Obligations.ControlAndServiceFrames : Prop :=
  (∀ (i : Instr) (s t : State), i.setsControl = false → exec i s = .next t → t.control = s.control) ∧
  (∀ (i : Instr) (s t : State), i.setsService = false → exec i s = .next t → t.service = s.service)

/-- The commands outside Instr.movesStations leave every station alone; those outside Instr.setsStanding leave what keeps a station from its work
alone: its fault, a block reset, stabled buffers, a broken write state, a latency fault. -/
def Obligations.StationFrame : Prop :=
  (∀ (i : Instr) (s t : State), i.movesStations = false → exec i s = .next t → t.stns = s.stns) ∧
  (∀ (i : Instr) (s t : State), i.setsStanding = false → exec i s = .next t → t.standing = s.standing)

/-- What the ledger is trusted for. The floor of security versions never falls and retired pages never leave their list; CUR, FLOOR, VOLCNT, NPFX and
the retired pages change with a LEDGER_WRITE_DONE alone, and the power-on count with a POWER_ON_RESET alone. No other part of the ledger changes but
with the commands of Instr.writesLedger. -/
def Obligations.LedgerAnchored : Prop :=
  ∀ (i : Instr) (s t : State), exec i s = .next t →
    s.ledger.floor ≤ t.ledger.floor ∧ (∀ d : DieId, ∃ l, t.ledger.retired[d] = s.ledger.retired[d] ++ l) ∧
    (i ≠ .ledgerWriteDone → { t.anchors with pwrCnt := s.ledger.pwrCnt } = s.anchors) ∧
    (i ≠ .powerOnReset → t.ledger.pwrCnt = s.ledger.pwrCnt) ∧
    (i.writesLedger = false → t.ledger = s.ledger)

/-- R377: FLOOR never falls, whatever the command, and no image with a lower SECVER is accepted; a confirmation raises FLOOR to the SECVER of the
image that runs. -/
def Obligations.FloorNeverFalls : Prop :=
  (∀ (i : Instr) (s t : State), exec i s = .next t → s.ledger.floor ≤ t.ledger.floor) ∧
  (∀ (x : SlotRead) (floor : BitVec 32) (pin : List Byte) (g : Image), accept x floor pin = .ok g → floor ≤ g.secVer) ∧
  (∀ (w : CmdRef) (rest : List LedgerOp) (s : State), s.ledger.writing = .confirm w :: rest →
    ∃ t, exec .ledgerWriteDone s = .next t ∧ s.img.secVer ≤ t.ledger.floor ∧ t.ledger.writing = rest ∧ t.ledger.tpin = [])

/-- R415: a W1C write of EVT_STAT clears the bits written 1, but for those raised with it, which stay set and send their message again; the unmasking
of a vector sends the message that is pending on it. R414, R416, R439: a write of a mask or routing word. The masks of sources 198 and 214 stay clear,
and a routing byte takes only 0xFF or a vector the port has. A source that is set and that the write unmasks or gives a vector sends its message at
once. A message on a vector that the MSI-X table masks stays pending. -/
def Obligations.EventRegisters : Prop :=
  ((∀ (p : Port) (w : Fin 8) (v raised : BitVec 32) (s : State), s.regAnswers p (0x200 + 4 * w.val) = true →
    ∃ t, exec (.evtStatClear p w v raised) s = .next t ∧
      (∀ n < 256, (t.ports[p]).stat.getLsbD n =
        if n / 32 = w.val ∧ v.getLsbD (n % 32) = true ∧ raised.getLsbD (n % 32) = false then false else (s.ports[p]).stat.getLsbD n) ∧
      (∀ n < 256, ∀ x < 64, n / 32 = w.val → v.getLsbD (n % 32) = true → raised.getLsbD (n % 32) = true → (s.ports[p]).stat.getLsbD n = true →
        (s.ports[p]).mask.getLsbD n = false → (s.ports[p]).vecOf n = some x → (s.ports[p]).linkUp = true → (s.ports[p]).msixEn = true →
        if (s.ports[p]).msixMask.getLsbD x then (t.ports[p]).msixPend.getLsbD x = true else .msix p x ∈ t.out) ∧
      t.ports[p] = { s.ports[p] with l1 := false, stat := (t.ports[p]).stat, msixPend := (t.ports[p]).msixPend } ∧ OnlyPort s t p) ∧
  (∀ (p : Port) (v : Fin 64) (s : State),
    ∃ t, exec (.msixVectorUnmask p v) s = .next t ∧
      t.ports[p] = { s.ports[p] with msixMask := (t.ports[p]).msixMask, msixPend := (t.ports[p]).msixPend } ∧
      (∀ n < 64, (t.ports[p]).msixMask.getLsbD n = ((s.ports[p]).msixMask.getLsbD n && n != v.val) ∧
        (t.ports[p]).msixPend.getLsbD n = ((s.ports[p]).msixPend.getLsbD n && n != v.val)) ∧
      t.out = (if (s.ports[p]).msixPend.getLsbD v.val && (s.ports[p]).linkUp && (s.ports[p]).msixEn then [.msix p v.val] else []) ++ s.out ∧
      OnlyPort s t p)) ∧
  ((∀ (p : Port) (w : Fin 8) (v : BitVec 32) (s : State), s.regAnswers p (0x220 + 4 * w.val) = true →
    ∃ t, exec (.evtMaskWrite p w v) s = .next t ∧
      (∀ n < 256, (t.ports[p]).mask.getLsbD n =
        ((if n / 32 = w.val then v.getLsbD (n % 32) else (s.ports[p]).mask.getLsbD n) && n != 198 && n != 214)) ∧
      (∀ n < 256, ∀ x < 64, n / 32 = w.val → (s.ports[p]).mask.getLsbD n = true → v.getLsbD (n % 32) = false →
        (s.ports[p]).stat.getLsbD n = true → (s.ports[p]).vecOf n = some x → (s.ports[p]).linkUp = true → (s.ports[p]).msixEn = true →
        if (s.ports[p]).msixMask.getLsbD x then (t.ports[p]).msixPend.getLsbD x = true else .msix p x ∈ t.out) ∧
      t.ports[p] = { s.ports[p] with l1 := false, mask := (t.ports[p]).mask, msixPend := (t.ports[p]).msixPend } ∧ OnlyPort s t p) ∧
  (∀ (p : Port) (w : Fin 64) (v : BitVec 32) (s : State), s.regAnswers p (0x240 + 4 * w.val) = true →
    ∃ t, exec (.evtRouteWrite p w v) s = .next t ∧
      (∀ i : Fin 256, (t.ports[p]).route[i] =
        let b := v.extractLsb' (8 * (i.val % 4)) 8
        if i.val / 4 = w.val ∧ (b = 0xFF ∨ b.toNat < s.img.nvec p.val) then b else (s.ports[p]).route[i]) ∧
      (∀ n < 256, ∀ x < 64, n / 4 = w.val → (s.ports[p]).stat.getLsbD n = true → (s.ports[p]).mask.getLsbD n = false →
        (s.ports[p]).vecOf n = none → (t.ports[p]).vecOf n = some x → (s.ports[p]).linkUp = true → (s.ports[p]).msixEn = true →
        if (s.ports[p]).msixMask.getLsbD x then (t.ports[p]).msixPend.getLsbD x = true else .msix p x ∈ t.out) ∧
      t.ports[p] = { s.ports[p] with l1 := false, route := (t.ports[p]).route, msixPend := (t.ports[p]).msixPend } ∧ OnlyPort s t p))

/-- R430: the flush bits of TRC_CTL act on the queue that the port has selected, and on nothing else. FLUSH_NOW empties it at once, cancels a pending
flush and leaves what is still to come of a packet being written a fragment. FLUSH_AT_BOUNDARY acts at once after an end mark and else is pending,
until the next end-marked word empties the queue, that word included. LOST does not count what a flush discards. CLRCNT (Table 13.5) clears the
counts. -/
def Obligations.TraceQueueControls : Prop :=
  (∀ (q : TraceQ) (w : BitVec 64), q.bfPend = true →
    (q.put w true).1.words = [] ∧ (q.put w true).1.bfPend = false ∧ (q.put w true).1.frag = false ∧
    (q.put w false).1.bfPend = true ∧ (q.put w false).1.words ≠ []) ∧
  (∀ (q : TraceQ) (w : BitVec 64) (e : Bool), q.words.length < traceDepth → (q.put w e).1.lost = q.lost) ∧
  ∀ (p : Port) (s : State), s.regAnswers p 0x800 = true →
    let x := (s.ports[p]).traceSel
    let q := (s.dies[x.1]).trace[x.2]
    let after := fun q' : TraceQ => (s.modPort p fun h => { h with l1 := false }).modDie x.1 fun d => d.modTrace x.2 fun _ => q'
    exec (.flushNow p) s = .next (after { q with words := [], frag := q.openPkt, bfPend := false }) ∧
    exec (.flushAtBoundary p) s =
      .next (after (if q.openPkt = true then { q with bfPend := true } else { q with words := [], frag := false, bfPend := false })) ∧
    exec (.clrcnt p) s = .next (after { q with lost := 0, corr := 0, unc := 0, lossSeen := false })

/-- R428: TRC_DATA. A read of 8 bytes, or of the low half, pops the head word of the selected queue and latches its end mark and correction; the low
half latches the high half, and the read of the high half that follows returns it without popping. A read of an empty queue returns the last word
popped and sets UNDERRUN. R425: a word read out with a double error is dropped: UNC and LOST count it, and event 240 + 8d + 2 is raised. The value
that the read returns is a free value (log 16). -/
def Obligations.TraceWordsRead : Prop :=
  (∀ (p : Port) (flips : BitVec 73) (s : State), s.regAnswers p 0x818 = true →
    let x := (s.ports[p]).traceSel
    let q := (s.dies[x.1]).trace[x.2]
    (q.words = [] →
      exec (.trcDataRead p .whole flips) s = .next ((s.modPort p fun h =>
        { h with l1 := false, underrun := h.underrun ||| BitVec.twoPow 8 (4 * x.1.val + x.2.val) }).emit (.value p q.lastWord))) ∧
    (∀ (w : TWord) (r : List TWord) (v : BitVec 64) (e c : Bool), q.words = w :: r →
      secdedRead (w.data ^^^ flips.extractLsb' 0 64) (w.last ^^ flips.getLsbD 64) (w.check ^^^ flips.extractLsb' 65 8) = some (v, e, c) →
      let q' := { q with words := r, frag := !e, lastWord := v, lastEnd := e, lastCorr := c, corr := if c then satInc q.corr else q.corr }
      exec (.trcDataRead p .whole flips) s = .next (((s.modPort p fun h => { h with l1 := false }).modDie x.1 fun d =>
        d.modTrace x.2 fun _ => q').emit (.value p v)) ∧
      exec (.trcDataRead p .low flips) s = .next (((s.modPort p fun h => { h with l1 := false, trcHigh := some (v.extractLsb' 32 32) }).modDie
        x.1 fun d => d.modTrace x.2 fun _ => q').emit (.value p ((v.setWidth 32).setWidth 64)))) ∧
    (∀ v, (s.ports[p]).trcHigh = some v → exec (.trcDataRead p .high flips) s =
      .next ((s.modPort p fun h => { h with l1 := false, trcHigh := none }).emit (.value p (v.setWidth 64))))) ∧
  (∀ (p : Port) (flips : BitVec 73) (s : State), s.regAnswers p 0x818 = true →
    let x := (s.ports[p]).traceSel
    let q := (s.dies[x.1]).trace[x.2]
    ∀ (w : TWord) (r : List TWord), q.words = w :: r →
      secdedRead (w.data ^^^ flips.extractLsb' 0 64) (w.last ^^ flips.getLsbD 64) (w.check ^^^ flips.extractLsb' 65 8) = none →
      ∃ t u v, exec (.trcDataRead p .whole flips) s = .next ({ t with fresh := t.fresh + 1 }.emit (.value p v)) ∧
        u = ((s.modPort p fun h => { h with l1 := false }).modDie x.1 fun d => d.modTrace x.2 fun _ =>
          { q with words := r, frag := !w.last, lost := satInc q.lost, unc := satInc q.unc }) ∧
        EventsOnly u t ∧ t.flagged (242 + 8 * x.1.val))

/-- R425: any one bit that reads wrong in a stored trace word is corrected, and the word is delivered as it was written. -/
def Obligations.SingleUpsetsCorrected : Prop :=
  ∀ (data : BitVec 64) (last : Bool), secdedRead data last (secded data last) = some (data, last, false) ∧
    (∀ i : Fin 64, secdedRead (data ^^^ BitVec.twoPow 64 i.val) last (secded data last) = some (data, last, true)) ∧
    secdedRead data (!last) (secded data last) = some (data, last, true) ∧
    ∀ i : Fin 8, secdedRead data last (secded data last ^^^ BitVec.twoPow 8 i.val) = some (data, last, true)

/-- R423, R441: a write of MON_SEL copies the slot it names, and a write of ELOG_IDX the entry it names, into the port's own view; a poisoned entry
reads as zero. Nothing else changes. -/
def Obligations.WindowSelects : Prop :=
  (∀ (p : Port) (v : BitVec 32) (s : State) (d : DieId) (k : Fin 64), s.regAnswers p 0x400 = true →
    d.val = (v.toNat / 256) % 2 → k.val = v.toNat % 64 →
    let m := (s.dies[d]).monitors[k]
    let snap : MonSnap := { run := m.run, empty := m.empty, signed := srcSigned m.source, sat := m.bins.toList.any (· == 0xFFFFFFFF),
                            source := m.source, min := m.min, max := m.max, count := m.count, bins := m.bins }
    exec (.monSelWrite p v) s = .next (s.modPort p fun h => { h with l1 := false, monSel := v.setWidth 9 &&& 0x13F, snap := snap })) ∧
  (∀ (p : Port) (v : BitVec 32) (poisoned : Bool) (s : State) (d : DieId), s.regAnswers p 0x200C = true →
    d.val = (s.ports[p]).elogDie.toNat →
    let e := (s.dies[d]).elogAt (v.toNat % 65536)
    exec (.elogIdxWrite p v poisoned) s = .next (s.modPort p fun h =>
      { h with l1 := false, elogIdx := v.setWidth 16, elogValid := e.isSome, elogPois := e.isSome && poisoned,
               elogView := if poisoned then none else e }))

/-- R443: a read of SUP_V0 returns the reading and the minimum of VDD_CORE, and the recording of all seven minima starts again. -/
def Obligations.SupplyMinimaRestart : Prop :=
  ∀ (p : Port) (s : State), s.regAnswers p 0x4000 = true →
    ∃ v, exec (.supV0Read p) s = .next { (s.modPort p fun h => { h with l1 := false }).emit (.value p v) with
        supply := { s.supply with min := s.supply.now } } ∧
      v.toNat = s.supply.now[0] % 65536 + 65536 * (s.supply.min[0] % 65536)

/-- R9, R434, R435, R438: a write to a register without a row of its own. RST_CAUSE is W1C; the registers that set up the admin queue take a write
only while EN is 0, and a queue base leaves its reserved low bits out; TRC_CTL selects a queue and enables or disables the queue it selects (the order is the model's reading, log 100); TRC_STAT clears
UNDERRUN of the selected queue and ELOG_CTL selects a die, as Tables 14.8 and 14.10 have them; a read-only or reserved register, and a write with a
size it does not take, changes nothing, and neither does a write to a register that has a row of its own (log 99). -/
def Obligations.RegisterWrites : Prop :=
  ∀ (p : Port) (v : BitVec 64) (s : State),
    let s1 := s.modPort p fun h => { h with l1 := false }
    (∀ ofs size, s.regAnswers p ofs = true → (ofs ∉ [0x48, 0x4C, 0x88, 0x104, 0x108, 0x10C, 0x110, 0x114, 0x800, 0x804, 0x2000] ∨
      ¬ (size = 4 ∨ size = 8 ∧ ofs ∈ [0x48, 0x108, 0x110])) → exec (.registerWrite p ofs size v) s = .next s1) ∧
    (s.regAnswers p 0x88 = true → exec (.registerWrite p 0x88 4 v) s =
      .next { s1 with rst := { s.rst with cause := s.rst.cause &&& ~~~(v.setWidth 14) } }) ∧
    (s.regAnswers p 0x48 = true → exec (.registerWrite p 0x48 8 v) s =
      .next (if (s.ports[p]).aqEn then s1 else s.modPort p fun h => { h with l1 := false, featAccept := v })) ∧
    (s.regAnswers p 0x104 = true → exec (.registerWrite p 0x104 4 v) s =
      .next (if (s.ports[p]).aqEn then s1 else s.modPort p fun h => { h with l1 := false, aqDepth := v.setWidth 13 })) ∧
    (s.regAnswers p 0x108 = true → exec (.registerWrite p 0x108 8 v) s =
      .next (if (s.ports[p]).aqEn then s1 else s.modPort p fun h => { h with l1 := false, aqSqBase := v &&& ~~~0xFFF#64 })) ∧
    (s.regAnswers p 0x110 = true → exec (.registerWrite p 0x110 8 v) s =
      .next (if (s.ports[p]).aqEn then s1 else s.modPort p fun h => { h with l1 := false, aqCqBase := v &&& ~~~0xFFF#64 })) ∧
    (s.regAnswers p 0x800 = true → exec (.registerWrite p 0x800 4 v) s =
      .next ((s.modPort p fun h => { h with l1 := false, qsel := v.setWidth 3 }).modDie (fin2 (v.toNat % 8 / 4)) fun d =>
        d.modTrace ⟨v.toNat % 4, by omega⟩ fun q => { q with en := v.getLsbD 4 })) ∧
    (s.regAnswers p 0x804 = true → exec (.registerWrite p 0x804 4 v) s =
      .next (s.modPort p fun h =>
        { h with l1 := false, underrun := if v.getLsbD 0 then h.underrun &&& ~~~(BitVec.twoPow 8 h.qsel.toNat) else h.underrun })) ∧
    (s.regAnswers p 0x2000 = true → exec (.registerWrite p 0x2000 4 v) s =
      .next (s.modPort p fun h => { h with l1 := false, elogDie := v.getLsbD 0 }))

/-- R405, R379: a port reset. The port's queues, set-up and accepted features go, with its locks, and its cause bit is set; its masks and routing
stay. Table 14.3, Table 13.1: a change of a link's rate or width shows in PORT_INFO and raises event 224 + 8p + 2; where the link is down, or has that
rate and width, nothing changes. -/
def Obligations.PortLinksAndResets : Prop :=
  (∀ (p : Port) (s : State),
    ∃ t, exec (.portReset p) s = .next t ∧ (t.ports[p]).qps = [] ∧ (t.ports[p]).linkUp = false ∧ (t.ports[p]).aqEn = false ∧
      (t.ports[p]).featAccept = 0 ∧ (t.ports[p]).mask = (s.ports[p]).mask ∧ (t.ports[p]).route = (s.ports[p]).route ∧
      (∀ l ∈ t.locks, l.cmd.port ≠ p) ∧ t.rst.cause = s.rst.cause ||| BitVec.twoPow 14 (12 + p.val) ∧
      t.mem = s.mem ∧ t.ledger = s.ledger ∧ t.supply = s.supply ∧ t.thermal = s.thermal ∧ t.stores = s.stores ∧
      (∀ q, q ≠ p → (t.ports[q]).regs = (s.ports[q]).regs)) ∧
  (∀ (p : Port) (gen width : Nat) (s : State), (s.ports[p]).linkUp = true → ¬ ((s.ports[p]).gen = gen ∧ (s.ports[p]).width = width) →
    ∃ t, exec (.linkRateOrWidthChange p gen width) s = .next t ∧ t.flagged (226 + 8 * p.val) ∧
      EventsOnly (s.modPort p fun h => { h with gen := gen, width := width }) t) ∧
  (∀ (p : Port) (gen width : Nat) (s : State), (s.ports[p]).linkUp = false ∨ ((s.ports[p]).gen = gen ∧ (s.ports[p]).width = width) →
    exec (.linkRateOrWidthChange p gen width) s = .next s)

/-- R318: a doorbell write. A tail or head that names a slot of an existing queue is taken; one that names no queue, or no slot, or a tail while a
RESET_QP of its queue is in progress, is ignored and raises the port's doorbell-error event. The bits above the index are reserved (R9). -/
def Obligations.Doorbells : Prop :=
  ∀ (p : Port) (q : Nat) (v : BitVec 32) (s : State),
    let n := bits v 0 16
    (∀ x, s.regAnswers p (0x1000 + 8 * q) = true → (s.ports[p]).qp? q = some x → n < x.depth → x.resetting = none →
      exec (.sqTailWrite p q v) s = .next ((s.modPort p fun h => { h with l1 := false }).modQp p q fun x => { x with sqTail := n })) ∧
    (∀ x, s.regAnswers p (0x1004 + 8 * q) = true → (s.ports[p]).qp? q = some x → n < x.depth →
      exec (.cqHeadWrite p q v) s = .next ((s.modPort p fun h => { h with l1 := false }).modQp p q fun x => { x with cqHead := n })) ∧
    (s.regAnswers p (0x1000 + 8 * q) = true →
      ((s.ports[p]).qp? q = none ∨ ∃ x, (s.ports[p]).qp? q = some x ∧ (x.depth ≤ n ∨ x.resetting.isSome = true)) →
      ∃ t, exec (.sqTailWrite p q v) s = .next t ∧ t.flagged (224 + 8 * p.val) ∧ EventsOnly (s.modPort p fun h => { h with l1 := false }) t) ∧
    (s.regAnswers p (0x1004 + 8 * q) = true →
      ((s.ports[p]).qp? q = none ∨ ∃ x, (s.ports[p]).qp? q = some x ∧ x.depth ≤ n) →
      ∃ t, exec (.cqHeadWrite p q v) s = .next t ∧ t.flagged (224 + 8 * p.val) ∧ EventsOnly (s.modPort p fun h => { h with l1 := false }) t)

/-- R438, R379: a write of 1 to AQ_CTL.EN at a port that answers. With every condition met the admin queue is enabled, empty, with phase 1; else ERR
names the first condition that fails, in the order of Table 14.5, and EN stays 0. While EN is 1 the write changes nothing. No write leaves a base that
is not a multiple of 4,096, so ERR 4 is met only in states that no run reaches (log 136); that ERR 1 is not met, since the write is then ignored, is the
model's choice (log 97). -/
def Obligations.AdminQueueEnabled : Prop :=
  ∀ (p : Port) (s : State), s.regAnswers p 0x100 = true →
    let h := s.ports[p]
    let s1 := s.modPort p fun h => { h with l1 := false }
    let featOk := h.featAccept.getLsbD 0 = true ∧ h.featAccept &&& ~~~s.featOffer = 0
    let depthOk := 2 ≤ h.aqDepth.toNat ∧ h.aqDepth.toNat ≤ 4096
    let baseOk := h.aqSqBase.toNat % 4096 = 0 ∧ h.aqCqBase.toNat % 4096 = 0
    (h.aqEn = true → exec (.adminQueueEnable p) s = .next s1) ∧
    (h.aqEn = false → s.answers p = true → featOk → depthOk → baseOk →
      exec (.adminQueueEnable p) s = .next (s.modPort p fun h =>
        { h with l1 := false, aqEn := true, aqErr := 0, rr := 0, qps := [Qp.fresh 0 h.aqDepth.toNat h.aqSqBase h.aqCqBase 0] })) ∧
    (h.aqEn = false → s.answers p = true → ¬ featOk →
      ∃ t, exec (.adminQueueEnable p) s = .next t ∧ t.flagged (225 + 8 * p.val) ∧
        EventsOnly (s.modPort p fun h => { h with l1 := false, aqErr := 2 }) t) ∧
    (h.aqEn = false → s.answers p = true → featOk → ¬ depthOk →
      exec (.adminQueueEnable p) s = .next (s.modPort p fun h => { h with l1 := false, aqErr := 3 })) ∧
    (h.aqEn = false → s.answers p = true → featOk → depthOk → ¬ baseOk →
      exec (.adminQueueEnable p) s = .next (s.modPort p fun h => { h with l1 := false, aqErr := 4 }))

/-- R392, R394, R398: the cold sources. Each sets its bit of RST_CAUSE, restores every domain but the always domain, and leaves every station Open
with WGATE_N_s and MEN_N_s high; causes 2 to 5 add one black-box entry that names the cause. Of the ledger nothing else changes but that writes in
progress are lost. R391, R392, R412: a power-on reset clears RST_CAUSE and sets bit 0; of the whole package only the ledger outlives it, with its
power-on count increased and without the writes in progress. That STNMAP is 0 until the fuses are loaded again is the model's choice (log 65). -/
def Obligations.ColdResets : Prop :=
  (∀ (i : Instr) (src : ResetSource) (cause detail : Nat) (s : State),
    (i = .resetN ∧ src = .resetN ∧ cause = 1 ∨
     (∃ rail mv, i = .supplyReset rail mv ∧ mv ≤ railReset.getD rail.val 0) ∧ src = .supply ∧ cause = 2 ∧ detail = 0 ∨
     (∃ d temp, i = .thermalTrip d temp ∧ 120 * 256 ≤ temp.toInt) ∧ src = .thermal ∧ cause = 3 ∧ detail = 0 ∨
     i = .watchdogExpiry ∧ s.wdogDue = true ∧ s.img.wdogCold = true ∧ src = .watchdogCold ∧ cause = 4 ∧ detail = 0 ∨
     (∃ f, f ≠ .refclk ∧ i = .packageFault f ∧ detail = pkgDetail f) ∧ src = .packageFault ∧ cause = 5) →
    src ∉ s.rst.asserted →
    ∃ t b, exec i s = .next t ∧ ColdRestored s t ∧ t.rst.cause = s.rst.cause ||| BitVec.twoPow 14 cause ∧
      t.rst.asserted = s.rst.asserted ++ [src] ∧
      t.ledger = { s.ledger with bbox := if cause = 1 then s.ledger.bbox else (b :: s.ledger.bbox).take 64,
                                 bboxCnt := s.ledger.bboxCnt + (if cause = 1 then 0 else 1), writing := [] } ∧
      b.cause = cause ∧ (cause ≠ 1 → b.detail = detail) ∧
      (cause = 3 → t.thermal.trip = true) ∧ (∀ st : Stn, (t.stns[st]).wgate = true ∧ (t.stns[st]).men = true ∧ (t.stns[st]).servo.motion = .open_)) ∧
  (∀ s : State, ∃ t, exec .powerOnReset s = .next t ∧ ColdRestored s t ∧ t.rst.cause = 1 ∧ t.rst.reach = .powerOn ∧
    t.ledger = { s.ledger with pwrCnt := s.ledger.pwrCnt + 1, writing := [] } ∧ t.supply = State.reset.supply ∧
    t.thermal = State.reset.thermal ∧ t.stnMap = 0)

/-- R458: loss of REFCLK is the package fault with bit 5, whose exit then waits for REFCLK. R396, R411, R458: a source that is released lets the exit
begin once no cold or power-on source is asserted and REFCLK is good: at E1 through the power-on reach, else at E2. The thermal trip is released with
THERMTRIP_N. -/
def Obligations.ClockLossAndReleases : Prop :=
  (∀ (i : Instr) (s : State), (i = .refclkLoss ∨ i = .packageFault .refclk) → s.rst.refclkLost = false →
    ∃ t b, exec i s = .next t ∧ ColdRestored s t ∧ t.rst.refclkLost = true ∧ t.rst.cause = s.rst.cause ||| BitVec.twoPow 14 5 ∧
      t.ledger = { s.ledger with bbox := (b :: s.ledger.bbox).take 64, bboxCnt := s.ledger.bboxCnt + 1, writing := [] } ∧ b.cause = 5 ∧ b.detail = 5) ∧
  (∀ (s : State),
    let start := fun (t : State) => if t.rst.holds (· != .warm) || t.rst.refclkLost then t
      else { t with rst := { t.rst with stage := if t.rst.reach = .powerOn then .e1 else .e2 } }
    s.rst.stage = .held →
      (∀ src, src ≠ .thermal → exec (.resetRelease src) s =
        .next (start { s with rst := { s.rst with asserted := s.rst.asserted.filter (· != src) } })) ∧
      exec .thermalTripRelease s = .next (start { s with
        thermal := { s.thermal with trip := false }
        rst := { s.rst with tripHeld := false, asserted := s.rst.asserted.filter (· != ResetSource.thermal) } }) ∧
      exec .refclkStable s = .next (start { s with rst := { s.rst with refclkLost := false } }))

/-- R392, R400, R437: the warm sources, where the formatter is ready. Each sets its bit and starts a quiesce, in which the station states already
saved are those of the stations that do not write. No domain is restored yet: memory, boot state, supply and key vault stay, and but for the
watchdog's source the ledger. R400, R393: in a quiesce a station with nothing left to write saves its state; a report of a signal box restarts its
watchdog. -/
def Obligations.WarmSourcesAndSaves : Prop :=
  (∀ (i : Instr) (src : ResetSource) (bit : Nat) (s : State), s.rst.stage = .ready →
    (i = .warmN ∧ src = .warmN ∧ bit = 8 ∨
     (∃ p, i = .warmRequest p ∧ (s.ports[p]).linkUp = true) ∧ src = .warmRequest ∧ bit = 9 ∨
     i = .watchdogExpiry ∧ s.wdogDue = true ∧ s.img.wdogCold = false ∧ src = .watchdogWarm ∧ bit = 10) →
    ∃ t, exec i s = .next t ∧ t.rst.stage = .quiesce ∧ t.rst.reach = .warm ∧ t.rst.cause = s.rst.cause ||| BitVec.twoPow 14 bit ∧
      src ∈ t.rst.asserted ∧ (∀ st : Stn, t.rst.saved.getLsbD st.val = !(s.stns[st]).writing) ∧
      t.mem = s.mem ∧ t.boot = s.boot ∧ t.supply = s.supply ∧ t.vault = s.vault ∧ t.pending = s.pending ∧ t.clock = s.clock ∧
      (bit ≠ 10 → t.ledger = s.ledger)) ∧
  ((∀ (st : Stn) (s : State), s.rst.stage = .quiesce → (s.stns[st]).writing = false →
    exec (.stationStateSave st) s = .next { s with rst := { s.rst with saved := s.rst.saved ||| BitVec.twoPow 8 st.val } }) ∧
  (∀ (d : DieId) (s : State), exec (.watchdogReport d) s =
    .next { s with rst := { s.rst with wdogLast := vmod s.rst.wdogLast d fun _ => s.clock } }))

/-- R401 to R404, R412: the end of a quiesce. Queues, the interlocking, key slots and domain keys, control stores, monitors and the admin set-up are
lost; buffer memory, the ledger, link states and mounts stay. A mounted station has its buffers stabled, and where it has not saved its state the
write state is broken. -/
def Obligations.QuiesceEnds : Prop :=
  ∀ s : State, s.rst.stage = .quiesce →
    ∃ t, exec .quiesceEnd s = .next t ∧
      (t.rst.stage = .e4 ∨ t.rst.stage = .holdE4) ∧ (t.rst.stage = .holdE4 ↔ s.rst.holds (· == .warm) = true) ∧
      t.mem = s.mem ∧ t.ledger = s.ledger ∧ t.boot.image = s.boot.image ∧ t.vault.domains = [] ∧ t.clock = s.clock ∧ t.pending = s.pending ∧
      t.locks = [] ∧ t.vault.slots = Vector.replicate 8 none ∧ t.stores = State.reset.stores ∧ t.power = State.reset.power ∧ t.boot.staging = none ∧
      (∀ p : Port, (t.ports[p]).qps = [] ∧ (t.ports[p]).aqEn = false ∧ (t.ports[p]).featAccept = 0 ∧ (t.ports[p]).stat = 0 ∧
        (t.ports[p]).linkUp = (s.ports[p]).linkUp) ∧
      (∀ d : DieId, (t.dies[d]).monitors = Vector.replicate 64 MonSlot.reset) ∧
      (∀ st : Stn, (t.stns[st]).stabled = (s.stns[st]).mount.isSome ∧ (t.stns[st]).mount = (s.stns[st]).mount ∧
        ((t.stns[st]).broken = ((s.stns[st]).broken || ((s.stns[st]).mount.isSome && !s.rst.saved.getLsbD st.val))))

/-- R369, R370: the choice of an image at E2. The candidates are every slot, the pending trial first and else CUR. The first candidate that passes the
checks is applied and booted, with CUR's pin moved where the image moves it; a rejection before it raises event 5; where every one fails, the recovery
state begins. What passes the checks rests on signatures, which are opaque here (log 6). -/
def Obligations.ImageChosen : Prop :=
  ∀ (f : Flash) (s : State), s.rst.stage = .e2 →
    (∀ x, x ∈ s.ledger.beginBoot.1) ∧
    s.ledger.beginBoot.1.head? = some (if s.ledger.tstate = .pending then s.ledger.trial.getD s.ledger.cur else s.ledger.cur) ∧
    (∀ (pre post : List SlotId) (x : SlotId) (g : Image), s.ledger.beginBoot.1 = pre ++ x :: post →
      (∀ y ∈ pre, ∃ e, accept (slotOf f y) s.ledger.floor s.ledger.pin = .error e) →
      accept (slotOf f x) s.ledger.floor s.ledger.pin = .ok g →
      ∃ t, exec (.bootImageChoice f) s = .next t ∧ t.boot.image = some g ∧ t.boot.recovery = false ∧ t.rst.stage = .e3 ∧
        t.ledger.booted = some x ∧ t.ledger.pin = (if x = s.ledger.cur ∧ g.movesPin s.ledger.pin ≠ [] then g.movesPin s.ledger.pin else s.ledger.pin) ∧
        (pre ≠ [] → t.flagged 5) ∧ (∀ p : Port, g.portOn p.val = false → (t.ports[p]).linkUp = false)) ∧
    ((∀ y, ∃ e, accept (slotOf f y) s.ledger.floor s.ledger.pin = .error e) →
      ∃ t, exec (.bootImageChoice f) s = .next t ∧ t.boot.image = none ∧ t.boot.recovery = true ∧ (t.rst.stage = .e4 ∨ t.rst.stage = .holdE4) ∧
        t.ledger.booted = none ∧ t.flagged 5 ∧ (t.ports[(1 : Port)]).linkUp = false)

/-- Table 12.3, R288, R301, R371, R393, R395: the other stages of an exit. The fuses give the usable stations; the fill leaves no byte of buffer
memory but as R288 says, and every buffer free in generation 1; DEVICE_READY raises event 0 and starts the watchdogs; a link that may train comes up
no faster than LINKMAX. -/
def Obligations.ExitStages : Prop :=
  (∀ s : State, s.rst.stage = .e1 → exec .fuseLoadDone s = .next { s with rst := { s.rst with stage := .e2 }, stnMap := Config.stnMap }) ∧
  (∀ s : State, s.rst.stage = .e3 → ∃ t, exec .memoryReady s = .next t ∧ (∀ a, Memory.read t.mem a = fillByte a) ∧ t.ucieDown = false ∧
    (t.rst.stage = .e4 ∨ t.rst.stage = .holdE4) ∧ (∀ (d : DieId) (p : Fin 5), ((t.dies[d]).pools[p]).bufs = [] ∧ ((t.dies[d]).pools[p]).waits = [])) ∧
  (∀ s : State, s.rst.stage = .e4 → s.rst.deferred = [] → ∃ t, exec .deviceReady s = .next t ∧
    t.rst.stage = (if s.boot.recovery then .recovery else .ready) ∧ t.rst.lastRst = s.rst.reach.code ∧ t.flagged 0 ∧
    (∀ d : DieId, t.rst.wdogLast[d] = s.clock) ∧ t.mem = s.mem ∧ t.ledger = s.ledger) ∧
  (∀ (p : Port) (gen width : Nat) (msix : Option (BitVec 64)) (g : Image) (s : State), s.mayTrain p = true → s.boot.image = some g →
    ∃ t, exec (.portLinkTrained p gen width msix) s = .next t ∧ (t.ports[p]).linkUp = true ∧ (t.ports[p]).gen = min gen (g.linkMax p.val) ∧
      (t.ports[p]).width = width ∧ (t.ports[p]).msixEn = msix.isSome ∧ (∀ q, q ≠ p → t.ports[q] = s.ports[q]) ∧ t.ledger = s.ledger)

/-- R368, R261, R300, R374: a ledger write completes, the oldest first. A new volume takes the next count and the next nonce prefix, a retired page
joins its die's list, and a staged image is pending for trial. R374, R375: a chunk is read back. One that differs ends its session with reason 14; one
that agrees, and is not the last, lets the session go on. A trial that runs when its window ends has expired, with event 7. -/
def Obligations.LedgerAndStaging : Prop :=
  (∀ (rest : List LedgerOp) (s : State),
    (∀ st w, s.ledger.writing = .newVolume st w :: rest → ∃ t, exec .ledgerWriteDone s = .next t ∧ t.ledger.volCnt = s.ledger.volCnt + 1 ∧
      t.ledger.npfx = s.ledger.npfx + 1) ∧
    (∀ d dpn w, s.ledger.writing = .retire d dpn w :: rest → (s.ledger.retired[d]).length < 2048 →
      ∃ t, exec .ledgerWriteDone s = .next t ∧ dpn ∈ t.ledger.retired[d] ∧ t.ledger.writing = rest) ∧
    (∀ slot w, s.ledger.writing = .stageTrial slot w :: rest → ∃ t, exec .ledgerWriteDone s = .next t ∧ t.ledger.trial = some slot ∧
      t.ledger.tstate = .pending ∧ t.ledger.writing = rest ∧ t.ledger.cur = s.ledger.cur ∧ t.ledger.booted = s.ledger.booted)) ∧
  ((∀ (x : Staging) (w : CmdRef) (ofs : Nat) (data back : List Byte) (last : Bool) (target : SlotRead) (s : State),
    s.boot.staging = some x → x.chunk = some (w, ofs, data, last) →
    (back ≠ data → exec (.chunkReadBack back target) s =
      .next (({ s with boot := { s.boot with staging := none } } : State).finish w { status := 0xF, reason := 14 })) ∧
    (back = data → last = false → exec (.chunkReadBack back target) s =
      .next (({ s with boot := { s.boot with staging := some { x with chunk := none, total := x.total ++ data } } } : State).finish w (.ok 0))) ∧
    (back = data → last = true → ∃ t, exec (.chunkReadBack back target) s = .next t ∧ t.boot.staging = none ∧
      (∀ n, stagedReason target (ofs + data.length) s.ledger.floor s.ledger.pin = some n → t.flagged 5 ∧ t.ledger.rejSlot = some x.target ∧
        t.ledger.rejReason = n ∧ t.ledger.writing = s.ledger.writing) ∧
      (stagedReason target (ofs + data.length) s.ledger.floor s.ledger.pin = none → t.ledger.writing = s.ledger.writing ++ [.stageTrial x.target w]))) ∧
  (∀ s : State, s.ledger.tstate = .running → ∃ t, exec .trialWindowExpiry s = .next t ∧ t.ledger = { s.ledger with tstate := .expired } ∧
    t.boot.trialEnd = none ∧ t.flagged 7))

/-- R320, R342, R469: what every host command does before its own effect. Out of its turn the row changes nothing; a fence that has not completed
holds the queue back; the first check of 1 to 5 that fails, in their order, ends the entry, which is taken; nothing else changes, but that a FIRST
that had passed checks 1 to 3 keeps its LON as a gap (R337, R470; which checks that takes in is the model's reading, log 67). -/
def Obligations.HostChecks : Prop :=
  ∀ (i : Instr) (opc : Nat) (c : HostCmd) (s : State), i.hostRow = some (opc, c) →
    (s.atTurn c = false → exec i s = .next s) ∧
    (s.atTurn c = true → s.fenceHolds c = true → exec i s = .next (s.hold c .fence)) ∧
    (∀ f, s.atTurn c = true → s.fenceHolds c = false → s.checks opc c = some f → ∃ t, exec i s = .next t ∧
        t = { (if opc = 1 ∧ s.firstBecomesGap c = true then s.gapLon c else s) with ports := t.ports, dies := t.dies, out := t.out } ∧
        t.ended (refOf c) f.status 0 ∧
        ∃ x y, (s.ports[c.port]).qp? c.qid = some x ∧ (t.ports[c.port]).qp? c.qid = some y ∧ y.sqHead = (x.sqHead + 1) % x.depth ∧ y.cmds = x.cmds)

/-- R331, R313, R370: IDENTIFY and GET_LOG of an entry that is accepted. With data to send and outside the recovery state the command waits for a
buffer and nothing leaves; otherwise its data leaves and it completes with the length as RESULT, and so it does once its buffer is granted. -/
def Obligations.DeviceData : Prop :=
  (∀ (i : Instr) (opc : Nat) (own : Option Ending) (c : HostCmd) (s : State),
    (i = .identify c ∧ opc = 0x80 ∧ own = identOwn c s ∨ i = .getLog c ∧ opc = 0x84 ∧ own = logOwn c s) →
    s.accepts opc c own → s.mustWake opc = false →
    ∃ t, exec i s = .next t ∧
      (s.adminBytes c.port c.entry ≠ [] → s.rst.stage ≠ .recovery → t.underWay (refOf c) c.entry .needBuffer) ∧
      (s.adminBytes c.port c.entry = [] ∨ s.rst.stage = .recovery →
        t.ended (refOf c) 0 (s.adminBytes c.port c.entry).length ∧
        ∀ o ∈ sendSegs c.port 0 (s.adminBytes c.port c.entry) false (dataSegs c.entry c.sgl), o ∈ t.out)) ∧
  (∀ (s : State) (d : DieId) (owner len : Nat) (p : Fin 5) (pt : Port) (q : Nat) (tag : BitVec 16) (k : Cmd),
    s.cmd? ⟨pt, q, tag⟩ = some k → k.entry.opc = 0x80 ∨ k.entry.opc = 0x84 → k.phase = .needBuffer ∨ k.phase = .waitBuffer → s.adminIdle →
    actingOwner owner = true → s.mayRequest d owner len (.command pt q tag) = true → poolFor len = some p →
    s.poolTurn d p (.poolGrant d owner len (.command pt q tag)) = true → s.grantOutcome d p owner = .granted →
    ∃ t x e, exec (.poolGrant d owner len (.command pt q tag)) s = .next t ∧ (t.ports[pt]).qp? q = some x ∧ e ∈ x.done ∧ e.tag = tag ∧
      e.status = 0 ∧ e.result = BitVec.ofNat 64 (s.adminBytes pt k.entry).length ∧
      ∀ o ∈ sendSegs pt 0 (s.adminBytes pt k.entry) false (dataSegs k.entry k.sgl), o ∈ t.out)

/-- R350, R349: an accepted CREATE_QP adds an empty queue pair with the fields of its entry, and an accepted DELETE_QP takes one away; both complete
with 0. R347: an accepted RESET_QP aborts every command of its queue, whose completion queue then gets one FINAL entry; the command is outstanding
until that entry is written. -/
def Obligations.QueuePairs : Prop :=
  (∀ (c : HostCmd) (s : State),
    (s.accepts 0x81 c (createOwn c s) → ∃ t, exec (.createQp c) s = .next t ∧ t.ended (refOf c) 0 0 ∧
      (t.ports[c.port]).qp? (c.entry.cd 0 2) = some (Qp.fresh (c.entry.cd 0 2) (c.entry.cd 2 2) (BitVec.ofNat 64 (c.entry.cd 8 8)) (BitVec.ofNat 64 (c.entry.cd 0x10 8)) (c.entry.cd 4 2))) ∧
    (s.accepts 0x82 c (deleteOwn c s) → ∃ t, exec (.deleteQp c) s = .next t ∧ t.ended (refOf c) 0 0 ∧
      (t.ports[c.port]).qp? (c.entry.cd 0 2) = none)) ∧
  (∀ (c : HostCmd) (s : State), s.accepts 0x83 c (resetOwn c s) →
    ∃ t x y d, exec (.resetQp c) s = .next t ∧ (s.ports[c.port]).qp? (c.entry.cd 0 2) = some x ∧ (t.ports[c.port]).qp? (c.entry.cd 0 2) = some y ∧
      y.cmds = [] ∧ y.done = [d] ∧ d.final = true ∧ d.status = 0 ∧ d.sqhd = some x.sqHead ∧ y.resetting = some (refOf c) ∧ y.sqHead = x.sqHead)

/-- R421: an accepted MONITOR_CTL stops, starts or clears the slot that it names, and no other, and completes with 0. R419: a running slot takes a
sample of its source, of the value that the package holds where it holds one (log 93): it is counted, it moves the least and the greatest value, and
one bin counts it; a slot that does not run takes none. -/
def Obligations.Monitors : Prop :=
  (∀ (c : HostCmd) (data : List Byte) (s : State), s.accepts 0x8E c (monOwn c data s) →
    ∃ t, exec (.monitorCtl c data) s = .next t ∧ t.ended (refOf c) 0 0 ∧
      ∀ (d : DieId) (n : Fin 64), (t.dies[d]).monitors[n] =
        if d.val = c.entry.cd 0 1 ∧ n.val = c.entry.cd 1 1 then ((s.dies[d]).monitors[n]).control (monOp c.entry) (monSource c.entry) data
        else (s.dies[d]).monitors[n]) ∧
  (∀ (s : State) (d : DieId) (n : Fin 64) (v : BitVec 32),
    let m := (s.dies[d]).monitors[n]
    let x := s.monValue m.source v
    (m.run = false → exec (.monitorSample d n v) s = .next s) ∧
    (m.run = true → ∃ t, exec (.monitorSample d n v) s = .next t ∧
      let m' := (t.dies[d]).monitors[n]
      m'.count = m.count + 1 ∧ m'.empty = false ∧ m'.run = true ∧ m'.edges = m.edges ∧
      m'.min = (if m.empty || monLt (srcSigned m.source) x m.min then x else m.min) ∧ m'.max = (if m.empty || monLt (srcSigned m.source) m.max x then x else m.max) ∧
      (∀ b : Fin 32, m'.bins[b] = if b.val = monBin (srcSigned m.source) m.edges x % 32 then satInc (m.bins[b]) else m.bins[b]) ∧
      ∀ k : Fin 64, k ≠ n → (t.dies[d]).monitors[k] = (s.dies[d]).monitors[k]))

/-- R361, R373 to R376, R300: an accepted chunk of IMAGE_STAGE is programmed into its session's own target, with the flash operations of R374, and its
session goes on; IMAGE_CONFIRM and RETIRE_PAGE wait for their ledger
write, or complete at once where there is nothing to write. -/
def Obligations.LedgerCommands : Prop :=
  ∀ (c : HostCmd) (data : List Byte) (s : State),
    (s.accepts 0x8A c (stageOwn c s) → stageBlocked c s = none →
      ∃ t y, exec (.imageStage c data) s = .next t ∧ t.underWay (refOf c) c.entry .moving ∧ t.boot.staging = some y ∧ y.port = c.port ∧
        y.nextOfs = c.entry.cd 0 4 + c.entry.dlen.toNat ∧ y.chunk = some (refOf c, c.entry.cd 0 4, padTo c.entry.dlen.toNat data, c.entry.flag 0) ∧
        (c.entry.cd 0 4 = 0 → s.ledger.target = some y.target ∧ y.total = []) ∧
        ∀ o ∈ chunkOps y.target (c.entry.cd 0 4) (padTo c.entry.dlen.toNat data) (c.entry.flag 0), Out.flash o ∈ t.out) ∧
    (s.accepts 0x8B c (confirmOwn c s) → ∃ t, exec (.imageConfirm c) s = .next t ∧
      if s.ledger.tstate = .running ∨ s.ledger.booted ≠ some s.ledger.cur then
        t.underWay (refOf c) c.entry .moving ∧ t.ledger = { s.ledger with writing := s.ledger.writing ++ [.confirm (refOf c)] }
      else t.ended (refOf c) 0 0 ∧ t.ledger = s.ledger) ∧
    (s.accepts 0x8C c (retireOwn c s) → ∃ t, exec (.retirePage c) s = .next t ∧
      if (s.ledger.retired[fin2 (c.entry.cd 0 1)]).contains (c.entry.cd 4 4) then t.ended (refOf c) 0 0 ∧ t.ledger = s.ledger
      else t.underWay (refOf c) c.entry .moving ∧
        t.ledger = { s.ledger with writing := s.ledger.writing ++ [.retire (fin2 (c.entry.cd 0 1)) (c.entry.cd 4 4) (refOf c)] })

/-- R353 to R355: a test starts; it ends by itself or by its timeout with the number of parts run and failed as RESULT and status 0x00, 0x0C or 0x11,
its report sent where it has a data buffer. KIND 0x0F leaves no test running and completes with 0, with no test running too (the model's choice, log
108). The states of the parts are operands; a station that stayed mounted, and a page of a buffer that stayed allocated, is never shown as tested. -/
def Obligations.SelfTests : Prop :=
  ∀ (s : State),
    (∀ (c : HostCmd) (parts : List TestPart), s.accepts 0x88 c (testOwn c s) →
      ∃ t, exec (.selfTest c parts) s = .next t ∧
        if c.entry.cd 0 1 = 0x0F then t.test = none ∧ t.ended (refOf c) 0 0
        else t.test = some ⟨c.entry.cd 0 1, refOf c, c.entry.rptr, s.clock, s.mountsHeld, s.buffersHeld⟩ ∧ t.underWay (refOf c) c.entry (if s.mustWake 0x88 then .queued else .moving)) ∧
    (∀ (i : Instr) (parts : List TestPart) (x : TestRun) (k : Cmd),
      i = .selfTestDone parts ∨ i = .selfTestTimeout parts → s.test = some x → s.cmd? x.cmd = some k → k.poisoned = false ∨ k.entry.rptr = 0 →
      let l := (testEntries x.kind).map fun e => s.untouched x (partOf parts e)
      let run := (l.filter fun p => p.state != 0).length
      let fail := (l.filter fun p => p.state == 2).length
      ∃ t, exec i s = .next t ∧ t.test = none ∧
        t.ended x.cmd (if i = .selfTestTimeout parts then 0x11 else if fail = 0 then 0 else 0x0C) (run + 256 * fail)) ∧
    (s.test = none → ∀ parts, exec (.selfTestDone parts) s = .next s ∧ exec (.selfTestTimeout parts) s = .next s)

/-- R406, R407: an accepted BLOCK_RESET holds its block in reset, and BLOCK_RETURN of it lets the block go and completes the command with 0. A
station's outputs go high and it is Open at once (log 113); an engine region's fences are gone. -/
def Obligations.BlockResets : Prop :=
  ∀ (s : State),
    (∀ (c : HostCmd), s.accepts 0x91 c (blkOwn c s) →
      ∃ t, exec (.blockReset c) s = .next t ∧ t.underWay (refOf c) c.entry .moving ∧
        t.blkRst = s.blkRst ++ [⟨blkKind c.entry, blkDie c.entry, blkIndex c.entry, refOf c⟩] ∧
        (blkKind c.entry = 0 → (t.stns[stnOf (blkIndex c.entry)]).inReset = true ∧ (t.stns[stnOf (blkIndex c.entry)]).servo.motion = .open_ ∧
          (t.stns[stnOf (blkIndex c.entry)]).wgate = true ∧ (t.stns[stnOf (blkIndex c.entry)]).men = true) ∧
        (blkKind c.entry = 1 → ∀ r : Fin 4, r.val = blkIndex c.entry → ((t.dies[blkDie c.entry]).engines[r]).inReset = true ∧
          ((t.dies[blkDie c.entry]).engines[r]).fenced = [])) ∧
    (∀ (n : Nat) (b : BlkReset) (k : Cmd), s.blkRst[n]? = some b → s.cmd? b.cmd = some k →
      ∃ t, exec (.blockReturn n) s = .next t ∧ t.blkRst = s.blkRst.eraseIdx n ∧ (b.kind = 0 → (t.stns[stnOf b.index]).inReset = false) ∧
        (b.kind = 1 → ∀ r : Fin 4, r.val = b.index → ((t.dies[b.die]).engines[r]).inReset = false) ∧
        ∃ x d, (t.ports[b.cmd.port]).qp? b.cmd.qid = some x ∧ d ∈ x.done ∧ d.tag = b.cmd.tag ∧ d.status = 0)

/-- R351, R352: a POWER_STATE that asks for no deeper state ends at once in the state it names; one that asks for a deeper state enters it, or is
outstanding with that state as its target. The exit to P0 leaves no command waiting for it. -/
def Obligations.PowerStates : Prop :=
  ∀ (s : State),
    (∀ (c : HostCmd), s.accepts 0x89 c (powerOwn c s) →
      let n := c.entry.cd 0 1
      ∃ t, exec (.powerState c) s = .next t ∧
        (n ≤ s.power.state → t.power.state = n ∧ t.ended (refOf c) 0 0) ∧
        (s.power.state < n → t.power.state = n ∧ t.power.target = none ∧ t.cmd? (refOf c) = none ∨
          t.power.state < n ∧ t.power.target = some (n, refOf c) ∧ t.underWay (refOf c) c.entry .moving)) ∧
    (s.power.exiting = true → s.power.target = none → ∃ t, exec .powerStateExitDone s = .next t ∧ t.power.state = 0 ∧ t.power.exiting = false ∧ t.power.waiting = []) ∧
    (s.power.exiting = false → exec .powerStateExitDone s = .next s)

/-- R237, R334, R335, R336, R261, R246: an accepted MOUNT of a station that is Open threads its cartridge and closes its loops, unless a set-point lies
more than 20 µm from the centreline, which ends it with 0x0C; one of a station that is not Open waits for it; after 30 s it completes with 0x0C.
UNMOUNT of a station with no volume context opens it at once, or, where its tape moves or it is in Hold, once it may; INIT_VOLUME waits for the ledger's counters. The cartridge
at the station is an operand of MOUNT (log 9); that a MOUNT with none loaded fails is the model's (log 60). -/
def Obligations.Mounting : Prop :=
  ∀ (s : State) (c : HostCmd), s.mustWake c.entry.opc.toNat = false →
    (∀ cart, s.accepts 0x85 c (mountOwn c cart s) →
      if (s.stns[c.entry.st]).servo.motion = .open_ ∧ (s.stns[c.entry.st]).servo.closing = false then
        (s.stns[c.entry.st]).ctx = none →
        let geo := s.mountGeo c.entry
        (reachable s.img geo c.entry.st (mountWraps c.entry geo) = true → ∃ t, exec (.mount c cart) s = .next t ∧
          (t.stns[c.entry.st]).mountCmd = some (refOf c) ∧ t.underWay (refOf c) c.entry .threading ∧ (t.stns[c.entry.st]).servo.threaded = true ∧
          (t.stns[c.entry.st]).servo.reelSet = s.img.reelOf geo ∧ (t.stns[c.entry.st]).servo.closing = true ∧ (t.stns[c.entry.st]).men = false) ∧
        (reachable s.img geo c.entry.st (mountWraps c.entry geo) = false → ∃ t, exec (.mount c cart) s = .next t ∧
          (t.stns[c.entry.st]).mountCmd = none ∧ t.ended (refOf c) 0x0C 0)
      else ∃ t, exec (.mount c cart) s = .next t ∧ (t.stns[c.entry.st]).mountCmd = some (refOf c) ∧ t.underWay (refOf c) c.entry .queued ∧
        (t.stns[c.entry.st]).servo = (s.stns[c.entry.st]).servo) ∧
    (s.accepts 0x86 c (unmountOwn c s) → (s.stns[c.entry.st]).ctx = none → ∃ t, exec (.unmount c) s = .next t ∧
      if (s.stns[c.entry.st]).servo.motion = .moving ∨ (s.stns[c.entry.st]).servo.motion = .hold then t.underWay (refOf c) c.entry .opening ∧ (t.stns[c.entry.st]).mountCmd = some (refOf c)
      else t.ended (refOf c) 0 0 ∧ (t.stns[c.entry.st]).mount = none ∧ (t.stns[c.entry.st]).servo.motion = .open_ ∧ (t.stns[c.entry.st]).men = true ∧
        (t.stns[c.entry.st]).wgate = true ∧ (t.stns[c.entry.st]).servo.threaded = ((s.stns[c.entry.st]).servo.threaded && !c.entry.flag 0)) ∧
    (s.accepts 0x87 c (initOwn c s) → ∃ t, exec (.initVolume c) s = .next t ∧ t.underWay (refOf c) c.entry .moving ∧
      (t.stns[c.entry.st]).mountCmd = some (refOf c) ∧ t.ledger = { s.ledger with writing := s.ledger.writing ++ [.newVolume c.entry.st (refOf c)] }) ∧
    (∀ (st : Stn) (r : CmdRef) (k : Cmd), (s.stns[st]).mountCmd = some r → s.cmd? r = some k → k.entry.opc = 0x85 → k.phase = .queued →
      ∃ t, exec (.mountOpenTimeout st) s = .next t ∧ t.ended r 0x0C 0 ∧ (t.stns[st]).mountCmd = none)

/-- R337, R338, R468, R313, R343: an accepted APPEND takes its bytes of its record, opens the record with the volume's next LON where it is the FIRST,
takes a write entry of the interlocking, and waits for a buffer, or for the hash lane where it brings no bytes. -/
def Obligations.AppendTaken : Prop :=
  ∀ (s : State) (c : HostCmd) (v : VolCtx), s.accepts 0x01 c (appendOwn c s) → appendBlocked c s = none → s.mustWake 0x01 = false →
    (s.stns[c.entry.st]).ctx = some v →
    (∀ (r : Rec), c.entry.flag apFirst = false → s.appendRec c = some r → r.abandon = none → v.rec? r.lon = some r →
      breaches r.declared (r.taken + c.entry.dlen.toNat) (c.entry.flag apEnd) = false →
      ∃ t v' r' k, exec (.append c) s = .next t ∧ (t.stns[c.entry.st]).ctx = some v' ∧ v'.lon = v.lon ∧ v'.rec? r.lon = some r' ∧
        r'.taken = r.taken + c.entry.dlen.toNat ∧ r'.accepted = r.accepted ∧ r'.ended = c.entry.flag apEnd ∧
        t.cmd? (refOf c) = some k ∧ k.lon = r.lon ∧ k.count = r.taken ∧ k.phase = (if c.entry.dlen = 0 then .moving else .needBuffer) ∧
        t.locks = s.locks ++ [⟨true, c.entry.st, c.entry.mnt, r.lon, r.lon, refOf c⟩]) ∧
    (c.entry.flag apFirst = true → s.atLonLimit c = false → v.rec? v.lon = none →
      breaches (if c.entry.flag apDecl then some (apSize c.entry) else none) c.entry.dlen.toNat (c.entry.flag apEnd) = false →
      ∃ t v' r' k, exec (.append c) s = .next t ∧ (t.stns[c.entry.st]).ctx = some v' ∧ v'.lon = v.lon + 1 ∧ v'.rec? v.lon = some r' ∧
        r'.taken = c.entry.dlen.toNat ∧ r'.accepted = 0 ∧ r'.ended = c.entry.flag apEnd ∧ r'.port = c.port ∧ r'.qid = c.qid ∧
        t.cmd? (refOf c) = some k ∧ k.lon = v.lon ∧ k.count = 0 ∧ k.phase = (if c.entry.dlen = 0 then .moving else .needBuffer) ∧
        t.locks = s.locks ++ [⟨true, c.entry.st, c.entry.mnt, v.lon, v.lon, refOf c⟩]) ∧
    (c.entry.flag apFirst = true → s.atLonLimit c = true → exec (.append c) s = .next (s.hold c (.lonLimit c.entry.st)))

/-- R343, R346: an accepted READ, LOCATE or VERIFY of a volume mounted for reading takes its read entry of the interlocking and asks for the tape: a
station at rest begins to seek, and one that is not has the request noted. -/
def Obligations.ReadersSeek : Prop :=
  ∀ (i : Instr) (opc : Nat) (c : HostCmd) (s : State) (m : Mount) (v : VolCtx),
    (i = .read c ∧ opc = 0x02 ∨ i = .locate c ∧ opc = 0x03 ∨ i = .verify c ∧ opc = 0x06) →
    s.accepts opc c (readerOwn c s) → readerBlocked c s = none → s.mustWake opc = false →
    (s.stns[c.entry.st]).mount = some m → m.mode = .read → (s.stns[c.entry.st]).ctx = some v → v.recs = [] →
    (s.stns[c.entry.st]).readSide.seekTo = none →
    ∃ t, exec i s = .next t ∧ t.locks = s.locks ++ [readLock c] ∧ t.underWay (refOf c) c.entry .moving ∧
      if (s.stns[c.entry.st]).servo.motion = .tensioned then
        (t.stns[c.entry.st]).readSide.active = true ∧ (t.stns[c.entry.st]).servo.motion = .moving ∧
          (t.stns[c.entry.st]).servo.ramp = some (.locate, ladder (s.ceiling c.entry.st))
      else (t.stns[c.entry.st]).speed.wantSeek = true

/-- R342, R345, R139, R130: an accepted FLUSH of a volume that owes nothing and has lost nothing completes with 0, one of a volume whose closure has
failed with 0x0C, and one that is owed something leaves its work with the station. What a FLUSH covers and reports as lost is the model's reading
(logs 70 and 112). An accepted ORDER_FENCE completes when its queue has no other command outstanding, and else holds the queue back. -/
def Obligations.FlushAndFence : Prop :=
  ∀ (s : State) (c : HostCmd),
    (∀ (v : VolCtx), s.accepts 0x04 c (flushOwn c s) → s.mustWake 0x04 = false → (s.stns[c.entry.st]).ctx = some v →
      (v.closureBad = true → ∃ t, exec (.flush c) s = .next t ∧ t.ended (refOf c) 0x0C 0) ∧
      (v.closureBad = false → v.report.owes v.cover = false → lostIn v.report v.cover = [] → ∃ t, exec (.flush c) s = .next t ∧ t.ended (refOf c) 0 0) ∧
      (v.closureBad = false → v.report.owes v.cover = true → v.closing = .none → (s.stns[c.entry.st]).write.flushes = [] →
        ∃ t j, exec (.flush c) s = .next t ∧ t.underWay (refOf c) c.entry .flushing ∧ j ∈ (t.stns[c.entry.st]).write.flushes ∧ j.why = .flush (refOf c) ∧
          j.cover = v.cover)) ∧
    (∀ (x : Qp), s.accepts 0x05 c none → (s.ports[c.port]).qp? c.qid = some x →
      ∃ t, exec (.orderFence c) s = .next t ∧ if x.cmds = [] then t.ended (refOf c) 0 0 else t.underWay (refOf c) c.entry .moving ∧ t.fenceHolds c = true)

/-- R142, R276, R281, R296, R403: an accepted SEAL of a volume with APPENDs outstanding and nothing else owed marks its volume as being sealed; an
accepted MIGRATE that does not resume one has a job in the phase that reads its source, or, where its source is unsealed, in the one that waits for
the number of its new volume; an accepted SCRUB_RANGE begins at its first page; RECOVER_STABLED and DISCARD_STABLED, where no write state is broken,
leave none of the stations they name stabled and complete with 0 or 0x10, with 0 where there is none to name (which of the two else is the model's
reading, log 104). -/
def Obligations.LongCommands : Prop :=
  ∀ (s : State) (c : HostCmd),
    (∀ v, s.accepts 0x08 c (sealOwn c s) → s.mustWake 0x08 = false → (s.stns[c.entry.st]).ctx = some v → s.appendsAt c.entry.st ≠ [] →
      (s.stns[c.entry.st]).write.flushes = [] → v.closing = .none →
      ∃ t v', exec (.seal c) s = .next t ∧ t.underWay (refOf c) c.entry .sealing ∧ (t.stns[c.entry.st]).ctx = some v' ∧ v'.sealing = true ∧
        v'.sealCmd = some (refOf c)) ∧
    (∀ v, s.accepts 0x07 c (migOwn c s) → s.mustWake 0x07 = false → c.entry.flag 2 = false → (s.stns[c.entry.st]).ctx = some v →
      ∃ t j, exec (.migrate c) s = .next t ∧ t.underWay (refOf c) c.entry .moving ∧ j ∈ t.migs ∧ j.cmd = some (refOf c) ∧ j.stopped = false ∧
        j.src = c.entry.st ∧ j.dst = migDst c.entry ∧
        if v.state = .unsealed then j.phase = 2 ∧ t.ledger.writing = s.ledger.writing ++ [.newVolume (migDst c.entry) (refOf c)]
        else j.phase = 1 ∧ t.ledger = s.ledger) ∧
    (s.accepts 0x8D c (scrubOwn c s) → s.mustWake 0x8D = false →
      ∃ t, exec (.scrubRange c) s = .next t ∧ t.underWay (refOf c) c.entry .moving ∧
        (t.dies[fin2 (c.entry.cd 0 1)]).scrub = some (ScrubJob.start (refOf c) c.entry)) ∧
    (∀ i opc, (i = .recoverStabled c ∧ opc = 0x8F ∨ i = .discardStabled c ∧ opc = 0x90) → s.accepts opc c none → s.mustWake opc = false →
      (∀ st ∈ s.stabledStns c.entry, (s.stns[st]).broken = false) →
      ∃ t, exec i s = .next t ∧ (∀ st ∈ s.stabledStns c.entry, (t.stns[st]).stabled = false) ∧ (t.ended (refOf c) 0 0 ∨ t.ended (refOf c) 0x10 0) ∧
        (s.stabledStns c.entry = [] → t.ended (refOf c) 0 0))

/-- R319, R321, R322, R343, R347: the oldest finished command of a queue is reported in the next slot of its completion queue, where that has room and
the port answers; its entries of the interlocking go, but that the completion of an entry whose TAG was in use leaves the outstanding command's alone
(R326). After a FINAL entry the queue is empty and no longer being reset. -/
def Obligations.CompletionsWritten : Prop :=
  ∀ (s : State) (p : Port) (q : Nat) (x : Qp), (s.ports[p]).qp? q = some x →
    (x.done = [] ∨ x.cqFull = true ∨ s.answers p = false → exec (.completionWrite p q) s = .next s) ∧
    (∀ (d : Done) (rest : List Done), x.done = d :: rest → x.cqFull = false → s.answers p = true →
      ∃ t y, exec (.completionWrite p q) s = .next t ∧ (t.ports[p]).qp? q = some y ∧
        Out.completion p q x.cqNext (x.cqBase + BitVec.ofNat 64 (16 * x.cqNext)) (d.word q (d.sqhd.getD x.sqHead) x.phase) ∈ t.out ∧
        y.cqNext = (x.cqNext + 1) % x.depth ∧ y.phase = (if y.cqNext = 0 then !x.phase else x.phase) ∧ (∃ l, y.done = rest ++ l) ∧
        (d.final = false → d.locks = true → ∀ l ∈ t.locks, l.cmd ≠ ⟨p, q, d.tag⟩) ∧
        (d.final = false → d.locks = false → ∀ l ∈ s.locks, l ∈ t.locks) ∧
        (d.final = true → y.sqHead = x.sqTail ∧ y.resetting = none))

/-- R408 to R410: a level of VDD_CORE below 0.715 V begins a dip, whose event is raised and in which writing stations send run-out fill; after 20 µs
stations that write stop; on recovery the dip is over, its event is raised, and its length and minimum are kept. R411, Table 12.11: a hot junction
sets a cap 4 steps below the highest set step of the stations that move, lowers it by 4 steps each time it still is hot, and stops every station at
the stop level; a cooler one raises the cap by 4 steps until it passes the highest step of the mounted descriptors, and ends the stop. Which stations
the cap is taken from, 32 where none moves, and where it ends is the model's choice (log 52). -/
def Obligations.DipsAndHeat : Prop :=
  (∀ (s : State),
    (∀ mv, 715 ≤ mv → exec (.vddCoreWarning mv) s = .next s) ∧
    (∀ mv, mv < 715 → s.supply.dip = false → ∃ t, exec (.vddCoreWarning mv) s = .next t ∧ t.supply.dip = true ∧ t.supply.dipStart = s.clock ∧
      t.supply.dipNow = 10 * mv ∧ t.flagged 2 ∧ ∀ st : Stn, (s.stns[st]).write.feed = .writing → (t.stns[st]).write.feed = .runOut) ∧
    (∀ mv, mv < 715 → s.supply.dip = true → ∃ t, exec (.vddCoreWarning mv) s = .next t ∧ t.supply.dip = true ∧ t.supply.recov = false ∧
      t.supply.dipNow = min s.supply.dipNow (10 * mv) ∧ (s.supply.recov = true → t.flagged 2) ∧ t.stns = s.stns) ∧
    (s.supply.dip = true → s.supply.dipStopped = false → ∃ t, exec .dipStop s = .next t ∧ t.supply = { s.supply with dipStopped := true } ∧
      ∀ st : Stn, (s.stns[st]).write.feed ≠ .off → (s.stns[st]).servo.motion = .moving → (t.stns[st]).servo.stops = true) ∧
    (∀ low regrades, s.supply.dip = true → ∃ t, exec (.dipRecovery low regrades) s = .next t ∧ t.supply.dip = false ∧ t.supply.recov = false ∧
      t.supply.dipMin = BitVec.ofNat 16 (min s.supply.dipNow (10 * low)) ∧
      t.supply.dipLen = BitVec.ofNat 32 (min ((s.clock - s.supply.dipStart) / 800) (2 ^ 32 - 1)) ∧ t.flagged 1) ∧
    (s.supply.dip = false → ∀ low regrades, exec .dipStop s = .next s ∧ exec (.dipRecovery low regrades) s = .next s)) ∧
  (∀ (s : State),
    (∀ d temp, temp.toInt < (s.img.throttleC : Int) * 256 → exec (.thermalThrottle d temp) s = .next s) ∧
    (∀ d temp, (s.img.throttleC : Int) * 256 ≤ temp.toInt → s.thermal.throt = false → ∃ t, exec (.thermalThrottle d temp) s = .next t ∧ t.thermal.throt = true ∧
      t.thermal.cap = some (s.topMoving - 4) ∧ t.flagged 3) ∧
    (∀ c, s.thermal.throt = true → s.thermal.cap = some c → ∃ t, exec .thermalThrottleStep s = .next t ∧ t.thermal = { s.thermal with cap := some (c - 4) }) ∧
    (s.thermal.throt = false ∨ s.thermal.cap = none → exec .thermalThrottleStep s = .next s) ∧
    (∃ t, exec .thermalCapRaise s = .next t ∧ t.thermal.throt = false ∧
      (∀ c, s.thermal.cap = some c → t.thermal.cap = if s.topGeo < c + 4 then none else some (c + 4)) ∧ t.stns = s.stns) ∧
    (∀ d temp, temp.toInt < (s.img.stopC : Int) * 256 → exec (.thermalStop d temp) s = .next s) ∧
    (∀ d temp, (s.img.stopC : Int) * 256 ≤ temp.toInt → s.thermal.stop = false → ∃ t, exec (.thermalStop d temp) s = .next t ∧ t.thermal.stop = true ∧ t.flagged 4 ∧
      ∀ st : Stn, (s.stns[st]).servo.motion = .moving → (t.stns[st]).servo.stops = true) ∧
    (∃ t, exec .thermalStopClear s = .next t ∧ t.thermal.stop = false ∧ t.thermal.cap = s.thermal.cap ∧ t.stns = s.stns))

/-- R249, R250, Table 7.14: what each level of the motor bus does to its station: below the warning level a cap 4 steps below the set step, lowered by
4 at each further 500 ms; below the stop level a stop; below the hold level Hold with both outputs high; above the recovery level the stop and the hold
are over and the cap rises by 4. Each of the three levels, and a reading that does not agree, raises the station's event. The level is
what the pin's reading shows through BUS_SCALE, cut to a whole mV (log 165). A level that is not crossed does nothing (log 1). -/
def Obligations.MotorBus : Prop :=
  ∀ (s : State) (st : Stn) (counts : Nat),
    let mv := s.img.busMv st.val counts
    let x := (s.stns[st]).speed
    let top := match (s.stns[st]).ctx with | some v => geoHigh v.geo | none => 32
    (s.img.busWarn ≤ mv → exec (.busWarning st counts) s = .next s ∧ exec (.busWarningStep st counts) s = .next s) ∧
    (mv < s.img.busWarn → ∃ t, exec (.busWarning st counts) s = .next t ∧ (t.stns[st]).speed.busCap = some ((s.stns[st]).servo.setStep - 4) ∧
      (t.stns[st]).speed.vbus = mv ∧ t.flagged (73 + 16 * st.val)) ∧
    (mv < s.img.busWarn → ∀ c, x.busCap = some c → ∃ t, exec (.busWarningStep st counts) s = .next t ∧ (t.stns[st]).speed.busCap = some (c - 4)) ∧
    (s.img.busStop ≤ mv → exec (.busStop st counts) s = .next s) ∧
    (mv < s.img.busStop → ∃ t, exec (.busStop st counts) s = .next t ∧ (t.stns[st]).speed.busStop = true ∧ t.flagged (73 + 16 * st.val) ∧
      ((s.stns[st]).servo.motion = .moving → (t.stns[st]).servo.stops = true)) ∧
    (s.img.busHold ≤ mv → exec (.busHold st counts) s = .next s) ∧
    (mv < s.img.busHold → ∃ t, exec (.busHold st counts) s = .next t ∧ (t.stns[st]).speed.busHeld = true ∧ (t.stns[st]).men = true ∧ (t.stns[st]).wgate = true ∧
      t.flagged (73 + 16 * st.val) ∧ ((s.stns[st]).servo.motion ≠ .open_ → (t.stns[st]).servo.motion = .hold)) ∧
    (mv ≤ s.img.busRecov → exec (.busRecovery st counts) s = .next s ∧ exec (.busRecoveryStep st counts) s = .next s) ∧
    (s.img.busRecov < mv → ∃ t, exec (.busRecovery st counts) s = .next t ∧ (t.stns[st]).speed.busStop = false ∧ (t.stns[st]).speed.busHeld = false ∧
      (t.stns[st]).speed.busCap = x.busCap.bind (raisedCap top)) ∧
    (s.img.busRecov < mv → ∃ t, exec (.busRecoveryStep st counts) s = .next t ∧ (t.stns[st]).speed.busCap = x.busCap.bind (raisedCap top) ∧
      (t.stns[st]).speed.busStop = x.busStop) ∧
    (∃ t, exec (.vbusMismatch st) s = .next t ∧ t.flagged (74 + 16 * st.val) ∧ t.stns = s.stns)

/-- R185 to R188: a lane goes down after three frames without SYNC or eight whose FEC fails, and its event is raised; legs over 110 ns are a latency
fault, with which the link is lost; training that succeeds brings the lane up with both legs padded to 110 ns, and ends the latency fault (the model's
choice, log 124); a lane that is down is trained again. R187, R192, R193, R245: loss of a link drives both outputs of its station high and ends its
writing; it is over once lane 0 or lane 1 is up and the head-end reports rest. A response with an end mark is taken for the request with its TAG, which
alone leaves the list of those sent, and an answer of HE_STATUS without an error gives the rest and hold bits. A row whose condition is not met changes
nothing (log 1). -/
def Obligations.LanesAndLinks : Prop :=
  (∀ (s : State) (st : Stn) (lane : Lane),
    let l := (s.stns[st]).link.lanes[lane]
    (l.up = false ∨ l.wrongSync < 3 ∧ l.badFec < 8 → exec (.laneDown st lane) s = .next s) ∧
    (l.up = true → 3 ≤ l.wrongSync ∨ 8 ≤ l.badFec → ∃ t, exec (.laneDown st lane) s = .next t ∧ t.flagged (65 + 16 * st.val) ∧
      ∀ n : Lane, ((t.stns[st]).link.lanes[n]).up = (decide (n ≠ lane) && ((s.stns[st]).link.lanes[n]).up)) ∧
    (∀ ok a b, l.training = false → exec (.laneTrainingDone st lane ok a b) s = .next s) ∧
    (∀ ok a b, l.training = true → 110 < a ∨ 110 < b → ∃ t, exec (.laneTrainingDone st lane ok a b) s = .next t ∧ (t.stns[st]).latency = true ∧
      (t.stns[st]).link.lost = true ∧ ((t.stns[st]).link.lanes[lane]).training = false ∧ t.flagged (66 + 16 * st.val)) ∧
    (∀ a b, l.training = true → a ≤ 110 → b ≤ 110 →
      (∃ t, exec (.laneTrainingDone st lane false a b) s = .next t ∧ ((t.stns[st]).link.lanes[lane]).training = false ∧
        ((t.stns[st]).link.lanes[lane]).up = l.up) ∧
      (∃ t, exec (.laneTrainingDone st lane true a b) s = .next t ∧ ((t.stns[st]).link.lanes[lane]).up = true ∧
        ((t.stns[st]).link.lanes[lane]).training = false ∧ ((t.stns[st]).link.lanes[lane]).legUp = 110 ∧ ((t.stns[st]).link.lanes[lane]).legDown = 110 ∧
        (t.stns[st]).latency = false)) ∧
    (l.up = false → l.training = false → s.rst.stage ≠ .held → s.power.state < 2 ∨ lane = 0 →
      ∃ t, exec (.laneTrainingRetry st lane) s = .next t ∧ ((t.stns[st]).link.lanes[lane]).training = true)) ∧
  (∀ (s : State) (st : Stn),
    ((s.stns[st]).link.lost = true → exec (.linkLoss st) s = .next s) ∧
    ((s.stns[st]).link.lost = false → ∃ t, exec (.linkLoss st) s = .next t ∧ (t.stns[st]).link.lost = true ∧ (t.stns[st]).men = true ∧ (t.stns[st]).wgate = true ∧
      (t.stns[st]).write.feed = .off ∧ t.flagged (64 + 16 * st.val)) ∧
    ((s.stns[st]).link.lost = true → (s.stns[st]).link.atRest = true →
      ((s.stns[st]).link.lanes[(0 : Fin 16)]).up = true ∨ ((s.stns[st]).link.lanes[(1 : Fin 16)]).up = true →
      ∃ t, exec (.linkRecovered st) s = .next t ∧ (t.stns[st]).link.lost = false ∧
        ((s.stns[st]).servo.motion = .hold → (s.stns[st]).speed.busHeld = false → (t.stns[st]).servo.motion = .open_)) ∧
    ((s.stns[st]).link.atRest = false → exec (.linkRecovered st) s = .next s) ∧
    (∀ (msg : BitVec 64) (r : CtrlReq), (s.stns[st]).link.reqs.find? (fun r => r.sent && r.tag == msg.extractLsb' 56 6) = some r →
      (bits msg 62 2 ≠ 3 → exec (.headEndResponse st msg) s = .next s) ∧
      (bits msg 62 2 = 3 → ∃ t, exec (.headEndResponse st msg) s = .next t ∧
        (∀ x ∈ (t.stns[st]).link.reqs, x ∈ dropFirst (· == r) (s.stns[st]).link.reqs ∨ x.sent = false) ∧
        ((s.stns[st]).link.cfgDone = true → r.write = false → r.addr = heStatusAddr → msg.getLsbD 32 = false →
          (t.stns[st]).link.atRest = msg.getLsbD 0 ∧ (t.stns[st]).link.heHold = msg.getLsbD 1))))

/-- R168, R169, R172, R175, R176, R179, R182, R191: frames and containers. A lane that is down neither takes nor sends a frame. One that is up sends
each frame as its codeword, with its polarity setting, and counts its sequence on. A lane reads the codeword of a message, sent with the polarity that
it is set to, as that message without correction. A received frame that the code cannot correct is counted and not taken; a data frame without DFAIL on
a lane that carries no sideband clears both counts and sets the cell count. A container that lane 0 brought is taken for its slot, and is the reading of
the reel period that its slot begins; where no lane brought it, it is missing: the last container stays, the slot spoils the servo frame that it lies
in, and the period that it begins has no reading. -/
def Obligations.FramesAndContainers : Prop :=
  ∀ (s : State) (st : Stn) (lane : Lane),
    let l := (s.stns[st]).link.lanes[lane]
    (l.up = false → ∀ f n, exec (.upstreamFrame st lane f) s = .next s ∧ exec (.downstreamFrame st lane n) s = .next s) ∧
    (∀ m : BitVec 5140, s.received st lane (polarity (s.img.inverts st.val lane.val true) (lineOf m)) = ⟨m, some 0⟩) ∧
    (∀ f, l.up = true → (s.received st lane f).fix = none → ∃ t, exec (.upstreamFrame st lane f) s = .next t ∧
      ((t.stns[st]).link.lanes[lane]).badFec = l.badFec + 1 ∧ ((t.stns[st]).link.lanes[lane]).frames = l.frames) ∧
    (∀ f, l.up = true → (s.received st lane f).type = 9 → frameField (s.received st lane f).msg 78 1 = 0 → 1 < lane.val →
      ∃ t, exec (.upstreamFrame st lane f) s = .next t ∧
      ((t.stns[st]).link.lanes[lane]).badFec = 0 ∧ ((t.stns[st]).link.lanes[lane]).wrongSync = 0 ∧
      ((t.stns[st]).link.lanes[lane]).cell =
        BitVec.ofNat 32 (frameField (s.received st lane f).msg 32 32) + BitVec.ofNat 32 (frameField (s.received st lane f).msg 64 8)) ∧
    (∀ n, l.up = true → ∃ t m, exec (.downstreamFrame st lane n) s = .next t ∧
      Out.frame st lane (polarity (s.img.inverts st.val lane.val false) (lineOf m)) ∈ t.out ∧
      ((t.stns[st]).link.lanes[lane]).txSeq = l.txSeq + 1) ∧
    (∀ slot, (∀ x ∈ (s.stns[st]).link.inBox, boxField x.2 0 16 ≠ slot.toNat) → ∃ t, exec (.sidebandContainer st slot) s = .next t ∧
      slot ∈ (t.stns[st]).servo.badSlots ∧ (t.stns[st]).servo.lastBox = (s.stns[st]).servo.lastBox ∧
      (slot = (s.stns[st]).servo.perNext → (t.stns[st]).servo.reelSeen = false ∧ (t.stns[st]).servo.auxSeen = false)) ∧
    (∀ slot x, (s.stns[st]).link.inBox.find? (fun y => y.1 == true && boxField y.2 0 16 == slot.toNat) = some x →
      ∃ t, exec (.sidebandContainer st slot) s = .next t ∧ (t.stns[st]).servo.lastBox = x.2 ∧
        (slot = (s.stns[st]).servo.perNext → (t.stns[st]).servo.perBox = x.2 ∧ (t.stns[st]).servo.reelSeen = true ∧ (t.stns[st]).servo.auxSeen = true) ∧
        ∀ y ∈ (t.stns[st]).link.inBox, boxField y.2 0 16 ≠ slot.toNat)

/-- R18, R19, R36, R37, R156: of the jobs that wait and have a lane and room, the one of the lowest class that has waited longest takes a lane that is in
service and free; a lane fault fences its lane, and with the second lane of a group the group. Hash jobs of records that are gone leave the region
first (log 71). R38, R252: a crypto lane takes its job with the volume key of the job's station in its key registers; where the UCIe link to the key
vault is down it takes none. -/
def Obligations.EngineLanes : Prop :=
  ∀ (s : State) (d : DieId) (r : Region),
    let u := s.dropJobs s.hashOver
    let e := (u.dies[d]).engines[regionNum r]
    let e0 := (s.dies[d]).engines[regionNum r]
    u.stns = s.stns ∧ u.ports = s.ports ∧
    (e.inReset = false → u.nextJob d r = none → exec (.engineDispatch d r) s = .next u) ∧
    (e.inReset = false → r = .crypto ∧ d = 1 ∧ s.ucieDown = true → exec (.engineDispatch d r) s = .next u) ∧
    (∀ l j, e.inReset = false → ¬ (r = .crypto ∧ d = 1 ∧ s.ucieDown = true) → u.nextJob d r = some j → u.laneFor d r j = some l →
      exec (.engineDispatch d r) s = .next (u.modDie d fun x => x.modEngine (regionNum r) fun e =>
        { e with running := e.running ++ [(l, if r = .crypto then { j with key := s.vault.slots[j.stn] } else j)], waiting := dropFirst (· == j) e.waiting }) ∧
      e.fenced.contains l = false ∧ e.groups.contains (l / groupSize r) = false ∧ ∀ x ∈ e.running, x.1 ≠ l) ∧
    (∀ j, u.nextJob d r = some j → j ∈ e.waiting ∧ u.jobRoom j = true ∧ (u.laneFor d r j).isSome = true ∧
      ∀ k ∈ e.waiting, u.jobRoom k = true → (u.laneFor d r k).isSome = true →
        u.jobClass j < u.jobClass k ∨ u.jobClass j = u.jobClass k ∧ j.age ≤ k.age) ∧
    (∀ lane, laneCount r ≤ lane ∨ e0.fenced.contains lane → exec (.engineLaneFault d r lane) s = .next s) ∧
    (∀ lane, lane < laneCount r → e0.fenced.contains lane = false → ∃ t, exec (.engineLaneFault d r lane) s = .next t ∧
      ((t.dies[d]).engines[regionNum r]).fenced = e0.fenced ++ [lane] ∧ t.flagged (192 + 16 * d.val + (regionNum r).val) ∧
      (∀ x ∈ ((t.dies[d]).engines[regionNum r]).running, x.1 ≠ lane) ∧
      (e0.fenced.any (fun n => n / groupSize r == lane / groupSize r) = true → e0.groups.contains (lane / groupSize r) = false →
        (lane / groupSize r) ∈ ((t.dies[d]).engines[regionNum r]).groups ∧ t.flagged (196 + 16 * d.val)))

/-- R331, R340, R470: the data of an APPEND that has passed the hash lane counts as accepted, and the APPEND completes with 0; poisoned data ends it
with 0x08 and raises its port's event. R105, R108, R111, R113, R154, R157: a block emitted joins its record, and a block emitted again keeps its
bytes; a marked block carries its mark; a block that fails its check is replaced by a raw one, and the lane of a raw one that fails is fenced; an
encrypted gathering carries that mark and its job is gone. -/
def Obligations.IntakeAndBlocks : Prop :=
  (∀ (s : State) (p : Port) (q : Nat) (tag : BitVec 16) (data : List Byte) (k : Cmd) (v : VolCtx) (x : Rec),
    s.cmd? ⟨p, q, tag⟩ = some k → k.entry.opc = 1 → k.phase = .moving → data.length = k.entry.dlen.toNat → (s.stns[k.entry.st]).ctx = some v → v.rec? k.lon = some x →
    x.accepted = k.count → s.jobRuns (dieOf k.entry.st) rHash (.hash k.entry.st k.lon) = true →
    (x.abandon = none → (s.stns[k.entry.st]).write.flushes = [] → v.closing = .none → v.sealCmd = none → k.poisoned = false →
      ∃ t v' x', exec (.intakeDone p q tag data false) s = .next t ∧
      t.answered ⟨p, q, tag⟩ 0 ∧ (t.stns[k.entry.st]).ctx = some v' ∧ v'.rec? k.lon = some x' ∧ x'.accepted = x.accepted + data.length ∧ x'.input = x.input ++ data) ∧
    (∃ t, exec (.intakeDone p q tag data true) s = .next t ∧ t.answered ⟨p, q, tag⟩ 8 ∧ t.flagged (227 + 8 * p.val))) ∧
  (∀ (s : State) (st : Stn) (v : VolCtx), (s.stns[st]).ctx = some v → v.closing = .none → (s.stns[st]).write.flushes = [] →
    let e := (s.dies[dieOf st]).engines[rComp]
    (∀ lon, s.jobRuns (dieOf st) rComp (.compress st lon) = false → exec (.blockEmit st lon) s = .next s) ∧
    (∀ lon r b l, v.rec? lon = some r → r.abandon = none → r.redo = none → e.laneOf (.compress st lon) = some l → r.stream.length + 131075 ≤ r.outCap →
      r.emitBlock l = some b → ∃ t v' r', exec (.blockEmit st lon) s = .next t ∧ (t.stns[st]).ctx = some v' ∧ v'.rec? lon = some r' ∧
        r'.blocks = r.blocks ++ [b] ∧ r'.accepted = r.accepted) ∧
    (∀ lon r l i, v.rec? lon = some r → r.redo = some i → e.laneOf (.compress st lon) = some l →
      ∃ t v' r', exec (.blockEmit st lon) s = .next t ∧ (t.stns[st]).ctx = some v' ∧ v'.rec? lon = some r' ∧
        r'.blocks.map (·.bytes) = r.blocks.map (·.bytes) ∧ r'.redo = if i + 1 < r.blocks.length then some (i + 1) else none) ∧
    (∀ lon r n b, v.rec? lon = some r → r.blocks[n]? = some b → r.emitted n = true → b.poisoned = false → ∃ t v' r' b', exec (.rightAwayMark st lon n) s = .next t ∧
      (t.stns[st]).ctx = some v' ∧ v'.rec? lon = some r' ∧ r'.blocks[n]? = some b' ∧ b'.marked = true ∧ b'.bytes = b.bytes) ∧
    (∀ lon r n b, v.rec? lon = some r → r.blocks[n]? = some b → b.marked = true → exec (.checkFail st lon n) s = .next s) ∧
    (∀ lon r n b, v.rec? lon = some r → r.blocks[n]? = some b → r.emitted n = true → b.marked = false → b.poisoned = false → r.abandon = none →
      let raw := dressBlock { r with blocks := r.blocks.take n } b.start b.last (rawBlock r.input b.start (b.start + b.len) b.last)
      (b.bytes ≠ raw → ∃ t v' r' b', exec (.checkFail st lon n) s = .next t ∧ (t.stns[st]).ctx = some v' ∧ v'.rec? lon = some r' ∧ r'.blocks[n]? = some b' ∧ b'.bytes = raw) ∧
      (b.bytes = raw → b.lane < 8 → ∃ t, exec (.checkFail st lon n) s = .next t ∧
        b.lane ∈ ((t.dies[dieOf st]).engines[rComp]).fenced ∧ (e.fenced.contains b.lane = false → t.flagged (193 + 16 * (dieOf st).val)))) ∧
    (∀ gnum, s.jobRuns (dieOf st) rCrypto (.encrypt st gnum) = false → exec (.encryptionDone st gnum) s = .next s) ∧
    (∀ gnum, gnum < v.gnum → s.jobRuns (dieOf st) rCrypto (.encrypt st gnum) = true → ∃ t, exec (.encryptionDone st gnum) s = .next t ∧
      t.jobRuns (dieOf st) rCrypto (.encrypt st gnum) = false ∧ ∀ g ∈ (t.stns[st]).write.gaths, g.gnum = gnum → g.encrypted = true))

/-- R93, R122, R127, R128, R471, R472, R475: the write side of a station whose volume is not being closed and owes no FLUSH. Nothing is placed while the
formatter is not ready; a released gathering that fits the wrap is laid out with its LPOS, its wrap and the chain so far (at the counted LPOS, log
26); a parity gathering that is placed again carries what its accumulator then holds; one that does not fit ends the layout of the wrap. An empty
gathering takes the next number only where none is unplaced (log 42). A band is frozen with the rows that its slots then hold. A gathering whose rows
are not all graded is not decided; one that passes leaves the write side; one that does not, and is no colophon's, is a write fault, whose event is
raised. R104: a gathering is placed only with a buffer for its C2 rows, and an empty one is made only with its own buffer. -/
def Obligations.GatheringsRecorded : Prop :=
  ∀ (s : State) (st : Stn) (v : VolCtx), (s.stns[st]).ctx = some v → v.closing = .none → (s.stns[st]).write.flushes = [] → s.power.target = none →
    let w := (s.stns[st]).write
    (∀ n, s.ready = false → exec (.gatheringPlace st n) s = .next s) ∧
    (∀ n g, s.ready = true → w.tailLeft = none → (s.stns[st]).intoReserve = false → w.lays = true → w.ahead < 2 → (s.stns[st]).servo.lposOk = true →
      w.gaths.find? (fun g => !g.placed) = some g → g.released = true →
      (w.fits v = true → g.c2Buf = none → ∃ t, exec (.gatheringPlace st n) s = .next t ∧ (t.stns[st]).write.toSend = w.toSend) ∧
      (w.fits v = true → g.c2Buf.isSome = true → ∃ t, exec (.gatheringPlace st n) s = .next t ∧ (t.stns[st]).write.toSend = (w.layGath (gathPositions g) g.gnum).toSend ∧
        ∃ g' ∈ (t.stns[st]).write.gaths, g'.gnum = g.gnum ∧ g'.placed = true ∧ g'.wrap = w.wrap ∧
          if g.kind = .parity then g'.payload = (v.acc g.quire).getD (g.qpos - 32) (zeros areaBytes)
          else g'.lpos = s.lposAt st n ∧ g'.prev = if v.chain.isEmpty then zeros 48 else v.chain) ∧
      (w.fits v = false → ∃ t, exec (.gatheringPlace st n) s = .next t ∧ (t.stns[st]).write.wrapOver = true)) ∧
    (s.ready = true → w.feed = .writing → w.unplaced = 0 → w.ahead < 2 → s.mayClose st = true → w.hasEmpty = true → w.empties < 256 → w.openSegs.any (·.inc) = false →
      ∃ t v' g, exec (.emptyGathering st) s = .next t ∧ (t.stns[st]).ctx = some v' ∧ v'.gnum = v.gnum + 1 ∧ (t.stns[st]).write.gaths = w.gaths ++ [g] ∧ g.gnum = v.gnum ∧
        g.segs = [] ∧ (t.stns[st]).write.openSegs = w.openSegs ∧ (t.stns[st]).write.empties = w.empties + 1) ∧
    (w.unplaced ≠ 0 → exec (.emptyGathering st) s = .next s) ∧
    (∀ p, w.toSend.find? (fun p => match p.kind with | .band _ => p.slots.isEmpty | _ => false) = some p → ∃ t, exec (.bandFreeze st) s = .next t ∧
      ∀ x ∈ (t.stns[st]).write.toSend, x.seq = p.seq → x.slots = fillBand w p.bandNo) ∧
    (∀ g, w.gaths.find? (fun x => x.gnum == g.gnum) = some g → w.decidable g = false → exec (.gatheringAcceptance st g.gnum) s = .next s) ∧
    (∀ g, w.gaths.find? (fun x => x.gnum == g.gnum) = some g → g.gnum < v.gnum → w.decidable g = true → (s.stns[st]).stabled = false → g.passes = true → v.initCmd = none →
      ∃ t, exec (.gatheringAcceptance st g.gnum) s = .next t ∧ ∀ x ∈ (t.stns[st]).write.gaths, x.gnum ≠ g.gnum) ∧
    (∀ g, w.gaths.find? (fun x => x.gnum == g.gnum) = some g → w.decidable g = true → (s.stns[st]).stabled = false → g.passes = false → v.faulted = false → g.kind ≠ .colophon →
      ∃ t v', exec (.gatheringAcceptance st g.gnum) s = .next t ∧ t.flagged (68 + 16 * st.val) ∧ (t.stns[st]).ctx = some v' ∧ v'.faulted = true)

/-- R133, R135, Table 4.7: the decision of a writing station that nothing holds back: down to the ceiling, a stop at STOP, one step down at LOW above
the floor, one step up at HIGH below the ceiling after the dwell, else no change; a stopped station starts again at RESTART, with a backhitch where
part of its wrap is recorded or its tape stands inside the range of a wrap that begins (R137, R473). The counts of the link begin a new interval (log 55), and occupancy is reckoned as log 25 says. R24, R25, R116,
R117, R136, R137, R473: writing goes on, at the cell clock of the new step, after a speed step that has settled, with a splice slot and, where the cell
clock changes, a pulse of the gate; after a backhitch of the cells it took, with a splice slot; or at the start of a wrap with no dead tracks. Where it may not go on, or the wrap is
over, run-out fill goes on; where LPOS is lost, a station about to write stops (the model's choice, log 164). A stop raises WGATE_N; the end of a wrap begins the next one in the other direction (R238: in another data band the lateral
loop opens, the image's seek profile is due, and LPOS is to be acquired afresh), and the end of the last is a write fault. -/
def Obligations.SpeedAndWriting : Prop :=
  (∀ (s : State) (st : Stn),
    let s1 := s.modStn st fun t => t.modSpeed fun x => x.ratio s.clock
    let o := s.occupancy st
    let cur := (s.stns[st]).servo.setStep
    s.power.target = none → (s.stns[st]).speed.wantSeek = false →
    ((s.stns[st]).speed.stopped = false → s.ready = true → (s.stns[st]).write.feed = .writing → (s.stns[st]).servo.ramp = none → (s.stns[st]).speed.stepping = none →
      (s.stns[st]).parityRuns = false → (s.stns[st]).servo.motion = .moving →
      ∃ t, exec (.speedDecision st) s = .next t ∧ (t.stns[st]).link.counts = [] ∧
        if s.ceiling st < cur then (t.stns[st]).speed.stepping = some (s.ceiling st) ∧ (t.stns[st]).servo.setStep = s.ceiling st
        else if o ≤ s.img.stop then (t.stns[st]).speed.stopping = true ∧ (t.stns[st]).servo.stops = true
        else if o ≤ s.img.low ∧ s1.floor st < cur then (t.stns[st]).speed.stepping = some (cur - 1) ∧ (t.stns[st]).servo.setStep = cur - 1
        else if s.img.high ≤ o ∧ cur < s.ceiling st ∧ (s.stns[st]).speed.lastStep + s.img.dwell ≤ s.clock then
          (t.stns[st]).speed.stepping = some (cur + 1) ∧ (t.stns[st]).servo.setStep = cur + 1
        else (t.stns[st]).speed.stepping = none ∧ (t.stns[st]).servo.setStep = cur ∧ (t.stns[st]).write = (s.stns[st]).write) ∧
    (∀ v, (s.stns[st]).ctx = some v → (s.stns[st]).speed.stopped = true → s.mayStart st = true → s.img.restart ≤ o → (s.stns[st]).write.empties < 256 → (s.stns[st]).servo.motion = .tensioned →
      (s.stns[st]).write.wrapOver = false →
      ∃ t, exec (.speedDecision st) s = .next t ∧ (t.stns[st]).servo.motion = .moving ∧ (t.stns[st]).write.feed = .resume ∧
        if (s.stns[st]).write.cellPos = 0 ∧ (s.stns[st]).inRange v.geo ((s.stns[st]).write.wrap % 2 == 1) = false then (t.stns[st]).servo.reverse = ((s.stns[st]).write.wrap % 2 == 1)
        else (t.stns[st]).servo.back.isSome = true ∧ (t.stns[st]).servo.reverse = !((s.stns[st]).write.wrap % 2 == 1))) ∧
  (∀ (s : State) (st : Stn),
    let x := s.stns[st]
    let splice := fun (t : State) => ∀ v, x.ctx = some v → (t.stns[st]).write.toSend = (x.write.laySplice (lastPlaced v x.write)).toSend
    (x.speed.stepping = none ∨ x.servo.settled = false → exec (.speedStepDone st) s = .next s) ∧
    (∀ n, x.speed.stepping = some n → x.servo.ramp = none → x.servo.settled = true → x.write.feed = .runOut →
      (s.mayResume = true → x.write.wrapOver = false → x.servo.setStep ≤ s.ceiling st →
        ∃ t, exec (.speedStepDone st) s = .next t ∧ (t.stns[st]).write.feed = .writing ∧ (t.stns[st]).wgate = false ∧ (t.stns[st]).speed.stepping = none ∧
          (t.stns[st]).speed.lastStep = s.clock ∧ (t.stns[st]).servo.clkStep = x.servo.setStep ∧
          (x.servo.clkStep ≠ x.servo.setStep → Out.gatePulse st ∈ t.out) ∧ splice t) ∧
      (s.mayResume = false ∨ x.write.wrapOver = true →
        ∃ t, exec (.speedStepDone st) s = .next t ∧ (t.stns[st]).write = x.write ∧ (t.stns[st]).speed.stepping = none ∧ (t.stns[st]).speed.lastStep = s.clock)) ∧
    (x.speed.stopping = false ∨ 1000 ≤ x.servo.speedMm → exec (.stopDone st) s = .next s) ∧
    (x.speed.stopping = true → x.servo.speedMm < 1000 → ∃ t, exec (.stopDone st) s = .next t ∧ (t.stns[st]).wgate = true ∧ (t.stns[st]).write.feed = .off) ∧
    (∀ n, x.write.feed ≠ .resume ∨ x.servo.settled = false → exec (.backhitchDone st n) s = .next s ∧ exec (.wrapStart st) s = .next s) ∧
    (∀ n, x.write.feed = .resume → x.servo.ramp = none → x.servo.motion = .moving → x.servo.settled = true → s.mayResume = true → x.servo.setStep ≤ s.ceiling st →
      (x.servo.lposOk = false → (x.write.cellPos ≠ 0 → x.servo.back = none → x.servo.reverse = (x.write.wrap % 2 == 1) →
          ∃ t, exec (.backhitchDone st n) s = .next t ∧ (t.stns[st]).servo.stops = true) ∧
        (x.write.cellPos = 0 → ∃ t, exec (.wrapStart st) s = .next t ∧ (t.stns[st]).servo.stops = true)) ∧
      (x.servo.lposOk = true → x.write.cellPos ≠ 0 → x.servo.back = none → x.servo.reverse = (x.write.wrap % 2 == 1) →
        ∃ t, exec (.backhitchDone st n) s = .next t ∧ (t.stns[st]).write.feed = .writing ∧ (t.stns[st]).wgate = false ∧
          (t.stns[st]).write.cellPos = x.write.cellPos + min n (32000 - x.write.late) ∧ (t.stns[st]).servo.clkStep = x.servo.setStep ∧ splice t) ∧
      (x.servo.lposOk = true → x.write.cellPos = 0 → ∃ t, exec (.wrapStart st) s = .next t ∧ (t.stns[st]).write.feed = .writing ∧ (t.stns[st]).wgate = false ∧ (t.stns[st]).write.dead = 0 ∧
        (t.stns[st]).servo.clkStep = x.servo.setStep)) ∧
    (x.servo.motion ≠ .moving → exec (.wrapEnd st) s = .next s) ∧
    (∀ v, x.ctx = some v → x.servo.motion = .moving → x.write.feed = .writing → s.ready = true → v.closing = .none → x.write.flushes = [] →
      (x.write.wrap + 1 < geoWraps v.geo → ∃ t, exec (.wrapEnd st) s = .next t ∧ (t.stns[st]).wgate = true ∧ (t.stns[st]).write.wrap = x.write.wrap + 1 ∧
        (t.stns[st]).write.cellPos = 0 ∧ (t.stns[st]).write.dead = 0 ∧ (t.stns[st]).servo.reverse = ((x.write.wrap + 1) % 2 == 1) ∧
        let band := (x.write.wrap + 1) / max (geoWpb v.geo) 1
        (band ≠ x.servo.dataBand → (t.stns[st]).servo.dataBand = band ∧
          (∃ l d, (t.stns[st]).servo.seek = some ⟨band, false, false, l ++ seekMoves s.img st x.servo.dataBand band, d⟩) ∧
          (t.stns[st]).servo.lposOk = false ∧ (t.stns[st]).servo.settled = false)) ∧
      (geoWraps v.geo ≤ x.write.wrap + 1 → v.faulted = false → ∃ t v', exec (.wrapEnd st) s = .next t ∧ t.flagged (68 + 16 * st.val) ∧ (t.stns[st]).ctx = some v' ∧
        v'.faulted = true)))

/-- R98 to R101, R204, R209, R210: what becomes of a gathering and of a quire in a reading that no reader waits on and no MIGRATE reads. C2's result
is kept with its erasures: a parity gathering's as it is; a label gathering's that is not whole cannot be recovered; a data gathering's that fails is
whole only without erasures; one whose header passes takes kind and slot from it and goes to the crypto region. What C3 leaves of a quire's gatherings
is kept, and those that are clear go to the crypto region; where every gathering that is left of a group stays erased, the group is read again while
passes remain, at the slower of the station's step and REREAD_STEP and from a place that the tape first runs back to, and after the last pass they are
unrecovered. A tag that passes gives the gathering's payload; at the first tag that fails the gathering is taken as erased as a whole (the model's
reading, log 92). A re-reading pass that was not begun, and a decryption that does not run, do nothing. -/
def Obligations.GatheringsRead : Prop :=
  ∀ (s : State) (st : Stn), (s.stns[st]).readSide.active = true → (s.stns[st]).readSide.ended = false → (s.stns[st]).readSide.reread = false → s.readersOf st = [] →
    s.migOf st = none →
    (∀ g, (s.stns[st]).readSide.gath? g.gnum = some g → g.area = none → g.whole = false → g.unrec = false → (s.stns[st]).gathDue g = true →
      let a := g.afterC2
      let g1 := { g with area := some a.1, erased := a.2 }
      (g.kind = .parity → ∃ t, exec (.gatheringDecode st g.gnum) s = .next t ∧ (t.stns[st]).readSide.gath? g.gnum = some g1) ∧
      (g.kind ≠ .parity → (a.2 ≠ [] ∨ headerOk a.1 = false) → ∃ t, exec (.gatheringDecode st g.gnum) s = .next t ∧ (t.stns[st]).readSide.gath? g.gnum =
        some (if g.kind.label then { g1 with unrec := true } else { g1 with whole := a.2.isEmpty })) ∧
      (∀ v, g.kind ≠ .parity → a.2 = [] → headerOk a.1 = true → (s.stns[st]).ctx = some v → bytesAt a.1 8 16 = padTo 16 v.volid → g1.hd 0x18 8 = g.gnum →
        s.mountIn st .readEndpaper = none →
        ∃ t, exec (.gatheringDecode st g.gnum) s = .next t ∧ (t.stns[st]).readSide.gath? g.gnum = some g1.headed ∧
          t.hasJob (dieOf st) rCrypto (.decrypt st g.gnum))) ∧
    (∀ v quire, (s.stns[st]).ctx = some v → (s.stns[st]).quireDue v quire = true →
      let k := (s.stns[st]).readSide.addMissing v quire
      let fixed := k.mended v quire
      let k1 : Recall := { fixed.foldl (fun a g => a.modGath g.gnum fun _ => g) k with c3Done := quire :: k.c3Done.filter (· != quire) }
      (∀ g ∈ fixed, (∀ x ∈ fixed, x.gnum = g.gnum → x = g) → ∃ t g', exec (.quireDecode st quire) s = .next t ∧ (t.stns[st]).readSide.gath? g.gnum = some g' ∧
        g'.area = g.area ∧ g'.erased = g.erased ∧ g'.whole = g.whole ∧ (g.clear = true → t.hasJob (dieOf st) rCrypto (.decrypt st g.gnum))) ∧
      (∀ x, k1.groupOf v quire = some x →
        let l := (k1.inGroup v x).filter fun g => g.kind == .data && g.plain.isNone && !g.unrec
        l ≠ [] → (∀ g ∈ l, g.erasedStill = true ∧ (k1.slotOf v g).any (fun q => k1.c3Done.contains q.1) = true) →
        (k1.pass < s.img.rereadMax → ∃ t, exec (.quireDecode st quire) s = .next t ∧ (t.stns[st]).readSide.reread = true ∧
          (t.stns[st]).readSide.failed = l.map (·.gnum) ∧ (t.stns[st]).servo.motion = .moving ∧
          (t.stns[st]).servo.setStep = min (s.stns[st]).servo.setStep s.img.rereadStep ∧ (t.stns[st]).servo.back.isSome = true) ∧
        (s.img.rereadMax ≤ k1.pass → ∃ t, exec (.quireDecode st quire) s = .next t ∧
          ∀ g ∈ l, ∀ g', (t.stns[st]).readSide.gath? g.gnum = some g' → g'.unrec = true))) ∧
    exec (.rereadPassDone st) s = .next s ∧
    (∀ gnum, s.jobRuns (dieOf st) rCrypto (.decrypt st gnum) = false → exec (.decryptionDone st gnum) s = .next s) ∧
    (∀ g p, s.jobRuns (dieOf st) rCrypto (.decrypt st g.gnum) = true → (s.stns[st]).readSide.gath? g.gnum = some g → g.kind = .data →
      g.opens (s.jobKey (dieOf st) (.decrypt st g.gnum)) = some p → s.mountIn st .readEndpaper = none →
      ∃ t h, exec (.decryptionDone st g.gnum) s = .next t ∧ (t.stns[st]).readSide.gath? g.gnum = some h ∧ h.plain = some p ∧ h.area = g.area) ∧
    (∀ g v, s.jobRuns (dieOf st) rCrypto (.decrypt st g.gnum) = true → (s.stns[st]).readSide.gath? g.gnum = some g → (s.stns[st]).ctx = some v → g.kind = .data →
      g.tagTried = false → g.opens (s.jobKey (dieOf st) (.decrypt st g.gnum)) = none →
      ∃ t, exec (.decryptionDone st g.gnum) s = .next t ∧ (t.stns[st]).readSide.gath? g.gnum = some { g with whole := true, tagTried := true })

/-- R18, R21, R166, R210, R271, R279, R325: a record that the decompression lane and the hash lane have done with gives its READs their verdict (which
status, and the bytes moved, log 90); with one of the two not done nothing happens. A re-reading pass that is over merges what it read; a rebuild that
finds no break of the chain and every gathering acceptable mounts its volume for appending with the next mount number, with its write side as the
reading shows it (log 63), and one that finds a break ends its MOUNT with 0x07; a
complete record is handed to the destination of a MIGRATE, where it takes its LON. -/
def Obligations.RecordsRead : Prop :=
  ∀ (s : State) (st : Stn),
    (∀ lon, s.jobRuns (dieOf st) rDecomp (.decompress st lon) = false ∨ s.jobRuns (dieOf st) rHash (.fixity st lon) = false →
      exec (.decompressionDone st lon) s = .next s) ∧
    (∀ lon c, s.jobRuns (dieOf st) rDecomp (.decompress st lon) = true → s.jobRuns (dieOf st) rHash (.fixity st lon) = true →
      c ∈ s.readersOf st → (∀ x ∈ s.readersOf st, x.1 = c.1 → x = c) → s.cmd? c.1 = some c.2 → c.2.entry.opc = 2 → c.2.entry.cd 0 8 = lon → c.2.poisoned = false →
      ∃ t, exec (.decompressionDone st lon) s = .next t ∧ t.answered c.1 ((s.stns[st]).readSide.check lon).ending.1) ∧
    ((s.stns[st]).readSide.active = true → (s.stns[st]).readSide.reread = true → s.mountIn st .readEndpaper = none →
      ((s.stns[st]).passRead = false → exec (.rereadPassDone st) s = .next s) ∧
      ((s.stns[st]).passRead = true → ∃ t, exec (.rereadPassDone st) s = .next t ∧ (t.stns[st]).readSide = (s.stns[st]).readSide.again ∧
        ((s.stns[st]).readSide.ended = false → (t.stns[st]).servo.motion = .moving ∧ (t.stns[st]).servo.setStep = s.ceiling st))) ∧
    (s.mountIn st .rebuilding = none → exec (.rebuildPassDone st) s = .next s) ∧
    (∀ r k v, s.mountIn st .rebuilding = some (r, k) → k.poisoned = false → (s.stns[st]).ctx = some v → (s.stns[st]).readSide.reread = false →
      (s.stns[st]).readSide.gaths.any RGath.undecided = false →
      let x := (s.stns[st]).readSide.trim v
      (x.labels .colophon).isEmpty = true →
      ((x.firstBreak none (x.gaths.foldl (fun a g => max a g.gnum) 0)).isSome = true → ∃ t, exec (.rebuildPassDone st) s = .next t ∧ t.answered r 7) ∧
      (x.firstBreak none (x.gaths.foldl (fun a g => max a g.gnum) 0) = none → ((x.judged (x.restore v)).any fun g => !g.acceptable) = false →
      ∃ t m, exec (.rebuildPassDone st) s = .next t ∧ (t.stns[st]).mount = some m ∧ m.mode = .append ∧ m.num = s.mntCnt + 1 ∧ t.mntCnt = s.mntCnt + 1 ∧
        (t.stns[st]).ctx = some (x.restore v) ∧ t.answered r 0)) ∧
    (∀ lon j v b, s.migOf st = some j → j.phase = 3 → j.cmd.isSome = true → j.dst ≠ st → (s.stns[st]).ctx = some v → (s.stns[j.dst]).ctx = some b →
      b.rec? lon = none → (s.stns[st]).readSide.settled lon = true → ((s.stns[st]).readSide.found lon).gaths ≠ [] → (s.stns[st]).readSide.decoded.contains lon = true →
      (s.stns[st]).readSide.inFlight lon (v.state != .unsealed && !(s.stns[st]).readSide.colophon.isEmpty) = none → (s.stns[j.dst]).write.flushes = [] → b.closing = .none → (s.stns[st]).readSide.ended = false →
      ∃ t b' x, exec (.recordHandover st lon) s = .next t ∧ (t.stns[j.dst]).ctx = some b' ∧ b'.rec? lon = some x ∧ lon < b'.lon)

/-- R119, R201, R204, Table 4.4: a row that was sent and whose cells have gone by without being received is graded Missing; the row that has waited
longest for a retry gets its next attempt. -/
def Obligations.RowsGraded : Prop :=
  ∀ (s : State) (st : Stn),
    (∀ pos track, (s.stns[st]).write.sent.find? (fun p => p.seq == pos) = none → (s.stns[st]).readSide.active = false → exec (.rowDecode st pos track) s = .next s) ∧
    (∀ pos p track, (s.stns[st]).write.sent.find? (fun q => q.seq == pos) = some p → (p.graded.any fun x => x.1 == track) = false →
      (s.stns[st]).link.rx.find? (fun q => q.num == pos) = none → pos < (s.stns[st]).link.rxNum ∨ (s.stns[st]).link.grid = none →
      ∃ t, exec (.rowDecode st pos track) s = .next t ∧ ∀ q ∈ (t.stns[st]).write.sent, q.seq = pos → (track, Grade.missing) ∈ q.graded) ∧
    ((s.stns[st]).link.retry = [] → exec (.retryAttempt st) s = .next s) ∧
    (∀ r rest, (s.stns[st]).link.retry = r :: rest → ∃ t, exec (.retryAttempt st) s = .next t ∧
      ((t.stns[st]).link.retry = rest ∨ ∃ b, (t.stns[st]).link.retry = { r with tries := r.tries + 1, back := b } :: rest))

/-- R217 to R221, R225, R238, R240, R241, Table 7.11: a servo sample with a valid reader sends an actuator command for 19,200 HT units after the frame's
end and counts LPOS in the direction in which its bursts arrived; one without counts as missing, and LPOS goes on in the direction of the measured
speed (the reading of log 79; where a quotient has to be rounded it goes either way, log 34). A sample within WINH_LIM is counted; one beyond it begins
the settling anew and inhibits writing, and so does a missing one the settling (the model's choice, log 118). While a change of data band has opened
the loop its state is held and only the skew loop is commanded (log 114), until both readers are valid and an LPOS word has carried the band. A run
back that passes its place turns round. Inhibition ends after 16 samples within WINH_LIM and settling after 256. MISS_WINH missing samples inhibit
writing, and MISS_STOP stop the tape with LPOS lost. -/
def Obligations.LateralLoop : Prop :=
  ∀ (s : State) (st : Stn),
    let v := (s.stns[st]).servo
    let fr := v.frames s.draw.1
    let runs := v.motion = .moving ∨ v.motion = .tensioned
    let none_ := if v.vHat = 0 then v.lpos else v.counted (decide (v.vHat.toInt < 0))
    (¬ runs → exec (.lateralSample st) s = .next s.draw.2) ∧
    (runs → v.back = none → v.seek = none → fr.1 = none → fr.2 = none → ∃ t, exec (.lateralSample st) s = .next t ∧
      (t.stns[st]).servo = { v with crossings := [], ends := [], lposBits := [], lpos := none_, missSrv := v.missSrv + 1, within := 0, calm := 0,
                                    settled := false }) ∧
    (∀ q, runs → v.back = none → v.seek = some q → q.word = false ∨ fr.1 = none ∨ fr.2 = none →
      ∃ t l, exec (.lateralSample st) s = .next t ∧ (t.stns[st]).servo.seek = some { q with both := fr.1.isSome && fr.2.isSome } ∧
        (t.stns[st]).servo.lateral = v.lateral ∧ (t.stns[st]).servo.missSrv = v.missSrv ∧ (t.stns[st]).servo.within = v.within ∧
        (t.stns[st]).servo.crossings = [] ∧ (t.stns[st]).link.outCmds = (s.stns[st]).link.outCmds ++ l ∧ ∀ x ∈ l, x.1 = 3) ∧
    (∀ q, runs → v.back = none → v.seek = some q → q.word = true → fr.1.isSome = true → fr.2.isSome = true →
      ∃ t, exec (.lateralSample st) s = .next t ∧ (t.stns[st]).servo.seek = none ∧ (t.stns[st]).servo.missSrv = 0 ∧ (t.stns[st]).servo.crossings = []) ∧
    (∀ a, runs → v.back = none → v.seek = none → (fr.1 <|> fr.2) = some a → ∃ t val l, exec (.lateralSample st) s = .next t ∧
      (t.stns[st]).servo.missSrv = 0 ∧ (t.stns[st]).servo.crossings = [] ∧ (t.stns[st]).servo.lpos = v.counted a.rev ∧
      (t.stns[st]).link.outCmds = (s.stns[st]).link.outCmds ++ (2, val, (frameEnd v.origin fr a).extractLsb' 0 16 + 19200) :: l ∧ (∀ x ∈ l, x.1 = 3) ∧
      if (t.stns[st]).servo.eLat.toInt.natAbs ≤ s.img.winhLim st.val * 65536 then (t.stns[st]).servo.within = v.within + 1
      else (t.stns[st]).servo.within = 0 ∧ (t.stns[st]).servo.settled = false ∧
        (v.inhibit = false → (s.stns[st]).write.feed = .writing → (t.stns[st]).servo.inhibit = true ∧ t.flagged (70 + 16 * st.val))) ∧
    (∀ b, v.motion = .moving → v.back = some b → v.lposOk = true → v.ramp = none → v.seek = none → fr.1 = none → fr.2 = none → b.passed none_ = true →
      ∃ t, exec (.lateralSample st) s = .next t ∧ (t.stns[st]).servo.back = none ∧ (t.stns[st]).servo.reverse = b.rev ∧
        (t.stns[st]).servo.ramp = some (b.why, min b.mm (ladder (s.ceiling st)))) ∧
    (if v.inhibit = true ∧ 16 ≤ v.within then ∃ t, exec (.writeInhibitEnd st) s = .next t ∧ (t.stns[st]).servo = { v with inhibit := false }
     else exec (.writeInhibitEnd st) s = .next s) ∧
    (if 256 ≤ v.calm then ∃ t, exec (.lateralSettled st) s = .next t ∧ (t.stns[st]).servo = { v with settled := true } else exec (.lateralSettled st) s = .next s) ∧
    (v.missSrv < s.img.missWinh st.val → exec (.missWinh st) s = .next s) ∧
    (s.img.missWinh st.val ≤ v.missSrv → (s.stns[st]).write.feed = .writing → ∃ t, exec (.missWinh st) s = .next t ∧ (t.stns[st]).servo.inhibit = true) ∧
    (v.missSrv < s.img.missStop st.val ∨ v.motion ≠ .moving → exec (.missStop st) s = .next s) ∧
    (s.img.missStop st.val ≤ v.missSrv → v.motion = .moving → ∃ t, exec (.missStop st) s = .next t ∧ (t.stns[st]).servo.stops = true ∧ (t.stns[st]).servo.lposOk = false ∧
      (v.lposOk = true → t.flagged (71 + 16 * st.val)))

/-- R222, R227, R231, R233, R234, R236, R242, R244, Table 7.11: each reel period whose loops are closed sends a command to both motors for its reading slot
and phase (its value rests on roundings of the model, logs 34 to 36), moves the speed reference along its ramp and the tension reference at TEN_SLEW; a
period without a reading is counted. The auxiliary loop sends one command in every fourth period that has its reading (its set-point is free, log 37),
and skips one without, and takes no sample in Hold (log 159); eight missing periods stop the tape. A diameter is taken up only at speed with no sample missing, and stays within 5 % of
nominal. A bank swap takes effect in its loop, begins the lateral loop's settling anew (log 118), and is not one of the reel loop's. -/
def Obligations.ReelAndBanks : Prop :=
  ∀ (s : State) (st : Stn),
    let v := (s.stns[st]).servo
    ((s.stns[st]).men = true ∨ (s.stns[st]).link.lost = true → exec (.reelSample st) s = .next s.draw.2) ∧
    ((s.stns[st]).men = false → (s.stns[st]).link.lost = false → ∃ t a b, exec (.reelSample st) s = .next t ∧
      let apply := BitVec.ofNat 16 (1024 * v.perSlot.toNat + 64 * s.img.reelPhase st.val + 10240)
      (t.stns[st]).link.outCmds = (s.stns[st]).link.outCmds ++ [(0, a, apply), (1, b, apply)] ∧ (t.stns[st]).servo.reelSeen = false ∧
      (t.stns[st]).servo.missReel = (if v.reelSeen then 0 else v.missReel + 1) ∧ (t.stns[st]).servo.motion = v.motion ∧
      ((t.stns[st]).servo.vRef, (t.stns[st]).servo.aRef) = v.nextRef s.img st s.draw.1 ∧
      (t.stns[st]).servo.tRef = (if v.tenFresh then (t.stns[st]).servo.tHat
        else tenStep (s.img.motion st.val 0x0A) v.tRef (BitVec.ofNat 32 (leAt v.reelSet 0x294 4))) ∧
      (t.stns[st]).servo.speedCh.r1 = (t.stns[st]).servo.vRef ∧ (t.stns[st]).servo.tensCh.r1 = (t.stns[st]).servo.tRef) ∧
    (v.missReel < 8 → exec (.reelMissStop st) s = .next s) ∧
    (8 ≤ v.missReel → v.motion = .moving → ∃ t, exec (.reelMissStop st) s = .next t ∧ (t.stns[st]).servo.stops = true) ∧
    (v.perCnt % 4 ≠ 1 ∨ (s.stns[st]).link.lost = true ∨ v.motion = .hold → exec (.auxSample st) s = .next s) ∧
    (v.perCnt % 4 = 1 → (s.stns[st]).link.lost = false → v.motion ≠ .hold → v.auxSeen = false → exec (.auxSample st) s = .next (s.count st 0 [27])) ∧
    (v.perCnt % 4 = 1 → (s.stns[st]).link.lost = false → v.motion ≠ .hold → v.auxSeen = true → ∃ t val, exec (.auxSample st) s = .next t ∧ (t.stns[st]).servo.auxSeen = false ∧
      (t.stns[st]).link.outCmds = (s.stns[st]).link.outCmds ++ [(4, val, BitVec.ofNat 16 (1024 * v.perSlot.toNat + 64 * s.img.auxPhase st.val + 10240))]) ∧
    (0 < v.missSrv ∨ v.ends.length < 3 ∨ v.speedMm < 500 → ∀ takeUp n, exec (.kappaUpdate st takeUp n) s = .next s) ∧
    (v.missSrv = 0 → 3 ≤ v.ends.length → 500 ≤ v.speedMm → ∀ takeUp n, ∃ t, exec (.kappaUpdate st takeUp n) s = .next t ∧
      let k := if takeUp then (t.stns[st]).servo.kappaT else (t.stns[st]).servo.kappaS
      62260 ≤ k ∧ k ≤ 68812 ∧ (if takeUp then (t.stns[st]).servo.kappaS = v.kappaS else (t.stns[st]).servo.kappaT = v.kappaT)) ∧
    exec (.bankSwapTimeout st .reel) s = .next s ∧
    (v.lateral.swap = true → ∃ t, exec (.bankSwapTimeout st .lateral) s = .next t ∧ (t.stns[st]).servo.lateral.swap = false ∧
      (t.stns[st]).servo.lateral.set = v.lateral.banks[1 - v.lateral.active] ∧ (t.stns[st]).servo.lateral.ch = v.lateral.ch ∧
      (t.stns[st]).servo.settled = false ∧ (t.stns[st]).servo.calm = 0) ∧
    (v.lateral.swap = false → ∃ t, exec (.bankSwapTimeout st .lateral) s = .next t ∧ (t.stns[st]).servo = v) ∧
    (∃ t, exec (.bankSwapTimeout st .skew) s = .next t ∧ (t.stns[st]).servo = { v with skewL := v.skewL.takeSwap }) ∧
    (∃ t, exec (.bankSwapTimeout st .aux) s = .next t ∧ (t.stns[st]).servo = { v with aux := v.aux.takeSwap })

/-- R220, R221, R236, R238, R245 to R247: an LPOS word needs 48 bits. One that passes its check becomes the last word; it does not move a valid LPOS, and
counts as a mismatch where it differs from it; two in succession that pass and differ by 48 make LPOS valid. It is noted where it carries the band
sought. What a word that fails its check does to the count of mismatches is the model's choice (log 119). After 3 mismatches or 256 samples missing LPOS
is lost, with its event. A ramp is over once its reference has arrived: a tension ramp ends; a stop leaves the station tensioned with its writing off;
another leaves the set of its ladder step to be used. Loops that have closed leave the station Tensioned, and a MOUNT that threads then reads the
endpaper; loops that have not within 5 s end it with 0x0C and open the station, which opens with no MOUNT too (a reader goes on waiting, the model's
choice, log 39). -/
def Obligations.LposAndRamps : Prop :=
  ∀ (s : State) (st : Stn), s.power.target = none →
    let v := (s.stns[st]).servo
    (v.lposBits.length ≠ 48 → exec (.lposWord st) s = .next s) ∧
    (v.lposBits.length = 48 → (s.stns[st]).write.flushes = [] → ∃ t, exec (.lposWord st) s = .next t ∧
      let u := (t.stns[st]).servo
      let w := v.wordBits
      let val := natOfBits ((w.drop 12).take 24)
      let here := if v.lposRev then val else val + 47
      u.lposBits = [] ∧ u.seek = (v.seek.bind fun q => q.heard (lposPasses w && natOfBits ((w.drop 36).take 4) == q.band)) ∧
      (lposPasses w = false → u.lposWord = none ∧ u.lposOk = v.lposOk ∧ u.lpos = v.lpos ∧ u.lposMiss = v.lposMiss) ∧
      (lposPasses w = true → u.lposWord = some val ∧
        (v.lposOk = true → u.lposOk = true ∧ u.lpos = v.lpos ∧ u.lposMiss = if v.lpos = here then 0 else v.lposMiss + 1) ∧
        (v.lposOk = false → ∀ p, v.lposWord = some p → p + 48 = val ∨ val + 48 = p → u.lposOk = true ∧ u.lpos = here ∧ u.lposMiss = 0) ∧
        (v.lposOk = false → (∀ p, v.lposWord = some p → p + 48 ≠ val ∧ val + 48 ≠ p) → u.lposOk = false ∧ u.lpos = v.lpos))) ∧
    (v.lposMiss < 3 → v.missSrv < 256 → exec (.lposLost st) s = .next s) ∧
    (3 ≤ v.lposMiss ∨ 256 ≤ v.missSrv → v.lposOk = true → ∃ t, exec (.lposLost st) s = .next t ∧ (t.stns[st]).servo.lposOk = false ∧ t.flagged (71 + 16 * st.val)) ∧
    (v.arrived = false → exec (.rampDone st) s = .next s) ∧
    (∀ n, v.ramp = some (.tension, n) → v.arrived = true → ∃ t, exec (.rampDone st) s = .next t ∧ (t.stns[st]).servo = { v with ramp := none }) ∧
    (∀ n, v.ramp = some (.stop, n) ∨ v.ramp = some (.fallback, n) → v.arrived = true → (s.stns[st]).mountCmd = none → (s.stns[st]).mount.isSome = true →
      (s.stns[st]).speed.wantSeek = false →
      ∃ t, exec (.rampDone st) s = .next t ∧ (t.stns[st]).servo.motion = .tensioned ∧ (t.stns[st]).servo.ramp = none ∧ (t.stns[st]).wgate = true ∧ (t.stns[st]).write.feed = .off ∧
        (t.stns[st]).speed.stopped = true) ∧
    (∀ w n, v.ramp = some (w, n) → w ≠ .tension → w ≠ .stop → w ≠ .fallback → v.arrived = true → s.readersOf st = [] →
      ∃ t, exec (.rampDone st) s = .next t ∧ (t.stns[st]).servo.ramp = none ∧
      (t.stns[st]).servo.vRef = speedWord (if v.reverse then -(n : Int) else n) ∧ (t.stns[st]).servo.step = ladderStep n) ∧
    (v.closing = false → exec (.tensioned st) s = .next s ∧ exec (.tensionTimeout st) s = .next s) ∧
    (v.closing = true → (s.stns[st]).mountCmd = none → (s.stns[st]).speed.wantSeek = false → ∃ t, exec (.tensioned st) s = .next t ∧ (t.stns[st]).servo.motion = .tensioned ∧
      (t.stns[st]).servo.closing = false ∧ (t.stns[st]).servo.ramp = none) ∧
    (∀ r k, v.closing = true → (s.stns[st]).mountCmd = some r → s.cmd? r = some k → k.phase = .threading →
      ((s.stns[st]).ctx = none → ∃ t, exec (.tensioned st) s = .next t ∧ t.underWay r k.entry .readEndpaper ∧ (t.stns[st]).readSide.active = true ∧
        (t.stns[st]).servo.motion = .moving) ∧
      (v.motion ≠ .hold → ∃ t, exec (.tensionTimeout st) s = .next t ∧ t.ended r 0x0C 0 ∧ (t.stns[st]).servo.motion = .open_ ∧ (t.stns[st]).men = true ∧ (t.stns[st]).mount = none)) ∧
    (v.closing = true → v.motion ≠ .hold → (s.stns[st]).mountCmd = none → ∃ t, exec (.tensionTimeout st) s = .next t ∧ (t.stns[st]).servo.motion = .open_ ∧ (t.stns[st]).men = true)

/-- R13, R159, R160, R304, R306, R309, R312, R313: a request that is granted names its owner on one free buffer (which one is free, log 21); one that is
not waits, or a host command's is refused for good with 0x0D, which also ends one with an invalid length (the model's choice, log 133); a request that
no agent makes changes nothing (log 132), and one by an ID that is no agent's is misuse with reason 10. An operation before which another of the same
cycle comes changes nothing (R310, R312; that the rows that wait are those of the cycle is the model's choice, log 168). ADD, RELEASE and FREE change the owners of the buffer that their handle names, or are misuse, which is
counted and raised with its reason and changes no buffer (the order of reasons, and owner 0, are the model's reading, logs 20 and 109). A FREE that
its last owner sends gives the buffer its next generation. -/
def Obligations.PoolOperations : Prop :=
  ∀ (s : State) (d : DieId) (owner : Nat) (h : BitVec 32),
    (∀ len use, actingOwner owner = false → ∃ t e, exec (.poolGrant d owner len use) s = .next t ∧ (t.dies[d]).pools = (s.dies[d]).pools ∧
      t.flagged (240 + 8 * d.val) ∧ (t.dies[d]).elog.head? = some e ∧ e.kind = 9 ∧ e.detail = 10 ∧ e.actor = owner) ∧
    (∀ len p use, actingOwner owner = true → poolFor len = some p → s.poolTurn d p (.poolGrant d owner len use) = false →
      exec (.poolGrant d owner len use) s = .next s) ∧
    (∀ len use, actingOwner owner = true → s.mayRequest d owner len use = false → exec (.poolGrant d owner len use) s = .next s) ∧
    (∀ len use, actingOwner owner = true → poolFor len = none → (∀ p q tag, use ≠ .command p q tag) → exec (.poolGrant d owner len use) s = .next s) ∧
    (∀ len pt q tag k, actingOwner owner = true → poolFor len = none → s.mayRequest d owner len (.command pt q tag) = true → s.cmd? ⟨pt, q, tag⟩ = some k →
      ∃ t, exec (.poolGrant d owner len (.command pt q tag)) s = .next t ∧ t.answered ⟨pt, q, tag⟩ 0x0D) ∧
    (∀ len p, actingOwner owner = true → s.mayRequest d owner len .other = true → poolFor len = some p → s.poolTurn d p (.poolGrant d owner len .other) = true →
      s.grantOutcome d p owner = .granted → s.adminIdle →
      ((s.dies[d]).pools[p]).count + ((s.dies[d]).pools[p]).bufs.length < 2 ^ 24 → ∃ t i, exec (.poolGrant d owner len .other) s = .next t ∧
      (((t.dies[d]).pools[p]).buf i).owners = [owner] ∧ (((t.dies[d]).pools[p]).buf i).gen = (((s.dies[d]).pools[p]).buf i).gen ∧
      ∀ j, j ≠ i → ((t.dies[d]).pools[p]).buf j = ((s.dies[d]).pools[p]).buf j) ∧
    (∀ len p, actingOwner owner = true → s.mayRequest d owner len .other = true → poolFor len = some p → s.poolTurn d p (.poolGrant d owner len .other) = true →
      s.grantOutcome d p owner ≠ .granted →
      (s.grantOutcome d p owner = .none ∨ owner ≠ 1 ∧ owner ≠ 2) →
      ∃ t, exec (.poolGrant d owner len .other) s = .next t ∧ ((t.dies[d]).pools[p]).waits = ((s.dies[d]).pools[p]).waits ++ [⟨owner, len, .other⟩]) ∧
    (∀ len p pt q tag k, s.mayRequest d owner len (.command pt q tag) = true → poolFor len = some p → s.poolTurn d p (.poolGrant d owner len (.command pt q tag)) = true →
      s.grantOutcome d p owner = .refused → owner = 1 ∨ owner = 2 →
      s.cmd? ⟨pt, q, tag⟩ = some k → ∃ t, exec (.poolGrant d owner len (.command pt q tag)) s = .next t ∧ t.answered ⟨pt, q, tag⟩ 0x0D) ∧
    (∀ i n, (∃ name, i = .poolAdd d owner h name ∧ addMisuse (s.dies[d]) owner h name = some n) ∨ i = .poolRelease d owner h ∧ releaseMisuse (s.dies[d]) owner h = some n ∨
        i = .poolFree d owner h ∧ freeMisuse (s.dies[d]) owner h = some n →
      ∃ t e, exec i s = .next t ∧ (t.dies[d]).pools = (s.dies[d]).pools ∧ t.flagged (240 + 8 * d.val) ∧
        (t.dies[d]).misuse[(⟨owner % 64, by omega⟩ : Fin 64)] = (s.dies[d]).misuse[(⟨owner % 64, by omega⟩ : Fin 64)] + 1 ∧
        (t.dies[d]).elog.head? = some e ∧ e.kind = 9 ∧ e.detail = n ∧ e.handle = h ∧ e.actor = owner) ∧
    (s.adminIdle → ((s.dies[d]).pools[fin5 (hPool h)]).bufs.Pairwise (fun a b => a.index < b.index) → ((s.dies[d]).pools[fin5 (hPool h)]).due = 0 →
      (∀ name, addMisuse (s.dies[d]) owner h name = none → s.poolTurn d (fin5 (hPool h)) (.poolAdd d owner h name) = true → ∃ t, exec (.poolAdd d owner h name) s = .next t ∧
        (t.dies[d]).bufOf h = { (s.dies[d]).bufOf h with owners := ((s.dies[d]).bufOf h).owners ++ [name] }) ∧
      (releaseMisuse (s.dies[d]) owner h = none → s.poolTurn d (fin5 (hPool h)) (.poolRelease d owner h) = true → (((s.dies[d]).bufOf h).owners.filter (· != owner)) ≠ [] → ∃ t, exec (.poolRelease d owner h) s = .next t ∧
        (t.dies[d]).bufOf h = { (s.dies[d]).bufOf h with owners := ((s.dies[d]).bufOf h).owners.filter (· != owner) }) ∧
      (freeMisuse (s.dies[d]) owner h = none → s.poolTurn d (fin5 (hPool h)) (.poolFree d owner h) = true → 2 ≤ ((s.dies[d]).bufOf h).owners.length → ∃ t, exec (.poolFree d owner h) s = .next t ∧
        (t.dies[d]).bufOf h = { (s.dies[d]).bufOf h with owners := ((s.dies[d]).bufOf h).owners.dropLast, freePend := true }) ∧
      (freeMisuse (s.dies[d]) owner h = none → s.poolTurn d (fin5 (hPool h)) (.poolFree d owner h) = true → ((s.dies[d]).bufOf h).owners.length = 1 →
        ((s.dies[d]).pools[fin5 (hPool h)]).waits = [] →
        ∃ t, exec (.poolFree d owner h) s = .next t ∧ ((t.dies[d]).bufOf h).owners = [] ∧ ((t.dies[d]).bufOf h).gen = nextGen ((s.dies[d]).bufOf h).gen ∧
          ((t.dies[d]).bufOf h).freePend = false))

/-- R27, R29, R286, R287, R289, R290, R307: reading and writing a page of buffer memory. Up to PAGE_T wrong bits are corrected, and a page that carries
another DPN than the one read is uncorrectable; what a stack gives back is an operand (log 12). A stale access stores nothing and is misuse (what counts
as stale beside an old generation: log 22); a clean read takes its slot and changes nothing else (log 135); a read that cannot be corrected raises the
stack's event; a whole page written is read back, with its write count one higher and with the owner last named on the buffer; a part of a page written
leaves the rest of its data; no byte outside the page and its sideband changes. -/
def Obligations.PagesReadAndWritten : Prop :=
  ∀ (s : State) (a : PageAddr) (h : BitVec 32) (actor : Nat), a.exists = true → Memory.wf s.mem = true →
    (∀ o, s.staleAccess a h = true → (∃ t, exec (.pageRead a h actor o .copyOnly) s = .next t ∧ t.flagged (240 + 8 * (dieOfStack a.stack).val)) ∧
      ∀ first beats poison, ∃ t, exec (.pageWrite a h actor first beats poison o) s = .next t ∧ t.mem = s.mem ∧ t.flagged (240 + 8 * (dieOfStack a.stack).val)) ∧
    (∀ l : PageLine, l.place = none → l.flips.Nodup → (∀ n ∈ l.flips, n < 33024 + 16 * s.img.pageT) → l.flips.length ≤ s.img.pageT →
      s.nameAt (s.redirect a) = a.name → s.decodePage a l = (if l.flips = [] then .clean else .corrected l.flips.length, s.page a)) ∧
    (∀ l : PageLine, l.flips = [] → s.nameAt (l.place.getD (s.redirect a)) ≠ a.name → (s.decodePage a l).1 = .uncorrectable) ∧
    (∀ c, s.staleAccess a h = false → s.nameAt (s.redirect a) = a.name → (s.page a).poison = 0 →
      exec (.pageRead a h actor .clean c) s = .next (s.takeSlot a)) ∧
    (∀ o, (s.decodePage a o).1.bad = true → ∃ t, exec (.pageRead a h actor o .copyOnly) s = .next t ∧ t.flagged (33 + 8 * a.stack.val)) ∧
    (∀ first (beats : List (BitVec 512)) poison o, s.staleAccess a h = false → beats.length = 64 → ∃ t, exec (.pageWrite a h actor first beats poison o) s = .next t ∧
      t.page a = { data := beats.flatMap beatBytes, poison := poison, handle := h, owner := s.lastNamed a h % 64, wgen := (s.page a).wgen + 1 } ∧
      ∀ x, x < (s.redirect a).base ∨ (s.redirect a).base + 4128 ≤ x → Memory.read t.mem x = Memory.read s.mem x) ∧
    (∀ first (beats : List (BitVec 512)) poison, s.staleAccess a h = false → s.nameAt (s.redirect a) = a.name → 0 < beats.length → first + beats.length ≤ 64 → beats.length < 64 →
      ∃ t, exec (.pageWrite a h actor first beats poison .clean) s = .next t ∧
        (t.page a).data = (s.page a).data.take (64 * first) ++ beats.flatMap beatBytes ++ (s.page a).data.drop (64 * (first + beats.length)) ∧
        (t.page a).wgen = (s.page a).wgen + 1 ∧ ∀ x, x < (s.redirect a).base ∨ (s.redirect a).base + 4128 ≤ x → Memory.read t.mem x = Memory.read s.mem x)

/-- R29, R293 to R296: a write-back whose page was written since is dropped, and else stores the page again with its write count one higher; the patrol
reads the next page of its stack, unless it is disabled, the package is in P3, or a range scrub goes first; the leak takes 1 from each error bucket; a
range scrub reads its pages one by one, and its last page, with none of its write-backs still waiting, completes the command with the number of
uncorrectable ones. Each waits until class M has a slot (log 135). The clauses on reads without an error say what they leave. -/
def Obligations.PagesScrubbed : Prop :=
  ∀ (s : State), Memory.wf s.mem = true →
    (∀ k : Fin 4, (s.hbm[k]).wbs = [] → ∀ o, exec (.writeBack k o) s = .next s) ∧
    (∀ (k : Fin 4) w rest o, (s.hbm[k]).wbs = w :: rest → s.mGranted w.addr = false → exec (.writeBack k o) s = .next s) ∧
    (∀ (k : Fin 4) w rest o, (s.hbm[k]).wbs = w :: rest → s.mGranted w.addr = true → (s.page w.addr).wgen ≠ w.wgen →
      ∃ t, exec (.writeBack k o) s = .next t ∧ (t.hbm[k]).wbs = rest ∧ t.mem = s.mem) ∧
    (∀ (k : Fin 4) w rest, (s.hbm[k]).wbs = w :: rest → s.mGranted w.addr = true → (s.page w.addr).wgen = w.wgen →
      ∃ t, exec (.writeBack k .clean) s = .next t ∧ (t.hbm[k]).wbs = rest ∧
      (t.page w.addr).wgen = w.wgen + 1 ∧ (t.page w.addr).data = (s.page w.addr).data) ∧
    (∀ (k : Fin 4) (o : PageLine), s.img.patrolH = 0 ∨ s.power.state = 3 ∨ s.mGranted (patrolPage k (s.hbm[k]).patrol) = false ∨
        s.scrubFirst (patrolPage k (s.hbm[k]).patrol) = true → exec (.patrolScrub k o.flips o.place) s = .next s) ∧
    (∀ (k : Fin 4) (o : PageLine), s.img.patrolH ≠ 0 → s.power.state ≠ 3 → s.mGranted (patrolPage k (s.hbm[k]).patrol) = true →
      s.scrubFirst (patrolPage k (s.hbm[k]).patrol) = false → (s.decodePage (s.serves (patrolPage k (s.hbm[k]).patrol)) o).1 = .clean →
      ∃ t, exec (.patrolScrub k o.flips o.place) s = .next t ∧
      t.mem = s.mem ∧ (t.hbm[k]).patrol = ((s.hbm[k]).patrol + 1) % stackPages ∧ ∀ k' : Fin 4, k' ≠ k → t.hbm[k'] = s.hbm[k']) ∧
    (∃ t, exec .ceLeak s = .next t ∧ t.mem = s.mem ∧ ∀ (k : Fin 4) (n : Fin 32), (t.hbm[k]).buckets[n] = (s.hbm[k]).buckets[n] - 1) ∧
    (∀ d : DieId, (s.dies[d]).scrub = none → ∀ o : PageLine, exec (.rangeScrubRead d o.flips o.place) s = .next s) ∧
    (∀ (d : DieId) j (o : PageLine), (s.dies[d]).scrub = some j → j.left = 0 ∨ s.mGranted (dpnPage d j.next) = false → exec (.rangeScrubRead d o.flips o.place) s = .next s) ∧
    (∀ (d : DieId) j (o : PageLine), (s.dies[d]).scrub = some j → s.mGranted (dpnPage d j.next) = true → 1 < j.left →
      (s.decodePage (dpnPage d j.next) o).1 = .clean → (s.decodePage (s.serves (dpnPage d j.next)) o).1 = .clean → ∃ t, exec (.rangeScrubRead d o.flips o.place) s = .next t ∧
      (t.dies[d]).scrub = some { j with next := j.next + 1, left := j.left - 1, npage := j.npage + 1 }) ∧
    (∀ (d : DieId) j k (o : PageLine), (s.dies[d]).scrub = some j → s.mGranted (dpnPage d j.next) = true → j.left = 1 → s.cmd? j.cmd = some k → k.poisoned = false →
      (s.decodePage (dpnPage d j.next) o).1 = .clean → (s.decodePage (s.serves (dpnPage d j.next)) o).1 = .clean →
      ((∀ n : Fin 4, ∀ w ∈ (s.hbm[n]).wbs, w.detail = 3 → dieOfStack w.addr.stack ≠ d) →
        ∃ t, exec (.rangeScrubRead d o.flips o.place) s = .next t ∧ (t.dies[d]).scrub = none ∧ t.ended j.cmd 0 j.nunc) ∧
      ((∃ n : Fin 4, ∃ w ∈ (s.hbm[n]).wbs, w.detail = 3 ∧ dieOfStack w.addr.stack = d) →
        ∃ t, exec (.rangeScrubRead d o.flips o.place) s = .next t ∧ (t.dies[d]).scrub = some { j with next := j.next + 1, left := 0, npage := j.npage + 1 }))

/-- R382 to R385, Table 1.9, R38, R39, R263, R413: a sequencer that is empty or halted does nothing; one that runs takes its next address, counting
and raising a corrected word; a word that it cannot run halts it, with its station in fault or its die in fault, and the event. A scrub of the control
stores raises a corrected upset and changes no store. The loss of a stack is a fault of its die, with both events (log 76); the loss of the inter-die
link raises die 1's event, stops its stations, and completes with 0x0C the commands that cross the dies (logs 137 and 138); its retraining raises an
event and no more; a failed health test halts the random source, keeps the slots and raises event 8. -/
def Obligations.SequencersAndFaults : Prop :=
  ∀ (s : State),
    (∀ (n : Fin 10) cond flips, (s.stores[n]).words.isEmpty = true ∨ (s.stores[n]).halted.isSome = true → exec (.controlStoreFetch n cond flips) s = .next s) ∧
    (∀ (n : Fin 10) cond flips a m, (s.stores[n]).words.isEmpty = false → (s.stores[n]).halted = none → (s.stores[n]).fetch cond flips = .ok (a, m) →
      ∃ t, exec (.controlStoreFetch n cond flips) s = .next t ∧ (t.stores[n]).addr = a ∧ (t.stores[n]).halted = none ∧
        (t.stores[n]).corrected = (if m = 0 then (s.stores[n]).corrected else (s.stores[n]).corrected + 1) ∧ (m ≠ 0 → t.flagged (200 + 16 * (storeDie n).val))) ∧
    (∀ (n : Fin 10) cond flips why, (s.stores[n]).words.isEmpty = false → (s.stores[n]).halted = none → (s.stores[n]).fetch cond flips = .error why →
      ∃ t, exec (.controlStoreFetch n cond flips) s = .next t ∧ (t.stores[n]).halted = some why ∧
        (n.val < 8 → StnFault.sequencer ∈ (t.stns[stnOf n.val]).faults ∧ (t.stns[stnOf n.val]).wgate = true ∧ t.flagged (78 + 16 * n.val)) ∧
        (8 ≤ n.val → (t.dies[storeDie n]).fault = true ∧ t.flagged (197 + 16 * (n.val - 8)))) ∧
    (∀ (l : List StoreUpset), ∃ t, exec (.controlStoreScrub l) s = .next t ∧ t.stores = s.stores ∧
      ∀ u ∈ l, u.flips ≠ 0 → (s.stores[u.store]).words.isEmpty = false → t.flagged (200 + 16 * (storeDie u.store).val)) ∧
    (∀ k : Fin 4, (s.hbm[k]).lost = true → exec (.stackLost k) s = .next s) ∧
    (∀ k : Fin 4, (s.hbm[k]).lost = false → ∃ t, exec (.stackLost k) s = .next t ∧ (t.hbm[k]).lost = true ∧ t.flagged (36 + 8 * k.val) ∧
      (t.dies[dieOfStack k]).fault = true ∧ t.flagged (198 + 16 * (dieOfStack k).val)) ∧
    (s.ucieDown = true → exec .ucieLinkDown s = .next s) ∧
    (s.ucieDown = false → ∃ t, exec .ucieLinkDown s = .next t ∧ t.ucieDown = true ∧ t.flagged 214 ∧
      (∀ st : Stn, 4 ≤ st.val → (s.stns[st]).servo.motion = .moving → (t.stns[st]).servo.stops = true) ∧
      ∀ c ∈ s.allCmds, crossesDies c.1 c.2 = true → s.cmd? c.1 = some c.2 → t.answered c.1 0x0C) ∧
    (∀ d : DieId, ∃ t, exec (.ucieLinkRetrain d) s = .next t ∧ t.flagged (199 + 16 * d.val) ∧ EventsOnly s t) ∧
    (∃ t, exec .drbgHealthFail s = .next t ∧ t.vault.halted = true ∧ t.vault.slots = s.vault.slots ∧ t.flagged 8)

/-- R331, R347, R349, R350, R353 to R355, R319, R405, R414, R415, R439, Table 14.3, R116, R133, R136, R137, R169, R172, R179, R217 to R222, R227, R234, R236, R240 to R242, R246, R473, Table
7.11: where the commands named here run. In every state in which what the clause asks of the state and of the operands holds, the command answers a next
state in which its own effect has happened. The clauses say no more of that effect than shows it; the families' own statements give the whole. -/
def Obligations.CommandsComplete : Prop :=
  (∀ (s : State) (c : HostCmd),
    (∀ i opc own, (i = .identify c ∧ opc = 0x80 ∧ own = identOwn c s ∨ i = .getLog c ∧ opc = 0x84 ∧ own = logOwn c s) → s.accepts opc c own →
      s.mustWake opc = false → s.adminBytes c.port c.entry = [] ∨ s.rst.stage = .recovery →
      ∃ t, exec i s = .next t ∧ t.ended (refOf c) 0 (s.adminBytes c.port c.entry).length) ∧
    (s.accepts 0x81 c (createOwn c s) → ∃ t, exec (.createQp c) s = .next t ∧ t.ended (refOf c) 0 0 ∧
      ((t.ports[c.port]).qp? (c.entry.cd 0 2)).isSome = true) ∧
    (s.accepts 0x82 c (deleteOwn c s) → ∃ t, exec (.deleteQp c) s = .next t ∧ t.ended (refOf c) 0 0 ∧ (t.ports[c.port]).qp? (c.entry.cd 0 2) = none) ∧
    (s.accepts 0x83 c (resetOwn c s) → ∃ t y, exec (.resetQp c) s = .next t ∧ (t.ports[c.port]).qp? (c.entry.cd 0 2) = some y ∧ y.cmds = [] ∧
      y.resetting = some (refOf c) ∧ ∃ d, y.done = [d] ∧ d.final = true) ∧
    (∀ parts, s.accepts 0x88 c (testOwn c s) → c.entry.cd 0 1 ≠ 0x0F →
      ∃ t, exec (.selfTest c parts) s = .next t ∧ t.test = some ⟨c.entry.cd 0 1, refOf c, c.entry.rptr, s.clock, s.mountsHeld, s.buffersHeld⟩) ∧
    (∀ parts (x : TestRun) (k : Cmd), s.test = some x → s.cmd? x.cmd = some k → k.poisoned = false →
      (∃ t status n, exec (.selfTestDone parts) s = .next t ∧ t.test = none ∧ t.ended x.cmd status n) ∧
      (∃ t n, exec (.selfTestTimeout parts) s = .next t ∧ t.test = none ∧ t.ended x.cmd 0x11 n)) ∧
    (∀ (p : Port) (w : Fin 8) (v raised : BitVec 32), s.regAnswers p (0x200 + 4 * w.val) = true → ∃ t, exec (.evtStatClear p w v raised) s = .next t ∧
      ∀ n < 256, n / 32 = w.val → v.getLsbD (n % 32) = true → raised.getLsbD (n % 32) = false → (t.ports[p]).stat.getLsbD n = false) ∧
    (∀ (p : Port) (w : Fin 8) (v : BitVec 32), s.regAnswers p (0x220 + 4 * w.val) = true → ∃ t, exec (.evtMaskWrite p w v) s = .next t ∧
      ∀ n < 256, n / 32 = w.val → n ≠ 198 → n ≠ 214 → (t.ports[p]).mask.getLsbD n = v.getLsbD (n % 32)) ∧
    (∀ (p : Port) (w : Fin 64) (v : BitVec 32), s.regAnswers p (0x240 + 4 * w.val) = true → ∃ t, exec (.evtRouteWrite p w v) s = .next t ∧
      ∀ i : Fin 256, i.val / 4 = w.val → (v.extractLsb' (8 * (i.val % 4)) 8).toNat < s.img.nvec p.val →
        (t.ports[p]).route[i] = v.extractLsb' (8 * (i.val % 4)) 8) ∧
    (∀ (p : Port) (v : Fin 64), ∃ t, exec (.msixVectorUnmask p v) s = .next t ∧ (t.ports[p]).msixMask.getLsbD v.val = false ∧
      (t.ports[p]).msixPend.getLsbD v.val = false) ∧
    (∀ p : Port, ∃ t, exec (.portReset p) s = .next t ∧ (t.ports[p]).qps = [] ∧ (t.ports[p]).linkUp = false ∧ (t.ports[p]).aqEn = false ∧
      t.rst.cause.getLsbD (12 + p.val) = true) ∧
    (∀ (p : Port) (gen width : Nat), (s.ports[p]).linkUp = true → ∃ t, exec (.linkRateOrWidthChange p gen width) s = .next t ∧ (t.ports[p]).gen = gen ∧
      (t.ports[p]).width = width) ∧
    (∀ (p : Port) (q : Nat) (x : Qp) (d : Done) (rest : List Done), (s.ports[p]).qp? q = some x → x.done = d :: rest → x.cqFull = false → s.answers p = true →
      ∃ t y, exec (.completionWrite p q) s = .next t ∧ (t.ports[p]).qp? q = some y ∧ y.cqNext = (x.cqNext + 1) % x.depth)) ∧
  (∀ (s : State) (st : Stn) (lane : Lane), ((s.stns[st]).link.lanes[lane]).up = true →
    let l := (s.stns[st]).link.lanes[lane]
    (∀ f, (s.received st lane f).fix = none → ∃ t, exec (.upstreamFrame st lane f) s = .next t ∧ ((t.stns[st]).link.lanes[lane]).badFec = l.badFec + 1) ∧
    (∀ f, (s.received st lane f).type = 9 → ∃ t, exec (.upstreamFrame st lane f) s = .next t ∧
      ((t.stns[st]).link.lanes[lane]).badFec = 0 ∧ ((t.stns[st]).link.lanes[lane]).wrongSync = 0) ∧
    (∀ n, ∃ t f, exec (.downstreamFrame st lane n) s = .next t ∧ Out.frame st lane f ∈ t.out ∧ ((t.stns[st]).link.lanes[lane]).txSeq = l.txSeq + 1) ∧
    (∀ slot x, (s.stns[st]).link.inBox.find? (fun y => y.1 == true && boxField y.2 0 16 == slot.toNat) = some x →
      ∃ t, exec (.sidebandContainer st slot) s = .next t ∧ (t.stns[st]).servo.lastBox = x.2)) ∧
  (∀ (s : State) (st : Stn), s.power.target = none →
    let x := s.stns[st]
    (x.speed.wantSeek = false → x.speed.stopped = false → s.ready = true → x.write.feed = .writing → x.servo.ramp = none → x.speed.stepping = none →
      x.parityRuns = false → x.servo.motion = .moving →
      (s.ceiling st < x.servo.setStep → ∃ t, exec (.speedDecision st) s = .next t ∧ (t.stns[st]).servo.setStep = s.ceiling st ∧
        (t.stns[st]).speed.stepping = some (s.ceiling st)) ∧
      (x.servo.setStep ≤ s.ceiling st → s.occupancy st ≤ s.img.stop → ∃ t, exec (.speedDecision st) s = .next t ∧ (t.stns[st]).servo.stops = true)) ∧
    (∀ n, x.speed.stepping = some n → x.servo.ramp = none → x.servo.settled = true → x.write.feed = .runOut → s.mayResume = true → x.write.wrapOver = false →
      x.servo.setStep ≤ s.ceiling st → ∃ t, exec (.speedStepDone st) s = .next t ∧ (t.stns[st]).write.feed = .writing ∧ (t.stns[st]).speed.stepping = none) ∧
    (x.speed.stopping = true → x.servo.speedMm < 1000 →
      exec (.stopDone st) s = .next (s.modStn st fun t => { t with wgate := true, write := { t.write with feed := .off }, link := t.link.endRun })) ∧
    (x.write.feed = .resume → x.servo.ramp = none → x.servo.motion = .moving → x.servo.settled = true → s.mayResume = true → x.servo.setStep ≤ s.ceiling st →
      (∀ n, x.servo.lposOk = true → x.write.cellPos ≠ 0 → x.servo.back = none → x.servo.reverse = (x.write.wrap % 2 == 1) →
        ∃ t, exec (.backhitchDone st n) s = .next t ∧ (t.stns[st]).write.feed = .writing ∧ (t.stns[st]).wgate = false) ∧
      (x.servo.lposOk = true → x.write.cellPos = 0 → ∃ t, exec (.wrapStart st) s = .next t ∧ (t.stns[st]).write.feed = .writing ∧ (t.stns[st]).wgate = false)) ∧
    (∀ v, x.ctx = some v → x.servo.motion = .moving → x.write.feed = .writing → s.ready = true → v.closing = .none → x.write.flushes = [] →
      x.write.wrap + 1 < geoWraps v.geo → ∃ t, exec (.wrapEnd st) s = .next t ∧ (t.stns[st]).wgate = true ∧ (t.stns[st]).write.wrap = x.write.wrap + 1)) ∧
  (∀ (s : State) (st : Stn),
    let v := (s.stns[st]).servo
    let fr := v.frames s.draw.1
    (v.motion = .moving ∨ v.motion = .tensioned → v.seek = none → v.back = none → (fr.1.isSome || fr.2.isSome) = true →
      ∃ t, exec (.lateralSample st) s = .next t ∧ (t.stns[st]).servo.crossings = [] ∧ (t.stns[st]).servo.missSrv = 0 ∧
        (t.stns[st]).link.outCmds.length ≥ (s.stns[st]).link.outCmds.length + 1) ∧
    (v.inhibit = true → 16 ≤ v.within → exec (.writeInhibitEnd st) s = .next (s.modStn st fun t => t.modServo fun v => { v with inhibit := false })) ∧
    (256 ≤ v.calm → exec (.lateralSettled st) s = .next (s.modStn st fun t => t.modServo fun v => { v with settled := true })) ∧
    (s.img.missWinh st.val ≤ v.missSrv → (s.stns[st]).write.feed = .writing → ∃ t, exec (.missWinh st) s = .next t ∧ (t.stns[st]).servo.inhibit = true) ∧
    (s.img.missStop st.val ≤ v.missSrv → v.motion = .moving →
      ∃ t, exec (.missStop st) s = .next t ∧ (t.stns[st]).servo.stops = true ∧ (t.stns[st]).servo.lposOk = false) ∧
    ((s.stns[st]).men = false → (s.stns[st]).link.lost = false → ∃ t a b u, exec (.reelSample st) s = .next t ∧
      (t.stns[st]).link.outCmds = (s.stns[st]).link.outCmds ++ [(0, a, u), (1, b, u)]) ∧
    (8 ≤ v.missReel → v.motion = .moving → ∃ t, exec (.reelMissStop st) s = .next t ∧ (t.stns[st]).servo.stops = true) ∧
    (v.perCnt % 4 = 1 → (s.stns[st]).link.lost = false → v.motion ≠ .hold → v.auxSeen = true → ∃ t a u, exec (.auxSample st) s = .next t ∧
      (t.stns[st]).link.outCmds = (s.stns[st]).link.outCmds ++ [(4, a, u)]) ∧
    (v.missSrv = 0 → 3 ≤ v.ends.length → 500 ≤ v.speedMm → ∀ takeUp n, ∃ t, exec (.kappaUpdate st takeUp n) s = .next t ∧
      let k := if takeUp then (t.stns[st]).servo.kappaT else (t.stns[st]).servo.kappaS
      62260 ≤ k ∧ k ≤ 68812) ∧
    (v.lateral.swap = true → exec (.bankSwapTimeout st .lateral) s = .next (s.modStn st fun t => t.modServo fun v =>
      { v with lateral := { v.lateral with active := 1 - v.lateral.active, swap := false }, settled := false, calm := 0 })) ∧
    (v.skewL.swap = true → exec (.bankSwapTimeout st .skew) s = .next (s.modStn st fun t => t.modServo fun v =>
      { v with skewL := { v.skewL with active := 1 - v.skewL.active, swap := false } })) ∧
    (v.aux.swap = true → exec (.bankSwapTimeout st .aux) s = .next (s.modStn st fun t => t.modServo fun v =>
      { v with aux := { v.aux with active := 1 - v.aux.active, swap := false } })) ∧
    (v.lposBits.length = 48 → lposPasses v.wordBits = true → (s.stns[st]).write.flushes = [] → ∃ t, exec (.lposWord st) s = .next t ∧ (t.stns[st]).servo.lposBits = [] ∧
      (t.stns[st]).servo.lposWord = some (natOfBits ((v.wordBits.drop 12).take 24))) ∧
    (3 ≤ v.lposMiss ∨ 256 ≤ v.missSrv → v.lposOk = true → ∃ t, exec (.lposLost st) s = .next t ∧ (t.stns[st]).servo.lposOk = false ∧ t.flagged (71 + 16 * st.val)) ∧
    (s.power.target = none → v.ramp.isSome = true → v.arrived = true → (s.stns[st]).mountCmd = none → (s.stns[st]).mount.isSome = true →
      (s.stns[st]).speed.wantSeek = false → s.readersOf st = [] → ∃ t, exec (.rampDone st) s = .next t ∧ (t.stns[st]).servo.ramp = none) ∧
    (s.power.target = none → v.closing = true → (s.stns[st]).mountCmd = none → (s.stns[st]).speed.wantSeek = false →
      (∃ t, exec (.tensioned st) s = .next t ∧ (t.stns[st]).servo.motion = .tensioned ∧ (t.stns[st]).servo.closing = false) ∧
      (v.motion ≠ .hold → ∃ t, exec (.tensionTimeout st) s = .next t ∧ (t.stns[st]).servo.motion = .open_ ∧ (t.stns[st]).men = true)))
end

