-- ==== Sys2Proof/Laws/State.lean ====
section
/-!
SUPPORT. One lemma for each field of State under each named update of Machine/Ops.lean, and reading back an element of a
vector that was changed in place. All but the last hold by unfolding, so that no later proof unfolds a record update.
-/
set_option linter.all false
namespace Sys2Proof.Machine

/-! ### An element of a vector -/

/-- The element changed, read at its number. -/
@[simp] theorem vmod_at_self {α : Type} {n : Nat} (v : Vector α n) (i : Fin n) (f : α → α) :
    (vmod v i f)[i.val] = f v[i.val] := by
  simp [vmod]

/-- Any element of a vector changed at `i`, read at its number. -/
theorem vmod_at {α : Type} {n : Nat} (v : Vector α n) (i : Fin n) (f : α → α) (j : Nat) (h : j < n) :
    (vmod v i f)[j] = if i.val = j then f v[j] else v[j] := by
  split
  · subst_vars; simp
  · simp [vmod, *]

/-- The element changed. -/
theorem vmod_get_self {α : Type} {n : Nat} (v : Vector α n) (i : Fin n) (f : α → α) : (vmod v i f)[i] = f v[i] := by
  simp

/-- An element other than the one changed. -/
theorem vmod_get_ne {α : Type} {n : Nat} (v : Vector α n) (i j : Fin n) (f : α → α) (h : i ≠ j) : (vmod v i f)[j] = v[j] := by
  have : i.val ≠ j.val := fun e => h (Fin.ext e)
  simp [vmod_at, this]

/-- A view of the elements that `f` does not change is the same for the whole vector. -/
theorem vmod_map {α β : Type} {n : Nat} (v : Vector α n) (i : Fin n) (f : α → α) (g : α → β) (h : ∀ x, g (f x) = g x) :
    (vmod v i f).map g = v.map g := by
  apply Vector.ext
  intro j hj
  by_cases e : i.val = j
  · subst e; simp [vmod, h]
  · simp [vmod, e]

/-! ### modPort -/

@[simp] theorem State.modPort_pending (s : State) (p : Port) (f : HostPort → HostPort) : (s.modPort p f).pending = s.pending := rfl
@[simp] theorem State.modPort_clock (s : State) (p : Port) (f : HostPort → HostPort) : (s.modPort p f).clock = s.clock := rfl
@[simp] theorem State.modPort_fresh (s : State) (p : Port) (f : HostPort → HostPort) : (s.modPort p f).fresh = s.fresh := rfl
@[simp] theorem State.modPort_out (s : State) (p : Port) (f : HostPort → HostPort) : (s.modPort p f).out = s.out := rfl
@[simp] theorem State.modPort_rst (s : State) (p : Port) (f : HostPort → HostPort) : (s.modPort p f).rst = s.rst := rfl
@[simp] theorem State.modPort_ledger (s : State) (p : Port) (f : HostPort → HostPort) : (s.modPort p f).ledger = s.ledger := rfl
@[simp] theorem State.modPort_boot (s : State) (p : Port) (f : HostPort → HostPort) : (s.modPort p f).boot = s.boot := rfl
@[simp] theorem State.modPort_vault (s : State) (p : Port) (f : HostPort → HostPort) : (s.modPort p f).vault = s.vault := rfl
@[simp] theorem State.modPort_supply (s : State) (p : Port) (f : HostPort → HostPort) : (s.modPort p f).supply = s.supply := rfl
@[simp] theorem State.modPort_thermal (s : State) (p : Port) (f : HostPort → HostPort) : (s.modPort p f).thermal = s.thermal := rfl
@[simp] theorem State.modPort_pinsSet (s : State) (p : Port) (f : HostPort → HostPort) : (s.modPort p f).pinsSet = s.pinsSet := rfl
@[simp] theorem State.modPort_mem (s : State) (p : Port) (f : HostPort → HostPort) : (s.modPort p f).mem = s.mem := rfl
@[simp] theorem State.modPort_hbm (s : State) (p : Port) (f : HostPort → HostPort) : (s.modPort p f).hbm = s.hbm := rfl
@[simp] theorem State.modPort_dies (s : State) (p : Port) (f : HostPort → HostPort) : (s.modPort p f).dies = s.dies := rfl
@[simp] theorem State.modPort_stores (s : State) (p : Port) (f : HostPort → HostPort) : (s.modPort p f).stores = s.stores := rfl
@[simp] theorem State.modPort_stns (s : State) (p : Port) (f : HostPort → HostPort) : (s.modPort p f).stns = s.stns := rfl
@[simp] theorem State.modPort_stnMap (s : State) (p : Port) (f : HostPort → HostPort) : (s.modPort p f).stnMap = s.stnMap := rfl
@[simp] theorem State.modPort_locks (s : State) (p : Port) (f : HostPort → HostPort) : (s.modPort p f).locks = s.locks := rfl
@[simp] theorem State.modPort_mntCnt (s : State) (p : Port) (f : HostPort → HostPort) : (s.modPort p f).mntCnt = s.mntCnt := rfl
@[simp] theorem State.modPort_ucieDown (s : State) (p : Port) (f : HostPort → HostPort) : (s.modPort p f).ucieDown = s.ucieDown := rfl
@[simp] theorem State.modPort_migs (s : State) (p : Port) (f : HostPort → HostPort) : (s.modPort p f).migs = s.migs := rfl
@[simp] theorem State.modPort_test (s : State) (p : Port) (f : HostPort → HostPort) : (s.modPort p f).test = s.test := rfl
@[simp] theorem State.modPort_power (s : State) (p : Port) (f : HostPort → HostPort) : (s.modPort p f).power = s.power := rfl
@[simp] theorem State.modPort_blkRst (s : State) (p : Port) (f : HostPort → HostPort) : (s.modPort p f).blkRst = s.blkRst := rfl
@[simp] theorem State.modPort_tap (s : State) (p : Port) (f : HostPort → HostPort) : (s.modPort p f).tap = s.tap := rfl
theorem State.modPort_ports (s : State) (p : Port) (f : HostPort → HostPort) : (s.modPort p f).ports = vmod s.ports p f := rfl
@[simp] theorem State.modPort_self (s : State) (p : Port) (f : HostPort → HostPort) : (s.modPort p f).ports[p.val] = f s.ports[p.val] := vmod_at_self _ _ _
theorem State.modPort_at (s : State) (p : Port) (f : HostPort → HostPort) (j : Nat) (h : j < 2) :
    (s.modPort p f).ports[j] = if p.val = j then f s.ports[j] else s.ports[j] := vmod_at _ _ _ _ h

/-! ### modDie -/

@[simp] theorem State.modDie_pending (s : State) (d : DieId) (f : Die → Die) : (s.modDie d f).pending = s.pending := rfl
@[simp] theorem State.modDie_clock (s : State) (d : DieId) (f : Die → Die) : (s.modDie d f).clock = s.clock := rfl
@[simp] theorem State.modDie_fresh (s : State) (d : DieId) (f : Die → Die) : (s.modDie d f).fresh = s.fresh := rfl
@[simp] theorem State.modDie_out (s : State) (d : DieId) (f : Die → Die) : (s.modDie d f).out = s.out := rfl
@[simp] theorem State.modDie_rst (s : State) (d : DieId) (f : Die → Die) : (s.modDie d f).rst = s.rst := rfl
@[simp] theorem State.modDie_ledger (s : State) (d : DieId) (f : Die → Die) : (s.modDie d f).ledger = s.ledger := rfl
@[simp] theorem State.modDie_boot (s : State) (d : DieId) (f : Die → Die) : (s.modDie d f).boot = s.boot := rfl
@[simp] theorem State.modDie_vault (s : State) (d : DieId) (f : Die → Die) : (s.modDie d f).vault = s.vault := rfl
@[simp] theorem State.modDie_supply (s : State) (d : DieId) (f : Die → Die) : (s.modDie d f).supply = s.supply := rfl
@[simp] theorem State.modDie_thermal (s : State) (d : DieId) (f : Die → Die) : (s.modDie d f).thermal = s.thermal := rfl
@[simp] theorem State.modDie_pinsSet (s : State) (d : DieId) (f : Die → Die) : (s.modDie d f).pinsSet = s.pinsSet := rfl
@[simp] theorem State.modDie_mem (s : State) (d : DieId) (f : Die → Die) : (s.modDie d f).mem = s.mem := rfl
@[simp] theorem State.modDie_hbm (s : State) (d : DieId) (f : Die → Die) : (s.modDie d f).hbm = s.hbm := rfl
@[simp] theorem State.modDie_stores (s : State) (d : DieId) (f : Die → Die) : (s.modDie d f).stores = s.stores := rfl
@[simp] theorem State.modDie_ports (s : State) (d : DieId) (f : Die → Die) : (s.modDie d f).ports = s.ports := rfl
@[simp] theorem State.modDie_stns (s : State) (d : DieId) (f : Die → Die) : (s.modDie d f).stns = s.stns := rfl
@[simp] theorem State.modDie_stnMap (s : State) (d : DieId) (f : Die → Die) : (s.modDie d f).stnMap = s.stnMap := rfl
@[simp] theorem State.modDie_locks (s : State) (d : DieId) (f : Die → Die) : (s.modDie d f).locks = s.locks := rfl
@[simp] theorem State.modDie_mntCnt (s : State) (d : DieId) (f : Die → Die) : (s.modDie d f).mntCnt = s.mntCnt := rfl
@[simp] theorem State.modDie_ucieDown (s : State) (d : DieId) (f : Die → Die) : (s.modDie d f).ucieDown = s.ucieDown := rfl
@[simp] theorem State.modDie_migs (s : State) (d : DieId) (f : Die → Die) : (s.modDie d f).migs = s.migs := rfl
@[simp] theorem State.modDie_test (s : State) (d : DieId) (f : Die → Die) : (s.modDie d f).test = s.test := rfl
@[simp] theorem State.modDie_power (s : State) (d : DieId) (f : Die → Die) : (s.modDie d f).power = s.power := rfl
@[simp] theorem State.modDie_blkRst (s : State) (d : DieId) (f : Die → Die) : (s.modDie d f).blkRst = s.blkRst := rfl
@[simp] theorem State.modDie_tap (s : State) (d : DieId) (f : Die → Die) : (s.modDie d f).tap = s.tap := rfl
theorem State.modDie_dies (s : State) (d : DieId) (f : Die → Die) : (s.modDie d f).dies = vmod s.dies d f := rfl
@[simp] theorem State.modDie_self (s : State) (d : DieId) (f : Die → Die) : (s.modDie d f).dies[d.val] = f s.dies[d.val] := vmod_at_self _ _ _
theorem State.modDie_at (s : State) (d : DieId) (f : Die → Die) (j : Nat) (h : j < 2) :
    (s.modDie d f).dies[j] = if d.val = j then f s.dies[j] else s.dies[j] := vmod_at _ _ _ _ h

/-! ### modStn -/

@[simp] theorem State.modStn_pending (s : State) (t : Stn) (f : Station → Station) : (s.modStn t f).pending = s.pending := rfl
@[simp] theorem State.modStn_clock (s : State) (t : Stn) (f : Station → Station) : (s.modStn t f).clock = s.clock := rfl
@[simp] theorem State.modStn_fresh (s : State) (t : Stn) (f : Station → Station) : (s.modStn t f).fresh = s.fresh := rfl
@[simp] theorem State.modStn_out (s : State) (t : Stn) (f : Station → Station) : (s.modStn t f).out = s.out := rfl
@[simp] theorem State.modStn_rst (s : State) (t : Stn) (f : Station → Station) : (s.modStn t f).rst = s.rst := rfl
@[simp] theorem State.modStn_ledger (s : State) (t : Stn) (f : Station → Station) : (s.modStn t f).ledger = s.ledger := rfl
@[simp] theorem State.modStn_boot (s : State) (t : Stn) (f : Station → Station) : (s.modStn t f).boot = s.boot := rfl
@[simp] theorem State.modStn_vault (s : State) (t : Stn) (f : Station → Station) : (s.modStn t f).vault = s.vault := rfl
@[simp] theorem State.modStn_supply (s : State) (t : Stn) (f : Station → Station) : (s.modStn t f).supply = s.supply := rfl
@[simp] theorem State.modStn_thermal (s : State) (t : Stn) (f : Station → Station) : (s.modStn t f).thermal = s.thermal := rfl
@[simp] theorem State.modStn_pinsSet (s : State) (t : Stn) (f : Station → Station) : (s.modStn t f).pinsSet = s.pinsSet := rfl
@[simp] theorem State.modStn_mem (s : State) (t : Stn) (f : Station → Station) : (s.modStn t f).mem = s.mem := rfl
@[simp] theorem State.modStn_hbm (s : State) (t : Stn) (f : Station → Station) : (s.modStn t f).hbm = s.hbm := rfl
@[simp] theorem State.modStn_dies (s : State) (t : Stn) (f : Station → Station) : (s.modStn t f).dies = s.dies := rfl
@[simp] theorem State.modStn_stores (s : State) (t : Stn) (f : Station → Station) : (s.modStn t f).stores = s.stores := rfl
@[simp] theorem State.modStn_ports (s : State) (t : Stn) (f : Station → Station) : (s.modStn t f).ports = s.ports := rfl
@[simp] theorem State.modStn_stnMap (s : State) (t : Stn) (f : Station → Station) : (s.modStn t f).stnMap = s.stnMap := rfl
@[simp] theorem State.modStn_locks (s : State) (t : Stn) (f : Station → Station) : (s.modStn t f).locks = s.locks := rfl
@[simp] theorem State.modStn_mntCnt (s : State) (t : Stn) (f : Station → Station) : (s.modStn t f).mntCnt = s.mntCnt := rfl
@[simp] theorem State.modStn_ucieDown (s : State) (t : Stn) (f : Station → Station) : (s.modStn t f).ucieDown = s.ucieDown := rfl
@[simp] theorem State.modStn_migs (s : State) (t : Stn) (f : Station → Station) : (s.modStn t f).migs = s.migs := rfl
@[simp] theorem State.modStn_test (s : State) (t : Stn) (f : Station → Station) : (s.modStn t f).test = s.test := rfl
@[simp] theorem State.modStn_power (s : State) (t : Stn) (f : Station → Station) : (s.modStn t f).power = s.power := rfl
@[simp] theorem State.modStn_blkRst (s : State) (t : Stn) (f : Station → Station) : (s.modStn t f).blkRst = s.blkRst := rfl
@[simp] theorem State.modStn_tap (s : State) (t : Stn) (f : Station → Station) : (s.modStn t f).tap = s.tap := rfl
theorem State.modStn_stns (s : State) (t : Stn) (f : Station → Station) : (s.modStn t f).stns = vmod s.stns t f := rfl
@[simp] theorem State.modStn_self (s : State) (t : Stn) (f : Station → Station) : (s.modStn t f).stns[t.val] = f s.stns[t.val] := vmod_at_self _ _ _
theorem State.modStn_at (s : State) (t : Stn) (f : Station → Station) (j : Nat) (h : j < 8) :
    (s.modStn t f).stns[j] = if t.val = j then f s.stns[j] else s.stns[j] := vmod_at _ _ _ _ h

/-! ### modStack -/

@[simp] theorem State.modStack_pending (s : State) (k : Fin 4) (f : Stack → Stack) : (s.modStack k f).pending = s.pending := rfl
@[simp] theorem State.modStack_clock (s : State) (k : Fin 4) (f : Stack → Stack) : (s.modStack k f).clock = s.clock := rfl
@[simp] theorem State.modStack_fresh (s : State) (k : Fin 4) (f : Stack → Stack) : (s.modStack k f).fresh = s.fresh := rfl
@[simp] theorem State.modStack_out (s : State) (k : Fin 4) (f : Stack → Stack) : (s.modStack k f).out = s.out := rfl
@[simp] theorem State.modStack_rst (s : State) (k : Fin 4) (f : Stack → Stack) : (s.modStack k f).rst = s.rst := rfl
@[simp] theorem State.modStack_ledger (s : State) (k : Fin 4) (f : Stack → Stack) : (s.modStack k f).ledger = s.ledger := rfl
@[simp] theorem State.modStack_boot (s : State) (k : Fin 4) (f : Stack → Stack) : (s.modStack k f).boot = s.boot := rfl
@[simp] theorem State.modStack_vault (s : State) (k : Fin 4) (f : Stack → Stack) : (s.modStack k f).vault = s.vault := rfl
@[simp] theorem State.modStack_supply (s : State) (k : Fin 4) (f : Stack → Stack) : (s.modStack k f).supply = s.supply := rfl
@[simp] theorem State.modStack_thermal (s : State) (k : Fin 4) (f : Stack → Stack) : (s.modStack k f).thermal = s.thermal := rfl
@[simp] theorem State.modStack_pinsSet (s : State) (k : Fin 4) (f : Stack → Stack) : (s.modStack k f).pinsSet = s.pinsSet := rfl
@[simp] theorem State.modStack_mem (s : State) (k : Fin 4) (f : Stack → Stack) : (s.modStack k f).mem = s.mem := rfl
@[simp] theorem State.modStack_dies (s : State) (k : Fin 4) (f : Stack → Stack) : (s.modStack k f).dies = s.dies := rfl
@[simp] theorem State.modStack_stores (s : State) (k : Fin 4) (f : Stack → Stack) : (s.modStack k f).stores = s.stores := rfl
@[simp] theorem State.modStack_ports (s : State) (k : Fin 4) (f : Stack → Stack) : (s.modStack k f).ports = s.ports := rfl
@[simp] theorem State.modStack_stns (s : State) (k : Fin 4) (f : Stack → Stack) : (s.modStack k f).stns = s.stns := rfl
@[simp] theorem State.modStack_stnMap (s : State) (k : Fin 4) (f : Stack → Stack) : (s.modStack k f).stnMap = s.stnMap := rfl
@[simp] theorem State.modStack_locks (s : State) (k : Fin 4) (f : Stack → Stack) : (s.modStack k f).locks = s.locks := rfl
@[simp] theorem State.modStack_mntCnt (s : State) (k : Fin 4) (f : Stack → Stack) : (s.modStack k f).mntCnt = s.mntCnt := rfl
@[simp] theorem State.modStack_ucieDown (s : State) (k : Fin 4) (f : Stack → Stack) : (s.modStack k f).ucieDown = s.ucieDown := rfl
@[simp] theorem State.modStack_migs (s : State) (k : Fin 4) (f : Stack → Stack) : (s.modStack k f).migs = s.migs := rfl
@[simp] theorem State.modStack_test (s : State) (k : Fin 4) (f : Stack → Stack) : (s.modStack k f).test = s.test := rfl
@[simp] theorem State.modStack_power (s : State) (k : Fin 4) (f : Stack → Stack) : (s.modStack k f).power = s.power := rfl
@[simp] theorem State.modStack_blkRst (s : State) (k : Fin 4) (f : Stack → Stack) : (s.modStack k f).blkRst = s.blkRst := rfl
@[simp] theorem State.modStack_tap (s : State) (k : Fin 4) (f : Stack → Stack) : (s.modStack k f).tap = s.tap := rfl
theorem State.modStack_hbm (s : State) (k : Fin 4) (f : Stack → Stack) : (s.modStack k f).hbm = vmod s.hbm k f := rfl
@[simp] theorem State.modStack_self (s : State) (k : Fin 4) (f : Stack → Stack) : (s.modStack k f).hbm[k.val] = f s.hbm[k.val] := vmod_at_self _ _ _
theorem State.modStack_at (s : State) (k : Fin 4) (f : Stack → Stack) (j : Nat) (h : j < 4) :
    (s.modStack k f).hbm[j] = if k.val = j then f s.hbm[j] else s.hbm[j] := vmod_at _ _ _ _ h

/-! ### modStore -/

@[simp] theorem State.modStore_pending (s : State) (k : Fin 10) (f : Store → Store) : (s.modStore k f).pending = s.pending := rfl
@[simp] theorem State.modStore_clock (s : State) (k : Fin 10) (f : Store → Store) : (s.modStore k f).clock = s.clock := rfl
@[simp] theorem State.modStore_fresh (s : State) (k : Fin 10) (f : Store → Store) : (s.modStore k f).fresh = s.fresh := rfl
@[simp] theorem State.modStore_out (s : State) (k : Fin 10) (f : Store → Store) : (s.modStore k f).out = s.out := rfl
@[simp] theorem State.modStore_rst (s : State) (k : Fin 10) (f : Store → Store) : (s.modStore k f).rst = s.rst := rfl
@[simp] theorem State.modStore_ledger (s : State) (k : Fin 10) (f : Store → Store) : (s.modStore k f).ledger = s.ledger := rfl
@[simp] theorem State.modStore_boot (s : State) (k : Fin 10) (f : Store → Store) : (s.modStore k f).boot = s.boot := rfl
@[simp] theorem State.modStore_vault (s : State) (k : Fin 10) (f : Store → Store) : (s.modStore k f).vault = s.vault := rfl
@[simp] theorem State.modStore_supply (s : State) (k : Fin 10) (f : Store → Store) : (s.modStore k f).supply = s.supply := rfl
@[simp] theorem State.modStore_thermal (s : State) (k : Fin 10) (f : Store → Store) : (s.modStore k f).thermal = s.thermal := rfl
@[simp] theorem State.modStore_pinsSet (s : State) (k : Fin 10) (f : Store → Store) : (s.modStore k f).pinsSet = s.pinsSet := rfl
@[simp] theorem State.modStore_mem (s : State) (k : Fin 10) (f : Store → Store) : (s.modStore k f).mem = s.mem := rfl
@[simp] theorem State.modStore_hbm (s : State) (k : Fin 10) (f : Store → Store) : (s.modStore k f).hbm = s.hbm := rfl
@[simp] theorem State.modStore_dies (s : State) (k : Fin 10) (f : Store → Store) : (s.modStore k f).dies = s.dies := rfl
@[simp] theorem State.modStore_ports (s : State) (k : Fin 10) (f : Store → Store) : (s.modStore k f).ports = s.ports := rfl
@[simp] theorem State.modStore_stns (s : State) (k : Fin 10) (f : Store → Store) : (s.modStore k f).stns = s.stns := rfl
@[simp] theorem State.modStore_stnMap (s : State) (k : Fin 10) (f : Store → Store) : (s.modStore k f).stnMap = s.stnMap := rfl
@[simp] theorem State.modStore_locks (s : State) (k : Fin 10) (f : Store → Store) : (s.modStore k f).locks = s.locks := rfl
@[simp] theorem State.modStore_mntCnt (s : State) (k : Fin 10) (f : Store → Store) : (s.modStore k f).mntCnt = s.mntCnt := rfl
@[simp] theorem State.modStore_ucieDown (s : State) (k : Fin 10) (f : Store → Store) : (s.modStore k f).ucieDown = s.ucieDown := rfl
@[simp] theorem State.modStore_migs (s : State) (k : Fin 10) (f : Store → Store) : (s.modStore k f).migs = s.migs := rfl
@[simp] theorem State.modStore_test (s : State) (k : Fin 10) (f : Store → Store) : (s.modStore k f).test = s.test := rfl
@[simp] theorem State.modStore_power (s : State) (k : Fin 10) (f : Store → Store) : (s.modStore k f).power = s.power := rfl
@[simp] theorem State.modStore_blkRst (s : State) (k : Fin 10) (f : Store → Store) : (s.modStore k f).blkRst = s.blkRst := rfl
@[simp] theorem State.modStore_tap (s : State) (k : Fin 10) (f : Store → Store) : (s.modStore k f).tap = s.tap := rfl
theorem State.modStore_stores (s : State) (k : Fin 10) (f : Store → Store) : (s.modStore k f).stores = vmod s.stores k f := rfl
@[simp] theorem State.modStore_self (s : State) (k : Fin 10) (f : Store → Store) : (s.modStore k f).stores[k.val] = f s.stores[k.val] := vmod_at_self _ _ _
theorem State.modStore_at (s : State) (k : Fin 10) (f : Store → Store) (j : Nat) (h : j < 10) :
    (s.modStore k f).stores[j] = if k.val = j then f s.stores[j] else s.stores[j] := vmod_at _ _ _ _ h

/-! ### emit -/

@[simp] theorem State.emit_pending (s : State) (o : Out) : (s.emit o).pending = s.pending := rfl
@[simp] theorem State.emit_clock (s : State) (o : Out) : (s.emit o).clock = s.clock := rfl
@[simp] theorem State.emit_fresh (s : State) (o : Out) : (s.emit o).fresh = s.fresh := rfl
@[simp] theorem State.emit_rst (s : State) (o : Out) : (s.emit o).rst = s.rst := rfl
@[simp] theorem State.emit_ledger (s : State) (o : Out) : (s.emit o).ledger = s.ledger := rfl
@[simp] theorem State.emit_boot (s : State) (o : Out) : (s.emit o).boot = s.boot := rfl
@[simp] theorem State.emit_vault (s : State) (o : Out) : (s.emit o).vault = s.vault := rfl
@[simp] theorem State.emit_supply (s : State) (o : Out) : (s.emit o).supply = s.supply := rfl
@[simp] theorem State.emit_thermal (s : State) (o : Out) : (s.emit o).thermal = s.thermal := rfl
@[simp] theorem State.emit_pinsSet (s : State) (o : Out) : (s.emit o).pinsSet = s.pinsSet := rfl
@[simp] theorem State.emit_mem (s : State) (o : Out) : (s.emit o).mem = s.mem := rfl
@[simp] theorem State.emit_hbm (s : State) (o : Out) : (s.emit o).hbm = s.hbm := rfl
@[simp] theorem State.emit_dies (s : State) (o : Out) : (s.emit o).dies = s.dies := rfl
@[simp] theorem State.emit_stores (s : State) (o : Out) : (s.emit o).stores = s.stores := rfl
@[simp] theorem State.emit_ports (s : State) (o : Out) : (s.emit o).ports = s.ports := rfl
@[simp] theorem State.emit_stns (s : State) (o : Out) : (s.emit o).stns = s.stns := rfl
@[simp] theorem State.emit_stnMap (s : State) (o : Out) : (s.emit o).stnMap = s.stnMap := rfl
@[simp] theorem State.emit_locks (s : State) (o : Out) : (s.emit o).locks = s.locks := rfl
@[simp] theorem State.emit_mntCnt (s : State) (o : Out) : (s.emit o).mntCnt = s.mntCnt := rfl
@[simp] theorem State.emit_ucieDown (s : State) (o : Out) : (s.emit o).ucieDown = s.ucieDown := rfl
@[simp] theorem State.emit_migs (s : State) (o : Out) : (s.emit o).migs = s.migs := rfl
@[simp] theorem State.emit_test (s : State) (o : Out) : (s.emit o).test = s.test := rfl
@[simp] theorem State.emit_power (s : State) (o : Out) : (s.emit o).power = s.power := rfl
@[simp] theorem State.emit_blkRst (s : State) (o : Out) : (s.emit o).blkRst = s.blkRst := rfl
@[simp] theorem State.emit_tap (s : State) (o : Out) : (s.emit o).tap = s.tap := rfl
@[simp] theorem State.emit_out (s : State) (o : Out) : (s.emit o).out = o :: s.out := rfl

/-! ### Free values -/

@[simp] theorem State.draw_pending (s : State) : s.draw.2.pending = s.pending := rfl
@[simp] theorem State.drawBytes_pending (s : State) (n : Nat) : (s.drawBytes n).2.pending = s.pending := rfl
@[simp] theorem State.draw_clock (s : State) : s.draw.2.clock = s.clock := rfl
@[simp] theorem State.drawBytes_clock (s : State) (n : Nat) : (s.drawBytes n).2.clock = s.clock := rfl
@[simp] theorem State.draw_out (s : State) : s.draw.2.out = s.out := rfl
@[simp] theorem State.drawBytes_out (s : State) (n : Nat) : (s.drawBytes n).2.out = s.out := rfl
@[simp] theorem State.draw_rst (s : State) : s.draw.2.rst = s.rst := rfl
@[simp] theorem State.drawBytes_rst (s : State) (n : Nat) : (s.drawBytes n).2.rst = s.rst := rfl
@[simp] theorem State.draw_ledger (s : State) : s.draw.2.ledger = s.ledger := rfl
@[simp] theorem State.drawBytes_ledger (s : State) (n : Nat) : (s.drawBytes n).2.ledger = s.ledger := rfl
@[simp] theorem State.draw_boot (s : State) : s.draw.2.boot = s.boot := rfl
@[simp] theorem State.drawBytes_boot (s : State) (n : Nat) : (s.drawBytes n).2.boot = s.boot := rfl
@[simp] theorem State.draw_vault (s : State) : s.draw.2.vault = s.vault := rfl
@[simp] theorem State.drawBytes_vault (s : State) (n : Nat) : (s.drawBytes n).2.vault = s.vault := rfl
@[simp] theorem State.draw_supply (s : State) : s.draw.2.supply = s.supply := rfl
@[simp] theorem State.drawBytes_supply (s : State) (n : Nat) : (s.drawBytes n).2.supply = s.supply := rfl
@[simp] theorem State.draw_thermal (s : State) : s.draw.2.thermal = s.thermal := rfl
@[simp] theorem State.drawBytes_thermal (s : State) (n : Nat) : (s.drawBytes n).2.thermal = s.thermal := rfl
@[simp] theorem State.draw_pinsSet (s : State) : s.draw.2.pinsSet = s.pinsSet := rfl
@[simp] theorem State.drawBytes_pinsSet (s : State) (n : Nat) : (s.drawBytes n).2.pinsSet = s.pinsSet := rfl
@[simp] theorem State.draw_mem (s : State) : s.draw.2.mem = s.mem := rfl
@[simp] theorem State.drawBytes_mem (s : State) (n : Nat) : (s.drawBytes n).2.mem = s.mem := rfl
@[simp] theorem State.draw_hbm (s : State) : s.draw.2.hbm = s.hbm := rfl
@[simp] theorem State.drawBytes_hbm (s : State) (n : Nat) : (s.drawBytes n).2.hbm = s.hbm := rfl
@[simp] theorem State.draw_dies (s : State) : s.draw.2.dies = s.dies := rfl
@[simp] theorem State.drawBytes_dies (s : State) (n : Nat) : (s.drawBytes n).2.dies = s.dies := rfl
@[simp] theorem State.draw_stores (s : State) : s.draw.2.stores = s.stores := rfl
@[simp] theorem State.drawBytes_stores (s : State) (n : Nat) : (s.drawBytes n).2.stores = s.stores := rfl
@[simp] theorem State.draw_ports (s : State) : s.draw.2.ports = s.ports := rfl
@[simp] theorem State.drawBytes_ports (s : State) (n : Nat) : (s.drawBytes n).2.ports = s.ports := rfl
@[simp] theorem State.draw_stns (s : State) : s.draw.2.stns = s.stns := rfl
@[simp] theorem State.drawBytes_stns (s : State) (n : Nat) : (s.drawBytes n).2.stns = s.stns := rfl
@[simp] theorem State.draw_stnMap (s : State) : s.draw.2.stnMap = s.stnMap := rfl
@[simp] theorem State.drawBytes_stnMap (s : State) (n : Nat) : (s.drawBytes n).2.stnMap = s.stnMap := rfl
@[simp] theorem State.draw_locks (s : State) : s.draw.2.locks = s.locks := rfl
@[simp] theorem State.drawBytes_locks (s : State) (n : Nat) : (s.drawBytes n).2.locks = s.locks := rfl
@[simp] theorem State.draw_mntCnt (s : State) : s.draw.2.mntCnt = s.mntCnt := rfl
@[simp] theorem State.drawBytes_mntCnt (s : State) (n : Nat) : (s.drawBytes n).2.mntCnt = s.mntCnt := rfl
@[simp] theorem State.draw_ucieDown (s : State) : s.draw.2.ucieDown = s.ucieDown := rfl
@[simp] theorem State.drawBytes_ucieDown (s : State) (n : Nat) : (s.drawBytes n).2.ucieDown = s.ucieDown := rfl
@[simp] theorem State.draw_migs (s : State) : s.draw.2.migs = s.migs := rfl
@[simp] theorem State.drawBytes_migs (s : State) (n : Nat) : (s.drawBytes n).2.migs = s.migs := rfl
@[simp] theorem State.draw_test (s : State) : s.draw.2.test = s.test := rfl
@[simp] theorem State.drawBytes_test (s : State) (n : Nat) : (s.drawBytes n).2.test = s.test := rfl
@[simp] theorem State.draw_power (s : State) : s.draw.2.power = s.power := rfl
@[simp] theorem State.drawBytes_power (s : State) (n : Nat) : (s.drawBytes n).2.power = s.power := rfl
@[simp] theorem State.draw_blkRst (s : State) : s.draw.2.blkRst = s.blkRst := rfl
@[simp] theorem State.draw_tap (s : State) : s.draw.2.tap = s.tap := rfl
@[simp] theorem State.drawBytes_blkRst (s : State) (n : Nat) : (s.drawBytes n).2.blkRst = s.blkRst := rfl
@[simp] theorem State.drawBytes_tap (s : State) (n : Nat) : (s.drawBytes n).2.tap = s.tap := rfl

end Sys2Proof.Machine
end

