-- ==== Sys2Proof/Laws/Ledger.lean ====
section
/-!
SUPPORT. The operations that leave the ledger of the package alone: one lemma for each, in the order in which they are built on
one another.
-/
set_option linter.all false

namespace Sys2Proof.Machine

/-- An update of any field that is no part of the ledger. -/
theorem keeps_ledger_upd (s : State) (pending : List Instr) (clock : Nat) (fresh : Nat) (out : List Out) (rst : ResetCtl) (boot : Boot) (vault : Vault) (supply : Supply) (thermal : Thermal) (pinsSet : Bool) (mem : List Host.Cell) (hbm : Vector Stack 4) (dies : Vector Die 2) (stores : Vector Store 10) (stns : Vector Station 8) (stnMap : BitVec 8) (locks : List Lock) (mntCnt : BitVec 32) (ucieDown : Bool) (migs : List MigJob) (test : Option TestRun) (power : Power) (blkRst : List BlkReset) (tap : Tap) :
    State.ledger ⟨pending, clock, fresh, out, rst, s.ledger, boot, vault, supply, thermal, pinsSet, mem, hbm, dies, stores, s.ports, stns, stnMap, locks, mntCnt, ucieDown, migs, test, power, blkRst, tap⟩ = s.ledger := rfl

/-- A fold of operations that leave the ledger alone. -/
theorem foldl_keeps_ledger {β : Type} (f : State → β → State) (h : ∀ a x, (f a x).ledger = a.ledger) (l : List β) (s : State) :
    (l.foldl f s).ledger = s.ledger := by
  induction l generalizing s with
  | nil => rfl
  | cons x r ih => exact (ih _).trans (h _ _)

/-- The same of a fold that gathers something beside the state. -/
theorem foldl_fst_keeps_ledger {α β : Type} (f : State × α → β → State × α) (h : ∀ a x, (f a x).1.ledger = a.1.ledger) (l : List β)
    (a : State × α) : (l.foldl f a).1.ledger = a.1.ledger := by
  induction l generalizing a with
  | nil => rfl
  | cons x r ih => exact (ih _).trans (h _ _)

/-- A choice between two operations that leave the ledger alone. -/
theorem ite_keeps_ledger {c : Prop} [Decidable c] {a b s : State} (ha : a.ledger = s.ledger) (hb : b.ledger = s.ledger) :
    (if c then a else b).ledger = s.ledger := by
  split
  · exact ha
  · exact hb

theorem State.modPort_keeps_ledger (s : State) (p : Port) (f : HostPort → HostPort) : (s.modPort p f).ledger = s.ledger := rfl
theorem State.eachPort_keeps_ledger (s : State) (f : Port → HostPort → HostPort) : (s.eachPort f).ledger = s.ledger := rfl
theorem State.modDie_keeps_ledger (s : State) (d : DieId) (f : Die → Die) : (s.modDie d f).ledger = s.ledger := rfl
theorem State.modStn_keeps_ledger (s : State) (t : Stn) (f : Station → Station) : (s.modStn t f).ledger = s.ledger := rfl
theorem State.modStack_keeps_ledger (s : State) (k : Fin 4) (f : Stack → Stack) : (s.modStack k f).ledger = s.ledger := rfl
theorem State.modStore_keeps_ledger (s : State) (k : Fin 10) (f : Store → Store) : (s.modStore k f).ledger = s.ledger := rfl
theorem State.emit_keeps_ledger (s : State) (o : Out) : (s.emit o).ledger = s.ledger := rfl
theorem State.draw_keeps_ledger (s : State) : s.draw.2.ledger = s.ledger := rfl
theorem State.drawBytes_keeps_ledger (s : State) (n : Nat) : (s.drawBytes n).2.ledger = s.ledger := rfl
theorem State.eachDie_keeps_ledger (s : State) (f : DieId → Die → Die) : (s.eachDie f).ledger = s.ledger := rfl
theorem State.eachStn_keeps_ledger (s : State) (f : Stn → Station → Station) : (s.eachStn f).ledger = s.ledger := by
  unfold State.eachStn
  exact foldl_keeps_ledger (fun a t => a.modStn t (f t)) (fun _ _ => rfl) allStns s

theorem State.putTrace_keeps_ledger (s : State) (d : DieId) (q : Fin 4) (words : List (BitVec 64)) :
    (State.putTrace s d q words).1.ledger = s.ledger := by
  unfold State.putTrace
  (repeat' split) <;> first
    | with_reducible rfl
    | (simp only [State.modDie_keeps_ledger, keeps_ledger_upd, foldl_keeps_ledger, State.modPort_keeps_ledger,
      State.eachPort_keeps_ledger, apply_ite State.ledger, ite_self, implies_true]; done)
    | (simp only [State.modDie_keeps_ledger, keeps_ledger_upd, foldl_keeps_ledger, State.modPort_keeps_ledger,
      State.eachPort_keeps_ledger, apply_ite State.ledger, ite_self, implies_true]
       (repeat' split) <;> first | with_reducible rfl | simp only [State.modDie_keeps_ledger, keeps_ledger_upd, foldl_keeps_ledger, State.modPort_keeps_ledger,
      State.eachPort_keeps_ledger, apply_ite State.ledger, ite_self, implies_true])

theorem State.msix_keeps_ledger (s : State) (p : Port) (v : Nat) : (State.msix s p v).ledger = s.ledger := by
  simp only [State.msix, State.modPort_keeps_ledger, State.emit_keeps_ledger, keeps_ledger_upd,
      foldl_keeps_ledger, State.modPort_keeps_ledger, State.eachPort_keeps_ledger,
      apply_ite State.ledger, ite_self, implies_true]

theorem State.sendEvent_keeps_ledger (s : State) (p : Port) (n : Nat) : (State.sendEvent s p n).ledger = s.ledger := by
  unfold State.sendEvent
  (repeat' split) <;> first
    | with_reducible rfl
    | (simp only [State.msix_keeps_ledger, keeps_ledger_upd, foldl_keeps_ledger, State.modPort_keeps_ledger,
      State.eachPort_keeps_ledger, apply_ite State.ledger, ite_self, implies_true]; done)
    | (simp only [State.msix_keeps_ledger, keeps_ledger_upd, foldl_keeps_ledger, State.modPort_keeps_ledger,
      State.eachPort_keeps_ledger, apply_ite State.ledger, ite_self, implies_true]
       (repeat' split) <;> first | with_reducible rfl | simp only [State.msix_keeps_ledger, keeps_ledger_upd, foldl_keeps_ledger, State.modPort_keeps_ledger,
      State.eachPort_keeps_ledger, apply_ite State.ledger, ite_self, implies_true])

theorem State.raisePort_keeps_ledger (s : State) (p : Port) (n : Nat) : (State.raisePort s p n).ledger = s.ledger := by
  simp only [State.raisePort, State.modPort_keeps_ledger, State.sendEvent_keeps_ledger, keeps_ledger_upd,
      foldl_keeps_ledger, State.modPort_keeps_ledger, State.eachPort_keeps_ledger,
      apply_ite State.ledger, ite_self, implies_true]

theorem State.raise1_keeps_ledger (s : State) (n detail : Nat) : (State.raise1 s n detail).1.ledger = s.ledger := by
  simp only [State.raise1, State.putTrace_keeps_ledger, State.raisePort_keeps_ledger, keeps_ledger_upd,
      foldl_keeps_ledger, State.modPort_keeps_ledger, State.eachPort_keeps_ledger,
      apply_ite State.ledger, ite_self, implies_true]

theorem State.raise_keeps_ledger (s : State) (n : Nat) (detail : Nat) : (State.raise s n detail).ledger = s.ledger := by
  simp only [State.raise, State.raise1_keeps_ledger, keeps_ledger_upd, foldl_keeps_ledger,
      State.modPort_keeps_ledger, State.eachPort_keeps_ledger, apply_ite State.ledger, ite_self,
      implies_true]

theorem State.trace_keeps_ledger (s : State) (d : DieId) (q : Fin 4) (words : List (BitVec 64)) :
    (State.trace s d q words).ledger = s.ledger := by
  simp only [State.trace, State.putTrace_keeps_ledger, State.raise_keeps_ledger, keeps_ledger_upd,
      foldl_keeps_ledger, State.modPort_keeps_ledger, State.eachPort_keeps_ledger,
      apply_ite State.ledger, ite_self, implies_true]

theorem State.raiseAll_keeps_ledger (s : State) (l : List Nat) : (State.raiseAll s l).ledger = s.ledger := by
  simp only [State.raiseAll, State.raise_keeps_ledger, keeps_ledger_upd, foldl_keeps_ledger,
      State.modPort_keeps_ledger, State.eachPort_keeps_ledger, apply_ite State.ledger, ite_self,
      implies_true]

theorem State.dropWord_keeps_ledger (s : State) (d : DieId) (q : Fin 4) : (State.dropWord s d q).ledger = s.ledger := by
  simp only [State.dropWord, State.modDie_keeps_ledger, State.raise_keeps_ledger, keeps_ledger_upd,
      foldl_keeps_ledger, State.modPort_keeps_ledger, State.eachPort_keeps_ledger,
      apply_ite State.ledger, ite_self, implies_true]

theorem State.popTrace_keeps_ledger (s : State) (p : Port) (d : DieId) (q : Fin 4) (flips : BitVec 73) :
    (State.popTrace s p d q flips).2.ledger = s.ledger := by
  unfold State.popTrace
  (repeat' split) <;> first
    | with_reducible rfl
    | (simp only [State.modPort_keeps_ledger, State.modDie_keeps_ledger, State.draw_keeps_ledger,
      State.trace_keeps_ledger, State.dropWord_keeps_ledger, keeps_ledger_upd, foldl_keeps_ledger,
      State.modPort_keeps_ledger, State.eachPort_keeps_ledger, apply_ite State.ledger, ite_self,
      implies_true]; done)
    | (simp only [State.modPort_keeps_ledger, State.modDie_keeps_ledger, State.draw_keeps_ledger,
      State.trace_keeps_ledger, State.dropWord_keeps_ledger, keeps_ledger_upd, foldl_keeps_ledger,
      State.modPort_keeps_ledger, State.eachPort_keeps_ledger, apply_ite State.ledger, ite_self,
      implies_true]
       (repeat' split) <;> first | with_reducible rfl | simp only [State.modPort_keeps_ledger, State.modDie_keeps_ledger, State.draw_keeps_ledger,
      State.trace_keeps_ledger, State.dropWord_keeps_ledger, keeps_ledger_upd, foldl_keeps_ledger,
      State.modPort_keeps_ledger, State.eachPort_keeps_ledger, apply_ite State.ledger, ite_self,
      implies_true])

theorem State.monTake_keeps_ledger (s : State) (d : DieId) (k : Fin 64) (v : BitVec 32) :
    (State.monTake s d k v).ledger = s.ledger := by
  simp only [State.monTake, State.modDie_keeps_ledger, State.raise_keeps_ledger, keeps_ledger_upd,
      foldl_keeps_ledger, State.modPort_keeps_ledger, State.eachPort_keeps_ledger,
      apply_ite State.ledger, ite_self, implies_true]

theorem State.setPage_keeps_ledger (s : State) (a : PageAddr) (g : PageImg) : (State.setPage s a g).ledger = s.ledger := by
  unfold State.setPage
  rfl

theorem State.elogPut_keeps_ledger (s : State) (d : DieId) (e : ELogEntry) : (State.elogPut s d e).ledger = s.ledger := by
  unfold State.elogPut
  rfl

theorem State.elogPage_keeps_ledger (s : State) (a : PageAddr) (kind bits detail : Nat) (handle : BitVec 32) (actor : Nat) :
    (State.elogPage s a kind bits detail handle actor).ledger = s.ledger := by
  unfold State.elogPage
  rfl

theorem State.feedCorrected_keeps_ledger (s : State) (k : Fin 4) (ch : Fin 32) (bits : Nat) :
    (State.feedCorrected s k ch bits).ledger = s.ledger := by
  unfold State.feedCorrected
  exact foldl_keeps_ledger _ (fun a i => by
    dsimp only
    split
    · exact State.monTake_keeps_ledger ..
    · rfl) _ _

theorem State.countCorrected_keeps_ledger (s : State) (a : PageAddr) (bits : Nat) :
    (State.countCorrected s a bits).ledger = s.ledger := by
  simp only [State.countCorrected, State.modStack_keeps_ledger, State.raise_keeps_ledger,
      State.feedCorrected_keeps_ledger, keeps_ledger_upd, foldl_keeps_ledger, State.modPort_keeps_ledger,
      State.eachPort_keeps_ledger, apply_ite State.ledger, ite_self, implies_true]

theorem State.schedule_keeps_ledger (s : State) (w : PendingWb) : (State.schedule s w).ledger = s.ledger := State.modStack_keeps_ledger ..

theorem State.hardFault_keeps_ledger (s : State) (a : PageAddr) (g : PageImg) (bits detail : Nat) (handle : BitVec 32) (actor : Nat) :
    (State.hardFault s a g bits detail handle actor).ledger = s.ledger := by
  unfold State.hardFault
  (repeat' split) <;> first
    | with_reducible rfl
    | (simp only [State.modStack_keeps_ledger, State.raise_keeps_ledger, State.setPage_keeps_ledger,
      State.elogPage_keeps_ledger, keeps_ledger_upd, foldl_keeps_ledger, State.modPort_keeps_ledger,
      State.eachPort_keeps_ledger, apply_ite State.ledger, ite_self, implies_true]; done)
    | (simp only [State.modStack_keeps_ledger, State.raise_keeps_ledger, State.setPage_keeps_ledger,
      State.elogPage_keeps_ledger, keeps_ledger_upd, foldl_keeps_ledger, State.modPort_keeps_ledger,
      State.eachPort_keeps_ledger, apply_ite State.ledger, ite_self, implies_true]
       (repeat' split) <;> first | with_reducible rfl | simp only [State.modStack_keeps_ledger, State.raise_keeps_ledger, State.setPage_keeps_ledger,
      State.elogPage_keeps_ledger, keeps_ledger_upd, foldl_keeps_ledger, State.modPort_keeps_ledger,
      State.eachPort_keeps_ledger, apply_ite State.ledger, ite_self, implies_true])

theorem State.readPage_keeps_ledger (s : State) (a : PageAddr) (l : PageLine) (detail : Nat) (handle : BitVec 32) (actor : Nat) :
    (State.readPage s a l detail handle actor).2.ledger = s.ledger := by
  unfold State.readPage
  (repeat' split) <;> first
    | with_reducible rfl
    | (simp only [State.raise_keeps_ledger, State.elogPage_keeps_ledger, State.countCorrected_keeps_ledger,
      State.schedule_keeps_ledger, State.hardFault_keeps_ledger, keeps_ledger_upd, foldl_keeps_ledger,
      State.modPort_keeps_ledger, State.eachPort_keeps_ledger, apply_ite State.ledger, ite_self,
      implies_true]; done)
    | (simp only [State.raise_keeps_ledger, State.elogPage_keeps_ledger, State.countCorrected_keeps_ledger,
      State.schedule_keeps_ledger, State.hardFault_keeps_ledger, keeps_ledger_upd, foldl_keeps_ledger,
      State.modPort_keeps_ledger, State.eachPort_keeps_ledger, apply_ite State.ledger, ite_self,
      implies_true]
       (repeat' split) <;> first | with_reducible rfl | simp only [State.raise_keeps_ledger, State.elogPage_keeps_ledger, State.countCorrected_keeps_ledger,
      State.schedule_keeps_ledger, State.hardFault_keeps_ledger, keeps_ledger_upd, foldl_keeps_ledger,
      State.modPort_keeps_ledger, State.eachPort_keeps_ledger, apply_ite State.ledger, ite_self,
      implies_true])

theorem State.writePage_keeps_ledger (s : State) (a : PageAddr) (g : PageImg) :
    (State.writePage s a g).ledger = s.ledger := by
  unfold State.writePage
  rfl

theorem State.writeBackPage_keeps_ledger (s : State) (w : PendingWb) (verify : PageLine) :
    (State.writeBackPage s w verify).ledger = s.ledger := by
  simp only [State.writeBackPage, State.elogPage_keeps_ledger, State.countCorrected_keeps_ledger,
      State.hardFault_keeps_ledger, State.readPage_keeps_ledger, State.writePage_keeps_ledger,
      keeps_ledger_upd, foldl_keeps_ledger, State.modPort_keeps_ledger, State.eachPort_keeps_ledger,
      apply_ite State.ledger, ite_self, implies_true]

theorem State.modQp_keeps_ledger (s : State) (p : Port) (q : Nat) (f : Qp → Qp) :
    (State.modQp s p q f).ledger = s.ledger := by
  unfold State.modQp
  rfl

theorem State.modCmd_keeps_ledger (s : State) (r : CmdRef) (f : Cmd → Cmd) : (State.modCmd s r f).ledger = s.ledger := by
  unfold State.modCmd
  rfl

theorem State.logErr_keeps_ledger (s : State) (p : Port) (e : CmdErr) : (State.logErr s p e).ledger = s.ledger := by
  simp only [State.logErr, State.modPort_keeps_ledger, State.raise_keeps_ledger, keeps_ledger_upd,
      foldl_keeps_ledger, State.modPort_keeps_ledger, State.eachPort_keeps_ledger,
      apply_ite State.ledger, ite_self, implies_true]

theorem State.putDone_keeps_ledger (s : State) (p : Port) (q : Nat) (e : Entry) (at_ : Nat) (f : Ending) (log own : Bool) :
    (State.putDone s p q e at_ f log own).ledger = s.ledger := by
  unfold State.putDone
  rfl

theorem State.finishNew_keeps_ledger (s : State) (c : HostCmd) (f : Ending) : (State.finishNew s c f).ledger = s.ledger := by
  simp only [State.finishNew, State.logErr_keeps_ledger, State.putDone_keeps_ledger, keeps_ledger_upd,
      foldl_keeps_ledger, State.modPort_keeps_ledger, State.eachPort_keeps_ledger,
      apply_ite State.ledger, ite_self, implies_true]

theorem State.finish_keeps_ledger (s : State) (r : CmdRef) (f : Ending) : (State.finish s r f).ledger = s.ledger := by
  unfold State.finish
  (repeat' split) <;> simp only [State.modQp_keeps_ledger, State.logErr_keeps_ledger, State.putDone_keeps_ledger, keeps_ledger_upd,
      foldl_keeps_ledger, State.modPort_keeps_ledger, State.eachPort_keeps_ledger,
      apply_ite State.ledger, ite_self, implies_true]

theorem State.finishAll_keeps_ledger (s : State) (l : List CmdRef) (f : Ending) :
    (State.finishAll s l f).ledger = s.ledger := by
  simp only [State.finishAll, State.finish_keeps_ledger, keeps_ledger_upd, foldl_keeps_ledger,
      State.modPort_keeps_ledger, State.eachPort_keeps_ledger, apply_ite State.ledger, ite_self,
      implies_true]

theorem State.sendData_keeps_ledger (s : State) (p : Port) (e : Entry) (sgl : List SglEntry) (ofs : Nat) (data : List Byte) (ep : Bool) :
    (State.sendData s p e sgl ofs data ep).ledger = s.ledger :=
  foldl_keeps_ledger (fun a o => a.emit o) (fun _ _ => rfl) _ _

theorem State.sendResult_keeps_ledger (s : State) (p : Port) (e : Entry) (data : List Byte) (ep : Bool) :
    (State.sendResult s p e data ep).ledger = s.ledger := by
  simp only [State.sendResult, State.emit_keeps_ledger, keeps_ledger_upd, foldl_keeps_ledger,
      State.modPort_keeps_ledger, State.eachPort_keeps_ledger, apply_ite State.ledger, ite_self,
      implies_true]

theorem State.finishWith_keeps_ledger (s : State) (r : CmdRef) (f : Ending) (buf : List Byte) :
    (State.finishWith s r f buf).ledger = s.ledger := by
  unfold State.finishWith
  (repeat' split) <;> simp only [State.finish_keeps_ledger, State.sendResult_keeps_ledger, keeps_ledger_upd, foldl_keeps_ledger,
      State.modPort_keeps_ledger, State.eachPort_keeps_ledger, apply_ite State.ledger, ite_self,
      implies_true]

theorem State.unlock_keeps_ledger (s : State) (r : CmdRef) : (State.unlock s r).ledger = s.ledger := by
  unfold State.unlock
  rfl

theorem State.hold_keeps_ledger (s : State) (c : HostCmd) (why : Hold) : (State.hold s c why).ledger = s.ledger := by
  unfold State.hold
  rfl

theorem State.take_keeps_ledger (s : State) (c : HostCmd) : (State.take s c).ledger = s.ledger := by
  simp only [State.take, State.modPort_keeps_ledger, State.trace_keeps_ledger, State.modQp_keeps_ledger,
      keeps_ledger_upd, foldl_keeps_ledger, State.modPort_keeps_ledger, State.eachPort_keeps_ledger,
      apply_ite State.ledger, ite_self, implies_true]

theorem State.addCmd_keeps_ledger (s : State) (c : HostCmd) (k : Cmd) : (State.addCmd s c k).ledger = s.ledger := by
  unfold State.addCmd
  rfl

theorem State.host_keeps_ledger (s : State) (opc : Nat) (c : HostCmd) (own : State → Option Ending) (blocked : State → Option Hold)
    (run : State → State) (h : ∀ a, (run a).ledger = a.ledger) : (State.host s opc c own blocked run).ledger = s.ledger := by
  unfold State.host
  (repeat' split) <;> first
    | rfl
    | (rw [State.hold_keeps_ledger])
    | (rw [State.finishNew_keeps_ledger, State.take_keeps_ledger])
    | (rw [h, State.take_keeps_ledger])

theorem State.buildPools_keeps_ledger (s : State) (d : DieId) : (State.buildPools s d).ledger = s.ledger := by
  simp only [State.buildPools, State.modDie_keeps_ledger, State.raise_keeps_ledger, keeps_ledger_upd,
      foldl_keeps_ledger, State.modPort_keeps_ledger, State.eachPort_keeps_ledger,
      apply_ite State.ledger, ite_self, implies_true]

theorem State.misuse_keeps_ledger (s : State) (d : DieId) (owner : Nat) (handle : BitVec 32) (reason : Nat) :
    (State.misuse s d owner handle reason).ledger = s.ledger := by
  simp only [State.misuse, State.modDie_keeps_ledger, State.raise_keeps_ledger, State.elogPut_keeps_ledger,
      keeps_ledger_upd, foldl_keeps_ledger, State.modPort_keeps_ledger, State.eachPort_keeps_ledger,
      apply_ite State.ledger, ite_self, implies_true]

theorem State.takeBuf_keeps_ledger (s : State) (d : DieId) (p : Fin 5) (k : Nat) :
    (State.takeBuf s d p k).2.ledger = s.ledger := by
  unfold State.takeBuf
  rfl

theorem State.dropRemap_keeps_ledger (s : State) (d : DieId) (h : BitVec 32) (dpns : List Nat) :
    (State.dropRemap s d h dpns).ledger = s.ledger := by
  simp only [State.dropRemap, State.modStack_keeps_ledger, State.elogPage_keeps_ledger, keeps_ledger_upd,
      foldl_keeps_ledger, State.modPort_keeps_ledger, State.eachPort_keeps_ledger,
      apply_ite State.ledger, ite_self, implies_true]

theorem State.putBack_keeps_ledger (s : State) (d : DieId) (p : Fin 5) (i : Nat) :
    (State.putBack s d p i).ledger = s.ledger := by
  simp only [State.putBack, State.modDie_keeps_ledger, State.dropRemap_keeps_ledger, keeps_ledger_upd,
      foldl_keeps_ledger, State.modPort_keeps_ledger, State.eachPort_keeps_ledger,
      apply_ite State.ledger, ite_self, implies_true]

theorem State.addJob_keeps_ledger (s : State) (d : DieId) (r : Fin 4) (j : Job) :
    (State.addJob s d r j).ledger = s.ledger := by
  unfold State.addJob
  rfl

theorem State.backToWait_keeps_ledger (s : State) (d : DieId) (r : Fin 4) (k : JobKind) :
    (State.backToWait s d r k).ledger = s.ledger := by
  simp only [State.backToWait, State.modDie_keeps_ledger, keeps_ledger_upd, foldl_keeps_ledger,
      State.modPort_keeps_ledger, State.eachPort_keeps_ledger, apply_ite State.ledger, ite_self,
      implies_true]

theorem State.addRoom_keeps_ledger (s : State) (st : Stn) (lon n : Nat) : (State.addRoom s st lon n).ledger = s.ledger := by
  unfold State.addRoom
  rfl

theorem State.grantUse_keeps_ledger (s0 : State) (d : DieId) (h : BitVec 32) (use : PoolUse) :
    (State.grantUse s0 d h use).ledger = s0.ledger := by
  unfold State.grantUse
  (repeat' split) <;> first
    | with_reducible rfl
    | (simp only [State.modDie_keeps_ledger, State.modStn_keeps_ledger, State.modCmd_keeps_ledger,
      State.addJob_keeps_ledger, State.addRoom_keeps_ledger, keeps_ledger_upd, foldl_keeps_ledger,
      State.modPort_keeps_ledger, State.eachPort_keeps_ledger, apply_ite State.ledger, ite_self,
      implies_true]; done)
    | (simp only [State.modDie_keeps_ledger, State.modStn_keeps_ledger, State.modCmd_keeps_ledger,
      State.addJob_keeps_ledger, State.addRoom_keeps_ledger, keeps_ledger_upd, foldl_keeps_ledger,
      State.modPort_keeps_ledger, State.eachPort_keeps_ledger, apply_ite State.ledger, ite_self,
      implies_true]
       (repeat' split) <;> first | with_reducible rfl | simp only [State.modDie_keeps_ledger, State.modStn_keeps_ledger, State.modCmd_keeps_ledger,
      State.addJob_keeps_ledger, State.addRoom_keeps_ledger, keeps_ledger_upd, foldl_keeps_ledger,
      State.modPort_keeps_ledger, State.eachPort_keeps_ledger, apply_ite State.ledger, ite_self,
      implies_true])

theorem State.wake_keeps_ledger (s : State) (d : DieId) (p : Fin 5) : (State.wake s d p).ledger = s.ledger := by
  unfold State.wake
  (repeat' split) <;> simp only [State.modDie_keeps_ledger, State.takeBuf_keeps_ledger, State.grantUse_keeps_ledger,
      keeps_ledger_upd, foldl_keeps_ledger, State.modPort_keeps_ledger, State.eachPort_keeps_ledger,
      apply_ite State.ledger, ite_self, implies_true]

theorem State.wakeDue_keeps_ledger (s : State) (d : DieId) (p : Fin 5) : (State.wakeDue s d p).ledger = s.ledger := by
  simp only [State.wakeDue, State.modDie_keeps_ledger, State.wake_keeps_ledger, keeps_ledger_upd,
      foldl_keeps_ledger, State.modPort_keeps_ledger, State.eachPort_keeps_ledger,
      apply_ite State.ledger, ite_self, implies_true]

theorem State.returnBuf_keeps_ledger (s : State) (d : DieId) (p : Fin 5) (i : Nat) :
    (State.returnBuf s d p i).ledger = s.ledger := by
  simp only [State.returnBuf, State.modDie_keeps_ledger, State.putBack_keeps_ledger, State.wakeDue_keeps_ledger,
      keeps_ledger_upd, foldl_keeps_ledger, State.modPort_keeps_ledger, State.eachPort_keeps_ledger,
      apply_ite State.ledger, ite_self, implies_true]

theorem State.strike_keeps_ledger (s : State) (d : DieId) (h : BitVec 32) (owners : List Nat) (pend : Bool) :
    (State.strike s d h owners pend).ledger = s.ledger := by
  simp only [State.strike, State.modDie_keeps_ledger, State.returnBuf_keeps_ledger, keeps_ledger_upd,
      foldl_keeps_ledger, State.modPort_keeps_ledger, State.eachPort_keeps_ledger,
      apply_ite State.ledger, ite_self, implies_true]

theorem State.freeBuf_keeps_ledger (s : State) (d : DieId) (h : BitVec 32) : (State.freeBuf s d h).ledger = s.ledger := by
  simp only [State.freeBuf, State.strike_keeps_ledger, keeps_ledger_upd, foldl_keeps_ledger,
      State.modPort_keeps_ledger, State.eachPort_keeps_ledger, apply_ite State.ledger, ite_self,
      implies_true]

theorem State.dropWaits_keeps_ledger (s : State) (f : Waiter → Bool) : (State.dropWaits s f).ledger = s.ledger := by
  unfold State.dropWaits
  rfl

theorem State.logStale_keeps_ledger (s : State) (a : PageAddr) (h : BitVec 32) (actor : Nat) :
    (State.logStale s a h actor).ledger = s.ledger := by
  simp only [State.logStale, State.modDie_keeps_ledger, State.raise_keeps_ledger, State.elogPage_keeps_ledger,
      State.misuse_keeps_ledger, keeps_ledger_upd, foldl_keeps_ledger, State.modPort_keeps_ledger,
      State.eachPort_keeps_ledger, apply_ite State.ledger, ite_self, implies_true]

theorem State.dropQuarantine_keeps_ledger (s : State) (d : DieId) : (State.dropQuarantine s d).ledger = s.ledger := by
  simp only [State.dropQuarantine, State.strike_keeps_ledger, keeps_ledger_upd, foldl_keeps_ledger,
      State.modPort_keeps_ledger, State.eachPort_keeps_ledger, apply_ite State.ledger, ite_self,
      implies_true]

theorem State.dropJobs_keeps_ledger (s : State) (f : JobKind → Bool) : (State.dropJobs s f).ledger = s.ledger := by
  unfold State.dropJobs
  rfl

theorem State.closeGath_keeps_ledger (s : State) (st : Stn) (forFlush ends : Bool) :
    (State.closeGath s st forFlush ends).ledger = s.ledger := by
  unfold State.closeGath
  (repeat' split) <;> first
    | with_reducible rfl
    | (simp only [State.modStn_keeps_ledger, State.addJob_keeps_ledger, keeps_ledger_upd, foldl_keeps_ledger,
      State.modPort_keeps_ledger, State.eachPort_keeps_ledger, apply_ite State.ledger, ite_self,
      implies_true]; done)
    | (simp only [State.modStn_keeps_ledger, State.addJob_keeps_ledger, keeps_ledger_upd, foldl_keeps_ledger,
      State.modPort_keeps_ledger, State.eachPort_keeps_ledger, apply_ite State.ledger, ite_self,
      implies_true]
       (repeat' split) <;> first | with_reducible rfl | simp only [State.modStn_keeps_ledger, State.addJob_keeps_ledger, keeps_ledger_upd, foldl_keeps_ledger,
      State.modPort_keeps_ledger, State.eachPort_keeps_ledger, apply_ite State.ledger, ite_self,
      implies_true])

theorem State.assembleOnce_keeps_ledger (s : State) (st : Stn) (t : State) (h : State.assembleOnce s st = some t) :
    t.ledger = s.ledger := by
  unfold State.assembleOnce at h
  simp only [] at h
  (repeat' split at h) <;> first | (cases h; done) | (cases h; simp only [State.modStn_keeps_ledger, State.closeGath_keeps_ledger, keeps_ledger_upd, foldl_keeps_ledger,
      State.modPort_keeps_ledger, State.eachPort_keeps_ledger, apply_ite State.ledger, ite_self,
      implies_true])

theorem State.assemble_keeps_ledger (s : State) (st : Stn) (n : Nat) : (State.assemble s st n).ledger = s.ledger := by
  induction n generalizing s with
  | zero => rfl
  | succ n ih =>
    unfold State.assemble
    split
    · exact (ih _).trans (State.assembleOnce_keeps_ledger _ _ _ ‹_›)
    · rfl

theorem State.numberLabels_keeps_ledger (s : State) (st : Stn) : (State.numberLabels s st).ledger = s.ledger := by
  unfold State.numberLabels
  (repeat' split) <;> first
    | with_reducible rfl
    | (simp only [State.modStn_keeps_ledger, State.take_keeps_ledger, State.addJob_keeps_ledger, keeps_ledger_upd,
      foldl_keeps_ledger, State.modPort_keeps_ledger, State.eachPort_keeps_ledger,
      apply_ite State.ledger, ite_self, implies_true]; done)
    | (simp only [State.modStn_keeps_ledger, State.take_keeps_ledger, State.addJob_keeps_ledger, keeps_ledger_upd,
      foldl_keeps_ledger, State.modPort_keeps_ledger, State.eachPort_keeps_ledger,
      apply_ite State.ledger, ite_self, implies_true]
       (repeat' split) <;> first | with_reducible rfl | simp only [State.modStn_keeps_ledger, State.take_keeps_ledger, State.addJob_keeps_ledger, keeps_ledger_upd,
      foldl_keeps_ledger, State.modPort_keeps_ledger, State.eachPort_keeps_ledger,
      apply_ite State.ledger, ite_self, implies_true])

theorem State.assembleAll_keeps_ledger (s : State) (st : Stn) : (State.assembleAll s st).ledger = s.ledger := by
  unfold State.assembleAll
  (repeat' split) <;> simp only [State.assemble_keeps_ledger, State.numberLabels_keeps_ledger, keeps_ledger_upd, foldl_keeps_ledger,
      State.modPort_keeps_ledger, State.eachPort_keeps_ledger, apply_ite State.ledger, ite_self,
      implies_true]

theorem State.releaseHere_keeps_ledger (s : State) (st : Stn) : (State.releaseHere s st).ledger = s.ledger := by
  simp only [State.releaseHere, State.modStn_keeps_ledger, keeps_ledger_upd, foldl_keeps_ledger,
      State.modPort_keeps_ledger, State.eachPort_keeps_ledger, apply_ite State.ledger, ite_self,
      implies_true]

theorem State.giveBack_keeps_ledger (s : State) (st : Stn) (gone : List Gath) :
    (State.giveBack s st gone).ledger = s.ledger := by
  unfold State.giveBack
  (repeat' split) <;> first
    | with_reducible rfl
    | (simp only [State.modStn_keeps_ledger, State.dropJobs_keeps_ledger, keeps_ledger_upd, foldl_keeps_ledger,
      State.modPort_keeps_ledger, State.eachPort_keeps_ledger, apply_ite State.ledger, ite_self,
      implies_true]; done)
    | (simp only [State.modStn_keeps_ledger, State.dropJobs_keeps_ledger, keeps_ledger_upd, foldl_keeps_ledger,
      State.modPort_keeps_ledger, State.eachPort_keeps_ledger, apply_ite State.ledger, ite_self,
      implies_true]
       (repeat' split) <;> first | with_reducible rfl | simp only [State.modStn_keeps_ledger, State.dropJobs_keeps_ledger, keeps_ledger_upd, foldl_keeps_ledger,
      State.modPort_keeps_ledger, State.eachPort_keeps_ledger, apply_ite State.ledger, ite_self,
      implies_true])

theorem State.burnFrom_keeps_ledger (s : State) (st : Stn) (n : Nat) : (State.burnFrom s st n).ledger = s.ledger := by
  unfold State.burnFrom
  (repeat' split) <;> first
    | with_reducible rfl
    | (simp only [State.numberLabels_keeps_ledger, State.giveBack_keeps_ledger, keeps_ledger_upd, foldl_keeps_ledger,
      State.modPort_keeps_ledger, State.eachPort_keeps_ledger, apply_ite State.ledger, ite_self,
      implies_true]; done)
    | (simp only [State.numberLabels_keeps_ledger, State.giveBack_keeps_ledger, keeps_ledger_upd, foldl_keeps_ledger,
      State.modPort_keeps_ledger, State.eachPort_keeps_ledger, apply_ite State.ledger, ite_self,
      implies_true]
       (repeat' split) <;> first | with_reducible rfl | simp only [State.numberLabels_keeps_ledger, State.giveBack_keeps_ledger, keeps_ledger_upd, foldl_keeps_ledger,
      State.modPort_keeps_ledger, State.eachPort_keeps_ledger, apply_ite State.ledger, ite_self,
      implies_true])

theorem State.burnUnwritten_keeps_ledger (s : State) (st : Stn) : (State.burnUnwritten s st).ledger = s.ledger := by
  simp only [State.burnUnwritten, State.giveBack_keeps_ledger, keeps_ledger_upd, foldl_keeps_ledger,
      State.modPort_keeps_ledger, State.eachPort_keeps_ledger, apply_ite State.ledger, ite_self,
      implies_true]

theorem State.abandonRec_keeps_ledger (s : State) (st : Stn) (lon : Nat) (why : Abandon) :
    (State.abandonRec s st lon why).ledger = s.ledger := by
  unfold State.abandonRec
  (repeat' split) <;> first
    | with_reducible rfl
    | (simp only [State.modStn_keeps_ledger, State.dropJobs_keeps_ledger, State.assembleAll_keeps_ledger,
      State.burnFrom_keeps_ledger, keeps_ledger_upd, foldl_keeps_ledger, State.modPort_keeps_ledger,
      State.eachPort_keeps_ledger, apply_ite State.ledger, ite_self, implies_true]; done)
    | (simp only [State.modStn_keeps_ledger, State.dropJobs_keeps_ledger, State.assembleAll_keeps_ledger,
      State.burnFrom_keeps_ledger, keeps_ledger_upd, foldl_keeps_ledger, State.modPort_keeps_ledger,
      State.eachPort_keeps_ledger, apply_ite State.ledger, ite_self, implies_true]
       (repeat' split) <;> first | with_reducible rfl | simp only [State.modStn_keeps_ledger, State.dropJobs_keeps_ledger, State.assembleAll_keeps_ledger,
      State.burnFrom_keeps_ledger, keeps_ledger_upd, foldl_keeps_ledger, State.modPort_keeps_ledger,
      State.eachPort_keeps_ledger, apply_ite State.ledger, ite_self, implies_true])

theorem State.releaseAll_keeps_ledger (s : State) (st : Stn) : (State.releaseAll s st).ledger = s.ledger := by
  simp only [State.releaseAll, State.numberLabels_keeps_ledger, State.releaseHere_keeps_ledger,
      keeps_ledger_upd, foldl_keeps_ledger, State.modPort_keeps_ledger, State.eachPort_keeps_ledger,
      apply_ite State.ledger, ite_self, implies_true]

theorem State.compose_keeps_ledger (s : State) (st : Stn) (kind : GKind) (stream : List Byte) :
    (State.compose s st kind stream).ledger = s.ledger := by
  unfold State.compose
  (repeat' split) <;> first
    | with_reducible rfl
    | (simp only [State.modStn_keeps_ledger, State.numberLabels_keeps_ledger, keeps_ledger_upd, foldl_keeps_ledger,
      State.modPort_keeps_ledger, State.eachPort_keeps_ledger, apply_ite State.ledger, ite_self,
      implies_true]; done)
    | (simp only [State.modStn_keeps_ledger, State.numberLabels_keeps_ledger, keeps_ledger_upd, foldl_keeps_ledger,
      State.modPort_keeps_ledger, State.eachPort_keeps_ledger, apply_ite State.ledger, ite_self,
      implies_true]
       (repeat' split) <;> first | with_reducible rfl | simp only [State.modStn_keeps_ledger, State.numberLabels_keeps_ledger, keeps_ledger_upd, foldl_keeps_ledger,
      State.modPort_keeps_ledger, State.eachPort_keeps_ledger, apply_ite State.ledger, ite_self,
      implies_true])

theorem State.composeEndpaper_keeps_ledger (s : State) (st : Stn) : (State.composeEndpaper s st).ledger = s.ledger := by
  unfold State.composeEndpaper
  (repeat' split) <;> simp only [State.compose_keeps_ledger, keeps_ledger_upd, foldl_keeps_ledger, State.modPort_keeps_ledger,
      State.eachPort_keeps_ledger, apply_ite State.ledger, ite_self, implies_true]

theorem State.composeSpines_keeps_ledger (s : State) (st : Stn) : (State.composeSpines s st).ledger = s.ledger := by
  unfold State.composeSpines
  (repeat' split) <;> simp only [State.modStn_keeps_ledger, State.compose_keeps_ledger, keeps_ledger_upd, foldl_keeps_ledger,
      State.modPort_keeps_ledger, State.eachPort_keeps_ledger, apply_ite State.ledger, ite_self,
      implies_true]

theorem State.placeNext_keeps_ledger (s : State) (st : Stn) (ahead : Nat) :
    (State.placeNext s st ahead).ledger = s.ledger := by
  unfold State.placeNext
  (repeat' split) <;> first
    | with_reducible rfl
    | (simp only [State.modStn_keeps_ledger, keeps_ledger_upd, foldl_keeps_ledger, State.modPort_keeps_ledger,
      State.eachPort_keeps_ledger, apply_ite State.ledger, ite_self, implies_true]; done)
    | (simp only [State.modStn_keeps_ledger, keeps_ledger_upd, foldl_keeps_ledger, State.modPort_keeps_ledger,
      State.eachPort_keeps_ledger, apply_ite State.ledger, ite_self, implies_true]
       (repeat' split) <;> first | with_reducible rfl | simp only [State.modStn_keeps_ledger, keeps_ledger_upd, foldl_keeps_ledger, State.modPort_keeps_ledger,
      State.eachPort_keeps_ledger, apply_ite State.ledger, ite_self, implies_true])

theorem State.dropLost_keeps_ledger (s : State) (st : Stn) : (State.dropLost s st).ledger = s.ledger := by
  simp only [State.dropLost, State.dropJobs_keeps_ledger, keeps_ledger_upd, foldl_keeps_ledger,
      State.modPort_keeps_ledger, State.eachPort_keeps_ledger, apply_ite State.ledger, ite_self,
      implies_true]

theorem State.unplace_keeps_ledger (s : State) (st : Stn) (keep : Nat) (begun : Bool) :
    (State.unplace s st keep begun).ledger = s.ledger := by
  unfold State.unplace
  rfl

theorem State.voidWriting_keeps_ledger (s : State) (st : Stn) : (State.voidWriting s st).ledger = s.ledger := by
  unfold State.voidWriting
  rfl

theorem State.sendAdmin_keeps_ledger (s : State) (r : CmdRef) (ep : Bool) : (State.sendAdmin s r ep).ledger = s.ledger := by
  unfold State.sendAdmin
  (repeat' split) <;> simp only [State.finish_keeps_ledger, State.sendData_keeps_ledger, keeps_ledger_upd, foldl_keeps_ledger,
      State.modPort_keeps_ledger, State.eachPort_keeps_ledger, apply_ite State.ledger, ite_self,
      implies_true]

theorem State.startAdmin_keeps_ledger (r : CmdRef) (s : State) : (State.startAdmin r s).ledger = s.ledger := by
  unfold State.startAdmin
  (repeat' split) <;> simp only [State.modCmd_keeps_ledger, State.sendAdmin_keeps_ledger, keeps_ledger_upd, foldl_keeps_ledger,
      State.modPort_keeps_ledger, State.eachPort_keeps_ledger, apply_ite State.ledger, ite_self,
      implies_true]

theorem State.grantsGo_keeps_ledger (s : State) : (State.grantsGo s).ledger = s.ledger := by
  simp only [State.grantsGo, State.sendAdmin_keeps_ledger, keeps_ledger_upd, foldl_keeps_ledger,
      State.modPort_keeps_ledger, State.eachPort_keeps_ledger, apply_ite State.ledger, ite_self,
      implies_true]

theorem State.rampTo_keeps_ledger (s : State) (st : Stn) (why : RampFor) (mm : Nat) :
    (State.rampTo s st why mm).ledger = s.ledger := by
  unfold State.rampTo
  rfl

theorem State.runBack_keeps_ledger (s : State) (st : Stn) (b : RunBack) : (State.runBack s st b).ledger = s.ledger := by
  simp only [State.runBack, State.modStn_keeps_ledger, State.rampTo_keeps_ledger, keeps_ledger_upd,
      foldl_keeps_ledger, State.modPort_keeps_ledger, State.eachPort_keeps_ledger,
      apply_ite State.ledger, ite_self, implies_true]

theorem State.closeOpen_keeps_ledger (s : State) (st : Stn) : (State.closeOpen s st).ledger = s.ledger := by
  simp only [State.closeOpen, State.modStn_keeps_ledger, State.closeGath_keeps_ledger, keeps_ledger_upd,
      foldl_keeps_ledger, State.modPort_keeps_ledger, State.eachPort_keeps_ledger,
      apply_ite State.ledger, ite_self, implies_true]

theorem State.runOut_keeps_ledger (s : State) (st : Stn) : (State.runOut s st).ledger = s.ledger := by
  simp only [State.runOut, State.modStn_keeps_ledger, State.unplace_keeps_ledger, State.closeOpen_keeps_ledger,
      keeps_ledger_upd, foldl_keeps_ledger, State.modPort_keeps_ledger, State.eachPort_keeps_ledger,
      apply_ite State.ledger, ite_self, implies_true]

theorem State.controlledStop_keeps_ledger (s : State) (st : Stn) : (State.controlledStop s st).ledger = s.ledger := by
  simp only [State.controlledStop, State.modStn_keeps_ledger, State.rampTo_keeps_ledger,
      State.runOut_keeps_ledger, keeps_ledger_upd, foldl_keeps_ledger, State.modPort_keeps_ledger,
      State.eachPort_keeps_ledger, apply_ite State.ledger, ite_self, implies_true]

theorem State.hold__keeps_ledger (s : State) (st : Stn) : (State.hold_ s st).ledger = s.ledger := by
  simp only [State.hold_, State.modStn_keeps_ledger, State.hold_keeps_ledger, State.voidWriting_keeps_ledger,
      keeps_ledger_upd, foldl_keeps_ledger, State.modPort_keeps_ledger, State.eachPort_keeps_ledger,
      apply_ite State.ledger, ite_self, implies_true]

theorem State.closeLoops_keeps_ledger (s : State) (st : Stn) : (State.closeLoops s st).ledger = s.ledger := by
  unfold State.closeLoops
  rfl

theorem State.openLoops_keeps_ledger (s : State) (st : Stn) : (State.openLoops s st).ledger = s.ledger := by
  unfold State.openLoops
  rfl

theorem State.stopMigs_keeps_ledger (s : State) (st : Stn) : (State.stopMigs s st).ledger = s.ledger := by
  unfold State.stopMigs
  rfl

theorem State.dropWork_keeps_ledger (s : State) (st : Stn) : (State.dropWork s st).ledger = s.ledger := by
  unfold State.dropWork
  rfl

theorem State.failStation_keeps_ledger (s : State) (st : Stn) : (State.failStation s st).ledger = s.ledger := by
  simp only [State.failStation, State.finishAll_keeps_ledger, State.dropWork_keeps_ledger, keeps_ledger_upd,
      foldl_keeps_ledger, State.modPort_keeps_ledger, State.eachPort_keeps_ledger,
      apply_ite State.ledger, ite_self, implies_true]

theorem State.loseLink_keeps_ledger (s : State) (st : Stn) : (State.loseLink s st).ledger = s.ledger := by
  simp only [State.loseLink, State.modStn_keeps_ledger, State.hold__keeps_ledger,
      State.failStation_keeps_ledger, keeps_ledger_upd, foldl_keeps_ledger, State.modPort_keeps_ledger,
      State.eachPort_keeps_ledger, apply_ite State.ledger, ite_self, implies_true]

theorem State.faultStation_keeps_ledger (s : State) (st : Stn) (f : StnFault) :
    (State.faultStation s st f).ledger = s.ledger := by
  simp only [State.faultStation, State.modStn_keeps_ledger, State.hold__keeps_ledger,
      State.failStation_keeps_ledger, keeps_ledger_upd, foldl_keeps_ledger, State.modPort_keeps_ledger,
      State.eachPort_keeps_ledger, apply_ite State.ledger, ite_self, implies_true]

theorem State.faultDie_keeps_ledger (s : State) (d : DieId) : (State.faultDie s d).ledger = s.ledger := by
  simp only [State.faultDie, State.modDie_keeps_ledger, State.modStn_keeps_ledger, State.raise_keeps_ledger,
      State.finishAll_keeps_ledger, State.burnUnwritten_keeps_ledger, State.controlledStop_keeps_ledger,
      State.failStation_keeps_ledger, keeps_ledger_upd, foldl_keeps_ledger, State.modPort_keeps_ledger,
      State.eachPort_keeps_ledger, apply_ite State.ledger, ite_self, implies_true]

theorem State.startAt_keeps_ledger (s : State) (st : Stn) (i : Nat) : (State.startAt s st i).ledger = s.ledger := by
  simp only [State.startAt, State.modStn_keeps_ledger, State.draw_keeps_ledger, State.rampTo_keeps_ledger,
      State.runBack_keeps_ledger, keeps_ledger_upd, foldl_keeps_ledger, State.modPort_keeps_ledger,
      State.eachPort_keeps_ledger, apply_ite State.ledger, ite_self, implies_true]

theorem State.stepTo_keeps_ledger (s : State) (st : Stn) (i : Nat) : (State.stepTo s st i).ledger = s.ledger := by
  simp only [State.stepTo, State.modStn_keeps_ledger, State.rampTo_keeps_ledger, State.runOut_keeps_ledger,
      keeps_ledger_upd, foldl_keeps_ledger, State.modPort_keeps_ledger, State.eachPort_keeps_ledger,
      apply_ite State.ledger, ite_self, implies_true]

theorem State.capDown_keeps_ledger (s : State) (st : Stn) : (State.capDown s st).ledger = s.ledger := by
  simp only [State.capDown, State.modStn_keeps_ledger, State.rampTo_keeps_ledger, State.stepTo_keeps_ledger,
      keeps_ledger_upd, foldl_keeps_ledger, State.modPort_keeps_ledger, State.eachPort_keeps_ledger,
      apply_ite State.ledger, ite_self, implies_true]

theorem State.speedDecide_keeps_ledger (s : State) (st : Stn) : (State.speedDecide s st).ledger = s.ledger := by
  unfold State.speedDecide
  (repeat' split) <;> first
    | with_reducible rfl
    | (simp only [State.modStn_keeps_ledger, State.controlledStop_keeps_ledger, State.closeLoops_keeps_ledger,
      State.startAt_keeps_ledger, State.stepTo_keeps_ledger, keeps_ledger_upd, foldl_keeps_ledger,
      State.modPort_keeps_ledger, State.eachPort_keeps_ledger, apply_ite State.ledger, ite_self,
      implies_true]; done)
    | (simp only [State.modStn_keeps_ledger, State.controlledStop_keeps_ledger, State.closeLoops_keeps_ledger,
      State.startAt_keeps_ledger, State.stepTo_keeps_ledger, keeps_ledger_upd, foldl_keeps_ledger,
      State.modPort_keeps_ledger, State.eachPort_keeps_ledger, apply_ite State.ledger, ite_self,
      implies_true]
       (repeat' split) <;> first | with_reducible rfl | simp only [State.modStn_keeps_ledger, State.controlledStop_keeps_ledger, State.closeLoops_keeps_ledger,
      State.startAt_keeps_ledger, State.stepTo_keeps_ledger, keeps_ledger_upd, foldl_keeps_ledger,
      State.modPort_keeps_ledger, State.eachPort_keeps_ledger, apply_ite State.ledger, ite_self,
      implies_true])

theorem State.finishLosses_keeps_ledger (s : State) (r : CmdRef) (lost : List Nat) (result : Nat) :
    (State.finishLosses s r lost result).ledger = s.ledger := by
  unfold State.finishLosses
  (repeat' split) <;> simp only [State.logErr_keeps_ledger, State.finish_keeps_ledger, keeps_ledger_upd, foldl_keeps_ledger,
      State.modPort_keeps_ledger, State.eachPort_keeps_ledger, apply_ite State.ledger, ite_self,
      implies_true]

theorem State.finishSealed_keeps_ledger (s : State) (r : CmdRef) (lost : List Nat) (result : Nat) :
    (State.finishSealed s r lost result).ledger = s.ledger := by
  simp only [State.finishSealed, State.finish_keeps_ledger, State.finishLosses_keeps_ledger, keeps_ledger_upd,
      foldl_keeps_ledger, State.modPort_keeps_ledger, State.eachPort_keeps_ledger,
      apply_ite State.ledger, ite_self, implies_true]

theorem State.freePool_keeps_ledger (s : State) (st : Stn) (p : Fin 5) : (State.freePool s st p).ledger = s.ledger := by
  simp only [State.freePool, State.returnBuf_keeps_ledger, keeps_ledger_upd, foldl_keeps_ledger,
      State.modPort_keeps_ledger, State.eachPort_keeps_ledger, apply_ite State.ledger, ite_self,
      implies_true]

theorem State.freeSpent_keeps_ledger (s : State) (st : Stn) : (State.freeSpent s st).ledger = s.ledger := by
  simp only [State.freeSpent, State.grantsGo_keeps_ledger, State.freePool_keeps_ledger, keeps_ledger_upd,
      foldl_keeps_ledger, State.modPort_keeps_ledger, State.eachPort_keeps_ledger,
      apply_ite State.ledger, ite_self, implies_true]

theorem State.dismount_keeps_ledger (s : State) (st : Stn) : (State.dismount s st).ledger = s.ledger := by
  simp only [State.dismount, State.modStn_keeps_ledger, State.freeSpent_keeps_ledger, keeps_ledger_upd,
      foldl_keeps_ledger, State.modPort_keeps_ledger, State.eachPort_keeps_ledger,
      apply_ite State.ledger, ite_self, implies_true]

theorem State.openStation_keeps_ledger (s : State) (st : Stn) : (State.openStation s st).ledger = s.ledger := by
  unfold State.openStation
  (repeat' split) <;> first
    | with_reducible rfl
    | (simp only [State.modStn_keeps_ledger, State.finish_keeps_ledger, State.hold_keeps_ledger,
      State.controlledStop_keeps_ledger, State.openLoops_keeps_ledger, State.dismount_keeps_ledger,
      keeps_ledger_upd, foldl_keeps_ledger, State.modPort_keeps_ledger, State.eachPort_keeps_ledger,
      apply_ite State.ledger, ite_self, implies_true]; done)
    | (simp only [State.modStn_keeps_ledger, State.finish_keeps_ledger, State.hold_keeps_ledger,
      State.controlledStop_keeps_ledger, State.openLoops_keeps_ledger, State.dismount_keeps_ledger,
      keeps_ledger_upd, foldl_keeps_ledger, State.modPort_keeps_ledger, State.eachPort_keeps_ledger,
      apply_ite State.ledger, ite_self, implies_true]
       (repeat' split) <;> first | with_reducible rfl | simp only [State.modStn_keeps_ledger, State.finish_keeps_ledger, State.hold_keeps_ledger,
      State.controlledStop_keeps_ledger, State.openLoops_keeps_ledger, State.dismount_keeps_ledger,
      keeps_ledger_upd, foldl_keeps_ledger, State.modPort_keeps_ledger, State.eachPort_keeps_ledger,
      apply_ite State.ledger, ite_self, implies_true])

theorem State.endMig_keeps_ledger (s : State) (j : MigJob) (nrec : Nat) : (State.endMig s j nrec).ledger = s.ledger := by
  unfold State.endMig
  (repeat' split) <;> simp only [State.finishWith_keeps_ledger, keeps_ledger_upd, foldl_keeps_ledger, State.modPort_keeps_ledger,
      State.eachPort_keeps_ledger, apply_ite State.ledger, ite_self, implies_true]

theorem State.wantTape_keeps_ledger (s : State) (st : Stn) : (State.wantTape s st).ledger = s.ledger := by
  simp only [State.wantTape, State.modStn_keeps_ledger, State.closeLoops_keeps_ledger, keeps_ledger_upd,
      foldl_keeps_ledger, State.modPort_keeps_ledger, State.eachPort_keeps_ledger,
      apply_ite State.ledger, ite_self, implies_true]

theorem State.verifyOver_keeps_ledger (s : State) (r : CmdRef) : (State.verifyOver s r).ledger = s.ledger := by
  unfold State.verifyOver
  (repeat' split) <;> simp only [State.finishWith_keeps_ledger, keeps_ledger_upd, foldl_keeps_ledger, State.modPort_keeps_ledger,
      State.eachPort_keeps_ledger, apply_ite State.ledger, ite_self, implies_true]

theorem State.verifyRec_keeps_ledger (s : State) (r : CmdRef) (lon : Nat) (f : Ending) (hash : List Byte) :
    (State.verifyRec s r lon f hash).ledger = s.ledger := by
  unfold State.verifyRec
  (repeat' split) <;> simp only [State.modCmd_keeps_ledger, State.logErr_keeps_ledger, State.sendData_keeps_ledger,
      State.take_keeps_ledger, State.verifyOver_keeps_ledger, keeps_ledger_upd, foldl_keeps_ledger,
      State.modPort_keeps_ledger, State.eachPort_keeps_ledger, apply_ite State.ledger, ite_self,
      implies_true]

theorem State.verifyNext_keeps_ledger (s : State) (r : CmdRef) (n : Nat) : (State.verifyNext s r n).ledger = s.ledger := by
  induction n generalizing s with
  | zero => rfl
  | succ n ih =>
    unfold State.verifyNext
    simp only []
    (repeat' split) <;> first | rfl | (rw [ih, State.verifyRec_keeps_ledger])

theorem State.goReader_keeps_ledger (s : State) (r : CmdRef) : (State.goReader s r).ledger = s.ledger := by
  unfold State.goReader
  (repeat' split) <;> first
    | with_reducible rfl
    | (simp only [State.modCmd_keeps_ledger, State.finish_keeps_ledger, State.wantTape_keeps_ledger,
      State.verifyNext_keeps_ledger, keeps_ledger_upd, foldl_keeps_ledger, State.modPort_keeps_ledger,
      State.eachPort_keeps_ledger, apply_ite State.ledger, ite_self, implies_true]; done)
    | (simp only [State.modCmd_keeps_ledger, State.finish_keeps_ledger, State.wantTape_keeps_ledger,
      State.verifyNext_keeps_ledger, keeps_ledger_upd, foldl_keeps_ledger, State.modPort_keeps_ledger,
      State.eachPort_keeps_ledger, apply_ite State.ledger, ite_self, implies_true]
       (repeat' split) <;> first | with_reducible rfl | simp only [State.modCmd_keeps_ledger, State.finish_keeps_ledger, State.wantTape_keeps_ledger,
      State.verifyNext_keeps_ledger, keeps_ledger_upd, foldl_keeps_ledger, State.modPort_keeps_ledger,
      State.eachPort_keeps_ledger, apply_ite State.ledger, ite_self, implies_true])

theorem State.readerGo_keeps_ledger (s : State) (r : CmdRef) (lost : List Nat) :
    (State.readerGo s r lost).ledger = s.ledger := by
  unfold State.readerGo
  (repeat' split) <;> simp only [State.finish_keeps_ledger, State.goReader_keeps_ledger, keeps_ledger_upd, foldl_keeps_ledger,
      State.modPort_keeps_ledger, State.eachPort_keeps_ledger, apply_ite State.ledger, ite_self,
      implies_true]

theorem State.flushDone_keeps_ledger (s : State) (st : Stn) (j : FlushJob) : (State.flushDone s st j).ledger = s.ledger := by
  unfold State.flushDone
  (repeat' split) <;> simp only [State.modStn_keeps_ledger, State.modCmd_keeps_ledger, State.finishLosses_keeps_ledger,
      State.openStation_keeps_ledger, State.endMig_keeps_ledger, State.readerGo_keeps_ledger,
      keeps_ledger_upd, foldl_keeps_ledger, State.modPort_keeps_ledger, State.eachPort_keeps_ledger,
      apply_ite State.ledger, ite_self, implies_true]

theorem State.flushesDone_keeps_ledger (s : State) (st : Stn) (n : Nat) : (State.flushesDone s st n).ledger = s.ledger := by
  induction n generalizing s with
  | zero => rfl
  | succ n ih =>
    unfold State.flushesDone
    simp only []
    (repeat' split) <;> first | rfl | (rw [ih, State.flushDone_keeps_ledger]; rfl)

theorem State.flushSealed_keeps_ledger (s : State) (st : Stn) (lost : List Nat) (j : FlushJob) :
    (State.flushSealed s st lost j).ledger = s.ledger := by
  unfold State.flushSealed
  (repeat' split) <;> simp only [State.modCmd_keeps_ledger, State.finishSealed_keeps_ledger, State.openStation_keeps_ledger,
      State.readerGo_keeps_ledger, keeps_ledger_upd, foldl_keeps_ledger, State.modPort_keeps_ledger,
      State.eachPort_keeps_ledger, apply_ite State.ledger, ite_self, implies_true]

theorem State.closed_keeps_ledger (s : State) (st : Stn) (v : VolCtx) : (State.closed s st v).ledger = s.ledger := by
  unfold State.closed
  (repeat' split) <;> simp only [State.modStn_keeps_ledger, State.finish_keeps_ledger, State.controlledStop_keeps_ledger,
      State.finishSealed_keeps_ledger, State.endMig_keeps_ledger, State.flushSealed_keeps_ledger,
      keeps_ledger_upd, foldl_keeps_ledger, State.modPort_keeps_ledger, State.eachPort_keeps_ledger,
      apply_ite State.ledger, ite_self, implies_true]

theorem State.closureFailed_keeps_ledger (s : State) (st : Stn) : (State.closureFailed s st).ledger = s.ledger := by
  simp only [State.closureFailed, State.modStn_keeps_ledger, State.raise_keeps_ledger,
      State.controlledStop_keeps_ledger, State.failStation_keeps_ledger, keeps_ledger_upd,
      foldl_keeps_ledger, State.modPort_keeps_ledger, State.eachPort_keeps_ledger,
      apply_ite State.ledger, ite_self, implies_true]

theorem State.unsigned_keeps_ledger (s : State) (st : Stn) (v : VolCtx) : (State.unsigned s st v).ledger = s.ledger := by
  unfold State.unsigned
  (repeat' split) <;> simp only [State.modStn_keeps_ledger, State.finish_keeps_ledger, State.endMig_keeps_ledger,
      State.closureFailed_keeps_ledger, keeps_ledger_upd, foldl_keeps_ledger, State.modPort_keeps_ledger,
      State.eachPort_keeps_ledger, apply_ite State.ledger, ite_self, implies_true]

theorem State.closeOnce_keeps_ledger (s : State) (st : Stn) (t : State) (h : State.closeOnce s st = some t) :
    t.ledger = s.ledger := by
  unfold State.closeOnce at h
  simp only [] at h
  (repeat' split at h) <;> first | (cases h; done) | (cases h; simp only [State.modStn_keeps_ledger, State.drawBytes_keeps_ledger, State.compose_keeps_ledger,
      State.composeEndpaper_keeps_ledger, State.composeSpines_keeps_ledger, State.closed_keeps_ledger,
      State.unsigned_keeps_ledger, keeps_ledger_upd, foldl_keeps_ledger, State.modPort_keeps_ledger,
      State.eachPort_keeps_ledger, apply_ite State.ledger, ite_self, implies_true])

theorem State.closeAll_keeps_ledger (s : State) (st : Stn) (n : Nat) : (State.closeAll s st n).ledger = s.ledger := by
  induction n generalizing s with
  | zero => rfl
  | succ n ih =>
    unfold State.closeAll
    split
    · exact (ih _).trans (State.closeOnce_keeps_ledger _ _ _ ‹_›)
    · rfl

theorem State.settle_keeps_ledger (s : State) (st : Stn) : (State.settle s st).ledger = s.ledger := by
  simp only [State.settle, State.assembleAll_keeps_ledger, State.freeSpent_keeps_ledger,
      State.flushesDone_keeps_ledger, State.closeAll_keeps_ledger, keeps_ledger_upd, foldl_keeps_ledger,
      State.modPort_keeps_ledger, State.eachPort_keeps_ledger, apply_ite State.ledger, ite_self,
      implies_true]

theorem State.writeFault_keeps_ledger (s : State) (st : Stn) : (State.writeFault s st).ledger = s.ledger := by
  unfold State.writeFault
  (repeat' split) <;> simp only [State.modStn_keeps_ledger, State.raise_keeps_ledger, State.finish_keeps_ledger,
      State.dropJobs_keeps_ledger, State.burnFrom_keeps_ledger, State.dropLost_keeps_ledger,
      State.closed_keeps_ledger, State.closureFailed_keeps_ledger, State.settle_keeps_ledger,
      keeps_ledger_upd, foldl_keeps_ledger, State.modPort_keeps_ledger, State.eachPort_keeps_ledger,
      apply_ite State.ledger, ite_self, implies_true]

theorem State.trackDied_keeps_ledger (s : State) (st : Stn) (t : Track) : (State.trackDied s st t).ledger = s.ledger := by
  unfold State.trackDied
  (repeat' split) <;> first
    | with_reducible rfl
    | (simp only [State.raise_keeps_ledger, State.closureFailed_keeps_ledger, State.writeFault_keeps_ledger,
      keeps_ledger_upd, foldl_keeps_ledger, State.modPort_keeps_ledger, State.eachPort_keeps_ledger,
      apply_ite State.ledger, ite_self, implies_true]; done)
    | (simp only [State.raise_keeps_ledger, State.closureFailed_keeps_ledger, State.writeFault_keeps_ledger,
      keeps_ledger_upd, foldl_keeps_ledger, State.modPort_keeps_ledger, State.eachPort_keeps_ledger,
      apply_ite State.ledger, ite_self, implies_true]
       (repeat' split) <;> first | with_reducible rfl | simp only [State.raise_keeps_ledger, State.closureFailed_keeps_ledger, State.writeFault_keeps_ledger,
      keeps_ledger_upd, foldl_keeps_ledger, State.modPort_keeps_ledger, State.eachPort_keeps_ledger,
      apply_ite State.ledger, ite_self, implies_true])

theorem State.grade_keeps_ledger (s : State) (st : Stn) (seq : Nat) (track : Track) (g : Grade) :
    (State.grade s st seq track g).ledger = s.ledger := by
  unfold State.grade
  (repeat' split) <;> simp only [State.modStn_keeps_ledger, State.trackDied_keeps_ledger, keeps_ledger_upd, foldl_keeps_ledger,
      State.modPort_keeps_ledger, State.eachPort_keeps_ledger, apply_ite State.ledger, ite_self,
      implies_true]

theorem State.regrade_keeps_ledger (s : State) (x : Regrade) : (State.regrade s x).ledger = s.ledger := by
  unfold State.regrade
  (repeat' split) <;> first
    | with_reducible rfl
    | (simp only [State.modStn_keeps_ledger, State.grade_keeps_ledger, keeps_ledger_upd, foldl_keeps_ledger,
      State.modPort_keeps_ledger, State.eachPort_keeps_ledger, apply_ite State.ledger, ite_self,
      implies_true]; done)
    | (simp only [State.modStn_keeps_ledger, State.grade_keeps_ledger, keeps_ledger_upd, foldl_keeps_ledger,
      State.modPort_keeps_ledger, State.eachPort_keeps_ledger, apply_ite State.ledger, ite_self,
      implies_true]
       (repeat' split) <;> first | with_reducible rfl | simp only [State.modStn_keeps_ledger, State.grade_keeps_ledger, keeps_ledger_upd, foldl_keeps_ledger,
      State.modPort_keeps_ledger, State.eachPort_keeps_ledger, apply_ite State.ledger, ite_self,
      implies_true])

theorem State.madeVolume_keeps_ledger (s : State) (st : Stn) (c : CmdRef) (volid : List Byte) :
    (State.madeVolume s st c volid).ledger = s.ledger := by
  unfold State.madeVolume
  (repeat' split) <;> simp only [State.modStn_keeps_ledger, State.finishWith_keeps_ledger, State.wantTape_keeps_ledger,
      keeps_ledger_upd, foldl_keeps_ledger, State.modPort_keeps_ledger, State.eachPort_keeps_ledger,
      apply_ite State.ledger, ite_self, implies_true]

theorem State.acceptGath_keeps_ledger (s : State) (st : Stn) (g : Gath) : (State.acceptGath s st g).ledger = s.ledger := by
  unfold State.acceptGath
  (repeat' split) <;> first
    | with_reducible rfl
    | (simp only [State.modStn_keeps_ledger, State.settle_keeps_ledger, State.madeVolume_keeps_ledger,
      keeps_ledger_upd, foldl_keeps_ledger, State.modPort_keeps_ledger, State.eachPort_keeps_ledger,
      apply_ite State.ledger, ite_self, implies_true]; done)
    | (simp only [State.modStn_keeps_ledger, State.settle_keeps_ledger, State.madeVolume_keeps_ledger,
      keeps_ledger_upd, foldl_keeps_ledger, State.modPort_keeps_ledger, State.eachPort_keeps_ledger,
      apply_ite State.ledger, ite_self, implies_true]
       (repeat' split) <;> first | with_reducible rfl | simp only [State.modStn_keeps_ledger, State.settle_keeps_ledger, State.madeVolume_keeps_ledger,
      keeps_ledger_upd, foldl_keeps_ledger, State.modPort_keeps_ledger, State.eachPort_keeps_ledger,
      apply_ite State.ledger, ite_self, implies_true])

theorem State.rejectGath_keeps_ledger (s : State) (st : Stn) (g : Gath) : (State.rejectGath s st g).ledger = s.ledger := by
  unfold State.rejectGath
  (repeat' split) <;> simp only [State.modStn_keeps_ledger, State.closureFailed_keeps_ledger, State.settle_keeps_ledger,
      State.writeFault_keeps_ledger, keeps_ledger_upd, foldl_keeps_ledger, State.modPort_keeps_ledger,
      State.eachPort_keeps_ledger, apply_ite State.ledger, ite_self, implies_true]

theorem State.acceptance_keeps_ledger (s : State) (st : Stn) (gnum : Nat) :
    (State.acceptance s st gnum).ledger = s.ledger := by
  unfold State.acceptance
  (repeat' split) <;> first
    | with_reducible rfl
    | (simp only [State.acceptGath_keeps_ledger, State.rejectGath_keeps_ledger, keeps_ledger_upd, foldl_keeps_ledger,
      State.modPort_keeps_ledger, State.eachPort_keeps_ledger, apply_ite State.ledger, ite_self,
      implies_true]; done)
    | (simp only [State.acceptGath_keeps_ledger, State.rejectGath_keeps_ledger, keeps_ledger_upd, foldl_keeps_ledger,
      State.modPort_keeps_ledger, State.eachPort_keeps_ledger, apply_ite State.ledger, ite_self,
      implies_true]
       (repeat' split) <;> first | with_reducible rfl | simp only [State.acceptGath_keeps_ledger, State.rejectGath_keeps_ledger, keeps_ledger_upd, foldl_keeps_ledger,
      State.modPort_keeps_ledger, State.eachPort_keeps_ledger, apply_ite State.ledger, ite_self,
      implies_true])

theorem State.count_keeps_ledger (s : State) (st : Stn) (track : Nat) (kinds : List Nat) :
    (State.count s st track kinds).ledger = s.ledger := by
  unfold State.count
  rfl

theorem State.readOver_keeps_ledger (s : State) (st : Stn) (ord num : Nat) :
    (State.readOver s st ord num).ledger = s.ledger := by
  simp only [State.readOver, State.modStn_keeps_ledger, State.controlledStop_keeps_ledger, keeps_ledger_upd,
      foldl_keeps_ledger, State.modPort_keeps_ledger, State.eachPort_keeps_ledger,
      apply_ite State.ledger, ite_self, implies_true]

theorem State.tailRead_keeps_ledger (s : State) (st : Stn) (p : RxPos) (low i : Nat) :
    (State.tailRead s st p low i).ledger = s.ledger := by
  simp only [State.tailRead, State.modStn_keeps_ledger, keeps_ledger_upd, foldl_keeps_ledger,
      State.modPort_keeps_ledger, State.eachPort_keeps_ledger, apply_ite State.ledger, ite_self,
      implies_true]

theorem State.gathRow_keeps_ledger (s : State) (st : Stn) (p : RxPos) (gnum : Nat) (kind : GKind) (i : Nat) (t : Track) (syms : List Nat) (r : RRow) :
    (State.gathRow s st p gnum kind i t syms r).ledger = s.ledger := by
  simp only [State.gathRow, State.modStn_keeps_ledger, State.readOver_keeps_ledger, keeps_ledger_upd,
      foldl_keeps_ledger, State.modPort_keeps_ledger, State.eachPort_keeps_ledger,
      apply_ite State.ledger, ite_self, implies_true]

theorem State.recallRow_keeps_ledger (s : State) (st : Stn) (p : RxPos) (t : Track) (syms : List Nat) (load : Nat) (id : Option RowId) :
    (State.recallRow s st p t syms load id).ledger = s.ledger := by
  unfold State.recallRow
  (repeat' split) <;> simp only [State.modStn_keeps_ledger, State.raise_keeps_ledger, State.tailRead_keeps_ledger,
      State.gathRow_keeps_ledger, keeps_ledger_upd, foldl_keeps_ledger, State.modPort_keeps_ledger,
      State.eachPort_keeps_ledger, apply_ite State.ledger, ite_self, implies_true]

theorem State.tailOver_keeps_ledger (s : State) (st : Stn) : (State.tailOver s st).ledger = s.ledger := by
  simp only [State.tailOver, State.modStn_keeps_ledger, State.controlledStop_keeps_ledger, keeps_ledger_upd,
      foldl_keeps_ledger, State.modPort_keeps_ledger, State.eachPort_keeps_ledger,
      apply_ite State.ledger, ite_self, implies_true]

theorem State.rowDone_keeps_ledger (s : State) (st : Stn) (pos : Nat) (t : Track) (o : RowOut) (rung : Nat) :
    (State.rowDone s st pos t o rung).ledger = s.ledger := by
  unfold State.rowDone
  (repeat' split) <;> first
    | with_reducible rfl
    | (simp only [State.modStn_keeps_ledger, State.trace_keeps_ledger, State.grade_keeps_ledger,
      State.count_keeps_ledger, State.recallRow_keeps_ledger, State.tailOver_keeps_ledger,
      keeps_ledger_upd, foldl_keeps_ledger, State.modPort_keeps_ledger, State.eachPort_keeps_ledger,
      apply_ite State.ledger, ite_self, implies_true]; done)
    | (simp only [State.modStn_keeps_ledger, State.trace_keeps_ledger, State.grade_keeps_ledger,
      State.count_keeps_ledger, State.recallRow_keeps_ledger, State.tailOver_keeps_ledger,
      keeps_ledger_upd, foldl_keeps_ledger, State.modPort_keeps_ledger, State.eachPort_keeps_ledger,
      apply_ite State.ledger, ite_self, implies_true]
       (repeat' split) <;> first | with_reducible rfl | simp only [State.modStn_keeps_ledger, State.trace_keeps_ledger, State.grade_keeps_ledger,
      State.count_keeps_ledger, State.recallRow_keeps_ledger, State.tailOver_keeps_ledger,
      keeps_ledger_upd, foldl_keeps_ledger, State.modPort_keeps_ledger, State.eachPort_keeps_ledger,
      apply_ite State.ledger, ite_self, implies_true])

theorem State.rowMissing_keeps_ledger (s : State) (st : Stn) (pos : Nat) (t : Track) (grid : Bool) :
    (State.rowMissing s st pos t grid).ledger = s.ledger := by
  unfold State.rowMissing
  (repeat' split) <;> first
    | with_reducible rfl
    | (simp only [State.modStn_keeps_ledger, State.trace_keeps_ledger, State.grade_keeps_ledger,
      State.count_keeps_ledger, State.tailOver_keeps_ledger, keeps_ledger_upd, foldl_keeps_ledger,
      State.modPort_keeps_ledger, State.eachPort_keeps_ledger, apply_ite State.ledger, ite_self,
      implies_true]; done)
    | (simp only [State.modStn_keeps_ledger, State.trace_keeps_ledger, State.grade_keeps_ledger,
      State.count_keeps_ledger, State.tailOver_keeps_ledger, keeps_ledger_upd, foldl_keeps_ledger,
      State.modPort_keeps_ledger, State.eachPort_keeps_ledger, apply_ite State.ledger, ite_self,
      implies_true]
       (repeat' split) <;> first | with_reducible rfl | simp only [State.modStn_keeps_ledger, State.trace_keeps_ledger, State.grade_keeps_ledger,
      State.count_keeps_ledger, State.tailOver_keeps_ledger, keeps_ledger_upd, foldl_keeps_ledger,
      State.modPort_keeps_ledger, State.eachPort_keeps_ledger, apply_ite State.ledger, ite_self,
      implies_true])

theorem State.calibrate_keeps_ledger (s : State) (st : Stn) (r : Option CalRow) :
    (State.calibrate s st r).ledger = s.ledger := by
  unfold State.calibrate
  rfl

theorem State.skewRun_keeps_ledger (s : State) (st : Stn) (t : Track) (d : Int) :
    (State.skewRun s st t d).ledger = s.ledger := by
  simp only [State.skewRun, State.modStn_keeps_ledger, State.raise_keeps_ledger, keeps_ledger_upd,
      foldl_keeps_ledger, State.modPort_keeps_ledger, State.eachPort_keeps_ledger,
      apply_ite State.ledger, ite_self, implies_true]

theorem State.skewBreak_keeps_ledger (s : State) (st : Stn) (t : Track) : (State.skewBreak s st t).ledger = s.ledger := by
  simp only [State.skewBreak, State.modStn_keeps_ledger, keeps_ledger_upd, foldl_keeps_ledger,
      State.modPort_keeps_ledger, State.eachPort_keeps_ledger, apply_ite State.ledger, ite_self,
      implies_true]

theorem State.rowRead_keeps_ledger (s : State) (st : Stn) (p : RxPos) (t : Track) :
    (State.rowRead s st p t).ledger = s.ledger := by
  unfold State.rowRead
  (repeat' split) <;> first
    | with_reducible rfl
    | (simp only [State.modStn_keeps_ledger, State.take_keeps_ledger, State.count_keeps_ledger,
      State.rowDone_keeps_ledger, State.calibrate_keeps_ledger, State.skewRun_keeps_ledger,
      State.skewBreak_keeps_ledger, keeps_ledger_upd, foldl_keeps_ledger, State.modPort_keeps_ledger,
      State.eachPort_keeps_ledger, apply_ite State.ledger, ite_self, implies_true]; done)
    | (simp only [State.modStn_keeps_ledger, State.take_keeps_ledger, State.count_keeps_ledger,
      State.rowDone_keeps_ledger, State.calibrate_keeps_ledger, State.skewRun_keeps_ledger,
      State.skewBreak_keeps_ledger, keeps_ledger_upd, foldl_keeps_ledger, State.modPort_keeps_ledger,
      State.eachPort_keeps_ledger, apply_ite State.ledger, ite_self, implies_true]
       (repeat' split) <;> first | with_reducible rfl | simp only [State.modStn_keeps_ledger, State.take_keeps_ledger, State.count_keeps_ledger,
      State.rowDone_keeps_ledger, State.calibrate_keeps_ledger, State.skewRun_keeps_ledger,
      State.skewBreak_keeps_ledger, keeps_ledger_upd, foldl_keeps_ledger, State.modPort_keeps_ledger,
      State.eachPort_keeps_ledger, apply_ite State.ledger, ite_self, implies_true])

theorem State.rowDecode_keeps_ledger (s : State) (st : Stn) (pos : Nat) (t : Track) :
    (State.rowDecode s st pos t).ledger = s.ledger := by
  unfold State.rowDecode
  (repeat' split) <;> first
    | with_reducible rfl
    | (simp only [State.rowMissing_keeps_ledger, State.calibrate_keeps_ledger, State.rowRead_keeps_ledger,
      keeps_ledger_upd, foldl_keeps_ledger, State.modPort_keeps_ledger, State.eachPort_keeps_ledger,
      apply_ite State.ledger, ite_self, implies_true]; done)
    | (simp only [State.rowMissing_keeps_ledger, State.calibrate_keeps_ledger, State.rowRead_keeps_ledger,
      keeps_ledger_upd, foldl_keeps_ledger, State.modPort_keeps_ledger, State.eachPort_keeps_ledger,
      apply_ite State.ledger, ite_self, implies_true]
       (repeat' split) <;> first | with_reducible rfl | simp only [State.rowMissing_keeps_ledger, State.calibrate_keeps_ledger, State.rowRead_keeps_ledger,
      keeps_ledger_upd, foldl_keeps_ledger, State.modPort_keeps_ledger, State.eachPort_keeps_ledger,
      apply_ite State.ledger, ite_self, implies_true])

theorem State.retryAttempt_keeps_ledger (s : State) (st : Stn) : (State.retryAttempt s st).ledger = s.ledger := by
  unfold State.retryAttempt
  (repeat' split) <;> first
    | with_reducible rfl
    | (simp only [State.modStn_keeps_ledger, State.finish_keeps_ledger, State.count_keeps_ledger,
      State.rowDone_keeps_ledger, keeps_ledger_upd, foldl_keeps_ledger, State.modPort_keeps_ledger,
      State.eachPort_keeps_ledger, apply_ite State.ledger, ite_self, implies_true]; done)
    | (simp only [State.modStn_keeps_ledger, State.finish_keeps_ledger, State.count_keeps_ledger,
      State.rowDone_keeps_ledger, keeps_ledger_upd, foldl_keeps_ledger, State.modPort_keeps_ledger,
      State.eachPort_keeps_ledger, apply_ite State.ledger, ite_self, implies_true]
       (repeat' split) <;> first | with_reducible rfl | simp only [State.modStn_keeps_ledger, State.finish_keeps_ledger, State.count_keeps_ledger,
      State.rowDone_keeps_ledger, keeps_ledger_upd, foldl_keeps_ledger, State.modPort_keeps_ledger,
      State.eachPort_keeps_ledger, apply_ite State.ledger, ite_self, implies_true])

theorem State.mountGo_keeps_ledger (s : State) (st : Stn) : (State.mountGo s st).ledger = s.ledger := by
  unfold State.mountGo
  (repeat' split) <;> first
    | with_reducible rfl
    | (simp only [State.modStn_keeps_ledger, State.modCmd_keeps_ledger, State.finish_keeps_ledger,
      State.closeLoops_keeps_ledger, State.dismount_keeps_ledger, keeps_ledger_upd, foldl_keeps_ledger,
      State.modPort_keeps_ledger, State.eachPort_keeps_ledger, apply_ite State.ledger, ite_self,
      implies_true]; done)
    | (simp only [State.modStn_keeps_ledger, State.modCmd_keeps_ledger, State.finish_keeps_ledger,
      State.closeLoops_keeps_ledger, State.dismount_keeps_ledger, keeps_ledger_upd, foldl_keeps_ledger,
      State.modPort_keeps_ledger, State.eachPort_keeps_ledger, apply_ite State.ledger, ite_self,
      implies_true]
       (repeat' split) <;> first | with_reducible rfl | simp only [State.modStn_keeps_ledger, State.modCmd_keeps_ledger, State.finish_keeps_ledger,
      State.closeLoops_keeps_ledger, State.dismount_keeps_ledger, keeps_ledger_upd, foldl_keeps_ledger,
      State.modPort_keeps_ledger, State.eachPort_keeps_ledger, apply_ite State.ledger, ite_self,
      implies_true])

theorem State.mountWaits_keeps_ledger (s : State) (st : Stn) : (State.mountWaits s st).ledger = s.ledger := by
  unfold State.mountWaits
  (repeat' split) <;> simp only [State.modCmd_keeps_ledger, keeps_ledger_upd, foldl_keeps_ledger, State.modPort_keeps_ledger,
      State.eachPort_keeps_ledger, apply_ite State.ledger, ite_self, implies_true]

theorem State.holdExit_keeps_ledger (s : State) (st : Stn) : (State.holdExit s st).ledger = s.ledger := by
  unfold State.holdExit
  (repeat' split) <;> first
    | with_reducible rfl
    | (simp only [State.modStn_keeps_ledger, State.hold_keeps_ledger, State.openStation_keeps_ledger,
      State.mountGo_keeps_ledger, State.mountWaits_keeps_ledger, keeps_ledger_upd, foldl_keeps_ledger,
      State.modPort_keeps_ledger, State.eachPort_keeps_ledger, apply_ite State.ledger, ite_self,
      implies_true]; done)
    | (simp only [State.modStn_keeps_ledger, State.hold_keeps_ledger, State.openStation_keeps_ledger,
      State.mountGo_keeps_ledger, State.mountWaits_keeps_ledger, keeps_ledger_upd, foldl_keeps_ledger,
      State.modPort_keeps_ledger, State.eachPort_keeps_ledger, apply_ite State.ledger, ite_self,
      implies_true]
       (repeat' split) <;> first | with_reducible rfl | simp only [State.modStn_keeps_ledger, State.hold_keeps_ledger, State.openStation_keeps_ledger,
      State.mountGo_keeps_ledger, State.mountWaits_keeps_ledger, keeps_ledger_upd, foldl_keeps_ledger,
      State.modPort_keeps_ledger, State.eachPort_keeps_ledger, apply_ite State.ledger, ite_self,
      implies_true])

theorem State.answer_keeps_ledger (s : State) (st : Stn) (r : CtrlReq) (err : Bool) (data : BitVec 32) :
    (State.answer s st r err data).ledger = s.ledger := by
  simp only [State.answer, State.modStn_keeps_ledger, State.raise_keeps_ledger, State.hold_keeps_ledger,
      State.faultStation_keeps_ledger, State.holdExit_keeps_ledger, keeps_ledger_upd, foldl_keeps_ledger,
      State.modPort_keeps_ledger, State.eachPort_keeps_ledger, apply_ite State.ledger, ite_self,
      implies_true]

theorem State.rxStat_keeps_ledger (s : State) (st : Stn) (lane : Lane) (x : BitVec 5140) :
    (State.rxStat s st lane x).ledger = s.ledger := by
  simp only [State.rxStat, State.modStn_keeps_ledger, keeps_ledger_upd, foldl_keeps_ledger,
      State.modPort_keeps_ledger, State.eachPort_keeps_ledger, apply_ite State.ledger, ite_self,
      implies_true]

theorem State.rxFrame_keeps_ledger (s : State) (st : Stn) (lane : Lane) (line : RxFrame) :
    (State.rxFrame s st lane line).ledger = s.ledger := by
  simp only [State.rxFrame, State.modStn_keeps_ledger, State.take_keeps_ledger, State.rxStat_keeps_ledger,
      keeps_ledger_upd, foldl_keeps_ledger, State.modPort_keeps_ledger, State.eachPort_keeps_ledger,
      apply_ite State.ledger, ite_self, implies_true]

theorem State.quiesceGate_keeps_ledger (s : State) (st : Stn) : (State.quiesceGate s st).ledger = s.ledger := by
  simp only [State.quiesceGate, State.modStn_keeps_ledger, keeps_ledger_upd, foldl_keeps_ledger,
      State.modPort_keeps_ledger, State.eachPort_keeps_ledger, apply_ite State.ledger, ite_self,
      implies_true]

theorem State.container_keeps_ledger (s : State) (st : Stn) (slot : BitVec 16) :
    (State.container s st slot).ledger = s.ledger := by
  unfold State.container
  (repeat' split) <;> first
    | with_reducible rfl
    | (simp only [State.modStn_keeps_ledger, State.count_keeps_ledger, keeps_ledger_upd, foldl_keeps_ledger,
      State.modPort_keeps_ledger, State.eachPort_keeps_ledger, apply_ite State.ledger, ite_self,
      implies_true]; done)
    | (simp only [State.modStn_keeps_ledger, State.count_keeps_ledger, keeps_ledger_upd, foldl_keeps_ledger,
      State.modPort_keeps_ledger, State.eachPort_keeps_ledger, apply_ite State.ledger, ite_self,
      implies_true]
       (repeat' split) <;> first | with_reducible rfl | simp only [State.modStn_keeps_ledger, State.count_keeps_ledger, keeps_ledger_upd, foldl_keeps_ledger,
      State.modPort_keeps_ledger, State.eachPort_keeps_ledger, apply_ite State.ledger, ite_self,
      implies_true])

theorem State.laneDown_keeps_ledger (s : State) (st : Stn) (lane : Lane) : (State.laneDown s st lane).ledger = s.ledger := by
  simp only [State.laneDown, State.modStn_keeps_ledger, State.raise_keeps_ledger, keeps_ledger_upd,
      foldl_keeps_ledger, State.modPort_keeps_ledger, State.eachPort_keeps_ledger,
      apply_ite State.ledger, ite_self, implies_true]

theorem State.laneTrained_keeps_ledger (s : State) (st : Stn) (lane : Lane) (ok : Bool) (upNs downNs : Nat) :
    (State.laneTrained s st lane ok upNs downNs).ledger = s.ledger := by
  simp only [State.laneTrained, State.modStn_keeps_ledger, State.raise_keeps_ledger, State.runOut_keeps_ledger,
      State.loseLink_keeps_ledger, keeps_ledger_upd, foldl_keeps_ledger, State.modPort_keeps_ledger,
      State.eachPort_keeps_ledger, apply_ite State.ledger, ite_self, implies_true]

theorem State.laneRetry_keeps_ledger (s : State) (st : Stn) (lane : Lane) :
    (State.laneRetry s st lane).ledger = s.ledger := by
  simp only [State.laneRetry, State.modStn_keeps_ledger, keeps_ledger_upd, foldl_keeps_ledger,
      State.modPort_keeps_ledger, State.eachPort_keeps_ledger, apply_ite State.ledger, ite_self,
      implies_true]

theorem State.servoTrace_keeps_ledger (s : State) (st : Stn) (ty : Nat) (w1 w2 : BitVec 64) :
    (State.servoTrace s st ty w1 w2).ledger = s.ledger := by
  simp only [State.servoTrace, State.modDie_keeps_ledger, State.trace_keeps_ledger, keeps_ledger_upd,
      foldl_keeps_ledger, State.modPort_keeps_ledger, State.eachPort_keeps_ledger,
      apply_ite State.ledger, ite_self, implies_true]

theorem State.aim_keeps_ledger (s : State) (st : Stn) (wrap : Nat) (ofs : Int) :
    (State.aim s st wrap ofs).ledger = s.ledger := by
  unfold State.aim
  rfl

theorem State.inhibitWrite_keeps_ledger (s : State) (st : Stn) : (State.inhibitWrite s st).ledger = s.ledger := by
  simp only [State.inhibitWrite, State.modStn_keeps_ledger, State.raise_keeps_ledger, keeps_ledger_upd,
      foldl_keeps_ledger, State.modPort_keeps_ledger, State.eachPort_keeps_ledger,
      apply_ite State.ledger, ite_self, implies_true]

theorem State.skewSample_keeps_ledger (s : State) (st : Stn) (f : Nat) (a b : Frame) (apply : BitVec 16) :
    (State.skewSample s st f a b apply).ledger = s.ledger := by
  simp only [State.skewSample, State.modStn_keeps_ledger, State.servoTrace_keeps_ledger, keeps_ledger_upd,
      foldl_keeps_ledger, State.modPort_keeps_ledger, State.eachPort_keeps_ledger,
      apply_ite State.ledger, ite_self, implies_true]

theorem State.lateralLoop_keeps_ledger (s : State) (st : Stn) : (State.lateralLoop s st).ledger = s.ledger := by
  unfold State.lateralLoop
  (repeat' split) <;> first
    | with_reducible rfl
    | (simp only [State.modStn_keeps_ledger, State.draw_keeps_ledger, State.count_keeps_ledger,
      State.servoTrace_keeps_ledger, State.inhibitWrite_keeps_ledger, State.skewSample_keeps_ledger,
      keeps_ledger_upd, foldl_keeps_ledger, State.modPort_keeps_ledger, State.eachPort_keeps_ledger,
      apply_ite State.ledger, ite_self, implies_true]; done)
    | (simp only [State.modStn_keeps_ledger, State.draw_keeps_ledger, State.count_keeps_ledger,
      State.servoTrace_keeps_ledger, State.inhibitWrite_keeps_ledger, State.skewSample_keeps_ledger,
      keeps_ledger_upd, foldl_keeps_ledger, State.modPort_keeps_ledger, State.eachPort_keeps_ledger,
      apply_ite State.ledger, ite_self, implies_true]
       (repeat' split) <;> first | with_reducible rfl | simp only [State.modStn_keeps_ledger, State.draw_keeps_ledger, State.count_keeps_ledger,
      State.servoTrace_keeps_ledger, State.inhibitWrite_keeps_ledger, State.skewSample_keeps_ledger,
      keeps_ledger_upd, foldl_keeps_ledger, State.modPort_keeps_ledger, State.eachPort_keeps_ledger,
      apply_ite State.ledger, ite_self, implies_true])

theorem State.seekSample_keeps_ledger (s : State) (st : Stn) (q : Seek) : (State.seekSample s st q).ledger = s.ledger := by
  unfold State.seekSample
  simp only []
  split
  · rw [State.skewSample_keeps_ledger]
    exact (State.modStn_keeps_ledger ..).trans rfl
  · exact (State.modStn_keeps_ledger ..).trans rfl

theorem State.lateral_keeps_ledger (s : State) (st : Stn) : (State.lateral s st).ledger = s.ledger := by
  unfold State.lateral
  simp only []
  split
  · exact State.lateralLoop_keeps_ledger ..
  · split
    · rfl
    · split
      · exact (State.lateralLoop_keeps_ledger ..).trans (State.modStn_keeps_ledger ..)
      · exact State.seekSample_keeps_ledger ..

theorem State.loseLpos_keeps_ledger (s : State) (st : Stn) : (State.loseLpos s st).ledger = s.ledger := by
  simp only [State.loseLpos, State.modStn_keeps_ledger, State.raise_keeps_ledger, State.unplace_keeps_ledger,
      keeps_ledger_upd, foldl_keeps_ledger, State.modPort_keeps_ledger, State.eachPort_keeps_ledger,
      apply_ite State.ledger, ite_self, implies_true]

theorem State.lposTake_keeps_ledger (s : State) (st : Stn) : (State.lposTake s st).ledger = s.ledger := by
  unfold State.lposTake
  rfl

theorem State.reel_keeps_ledger (s : State) (st : Stn) : (State.reel s st).ledger = s.ledger := by
  simp only [State.reel, State.modStn_keeps_ledger, State.draw_keeps_ledger, State.take_keeps_ledger,
      State.count_keeps_ledger, State.servoTrace_keeps_ledger, keeps_ledger_upd, foldl_keeps_ledger,
      State.modPort_keeps_ledger, State.eachPort_keeps_ledger, apply_ite State.ledger, ite_self,
      implies_true]

theorem State.auxSample_keeps_ledger (s : State) (st : Stn) : (State.auxSample s st).ledger = s.ledger := by
  simp only [State.auxSample, State.modStn_keeps_ledger, State.draw_keeps_ledger, State.hold_keeps_ledger,
      State.count_keeps_ledger, keeps_ledger_upd, foldl_keeps_ledger, State.modPort_keeps_ledger,
      State.eachPort_keeps_ledger, apply_ite State.ledger, ite_self, implies_true]

theorem State.kappa_keeps_ledger (s : State) (st : Stn) (takeUp : Bool) (len : Nat) :
    (State.kappa s st takeUp len).ledger = s.ledger := by
  simp only [State.kappa, State.modStn_keeps_ledger, State.draw_keeps_ledger, State.raise_keeps_ledger,
      keeps_ledger_upd, foldl_keeps_ledger, State.modPort_keeps_ledger, State.eachPort_keeps_ledger,
      apply_ite State.ledger, ite_self, implies_true]

theorem State.serveSeek_keeps_ledger (s : State) (st : Stn) : (State.serveSeek s st).ledger = s.ledger := by
  unfold State.serveSeek
  (repeat' split) <;> first
    | with_reducible rfl
    | (simp only [State.modStn_keeps_ledger, State.rampTo_keeps_ledger, State.runBack_keeps_ledger,
      State.aim_keeps_ledger, keeps_ledger_upd, foldl_keeps_ledger, State.modPort_keeps_ledger,
      State.eachPort_keeps_ledger, apply_ite State.ledger, ite_self, implies_true]; done)
    | (simp only [State.modStn_keeps_ledger, State.rampTo_keeps_ledger, State.runBack_keeps_ledger,
      State.aim_keeps_ledger, keeps_ledger_upd, foldl_keeps_ledger, State.modPort_keeps_ledger,
      State.eachPort_keeps_ledger, apply_ite State.ledger, ite_self, implies_true]
       (repeat' split) <;> first | with_reducible rfl | simp only [State.modStn_keeps_ledger, State.rampTo_keeps_ledger, State.runBack_keeps_ledger,
      State.aim_keeps_ledger, keeps_ledger_upd, foldl_keeps_ledger, State.modPort_keeps_ledger,
      State.eachPort_keeps_ledger, apply_ite State.ledger, ite_self, implies_true])

theorem State.locatesDone_keeps_ledger (s : State) (st : Stn) : (State.locatesDone s st).ledger = s.ledger := by
  simp only [State.locatesDone, State.finish_keeps_ledger, keeps_ledger_upd, foldl_keeps_ledger,
      State.modPort_keeps_ledger, State.eachPort_keeps_ledger, apply_ite State.ledger, ite_self,
      implies_true]

theorem State.rested_keeps_ledger (s : State) (st : Stn) : (State.rested s st).ledger = s.ledger := by
  unfold State.rested
  (repeat' split) <;> first
    | with_reducible rfl
    | (simp only [State.modStn_keeps_ledger, State.openLoops_keeps_ledger, State.openStation_keeps_ledger,
      State.mountGo_keeps_ledger, State.serveSeek_keeps_ledger, State.locatesDone_keeps_ledger,
      keeps_ledger_upd, foldl_keeps_ledger, State.modPort_keeps_ledger, State.eachPort_keeps_ledger,
      apply_ite State.ledger, ite_self, implies_true]; done)
    | (simp only [State.modStn_keeps_ledger, State.openLoops_keeps_ledger, State.openStation_keeps_ledger,
      State.mountGo_keeps_ledger, State.serveSeek_keeps_ledger, State.locatesDone_keeps_ledger,
      keeps_ledger_upd, foldl_keeps_ledger, State.modPort_keeps_ledger, State.eachPort_keeps_ledger,
      apply_ite State.ledger, ite_self, implies_true]
       (repeat' split) <;> first | with_reducible rfl | simp only [State.modStn_keeps_ledger, State.openLoops_keeps_ledger, State.openStation_keeps_ledger,
      State.mountGo_keeps_ledger, State.serveSeek_keeps_ledger, State.locatesDone_keeps_ledger,
      keeps_ledger_upd, foldl_keeps_ledger, State.modPort_keeps_ledger, State.eachPort_keeps_ledger,
      apply_ite State.ledger, ite_self, implies_true])

theorem State.rampDone_keeps_ledger (s : State) (st : Stn) : (State.rampDone s st).ledger = s.ledger := by
  unfold State.rampDone
  (repeat' split) <;> first
    | with_reducible rfl
    | (simp only [State.modStn_keeps_ledger, State.controlledStop_keeps_ledger, State.rested_keeps_ledger,
      keeps_ledger_upd, foldl_keeps_ledger, State.modPort_keeps_ledger, State.eachPort_keeps_ledger,
      apply_ite State.ledger, ite_self, implies_true]; done)
    | (simp only [State.modStn_keeps_ledger, State.controlledStop_keeps_ledger, State.rested_keeps_ledger,
      keeps_ledger_upd, foldl_keeps_ledger, State.modPort_keeps_ledger, State.eachPort_keeps_ledger,
      apply_ite State.ledger, ite_self, implies_true]
       (repeat' split) <;> first | with_reducible rfl | simp only [State.modStn_keeps_ledger, State.controlledStop_keeps_ledger, State.rested_keeps_ledger,
      keeps_ledger_upd, foldl_keeps_ledger, State.modPort_keeps_ledger, State.eachPort_keeps_ledger,
      apply_ite State.ledger, ite_self, implies_true])

theorem State.leaveQuiet_keeps_ledger (s : State) : (State.leaveQuiet s).ledger = s.ledger := by
  simp only [State.leaveQuiet, State.modStn_keeps_ledger, State.closeLoops_keeps_ledger, keeps_ledger_upd,
      foldl_keeps_ledger, State.modPort_keeps_ledger, State.eachPort_keeps_ledger,
      apply_ite State.ledger, ite_self, implies_true]

theorem State.wakeFor_keeps_ledger (s : State) (r : CmdRef) : (State.wakeFor s r).ledger = s.ledger := by
  simp only [State.wakeFor, State.leaveQuiet_keeps_ledger, keeps_ledger_upd, foldl_keeps_ledger,
      State.modPort_keeps_ledger, State.eachPort_keeps_ledger, apply_ite State.ledger, ite_self,
      implies_true]

theorem State.launch_keeps_ledger (s : State) (c : HostCmd) (k : Cmd) (go : CmdRef → State → State)
    (h : ∀ r a, (go r a).ledger = a.ledger) : (State.launch s c k go).ledger = s.ledger := by
  unfold State.launch
  split
  · rw [State.wakeFor_keeps_ledger, State.addCmd_keeps_ledger]
  · rw [h, State.addCmd_keeps_ledger]

theorem State.gapLon_keeps_ledger (s : State) (c : HostCmd) : (State.gapLon s c).ledger = s.ledger := by
  unfold State.gapLon
  rfl

theorem State.dropKey_keeps_ledger (s : State) (p : Port) (q : Nat) (f : RecKey → Bool) :
    (State.dropKey s p q f).ledger = s.ledger := by
  unfold State.dropKey
  rfl

theorem State.modRec_keeps_ledger (s : State) (st : Stn) (lon : Nat) (f : Rec → Rec) :
    (State.modRec s st lon f).ledger = s.ledger := by
  unfold State.modRec
  rfl

theorem State.startAppend_keeps_ledger (r : CmdRef) (s : State) : (State.startAppend r s).ledger = s.ledger := by
  unfold State.startAppend
  (repeat' split) <;> simp only [State.modCmd_keeps_ledger, State.addJob_keeps_ledger, keeps_ledger_upd, foldl_keeps_ledger,
      State.modPort_keeps_ledger, State.eachPort_keeps_ledger, apply_ite State.ledger, ite_self,
      implies_true]

theorem State.runAppend_keeps_ledger (c : HostCmd) (s : State) : (State.runAppend c s).ledger = s.ledger := by
  unfold State.runAppend
  (repeat' split) <;> first
    | with_reducible rfl
    | (simp only [State.modStn_keeps_ledger, State.modQp_keeps_ledger, State.finishNew_keeps_ledger,
      State.abandonRec_keeps_ledger, State.count_keeps_ledger, State.launch_keeps_ledger,
      State.dropKey_keeps_ledger, State.modRec_keeps_ledger, State.startAppend_keeps_ledger,
      keeps_ledger_upd, foldl_keeps_ledger, State.modPort_keeps_ledger, State.eachPort_keeps_ledger,
      apply_ite State.ledger, ite_self, implies_true]; done)
    | (simp only [State.modStn_keeps_ledger, State.modQp_keeps_ledger, State.finishNew_keeps_ledger,
      State.abandonRec_keeps_ledger, State.count_keeps_ledger, State.launch_keeps_ledger,
      State.dropKey_keeps_ledger, State.modRec_keeps_ledger, State.startAppend_keeps_ledger,
      keeps_ledger_upd, foldl_keeps_ledger, State.modPort_keeps_ledger, State.eachPort_keeps_ledger,
      apply_ite State.ledger, ite_self, implies_true]
       (repeat' split) <;> first | with_reducible rfl | simp only [State.modStn_keeps_ledger, State.modQp_keeps_ledger, State.finishNew_keeps_ledger,
      State.abandonRec_keeps_ledger, State.count_keeps_ledger, State.launch_keeps_ledger,
      State.dropKey_keeps_ledger, State.modRec_keeps_ledger, State.startAppend_keeps_ledger,
      keeps_ledger_upd, foldl_keeps_ledger, State.modPort_keeps_ledger, State.eachPort_keeps_ledger,
      apply_ite State.ledger, ite_self, implies_true])

theorem State.addFlush_keeps_ledger (s : State) (st : Stn) (why : FlushFor) (cover : List (Nat × Nat)) :
    (State.addFlush s st why cover).ledger = s.ledger := by
  simp only [State.addFlush, State.modStn_keeps_ledger, State.addJob_keeps_ledger, State.settle_keeps_ledger,
      keeps_ledger_upd, foldl_keeps_ledger, State.modPort_keeps_ledger, State.eachPort_keeps_ledger,
      apply_ite State.ledger, ite_self, implies_true]

theorem State.startFlush_keeps_ledger (r : CmdRef) (s : State) : (State.startFlush r s).ledger = s.ledger := by
  unfold State.startFlush
  (repeat' split) <;> first
    | with_reducible rfl
    | (simp only [State.modStn_keeps_ledger, State.modCmd_keeps_ledger, State.finish_keeps_ledger,
      State.finishLosses_keeps_ledger, State.addFlush_keeps_ledger, keeps_ledger_upd, foldl_keeps_ledger,
      State.modPort_keeps_ledger, State.eachPort_keeps_ledger, apply_ite State.ledger, ite_self,
      implies_true]; done)
    | (simp only [State.modStn_keeps_ledger, State.modCmd_keeps_ledger, State.finish_keeps_ledger,
      State.finishLosses_keeps_ledger, State.addFlush_keeps_ledger, keeps_ledger_upd, foldl_keeps_ledger,
      State.modPort_keeps_ledger, State.eachPort_keeps_ledger, apply_ite State.ledger, ite_self,
      implies_true]
       (repeat' split) <;> first | with_reducible rfl | simp only [State.modStn_keeps_ledger, State.modCmd_keeps_ledger, State.finish_keeps_ledger,
      State.finishLosses_keeps_ledger, State.addFlush_keeps_ledger, keeps_ledger_upd, foldl_keeps_ledger,
      State.modPort_keeps_ledger, State.eachPort_keeps_ledger, apply_ite State.ledger, ite_self,
      implies_true])

theorem State.startReader_keeps_ledger (r : CmdRef) (s : State) : (State.startReader r s).ledger = s.ledger := by
  unfold State.startReader
  (repeat' split) <;> first
    | with_reducible rfl
    | (simp only [State.modCmd_keeps_ledger, State.finish_keeps_ledger, State.goReader_keeps_ledger,
      State.serveSeek_keeps_ledger, State.addFlush_keeps_ledger, keeps_ledger_upd, foldl_keeps_ledger,
      State.modPort_keeps_ledger, State.eachPort_keeps_ledger, apply_ite State.ledger, ite_self,
      implies_true]; done)
    | (simp only [State.modCmd_keeps_ledger, State.finish_keeps_ledger, State.goReader_keeps_ledger,
      State.serveSeek_keeps_ledger, State.addFlush_keeps_ledger, keeps_ledger_upd, foldl_keeps_ledger,
      State.modPort_keeps_ledger, State.eachPort_keeps_ledger, apply_ite State.ledger, ite_self,
      implies_true]
       (repeat' split) <;> first | with_reducible rfl | simp only [State.modCmd_keeps_ledger, State.finish_keeps_ledger, State.goReader_keeps_ledger,
      State.serveSeek_keeps_ledger, State.addFlush_keeps_ledger, keeps_ledger_upd, foldl_keeps_ledger,
      State.modPort_keeps_ledger, State.eachPort_keeps_ledger, apply_ite State.ledger, ite_self,
      implies_true])

theorem State.runReader_keeps_ledger (c : HostCmd) (s : State) : (State.runReader c s).ledger = s.ledger := by
  simp only [State.runReader, State.launch_keeps_ledger, State.startReader_keeps_ledger, keeps_ledger_upd,
      foldl_keeps_ledger, State.modPort_keeps_ledger, State.eachPort_keeps_ledger,
      apply_ite State.ledger, ite_self, implies_true]

theorem State.sealGo_keeps_ledger (s : State) (st : Stn) : (State.sealGo s st).ledger = s.ledger := by
  unfold State.sealGo
  (repeat' split) <;> simp only [State.modStn_keeps_ledger, State.addFlush_keeps_ledger, keeps_ledger_upd, foldl_keeps_ledger,
      State.modPort_keeps_ledger, State.eachPort_keeps_ledger, apply_ite State.ledger, ite_self,
      implies_true]

theorem State.sealsGo_keeps_ledger (s : State) : (State.sealsGo s).ledger = s.ledger := by
  simp only [State.sealsGo, State.sealGo_keeps_ledger, keeps_ledger_upd, foldl_keeps_ledger,
      State.modPort_keeps_ledger, State.eachPort_keeps_ledger, apply_ite State.ledger, ite_self,
      implies_true]

theorem State.startSeal_keeps_ledger (r : CmdRef) (s : State) : (State.startSeal r s).ledger = s.ledger := by
  unfold State.startSeal
  (repeat' split) <;> simp only [State.modStn_keeps_ledger, State.modCmd_keeps_ledger, State.settle_keeps_ledger,
      State.sealGo_keeps_ledger, keeps_ledger_upd, foldl_keeps_ledger, State.modPort_keeps_ledger,
      State.eachPort_keeps_ledger, apply_ite State.ledger, ite_self, implies_true]

theorem State.fenceGo_keeps_ledger (s : State) (p : Port) (q : Nat) : (State.fenceGo s p q).ledger = s.ledger := by
  unfold State.fenceGo
  (repeat' split) <;> simp only [State.finish_keeps_ledger, keeps_ledger_upd, foldl_keeps_ledger, State.modPort_keeps_ledger,
      State.eachPort_keeps_ledger, apply_ite State.ledger, ite_self, implies_true]

theorem State.rekey_keeps_ledger (s : State) (st : Stn) (mnt : BitVec 32) (lon : Nat) :
    (State.rekey s st mnt lon).ledger = s.ledger := by
  unfold State.rekey
  (repeat' split) <;> simp only [State.modQp_keeps_ledger, keeps_ledger_upd, foldl_keeps_ledger, State.modPort_keeps_ledger,
      State.eachPort_keeps_ledger, apply_ite State.ledger, ite_self, implies_true]

theorem State.untakeAppend_keeps_ledger (s : State) (r : CmdRef) : (State.untakeAppend s r).ledger = s.ledger := by
  unfold State.untakeAppend
  (repeat' split) <;> simp only [State.modStn_keeps_ledger, State.finishAll_keeps_ledger, State.dropWaits_keeps_ledger,
      State.dropJobs_keeps_ledger, State.count_keeps_ledger, State.dropKey_keeps_ledger,
      State.modRec_keeps_ledger, State.rekey_keeps_ledger, keeps_ledger_upd, foldl_keeps_ledger,
      State.modPort_keeps_ledger, State.eachPort_keeps_ledger, apply_ite State.ledger, ite_self,
      implies_true]

theorem State.refuseCmd_keeps_ledger (s : State) (r : CmdRef) : (State.refuseCmd s r).ledger = s.ledger := by
  unfold State.refuseCmd
  (repeat' split) <;> simp only [State.finish_keeps_ledger, State.sealGo_keeps_ledger, State.untakeAppend_keeps_ledger,
      keeps_ledger_upd, foldl_keeps_ledger, State.modPort_keeps_ledger, State.eachPort_keeps_ledger,
      apply_ite State.ledger, ite_self, implies_true]

theorem State.powerFlush_keeps_ledger (s : State) : (State.powerFlush s).ledger = s.ledger := by
  unfold State.powerFlush
  refine foldl_keeps_ledger _ (fun a st => ?_) _ _
  dsimp only
  (repeat' split) <;> first
    | rfl
    | exact State.addFlush_keeps_ledger ..

theorem State.powerStops_keeps_ledger (s : State) : (State.powerStops s).ledger = s.ledger := by
  simp only [State.powerStops, State.controlledStop_keeps_ledger, keeps_ledger_upd, foldl_keeps_ledger,
      State.modPort_keeps_ledger, State.eachPort_keeps_ledger, apply_ite State.ledger, ite_self,
      implies_true]

theorem State.quietStn_keeps_ledger (s : State) (st : Stn) : (State.quietStn s st).ledger = s.ledger := by
  simp only [State.quietStn, State.modStn_keeps_ledger, State.openLoops_keeps_ledger, keeps_ledger_upd,
      foldl_keeps_ledger, State.modPort_keeps_ledger, State.eachPort_keeps_ledger,
      apply_ite State.ledger, ite_self, implies_true]

theorem State.powerDeeper_keeps_ledger (s : State) : (State.powerDeeper s).ledger = s.ledger := by
  unfold State.powerDeeper
  (repeat' split) <;> simp only [State.eachPort_keeps_ledger, State.quietStn_keeps_ledger, keeps_ledger_upd, foldl_keeps_ledger,
      State.modPort_keeps_ledger, State.eachPort_keeps_ledger, apply_ite State.ledger, ite_self,
      implies_true]

theorem State.powerEnd_keeps_ledger (s : State) : (State.powerEnd s).ledger = s.ledger := by
  unfold State.powerEnd
  (repeat' split) <;> simp only [State.finish_keeps_ledger, keeps_ledger_upd, foldl_keeps_ledger, State.modPort_keeps_ledger,
      State.eachPort_keeps_ledger, apply_ite State.ledger, ite_self, implies_true]

theorem State.powerOnce_keeps_ledger (s : State) : (State.powerOnce s).ledger = s.ledger := by
  unfold State.powerOnce
  (repeat' split) <;> simp only [State.powerFlush_keeps_ledger, State.powerStops_keeps_ledger, State.powerDeeper_keeps_ledger,
      State.powerEnd_keeps_ledger, keeps_ledger_upd, foldl_keeps_ledger, State.modPort_keeps_ledger,
      State.eachPort_keeps_ledger, apply_ite State.ledger, ite_self, implies_true]

theorem State.powerGo_keeps_ledger (s : State) : (State.powerGo s).ledger = s.ledger := by
  simp only [State.powerGo, State.powerOnce_keeps_ledger, keeps_ledger_upd, foldl_keeps_ledger,
      State.modPort_keeps_ledger, State.eachPort_keeps_ledger, apply_ite State.ledger, ite_self,
      implies_true]

theorem State.runPower_keeps_ledger (c : HostCmd) (s : State) : (State.runPower c s).ledger = s.ledger := by
  simp only [State.runPower, State.eachPort_keeps_ledger, State.finish_keeps_ledger, State.addCmd_keeps_ledger,
      State.leaveQuiet_keeps_ledger, State.powerGo_keeps_ledger, keeps_ledger_upd, foldl_keeps_ledger,
      State.modPort_keeps_ledger, State.eachPort_keeps_ledger, apply_ite State.ledger, ite_self,
      implies_true]

theorem State.logLost_keeps_ledger (s : State) (r : Rec) : (State.logLost s r).ledger = s.ledger := by
  simp only [State.logLost, State.logErr_keeps_ledger, keeps_ledger_upd, foldl_keeps_ledger,
      State.modPort_keeps_ledger, State.eachPort_keeps_ledger, apply_ite State.ledger, ite_self,
      implies_true]

theorem State.loseContext_keeps_ledger (s : State) (st : Stn) : (State.loseContext s st).ledger = s.ledger := by
  have k1 : ∀ (n : Nat) (lon : Nat) (l : List FlushJob) (a : State), (l.foldl (fun (a : State) j => match j.why with
      | .flush c => a.finish c { status := 0x10, result := n, lon := lon }
      | _ => a) a).ledger = a.ledger := fun n lon l a => foldl_keeps_ledger _ (fun a j => by
    split <;> simp only [State.finish_keeps_ledger]) _ _
  have k2 : ∀ (l : List Rec) (a : State), (l.foldl (fun (a : State) r => a.logLost r) a).ledger = a.ledger :=
    fun l a => foldl_keeps_ledger _ (fun _ _ => State.logLost_keeps_ledger ..) _ _
  unfold State.loseContext
  split
  · rfl
  · simp only [State.raise_keeps_ledger, State.failStation_keeps_ledger, State.controlledStop_keeps_ledger, State.modStn_keeps_ledger]
    exact (k1 _ _ _ _).trans ((k2 _ _).trans (State.modStn_keeps_ledger ..))

theorem State.dropArea_keeps_ledger (s : State) (st : Stn) (g : Gath) : (State.dropArea s st g).ledger = s.ledger := by
  simp only [State.dropArea, State.modStn_keeps_ledger, keeps_ledger_upd, foldl_keeps_ledger,
      State.modPort_keeps_ledger, State.eachPort_keeps_ledger, apply_ite State.ledger, ite_self,
      implies_true]

theorem State.burnReleased_keeps_ledger (s : State) (st : Stn) (gnum : Nat) :
    (State.burnReleased s st gnum).ledger = s.ledger := by
  unfold State.burnReleased
  (repeat' split) <;> simp only [State.abandonRec_keeps_ledger, State.unplace_keeps_ledger, State.settle_keeps_ledger,
      State.dropArea_keeps_ledger, keeps_ledger_upd, foldl_keeps_ledger, State.modPort_keeps_ledger,
      State.eachPort_keeps_ledger, apply_ite State.ledger, ite_self, implies_true]

theorem State.scrubPage_keeps_ledger (s : State) (place : PageAddr) (l : PageLine) (detail : Nat) :
    (State.scrubPage s place l detail).ledger = s.ledger := by
  simp only [State.scrubPage, State.raise_keeps_ledger, State.elogPage_keeps_ledger,
      State.countCorrected_keeps_ledger, State.schedule_keeps_ledger, State.hardFault_keeps_ledger,
      State.writePage_keeps_ledger, keeps_ledger_upd, foldl_keeps_ledger, State.modPort_keeps_ledger,
      State.eachPort_keeps_ledger, apply_ite State.ledger, ite_self, implies_true]

theorem State.poolWait_keeps_ledger (s : State) (d : DieId) (p : Fin 5) (w : Waiter) :
    (State.poolWait s d p w).ledger = s.ledger := by
  unfold State.poolWait
  (repeat' split) <;> simp only [State.modDie_keeps_ledger, State.modCmd_keeps_ledger, State.backToWait_keeps_ledger,
      keeps_ledger_upd, foldl_keeps_ledger, State.modPort_keeps_ledger, State.eachPort_keeps_ledger,
      apply_ite State.ledger, ite_self, implies_true]

theorem State.poolRefuse_keeps_ledger (s : State) (use : PoolUse) : (State.poolRefuse s use).ledger = s.ledger := by
  unfold State.poolRefuse
  (repeat' split) <;> simp only [State.refuseCmd_keeps_ledger, keeps_ledger_upd, foldl_keeps_ledger, State.modPort_keeps_ledger,
      State.eachPort_keeps_ledger, apply_ite State.ledger, ite_self, implies_true]

theorem State.startScrub_keeps_ledger (r : CmdRef) (s : State) : (State.startScrub r s).ledger = s.ledger := by
  unfold State.startScrub
  (repeat' split) <;> simp only [State.modDie_keeps_ledger, State.modCmd_keeps_ledger, State.finish_keeps_ledger, keeps_ledger_upd,
      foldl_keeps_ledger, State.modPort_keeps_ledger, State.eachPort_keeps_ledger,
      apply_ite State.ledger, ite_self, implies_true]

theorem State.endReading_keeps_ledger (s : State) (st : Stn) : (State.endReading s st).ledger = s.ledger := by
  simp only [State.endReading, State.modStn_keeps_ledger, State.controlledStop_keeps_ledger, keeps_ledger_upd,
      foldl_keeps_ledger, State.modPort_keeps_ledger, State.eachPort_keeps_ledger,
      apply_ite State.ledger, ite_self, implies_true]

theorem State.dropMount_keeps_ledger (s : State) (st : Stn) : (State.dropMount s st).ledger = s.ledger := by
  simp only [State.dropMount, State.controlledStop_keeps_ledger, State.openLoops_keeps_ledger,
      State.dismount_keeps_ledger, keeps_ledger_upd, foldl_keeps_ledger, State.modPort_keeps_ledger,
      State.eachPort_keeps_ledger, apply_ite State.ledger, ite_self, implies_true]

theorem State.forgetCmd_keeps_ledger (s : State) (r : CmdRef) : (State.forgetCmd s r).ledger = s.ledger := by
  unfold State.forgetCmd
  rfl

theorem State.migHalt_keeps_ledger (s : State) (j : MigJob) : (State.migHalt s j).ledger = s.ledger := by
  unfold State.migHalt
  (repeat' split) <;> first
    | with_reducible rfl
    | (simp only [State.endMig_keeps_ledger, State.addFlush_keeps_ledger, State.endReading_keeps_ledger,
      keeps_ledger_upd, foldl_keeps_ledger, State.modPort_keeps_ledger, State.eachPort_keeps_ledger,
      apply_ite State.ledger, ite_self, implies_true]; done)
    | (simp only [State.endMig_keeps_ledger, State.addFlush_keeps_ledger, State.endReading_keeps_ledger,
      keeps_ledger_upd, foldl_keeps_ledger, State.modPort_keeps_ledger, State.eachPort_keeps_ledger,
      apply_ite State.ledger, ite_self, implies_true]
       (repeat' split) <;> first | with_reducible rfl | simp only [State.endMig_keeps_ledger, State.addFlush_keeps_ledger, State.endReading_keeps_ledger,
      keeps_ledger_upd, foldl_keeps_ledger, State.modPort_keeps_ledger, State.eachPort_keeps_ledger,
      apply_ite State.ledger, ite_self, implies_true])

theorem State.abortKind_keeps_ledger (s1 : State) (r : CmdRef) (k : Cmd) : (State.abortKind s1 r k).ledger = s1.ledger := by
  unfold State.abortKind
  dsimp only
  split
  · rw [State.settle_keeps_ledger, State.sealGo_keeps_ledger, State.abandonRec_keeps_ledger]
  · rw [State.endReading_keeps_ledger, State.modStn_keeps_ledger]
  · rw [State.endReading_keeps_ledger, State.modStn_keeps_ledger]
  · rw [State.endReading_keeps_ledger, State.modStn_keeps_ledger]
  · rfl
  · split
    · exact State.migHalt_keeps_ledger ..
    · rfl
  · rfl
  · refine ite_keeps_ledger ?_ rfl
    rw [State.dropMount_keeps_ledger]
  · exact ite_keeps_ledger rfl rfl
  · rfl
  · rfl

theorem State.abortEffect_keeps_ledger (s : State) (r : CmdRef) (k : Cmd) : (State.abortEffect s r k).ledger = s.ledger := by
  simp only [State.abortEffect, State.forgetCmd_keeps_ledger, State.abortKind_keeps_ledger, keeps_ledger_upd,
      foldl_keeps_ledger, State.modPort_keeps_ledger, State.eachPort_keeps_ledger,
      apply_ite State.ledger, ite_self, implies_true]

theorem State.undone_keeps_ledger (s : State) (p : Port) (q : Nat) (d : Done) :
    (State.undone s p q d).ledger = s.ledger := by
  simp only [State.undone, State.unlock_keeps_ledger, State.abandonRec_keeps_ledger, State.settle_keeps_ledger,
      keeps_ledger_upd, foldl_keeps_ledger, State.modPort_keeps_ledger, State.eachPort_keeps_ledger,
      apply_ite State.ledger, ite_self, implies_true]

theorem State.abortQueue_keeps_ledger (s : State) (p : Port) (q : Nat) : (State.abortQueue s p q).ledger = s.ledger := by
  unfold State.abortQueue
  (repeat' split) <;> simp only [State.modQp_keeps_ledger, State.abortEffect_keeps_ledger, State.undone_keeps_ledger,
      keeps_ledger_upd, foldl_keeps_ledger, State.modPort_keeps_ledger, State.eachPort_keeps_ledger,
      apply_ite State.ledger, ite_self, implies_true]

theorem State.dropGoneKeys_keeps_ledger (s : State) (p : Port) (q : Nat) : (State.dropGoneKeys s p q).ledger = s.ledger := by
  unfold State.dropGoneKeys
  rfl

theorem State.abandonOpen_keeps_ledger (s : State) (p : Port) (q : Nat) : (State.abandonOpen s p q).ledger = s.ledger := by
  unfold State.abandonOpen
  refine foldl_keeps_ledger _ (fun a st => ?_) _ _
  split
  · rfl
  · rw [State.settle_keeps_ledger]
    exact foldl_keeps_ledger _ (fun _ _ => State.abandonRec_keeps_ledger ..) _ _

theorem State.reported_keeps_ledger (s : State) (d : Done) : (State.reported s d).ledger = s.ledger := by
  simp only [State.reported, State.modRec_keeps_ledger, keeps_ledger_upd, foldl_keeps_ledger,
      State.modPort_keeps_ledger, State.eachPort_keeps_ledger, apply_ite State.ledger, ite_self,
      implies_true]

theorem State.finalDone_keeps_ledger (s : State) (p : Port) (q : Nat) : (State.finalDone s p q).ledger = s.ledger := by
  unfold State.finalDone
  (repeat' split) <;> simp only [State.modQp_keeps_ledger, State.finish_keeps_ledger, keeps_ledger_upd, foldl_keeps_ledger,
      State.modPort_keeps_ledger, State.eachPort_keeps_ledger, apply_ite State.ledger, ite_self,
      implies_true]

theorem State.writeDone_keeps_ledger (s : State) (p : Port) (q : Nat) : (State.writeDone s p q).ledger = s.ledger := by
  unfold State.writeDone
  (repeat' split) <;> simp only [State.emit_keeps_ledger, State.msix_keeps_ledger, State.trace_keeps_ledger,
      State.modQp_keeps_ledger, State.unlock_keeps_ledger, State.fenceGo_keeps_ledger,
      State.powerGo_keeps_ledger, State.reported_keeps_ledger, State.finalDone_keeps_ledger,
      keeps_ledger_upd, foldl_keeps_ledger, State.modPort_keeps_ledger, State.eachPort_keeps_ledger,
      apply_ite State.ledger, ite_self, implies_true]

theorem State.enterE4_keeps_ledger (s : State) : (State.enterE4 s).ledger = s.ledger := by
  simp only [State.enterE4, State.eachStn_keeps_ledger, keeps_ledger_upd, foldl_keeps_ledger,
      State.modPort_keeps_ledger, State.eachPort_keeps_ledger, apply_ite State.ledger, ite_self,
      implies_true]

theorem State.tryE4_keeps_ledger (s : State) : (State.tryE4 s).ledger = s.ledger := by
  simp only [State.tryE4, State.enterE4_keeps_ledger, keeps_ledger_upd, foldl_keeps_ledger,
      State.modPort_keeps_ledger, State.eachPort_keeps_ledger, apply_ite State.ledger, ite_self,
      implies_true]

theorem State.tryExit_keeps_ledger (s : State) : (State.tryExit s).ledger = s.ledger := by
  unfold State.tryExit
  (repeat' split) <;> simp only [State.tryE4_keeps_ledger, keeps_ledger_upd, foldl_keeps_ledger, State.modPort_keeps_ledger,
      State.eachPort_keeps_ledger, apply_ite State.ledger, ite_self, implies_true]

theorem State.quiesceStn_keeps_ledger (s : State) (st : Stn) : (State.quiesceStn s st).ledger = s.ledger := by
  unfold State.quiesceStn
  (repeat' split) <;> first
    | with_reducible rfl
    | (simp only [State.modStn_keeps_ledger, State.unplace_keeps_ledger, State.quiesceGate_keeps_ledger,
      keeps_ledger_upd, foldl_keeps_ledger, State.modPort_keeps_ledger, State.eachPort_keeps_ledger,
      apply_ite State.ledger, ite_self, implies_true]; done)
    | (simp only [State.modStn_keeps_ledger, State.unplace_keeps_ledger, State.quiesceGate_keeps_ledger,
      keeps_ledger_upd, foldl_keeps_ledger, State.modPort_keeps_ledger, State.eachPort_keeps_ledger,
      apply_ite State.ledger, ite_self, implies_true]
       (repeat' split) <;> first | with_reducible rfl | simp only [State.modStn_keeps_ledger, State.unplace_keeps_ledger, State.quiesceGate_keeps_ledger,
      keeps_ledger_upd, foldl_keeps_ledger, State.modPort_keeps_ledger, State.eachPort_keeps_ledger,
      apply_ite State.ledger, ite_self, implies_true])

theorem State.warmStart_keeps_ledger (s : State) : (State.warmStart s).ledger = s.ledger := by
  simp only [State.warmStart, State.quiesceStn_keeps_ledger, keeps_ledger_upd, foldl_keeps_ledger,
      State.modPort_keeps_ledger, State.eachPort_keeps_ledger, apply_ite State.ledger, ite_self,
      implies_true]

theorem State.warmSource_keeps_ledger (s : State) (src : ResetSource) : (State.warmSource s src).ledger = s.ledger := by
  unfold State.warmSource
  (repeat' split) <;> simp only [State.warmStart_keeps_ledger, keeps_ledger_upd, foldl_keeps_ledger, State.modPort_keeps_ledger,
      State.eachPort_keeps_ledger, apply_ite State.ledger, ite_self, implies_true]

theorem State.loseBuf_keeps_ledger (s : State) (h : BitVec 32) (b : Buf) : (State.loseBuf s h b).ledger = s.ledger := by
  unfold State.loseBuf
  (repeat' split) <;> simp only [State.modStn_keeps_ledger, State.dropArea_keeps_ledger, keeps_ledger_upd, foldl_keeps_ledger,
      State.modPort_keeps_ledger, State.eachPort_keeps_ledger, apply_ite State.ledger, ite_self,
      implies_true]

theorem State.stablePool_keeps_ledger (s : State) (d : DieId) (p : Fin 5) : (State.stablePool s d p).ledger = s.ledger := by
  simp only [State.stablePool, State.modDie_keeps_ledger, State.putBack_keeps_ledger,
      State.loseBuf_keeps_ledger, keeps_ledger_upd, foldl_keeps_ledger, State.modPort_keeps_ledger,
      State.eachPort_keeps_ledger, apply_ite State.ledger, ite_self, implies_true]

theorem State.stableAll_keeps_ledger (s : State) : (State.stableAll s).ledger = s.ledger := by
  simp only [State.stableAll, State.stablePool_keeps_ledger, keeps_ledger_upd, foldl_keeps_ledger,
      State.modPort_keeps_ledger, State.eachPort_keeps_ledger, apply_ite State.ledger, ite_self,
      implies_true]

theorem State.fallback_keeps_ledger (s : State) (st : Stn) : (State.fallback s st).ledger = s.ledger := by
  simp only [State.fallback, State.modStn_keeps_ledger, State.rampTo_keeps_ledger, keeps_ledger_upd,
      foldl_keeps_ledger, State.modPort_keeps_ledger, State.eachPort_keeps_ledger,
      apply_ite State.ledger, ite_self, implies_true]

theorem State.warmStn_keeps_ledger (s : State) (st : Stn) : (State.warmStn s st).ledger = s.ledger := by
  simp only [State.warmStn, State.modStn_keeps_ledger, State.burnFrom_keeps_ledger,
      State.voidWriting_keeps_ledger, State.dropWork_keeps_ledger, State.dismount_keeps_ledger,
      State.fallback_keeps_ledger, keeps_ledger_upd, foldl_keeps_ledger, State.modPort_keeps_ledger,
      State.eachPort_keeps_ledger, apply_ite State.ledger, ite_self, implies_true]

theorem State.loadStores_keeps_ledger (s : State) : (State.loadStores s).ledger = s.ledger := by
  unfold State.loadStores
  rfl

theorem State.restoreSlots_keeps_ledger (s : State) : (State.restoreSlots s).ledger = s.ledger := by
  unfold State.restoreSlots
  rfl

theorem State.applyImage_keeps_ledger (s : State) : (State.applyImage s).ledger = s.ledger := by
  simp only [State.applyImage, State.eachPort_keeps_ledger, State.eachDie_keeps_ledger,
      State.eachStn_keeps_ledger, State.trace_keeps_ledger, State.loadStores_keeps_ledger,
      State.restoreSlots_keeps_ledger, keeps_ledger_upd, foldl_keeps_ledger, State.modPort_keeps_ledger,
      State.eachPort_keeps_ledger, apply_ite State.ledger, ite_self, implies_true]

theorem State.startTrial_keeps_ledger (s : State) : (State.startTrial s).ledger = s.ledger := by
  simp only [State.startTrial, keeps_ledger_upd, foldl_keeps_ledger, State.modPort_keeps_ledger,
      State.eachPort_keeps_ledger, apply_ite State.ledger, ite_self, implies_true]

theorem State.openIdle_keeps_ledger (s : State) : (State.openIdle s).ledger = s.ledger := by
  simp only [State.openIdle, State.openLoops_keeps_ledger, keeps_ledger_upd, foldl_keeps_ledger,
      State.modPort_keeps_ledger, State.eachPort_keeps_ledger, apply_ite State.ledger, ite_self,
      implies_true]

theorem State.deviceReady_keeps_ledger (s : State) : (State.deviceReady s).ledger = s.ledger := by
  simp only [State.deviceReady, State.raise_keeps_ledger, State.warmStart_keeps_ledger,
      State.applyImage_keeps_ledger, State.startTrial_keeps_ledger, State.openIdle_keeps_ledger,
      keeps_ledger_upd, foldl_keeps_ledger, State.modPort_keeps_ledger, State.eachPort_keeps_ledger,
      apply_ite State.ledger, ite_self, implies_true]

theorem State.regAccess_keeps_ledger (s : State) (p : Port) (ofs : Nat) (f : State → State)
    (h : ∀ a, (f a).ledger = a.ledger) : (State.regAccess s p ofs f).ledger = s.ledger := by
  unfold State.regAccess
  simp only []
  (repeat' split) <;> simp only [h, State.modPort_keeps_ledger]

theorem State.sendEvents_keeps_ledger (s : State) (p : Port) (l : List Nat) :
    (State.sendEvents s p l).ledger = s.ledger := by
  simp only [State.sendEvents, State.sendEvent_keeps_ledger, keeps_ledger_upd, foldl_keeps_ledger,
      State.modPort_keeps_ledger, State.eachPort_keeps_ledger, apply_ite State.ledger, ite_self,
      implies_true]

theorem State.modSel_keeps_ledger (s : State) (p : Port) (f : TraceQ → TraceQ) : (State.modSel s p f).ledger = s.ledger := by
  unfold State.modSel
  rfl

theorem State.answerRead_keeps_ledger (s : State) (p : Port) (v : BitVec 64) :
    (State.answerRead s p v).ledger = s.ledger := by
  unfold State.answerRead
  rfl

theorem State.setupWrite_keeps_ledger (s : State) (p : Port) (f : HostPort → HostPort) :
    (State.setupWrite s p f).ledger = s.ledger := by
  simp only [State.setupWrite, State.modPort_keeps_ledger, keeps_ledger_upd, foldl_keeps_ledger,
      State.modPort_keeps_ledger, State.eachPort_keeps_ledger, apply_ite State.ledger, ite_self,
      implies_true]

theorem State.regEffect_keeps_ledger (s : State) (p : Port) (ofs size : Nat) (v : BitVec 64) :
    (State.regEffect s p ofs size v).ledger = s.ledger := by
  simp only [State.regEffect, State.modPort_keeps_ledger, State.modSel_keeps_ledger,
      State.setupWrite_keeps_ledger, keeps_ledger_upd, foldl_keeps_ledger, State.modPort_keeps_ledger,
      State.eachPort_keeps_ledger, apply_ite State.ledger, ite_self, implies_true]

theorem State.railReads_keeps_ledger (s : State) (rail : Fin 7) (mv : Nat) :
    (State.railReads s rail mv).ledger = s.ledger := by
  unfold State.railReads
  rfl

theorem State.heat_keeps_ledger (s : State) (d : DieId) (temp : BitVec 16) : (State.heat s d temp).ledger = s.ledger := by
  unfold State.heat
  rfl

theorem State.portReset_keeps_ledger (s : State) (p : Port) : (State.portReset s p).ledger = s.ledger := by
  simp only [State.portReset, State.modPort_keeps_ledger, State.dropWaits_keeps_ledger,
      State.abortQueue_keeps_ledger, State.abandonOpen_keeps_ledger, keeps_ledger_upd,
      foldl_keeps_ledger, State.modPort_keeps_ledger, State.eachPort_keeps_ledger,
      apply_ite State.ledger, ite_self, implies_true]

theorem State.blkStation_keeps_ledger (s : State) (st : Stn) : (State.blkStation s st).ledger = s.ledger := by
  simp only [State.blkStation, State.modStn_keeps_ledger, State.finishAll_keeps_ledger,
      State.openLoops_keeps_ledger, State.dropWork_keeps_ledger, keeps_ledger_upd, foldl_keeps_ledger,
      State.modPort_keeps_ledger, State.eachPort_keeps_ledger, apply_ite State.ledger, ite_self,
      implies_true]

theorem State.blkControl_keeps_ledger (s : State) (d : DieId) : (State.blkControl s d).ledger = s.ledger := by
  unfold State.blkControl
  refine foldl_keeps_ledger _ (fun a st => ?_) _ _
  simp only [State.openLoops_keeps_ledger]
  split <;> simp only [State.modStn_keeps_ledger, State.finish_keeps_ledger]

theorem State.blkEnter_keeps_ledger (s : State) (kind : Nat) (d : DieId) (index : Nat) :
    (State.blkEnter s kind d index).ledger = s.ledger := by
  unfold State.blkEnter
  (repeat' split) <;> simp only [State.modDie_keeps_ledger, State.blkStation_keeps_ledger, State.blkControl_keeps_ledger,
      keeps_ledger_upd, foldl_keeps_ledger, State.modPort_keeps_ledger, State.eachPort_keeps_ledger,
      apply_ite State.ledger, ite_self, implies_true]

theorem State.quarantine_keeps_ledger (s : State) (d : DieId) (owner : Option Nat) :
    (State.quarantine s d owner).ledger = s.ledger := by
  unfold State.quarantine
  (repeat' split) <;> simp only [State.modDie_keeps_ledger, keeps_ledger_upd, foldl_keeps_ledger, State.modPort_keeps_ledger,
      State.eachPort_keeps_ledger, apply_ite State.ledger, ite_self, implies_true]

theorem State.runBlock_keeps_ledger (c : HostCmd) (s : State) : (State.runBlock c s).ledger = s.ledger := by
  simp only [State.runBlock, State.addCmd_keeps_ledger, State.blkEnter_keeps_ledger,
      State.quarantine_keeps_ledger, keeps_ledger_upd, foldl_keeps_ledger, State.modPort_keeps_ledger,
      State.eachPort_keeps_ledger, apply_ite State.ledger, ite_self, implies_true]

theorem State.blkStationBack_keeps_ledger (s : State) (st : Stn) : (State.blkStationBack s st).ledger = s.ledger := by
  unfold State.blkStationBack
  rfl

theorem State.blkControlBack_keeps_ledger (s : State) (d : DieId) : (State.blkControlBack s d).ledger = s.ledger := by
  simp only [State.blkControlBack, State.eachStn_keeps_ledger, keeps_ledger_upd, foldl_keeps_ledger,
      State.modPort_keeps_ledger, State.eachPort_keeps_ledger, apply_ite State.ledger, ite_self,
      implies_true]

theorem State.blkLeave_keeps_ledger (s : State) (b : BlkReset) : (State.blkLeave s b).ledger = s.ledger := by
  unfold State.blkLeave
  (repeat' split) <;> simp only [State.modDie_keeps_ledger, State.blkStationBack_keeps_ledger, State.blkControlBack_keeps_ledger,
      keeps_ledger_upd, foldl_keeps_ledger, State.modPort_keeps_ledger, State.eachPort_keeps_ledger,
      apply_ite State.ledger, ite_self, implies_true]

theorem State.flash_keeps_ledger (s : State) (ops : List FlashOp) : (State.flash s ops).ledger = s.ledger :=
  foldl_keeps_ledger (fun a o => a.emit (.flash o)) (fun _ _ => rfl) _ _

theorem State.portsApply_keeps_ledger (s : State) : (State.portsApply s).ledger = s.ledger := by
  unfold State.portsApply
  rfl

theorem State.startMount_keeps_ledger (r : CmdRef) (s : State) : (State.startMount r s).ledger = s.ledger := by
  unfold State.startMount
  (repeat' split) <;> simp only [State.modStn_keeps_ledger, State.modCmd_keeps_ledger, State.mountGo_keeps_ledger, keeps_ledger_upd,
      foldl_keeps_ledger, State.modPort_keeps_ledger, State.eachPort_keeps_ledger,
      apply_ite State.ledger, ite_self, implies_true]

theorem State.mountFail_keeps_ledger (s : State) (st : Stn) (r : CmdRef) (f : Ending) :
    (State.mountFail s st r f).ledger = s.ledger := by
  simp only [State.mountFail, State.finish_keeps_ledger, State.dropMount_keeps_ledger, keeps_ledger_upd,
      foldl_keeps_ledger, State.modPort_keeps_ledger, State.eachPort_keeps_ledger,
      apply_ite State.ledger, ite_self, implies_true]

theorem State.mounted_keeps_ledger (s : State) (st : Stn) (r : CmdRef) (m : Mode) (geo : List Byte) (state : Nat) (buf : List Byte) :
    (State.mounted s st r m geo state buf).ledger = s.ledger := by
  unfold State.mounted
  (repeat' split) <;> simp only [State.modStn_keeps_ledger, State.finish_keeps_ledger, State.finishWith_keeps_ledger,
      State.controlledStop_keeps_ledger, keeps_ledger_upd, foldl_keeps_ledger,
      State.modPort_keeps_ledger, State.eachPort_keeps_ledger, apply_ite State.ledger, ite_self,
      implies_true]

theorem State.mountedBlank_keeps_ledger (s : State) (st : Stn) (r : CmdRef) (k : Cmd) :
    (State.mountedBlank s st r k).ledger = s.ledger := by
  simp only [State.mountedBlank, State.modStn_keeps_ledger, State.mounted_keeps_ledger, keeps_ledger_upd,
      foldl_keeps_ledger, State.modPort_keeps_ledger, State.eachPort_keeps_ledger,
      apply_ite State.ledger, ite_self, implies_true]

theorem State.endpaperFound_keeps_ledger (s : State) (st : Stn) (r : CmdRef) (k : Cmd) (g : RGath) :
    (State.endpaperFound s st r k g).ledger = s.ledger := by
  unfold State.endpaperFound
  (repeat' split) <;> first
    | with_reducible rfl
    | (simp only [State.raise_keeps_ledger, State.addJob_keeps_ledger, State.mountFail_keeps_ledger,
      State.mountedBlank_keeps_ledger, keeps_ledger_upd, foldl_keeps_ledger, State.modPort_keeps_ledger,
      State.eachPort_keeps_ledger, apply_ite State.ledger, ite_self, implies_true]; done)
    | (simp only [State.raise_keeps_ledger, State.addJob_keeps_ledger, State.mountFail_keeps_ledger,
      State.mountedBlank_keeps_ledger, keeps_ledger_upd, foldl_keeps_ledger, State.modPort_keeps_ledger,
      State.eachPort_keeps_ledger, apply_ite State.ledger, ite_self, implies_true]
       (repeat' split) <;> first | with_reducible rfl | simp only [State.raise_keeps_ledger, State.addJob_keeps_ledger, State.mountFail_keeps_ledger,
      State.mountedBlank_keeps_ledger, keeps_ledger_upd, foldl_keeps_ledger, State.modPort_keeps_ledger,
      State.eachPort_keeps_ledger, apply_ite State.ledger, ite_self, implies_true])

theorem State.mountOn_keeps_ledger (s : State) (st : Stn) (r : CmdRef) (k : Cmd) (v0 : VolCtx) :
    (State.mountOn s st r k v0).ledger = s.ledger := by
  simp only [State.mountOn, State.modStn_keeps_ledger, State.draw_keeps_ledger, State.modCmd_keeps_ledger,
      State.rampTo_keeps_ledger, State.aim_keeps_ledger, State.mounted_keeps_ledger, keeps_ledger_upd,
      foldl_keeps_ledger, State.modPort_keeps_ledger, State.eachPort_keeps_ledger,
      apply_ite State.ledger, ite_self, implies_true]

theorem State.endpaperPassed_keeps_ledger (s : State) (st : Stn) (r : CmdRef) (k : Cmd) (p : List Byte) :
    (State.endpaperPassed s st r k p).ledger = s.ledger := by
  simp only [State.endpaperPassed, State.modStn_keeps_ledger, State.modCmd_keeps_ledger,
      State.hold_keeps_ledger, State.controlledStop_keeps_ledger, State.openLoops_keeps_ledger,
      State.mountGo_keeps_ledger, State.mountOn_keeps_ledger, keeps_ledger_upd, foldl_keeps_ledger,
      State.modPort_keeps_ledger, State.eachPort_keeps_ledger, apply_ite State.ledger, ite_self,
      implies_true]

theorem State.mountSearch_keeps_ledger (s : State) (st : Stn) (r : CmdRef) (k : Cmd) :
    (State.mountSearch s st r k).ledger = s.ledger := by
  simp only [State.mountSearch, State.modStn_keeps_ledger, State.rampTo_keeps_ledger, State.aim_keeps_ledger,
      State.mountFail_keeps_ledger, State.mountedBlank_keeps_ledger, keeps_ledger_upd,
      foldl_keeps_ledger, State.modPort_keeps_ledger, State.eachPort_keeps_ledger,
      apply_ite State.ledger, ite_self, implies_true]

theorem State.logSpans_keeps_ledger (s : State) (st : Stn) (r : CmdRef) : (State.logSpans s st r).ledger = s.ledger := by
  unfold State.logSpans
  (repeat' split) <;> simp only [State.logErr_keeps_ledger, keeps_ledger_upd, foldl_keeps_ledger, State.modPort_keeps_ledger,
      State.eachPort_keeps_ledger, apply_ite State.ledger, ite_self, implies_true]

theorem State.rebuild_keeps_ledger (s0 : State) (st : Stn) (r : CmdRef) : (State.rebuild s0 st r).ledger = s0.ledger := by
  unfold State.rebuild
  (repeat' split) <;> first
    | with_reducible rfl
    | (simp only [State.modStn_keeps_ledger, State.writeFault_keeps_ledger, State.mountFail_keeps_ledger,
      State.mounted_keeps_ledger, State.logSpans_keeps_ledger, keeps_ledger_upd, foldl_keeps_ledger,
      State.modPort_keeps_ledger, State.eachPort_keeps_ledger, apply_ite State.ledger, ite_self,
      implies_true]; done)
    | (simp only [State.modStn_keeps_ledger, State.writeFault_keeps_ledger, State.mountFail_keeps_ledger,
      State.mounted_keeps_ledger, State.logSpans_keeps_ledger, keeps_ledger_upd, foldl_keeps_ledger,
      State.modPort_keeps_ledger, State.eachPort_keeps_ledger, apply_ite State.ledger, ite_self,
      implies_true]
       (repeat' split) <;> first | with_reducible rfl | simp only [State.modStn_keeps_ledger, State.writeFault_keeps_ledger, State.mountFail_keeps_ledger,
      State.mounted_keeps_ledger, State.logSpans_keeps_ledger, keeps_ledger_upd, foldl_keeps_ledger,
      State.modPort_keeps_ledger, State.eachPort_keeps_ledger, apply_ite State.ledger, ite_self,
      implies_true])

theorem State.makeVolume_keeps_ledger (s : State) (st : Stn) (r : CmdRef) (depth parity : Nat) (prov srcvol hlabel : List Byte) :
    (State.makeVolume s st r depth parity prov srcvol hlabel).ledger = s.ledger := by
  unfold State.makeVolume
  (repeat' split) <;> simp only [State.modStn_keeps_ledger, State.composeEndpaper_keeps_ledger, State.aim_keeps_ledger,
      keeps_ledger_upd, foldl_keeps_ledger, State.modPort_keeps_ledger, State.eachPort_keeps_ledger,
      apply_ite State.ledger, ite_self, implies_true]

theorem State.startUnmount_keeps_ledger (r : CmdRef) (s : State) : (State.startUnmount r s).ledger = s.ledger := by
  unfold State.startUnmount
  (repeat' split) <;> first
    | with_reducible rfl
    | (simp only [State.modStn_keeps_ledger, State.modCmd_keeps_ledger, State.openStation_keeps_ledger,
      State.addFlush_keeps_ledger, keeps_ledger_upd, foldl_keeps_ledger, State.modPort_keeps_ledger,
      State.eachPort_keeps_ledger, apply_ite State.ledger, ite_self, implies_true]; done)
    | (simp only [State.modStn_keeps_ledger, State.modCmd_keeps_ledger, State.openStation_keeps_ledger,
      State.addFlush_keeps_ledger, keeps_ledger_upd, foldl_keeps_ledger, State.modPort_keeps_ledger,
      State.eachPort_keeps_ledger, apply_ite State.ledger, ite_self, implies_true]
       (repeat' split) <;> first | with_reducible rfl | simp only [State.modStn_keeps_ledger, State.modCmd_keeps_ledger, State.openStation_keeps_ledger,
      State.addFlush_keeps_ledger, keeps_ledger_upd, foldl_keeps_ledger, State.modPort_keeps_ledger,
      State.eachPort_keeps_ledger, apply_ite State.ledger, ite_self, implies_true])

theorem State.modMig_keeps_ledger (s : State) (src : Stn) (f : MigJob → MigJob) :
    (State.modMig s src f).ledger = s.ledger := by
  unfold State.modMig
  rfl

theorem State.migRead_keeps_ledger (s : State) (src : Stn) (wrap : Nat) (seen : List RGath) (place : Option Nat) :
    (State.migRead s src wrap seen place).ledger = s.ledger := by
  simp only [State.migRead, State.modStn_keeps_ledger, State.wantTape_keeps_ledger,
      State.serveSeek_keeps_ledger, keeps_ledger_upd, foldl_keeps_ledger, State.modPort_keeps_ledger,
      State.eachPort_keeps_ledger, apply_ite State.ledger, ite_self, implies_true]

theorem State.migStop_keeps_ledger (s : State) (j : MigJob) (status check : Nat) (lon : Option Nat) (resume : Nat) (around : Nat × Nat) :
    (State.migStop s j status check lon resume around).ledger = s.ledger := by
  unfold State.migStop
  (repeat' split) <;> first
    | with_reducible rfl
    | (simp only [State.migHalt_keeps_ledger, keeps_ledger_upd, foldl_keeps_ledger, State.modPort_keeps_ledger,
      State.eachPort_keeps_ledger, apply_ite State.ledger, ite_self, implies_true]; done)
    | (simp only [State.migHalt_keeps_ledger, keeps_ledger_upd, foldl_keeps_ledger, State.modPort_keeps_ledger,
      State.eachPort_keeps_ledger, apply_ite State.ledger, ite_self, implies_true]
       (repeat' split) <;> first | with_reducible rfl | simp only [State.migHalt_keeps_ledger, keeps_ledger_upd, foldl_keeps_ledger, State.modPort_keeps_ledger,
      State.eachPort_keeps_ledger, apply_ite State.ledger, ite_self, implies_true])

theorem State.migGive_keeps_ledger (s : State) (j : MigJob) (lon : Nat) (data : Option (List Byte)) :
    (State.migGive s j lon data).ledger = s.ledger := by
  unfold State.migGive
  (repeat' split) <;> simp only [State.modStn_keeps_ledger, State.addJob_keeps_ledger, State.settle_keeps_ledger, keeps_ledger_upd,
      foldl_keeps_ledger, State.modPort_keeps_ledger, State.eachPort_keeps_ledger,
      apply_ite State.ledger, ite_self, implies_true]

theorem State.logSealer_keeps_ledger (s : State) (st : Stn) (r : CmdRef) : (State.logSealer s st r).ledger = s.ledger := by
  unfold State.logSealer
  (repeat' split) <;> first
    | with_reducible rfl
    | (simp only [State.logErr_keeps_ledger, keeps_ledger_upd, foldl_keeps_ledger, State.modPort_keeps_ledger,
      State.eachPort_keeps_ledger, apply_ite State.ledger, ite_self, implies_true]; done)
    | (simp only [State.logErr_keeps_ledger, keeps_ledger_upd, foldl_keeps_ledger, State.modPort_keeps_ledger,
      State.eachPort_keeps_ledger, apply_ite State.ledger, ite_self, implies_true]
       (repeat' split) <;> first | with_reducible rfl | simp only [State.logErr_keeps_ledger, keeps_ledger_upd, foldl_keeps_ledger, State.modPort_keeps_ledger,
      State.eachPort_keeps_ledger, apply_ite State.ledger, ite_self, implies_true])

theorem State.migFinish_keeps_ledger (s : State) (j : MigJob) : (State.migFinish s j).ledger = s.ledger := by
  unfold State.migFinish
  (repeat' split) <;> first
    | with_reducible rfl
    | (simp only [State.modStn_keeps_ledger, State.addFlush_keeps_ledger, State.endReading_keeps_ledger,
      State.logSpans_keeps_ledger, State.modMig_keeps_ledger, State.migStop_keeps_ledger,
      keeps_ledger_upd, foldl_keeps_ledger, State.modPort_keeps_ledger, State.eachPort_keeps_ledger,
      apply_ite State.ledger, ite_self, implies_true]; done)
    | (simp only [State.modStn_keeps_ledger, State.addFlush_keeps_ledger, State.endReading_keeps_ledger,
      State.logSpans_keeps_ledger, State.modMig_keeps_ledger, State.migStop_keeps_ledger,
      keeps_ledger_upd, foldl_keeps_ledger, State.modPort_keeps_ledger, State.eachPort_keeps_ledger,
      apply_ite State.ledger, ite_self, implies_true]
       (repeat' split) <;> first | with_reducible rfl | simp only [State.modStn_keeps_ledger, State.addFlush_keeps_ledger, State.endReading_keeps_ledger,
      State.logSpans_keeps_ledger, State.modMig_keeps_ledger, State.migStop_keeps_ledger,
      keeps_ledger_upd, foldl_keeps_ledger, State.modPort_keeps_ledger, State.eachPort_keeps_ledger,
      apply_ite State.ledger, ite_self, implies_true])

theorem State.handover_keeps_ledger (s : State) (src : Stn) (lon : Nat) : (State.handover s src lon).ledger = s.ledger := by
  unfold State.handover
  (repeat' split) <;> first
    | with_reducible rfl
    | (simp only [State.migStop_keeps_ledger, State.migGive_keeps_ledger, keeps_ledger_upd, foldl_keeps_ledger,
      State.modPort_keeps_ledger, State.eachPort_keeps_ledger, apply_ite State.ledger, ite_self,
      implies_true]; done)
    | (simp only [State.migStop_keeps_ledger, State.migGive_keeps_ledger, keeps_ledger_upd, foldl_keeps_ledger,
      State.modPort_keeps_ledger, State.eachPort_keeps_ledger, apply_ite State.ledger, ite_self,
      implies_true]
       (repeat' split) <;> first | with_reducible rfl | simp only [State.migStop_keeps_ledger, State.migGive_keeps_ledger, keeps_ledger_upd, foldl_keeps_ledger,
      State.modPort_keeps_ledger, State.eachPort_keeps_ledger, apply_ite State.ledger, ite_self,
      implies_true])

theorem State.giveRead_keeps_ledger (s : State) (r : CmdRef) (k : Cmd) (c : Checked) :
    (State.giveRead s r k c).ledger = s.ledger := by
  simp only [State.giveRead, State.finish_keeps_ledger, State.sendData_keeps_ledger,
      State.finishWith_keeps_ledger, State.take_keeps_ledger, keeps_ledger_upd, foldl_keeps_ledger,
      State.modPort_keeps_ledger, State.eachPort_keeps_ledger, apply_ite State.ledger, ite_self,
      implies_true]

theorem State.readDone_keeps_ledger (s : State) (st : Stn) (lon : Nat) : (State.readDone s st lon).ledger = s.ledger := by
  simp only [State.readDone, State.verifyRec_keeps_ledger, State.verifyNext_keeps_ledger,
      State.count_keeps_ledger, State.endReading_keeps_ledger, State.giveRead_keeps_ledger,
      keeps_ledger_upd, foldl_keeps_ledger, State.modPort_keeps_ledger, State.eachPort_keeps_ledger,
      apply_ite State.ledger, ite_self, implies_true]

theorem State.endVerifyAll_keeps_ledger (s0 : State) (st : Stn) (r : CmdRef) (c : Cmd) :
    (State.endVerifyAll s0 st r c).ledger = s0.ledger := by
  unfold State.endVerifyAll
  (repeat' split) <;> first
    | with_reducible rfl
    | (simp only [State.logErr_keeps_ledger, State.finishWith_keeps_ledger, State.logSpans_keeps_ledger,
      State.logSealer_keeps_ledger, keeps_ledger_upd, foldl_keeps_ledger, State.modPort_keeps_ledger,
      State.eachPort_keeps_ledger, apply_ite State.ledger, ite_self, implies_true]; done)
    | (simp only [State.logErr_keeps_ledger, State.finishWith_keeps_ledger, State.logSpans_keeps_ledger,
      State.logSealer_keeps_ledger, keeps_ledger_upd, foldl_keeps_ledger, State.modPort_keeps_ledger,
      State.eachPort_keeps_ledger, apply_ite State.ledger, ite_self, implies_true]
       (repeat' split) <;> first | with_reducible rfl | simp only [State.logErr_keeps_ledger, State.finishWith_keeps_ledger, State.logSpans_keeps_ledger,
      State.logSealer_keeps_ledger, keeps_ledger_upd, foldl_keeps_ledger, State.modPort_keeps_ledger,
      State.eachPort_keeps_ledger, apply_ite State.ledger, ite_self, implies_true])

theorem State.countRows_keeps_ledger (s : State) (st : Stn) (g : RGath) (rows : List Nat) (kinds : List Nat) :
    (State.countRows s st g rows kinds).ledger = s.ledger := by
  simp only [State.countRows, State.count_keeps_ledger, keeps_ledger_upd, foldl_keeps_ledger,
      State.modPort_keeps_ledger, State.eachPort_keeps_ledger, apply_ite State.ledger, ite_self,
      implies_true]

theorem State.countC2_keeps_ledger (s : State) (st : Stn) (g : RGath) : (State.countC2 s st g).ledger = s.ledger := by
  simp only [State.countC2, State.count_keeps_ledger, State.countRows_keeps_ledger, keeps_ledger_upd,
      foldl_keeps_ledger, State.modPort_keeps_ledger, State.eachPort_keeps_ledger,
      apply_ite State.ledger, ite_self, implies_true]

theorem State.headerRead_keeps_ledger (s : State) (st : Stn) (g : RGath) : (State.headerRead s st g).ledger = s.ledger := by
  unfold State.headerRead
  (repeat' split) <;> simp only [State.modStn_keeps_ledger, State.addJob_keeps_ledger, State.readOver_keeps_ledger,
      State.endpaperFound_keeps_ledger, keeps_ledger_upd, foldl_keeps_ledger, State.modPort_keeps_ledger,
      State.eachPort_keeps_ledger, apply_ite State.ledger, ite_self, implies_true]

theorem State.decodeGath_keeps_ledger (s : State) (st : Stn) (g : RGath) : (State.decodeGath s st g).ledger = s.ledger := by
  simp only [State.decodeGath, State.modStn_keeps_ledger, State.countC2_keeps_ledger,
      State.headerRead_keeps_ledger, keeps_ledger_upd, foldl_keeps_ledger, State.modPort_keeps_ledger,
      State.eachPort_keeps_ledger, apply_ite State.ledger, ite_self, implies_true]

theorem State.reserveFault_keeps_ledger (s : State) (st : Stn) : (State.reserveFault s st).ledger = s.ledger := by
  simp only [State.reserveFault, State.modStn_keeps_ledger, State.writeFault_keeps_ledger, keeps_ledger_upd,
      foldl_keeps_ledger, State.modPort_keeps_ledger, State.eachPort_keeps_ledger,
      apply_ite State.ledger, ite_self, implies_true]

theorem State.placeTail_keeps_ledger (s : State) (st : Stn) (n : Nat) : (State.placeTail s st n).ledger = s.ledger := by
  unfold State.placeTail
  rfl

theorem State.closeEmpty_keeps_ledger (s : State) (st : Stn) : (State.closeEmpty s st).ledger = s.ledger := by
  simp only [State.closeEmpty, State.modStn_keeps_ledger, State.closeGath_keeps_ledger, keeps_ledger_upd,
      foldl_keeps_ledger, State.modPort_keeps_ledger, State.eachPort_keeps_ledger,
      apply_ite State.ledger, ite_self, implies_true]

theorem State.endFill_keeps_ledger (s : State) (st : Stn) (n : Nat) : (State.endFill s st n).ledger = s.ledger := by
  unfold State.endFill
  rfl

theorem State.resume_keeps_ledger (s : State) (st : Stn) : (State.resume s st).ledger = s.ledger := by
  unfold State.resume
  rfl

theorem State.fillResume_keeps_ledger (s : State) (st : Stn) : (State.fillResume s st).ledger = s.ledger := by
  simp only [State.fillResume, State.emit_keeps_ledger, State.capDown_keeps_ledger, State.endFill_keeps_ledger,
      State.resume_keeps_ledger, keeps_ledger_upd, foldl_keeps_ledger, State.modPort_keeps_ledger,
      State.eachPort_keeps_ledger, apply_ite State.ledger, ite_self, implies_true]

theorem State.newRun_keeps_ledger (s : State) (st : Stn) : (State.newRun s st).ledger = s.ledger := by
  unfold State.newRun
  rfl

theorem State.turnLabels_keeps_ledger (s : State) (st : Stn) (w : Nat) : (State.turnLabels s st w).ledger = s.ledger := by
  unfold State.turnLabels
  (repeat' split) <;> simp only [State.modStn_keeps_ledger, State.composeEndpaper_keeps_ledger, State.composeSpines_keeps_ledger,
      keeps_ledger_upd, foldl_keeps_ledger, State.modPort_keeps_ledger, State.eachPort_keeps_ledger,
      apply_ite State.ledger, ite_self, implies_true]

theorem State.nextWrap_keeps_ledger (s : State) (st : Stn) (stopping : Bool) :
    (State.nextWrap s st stopping).ledger = s.ledger := by
  unfold State.nextWrap
  (repeat' split) <;> first
    | with_reducible rfl
    | (simp only [State.modStn_keeps_ledger, State.giveBack_keeps_ledger, State.closeOpen_keeps_ledger,
      State.aim_keeps_ledger, State.resume_keeps_ledger, State.turnLabels_keeps_ledger, keeps_ledger_upd,
      foldl_keeps_ledger, State.modPort_keeps_ledger, State.eachPort_keeps_ledger,
      apply_ite State.ledger, ite_self, implies_true]; done)
    | (simp only [State.modStn_keeps_ledger, State.giveBack_keeps_ledger, State.closeOpen_keeps_ledger,
      State.aim_keeps_ledger, State.resume_keeps_ledger, State.turnLabels_keeps_ledger, keeps_ledger_upd,
      foldl_keeps_ledger, State.modPort_keeps_ledger, State.eachPort_keeps_ledger,
      apply_ite State.ledger, ite_self, implies_true]
       (repeat' split) <;> first | with_reducible rfl | simp only [State.modStn_keeps_ledger, State.giveBack_keeps_ledger, State.closeOpen_keeps_ledger,
      State.aim_keeps_ledger, State.resume_keeps_ledger, State.turnLabels_keeps_ledger, keeps_ledger_upd,
      foldl_keeps_ledger, State.modPort_keeps_ledger, State.eachPort_keeps_ledger,
      apply_ite State.ledger, ite_self, implies_true])

theorem State.turn_keeps_ledger (s : State) (st : Stn) : (State.turn s st).ledger = s.ledger := by
  unfold State.turn
  (repeat' split) <;> first
    | with_reducible rfl
    | (simp only [State.modStn_keeps_ledger, State.voidWriting_keeps_ledger, State.rampTo_keeps_ledger,
      State.closureFailed_keeps_ledger, State.settle_keeps_ledger, State.writeFault_keeps_ledger,
      State.nextWrap_keeps_ledger, keeps_ledger_upd, foldl_keeps_ledger, State.modPort_keeps_ledger,
      State.eachPort_keeps_ledger, apply_ite State.ledger, ite_self, implies_true]; done)
    | (simp only [State.modStn_keeps_ledger, State.voidWriting_keeps_ledger, State.rampTo_keeps_ledger,
      State.closureFailed_keeps_ledger, State.settle_keeps_ledger, State.writeFault_keeps_ledger,
      State.nextWrap_keeps_ledger, keeps_ledger_upd, foldl_keeps_ledger, State.modPort_keeps_ledger,
      State.eachPort_keeps_ledger, apply_ite State.ledger, ite_self, implies_true]
       (repeat' split) <;> first | with_reducible rfl | simp only [State.modStn_keeps_ledger, State.voidWriting_keeps_ledger, State.rampTo_keeps_ledger,
      State.closureFailed_keeps_ledger, State.settle_keeps_ledger, State.writeFault_keeps_ledger,
      State.nextWrap_keeps_ledger, keeps_ledger_upd, foldl_keeps_ledger, State.modPort_keeps_ledger,
      State.eachPort_keeps_ledger, apply_ite State.ledger, ite_self, implies_true])

theorem State.eachWriting_keeps_ledger (s : State) (f : State → Stn → State) (h : ∀ a st, (f a st).ledger = a.ledger) :
    (State.eachWriting s f).ledger = s.ledger := by
  unfold State.eachWriting
  refine foldl_keeps_ledger _ (fun a st => ?_) _ _
  split
  · rfl
  · exact h _ _

theorem State.dipResume_keeps_ledger (s : State) (st : Stn) : (State.dipResume s st).ledger = s.ledger := by
  simp only [State.dipResume, State.runOut_keeps_ledger, State.fillResume_keeps_ledger, keeps_ledger_upd,
      foldl_keeps_ledger, State.modPort_keeps_ledger, State.eachPort_keeps_ledger,
      apply_ite State.ledger, ite_self, implies_true]

theorem State.setCap_keeps_ledger (s : State) (c : Option Nat) : (State.setCap s c).ledger = s.ledger := by
  simp only [State.setCap, State.capDown_keeps_ledger, keeps_ledger_upd, foldl_keeps_ledger,
      State.modPort_keeps_ledger, State.eachPort_keeps_ledger, apply_ite State.ledger, ite_self,
      implies_true]

theorem State.busReads_keeps_ledger (s : State) (st : Stn) (counts : Nat) :
    (State.busReads s st counts).ledger = s.ledger := by
  unfold State.busReads
  rfl

theorem State.busLevel_keeps_ledger (s : State) (st : Stn) (mv level : Nat) (f : State → State)
    (h : ∀ a, (f a).ledger = a.ledger) : (State.busLevel s st mv level f).ledger = s.ledger := by
  unfold State.busLevel
  split
  · rfl
  · rw [h, State.raise_keeps_ledger, State.busReads_keeps_ledger]

theorem State.setBusCap_keeps_ledger (s : State) (st : Stn) (c : Option Nat) :
    (State.setBusCap s st c).ledger = s.ledger := by
  simp only [State.setBusCap, State.modStn_keeps_ledger, State.capDown_keeps_ledger, keeps_ledger_upd,
      foldl_keeps_ledger, State.modPort_keeps_ledger, State.eachPort_keeps_ledger,
      apply_ite State.ledger, ite_self, implies_true]

theorem State.busRaise_keeps_ledger (s : State) (st : Stn) : (State.busRaise s st).ledger = s.ledger := by
  unfold State.busRaise
  rfl

theorem State.testEnds_keeps_ledger (s : State) (outcome : Nat) (parts : List TestPart) :
    (State.testEnds s outcome parts).ledger = s.ledger := by
  unfold State.testEnds
  (repeat' split) <;> simp only [State.finishWith_keeps_ledger, keeps_ledger_upd, foldl_keeps_ledger, State.modPort_keeps_ledger,
      State.eachPort_keeps_ledger, apply_ite State.ledger, ite_self, implies_true]

theorem State.runTest_keeps_ledger (c : HostCmd) (parts : List TestPart) (s : State) :
    (State.runTest c parts s).ledger = s.ledger := by
  simp only [State.runTest, State.finishNew_keeps_ledger, State.launch_keeps_ledger,
      State.testEnds_keeps_ledger, keeps_ledger_upd, foldl_keeps_ledger, State.modPort_keeps_ledger,
      State.eachPort_keeps_ledger, apply_ite State.ledger, ite_self, implies_true]

theorem State.monReading_keeps_ledger (s : State) (src : BitVec 32) (v : BitVec 32) : (State.monReading s src v).ledger = s.ledger := by
  unfold State.monReading
  dsimp only
  split <;> first | rfl | exact State.heat_keeps_ledger ..

theorem State.stationHalts_keeps_ledger (s : State) (st : Stn) : (State.stationHalts s st).ledger = s.ledger := by
  simp only [State.stationHalts, State.modStn_keeps_ledger, State.raise_keeps_ledger,
      State.voidWriting_keeps_ledger, State.failStation_keeps_ledger, State.fallback_keeps_ledger,
      keeps_ledger_upd, foldl_keeps_ledger, State.modPort_keeps_ledger, State.eachPort_keeps_ledger,
      apply_ite State.ledger, ite_self, implies_true]

theorem State.halts_keeps_ledger (s : State) (k : Fin 10) (why : HaltCause) : (State.halts s k why).ledger = s.ledger := by
  simp only [State.halts, State.modStore_keeps_ledger, State.raise_keeps_ledger, State.faultDie_keeps_ledger,
      State.sealsGo_keeps_ledger, State.stationHalts_keeps_ledger, keeps_ledger_upd, foldl_keeps_ledger,
      State.modPort_keeps_ledger, State.eachPort_keeps_ledger, apply_ite State.ledger, ite_self,
      implies_true]

theorem State.readPoisoned_keeps_ledger (s : State) (a : PageAddr) (r : CmdRef) (ofs : Nat) (g : PageImg) :
    (State.readPoisoned s a r ofs g).ledger = s.ledger := by
  unfold State.readPoisoned
  (repeat' split) <;> first
    | with_reducible rfl
    | (simp only [State.finish_keeps_ledger, State.sendData_keeps_ledger, State.take_keeps_ledger,
      State.endReading_keeps_ledger, keeps_ledger_upd, foldl_keeps_ledger, State.modPort_keeps_ledger,
      State.eachPort_keeps_ledger, apply_ite State.ledger, ite_self, implies_true]; done)
    | (simp only [State.finish_keeps_ledger, State.sendData_keeps_ledger, State.take_keeps_ledger,
      State.endReading_keeps_ledger, keeps_ledger_upd, foldl_keeps_ledger, State.modPort_keeps_ledger,
      State.eachPort_keeps_ledger, apply_ite State.ledger, ite_self, implies_true]
       (repeat' split) <;> first | with_reducible rfl | simp only [State.finish_keeps_ledger, State.sendData_keeps_ledger, State.take_keeps_ledger,
      State.endReading_keeps_ledger, keeps_ledger_upd, foldl_keeps_ledger, State.modPort_keeps_ledger,
      State.eachPort_keeps_ledger, apply_ite State.ledger, ite_self, implies_true])

theorem State.consume_keeps_ledger (s : State) (a : PageAddr) (g : PageImg) (c : Consumer) :
    (State.consume s a g c).ledger = s.ledger := by
  unfold State.consume
  (repeat' split) <;> simp only [State.modStn_keeps_ledger, State.raise_keeps_ledger, State.dropWord_keeps_ledger,
      State.setPage_keeps_ledger, State.readPage_keeps_ledger, State.modCmd_keeps_ledger,
      State.abandonRec_keeps_ledger, State.sendAdmin_keeps_ledger, State.settle_keeps_ledger,
      State.modRec_keeps_ledger, State.loseContext_keeps_ledger, State.burnReleased_keeps_ledger,
      State.migStop_keeps_ledger, State.readPoisoned_keeps_ledger, keeps_ledger_upd, foldl_keeps_ledger,
      State.modPort_keeps_ledger, State.eachPort_keeps_ledger, apply_ite State.ledger, ite_self,
      implies_true]

theorem State.mountReads_keeps_ledger (s : State) (st : Stn) (r : CmdRef) : (State.mountReads s st r).ledger = s.ledger := by
  unfold State.mountReads
  rfl

theorem State.recallFails_keeps_ledger (s : State) (st : Stn) (hit : Cmd → Bool) (forMig : Bool) (lon n : Nat) :
    (State.recallFails s st hit forMig lon n).ledger = s.ledger := by
  unfold State.recallFails
  (repeat' split) <;> first
    | with_reducible rfl
    | (simp only [State.finishAll_keeps_ledger, State.endReading_keeps_ledger, State.migStop_keeps_ledger,
      keeps_ledger_upd, foldl_keeps_ledger, State.modPort_keeps_ledger, State.eachPort_keeps_ledger,
      apply_ite State.ledger, ite_self, implies_true]; done)
    | (simp only [State.finishAll_keeps_ledger, State.endReading_keeps_ledger, State.migStop_keeps_ledger,
      keeps_ledger_upd, foldl_keeps_ledger, State.modPort_keeps_ledger, State.eachPort_keeps_ledger,
      apply_ite State.ledger, ite_self, implies_true]
       (repeat' split) <;> first | with_reducible rfl | simp only [State.finishAll_keeps_ledger, State.endReading_keeps_ledger, State.migStop_keeps_ledger,
      keeps_ledger_upd, foldl_keeps_ledger, State.modPort_keeps_ledger, State.eachPort_keeps_ledger,
      apply_ite State.ledger, ite_self, implies_true])

theorem State.labelFails_keeps_ledger (s : State) (st : Stn) (gnum n : Nat) :
    (State.labelFails s st gnum n).ledger = s.ledger := by
  unfold State.labelFails
  (repeat' split) <;> first
    | with_reducible rfl
    | (simp only [State.modStn_keeps_ledger, State.finish_keeps_ledger, State.migStop_keeps_ledger, keeps_ledger_upd,
      foldl_keeps_ledger, State.modPort_keeps_ledger, State.eachPort_keeps_ledger,
      apply_ite State.ledger, ite_self, implies_true]; done)
    | (simp only [State.modStn_keeps_ledger, State.finish_keeps_ledger, State.migStop_keeps_ledger, keeps_ledger_upd,
      foldl_keeps_ledger, State.modPort_keeps_ledger, State.eachPort_keeps_ledger,
      apply_ite State.ledger, ite_self, implies_true]
       (repeat' split) <;> first | with_reducible rfl | simp only [State.modStn_keeps_ledger, State.finish_keeps_ledger, State.migStop_keeps_ledger, keeps_ledger_upd,
      foldl_keeps_ledger, State.modPort_keeps_ledger, State.eachPort_keeps_ledger,
      apply_ite State.ledger, ite_self, implies_true])

theorem State.jobFails_keeps_ledger (s : State) (j : Job) (n : Nat) : (State.jobFails s j n).ledger = s.ledger := by
  unfold State.jobFails
  (repeat' split) <;> first
    | with_reducible rfl
    | (simp only [State.finish_keeps_ledger, State.finishAll_keeps_ledger, State.dropJobs_keeps_ledger,
      State.burnFrom_keeps_ledger, State.abandonRec_keeps_ledger, State.settle_keeps_ledger,
      State.sealGo_keeps_ledger, State.untakeAppend_keeps_ledger, State.mountFail_keeps_ledger,
      State.recallFails_keeps_ledger, State.labelFails_keeps_ledger, keeps_ledger_upd,
      foldl_keeps_ledger, State.modPort_keeps_ledger, State.eachPort_keeps_ledger,
      apply_ite State.ledger, ite_self, implies_true]; done)
    | (simp only [State.finish_keeps_ledger, State.finishAll_keeps_ledger, State.dropJobs_keeps_ledger,
      State.burnFrom_keeps_ledger, State.abandonRec_keeps_ledger, State.settle_keeps_ledger,
      State.sealGo_keeps_ledger, State.untakeAppend_keeps_ledger, State.mountFail_keeps_ledger,
      State.recallFails_keeps_ledger, State.labelFails_keeps_ledger, keeps_ledger_upd,
      foldl_keeps_ledger, State.modPort_keeps_ledger, State.eachPort_keeps_ledger,
      apply_ite State.ledger, ite_self, implies_true]
       (repeat' split) <;> first | with_reducible rfl | simp only [State.finish_keeps_ledger, State.finishAll_keeps_ledger, State.dropJobs_keeps_ledger,
      State.burnFrom_keeps_ledger, State.abandonRec_keeps_ledger, State.settle_keeps_ledger,
      State.sealGo_keeps_ledger, State.untakeAppend_keeps_ledger, State.mountFail_keeps_ledger,
      State.recallFails_keeps_ledger, State.labelFails_keeps_ledger, keeps_ledger_upd,
      foldl_keeps_ledger, State.modPort_keeps_ledger, State.eachPort_keeps_ledger,
      apply_ite State.ledger, ite_self, implies_true])

theorem State.jobRefused_keeps_ledger (s : State) (j : Job) : (State.jobRefused s j).ledger = s.ledger := by
  unfold State.jobRefused
  (repeat' split) <;> simp only [State.dropJobs_keeps_ledger, State.jobFails_keeps_ledger, keeps_ledger_upd, foldl_keeps_ledger,
      State.modPort_keeps_ledger, State.eachPort_keeps_ledger, apply_ite State.ledger, ite_self,
      implies_true]

theorem State.startOver_keeps_ledger (s : State) (st : Stn) (lon : Nat) : (State.startOver s st lon).ledger = s.ledger := by
  simp only [State.startOver, State.modRec_keeps_ledger, keeps_ledger_upd, foldl_keeps_ledger,
      State.modPort_keeps_ledger, State.eachPort_keeps_ledger, apply_ite State.ledger, ite_self,
      implies_true]

theorem State.startRerun_keeps_ledger (s : State) (j : Job) : (State.startRerun s j).ledger = s.ledger := by
  unfold State.startRerun
  (repeat' split) <;> simp only [State.startOver_keeps_ledger, keeps_ledger_upd, foldl_keeps_ledger, State.modPort_keeps_ledger,
      State.eachPort_keeps_ledger, apply_ite State.ledger, ite_self, implies_true]

theorem State.fenceLane_keeps_ledger (s : State) (d : DieId) (r : Region) (lane : Nat) :
    (State.fenceLane s d r lane).ledger = s.ledger := by
  simp only [State.fenceLane, State.modDie_keeps_ledger, State.raise_keeps_ledger, State.jobFails_keeps_ledger,
      State.startRerun_keeps_ledger, keeps_ledger_upd, foldl_keeps_ledger, State.modPort_keeps_ledger,
      State.eachPort_keeps_ledger, apply_ite State.ledger, ite_self, implies_true]

theorem State.endAppend_keeps_ledger (s : State) (r : CmdRef) (k : Cmd) (lon : Nat) (hash : Option (List Byte)) :
    (State.endAppend s r k lon hash).ledger = s.ledger := by
  unfold State.endAppend
  (repeat' split) <;> simp only [State.finish_keeps_ledger, State.finishWith_keeps_ledger, keeps_ledger_upd, foldl_keeps_ledger,
      State.modPort_keeps_ledger, State.eachPort_keeps_ledger, apply_ite State.ledger, ite_self,
      implies_true]

theorem State.intake_keeps_ledger (s : State) (r : CmdRef) (data : List Byte) (ep : Bool) :
    (State.intake s r data ep).ledger = s.ledger := by
  unfold State.intake
  (repeat' split) <;> first
    | with_reducible rfl
    | (simp only [State.raise_keeps_ledger, State.finish_keeps_ledger, State.addJob_keeps_ledger,
      State.dropJobs_keeps_ledger, State.abandonRec_keeps_ledger, State.settle_keeps_ledger,
      State.count_keeps_ledger, State.modRec_keeps_ledger, State.sealGo_keeps_ledger,
      State.endAppend_keeps_ledger, keeps_ledger_upd, foldl_keeps_ledger, State.modPort_keeps_ledger,
      State.eachPort_keeps_ledger, apply_ite State.ledger, ite_self, implies_true]; done)
    | (simp only [State.raise_keeps_ledger, State.finish_keeps_ledger, State.addJob_keeps_ledger,
      State.dropJobs_keeps_ledger, State.abandonRec_keeps_ledger, State.settle_keeps_ledger,
      State.count_keeps_ledger, State.modRec_keeps_ledger, State.sealGo_keeps_ledger,
      State.endAppend_keeps_ledger, keeps_ledger_upd, foldl_keeps_ledger, State.modPort_keeps_ledger,
      State.eachPort_keeps_ledger, apply_ite State.ledger, ite_self, implies_true]
       (repeat' split) <;> first | with_reducible rfl | simp only [State.raise_keeps_ledger, State.finish_keeps_ledger, State.addJob_keeps_ledger,
      State.dropJobs_keeps_ledger, State.abandonRec_keeps_ledger, State.settle_keeps_ledger,
      State.count_keeps_ledger, State.modRec_keeps_ledger, State.sealGo_keeps_ledger,
      State.endAppend_keeps_ledger, keeps_ledger_upd, foldl_keeps_ledger, State.modPort_keeps_ledger,
      State.eachPort_keeps_ledger, apply_ite State.ledger, ite_self, implies_true])

theorem State.afterBlock_keeps_ledger (s : State) (st : Stn) (lon : Nat) : (State.afterBlock s st lon).ledger = s.ledger := by
  unfold State.afterBlock
  cases s.rec? st lon with
  | none => exact State.dropJobs_keeps_ledger ..
  | some r =>
    refine ite_keeps_ledger (State.dropJobs_keeps_ledger ..) ?_
    generalize List.find? _ _ = x
    cases x with
    | none => rfl
    | some x => exact ite_keeps_ledger (State.backToWait_keeps_ledger ..) rfl

theorem State.touch_keeps_ledger (s : State) (p : Port) : (State.touch s p).ledger = s.ledger := by
  unfold State.touch
  rfl

theorem State.badDoorbell_keeps_ledger (s : State) (p : Port) : (State.badDoorbell s p).ledger = s.ledger := by
  simp only [State.badDoorbell, State.raise_keeps_ledger, keeps_ledger_upd, foldl_keeps_ledger,
      State.modPort_keeps_ledger, State.eachPort_keeps_ledger, apply_ite State.ledger, ite_self,
      implies_true]

theorem State.unstablePool_keeps_ledger (s : State) (st : Stn) (f : BufUse → Bool) (d : DieId) (p : Fin 5) :
    (State.unstablePool s st f d p).ledger = s.ledger := by
  simp only [State.unstablePool, State.modDie_keeps_ledger, State.returnBuf_keeps_ledger, keeps_ledger_upd,
      foldl_keeps_ledger, State.modPort_keeps_ledger, State.eachPort_keeps_ledger,
      apply_ite State.ledger, ite_self, implies_true]

theorem State.unstable_keeps_ledger (s : State) (st : Stn) (f : BufUse → Bool) :
    (State.unstable s st f).ledger = s.ledger := by
  simp only [State.unstable, State.unstablePool_keeps_ledger, keeps_ledger_upd, foldl_keeps_ledger,
      State.modPort_keeps_ledger, State.eachPort_keeps_ledger, apply_ite State.ledger, ite_self,
      implies_true]

theorem State.restartJobs_keeps_ledger (s : State) (st : Stn) : (State.restartJobs s st).ledger = s.ledger := by
  unfold State.restartJobs
  (repeat' split) <;> first
    | with_reducible rfl
    | (simp only [State.addJob_keeps_ledger, keeps_ledger_upd, foldl_keeps_ledger, State.modPort_keeps_ledger,
      State.eachPort_keeps_ledger, apply_ite State.ledger, ite_self, implies_true]; done)
    | (simp only [State.addJob_keeps_ledger, keeps_ledger_upd, foldl_keeps_ledger, State.modPort_keeps_ledger,
      State.eachPort_keeps_ledger, apply_ite State.ledger, ite_self, implies_true]
       (repeat' split) <;> first | with_reducible rfl | simp only [State.addJob_keeps_ledger, keeps_ledger_upd, foldl_keeps_ledger, State.modPort_keeps_ledger,
      State.eachPort_keeps_ledger, apply_ite State.ledger, ite_self, implies_true])

theorem State.brokenFault_keeps_ledger (s : State) (st : Stn) : (State.brokenFault s st).ledger = s.ledger := by
  simp only [State.brokenFault, State.modStn_keeps_ledger, State.settle_keeps_ledger,
      State.writeFault_keeps_ledger, keeps_ledger_upd, foldl_keeps_ledger, State.modPort_keeps_ledger,
      State.eachPort_keeps_ledger, apply_ite State.ledger, ite_self, implies_true]

theorem State.unstableStn_keeps_ledger (s : State) (st : Stn) (keep : BufUse → Bool) (lose : Rec → Bool) :
    (State.unstableStn s st keep lose).1.ledger = s.ledger := by
  simp only [State.unstableStn, State.modStn_keeps_ledger, State.settle_keeps_ledger,
      State.unstable_keeps_ledger, State.restartJobs_keeps_ledger, State.brokenFault_keeps_ledger,
      keeps_ledger_upd, foldl_keeps_ledger, State.modPort_keeps_ledger, State.eachPort_keeps_ledger,
      apply_ite State.ledger, ite_self, implies_true]

theorem State.resolve_keeps_ledger (s : State) (r : CmdRef) (keep : BufUse → Bool) (lose : Rec → Bool) (forced : Bool) :
    (State.resolve s r keep lose forced).ledger = s.ledger := by
  have key : ∀ (l : List Stn) (x : State × List Nat × Bool), (l.foldl (fun (a : State × List Nat × Bool) st =>
      ((a.1.unstableStn st keep lose).1, a.2.1 ++ (a.1.unstableStn st keep lose).2.1, a.2.2 || (a.1.unstableStn st keep lose).2.2))
        x).1.ledger = x.1.ledger := fun l x =>
    foldl_fst_keeps_ledger _ (fun a st => by dsimp only; rw [State.unstableStn_keeps_ledger]) l x
  unfold State.resolve
  split
  · rfl
  · dsimp only
    refine ite_keeps_ledger ?_ ?_
    · rw [State.finish_keeps_ledger, key]
    · rw [State.finishLosses_keeps_ledger, key]

theorem State.startRecover_keeps_ledger (r : CmdRef) (s : State) : (State.startRecover r s).ledger = s.ledger := by
  simp only [State.startRecover, State.resolve_keeps_ledger, keeps_ledger_upd, foldl_keeps_ledger,
      State.modPort_keeps_ledger, State.eachPort_keeps_ledger, apply_ite State.ledger, ite_self,
      implies_true]

theorem State.startDiscard_keeps_ledger (r : CmdRef) (s : State) : (State.startDiscard r s).ledger = s.ledger := by
  simp only [State.startDiscard, State.resolve_keeps_ledger, keeps_ledger_upd, foldl_keeps_ledger,
      State.modPort_keeps_ledger, State.eachPort_keeps_ledger, apply_ite State.ledger, ite_self,
      implies_true]

theorem State.volumeNumbered_keeps_ledger (s : State) (st : Stn) (r : CmdRef) :
    (State.volumeNumbered s st r).ledger = s.ledger := by
  unfold State.volumeNumbered
  (repeat' split) <;> simp only [State.makeVolume_keeps_ledger, keeps_ledger_upd, foldl_keeps_ledger, State.modPort_keeps_ledger,
      State.eachPort_keeps_ledger, apply_ite State.ledger, ite_self, implies_true]

end Sys2Proof.Machine
end

