-- ==== Sys2Proof/Laws/Anchors.lean ====
section
/-!
SUPPORT. The operations that leave what the ledger is trusted for of the package alone: one lemma for each, in the order in which they are built on
one another.
-/
set_option linter.all false

namespace Sys2Proof.Machine

/-- An update of any field that is no part of what the ledger is trusted for. -/
theorem keeps_anchors_upd (s : State) (pending : List Instr) (clock : Nat) (fresh : Nat) (out : List Out) (rst : ResetCtl) (boot : Boot) (vault : Vault) (supply : Supply) (thermal : Thermal) (pinsSet : Bool) (mem : List Host.Cell) (hbm : Vector Stack 4) (dies : Vector Die 2) (stores : Vector Store 10) (stns : Vector Station 8) (stnMap : BitVec 8) (locks : List Lock) (mntCnt : BitVec 32) (ucieDown : Bool) (migs : List MigJob) (test : Option TestRun) (power : Power) (blkRst : List BlkReset) (tap : Tap) (trial : Option SlotId) (tstate : TState) (pin : List Byte) (tpin : List Byte) (booted : Option SlotId) (rejSlot : Option SlotId) (rejReason : Nat) (lifeG : BitVec 64) (lifeB : BitVec 64) (bbox : List BlackBox) (bboxCnt : Nat) (writing : List LedgerOp) :
    State.anchors ⟨pending, clock, fresh, out, rst, ⟨s.ledger.cur, trial, tstate, s.ledger.floor, pin, tpin, booted, rejSlot, rejReason, s.ledger.volCnt, s.ledger.npfx, s.ledger.pwrCnt, lifeG, lifeB, s.ledger.retired, bbox, bboxCnt, writing⟩, boot, vault, supply, thermal, pinsSet, mem, hbm, dies, stores, s.ports, stns, stnMap, locks, mntCnt, ucieDown, migs, test, power, blkRst, tap⟩ = s.anchors := rfl

/-- A fold of operations that leave what the ledger is trusted for alone. -/
theorem foldl_keeps_anchors {β : Type} (f : State → β → State) (h : ∀ a x, (f a x).anchors = a.anchors) (l : List β) (s : State) :
    (l.foldl f s).anchors = s.anchors := by
  induction l generalizing s with
  | nil => rfl
  | cons x r ih => exact (ih _).trans (h _ _)

/-- The same of a fold that gathers something beside the state. -/
theorem foldl_fst_keeps_anchors {α β : Type} (f : State × α → β → State × α) (h : ∀ a x, (f a x).1.anchors = a.1.anchors) (l : List β)
    (a : State × α) : (l.foldl f a).1.anchors = a.1.anchors := by
  induction l generalizing a with
  | nil => rfl
  | cons x r ih => exact (ih _).trans (h _ _)

/-- A choice between two operations that leave what the ledger is trusted for alone. -/
theorem ite_keeps_anchors {c : Prop} [Decidable c] {a b s : State} (ha : a.anchors = s.anchors) (hb : b.anchors = s.anchors) :
    (if c then a else b).anchors = s.anchors := by
  split
  · exact ha
  · exact hb

theorem State.modPort_keeps_anchors (s : State) (p : Port) (f : HostPort → HostPort) : (s.modPort p f).anchors = s.anchors := rfl
theorem State.eachPort_keeps_anchors (s : State) (f : Port → HostPort → HostPort) : (s.eachPort f).anchors = s.anchors := rfl
theorem State.modDie_keeps_anchors (s : State) (d : DieId) (f : Die → Die) : (s.modDie d f).anchors = s.anchors := rfl
theorem State.modStn_keeps_anchors (s : State) (t : Stn) (f : Station → Station) : (s.modStn t f).anchors = s.anchors := rfl
theorem State.modStack_keeps_anchors (s : State) (k : Fin 4) (f : Stack → Stack) : (s.modStack k f).anchors = s.anchors := rfl
theorem State.modStore_keeps_anchors (s : State) (k : Fin 10) (f : Store → Store) : (s.modStore k f).anchors = s.anchors := rfl
theorem State.emit_keeps_anchors (s : State) (o : Out) : (s.emit o).anchors = s.anchors := rfl
theorem State.draw_keeps_anchors (s : State) : s.draw.2.anchors = s.anchors := rfl
theorem State.drawBytes_keeps_anchors (s : State) (n : Nat) : (s.drawBytes n).2.anchors = s.anchors := rfl
theorem State.eachDie_keeps_anchors (s : State) (f : DieId → Die → Die) : (s.eachDie f).anchors = s.anchors := rfl
theorem State.eachStn_keeps_anchors (s : State) (f : Stn → Station → Station) : (s.eachStn f).anchors = s.anchors := by
  unfold State.eachStn
  exact foldl_keeps_anchors (fun a t => a.modStn t (f t)) (fun _ _ => rfl) allStns s

/-- An update of any field but the ledger. -/
theorem keeps_anchors_same (s : State) (pending : List Instr) (clock : Nat) (fresh : Nat) (out : List Out) (rst : ResetCtl) (boot : Boot) (vault : Vault) (supply : Supply) (thermal : Thermal) (pinsSet : Bool) (mem : List Host.Cell) (hbm : Vector Stack 4) (dies : Vector Die 2) (stores : Vector Store 10) (stns : Vector Station 8) (stnMap : BitVec 8) (locks : List Lock) (mntCnt : BitVec 32) (ucieDown : Bool) (migs : List MigJob) (test : Option TestRun) (power : Power) (blkRst : List BlkReset) (tap : Tap) :
    State.anchors ⟨pending, clock, fresh, out, rst, s.ledger, boot, vault, supply, thermal, pinsSet, mem, hbm, dies, stores, s.ports, stns, stnMap, locks, mntCnt, ucieDown, migs, test, power, blkRst, tap⟩ = s.anchors := rfl

theorem State.raise_keeps_anchors (s : State) (n : Nat) (detail : Nat) : (State.raise s n detail).anchors = s.anchors :=
  congrArg Ledger.anchors (State.raise_keeps_ledger s n detail)

theorem State.modCmd_keeps_anchors (s : State) (r : CmdRef) (f : Cmd → Cmd) : (State.modCmd s r f).anchors = s.anchors :=
  congrArg Ledger.anchors (State.modCmd_keeps_ledger s r f)

theorem State.logErr_keeps_anchors (s : State) (p : Port) (e : CmdErr) : (State.logErr s p e).anchors = s.anchors :=
  congrArg Ledger.anchors (State.logErr_keeps_ledger s p e)

theorem State.finish_keeps_anchors (s : State) (r : CmdRef) (f : Ending) : (State.finish s r f).anchors = s.anchors :=
  congrArg Ledger.anchors (State.finish_keeps_ledger s r f)

theorem State.take_keeps_anchors (s : State) (c : HostCmd) : (State.take s c).anchors = s.anchors :=
  congrArg Ledger.anchors (State.take_keeps_ledger s c)

theorem State.addCmd_keeps_anchors (s : State) (c : HostCmd) (k : Cmd) : (State.addCmd s c k).anchors = s.anchors :=
  congrArg Ledger.anchors (State.addCmd_keeps_ledger s c k)

theorem State.addJob_keeps_anchors (s : State) (d : DieId) (r : Fin 4) (j : Job) :
    (State.addJob s d r j).anchors = s.anchors :=
  congrArg Ledger.anchors (State.addJob_keeps_ledger s d r j)

theorem State.startAdmin_keeps_anchors (r : CmdRef) (s : State) : (State.startAdmin r s).anchors = s.anchors :=
  congrArg Ledger.anchors (State.startAdmin_keeps_ledger r s)

theorem State.rampTo_keeps_anchors (s : State) (st : Stn) (why : RampFor) (mm : Nat) :
    (State.rampTo s st why mm).anchors = s.anchors :=
  congrArg Ledger.anchors (State.rampTo_keeps_ledger s st why mm)

theorem State.runBack_keeps_anchors (s : State) (st : Stn) (b : RunBack) : (State.runBack s st b).anchors = s.anchors :=
  congrArg Ledger.anchors (State.runBack_keeps_ledger s st b)

theorem State.controlledStop_keeps_anchors (s : State) (st : Stn) : (State.controlledStop s st).anchors = s.anchors :=
  congrArg Ledger.anchors (State.controlledStop_keeps_ledger s st)

theorem State.settle_keeps_anchors (s : State) (st : Stn) : (State.settle s st).anchors = s.anchors :=
  congrArg Ledger.anchors (State.settle_keeps_ledger s st)

theorem State.count_keeps_anchors (s : State) (st : Stn) (track : Nat) (kinds : List Nat) :
    (State.count s st track kinds).anchors = s.anchors :=
  congrArg Ledger.anchors (State.count_keeps_ledger s st track kinds)

theorem State.posSent_keeps_anchors (s : State) (st : Stn) (p : TxPos) : (State.posSent s st p).anchors = s.anchors := by
  unfold State.posSent
  (repeat' split) <;> first
    | with_reducible rfl
    | (simp only [State.modStn_keeps_anchors, keeps_anchors_upd, keeps_anchors_same, foldl_keeps_anchors,
      State.modPort_keeps_anchors, State.eachPort_keeps_anchors, apply_ite State.anchors, ite_self,
      implies_true]; done)
    | (simp only [State.modStn_keeps_anchors, keeps_anchors_upd, keeps_anchors_same, foldl_keeps_anchors,
      State.modPort_keeps_anchors, State.eachPort_keeps_anchors, apply_ite State.anchors, ite_self,
      implies_true]
       (repeat' split) <;> first | with_reducible rfl | simp only [State.modStn_keeps_anchors, keeps_anchors_upd, keeps_anchors_same, foldl_keeps_anchors,
      State.modPort_keeps_anchors, State.eachPort_keeps_anchors, apply_ite State.anchors, ite_self,
      implies_true])

theorem State.quiesceGate_keeps_anchors (s : State) (st : Stn) : (State.quiesceGate s st).anchors = s.anchors :=
  congrArg Ledger.anchors (State.quiesceGate_keeps_ledger s st)

theorem State.popSent_keeps_anchors (s : State) (st : Stn) : (State.popSent s st).anchors = s.anchors := by
  unfold State.popSent
  (repeat' split) <;> first
    | with_reducible rfl
    | (simp only [State.modStn_keeps_anchors, State.settle_keeps_anchors, State.posSent_keeps_anchors,
      State.quiesceGate_keeps_anchors, keeps_anchors_upd, keeps_anchors_same, foldl_keeps_anchors,
      State.modPort_keeps_anchors, State.eachPort_keeps_anchors, apply_ite State.anchors, ite_self,
      implies_true]; done)
    | (simp only [State.modStn_keeps_anchors, State.settle_keeps_anchors, State.posSent_keeps_anchors,
      State.quiesceGate_keeps_anchors, keeps_anchors_upd, keeps_anchors_same, foldl_keeps_anchors,
      State.modPort_keeps_anchors, State.eachPort_keeps_anchors, apply_ite State.anchors, ite_self,
      implies_true]
       (repeat' split) <;> first | with_reducible rfl | simp only [State.modStn_keeps_anchors, State.settle_keeps_anchors, State.posSent_keeps_anchors,
      State.quiesceGate_keeps_anchors, keeps_anchors_upd, keeps_anchors_same, foldl_keeps_anchors,
      State.modPort_keeps_anchors, State.eachPort_keeps_anchors, apply_ite State.anchors, ite_self,
      implies_true])

theorem State.txFrame_keeps_anchors (s : State) (st : Stn) (lane : Lane) (ncell : Nat) :
    (State.txFrame s st lane ncell).anchors = s.anchors := by
  simp only [State.txFrame, State.modStn_keeps_anchors, State.draw_keeps_anchors, State.emit_keeps_anchors,
      State.popSent_keeps_anchors, keeps_anchors_upd, keeps_anchors_same, foldl_keeps_anchors,
      State.modPort_keeps_anchors, State.eachPort_keeps_anchors, apply_ite State.anchors, ite_self,
      implies_true]

theorem State.aim_keeps_anchors (s : State) (st : Stn) (wrap : Nat) (ofs : Int) :
    (State.aim s st wrap ofs).anchors = s.anchors :=
  congrArg Ledger.anchors (State.aim_keeps_ledger s st wrap ofs)

theorem State.serveSeek_keeps_anchors (s : State) (st : Stn) : (State.serveSeek s st).anchors = s.anchors :=
  congrArg Ledger.anchors (State.serveSeek_keeps_ledger s st)

theorem State.startAppend_keeps_anchors (r : CmdRef) (s : State) : (State.startAppend r s).anchors = s.anchors :=
  congrArg Ledger.anchors (State.startAppend_keeps_ledger r s)

theorem State.startFlush_keeps_anchors (r : CmdRef) (s : State) : (State.startFlush r s).anchors = s.anchors :=
  congrArg Ledger.anchors (State.startFlush_keeps_ledger r s)

theorem State.startReader_keeps_anchors (r : CmdRef) (s : State) : (State.startReader r s).anchors = s.anchors :=
  congrArg Ledger.anchors (State.startReader_keeps_ledger r s)

theorem State.startSeal_keeps_anchors (r : CmdRef) (s : State) : (State.startSeal r s).anchors = s.anchors :=
  congrArg Ledger.anchors (State.startSeal_keeps_ledger r s)

theorem State.startScrub_keeps_anchors (r : CmdRef) (s : State) : (State.startScrub r s).anchors = s.anchors :=
  congrArg Ledger.anchors (State.startScrub_keeps_ledger r s)

theorem State.endReading_keeps_anchors (s : State) (st : Stn) : (State.endReading s st).anchors = s.anchors :=
  congrArg Ledger.anchors (State.endReading_keeps_ledger s st)

theorem State.blackBox_keeps_anchors (s : State) (cause detail : Nat) :
    (State.blackBox s cause detail).anchors = s.anchors := by
  simp only [State.blackBox, State.raise_keeps_anchors, State.take_keeps_anchors, keeps_anchors_upd,
      keeps_anchors_same, foldl_keeps_anchors, State.modPort_keeps_anchors, State.eachPort_keeps_anchors,
      apply_ite State.anchors, ite_self, implies_true]

theorem State.flash_keeps_anchors (s : State) (ops : List FlashOp) : (State.flash s ops).anchors = s.anchors :=
  congrArg Ledger.anchors (State.flash_keeps_ledger s ops)

theorem State.stageGo_keeps_anchors (s : State) (c : HostCmd) (data : List Byte) : (State.stageGo s c data).anchors = s.anchors := by
  unfold State.stageGo
  split
  · rfl
  · rw [State.flash_keeps_anchors]
    dsimp only [State.anchors]
    split <;> rfl

theorem State.runStage_keeps_anchors (c : HostCmd) (data : List Byte) (s : State) :
    (State.runStage c data s).anchors = s.anchors := by
  simp only [State.runStage, State.addCmd_keeps_anchors, State.stageGo_keeps_anchors, keeps_anchors_upd,
      keeps_anchors_same, foldl_keeps_anchors, State.modPort_keeps_anchors, State.eachPort_keeps_anchors,
      apply_ite State.anchors, ite_self, implies_true]

theorem State.stageCheck_keeps_anchors (s : State) (x : Staging) (w : CmdRef) (len : Nat) (read : SlotRead) :
    (State.stageCheck s x w len read).anchors = s.anchors := by
  unfold State.stageCheck
  (repeat' split) <;> simp only [State.raise_keeps_anchors, State.finish_keeps_anchors, State.flash_keeps_anchors,
      keeps_anchors_upd, keeps_anchors_same, foldl_keeps_anchors, State.modPort_keeps_anchors,
      State.eachPort_keeps_anchors, apply_ite State.anchors, ite_self, implies_true]

theorem State.runConfirm_keeps_anchors (c : HostCmd) (s : State) : (State.runConfirm c s).anchors = s.anchors := by
  simp only [State.runConfirm, State.finish_keeps_anchors, State.addCmd_keeps_anchors, keeps_anchors_upd,
      keeps_anchors_same, foldl_keeps_anchors, State.modPort_keeps_anchors, State.eachPort_keeps_anchors,
      apply_ite State.anchors, ite_self, implies_true]

theorem State.startMount_keeps_anchors (r : CmdRef) (s : State) : (State.startMount r s).anchors = s.anchors :=
  congrArg Ledger.anchors (State.startMount_keeps_ledger r s)

theorem State.mountSearch_keeps_anchors (s : State) (st : Stn) (r : CmdRef) (k : Cmd) :
    (State.mountSearch s st r k).anchors = s.anchors :=
  congrArg Ledger.anchors (State.mountSearch_keeps_ledger s st r k)

theorem State.drawVolume_keeps_anchors (s : State) (st : Stn) (r : CmdRef) :
    (State.drawVolume s st r).anchors = s.anchors := by
  simp only [State.drawVolume, State.drawBytes_keeps_anchors, keeps_anchors_upd, keeps_anchors_same,
      foldl_keeps_anchors, State.modPort_keeps_anchors, State.eachPort_keeps_anchors,
      apply_ite State.anchors, ite_self, implies_true]

theorem State.startInit_keeps_anchors (r : CmdRef) (s : State) : (State.startInit r s).anchors = s.anchors := by
  unfold State.startInit
  (repeat' split) <;> simp only [State.modStn_keeps_anchors, State.modCmd_keeps_anchors, State.finish_keeps_anchors,
      State.drawVolume_keeps_anchors, keeps_anchors_upd, keeps_anchors_same, foldl_keeps_anchors,
      State.modPort_keeps_anchors, State.eachPort_keeps_anchors, apply_ite State.anchors, ite_self,
      implies_true]

theorem State.startUnmount_keeps_anchors (r : CmdRef) (s : State) : (State.startUnmount r s).anchors = s.anchors :=
  congrArg Ledger.anchors (State.startUnmount_keeps_ledger r s)

theorem State.modMig_keeps_anchors (s : State) (src : Stn) (f : MigJob → MigJob) :
    (State.modMig s src f).anchors = s.anchors :=
  congrArg Ledger.anchors (State.modMig_keeps_ledger s src f)

theorem State.migRead_keeps_anchors (s : State) (src : Stn) (wrap : Nat) (seen : List RGath) (place : Option Nat) :
    (State.migRead s src wrap seen place).anchors = s.anchors :=
  congrArg Ledger.anchors (State.migRead_keeps_ledger s src wrap seen place)

theorem State.migStop_keeps_anchors (s : State) (j : MigJob) (status check : Nat) (lon : Option Nat) (resume : Nat) (around : Nat × Nat) :
    (State.migStop s j status check lon resume around).anchors = s.anchors :=
  congrArg Ledger.anchors (State.migStop_keeps_ledger s j status check lon resume around)

theorem State.migCreate_keeps_anchors (s : State) (j : MigJob) : (State.migCreate s j).anchors = s.anchors := by
  unfold State.migCreate
  (repeat' split) <;> simp only [State.modStn_keeps_anchors, State.controlledStop_keeps_anchors, State.drawVolume_keeps_anchors,
      State.modMig_keeps_anchors, State.migStop_keeps_anchors, keeps_anchors_upd, keeps_anchors_same,
      foldl_keeps_anchors, State.modPort_keeps_anchors, State.eachPort_keeps_anchors,
      apply_ite State.anchors, ite_self, implies_true]

theorem State.migGive_keeps_anchors (s : State) (j : MigJob) (lon : Nat) (data : Option (List Byte)) :
    (State.migGive s j lon data).anchors = s.anchors :=
  congrArg Ledger.anchors (State.migGive_keeps_ledger s j lon data)

theorem State.migBegin_keeps_anchors (s : State) (r : CmdRef) (e : Entry) (v : VolCtx) :
    (State.migBegin s r e v).anchors = s.anchors := by
  simp only [State.migBegin, State.migRead_keeps_anchors, State.migCreate_keeps_anchors, keeps_anchors_upd,
      keeps_anchors_same, foldl_keeps_anchors, State.modPort_keeps_anchors, State.eachPort_keeps_anchors,
      apply_ite State.anchors, ite_self, implies_true]

theorem State.migGoOn_keeps_anchors (s : State) (r : CmdRef) (k : Cmd) (j : MigJob) :
    (State.migGoOn s r k j).anchors = s.anchors := by
  unfold State.migGoOn
  (repeat' split) <;> simp only [State.modStn_keeps_anchors, State.logErr_keeps_anchors, State.settle_keeps_anchors,
      State.migRead_keeps_anchors, State.migCreate_keeps_anchors, State.migGive_keeps_anchors,
      keeps_anchors_upd, keeps_anchors_same, foldl_keeps_anchors, State.modPort_keeps_anchors,
      State.eachPort_keeps_anchors, apply_ite State.anchors, ite_self, implies_true]

theorem State.startMigrate_keeps_anchors (r : CmdRef) (s : State) : (State.startMigrate r s).anchors = s.anchors := by
  unfold State.startMigrate
  (repeat' split) <;> first
    | with_reducible rfl
    | (simp only [State.modCmd_keeps_anchors, State.finish_keeps_anchors, State.migBegin_keeps_anchors,
      State.migGoOn_keeps_anchors, keeps_anchors_upd, keeps_anchors_same, foldl_keeps_anchors,
      State.modPort_keeps_anchors, State.eachPort_keeps_anchors, apply_ite State.anchors, ite_self,
      implies_true]; done)
    | (simp only [State.modCmd_keeps_anchors, State.finish_keeps_anchors, State.migBegin_keeps_anchors,
      State.migGoOn_keeps_anchors, keeps_anchors_upd, keeps_anchors_same, foldl_keeps_anchors,
      State.modPort_keeps_anchors, State.eachPort_keeps_anchors, apply_ite State.anchors, ite_self,
      implies_true]
       (repeat' split) <;> first | with_reducible rfl | simp only [State.modCmd_keeps_anchors, State.finish_keeps_anchors, State.migBegin_keeps_anchors,
      State.migGoOn_keeps_anchors, keeps_anchors_upd, keeps_anchors_same, foldl_keeps_anchors,
      State.modPort_keeps_anchors, State.eachPort_keeps_anchors, apply_ite State.anchors, ite_self,
      implies_true])

theorem State.logSealer_keeps_anchors (s : State) (st : Stn) (r : CmdRef) :
    (State.logSealer s st r).anchors = s.anchors :=
  congrArg Ledger.anchors (State.logSealer_keeps_ledger s st r)

theorem State.migFinish_keeps_anchors (s : State) (j : MigJob) : (State.migFinish s j).anchors = s.anchors :=
  congrArg Ledger.anchors (State.migFinish_keeps_ledger s j)

theorem State.migGone_keeps_anchors (s : State) (j : MigJob) (t : State) (h : State.migGone s j = some t) : t.anchors = s.anchors := by
  unfold State.migGone at h
  split at h
  · cases h; exact State.migStop_keeps_anchors ..
  · cases h

theorem State.migOver_keeps_anchors (s : State) (src : Stn) : (State.migOver s src).anchors = s.anchors := by
  unfold State.migOver
  dsimp only
  (repeat' split) <;> first
    | rfl
    | exact State.migStop_keeps_anchors ..
    | exact State.migCreate_keeps_anchors ..
    | exact State.migFinish_keeps_anchors ..
    | exact State.migGone_keeps_anchors _ _ _ ‹_›

theorem State.migColophon_keeps_anchors (s : State) (src : Stn) : (State.migColophon s src).anchors = s.anchors := by
  unfold State.migColophon
  (repeat' split) <;> simp only [State.migStop_keeps_anchors, State.migCreate_keeps_anchors, State.logSealer_keeps_anchors,
      keeps_anchors_upd, keeps_anchors_same, foldl_keeps_anchors, State.modPort_keeps_anchors,
      State.eachPort_keeps_anchors, apply_ite State.anchors, ite_self, implies_true]

theorem State.verifyBounds_keeps_anchors (s : State) (st : Stn) : (State.verifyBounds s st).anchors = s.anchors := by
  unfold State.verifyBounds
  (repeat' split) <;> simp only [State.finish_keeps_anchors, keeps_anchors_upd, keeps_anchors_same, foldl_keeps_anchors,
      State.modPort_keeps_anchors, State.eachPort_keeps_anchors, apply_ite State.anchors, ite_self,
      implies_true]

theorem State.readDone_keeps_anchors (s : State) (st : Stn) (lon : Nat) : (State.readDone s st lon).anchors = s.anchors :=
  congrArg Ledger.anchors (State.readDone_keeps_ledger s st lon)

theorem State.endVerifyAll_keeps_anchors (s0 : State) (st : Stn) (r : CmdRef) (c : Cmd) :
    (State.endVerifyAll s0 st r c).anchors = s0.anchors :=
  congrArg Ledger.anchors (State.endVerifyAll_keeps_ledger s0 st r c)

theorem State.readEnd_keeps_anchors (s : State) (st : Stn) : (State.readEnd s st).anchors = s.anchors := by
  simp only [State.readEnd, State.modStn_keeps_anchors, State.controlledStop_keeps_anchors,
      State.serveSeek_keeps_anchors, State.endReading_keeps_anchors, State.migOver_keeps_anchors,
      State.endVerifyAll_keeps_anchors, keeps_anchors_upd, keeps_anchors_same, foldl_keeps_anchors,
      State.modPort_keeps_anchors, State.eachPort_keeps_anchors, apply_ite State.anchors, ite_self,
      implies_true]

theorem State.readGo_keeps_anchors (s : State) (st : Stn) (n : Nat) : (State.readGo s st n).anchors = s.anchors := by
  induction n generalizing s with
  | zero => rfl
  | succ n ih =>
    unfold State.readGo
    simp only []
    have key : ∀ (w : List Nat) (a : State), (w.foldl (fun (a : State) lon =>
        (a.addJob (dieOf st) rDecomp (Job.fresh (.decompress st lon) st a.clock)).addJob (dieOf st) rHash
          (Job.fresh (.fixity st lon) st a.clock)) a).anchors = a.anchors :=
      fun w a => foldl_keeps_anchors _ (fun _ _ => (State.addJob_keeps_anchors ..).trans (State.addJob_keeps_anchors ..)) w a
    (repeat' split) <;> first
      | with_reducible rfl
      | (rw [ih, State.readDone_keeps_anchors]; done)
      | (simp only [State.readEnd_keeps_anchors, key]; done)

theorem State.readOn_keeps_anchors (s : State) (st : Stn) : (State.readOn s st).anchors = s.anchors := by
  simp only [State.readOn, State.modStn_keeps_anchors, State.verifyBounds_keeps_anchors,
      State.readGo_keeps_anchors, keeps_anchors_upd, keeps_anchors_same, foldl_keeps_anchors,
      State.modPort_keeps_anchors, State.eachPort_keeps_anchors, apply_ite State.anchors, ite_self,
      implies_true]

theorem State.countRows_keeps_anchors (s : State) (st : Stn) (g : RGath) (rows : List Nat) (kinds : List Nat) :
    (State.countRows s st g rows kinds).anchors = s.anchors :=
  congrArg Ledger.anchors (State.countRows_keeps_ledger s st g rows kinds)

theorem State.rung3_keeps_anchors (s : State) (st : Stn) (l : List Nat) : (State.rung3 s st l).anchors = s.anchors := by
  simp only [State.rung3, State.modStn_keeps_anchors, State.runBack_keeps_anchors, State.aim_keeps_anchors,
      State.readOn_keeps_anchors, keeps_anchors_upd, keeps_anchors_same, foldl_keeps_anchors,
      State.modPort_keeps_anchors, State.eachPort_keeps_anchors, apply_ite State.anchors, ite_self,
      implies_true]

theorem State.climb_keeps_anchors (s : State) (st : Stn) (v : VolCtx) (quire : Nat) :
    (State.climb s st v quire).anchors = s.anchors := by
  unfold State.climb
  (repeat' split) <;> first
    | with_reducible rfl
    | (simp only [State.modStn_keeps_anchors, State.rung3_keeps_anchors, keeps_anchors_upd, keeps_anchors_same,
      foldl_keeps_anchors, State.modPort_keeps_anchors, State.eachPort_keeps_anchors,
      apply_ite State.anchors, ite_self, implies_true]; done)
    | (simp only [State.modStn_keeps_anchors, State.rung3_keeps_anchors, keeps_anchors_upd, keeps_anchors_same,
      foldl_keeps_anchors, State.modPort_keeps_anchors, State.eachPort_keeps_anchors,
      apply_ite State.anchors, ite_self, implies_true]
       (repeat' split) <;> first | with_reducible rfl | simp only [State.modStn_keeps_anchors, State.rung3_keeps_anchors, keeps_anchors_upd, keeps_anchors_same,
      foldl_keeps_anchors, State.modPort_keeps_anchors, State.eachPort_keeps_anchors,
      apply_ite State.anchors, ite_self, implies_true])

theorem State.decodeQuire_keeps_anchors (s : State) (st : Stn) (v : VolCtx) (quire : Nat) :
    (State.decodeQuire s st v quire).anchors = s.anchors := by
  simp only [State.decodeQuire, State.modStn_keeps_anchors, State.addJob_keeps_anchors,
      State.countRows_keeps_anchors, State.climb_keeps_anchors, keeps_anchors_upd, keeps_anchors_same,
      foldl_keeps_anchors, State.modPort_keeps_anchors, State.eachPort_keeps_anchors,
      apply_ite State.anchors, ite_self, implies_true]

theorem State.labelRead_keeps_anchors (s : State) (st : Stn) (g : RGath) : (State.labelRead s st g).anchors = s.anchors := by
  unfold State.labelRead
  (repeat' split) <;> first
    | with_reducible rfl
    | (simp only [State.modStn_keeps_anchors, State.take_keeps_anchors, State.migColophon_keeps_anchors,
      keeps_anchors_upd, keeps_anchors_same, foldl_keeps_anchors, State.modPort_keeps_anchors,
      State.eachPort_keeps_anchors, apply_ite State.anchors, ite_self, implies_true]; done)
    | (simp only [State.modStn_keeps_anchors, State.take_keeps_anchors, State.migColophon_keeps_anchors,
      keeps_anchors_upd, keeps_anchors_same, foldl_keeps_anchors, State.modPort_keeps_anchors,
      State.eachPort_keeps_anchors, apply_ite State.anchors, ite_self, implies_true]
       (repeat' split) <;> first | with_reducible rfl | simp only [State.modStn_keeps_anchors, State.take_keeps_anchors, State.migColophon_keeps_anchors,
      keeps_anchors_upd, keeps_anchors_same, foldl_keeps_anchors, State.modPort_keeps_anchors,
      State.eachPort_keeps_anchors, apply_ite State.anchors, ite_self, implies_true])

theorem State.tagFailed_keeps_anchors (s : State) (st : Stn) (g : RGath) : (State.tagFailed s st g).anchors = s.anchors := by
  unfold State.tagFailed
  (repeat' split) <;> first
    | with_reducible rfl
    | (simp only [State.modStn_keeps_anchors, State.climb_keeps_anchors, keeps_anchors_upd, keeps_anchors_same,
      foldl_keeps_anchors, State.modPort_keeps_anchors, State.eachPort_keeps_anchors,
      apply_ite State.anchors, ite_self, implies_true]; done)
    | (simp only [State.modStn_keeps_anchors, State.climb_keeps_anchors, keeps_anchors_upd, keeps_anchors_same,
      foldl_keeps_anchors, State.modPort_keeps_anchors, State.eachPort_keeps_anchors,
      apply_ite State.anchors, ite_self, implies_true]
       (repeat' split) <;> first | with_reducible rfl | simp only [State.modStn_keeps_anchors, State.climb_keeps_anchors, keeps_anchors_upd, keeps_anchors_same,
      foldl_keeps_anchors, State.modPort_keeps_anchors, State.eachPort_keeps_anchors,
      apply_ite State.anchors, ite_self, implies_true])

theorem State.recallWrapEnd_keeps_anchors (s : State) (st : Stn) : (State.recallWrapEnd s st).anchors = s.anchors := by
  unfold State.recallWrapEnd
  (repeat' split) <;> simp only [State.modStn_keeps_anchors, State.rampTo_keeps_anchors, State.controlledStop_keeps_anchors,
      State.aim_keeps_anchors, State.mountSearch_keeps_anchors, State.readOn_keeps_anchors,
      keeps_anchors_upd, keeps_anchors_same, foldl_keeps_anchors, State.modPort_keeps_anchors,
      State.eachPort_keeps_anchors, apply_ite State.anchors, ite_self, implies_true]

theorem State.startRecover_keeps_anchors (r : CmdRef) (s : State) : (State.startRecover r s).anchors = s.anchors :=
  congrArg Ledger.anchors (State.startRecover_keeps_ledger r s)

theorem State.startDiscard_keeps_anchors (r : CmdRef) (s : State) : (State.startDiscard r s).anchors = s.anchors :=
  congrArg Ledger.anchors (State.startDiscard_keeps_ledger r s)

theorem State.runWaiting_keeps_anchors (s : State) (r : CmdRef) : (State.runWaiting s r).anchors = s.anchors := by
  unfold State.runWaiting
  (repeat' split) <;> simp only [State.modCmd_keeps_anchors, State.startAdmin_keeps_anchors, State.startAppend_keeps_anchors,
      State.startFlush_keeps_anchors, State.startReader_keeps_anchors, State.startSeal_keeps_anchors,
      State.startScrub_keeps_anchors, State.startMount_keeps_anchors, State.startInit_keeps_anchors,
      State.startUnmount_keeps_anchors, State.startMigrate_keeps_anchors,
      State.startRecover_keeps_anchors, State.startDiscard_keeps_anchors, keeps_anchors_upd,
      keeps_anchors_same, foldl_keeps_anchors, State.modPort_keeps_anchors, State.eachPort_keeps_anchors,
      apply_ite State.anchors, ite_self, implies_true]

end Sys2Proof.Machine
end

