-- ==== Sys2Proof/Laws/Control.lean ====
section
/-!
SUPPORT. The operations that leave the control state of the package alone: one lemma for each, in the order in which they are built on
one another.
-/
set_option linter.all false

namespace Sys2Proof.Machine

/-- An update of any field that is no part of the control state. -/
theorem control_upd (s : State) (fresh : Nat) (out : List Out) (ledger : Ledger) (vault : Vault) (hbm : Vector Stack 4) (dies : Vector Die 2) (stns : Vector Station 8) (locks : List Lock) (mntCnt : BitVec 32) (migs : List MigJob) (power : Power) :
    State.control ⟨s.pending, s.clock, fresh, out, s.rst, ledger, s.boot, vault, s.supply, s.thermal, s.pinsSet, s.mem, hbm, dies, s.stores, s.ports, stns, s.stnMap, locks, mntCnt, s.ucieDown, migs, s.test, power, s.blkRst, s.tap⟩ = s.control := rfl

/-- A fold of operations that leave the control state alone. -/
theorem foldl_control {β : Type} (f : State → β → State) (h : ∀ a x, (f a x).control = a.control) (l : List β) (s : State) :
    (l.foldl f s).control = s.control := by
  induction l generalizing s with
  | nil => rfl
  | cons x r ih => exact (ih _).trans (h _ _)

/-- The same of a fold that gathers something beside the state. -/
theorem foldl_fst_control {α β : Type} (f : State × α → β → State × α) (h : ∀ a x, (f a x).1.control = a.1.control) (l : List β)
    (a : State × α) : (l.foldl f a).1.control = a.1.control := by
  induction l generalizing a with
  | nil => rfl
  | cons x r ih => exact (ih _).trans (h _ _)

/-- A choice between two operations that leave the control state alone. -/
theorem ite_control {c : Prop} [Decidable c] {a b s : State} (ha : a.control = s.control) (hb : b.control = s.control) :
    (if c then a else b).control = s.control := by
  split
  · exact ha
  · exact hb

/-- A change of a port that leaves its part of the view alone. -/
theorem State.modPort_control (s : State) (p : Port) (f : HostPort → HostPort) (h : ∀ x, HostPort.regs (f x) = HostPort.regs x) :
    (s.modPort p f).control = s.control := by
  simp only [State.control, State.modPort, vmod_map _ _ _ _ h]

theorem State.eachPort_control (s : State) (f : Port → HostPort → HostPort) (h : ∀ p x, HostPort.regs (f p x) = HostPort.regs x) :
    (s.eachPort f).control = s.control :=
  (State.modPort_control _ _ _ (h _)).trans (State.modPort_control _ _ _ (h _))

/-- A change of the other fields of a port. -/
theorem State.modPort_control_upd (s : State) (p : Port) (l1 : HostPort → Bool) (msixPend : HostPort → BitVec 64) (stat : HostPort → BitVec 256) (errs : HostPort → List CmdErr) (errCnt : HostPort → Nat) (qps : HostPort → List Qp) (rr : HostPort → Nat) :
    (s.modPort p fun x => ⟨x.linkUp, x.gen, x.width, l1 x, x.msixEn, x.msixMask, msixPend x, x.featAccept, x.aqEn, x.aqErr, x.aqDepth, x.aqSqBase, x.aqCqBase, stat x, x.mask, x.route, x.monSel, x.snap, x.qsel, x.underrun, x.trcHigh, x.elogDie, x.elogIdx, x.elogValid, x.elogPois, x.elogView, errs x, errCnt x, qps x, rr x⟩).control = s.control :=
  State.modPort_control _ _ _ (fun _ => rfl)

theorem State.eachPort_control_upd (s : State) (l1 : Port → HostPort → Bool) (msixPend : Port → HostPort → BitVec 64) (stat : Port → HostPort → BitVec 256) (errs : Port → HostPort → List CmdErr) (errCnt : Port → HostPort → Nat) (qps : Port → HostPort → List Qp) (rr : Port → HostPort → Nat) :
    (s.eachPort fun p x => ⟨x.linkUp, x.gen, x.width, l1 p x, x.msixEn, x.msixMask, msixPend p x, x.featAccept, x.aqEn, x.aqErr, x.aqDepth, x.aqSqBase, x.aqCqBase, stat p x, x.mask, x.route, x.monSel, x.snap, x.qsel, x.underrun, x.trcHigh, x.elogDie, x.elogIdx, x.elogValid, x.elogPois, x.elogView, errs p x, errCnt p x, qps p x, rr p x⟩).control = s.control :=
  State.eachPort_control _ _ (fun _ _ => rfl)

theorem State.modDie_control (s : State) (d : DieId) (f : Die → Die) : (s.modDie d f).control = s.control := rfl
theorem State.modStn_control (s : State) (t : Stn) (f : Station → Station) : (s.modStn t f).control = s.control := rfl
theorem State.modStack_control (s : State) (k : Fin 4) (f : Stack → Stack) : (s.modStack k f).control = s.control := rfl
theorem State.emit_control (s : State) (o : Out) : (s.emit o).control = s.control := rfl
theorem State.draw_control (s : State) : s.draw.2.control = s.control := rfl
theorem State.drawBytes_control (s : State) (n : Nat) : (s.drawBytes n).2.control = s.control := rfl
theorem State.eachDie_control (s : State) (f : DieId → Die → Die) : (s.eachDie f).control = s.control := rfl
theorem State.eachStn_control (s : State) (f : Stn → Station → Station) : (s.eachStn f).control = s.control := by
  unfold State.eachStn
  exact foldl_control (fun a t => a.modStn t (f t)) (fun _ _ => rfl) allStns s

theorem State.putTrace_control (s : State) (d : DieId) (q : Fin 4) (words : List (BitVec 64)) :
    (State.putTrace s d q words).1.control = s.control := by
  unfold State.putTrace
  (repeat' split) <;> first
    | with_reducible rfl
    | (simp only [State.modDie_control, control_upd, foldl_control, State.modPort_control_upd,
      State.eachPort_control_upd, apply_ite State.control, ite_self, implies_true]; done)
    | (simp only [State.modDie_control, control_upd, foldl_control, State.modPort_control_upd,
      State.eachPort_control_upd, apply_ite State.control, ite_self, implies_true]
       (repeat' split) <;> first | with_reducible rfl | simp only [State.modDie_control, control_upd, foldl_control, State.modPort_control_upd,
      State.eachPort_control_upd, apply_ite State.control, ite_self, implies_true])

theorem State.msix_control (s : State) (p : Port) (v : Nat) : (State.msix s p v).control = s.control := by
  simp only [State.msix, State.emit_control, control_upd, foldl_control, State.modPort_control_upd,
      State.eachPort_control_upd, apply_ite State.control, ite_self, implies_true]

theorem State.sendEvent_control (s : State) (p : Port) (n : Nat) : (State.sendEvent s p n).control = s.control := by
  unfold State.sendEvent
  (repeat' split) <;> first
    | with_reducible rfl
    | (simp only [State.msix_control, control_upd, foldl_control, State.modPort_control_upd,
      State.eachPort_control_upd, apply_ite State.control, ite_self, implies_true]; done)
    | (simp only [State.msix_control, control_upd, foldl_control, State.modPort_control_upd,
      State.eachPort_control_upd, apply_ite State.control, ite_self, implies_true]
       (repeat' split) <;> first | with_reducible rfl | simp only [State.msix_control, control_upd, foldl_control, State.modPort_control_upd,
      State.eachPort_control_upd, apply_ite State.control, ite_self, implies_true])

theorem State.raisePort_control (s : State) (p : Port) (n : Nat) : (State.raisePort s p n).control = s.control := by
  simp only [State.raisePort, State.sendEvent_control, control_upd, foldl_control, State.modPort_control_upd,
      State.eachPort_control_upd, apply_ite State.control, ite_self, implies_true]

theorem State.raise1_control (s : State) (n detail : Nat) : (State.raise1 s n detail).1.control = s.control := by
  simp only [State.raise1, State.putTrace_control, State.raisePort_control, control_upd, foldl_control,
      State.modPort_control_upd, State.eachPort_control_upd, apply_ite State.control, ite_self,
      implies_true]

theorem State.raise_control (s : State) (n : Nat) (detail : Nat) : (State.raise s n detail).control = s.control := by
  simp only [State.raise, State.raise1_control, control_upd, foldl_control, State.modPort_control_upd,
      State.eachPort_control_upd, apply_ite State.control, ite_self, implies_true]

theorem State.trace_control (s : State) (d : DieId) (q : Fin 4) (words : List (BitVec 64)) :
    (State.trace s d q words).control = s.control := by
  simp only [State.trace, State.putTrace_control, State.raise_control, control_upd, foldl_control,
      State.modPort_control_upd, State.eachPort_control_upd, apply_ite State.control, ite_self,
      implies_true]

theorem State.raiseAll_control (s : State) (l : List Nat) : (State.raiseAll s l).control = s.control := by
  simp only [State.raiseAll, State.raise_control, control_upd, foldl_control, State.modPort_control_upd,
      State.eachPort_control_upd, apply_ite State.control, ite_self, implies_true]

theorem State.dropWord_control (s : State) (d : DieId) (q : Fin 4) : (State.dropWord s d q).control = s.control := by
  simp only [State.dropWord, State.modDie_control, State.raise_control, control_upd, foldl_control,
      State.modPort_control_upd, State.eachPort_control_upd, apply_ite State.control, ite_self,
      implies_true]

theorem State.monTake_control (s : State) (d : DieId) (k : Fin 64) (v : BitVec 32) :
    (State.monTake s d k v).control = s.control := by
  simp only [State.monTake, State.modDie_control, State.raise_control, control_upd, foldl_control,
      State.modPort_control_upd, State.eachPort_control_upd, apply_ite State.control, ite_self,
      implies_true]

theorem State.elogPut_control (s : State) (d : DieId) (e : ELogEntry) : (State.elogPut s d e).control = s.control := by
  unfold State.elogPut
  rfl

theorem State.elogPage_control (s : State) (a : PageAddr) (kind bits detail : Nat) (handle : BitVec 32) (actor : Nat) :
    (State.elogPage s a kind bits detail handle actor).control = s.control := by
  unfold State.elogPage
  rfl

theorem State.feedCorrected_control (s : State) (k : Fin 4) (ch : Fin 32) (bits : Nat) :
    (State.feedCorrected s k ch bits).control = s.control := by
  unfold State.feedCorrected
  exact foldl_control _ (fun a i => by
    dsimp only
    split
    · exact State.monTake_control ..
    · rfl) _ _

theorem State.countCorrected_control (s : State) (a : PageAddr) (bits : Nat) :
    (State.countCorrected s a bits).control = s.control := by
  simp only [State.countCorrected, State.modStack_control, State.raise_control, State.feedCorrected_control,
      control_upd, foldl_control, State.modPort_control_upd, State.eachPort_control_upd,
      apply_ite State.control, ite_self, implies_true]

theorem State.schedule_control (s : State) (w : PendingWb) : (State.schedule s w).control = s.control := State.modStack_control ..

theorem State.modQp_control (s : State) (p : Port) (q : Nat) (f : Qp → Qp) : (State.modQp s p q f).control = s.control := by
  simp only [State.modQp, control_upd, foldl_control, State.modPort_control_upd, State.eachPort_control_upd,
      apply_ite State.control, ite_self, implies_true]

theorem State.modCmd_control (s : State) (r : CmdRef) (f : Cmd → Cmd) : (State.modCmd s r f).control = s.control := by
  simp only [State.modCmd, State.modQp_control, control_upd, foldl_control, State.modPort_control_upd,
      State.eachPort_control_upd, apply_ite State.control, ite_self, implies_true]

theorem State.logErr_control (s : State) (p : Port) (e : CmdErr) : (State.logErr s p e).control = s.control := by
  simp only [State.logErr, State.raise_control, control_upd, foldl_control, State.modPort_control_upd,
      State.eachPort_control_upd, apply_ite State.control, ite_self, implies_true]

theorem State.putDone_control (s : State) (p : Port) (q : Nat) (e : Entry) (at_ : Nat) (f : Ending) (log own : Bool) :
    (State.putDone s p q e at_ f log own).control = s.control := by
  simp only [State.putDone, State.modQp_control, control_upd, foldl_control, State.modPort_control_upd,
      State.eachPort_control_upd, apply_ite State.control, ite_self, implies_true]

theorem State.finishNew_control (s : State) (c : HostCmd) (f : Ending) : (State.finishNew s c f).control = s.control := by
  simp only [State.finishNew, State.logErr_control, State.putDone_control, control_upd, foldl_control,
      State.modPort_control_upd, State.eachPort_control_upd, apply_ite State.control, ite_self,
      implies_true]

theorem State.finish_control (s : State) (r : CmdRef) (f : Ending) : (State.finish s r f).control = s.control := by
  unfold State.finish
  (repeat' split) <;> simp only [State.modQp_control, State.logErr_control, State.putDone_control, control_upd, foldl_control,
      State.modPort_control_upd, State.eachPort_control_upd, apply_ite State.control, ite_self,
      implies_true]

theorem State.finishAll_control (s : State) (l : List CmdRef) (f : Ending) :
    (State.finishAll s l f).control = s.control := by
  simp only [State.finishAll, State.finish_control, control_upd, foldl_control, State.modPort_control_upd,
      State.eachPort_control_upd, apply_ite State.control, ite_self, implies_true]

theorem State.sendData_control (s : State) (p : Port) (e : Entry) (sgl : List SglEntry) (ofs : Nat) (data : List Byte) (ep : Bool) :
    (State.sendData s p e sgl ofs data ep).control = s.control :=
  foldl_control (fun a o => a.emit o) (fun _ _ => rfl) _ _

theorem State.sendResult_control (s : State) (p : Port) (e : Entry) (data : List Byte) (ep : Bool) :
    (State.sendResult s p e data ep).control = s.control := by
  simp only [State.sendResult, State.emit_control, control_upd, foldl_control, State.modPort_control_upd,
      State.eachPort_control_upd, apply_ite State.control, ite_self, implies_true]

theorem State.finishWith_control (s : State) (r : CmdRef) (f : Ending) (buf : List Byte) :
    (State.finishWith s r f buf).control = s.control := by
  unfold State.finishWith
  (repeat' split) <;> simp only [State.finish_control, State.sendResult_control, control_upd, foldl_control,
      State.modPort_control_upd, State.eachPort_control_upd, apply_ite State.control, ite_self,
      implies_true]

theorem State.unlock_control (s : State) (r : CmdRef) : (State.unlock s r).control = s.control := by
  unfold State.unlock
  rfl

theorem State.hold_control (s : State) (c : HostCmd) (why : Hold) : (State.hold s c why).control = s.control := by
  simp only [State.hold, State.modQp_control, control_upd, foldl_control, State.modPort_control_upd,
      State.eachPort_control_upd, apply_ite State.control, ite_self, implies_true]

theorem State.take_control (s : State) (c : HostCmd) : (State.take s c).control = s.control := by
  unfold State.take
  (repeat' split) <;> simp only [State.trace_control, State.modQp_control, control_upd, foldl_control, State.modPort_control_upd,
      State.eachPort_control_upd, apply_ite State.control, ite_self, implies_true]

theorem State.addCmd_control (s : State) (c : HostCmd) (k : Cmd) : (State.addCmd s c k).control = s.control := by
  simp only [State.addCmd, State.modQp_control, control_upd, foldl_control, State.modPort_control_upd,
      State.eachPort_control_upd, apply_ite State.control, ite_self, implies_true]

theorem State.host_control (s : State) (opc : Nat) (c : HostCmd) (own : State → Option Ending) (blocked : State → Option Hold)
    (run : State → State) (h : ∀ a, (run a).control = a.control) : (State.host s opc c own blocked run).control = s.control := by
  unfold State.host
  (repeat' split) <;> first
    | rfl
    | (rw [State.hold_control])
    | (rw [State.finishNew_control, State.take_control])
    | (rw [h, State.take_control])

theorem State.buildPools_control (s : State) (d : DieId) : (State.buildPools s d).control = s.control := by
  simp only [State.buildPools, State.modDie_control, State.raise_control, control_upd, foldl_control,
      State.modPort_control_upd, State.eachPort_control_upd, apply_ite State.control, ite_self,
      implies_true]

theorem State.misuse_control (s : State) (d : DieId) (owner : Nat) (handle : BitVec 32) (reason : Nat) :
    (State.misuse s d owner handle reason).control = s.control := by
  simp only [State.misuse, State.modDie_control, State.raise_control, State.elogPut_control, control_upd,
      foldl_control, State.modPort_control_upd, State.eachPort_control_upd, apply_ite State.control,
      ite_self, implies_true]

theorem State.takeBuf_control (s : State) (d : DieId) (p : Fin 5) (k : Nat) :
    (State.takeBuf s d p k).2.control = s.control := by
  unfold State.takeBuf
  rfl

theorem State.dropRemap_control (s : State) (d : DieId) (h : BitVec 32) (dpns : List Nat) :
    (State.dropRemap s d h dpns).control = s.control := by
  simp only [State.dropRemap, State.modStack_control, State.elogPage_control, control_upd, foldl_control,
      State.modPort_control_upd, State.eachPort_control_upd, apply_ite State.control, ite_self,
      implies_true]

theorem State.putBack_control (s : State) (d : DieId) (p : Fin 5) (i : Nat) :
    (State.putBack s d p i).control = s.control := by
  simp only [State.putBack, State.modDie_control, State.dropRemap_control, control_upd, foldl_control,
      State.modPort_control_upd, State.eachPort_control_upd, apply_ite State.control, ite_self,
      implies_true]

theorem State.addJob_control (s : State) (d : DieId) (r : Fin 4) (j : Job) : (State.addJob s d r j).control = s.control := by
  unfold State.addJob
  rfl

theorem State.backToWait_control (s : State) (d : DieId) (r : Fin 4) (k : JobKind) :
    (State.backToWait s d r k).control = s.control := by
  simp only [State.backToWait, State.modDie_control, control_upd, foldl_control, State.modPort_control_upd,
      State.eachPort_control_upd, apply_ite State.control, ite_self, implies_true]

theorem State.addRoom_control (s : State) (st : Stn) (lon n : Nat) : (State.addRoom s st lon n).control = s.control := by
  unfold State.addRoom
  rfl

theorem State.grantUse_control (s0 : State) (d : DieId) (h : BitVec 32) (use : PoolUse) :
    (State.grantUse s0 d h use).control = s0.control := by
  unfold State.grantUse
  (repeat' split) <;> first
    | with_reducible rfl
    | (simp only [State.modDie_control, State.modStn_control, State.modCmd_control, State.addJob_control,
      State.addRoom_control, control_upd, foldl_control, State.modPort_control_upd,
      State.eachPort_control_upd, apply_ite State.control, ite_self, implies_true]; done)
    | (simp only [State.modDie_control, State.modStn_control, State.modCmd_control, State.addJob_control,
      State.addRoom_control, control_upd, foldl_control, State.modPort_control_upd,
      State.eachPort_control_upd, apply_ite State.control, ite_self, implies_true]
       (repeat' split) <;> first | with_reducible rfl | simp only [State.modDie_control, State.modStn_control, State.modCmd_control, State.addJob_control,
      State.addRoom_control, control_upd, foldl_control, State.modPort_control_upd,
      State.eachPort_control_upd, apply_ite State.control, ite_self, implies_true])

theorem State.wake_control (s : State) (d : DieId) (p : Fin 5) : (State.wake s d p).control = s.control := by
  unfold State.wake
  (repeat' split) <;> simp only [State.modDie_control, State.takeBuf_control, State.grantUse_control, control_upd, foldl_control,
      State.modPort_control_upd, State.eachPort_control_upd, apply_ite State.control, ite_self,
      implies_true]

theorem State.wakeDue_control (s : State) (d : DieId) (p : Fin 5) : (State.wakeDue s d p).control = s.control := by
  simp only [State.wakeDue, State.modDie_control, State.wake_control, control_upd, foldl_control,
      State.modPort_control_upd, State.eachPort_control_upd, apply_ite State.control, ite_self,
      implies_true]

theorem State.returnBuf_control (s : State) (d : DieId) (p : Fin 5) (i : Nat) :
    (State.returnBuf s d p i).control = s.control := by
  simp only [State.returnBuf, State.modDie_control, State.putBack_control, State.wakeDue_control, control_upd,
      foldl_control, State.modPort_control_upd, State.eachPort_control_upd, apply_ite State.control,
      ite_self, implies_true]

theorem State.strike_control (s : State) (d : DieId) (h : BitVec 32) (owners : List Nat) (pend : Bool) :
    (State.strike s d h owners pend).control = s.control := by
  simp only [State.strike, State.modDie_control, State.returnBuf_control, control_upd, foldl_control,
      State.modPort_control_upd, State.eachPort_control_upd, apply_ite State.control, ite_self,
      implies_true]

theorem State.freeBuf_control (s : State) (d : DieId) (h : BitVec 32) : (State.freeBuf s d h).control = s.control := by
  simp only [State.freeBuf, State.strike_control, control_upd, foldl_control, State.modPort_control_upd,
      State.eachPort_control_upd, apply_ite State.control, ite_self, implies_true]

theorem State.dropWaits_control (s : State) (f : Waiter → Bool) : (State.dropWaits s f).control = s.control := by
  unfold State.dropWaits
  rfl

theorem State.logStale_control (s : State) (a : PageAddr) (h : BitVec 32) (actor : Nat) :
    (State.logStale s a h actor).control = s.control := by
  simp only [State.logStale, State.modDie_control, State.raise_control, State.elogPage_control,
      State.misuse_control, control_upd, foldl_control, State.modPort_control_upd,
      State.eachPort_control_upd, apply_ite State.control, ite_self, implies_true]

theorem State.dropQuarantine_control (s : State) (d : DieId) : (State.dropQuarantine s d).control = s.control := by
  simp only [State.dropQuarantine, State.strike_control, control_upd, foldl_control, State.modPort_control_upd,
      State.eachPort_control_upd, apply_ite State.control, ite_self, implies_true]

theorem State.dropJobs_control (s : State) (f : JobKind → Bool) : (State.dropJobs s f).control = s.control := by
  unfold State.dropJobs
  rfl

theorem State.closeGath_control (s : State) (st : Stn) (forFlush ends : Bool) :
    (State.closeGath s st forFlush ends).control = s.control := by
  unfold State.closeGath
  (repeat' split) <;> first
    | with_reducible rfl
    | (simp only [State.modStn_control, State.addJob_control, control_upd, foldl_control, State.modPort_control_upd,
      State.eachPort_control_upd, apply_ite State.control, ite_self, implies_true]; done)
    | (simp only [State.modStn_control, State.addJob_control, control_upd, foldl_control, State.modPort_control_upd,
      State.eachPort_control_upd, apply_ite State.control, ite_self, implies_true]
       (repeat' split) <;> first | with_reducible rfl | simp only [State.modStn_control, State.addJob_control, control_upd, foldl_control, State.modPort_control_upd,
      State.eachPort_control_upd, apply_ite State.control, ite_self, implies_true])

theorem State.assembleOnce_control (s : State) (st : Stn) (t : State) (h : State.assembleOnce s st = some t) :
    t.control = s.control := by
  unfold State.assembleOnce at h
  simp only [] at h
  (repeat' split at h) <;> first | (cases h; done) | (cases h; simp only [State.modStn_control, State.closeGath_control, control_upd, foldl_control,
      State.modPort_control_upd, State.eachPort_control_upd, apply_ite State.control, ite_self,
      implies_true])

theorem State.assemble_control (s : State) (st : Stn) (n : Nat) : (State.assemble s st n).control = s.control := by
  induction n generalizing s with
  | zero => rfl
  | succ n ih =>
    unfold State.assemble
    split
    · exact (ih _).trans (State.assembleOnce_control _ _ _ ‹_›)
    · rfl

theorem State.numberLabels_control (s : State) (st : Stn) : (State.numberLabels s st).control = s.control := by
  unfold State.numberLabels
  (repeat' split) <;> first
    | with_reducible rfl
    | (simp only [State.modStn_control, State.take_control, State.addJob_control, control_upd, foldl_control,
      State.modPort_control_upd, State.eachPort_control_upd, apply_ite State.control, ite_self,
      implies_true]; done)
    | (simp only [State.modStn_control, State.take_control, State.addJob_control, control_upd, foldl_control,
      State.modPort_control_upd, State.eachPort_control_upd, apply_ite State.control, ite_self,
      implies_true]
       (repeat' split) <;> first | with_reducible rfl | simp only [State.modStn_control, State.take_control, State.addJob_control, control_upd, foldl_control,
      State.modPort_control_upd, State.eachPort_control_upd, apply_ite State.control, ite_self,
      implies_true])

theorem State.assembleAll_control (s : State) (st : Stn) : (State.assembleAll s st).control = s.control := by
  unfold State.assembleAll
  (repeat' split) <;> simp only [State.assemble_control, State.numberLabels_control, control_upd, foldl_control,
      State.modPort_control_upd, State.eachPort_control_upd, apply_ite State.control, ite_self,
      implies_true]

theorem State.releaseHere_control (s : State) (st : Stn) : (State.releaseHere s st).control = s.control := by
  simp only [State.releaseHere, State.modStn_control, control_upd, foldl_control, State.modPort_control_upd,
      State.eachPort_control_upd, apply_ite State.control, ite_self, implies_true]

theorem State.giveBack_control (s : State) (st : Stn) (gone : List Gath) :
    (State.giveBack s st gone).control = s.control := by
  unfold State.giveBack
  (repeat' split) <;> first
    | with_reducible rfl
    | (simp only [State.modStn_control, State.dropJobs_control, control_upd, foldl_control,
      State.modPort_control_upd, State.eachPort_control_upd, apply_ite State.control, ite_self,
      implies_true]; done)
    | (simp only [State.modStn_control, State.dropJobs_control, control_upd, foldl_control,
      State.modPort_control_upd, State.eachPort_control_upd, apply_ite State.control, ite_self,
      implies_true]
       (repeat' split) <;> first | with_reducible rfl | simp only [State.modStn_control, State.dropJobs_control, control_upd, foldl_control,
      State.modPort_control_upd, State.eachPort_control_upd, apply_ite State.control, ite_self,
      implies_true])

theorem State.burnFrom_control (s : State) (st : Stn) (n : Nat) : (State.burnFrom s st n).control = s.control := by
  unfold State.burnFrom
  (repeat' split) <;> first
    | with_reducible rfl
    | (simp only [State.numberLabels_control, State.giveBack_control, control_upd, foldl_control,
      State.modPort_control_upd, State.eachPort_control_upd, apply_ite State.control, ite_self,
      implies_true]; done)
    | (simp only [State.numberLabels_control, State.giveBack_control, control_upd, foldl_control,
      State.modPort_control_upd, State.eachPort_control_upd, apply_ite State.control, ite_self,
      implies_true]
       (repeat' split) <;> first | with_reducible rfl | simp only [State.numberLabels_control, State.giveBack_control, control_upd, foldl_control,
      State.modPort_control_upd, State.eachPort_control_upd, apply_ite State.control, ite_self,
      implies_true])

theorem State.burnUnwritten_control (s : State) (st : Stn) : (State.burnUnwritten s st).control = s.control := by
  simp only [State.burnUnwritten, State.giveBack_control, control_upd, foldl_control, State.modPort_control_upd,
      State.eachPort_control_upd, apply_ite State.control, ite_self, implies_true]

theorem State.abandonRec_control (s : State) (st : Stn) (lon : Nat) (why : Abandon) :
    (State.abandonRec s st lon why).control = s.control := by
  unfold State.abandonRec
  (repeat' split) <;> first
    | with_reducible rfl
    | (simp only [State.modStn_control, State.dropJobs_control, State.assembleAll_control, State.burnFrom_control,
      control_upd, foldl_control, State.modPort_control_upd, State.eachPort_control_upd,
      apply_ite State.control, ite_self, implies_true]; done)
    | (simp only [State.modStn_control, State.dropJobs_control, State.assembleAll_control, State.burnFrom_control,
      control_upd, foldl_control, State.modPort_control_upd, State.eachPort_control_upd,
      apply_ite State.control, ite_self, implies_true]
       (repeat' split) <;> first | with_reducible rfl | simp only [State.modStn_control, State.dropJobs_control, State.assembleAll_control, State.burnFrom_control,
      control_upd, foldl_control, State.modPort_control_upd, State.eachPort_control_upd,
      apply_ite State.control, ite_self, implies_true])

theorem State.releaseAll_control (s : State) (st : Stn) : (State.releaseAll s st).control = s.control := by
  simp only [State.releaseAll, State.numberLabels_control, State.releaseHere_control, control_upd,
      foldl_control, State.modPort_control_upd, State.eachPort_control_upd, apply_ite State.control,
      ite_self, implies_true]

theorem State.compose_control (s : State) (st : Stn) (kind : GKind) (stream : List Byte) :
    (State.compose s st kind stream).control = s.control := by
  unfold State.compose
  (repeat' split) <;> first
    | with_reducible rfl
    | (simp only [State.modStn_control, State.numberLabels_control, control_upd, foldl_control,
      State.modPort_control_upd, State.eachPort_control_upd, apply_ite State.control, ite_self,
      implies_true]; done)
    | (simp only [State.modStn_control, State.numberLabels_control, control_upd, foldl_control,
      State.modPort_control_upd, State.eachPort_control_upd, apply_ite State.control, ite_self,
      implies_true]
       (repeat' split) <;> first | with_reducible rfl | simp only [State.modStn_control, State.numberLabels_control, control_upd, foldl_control,
      State.modPort_control_upd, State.eachPort_control_upd, apply_ite State.control, ite_self,
      implies_true])

theorem State.composeEndpaper_control (s : State) (st : Stn) : (State.composeEndpaper s st).control = s.control := by
  unfold State.composeEndpaper
  (repeat' split) <;> simp only [State.compose_control, control_upd, foldl_control, State.modPort_control_upd,
      State.eachPort_control_upd, apply_ite State.control, ite_self, implies_true]

theorem State.composeSpines_control (s : State) (st : Stn) : (State.composeSpines s st).control = s.control := by
  unfold State.composeSpines
  (repeat' split) <;> simp only [State.modStn_control, State.compose_control, control_upd, foldl_control, State.modPort_control_upd,
      State.eachPort_control_upd, apply_ite State.control, ite_self, implies_true]

theorem State.placeNext_control (s : State) (st : Stn) (ahead : Nat) : (State.placeNext s st ahead).control = s.control := by
  unfold State.placeNext
  (repeat' split) <;> first
    | with_reducible rfl
    | (simp only [State.modStn_control, control_upd, foldl_control, State.modPort_control_upd,
      State.eachPort_control_upd, apply_ite State.control, ite_self, implies_true]; done)
    | (simp only [State.modStn_control, control_upd, foldl_control, State.modPort_control_upd,
      State.eachPort_control_upd, apply_ite State.control, ite_self, implies_true]
       (repeat' split) <;> first | with_reducible rfl | simp only [State.modStn_control, control_upd, foldl_control, State.modPort_control_upd,
      State.eachPort_control_upd, apply_ite State.control, ite_self, implies_true])

theorem State.dropLost_control (s : State) (st : Stn) : (State.dropLost s st).control = s.control := by
  simp only [State.dropLost, State.dropJobs_control, control_upd, foldl_control, State.modPort_control_upd,
      State.eachPort_control_upd, apply_ite State.control, ite_self, implies_true]

theorem State.unplace_control (s : State) (st : Stn) (keep : Nat) (begun : Bool) :
    (State.unplace s st keep begun).control = s.control := by
  unfold State.unplace
  rfl

theorem State.voidWriting_control (s : State) (st : Stn) : (State.voidWriting s st).control = s.control := by
  simp only [State.voidWriting, State.modStn_control, State.unplace_control, control_upd, foldl_control,
      State.modPort_control_upd, State.eachPort_control_upd, apply_ite State.control, ite_self,
      implies_true]

theorem State.sendAdmin_control (s : State) (r : CmdRef) (ep : Bool) : (State.sendAdmin s r ep).control = s.control := by
  unfold State.sendAdmin
  (repeat' split) <;> simp only [State.finish_control, State.sendData_control, control_upd, foldl_control,
      State.modPort_control_upd, State.eachPort_control_upd, apply_ite State.control, ite_self,
      implies_true]

theorem State.startAdmin_control (r : CmdRef) (s : State) : (State.startAdmin r s).control = s.control := by
  unfold State.startAdmin
  (repeat' split) <;> simp only [State.modCmd_control, State.sendAdmin_control, control_upd, foldl_control,
      State.modPort_control_upd, State.eachPort_control_upd, apply_ite State.control, ite_self,
      implies_true]

theorem State.grantsGo_control (s : State) : (State.grantsGo s).control = s.control := by
  simp only [State.grantsGo, State.sendAdmin_control, control_upd, foldl_control, State.modPort_control_upd,
      State.eachPort_control_upd, apply_ite State.control, ite_self, implies_true]

theorem State.rampTo_control (s : State) (st : Stn) (why : RampFor) (mm : Nat) :
    (State.rampTo s st why mm).control = s.control := by
  unfold State.rampTo
  rfl

theorem State.runBack_control (s : State) (st : Stn) (b : RunBack) : (State.runBack s st b).control = s.control := by
  simp only [State.runBack, State.modStn_control, State.rampTo_control, control_upd, foldl_control,
      State.modPort_control_upd, State.eachPort_control_upd, apply_ite State.control, ite_self,
      implies_true]

theorem State.closeOpen_control (s : State) (st : Stn) : (State.closeOpen s st).control = s.control := by
  simp only [State.closeOpen, State.modStn_control, State.closeGath_control, control_upd, foldl_control,
      State.modPort_control_upd, State.eachPort_control_upd, apply_ite State.control, ite_self,
      implies_true]

theorem State.runOut_control (s : State) (st : Stn) : (State.runOut s st).control = s.control := by
  simp only [State.runOut, State.modStn_control, State.unplace_control, State.closeOpen_control, control_upd,
      foldl_control, State.modPort_control_upd, State.eachPort_control_upd, apply_ite State.control,
      ite_self, implies_true]

theorem State.controlledStop_control (s : State) (st : Stn) : (State.controlledStop s st).control = s.control := by
  simp only [State.controlledStop, State.modStn_control, State.rampTo_control, State.runOut_control,
      control_upd, foldl_control, State.modPort_control_upd, State.eachPort_control_upd,
      apply_ite State.control, ite_self, implies_true]

theorem State.hold__control (s : State) (st : Stn) : (State.hold_ s st).control = s.control := by
  simp only [State.hold_, State.modStn_control, State.hold_control, State.voidWriting_control, control_upd,
      foldl_control, State.modPort_control_upd, State.eachPort_control_upd, apply_ite State.control,
      ite_self, implies_true]

theorem State.closeLoops_control (s : State) (st : Stn) : (State.closeLoops s st).control = s.control := by
  unfold State.closeLoops
  rfl

theorem State.openLoops_control (s : State) (st : Stn) : (State.openLoops s st).control = s.control := by
  unfold State.openLoops
  rfl

theorem State.stopMigs_control (s : State) (st : Stn) : (State.stopMigs s st).control = s.control := by
  unfold State.stopMigs
  rfl

theorem State.dropWork_control (s : State) (st : Stn) : (State.dropWork s st).control = s.control := by
  unfold State.dropWork
  rfl

theorem State.failStation_control (s : State) (st : Stn) : (State.failStation s st).control = s.control := by
  simp only [State.failStation, State.finishAll_control, State.dropWork_control, control_upd, foldl_control,
      State.modPort_control_upd, State.eachPort_control_upd, apply_ite State.control, ite_self,
      implies_true]

theorem State.loseLink_control (s : State) (st : Stn) : (State.loseLink s st).control = s.control := by
  simp only [State.loseLink, State.modStn_control, State.hold__control, State.failStation_control, control_upd,
      foldl_control, State.modPort_control_upd, State.eachPort_control_upd, apply_ite State.control,
      ite_self, implies_true]

theorem State.faultStation_control (s : State) (st : Stn) (f : StnFault) :
    (State.faultStation s st f).control = s.control := by
  simp only [State.faultStation, State.modStn_control, State.hold__control, State.failStation_control,
      control_upd, foldl_control, State.modPort_control_upd, State.eachPort_control_upd,
      apply_ite State.control, ite_self, implies_true]

theorem State.faultDie_control (s : State) (d : DieId) : (State.faultDie s d).control = s.control := by
  simp only [State.faultDie, State.modDie_control, State.modStn_control, State.raise_control,
      State.finishAll_control, State.burnUnwritten_control, State.controlledStop_control,
      State.failStation_control, control_upd, foldl_control, State.modPort_control_upd,
      State.eachPort_control_upd, apply_ite State.control, ite_self, implies_true]

theorem State.startAt_control (s : State) (st : Stn) (i : Nat) : (State.startAt s st i).control = s.control := by
  simp only [State.startAt, State.modStn_control, State.draw_control, State.rampTo_control,
      State.runBack_control, control_upd, foldl_control, State.modPort_control_upd,
      State.eachPort_control_upd, apply_ite State.control, ite_self, implies_true]

theorem State.stepTo_control (s : State) (st : Stn) (i : Nat) : (State.stepTo s st i).control = s.control := by
  simp only [State.stepTo, State.modStn_control, State.rampTo_control, State.runOut_control, control_upd,
      foldl_control, State.modPort_control_upd, State.eachPort_control_upd, apply_ite State.control,
      ite_self, implies_true]

theorem State.capDown_control (s : State) (st : Stn) : (State.capDown s st).control = s.control := by
  simp only [State.capDown, State.modStn_control, State.rampTo_control, State.stepTo_control, control_upd,
      foldl_control, State.modPort_control_upd, State.eachPort_control_upd, apply_ite State.control,
      ite_self, implies_true]

theorem State.speedDecide_control (s : State) (st : Stn) : (State.speedDecide s st).control = s.control := by
  unfold State.speedDecide
  (repeat' split) <;> first
    | with_reducible rfl
    | (simp only [State.modStn_control, State.controlledStop_control, State.closeLoops_control,
      State.startAt_control, State.stepTo_control, control_upd, foldl_control, State.modPort_control_upd,
      State.eachPort_control_upd, apply_ite State.control, ite_self, implies_true]; done)
    | (simp only [State.modStn_control, State.controlledStop_control, State.closeLoops_control,
      State.startAt_control, State.stepTo_control, control_upd, foldl_control, State.modPort_control_upd,
      State.eachPort_control_upd, apply_ite State.control, ite_self, implies_true]
       (repeat' split) <;> first | with_reducible rfl | simp only [State.modStn_control, State.controlledStop_control, State.closeLoops_control,
      State.startAt_control, State.stepTo_control, control_upd, foldl_control, State.modPort_control_upd,
      State.eachPort_control_upd, apply_ite State.control, ite_self, implies_true])

theorem State.finishLosses_control (s : State) (r : CmdRef) (lost : List Nat) (result : Nat) :
    (State.finishLosses s r lost result).control = s.control := by
  unfold State.finishLosses
  (repeat' split) <;> simp only [State.logErr_control, State.finish_control, control_upd, foldl_control, State.modPort_control_upd,
      State.eachPort_control_upd, apply_ite State.control, ite_self, implies_true]

theorem State.finishSealed_control (s : State) (r : CmdRef) (lost : List Nat) (result : Nat) :
    (State.finishSealed s r lost result).control = s.control := by
  simp only [State.finishSealed, State.finish_control, State.finishLosses_control, control_upd, foldl_control,
      State.modPort_control_upd, State.eachPort_control_upd, apply_ite State.control, ite_self,
      implies_true]

theorem State.freePool_control (s : State) (st : Stn) (p : Fin 5) : (State.freePool s st p).control = s.control := by
  simp only [State.freePool, State.returnBuf_control, control_upd, foldl_control, State.modPort_control_upd,
      State.eachPort_control_upd, apply_ite State.control, ite_self, implies_true]

theorem State.freeSpent_control (s : State) (st : Stn) : (State.freeSpent s st).control = s.control := by
  simp only [State.freeSpent, State.grantsGo_control, State.freePool_control, control_upd, foldl_control,
      State.modPort_control_upd, State.eachPort_control_upd, apply_ite State.control, ite_self,
      implies_true]

theorem State.dismount_control (s : State) (st : Stn) : (State.dismount s st).control = s.control := by
  simp only [State.dismount, State.modStn_control, State.freeSpent_control, control_upd, foldl_control,
      State.modPort_control_upd, State.eachPort_control_upd, apply_ite State.control, ite_self,
      implies_true]

theorem State.openStation_control (s : State) (st : Stn) : (State.openStation s st).control = s.control := by
  unfold State.openStation
  (repeat' split) <;> first
    | with_reducible rfl
    | (simp only [State.modStn_control, State.finish_control, State.hold_control, State.controlledStop_control,
      State.openLoops_control, State.dismount_control, control_upd, foldl_control,
      State.modPort_control_upd, State.eachPort_control_upd, apply_ite State.control, ite_self,
      implies_true]; done)
    | (simp only [State.modStn_control, State.finish_control, State.hold_control, State.controlledStop_control,
      State.openLoops_control, State.dismount_control, control_upd, foldl_control,
      State.modPort_control_upd, State.eachPort_control_upd, apply_ite State.control, ite_self,
      implies_true]
       (repeat' split) <;> first | with_reducible rfl | simp only [State.modStn_control, State.finish_control, State.hold_control, State.controlledStop_control,
      State.openLoops_control, State.dismount_control, control_upd, foldl_control,
      State.modPort_control_upd, State.eachPort_control_upd, apply_ite State.control, ite_self,
      implies_true])

theorem State.endMig_control (s : State) (j : MigJob) (nrec : Nat) : (State.endMig s j nrec).control = s.control := by
  unfold State.endMig
  (repeat' split) <;> simp only [State.finishWith_control, control_upd, foldl_control, State.modPort_control_upd,
      State.eachPort_control_upd, apply_ite State.control, ite_self, implies_true]

theorem State.wantTape_control (s : State) (st : Stn) : (State.wantTape s st).control = s.control := by
  simp only [State.wantTape, State.modStn_control, State.closeLoops_control, control_upd, foldl_control,
      State.modPort_control_upd, State.eachPort_control_upd, apply_ite State.control, ite_self,
      implies_true]

theorem State.verifyOver_control (s : State) (r : CmdRef) : (State.verifyOver s r).control = s.control := by
  unfold State.verifyOver
  (repeat' split) <;> simp only [State.finishWith_control, control_upd, foldl_control, State.modPort_control_upd,
      State.eachPort_control_upd, apply_ite State.control, ite_self, implies_true]

theorem State.verifyRec_control (s : State) (r : CmdRef) (lon : Nat) (f : Ending) (hash : List Byte) :
    (State.verifyRec s r lon f hash).control = s.control := by
  unfold State.verifyRec
  (repeat' split) <;> simp only [State.modCmd_control, State.logErr_control, State.sendData_control, State.take_control,
      State.verifyOver_control, control_upd, foldl_control, State.modPort_control_upd,
      State.eachPort_control_upd, apply_ite State.control, ite_self, implies_true]

theorem State.verifyNext_control (s : State) (r : CmdRef) (n : Nat) : (State.verifyNext s r n).control = s.control := by
  induction n generalizing s with
  | zero => rfl
  | succ n ih =>
    unfold State.verifyNext
    simp only []
    (repeat' split) <;> first | rfl | (rw [ih, State.verifyRec_control])

theorem State.goReader_control (s : State) (r : CmdRef) : (State.goReader s r).control = s.control := by
  unfold State.goReader
  (repeat' split) <;> first
    | with_reducible rfl
    | (simp only [State.modCmd_control, State.finish_control, State.wantTape_control, State.verifyNext_control,
      control_upd, foldl_control, State.modPort_control_upd, State.eachPort_control_upd,
      apply_ite State.control, ite_self, implies_true]; done)
    | (simp only [State.modCmd_control, State.finish_control, State.wantTape_control, State.verifyNext_control,
      control_upd, foldl_control, State.modPort_control_upd, State.eachPort_control_upd,
      apply_ite State.control, ite_self, implies_true]
       (repeat' split) <;> first | with_reducible rfl | simp only [State.modCmd_control, State.finish_control, State.wantTape_control, State.verifyNext_control,
      control_upd, foldl_control, State.modPort_control_upd, State.eachPort_control_upd,
      apply_ite State.control, ite_self, implies_true])

theorem State.readerGo_control (s : State) (r : CmdRef) (lost : List Nat) :
    (State.readerGo s r lost).control = s.control := by
  unfold State.readerGo
  (repeat' split) <;> first
    | with_reducible rfl
    | (simp only [State.finish_control, State.goReader_control, control_upd, foldl_control,
      State.modPort_control_upd, State.eachPort_control_upd, apply_ite State.control, ite_self,
      implies_true]; done)
    | (simp only [State.finish_control, State.goReader_control, control_upd, foldl_control,
      State.modPort_control_upd, State.eachPort_control_upd, apply_ite State.control, ite_self,
      implies_true]
       (repeat' split) <;> first | with_reducible rfl | simp only [State.finish_control, State.goReader_control, control_upd, foldl_control,
      State.modPort_control_upd, State.eachPort_control_upd, apply_ite State.control, ite_self,
      implies_true])

theorem State.flushDone_control (s : State) (st : Stn) (j : FlushJob) : (State.flushDone s st j).control = s.control := by
  unfold State.flushDone
  (repeat' split) <;> simp only [State.modStn_control, State.modCmd_control, State.finishLosses_control, State.openStation_control,
      State.endMig_control, State.readerGo_control, control_upd, foldl_control,
      State.modPort_control_upd, State.eachPort_control_upd, apply_ite State.control, ite_self,
      implies_true]

theorem State.flushesDone_control (s : State) (st : Stn) (n : Nat) : (State.flushesDone s st n).control = s.control := by
  induction n generalizing s with
  | zero => rfl
  | succ n ih =>
    unfold State.flushesDone
    simp only []
    (repeat' split) <;> first | rfl | (rw [ih, State.flushDone_control]; rfl)

theorem State.flushSealed_control (s : State) (st : Stn) (lost : List Nat) (j : FlushJob) :
    (State.flushSealed s st lost j).control = s.control := by
  unfold State.flushSealed
  (repeat' split) <;> simp only [State.modCmd_control, State.finishSealed_control, State.openStation_control,
      State.readerGo_control, control_upd, foldl_control, State.modPort_control_upd,
      State.eachPort_control_upd, apply_ite State.control, ite_self, implies_true]

theorem State.closed_control (s : State) (st : Stn) (v : VolCtx) : (State.closed s st v).control = s.control := by
  unfold State.closed
  (repeat' split) <;> simp only [State.modStn_control, State.finish_control, State.controlledStop_control,
      State.finishSealed_control, State.endMig_control, State.flushSealed_control, control_upd,
      foldl_control, State.modPort_control_upd, State.eachPort_control_upd, apply_ite State.control,
      ite_self, implies_true]

theorem State.closureFailed_control (s : State) (st : Stn) : (State.closureFailed s st).control = s.control := by
  simp only [State.closureFailed, State.modStn_control, State.raise_control, State.controlledStop_control,
      State.failStation_control, control_upd, foldl_control, State.modPort_control_upd,
      State.eachPort_control_upd, apply_ite State.control, ite_self, implies_true]

theorem State.unsigned_control (s : State) (st : Stn) (v : VolCtx) : (State.unsigned s st v).control = s.control := by
  unfold State.unsigned
  (repeat' split) <;> simp only [State.modStn_control, State.finish_control, State.endMig_control, State.closureFailed_control,
      control_upd, foldl_control, State.modPort_control_upd, State.eachPort_control_upd,
      apply_ite State.control, ite_self, implies_true]

theorem State.closeOnce_control (s : State) (st : Stn) (t : State) (h : State.closeOnce s st = some t) :
    t.control = s.control := by
  unfold State.closeOnce at h
  simp only [] at h
  (repeat' split at h) <;> first | (cases h; done) | (cases h; simp only [State.modStn_control, State.drawBytes_control, State.compose_control,
      State.composeEndpaper_control, State.composeSpines_control, State.closed_control,
      State.unsigned_control, control_upd, foldl_control, State.modPort_control_upd,
      State.eachPort_control_upd, apply_ite State.control, ite_self, implies_true])

theorem State.closeAll_control (s : State) (st : Stn) (n : Nat) : (State.closeAll s st n).control = s.control := by
  induction n generalizing s with
  | zero => rfl
  | succ n ih =>
    unfold State.closeAll
    split
    · exact (ih _).trans (State.closeOnce_control _ _ _ ‹_›)
    · rfl

theorem State.settle_control (s : State) (st : Stn) : (State.settle s st).control = s.control := by
  simp only [State.settle, State.assembleAll_control, State.freeSpent_control, State.flushesDone_control,
      State.closeAll_control, control_upd, foldl_control, State.modPort_control_upd,
      State.eachPort_control_upd, apply_ite State.control, ite_self, implies_true]

theorem State.writeFault_control (s : State) (st : Stn) : (State.writeFault s st).control = s.control := by
  unfold State.writeFault
  (repeat' split) <;> first
    | with_reducible rfl
    | (simp only [State.modStn_control, State.raise_control, State.finish_control, State.dropJobs_control,
      State.burnFrom_control, State.dropLost_control, State.closed_control, State.closureFailed_control,
      State.settle_control, control_upd, foldl_control, State.modPort_control_upd,
      State.eachPort_control_upd, apply_ite State.control, ite_self, implies_true]; done)
    | (simp only [State.modStn_control, State.raise_control, State.finish_control, State.dropJobs_control,
      State.burnFrom_control, State.dropLost_control, State.closed_control, State.closureFailed_control,
      State.settle_control, control_upd, foldl_control, State.modPort_control_upd,
      State.eachPort_control_upd, apply_ite State.control, ite_self, implies_true]
       (repeat' split) <;> first | with_reducible rfl | simp only [State.modStn_control, State.raise_control, State.finish_control, State.dropJobs_control,
      State.burnFrom_control, State.dropLost_control, State.closed_control, State.closureFailed_control,
      State.settle_control, control_upd, foldl_control, State.modPort_control_upd,
      State.eachPort_control_upd, apply_ite State.control, ite_self, implies_true])

theorem State.trackDied_control (s : State) (st : Stn) (t : Track) : (State.trackDied s st t).control = s.control := by
  unfold State.trackDied
  (repeat' split) <;> first
    | with_reducible rfl
    | (simp only [State.raise_control, State.closureFailed_control, State.writeFault_control, control_upd,
      foldl_control, State.modPort_control_upd, State.eachPort_control_upd, apply_ite State.control,
      ite_self, implies_true]; done)
    | (simp only [State.raise_control, State.closureFailed_control, State.writeFault_control, control_upd,
      foldl_control, State.modPort_control_upd, State.eachPort_control_upd, apply_ite State.control,
      ite_self, implies_true]
       (repeat' split) <;> first | with_reducible rfl | simp only [State.raise_control, State.closureFailed_control, State.writeFault_control, control_upd,
      foldl_control, State.modPort_control_upd, State.eachPort_control_upd, apply_ite State.control,
      ite_self, implies_true])

theorem State.grade_control (s : State) (st : Stn) (seq : Nat) (track : Track) (g : Grade) :
    (State.grade s st seq track g).control = s.control := by
  unfold State.grade
  (repeat' split) <;> simp only [State.modStn_control, State.trackDied_control, control_upd, foldl_control,
      State.modPort_control_upd, State.eachPort_control_upd, apply_ite State.control, ite_self,
      implies_true]

theorem State.regrade_control (s : State) (x : Regrade) : (State.regrade s x).control = s.control := by
  unfold State.regrade
  (repeat' split) <;> first
    | with_reducible rfl
    | (simp only [State.modStn_control, State.grade_control, control_upd, foldl_control, State.modPort_control_upd,
      State.eachPort_control_upd, apply_ite State.control, ite_self, implies_true]; done)
    | (simp only [State.modStn_control, State.grade_control, control_upd, foldl_control, State.modPort_control_upd,
      State.eachPort_control_upd, apply_ite State.control, ite_self, implies_true]
       (repeat' split) <;> first | with_reducible rfl | simp only [State.modStn_control, State.grade_control, control_upd, foldl_control, State.modPort_control_upd,
      State.eachPort_control_upd, apply_ite State.control, ite_self, implies_true])

theorem State.madeVolume_control (s : State) (st : Stn) (c : CmdRef) (volid : List Byte) :
    (State.madeVolume s st c volid).control = s.control := by
  unfold State.madeVolume
  (repeat' split) <;> simp only [State.modStn_control, State.finishWith_control, State.wantTape_control, control_upd, foldl_control,
      State.modPort_control_upd, State.eachPort_control_upd, apply_ite State.control, ite_self,
      implies_true]

theorem State.acceptGath_control (s : State) (st : Stn) (g : Gath) : (State.acceptGath s st g).control = s.control := by
  unfold State.acceptGath
  (repeat' split) <;> first
    | with_reducible rfl
    | (simp only [State.modStn_control, State.settle_control, State.madeVolume_control, control_upd, foldl_control,
      State.modPort_control_upd, State.eachPort_control_upd, apply_ite State.control, ite_self,
      implies_true]; done)
    | (simp only [State.modStn_control, State.settle_control, State.madeVolume_control, control_upd, foldl_control,
      State.modPort_control_upd, State.eachPort_control_upd, apply_ite State.control, ite_self,
      implies_true]
       (repeat' split) <;> first | with_reducible rfl | simp only [State.modStn_control, State.settle_control, State.madeVolume_control, control_upd, foldl_control,
      State.modPort_control_upd, State.eachPort_control_upd, apply_ite State.control, ite_self,
      implies_true])

theorem State.rejectGath_control (s : State) (st : Stn) (g : Gath) : (State.rejectGath s st g).control = s.control := by
  unfold State.rejectGath
  (repeat' split) <;> first
    | with_reducible rfl
    | (simp only [State.modStn_control, State.closureFailed_control, State.settle_control, State.writeFault_control,
      control_upd, foldl_control, State.modPort_control_upd, State.eachPort_control_upd,
      apply_ite State.control, ite_self, implies_true]; done)
    | (simp only [State.modStn_control, State.closureFailed_control, State.settle_control, State.writeFault_control,
      control_upd, foldl_control, State.modPort_control_upd, State.eachPort_control_upd,
      apply_ite State.control, ite_self, implies_true]
       (repeat' split) <;> first | with_reducible rfl | simp only [State.modStn_control, State.closureFailed_control, State.settle_control, State.writeFault_control,
      control_upd, foldl_control, State.modPort_control_upd, State.eachPort_control_upd,
      apply_ite State.control, ite_self, implies_true])

theorem State.acceptance_control (s : State) (st : Stn) (gnum : Nat) : (State.acceptance s st gnum).control = s.control := by
  unfold State.acceptance
  (repeat' split) <;> first
    | with_reducible rfl
    | (simp only [State.acceptGath_control, State.rejectGath_control, control_upd, foldl_control,
      State.modPort_control_upd, State.eachPort_control_upd, apply_ite State.control, ite_self,
      implies_true]; done)
    | (simp only [State.acceptGath_control, State.rejectGath_control, control_upd, foldl_control,
      State.modPort_control_upd, State.eachPort_control_upd, apply_ite State.control, ite_self,
      implies_true]
       (repeat' split) <;> first | with_reducible rfl | simp only [State.acceptGath_control, State.rejectGath_control, control_upd, foldl_control,
      State.modPort_control_upd, State.eachPort_control_upd, apply_ite State.control, ite_self,
      implies_true])

theorem State.count_control (s : State) (st : Stn) (track : Nat) (kinds : List Nat) :
    (State.count s st track kinds).control = s.control := by
  unfold State.count
  rfl

theorem State.readOver_control (s : State) (st : Stn) (ord num : Nat) :
    (State.readOver s st ord num).control = s.control := by
  simp only [State.readOver, State.modStn_control, State.controlledStop_control, control_upd, foldl_control,
      State.modPort_control_upd, State.eachPort_control_upd, apply_ite State.control, ite_self,
      implies_true]

theorem State.tailRead_control (s : State) (st : Stn) (p : RxPos) (low i : Nat) :
    (State.tailRead s st p low i).control = s.control := by
  simp only [State.tailRead, State.modStn_control, control_upd, foldl_control, State.modPort_control_upd,
      State.eachPort_control_upd, apply_ite State.control, ite_self, implies_true]

theorem State.gathRow_control (s : State) (st : Stn) (p : RxPos) (gnum : Nat) (kind : GKind) (i : Nat) (t : Track) (syms : List Nat) (r : RRow) :
    (State.gathRow s st p gnum kind i t syms r).control = s.control := by
  simp only [State.gathRow, State.modStn_control, State.readOver_control, control_upd, foldl_control,
      State.modPort_control_upd, State.eachPort_control_upd, apply_ite State.control, ite_self,
      implies_true]

theorem State.recallRow_control (s : State) (st : Stn) (p : RxPos) (t : Track) (syms : List Nat) (load : Nat) (id : Option RowId) :
    (State.recallRow s st p t syms load id).control = s.control := by
  unfold State.recallRow
  (repeat' split) <;> simp only [State.modStn_control, State.raise_control, State.tailRead_control, State.gathRow_control,
      control_upd, foldl_control, State.modPort_control_upd, State.eachPort_control_upd,
      apply_ite State.control, ite_self, implies_true]

theorem State.tailOver_control (s : State) (st : Stn) : (State.tailOver s st).control = s.control := by
  simp only [State.tailOver, State.modStn_control, State.controlledStop_control, control_upd, foldl_control,
      State.modPort_control_upd, State.eachPort_control_upd, apply_ite State.control, ite_self,
      implies_true]

theorem State.rowDone_control (s : State) (st : Stn) (pos : Nat) (t : Track) (o : RowOut) (rung : Nat) :
    (State.rowDone s st pos t o rung).control = s.control := by
  unfold State.rowDone
  (repeat' split) <;> first
    | with_reducible rfl
    | (simp only [State.modStn_control, State.trace_control, State.grade_control, State.count_control,
      State.recallRow_control, State.tailOver_control, control_upd, foldl_control,
      State.modPort_control_upd, State.eachPort_control_upd, apply_ite State.control, ite_self,
      implies_true]; done)
    | (simp only [State.modStn_control, State.trace_control, State.grade_control, State.count_control,
      State.recallRow_control, State.tailOver_control, control_upd, foldl_control,
      State.modPort_control_upd, State.eachPort_control_upd, apply_ite State.control, ite_self,
      implies_true]
       (repeat' split) <;> first | with_reducible rfl | simp only [State.modStn_control, State.trace_control, State.grade_control, State.count_control,
      State.recallRow_control, State.tailOver_control, control_upd, foldl_control,
      State.modPort_control_upd, State.eachPort_control_upd, apply_ite State.control, ite_self,
      implies_true])

theorem State.rowMissing_control (s : State) (st : Stn) (pos : Nat) (t : Track) (grid : Bool) :
    (State.rowMissing s st pos t grid).control = s.control := by
  unfold State.rowMissing
  (repeat' split) <;> first
    | with_reducible rfl
    | (simp only [State.modStn_control, State.trace_control, State.grade_control, State.count_control,
      State.tailOver_control, control_upd, foldl_control, State.modPort_control_upd,
      State.eachPort_control_upd, apply_ite State.control, ite_self, implies_true]; done)
    | (simp only [State.modStn_control, State.trace_control, State.grade_control, State.count_control,
      State.tailOver_control, control_upd, foldl_control, State.modPort_control_upd,
      State.eachPort_control_upd, apply_ite State.control, ite_self, implies_true]
       (repeat' split) <;> first | with_reducible rfl | simp only [State.modStn_control, State.trace_control, State.grade_control, State.count_control,
      State.tailOver_control, control_upd, foldl_control, State.modPort_control_upd,
      State.eachPort_control_upd, apply_ite State.control, ite_self, implies_true])

theorem State.calibrate_control (s : State) (st : Stn) (r : Option CalRow) :
    (State.calibrate s st r).control = s.control := by
  unfold State.calibrate
  rfl

theorem State.skewRun_control (s : State) (st : Stn) (t : Track) (d : Int) :
    (State.skewRun s st t d).control = s.control := by
  simp only [State.skewRun, State.modStn_control, State.raise_control, control_upd, foldl_control,
      State.modPort_control_upd, State.eachPort_control_upd, apply_ite State.control, ite_self,
      implies_true]

theorem State.skewBreak_control (s : State) (st : Stn) (t : Track) : (State.skewBreak s st t).control = s.control := by
  simp only [State.skewBreak, State.modStn_control, control_upd, foldl_control, State.modPort_control_upd,
      State.eachPort_control_upd, apply_ite State.control, ite_self, implies_true]

theorem State.rowRead_control (s : State) (st : Stn) (p : RxPos) (t : Track) :
    (State.rowRead s st p t).control = s.control := by
  unfold State.rowRead
  (repeat' split) <;> first
    | with_reducible rfl
    | (simp only [State.modStn_control, State.take_control, State.count_control, State.rowDone_control,
      State.calibrate_control, State.skewRun_control, State.skewBreak_control, control_upd,
      foldl_control, State.modPort_control_upd, State.eachPort_control_upd, apply_ite State.control,
      ite_self, implies_true]; done)
    | (simp only [State.modStn_control, State.take_control, State.count_control, State.rowDone_control,
      State.calibrate_control, State.skewRun_control, State.skewBreak_control, control_upd,
      foldl_control, State.modPort_control_upd, State.eachPort_control_upd, apply_ite State.control,
      ite_self, implies_true]
       (repeat' split) <;> first | with_reducible rfl | simp only [State.modStn_control, State.take_control, State.count_control, State.rowDone_control,
      State.calibrate_control, State.skewRun_control, State.skewBreak_control, control_upd,
      foldl_control, State.modPort_control_upd, State.eachPort_control_upd, apply_ite State.control,
      ite_self, implies_true])

theorem State.rowDecode_control (s : State) (st : Stn) (pos : Nat) (t : Track) :
    (State.rowDecode s st pos t).control = s.control := by
  unfold State.rowDecode
  (repeat' split) <;> first
    | with_reducible rfl
    | (simp only [State.rowMissing_control, State.calibrate_control, State.rowRead_control, control_upd,
      foldl_control, State.modPort_control_upd, State.eachPort_control_upd, apply_ite State.control,
      ite_self, implies_true]; done)
    | (simp only [State.rowMissing_control, State.calibrate_control, State.rowRead_control, control_upd,
      foldl_control, State.modPort_control_upd, State.eachPort_control_upd, apply_ite State.control,
      ite_self, implies_true]
       (repeat' split) <;> first | with_reducible rfl | simp only [State.rowMissing_control, State.calibrate_control, State.rowRead_control, control_upd,
      foldl_control, State.modPort_control_upd, State.eachPort_control_upd, apply_ite State.control,
      ite_self, implies_true])

theorem State.retryAttempt_control (s : State) (st : Stn) : (State.retryAttempt s st).control = s.control := by
  unfold State.retryAttempt
  (repeat' split) <;> first
    | with_reducible rfl
    | (simp only [State.modStn_control, State.finish_control, State.count_control, State.rowDone_control,
      control_upd, foldl_control, State.modPort_control_upd, State.eachPort_control_upd,
      apply_ite State.control, ite_self, implies_true]; done)
    | (simp only [State.modStn_control, State.finish_control, State.count_control, State.rowDone_control,
      control_upd, foldl_control, State.modPort_control_upd, State.eachPort_control_upd,
      apply_ite State.control, ite_self, implies_true]
       (repeat' split) <;> first | with_reducible rfl | simp only [State.modStn_control, State.finish_control, State.count_control, State.rowDone_control,
      control_upd, foldl_control, State.modPort_control_upd, State.eachPort_control_upd,
      apply_ite State.control, ite_self, implies_true])

theorem State.mountGo_control (s : State) (st : Stn) : (State.mountGo s st).control = s.control := by
  unfold State.mountGo
  (repeat' split) <;> first
    | with_reducible rfl
    | (simp only [State.modStn_control, State.modCmd_control, State.finish_control, State.closeLoops_control,
      State.dismount_control, control_upd, foldl_control, State.modPort_control_upd,
      State.eachPort_control_upd, apply_ite State.control, ite_self, implies_true]; done)
    | (simp only [State.modStn_control, State.modCmd_control, State.finish_control, State.closeLoops_control,
      State.dismount_control, control_upd, foldl_control, State.modPort_control_upd,
      State.eachPort_control_upd, apply_ite State.control, ite_self, implies_true]
       (repeat' split) <;> first | with_reducible rfl | simp only [State.modStn_control, State.modCmd_control, State.finish_control, State.closeLoops_control,
      State.dismount_control, control_upd, foldl_control, State.modPort_control_upd,
      State.eachPort_control_upd, apply_ite State.control, ite_self, implies_true])

theorem State.mountWaits_control (s : State) (st : Stn) : (State.mountWaits s st).control = s.control := by
  unfold State.mountWaits
  (repeat' split) <;> simp only [State.modCmd_control, control_upd, foldl_control, State.modPort_control_upd,
      State.eachPort_control_upd, apply_ite State.control, ite_self, implies_true]

theorem State.holdExit_control (s : State) (st : Stn) : (State.holdExit s st).control = s.control := by
  unfold State.holdExit
  (repeat' split) <;> first
    | with_reducible rfl
    | (simp only [State.modStn_control, State.hold_control, State.openStation_control, State.mountGo_control,
      State.mountWaits_control, control_upd, foldl_control, State.modPort_control_upd,
      State.eachPort_control_upd, apply_ite State.control, ite_self, implies_true]; done)
    | (simp only [State.modStn_control, State.hold_control, State.openStation_control, State.mountGo_control,
      State.mountWaits_control, control_upd, foldl_control, State.modPort_control_upd,
      State.eachPort_control_upd, apply_ite State.control, ite_self, implies_true]
       (repeat' split) <;> first | with_reducible rfl | simp only [State.modStn_control, State.hold_control, State.openStation_control, State.mountGo_control,
      State.mountWaits_control, control_upd, foldl_control, State.modPort_control_upd,
      State.eachPort_control_upd, apply_ite State.control, ite_self, implies_true])

theorem State.answer_control (s : State) (st : Stn) (r : CtrlReq) (err : Bool) (data : BitVec 32) :
    (State.answer s st r err data).control = s.control := by
  simp only [State.answer, State.modStn_control, State.raise_control, State.hold_control,
      State.faultStation_control, State.holdExit_control, control_upd, foldl_control,
      State.modPort_control_upd, State.eachPort_control_upd, apply_ite State.control, ite_self,
      implies_true]

theorem State.rxStat_control (s : State) (st : Stn) (lane : Lane) (x : BitVec 5140) :
    (State.rxStat s st lane x).control = s.control := by
  simp only [State.rxStat, State.modStn_control, control_upd, foldl_control, State.modPort_control_upd,
      State.eachPort_control_upd, apply_ite State.control, ite_self, implies_true]

theorem State.rxFrame_control (s : State) (st : Stn) (lane : Lane) (line : RxFrame) :
    (State.rxFrame s st lane line).control = s.control := by
  simp only [State.rxFrame, State.modStn_control, State.take_control, State.rxStat_control, control_upd,
      foldl_control, State.modPort_control_upd, State.eachPort_control_upd, apply_ite State.control,
      ite_self, implies_true]

theorem State.posSent_control (s : State) (st : Stn) (p : TxPos) : (State.posSent s st p).control = s.control := by
  unfold State.posSent
  (repeat' split) <;> first
    | with_reducible rfl
    | (simp only [State.modStn_control, control_upd, foldl_control, State.modPort_control_upd,
      State.eachPort_control_upd, apply_ite State.control, ite_self, implies_true]; done)
    | (simp only [State.modStn_control, control_upd, foldl_control, State.modPort_control_upd,
      State.eachPort_control_upd, apply_ite State.control, ite_self, implies_true]
       (repeat' split) <;> first | with_reducible rfl | simp only [State.modStn_control, control_upd, foldl_control, State.modPort_control_upd,
      State.eachPort_control_upd, apply_ite State.control, ite_self, implies_true])

theorem State.quiesceGate_control (s : State) (st : Stn) : (State.quiesceGate s st).control = s.control := by
  simp only [State.quiesceGate, State.modStn_control, control_upd, foldl_control, State.modPort_control_upd,
      State.eachPort_control_upd, apply_ite State.control, ite_self, implies_true]

theorem State.popSent_control (s : State) (st : Stn) : (State.popSent s st).control = s.control := by
  unfold State.popSent
  (repeat' split) <;> first
    | with_reducible rfl
    | (simp only [State.modStn_control, State.settle_control, State.posSent_control, State.quiesceGate_control,
      control_upd, foldl_control, State.modPort_control_upd, State.eachPort_control_upd,
      apply_ite State.control, ite_self, implies_true]; done)
    | (simp only [State.modStn_control, State.settle_control, State.posSent_control, State.quiesceGate_control,
      control_upd, foldl_control, State.modPort_control_upd, State.eachPort_control_upd,
      apply_ite State.control, ite_self, implies_true]
       (repeat' split) <;> first | with_reducible rfl | simp only [State.modStn_control, State.settle_control, State.posSent_control, State.quiesceGate_control,
      control_upd, foldl_control, State.modPort_control_upd, State.eachPort_control_upd,
      apply_ite State.control, ite_self, implies_true])

theorem State.txFrame_control (s : State) (st : Stn) (lane : Lane) (ncell : Nat) :
    (State.txFrame s st lane ncell).control = s.control := by
  simp only [State.txFrame, State.modStn_control, State.draw_control, State.emit_control, State.popSent_control,
      control_upd, foldl_control, State.modPort_control_upd, State.eachPort_control_upd,
      apply_ite State.control, ite_self, implies_true]

theorem State.container_control (s : State) (st : Stn) (slot : BitVec 16) :
    (State.container s st slot).control = s.control := by
  unfold State.container
  (repeat' split) <;> first
    | with_reducible rfl
    | (simp only [State.modStn_control, State.count_control, control_upd, foldl_control, State.modPort_control_upd,
      State.eachPort_control_upd, apply_ite State.control, ite_self, implies_true]; done)
    | (simp only [State.modStn_control, State.count_control, control_upd, foldl_control, State.modPort_control_upd,
      State.eachPort_control_upd, apply_ite State.control, ite_self, implies_true]
       (repeat' split) <;> first | with_reducible rfl | simp only [State.modStn_control, State.count_control, control_upd, foldl_control, State.modPort_control_upd,
      State.eachPort_control_upd, apply_ite State.control, ite_self, implies_true])

theorem State.laneDown_control (s : State) (st : Stn) (lane : Lane) : (State.laneDown s st lane).control = s.control := by
  simp only [State.laneDown, State.modStn_control, State.raise_control, control_upd, foldl_control,
      State.modPort_control_upd, State.eachPort_control_upd, apply_ite State.control, ite_self,
      implies_true]

theorem State.laneTrained_control (s : State) (st : Stn) (lane : Lane) (ok : Bool) (upNs downNs : Nat) :
    (State.laneTrained s st lane ok upNs downNs).control = s.control := by
  simp only [State.laneTrained, State.modStn_control, State.raise_control, State.runOut_control,
      State.loseLink_control, control_upd, foldl_control, State.modPort_control_upd,
      State.eachPort_control_upd, apply_ite State.control, ite_self, implies_true]

theorem State.laneRetry_control (s : State) (st : Stn) (lane : Lane) : (State.laneRetry s st lane).control = s.control := by
  simp only [State.laneRetry, State.modStn_control, control_upd, foldl_control, State.modPort_control_upd,
      State.eachPort_control_upd, apply_ite State.control, ite_self, implies_true]

theorem State.servoTrace_control (s : State) (st : Stn) (ty : Nat) (w1 w2 : BitVec 64) :
    (State.servoTrace s st ty w1 w2).control = s.control := by
  simp only [State.servoTrace, State.modDie_control, State.trace_control, control_upd, foldl_control,
      State.modPort_control_upd, State.eachPort_control_upd, apply_ite State.control, ite_self,
      implies_true]

theorem State.aim_control (s : State) (st : Stn) (wrap : Nat) (ofs : Int) :
    (State.aim s st wrap ofs).control = s.control := by
  unfold State.aim
  rfl

theorem State.inhibitWrite_control (s : State) (st : Stn) : (State.inhibitWrite s st).control = s.control := by
  simp only [State.inhibitWrite, State.modStn_control, State.raise_control, control_upd, foldl_control,
      State.modPort_control_upd, State.eachPort_control_upd, apply_ite State.control, ite_self,
      implies_true]

theorem State.skewSample_control (s : State) (st : Stn) (f : Nat) (a b : Frame) (apply : BitVec 16) :
    (State.skewSample s st f a b apply).control = s.control := by
  simp only [State.skewSample, State.modStn_control, State.servoTrace_control, control_upd, foldl_control,
      State.modPort_control_upd, State.eachPort_control_upd, apply_ite State.control, ite_self,
      implies_true]

theorem State.lateralLoop_control (s : State) (st : Stn) : (State.lateralLoop s st).control = s.control := by
  unfold State.lateralLoop
  (repeat' split) <;> first
    | with_reducible rfl
    | (simp only [State.modStn_control, State.draw_control, State.count_control, State.servoTrace_control,
      State.inhibitWrite_control, State.skewSample_control, control_upd, foldl_control,
      State.modPort_control_upd, State.eachPort_control_upd, apply_ite State.control, ite_self,
      implies_true]; done)
    | (simp only [State.modStn_control, State.draw_control, State.count_control, State.servoTrace_control,
      State.inhibitWrite_control, State.skewSample_control, control_upd, foldl_control,
      State.modPort_control_upd, State.eachPort_control_upd, apply_ite State.control, ite_self,
      implies_true]
       (repeat' split) <;> first | with_reducible rfl | simp only [State.modStn_control, State.draw_control, State.count_control, State.servoTrace_control,
      State.inhibitWrite_control, State.skewSample_control, control_upd, foldl_control,
      State.modPort_control_upd, State.eachPort_control_upd, apply_ite State.control, ite_self,
      implies_true])

theorem State.seekSample_control (s : State) (st : Stn) (q : Seek) : (State.seekSample s st q).control = s.control := by
  unfold State.seekSample
  simp only []
  split
  · rw [State.skewSample_control]
    exact (State.modStn_control ..).trans rfl
  · exact (State.modStn_control ..).trans rfl

theorem State.lateral_control (s : State) (st : Stn) : (State.lateral s st).control = s.control := by
  unfold State.lateral
  simp only []
  split
  · exact State.lateralLoop_control ..
  · split
    · rfl
    · split
      · exact (State.lateralLoop_control ..).trans (State.modStn_control ..)
      · exact State.seekSample_control ..

theorem State.loseLpos_control (s : State) (st : Stn) : (State.loseLpos s st).control = s.control := by
  simp only [State.loseLpos, State.modStn_control, State.raise_control, State.unplace_control, control_upd,
      foldl_control, State.modPort_control_upd, State.eachPort_control_upd, apply_ite State.control,
      ite_self, implies_true]

theorem State.lposTake_control (s : State) (st : Stn) : (State.lposTake s st).control = s.control := by
  unfold State.lposTake
  rfl

theorem State.reel_control (s : State) (st : Stn) : (State.reel s st).control = s.control := by
  simp only [State.reel, State.modStn_control, State.draw_control, State.take_control, State.count_control,
      State.servoTrace_control, control_upd, foldl_control, State.modPort_control_upd,
      State.eachPort_control_upd, apply_ite State.control, ite_self, implies_true]

theorem State.auxSample_control (s : State) (st : Stn) : (State.auxSample s st).control = s.control := by
  simp only [State.auxSample, State.modStn_control, State.draw_control, State.hold_control, State.count_control,
      control_upd, foldl_control, State.modPort_control_upd, State.eachPort_control_upd,
      apply_ite State.control, ite_self, implies_true]

theorem State.kappa_control (s : State) (st : Stn) (takeUp : Bool) (len : Nat) :
    (State.kappa s st takeUp len).control = s.control := by
  simp only [State.kappa, State.modStn_control, State.draw_control, State.raise_control, control_upd,
      foldl_control, State.modPort_control_upd, State.eachPort_control_upd, apply_ite State.control,
      ite_self, implies_true]

theorem State.serveSeek_control (s : State) (st : Stn) : (State.serveSeek s st).control = s.control := by
  unfold State.serveSeek
  (repeat' split) <;> first
    | with_reducible rfl
    | (simp only [State.modStn_control, State.rampTo_control, State.runBack_control, State.aim_control, control_upd,
      foldl_control, State.modPort_control_upd, State.eachPort_control_upd, apply_ite State.control,
      ite_self, implies_true]; done)
    | (simp only [State.modStn_control, State.rampTo_control, State.runBack_control, State.aim_control, control_upd,
      foldl_control, State.modPort_control_upd, State.eachPort_control_upd, apply_ite State.control,
      ite_self, implies_true]
       (repeat' split) <;> first | with_reducible rfl | simp only [State.modStn_control, State.rampTo_control, State.runBack_control, State.aim_control, control_upd,
      foldl_control, State.modPort_control_upd, State.eachPort_control_upd, apply_ite State.control,
      ite_self, implies_true])

theorem State.locatesDone_control (s : State) (st : Stn) : (State.locatesDone s st).control = s.control := by
  simp only [State.locatesDone, State.finish_control, control_upd, foldl_control, State.modPort_control_upd,
      State.eachPort_control_upd, apply_ite State.control, ite_self, implies_true]

theorem State.rested_control (s : State) (st : Stn) : (State.rested s st).control = s.control := by
  unfold State.rested
  (repeat' split) <;> first
    | with_reducible rfl
    | (simp only [State.modStn_control, State.openLoops_control, State.openStation_control, State.mountGo_control,
      State.serveSeek_control, State.locatesDone_control, control_upd, foldl_control,
      State.modPort_control_upd, State.eachPort_control_upd, apply_ite State.control, ite_self,
      implies_true]; done)
    | (simp only [State.modStn_control, State.openLoops_control, State.openStation_control, State.mountGo_control,
      State.serveSeek_control, State.locatesDone_control, control_upd, foldl_control,
      State.modPort_control_upd, State.eachPort_control_upd, apply_ite State.control, ite_self,
      implies_true]
       (repeat' split) <;> first | with_reducible rfl | simp only [State.modStn_control, State.openLoops_control, State.openStation_control, State.mountGo_control,
      State.serveSeek_control, State.locatesDone_control, control_upd, foldl_control,
      State.modPort_control_upd, State.eachPort_control_upd, apply_ite State.control, ite_self,
      implies_true])

theorem State.rampDone_control (s : State) (st : Stn) : (State.rampDone s st).control = s.control := by
  unfold State.rampDone
  (repeat' split) <;> first
    | with_reducible rfl
    | (simp only [State.modStn_control, State.controlledStop_control, State.rested_control, control_upd,
      foldl_control, State.modPort_control_upd, State.eachPort_control_upd, apply_ite State.control,
      ite_self, implies_true]; done)
    | (simp only [State.modStn_control, State.controlledStop_control, State.rested_control, control_upd,
      foldl_control, State.modPort_control_upd, State.eachPort_control_upd, apply_ite State.control,
      ite_self, implies_true]
       (repeat' split) <;> first | with_reducible rfl | simp only [State.modStn_control, State.controlledStop_control, State.rested_control, control_upd,
      foldl_control, State.modPort_control_upd, State.eachPort_control_upd, apply_ite State.control,
      ite_self, implies_true])

theorem State.leaveQuiet_control (s : State) : (State.leaveQuiet s).control = s.control := by
  simp only [State.leaveQuiet, State.modStn_control, State.closeLoops_control, control_upd, foldl_control,
      State.modPort_control_upd, State.eachPort_control_upd, apply_ite State.control, ite_self,
      implies_true]

theorem State.wakeFor_control (s : State) (r : CmdRef) : (State.wakeFor s r).control = s.control := by
  simp only [State.wakeFor, State.leaveQuiet_control, control_upd, foldl_control, State.modPort_control_upd,
      State.eachPort_control_upd, apply_ite State.control, ite_self, implies_true]

theorem State.launch_control (s : State) (c : HostCmd) (k : Cmd) (go : CmdRef → State → State)
    (h : ∀ r a, (go r a).control = a.control) : (State.launch s c k go).control = s.control := by
  unfold State.launch
  split
  · rw [State.wakeFor_control, State.addCmd_control]
  · rw [h, State.addCmd_control]

theorem State.gapLon_control (s : State) (c : HostCmd) : (State.gapLon s c).control = s.control := by
  unfold State.gapLon
  rfl

theorem State.dropKey_control (s : State) (p : Port) (q : Nat) (f : RecKey → Bool) :
    (State.dropKey s p q f).control = s.control := by
  simp only [State.dropKey, State.modQp_control, control_upd, foldl_control, State.modPort_control_upd,
      State.eachPort_control_upd, apply_ite State.control, ite_self, implies_true]

theorem State.modRec_control (s : State) (st : Stn) (lon : Nat) (f : Rec → Rec) :
    (State.modRec s st lon f).control = s.control := by
  unfold State.modRec
  rfl

theorem State.startAppend_control (r : CmdRef) (s : State) : (State.startAppend r s).control = s.control := by
  unfold State.startAppend
  (repeat' split) <;> simp only [State.modCmd_control, State.addJob_control, control_upd, foldl_control, State.modPort_control_upd,
      State.eachPort_control_upd, apply_ite State.control, ite_self, implies_true]

theorem State.runAppend_control (c : HostCmd) (s : State) : (State.runAppend c s).control = s.control := by
  unfold State.runAppend
  (repeat' split) <;> first
    | with_reducible rfl
    | (simp only [State.modStn_control, State.modQp_control, State.finishNew_control, State.abandonRec_control,
      State.count_control, State.launch_control, State.dropKey_control, State.modRec_control,
      State.startAppend_control, control_upd, foldl_control, State.modPort_control_upd,
      State.eachPort_control_upd, apply_ite State.control, ite_self, implies_true]; done)
    | (simp only [State.modStn_control, State.modQp_control, State.finishNew_control, State.abandonRec_control,
      State.count_control, State.launch_control, State.dropKey_control, State.modRec_control,
      State.startAppend_control, control_upd, foldl_control, State.modPort_control_upd,
      State.eachPort_control_upd, apply_ite State.control, ite_self, implies_true]
       (repeat' split) <;> first | with_reducible rfl | simp only [State.modStn_control, State.modQp_control, State.finishNew_control, State.abandonRec_control,
      State.count_control, State.launch_control, State.dropKey_control, State.modRec_control,
      State.startAppend_control, control_upd, foldl_control, State.modPort_control_upd,
      State.eachPort_control_upd, apply_ite State.control, ite_self, implies_true])

theorem State.addFlush_control (s : State) (st : Stn) (why : FlushFor) (cover : List (Nat × Nat)) :
    (State.addFlush s st why cover).control = s.control := by
  unfold State.addFlush
  (repeat' split) <;> simp only [State.modStn_control, State.addJob_control, State.settle_control, control_upd, foldl_control,
      State.modPort_control_upd, State.eachPort_control_upd, apply_ite State.control, ite_self,
      implies_true]

theorem State.startFlush_control (r : CmdRef) (s : State) : (State.startFlush r s).control = s.control := by
  unfold State.startFlush
  (repeat' split) <;> first
    | with_reducible rfl
    | (simp only [State.modStn_control, State.modCmd_control, State.finish_control, State.finishLosses_control,
      State.addFlush_control, control_upd, foldl_control, State.modPort_control_upd,
      State.eachPort_control_upd, apply_ite State.control, ite_self, implies_true]; done)
    | (simp only [State.modStn_control, State.modCmd_control, State.finish_control, State.finishLosses_control,
      State.addFlush_control, control_upd, foldl_control, State.modPort_control_upd,
      State.eachPort_control_upd, apply_ite State.control, ite_self, implies_true]
       (repeat' split) <;> first | with_reducible rfl | simp only [State.modStn_control, State.modCmd_control, State.finish_control, State.finishLosses_control,
      State.addFlush_control, control_upd, foldl_control, State.modPort_control_upd,
      State.eachPort_control_upd, apply_ite State.control, ite_self, implies_true])

theorem State.startReader_control (r : CmdRef) (s : State) : (State.startReader r s).control = s.control := by
  unfold State.startReader
  (repeat' split) <;> first
    | with_reducible rfl
    | (simp only [State.modCmd_control, State.finish_control, State.goReader_control, State.serveSeek_control,
      State.addFlush_control, control_upd, foldl_control, State.modPort_control_upd,
      State.eachPort_control_upd, apply_ite State.control, ite_self, implies_true]; done)
    | (simp only [State.modCmd_control, State.finish_control, State.goReader_control, State.serveSeek_control,
      State.addFlush_control, control_upd, foldl_control, State.modPort_control_upd,
      State.eachPort_control_upd, apply_ite State.control, ite_self, implies_true]
       (repeat' split) <;> first | with_reducible rfl | simp only [State.modCmd_control, State.finish_control, State.goReader_control, State.serveSeek_control,
      State.addFlush_control, control_upd, foldl_control, State.modPort_control_upd,
      State.eachPort_control_upd, apply_ite State.control, ite_self, implies_true])

theorem State.runReader_control (c : HostCmd) (s : State) : (State.runReader c s).control = s.control := by
  simp only [State.runReader, State.launch_control, State.startReader_control, control_upd, foldl_control,
      State.modPort_control_upd, State.eachPort_control_upd, apply_ite State.control, ite_self,
      implies_true]

theorem State.sealGo_control (s : State) (st : Stn) : (State.sealGo s st).control = s.control := by
  unfold State.sealGo
  (repeat' split) <;> simp only [State.modStn_control, State.addFlush_control, control_upd, foldl_control,
      State.modPort_control_upd, State.eachPort_control_upd, apply_ite State.control, ite_self,
      implies_true]

theorem State.sealsGo_control (s : State) : (State.sealsGo s).control = s.control := by
  simp only [State.sealsGo, State.sealGo_control, control_upd, foldl_control, State.modPort_control_upd,
      State.eachPort_control_upd, apply_ite State.control, ite_self, implies_true]

theorem State.startSeal_control (r : CmdRef) (s : State) : (State.startSeal r s).control = s.control := by
  unfold State.startSeal
  (repeat' split) <;> first
    | with_reducible rfl
    | (simp only [State.modStn_control, State.modCmd_control, State.settle_control, State.sealGo_control,
      control_upd, foldl_control, State.modPort_control_upd, State.eachPort_control_upd,
      apply_ite State.control, ite_self, implies_true]; done)
    | (simp only [State.modStn_control, State.modCmd_control, State.settle_control, State.sealGo_control,
      control_upd, foldl_control, State.modPort_control_upd, State.eachPort_control_upd,
      apply_ite State.control, ite_self, implies_true]
       (repeat' split) <;> first | with_reducible rfl | simp only [State.modStn_control, State.modCmd_control, State.settle_control, State.sealGo_control,
      control_upd, foldl_control, State.modPort_control_upd, State.eachPort_control_upd,
      apply_ite State.control, ite_self, implies_true])

theorem State.fenceGo_control (s : State) (p : Port) (q : Nat) : (State.fenceGo s p q).control = s.control := by
  unfold State.fenceGo
  (repeat' split) <;> simp only [State.finish_control, control_upd, foldl_control, State.modPort_control_upd,
      State.eachPort_control_upd, apply_ite State.control, ite_self, implies_true]

theorem State.rekey_control (s : State) (st : Stn) (mnt : BitVec 32) (lon : Nat) :
    (State.rekey s st mnt lon).control = s.control := by
  unfold State.rekey
  (repeat' split) <;> simp only [State.modQp_control, control_upd, foldl_control, State.modPort_control_upd,
      State.eachPort_control_upd, apply_ite State.control, ite_self, implies_true]

theorem State.untakeAppend_control (s : State) (r : CmdRef) : (State.untakeAppend s r).control = s.control := by
  unfold State.untakeAppend
  (repeat' split) <;> simp only [State.modStn_control, State.finishAll_control, State.dropWaits_control, State.dropJobs_control,
      State.count_control, State.dropKey_control, State.modRec_control, State.rekey_control, control_upd,
      foldl_control, State.modPort_control_upd, State.eachPort_control_upd, apply_ite State.control,
      ite_self, implies_true]

theorem State.refuseCmd_control (s : State) (r : CmdRef) : (State.refuseCmd s r).control = s.control := by
  unfold State.refuseCmd
  (repeat' split) <;> simp only [State.finish_control, State.sealGo_control, State.untakeAppend_control, control_upd, foldl_control,
      State.modPort_control_upd, State.eachPort_control_upd, apply_ite State.control, ite_self,
      implies_true]

theorem State.powerFlush_control (s : State) : (State.powerFlush s).control = s.control := by
  unfold State.powerFlush
  refine foldl_control _ (fun a st => ?_) _ _
  dsimp only
  (repeat' split) <;> first
    | rfl
    | exact State.addFlush_control ..

theorem State.powerStops_control (s : State) : (State.powerStops s).control = s.control := by
  simp only [State.powerStops, State.controlledStop_control, control_upd, foldl_control,
      State.modPort_control_upd, State.eachPort_control_upd, apply_ite State.control, ite_self,
      implies_true]

theorem State.quietStn_control (s : State) (st : Stn) : (State.quietStn s st).control = s.control := by
  simp only [State.quietStn, State.modStn_control, State.openLoops_control, control_upd, foldl_control,
      State.modPort_control_upd, State.eachPort_control_upd, apply_ite State.control, ite_self,
      implies_true]

theorem State.powerDeeper_control (s : State) : (State.powerDeeper s).control = s.control := by
  unfold State.powerDeeper
  (repeat' split) <;> simp only [State.quietStn_control, control_upd, foldl_control, State.modPort_control_upd,
      State.eachPort_control_upd, apply_ite State.control, ite_self, implies_true]

theorem State.powerEnd_control (s : State) : (State.powerEnd s).control = s.control := by
  unfold State.powerEnd
  (repeat' split) <;> simp only [State.finish_control, control_upd, foldl_control, State.modPort_control_upd,
      State.eachPort_control_upd, apply_ite State.control, ite_self, implies_true]

theorem State.powerOnce_control (s : State) : (State.powerOnce s).control = s.control := by
  unfold State.powerOnce
  (repeat' split) <;> simp only [State.powerFlush_control, State.powerStops_control, State.powerDeeper_control,
      State.powerEnd_control, control_upd, foldl_control, State.modPort_control_upd,
      State.eachPort_control_upd, apply_ite State.control, ite_self, implies_true]

theorem State.powerGo_control (s : State) : (State.powerGo s).control = s.control := by
  simp only [State.powerGo, State.powerOnce_control, control_upd, foldl_control, State.modPort_control_upd,
      State.eachPort_control_upd, apply_ite State.control, ite_self, implies_true]

theorem State.runPower_control (c : HostCmd) (s : State) : (State.runPower c s).control = s.control := by
  simp only [State.runPower, State.finish_control, State.addCmd_control, State.leaveQuiet_control,
      State.powerGo_control, control_upd, foldl_control, State.modPort_control_upd,
      State.eachPort_control_upd, apply_ite State.control, ite_self, implies_true]

theorem State.logLost_control (s : State) (r : Rec) : (State.logLost s r).control = s.control := by
  simp only [State.logLost, State.logErr_control, control_upd, foldl_control, State.modPort_control_upd,
      State.eachPort_control_upd, apply_ite State.control, ite_self, implies_true]

theorem State.loseContext_control (s : State) (st : Stn) : (State.loseContext s st).control = s.control := by
  have k1 : ∀ (n : Nat) (lon : Nat) (l : List FlushJob) (a : State), (l.foldl (fun (a : State) j => match j.why with
      | .flush c => a.finish c { status := 0x10, result := n, lon := lon }
      | _ => a) a).control = a.control := fun n lon l a => foldl_control _ (fun a j => by
    split <;> simp only [State.finish_control]) _ _
  have k2 : ∀ (l : List Rec) (a : State), (l.foldl (fun (a : State) r => a.logLost r) a).control = a.control :=
    fun l a => foldl_control _ (fun _ _ => State.logLost_control ..) _ _
  unfold State.loseContext
  split
  · rfl
  · simp only [State.raise_control, State.failStation_control, State.controlledStop_control, State.modStn_control]
    exact (k1 _ _ _ _).trans ((k2 _ _).trans (State.modStn_control ..))

theorem State.dropArea_control (s : State) (st : Stn) (g : Gath) : (State.dropArea s st g).control = s.control := by
  simp only [State.dropArea, State.modStn_control, control_upd, foldl_control, State.modPort_control_upd,
      State.eachPort_control_upd, apply_ite State.control, ite_self, implies_true]

theorem State.burnReleased_control (s : State) (st : Stn) (gnum : Nat) :
    (State.burnReleased s st gnum).control = s.control := by
  unfold State.burnReleased
  (repeat' split) <;> simp only [State.abandonRec_control, State.unplace_control, State.settle_control, State.dropArea_control,
      control_upd, foldl_control, State.modPort_control_upd, State.eachPort_control_upd,
      apply_ite State.control, ite_self, implies_true]

theorem State.poolWait_control (s : State) (d : DieId) (p : Fin 5) (w : Waiter) :
    (State.poolWait s d p w).control = s.control := by
  unfold State.poolWait
  (repeat' split) <;> simp only [State.modDie_control, State.modCmd_control, State.backToWait_control, control_upd, foldl_control,
      State.modPort_control_upd, State.eachPort_control_upd, apply_ite State.control, ite_self,
      implies_true]

theorem State.poolRefuse_control (s : State) (use : PoolUse) : (State.poolRefuse s use).control = s.control := by
  unfold State.poolRefuse
  (repeat' split) <;> simp only [State.refuseCmd_control, control_upd, foldl_control, State.modPort_control_upd,
      State.eachPort_control_upd, apply_ite State.control, ite_self, implies_true]

theorem State.startScrub_control (r : CmdRef) (s : State) : (State.startScrub r s).control = s.control := by
  unfold State.startScrub
  (repeat' split) <;> simp only [State.modDie_control, State.modCmd_control, State.finish_control, control_upd, foldl_control,
      State.modPort_control_upd, State.eachPort_control_upd, apply_ite State.control, ite_self,
      implies_true]

theorem State.retired_control (s : State) (d : DieId) (dpn : Nat) (port : Port) :
    (State.retired s d dpn port).control = s.control := by
  unfold State.retired
  (repeat' split) <;> first
    | with_reducible rfl
    | (simp only [State.modDie_control, State.elogPage_control, State.dropRemap_control, control_upd, foldl_control,
      State.modPort_control_upd, State.eachPort_control_upd, apply_ite State.control, ite_self,
      implies_true]; done)
    | (simp only [State.modDie_control, State.elogPage_control, State.dropRemap_control, control_upd, foldl_control,
      State.modPort_control_upd, State.eachPort_control_upd, apply_ite State.control, ite_self,
      implies_true]
       (repeat' split) <;> first | with_reducible rfl | simp only [State.modDie_control, State.elogPage_control, State.dropRemap_control, control_upd, foldl_control,
      State.modPort_control_upd, State.eachPort_control_upd, apply_ite State.control, ite_self,
      implies_true])

theorem State.endReading_control (s : State) (st : Stn) : (State.endReading s st).control = s.control := by
  simp only [State.endReading, State.modStn_control, State.controlledStop_control, control_upd, foldl_control,
      State.modPort_control_upd, State.eachPort_control_upd, apply_ite State.control, ite_self,
      implies_true]

theorem State.dropMount_control (s : State) (st : Stn) : (State.dropMount s st).control = s.control := by
  simp only [State.dropMount, State.controlledStop_control, State.openLoops_control, State.dismount_control,
      control_upd, foldl_control, State.modPort_control_upd, State.eachPort_control_upd,
      apply_ite State.control, ite_self, implies_true]

theorem State.migHalt_control (s : State) (j : MigJob) : (State.migHalt s j).control = s.control := by
  unfold State.migHalt
  (repeat' split) <;> first
    | with_reducible rfl
    | (simp only [State.endMig_control, State.addFlush_control, State.endReading_control, control_upd, foldl_control,
      State.modPort_control_upd, State.eachPort_control_upd, apply_ite State.control, ite_self,
      implies_true]; done)
    | (simp only [State.endMig_control, State.addFlush_control, State.endReading_control, control_upd, foldl_control,
      State.modPort_control_upd, State.eachPort_control_upd, apply_ite State.control, ite_self,
      implies_true]
       (repeat' split) <;> first | with_reducible rfl | simp only [State.endMig_control, State.addFlush_control, State.endReading_control, control_upd, foldl_control,
      State.modPort_control_upd, State.eachPort_control_upd, apply_ite State.control, ite_self,
      implies_true])

theorem State.undone_control (s : State) (p : Port) (q : Nat) (d : Done) : (State.undone s p q d).control = s.control := by
  simp only [State.undone, State.unlock_control, State.abandonRec_control, State.settle_control, control_upd,
      foldl_control, State.modPort_control_upd, State.eachPort_control_upd, apply_ite State.control,
      ite_self, implies_true]

theorem State.dropGoneKeys_control (s : State) (p : Port) (q : Nat) : (State.dropGoneKeys s p q).control = s.control := by
  simp only [State.dropGoneKeys, State.dropKey_control, control_upd, foldl_control, State.modPort_control_upd,
      State.eachPort_control_upd, apply_ite State.control, ite_self, implies_true]

theorem State.abandonOpen_control (s : State) (p : Port) (q : Nat) : (State.abandonOpen s p q).control = s.control := by
  unfold State.abandonOpen
  refine foldl_control _ (fun a st => ?_) _ _
  split
  · rfl
  · rw [State.settle_control]
    exact foldl_control _ (fun _ _ => State.abandonRec_control ..) _ _

theorem State.reported_control (s : State) (d : Done) : (State.reported s d).control = s.control := by
  simp only [State.reported, State.modRec_control, control_upd, foldl_control, State.modPort_control_upd,
      State.eachPort_control_upd, apply_ite State.control, ite_self, implies_true]

theorem State.finalDone_control (s : State) (p : Port) (q : Nat) : (State.finalDone s p q).control = s.control := by
  unfold State.finalDone
  (repeat' split) <;> simp only [State.modQp_control, State.finish_control, control_upd, foldl_control, State.modPort_control_upd,
      State.eachPort_control_upd, apply_ite State.control, ite_self, implies_true]

theorem State.writeDone_control (s : State) (p : Port) (q : Nat) : (State.writeDone s p q).control = s.control := by
  unfold State.writeDone
  (repeat' split) <;> simp only [State.emit_control, State.msix_control, State.trace_control, State.modQp_control,
      State.unlock_control, State.fenceGo_control, State.powerGo_control, State.reported_control,
      State.finalDone_control, control_upd, foldl_control, State.modPort_control_upd,
      State.eachPort_control_upd, apply_ite State.control, ite_self, implies_true]

theorem State.blackBox_control (s : State) (cause detail : Nat) : (State.blackBox s cause detail).control = s.control := by
  simp only [State.blackBox, State.raise_control, State.take_control, control_upd, foldl_control,
      State.modPort_control_upd, State.eachPort_control_upd, apply_ite State.control, ite_self,
      implies_true]

theorem State.quiesceStn_control (s : State) (st : Stn) : (State.quiesceStn s st).control = s.control := by
  unfold State.quiesceStn
  (repeat' split) <;> first
    | with_reducible rfl
    | (simp only [State.modStn_control, State.unplace_control, State.quiesceGate_control, control_upd, foldl_control,
      State.modPort_control_upd, State.eachPort_control_upd, apply_ite State.control, ite_self,
      implies_true]; done)
    | (simp only [State.modStn_control, State.unplace_control, State.quiesceGate_control, control_upd, foldl_control,
      State.modPort_control_upd, State.eachPort_control_upd, apply_ite State.control, ite_self,
      implies_true]
       (repeat' split) <;> first | with_reducible rfl | simp only [State.modStn_control, State.unplace_control, State.quiesceGate_control, control_upd, foldl_control,
      State.modPort_control_upd, State.eachPort_control_upd, apply_ite State.control, ite_self,
      implies_true])

theorem State.loseBuf_control (s : State) (h : BitVec 32) (b : Buf) : (State.loseBuf s h b).control = s.control := by
  unfold State.loseBuf
  (repeat' split) <;> simp only [State.modStn_control, State.dropArea_control, control_upd, foldl_control,
      State.modPort_control_upd, State.eachPort_control_upd, apply_ite State.control, ite_self,
      implies_true]

theorem State.stablePool_control (s : State) (d : DieId) (p : Fin 5) : (State.stablePool s d p).control = s.control := by
  simp only [State.stablePool, State.modDie_control, State.putBack_control, State.loseBuf_control, control_upd,
      foldl_control, State.modPort_control_upd, State.eachPort_control_upd, apply_ite State.control,
      ite_self, implies_true]

theorem State.stableAll_control (s : State) : (State.stableAll s).control = s.control := by
  simp only [State.stableAll, State.stablePool_control, control_upd, foldl_control, State.modPort_control_upd,
      State.eachPort_control_upd, apply_ite State.control, ite_self, implies_true]

theorem State.fallback_control (s : State) (st : Stn) : (State.fallback s st).control = s.control := by
  simp only [State.fallback, State.modStn_control, State.rampTo_control, control_upd, foldl_control,
      State.modPort_control_upd, State.eachPort_control_upd, apply_ite State.control, ite_self,
      implies_true]

theorem State.warmStn_control (s : State) (st : Stn) : (State.warmStn s st).control = s.control := by
  simp only [State.warmStn, State.modStn_control, State.burnFrom_control, State.voidWriting_control,
      State.dropWork_control, State.dismount_control, State.fallback_control, control_upd, foldl_control,
      State.modPort_control_upd, State.eachPort_control_upd, apply_ite State.control, ite_self,
      implies_true]

theorem State.restoreSlots_control (s : State) : (State.restoreSlots s).control = s.control := by
  unfold State.restoreSlots
  rfl

theorem State.openIdle_control (s : State) : (State.openIdle s).control = s.control := by
  simp only [State.openIdle, State.openLoops_control, control_upd, foldl_control, State.modPort_control_upd,
      State.eachPort_control_upd, apply_ite State.control, ite_self, implies_true]

theorem State.regAccess_control (s : State) (p : Port) (ofs : Nat) (f : State → State)
    (h : ∀ a, (f a).control = a.control) : (State.regAccess s p ofs f).control = s.control := by
  unfold State.regAccess
  simp only []
  (repeat' split) <;> simp only [h, State.modPort_control_upd]

theorem State.sendEvents_control (s : State) (p : Port) (l : List Nat) : (State.sendEvents s p l).control = s.control := by
  simp only [State.sendEvents, State.sendEvent_control, control_upd, foldl_control, State.modPort_control_upd,
      State.eachPort_control_upd, apply_ite State.control, ite_self, implies_true]

theorem State.modSel_control (s : State) (p : Port) (f : TraceQ → TraceQ) : (State.modSel s p f).control = s.control := by
  unfold State.modSel
  rfl

theorem State.answerRead_control (s : State) (p : Port) (v : BitVec 64) : (State.answerRead s p v).control = s.control := by
  unfold State.answerRead
  rfl

theorem State.blkStation_control (s : State) (st : Stn) : (State.blkStation s st).control = s.control := by
  simp only [State.blkStation, State.modStn_control, State.finishAll_control, State.openLoops_control,
      State.dropWork_control, control_upd, foldl_control, State.modPort_control_upd,
      State.eachPort_control_upd, apply_ite State.control, ite_self, implies_true]

theorem State.blkControl_control (s : State) (d : DieId) : (State.blkControl s d).control = s.control := by
  unfold State.blkControl
  refine foldl_control _ (fun a st => ?_) _ _
  simp only [State.openLoops_control]
  split <;> simp only [State.modStn_control, State.finish_control]

theorem State.blkEnter_control (s : State) (kind : Nat) (d : DieId) (index : Nat) :
    (State.blkEnter s kind d index).control = s.control := by
  unfold State.blkEnter
  (repeat' split) <;> simp only [State.modDie_control, State.blkStation_control, State.blkControl_control, control_upd,
      foldl_control, State.modPort_control_upd, State.eachPort_control_upd, apply_ite State.control,
      ite_self, implies_true]

theorem State.quarantine_control (s : State) (d : DieId) (owner : Option Nat) :
    (State.quarantine s d owner).control = s.control := by
  unfold State.quarantine
  (repeat' split) <;> simp only [State.modDie_control, control_upd, foldl_control, State.modPort_control_upd,
      State.eachPort_control_upd, apply_ite State.control, ite_self, implies_true]

theorem State.blkControlBack_control (s : State) (d : DieId) : (State.blkControlBack s d).control = s.control := by
  simp only [State.blkControlBack, State.eachStn_control, control_upd, foldl_control, State.modPort_control_upd,
      State.eachPort_control_upd, apply_ite State.control, ite_self, implies_true]

theorem State.flash_control (s : State) (ops : List FlashOp) : (State.flash s ops).control = s.control :=
  foldl_control (fun a o => a.emit (.flash o)) (fun _ _ => rfl) _ _

theorem State.runConfirm_control (c : HostCmd) (s : State) : (State.runConfirm c s).control = s.control := by
  simp only [State.runConfirm, State.finish_control, State.addCmd_control, control_upd, foldl_control,
      State.modPort_control_upd, State.eachPort_control_upd, apply_ite State.control, ite_self,
      implies_true]

theorem State.startMount_control (r : CmdRef) (s : State) : (State.startMount r s).control = s.control := by
  unfold State.startMount
  (repeat' split) <;> simp only [State.modStn_control, State.modCmd_control, State.mountGo_control, control_upd, foldl_control,
      State.modPort_control_upd, State.eachPort_control_upd, apply_ite State.control, ite_self,
      implies_true]

theorem State.mountFail_control (s : State) (st : Stn) (r : CmdRef) (f : Ending) :
    (State.mountFail s st r f).control = s.control := by
  simp only [State.mountFail, State.finish_control, State.dropMount_control, control_upd, foldl_control,
      State.modPort_control_upd, State.eachPort_control_upd, apply_ite State.control, ite_self,
      implies_true]

theorem State.mounted_control (s : State) (st : Stn) (r : CmdRef) (m : Mode) (geo : List Byte) (state : Nat) (buf : List Byte) :
    (State.mounted s st r m geo state buf).control = s.control := by
  unfold State.mounted
  (repeat' split) <;> simp only [State.modStn_control, State.finish_control, State.finishWith_control, State.controlledStop_control,
      control_upd, foldl_control, State.modPort_control_upd, State.eachPort_control_upd,
      apply_ite State.control, ite_self, implies_true]

theorem State.mountedBlank_control (s : State) (st : Stn) (r : CmdRef) (k : Cmd) :
    (State.mountedBlank s st r k).control = s.control := by
  simp only [State.mountedBlank, State.modStn_control, State.mounted_control, control_upd, foldl_control,
      State.modPort_control_upd, State.eachPort_control_upd, apply_ite State.control, ite_self,
      implies_true]

theorem State.endpaperFound_control (s : State) (st : Stn) (r : CmdRef) (k : Cmd) (g : RGath) :
    (State.endpaperFound s st r k g).control = s.control := by
  unfold State.endpaperFound
  (repeat' split) <;> first
    | with_reducible rfl
    | (simp only [State.raise_control, State.addJob_control, State.mountFail_control, State.mountedBlank_control,
      control_upd, foldl_control, State.modPort_control_upd, State.eachPort_control_upd,
      apply_ite State.control, ite_self, implies_true]; done)
    | (simp only [State.raise_control, State.addJob_control, State.mountFail_control, State.mountedBlank_control,
      control_upd, foldl_control, State.modPort_control_upd, State.eachPort_control_upd,
      apply_ite State.control, ite_self, implies_true]
       (repeat' split) <;> first | with_reducible rfl | simp only [State.raise_control, State.addJob_control, State.mountFail_control, State.mountedBlank_control,
      control_upd, foldl_control, State.modPort_control_upd, State.eachPort_control_upd,
      apply_ite State.control, ite_self, implies_true])

theorem State.mountOn_control (s : State) (st : Stn) (r : CmdRef) (k : Cmd) (v0 : VolCtx) :
    (State.mountOn s st r k v0).control = s.control := by
  simp only [State.mountOn, State.modStn_control, State.draw_control, State.modCmd_control,
      State.rampTo_control, State.aim_control, State.mounted_control, control_upd, foldl_control,
      State.modPort_control_upd, State.eachPort_control_upd, apply_ite State.control, ite_self,
      implies_true]

theorem State.endpaperPassed_control (s : State) (st : Stn) (r : CmdRef) (k : Cmd) (p : List Byte) :
    (State.endpaperPassed s st r k p).control = s.control := by
  simp only [State.endpaperPassed, State.modStn_control, State.modCmd_control, State.hold_control,
      State.controlledStop_control, State.openLoops_control, State.mountGo_control,
      State.mountOn_control, control_upd, foldl_control, State.modPort_control_upd,
      State.eachPort_control_upd, apply_ite State.control, ite_self, implies_true]

theorem State.mountSearch_control (s : State) (st : Stn) (r : CmdRef) (k : Cmd) :
    (State.mountSearch s st r k).control = s.control := by
  simp only [State.mountSearch, State.modStn_control, State.rampTo_control, State.aim_control,
      State.mountFail_control, State.mountedBlank_control, control_upd, foldl_control,
      State.modPort_control_upd, State.eachPort_control_upd, apply_ite State.control, ite_self,
      implies_true]

theorem State.logSpans_control (s : State) (st : Stn) (r : CmdRef) : (State.logSpans s st r).control = s.control := by
  unfold State.logSpans
  (repeat' split) <;> simp only [State.logErr_control, control_upd, foldl_control, State.modPort_control_upd,
      State.eachPort_control_upd, apply_ite State.control, ite_self, implies_true]

theorem State.rebuild_control (s0 : State) (st : Stn) (r : CmdRef) : (State.rebuild s0 st r).control = s0.control := by
  unfold State.rebuild
  (repeat' split) <;> first
    | with_reducible rfl
    | (simp only [State.modStn_control, State.writeFault_control, State.mountFail_control, State.mounted_control,
      State.logSpans_control, control_upd, foldl_control, State.modPort_control_upd,
      State.eachPort_control_upd, apply_ite State.control, ite_self, implies_true]; done)
    | (simp only [State.modStn_control, State.writeFault_control, State.mountFail_control, State.mounted_control,
      State.logSpans_control, control_upd, foldl_control, State.modPort_control_upd,
      State.eachPort_control_upd, apply_ite State.control, ite_self, implies_true]
       (repeat' split) <;> first | with_reducible rfl | simp only [State.modStn_control, State.writeFault_control, State.mountFail_control, State.mounted_control,
      State.logSpans_control, control_upd, foldl_control, State.modPort_control_upd,
      State.eachPort_control_upd, apply_ite State.control, ite_self, implies_true])

theorem State.drawVolume_control (s : State) (st : Stn) (r : CmdRef) : (State.drawVolume s st r).control = s.control := by
  simp only [State.drawVolume, State.drawBytes_control, control_upd, foldl_control, State.modPort_control_upd,
      State.eachPort_control_upd, apply_ite State.control, ite_self, implies_true]

theorem State.startInit_control (r : CmdRef) (s : State) : (State.startInit r s).control = s.control := by
  unfold State.startInit
  (repeat' split) <;> simp only [State.modStn_control, State.modCmd_control, State.finish_control, State.drawVolume_control,
      control_upd, foldl_control, State.modPort_control_upd, State.eachPort_control_upd,
      apply_ite State.control, ite_self, implies_true]

theorem State.makeVolume_control (s : State) (st : Stn) (r : CmdRef) (depth parity : Nat) (prov srcvol hlabel : List Byte) :
    (State.makeVolume s st r depth parity prov srcvol hlabel).control = s.control := by
  unfold State.makeVolume
  (repeat' split) <;> simp only [State.modStn_control, State.composeEndpaper_control, State.aim_control, control_upd, foldl_control,
      State.modPort_control_upd, State.eachPort_control_upd, apply_ite State.control, ite_self,
      implies_true]

theorem State.startUnmount_control (r : CmdRef) (s : State) : (State.startUnmount r s).control = s.control := by
  unfold State.startUnmount
  (repeat' split) <;> first
    | with_reducible rfl
    | (simp only [State.modStn_control, State.modCmd_control, State.openStation_control, State.addFlush_control,
      control_upd, foldl_control, State.modPort_control_upd, State.eachPort_control_upd,
      apply_ite State.control, ite_self, implies_true]; done)
    | (simp only [State.modStn_control, State.modCmd_control, State.openStation_control, State.addFlush_control,
      control_upd, foldl_control, State.modPort_control_upd, State.eachPort_control_upd,
      apply_ite State.control, ite_self, implies_true]
       (repeat' split) <;> first | with_reducible rfl | simp only [State.modStn_control, State.modCmd_control, State.openStation_control, State.addFlush_control,
      control_upd, foldl_control, State.modPort_control_upd, State.eachPort_control_upd,
      apply_ite State.control, ite_self, implies_true])

theorem State.modMig_control (s : State) (src : Stn) (f : MigJob → MigJob) : (State.modMig s src f).control = s.control := by
  unfold State.modMig
  rfl

theorem State.migRead_control (s : State) (src : Stn) (wrap : Nat) (seen : List RGath) (place : Option Nat) :
    (State.migRead s src wrap seen place).control = s.control := by
  simp only [State.migRead, State.modStn_control, State.wantTape_control, State.serveSeek_control, control_upd,
      foldl_control, State.modPort_control_upd, State.eachPort_control_upd, apply_ite State.control,
      ite_self, implies_true]

theorem State.migStop_control (s : State) (j : MigJob) (status check : Nat) (lon : Option Nat) (resume : Nat) (around : Nat × Nat) :
    (State.migStop s j status check lon resume around).control = s.control := by
  unfold State.migStop
  (repeat' split) <;> first
    | with_reducible rfl
    | (simp only [State.migHalt_control, control_upd, foldl_control, State.modPort_control_upd,
      State.eachPort_control_upd, apply_ite State.control, ite_self, implies_true]; done)
    | (simp only [State.migHalt_control, control_upd, foldl_control, State.modPort_control_upd,
      State.eachPort_control_upd, apply_ite State.control, ite_self, implies_true]
       (repeat' split) <;> first | with_reducible rfl | simp only [State.migHalt_control, control_upd, foldl_control, State.modPort_control_upd,
      State.eachPort_control_upd, apply_ite State.control, ite_self, implies_true])

theorem State.migCreate_control (s : State) (j : MigJob) : (State.migCreate s j).control = s.control := by
  unfold State.migCreate
  (repeat' split) <;> simp only [State.modStn_control, State.controlledStop_control, State.drawVolume_control, State.modMig_control,
      State.migStop_control, control_upd, foldl_control, State.modPort_control_upd,
      State.eachPort_control_upd, apply_ite State.control, ite_self, implies_true]

theorem State.migGive_control (s : State) (j : MigJob) (lon : Nat) (data : Option (List Byte)) :
    (State.migGive s j lon data).control = s.control := by
  unfold State.migGive
  (repeat' split) <;> first
    | with_reducible rfl
    | (simp only [State.modStn_control, State.addJob_control, State.settle_control, control_upd, foldl_control,
      State.modPort_control_upd, State.eachPort_control_upd, apply_ite State.control, ite_self,
      implies_true]; done)
    | (simp only [State.modStn_control, State.addJob_control, State.settle_control, control_upd, foldl_control,
      State.modPort_control_upd, State.eachPort_control_upd, apply_ite State.control, ite_self,
      implies_true]
       (repeat' split) <;> first | with_reducible rfl | simp only [State.modStn_control, State.addJob_control, State.settle_control, control_upd, foldl_control,
      State.modPort_control_upd, State.eachPort_control_upd, apply_ite State.control, ite_self,
      implies_true])

theorem State.migBegin_control (s : State) (r : CmdRef) (e : Entry) (v : VolCtx) :
    (State.migBegin s r e v).control = s.control := by
  simp only [State.migBegin, State.migRead_control, State.migCreate_control, control_upd, foldl_control,
      State.modPort_control_upd, State.eachPort_control_upd, apply_ite State.control, ite_self,
      implies_true]

theorem State.migGoOn_control (s : State) (r : CmdRef) (k : Cmd) (j : MigJob) :
    (State.migGoOn s r k j).control = s.control := by
  unfold State.migGoOn
  (repeat' split) <;> first
    | with_reducible rfl
    | (simp only [State.modStn_control, State.logErr_control, State.settle_control, State.migRead_control,
      State.migCreate_control, State.migGive_control, control_upd, foldl_control,
      State.modPort_control_upd, State.eachPort_control_upd, apply_ite State.control, ite_self,
      implies_true]; done)
    | (simp only [State.modStn_control, State.logErr_control, State.settle_control, State.migRead_control,
      State.migCreate_control, State.migGive_control, control_upd, foldl_control,
      State.modPort_control_upd, State.eachPort_control_upd, apply_ite State.control, ite_self,
      implies_true]
       (repeat' split) <;> first | with_reducible rfl | simp only [State.modStn_control, State.logErr_control, State.settle_control, State.migRead_control,
      State.migCreate_control, State.migGive_control, control_upd, foldl_control,
      State.modPort_control_upd, State.eachPort_control_upd, apply_ite State.control, ite_self,
      implies_true])

theorem State.startMigrate_control (r : CmdRef) (s : State) : (State.startMigrate r s).control = s.control := by
  unfold State.startMigrate
  (repeat' split) <;> first
    | with_reducible rfl
    | (simp only [State.modCmd_control, State.finish_control, State.migBegin_control, State.migGoOn_control,
      control_upd, foldl_control, State.modPort_control_upd, State.eachPort_control_upd,
      apply_ite State.control, ite_self, implies_true]; done)
    | (simp only [State.modCmd_control, State.finish_control, State.migBegin_control, State.migGoOn_control,
      control_upd, foldl_control, State.modPort_control_upd, State.eachPort_control_upd,
      apply_ite State.control, ite_self, implies_true]
       (repeat' split) <;> first | with_reducible rfl | simp only [State.modCmd_control, State.finish_control, State.migBegin_control, State.migGoOn_control,
      control_upd, foldl_control, State.modPort_control_upd, State.eachPort_control_upd,
      apply_ite State.control, ite_self, implies_true])

theorem State.logSealer_control (s : State) (st : Stn) (r : CmdRef) : (State.logSealer s st r).control = s.control := by
  unfold State.logSealer
  (repeat' split) <;> first
    | with_reducible rfl
    | (simp only [State.logErr_control, control_upd, foldl_control, State.modPort_control_upd,
      State.eachPort_control_upd, apply_ite State.control, ite_self, implies_true]; done)
    | (simp only [State.logErr_control, control_upd, foldl_control, State.modPort_control_upd,
      State.eachPort_control_upd, apply_ite State.control, ite_self, implies_true]
       (repeat' split) <;> first | with_reducible rfl | simp only [State.logErr_control, control_upd, foldl_control, State.modPort_control_upd,
      State.eachPort_control_upd, apply_ite State.control, ite_self, implies_true])

theorem State.migFinish_control (s : State) (j : MigJob) : (State.migFinish s j).control = s.control := by
  unfold State.migFinish
  (repeat' split) <;> first
    | with_reducible rfl
    | (simp only [State.modStn_control, State.addFlush_control, State.endReading_control, State.logSpans_control,
      State.modMig_control, State.migStop_control, control_upd, foldl_control, State.modPort_control_upd,
      State.eachPort_control_upd, apply_ite State.control, ite_self, implies_true]; done)
    | (simp only [State.modStn_control, State.addFlush_control, State.endReading_control, State.logSpans_control,
      State.modMig_control, State.migStop_control, control_upd, foldl_control, State.modPort_control_upd,
      State.eachPort_control_upd, apply_ite State.control, ite_self, implies_true]
       (repeat' split) <;> first | with_reducible rfl | simp only [State.modStn_control, State.addFlush_control, State.endReading_control, State.logSpans_control,
      State.modMig_control, State.migStop_control, control_upd, foldl_control, State.modPort_control_upd,
      State.eachPort_control_upd, apply_ite State.control, ite_self, implies_true])

theorem State.migGone_control (s : State) (j : MigJob) (t : State) (h : State.migGone s j = some t) : t.control = s.control := by
  unfold State.migGone at h
  split at h
  · cases h; exact State.migStop_control ..
  · cases h

theorem State.migOver_control (s : State) (src : Stn) : (State.migOver s src).control = s.control := by
  unfold State.migOver
  dsimp only
  (repeat' split) <;> first
    | rfl
    | exact State.migStop_control ..
    | exact State.migCreate_control ..
    | exact State.migFinish_control ..
    | exact State.migGone_control _ _ _ ‹_›

theorem State.migColophon_control (s : State) (src : Stn) : (State.migColophon s src).control = s.control := by
  unfold State.migColophon
  (repeat' split) <;> simp only [State.migStop_control, State.migCreate_control, State.logSealer_control, control_upd,
      foldl_control, State.modPort_control_upd, State.eachPort_control_upd, apply_ite State.control,
      ite_self, implies_true]

theorem State.handover_control (s : State) (src : Stn) (lon : Nat) : (State.handover s src lon).control = s.control := by
  unfold State.handover
  (repeat' split) <;> first
    | with_reducible rfl
    | (simp only [State.migStop_control, State.migGive_control, control_upd, foldl_control,
      State.modPort_control_upd, State.eachPort_control_upd, apply_ite State.control, ite_self,
      implies_true]; done)
    | (simp only [State.migStop_control, State.migGive_control, control_upd, foldl_control,
      State.modPort_control_upd, State.eachPort_control_upd, apply_ite State.control, ite_self,
      implies_true]
       (repeat' split) <;> first | with_reducible rfl | simp only [State.migStop_control, State.migGive_control, control_upd, foldl_control,
      State.modPort_control_upd, State.eachPort_control_upd, apply_ite State.control, ite_self,
      implies_true])

theorem State.giveRead_control (s : State) (r : CmdRef) (k : Cmd) (c : Checked) :
    (State.giveRead s r k c).control = s.control := by
  simp only [State.giveRead, State.finish_control, State.sendData_control, State.finishWith_control,
      State.take_control, control_upd, foldl_control, State.modPort_control_upd,
      State.eachPort_control_upd, apply_ite State.control, ite_self, implies_true]

theorem State.verifyBounds_control (s : State) (st : Stn) : (State.verifyBounds s st).control = s.control := by
  unfold State.verifyBounds
  (repeat' split) <;> simp only [State.finish_control, control_upd, foldl_control, State.modPort_control_upd,
      State.eachPort_control_upd, apply_ite State.control, ite_self, implies_true]

theorem State.readDone_control (s : State) (st : Stn) (lon : Nat) : (State.readDone s st lon).control = s.control := by
  simp only [State.readDone, State.verifyRec_control, State.verifyNext_control, State.count_control,
      State.endReading_control, State.giveRead_control, control_upd, foldl_control,
      State.modPort_control_upd, State.eachPort_control_upd, apply_ite State.control, ite_self,
      implies_true]

theorem State.endVerifyAll_control (s0 : State) (st : Stn) (r : CmdRef) (c : Cmd) :
    (State.endVerifyAll s0 st r c).control = s0.control := by
  unfold State.endVerifyAll
  (repeat' split) <;> first
    | with_reducible rfl
    | (simp only [State.logErr_control, State.finishWith_control, State.logSpans_control, State.logSealer_control,
      control_upd, foldl_control, State.modPort_control_upd, State.eachPort_control_upd,
      apply_ite State.control, ite_self, implies_true]; done)
    | (simp only [State.logErr_control, State.finishWith_control, State.logSpans_control, State.logSealer_control,
      control_upd, foldl_control, State.modPort_control_upd, State.eachPort_control_upd,
      apply_ite State.control, ite_self, implies_true]
       (repeat' split) <;> first | with_reducible rfl | simp only [State.logErr_control, State.finishWith_control, State.logSpans_control, State.logSealer_control,
      control_upd, foldl_control, State.modPort_control_upd, State.eachPort_control_upd,
      apply_ite State.control, ite_self, implies_true])

theorem State.readEnd_control (s : State) (st : Stn) : (State.readEnd s st).control = s.control := by
  simp only [State.readEnd, State.modStn_control, State.controlledStop_control, State.serveSeek_control,
      State.endReading_control, State.migOver_control, State.endVerifyAll_control, control_upd,
      foldl_control, State.modPort_control_upd, State.eachPort_control_upd, apply_ite State.control,
      ite_self, implies_true]

theorem State.readGo_control (s : State) (st : Stn) (n : Nat) : (State.readGo s st n).control = s.control := by
  induction n generalizing s with
  | zero => rfl
  | succ n ih =>
    unfold State.readGo
    simp only []
    have key : ∀ (w : List Nat) (a : State), (w.foldl (fun (a : State) lon =>
        (a.addJob (dieOf st) rDecomp (Job.fresh (.decompress st lon) st a.clock)).addJob (dieOf st) rHash
          (Job.fresh (.fixity st lon) st a.clock)) a).control = a.control :=
      fun w a => foldl_control _ (fun _ _ => (State.addJob_control ..).trans (State.addJob_control ..)) w a
    (repeat' split) <;> first
      | with_reducible rfl
      | (rw [ih, State.readDone_control]; done)
      | (simp only [State.readEnd_control, key]; done)

theorem State.readOn_control (s : State) (st : Stn) : (State.readOn s st).control = s.control := by
  simp only [State.readOn, State.modStn_control, State.verifyBounds_control, State.readGo_control, control_upd,
      foldl_control, State.modPort_control_upd, State.eachPort_control_upd, apply_ite State.control,
      ite_self, implies_true]

theorem State.countRows_control (s : State) (st : Stn) (g : RGath) (rows : List Nat) (kinds : List Nat) :
    (State.countRows s st g rows kinds).control = s.control := by
  simp only [State.countRows, State.count_control, control_upd, foldl_control, State.modPort_control_upd,
      State.eachPort_control_upd, apply_ite State.control, ite_self, implies_true]

theorem State.countC2_control (s : State) (st : Stn) (g : RGath) : (State.countC2 s st g).control = s.control := by
  simp only [State.countC2, State.count_control, State.countRows_control, control_upd, foldl_control,
      State.modPort_control_upd, State.eachPort_control_upd, apply_ite State.control, ite_self,
      implies_true]

theorem State.headerRead_control (s : State) (st : Stn) (g : RGath) : (State.headerRead s st g).control = s.control := by
  unfold State.headerRead
  (repeat' split) <;> simp only [State.modStn_control, State.addJob_control, State.readOver_control, State.endpaperFound_control,
      control_upd, foldl_control, State.modPort_control_upd, State.eachPort_control_upd,
      apply_ite State.control, ite_self, implies_true]

theorem State.decodeGath_control (s : State) (st : Stn) (g : RGath) : (State.decodeGath s st g).control = s.control := by
  simp only [State.decodeGath, State.modStn_control, State.countC2_control, State.headerRead_control,
      control_upd, foldl_control, State.modPort_control_upd, State.eachPort_control_upd,
      apply_ite State.control, ite_self, implies_true]

theorem State.rung3_control (s : State) (st : Stn) (l : List Nat) : (State.rung3 s st l).control = s.control := by
  unfold State.rung3
  (repeat' split) <;> simp only [State.modStn_control, State.runBack_control, State.aim_control, State.readOn_control, control_upd,
      foldl_control, State.modPort_control_upd, State.eachPort_control_upd, apply_ite State.control,
      ite_self, implies_true]

theorem State.climb_control (s : State) (st : Stn) (v : VolCtx) (quire : Nat) :
    (State.climb s st v quire).control = s.control := by
  unfold State.climb
  (repeat' split) <;> first
    | with_reducible rfl
    | (simp only [State.modStn_control, State.rung3_control, control_upd, foldl_control, State.modPort_control_upd,
      State.eachPort_control_upd, apply_ite State.control, ite_self, implies_true]; done)
    | (simp only [State.modStn_control, State.rung3_control, control_upd, foldl_control, State.modPort_control_upd,
      State.eachPort_control_upd, apply_ite State.control, ite_self, implies_true]
       (repeat' split) <;> first | with_reducible rfl | simp only [State.modStn_control, State.rung3_control, control_upd, foldl_control, State.modPort_control_upd,
      State.eachPort_control_upd, apply_ite State.control, ite_self, implies_true])

theorem State.decodeQuire_control (s : State) (st : Stn) (v : VolCtx) (quire : Nat) :
    (State.decodeQuire s st v quire).control = s.control := by
  simp only [State.decodeQuire, State.modStn_control, State.addJob_control, State.countRows_control,
      State.climb_control, control_upd, foldl_control, State.modPort_control_upd,
      State.eachPort_control_upd, apply_ite State.control, ite_self, implies_true]

theorem State.labelRead_control (s : State) (st : Stn) (g : RGath) : (State.labelRead s st g).control = s.control := by
  unfold State.labelRead
  (repeat' split) <;> first
    | with_reducible rfl
    | (simp only [State.modStn_control, State.take_control, State.migColophon_control, control_upd, foldl_control,
      State.modPort_control_upd, State.eachPort_control_upd, apply_ite State.control, ite_self,
      implies_true]; done)
    | (simp only [State.modStn_control, State.take_control, State.migColophon_control, control_upd, foldl_control,
      State.modPort_control_upd, State.eachPort_control_upd, apply_ite State.control, ite_self,
      implies_true]
       (repeat' split) <;> first | with_reducible rfl | simp only [State.modStn_control, State.take_control, State.migColophon_control, control_upd, foldl_control,
      State.modPort_control_upd, State.eachPort_control_upd, apply_ite State.control, ite_self,
      implies_true])

theorem State.tagFailed_control (s : State) (st : Stn) (g : RGath) : (State.tagFailed s st g).control = s.control := by
  unfold State.tagFailed
  (repeat' split) <;> first
    | with_reducible rfl
    | (simp only [State.modStn_control, State.climb_control, control_upd, foldl_control, State.modPort_control_upd,
      State.eachPort_control_upd, apply_ite State.control, ite_self, implies_true]; done)
    | (simp only [State.modStn_control, State.climb_control, control_upd, foldl_control, State.modPort_control_upd,
      State.eachPort_control_upd, apply_ite State.control, ite_self, implies_true]
       (repeat' split) <;> first | with_reducible rfl | simp only [State.modStn_control, State.climb_control, control_upd, foldl_control, State.modPort_control_upd,
      State.eachPort_control_upd, apply_ite State.control, ite_self, implies_true])

theorem State.recallWrapEnd_control (s : State) (st : Stn) : (State.recallWrapEnd s st).control = s.control := by
  unfold State.recallWrapEnd
  (repeat' split) <;> first
    | with_reducible rfl
    | (simp only [State.modStn_control, State.rampTo_control, State.controlledStop_control, State.aim_control,
      State.mountSearch_control, State.readOn_control, control_upd, foldl_control,
      State.modPort_control_upd, State.eachPort_control_upd, apply_ite State.control, ite_self,
      implies_true]; done)
    | (simp only [State.modStn_control, State.rampTo_control, State.controlledStop_control, State.aim_control,
      State.mountSearch_control, State.readOn_control, control_upd, foldl_control,
      State.modPort_control_upd, State.eachPort_control_upd, apply_ite State.control, ite_self,
      implies_true]
       (repeat' split) <;> first | with_reducible rfl | simp only [State.modStn_control, State.rampTo_control, State.controlledStop_control, State.aim_control,
      State.mountSearch_control, State.readOn_control, control_upd, foldl_control,
      State.modPort_control_upd, State.eachPort_control_upd, apply_ite State.control, ite_self,
      implies_true])

theorem State.reserveFault_control (s : State) (st : Stn) : (State.reserveFault s st).control = s.control := by
  simp only [State.reserveFault, State.modStn_control, State.writeFault_control, control_upd, foldl_control,
      State.modPort_control_upd, State.eachPort_control_upd, apply_ite State.control, ite_self,
      implies_true]

theorem State.placeTail_control (s : State) (st : Stn) (n : Nat) : (State.placeTail s st n).control = s.control := by
  unfold State.placeTail
  rfl

theorem State.closeEmpty_control (s : State) (st : Stn) : (State.closeEmpty s st).control = s.control := by
  simp only [State.closeEmpty, State.modStn_control, State.closeGath_control, control_upd, foldl_control,
      State.modPort_control_upd, State.eachPort_control_upd, apply_ite State.control, ite_self,
      implies_true]

theorem State.endFill_control (s : State) (st : Stn) (n : Nat) : (State.endFill s st n).control = s.control := by
  unfold State.endFill
  rfl

theorem State.resume_control (s : State) (st : Stn) : (State.resume s st).control = s.control := by
  unfold State.resume
  rfl

theorem State.fillResume_control (s : State) (st : Stn) : (State.fillResume s st).control = s.control := by
  simp only [State.fillResume, State.emit_control, State.capDown_control, State.endFill_control,
      State.resume_control, control_upd, foldl_control, State.modPort_control_upd,
      State.eachPort_control_upd, apply_ite State.control, ite_self, implies_true]

theorem State.newRun_control (s : State) (st : Stn) : (State.newRun s st).control = s.control := by
  unfold State.newRun
  rfl

theorem State.turnLabels_control (s : State) (st : Stn) (w : Nat) : (State.turnLabels s st w).control = s.control := by
  unfold State.turnLabels
  (repeat' split) <;> simp only [State.modStn_control, State.composeEndpaper_control, State.composeSpines_control, control_upd,
      foldl_control, State.modPort_control_upd, State.eachPort_control_upd, apply_ite State.control,
      ite_self, implies_true]

theorem State.nextWrap_control (s : State) (st : Stn) (stopping : Bool) :
    (State.nextWrap s st stopping).control = s.control := by
  unfold State.nextWrap
  (repeat' split) <;> first
    | with_reducible rfl
    | (simp only [State.modStn_control, State.giveBack_control, State.closeOpen_control, State.aim_control,
      State.resume_control, State.turnLabels_control, control_upd, foldl_control,
      State.modPort_control_upd, State.eachPort_control_upd, apply_ite State.control, ite_self,
      implies_true]; done)
    | (simp only [State.modStn_control, State.giveBack_control, State.closeOpen_control, State.aim_control,
      State.resume_control, State.turnLabels_control, control_upd, foldl_control,
      State.modPort_control_upd, State.eachPort_control_upd, apply_ite State.control, ite_self,
      implies_true]
       (repeat' split) <;> first | with_reducible rfl | simp only [State.modStn_control, State.giveBack_control, State.closeOpen_control, State.aim_control,
      State.resume_control, State.turnLabels_control, control_upd, foldl_control,
      State.modPort_control_upd, State.eachPort_control_upd, apply_ite State.control, ite_self,
      implies_true])

theorem State.turn_control (s : State) (st : Stn) : (State.turn s st).control = s.control := by
  unfold State.turn
  (repeat' split) <;> first
    | with_reducible rfl
    | (simp only [State.modStn_control, State.voidWriting_control, State.rampTo_control, State.closureFailed_control,
      State.settle_control, State.writeFault_control, State.nextWrap_control, control_upd, foldl_control,
      State.modPort_control_upd, State.eachPort_control_upd, apply_ite State.control, ite_self,
      implies_true]; done)
    | (simp only [State.modStn_control, State.voidWriting_control, State.rampTo_control, State.closureFailed_control,
      State.settle_control, State.writeFault_control, State.nextWrap_control, control_upd, foldl_control,
      State.modPort_control_upd, State.eachPort_control_upd, apply_ite State.control, ite_self,
      implies_true]
       (repeat' split) <;> first | with_reducible rfl | simp only [State.modStn_control, State.voidWriting_control, State.rampTo_control, State.closureFailed_control,
      State.settle_control, State.writeFault_control, State.nextWrap_control, control_upd, foldl_control,
      State.modPort_control_upd, State.eachPort_control_upd, apply_ite State.control, ite_self,
      implies_true])

theorem State.eachWriting_control (s : State) (f : State → Stn → State) (h : ∀ a st, (f a st).control = a.control) :
    (State.eachWriting s f).control = s.control := by
  unfold State.eachWriting
  refine foldl_control _ (fun a st => ?_) _ _
  split
  · rfl
  · exact h _ _

theorem State.dipResume_control (s : State) (st : Stn) : (State.dipResume s st).control = s.control := by
  simp only [State.dipResume, State.runOut_control, State.fillResume_control, control_upd, foldl_control,
      State.modPort_control_upd, State.eachPort_control_upd, apply_ite State.control, ite_self,
      implies_true]

theorem State.busReads_control (s : State) (st : Stn) (counts : Nat) : (State.busReads s st counts).control = s.control := by
  unfold State.busReads
  rfl

theorem State.busLevel_control (s : State) (st : Stn) (mv level : Nat) (f : State → State)
    (h : ∀ a, (f a).control = a.control) : (State.busLevel s st mv level f).control = s.control := by
  unfold State.busLevel
  split
  · rfl
  · rw [h, State.raise_control, State.busReads_control]

theorem State.setBusCap_control (s : State) (st : Stn) (c : Option Nat) : (State.setBusCap s st c).control = s.control := by
  simp only [State.setBusCap, State.modStn_control, State.capDown_control, control_upd, foldl_control,
      State.modPort_control_upd, State.eachPort_control_upd, apply_ite State.control, ite_self,
      implies_true]

theorem State.busRaise_control (s : State) (st : Stn) : (State.busRaise s st).control = s.control := by
  unfold State.busRaise
  rfl

theorem State.stationHalts_control (s : State) (st : Stn) : (State.stationHalts s st).control = s.control := by
  simp only [State.stationHalts, State.modStn_control, State.raise_control, State.voidWriting_control,
      State.failStation_control, State.fallback_control, control_upd, foldl_control,
      State.modPort_control_upd, State.eachPort_control_upd, apply_ite State.control, ite_self,
      implies_true]

theorem State.readPoisoned_control (s : State) (a : PageAddr) (r : CmdRef) (ofs : Nat) (g : PageImg) :
    (State.readPoisoned s a r ofs g).control = s.control := by
  unfold State.readPoisoned
  (repeat' split) <;> first
    | with_reducible rfl
    | (simp only [State.finish_control, State.sendData_control, State.take_control, State.endReading_control,
      control_upd, foldl_control, State.modPort_control_upd, State.eachPort_control_upd,
      apply_ite State.control, ite_self, implies_true]; done)
    | (simp only [State.finish_control, State.sendData_control, State.take_control, State.endReading_control,
      control_upd, foldl_control, State.modPort_control_upd, State.eachPort_control_upd,
      apply_ite State.control, ite_self, implies_true]
       (repeat' split) <;> first | with_reducible rfl | simp only [State.finish_control, State.sendData_control, State.take_control, State.endReading_control,
      control_upd, foldl_control, State.modPort_control_upd, State.eachPort_control_upd,
      apply_ite State.control, ite_self, implies_true])

theorem State.mountReads_control (s : State) (st : Stn) (r : CmdRef) : (State.mountReads s st r).control = s.control := by
  simp only [State.mountReads, State.modStn_control, State.modCmd_control, State.rampTo_control,
      State.aim_control, control_upd, foldl_control, State.modPort_control_upd,
      State.eachPort_control_upd, apply_ite State.control, ite_self, implies_true]

theorem State.recallFails_control (s : State) (st : Stn) (hit : Cmd → Bool) (forMig : Bool) (lon n : Nat) :
    (State.recallFails s st hit forMig lon n).control = s.control := by
  unfold State.recallFails
  (repeat' split) <;> first
    | with_reducible rfl
    | (simp only [State.finishAll_control, State.endReading_control, State.migStop_control, control_upd,
      foldl_control, State.modPort_control_upd, State.eachPort_control_upd, apply_ite State.control,
      ite_self, implies_true]; done)
    | (simp only [State.finishAll_control, State.endReading_control, State.migStop_control, control_upd,
      foldl_control, State.modPort_control_upd, State.eachPort_control_upd, apply_ite State.control,
      ite_self, implies_true]
       (repeat' split) <;> first | with_reducible rfl | simp only [State.finishAll_control, State.endReading_control, State.migStop_control, control_upd,
      foldl_control, State.modPort_control_upd, State.eachPort_control_upd, apply_ite State.control,
      ite_self, implies_true])

theorem State.labelFails_control (s : State) (st : Stn) (gnum n : Nat) :
    (State.labelFails s st gnum n).control = s.control := by
  unfold State.labelFails
  (repeat' split) <;> first
    | with_reducible rfl
    | (simp only [State.modStn_control, State.finish_control, State.migStop_control, control_upd, foldl_control,
      State.modPort_control_upd, State.eachPort_control_upd, apply_ite State.control, ite_self,
      implies_true]; done)
    | (simp only [State.modStn_control, State.finish_control, State.migStop_control, control_upd, foldl_control,
      State.modPort_control_upd, State.eachPort_control_upd, apply_ite State.control, ite_self,
      implies_true]
       (repeat' split) <;> first | with_reducible rfl | simp only [State.modStn_control, State.finish_control, State.migStop_control, control_upd, foldl_control,
      State.modPort_control_upd, State.eachPort_control_upd, apply_ite State.control, ite_self,
      implies_true])

theorem State.jobFails_control (s : State) (j : Job) (n : Nat) : (State.jobFails s j n).control = s.control := by
  unfold State.jobFails
  (repeat' split) <;> first
    | with_reducible rfl
    | (simp only [State.finish_control, State.finishAll_control, State.dropJobs_control, State.burnFrom_control,
      State.abandonRec_control, State.settle_control, State.sealGo_control, State.untakeAppend_control,
      State.mountFail_control, State.recallFails_control, State.labelFails_control, control_upd,
      foldl_control, State.modPort_control_upd, State.eachPort_control_upd, apply_ite State.control,
      ite_self, implies_true]; done)
    | (simp only [State.finish_control, State.finishAll_control, State.dropJobs_control, State.burnFrom_control,
      State.abandonRec_control, State.settle_control, State.sealGo_control, State.untakeAppend_control,
      State.mountFail_control, State.recallFails_control, State.labelFails_control, control_upd,
      foldl_control, State.modPort_control_upd, State.eachPort_control_upd, apply_ite State.control,
      ite_self, implies_true]
       (repeat' split) <;> first | with_reducible rfl | simp only [State.finish_control, State.finishAll_control, State.dropJobs_control, State.burnFrom_control,
      State.abandonRec_control, State.settle_control, State.sealGo_control, State.untakeAppend_control,
      State.mountFail_control, State.recallFails_control, State.labelFails_control, control_upd,
      foldl_control, State.modPort_control_upd, State.eachPort_control_upd, apply_ite State.control,
      ite_self, implies_true])

theorem State.jobRefused_control (s : State) (j : Job) : (State.jobRefused s j).control = s.control := by
  unfold State.jobRefused
  (repeat' split) <;> simp only [State.dropJobs_control, State.jobFails_control, control_upd, foldl_control,
      State.modPort_control_upd, State.eachPort_control_upd, apply_ite State.control, ite_self,
      implies_true]

theorem State.startOver_control (s : State) (st : Stn) (lon : Nat) : (State.startOver s st lon).control = s.control := by
  simp only [State.startOver, State.modRec_control, control_upd, foldl_control, State.modPort_control_upd,
      State.eachPort_control_upd, apply_ite State.control, ite_self, implies_true]

theorem State.startRerun_control (s : State) (j : Job) : (State.startRerun s j).control = s.control := by
  unfold State.startRerun
  (repeat' split) <;> simp only [State.startOver_control, control_upd, foldl_control, State.modPort_control_upd,
      State.eachPort_control_upd, apply_ite State.control, ite_self, implies_true]

theorem State.fenceLane_control (s : State) (d : DieId) (r : Region) (lane : Nat) :
    (State.fenceLane s d r lane).control = s.control := by
  simp only [State.fenceLane, State.modDie_control, State.raise_control, State.jobFails_control,
      State.startRerun_control, control_upd, foldl_control, State.modPort_control_upd,
      State.eachPort_control_upd, apply_ite State.control, ite_self, implies_true]

theorem State.endAppend_control (s : State) (r : CmdRef) (k : Cmd) (lon : Nat) (hash : Option (List Byte)) :
    (State.endAppend s r k lon hash).control = s.control := by
  unfold State.endAppend
  (repeat' split) <;> simp only [State.finish_control, State.finishWith_control, control_upd, foldl_control,
      State.modPort_control_upd, State.eachPort_control_upd, apply_ite State.control, ite_self,
      implies_true]

theorem State.intake_control (s : State) (r : CmdRef) (data : List Byte) (ep : Bool) :
    (State.intake s r data ep).control = s.control := by
  unfold State.intake
  (repeat' split) <;> first
    | with_reducible rfl
    | (simp only [State.raise_control, State.finish_control, State.addJob_control, State.dropJobs_control,
      State.abandonRec_control, State.settle_control, State.count_control, State.modRec_control,
      State.sealGo_control, State.endAppend_control, control_upd, foldl_control,
      State.modPort_control_upd, State.eachPort_control_upd, apply_ite State.control, ite_self,
      implies_true]; done)
    | (simp only [State.raise_control, State.finish_control, State.addJob_control, State.dropJobs_control,
      State.abandonRec_control, State.settle_control, State.count_control, State.modRec_control,
      State.sealGo_control, State.endAppend_control, control_upd, foldl_control,
      State.modPort_control_upd, State.eachPort_control_upd, apply_ite State.control, ite_self,
      implies_true]
       (repeat' split) <;> first | with_reducible rfl | simp only [State.raise_control, State.finish_control, State.addJob_control, State.dropJobs_control,
      State.abandonRec_control, State.settle_control, State.count_control, State.modRec_control,
      State.sealGo_control, State.endAppend_control, control_upd, foldl_control,
      State.modPort_control_upd, State.eachPort_control_upd, apply_ite State.control, ite_self,
      implies_true])

theorem State.afterBlock_control (s : State) (st : Stn) (lon : Nat) : (State.afterBlock s st lon).control = s.control := by
  unfold State.afterBlock
  cases s.rec? st lon with
  | none => exact State.dropJobs_control ..
  | some r =>
    refine ite_control (State.dropJobs_control ..) ?_
    generalize List.find? _ _ = x
    cases x with
    | none => rfl
    | some x => exact ite_control (State.backToWait_control ..) rfl

theorem State.touch_control (s : State) (p : Port) : (State.touch s p).control = s.control := by
  simp only [State.touch, control_upd, foldl_control, State.modPort_control_upd, State.eachPort_control_upd,
      apply_ite State.control, ite_self, implies_true]

theorem State.badDoorbell_control (s : State) (p : Port) : (State.badDoorbell s p).control = s.control := by
  simp only [State.badDoorbell, State.raise_control, control_upd, foldl_control, State.modPort_control_upd,
      State.eachPort_control_upd, apply_ite State.control, ite_self, implies_true]

theorem State.unstablePool_control (s : State) (st : Stn) (f : BufUse → Bool) (d : DieId) (p : Fin 5) :
    (State.unstablePool s st f d p).control = s.control := by
  simp only [State.unstablePool, State.modDie_control, State.returnBuf_control, control_upd, foldl_control,
      State.modPort_control_upd, State.eachPort_control_upd, apply_ite State.control, ite_self,
      implies_true]

theorem State.unstable_control (s : State) (st : Stn) (f : BufUse → Bool) : (State.unstable s st f).control = s.control := by
  simp only [State.unstable, State.unstablePool_control, control_upd, foldl_control, State.modPort_control_upd,
      State.eachPort_control_upd, apply_ite State.control, ite_self, implies_true]

theorem State.restartJobs_control (s : State) (st : Stn) : (State.restartJobs s st).control = s.control := by
  unfold State.restartJobs
  (repeat' split) <;> first
    | with_reducible rfl
    | (simp only [State.addJob_control, control_upd, foldl_control, State.modPort_control_upd,
      State.eachPort_control_upd, apply_ite State.control, ite_self, implies_true]; done)
    | (simp only [State.addJob_control, control_upd, foldl_control, State.modPort_control_upd,
      State.eachPort_control_upd, apply_ite State.control, ite_self, implies_true]
       (repeat' split) <;> first | with_reducible rfl | simp only [State.addJob_control, control_upd, foldl_control, State.modPort_control_upd,
      State.eachPort_control_upd, apply_ite State.control, ite_self, implies_true])

theorem State.brokenFault_control (s : State) (st : Stn) : (State.brokenFault s st).control = s.control := by
  unfold State.brokenFault
  (repeat' split) <;> simp only [State.modStn_control, State.settle_control, State.writeFault_control, control_upd, foldl_control,
      State.modPort_control_upd, State.eachPort_control_upd, apply_ite State.control, ite_self,
      implies_true]

theorem State.unstableStn_control (s : State) (st : Stn) (keep : BufUse → Bool) (lose : Rec → Bool) :
    (State.unstableStn s st keep lose).1.control = s.control := by
  unfold State.unstableStn
  (repeat' split) <;> simp only [State.modStn_control, State.settle_control, State.unstable_control, State.restartJobs_control,
      State.brokenFault_control, control_upd, foldl_control, State.modPort_control_upd,
      State.eachPort_control_upd, apply_ite State.control, ite_self, implies_true]

theorem State.resolve_control (s : State) (r : CmdRef) (keep : BufUse → Bool) (lose : Rec → Bool) (forced : Bool) :
    (State.resolve s r keep lose forced).control = s.control := by
  have key : ∀ (l : List Stn) (x : State × List Nat × Bool), (l.foldl (fun (a : State × List Nat × Bool) st =>
      ((a.1.unstableStn st keep lose).1, a.2.1 ++ (a.1.unstableStn st keep lose).2.1, a.2.2 || (a.1.unstableStn st keep lose).2.2))
        x).1.control = x.1.control := fun l x =>
    foldl_fst_control _ (fun a st => by dsimp only; rw [State.unstableStn_control]) l x
  unfold State.resolve
  split
  · rfl
  · dsimp only
    refine ite_control ?_ ?_
    · rw [State.finish_control, key]
    · rw [State.finishLosses_control, key]

theorem State.startRecover_control (r : CmdRef) (s : State) : (State.startRecover r s).control = s.control := by
  simp only [State.startRecover, State.resolve_control, control_upd, foldl_control, State.modPort_control_upd,
      State.eachPort_control_upd, apply_ite State.control, ite_self, implies_true]

theorem State.startDiscard_control (r : CmdRef) (s : State) : (State.startDiscard r s).control = s.control := by
  simp only [State.startDiscard, State.resolve_control, control_upd, foldl_control, State.modPort_control_upd,
      State.eachPort_control_upd, apply_ite State.control, ite_self, implies_true]

theorem State.volumeNumbered_control (s : State) (st : Stn) (r : CmdRef) :
    (State.volumeNumbered s st r).control = s.control := by
  unfold State.volumeNumbered
  (repeat' split) <;> simp only [State.makeVolume_control, control_upd, foldl_control, State.modPort_control_upd,
      State.eachPort_control_upd, apply_ite State.control, ite_self, implies_true]

theorem State.runWaiting_control (s : State) (r : CmdRef) : (State.runWaiting s r).control = s.control := by
  unfold State.runWaiting
  (repeat' split) <;> simp only [State.modCmd_control, State.startAdmin_control, State.startAppend_control,
      State.startFlush_control, State.startReader_control, State.startSeal_control,
      State.startScrub_control, State.startMount_control, State.startInit_control,
      State.startUnmount_control, State.startMigrate_control, State.startRecover_control,
      State.startDiscard_control, control_upd, foldl_control, State.modPort_control_upd,
      State.eachPort_control_upd, apply_ite State.control, ite_self, implies_true]

end Sys2Proof.Machine
end

