-- ==== Sys2Proof/Laws/Bytes.lean ====
section
/-!
SUPPORT. The operations that leave buffer memory of the package alone: one lemma for each, in the order in which they are built on
one another.
-/
set_option linter.all false

namespace Sys2Proof.Machine

/-- An update of any field that is no part of buffer memory. -/
theorem keeps_mem_upd (s : State) (pending : List Instr) (clock : Nat) (fresh : Nat) (out : List Out) (rst : ResetCtl) (ledger : Ledger) (boot : Boot) (vault : Vault) (supply : Supply) (thermal : Thermal) (pinsSet : Bool) (hbm : Vector Stack 4) (dies : Vector Die 2) (stores : Vector Store 10) (stns : Vector Station 8) (stnMap : BitVec 8) (locks : List Lock) (mntCnt : BitVec 32) (ucieDown : Bool) (migs : List MigJob) (test : Option TestRun) (power : Power) (blkRst : List BlkReset) (tap : Tap) :
    State.mem ⟨pending, clock, fresh, out, rst, ledger, boot, vault, supply, thermal, pinsSet, s.mem, hbm, dies, stores, s.ports, stns, stnMap, locks, mntCnt, ucieDown, migs, test, power, blkRst, tap⟩ = s.mem := rfl

/-- A fold of operations that leave buffer memory alone. -/
theorem foldl_keeps_mem {β : Type} (f : State → β → State) (h : ∀ a x, (f a x).mem = a.mem) (l : List β) (s : State) :
    (l.foldl f s).mem = s.mem := by
  induction l generalizing s with
  | nil => rfl
  | cons x r ih => exact (ih _).trans (h _ _)

/-- The same of a fold that gathers something beside the state. -/
theorem foldl_fst_keeps_mem {α β : Type} (f : State × α → β → State × α) (h : ∀ a x, (f a x).1.mem = a.1.mem) (l : List β)
    (a : State × α) : (l.foldl f a).1.mem = a.1.mem := by
  induction l generalizing a with
  | nil => rfl
  | cons x r ih => exact (ih _).trans (h _ _)

/-- A choice between two operations that leave buffer memory alone. -/
theorem ite_keeps_mem {c : Prop} [Decidable c] {a b s : State} (ha : a.mem = s.mem) (hb : b.mem = s.mem) :
    (if c then a else b).mem = s.mem := by
  split
  · exact ha
  · exact hb

theorem State.modPort_keeps_mem (s : State) (p : Port) (f : HostPort → HostPort) : (s.modPort p f).mem = s.mem := rfl
theorem State.eachPort_keeps_mem (s : State) (f : Port → HostPort → HostPort) : (s.eachPort f).mem = s.mem := rfl
theorem State.modDie_keeps_mem (s : State) (d : DieId) (f : Die → Die) : (s.modDie d f).mem = s.mem := rfl
theorem State.modStn_keeps_mem (s : State) (t : Stn) (f : Station → Station) : (s.modStn t f).mem = s.mem := rfl
theorem State.modStack_keeps_mem (s : State) (k : Fin 4) (f : Stack → Stack) : (s.modStack k f).mem = s.mem := rfl
theorem State.modStore_keeps_mem (s : State) (k : Fin 10) (f : Store → Store) : (s.modStore k f).mem = s.mem := rfl
theorem State.emit_keeps_mem (s : State) (o : Out) : (s.emit o).mem = s.mem := rfl
theorem State.draw_keeps_mem (s : State) : s.draw.2.mem = s.mem := rfl
theorem State.drawBytes_keeps_mem (s : State) (n : Nat) : (s.drawBytes n).2.mem = s.mem := rfl
theorem State.eachDie_keeps_mem (s : State) (f : DieId → Die → Die) : (s.eachDie f).mem = s.mem := rfl
theorem State.eachStn_keeps_mem (s : State) (f : Stn → Station → Station) : (s.eachStn f).mem = s.mem := by
  unfold State.eachStn
  exact foldl_keeps_mem (fun a t => a.modStn t (f t)) (fun _ _ => rfl) allStns s

/-- Buffer memory is part of the control state. -/
theorem keeps_mem_of {s t : State} (h : t.control = s.control) : t.mem = s.mem := congrArg Control.mem h

theorem State.raise_keeps_mem (s : State) (n : Nat) (detail : Nat) : (State.raise s n detail).mem = s.mem :=
  keeps_mem_of (State.raise_control s n detail)

theorem State.modQp_keeps_mem (s : State) (p : Port) (q : Nat) (f : Qp → Qp) : (State.modQp s p q f).mem = s.mem :=
  keeps_mem_of (State.modQp_control s p q f)

theorem State.finishNew_keeps_mem (s : State) (c : HostCmd) (f : Ending) : (State.finishNew s c f).mem = s.mem :=
  keeps_mem_of (State.finishNew_control s c f)

theorem State.finish_keeps_mem (s : State) (r : CmdRef) (f : Ending) : (State.finish s r f).mem = s.mem :=
  keeps_mem_of (State.finish_control s r f)

theorem State.finishWith_keeps_mem (s : State) (r : CmdRef) (f : Ending) (buf : List Byte) : (State.finishWith s r f buf).mem = s.mem :=
  keeps_mem_of (State.finishWith_control s r f buf)

theorem State.flash_keeps_mem (s : State) (ops : List FlashOp) : (State.flash s ops).mem = s.mem :=
  foldl_keeps_mem (fun a o => a.emit (.flash o)) (fun _ _ => rfl) _ _

theorem State.stageGo_keeps_mem (s : State) (c : HostCmd) (data : List Byte) : (State.stageGo s c data).mem = s.mem := by
  unfold State.stageGo
  (repeat' split) <;> simp only [State.flash_keeps_mem]

theorem State.addCmd_keeps_mem (s : State) (c : HostCmd) (k : Cmd) : (State.addCmd s c k).mem = s.mem :=
  keeps_mem_of (State.addCmd_control s c k)

theorem State.runStage_keeps_mem (c : HostCmd) (data : List Byte) (s : State) : (State.runStage c data s).mem = s.mem := by
  simp only [State.runStage, State.stageGo_keeps_mem, State.addCmd_keeps_mem]

theorem State.unlock_keeps_mem (s : State) (r : CmdRef) : (State.unlock s r).mem = s.mem :=
  keeps_mem_of (State.unlock_control s r)

theorem State.dropJobs_keeps_mem (s : State) (f : JobKind → Bool) : (State.dropJobs s f).mem = s.mem :=
  keeps_mem_of (State.dropJobs_control s f)

theorem State.settle_keeps_mem (s : State) (st : Stn) : (State.settle s st).mem = s.mem :=
  keeps_mem_of (State.settle_control s st)

theorem State.dropMount_keeps_mem (s : State) (st : Stn) : (State.dropMount s st).mem = s.mem :=
  keeps_mem_of (State.dropMount_control s st)

theorem State.sealGo_keeps_mem (s : State) (st : Stn) : (State.sealGo s st).mem = s.mem :=
  keeps_mem_of (State.sealGo_control s st)

theorem State.testEnds_keeps_mem (s : State) (outcome : Nat) (parts : List TestPart) :
    (State.testEnds s outcome parts).mem = s.mem := by
  unfold State.testEnds
  (repeat' split) <;> simp only [State.finishWith_keeps_mem]

theorem State.blkStationBack_keeps_mem (s : State) (st : Stn) : (State.blkStationBack s st).mem = s.mem := by
  unfold State.blkStationBack
  rfl

theorem State.blkControlBack_keeps_mem (s : State) (d : DieId) : (State.blkControlBack s d).mem = s.mem :=
  keeps_mem_of (State.blkControlBack_control s d)

theorem State.blkLeave_keeps_mem (s : State) (b : BlkReset) : (State.blkLeave s b).mem = s.mem := by
  unfold State.blkLeave
  (repeat' split) <;> simp only [State.blkStationBack_keeps_mem, State.modDie_keeps_mem, State.blkControlBack_keeps_mem]

theorem State.abandonRec_keeps_mem (s : State) (st : Stn) (lon : Nat) (why : Abandon) : (State.abandonRec s st lon why).mem = s.mem :=
  keeps_mem_of (State.abandonRec_control s st lon why)

theorem State.abandonOpen_keeps_mem (s : State) (p : Port) (q : Nat) : (State.abandonOpen s p q).mem = s.mem := by
  unfold State.abandonOpen
  refine foldl_keeps_mem _ (fun a st => ?_) _ _
  split
  · rfl
  · rw [State.settle_keeps_mem]
    exact foldl_keeps_mem _ (fun _ _ => State.abandonRec_keeps_mem ..) _ _

theorem State.endReading_keeps_mem (s : State) (st : Stn) : (State.endReading s st).mem = s.mem :=
  keeps_mem_of (State.endReading_control s st)

theorem State.abortKind_keeps_mem (s1 : State) (r : CmdRef) (k : Cmd) : (State.abortKind s1 r k).mem = s1.mem := by
  unfold State.abortKind
  dsimp only
  split
  · rw [State.settle_keeps_mem, State.sealGo_keeps_mem, State.abandonRec_keeps_mem]
  · rw [State.endReading_keeps_mem, State.modStn_keeps_mem]
  · rw [State.endReading_keeps_mem, State.modStn_keeps_mem]
  · rw [State.endReading_keeps_mem, State.modStn_keeps_mem]
  · rfl
  · split
    · exact keeps_mem_of (State.migHalt_control ..)
    · rfl
  · rfl
  · refine ite_keeps_mem ?_ rfl
    rw [State.dropMount_keeps_mem]
  · exact ite_keeps_mem rfl rfl
  · rfl
  · rfl

theorem State.dropWaits_keeps_mem (s : State) (f : Waiter → Bool) : (State.dropWaits s f).mem = s.mem :=
  keeps_mem_of (State.dropWaits_control s f)

theorem State.forgetCmd_keeps_mem (s : State) (r : CmdRef) : (State.forgetCmd s r).mem = s.mem := by
  unfold State.forgetCmd
  rfl

theorem State.abortEffect_keeps_mem (s : State) (r : CmdRef) (k : Cmd) : (State.abortEffect s r k).mem = s.mem := by
  simp only [State.abortEffect, State.abortKind_keeps_mem, State.forgetCmd_keeps_mem]

theorem State.undone_keeps_mem (s : State) (p : Port) (q : Nat) (d : Done) : (State.undone s p q d).mem = s.mem :=
  keeps_mem_of (State.undone_control s p q d)

theorem State.abortQueue_keeps_mem (s : State) (p : Port) (q : Nat) : (State.abortQueue s p q).mem = s.mem := by
  unfold State.abortQueue
  (repeat' split) <;> simp only [State.modQp_keeps_mem, State.abortEffect_keeps_mem, State.undone_keeps_mem, foldl_keeps_mem,
      implies_true]

theorem State.portReset_keeps_mem (s : State) (p : Port) : (State.portReset s p).mem = s.mem := by
  simp only [State.portReset, State.abandonOpen_keeps_mem, State.abortQueue_keeps_mem, State.modPort_keeps_mem, State.dropWaits_keeps_mem,
      keeps_mem_upd, foldl_keeps_mem, implies_true]

theorem State.dropWord_keeps_mem (s : State) (d : DieId) (q : Fin 4) : (State.dropWord s d q).mem = s.mem :=
  keeps_mem_of (State.dropWord_control s d q)

theorem State.popTrace_keeps_mem (s : State) (p : Port) (d : DieId) (q : Fin 4) (flips : BitVec 73) :
    (State.popTrace s p d q flips).2.mem = s.mem := by
  unfold State.popTrace
  (repeat' split) <;> first
    | with_reducible rfl
    | (simp only [State.modPort_keeps_mem, State.modDie_keeps_mem, State.draw_keeps_mem, State.dropWord_keeps_mem,
      keeps_mem_upd, foldl_keeps_mem, State.eachPort_keeps_mem, apply_ite State.mem, ite_self, implies_true]; done)
    | (simp only [State.modPort_keeps_mem, State.modDie_keeps_mem, State.draw_keeps_mem, State.dropWord_keeps_mem,
      keeps_mem_upd, foldl_keeps_mem, State.eachPort_keeps_mem, apply_ite State.mem, ite_self, implies_true]
       (repeat' split) <;> first | with_reducible rfl | simp only [State.modPort_keeps_mem, State.modDie_keeps_mem, State.draw_keeps_mem, State.dropWord_keeps_mem,
      keeps_mem_upd, foldl_keeps_mem, State.eachPort_keeps_mem, apply_ite State.mem, ite_self, implies_true])

theorem State.wakeFor_keeps_mem (s : State) (r : CmdRef) : (State.wakeFor s r).mem = s.mem :=
  keeps_mem_of (State.wakeFor_control s r)

theorem State.launch_keeps_mem (s : State) (c : HostCmd) (k : Cmd) (go : CmdRef → State → State)
    (h : ∀ r a, (go r a).mem = a.mem) : (State.launch s c k go).mem = s.mem := by
  unfold State.launch
  split
  · rw [State.wakeFor_keeps_mem, State.addCmd_keeps_mem]
  · rw [h, State.addCmd_keeps_mem]

theorem State.heat_keeps_mem (s : State) (d : DieId) (temp : BitVec 16) : (State.heat s d temp).mem = s.mem := by
  unfold State.heat
  rfl

theorem State.capDown_keeps_mem (s : State) (st : Stn) : (State.capDown s st).mem = s.mem :=
  keeps_mem_of (State.capDown_control s st)

theorem State.setCap_keeps_mem (s : State) (c : Option Nat) : (State.setCap s c).mem = s.mem := by
  simp only [State.setCap, State.capDown_keeps_mem, foldl_keeps_mem, implies_true]

theorem State.stationHalts_keeps_mem (s : State) (st : Stn) : (State.stationHalts s st).mem = s.mem :=
  keeps_mem_of (State.stationHalts_control s st)

theorem State.faultDie_keeps_mem (s : State) (d : DieId) : (State.faultDie s d).mem = s.mem :=
  keeps_mem_of (State.faultDie_control s d)

theorem State.halts_keeps_mem (s : State) (k : Fin 10) (why : HaltCause) : (State.halts s k why).mem = s.mem := by
  simp only [State.halts, State.modStore_keeps_mem, State.stationHalts_keeps_mem, State.faultDie_keeps_mem,
      keeps_mem_of (State.sealsGo_control _), State.raise_keeps_mem, apply_ite State.mem, ite_self]

theorem State.quiesceStn_keeps_mem (s : State) (st : Stn) : (State.quiesceStn s st).mem = s.mem :=
  keeps_mem_of (State.quiesceStn_control s st)

theorem State.warmStart_keeps_mem (s : State) : (State.warmStart s).mem = s.mem := by
  simp only [State.warmStart, State.quiesceStn_keeps_mem, foldl_keeps_mem, implies_true]

theorem State.warmSource_keeps_mem (s : State) (src : ResetSource) : (State.warmSource s src).mem = s.mem := by
  unfold State.warmSource
  (repeat' split) <;> simp only [State.warmStart_keeps_mem]

theorem State.loadStores_keeps_mem (s : State) : (State.loadStores s).mem = s.mem := by
  unfold State.loadStores
  rfl

theorem State.volumeNumbered_keeps_mem (s : State) (st : Stn) (r : CmdRef) : (State.volumeNumbered s st r).mem = s.mem :=
  keeps_mem_of (State.volumeNumbered_control s st r)

theorem State.blkEnter_keeps_mem (s : State) (kind : Nat) (d : DieId) (index : Nat) : (State.blkEnter s kind d index).mem = s.mem :=
  keeps_mem_of (State.blkEnter_control s kind d index)

theorem State.retired_keeps_mem (s : State) (d : DieId) (dpn : Nat) (port : Port) : (State.retired s d dpn port).mem = s.mem :=
  keeps_mem_of (State.retired_control s d dpn port)

theorem State.restoreSlots_keeps_mem (s : State) : (State.restoreSlots s).mem = s.mem :=
  keeps_mem_of (State.restoreSlots_control s)

theorem State.modSel_keeps_mem (s : State) (p : Port) (f : TraceQ → TraceQ) : (State.modSel s p f).mem = s.mem :=
  keeps_mem_of (State.modSel_control s p f)

theorem State.runTest_keeps_mem (c : HostCmd) (parts : List TestPart) (s : State) :
    (State.runTest c parts s).mem = s.mem := by
  simp only [State.runTest, State.finishNew_keeps_mem, State.testEnds_keeps_mem, State.addCmd_keeps_mem, State.launch_keeps_mem,
      apply_ite State.mem, ite_self, implies_true]

theorem State.stageCheck_keeps_mem (s : State) (x : Staging) (w : CmdRef) (len : Nat) (read : SlotRead) :
    (State.stageCheck s x w len read).mem = s.mem := by
  unfold State.stageCheck
  (repeat' split) <;> simp only [State.finish_keeps_mem, State.raise_keeps_mem, State.flash_keeps_mem]

theorem State.applyImage_keeps_mem (s : State) : (State.applyImage s).mem = s.mem := by
  simp only [State.applyImage, State.eachDie_keeps_mem, State.eachPort_keeps_mem, State.loadStores_keeps_mem, State.eachStn_keeps_mem,
      State.restoreSlots_keeps_mem, apply_ite State.mem, ite_self]

theorem State.setupWrite_keeps_mem (s : State) (p : Port) (f : HostPort → HostPort) :
    (State.setupWrite s p f).mem = s.mem := by
  simp only [State.setupWrite, State.modPort_keeps_mem, apply_ite State.mem, ite_self]

theorem State.regEffect_keeps_mem (s : State) (p : Port) (ofs : Nat) (size : Nat) (v : BitVec 64) :
    (State.regEffect s p ofs size v).mem = s.mem := by
  simp only [State.regEffect, State.setupWrite_keeps_mem, State.modSel_keeps_mem, State.modPort_keeps_mem, apply_ite State.mem,
      ite_self]

theorem State.quarantine_keeps_mem (s : State) (d : DieId) (owner : Option Nat) : (State.quarantine s d owner).mem = s.mem :=
  keeps_mem_of (State.quarantine_control s d owner)

theorem State.runBlock_keeps_mem (c : HostCmd) (s : State) : (State.runBlock c s).mem = s.mem := by
  simp only [State.runBlock, State.quarantine_keeps_mem, State.blkEnter_keeps_mem, State.addCmd_keeps_mem, keeps_mem_upd]

theorem State.startTrial_keeps_mem (s : State) : (State.startTrial s).mem = s.mem := by
  simp only [State.startTrial, apply_ite State.mem, ite_self]

theorem State.railReads_keeps_mem (s : State) (rail : Fin 7) (mv : Nat) : (State.railReads s rail mv).mem = s.mem := by
  unfold State.railReads
  rfl

theorem State.enterE4_keeps_mem (s : State) : (State.enterE4 s).mem = s.mem := by
  simp only [State.enterE4, State.eachStn_keeps_mem, apply_ite State.mem, ite_self]

theorem State.monReading_keeps_mem (s : State) (src : BitVec 32) (v : BitVec 32) : (State.monReading s src v).mem = s.mem := by
  unfold State.monReading
  dsimp only
  split <;> first | rfl | exact State.heat_keeps_mem ..

theorem State.tryE4_keeps_mem (s : State) : (State.tryE4 s).mem = s.mem := by
  simp only [State.tryE4, State.enterE4_keeps_mem, apply_ite State.mem, ite_self]

theorem State.tryExit_keeps_mem (s : State) : (State.tryExit s).mem = s.mem := by
  unfold State.tryExit
  (repeat' split) <;> simp only [State.tryE4_keeps_mem]

theorem State.ledgerDone_keeps_mem (s : State) (a_1 : LedgerOp) : (State.ledgerDone s a_1).mem = s.mem := by
  unfold State.ledgerDone
  (repeat' split) <;> simp only [State.volumeNumbered_keeps_mem, State.finish_keeps_mem, State.retired_keeps_mem]

theorem State.portsApply_keeps_mem (s : State) : (State.portsApply s).mem = s.mem := by
  unfold State.portsApply
  rfl

theorem State.deviceReady_keeps_mem (s : State) : (State.deviceReady s).mem = s.mem := by
  simp only [State.deviceReady, State.startTrial_keeps_mem, State.applyImage_keeps_mem, State.raise_keeps_mem,
      State.warmStart_keeps_mem, keeps_mem_of (State.openIdle_control _), keeps_mem_upd, apply_ite State.mem, ite_self]

end Sys2Proof.Machine
end

