-- ==== Sys2Proof/Laws/Events.lean ====
section
/-!
SUPPORT. What raising an event, sending a message and writing a packet can do: `EventsOnly`, a preorder that every one of them
stays in, and the flag that a raise sets.
-/
set_option linter.all false
namespace Sys2Proof.Machine

/-- A change of one element that leaves it as it is. -/
theorem vmod_same {α : Type} {n : Nat} (v : Vector α n) (i : Fin n) (f : α → α) (h : f v[i] = v[i]) : vmod v i f = v := by
  rw [vmod, h]; exact Vector.set_getElem_self i.isLt

/-- Two changes of one element are one. -/
theorem vmod_vmod {α : Type} {n : Nat} (v : Vector α n) (i : Fin n) (f g : α → α) : vmod (vmod v i f) i g = vmod v i (g ∘ f) := by
  apply Vector.ext
  intro j hj
  simp only [vmod_at]
  split <;> simp

/-- An element read after a change, by its number of type Fin. -/
theorem vmod_get {α : Type} {n : Nat} (v : Vector α n) (i j : Fin n) (f : α → α) :
    (vmod v i f)[j] = if i = j then f v[j] else v[j] := by
  split
  · next h => subst h; exact vmod_get_self _ _ _
  · next h => exact vmod_get_ne _ _ _ _ h

theorem EventsOnly.refl (s : State) : EventsOnly s s := by
  refine ⟨rfl, fun _ => rfl, fun _ => rfl, fun _ _ h => h, [], rfl, ?_⟩
  intro o h
  cases h

theorem EventsOnly.trans {s t u : State} (h : EventsOnly s t) (k : EventsOnly t u) : EventsOnly s u := by
  obtain ⟨h1, h2, h3, h4, l, hl, hm⟩ := h
  obtain ⟨k1, k2, k3, k4, m, km, kn⟩ := k
  refine ⟨?_, ?_, ?_, fun p n x => k4 p n (h4 p n x), m ++ l, by rw [km, hl, List.append_assoc], ?_⟩
  · rw [k1, h1]
  · intro p; rw [k2 p, h2 p]
  · intro d; rw [k3 d, h3 d]
  · intro o ho
    rcases List.mem_append.mp ho with x | x
    · exact kn o x
    · exact hm o x

/-- A port whose status flags grow and whose pending messages change. -/
theorem EventsOnly.port (s : State) (p : Port) (f : HostPort → HostPort)
    (h : ∀ x, f x = { x with stat := (f x).stat, msixPend := (f x).msixPend })
    (g : ∀ x n, x.stat.getLsbD n = true → (f x).stat.getLsbD n = true) : EventsOnly s (s.modPort p f) := by
  refine ⟨rfl, ?_, fun _ => rfl, ?_, [], rfl, fun o h => by cases h⟩
  · intro q
    rw [State.modPort_ports, vmod_get]
    split
    · exact h _
    · rfl
  · intro q n x
    rw [State.modPort_ports, vmod_get]
    split
    · exact g _ _ x
    · exact x

theorem EventsOnly.msg (s : State) (p : Port) (v : Nat) : EventsOnly s (s.emit (.msix p v)) := by
  refine ⟨rfl, fun _ => rfl, fun _ => rfl, fun _ _ h => h, [.msix p v], rfl, ?_⟩
  intro o h
  rw [List.mem_singleton] at h
  exact ⟨p, v, h⟩

theorem State.msix_events (s : State) (p : Port) (v : Nat) : EventsOnly s (s.msix p v) := by
  unfold State.msix
  dsimp only
  split
  · exact EventsOnly.refl s
  · split
    · exact EventsOnly.port _ _ _ (fun _ => rfl) (fun _ _ h => h)
    · exact EventsOnly.msg _ _ _

theorem State.sendEvent_events (s : State) (p : Port) (n : Nat) : EventsOnly s (s.sendEvent p n) := by
  unfold State.sendEvent
  dsimp only
  split
  · exact EventsOnly.refl s
  · split
    · exact State.msix_events _ _ _
    · exact EventsOnly.refl s

theorem State.raisePort_events (s : State) (p : Port) (n : Nat) : EventsOnly s (s.raisePort p n) := by
  unfold State.raisePort
  split
  · exact EventsOnly.refl s
  · refine (EventsOnly.port _ _ _ (fun _ => rfl) ?_).trans (State.sendEvent_events _ _ _)
    intro x m h
    simp only [BitVec.getLsbD_or, h, Bool.true_or]

theorem State.putTrace_events (s : State) (d : DieId) (q : Fin 4) (w : List (BitVec 64)) : EventsOnly s (s.putTrace d q w).1 := by
  unfold State.putTrace
  dsimp only
  split
  · exact EventsOnly.refl s
  · refine ⟨rfl, fun _ => rfl, ?_, fun _ _ h => h, [], rfl, fun o h => by cases h⟩
    intro e
    simp only [State.modDie_dies, vmod_get]
    split <;> rfl

theorem State.raise1_events (s : State) (n x : Nat) : EventsOnly s (s.raise1 n x).1 :=
  ((State.raisePort_events _ _ _).trans (State.raisePort_events _ _ _)).trans (State.putTrace_events _ _ _ _)

/-- All that raising an event can do. -/
theorem State.raise_events (s : State) (n x : Nat) : EventsOnly s (s.raise n x) := by
  unfold State.raise
  dsimp only
  split
  · exact (State.raise1_events _ _ _).trans (State.raise1_events _ _ _)
  · exact State.raise1_events _ _ _

/-- All that writing a packet can do. -/
theorem State.trace_events (s : State) (d : DieId) (q : Fin 4) (w : List (BitVec 64)) : EventsOnly s (s.trace d q w) := by
  unfold State.trace
  dsimp only
  split
  · exact (State.putTrace_events _ _ _ _).trans (State.raise_events _ _ _)
  · exact State.putTrace_events _ _ _ _

theorem State.raiseAll_events (l : List Nat) (s : State) : EventsOnly s (s.raiseAll l) := by
  unfold State.raiseAll
  induction l generalizing s with
  | nil => exact EventsOnly.refl s
  | cons n r ih => exact (State.raise_events _ _ _).trans (ih _)

theorem State.sendEvents_events (l : List Nat) (s : State) (p : Port) : EventsOnly s (l.foldl (fun a n => a.sendEvent p n) s) := by
  induction l generalizing s with
  | nil => exact EventsOnly.refl s
  | cons n r ih => exact (State.sendEvent_events _ _ _).trans (ih _)

/-- Messages change no status flag, and nothing of the other port. -/
theorem State.sendEvent_ports (s : State) (p q : Port) (n : Nat) :
    ((s.sendEvent p n).ports[q]).stat = (s.ports[q]).stat ∧ (q ≠ p → (s.sendEvent p n).ports[q] = s.ports[q]) ∧
      (s.sendEvent p n).dies = s.dies := by
  unfold State.sendEvent State.msix
  dsimp only
  have key : ∀ m : BitVec 64, ((s.modPort p fun x => { x with msixPend := m }).ports[q]).stat = (s.ports[q]).stat ∧
      (q ≠ p → (s.modPort p fun x => { x with msixPend := m }).ports[q] = s.ports[q]) := by
    intro m
    rw [State.modPort_ports, vmod_get]
    refine ⟨by split <;> rfl, fun h => if_neg (Ne.symm h)⟩
  split
  · exact ⟨rfl, fun _ => rfl, rfl⟩
  split
  · split
    · exact ⟨rfl, fun _ => rfl, rfl⟩
    split
    · exact ⟨(key _).1, (key _).2, rfl⟩
    · exact ⟨rfl, fun _ => rfl, rfl⟩
  · exact ⟨rfl, fun _ => rfl, rfl⟩

/-- The same of several messages. -/
theorem State.sendEvents_ports (l : List Nat) (s : State) (p q : Port) :
    ((l.foldl (fun a n => a.sendEvent p n) s).ports[q]).stat = (s.ports[q]).stat ∧
      (q ≠ p → (l.foldl (fun a n => a.sendEvent p n) s).ports[q] = s.ports[q]) ∧
      (l.foldl (fun a n => a.sendEvent p n) s).dies = s.dies := by
  induction l generalizing s with
  | nil => exact ⟨rfl, fun _ => rfl, rfl⟩
  | cons n r ih =>
    have a := State.sendEvent_ports s p q n
    have b := ih (s.sendEvent p n)
    exact ⟨b.1.trans a.1, fun h => (b.2.1 h).trans (a.2.1 h), b.2.2.trans a.2.2⟩

/-- A raise sets its flag in both ports (R414). -/
theorem State.raise_flagged (s : State) (n x : Nat) (h : n < 256) : (s.raise n x).flagged n := by
  have one : ∀ (s : State) (p : Port), ((s.raisePort p n).ports[p]).stat.getLsbD n = true := by
    intro s p
    unfold State.raisePort
    split
    · assumption
    · rw [(State.sendEvent_ports _ p p n).1, State.modPort_ports, vmod_get_self]
      simp [h]
  have two : ∀ p : Port, ((s.raise1 n x).1.ports[p]).stat.getLsbD n = true := by
    intro p
    have k := State.putTrace_events ((s.raisePort 0 n).raisePort 1 n) (srcDie n) 1 (eventPacket n s.time x)
    refine k.2.2.2.1 p n ?_
    by_cases e : p = 1
    · subst e; exact one _ _
    · have : p = 0 := (by decide : ∀ p : Fin 2, p ≠ 1 → p = 0) p e
      subst this
      exact (State.raisePort_events _ 1 n).2.2.2.1 0 n (one _ _)
  intro p
  unfold State.raise
  dsimp only
  split
  · exact (State.raise1_events _ _ _).2.2.2.1 p n (two p)
  · exact two p

end Sys2Proof.Machine
end

