-- ==== Sys2Proof/Laws/Host.lean ====
section
/-!
SUPPORT. Queues and host commands: a queue read after a change, an entry that is taken, a command that joins the outstanding ones or
leaves them, and what a row of an accepted entry comes to.
-/
set_option linter.all false
namespace Sys2Proof.Machine

/-- Finding by a key that a map keeps. -/
theorem find_map_key {α : Type} (l : List α) (p : α → Bool) (g : α → α) (h : ∀ x, p (g x) = p x) :
    (l.map g).find? p = (l.find? p).map g := by
  induction l with
  | nil => rfl
  | cons x r ih =>
    rw [List.map_cons, List.find?_cons, List.find?_cons, h]
    split
    · rfl
    · exact ih

/-- A queue of a port after a change of that queue. -/
theorem State.modQp_qp (s : State) (p : Port) (q : Nat) (f : Qp → Qp) (hf : ∀ x, (f x).id = x.id) :
    ((s.modQp p q f).ports[p]).qp? q = ((s.ports[p]).qp? q).map f := by
  unfold State.modQp HostPort.qp?
  rw [State.modPort_ports, vmod_get_self]
  show List.find? _ (List.map _ _) = _
  rw [find_map_key _ _ _ (by intro x; by_cases h : x.id = q <;> simp [h, hf])]
  cases h : List.find? (fun x => x.id == q) (s.ports[p]).qps with
  | none => rfl
  | some x =>
    have := List.find?_some h
    have e : x.id = q := by simpa using this
    simp [e]

/-- Another queue of the port after a change of one. -/
theorem State.modQp_other (s : State) (p : Port) (q q' : Nat) (f : Qp → Qp) (hf : ∀ x, (f x).id = x.id) (h : q' ≠ q) :
    ((s.modQp p q f).ports[p]).qp? q' = (s.ports[p]).qp? q' := by
  unfold State.modQp HostPort.qp?
  rw [State.modPort_ports, vmod_get_self]
  show List.find? _ (List.map _ _) = _
  rw [find_map_key _ _ _ (by intro x; by_cases e : x.id = q <;> simp [e, hf])]
  cases e : List.find? (fun x => x.id == q') (s.ports[p]).qps with
  | none => rfl
  | some x =>
    have := List.find?_some e
    have e' : x.id = q' := by simpa using this
    simp [e', h]

/-- The other port after a change of a queue. -/
theorem State.modQp_port (s : State) (p p' : Port) (q : Nat) (f : Qp → Qp) (h : p' ≠ p) : (s.modQp p q f).ports[p'] = s.ports[p'] := by
  unfold State.modQp
  rw [State.modPort_ports, vmod_get_ne _ _ _ _ (Ne.symm h)]

/-- Events leave the queues alone. -/
theorem EventsOnly.qps {s t : State} (h : EventsOnly s t) (p : Port) : (t.ports[p]).qps = (s.ports[p]).qps := by rw [h.2.1 p]

/-- Events leave every queue alone. -/
theorem EventsOnly.qp {s t : State} (h : EventsOnly s t) (p : Port) (q : Nat) : (t.ports[p]).qp? q = (s.ports[p]).qp? q := by
  unfold HostPort.qp?; rw [h.qps]

/-- An entry that is taken: its queue's head moves on, the queue is no longer held back, and its turn passes; then a packet. -/
theorem State.take_events (s : State) (c : HostCmd) :
    EventsOnly ((s.modQp c.port c.qid fun x => { x with sqHead := (x.sqHead + 1) % x.depth, held := none }).modPort c.port
      fun h => if c.qid = 0 then h else { h with rr := c.qid }) (s.take c) := State.trace_events _ _ _ _

/-- The queue of an entry that is taken. -/
theorem State.take_qp (s : State) (c : HostCmd) :
    ((s.take c).ports[c.port]).qp? c.qid = ((s.ports[c.port]).qp? c.qid).map fun x => { x with sqHead := (x.sqHead + 1) % x.depth, held := none } := by
  rw [(State.take_events s c).qp]
  refine Eq.trans ?_ (State.modQp_qp s c.port c.qid _ (fun _ => rfl))
  rw [State.modPort_ports, vmod_get_self]
  unfold HostPort.qp?
  split <;> rfl

/-- What an entry that is taken leaves alone. -/
theorem State.take_rest (s : State) (c : HostCmd) :
    s.take c = { s with ports := (s.take c).ports, dies := (s.take c).dies, out := (s.take c).out } := (State.take_events s c).1

/-- The engines, pools and monitors of a die when an entry is taken. -/
theorem State.take_die (s : State) (c : HostCmd) (d : DieId) :
    (s.take c).dies[d] = { s.dies[d] with trace := ((s.take c).dies[d]).trace } := (State.take_events s c).2.2.1 d

/-- An accepted entry has its own effect, where nothing blocks it. -/
theorem State.host_run (s : State) (opc : Nat) (c : HostCmd) (own : State → Option Ending) (blocked : State → Option Hold) (run : State → State)
    (h : s.accepts opc c (own s)) (hb : blocked s = none) : s.host opc c own blocked run = run (s.take c) := by
  obtain ⟨h1, h2, h3, h4, h5⟩ := h
  unfold State.host
  simp only [h1, h2, h3, h4, h5, hb, Bool.not_true, Bool.false_eq_true, if_false]

/-- An accepted entry has a queue, in which its tag is free and whose opcode is the row's. -/
theorem State.accepts_queue {s : State} {opc : Nat} {c : HostCmd} {own : Option Ending} (h : s.accepts opc c own) :
    ∃ x, (s.ports[c.port]).qp? c.qid = some x ∧ x.tagUsed c.entry.tag = false ∧ c.entry.opc.toNat = opc := by
  obtain ⟨h1, _, h3, _, _⟩ := h
  have hq : ∃ x, (s.ports[c.port]).qp? c.qid = some x := by
    unfold State.atTurn at h1
    simp only [Bool.and_eq_true] at h1
    cases e : (s.ports[c.port]).qp? c.qid with
    | none => rw [e] at h1; simp at h1
    | some x => exact ⟨x, rfl⟩
  obtain ⟨x, hx⟩ := hq
  unfold State.checks at h3
  cases hk : cmdSpec opc with
  | none => rw [hk] at h3; cases h3
  | some k =>
    rw [hk] at h3
    dsimp only at h3
    by_cases c1 : s.check1 opc c = true
    · by_cases c2 : s.check2 k c = true
      · refine ⟨x, hx, ?_, ?_⟩
        · unfold State.check2 at c2
          simp only [Bool.and_eq_true] at c2
          have := c2.2
          rw [hx] at this
          simpa using this
        · unfold State.check1 at c1
          simp only [Bool.and_eq_true] at c1
          simpa using c1.1.1
      · simp [c1, c2] at h3
    · simp [c1] at h3

/-- A command that joins the outstanding ones of its queue is found there, where its tag was free. -/
theorem State.addCmd_cmd (s : State) (c : HostCmd) (k : Cmd) (x : Qp) (hq : (s.ports[c.port]).qp? c.qid = some x)
    (ht : x.tagUsed c.entry.tag = false) (hk : k.entry = c.entry) : (s.addCmd c k).cmd? (refOf c) = some k := by
  unfold State.cmd? State.addCmd
  show (match ((s.modQp c.port c.qid _).ports[c.port]).qp? c.qid with | some x => _ | none => none) = _
  rw [State.modQp_qp _ _ _ _ (by exact fun _ => rfl), hq]
  show List.find? _ (x.cmds ++ [k]) = _
  have hn : x.cmds.find? (fun y => y.entry.tag == c.entry.tag) = none := by
    unfold Qp.tagUsed at ht
    simp only [Bool.or_eq_false_iff] at ht
    rw [List.find?_eq_none]
    intro y hy hc
    have := List.any_eq_false.mp ht.1 y hy
    exact this hc
  have e : (fun y : Cmd => y.entry.tag == (refOf c).tag) = fun y => y.entry.tag == c.entry.tag := rfl
  rw [e, List.find?_append, hn]
  simp [hk]

/-- An accepted entry that joins the outstanding ones. -/
theorem State.taken_cmd (s : State) (opc : Nat) (c : HostCmd) (own : Option Ending) (k : Cmd) (h : s.accepts opc c own) (hk : k.entry = c.entry) :
    ((s.take c).addCmd c k).cmd? (refOf c) = some k := by
  obtain ⟨x, hx, ht, _⟩ := State.accepts_queue h
  refine State.addCmd_cmd _ c k { x with sqHead := (x.sqHead + 1) % x.depth, held := none } ?_ ?_ hk
  · rw [State.take_qp, hx]; rfl
  · exact ht

/-- A command changed in place. -/
theorem find_modFirst {α : Type} (p : α → Bool) (f : α → α) (l : List α) (h : ∀ x, p x = true → p (f x) = true) :
    (modFirst p f l).find? p = (l.find? p).map f := by
  induction l with
  | nil => rfl
  | cons x r ih =>
    unfold modFirst
    by_cases e : p x = true
    · rw [if_pos e, List.find?_cons, List.find?_cons, h x e, e]; rfl
    · rw [if_neg e, List.find?_cons, List.find?_cons]
      simp only [e]
      exact ih

/-- An outstanding command after it has been changed. -/
theorem State.modCmd_cmd (s : State) (r : CmdRef) (f : Cmd → Cmd) (h : ∀ k, (f k).entry = k.entry) :
    (s.modCmd r f).cmd? r = (s.cmd? r).map f := by
  unfold State.modCmd State.cmd?
  rw [State.modQp_qp _ _ _ _ (by exact fun _ => rfl)]
  cases (s.ports[r.port]).qp? r.qid with
  | none => rfl
  | some x => exact find_modFirst _ _ _ (by intro k hk; rw [h]; exact hk)

/-- Where a command's place is found, it is found by its ports alone. -/
theorem State.cmd_congr {s t : State} (r : CmdRef) (h : (t.ports[r.port]).qps = (s.ports[r.port]).qps) : t.cmd? r = s.cmd? r := by
  unfold State.cmd? HostPort.qp?; rw [h]

/-- An entry of the error log, with its event, is all that an ending logs. -/
theorem State.logErr_events (s : State) (p : Port) (e : CmdErr) :
    EventsOnly (s.modPort p fun h => { h with errs := (e :: h.errs).take 4096, errCnt := (s.ports[p]).errCnt + 1 }) (s.logErr p e) := by
  unfold State.logErr
  dsimp only
  split
  · exact State.raise_events _ _ _
  · exact EventsOnly.refl _

/-- The queues when an ending is logged. -/
theorem State.logErr_qps (s : State) (p p' : Port) (e : CmdErr) : ((s.logErr p e).ports[p']).qps = (s.ports[p']).qps := by
  rw [(State.logErr_events s p e).qps, State.modPort_ports, vmod_get]
  split <;> rfl

/-- An outstanding command that ends is gone from its queue, and its completion waits as the last of those to be written. -/
theorem State.finish_qp (s : State) (r : CmdRef) (f : Ending) (k : Cmd) (h : s.cmd? r = some k) :
    ((s.finish r f).ports[r.port]).qp? r.qid = ((s.ports[r.port]).qp? r.qid).map fun x =>
      { x with cmds := dropFirst (fun k => k.entry.tag == r.tag) x.cmds
               done := x.done ++ [{ opc := k.entry.opc, stn := k.entry.stn, tag := k.entry.tag, status := BitVec.ofNat 8 f.status,
                                    result := BitVec.ofNat 64 f.result, log := f.logged, final := false, at_ := k.at_, sqhd := none,
                                    len := k.entry.dlen.toNat, kept := f.status == 0 || f.kept, locks := true }] } := by
  unfold State.finish
  rw [h]
  unfold State.putDone
  dsimp only
  rw [State.modQp_qp _ _ _ _ (by exact fun _ => rfl)]
  have e : ∀ u : State, (u.ports[r.port]).qps = ((s.modQp r.port r.qid fun x => { x with cmds := dropFirst (fun k => k.entry.tag == r.tag) x.cmds }).ports[r.port]).qps →
      (u.ports[r.port]).qp? r.qid = ((s.ports[r.port]).qp? r.qid).map fun x => { x with cmds := dropFirst (fun k => k.entry.tag == r.tag) x.cmds } := by
    intro u hu
    unfold HostPort.qp?
    rw [hu]
    exact State.modQp_qp s r.port r.qid _ (by exact fun _ => rfl)
  rw [e _ (by split; exact State.logErr_qps _ _ _ _; rfl), Option.map_map]
  rfl

/-- Flags stay set while commands end. -/
theorem State.finish_flagged (s : State) (r : CmdRef) (f : Ending) (n : Nat) (h : s.flagged n) : (s.finish r f).flagged n := by
  have q : ∀ (u : State) (p : Port) (m : Nat) (g : Qp → Qp), u.flagged n → (u.modQp p m g).flagged n := by
    intro u p m g hu p'
    unfold State.modQp
    rw [State.modPort_ports, vmod_get]
    split <;> exact hu p'
  unfold State.finish
  split
  · exact h
  · unfold State.putDone
    dsimp only
    apply q
    split
    · intro p'
      refine (State.logErr_events _ _ _).2.2.2.1 p' n ?_
      rw [State.modPort_ports, vmod_get]
      split <;> exact q _ _ _ _ h _
    · exact q _ _ _ _ h

end Sys2Proof.Machine
end

