-- ==== Sys2Proof/Laws/Memory.lean ====
section
/-!
SUPPORT. Buffer memory as a map from addresses to bytes: a read after a write, and the canonical form, which every write keeps.
-/
set_option linter.all false
namespace Sys2Proof.Machine

/-- A canonical list lists nothing below its bound. -/
theorem Memory.read_below (m : List Host.Cell) (lo a : Nat) (h : Memory.wfFrom lo m = true) (ha : a < lo) :
    Memory.read m a = fillByte a := by
  induction m generalizing lo with
  | nil => rfl
  | cons c r ih =>
    simp only [Memory.wfFrom, Bool.and_eq_true, decide_eq_true_eq] at h
    have hc : ¬ c.1 = a := by omega
    simp only [Memory.read, if_neg hc]
    exact ih _ h.2 (by omega)

/-- A lower bound of a canonical list may be lowered. -/
theorem Memory.wfFrom_mono (m : List Host.Cell) (lo lo' : Nat) (h : Memory.wfFrom lo m = true) (hl : lo' ≤ lo) :
    Memory.wfFrom lo' m = true := by
  cases m with
  | nil => rfl
  | cons c r =>
    simp only [Memory.wfFrom, Bool.and_eq_true, decide_eq_true_eq] at h ⊢
    exact ⟨⟨by omega, h.1.2⟩, h.2⟩

/-- A byte just written reads as written; every other byte reads as before. -/
theorem Memory.read_write (m : List Host.Cell) (lo a b : Nat) (x : Byte) (h : Memory.wfFrom lo m = true) :
    Memory.read (Memory.write m a x) b = if b = a then x else Memory.read m b := by
  induction m generalizing lo with
  | nil =>
    by_cases hx : x = fillByte a
    · simp only [Memory.write, if_pos hx, Memory.read]
      split
      · rename_i e; rw [e, hx]
      · rfl
    · simp only [Memory.write, if_neg hx, Memory.read]
      by_cases e : b = a
      · simp [e]
      · rw [if_neg (Ne.symm e), if_neg e]
  | cons c r ih =>
    have hw := h
    simp only [Memory.wfFrom, Bool.and_eq_true, decide_eq_true_eq] at h
    unfold Memory.write
    by_cases h1 : a < c.1
    · rw [if_pos h1]
      have out : Memory.read (c :: r) a = fillByte a :=
        Memory.read_below (c :: r) c.1 a (by simp only [Memory.wfFrom, h.1.2, h.2, Nat.le_refl, decide_true, Bool.and_self]) h1
      by_cases hx : x = fillByte a
      · rw [if_pos hx]
        split
        · rename_i e; rw [e, out, hx]
        · rfl
      · rw [if_neg hx]
        by_cases e : b = a
        · simp [Memory.read, e]
        · simp only [Memory.read, if_neg (Ne.symm e), if_neg e]
    · rw [if_neg h1]
      by_cases h2 : a = c.1
      · rw [if_pos h2]
        by_cases hx : x = fillByte a
        · rw [if_pos hx]
          by_cases e : b = a
          · rw [if_pos e, e, hx]; exact Memory.read_below r (c.1 + 1) a h.2 (by omega)
          · rw [if_neg e]; simp only [Memory.read]; rw [if_neg (by omega)]
        · rw [if_neg hx]
          by_cases e : b = a
          · simp [Memory.read, e]
          · simp only [Memory.read]
            rw [if_neg (Ne.symm e), if_neg e, if_neg (by omega)]
      · rw [if_neg h2]
        simp only [Memory.read]
        by_cases e : c.1 = b
        · rw [if_pos e, if_pos e, if_neg (by omega)]
        · rw [if_neg e, if_neg e]; exact ih _ h.2

/-- A write keeps the canonical form. -/
theorem Memory.write_wfFrom (m : List Host.Cell) (lo a : Nat) (x : Byte) (h : Memory.wfFrom lo m = true) (ha : lo ≤ a) :
    Memory.wfFrom lo (Memory.write m a x) = true := by
  induction m generalizing lo with
  | nil =>
    unfold Memory.write
    split
    · rfl
    · rename_i hx; simp [Memory.wfFrom, ha, hx]
  | cons c r ih =>
    have hw := h
    simp only [Memory.wfFrom, Bool.and_eq_true, decide_eq_true_eq] at h
    unfold Memory.write
    split
    · split
      · exact hw
      · rename_i h1 hx
        simp only [Memory.wfFrom, Bool.and_eq_true, decide_eq_true_eq]
        exact ⟨⟨ha, by simpa using hx⟩, ⟨by omega, h.1.2⟩, h.2⟩
    · split
      · split
        · exact Memory.wfFrom_mono _ _ _ h.2 (by omega)
        · rename_i h1 h2 hx
          subst h2
          simp only [Memory.wfFrom, Bool.and_eq_true, decide_eq_true_eq]
          exact ⟨⟨ha, by simpa using hx⟩, h.2⟩
      · simp only [Memory.wfFrom, Bool.and_eq_true, decide_eq_true_eq]
        exact ⟨h.1, ih _ h.2 (by omega)⟩

/-- A write of one byte keeps the canonical form. -/
theorem Memory.write_wf (m : List Host.Cell) (a : Nat) (x : Byte) (h : Memory.wf m = true) : Memory.wf (Memory.write m a x) = true :=
  Memory.write_wfFrom m 0 a x h (Nat.zero_le _)

/-- A write of a string keeps the canonical form. -/
theorem Memory.writeBytes_wf (l : List Byte) (m : List Host.Cell) (a : Nat) (h : Memory.wf m = true) :
    Memory.wf (Memory.writeBytes m a l) = true := by
  induction l generalizing m a with
  | nil => exact h
  | cons b r ih => exact ih _ _ (Memory.write_wf _ _ _ h)

/-- A byte outside a string that is written reads as before. -/
theorem Memory.read_writeBytes_other (l : List Byte) (m : List Host.Cell) (a b : Nat) (h : Memory.wf m = true)
    (hb : b < a ∨ a + l.length ≤ b) : Memory.read (Memory.writeBytes m a l) b = Memory.read m b := by
  induction l generalizing m a with
  | nil => rfl
  | cons x r ih =>
    rw [List.length_cons] at hb
    refine (ih _ _ (Memory.write_wf _ _ _ h) (by omega)).trans ?_
    rw [Memory.read_write m 0 a b x h, if_neg (by omega)]

/-- A byte of a string that is written reads as written. -/
theorem Memory.read_writeBytes (l : List Byte) (m : List Host.Cell) (a i : Nat) (h : Memory.wf m = true) (hi : i < l.length) :
    Memory.read (Memory.writeBytes m a l) (a + i) = l[i] := by
  induction l generalizing m a i with
  | nil => exact absurd hi (Nat.not_lt_zero _)
  | cons x r ih =>
    cases i with
    | zero =>
      show Memory.read (Memory.writeBytes (Memory.write m a x) (a + 1) r) a = _
      rw [Memory.read_writeBytes_other _ _ _ _ (Memory.write_wf _ _ _ h) (by omega), Memory.read_write m 0 a a x h, if_pos rfl]
      rfl
    | succ k =>
      have := ih (Memory.write m a x) (a + 1) k (Memory.write_wf _ _ _ h) (by simpa using hi)
      rw [Nat.add_right_comm] at this
      exact this

/-- The bytes written are the bytes read back. -/
theorem Memory.readBytes_writeBytes (l : List Byte) (m : List Host.Cell) (a : Nat) (h : Memory.wf m = true) :
    Memory.readBytes (Memory.writeBytes m a l) a l.length = l := by
  apply List.ext_getElem
  · simp [Memory.readBytes]
  · intro i h1 h2
    simp only [Memory.readBytes, List.getElem_map, List.getElem_range]
    exact Memory.read_writeBytes l m a i h h2

end Sys2Proof.Machine
end

