-- ==== Sys2Proof/Laws/Mounts.lean ====
section
/-!
SUPPORT. The operations that leave the mount of every station of the package alone: one lemma for each, in the order in which they are built on
one another.
-/
set_option linter.all false

namespace Sys2Proof.Machine

/-- An update of any field that is no part of the mount of every station. -/
theorem mounts_upd (s : State) (pending : List Instr) (clock : Nat) (fresh : Nat) (out : List Out) (rst : ResetCtl) (ledger : Ledger) (boot : Boot) (vault : Vault) (supply : Supply) (thermal : Thermal) (pinsSet : Bool) (mem : List Host.Cell) (hbm : Vector Stack 4) (dies : Vector Die 2) (stores : Vector Store 10) (stnMap : BitVec 8) (locks : List Lock) (mntCnt : BitVec 32) (ucieDown : Bool) (migs : List MigJob) (test : Option TestRun) (power : Power) (blkRst : List BlkReset) (tap : Tap) :
    State.mounts ⟨pending, clock, fresh, out, rst, ledger, boot, vault, supply, thermal, pinsSet, mem, hbm, dies, stores, s.ports, s.stns, stnMap, locks, mntCnt, ucieDown, migs, test, power, blkRst, tap⟩ = s.mounts := rfl

/-- A fold of operations that leave the mount of every station alone. -/
theorem foldl_mounts {β : Type} (f : State → β → State) (h : ∀ a x, (f a x).mounts = a.mounts) (l : List β) (s : State) :
    (l.foldl f s).mounts = s.mounts := by
  induction l generalizing s with
  | nil => rfl
  | cons x r ih => exact (ih _).trans (h _ _)

/-- The same of a fold that gathers something beside the state. -/
theorem foldl_fst_mounts {α β : Type} (f : State × α → β → State × α) (h : ∀ a x, (f a x).1.mounts = a.1.mounts) (l : List β)
    (a : State × α) : (l.foldl f a).1.mounts = a.1.mounts := by
  induction l generalizing a with
  | nil => rfl
  | cons x r ih => exact (ih _).trans (h _ _)

/-- A choice between two operations that leave the mount of every station alone. -/
theorem ite_mounts {c : Prop} [Decidable c] {a b s : State} (ha : a.mounts = s.mounts) (hb : b.mounts = s.mounts) :
    (if c then a else b).mounts = s.mounts := by
  split
  · exact ha
  · exact hb

theorem State.modPort_mounts (s : State) (p : Port) (f : HostPort → HostPort) : (s.modPort p f).mounts = s.mounts := rfl
theorem State.eachPort_mounts (s : State) (f : Port → HostPort → HostPort) : (s.eachPort f).mounts = s.mounts := rfl
/-- A change of a station that leaves the mount of every station alone. -/
theorem State.modStn_mounts (s : State) (t : Stn) (f : Station → Station) (h : ∀ x, Station.mount (f x) = Station.mount x) :
    (s.modStn t f).mounts = s.mounts := by
  simp only [State.mounts, State.modStn, vmod_map _ _ _ _ h]

/-- A change of the other fields of a station. -/
theorem Station.mounts_upd (x : Station) (wgate : Bool) (men : Bool) (link : Link) (servo : Servo) (speed : Speed) (write : Write) (readSide : Recall) (ctx : Option VolCtx) (faults : List StnFault) (inReset : Bool) (stabled : Bool) (broken : Bool) (resumes : Bool) (latency : Bool) (mountCmd : Option CmdRef) :
    Station.mount ⟨wgate, men, link, servo, speed, write, readSide, x.mount, ctx, faults, inReset, stabled, broken, resumes, latency, mountCmd⟩ = Station.mount x := rfl
theorem Station.modLink_mounts (x : Station) (f : Link → Link) : Station.mount (x.modLink f) = Station.mount x := rfl
theorem Station.modServo_mounts (x : Station) (f : Servo → Servo) : Station.mount (x.modServo f) = Station.mount x := rfl
theorem Station.modSpeed_mounts (x : Station) (f : Speed → Speed) : Station.mount (x.modSpeed f) = Station.mount x := rfl
theorem Station.modWrite_mounts (x : Station) (f : Write → Write) : Station.mount (x.modWrite f) = Station.mount x := rfl
theorem Station.modRecall_mounts (x : Station) (f : Recall → Recall) : Station.mount (x.modRecall f) = Station.mount x := rfl
theorem Station.modCtx_mounts (x : Station) (f : VolCtx → VolCtx) : Station.mount (x.modCtx f) = Station.mount x := rfl
theorem State.modStn_mounts_upd (s : State) (t : Stn) (wgate : Station → Bool) (men : Station → Bool) (link : Station → Link) (servo : Station → Servo) (speed : Station → Speed) (write : Station → Write) (readSide : Station → Recall) (ctx : Station → Option VolCtx) (faults : Station → List StnFault) (inReset : Station → Bool) (stabled : Station → Bool) (broken : Station → Bool) (resumes : Station → Bool) (latency : Station → Bool) (mountCmd : Station → Option CmdRef) :
    (s.modStn t fun x => ⟨wgate x, men x, link x, servo x, speed x, write x, readSide x, x.mount, ctx x, faults x, inReset x, stabled x, broken x, resumes x, latency x, mountCmd x⟩).mounts = s.mounts :=
  State.modStn_mounts _ _ _ (fun _ => rfl)

theorem State.modStn_modLink_mounts (s : State) (t : Stn) (g : Station → Link → Link) : (s.modStn t fun x => x.modLink (g x)).mounts = s.mounts :=
  State.modStn_mounts _ _ _ (fun _ => rfl)

theorem State.modStn_modServo_mounts (s : State) (t : Stn) (g : Station → Servo → Servo) : (s.modStn t fun x => x.modServo (g x)).mounts = s.mounts :=
  State.modStn_mounts _ _ _ (fun _ => rfl)

theorem State.modStn_modSpeed_mounts (s : State) (t : Stn) (g : Station → Speed → Speed) : (s.modStn t fun x => x.modSpeed (g x)).mounts = s.mounts :=
  State.modStn_mounts _ _ _ (fun _ => rfl)

theorem State.modStn_modWrite_mounts (s : State) (t : Stn) (g : Station → Write → Write) : (s.modStn t fun x => x.modWrite (g x)).mounts = s.mounts :=
  State.modStn_mounts _ _ _ (fun _ => rfl)

theorem State.modStn_modRecall_mounts (s : State) (t : Stn) (g : Station → Recall → Recall) : (s.modStn t fun x => x.modRecall (g x)).mounts = s.mounts :=
  State.modStn_mounts _ _ _ (fun _ => rfl)

theorem State.modStn_modCtx_mounts (s : State) (t : Stn) (g : Station → VolCtx → VolCtx) : (s.modStn t fun x => x.modCtx (g x)).mounts = s.mounts :=
  State.modStn_mounts _ _ _ (fun _ => rfl)

theorem State.eachStn_mounts (s : State) (f : Stn → Station → Station) (h : ∀ t x, Station.mount (f t x) = Station.mount x) :
    (s.eachStn f).mounts = s.mounts :=
  foldl_mounts (fun a t => a.modStn t (f t)) (fun a t => State.modStn_mounts a t _ (h t)) allStns s

theorem State.modDie_mounts (s : State) (d : DieId) (f : Die → Die) : (s.modDie d f).mounts = s.mounts := rfl
theorem State.modStack_mounts (s : State) (k : Fin 4) (f : Stack → Stack) : (s.modStack k f).mounts = s.mounts := rfl
theorem State.modStore_mounts (s : State) (k : Fin 10) (f : Store → Store) : (s.modStore k f).mounts = s.mounts := rfl
theorem State.emit_mounts (s : State) (o : Out) : (s.emit o).mounts = s.mounts := rfl
theorem State.draw_mounts (s : State) : s.draw.2.mounts = s.mounts := rfl
theorem State.drawBytes_mounts (s : State) (n : Nat) : (s.drawBytes n).2.mounts = s.mounts := rfl
theorem State.eachDie_mounts (s : State) (f : DieId → Die → Die) : (s.eachDie f).mounts = s.mounts := rfl

theorem State.putTrace_mounts (s : State) (d : DieId) (q : Fin 4) (words : List (BitVec 64)) :
    (State.putTrace s d q words).1.mounts = s.mounts := by
  unfold State.putTrace
  (repeat' split) <;> first
    | with_reducible rfl
    | (simp only [State.modDie_mounts, Station.modLink_mounts, Station.modServo_mounts, Station.modSpeed_mounts,
      Station.modWrite_mounts, Station.modRecall_mounts, Station.modCtx_mounts, Station.mounts_upd,
      State.modStn_mounts_upd, State.eachStn_mounts, apply_ite Station.mount,
      State.modStn_modLink_mounts, State.modStn_modServo_mounts, State.modStn_modSpeed_mounts,
      State.modStn_modWrite_mounts, State.modStn_modRecall_mounts, State.modStn_modCtx_mounts,
      mounts_upd, foldl_mounts, State.modPort_mounts, State.eachPort_mounts, apply_ite State.mounts,
      ite_self, implies_true]; done)
    | (simp only [State.modDie_mounts, Station.modLink_mounts, Station.modServo_mounts, Station.modSpeed_mounts,
      Station.modWrite_mounts, Station.modRecall_mounts, Station.modCtx_mounts, Station.mounts_upd,
      State.modStn_mounts_upd, State.eachStn_mounts, apply_ite Station.mount,
      State.modStn_modLink_mounts, State.modStn_modServo_mounts, State.modStn_modSpeed_mounts,
      State.modStn_modWrite_mounts, State.modStn_modRecall_mounts, State.modStn_modCtx_mounts,
      mounts_upd, foldl_mounts, State.modPort_mounts, State.eachPort_mounts, apply_ite State.mounts,
      ite_self, implies_true]
       (repeat' split) <;> first | with_reducible rfl | simp only [State.modDie_mounts, Station.modLink_mounts, Station.modServo_mounts, Station.modSpeed_mounts,
      Station.modWrite_mounts, Station.modRecall_mounts, Station.modCtx_mounts, Station.mounts_upd,
      State.modStn_mounts_upd, State.eachStn_mounts, apply_ite Station.mount,
      State.modStn_modLink_mounts, State.modStn_modServo_mounts, State.modStn_modSpeed_mounts,
      State.modStn_modWrite_mounts, State.modStn_modRecall_mounts, State.modStn_modCtx_mounts,
      mounts_upd, foldl_mounts, State.modPort_mounts, State.eachPort_mounts, apply_ite State.mounts,
      ite_self, implies_true])

theorem State.msix_mounts (s : State) (p : Port) (v : Nat) : (State.msix s p v).mounts = s.mounts := by
  simp only [State.msix, State.modPort_mounts, State.emit_mounts, Station.modLink_mounts,
      Station.modServo_mounts, Station.modSpeed_mounts, Station.modWrite_mounts,
      Station.modRecall_mounts, Station.modCtx_mounts, Station.mounts_upd, State.modStn_mounts_upd,
      State.eachStn_mounts, apply_ite Station.mount, State.modStn_modLink_mounts,
      State.modStn_modServo_mounts, State.modStn_modSpeed_mounts, State.modStn_modWrite_mounts,
      State.modStn_modRecall_mounts, State.modStn_modCtx_mounts, mounts_upd, foldl_mounts,
      State.modPort_mounts, State.eachPort_mounts, apply_ite State.mounts, ite_self, implies_true]

theorem State.sendEvent_mounts (s : State) (p : Port) (n : Nat) : (State.sendEvent s p n).mounts = s.mounts := by
  unfold State.sendEvent
  (repeat' split) <;> first
    | with_reducible rfl
    | (simp only [State.msix_mounts, Station.modLink_mounts, Station.modServo_mounts, Station.modSpeed_mounts,
      Station.modWrite_mounts, Station.modRecall_mounts, Station.modCtx_mounts, Station.mounts_upd,
      State.modStn_mounts_upd, State.eachStn_mounts, apply_ite Station.mount,
      State.modStn_modLink_mounts, State.modStn_modServo_mounts, State.modStn_modSpeed_mounts,
      State.modStn_modWrite_mounts, State.modStn_modRecall_mounts, State.modStn_modCtx_mounts,
      mounts_upd, foldl_mounts, State.modPort_mounts, State.eachPort_mounts, apply_ite State.mounts,
      ite_self, implies_true]; done)
    | (simp only [State.msix_mounts, Station.modLink_mounts, Station.modServo_mounts, Station.modSpeed_mounts,
      Station.modWrite_mounts, Station.modRecall_mounts, Station.modCtx_mounts, Station.mounts_upd,
      State.modStn_mounts_upd, State.eachStn_mounts, apply_ite Station.mount,
      State.modStn_modLink_mounts, State.modStn_modServo_mounts, State.modStn_modSpeed_mounts,
      State.modStn_modWrite_mounts, State.modStn_modRecall_mounts, State.modStn_modCtx_mounts,
      mounts_upd, foldl_mounts, State.modPort_mounts, State.eachPort_mounts, apply_ite State.mounts,
      ite_self, implies_true]
       (repeat' split) <;> first | with_reducible rfl | simp only [State.msix_mounts, Station.modLink_mounts, Station.modServo_mounts, Station.modSpeed_mounts,
      Station.modWrite_mounts, Station.modRecall_mounts, Station.modCtx_mounts, Station.mounts_upd,
      State.modStn_mounts_upd, State.eachStn_mounts, apply_ite Station.mount,
      State.modStn_modLink_mounts, State.modStn_modServo_mounts, State.modStn_modSpeed_mounts,
      State.modStn_modWrite_mounts, State.modStn_modRecall_mounts, State.modStn_modCtx_mounts,
      mounts_upd, foldl_mounts, State.modPort_mounts, State.eachPort_mounts, apply_ite State.mounts,
      ite_self, implies_true])

theorem State.raisePort_mounts (s : State) (p : Port) (n : Nat) : (State.raisePort s p n).mounts = s.mounts := by
  simp only [State.raisePort, State.modPort_mounts, State.sendEvent_mounts, Station.modLink_mounts,
      Station.modServo_mounts, Station.modSpeed_mounts, Station.modWrite_mounts,
      Station.modRecall_mounts, Station.modCtx_mounts, Station.mounts_upd, State.modStn_mounts_upd,
      State.eachStn_mounts, apply_ite Station.mount, State.modStn_modLink_mounts,
      State.modStn_modServo_mounts, State.modStn_modSpeed_mounts, State.modStn_modWrite_mounts,
      State.modStn_modRecall_mounts, State.modStn_modCtx_mounts, mounts_upd, foldl_mounts,
      State.modPort_mounts, State.eachPort_mounts, apply_ite State.mounts, ite_self, implies_true]

theorem State.raise1_mounts (s : State) (n detail : Nat) : (State.raise1 s n detail).1.mounts = s.mounts := by
  simp only [State.raise1, State.putTrace_mounts, State.raisePort_mounts, Station.modLink_mounts,
      Station.modServo_mounts, Station.modSpeed_mounts, Station.modWrite_mounts,
      Station.modRecall_mounts, Station.modCtx_mounts, Station.mounts_upd, State.modStn_mounts_upd,
      State.eachStn_mounts, apply_ite Station.mount, State.modStn_modLink_mounts,
      State.modStn_modServo_mounts, State.modStn_modSpeed_mounts, State.modStn_modWrite_mounts,
      State.modStn_modRecall_mounts, State.modStn_modCtx_mounts, mounts_upd, foldl_mounts,
      State.modPort_mounts, State.eachPort_mounts, apply_ite State.mounts, ite_self, implies_true]

theorem State.raise_mounts (s : State) (n : Nat) (detail : Nat) : (State.raise s n detail).mounts = s.mounts := by
  simp only [State.raise, State.raise1_mounts, Station.modLink_mounts, Station.modServo_mounts,
      Station.modSpeed_mounts, Station.modWrite_mounts, Station.modRecall_mounts, Station.modCtx_mounts,
      Station.mounts_upd, State.modStn_mounts_upd, State.eachStn_mounts, apply_ite Station.mount,
      State.modStn_modLink_mounts, State.modStn_modServo_mounts, State.modStn_modSpeed_mounts,
      State.modStn_modWrite_mounts, State.modStn_modRecall_mounts, State.modStn_modCtx_mounts,
      mounts_upd, foldl_mounts, State.modPort_mounts, State.eachPort_mounts, apply_ite State.mounts,
      ite_self, implies_true]

theorem State.trace_mounts (s : State) (d : DieId) (q : Fin 4) (words : List (BitVec 64)) :
    (State.trace s d q words).mounts = s.mounts := by
  simp only [State.trace, State.putTrace_mounts, State.raise_mounts, Station.modLink_mounts,
      Station.modServo_mounts, Station.modSpeed_mounts, Station.modWrite_mounts,
      Station.modRecall_mounts, Station.modCtx_mounts, Station.mounts_upd, State.modStn_mounts_upd,
      State.eachStn_mounts, apply_ite Station.mount, State.modStn_modLink_mounts,
      State.modStn_modServo_mounts, State.modStn_modSpeed_mounts, State.modStn_modWrite_mounts,
      State.modStn_modRecall_mounts, State.modStn_modCtx_mounts, mounts_upd, foldl_mounts,
      State.modPort_mounts, State.eachPort_mounts, apply_ite State.mounts, ite_self, implies_true]

theorem State.elogPut_mounts (s : State) (d : DieId) (e : ELogEntry) : (State.elogPut s d e).mounts = s.mounts := by
  unfold State.elogPut
  rfl

theorem State.elogPage_mounts (s : State) (a : PageAddr) (kind bits detail : Nat) (handle : BitVec 32) (actor : Nat) :
    (State.elogPage s a kind bits detail handle actor).mounts = s.mounts := by
  unfold State.elogPage
  rfl

theorem State.modQp_mounts (s : State) (p : Port) (q : Nat) (f : Qp → Qp) : (State.modQp s p q f).mounts = s.mounts := by
  simp only [State.modQp, State.modPort_mounts, Station.modLink_mounts, Station.modServo_mounts,
      Station.modSpeed_mounts, Station.modWrite_mounts, Station.modRecall_mounts, Station.modCtx_mounts,
      Station.mounts_upd, State.modStn_mounts_upd, State.eachStn_mounts, apply_ite Station.mount,
      State.modStn_modLink_mounts, State.modStn_modServo_mounts, State.modStn_modSpeed_mounts,
      State.modStn_modWrite_mounts, State.modStn_modRecall_mounts, State.modStn_modCtx_mounts,
      mounts_upd, foldl_mounts, State.modPort_mounts, State.eachPort_mounts, apply_ite State.mounts,
      ite_self, implies_true]

theorem State.take_mounts (s : State) (c : HostCmd) : (State.take s c).mounts = s.mounts := by
  unfold State.take
  (repeat' split) <;> simp only [State.modPort_mounts, State.trace_mounts, State.modQp_mounts, Station.modLink_mounts,
      Station.modServo_mounts, Station.modSpeed_mounts, Station.modWrite_mounts,
      Station.modRecall_mounts, Station.modCtx_mounts, Station.mounts_upd, State.modStn_mounts_upd,
      State.eachStn_mounts, apply_ite Station.mount, State.modStn_modLink_mounts,
      State.modStn_modServo_mounts, State.modStn_modSpeed_mounts, State.modStn_modWrite_mounts,
      State.modStn_modRecall_mounts, State.modStn_modCtx_mounts, mounts_upd, foldl_mounts,
      State.modPort_mounts, State.eachPort_mounts, apply_ite State.mounts, ite_self, implies_true]

theorem State.dropRemap_mounts (s : State) (d : DieId) (h : BitVec 32) (dpns : List Nat) :
    (State.dropRemap s d h dpns).mounts = s.mounts := by
  simp only [State.dropRemap, State.modStack_mounts, State.elogPage_mounts, Station.modLink_mounts,
      Station.modServo_mounts, Station.modSpeed_mounts, Station.modWrite_mounts,
      Station.modRecall_mounts, Station.modCtx_mounts, Station.mounts_upd, State.modStn_mounts_upd,
      State.eachStn_mounts, apply_ite Station.mount, State.modStn_modLink_mounts,
      State.modStn_modServo_mounts, State.modStn_modSpeed_mounts, State.modStn_modWrite_mounts,
      State.modStn_modRecall_mounts, State.modStn_modCtx_mounts, mounts_upd, foldl_mounts,
      State.modPort_mounts, State.eachPort_mounts, apply_ite State.mounts, ite_self, implies_true]

theorem State.putBack_mounts (s : State) (d : DieId) (p : Fin 5) (i : Nat) : (State.putBack s d p i).mounts = s.mounts := by
  simp only [State.putBack, State.modDie_mounts, State.dropRemap_mounts, Station.modLink_mounts,
      Station.modServo_mounts, Station.modSpeed_mounts, Station.modWrite_mounts,
      Station.modRecall_mounts, Station.modCtx_mounts, Station.mounts_upd, State.modStn_mounts_upd,
      State.eachStn_mounts, apply_ite Station.mount, State.modStn_modLink_mounts,
      State.modStn_modServo_mounts, State.modStn_modSpeed_mounts, State.modStn_modWrite_mounts,
      State.modStn_modRecall_mounts, State.modStn_modCtx_mounts, mounts_upd, foldl_mounts,
      State.modPort_mounts, State.eachPort_mounts, apply_ite State.mounts, ite_self, implies_true]

theorem State.modCmd_mounts (s : State) (r : CmdRef) (f : Cmd → Cmd) : (State.modCmd s r f).mounts = s.mounts := by
  simp only [State.modCmd, State.modQp_mounts, Station.modLink_mounts, Station.modServo_mounts,
      Station.modSpeed_mounts, Station.modWrite_mounts, Station.modRecall_mounts, Station.modCtx_mounts,
      Station.mounts_upd, State.modStn_mounts_upd, State.eachStn_mounts, apply_ite Station.mount,
      State.modStn_modLink_mounts, State.modStn_modServo_mounts, State.modStn_modSpeed_mounts,
      State.modStn_modWrite_mounts, State.modStn_modRecall_mounts, State.modStn_modCtx_mounts,
      mounts_upd, foldl_mounts, State.modPort_mounts, State.eachPort_mounts, apply_ite State.mounts,
      ite_self, implies_true]

theorem State.logErr_mounts (s : State) (p : Port) (e : CmdErr) : (State.logErr s p e).mounts = s.mounts := by
  simp only [State.logErr, State.modPort_mounts, State.raise_mounts, State.take_mounts, Station.modLink_mounts,
      Station.modServo_mounts, Station.modSpeed_mounts, Station.modWrite_mounts,
      Station.modRecall_mounts, Station.modCtx_mounts, Station.mounts_upd, State.modStn_mounts_upd,
      State.eachStn_mounts, apply_ite Station.mount, State.modStn_modLink_mounts,
      State.modStn_modServo_mounts, State.modStn_modSpeed_mounts, State.modStn_modWrite_mounts,
      State.modStn_modRecall_mounts, State.modStn_modCtx_mounts, mounts_upd, foldl_mounts,
      State.modPort_mounts, State.eachPort_mounts, apply_ite State.mounts, ite_self, implies_true]

theorem State.putDone_mounts (s : State) (p : Port) (q : Nat) (e : Entry) (at_ : Nat) (f : Ending) (log own : Bool) :
    (State.putDone s p q e at_ f log own).mounts = s.mounts := by
  simp only [State.putDone, State.modQp_mounts, Station.modLink_mounts, Station.modServo_mounts,
      Station.modSpeed_mounts, Station.modWrite_mounts, Station.modRecall_mounts, Station.modCtx_mounts,
      Station.mounts_upd, State.modStn_mounts_upd, State.eachStn_mounts, apply_ite Station.mount,
      State.modStn_modLink_mounts, State.modStn_modServo_mounts, State.modStn_modSpeed_mounts,
      State.modStn_modWrite_mounts, State.modStn_modRecall_mounts, State.modStn_modCtx_mounts,
      mounts_upd, foldl_mounts, State.modPort_mounts, State.eachPort_mounts, apply_ite State.mounts,
      ite_self, implies_true]

theorem State.finish_mounts (s : State) (r : CmdRef) (f : Ending) : (State.finish s r f).mounts = s.mounts := by
  unfold State.finish
  (repeat' split) <;> simp only [State.modQp_mounts, State.logErr_mounts, State.putDone_mounts, Station.modLink_mounts,
      Station.modServo_mounts, Station.modSpeed_mounts, Station.modWrite_mounts,
      Station.modRecall_mounts, Station.modCtx_mounts, Station.mounts_upd, State.modStn_mounts_upd,
      State.eachStn_mounts, apply_ite Station.mount, State.modStn_modLink_mounts,
      State.modStn_modServo_mounts, State.modStn_modSpeed_mounts, State.modStn_modWrite_mounts,
      State.modStn_modRecall_mounts, State.modStn_modCtx_mounts, mounts_upd, foldl_mounts,
      State.modPort_mounts, State.eachPort_mounts, apply_ite State.mounts, ite_self, implies_true]

theorem State.sendData_mounts (s : State) (p : Port) (e : Entry) (sgl : List SglEntry) (ofs : Nat) (data : List Byte) (ep : Bool) :
    (State.sendData s p e sgl ofs data ep).mounts = s.mounts :=
  foldl_mounts (fun a o => a.emit o) (fun _ _ => rfl) _ _

theorem State.hold_mounts (s : State) (c : HostCmd) (why : Hold) : (State.hold s c why).mounts = s.mounts := by
  simp only [State.hold, State.modQp_mounts, Station.modLink_mounts, Station.modServo_mounts,
      Station.modSpeed_mounts, Station.modWrite_mounts, Station.modRecall_mounts, Station.modCtx_mounts,
      Station.mounts_upd, State.modStn_mounts_upd, State.eachStn_mounts, apply_ite Station.mount,
      State.modStn_modLink_mounts, State.modStn_modServo_mounts, State.modStn_modSpeed_mounts,
      State.modStn_modWrite_mounts, State.modStn_modRecall_mounts, State.modStn_modCtx_mounts,
      mounts_upd, foldl_mounts, State.modPort_mounts, State.eachPort_mounts, apply_ite State.mounts,
      ite_self, implies_true]

theorem State.takeBuf_mounts (s : State) (d : DieId) (p : Fin 5) (k : Nat) :
    (State.takeBuf s d p k).2.mounts = s.mounts := by
  unfold State.takeBuf
  rfl

theorem State.addJob_mounts (s : State) (d : DieId) (r : Fin 4) (j : Job) : (State.addJob s d r j).mounts = s.mounts := by
  unfold State.addJob
  rfl

theorem State.addRoom_mounts (s : State) (st : Stn) (lon n : Nat) : (State.addRoom s st lon n).mounts = s.mounts := by
  simp only [State.addRoom, Station.modLink_mounts, Station.modServo_mounts, Station.modSpeed_mounts,
      Station.modWrite_mounts, Station.modRecall_mounts, Station.modCtx_mounts, Station.mounts_upd,
      State.modStn_mounts_upd, State.eachStn_mounts, apply_ite Station.mount,
      State.modStn_modLink_mounts, State.modStn_modServo_mounts, State.modStn_modSpeed_mounts,
      State.modStn_modWrite_mounts, State.modStn_modRecall_mounts, State.modStn_modCtx_mounts,
      mounts_upd, foldl_mounts, State.modPort_mounts, State.eachPort_mounts, apply_ite State.mounts,
      ite_self, implies_true]

theorem State.grantUse_mounts (s0 : State) (d : DieId) (h : BitVec 32) (use : PoolUse) :
    (State.grantUse s0 d h use).mounts = s0.mounts := by
  unfold State.grantUse
  (repeat' split) <;> first
    | with_reducible rfl
    | (simp only [State.modDie_mounts, State.modCmd_mounts, State.addJob_mounts, State.addRoom_mounts,
      Station.modLink_mounts, Station.modServo_mounts, Station.modSpeed_mounts, Station.modWrite_mounts,
      Station.modRecall_mounts, Station.modCtx_mounts, Station.mounts_upd, State.modStn_mounts_upd,
      State.eachStn_mounts, apply_ite Station.mount, State.modStn_modLink_mounts,
      State.modStn_modServo_mounts, State.modStn_modSpeed_mounts, State.modStn_modWrite_mounts,
      State.modStn_modRecall_mounts, State.modStn_modCtx_mounts, mounts_upd, foldl_mounts,
      State.modPort_mounts, State.eachPort_mounts, apply_ite State.mounts, ite_self, implies_true]; done)
    | (simp only [State.modDie_mounts, State.modCmd_mounts, State.addJob_mounts, State.addRoom_mounts,
      Station.modLink_mounts, Station.modServo_mounts, Station.modSpeed_mounts, Station.modWrite_mounts,
      Station.modRecall_mounts, Station.modCtx_mounts, Station.mounts_upd, State.modStn_mounts_upd,
      State.eachStn_mounts, apply_ite Station.mount, State.modStn_modLink_mounts,
      State.modStn_modServo_mounts, State.modStn_modSpeed_mounts, State.modStn_modWrite_mounts,
      State.modStn_modRecall_mounts, State.modStn_modCtx_mounts, mounts_upd, foldl_mounts,
      State.modPort_mounts, State.eachPort_mounts, apply_ite State.mounts, ite_self, implies_true]
       (repeat' split) <;> first | with_reducible rfl | simp only [State.modDie_mounts, State.modCmd_mounts, State.addJob_mounts, State.addRoom_mounts,
      Station.modLink_mounts, Station.modServo_mounts, Station.modSpeed_mounts, Station.modWrite_mounts,
      Station.modRecall_mounts, Station.modCtx_mounts, Station.mounts_upd, State.modStn_mounts_upd,
      State.eachStn_mounts, apply_ite Station.mount, State.modStn_modLink_mounts,
      State.modStn_modServo_mounts, State.modStn_modSpeed_mounts, State.modStn_modWrite_mounts,
      State.modStn_modRecall_mounts, State.modStn_modCtx_mounts, mounts_upd, foldl_mounts,
      State.modPort_mounts, State.eachPort_mounts, apply_ite State.mounts, ite_self, implies_true])

theorem State.wake_mounts (s : State) (d : DieId) (p : Fin 5) : (State.wake s d p).mounts = s.mounts := by
  unfold State.wake
  (repeat' split) <;> simp only [State.modDie_mounts, State.takeBuf_mounts, State.grantUse_mounts, Station.modLink_mounts,
      Station.modServo_mounts, Station.modSpeed_mounts, Station.modWrite_mounts,
      Station.modRecall_mounts, Station.modCtx_mounts, Station.mounts_upd, State.modStn_mounts_upd,
      State.eachStn_mounts, apply_ite Station.mount, State.modStn_modLink_mounts,
      State.modStn_modServo_mounts, State.modStn_modSpeed_mounts, State.modStn_modWrite_mounts,
      State.modStn_modRecall_mounts, State.modStn_modCtx_mounts, mounts_upd, foldl_mounts,
      State.modPort_mounts, State.eachPort_mounts, apply_ite State.mounts, ite_self, implies_true]

theorem State.wakeDue_mounts (s : State) (d : DieId) (p : Fin 5) : (State.wakeDue s d p).mounts = s.mounts := by
  simp only [State.wakeDue, State.modDie_mounts, State.wake_mounts, Station.modLink_mounts,
      Station.modServo_mounts, Station.modSpeed_mounts, Station.modWrite_mounts,
      Station.modRecall_mounts, Station.modCtx_mounts, Station.mounts_upd, State.modStn_mounts_upd,
      State.eachStn_mounts, apply_ite Station.mount, State.modStn_modLink_mounts,
      State.modStn_modServo_mounts, State.modStn_modSpeed_mounts, State.modStn_modWrite_mounts,
      State.modStn_modRecall_mounts, State.modStn_modCtx_mounts, mounts_upd, foldl_mounts,
      State.modPort_mounts, State.eachPort_mounts, apply_ite State.mounts, ite_self, implies_true]

theorem State.returnBuf_mounts (s : State) (d : DieId) (p : Fin 5) (i : Nat) :
    (State.returnBuf s d p i).mounts = s.mounts := by
  simp only [State.returnBuf, State.modDie_mounts, State.putBack_mounts, State.wakeDue_mounts,
      Station.modLink_mounts, Station.modServo_mounts, Station.modSpeed_mounts, Station.modWrite_mounts,
      Station.modRecall_mounts, Station.modCtx_mounts, Station.mounts_upd, State.modStn_mounts_upd,
      State.eachStn_mounts, apply_ite Station.mount, State.modStn_modLink_mounts,
      State.modStn_modServo_mounts, State.modStn_modSpeed_mounts, State.modStn_modWrite_mounts,
      State.modStn_modRecall_mounts, State.modStn_modCtx_mounts, mounts_upd, foldl_mounts,
      State.modPort_mounts, State.eachPort_mounts, apply_ite State.mounts, ite_self, implies_true]

theorem State.dropJobs_mounts (s : State) (f : JobKind → Bool) : (State.dropJobs s f).mounts = s.mounts := by
  unfold State.dropJobs
  rfl

theorem State.closeGath_mounts (s : State) (st : Stn) (forFlush ends : Bool) :
    (State.closeGath s st forFlush ends).mounts = s.mounts := by
  unfold State.closeGath
  (repeat' split) <;> first
    | with_reducible rfl
    | (simp only [State.addJob_mounts, Station.modLink_mounts, Station.modServo_mounts, Station.modSpeed_mounts,
      Station.modWrite_mounts, Station.modRecall_mounts, Station.modCtx_mounts, Station.mounts_upd,
      State.modStn_mounts_upd, State.eachStn_mounts, apply_ite Station.mount,
      State.modStn_modLink_mounts, State.modStn_modServo_mounts, State.modStn_modSpeed_mounts,
      State.modStn_modWrite_mounts, State.modStn_modRecall_mounts, State.modStn_modCtx_mounts,
      mounts_upd, foldl_mounts, State.modPort_mounts, State.eachPort_mounts, apply_ite State.mounts,
      ite_self, implies_true]; done)
    | (simp only [State.addJob_mounts, Station.modLink_mounts, Station.modServo_mounts, Station.modSpeed_mounts,
      Station.modWrite_mounts, Station.modRecall_mounts, Station.modCtx_mounts, Station.mounts_upd,
      State.modStn_mounts_upd, State.eachStn_mounts, apply_ite Station.mount,
      State.modStn_modLink_mounts, State.modStn_modServo_mounts, State.modStn_modSpeed_mounts,
      State.modStn_modWrite_mounts, State.modStn_modRecall_mounts, State.modStn_modCtx_mounts,
      mounts_upd, foldl_mounts, State.modPort_mounts, State.eachPort_mounts, apply_ite State.mounts,
      ite_self, implies_true]
       (repeat' split) <;> first | with_reducible rfl | simp only [State.addJob_mounts, Station.modLink_mounts, Station.modServo_mounts, Station.modSpeed_mounts,
      Station.modWrite_mounts, Station.modRecall_mounts, Station.modCtx_mounts, Station.mounts_upd,
      State.modStn_mounts_upd, State.eachStn_mounts, apply_ite Station.mount,
      State.modStn_modLink_mounts, State.modStn_modServo_mounts, State.modStn_modSpeed_mounts,
      State.modStn_modWrite_mounts, State.modStn_modRecall_mounts, State.modStn_modCtx_mounts,
      mounts_upd, foldl_mounts, State.modPort_mounts, State.eachPort_mounts, apply_ite State.mounts,
      ite_self, implies_true])

theorem State.numberLabels_mounts (s : State) (st : Stn) : (State.numberLabels s st).mounts = s.mounts := by
  unfold State.numberLabels
  (repeat' split) <;> first
    | with_reducible rfl
    | (simp only [State.take_mounts, State.addJob_mounts, Station.modLink_mounts, Station.modServo_mounts,
      Station.modSpeed_mounts, Station.modWrite_mounts, Station.modRecall_mounts, Station.modCtx_mounts,
      Station.mounts_upd, State.modStn_mounts_upd, State.eachStn_mounts, apply_ite Station.mount,
      State.modStn_modLink_mounts, State.modStn_modServo_mounts, State.modStn_modSpeed_mounts,
      State.modStn_modWrite_mounts, State.modStn_modRecall_mounts, State.modStn_modCtx_mounts,
      mounts_upd, foldl_mounts, State.modPort_mounts, State.eachPort_mounts, apply_ite State.mounts,
      ite_self, implies_true]; done)
    | (simp only [State.take_mounts, State.addJob_mounts, Station.modLink_mounts, Station.modServo_mounts,
      Station.modSpeed_mounts, Station.modWrite_mounts, Station.modRecall_mounts, Station.modCtx_mounts,
      Station.mounts_upd, State.modStn_mounts_upd, State.eachStn_mounts, apply_ite Station.mount,
      State.modStn_modLink_mounts, State.modStn_modServo_mounts, State.modStn_modSpeed_mounts,
      State.modStn_modWrite_mounts, State.modStn_modRecall_mounts, State.modStn_modCtx_mounts,
      mounts_upd, foldl_mounts, State.modPort_mounts, State.eachPort_mounts, apply_ite State.mounts,
      ite_self, implies_true]
       (repeat' split) <;> first | with_reducible rfl | simp only [State.take_mounts, State.addJob_mounts, Station.modLink_mounts, Station.modServo_mounts,
      Station.modSpeed_mounts, Station.modWrite_mounts, Station.modRecall_mounts, Station.modCtx_mounts,
      Station.mounts_upd, State.modStn_mounts_upd, State.eachStn_mounts, apply_ite Station.mount,
      State.modStn_modLink_mounts, State.modStn_modServo_mounts, State.modStn_modSpeed_mounts,
      State.modStn_modWrite_mounts, State.modStn_modRecall_mounts, State.modStn_modCtx_mounts,
      mounts_upd, foldl_mounts, State.modPort_mounts, State.eachPort_mounts, apply_ite State.mounts,
      ite_self, implies_true])

theorem State.releaseHere_mounts (s : State) (st : Stn) : (State.releaseHere s st).mounts = s.mounts := by
  unfold State.releaseHere
  exact State.modStn_mounts _ _ _ (fun t => by split <;> rfl)

theorem State.giveBack_mounts (s : State) (st : Stn) (gone : List Gath) : (State.giveBack s st gone).mounts = s.mounts := by
  unfold State.giveBack
  (repeat' split) <;> first
    | with_reducible rfl
    | (simp only [State.dropJobs_mounts, Station.modLink_mounts, Station.modServo_mounts, Station.modSpeed_mounts,
      Station.modWrite_mounts, Station.modRecall_mounts, Station.modCtx_mounts, Station.mounts_upd,
      State.modStn_mounts_upd, State.eachStn_mounts, apply_ite Station.mount,
      State.modStn_modLink_mounts, State.modStn_modServo_mounts, State.modStn_modSpeed_mounts,
      State.modStn_modWrite_mounts, State.modStn_modRecall_mounts, State.modStn_modCtx_mounts,
      mounts_upd, foldl_mounts, State.modPort_mounts, State.eachPort_mounts, apply_ite State.mounts,
      ite_self, implies_true]; done)
    | (simp only [State.dropJobs_mounts, Station.modLink_mounts, Station.modServo_mounts, Station.modSpeed_mounts,
      Station.modWrite_mounts, Station.modRecall_mounts, Station.modCtx_mounts, Station.mounts_upd,
      State.modStn_mounts_upd, State.eachStn_mounts, apply_ite Station.mount,
      State.modStn_modLink_mounts, State.modStn_modServo_mounts, State.modStn_modSpeed_mounts,
      State.modStn_modWrite_mounts, State.modStn_modRecall_mounts, State.modStn_modCtx_mounts,
      mounts_upd, foldl_mounts, State.modPort_mounts, State.eachPort_mounts, apply_ite State.mounts,
      ite_self, implies_true]
       (repeat' split) <;> first | with_reducible rfl | simp only [State.dropJobs_mounts, Station.modLink_mounts, Station.modServo_mounts, Station.modSpeed_mounts,
      Station.modWrite_mounts, Station.modRecall_mounts, Station.modCtx_mounts, Station.mounts_upd,
      State.modStn_mounts_upd, State.eachStn_mounts, apply_ite Station.mount,
      State.modStn_modLink_mounts, State.modStn_modServo_mounts, State.modStn_modSpeed_mounts,
      State.modStn_modWrite_mounts, State.modStn_modRecall_mounts, State.modStn_modCtx_mounts,
      mounts_upd, foldl_mounts, State.modPort_mounts, State.eachPort_mounts, apply_ite State.mounts,
      ite_self, implies_true])

theorem State.burnFrom_mounts (s : State) (st : Stn) (n : Nat) : (State.burnFrom s st n).mounts = s.mounts := by
  unfold State.burnFrom
  (repeat' split) <;> first
    | with_reducible rfl
    | (simp only [State.numberLabels_mounts, State.giveBack_mounts, Station.modLink_mounts, Station.modServo_mounts,
      Station.modSpeed_mounts, Station.modWrite_mounts, Station.modRecall_mounts, Station.modCtx_mounts,
      Station.mounts_upd, State.modStn_mounts_upd, State.eachStn_mounts, apply_ite Station.mount,
      State.modStn_modLink_mounts, State.modStn_modServo_mounts, State.modStn_modSpeed_mounts,
      State.modStn_modWrite_mounts, State.modStn_modRecall_mounts, State.modStn_modCtx_mounts,
      mounts_upd, foldl_mounts, State.modPort_mounts, State.eachPort_mounts, apply_ite State.mounts,
      ite_self, implies_true]; done)
    | (simp only [State.numberLabels_mounts, State.giveBack_mounts, Station.modLink_mounts, Station.modServo_mounts,
      Station.modSpeed_mounts, Station.modWrite_mounts, Station.modRecall_mounts, Station.modCtx_mounts,
      Station.mounts_upd, State.modStn_mounts_upd, State.eachStn_mounts, apply_ite Station.mount,
      State.modStn_modLink_mounts, State.modStn_modServo_mounts, State.modStn_modSpeed_mounts,
      State.modStn_modWrite_mounts, State.modStn_modRecall_mounts, State.modStn_modCtx_mounts,
      mounts_upd, foldl_mounts, State.modPort_mounts, State.eachPort_mounts, apply_ite State.mounts,
      ite_self, implies_true]
       (repeat' split) <;> first | with_reducible rfl | simp only [State.numberLabels_mounts, State.giveBack_mounts, Station.modLink_mounts, Station.modServo_mounts,
      Station.modSpeed_mounts, Station.modWrite_mounts, Station.modRecall_mounts, Station.modCtx_mounts,
      Station.mounts_upd, State.modStn_mounts_upd, State.eachStn_mounts, apply_ite Station.mount,
      State.modStn_modLink_mounts, State.modStn_modServo_mounts, State.modStn_modSpeed_mounts,
      State.modStn_modWrite_mounts, State.modStn_modRecall_mounts, State.modStn_modCtx_mounts,
      mounts_upd, foldl_mounts, State.modPort_mounts, State.eachPort_mounts, apply_ite State.mounts,
      ite_self, implies_true])

theorem Station.dropColophon_mounts (t : Station) : t.dropColophon.mount = t.mount := by
  unfold Station.dropColophon
  split <;> rfl

theorem Station.unplace_mounts (t : Station) (keep : Nat) (begun : Bool) : (t.unplace keep begun).mount = t.mount := by
  unfold Station.unplace
  split
  · rfl
  · dsimp only
    split
    · exact (Station.dropColophon_mounts _).trans rfl
    · rfl

theorem State.dropLost_mounts (s : State) (st : Stn) : (State.dropLost s st).mounts = s.mounts := by
  simp only [State.dropLost, State.dropJobs_mounts, Station.modLink_mounts, Station.modServo_mounts,
      Station.modSpeed_mounts, Station.modWrite_mounts, Station.modRecall_mounts, Station.modCtx_mounts,
      Station.mounts_upd, State.modStn_mounts_upd, State.eachStn_mounts, apply_ite Station.mount,
      State.modStn_modLink_mounts, State.modStn_modServo_mounts, State.modStn_modSpeed_mounts,
      State.modStn_modWrite_mounts, State.modStn_modRecall_mounts, State.modStn_modCtx_mounts,
      mounts_upd, foldl_mounts, State.modPort_mounts, State.eachPort_mounts, apply_ite State.mounts,
      ite_self, implies_true]

theorem State.unplace_mounts (s : State) (st : Stn) (keep : Nat) (begun : Bool) :
    (State.unplace s st keep begun).mounts = s.mounts := by
  unfold State.unplace
  rw [State.dropLost_mounts]
  exact State.modStn_mounts _ _ _ (fun t => t.unplace_mounts keep begun)

theorem State.voidWriting_mounts (s : State) (st : Stn) : (State.voidWriting s st).mounts = s.mounts := by
  simp only [State.voidWriting, State.unplace_mounts, Station.modLink_mounts, Station.modServo_mounts,
      Station.modSpeed_mounts, Station.modWrite_mounts, Station.modRecall_mounts, Station.modCtx_mounts,
      Station.mounts_upd, State.modStn_mounts_upd, State.eachStn_mounts, apply_ite Station.mount,
      State.modStn_modLink_mounts, State.modStn_modServo_mounts, State.modStn_modSpeed_mounts,
      State.modStn_modWrite_mounts, State.modStn_modRecall_mounts, State.modStn_modCtx_mounts,
      mounts_upd, foldl_mounts, State.modPort_mounts, State.eachPort_mounts, apply_ite State.mounts,
      ite_self, implies_true]

theorem State.sendAdmin_mounts (s : State) (r : CmdRef) (ep : Bool) : (State.sendAdmin s r ep).mounts = s.mounts := by
  unfold State.sendAdmin
  (repeat' split) <;> simp only [State.finish_mounts, State.sendData_mounts, Station.modLink_mounts, Station.modServo_mounts,
      Station.modSpeed_mounts, Station.modWrite_mounts, Station.modRecall_mounts, Station.modCtx_mounts,
      Station.mounts_upd, State.modStn_mounts_upd, State.eachStn_mounts, apply_ite Station.mount,
      State.modStn_modLink_mounts, State.modStn_modServo_mounts, State.modStn_modSpeed_mounts,
      State.modStn_modWrite_mounts, State.modStn_modRecall_mounts, State.modStn_modCtx_mounts,
      mounts_upd, foldl_mounts, State.modPort_mounts, State.eachPort_mounts, apply_ite State.mounts,
      ite_self, implies_true]

theorem State.grantsGo_mounts (s : State) : (State.grantsGo s).mounts = s.mounts := by
  simp only [State.grantsGo, State.sendAdmin_mounts, Station.modLink_mounts, Station.modServo_mounts,
      Station.modSpeed_mounts, Station.modWrite_mounts, Station.modRecall_mounts, Station.modCtx_mounts,
      Station.mounts_upd, State.modStn_mounts_upd, State.eachStn_mounts, apply_ite Station.mount,
      State.modStn_modLink_mounts, State.modStn_modServo_mounts, State.modStn_modSpeed_mounts,
      State.modStn_modWrite_mounts, State.modStn_modRecall_mounts, State.modStn_modCtx_mounts,
      mounts_upd, foldl_mounts, State.modPort_mounts, State.eachPort_mounts, apply_ite State.mounts,
      ite_self, implies_true]

theorem State.rampTo_mounts (s : State) (st : Stn) (why : RampFor) (mm : Nat) :
    (State.rampTo s st why mm).mounts = s.mounts := by
  simp only [State.rampTo, Station.modLink_mounts, Station.modServo_mounts, Station.modSpeed_mounts,
      Station.modWrite_mounts, Station.modRecall_mounts, Station.modCtx_mounts, Station.mounts_upd,
      State.modStn_mounts_upd, State.eachStn_mounts, apply_ite Station.mount,
      State.modStn_modLink_mounts, State.modStn_modServo_mounts, State.modStn_modSpeed_mounts,
      State.modStn_modWrite_mounts, State.modStn_modRecall_mounts, State.modStn_modCtx_mounts,
      mounts_upd, foldl_mounts, State.modPort_mounts, State.eachPort_mounts, apply_ite State.mounts,
      ite_self, implies_true]

theorem State.closeOpen_mounts (s : State) (st : Stn) : (State.closeOpen s st).mounts = s.mounts := by
  simp only [State.closeOpen, State.closeGath_mounts, Station.modLink_mounts, Station.modServo_mounts,
      Station.modSpeed_mounts, Station.modWrite_mounts, Station.modRecall_mounts, Station.modCtx_mounts,
      Station.mounts_upd, State.modStn_mounts_upd, State.eachStn_mounts, apply_ite Station.mount,
      State.modStn_modLink_mounts, State.modStn_modServo_mounts, State.modStn_modSpeed_mounts,
      State.modStn_modWrite_mounts, State.modStn_modRecall_mounts, State.modStn_modCtx_mounts,
      mounts_upd, foldl_mounts, State.modPort_mounts, State.eachPort_mounts, apply_ite State.mounts,
      ite_self, implies_true]

theorem State.runOut_mounts (s : State) (st : Stn) : (State.runOut s st).mounts = s.mounts := by
  simp only [State.runOut, State.unplace_mounts, State.closeOpen_mounts, Station.modLink_mounts,
      Station.modServo_mounts, Station.modSpeed_mounts, Station.modWrite_mounts,
      Station.modRecall_mounts, Station.modCtx_mounts, Station.mounts_upd, State.modStn_mounts_upd,
      State.eachStn_mounts, apply_ite Station.mount, State.modStn_modLink_mounts,
      State.modStn_modServo_mounts, State.modStn_modSpeed_mounts, State.modStn_modWrite_mounts,
      State.modStn_modRecall_mounts, State.modStn_modCtx_mounts, mounts_upd, foldl_mounts,
      State.modPort_mounts, State.eachPort_mounts, apply_ite State.mounts, ite_self, implies_true]

theorem State.controlledStop_mounts (s : State) (st : Stn) : (State.controlledStop s st).mounts = s.mounts := by
  simp only [State.controlledStop, State.rampTo_mounts, State.runOut_mounts, Station.modLink_mounts,
      Station.modServo_mounts, Station.modSpeed_mounts, Station.modWrite_mounts,
      Station.modRecall_mounts, Station.modCtx_mounts, Station.mounts_upd, State.modStn_mounts_upd,
      State.eachStn_mounts, apply_ite Station.mount, State.modStn_modLink_mounts,
      State.modStn_modServo_mounts, State.modStn_modSpeed_mounts, State.modStn_modWrite_mounts,
      State.modStn_modRecall_mounts, State.modStn_modCtx_mounts, mounts_upd, foldl_mounts,
      State.modPort_mounts, State.eachPort_mounts, apply_ite State.mounts, ite_self, implies_true]

theorem State.openLoops_mounts (s : State) (st : Stn) : (State.openLoops s st).mounts = s.mounts := by
  simp only [State.openLoops, State.hold_mounts, Station.modLink_mounts, Station.modServo_mounts,
      Station.modSpeed_mounts, Station.modWrite_mounts, Station.modRecall_mounts, Station.modCtx_mounts,
      Station.mounts_upd, State.modStn_mounts_upd, State.eachStn_mounts, apply_ite Station.mount,
      State.modStn_modLink_mounts, State.modStn_modServo_mounts, State.modStn_modSpeed_mounts,
      State.modStn_modWrite_mounts, State.modStn_modRecall_mounts, State.modStn_modCtx_mounts,
      mounts_upd, foldl_mounts, State.modPort_mounts, State.eachPort_mounts, apply_ite State.mounts,
      ite_self, implies_true]

theorem State.stopMigs_mounts (s : State) (st : Stn) : (State.stopMigs s st).mounts = s.mounts := by
  unfold State.stopMigs
  rfl

theorem State.dropWork_mounts (s : State) (st : Stn) : (State.dropWork s st).mounts = s.mounts := by
  simp only [State.dropWork, State.stopMigs_mounts, Station.modLink_mounts, Station.modServo_mounts,
      Station.modSpeed_mounts, Station.modWrite_mounts, Station.modRecall_mounts, Station.modCtx_mounts,
      Station.mounts_upd, State.modStn_mounts_upd, State.eachStn_mounts, apply_ite Station.mount,
      State.modStn_modLink_mounts, State.modStn_modServo_mounts, State.modStn_modSpeed_mounts,
      State.modStn_modWrite_mounts, State.modStn_modRecall_mounts, State.modStn_modCtx_mounts,
      mounts_upd, foldl_mounts, State.modPort_mounts, State.eachPort_mounts, apply_ite State.mounts,
      ite_self, implies_true]

theorem State.freePool_mounts (s : State) (st : Stn) (p : Fin 5) : (State.freePool s st p).mounts = s.mounts := by
  simp only [State.freePool, State.returnBuf_mounts, Station.modLink_mounts, Station.modServo_mounts,
      Station.modSpeed_mounts, Station.modWrite_mounts, Station.modRecall_mounts, Station.modCtx_mounts,
      Station.mounts_upd, State.modStn_mounts_upd, State.eachStn_mounts, apply_ite Station.mount,
      State.modStn_modLink_mounts, State.modStn_modServo_mounts, State.modStn_modSpeed_mounts,
      State.modStn_modWrite_mounts, State.modStn_modRecall_mounts, State.modStn_modCtx_mounts,
      mounts_upd, foldl_mounts, State.modPort_mounts, State.eachPort_mounts, apply_ite State.mounts,
      ite_self, implies_true]

theorem State.freeSpent_mounts (s : State) (st : Stn) : (State.freeSpent s st).mounts = s.mounts := by
  simp only [State.freeSpent, State.grantsGo_mounts, State.freePool_mounts, Station.modLink_mounts,
      Station.modServo_mounts, Station.modSpeed_mounts, Station.modWrite_mounts,
      Station.modRecall_mounts, Station.modCtx_mounts, Station.mounts_upd, State.modStn_mounts_upd,
      State.eachStn_mounts, apply_ite Station.mount, State.modStn_modLink_mounts,
      State.modStn_modServo_mounts, State.modStn_modSpeed_mounts, State.modStn_modWrite_mounts,
      State.modStn_modRecall_mounts, State.modStn_modCtx_mounts, mounts_upd, foldl_mounts,
      State.modPort_mounts, State.eachPort_mounts, apply_ite State.mounts, ite_self, implies_true]

theorem State.tailRead_mounts (s : State) (st : Stn) (p : RxPos) (low i : Nat) : (State.tailRead s st p low i).mounts = s.mounts := by
  unfold State.tailRead
  exact State.modStn_mounts _ _ _ (fun t => by split <;> rfl)

theorem State.dropArea_mounts (s : State) (st : Stn) (g : Gath) : (State.dropArea s st g).mounts = s.mounts := by
  unfold State.dropArea
  exact State.modStn_mounts _ _ _ (fun t => by split <;> rfl)

theorem State.loseBuf_mounts (s : State) (h : BitVec 32) (b : Buf) : (State.loseBuf s h b).mounts = s.mounts := by
  unfold State.loseBuf
  (repeat' split) <;> simp only [State.dropArea_mounts, Station.modLink_mounts, Station.modServo_mounts, Station.modSpeed_mounts,
      Station.modWrite_mounts, Station.modRecall_mounts, Station.modCtx_mounts, Station.mounts_upd,
      State.modStn_mounts_upd, State.eachStn_mounts, apply_ite Station.mount,
      State.modStn_modLink_mounts, State.modStn_modServo_mounts, State.modStn_modSpeed_mounts,
      State.modStn_modWrite_mounts, State.modStn_modRecall_mounts, State.modStn_modCtx_mounts,
      mounts_upd, foldl_mounts, State.modPort_mounts, State.eachPort_mounts, apply_ite State.mounts,
      ite_self, implies_true]

theorem State.stablePool_mounts (s : State) (d : DieId) (p : Fin 5) : (State.stablePool s d p).mounts = s.mounts := by
  simp only [State.stablePool, State.modDie_mounts, State.putBack_mounts, State.loseBuf_mounts,
      Station.modLink_mounts, Station.modServo_mounts, Station.modSpeed_mounts, Station.modWrite_mounts,
      Station.modRecall_mounts, Station.modCtx_mounts, Station.mounts_upd, State.modStn_mounts_upd,
      State.eachStn_mounts, apply_ite Station.mount, State.modStn_modLink_mounts,
      State.modStn_modServo_mounts, State.modStn_modSpeed_mounts, State.modStn_modWrite_mounts,
      State.modStn_modRecall_mounts, State.modStn_modCtx_mounts, mounts_upd, foldl_mounts,
      State.modPort_mounts, State.eachPort_mounts, apply_ite State.mounts, ite_self, implies_true]

theorem State.stableAll_mounts (s : State) : (State.stableAll s).mounts = s.mounts := by
  simp only [State.stableAll, State.stablePool_mounts, Station.modLink_mounts, Station.modServo_mounts,
      Station.modSpeed_mounts, Station.modWrite_mounts, Station.modRecall_mounts, Station.modCtx_mounts,
      Station.mounts_upd, State.modStn_mounts_upd, State.eachStn_mounts, apply_ite Station.mount,
      State.modStn_modLink_mounts, State.modStn_modServo_mounts, State.modStn_modSpeed_mounts,
      State.modStn_modWrite_mounts, State.modStn_modRecall_mounts, State.modStn_modCtx_mounts,
      mounts_upd, foldl_mounts, State.modPort_mounts, State.eachPort_mounts, apply_ite State.mounts,
      ite_self, implies_true]

theorem State.fallback_mounts (s : State) (st : Stn) : (State.fallback s st).mounts = s.mounts := by
  simp only [State.fallback, State.rampTo_mounts, Station.modLink_mounts, Station.modServo_mounts,
      Station.modSpeed_mounts, Station.modWrite_mounts, Station.modRecall_mounts, Station.modCtx_mounts,
      Station.mounts_upd, State.modStn_mounts_upd, State.eachStn_mounts, apply_ite Station.mount,
      State.modStn_modLink_mounts, State.modStn_modServo_mounts, State.modStn_modSpeed_mounts,
      State.modStn_modWrite_mounts, State.modStn_modRecall_mounts, State.modStn_modCtx_mounts,
      mounts_upd, foldl_mounts, State.modPort_mounts, State.eachPort_mounts, apply_ite State.mounts,
      ite_self, implies_true]

end Sys2Proof.Machine
end

