-- ==== Sys2Proof/Laws/Pages.lean ====
section
/-!
SUPPORT. What the operations on pages do to buffer memory: of the control state they change nothing else, and they keep the
canonical form.
-/
set_option linter.all false
namespace Sys2Proof.Machine

/-- `t` is reached from `s` by writing pages, as far as the control state tells. -/
def PagesOnly (s t : State) : Prop :=
  t.control = { s.control with mem := t.mem } ∧ (Memory.wf s.mem = true → Memory.wf t.mem = true)

theorem PagesOnly.refl (s : State) : PagesOnly s s := ⟨rfl, id⟩

theorem PagesOnly.trans {s t u : State} (h : PagesOnly s t) (k : PagesOnly t u) : PagesOnly s u :=
  ⟨by rw [k.1, h.1], k.2 ∘ h.2⟩

theorem PagesOnly.of {s t : State} (h : t.control = s.control) : PagesOnly s t := by
  have m : t.mem = s.mem := keeps_mem_of h
  exact ⟨by rw [h, m]; rfl, by rw [m]; exact id⟩

theorem State.setPage_pages (s : State) (a : PageAddr) (g : PageImg) : PagesOnly s (s.setPage a g) :=
  ⟨rfl, Memory.writeBytes_wf _ _ _⟩

theorem PagesOnly.raise {s t : State} (h : PagesOnly s t) (n d : Nat) : PagesOnly s (t.raise n d) :=
  h.trans (PagesOnly.of (State.raise_control ..))

theorem PagesOnly.elogPage {s t : State} (h : PagesOnly s t) (a : PageAddr) (kind bits detail : Nat) (handle : BitVec 32) (actor : Nat) :
    PagesOnly s (t.elogPage a kind bits detail handle actor) := h.trans (PagesOnly.of (State.elogPage_control ..))

theorem PagesOnly.setPage {s t : State} (h : PagesOnly s t) (a : PageAddr) (g : PageImg) : PagesOnly s (t.setPage a g) :=
  h.trans (State.setPage_pages ..)

theorem PagesOnly.modStack {s t : State} (h : PagesOnly s t) (k : Fin 4) (f : Stack → Stack) : PagesOnly s (t.modStack k f) :=
  h.trans (PagesOnly.of rfl)

theorem State.writePage_pages (s : State) (a : PageAddr) (g : PageImg) : PagesOnly s (s.writePage a g) := State.setPage_pages _ _ _

theorem State.hardFault_pages (s : State) (a : PageAddr) (g : PageImg) (bits detail : Nat) (handle : BitVec 32) (actor : Nat) :
    PagesOnly s (s.hardFault a g bits detail handle actor) := by
  unfold State.hardFault
  dsimp only
  refine (PagesOnly.of (State.elogPage_control s a 4 bits detail handle actor)).trans ?_
  generalize s.elogPage a 4 bits detail handle actor = u
  split
  · exact PagesOnly.of rfl
  · split
    · exact PagesOnly.raise (PagesOnly.elogPage (PagesOnly.setPage (PagesOnly.modStack (PagesOnly.refl _) _ _) _ _) _ _ _ _ _ _) _ _
    · exact PagesOnly.raise (PagesOnly.elogPage (PagesOnly.setPage (PagesOnly.refl _) _ _) _ _ _ _ _ _) _ _

theorem State.readPage_pages (s : State) (a : PageAddr) (l : PageLine) (detail : Nat) (handle : BitVec 32) (actor : Nat) :
    PagesOnly s (s.readPage a l detail handle actor).2 := by
  unfold State.readPage
  dsimp only
  split
  · refine (PagesOnly.of ?_).trans (State.hardFault_pages ..)
    rw [State.raise_control, State.elogPage_control]
  · refine PagesOnly.of ?_
    dsimp only
    split
    · rw [State.schedule_control]
      split
      · exact State.countCorrected_control ..
      · rfl
    · split
      · exact State.countCorrected_control ..
      · rfl

theorem State.writeBackPage_pages (s : State) (w : PendingWb) (verify : PageLine) : PagesOnly s (s.writeBackPage w verify) := by
  unfold State.writeBackPage
  dsimp only
  have h : PagesOnly s ((s.writePage w.addr (s.page w.addr)).elogPage w.addr 2 w.bits w.detail w.handle w.actor) :=
    (State.writePage_pages ..).trans (PagesOnly.of (State.elogPage_control ..))
  generalize (s.writePage w.addr (s.page w.addr)).elogPage w.addr 2 w.bits w.detail w.handle w.actor = u at h
  refine h.trans ?_
  split
  · exact (PagesOnly.of (State.countCorrected_control ..)).trans (State.hardFault_pages ..)
  · exact State.readPage_pages ..

theorem State.scrubPage_pages (s : State) (place : PageAddr) (l : PageLine) (detail : Nat) : PagesOnly s (s.scrubPage place l detail) := by
  unfold State.scrubPage
  dsimp only
  split
  · refine PagesOnly.trans (t := State.writePage _ (s.serves place) _)
      (PagesOnly.trans (PagesOnly.of ?_) (State.writePage_pages ..)) (State.hardFault_pages ..)
    rw [State.raise_control, State.elogPage_control]
  · split
    · exact PagesOnly.of (by rw [State.schedule_control, State.countCorrected_control])
    · exact PagesOnly.refl _

theorem State.consume_pages (s : State) (a : PageAddr) (g : PageImg) (c : Consumer) : PagesOnly s (s.consume a g c) := by
  unfold State.consume
  split
  · exact PagesOnly.refl _
  · exact PagesOnly.of (State.readPoisoned_control ..)
  · split
    · exact PagesOnly.refl _
    · split
      · exact PagesOnly.of (State.sendAdmin_control ..)
      · exact PagesOnly.of (State.modCmd_control ..)
  · exact PagesOnly.of (by rw [State.settle_control, State.abandonRec_control, State.modRec_control])
  · exact PagesOnly.of (by rw [State.settle_control, State.abandonRec_control])
  · exact PagesOnly.of (State.burnReleased_control ..)
  · exact PagesOnly.of rfl
  · exact PagesOnly.of rfl
  · exact PagesOnly.of rfl
  · split
    · exact PagesOnly.of (State.migStop_control ..)
    · exact PagesOnly.refl _
  · dsimp only
    split
    · exact (State.readPage_pages ..).trans (PagesOnly.of (State.loseContext_control ..))
    · exact PagesOnly.raise (PagesOnly.setPage (State.readPage_pages ..) _ _) _ _
  · exact PagesOnly.of (State.dropWord_control ..)

/-! ### Class M's slots (R29) -/

/-- Class M is granted where 31 slots of the pseudo-channel have gone by since its last one. -/
theorem State.mGranted_eq (s : State) (a : PageAddr) : s.mGranted a = decide (31 ≤ s.slotsSinceM a) := by
  by_cases h : 31 ≤ s.slotsSinceM a <;> simp [State.mGranted, arbiterGrant, firstByPrio, h]

/-- Where a page's accesses go is a matter of the remap table alone. -/
theorem State.redirect_modStack (s : State) (a : PageAddr) (k : Fin 4) (f : Stack → Stack) (h : ∀ x, (f x).remap = x.remap) :
    (s.modStack k f).redirect a = s.redirect a := by
  have e : ((s.modStack k f).hbm[a.stack]).remap = (s.hbm[a.stack]).remap := by
    simp only [State.modStack, vmod, Fin.getElem_fin, Vector.getElem_set]
    split
    · next c => rw [h]; simp only [Fin.ext c]
    · rfl
  unfold State.redirect
  rw [e]

/-- An access of another class is one slot more. -/
theorem State.slotsSinceM_takeSlot (s : State) (a : PageAddr) : (s.takeSlot a).slotsSinceM a = s.slotsSinceM a + 1 := by
  have e := s.redirect_modStack a a.stack (fun x => { x with mSlots := vmod x.mSlots (s.redirect a).channel fun y => (y.1, y.2 + 1) })
    fun _ => rfl
  simp only [State.slotsSinceM, State.takeSlot, e]
  simp [State.modStack]
  omega

/-- After its slot class M waits for the next one. -/
theorem State.slotsSinceM_takeM (s : State) (a : PageAddr) : (s.takeM a).slotsSinceM a = 0 := by
  have e := s.redirect_modStack a a.stack (fun x => { x with mSlots := vmod x.mSlots (s.redirect a).channel fun _ => (s.clock, 0) })
    fun _ => rfl
  simp only [State.slotsSinceM, State.takeM, e]
  simp [State.modStack]

end Sys2Proof.Machine
end

