-- ==== Sys2Proof/Laws/Queue.lean ====
section
/-!
SUPPORT. The operations that leave the queue of commands and the clock of the package alone: one lemma for each, in the order in which they are built on
one another.
-/
set_option linter.all false

namespace Sys2Proof.Machine

/-- An update of any field that is no part of the queue of commands and the clock. -/
theorem keeps_queue_upd (s : State) (fresh : Nat) (out : List Out) (rst : ResetCtl) (ledger : Ledger) (boot : Boot) (vault : Vault) (supply : Supply) (thermal : Thermal) (pinsSet : Bool) (mem : List Host.Cell) (hbm : Vector Stack 4) (dies : Vector Die 2) (stores : Vector Store 10) (stns : Vector Station 8) (stnMap : BitVec 8) (locks : List Lock) (mntCnt : BitVec 32) (ucieDown : Bool) (migs : List MigJob) (test : Option TestRun) (power : Power) (blkRst : List BlkReset) (tap : Tap) :
    State.queue ⟨s.pending, s.clock, fresh, out, rst, ledger, boot, vault, supply, thermal, pinsSet, mem, hbm, dies, stores, s.ports, stns, stnMap, locks, mntCnt, ucieDown, migs, test, power, blkRst, tap⟩ = s.queue := rfl

/-- A fold of operations that leave the queue of commands and the clock alone. -/
theorem foldl_keeps_queue {β : Type} (f : State → β → State) (h : ∀ a x, (f a x).queue = a.queue) (l : List β) (s : State) :
    (l.foldl f s).queue = s.queue := by
  induction l generalizing s with
  | nil => rfl
  | cons x r ih => exact (ih _).trans (h _ _)

/-- The same of a fold that gathers something beside the state. -/
theorem foldl_fst_keeps_queue {α β : Type} (f : State × α → β → State × α) (h : ∀ a x, (f a x).1.queue = a.1.queue) (l : List β)
    (a : State × α) : (l.foldl f a).1.queue = a.1.queue := by
  induction l generalizing a with
  | nil => rfl
  | cons x r ih => exact (ih _).trans (h _ _)

/-- A choice between two operations that leave the queue of commands and the clock alone. -/
theorem ite_keeps_queue {c : Prop} [Decidable c] {a b s : State} (ha : a.queue = s.queue) (hb : b.queue = s.queue) :
    (if c then a else b).queue = s.queue := by
  split
  · exact ha
  · exact hb

theorem State.modPort_keeps_queue (s : State) (p : Port) (f : HostPort → HostPort) : (s.modPort p f).queue = s.queue := rfl
theorem State.eachPort_keeps_queue (s : State) (f : Port → HostPort → HostPort) : (s.eachPort f).queue = s.queue := rfl
theorem State.modDie_keeps_queue (s : State) (d : DieId) (f : Die → Die) : (s.modDie d f).queue = s.queue := rfl
theorem State.modStn_keeps_queue (s : State) (t : Stn) (f : Station → Station) : (s.modStn t f).queue = s.queue := rfl
theorem State.modStack_keeps_queue (s : State) (k : Fin 4) (f : Stack → Stack) : (s.modStack k f).queue = s.queue := rfl
theorem State.modStore_keeps_queue (s : State) (k : Fin 10) (f : Store → Store) : (s.modStore k f).queue = s.queue := rfl
theorem State.emit_keeps_queue (s : State) (o : Out) : (s.emit o).queue = s.queue := rfl
theorem State.draw_keeps_queue (s : State) : s.draw.2.queue = s.queue := rfl
theorem State.drawBytes_keeps_queue (s : State) (n : Nat) : (s.drawBytes n).2.queue = s.queue := rfl
theorem State.eachDie_keeps_queue (s : State) (f : DieId → Die → Die) : (s.eachDie f).queue = s.queue := rfl
theorem State.eachStn_keeps_queue (s : State) (f : Stn → Station → Station) : (s.eachStn f).queue = s.queue := by
  unfold State.eachStn
  exact foldl_keeps_queue (fun a t => a.modStn t (f t)) (fun _ _ => rfl) allStns s

/-- The queue and the clock are part of the control state. -/
theorem keeps_queue_of {s t : State} (h : t.control = s.control) : t.queue = s.queue := congrArg (fun c => (c.pending, c.clock)) h

theorem State.raise_keeps_queue (s : State) (n : Nat) (detail : Nat) : (State.raise s n detail).queue = s.queue :=
  keeps_queue_of (State.raise_control s n detail)

theorem State.trace_keeps_queue (s : State) (d : DieId) (q : Fin 4) (words : List (BitVec 64)) :
    (State.trace s d q words).queue = s.queue :=
  keeps_queue_of (State.trace_control s d q words)

theorem State.dropWord_keeps_queue (s : State) (d : DieId) (q : Fin 4) : (State.dropWord s d q).queue = s.queue :=
  keeps_queue_of (State.dropWord_control s d q)

theorem State.popTrace_keeps_queue (s : State) (p : Port) (d : DieId) (q : Fin 4) (flips : BitVec 73) :
    (State.popTrace s p d q flips).2.queue = s.queue := by
  unfold State.popTrace
  (repeat' split) <;> first
    | with_reducible rfl
    | (simp only [State.modPort_keeps_queue, State.modDie_keeps_queue, State.draw_keeps_queue,
      State.trace_keeps_queue, State.dropWord_keeps_queue, keeps_queue_upd, foldl_keeps_queue,
      State.modPort_keeps_queue, State.eachPort_keeps_queue, apply_ite State.queue, ite_self, implies_true]; done)
    | (simp only [State.modPort_keeps_queue, State.modDie_keeps_queue, State.draw_keeps_queue,
      State.trace_keeps_queue, State.dropWord_keeps_queue, keeps_queue_upd, foldl_keeps_queue,
      State.modPort_keeps_queue, State.eachPort_keeps_queue, apply_ite State.queue, ite_self, implies_true]
       (repeat' split) <;> first | with_reducible rfl | simp only [State.modPort_keeps_queue, State.modDie_keeps_queue, State.draw_keeps_queue,
      State.trace_keeps_queue, State.dropWord_keeps_queue, keeps_queue_upd, foldl_keeps_queue,
      State.modPort_keeps_queue, State.eachPort_keeps_queue, apply_ite State.queue, ite_self, implies_true])

theorem State.setPage_keeps_queue (s : State) (a : PageAddr) (g : PageImg) : (State.setPage s a g).queue = s.queue := by
  unfold State.setPage
  rfl

theorem State.elogPage_keeps_queue (s : State) (a : PageAddr) (kind bits detail : Nat) (handle : BitVec 32) (actor : Nat) :
    (State.elogPage s a kind bits detail handle actor).queue = s.queue :=
  keeps_queue_of (State.elogPage_control s a kind bits detail handle actor)

theorem State.countCorrected_keeps_queue (s : State) (a : PageAddr) (bits : Nat) :
    (State.countCorrected s a bits).queue = s.queue :=
  keeps_queue_of (State.countCorrected_control s a bits)

theorem State.schedule_keeps_queue (s : State) (w : PendingWb) : (State.schedule s w).queue = s.queue :=
  keeps_queue_of (State.schedule_control s w)

theorem State.hardFault_keeps_queue (s : State) (a : PageAddr) (g : PageImg) (bits detail : Nat) (handle : BitVec 32) (actor : Nat) :
    (State.hardFault s a g bits detail handle actor).queue = s.queue := by
  unfold State.hardFault
  (repeat' split) <;> first
    | with_reducible rfl
    | (simp only [State.modStack_keeps_queue, State.raise_keeps_queue, State.setPage_keeps_queue,
      State.elogPage_keeps_queue, keeps_queue_upd, foldl_keeps_queue, State.modPort_keeps_queue,
      State.eachPort_keeps_queue, apply_ite State.queue, ite_self, implies_true]; done)
    | (simp only [State.modStack_keeps_queue, State.raise_keeps_queue, State.setPage_keeps_queue,
      State.elogPage_keeps_queue, keeps_queue_upd, foldl_keeps_queue, State.modPort_keeps_queue,
      State.eachPort_keeps_queue, apply_ite State.queue, ite_self, implies_true]
       (repeat' split) <;> first | with_reducible rfl | simp only [State.modStack_keeps_queue, State.raise_keeps_queue, State.setPage_keeps_queue,
      State.elogPage_keeps_queue, keeps_queue_upd, foldl_keeps_queue, State.modPort_keeps_queue,
      State.eachPort_keeps_queue, apply_ite State.queue, ite_self, implies_true])

theorem State.readPage_keeps_queue (s : State) (a : PageAddr) (l : PageLine) (detail : Nat) (handle : BitVec 32) (actor : Nat) :
    (State.readPage s a l detail handle actor).2.queue = s.queue := by
  unfold State.readPage
  (repeat' split) <;> first
    | with_reducible rfl
    | (simp only [State.raise_keeps_queue, State.elogPage_keeps_queue, State.countCorrected_keeps_queue,
      State.schedule_keeps_queue, State.hardFault_keeps_queue, keeps_queue_upd, foldl_keeps_queue,
      State.modPort_keeps_queue, State.eachPort_keeps_queue, apply_ite State.queue, ite_self, implies_true]; done)
    | (simp only [State.raise_keeps_queue, State.elogPage_keeps_queue, State.countCorrected_keeps_queue,
      State.schedule_keeps_queue, State.hardFault_keeps_queue, keeps_queue_upd, foldl_keeps_queue,
      State.modPort_keeps_queue, State.eachPort_keeps_queue, apply_ite State.queue, ite_self, implies_true]
       (repeat' split) <;> first | with_reducible rfl | simp only [State.raise_keeps_queue, State.elogPage_keeps_queue, State.countCorrected_keeps_queue,
      State.schedule_keeps_queue, State.hardFault_keeps_queue, keeps_queue_upd, foldl_keeps_queue,
      State.modPort_keeps_queue, State.eachPort_keeps_queue, apply_ite State.queue, ite_self, implies_true])

theorem State.writePage_keeps_queue (s : State) (a : PageAddr) (g : PageImg) : (State.writePage s a g).queue = s.queue := by
  unfold State.writePage
  rfl

theorem State.writeBackPage_keeps_queue (s : State) (w : PendingWb) (verify : PageLine) :
    (State.writeBackPage s w verify).queue = s.queue := by
  simp only [State.writeBackPage, State.elogPage_keeps_queue, State.countCorrected_keeps_queue,
      State.hardFault_keeps_queue, State.readPage_keeps_queue, State.writePage_keeps_queue,
      keeps_queue_upd, foldl_keeps_queue, State.modPort_keeps_queue, State.eachPort_keeps_queue,
      apply_ite State.queue, ite_self, implies_true]

theorem State.modQp_keeps_queue (s : State) (p : Port) (q : Nat) (f : Qp → Qp) : (State.modQp s p q f).queue = s.queue :=
  keeps_queue_of (State.modQp_control s p q f)

theorem State.modCmd_keeps_queue (s : State) (r : CmdRef) (f : Cmd → Cmd) : (State.modCmd s r f).queue = s.queue :=
  keeps_queue_of (State.modCmd_control s r f)

theorem State.finishNew_keeps_queue (s : State) (c : HostCmd) (f : Ending) : (State.finishNew s c f).queue = s.queue :=
  keeps_queue_of (State.finishNew_control s c f)

theorem State.finish_keeps_queue (s : State) (r : CmdRef) (f : Ending) : (State.finish s r f).queue = s.queue :=
  keeps_queue_of (State.finish_control s r f)

theorem State.finishWith_keeps_queue (s : State) (r : CmdRef) (f : Ending) (buf : List Byte) :
    (State.finishWith s r f buf).queue = s.queue :=
  keeps_queue_of (State.finishWith_control s r f buf)

theorem State.unlock_keeps_queue (s : State) (r : CmdRef) : (State.unlock s r).queue = s.queue :=
  keeps_queue_of (State.unlock_control s r)

theorem State.addCmd_keeps_queue (s : State) (c : HostCmd) (k : Cmd) : (State.addCmd s c k).queue = s.queue :=
  keeps_queue_of (State.addCmd_control s c k)

theorem State.dropWaits_keeps_queue (s : State) (f : Waiter → Bool) : (State.dropWaits s f).queue = s.queue :=
  keeps_queue_of (State.dropWaits_control s f)

theorem State.dropJobs_keeps_queue (s : State) (f : JobKind → Bool) : (State.dropJobs s f).queue = s.queue :=
  keeps_queue_of (State.dropJobs_control s f)

theorem State.abandonRec_keeps_queue (s : State) (st : Stn) (lon : Nat) (why : Abandon) :
    (State.abandonRec s st lon why).queue = s.queue :=
  keeps_queue_of (State.abandonRec_control s st lon why)

theorem State.sendAdmin_keeps_queue (s : State) (r : CmdRef) (ep : Bool) : (State.sendAdmin s r ep).queue = s.queue :=
  keeps_queue_of (State.sendAdmin_control s r ep)

theorem State.openLoops_keeps_queue (s : State) (st : Stn) : (State.openLoops s st).queue = s.queue :=
  keeps_queue_of (State.openLoops_control s st)

theorem State.faultDie_keeps_queue (s : State) (d : DieId) : (State.faultDie s d).queue = s.queue :=
  keeps_queue_of (State.faultDie_control s d)

theorem State.capDown_keeps_queue (s : State) (st : Stn) : (State.capDown s st).queue = s.queue :=
  keeps_queue_of (State.capDown_control s st)

theorem State.endMig_keeps_queue (s : State) (j : MigJob) (nrec : Nat) : (State.endMig s j nrec).queue = s.queue :=
  keeps_queue_of (State.endMig_control s j nrec)

theorem State.settle_keeps_queue (s : State) (st : Stn) : (State.settle s st).queue = s.queue :=
  keeps_queue_of (State.settle_control s st)

theorem State.wakeFor_keeps_queue (s : State) (r : CmdRef) : (State.wakeFor s r).queue = s.queue :=
  keeps_queue_of (State.wakeFor_control s r)

theorem State.launch_keeps_queue (s : State) (c : HostCmd) (k : Cmd) (go : CmdRef → State → State)
    (h : ∀ r a, (go r a).queue = a.queue) : (State.launch s c k go).queue = s.queue := by
  unfold State.launch
  split
  · rw [State.wakeFor_keeps_queue, State.addCmd_keeps_queue]
  · rw [h, State.addCmd_keeps_queue]

theorem State.modRec_keeps_queue (s : State) (st : Stn) (lon : Nat) (f : Rec → Rec) :
    (State.modRec s st lon f).queue = s.queue :=
  keeps_queue_of (State.modRec_control s st lon f)

theorem State.sealGo_keeps_queue (s : State) (st : Stn) : (State.sealGo s st).queue = s.queue :=
  keeps_queue_of (State.sealGo_control s st)

theorem State.sealsGo_keeps_queue (s : State) : (State.sealsGo s).queue = s.queue := by
  simp only [State.sealsGo, State.sealGo_keeps_queue, keeps_queue_upd, foldl_keeps_queue,
      State.modPort_keeps_queue, State.eachPort_keeps_queue, apply_ite State.queue, ite_self, implies_true]

theorem State.loseContext_keeps_queue (s : State) (st : Stn) : (State.loseContext s st).queue = s.queue :=
  keeps_queue_of (State.loseContext_control s st)

theorem State.burnReleased_keeps_queue (s : State) (st : Stn) (gnum : Nat) :
    (State.burnReleased s st gnum).queue = s.queue :=
  keeps_queue_of (State.burnReleased_control s st gnum)

theorem State.scrubPage_keeps_queue (s : State) (place : PageAddr) (l : PageLine) (detail : Nat) :
    (State.scrubPage s place l detail).queue = s.queue := by
  simp only [State.scrubPage, State.raise_keeps_queue, State.elogPage_keeps_queue,
      State.countCorrected_keeps_queue, State.schedule_keeps_queue, State.hardFault_keeps_queue,
      State.writePage_keeps_queue, keeps_queue_upd, foldl_keeps_queue, State.modPort_keeps_queue,
      State.eachPort_keeps_queue, apply_ite State.queue, ite_self, implies_true]

theorem State.retired_keeps_queue (s : State) (d : DieId) (dpn : Nat) (port : Port) :
    (State.retired s d dpn port).queue = s.queue :=
  keeps_queue_of (State.retired_control s d dpn port)

theorem State.endReading_keeps_queue (s : State) (st : Stn) : (State.endReading s st).queue = s.queue :=
  keeps_queue_of (State.endReading_control s st)

theorem State.dropMount_keeps_queue (s : State) (st : Stn) : (State.dropMount s st).queue = s.queue :=
  keeps_queue_of (State.dropMount_control s st)

theorem State.forgetCmd_keeps_queue (s : State) (r : CmdRef) : (State.forgetCmd s r).queue = s.queue := by
  simp only [State.forgetCmd, State.unlock_keeps_queue, State.dropWaits_keeps_queue, keeps_queue_upd,
      foldl_keeps_queue, State.modPort_keeps_queue, State.eachPort_keeps_queue, apply_ite State.queue,
      ite_self, implies_true]

theorem State.migHalt_keeps_queue (s : State) (j : MigJob) : (State.migHalt s j).queue = s.queue :=
  keeps_queue_of (State.migHalt_control s j)

theorem State.abortKind_keeps_queue (s1 : State) (r : CmdRef) (k : Cmd) : (State.abortKind s1 r k).queue = s1.queue := by
  unfold State.abortKind
  dsimp only
  split
  · rw [State.settle_keeps_queue, State.sealGo_keeps_queue, State.abandonRec_keeps_queue]
  · rw [State.endReading_keeps_queue, State.modStn_keeps_queue]
  · rw [State.endReading_keeps_queue, State.modStn_keeps_queue]
  · rw [State.endReading_keeps_queue, State.modStn_keeps_queue]
  · rfl
  · split
    · exact State.migHalt_keeps_queue ..
    · rfl
  · rfl
  · refine ite_keeps_queue ?_ rfl
    rw [State.dropMount_keeps_queue]
  · exact ite_keeps_queue rfl rfl
  · rfl
  · rfl

theorem State.abortEffect_keeps_queue (s : State) (r : CmdRef) (k : Cmd) : (State.abortEffect s r k).queue = s.queue := by
  simp only [State.abortEffect, State.forgetCmd_keeps_queue, State.abortKind_keeps_queue, keeps_queue_upd,
      foldl_keeps_queue, State.modPort_keeps_queue, State.eachPort_keeps_queue, apply_ite State.queue,
      ite_self, implies_true]

theorem State.undone_keeps_queue (s : State) (p : Port) (q : Nat) (d : Done) : (State.undone s p q d).queue = s.queue :=
  keeps_queue_of (State.undone_control s p q d)

theorem State.abortQueue_keeps_queue (s : State) (p : Port) (q : Nat) : (State.abortQueue s p q).queue = s.queue := by
  unfold State.abortQueue
  (repeat' split) <;> simp only [State.modQp_keeps_queue, State.abortEffect_keeps_queue, State.undone_keeps_queue, keeps_queue_upd,
      foldl_keeps_queue, State.modPort_keeps_queue, State.eachPort_keeps_queue, apply_ite State.queue,
      ite_self, implies_true]

theorem State.abandonOpen_keeps_queue (s : State) (p : Port) (q : Nat) : (State.abandonOpen s p q).queue = s.queue :=
  keeps_queue_of (State.abandonOpen_control s p q)

theorem State.enterE4_keeps_queue (s : State) : (State.enterE4 s).queue = s.queue := by
  simp only [State.enterE4, State.eachStn_keeps_queue, keeps_queue_upd, foldl_keeps_queue,
      State.modPort_keeps_queue, State.eachPort_keeps_queue, apply_ite State.queue, ite_self, implies_true]

theorem State.tryE4_keeps_queue (s : State) : (State.tryE4 s).queue = s.queue := by
  simp only [State.tryE4, State.enterE4_keeps_queue, keeps_queue_upd, foldl_keeps_queue,
      State.modPort_keeps_queue, State.eachPort_keeps_queue, apply_ite State.queue, ite_self, implies_true]

theorem State.tryExit_keeps_queue (s : State) : (State.tryExit s).queue = s.queue := by
  unfold State.tryExit
  (repeat' split) <;> simp only [State.tryE4_keeps_queue, keeps_queue_upd, foldl_keeps_queue, State.modPort_keeps_queue,
      State.eachPort_keeps_queue, apply_ite State.queue, ite_self, implies_true]

theorem State.quiesceStn_keeps_queue (s : State) (st : Stn) : (State.quiesceStn s st).queue = s.queue :=
  keeps_queue_of (State.quiesceStn_control s st)

theorem State.warmStart_keeps_queue (s : State) : (State.warmStart s).queue = s.queue := by
  simp only [State.warmStart, State.quiesceStn_keeps_queue, keeps_queue_upd, foldl_keeps_queue,
      State.modPort_keeps_queue, State.eachPort_keeps_queue, apply_ite State.queue, ite_self, implies_true]

theorem State.warmSource_keeps_queue (s : State) (src : ResetSource) : (State.warmSource s src).queue = s.queue := by
  unfold State.warmSource
  (repeat' split) <;> simp only [State.warmStart_keeps_queue, keeps_queue_upd, foldl_keeps_queue, State.modPort_keeps_queue,
      State.eachPort_keeps_queue, apply_ite State.queue, ite_self, implies_true]

theorem State.loadStores_keeps_queue (s : State) : (State.loadStores s).queue = s.queue := by
  unfold State.loadStores
  rfl

theorem State.restoreSlots_keeps_queue (s : State) : (State.restoreSlots s).queue = s.queue :=
  keeps_queue_of (State.restoreSlots_control s)

theorem State.applyImage_keeps_queue (s : State) : (State.applyImage s).queue = s.queue := by
  simp only [State.applyImage, State.eachPort_keeps_queue, State.eachDie_keeps_queue, State.eachStn_keeps_queue,
      State.trace_keeps_queue, State.loadStores_keeps_queue, State.restoreSlots_keeps_queue,
      keeps_queue_upd, foldl_keeps_queue, State.modPort_keeps_queue, State.eachPort_keeps_queue,
      apply_ite State.queue, ite_self, implies_true]

theorem State.startTrial_keeps_queue (s : State) : (State.startTrial s).queue = s.queue := by
  simp only [State.startTrial, keeps_queue_upd, foldl_keeps_queue, State.modPort_keeps_queue,
      State.eachPort_keeps_queue, apply_ite State.queue, ite_self, implies_true]

theorem State.openIdle_keeps_queue (s : State) : (State.openIdle s).queue = s.queue := by
  simp only [State.openIdle, State.openLoops_keeps_queue, keeps_queue_upd, foldl_keeps_queue,
      State.modPort_keeps_queue, State.eachPort_keeps_queue, apply_ite State.queue, ite_self, implies_true]

theorem State.deviceReady_keeps_queue (s : State) : (State.deviceReady s).queue = s.queue := by
  simp only [State.deviceReady, State.raise_keeps_queue, State.warmStart_keeps_queue,
      State.applyImage_keeps_queue, State.startTrial_keeps_queue, State.openIdle_keeps_queue,
      keeps_queue_upd, foldl_keeps_queue, State.modPort_keeps_queue, State.eachPort_keeps_queue,
      apply_ite State.queue, ite_self, implies_true]

theorem State.modSel_keeps_queue (s : State) (p : Port) (f : TraceQ → TraceQ) : (State.modSel s p f).queue = s.queue :=
  keeps_queue_of (State.modSel_control s p f)

theorem State.setupWrite_keeps_queue (s : State) (p : Port) (f : HostPort → HostPort) :
    (State.setupWrite s p f).queue = s.queue := by
  simp only [State.setupWrite, State.modPort_keeps_queue, keeps_queue_upd, foldl_keeps_queue,
      State.modPort_keeps_queue, State.eachPort_keeps_queue, apply_ite State.queue, ite_self, implies_true]

theorem State.regEffect_keeps_queue (s : State) (p : Port) (ofs size : Nat) (v : BitVec 64) :
    (State.regEffect s p ofs size v).queue = s.queue := by
  simp only [State.regEffect, State.modPort_keeps_queue, State.modSel_keeps_queue, State.setupWrite_keeps_queue,
      keeps_queue_upd, foldl_keeps_queue, State.modPort_keeps_queue, State.eachPort_keeps_queue,
      apply_ite State.queue, ite_self, implies_true]

theorem State.railReads_keeps_queue (s : State) (rail : Fin 7) (mv : Nat) : (State.railReads s rail mv).queue = s.queue := by
  unfold State.railReads
  rfl

theorem State.heat_keeps_queue (s : State) (d : DieId) (temp : BitVec 16) : (State.heat s d temp).queue = s.queue := by
  unfold State.heat
  rfl

theorem State.portReset_keeps_queue (s : State) (p : Port) : (State.portReset s p).queue = s.queue := by
  simp only [State.portReset, State.modPort_keeps_queue, State.dropWaits_keeps_queue,
      State.abortQueue_keeps_queue, State.abandonOpen_keeps_queue, keeps_queue_upd, foldl_keeps_queue,
      State.modPort_keeps_queue, State.eachPort_keeps_queue, apply_ite State.queue, ite_self, implies_true]

theorem State.blkEnter_keeps_queue (s : State) (kind : Nat) (d : DieId) (index : Nat) :
    (State.blkEnter s kind d index).queue = s.queue :=
  keeps_queue_of (State.blkEnter_control s kind d index)

theorem State.quarantine_keeps_queue (s : State) (d : DieId) (owner : Option Nat) :
    (State.quarantine s d owner).queue = s.queue :=
  keeps_queue_of (State.quarantine_control s d owner)

theorem State.runBlock_keeps_queue (c : HostCmd) (s : State) : (State.runBlock c s).queue = s.queue := by
  simp only [State.runBlock, State.addCmd_keeps_queue, State.blkEnter_keeps_queue, State.quarantine_keeps_queue,
      keeps_queue_upd, foldl_keeps_queue, State.modPort_keeps_queue, State.eachPort_keeps_queue,
      apply_ite State.queue, ite_self, implies_true]

theorem State.blkStationBack_keeps_queue (s : State) (st : Stn) : (State.blkStationBack s st).queue = s.queue := by
  unfold State.blkStationBack
  rfl

theorem State.blkControlBack_keeps_queue (s : State) (d : DieId) : (State.blkControlBack s d).queue = s.queue :=
  keeps_queue_of (State.blkControlBack_control s d)

theorem State.blkLeave_keeps_queue (s : State) (b : BlkReset) : (State.blkLeave s b).queue = s.queue := by
  unfold State.blkLeave
  (repeat' split) <;> simp only [State.modDie_keeps_queue, State.blkStationBack_keeps_queue, State.blkControlBack_keeps_queue,
      keeps_queue_upd, foldl_keeps_queue, State.modPort_keeps_queue, State.eachPort_keeps_queue,
      apply_ite State.queue, ite_self, implies_true]

theorem State.flash_keeps_queue (s : State) (ops : List FlashOp) : (State.flash s ops).queue = s.queue :=
  keeps_queue_of (State.flash_control s ops)

theorem State.portsApply_keeps_queue (s : State) : (State.portsApply s).queue = s.queue := by
  unfold State.portsApply
  rfl

theorem State.stageGo_keeps_queue (s : State) (c : HostCmd) (data : List Byte) :
    (State.stageGo s c data).queue = s.queue := by
  unfold State.stageGo
  (repeat' split) <;> simp only [State.flash_keeps_queue, keeps_queue_upd, foldl_keeps_queue, State.modPort_keeps_queue,
      State.eachPort_keeps_queue, apply_ite State.queue, ite_self, implies_true]

theorem State.runStage_keeps_queue (c : HostCmd) (data : List Byte) (s : State) :
    (State.runStage c data s).queue = s.queue := by
  simp only [State.runStage, State.addCmd_keeps_queue, State.stageGo_keeps_queue, keeps_queue_upd,
      foldl_keeps_queue, State.modPort_keeps_queue, State.eachPort_keeps_queue, apply_ite State.queue,
      ite_self, implies_true]

theorem State.stageCheck_keeps_queue (s : State) (x : Staging) (w : CmdRef) (len : Nat) (read : SlotRead) :
    (State.stageCheck s x w len read).queue = s.queue := by
  unfold State.stageCheck
  (repeat' split) <;> simp only [State.raise_keeps_queue, State.finish_keeps_queue, State.flash_keeps_queue, keeps_queue_upd,
      foldl_keeps_queue, State.modPort_keeps_queue, State.eachPort_keeps_queue, apply_ite State.queue,
      ite_self, implies_true]

theorem State.migStop_keeps_queue (s : State) (j : MigJob) (status check : Nat) (lon : Option Nat) (resume : Nat) (around : Nat × Nat) :
    (State.migStop s j status check lon resume around).queue = s.queue :=
  keeps_queue_of (State.migStop_control s j status check lon resume around)

theorem State.resume_keeps_queue (s : State) (st : Stn) : (State.resume s st).queue = s.queue :=
  keeps_queue_of (State.resume_control s st)

theorem State.setCap_keeps_queue (s : State) (c : Option Nat) : (State.setCap s c).queue = s.queue := by
  simp only [State.setCap, State.capDown_keeps_queue, keeps_queue_upd, foldl_keeps_queue,
      State.modPort_keeps_queue, State.eachPort_keeps_queue, apply_ite State.queue, ite_self, implies_true]

theorem State.testEnds_keeps_queue (s : State) (outcome : Nat) (parts : List TestPart) :
    (State.testEnds s outcome parts).queue = s.queue := by
  unfold State.testEnds
  (repeat' split) <;> simp only [State.finishWith_keeps_queue, keeps_queue_upd, foldl_keeps_queue, State.modPort_keeps_queue,
      State.eachPort_keeps_queue, apply_ite State.queue, ite_self, implies_true]

theorem State.runTest_keeps_queue (c : HostCmd) (parts : List TestPart) (s : State) :
    (State.runTest c parts s).queue = s.queue := by
  simp only [State.runTest, State.finishNew_keeps_queue, State.launch_keeps_queue, State.testEnds_keeps_queue,
      keeps_queue_upd, foldl_keeps_queue, State.modPort_keeps_queue, State.eachPort_keeps_queue,
      apply_ite State.queue, ite_self, implies_true]

theorem State.monReading_keeps_queue (s : State) (src : BitVec 32) (v : BitVec 32) : (State.monReading s src v).queue = s.queue := by
  unfold State.monReading
  dsimp only
  split <;> first | rfl | exact State.heat_keeps_queue ..

theorem State.stationHalts_keeps_queue (s : State) (st : Stn) : (State.stationHalts s st).queue = s.queue :=
  keeps_queue_of (State.stationHalts_control s st)

theorem State.halts_keeps_queue (s : State) (k : Fin 10) (why : HaltCause) : (State.halts s k why).queue = s.queue := by
  simp only [State.halts, State.modStore_keeps_queue, State.raise_keeps_queue, State.faultDie_keeps_queue,
      State.sealsGo_keeps_queue, State.stationHalts_keeps_queue, keeps_queue_upd, foldl_keeps_queue,
      State.modPort_keeps_queue, State.eachPort_keeps_queue, apply_ite State.queue, ite_self, implies_true]

theorem State.readPoisoned_keeps_queue (s : State) (a : PageAddr) (r : CmdRef) (ofs : Nat) (g : PageImg) :
    (State.readPoisoned s a r ofs g).queue = s.queue :=
  keeps_queue_of (State.readPoisoned_control s a r ofs g)

theorem State.consume_keeps_queue (s : State) (a : PageAddr) (g : PageImg) (c : Consumer) :
    (State.consume s a g c).queue = s.queue := by
  unfold State.consume
  (repeat' split) <;> simp only [State.modStn_keeps_queue, State.raise_keeps_queue, State.dropWord_keeps_queue,
      State.setPage_keeps_queue, State.readPage_keeps_queue, State.modCmd_keeps_queue,
      State.abandonRec_keeps_queue, State.sendAdmin_keeps_queue, State.settle_keeps_queue,
      State.modRec_keeps_queue, State.loseContext_keeps_queue, State.burnReleased_keeps_queue,
      State.migStop_keeps_queue, State.readPoisoned_keeps_queue, keeps_queue_upd, foldl_keeps_queue,
      State.modPort_keeps_queue, State.eachPort_keeps_queue, apply_ite State.queue, ite_self, implies_true]

theorem State.volumeNumbered_keeps_queue (s : State) (st : Stn) (r : CmdRef) :
    (State.volumeNumbered s st r).queue = s.queue :=
  keeps_queue_of (State.volumeNumbered_control s st r)

theorem State.ledgerDone_keeps_queue (s : State) (a_1 : LedgerOp) : (State.ledgerDone s a_1).queue = s.queue := by
  unfold State.ledgerDone
  (repeat' split) <;> simp only [State.volumeNumbered_keeps_queue, State.finish_keeps_queue, State.retired_keeps_queue, keeps_queue_upd]


end Sys2Proof.Machine
end

