-- ==== Sys2Proof/Laws/Registers.lean ====
section
/-!
SUPPORT. Register accesses: what an access that its register answers comes to, the bits of a register word that is replaced, and
what the messages of a mask or routing write change.
-/
set_option linter.all false
namespace Sys2Proof.Machine

/-- An access that its register answers has its effect, with the link out of L1. -/
theorem State.regAccess_answers (s : State) (p : Port) (ofs : Nat) (f : State → State) (h : s.regAnswers p ofs = true) :
    s.regAccess p ofs f = f (s.modPort p fun h => { h with l1 := false }) := by
  have hu : (s.ports[p]).linkUp = true := by
    simp only [State.regAnswers, Bool.and_eq_true] at h; exact h.1
  have h2 : State.regAnswers (s.modPort p fun h => { h with l1 := false }) p ofs = true := by
    simp only [State.regAnswers, State.modPort_rst, State.modPort_ports, vmod_get_self] at h ⊢; exact h
  simp only [State.regAccess, hu, if_true, h2]

/-- A message on a vector changes pending bits and what left, nothing else. -/
theorem State.msix_frame (s : State) (p : Port) (v : Nat) :
    ∃ m o, s.msix p v = { s.modPort p fun h => { h with msixPend := m } with out := o } := by
  unfold State.msix
  dsimp only
  split
  · exact ⟨(s.ports[p]).msixPend, s.out, by rw [State.modPort, vmod_same _ _ _ rfl]⟩
  · split
    · exact ⟨_, s.out, rfl⟩
    · exact ⟨(s.ports[p]).msixPend, _, by rw [State.modPort, vmod_same _ _ _ rfl]; rfl⟩

/-- A message changes pending bits and what left, nothing else. -/
theorem State.sendEvent_frame (s : State) (p : Port) (n : Nat) :
    ∃ m o, s.sendEvent p n = { s.modPort p fun h => { h with msixPend := m } with out := o } := by
  unfold State.sendEvent
  dsimp only
  split
  · exact ⟨(s.ports[p]).msixPend, s.out, by rw [State.modPort, vmod_same _ _ _ rfl]⟩
  · split
    · exact State.msix_frame _ _ _
    · exact ⟨(s.ports[p]).msixPend, s.out, by rw [State.modPort, vmod_same _ _ _ rfl]⟩

/-- The same of several messages. -/
theorem State.sendEvents_frame (l : List Nat) (s : State) (p : Port) :
    ∃ m o, s.sendEvents p l = { s.modPort p fun h => { h with msixPend := m } with out := o } := by
  unfold State.sendEvents
  induction l generalizing s with
  | nil => exact ⟨(s.ports[p]).msixPend, s.out, by rw [State.modPort, vmod_same _ _ _ rfl]; rfl⟩
  | cons x r ih =>
    obtain ⟨m, o, h⟩ := State.sendEvent_frame s p x
    obtain ⟨m', o', h'⟩ := ih (s.sendEvent p x)
    refine ⟨m', o', ?_⟩
    rw [List.foldl_cons, h', h]
    simp only [State.modPort, vmod_vmod]
    rfl

/-- A bit of a register whose word w is replaced. -/
theorem putWord_bit {n : Nat} (x : BitVec n) (w : Nat) (v : BitVec 32) (i : Nat) (h : i < n) :
    (putWord x w v).getLsbD i = if i / 32 = w then v.getLsbD (i % 32) else x.getLsbD i := by
  unfold putWord
  simp only [BitVec.getLsbD_or, BitVec.getLsbD_and, BitVec.getLsbD_not, BitVec.getLsbD_shiftLeft, BitVec.getLsbD_ofNat, BitVec.getLsbD_setWidth]
  simp only [Nat.testBit_two_pow_sub_one]
  by_cases e : i / 32 = w
  · have : ¬ i < 32 * w := by omega
    have e2 : i - 32 * w = i % 32 := by omega
    have e3 : i % 32 < 32 := by omega
    have e4 : i % 32 < n := by omega
    simp [h, e, this, e2, e3, e4]
  · simp [h, e]
    by_cases e1 : i < 32 * w
    · simp [e1]
    · have : ¬ i - 32 * w < 32 := by omega
      have e4 : v.getLsbD (i - 32 * w) = false := BitVec.getLsbD_of_ge _ _ (by omega)
      simp [e1, e4]; omega
/-- Every other element is as it was. -/
theorem vmod_others {α : Type} {n : Nat} (v : Vector α n) (p : Fin n) (f : α → α) : ∀ q, q ≠ p → (vmod v p f)[q] = v[q] :=
  fun _ h => vmod_get_ne _ _ _ _ (Ne.symm h)

/-- A message that has left stays so. -/
theorem sendEvent_keeps (s : State) (p : Port) (n x : Nat) (h : .msix p x ∈ s.out) : .msix p x ∈ (s.sendEvent p n).out := by
  obtain ⟨l, hl, _⟩ := (State.sendEvent_events s p n).2.2.2.2
  rw [hl]; exact List.mem_append_right _ h
/-- A pending message stays pending. -/
theorem sendEvent_pend (s : State) (p : Port) (n x : Nat) (h : (s.ports[p]).msixPend.getLsbD x = true) : ((s.sendEvent p n).ports[p]).msixPend.getLsbD x = true := by
  unfold State.sendEvent State.msix
  dsimp only
  split
  · exact h
  split
  · split
    · exact h
    split
    · simp only [State.modPort_ports, vmod_get_self, BitVec.getLsbD_or, h, Bool.true_or]
    · exact h
  · exact h
/-- A message changes nothing of its port but pending bits. -/
theorem sendEvent_same (s : State) (p : Port) (n : Nat) : ((s.sendEvent p n).ports[p]) = { s.ports[p] with msixPend := ((s.sendEvent p n).ports[p]).msixPend } := by
  obtain ⟨m, o, e⟩ := State.sendEvent_frame s p n
  rw [e]; simp only [State.modPort, vmod_get_self]
/-- An unmasked source with a vector sends its message, or leaves it pending where its vector is masked. -/
theorem sent_one (s : State) (p : Port) (n x : Nat) (hx : x < 64) (hm : (s.ports[p]).mask.getLsbD n = false) (hv : (s.ports[p]).vecOf n = some x)
    (hl : (s.ports[p]).linkUp = true) (he : (s.ports[p]).msixEn = true) :
    if (s.ports[p]).msixMask.getLsbD x then ((s.sendEvent p n).ports[p]).msixPend.getLsbD x = true else .msix p x ∈ (s.sendEvent p n).out := by
  unfold State.sendEvent State.msix
  simp only [hm, hv, hl, he, Bool.false_and, Bool.not_true, Bool.or_self, Bool.false_eq_true, if_false]
  split
  · simp only [State.modPort_ports, vmod_get_self, BitVec.getLsbD_or, BitVec.getLsbD_twoPow, hx]; simp
  · simp [State.emit]
/-- The same of a source in a list. -/
theorem sent_all (l : List Nat) (s : State) (p : Port) (n x : Nat) (hn : n ∈ l) (hx : x < 64) (hm : (s.ports[p]).mask.getLsbD n = false) (hv : (s.ports[p]).vecOf n = some x)
    (hl : (s.ports[p]).linkUp = true) (he : (s.ports[p]).msixEn = true) :
    if (s.ports[p]).msixMask.getLsbD x then ((s.sendEvents p l).ports[p]).msixPend.getLsbD x = true else .msix p x ∈ (s.sendEvents p l).out := by
  have keep : ∀ (l : List Nat) (s : State) (m : BitVec 64), (if m.getLsbD x then (s.ports[p]).msixPend.getLsbD x = true else .msix p x ∈ s.out) →
     (if m.getLsbD x then ((s.sendEvents p l).ports[p]).msixPend.getLsbD x = true else .msix p x ∈ (s.sendEvents p l).out) := by
    intro l
    induction l with
    | nil => intro s m h; exact h
    | cons a r ih =>
      intro s m h
      refine ih (s.sendEvent p a) m ?_
      split
      · rename_i e; rw [if_pos e] at h; exact sendEvent_pend _ _ _ _ h
      · rename_i e; rw [if_neg e] at h; exact sendEvent_keeps _ _ _ _ h
  induction l generalizing s with
  | nil => cases hn
  | cons a r ih =>
    by_cases e : a = n
    · subst e
      exact keep r _ _ (sent_one s p a x hx hm hv hl he)
    · have hs := sendEvent_same s p a
      have := ih (s.sendEvent p a) (by cases hn; exact absurd rfl e; assumption) (by rw [hs]; exact hm) (by rw [hs]; exact hv) (by rw [hs]; exact hl) (by rw [hs]; exact he)
      rw [hs] at this
      exact this

end Sys2Proof.Machine
end

