-- ==== Sys2Proof/Laws/Service.lean ====
section
/-!
SUPPORT. The operations that leave the service state of the package alone: one lemma for each, in the order in which they are built on
one another.
-/
set_option linter.all false

namespace Sys2Proof.Machine

/-- An update of any field that is no part of the service state. -/
theorem service_upd (s : State) (pending : List Instr) (clock : Nat) (fresh : Nat) (out : List Out) (rst : ResetCtl) (boot : Boot) (supply : Supply) (thermal : Thermal) (pinsSet : Bool) (mem : List Host.Cell) (hbm : Vector Stack 4) (dies : Vector Die 2) (stores : Vector Store 10) (stns : Vector Station 8) (stnMap : BitVec 8) (ucieDown : Bool) (blkRst : List BlkReset) (tap : Tap) :
    State.service ⟨pending, clock, fresh, out, rst, s.ledger, boot, s.vault, supply, thermal, pinsSet, mem, hbm, dies, stores, s.ports, stns, stnMap, s.locks, s.mntCnt, ucieDown, s.migs, s.test, s.power, blkRst, tap⟩ = s.service := rfl

/-- A fold of operations that leave the service state alone. -/
theorem foldl_service {β : Type} (f : State → β → State) (h : ∀ a x, (f a x).service = a.service) (l : List β) (s : State) :
    (l.foldl f s).service = s.service := by
  induction l generalizing s with
  | nil => rfl
  | cons x r ih => exact (ih _).trans (h _ _)

/-- The same of a fold that gathers something beside the state. -/
theorem foldl_fst_service {α β : Type} (f : State × α → β → State × α) (h : ∀ a x, (f a x).1.service = a.1.service) (l : List β)
    (a : State × α) : (l.foldl f a).1.service = a.1.service := by
  induction l generalizing a with
  | nil => rfl
  | cons x r ih => exact (ih _).trans (h _ _)

/-- A choice between two operations that leave the service state alone. -/
theorem ite_service {c : Prop} [Decidable c] {a b s : State} (ha : a.service = s.service) (hb : b.service = s.service) :
    (if c then a else b).service = s.service := by
  split
  · exact ha
  · exact hb

/-- A change of a port that leaves its part of the view alone. -/
theorem State.modPort_service (s : State) (p : Port) (f : HostPort → HostPort) (h : ∀ x, HostPort.service (f x) = HostPort.service x) :
    (s.modPort p f).service = s.service := by
  simp only [State.service, State.modPort, vmod_map _ _ _ _ h]

theorem State.eachPort_service (s : State) (f : Port → HostPort → HostPort) (h : ∀ p x, HostPort.service (f p x) = HostPort.service x) :
    (s.eachPort f).service = s.service :=
  (State.modPort_service _ _ _ (h _)).trans (State.modPort_service _ _ _ (h _))

/-- A change of the other fields of a port. -/
theorem State.modPort_service_upd (s : State) (p : Port) (linkUp : HostPort → Bool) (gen : HostPort → Nat) (width : HostPort → Nat) (l1 : HostPort → Bool) (msixEn : HostPort → Bool) (msixMask : HostPort → BitVec 64) (msixPend : HostPort → BitVec 64) (featAccept : HostPort → BitVec 64) (aqEn : HostPort → Bool) (aqErr : HostPort → BitVec 3) (aqDepth : HostPort → BitVec 13) (aqSqBase : HostPort → BitVec 64) (aqCqBase : HostPort → BitVec 64) (stat : HostPort → BitVec 256) (mask : HostPort → BitVec 256) (route : HostPort → Vector Byte 256) (monSel : HostPort → BitVec 9) (snap : HostPort → MonSnap) (qsel : HostPort → BitVec 3) (underrun : HostPort → BitVec 8) (trcHigh : HostPort → Option (BitVec 32)) (elogDie : HostPort → Bool) (elogIdx : HostPort → BitVec 16) (elogValid : HostPort → Bool) (elogPois : HostPort → Bool) (elogView : HostPort → Option ELogEntry) (rr : HostPort → Nat) :
    (s.modPort p fun x => ⟨linkUp x, gen x, width x, l1 x, msixEn x, msixMask x, msixPend x, featAccept x, aqEn x, aqErr x, aqDepth x, aqSqBase x, aqCqBase x, stat x, mask x, route x, monSel x, snap x, qsel x, underrun x, trcHigh x, elogDie x, elogIdx x, elogValid x, elogPois x, elogView x, x.errs, x.errCnt, x.qps, rr x⟩).service = s.service :=
  State.modPort_service _ _ _ (fun _ => rfl)

theorem State.eachPort_service_upd (s : State) (linkUp : Port → HostPort → Bool) (gen : Port → HostPort → Nat) (width : Port → HostPort → Nat) (l1 : Port → HostPort → Bool) (msixEn : Port → HostPort → Bool) (msixMask : Port → HostPort → BitVec 64) (msixPend : Port → HostPort → BitVec 64) (featAccept : Port → HostPort → BitVec 64) (aqEn : Port → HostPort → Bool) (aqErr : Port → HostPort → BitVec 3) (aqDepth : Port → HostPort → BitVec 13) (aqSqBase : Port → HostPort → BitVec 64) (aqCqBase : Port → HostPort → BitVec 64) (stat : Port → HostPort → BitVec 256) (mask : Port → HostPort → BitVec 256) (route : Port → HostPort → Vector Byte 256) (monSel : Port → HostPort → BitVec 9) (snap : Port → HostPort → MonSnap) (qsel : Port → HostPort → BitVec 3) (underrun : Port → HostPort → BitVec 8) (trcHigh : Port → HostPort → Option (BitVec 32)) (elogDie : Port → HostPort → Bool) (elogIdx : Port → HostPort → BitVec 16) (elogValid : Port → HostPort → Bool) (elogPois : Port → HostPort → Bool) (elogView : Port → HostPort → Option ELogEntry) (rr : Port → HostPort → Nat) :
    (s.eachPort fun p x => ⟨linkUp p x, gen p x, width p x, l1 p x, msixEn p x, msixMask p x, msixPend p x, featAccept p x, aqEn p x, aqErr p x, aqDepth p x, aqSqBase p x, aqCqBase p x, stat p x, mask p x, route p x, monSel p x, snap p x, qsel p x, underrun p x, trcHigh p x, elogDie p x, elogIdx p x, elogValid p x, elogPois p x, elogView p x, x.errs, x.errCnt, x.qps, rr p x⟩).service = s.service :=
  State.eachPort_service _ _ (fun _ _ => rfl)

theorem State.modDie_service (s : State) (d : DieId) (f : Die → Die) : (s.modDie d f).service = s.service := rfl
theorem State.modStn_service (s : State) (t : Stn) (f : Station → Station) : (s.modStn t f).service = s.service := rfl
theorem State.modStack_service (s : State) (k : Fin 4) (f : Stack → Stack) : (s.modStack k f).service = s.service := rfl
theorem State.modStore_service (s : State) (k : Fin 10) (f : Store → Store) : (s.modStore k f).service = s.service := rfl
theorem State.emit_service (s : State) (o : Out) : (s.emit o).service = s.service := rfl
theorem State.draw_service (s : State) : s.draw.2.service = s.service := rfl
theorem State.drawBytes_service (s : State) (n : Nat) : (s.drawBytes n).2.service = s.service := rfl
theorem State.eachDie_service (s : State) (f : DieId → Die → Die) : (s.eachDie f).service = s.service := rfl
theorem State.eachStn_service (s : State) (f : Stn → Station → Station) : (s.eachStn f).service = s.service := by
  unfold State.eachStn
  exact foldl_service (fun a t => a.modStn t (f t)) (fun _ _ => rfl) allStns s

theorem State.putTrace_service (s : State) (d : DieId) (q : Fin 4) (words : List (BitVec 64)) :
    (State.putTrace s d q words).1.service = s.service := by
  unfold State.putTrace
  (repeat' split) <;> first
    | with_reducible rfl
    | (simp only [State.modDie_service, service_upd, foldl_service, State.modPort_service_upd,
      State.eachPort_service_upd, apply_ite State.service, ite_self, implies_true]; done)
    | (simp only [State.modDie_service, service_upd, foldl_service, State.modPort_service_upd,
      State.eachPort_service_upd, apply_ite State.service, ite_self, implies_true]
       (repeat' split) <;> first | with_reducible rfl | simp only [State.modDie_service, service_upd, foldl_service, State.modPort_service_upd,
      State.eachPort_service_upd, apply_ite State.service, ite_self, implies_true])

theorem State.msix_service (s : State) (p : Port) (v : Nat) : (State.msix s p v).service = s.service := by
  simp only [State.msix, State.emit_service, service_upd, foldl_service, State.modPort_service_upd,
      State.eachPort_service_upd, apply_ite State.service, ite_self, implies_true]

theorem State.sendEvent_service (s : State) (p : Port) (n : Nat) : (State.sendEvent s p n).service = s.service := by
  unfold State.sendEvent
  (repeat' split) <;> first
    | with_reducible rfl
    | (simp only [State.msix_service, service_upd, foldl_service, State.modPort_service_upd,
      State.eachPort_service_upd, apply_ite State.service, ite_self, implies_true]; done)
    | (simp only [State.msix_service, service_upd, foldl_service, State.modPort_service_upd,
      State.eachPort_service_upd, apply_ite State.service, ite_self, implies_true]
       (repeat' split) <;> first | with_reducible rfl | simp only [State.msix_service, service_upd, foldl_service, State.modPort_service_upd,
      State.eachPort_service_upd, apply_ite State.service, ite_self, implies_true])

theorem State.raisePort_service (s : State) (p : Port) (n : Nat) : (State.raisePort s p n).service = s.service := by
  simp only [State.raisePort, State.sendEvent_service, service_upd, foldl_service, State.modPort_service_upd,
      State.eachPort_service_upd, apply_ite State.service, ite_self, implies_true]

theorem State.raise1_service (s : State) (n detail : Nat) : (State.raise1 s n detail).1.service = s.service := by
  simp only [State.raise1, State.putTrace_service, State.raisePort_service, service_upd, foldl_service,
      State.modPort_service_upd, State.eachPort_service_upd, apply_ite State.service, ite_self,
      implies_true]

theorem State.raise_service (s : State) (n : Nat) (detail : Nat) : (State.raise s n detail).service = s.service := by
  simp only [State.raise, State.raise1_service, service_upd, foldl_service, State.modPort_service_upd,
      State.eachPort_service_upd, apply_ite State.service, ite_self, implies_true]

theorem State.trace_service (s : State) (d : DieId) (q : Fin 4) (words : List (BitVec 64)) :
    (State.trace s d q words).service = s.service := by
  simp only [State.trace, State.putTrace_service, State.raise_service, service_upd, foldl_service,
      State.modPort_service_upd, State.eachPort_service_upd, apply_ite State.service, ite_self,
      implies_true]

theorem State.raiseAll_service (s : State) (l : List Nat) : (State.raiseAll s l).service = s.service := by
  simp only [State.raiseAll, State.raise_service, service_upd, foldl_service, State.modPort_service_upd,
      State.eachPort_service_upd, apply_ite State.service, ite_self, implies_true]

theorem State.dropWord_service (s : State) (d : DieId) (q : Fin 4) : (State.dropWord s d q).service = s.service := by
  simp only [State.dropWord, State.modDie_service, State.raise_service, service_upd, foldl_service,
      State.modPort_service_upd, State.eachPort_service_upd, apply_ite State.service, ite_self,
      implies_true]

theorem State.popTrace_service (s : State) (p : Port) (d : DieId) (q : Fin 4) (flips : BitVec 73) :
    (State.popTrace s p d q flips).2.service = s.service := by
  unfold State.popTrace
  (repeat' split) <;> first
    | with_reducible rfl
    | (simp only [State.modDie_service, State.draw_service, State.trace_service, State.dropWord_service, service_upd,
      foldl_service, State.modPort_service_upd, State.eachPort_service_upd, apply_ite State.service,
      ite_self, implies_true]; done)
    | (simp only [State.modDie_service, State.draw_service, State.trace_service, State.dropWord_service, service_upd,
      foldl_service, State.modPort_service_upd, State.eachPort_service_upd, apply_ite State.service,
      ite_self, implies_true]
       (repeat' split) <;> first | with_reducible rfl | simp only [State.modDie_service, State.draw_service, State.trace_service, State.dropWord_service, service_upd,
      foldl_service, State.modPort_service_upd, State.eachPort_service_upd, apply_ite State.service,
      ite_self, implies_true])

theorem State.monTake_service (s : State) (d : DieId) (k : Fin 64) (v : BitVec 32) :
    (State.monTake s d k v).service = s.service := by
  simp only [State.monTake, State.modDie_service, State.raise_service, service_upd, foldl_service,
      State.modPort_service_upd, State.eachPort_service_upd, apply_ite State.service, ite_self,
      implies_true]

theorem State.setPage_service (s : State) (a : PageAddr) (g : PageImg) : (State.setPage s a g).service = s.service := by
  unfold State.setPage
  rfl

theorem State.elogPut_service (s : State) (d : DieId) (e : ELogEntry) : (State.elogPut s d e).service = s.service := by
  unfold State.elogPut
  rfl

theorem State.elogPage_service (s : State) (a : PageAddr) (kind bits detail : Nat) (handle : BitVec 32) (actor : Nat) :
    (State.elogPage s a kind bits detail handle actor).service = s.service := by
  unfold State.elogPage
  rfl

theorem State.feedCorrected_service (s : State) (k : Fin 4) (ch : Fin 32) (bits : Nat) :
    (State.feedCorrected s k ch bits).service = s.service := by
  unfold State.feedCorrected
  exact foldl_service _ (fun a i => by
    dsimp only
    split
    · exact State.monTake_service ..
    · rfl) _ _

theorem State.countCorrected_service (s : State) (a : PageAddr) (bits : Nat) :
    (State.countCorrected s a bits).service = s.service := by
  simp only [State.countCorrected, State.modStack_service, State.raise_service, State.feedCorrected_service,
      service_upd, foldl_service, State.modPort_service_upd, State.eachPort_service_upd,
      apply_ite State.service, ite_self, implies_true]

theorem State.schedule_service (s : State) (w : PendingWb) : (State.schedule s w).service = s.service := State.modStack_service ..

theorem State.hardFault_service (s : State) (a : PageAddr) (g : PageImg) (bits detail : Nat) (handle : BitVec 32) (actor : Nat) :
    (State.hardFault s a g bits detail handle actor).service = s.service := by
  unfold State.hardFault
  (repeat' split) <;> first
    | with_reducible rfl
    | (simp only [State.modStack_service, State.raise_service, State.setPage_service, State.elogPage_service,
      service_upd, foldl_service, State.modPort_service_upd, State.eachPort_service_upd,
      apply_ite State.service, ite_self, implies_true]; done)
    | (simp only [State.modStack_service, State.raise_service, State.setPage_service, State.elogPage_service,
      service_upd, foldl_service, State.modPort_service_upd, State.eachPort_service_upd,
      apply_ite State.service, ite_self, implies_true]
       (repeat' split) <;> first | with_reducible rfl | simp only [State.modStack_service, State.raise_service, State.setPage_service, State.elogPage_service,
      service_upd, foldl_service, State.modPort_service_upd, State.eachPort_service_upd,
      apply_ite State.service, ite_self, implies_true])

theorem State.readPage_service (s : State) (a : PageAddr) (l : PageLine) (detail : Nat) (handle : BitVec 32) (actor : Nat) :
    (State.readPage s a l detail handle actor).2.service = s.service := by
  unfold State.readPage
  (repeat' split) <;> first
    | with_reducible rfl
    | (simp only [State.raise_service, State.elogPage_service, State.countCorrected_service, State.schedule_service,
      State.hardFault_service, service_upd, foldl_service, State.modPort_service_upd,
      State.eachPort_service_upd, apply_ite State.service, ite_self, implies_true]; done)
    | (simp only [State.raise_service, State.elogPage_service, State.countCorrected_service, State.schedule_service,
      State.hardFault_service, service_upd, foldl_service, State.modPort_service_upd,
      State.eachPort_service_upd, apply_ite State.service, ite_self, implies_true]
       (repeat' split) <;> first | with_reducible rfl | simp only [State.raise_service, State.elogPage_service, State.countCorrected_service, State.schedule_service,
      State.hardFault_service, service_upd, foldl_service, State.modPort_service_upd,
      State.eachPort_service_upd, apply_ite State.service, ite_self, implies_true])

theorem State.writePage_service (s : State) (a : PageAddr) (g : PageImg) : (State.writePage s a g).service = s.service := by
  unfold State.writePage
  rfl

theorem State.writeBackPage_service (s : State) (w : PendingWb) (verify : PageLine) :
    (State.writeBackPage s w verify).service = s.service := by
  simp only [State.writeBackPage, State.elogPage_service, State.countCorrected_service, State.hardFault_service,
      State.readPage_service, State.writePage_service, service_upd, foldl_service,
      State.modPort_service_upd, State.eachPort_service_upd, apply_ite State.service, ite_self,
      implies_true]

theorem State.sendData_service (s : State) (p : Port) (e : Entry) (sgl : List SglEntry) (ofs : Nat) (data : List Byte) (ep : Bool) :
    (State.sendData s p e sgl ofs data ep).service = s.service :=
  foldl_service (fun a o => a.emit o) (fun _ _ => rfl) _ _

theorem State.sendResult_service (s : State) (p : Port) (e : Entry) (data : List Byte) (ep : Bool) :
    (State.sendResult s p e data ep).service = s.service := by
  simp only [State.sendResult, State.emit_service, service_upd, foldl_service, State.modPort_service_upd,
      State.eachPort_service_upd, apply_ite State.service, ite_self, implies_true]

theorem State.buildPools_service (s : State) (d : DieId) : (State.buildPools s d).service = s.service := by
  simp only [State.buildPools, State.modDie_service, State.raise_service, service_upd, foldl_service,
      State.modPort_service_upd, State.eachPort_service_upd, apply_ite State.service, ite_self,
      implies_true]

theorem State.misuse_service (s : State) (d : DieId) (owner : Nat) (handle : BitVec 32) (reason : Nat) :
    (State.misuse s d owner handle reason).service = s.service := by
  simp only [State.misuse, State.modDie_service, State.raise_service, State.elogPut_service, service_upd,
      foldl_service, State.modPort_service_upd, State.eachPort_service_upd, apply_ite State.service,
      ite_self, implies_true]

theorem State.takeBuf_service (s : State) (d : DieId) (p : Fin 5) (k : Nat) :
    (State.takeBuf s d p k).2.service = s.service := by
  unfold State.takeBuf
  rfl

theorem State.dropRemap_service (s : State) (d : DieId) (h : BitVec 32) (dpns : List Nat) :
    (State.dropRemap s d h dpns).service = s.service := by
  simp only [State.dropRemap, State.modStack_service, State.elogPage_service, service_upd, foldl_service,
      State.modPort_service_upd, State.eachPort_service_upd, apply_ite State.service, ite_self,
      implies_true]

theorem State.putBack_service (s : State) (d : DieId) (p : Fin 5) (i : Nat) :
    (State.putBack s d p i).service = s.service := by
  simp only [State.putBack, State.modDie_service, State.dropRemap_service, service_upd, foldl_service,
      State.modPort_service_upd, State.eachPort_service_upd, apply_ite State.service, ite_self,
      implies_true]

theorem State.addJob_service (s : State) (d : DieId) (r : Fin 4) (j : Job) : (State.addJob s d r j).service = s.service := by
  unfold State.addJob
  rfl

theorem State.backToWait_service (s : State) (d : DieId) (r : Fin 4) (k : JobKind) :
    (State.backToWait s d r k).service = s.service := by
  simp only [State.backToWait, State.modDie_service, service_upd, foldl_service, State.modPort_service_upd,
      State.eachPort_service_upd, apply_ite State.service, ite_self, implies_true]

theorem State.addRoom_service (s : State) (st : Stn) (lon n : Nat) : (State.addRoom s st lon n).service = s.service := by
  unfold State.addRoom
  rfl

theorem State.dropWaits_service (s : State) (f : Waiter → Bool) : (State.dropWaits s f).service = s.service := by
  unfold State.dropWaits
  rfl

theorem State.logStale_service (s : State) (a : PageAddr) (h : BitVec 32) (actor : Nat) :
    (State.logStale s a h actor).service = s.service := by
  simp only [State.logStale, State.modDie_service, State.raise_service, State.elogPage_service,
      State.misuse_service, service_upd, foldl_service, State.modPort_service_upd,
      State.eachPort_service_upd, apply_ite State.service, ite_self, implies_true]

theorem State.dropJobs_service (s : State) (f : JobKind → Bool) : (State.dropJobs s f).service = s.service := by
  unfold State.dropJobs
  rfl

theorem State.closeGath_service (s : State) (st : Stn) (forFlush ends : Bool) :
    (State.closeGath s st forFlush ends).service = s.service := by
  unfold State.closeGath
  (repeat' split) <;> first
    | with_reducible rfl
    | (simp only [State.modStn_service, State.addJob_service, service_upd, foldl_service, State.modPort_service_upd,
      State.eachPort_service_upd, apply_ite State.service, ite_self, implies_true]; done)
    | (simp only [State.modStn_service, State.addJob_service, service_upd, foldl_service, State.modPort_service_upd,
      State.eachPort_service_upd, apply_ite State.service, ite_self, implies_true]
       (repeat' split) <;> first | with_reducible rfl | simp only [State.modStn_service, State.addJob_service, service_upd, foldl_service, State.modPort_service_upd,
      State.eachPort_service_upd, apply_ite State.service, ite_self, implies_true])

theorem State.assembleOnce_service (s : State) (st : Stn) (t : State) (h : State.assembleOnce s st = some t) :
    t.service = s.service := by
  unfold State.assembleOnce at h
  simp only [] at h
  (repeat' split at h) <;> first | (cases h; done) | (cases h; simp only [State.modStn_service, State.closeGath_service, service_upd, foldl_service,
      State.modPort_service_upd, State.eachPort_service_upd, apply_ite State.service, ite_self,
      implies_true])

theorem State.assemble_service (s : State) (st : Stn) (n : Nat) : (State.assemble s st n).service = s.service := by
  induction n generalizing s with
  | zero => rfl
  | succ n ih =>
    unfold State.assemble
    split
    · exact (ih _).trans (State.assembleOnce_service _ _ _ ‹_›)
    · rfl

theorem State.numberLabels_service (s : State) (st : Stn) : (State.numberLabels s st).service = s.service := by
  unfold State.numberLabels
  (repeat' split) <;> first
    | with_reducible rfl
    | (simp only [State.modStn_service, State.addJob_service, service_upd, foldl_service, State.modPort_service_upd,
      State.eachPort_service_upd, apply_ite State.service, ite_self, implies_true]; done)
    | (simp only [State.modStn_service, State.addJob_service, service_upd, foldl_service, State.modPort_service_upd,
      State.eachPort_service_upd, apply_ite State.service, ite_self, implies_true]
       (repeat' split) <;> first | with_reducible rfl | simp only [State.modStn_service, State.addJob_service, service_upd, foldl_service, State.modPort_service_upd,
      State.eachPort_service_upd, apply_ite State.service, ite_self, implies_true])

theorem State.assembleAll_service (s : State) (st : Stn) : (State.assembleAll s st).service = s.service := by
  unfold State.assembleAll
  (repeat' split) <;> simp only [State.assemble_service, State.numberLabels_service, service_upd, foldl_service,
      State.modPort_service_upd, State.eachPort_service_upd, apply_ite State.service, ite_self,
      implies_true]

theorem State.releaseHere_service (s : State) (st : Stn) : (State.releaseHere s st).service = s.service := by
  simp only [State.releaseHere, State.modStn_service, service_upd, foldl_service, State.modPort_service_upd,
      State.eachPort_service_upd, apply_ite State.service, ite_self, implies_true]

theorem State.giveBack_service (s : State) (st : Stn) (gone : List Gath) :
    (State.giveBack s st gone).service = s.service := by
  unfold State.giveBack
  (repeat' split) <;> first
    | with_reducible rfl
    | (simp only [State.modStn_service, State.dropJobs_service, service_upd, foldl_service,
      State.modPort_service_upd, State.eachPort_service_upd, apply_ite State.service, ite_self,
      implies_true]; done)
    | (simp only [State.modStn_service, State.dropJobs_service, service_upd, foldl_service,
      State.modPort_service_upd, State.eachPort_service_upd, apply_ite State.service, ite_self,
      implies_true]
       (repeat' split) <;> first | with_reducible rfl | simp only [State.modStn_service, State.dropJobs_service, service_upd, foldl_service,
      State.modPort_service_upd, State.eachPort_service_upd, apply_ite State.service, ite_self,
      implies_true])

theorem State.burnFrom_service (s : State) (st : Stn) (n : Nat) : (State.burnFrom s st n).service = s.service := by
  unfold State.burnFrom
  (repeat' split) <;> first
    | with_reducible rfl
    | (simp only [State.numberLabels_service, State.giveBack_service, service_upd, foldl_service,
      State.modPort_service_upd, State.eachPort_service_upd, apply_ite State.service, ite_self,
      implies_true]; done)
    | (simp only [State.numberLabels_service, State.giveBack_service, service_upd, foldl_service,
      State.modPort_service_upd, State.eachPort_service_upd, apply_ite State.service, ite_self,
      implies_true]
       (repeat' split) <;> first | with_reducible rfl | simp only [State.numberLabels_service, State.giveBack_service, service_upd, foldl_service,
      State.modPort_service_upd, State.eachPort_service_upd, apply_ite State.service, ite_self,
      implies_true])

theorem State.abandonRec_service (s : State) (st : Stn) (lon : Nat) (why : Abandon) :
    (State.abandonRec s st lon why).service = s.service := by
  unfold State.abandonRec
  (repeat' split) <;> first
    | with_reducible rfl
    | (simp only [State.modStn_service, State.dropJobs_service, State.assembleAll_service, State.burnFrom_service,
      service_upd, foldl_service, State.modPort_service_upd, State.eachPort_service_upd,
      apply_ite State.service, ite_self, implies_true]; done)
    | (simp only [State.modStn_service, State.dropJobs_service, State.assembleAll_service, State.burnFrom_service,
      service_upd, foldl_service, State.modPort_service_upd, State.eachPort_service_upd,
      apply_ite State.service, ite_self, implies_true]
       (repeat' split) <;> first | with_reducible rfl | simp only [State.modStn_service, State.dropJobs_service, State.assembleAll_service, State.burnFrom_service,
      service_upd, foldl_service, State.modPort_service_upd, State.eachPort_service_upd,
      apply_ite State.service, ite_self, implies_true])

theorem State.releaseAll_service (s : State) (st : Stn) : (State.releaseAll s st).service = s.service := by
  simp only [State.releaseAll, State.numberLabels_service, State.releaseHere_service, service_upd,
      foldl_service, State.modPort_service_upd, State.eachPort_service_upd, apply_ite State.service,
      ite_self, implies_true]

theorem State.compose_service (s : State) (st : Stn) (kind : GKind) (stream : List Byte) :
    (State.compose s st kind stream).service = s.service := by
  unfold State.compose
  (repeat' split) <;> first
    | with_reducible rfl
    | (simp only [State.modStn_service, State.numberLabels_service, service_upd, foldl_service,
      State.modPort_service_upd, State.eachPort_service_upd, apply_ite State.service, ite_self,
      implies_true]; done)
    | (simp only [State.modStn_service, State.numberLabels_service, service_upd, foldl_service,
      State.modPort_service_upd, State.eachPort_service_upd, apply_ite State.service, ite_self,
      implies_true]
       (repeat' split) <;> first | with_reducible rfl | simp only [State.modStn_service, State.numberLabels_service, service_upd, foldl_service,
      State.modPort_service_upd, State.eachPort_service_upd, apply_ite State.service, ite_self,
      implies_true])

theorem State.composeEndpaper_service (s : State) (st : Stn) : (State.composeEndpaper s st).service = s.service := by
  unfold State.composeEndpaper
  (repeat' split) <;> simp only [State.compose_service, service_upd, foldl_service, State.modPort_service_upd,
      State.eachPort_service_upd, apply_ite State.service, ite_self, implies_true]

theorem State.composeSpines_service (s : State) (st : Stn) : (State.composeSpines s st).service = s.service := by
  unfold State.composeSpines
  (repeat' split) <;> simp only [State.modStn_service, State.compose_service, service_upd, foldl_service, State.modPort_service_upd,
      State.eachPort_service_upd, apply_ite State.service, ite_self, implies_true]

theorem State.placeNext_service (s : State) (st : Stn) (ahead : Nat) : (State.placeNext s st ahead).service = s.service := by
  unfold State.placeNext
  (repeat' split) <;> first
    | with_reducible rfl
    | (simp only [State.modStn_service, service_upd, foldl_service, State.modPort_service_upd,
      State.eachPort_service_upd, apply_ite State.service, ite_self, implies_true]; done)
    | (simp only [State.modStn_service, service_upd, foldl_service, State.modPort_service_upd,
      State.eachPort_service_upd, apply_ite State.service, ite_self, implies_true]
       (repeat' split) <;> first | with_reducible rfl | simp only [State.modStn_service, service_upd, foldl_service, State.modPort_service_upd,
      State.eachPort_service_upd, apply_ite State.service, ite_self, implies_true])

theorem State.unplace_service (s : State) (st : Stn) (keep : Nat) (begun : Bool) :
    (State.unplace s st keep begun).service = s.service := by
  unfold State.unplace
  rfl

theorem State.voidWriting_service (s : State) (st : Stn) : (State.voidWriting s st).service = s.service := by
  simp only [State.voidWriting, State.modStn_service, State.unplace_service, service_upd, foldl_service,
      State.modPort_service_upd, State.eachPort_service_upd, apply_ite State.service, ite_self,
      implies_true]

theorem State.rampTo_service (s : State) (st : Stn) (why : RampFor) (mm : Nat) :
    (State.rampTo s st why mm).service = s.service := by
  unfold State.rampTo
  rfl

theorem State.runBack_service (s : State) (st : Stn) (b : RunBack) : (State.runBack s st b).service = s.service := by
  simp only [State.runBack, State.modStn_service, State.rampTo_service, service_upd, foldl_service,
      State.modPort_service_upd, State.eachPort_service_upd, apply_ite State.service, ite_self,
      implies_true]

theorem State.closeOpen_service (s : State) (st : Stn) : (State.closeOpen s st).service = s.service := by
  simp only [State.closeOpen, State.modStn_service, State.closeGath_service, service_upd, foldl_service,
      State.modPort_service_upd, State.eachPort_service_upd, apply_ite State.service, ite_self,
      implies_true]

theorem State.runOut_service (s : State) (st : Stn) : (State.runOut s st).service = s.service := by
  simp only [State.runOut, State.modStn_service, State.unplace_service, State.closeOpen_service, service_upd,
      foldl_service, State.modPort_service_upd, State.eachPort_service_upd, apply_ite State.service,
      ite_self, implies_true]

theorem State.controlledStop_service (s : State) (st : Stn) : (State.controlledStop s st).service = s.service := by
  simp only [State.controlledStop, State.modStn_service, State.rampTo_service, State.runOut_service,
      service_upd, foldl_service, State.modPort_service_upd, State.eachPort_service_upd,
      apply_ite State.service, ite_self, implies_true]

theorem State.hold__service (s : State) (st : Stn) : (State.hold_ s st).service = s.service := by
  simp only [State.hold_, State.modStn_service, State.voidWriting_service, service_upd, foldl_service,
      State.modPort_service_upd, State.eachPort_service_upd, apply_ite State.service, ite_self,
      implies_true]

theorem State.closeLoops_service (s : State) (st : Stn) : (State.closeLoops s st).service = s.service := by
  unfold State.closeLoops
  rfl

theorem State.openLoops_service (s : State) (st : Stn) : (State.openLoops s st).service = s.service := by
  unfold State.openLoops
  rfl

theorem State.startAt_service (s : State) (st : Stn) (i : Nat) : (State.startAt s st i).service = s.service := by
  simp only [State.startAt, State.modStn_service, State.draw_service, State.rampTo_service,
      State.runBack_service, service_upd, foldl_service, State.modPort_service_upd,
      State.eachPort_service_upd, apply_ite State.service, ite_self, implies_true]

theorem State.stepTo_service (s : State) (st : Stn) (i : Nat) : (State.stepTo s st i).service = s.service := by
  simp only [State.stepTo, State.modStn_service, State.rampTo_service, State.runOut_service, service_upd,
      foldl_service, State.modPort_service_upd, State.eachPort_service_upd, apply_ite State.service,
      ite_self, implies_true]

theorem State.capDown_service (s : State) (st : Stn) : (State.capDown s st).service = s.service := by
  simp only [State.capDown, State.modStn_service, State.rampTo_service, State.stepTo_service, service_upd,
      foldl_service, State.modPort_service_upd, State.eachPort_service_upd, apply_ite State.service,
      ite_self, implies_true]

theorem State.speedDecide_service (s : State) (st : Stn) : (State.speedDecide s st).service = s.service := by
  unfold State.speedDecide
  (repeat' split) <;> first
    | with_reducible rfl
    | (simp only [State.modStn_service, State.controlledStop_service, State.closeLoops_service,
      State.startAt_service, State.stepTo_service, service_upd, foldl_service, State.modPort_service_upd,
      State.eachPort_service_upd, apply_ite State.service, ite_self, implies_true]; done)
    | (simp only [State.modStn_service, State.controlledStop_service, State.closeLoops_service,
      State.startAt_service, State.stepTo_service, service_upd, foldl_service, State.modPort_service_upd,
      State.eachPort_service_upd, apply_ite State.service, ite_self, implies_true]
       (repeat' split) <;> first | with_reducible rfl | simp only [State.modStn_service, State.controlledStop_service, State.closeLoops_service,
      State.startAt_service, State.stepTo_service, service_upd, foldl_service, State.modPort_service_upd,
      State.eachPort_service_upd, apply_ite State.service, ite_self, implies_true])

theorem State.wantTape_service (s : State) (st : Stn) : (State.wantTape s st).service = s.service := by
  simp only [State.wantTape, State.modStn_service, State.closeLoops_service, service_upd, foldl_service,
      State.modPort_service_upd, State.eachPort_service_upd, apply_ite State.service, ite_self,
      implies_true]

theorem State.regrade_service (s : State) (x : Regrade) : (State.regrade s x).service = s.service := by
  unfold State.regrade
  (repeat' split) <;> first
    | with_reducible rfl
    | (simp only [State.modStn_service, service_upd, foldl_service, State.modPort_service_upd,
      State.eachPort_service_upd, apply_ite State.service, ite_self, implies_true]; done)
    | (simp only [State.modStn_service, service_upd, foldl_service, State.modPort_service_upd,
      State.eachPort_service_upd, apply_ite State.service, ite_self, implies_true]
       (repeat' split) <;> first | with_reducible rfl | simp only [State.modStn_service, service_upd, foldl_service, State.modPort_service_upd,
      State.eachPort_service_upd, apply_ite State.service, ite_self, implies_true])

theorem State.count_service (s : State) (st : Stn) (track : Nat) (kinds : List Nat) :
    (State.count s st track kinds).service = s.service := by
  unfold State.count
  rfl

theorem State.readOver_service (s : State) (st : Stn) (ord num : Nat) :
    (State.readOver s st ord num).service = s.service := by
  simp only [State.readOver, State.modStn_service, State.controlledStop_service, service_upd, foldl_service,
      State.modPort_service_upd, State.eachPort_service_upd, apply_ite State.service, ite_self,
      implies_true]

theorem State.tailRead_service (s : State) (st : Stn) (p : RxPos) (low i : Nat) :
    (State.tailRead s st p low i).service = s.service := by
  simp only [State.tailRead, State.modStn_service, service_upd, foldl_service, State.modPort_service_upd,
      State.eachPort_service_upd, apply_ite State.service, ite_self, implies_true]

theorem State.gathRow_service (s : State) (st : Stn) (p : RxPos) (gnum : Nat) (kind : GKind) (i : Nat) (t : Track) (syms : List Nat) (r : RRow) :
    (State.gathRow s st p gnum kind i t syms r).service = s.service := by
  simp only [State.gathRow, State.modStn_service, State.readOver_service, service_upd, foldl_service,
      State.modPort_service_upd, State.eachPort_service_upd, apply_ite State.service, ite_self,
      implies_true]

theorem State.recallRow_service (s : State) (st : Stn) (p : RxPos) (t : Track) (syms : List Nat) (load : Nat) (id : Option RowId) :
    (State.recallRow s st p t syms load id).service = s.service := by
  unfold State.recallRow
  (repeat' split) <;> simp only [State.modStn_service, State.raise_service, State.tailRead_service, State.gathRow_service,
      service_upd, foldl_service, State.modPort_service_upd, State.eachPort_service_upd,
      apply_ite State.service, ite_self, implies_true]

theorem State.calibrate_service (s : State) (st : Stn) (r : Option CalRow) :
    (State.calibrate s st r).service = s.service := by
  unfold State.calibrate
  rfl

theorem State.skewRun_service (s : State) (st : Stn) (t : Track) (d : Int) :
    (State.skewRun s st t d).service = s.service := by
  simp only [State.skewRun, State.modStn_service, State.raise_service, service_upd, foldl_service,
      State.modPort_service_upd, State.eachPort_service_upd, apply_ite State.service, ite_self,
      implies_true]

theorem State.rxStat_service (s : State) (st : Stn) (lane : Lane) (x : BitVec 5140) :
    (State.rxStat s st lane x).service = s.service := by
  simp only [State.rxStat, State.modStn_service, service_upd, foldl_service, State.modPort_service_upd,
      State.eachPort_service_upd, apply_ite State.service, ite_self, implies_true]

theorem State.rxFrame_service (s : State) (st : Stn) (lane : Lane) (line : RxFrame) :
    (State.rxFrame s st lane line).service = s.service := by
  simp only [State.rxFrame, State.modStn_service, State.rxStat_service, service_upd, foldl_service,
      State.modPort_service_upd, State.eachPort_service_upd, apply_ite State.service, ite_self,
      implies_true]

theorem State.quiesceGate_service (s : State) (st : Stn) : (State.quiesceGate s st).service = s.service := by
  simp only [State.quiesceGate, State.modStn_service, service_upd, foldl_service, State.modPort_service_upd,
      State.eachPort_service_upd, apply_ite State.service, ite_self, implies_true]

theorem State.container_service (s : State) (st : Stn) (slot : BitVec 16) :
    (State.container s st slot).service = s.service := by
  unfold State.container
  (repeat' split) <;> first
    | with_reducible rfl
    | (simp only [State.modStn_service, State.count_service, service_upd, foldl_service, State.modPort_service_upd,
      State.eachPort_service_upd, apply_ite State.service, ite_self, implies_true]; done)
    | (simp only [State.modStn_service, State.count_service, service_upd, foldl_service, State.modPort_service_upd,
      State.eachPort_service_upd, apply_ite State.service, ite_self, implies_true]
       (repeat' split) <;> first | with_reducible rfl | simp only [State.modStn_service, State.count_service, service_upd, foldl_service, State.modPort_service_upd,
      State.eachPort_service_upd, apply_ite State.service, ite_self, implies_true])

theorem State.laneDown_service (s : State) (st : Stn) (lane : Lane) : (State.laneDown s st lane).service = s.service := by
  simp only [State.laneDown, State.modStn_service, State.raise_service, service_upd, foldl_service,
      State.modPort_service_upd, State.eachPort_service_upd, apply_ite State.service, ite_self,
      implies_true]

theorem State.laneRetry_service (s : State) (st : Stn) (lane : Lane) : (State.laneRetry s st lane).service = s.service := by
  simp only [State.laneRetry, State.modStn_service, service_upd, foldl_service, State.modPort_service_upd,
      State.eachPort_service_upd, apply_ite State.service, ite_self, implies_true]

theorem State.servoTrace_service (s : State) (st : Stn) (ty : Nat) (w1 w2 : BitVec 64) :
    (State.servoTrace s st ty w1 w2).service = s.service := by
  simp only [State.servoTrace, State.modDie_service, State.trace_service, service_upd, foldl_service,
      State.modPort_service_upd, State.eachPort_service_upd, apply_ite State.service, ite_self,
      implies_true]

theorem State.aim_service (s : State) (st : Stn) (wrap : Nat) (ofs : Int) :
    (State.aim s st wrap ofs).service = s.service := by
  unfold State.aim
  rfl

theorem State.inhibitWrite_service (s : State) (st : Stn) : (State.inhibitWrite s st).service = s.service := by
  simp only [State.inhibitWrite, State.modStn_service, State.raise_service, service_upd, foldl_service,
      State.modPort_service_upd, State.eachPort_service_upd, apply_ite State.service, ite_self,
      implies_true]

theorem State.skewSample_service (s : State) (st : Stn) (f : Nat) (a b : Frame) (apply : BitVec 16) :
    (State.skewSample s st f a b apply).service = s.service := by
  simp only [State.skewSample, State.modStn_service, State.servoTrace_service, service_upd, foldl_service,
      State.modPort_service_upd, State.eachPort_service_upd, apply_ite State.service, ite_self,
      implies_true]

theorem State.lateralLoop_service (s : State) (st : Stn) : (State.lateralLoop s st).service = s.service := by
  unfold State.lateralLoop
  (repeat' split) <;> first
    | with_reducible rfl
    | (simp only [State.modStn_service, State.draw_service, State.count_service, State.servoTrace_service,
      State.inhibitWrite_service, State.skewSample_service, service_upd, foldl_service,
      State.modPort_service_upd, State.eachPort_service_upd, apply_ite State.service, ite_self,
      implies_true]; done)
    | (simp only [State.modStn_service, State.draw_service, State.count_service, State.servoTrace_service,
      State.inhibitWrite_service, State.skewSample_service, service_upd, foldl_service,
      State.modPort_service_upd, State.eachPort_service_upd, apply_ite State.service, ite_self,
      implies_true]
       (repeat' split) <;> first | with_reducible rfl | simp only [State.modStn_service, State.draw_service, State.count_service, State.servoTrace_service,
      State.inhibitWrite_service, State.skewSample_service, service_upd, foldl_service,
      State.modPort_service_upd, State.eachPort_service_upd, apply_ite State.service, ite_self,
      implies_true])

theorem State.seekSample_service (s : State) (st : Stn) (q : Seek) : (State.seekSample s st q).service = s.service := by
  unfold State.seekSample
  simp only []
  split
  · rw [State.skewSample_service]
    exact (State.modStn_service ..).trans rfl
  · exact (State.modStn_service ..).trans rfl

theorem State.lateral_service (s : State) (st : Stn) : (State.lateral s st).service = s.service := by
  unfold State.lateral
  simp only []
  split
  · exact State.lateralLoop_service ..
  · split
    · rfl
    · split
      · exact (State.lateralLoop_service ..).trans (State.modStn_service ..)
      · exact State.seekSample_service ..

theorem State.loseLpos_service (s : State) (st : Stn) : (State.loseLpos s st).service = s.service := by
  simp only [State.loseLpos, State.modStn_service, State.raise_service, State.unplace_service, service_upd,
      foldl_service, State.modPort_service_upd, State.eachPort_service_upd, apply_ite State.service,
      ite_self, implies_true]

theorem State.lposTake_service (s : State) (st : Stn) : (State.lposTake s st).service = s.service := by
  unfold State.lposTake
  rfl

theorem State.reel_service (s : State) (st : Stn) : (State.reel s st).service = s.service := by
  simp only [State.reel, State.modStn_service, State.draw_service, State.count_service,
      State.servoTrace_service, service_upd, foldl_service, State.modPort_service_upd,
      State.eachPort_service_upd, apply_ite State.service, ite_self, implies_true]

theorem State.auxSample_service (s : State) (st : Stn) : (State.auxSample s st).service = s.service := by
  simp only [State.auxSample, State.modStn_service, State.draw_service, State.count_service, service_upd,
      foldl_service, State.modPort_service_upd, State.eachPort_service_upd, apply_ite State.service,
      ite_self, implies_true]

theorem State.kappa_service (s : State) (st : Stn) (takeUp : Bool) (len : Nat) :
    (State.kappa s st takeUp len).service = s.service := by
  simp only [State.kappa, State.modStn_service, State.draw_service, State.raise_service, service_upd,
      foldl_service, State.modPort_service_upd, State.eachPort_service_upd, apply_ite State.service,
      ite_self, implies_true]

theorem State.serveSeek_service (s : State) (st : Stn) : (State.serveSeek s st).service = s.service := by
  unfold State.serveSeek
  (repeat' split) <;> first
    | with_reducible rfl
    | (simp only [State.modStn_service, State.rampTo_service, State.runBack_service, State.aim_service, service_upd,
      foldl_service, State.modPort_service_upd, State.eachPort_service_upd, apply_ite State.service,
      ite_self, implies_true]; done)
    | (simp only [State.modStn_service, State.rampTo_service, State.runBack_service, State.aim_service, service_upd,
      foldl_service, State.modPort_service_upd, State.eachPort_service_upd, apply_ite State.service,
      ite_self, implies_true]
       (repeat' split) <;> first | with_reducible rfl | simp only [State.modStn_service, State.rampTo_service, State.runBack_service, State.aim_service, service_upd,
      foldl_service, State.modPort_service_upd, State.eachPort_service_upd, apply_ite State.service,
      ite_self, implies_true])

theorem State.leaveQuiet_service (s : State) : (State.leaveQuiet s).service = s.service := by
  simp only [State.leaveQuiet, State.modStn_service, State.closeLoops_service, service_upd, foldl_service,
      State.modPort_service_upd, State.eachPort_service_upd, apply_ite State.service, ite_self,
      implies_true]

theorem State.gapLon_service (s : State) (c : HostCmd) : (State.gapLon s c).service = s.service := by
  unfold State.gapLon
  rfl

theorem State.modRec_service (s : State) (st : Stn) (lon : Nat) (f : Rec → Rec) :
    (State.modRec s st lon f).service = s.service := by
  unfold State.modRec
  rfl

theorem State.powerStops_service (s : State) : (State.powerStops s).service = s.service := by
  simp only [State.powerStops, State.controlledStop_service, service_upd, foldl_service,
      State.modPort_service_upd, State.eachPort_service_upd, apply_ite State.service, ite_self,
      implies_true]

theorem State.quietStn_service (s : State) (st : Stn) : (State.quietStn s st).service = s.service := by
  simp only [State.quietStn, State.modStn_service, State.openLoops_service, service_upd, foldl_service,
      State.modPort_service_upd, State.eachPort_service_upd, apply_ite State.service, ite_self,
      implies_true]

theorem State.dropArea_service (s : State) (st : Stn) (g : Gath) : (State.dropArea s st g).service = s.service := by
  simp only [State.dropArea, State.modStn_service, service_upd, foldl_service, State.modPort_service_upd,
      State.eachPort_service_upd, apply_ite State.service, ite_self, implies_true]

theorem State.scrubPage_service (s : State) (place : PageAddr) (l : PageLine) (detail : Nat) :
    (State.scrubPage s place l detail).service = s.service := by
  simp only [State.scrubPage, State.raise_service, State.elogPage_service, State.countCorrected_service,
      State.schedule_service, State.hardFault_service, State.writePage_service, service_upd,
      foldl_service, State.modPort_service_upd, State.eachPort_service_upd, apply_ite State.service,
      ite_self, implies_true]

theorem State.endReading_service (s : State) (st : Stn) : (State.endReading s st).service = s.service := by
  simp only [State.endReading, State.modStn_service, State.controlledStop_service, service_upd, foldl_service,
      State.modPort_service_upd, State.eachPort_service_upd, apply_ite State.service, ite_self,
      implies_true]

theorem State.reported_service (s : State) (d : Done) : (State.reported s d).service = s.service := by
  simp only [State.reported, State.modRec_service, service_upd, foldl_service, State.modPort_service_upd,
      State.eachPort_service_upd, apply_ite State.service, ite_self, implies_true]

theorem State.enterE4_service (s : State) : (State.enterE4 s).service = s.service := by
  simp only [State.enterE4, State.eachStn_service, service_upd, foldl_service, State.modPort_service_upd,
      State.eachPort_service_upd, apply_ite State.service, ite_self, implies_true]

theorem State.tryE4_service (s : State) : (State.tryE4 s).service = s.service := by
  simp only [State.tryE4, State.enterE4_service, service_upd, foldl_service, State.modPort_service_upd,
      State.eachPort_service_upd, apply_ite State.service, ite_self, implies_true]

theorem State.tryExit_service (s : State) : (State.tryExit s).service = s.service := by
  unfold State.tryExit
  (repeat' split) <;> simp only [State.tryE4_service, service_upd, foldl_service, State.modPort_service_upd,
      State.eachPort_service_upd, apply_ite State.service, ite_self, implies_true]

theorem State.quiesceStn_service (s : State) (st : Stn) : (State.quiesceStn s st).service = s.service := by
  unfold State.quiesceStn
  (repeat' split) <;> first
    | with_reducible rfl
    | (simp only [State.modStn_service, State.unplace_service, State.quiesceGate_service, service_upd, foldl_service,
      State.modPort_service_upd, State.eachPort_service_upd, apply_ite State.service, ite_self,
      implies_true]; done)
    | (simp only [State.modStn_service, State.unplace_service, State.quiesceGate_service, service_upd, foldl_service,
      State.modPort_service_upd, State.eachPort_service_upd, apply_ite State.service, ite_self,
      implies_true]
       (repeat' split) <;> first | with_reducible rfl | simp only [State.modStn_service, State.unplace_service, State.quiesceGate_service, service_upd, foldl_service,
      State.modPort_service_upd, State.eachPort_service_upd, apply_ite State.service, ite_self,
      implies_true])

theorem State.warmStart_service (s : State) : (State.warmStart s).service = s.service := by
  simp only [State.warmStart, State.quiesceStn_service, service_upd, foldl_service, State.modPort_service_upd,
      State.eachPort_service_upd, apply_ite State.service, ite_self, implies_true]

theorem State.warmSource_service (s : State) (src : ResetSource) : (State.warmSource s src).service = s.service := by
  unfold State.warmSource
  (repeat' split) <;> simp only [State.warmStart_service, service_upd, foldl_service, State.modPort_service_upd,
      State.eachPort_service_upd, apply_ite State.service, ite_self, implies_true]

theorem State.loseBuf_service (s : State) (h : BitVec 32) (b : Buf) : (State.loseBuf s h b).service = s.service := by
  unfold State.loseBuf
  (repeat' split) <;> simp only [State.modStn_service, State.dropArea_service, service_upd, foldl_service,
      State.modPort_service_upd, State.eachPort_service_upd, apply_ite State.service, ite_self,
      implies_true]

theorem State.stablePool_service (s : State) (d : DieId) (p : Fin 5) : (State.stablePool s d p).service = s.service := by
  simp only [State.stablePool, State.modDie_service, State.putBack_service, State.loseBuf_service, service_upd,
      foldl_service, State.modPort_service_upd, State.eachPort_service_upd, apply_ite State.service,
      ite_self, implies_true]

theorem State.stableAll_service (s : State) : (State.stableAll s).service = s.service := by
  simp only [State.stableAll, State.stablePool_service, service_upd, foldl_service, State.modPort_service_upd,
      State.eachPort_service_upd, apply_ite State.service, ite_self, implies_true]

theorem State.fallback_service (s : State) (st : Stn) : (State.fallback s st).service = s.service := by
  simp only [State.fallback, State.modStn_service, State.rampTo_service, service_upd, foldl_service,
      State.modPort_service_upd, State.eachPort_service_upd, apply_ite State.service, ite_self,
      implies_true]

theorem State.loadStores_service (s : State) : (State.loadStores s).service = s.service := by
  unfold State.loadStores
  rfl

theorem State.startTrial_service (s : State) : (State.startTrial s).service = s.service := by
  simp only [State.startTrial, service_upd, foldl_service, State.modPort_service_upd,
      State.eachPort_service_upd, apply_ite State.service, ite_self, implies_true]

theorem State.regAccess_service (s : State) (p : Port) (ofs : Nat) (f : State → State)
    (h : ∀ a, (f a).service = a.service) : (State.regAccess s p ofs f).service = s.service := by
  unfold State.regAccess
  simp only []
  (repeat' split) <;> simp only [h, State.modPort_service_upd]

theorem State.sendEvents_service (s : State) (p : Port) (l : List Nat) : (State.sendEvents s p l).service = s.service := by
  simp only [State.sendEvents, State.sendEvent_service, service_upd, foldl_service, State.modPort_service_upd,
      State.eachPort_service_upd, apply_ite State.service, ite_self, implies_true]

theorem State.modSel_service (s : State) (p : Port) (f : TraceQ → TraceQ) : (State.modSel s p f).service = s.service := by
  unfold State.modSel
  rfl

theorem State.answerRead_service (s : State) (p : Port) (v : BitVec 64) : (State.answerRead s p v).service = s.service := by
  unfold State.answerRead
  rfl

theorem State.setupWrite_service (s : State) (p : Port) (f : HostPort → HostPort) (h : ∀ x, HostPort.service (f x) = HostPort.service x) :
    (State.setupWrite s p f).service = s.service := by
  unfold State.setupWrite
  split
  · rfl
  · exact State.modPort_service _ _ _ h

theorem State.regEffect_service (s : State) (p : Port) (ofs : Nat) (size : Nat) (v : BitVec 64) :
    (State.regEffect s p ofs size v).service = s.service := by
  unfold State.regEffect
  (repeat' split) <;> first
    | rfl
    | exact State.setupWrite_service _ _ _ (fun _ => rfl)
    | exact State.modPort_service _ _ _ (fun _ => rfl)
    | exact (State.modSel_service ..).trans (State.modPort_service _ _ _ (fun _ => rfl))

theorem State.railReads_service (s : State) (rail : Fin 7) (mv : Nat) : (State.railReads s rail mv).service = s.service := by
  unfold State.railReads
  rfl

theorem State.heat_service (s : State) (d : DieId) (temp : BitVec 16) : (State.heat s d temp).service = s.service := by
  unfold State.heat
  rfl

theorem State.quarantine_service (s : State) (d : DieId) (owner : Option Nat) :
    (State.quarantine s d owner).service = s.service := by
  unfold State.quarantine
  (repeat' split) <;> simp only [State.modDie_service, service_upd, foldl_service, State.modPort_service_upd,
      State.eachPort_service_upd, apply_ite State.service, ite_self, implies_true]

theorem State.blkStationBack_service (s : State) (st : Stn) : (State.blkStationBack s st).service = s.service := by
  unfold State.blkStationBack
  rfl

theorem State.blkControlBack_service (s : State) (d : DieId) : (State.blkControlBack s d).service = s.service := by
  simp only [State.blkControlBack, State.eachStn_service, service_upd, foldl_service, State.modPort_service_upd,
      State.eachPort_service_upd, apply_ite State.service, ite_self, implies_true]

theorem State.blkLeave_service (s : State) (b : BlkReset) : (State.blkLeave s b).service = s.service := by
  unfold State.blkLeave
  (repeat' split) <;> simp only [State.modDie_service, State.blkStationBack_service, State.blkControlBack_service, service_upd,
      foldl_service, State.modPort_service_upd, State.eachPort_service_upd, apply_ite State.service,
      ite_self, implies_true]

theorem State.flash_service (s : State) (ops : List FlashOp) : (State.flash s ops).service = s.service :=
  foldl_service (fun a o => a.emit (.flash o)) (fun _ _ => rfl) _ _

theorem State.portsApply_service (s : State) : (State.portsApply s).service = s.service := by
  unfold State.portsApply
  refine State.eachPort_service _ _ (fun p x => ?_)
  (repeat' split) <;> rfl

theorem State.migRead_service (s : State) (src : Stn) (wrap : Nat) (seen : List RGath) (place : Option Nat) :
    (State.migRead s src wrap seen place).service = s.service := by
  simp only [State.migRead, State.modStn_service, State.wantTape_service, State.serveSeek_service, service_upd,
      foldl_service, State.modPort_service_upd, State.eachPort_service_upd, apply_ite State.service,
      ite_self, implies_true]

theorem State.countRows_service (s : State) (st : Stn) (g : RGath) (rows : List Nat) (kinds : List Nat) :
    (State.countRows s st g rows kinds).service = s.service := by
  simp only [State.countRows, State.count_service, service_upd, foldl_service, State.modPort_service_upd,
      State.eachPort_service_upd, apply_ite State.service, ite_self, implies_true]

theorem State.countC2_service (s : State) (st : Stn) (g : RGath) : (State.countC2 s st g).service = s.service := by
  simp only [State.countC2, State.count_service, State.countRows_service, service_upd, foldl_service,
      State.modPort_service_upd, State.eachPort_service_upd, apply_ite State.service, ite_self,
      implies_true]

theorem State.placeTail_service (s : State) (st : Stn) (n : Nat) : (State.placeTail s st n).service = s.service := by
  unfold State.placeTail
  rfl

theorem State.closeEmpty_service (s : State) (st : Stn) : (State.closeEmpty s st).service = s.service := by
  simp only [State.closeEmpty, State.modStn_service, State.closeGath_service, service_upd, foldl_service,
      State.modPort_service_upd, State.eachPort_service_upd, apply_ite State.service, ite_self,
      implies_true]

theorem State.endFill_service (s : State) (st : Stn) (n : Nat) : (State.endFill s st n).service = s.service := by
  unfold State.endFill
  rfl

theorem State.resume_service (s : State) (st : Stn) : (State.resume s st).service = s.service := by
  unfold State.resume
  rfl

theorem State.fillResume_service (s : State) (st : Stn) : (State.fillResume s st).service = s.service := by
  simp only [State.fillResume, State.emit_service, State.capDown_service, State.endFill_service,
      State.resume_service, service_upd, foldl_service, State.modPort_service_upd,
      State.eachPort_service_upd, apply_ite State.service, ite_self, implies_true]

theorem State.newRun_service (s : State) (st : Stn) : (State.newRun s st).service = s.service := by
  unfold State.newRun
  rfl

theorem State.turnLabels_service (s : State) (st : Stn) (w : Nat) : (State.turnLabels s st w).service = s.service := by
  unfold State.turnLabels
  (repeat' split) <;> simp only [State.modStn_service, State.composeEndpaper_service, State.composeSpines_service, service_upd,
      foldl_service, State.modPort_service_upd, State.eachPort_service_upd, apply_ite State.service,
      ite_self, implies_true]

theorem State.eachWriting_service (s : State) (f : State → Stn → State) (h : ∀ a st, (f a st).service = a.service) :
    (State.eachWriting s f).service = s.service := by
  unfold State.eachWriting
  refine foldl_service _ (fun a st => ?_) _ _
  split
  · rfl
  · exact h _ _

theorem State.dipResume_service (s : State) (st : Stn) : (State.dipResume s st).service = s.service := by
  simp only [State.dipResume, State.runOut_service, State.fillResume_service, service_upd, foldl_service,
      State.modPort_service_upd, State.eachPort_service_upd, apply_ite State.service, ite_self,
      implies_true]

theorem State.setCap_service (s : State) (c : Option Nat) : (State.setCap s c).service = s.service := by
  simp only [State.setCap, State.capDown_service, service_upd, foldl_service, State.modPort_service_upd,
      State.eachPort_service_upd, apply_ite State.service, ite_self, implies_true]

theorem State.busReads_service (s : State) (st : Stn) (counts : Nat) : (State.busReads s st counts).service = s.service := by
  unfold State.busReads
  rfl

theorem State.busLevel_service (s : State) (st : Stn) (mv level : Nat) (f : State → State)
    (h : ∀ a, (f a).service = a.service) : (State.busLevel s st mv level f).service = s.service := by
  unfold State.busLevel
  split
  · rfl
  · rw [h, State.raise_service, State.busReads_service]

theorem State.setBusCap_service (s : State) (st : Stn) (c : Option Nat) : (State.setBusCap s st c).service = s.service := by
  simp only [State.setBusCap, State.modStn_service, State.capDown_service, service_upd, foldl_service,
      State.modPort_service_upd, State.eachPort_service_upd, apply_ite State.service, ite_self,
      implies_true]

theorem State.busRaise_service (s : State) (st : Stn) : (State.busRaise s st).service = s.service := by
  unfold State.busRaise
  rfl

theorem State.monReading_service (s : State) (src : BitVec 32) (v : BitVec 32) : (State.monReading s src v).service = s.service := by
  unfold State.monReading
  dsimp only
  split
  · rfl
  · exact State.heat_service ..
  · rfl
  · rfl

theorem State.afterBlock_service (s : State) (st : Stn) (lon : Nat) : (State.afterBlock s st lon).service = s.service := by
  unfold State.afterBlock
  cases s.rec? st lon with
  | none => exact State.dropJobs_service ..
  | some r =>
    refine ite_service (State.dropJobs_service ..) ?_
    generalize List.find? _ _ = x
    cases x with
    | none => rfl
    | some x => exact ite_service (State.backToWait_service ..) rfl

theorem State.touch_service (s : State) (p : Port) : (State.touch s p).service = s.service := by
  simp only [State.touch, service_upd, foldl_service, State.modPort_service_upd, State.eachPort_service_upd,
      apply_ite State.service, ite_self, implies_true]

theorem State.badDoorbell_service (s : State) (p : Port) : (State.badDoorbell s p).service = s.service := by
  simp only [State.badDoorbell, State.raise_service, service_upd, foldl_service, State.modPort_service_upd,
      State.eachPort_service_upd, apply_ite State.service, ite_self, implies_true]

theorem State.restartJobs_service (s : State) (st : Stn) : (State.restartJobs s st).service = s.service := by
  unfold State.restartJobs
  (repeat' split) <;> first
    | with_reducible rfl
    | (simp only [State.addJob_service, service_upd, foldl_service, State.modPort_service_upd,
      State.eachPort_service_upd, apply_ite State.service, ite_self, implies_true]; done)
    | (simp only [State.addJob_service, service_upd, foldl_service, State.modPort_service_upd,
      State.eachPort_service_upd, apply_ite State.service, ite_self, implies_true]
       (repeat' split) <;> first | with_reducible rfl | simp only [State.addJob_service, service_upd, foldl_service, State.modPort_service_upd,
      State.eachPort_service_upd, apply_ite State.service, ite_self, implies_true])

end Sys2Proof.Machine
end

