-- ==== Sys2Proof/Laws/Standing.lean ====
section
/-!
SUPPORT. The operations that leave the standing of every station of the package alone: one lemma for each, in the order in which they are built on
one another.
-/
set_option linter.all false

namespace Sys2Proof.Machine

/-- An update of any field that is no part of the standing of every station. -/
theorem standing_upd (s : State) (pending : List Instr) (clock : Nat) (fresh : Nat) (out : List Out) (rst : ResetCtl) (ledger : Ledger) (boot : Boot) (vault : Vault) (supply : Supply) (thermal : Thermal) (pinsSet : Bool) (mem : List Host.Cell) (hbm : Vector Stack 4) (dies : Vector Die 2) (stores : Vector Store 10) (stnMap : BitVec 8) (locks : List Lock) (mntCnt : BitVec 32) (ucieDown : Bool) (migs : List MigJob) (test : Option TestRun) (power : Power) (blkRst : List BlkReset) (tap : Tap) :
    State.standing ⟨pending, clock, fresh, out, rst, ledger, boot, vault, supply, thermal, pinsSet, mem, hbm, dies, stores, s.ports, s.stns, stnMap, locks, mntCnt, ucieDown, migs, test, power, blkRst, tap⟩ = s.standing := rfl

/-- A fold of operations that leave the standing of every station alone. -/
theorem foldl_standing {β : Type} (f : State → β → State) (h : ∀ a x, (f a x).standing = a.standing) (l : List β) (s : State) :
    (l.foldl f s).standing = s.standing := by
  induction l generalizing s with
  | nil => rfl
  | cons x r ih => exact (ih _).trans (h _ _)

/-- The same of a fold that gathers something beside the state. -/
theorem foldl_fst_standing {α β : Type} (f : State × α → β → State × α) (h : ∀ a x, (f a x).1.standing = a.1.standing) (l : List β)
    (a : State × α) : (l.foldl f a).1.standing = a.1.standing := by
  induction l generalizing a with
  | nil => rfl
  | cons x r ih => exact (ih _).trans (h _ _)

/-- A choice between two operations that leave the standing of every station alone. -/
theorem ite_standing {c : Prop} [Decidable c] {a b s : State} (ha : a.standing = s.standing) (hb : b.standing = s.standing) :
    (if c then a else b).standing = s.standing := by
  split
  · exact ha
  · exact hb

theorem State.modPort_standing (s : State) (p : Port) (f : HostPort → HostPort) : (s.modPort p f).standing = s.standing := rfl
theorem State.eachPort_standing (s : State) (f : Port → HostPort → HostPort) : (s.eachPort f).standing = s.standing := rfl
/-- A change of a station that leaves the standing of every station alone. -/
theorem State.modStn_standing (s : State) (t : Stn) (f : Station → Station) (h : ∀ x, Station.standing (f x) = Station.standing x) :
    (s.modStn t f).standing = s.standing := by
  simp only [State.standing, State.modStn, vmod_map _ _ _ _ h]

/-- A change of the other fields of a station. -/
theorem Station.standing_upd (x : Station) (wgate : Bool) (men : Bool) (link : Link) (servo : Servo) (speed : Speed) (write : Write) (readSide : Recall) (mount : Option Mount) (ctx : Option VolCtx) (resumes : Bool) (mountCmd : Option CmdRef) :
    Station.standing ⟨wgate, men, link, servo, speed, write, readSide, mount, ctx, x.faults, x.inReset, x.stabled, x.broken, resumes, x.latency, mountCmd⟩ = Station.standing x := rfl
theorem Station.modLink_standing (x : Station) (f : Link → Link) : Station.standing (x.modLink f) = Station.standing x := rfl
theorem Station.modServo_standing (x : Station) (f : Servo → Servo) : Station.standing (x.modServo f) = Station.standing x := rfl
theorem Station.modSpeed_standing (x : Station) (f : Speed → Speed) : Station.standing (x.modSpeed f) = Station.standing x := rfl
theorem Station.modWrite_standing (x : Station) (f : Write → Write) : Station.standing (x.modWrite f) = Station.standing x := rfl
theorem Station.modRecall_standing (x : Station) (f : Recall → Recall) : Station.standing (x.modRecall f) = Station.standing x := rfl
theorem Station.modCtx_standing (x : Station) (f : VolCtx → VolCtx) : Station.standing (x.modCtx f) = Station.standing x := rfl
theorem State.modStn_standing_upd (s : State) (t : Stn) (wgate : Station → Bool) (men : Station → Bool) (link : Station → Link) (servo : Station → Servo) (speed : Station → Speed) (write : Station → Write) (readSide : Station → Recall) (mount : Station → Option Mount) (ctx : Station → Option VolCtx) (resumes : Station → Bool) (mountCmd : Station → Option CmdRef) :
    (s.modStn t fun x => ⟨wgate x, men x, link x, servo x, speed x, write x, readSide x, mount x, ctx x, x.faults, x.inReset, x.stabled, x.broken, resumes x, x.latency, mountCmd x⟩).standing = s.standing :=
  State.modStn_standing _ _ _ (fun _ => rfl)

theorem State.modStn_modLink_standing (s : State) (t : Stn) (g : Station → Link → Link) : (s.modStn t fun x => x.modLink (g x)).standing = s.standing :=
  State.modStn_standing _ _ _ (fun _ => rfl)

theorem State.modStn_modServo_standing (s : State) (t : Stn) (g : Station → Servo → Servo) : (s.modStn t fun x => x.modServo (g x)).standing = s.standing :=
  State.modStn_standing _ _ _ (fun _ => rfl)

theorem State.modStn_modSpeed_standing (s : State) (t : Stn) (g : Station → Speed → Speed) : (s.modStn t fun x => x.modSpeed (g x)).standing = s.standing :=
  State.modStn_standing _ _ _ (fun _ => rfl)

theorem State.modStn_modWrite_standing (s : State) (t : Stn) (g : Station → Write → Write) : (s.modStn t fun x => x.modWrite (g x)).standing = s.standing :=
  State.modStn_standing _ _ _ (fun _ => rfl)

theorem State.modStn_modRecall_standing (s : State) (t : Stn) (g : Station → Recall → Recall) : (s.modStn t fun x => x.modRecall (g x)).standing = s.standing :=
  State.modStn_standing _ _ _ (fun _ => rfl)

theorem State.modStn_modCtx_standing (s : State) (t : Stn) (g : Station → VolCtx → VolCtx) : (s.modStn t fun x => x.modCtx (g x)).standing = s.standing :=
  State.modStn_standing _ _ _ (fun _ => rfl)

theorem State.eachStn_standing (s : State) (f : Stn → Station → Station) (h : ∀ t x, Station.standing (f t x) = Station.standing x) :
    (s.eachStn f).standing = s.standing :=
  foldl_standing (fun a t => a.modStn t (f t)) (fun a t => State.modStn_standing a t _ (h t)) allStns s

theorem State.modDie_standing (s : State) (d : DieId) (f : Die → Die) : (s.modDie d f).standing = s.standing := rfl
theorem State.modStack_standing (s : State) (k : Fin 4) (f : Stack → Stack) : (s.modStack k f).standing = s.standing := rfl
theorem State.modStore_standing (s : State) (k : Fin 10) (f : Store → Store) : (s.modStore k f).standing = s.standing := rfl
theorem State.emit_standing (s : State) (o : Out) : (s.emit o).standing = s.standing := rfl
theorem State.draw_standing (s : State) : s.draw.2.standing = s.standing := rfl
theorem State.drawBytes_standing (s : State) (n : Nat) : (s.drawBytes n).2.standing = s.standing := rfl
theorem State.eachDie_standing (s : State) (f : DieId → Die → Die) : (s.eachDie f).standing = s.standing := rfl

theorem State.putTrace_standing (s : State) (d : DieId) (q : Fin 4) (words : List (BitVec 64)) :
    (State.putTrace s d q words).1.standing = s.standing := by
  unfold State.putTrace
  (repeat' split) <;> first
    | with_reducible rfl
    | (simp only [State.modDie_standing, Station.modLink_standing, Station.modServo_standing,
      Station.modSpeed_standing, Station.modWrite_standing, Station.modRecall_standing,
      Station.modCtx_standing, Station.standing_upd, State.modStn_standing_upd, State.eachStn_standing,
      apply_ite Station.standing, State.modStn_modLink_standing, State.modStn_modServo_standing,
      State.modStn_modSpeed_standing, State.modStn_modWrite_standing, State.modStn_modRecall_standing,
      State.modStn_modCtx_standing, standing_upd, foldl_standing, State.modPort_standing,
      State.eachPort_standing, apply_ite State.standing, ite_self, implies_true]; done)
    | (simp only [State.modDie_standing, Station.modLink_standing, Station.modServo_standing,
      Station.modSpeed_standing, Station.modWrite_standing, Station.modRecall_standing,
      Station.modCtx_standing, Station.standing_upd, State.modStn_standing_upd, State.eachStn_standing,
      apply_ite Station.standing, State.modStn_modLink_standing, State.modStn_modServo_standing,
      State.modStn_modSpeed_standing, State.modStn_modWrite_standing, State.modStn_modRecall_standing,
      State.modStn_modCtx_standing, standing_upd, foldl_standing, State.modPort_standing,
      State.eachPort_standing, apply_ite State.standing, ite_self, implies_true]
       (repeat' split) <;> first | with_reducible rfl | simp only [State.modDie_standing, Station.modLink_standing, Station.modServo_standing,
      Station.modSpeed_standing, Station.modWrite_standing, Station.modRecall_standing,
      Station.modCtx_standing, Station.standing_upd, State.modStn_standing_upd, State.eachStn_standing,
      apply_ite Station.standing, State.modStn_modLink_standing, State.modStn_modServo_standing,
      State.modStn_modSpeed_standing, State.modStn_modWrite_standing, State.modStn_modRecall_standing,
      State.modStn_modCtx_standing, standing_upd, foldl_standing, State.modPort_standing,
      State.eachPort_standing, apply_ite State.standing, ite_self, implies_true])

theorem State.msix_standing (s : State) (p : Port) (v : Nat) : (State.msix s p v).standing = s.standing := by
  simp only [State.msix, State.modPort_standing, State.emit_standing, Station.modLink_standing,
      Station.modServo_standing, Station.modSpeed_standing, Station.modWrite_standing,
      Station.modRecall_standing, Station.modCtx_standing, Station.standing_upd,
      State.modStn_standing_upd, State.eachStn_standing, apply_ite Station.standing,
      State.modStn_modLink_standing, State.modStn_modServo_standing, State.modStn_modSpeed_standing,
      State.modStn_modWrite_standing, State.modStn_modRecall_standing, State.modStn_modCtx_standing,
      standing_upd, foldl_standing, State.modPort_standing, State.eachPort_standing,
      apply_ite State.standing, ite_self, implies_true]

theorem State.sendEvent_standing (s : State) (p : Port) (n : Nat) : (State.sendEvent s p n).standing = s.standing := by
  unfold State.sendEvent
  (repeat' split) <;> first
    | with_reducible rfl
    | (simp only [State.msix_standing, Station.modLink_standing, Station.modServo_standing,
      Station.modSpeed_standing, Station.modWrite_standing, Station.modRecall_standing,
      Station.modCtx_standing, Station.standing_upd, State.modStn_standing_upd, State.eachStn_standing,
      apply_ite Station.standing, State.modStn_modLink_standing, State.modStn_modServo_standing,
      State.modStn_modSpeed_standing, State.modStn_modWrite_standing, State.modStn_modRecall_standing,
      State.modStn_modCtx_standing, standing_upd, foldl_standing, State.modPort_standing,
      State.eachPort_standing, apply_ite State.standing, ite_self, implies_true]; done)
    | (simp only [State.msix_standing, Station.modLink_standing, Station.modServo_standing,
      Station.modSpeed_standing, Station.modWrite_standing, Station.modRecall_standing,
      Station.modCtx_standing, Station.standing_upd, State.modStn_standing_upd, State.eachStn_standing,
      apply_ite Station.standing, State.modStn_modLink_standing, State.modStn_modServo_standing,
      State.modStn_modSpeed_standing, State.modStn_modWrite_standing, State.modStn_modRecall_standing,
      State.modStn_modCtx_standing, standing_upd, foldl_standing, State.modPort_standing,
      State.eachPort_standing, apply_ite State.standing, ite_self, implies_true]
       (repeat' split) <;> first | with_reducible rfl | simp only [State.msix_standing, Station.modLink_standing, Station.modServo_standing,
      Station.modSpeed_standing, Station.modWrite_standing, Station.modRecall_standing,
      Station.modCtx_standing, Station.standing_upd, State.modStn_standing_upd, State.eachStn_standing,
      apply_ite Station.standing, State.modStn_modLink_standing, State.modStn_modServo_standing,
      State.modStn_modSpeed_standing, State.modStn_modWrite_standing, State.modStn_modRecall_standing,
      State.modStn_modCtx_standing, standing_upd, foldl_standing, State.modPort_standing,
      State.eachPort_standing, apply_ite State.standing, ite_self, implies_true])

theorem State.raisePort_standing (s : State) (p : Port) (n : Nat) : (State.raisePort s p n).standing = s.standing := by
  simp only [State.raisePort, State.modPort_standing, State.sendEvent_standing, Station.modLink_standing,
      Station.modServo_standing, Station.modSpeed_standing, Station.modWrite_standing,
      Station.modRecall_standing, Station.modCtx_standing, Station.standing_upd,
      State.modStn_standing_upd, State.eachStn_standing, apply_ite Station.standing,
      State.modStn_modLink_standing, State.modStn_modServo_standing, State.modStn_modSpeed_standing,
      State.modStn_modWrite_standing, State.modStn_modRecall_standing, State.modStn_modCtx_standing,
      standing_upd, foldl_standing, State.modPort_standing, State.eachPort_standing,
      apply_ite State.standing, ite_self, implies_true]

theorem State.raise1_standing (s : State) (n detail : Nat) : (State.raise1 s n detail).1.standing = s.standing := by
  simp only [State.raise1, State.putTrace_standing, State.raisePort_standing, Station.modLink_standing,
      Station.modServo_standing, Station.modSpeed_standing, Station.modWrite_standing,
      Station.modRecall_standing, Station.modCtx_standing, Station.standing_upd,
      State.modStn_standing_upd, State.eachStn_standing, apply_ite Station.standing,
      State.modStn_modLink_standing, State.modStn_modServo_standing, State.modStn_modSpeed_standing,
      State.modStn_modWrite_standing, State.modStn_modRecall_standing, State.modStn_modCtx_standing,
      standing_upd, foldl_standing, State.modPort_standing, State.eachPort_standing,
      apply_ite State.standing, ite_self, implies_true]

theorem State.raise_standing (s : State) (n : Nat) (detail : Nat) : (State.raise s n detail).standing = s.standing := by
  simp only [State.raise, State.raise1_standing, Station.modLink_standing, Station.modServo_standing,
      Station.modSpeed_standing, Station.modWrite_standing, Station.modRecall_standing,
      Station.modCtx_standing, Station.standing_upd, State.modStn_standing_upd, State.eachStn_standing,
      apply_ite Station.standing, State.modStn_modLink_standing, State.modStn_modServo_standing,
      State.modStn_modSpeed_standing, State.modStn_modWrite_standing, State.modStn_modRecall_standing,
      State.modStn_modCtx_standing, standing_upd, foldl_standing, State.modPort_standing,
      State.eachPort_standing, apply_ite State.standing, ite_self, implies_true]

theorem State.trace_standing (s : State) (d : DieId) (q : Fin 4) (words : List (BitVec 64)) :
    (State.trace s d q words).standing = s.standing := by
  simp only [State.trace, State.putTrace_standing, State.raise_standing, Station.modLink_standing,
      Station.modServo_standing, Station.modSpeed_standing, Station.modWrite_standing,
      Station.modRecall_standing, Station.modCtx_standing, Station.standing_upd,
      State.modStn_standing_upd, State.eachStn_standing, apply_ite Station.standing,
      State.modStn_modLink_standing, State.modStn_modServo_standing, State.modStn_modSpeed_standing,
      State.modStn_modWrite_standing, State.modStn_modRecall_standing, State.modStn_modCtx_standing,
      standing_upd, foldl_standing, State.modPort_standing, State.eachPort_standing,
      apply_ite State.standing, ite_self, implies_true]

theorem State.raiseAll_standing (s : State) (l : List Nat) : (State.raiseAll s l).standing = s.standing := by
  simp only [State.raiseAll, State.raise_standing, Station.modLink_standing, Station.modServo_standing,
      Station.modSpeed_standing, Station.modWrite_standing, Station.modRecall_standing,
      Station.modCtx_standing, Station.standing_upd, State.modStn_standing_upd, State.eachStn_standing,
      apply_ite Station.standing, State.modStn_modLink_standing, State.modStn_modServo_standing,
      State.modStn_modSpeed_standing, State.modStn_modWrite_standing, State.modStn_modRecall_standing,
      State.modStn_modCtx_standing, standing_upd, foldl_standing, State.modPort_standing,
      State.eachPort_standing, apply_ite State.standing, ite_self, implies_true]

theorem State.dropWord_standing (s : State) (d : DieId) (q : Fin 4) : (State.dropWord s d q).standing = s.standing := by
  simp only [State.dropWord, State.modDie_standing, State.raise_standing, Station.modLink_standing,
      Station.modServo_standing, Station.modSpeed_standing, Station.modWrite_standing,
      Station.modRecall_standing, Station.modCtx_standing, Station.standing_upd,
      State.modStn_standing_upd, State.eachStn_standing, apply_ite Station.standing,
      State.modStn_modLink_standing, State.modStn_modServo_standing, State.modStn_modSpeed_standing,
      State.modStn_modWrite_standing, State.modStn_modRecall_standing, State.modStn_modCtx_standing,
      standing_upd, foldl_standing, State.modPort_standing, State.eachPort_standing,
      apply_ite State.standing, ite_self, implies_true]

theorem State.popTrace_standing (s : State) (p : Port) (d : DieId) (q : Fin 4) (flips : BitVec 73) :
    (State.popTrace s p d q flips).2.standing = s.standing := by
  unfold State.popTrace
  (repeat' split) <;> first
    | with_reducible rfl
    | (simp only [State.modPort_standing, State.modDie_standing, State.draw_standing, State.trace_standing,
      State.dropWord_standing, Station.modLink_standing, Station.modServo_standing,
      Station.modSpeed_standing, Station.modWrite_standing, Station.modRecall_standing,
      Station.modCtx_standing, Station.standing_upd, State.modStn_standing_upd, State.eachStn_standing,
      apply_ite Station.standing, State.modStn_modLink_standing, State.modStn_modServo_standing,
      State.modStn_modSpeed_standing, State.modStn_modWrite_standing, State.modStn_modRecall_standing,
      State.modStn_modCtx_standing, standing_upd, foldl_standing, State.modPort_standing,
      State.eachPort_standing, apply_ite State.standing, ite_self, implies_true]; done)
    | (simp only [State.modPort_standing, State.modDie_standing, State.draw_standing, State.trace_standing,
      State.dropWord_standing, Station.modLink_standing, Station.modServo_standing,
      Station.modSpeed_standing, Station.modWrite_standing, Station.modRecall_standing,
      Station.modCtx_standing, Station.standing_upd, State.modStn_standing_upd, State.eachStn_standing,
      apply_ite Station.standing, State.modStn_modLink_standing, State.modStn_modServo_standing,
      State.modStn_modSpeed_standing, State.modStn_modWrite_standing, State.modStn_modRecall_standing,
      State.modStn_modCtx_standing, standing_upd, foldl_standing, State.modPort_standing,
      State.eachPort_standing, apply_ite State.standing, ite_self, implies_true]
       (repeat' split) <;> first | with_reducible rfl | simp only [State.modPort_standing, State.modDie_standing, State.draw_standing, State.trace_standing,
      State.dropWord_standing, Station.modLink_standing, Station.modServo_standing,
      Station.modSpeed_standing, Station.modWrite_standing, Station.modRecall_standing,
      Station.modCtx_standing, Station.standing_upd, State.modStn_standing_upd, State.eachStn_standing,
      apply_ite Station.standing, State.modStn_modLink_standing, State.modStn_modServo_standing,
      State.modStn_modSpeed_standing, State.modStn_modWrite_standing, State.modStn_modRecall_standing,
      State.modStn_modCtx_standing, standing_upd, foldl_standing, State.modPort_standing,
      State.eachPort_standing, apply_ite State.standing, ite_self, implies_true])

theorem State.monTake_standing (s : State) (d : DieId) (k : Fin 64) (v : BitVec 32) :
    (State.monTake s d k v).standing = s.standing := by
  simp only [State.monTake, State.modDie_standing, State.raise_standing, Station.modLink_standing,
      Station.modServo_standing, Station.modSpeed_standing, Station.modWrite_standing,
      Station.modRecall_standing, Station.modCtx_standing, Station.standing_upd,
      State.modStn_standing_upd, State.eachStn_standing, apply_ite Station.standing,
      State.modStn_modLink_standing, State.modStn_modServo_standing, State.modStn_modSpeed_standing,
      State.modStn_modWrite_standing, State.modStn_modRecall_standing, State.modStn_modCtx_standing,
      standing_upd, foldl_standing, State.modPort_standing, State.eachPort_standing,
      apply_ite State.standing, ite_self, implies_true]

theorem State.setPage_standing (s : State) (a : PageAddr) (g : PageImg) : (State.setPage s a g).standing = s.standing := by
  unfold State.setPage
  rfl

theorem State.elogPut_standing (s : State) (d : DieId) (e : ELogEntry) : (State.elogPut s d e).standing = s.standing := by
  unfold State.elogPut
  rfl

theorem State.elogPage_standing (s : State) (a : PageAddr) (kind bits detail : Nat) (handle : BitVec 32) (actor : Nat) :
    (State.elogPage s a kind bits detail handle actor).standing = s.standing := by
  unfold State.elogPage
  rfl

theorem State.feedCorrected_standing (s : State) (k : Fin 4) (ch : Fin 32) (bits : Nat) :
    (State.feedCorrected s k ch bits).standing = s.standing := by
  unfold State.feedCorrected
  exact foldl_standing _ (fun a i => by
    dsimp only
    split
    · exact State.monTake_standing ..
    · rfl) _ _

theorem State.countCorrected_standing (s : State) (a : PageAddr) (bits : Nat) :
    (State.countCorrected s a bits).standing = s.standing := by
  simp only [State.countCorrected, State.modStack_standing, State.raise_standing, State.feedCorrected_standing,
      Station.modLink_standing, Station.modServo_standing, Station.modSpeed_standing,
      Station.modWrite_standing, Station.modRecall_standing, Station.modCtx_standing,
      Station.standing_upd, State.modStn_standing_upd, State.eachStn_standing,
      apply_ite Station.standing, State.modStn_modLink_standing, State.modStn_modServo_standing,
      State.modStn_modSpeed_standing, State.modStn_modWrite_standing, State.modStn_modRecall_standing,
      State.modStn_modCtx_standing, standing_upd, foldl_standing, State.modPort_standing,
      State.eachPort_standing, apply_ite State.standing, ite_self, implies_true]

theorem State.schedule_standing (s : State) (w : PendingWb) : (State.schedule s w).standing = s.standing := State.modStack_standing ..

theorem State.hardFault_standing (s : State) (a : PageAddr) (g : PageImg) (bits detail : Nat) (handle : BitVec 32) (actor : Nat) :
    (State.hardFault s a g bits detail handle actor).standing = s.standing := by
  unfold State.hardFault
  (repeat' split) <;> first
    | with_reducible rfl
    | (simp only [State.modStack_standing, State.raise_standing, State.setPage_standing, State.elogPage_standing,
      Station.modLink_standing, Station.modServo_standing, Station.modSpeed_standing,
      Station.modWrite_standing, Station.modRecall_standing, Station.modCtx_standing,
      Station.standing_upd, State.modStn_standing_upd, State.eachStn_standing,
      apply_ite Station.standing, State.modStn_modLink_standing, State.modStn_modServo_standing,
      State.modStn_modSpeed_standing, State.modStn_modWrite_standing, State.modStn_modRecall_standing,
      State.modStn_modCtx_standing, standing_upd, foldl_standing, State.modPort_standing,
      State.eachPort_standing, apply_ite State.standing, ite_self, implies_true]; done)
    | (simp only [State.modStack_standing, State.raise_standing, State.setPage_standing, State.elogPage_standing,
      Station.modLink_standing, Station.modServo_standing, Station.modSpeed_standing,
      Station.modWrite_standing, Station.modRecall_standing, Station.modCtx_standing,
      Station.standing_upd, State.modStn_standing_upd, State.eachStn_standing,
      apply_ite Station.standing, State.modStn_modLink_standing, State.modStn_modServo_standing,
      State.modStn_modSpeed_standing, State.modStn_modWrite_standing, State.modStn_modRecall_standing,
      State.modStn_modCtx_standing, standing_upd, foldl_standing, State.modPort_standing,
      State.eachPort_standing, apply_ite State.standing, ite_self, implies_true]
       (repeat' split) <;> first | with_reducible rfl | simp only [State.modStack_standing, State.raise_standing, State.setPage_standing, State.elogPage_standing,
      Station.modLink_standing, Station.modServo_standing, Station.modSpeed_standing,
      Station.modWrite_standing, Station.modRecall_standing, Station.modCtx_standing,
      Station.standing_upd, State.modStn_standing_upd, State.eachStn_standing,
      apply_ite Station.standing, State.modStn_modLink_standing, State.modStn_modServo_standing,
      State.modStn_modSpeed_standing, State.modStn_modWrite_standing, State.modStn_modRecall_standing,
      State.modStn_modCtx_standing, standing_upd, foldl_standing, State.modPort_standing,
      State.eachPort_standing, apply_ite State.standing, ite_self, implies_true])

theorem State.readPage_standing (s : State) (a : PageAddr) (l : PageLine) (detail : Nat) (handle : BitVec 32) (actor : Nat) :
    (State.readPage s a l detail handle actor).2.standing = s.standing := by
  unfold State.readPage
  (repeat' split) <;> first
    | with_reducible rfl
    | (simp only [State.raise_standing, State.elogPage_standing, State.countCorrected_standing,
      State.schedule_standing, State.hardFault_standing, Station.modLink_standing,
      Station.modServo_standing, Station.modSpeed_standing, Station.modWrite_standing,
      Station.modRecall_standing, Station.modCtx_standing, Station.standing_upd,
      State.modStn_standing_upd, State.eachStn_standing, apply_ite Station.standing,
      State.modStn_modLink_standing, State.modStn_modServo_standing, State.modStn_modSpeed_standing,
      State.modStn_modWrite_standing, State.modStn_modRecall_standing, State.modStn_modCtx_standing,
      standing_upd, foldl_standing, State.modPort_standing, State.eachPort_standing,
      apply_ite State.standing, ite_self, implies_true]; done)
    | (simp only [State.raise_standing, State.elogPage_standing, State.countCorrected_standing,
      State.schedule_standing, State.hardFault_standing, Station.modLink_standing,
      Station.modServo_standing, Station.modSpeed_standing, Station.modWrite_standing,
      Station.modRecall_standing, Station.modCtx_standing, Station.standing_upd,
      State.modStn_standing_upd, State.eachStn_standing, apply_ite Station.standing,
      State.modStn_modLink_standing, State.modStn_modServo_standing, State.modStn_modSpeed_standing,
      State.modStn_modWrite_standing, State.modStn_modRecall_standing, State.modStn_modCtx_standing,
      standing_upd, foldl_standing, State.modPort_standing, State.eachPort_standing,
      apply_ite State.standing, ite_self, implies_true]
       (repeat' split) <;> first | with_reducible rfl | simp only [State.raise_standing, State.elogPage_standing, State.countCorrected_standing,
      State.schedule_standing, State.hardFault_standing, Station.modLink_standing,
      Station.modServo_standing, Station.modSpeed_standing, Station.modWrite_standing,
      Station.modRecall_standing, Station.modCtx_standing, Station.standing_upd,
      State.modStn_standing_upd, State.eachStn_standing, apply_ite Station.standing,
      State.modStn_modLink_standing, State.modStn_modServo_standing, State.modStn_modSpeed_standing,
      State.modStn_modWrite_standing, State.modStn_modRecall_standing, State.modStn_modCtx_standing,
      standing_upd, foldl_standing, State.modPort_standing, State.eachPort_standing,
      apply_ite State.standing, ite_self, implies_true])

theorem State.writePage_standing (s : State) (a : PageAddr) (g : PageImg) :
    (State.writePage s a g).standing = s.standing := by
  unfold State.writePage
  rfl

theorem State.writeBackPage_standing (s : State) (w : PendingWb) (verify : PageLine) :
    (State.writeBackPage s w verify).standing = s.standing := by
  simp only [State.writeBackPage, State.elogPage_standing, State.countCorrected_standing,
      State.hardFault_standing, State.readPage_standing, State.writePage_standing,
      Station.modLink_standing, Station.modServo_standing, Station.modSpeed_standing,
      Station.modWrite_standing, Station.modRecall_standing, Station.modCtx_standing,
      Station.standing_upd, State.modStn_standing_upd, State.eachStn_standing,
      apply_ite Station.standing, State.modStn_modLink_standing, State.modStn_modServo_standing,
      State.modStn_modSpeed_standing, State.modStn_modWrite_standing, State.modStn_modRecall_standing,
      State.modStn_modCtx_standing, standing_upd, foldl_standing, State.modPort_standing,
      State.eachPort_standing, apply_ite State.standing, ite_self, implies_true]

theorem State.modQp_standing (s : State) (p : Port) (q : Nat) (f : Qp → Qp) :
    (State.modQp s p q f).standing = s.standing := by
  unfold State.modQp
  rfl

theorem State.modCmd_standing (s : State) (r : CmdRef) (f : Cmd → Cmd) : (State.modCmd s r f).standing = s.standing := by
  unfold State.modCmd
  rfl

theorem State.logErr_standing (s : State) (p : Port) (e : CmdErr) : (State.logErr s p e).standing = s.standing := by
  simp only [State.logErr, State.modPort_standing, State.raise_standing, Station.modLink_standing,
      Station.modServo_standing, Station.modSpeed_standing, Station.modWrite_standing,
      Station.modRecall_standing, Station.modCtx_standing, Station.standing_upd,
      State.modStn_standing_upd, State.eachStn_standing, apply_ite Station.standing,
      State.modStn_modLink_standing, State.modStn_modServo_standing, State.modStn_modSpeed_standing,
      State.modStn_modWrite_standing, State.modStn_modRecall_standing, State.modStn_modCtx_standing,
      standing_upd, foldl_standing, State.modPort_standing, State.eachPort_standing,
      apply_ite State.standing, ite_self, implies_true]

theorem State.putDone_standing (s : State) (p : Port) (q : Nat) (e : Entry) (at_ : Nat) (f : Ending) (log own : Bool) :
    (State.putDone s p q e at_ f log own).standing = s.standing := by
  unfold State.putDone
  rfl

theorem State.finishNew_standing (s : State) (c : HostCmd) (f : Ending) : (State.finishNew s c f).standing = s.standing := by
  simp only [State.finishNew, State.logErr_standing, State.putDone_standing, Station.modLink_standing,
      Station.modServo_standing, Station.modSpeed_standing, Station.modWrite_standing,
      Station.modRecall_standing, Station.modCtx_standing, Station.standing_upd,
      State.modStn_standing_upd, State.eachStn_standing, apply_ite Station.standing,
      State.modStn_modLink_standing, State.modStn_modServo_standing, State.modStn_modSpeed_standing,
      State.modStn_modWrite_standing, State.modStn_modRecall_standing, State.modStn_modCtx_standing,
      standing_upd, foldl_standing, State.modPort_standing, State.eachPort_standing,
      apply_ite State.standing, ite_self, implies_true]

theorem State.finish_standing (s : State) (r : CmdRef) (f : Ending) : (State.finish s r f).standing = s.standing := by
  unfold State.finish
  (repeat' split) <;> simp only [State.modQp_standing, State.logErr_standing, State.putDone_standing, Station.modLink_standing,
      Station.modServo_standing, Station.modSpeed_standing, Station.modWrite_standing,
      Station.modRecall_standing, Station.modCtx_standing, Station.standing_upd,
      State.modStn_standing_upd, State.eachStn_standing, apply_ite Station.standing,
      State.modStn_modLink_standing, State.modStn_modServo_standing, State.modStn_modSpeed_standing,
      State.modStn_modWrite_standing, State.modStn_modRecall_standing, State.modStn_modCtx_standing,
      standing_upd, foldl_standing, State.modPort_standing, State.eachPort_standing,
      apply_ite State.standing, ite_self, implies_true]

theorem State.finishAll_standing (s : State) (l : List CmdRef) (f : Ending) :
    (State.finishAll s l f).standing = s.standing := by
  simp only [State.finishAll, State.finish_standing, Station.modLink_standing, Station.modServo_standing,
      Station.modSpeed_standing, Station.modWrite_standing, Station.modRecall_standing,
      Station.modCtx_standing, Station.standing_upd, State.modStn_standing_upd, State.eachStn_standing,
      apply_ite Station.standing, State.modStn_modLink_standing, State.modStn_modServo_standing,
      State.modStn_modSpeed_standing, State.modStn_modWrite_standing, State.modStn_modRecall_standing,
      State.modStn_modCtx_standing, standing_upd, foldl_standing, State.modPort_standing,
      State.eachPort_standing, apply_ite State.standing, ite_self, implies_true]

theorem State.sendData_standing (s : State) (p : Port) (e : Entry) (sgl : List SglEntry) (ofs : Nat) (data : List Byte) (ep : Bool) :
    (State.sendData s p e sgl ofs data ep).standing = s.standing :=
  foldl_standing (fun a o => a.emit o) (fun _ _ => rfl) _ _

theorem State.sendResult_standing (s : State) (p : Port) (e : Entry) (data : List Byte) (ep : Bool) :
    (State.sendResult s p e data ep).standing = s.standing := by
  simp only [State.sendResult, State.emit_standing, Station.modLink_standing, Station.modServo_standing,
      Station.modSpeed_standing, Station.modWrite_standing, Station.modRecall_standing,
      Station.modCtx_standing, Station.standing_upd, State.modStn_standing_upd, State.eachStn_standing,
      apply_ite Station.standing, State.modStn_modLink_standing, State.modStn_modServo_standing,
      State.modStn_modSpeed_standing, State.modStn_modWrite_standing, State.modStn_modRecall_standing,
      State.modStn_modCtx_standing, standing_upd, foldl_standing, State.modPort_standing,
      State.eachPort_standing, apply_ite State.standing, ite_self, implies_true]

theorem State.finishWith_standing (s : State) (r : CmdRef) (f : Ending) (buf : List Byte) :
    (State.finishWith s r f buf).standing = s.standing := by
  unfold State.finishWith
  (repeat' split) <;> simp only [State.finish_standing, State.sendResult_standing, Station.modLink_standing,
      Station.modServo_standing, Station.modSpeed_standing, Station.modWrite_standing,
      Station.modRecall_standing, Station.modCtx_standing, Station.standing_upd,
      State.modStn_standing_upd, State.eachStn_standing, apply_ite Station.standing,
      State.modStn_modLink_standing, State.modStn_modServo_standing, State.modStn_modSpeed_standing,
      State.modStn_modWrite_standing, State.modStn_modRecall_standing, State.modStn_modCtx_standing,
      standing_upd, foldl_standing, State.modPort_standing, State.eachPort_standing,
      apply_ite State.standing, ite_self, implies_true]

theorem State.unlock_standing (s : State) (r : CmdRef) : (State.unlock s r).standing = s.standing := by
  unfold State.unlock
  rfl

theorem State.hold_standing (s : State) (c : HostCmd) (why : Hold) : (State.hold s c why).standing = s.standing := by
  unfold State.hold
  rfl

theorem State.take_standing (s : State) (c : HostCmd) : (State.take s c).standing = s.standing := by
  simp only [State.take, State.modPort_standing, State.trace_standing, State.modQp_standing,
      Station.modLink_standing, Station.modServo_standing, Station.modSpeed_standing,
      Station.modWrite_standing, Station.modRecall_standing, Station.modCtx_standing,
      Station.standing_upd, State.modStn_standing_upd, State.eachStn_standing,
      apply_ite Station.standing, State.modStn_modLink_standing, State.modStn_modServo_standing,
      State.modStn_modSpeed_standing, State.modStn_modWrite_standing, State.modStn_modRecall_standing,
      State.modStn_modCtx_standing, standing_upd, foldl_standing, State.modPort_standing,
      State.eachPort_standing, apply_ite State.standing, ite_self, implies_true]

theorem State.addCmd_standing (s : State) (c : HostCmd) (k : Cmd) : (State.addCmd s c k).standing = s.standing := by
  unfold State.addCmd
  rfl

theorem State.host_standing (s : State) (opc : Nat) (c : HostCmd) (own : State → Option Ending) (blocked : State → Option Hold)
    (run : State → State) (h : ∀ a, (run a).standing = a.standing) : (State.host s opc c own blocked run).standing = s.standing := by
  unfold State.host
  (repeat' split) <;> first
    | rfl
    | (rw [State.hold_standing])
    | (rw [State.finishNew_standing, State.take_standing])
    | (rw [h, State.take_standing])

theorem State.buildPools_standing (s : State) (d : DieId) : (State.buildPools s d).standing = s.standing := by
  simp only [State.buildPools, State.modDie_standing, State.raise_standing, Station.modLink_standing,
      Station.modServo_standing, Station.modSpeed_standing, Station.modWrite_standing,
      Station.modRecall_standing, Station.modCtx_standing, Station.standing_upd,
      State.modStn_standing_upd, State.eachStn_standing, apply_ite Station.standing,
      State.modStn_modLink_standing, State.modStn_modServo_standing, State.modStn_modSpeed_standing,
      State.modStn_modWrite_standing, State.modStn_modRecall_standing, State.modStn_modCtx_standing,
      standing_upd, foldl_standing, State.modPort_standing, State.eachPort_standing,
      apply_ite State.standing, ite_self, implies_true]

theorem State.misuse_standing (s : State) (d : DieId) (owner : Nat) (handle : BitVec 32) (reason : Nat) :
    (State.misuse s d owner handle reason).standing = s.standing := by
  simp only [State.misuse, State.modDie_standing, State.raise_standing, State.elogPut_standing,
      Station.modLink_standing, Station.modServo_standing, Station.modSpeed_standing,
      Station.modWrite_standing, Station.modRecall_standing, Station.modCtx_standing,
      Station.standing_upd, State.modStn_standing_upd, State.eachStn_standing,
      apply_ite Station.standing, State.modStn_modLink_standing, State.modStn_modServo_standing,
      State.modStn_modSpeed_standing, State.modStn_modWrite_standing, State.modStn_modRecall_standing,
      State.modStn_modCtx_standing, standing_upd, foldl_standing, State.modPort_standing,
      State.eachPort_standing, apply_ite State.standing, ite_self, implies_true]

theorem State.takeBuf_standing (s : State) (d : DieId) (p : Fin 5) (k : Nat) :
    (State.takeBuf s d p k).2.standing = s.standing := by
  unfold State.takeBuf
  rfl

theorem State.dropRemap_standing (s : State) (d : DieId) (h : BitVec 32) (dpns : List Nat) :
    (State.dropRemap s d h dpns).standing = s.standing := by
  simp only [State.dropRemap, State.modStack_standing, State.elogPage_standing, Station.modLink_standing,
      Station.modServo_standing, Station.modSpeed_standing, Station.modWrite_standing,
      Station.modRecall_standing, Station.modCtx_standing, Station.standing_upd,
      State.modStn_standing_upd, State.eachStn_standing, apply_ite Station.standing,
      State.modStn_modLink_standing, State.modStn_modServo_standing, State.modStn_modSpeed_standing,
      State.modStn_modWrite_standing, State.modStn_modRecall_standing, State.modStn_modCtx_standing,
      standing_upd, foldl_standing, State.modPort_standing, State.eachPort_standing,
      apply_ite State.standing, ite_self, implies_true]

theorem State.putBack_standing (s : State) (d : DieId) (p : Fin 5) (i : Nat) :
    (State.putBack s d p i).standing = s.standing := by
  simp only [State.putBack, State.modDie_standing, State.dropRemap_standing, Station.modLink_standing,
      Station.modServo_standing, Station.modSpeed_standing, Station.modWrite_standing,
      Station.modRecall_standing, Station.modCtx_standing, Station.standing_upd,
      State.modStn_standing_upd, State.eachStn_standing, apply_ite Station.standing,
      State.modStn_modLink_standing, State.modStn_modServo_standing, State.modStn_modSpeed_standing,
      State.modStn_modWrite_standing, State.modStn_modRecall_standing, State.modStn_modCtx_standing,
      standing_upd, foldl_standing, State.modPort_standing, State.eachPort_standing,
      apply_ite State.standing, ite_self, implies_true]

theorem State.addJob_standing (s : State) (d : DieId) (r : Fin 4) (j : Job) :
    (State.addJob s d r j).standing = s.standing := by
  unfold State.addJob
  rfl

theorem State.backToWait_standing (s : State) (d : DieId) (r : Fin 4) (k : JobKind) :
    (State.backToWait s d r k).standing = s.standing := by
  simp only [State.backToWait, State.modDie_standing, Station.modLink_standing, Station.modServo_standing,
      Station.modSpeed_standing, Station.modWrite_standing, Station.modRecall_standing,
      Station.modCtx_standing, Station.standing_upd, State.modStn_standing_upd, State.eachStn_standing,
      apply_ite Station.standing, State.modStn_modLink_standing, State.modStn_modServo_standing,
      State.modStn_modSpeed_standing, State.modStn_modWrite_standing, State.modStn_modRecall_standing,
      State.modStn_modCtx_standing, standing_upd, foldl_standing, State.modPort_standing,
      State.eachPort_standing, apply_ite State.standing, ite_self, implies_true]

theorem State.addRoom_standing (s : State) (st : Stn) (lon n : Nat) : (State.addRoom s st lon n).standing = s.standing := by
  simp only [State.addRoom, Station.modLink_standing, Station.modServo_standing, Station.modSpeed_standing,
      Station.modWrite_standing, Station.modRecall_standing, Station.modCtx_standing,
      Station.standing_upd, State.modStn_standing_upd, State.eachStn_standing,
      apply_ite Station.standing, State.modStn_modLink_standing, State.modStn_modServo_standing,
      State.modStn_modSpeed_standing, State.modStn_modWrite_standing, State.modStn_modRecall_standing,
      State.modStn_modCtx_standing, standing_upd, foldl_standing, State.modPort_standing,
      State.eachPort_standing, apply_ite State.standing, ite_self, implies_true]

theorem State.grantUse_standing (s0 : State) (d : DieId) (h : BitVec 32) (use : PoolUse) :
    (State.grantUse s0 d h use).standing = s0.standing := by
  unfold State.grantUse
  (repeat' split) <;> first
    | with_reducible rfl
    | (simp only [State.modDie_standing, State.modCmd_standing, State.addJob_standing, State.addRoom_standing,
      Station.modLink_standing, Station.modServo_standing, Station.modSpeed_standing,
      Station.modWrite_standing, Station.modRecall_standing, Station.modCtx_standing,
      Station.standing_upd, State.modStn_standing_upd, State.eachStn_standing,
      apply_ite Station.standing, State.modStn_modLink_standing, State.modStn_modServo_standing,
      State.modStn_modSpeed_standing, State.modStn_modWrite_standing, State.modStn_modRecall_standing,
      State.modStn_modCtx_standing, standing_upd, foldl_standing, State.modPort_standing,
      State.eachPort_standing, apply_ite State.standing, ite_self, implies_true]; done)
    | (simp only [State.modDie_standing, State.modCmd_standing, State.addJob_standing, State.addRoom_standing,
      Station.modLink_standing, Station.modServo_standing, Station.modSpeed_standing,
      Station.modWrite_standing, Station.modRecall_standing, Station.modCtx_standing,
      Station.standing_upd, State.modStn_standing_upd, State.eachStn_standing,
      apply_ite Station.standing, State.modStn_modLink_standing, State.modStn_modServo_standing,
      State.modStn_modSpeed_standing, State.modStn_modWrite_standing, State.modStn_modRecall_standing,
      State.modStn_modCtx_standing, standing_upd, foldl_standing, State.modPort_standing,
      State.eachPort_standing, apply_ite State.standing, ite_self, implies_true]
       (repeat' split) <;> first | with_reducible rfl | simp only [State.modDie_standing, State.modCmd_standing, State.addJob_standing, State.addRoom_standing,
      Station.modLink_standing, Station.modServo_standing, Station.modSpeed_standing,
      Station.modWrite_standing, Station.modRecall_standing, Station.modCtx_standing,
      Station.standing_upd, State.modStn_standing_upd, State.eachStn_standing,
      apply_ite Station.standing, State.modStn_modLink_standing, State.modStn_modServo_standing,
      State.modStn_modSpeed_standing, State.modStn_modWrite_standing, State.modStn_modRecall_standing,
      State.modStn_modCtx_standing, standing_upd, foldl_standing, State.modPort_standing,
      State.eachPort_standing, apply_ite State.standing, ite_self, implies_true])

theorem State.wake_standing (s : State) (d : DieId) (p : Fin 5) : (State.wake s d p).standing = s.standing := by
  unfold State.wake
  (repeat' split) <;> simp only [State.modDie_standing, State.takeBuf_standing, State.grantUse_standing, Station.modLink_standing,
      Station.modServo_standing, Station.modSpeed_standing, Station.modWrite_standing,
      Station.modRecall_standing, Station.modCtx_standing, Station.standing_upd,
      State.modStn_standing_upd, State.eachStn_standing, apply_ite Station.standing,
      State.modStn_modLink_standing, State.modStn_modServo_standing, State.modStn_modSpeed_standing,
      State.modStn_modWrite_standing, State.modStn_modRecall_standing, State.modStn_modCtx_standing,
      standing_upd, foldl_standing, State.modPort_standing, State.eachPort_standing,
      apply_ite State.standing, ite_self, implies_true]

theorem State.wakeDue_standing (s : State) (d : DieId) (p : Fin 5) : (State.wakeDue s d p).standing = s.standing := by
  simp only [State.wakeDue, State.modDie_standing, State.wake_standing, Station.modLink_standing,
      Station.modServo_standing, Station.modSpeed_standing, Station.modWrite_standing,
      Station.modRecall_standing, Station.modCtx_standing, Station.standing_upd,
      State.modStn_standing_upd, State.eachStn_standing, apply_ite Station.standing,
      State.modStn_modLink_standing, State.modStn_modServo_standing, State.modStn_modSpeed_standing,
      State.modStn_modWrite_standing, State.modStn_modRecall_standing, State.modStn_modCtx_standing,
      standing_upd, foldl_standing, State.modPort_standing, State.eachPort_standing,
      apply_ite State.standing, ite_self, implies_true]

theorem State.returnBuf_standing (s : State) (d : DieId) (p : Fin 5) (i : Nat) :
    (State.returnBuf s d p i).standing = s.standing := by
  simp only [State.returnBuf, State.modDie_standing, State.putBack_standing, State.wakeDue_standing,
      Station.modLink_standing, Station.modServo_standing, Station.modSpeed_standing,
      Station.modWrite_standing, Station.modRecall_standing, Station.modCtx_standing,
      Station.standing_upd, State.modStn_standing_upd, State.eachStn_standing,
      apply_ite Station.standing, State.modStn_modLink_standing, State.modStn_modServo_standing,
      State.modStn_modSpeed_standing, State.modStn_modWrite_standing, State.modStn_modRecall_standing,
      State.modStn_modCtx_standing, standing_upd, foldl_standing, State.modPort_standing,
      State.eachPort_standing, apply_ite State.standing, ite_self, implies_true]

theorem State.strike_standing (s : State) (d : DieId) (h : BitVec 32) (owners : List Nat) (pend : Bool) :
    (State.strike s d h owners pend).standing = s.standing := by
  simp only [State.strike, State.modDie_standing, State.returnBuf_standing, Station.modLink_standing,
      Station.modServo_standing, Station.modSpeed_standing, Station.modWrite_standing,
      Station.modRecall_standing, Station.modCtx_standing, Station.standing_upd,
      State.modStn_standing_upd, State.eachStn_standing, apply_ite Station.standing,
      State.modStn_modLink_standing, State.modStn_modServo_standing, State.modStn_modSpeed_standing,
      State.modStn_modWrite_standing, State.modStn_modRecall_standing, State.modStn_modCtx_standing,
      standing_upd, foldl_standing, State.modPort_standing, State.eachPort_standing,
      apply_ite State.standing, ite_self, implies_true]

theorem State.freeBuf_standing (s : State) (d : DieId) (h : BitVec 32) : (State.freeBuf s d h).standing = s.standing := by
  simp only [State.freeBuf, State.strike_standing, Station.modLink_standing, Station.modServo_standing,
      Station.modSpeed_standing, Station.modWrite_standing, Station.modRecall_standing,
      Station.modCtx_standing, Station.standing_upd, State.modStn_standing_upd, State.eachStn_standing,
      apply_ite Station.standing, State.modStn_modLink_standing, State.modStn_modServo_standing,
      State.modStn_modSpeed_standing, State.modStn_modWrite_standing, State.modStn_modRecall_standing,
      State.modStn_modCtx_standing, standing_upd, foldl_standing, State.modPort_standing,
      State.eachPort_standing, apply_ite State.standing, ite_self, implies_true]

theorem State.dropWaits_standing (s : State) (f : Waiter → Bool) : (State.dropWaits s f).standing = s.standing := by
  unfold State.dropWaits
  rfl

theorem State.logStale_standing (s : State) (a : PageAddr) (h : BitVec 32) (actor : Nat) :
    (State.logStale s a h actor).standing = s.standing := by
  simp only [State.logStale, State.modDie_standing, State.raise_standing, State.elogPage_standing,
      State.misuse_standing, Station.modLink_standing, Station.modServo_standing,
      Station.modSpeed_standing, Station.modWrite_standing, Station.modRecall_standing,
      Station.modCtx_standing, Station.standing_upd, State.modStn_standing_upd, State.eachStn_standing,
      apply_ite Station.standing, State.modStn_modLink_standing, State.modStn_modServo_standing,
      State.modStn_modSpeed_standing, State.modStn_modWrite_standing, State.modStn_modRecall_standing,
      State.modStn_modCtx_standing, standing_upd, foldl_standing, State.modPort_standing,
      State.eachPort_standing, apply_ite State.standing, ite_self, implies_true]

theorem State.dropQuarantine_standing (s : State) (d : DieId) : (State.dropQuarantine s d).standing = s.standing := by
  simp only [State.dropQuarantine, State.strike_standing, Station.modLink_standing, Station.modServo_standing,
      Station.modSpeed_standing, Station.modWrite_standing, Station.modRecall_standing,
      Station.modCtx_standing, Station.standing_upd, State.modStn_standing_upd, State.eachStn_standing,
      apply_ite Station.standing, State.modStn_modLink_standing, State.modStn_modServo_standing,
      State.modStn_modSpeed_standing, State.modStn_modWrite_standing, State.modStn_modRecall_standing,
      State.modStn_modCtx_standing, standing_upd, foldl_standing, State.modPort_standing,
      State.eachPort_standing, apply_ite State.standing, ite_self, implies_true]

theorem State.dropJobs_standing (s : State) (f : JobKind → Bool) : (State.dropJobs s f).standing = s.standing := by
  unfold State.dropJobs
  rfl

theorem State.closeGath_standing (s : State) (st : Stn) (forFlush ends : Bool) :
    (State.closeGath s st forFlush ends).standing = s.standing := by
  unfold State.closeGath
  (repeat' split) <;> first
    | with_reducible rfl
    | (simp only [State.addJob_standing, Station.modLink_standing, Station.modServo_standing,
      Station.modSpeed_standing, Station.modWrite_standing, Station.modRecall_standing,
      Station.modCtx_standing, Station.standing_upd, State.modStn_standing_upd, State.eachStn_standing,
      apply_ite Station.standing, State.modStn_modLink_standing, State.modStn_modServo_standing,
      State.modStn_modSpeed_standing, State.modStn_modWrite_standing, State.modStn_modRecall_standing,
      State.modStn_modCtx_standing, standing_upd, foldl_standing, State.modPort_standing,
      State.eachPort_standing, apply_ite State.standing, ite_self, implies_true]; done)
    | (simp only [State.addJob_standing, Station.modLink_standing, Station.modServo_standing,
      Station.modSpeed_standing, Station.modWrite_standing, Station.modRecall_standing,
      Station.modCtx_standing, Station.standing_upd, State.modStn_standing_upd, State.eachStn_standing,
      apply_ite Station.standing, State.modStn_modLink_standing, State.modStn_modServo_standing,
      State.modStn_modSpeed_standing, State.modStn_modWrite_standing, State.modStn_modRecall_standing,
      State.modStn_modCtx_standing, standing_upd, foldl_standing, State.modPort_standing,
      State.eachPort_standing, apply_ite State.standing, ite_self, implies_true]
       (repeat' split) <;> first | with_reducible rfl | simp only [State.addJob_standing, Station.modLink_standing, Station.modServo_standing,
      Station.modSpeed_standing, Station.modWrite_standing, Station.modRecall_standing,
      Station.modCtx_standing, Station.standing_upd, State.modStn_standing_upd, State.eachStn_standing,
      apply_ite Station.standing, State.modStn_modLink_standing, State.modStn_modServo_standing,
      State.modStn_modSpeed_standing, State.modStn_modWrite_standing, State.modStn_modRecall_standing,
      State.modStn_modCtx_standing, standing_upd, foldl_standing, State.modPort_standing,
      State.eachPort_standing, apply_ite State.standing, ite_self, implies_true])

theorem State.assembleOnce_standing (s : State) (st : Stn) (t : State) (h : State.assembleOnce s st = some t) :
    t.standing = s.standing := by
  unfold State.assembleOnce at h
  simp only [] at h
  (repeat' split at h) <;> first
    | (cases h; done)
    | (cases h; first
        | exact State.modStn_standing _ _ _ (by exact fun _ => rfl)
        | simp only [State.closeGath_standing])

theorem State.assemble_standing (s : State) (st : Stn) (n : Nat) : (State.assemble s st n).standing = s.standing := by
  induction n generalizing s with
  | zero => rfl
  | succ n ih =>
    unfold State.assemble
    split
    · exact (ih _).trans (State.assembleOnce_standing _ _ _ ‹_›)
    · rfl

theorem State.numberLabels_standing (s : State) (st : Stn) : (State.numberLabels s st).standing = s.standing := by
  unfold State.numberLabels
  (repeat' split) <;> first
    | with_reducible rfl
    | (simp only [State.take_standing, State.addJob_standing, Station.modLink_standing, Station.modServo_standing,
      Station.modSpeed_standing, Station.modWrite_standing, Station.modRecall_standing,
      Station.modCtx_standing, Station.standing_upd, State.modStn_standing_upd, State.eachStn_standing,
      apply_ite Station.standing, State.modStn_modLink_standing, State.modStn_modServo_standing,
      State.modStn_modSpeed_standing, State.modStn_modWrite_standing, State.modStn_modRecall_standing,
      State.modStn_modCtx_standing, standing_upd, foldl_standing, State.modPort_standing,
      State.eachPort_standing, apply_ite State.standing, ite_self, implies_true]; done)
    | (simp only [State.take_standing, State.addJob_standing, Station.modLink_standing, Station.modServo_standing,
      Station.modSpeed_standing, Station.modWrite_standing, Station.modRecall_standing,
      Station.modCtx_standing, Station.standing_upd, State.modStn_standing_upd, State.eachStn_standing,
      apply_ite Station.standing, State.modStn_modLink_standing, State.modStn_modServo_standing,
      State.modStn_modSpeed_standing, State.modStn_modWrite_standing, State.modStn_modRecall_standing,
      State.modStn_modCtx_standing, standing_upd, foldl_standing, State.modPort_standing,
      State.eachPort_standing, apply_ite State.standing, ite_self, implies_true]
       (repeat' split) <;> first | with_reducible rfl | simp only [State.take_standing, State.addJob_standing, Station.modLink_standing, Station.modServo_standing,
      Station.modSpeed_standing, Station.modWrite_standing, Station.modRecall_standing,
      Station.modCtx_standing, Station.standing_upd, State.modStn_standing_upd, State.eachStn_standing,
      apply_ite Station.standing, State.modStn_modLink_standing, State.modStn_modServo_standing,
      State.modStn_modSpeed_standing, State.modStn_modWrite_standing, State.modStn_modRecall_standing,
      State.modStn_modCtx_standing, standing_upd, foldl_standing, State.modPort_standing,
      State.eachPort_standing, apply_ite State.standing, ite_self, implies_true])

theorem State.assembleAll_standing (s : State) (st : Stn) : (State.assembleAll s st).standing = s.standing := by
  unfold State.assembleAll
  (repeat' split) <;> simp only [State.assemble_standing, State.numberLabels_standing, Station.modLink_standing,
      Station.modServo_standing, Station.modSpeed_standing, Station.modWrite_standing,
      Station.modRecall_standing, Station.modCtx_standing, Station.standing_upd,
      State.modStn_standing_upd, State.eachStn_standing, apply_ite Station.standing,
      State.modStn_modLink_standing, State.modStn_modServo_standing, State.modStn_modSpeed_standing,
      State.modStn_modWrite_standing, State.modStn_modRecall_standing, State.modStn_modCtx_standing,
      standing_upd, foldl_standing, State.modPort_standing, State.eachPort_standing,
      apply_ite State.standing, ite_self, implies_true]

theorem State.releaseHere_standing (s : State) (st : Stn) : (State.releaseHere s st).standing = s.standing := by
  unfold State.releaseHere
  exact State.modStn_standing _ _ _ (fun t => by split <;> rfl)

theorem State.giveBack_standing (s : State) (st : Stn) (gone : List Gath) :
    (State.giveBack s st gone).standing = s.standing := by
  unfold State.giveBack
  (repeat' split) <;> first
    | with_reducible rfl
    | (simp only [State.dropJobs_standing, Station.modLink_standing, Station.modServo_standing,
      Station.modSpeed_standing, Station.modWrite_standing, Station.modRecall_standing,
      Station.modCtx_standing, Station.standing_upd, State.modStn_standing_upd, State.eachStn_standing,
      apply_ite Station.standing, State.modStn_modLink_standing, State.modStn_modServo_standing,
      State.modStn_modSpeed_standing, State.modStn_modWrite_standing, State.modStn_modRecall_standing,
      State.modStn_modCtx_standing, standing_upd, foldl_standing, State.modPort_standing,
      State.eachPort_standing, apply_ite State.standing, ite_self, implies_true]; done)
    | (simp only [State.dropJobs_standing, Station.modLink_standing, Station.modServo_standing,
      Station.modSpeed_standing, Station.modWrite_standing, Station.modRecall_standing,
      Station.modCtx_standing, Station.standing_upd, State.modStn_standing_upd, State.eachStn_standing,
      apply_ite Station.standing, State.modStn_modLink_standing, State.modStn_modServo_standing,
      State.modStn_modSpeed_standing, State.modStn_modWrite_standing, State.modStn_modRecall_standing,
      State.modStn_modCtx_standing, standing_upd, foldl_standing, State.modPort_standing,
      State.eachPort_standing, apply_ite State.standing, ite_self, implies_true]
       (repeat' split) <;> first | with_reducible rfl | simp only [State.dropJobs_standing, Station.modLink_standing, Station.modServo_standing,
      Station.modSpeed_standing, Station.modWrite_standing, Station.modRecall_standing,
      Station.modCtx_standing, Station.standing_upd, State.modStn_standing_upd, State.eachStn_standing,
      apply_ite Station.standing, State.modStn_modLink_standing, State.modStn_modServo_standing,
      State.modStn_modSpeed_standing, State.modStn_modWrite_standing, State.modStn_modRecall_standing,
      State.modStn_modCtx_standing, standing_upd, foldl_standing, State.modPort_standing,
      State.eachPort_standing, apply_ite State.standing, ite_self, implies_true])

theorem State.burnFrom_standing (s : State) (st : Stn) (n : Nat) : (State.burnFrom s st n).standing = s.standing := by
  unfold State.burnFrom
  (repeat' split) <;> first
    | with_reducible rfl
    | (simp only [State.numberLabels_standing, State.giveBack_standing, Station.modLink_standing,
      Station.modServo_standing, Station.modSpeed_standing, Station.modWrite_standing,
      Station.modRecall_standing, Station.modCtx_standing, Station.standing_upd,
      State.modStn_standing_upd, State.eachStn_standing, apply_ite Station.standing,
      State.modStn_modLink_standing, State.modStn_modServo_standing, State.modStn_modSpeed_standing,
      State.modStn_modWrite_standing, State.modStn_modRecall_standing, State.modStn_modCtx_standing,
      standing_upd, foldl_standing, State.modPort_standing, State.eachPort_standing,
      apply_ite State.standing, ite_self, implies_true]; done)
    | (simp only [State.numberLabels_standing, State.giveBack_standing, Station.modLink_standing,
      Station.modServo_standing, Station.modSpeed_standing, Station.modWrite_standing,
      Station.modRecall_standing, Station.modCtx_standing, Station.standing_upd,
      State.modStn_standing_upd, State.eachStn_standing, apply_ite Station.standing,
      State.modStn_modLink_standing, State.modStn_modServo_standing, State.modStn_modSpeed_standing,
      State.modStn_modWrite_standing, State.modStn_modRecall_standing, State.modStn_modCtx_standing,
      standing_upd, foldl_standing, State.modPort_standing, State.eachPort_standing,
      apply_ite State.standing, ite_self, implies_true]
       (repeat' split) <;> first | with_reducible rfl | simp only [State.numberLabels_standing, State.giveBack_standing, Station.modLink_standing,
      Station.modServo_standing, Station.modSpeed_standing, Station.modWrite_standing,
      Station.modRecall_standing, Station.modCtx_standing, Station.standing_upd,
      State.modStn_standing_upd, State.eachStn_standing, apply_ite Station.standing,
      State.modStn_modLink_standing, State.modStn_modServo_standing, State.modStn_modSpeed_standing,
      State.modStn_modWrite_standing, State.modStn_modRecall_standing, State.modStn_modCtx_standing,
      standing_upd, foldl_standing, State.modPort_standing, State.eachPort_standing,
      apply_ite State.standing, ite_self, implies_true])

theorem State.abandonRec_standing (s : State) (st : Stn) (lon : Nat) (why : Abandon) :
    (State.abandonRec s st lon why).standing = s.standing := by
  unfold State.abandonRec
  (repeat' split) <;> first
    | with_reducible rfl
    | (simp only [State.dropJobs_standing, State.assembleAll_standing, State.burnFrom_standing,
      Station.modLink_standing, Station.modServo_standing, Station.modSpeed_standing,
      Station.modWrite_standing, Station.modRecall_standing, Station.modCtx_standing,
      Station.standing_upd, State.modStn_standing_upd, State.eachStn_standing,
      apply_ite Station.standing, State.modStn_modLink_standing, State.modStn_modServo_standing,
      State.modStn_modSpeed_standing, State.modStn_modWrite_standing, State.modStn_modRecall_standing,
      State.modStn_modCtx_standing, standing_upd, foldl_standing, State.modPort_standing,
      State.eachPort_standing, apply_ite State.standing, ite_self, implies_true]; done)
    | (simp only [State.dropJobs_standing, State.assembleAll_standing, State.burnFrom_standing,
      Station.modLink_standing, Station.modServo_standing, Station.modSpeed_standing,
      Station.modWrite_standing, Station.modRecall_standing, Station.modCtx_standing,
      Station.standing_upd, State.modStn_standing_upd, State.eachStn_standing,
      apply_ite Station.standing, State.modStn_modLink_standing, State.modStn_modServo_standing,
      State.modStn_modSpeed_standing, State.modStn_modWrite_standing, State.modStn_modRecall_standing,
      State.modStn_modCtx_standing, standing_upd, foldl_standing, State.modPort_standing,
      State.eachPort_standing, apply_ite State.standing, ite_self, implies_true]
       (repeat' split) <;> first | with_reducible rfl | simp only [State.dropJobs_standing, State.assembleAll_standing, State.burnFrom_standing,
      Station.modLink_standing, Station.modServo_standing, Station.modSpeed_standing,
      Station.modWrite_standing, Station.modRecall_standing, Station.modCtx_standing,
      Station.standing_upd, State.modStn_standing_upd, State.eachStn_standing,
      apply_ite Station.standing, State.modStn_modLink_standing, State.modStn_modServo_standing,
      State.modStn_modSpeed_standing, State.modStn_modWrite_standing, State.modStn_modRecall_standing,
      State.modStn_modCtx_standing, standing_upd, foldl_standing, State.modPort_standing,
      State.eachPort_standing, apply_ite State.standing, ite_self, implies_true])

theorem State.releaseAll_standing (s : State) (st : Stn) : (State.releaseAll s st).standing = s.standing := by
  simp only [State.releaseAll, State.numberLabels_standing, State.releaseHere_standing]

theorem State.compose_standing (s : State) (st : Stn) (kind : GKind) (stream : List Byte) :
    (State.compose s st kind stream).standing = s.standing := by
  unfold State.compose
  (repeat' split) <;> first
    | with_reducible rfl
    | (simp only [State.numberLabels_standing, Station.modLink_standing, Station.modServo_standing,
      Station.modSpeed_standing, Station.modWrite_standing, Station.modRecall_standing,
      Station.modCtx_standing, Station.standing_upd, State.modStn_standing_upd, State.eachStn_standing,
      apply_ite Station.standing, State.modStn_modLink_standing, State.modStn_modServo_standing,
      State.modStn_modSpeed_standing, State.modStn_modWrite_standing, State.modStn_modRecall_standing,
      State.modStn_modCtx_standing, standing_upd, foldl_standing, State.modPort_standing,
      State.eachPort_standing, apply_ite State.standing, ite_self, implies_true]; done)
    | (simp only [State.numberLabels_standing, Station.modLink_standing, Station.modServo_standing,
      Station.modSpeed_standing, Station.modWrite_standing, Station.modRecall_standing,
      Station.modCtx_standing, Station.standing_upd, State.modStn_standing_upd, State.eachStn_standing,
      apply_ite Station.standing, State.modStn_modLink_standing, State.modStn_modServo_standing,
      State.modStn_modSpeed_standing, State.modStn_modWrite_standing, State.modStn_modRecall_standing,
      State.modStn_modCtx_standing, standing_upd, foldl_standing, State.modPort_standing,
      State.eachPort_standing, apply_ite State.standing, ite_self, implies_true]
       (repeat' split) <;> first | with_reducible rfl | simp only [State.numberLabels_standing, Station.modLink_standing, Station.modServo_standing,
      Station.modSpeed_standing, Station.modWrite_standing, Station.modRecall_standing,
      Station.modCtx_standing, Station.standing_upd, State.modStn_standing_upd, State.eachStn_standing,
      apply_ite Station.standing, State.modStn_modLink_standing, State.modStn_modServo_standing,
      State.modStn_modSpeed_standing, State.modStn_modWrite_standing, State.modStn_modRecall_standing,
      State.modStn_modCtx_standing, standing_upd, foldl_standing, State.modPort_standing,
      State.eachPort_standing, apply_ite State.standing, ite_self, implies_true])

theorem State.composeEndpaper_standing (s : State) (st : Stn) : (State.composeEndpaper s st).standing = s.standing := by
  unfold State.composeEndpaper
  (repeat' split) <;> simp only [State.compose_standing, Station.modLink_standing, Station.modServo_standing,
      Station.modSpeed_standing, Station.modWrite_standing, Station.modRecall_standing,
      Station.modCtx_standing, Station.standing_upd, State.modStn_standing_upd, State.eachStn_standing,
      apply_ite Station.standing, State.modStn_modLink_standing, State.modStn_modServo_standing,
      State.modStn_modSpeed_standing, State.modStn_modWrite_standing, State.modStn_modRecall_standing,
      State.modStn_modCtx_standing, standing_upd, foldl_standing, State.modPort_standing,
      State.eachPort_standing, apply_ite State.standing, ite_self, implies_true]

theorem State.composeSpines_standing (s : State) (st : Stn) : (State.composeSpines s st).standing = s.standing := by
  unfold State.composeSpines
  (repeat' split) <;> simp only [State.compose_standing, Station.modLink_standing, Station.modServo_standing,
      Station.modSpeed_standing, Station.modWrite_standing, Station.modRecall_standing,
      Station.modCtx_standing, Station.standing_upd, State.modStn_standing_upd, State.eachStn_standing,
      apply_ite Station.standing, State.modStn_modLink_standing, State.modStn_modServo_standing,
      State.modStn_modSpeed_standing, State.modStn_modWrite_standing, State.modStn_modRecall_standing,
      State.modStn_modCtx_standing, standing_upd, foldl_standing, State.modPort_standing,
      State.eachPort_standing, apply_ite State.standing, ite_self, implies_true]

theorem State.placeNext_standing (s : State) (st : Stn) (ahead : Nat) :
    (State.placeNext s st ahead).standing = s.standing := by
  unfold State.placeNext
  (repeat' split) <;> first
    | with_reducible rfl
    | (simp only [Station.modLink_standing, Station.modServo_standing, Station.modSpeed_standing,
      Station.modWrite_standing, Station.modRecall_standing, Station.modCtx_standing,
      Station.standing_upd, State.modStn_standing_upd, State.eachStn_standing,
      apply_ite Station.standing, State.modStn_modLink_standing, State.modStn_modServo_standing,
      State.modStn_modSpeed_standing, State.modStn_modWrite_standing, State.modStn_modRecall_standing,
      State.modStn_modCtx_standing, standing_upd, foldl_standing, State.modPort_standing,
      State.eachPort_standing, apply_ite State.standing, ite_self, implies_true]; done)
    | (simp only [Station.modLink_standing, Station.modServo_standing, Station.modSpeed_standing,
      Station.modWrite_standing, Station.modRecall_standing, Station.modCtx_standing,
      Station.standing_upd, State.modStn_standing_upd, State.eachStn_standing,
      apply_ite Station.standing, State.modStn_modLink_standing, State.modStn_modServo_standing,
      State.modStn_modSpeed_standing, State.modStn_modWrite_standing, State.modStn_modRecall_standing,
      State.modStn_modCtx_standing, standing_upd, foldl_standing, State.modPort_standing,
      State.eachPort_standing, apply_ite State.standing, ite_self, implies_true]
       (repeat' split) <;> first | with_reducible rfl | simp only [Station.modLink_standing, Station.modServo_standing, Station.modSpeed_standing,
      Station.modWrite_standing, Station.modRecall_standing, Station.modCtx_standing,
      Station.standing_upd, State.modStn_standing_upd, State.eachStn_standing,
      apply_ite Station.standing, State.modStn_modLink_standing, State.modStn_modServo_standing,
      State.modStn_modSpeed_standing, State.modStn_modWrite_standing, State.modStn_modRecall_standing,
      State.modStn_modCtx_standing, standing_upd, foldl_standing, State.modPort_standing,
      State.eachPort_standing, apply_ite State.standing, ite_self, implies_true])

theorem Station.dropColophon_standing (t : Station) : t.dropColophon.standing = t.standing := by
  unfold Station.dropColophon
  split <;> rfl

theorem Station.unplace_standing (t : Station) (keep : Nat) (begun : Bool) : (t.unplace keep begun).standing = t.standing := by
  unfold Station.unplace
  split
  · rfl
  · dsimp only
    split
    · exact (Station.dropColophon_standing _).trans rfl
    · rfl

theorem State.dropLost_standing (s : State) (st : Stn) : (State.dropLost s st).standing = s.standing := by
  simp only [State.dropLost, State.dropJobs_standing, Station.modLink_standing, Station.modServo_standing,
      Station.modSpeed_standing, Station.modWrite_standing, Station.modRecall_standing,
      Station.modCtx_standing, Station.standing_upd, State.modStn_standing_upd, State.eachStn_standing,
      apply_ite Station.standing, State.modStn_modLink_standing, State.modStn_modServo_standing,
      State.modStn_modSpeed_standing, State.modStn_modWrite_standing, State.modStn_modRecall_standing,
      State.modStn_modCtx_standing, standing_upd, foldl_standing, State.modPort_standing,
      State.eachPort_standing, apply_ite State.standing, ite_self, implies_true]

theorem State.unplace_standing (s : State) (st : Stn) (keep : Nat) (begun : Bool) :
    (State.unplace s st keep begun).standing = s.standing := by
  unfold State.unplace
  rw [State.dropLost_standing]
  exact State.modStn_standing _ _ _ (fun t => t.unplace_standing keep begun)

theorem State.voidWriting_standing (s : State) (st : Stn) : (State.voidWriting s st).standing = s.standing := by
  simp only [State.voidWriting, State.unplace_standing, Station.modLink_standing, Station.modServo_standing,
      Station.modSpeed_standing, Station.modWrite_standing, Station.modRecall_standing,
      Station.modCtx_standing, Station.standing_upd, State.modStn_standing_upd, State.eachStn_standing,
      apply_ite Station.standing, State.modStn_modLink_standing, State.modStn_modServo_standing,
      State.modStn_modSpeed_standing, State.modStn_modWrite_standing, State.modStn_modRecall_standing,
      State.modStn_modCtx_standing, standing_upd, foldl_standing, State.modPort_standing,
      State.eachPort_standing, apply_ite State.standing, ite_self, implies_true]

theorem State.sendAdmin_standing (s : State) (r : CmdRef) (ep : Bool) : (State.sendAdmin s r ep).standing = s.standing := by
  unfold State.sendAdmin
  (repeat' split) <;> simp only [State.finish_standing, State.sendData_standing, Station.modLink_standing,
      Station.modServo_standing, Station.modSpeed_standing, Station.modWrite_standing,
      Station.modRecall_standing, Station.modCtx_standing, Station.standing_upd,
      State.modStn_standing_upd, State.eachStn_standing, apply_ite Station.standing,
      State.modStn_modLink_standing, State.modStn_modServo_standing, State.modStn_modSpeed_standing,
      State.modStn_modWrite_standing, State.modStn_modRecall_standing, State.modStn_modCtx_standing,
      standing_upd, foldl_standing, State.modPort_standing, State.eachPort_standing,
      apply_ite State.standing, ite_self, implies_true]

theorem State.startAdmin_standing (r : CmdRef) (s : State) : (State.startAdmin r s).standing = s.standing := by
  unfold State.startAdmin
  (repeat' split) <;> simp only [State.modCmd_standing, State.sendAdmin_standing, Station.modLink_standing,
      Station.modServo_standing, Station.modSpeed_standing, Station.modWrite_standing,
      Station.modRecall_standing, Station.modCtx_standing, Station.standing_upd,
      State.modStn_standing_upd, State.eachStn_standing, apply_ite Station.standing,
      State.modStn_modLink_standing, State.modStn_modServo_standing, State.modStn_modSpeed_standing,
      State.modStn_modWrite_standing, State.modStn_modRecall_standing, State.modStn_modCtx_standing,
      standing_upd, foldl_standing, State.modPort_standing, State.eachPort_standing,
      apply_ite State.standing, ite_self, implies_true]

theorem State.grantsGo_standing (s : State) : (State.grantsGo s).standing = s.standing := by
  simp only [State.grantsGo, State.sendAdmin_standing, Station.modLink_standing, Station.modServo_standing,
      Station.modSpeed_standing, Station.modWrite_standing, Station.modRecall_standing,
      Station.modCtx_standing, Station.standing_upd, State.modStn_standing_upd, State.eachStn_standing,
      apply_ite Station.standing, State.modStn_modLink_standing, State.modStn_modServo_standing,
      State.modStn_modSpeed_standing, State.modStn_modWrite_standing, State.modStn_modRecall_standing,
      State.modStn_modCtx_standing, standing_upd, foldl_standing, State.modPort_standing,
      State.eachPort_standing, apply_ite State.standing, ite_self, implies_true]

theorem State.rampTo_standing (s : State) (st : Stn) (why : RampFor) (mm : Nat) :
    (State.rampTo s st why mm).standing = s.standing := by
  simp only [State.rampTo, Station.modLink_standing, Station.modServo_standing, Station.modSpeed_standing,
      Station.modWrite_standing, Station.modRecall_standing, Station.modCtx_standing,
      Station.standing_upd, State.modStn_standing_upd, State.eachStn_standing,
      apply_ite Station.standing, State.modStn_modLink_standing, State.modStn_modServo_standing,
      State.modStn_modSpeed_standing, State.modStn_modWrite_standing, State.modStn_modRecall_standing,
      State.modStn_modCtx_standing, standing_upd, foldl_standing, State.modPort_standing,
      State.eachPort_standing, apply_ite State.standing, ite_self, implies_true]

theorem State.runBack_standing (s : State) (st : Stn) (b : RunBack) : (State.runBack s st b).standing = s.standing := by
  simp only [State.runBack, State.rampTo_standing, Station.modLink_standing, Station.modServo_standing,
      Station.modSpeed_standing, Station.modWrite_standing, Station.modRecall_standing,
      Station.modCtx_standing, Station.standing_upd, State.modStn_standing_upd, State.eachStn_standing,
      apply_ite Station.standing, State.modStn_modLink_standing, State.modStn_modServo_standing,
      State.modStn_modSpeed_standing, State.modStn_modWrite_standing, State.modStn_modRecall_standing,
      State.modStn_modCtx_standing, standing_upd, foldl_standing, State.modPort_standing,
      State.eachPort_standing, apply_ite State.standing, ite_self, implies_true]

theorem State.closeOpen_standing (s : State) (st : Stn) : (State.closeOpen s st).standing = s.standing := by
  simp only [State.closeOpen, State.closeGath_standing, Station.modLink_standing, Station.modServo_standing,
      Station.modSpeed_standing, Station.modWrite_standing, Station.modRecall_standing,
      Station.modCtx_standing, Station.standing_upd, State.modStn_standing_upd, State.eachStn_standing,
      apply_ite Station.standing, State.modStn_modLink_standing, State.modStn_modServo_standing,
      State.modStn_modSpeed_standing, State.modStn_modWrite_standing, State.modStn_modRecall_standing,
      State.modStn_modCtx_standing, standing_upd, foldl_standing, State.modPort_standing,
      State.eachPort_standing, apply_ite State.standing, ite_self, implies_true]

theorem State.runOut_standing (s : State) (st : Stn) : (State.runOut s st).standing = s.standing := by
  simp only [State.runOut, State.unplace_standing, State.closeOpen_standing, Station.modLink_standing,
      Station.modServo_standing, Station.modSpeed_standing, Station.modWrite_standing,
      Station.modRecall_standing, Station.modCtx_standing, Station.standing_upd,
      State.modStn_standing_upd, State.eachStn_standing, apply_ite Station.standing,
      State.modStn_modLink_standing, State.modStn_modServo_standing, State.modStn_modSpeed_standing,
      State.modStn_modWrite_standing, State.modStn_modRecall_standing, State.modStn_modCtx_standing,
      standing_upd, foldl_standing, State.modPort_standing, State.eachPort_standing,
      apply_ite State.standing, ite_self, implies_true]

theorem State.controlledStop_standing (s : State) (st : Stn) : (State.controlledStop s st).standing = s.standing := by
  simp only [State.controlledStop, State.rampTo_standing, State.runOut_standing, Station.modLink_standing,
      Station.modServo_standing, Station.modSpeed_standing, Station.modWrite_standing,
      Station.modRecall_standing, Station.modCtx_standing, Station.standing_upd,
      State.modStn_standing_upd, State.eachStn_standing, apply_ite Station.standing,
      State.modStn_modLink_standing, State.modStn_modServo_standing, State.modStn_modSpeed_standing,
      State.modStn_modWrite_standing, State.modStn_modRecall_standing, State.modStn_modCtx_standing,
      standing_upd, foldl_standing, State.modPort_standing, State.eachPort_standing,
      apply_ite State.standing, ite_self, implies_true]

theorem State.hold__standing (s : State) (st : Stn) : (State.hold_ s st).standing = s.standing := by
  simp only [State.hold_, State.hold_standing, State.voidWriting_standing, Station.modLink_standing,
      Station.modServo_standing, Station.modSpeed_standing, Station.modWrite_standing,
      Station.modRecall_standing, Station.modCtx_standing, Station.standing_upd,
      State.modStn_standing_upd, State.eachStn_standing, apply_ite Station.standing,
      State.modStn_modLink_standing, State.modStn_modServo_standing, State.modStn_modSpeed_standing,
      State.modStn_modWrite_standing, State.modStn_modRecall_standing, State.modStn_modCtx_standing,
      standing_upd, foldl_standing, State.modPort_standing, State.eachPort_standing,
      apply_ite State.standing, ite_self, implies_true]

theorem State.closeLoops_standing (s : State) (st : Stn) : (State.closeLoops s st).standing = s.standing := by
  simp only [State.closeLoops, Station.modLink_standing, Station.modServo_standing, Station.modSpeed_standing,
      Station.modWrite_standing, Station.modRecall_standing, Station.modCtx_standing,
      Station.standing_upd, State.modStn_standing_upd, State.eachStn_standing,
      apply_ite Station.standing, State.modStn_modLink_standing, State.modStn_modServo_standing,
      State.modStn_modSpeed_standing, State.modStn_modWrite_standing, State.modStn_modRecall_standing,
      State.modStn_modCtx_standing, standing_upd, foldl_standing, State.modPort_standing,
      State.eachPort_standing, apply_ite State.standing, ite_self, implies_true]

theorem State.openLoops_standing (s : State) (st : Stn) : (State.openLoops s st).standing = s.standing := by
  simp only [State.openLoops, State.hold_standing, Station.modLink_standing, Station.modServo_standing,
      Station.modSpeed_standing, Station.modWrite_standing, Station.modRecall_standing,
      Station.modCtx_standing, Station.standing_upd, State.modStn_standing_upd, State.eachStn_standing,
      apply_ite Station.standing, State.modStn_modLink_standing, State.modStn_modServo_standing,
      State.modStn_modSpeed_standing, State.modStn_modWrite_standing, State.modStn_modRecall_standing,
      State.modStn_modCtx_standing, standing_upd, foldl_standing, State.modPort_standing,
      State.eachPort_standing, apply_ite State.standing, ite_self, implies_true]

theorem State.stopMigs_standing (s : State) (st : Stn) : (State.stopMigs s st).standing = s.standing := by
  unfold State.stopMigs
  rfl

theorem State.dropWork_standing (s : State) (st : Stn) : (State.dropWork s st).standing = s.standing := by
  simp only [State.dropWork, State.stopMigs_standing, Station.modLink_standing, Station.modServo_standing,
      Station.modSpeed_standing, Station.modWrite_standing, Station.modRecall_standing,
      Station.modCtx_standing, Station.standing_upd, State.modStn_standing_upd, State.eachStn_standing,
      apply_ite Station.standing, State.modStn_modLink_standing, State.modStn_modServo_standing,
      State.modStn_modSpeed_standing, State.modStn_modWrite_standing, State.modStn_modRecall_standing,
      State.modStn_modCtx_standing, standing_upd, foldl_standing, State.modPort_standing,
      State.eachPort_standing, apply_ite State.standing, ite_self, implies_true]

theorem State.failStation_standing (s : State) (st : Stn) : (State.failStation s st).standing = s.standing := by
  simp only [State.failStation, State.finishAll_standing, State.dropWork_standing, Station.modLink_standing,
      Station.modServo_standing, Station.modSpeed_standing, Station.modWrite_standing,
      Station.modRecall_standing, Station.modCtx_standing, Station.standing_upd,
      State.modStn_standing_upd, State.eachStn_standing, apply_ite Station.standing,
      State.modStn_modLink_standing, State.modStn_modServo_standing, State.modStn_modSpeed_standing,
      State.modStn_modWrite_standing, State.modStn_modRecall_standing, State.modStn_modCtx_standing,
      standing_upd, foldl_standing, State.modPort_standing, State.eachPort_standing,
      apply_ite State.standing, ite_self, implies_true]

theorem State.loseLink_standing (s : State) (st : Stn) : (State.loseLink s st).standing = s.standing := by
  simp only [State.loseLink, State.hold__standing, State.failStation_standing, Station.modLink_standing,
      Station.modServo_standing, Station.modSpeed_standing, Station.modWrite_standing,
      Station.modRecall_standing, Station.modCtx_standing, Station.standing_upd,
      State.modStn_standing_upd, State.eachStn_standing, apply_ite Station.standing,
      State.modStn_modLink_standing, State.modStn_modServo_standing, State.modStn_modSpeed_standing,
      State.modStn_modWrite_standing, State.modStn_modRecall_standing, State.modStn_modCtx_standing,
      standing_upd, foldl_standing, State.modPort_standing, State.eachPort_standing,
      apply_ite State.standing, ite_self, implies_true]

theorem State.startAt_standing (s : State) (st : Stn) (i : Nat) : (State.startAt s st i).standing = s.standing := by
  simp only [State.startAt, State.draw_standing, State.rampTo_standing, State.runBack_standing,
      Station.modLink_standing, Station.modServo_standing, Station.modSpeed_standing,
      Station.modWrite_standing, Station.modRecall_standing, Station.modCtx_standing,
      Station.standing_upd, State.modStn_standing_upd, State.eachStn_standing,
      apply_ite Station.standing, State.modStn_modLink_standing, State.modStn_modServo_standing,
      State.modStn_modSpeed_standing, State.modStn_modWrite_standing, State.modStn_modRecall_standing,
      State.modStn_modCtx_standing, standing_upd, foldl_standing, State.modPort_standing,
      State.eachPort_standing, apply_ite State.standing, ite_self, implies_true]

theorem State.stepTo_standing (s : State) (st : Stn) (i : Nat) : (State.stepTo s st i).standing = s.standing := by
  simp only [State.stepTo, State.rampTo_standing, State.runOut_standing, Station.modLink_standing,
      Station.modServo_standing, Station.modSpeed_standing, Station.modWrite_standing,
      Station.modRecall_standing, Station.modCtx_standing, Station.standing_upd,
      State.modStn_standing_upd, State.eachStn_standing, apply_ite Station.standing,
      State.modStn_modLink_standing, State.modStn_modServo_standing, State.modStn_modSpeed_standing,
      State.modStn_modWrite_standing, State.modStn_modRecall_standing, State.modStn_modCtx_standing,
      standing_upd, foldl_standing, State.modPort_standing, State.eachPort_standing,
      apply_ite State.standing, ite_self, implies_true]

theorem State.capDown_standing (s : State) (st : Stn) : (State.capDown s st).standing = s.standing := by
  simp only [State.capDown, State.rampTo_standing, State.stepTo_standing, Station.modLink_standing,
      Station.modServo_standing, Station.modSpeed_standing, Station.modWrite_standing,
      Station.modRecall_standing, Station.modCtx_standing, Station.standing_upd,
      State.modStn_standing_upd, State.eachStn_standing, apply_ite Station.standing,
      State.modStn_modLink_standing, State.modStn_modServo_standing, State.modStn_modSpeed_standing,
      State.modStn_modWrite_standing, State.modStn_modRecall_standing, State.modStn_modCtx_standing,
      standing_upd, foldl_standing, State.modPort_standing, State.eachPort_standing,
      apply_ite State.standing, ite_self, implies_true]

theorem State.speedDecide_standing (s : State) (st : Stn) : (State.speedDecide s st).standing = s.standing := by
  unfold State.speedDecide
  (repeat' split) <;> first
    | with_reducible rfl
    | (simp only [State.controlledStop_standing, State.closeLoops_standing, State.startAt_standing,
      State.stepTo_standing, Station.modLink_standing, Station.modServo_standing,
      Station.modSpeed_standing, Station.modWrite_standing, Station.modRecall_standing,
      Station.modCtx_standing, Station.standing_upd, State.modStn_standing_upd, State.eachStn_standing,
      apply_ite Station.standing, State.modStn_modLink_standing, State.modStn_modServo_standing,
      State.modStn_modSpeed_standing, State.modStn_modWrite_standing, State.modStn_modRecall_standing,
      State.modStn_modCtx_standing, standing_upd, foldl_standing, State.modPort_standing,
      State.eachPort_standing, apply_ite State.standing, ite_self, implies_true]; done)
    | (simp only [State.controlledStop_standing, State.closeLoops_standing, State.startAt_standing,
      State.stepTo_standing, Station.modLink_standing, Station.modServo_standing,
      Station.modSpeed_standing, Station.modWrite_standing, Station.modRecall_standing,
      Station.modCtx_standing, Station.standing_upd, State.modStn_standing_upd, State.eachStn_standing,
      apply_ite Station.standing, State.modStn_modLink_standing, State.modStn_modServo_standing,
      State.modStn_modSpeed_standing, State.modStn_modWrite_standing, State.modStn_modRecall_standing,
      State.modStn_modCtx_standing, standing_upd, foldl_standing, State.modPort_standing,
      State.eachPort_standing, apply_ite State.standing, ite_self, implies_true]
       (repeat' split) <;> first | with_reducible rfl | simp only [State.controlledStop_standing, State.closeLoops_standing, State.startAt_standing,
      State.stepTo_standing, Station.modLink_standing, Station.modServo_standing,
      Station.modSpeed_standing, Station.modWrite_standing, Station.modRecall_standing,
      Station.modCtx_standing, Station.standing_upd, State.modStn_standing_upd, State.eachStn_standing,
      apply_ite Station.standing, State.modStn_modLink_standing, State.modStn_modServo_standing,
      State.modStn_modSpeed_standing, State.modStn_modWrite_standing, State.modStn_modRecall_standing,
      State.modStn_modCtx_standing, standing_upd, foldl_standing, State.modPort_standing,
      State.eachPort_standing, apply_ite State.standing, ite_self, implies_true])

theorem State.finishLosses_standing (s : State) (r : CmdRef) (lost : List Nat) (result : Nat) :
    (State.finishLosses s r lost result).standing = s.standing := by
  unfold State.finishLosses
  (repeat' split) <;> simp only [State.logErr_standing, State.finish_standing, Station.modLink_standing, Station.modServo_standing,
      Station.modSpeed_standing, Station.modWrite_standing, Station.modRecall_standing,
      Station.modCtx_standing, Station.standing_upd, State.modStn_standing_upd, State.eachStn_standing,
      apply_ite Station.standing, State.modStn_modLink_standing, State.modStn_modServo_standing,
      State.modStn_modSpeed_standing, State.modStn_modWrite_standing, State.modStn_modRecall_standing,
      State.modStn_modCtx_standing, standing_upd, foldl_standing, State.modPort_standing,
      State.eachPort_standing, apply_ite State.standing, ite_self, implies_true]

theorem State.finishSealed_standing (s : State) (r : CmdRef) (lost : List Nat) (result : Nat) :
    (State.finishSealed s r lost result).standing = s.standing := by
  simp only [State.finishSealed, State.finish_standing, State.finishLosses_standing, Station.modLink_standing,
      Station.modServo_standing, Station.modSpeed_standing, Station.modWrite_standing,
      Station.modRecall_standing, Station.modCtx_standing, Station.standing_upd,
      State.modStn_standing_upd, State.eachStn_standing, apply_ite Station.standing,
      State.modStn_modLink_standing, State.modStn_modServo_standing, State.modStn_modSpeed_standing,
      State.modStn_modWrite_standing, State.modStn_modRecall_standing, State.modStn_modCtx_standing,
      standing_upd, foldl_standing, State.modPort_standing, State.eachPort_standing,
      apply_ite State.standing, ite_self, implies_true]

theorem State.freePool_standing (s : State) (st : Stn) (p : Fin 5) : (State.freePool s st p).standing = s.standing := by
  simp only [State.freePool, State.returnBuf_standing, Station.modLink_standing, Station.modServo_standing,
      Station.modSpeed_standing, Station.modWrite_standing, Station.modRecall_standing,
      Station.modCtx_standing, Station.standing_upd, State.modStn_standing_upd, State.eachStn_standing,
      apply_ite Station.standing, State.modStn_modLink_standing, State.modStn_modServo_standing,
      State.modStn_modSpeed_standing, State.modStn_modWrite_standing, State.modStn_modRecall_standing,
      State.modStn_modCtx_standing, standing_upd, foldl_standing, State.modPort_standing,
      State.eachPort_standing, apply_ite State.standing, ite_self, implies_true]

theorem State.freeSpent_standing (s : State) (st : Stn) : (State.freeSpent s st).standing = s.standing := by
  simp only [State.freeSpent, State.grantsGo_standing, State.freePool_standing, Station.modLink_standing,
      Station.modServo_standing, Station.modSpeed_standing, Station.modWrite_standing,
      Station.modRecall_standing, Station.modCtx_standing, Station.standing_upd,
      State.modStn_standing_upd, State.eachStn_standing, apply_ite Station.standing,
      State.modStn_modLink_standing, State.modStn_modServo_standing, State.modStn_modSpeed_standing,
      State.modStn_modWrite_standing, State.modStn_modRecall_standing, State.modStn_modCtx_standing,
      standing_upd, foldl_standing, State.modPort_standing, State.eachPort_standing,
      apply_ite State.standing, ite_self, implies_true]

theorem State.dismount_standing (s : State) (st : Stn) : (State.dismount s st).standing = s.standing := by
  simp only [State.dismount, State.freeSpent_standing, Station.modLink_standing, Station.modServo_standing,
      Station.modSpeed_standing, Station.modWrite_standing, Station.modRecall_standing,
      Station.modCtx_standing, Station.standing_upd, State.modStn_standing_upd, State.eachStn_standing,
      apply_ite Station.standing, State.modStn_modLink_standing, State.modStn_modServo_standing,
      State.modStn_modSpeed_standing, State.modStn_modWrite_standing, State.modStn_modRecall_standing,
      State.modStn_modCtx_standing, standing_upd, foldl_standing, State.modPort_standing,
      State.eachPort_standing, apply_ite State.standing, ite_self, implies_true]

theorem State.openStation_standing (s : State) (st : Stn) : (State.openStation s st).standing = s.standing := by
  unfold State.openStation
  (repeat' split) <;> first
    | with_reducible rfl
    | (simp only [State.finish_standing, State.hold_standing, State.controlledStop_standing,
      State.openLoops_standing, State.dismount_standing, Station.modLink_standing,
      Station.modServo_standing, Station.modSpeed_standing, Station.modWrite_standing,
      Station.modRecall_standing, Station.modCtx_standing, Station.standing_upd,
      State.modStn_standing_upd, State.eachStn_standing, apply_ite Station.standing,
      State.modStn_modLink_standing, State.modStn_modServo_standing, State.modStn_modSpeed_standing,
      State.modStn_modWrite_standing, State.modStn_modRecall_standing, State.modStn_modCtx_standing,
      standing_upd, foldl_standing, State.modPort_standing, State.eachPort_standing,
      apply_ite State.standing, ite_self, implies_true]; done)
    | (simp only [State.finish_standing, State.hold_standing, State.controlledStop_standing,
      State.openLoops_standing, State.dismount_standing, Station.modLink_standing,
      Station.modServo_standing, Station.modSpeed_standing, Station.modWrite_standing,
      Station.modRecall_standing, Station.modCtx_standing, Station.standing_upd,
      State.modStn_standing_upd, State.eachStn_standing, apply_ite Station.standing,
      State.modStn_modLink_standing, State.modStn_modServo_standing, State.modStn_modSpeed_standing,
      State.modStn_modWrite_standing, State.modStn_modRecall_standing, State.modStn_modCtx_standing,
      standing_upd, foldl_standing, State.modPort_standing, State.eachPort_standing,
      apply_ite State.standing, ite_self, implies_true]
       (repeat' split) <;> first | with_reducible rfl | simp only [State.finish_standing, State.hold_standing, State.controlledStop_standing,
      State.openLoops_standing, State.dismount_standing, Station.modLink_standing,
      Station.modServo_standing, Station.modSpeed_standing, Station.modWrite_standing,
      Station.modRecall_standing, Station.modCtx_standing, Station.standing_upd,
      State.modStn_standing_upd, State.eachStn_standing, apply_ite Station.standing,
      State.modStn_modLink_standing, State.modStn_modServo_standing, State.modStn_modSpeed_standing,
      State.modStn_modWrite_standing, State.modStn_modRecall_standing, State.modStn_modCtx_standing,
      standing_upd, foldl_standing, State.modPort_standing, State.eachPort_standing,
      apply_ite State.standing, ite_self, implies_true])

theorem State.endMig_standing (s : State) (j : MigJob) (nrec : Nat) : (State.endMig s j nrec).standing = s.standing := by
  unfold State.endMig
  (repeat' split) <;> simp only [State.finishWith_standing, Station.modLink_standing, Station.modServo_standing,
      Station.modSpeed_standing, Station.modWrite_standing, Station.modRecall_standing,
      Station.modCtx_standing, Station.standing_upd, State.modStn_standing_upd, State.eachStn_standing,
      apply_ite Station.standing, State.modStn_modLink_standing, State.modStn_modServo_standing,
      State.modStn_modSpeed_standing, State.modStn_modWrite_standing, State.modStn_modRecall_standing,
      State.modStn_modCtx_standing, standing_upd, foldl_standing, State.modPort_standing,
      State.eachPort_standing, apply_ite State.standing, ite_self, implies_true]

theorem State.wantTape_standing (s : State) (st : Stn) : (State.wantTape s st).standing = s.standing := by
  simp only [State.wantTape, State.closeLoops_standing, Station.modLink_standing, Station.modServo_standing,
      Station.modSpeed_standing, Station.modWrite_standing, Station.modRecall_standing,
      Station.modCtx_standing, Station.standing_upd, State.modStn_standing_upd, State.eachStn_standing,
      apply_ite Station.standing, State.modStn_modLink_standing, State.modStn_modServo_standing,
      State.modStn_modSpeed_standing, State.modStn_modWrite_standing, State.modStn_modRecall_standing,
      State.modStn_modCtx_standing, standing_upd, foldl_standing, State.modPort_standing,
      State.eachPort_standing, apply_ite State.standing, ite_self, implies_true]

theorem State.verifyOver_standing (s : State) (r : CmdRef) : (State.verifyOver s r).standing = s.standing := by
  unfold State.verifyOver
  (repeat' split) <;> simp only [State.finishWith_standing, Station.modLink_standing, Station.modServo_standing,
      Station.modSpeed_standing, Station.modWrite_standing, Station.modRecall_standing,
      Station.modCtx_standing, Station.standing_upd, State.modStn_standing_upd, State.eachStn_standing,
      apply_ite Station.standing, State.modStn_modLink_standing, State.modStn_modServo_standing,
      State.modStn_modSpeed_standing, State.modStn_modWrite_standing, State.modStn_modRecall_standing,
      State.modStn_modCtx_standing, standing_upd, foldl_standing, State.modPort_standing,
      State.eachPort_standing, apply_ite State.standing, ite_self, implies_true]

theorem State.verifyRec_standing (s : State) (r : CmdRef) (lon : Nat) (f : Ending) (hash : List Byte) :
    (State.verifyRec s r lon f hash).standing = s.standing := by
  unfold State.verifyRec
  (repeat' split) <;> simp only [State.modCmd_standing, State.logErr_standing, State.sendData_standing, State.take_standing,
      State.verifyOver_standing, Station.modLink_standing, Station.modServo_standing,
      Station.modSpeed_standing, Station.modWrite_standing, Station.modRecall_standing,
      Station.modCtx_standing, Station.standing_upd, State.modStn_standing_upd, State.eachStn_standing,
      apply_ite Station.standing, State.modStn_modLink_standing, State.modStn_modServo_standing,
      State.modStn_modSpeed_standing, State.modStn_modWrite_standing, State.modStn_modRecall_standing,
      State.modStn_modCtx_standing, standing_upd, foldl_standing, State.modPort_standing,
      State.eachPort_standing, apply_ite State.standing, ite_self, implies_true]

theorem State.verifyNext_standing (s : State) (r : CmdRef) (n : Nat) : (State.verifyNext s r n).standing = s.standing := by
  induction n generalizing s with
  | zero => rfl
  | succ n ih =>
    unfold State.verifyNext
    simp only []
    (repeat' split) <;> first | rfl | (rw [ih, State.verifyRec_standing])

theorem State.goReader_standing (s : State) (r : CmdRef) : (State.goReader s r).standing = s.standing := by
  unfold State.goReader
  (repeat' split) <;> first
    | with_reducible rfl
    | (simp only [State.modCmd_standing, State.finish_standing, State.wantTape_standing, State.verifyNext_standing,
      Station.modLink_standing, Station.modServo_standing, Station.modSpeed_standing,
      Station.modWrite_standing, Station.modRecall_standing, Station.modCtx_standing,
      Station.standing_upd, State.modStn_standing_upd, State.eachStn_standing,
      apply_ite Station.standing, State.modStn_modLink_standing, State.modStn_modServo_standing,
      State.modStn_modSpeed_standing, State.modStn_modWrite_standing, State.modStn_modRecall_standing,
      State.modStn_modCtx_standing, standing_upd, foldl_standing, State.modPort_standing,
      State.eachPort_standing, apply_ite State.standing, ite_self, implies_true]; done)
    | (simp only [State.modCmd_standing, State.finish_standing, State.wantTape_standing, State.verifyNext_standing,
      Station.modLink_standing, Station.modServo_standing, Station.modSpeed_standing,
      Station.modWrite_standing, Station.modRecall_standing, Station.modCtx_standing,
      Station.standing_upd, State.modStn_standing_upd, State.eachStn_standing,
      apply_ite Station.standing, State.modStn_modLink_standing, State.modStn_modServo_standing,
      State.modStn_modSpeed_standing, State.modStn_modWrite_standing, State.modStn_modRecall_standing,
      State.modStn_modCtx_standing, standing_upd, foldl_standing, State.modPort_standing,
      State.eachPort_standing, apply_ite State.standing, ite_self, implies_true]
       (repeat' split) <;> first | with_reducible rfl | simp only [State.modCmd_standing, State.finish_standing, State.wantTape_standing, State.verifyNext_standing,
      Station.modLink_standing, Station.modServo_standing, Station.modSpeed_standing,
      Station.modWrite_standing, Station.modRecall_standing, Station.modCtx_standing,
      Station.standing_upd, State.modStn_standing_upd, State.eachStn_standing,
      apply_ite Station.standing, State.modStn_modLink_standing, State.modStn_modServo_standing,
      State.modStn_modSpeed_standing, State.modStn_modWrite_standing, State.modStn_modRecall_standing,
      State.modStn_modCtx_standing, standing_upd, foldl_standing, State.modPort_standing,
      State.eachPort_standing, apply_ite State.standing, ite_self, implies_true])

theorem State.readerGo_standing (s : State) (r : CmdRef) (lost : List Nat) :
    (State.readerGo s r lost).standing = s.standing := by
  unfold State.readerGo
  (repeat' split) <;> simp only [State.finish_standing, State.goReader_standing, Station.modLink_standing,
      Station.modServo_standing, Station.modSpeed_standing, Station.modWrite_standing,
      Station.modRecall_standing, Station.modCtx_standing, Station.standing_upd,
      State.modStn_standing_upd, State.eachStn_standing, apply_ite Station.standing,
      State.modStn_modLink_standing, State.modStn_modServo_standing, State.modStn_modSpeed_standing,
      State.modStn_modWrite_standing, State.modStn_modRecall_standing, State.modStn_modCtx_standing,
      standing_upd, foldl_standing, State.modPort_standing, State.eachPort_standing,
      apply_ite State.standing, ite_self, implies_true]

theorem State.flushDone_standing (s : State) (st : Stn) (j : FlushJob) : (State.flushDone s st j).standing = s.standing := by
  unfold State.flushDone
  (repeat' split) <;> simp only [State.modCmd_standing, State.finishLosses_standing, State.openStation_standing,
      State.endMig_standing, State.readerGo_standing, Station.modLink_standing,
      Station.modServo_standing, Station.modSpeed_standing, Station.modWrite_standing,
      Station.modRecall_standing, Station.modCtx_standing, Station.standing_upd,
      State.modStn_standing_upd, State.eachStn_standing, apply_ite Station.standing,
      State.modStn_modLink_standing, State.modStn_modServo_standing, State.modStn_modSpeed_standing,
      State.modStn_modWrite_standing, State.modStn_modRecall_standing, State.modStn_modCtx_standing,
      standing_upd, foldl_standing, State.modPort_standing, State.eachPort_standing,
      apply_ite State.standing, ite_self, implies_true]

theorem State.flushesDone_standing (s : State) (st : Stn) (n : Nat) : (State.flushesDone s st n).standing = s.standing := by
  induction n generalizing s with
  | zero => rfl
  | succ n ih =>
    unfold State.flushesDone
    simp only []
    (repeat' split) <;> first
      | rfl
      | exact (ih _).trans ((State.flushDone_standing ..).trans (State.modStn_standing _ _ _ (by exact fun _ => rfl)))

theorem State.flushSealed_standing (s : State) (st : Stn) (lost : List Nat) (j : FlushJob) :
    (State.flushSealed s st lost j).standing = s.standing := by
  unfold State.flushSealed
  (repeat' split) <;> simp only [State.modCmd_standing, State.finishSealed_standing, State.openStation_standing,
      State.readerGo_standing, Station.modLink_standing, Station.modServo_standing,
      Station.modSpeed_standing, Station.modWrite_standing, Station.modRecall_standing,
      Station.modCtx_standing, Station.standing_upd, State.modStn_standing_upd, State.eachStn_standing,
      apply_ite Station.standing, State.modStn_modLink_standing, State.modStn_modServo_standing,
      State.modStn_modSpeed_standing, State.modStn_modWrite_standing, State.modStn_modRecall_standing,
      State.modStn_modCtx_standing, standing_upd, foldl_standing, State.modPort_standing,
      State.eachPort_standing, apply_ite State.standing, ite_self, implies_true]

theorem State.closed_standing (s : State) (st : Stn) (v : VolCtx) : (State.closed s st v).standing = s.standing := by
  unfold State.closed
  (repeat' split) <;> simp only [State.finish_standing, State.controlledStop_standing, State.finishSealed_standing,
      State.endMig_standing, State.flushSealed_standing, Station.modLink_standing,
      Station.modServo_standing, Station.modSpeed_standing, Station.modWrite_standing,
      Station.modRecall_standing, Station.modCtx_standing, Station.standing_upd,
      State.modStn_standing_upd, State.eachStn_standing, apply_ite Station.standing,
      State.modStn_modLink_standing, State.modStn_modServo_standing, State.modStn_modSpeed_standing,
      State.modStn_modWrite_standing, State.modStn_modRecall_standing, State.modStn_modCtx_standing,
      standing_upd, foldl_standing, State.modPort_standing, State.eachPort_standing,
      apply_ite State.standing, ite_self, implies_true]

theorem State.closureFailed_standing (s : State) (st : Stn) : (State.closureFailed s st).standing = s.standing := by
  simp only [State.closureFailed, State.raise_standing, State.controlledStop_standing,
      State.failStation_standing, Station.modLink_standing, Station.modServo_standing,
      Station.modSpeed_standing, Station.modWrite_standing, Station.modRecall_standing,
      Station.modCtx_standing, Station.standing_upd, State.modStn_standing_upd, State.eachStn_standing,
      apply_ite Station.standing, State.modStn_modLink_standing, State.modStn_modServo_standing,
      State.modStn_modSpeed_standing, State.modStn_modWrite_standing, State.modStn_modRecall_standing,
      State.modStn_modCtx_standing, standing_upd, foldl_standing, State.modPort_standing,
      State.eachPort_standing, apply_ite State.standing, ite_self, implies_true]

theorem State.unsigned_standing (s : State) (st : Stn) (v : VolCtx) : (State.unsigned s st v).standing = s.standing := by
  unfold State.unsigned
  (repeat' split) <;> simp only [State.finish_standing, State.endMig_standing, State.closureFailed_standing,
      Station.modLink_standing, Station.modServo_standing, Station.modSpeed_standing,
      Station.modWrite_standing, Station.modRecall_standing, Station.modCtx_standing,
      Station.standing_upd, State.modStn_standing_upd, State.eachStn_standing,
      apply_ite Station.standing, State.modStn_modLink_standing, State.modStn_modServo_standing,
      State.modStn_modSpeed_standing, State.modStn_modWrite_standing, State.modStn_modRecall_standing,
      State.modStn_modCtx_standing, standing_upd, foldl_standing, State.modPort_standing,
      State.eachPort_standing, apply_ite State.standing, ite_self, implies_true]

theorem State.closeOnce_standing (s : State) (st : Stn) (t : State) (h : State.closeOnce s st = some t) :
    t.standing = s.standing := by
  unfold State.closeOnce at h
  simp only [] at h
  (repeat' split at h) <;> first | (cases h; done) | (cases h; simp only [State.drawBytes_standing, State.compose_standing, State.composeEndpaper_standing,
      State.composeSpines_standing, State.closed_standing, State.unsigned_standing,
      Station.modLink_standing, Station.modServo_standing, Station.modSpeed_standing,
      Station.modWrite_standing, Station.modRecall_standing, Station.modCtx_standing,
      Station.standing_upd, State.modStn_standing_upd, State.eachStn_standing,
      apply_ite Station.standing, State.modStn_modLink_standing, State.modStn_modServo_standing,
      State.modStn_modSpeed_standing, State.modStn_modWrite_standing, State.modStn_modRecall_standing,
      State.modStn_modCtx_standing, standing_upd, foldl_standing, State.modPort_standing,
      State.eachPort_standing, apply_ite State.standing, ite_self, implies_true])

theorem State.closeAll_standing (s : State) (st : Stn) (n : Nat) : (State.closeAll s st n).standing = s.standing := by
  induction n generalizing s with
  | zero => rfl
  | succ n ih =>
    unfold State.closeAll
    split
    · exact (ih _).trans (State.closeOnce_standing _ _ _ ‹_›)
    · rfl

theorem State.settle_standing (s : State) (st : Stn) : (State.settle s st).standing = s.standing := by
  simp only [State.settle, State.assembleAll_standing, State.freeSpent_standing, State.flushesDone_standing,
      State.closeAll_standing, Station.modLink_standing, Station.modServo_standing,
      Station.modSpeed_standing, Station.modWrite_standing, Station.modRecall_standing,
      Station.modCtx_standing, Station.standing_upd, State.modStn_standing_upd, State.eachStn_standing,
      apply_ite Station.standing, State.modStn_modLink_standing, State.modStn_modServo_standing,
      State.modStn_modSpeed_standing, State.modStn_modWrite_standing, State.modStn_modRecall_standing,
      State.modStn_modCtx_standing, standing_upd, foldl_standing, State.modPort_standing,
      State.eachPort_standing, apply_ite State.standing, ite_self, implies_true]

theorem State.writeFault_standing (s : State) (st : Stn) : (State.writeFault s st).standing = s.standing := by
  unfold State.writeFault
  split
  · rfl
  · split
    · exact State.closureFailed_standing ..
    · dsimp only
      refine (State.settle_standing ..).trans ?_
      generalize hx : (State.dropJobs _ _) = x
      have h0 : x.standing = s.standing := by
        rw [← hx, State.dropJobs_standing, State.dropLost_standing, State.modStn_standing _ _ _ Station.dropColophon_standing,
          State.burnFrom_standing]
        exact (State.modStn_standing _ _ _ (by exact fun _ => rfl)).trans (State.raise_standing ..)
      clear hx
      generalize hy : (x.modStn st _) = y
      have h1 : y.standing = s.standing := by
        rw [← hy]
        refine (State.modStn_standing _ _ _ (fun t => ?_)).trans h0
        (repeat' split) <;> rfl
      clear hy
      split
      · exact (State.modStn_standing _ _ _ (by exact fun _ => rfl)).trans ((State.finish_standing ..).trans h1)
      · exact h1

theorem State.trackDied_standing (s : State) (st : Stn) (t : Track) : (State.trackDied s st t).standing = s.standing := by
  unfold State.trackDied
  (repeat' split) <;> first
    | with_reducible rfl
    | (simp only [State.raise_standing, State.closureFailed_standing, State.writeFault_standing,
      Station.modLink_standing, Station.modServo_standing, Station.modSpeed_standing,
      Station.modWrite_standing, Station.modRecall_standing, Station.modCtx_standing,
      Station.standing_upd, State.modStn_standing_upd, State.eachStn_standing,
      apply_ite Station.standing, State.modStn_modLink_standing, State.modStn_modServo_standing,
      State.modStn_modSpeed_standing, State.modStn_modWrite_standing, State.modStn_modRecall_standing,
      State.modStn_modCtx_standing, standing_upd, foldl_standing, State.modPort_standing,
      State.eachPort_standing, apply_ite State.standing, ite_self, implies_true]; done)
    | (simp only [State.raise_standing, State.closureFailed_standing, State.writeFault_standing,
      Station.modLink_standing, Station.modServo_standing, Station.modSpeed_standing,
      Station.modWrite_standing, Station.modRecall_standing, Station.modCtx_standing,
      Station.standing_upd, State.modStn_standing_upd, State.eachStn_standing,
      apply_ite Station.standing, State.modStn_modLink_standing, State.modStn_modServo_standing,
      State.modStn_modSpeed_standing, State.modStn_modWrite_standing, State.modStn_modRecall_standing,
      State.modStn_modCtx_standing, standing_upd, foldl_standing, State.modPort_standing,
      State.eachPort_standing, apply_ite State.standing, ite_self, implies_true]
       (repeat' split) <;> first | with_reducible rfl | simp only [State.raise_standing, State.closureFailed_standing, State.writeFault_standing,
      Station.modLink_standing, Station.modServo_standing, Station.modSpeed_standing,
      Station.modWrite_standing, Station.modRecall_standing, Station.modCtx_standing,
      Station.standing_upd, State.modStn_standing_upd, State.eachStn_standing,
      apply_ite Station.standing, State.modStn_modLink_standing, State.modStn_modServo_standing,
      State.modStn_modSpeed_standing, State.modStn_modWrite_standing, State.modStn_modRecall_standing,
      State.modStn_modCtx_standing, standing_upd, foldl_standing, State.modPort_standing,
      State.eachPort_standing, apply_ite State.standing, ite_self, implies_true])

theorem State.grade_standing (s : State) (st : Stn) (seq : Nat) (track : Track) (g : Grade) :
    (State.grade s st seq track g).standing = s.standing := by
  unfold State.grade
  (repeat' split) <;> simp only [State.trackDied_standing, Station.modLink_standing, Station.modServo_standing,
      Station.modSpeed_standing, Station.modWrite_standing, Station.modRecall_standing,
      Station.modCtx_standing, Station.standing_upd, State.modStn_standing_upd, State.eachStn_standing,
      apply_ite Station.standing, State.modStn_modLink_standing, State.modStn_modServo_standing,
      State.modStn_modSpeed_standing, State.modStn_modWrite_standing, State.modStn_modRecall_standing,
      State.modStn_modCtx_standing, standing_upd, foldl_standing, State.modPort_standing,
      State.eachPort_standing, apply_ite State.standing, ite_self, implies_true]

theorem State.regrade_standing (s : State) (x : Regrade) : (State.regrade s x).standing = s.standing := by
  unfold State.regrade
  (repeat' split) <;> first
    | with_reducible rfl
    | (simp only [State.grade_standing, Station.modLink_standing, Station.modServo_standing,
      Station.modSpeed_standing, Station.modWrite_standing, Station.modRecall_standing,
      Station.modCtx_standing, Station.standing_upd, State.modStn_standing_upd, State.eachStn_standing,
      apply_ite Station.standing, State.modStn_modLink_standing, State.modStn_modServo_standing,
      State.modStn_modSpeed_standing, State.modStn_modWrite_standing, State.modStn_modRecall_standing,
      State.modStn_modCtx_standing, standing_upd, foldl_standing, State.modPort_standing,
      State.eachPort_standing, apply_ite State.standing, ite_self, implies_true]; done)
    | (simp only [State.grade_standing, Station.modLink_standing, Station.modServo_standing,
      Station.modSpeed_standing, Station.modWrite_standing, Station.modRecall_standing,
      Station.modCtx_standing, Station.standing_upd, State.modStn_standing_upd, State.eachStn_standing,
      apply_ite Station.standing, State.modStn_modLink_standing, State.modStn_modServo_standing,
      State.modStn_modSpeed_standing, State.modStn_modWrite_standing, State.modStn_modRecall_standing,
      State.modStn_modCtx_standing, standing_upd, foldl_standing, State.modPort_standing,
      State.eachPort_standing, apply_ite State.standing, ite_self, implies_true]
       (repeat' split) <;> first | with_reducible rfl | simp only [State.grade_standing, Station.modLink_standing, Station.modServo_standing,
      Station.modSpeed_standing, Station.modWrite_standing, Station.modRecall_standing,
      Station.modCtx_standing, Station.standing_upd, State.modStn_standing_upd, State.eachStn_standing,
      apply_ite Station.standing, State.modStn_modLink_standing, State.modStn_modServo_standing,
      State.modStn_modSpeed_standing, State.modStn_modWrite_standing, State.modStn_modRecall_standing,
      State.modStn_modCtx_standing, standing_upd, foldl_standing, State.modPort_standing,
      State.eachPort_standing, apply_ite State.standing, ite_self, implies_true])

theorem State.madeVolume_standing (s : State) (st : Stn) (c : CmdRef) (volid : List Byte) :
    (State.madeVolume s st c volid).standing = s.standing := by
  unfold State.madeVolume
  (repeat' split) <;> simp only [State.finishWith_standing, State.wantTape_standing, Station.modLink_standing,
      Station.modServo_standing, Station.modSpeed_standing, Station.modWrite_standing,
      Station.modRecall_standing, Station.modCtx_standing, Station.standing_upd,
      State.modStn_standing_upd, State.eachStn_standing, apply_ite Station.standing,
      State.modStn_modLink_standing, State.modStn_modServo_standing, State.modStn_modSpeed_standing,
      State.modStn_modWrite_standing, State.modStn_modRecall_standing, State.modStn_modCtx_standing,
      standing_upd, foldl_standing, State.modPort_standing, State.eachPort_standing,
      apply_ite State.standing, ite_self, implies_true]

theorem State.acceptGath_standing (s : State) (st : Stn) (g : Gath) : (State.acceptGath s st g).standing = s.standing := by
  unfold State.acceptGath
  dsimp only
  generalize hx : (s.modStn st _) = x
  have hs : x.standing = s.standing := by
    subst hx
    exact State.modStn_standing _ _ _ (fun t => by
      (repeat' split) <;> rfl)
  (repeat' split) <;> first
    | exact hs
    | exact (State.settle_standing ..).trans hs
    | exact (State.settle_standing ..).trans ((State.modStn_standing _ _ _ (by exact fun _ => rfl)).trans ((State.madeVolume_standing ..).trans hs))

theorem State.rejectGath_standing (s : State) (st : Stn) (g : Gath) : (State.rejectGath s st g).standing = s.standing := by
  unfold State.rejectGath
  (repeat' split) <;> simp only [State.closureFailed_standing, State.settle_standing, State.writeFault_standing,
      Station.modLink_standing, Station.modServo_standing, Station.modSpeed_standing,
      Station.modWrite_standing, Station.modRecall_standing, Station.modCtx_standing,
      Station.standing_upd, State.modStn_standing_upd, State.eachStn_standing,
      apply_ite Station.standing, State.modStn_modLink_standing, State.modStn_modServo_standing,
      State.modStn_modSpeed_standing, State.modStn_modWrite_standing, State.modStn_modRecall_standing,
      State.modStn_modCtx_standing, standing_upd, foldl_standing, State.modPort_standing,
      State.eachPort_standing, apply_ite State.standing, ite_self, implies_true]

theorem State.acceptance_standing (s : State) (st : Stn) (gnum : Nat) :
    (State.acceptance s st gnum).standing = s.standing := by
  unfold State.acceptance
  (repeat' split) <;> first
    | with_reducible rfl
    | (simp only [State.acceptGath_standing, State.rejectGath_standing, Station.modLink_standing,
      Station.modServo_standing, Station.modSpeed_standing, Station.modWrite_standing,
      Station.modRecall_standing, Station.modCtx_standing, Station.standing_upd,
      State.modStn_standing_upd, State.eachStn_standing, apply_ite Station.standing,
      State.modStn_modLink_standing, State.modStn_modServo_standing, State.modStn_modSpeed_standing,
      State.modStn_modWrite_standing, State.modStn_modRecall_standing, State.modStn_modCtx_standing,
      standing_upd, foldl_standing, State.modPort_standing, State.eachPort_standing,
      apply_ite State.standing, ite_self, implies_true]; done)
    | (simp only [State.acceptGath_standing, State.rejectGath_standing, Station.modLink_standing,
      Station.modServo_standing, Station.modSpeed_standing, Station.modWrite_standing,
      Station.modRecall_standing, Station.modCtx_standing, Station.standing_upd,
      State.modStn_standing_upd, State.eachStn_standing, apply_ite Station.standing,
      State.modStn_modLink_standing, State.modStn_modServo_standing, State.modStn_modSpeed_standing,
      State.modStn_modWrite_standing, State.modStn_modRecall_standing, State.modStn_modCtx_standing,
      standing_upd, foldl_standing, State.modPort_standing, State.eachPort_standing,
      apply_ite State.standing, ite_self, implies_true]
       (repeat' split) <;> first | with_reducible rfl | simp only [State.acceptGath_standing, State.rejectGath_standing, Station.modLink_standing,
      Station.modServo_standing, Station.modSpeed_standing, Station.modWrite_standing,
      Station.modRecall_standing, Station.modCtx_standing, Station.standing_upd,
      State.modStn_standing_upd, State.eachStn_standing, apply_ite Station.standing,
      State.modStn_modLink_standing, State.modStn_modServo_standing, State.modStn_modSpeed_standing,
      State.modStn_modWrite_standing, State.modStn_modRecall_standing, State.modStn_modCtx_standing,
      standing_upd, foldl_standing, State.modPort_standing, State.eachPort_standing,
      apply_ite State.standing, ite_self, implies_true])

theorem State.count_standing (s : State) (st : Stn) (track : Nat) (kinds : List Nat) :
    (State.count s st track kinds).standing = s.standing := by
  simp only [State.count, Station.modLink_standing, Station.modServo_standing, Station.modSpeed_standing,
      Station.modWrite_standing, Station.modRecall_standing, Station.modCtx_standing,
      Station.standing_upd, State.modStn_standing_upd, State.eachStn_standing,
      apply_ite Station.standing, State.modStn_modLink_standing, State.modStn_modServo_standing,
      State.modStn_modSpeed_standing, State.modStn_modWrite_standing, State.modStn_modRecall_standing,
      State.modStn_modCtx_standing, standing_upd, foldl_standing, State.modPort_standing,
      State.eachPort_standing, apply_ite State.standing, ite_self, implies_true]

theorem State.readOver_standing (s : State) (st : Stn) (ord num : Nat) :
    (State.readOver s st ord num).standing = s.standing := by
  simp only [State.readOver, State.controlledStop_standing, Station.modLink_standing, Station.modServo_standing,
      Station.modSpeed_standing, Station.modWrite_standing, Station.modRecall_standing,
      Station.modCtx_standing, Station.standing_upd, State.modStn_standing_upd, State.eachStn_standing,
      apply_ite Station.standing, State.modStn_modLink_standing, State.modStn_modServo_standing,
      State.modStn_modSpeed_standing, State.modStn_modWrite_standing, State.modStn_modRecall_standing,
      State.modStn_modCtx_standing, standing_upd, foldl_standing, State.modPort_standing,
      State.eachPort_standing, apply_ite State.standing, ite_self, implies_true]

theorem State.tailRead_standing (s : State) (st : Stn) (p : RxPos) (low i : Nat) : (State.tailRead s st p low i).standing = s.standing := by
  unfold State.tailRead
  exact State.modStn_standing _ _ _ (fun t => by split <;> rfl)

theorem State.gathRow_standing (s : State) (st : Stn) (p : RxPos) (gnum : Nat) (kind : GKind) (i : Nat) (t : Track) (syms : List Nat) (r : RRow) :
    (State.gathRow s st p gnum kind i t syms r).standing = s.standing := by
  simp only [State.gathRow, State.readOver_standing, Station.modLink_standing, Station.modServo_standing,
      Station.modSpeed_standing, Station.modWrite_standing, Station.modRecall_standing,
      Station.modCtx_standing, Station.standing_upd, State.modStn_standing_upd, State.eachStn_standing,
      apply_ite Station.standing, State.modStn_modLink_standing, State.modStn_modServo_standing,
      State.modStn_modSpeed_standing, State.modStn_modWrite_standing, State.modStn_modRecall_standing,
      State.modStn_modCtx_standing, standing_upd, foldl_standing, State.modPort_standing,
      State.eachPort_standing, apply_ite State.standing, ite_self, implies_true]

theorem State.recallRow_standing (s : State) (st : Stn) (p : RxPos) (t : Track) (syms : List Nat) (load : Nat) (id : Option RowId) :
    (State.recallRow s st p t syms load id).standing = s.standing := by
  unfold State.recallRow
  (repeat' split) <;> first
    | with_reducible rfl
    | (simp only [State.raise_standing, State.tailRead_standing, State.gathRow_standing, Station.modLink_standing,
      Station.modServo_standing, Station.modSpeed_standing, Station.modWrite_standing,
      Station.modRecall_standing, Station.modCtx_standing, Station.standing_upd,
      State.modStn_standing_upd, State.eachStn_standing, apply_ite Station.standing,
      State.modStn_modLink_standing, State.modStn_modServo_standing, State.modStn_modSpeed_standing,
      State.modStn_modWrite_standing, State.modStn_modRecall_standing, State.modStn_modCtx_standing,
      standing_upd, foldl_standing, State.modPort_standing, State.eachPort_standing,
      apply_ite State.standing, ite_self, implies_true]; done)
    | (simp only [State.raise_standing, State.tailRead_standing, State.gathRow_standing, Station.modLink_standing,
      Station.modServo_standing, Station.modSpeed_standing, Station.modWrite_standing,
      Station.modRecall_standing, Station.modCtx_standing, Station.standing_upd,
      State.modStn_standing_upd, State.eachStn_standing, apply_ite Station.standing,
      State.modStn_modLink_standing, State.modStn_modServo_standing, State.modStn_modSpeed_standing,
      State.modStn_modWrite_standing, State.modStn_modRecall_standing, State.modStn_modCtx_standing,
      standing_upd, foldl_standing, State.modPort_standing, State.eachPort_standing,
      apply_ite State.standing, ite_self, implies_true]
       (repeat' split) <;> first | with_reducible rfl | simp only [State.raise_standing, State.tailRead_standing, State.gathRow_standing, Station.modLink_standing,
      Station.modServo_standing, Station.modSpeed_standing, Station.modWrite_standing,
      Station.modRecall_standing, Station.modCtx_standing, Station.standing_upd,
      State.modStn_standing_upd, State.eachStn_standing, apply_ite Station.standing,
      State.modStn_modLink_standing, State.modStn_modServo_standing, State.modStn_modSpeed_standing,
      State.modStn_modWrite_standing, State.modStn_modRecall_standing, State.modStn_modCtx_standing,
      standing_upd, foldl_standing, State.modPort_standing, State.eachPort_standing,
      apply_ite State.standing, ite_self, implies_true])

theorem State.tailOver_standing (s : State) (st : Stn) : (State.tailOver s st).standing = s.standing := by
  simp only [State.tailOver, State.controlledStop_standing, Station.modLink_standing, Station.modServo_standing,
      Station.modSpeed_standing, Station.modWrite_standing, Station.modRecall_standing,
      Station.modCtx_standing, Station.standing_upd, State.modStn_standing_upd, State.eachStn_standing,
      apply_ite Station.standing, State.modStn_modLink_standing, State.modStn_modServo_standing,
      State.modStn_modSpeed_standing, State.modStn_modWrite_standing, State.modStn_modRecall_standing,
      State.modStn_modCtx_standing, standing_upd, foldl_standing, State.modPort_standing,
      State.eachPort_standing, apply_ite State.standing, ite_self, implies_true]

theorem State.rowDone_standing (s : State) (st : Stn) (pos : Nat) (t : Track) (o : RowOut) (rung : Nat) :
    (State.rowDone s st pos t o rung).standing = s.standing := by
  unfold State.rowDone
  (repeat' split) <;> first
    | with_reducible rfl
    | (simp only [State.trace_standing, State.grade_standing, State.count_standing, State.recallRow_standing,
      State.tailOver_standing, Station.modLink_standing, Station.modServo_standing,
      Station.modSpeed_standing, Station.modWrite_standing, Station.modRecall_standing,
      Station.modCtx_standing, Station.standing_upd, State.modStn_standing_upd, State.eachStn_standing,
      apply_ite Station.standing, State.modStn_modLink_standing, State.modStn_modServo_standing,
      State.modStn_modSpeed_standing, State.modStn_modWrite_standing, State.modStn_modRecall_standing,
      State.modStn_modCtx_standing, standing_upd, foldl_standing, State.modPort_standing,
      State.eachPort_standing, apply_ite State.standing, ite_self, implies_true]; done)
    | (simp only [State.trace_standing, State.grade_standing, State.count_standing, State.recallRow_standing,
      State.tailOver_standing, Station.modLink_standing, Station.modServo_standing,
      Station.modSpeed_standing, Station.modWrite_standing, Station.modRecall_standing,
      Station.modCtx_standing, Station.standing_upd, State.modStn_standing_upd, State.eachStn_standing,
      apply_ite Station.standing, State.modStn_modLink_standing, State.modStn_modServo_standing,
      State.modStn_modSpeed_standing, State.modStn_modWrite_standing, State.modStn_modRecall_standing,
      State.modStn_modCtx_standing, standing_upd, foldl_standing, State.modPort_standing,
      State.eachPort_standing, apply_ite State.standing, ite_self, implies_true]
       (repeat' split) <;> first | with_reducible rfl | simp only [State.trace_standing, State.grade_standing, State.count_standing, State.recallRow_standing,
      State.tailOver_standing, Station.modLink_standing, Station.modServo_standing,
      Station.modSpeed_standing, Station.modWrite_standing, Station.modRecall_standing,
      Station.modCtx_standing, Station.standing_upd, State.modStn_standing_upd, State.eachStn_standing,
      apply_ite Station.standing, State.modStn_modLink_standing, State.modStn_modServo_standing,
      State.modStn_modSpeed_standing, State.modStn_modWrite_standing, State.modStn_modRecall_standing,
      State.modStn_modCtx_standing, standing_upd, foldl_standing, State.modPort_standing,
      State.eachPort_standing, apply_ite State.standing, ite_self, implies_true])

theorem State.rowMissing_standing (s : State) (st : Stn) (pos : Nat) (t : Track) (grid : Bool) :
    (State.rowMissing s st pos t grid).standing = s.standing := by
  unfold State.rowMissing
  (repeat' split) <;> first
    | with_reducible rfl
    | (simp only [State.trace_standing, State.grade_standing, State.count_standing, State.tailOver_standing,
      Station.modLink_standing, Station.modServo_standing, Station.modSpeed_standing,
      Station.modWrite_standing, Station.modRecall_standing, Station.modCtx_standing,
      Station.standing_upd, State.modStn_standing_upd, State.eachStn_standing,
      apply_ite Station.standing, State.modStn_modLink_standing, State.modStn_modServo_standing,
      State.modStn_modSpeed_standing, State.modStn_modWrite_standing, State.modStn_modRecall_standing,
      State.modStn_modCtx_standing, standing_upd, foldl_standing, State.modPort_standing,
      State.eachPort_standing, apply_ite State.standing, ite_self, implies_true]; done)
    | (simp only [State.trace_standing, State.grade_standing, State.count_standing, State.tailOver_standing,
      Station.modLink_standing, Station.modServo_standing, Station.modSpeed_standing,
      Station.modWrite_standing, Station.modRecall_standing, Station.modCtx_standing,
      Station.standing_upd, State.modStn_standing_upd, State.eachStn_standing,
      apply_ite Station.standing, State.modStn_modLink_standing, State.modStn_modServo_standing,
      State.modStn_modSpeed_standing, State.modStn_modWrite_standing, State.modStn_modRecall_standing,
      State.modStn_modCtx_standing, standing_upd, foldl_standing, State.modPort_standing,
      State.eachPort_standing, apply_ite State.standing, ite_self, implies_true]
       (repeat' split) <;> first | with_reducible rfl | simp only [State.trace_standing, State.grade_standing, State.count_standing, State.tailOver_standing,
      Station.modLink_standing, Station.modServo_standing, Station.modSpeed_standing,
      Station.modWrite_standing, Station.modRecall_standing, Station.modCtx_standing,
      Station.standing_upd, State.modStn_standing_upd, State.eachStn_standing,
      apply_ite Station.standing, State.modStn_modLink_standing, State.modStn_modServo_standing,
      State.modStn_modSpeed_standing, State.modStn_modWrite_standing, State.modStn_modRecall_standing,
      State.modStn_modCtx_standing, standing_upd, foldl_standing, State.modPort_standing,
      State.eachPort_standing, apply_ite State.standing, ite_self, implies_true])

theorem State.calibrate_standing (s : State) (st : Stn) (r : Option CalRow) :
    (State.calibrate s st r).standing = s.standing := by
  simp only [State.calibrate, Station.modLink_standing, Station.modServo_standing, Station.modSpeed_standing,
      Station.modWrite_standing, Station.modRecall_standing, Station.modCtx_standing,
      Station.standing_upd, State.modStn_standing_upd, State.eachStn_standing,
      apply_ite Station.standing, State.modStn_modLink_standing, State.modStn_modServo_standing,
      State.modStn_modSpeed_standing, State.modStn_modWrite_standing, State.modStn_modRecall_standing,
      State.modStn_modCtx_standing, standing_upd, foldl_standing, State.modPort_standing,
      State.eachPort_standing, apply_ite State.standing, ite_self, implies_true]

theorem State.skewRun_standing (s : State) (st : Stn) (t : Track) (d : Int) :
    (State.skewRun s st t d).standing = s.standing := by
  simp only [State.skewRun, State.raise_standing, Station.modLink_standing, Station.modServo_standing,
      Station.modSpeed_standing, Station.modWrite_standing, Station.modRecall_standing,
      Station.modCtx_standing, Station.standing_upd, State.modStn_standing_upd, State.eachStn_standing,
      apply_ite Station.standing, State.modStn_modLink_standing, State.modStn_modServo_standing,
      State.modStn_modSpeed_standing, State.modStn_modWrite_standing, State.modStn_modRecall_standing,
      State.modStn_modCtx_standing, standing_upd, foldl_standing, State.modPort_standing,
      State.eachPort_standing, apply_ite State.standing, ite_self, implies_true]

theorem State.skewBreak_standing (s : State) (st : Stn) (t : Track) : (State.skewBreak s st t).standing = s.standing := by
  simp only [State.skewBreak, Station.modLink_standing, Station.modServo_standing, Station.modSpeed_standing,
      Station.modWrite_standing, Station.modRecall_standing, Station.modCtx_standing,
      Station.standing_upd, State.modStn_standing_upd, State.eachStn_standing,
      apply_ite Station.standing, State.modStn_modLink_standing, State.modStn_modServo_standing,
      State.modStn_modSpeed_standing, State.modStn_modWrite_standing, State.modStn_modRecall_standing,
      State.modStn_modCtx_standing, standing_upd, foldl_standing, State.modPort_standing,
      State.eachPort_standing, apply_ite State.standing, ite_self, implies_true]

theorem State.rowRead_standing (s : State) (st : Stn) (p : RxPos) (t : Track) :
    (State.rowRead s st p t).standing = s.standing := by
  unfold State.rowRead
  extract_lets k lane g cal ext skew raw peak run next far pr prim base kept found even odd s0 s1 s2 r
  have h0 : s0.standing = s.standing := State.calibrate_standing ..
  clear_value s0
  have h1 : s1.standing = s.standing := (State.modStn_modLink_standing ..).trans h0
  clear_value s1
  have h2 : s2.standing = s.standing := (State.count_standing ..).trans h1
  clear_value s2
  split
  · refine (State.rowDone_standing ..).trans (ite_standing ?_ ?_)
    · exact (State.skewRun_standing ..).trans h2
    · exact (State.skewBreak_standing ..).trans h2
  · have h3 : (s2.skewBreak st t).standing = s.standing := (State.skewBreak_standing ..).trans h2
    exact ite_standing ((State.rowDone_standing ..).trans ((State.count_standing ..).trans h3)) ((State.modStn_modLink_standing ..).trans h3)

theorem State.rowDecode_standing (s : State) (st : Stn) (pos : Nat) (t : Track) :
    (State.rowDecode s st pos t).standing = s.standing := by
  unfold State.rowDecode
  (repeat' split) <;> first
    | with_reducible rfl
    | (simp only [State.rowMissing_standing, State.calibrate_standing, State.rowRead_standing,
      Station.modLink_standing, Station.modServo_standing, Station.modSpeed_standing,
      Station.modWrite_standing, Station.modRecall_standing, Station.modCtx_standing,
      Station.standing_upd, State.modStn_standing_upd, State.eachStn_standing,
      apply_ite Station.standing, State.modStn_modLink_standing, State.modStn_modServo_standing,
      State.modStn_modSpeed_standing, State.modStn_modWrite_standing, State.modStn_modRecall_standing,
      State.modStn_modCtx_standing, standing_upd, foldl_standing, State.modPort_standing,
      State.eachPort_standing, apply_ite State.standing, ite_self, implies_true]; done)
    | (simp only [State.rowMissing_standing, State.calibrate_standing, State.rowRead_standing,
      Station.modLink_standing, Station.modServo_standing, Station.modSpeed_standing,
      Station.modWrite_standing, Station.modRecall_standing, Station.modCtx_standing,
      Station.standing_upd, State.modStn_standing_upd, State.eachStn_standing,
      apply_ite Station.standing, State.modStn_modLink_standing, State.modStn_modServo_standing,
      State.modStn_modSpeed_standing, State.modStn_modWrite_standing, State.modStn_modRecall_standing,
      State.modStn_modCtx_standing, standing_upd, foldl_standing, State.modPort_standing,
      State.eachPort_standing, apply_ite State.standing, ite_self, implies_true]
       (repeat' split) <;> first | with_reducible rfl | simp only [State.rowMissing_standing, State.calibrate_standing, State.rowRead_standing,
      Station.modLink_standing, Station.modServo_standing, Station.modSpeed_standing,
      Station.modWrite_standing, Station.modRecall_standing, Station.modCtx_standing,
      Station.standing_upd, State.modStn_standing_upd, State.eachStn_standing,
      apply_ite Station.standing, State.modStn_modLink_standing, State.modStn_modServo_standing,
      State.modStn_modSpeed_standing, State.modStn_modWrite_standing, State.modStn_modRecall_standing,
      State.modStn_modCtx_standing, standing_upd, foldl_standing, State.modPort_standing,
      State.eachPort_standing, apply_ite State.standing, ite_self, implies_true])

theorem State.retryAttempt_standing (s : State) (st : Stn) : (State.retryAttempt s st).standing = s.standing := by
  unfold State.retryAttempt
  (repeat' split) <;> first
    | with_reducible rfl
    | (simp only [State.finish_standing, State.count_standing, State.rowDone_standing, Station.modLink_standing,
      Station.modServo_standing, Station.modSpeed_standing, Station.modWrite_standing,
      Station.modRecall_standing, Station.modCtx_standing, Station.standing_upd,
      State.modStn_standing_upd, State.eachStn_standing, apply_ite Station.standing,
      State.modStn_modLink_standing, State.modStn_modServo_standing, State.modStn_modSpeed_standing,
      State.modStn_modWrite_standing, State.modStn_modRecall_standing, State.modStn_modCtx_standing,
      standing_upd, foldl_standing, State.modPort_standing, State.eachPort_standing,
      apply_ite State.standing, ite_self, implies_true]; done)
    | (simp only [State.finish_standing, State.count_standing, State.rowDone_standing, Station.modLink_standing,
      Station.modServo_standing, Station.modSpeed_standing, Station.modWrite_standing,
      Station.modRecall_standing, Station.modCtx_standing, Station.standing_upd,
      State.modStn_standing_upd, State.eachStn_standing, apply_ite Station.standing,
      State.modStn_modLink_standing, State.modStn_modServo_standing, State.modStn_modSpeed_standing,
      State.modStn_modWrite_standing, State.modStn_modRecall_standing, State.modStn_modCtx_standing,
      standing_upd, foldl_standing, State.modPort_standing, State.eachPort_standing,
      apply_ite State.standing, ite_self, implies_true]
       (repeat' split) <;> first | with_reducible rfl | simp only [State.finish_standing, State.count_standing, State.rowDone_standing, Station.modLink_standing,
      Station.modServo_standing, Station.modSpeed_standing, Station.modWrite_standing,
      Station.modRecall_standing, Station.modCtx_standing, Station.standing_upd,
      State.modStn_standing_upd, State.eachStn_standing, apply_ite Station.standing,
      State.modStn_modLink_standing, State.modStn_modServo_standing, State.modStn_modSpeed_standing,
      State.modStn_modWrite_standing, State.modStn_modRecall_standing, State.modStn_modCtx_standing,
      standing_upd, foldl_standing, State.modPort_standing, State.eachPort_standing,
      apply_ite State.standing, ite_self, implies_true])

theorem State.mountGo_standing (s : State) (st : Stn) : (State.mountGo s st).standing = s.standing := by
  have k (a : State) (blank : Bool) (geo : List Byte) : (a.modStn st fun t => t.thread s.img st blank geo).standing = a.standing :=
    State.modStn_standing a st (fun t => t.thread s.img st blank geo) (fun _ => rfl)
  unfold State.mountGo
  simp only []
  split
  · rfl
  · split
    · rfl
    · simp only [State.closeLoops_standing, State.modStn_modServo_standing, k, State.modCmd_standing, State.finish_standing,
        State.dismount_standing, apply_ite State.standing, ite_self]

theorem State.mountWaits_standing (s : State) (st : Stn) : (State.mountWaits s st).standing = s.standing := by
  unfold State.mountWaits
  (repeat' split) <;> simp only [State.modCmd_standing, Station.modLink_standing, Station.modServo_standing,
      Station.modSpeed_standing, Station.modWrite_standing, Station.modRecall_standing,
      Station.modCtx_standing, Station.standing_upd, State.modStn_standing_upd, State.eachStn_standing,
      apply_ite Station.standing, State.modStn_modLink_standing, State.modStn_modServo_standing,
      State.modStn_modSpeed_standing, State.modStn_modWrite_standing, State.modStn_modRecall_standing,
      State.modStn_modCtx_standing, standing_upd, foldl_standing, State.modPort_standing,
      State.eachPort_standing, apply_ite State.standing, ite_self, implies_true]

theorem State.holdExit_standing (s : State) (st : Stn) : (State.holdExit s st).standing = s.standing := by
  unfold State.holdExit
  (repeat' split) <;> first
    | with_reducible rfl
    | (simp only [State.hold_standing, State.openStation_standing, State.mountGo_standing, State.mountWaits_standing,
      Station.modLink_standing, Station.modServo_standing, Station.modSpeed_standing,
      Station.modWrite_standing, Station.modRecall_standing, Station.modCtx_standing,
      Station.standing_upd, State.modStn_standing_upd, State.eachStn_standing,
      apply_ite Station.standing, State.modStn_modLink_standing, State.modStn_modServo_standing,
      State.modStn_modSpeed_standing, State.modStn_modWrite_standing, State.modStn_modRecall_standing,
      State.modStn_modCtx_standing, standing_upd, foldl_standing, State.modPort_standing,
      State.eachPort_standing, apply_ite State.standing, ite_self, implies_true]; done)
    | (simp only [State.hold_standing, State.openStation_standing, State.mountGo_standing, State.mountWaits_standing,
      Station.modLink_standing, Station.modServo_standing, Station.modSpeed_standing,
      Station.modWrite_standing, Station.modRecall_standing, Station.modCtx_standing,
      Station.standing_upd, State.modStn_standing_upd, State.eachStn_standing,
      apply_ite Station.standing, State.modStn_modLink_standing, State.modStn_modServo_standing,
      State.modStn_modSpeed_standing, State.modStn_modWrite_standing, State.modStn_modRecall_standing,
      State.modStn_modCtx_standing, standing_upd, foldl_standing, State.modPort_standing,
      State.eachPort_standing, apply_ite State.standing, ite_self, implies_true]
       (repeat' split) <;> first | with_reducible rfl | simp only [State.hold_standing, State.openStation_standing, State.mountGo_standing, State.mountWaits_standing,
      Station.modLink_standing, Station.modServo_standing, Station.modSpeed_standing,
      Station.modWrite_standing, Station.modRecall_standing, Station.modCtx_standing,
      Station.standing_upd, State.modStn_standing_upd, State.eachStn_standing,
      apply_ite Station.standing, State.modStn_modLink_standing, State.modStn_modServo_standing,
      State.modStn_modSpeed_standing, State.modStn_modWrite_standing, State.modStn_modRecall_standing,
      State.modStn_modCtx_standing, standing_upd, foldl_standing, State.modPort_standing,
      State.eachPort_standing, apply_ite State.standing, ite_self, implies_true])

theorem State.rxStat_standing (s : State) (st : Stn) (lane : Lane) (x : BitVec 5140) : (State.rxStat s st lane x).standing = s.standing := by
  unfold State.rxStat
  simp only []
  have h : (if frameField x 78 1 = 1 then s.modStn st fun t => t.downFailed lane else s).standing = s.standing :=
    ite_standing (State.modStn_standing _ _ _ (fun _ => rfl)) rfl
  exact ite_standing h ((State.modStn_modLink_standing ..).trans h)

theorem State.rxFrame_standing (s : State) (st : Stn) (lane : Lane) (line : RxFrame) :
    (State.rxFrame s st lane line).standing = s.standing := by
  unfold State.rxFrame
  simp only []
  refine ite_standing rfl (ite_standing (State.modStn_modLink_standing ..) ?_)
  have h := (State.rxStat_standing ((s.modStn st fun t => t.modLink fun k => k.modLane lane fun l => l.take (s.received st lane line))) st lane
    (s.received st lane line).msg).trans (State.modStn_modLink_standing ..)
  refine ite_standing h (ite_standing ((State.modStn_modLink_standing ..).trans h) ?_)
  exact (State.modStn_standing _ st (fun t => t.rxClock (s.received st lane line).msg) (fun _ => rfl)).trans
    ((State.modStn_modLink_standing ..).trans h)

theorem State.posSent_standing (s : State) (st : Stn) (p : TxPos) : (State.posSent s st p).standing = s.standing := by
  unfold State.posSent
  (repeat' split) <;> first
    | with_reducible rfl
    | (simp only [Station.modLink_standing, Station.modServo_standing, Station.modSpeed_standing,
      Station.modWrite_standing, Station.modRecall_standing, Station.modCtx_standing,
      Station.standing_upd, State.modStn_standing_upd, State.eachStn_standing,
      apply_ite Station.standing, State.modStn_modLink_standing, State.modStn_modServo_standing,
      State.modStn_modSpeed_standing, State.modStn_modWrite_standing, State.modStn_modRecall_standing,
      State.modStn_modCtx_standing, standing_upd, foldl_standing, State.modPort_standing,
      State.eachPort_standing, apply_ite State.standing, ite_self, implies_true]; done)
    | (simp only [Station.modLink_standing, Station.modServo_standing, Station.modSpeed_standing,
      Station.modWrite_standing, Station.modRecall_standing, Station.modCtx_standing,
      Station.standing_upd, State.modStn_standing_upd, State.eachStn_standing,
      apply_ite Station.standing, State.modStn_modLink_standing, State.modStn_modServo_standing,
      State.modStn_modSpeed_standing, State.modStn_modWrite_standing, State.modStn_modRecall_standing,
      State.modStn_modCtx_standing, standing_upd, foldl_standing, State.modPort_standing,
      State.eachPort_standing, apply_ite State.standing, ite_self, implies_true]
       (repeat' split) <;> first | with_reducible rfl | simp only [Station.modLink_standing, Station.modServo_standing, Station.modSpeed_standing,
      Station.modWrite_standing, Station.modRecall_standing, Station.modCtx_standing,
      Station.standing_upd, State.modStn_standing_upd, State.eachStn_standing,
      apply_ite Station.standing, State.modStn_modLink_standing, State.modStn_modServo_standing,
      State.modStn_modSpeed_standing, State.modStn_modWrite_standing, State.modStn_modRecall_standing,
      State.modStn_modCtx_standing, standing_upd, foldl_standing, State.modPort_standing,
      State.eachPort_standing, apply_ite State.standing, ite_self, implies_true])

theorem State.quiesceGate_standing (s : State) (st : Stn) : (State.quiesceGate s st).standing = s.standing := by
  simp only [State.quiesceGate, Station.modLink_standing, Station.modServo_standing, Station.modSpeed_standing,
      Station.modWrite_standing, Station.modRecall_standing, Station.modCtx_standing,
      Station.standing_upd, State.modStn_standing_upd, State.eachStn_standing,
      apply_ite Station.standing, State.modStn_modLink_standing, State.modStn_modServo_standing,
      State.modStn_modSpeed_standing, State.modStn_modWrite_standing, State.modStn_modRecall_standing,
      State.modStn_modCtx_standing, standing_upd, foldl_standing, State.modPort_standing,
      State.eachPort_standing, apply_ite State.standing, ite_self, implies_true]

theorem State.popSent_standing (s : State) (st : Stn) : (State.popSent s st).standing = s.standing := by
  unfold State.popSent
  (repeat' split) <;> first
    | with_reducible rfl
    | (simp only [State.settle_standing, State.posSent_standing, State.quiesceGate_standing,
      Station.modLink_standing, Station.modServo_standing, Station.modSpeed_standing,
      Station.modWrite_standing, Station.modRecall_standing, Station.modCtx_standing,
      Station.standing_upd, State.modStn_standing_upd, State.eachStn_standing,
      apply_ite Station.standing, State.modStn_modLink_standing, State.modStn_modServo_standing,
      State.modStn_modSpeed_standing, State.modStn_modWrite_standing, State.modStn_modRecall_standing,
      State.modStn_modCtx_standing, standing_upd, foldl_standing, State.modPort_standing,
      State.eachPort_standing, apply_ite State.standing, ite_self, implies_true]; done)
    | (simp only [State.settle_standing, State.posSent_standing, State.quiesceGate_standing,
      Station.modLink_standing, Station.modServo_standing, Station.modSpeed_standing,
      Station.modWrite_standing, Station.modRecall_standing, Station.modCtx_standing,
      Station.standing_upd, State.modStn_standing_upd, State.eachStn_standing,
      apply_ite Station.standing, State.modStn_modLink_standing, State.modStn_modServo_standing,
      State.modStn_modSpeed_standing, State.modStn_modWrite_standing, State.modStn_modRecall_standing,
      State.modStn_modCtx_standing, standing_upd, foldl_standing, State.modPort_standing,
      State.eachPort_standing, apply_ite State.standing, ite_self, implies_true]
       (repeat' split) <;> first | with_reducible rfl | simp only [State.settle_standing, State.posSent_standing, State.quiesceGate_standing,
      Station.modLink_standing, Station.modServo_standing, Station.modSpeed_standing,
      Station.modWrite_standing, Station.modRecall_standing, Station.modCtx_standing,
      Station.standing_upd, State.modStn_standing_upd, State.eachStn_standing,
      apply_ite Station.standing, State.modStn_modLink_standing, State.modStn_modServo_standing,
      State.modStn_modSpeed_standing, State.modStn_modWrite_standing, State.modStn_modRecall_standing,
      State.modStn_modCtx_standing, standing_upd, foldl_standing, State.modPort_standing,
      State.eachPort_standing, apply_ite State.standing, ite_self, implies_true])

theorem State.txFrame_standing (s : State) (st : Stn) (lane : Lane) (ncell : Nat) :
    (State.txFrame s st lane ncell).standing = s.standing := by
  simp only [State.txFrame, State.draw_standing, State.emit_standing, State.popSent_standing,
      Station.modLink_standing, Station.modServo_standing, Station.modSpeed_standing,
      Station.modWrite_standing, Station.modRecall_standing, Station.modCtx_standing,
      Station.standing_upd, State.modStn_standing_upd, State.eachStn_standing,
      apply_ite Station.standing, State.modStn_modLink_standing, State.modStn_modServo_standing,
      State.modStn_modSpeed_standing, State.modStn_modWrite_standing, State.modStn_modRecall_standing,
      State.modStn_modCtx_standing, standing_upd, foldl_standing, State.modPort_standing,
      State.eachPort_standing, apply_ite State.standing, ite_self, implies_true]

theorem State.container_standing (s : State) (st : Stn) (slot : BitVec 16) :
    (State.container s st slot).standing = s.standing := by
  unfold State.container
  (repeat' split) <;> first
    | with_reducible rfl
    | (simp only [State.count_standing, Station.modLink_standing, Station.modServo_standing,
      Station.modSpeed_standing, Station.modWrite_standing, Station.modRecall_standing,
      Station.modCtx_standing, Station.standing_upd, State.modStn_standing_upd, State.eachStn_standing,
      apply_ite Station.standing, State.modStn_modLink_standing, State.modStn_modServo_standing,
      State.modStn_modSpeed_standing, State.modStn_modWrite_standing, State.modStn_modRecall_standing,
      State.modStn_modCtx_standing, standing_upd, foldl_standing, State.modPort_standing,
      State.eachPort_standing, apply_ite State.standing, ite_self, implies_true]; done)
    | (simp only [State.count_standing, Station.modLink_standing, Station.modServo_standing,
      Station.modSpeed_standing, Station.modWrite_standing, Station.modRecall_standing,
      Station.modCtx_standing, Station.standing_upd, State.modStn_standing_upd, State.eachStn_standing,
      apply_ite Station.standing, State.modStn_modLink_standing, State.modStn_modServo_standing,
      State.modStn_modSpeed_standing, State.modStn_modWrite_standing, State.modStn_modRecall_standing,
      State.modStn_modCtx_standing, standing_upd, foldl_standing, State.modPort_standing,
      State.eachPort_standing, apply_ite State.standing, ite_self, implies_true]
       (repeat' split) <;> first | with_reducible rfl | simp only [State.count_standing, Station.modLink_standing, Station.modServo_standing,
      Station.modSpeed_standing, Station.modWrite_standing, Station.modRecall_standing,
      Station.modCtx_standing, Station.standing_upd, State.modStn_standing_upd, State.eachStn_standing,
      apply_ite Station.standing, State.modStn_modLink_standing, State.modStn_modServo_standing,
      State.modStn_modSpeed_standing, State.modStn_modWrite_standing, State.modStn_modRecall_standing,
      State.modStn_modCtx_standing, standing_upd, foldl_standing, State.modPort_standing,
      State.eachPort_standing, apply_ite State.standing, ite_self, implies_true])

theorem State.laneDown_standing (s : State) (st : Stn) (lane : Lane) : (State.laneDown s st lane).standing = s.standing := by
  simp only [State.laneDown, State.raise_standing, Station.modLink_standing, Station.modServo_standing,
      Station.modSpeed_standing, Station.modWrite_standing, Station.modRecall_standing,
      Station.modCtx_standing, Station.standing_upd, State.modStn_standing_upd, State.eachStn_standing,
      apply_ite Station.standing, State.modStn_modLink_standing, State.modStn_modServo_standing,
      State.modStn_modSpeed_standing, State.modStn_modWrite_standing, State.modStn_modRecall_standing,
      State.modStn_modCtx_standing, standing_upd, foldl_standing, State.modPort_standing,
      State.eachPort_standing, apply_ite State.standing, ite_self, implies_true]

theorem State.laneRetry_standing (s : State) (st : Stn) (lane : Lane) :
    (State.laneRetry s st lane).standing = s.standing := by
  simp only [State.laneRetry, Station.modLink_standing, Station.modServo_standing, Station.modSpeed_standing,
      Station.modWrite_standing, Station.modRecall_standing, Station.modCtx_standing,
      Station.standing_upd, State.modStn_standing_upd, State.eachStn_standing,
      apply_ite Station.standing, State.modStn_modLink_standing, State.modStn_modServo_standing,
      State.modStn_modSpeed_standing, State.modStn_modWrite_standing, State.modStn_modRecall_standing,
      State.modStn_modCtx_standing, standing_upd, foldl_standing, State.modPort_standing,
      State.eachPort_standing, apply_ite State.standing, ite_self, implies_true]

theorem State.servoTrace_standing (s : State) (st : Stn) (ty : Nat) (w1 w2 : BitVec 64) :
    (State.servoTrace s st ty w1 w2).standing = s.standing := by
  simp only [State.servoTrace, State.modDie_standing, State.trace_standing, Station.modLink_standing,
      Station.modServo_standing, Station.modSpeed_standing, Station.modWrite_standing,
      Station.modRecall_standing, Station.modCtx_standing, Station.standing_upd,
      State.modStn_standing_upd, State.eachStn_standing, apply_ite Station.standing,
      State.modStn_modLink_standing, State.modStn_modServo_standing, State.modStn_modSpeed_standing,
      State.modStn_modWrite_standing, State.modStn_modRecall_standing, State.modStn_modCtx_standing,
      standing_upd, foldl_standing, State.modPort_standing, State.eachPort_standing,
      apply_ite State.standing, ite_self, implies_true]

theorem State.aim_standing (s : State) (st : Stn) (wrap : Nat) (ofs : Int) :
    (State.aim s st wrap ofs).standing = s.standing := by
  simp only [State.aim, Station.modLink_standing, Station.modServo_standing, Station.modSpeed_standing,
      Station.modWrite_standing, Station.modRecall_standing, Station.modCtx_standing,
      Station.standing_upd, State.modStn_standing_upd, State.eachStn_standing,
      apply_ite Station.standing, State.modStn_modLink_standing, State.modStn_modServo_standing,
      State.modStn_modSpeed_standing, State.modStn_modWrite_standing, State.modStn_modRecall_standing,
      State.modStn_modCtx_standing, standing_upd, foldl_standing, State.modPort_standing,
      State.eachPort_standing, apply_ite State.standing, ite_self, implies_true]

theorem State.inhibitWrite_standing (s : State) (st : Stn) : (State.inhibitWrite s st).standing = s.standing := by
  simp only [State.inhibitWrite, State.raise_standing, Station.modLink_standing, Station.modServo_standing,
      Station.modSpeed_standing, Station.modWrite_standing, Station.modRecall_standing,
      Station.modCtx_standing, Station.standing_upd, State.modStn_standing_upd, State.eachStn_standing,
      apply_ite Station.standing, State.modStn_modLink_standing, State.modStn_modServo_standing,
      State.modStn_modSpeed_standing, State.modStn_modWrite_standing, State.modStn_modRecall_standing,
      State.modStn_modCtx_standing, standing_upd, foldl_standing, State.modPort_standing,
      State.eachPort_standing, apply_ite State.standing, ite_self, implies_true]

theorem State.skewSample_standing (s : State) (st : Stn) (f : Nat) (a b : Frame) (apply : BitVec 16) :
    (State.skewSample s st f a b apply).standing = s.standing := by
  simp only [State.skewSample, State.servoTrace_standing, Station.modLink_standing, Station.modServo_standing,
      Station.modSpeed_standing, Station.modWrite_standing, Station.modRecall_standing,
      Station.modCtx_standing, Station.standing_upd, State.modStn_standing_upd, State.eachStn_standing,
      apply_ite Station.standing, State.modStn_modLink_standing, State.modStn_modServo_standing,
      State.modStn_modSpeed_standing, State.modStn_modWrite_standing, State.modStn_modRecall_standing,
      State.modStn_modCtx_standing, standing_upd, foldl_standing, State.modPort_standing,
      State.eachPort_standing, apply_ite State.standing, ite_self, implies_true]

theorem State.lateralLoop_standing (s : State) (st : Stn) : (State.lateralLoop s st).standing = s.standing := by
  unfold State.lateralLoop
  (repeat' split) <;> first
    | with_reducible rfl
    | (simp only [State.draw_standing, State.count_standing, State.servoTrace_standing, State.inhibitWrite_standing,
      State.skewSample_standing, Station.modLink_standing, Station.modServo_standing,
      Station.modSpeed_standing, Station.modWrite_standing, Station.modRecall_standing,
      Station.modCtx_standing, Station.standing_upd, State.modStn_standing_upd, State.eachStn_standing,
      apply_ite Station.standing, State.modStn_modLink_standing, State.modStn_modServo_standing,
      State.modStn_modSpeed_standing, State.modStn_modWrite_standing, State.modStn_modRecall_standing,
      State.modStn_modCtx_standing, standing_upd, foldl_standing, State.modPort_standing,
      State.eachPort_standing, apply_ite State.standing, ite_self, implies_true]; done)
    | (simp only [State.draw_standing, State.count_standing, State.servoTrace_standing, State.inhibitWrite_standing,
      State.skewSample_standing, Station.modLink_standing, Station.modServo_standing,
      Station.modSpeed_standing, Station.modWrite_standing, Station.modRecall_standing,
      Station.modCtx_standing, Station.standing_upd, State.modStn_standing_upd, State.eachStn_standing,
      apply_ite Station.standing, State.modStn_modLink_standing, State.modStn_modServo_standing,
      State.modStn_modSpeed_standing, State.modStn_modWrite_standing, State.modStn_modRecall_standing,
      State.modStn_modCtx_standing, standing_upd, foldl_standing, State.modPort_standing,
      State.eachPort_standing, apply_ite State.standing, ite_self, implies_true]
       (repeat' split) <;> first | with_reducible rfl | simp only [State.draw_standing, State.count_standing, State.servoTrace_standing, State.inhibitWrite_standing,
      State.skewSample_standing, Station.modLink_standing, Station.modServo_standing,
      Station.modSpeed_standing, Station.modWrite_standing, Station.modRecall_standing,
      Station.modCtx_standing, Station.standing_upd, State.modStn_standing_upd, State.eachStn_standing,
      apply_ite Station.standing, State.modStn_modLink_standing, State.modStn_modServo_standing,
      State.modStn_modSpeed_standing, State.modStn_modWrite_standing, State.modStn_modRecall_standing,
      State.modStn_modCtx_standing, standing_upd, foldl_standing, State.modPort_standing,
      State.eachPort_standing, apply_ite State.standing, ite_self, implies_true])

theorem State.seekSample_standing (s : State) (st : Stn) (q : Seek) : (State.seekSample s st q).standing = s.standing := by
  unfold State.seekSample
  simp only []
  split
  · rw [State.skewSample_standing]
    exact (State.modStn_standing _ _ _ (by exact fun _ => rfl)).trans rfl
  · exact (State.modStn_standing _ _ _ (by exact fun _ => rfl)).trans rfl

theorem State.lateral_standing (s : State) (st : Stn) : (State.lateral s st).standing = s.standing := by
  unfold State.lateral
  simp only []
  split
  · exact State.lateralLoop_standing ..
  · split
    · rfl
    · split
      · exact (State.lateralLoop_standing ..).trans (State.modStn_standing _ _ _ (by exact fun _ => rfl))
      · exact State.seekSample_standing ..

theorem State.loseLpos_standing (s : State) (st : Stn) : (State.loseLpos s st).standing = s.standing := by
  simp only [State.loseLpos, State.raise_standing, State.unplace_standing, Station.modLink_standing,
      Station.modServo_standing, Station.modSpeed_standing, Station.modWrite_standing,
      Station.modRecall_standing, Station.modCtx_standing, Station.standing_upd,
      State.modStn_standing_upd, State.eachStn_standing, apply_ite Station.standing,
      State.modStn_modLink_standing, State.modStn_modServo_standing, State.modStn_modSpeed_standing,
      State.modStn_modWrite_standing, State.modStn_modRecall_standing, State.modStn_modCtx_standing,
      standing_upd, foldl_standing, State.modPort_standing, State.eachPort_standing,
      apply_ite State.standing, ite_self, implies_true]

theorem State.lposTake_standing (s : State) (st : Stn) : (State.lposTake s st).standing = s.standing := by
  simp only [State.lposTake, State.take_standing, Station.modLink_standing, Station.modServo_standing,
      Station.modSpeed_standing, Station.modWrite_standing, Station.modRecall_standing,
      Station.modCtx_standing, Station.standing_upd, State.modStn_standing_upd, State.eachStn_standing,
      apply_ite Station.standing, State.modStn_modLink_standing, State.modStn_modServo_standing,
      State.modStn_modSpeed_standing, State.modStn_modWrite_standing, State.modStn_modRecall_standing,
      State.modStn_modCtx_standing, standing_upd, foldl_standing, State.modPort_standing,
      State.eachPort_standing, apply_ite State.standing, ite_self, implies_true]

theorem State.reel_standing (s : State) (st : Stn) : (State.reel s st).standing = s.standing := by
  simp only [State.reel, State.draw_standing, State.take_standing, State.count_standing,
      State.servoTrace_standing, Station.modLink_standing, Station.modServo_standing,
      Station.modSpeed_standing, Station.modWrite_standing, Station.modRecall_standing,
      Station.modCtx_standing, Station.standing_upd, State.modStn_standing_upd, State.eachStn_standing,
      apply_ite Station.standing, State.modStn_modLink_standing, State.modStn_modServo_standing,
      State.modStn_modSpeed_standing, State.modStn_modWrite_standing, State.modStn_modRecall_standing,
      State.modStn_modCtx_standing, standing_upd, foldl_standing, State.modPort_standing,
      State.eachPort_standing, apply_ite State.standing, ite_self, implies_true]

theorem State.auxSample_standing (s : State) (st : Stn) : (State.auxSample s st).standing = s.standing := by
  simp only [State.auxSample, State.draw_standing, State.hold_standing, State.count_standing,
      Station.modLink_standing, Station.modServo_standing, Station.modSpeed_standing,
      Station.modWrite_standing, Station.modRecall_standing, Station.modCtx_standing,
      Station.standing_upd, State.modStn_standing_upd, State.eachStn_standing,
      apply_ite Station.standing, State.modStn_modLink_standing, State.modStn_modServo_standing,
      State.modStn_modSpeed_standing, State.modStn_modWrite_standing, State.modStn_modRecall_standing,
      State.modStn_modCtx_standing, standing_upd, foldl_standing, State.modPort_standing,
      State.eachPort_standing, apply_ite State.standing, ite_self, implies_true]

theorem State.kappa_standing (s : State) (st : Stn) (takeUp : Bool) (len : Nat) :
    (State.kappa s st takeUp len).standing = s.standing := by
  simp only [State.kappa, State.draw_standing, State.raise_standing, Station.modLink_standing,
      Station.modServo_standing, Station.modSpeed_standing, Station.modWrite_standing,
      Station.modRecall_standing, Station.modCtx_standing, Station.standing_upd,
      State.modStn_standing_upd, State.eachStn_standing, apply_ite Station.standing,
      State.modStn_modLink_standing, State.modStn_modServo_standing, State.modStn_modSpeed_standing,
      State.modStn_modWrite_standing, State.modStn_modRecall_standing, State.modStn_modCtx_standing,
      standing_upd, foldl_standing, State.modPort_standing, State.eachPort_standing,
      apply_ite State.standing, ite_self, implies_true]

theorem State.serveSeek_standing (s : State) (st : Stn) : (State.serveSeek s st).standing = s.standing := by
  unfold State.serveSeek
  (repeat' split) <;> first
    | with_reducible rfl
    | (simp only [State.rampTo_standing, State.runBack_standing, State.aim_standing, Station.modLink_standing,
      Station.modServo_standing, Station.modSpeed_standing, Station.modWrite_standing,
      Station.modRecall_standing, Station.modCtx_standing, Station.standing_upd,
      State.modStn_standing_upd, State.eachStn_standing, apply_ite Station.standing,
      State.modStn_modLink_standing, State.modStn_modServo_standing, State.modStn_modSpeed_standing,
      State.modStn_modWrite_standing, State.modStn_modRecall_standing, State.modStn_modCtx_standing,
      standing_upd, foldl_standing, State.modPort_standing, State.eachPort_standing,
      apply_ite State.standing, ite_self, implies_true]; done)
    | (simp only [State.rampTo_standing, State.runBack_standing, State.aim_standing, Station.modLink_standing,
      Station.modServo_standing, Station.modSpeed_standing, Station.modWrite_standing,
      Station.modRecall_standing, Station.modCtx_standing, Station.standing_upd,
      State.modStn_standing_upd, State.eachStn_standing, apply_ite Station.standing,
      State.modStn_modLink_standing, State.modStn_modServo_standing, State.modStn_modSpeed_standing,
      State.modStn_modWrite_standing, State.modStn_modRecall_standing, State.modStn_modCtx_standing,
      standing_upd, foldl_standing, State.modPort_standing, State.eachPort_standing,
      apply_ite State.standing, ite_self, implies_true]
       (repeat' split) <;> first | with_reducible rfl | simp only [State.rampTo_standing, State.runBack_standing, State.aim_standing, Station.modLink_standing,
      Station.modServo_standing, Station.modSpeed_standing, Station.modWrite_standing,
      Station.modRecall_standing, Station.modCtx_standing, Station.standing_upd,
      State.modStn_standing_upd, State.eachStn_standing, apply_ite Station.standing,
      State.modStn_modLink_standing, State.modStn_modServo_standing, State.modStn_modSpeed_standing,
      State.modStn_modWrite_standing, State.modStn_modRecall_standing, State.modStn_modCtx_standing,
      standing_upd, foldl_standing, State.modPort_standing, State.eachPort_standing,
      apply_ite State.standing, ite_self, implies_true])

theorem State.locatesDone_standing (s : State) (st : Stn) : (State.locatesDone s st).standing = s.standing := by
  simp only [State.locatesDone, State.finish_standing, Station.modLink_standing, Station.modServo_standing,
      Station.modSpeed_standing, Station.modWrite_standing, Station.modRecall_standing,
      Station.modCtx_standing, Station.standing_upd, State.modStn_standing_upd, State.eachStn_standing,
      apply_ite Station.standing, State.modStn_modLink_standing, State.modStn_modServo_standing,
      State.modStn_modSpeed_standing, State.modStn_modWrite_standing, State.modStn_modRecall_standing,
      State.modStn_modCtx_standing, standing_upd, foldl_standing, State.modPort_standing,
      State.eachPort_standing, apply_ite State.standing, ite_self, implies_true]

theorem State.rested_standing (s : State) (st : Stn) : (State.rested s st).standing = s.standing := by
  unfold State.rested
  (repeat' split) <;> first
    | with_reducible rfl
    | (simp only [State.openLoops_standing, State.openStation_standing, State.mountGo_standing,
      State.serveSeek_standing, State.locatesDone_standing, Station.modLink_standing,
      Station.modServo_standing, Station.modSpeed_standing, Station.modWrite_standing,
      Station.modRecall_standing, Station.modCtx_standing, Station.standing_upd,
      State.modStn_standing_upd, State.eachStn_standing, apply_ite Station.standing,
      State.modStn_modLink_standing, State.modStn_modServo_standing, State.modStn_modSpeed_standing,
      State.modStn_modWrite_standing, State.modStn_modRecall_standing, State.modStn_modCtx_standing,
      standing_upd, foldl_standing, State.modPort_standing, State.eachPort_standing,
      apply_ite State.standing, ite_self, implies_true]; done)
    | (simp only [State.openLoops_standing, State.openStation_standing, State.mountGo_standing,
      State.serveSeek_standing, State.locatesDone_standing, Station.modLink_standing,
      Station.modServo_standing, Station.modSpeed_standing, Station.modWrite_standing,
      Station.modRecall_standing, Station.modCtx_standing, Station.standing_upd,
      State.modStn_standing_upd, State.eachStn_standing, apply_ite Station.standing,
      State.modStn_modLink_standing, State.modStn_modServo_standing, State.modStn_modSpeed_standing,
      State.modStn_modWrite_standing, State.modStn_modRecall_standing, State.modStn_modCtx_standing,
      standing_upd, foldl_standing, State.modPort_standing, State.eachPort_standing,
      apply_ite State.standing, ite_self, implies_true]
       (repeat' split) <;> first | with_reducible rfl | simp only [State.openLoops_standing, State.openStation_standing, State.mountGo_standing,
      State.serveSeek_standing, State.locatesDone_standing, Station.modLink_standing,
      Station.modServo_standing, Station.modSpeed_standing, Station.modWrite_standing,
      Station.modRecall_standing, Station.modCtx_standing, Station.standing_upd,
      State.modStn_standing_upd, State.eachStn_standing, apply_ite Station.standing,
      State.modStn_modLink_standing, State.modStn_modServo_standing, State.modStn_modSpeed_standing,
      State.modStn_modWrite_standing, State.modStn_modRecall_standing, State.modStn_modCtx_standing,
      standing_upd, foldl_standing, State.modPort_standing, State.eachPort_standing,
      apply_ite State.standing, ite_self, implies_true])

theorem State.rampDone_standing (s : State) (st : Stn) : (State.rampDone s st).standing = s.standing := by
  unfold State.rampDone
  (repeat' split) <;> first
    | with_reducible rfl
    | (simp only [State.controlledStop_standing, State.rested_standing, Station.modLink_standing,
      Station.modServo_standing, Station.modSpeed_standing, Station.modWrite_standing,
      Station.modRecall_standing, Station.modCtx_standing, Station.standing_upd,
      State.modStn_standing_upd, State.eachStn_standing, apply_ite Station.standing,
      State.modStn_modLink_standing, State.modStn_modServo_standing, State.modStn_modSpeed_standing,
      State.modStn_modWrite_standing, State.modStn_modRecall_standing, State.modStn_modCtx_standing,
      standing_upd, foldl_standing, State.modPort_standing, State.eachPort_standing,
      apply_ite State.standing, ite_self, implies_true]; done)
    | (simp only [State.controlledStop_standing, State.rested_standing, Station.modLink_standing,
      Station.modServo_standing, Station.modSpeed_standing, Station.modWrite_standing,
      Station.modRecall_standing, Station.modCtx_standing, Station.standing_upd,
      State.modStn_standing_upd, State.eachStn_standing, apply_ite Station.standing,
      State.modStn_modLink_standing, State.modStn_modServo_standing, State.modStn_modSpeed_standing,
      State.modStn_modWrite_standing, State.modStn_modRecall_standing, State.modStn_modCtx_standing,
      standing_upd, foldl_standing, State.modPort_standing, State.eachPort_standing,
      apply_ite State.standing, ite_self, implies_true]
       (repeat' split) <;> first | with_reducible rfl | simp only [State.controlledStop_standing, State.rested_standing, Station.modLink_standing,
      Station.modServo_standing, Station.modSpeed_standing, Station.modWrite_standing,
      Station.modRecall_standing, Station.modCtx_standing, Station.standing_upd,
      State.modStn_standing_upd, State.eachStn_standing, apply_ite Station.standing,
      State.modStn_modLink_standing, State.modStn_modServo_standing, State.modStn_modSpeed_standing,
      State.modStn_modWrite_standing, State.modStn_modRecall_standing, State.modStn_modCtx_standing,
      standing_upd, foldl_standing, State.modPort_standing, State.eachPort_standing,
      apply_ite State.standing, ite_self, implies_true])

theorem State.leaveQuiet_standing (s : State) : (State.leaveQuiet s).standing = s.standing := by
  simp only [State.leaveQuiet, State.closeLoops_standing, Station.modLink_standing, Station.modServo_standing,
      Station.modSpeed_standing, Station.modWrite_standing, Station.modRecall_standing,
      Station.modCtx_standing, Station.standing_upd, State.modStn_standing_upd, State.eachStn_standing,
      apply_ite Station.standing, State.modStn_modLink_standing, State.modStn_modServo_standing,
      State.modStn_modSpeed_standing, State.modStn_modWrite_standing, State.modStn_modRecall_standing,
      State.modStn_modCtx_standing, standing_upd, foldl_standing, State.modPort_standing,
      State.eachPort_standing, apply_ite State.standing, ite_self, implies_true]

theorem State.wakeFor_standing (s : State) (r : CmdRef) : (State.wakeFor s r).standing = s.standing := by
  simp only [State.wakeFor, State.leaveQuiet_standing, Station.modLink_standing, Station.modServo_standing,
      Station.modSpeed_standing, Station.modWrite_standing, Station.modRecall_standing,
      Station.modCtx_standing, Station.standing_upd, State.modStn_standing_upd, State.eachStn_standing,
      apply_ite Station.standing, State.modStn_modLink_standing, State.modStn_modServo_standing,
      State.modStn_modSpeed_standing, State.modStn_modWrite_standing, State.modStn_modRecall_standing,
      State.modStn_modCtx_standing, standing_upd, foldl_standing, State.modPort_standing,
      State.eachPort_standing, apply_ite State.standing, ite_self, implies_true]

theorem State.launch_standing (s : State) (c : HostCmd) (k : Cmd) (go : CmdRef → State → State)
    (h : ∀ r a, (go r a).standing = a.standing) : (State.launch s c k go).standing = s.standing := by
  unfold State.launch
  split
  · rw [State.wakeFor_standing, State.addCmd_standing]
  · rw [h, State.addCmd_standing]

theorem State.gapLon_standing (s : State) (c : HostCmd) : (State.gapLon s c).standing = s.standing := by
  simp only [State.gapLon, Station.modLink_standing, Station.modServo_standing, Station.modSpeed_standing,
      Station.modWrite_standing, Station.modRecall_standing, Station.modCtx_standing,
      Station.standing_upd, State.modStn_standing_upd, State.eachStn_standing,
      apply_ite Station.standing, State.modStn_modLink_standing, State.modStn_modServo_standing,
      State.modStn_modSpeed_standing, State.modStn_modWrite_standing, State.modStn_modRecall_standing,
      State.modStn_modCtx_standing, standing_upd, foldl_standing, State.modPort_standing,
      State.eachPort_standing, apply_ite State.standing, ite_self, implies_true]

theorem State.dropKey_standing (s : State) (p : Port) (q : Nat) (f : RecKey → Bool) :
    (State.dropKey s p q f).standing = s.standing := by
  unfold State.dropKey
  rfl

theorem State.modRec_standing (s : State) (st : Stn) (lon : Nat) (f : Rec → Rec) :
    (State.modRec s st lon f).standing = s.standing := by
  simp only [State.modRec, Station.modLink_standing, Station.modServo_standing, Station.modSpeed_standing,
      Station.modWrite_standing, Station.modRecall_standing, Station.modCtx_standing,
      Station.standing_upd, State.modStn_standing_upd, State.eachStn_standing,
      apply_ite Station.standing, State.modStn_modLink_standing, State.modStn_modServo_standing,
      State.modStn_modSpeed_standing, State.modStn_modWrite_standing, State.modStn_modRecall_standing,
      State.modStn_modCtx_standing, standing_upd, foldl_standing, State.modPort_standing,
      State.eachPort_standing, apply_ite State.standing, ite_self, implies_true]

theorem State.startAppend_standing (r : CmdRef) (s : State) : (State.startAppend r s).standing = s.standing := by
  unfold State.startAppend
  (repeat' split) <;> simp only [State.modCmd_standing, State.addJob_standing, Station.modLink_standing, Station.modServo_standing,
      Station.modSpeed_standing, Station.modWrite_standing, Station.modRecall_standing,
      Station.modCtx_standing, Station.standing_upd, State.modStn_standing_upd, State.eachStn_standing,
      apply_ite Station.standing, State.modStn_modLink_standing, State.modStn_modServo_standing,
      State.modStn_modSpeed_standing, State.modStn_modWrite_standing, State.modStn_modRecall_standing,
      State.modStn_modCtx_standing, standing_upd, foldl_standing, State.modPort_standing,
      State.eachPort_standing, apply_ite State.standing, ite_self, implies_true]

theorem State.runAppend_standing (c : HostCmd) (s : State) : (State.runAppend c s).standing = s.standing := by
  unfold State.runAppend
  (repeat' split) <;> first
    | with_reducible rfl
    | (simp only [State.modQp_standing, State.finishNew_standing, State.abandonRec_standing, State.count_standing,
      State.launch_standing, State.dropKey_standing, State.modRec_standing, State.startAppend_standing,
      Station.modLink_standing, Station.modServo_standing, Station.modSpeed_standing,
      Station.modWrite_standing, Station.modRecall_standing, Station.modCtx_standing,
      Station.standing_upd, State.modStn_standing_upd, State.eachStn_standing,
      apply_ite Station.standing, State.modStn_modLink_standing, State.modStn_modServo_standing,
      State.modStn_modSpeed_standing, State.modStn_modWrite_standing, State.modStn_modRecall_standing,
      State.modStn_modCtx_standing, standing_upd, foldl_standing, State.modPort_standing,
      State.eachPort_standing, apply_ite State.standing, ite_self, implies_true]; done)
    | (simp only [State.modQp_standing, State.finishNew_standing, State.abandonRec_standing, State.count_standing,
      State.launch_standing, State.dropKey_standing, State.modRec_standing, State.startAppend_standing,
      Station.modLink_standing, Station.modServo_standing, Station.modSpeed_standing,
      Station.modWrite_standing, Station.modRecall_standing, Station.modCtx_standing,
      Station.standing_upd, State.modStn_standing_upd, State.eachStn_standing,
      apply_ite Station.standing, State.modStn_modLink_standing, State.modStn_modServo_standing,
      State.modStn_modSpeed_standing, State.modStn_modWrite_standing, State.modStn_modRecall_standing,
      State.modStn_modCtx_standing, standing_upd, foldl_standing, State.modPort_standing,
      State.eachPort_standing, apply_ite State.standing, ite_self, implies_true]
       (repeat' split) <;> first | with_reducible rfl | simp only [State.modQp_standing, State.finishNew_standing, State.abandonRec_standing, State.count_standing,
      State.launch_standing, State.dropKey_standing, State.modRec_standing, State.startAppend_standing,
      Station.modLink_standing, Station.modServo_standing, Station.modSpeed_standing,
      Station.modWrite_standing, Station.modRecall_standing, Station.modCtx_standing,
      Station.standing_upd, State.modStn_standing_upd, State.eachStn_standing,
      apply_ite Station.standing, State.modStn_modLink_standing, State.modStn_modServo_standing,
      State.modStn_modSpeed_standing, State.modStn_modWrite_standing, State.modStn_modRecall_standing,
      State.modStn_modCtx_standing, standing_upd, foldl_standing, State.modPort_standing,
      State.eachPort_standing, apply_ite State.standing, ite_self, implies_true])

theorem State.addFlush_standing (s : State) (st : Stn) (why : FlushFor) (cover : List (Nat × Nat)) :
    (State.addFlush s st why cover).standing = s.standing := by
  simp only [State.addFlush, State.addJob_standing, State.settle_standing, Station.modLink_standing,
      Station.modServo_standing, Station.modSpeed_standing, Station.modWrite_standing,
      Station.modRecall_standing, Station.modCtx_standing, Station.standing_upd,
      State.modStn_standing_upd, State.eachStn_standing, apply_ite Station.standing,
      State.modStn_modLink_standing, State.modStn_modServo_standing, State.modStn_modSpeed_standing,
      State.modStn_modWrite_standing, State.modStn_modRecall_standing, State.modStn_modCtx_standing,
      standing_upd, foldl_standing, State.modPort_standing, State.eachPort_standing,
      apply_ite State.standing, ite_self, implies_true]

theorem State.startFlush_standing (r : CmdRef) (s : State) : (State.startFlush r s).standing = s.standing := by
  unfold State.startFlush
  (repeat' split) <;> first
    | with_reducible rfl
    | (simp only [State.modCmd_standing, State.finish_standing, State.finishLosses_standing, State.addFlush_standing,
      Station.modLink_standing, Station.modServo_standing, Station.modSpeed_standing,
      Station.modWrite_standing, Station.modRecall_standing, Station.modCtx_standing,
      Station.standing_upd, State.modStn_standing_upd, State.eachStn_standing,
      apply_ite Station.standing, State.modStn_modLink_standing, State.modStn_modServo_standing,
      State.modStn_modSpeed_standing, State.modStn_modWrite_standing, State.modStn_modRecall_standing,
      State.modStn_modCtx_standing, standing_upd, foldl_standing, State.modPort_standing,
      State.eachPort_standing, apply_ite State.standing, ite_self, implies_true]; done)
    | (simp only [State.modCmd_standing, State.finish_standing, State.finishLosses_standing, State.addFlush_standing,
      Station.modLink_standing, Station.modServo_standing, Station.modSpeed_standing,
      Station.modWrite_standing, Station.modRecall_standing, Station.modCtx_standing,
      Station.standing_upd, State.modStn_standing_upd, State.eachStn_standing,
      apply_ite Station.standing, State.modStn_modLink_standing, State.modStn_modServo_standing,
      State.modStn_modSpeed_standing, State.modStn_modWrite_standing, State.modStn_modRecall_standing,
      State.modStn_modCtx_standing, standing_upd, foldl_standing, State.modPort_standing,
      State.eachPort_standing, apply_ite State.standing, ite_self, implies_true]
       (repeat' split) <;> first | with_reducible rfl | simp only [State.modCmd_standing, State.finish_standing, State.finishLosses_standing, State.addFlush_standing,
      Station.modLink_standing, Station.modServo_standing, Station.modSpeed_standing,
      Station.modWrite_standing, Station.modRecall_standing, Station.modCtx_standing,
      Station.standing_upd, State.modStn_standing_upd, State.eachStn_standing,
      apply_ite Station.standing, State.modStn_modLink_standing, State.modStn_modServo_standing,
      State.modStn_modSpeed_standing, State.modStn_modWrite_standing, State.modStn_modRecall_standing,
      State.modStn_modCtx_standing, standing_upd, foldl_standing, State.modPort_standing,
      State.eachPort_standing, apply_ite State.standing, ite_self, implies_true])

theorem State.startReader_standing (r : CmdRef) (s : State) : (State.startReader r s).standing = s.standing := by
  unfold State.startReader
  (repeat' split) <;> first
    | with_reducible rfl
    | (simp only [State.modCmd_standing, State.finish_standing, State.goReader_standing, State.serveSeek_standing,
      State.addFlush_standing, Station.modLink_standing, Station.modServo_standing,
      Station.modSpeed_standing, Station.modWrite_standing, Station.modRecall_standing,
      Station.modCtx_standing, Station.standing_upd, State.modStn_standing_upd, State.eachStn_standing,
      apply_ite Station.standing, State.modStn_modLink_standing, State.modStn_modServo_standing,
      State.modStn_modSpeed_standing, State.modStn_modWrite_standing, State.modStn_modRecall_standing,
      State.modStn_modCtx_standing, standing_upd, foldl_standing, State.modPort_standing,
      State.eachPort_standing, apply_ite State.standing, ite_self, implies_true]; done)
    | (simp only [State.modCmd_standing, State.finish_standing, State.goReader_standing, State.serveSeek_standing,
      State.addFlush_standing, Station.modLink_standing, Station.modServo_standing,
      Station.modSpeed_standing, Station.modWrite_standing, Station.modRecall_standing,
      Station.modCtx_standing, Station.standing_upd, State.modStn_standing_upd, State.eachStn_standing,
      apply_ite Station.standing, State.modStn_modLink_standing, State.modStn_modServo_standing,
      State.modStn_modSpeed_standing, State.modStn_modWrite_standing, State.modStn_modRecall_standing,
      State.modStn_modCtx_standing, standing_upd, foldl_standing, State.modPort_standing,
      State.eachPort_standing, apply_ite State.standing, ite_self, implies_true]
       (repeat' split) <;> first | with_reducible rfl | simp only [State.modCmd_standing, State.finish_standing, State.goReader_standing, State.serveSeek_standing,
      State.addFlush_standing, Station.modLink_standing, Station.modServo_standing,
      Station.modSpeed_standing, Station.modWrite_standing, Station.modRecall_standing,
      Station.modCtx_standing, Station.standing_upd, State.modStn_standing_upd, State.eachStn_standing,
      apply_ite Station.standing, State.modStn_modLink_standing, State.modStn_modServo_standing,
      State.modStn_modSpeed_standing, State.modStn_modWrite_standing, State.modStn_modRecall_standing,
      State.modStn_modCtx_standing, standing_upd, foldl_standing, State.modPort_standing,
      State.eachPort_standing, apply_ite State.standing, ite_self, implies_true])

theorem State.runReader_standing (c : HostCmd) (s : State) : (State.runReader c s).standing = s.standing := by
  simp only [State.runReader, State.launch_standing, State.startReader_standing, Station.modLink_standing,
      Station.modServo_standing, Station.modSpeed_standing, Station.modWrite_standing,
      Station.modRecall_standing, Station.modCtx_standing, Station.standing_upd,
      State.modStn_standing_upd, State.eachStn_standing, apply_ite Station.standing,
      State.modStn_modLink_standing, State.modStn_modServo_standing, State.modStn_modSpeed_standing,
      State.modStn_modWrite_standing, State.modStn_modRecall_standing, State.modStn_modCtx_standing,
      standing_upd, foldl_standing, State.modPort_standing, State.eachPort_standing,
      apply_ite State.standing, ite_self, implies_true]

theorem State.sealGo_standing (s : State) (st : Stn) : (State.sealGo s st).standing = s.standing := by
  unfold State.sealGo
  (repeat' split) <;> simp only [State.addFlush_standing, Station.modLink_standing, Station.modServo_standing,
      Station.modSpeed_standing, Station.modWrite_standing, Station.modRecall_standing,
      Station.modCtx_standing, Station.standing_upd, State.modStn_standing_upd, State.eachStn_standing,
      apply_ite Station.standing, State.modStn_modLink_standing, State.modStn_modServo_standing,
      State.modStn_modSpeed_standing, State.modStn_modWrite_standing, State.modStn_modRecall_standing,
      State.modStn_modCtx_standing, standing_upd, foldl_standing, State.modPort_standing,
      State.eachPort_standing, apply_ite State.standing, ite_self, implies_true]

theorem State.startSeal_standing (r : CmdRef) (s : State) : (State.startSeal r s).standing = s.standing := by
  unfold State.startSeal
  (repeat' split) <;> simp only [State.modCmd_standing, State.settle_standing, State.sealGo_standing, Station.modLink_standing,
      Station.modServo_standing, Station.modSpeed_standing, Station.modWrite_standing,
      Station.modRecall_standing, Station.modCtx_standing, Station.standing_upd,
      State.modStn_standing_upd, State.eachStn_standing, apply_ite Station.standing,
      State.modStn_modLink_standing, State.modStn_modServo_standing, State.modStn_modSpeed_standing,
      State.modStn_modWrite_standing, State.modStn_modRecall_standing, State.modStn_modCtx_standing,
      standing_upd, foldl_standing, State.modPort_standing, State.eachPort_standing,
      apply_ite State.standing, ite_self, implies_true]

theorem State.fenceGo_standing (s : State) (p : Port) (q : Nat) : (State.fenceGo s p q).standing = s.standing := by
  unfold State.fenceGo
  (repeat' split) <;> simp only [State.finish_standing, Station.modLink_standing, Station.modServo_standing,
      Station.modSpeed_standing, Station.modWrite_standing, Station.modRecall_standing,
      Station.modCtx_standing, Station.standing_upd, State.modStn_standing_upd, State.eachStn_standing,
      apply_ite Station.standing, State.modStn_modLink_standing, State.modStn_modServo_standing,
      State.modStn_modSpeed_standing, State.modStn_modWrite_standing, State.modStn_modRecall_standing,
      State.modStn_modCtx_standing, standing_upd, foldl_standing, State.modPort_standing,
      State.eachPort_standing, apply_ite State.standing, ite_self, implies_true]

theorem State.rekey_standing (s : State) (st : Stn) (mnt : BitVec 32) (lon : Nat) :
    (State.rekey s st mnt lon).standing = s.standing := by
  unfold State.rekey
  (repeat' split) <;> simp only [State.modQp_standing, Station.modLink_standing, Station.modServo_standing,
      Station.modSpeed_standing, Station.modWrite_standing, Station.modRecall_standing,
      Station.modCtx_standing, Station.standing_upd, State.modStn_standing_upd, State.eachStn_standing,
      apply_ite Station.standing, State.modStn_modLink_standing, State.modStn_modServo_standing,
      State.modStn_modSpeed_standing, State.modStn_modWrite_standing, State.modStn_modRecall_standing,
      State.modStn_modCtx_standing, standing_upd, foldl_standing, State.modPort_standing,
      State.eachPort_standing, apply_ite State.standing, ite_self, implies_true]

theorem State.untakeAppend_standing (s : State) (r : CmdRef) : (State.untakeAppend s r).standing = s.standing := by
  unfold State.untakeAppend
  (repeat' split) <;> simp only [State.finishAll_standing, State.dropWaits_standing, State.dropJobs_standing, State.count_standing,
      State.dropKey_standing, State.modRec_standing, State.rekey_standing, Station.modLink_standing,
      Station.modServo_standing, Station.modSpeed_standing, Station.modWrite_standing,
      Station.modRecall_standing, Station.modCtx_standing, Station.standing_upd,
      State.modStn_standing_upd, State.eachStn_standing, apply_ite Station.standing,
      State.modStn_modLink_standing, State.modStn_modServo_standing, State.modStn_modSpeed_standing,
      State.modStn_modWrite_standing, State.modStn_modRecall_standing, State.modStn_modCtx_standing,
      standing_upd, foldl_standing, State.modPort_standing, State.eachPort_standing,
      apply_ite State.standing, ite_self, implies_true]

theorem State.refuseCmd_standing (s : State) (r : CmdRef) : (State.refuseCmd s r).standing = s.standing := by
  unfold State.refuseCmd
  (repeat' split) <;> simp only [State.finish_standing, State.sealGo_standing, State.untakeAppend_standing,
      Station.modLink_standing, Station.modServo_standing, Station.modSpeed_standing,
      Station.modWrite_standing, Station.modRecall_standing, Station.modCtx_standing,
      Station.standing_upd, State.modStn_standing_upd, State.eachStn_standing,
      apply_ite Station.standing, State.modStn_modLink_standing, State.modStn_modServo_standing,
      State.modStn_modSpeed_standing, State.modStn_modWrite_standing, State.modStn_modRecall_standing,
      State.modStn_modCtx_standing, standing_upd, foldl_standing, State.modPort_standing,
      State.eachPort_standing, apply_ite State.standing, ite_self, implies_true]

theorem State.powerFlush_standing (s : State) : (State.powerFlush s).standing = s.standing := by
  unfold State.powerFlush
  refine foldl_standing _ (fun a st => ?_) _ _
  dsimp only
  (repeat' split) <;> first
    | rfl
    | exact State.addFlush_standing ..

theorem State.powerStops_standing (s : State) : (State.powerStops s).standing = s.standing := by
  simp only [State.powerStops, State.controlledStop_standing, Station.modLink_standing,
      Station.modServo_standing, Station.modSpeed_standing, Station.modWrite_standing,
      Station.modRecall_standing, Station.modCtx_standing, Station.standing_upd,
      State.modStn_standing_upd, State.eachStn_standing, apply_ite Station.standing,
      State.modStn_modLink_standing, State.modStn_modServo_standing, State.modStn_modSpeed_standing,
      State.modStn_modWrite_standing, State.modStn_modRecall_standing, State.modStn_modCtx_standing,
      standing_upd, foldl_standing, State.modPort_standing, State.eachPort_standing,
      apply_ite State.standing, ite_self, implies_true]

theorem State.quietStn_standing (s : State) (st : Stn) : (State.quietStn s st).standing = s.standing := by
  simp only [State.quietStn, State.openLoops_standing, Station.modLink_standing, Station.modServo_standing,
      Station.modSpeed_standing, Station.modWrite_standing, Station.modRecall_standing,
      Station.modCtx_standing, Station.standing_upd, State.modStn_standing_upd, State.eachStn_standing,
      apply_ite Station.standing, State.modStn_modLink_standing, State.modStn_modServo_standing,
      State.modStn_modSpeed_standing, State.modStn_modWrite_standing, State.modStn_modRecall_standing,
      State.modStn_modCtx_standing, standing_upd, foldl_standing, State.modPort_standing,
      State.eachPort_standing, apply_ite State.standing, ite_self, implies_true]

theorem State.powerDeeper_standing (s : State) : (State.powerDeeper s).standing = s.standing := by
  unfold State.powerDeeper
  (repeat' split) <;> simp only [State.eachPort_standing, State.quietStn_standing, Station.modLink_standing,
      Station.modServo_standing, Station.modSpeed_standing, Station.modWrite_standing,
      Station.modRecall_standing, Station.modCtx_standing, Station.standing_upd,
      State.modStn_standing_upd, State.eachStn_standing, apply_ite Station.standing,
      State.modStn_modLink_standing, State.modStn_modServo_standing, State.modStn_modSpeed_standing,
      State.modStn_modWrite_standing, State.modStn_modRecall_standing, State.modStn_modCtx_standing,
      standing_upd, foldl_standing, State.modPort_standing, State.eachPort_standing,
      apply_ite State.standing, ite_self, implies_true]

theorem State.powerEnd_standing (s : State) : (State.powerEnd s).standing = s.standing := by
  unfold State.powerEnd
  (repeat' split) <;> simp only [State.finish_standing, Station.modLink_standing, Station.modServo_standing,
      Station.modSpeed_standing, Station.modWrite_standing, Station.modRecall_standing,
      Station.modCtx_standing, Station.standing_upd, State.modStn_standing_upd, State.eachStn_standing,
      apply_ite Station.standing, State.modStn_modLink_standing, State.modStn_modServo_standing,
      State.modStn_modSpeed_standing, State.modStn_modWrite_standing, State.modStn_modRecall_standing,
      State.modStn_modCtx_standing, standing_upd, foldl_standing, State.modPort_standing,
      State.eachPort_standing, apply_ite State.standing, ite_self, implies_true]

theorem State.powerOnce_standing (s : State) : (State.powerOnce s).standing = s.standing := by
  unfold State.powerOnce
  (repeat' split) <;> simp only [State.powerFlush_standing, State.powerStops_standing, State.powerDeeper_standing,
      State.powerEnd_standing, Station.modLink_standing, Station.modServo_standing,
      Station.modSpeed_standing, Station.modWrite_standing, Station.modRecall_standing,
      Station.modCtx_standing, Station.standing_upd, State.modStn_standing_upd, State.eachStn_standing,
      apply_ite Station.standing, State.modStn_modLink_standing, State.modStn_modServo_standing,
      State.modStn_modSpeed_standing, State.modStn_modWrite_standing, State.modStn_modRecall_standing,
      State.modStn_modCtx_standing, standing_upd, foldl_standing, State.modPort_standing,
      State.eachPort_standing, apply_ite State.standing, ite_self, implies_true]

theorem State.powerGo_standing (s : State) : (State.powerGo s).standing = s.standing := by
  simp only [State.powerGo, State.powerOnce_standing, Station.modLink_standing, Station.modServo_standing,
      Station.modSpeed_standing, Station.modWrite_standing, Station.modRecall_standing,
      Station.modCtx_standing, Station.standing_upd, State.modStn_standing_upd, State.eachStn_standing,
      apply_ite Station.standing, State.modStn_modLink_standing, State.modStn_modServo_standing,
      State.modStn_modSpeed_standing, State.modStn_modWrite_standing, State.modStn_modRecall_standing,
      State.modStn_modCtx_standing, standing_upd, foldl_standing, State.modPort_standing,
      State.eachPort_standing, apply_ite State.standing, ite_self, implies_true]

theorem State.runPower_standing (c : HostCmd) (s : State) : (State.runPower c s).standing = s.standing := by
  simp only [State.runPower, State.eachPort_standing, State.finish_standing, State.addCmd_standing,
      State.leaveQuiet_standing, State.powerGo_standing, Station.modLink_standing,
      Station.modServo_standing, Station.modSpeed_standing, Station.modWrite_standing,
      Station.modRecall_standing, Station.modCtx_standing, Station.standing_upd,
      State.modStn_standing_upd, State.eachStn_standing, apply_ite Station.standing,
      State.modStn_modLink_standing, State.modStn_modServo_standing, State.modStn_modSpeed_standing,
      State.modStn_modWrite_standing, State.modStn_modRecall_standing, State.modStn_modCtx_standing,
      standing_upd, foldl_standing, State.modPort_standing, State.eachPort_standing,
      apply_ite State.standing, ite_self, implies_true]

theorem State.logLost_standing (s : State) (r : Rec) : (State.logLost s r).standing = s.standing := by
  simp only [State.logLost, State.logErr_standing, Station.modLink_standing, Station.modServo_standing,
      Station.modSpeed_standing, Station.modWrite_standing, Station.modRecall_standing,
      Station.modCtx_standing, Station.standing_upd, State.modStn_standing_upd, State.eachStn_standing,
      apply_ite Station.standing, State.modStn_modLink_standing, State.modStn_modServo_standing,
      State.modStn_modSpeed_standing, State.modStn_modWrite_standing, State.modStn_modRecall_standing,
      State.modStn_modCtx_standing, standing_upd, foldl_standing, State.modPort_standing,
      State.eachPort_standing, apply_ite State.standing, ite_self, implies_true]

theorem State.loseContext_standing (s : State) (st : Stn) : (State.loseContext s st).standing = s.standing := by
  have k1 : ∀ (n : Nat) (lon : Nat) (l : List FlushJob) (a : State), (l.foldl (fun (a : State) j => match j.why with
      | .flush c => a.finish c { status := 0x10, result := n, lon := lon }
      | _ => a) a).standing = a.standing := fun n lon l a => foldl_standing _ (fun a j => by
    split <;> simp only [State.finish_standing]) _ _
  have k2 : ∀ (l : List Rec) (a : State), (l.foldl (fun (a : State) r => a.logLost r) a).standing = a.standing :=
    fun l a => foldl_standing _ (fun _ _ => State.logLost_standing ..) _ _
  unfold State.loseContext
  split
  · rfl
  · simp only [State.raise_standing, State.failStation_standing, State.controlledStop_standing, State.modStn_standing_upd, State.modStn_modLink_standing, State.modStn_modServo_standing, State.modStn_modSpeed_standing, State.modStn_modWrite_standing, State.modStn_modRecall_standing, State.modStn_modCtx_standing]
    exact (k1 _ _ _ _).trans ((k2 _ _).trans (State.modStn_standing _ _ _ (by exact fun _ => rfl)))

theorem State.dropArea_standing (s : State) (st : Stn) (g : Gath) : (State.dropArea s st g).standing = s.standing := by
  unfold State.dropArea
  exact State.modStn_standing _ _ _ (fun t => by split <;> rfl)

theorem State.burnReleased_standing (s : State) (st : Stn) (gnum : Nat) : (State.burnReleased s st gnum).standing = s.standing := by
  unfold State.burnReleased
  dsimp only
  split
  · rfl
  · refine ite_standing rfl ?_
    refine (State.settle_standing ..).trans ?_
    refine (foldl_standing _ (fun a n => State.abandonRec_standing ..) _ _).trans ?_
    refine (State.modStn_standing _ _ _ (fun t => ?_)).trans ?_
    · (repeat' split) <;> rfl
    · exact ite_standing (State.unplace_standing ..) rfl

theorem State.scrubPage_standing (s : State) (place : PageAddr) (l : PageLine) (detail : Nat) :
    (State.scrubPage s place l detail).standing = s.standing := by
  simp only [State.scrubPage, State.raise_standing, State.elogPage_standing, State.countCorrected_standing,
      State.schedule_standing, State.hardFault_standing, State.writePage_standing,
      Station.modLink_standing, Station.modServo_standing, Station.modSpeed_standing,
      Station.modWrite_standing, Station.modRecall_standing, Station.modCtx_standing,
      Station.standing_upd, State.modStn_standing_upd, State.eachStn_standing,
      apply_ite Station.standing, State.modStn_modLink_standing, State.modStn_modServo_standing,
      State.modStn_modSpeed_standing, State.modStn_modWrite_standing, State.modStn_modRecall_standing,
      State.modStn_modCtx_standing, standing_upd, foldl_standing, State.modPort_standing,
      State.eachPort_standing, apply_ite State.standing, ite_self, implies_true]

theorem State.poolWait_standing (s : State) (d : DieId) (p : Fin 5) (w : Waiter) :
    (State.poolWait s d p w).standing = s.standing := by
  unfold State.poolWait
  (repeat' split) <;> simp only [State.modDie_standing, State.modCmd_standing, State.backToWait_standing, Station.modLink_standing,
      Station.modServo_standing, Station.modSpeed_standing, Station.modWrite_standing,
      Station.modRecall_standing, Station.modCtx_standing, Station.standing_upd,
      State.modStn_standing_upd, State.eachStn_standing, apply_ite Station.standing,
      State.modStn_modLink_standing, State.modStn_modServo_standing, State.modStn_modSpeed_standing,
      State.modStn_modWrite_standing, State.modStn_modRecall_standing, State.modStn_modCtx_standing,
      standing_upd, foldl_standing, State.modPort_standing, State.eachPort_standing,
      apply_ite State.standing, ite_self, implies_true]

theorem State.poolRefuse_standing (s : State) (use : PoolUse) : (State.poolRefuse s use).standing = s.standing := by
  unfold State.poolRefuse
  (repeat' split) <;> simp only [State.refuseCmd_standing, Station.modLink_standing, Station.modServo_standing,
      Station.modSpeed_standing, Station.modWrite_standing, Station.modRecall_standing,
      Station.modCtx_standing, Station.standing_upd, State.modStn_standing_upd, State.eachStn_standing,
      apply_ite Station.standing, State.modStn_modLink_standing, State.modStn_modServo_standing,
      State.modStn_modSpeed_standing, State.modStn_modWrite_standing, State.modStn_modRecall_standing,
      State.modStn_modCtx_standing, standing_upd, foldl_standing, State.modPort_standing,
      State.eachPort_standing, apply_ite State.standing, ite_self, implies_true]

theorem State.startScrub_standing (r : CmdRef) (s : State) : (State.startScrub r s).standing = s.standing := by
  unfold State.startScrub
  (repeat' split) <;> simp only [State.modDie_standing, State.modCmd_standing, State.finish_standing, Station.modLink_standing,
      Station.modServo_standing, Station.modSpeed_standing, Station.modWrite_standing,
      Station.modRecall_standing, Station.modCtx_standing, Station.standing_upd,
      State.modStn_standing_upd, State.eachStn_standing, apply_ite Station.standing,
      State.modStn_modLink_standing, State.modStn_modServo_standing, State.modStn_modSpeed_standing,
      State.modStn_modWrite_standing, State.modStn_modRecall_standing, State.modStn_modCtx_standing,
      standing_upd, foldl_standing, State.modPort_standing, State.eachPort_standing,
      apply_ite State.standing, ite_self, implies_true]

theorem State.retired_standing (s : State) (d : DieId) (dpn : Nat) (port : Port) :
    (State.retired s d dpn port).standing = s.standing := by
  unfold State.retired
  (repeat' split) <;> first
    | with_reducible rfl
    | (simp only [State.modDie_standing, State.elogPage_standing, State.dropRemap_standing, Station.modLink_standing,
      Station.modServo_standing, Station.modSpeed_standing, Station.modWrite_standing,
      Station.modRecall_standing, Station.modCtx_standing, Station.standing_upd,
      State.modStn_standing_upd, State.eachStn_standing, apply_ite Station.standing,
      State.modStn_modLink_standing, State.modStn_modServo_standing, State.modStn_modSpeed_standing,
      State.modStn_modWrite_standing, State.modStn_modRecall_standing, State.modStn_modCtx_standing,
      standing_upd, foldl_standing, State.modPort_standing, State.eachPort_standing,
      apply_ite State.standing, ite_self, implies_true]; done)
    | (simp only [State.modDie_standing, State.elogPage_standing, State.dropRemap_standing, Station.modLink_standing,
      Station.modServo_standing, Station.modSpeed_standing, Station.modWrite_standing,
      Station.modRecall_standing, Station.modCtx_standing, Station.standing_upd,
      State.modStn_standing_upd, State.eachStn_standing, apply_ite Station.standing,
      State.modStn_modLink_standing, State.modStn_modServo_standing, State.modStn_modSpeed_standing,
      State.modStn_modWrite_standing, State.modStn_modRecall_standing, State.modStn_modCtx_standing,
      standing_upd, foldl_standing, State.modPort_standing, State.eachPort_standing,
      apply_ite State.standing, ite_self, implies_true]
       (repeat' split) <;> first | with_reducible rfl | simp only [State.modDie_standing, State.elogPage_standing, State.dropRemap_standing, Station.modLink_standing,
      Station.modServo_standing, Station.modSpeed_standing, Station.modWrite_standing,
      Station.modRecall_standing, Station.modCtx_standing, Station.standing_upd,
      State.modStn_standing_upd, State.eachStn_standing, apply_ite Station.standing,
      State.modStn_modLink_standing, State.modStn_modServo_standing, State.modStn_modSpeed_standing,
      State.modStn_modWrite_standing, State.modStn_modRecall_standing, State.modStn_modCtx_standing,
      standing_upd, foldl_standing, State.modPort_standing, State.eachPort_standing,
      apply_ite State.standing, ite_self, implies_true])

theorem State.endReading_standing (s : State) (st : Stn) : (State.endReading s st).standing = s.standing := by
  simp only [State.endReading, State.controlledStop_standing, Station.modLink_standing,
      Station.modServo_standing, Station.modSpeed_standing, Station.modWrite_standing,
      Station.modRecall_standing, Station.modCtx_standing, Station.standing_upd,
      State.modStn_standing_upd, State.eachStn_standing, apply_ite Station.standing,
      State.modStn_modLink_standing, State.modStn_modServo_standing, State.modStn_modSpeed_standing,
      State.modStn_modWrite_standing, State.modStn_modRecall_standing, State.modStn_modCtx_standing,
      standing_upd, foldl_standing, State.modPort_standing, State.eachPort_standing,
      apply_ite State.standing, ite_self, implies_true]

theorem State.dropMount_standing (s : State) (st : Stn) : (State.dropMount s st).standing = s.standing := by
  simp only [State.dropMount, State.controlledStop_standing, State.openLoops_standing, State.dismount_standing,
      Station.modLink_standing, Station.modServo_standing, Station.modSpeed_standing,
      Station.modWrite_standing, Station.modRecall_standing, Station.modCtx_standing,
      Station.standing_upd, State.modStn_standing_upd, State.eachStn_standing,
      apply_ite Station.standing, State.modStn_modLink_standing, State.modStn_modServo_standing,
      State.modStn_modSpeed_standing, State.modStn_modWrite_standing, State.modStn_modRecall_standing,
      State.modStn_modCtx_standing, standing_upd, foldl_standing, State.modPort_standing,
      State.eachPort_standing, apply_ite State.standing, ite_self, implies_true]

theorem State.forgetCmd_standing (s : State) (r : CmdRef) : (State.forgetCmd s r).standing = s.standing := by
  simp only [State.forgetCmd, State.unlock_standing, State.dropWaits_standing, Station.modLink_standing,
      Station.modServo_standing, Station.modSpeed_standing, Station.modWrite_standing,
      Station.modRecall_standing, Station.modCtx_standing, Station.standing_upd,
      State.modStn_standing_upd, State.eachStn_standing, apply_ite Station.standing,
      State.modStn_modLink_standing, State.modStn_modServo_standing, State.modStn_modSpeed_standing,
      State.modStn_modWrite_standing, State.modStn_modRecall_standing, State.modStn_modCtx_standing,
      standing_upd, foldl_standing, State.modPort_standing, State.eachPort_standing,
      apply_ite State.standing, ite_self, implies_true]

theorem State.migHalt_standing (s : State) (j : MigJob) : (State.migHalt s j).standing = s.standing := by
  unfold State.migHalt
  (repeat' split) <;> first
    | with_reducible rfl
    | (simp only [State.endMig_standing, State.addFlush_standing, State.endReading_standing,
      Station.modLink_standing, Station.modServo_standing, Station.modSpeed_standing,
      Station.modWrite_standing, Station.modRecall_standing, Station.modCtx_standing,
      Station.standing_upd, State.modStn_standing_upd, State.eachStn_standing,
      apply_ite Station.standing, State.modStn_modLink_standing, State.modStn_modServo_standing,
      State.modStn_modSpeed_standing, State.modStn_modWrite_standing, State.modStn_modRecall_standing,
      State.modStn_modCtx_standing, standing_upd, foldl_standing, State.modPort_standing,
      State.eachPort_standing, apply_ite State.standing, ite_self, implies_true]; done)
    | (simp only [State.endMig_standing, State.addFlush_standing, State.endReading_standing,
      Station.modLink_standing, Station.modServo_standing, Station.modSpeed_standing,
      Station.modWrite_standing, Station.modRecall_standing, Station.modCtx_standing,
      Station.standing_upd, State.modStn_standing_upd, State.eachStn_standing,
      apply_ite Station.standing, State.modStn_modLink_standing, State.modStn_modServo_standing,
      State.modStn_modSpeed_standing, State.modStn_modWrite_standing, State.modStn_modRecall_standing,
      State.modStn_modCtx_standing, standing_upd, foldl_standing, State.modPort_standing,
      State.eachPort_standing, apply_ite State.standing, ite_self, implies_true]
       (repeat' split) <;> first | with_reducible rfl | simp only [State.endMig_standing, State.addFlush_standing, State.endReading_standing,
      Station.modLink_standing, Station.modServo_standing, Station.modSpeed_standing,
      Station.modWrite_standing, Station.modRecall_standing, Station.modCtx_standing,
      Station.standing_upd, State.modStn_standing_upd, State.eachStn_standing,
      apply_ite Station.standing, State.modStn_modLink_standing, State.modStn_modServo_standing,
      State.modStn_modSpeed_standing, State.modStn_modWrite_standing, State.modStn_modRecall_standing,
      State.modStn_modCtx_standing, standing_upd, foldl_standing, State.modPort_standing,
      State.eachPort_standing, apply_ite State.standing, ite_self, implies_true])

theorem State.abortKind_standing (s1 : State) (r : CmdRef) (k : Cmd) : (State.abortKind s1 r k).standing = s1.standing := by
  unfold State.abortKind
  dsimp only
  split
  · exact (State.settle_standing ..).trans ((State.sealGo_standing ..).trans (State.abandonRec_standing ..))
  · exact (State.endReading_standing ..).trans (State.modStn_standing _ _ _ (by exact fun _ => rfl))
  · exact (State.endReading_standing ..).trans (State.modStn_standing _ _ _ (by exact fun _ => rfl))
  · exact (State.endReading_standing ..).trans (State.modStn_standing _ _ _ (by exact fun _ => rfl))
  · exact State.modStn_standing _ _ _ (by exact fun _ => rfl)
  · split
    · exact State.migHalt_standing ..
    · rfl
  · exact State.modStn_standing _ _ _ (by exact fun _ => rfl)
  · exact ite_standing (State.dropMount_standing ..) rfl
  · exact ite_standing rfl rfl
  · exact State.eachDie_standing ..
  · rfl

theorem State.abortEffect_standing (s : State) (r : CmdRef) (k : Cmd) : (State.abortEffect s r k).standing = s.standing := by
  simp only [State.abortEffect, State.forgetCmd_standing, State.abortKind_standing, Station.modLink_standing,
      Station.modServo_standing, Station.modSpeed_standing, Station.modWrite_standing,
      Station.modRecall_standing, Station.modCtx_standing, Station.standing_upd,
      State.modStn_standing_upd, State.eachStn_standing, apply_ite Station.standing,
      State.modStn_modLink_standing, State.modStn_modServo_standing, State.modStn_modSpeed_standing,
      State.modStn_modWrite_standing, State.modStn_modRecall_standing, State.modStn_modCtx_standing,
      standing_upd, foldl_standing, State.modPort_standing, State.eachPort_standing,
      apply_ite State.standing, ite_self, implies_true]

theorem State.undone_standing (s : State) (p : Port) (q : Nat) (d : Done) :
    (State.undone s p q d).standing = s.standing := by
  simp only [State.undone, State.unlock_standing, State.abandonRec_standing, State.settle_standing,
      Station.modLink_standing, Station.modServo_standing, Station.modSpeed_standing,
      Station.modWrite_standing, Station.modRecall_standing, Station.modCtx_standing,
      Station.standing_upd, State.modStn_standing_upd, State.eachStn_standing,
      apply_ite Station.standing, State.modStn_modLink_standing, State.modStn_modServo_standing,
      State.modStn_modSpeed_standing, State.modStn_modWrite_standing, State.modStn_modRecall_standing,
      State.modStn_modCtx_standing, standing_upd, foldl_standing, State.modPort_standing,
      State.eachPort_standing, apply_ite State.standing, ite_self, implies_true]

theorem State.abortQueue_standing (s : State) (p : Port) (q : Nat) : (State.abortQueue s p q).standing = s.standing := by
  unfold State.abortQueue
  (repeat' split) <;> simp only [State.modQp_standing, State.abortEffect_standing, State.undone_standing, Station.modLink_standing,
      Station.modServo_standing, Station.modSpeed_standing, Station.modWrite_standing,
      Station.modRecall_standing, Station.modCtx_standing, Station.standing_upd,
      State.modStn_standing_upd, State.eachStn_standing, apply_ite Station.standing,
      State.modStn_modLink_standing, State.modStn_modServo_standing, State.modStn_modSpeed_standing,
      State.modStn_modWrite_standing, State.modStn_modRecall_standing, State.modStn_modCtx_standing,
      standing_upd, foldl_standing, State.modPort_standing, State.eachPort_standing,
      apply_ite State.standing, ite_self, implies_true]

theorem State.dropGoneKeys_standing (s : State) (p : Port) (q : Nat) : (State.dropGoneKeys s p q).standing = s.standing := by
  unfold State.dropGoneKeys
  rfl

theorem State.abandonOpen_standing (s : State) (p : Port) (q : Nat) : (State.abandonOpen s p q).standing = s.standing := by
  unfold State.abandonOpen
  refine foldl_standing _ (fun a st => ?_) _ _
  split
  · rfl
  · rw [State.settle_standing]
    exact foldl_standing _ (fun _ _ => State.abandonRec_standing ..) _ _

theorem State.reported_standing (s : State) (d : Done) : (State.reported s d).standing = s.standing := by
  simp only [State.reported, State.modRec_standing, Station.modLink_standing, Station.modServo_standing,
      Station.modSpeed_standing, Station.modWrite_standing, Station.modRecall_standing,
      Station.modCtx_standing, Station.standing_upd, State.modStn_standing_upd, State.eachStn_standing,
      apply_ite Station.standing, State.modStn_modLink_standing, State.modStn_modServo_standing,
      State.modStn_modSpeed_standing, State.modStn_modWrite_standing, State.modStn_modRecall_standing,
      State.modStn_modCtx_standing, standing_upd, foldl_standing, State.modPort_standing,
      State.eachPort_standing, apply_ite State.standing, ite_self, implies_true]

theorem State.finalDone_standing (s : State) (p : Port) (q : Nat) : (State.finalDone s p q).standing = s.standing := by
  unfold State.finalDone
  (repeat' split) <;> simp only [State.modQp_standing, State.finish_standing, Station.modLink_standing, Station.modServo_standing,
      Station.modSpeed_standing, Station.modWrite_standing, Station.modRecall_standing,
      Station.modCtx_standing, Station.standing_upd, State.modStn_standing_upd, State.eachStn_standing,
      apply_ite Station.standing, State.modStn_modLink_standing, State.modStn_modServo_standing,
      State.modStn_modSpeed_standing, State.modStn_modWrite_standing, State.modStn_modRecall_standing,
      State.modStn_modCtx_standing, standing_upd, foldl_standing, State.modPort_standing,
      State.eachPort_standing, apply_ite State.standing, ite_self, implies_true]

theorem State.writeDone_standing (s : State) (p : Port) (q : Nat) : (State.writeDone s p q).standing = s.standing := by
  unfold State.writeDone
  (repeat' split) <;> simp only [State.emit_standing, State.msix_standing, State.trace_standing, State.modQp_standing,
      State.unlock_standing, State.fenceGo_standing, State.powerGo_standing, State.reported_standing,
      State.finalDone_standing, Station.modLink_standing, Station.modServo_standing,
      Station.modSpeed_standing, Station.modWrite_standing, Station.modRecall_standing,
      Station.modCtx_standing, Station.standing_upd, State.modStn_standing_upd, State.eachStn_standing,
      apply_ite Station.standing, State.modStn_modLink_standing, State.modStn_modServo_standing,
      State.modStn_modSpeed_standing, State.modStn_modWrite_standing, State.modStn_modRecall_standing,
      State.modStn_modCtx_standing, standing_upd, foldl_standing, State.modPort_standing,
      State.eachPort_standing, apply_ite State.standing, ite_self, implies_true]

theorem State.blackBox_standing (s : State) (cause detail : Nat) :
    (State.blackBox s cause detail).standing = s.standing := by
  simp only [State.blackBox, State.raise_standing, State.take_standing, Station.modLink_standing,
      Station.modServo_standing, Station.modSpeed_standing, Station.modWrite_standing,
      Station.modRecall_standing, Station.modCtx_standing, Station.standing_upd,
      State.modStn_standing_upd, State.eachStn_standing, apply_ite Station.standing,
      State.modStn_modLink_standing, State.modStn_modServo_standing, State.modStn_modSpeed_standing,
      State.modStn_modWrite_standing, State.modStn_modRecall_standing, State.modStn_modCtx_standing,
      standing_upd, foldl_standing, State.modPort_standing, State.eachPort_standing,
      apply_ite State.standing, ite_self, implies_true]

theorem State.enterE4_standing (s : State) : (State.enterE4 s).standing = s.standing := by
  simp only [State.enterE4, Station.modLink_standing, Station.modServo_standing, Station.modSpeed_standing,
      Station.modWrite_standing, Station.modRecall_standing, Station.modCtx_standing,
      Station.standing_upd, State.modStn_standing_upd, State.eachStn_standing,
      apply_ite Station.standing, State.modStn_modLink_standing, State.modStn_modServo_standing,
      State.modStn_modSpeed_standing, State.modStn_modWrite_standing, State.modStn_modRecall_standing,
      State.modStn_modCtx_standing, standing_upd, foldl_standing, State.modPort_standing,
      State.eachPort_standing, apply_ite State.standing, ite_self, implies_true]

theorem State.tryE4_standing (s : State) : (State.tryE4 s).standing = s.standing := by
  simp only [State.tryE4, State.enterE4_standing, Station.modLink_standing, Station.modServo_standing,
      Station.modSpeed_standing, Station.modWrite_standing, Station.modRecall_standing,
      Station.modCtx_standing, Station.standing_upd, State.modStn_standing_upd, State.eachStn_standing,
      apply_ite Station.standing, State.modStn_modLink_standing, State.modStn_modServo_standing,
      State.modStn_modSpeed_standing, State.modStn_modWrite_standing, State.modStn_modRecall_standing,
      State.modStn_modCtx_standing, standing_upd, foldl_standing, State.modPort_standing,
      State.eachPort_standing, apply_ite State.standing, ite_self, implies_true]

theorem State.tryExit_standing (s : State) : (State.tryExit s).standing = s.standing := by
  unfold State.tryExit
  (repeat' split) <;> simp only [State.tryE4_standing, Station.modLink_standing, Station.modServo_standing,
      Station.modSpeed_standing, Station.modWrite_standing, Station.modRecall_standing,
      Station.modCtx_standing, Station.standing_upd, State.modStn_standing_upd, State.eachStn_standing,
      apply_ite Station.standing, State.modStn_modLink_standing, State.modStn_modServo_standing,
      State.modStn_modSpeed_standing, State.modStn_modWrite_standing, State.modStn_modRecall_standing,
      State.modStn_modCtx_standing, standing_upd, foldl_standing, State.modPort_standing,
      State.eachPort_standing, apply_ite State.standing, ite_self, implies_true]

theorem State.quiesceStn_standing (s : State) (st : Stn) : (State.quiesceStn s st).standing = s.standing := by
  unfold State.quiesceStn
  (repeat' split) <;> first
    | with_reducible rfl
    | (simp only [State.unplace_standing, State.quiesceGate_standing, Station.modLink_standing,
      Station.modServo_standing, Station.modSpeed_standing, Station.modWrite_standing,
      Station.modRecall_standing, Station.modCtx_standing, Station.standing_upd,
      State.modStn_standing_upd, State.eachStn_standing, apply_ite Station.standing,
      State.modStn_modLink_standing, State.modStn_modServo_standing, State.modStn_modSpeed_standing,
      State.modStn_modWrite_standing, State.modStn_modRecall_standing, State.modStn_modCtx_standing,
      standing_upd, foldl_standing, State.modPort_standing, State.eachPort_standing,
      apply_ite State.standing, ite_self, implies_true]; done)
    | (simp only [State.unplace_standing, State.quiesceGate_standing, Station.modLink_standing,
      Station.modServo_standing, Station.modSpeed_standing, Station.modWrite_standing,
      Station.modRecall_standing, Station.modCtx_standing, Station.standing_upd,
      State.modStn_standing_upd, State.eachStn_standing, apply_ite Station.standing,
      State.modStn_modLink_standing, State.modStn_modServo_standing, State.modStn_modSpeed_standing,
      State.modStn_modWrite_standing, State.modStn_modRecall_standing, State.modStn_modCtx_standing,
      standing_upd, foldl_standing, State.modPort_standing, State.eachPort_standing,
      apply_ite State.standing, ite_self, implies_true]
       (repeat' split) <;> first | with_reducible rfl | simp only [State.unplace_standing, State.quiesceGate_standing, Station.modLink_standing,
      Station.modServo_standing, Station.modSpeed_standing, Station.modWrite_standing,
      Station.modRecall_standing, Station.modCtx_standing, Station.standing_upd,
      State.modStn_standing_upd, State.eachStn_standing, apply_ite Station.standing,
      State.modStn_modLink_standing, State.modStn_modServo_standing, State.modStn_modSpeed_standing,
      State.modStn_modWrite_standing, State.modStn_modRecall_standing, State.modStn_modCtx_standing,
      standing_upd, foldl_standing, State.modPort_standing, State.eachPort_standing,
      apply_ite State.standing, ite_self, implies_true])

theorem State.warmStart_standing (s : State) : (State.warmStart s).standing = s.standing := by
  simp only [State.warmStart, State.quiesceStn_standing, Station.modLink_standing, Station.modServo_standing,
      Station.modSpeed_standing, Station.modWrite_standing, Station.modRecall_standing,
      Station.modCtx_standing, Station.standing_upd, State.modStn_standing_upd, State.eachStn_standing,
      apply_ite Station.standing, State.modStn_modLink_standing, State.modStn_modServo_standing,
      State.modStn_modSpeed_standing, State.modStn_modWrite_standing, State.modStn_modRecall_standing,
      State.modStn_modCtx_standing, standing_upd, foldl_standing, State.modPort_standing,
      State.eachPort_standing, apply_ite State.standing, ite_self, implies_true]

theorem State.warmSource_standing (s : State) (src : ResetSource) : (State.warmSource s src).standing = s.standing := by
  unfold State.warmSource
  (repeat' split) <;> simp only [State.warmStart_standing, Station.modLink_standing, Station.modServo_standing,
      Station.modSpeed_standing, Station.modWrite_standing, Station.modRecall_standing,
      Station.modCtx_standing, Station.standing_upd, State.modStn_standing_upd, State.eachStn_standing,
      apply_ite Station.standing, State.modStn_modLink_standing, State.modStn_modServo_standing,
      State.modStn_modSpeed_standing, State.modStn_modWrite_standing, State.modStn_modRecall_standing,
      State.modStn_modCtx_standing, standing_upd, foldl_standing, State.modPort_standing,
      State.eachPort_standing, apply_ite State.standing, ite_self, implies_true]

theorem State.loseBuf_standing (s : State) (h : BitVec 32) (b : Buf) : (State.loseBuf s h b).standing = s.standing := by
  unfold State.loseBuf
  (repeat' split) <;> first
    | with_reducible rfl
    | (simp only [State.dropArea_standing, Station.modLink_standing, Station.modServo_standing,
      Station.modSpeed_standing, Station.modWrite_standing, Station.modRecall_standing,
      Station.modCtx_standing, Station.standing_upd, State.modStn_standing_upd, State.eachStn_standing,
      apply_ite Station.standing, State.modStn_modLink_standing, State.modStn_modServo_standing,
      State.modStn_modSpeed_standing, State.modStn_modWrite_standing, State.modStn_modRecall_standing,
      State.modStn_modCtx_standing, standing_upd, foldl_standing, State.modPort_standing,
      State.eachPort_standing, apply_ite State.standing, ite_self, implies_true]; done)
    | (simp only [State.dropArea_standing, Station.modLink_standing, Station.modServo_standing,
      Station.modSpeed_standing, Station.modWrite_standing, Station.modRecall_standing,
      Station.modCtx_standing, Station.standing_upd, State.modStn_standing_upd, State.eachStn_standing,
      apply_ite Station.standing, State.modStn_modLink_standing, State.modStn_modServo_standing,
      State.modStn_modSpeed_standing, State.modStn_modWrite_standing, State.modStn_modRecall_standing,
      State.modStn_modCtx_standing, standing_upd, foldl_standing, State.modPort_standing,
      State.eachPort_standing, apply_ite State.standing, ite_self, implies_true]
       (repeat' split) <;> first | with_reducible rfl | simp only [State.dropArea_standing, Station.modLink_standing, Station.modServo_standing,
      Station.modSpeed_standing, Station.modWrite_standing, Station.modRecall_standing,
      Station.modCtx_standing, Station.standing_upd, State.modStn_standing_upd, State.eachStn_standing,
      apply_ite Station.standing, State.modStn_modLink_standing, State.modStn_modServo_standing,
      State.modStn_modSpeed_standing, State.modStn_modWrite_standing, State.modStn_modRecall_standing,
      State.modStn_modCtx_standing, standing_upd, foldl_standing, State.modPort_standing,
      State.eachPort_standing, apply_ite State.standing, ite_self, implies_true])

theorem State.stablePool_standing (s : State) (d : DieId) (p : Fin 5) : (State.stablePool s d p).standing = s.standing := by
  simp only [State.stablePool, State.modDie_standing, State.putBack_standing, State.loseBuf_standing,
      Station.modLink_standing, Station.modServo_standing, Station.modSpeed_standing,
      Station.modWrite_standing, Station.modRecall_standing, Station.modCtx_standing,
      Station.standing_upd, State.modStn_standing_upd, State.eachStn_standing,
      apply_ite Station.standing, State.modStn_modLink_standing, State.modStn_modServo_standing,
      State.modStn_modSpeed_standing, State.modStn_modWrite_standing, State.modStn_modRecall_standing,
      State.modStn_modCtx_standing, standing_upd, foldl_standing, State.modPort_standing,
      State.eachPort_standing, apply_ite State.standing, ite_self, implies_true]

theorem State.stableAll_standing (s : State) : (State.stableAll s).standing = s.standing := by
  simp only [State.stableAll, State.stablePool_standing, Station.modLink_standing, Station.modServo_standing,
      Station.modSpeed_standing, Station.modWrite_standing, Station.modRecall_standing,
      Station.modCtx_standing, Station.standing_upd, State.modStn_standing_upd, State.eachStn_standing,
      apply_ite Station.standing, State.modStn_modLink_standing, State.modStn_modServo_standing,
      State.modStn_modSpeed_standing, State.modStn_modWrite_standing, State.modStn_modRecall_standing,
      State.modStn_modCtx_standing, standing_upd, foldl_standing, State.modPort_standing,
      State.eachPort_standing, apply_ite State.standing, ite_self, implies_true]

theorem State.fallback_standing (s : State) (st : Stn) : (State.fallback s st).standing = s.standing := by
  simp only [State.fallback, State.rampTo_standing, Station.modLink_standing, Station.modServo_standing,
      Station.modSpeed_standing, Station.modWrite_standing, Station.modRecall_standing,
      Station.modCtx_standing, Station.standing_upd, State.modStn_standing_upd, State.eachStn_standing,
      apply_ite Station.standing, State.modStn_modLink_standing, State.modStn_modServo_standing,
      State.modStn_modSpeed_standing, State.modStn_modWrite_standing, State.modStn_modRecall_standing,
      State.modStn_modCtx_standing, standing_upd, foldl_standing, State.modPort_standing,
      State.eachPort_standing, apply_ite State.standing, ite_self, implies_true]

theorem State.loadStores_standing (s : State) : (State.loadStores s).standing = s.standing := by
  unfold State.loadStores
  rfl

theorem State.restoreSlots_standing (s : State) : (State.restoreSlots s).standing = s.standing := by
  unfold State.restoreSlots
  rfl

theorem State.applyImage_standing (s : State) : (State.applyImage s).standing = s.standing := by
  unfold State.applyImage
  extract_lets g s1 s2
  have h1 : s1.standing = s.standing :=
    (State.eachDie_standing ..).trans ((State.eachPort_standing ..).trans (State.loadStores_standing ..))
  clear_value s1
  have h2 : s2.standing = s.standing := ite_standing h1 ((State.eachStn_standing _ _ (by exact fun _ _ => rfl)).trans h1)
  clear_value s2
  exact (State.restoreSlots_standing _).trans ((standing_upd ..).trans h2)

theorem State.startTrial_standing (s : State) : (State.startTrial s).standing = s.standing := by
  simp only [State.startTrial, Station.modLink_standing, Station.modServo_standing, Station.modSpeed_standing,
      Station.modWrite_standing, Station.modRecall_standing, Station.modCtx_standing,
      Station.standing_upd, State.modStn_standing_upd, State.eachStn_standing,
      apply_ite Station.standing, State.modStn_modLink_standing, State.modStn_modServo_standing,
      State.modStn_modSpeed_standing, State.modStn_modWrite_standing, State.modStn_modRecall_standing,
      State.modStn_modCtx_standing, standing_upd, foldl_standing, State.modPort_standing,
      State.eachPort_standing, apply_ite State.standing, ite_self, implies_true]

theorem State.openIdle_standing (s : State) : (State.openIdle s).standing = s.standing := by
  simp only [State.openIdle, State.openLoops_standing, Station.modLink_standing, Station.modServo_standing,
      Station.modSpeed_standing, Station.modWrite_standing, Station.modRecall_standing,
      Station.modCtx_standing, Station.standing_upd, State.modStn_standing_upd, State.eachStn_standing,
      apply_ite Station.standing, State.modStn_modLink_standing, State.modStn_modServo_standing,
      State.modStn_modSpeed_standing, State.modStn_modWrite_standing, State.modStn_modRecall_standing,
      State.modStn_modCtx_standing, standing_upd, foldl_standing, State.modPort_standing,
      State.eachPort_standing, apply_ite State.standing, ite_self, implies_true]

theorem State.deviceReady_standing (s : State) : (State.deviceReady s).standing = s.standing := by
  simp only [State.deviceReady, State.raise_standing, State.warmStart_standing, State.applyImage_standing,
      State.startTrial_standing, State.openIdle_standing, Station.modLink_standing,
      Station.modServo_standing, Station.modSpeed_standing, Station.modWrite_standing,
      Station.modRecall_standing, Station.modCtx_standing, Station.standing_upd,
      State.modStn_standing_upd, State.eachStn_standing, apply_ite Station.standing,
      State.modStn_modLink_standing, State.modStn_modServo_standing, State.modStn_modSpeed_standing,
      State.modStn_modWrite_standing, State.modStn_modRecall_standing, State.modStn_modCtx_standing,
      standing_upd, foldl_standing, State.modPort_standing, State.eachPort_standing,
      apply_ite State.standing, ite_self, implies_true]

theorem State.regAccess_standing (s : State) (p : Port) (ofs : Nat) (f : State → State)
    (h : ∀ a, (f a).standing = a.standing) : (State.regAccess s p ofs f).standing = s.standing := by
  unfold State.regAccess
  simp only []
  (repeat' split) <;> simp only [h, State.modPort_standing]

theorem State.sendEvents_standing (s : State) (p : Port) (l : List Nat) :
    (State.sendEvents s p l).standing = s.standing := by
  simp only [State.sendEvents, State.sendEvent_standing, Station.modLink_standing, Station.modServo_standing,
      Station.modSpeed_standing, Station.modWrite_standing, Station.modRecall_standing,
      Station.modCtx_standing, Station.standing_upd, State.modStn_standing_upd, State.eachStn_standing,
      apply_ite Station.standing, State.modStn_modLink_standing, State.modStn_modServo_standing,
      State.modStn_modSpeed_standing, State.modStn_modWrite_standing, State.modStn_modRecall_standing,
      State.modStn_modCtx_standing, standing_upd, foldl_standing, State.modPort_standing,
      State.eachPort_standing, apply_ite State.standing, ite_self, implies_true]

theorem State.modSel_standing (s : State) (p : Port) (f : TraceQ → TraceQ) : (State.modSel s p f).standing = s.standing := by
  unfold State.modSel
  rfl

theorem State.answerRead_standing (s : State) (p : Port) (v : BitVec 64) :
    (State.answerRead s p v).standing = s.standing := by
  unfold State.answerRead
  rfl

theorem State.setupWrite_standing (s : State) (p : Port) (f : HostPort → HostPort) :
    (State.setupWrite s p f).standing = s.standing := by
  simp only [State.setupWrite, State.modPort_standing, Station.modLink_standing, Station.modServo_standing,
      Station.modSpeed_standing, Station.modWrite_standing, Station.modRecall_standing,
      Station.modCtx_standing, Station.standing_upd, State.modStn_standing_upd, State.eachStn_standing,
      apply_ite Station.standing, State.modStn_modLink_standing, State.modStn_modServo_standing,
      State.modStn_modSpeed_standing, State.modStn_modWrite_standing, State.modStn_modRecall_standing,
      State.modStn_modCtx_standing, standing_upd, foldl_standing, State.modPort_standing,
      State.eachPort_standing, apply_ite State.standing, ite_self, implies_true]

theorem State.regEffect_standing (s : State) (p : Port) (ofs size : Nat) (v : BitVec 64) :
    (State.regEffect s p ofs size v).standing = s.standing := by
  simp only [State.regEffect, State.modPort_standing, State.modSel_standing, State.setupWrite_standing,
      Station.modLink_standing, Station.modServo_standing, Station.modSpeed_standing,
      Station.modWrite_standing, Station.modRecall_standing, Station.modCtx_standing,
      Station.standing_upd, State.modStn_standing_upd, State.eachStn_standing,
      apply_ite Station.standing, State.modStn_modLink_standing, State.modStn_modServo_standing,
      State.modStn_modSpeed_standing, State.modStn_modWrite_standing, State.modStn_modRecall_standing,
      State.modStn_modCtx_standing, standing_upd, foldl_standing, State.modPort_standing,
      State.eachPort_standing, apply_ite State.standing, ite_self, implies_true]

theorem State.railReads_standing (s : State) (rail : Fin 7) (mv : Nat) :
    (State.railReads s rail mv).standing = s.standing := by
  unfold State.railReads
  rfl

theorem State.heat_standing (s : State) (d : DieId) (temp : BitVec 16) : (State.heat s d temp).standing = s.standing := by
  unfold State.heat
  rfl

theorem State.portReset_standing (s : State) (p : Port) : (State.portReset s p).standing = s.standing := by
  simp only [State.portReset, State.modPort_standing, State.dropWaits_standing, State.abortQueue_standing,
      State.abandonOpen_standing, Station.modLink_standing, Station.modServo_standing,
      Station.modSpeed_standing, Station.modWrite_standing, Station.modRecall_standing,
      Station.modCtx_standing, Station.standing_upd, State.modStn_standing_upd, State.eachStn_standing,
      apply_ite Station.standing, State.modStn_modLink_standing, State.modStn_modServo_standing,
      State.modStn_modSpeed_standing, State.modStn_modWrite_standing, State.modStn_modRecall_standing,
      State.modStn_modCtx_standing, standing_upd, foldl_standing, State.modPort_standing,
      State.eachPort_standing, apply_ite State.standing, ite_self, implies_true]

theorem State.blkControl_standing (s : State) (d : DieId) : (State.blkControl s d).standing = s.standing := by
  unfold State.blkControl
  refine foldl_standing _ (fun a st => ?_) _ _
  refine (State.openLoops_standing ..).trans ?_
  split
  · exact (State.modStn_standing _ _ _ (by exact fun _ => rfl)).trans (State.finish_standing ..)
  · rfl

theorem State.quarantine_standing (s : State) (d : DieId) (owner : Option Nat) :
    (State.quarantine s d owner).standing = s.standing := by
  unfold State.quarantine
  (repeat' split) <;> simp only [State.modDie_standing, Station.modLink_standing, Station.modServo_standing,
      Station.modSpeed_standing, Station.modWrite_standing, Station.modRecall_standing,
      Station.modCtx_standing, Station.standing_upd, State.modStn_standing_upd, State.eachStn_standing,
      apply_ite Station.standing, State.modStn_modLink_standing, State.modStn_modServo_standing,
      State.modStn_modSpeed_standing, State.modStn_modWrite_standing, State.modStn_modRecall_standing,
      State.modStn_modCtx_standing, standing_upd, foldl_standing, State.modPort_standing,
      State.eachPort_standing, apply_ite State.standing, ite_self, implies_true]

theorem State.blkControlBack_standing (s : State) (d : DieId) : (State.blkControlBack s d).standing = s.standing := by
  simp only [State.blkControlBack, Station.modLink_standing, Station.modServo_standing,
      Station.modSpeed_standing, Station.modWrite_standing, Station.modRecall_standing,
      Station.modCtx_standing, Station.standing_upd, State.modStn_standing_upd, State.eachStn_standing,
      apply_ite Station.standing, State.modStn_modLink_standing, State.modStn_modServo_standing,
      State.modStn_modSpeed_standing, State.modStn_modWrite_standing, State.modStn_modRecall_standing,
      State.modStn_modCtx_standing, standing_upd, foldl_standing, State.modPort_standing,
      State.eachPort_standing, apply_ite State.standing, ite_self, implies_true]

theorem State.flash_standing (s : State) (ops : List FlashOp) : (State.flash s ops).standing = s.standing :=
  foldl_standing (fun a o => a.emit (.flash o)) (fun _ _ => rfl) _ _

theorem State.portsApply_standing (s : State) : (State.portsApply s).standing = s.standing := by
  unfold State.portsApply
  rfl

theorem State.stageGo_standing (s : State) (c : HostCmd) (data : List Byte) :
    (State.stageGo s c data).standing = s.standing := by
  unfold State.stageGo
  (repeat' split) <;> simp only [State.flash_standing, Station.modLink_standing, Station.modServo_standing,
      Station.modSpeed_standing, Station.modWrite_standing, Station.modRecall_standing,
      Station.modCtx_standing, Station.standing_upd, State.modStn_standing_upd, State.eachStn_standing,
      apply_ite Station.standing, State.modStn_modLink_standing, State.modStn_modServo_standing,
      State.modStn_modSpeed_standing, State.modStn_modWrite_standing, State.modStn_modRecall_standing,
      State.modStn_modCtx_standing, standing_upd, foldl_standing, State.modPort_standing,
      State.eachPort_standing, apply_ite State.standing, ite_self, implies_true]

theorem State.runStage_standing (c : HostCmd) (data : List Byte) (s : State) :
    (State.runStage c data s).standing = s.standing := by
  simp only [State.runStage, State.addCmd_standing, State.stageGo_standing, Station.modLink_standing,
      Station.modServo_standing, Station.modSpeed_standing, Station.modWrite_standing,
      Station.modRecall_standing, Station.modCtx_standing, Station.standing_upd,
      State.modStn_standing_upd, State.eachStn_standing, apply_ite Station.standing,
      State.modStn_modLink_standing, State.modStn_modServo_standing, State.modStn_modSpeed_standing,
      State.modStn_modWrite_standing, State.modStn_modRecall_standing, State.modStn_modCtx_standing,
      standing_upd, foldl_standing, State.modPort_standing, State.eachPort_standing,
      apply_ite State.standing, ite_self, implies_true]

theorem State.stageCheck_standing (s : State) (x : Staging) (w : CmdRef) (len : Nat) (read : SlotRead) :
    (State.stageCheck s x w len read).standing = s.standing := by
  unfold State.stageCheck
  (repeat' split) <;> simp only [State.raise_standing, State.finish_standing, State.flash_standing, Station.modLink_standing,
      Station.modServo_standing, Station.modSpeed_standing, Station.modWrite_standing,
      Station.modRecall_standing, Station.modCtx_standing, Station.standing_upd,
      State.modStn_standing_upd, State.eachStn_standing, apply_ite Station.standing,
      State.modStn_modLink_standing, State.modStn_modServo_standing, State.modStn_modSpeed_standing,
      State.modStn_modWrite_standing, State.modStn_modRecall_standing, State.modStn_modCtx_standing,
      standing_upd, foldl_standing, State.modPort_standing, State.eachPort_standing,
      apply_ite State.standing, ite_self, implies_true]

theorem State.runConfirm_standing (c : HostCmd) (s : State) : (State.runConfirm c s).standing = s.standing := by
  simp only [State.runConfirm, State.finish_standing, State.addCmd_standing, Station.modLink_standing,
      Station.modServo_standing, Station.modSpeed_standing, Station.modWrite_standing,
      Station.modRecall_standing, Station.modCtx_standing, Station.standing_upd,
      State.modStn_standing_upd, State.eachStn_standing, apply_ite Station.standing,
      State.modStn_modLink_standing, State.modStn_modServo_standing, State.modStn_modSpeed_standing,
      State.modStn_modWrite_standing, State.modStn_modRecall_standing, State.modStn_modCtx_standing,
      standing_upd, foldl_standing, State.modPort_standing, State.eachPort_standing,
      apply_ite State.standing, ite_self, implies_true]

theorem State.startMount_standing (r : CmdRef) (s : State) : (State.startMount r s).standing = s.standing := by
  unfold State.startMount
  (repeat' split) <;> simp only [State.modCmd_standing, State.mountGo_standing, Station.modLink_standing, Station.modServo_standing,
      Station.modSpeed_standing, Station.modWrite_standing, Station.modRecall_standing,
      Station.modCtx_standing, Station.standing_upd, State.modStn_standing_upd, State.eachStn_standing,
      apply_ite Station.standing, State.modStn_modLink_standing, State.modStn_modServo_standing,
      State.modStn_modSpeed_standing, State.modStn_modWrite_standing, State.modStn_modRecall_standing,
      State.modStn_modCtx_standing, standing_upd, foldl_standing, State.modPort_standing,
      State.eachPort_standing, apply_ite State.standing, ite_self, implies_true]

theorem State.mountFail_standing (s : State) (st : Stn) (r : CmdRef) (f : Ending) :
    (State.mountFail s st r f).standing = s.standing := by
  simp only [State.mountFail, State.finish_standing, State.dropMount_standing, Station.modLink_standing,
      Station.modServo_standing, Station.modSpeed_standing, Station.modWrite_standing,
      Station.modRecall_standing, Station.modCtx_standing, Station.standing_upd,
      State.modStn_standing_upd, State.eachStn_standing, apply_ite Station.standing,
      State.modStn_modLink_standing, State.modStn_modServo_standing, State.modStn_modSpeed_standing,
      State.modStn_modWrite_standing, State.modStn_modRecall_standing, State.modStn_modCtx_standing,
      standing_upd, foldl_standing, State.modPort_standing, State.eachPort_standing,
      apply_ite State.standing, ite_self, implies_true]

theorem State.mounted_standing (s : State) (st : Stn) (r : CmdRef) (m : Mode) (geo : List Byte) (state : Nat) (buf : List Byte) :
    (State.mounted s st r m geo state buf).standing = s.standing := by
  unfold State.mounted
  (repeat' split) <;> simp only [State.finish_standing, State.finishWith_standing, State.controlledStop_standing,
      Station.modLink_standing, Station.modServo_standing, Station.modSpeed_standing,
      Station.modWrite_standing, Station.modRecall_standing, Station.modCtx_standing,
      Station.standing_upd, State.modStn_standing_upd, State.eachStn_standing,
      apply_ite Station.standing, State.modStn_modLink_standing, State.modStn_modServo_standing,
      State.modStn_modSpeed_standing, State.modStn_modWrite_standing, State.modStn_modRecall_standing,
      State.modStn_modCtx_standing, standing_upd, foldl_standing, State.modPort_standing,
      State.eachPort_standing, apply_ite State.standing, ite_self, implies_true]

theorem State.mountedBlank_standing (s : State) (st : Stn) (r : CmdRef) (k : Cmd) :
    (State.mountedBlank s st r k).standing = s.standing := by
  simp only [State.mountedBlank, State.mounted_standing, Station.modLink_standing, Station.modServo_standing,
      Station.modSpeed_standing, Station.modWrite_standing, Station.modRecall_standing,
      Station.modCtx_standing, Station.standing_upd, State.modStn_standing_upd, State.eachStn_standing,
      apply_ite Station.standing, State.modStn_modLink_standing, State.modStn_modServo_standing,
      State.modStn_modSpeed_standing, State.modStn_modWrite_standing, State.modStn_modRecall_standing,
      State.modStn_modCtx_standing, standing_upd, foldl_standing, State.modPort_standing,
      State.eachPort_standing, apply_ite State.standing, ite_self, implies_true]

theorem State.endpaperFound_standing (s : State) (st : Stn) (r : CmdRef) (k : Cmd) (g : RGath) :
    (State.endpaperFound s st r k g).standing = s.standing := by
  unfold State.endpaperFound
  (repeat' split) <;> first
    | with_reducible rfl
    | (simp only [State.raise_standing, State.addJob_standing, State.mountFail_standing, State.mountedBlank_standing,
      Station.modLink_standing, Station.modServo_standing, Station.modSpeed_standing,
      Station.modWrite_standing, Station.modRecall_standing, Station.modCtx_standing,
      Station.standing_upd, State.modStn_standing_upd, State.eachStn_standing,
      apply_ite Station.standing, State.modStn_modLink_standing, State.modStn_modServo_standing,
      State.modStn_modSpeed_standing, State.modStn_modWrite_standing, State.modStn_modRecall_standing,
      State.modStn_modCtx_standing, standing_upd, foldl_standing, State.modPort_standing,
      State.eachPort_standing, apply_ite State.standing, ite_self, implies_true]; done)
    | (simp only [State.raise_standing, State.addJob_standing, State.mountFail_standing, State.mountedBlank_standing,
      Station.modLink_standing, Station.modServo_standing, Station.modSpeed_standing,
      Station.modWrite_standing, Station.modRecall_standing, Station.modCtx_standing,
      Station.standing_upd, State.modStn_standing_upd, State.eachStn_standing,
      apply_ite Station.standing, State.modStn_modLink_standing, State.modStn_modServo_standing,
      State.modStn_modSpeed_standing, State.modStn_modWrite_standing, State.modStn_modRecall_standing,
      State.modStn_modCtx_standing, standing_upd, foldl_standing, State.modPort_standing,
      State.eachPort_standing, apply_ite State.standing, ite_self, implies_true]
       (repeat' split) <;> first | with_reducible rfl | simp only [State.raise_standing, State.addJob_standing, State.mountFail_standing, State.mountedBlank_standing,
      Station.modLink_standing, Station.modServo_standing, Station.modSpeed_standing,
      Station.modWrite_standing, Station.modRecall_standing, Station.modCtx_standing,
      Station.standing_upd, State.modStn_standing_upd, State.eachStn_standing,
      apply_ite Station.standing, State.modStn_modLink_standing, State.modStn_modServo_standing,
      State.modStn_modSpeed_standing, State.modStn_modWrite_standing, State.modStn_modRecall_standing,
      State.modStn_modCtx_standing, standing_upd, foldl_standing, State.modPort_standing,
      State.eachPort_standing, apply_ite State.standing, ite_self, implies_true])

theorem State.mountOn_standing (s : State) (st : Stn) (r : CmdRef) (k : Cmd) (v0 : VolCtx) :
    (State.mountOn s st r k v0).standing = s.standing := by
  simp only [State.mountOn, State.draw_standing, State.modCmd_standing, State.rampTo_standing,
      State.aim_standing, State.mounted_standing, Station.modLink_standing, Station.modServo_standing,
      Station.modSpeed_standing, Station.modWrite_standing, Station.modRecall_standing,
      Station.modCtx_standing, Station.standing_upd, State.modStn_standing_upd, State.eachStn_standing,
      apply_ite Station.standing, State.modStn_modLink_standing, State.modStn_modServo_standing,
      State.modStn_modSpeed_standing, State.modStn_modWrite_standing, State.modStn_modRecall_standing,
      State.modStn_modCtx_standing, standing_upd, foldl_standing, State.modPort_standing,
      State.eachPort_standing, apply_ite State.standing, ite_self, implies_true]

theorem State.endpaperPassed_standing (s : State) (st : Stn) (r : CmdRef) (k : Cmd) (p : List Byte) :
    (State.endpaperPassed s st r k p).standing = s.standing := by
  simp only [State.endpaperPassed, State.modCmd_standing, State.hold_standing, State.controlledStop_standing,
      State.openLoops_standing, State.mountGo_standing, State.mountOn_standing, Station.modLink_standing,
      Station.modServo_standing, Station.modSpeed_standing, Station.modWrite_standing,
      Station.modRecall_standing, Station.modCtx_standing, Station.standing_upd,
      State.modStn_standing_upd, State.eachStn_standing, apply_ite Station.standing,
      State.modStn_modLink_standing, State.modStn_modServo_standing, State.modStn_modSpeed_standing,
      State.modStn_modWrite_standing, State.modStn_modRecall_standing, State.modStn_modCtx_standing,
      standing_upd, foldl_standing, State.modPort_standing, State.eachPort_standing,
      apply_ite State.standing, ite_self, implies_true]

theorem State.mountSearch_standing (s : State) (st : Stn) (r : CmdRef) (k : Cmd) :
    (State.mountSearch s st r k).standing = s.standing := by
  simp only [State.mountSearch, State.rampTo_standing, State.aim_standing, State.mountFail_standing,
      State.mountedBlank_standing, Station.modLink_standing, Station.modServo_standing,
      Station.modSpeed_standing, Station.modWrite_standing, Station.modRecall_standing,
      Station.modCtx_standing, Station.standing_upd, State.modStn_standing_upd, State.eachStn_standing,
      apply_ite Station.standing, State.modStn_modLink_standing, State.modStn_modServo_standing,
      State.modStn_modSpeed_standing, State.modStn_modWrite_standing, State.modStn_modRecall_standing,
      State.modStn_modCtx_standing, standing_upd, foldl_standing, State.modPort_standing,
      State.eachPort_standing, apply_ite State.standing, ite_self, implies_true]

theorem State.logSpans_standing (s : State) (st : Stn) (r : CmdRef) : (State.logSpans s st r).standing = s.standing := by
  unfold State.logSpans
  (repeat' split) <;> simp only [State.logErr_standing, Station.modLink_standing, Station.modServo_standing,
      Station.modSpeed_standing, Station.modWrite_standing, Station.modRecall_standing,
      Station.modCtx_standing, Station.standing_upd, State.modStn_standing_upd, State.eachStn_standing,
      apply_ite Station.standing, State.modStn_modLink_standing, State.modStn_modServo_standing,
      State.modStn_modSpeed_standing, State.modStn_modWrite_standing, State.modStn_modRecall_standing,
      State.modStn_modCtx_standing, standing_upd, foldl_standing, State.modPort_standing,
      State.eachPort_standing, apply_ite State.standing, ite_self, implies_true]

theorem State.rebuild_standing (s0 : State) (st : Stn) (r : CmdRef) : (State.rebuild s0 st r).standing = s0.standing := by
  unfold State.rebuild
  (repeat' split) <;> first
    | with_reducible rfl
    | (simp only [State.writeFault_standing, State.mountFail_standing, State.mounted_standing,
      State.logSpans_standing, Station.modLink_standing, Station.modServo_standing,
      Station.modSpeed_standing, Station.modWrite_standing, Station.modRecall_standing,
      Station.modCtx_standing, Station.standing_upd, State.modStn_standing_upd, State.eachStn_standing,
      apply_ite Station.standing, State.modStn_modLink_standing, State.modStn_modServo_standing,
      State.modStn_modSpeed_standing, State.modStn_modWrite_standing, State.modStn_modRecall_standing,
      State.modStn_modCtx_standing, standing_upd, foldl_standing, State.modPort_standing,
      State.eachPort_standing, apply_ite State.standing, ite_self, implies_true]; done)
    | (simp only [State.writeFault_standing, State.mountFail_standing, State.mounted_standing,
      State.logSpans_standing, Station.modLink_standing, Station.modServo_standing,
      Station.modSpeed_standing, Station.modWrite_standing, Station.modRecall_standing,
      Station.modCtx_standing, Station.standing_upd, State.modStn_standing_upd, State.eachStn_standing,
      apply_ite Station.standing, State.modStn_modLink_standing, State.modStn_modServo_standing,
      State.modStn_modSpeed_standing, State.modStn_modWrite_standing, State.modStn_modRecall_standing,
      State.modStn_modCtx_standing, standing_upd, foldl_standing, State.modPort_standing,
      State.eachPort_standing, apply_ite State.standing, ite_self, implies_true]
       (repeat' split) <;> first | with_reducible rfl | simp only [State.writeFault_standing, State.mountFail_standing, State.mounted_standing,
      State.logSpans_standing, Station.modLink_standing, Station.modServo_standing,
      Station.modSpeed_standing, Station.modWrite_standing, Station.modRecall_standing,
      Station.modCtx_standing, Station.standing_upd, State.modStn_standing_upd, State.eachStn_standing,
      apply_ite Station.standing, State.modStn_modLink_standing, State.modStn_modServo_standing,
      State.modStn_modSpeed_standing, State.modStn_modWrite_standing, State.modStn_modRecall_standing,
      State.modStn_modCtx_standing, standing_upd, foldl_standing, State.modPort_standing,
      State.eachPort_standing, apply_ite State.standing, ite_self, implies_true])

theorem State.drawVolume_standing (s : State) (st : Stn) (r : CmdRef) : (State.drawVolume s st r).standing = s.standing := by
  simp only [State.drawVolume, State.drawBytes_standing, Station.modLink_standing, Station.modServo_standing,
      Station.modSpeed_standing, Station.modWrite_standing, Station.modRecall_standing,
      Station.modCtx_standing, Station.standing_upd, State.modStn_standing_upd, State.eachStn_standing,
      apply_ite Station.standing, State.modStn_modLink_standing, State.modStn_modServo_standing,
      State.modStn_modSpeed_standing, State.modStn_modWrite_standing, State.modStn_modRecall_standing,
      State.modStn_modCtx_standing, standing_upd, foldl_standing, State.modPort_standing,
      State.eachPort_standing, apply_ite State.standing, ite_self, implies_true]

theorem State.startInit_standing (r : CmdRef) (s : State) : (State.startInit r s).standing = s.standing := by
  unfold State.startInit
  (repeat' split) <;> simp only [State.modCmd_standing, State.finish_standing, State.drawVolume_standing, Station.modLink_standing,
      Station.modServo_standing, Station.modSpeed_standing, Station.modWrite_standing,
      Station.modRecall_standing, Station.modCtx_standing, Station.standing_upd,
      State.modStn_standing_upd, State.eachStn_standing, apply_ite Station.standing,
      State.modStn_modLink_standing, State.modStn_modServo_standing, State.modStn_modSpeed_standing,
      State.modStn_modWrite_standing, State.modStn_modRecall_standing, State.modStn_modCtx_standing,
      standing_upd, foldl_standing, State.modPort_standing, State.eachPort_standing,
      apply_ite State.standing, ite_self, implies_true]

theorem State.makeVolume_standing (s : State) (st : Stn) (r : CmdRef) (depth parity : Nat) (prov srcvol hlabel : List Byte) :
    (State.makeVolume s st r depth parity prov srcvol hlabel).standing = s.standing := by
  unfold State.makeVolume
  (repeat' split) <;> simp only [State.composeEndpaper_standing, State.aim_standing, Station.modLink_standing,
      Station.modServo_standing, Station.modSpeed_standing, Station.modWrite_standing,
      Station.modRecall_standing, Station.modCtx_standing, Station.standing_upd,
      State.modStn_standing_upd, State.eachStn_standing, apply_ite Station.standing,
      State.modStn_modLink_standing, State.modStn_modServo_standing, State.modStn_modSpeed_standing,
      State.modStn_modWrite_standing, State.modStn_modRecall_standing, State.modStn_modCtx_standing,
      standing_upd, foldl_standing, State.modPort_standing, State.eachPort_standing,
      apply_ite State.standing, ite_self, implies_true]

theorem State.startUnmount_standing (r : CmdRef) (s : State) : (State.startUnmount r s).standing = s.standing := by
  unfold State.startUnmount
  (repeat' split) <;> first
    | with_reducible rfl
    | (simp only [State.modCmd_standing, State.openStation_standing, State.addFlush_standing,
      Station.modLink_standing, Station.modServo_standing, Station.modSpeed_standing,
      Station.modWrite_standing, Station.modRecall_standing, Station.modCtx_standing,
      Station.standing_upd, State.modStn_standing_upd, State.eachStn_standing,
      apply_ite Station.standing, State.modStn_modLink_standing, State.modStn_modServo_standing,
      State.modStn_modSpeed_standing, State.modStn_modWrite_standing, State.modStn_modRecall_standing,
      State.modStn_modCtx_standing, standing_upd, foldl_standing, State.modPort_standing,
      State.eachPort_standing, apply_ite State.standing, ite_self, implies_true]; done)
    | (simp only [State.modCmd_standing, State.openStation_standing, State.addFlush_standing,
      Station.modLink_standing, Station.modServo_standing, Station.modSpeed_standing,
      Station.modWrite_standing, Station.modRecall_standing, Station.modCtx_standing,
      Station.standing_upd, State.modStn_standing_upd, State.eachStn_standing,
      apply_ite Station.standing, State.modStn_modLink_standing, State.modStn_modServo_standing,
      State.modStn_modSpeed_standing, State.modStn_modWrite_standing, State.modStn_modRecall_standing,
      State.modStn_modCtx_standing, standing_upd, foldl_standing, State.modPort_standing,
      State.eachPort_standing, apply_ite State.standing, ite_self, implies_true]
       (repeat' split) <;> first | with_reducible rfl | simp only [State.modCmd_standing, State.openStation_standing, State.addFlush_standing,
      Station.modLink_standing, Station.modServo_standing, Station.modSpeed_standing,
      Station.modWrite_standing, Station.modRecall_standing, Station.modCtx_standing,
      Station.standing_upd, State.modStn_standing_upd, State.eachStn_standing,
      apply_ite Station.standing, State.modStn_modLink_standing, State.modStn_modServo_standing,
      State.modStn_modSpeed_standing, State.modStn_modWrite_standing, State.modStn_modRecall_standing,
      State.modStn_modCtx_standing, standing_upd, foldl_standing, State.modPort_standing,
      State.eachPort_standing, apply_ite State.standing, ite_self, implies_true])

theorem State.modMig_standing (s : State) (src : Stn) (f : MigJob → MigJob) :
    (State.modMig s src f).standing = s.standing := by
  unfold State.modMig
  rfl

theorem State.migRead_standing (s : State) (src : Stn) (wrap : Nat) (seen : List RGath) (place : Option Nat) :
    (State.migRead s src wrap seen place).standing = s.standing := by
  simp only [State.migRead, State.wantTape_standing, State.serveSeek_standing, Station.modLink_standing,
      Station.modServo_standing, Station.modSpeed_standing, Station.modWrite_standing,
      Station.modRecall_standing, Station.modCtx_standing, Station.standing_upd,
      State.modStn_standing_upd, State.eachStn_standing, apply_ite Station.standing,
      State.modStn_modLink_standing, State.modStn_modServo_standing, State.modStn_modSpeed_standing,
      State.modStn_modWrite_standing, State.modStn_modRecall_standing, State.modStn_modCtx_standing,
      standing_upd, foldl_standing, State.modPort_standing, State.eachPort_standing,
      apply_ite State.standing, ite_self, implies_true]

theorem State.migStop_standing (s : State) (j : MigJob) (status check : Nat) (lon : Option Nat) (resume : Nat) (around : Nat × Nat) :
    (State.migStop s j status check lon resume around).standing = s.standing := by
  unfold State.migStop
  (repeat' split) <;> first
    | with_reducible rfl
    | (simp only [State.migHalt_standing, Station.modLink_standing, Station.modServo_standing,
      Station.modSpeed_standing, Station.modWrite_standing, Station.modRecall_standing,
      Station.modCtx_standing, Station.standing_upd, State.modStn_standing_upd, State.eachStn_standing,
      apply_ite Station.standing, State.modStn_modLink_standing, State.modStn_modServo_standing,
      State.modStn_modSpeed_standing, State.modStn_modWrite_standing, State.modStn_modRecall_standing,
      State.modStn_modCtx_standing, standing_upd, foldl_standing, State.modPort_standing,
      State.eachPort_standing, apply_ite State.standing, ite_self, implies_true]; done)
    | (simp only [State.migHalt_standing, Station.modLink_standing, Station.modServo_standing,
      Station.modSpeed_standing, Station.modWrite_standing, Station.modRecall_standing,
      Station.modCtx_standing, Station.standing_upd, State.modStn_standing_upd, State.eachStn_standing,
      apply_ite Station.standing, State.modStn_modLink_standing, State.modStn_modServo_standing,
      State.modStn_modSpeed_standing, State.modStn_modWrite_standing, State.modStn_modRecall_standing,
      State.modStn_modCtx_standing, standing_upd, foldl_standing, State.modPort_standing,
      State.eachPort_standing, apply_ite State.standing, ite_self, implies_true]
       (repeat' split) <;> first | with_reducible rfl | simp only [State.migHalt_standing, Station.modLink_standing, Station.modServo_standing,
      Station.modSpeed_standing, Station.modWrite_standing, Station.modRecall_standing,
      Station.modCtx_standing, Station.standing_upd, State.modStn_standing_upd, State.eachStn_standing,
      apply_ite Station.standing, State.modStn_modLink_standing, State.modStn_modServo_standing,
      State.modStn_modSpeed_standing, State.modStn_modWrite_standing, State.modStn_modRecall_standing,
      State.modStn_modCtx_standing, standing_upd, foldl_standing, State.modPort_standing,
      State.eachPort_standing, apply_ite State.standing, ite_self, implies_true])

theorem State.migCreate_standing (s : State) (j : MigJob) : (State.migCreate s j).standing = s.standing := by
  unfold State.migCreate
  (repeat' split) <;> simp only [State.controlledStop_standing, State.drawVolume_standing, State.modMig_standing,
      State.migStop_standing, Station.modLink_standing, Station.modServo_standing,
      Station.modSpeed_standing, Station.modWrite_standing, Station.modRecall_standing,
      Station.modCtx_standing, Station.standing_upd, State.modStn_standing_upd, State.eachStn_standing,
      apply_ite Station.standing, State.modStn_modLink_standing, State.modStn_modServo_standing,
      State.modStn_modSpeed_standing, State.modStn_modWrite_standing, State.modStn_modRecall_standing,
      State.modStn_modCtx_standing, standing_upd, foldl_standing, State.modPort_standing,
      State.eachPort_standing, apply_ite State.standing, ite_self, implies_true]

theorem State.migGive_standing (s : State) (j : MigJob) (lon : Nat) (data : Option (List Byte)) :
    (State.migGive s j lon data).standing = s.standing := by
  unfold State.migGive
  (repeat' split) <;> simp only [State.addJob_standing, State.settle_standing, Station.modLink_standing, Station.modServo_standing,
      Station.modSpeed_standing, Station.modWrite_standing, Station.modRecall_standing,
      Station.modCtx_standing, Station.standing_upd, State.modStn_standing_upd, State.eachStn_standing,
      apply_ite Station.standing, State.modStn_modLink_standing, State.modStn_modServo_standing,
      State.modStn_modSpeed_standing, State.modStn_modWrite_standing, State.modStn_modRecall_standing,
      State.modStn_modCtx_standing, standing_upd, foldl_standing, State.modPort_standing,
      State.eachPort_standing, apply_ite State.standing, ite_self, implies_true]

theorem State.migBegin_standing (s : State) (r : CmdRef) (e : Entry) (v : VolCtx) :
    (State.migBegin s r e v).standing = s.standing := by
  simp only [State.migBegin, State.migRead_standing, State.migCreate_standing, Station.modLink_standing,
      Station.modServo_standing, Station.modSpeed_standing, Station.modWrite_standing,
      Station.modRecall_standing, Station.modCtx_standing, Station.standing_upd,
      State.modStn_standing_upd, State.eachStn_standing, apply_ite Station.standing,
      State.modStn_modLink_standing, State.modStn_modServo_standing, State.modStn_modSpeed_standing,
      State.modStn_modWrite_standing, State.modStn_modRecall_standing, State.modStn_modCtx_standing,
      standing_upd, foldl_standing, State.modPort_standing, State.eachPort_standing,
      apply_ite State.standing, ite_self, implies_true]

theorem State.migGoOn_standing (s : State) (r : CmdRef) (k : Cmd) (j : MigJob) :
    (State.migGoOn s r k j).standing = s.standing := by
  unfold State.migGoOn
  (repeat' split) <;> simp only [State.logErr_standing, State.settle_standing, State.migRead_standing, State.migCreate_standing,
      State.migGive_standing, Station.modLink_standing, Station.modServo_standing,
      Station.modSpeed_standing, Station.modWrite_standing, Station.modRecall_standing,
      Station.modCtx_standing, Station.standing_upd, State.modStn_standing_upd, State.eachStn_standing,
      apply_ite Station.standing, State.modStn_modLink_standing, State.modStn_modServo_standing,
      State.modStn_modSpeed_standing, State.modStn_modWrite_standing, State.modStn_modRecall_standing,
      State.modStn_modCtx_standing, standing_upd, foldl_standing, State.modPort_standing,
      State.eachPort_standing, apply_ite State.standing, ite_self, implies_true]

theorem State.startMigrate_standing (r : CmdRef) (s : State) : (State.startMigrate r s).standing = s.standing := by
  unfold State.startMigrate
  (repeat' split) <;> first
    | with_reducible rfl
    | (simp only [State.modCmd_standing, State.finish_standing, State.migBegin_standing, State.migGoOn_standing,
      Station.modLink_standing, Station.modServo_standing, Station.modSpeed_standing,
      Station.modWrite_standing, Station.modRecall_standing, Station.modCtx_standing,
      Station.standing_upd, State.modStn_standing_upd, State.eachStn_standing,
      apply_ite Station.standing, State.modStn_modLink_standing, State.modStn_modServo_standing,
      State.modStn_modSpeed_standing, State.modStn_modWrite_standing, State.modStn_modRecall_standing,
      State.modStn_modCtx_standing, standing_upd, foldl_standing, State.modPort_standing,
      State.eachPort_standing, apply_ite State.standing, ite_self, implies_true]; done)
    | (simp only [State.modCmd_standing, State.finish_standing, State.migBegin_standing, State.migGoOn_standing,
      Station.modLink_standing, Station.modServo_standing, Station.modSpeed_standing,
      Station.modWrite_standing, Station.modRecall_standing, Station.modCtx_standing,
      Station.standing_upd, State.modStn_standing_upd, State.eachStn_standing,
      apply_ite Station.standing, State.modStn_modLink_standing, State.modStn_modServo_standing,
      State.modStn_modSpeed_standing, State.modStn_modWrite_standing, State.modStn_modRecall_standing,
      State.modStn_modCtx_standing, standing_upd, foldl_standing, State.modPort_standing,
      State.eachPort_standing, apply_ite State.standing, ite_self, implies_true]
       (repeat' split) <;> first | with_reducible rfl | simp only [State.modCmd_standing, State.finish_standing, State.migBegin_standing, State.migGoOn_standing,
      Station.modLink_standing, Station.modServo_standing, Station.modSpeed_standing,
      Station.modWrite_standing, Station.modRecall_standing, Station.modCtx_standing,
      Station.standing_upd, State.modStn_standing_upd, State.eachStn_standing,
      apply_ite Station.standing, State.modStn_modLink_standing, State.modStn_modServo_standing,
      State.modStn_modSpeed_standing, State.modStn_modWrite_standing, State.modStn_modRecall_standing,
      State.modStn_modCtx_standing, standing_upd, foldl_standing, State.modPort_standing,
      State.eachPort_standing, apply_ite State.standing, ite_self, implies_true])

theorem State.logSealer_standing (s : State) (st : Stn) (r : CmdRef) : (State.logSealer s st r).standing = s.standing := by
  unfold State.logSealer
  (repeat' split) <;> first
    | with_reducible rfl
    | (simp only [State.logErr_standing, Station.modLink_standing, Station.modServo_standing,
      Station.modSpeed_standing, Station.modWrite_standing, Station.modRecall_standing,
      Station.modCtx_standing, Station.standing_upd, State.modStn_standing_upd, State.eachStn_standing,
      apply_ite Station.standing, State.modStn_modLink_standing, State.modStn_modServo_standing,
      State.modStn_modSpeed_standing, State.modStn_modWrite_standing, State.modStn_modRecall_standing,
      State.modStn_modCtx_standing, standing_upd, foldl_standing, State.modPort_standing,
      State.eachPort_standing, apply_ite State.standing, ite_self, implies_true]; done)
    | (simp only [State.logErr_standing, Station.modLink_standing, Station.modServo_standing,
      Station.modSpeed_standing, Station.modWrite_standing, Station.modRecall_standing,
      Station.modCtx_standing, Station.standing_upd, State.modStn_standing_upd, State.eachStn_standing,
      apply_ite Station.standing, State.modStn_modLink_standing, State.modStn_modServo_standing,
      State.modStn_modSpeed_standing, State.modStn_modWrite_standing, State.modStn_modRecall_standing,
      State.modStn_modCtx_standing, standing_upd, foldl_standing, State.modPort_standing,
      State.eachPort_standing, apply_ite State.standing, ite_self, implies_true]
       (repeat' split) <;> first | with_reducible rfl | simp only [State.logErr_standing, Station.modLink_standing, Station.modServo_standing,
      Station.modSpeed_standing, Station.modWrite_standing, Station.modRecall_standing,
      Station.modCtx_standing, Station.standing_upd, State.modStn_standing_upd, State.eachStn_standing,
      apply_ite Station.standing, State.modStn_modLink_standing, State.modStn_modServo_standing,
      State.modStn_modSpeed_standing, State.modStn_modWrite_standing, State.modStn_modRecall_standing,
      State.modStn_modCtx_standing, standing_upd, foldl_standing, State.modPort_standing,
      State.eachPort_standing, apply_ite State.standing, ite_self, implies_true])

theorem State.migFinish_standing (s : State) (j : MigJob) : (State.migFinish s j).standing = s.standing := by
  unfold State.migFinish
  (repeat' split) <;> first
    | with_reducible rfl
    | (simp only [State.addFlush_standing, State.endReading_standing, State.logSpans_standing, State.modMig_standing,
      State.migStop_standing, Station.modLink_standing, Station.modServo_standing,
      Station.modSpeed_standing, Station.modWrite_standing, Station.modRecall_standing,
      Station.modCtx_standing, Station.standing_upd, State.modStn_standing_upd, State.eachStn_standing,
      apply_ite Station.standing, State.modStn_modLink_standing, State.modStn_modServo_standing,
      State.modStn_modSpeed_standing, State.modStn_modWrite_standing, State.modStn_modRecall_standing,
      State.modStn_modCtx_standing, standing_upd, foldl_standing, State.modPort_standing,
      State.eachPort_standing, apply_ite State.standing, ite_self, implies_true]; done)
    | (simp only [State.addFlush_standing, State.endReading_standing, State.logSpans_standing, State.modMig_standing,
      State.migStop_standing, Station.modLink_standing, Station.modServo_standing,
      Station.modSpeed_standing, Station.modWrite_standing, Station.modRecall_standing,
      Station.modCtx_standing, Station.standing_upd, State.modStn_standing_upd, State.eachStn_standing,
      apply_ite Station.standing, State.modStn_modLink_standing, State.modStn_modServo_standing,
      State.modStn_modSpeed_standing, State.modStn_modWrite_standing, State.modStn_modRecall_standing,
      State.modStn_modCtx_standing, standing_upd, foldl_standing, State.modPort_standing,
      State.eachPort_standing, apply_ite State.standing, ite_self, implies_true]
       (repeat' split) <;> first | with_reducible rfl | simp only [State.addFlush_standing, State.endReading_standing, State.logSpans_standing, State.modMig_standing,
      State.migStop_standing, Station.modLink_standing, Station.modServo_standing,
      Station.modSpeed_standing, Station.modWrite_standing, Station.modRecall_standing,
      Station.modCtx_standing, Station.standing_upd, State.modStn_standing_upd, State.eachStn_standing,
      apply_ite Station.standing, State.modStn_modLink_standing, State.modStn_modServo_standing,
      State.modStn_modSpeed_standing, State.modStn_modWrite_standing, State.modStn_modRecall_standing,
      State.modStn_modCtx_standing, standing_upd, foldl_standing, State.modPort_standing,
      State.eachPort_standing, apply_ite State.standing, ite_self, implies_true])

theorem State.migGone_standing (s : State) (j : MigJob) (t : State) (h : State.migGone s j = some t) : t.standing = s.standing := by
  unfold State.migGone at h
  split at h
  · cases h; exact State.migStop_standing ..
  · cases h

theorem State.migOver_standing (s : State) (src : Stn) : (State.migOver s src).standing = s.standing := by
  unfold State.migOver
  dsimp only
  (repeat' split) <;> first
    | rfl
    | exact State.migStop_standing ..
    | exact State.migCreate_standing ..
    | exact State.migFinish_standing ..
    | exact State.migGone_standing _ _ _ ‹_›

theorem State.migColophon_standing (s : State) (src : Stn) : (State.migColophon s src).standing = s.standing := by
  unfold State.migColophon
  (repeat' split) <;> simp only [State.migStop_standing, State.migCreate_standing, State.logSealer_standing,
      Station.modLink_standing, Station.modServo_standing, Station.modSpeed_standing,
      Station.modWrite_standing, Station.modRecall_standing, Station.modCtx_standing,
      Station.standing_upd, State.modStn_standing_upd, State.eachStn_standing,
      apply_ite Station.standing, State.modStn_modLink_standing, State.modStn_modServo_standing,
      State.modStn_modSpeed_standing, State.modStn_modWrite_standing, State.modStn_modRecall_standing,
      State.modStn_modCtx_standing, standing_upd, foldl_standing, State.modPort_standing,
      State.eachPort_standing, apply_ite State.standing, ite_self, implies_true]

theorem State.handover_standing (s : State) (src : Stn) (lon : Nat) : (State.handover s src lon).standing = s.standing := by
  unfold State.handover
  (repeat' split) <;> first
    | with_reducible rfl
    | (simp only [State.migStop_standing, State.migGive_standing, Station.modLink_standing,
      Station.modServo_standing, Station.modSpeed_standing, Station.modWrite_standing,
      Station.modRecall_standing, Station.modCtx_standing, Station.standing_upd,
      State.modStn_standing_upd, State.eachStn_standing, apply_ite Station.standing,
      State.modStn_modLink_standing, State.modStn_modServo_standing, State.modStn_modSpeed_standing,
      State.modStn_modWrite_standing, State.modStn_modRecall_standing, State.modStn_modCtx_standing,
      standing_upd, foldl_standing, State.modPort_standing, State.eachPort_standing,
      apply_ite State.standing, ite_self, implies_true]; done)
    | (simp only [State.migStop_standing, State.migGive_standing, Station.modLink_standing,
      Station.modServo_standing, Station.modSpeed_standing, Station.modWrite_standing,
      Station.modRecall_standing, Station.modCtx_standing, Station.standing_upd,
      State.modStn_standing_upd, State.eachStn_standing, apply_ite Station.standing,
      State.modStn_modLink_standing, State.modStn_modServo_standing, State.modStn_modSpeed_standing,
      State.modStn_modWrite_standing, State.modStn_modRecall_standing, State.modStn_modCtx_standing,
      standing_upd, foldl_standing, State.modPort_standing, State.eachPort_standing,
      apply_ite State.standing, ite_self, implies_true]
       (repeat' split) <;> first | with_reducible rfl | simp only [State.migStop_standing, State.migGive_standing, Station.modLink_standing,
      Station.modServo_standing, Station.modSpeed_standing, Station.modWrite_standing,
      Station.modRecall_standing, Station.modCtx_standing, Station.standing_upd,
      State.modStn_standing_upd, State.eachStn_standing, apply_ite Station.standing,
      State.modStn_modLink_standing, State.modStn_modServo_standing, State.modStn_modSpeed_standing,
      State.modStn_modWrite_standing, State.modStn_modRecall_standing, State.modStn_modCtx_standing,
      standing_upd, foldl_standing, State.modPort_standing, State.eachPort_standing,
      apply_ite State.standing, ite_self, implies_true])

theorem State.giveRead_standing (s : State) (r : CmdRef) (k : Cmd) (c : Checked) :
    (State.giveRead s r k c).standing = s.standing := by
  simp only [State.giveRead, State.finish_standing, State.sendData_standing, State.finishWith_standing,
      State.take_standing, Station.modLink_standing, Station.modServo_standing,
      Station.modSpeed_standing, Station.modWrite_standing, Station.modRecall_standing,
      Station.modCtx_standing, Station.standing_upd, State.modStn_standing_upd, State.eachStn_standing,
      apply_ite Station.standing, State.modStn_modLink_standing, State.modStn_modServo_standing,
      State.modStn_modSpeed_standing, State.modStn_modWrite_standing, State.modStn_modRecall_standing,
      State.modStn_modCtx_standing, standing_upd, foldl_standing, State.modPort_standing,
      State.eachPort_standing, apply_ite State.standing, ite_self, implies_true]

theorem State.verifyBounds_standing (s : State) (st : Stn) : (State.verifyBounds s st).standing = s.standing := by
  unfold State.verifyBounds
  (repeat' split) <;> simp only [State.finish_standing, Station.modLink_standing, Station.modServo_standing,
      Station.modSpeed_standing, Station.modWrite_standing, Station.modRecall_standing,
      Station.modCtx_standing, Station.standing_upd, State.modStn_standing_upd, State.eachStn_standing,
      apply_ite Station.standing, State.modStn_modLink_standing, State.modStn_modServo_standing,
      State.modStn_modSpeed_standing, State.modStn_modWrite_standing, State.modStn_modRecall_standing,
      State.modStn_modCtx_standing, standing_upd, foldl_standing, State.modPort_standing,
      State.eachPort_standing, apply_ite State.standing, ite_self, implies_true]

theorem State.readDone_standing (s : State) (st : Stn) (lon : Nat) : (State.readDone s st lon).standing = s.standing := by
  simp only [State.readDone, State.verifyRec_standing, State.verifyNext_standing, State.count_standing,
      State.endReading_standing, State.giveRead_standing, Station.modLink_standing,
      Station.modServo_standing, Station.modSpeed_standing, Station.modWrite_standing,
      Station.modRecall_standing, Station.modCtx_standing, Station.standing_upd,
      State.modStn_standing_upd, State.eachStn_standing, apply_ite Station.standing,
      State.modStn_modLink_standing, State.modStn_modServo_standing, State.modStn_modSpeed_standing,
      State.modStn_modWrite_standing, State.modStn_modRecall_standing, State.modStn_modCtx_standing,
      standing_upd, foldl_standing, State.modPort_standing, State.eachPort_standing,
      apply_ite State.standing, ite_self, implies_true]

theorem State.endVerifyAll_standing (s0 : State) (st : Stn) (r : CmdRef) (c : Cmd) :
    (State.endVerifyAll s0 st r c).standing = s0.standing := by
  unfold State.endVerifyAll
  (repeat' split) <;> first
    | with_reducible rfl
    | (simp only [State.logErr_standing, State.finishWith_standing, State.logSpans_standing,
      State.logSealer_standing, Station.modLink_standing, Station.modServo_standing,
      Station.modSpeed_standing, Station.modWrite_standing, Station.modRecall_standing,
      Station.modCtx_standing, Station.standing_upd, State.modStn_standing_upd, State.eachStn_standing,
      apply_ite Station.standing, State.modStn_modLink_standing, State.modStn_modServo_standing,
      State.modStn_modSpeed_standing, State.modStn_modWrite_standing, State.modStn_modRecall_standing,
      State.modStn_modCtx_standing, standing_upd, foldl_standing, State.modPort_standing,
      State.eachPort_standing, apply_ite State.standing, ite_self, implies_true]; done)
    | (simp only [State.logErr_standing, State.finishWith_standing, State.logSpans_standing,
      State.logSealer_standing, Station.modLink_standing, Station.modServo_standing,
      Station.modSpeed_standing, Station.modWrite_standing, Station.modRecall_standing,
      Station.modCtx_standing, Station.standing_upd, State.modStn_standing_upd, State.eachStn_standing,
      apply_ite Station.standing, State.modStn_modLink_standing, State.modStn_modServo_standing,
      State.modStn_modSpeed_standing, State.modStn_modWrite_standing, State.modStn_modRecall_standing,
      State.modStn_modCtx_standing, standing_upd, foldl_standing, State.modPort_standing,
      State.eachPort_standing, apply_ite State.standing, ite_self, implies_true]
       (repeat' split) <;> first | with_reducible rfl | simp only [State.logErr_standing, State.finishWith_standing, State.logSpans_standing,
      State.logSealer_standing, Station.modLink_standing, Station.modServo_standing,
      Station.modSpeed_standing, Station.modWrite_standing, Station.modRecall_standing,
      Station.modCtx_standing, Station.standing_upd, State.modStn_standing_upd, State.eachStn_standing,
      apply_ite Station.standing, State.modStn_modLink_standing, State.modStn_modServo_standing,
      State.modStn_modSpeed_standing, State.modStn_modWrite_standing, State.modStn_modRecall_standing,
      State.modStn_modCtx_standing, standing_upd, foldl_standing, State.modPort_standing,
      State.eachPort_standing, apply_ite State.standing, ite_self, implies_true])

theorem State.readEnd_standing (s : State) (st : Stn) : (State.readEnd s st).standing = s.standing := by
  simp only [State.readEnd, State.controlledStop_standing, State.serveSeek_standing, State.endReading_standing,
      State.migOver_standing, State.endVerifyAll_standing, Station.modLink_standing,
      Station.modServo_standing, Station.modSpeed_standing, Station.modWrite_standing,
      Station.modRecall_standing, Station.modCtx_standing, Station.standing_upd,
      State.modStn_standing_upd, State.eachStn_standing, apply_ite Station.standing,
      State.modStn_modLink_standing, State.modStn_modServo_standing, State.modStn_modSpeed_standing,
      State.modStn_modWrite_standing, State.modStn_modRecall_standing, State.modStn_modCtx_standing,
      standing_upd, foldl_standing, State.modPort_standing, State.eachPort_standing,
      apply_ite State.standing, ite_self, implies_true]

theorem State.readGo_standing (s : State) (st : Stn) (n : Nat) : (State.readGo s st n).standing = s.standing := by
  induction n generalizing s with
  | zero => rfl
  | succ n ih =>
    unfold State.readGo
    simp only []
    have key : ∀ (w : List Nat) (a : State), (w.foldl (fun (a : State) lon =>
        (a.addJob (dieOf st) rDecomp (Job.fresh (.decompress st lon) st a.clock)).addJob (dieOf st) rHash
          (Job.fresh (.fixity st lon) st a.clock)) a).standing = a.standing :=
      fun w a => foldl_standing _ (fun _ _ => (State.addJob_standing ..).trans (State.addJob_standing ..)) w a
    (repeat' split) <;> first
      | with_reducible rfl
      | (rw [ih, State.readDone_standing]; done)
      | (simp only [State.readEnd_standing, key]; done)

theorem Station.settleRead_standing (t : Station) : t.settleRead.standing = t.standing := by
  unfold Station.settleRead
  (repeat' split) <;> rfl

theorem State.readOn_standing (s : State) (st : Stn) : (State.readOn s st).standing = s.standing := by
  unfold State.readOn
  dsimp only
  rw [State.readGo_standing, State.verifyBounds_standing]
  exact State.modStn_standing _ _ _ Station.settleRead_standing

theorem State.countRows_standing (s : State) (st : Stn) (g : RGath) (rows : List Nat) (kinds : List Nat) :
    (State.countRows s st g rows kinds).standing = s.standing := by
  simp only [State.countRows, State.count_standing, Station.modLink_standing, Station.modServo_standing,
      Station.modSpeed_standing, Station.modWrite_standing, Station.modRecall_standing,
      Station.modCtx_standing, Station.standing_upd, State.modStn_standing_upd, State.eachStn_standing,
      apply_ite Station.standing, State.modStn_modLink_standing, State.modStn_modServo_standing,
      State.modStn_modSpeed_standing, State.modStn_modWrite_standing, State.modStn_modRecall_standing,
      State.modStn_modCtx_standing, standing_upd, foldl_standing, State.modPort_standing,
      State.eachPort_standing, apply_ite State.standing, ite_self, implies_true]

theorem State.countC2_standing (s : State) (st : Stn) (g : RGath) : (State.countC2 s st g).standing = s.standing := by
  simp only [State.countC2, State.count_standing, State.countRows_standing, Station.modLink_standing,
      Station.modServo_standing, Station.modSpeed_standing, Station.modWrite_standing,
      Station.modRecall_standing, Station.modCtx_standing, Station.standing_upd,
      State.modStn_standing_upd, State.eachStn_standing, apply_ite Station.standing,
      State.modStn_modLink_standing, State.modStn_modServo_standing, State.modStn_modSpeed_standing,
      State.modStn_modWrite_standing, State.modStn_modRecall_standing, State.modStn_modCtx_standing,
      standing_upd, foldl_standing, State.modPort_standing, State.eachPort_standing,
      apply_ite State.standing, ite_self, implies_true]

theorem State.headerRead_standing (s : State) (st : Stn) (g : RGath) : (State.headerRead s st g).standing = s.standing := by
  unfold State.headerRead
  (repeat' split) <;> simp only [State.addJob_standing, State.readOver_standing, State.endpaperFound_standing,
      Station.modLink_standing, Station.modServo_standing, Station.modSpeed_standing,
      Station.modWrite_standing, Station.modRecall_standing, Station.modCtx_standing,
      Station.standing_upd, State.modStn_standing_upd, State.eachStn_standing,
      apply_ite Station.standing, State.modStn_modLink_standing, State.modStn_modServo_standing,
      State.modStn_modSpeed_standing, State.modStn_modWrite_standing, State.modStn_modRecall_standing,
      State.modStn_modCtx_standing, standing_upd, foldl_standing, State.modPort_standing,
      State.eachPort_standing, apply_ite State.standing, ite_self, implies_true]

theorem State.decodeGath_standing (s : State) (st : Stn) (g : RGath) : (State.decodeGath s st g).standing = s.standing := by
  simp only [State.decodeGath, State.countC2_standing, State.headerRead_standing, Station.modLink_standing,
      Station.modServo_standing, Station.modSpeed_standing, Station.modWrite_standing,
      Station.modRecall_standing, Station.modCtx_standing, Station.standing_upd,
      State.modStn_standing_upd, State.eachStn_standing, apply_ite Station.standing,
      State.modStn_modLink_standing, State.modStn_modServo_standing, State.modStn_modSpeed_standing,
      State.modStn_modWrite_standing, State.modStn_modRecall_standing, State.modStn_modCtx_standing,
      standing_upd, foldl_standing, State.modPort_standing, State.eachPort_standing,
      apply_ite State.standing, ite_self, implies_true]

theorem State.rung3_standing (s : State) (st : Stn) (l : List Nat) : (State.rung3 s st l).standing = s.standing := by
  simp only [State.rung3, State.runBack_standing, State.aim_standing, State.readOn_standing,
      Station.modLink_standing, Station.modServo_standing, Station.modSpeed_standing,
      Station.modWrite_standing, Station.modRecall_standing, Station.modCtx_standing,
      Station.standing_upd, State.modStn_standing_upd, State.eachStn_standing,
      apply_ite Station.standing, State.modStn_modLink_standing, State.modStn_modServo_standing,
      State.modStn_modSpeed_standing, State.modStn_modWrite_standing, State.modStn_modRecall_standing,
      State.modStn_modCtx_standing, standing_upd, foldl_standing, State.modPort_standing,
      State.eachPort_standing, apply_ite State.standing, ite_self, implies_true]

theorem State.climb_standing (s : State) (st : Stn) (v : VolCtx) (quire : Nat) :
    (State.climb s st v quire).standing = s.standing := by
  unfold State.climb
  (repeat' split) <;> first
    | with_reducible rfl
    | (simp only [State.rung3_standing, Station.modLink_standing, Station.modServo_standing,
      Station.modSpeed_standing, Station.modWrite_standing, Station.modRecall_standing,
      Station.modCtx_standing, Station.standing_upd, State.modStn_standing_upd, State.eachStn_standing,
      apply_ite Station.standing, State.modStn_modLink_standing, State.modStn_modServo_standing,
      State.modStn_modSpeed_standing, State.modStn_modWrite_standing, State.modStn_modRecall_standing,
      State.modStn_modCtx_standing, standing_upd, foldl_standing, State.modPort_standing,
      State.eachPort_standing, apply_ite State.standing, ite_self, implies_true]; done)
    | (simp only [State.rung3_standing, Station.modLink_standing, Station.modServo_standing,
      Station.modSpeed_standing, Station.modWrite_standing, Station.modRecall_standing,
      Station.modCtx_standing, Station.standing_upd, State.modStn_standing_upd, State.eachStn_standing,
      apply_ite Station.standing, State.modStn_modLink_standing, State.modStn_modServo_standing,
      State.modStn_modSpeed_standing, State.modStn_modWrite_standing, State.modStn_modRecall_standing,
      State.modStn_modCtx_standing, standing_upd, foldl_standing, State.modPort_standing,
      State.eachPort_standing, apply_ite State.standing, ite_self, implies_true]
       (repeat' split) <;> first | with_reducible rfl | simp only [State.rung3_standing, Station.modLink_standing, Station.modServo_standing,
      Station.modSpeed_standing, Station.modWrite_standing, Station.modRecall_standing,
      Station.modCtx_standing, Station.standing_upd, State.modStn_standing_upd, State.eachStn_standing,
      apply_ite Station.standing, State.modStn_modLink_standing, State.modStn_modServo_standing,
      State.modStn_modSpeed_standing, State.modStn_modWrite_standing, State.modStn_modRecall_standing,
      State.modStn_modCtx_standing, standing_upd, foldl_standing, State.modPort_standing,
      State.eachPort_standing, apply_ite State.standing, ite_self, implies_true])

theorem State.decodeQuire_standing (s : State) (st : Stn) (v : VolCtx) (quire : Nat) :
    (State.decodeQuire s st v quire).standing = s.standing := by
  simp only [State.decodeQuire, State.addJob_standing, State.countRows_standing, State.climb_standing,
      Station.modLink_standing, Station.modServo_standing, Station.modSpeed_standing,
      Station.modWrite_standing, Station.modRecall_standing, Station.modCtx_standing,
      Station.standing_upd, State.modStn_standing_upd, State.eachStn_standing,
      apply_ite Station.standing, State.modStn_modLink_standing, State.modStn_modServo_standing,
      State.modStn_modSpeed_standing, State.modStn_modWrite_standing, State.modStn_modRecall_standing,
      State.modStn_modCtx_standing, standing_upd, foldl_standing, State.modPort_standing,
      State.eachPort_standing, apply_ite State.standing, ite_self, implies_true]

theorem State.labelRead_standing (s : State) (st : Stn) (g : RGath) : (State.labelRead s st g).standing = s.standing := by
  unfold State.labelRead
  (repeat' split) <;> first
    | with_reducible rfl
    | (simp only [State.take_standing, State.migColophon_standing, Station.modLink_standing,
      Station.modServo_standing, Station.modSpeed_standing, Station.modWrite_standing,
      Station.modRecall_standing, Station.modCtx_standing, Station.standing_upd,
      State.modStn_standing_upd, State.eachStn_standing, apply_ite Station.standing,
      State.modStn_modLink_standing, State.modStn_modServo_standing, State.modStn_modSpeed_standing,
      State.modStn_modWrite_standing, State.modStn_modRecall_standing, State.modStn_modCtx_standing,
      standing_upd, foldl_standing, State.modPort_standing, State.eachPort_standing,
      apply_ite State.standing, ite_self, implies_true]; done)
    | (simp only [State.take_standing, State.migColophon_standing, Station.modLink_standing,
      Station.modServo_standing, Station.modSpeed_standing, Station.modWrite_standing,
      Station.modRecall_standing, Station.modCtx_standing, Station.standing_upd,
      State.modStn_standing_upd, State.eachStn_standing, apply_ite Station.standing,
      State.modStn_modLink_standing, State.modStn_modServo_standing, State.modStn_modSpeed_standing,
      State.modStn_modWrite_standing, State.modStn_modRecall_standing, State.modStn_modCtx_standing,
      standing_upd, foldl_standing, State.modPort_standing, State.eachPort_standing,
      apply_ite State.standing, ite_self, implies_true]
       (repeat' split) <;> first | with_reducible rfl | simp only [State.take_standing, State.migColophon_standing, Station.modLink_standing,
      Station.modServo_standing, Station.modSpeed_standing, Station.modWrite_standing,
      Station.modRecall_standing, Station.modCtx_standing, Station.standing_upd,
      State.modStn_standing_upd, State.eachStn_standing, apply_ite Station.standing,
      State.modStn_modLink_standing, State.modStn_modServo_standing, State.modStn_modSpeed_standing,
      State.modStn_modWrite_standing, State.modStn_modRecall_standing, State.modStn_modCtx_standing,
      standing_upd, foldl_standing, State.modPort_standing, State.eachPort_standing,
      apply_ite State.standing, ite_self, implies_true])

theorem State.tagFailed_standing (s : State) (st : Stn) (g : RGath) : (State.tagFailed s st g).standing = s.standing := by
  unfold State.tagFailed
  (repeat' split) <;> first
    | with_reducible rfl
    | (simp only [State.climb_standing, Station.modLink_standing, Station.modServo_standing,
      Station.modSpeed_standing, Station.modWrite_standing, Station.modRecall_standing,
      Station.modCtx_standing, Station.standing_upd, State.modStn_standing_upd, State.eachStn_standing,
      apply_ite Station.standing, State.modStn_modLink_standing, State.modStn_modServo_standing,
      State.modStn_modSpeed_standing, State.modStn_modWrite_standing, State.modStn_modRecall_standing,
      State.modStn_modCtx_standing, standing_upd, foldl_standing, State.modPort_standing,
      State.eachPort_standing, apply_ite State.standing, ite_self, implies_true]; done)
    | (simp only [State.climb_standing, Station.modLink_standing, Station.modServo_standing,
      Station.modSpeed_standing, Station.modWrite_standing, Station.modRecall_standing,
      Station.modCtx_standing, Station.standing_upd, State.modStn_standing_upd, State.eachStn_standing,
      apply_ite Station.standing, State.modStn_modLink_standing, State.modStn_modServo_standing,
      State.modStn_modSpeed_standing, State.modStn_modWrite_standing, State.modStn_modRecall_standing,
      State.modStn_modCtx_standing, standing_upd, foldl_standing, State.modPort_standing,
      State.eachPort_standing, apply_ite State.standing, ite_self, implies_true]
       (repeat' split) <;> first | with_reducible rfl | simp only [State.climb_standing, Station.modLink_standing, Station.modServo_standing,
      Station.modSpeed_standing, Station.modWrite_standing, Station.modRecall_standing,
      Station.modCtx_standing, Station.standing_upd, State.modStn_standing_upd, State.eachStn_standing,
      apply_ite Station.standing, State.modStn_modLink_standing, State.modStn_modServo_standing,
      State.modStn_modSpeed_standing, State.modStn_modWrite_standing, State.modStn_modRecall_standing,
      State.modStn_modCtx_standing, standing_upd, foldl_standing, State.modPort_standing,
      State.eachPort_standing, apply_ite State.standing, ite_self, implies_true])

theorem State.recallWrapEnd_standing (s : State) (st : Stn) : (State.recallWrapEnd s st).standing = s.standing := by
  unfold State.recallWrapEnd
  (repeat' split) <;> simp only [State.rampTo_standing, State.controlledStop_standing, State.aim_standing,
      State.mountSearch_standing, State.readOn_standing, Station.modLink_standing,
      Station.modServo_standing, Station.modSpeed_standing, Station.modWrite_standing,
      Station.modRecall_standing, Station.modCtx_standing, Station.standing_upd,
      State.modStn_standing_upd, State.eachStn_standing, apply_ite Station.standing,
      State.modStn_modLink_standing, State.modStn_modServo_standing, State.modStn_modSpeed_standing,
      State.modStn_modWrite_standing, State.modStn_modRecall_standing, State.modStn_modCtx_standing,
      standing_upd, foldl_standing, State.modPort_standing, State.eachPort_standing,
      apply_ite State.standing, ite_self, implies_true]

theorem State.reserveFault_standing (s : State) (st : Stn) : (State.reserveFault s st).standing = s.standing := by
  simp only [State.reserveFault, State.writeFault_standing, Station.modLink_standing, Station.modServo_standing,
      Station.modSpeed_standing, Station.modWrite_standing, Station.modRecall_standing,
      Station.modCtx_standing, Station.standing_upd, State.modStn_standing_upd, State.eachStn_standing,
      apply_ite Station.standing, State.modStn_modLink_standing, State.modStn_modServo_standing,
      State.modStn_modSpeed_standing, State.modStn_modWrite_standing, State.modStn_modRecall_standing,
      State.modStn_modCtx_standing, standing_upd, foldl_standing, State.modPort_standing,
      State.eachPort_standing, apply_ite State.standing, ite_self, implies_true]

theorem State.placeTail_standing (s : State) (st : Stn) (n : Nat) : (State.placeTail s st n).standing = s.standing := by
  unfold State.placeTail
  exact State.modStn_standing _ _ _ (fun t => by
    dsimp only
    (repeat' split) <;> rfl)

theorem State.closeEmpty_standing (s : State) (st : Stn) : (State.closeEmpty s st).standing = s.standing := by
  simp only [State.closeEmpty, State.closeGath_standing, Station.modLink_standing, Station.modServo_standing,
      Station.modSpeed_standing, Station.modWrite_standing, Station.modRecall_standing,
      Station.modCtx_standing, Station.standing_upd, State.modStn_standing_upd, State.eachStn_standing,
      apply_ite Station.standing, State.modStn_modLink_standing, State.modStn_modServo_standing,
      State.modStn_modSpeed_standing, State.modStn_modWrite_standing, State.modStn_modRecall_standing,
      State.modStn_modCtx_standing, standing_upd, foldl_standing, State.modPort_standing,
      State.eachPort_standing, apply_ite State.standing, ite_self, implies_true]

theorem State.endFill_standing (s : State) (st : Stn) (n : Nat) : (State.endFill s st n).standing = s.standing := by
  simp only [State.endFill, Station.modLink_standing, Station.modServo_standing, Station.modSpeed_standing,
      Station.modWrite_standing, Station.modRecall_standing, Station.modCtx_standing,
      Station.standing_upd, State.modStn_standing_upd, State.eachStn_standing,
      apply_ite Station.standing, State.modStn_modLink_standing, State.modStn_modServo_standing,
      State.modStn_modSpeed_standing, State.modStn_modWrite_standing, State.modStn_modRecall_standing,
      State.modStn_modCtx_standing, standing_upd, foldl_standing, State.modPort_standing,
      State.eachPort_standing, apply_ite State.standing, ite_self, implies_true]

theorem State.resume_standing (s : State) (st : Stn) : (State.resume s st).standing = s.standing := by
  simp only [State.resume, Station.modLink_standing, Station.modServo_standing, Station.modSpeed_standing,
      Station.modWrite_standing, Station.modRecall_standing, Station.modCtx_standing,
      Station.standing_upd, State.modStn_standing_upd, State.eachStn_standing,
      apply_ite Station.standing, State.modStn_modLink_standing, State.modStn_modServo_standing,
      State.modStn_modSpeed_standing, State.modStn_modWrite_standing, State.modStn_modRecall_standing,
      State.modStn_modCtx_standing, standing_upd, foldl_standing, State.modPort_standing,
      State.eachPort_standing, apply_ite State.standing, ite_self, implies_true]

theorem State.fillResume_standing (s : State) (st : Stn) : (State.fillResume s st).standing = s.standing := by
  simp only [State.fillResume, State.emit_standing, State.capDown_standing, State.endFill_standing,
      State.resume_standing, Station.modLink_standing, Station.modServo_standing,
      Station.modSpeed_standing, Station.modWrite_standing, Station.modRecall_standing,
      Station.modCtx_standing, Station.standing_upd, State.modStn_standing_upd, State.eachStn_standing,
      apply_ite Station.standing, State.modStn_modLink_standing, State.modStn_modServo_standing,
      State.modStn_modSpeed_standing, State.modStn_modWrite_standing, State.modStn_modRecall_standing,
      State.modStn_modCtx_standing, standing_upd, foldl_standing, State.modPort_standing,
      State.eachPort_standing, apply_ite State.standing, ite_self, implies_true]

theorem State.newRun_standing (s : State) (st : Stn) : (State.newRun s st).standing = s.standing := by
  simp only [State.newRun, Station.modLink_standing, Station.modServo_standing, Station.modSpeed_standing,
      Station.modWrite_standing, Station.modRecall_standing, Station.modCtx_standing,
      Station.standing_upd, State.modStn_standing_upd, State.eachStn_standing,
      apply_ite Station.standing, State.modStn_modLink_standing, State.modStn_modServo_standing,
      State.modStn_modSpeed_standing, State.modStn_modWrite_standing, State.modStn_modRecall_standing,
      State.modStn_modCtx_standing, standing_upd, foldl_standing, State.modPort_standing,
      State.eachPort_standing, apply_ite State.standing, ite_self, implies_true]

theorem State.turnLabels_standing (s : State) (st : Stn) (w : Nat) : (State.turnLabels s st w).standing = s.standing := by
  unfold State.turnLabels
  (repeat' split) <;> simp only [State.composeEndpaper_standing, State.composeSpines_standing, Station.modLink_standing,
      Station.modServo_standing, Station.modSpeed_standing, Station.modWrite_standing,
      Station.modRecall_standing, Station.modCtx_standing, Station.standing_upd,
      State.modStn_standing_upd, State.eachStn_standing, apply_ite Station.standing,
      State.modStn_modLink_standing, State.modStn_modServo_standing, State.modStn_modSpeed_standing,
      State.modStn_modWrite_standing, State.modStn_modRecall_standing, State.modStn_modCtx_standing,
      standing_upd, foldl_standing, State.modPort_standing, State.eachPort_standing,
      apply_ite State.standing, ite_self, implies_true]

theorem State.nextWrap_standing (s : State) (st : Stn) (stopping : Bool) :
    (State.nextWrap s st stopping).standing = s.standing := by
  unfold State.nextWrap
  (repeat' split) <;> first
    | with_reducible rfl
    | (simp only [State.giveBack_standing, State.closeOpen_standing, State.aim_standing, State.resume_standing,
      State.turnLabels_standing, Station.modLink_standing, Station.modServo_standing,
      Station.modSpeed_standing, Station.modWrite_standing, Station.modRecall_standing,
      Station.modCtx_standing, Station.standing_upd, State.modStn_standing_upd, State.eachStn_standing,
      apply_ite Station.standing, State.modStn_modLink_standing, State.modStn_modServo_standing,
      State.modStn_modSpeed_standing, State.modStn_modWrite_standing, State.modStn_modRecall_standing,
      State.modStn_modCtx_standing, standing_upd, foldl_standing, State.modPort_standing,
      State.eachPort_standing, apply_ite State.standing, ite_self, implies_true]; done)
    | (simp only [State.giveBack_standing, State.closeOpen_standing, State.aim_standing, State.resume_standing,
      State.turnLabels_standing, Station.modLink_standing, Station.modServo_standing,
      Station.modSpeed_standing, Station.modWrite_standing, Station.modRecall_standing,
      Station.modCtx_standing, Station.standing_upd, State.modStn_standing_upd, State.eachStn_standing,
      apply_ite Station.standing, State.modStn_modLink_standing, State.modStn_modServo_standing,
      State.modStn_modSpeed_standing, State.modStn_modWrite_standing, State.modStn_modRecall_standing,
      State.modStn_modCtx_standing, standing_upd, foldl_standing, State.modPort_standing,
      State.eachPort_standing, apply_ite State.standing, ite_self, implies_true]
       (repeat' split) <;> first | with_reducible rfl | simp only [State.giveBack_standing, State.closeOpen_standing, State.aim_standing, State.resume_standing,
      State.turnLabels_standing, Station.modLink_standing, Station.modServo_standing,
      Station.modSpeed_standing, Station.modWrite_standing, Station.modRecall_standing,
      Station.modCtx_standing, Station.standing_upd, State.modStn_standing_upd, State.eachStn_standing,
      apply_ite Station.standing, State.modStn_modLink_standing, State.modStn_modServo_standing,
      State.modStn_modSpeed_standing, State.modStn_modWrite_standing, State.modStn_modRecall_standing,
      State.modStn_modCtx_standing, standing_upd, foldl_standing, State.modPort_standing,
      State.eachPort_standing, apply_ite State.standing, ite_self, implies_true])

theorem State.turn_standing (s : State) (st : Stn) : (State.turn s st).standing = s.standing := by
  unfold State.turn
  (repeat' split) <;> first
    | with_reducible rfl
    | (simp only [State.voidWriting_standing, State.rampTo_standing, State.closureFailed_standing,
      State.settle_standing, State.writeFault_standing, State.nextWrap_standing,
      Station.modLink_standing, Station.modServo_standing, Station.modSpeed_standing,
      Station.modWrite_standing, Station.modRecall_standing, Station.modCtx_standing,
      Station.standing_upd, State.modStn_standing_upd, State.eachStn_standing,
      apply_ite Station.standing, State.modStn_modLink_standing, State.modStn_modServo_standing,
      State.modStn_modSpeed_standing, State.modStn_modWrite_standing, State.modStn_modRecall_standing,
      State.modStn_modCtx_standing, standing_upd, foldl_standing, State.modPort_standing,
      State.eachPort_standing, apply_ite State.standing, ite_self, implies_true]; done)
    | (simp only [State.voidWriting_standing, State.rampTo_standing, State.closureFailed_standing,
      State.settle_standing, State.writeFault_standing, State.nextWrap_standing,
      Station.modLink_standing, Station.modServo_standing, Station.modSpeed_standing,
      Station.modWrite_standing, Station.modRecall_standing, Station.modCtx_standing,
      Station.standing_upd, State.modStn_standing_upd, State.eachStn_standing,
      apply_ite Station.standing, State.modStn_modLink_standing, State.modStn_modServo_standing,
      State.modStn_modSpeed_standing, State.modStn_modWrite_standing, State.modStn_modRecall_standing,
      State.modStn_modCtx_standing, standing_upd, foldl_standing, State.modPort_standing,
      State.eachPort_standing, apply_ite State.standing, ite_self, implies_true]
       (repeat' split) <;> first | with_reducible rfl | simp only [State.voidWriting_standing, State.rampTo_standing, State.closureFailed_standing,
      State.settle_standing, State.writeFault_standing, State.nextWrap_standing,
      Station.modLink_standing, Station.modServo_standing, Station.modSpeed_standing,
      Station.modWrite_standing, Station.modRecall_standing, Station.modCtx_standing,
      Station.standing_upd, State.modStn_standing_upd, State.eachStn_standing,
      apply_ite Station.standing, State.modStn_modLink_standing, State.modStn_modServo_standing,
      State.modStn_modSpeed_standing, State.modStn_modWrite_standing, State.modStn_modRecall_standing,
      State.modStn_modCtx_standing, standing_upd, foldl_standing, State.modPort_standing,
      State.eachPort_standing, apply_ite State.standing, ite_self, implies_true])

theorem State.eachWriting_standing (s : State) (f : State → Stn → State) (h : ∀ a st, (f a st).standing = a.standing) :
    (State.eachWriting s f).standing = s.standing := by
  unfold State.eachWriting
  refine foldl_standing _ (fun a st => ?_) _ _
  split
  · rfl
  · exact h _ _

theorem State.dipResume_standing (s : State) (st : Stn) : (State.dipResume s st).standing = s.standing := by
  simp only [State.dipResume, State.runOut_standing, State.fillResume_standing, Station.modLink_standing,
      Station.modServo_standing, Station.modSpeed_standing, Station.modWrite_standing,
      Station.modRecall_standing, Station.modCtx_standing, Station.standing_upd,
      State.modStn_standing_upd, State.eachStn_standing, apply_ite Station.standing,
      State.modStn_modLink_standing, State.modStn_modServo_standing, State.modStn_modSpeed_standing,
      State.modStn_modWrite_standing, State.modStn_modRecall_standing, State.modStn_modCtx_standing,
      standing_upd, foldl_standing, State.modPort_standing, State.eachPort_standing,
      apply_ite State.standing, ite_self, implies_true]

theorem State.setCap_standing (s : State) (c : Option Nat) : (State.setCap s c).standing = s.standing := by
  simp only [State.setCap, State.capDown_standing, Station.modLink_standing, Station.modServo_standing,
      Station.modSpeed_standing, Station.modWrite_standing, Station.modRecall_standing,
      Station.modCtx_standing, Station.standing_upd, State.modStn_standing_upd, State.eachStn_standing,
      apply_ite Station.standing, State.modStn_modLink_standing, State.modStn_modServo_standing,
      State.modStn_modSpeed_standing, State.modStn_modWrite_standing, State.modStn_modRecall_standing,
      State.modStn_modCtx_standing, standing_upd, foldl_standing, State.modPort_standing,
      State.eachPort_standing, apply_ite State.standing, ite_self, implies_true]

theorem State.busReads_standing (s : State) (st : Stn) (counts : Nat) :
    (State.busReads s st counts).standing = s.standing := by
  simp only [State.busReads, Station.modLink_standing, Station.modServo_standing, Station.modSpeed_standing,
      Station.modWrite_standing, Station.modRecall_standing, Station.modCtx_standing,
      Station.standing_upd, State.modStn_standing_upd, State.eachStn_standing,
      apply_ite Station.standing, State.modStn_modLink_standing, State.modStn_modServo_standing,
      State.modStn_modSpeed_standing, State.modStn_modWrite_standing, State.modStn_modRecall_standing,
      State.modStn_modCtx_standing, standing_upd, foldl_standing, State.modPort_standing,
      State.eachPort_standing, apply_ite State.standing, ite_self, implies_true]

theorem State.busLevel_standing (s : State) (st : Stn) (mv level : Nat) (f : State → State)
    (h : ∀ a, (f a).standing = a.standing) : (State.busLevel s st mv level f).standing = s.standing := by
  unfold State.busLevel
  split
  · rfl
  · rw [h, State.raise_standing, State.busReads_standing]

theorem State.setBusCap_standing (s : State) (st : Stn) (c : Option Nat) :
    (State.setBusCap s st c).standing = s.standing := by
  simp only [State.setBusCap, State.capDown_standing, Station.modLink_standing, Station.modServo_standing,
      Station.modSpeed_standing, Station.modWrite_standing, Station.modRecall_standing,
      Station.modCtx_standing, Station.standing_upd, State.modStn_standing_upd, State.eachStn_standing,
      apply_ite Station.standing, State.modStn_modLink_standing, State.modStn_modServo_standing,
      State.modStn_modSpeed_standing, State.modStn_modWrite_standing, State.modStn_modRecall_standing,
      State.modStn_modCtx_standing, standing_upd, foldl_standing, State.modPort_standing,
      State.eachPort_standing, apply_ite State.standing, ite_self, implies_true]

theorem State.busRaise_standing (s : State) (st : Stn) : (State.busRaise s st).standing = s.standing := by
  simp only [State.busRaise, Station.modLink_standing, Station.modServo_standing, Station.modSpeed_standing,
      Station.modWrite_standing, Station.modRecall_standing, Station.modCtx_standing,
      Station.standing_upd, State.modStn_standing_upd, State.eachStn_standing,
      apply_ite Station.standing, State.modStn_modLink_standing, State.modStn_modServo_standing,
      State.modStn_modSpeed_standing, State.modStn_modWrite_standing, State.modStn_modRecall_standing,
      State.modStn_modCtx_standing, standing_upd, foldl_standing, State.modPort_standing,
      State.eachPort_standing, apply_ite State.standing, ite_self, implies_true]

theorem State.testEnds_standing (s : State) (outcome : Nat) (parts : List TestPart) :
    (State.testEnds s outcome parts).standing = s.standing := by
  unfold State.testEnds
  (repeat' split) <;> simp only [State.finishWith_standing, Station.modLink_standing, Station.modServo_standing,
      Station.modSpeed_standing, Station.modWrite_standing, Station.modRecall_standing,
      Station.modCtx_standing, Station.standing_upd, State.modStn_standing_upd, State.eachStn_standing,
      apply_ite Station.standing, State.modStn_modLink_standing, State.modStn_modServo_standing,
      State.modStn_modSpeed_standing, State.modStn_modWrite_standing, State.modStn_modRecall_standing,
      State.modStn_modCtx_standing, standing_upd, foldl_standing, State.modPort_standing,
      State.eachPort_standing, apply_ite State.standing, ite_self, implies_true]

theorem State.runTest_standing (c : HostCmd) (parts : List TestPart) (s : State) :
    (State.runTest c parts s).standing = s.standing := by
  simp only [State.runTest, State.finishNew_standing, State.launch_standing, State.testEnds_standing,
      Station.modLink_standing, Station.modServo_standing, Station.modSpeed_standing,
      Station.modWrite_standing, Station.modRecall_standing, Station.modCtx_standing,
      Station.standing_upd, State.modStn_standing_upd, State.eachStn_standing,
      apply_ite Station.standing, State.modStn_modLink_standing, State.modStn_modServo_standing,
      State.modStn_modSpeed_standing, State.modStn_modWrite_standing, State.modStn_modRecall_standing,
      State.modStn_modCtx_standing, standing_upd, foldl_standing, State.modPort_standing,
      State.eachPort_standing, apply_ite State.standing, ite_self, implies_true]

theorem State.monReading_standing (s : State) (src v : BitVec 32) : (State.monReading s src v).standing = s.standing := by
  unfold State.monReading
  dsimp only
  split
  · rfl
  · exact State.heat_standing ..
  · exact State.modStn_standing _ _ _ (by exact fun _ => rfl)
  · rfl

theorem State.readPoisoned_standing (s : State) (a : PageAddr) (r : CmdRef) (ofs : Nat) (g : PageImg) :
    (State.readPoisoned s a r ofs g).standing = s.standing := by
  unfold State.readPoisoned
  (repeat' split) <;> first
    | with_reducible rfl
    | (simp only [State.finish_standing, State.sendData_standing, State.take_standing, State.endReading_standing,
      Station.modLink_standing, Station.modServo_standing, Station.modSpeed_standing,
      Station.modWrite_standing, Station.modRecall_standing, Station.modCtx_standing,
      Station.standing_upd, State.modStn_standing_upd, State.eachStn_standing,
      apply_ite Station.standing, State.modStn_modLink_standing, State.modStn_modServo_standing,
      State.modStn_modSpeed_standing, State.modStn_modWrite_standing, State.modStn_modRecall_standing,
      State.modStn_modCtx_standing, standing_upd, foldl_standing, State.modPort_standing,
      State.eachPort_standing, apply_ite State.standing, ite_self, implies_true]; done)
    | (simp only [State.finish_standing, State.sendData_standing, State.take_standing, State.endReading_standing,
      Station.modLink_standing, Station.modServo_standing, Station.modSpeed_standing,
      Station.modWrite_standing, Station.modRecall_standing, Station.modCtx_standing,
      Station.standing_upd, State.modStn_standing_upd, State.eachStn_standing,
      apply_ite Station.standing, State.modStn_modLink_standing, State.modStn_modServo_standing,
      State.modStn_modSpeed_standing, State.modStn_modWrite_standing, State.modStn_modRecall_standing,
      State.modStn_modCtx_standing, standing_upd, foldl_standing, State.modPort_standing,
      State.eachPort_standing, apply_ite State.standing, ite_self, implies_true]
       (repeat' split) <;> first | with_reducible rfl | simp only [State.finish_standing, State.sendData_standing, State.take_standing, State.endReading_standing,
      Station.modLink_standing, Station.modServo_standing, Station.modSpeed_standing,
      Station.modWrite_standing, Station.modRecall_standing, Station.modCtx_standing,
      Station.standing_upd, State.modStn_standing_upd, State.eachStn_standing,
      apply_ite Station.standing, State.modStn_modLink_standing, State.modStn_modServo_standing,
      State.modStn_modSpeed_standing, State.modStn_modWrite_standing, State.modStn_modRecall_standing,
      State.modStn_modCtx_standing, standing_upd, foldl_standing, State.modPort_standing,
      State.eachPort_standing, apply_ite State.standing, ite_self, implies_true])

theorem State.consume_standing (s : State) (a : PageAddr) (g : PageImg) (c : Consumer) :
    (State.consume s a g c).standing = s.standing := by
  unfold State.consume
  (repeat' split) <;> simp only [State.raise_standing, State.dropWord_standing, State.setPage_standing, State.readPage_standing,
      State.modCmd_standing, State.abandonRec_standing, State.sendAdmin_standing, State.settle_standing,
      State.modRec_standing, State.loseContext_standing, State.burnReleased_standing,
      State.migStop_standing, State.readPoisoned_standing, Station.modLink_standing,
      Station.modServo_standing, Station.modSpeed_standing, Station.modWrite_standing,
      Station.modRecall_standing, Station.modCtx_standing, Station.standing_upd,
      State.modStn_standing_upd, State.eachStn_standing, apply_ite Station.standing,
      State.modStn_modLink_standing, State.modStn_modServo_standing, State.modStn_modSpeed_standing,
      State.modStn_modWrite_standing, State.modStn_modRecall_standing, State.modStn_modCtx_standing,
      standing_upd, foldl_standing, State.modPort_standing, State.eachPort_standing,
      apply_ite State.standing, ite_self, implies_true]

theorem State.mountReads_standing (s : State) (st : Stn) (r : CmdRef) : (State.mountReads s st r).standing = s.standing := by
  simp only [State.mountReads, State.modCmd_standing, State.rampTo_standing, State.aim_standing,
      Station.modLink_standing, Station.modServo_standing, Station.modSpeed_standing,
      Station.modWrite_standing, Station.modRecall_standing, Station.modCtx_standing,
      Station.standing_upd, State.modStn_standing_upd, State.eachStn_standing,
      apply_ite Station.standing, State.modStn_modLink_standing, State.modStn_modServo_standing,
      State.modStn_modSpeed_standing, State.modStn_modWrite_standing, State.modStn_modRecall_standing,
      State.modStn_modCtx_standing, standing_upd, foldl_standing, State.modPort_standing,
      State.eachPort_standing, apply_ite State.standing, ite_self, implies_true]

theorem State.recallFails_standing (s : State) (st : Stn) (hit : Cmd → Bool) (forMig : Bool) (lon n : Nat) :
    (State.recallFails s st hit forMig lon n).standing = s.standing := by
  unfold State.recallFails
  (repeat' split) <;> first
    | with_reducible rfl
    | (simp only [State.finishAll_standing, State.endReading_standing, State.migStop_standing,
      Station.modLink_standing, Station.modServo_standing, Station.modSpeed_standing,
      Station.modWrite_standing, Station.modRecall_standing, Station.modCtx_standing,
      Station.standing_upd, State.modStn_standing_upd, State.eachStn_standing,
      apply_ite Station.standing, State.modStn_modLink_standing, State.modStn_modServo_standing,
      State.modStn_modSpeed_standing, State.modStn_modWrite_standing, State.modStn_modRecall_standing,
      State.modStn_modCtx_standing, standing_upd, foldl_standing, State.modPort_standing,
      State.eachPort_standing, apply_ite State.standing, ite_self, implies_true]; done)
    | (simp only [State.finishAll_standing, State.endReading_standing, State.migStop_standing,
      Station.modLink_standing, Station.modServo_standing, Station.modSpeed_standing,
      Station.modWrite_standing, Station.modRecall_standing, Station.modCtx_standing,
      Station.standing_upd, State.modStn_standing_upd, State.eachStn_standing,
      apply_ite Station.standing, State.modStn_modLink_standing, State.modStn_modServo_standing,
      State.modStn_modSpeed_standing, State.modStn_modWrite_standing, State.modStn_modRecall_standing,
      State.modStn_modCtx_standing, standing_upd, foldl_standing, State.modPort_standing,
      State.eachPort_standing, apply_ite State.standing, ite_self, implies_true]
       (repeat' split) <;> first | with_reducible rfl | simp only [State.finishAll_standing, State.endReading_standing, State.migStop_standing,
      Station.modLink_standing, Station.modServo_standing, Station.modSpeed_standing,
      Station.modWrite_standing, Station.modRecall_standing, Station.modCtx_standing,
      Station.standing_upd, State.modStn_standing_upd, State.eachStn_standing,
      apply_ite Station.standing, State.modStn_modLink_standing, State.modStn_modServo_standing,
      State.modStn_modSpeed_standing, State.modStn_modWrite_standing, State.modStn_modRecall_standing,
      State.modStn_modCtx_standing, standing_upd, foldl_standing, State.modPort_standing,
      State.eachPort_standing, apply_ite State.standing, ite_self, implies_true])

theorem State.labelFails_standing (s : State) (st : Stn) (gnum n : Nat) :
    (State.labelFails s st gnum n).standing = s.standing := by
  unfold State.labelFails
  (repeat' split) <;> first
    | with_reducible rfl
    | (simp only [State.finish_standing, State.migStop_standing, Station.modLink_standing, Station.modServo_standing,
      Station.modSpeed_standing, Station.modWrite_standing, Station.modRecall_standing,
      Station.modCtx_standing, Station.standing_upd, State.modStn_standing_upd, State.eachStn_standing,
      apply_ite Station.standing, State.modStn_modLink_standing, State.modStn_modServo_standing,
      State.modStn_modSpeed_standing, State.modStn_modWrite_standing, State.modStn_modRecall_standing,
      State.modStn_modCtx_standing, standing_upd, foldl_standing, State.modPort_standing,
      State.eachPort_standing, apply_ite State.standing, ite_self, implies_true]; done)
    | (simp only [State.finish_standing, State.migStop_standing, Station.modLink_standing, Station.modServo_standing,
      Station.modSpeed_standing, Station.modWrite_standing, Station.modRecall_standing,
      Station.modCtx_standing, Station.standing_upd, State.modStn_standing_upd, State.eachStn_standing,
      apply_ite Station.standing, State.modStn_modLink_standing, State.modStn_modServo_standing,
      State.modStn_modSpeed_standing, State.modStn_modWrite_standing, State.modStn_modRecall_standing,
      State.modStn_modCtx_standing, standing_upd, foldl_standing, State.modPort_standing,
      State.eachPort_standing, apply_ite State.standing, ite_self, implies_true]
       (repeat' split) <;> first | with_reducible rfl | simp only [State.finish_standing, State.migStop_standing, Station.modLink_standing, Station.modServo_standing,
      Station.modSpeed_standing, Station.modWrite_standing, Station.modRecall_standing,
      Station.modCtx_standing, Station.standing_upd, State.modStn_standing_upd, State.eachStn_standing,
      apply_ite Station.standing, State.modStn_modLink_standing, State.modStn_modServo_standing,
      State.modStn_modSpeed_standing, State.modStn_modWrite_standing, State.modStn_modRecall_standing,
      State.modStn_modCtx_standing, standing_upd, foldl_standing, State.modPort_standing,
      State.eachPort_standing, apply_ite State.standing, ite_self, implies_true])

theorem State.jobFails_standing (s : State) (j : Job) (n : Nat) : (State.jobFails s j n).standing = s.standing := by
  unfold State.jobFails
  (repeat' split) <;> first
    | with_reducible rfl
    | (simp only [State.finish_standing, State.finishAll_standing, State.dropJobs_standing, State.burnFrom_standing,
      State.abandonRec_standing, State.settle_standing, State.sealGo_standing,
      State.untakeAppend_standing, State.mountFail_standing, State.recallFails_standing,
      State.labelFails_standing, Station.modLink_standing, Station.modServo_standing,
      Station.modSpeed_standing, Station.modWrite_standing, Station.modRecall_standing,
      Station.modCtx_standing, Station.standing_upd, State.modStn_standing_upd, State.eachStn_standing,
      apply_ite Station.standing, State.modStn_modLink_standing, State.modStn_modServo_standing,
      State.modStn_modSpeed_standing, State.modStn_modWrite_standing, State.modStn_modRecall_standing,
      State.modStn_modCtx_standing, standing_upd, foldl_standing, State.modPort_standing,
      State.eachPort_standing, apply_ite State.standing, ite_self, implies_true]; done)
    | (simp only [State.finish_standing, State.finishAll_standing, State.dropJobs_standing, State.burnFrom_standing,
      State.abandonRec_standing, State.settle_standing, State.sealGo_standing,
      State.untakeAppend_standing, State.mountFail_standing, State.recallFails_standing,
      State.labelFails_standing, Station.modLink_standing, Station.modServo_standing,
      Station.modSpeed_standing, Station.modWrite_standing, Station.modRecall_standing,
      Station.modCtx_standing, Station.standing_upd, State.modStn_standing_upd, State.eachStn_standing,
      apply_ite Station.standing, State.modStn_modLink_standing, State.modStn_modServo_standing,
      State.modStn_modSpeed_standing, State.modStn_modWrite_standing, State.modStn_modRecall_standing,
      State.modStn_modCtx_standing, standing_upd, foldl_standing, State.modPort_standing,
      State.eachPort_standing, apply_ite State.standing, ite_self, implies_true]
       (repeat' split) <;> first | with_reducible rfl | simp only [State.finish_standing, State.finishAll_standing, State.dropJobs_standing, State.burnFrom_standing,
      State.abandonRec_standing, State.settle_standing, State.sealGo_standing,
      State.untakeAppend_standing, State.mountFail_standing, State.recallFails_standing,
      State.labelFails_standing, Station.modLink_standing, Station.modServo_standing,
      Station.modSpeed_standing, Station.modWrite_standing, Station.modRecall_standing,
      Station.modCtx_standing, Station.standing_upd, State.modStn_standing_upd, State.eachStn_standing,
      apply_ite Station.standing, State.modStn_modLink_standing, State.modStn_modServo_standing,
      State.modStn_modSpeed_standing, State.modStn_modWrite_standing, State.modStn_modRecall_standing,
      State.modStn_modCtx_standing, standing_upd, foldl_standing, State.modPort_standing,
      State.eachPort_standing, apply_ite State.standing, ite_self, implies_true])

theorem State.jobRefused_standing (s : State) (j : Job) : (State.jobRefused s j).standing = s.standing := by
  unfold State.jobRefused
  (repeat' split) <;> simp only [State.dropJobs_standing, State.jobFails_standing, Station.modLink_standing,
      Station.modServo_standing, Station.modSpeed_standing, Station.modWrite_standing,
      Station.modRecall_standing, Station.modCtx_standing, Station.standing_upd,
      State.modStn_standing_upd, State.eachStn_standing, apply_ite Station.standing,
      State.modStn_modLink_standing, State.modStn_modServo_standing, State.modStn_modSpeed_standing,
      State.modStn_modWrite_standing, State.modStn_modRecall_standing, State.modStn_modCtx_standing,
      standing_upd, foldl_standing, State.modPort_standing, State.eachPort_standing,
      apply_ite State.standing, ite_self, implies_true]

theorem State.startOver_standing (s : State) (st : Stn) (lon : Nat) : (State.startOver s st lon).standing = s.standing := by
  simp only [State.startOver, State.modRec_standing, Station.modLink_standing, Station.modServo_standing,
      Station.modSpeed_standing, Station.modWrite_standing, Station.modRecall_standing,
      Station.modCtx_standing, Station.standing_upd, State.modStn_standing_upd, State.eachStn_standing,
      apply_ite Station.standing, State.modStn_modLink_standing, State.modStn_modServo_standing,
      State.modStn_modSpeed_standing, State.modStn_modWrite_standing, State.modStn_modRecall_standing,
      State.modStn_modCtx_standing, standing_upd, foldl_standing, State.modPort_standing,
      State.eachPort_standing, apply_ite State.standing, ite_self, implies_true]

theorem State.startRerun_standing (s : State) (j : Job) : (State.startRerun s j).standing = s.standing := by
  unfold State.startRerun
  (repeat' split) <;> simp only [State.startOver_standing, Station.modLink_standing, Station.modServo_standing,
      Station.modSpeed_standing, Station.modWrite_standing, Station.modRecall_standing,
      Station.modCtx_standing, Station.standing_upd, State.modStn_standing_upd, State.eachStn_standing,
      apply_ite Station.standing, State.modStn_modLink_standing, State.modStn_modServo_standing,
      State.modStn_modSpeed_standing, State.modStn_modWrite_standing, State.modStn_modRecall_standing,
      State.modStn_modCtx_standing, standing_upd, foldl_standing, State.modPort_standing,
      State.eachPort_standing, apply_ite State.standing, ite_self, implies_true]

theorem State.fenceLane_standing (s : State) (d : DieId) (r : Region) (lane : Nat) :
    (State.fenceLane s d r lane).standing = s.standing := by
  simp only [State.fenceLane, State.modDie_standing, State.raise_standing, State.jobFails_standing,
      State.startRerun_standing, Station.modLink_standing, Station.modServo_standing,
      Station.modSpeed_standing, Station.modWrite_standing, Station.modRecall_standing,
      Station.modCtx_standing, Station.standing_upd, State.modStn_standing_upd, State.eachStn_standing,
      apply_ite Station.standing, State.modStn_modLink_standing, State.modStn_modServo_standing,
      State.modStn_modSpeed_standing, State.modStn_modWrite_standing, State.modStn_modRecall_standing,
      State.modStn_modCtx_standing, standing_upd, foldl_standing, State.modPort_standing,
      State.eachPort_standing, apply_ite State.standing, ite_self, implies_true]

theorem State.endAppend_standing (s : State) (r : CmdRef) (k : Cmd) (lon : Nat) (hash : Option (List Byte)) :
    (State.endAppend s r k lon hash).standing = s.standing := by
  unfold State.endAppend
  (repeat' split) <;> simp only [State.finish_standing, State.finishWith_standing, Station.modLink_standing,
      Station.modServo_standing, Station.modSpeed_standing, Station.modWrite_standing,
      Station.modRecall_standing, Station.modCtx_standing, Station.standing_upd,
      State.modStn_standing_upd, State.eachStn_standing, apply_ite Station.standing,
      State.modStn_modLink_standing, State.modStn_modServo_standing, State.modStn_modSpeed_standing,
      State.modStn_modWrite_standing, State.modStn_modRecall_standing, State.modStn_modCtx_standing,
      standing_upd, foldl_standing, State.modPort_standing, State.eachPort_standing,
      apply_ite State.standing, ite_self, implies_true]

theorem State.intake_standing (s : State) (r : CmdRef) (data : List Byte) (ep : Bool) :
    (State.intake s r data ep).standing = s.standing := by
  unfold State.intake
  (repeat' split) <;> first
    | with_reducible rfl
    | (simp only [State.raise_standing, State.finish_standing, State.addJob_standing, State.dropJobs_standing,
      State.abandonRec_standing, State.settle_standing, State.count_standing, State.modRec_standing,
      State.sealGo_standing, State.endAppend_standing, Station.modLink_standing,
      Station.modServo_standing, Station.modSpeed_standing, Station.modWrite_standing,
      Station.modRecall_standing, Station.modCtx_standing, Station.standing_upd,
      State.modStn_standing_upd, State.eachStn_standing, apply_ite Station.standing,
      State.modStn_modLink_standing, State.modStn_modServo_standing, State.modStn_modSpeed_standing,
      State.modStn_modWrite_standing, State.modStn_modRecall_standing, State.modStn_modCtx_standing,
      standing_upd, foldl_standing, State.modPort_standing, State.eachPort_standing,
      apply_ite State.standing, ite_self, implies_true]; done)
    | (simp only [State.raise_standing, State.finish_standing, State.addJob_standing, State.dropJobs_standing,
      State.abandonRec_standing, State.settle_standing, State.count_standing, State.modRec_standing,
      State.sealGo_standing, State.endAppend_standing, Station.modLink_standing,
      Station.modServo_standing, Station.modSpeed_standing, Station.modWrite_standing,
      Station.modRecall_standing, Station.modCtx_standing, Station.standing_upd,
      State.modStn_standing_upd, State.eachStn_standing, apply_ite Station.standing,
      State.modStn_modLink_standing, State.modStn_modServo_standing, State.modStn_modSpeed_standing,
      State.modStn_modWrite_standing, State.modStn_modRecall_standing, State.modStn_modCtx_standing,
      standing_upd, foldl_standing, State.modPort_standing, State.eachPort_standing,
      apply_ite State.standing, ite_self, implies_true]
       (repeat' split) <;> first | with_reducible rfl | simp only [State.raise_standing, State.finish_standing, State.addJob_standing, State.dropJobs_standing,
      State.abandonRec_standing, State.settle_standing, State.count_standing, State.modRec_standing,
      State.sealGo_standing, State.endAppend_standing, Station.modLink_standing,
      Station.modServo_standing, Station.modSpeed_standing, Station.modWrite_standing,
      Station.modRecall_standing, Station.modCtx_standing, Station.standing_upd,
      State.modStn_standing_upd, State.eachStn_standing, apply_ite Station.standing,
      State.modStn_modLink_standing, State.modStn_modServo_standing, State.modStn_modSpeed_standing,
      State.modStn_modWrite_standing, State.modStn_modRecall_standing, State.modStn_modCtx_standing,
      standing_upd, foldl_standing, State.modPort_standing, State.eachPort_standing,
      apply_ite State.standing, ite_self, implies_true])

theorem State.afterBlock_standing (s : State) (st : Stn) (lon : Nat) : (State.afterBlock s st lon).standing = s.standing := by
  unfold State.afterBlock
  cases s.rec? st lon with
  | none => exact State.dropJobs_standing ..
  | some r =>
    refine ite_standing (State.dropJobs_standing ..) ?_
    generalize List.find? _ _ = x
    cases x with
    | none => rfl
    | some x => exact ite_standing (State.backToWait_standing ..) rfl

theorem State.touch_standing (s : State) (p : Port) : (State.touch s p).standing = s.standing := by
  unfold State.touch
  rfl

theorem State.badDoorbell_standing (s : State) (p : Port) : (State.badDoorbell s p).standing = s.standing := by
  simp only [State.badDoorbell, State.raise_standing, Station.modLink_standing, Station.modServo_standing,
      Station.modSpeed_standing, Station.modWrite_standing, Station.modRecall_standing,
      Station.modCtx_standing, Station.standing_upd, State.modStn_standing_upd, State.eachStn_standing,
      apply_ite Station.standing, State.modStn_modLink_standing, State.modStn_modServo_standing,
      State.modStn_modSpeed_standing, State.modStn_modWrite_standing, State.modStn_modRecall_standing,
      State.modStn_modCtx_standing, standing_upd, foldl_standing, State.modPort_standing,
      State.eachPort_standing, apply_ite State.standing, ite_self, implies_true]

theorem State.unstablePool_standing (s : State) (st : Stn) (f : BufUse → Bool) (d : DieId) (p : Fin 5) :
    (State.unstablePool s st f d p).standing = s.standing := by
  simp only [State.unstablePool, State.modDie_standing, State.returnBuf_standing, Station.modLink_standing,
      Station.modServo_standing, Station.modSpeed_standing, Station.modWrite_standing,
      Station.modRecall_standing, Station.modCtx_standing, Station.standing_upd,
      State.modStn_standing_upd, State.eachStn_standing, apply_ite Station.standing,
      State.modStn_modLink_standing, State.modStn_modServo_standing, State.modStn_modSpeed_standing,
      State.modStn_modWrite_standing, State.modStn_modRecall_standing, State.modStn_modCtx_standing,
      standing_upd, foldl_standing, State.modPort_standing, State.eachPort_standing,
      apply_ite State.standing, ite_self, implies_true]

theorem State.unstable_standing (s : State) (st : Stn) (f : BufUse → Bool) :
    (State.unstable s st f).standing = s.standing := by
  simp only [State.unstable, State.unstablePool_standing, Station.modLink_standing, Station.modServo_standing,
      Station.modSpeed_standing, Station.modWrite_standing, Station.modRecall_standing,
      Station.modCtx_standing, Station.standing_upd, State.modStn_standing_upd, State.eachStn_standing,
      apply_ite Station.standing, State.modStn_modLink_standing, State.modStn_modServo_standing,
      State.modStn_modSpeed_standing, State.modStn_modWrite_standing, State.modStn_modRecall_standing,
      State.modStn_modCtx_standing, standing_upd, foldl_standing, State.modPort_standing,
      State.eachPort_standing, apply_ite State.standing, ite_self, implies_true]

theorem State.restartJobs_standing (s : State) (st : Stn) : (State.restartJobs s st).standing = s.standing := by
  unfold State.restartJobs
  (repeat' split) <;> first
    | with_reducible rfl
    | (simp only [State.addJob_standing, Station.modLink_standing, Station.modServo_standing,
      Station.modSpeed_standing, Station.modWrite_standing, Station.modRecall_standing,
      Station.modCtx_standing, Station.standing_upd, State.modStn_standing_upd, State.eachStn_standing,
      apply_ite Station.standing, State.modStn_modLink_standing, State.modStn_modServo_standing,
      State.modStn_modSpeed_standing, State.modStn_modWrite_standing, State.modStn_modRecall_standing,
      State.modStn_modCtx_standing, standing_upd, foldl_standing, State.modPort_standing,
      State.eachPort_standing, apply_ite State.standing, ite_self, implies_true]; done)
    | (simp only [State.addJob_standing, Station.modLink_standing, Station.modServo_standing,
      Station.modSpeed_standing, Station.modWrite_standing, Station.modRecall_standing,
      Station.modCtx_standing, Station.standing_upd, State.modStn_standing_upd, State.eachStn_standing,
      apply_ite Station.standing, State.modStn_modLink_standing, State.modStn_modServo_standing,
      State.modStn_modSpeed_standing, State.modStn_modWrite_standing, State.modStn_modRecall_standing,
      State.modStn_modCtx_standing, standing_upd, foldl_standing, State.modPort_standing,
      State.eachPort_standing, apply_ite State.standing, ite_self, implies_true]
       (repeat' split) <;> first | with_reducible rfl | simp only [State.addJob_standing, Station.modLink_standing, Station.modServo_standing,
      Station.modSpeed_standing, Station.modWrite_standing, Station.modRecall_standing,
      Station.modCtx_standing, Station.standing_upd, State.modStn_standing_upd, State.eachStn_standing,
      apply_ite Station.standing, State.modStn_modLink_standing, State.modStn_modServo_standing,
      State.modStn_modSpeed_standing, State.modStn_modWrite_standing, State.modStn_modRecall_standing,
      State.modStn_modCtx_standing, standing_upd, foldl_standing, State.modPort_standing,
      State.eachPort_standing, apply_ite State.standing, ite_self, implies_true])

theorem State.volumeNumbered_standing (s : State) (st : Stn) (r : CmdRef) :
    (State.volumeNumbered s st r).standing = s.standing := by
  unfold State.volumeNumbered
  (repeat' split) <;> simp only [State.makeVolume_standing, Station.modLink_standing, Station.modServo_standing,
      Station.modSpeed_standing, Station.modWrite_standing, Station.modRecall_standing,
      Station.modCtx_standing, Station.standing_upd, State.modStn_standing_upd, State.eachStn_standing,
      apply_ite Station.standing, State.modStn_modLink_standing, State.modStn_modServo_standing,
      State.modStn_modSpeed_standing, State.modStn_modWrite_standing, State.modStn_modRecall_standing,
      State.modStn_modCtx_standing, standing_upd, foldl_standing, State.modPort_standing,
      State.eachPort_standing, apply_ite State.standing, ite_self, implies_true]

theorem State.ledgerDone_standing (s : State) (a_1 : LedgerOp) : (State.ledgerDone s a_1).standing = s.standing := by
  unfold State.ledgerDone
  (repeat' split) <;> simp only [State.volumeNumbered_standing, State.finish_standing, State.retired_standing, standing_upd]


end Sys2Proof.Machine
end

