-- ==== Sys2Proof/Laws/Resets.lean ====
section
/-!
SUPPORT. The resets: what a cold source leaves, the start and the end of a quiesce, and how an exit passes its hold point.
-/
set_option linter.all false
namespace Sys2Proof.Machine

/-- A source that is not in a list. -/
theorem not_contains (l : List ResetSource) (x : ResetSource) (h : x ∉ l) : l.contains x = false := by
  rw [Bool.eq_false_iff]; intro hc; exact h (by simpa using hc)

/-- What a cold source leaves, where it was not asserted. -/
theorem assertCold_spec (s : State) (src : ResetSource) (h : src ∉ s.rst.asserted) :
    ColdRestored s (s.assertCold src) ∧ (s.assertCold src).rst.cause = s.rst.cause ||| BitVec.twoPow 14 (causeBit src) ∧
    (s.assertCold src).rst.asserted = s.rst.asserted ++ [src] ∧ (s.assertCold src).ledger = { s.ledger with writing := [] } ∧
    (s.assertCold src).thermal.trip = s.thermal.trip := by
  refine ⟨⟨rfl, rfl, rfl, rfl, rfl, rfl, rfl, rfl, rfl, rfl, rfl, rfl, rfl, rfl, rfl, rfl, rfl, rfl, rfl, rfl⟩, rfl, ?_, rfl, rfl⟩
  show (if s.rst.asserted.contains src then _ else _) = _
  rw [if_neg (by rw [not_contains _ _ h]; decide)]

/-- A black-box entry is all that the ledger gains; an event is raised. -/
theorem blackBox_eq (s : State) (c d : Nat) : EventsOnly { s with ledger := { s.ledger with bbox := (s.boxEntry c d :: s.ledger.bbox).take 64, bboxCnt := s.ledger.bboxCnt + 1 } } (s.blackBox c d) :=
  State.raise_events _ _ _

/-- What a cold source with a black-box entry leaves. -/
theorem boxed_spec (s : State) (src : ResetSource) (c d : Nat) (h : src ∉ s.rst.asserted) :
    ColdRestored s ((s.blackBox c d).assertCold src) ∧ ((s.blackBox c d).assertCold src).rst.cause = s.rst.cause ||| BitVec.twoPow 14 (causeBit src) ∧
    ((s.blackBox c d).assertCold src).rst.asserted = s.rst.asserted ++ [src] ∧
    ((s.blackBox c d).assertCold src).ledger = { s.ledger with bbox := (s.boxEntry c d :: s.ledger.bbox).take 64, bboxCnt := s.ledger.bboxCnt + 1, writing := [] } ∧
    ((s.blackBox c d).assertCold src).thermal.trip = s.thermal.trip := by
  have e := (blackBox_eq s c d).1
  generalize (s.blackBox c d) = u at e
  have h1 : u.rst = s.rst := by rw [e]
  have h2 : u.ledger = { s.ledger with bbox := (s.boxEntry c d :: s.ledger.bbox).take 64, bboxCnt := s.ledger.bboxCnt + 1 } := by rw [e]
  have h3 : u.thermal = s.thermal := by rw [e]
  have h4 : u.pending = s.pending := by rw [e]
  have h5 : u.clock = s.clock := by rw [e]
  obtain ⟨a, b, c, d, f⟩ := assertCold_spec u src (by rw [h1]; exact h)
  refine ⟨?_, by rw [b, h1], by rw [c, h1], by rw [d, h2], by rw [f, h3]⟩
  unfold ColdRestored at a ⊢
  rw [h4, h5] at a
  exact a

/-- A station after reset is open. -/
theorem reset_stn (t : State) (h : t.stns = State.reset.stns) (st : Stn) : (t.stns[st]).wgate = true ∧ (t.stns[st]).men = true ∧ (t.stns[st]).servo.motion = .open_ := by
  rw [h]
  have : (State.reset.stns)[st] = Station.reset := by simp [State.reset]
  rw [this]; exact ⟨rfl, rfl, rfl⟩

/-- A cold source that is not asserted yet. -/
theorem coldSource_first (s : State) (src : ResetSource) (h : src ∉ s.rst.asserted) (b : Option (Nat × Nat)) :
    s.coldSource src b = match b with | some x => (s.blackBox x.1 x.2).assertCold src | none => s.assertCold src := by
  unfold State.coldSource
  rw [if_neg (by rw [not_contains _ _ h]; decide)]
  all_goals (cases b <;> rfl)

/-- What the start of a quiesce does to the control state. -/
theorem warmStart_control (s : State) : s.warmStart.control = { s.control with rst := { s.rst with stage := .quiesce, reach := .warm, saved := BitVec.ofNat 8 (flagBits (allStns.map fun st => !(s.stns[st]).writing)), deferred := [] } } := by
  unfold State.warmStart
  rw [foldl_control _ (fun a x => State.quiesceStn_control a x)]
  rfl

/-- Eight flags as a mask. -/
theorem flagBits8 (f : Stn → Bool) (st : Stn) : (BitVec.ofNat 8 (flagBits (allStns.map f))).getLsbD st.val = f st := by
  have : ∀ a b c d e g h i : Bool, ∀ k : Fin 8, (BitVec.ofNat 8 (flagBits [a,b,c,d,e,g,h,i])).getLsbD k.val = [a,b,c,d,e,g,h,i][k] := by
    decide
  have h := this (f 0) (f 1) (f 2) (f 3) (f 4) (f 5) (f 6) (f 7) st
  rw [show allStns.map f = [f 0, f 1, f 2, f 3, f 4, f 5, f 6, f 7] from rfl, h]
  match st with
  | 0 | 1 | 2 | 3 | 4 | 5 | 6 | 7 => rfl

/-- An aborted command leaves the control state alone. -/
theorem forgetCmd_control (s : State) (r : CmdRef) : (s.forgetCmd r).control = s.control := by
  unfold State.forgetCmd
  simp only [control_upd, State.dropJobs_control, State.dropWaits_control, State.unlock_control]

/-- the control state but for the self-test -/
def mainControl (s : State) : Control := { s.control with test := none }

/-- The control state tells the state but for the self-test. -/
theorem mainControl_of {s t : State} (h : t.control = s.control) : mainControl t = mainControl s := by unfold mainControl; rw [h]

/-- An aborted command ends at most the self-test. -/
theorem abortKind_mainControl (s : State) (r : CmdRef) (k : Cmd) : mainControl (s.abortKind r k) = mainControl s := by
  unfold State.abortKind
  dsimp only
  split
  · exact mainControl_of ((State.settle_control ..).trans ((State.sealGo_control ..).trans (State.abandonRec_control ..)))
  · exact mainControl_of ((State.endReading_control ..).trans rfl)
  · exact mainControl_of ((State.endReading_control ..).trans rfl)
  · exact mainControl_of ((State.endReading_control ..).trans rfl)
  · rfl
  · split
    · exact mainControl_of (State.migHalt_control ..)
    · rfl
  · rfl
  · split
    · exact mainControl_of (State.dropMount_control ..)
    · rfl
  · split <;> rfl
  · rfl
  · rfl

/-- A queue that is aborted ends at most the self-test. -/
theorem abortQueue_mainControl (s : State) (p : Port) (q : Nat) : mainControl (s.abortQueue p q) = mainControl s := by
  unfold State.abortQueue
  split
  · rfl
  · dsimp only
    have f1 : ∀ (l : List Cmd) (a : State), mainControl (l.foldl (fun a k => a.abortEffect ⟨p, q, k.entry.tag⟩ k) a) = mainControl a := by
      intro l
      induction l with
      | nil => intro a; rfl
      | cons x r ih => intro a; exact (ih _).trans ((abortKind_mainControl _ _ _).trans (mainControl_of (forgetCmd_control ..)))
    have f2 : ∀ (l : List Done) (a : State), mainControl (l.foldl (fun a d => a.undone p q d) a) = mainControl a := by
      intro l
      induction l with
      | nil => intro a; rfl
      | cons x r ih => intro a; exact (ih _).trans (mainControl_of (State.undone_control ..))
    refine (f2 _ _).trans ((f1 _ _).trans (mainControl_of ?_))
    exact State.modQp_control ..

/-- The standing of one station. -/
theorem standing_at (s : State) (q : Stn) : (s.standing)[q] = (s.stns[q]).standing := by
  have : (s.stns.map Station.standing)[q.val] = Station.standing (s.stns[q.val]) := by simp
  exact this

/-- The mount of one station. -/
theorem mounts_at (s : State) (q : Stn) : (s.mounts)[q] = (s.stns[q]).mount := by
  have : (s.stns.map Station.mount)[q.val] = Station.mount (s.stns[q.val]) := by simp
  exact this

/-- Everything of the package that a station's end leaves -/
structure Kept (s t : State) : Prop where
  control : t.control = s.control
  mounts : t.mounts = s.mounts
  ledger : t.ledger = s.ledger

theorem Kept.trans {s t u : State} (h : Kept s t) (k : Kept t u) : Kept s u :=
  ⟨k.1.trans h.1, k.2.trans h.2, k.3.trans h.3⟩

/-- What three views tell. -/
theorem Kept.of {s t : State} (h : t.control = s.control) (m : t.mounts = s.mounts) (v : t.service = s.service) : Kept s t :=
  ⟨h, m, congrArg Service.ledger v⟩

/-- A mount that is given up before anything was mounted. -/
theorem dismount_kept (s : State) (st : Stn) (h : (s.stns[st]).mount = none) : Kept s (s.dismount st) := by
  refine ⟨State.dismount_control .., ?_, State.dismount_keeps_ledger ..⟩
  unfold State.dismount
  dsimp only
  rw [State.freeSpent_mounts]
  apply Vector.ext
  intro j hj
  refine (mounts_at _ ⟨j, hj⟩).trans (Eq.trans ?_ (mounts_at s ⟨j, hj⟩).symm)
  rw [State.modStn_stns, vmod_get]
  split
  · rename_i x; subst x; exact h.symm
  · rfl

/-- What the standing of a station tells. -/
theorem stabled_of {s t : Station} (h : t.standing = s.standing) : t.stabled = s.stabled ∧ t.broken = s.broken := ⟨congrArg Standing.stabled h, congrArg Standing.broken h⟩

/-- What the mounts tell of one station. -/
theorem mount_of {s t : State} (h : t.mounts = s.mounts) (q : Stn) : (t.stns[q]).mount = (s.stns[q]).mount := by rw [← mounts_at, ← mounts_at, h]

/-- What the control state tells of the resets. -/
theorem rst_of {s t : State} (h : t.control = s.control) : t.rst = s.rst := congrArg Control.rst h

/-- One station at the end of a quiesce. -/
theorem warmStn_spec (s : State) (st : Stn) : Kept s (s.warmStn st) ∧
    (∀ q, q ≠ st → ((s.warmStn st).stns[q]).standing = (s.stns[q]).standing) ∧
    ((s.warmStn st).stns[st]).stabled = (s.stns[st]).mount.isSome ∧
    ((s.warmStn st).stns[st]).broken = ((s.stns[st]).broken || ((s.stns[st]).mount.isSome && !s.rst.saved.getLsbD st.val)) := by
  unfold State.warmStn
  extract_lets t s1 s2
  have k1 : Kept s s1 ∧ s1.standing = s.standing := by
    by_cases h : t.mountCmd.isSome ∧ t.mount.isNone
    · have e : s1 = s.dismount st := if_pos h
      rw [e]; exact ⟨dismount_kept _ _ (Option.isNone_iff_eq_none.mp h.2), State.dismount_standing ..⟩
    · have e : s1 = s := if_neg h
      rw [e]; exact ⟨⟨rfl, rfl, rfl⟩, rfl⟩
  clear_value s1
  have k2 : Kept s1 s2 ∧ s2.standing = s1.standing := by
    have v : ∀ u : State, Kept u ((u.burnFrom st 0).fallback st) ∧ ((u.burnFrom st 0).fallback st).standing = u.standing := fun u =>
      ⟨(Kept.of (State.burnFrom_control ..) (State.burnFrom_mounts ..) (State.burnFrom_service ..)).trans
        (Kept.of (State.fallback_control ..) (State.fallback_mounts ..) (State.fallback_service ..)),
       (State.fallback_standing ..).trans (State.burnFrom_standing ..)⟩
    by_cases h : (s1.stns[st]).write.toSend.isEmpty
    · have e : s2 = (s1.burnFrom st 0).fallback st := by simp only [s2, if_pos h]
      rw [e]; exact v _
    · have e : s2 = ((s1.voidWriting st).burnFrom st 0).fallback st := by simp only [s2, if_neg h]
      rw [e]
      exact ⟨(Kept.of (State.voidWriting_control ..) (State.voidWriting_mounts ..) (State.voidWriting_service ..)).trans (v _).1, (v _).2.trans (State.voidWriting_standing ..)⟩
  have k3 : Kept s2 (s2.dropWork st) ∧ (s2.dropWork st).standing = s2.standing :=
    ⟨⟨State.dropWork_control .., State.dropWork_mounts .., State.dropWork_keeps_ledger ..⟩, State.dropWork_standing ..⟩
  have kk := (k1.1.trans k2.1).trans k3.1
  have st' := k3.2.trans (k2.2.trans k1.2)
  generalize hu : s2.dropWork st = u at kk st'
  have hm : ∀ q : Stn, (u.stns[q]).mount = (s.stns[q]).mount := fun q => by rw [← mounts_at, ← mounts_at, kk.2]
  have hs : ∀ q : Stn, (u.stns[q]).standing = (s.stns[q]).standing := fun q => by rw [← standing_at, ← standing_at, st']
  refine ⟨kk.trans ⟨rfl, State.modStn_mounts _ _ _ (fun _ => rfl), rfl⟩, ?_, ?_, ?_⟩
  · intro q hq
    rw [State.modStn_stns, vmod_get_ne _ _ _ _ (Ne.symm hq)]; exact hs q
  · rw [State.modStn_stns, vmod_get_self]; show (u.stns[st]).mount.isSome = _; rw [hm]
  · rw [State.modStn_stns, vmod_get_self]; show ((u.stns[st]).broken || ((u.stns[st]).mount.isSome && _)) = _
    rw [hm, show (u.stns[st]).broken = (s.stns[st]).broken from congrArg Standing.broken (hs st)]

/-- Stations at the end of a quiesce. -/
theorem warmStns_spec (l : List Stn) (hl : l.Nodup) (s : State) :
    Kept s (l.foldl (fun a st => a.warmStn st) s) ∧
    ∀ q, if q ∈ l then
      ((l.foldl (fun a st => a.warmStn st) s).stns[q]).stabled = (s.stns[q]).mount.isSome ∧
      ((l.foldl (fun a st => a.warmStn st) s).stns[q]).broken = ((s.stns[q]).broken || ((s.stns[q]).mount.isSome && !s.rst.saved.getLsbD q.val))
      else ((l.foldl (fun a st => a.warmStn st) s).stns[q]).standing = (s.stns[q]).standing := by
  induction l generalizing s with
  | nil => exact ⟨⟨rfl, rfl, rfl⟩, fun q => by simp⟩
  | cons x r ih =>
    obtain ⟨hx, hr⟩ := List.nodup_cons.mp hl
    obtain ⟨w1, w2, w3, w4⟩ := warmStn_spec s x
    obtain ⟨i1, i2⟩ := ih hr (s.warmStn x)
    rw [List.foldl_cons]
    generalize s.warmStn x = y at w1 w2 w3 w4 i1 i2 ⊢
    generalize List.foldl (fun (a : State) st => a.warmStn st) y r = z at i1 i2 ⊢
    refine ⟨w1.trans i1, fun q => ?_⟩
    have h := i2 q
    have hm : (y.stns[q]).mount = (s.stns[q]).mount := by rw [← mounts_at, ← mounts_at, w1.2]
    have hv : y.rst = s.rst := rst_of w1.1
    by_cases e : q = x
    · subst e
      rw [if_neg hx] at h
      rw [if_pos (List.mem_cons_self ..)]
      exact ⟨(stabled_of h).1.trans w3, (stabled_of h).2.trans w4⟩
    · have hq := w2 q e
      by_cases m : q ∈ r
      · rw [if_pos m] at h
        rw [if_pos (List.mem_cons_of_mem _ m)]
        refine ⟨h.1.trans (by rw [hm]), h.2.trans ?_⟩
        rw [hm, hv, show (y.stns[q]).broken = (s.stns[q]).broken from congrArg Standing.broken hq]
      · rw [if_neg m] at h
        rw [if_neg (by intro y; cases y with | head => exact e rfl | tail _ z => exact m z)]
        exact h.trans hq

/-- A fold over stations changes stations alone. -/
theorem foldl_stns (f : Stn → Station → Station) (l : List Stn) (s : State) : ∃ v, l.foldl (fun a t => a.modStn t (f t)) s = { s with stns := v } := by
  induction l generalizing s with
  | nil => exact ⟨s.stns, rfl⟩
  | cons x r ih => exact (ih _).imp fun v h => by rw [List.foldl_cons, h]; rfl

/-- The exit at its hold point before E4. -/
theorem tryE4_spec (c : State) : ∃ g v, c.tryE4 = { c with rst := { c.rst with stage := g }, stns := v } ∧ (g = .e4 ∨ g = .holdE4) ∧
    (g = .holdE4 ↔ c.rst.holds (· == .warm) = true) ∧ ∀ q : Stn, (v[q]).standing = (c.stns[q]).standing ∧ (v[q]).mount = (c.stns[q]).mount := by
  unfold State.tryE4
  split
  · rename_i h; exact ⟨.holdE4, c.stns, rfl, .inr rfl, by simp [h], fun _ => ⟨rfl, rfl⟩⟩
  · rename_i h
    have hs : c.enterE4.standing = c.standing := State.enterE4_standing ..
    have key : ∃ v, c.enterE4 = { c with rst := { c.rst with stage := .e4 }, stns := v } ∧ ∀ q : Stn, (v[q]).mount = (c.stns[q]).mount := by
      unfold State.enterE4
      dsimp only
      split
      · exact ⟨c.stns, rfl, fun _ => rfl⟩
      · obtain ⟨v, hv⟩ := foldl_stns (fun st t => if State.usable { c with rst := { c.rst with stage := .e4 } } st then t.modLink fun k => { k with lanes := k.lanes.mapFinIdx fun i l _ => if l.up then l else if i = 0 ∧ c.rst.reach = .warm then l else { l with training := true } } else t) allStns { c with rst := { c.rst with stage := .e4 } }
        refine ⟨v, hv, ?_⟩
        have hm : State.mounts ({ c with rst := { c.rst with stage := .e4 }, stns := v } : State) = State.mounts c := by
          rw [← hv]
          refine (foldl_mounts _ ?_ _ _).trans rfl
          intro a x
          refine State.modStn_mounts _ _ _ ?_
          intro y
          dsimp only
          split <;> rfl
        intro q
        have := congrArg (fun w => w[q]) hm
        exact (mounts_at _ q).symm.trans (this.trans (mounts_at _ q))
    obtain ⟨v, hv, hm⟩ := key
    refine ⟨.e4, v, hv, .inl rfl, by simp [h], fun q => ⟨?_, hm q⟩⟩
    rw [hv] at hs
    have := congrArg (fun w => w[q]) hs
    exact (standing_at _ q).symm.trans (this.trans (standing_at _ q))

/-- The set-up registers of one port. -/
theorem regs_at {s t : State} (h : t.control = s.control) (q : Port) : (t.ports[q]).regs = (s.ports[q]).regs := by
  have h6 : t.ports.map HostPort.regs = s.ports.map HostPort.regs := congrArg Control.regs h
  have := congrArg (fun v => v[q]) h6
  simpa using this

end Sys2Proof.Machine
end

