-- ==== Sys2Proof/Laws/Stations.lean ====
section
/-!
SUPPORT. The operations that leave the stations of the package alone: one lemma for each, in the order in which they are built on
one another.
-/
set_option linter.all false

namespace Sys2Proof.Machine

/-- An update of any field that is no part of the stations. -/
theorem keeps_stns_upd (s : State) (pending : List Instr) (clock : Nat) (fresh : Nat) (out : List Out) (rst : ResetCtl) (ledger : Ledger) (boot : Boot) (vault : Vault) (supply : Supply) (thermal : Thermal) (pinsSet : Bool) (mem : List Host.Cell) (hbm : Vector Stack 4) (dies : Vector Die 2) (stores : Vector Store 10) (stnMap : BitVec 8) (locks : List Lock) (mntCnt : BitVec 32) (ucieDown : Bool) (migs : List MigJob) (test : Option TestRun) (power : Power) (blkRst : List BlkReset) (tap : Tap) :
    State.stns ⟨pending, clock, fresh, out, rst, ledger, boot, vault, supply, thermal, pinsSet, mem, hbm, dies, stores, s.ports, s.stns, stnMap, locks, mntCnt, ucieDown, migs, test, power, blkRst, tap⟩ = s.stns := rfl

/-- A fold of operations that leave the stations alone. -/
theorem foldl_keeps_stns {β : Type} (f : State → β → State) (h : ∀ a x, (f a x).stns = a.stns) (l : List β) (s : State) :
    (l.foldl f s).stns = s.stns := by
  induction l generalizing s with
  | nil => rfl
  | cons x r ih => exact (ih _).trans (h _ _)

/-- The same of a fold that gathers something beside the state. -/
theorem foldl_fst_keeps_stns {α β : Type} (f : State × α → β → State × α) (h : ∀ a x, (f a x).1.stns = a.1.stns) (l : List β)
    (a : State × α) : (l.foldl f a).1.stns = a.1.stns := by
  induction l generalizing a with
  | nil => rfl
  | cons x r ih => exact (ih _).trans (h _ _)

/-- A choice between two operations that leave the stations alone. -/
theorem ite_keeps_stns {c : Prop} [Decidable c] {a b s : State} (ha : a.stns = s.stns) (hb : b.stns = s.stns) :
    (if c then a else b).stns = s.stns := by
  split
  · exact ha
  · exact hb

theorem State.modPort_keeps_stns (s : State) (p : Port) (f : HostPort → HostPort) : (s.modPort p f).stns = s.stns := rfl
theorem State.eachPort_keeps_stns (s : State) (f : Port → HostPort → HostPort) : (s.eachPort f).stns = s.stns := rfl
theorem State.modDie_keeps_stns (s : State) (d : DieId) (f : Die → Die) : (s.modDie d f).stns = s.stns := rfl
theorem State.modStack_keeps_stns (s : State) (k : Fin 4) (f : Stack → Stack) : (s.modStack k f).stns = s.stns := rfl
theorem State.modStore_keeps_stns (s : State) (k : Fin 10) (f : Store → Store) : (s.modStore k f).stns = s.stns := rfl
theorem State.emit_keeps_stns (s : State) (o : Out) : (s.emit o).stns = s.stns := rfl
theorem State.draw_keeps_stns (s : State) : s.draw.2.stns = s.stns := rfl
theorem State.drawBytes_keeps_stns (s : State) (n : Nat) : (s.drawBytes n).2.stns = s.stns := rfl
theorem State.eachDie_keeps_stns (s : State) (f : DieId → Die → Die) : (s.eachDie f).stns = s.stns := rfl

theorem State.putTrace_keeps_stns (s : State) (d : DieId) (q : Fin 4) (words : List (BitVec 64)) :
    (State.putTrace s d q words).1.stns = s.stns := by
  unfold State.putTrace
  (repeat' split) <;> first
    | with_reducible rfl
    | (simp only [State.modDie_keeps_stns, keeps_stns_upd, foldl_keeps_stns, State.modPort_keeps_stns,
      State.eachPort_keeps_stns, apply_ite State.stns, ite_self, implies_true]; done)
    | (simp only [State.modDie_keeps_stns, keeps_stns_upd, foldl_keeps_stns, State.modPort_keeps_stns,
      State.eachPort_keeps_stns, apply_ite State.stns, ite_self, implies_true]
       (repeat' split) <;> first | with_reducible rfl | simp only [State.modDie_keeps_stns, keeps_stns_upd, foldl_keeps_stns, State.modPort_keeps_stns,
      State.eachPort_keeps_stns, apply_ite State.stns, ite_self, implies_true])

theorem State.msix_keeps_stns (s : State) (p : Port) (v : Nat) : (State.msix s p v).stns = s.stns := by
  simp only [State.msix, State.modPort_keeps_stns, State.emit_keeps_stns, keeps_stns_upd, foldl_keeps_stns,
      State.modPort_keeps_stns, State.eachPort_keeps_stns, apply_ite State.stns, ite_self, implies_true]

theorem State.sendEvent_keeps_stns (s : State) (p : Port) (n : Nat) : (State.sendEvent s p n).stns = s.stns := by
  unfold State.sendEvent
  (repeat' split) <;> first
    | with_reducible rfl
    | (simp only [State.msix_keeps_stns, keeps_stns_upd, foldl_keeps_stns, State.modPort_keeps_stns,
      State.eachPort_keeps_stns, apply_ite State.stns, ite_self, implies_true]; done)
    | (simp only [State.msix_keeps_stns, keeps_stns_upd, foldl_keeps_stns, State.modPort_keeps_stns,
      State.eachPort_keeps_stns, apply_ite State.stns, ite_self, implies_true]
       (repeat' split) <;> first | with_reducible rfl | simp only [State.msix_keeps_stns, keeps_stns_upd, foldl_keeps_stns, State.modPort_keeps_stns,
      State.eachPort_keeps_stns, apply_ite State.stns, ite_self, implies_true])

theorem State.raisePort_keeps_stns (s : State) (p : Port) (n : Nat) : (State.raisePort s p n).stns = s.stns := by
  simp only [State.raisePort, State.modPort_keeps_stns, State.sendEvent_keeps_stns, keeps_stns_upd,
      foldl_keeps_stns, State.modPort_keeps_stns, State.eachPort_keeps_stns, apply_ite State.stns,
      ite_self, implies_true]

theorem State.raise1_keeps_stns (s : State) (n detail : Nat) : (State.raise1 s n detail).1.stns = s.stns := by
  simp only [State.raise1, State.putTrace_keeps_stns, State.raisePort_keeps_stns, keeps_stns_upd,
      foldl_keeps_stns, State.modPort_keeps_stns, State.eachPort_keeps_stns, apply_ite State.stns,
      ite_self, implies_true]

theorem State.raise_keeps_stns (s : State) (n : Nat) (detail : Nat) : (State.raise s n detail).stns = s.stns := by
  simp only [State.raise, State.raise1_keeps_stns, keeps_stns_upd, foldl_keeps_stns, State.modPort_keeps_stns,
      State.eachPort_keeps_stns, apply_ite State.stns, ite_self, implies_true]

theorem State.trace_keeps_stns (s : State) (d : DieId) (q : Fin 4) (words : List (BitVec 64)) :
    (State.trace s d q words).stns = s.stns := by
  simp only [State.trace, State.putTrace_keeps_stns, State.raise_keeps_stns, keeps_stns_upd, foldl_keeps_stns,
      State.modPort_keeps_stns, State.eachPort_keeps_stns, apply_ite State.stns, ite_self, implies_true]

theorem State.raiseAll_keeps_stns (s : State) (l : List Nat) : (State.raiseAll s l).stns = s.stns := by
  simp only [State.raiseAll, State.raise_keeps_stns, keeps_stns_upd, foldl_keeps_stns, State.modPort_keeps_stns,
      State.eachPort_keeps_stns, apply_ite State.stns, ite_self, implies_true]

theorem State.dropWord_keeps_stns (s : State) (d : DieId) (q : Fin 4) : (State.dropWord s d q).stns = s.stns := by
  simp only [State.dropWord, State.modDie_keeps_stns, State.raise_keeps_stns, keeps_stns_upd, foldl_keeps_stns,
      State.modPort_keeps_stns, State.eachPort_keeps_stns, apply_ite State.stns, ite_self, implies_true]

theorem State.popTrace_keeps_stns (s : State) (p : Port) (d : DieId) (q : Fin 4) (flips : BitVec 73) :
    (State.popTrace s p d q flips).2.stns = s.stns := by
  unfold State.popTrace
  (repeat' split) <;> first
    | with_reducible rfl
    | (simp only [State.modPort_keeps_stns, State.modDie_keeps_stns, State.draw_keeps_stns, State.trace_keeps_stns,
      State.dropWord_keeps_stns, keeps_stns_upd, foldl_keeps_stns, State.modPort_keeps_stns,
      State.eachPort_keeps_stns, apply_ite State.stns, ite_self, implies_true]; done)
    | (simp only [State.modPort_keeps_stns, State.modDie_keeps_stns, State.draw_keeps_stns, State.trace_keeps_stns,
      State.dropWord_keeps_stns, keeps_stns_upd, foldl_keeps_stns, State.modPort_keeps_stns,
      State.eachPort_keeps_stns, apply_ite State.stns, ite_self, implies_true]
       (repeat' split) <;> first | with_reducible rfl | simp only [State.modPort_keeps_stns, State.modDie_keeps_stns, State.draw_keeps_stns, State.trace_keeps_stns,
      State.dropWord_keeps_stns, keeps_stns_upd, foldl_keeps_stns, State.modPort_keeps_stns,
      State.eachPort_keeps_stns, apply_ite State.stns, ite_self, implies_true])

theorem State.monTake_keeps_stns (s : State) (d : DieId) (k : Fin 64) (v : BitVec 32) :
    (State.monTake s d k v).stns = s.stns := by
  simp only [State.monTake, State.modDie_keeps_stns, State.raise_keeps_stns, keeps_stns_upd, foldl_keeps_stns,
      State.modPort_keeps_stns, State.eachPort_keeps_stns, apply_ite State.stns, ite_self, implies_true]

theorem State.setPage_keeps_stns (s : State) (a : PageAddr) (g : PageImg) : (State.setPage s a g).stns = s.stns := by
  unfold State.setPage
  rfl

theorem State.elogPut_keeps_stns (s : State) (d : DieId) (e : ELogEntry) : (State.elogPut s d e).stns = s.stns := by
  unfold State.elogPut
  rfl

theorem State.elogPage_keeps_stns (s : State) (a : PageAddr) (kind bits detail : Nat) (handle : BitVec 32) (actor : Nat) :
    (State.elogPage s a kind bits detail handle actor).stns = s.stns := by
  unfold State.elogPage
  rfl

theorem State.feedCorrected_keeps_stns (s : State) (k : Fin 4) (ch : Fin 32) (bits : Nat) :
    (State.feedCorrected s k ch bits).stns = s.stns := by
  unfold State.feedCorrected
  exact foldl_keeps_stns _ (fun a i => by
    dsimp only
    split
    · exact State.monTake_keeps_stns ..
    · rfl) _ _

theorem State.schedule_keeps_stns (s : State) (w : PendingWb) : (State.schedule s w).stns = s.stns := State.modStack_keeps_stns ..

theorem State.countCorrected_keeps_stns (s : State) (a : PageAddr) (bits : Nat) : (State.countCorrected s a bits).stns = s.stns := by
  simp only [State.countCorrected, State.feedCorrected_keeps_stns, State.modStack_keeps_stns, State.raise_keeps_stns, keeps_stns_upd,
      foldl_keeps_stns, State.modPort_keeps_stns, State.eachPort_keeps_stns, apply_ite State.stns,
      ite_self, implies_true]

theorem State.hardFault_keeps_stns (s : State) (a : PageAddr) (g : PageImg) (bits detail : Nat) (handle : BitVec 32) (actor : Nat) :
    (State.hardFault s a g bits detail handle actor).stns = s.stns := by
  unfold State.hardFault
  (repeat' split) <;> first
    | with_reducible rfl
    | (simp only [State.modStack_keeps_stns, State.raise_keeps_stns, State.setPage_keeps_stns,
      State.elogPage_keeps_stns, keeps_stns_upd, foldl_keeps_stns, State.modPort_keeps_stns,
      State.eachPort_keeps_stns, apply_ite State.stns, ite_self, implies_true]; done)
    | (simp only [State.modStack_keeps_stns, State.raise_keeps_stns, State.setPage_keeps_stns,
      State.elogPage_keeps_stns, keeps_stns_upd, foldl_keeps_stns, State.modPort_keeps_stns,
      State.eachPort_keeps_stns, apply_ite State.stns, ite_self, implies_true]
       (repeat' split) <;> first | with_reducible rfl | simp only [State.modStack_keeps_stns, State.raise_keeps_stns, State.setPage_keeps_stns,
      State.elogPage_keeps_stns, keeps_stns_upd, foldl_keeps_stns, State.modPort_keeps_stns,
      State.eachPort_keeps_stns, apply_ite State.stns, ite_self, implies_true])

theorem State.readPage_keeps_stns (s : State) (a : PageAddr) (l : PageLine) (detail : Nat) (handle : BitVec 32) (actor : Nat) :
    (State.readPage s a l detail handle actor).2.stns = s.stns := by
  simp only [State.readPage, apply_ite Prod.snd, State.modStack_keeps_stns, State.raise_keeps_stns, State.elogPage_keeps_stns,
      State.countCorrected_keeps_stns, State.hardFault_keeps_stns, State.schedule_keeps_stns, 
      keeps_stns_upd, foldl_keeps_stns, State.modPort_keeps_stns, State.eachPort_keeps_stns,
      apply_ite State.stns, ite_self, implies_true]

theorem State.writePage_keeps_stns (s : State) (a : PageAddr) (g : PageImg) : (State.writePage s a g).stns = s.stns := by
  unfold State.writePage
  rfl

theorem State.writeBackPage_keeps_stns (s : State) (w : PendingWb) (verify : PageLine) :
    (State.writeBackPage s w verify).stns = s.stns := by
  simp only [State.writeBackPage, State.elogPage_keeps_stns, State.countCorrected_keeps_stns,
      State.hardFault_keeps_stns, State.readPage_keeps_stns, State.writePage_keeps_stns, keeps_stns_upd,
      foldl_keeps_stns, State.modPort_keeps_stns, State.eachPort_keeps_stns, apply_ite State.stns,
      ite_self, implies_true]

theorem State.modQp_keeps_stns (s : State) (p : Port) (q : Nat) (f : Qp → Qp) : (State.modQp s p q f).stns = s.stns := by
  unfold State.modQp
  rfl

theorem State.modCmd_keeps_stns (s : State) (r : CmdRef) (f : Cmd → Cmd) : (State.modCmd s r f).stns = s.stns := by
  unfold State.modCmd
  rfl

theorem State.logErr_keeps_stns (s : State) (p : Port) (e : CmdErr) : (State.logErr s p e).stns = s.stns := by
  simp only [State.logErr, State.modPort_keeps_stns, State.raise_keeps_stns, keeps_stns_upd, foldl_keeps_stns,
      State.modPort_keeps_stns, State.eachPort_keeps_stns, apply_ite State.stns, ite_self, implies_true]

theorem State.putDone_keeps_stns (s : State) (p : Port) (q : Nat) (e : Entry) (at_ : Nat) (f : Ending) (log own : Bool) :
    (State.putDone s p q e at_ f log own).stns = s.stns := by
  unfold State.putDone
  rfl

theorem State.finishNew_keeps_stns (s : State) (c : HostCmd) (f : Ending) : (State.finishNew s c f).stns = s.stns := by
  simp only [State.finishNew, State.logErr_keeps_stns, State.putDone_keeps_stns, keeps_stns_upd,
      foldl_keeps_stns, State.modPort_keeps_stns, State.eachPort_keeps_stns, apply_ite State.stns,
      ite_self, implies_true]

theorem State.finish_keeps_stns (s : State) (r : CmdRef) (f : Ending) : (State.finish s r f).stns = s.stns := by
  unfold State.finish
  (repeat' split) <;> simp only [State.modQp_keeps_stns, State.logErr_keeps_stns, State.putDone_keeps_stns, keeps_stns_upd,
      foldl_keeps_stns, State.modPort_keeps_stns, State.eachPort_keeps_stns, apply_ite State.stns,
      ite_self, implies_true]

theorem State.finishAll_keeps_stns (s : State) (l : List CmdRef) (f : Ending) : (State.finishAll s l f).stns = s.stns := by
  simp only [State.finishAll, State.finish_keeps_stns, keeps_stns_upd, foldl_keeps_stns,
      State.modPort_keeps_stns, State.eachPort_keeps_stns, apply_ite State.stns, ite_self, implies_true]

theorem State.sendData_keeps_stns (s : State) (p : Port) (e : Entry) (sgl : List SglEntry) (ofs : Nat) (data : List Byte) (ep : Bool) :
    (State.sendData s p e sgl ofs data ep).stns = s.stns :=
  foldl_keeps_stns (fun a o => a.emit o) (fun _ _ => rfl) _ _

theorem State.sendResult_keeps_stns (s : State) (p : Port) (e : Entry) (data : List Byte) (ep : Bool) :
    (State.sendResult s p e data ep).stns = s.stns := by
  simp only [State.sendResult, State.emit_keeps_stns, keeps_stns_upd, foldl_keeps_stns,
      State.modPort_keeps_stns, State.eachPort_keeps_stns, apply_ite State.stns, ite_self, implies_true]

theorem State.finishWith_keeps_stns (s : State) (r : CmdRef) (f : Ending) (buf : List Byte) :
    (State.finishWith s r f buf).stns = s.stns := by
  unfold State.finishWith
  (repeat' split) <;> simp only [State.finish_keeps_stns, State.sendResult_keeps_stns, keeps_stns_upd, foldl_keeps_stns,
      State.modPort_keeps_stns, State.eachPort_keeps_stns, apply_ite State.stns, ite_self, implies_true]

theorem State.unlock_keeps_stns (s : State) (r : CmdRef) : (State.unlock s r).stns = s.stns := by
  unfold State.unlock
  rfl

theorem State.hold_keeps_stns (s : State) (c : HostCmd) (why : Hold) : (State.hold s c why).stns = s.stns := by
  unfold State.hold
  rfl

theorem State.take_keeps_stns (s : State) (c : HostCmd) : (State.take s c).stns = s.stns := by
  simp only [State.take, State.modPort_keeps_stns, State.trace_keeps_stns, State.modQp_keeps_stns,
      keeps_stns_upd, foldl_keeps_stns, State.modPort_keeps_stns, State.eachPort_keeps_stns,
      apply_ite State.stns, ite_self, implies_true]

theorem State.addCmd_keeps_stns (s : State) (c : HostCmd) (k : Cmd) : (State.addCmd s c k).stns = s.stns := by
  unfold State.addCmd
  rfl

theorem State.host_keeps_stns (s : State) (opc : Nat) (c : HostCmd) (own : State → Option Ending) (blocked : State → Option Hold)
    (run : State → State) (h : ∀ a, (run a).stns = a.stns) : (State.host s opc c own blocked run).stns = s.stns := by
  unfold State.host
  (repeat' split) <;> first
    | rfl
    | (rw [State.hold_keeps_stns])
    | (rw [State.finishNew_keeps_stns, State.take_keeps_stns])
    | (rw [h, State.take_keeps_stns])

theorem State.buildPools_keeps_stns (s : State) (d : DieId) : (State.buildPools s d).stns = s.stns := by
  simp only [State.buildPools, State.modDie_keeps_stns, State.raise_keeps_stns, keeps_stns_upd,
      foldl_keeps_stns, State.modPort_keeps_stns, State.eachPort_keeps_stns, apply_ite State.stns,
      ite_self, implies_true]

theorem State.misuse_keeps_stns (s : State) (d : DieId) (owner : Nat) (handle : BitVec 32) (reason : Nat) :
    (State.misuse s d owner handle reason).stns = s.stns := by
  simp only [State.misuse, State.modDie_keeps_stns, State.raise_keeps_stns, State.elogPut_keeps_stns,
      keeps_stns_upd, foldl_keeps_stns, State.modPort_keeps_stns, State.eachPort_keeps_stns,
      apply_ite State.stns, ite_self, implies_true]

theorem State.takeBuf_keeps_stns (s : State) (d : DieId) (p : Fin 5) (k : Nat) :
    (State.takeBuf s d p k).2.stns = s.stns := by
  unfold State.takeBuf
  rfl

theorem State.dropRemap_keeps_stns (s : State) (d : DieId) (h : BitVec 32) (dpns : List Nat) :
    (State.dropRemap s d h dpns).stns = s.stns := by
  simp only [State.dropRemap, State.modStack_keeps_stns, State.elogPage_keeps_stns, keeps_stns_upd,
      foldl_keeps_stns, State.modPort_keeps_stns, State.eachPort_keeps_stns, apply_ite State.stns,
      ite_self, implies_true]

theorem State.putBack_keeps_stns (s : State) (d : DieId) (p : Fin 5) (i : Nat) : (State.putBack s d p i).stns = s.stns := by
  simp only [State.putBack, State.modDie_keeps_stns, State.dropRemap_keeps_stns, keeps_stns_upd,
      foldl_keeps_stns, State.modPort_keeps_stns, State.eachPort_keeps_stns, apply_ite State.stns,
      ite_self, implies_true]

theorem State.addJob_keeps_stns (s : State) (d : DieId) (r : Fin 4) (j : Job) : (State.addJob s d r j).stns = s.stns := by
  unfold State.addJob
  rfl

theorem State.backToWait_keeps_stns (s : State) (d : DieId) (r : Fin 4) (k : JobKind) :
    (State.backToWait s d r k).stns = s.stns := by
  simp only [State.backToWait, State.modDie_keeps_stns, keeps_stns_upd, foldl_keeps_stns,
      State.modPort_keeps_stns, State.eachPort_keeps_stns, apply_ite State.stns, ite_self, implies_true]

theorem State.dropWaits_keeps_stns (s : State) (f : Waiter → Bool) : (State.dropWaits s f).stns = s.stns := by
  unfold State.dropWaits
  rfl

theorem State.logStale_keeps_stns (s : State) (a : PageAddr) (h : BitVec 32) (actor : Nat) :
    (State.logStale s a h actor).stns = s.stns := by
  simp only [State.logStale, State.modDie_keeps_stns, State.raise_keeps_stns, State.elogPage_keeps_stns,
      State.misuse_keeps_stns, keeps_stns_upd, foldl_keeps_stns, State.modPort_keeps_stns,
      State.eachPort_keeps_stns, apply_ite State.stns, ite_self, implies_true]

theorem State.dropJobs_keeps_stns (s : State) (f : JobKind → Bool) : (State.dropJobs s f).stns = s.stns := by
  unfold State.dropJobs
  rfl

theorem State.sendAdmin_keeps_stns (s : State) (r : CmdRef) (ep : Bool) : (State.sendAdmin s r ep).stns = s.stns := by
  unfold State.sendAdmin
  (repeat' split) <;> simp only [State.finish_keeps_stns, State.sendData_keeps_stns, keeps_stns_upd, foldl_keeps_stns,
      State.modPort_keeps_stns, State.eachPort_keeps_stns, apply_ite State.stns, ite_self, implies_true]

theorem State.startAdmin_keeps_stns (r : CmdRef) (s : State) : (State.startAdmin r s).stns = s.stns := by
  unfold State.startAdmin
  (repeat' split) <;> simp only [State.modCmd_keeps_stns, State.sendAdmin_keeps_stns, keeps_stns_upd, foldl_keeps_stns,
      State.modPort_keeps_stns, State.eachPort_keeps_stns, apply_ite State.stns, ite_self, implies_true]

theorem State.grantsGo_keeps_stns (s : State) : (State.grantsGo s).stns = s.stns := by
  simp only [State.grantsGo, State.sendAdmin_keeps_stns, keeps_stns_upd, foldl_keeps_stns,
      State.modPort_keeps_stns, State.eachPort_keeps_stns, apply_ite State.stns, ite_self, implies_true]

theorem State.stopMigs_keeps_stns (s : State) (st : Stn) : (State.stopMigs s st).stns = s.stns := by
  unfold State.stopMigs
  rfl

theorem State.finishLosses_keeps_stns (s : State) (r : CmdRef) (lost : List Nat) (result : Nat) :
    (State.finishLosses s r lost result).stns = s.stns := by
  unfold State.finishLosses
  (repeat' split) <;> simp only [State.logErr_keeps_stns, State.finish_keeps_stns, keeps_stns_upd, foldl_keeps_stns,
      State.modPort_keeps_stns, State.eachPort_keeps_stns, apply_ite State.stns, ite_self, implies_true]

theorem State.endMig_keeps_stns (s : State) (j : MigJob) (nrec : Nat) : (State.endMig s j nrec).stns = s.stns := by
  unfold State.endMig
  (repeat' split) <;> simp only [State.finishWith_keeps_stns, keeps_stns_upd, foldl_keeps_stns, State.modPort_keeps_stns,
      State.eachPort_keeps_stns, apply_ite State.stns, ite_self, implies_true]

theorem State.verifyOver_keeps_stns (s : State) (r : CmdRef) : (State.verifyOver s r).stns = s.stns := by
  unfold State.verifyOver
  (repeat' split) <;> simp only [State.finishWith_keeps_stns, keeps_stns_upd, foldl_keeps_stns, State.modPort_keeps_stns,
      State.eachPort_keeps_stns, apply_ite State.stns, ite_self, implies_true]

theorem State.verifyRec_keeps_stns (s : State) (r : CmdRef) (lon : Nat) (f : Ending) (hash : List Byte) :
    (State.verifyRec s r lon f hash).stns = s.stns := by
  unfold State.verifyRec
  (repeat' split) <;> simp only [State.modCmd_keeps_stns, State.logErr_keeps_stns, State.sendData_keeps_stns, State.take_keeps_stns,
      State.verifyOver_keeps_stns, keeps_stns_upd, foldl_keeps_stns, State.modPort_keeps_stns,
      State.eachPort_keeps_stns, apply_ite State.stns, ite_self, implies_true]

theorem State.verifyNext_keeps_stns (s : State) (r : CmdRef) (n : Nat) : (State.verifyNext s r n).stns = s.stns := by
  induction n generalizing s with
  | zero => rfl
  | succ n ih =>
    unfold State.verifyNext
    simp only []
    (repeat' split) <;> first | rfl | (rw [ih, State.verifyRec_keeps_stns])

theorem State.servoTrace_keeps_stns (s : State) (st : Stn) (ty : Nat) (w1 w2 : BitVec 64) :
    (State.servoTrace s st ty w1 w2).stns = s.stns := by
  simp only [State.servoTrace, State.modDie_keeps_stns, State.trace_keeps_stns, keeps_stns_upd,
      foldl_keeps_stns, State.modPort_keeps_stns, State.eachPort_keeps_stns, apply_ite State.stns,
      ite_self, implies_true]

theorem State.locatesDone_keeps_stns (s : State) (st : Stn) : (State.locatesDone s st).stns = s.stns := by
  simp only [State.locatesDone, State.finish_keeps_stns, keeps_stns_upd, foldl_keeps_stns,
      State.modPort_keeps_stns, State.eachPort_keeps_stns, apply_ite State.stns, ite_self, implies_true]

theorem State.dropKey_keeps_stns (s : State) (p : Port) (q : Nat) (f : RecKey → Bool) :
    (State.dropKey s p q f).stns = s.stns := by
  unfold State.dropKey
  rfl

theorem State.startAppend_keeps_stns (r : CmdRef) (s : State) : (State.startAppend r s).stns = s.stns := by
  unfold State.startAppend
  (repeat' split) <;> simp only [State.modCmd_keeps_stns, State.addJob_keeps_stns, keeps_stns_upd, foldl_keeps_stns,
      State.modPort_keeps_stns, State.eachPort_keeps_stns, apply_ite State.stns, ite_self, implies_true]

theorem State.fenceGo_keeps_stns (s : State) (p : Port) (q : Nat) : (State.fenceGo s p q).stns = s.stns := by
  unfold State.fenceGo
  (repeat' split) <;> simp only [State.finish_keeps_stns, keeps_stns_upd, foldl_keeps_stns, State.modPort_keeps_stns,
      State.eachPort_keeps_stns, apply_ite State.stns, ite_self, implies_true]

theorem State.powerEnd_keeps_stns (s : State) : (State.powerEnd s).stns = s.stns := by
  unfold State.powerEnd
  (repeat' split) <;> simp only [State.finish_keeps_stns, keeps_stns_upd, foldl_keeps_stns, State.modPort_keeps_stns,
      State.eachPort_keeps_stns, apply_ite State.stns, ite_self, implies_true]

theorem State.logLost_keeps_stns (s : State) (r : Rec) : (State.logLost s r).stns = s.stns := by
  simp only [State.logLost, State.logErr_keeps_stns, keeps_stns_upd, foldl_keeps_stns, State.modPort_keeps_stns,
      State.eachPort_keeps_stns, apply_ite State.stns, ite_self, implies_true]

theorem State.scrubPage_keeps_stns (s : State) (a : PageAddr) (l : PageLine) (detail : Nat) :
    (State.scrubPage s a l detail).stns = s.stns := by
  simp only [State.scrubPage, State.raise_keeps_stns, State.elogPage_keeps_stns,
      State.countCorrected_keeps_stns, State.hardFault_keeps_stns, State.schedule_keeps_stns, 
      State.writePage_keeps_stns, State.writeBackPage_keeps_stns, keeps_stns_upd, foldl_keeps_stns,
      State.modPort_keeps_stns, State.eachPort_keeps_stns, apply_ite State.stns, ite_self, implies_true]

theorem State.poolWait_keeps_stns (s : State) (d : DieId) (p : Fin 5) (w : Waiter) :
    (State.poolWait s d p w).stns = s.stns := by
  unfold State.poolWait
  (repeat' split) <;> simp only [State.modDie_keeps_stns, State.modCmd_keeps_stns, State.backToWait_keeps_stns, keeps_stns_upd,
      foldl_keeps_stns, State.modPort_keeps_stns, State.eachPort_keeps_stns, apply_ite State.stns,
      ite_self, implies_true]

theorem State.startScrub_keeps_stns (r : CmdRef) (s : State) : (State.startScrub r s).stns = s.stns := by
  unfold State.startScrub
  (repeat' split) <;> simp only [State.modDie_keeps_stns, State.modCmd_keeps_stns, State.finish_keeps_stns, keeps_stns_upd,
      foldl_keeps_stns, State.modPort_keeps_stns, State.eachPort_keeps_stns, apply_ite State.stns,
      ite_self, implies_true]

theorem State.retired_keeps_stns (s : State) (d : DieId) (dpn : Nat) (port : Port) : (State.retired s d dpn port).stns = s.stns := by
  unfold State.retired
  (repeat' split) <;> first
    | with_reducible rfl
    | (simp only [State.modDie_keeps_stns, State.elogPage_keeps_stns, State.dropRemap_keeps_stns, keeps_stns_upd,
      foldl_keeps_stns, State.modPort_keeps_stns, State.eachPort_keeps_stns, apply_ite State.stns,
      ite_self, implies_true]; done)
    | (simp only [State.modDie_keeps_stns, State.elogPage_keeps_stns, State.dropRemap_keeps_stns, keeps_stns_upd,
      foldl_keeps_stns, State.modPort_keeps_stns, State.eachPort_keeps_stns, apply_ite State.stns,
      ite_self, implies_true]
       (repeat' split) <;> first | with_reducible rfl | simp only [State.modDie_keeps_stns, State.elogPage_keeps_stns, State.dropRemap_keeps_stns, keeps_stns_upd,
      foldl_keeps_stns, State.modPort_keeps_stns, State.eachPort_keeps_stns, apply_ite State.stns,
      ite_self, implies_true])

theorem State.forgetCmd_keeps_stns (s : State) (r : CmdRef) : (State.forgetCmd s r).stns = s.stns := by
  unfold State.forgetCmd
  rfl

theorem State.dropGoneKeys_keeps_stns (s : State) (p : Port) (q : Nat) : (State.dropGoneKeys s p q).stns = s.stns := by
  unfold State.dropGoneKeys
  rfl

theorem State.finalDone_keeps_stns (s : State) (p : Port) (q : Nat) : (State.finalDone s p q).stns = s.stns := by
  unfold State.finalDone
  (repeat' split) <;> simp only [State.modQp_keeps_stns, State.finish_keeps_stns, keeps_stns_upd, foldl_keeps_stns,
      State.modPort_keeps_stns, State.eachPort_keeps_stns, apply_ite State.stns, ite_self, implies_true]

theorem State.blackBox_keeps_stns (s : State) (cause detail : Nat) : (State.blackBox s cause detail).stns = s.stns := by
  simp only [State.blackBox, State.raise_keeps_stns, State.take_keeps_stns, keeps_stns_upd, foldl_keeps_stns,
      State.modPort_keeps_stns, State.eachPort_keeps_stns, apply_ite State.stns, ite_self, implies_true]

theorem State.loadStores_keeps_stns (s : State) : (State.loadStores s).stns = s.stns := by
  unfold State.loadStores
  rfl

theorem State.restoreSlots_keeps_stns (s : State) : (State.restoreSlots s).stns = s.stns := by
  unfold State.restoreSlots
  rfl

theorem State.startTrial_keeps_stns (s : State) : (State.startTrial s).stns = s.stns := by
  simp only [State.startTrial, keeps_stns_upd, foldl_keeps_stns, State.modPort_keeps_stns,
      State.eachPort_keeps_stns, apply_ite State.stns, ite_self, implies_true]

theorem State.regAccess_keeps_stns (s : State) (p : Port) (ofs : Nat) (f : State → State)
    (h : ∀ a, (f a).stns = a.stns) : (State.regAccess s p ofs f).stns = s.stns := by
  unfold State.regAccess
  simp only []
  (repeat' split) <;> simp only [h, State.modPort_keeps_stns]

theorem State.sendEvents_keeps_stns (s : State) (p : Port) (l : List Nat) : (State.sendEvents s p l).stns = s.stns := by
  simp only [State.sendEvents, State.sendEvent_keeps_stns, keeps_stns_upd, foldl_keeps_stns,
      State.modPort_keeps_stns, State.eachPort_keeps_stns, apply_ite State.stns, ite_self, implies_true]

theorem State.modSel_keeps_stns (s : State) (p : Port) (f : TraceQ → TraceQ) : (State.modSel s p f).stns = s.stns := by
  unfold State.modSel
  rfl

theorem State.answerRead_keeps_stns (s : State) (p : Port) (v : BitVec 64) : (State.answerRead s p v).stns = s.stns := by
  unfold State.answerRead
  rfl

theorem State.setupWrite_keeps_stns (s : State) (p : Port) (f : HostPort → HostPort) :
    (State.setupWrite s p f).stns = s.stns := by
  simp only [State.setupWrite, State.modPort_keeps_stns, keeps_stns_upd, foldl_keeps_stns,
      State.modPort_keeps_stns, State.eachPort_keeps_stns, apply_ite State.stns, ite_self, implies_true]

theorem State.regEffect_keeps_stns (s : State) (p : Port) (ofs size : Nat) (v : BitVec 64) :
    (State.regEffect s p ofs size v).stns = s.stns := by
  simp only [State.regEffect, State.modPort_keeps_stns, State.modSel_keeps_stns, State.setupWrite_keeps_stns,
      keeps_stns_upd, foldl_keeps_stns, State.modPort_keeps_stns, State.eachPort_keeps_stns,
      apply_ite State.stns, ite_self, implies_true]

theorem State.railReads_keeps_stns (s : State) (rail : Fin 7) (mv : Nat) : (State.railReads s rail mv).stns = s.stns := by
  unfold State.railReads
  rfl

theorem State.heat_keeps_stns (s : State) (d : DieId) (temp : BitVec 16) : (State.heat s d temp).stns = s.stns := by
  unfold State.heat
  rfl

theorem State.quarantine_keeps_stns (s : State) (d : DieId) (owner : Option Nat) :
    (State.quarantine s d owner).stns = s.stns := by
  unfold State.quarantine
  (repeat' split) <;> simp only [State.modDie_keeps_stns, keeps_stns_upd, foldl_keeps_stns, State.modPort_keeps_stns,
      State.eachPort_keeps_stns, apply_ite State.stns, ite_self, implies_true]

theorem State.portsApply_keeps_stns (s : State) : (State.portsApply s).stns = s.stns := by
  unfold State.portsApply
  rfl

theorem State.flash_keeps_stns (s : State) (ops : List FlashOp) : (State.flash s ops).stns = s.stns :=
  foldl_keeps_stns (fun a o => a.emit (.flash o)) (fun _ _ => rfl) _ _

theorem State.stageGo_keeps_stns (s : State) (c : HostCmd) (data : List Byte) : (State.stageGo s c data).stns = s.stns := by
  unfold State.stageGo
  (repeat' split) <;> simp only [State.flash_keeps_stns, keeps_stns_upd, foldl_keeps_stns, State.modPort_keeps_stns,
      State.eachPort_keeps_stns, apply_ite State.stns, ite_self, implies_true]

theorem State.runStage_keeps_stns (c : HostCmd) (data : List Byte) (s : State) :
    (State.runStage c data s).stns = s.stns := by
  simp only [State.runStage, State.addCmd_keeps_stns, State.stageGo_keeps_stns, keeps_stns_upd,
      foldl_keeps_stns, State.modPort_keeps_stns, State.eachPort_keeps_stns, apply_ite State.stns,
      ite_self, implies_true]

theorem State.stageCheck_keeps_stns (s : State) (x : Staging) (w : CmdRef) (len : Nat) (read : SlotRead) :
    (State.stageCheck s x w len read).stns = s.stns := by
  unfold State.stageCheck
  (repeat' split) <;> simp only [State.raise_keeps_stns, State.finish_keeps_stns, State.flash_keeps_stns, keeps_stns_upd,
      foldl_keeps_stns, State.modPort_keeps_stns, State.eachPort_keeps_stns, apply_ite State.stns,
      ite_self, implies_true]

theorem State.runConfirm_keeps_stns (c : HostCmd) (s : State) : (State.runConfirm c s).stns = s.stns := by
  simp only [State.runConfirm, State.finish_keeps_stns, State.addCmd_keeps_stns, keeps_stns_upd,
      foldl_keeps_stns, State.modPort_keeps_stns, State.eachPort_keeps_stns, apply_ite State.stns,
      ite_self, implies_true]

theorem State.logSpans_keeps_stns (s : State) (st : Stn) (r : CmdRef) : (State.logSpans s st r).stns = s.stns := by
  unfold State.logSpans
  (repeat' split) <;> simp only [State.logErr_keeps_stns, keeps_stns_upd, foldl_keeps_stns, State.modPort_keeps_stns,
      State.eachPort_keeps_stns, apply_ite State.stns, ite_self, implies_true]

theorem State.modMig_keeps_stns (s : State) (src : Stn) (f : MigJob → MigJob) : (State.modMig s src f).stns = s.stns := by
  unfold State.modMig
  rfl

theorem State.logSealer_keeps_stns (s : State) (st : Stn) (r : CmdRef) : (State.logSealer s st r).stns = s.stns := by
  unfold State.logSealer
  (repeat' split) <;> first
    | with_reducible rfl
    | (simp only [State.logErr_keeps_stns, keeps_stns_upd, foldl_keeps_stns, State.modPort_keeps_stns,
      State.eachPort_keeps_stns, apply_ite State.stns, ite_self, implies_true]; done)
    | (simp only [State.logErr_keeps_stns, keeps_stns_upd, foldl_keeps_stns, State.modPort_keeps_stns,
      State.eachPort_keeps_stns, apply_ite State.stns, ite_self, implies_true]
       (repeat' split) <;> first | with_reducible rfl | simp only [State.logErr_keeps_stns, keeps_stns_upd, foldl_keeps_stns, State.modPort_keeps_stns,
      State.eachPort_keeps_stns, apply_ite State.stns, ite_self, implies_true])

theorem State.giveRead_keeps_stns (s : State) (r : CmdRef) (k : Cmd) (c : Checked) :
    (State.giveRead s r k c).stns = s.stns := by
  simp only [State.giveRead, State.finish_keeps_stns, State.sendData_keeps_stns, State.finishWith_keeps_stns,
      State.take_keeps_stns, keeps_stns_upd, foldl_keeps_stns, State.modPort_keeps_stns,
      State.eachPort_keeps_stns, apply_ite State.stns, ite_self, implies_true]

theorem State.endVerifyAll_keeps_stns (s0 : State) (st : Stn) (r : CmdRef) (c : Cmd) :
    (State.endVerifyAll s0 st r c).stns = s0.stns := by
  unfold State.endVerifyAll
  (repeat' split) <;> first
    | with_reducible rfl
    | (simp only [State.logErr_keeps_stns, State.finishWith_keeps_stns, State.logSpans_keeps_stns,
      State.logSealer_keeps_stns, keeps_stns_upd, foldl_keeps_stns, State.modPort_keeps_stns,
      State.eachPort_keeps_stns, apply_ite State.stns, ite_self, implies_true]; done)
    | (simp only [State.logErr_keeps_stns, State.finishWith_keeps_stns, State.logSpans_keeps_stns,
      State.logSealer_keeps_stns, keeps_stns_upd, foldl_keeps_stns, State.modPort_keeps_stns,
      State.eachPort_keeps_stns, apply_ite State.stns, ite_self, implies_true]
       (repeat' split) <;> first | with_reducible rfl | simp only [State.logErr_keeps_stns, State.finishWith_keeps_stns, State.logSpans_keeps_stns,
      State.logSealer_keeps_stns, keeps_stns_upd, foldl_keeps_stns, State.modPort_keeps_stns,
      State.eachPort_keeps_stns, apply_ite State.stns, ite_self, implies_true])

theorem State.eachWriting_keeps_stns (s : State) (f : State → Stn → State) (h : ∀ a st, (f a st).stns = a.stns) :
    (State.eachWriting s f).stns = s.stns := by
  unfold State.eachWriting
  refine foldl_keeps_stns _ (fun a st => ?_) _ _
  split
  · rfl
  · exact h _ _

theorem State.testEnds_keeps_stns (s : State) (outcome : Nat) (parts : List TestPart) :
    (State.testEnds s outcome parts).stns = s.stns := by
  unfold State.testEnds
  (repeat' split) <;> simp only [State.finishWith_keeps_stns, keeps_stns_upd, foldl_keeps_stns, State.modPort_keeps_stns,
      State.eachPort_keeps_stns, apply_ite State.stns, ite_self, implies_true]

theorem State.endAppend_keeps_stns (s : State) (r : CmdRef) (k : Cmd) (lon : Nat) (hash : Option (List Byte)) :
    (State.endAppend s r k lon hash).stns = s.stns := by
  unfold State.endAppend
  (repeat' split) <;> simp only [State.finish_keeps_stns, State.finishWith_keeps_stns, keeps_stns_upd, foldl_keeps_stns,
      State.modPort_keeps_stns, State.eachPort_keeps_stns, apply_ite State.stns, ite_self, implies_true]

theorem State.afterBlock_keeps_stns (s : State) (st : Stn) (lon : Nat) : (State.afterBlock s st lon).stns = s.stns := by
  unfold State.afterBlock
  cases s.rec? st lon with
  | none => exact State.dropJobs_keeps_stns ..
  | some r =>
    refine ite_keeps_stns (State.dropJobs_keeps_stns ..) ?_
    generalize List.find? _ _ = x
    cases x with
    | none => rfl
    | some x => exact ite_keeps_stns (State.backToWait_keeps_stns ..) rfl

theorem State.touch_keeps_stns (s : State) (p : Port) : (State.touch s p).stns = s.stns := by
  unfold State.touch
  rfl

theorem State.badDoorbell_keeps_stns (s : State) (p : Port) : (State.badDoorbell s p).stns = s.stns := by
  simp only [State.badDoorbell, State.raise_keeps_stns, keeps_stns_upd, foldl_keeps_stns,
      State.modPort_keeps_stns, State.eachPort_keeps_stns, apply_ite State.stns, ite_self, implies_true]

theorem State.restartJobs_keeps_stns (s : State) (st : Stn) : (State.restartJobs s st).stns = s.stns := by
  unfold State.restartJobs
  (repeat' split) <;> first
    | with_reducible rfl
    | (simp only [State.addJob_keeps_stns, keeps_stns_upd, foldl_keeps_stns, State.modPort_keeps_stns,
      State.eachPort_keeps_stns, apply_ite State.stns, ite_self, implies_true]; done)
    | (simp only [State.addJob_keeps_stns, keeps_stns_upd, foldl_keeps_stns, State.modPort_keeps_stns,
      State.eachPort_keeps_stns, apply_ite State.stns, ite_self, implies_true]
       (repeat' split) <;> first | with_reducible rfl | simp only [State.addJob_keeps_stns, keeps_stns_upd, foldl_keeps_stns, State.modPort_keeps_stns,
      State.eachPort_keeps_stns, apply_ite State.stns, ite_self, implies_true])

end Sys2Proof.Machine
end

