-- ==== Sys2Proof/Machine/Package.lean ====
section
/-!
DEFINITION. The package as a board sees it (15, R446 to R450, R454, R460, R462): the balls that carry each signal, its hardwired
outputs and the test access port, and the counts of the motor-bus monitors.
-/
namespace Sys2Proof.Machine

/-! ### Signals (R446, R450) -/

/-- What a ball carries. -/
inductive Ball where
  | vss | vddCore | vddSram | vddSds | vddHbm | vddqlHbm | vddIo | vddAux
  | swiosh (st : Nat) (lane : Nat) (tx pos : Bool)
  | pcie (port : Nat) (lane : Nat) (tx pos : Bool)
  | refclk (pos : Bool)
  | wgate (st : Nat)
  | men (st : Nat)
  | resetN | warmN | perst (port : Nat) | alertN | thermtripN
  | tck | tms | tdi | tdo | trstN
  | busmon (st : Nat)
  | busmonRtn (die : Nat) | vcoreSns (die : Nat) | vssSns (die : Nat)
  | xspiSck | xspiCsN | xspiDqs | xspiDq (i : Nat)
  deriving DecidableEq, Repr

/-! ### Outputs -/

/-- ALERT_N is low as the core drives it (R460). -/
def State.alertLow (s : State) : Bool :=
  s.dies.toList.any (·.fault) || s.thermal.stop || s.supply.dip || s.boot.recovery || s.rst.stage == .recovery

/-- THERMTRIP_N is low as the core drives it (R411). -/
def State.thermtripLow (s : State) : Bool := s.thermal.trip

/-- WGATE_N_s is low as the core drives it: the write gate is open (R115). -/
def State.wgateLow (s : State) (st : Stn) : Bool := !(s.stns[st]).wgate

/-- MEN_N_s is low as the core drives it: the motors are enabled (R245). -/
def State.menLow (s : State) (st : Stn) : Bool := !(s.stns[st]).men

/-! ### The test access port (R454)

No row of the table reaches it, and in operation TRST_N keeps it in reset (log 140). -/

/-- The pins of the boundary-scan chain: every single-ended pin of Table 15.4 but those of the port itself, in its order. -/
def scanPins : List Ball :=
  (List.range 8).map .wgate ++ (List.range 8).map .men ++ [.resetN, .warmN, .perst 0, .perst 1, .alertN, .thermtripN, .xspiSck, .xspiCsN, .xspiDqs]
    ++ (List.range 8).map .xspiDq

/-- The level of a pin: what the core drives, and for the others what `seen` says stands on the board. -/
def State.coreLevel (s : State) (seen : Ball → Bool) : Ball → Bool
  | .wgate i => !s.wgateLow (stnOf i)
  | .men i => !s.menLow (stnOf i)
  | .alertN => !s.alertLow
  | .thermtripN => !s.thermtripLow
  | b => seen b

/-- The level of a pin: under EXTEST the outputs show their update cells, WGATE_N_s and MEN_N_s among them. -/
def State.pinLevel (s : State) (seen : Ball → Bool) (b : Ball) : Bool :=
  match s.tap.instr, b with
  | .extest, .resetN | .extest, .warmN | .extest, .perst _ | .extest, .xspiDqs => seen b
  | .extest, _ => ((scanPins.zip s.tap.update).find? fun x => x.1 == b).elim (s.coreLevel seen b) (·.2)
  | _, _ => s.coreLevel seen b

/-- The port changed by `f`. -/
def State.modTap (s : State) (f : Tap → Tap) : State := { s with tap := f s.tap }

/-- An instruction takes effect. -/
def State.tapInstr (s : State) (i : TapInstr) : State := s.modTap fun t => { t with instr := i }

/-- The selected data register captures: the bypass bit a 0, the cells the levels of their pins. -/
def State.tapCapture (s : State) (seen : Ball → Bool) : State := s.modTap fun t =>
  match t.instr with
  | .bypass => { t with bypass := false }
  | .samplePreload | .extest => { t with shift := scanPins.map (s.pinLevel seen) }

/-- One bit is shifted through the selected data register: what leaves on TDO, and the state after. -/
def State.tapShift (s : State) (tdi : Bool) : Bool × State :=
  match s.tap.instr with
  | .bypass => (s.tap.bypass, s.modTap fun t => { t with bypass := tdi })
  | .samplePreload | .extest => (s.tap.shift.getLastD false, s.modTap fun t => { t with shift := tdi :: t.shift.dropLast })

/-- What was shifted in reaches the update stage. -/
def State.tapUpdate (s : State) : State := s.modTap fun t =>
  match t.instr with
  | .bypass => t
  | .samplePreload | .extest => { t with update := t.shift }

/-! ### Places of the balls (R446 to R449) -/

/-- VSS on even squares, the region's rail on odd ones (R447). -/
def checkered (row col : Nat) (rail : Ball) : Ball := if (row + col) % 2 = 0 then .vss else rail

/-- The Swiosh regions: `k` is the distance from the outer row, `s0` the first station (R448, Table 15.2). -/
def swioshBall (s0 k col : Nat) : Ball :=
  if col = 65 then .vss
  else
    let st := s0 + (col - 1) / 16
    let lane := (col - 1) % 16
    match k with
    | 0 => .swiosh st lane true true
    | 1 => .swiosh st lane true false
    | 3 => .swiosh st lane false true
    | 4 => .swiosh st lane false false
    | 6 => .vddSds
    | _ => .vss

/-- A lane row of a port (R449). -/
def pcieBall (port lane col : Nat) : Ball :=
  match col with
  | 65 => .pcie port lane true true
  | 64 => .pcie port lane true false
  | 62 => .pcie port lane false true
  | 61 => .pcie port lane false false
  | 60 => .vddSds
  | _ => .vss

/-- The PCIe region (R449); row 17 is V. -/
def pcieRegion (row col : Nat) : Ball :=
  if 9 ≤ row ∧ row ≤ 16 then pcieBall 0 (row - 9) col
  else if 50 ≤ row ∧ row ≤ 57 then pcieBall 1 (57 - row) col
  else if row = 17 then (if col = 65 then .refclk true else if col = 64 then .refclk false else .vss)
  else checkered row col .vddSds

/-- Column 2, rows 9 to 57 (Table 15.3): J is 9, Y is 19, AA is 20, AY is 38, BA is 39, BY is 57. -/
def column2 (row : Nat) : Ball :=
  match row with
  | 9 => .wgate 0 | 10 => .wgate 1 | 11 => .wgate 2 | 12 => .wgate 3
  | 13 => .men 0 | 14 => .men 1 | 15 => .men 2 | 16 => .men 3
  | 17 => .resetN | 18 => .warmN | 19 => .perst 0
  | 20 => .alertN | 21 => .thermtripN
  | 22 => .tck | 23 => .tms | 24 => .tdi | 25 => .tdo | 26 => .trstN
  | 33 => .wgate 4 | 34 => .wgate 5 | 35 => .wgate 6 | 36 => .wgate 7
  | 37 => .men 4 | 38 => .men 5 | 39 => .men 6 | 40 => .men 7
  | 41 => .perst 1
  | _ => .vss

/-- Column 3. -/
def column3 (row : Nat) : Ball :=
  match row with
  | 9 => .xspiSck | 10 => .xspiCsN | 11 => .xspiDqs
  | 12 => .xspiDq 0 | 13 => .xspiDq 1 | 14 => .xspiDq 2 | 15 => .xspiDq 3
  | 16 => .xspiDq 4 | 17 => .xspiDq 5 | 18 => .xspiDq 6 | 19 => .xspiDq 7
  | 21 => .busmon 0 | 22 => .busmon 1 | 23 => .busmon 2 | 24 => .busmon 3
  | 25 => .busmonRtn 0 | 26 => .vcoreSns 0 | 27 => .vssSns 0
  | 33 => .busmon 4 | 34 => .busmon 5 | 35 => .busmon 6 | 36 => .busmon 7
  | 37 => .busmonRtn 1 | 38 => .vcoreSns 1 | 39 => .vssSns 1
  | _ => .vss

/-- Column 4: VDD_IO at J4 to Y4 and AP4 to AY4, VDD_AUX at AA4 to AD4, BA4 and BB4. -/
def column4 (row : Nat) : Ball :=
  if (9 ≤ row ∧ row ≤ 19) ∨ (33 ≤ row ∧ row ≤ 38) then .vddIo
  else if (20 ≤ row ∧ row ≤ 23) ∨ row = 39 ∨ row = 40 then .vddAux else .vss

/-- The ball at a row index and a column, both 1 to 65 (Table 15.1). -/
def ballAt (row col : Nat) : Ball :=
  if row ≤ 8 then swioshBall 0 (row - 1) col
  else if row ≥ 58 then swioshBall 4 (65 - row) col
  else if col ≥ 60 then pcieRegion row col
  else if col = 1 then .vss
  else if col = 2 then column2 row
  else if col = 3 then column3 row
  else if col = 4 then column4 row
  else if row = 9 ∨ row = 57 then checkered row col .vddSds
  else if col ≤ 6 ∨ col ≥ 58 then checkered row col .vddqlHbm
  else if col ≤ 14 ∨ col ≥ 50 then checkered row col .vddHbm
  else if col ≤ 16 ∨ col ≥ 48 then checkered row col .vddSram
  else checkered row col .vddCore

end Sys2Proof.Machine
end

