-- ==== Sys2Proof/WellFormed.lean ====
section
/-!
DEFINITION. Which commands are well formed: every operand lies in the range that the command's row has for it. A meaning
does not rest on this: it takes whatever it is given (log 27).
-/
namespace Sys2Proof

/-- A port takes entries from queue pairs 0 to 511, and an entry has a scatter list only where CFLAGS bit 0 names one
(R316, Table 10.2). -/
def HostCmd.wf (c : HostCmd) : Bool := c.qid ≤ 511 && (c.entry.cflags.getLsbD 0 || c.sgl.isEmpty)

/-- Data pages of a region (Table 9.1). -/
def regionFrames : HbmRegion → Nat
  | .pool => 8912896
  | .selfTest => 196608
  | .trace => 32768
  | .errorLog => 4096
  | .spare => 4096

/-- The page exists (Table 9.1). -/
def PageAddr.wf (a : PageAddr) : Bool := a.frame < regionFrames a.region

/-- Bits of the longest code word of a page: 33,024 and the parity of PAGE_T 48 (R286, Table 9.5). -/
def codeBits : Nat := 33024 + 16 * 48

/-- Wrong bits of a read are bits of the code word, and the page that answered exists. -/
def PageLine.wf (l : PageLine) : Bool := l.flips.all (· < codeBits) && l.place.all PageAddr.wf

/-- Lanes of an engine region of a die (Table 1.2). -/
def regionLanes : Region → Nat
  | .hash => 24
  | .compression | .decompression | .crypto => 8

/-- A motor-bus input is read at 12 bits (R249). -/
def busRange (counts : Nat) : Bool := counts ≤ 4095

/-- Whether a command is well formed. -/
def Instr.wf : Instr → Bool
  | .append c | .read c | .locate c | .flush c | .orderFence c | .verify c | .migrate c | .seal c | .identify c
  | .createQp c | .deleteQp c | .resetQp c | .getLog c | .mount c _ | .unmount c | .initVolume c | .selfTest c _
  | .powerState c | .imageConfirm c | .retirePage c | .scrubRange c | .recoverStabled c | .discardStabled c
  | .blockReset c => c.wf
  | .imageStage c data => c.wf && data.length == c.entry.dlen.toNat
  | .monitorCtl c data => c.wf && data.length == c.entry.dlen.toNat
  | .sqTailWrite _ q _ | .cqHeadWrite _ q _ | .completionWrite _ q => q ≤ 511
  | .registerWrite _ ofs size _ => (size == 4 || size == 8) && ofs % size == 0 && ofs + size ≤ 0x10000
  | .portLinkTrained _ g w _ => 1 ≤ g && g ≤ 6 && 1 ≤ w && w ≤ 16
  | .linkRateOrWidthChange _ g w => 1 ≤ g && g ≤ 6 && 1 ≤ w && w ≤ 16
  | .busWarning _ n | .busWarningStep _ n | .busStop _ n | .busHold _ n | .busRecovery _ n
  | .busRecoveryStep _ n => busRange n
  | .downstreamFrame _ _ n => n ≤ 69
  | .engineLaneFault _ r lane => lane < regionLanes r
  | .poolGrant _ owner _ _ => owner ≤ 63
  | .pageRead a _ _ l _ => a.wf && l.wf
  | .pageWrite a _ _ first beats _ l => a.wf && l.wf && 1 ≤ beats.length && first + beats.length ≤ 64
  | .writeBack _ l => l.wf
  | .patrolScrub _ flips place | .rangeScrubRead _ flips place => (PageLine.mk flips place).wf
  | .adminQueueEnable _ | .warmRequest _ | .evtStatClear _ _ _ _ | .evtMaskWrite _ _ _ | .evtRouteWrite _ _ _
  | .msixVectorUnmask _ _ | .monSelWrite _ _ | .flushNow _ | .flushAtBoundary _ | .clrcnt _ | .trcDataRead _ _ _
  | .elogIdxWrite _ _ _ | .supV0Read _ | .powerOnReset | .resetN | .supplyReset _ _ | .thermalTrip _ _ | .thermalTripRelease
  | .watchdogExpiry | .watchdogReport _ | .packageFault _ | .refclkLoss | .refclkStable | .warmN | .stationStateSave _
  | .quiesceEnd | .portReset _ | .resetRelease _ | .fuseLoadDone | .bootImageChoice _ | .memoryReady | .deviceReady
  | .vddCoreWarning _ | .dipStop | .dipRecovery _ _ | .thermalThrottle _ _ | .thermalThrottleStep | .thermalCapRaise
  | .upstreamFrame _ _ _ | .thermalStop _ _ | .thermalStopClear | .vbusMismatch _ | .sidebandContainer _ _ | .headEndResponse _ _ | .laneDown _ _
  | .laneTrainingDone _ _ _ _ _ | .laneTrainingRetry _ _ | .linkLoss _ | .linkRecovered _ | .rowDecode _ _ _ | .retryAttempt _
  | .bandFreeze _ | .gatheringAcceptance _ _ | .intakeDone _ _ _ _ _ | .engineDispatch _ _ | .blockEmit _ _
  | .rightAwayMark _ _ _ | .checkFail _ _ _ | .encryptionDone _ _ | .gatheringPlace _ _ | .emptyGathering _ | .speedDecision _
  | .speedStepDone _ | .stopDone _ | .backhitchDone _ _ | .wrapEnd _ | .wrapStart _ | .gatheringDecode _ _ | .quireDecode _ _
  | .rereadPassDone _ | .recordHandover _ _ | .rebuildPassDone _ | .lateralSample _ | .writeInhibitEnd _ | .lateralSettled _
  | .missWinh _ | .missStop _ | .reelSample _ | .reelMissStop _ | .auxSample _ | .lposWord _ | .lposLost _
  | .kappaUpdate _ _ _ | .bankSwapTimeout _ _ | .rampDone _ | .tensioned _ | .tensionTimeout _ | .poolAdd _ _ _ _
  | .poolRelease _ _ _ | .poolFree _ _ _ | .ceLeak | .controlStoreFetch _ _ _ | .controlStoreScrub _ | .stackLost _
  | .ucieLinkDown | .trialWindowExpiry | .drbgHealthFail | .ledgerWriteDone | .selfTestTimeout _ | .selfTestDone _
  | .powerStateExitDone | .monitorSample _ _ _ | .decryptionDone _ _ | .decompressionDone _ _ | .chunkReadBack _ _
  | .blockReturn _ | .ucieLinkRetrain _ | .mountOpenTimeout _ => true

end Sys2Proof
end

