-- ==== Sys2Proof/Tests/Slice0.lean ====
section
/-!
SUPPORT. Tests: states and operands that meet the hypotheses of every statement, values that the spec writes out, and a command that
each check of well-formedness refuses. Two clauses have no witness. One is of ImageChosen: an image that passes every check does so through
the signature functions, which have no body (log 6). The other is of GatheringsRead: a gathering whose header passes after C2, whose 928 codewords
the kernel cannot decode in a test.
-/
set_option linter.all false
set_option maxRecDepth 100000
set_option Elab.async false
open Sys2Proof Sys2Proof.Machine
namespace Sys2Proof.Tests

/-- THRESHOLDS with the usual values of Table 7.14 (Table 11.15); POOLS and QUEUES for both dies and ports. -/
def thr : List Byte := (List.range 8).flatMap (fun _ => leBytes 2 500) ++ [12, 20, 16, 6, 1, 4, 0xFE, 2, 0xFC, 4, 3, 8] ++ leBytes 2 4096 ++ [2, 16]
  ++ leBytes 4 6144 ++ leBytes 4 4096 ++ leBytes 4 2048 ++ leBytes 4 256 ++ leBytes 2 50 ++ zeros 2 ++ leBytes 2 42000 ++ leBytes 2 38000 ++ leBytes 2 32000 ++ leBytes 2 44000
  ++ [95, 105, 0, 0] ++ [16, 4, 8, 24] ++ leBytes 2 256 ++ leBytes 2 1000 ++ zeros 56
def img : Image := { imgVer := 7, secVer := 1, sections := [(5, (List.range 10).flatMap fun k => leBytes 4 ([8, 8, 4, 2, 2].getD (k % 5) 0) ++ zeros 60),
  (6, [1, 6, 64, 0, 0, 0, 0, 0, 1, 6, 64, 0, 0, 0, 0, 0]), (12, thr)] }
/-- A port that is up, whose admin queue and I/O queue 1 of 64 slots hold some entries each. -/
def port (a q : Nat) : HostPort := { HostPort.reset with
  linkUp := true, gen := 6, width := 8, msixEn := true, featAccept := 0xFF, aqEn := true, aqDepth := 64
  qps := [{ Qp.fresh 0 64 0x1000 0x2000 0 with sqTail := a }, { Qp.fresh 1 64 0x3000 0x4000 1 with sqTail := q }] }
/-- A block that is ready; on port 0 an admin entry waits. -/
def up : State := { State.reset with
  rst := { State.reset.rst with stage := .ready }, boot := { State.reset.boot with image := some img }, stnMap := 0xFF
  ports := #v[port 1 0, port 0 0] }
/-- The same with an entry of I/O queue 1 waiting. -/
def upq : State := { up with ports := #v[port 0 1, port 0 0] }
/-- An entry of a queue. -/
def ent (opc tag stn : Nat) (mnt : BitVec 32) (flags cdw dlen : Nat) : Entry :=
  { opc := BitVec.ofNat 8 opc, flags := BitVec.ofNat 8 flags, tag := BitVec.ofNat 16 tag, stn := BitVec.ofNat 8 stn, cflags := 0, rsv := 0,
    mnt := mnt, dlen := BitVec.ofNat 32 dlen, dptr := if dlen = 0 then 0 else 0x5000, rptr := 0x6000, cdw := BitVec.ofNat 256 cdw }
/-- The same without a result buffer. -/
def ent0 (opc tag stn : Nat) (mnt : BitVec 32) (flags cdw dlen : Nat) : Entry := { ent opc tag stn mnt flags cdw dlen with rptr := 0 }
def adm (e : Entry) : HostCmd := ⟨0, 0, e, []⟩
def io (e : Entry) : HostCmd := ⟨0, 1, e, []⟩

/-- An image that may be confirmed, a staging target, and a retired page. -/
def trial : State := { up with ledger := { up.ledger with tstate := .running, booted := some .factory, trial := some .b } }
/-- A self-test of KIND 1 is running for tag 9 of the admin queue. -/
def wait9 (ph : Phase) (e : Entry) (s : State) : State :=
  s.modPort 0 fun h => { h with qps := h.qps.map fun x => if x.id = 0 then { x with cmds := [Cmd.start (adm e) 0 ph] } else x }
def r9 : CmdRef := ⟨0, 0, 9⟩
def testing : State := { wait9 .moving (ent 0x88 9 0xFF 0 0 1 0) up with test := some ⟨1, r9, 0x6000, 0, [], []⟩ }

/-- The geometry descriptor of the worked volume, without its check. -/
def geo : List Byte := beBytes 4 0x4C31 ++ beBytes 2 1 ++ zeros 18 ++ beBytes 4 1450000 ++ [4, 40] ++ beBytes 2 128 ++ beBytes 4 250000 ++ beBytes 4 14250000
  ++ beBytes 4 480 ++ beBytes 4 (unsigned 32 (-9600)) ++ beBytes 4 2900000 ++ beBytes 2 100 ++ [0, 32] ++ beBytes 4 22000 ++ beBytes 4 4300 ++ beBytes 4 400000 ++ zeros 188
/-- A volume with no records. -/
def vol : VolCtx := { VolCtx.blank with geo := geo, state := .unsealed, depth := 4, parity := 2, lon := 5 }
/-- A station with a mounted volume. -/
def stn (st : Stn) (mo : Motion) (m : Mode) (v : VolCtx) (s : State) : State :=
  s.modStn st fun t => { t with mount := some ⟨1, m, 0, []⟩, ctx := some v, servo := { t.servo with motion := mo, threaded := true }, men := false }
def links (s : State) : State := { s with stns := s.stns.map fun t =>
  { t with link := { t.link with atRest := true, cfgDone := true, lanes := t.link.lanes.map fun l => { l with up := true } } } }
/-- Links up, and station 2 mounted for appending or for reading. -/
def apd : State := links (stn 2 .tensioned .append vol upq)
def rdg : State := links (stn 2 .tensioned .read vol upq)
def adA : State := { apd with ports := up.ports }

/-- Entry `e` outstanding as the one command of I/O queue 1, in a phase, with a record's LON. -/
def cmd1 (e : Entry) (ph : Phase) (lon : Nat) (s : State) : State := s.modPort 0 fun h =>
  { h with qps := h.qps.map fun x => if x.id = 1 then { x with cmds := [{ Cmd.start (io e) 0 ph with lon := lon }] } else x }
/-- A job running on lane 0 of a region of die 0. -/
def job (r : Fin 4) (k : JobKind) (s : State) : State :=
  s.modDie 0 fun d => d.modEngine r fun e => { e with running := [(0, ⟨k, 2, 0, false, 0, none⟩)] }
/-- An APPEND of 4 bytes to record 5 whose data moves. -/
def apEnt : Entry := { ent 0x01 9 2 1 0 5 4 with rptr := 0 }
def rec5 : Rec := { Rec.fresh 5 0 1 none none with taken := 4 }
def withRecs (l : List Rec) (s : State) : State := s.modStn 2 fun t => { t with ctx := some { vol with lon := 6, recs := l } }
def intake : State := job 0 (.hash 2 5) (cmd1 apEnt .moving 5 (withRecs [rec5] apd))
/-- A record with 4 bytes of input, complete, and one with its only block compressed. -/
def full5 : Rec := { rec5 with accepted := 4, written := 4, input := [1, 2, 3, 4], ended := true, complete := true, anyDone := true, outCap := 2097152 }
def blk5 (m : Bool) : Block := { start := 0, len := 4, last := true, bytes := [9, 9, 9], marked := m, poisoned := false, lane := 3 }
def emits : State := job 1 (.compress 2 5) (withRecs [full5] apd)
def checks (m : Bool) : State := withRecs [{ full5 with blocks := [blk5 m] }] apd
/-- A gathering of the write pipeline. -/
def gath (n : Nat) (k : GKind) (rel pl rec : Bool) (dead : List Nat) : Gath :=
  { kind := k, gnum := n, quire := 0, qpos := 0, flushEnd := false, groupEnd := false, segs := [], payload := [], cipher := [], tag := zeros 16, wrap := 0,
    lpos := 0, prev := [], crc := 0, chain := [], encrypted := rel, released := rel, placed := pl, recorded := rec, accepted := false, poisoned := false,
    closure := false, group := 0, dead := dead, unre0 := 0, unre1 := 0, reachEnd := 0, buffer := none, c2Buf := none }
def wr (f : Write → Write) (s : State) : State := s.modStn 2 fun t => { t with write := f t.write }
/-- Station 2 writes: the tape moves, settled, with LPOS known. -/
def wrt : State := wr (fun w => { w with feed := .writing }) (apd.modStn 2 fun t =>
  { t with servo := { t.servo with motion := .moving, setStep := 20, settled := true, lposOk := true, lpos := 250000 }, speed := { t.speed with stopped := false } })

def srv (f : Servo → Servo) (s : State) : State := s.modStn 2 fun t => { t with servo := f t.servo }
/-- A servo frame of reader 0 with no lateral error at 10 m/s: 1 µm is 2,560 HT units. -/
def frame0 : List (Bool × BitVec 26) := [0, 4, 8, 12, 16, 30, 34, 38, 42, 46, 60, 64, 68, 72, 80, 84, 88, 92].map fun n => (false, BitVec.ofNat 26 (2560 * n))
def lat : State := srv (fun v => { v with motion := .moving, vHat := BitVec.ofNat 32 (10000 * 131072), crossings := frame0, within := 15, inhibit := true, missSrv := 3 }) apd
/-- Station 2 reads. -/
def rds (f : Recall → Recall) (s : State) : State := s.modStn 2 fun t => { t with readSide := f { Recall.reset with active := true } }
def reading (f : Recall → Recall) : State := rds f (srv (fun v => { v with motion := .moving, setStep := 20 }) rdg)
/-- A gathering being read, all of whose rows were lost, and one that is decided. -/
def rg (n : Nat) (k : GKind) : RGath := RGath.fresh n k
/-- Four rewrite bands have begun, and nothing waits for its outcome. -/
def band4 (s : State) : State := s.modStn 2 fun t => { t with link := { t.link with rxBand := 4 } }
def rgA (n : Nat) : RGath := { rg n .data with area := some [], slot := some (0, 0) }
/-- A decided gathering with one INCOMPLETE segment of record 5, and a MIGRATE that has read it. -/
def segA : List Byte := zeros 0x2E ++ beBytes 2 1 ++ zeros 0xD0 ++ beBytes 8 5 ++ zeros 8 ++ zeros 4 ++ beBytes 4 4
def rgS : RGath := { rg 0 .data with area := some segA, slot := some (0, 0), plain := some [] }
def mig (ph : Nat) : MigJob :=
  { cmd := some ⟨0, 1, 9⟩, src := 2, dst := 3, phase := ph, skip := none, skipped := [], seen := [], unsealed := true, status := 0,
    failLon := none, check := 0, resume := 0, around := (0, 0), stopped := false, outcome := 0, hash := [] }
def hand0 : State := (cmd1 (ent 0x07 9 2 1 1 (3 + 2^33) 0) .moving 0 (reading fun r => { r with gaths := [rgS], decoded := [5] })).modStn 3 fun t =>
  { t with mount := some ⟨2, .append, 0, []⟩, ctx := some vol }
def hand : State := { hand0 with migs := [mig 3] }
def stopped7 : State := srv (fun v => { v with ramp := some (.stop, 0), motion := .moving }) apd
def thr9 (ph : Phase) : State := (cmd1 (ent 0x85 9 2 0 0 0 0) ph 0 apd).modStn 2 fun t => { t with mount := none, ctx := none, mountCmd := some ⟨0, 1, 9⟩, servo := { t.servo with closing := true, motion := .open_ } }

/-- Pool 0 of die 0 has 8 buffers, of which number 3 has owners. -/
def buf3 (o : List Nat) : Buf := { index := 3, gen := 5, owners := o, freePend := false, withdrawn := false, holds := .other }
def pooled (l : List Buf) : State := up.modDie 0 fun d => d.modPool 0 fun p => { p with count := 8, bufs := l }
def h3 : BitVec 32 := mkHandle 0 3 5
def pg : PageAddr := ⟨0, .trace, 7⟩
def pgP : PageAddr := ⟨0, .pool, 7⟩
/-- One write-back of page `pg` is due; `w` is the WGEN that it was read with. -/
def wback (w : BitVec 64) : State := up.modStack 0 fun x => { x with wbs := [⟨pg, w, 3, 2, 0, 0⟩] }
def scr (n : Nat) : State := (wait9 .moving (ent 0x8D 9 0xFF 0 0 (2^64) 0) up).modDie 0 fun d => { d with scrub := some { ScrubJob.start r9 (ent 0x8D 9 0xFF 0 0 (2^64) 0) with left := n } }
/-- A control store whose word 0 has class 1 and goes on to word 1, and one of an all-zero word. -/
def store (k : Fin 10) (w : BitVec 144) : State := up.modStore k fun x => { x with words := [w] }

def cId : HostCmd := adm (ent0 0x80 1 0xFF 0 0 0 4096)

/-! ## Witnesses: states and operands that meet the hypotheses of each statement -/

/-- The next state of a command. -/
def nextOf (o : Host.Outcome State Fault Refusal) : State := match o with
  | .next t => t
  | _ => up

/-! ### Structure -/

theorem witness_StepRunsFront : up.pending = [] ∧ (∀ (d : DieId) (p : Fin 5), ((up.dies[d]).pools[p]).due = 0)
    ∧ exec .ceLeak up = .next (nextOf (exec .ceLeak up)) := by
  refine ⟨by decide, by decide +kernel, rfl⟩
theorem witness_MemoryStaysCanonical : Memory.wf up.mem = true ∧ step up = .next { up with clock := up.clock + 1 } := by
  refine ⟨by decide, rfl⟩
theorem witness_MemoryFrame : Instr.ceLeak.writesMemory = false ∧ exec .ceLeak up = .next (nextOf (exec .ceLeak up)) := ⟨by decide, rfl⟩
theorem witness_Frames : Instr.ceLeak.setsControl = false ∧ Instr.ceLeak.setsService = false ∧ Instr.ceLeak.movesStations = false
    ∧ Instr.ceLeak.setsStanding = false ∧ exec .ceLeak up = .next (nextOf (exec .ceLeak up)) := ⟨by decide, by decide, by decide, by decide, rfl⟩
theorem witness_LedgerAnchored : Instr.ceLeak ≠ .ledgerWriteDone ∧ Instr.ceLeak ≠ .powerOnReset ∧ Instr.ceLeak.writesLedger = false := by decide

/-! ### Registers, events and traces -/

theorem witness_EventRegisters : up.regAnswers 0 0x200 = true ∧ up.regAnswers 0 0x23C = true ∧ up.regAnswers 0 0x33C = true := by decide
/-- A source that is set, masked and routed to vector 3. -/
def set5 : State := up.modPort 0 fun h => { h with stat := BitVec.twoPow 256 5, mask := BitVec.twoPow 256 5, route := h.route.set 5 3 }
theorem witness_EventRegisters_unmask : (set5.ports[(0 : Port)]).mask.getLsbD 5 = true ∧ (set5.ports[(0 : Port)]).stat.getLsbD 5 = true
    ∧ (set5.ports[(0 : Port)]).vecOf 5 = some 3 ∧ (set5.ports[(0 : Port)]).linkUp = true ∧ (set5.ports[(0 : Port)]).msixEn = true := by decide
/-- A source that is set, has no vector and is not masked; a write of 3 to its routing byte gives it one. -/
def set5r : State := up.modPort 0 fun h => { h with stat := BitVec.twoPow 256 5 }
theorem witness_EventRegisters_raised : ({ set5.ports[(0 : Port)] with mask := 0 }).mask.getLsbD 5 = false ∧ (32 : BitVec 32).getLsbD 5 = true ∧ (set5r.ports[(0 : Port)]).stat.getLsbD 5 = true
    ∧ (set5r.ports[(0 : Port)]).mask.getLsbD 5 = false ∧ (set5r.ports[(0 : Port)]).vecOf 5 = none ∧ set5r.regAnswers 0 0x244 = true
    ∧ ((nextOf (exec (.evtRouteWrite 0 1 0x0300) set5r)).ports[(0 : Port)]).vecOf 5 = some 3 := by decide +kernel
theorem witness_TraceQueueControls : up.regAnswers 0 0x800 = true ∧ ({ TraceQ.reset with bfPend := true } : TraceQ).bfPend = true
    ∧ TraceQ.reset.words.length < traceDepth := by decide
/-- A trace queue with one word. -/
def word1 : State := up.modDie 0 fun d => d.modTrace 0 fun q => { q with words := [⟨7, true, secded 7 true⟩] }
theorem witness_TraceWordsRead : up.regAnswers 0 0x818 = true ∧ ((up.dies[(0 : DieId)]).trace[(0 : Fin 4)]).words = []
    ∧ (secdedRead 7 true (secded 7 true)).isSome = true ∧ secdedRead 4 true (secded 7 true) = none := by decide
theorem witness_TraceWordsRead_high : ((up.modPort 0 fun h => { h with trcHigh := some 9 }).ports[(0 : Port)]).trcHigh = some 9 := by decide
theorem witness_WindowSelects : up.regAnswers 0 0x400 = true ∧ (1 : DieId).val = ((0x105 : BitVec 32).toNat / 256) % 2
    ∧ (5 : Fin 64).val = (0x105 : BitVec 32).toNat % 64 ∧ up.regAnswers 0 0x200C = true ∧ (0 : DieId).val = (up.ports[(0 : Port)]).elogDie.toNat := by decide
theorem witness_SupplyMinimaRestart : up.regAnswers 0 0x4000 = true ∧ up.regAnswers 1 0x4000 = true := by decide
theorem witness_RegisterWrites : up.regAnswers 0 0x44 = true ∧ up.regAnswers 0 0x88 = true ∧ up.regAnswers 0 0x48 = true ∧ up.regAnswers 0 0x104 = true
    ∧ up.regAnswers 0 0x800 = true ∧ up.regAnswers 0 0x804 = true ∧ up.regAnswers 0 0x2000 = true := by decide
theorem witness_PortLinksAndResets : (up.ports[(0 : Port)]).linkUp = true ∧ ¬ ((up.ports[(0 : Port)]).gen = 5 ∧ (up.ports[(0 : Port)]).width = 8)
    ∧ ((up.ports[(0 : Port)]).gen = 6 ∧ (up.ports[(0 : Port)]).width = 8) := by decide
/-- Queue 1 exists with 64 slots; queue 2 does not; a RESET_QP of queue 1 is in progress. -/
def rsting : State := up.modPort 0 fun h => { h with qps := h.qps.map fun x => if x.id = 1 then { x with resetting := some r9 } else x }
theorem witness_Doorbells : up.regAnswers 0 0x1008 = true ∧ up.regAnswers 0 0x100C = true ∧ ((up.ports[(0 : Port)]).qp? 1).any (fun x => x.depth == 64) = true
    ∧ bits (0x1003F : BitVec 32) 0 16 < 64 ∧ 64 ≤ bits (64 : BitVec 32) 0 16 ∧ (up.ports[(0 : Port)]).qp? 2 = none
    ∧ ((rsting.ports[(0 : Port)]).qp? 1).any (fun x => x.resetting.isSome) = true := by decide
/-- The admin queue is to be enabled, with the four results. -/
def aq (f : BitVec 64) (d : BitVec 13) (b : BitVec 64) : State := up.modPort 0 fun h => { h with aqEn := false, featAccept := f, aqDepth := d, aqSqBase := b }
theorem witness_AdminQueueEnabled : (aq 1 4096 0).regAnswers 0 0x100 = true ∧ (aq 1 4096 0).answers 0 = true
    ∧ ((aq 1 4096 0).ports[(0 : Port)]).featAccept &&& ~~~(aq 1 4096 0).featOffer = 0 ∧ ¬ ((aq 2 4096 0).ports[(0 : Port)]).featAccept.getLsbD 0 = true
    ∧ ¬ ((aq 1 4097 0).ports[(0 : Port)]).aqDepth.toNat ≤ 4096 ∧ ¬ ((aq 1 2 0x10).ports[(0 : Port)]).aqSqBase.toNat % 4096 = 0 := by decide

/-! ### Resets and exits -/

/-- Watchdogs that are due, with WDOG_REACH 1 or 0; WDOG_MS is 1 ms. -/
def dogImg (cold : Byte) : Image := { img with sections := (7, zeros 10 ++ [1, 0, cold]) :: img.sections }
def dog (cold : Byte) : State := { up with clock := 800000, boot := { up.boot with image := some (dogImg cold) } }
theorem witness_watchdogs : (dog 1).wdogDue = true ∧ (dog 1).img.wdogCold = true ∧ (dog 0).wdogDue = true ∧ (dog 0).img.wdogCold = false := by decide
theorem witness_ColdResets : ResetSource.resetN ∉ up.rst.asserted ∧ 0 ≤ railReset.getD 0 0 ∧ (120 * 256 : Int) ≤ (0x7800 : BitVec 16).toInt
    ∧ PkgFault.vault ≠ .refclk := by decide
theorem witness_ClockLossAndReleases : up.rst.refclkLost = false ∧ ({ up.rst with stage := .held } : ResetCtl).stage = .held
    ∧ ResetSource.resetN ≠ .thermal := by decide
theorem witness_WarmSourcesAndSaves : up.rst.stage = .ready ∧ (up.ports[(0 : Port)]).linkUp = true ∧ (up.stns[(2 : Stn)]).writing = false := by decide
/-- A quiesce. -/
def quiet : State := { up with rst := { up.rst with stage := .quiesce, reach := .warm } }
theorem witness_QuiesceEnds : quiet.rst.stage = .quiesce ∧ (quiet.stns[(7 : Stn)]).writing = false := by decide
/-- A flash with nothing in it: every slot fails check 1. -/
def empty : Flash := ⟨⟨[], false⟩, ⟨[], false⟩, ⟨[], false⟩⟩
def atE (x : Stage) : State := { State.reset with rst := { State.reset.rst with stage := x } }
theorem witness_ImageChosen : (atE .e2).rst.stage = .e2 ∧ ∀ y : SlotId, accept (slotOf empty y) (atE .e2).ledger.floor (atE .e2).ledger.pin = .error 1 := by
  refine ⟨by decide, fun y => by cases y <;> rfl⟩
theorem witness_ExitStages : (atE .e1).rst.stage = .e1 ∧ (atE .e3).rst.stage = .e3 ∧ (atE .e4).rst.stage = .e4 ∧ (atE .e4).rst.deferred = []
    ∧ ({ up with ports := #v[{ port 0 0 with linkUp := false }, port 0 0] } : State).mayTrain 0 = true := by decide
theorem witness_FloorNeverFalls : ({ up.ledger with writing := [LedgerOp.confirm r9] } : Ledger).writing = .confirm r9 :: [] := by decide
/-- A chunk that waits to be read back. -/
def chunk (last : Bool) : Staging := { port := 0, target := .a, nextOfs := 4096, total := [], chunk := some (r9, 0, zeros 8, last) }
theorem witness_LedgerAndStaging : (up.ledger.retired[(0 : DieId)]).length < 2048 ∧ (chunk true).chunk = some (r9, 0, zeros 8, true) ∧ zeros 8 ≠ zeros 7
    ∧ (stagedReason ⟨[], false⟩ 8 0 []).isSome = true ∧ trial.ledger.tstate = .running := by decide

/-! ### Room for an APPEND: what the colophon would take is bounded, whatever the certificates -/

theorem room (v : VolCtx) (w : Write) (lon len a : Nat) (hb : v.lgaps.length + v.burned.length ≤ 2 ^ 20)
    (hd : v.recs.foldl (fun a r => a + r.demand w (if r.lon = lon then len else 0)) 0
      + (if (v.rec? lon).isSome then 0 else len + spanCharge 0 len [] + 85) ≤ 2 ^ 32)
    (ha : v.parity * v.depth + spinesLeft v w * fullSpineParts v.geo + (4 - v.copies + (labelsLeft v w .endpaper).length)
      + ceilDiv (v.recs.filter fun r => r.isOpen || (r.abandon.isNone && r.complete && !r.durable) || r.incWanted).length 120 ≤ a)
    (hf : a + 2 ^ 18 ≤ freeSlots v w * 32 / (32 + v.parity)) : hasRoom v w lon len = true := by
  have hc := cchain_length
  have hl : ceilDiv v.colLen payloadBytes ≤ 2 ^ 14 := by
    unfold VolCtx.colLen ceilDiv payloadBytes; omega
  unfold hasRoom available reserveSlots
  simp only [decide_eq_true_eq]
  have : 2 ^ 17 ≤ freeSlots v w * 32 / (32 + v.parity) - (v.parity * v.depth + spinesLeft v w * fullSpineParts v.geo
      + (4 - v.copies + (labelsLeft v w .endpaper).length) + 2 * ceilDiv v.colLen payloadBytes + 2 + ceilDiv (v.recs.filter fun r => r.isOpen || (r.abandon.isNone && r.complete && !r.durable) || r.incWanted).length 120 + 16 + 64) := by
    omega
  have h2 := Nat.mul_le_mul_left payloadBytes this
  unfold payloadBytes at *
  omega
theorem room5 : hasRoom vol Write.reset 5 4096 = true := by
  apply room (a := 1700)
  · show (gapsFrom 0 5 []).length + 0 ≤ _
    simp [gapsFrom]
  · show (0 + (4096 + spanCharge 0 4096 [] + 85)) ≤ _
    simp [spanCharge, ceilDiv, sortBy, insertBy]
  · decide +kernel
  · decide +kernel
def apE (fl : Nat) (lon ofs n : Nat) : Entry := { ent 0x01 (1 + ofs) 2 1 fl (lon + ofs * 2 ^ 64) n with rptr := 0 }
def cF : HostCmd := io (apE (2 ^ apFirst) 0 0 4096)
def cN : HostCmd := io (apE (2 ^ apEnd) 5 4 0)
/-- Record 5 has taken 4 bytes; and a volume with as many LONs without a segment as R272 allows. -/
def goesOn : State := withRecs [rec5] apd
def limit : State := apd.modStn 2 fun t => { t with ctx := some { vol with lon := 2 ^ 24 + 5 } }
theorem ownF : appendOwn cF apd = none := by
  have h := room5
  rw [show Write.reset = (apd.stns[cF.entry.st]).write by decide +kernel, show 5 = vol.lon from rfl,
    show 4096 = cF.entry.dlen.toNat by decide +kernel] at h
  have e : appendFields cF.entry = true ∧ cF.entry.flag apFirst = true ∧ cF.entry.flag apRkey = false ∧ apd.writable cF.entry.st = true
      ∧ apd.ctxOf cF.entry = some vol ∧ (vol.recs.filter (·.isOpen)).length < 65536 := by decide +kernel
  obtain ⟨e1, e2, e3, e4, e5, e6⟩ := e
  simp [appendOwn, e1, e2, e3, e4, e5, Nat.not_le.mpr e6]
  exact h
def vol6 : VolCtx := { vol with lon := 6, recs := [rec5] }
theorem room6 : hasRoom vol6 Write.reset 5 0 = true := by
  apply room (a := 1700)
  · show (gapsFrom 0 6 []).length + 0 ≤ _
    simp [gapsFrom]
  · decide +kernel
  · decide +kernel
  · decide +kernel
theorem ownN : appendOwn cN goesOn = none := by
  have h := room6
  rw [show Write.reset = (goesOn.stns[cN.entry.st]).write by decide +kernel, show 5 = rec5.lon from rfl,
    show 0 = cN.entry.dlen.toNat by decide +kernel] at h
  have e : appendFields cN.entry = true ∧ cN.entry.flag apFirst = false ∧ goesOn.writable cN.entry.st = true ∧ goesOn.appendRec cN = some rec5
      ∧ goesOn.ctxOf cN.entry = some vol6 ∧ rec5.abandon = none ∧ rec5.port = cN.port ∧ rec5.qid = cN.qid ∧ rec5.continues cN = true := by decide +kernel
  obtain ⟨e1, e2, e4, e0, e5, e7, e8, e9, e10⟩ := e
  simp [appendOwn, e0, e1, e2, e4, e5, e7, e8, e9, e10]
  exact h
def volL : VolCtx := { vol with lon := 2 ^ 24 + 5 }
theorem roomL : hasRoom volL Write.reset (2 ^ 24 + 5) 4096 = true := by
  apply room (a := 1700)
  · show (gapsFrom 0 (2 ^ 24 + 5) []).length + 0 ≤ _
    simp [gapsFrom]
  · show (0 + (4096 + spanCharge 0 4096 [] + 85)) ≤ _
    simp [spanCharge, ceilDiv, sortBy, insertBy]
  · decide +kernel
  · decide +kernel
theorem ownL : appendOwn cF limit = none := by
  have h := roomL
  rw [show Write.reset = (limit.stns[cF.entry.st]).write by decide +kernel, show 2 ^ 24 + 5 = volL.lon from rfl,
    show 4096 = cF.entry.dlen.toNat by decide +kernel] at h
  have e : appendFields cF.entry = true ∧ cF.entry.flag apFirst = true ∧ cF.entry.flag apRkey = false ∧ limit.writable cF.entry.st = true
      ∧ limit.ctxOf cF.entry = some volL ∧ (volL.recs.filter (·.isOpen)).length < 65536 := by decide +kernel
  obtain ⟨e1, e2, e3, e4, e5, e6⟩ := e
  simp [appendOwn, e1, e2, e3, e4, e5, Nat.not_le.mpr e6]
  exact h

/-! ### Host commands -/

def cBad : HostCmd := adm (ent0 0x80 1 2 0 0 0 4096)
def fenced : State := wait9 .moving (ent0 0x05 9 0xFF 0 0 0 0) up
theorem witness_HostChecks : (Instr.identify cId).hostRow = some (0x80, cId) ∧ upq.atTurn cId = false
    ∧ (fenced.atTurn cId = true ∧ fenced.fenceHolds cId = true) ∧ (up.atTurn cBad = true ∧ up.fenceHolds cBad = false ∧ up.checks 0x80 cBad = some (.st 2)) := by decide +kernel
/-- A FIRST whose station's buffers are stabled: it fails check 4 and keeps its LON. -/
def gapped : State := apd.modStn 2 fun t => { t with stabled := true }
theorem witness_HostChecks_gap : gapped.atTurn cF = true ∧ gapped.fenceHolds cF = false ∧ (gapped.checks 1 cF).isSome = true ∧ gapped.firstBecomesGap cF = true := by decide +kernel
def recov : State := { up with rst := { up.rst with stage := .recovery } }
theorem witness_DeviceData : up.accepts 0x80 cId (identOwn cId up) ∧ up.mustWake 0x80 = false ∧ up.adminBytes 0 cId.entry ≠ [] ∧ up.rst.stage ≠ .recovery := by
  unfold State.accepts; decide +kernel
theorem witness_DeviceData_recovery : recov.accepts 0x80 cId (identOwn cId recov) ∧ recov.mustWake 0x80 = false ∧ recov.rst.stage = .recovery := by
  unfold State.accepts; decide +kernel
def cLog : HostCmd := adm (ent0 0x84 1 0xFF 0 0 1 4096)
theorem witness_DeviceData_log : up.accepts 0x84 cLog (logOwn cLog up) ∧ up.adminBytes 0 cLog.entry = [] := by unfold State.accepts; decide +kernel
/-- Station 2's pools have 8 buffers, and an IDENTIFY waits for one. -/
def asks (e : Entry) (n : Nat) : State := (wait9 .needBuffer e up).modDie 0 fun d => d.modPool 0 fun p => { p with count := n }
theorem witness_DeviceData_grant : (asks (ent 0x80 9 0xFF 0 0 0 4096) 8).mayRequest 0 5 4096 (.command 0 0 9) = true ∧ poolFor 4096 = some 0
    ∧ (asks (ent 0x80 9 0xFF 0 0 0 4096) 8).grantOutcome 0 0 5 = .granted ∧ (asks (ent 0x80 9 0xFF 0 0 0 4096) 8).adminIdle
    ∧ ((asks (ent 0x80 9 0xFF 0 0 0 4096) 8).cmd? r9).any (fun k => k.entry.opc == 0x80 && k.phase == .needBuffer) = true ∧ actingOwner 5 = true
    ∧ (asks (ent 0x80 9 0xFF 0 0 0 4096) 8).poolTurn 0 0 (.poolGrant 0 5 4096 (.command 0 0 9)) = true := by
  unfold State.adminIdle; decide +kernel
def cCr : HostCmd := adm (ent0 0x81 1 0xFF 0 0 (511 + 4096 * 2 ^ 16 + 2 * 2 ^ 32) 0)
def cDel : HostCmd := adm (ent0 0x82 1 0xFF 0 0 1 0)
def cRs : HostCmd := adm (ent0 0x83 1 0xFF 0 0 1 0)
theorem witness_QueuePairs : up.accepts 0x81 cCr (createOwn cCr up) ∧ up.accepts 0x82 cDel (deleteOwn cDel up) ∧ up.accepts 0x83 cRs (resetOwn cRs up) := by
  unfold State.accepts; decide +kernel
def cMon (slot : Nat) : HostCmd := adm (ent0 0x8E 1 0xFF 0 0 (3 * 2 ^ 16 + slot * 2 ^ 8) 0)
/-- Slot 63 of die 0 runs on VDD_CORE. -/
def monRun : State := up.modDie 0 fun d => d.modMon 63 fun m => { m with run := true, source := 0x08000000, edges := [100, 200] }
theorem witness_Monitors : up.accepts 0x8E (cMon 63) (monOwn (cMon 63) [] up) ∧ ((up.dies[(0 : DieId)]).monitors[(63 : Fin 64)]).run = false
    ∧ ((monRun.dies[(0 : DieId)]).monitors[(63 : Fin 64)]).run = true := by unfold State.accepts; decide +kernel
def cSt : HostCmd := adm (ent0 0x8A 1 0xFF 0 0 0 4096)
def cCf : HostCmd := adm (ent0 0x8B 1 0xFF 0 0 0 0)
def cRt : HostCmd := adm (ent0 0x8C 1 0xFF 0 0 (5 * 2 ^ 32) 0)
theorem witness_LedgerCommands : up.accepts 0x8A cSt (stageOwn cSt up) ∧ stageBlocked cSt up = none ∧ trial.accepts 0x8B cCf (confirmOwn cCf trial)
    ∧ trial.ledger.tstate = .running ∧ up.accepts 0x8C cRt (retireOwn cRt up) := by unfold State.accepts; decide +kernel
def cTs (k : Nat) : HostCmd := adm (ent 0x88 1 0xFF 0 0 k 0)
theorem witness_SelfTests : up.accepts 0x88 (cTs 1) (testOwn (cTs 1) up) ∧ testing.accepts 0x88 (cTs 0x0F) (testOwn (cTs 0x0F) testing)
    ∧ testing.test = some ⟨1, r9, 0x6000, 0, [], []⟩ ∧ (testing.cmd? r9).isSome = true := by unfold State.accepts; decide +kernel
def cBk (k i : Nat) : HostCmd := adm (ent0 0x91 1 0xFF 0 0 (k + i * 2 ^ 16) 0)
def blkd (k i : Nat) : State := { wait9 .moving (ent0 0x91 9 0xFF 0 0 (k + i * 2 ^ 16) 0) up with blkRst := [⟨k, 0, i, r9⟩] }
theorem witness_BlockResets : up.accepts 0x91 (cBk 0 2) (blkOwn (cBk 0 2) up) ∧ up.accepts 0x91 (cBk 1 3) (blkOwn (cBk 1 3) up)
    ∧ up.accepts 0x91 (cBk 2 0) (blkOwn (cBk 2 0) up) ∧ (blkd 0 2).blkRst[0]? = some ⟨0, 0, 2, r9⟩ ∧ ((blkd 0 2).cmd? r9).isSome = true := by
  unfold State.accepts; decide +kernel
def cPw (n : Nat) : HostCmd := adm (ent0 0x89 1 0xFF 0 0 n 0)
/-- An exit to P0 from P3 is under way. -/
def exiting : State := { up with power := { up.power with state := 3, exiting := true } }
theorem witness_PowerStates : up.accepts 0x89 (cPw 0) (powerOwn (cPw 0) up) ∧ up.accepts 0x89 (cPw 3) (powerOwn (cPw 3) up) ∧ up.power.state < 3
    ∧ exiting.power.exiting = true ∧ exiting.power.target = none := by unfold State.accepts; decide +kernel
def S2 (t : State) : Station := t.stns[(2 : Stn)]
def cMt : HostCmd := adm (ent 0x85 1 2 0 0 0 0)
def lup : State := links up
def lupH : State := lup.modStn 2 fun t => { t with servo := { t.servo with motion := .hold } }
/-- A blank mount of station 2. -/
def blank (mo : Motion) : State := (stn 2 mo .blank vol lup).modStn 2 fun t => { t with ctx := none }
def cUm : HostCmd := adm (ent0 0x86 1 2 1 1 0 0)
def cIv : HostCmd := adm (ent 0x87 1 2 1 0 (7 + 2 ^ 64 + 4 * 2 ^ 72) 0)
def keyed (s : State) : State := { s with vault := { s.vault with domains := [⟨true, List.replicate 48 7, List.replicate 32 9⟩] } }
def mounting : State := (wait9 .queued (ent 0x85 9 2 0 0 0 0) lupH).modStn 2 fun t => { t with mountCmd := some r9 }
theorem witness_Mounting : lup.mustWake cMt.entry.opc.toNat = false ∧ lup.accepts 0x85 cMt (mountOwn cMt ⟨true, false⟩ lup)
    ∧ lupH.accepts 0x85 cMt (mountOwn cMt ⟨true, false⟩ lupH) := by unfold State.accepts; decide +kernel
/-- An image whose first descriptor puts wrap 0 at `y` nm from the centreline (R237). -/
def reach (y : Int) : State := { lup with boot := { lup.boot with
  image := some { img with sections := (2, geo.take 44 ++ beBytes 4 (unsigned 32 y) ++ geo.drop 48) :: img.sections } } }
theorem witness_Mounting_reach : (reach (-20000)).accepts 0x85 cMt (mountOwn cMt ⟨true, false⟩ (reach (-20000)))
    ∧ reachable (reach (-20000)).img ((reach (-20000)).mountGeo cMt.entry) 2 (mountWraps cMt.entry ((reach (-20000)).mountGeo cMt.entry)) = true
    ∧ (reach (-20001)).accepts 0x85 cMt (mountOwn cMt ⟨true, false⟩ (reach (-20001)))
    ∧ reachable (reach (-20001)).img ((reach (-20001)).mountGeo cMt.entry) 2 (mountWraps cMt.entry ((reach (-20001)).mountGeo cMt.entry)) = false
    ∧ (S2 (reach 0)).servo.motion = .open_ ∧ (S2 (reach 0)).servo.closing = false ∧ (S2 (reach 0)).ctx = none := by unfold State.accepts; decide +kernel
theorem witness_Mounting_unmount : (blank .tensioned).accepts 0x86 cUm (unmountOwn cUm (blank .tensioned))
    ∧ (blank .moving).accepts 0x86 cUm (unmountOwn cUm (blank .moving)) ∧ ((blank .moving).stns[(2 : Stn)]).ctx = none
    ∧ (blank .hold).accepts 0x86 cUm (unmountOwn cUm (blank .hold)) := by unfold State.accepts; decide +kernel
theorem witness_Mounting_init : (keyed (blank .tensioned)).accepts 0x87 cIv (initOwn cIv (keyed (blank .tensioned)))
    ∧ (mounting.stns[(2 : Stn)]).mountCmd = some r9 ∧ (mounting.cmd? r9).any (fun k => k.entry.opc == 0x85 && k.phase == .queued) = true := by
  unfold State.accepts; decide +kernel
theorem witness_AppendTaken_first : apd.accepts 0x01 cF (appendOwn cF apd) ∧ appendBlocked cF apd = none ∧ apd.mustWake 0x01 = false
    ∧ (apd.stns[(2 : Stn)]).ctx = some vol ∧ cF.entry.flag apFirst = true ∧ apd.atLonLimit cF = false ∧ vol.rec? vol.lon = none
    ∧ breaches none 4096 false = false := by rw [ownF]; unfold State.accepts; decide +kernel
theorem witness_AppendTaken_next : goesOn.accepts 0x01 cN (appendOwn cN goesOn) ∧ appendBlocked cN goesOn = none ∧ cN.entry.flag apFirst = false
    ∧ goesOn.appendRec cN = some rec5 ∧ rec5.abandon = none ∧ breaches rec5.declared 4 true = false := by
  rw [ownN]; unfold State.accepts; decide +kernel
theorem witness_AppendTaken_limit : limit.accepts 0x01 cF (appendOwn cF limit) ∧ appendBlocked cF limit = none ∧ limit.atLonLimit cF = true := by
  rw [ownL]; unfold State.accepts; decide +kernel
def cR (o : Nat) : HostCmd := io { ent o 1 2 1 0 (if o = 6 then 2 ^ 64 else 0) (if o = 3 then 0 else 4096) with rptr := if o = 3 then 0 else 0x6000 }
def rdm (mo : Motion) : State := rdg.modStn 2 fun t => { t with servo := { t.servo with motion := mo } }
theorem witness_ReadersSeek : (rdm .tensioned).accepts 0x02 (cR 2) (readerOwn (cR 2) (rdm .tensioned)) ∧ readerBlocked (cR 2) (rdm .tensioned) = none
    ∧ (rdm .tensioned).mustWake 0x02 = false ∧ (rdm .moving).accepts 0x03 (cR 3) (readerOwn (cR 3) (rdm .moving)) ∧ vol.recs = []
    ∧ ((rdm .tensioned).stns[(2 : Stn)]).readSide.seekTo = none := by
  unfold State.accepts; decide +kernel
theorem witness_ReadersSeek_verify : (rdm .tensioned).accepts 0x06 (cR 6) (readerOwn (cR 6) (rdm .tensioned)) ∧ readerBlocked (cR 6) (rdm .tensioned) = none
    ∧ (rdm .tensioned).mustWake 0x06 = false := by unfold State.accepts; decide +kernel
def cFl : HostCmd := io (ent0 0x04 1 2 1 0 0 0)
def owed : VolCtx := { vol with lon := 6, recs := [full5] }
def closed : State := apd.modStn 2 fun t => { t with ctx := some { vol with closureBad := true } }
def owes : State := withRecs [full5] apd
theorem witness_FlushAndFence : apd.accepts 0x04 cFl (flushOwn cFl apd) ∧ apd.mustWake 0x04 = false ∧ vol.closureBad = false
    ∧ vol.report.owes vol.cover = false ∧ lostIn vol.report vol.cover = [] ∧ closed.accepts 0x04 cFl (flushOwn cFl closed) := by unfold State.accepts; decide +kernel
theorem witness_FlushAndFence_owed : owes.accepts 0x04 cFl (flushOwn cFl owes) ∧ (owes.stns[(2 : Stn)]).ctx = some owed ∧ owed.report.owes owed.cover = true
    ∧ owed.closing = .none ∧ (owes.stns[(2 : Stn)]).write.flushes = [] := by unfold State.accepts; decide +kernel
def cOf : HostCmd := io (ent0 0x05 1 0xFF 0 0 0 0)
theorem witness_FlushAndFence_fence : upq.accepts 0x05 cOf none ∧ (cmd1 apEnt .moving 5 upq).accepts 0x05 cOf none := by unfold State.accepts; decide +kernel
def cSl : HostCmd := io (ent0 0x08 8 2 1 0 0 0)
def seals : State := cmd1 apEnt .moving 5 owes
theorem witness_LongCommands_seal : seals.accepts 0x08 cSl (sealOwn cSl seals) ∧ seals.mustWake 0x08 = false ∧ seals.appendsAt 2 ≠ []
    ∧ (seals.stns[(2 : Stn)]).write.flushes = [] := by unfold State.accepts; decide +kernel
def through (x : VolState) : State := keyed ((links (stn 2 .tensioned .read { vol with state := x } upq)).modStn 3 fun t =>
  { t with mount := some ⟨2, .blank, 0, []⟩, servo := { t.servo with motion := .tensioned } })
def cMg (fl : Nat) : HostCmd := io (ent 0x07 8 2 1 fl (3 + 2 ^ 33) 0)
theorem witness_LongCommands_migrate : (through .sealed).accepts 0x07 (cMg 0) (migOwn (cMg 0) (through .sealed)) ∧ (through .sealed).mustWake 0x07 = false
    ∧ (cMg 0).entry.flag 2 = false := by unfold State.accepts; decide +kernel
theorem witness_LongCommands_unsealed : (through .unsealed).accepts 0x07 (cMg 1) (migOwn (cMg 1) (through .unsealed)) ∧ (cMg 1).entry.flag 2 = false := by
  unfold State.accepts; decide +kernel
def cSc : HostCmd := adm (ent 0x8D 1 0xFF 0 0 (2 ^ 64) 0)
def cRe : HostCmd := adm (ent0 0x8F 1 0xFF 0 0 0 0)
def cDi : HostCmd := adm (ent0 0x90 1 2 0 0 0 0)
def stb : State := (stn 2 .tensioned .append owed lup).modStn 2 fun t => { t with stabled := true }
theorem witness_LongCommands_stabled : up.accepts 0x8D cSc (scrubOwn cSc up) ∧ up.mustWake 0x8D = false ∧ stb.accepts 0x8F cRe none ∧ stb.accepts 0x90 cDi none
    ∧ stb.mustWake 0x8F = false ∧ stb.stabledStns cRe.entry = [2] ∧ (stb.stns[(2 : Stn)]).broken = false ∧ up.stabledStns cRe.entry = [] := by
  unfold State.accepts; decide +kernel
def dn (f : Bool) : Done := { opc := 5, stn := 0xFF, tag := 9, status := 0, result := 3, log := false, final := f, at_ := 0, sqhd := none, len := 0, kept := true, locks := true }
def finished (f : Bool) (n : Nat) : State := up.modPort 0 fun h => { h with qps := h.qps.map fun x => if x.id = 1 then { x with done := [dn f], cqNext := n, cqHead := 1 } else x }
theorem witness_CompletionsWritten : ((finished false 63).ports[(0 : Port)]).qp? 1 = some { Qp.fresh 1 64 0x3000 0x4000 1 with done := [dn false], cqNext := 63, cqHead := 1 }
    ∧ (((finished false 63).ports[(0 : Port)]).qp? 1).any (fun x => !x.cqFull) = true ∧ (((finished true 0).ports[(0 : Port)]).qp? 1).any (fun x => x.cqFull) = true
    ∧ (finished false 63).answers 0 = true ∧ (((finished true 3).ports[(0 : Port)]).qp? 1).any (fun x => !x.cqFull) = true
    ∧ (dn false).locks = true ∧ { dn false with locks := false }.locks = false := by decide +kernel

/-! ### Supplies, heat, the motor bus and the links -/

def dip : State := { wrt with supply := { wrt.supply with dip := true, dipNow := 7140, recov := true }, clock := 1000000 }
def hot : State := { wrt with thermal := { wrt.thermal with throt := true, cap := some 16 } }
theorem witness_DipsAndHeat_dip : 715 ≤ 715 ∧ 714 < 715 ∧ wrt.supply.dip = false ∧ (S2 wrt).write.feed = .writing ∧ dip.supply.dip = true
    ∧ dip.supply.recov = true ∧ dip.supply.dipStopped = false ∧ (S2 wrt).servo.motion = .moving := by decide +kernel
theorem witness_DipsAndHeat_heat : wrt.img.throttleC = 95 ∧ wrt.img.stopC = 105 ∧ (24319 : BitVec 16).toInt < (95 : Int) * 256 ∧ (95 : Int) * 256 ≤ (24320 : BitVec 16).toInt
    ∧ (26879 : BitVec 16).toInt < (105 : Int) * 256 ∧ (105 : Int) * 256 ≤ (26880 : BitVec 16).toInt ∧ wrt.thermal.throt = false ∧ wrt.thermal.stop = false
    ∧ wrt.thermal.cap = none ∧ hot.thermal.throt = true ∧ hot.thermal.cap = some 16 := by decide +kernel
def cap16 : State := wrt.modStn 2 fun t => { t with speed := { t.speed with busCap := some 16, busStop := true, busHeld := true } }
/-- The levels of Table 7.14, each with the readings to either side, at the BUS_SCALE of 5,000. -/
theorem witness_MotorBus : wrt.img.busWarn = 42000 ∧ wrt.img.busStop = 38000 ∧ wrt.img.busHold = 32000 ∧ wrt.img.busRecov = 44000
    ∧ 42000 ≤ wrt.img.busMv 2 2868 ∧ wrt.img.busMv 2 2867 < 42000 ∧ 38000 ≤ wrt.img.busMv 2 2595 ∧ wrt.img.busMv 2 2594 < 38000
    ∧ 32000 ≤ wrt.img.busMv 2 2185 ∧ wrt.img.busMv 2 2184 < 32000 ∧ wrt.img.busMv 2 3003 ≤ 44000 ∧ 44000 < wrt.img.busMv 2 3004
    ∧ (S2 cap16).speed.busCap = some 16 := by decide +kernel
def modL (s : State) (n : Lane) (f : LaneRx → LaneRx) : State := s.modStn 2 fun t => { t with link := { t.link with lanes := vmod t.link.lanes n f } }
def trn : State := modL wrt 5 fun l => { l with training := true, up := false }
def dwn : State := modL wrt 5 fun l => { l with up := false }
def bad (a b : Nat) : State := modL wrt 5 fun l => { l with wrongSync := a, badFec := b }
def L5 (t : State) : LaneRx := (S2 t).link.lanes[(5 : Lane)]
theorem witness_LanesAndLinks_lane : (L5 dwn).up = false ∧ (L5 (bad 2 7)).wrongSync < 3 ∧ (L5 (bad 2 7)).badFec < 8
    ∧ (L5 (bad 3 0)).up = true ∧ 3 ≤ (L5 (bad 3 0)).wrongSync ∧ (L5 (bad 0 8)).up = true ∧ 8 ≤ (L5 (bad 0 8)).badFec ∧ (L5 wrt).training = false
    ∧ (L5 trn).training = true ∧ 110 < 111 ∧ 110 ≤ 110 ∧ (L5 dwn).training = false ∧ dwn.rst.stage ≠ .held ∧ dwn.power.state < 2 := by decide +kernel
def lost : State := wrt.modStn 2 fun t => { t with link := { t.link with lost := true }, servo := { t.servo with motion := .hold } }
def msg (op tag d : Nat) : BitVec 64 := BitVec.ofNat 64 (op * 2 ^ 62 + tag * 2 ^ 56 + d)
def reqd : State := wrt.modStn 2 fun t => { t with link := { t.link with reqs := [⟨false, 5, heStatusAddr, 0, true⟩, ⟨true, 6, 0, 0, false⟩] } }
theorem witness_LanesAndLinks_link : (S2 lost).link.lost = true ∧ (S2 lost).link.atRest = true ∧ ((S2 lost).link.lanes[(0 : Fin 16)]).up = true
    ∧ (S2 lost).speed.busHeld = false ∧ (S2 wrt).link.lost = false ∧ (up.stns[(2 : Stn)]).link.atRest = false
    ∧ (S2 reqd).link.reqs.find? (fun r => r.sent && r.tag == (msg 3 5 2).extractLsb' 56 6) = some ⟨false, 5, heStatusAddr, 0, true⟩
    ∧ bits (msg 2 5 3) 62 2 ≠ 3 ∧ bits (msg 3 5 2) 62 2 = 3 ∧ (S2 reqd).link.cfgDone = true ∧ (msg 3 5 2).getLsbD 32 = false := by decide +kernel
/-- A cell-data frame on lane 5: the sync word, type 9, the first cell and the count as the frame's fields. -/
def dataBits : BitVec 5140 := BitVec.ofNat 5140 (0xF0C35 <<< (5140 - 20) ||| 9 <<< (5140 - 24) ||| 100 <<< (5140 - 64) ||| 7 <<< (5140 - 72))
def bx : State := wrt.modStn 2 fun t => { t with link := { t.link with inBox := [(true, BitVec.ofNat 208 (7 <<< 192 ||| 5)), (false, BitVec.ofNat 208 (7 <<< 192 ||| 6))] } }
theorem witness_FramesAndContainers : (L5 dwn).up = false ∧ (L5 wrt).up = true ∧ frameField dataBits 0 20 = 0xF0C35 ∧ frameField dataBits 20 4 = 9
    ∧ frameField dataBits 78 1 = 0 ∧ 1 < (5 : Lane).val ∧ (S2 wrt).link.inBox = [] ∧ (S2 wrt).servo.perNext = 0
    ∧ (S2 bx).link.inBox.find? (fun y => y.1 == true && boxField y.2 0 16 == (7 : BitVec 16).toNat) = some (true, BitVec.ofNat 208 (7 <<< 192 ||| 5)) := by
  decide +kernel
/-- The lines that bring that frame to lane 5, and one that the code cannot correct. -/
def dataLine : RxFrame := polarity (wrt.img.inverts (2 : Stn).val (5 : Lane).val true) (lineOf dataBits)
theorem read_line : wrt.received 2 5 dataLine = ⟨dataBits, some 0⟩ := wrt.received_lineOf 2 5 dataBits
theorem witness_FramesAndContainers_frame : (wrt.received 2 5 dataLine).type = 9 ∧ frameField (wrt.received 2 5 dataLine).msg 78 1 = 0 := by
  rw [read_line]; decide +kernel

/-! ### Engines and the write pipeline -/

def jw : State := apd.modDie 0 fun d => d.modEngine 1 fun e => { e with waiting := [⟨.compress 2 5, 2, 7, false, 0, none⟩, ⟨.compress 2 6, 2, 3, false, 1, none⟩] }
def fen : State := jw.modDie 0 fun d => d.modEngine 1 fun e => { e with fenced := [1], running := [(0, ⟨.compress 2 6, 2, 3, false, 1, none⟩)] }
def E1 (t : State) : Engine := (t.dies[(0 : DieId)]).engines[(1 : Fin 4)]
/-- What dispatch finds once the hash jobs of records that are gone have left. -/
def left (t : State) : State := t.dropJobs t.hashOver
theorem witness_EngineLanes : (E1 (left jw)).inReset = false ∧ (E1 (left jw)).freeLane .compression = some 0 ∧ (left jw).nextJob 0 .compression = some ⟨.compress 2 6, 2, 3, false, 1, none⟩
    ∧ (left jw).laneFor 0 .compression ⟨.compress 2 6, 2, 3, false, 1, none⟩ = some 0 ∧ (left apd).nextJob 0 .compression = none ∧ (((left { apd with ucieDown := true }).dies[(1 : DieId)]).engines[regionNum .crypto]).inReset = false ∧ laneCount .compression = 8 ∧ (E1 fen).fenced.contains 1 = true ∧ (E1 fen).fenced.contains 0 = false
    ∧ (E1 fen).fenced.any (fun n => n / groupSize .compression == 0 / groupSize .compression) = true ∧ (E1 fen).groups.contains 0 = false := by decide +kernel
theorem witness_IntakeAndBlocks_intake : (intake.cmd? ⟨0, 1, 9⟩).any (fun k => k.entry.opc == 1 && k.phase == .moving && k.entry.dlen.toNat == 4 && k.lon == 5
      && k.count == rec5.accepted) = true
    ∧ (S2 intake).ctx = some { vol with lon := 6, recs := [rec5] } ∧ intake.jobRuns 0 rHash (.hash 2 5) = true ∧ rec5.abandon = none
    ∧ (S2 intake).write.flushes = [] ∧ vol.closing = .none ∧ vol.sealCmd = none := by decide +kernel
def enc : State := (job 3 (.encrypt 2 0) (wr (fun w => { w with gaths := [gath 0 .data false false false []] }) apd)).modStn 2 fun t => { t with ctx := some { vol with gnum := 1 } }
theorem witness_IntakeAndBlocks_blocks : apd.jobRuns 0 rComp (.compress 2 5) = false ∧ emits.jobRuns 0 rComp (.compress 2 5) = true ∧ full5.abandon = none
    ∧ full5.stream.length + 131075 ≤ full5.outCap ∧ (full5.emitBlock 0).isSome = true ∧ (S2 emits).ctx = some { vol with lon := 6, recs := [full5] }
    ∧ (S2 (checks true)).ctx = some { vol with lon := 6, recs := [{ full5 with blocks := [blk5 true] }] } ∧ (blk5 true).marked = true ∧ (blk5 false).marked = false
    ∧ (blk5 false).poisoned = false ∧ dressBlock { full5 with blocks := [] } 0 true (rawBlock [1, 2, 3, 4] 0 4 true) ≠ (blk5 false).bytes
    ∧ apd.jobRuns 0 rCrypto (.encrypt 2 0) = false ∧ enc.jobRuns 0 rCrypto (.encrypt 2 0) = true := by decide +kernel
def v1 : VolCtx := { vol with gnum := 1 }
/-- The same gathering with a buffer for its C2 rows. -/
def gathC (k : GKind) : Gath := { gath 0 k true false false [] with c2Buf := some (mkHandle 2 0 1) }
def placeC : State := (wr (fun w => { w with gaths := [gathC .data] }) wrt).modStn 2 fun t => { t with ctx := some v1 }
/-- A buffer of pool 2 has been granted to the station. -/
def wrtB : State := wr (fun w => { w with bufs := [mkHandle 2 0 1] }) wrt
def place : State := (wr (fun w => { w with gaths := [gath 0 .data true false false []] }) wrt).modStn 2 fun t => { t with ctx := some v1 }
def band : State := wr (fun w => { w with toSend := [{ seq := 3, kind := .band 0, lastG := 0, slots := [], bandNo := 0, off := 0, cell := 0, graded := [] }] }) wrt
def acpt (dead : List Nat) (rc : Bool) : State := (wr (fun w => { w with gaths := [gath 0 .data true true rc dead] }) wrt).modStn 2 fun t => { t with ctx := some v1 }
theorem witness_GatheringsRecorded_place : ({ place with rst := State.reset.rst } : State).ready = false ∧ place.ready = true ∧ (S2 place).write.tailLeft = none
    ∧ (S2 place).intoReserve = false ∧ (S2 place).write.lays = true ∧ (S2 place).write.ahead < 2 ∧ (S2 place).servo.lposOk = true
    ∧ (S2 place).write.gaths.find? (fun g => !g.placed) = some (gath 0 .data true false false []) ∧ (S2 place).write.fits v1 = true
    ∧ (S2 place).write.unplaced ≠ 0 ∧ place.power.target = none ∧ (gath 0 .data true false false []).c2Buf = none
    ∧ (S2 placeC).write.gaths.find? (fun g => !g.placed) = some (gathC .data) ∧ (gathC .data).c2Buf.isSome = true ∧ (gathC .data).released = true
    ∧ (S2 placeC).write.fits v1 = true := by decide +kernel
theorem witness_GatheringsRecorded_rest : wrtB.ready = true ∧ (S2 wrtB).write.unplaced = 0 ∧ wrtB.mayClose 2 = true ∧ (S2 wrtB).write.empties < 256 ∧ (S2 wrtB).write.hasEmpty = true
    ∧ (S2 wrtB).write.feed = .writing ∧ (S2 wrtB).write.ahead < 2 ∧ (S2 wrtB).write.openSegs.any (·.inc) = false
    ∧ ((S2 band).write.toSend.find? (fun p => match p.kind with | .band _ => p.slots.isEmpty | _ => false)).isSome = true
    ∧ (S2 (acpt [] false)).write.decidable (gath 0 .data true true false []) = false ∧ (S2 (acpt [] true)).write.decidable (gath 0 .data true true true []) = true
    ∧ (gath 0 .data true true true []).passes = true ∧ (gath 0 .data true true true [1, 2, 3, 4, 5]).passes = false ∧ v1.initCmd = none ∧ v1.faulted = false
    ∧ (S2 (acpt [] true)).stabled = false ∧ (S2 (acpt [1, 2, 3, 4, 5] true)).write.decidable (gath 0 .data true true true [1, 2, 3, 4, 5]) = true := by decide +kernel
def sp (f : Speed → Speed) (s : State) : State := s.modStn 2 fun t => { t with speed := f t.speed }
/-- `n` buffers of 32 MiB that hold record input of station 2. -/
def wocc (n : Nat) (s : State) : State := s.modDie 0 fun d => d.modPool 4 fun p => { p with
  count := 300, bufs := (List.range n).map fun i => { index := i, gen := 1, owners := [5], freePend := false, withdrawn := false, holds := .input 2 5 0 33554432 } }
/-- The regimes of R133: stop, low, none, high, a ceiling below the step; and a start. -/
theorem witness_SpeedAndWriting_decision : wrt.power.target = none ∧ (S2 wrt).speed.wantSeek = false ∧ (S2 wrt).speed.stopped = false ∧ wrt.ready = true
    ∧ (S2 wrt).servo.ramp = none ∧ (S2 wrt).speed.stepping = none ∧ (S2 wrt).parityRuns = false ∧ (S2 wrt).servo.motion = .moving ∧ wrt.occupancy 2 ≤ wrt.img.stop ∧ (wocc 8 wrt).occupancy 2 ≤ img.stop
    ∧ (sp (fun x => { x with busCap := some 16 }) wrt).ceiling 2 < 20
    ∧ ¬ (wocc 9 wrt).occupancy 2 ≤ img.stop ∧ (wocc 64 wrt).occupancy 2 ≤ img.low ∧ (wocc 64 wrt).floor 2 < 20
    ∧ img.high ≤ (wocc 192 wrt).occupancy 2 ∧ 20 < wrt.ceiling 2 ∧ img.low < (wocc 65 wrt).occupancy 2
    ∧ (wocc 191 wrt).occupancy 2 < img.high := by decide +kernel
theorem witness_SpeedAndWriting_start : (S2 (wocc 128 apd)).speed.stopped = true ∧ (wocc 128 apd).mayStart 2 = true
    ∧ img.restart ≤ (wocc 128 apd).occupancy 2 ∧ (S2 (wocc 128 apd)).servo.motion = .tensioned ∧ (S2 (wocc 128 apd)).write.wrapOver = false
    ∧ (S2 (wocc 128 apd)).write.empties < 256 := by decide +kernel
def step21 : State := sp (fun x => { x with stepping := some 21 }) (wr (fun w => { w with feed := .runOut }) wrt)
def res (c : Nat) : State := wr (fun w => { w with feed := .resume, cellPos := c, dead := 5 }) wrt
theorem witness_SpeedAndWriting_writing : (S2 step21).speed.stepping = some 21 ∧ (S2 step21).servo.settled = true ∧ (S2 step21).write.feed = .runOut ∧ step21.mayResume = true ∧ (S2 step21).write.wrapOver = false ∧ (S2 step21).servo.ramp = none
    ∧ (S2 step21).servo.setStep ≤ step21.ceiling 2 ∧ (S2 wrt).speed.stopping = false ∧ (S2 (sp (fun x => { x with stopping := true }) wrt)).speed.stopping = true
    ∧ (S2 wrt).servo.speedMm < 1000 ∧ (S2 (res 9)).write.feed = .resume ∧ (S2 (res 9)).write.cellPos ≠ 0 ∧ (S2 (res 9)).servo.back = none ∧ (S2 (res 9)).servo.lposOk = true ∧ (S2 (srv (fun v => { v with lposOk := false }) (res 0))).servo.lposOk = false ∧ (S2 (srv (fun v => { v with lposOk := false }) (res 9))).servo.lposOk = false ∧ (S2 (res 9)).servo.reverse = ((S2 (res 9)).write.wrap % 2 == 1) ∧ (res 9).mayResume = true ∧ (S2 (res 0)).write.cellPos = 0
    ∧ (S2 apd).servo.motion ≠ .moving ∧ (S2 wrt).ctx = some vol ∧ vol.closing = .none ∧ (S2 wrt).write.flushes = [] ∧ (S2 wrt).write.wrap + 1 < geoWraps vol.geo ∧ geoWraps vol.geo ≤ 159 + 1 ∧ (39 + 1) / max (geoWpb vol.geo) 1 ≠ (S2 wrt).servo.dataBand ∧ vol.faulted = false := by decide +kernel

/-! ### Reading, the servo, buffer memory and the package -/

def gd (k : GKind) : State := band4 (reading fun r => { r with gaths := [rg 7 k] })
def qd1 (g : RGath) : State := reading fun r => { r with gaths := [g] }
def bad7 : RGath := { rgA 7 with whole := true }
def opn : RGath := { rgA 7 with area := some (zeros 3840) }
theorem witness_GatheringsRead_active : (S2 (gd .data)).readSide.active = true ∧ (S2 (gd .data)).readSide.ended = false ∧ (S2 (gd .data)).readSide.reread = false
    ∧ (gd .data).readersOf 2 = [] ∧ (gd .data).migOf 2 = none := by decide +kernel
theorem witness_GatheringsRead_gath (k : GKind) : (S2 (gd k)).readSide.gath? 7 = some (rg 7 k) ∧ (rg 7 k).area = none ∧ (rg 7 k).whole = false ∧ (rg 7 k).unrec = false
    ∧ (S2 (gd k)).gathDue (rg 7 k) = true := by cases k <;> decide +kernel
theorem witness_GatheringsRead_decrypt : (qd1 bad7).jobRuns 0 rCrypto (.decrypt 2 7) = false ∧ (job 3 (.decrypt 2 7) (qd1 opn)).jobRuns 0 rCrypto (.decrypt 2 7) = true
    ∧ (S2 (qd1 opn)).readSide.gath? 7 = some opn ∧ opn.kind = .data ∧ opn.tagTried = false := by decide +kernel
theorem witness_GatheringsRead_c2 : (rg 7 .data).afterC2.2 ≠ [] := by decide +kernel
theorem witness_GatheringsRead_opens : opn.opens [] = none := by decide +kernel
def rdC : Entry := ent 0x02 9 2 1 0 0 4096
def dec : State := job 2 (.decompress 2 0) (cmd1 rdC .moving 0 (reading fun r => { r with ended := true, gaths := [] }))
def rer : State := reading fun r => { r with reread := true, gaths := [{ bad7 with pass := 1 }] }
def reb : State := cmd1 (ent 0x85 9 2 0 1 0 0) .rebuilding 0 ((reading fun r => { r with gaths := [] }).modStn 2 fun t => { t with mountCmd := some ⟨0, 1, 9⟩, ctx := some vol })
theorem witness_RecordsRead : (qd1 bad7).jobRuns 0 rDecomp (.decompress 2 0) = false ∧ dec.jobRuns 0 rDecomp (.decompress 2 0) = true
    ∧ (dec.readersOf 2).map (·.1) = [⟨0, 1, 9⟩] ∧ (dec.cmd? ⟨0, 1, 9⟩).any (fun k => k.entry == rdC) = true ∧ rdC.opc = 2 ∧ rdC.cd 0 8 = 0
    ∧ (S2 rer).readSide.active = true ∧ (S2 rer).readSide.reread = true ∧ (rer.mountIn 2 .readEndpaper).isNone = true ∧ (rer.mountIn 2 .rebuilding).isNone = true
    ∧ (reb.mountIn 2 .rebuilding).isSome = true ∧ (S2 reb).readSide.reread = false ∧ (S2 reb).readSide.gaths = [] := by decide +kernel
theorem witness_RecordsRead_rebuild : (((S2 reb).readSide.trim vol).labels .colophon).isEmpty = true := by decide +kernel
theorem witness_RecordsRead_rebuild2 : ((((S2 reb).readSide.trim vol).judged (((S2 reb).readSide.trim vol).restore vol)).any fun g => !g.acceptable) = false
    ∧ ((S2 reb).readSide.trim vol).firstBreak none 0 = none := by decide +kernel
/-- Two gatherings with a payload, the second with another value in PREV than the chain has. -/
def reb2 : State := reb.modStn 2 fun t => { t with readSide := { t.readSide with gaths := [{ rgA 0 with plain := some [] },
  { rgA 1 with area := some (zeros 0x84), plain := some [], slot := some (1, 0), ord := 1 }] } }
theorem witness_RecordsRead_break : (reb2.mountIn 2 .rebuilding).any (fun x => !x.2.poisoned) = true ∧ (S2 reb2).ctx = some vol ∧ (S2 reb2).readSide.reread = false
    ∧ (S2 reb2).readSide.gaths.any RGath.undecided = false ∧ (((S2 reb2).readSide.trim vol).labels .colophon).isEmpty = true
    ∧ (((S2 reb2).readSide.trim vol).firstBreak none (((S2 reb2).readSide.trim vol).gaths.foldl (fun a g => max a g.gnum) 0)).isSome = true
    ∧ (S2 reb).readSide.gaths.any RGath.undecided = false := by decide +kernel
theorem witness_RecordsRead_hand : (hand.migOf 2).any (fun j => j.phase == 3 && j.cmd.isSome && j.dst == 3) = true ∧ (S2 hand).ctx.isSome = true
    ∧ (hand.stns[(3 : Stn)]).ctx = some vol ∧ vol.rec? 5 = none ∧ (S2 hand).readSide.decoded.contains 5 = true ∧ (S2 hand).readSide.ended = false := by decide +kernel
theorem witness_RecordsRead_hand2 : (S2 hand).readSide.settled 5 = true ∧ ((S2 hand).readSide.found 5).gaths ≠ [] ∧ (S2 hand).readSide.inFlight 5 false = none := by decide +kernel
def sentP : TxPos := { seq := 3, kind := .gathering 0 .data 2, lastG := 0, slots := [], bandNo := 0, off := 0, cell := 0, graded := [] }
def sent : State := wr (fun w => { w with sent := [sentP], gaths := [gath 0 .data true true true []] }) wrt
def rr : RetryRow := { pos := 3, track := 5, peak := ⟨5120, none⟩, raw := [], sync := true, hdrOk := false, tries := 0, verify := false, back := none }
def retr : State := apd.modStn 2 fun t => { t with link := { t.link with retry := [rr] } }
theorem witness_RowsGraded : (S2 apd).write.sent = [] ∧ (S2 apd).readSide.active = false ∧ (S2 sent).write.sent.find? (fun q => q.seq == 3) = some sentP
    ∧ (S2 sent).link.rx = [] ∧ (S2 apd).link.retry = [] ∧ (S2 retr).link.retry = [rr] := by decide +kernel
def noX : State := srv (fun v => { v with crossings := [] }) lat
/-- LOOPS with MISS_WINH 4 and MISS_STOP 256 (Table 11.19). -/
def missImg : Image := { img with sections := (3, zeros 0x10 ++ (List.range 8).flatMap (fun _ => leBytes 4 0x30) ++ zeros 0x0E ++ leBytes 2 500 ++ leBytes 2 4 ++ leBytes 2 256) :: img.sections }
theorem witness_LateralLoop : (S2 up).servo.motion = .open_ ∧ (S2 lat).servo.motion = .moving ∧ (S2 lat).servo.within = 15 ∧ (S2 lat).servo.inhibit = true
    ∧ missImg.missWinh 2 = 4 ∧ missImg.missStop 2 = 256 ∧ (S2 lat).servo.missSrv = 3 ∧ (S2 (srv (fun v => { v with missSrv := 4 }) wrt)).servo.missSrv = 4
    ∧ (S2 wrt).write.feed = .writing ∧ (S2 (srv (fun v => { v with missSrv := 256 }) wrt)).servo.missSrv = 256 ∧ (S2 wrt).servo.motion = .moving
    ∧ (S2 (srv (fun v => { v with within := 256 }) wrt)).servo.within = 256 := by decide +kernel
theorem witness_LateralLoop_none : (S2 noX).servo.frames noX.draw.1 = (none, none) := by decide +kernel
/-- A station whose readers have left for data band 1, seen by both readers or by reader 0 alone. -/
def skg (both : Bool) (q : Seek) : State := srv (fun v => { v with crossings := if both then frame0 ++ frame0.map (fun x => (true, x.2)) else frame0, seek := some q }) lat
theorem witness_LateralLoop_seek : ((S2 (skg true ⟨1, false, true, [], 0⟩)).servo.frames (skg true ⟨1, false, true, [], 0⟩).draw.1).1.isSome = true
    ∧ ((S2 (skg true ⟨1, false, true, [], 0⟩)).servo.frames (skg true ⟨1, false, true, [], 0⟩).draw.1).2.isSome = true
    ∧ ((S2 (skg false ⟨1, false, true, [], 0⟩)).servo.frames (skg false ⟨1, false, true, [], 0⟩).draw.1).2 = none
    ∧ (S2 (skg true ⟨1, false, true, [], 0⟩)).servo.seek = some ⟨1, false, true, [], 0⟩ ∧ (S2 (skg true ⟨1, false, true, [], 0⟩)).servo.motion = .moving
    ∧ (S2 lat).servo.seek = none := by decide +kernel
/-- R238: wrap 40 of the L1 lies in data band 1. -/
theorem test_band_change : ((apd.aim 2 40 0).stns[(2 : Stn)]).servo.seek = some ⟨1, false, false, [], 0⟩ ∧ ((apd.aim 2 40 0).stns[(2 : Stn)]).servo.lposOk = false
    ∧ ((apd.aim 2 39 0).stns[(2 : Stn)]).servo.seek = none := by decide +kernel
theorem witness_LateralLoop_some : ((S2 lat).servo.frames lat.draw.1).1.isSome = true := by decide +kernel
def kap : State := srv (fun v => { v with missSrv := 0, ends := [2, 1, 0], radS := 10, radT := 10 }) lat
def swp : State := srv (fun v => { v with lateral := { v.lateral with swap := true, banks := #v[[1], [2]] }, aux := { v.aux with swap := true } }) lat
theorem witness_ReelAndBanks : (S2 up).men = true ∧ (S2 lat).men = false ∧ (S2 lat).link.lost = false ∧ (S2 lat).servo.missReel < 8
    ∧ (S2 lat).servo.motion ≠ .hold ∧ (S2 (srv (fun v => { v with missReel := 8 }) lat)).servo.missReel = 8 ∧ (S2 (srv (fun v => { v with lastBox := 1 }) lat)).servo.lastBox ≠ 0
    ∧ 0 < (S2 lat).servo.missSrv ∧ (S2 kap).servo.missSrv = 0 ∧ 3 ≤ (S2 kap).servo.ends.length ∧ 500 ≤ (S2 kap).servo.speedMm ∧ (S2 swp).servo.lateral.swap = true := by
  decide +kernel
def l48 : State := srv (fun v => { v with lposBits := List.replicate 48 true, lposOk := true, lpos := 99 }) lat
def clo : State := srv (fun v => { v with closing := true, motion := .open_ }) apd
theorem witness_LposAndRamps : lat.power.target = none ∧ (S2 lat).servo.lposBits.length ≠ 48 ∧ (S2 l48).servo.lposBits.length = 48 ∧ (S2 l48).write.flushes = [] ∧ (S2 l48).servo.lposOk = true
    ∧ (S2 lat).servo.lposMiss < 3 ∧ (S2 lat).servo.missSrv < 256 ∧ (S2 (srv (fun v => { v with lposMiss := 3 }) l48)).servo.lposMiss = 3
    ∧ (S2 (srv (fun v => { v with missSrv := 256 }) l48)).servo.missSrv = 256 ∧ (S2 lat).servo.ramp = none
    ∧ (S2 (srv (fun v => { v with ramp := some (.tension, 0) }) lat)).servo.ramp = some (.tension, 0) ∧ (S2 stopped7).servo.ramp = some (.stop, 0)
    ∧ (S2 stopped7).mountCmd = none ∧ (S2 stopped7).mount.isSome = true ∧ (S2 stopped7).speed.wantSeek = false
    ∧ (S2 (srv (fun v => { v with ramp := some (.start, 8000) }) lat)).servo.ramp = some (.start, 8000) ∧ lat.readersOf 2 = [] ∧ (S2 lat).servo.closing = false
    ∧ (S2 clo).servo.closing = true ∧ (S2 clo).servo.motion ≠ .hold ∧ (S2 (thr9 .threading)).servo.motion ≠ .hold ∧ (S2 (thr9 .threading)).mountCmd = some ⟨0, 1, 9⟩ ∧ (S2 (thr9 .threading)).servo.closing = true
    ∧ ((thr9 .threading).cmd? ⟨0, 1, 9⟩).any (·.phase == .threading) = true := by decide +kernel
def none0 : State := up.modDie 0 fun d => d.modPool 0 fun p => { p with count := 0 }
def resd : State := { wait9 .needBuffer (ent 0x80 9 0xFF 0 0 0 4096) none0 with
  boot := { up.boot with image := some { img with sections := [(5, (List.range 10).flatMap fun _ => leBytes 4 8 ++ List.replicate 60 1), (12, thr)] } } }
def die0 (s : State) : Die := s.dies[(0 : DieId)]
theorem witness_PoolOperations_grant : poolFor 33554433 = none ∧ poolFor 4096 = some 0 ∧ (pooled []).grantOutcome 0 0 5 = .granted ∧ none0.grantOutcome 0 0 5 = .none
    ∧ resd.grantOutcome 0 0 1 = .refused ∧ (resd.cmd? ⟨0, 0, 9⟩).isSome = true ∧ (pooled []).adminIdle
    ∧ actingOwner 5 = true ∧ actingOwner 16 = false ∧ (pooled []).poolTurn 0 0 (.poolGrant 0 5 4096 .other) = true
    ∧ ({ pooled [] with pending := [.poolRelease 0 5 h3] } : State).poolTurn 0 0 (.poolGrant 0 5 4096 .other) = false := by unfold State.adminIdle; decide +kernel
theorem witness_PoolOperations_misuse : (addMisuse (die0 (pooled [buf3 [5, 6]])) 5 h3 6).isSome = true ∧ (releaseMisuse (die0 (pooled [buf3 [6, 5]])) 5 h3).isSome = true
    ∧ (freeMisuse (die0 (pooled [buf3 [5, 6]])) 5 h3).isSome = true := by decide +kernel
theorem witness_PoolOperations_owners : addMisuse (die0 (pooled [buf3 [5]])) 5 h3 6 = none ∧ releaseMisuse (die0 (pooled [buf3 [5, 6]])) 5 h3 = none
    ∧ (buf3 [5, 6]).owners.filter (· != 5) ≠ [] ∧ freeMisuse (die0 (pooled [buf3 [6, 5]])) 5 h3 = none ∧ freeMisuse (die0 (pooled [buf3 [5]])) 5 h3 = none
    ∧ (die0 (pooled [buf3 [6, 5]])).bufOf h3 = buf3 [6, 5] ∧ ((die0 (pooled [buf3 [5]])).pools[fin5 (hPool h3)]).due = 0
    ∧ (pooled [buf3 [5]]).poolTurn 0 (fin5 (hPool h3)) (.poolAdd 0 5 h3 6) = true ∧ (pooled [buf3 [5, 6]]).poolTurn 0 (fin5 (hPool h3)) (.poolRelease 0 5 h3) = true
    ∧ (pooled [buf3 [5]]).poolTurn 0 (fin5 (hPool h3)) (.poolFree 0 5 h3) = true ∧ ((die0 (pooled [buf3 [5]])).pools[fin5 (hPool h3)]).waits = []
    ∧ ((die0 (pooled [buf3 [5]])).pools[fin5 (hPool h3)]).bufs.Pairwise (fun a b => a.index < b.index) := by decide +kernel
theorem witness_PagesReadAndWritten : pg.exists = true ∧ pgP.exists = true ∧ Memory.wf up.mem = true ∧ up.staleAccess pgP h3 = true ∧ up.staleAccess pg 9 = false
    ∧ (up.page pg).poison = 0 ∧ up.nameAt (up.redirect pg) = pg.name ∧ up.nameAt ⟨0, .trace, 8⟩ ≠ pg.name ∧ (up.decodePage pg ⟨[], some ⟨0, .trace, 8⟩⟩).1.bad = true
    ∧ 33024 + 16 * up.img.pageT - 1 < 33024 + 16 * up.img.pageT ∧ 1 ≤ up.img.pageT ∧ (List.replicate 64 (7 : BitVec 512)).length = 64 ∧ 62 + (List.replicate 2 (7 : BitVec 512)).length ≤ 64 := by
  decide +kernel
theorem witness_PagesScrubbed : (up.hbm[(0 : Fin 4)]).wbs = [] ∧ ((wback 1).hbm[(0 : Fin 4)]).wbs = [⟨pg, 1, 3, 2, 0, 0⟩] ∧ ((wback 1).page pg).wgen ≠ 1 ∧ ((wback 0).page pg).wgen = 0
    ∧ ({ up with power := { up.power with state := 3 } } : State).power.state = 3 ∧ up.img.patrolH ≠ 0 ∧ up.power.state ≠ 3
    ∧ (die0 up).scrub = none ∧ (die0 (scr 2)).scrub.any (fun j => j.left == 2) = true ∧ (die0 (scr 1)).scrub.any (fun j => j.left == 1) = true ∧ ((scr 1).cmd? r9).any (fun k => !k.poisoned) = true
    ∧ up.scrubFirst (patrolPage 0 (up.hbm[(0 : Fin 4)]).patrol) = false ∧ (scr 2).scrubFirst (patrolPage 0 ((scr 2).hbm[(0 : Fin 4)]).patrol) = true
    ∧ (up.decodePage (up.serves (patrolPage 0 (up.hbm[(0 : Fin 4)]).patrol)) .clean).1 = .clean ∧ ((die0 (scr 2)).scrub.any fun j => ((scr 2).decodePage (dpnPage 0 j.next) .clean).1 == .clean) = true
    ∧ ((die0 (scr 2)).scrub.any fun j => ((scr 2).decodePage ((scr 2).serves (dpnPage 0 j.next)) .clean).1 == .clean) = true
    ∧ (∀ n : Fin 4, ((scr 1).hbm[n]).wbs = []) ∧ (((scr 1).modStack 0 fun x => { x with wbs := [⟨pg, 0, 3, 3, 0, 0⟩] }).hbm[(0 : Fin 4)]).wbs = [⟨pg, 0, 3, 3, 0, 0⟩]
    ∧ dieOfStack pg.stack = 0 := by
  decide +kernel
def cls1 : BitVec 144 := storeEncode (BitVec.ofNat 128 (1 <<< 120 ||| 5 <<< 107))
def store2 (w : BitVec 144) : Store := (store 2 w).stores[(2 : Fin 10)]
theorem witness_SequencersAndFaults : (up.stores[(2 : Fin 10)]).words.isEmpty = true ∧ (store2 cls1).words.isEmpty = false ∧ (store2 cls1).halted = none
    ∧ (match (store2 cls1).fetch false 0 with | .ok (a, m) => a == 5 && m == 0 | _ => false) = true
    ∧ (match (store2 cls1).fetch false 8 with | .ok (a, m) => a == 5 && m != 0 | _ => false) = true
    ∧ (match (store2 0).fetch false 0 with | .error h => h == .haltWord | _ => false) = true
    ∧ (up.hbm[(3 : Fin 4)]).lost = false ∧ (up.modStack 3 fun x => { x with lost := true }).hbm[(3 : Fin 4)].lost = true ∧ up.ucieDown = false
    ∧ ({ up with ucieDown := true } : State).ucieDown = true := by decide +kernel

theorem filter_zip {b : List (Option Nat)} (i : Nat) (h : none ∈ b) : (b.zipIdx i).filter (fun x => x.1.isNone) ≠ [] := by
  induction b generalizing i with
  | nil => cases h
  | cons x r ih =>
    cases x with
    | none => simp [List.zipIdx_cons]
    | some y => simpa [List.zipIdx_cons] using ih (i + 1) (by simpa using h)
theorem unclear (g : RGath) (b : List (Option Nat)) (h : none ∈ b) : ((g.afterC3 b).recheck).clear = false := by
  have e : (g.afterC3 b).erased ≠ [] := by simpa [RGath.afterC3] using filter_zip 0 h
  unfold RGath.recheck
  rw [if_neg (by simpa using e)]
  simp [RGath.clear, e]
theorem fix0 (w : List (Option Nat)) (h : none ∈ w) : c3Fix 0 w = w := by
  have e := filter_zip 0 h
  unfold c3Fix
  simp only
  rw [if_pos]
  right
  simpa [List.length_pos_iff] using e
theorem none_left (m : List (Nat × RGath)) (n : Nat) (g : RGath) (hn : 0 < n) (hm : m.find? (fun x => x.1 == 0) = some (0, g)) (hg : g.cells = Array.replicate areaBytes none) :
    none ∈ (c3Quire 0 n m).getD 0 [] := by
  unfold c3Quire
  have hp : 0 < areaBytes := by decide
  have hb : (0 : Nat) ∈ List.range areaBytes := by simp [hp]
  refine (?_ : none ∈ (List.map _ (List.range (32 + 0))).getD 0 [])
  simp only [show (List.range (32 + 0)) = 0 :: (List.range 31).map (· + 1) by decide, List.map_cons, List.getD_cons_zero, List.map_map, List.mem_map, List.mem_range]
  refine ⟨0, hp, ?_⟩
  show (c3Fix 0 _).getD 0 none = none
  rw [fix0]
  · simp [hm, hg, Nat.ne_of_gt hn, hp]
  · simp [hm, hg, Nat.ne_of_gt hn, hp]
/-- A volume without parity, of whose first group, with two data gatherings, the first is erased as a whole and the second was not read. -/
def vol0 : VolCtx := { vol with parity := 0, quires := [⟨0, none, none, 250000, 2, 0, 0⟩] }
def rec0 (n : Nat) : Recall := { Recall.reset with active := true, gaths := [bad7], c3Done := [1], pass := n }
def qd0 (n : Nat) : State := (qd1 bad7).modStn 2 fun t => { t with ctx := some vol0, link := { t.link with rxOrd := 2 }, readSide := rec0 n }
def gone8 : RGath := { RGath.fresh 8 .data with whole := true, slot := some (1, 0), ord := 1 }
theorem missing0 (n : Nat) : (rec0 n).addMissing vol0 0 = { rec0 n with gaths := [bad7, gone8] } := by
  unfold Recall.addMissing
  rw [show (rec0 n).groupOf vol0 0 = some ⟨0, 0, 2, true, [⟨0, 0, 7⟩]⟩ by rfl]
  rfl
/-- What C3 makes of the first: it stays erased. -/
theorem mended0 (n : Nat) : ∃ A e es, ({ rec0 n with gaths := [bad7, gone8] } : Recall).mended vol0 0 = [{ bad7 with area := some A, whole := false, erased := e :: es }] := by
  have x := none_left [(0, bad7)] 1 bad7 (by decide) rfl (by unfold RGath.cells; rfl)
  have u : (bad7.afterC3 ((c3Quire 0 1 [(0, bad7)]).getD 0 [])).erased ≠ [] := by simpa [RGath.afterC3] using filter_zip 0 x
  have m : ({ rec0 n with gaths := [bad7, gone8] } : Recall).members vol0 0 = [(0, bad7)] := rfl
  have d : ({ rec0 n with gaths := [bad7, gone8] } : Recall).dataOf vol0 0 = 1 := by
    unfold Recall.dataOf
    rw [show ({ rec0 n with gaths := [bad7, gone8] } : Recall).groupOf vol0 0 = some ⟨0, 0, 2, true, [⟨0, 0, 7⟩, ⟨1, 1, 8⟩]⟩ by rfl]
    decide
  obtain ⟨e, es, h⟩ := List.exists_cons_of_ne_nil u
  refine ⟨((c3Quire 0 1 [(0, bad7)]).getD 0 []).map fun x => BitVec.ofNat 8 (x.getD 0), e, es, ?_⟩
  unfold Recall.mended
  rw [m, d, show vol0.parity = 0 from rfl]
  simp only [List.filterMap_cons, List.filterMap_nil, show bad7.erasedStill = true from rfl, if_true]
  unfold RGath.recheck
  rw [if_neg (by simpa using u)]
  rw [← h]
  generalize (c3Quire 0 1 [(0, bad7)]).getD 0 [] = b
  rfl
theorem witness_GatheringsRead_quire : (S2 (qd0 0)).quireDue vol0 0 = true ∧ (S2 (qd0 0)).ctx = some vol0 ∧ (S2 (qd0 0)).readSide.ended = false
    ∧ (qd0 0).readersOf 2 = [] ∧ (qd0 0).migOf 2 = none ∧ (rec0 1).pass < img.rereadMax ∧ img.rereadMax ≤ (rec0 2).pass := by decide +kernel
theorem witness_GatheringsRead_unclear (n : Nat) :
    let k := (rec0 n).addMissing vol0 0
    let f := k.mended vol0 0
    let k1 : Recall := { f.foldl (fun a g => a.modGath g.gnum fun _ => g) k with c3Done := 0 :: k.c3Done.filter (· != 0) }
    (∀ g ∈ f, ∀ x ∈ f, x.gnum = g.gnum → x = g) ∧ f ≠ [] ∧
    ∃ x, k1.groupOf vol0 0 = some x ∧
      let l := (k1.inGroup vol0 x).filter fun g => g.kind == .data && g.plain.isNone && !g.unrec
      l ≠ [] ∧ ∀ g ∈ l, g.erasedStill = true ∧ (k1.slotOf vol0 g).any (fun q => k1.c3Done.contains q.1) = true := by
  obtain ⟨A, e, es, h⟩ := mended0 n
  rw [missing0]
  simp only [h]
  refine ⟨by simp, by simp, ⟨0, 0, 2, true, [⟨0, 0, 7⟩, ⟨1, 1, 8⟩]⟩, by rfl, ?_⟩
  show (_ :: [gone8] ≠ []) ∧ ∀ g ∈ _ :: [gone8], _
  exact ⟨by simp, by rintro g (_ | ⟨_, _ | ⟨_, ⟨⟩⟩⟩) <;> exact ⟨rfl, rfl⟩⟩
/-- A gathering whose tag passes under the key of zeros (AES-256-GCM over 84 bytes of associated data, all zero). -/
def opens7 : RGath := { rgA 7 with area := some (zeros 0x44 ++ [121, 124, 157, 129, 29, 59, 41, 69, 206, 210, 48, 242, 22, 70, 190, 248]) }
def keyed0 : State := let s := job 3 (.decrypt 2 7) (qd1 opens7); { s with vault := { s.vault with slots := vmod s.vault.slots 2 fun _ => some (zeros 32) } }
theorem witness_GatheringsRead_opens_some : opens7.opens ((keyed0.vault.slots)[(2 : Stn)].getD []) = some [] ∧ keyed0.jobRuns 0 rCrypto (.decrypt 2 7) = true
    ∧ (keyed0.mountIn 2 .readEndpaper).isNone = true ∧ (S2 keyed0).readSide.gath? 7 = some opens7 := by decide +kernel

/-! ### Clauses with a case of their own -/

/-- A message of zeros with these parity symbols has the syndromes 1, 0, 0 and so on: no 15 errors give them. -/
def odd30 : List Nat := [1010, 75, 873, 935, 759, 469, 551, 443, 576, 64, 548, 492, 177, 304, 900, 924, 1013, 882, 914, 5, 685, 278, 817, 778,
  830, 1002, 201, 641, 15, 410]
def oddLine : BitVec 5440 := BitVec.ofNat 5440 (symbolBits odd30)
theorem mul_zero_left (f : GF) (b : Nat) : f.mul 0 b = 0 := by
  unfold GF.mul
  have h : f.xtime 0 = 0 := by simp [GF.xtime]
  generalize List.range f.size = l
  induction l with
  | nil => rfl
  | cons _ _ ih => simpa [h] using ih
theorem foldl_zeros {α : Type} (f : α → Nat → α) (a : α) (h : f a 0 = a) (n : Nat) : (List.replicate n 0).foldl f a = a := by
  induction n with
  | zero => rfl
  | succ _ ih => rw [List.replicate_succ, List.foldl_cons, h, ih]
theorem odd_syndromes : rsSyndromes gf10 2 30 (List.replicate 514 0 ++ odd30) = 1 :: List.replicate 29 0 := by
  have h (x : Nat) := foldl_zeros (fun acc c => gf10.mul acc x ^^^ c) 0 (by simp [mul_zero_left]) 514
  have e : rsSyndromes gf10 2 30 (List.replicate 514 0 ++ odd30) = rsSyndromes gf10 2 30 odd30 := by
    simp only [rsSyndromes, List.foldl_append, h]
  rw [e]; decide +kernel
theorem zero_parity : rsParity gf10 frameGen (List.replicate 514 0) = List.replicate 30 0 := by
  have e : frameGen.length - 1 = 30 := by decide +kernel
  have h : List.zipWith (fun s g => s ^^^ gf10.mul 0 g) ((List.replicate 30 0).drop 1 ++ [0]) (frameGen.take 30).reverse = List.replicate 30 0 := by
    simp only [mul_zero_left]
    decide +kernel
  unfold rsParity
  simp only [e]
  exact foldl_zeros _ _ h 514
/-- The decoder answers none where the locator has the length 1 and no root. -/
theorem rsDecode_none (f : GF) (a r limit : Nat) (w : List Nat) (h : rsMassey f r (rsSyndromes f a r w) 0 (rsLocator f a []) = ([1, 0], 1)) :
    rsDecode f a r limit w [] = none := by
  have e (x : Nat) : f.eval [1, 0] x = 1 := by simp [GF.eval, mul_zero_left]
  have d : polyDeg [1, 0] = 0 := rfl
  simp [rsDecode, h, e, d]
theorem odd_w : frameSymbols oddLine = List.replicate 514 0 ++ odd30 := by decide +kernel
theorem odd_z : frameSymbols (oddLine.extractLsb' 300 5140) = List.replicate 514 0 := by decide +kernel
theorem odd_m : rsMassey gf10 30 (1 :: List.replicate 29 0) 0 (rsLocator gf10 2 []) = ([1, 0], 1) := by decide +kernel
theorem odd_ne : oddLine.extractLsb' 300 5140 ++ BitVec.ofNat 300 (symbolBits (List.replicate 30 0)) ≠ oddLine := by decide +kernel
theorem lineDecode_none (x : BitVec 5440) (h : lineOf (x.extractLsb' 300 5140) ≠ x) (d : rsDecode gf10 2 30 15 (frameSymbols x) [] = none) : lineDecode x = none := by
  simp [lineDecode, h, d]
theorem odd_not : lineOf (oddLine.extractLsb' 300 5140) ≠ oddLine := by
  unfold lineOf
  rw [odd_z, zero_parity]
  exact odd_ne
theorem odd_none : rsDecode gf10 2 30 15 (frameSymbols oddLine) [] = none := by
  rw [odd_w]
  apply rsDecode_none
  rw [odd_syndromes]
  exact odd_m
theorem odd_line : lineDecode oddLine = none := lineDecode_none _ odd_not odd_none
theorem received_none (s : State) (st : Stn) (lane : Lane) (x : RxFrame) (h : lineDecode x = none) :
    (s.received st lane (polarity (s.img.inverts st.val lane.val true) x)).fix = none := by
  simp [State.received, polarity_polarity, h]
theorem witness_FramesAndContainers_uncorrectable : (wrt.received 2 5 (polarity (wrt.img.inverts (2 : Stn).val (5 : Lane).val true) oddLine)).fix = none :=
  received_none _ _ _ _ odd_line
/-- Record 5 whose only block is to be emitted again, by the job that runs on lane 0; its block a raw one, which is unmarked. -/
def redo5 : Rec := { full5 with blocks := [blk5 false], redo := some 0 }
def reruns : State := job 1 (.compress 2 5) (withRecs [redo5] apd)
def raw5 : Block := { blk5 false with bytes := dressBlock { full5 with blocks := [] } 0 true (rawBlock [1, 2, 3, 4] 0 4 true) }
theorem witness_IntakeAndBlocks_redo : redo5.redo = some 0 ∧ ((reruns.dies[dieOf 2]).engines[rComp]).laneOf (.compress 2 5) = some 0
    ∧ (emits.dies[dieOf 2]).engines[rComp].laneOf (.compress 2 5) = some 0 ∧ full5.redo = none ∧ full5.emitted 0 = true ∧ redo5.emitted 0 = false
    ∧ (S2 reruns).ctx = some { vol with lon := 6, recs := [redo5] } := by decide +kernel
theorem witness_IntakeAndBlocks_rawFails : raw5.bytes = dressBlock { { full5 with blocks := [raw5] } with blocks := [] } raw5.start raw5.last (rawBlock full5.input raw5.start (raw5.start + raw5.len) raw5.last)
    ∧ raw5.lane < 8 ∧ raw5.marked = false ∧ ((apd.dies[dieOf 2]).engines[rComp]).fenced.contains raw5.lane = false := by decide +kernel
/-- A parity gathering that is placed again; a wrap that is full. -/
def place6 : State := (wr (fun w => { w with gaths := [gathC .parity] }) wrt).modStn 2 fun t => { t with ctx := some v1 }
def fullWrap : State := wr (fun w => { w with cellPos := 10 ^ 12 }) place
theorem witness_GatheringsRecorded_parity : (S2 place6).write.gaths.find? (fun g => !g.placed) = some (gathC .parity) ∧ (S2 place6).write.fits v1 = true
    ∧ (S2 fullWrap).write.fits v1 = false := by decide +kernel
def both : State := job 0 (.fixity 2 0) dec
/-- A re-reading pass whose fourth band after the gathering has been read, and one that goes on. -/
def rer4 (n : Nat) : State := rer.modStn 2 fun t => { t with link := { t.link with rxBand := n }, readSide := { t.readSide with failed := [7] } }
theorem witness_RecordsRead_jobs : both.jobRuns 0 rDecomp (.decompress 2 0) = true ∧ both.jobRuns 0 rHash (.fixity 2 0) = true
    ∧ (both.readersOf 2).map (·.1) = [⟨0, 1, 9⟩] ∧ (both.cmd? ⟨0, 1, 9⟩).any (fun k => k.entry == rdC && !k.poisoned) = true
    ∧ (S2 (rer4 4)).passRead = true ∧ (S2 (rer4 3)).passRead = false := by decide +kernel
/-- A run back that has come to its place. -/
def backs : State := srv (fun v => { v with motion := .moving, lposOk := true, lpos := 99, back := some ⟨99, true, .start, 8000⟩ }) apd
theorem witness_LateralLoop_back : (S2 backs).servo.vHat = 0 ∧ (RunBack.mk 99 true .start 8000).passed (S2 backs).servo.lpos = true ∧ (S2 backs).servo.seek = none
    ∧ (S2 backs).servo.ramp = none ∧ (S2 lat).servo.back = none ∧ (S2 (srv (fun v => { v with calm := 256 }) wrt)).servo.calm = 256 := by decide +kernel
theorem witness_LateralLoop_back_none : (S2 backs).servo.frames backs.draw.1 = (none, none) := by decide +kernel
/-- The fourth reel period, with its reading or without; swaps that are due. -/
def aux1 (b : Bool) : State := srv (fun v => { v with perCnt := 5, auxSeen := b, skewL := { v.skewL with swap := true }, aux := { v.aux with swap := true } }) lat
theorem witness_ReelAndBanks_periods : (S2 (aux1 true)).servo.perCnt % 4 = 1 ∧ (S2 (aux1 true)).link.lost = false ∧ (S2 (aux1 true)).servo.auxSeen = true
    ∧ (S2 (aux1 true)).servo.motion ≠ .hold ∧ (S2 (srv (fun v => { v with motion := .hold }) (aux1 true))).servo.motion = .hold ∧ (S2 (aux1 false)).servo.auxSeen = false ∧ (S2 lat).servo.perCnt % 4 ≠ 1 ∧ (S2 (aux1 true)).servo.skewL.swap = true ∧ (S2 (aux1 true)).servo.aux.swap = true
    ∧ (S2 lat).servo.lateral.swap = false := by decide +kernel
/-- The LPOS word of 250,000 in band 2 (Table 7.3), read forward: its bits, newest first. -/
def word250 : List Bool := let l := bitsOfNat 24 250000 ++ bitsOfNat 4 2; (bitsOfNat 12 0xFFE ++ l ++ bitsOfNat 8 (crc8 l)).reverse
def heard (ok : Bool) (p : Option Nat) : State := srv (fun v => { v with lposBits := word250, lposOk := ok, lpos := 250047, lposWord := p }) lat
theorem witness_LposAndRamps_word : (S2 (heard true none)).servo.lposBits.length = 48 ∧ lposPasses (S2 (heard true none)).servo.wordBits = true
    ∧ natOfBits (((S2 (heard true none)).servo.wordBits.drop 12).take 24) = 250000 ∧ lposPasses (S2 l48).servo.wordBits = false ∧ 249952 + 48 = 250000
    ∧ (S2 (heard false (some 249952))).servo.lposOk = false := by decide +kernel
/-- Ramps whose reference has arrived, and one whose has not. -/
def ramps (w : RampFor) (n : Nat) (r : BitVec 32) : State := srv (fun v => { v with ramp := some (w, n), vRef := r }) wrt
theorem witness_LposAndRamps_arrived : (S2 stopped7).servo.arrived = true ∧ (S2 (ramps .tension 0 0)).servo.arrived = true
    ∧ (S2 (ramps .start 8000 (speedWord 8000))).servo.arrived = true ∧ (S2 (ramps .start 8000 (speedWord 7999))).servo.arrived = false := by decide +kernel
theorem witness_PoolOperations_requests : (pooled []).mayRequest 0 5 4096 .other = true ∧ (pooled []).mayRequest 1 5 4096 .other = false
    ∧ (asks (ent 0x80 9 0xFF 0 0 0 4096) 8).mayRequest 0 1 0 (.command 0 0 9) = true ∧ poolFor 0 = none ∧ resd.mayRequest 0 1 4096 (.command 0 0 9) = true
    ∧ none0.mayRequest 0 5 4096 .other = true := by decide +kernel
/-- Class M has had its slot of the last 32. -/
def mTaken (s : State) : State := s.modStack 0 fun x => { x with mSlots := Vector.replicate 32 (s.clock, 30) }
theorem witness_PagesScrubbed_slots : (wback 1).mGranted pg = true ∧ (mTaken (wback 1)).mGranted pg = false ∧ up.mGranted (patrolPage 0 (up.hbm[(0 : Fin 4)]).patrol) = true
    ∧ (mTaken up).mGranted (patrolPage 0 (up.hbm[(0 : Fin 4)]).patrol) = false ∧ ((die0 (scr 2)).scrub.any fun j => (scr 2).mGranted (dpnPage 0 j.next)) = true
    ∧ ((die0 (scr 2)).scrub.any fun j => (mTaken (mTaken (scr 2))).mGranted (dpnPage 0 j.next)) = false := by decide +kernel
/-- A READ of station 5 is outstanding. -/
def far : State := cmd1 (ent 0x02 9 5 1 0 0 4096) .moving 0 upq
theorem witness_SequencersAndFaults_crosses : (far.allCmds.filter fun c => crossesDies c.1 c.2).map (·.1) = [⟨0, 1, 9⟩] ∧ far.ucieDown = false := by decide +kernel
theorem witness_CommandsComplete : (testing.cmd? r9).any (fun k => !k.poisoned) = true ∧ (cTs 1).entry.cd 0 1 ≠ 0x0F ∧ (up.adminBytes 0 cLog.entry = [] ∨ up.rst.stage = .recovery)
    ∧ step21.power.target = none ∧ (S2 step21).ctx = some vol ∧ (S2 stopped7).mountCmd = none ∧ (S2 stopped7).mount.isSome = true ∧ apd.readersOf 2 = [] := by decide +kernel

/-! ## Values that the spec writes out -/

/-- Worked values of the codes: the check value of R83, the zero block of R80 and its next rank, powers of Table 3.3. -/
theorem test_codes : crc16 ([0x31, 0x32, 0x33, 0x34, 0x35, 0x36, 0x37, 0x38, 0x39].flatMap (bitsOfNat 8)) = 0x29B1
    ∧ encode33 0 = List.replicate 6 false ++ [true] ++ List.replicate 12 false ++ [true] ++ List.replicate 12 false ++ [true]
    ∧ (encode33 1).drop 20 = List.replicate 11 false ++ [true, false] ∧ decode33 (encode33 1) = some 1
    ∧ gf10.pow 2 10 = 9 ∧ gf10.pow 2 11 = 0x12 ∧ gf8.pow 2 8 = 0x1D := by decide +kernel
/-- The trailer of the worked example of the tape codes lies on track 125 (R89). -/
theorem test_track : trackOf 0x41A34 130 = 125 ∧ rowOn 0x41A34 1 125 = 130 := by decide +kernel
/-- The last segment entry of Table 2.14. -/
theorem test_segment : Seg.bytes { lon := 0x9C2B7, offset := 2014480, len := 71984, first := false, last := true, inc := false }
    = [0, 0, 0, 0, 0, 9, 0xC2, 0xB7, 0, 0, 0, 0, 0, 0x1E, 0xBD, 0x10, 0, 1, 0x19, 0x30, 0, 0, 0, 2] := by decide +kernel
/-- Block and frame headers of Table 5.6 and the charge of R162. -/
theorem test_blocks : blockHeader false 2 97310 = [0xF4, 0xE0, 0x0B] ∧ blockHeader false 0 68928 = [0x00, 0x6A, 0x08]
    ∧ blockHeader false 1 100000 = [0x02, 0x35, 0x0C] ∧ blockHeader true 0 0 = [1, 0, 0] ∧ frameHeader none = [0x28, 0xB5, 0x2F, 0xFD, 4, 0x38]
    ∧ spanCharge 0 300000 [200000] + 300000 + 85 = 300094 := by
  refine ⟨by decide +kernel, by decide +kernel, by decide +kernel, by decide +kernel, by decide +kernel, ?_⟩
  simp [spanCharge, ceilDiv, sortBy, insertBy]
/-- Lateral set L32 of the worked lateral sample, and the channel before it. -/
def l32 : List Byte :=
  [2, 7, 3, 12] ++ leBytes 4 0x40000000 ++ zeros 8
  ++ leBytes 4 3 ++ leBytes 4 (unsigned 32 (-19)) ++ zeros 4 ++ leBytes 4 (unsigned 32 (-5)) ++ zeros 4 ++ [0, 3, 0, 3, 0, 0, 0, 0]
  ++ leBytes 4 1 ++ leBytes 4 1 ++ zeros 12 ++ [1, 1, 0, 0, 0, 0, 0, 0] ++ zeros 168
  ++ leBytes 4 1 ++ [6, 0, 0, 0] ++ leBytes 4 0x40000000 ++ leBytes 4 1 ++ [5] ++ zeros 63
def before : Channel :=
  { secs := #v[⟨-2883584, 0, -1966080, 0⟩, ⟨-1966080, 0, 0, 0⟩, ⟨0, 0, 0, 0⟩, ⟨0, 0, 0, 0⟩, ⟨0, 0, 0, 0⟩, ⟨0, 0, 0, 0⟩, ⟨0, 0, 0, 0⟩, ⟨0, 0, 0, 0⟩]
    integ := -6553600, table := [(679, -430080), (682, -524288)], r1 := 0, r2 := 0 }
/-- Table 7.16: the output, the integrator, the table and VALUE. -/
theorem test_lateral : (before.sample l32 0 (-3211264) 679).2 = -10118144 ∧ (before.sample l32 0 (-3211264) 679).1.integ = -6603776
    ∧ (before.sample l32 0 (-3211264) 679).1.tab 679 = -530327 ∧ valueOf (-10118144) = 0xFF659C ∧ angleBin 0x2A7C = 679 := by decide +kernel
/-- The examples of R448: SW5_TX3_P lies at CH20, SW2_RX15_N at E48. -/
theorem test_balls : ballAt 65 20 = .swiosh 5 3 true true ∧ ballAt 5 48 = .swiosh 2 15 false false := by decide
/-- The pools' sizes (R304). -/
theorem test_pools : poolFor 4096 = some 0 ∧ poolFor 4097 = some 1 ∧ poolFor 557057 = some 3 ∧ poolFor 33554432 = some 4 ∧ poolFor 0 = none := by decide
/-- No row of the table gives bits. -/
theorem test_no_words : decodeTableWord 8 0 = none ∧ up.withFetchWord 8 0 = up := ⟨rfl, rfl⟩

/-! ## Ill-formed terms, one for each check of Instr.wf -/

theorem smoke_wf : (Instr.sqTailWrite 0 512 0).wf = false ∧ (Instr.registerWrite 0 0x46 4 0).wf = false ∧ (Instr.registerWrite 0 0x48 2 0).wf = false
    ∧ (Instr.registerWrite 0 0x10000 4 0).wf = false ∧ (Instr.portLinkTrained 0 0 8 none).wf = false ∧ (Instr.portLinkTrained 0 7 8 none).wf = false
    ∧ (Instr.portLinkTrained 0 6 0 none).wf = false ∧ (Instr.linkRateOrWidthChange 0 6 17).wf = false ∧ (Instr.busHold 0 4096).wf = false
    ∧ (Instr.downstreamFrame 0 0 70).wf = false ∧ (Instr.engineLaneFault 0 .hash 24).wf = false
    ∧ (Instr.engineLaneFault 0 .crypto 8).wf = false ∧ (Instr.poolGrant 0 64 1 .other).wf = false := by decide
theorem smoke_wf_pages : (Instr.pageRead ⟨0, .trace, 32768⟩ 0 0 .clean .copyOnly).wf = false ∧ (Instr.pageRead pg 0 0 ⟨[codeBits], none⟩ .copyOnly).wf = false
    ∧ (Instr.pageWrite pg 0 0 0 [] 0 .clean).wf = false ∧ (Instr.pageWrite pg 0 0 63 [0, 0] 0 .clean).wf = false ∧ (Instr.writeBack 0 ⟨[codeBits], none⟩).wf = false
    ∧ (Instr.patrolScrub 0 [] (some ⟨0, .trace, 32768⟩)).wf = false ∧ (Instr.rangeScrubRead 0 [codeBits] none).wf = false := by decide
theorem smoke_wf_host : (Instr.flush { cId with qid := 512 }).wf = false ∧ (Instr.flush { cId with sgl := [⟨0, 1, 0⟩] }).wf = false
    ∧ (Instr.imageStage { cId with entry := { cId.entry with dlen := 4096 } } [1]).wf = false ∧ (Instr.monitorCtl cId [1]).wf = false
    ∧ (Instr.flush cId).wf = true := by decide

end Sys2Proof.Tests
end

section
/-!
PROOFS of the host queues (10): doorbell writes (R318), at a port that answers, taken or ignored.
-/
namespace Sys2Proof.Machine

/-- A BAR0 access leaves the queues of its port alone. -/
theorem State.touch_qp? (s : State) (p : Port) (q : Nat) : ((s.touch p).ports[p]).qp? q = (s.ports[p]).qp? q := by
  unfold State.touch HostPort.qp?
  rw [State.modPort_ports, vmod_get_self]

/-- Coming out of L1 changes nothing that decides whether a register answers. -/
theorem State.touch_regAnswers (s : State) (p : Port) (ofs : Nat) : (s.touch p).regAnswers p ofs = s.regAnswers p ofs := by
  unfold State.touch State.regAnswers
  rw [State.modPort_ports, vmod_get_self, State.modPort_rst]

/-- Nor does it change what a doorbell takes. -/
theorem doorbellOk_touch (s : State) (p : Port) (q : Nat) (v : BitVec 32) :
    doorbellOk ((s.touch p).ports[p]) q v = doorbellOk (s.ports[p]) q v := by
  unfold doorbellOk
  rw [State.touch_qp?]

/-- A doorbell of a queue that exists takes exactly the indices below the depth. -/
theorem doorbellOk_of_some {h : HostPort} {q : Nat} {x : Qp} (hx : h.qp? q = some x) (v : BitVec 32) :
    doorbellOk h q v = decide (bits v 0 16 < x.depth) := by
  rw [doorbellOk, hx, Option.any_some]

/-- An index is refused where the queue does not exist or has no such slot. -/
theorem doorbellOk_eq_false {h : HostPort} {q : Nat} {v : BitVec 32}
    (hf : h.qp? q = none ∨ ∃ x, h.qp? q = some x ∧ x.depth ≤ bits v 0 16) : doorbellOk h q v = false := by
  obtain hx | ⟨x, hx, hn⟩ := hf
  · rw [doorbellOk, hx, Option.any_none]
  · rw [doorbellOk_of_some hx, decide_eq_false (Nat.not_lt.mpr hn)]

/-- What an ignored doorbell write does: it raises the doorbell-error event of its port, and events are all that follows. -/
theorem State.badDoorbell_spec (s : State) (p : Port) :
    (s.badDoorbell p).flagged (224 + 8 * p.val) ∧ EventsOnly s (s.badDoorbell p) :=
  ⟨State.raise_flagged s _ 0 (by omega), State.raise_events s _ 0⟩

section
variable {p : Port} {q : Nat} {v : BitVec 32} {s : State}

/-- SQ_TAIL_WRITE where the doorbell answers: two checks of the state before it decide. -/
theorem exec_sqTailWrite_of_regAnswers (ha : s.regAnswers p (0x1000 + 8 * q) = true) :
    exec (.sqTailWrite p q v) s = .next
      (if !doorbellOk (s.ports[p]) q v ∨ ((s.ports[p]).qp? q).any (fun x => x.resetting.isSome) then (s.touch p).badDoorbell p
       else (s.touch p).modQp p q fun x => { x with sqTail := bits v 0 16 }) := by
  show execSqTailWrite p q v s = _
  simp only [execSqTailWrite, State.touch_regAnswers, ha, doorbellOk_touch, State.touch_qp?]
  rfl

/-- CQ_HEAD_WRITE where the doorbell answers: the check of the queue and the index decides. -/
theorem exec_cqHeadWrite_of_regAnswers (ha : s.regAnswers p (0x1004 + 8 * q) = true) :
    exec (.cqHeadWrite p q v) s = .next
      (if !doorbellOk (s.ports[p]) q v then (s.touch p).badDoorbell p
       else (s.touch p).modQp p q fun x => { x with cqHead := bits v 0 16 }) := by
  show execCqHeadWrite p q v s = _
  simp only [execCqHeadWrite, State.touch_regAnswers, ha, doorbellOk_touch]
  rfl

/-- A tail that names a slot of a queue that is not being reset becomes its tail. -/
theorem exec_sqTailWrite_taken {x : Qp} (ha : s.regAnswers p (0x1000 + 8 * q) = true) (hx : (s.ports[p]).qp? q = some x)
    (hn : bits v 0 16 < x.depth) (hr : x.resetting = none) :
    exec (.sqTailWrite p q v) s = .next ((s.touch p).modQp p q fun x => { x with sqTail := bits v 0 16 }) := by
  rw [exec_sqTailWrite_of_regAnswers ha, if_neg]
  rw [doorbellOk_of_some hx, hx, Option.any_some, hr]
  simp [hn]

/-- A head that names a slot of its queue becomes its head, a RESET_QP in progress or not. -/
theorem exec_cqHeadWrite_taken {x : Qp} (ha : s.regAnswers p (0x1004 + 8 * q) = true) (hx : (s.ports[p]).qp? q = some x)
    (hn : bits v 0 16 < x.depth) :
    exec (.cqHeadWrite p q v) s = .next ((s.touch p).modQp p q fun x => { x with cqHead := bits v 0 16 }) := by
  rw [exec_cqHeadWrite_of_regAnswers ha, if_neg]
  rw [doorbellOk_of_some hx]
  simp [hn]

/-- A tail that names no queue, no slot of its queue, or a queue that is being reset is ignored. -/
theorem exec_sqTailWrite_ignored (ha : s.regAnswers p (0x1000 + 8 * q) = true)
    (hf : (s.ports[p]).qp? q = none ∨ ∃ x, (s.ports[p]).qp? q = some x ∧ (x.depth ≤ bits v 0 16 ∨ x.resetting.isSome = true)) :
    exec (.sqTailWrite p q v) s = .next ((s.touch p).badDoorbell p) := by
  rw [exec_sqTailWrite_of_regAnswers ha, if_pos]
  obtain hx | ⟨x, hx, hn | hr⟩ := hf
  · exact .inl (by rw [doorbellOk_eq_false (.inl hx), Bool.not_false])
  · exact .inl (by rw [doorbellOk_eq_false (.inr ⟨x, hx, hn⟩), Bool.not_false])
  · exact .inr (by rw [hx, Option.any_some, hr])

/-- A head that names no queue or no slot of its queue is ignored. -/
theorem exec_cqHeadWrite_ignored (ha : s.regAnswers p (0x1004 + 8 * q) = true)
    (hf : (s.ports[p]).qp? q = none ∨ ∃ x, (s.ports[p]).qp? q = some x ∧ x.depth ≤ bits v 0 16) :
    exec (.cqHeadWrite p q v) s = .next ((s.touch p).badDoorbell p) := by
  rw [exec_cqHeadWrite_of_regAnswers ha, doorbellOk_eq_false hf]
  rfl

end

/-- Settles O19: a doorbell is taken or ignored as its checks say (R318), and an ignored one comes to the raise of its event. -/
theorem doorbells : Obligations.Doorbells := by
  intro p q v s
  refine ⟨fun x ha hx hn hr => exec_sqTailWrite_taken ha hx hn hr, fun x ha hx hn => exec_cqHeadWrite_taken ha hx hn, ?_, ?_⟩
  · exact fun ha hf => ⟨_, exec_sqTailWrite_ignored ha hf, State.badDoorbell_spec (s.touch p) p⟩
  · exact fun ha hf => ⟨_, exec_cqHeadWrite_ignored ha hf, State.badDoorbell_spec (s.touch p) p⟩

end Sys2Proof.Machine
end

section
/-!
PROOFS of the ledger's frame (11, R368): the operations and rows that leave the ledger, or what it is trusted for, as it was. One lemma for
each operation that Laws/Ledger.lean and Laws/Anchors.lean do not have, and for each row that chooses between several effects.
-/
namespace Sys2Proof.Machine

/-! ### What an outcome keeps -/

/-- An outcome keeps a view of the state it starts from: so does the next state, where there is one. -/
def Keeps {α : Type} (view : State → α) (s : State) (o : Host.Outcome State Fault Refusal) : Prop :=
  match o with
  | .next t => view t = view s
  | .fault _ | .refused _ => True

section
variable {α β : Type} {view : State → α} {s t : State}

/-- An outcome that answers a next state keeps what that state keeps. -/
theorem Keeps.next (h : view t = view s) : Keeps view s (.next t) := h

/-- What an outcome keeps is as it was in the next state. -/
theorem Keeps.of_next {o : Host.Outcome State Fault Refusal} (h : Keeps view s o) (ho : o = .next t) : view t = view s := by
  subst ho; exact h

/-- What depends on a view alone is kept with it. -/
theorem Keeps.comp (g : α → β) {o : Host.Outcome State Fault Refusal} (h : Keeps view s o) : Keeps (fun x => g (view x)) s o := by
  cases o with
  | next t => exact congrArg g h
  | fault _ => trivial
  | refused _ => trivial

/-- A fault keeps everything. -/
theorem Keeps.fault (f : Fault) : Keeps view s (.fault f) := trivial

end

/-! ### Operations -/

theorem State.scrubGo_keeps_ledger (s : State) (d : DieId) : (s.scrubGo d).ledger = s.ledger := by
  unfold State.scrubGo
  split
  · rfl
  · exact ite_keeps_ledger (State.finishWith_keeps_ledger ..) rfl

theorem State.scrubCounts_keeps_ledger (s : State) (w : PendingWb) (skip remap : Nat) :
    (s.scrubCounts w skip remap).ledger = s.ledger := ite_keeps_ledger rfl rfl

theorem State.opsDone_keeps_ledger (s : State) (d : DieId) (p : Fin 5) : (s.opsDone d p).ledger = s.ledger :=
  ite_keeps_ledger rfl ((State.grantsGo_keeps_ledger _).trans (State.wakeDue_keeps_ledger ..))

theorem State.useGo_keeps_ledger (s : State) (use : PoolUse) : (s.useGo use).ledger = s.ledger := by
  unfold State.useGo
  split
  · exact (State.settle_keeps_ledger ..).trans (State.numberLabels_keeps_ledger ..)
  · rfl

theorem State.turnRound_keeps_ledger (s : State) (st : Stn) : (s.turnRound st).ledger = s.ledger := by
  unfold State.turnRound
  dsimp only
  split
  · rfl
  · exact ite_keeps_ledger rfl (State.rampTo_keeps_ledger ..)

theorem State.turnAtRest_keeps_ledger (s : State) (st : Stn) : (s.turnAtRest st).ledger = s.ledger := by
  unfold State.turnAtRest
  dsimp only
  split
  · rfl
  · exact ite_keeps_ledger ((State.settle_keeps_ledger ..).trans (State.nextWrap_keeps_ledger ..)) rfl

theorem State.readAgain_keeps_ledger (s : State) (st : Stn) : (s.readAgain st).ledger = s.ledger := by
  refine ite_keeps_ledger rfl ?_
  rw [State.modStn_ledger, State.runBack_keeps_ledger, State.aim_keeps_ledger]

theorem State.mountTensioned_keeps_ledger (s : State) (st : Stn) (r : CmdRef) : (s.mountTensioned st r).ledger = s.ledger := by
  unfold State.mountTensioned
  split
  · exact State.mountOn_keeps_ledger ..
  · exact State.mountReads_keeps_ledger ..

theorem State.rawFails_keeps_ledger (s : State) (st : Stn) (lon lane : Nat) : (s.rawFails st lon lane).ledger = s.ledger := by
  have fenced := State.fenceLane_keeps_ledger s (dieOf st) .compression lane
  have dropped : ((s.fenceLane (dieOf st) .compression lane).dropJobs (· == JobKind.compress st lon)).ledger = s.ledger :=
    (State.dropJobs_keeps_ledger ..).trans fenced
  refine ite_keeps_ledger fenced (ite_keeps_ledger ?_ ?_)
  · exact (State.jobFails_keeps_ledger ..).trans dropped
  · exact (State.addJob_keeps_ledger ..).trans ((State.startOver_keeps_ledger ..).trans dropped)

theorem State.warmLoss_keeps_ledger (s : State) : s.warmLoss.ledger = s.ledger := by
  unfold State.warmLoss
  dsimp only
  rw [State.eachDie_keeps_ledger, State.eachPort_keeps_ledger, State.stableAll_keeps_ledger, foldl_keeps_ledger _ State.warmStn_keeps_ledger]

theorem State.quiesceEnd_keeps_ledger (s : State) : s.quiesceEnd.ledger = s.ledger :=
  ite_keeps_ledger ((State.tryE4_keeps_ledger _).trans (State.warmLoss_keeps_ledger s)) rfl

/-- A read that is answered in one of two ways. -/
theorem ite_answerRead_keeps_ledger {c : Prop} [Decidable c] {s t : State} {p : Port} {v : BitVec 64} (h : t.ledger = s.ledger) :
    (if c then t else t.answerRead p v).ledger = s.ledger :=
  ite_keeps_ledger h ((State.answerRead_keeps_ledger ..).trans h)

/-- A doorbell write (R318), whatever its checks answer: the port is touched, and a queue's index moves or the doorbell-error event is raised. -/
theorem doorbell_keeps_ledger {c b : Prop} [Decidable c] [Decidable b] (s : State) (p : Port) (q : Nat) (f : Qp → Qp) :
    (if c then s.touch p else if b then (s.touch p).badDoorbell p else (s.touch p).modQp p q f).ledger = s.ledger := by
  have touched := State.touch_keeps_ledger s p
  refine ite_keeps_ledger touched (ite_keeps_ledger ?_ ?_)
  · exact (State.badDoorbell_keeps_ledger ..).trans touched
  · exact (State.modQp_keeps_ledger ..).trans touched

/-! ### Rows of the host ports and their registers (10, 14) -/

section
variable (s : State)

theorem execAppend_keeps_ledger (c : HostCmd) : Keeps State.ledger s (execAppend c s) := by
  have ran := State.host_keeps_ledger s 0x01 c (appendOwn c) (appendBlocked c) _ (State.runAppend_keeps_ledger c)
  refine Keeps.next (ite_keeps_ledger (State.hold_keeps_ledger ..) (ite_keeps_ledger ?_ ran))
  exact (State.gapLon_keeps_ledger ..).trans ran

theorem execDeleteQp_keeps_ledger (c : HostCmd) : Keeps State.ledger s (execDeleteQp c s) := by
  refine Keeps.next (State.host_keeps_ledger _ _ _ _ _ _ fun a => ?_)
  dsimp only
  rw [State.finishNew_keeps_ledger, State.modPort_ledger, State.abandonOpen_keeps_ledger]

theorem execResetQp_keeps_ledger (c : HostCmd) : Keeps State.ledger s (execResetQp c s) := by
  refine Keeps.next (State.host_keeps_ledger _ _ _ _ _ _ fun a => ?_)
  dsimp only
  rw [State.modQp_keeps_ledger, State.dropGoneKeys_keeps_ledger, State.abortQueue_keeps_ledger, State.modQp_keeps_ledger,
    State.addCmd_keeps_ledger]

theorem execMonitorCtl_keeps_ledger (c : HostCmd) (data : List Byte) : Keeps State.ledger s (execMonitorCtl c data s) := by
  refine Keeps.next (State.host_keeps_ledger _ _ _ _ _ _ fun a => ?_)
  rw [State.finish_keeps_ledger, State.modDie_ledger, State.addCmd_keeps_ledger]

theorem execTrcDataRead_keeps_ledger (p : Port) (acc : TrcAccess) (flips : BitVec 73) :
    Keeps State.ledger s (execTrcDataRead p acc flips s) := by
  refine Keeps.next (ite_answerRead_keeps_ledger (State.regAccess_keeps_ledger _ _ _ _ fun a => ?_))
  cases acc with
  | whole => exact (State.answerRead_keeps_ledger ..).trans (State.popTrace_keeps_ledger ..)
  | low => exact (State.answerRead_keeps_ledger ..).trans (State.popTrace_keeps_ledger ..)
  | high =>
    dsimp only
    split
    · exact State.answerRead_keeps_ledger ..
    · exact State.answerRead_keeps_ledger ..

theorem execSupV0Read_keeps_ledger (p : Port) : Keeps State.ledger s (execSupV0Read p s) := by
  have answered (v : BitVec 64) : ((s.regAccess p 0x4000 id).answerRead p v).ledger = s.ledger :=
    (State.answerRead_keeps_ledger ..).trans (State.regAccess_keeps_ledger _ _ _ _ fun _ => rfl)
  refine Keeps.next (ite_keeps_ledger (ite_keeps_ledger ?_ (answered _)) rfl)
  exact answered ((s.regAccess p 0x4000 id).readBar0 p 0x4000 4)

theorem execAdminQueueEnable_keeps_ledger (p : Port) : Keeps State.ledger s (execAdminQueueEnable p s) := by
  have touched := State.touch_keeps_ledger s p
  refine Keeps.next (ite_keeps_ledger touched ?_)
  split
  · exact touched
  · exact ite_keeps_ledger ((State.raise_keeps_ledger ..).trans touched) touched

theorem execMountOpenTimeout_keeps_ledger (st : Stn) : Keeps State.ledger s (execMountOpenTimeout st s) := by
  refine Keeps.next ?_
  split
  · rfl
  · exact ite_keeps_ledger (State.finish_keeps_ledger ..) rfl

/-! ### Rows of buffer memory and the pools (09) -/

theorem execPoolGrant_keeps_ledger (d : DieId) (owner len : Nat) (use : PoolUse) :
    Keeps State.ledger s (execPoolGrant d owner len use s) := by
  refine Keeps.next (ite_keeps_ledger (State.misuse_keeps_ledger ..) (ite_keeps_ledger rfl ?_))
  split
  · exact State.poolRefuse_keeps_ledger ..
  · refine ite_keeps_ledger rfl ?_
    split
    · dsimp only
      rw [State.useGo_keeps_ledger, State.grantsGo_keeps_ledger, State.grantUse_keeps_ledger, State.takeBuf_keeps_ledger]
    · exact State.poolWait_keeps_ledger ..
    · exact ite_keeps_ledger (State.poolRefuse_keeps_ledger ..) (State.poolWait_keeps_ledger ..)

theorem execPoolAdd_keeps_ledger (d : DieId) (owner : Nat) (handle : BitVec 32) (name : Nat) :
    Keeps State.ledger s (execPoolAdd d owner handle name s) := by
  refine Keeps.next ?_
  split
  · exact State.misuse_keeps_ledger ..
  · exact ite_keeps_ledger rfl (State.opsDone_keeps_ledger ..)

theorem execPoolRelease_keeps_ledger (d : DieId) (owner : Nat) (handle : BitVec 32) :
    Keeps State.ledger s (execPoolRelease d owner handle s) := by
  refine Keeps.next ?_
  split
  · exact State.misuse_keeps_ledger ..
  · exact ite_keeps_ledger rfl ((State.opsDone_keeps_ledger ..).trans (State.strike_keeps_ledger ..))

theorem execPoolFree_keeps_ledger (d : DieId) (owner : Nat) (handle : BitVec 32) :
    Keeps State.ledger s (execPoolFree d owner handle s) := by
  refine Keeps.next ?_
  split
  · exact State.misuse_keeps_ledger ..
  · exact ite_keeps_ledger rfl ((State.opsDone_keeps_ledger ..).trans (State.freeBuf_keeps_ledger ..))

theorem execPageRead_keeps_ledger (a : PageAddr) (handle : BitVec 32) (actor : Nat) (l : PageLine) (c : Consumer) :
    Keeps State.ledger s (execPageRead a handle actor l c s) := by
  have read : ((s.takeSlot a).readPage a l 1 handle actor).2.ledger = s.ledger := State.readPage_keeps_ledger ..
  have judged := ite_keeps_ledger (c := (s.takeSlot a).staleAccess a handle) ((State.logStale_keeps_ledger _ a handle actor).trans read) read
  unfold execPageRead
  split
  · exact Keeps.fault _
  · exact Keeps.next (ite_keeps_ledger judged ((State.consume_keeps_ledger ..).trans judged))

theorem execPageWrite_keeps_ledger (a : PageAddr) (handle : BitVec 32) (actor first : Nat) (beats : List (BitVec 512)) (poison : BitVec 64)
    (l : PageLine) : Keeps State.ledger s (execPageWrite a handle actor first beats poison l s) := by
  unfold execPageWrite
  dsimp only
  split
  · exact Keeps.fault _
  · split
    · exact Keeps.next (State.logStale_keeps_ledger ..)
    · split
      · exact Keeps.next (State.writePage_keeps_ledger ..)
      · exact Keeps.next ((State.writePage_keeps_ledger ..).trans (State.readPage_keeps_ledger ..))

theorem execWriteBack_keeps_ledger (k : Fin 4) (verify : PageLine) : Keeps State.ledger s (execWriteBack k verify s) := by
  refine Keeps.next ?_
  split
  · rfl
  · refine ite_keeps_ledger rfl ((State.scrubGo_keeps_ledger ..).trans (ite_keeps_ledger ?_ ?_))
    · exact (State.scrubCounts_keeps_ledger ..).trans (State.elogPage_keeps_ledger ..)
    · exact (State.scrubCounts_keeps_ledger ..).trans (State.writeBackPage_keeps_ledger ..)

theorem execRangeScrubRead_keeps_ledger (d : DieId) (flips : List Nat) (place : Option PageAddr) :
    Keeps State.ledger s (execRangeScrubRead d flips place s) := by
  refine Keeps.next ?_
  split
  · rfl
  · exact ite_keeps_ledger rfl ((State.scrubGo_keeps_ledger ..).trans (State.scrubPage_keeps_ledger (s.takeM _) ..))

/-! ### Rows of the resets, the supply and the package (12, 13) -/

theorem execBlockReturn_keeps_ledger (i : Nat) : Keeps State.ledger s (execBlockReturn i s) := by
  refine Keeps.next ?_
  split
  · rfl
  · dsimp only
    rw [State.finish_keeps_ledger, State.dropQuarantine_keeps_ledger, State.blkLeave_keeps_ledger]

theorem execVddCoreWarning_keeps_ledger (mv : Nat) : Keeps State.ledger s (execVddCoreWarning mv s) := by
  have reads := State.railReads_keeps_ledger s 0 mv
  refine Keeps.next (ite_keeps_ledger rfl (ite_keeps_ledger (ite_keeps_ledger ?_ reads) ?_))
  · exact (State.raise_keeps_ledger ..).trans reads
  · refine (State.eachWriting_keeps_ledger _ _ fun a st => ite_keeps_ledger (State.runOut_keeps_ledger ..) rfl).trans ?_
    exact (State.raise_keeps_ledger ..).trans reads

theorem execDipRecovery_keeps_ledger (min : Nat) (regrades : List Regrade) : Keeps State.ledger s (execDipRecovery min regrades s) := by
  refine Keeps.next (ite_keeps_ledger rfl ((foldl_keeps_ledger _ (fun _ _ => State.dipResume_keeps_ledger ..) _ _).trans ?_))
  exact (State.raise_keeps_ledger ..).trans (foldl_keeps_ledger _ State.regrade_keeps_ledger _ _)

theorem execThermalThrottle_keeps_ledger (d : DieId) (temp : BitVec 16) : Keeps State.ledger s (execThermalThrottle d temp s) := by
  have heated := State.heat_keeps_ledger s d temp
  refine Keeps.next (ite_keeps_ledger rfl (ite_keeps_ledger heated ?_))
  exact (State.setCap_keeps_ledger ..).trans ((State.raise_keeps_ledger ..).trans heated)

theorem execThermalThrottleStep_keeps_ledger : Keeps State.ledger s (execThermalThrottleStep s) := by
  refine Keeps.next ?_
  split
  · exact State.setCap_keeps_ledger ..
  · rfl

theorem execThermalStop_keeps_ledger (d : DieId) (temp : BitVec 16) : Keeps State.ledger s (execThermalStop d temp s) := by
  have heated := State.heat_keeps_ledger s d temp
  refine Keeps.next (ite_keeps_ledger rfl (ite_keeps_ledger heated ?_))
  exact (foldl_keeps_ledger _ State.controlledStop_keeps_ledger _ _).trans ((State.raise_keeps_ledger ..).trans heated)

theorem execBusWarningStep_keeps_ledger (st : Stn) (n : Nat) : Keeps State.ledger s (execBusWarningStep st n s) := by
  refine Keeps.next ?_
  split
  · exact ite_keeps_ledger rfl ((State.setBusCap_keeps_ledger ..).trans (State.busReads_keeps_ledger ..))
  · rfl

theorem execBusRecovery_keeps_ledger (st : Stn) (n : Nat) : Keeps State.ledger s (execBusRecovery st n s) := by
  refine Keeps.next (ite_keeps_ledger rfl ?_)
  rw [State.holdExit_keeps_ledger, State.busRaise_keeps_ledger, State.modStn_ledger, State.busReads_keeps_ledger]

theorem execControlStoreFetch_keeps_ledger (store : Fin 10) (cond : Bool) (flips : BitVec 144) :
    Keeps State.ledger s (execControlStoreFetch store cond flips s) := by
  refine Keeps.next (ite_keeps_ledger rfl ?_)
  split
  · exact State.halts_keeps_ledger ..
  · exact ite_keeps_ledger rfl (State.raise_keeps_ledger ..)

theorem execStackLost_keeps_ledger (k : Fin 4) : Keeps State.ledger s (execStackLost k s) := by
  refine Keeps.next (ite_keeps_ledger rfl ?_)
  rw [State.sealsGo_keeps_ledger, State.faultDie_keeps_ledger, State.raise_keeps_ledger, State.modStack_ledger]

theorem execUcieLinkDown_keeps_ledger : Keeps State.ledger s (execUcieLinkDown s) := by
  refine Keeps.next (ite_keeps_ledger rfl ?_)
  have stopped (a : State) (st : Stn) : (((a.controlledStop st).failStation st).burnUnwritten st).ledger = a.ledger := by
    rw [State.burnUnwritten_keeps_ledger, State.failStation_keeps_ledger, State.controlledStop_keeps_ledger]
  dsimp only
  rw [State.sealsGo_keeps_ledger, State.raise_keeps_ledger, foldl_keeps_ledger _ State.endReading_keeps_ledger,
    foldl_keeps_ledger _ stopped, State.finishAll_keeps_ledger]

/-! ### Rows of the links and of motion (06, 07) -/

theorem execHeadEndResponse_keeps_ledger (st : Stn) (msg : BitVec 64) : Keeps State.ledger s (execHeadEndResponse st msg s) := by
  refine Keeps.next ?_
  split
  · exact ite_keeps_ledger (State.answer_keeps_ledger ..) rfl
  · rfl

theorem execLinkLoss_keeps_ledger (st : Stn) : Keeps State.ledger s (execLinkLoss st s) := by
  refine Keeps.next (ite_keeps_ledger rfl ?_)
  rw [State.powerGo_keeps_ledger, State.loseLink_keeps_ledger, State.raise_keeps_ledger, State.count_keeps_ledger]

theorem execBankSwapTimeout_keeps_ledger (st : Stn) (loop : LoopId) : Keeps State.ledger s (execBankSwapTimeout st loop s) := by
  cases loop <;> exact Keeps.next rfl

theorem execTensioned_keeps_ledger (st : Stn) : Keeps State.ledger s (execTensioned st s) := by
  refine Keeps.next (ite_keeps_ledger rfl ?_)
  dsimp only
  split
  · exact ite_keeps_ledger (State.mountTensioned_keeps_ledger ..) (State.serveSeek_keeps_ledger ..)
  · exact (State.powerGo_keeps_ledger _).trans (State.serveSeek_keeps_ledger ..)

theorem execTensionTimeout_keeps_ledger (st : Stn) : Keeps State.ledger s (execTensionTimeout st s) := by
  have opened := State.openLoops_keeps_ledger s st
  refine Keeps.next (ite_keeps_ledger rfl ?_)
  dsimp only
  split
  · exact ite_keeps_ledger ((State.finish_keeps_ledger ..).trans ((State.dismount_keeps_ledger ..).trans opened)) opened
  · exact (State.powerGo_keeps_ledger _).trans opened

theorem execSpeedStepDone_keeps_ledger (st : Stn) : Keeps State.ledger s (execSpeedStepDone st s) :=
  Keeps.next (ite_keeps_ledger rfl (ite_keeps_ledger (State.fillResume_keeps_ledger ..) rfl))

theorem execBackhitchDone_keeps_ledger (st : Stn) (gap : Nat) : Keeps State.ledger s (execBackhitchDone st gap s) := by
  refine Keeps.next (ite_keeps_ledger rfl (ite_keeps_ledger (State.controlledStop_keeps_ledger ..) ?_))
  rw [State.modStn_ledger, State.capDown_keeps_ledger, State.resume_keeps_ledger, State.newRun_keeps_ledger, State.endFill_keeps_ledger,
    State.modStn_ledger]

theorem execSpeedDecision_keeps_ledger (st : Stn) : Keeps State.ledger s (execSpeedDecision st s) := by
  refine Keeps.next ?_
  rw [State.modStn_ledger, State.powerGo_keeps_ledger, State.readAgain_keeps_ledger, State.serveSeek_keeps_ledger,
    State.speedDecide_keeps_ledger, State.turnAtRest_keeps_ledger]

theorem execWrapStart_keeps_ledger (st : Stn) : Keeps State.ledger s (execWrapStart st s) := by
  refine Keeps.next (ite_keeps_ledger rfl (ite_keeps_ledger (State.controlledStop_keeps_ledger ..) ?_))
  rw [State.capDown_keeps_ledger, State.modStn_ledger, State.newRun_keeps_ledger]

theorem execRereadPassDone_keeps_ledger (st : Stn) : Keeps State.ledger s (execRereadPassDone st s) := by
  refine Keeps.next (ite_keeps_ledger rfl ?_)
  split
  · exact State.mountSearch_keeps_ledger ..
  · have aimed := State.aim_keeps_ledger (s.modStn st fun t => t.modRecall Recall.again) st (s.stns[st]).readSide.wrap 0
    refine ite_keeps_ledger rfl (ite_keeps_ledger ?_ ?_)
    · exact (State.controlledStop_keeps_ledger ..).trans aimed
    · rw [State.modStn_ledger, State.rampTo_keeps_ledger]
      exact aimed

theorem execRebuildPassDone_keeps_ledger (st : Stn) : Keeps State.ledger s (execRebuildPassDone st s) := by
  refine Keeps.next ?_
  split
  · rfl
  · exact ite_keeps_ledger rfl (State.rebuild_keeps_ledger ..)

/-! ### Rows of the write pipeline (04, 05) -/

theorem execGatheringPlace_keeps_ledger (st : Stn) (ahead : Nat) : Keeps State.ledger s (execGatheringPlace st ahead s) := by
  refine Keeps.next (ite_keeps_ledger rfl ?_)
  split
  · exact State.placeTail_keeps_ledger ..
  · rfl
  · exact ite_keeps_ledger (State.reserveFault_keeps_ledger ..) ((State.settle_keeps_ledger ..).trans (State.placeNext_keeps_ledger ..))

theorem execEmptyGathering_keeps_ledger (st : Stn) : Keeps State.ledger s (execEmptyGathering st s) :=
  Keeps.next (ite_keeps_ledger rfl (ite_keeps_ledger (State.controlledStop_keeps_ledger ..) (State.closeEmpty_keeps_ledger ..)))

theorem execEngineDispatch_keeps_ledger (d : DieId) (r : Region) : Keeps State.ledger s (execEngineDispatch d r s) := by
  have dropped := State.dropJobs_keeps_ledger s s.hashOver
  refine Keeps.next (ite_keeps_ledger ?_ (ite_keeps_ledger dropped ?_))
  · exact (foldl_keeps_ledger _ State.jobRefused_keeps_ledger _ _).trans dropped
  · split
    · exact dropped
    · split
      · exact dropped
      · exact dropped

theorem execBlockEmit_keeps_ledger (st : Stn) (lon : Nat) : Keeps State.ledger s (execBlockEmit st lon s) := by
  refine Keeps.next ?_
  split
  · rfl
  · rfl
  · split
    · exact (State.afterBlock_keeps_ledger ..).trans (State.modRec_keeps_ledger ..)
    · refine ite_keeps_ledger rfl ?_
      split
      · exact State.afterBlock_keeps_ledger ..
      · dsimp only
        rw [State.settle_keeps_ledger, State.afterBlock_keeps_ledger, State.modStn_ledger, State.modRec_keeps_ledger]

theorem execCheckFail_keeps_ledger (st : Stn) (lon block : Nat) : Keeps State.ledger s (execCheckFail st lon block s) := by
  refine Keeps.next ?_
  split
  · rfl
  · split
    · rfl
    · split
      · rfl
      · refine ite_keeps_ledger rfl (ite_keeps_ledger (State.rawFails_keeps_ledger ..) ?_)
        refine (State.settle_keeps_ledger ..).trans ((State.modRec_keeps_ledger ..).trans ?_)
        split
        · exact State.burnFrom_keeps_ledger ..
        · exact ite_keeps_ledger (State.burnFrom_keeps_ledger ..) rfl

theorem execEncryptionDone_keeps_ledger (st : Stn) (gnum : Nat) : Keeps State.ledger s (execEncryptionDone st gnum s) := by
  refine Keeps.next (ite_keeps_ledger rfl ?_)
  dsimp only
  rw [State.settle_keeps_ledger, State.releaseAll_keeps_ledger, State.modStn_ledger, State.dropJobs_keeps_ledger]

end

end Sys2Proof.Machine
end

section
/-!
PROOFS of the ledger's frame (11, R368), over every row: what a row may change of the ledger. No row but LEDGER_WRITE_DONE and
POWER_ON_RESET touches what the ledger is trusted for.
-/
namespace Sys2Proof.Machine

/-- A host row whose command is launched keeps the ledger where its start does. -/
theorem launched_keeps_ledger {s : State} {opc : Nat} {c : HostCmd} {own : State → Option Ending} {blocked : State → Option Hold}
    {k : State → Cmd} {go : CmdRef → State → State} (h : ∀ r a, (go r a).ledger = a.ledger) :
    Keeps State.ledger s (.next (s.host opc c own blocked fun a => a.launch c (k a) go)) :=
  Keeps.next (State.host_keeps_ledger _ _ _ _ _ _ fun a => State.launch_keeps_ledger a _ _ _ h)

section
variable (s : State)

/-- The rows outside Instr.writesLedger leave the ledger alone. -/
theorem exec_keeps_ledger (i : Instr) (hi : i.writesLedger = false) : Keeps State.ledger s (exec i s) := by
  -- The word for SEAL is also a command of Lean and cannot name a case: it comes last, with the rows that hi rules out.
  have sealed (c : HostCmd) : Keeps State.ledger s (exec (.seal c) s) :=
    Keeps.next (State.host_keeps_ledger _ _ _ _ _ _ fun a => State.launch_keeps_ledger (a.sealNow _) _ _ _ State.startSeal_keeps_ledger)
  cases i with
  | append c => exact execAppend_keeps_ledger s c
  | read c | locate c | verify c => exact Keeps.next (State.host_keeps_ledger _ _ _ _ _ _ (State.runReader_keeps_ledger c))
  | flush c => exact launched_keeps_ledger State.startFlush_keeps_ledger
  | orderFence c =>
    exact Keeps.next (State.host_keeps_ledger _ _ _ _ _ _ fun a => (State.fenceGo_keeps_ledger ..).trans (State.addCmd_keeps_ledger ..))
  | identify c | getLog c => exact launched_keeps_ledger State.startAdmin_keeps_ledger
  | createQp c => exact Keeps.next (State.host_keeps_ledger _ _ _ _ _ _ fun a => State.finishNew_keeps_ledger ..)
  | deleteQp c => exact execDeleteQp_keeps_ledger s c
  | resetQp c => exact execResetQp_keeps_ledger s c
  | mount c cart => exact launched_keeps_ledger State.startMount_keeps_ledger
  | unmount c => exact launched_keeps_ledger State.startUnmount_keeps_ledger
  | selfTest c parts => exact Keeps.next (State.host_keeps_ledger _ _ _ _ _ _ (State.runTest_keeps_ledger c parts))
  | powerState c => exact Keeps.next (State.host_keeps_ledger _ _ _ _ _ _ (State.runPower_keeps_ledger c))
  | scrubRange c => exact launched_keeps_ledger State.startScrub_keeps_ledger
  | monitorCtl c data => exact execMonitorCtl_keeps_ledger s c data
  | recoverStabled c => exact launched_keeps_ledger State.startRecover_keeps_ledger
  | discardStabled c => exact launched_keeps_ledger State.startDiscard_keeps_ledger
  | blockReset c => exact Keeps.next (State.host_keeps_ledger _ _ _ _ _ _ (State.runBlock_keeps_ledger c))
  | sqTailWrite p q v | cqHeadWrite p q v => exact Keeps.next (doorbell_keeps_ledger s p q _)
  | completionWrite p q => exact Keeps.next (State.writeDone_keeps_ledger ..)
  | adminQueueEnable p => exact execAdminQueueEnable_keeps_ledger s p
  | warmRequest p =>
    have woken := ite_keeps_ledger (c := (s.ports[p]).linkUp = true) (State.modPort_keeps_ledger s p fun h => { h with l1 := false }) rfl
    exact Keeps.next (ite_keeps_ledger ((State.warmSource_keeps_ledger ..).trans woken) woken)
  | evtStatClear p w v raised | evtMaskWrite p w v | evtRouteWrite p w v =>
    exact Keeps.next (State.regAccess_keeps_ledger _ _ _ _ fun a => State.sendEvents_keeps_ledger ..)
  | msixVectorUnmask p v => exact Keeps.next (ite_keeps_ledger (State.msix_keeps_ledger ..) rfl)
  | monSelWrite p v => exact Keeps.next (State.regAccess_keeps_ledger _ _ _ _ fun _ => rfl)
  | flushNow p | flushAtBoundary p | clrcnt p =>
    exact Keeps.next (State.regAccess_keeps_ledger _ _ _ _ fun a => State.modSel_keeps_ledger ..)
  | trcDataRead p acc flips => exact execTrcDataRead_keeps_ledger s p acc flips
  | elogIdxWrite p v poisoned => exact Keeps.next (State.regAccess_keeps_ledger _ _ _ _ fun _ => rfl)
  | supV0Read p => exact execSupV0Read_keeps_ledger s p
  | registerWrite p ofs size v =>
    exact Keeps.next (State.regAccess_keeps_ledger _ _ _ _ fun a => ite_keeps_ledger (State.regEffect_keeps_ledger ..) rfl)
  | thermalTripRelease | refclkStable => exact Keeps.next (State.tryExit_keeps_ledger _)
  | watchdogReport d | ceLeak | thermalCapRaise | thermalStopClear => exact Keeps.next rfl
  | warmN => exact Keeps.next (State.warmSource_keeps_ledger ..)
  | stationStateSave st => exact Keeps.next (ite_keeps_ledger rfl rfl)
  | quiesceEnd => exact Keeps.next (State.quiesceEnd_keeps_ledger s)
  | portReset p => exact Keeps.next (State.portReset_keeps_ledger ..)
  | resetRelease src => exact Keeps.next (ite_keeps_ledger rfl (State.tryExit_keeps_ledger _))
  | fuseLoadDone => exact Keeps.next (ite_keeps_ledger rfl rfl)
  | memoryReady =>
    have built (a : State) : ((a.buildPools 0).buildPools 1).ledger = a.ledger :=
      (State.buildPools_keeps_ledger ..).trans (State.buildPools_keeps_ledger ..)
    exact Keeps.next (ite_keeps_ledger rfl ((State.tryE4_keeps_ledger _).trans (built _)))
  | deviceReady => exact Keeps.next (State.deviceReady_keeps_ledger s)
  | portLinkTrained p gen width msix => exact Keeps.next (ite_keeps_ledger rfl (ite_keeps_ledger rfl rfl))
  | vddCoreWarning mv => exact execVddCoreWarning_keeps_ledger s mv
  | dipStop => exact Keeps.next (ite_keeps_ledger rfl (State.eachWriting_keeps_ledger _ _ State.controlledStop_keeps_ledger))
  | dipRecovery min regrades => exact execDipRecovery_keeps_ledger s min regrades
  | thermalThrottle d temp => exact execThermalThrottle_keeps_ledger s d temp
  | thermalThrottleStep => exact execThermalThrottleStep_keeps_ledger s
  | thermalStop d temp => exact execThermalStop_keeps_ledger s d temp
  | busWarning st n => exact Keeps.next (State.busLevel_keeps_ledger _ _ _ _ _ fun a => State.setBusCap_keeps_ledger ..)
  | busWarningStep st n => exact execBusWarningStep_keeps_ledger s st n
  | busStop st n => exact Keeps.next (State.busLevel_keeps_ledger _ _ _ _ _ fun a => State.controlledStop_keeps_ledger a st)
  | busHold st n => exact Keeps.next (State.busLevel_keeps_ledger _ _ _ _ _ fun a => State.hold__keeps_ledger a st)
  | busRecovery st n => exact execBusRecovery_keeps_ledger s st n
  | busRecoveryStep st n => exact Keeps.next (ite_keeps_ledger rfl ((State.busRaise_keeps_ledger ..).trans (State.busReads_keeps_ledger ..)))
  | vbusMismatch st | ucieLinkRetrain d | drbgHealthFail => exact Keeps.next (State.raise_keeps_ledger ..)
  | upstreamFrame st lane f => exact Keeps.next (State.rxFrame_keeps_ledger ..)
  | sidebandContainer st slot => exact Keeps.next (State.container_keeps_ledger ..)
  | headEndResponse st msg => exact execHeadEndResponse_keeps_ledger s st msg
  | laneDown st lane => exact Keeps.next (State.laneDown_keeps_ledger ..)
  | laneTrainingDone st lane ok upNs downNs => exact Keeps.next (State.laneTrained_keeps_ledger ..)
  | laneTrainingRetry st lane => exact Keeps.next (State.laneRetry_keeps_ledger ..)
  | linkLoss st => exact execLinkLoss_keeps_ledger s st
  | linkRecovered st => exact Keeps.next (ite_keeps_ledger (State.holdExit_keeps_ledger ..) rfl)
  | rowDecode st pos track => exact Keeps.next (State.rowDecode_keeps_ledger ..)
  | retryAttempt st => exact Keeps.next (State.retryAttempt_keeps_ledger ..)
  | bandFreeze st => exact Keeps.next rfl
  | gatheringAcceptance st gnum => exact Keeps.next ((State.powerGo_keeps_ledger _).trans (State.acceptance_keeps_ledger ..))
  | intakeDone p q tag data ep => exact Keeps.next (State.intake_keeps_ledger ..)
  | engineDispatch d r => exact execEngineDispatch_keeps_ledger s d r
  | engineLaneFault d r lane => exact Keeps.next (State.fenceLane_keeps_ledger ..)
  | blockEmit st lon => exact execBlockEmit_keeps_ledger s st lon
  | rightAwayMark st lon block =>
    exact Keeps.next ((State.settle_keeps_ledger ..).trans ((State.releaseAll_keeps_ledger ..).trans (State.modRec_keeps_ledger ..)))
  | checkFail st lon block => exact execCheckFail_keeps_ledger s st lon block
  | encryptionDone st gnum => exact execEncryptionDone_keeps_ledger s st gnum
  | gatheringPlace st ahead => exact execGatheringPlace_keeps_ledger s st ahead
  | emptyGathering st => exact execEmptyGathering_keeps_ledger s st
  | speedDecision st => exact execSpeedDecision_keeps_ledger s st
  | speedStepDone st => exact execSpeedStepDone_keeps_ledger s st
  | stopDone st => exact Keeps.next (ite_keeps_ledger rfl rfl)
  | backhitchDone st gap => exact execBackhitchDone_keeps_ledger s st gap
  | wrapStart st => exact execWrapStart_keeps_ledger s st
  | rereadPassDone st => exact execRereadPassDone_keeps_ledger s st
  | rebuildPassDone st => exact execRebuildPassDone_keeps_ledger s st
  | lateralSample st => exact Keeps.next ((State.turnRound_keeps_ledger ..).trans (State.lateral_keeps_ledger ..))
  | writeInhibitEnd st | lateralSettled st => exact Keeps.next (ite_keeps_ledger rfl rfl)
  | missWinh st => exact Keeps.next (ite_keeps_ledger ((State.inhibitWrite_keeps_ledger ..).trans (State.count_keeps_ledger ..)) rfl)
  | missStop st =>
    have stopped := (State.controlledStop_keeps_ledger (s.count st 0 [25]) st).trans (State.count_keeps_ledger ..)
    exact Keeps.next (ite_keeps_ledger ((State.loseLpos_keeps_ledger ..).trans stopped) rfl)
  | reelSample st => exact Keeps.next (State.reel_keeps_ledger ..)
  | reelMissStop st => exact Keeps.next (ite_keeps_ledger (State.controlledStop_keeps_ledger ..) rfl)
  | auxSample st => exact Keeps.next (State.auxSample_keeps_ledger ..)
  | lposWord st => exact Keeps.next (ite_keeps_ledger ((State.settle_keeps_ledger ..).trans (State.lposTake_keeps_ledger ..)) rfl)
  | lposLost st => exact Keeps.next (ite_keeps_ledger (State.loseLpos_keeps_ledger ..) rfl)
  | kappaUpdate st takeUp servoLen => exact Keeps.next (State.kappa_keeps_ledger ..)
  | bankSwapTimeout st loop => exact execBankSwapTimeout_keeps_ledger s st loop
  | rampDone st => exact Keeps.next ((State.powerGo_keeps_ledger _).trans (State.rampDone_keeps_ledger ..))
  | tensioned st => exact execTensioned_keeps_ledger s st
  | tensionTimeout st => exact execTensionTimeout_keeps_ledger s st
  | poolGrant d owner len use => exact execPoolGrant_keeps_ledger s d owner len use
  | poolAdd d owner handle name => exact execPoolAdd_keeps_ledger s d owner handle name
  | poolRelease d owner handle => exact execPoolRelease_keeps_ledger s d owner handle
  | poolFree d owner handle => exact execPoolFree_keeps_ledger s d owner handle
  | pageRead a handle actor l c => exact execPageRead_keeps_ledger s a handle actor l c
  | pageWrite a handle actor first beats poison l => exact execPageWrite_keeps_ledger s a handle actor first beats poison l
  | writeBack k verify => exact execWriteBack_keeps_ledger s k verify
  | patrolScrub k flips place => exact Keeps.next (ite_keeps_ledger rfl (ite_keeps_ledger rfl (State.scrubPage_keeps_ledger (s.takeM _) ..)))
  | controlStoreFetch store cond flips => exact execControlStoreFetch_keeps_ledger s store cond flips
  | controlStoreScrub upsets => exact Keeps.next (foldl_keeps_ledger _ (fun _ _ => ite_keeps_ledger rfl (State.raise_keeps_ledger ..)) _ _)
  | stackLost k => exact execStackLost_keeps_ledger s k
  | ucieLinkDown => exact execUcieLinkDown_keeps_ledger s
  | selfTestTimeout parts | selfTestDone parts => exact Keeps.next (State.testEnds_keeps_ledger ..)
  | monitorSample d slot v => exact Keeps.next (ite_keeps_ledger rfl ((State.monTake_keeps_ledger ..).trans (State.monReading_keeps_ledger ..)))
  | blockReturn k => exact execBlockReturn_keeps_ledger s k
  | rangeScrubRead d flips place => exact execRangeScrubRead_keeps_ledger s d flips place
  | linkRateOrWidthChange p gen width => exact Keeps.next (ite_keeps_ledger rfl (State.raise_keeps_ledger ..))
  | mountOpenTimeout st => exact execMountOpenTimeout_keeps_ledger s st
  | _ => cases hi <;> exact sealed _

end

end Sys2Proof.Machine
end

section
/-!
PROOFS of the ledger's anchors (11, R367 to R369, R376): the operations and rows that write the ledger and leave what it is trusted for as it
was. LEDGER_WRITE_DONE and POWER_ON_RESET alone do not.
-/
namespace Sys2Proof.Machine

/-! ### The choice of an image (R369) -/

theorem Ledger.beginBoot_anchors (l : Ledger) : l.beginBoot.2.1.anchors = l.anchors := by
  unfold Ledger.beginBoot
  dsimp only
  split <;> rfl

theorem Ledger.reject_anchors (l : Ledger) (x : SlotId) (reason : Nat) : (l.reject x reason).anchors = l.anchors := by
  unfold Ledger.reject
  dsimp only
  split <;> rfl

theorem Ledger.bootFrom_anchors (l : Ledger) (x : SlotId) (g : Image) : (l.bootFrom x g).anchors = l.anchors := by
  unfold Ledger.bootFrom
  dsimp only
  split <;> rfl

/-- Whatever is tried, and whatever is accepted, the anchors stay. -/
theorem bootTry_anchors (f : Flash) (order : List SlotId) (l : Ledger) (n : Nat) : (bootTry f l n order).1.anchors = l.anchors := by
  induction order generalizing l n with
  | nil => rfl
  | cons x rest ih =>
    unfold bootTry
    split
    · exact Ledger.bootFrom_anchors ..
    · exact (ih _ _).trans (Ledger.reject_anchors ..)

/-! ### Operations -/

theorem State.host_keeps_anchors (s : State) (opc : Nat) (c : HostCmd) (own : State → Option Ending) (blocked : State → Option Hold)
    (run : State → State) (h : ∀ a, (run a).anchors = a.anchors) : (s.host opc c own blocked run).anchors = s.anchors := by
  have refused (e : Ending) : ((s.take c).finishNew c e).anchors = s.anchors :=
    (congrArg Ledger.anchors (State.finishNew_keeps_ledger ..)).trans (State.take_keeps_anchors ..)
  unfold State.host
  refine ite_keeps_anchors rfl (ite_keeps_anchors rfl ?_)
  split
  · exact refused _
  · refine ite_keeps_anchors (refused _) ?_
    split
    · exact refused _
    · split
      · rfl
      · exact (h _).trans (State.take_keeps_anchors ..)

theorem State.launch_keeps_anchors (s : State) (c : HostCmd) (k : Cmd) (go : CmdRef → State → State)
    (h : ∀ r a, (go r a).anchors = a.anchors) : (s.launch c k go).anchors = s.anchors := by
  refine ite_keeps_anchors ?_ ((h _ _).trans (State.addCmd_keeps_anchors ..))
  exact (congrArg Ledger.anchors (State.wakeFor_keeps_ledger ..)).trans (State.addCmd_keeps_anchors ..)

/-- A host row whose command is launched keeps the anchors where its start does. -/
theorem launched_keeps_anchors {s : State} {opc : Nat} {c : HostCmd} {own : State → Option Ending} {blocked : State → Option Hold}
    {k : State → Cmd} {go : CmdRef → State → State} (h : ∀ r a, (go r a).anchors = a.anchors) :
    Keeps State.anchors s (.next (s.host opc c own blocked fun a => a.launch c (k a) go)) :=
  Keeps.next (State.host_keeps_anchors _ _ _ _ _ _ fun a => State.launch_keeps_anchors a _ _ _ h)

/-- A cold source loses the writes in progress, and adds at most a black-box entry. -/
theorem State.coldSource_keeps_anchors (s : State) (src : ResetSource) (boxed : Option (Nat × Nat)) :
    (s.coldSource src boxed).anchors = s.anchors := by
  refine ite_keeps_anchors rfl ?_
  split
  · exact State.blackBox_keeps_anchors s _ _
  · rfl

theorem State.refclkLoss_keeps_anchors (s : State) : s.refclkLoss.anchors = s.anchors :=
  ite_keeps_anchors rfl (State.blackBox_keeps_anchors s 5 5)

theorem State.climbFrom_keeps_anchors (s : State) (st : Stn) (g : RGath) : (s.climbFrom st g).anchors = s.anchors := by
  unfold State.climbFrom
  split
  · rfl
  · split
    · exact ite_keeps_anchors (State.climb_keeps_anchors ..) rfl
    · rfl

/-! ### Rows -/

section
variable (s : State)

theorem execRetirePage_keeps_anchors (c : HostCmd) : Keeps State.anchors s (execRetirePage c s) := by
  refine Keeps.next (State.host_keeps_anchors _ _ _ _ _ _ fun a => ?_)
  have added := State.addCmd_keeps_anchors a c (Cmd.start c a.clock .moving)
  exact ite_keeps_anchors ((State.finish_keeps_anchors ..).trans added) added

theorem execSupplyReset_keeps_anchors (rail : Fin 6) (mv : Nat) : Keeps State.anchors s (execSupplyReset rail mv s) :=
  Keeps.next (ite_keeps_anchors rfl
    ((State.coldSource_keeps_anchors ..).trans (congrArg Ledger.anchors (State.railReads_keeps_ledger ..))))

theorem execThermalTrip_keeps_anchors (d : DieId) (temp : BitVec 16) : Keeps State.anchors s (execThermalTrip d temp s) := by
  have heated : (s.heat d temp).anchors = s.anchors := congrArg Ledger.anchors (State.heat_keeps_ledger ..)
  exact Keeps.next (ite_keeps_anchors rfl ((State.coldSource_keeps_anchors ..).trans heated))

theorem execWatchdogExpiry_keeps_anchors : Keeps State.anchors s (execWatchdogExpiry s) := by
  refine Keeps.next (ite_keeps_anchors rfl (ite_keeps_anchors (State.coldSource_keeps_anchors ..) ?_))
  exact (congrArg Ledger.anchors (State.warmSource_keeps_ledger ..)).trans (State.blackBox_keeps_anchors ..)

theorem execPackageFault_keeps_anchors (f : PkgFault) : Keeps State.anchors s (execPackageFault f s) := by
  refine Keeps.next ?_
  split
  · exact State.refclkLoss_keeps_anchors s
  · exact State.coldSource_keeps_anchors ..

theorem execBootImageChoice_keeps_anchors (f : Flash) : Keeps State.anchors s (execBootImageChoice f s) := by
  have tried : (bootTry f s.ledger.beginBoot.2.1 0 s.ledger.beginBoot.1).1.anchors = s.anchors :=
    (bootTry_anchors ..).trans (Ledger.beginBoot_anchors _)
  have applied (a : State) (l : List Nat) : (a.portsApply.raiseAll l).anchors = a.anchors :=
    congrArg Ledger.anchors ((State.raiseAll_keeps_ledger ..).trans (State.portsApply_keeps_ledger a))
  refine Keeps.next (ite_keeps_anchors rfl (ite_keeps_anchors ?_ ?_))
  · exact (congrArg Ledger.anchors (State.tryE4_keeps_ledger _)).trans ((applied _ _).trans tried)
  · exact (applied _ _).trans tried

theorem execChunkReadBack_keeps_anchors (back : List Byte) (target : SlotRead) :
    Keeps State.anchors s (execChunkReadBack back target s) := by
  refine Keeps.next ?_
  split
  · rfl
  · split
    · rfl
    · refine ite_keeps_anchors (State.finish_keeps_anchors ..) (ite_keeps_anchors ?_ ?_)
      · exact State.stageCheck_keeps_anchors ..
      · exact State.finish_keeps_anchors ..

theorem execWrapEnd_keeps_anchors (st : Stn) : Keeps State.anchors s (execWrapEnd st s) := by
  refine Keeps.next (ite_keeps_anchors rfl (ite_keeps_anchors (ite_keeps_anchors ?_ ?_) (ite_keeps_anchors ?_ rfl)))
  · exact congrArg Ledger.anchors (State.turn_keeps_ledger ..)
  · exact (State.quiesceGate_keeps_anchors ..).trans (congrArg Ledger.anchors (State.voidWriting_keeps_ledger ..))
  · exact State.recallWrapEnd_keeps_anchors ..

theorem execGatheringDecode_keeps_anchors (st : Stn) (gnum : Nat) : Keeps State.anchors s (execGatheringDecode st gnum s) := by
  refine Keeps.next ?_
  split
  · rfl
  · exact ite_keeps_anchors rfl ((State.readOn_keeps_anchors ..).trans (congrArg Ledger.anchors (State.decodeGath_keeps_ledger ..)))

theorem execQuireDecode_keeps_anchors (st : Stn) (quire : Nat) : Keeps State.anchors s (execQuireDecode st quire s) := by
  refine Keeps.next ?_
  split
  · rfl
  · exact ite_keeps_anchors ((State.readOn_keeps_anchors ..).trans (State.decodeQuire_keeps_anchors ..)) rfl

theorem execDecryptionDone_keeps_anchors (st : Stn) (gnum : Nat) : Keeps State.anchors s (execDecryptionDone st gnum s) := by
  have dropped : (s.dropJobs fun j => j == .decrypt st gnum).anchors = s.anchors :=
    congrArg Ledger.anchors (State.dropJobs_keeps_ledger ..)
  refine Keeps.next (ite_keeps_anchors rfl ?_)
  dsimp only
  split
  · exact dropped
  · split
    · exact (State.readOn_keeps_anchors ..).trans ((State.tagFailed_keeps_anchors ..).trans dropped)
    · split
      · exact (congrArg Ledger.anchors (State.endpaperPassed_keeps_ledger ..)).trans dropped
      · rw [State.readOn_keeps_anchors, State.climbFrom_keeps_anchors, State.labelRead_keeps_anchors, State.modStn_keeps_anchors, dropped]

theorem execDecompressionDone_keeps_anchors (st : Stn) (lon : Nat) : Keeps State.anchors s (execDecompressionDone st lon s) := by
  have dropped (f : JobKind → Bool) : (s.dropJobs f).anchors = s.anchors := congrArg Ledger.anchors (State.dropJobs_keeps_ledger s f)
  refine Keeps.next (ite_keeps_anchors rfl ?_)
  dsimp only
  rw [State.readOn_keeps_anchors, State.readDone_keeps_anchors, State.modStn_keeps_anchors, dropped]

/-- Of the rows of Instr.writesLedger, all but two leave what the ledger is trusted for alone. -/
theorem exec_writesLedger_keeps_anchors (i : Instr) (hi : i.writesLedger = true) (hw : i ≠ .ledgerWriteDone) (hp : i ≠ .powerOnReset) :
    Keeps State.anchors s (exec i s) := by
  cases i with
  | ledgerWriteDone => exact absurd rfl hw
  | powerOnReset => exact absurd rfl hp
  | migrate c => exact launched_keeps_anchors State.startMigrate_keeps_anchors
  | initVolume c => exact launched_keeps_anchors State.startInit_keeps_anchors
  | imageStage c data => exact Keeps.next (State.host_keeps_anchors _ _ _ _ _ _ (State.runStage_keeps_anchors c data))
  | imageConfirm c => exact Keeps.next (State.host_keeps_anchors _ _ _ _ _ _ (State.runConfirm_keeps_anchors c))
  | retirePage c => exact execRetirePage_keeps_anchors s c
  | resetN => exact Keeps.next (State.coldSource_keeps_anchors ..)
  | supplyReset rail mv => exact execSupplyReset_keeps_anchors s rail mv
  | thermalTrip d temp => exact execThermalTrip_keeps_anchors s d temp
  | watchdogExpiry => exact execWatchdogExpiry_keeps_anchors s
  | packageFault f => exact execPackageFault_keeps_anchors s f
  | refclkLoss => exact Keeps.next (State.refclkLoss_keeps_anchors s)
  | bootImageChoice f => exact execBootImageChoice_keeps_anchors s f
  | downstreamFrame st lane ncell => exact Keeps.next (State.txFrame_keeps_anchors ..)
  | wrapEnd st => exact execWrapEnd_keeps_anchors s st
  | gatheringDecode st gnum => exact execGatheringDecode_keeps_anchors s st gnum
  | quireDecode st quire => exact execQuireDecode_keeps_anchors s st quire
  | recordHandover st lon =>
    exact Keeps.next ((State.readOn_keeps_anchors ..).trans (congrArg Ledger.anchors (State.handover_keeps_ledger ..)))
  | trialWindowExpiry => exact Keeps.next (ite_keeps_anchors rfl (State.raise_keeps_anchors ..))
  | powerStateExitDone => exact Keeps.next (ite_keeps_anchors rfl (foldl_keeps_anchors _ State.runWaiting_keeps_anchors _ _))
  | decryptionDone st gnum => exact execDecryptionDone_keeps_anchors s st gnum
  | decompressionDone st lon => exact execDecompressionDone_keeps_anchors s st lon
  | chunkReadBack back target => exact execChunkReadBack_keeps_anchors s back target
  | _ => cases hi

/-- What the ledger is trusted for changes with LEDGER_WRITE_DONE and POWER_ON_RESET alone. -/
theorem exec_keeps_anchors (i : Instr) (hw : i ≠ .ledgerWriteDone) (hp : i ≠ .powerOnReset) : Keeps State.anchors s (exec i s) := by
  cases hi : i.writesLedger with
  | true => exact exec_writesLedger_keeps_anchors s i hi hw hp
  | false => exact (exec_keeps_ledger s i hi).comp Ledger.anchors

end

end Sys2Proof.Machine
end

section
/-!
PROOFS of configuration and microcode (11): the floor of security versions (R377). It never falls, no image below it is accepted, and a
confirmation raises it to the image that runs (R376).
-/
namespace Sys2Proof.Machine

/-! ### The acceptance of an image (R367) -/

/-- The number that bytes spell lies below the power of 256 of their count. -/
theorem leNat_lt (l : List Byte) : leNat l < 256 ^ l.length := by
  induction l with
  | nil => decide
  | cons b r ih =>
    have hb : b.toNat < 256 := b.isLt
    rw [leNat, List.length_cons, Nat.pow_succ]
    omega

theorem bytesAt_length (l : List Byte) (ofs len : Nat) : (bytesAt l ofs len).length = len := by
  simp only [bytesAt, padTo, zeros, List.length_append, List.length_take, List.length_replicate, List.length_drop]
  omega

/-- A field of an image lies below the power of 256 of its length. -/
theorem leAt_lt (l : List Byte) (ofs len : Nat) : leAt l ofs len < 256 ^ len := by
  have h := leNat_lt (bytesAt l ofs len)
  rwa [bytesAt_length] at h

/-- A check that has been passed on the way to an acceptance. -/
theorem check_passed {c : Prop} [Decidable c] {n : Nat} {e : Except Nat Image} {g : Image} (h : (if c then .error n else e) = .ok g) :
    ¬ c ∧ e = .ok g := by
  by_cases hc : c
  · rw [if_pos hc] at h
    cases h
  · rw [if_neg hc] at h
    exact ⟨hc, h⟩

/-- An accepted image is the one that was read, and its SECVER, as read, is at least FLOOR: the check of reason 7. -/
theorem accept_ok {x : SlotRead} {floor : BitVec 32} {pin : List Byte} {g : Image} (h : accept x floor pin = .ok g) :
    g = imageOf x.bytes ∧ floor.toNat ≤ leAt x.bytes 0xC 4 := by
  unfold accept at h
  obtain ⟨-, h⟩ := check_passed h
  obtain ⟨-, h⟩ := check_passed h
  obtain ⟨-, h⟩ := check_passed h
  obtain ⟨-, h⟩ := check_passed h
  obtain ⟨-, h⟩ := check_passed h
  obtain ⟨-, h⟩ := check_passed h
  obtain ⟨hfloor, h⟩ := check_passed h
  obtain ⟨-, h⟩ := check_passed h
  obtain ⟨-, h⟩ := check_passed h
  obtain ⟨-, h⟩ := check_passed h
  obtain ⟨-, h⟩ := check_passed h
  exact ⟨(Except.ok.inj h).symm, Nat.le_of_not_lt hfloor⟩

/-- SECVER of an image is the field as it was read: four bytes fit. -/
theorem imageOf_secVer_toNat (b : List Byte) : (imageOf b).secVer.toNat = leAt b 0xC 4 :=
  BitVec.toNat_ofNat .. |>.trans (Nat.mod_eq_of_lt (leAt_lt b 0xC 4))

/-- No image below the floor is accepted. -/
theorem floor_le_of_accept {x : SlotRead} {floor : BitVec 32} {pin : List Byte} {g : Image} (h : accept x floor pin = .ok g) :
    floor ≤ g.secVer := by
  obtain ⟨rfl, hfloor⟩ := accept_ok h
  rwa [BitVec.le_def, imageOf_secVer_toNat]

/-! ### The floor once a ledger write completes (R376) -/

/-- A floor that stays does not fall. -/
theorem floor_le_of_eq {l m : Ledger} (h : m.floor = l.floor) : l.floor ≤ m.floor := h ▸ BitVec.le_refl _

/-- A confirmation leaves the greater of the floor and the version confirmed. -/
theorem Ledger.confirm_floor_toNat (l : Ledger) (v : BitVec 32) : (l.confirm v).floor.toNat = max l.floor.toNat v.toNat := by
  show (if l.floor.ult v then v else l.floor).toNat = _
  by_cases h : l.floor.toNat < v.toNat
  · rw [if_pos (by rwa [BitVec.ult, decide_eq_true_eq]), Nat.max_eq_right h.le]
  · rw [if_neg (by rwa [BitVec.ult, decide_eq_true_eq]), Nat.max_eq_left (Nat.le_of_not_lt h)]

theorem Ledger.floor_le_confirm_floor (l : Ledger) (v : BitVec 32) : l.floor ≤ (l.confirm v).floor := by
  rw [BitVec.le_def, Ledger.confirm_floor_toNat]
  exact Nat.le_max_left ..

theorem Ledger.le_confirm_floor (l : Ledger) (v : BitVec 32) : v ≤ (l.confirm v).floor := by
  rw [BitVec.le_def, Ledger.confirm_floor_toNat]
  exact Nat.le_max_right ..

/-- The page of a retirement joins its list, and nothing else of the ledger changes. -/
theorem State.retired_ledger (s : State) (d : DieId) (dpn : Nat) (port : Port) :
    (s.retired d dpn port).ledger =
      { s.ledger with retired := vmod s.ledger.retired d fun l => if l.contains dpn ∨ l.length ≥ 2048 then l else l ++ [dpn] } := by
  unfold State.retired
  dsimp only
  split
  · rw [State.elogPage_keeps_ledger]
  · split
    · rw [State.modDie_ledger, State.elogPage_keeps_ledger]
    · rw [State.dropRemap_keeps_ledger, State.modDie_ledger, State.elogPage_keeps_ledger]

/-- The ledger once a confirmation has been written. -/
theorem State.ledgerDone_confirm_ledger (s : State) (w : CmdRef) : (s.ledgerDone (.confirm w)).ledger = s.ledger.confirm s.img.secVer :=
  State.finish_keeps_ledger ..

/-- Whatever ledger write completes, the floor does not fall. -/
theorem State.floor_le_ledgerDone (s : State) (op : LedgerOp) : s.ledger.floor ≤ (s.ledgerDone op).ledger.floor := by
  cases op with
  | newVolume st w =>
    have h := congrArg Ledger.floor (State.volumeNumbered_keeps_ledger
      { s with ledger := { s.ledger with volCnt := s.ledger.volCnt + 1, npfx := s.ledger.npfx + 1 } } st w)
    exact floor_le_of_eq h
  | retire d dpn w =>
    have h := congrArg Ledger.floor ((State.finish_keeps_ledger _ w (.ok 0)).trans (State.retired_ledger s d dpn w.port))
    exact floor_le_of_eq h
  | confirm w =>
    rw [State.ledgerDone_confirm_ledger]
    exact Ledger.floor_le_confirm_floor ..
  | stageTrial slot w =>
    have h := congrArg Ledger.floor (State.finish_keeps_ledger
      { s with ledger := { s.ledger with trial := some slot, tstate := .pending } } w (.ok 0))
    exact floor_le_of_eq h

/-! ### The floor over every command -/

/-- LEDGER_WRITE_DONE with a write in progress completes the oldest one. -/
theorem exec_ledgerWriteDone_cons {s : State} {op : LedgerOp} {rest : List LedgerOp} (h : s.ledger.writing = op :: rest) :
    exec .ledgerWriteDone s = .next ({ s with ledger := { s.ledger with writing := rest } }.ledgerDone op) := by
  show execLedgerWriteDone s = _
  rw [execLedgerWriteDone, h]

/-- LEDGER_WRITE_DONE with none changes nothing. -/
theorem exec_ledgerWriteDone_nil {s : State} (h : s.ledger.writing = []) : exec .ledgerWriteDone s = .next s := by
  show execLedgerWriteDone s = _
  rw [execLedgerWriteDone, h]

theorem floor_le_of_exec_ledgerWriteDone {s t : State} (h : exec .ledgerWriteDone s = .next t) : s.ledger.floor ≤ t.ledger.floor := by
  cases hw : s.ledger.writing with
  | nil =>
    rw [exec_ledgerWriteDone_nil hw] at h
    cases h
    exact BitVec.le_refl _
  | cons op rest =>
    rw [exec_ledgerWriteDone_cons hw] at h
    cases h
    exact State.floor_le_ledgerDone { s with ledger := { s.ledger with writing := rest } } op

/-- Every other command leaves the floor as it was: POWER_ON_RESET counts itself, and the rest keep all that the ledger is trusted for. -/
theorem floor_eq_of_exec {i : Instr} {s t : State} (hi : i ≠ .ledgerWriteDone) (h : exec i s = .next t) : t.ledger.floor = s.ledger.floor := by
  by_cases hp : i = .powerOnReset
  · subst hp
    cases h
    rfl
  · exact congrArg Anchors.floor ((exec_keeps_anchors s i hi hp).of_next h)

theorem floor_le_of_exec {i : Instr} {s t : State} (h : exec i s = .next t) : s.ledger.floor ≤ t.ledger.floor := by
  by_cases hi : i = .ledgerWriteDone
  · subst hi
    exact floor_le_of_exec_ledgerWriteDone h
  · exact floor_le_of_eq (floor_eq_of_exec hi h)

/-- Settles O10: FLOOR never falls (R377), as only LEDGER_WRITE_DONE writes it, and a confirmation leaves the greater of FLOOR and the SECVER of the
image that runs (R376). -/
theorem floorNeverFalls : Obligations.FloorNeverFalls := by
  refine ⟨fun _ _ _ h => floor_le_of_exec h, fun _ _ _ _ h => floor_le_of_accept h, fun w rest s hw => ?_⟩
  refine ⟨_, exec_ledgerWriteDone_cons hw, ?_⟩
  rw [State.ledgerDone_confirm_ledger]
  exact ⟨Ledger.le_confirm_floor .., rfl, rfl⟩

end Sys2Proof.Machine
end

section
/-!
PROOFS of the trace queues (13): the flush bits and CLRCNT (R430, R432), at a port that answers, and what a word that arrives does to a queue
with or without a pending flush (R427, R430).
-/
namespace Sys2Proof.Machine

/-! ### A word arrives -/

/-- A queue that has made room for one word: a full one has lost its oldest, and counted it (R427). -/
def TraceQ.roomed (q : TraceQ) : TraceQ :=
  if q.words.length ≥ traceDepth then { q.dropHead with lost := satInc q.lost } else q

/-- A queue with one more word, before any flush that is pending acts. -/
def TraceQ.push (q : TraceQ) (w : BitVec 64) (e : Bool) : TraceQ :=
  { q.roomed with words := q.roomed.words ++ [⟨w, e, secded w e⟩] }

section
variable (q : TraceQ) (w : BitVec 64) (e : Bool)

theorem TraceQ.dropHead_bfPend : q.dropHead.bfPend = q.bfPend := by
  unfold TraceQ.dropHead
  split <;> rfl

/-- Making room leaves a pending flush as it is. -/
theorem TraceQ.roomed_bfPend : q.roomed.bfPend = q.bfPend := by
  unfold TraceQ.roomed
  split
  · exact q.dropHead_bfPend
  · rfl

theorem TraceQ.roomed_of_lt {q : TraceQ} (h : q.words.length < traceDepth) : q.roomed = q :=
  if_neg (Nat.not_le.mpr h)

@[simp] theorem TraceQ.push_bfPend : (q.push w e).bfPend = q.bfPend := q.roomed_bfPend

theorem TraceQ.push_words_ne_nil : (q.push w e).words ≠ [] :=
  List.append_ne_nil_of_right_ne_nil _ (List.cons_ne_nil _ _)

/-- After a word, a packet is open exactly when the word had no end mark. -/
@[simp] theorem TraceQ.push_openPkt : (q.push w e).openPkt = !e := by
  simp [TraceQ.openPkt, TraceQ.push]

/-- A word that finds room loses none. -/
theorem TraceQ.push_lost {q : TraceQ} (h : q.words.length < traceDepth) : (q.push w e).lost = q.lost := by
  rw [TraceQ.push, TraceQ.roomed_of_lt h]

/-- What an arriving word does: it is stored, and one with an end mark then lets a pending flush act. -/
theorem TraceQ.put_eq : (q.put w e).1 = if q.bfPend && e then (q.push w e).empty else q.push w e := by
  rw [← q.push_bfPend w e]
  rfl

/-- A word without an end mark is stored, whether a flush is pending or not. -/
theorem TraceQ.put_unended : (q.put w false).1 = q.push w false := by
  rw [TraceQ.put_eq, Bool.and_false]
  rfl

/-- A word with an end mark is stored and flushed with the rest, where a flush is pending. -/
theorem TraceQ.put_ended_of_bfPend {q : TraceQ} (h : q.bfPend = true) : (q.put w true).1 = (q.push w true).empty := by
  rw [TraceQ.put_eq, h]
  rfl

/-- A flush, at once or by the arriving word, counts nothing in LOST, so a word that finds room leaves LOST as it was. -/
theorem TraceQ.put_lost {q : TraceQ} (h : q.words.length < traceDepth) : (q.put w e).1.lost = q.lost := by
  rw [TraceQ.put_eq]
  split
  · exact TraceQ.push_lost w e h
  · exact TraceQ.push_lost w e h

end

/-! ### The selected queue -/

/-- Coming out of L1 leaves the port's selection of a trace queue. -/
theorem State.traceSel_awake (s : State) (p : Port) :
    ((s.modPort p fun h => { h with l1 := false }).ports[p]).traceSel = (s.ports[p]).traceSel := by
  unfold HostPort.traceSel
  rw [State.modPort_ports, vmod_get_self]

/-- A change of the selected queue replaces that queue of that die, whatever the link's state before the access. -/
theorem State.modSel_awake (s : State) (p : Port) (f : TraceQ → TraceQ) :
    (s.modPort p fun h => { h with l1 := false }).modSel p f =
      (s.modPort p fun h => { h with l1 := false }).modDie (s.ports[p]).traceSel.1 fun d =>
        d.modTrace (s.ports[p]).traceSel.2 fun _ => f ((s.dies[(s.ports[p]).traceSel.1]).trace[(s.ports[p]).traceSel.2]) := by
  rw [State.modSel, State.traceSel_awake]
  rfl

/-- An access of TRC_CTL that its port answers, and that changes the selected queue by `f`, changes that queue and the link's L1 alone. -/
theorem State.trcCtl_answers {s : State} {p : Port} (ha : s.regAnswers p 0x800 = true) (f : TraceQ → TraceQ) :
    s.regAccess p 0x800 (fun s => s.modSel p f) =
      (s.modPort p fun h => { h with l1 := false }).modDie (s.ports[p]).traceSel.1 fun d =>
        d.modTrace (s.ports[p]).traceSel.2 fun _ => f ((s.dies[(s.ports[p]).traceSel.1]).trace[(s.ports[p]).traceSel.2]) := by
  rw [State.regAccess_answers s p 0x800 _ ha]
  exact s.modSel_awake p f

/-- FLUSH_AT_BOUNDARY is pending inside a packet; after an end mark it empties the queue, and nothing is left to come as a fragment. -/
theorem TraceQ.flushAtBoundary_eq (q : TraceQ) :
    (if q.openPkt then { q with bfPend := true } else q.empty) =
      if q.openPkt = true then { q with bfPend := true } else { q with words := [], frag := false, bfPend := false } := by
  cases h : q.openPkt with
  | true => rfl
  | false => simp [TraceQ.empty, h]

/-! ### The obligation -/

/-- Settles O12: a pending flush acts at the next end mark and no flush counts in LOST (R430), by what an arriving word does; the three controls
of TRC_CTL are each one change of the selected queue. -/
theorem traceQueueControls : Obligations.TraceQueueControls := by
  refine ⟨fun q w hb => ?_, fun q w e hl => TraceQ.put_lost w e hl, fun p s ha => ⟨?_, ?_, ?_⟩⟩
  · rw [TraceQ.put_ended_of_bfPend w hb, TraceQ.put_unended]
    exact ⟨rfl, rfl, q.push_openPkt w true, (q.push_bfPend w false).trans hb, q.push_words_ne_nil w false⟩
  · exact congrArg Host.Outcome.next (State.trcCtl_answers ha TraceQ.empty)
  · have h := State.trcCtl_answers ha fun q => if q.openPkt then { q with bfPend := true } else q.empty
    rw [TraceQ.flushAtBoundary_eq] at h
    exact congrArg Host.Outcome.next h
  · exact congrArg Host.Outcome.next (State.trcCtl_answers ha fun q => { q with lost := 0, corr := 0, unc := 0, lossSeen := false })

end Sys2Proof.Machine
end

section
/-!
PROOFS of the register map (14): the value that stands in SUP_V0, and what the read of it does at a port that answers (R443).
-/
namespace Sys2Proof.Machine

/-! ### A register behind others that end below it -/

/-- No register of a list reaches an offset: each ends at or below it. -/
def RegsBelow (ofs : Nat) (l : List (Nat × Nat × Nat)) : Prop := ∀ r ∈ l, r.1 + r.2.1 ≤ ofs

theorem RegsBelow.append {ofs : Nat} {l m : List (Nat × Nat × Nat)} (hl : RegsBelow ofs l) (hm : RegsBelow ofs m) :
    RegsBelow ofs (l ++ m) :=
  List.forall_mem_append.mpr ⟨hl, hm⟩

/-- The word at an offset is that of the register there, where those before it in the map end below it. -/
theorem State.regWord_of_below {s : State} {p : Port} {ofs len v : Nat} {pre post : List (Nat × Nat × Nat)}
    (hr : s.regs p = pre ++ (ofs, len, v) :: post) (hb : RegsBelow ofs pre) (hlen : 0 < len) :
    s.regWord p ofs = BitVec.ofNat 32 v := by
  have miss : pre.find? (fun r => r.1 ≤ ofs && ofs < r.1 + r.2.1) = none :=
    List.find?_eq_none.mpr fun r hm => by simpa using fun _ => hb r hm
  have found : (s.regs p).find? (fun r => r.1 ≤ ofs && ofs < r.1 + r.2.1) = some (ofs, len, v) := by
    rw [hr, List.find?_append, miss, Option.none_or, List.find?_cons_of_pos (by simpa using hlen)]
  rw [State.regWord, found]
  simp

/-! ### The registers before the supply block (Table 14.2) -/

section
variable (s : State) (p : Port)

theorem State.portRegs_below : RegsBelow 0x4000 (s.portRegs p) := by
  simp [RegsBelow, State.portRegs]

theorem HostPort.monRegs_below (h : HostPort) : RegsBelow 0x4000 h.monRegs := by
  simp [RegsBelow, HostPort.monRegs]

theorem State.traceRegs_below : RegsBelow 0x4000 (s.traceRegs p) := by
  simp [RegsBelow, State.traceRegs]

theorem State.elogRegs_below : RegsBelow 0x4000 (s.elogRegs p) := by
  simp [RegsBelow, State.elogRegs]

/-- The status block of the last station, too, ends below the supply block. -/
theorem State.stnRegs_below (st : Stn) : RegsBelow 0x4000 (s.stnRegs st) := by
  have hst := st.isLt
  simp only [RegsBelow, State.stnRegs, List.forall_mem_cons, List.not_mem_nil, false_imp_iff, implies_true, and_true]
  omega

/-- The status blocks of the stations in use end below the supply block. -/
theorem State.stnBlocks_below : RegsBelow 0x4000 (allStns.flatMap fun t => if s.usable t then s.stnRegs t else []) := by
  intro r hr
  obtain ⟨st, -, hst⟩ := List.mem_flatMap.mp hr
  split at hst
  · exact s.stnRegs_below st r hst
  · cases hst

/-! ### SUP_V0 (Table 14.12) -/

/-- SUP_V0 as it stands in the map: the reading of VDD_CORE and its minimum. -/
def Supply.v0 (u : Supply) : Nat := fields [(0, 16, u.now[0]), (16, 16, u.min[0])]

theorem Supply.v0_eq (u : Supply) : u.v0 = u.now[0] % 65536 + 65536 * (u.min[0] % 65536) := by
  simp [Supply.v0, fields, Nat.mul_comm]

/-- The supply block begins with SUP_V0. -/
theorem State.supplyRegs_eq_cons : ∃ rest, s.supplyRegs = (0x4000, 4, s.supply.v0) :: rest := by
  have first (v : Vector Nat 7) : v.toList = v[0] :: v.toList.drop 1 :=
    (List.getElem_cons_drop (as := v.toList) (i := 0) (by simp)).symm
  rw [State.supplyRegs, first s.supply.now, first s.supply.min]
  exact ⟨_, rfl⟩

/-- The word at 0x4000 is SUP_V0. -/
theorem State.regWord_supV0 : s.regWord p 0x4000 = BitVec.ofNat 32 s.supply.v0 := by
  obtain ⟨rest, hs⟩ := s.supplyRegs_eq_cons
  refine State.regWord_of_below (len := 4) (post := rest ++ s.ledgerRegs p) (by rw [State.regs, hs, List.append_assoc, List.cons_append]) ?_ (by decide)
  exact ((((s.portRegs_below p).append (s.ports[p]).monRegs_below).append (s.traceRegs_below p)).append (s.elogRegs_below p)).append
    s.stnBlocks_below

/-- A read of SUP_V0 that its port answers returns the reading of VDD_CORE and its minimum. -/
theorem State.readBar0_supV0_toNat {s : State} {p : Port} (ha : s.regAnswers p 0x4000 = true) :
    (s.readBar0 p 0x4000 4).toNat = s.supply.now[0] % 65536 + 65536 * (s.supply.min[0] % 65536) := by
  have read : s.readBar0 p 0x4000 4 = (s.regWord p 0x4000).zeroExtend 64 := by
    simp [State.readBar0, ha]
  rw [read, State.regWord_supV0, BitVec.toNat_setWidth, BitVec.toNat_ofNat, Supply.v0_eq]
  omega

end

/-! ### The obligation -/

/-- A register answers only where its port's link is up (R436). -/
theorem State.linkUp_of_regAnswers {s : State} {p : Port} {ofs : Nat} (ha : s.regAnswers p ofs = true) : (s.ports[p]).linkUp = true := by
  rw [State.regAnswers, Bool.and_eq_true] at ha
  exact ha.1

/-- SUP_V0_READ where the register answers: the word leaves, and every minimum starts again from its rail's reading. -/
theorem exec_supV0Read_of_regAnswers {p : Port} {s : State} (ha : s.regAnswers p 0x4000 = true) :
    exec (.supV0Read p) s = .next { (s.touch p).answerRead p ((s.touch p).readBar0 p 0x4000 4) with
      supply := { s.supply with min := s.supply.now } } := by
  show execSupV0Read p s = _
  have awake : s.regAccess p 0x4000 id = s.touch p := State.regAccess_answers s p 0x4000 id ha
  rw [execSupV0Read, if_pos (State.linkUp_of_regAnswers ha), awake, if_pos ((s.touch_regAnswers p 0x4000).trans ha)]
  rfl

/-- Settles O16: SUP_V0 is the first register of its block and no register before it reaches it, so a read returns it (Table 14.12), and
SUP_V0_READ starts every minimum again (R443). Coming out of L1 leaves the supply as it was. -/
theorem supplyMinimaRestart : Obligations.SupplyMinimaRestart := by
  intro p s ha
  exact ⟨_, exec_supV0Read_of_regAnswers ha, State.readBar0_supV0_toNat ((s.touch_regAnswers p 0x4000).trans ha)⟩

end Sys2Proof.Machine
end

section
/-!
PROOFS of the frame of the control state (14, 12): the operations and rows that leave it as it was. One lemma for each operation that
Laws/Control.lean does not have, and for each row that chooses between several effects.
-/
namespace Sys2Proof.Machine

/-! ### Operations -/

theorem State.opsDone_control (s : State) (d : DieId) (p : Fin 5) : (s.opsDone d p).control = s.control :=
  ite_control rfl ((State.grantsGo_control _).trans (State.wakeDue_control ..))

theorem State.useGo_control (s : State) (use : PoolUse) : (s.useGo use).control = s.control := by
  unfold State.useGo
  split
  · exact (State.settle_control ..).trans (State.numberLabels_control ..)
  · rfl

theorem State.turnRound_control (s : State) (st : Stn) : (s.turnRound st).control = s.control := by
  unfold State.turnRound
  dsimp only
  split
  · rfl
  · exact ite_control rfl (State.rampTo_control ..)

theorem State.turnAtRest_control (s : State) (st : Stn) : (s.turnAtRest st).control = s.control := by
  unfold State.turnAtRest
  dsimp only
  split
  · rfl
  · exact ite_control ((State.settle_control ..).trans (State.nextWrap_control ..)) rfl

theorem State.readAgain_control (s : State) (st : Stn) : (s.readAgain st).control = s.control := by
  refine ite_control rfl ?_
  rw [State.modStn_control, State.runBack_control, State.aim_control]

theorem State.mountTensioned_control (s : State) (st : Stn) (r : CmdRef) : (s.mountTensioned st r).control = s.control := by
  unfold State.mountTensioned
  split
  · exact State.mountOn_control ..
  · exact State.mountReads_control ..

theorem State.rawFails_control (s : State) (st : Stn) (lon lane : Nat) : (s.rawFails st lon lane).control = s.control := by
  have fenced := State.fenceLane_control s (dieOf st) .compression lane
  have dropped : ((s.fenceLane (dieOf st) .compression lane).dropJobs (· == JobKind.compress st lon)).control = s.control :=
    (State.dropJobs_control ..).trans fenced
  refine ite_control fenced (ite_control ?_ ?_)
  · exact (State.jobFails_control ..).trans dropped
  · exact (State.addJob_control ..).trans ((State.startOver_control ..).trans dropped)

/-- A doorbell write (R318), whatever its checks answer: the port is touched, and a queue's index moves or the doorbell-error event is raised. -/
theorem doorbell_control {c b : Prop} [Decidable c] [Decidable b] (s : State) (p : Port) (q : Nat) (f : Qp → Qp) :
    (if c then s.touch p else if b then (s.touch p).badDoorbell p else (s.touch p).modQp p q f).control = s.control := by
  have touched := State.touch_control s p
  refine ite_control touched (ite_control ?_ ?_)
  · exact (State.badDoorbell_control ..).trans touched
  · exact (State.modQp_control ..).trans touched

/-- A host row whose command is launched keeps the control state where its start does. -/
theorem launched_control {s : State} {opc : Nat} {c : HostCmd} {own : State → Option Ending} {blocked : State → Option Hold}
    {k : State → Cmd} {go : CmdRef → State → State} (h : ∀ r a, (go r a).control = a.control) :
    Keeps State.control s (.next (s.host opc c own blocked fun a => a.launch c (k a) go)) :=
  Keeps.next (State.host_control _ _ _ _ _ _ fun a => State.launch_control a _ _ _ h)

theorem State.climbFrom_control (s : State) (st : Stn) (g : RGath) : (s.climbFrom st g).control = s.control := by
  unfold State.climbFrom
  split
  · rfl
  · split
    · exact ite_control (State.climb_control ..) rfl
    · rfl

/-! ### Rows that choose between several effects -/

section
variable (s : State)

theorem execAppend_control (c : HostCmd) : Keeps State.control s (execAppend c s) := by
  have ran := State.host_control s 0x01 c (appendOwn c) (appendBlocked c) _ (State.runAppend_control c)
  refine Keeps.next (ite_control (State.hold_control ..) (ite_control ?_ ran))
  exact (State.gapLon_control ..).trans ran

theorem execDeleteQp_control (c : HostCmd) : Keeps State.control s (execDeleteQp c s) := by
  refine Keeps.next (State.host_control _ _ _ _ _ _ fun a => ?_)
  dsimp only
  refine (State.finishNew_control ..).trans ((State.modPort_control _ _ _ ?_).trans (State.abandonOpen_control ..))
  exact fun _ => rfl

theorem execMonitorCtl_control (c : HostCmd) (data : List Byte) : Keeps State.control s (execMonitorCtl c data s) := by
  refine Keeps.next (State.host_control _ _ _ _ _ _ fun a => ?_)
  rw [State.finish_control, State.modDie_control, State.addCmd_control]

theorem execMountOpenTimeout_control (st : Stn) : Keeps State.control s (execMountOpenTimeout st s) := by
  refine Keeps.next ?_
  split
  · rfl
  · exact ite_control (State.finish_control ..) rfl

theorem execPoolGrant_control (d : DieId) (owner len : Nat) (use : PoolUse) :
    Keeps State.control s (execPoolGrant d owner len use s) := by
  refine Keeps.next (ite_control (State.misuse_control ..) (ite_control rfl ?_))
  split
  · exact State.poolRefuse_control ..
  · refine ite_control rfl ?_
    split
    · dsimp only
      rw [State.useGo_control, State.grantsGo_control, State.grantUse_control, State.takeBuf_control]
    · exact State.poolWait_control ..
    · exact ite_control (State.poolRefuse_control ..) (State.poolWait_control ..)

theorem execPoolAdd_control (d : DieId) (owner : Nat) (handle : BitVec 32) (name : Nat) :
    Keeps State.control s (execPoolAdd d owner handle name s) := by
  refine Keeps.next ?_
  split
  · exact State.misuse_control ..
  · exact ite_control rfl (State.opsDone_control ..)

theorem execPoolRelease_control (d : DieId) (owner : Nat) (handle : BitVec 32) :
    Keeps State.control s (execPoolRelease d owner handle s) := by
  refine Keeps.next ?_
  split
  · exact State.misuse_control ..
  · exact ite_control rfl ((State.opsDone_control ..).trans (State.strike_control ..))

theorem execPoolFree_control (d : DieId) (owner : Nat) (handle : BitVec 32) :
    Keeps State.control s (execPoolFree d owner handle s) := by
  refine Keeps.next ?_
  split
  · exact State.misuse_control ..
  · exact ite_control rfl ((State.opsDone_control ..).trans (State.freeBuf_control ..))

theorem execBusWarningStep_control (st : Stn) (n : Nat) : Keeps State.control s (execBusWarningStep st n s) := by
  refine Keeps.next ?_
  split
  · exact ite_control rfl ((State.setBusCap_control ..).trans (State.busReads_control ..))
  · rfl

theorem execBusRecovery_control (st : Stn) (n : Nat) : Keeps State.control s (execBusRecovery st n s) := by
  refine Keeps.next (ite_control rfl ?_)
  rw [State.holdExit_control, State.busRaise_control, State.modStn_control, State.busReads_control]

theorem execStackLost_control (k : Fin 4) : Keeps State.control s (execStackLost k s) := by
  refine Keeps.next (ite_control rfl ?_)
  rw [State.sealsGo_control, State.faultDie_control, State.raise_control, State.modStack_control]

theorem execHeadEndResponse_control (st : Stn) (msg : BitVec 64) : Keeps State.control s (execHeadEndResponse st msg s) := by
  refine Keeps.next ?_
  split
  · exact ite_control (State.answer_control ..) rfl
  · rfl

theorem execLinkLoss_control (st : Stn) : Keeps State.control s (execLinkLoss st s) := by
  refine Keeps.next (ite_control rfl ?_)
  rw [State.powerGo_control, State.loseLink_control, State.raise_control, State.count_control]

theorem execBankSwapTimeout_control (st : Stn) (loop : LoopId) : Keeps State.control s (execBankSwapTimeout st loop s) := by
  cases loop <;> exact Keeps.next rfl

theorem execTensioned_control (st : Stn) : Keeps State.control s (execTensioned st s) := by
  refine Keeps.next (ite_control rfl ?_)
  dsimp only
  split
  · exact ite_control (State.mountTensioned_control ..) (State.serveSeek_control ..)
  · exact (State.powerGo_control _).trans (State.serveSeek_control ..)

theorem execTensionTimeout_control (st : Stn) : Keeps State.control s (execTensionTimeout st s) := by
  have opened := State.openLoops_control s st
  refine Keeps.next (ite_control rfl ?_)
  dsimp only
  split
  · exact ite_control ((State.finish_control ..).trans ((State.dismount_control ..).trans opened)) opened
  · exact (State.powerGo_control _).trans opened

theorem execSpeedStepDone_control (st : Stn) : Keeps State.control s (execSpeedStepDone st s) :=
  Keeps.next (ite_control rfl (ite_control (State.fillResume_control ..) rfl))

theorem execBackhitchDone_control (st : Stn) (gap : Nat) : Keeps State.control s (execBackhitchDone st gap s) := by
  refine Keeps.next (ite_control rfl (ite_control (State.controlledStop_control ..) ?_))
  rw [State.modStn_control, State.capDown_control, State.resume_control, State.newRun_control, State.endFill_control,
    State.modStn_control]

theorem execSpeedDecision_control (st : Stn) : Keeps State.control s (execSpeedDecision st s) := by
  refine Keeps.next ?_
  rw [State.modStn_control, State.powerGo_control, State.readAgain_control, State.serveSeek_control,
    State.speedDecide_control, State.turnAtRest_control]

theorem execWrapStart_control (st : Stn) : Keeps State.control s (execWrapStart st s) := by
  refine Keeps.next (ite_control rfl (ite_control (State.controlledStop_control ..) ?_))
  rw [State.capDown_control, State.modStn_control, State.newRun_control]

theorem execRereadPassDone_control (st : Stn) : Keeps State.control s (execRereadPassDone st s) := by
  refine Keeps.next (ite_control rfl ?_)
  split
  · exact State.mountSearch_control ..
  · have aimed := State.aim_control (s.modStn st fun t => t.modRecall Recall.again) st (s.stns[st]).readSide.wrap 0
    refine ite_control rfl (ite_control ?_ ?_)
    · exact (State.controlledStop_control ..).trans aimed
    · rw [State.modStn_control, State.rampTo_control]
      exact aimed

theorem execRebuildPassDone_control (st : Stn) : Keeps State.control s (execRebuildPassDone st s) := by
  refine Keeps.next ?_
  split
  · rfl
  · exact ite_control rfl (State.rebuild_control ..)

theorem execGatheringPlace_control (st : Stn) (ahead : Nat) : Keeps State.control s (execGatheringPlace st ahead s) := by
  refine Keeps.next (ite_control rfl ?_)
  split
  · exact State.placeTail_control ..
  · rfl
  · exact ite_control (State.reserveFault_control ..) ((State.settle_control ..).trans (State.placeNext_control ..))

theorem execEmptyGathering_control (st : Stn) : Keeps State.control s (execEmptyGathering st s) :=
  Keeps.next (ite_control rfl (ite_control (State.controlledStop_control ..) (State.closeEmpty_control ..)))

theorem execEngineDispatch_control (d : DieId) (r : Region) : Keeps State.control s (execEngineDispatch d r s) := by
  have dropped := State.dropJobs_control s s.hashOver
  refine Keeps.next (ite_control ?_ (ite_control dropped ?_))
  · exact (foldl_control _ State.jobRefused_control _ _).trans dropped
  · split
    · exact dropped
    · split
      · exact dropped
      · exact dropped

theorem execBlockEmit_control (st : Stn) (lon : Nat) : Keeps State.control s (execBlockEmit st lon s) := by
  refine Keeps.next ?_
  split
  · rfl
  · rfl
  · split
    · exact (State.afterBlock_control ..).trans (State.modRec_control ..)
    · refine ite_control rfl ?_
      split
      · exact State.afterBlock_control ..
      · dsimp only
        rw [State.settle_control, State.afterBlock_control, State.modStn_control, State.modRec_control]

theorem execCheckFail_control (st : Stn) (lon block : Nat) : Keeps State.control s (execCheckFail st lon block s) := by
  refine Keeps.next ?_
  split
  · rfl
  · split
    · rfl
    · split
      · rfl
      · refine ite_control rfl (ite_control (State.rawFails_control ..) ?_)
        refine (State.settle_control ..).trans ((State.modRec_control ..).trans ?_)
        split
        · exact State.burnFrom_control ..
        · exact ite_control (State.burnFrom_control ..) rfl

theorem execEncryptionDone_control (st : Stn) (gnum : Nat) : Keeps State.control s (execEncryptionDone st gnum s) := by
  refine Keeps.next (ite_control rfl ?_)
  dsimp only
  rw [State.settle_control, State.releaseAll_control, State.modStn_control, State.dropJobs_control]

theorem execRetirePage_control (c : HostCmd) : Keeps State.control s (execRetirePage c s) := by
  refine Keeps.next (State.host_control _ _ _ _ _ _ fun a => ?_)
  have added := State.addCmd_control a c (Cmd.start c a.clock .moving)
  exact ite_control ((State.finish_control ..).trans added) added

theorem execWrapEnd_control (st : Stn) : Keeps State.control s (execWrapEnd st s) := by
  refine Keeps.next (ite_control rfl (ite_control (ite_control ?_ ?_) (ite_control ?_ rfl)))
  · exact State.turn_control ..
  · exact (State.quiesceGate_control ..).trans (State.voidWriting_control ..)
  · exact State.recallWrapEnd_control ..

theorem execGatheringDecode_control (st : Stn) (gnum : Nat) : Keeps State.control s (execGatheringDecode st gnum s) := by
  refine Keeps.next ?_
  split
  · rfl
  · exact ite_control rfl ((State.readOn_control ..).trans (State.decodeGath_control ..))

theorem execQuireDecode_control (st : Stn) (quire : Nat) : Keeps State.control s (execQuireDecode st quire s) := by
  refine Keeps.next ?_
  split
  · rfl
  · exact ite_control ((State.readOn_control ..).trans (State.decodeQuire_control ..)) rfl

theorem execDecryptionDone_control (st : Stn) (gnum : Nat) : Keeps State.control s (execDecryptionDone st gnum s) := by
  have dropped : (s.dropJobs fun j => j == .decrypt st gnum).control = s.control :=
    State.dropJobs_control ..
  refine Keeps.next (ite_control rfl ?_)
  dsimp only
  split
  · exact dropped
  · split
    · exact (State.readOn_control ..).trans ((State.tagFailed_control ..).trans dropped)
    · split
      · exact (State.endpaperPassed_control ..).trans dropped
      · rw [State.readOn_control, State.climbFrom_control, State.labelRead_control, State.modStn_control, dropped]

theorem execDecompressionDone_control (st : Stn) (lon : Nat) : Keeps State.control s (execDecompressionDone st lon s) := by
  have dropped (f : JobKind → Bool) : (s.dropJobs f).control = s.control := State.dropJobs_control s f
  refine Keeps.next (ite_control rfl ?_)
  dsimp only
  rw [State.readOn_control, State.readDone_control, State.modStn_control, dropped]

/-- The rows outside Instr.setsControl leave the control state alone. -/
theorem exec_keeps_control (i : Instr) (hi : i.setsControl = false) : Keeps State.control s (exec i s) := by
  -- The word for SEAL is also a command of Lean and cannot name a case: it comes last.
  have sealed (c : HostCmd) : Keeps State.control s (exec (.seal c) s) :=
    Keeps.next (State.host_control _ _ _ _ _ _ fun a => State.launch_control (a.sealNow _) _ _ _ State.startSeal_control)
  cases i with
  | append c => exact execAppend_control s c
  | read c | locate c | verify c => exact Keeps.next (State.host_control _ _ _ _ _ _ (State.runReader_control c))
  | flush c => exact launched_control State.startFlush_control
  | orderFence c =>
    exact Keeps.next (State.host_control _ _ _ _ _ _ fun a => (State.fenceGo_control ..).trans (State.addCmd_control ..))
  | migrate c => exact launched_control State.startMigrate_control
  | identify c | getLog c => exact launched_control State.startAdmin_control
  | createQp c =>
    exact Keeps.next (State.host_control _ _ _ _ _ _ fun a => (State.finishNew_control ..).trans (State.modPort_control _ _ _ fun _ => rfl))
  | deleteQp c => exact execDeleteQp_control s c
  | mount c cart => exact launched_control State.startMount_control
  | unmount c => exact launched_control State.startUnmount_control
  | initVolume c => exact launched_control State.startInit_control
  | powerState c => exact Keeps.next (State.host_control _ _ _ _ _ _ (State.runPower_control c))
  | imageConfirm c => exact Keeps.next (State.host_control _ _ _ _ _ _ (State.runConfirm_control c))
  | retirePage c => exact execRetirePage_control s c
  | scrubRange c => exact launched_control State.startScrub_control
  | monitorCtl c data => exact execMonitorCtl_control s c data
  | recoverStabled c => exact launched_control State.startRecover_control
  | discardStabled c => exact launched_control State.startDiscard_control
  | sqTailWrite p q v | cqHeadWrite p q v => exact Keeps.next (doorbell_control s p q _)
  | completionWrite p q => exact Keeps.next (State.writeDone_control ..)
  | evtStatClear p w v raised =>
    exact Keeps.next (State.regAccess_control _ _ _ _ fun a => (State.sendEvents_control ..).trans (State.modPort_control _ _ _ fun _ => rfl))
  | flushNow p | flushAtBoundary p | clrcnt p =>
    exact Keeps.next (State.regAccess_control _ _ _ _ fun a => State.modSel_control ..)
  | busWarning st n => exact Keeps.next (State.busLevel_control _ _ _ _ _ fun a => State.setBusCap_control ..)
  | busWarningStep st n => exact execBusWarningStep_control s st n
  | busStop st n => exact Keeps.next (State.busLevel_control _ _ _ _ _ fun a => State.controlledStop_control a st)
  | busHold st n => exact Keeps.next (State.busLevel_control _ _ _ _ _ fun a => State.hold__control a st)
  | busRecovery st n => exact execBusRecovery_control s st n
  | busRecoveryStep st n => exact Keeps.next (ite_control rfl ((State.busRaise_control ..).trans (State.busReads_control ..)))
  | vbusMismatch st | drbgHealthFail | ucieLinkRetrain d => exact Keeps.next (State.raise_control ..)
  | upstreamFrame st lane f => exact Keeps.next (State.rxFrame_control ..)
  | downstreamFrame st lane ncell => exact Keeps.next (State.txFrame_control ..)
  | sidebandContainer st slot => exact Keeps.next (State.container_control ..)
  | headEndResponse st msg => exact execHeadEndResponse_control s st msg
  | laneDown st lane => exact Keeps.next (State.laneDown_control ..)
  | laneTrainingDone st lane ok upNs downNs => exact Keeps.next (State.laneTrained_control ..)
  | laneTrainingRetry st lane => exact Keeps.next (State.laneRetry_control ..)
  | linkLoss st => exact execLinkLoss_control s st
  | linkRecovered st => exact Keeps.next (ite_control (State.holdExit_control ..) rfl)
  | rowDecode st pos track => exact Keeps.next (State.rowDecode_control ..)
  | retryAttempt st => exact Keeps.next (State.retryAttempt_control ..)
  | bandFreeze st | ceLeak => exact Keeps.next rfl
  | gatheringAcceptance st gnum => exact Keeps.next ((State.powerGo_control _).trans (State.acceptance_control ..))
  | intakeDone p q tag data ep => exact Keeps.next (State.intake_control ..)
  | engineDispatch d r => exact execEngineDispatch_control s d r
  | engineLaneFault d r lane => exact Keeps.next (State.fenceLane_control ..)
  | blockEmit st lon => exact execBlockEmit_control s st lon
  | rightAwayMark st lon block =>
    exact Keeps.next ((State.settle_control ..).trans ((State.releaseAll_control ..).trans (State.modRec_control ..)))
  | checkFail st lon block => exact execCheckFail_control s st lon block
  | encryptionDone st gnum => exact execEncryptionDone_control s st gnum
  | gatheringPlace st ahead => exact execGatheringPlace_control s st ahead
  | emptyGathering st => exact execEmptyGathering_control s st
  | speedDecision st => exact execSpeedDecision_control s st
  | speedStepDone st => exact execSpeedStepDone_control s st
  | stopDone st | writeInhibitEnd st | lateralSettled st => exact Keeps.next (ite_control rfl rfl)
  | backhitchDone st gap => exact execBackhitchDone_control s st gap
  | wrapEnd st => exact execWrapEnd_control s st
  | wrapStart st => exact execWrapStart_control s st
  | gatheringDecode st gnum => exact execGatheringDecode_control s st gnum
  | quireDecode st quire => exact execQuireDecode_control s st quire
  | rereadPassDone st => exact execRereadPassDone_control s st
  | recordHandover st lon =>
    exact Keeps.next ((State.readOn_control ..).trans (State.handover_control ..))
  | rebuildPassDone st => exact execRebuildPassDone_control s st
  | lateralSample st => exact Keeps.next ((State.turnRound_control ..).trans (State.lateral_control ..))
  | missWinh st => exact Keeps.next (ite_control ((State.inhibitWrite_control ..).trans (State.count_control ..)) rfl)
  | missStop st =>
    have stopped := (State.controlledStop_control (s.count st 0 [25]) st).trans (State.count_control ..)
    exact Keeps.next (ite_control ((State.loseLpos_control ..).trans stopped) rfl)
  | reelSample st => exact Keeps.next (State.reel_control ..)
  | reelMissStop st => exact Keeps.next (ite_control (State.controlledStop_control ..) rfl)
  | auxSample st => exact Keeps.next (State.auxSample_control ..)
  | lposWord st => exact Keeps.next (ite_control ((State.settle_control ..).trans (State.lposTake_control ..)) rfl)
  | lposLost st => exact Keeps.next (ite_control (State.loseLpos_control ..) rfl)
  | kappaUpdate st takeUp servoLen => exact Keeps.next (State.kappa_control ..)
  | bankSwapTimeout st loop => exact execBankSwapTimeout_control s st loop
  | rampDone st => exact Keeps.next ((State.powerGo_control _).trans (State.rampDone_control ..))
  | tensioned st => exact execTensioned_control s st
  | tensionTimeout st => exact execTensionTimeout_control s st
  | poolGrant d owner len use => exact execPoolGrant_control s d owner len use
  | poolAdd d owner handle name => exact execPoolAdd_control s d owner handle name
  | poolRelease d owner handle => exact execPoolRelease_control s d owner handle
  | poolFree d owner handle => exact execPoolFree_control s d owner handle
  | controlStoreScrub upsets => exact Keeps.next (foldl_control _ (fun _ _ => ite_control rfl (State.raise_control ..)) _ _)
  | stackLost k => exact execStackLost_control s k
  | powerStateExitDone =>
    have woken := State.eachPort_control { s with power := { s.power with state := 0, exiting := false, waiting := [] } }
      (fun _ h => { h with l1 := false }) fun _ _ => rfl
    exact Keeps.next (ite_control rfl ((foldl_control _ State.runWaiting_control _ _).trans woken))
  | decryptionDone st gnum => exact execDecryptionDone_control s st gnum
  | decompressionDone st lon => exact execDecompressionDone_control s st lon
  | mountOpenTimeout st => exact execMountOpenTimeout_control s st
  | _ => cases hi <;> exact sealed _

end

end Sys2Proof.Machine
end

section
/-!
PROOFS of the frame of buffer memory (09): the rows that leave every byte as it was.
-/
namespace Sys2Proof.Machine

/-! ### Operations -/

theorem State.warmStn_keeps_mem (s : State) (st : Stn) : (State.warmStn s st).mem = s.mem :=
  keeps_mem_of (State.warmStn_control s st)

theorem State.touch_keeps_mem (s : State) (p : Port) : (State.touch s p).mem = s.mem :=
  keeps_mem_of (State.touch_control s p)

theorem State.take_keeps_mem (s : State) (c : HostCmd) : (State.take s c).mem = s.mem :=
  keeps_mem_of (State.take_control s c)

theorem State.stableAll_keeps_mem (s : State) : (State.stableAll s).mem = s.mem :=
  keeps_mem_of (State.stableAll_control s)

theorem State.sendEvents_keeps_mem (s : State) (p : Port) (l : List Nat) : (State.sendEvents s p l).mem = s.mem :=
  keeps_mem_of (State.sendEvents_control s p l)

theorem State.sealsGo_keeps_mem (s : State) : (State.sealsGo s).mem = s.mem :=
  keeps_mem_of (State.sealsGo_control s)

theorem State.runOut_keeps_mem (s : State) (st : Stn) : (State.runOut s st).mem = s.mem :=
  keeps_mem_of (State.runOut_control s st)

theorem State.regrade_keeps_mem (s : State) (x : Regrade) : (State.regrade s x).mem = s.mem :=
  keeps_mem_of (State.regrade_control s x)

theorem State.regAccess_keeps_mem (s : State) (p : Port) (ofs : Nat) (f : State → State)
    (h : ∀ a, (f a).mem = a.mem) : (State.regAccess s p ofs f).mem = s.mem := by
  unfold State.regAccess
  simp only []
  (repeat' split) <;> simp only [h, State.modPort_keeps_mem]

theorem State.raiseAll_keeps_mem (s : State) (l : List Nat) : (State.raiseAll s l).mem = s.mem :=
  keeps_mem_of (State.raiseAll_control s l)

theorem State.msix_keeps_mem (s : State) (p : Port) (v : Nat) : (State.msix s p v).mem = s.mem :=
  keeps_mem_of (State.msix_control s p v)

theorem State.monTake_keeps_mem (s : State) (d : DieId) (k : Fin 64) (v : BitVec 32) :
    (State.monTake s d k v).mem = s.mem :=
  keeps_mem_of (State.monTake_control s d k v)

theorem State.finishAll_keeps_mem (s : State) (l : List CmdRef) (f : Ending) :
    (State.finishAll s l f).mem = s.mem :=
  keeps_mem_of (State.finishAll_control s l f)

theorem State.failStation_keeps_mem (s : State) (st : Stn) : (State.failStation s st).mem = s.mem :=
  keeps_mem_of (State.failStation_control s st)

theorem State.eachWriting_keeps_mem (s : State) (f : State → Stn → State) (h : ∀ a st, (f a st).mem = a.mem) :
    (State.eachWriting s f).mem = s.mem := by
  unfold State.eachWriting
  refine foldl_keeps_mem _ (fun a st => ?_) _ _
  split
  · rfl
  · exact h _ _

theorem State.dropQuarantine_keeps_mem (s : State) (d : DieId) : (State.dropQuarantine s d).mem = s.mem :=
  keeps_mem_of (State.dropQuarantine_control s d)

theorem State.dropGoneKeys_keeps_mem (s : State) (p : Port) (q : Nat) : (State.dropGoneKeys s p q).mem = s.mem :=
  keeps_mem_of (State.dropGoneKeys_control s p q)

theorem State.dipResume_keeps_mem (s : State) (st : Stn) : (State.dipResume s st).mem = s.mem :=
  keeps_mem_of (State.dipResume_control s st)

theorem State.controlledStop_keeps_mem (s : State) (st : Stn) : (State.controlledStop s st).mem = s.mem :=
  keeps_mem_of (State.controlledStop_control s st)

theorem State.burnUnwritten_keeps_mem (s : State) (st : Stn) : (State.burnUnwritten s st).mem = s.mem :=
  keeps_mem_of (State.burnUnwritten_control s st)

theorem State.answerRead_keeps_mem (s : State) (p : Port) (v : BitVec 64) : (State.answerRead s p v).mem = s.mem :=
  keeps_mem_of (State.answerRead_control s p v)

theorem State.host_keeps_mem (s : State) (opc : Nat) (c : HostCmd) (own : State → Option Ending) (blocked : State → Option Hold)
    (run : State → State) (h : ∀ a, (run a).mem = a.mem) : (s.host opc c own blocked run).mem = s.mem := by
  have refused (e : Ending) : ((s.take c).finishNew c e).mem = s.mem := (State.finishNew_keeps_mem ..).trans (State.take_keeps_mem ..)
  unfold State.host
  refine ite_keeps_mem rfl (ite_keeps_mem rfl ?_)
  split
  · exact refused _
  · refine ite_keeps_mem (refused _) ?_
    split
    · exact refused _
    · split
      · rfl
      · exact (h _).trans (State.take_keeps_mem ..)

theorem State.warmLoss_keeps_mem (s : State) : s.warmLoss.mem = s.mem := by
  unfold State.warmLoss
  dsimp only
  rw [State.eachDie_keeps_mem, State.eachPort_keeps_mem, State.stableAll_keeps_mem, foldl_keeps_mem _ State.warmStn_keeps_mem]

theorem State.quiesceEnd_keeps_mem (s : State) : s.quiesceEnd.mem = s.mem :=
  ite_keeps_mem ((State.tryE4_keeps_mem _).trans (State.warmLoss_keeps_mem s)) rfl

/-- A read that is answered in one of two ways. -/
theorem ite_answerRead_keeps_mem {c : Prop} [Decidable c] {s t : State} {p : Port} {v : BitVec 64} (h : t.mem = s.mem) :
    (if c then t else t.answerRead p v).mem = s.mem :=
  ite_keeps_mem h ((State.answerRead_keeps_mem ..).trans h)

/-! ### Rows that choose between several effects -/

section
variable (s : State)

theorem execResetQp_keeps_mem (c : HostCmd) : Keeps State.mem s (execResetQp c s) := by
  refine Keeps.next (State.host_keeps_mem _ _ _ _ _ _ fun a => ?_)
  dsimp only
  rw [State.modQp_keeps_mem, State.dropGoneKeys_keeps_mem, State.abortQueue_keeps_mem, State.modQp_keeps_mem,
    State.addCmd_keeps_mem]

theorem execTrcDataRead_keeps_mem (p : Port) (acc : TrcAccess) (flips : BitVec 73) :
    Keeps State.mem s (execTrcDataRead p acc flips s) := by
  refine Keeps.next (ite_answerRead_keeps_mem (State.regAccess_keeps_mem _ _ _ _ fun a => ?_))
  cases acc with
  | whole => exact (State.answerRead_keeps_mem ..).trans (State.popTrace_keeps_mem ..)
  | low => exact (State.answerRead_keeps_mem ..).trans (State.popTrace_keeps_mem ..)
  | high =>
    dsimp only
    split
    · exact State.answerRead_keeps_mem ..
    · exact State.answerRead_keeps_mem ..

theorem execSupV0Read_keeps_mem (p : Port) : Keeps State.mem s (execSupV0Read p s) := by
  have answered (v : BitVec 64) : ((s.regAccess p 0x4000 id).answerRead p v).mem = s.mem :=
    (State.answerRead_keeps_mem ..).trans (State.regAccess_keeps_mem _ _ _ _ fun _ => rfl)
  refine Keeps.next (ite_keeps_mem (ite_keeps_mem ?_ (answered _)) rfl)
  exact answered ((s.regAccess p 0x4000 id).readBar0 p 0x4000 4)

theorem execAdminQueueEnable_keeps_mem (p : Port) : Keeps State.mem s (execAdminQueueEnable p s) := by
  have touched := State.touch_keeps_mem s p
  refine Keeps.next (ite_keeps_mem touched ?_)
  split
  · exact touched
  · exact ite_keeps_mem ((State.raise_keeps_mem ..).trans touched) touched

theorem execBlockReturn_keeps_mem (i : Nat) : Keeps State.mem s (execBlockReturn i s) := by
  refine Keeps.next ?_
  split
  · rfl
  · dsimp only
    rw [State.finish_keeps_mem, State.dropQuarantine_keeps_mem, State.blkLeave_keeps_mem]

theorem execVddCoreWarning_keeps_mem (mv : Nat) : Keeps State.mem s (execVddCoreWarning mv s) := by
  have reads := State.railReads_keeps_mem s 0 mv
  refine Keeps.next (ite_keeps_mem rfl (ite_keeps_mem (ite_keeps_mem ?_ reads) ?_))
  · exact (State.raise_keeps_mem ..).trans reads
  · refine (State.eachWriting_keeps_mem _ _ fun a st => ite_keeps_mem (State.runOut_keeps_mem ..) rfl).trans ?_
    exact (State.raise_keeps_mem ..).trans reads

theorem execDipRecovery_keeps_mem (min : Nat) (regrades : List Regrade) : Keeps State.mem s (execDipRecovery min regrades s) := by
  refine Keeps.next (ite_keeps_mem rfl ((foldl_keeps_mem _ (fun _ _ => State.dipResume_keeps_mem ..) _ _).trans ?_))
  exact (State.raise_keeps_mem ..).trans (foldl_keeps_mem _ State.regrade_keeps_mem _ _)

theorem execThermalThrottle_keeps_mem (d : DieId) (temp : BitVec 16) : Keeps State.mem s (execThermalThrottle d temp s) := by
  have heated := State.heat_keeps_mem s d temp
  refine Keeps.next (ite_keeps_mem rfl (ite_keeps_mem heated ?_))
  exact (State.setCap_keeps_mem ..).trans ((State.raise_keeps_mem ..).trans heated)

theorem execThermalThrottleStep_keeps_mem : Keeps State.mem s (execThermalThrottleStep s) := by
  refine Keeps.next ?_
  split
  · exact State.setCap_keeps_mem ..
  · rfl

theorem execThermalStop_keeps_mem (d : DieId) (temp : BitVec 16) : Keeps State.mem s (execThermalStop d temp s) := by
  have heated := State.heat_keeps_mem s d temp
  refine Keeps.next (ite_keeps_mem rfl (ite_keeps_mem heated ?_))
  exact (foldl_keeps_mem _ State.controlledStop_keeps_mem _ _).trans ((State.raise_keeps_mem ..).trans heated)

theorem execControlStoreFetch_keeps_mem (store : Fin 10) (cond : Bool) (flips : BitVec 144) :
    Keeps State.mem s (execControlStoreFetch store cond flips s) := by
  refine Keeps.next (ite_keeps_mem rfl ?_)
  split
  · exact State.halts_keeps_mem ..
  · exact ite_keeps_mem rfl (State.raise_keeps_mem ..)

theorem execUcieLinkDown_keeps_mem : Keeps State.mem s (execUcieLinkDown s) := by
  refine Keeps.next (ite_keeps_mem rfl ?_)
  have stopped (a : State) (st : Stn) : (((a.controlledStop st).failStation st).burnUnwritten st).mem = a.mem := by
    rw [State.burnUnwritten_keeps_mem, State.failStation_keeps_mem, State.controlledStop_keeps_mem]
  dsimp only
  rw [State.sealsGo_keeps_mem, State.raise_keeps_mem, foldl_keeps_mem _ State.endReading_keeps_mem,
    foldl_keeps_mem _ stopped, State.finishAll_keeps_mem]

theorem execBootImageChoice_keeps_mem (f : Flash) : Keeps State.mem s (execBootImageChoice f s) := by
  have applied (a : State) (l : List Nat) : (a.portsApply.raiseAll l).mem = a.mem :=
    (State.raiseAll_keeps_mem ..).trans (State.portsApply_keeps_mem a)
  refine Keeps.next (ite_keeps_mem rfl (ite_keeps_mem ?_ ?_))
  · rw [State.tryE4_keeps_mem, applied]
    exact State.flash_keeps_mem ..
  · rw [applied]
    exact State.flash_keeps_mem ..

theorem execChunkReadBack_keeps_mem (back : List Byte) (target : SlotRead) :
    Keeps State.mem s (execChunkReadBack back target s) := by
  refine Keeps.next ?_
  split
  · rfl
  · split
    · rfl
    · refine ite_keeps_mem (State.finish_keeps_mem ..) (ite_keeps_mem ?_ ?_)
      · exact State.stageCheck_keeps_mem ..
      · exact State.finish_keeps_mem ..

/-- Of the rows that may change the control state, those outside Instr.writesMemory leave every byte of buffer memory alone. -/
theorem exec_setsControl_keeps_mem (i : Instr) (hi : (i.setsControl && !i.writesMemory) = true) : Keeps State.mem s (exec i s) := by
  cases i with
  | resetQp c => exact execResetQp_keeps_mem s c
  | selfTest c parts => exact Keeps.next (State.host_keeps_mem _ _ _ _ _ _ (State.runTest_keeps_mem c parts))
  | imageStage c data => exact Keeps.next (State.host_keeps_mem _ _ _ _ _ _ (State.runStage_keeps_mem c data))
  | blockReset c => exact Keeps.next (State.host_keeps_mem _ _ _ _ _ _ (State.runBlock_keeps_mem c))
  | adminQueueEnable p => exact execAdminQueueEnable_keeps_mem s p
  | warmRequest p =>
    have woken := ite_keeps_mem (c := (s.ports[p]).linkUp = true) (State.modPort_keeps_mem s p fun h => { h with l1 := false }) rfl
    exact Keeps.next (ite_keeps_mem ((State.warmSource_keeps_mem ..).trans woken) woken)
  | evtMaskWrite p w v | evtRouteWrite p w v =>
    exact Keeps.next (State.regAccess_keeps_mem _ _ _ _ fun a => State.sendEvents_keeps_mem ..)
  | msixVectorUnmask p v => exact Keeps.next (ite_keeps_mem (State.msix_keeps_mem ..) rfl)
  | monSelWrite p v | elogIdxWrite p v poisoned => exact Keeps.next (State.regAccess_keeps_mem _ _ _ _ fun _ => rfl)
  | trcDataRead p acc flips => exact execTrcDataRead_keeps_mem s p acc flips
  | supV0Read p => exact execSupV0Read_keeps_mem s p
  | registerWrite p ofs size v =>
    exact Keeps.next (State.regAccess_keeps_mem _ _ _ _ fun a => ite_keeps_mem (State.regEffect_keeps_mem ..) rfl)
  | thermalTripRelease | refclkStable => exact Keeps.next (State.tryExit_keeps_mem _)
  | watchdogReport d | thermalCapRaise | thermalStopClear => exact Keeps.next rfl
  | warmN => exact Keeps.next (State.warmSource_keeps_mem ..)
  | stationStateSave st | fuseLoadDone => exact Keeps.next (ite_keeps_mem rfl rfl)
  | quiesceEnd => exact Keeps.next (State.quiesceEnd_keeps_mem s)
  | portReset p => exact Keeps.next (State.portReset_keeps_mem ..)
  | resetRelease src => exact Keeps.next (ite_keeps_mem rfl (State.tryExit_keeps_mem _))
  | bootImageChoice f => exact execBootImageChoice_keeps_mem s f
  | deviceReady => exact Keeps.next (State.deviceReady_keeps_mem s)
  | portLinkTrained p gen width msix => exact Keeps.next (ite_keeps_mem rfl (ite_keeps_mem rfl rfl))
  | vddCoreWarning mv => exact execVddCoreWarning_keeps_mem s mv
  | dipStop => exact Keeps.next (ite_keeps_mem rfl (State.eachWriting_keeps_mem _ _ State.controlledStop_keeps_mem))
  | dipRecovery min regrades => exact execDipRecovery_keeps_mem s min regrades
  | thermalThrottle d temp => exact execThermalThrottle_keeps_mem s d temp
  | thermalThrottleStep => exact execThermalThrottleStep_keeps_mem s
  | thermalStop d temp => exact execThermalStop_keeps_mem s d temp
  | controlStoreFetch store cond flips => exact execControlStoreFetch_keeps_mem s store cond flips
  | ucieLinkDown => exact execUcieLinkDown_keeps_mem s
  | trialWindowExpiry | linkRateOrWidthChange p gen width => exact Keeps.next (ite_keeps_mem rfl (State.raise_keeps_mem ..))
  | ledgerWriteDone =>
    refine Keeps.next ?_
    split
    · rfl
    · exact State.ledgerDone_keeps_mem ..
  | selfTestTimeout parts | selfTestDone parts => exact Keeps.next (State.testEnds_keeps_mem ..)
  | monitorSample d slot v => exact Keeps.next (ite_keeps_mem rfl ((State.monTake_keeps_mem ..).trans (State.monReading_keeps_mem ..)))
  | chunkReadBack back target => exact execChunkReadBack_keeps_mem s back target
  | blockReturn k => exact execBlockReturn_keeps_mem s k
  | _ => cases hi

end

/-- The rows outside Instr.writesMemory leave every byte of buffer memory alone. -/
theorem exec_keeps_mem (s : State) (i : Instr) (hi : i.writesMemory = false) : Keeps State.mem s (exec i s) := by
  cases hc : i.setsControl with
  | true => exact exec_setsControl_keeps_mem s i (by rw [hc, hi]; rfl)
  | false => exact (exec_keeps_control s i hc).comp Control.mem

/-- Settles O6: memory is part of the control state, and the rows that may change that state without Instr.writesMemory leave memory alone. -/
theorem memoryFrame : Obligations.MemoryFrame := fun i s _ hi h => (exec_keeps_mem s i hi).of_next h

end Sys2Proof.Machine
end

section
/-!
PROOFS that no row changes the queue of commands or the clock (00).
-/
namespace Sys2Proof.Machine

/-! ### Operations -/

theorem State.warmStn_keeps_queue (s : State) (st : Stn) : (State.warmStn s st).queue = s.queue :=
  keeps_queue_of (State.warmStn_control s st)

theorem State.touch_keeps_queue (s : State) (p : Port) : (State.touch s p).queue = s.queue :=
  keeps_queue_of (State.touch_control s p)

theorem State.take_keeps_queue (s : State) (c : HostCmd) : (State.take s c).queue = s.queue :=
  keeps_queue_of (State.take_control s c)

theorem State.stableAll_keeps_queue (s : State) : (State.stableAll s).queue = s.queue :=
  keeps_queue_of (State.stableAll_control s)

theorem State.sendEvents_keeps_queue (s : State) (p : Port) (l : List Nat) : (State.sendEvents s p l).queue = s.queue :=
  keeps_queue_of (State.sendEvents_control s p l)

theorem State.runOut_keeps_queue (s : State) (st : Stn) : (State.runOut s st).queue = s.queue :=
  keeps_queue_of (State.runOut_control s st)

theorem State.regrade_keeps_queue (s : State) (x : Regrade) : (State.regrade s x).queue = s.queue :=
  keeps_queue_of (State.regrade_control s x)

theorem State.regAccess_keeps_queue (s : State) (p : Port) (ofs : Nat) (f : State → State)
    (h : ∀ a, (f a).queue = a.queue) : (State.regAccess s p ofs f).queue = s.queue := by
  unfold State.regAccess
  simp only []
  (repeat' split) <;> simp only [h, State.modPort_keeps_queue]

theorem State.raiseAll_keeps_queue (s : State) (l : List Nat) : (State.raiseAll s l).queue = s.queue :=
  keeps_queue_of (State.raiseAll_control s l)

theorem State.msix_keeps_queue (s : State) (p : Port) (v : Nat) : (State.msix s p v).queue = s.queue :=
  keeps_queue_of (State.msix_control s p v)

theorem State.monTake_keeps_queue (s : State) (d : DieId) (k : Fin 64) (v : BitVec 32) :
    (State.monTake s d k v).queue = s.queue :=
  keeps_queue_of (State.monTake_control s d k v)

theorem State.logStale_keeps_queue (s : State) (a : PageAddr) (h : BitVec 32) (actor : Nat) :
    (State.logStale s a h actor).queue = s.queue :=
  keeps_queue_of (State.logStale_control s a h actor)

theorem State.finishAll_keeps_queue (s : State) (l : List CmdRef) (f : Ending) :
    (State.finishAll s l f).queue = s.queue :=
  keeps_queue_of (State.finishAll_control s l f)

theorem State.failStation_keeps_queue (s : State) (st : Stn) : (State.failStation s st).queue = s.queue :=
  keeps_queue_of (State.failStation_control s st)

theorem State.eachWriting_keeps_queue (s : State) (f : State → Stn → State) (h : ∀ a st, (f a st).queue = a.queue) :
    (State.eachWriting s f).queue = s.queue := by
  unfold State.eachWriting
  refine foldl_keeps_queue _ (fun a st => ?_) _ _
  split
  · rfl
  · exact h _ _

theorem State.dropQuarantine_keeps_queue (s : State) (d : DieId) : (State.dropQuarantine s d).queue = s.queue :=
  keeps_queue_of (State.dropQuarantine_control s d)

theorem State.dropGoneKeys_keeps_queue (s : State) (p : Port) (q : Nat) : (State.dropGoneKeys s p q).queue = s.queue :=
  keeps_queue_of (State.dropGoneKeys_control s p q)

theorem State.dipResume_keeps_queue (s : State) (st : Stn) : (State.dipResume s st).queue = s.queue :=
  keeps_queue_of (State.dipResume_control s st)

theorem State.controlledStop_keeps_queue (s : State) (st : Stn) : (State.controlledStop s st).queue = s.queue :=
  keeps_queue_of (State.controlledStop_control s st)

theorem State.burnUnwritten_keeps_queue (s : State) (st : Stn) : (State.burnUnwritten s st).queue = s.queue :=
  keeps_queue_of (State.burnUnwritten_control s st)

theorem State.buildPools_keeps_queue (s : State) (d : DieId) : (State.buildPools s d).queue = s.queue :=
  keeps_queue_of (State.buildPools_control s d)

theorem State.blackBox_keeps_queue (s : State) (cause detail : Nat) : (State.blackBox s cause detail).queue = s.queue :=
  keeps_queue_of (State.blackBox_control s cause detail)

theorem State.answerRead_keeps_queue (s : State) (p : Port) (v : BitVec 64) : (State.answerRead s p v).queue = s.queue :=
  keeps_queue_of (State.answerRead_control s p v)

theorem State.host_keeps_queue (s : State) (opc : Nat) (c : HostCmd) (own : State → Option Ending) (blocked : State → Option Hold)
    (run : State → State) (h : ∀ a, (run a).queue = a.queue) : (s.host opc c own blocked run).queue = s.queue := by
  have refused (e : Ending) : ((s.take c).finishNew c e).queue = s.queue :=
    (State.finishNew_keeps_queue ..).trans (State.take_keeps_queue ..)
  unfold State.host
  refine ite_keeps_queue rfl (ite_keeps_queue rfl ?_)
  split
  · exact refused _
  · refine ite_keeps_queue (refused _) ?_
    split
    · exact refused _
    · split
      · rfl
      · exact (h _).trans (State.take_keeps_queue ..)

theorem State.scrubGo_keeps_queue (s : State) (d : DieId) : (s.scrubGo d).queue = s.queue := by
  unfold State.scrubGo
  split
  · rfl
  · exact ite_keeps_queue (State.finishWith_keeps_queue ..) rfl

theorem State.scrubCounts_keeps_queue (s : State) (w : PendingWb) (skip remap : Nat) :
    (s.scrubCounts w skip remap).queue = s.queue := ite_keeps_queue rfl rfl

theorem State.warmLoss_keeps_queue (s : State) : s.warmLoss.queue = s.queue := by
  unfold State.warmLoss
  dsimp only
  rw [keeps_queue_upd, State.eachDie_keeps_queue, State.eachPort_keeps_queue, State.stableAll_keeps_queue,
    foldl_keeps_queue _ State.warmStn_keeps_queue]

theorem State.quiesceEnd_keeps_queue (s : State) : s.quiesceEnd.queue = s.queue :=
  ite_keeps_queue ((State.tryE4_keeps_queue _).trans (State.warmLoss_keeps_queue s)) rfl

/-- A read that is answered in one of two ways. -/
theorem ite_answerRead_keeps_queue {c : Prop} [Decidable c] {s t : State} {p : Port} {v : BitVec 64} (h : t.queue = s.queue) :
    (if c then t else t.answerRead p v).queue = s.queue :=
  ite_keeps_queue h ((State.answerRead_keeps_queue ..).trans h)

/-- A cold source loses the writes in progress, and adds at most a black-box entry. -/
theorem State.coldSource_keeps_queue (s : State) (src : ResetSource) (boxed : Option (Nat × Nat)) :
    (s.coldSource src boxed).queue = s.queue := by
  refine ite_keeps_queue rfl ?_
  split
  · exact State.blackBox_keeps_queue s _ _
  · rfl

theorem State.refclkLoss_keeps_queue (s : State) : s.refclkLoss.queue = s.queue :=
  ite_keeps_queue rfl (State.blackBox_keeps_queue s 5 5)

/-! ### Rows that choose between several effects -/

section
variable (s : State)

theorem execResetQp_keeps_queue (c : HostCmd) : Keeps State.queue s (execResetQp c s) := by
  refine Keeps.next (State.host_keeps_queue _ _ _ _ _ _ fun a => ?_)
  dsimp only
  rw [State.modQp_keeps_queue, State.dropGoneKeys_keeps_queue, State.abortQueue_keeps_queue, State.modQp_keeps_queue,
    State.addCmd_keeps_queue]

theorem execTrcDataRead_keeps_queue (p : Port) (acc : TrcAccess) (flips : BitVec 73) :
    Keeps State.queue s (execTrcDataRead p acc flips s) := by
  refine Keeps.next (ite_answerRead_keeps_queue (State.regAccess_keeps_queue _ _ _ _ fun a => ?_))
  cases acc with
  | whole => exact (State.answerRead_keeps_queue ..).trans (State.popTrace_keeps_queue ..)
  | low => exact (State.answerRead_keeps_queue ..).trans (State.popTrace_keeps_queue ..)
  | high =>
    dsimp only
    split
    · exact State.answerRead_keeps_queue ..
    · exact State.answerRead_keeps_queue ..

theorem execSupV0Read_keeps_queue (p : Port) : Keeps State.queue s (execSupV0Read p s) := by
  have answered (v : BitVec 64) : ((s.regAccess p 0x4000 id).answerRead p v).queue = s.queue :=
    (State.answerRead_keeps_queue ..).trans (State.regAccess_keeps_queue _ _ _ _ fun _ => rfl)
  refine Keeps.next (ite_keeps_queue (ite_keeps_queue ?_ (answered _)) rfl)
  exact answered ((s.regAccess p 0x4000 id).readBar0 p 0x4000 4)

theorem execAdminQueueEnable_keeps_queue (p : Port) : Keeps State.queue s (execAdminQueueEnable p s) := by
  have touched := State.touch_keeps_queue s p
  refine Keeps.next (ite_keeps_queue touched ?_)
  split
  · exact touched
  · exact ite_keeps_queue ((State.raise_keeps_queue ..).trans touched) touched

theorem execPageRead_keeps_queue (a : PageAddr) (handle : BitVec 32) (actor : Nat) (l : PageLine) (c : Consumer) :
    Keeps State.queue s (execPageRead a handle actor l c s) := by
  have read : ((s.takeSlot a).readPage a l 1 handle actor).2.queue = s.queue := State.readPage_keeps_queue ..
  have judged := ite_keeps_queue (c := (s.takeSlot a).staleAccess a handle) ((State.logStale_keeps_queue _ a handle actor).trans read) read
  unfold execPageRead
  split
  · exact Keeps.fault _
  · exact Keeps.next (ite_keeps_queue judged ((State.consume_keeps_queue ..).trans judged))

theorem execPageWrite_keeps_queue (a : PageAddr) (handle : BitVec 32) (actor first : Nat) (beats : List (BitVec 512)) (poison : BitVec 64)
    (l : PageLine) : Keeps State.queue s (execPageWrite a handle actor first beats poison l s) := by
  unfold execPageWrite
  dsimp only
  split
  · exact Keeps.fault _
  · split
    · exact Keeps.next (State.logStale_keeps_queue ..)
    · split
      · exact Keeps.next (State.writePage_keeps_queue ..)
      · exact Keeps.next ((State.writePage_keeps_queue ..).trans (State.readPage_keeps_queue ..))

theorem execWriteBack_keeps_queue (k : Fin 4) (verify : PageLine) : Keeps State.queue s (execWriteBack k verify s) := by
  refine Keeps.next ?_
  split
  · rfl
  · refine ite_keeps_queue rfl ((State.scrubGo_keeps_queue ..).trans (ite_keeps_queue ?_ ?_))
    · exact (State.scrubCounts_keeps_queue ..).trans (State.elogPage_keeps_queue ..)
    · exact (State.scrubCounts_keeps_queue ..).trans (State.writeBackPage_keeps_queue ..)

theorem execRangeScrubRead_keeps_queue (d : DieId) (flips : List Nat) (place : Option PageAddr) :
    Keeps State.queue s (execRangeScrubRead d flips place s) := by
  refine Keeps.next ?_
  split
  · rfl
  · exact ite_keeps_queue rfl ((State.scrubGo_keeps_queue ..).trans (State.scrubPage_keeps_queue (s.takeM _) ..))

theorem execBlockReturn_keeps_queue (i : Nat) : Keeps State.queue s (execBlockReturn i s) := by
  refine Keeps.next ?_
  split
  · rfl
  · dsimp only
    rw [State.finish_keeps_queue, State.dropQuarantine_keeps_queue, State.blkLeave_keeps_queue, keeps_queue_upd]

theorem execVddCoreWarning_keeps_queue (mv : Nat) : Keeps State.queue s (execVddCoreWarning mv s) := by
  have reads := State.railReads_keeps_queue s 0 mv
  refine Keeps.next (ite_keeps_queue rfl (ite_keeps_queue (ite_keeps_queue ?_ reads) ?_))
  · exact (State.raise_keeps_queue ..).trans reads
  · refine (State.eachWriting_keeps_queue _ _ fun a st => ite_keeps_queue (State.runOut_keeps_queue ..) rfl).trans ?_
    exact (State.raise_keeps_queue ..).trans reads

theorem execDipRecovery_keeps_queue (min : Nat) (regrades : List Regrade) : Keeps State.queue s (execDipRecovery min regrades s) := by
  refine Keeps.next (ite_keeps_queue rfl ((foldl_keeps_queue _ (fun _ _ => State.dipResume_keeps_queue ..) _ _).trans ?_))
  exact (State.raise_keeps_queue ..).trans (foldl_keeps_queue _ State.regrade_keeps_queue _ _)

theorem execThermalThrottle_keeps_queue (d : DieId) (temp : BitVec 16) : Keeps State.queue s (execThermalThrottle d temp s) := by
  have heated := State.heat_keeps_queue s d temp
  refine Keeps.next (ite_keeps_queue rfl (ite_keeps_queue heated ?_))
  exact (State.setCap_keeps_queue ..).trans ((State.raise_keeps_queue ..).trans heated)

theorem execThermalThrottleStep_keeps_queue : Keeps State.queue s (execThermalThrottleStep s) := by
  refine Keeps.next ?_
  split
  · exact State.setCap_keeps_queue ..
  · rfl

theorem execThermalStop_keeps_queue (d : DieId) (temp : BitVec 16) : Keeps State.queue s (execThermalStop d temp s) := by
  have heated := State.heat_keeps_queue s d temp
  refine Keeps.next (ite_keeps_queue rfl (ite_keeps_queue heated ?_))
  exact (foldl_keeps_queue _ State.controlledStop_keeps_queue _ _).trans ((State.raise_keeps_queue ..).trans heated)

theorem execControlStoreFetch_keeps_queue (store : Fin 10) (cond : Bool) (flips : BitVec 144) :
    Keeps State.queue s (execControlStoreFetch store cond flips s) := by
  refine Keeps.next (ite_keeps_queue rfl ?_)
  split
  · exact State.halts_keeps_queue ..
  · exact ite_keeps_queue rfl (State.raise_keeps_queue ..)

theorem execUcieLinkDown_keeps_queue : Keeps State.queue s (execUcieLinkDown s) := by
  refine Keeps.next (ite_keeps_queue rfl ?_)
  have stopped (a : State) (st : Stn) : (((a.controlledStop st).failStation st).burnUnwritten st).queue = a.queue := by
    rw [State.burnUnwritten_keeps_queue, State.failStation_keeps_queue, State.controlledStop_keeps_queue]
  dsimp only
  rw [State.sealsGo_keeps_queue, State.raise_keeps_queue, foldl_keeps_queue _ State.endReading_keeps_queue,
    foldl_keeps_queue _ stopped, State.finishAll_keeps_queue, keeps_queue_upd]

theorem execSupplyReset_keeps_queue (rail : Fin 6) (mv : Nat) : Keeps State.queue s (execSupplyReset rail mv s) :=
  Keeps.next (ite_keeps_queue rfl
    ((State.coldSource_keeps_queue ..).trans (State.railReads_keeps_queue ..)))

theorem execThermalTrip_keeps_queue (d : DieId) (temp : BitVec 16) : Keeps State.queue s (execThermalTrip d temp s) := by
  have heated : (s.heat d temp).queue = s.queue := State.heat_keeps_queue ..
  exact Keeps.next (ite_keeps_queue rfl ((State.coldSource_keeps_queue ..).trans heated))

theorem execWatchdogExpiry_keeps_queue : Keeps State.queue s (execWatchdogExpiry s) := by
  refine Keeps.next (ite_keeps_queue rfl (ite_keeps_queue (State.coldSource_keeps_queue ..) ?_))
  exact (State.warmSource_keeps_queue ..).trans (State.blackBox_keeps_queue ..)

theorem execPackageFault_keeps_queue (f : PkgFault) : Keeps State.queue s (execPackageFault f s) := by
  refine Keeps.next ?_
  split
  · exact State.refclkLoss_keeps_queue s
  · exact State.coldSource_keeps_queue ..

theorem execBootImageChoice_keeps_queue (f : Flash) : Keeps State.queue s (execBootImageChoice f s) := by
  have applied (a : State) (l : List Nat) : (a.portsApply.raiseAll l).queue = a.queue :=
    (State.raiseAll_keeps_queue ..).trans (State.portsApply_keeps_queue a)
  refine Keeps.next (ite_keeps_queue rfl (ite_keeps_queue ?_ ?_))
  · rw [State.tryE4_keeps_queue, applied, keeps_queue_upd, State.flash_keeps_queue]
  · dsimp only
    rw [keeps_queue_upd, applied, keeps_queue_upd, State.flash_keeps_queue]

theorem execChunkReadBack_keeps_queue (back : List Byte) (target : SlotRead) :
    Keeps State.queue s (execChunkReadBack back target s) := by
  refine Keeps.next ?_
  split
  · rfl
  · split
    · rfl
    · refine ite_keeps_queue (State.finish_keeps_queue ..) (ite_keeps_queue ?_ ?_)
      · exact State.stageCheck_keeps_queue ..
      · exact State.finish_keeps_queue ..

/-- The rows that may change the control state leave the queue of commands and the clock alone. -/
theorem exec_setsControl_keeps_queue (i : Instr) (hi : i.setsControl = true) : Keeps State.queue s (exec i s) := by
  cases i with
  | resetQp c => exact execResetQp_keeps_queue s c
  | selfTest c parts => exact Keeps.next (State.host_keeps_queue _ _ _ _ _ _ (State.runTest_keeps_queue c parts))
  | imageStage c data => exact Keeps.next (State.host_keeps_queue _ _ _ _ _ _ (State.runStage_keeps_queue c data))
  | blockReset c => exact Keeps.next (State.host_keeps_queue _ _ _ _ _ _ (State.runBlock_keeps_queue c))
  | adminQueueEnable p => exact execAdminQueueEnable_keeps_queue s p
  | warmRequest p =>
    have woken := ite_keeps_queue (c := (s.ports[p]).linkUp = true) (State.modPort_keeps_queue s p fun h => { h with l1 := false }) rfl
    exact Keeps.next (ite_keeps_queue ((State.warmSource_keeps_queue ..).trans woken) woken)
  | evtMaskWrite p w v | evtRouteWrite p w v =>
    exact Keeps.next (State.regAccess_keeps_queue _ _ _ _ fun a => State.sendEvents_keeps_queue ..)
  | msixVectorUnmask p v => exact Keeps.next (ite_keeps_queue (State.msix_keeps_queue ..) rfl)
  | monSelWrite p v | elogIdxWrite p v poisoned => exact Keeps.next (State.regAccess_keeps_queue _ _ _ _ fun _ => rfl)
  | trcDataRead p acc flips => exact execTrcDataRead_keeps_queue s p acc flips
  | supV0Read p => exact execSupV0Read_keeps_queue s p
  | registerWrite p ofs size v =>
    exact Keeps.next (State.regAccess_keeps_queue _ _ _ _ fun a => ite_keeps_queue (State.regEffect_keeps_queue ..) rfl)
  | powerOnReset | watchdogReport d | thermalCapRaise | thermalStopClear => exact Keeps.next rfl
  | resetN => exact Keeps.next (State.coldSource_keeps_queue ..)
  | supplyReset rail mv => exact execSupplyReset_keeps_queue s rail mv
  | thermalTrip d temp => exact execThermalTrip_keeps_queue s d temp
  | thermalTripRelease | refclkStable => exact Keeps.next (State.tryExit_keeps_queue _)
  | watchdogExpiry => exact execWatchdogExpiry_keeps_queue s
  | packageFault f => exact execPackageFault_keeps_queue s f
  | refclkLoss => exact Keeps.next (State.refclkLoss_keeps_queue s)
  | warmN => exact Keeps.next (State.warmSource_keeps_queue ..)
  | stationStateSave st | fuseLoadDone => exact Keeps.next (ite_keeps_queue rfl rfl)
  | quiesceEnd => exact Keeps.next (State.quiesceEnd_keeps_queue s)
  | portReset p => exact Keeps.next (State.portReset_keeps_queue ..)
  | resetRelease src => exact Keeps.next (ite_keeps_queue rfl (State.tryExit_keeps_queue _))
  | bootImageChoice f => exact execBootImageChoice_keeps_queue s f
  | memoryReady =>
    have built (a : State) : ((a.buildPools 0).buildPools 1).queue = a.queue :=
      (State.buildPools_keeps_queue ..).trans (State.buildPools_keeps_queue ..)
    exact Keeps.next (ite_keeps_queue rfl ((State.tryE4_keeps_queue _).trans (built _)))
  | deviceReady => exact Keeps.next (State.deviceReady_keeps_queue s)
  | portLinkTrained p gen width msix => exact Keeps.next (ite_keeps_queue rfl (ite_keeps_queue rfl rfl))
  | vddCoreWarning mv => exact execVddCoreWarning_keeps_queue s mv
  | dipStop => exact Keeps.next (ite_keeps_queue rfl (State.eachWriting_keeps_queue _ _ State.controlledStop_keeps_queue))
  | dipRecovery min regrades => exact execDipRecovery_keeps_queue s min regrades
  | thermalThrottle d temp => exact execThermalThrottle_keeps_queue s d temp
  | thermalThrottleStep => exact execThermalThrottleStep_keeps_queue s
  | thermalStop d temp => exact execThermalStop_keeps_queue s d temp
  | pageRead a handle actor l c => exact execPageRead_keeps_queue s a handle actor l c
  | pageWrite a handle actor first beats poison l => exact execPageWrite_keeps_queue s a handle actor first beats poison l
  | writeBack k verify => exact execWriteBack_keeps_queue s k verify
  | patrolScrub k flips place => exact Keeps.next (ite_keeps_queue rfl (ite_keeps_queue rfl (State.scrubPage_keeps_queue (s.takeM _) ..)))
  | controlStoreFetch store cond flips => exact execControlStoreFetch_keeps_queue s store cond flips
  | ucieLinkDown => exact execUcieLinkDown_keeps_queue s
  | trialWindowExpiry | linkRateOrWidthChange p gen width => exact Keeps.next (ite_keeps_queue rfl (State.raise_keeps_queue ..))
  | ledgerWriteDone =>
    refine Keeps.next ?_
    split
    · rfl
    · exact State.ledgerDone_keeps_queue ..
  | selfTestTimeout parts | selfTestDone parts => exact Keeps.next (State.testEnds_keeps_queue ..)
  | monitorSample d slot v => exact Keeps.next (ite_keeps_queue rfl ((State.monTake_keeps_queue ..).trans (State.monReading_keeps_queue ..)))
  | chunkReadBack back target => exact execChunkReadBack_keeps_queue s back target
  | blockReturn k => exact execBlockReturn_keeps_queue s k
  | rangeScrubRead d flips place => exact execRangeScrubRead_keeps_queue s d flips place
  | _ => cases hi

end

/-- No row changes the queue of commands or the clock. -/
theorem exec_keeps_queue (s : State) (i : Instr) : Keeps State.queue s (exec i s) := by
  cases hc : i.setsControl with
  | true => exact exec_setsControl_keeps_queue s i hc
  | false => exact (exec_keeps_control s i hc).comp fun c => (c.pending, c.clock)

end Sys2Proof.Machine
end

section
/-!
PROOFS of the frame of the service state (10, 11): the rows that leave queues, locks, ledger, keys, power state and migrations as they were.
-/
namespace Sys2Proof.Machine

/-! ### Operations -/

theorem State.turnRound_service (s : State) (st : Stn) : (s.turnRound st).service = s.service := by
  unfold State.turnRound
  dsimp only
  split
  · rfl
  · exact ite_service rfl (State.rampTo_service ..)

/-- A read that is answered in one of two ways. -/
theorem ite_answerRead_service {c : Prop} [Decidable c] {s t : State} {p : Port} {v : BitVec 64} (h : t.service = s.service) :
    (if c then t else t.answerRead p v).service = s.service :=
  ite_service h ((State.answerRead_service ..).trans h)

/-! ### Rows that choose between several effects -/

section
variable (s : State)

theorem execTrcDataRead_service (p : Port) (acc : TrcAccess) (flips : BitVec 73) :
    Keeps State.service s (execTrcDataRead p acc flips s) := by
  refine Keeps.next (ite_answerRead_service (State.regAccess_service _ _ _ _ fun a => ?_))
  cases acc with
  | whole => exact (State.answerRead_service ..).trans (State.popTrace_service ..)
  | low => exact (State.answerRead_service ..).trans ((State.modPort_service_upd ..).trans (State.popTrace_service ..))
  | high =>
    dsimp only
    split
    · exact (State.answerRead_service ..).trans (State.modPort_service_upd ..)
    · exact State.answerRead_service ..

theorem execSupV0Read_service (p : Port) : Keeps State.service s (execSupV0Read p s) := by
  have answered (v : BitVec 64) : ((s.regAccess p 0x4000 id).answerRead p v).service = s.service :=
    (State.answerRead_service ..).trans (State.regAccess_service _ _ _ _ fun _ => rfl)
  refine Keeps.next (ite_service (ite_service ?_ (answered _)) rfl)
  exact answered ((s.regAccess p 0x4000 id).readBar0 p 0x4000 4)

theorem execPageWrite_service (a : PageAddr) (handle : BitVec 32) (actor first : Nat) (beats : List (BitVec 512)) (poison : BitVec 64)
    (l : PageLine) : Keeps State.service s (execPageWrite a handle actor first beats poison l s) := by
  unfold execPageWrite
  dsimp only
  split
  · exact Keeps.fault _
  · split
    · exact Keeps.next (State.logStale_service ..)
    · split
      · exact Keeps.next (State.writePage_service ..)
      · exact Keeps.next ((State.writePage_service ..).trans (State.readPage_service ..))

theorem execVddCoreWarning_service (mv : Nat) : Keeps State.service s (execVddCoreWarning mv s) := by
  have reads := State.railReads_service s 0 mv
  refine Keeps.next (ite_service rfl (ite_service (ite_service ?_ reads) ?_))
  · exact (State.raise_service ..).trans reads
  · refine (State.eachWriting_service _ _ fun a st => ite_service (State.runOut_service ..) rfl).trans ?_
    exact (State.raise_service ..).trans reads

theorem execThermalThrottle_service (d : DieId) (temp : BitVec 16) : Keeps State.service s (execThermalThrottle d temp s) := by
  have heated := State.heat_service s d temp
  refine Keeps.next (ite_service rfl (ite_service heated ?_))
  exact (State.setCap_service ..).trans ((State.raise_service ..).trans heated)

theorem execThermalThrottleStep_service : Keeps State.service s (execThermalThrottleStep s) := by
  refine Keeps.next ?_
  split
  · exact State.setCap_service ..
  · rfl

theorem execThermalStop_service (d : DieId) (temp : BitVec 16) : Keeps State.service s (execThermalStop d temp s) := by
  have heated := State.heat_service s d temp
  refine Keeps.next (ite_service rfl (ite_service heated ?_))
  exact (foldl_service _ State.controlledStop_service _ _).trans ((State.raise_service ..).trans heated)

theorem execBusWarningStep_service (st : Stn) (n : Nat) : Keeps State.service s (execBusWarningStep st n s) := by
  refine Keeps.next ?_
  split
  · exact ite_service rfl ((State.setBusCap_service ..).trans (State.busReads_service ..))
  · rfl

theorem execBankSwapTimeout_service (st : Stn) (loop : LoopId) : Keeps State.service s (execBankSwapTimeout st loop s) := by
  cases loop <;> exact Keeps.next rfl

theorem execSpeedStepDone_service (st : Stn) : Keeps State.service s (execSpeedStepDone st s) :=
  Keeps.next (ite_service rfl (ite_service (State.fillResume_service ..) rfl))

theorem execBackhitchDone_service (st : Stn) (gap : Nat) : Keeps State.service s (execBackhitchDone st gap s) := by
  refine Keeps.next (ite_service rfl (ite_service (State.controlledStop_service ..) ?_))
  rw [State.modStn_service, State.capDown_service, State.resume_service, State.newRun_service, State.endFill_service,
    State.modStn_service]

theorem execWrapStart_service (st : Stn) : Keeps State.service s (execWrapStart st s) := by
  refine Keeps.next (ite_service rfl (ite_service (State.controlledStop_service ..) ?_))
  rw [State.capDown_service, State.modStn_service, State.newRun_service]

theorem execEmptyGathering_service (st : Stn) : Keeps State.service s (execEmptyGathering st s) :=
  Keeps.next (ite_service rfl (ite_service (State.controlledStop_service ..) (State.closeEmpty_service ..)))

/-- The rows outside Instr.setsService leave queues, locks, ledger, keys, power state and migrations alone. -/
theorem exec_keeps_service (i : Instr) (hi : i.setsService = false) : Keeps State.service s (exec i s) := by
  cases i with
  | warmRequest p =>
    have woken := ite_service (c := (s.ports[p]).linkUp = true) (State.modPort_service s p (fun h => { h with l1 := false }) fun _ => rfl) rfl
    exact Keeps.next (ite_service ((State.warmSource_service ..).trans woken) woken)
  | evtStatClear p w v raised | evtMaskWrite p w v | evtRouteWrite p w v =>
    exact Keeps.next (State.regAccess_service _ _ _ _ fun a => (State.sendEvents_service ..).trans (State.modPort_service_upd ..))
  | msixVectorUnmask p v =>
    have unmasked := State.modPort_service s p (fun h => { h with
      msixMask := h.msixMask &&& ~~~ BitVec.twoPow 64 v.val, msixPend := h.msixPend &&& ~~~ BitVec.twoPow 64 v.val }) fun _ => rfl
    exact Keeps.next (ite_service ((State.msix_service ..).trans unmasked) unmasked)
  | monSelWrite p v | elogIdxWrite p v poisoned => exact Keeps.next (State.regAccess_service _ _ _ _ fun a => State.modPort_service_upd ..)
  | flushNow p | flushAtBoundary p | clrcnt p =>
    exact Keeps.next (State.regAccess_service _ _ _ _ fun a => State.modSel_service ..)
  | trcDataRead p acc flips => exact execTrcDataRead_service s p acc flips
  | supV0Read p => exact execSupV0Read_service s p
  | registerWrite p ofs size v =>
    exact Keeps.next (State.regAccess_service _ _ _ _ fun a => ite_service (State.regEffect_service ..) rfl)
  | thermalTripRelease | refclkStable => exact Keeps.next (State.tryExit_service _)
  | watchdogReport d | thermalCapRaise | thermalStopClear | bandFreeze st | ceLeak => exact Keeps.next rfl
  | warmN => exact Keeps.next (State.warmSource_service ..)
  | stationStateSave st | fuseLoadDone | stopDone st | writeInhibitEnd st | lateralSettled st => exact Keeps.next (ite_service rfl rfl)
  | resetRelease src => exact Keeps.next (ite_service rfl (State.tryExit_service _))
  | memoryReady =>
    have built (a : State) : ((a.buildPools 0).buildPools 1).service = a.service :=
      (State.buildPools_service ..).trans (State.buildPools_service ..)
    exact Keeps.next (ite_service rfl ((State.tryE4_service _).trans (built _)))
  | portLinkTrained p gen width msix =>
    refine Keeps.next (ite_service rfl (ite_service ?_ ?_))
    · exact (service_upd ..).trans (State.modPort_service_upd ..)
    · exact State.modPort_service_upd ..
  | vddCoreWarning mv => exact execVddCoreWarning_service s mv
  | dipStop => exact Keeps.next (ite_service rfl (State.eachWriting_service _ _ State.controlledStop_service))
  | thermalThrottle d temp => exact execThermalThrottle_service s d temp
  | thermalThrottleStep => exact execThermalThrottleStep_service s
  | thermalStop d temp => exact execThermalStop_service s d temp
  | busWarning st n => exact Keeps.next (State.busLevel_service _ _ _ _ _ fun a => State.setBusCap_service ..)
  | busWarningStep st n => exact execBusWarningStep_service s st n
  | busStop st n => exact Keeps.next (State.busLevel_service _ _ _ _ _ fun a => State.controlledStop_service a st)
  | busHold st n => exact Keeps.next (State.busLevel_service _ _ _ _ _ fun a => State.hold__service a st)
  | busRecoveryStep st n => exact Keeps.next (ite_service rfl ((State.busRaise_service ..).trans (State.busReads_service ..)))
  | vbusMismatch st | ucieLinkRetrain d => exact Keeps.next (State.raise_service ..)
  | upstreamFrame st lane f => exact Keeps.next (State.rxFrame_service ..)
  | sidebandContainer st slot => exact Keeps.next (State.container_service ..)
  | laneDown st lane => exact Keeps.next (State.laneDown_service ..)
  | laneTrainingRetry st lane => exact Keeps.next (State.laneRetry_service ..)
  | emptyGathering st => exact execEmptyGathering_service s st
  | speedStepDone st => exact execSpeedStepDone_service s st
  | backhitchDone st gap => exact execBackhitchDone_service s st gap
  | wrapStart st => exact execWrapStart_service s st
  | lateralSample st => exact Keeps.next ((State.turnRound_service ..).trans (State.lateral_service ..))
  | missWinh st => exact Keeps.next (ite_service ((State.inhibitWrite_service ..).trans (State.count_service ..)) rfl)
  | missStop st =>
    have stopped := (State.controlledStop_service (s.count st 0 [25]) st).trans (State.count_service ..)
    exact Keeps.next (ite_service ((State.loseLpos_service ..).trans stopped) rfl)
  | reelSample st => exact Keeps.next (State.reel_service ..)
  | reelMissStop st => exact Keeps.next (ite_service (State.controlledStop_service ..) rfl)
  | auxSample st => exact Keeps.next (State.auxSample_service ..)
  | lposLost st => exact Keeps.next (ite_service (State.loseLpos_service ..) rfl)
  | kappaUpdate st takeUp servoLen => exact Keeps.next (State.kappa_service ..)
  | bankSwapTimeout st loop => exact execBankSwapTimeout_service s st loop
  | pageWrite a handle actor first beats poison l => exact execPageWrite_service s a handle actor first beats poison l
  | patrolScrub k flips place => exact Keeps.next (ite_service rfl (ite_service rfl (State.scrubPage_service (s.takeM _) ..)))
  | controlStoreScrub upsets => exact Keeps.next (foldl_service _ (fun _ _ => ite_service rfl (State.raise_service ..)) _ _)
  | monitorSample d slot v => exact Keeps.next (ite_service rfl ((State.monTake_service ..).trans (State.monReading_service ..)))
  | linkRateOrWidthChange p gen width =>
    exact Keeps.next (ite_service rfl ((State.raise_service ..).trans (State.modPort_service_upd ..)))
  | _ => cases hi

end

/-- Settles O7: the control state and the service state, row by row. -/
theorem controlAndServiceFrames : Obligations.ControlAndServiceFrames :=
  ⟨fun i s _ hi h => (exec_keeps_control s i hi).of_next h, fun i s _ hi h => (exec_keeps_service s i hi).of_next h⟩

end Sys2Proof.Machine
end

section
/-!
PROOFS of the frame of the stations (01): the rows that leave every station as it was.
-/
namespace Sys2Proof.Machine

/-! ### Operations -/

theorem State.scrubGo_keeps_stns (s : State) (d : DieId) : (s.scrubGo d).stns = s.stns := by
  unfold State.scrubGo
  split
  · rfl
  · exact ite_keeps_stns (State.finishWith_keeps_stns ..) rfl

theorem State.scrubCounts_keeps_stns (s : State) (w : PendingWb) (skip remap : Nat) :
    (s.scrubCounts w skip remap).stns = s.stns := ite_keeps_stns rfl rfl

/-- A read that is answered in one of two ways. -/
theorem ite_answerRead_keeps_stns {c : Prop} [Decidable c] {s t : State} {p : Port} {v : BitVec 64} (h : t.stns = s.stns) :
    (if c then t else t.answerRead p v).stns = s.stns :=
  ite_keeps_stns h ((State.answerRead_keeps_stns ..).trans h)

/-- A doorbell write (R318), whatever its checks answer: the port is touched, and a queue's index moves or the doorbell-error event is raised. -/
theorem doorbell_keeps_stns {c b : Prop} [Decidable c] [Decidable b] (s : State) (p : Port) (q : Nat) (f : Qp → Qp) :
    (if c then s.touch p else if b then (s.touch p).badDoorbell p else (s.touch p).modQp p q f).stns = s.stns := by
  have touched := State.touch_keeps_stns s p
  refine ite_keeps_stns touched (ite_keeps_stns ?_ ?_)
  · exact (State.badDoorbell_keeps_stns ..).trans touched
  · exact (State.modQp_keeps_stns ..).trans touched

/-! ### Rows that choose between several effects -/

section
variable (s : State)

theorem execMonitorCtl_keeps_stns (c : HostCmd) (data : List Byte) : Keeps State.stns s (execMonitorCtl c data s) := by
  refine Keeps.next (State.host_keeps_stns _ _ _ _ _ _ fun a => ?_)
  rw [State.finish_keeps_stns, State.modDie_keeps_stns, State.addCmd_keeps_stns]

theorem execTrcDataRead_keeps_stns (p : Port) (acc : TrcAccess) (flips : BitVec 73) :
    Keeps State.stns s (execTrcDataRead p acc flips s) := by
  refine Keeps.next (ite_answerRead_keeps_stns (State.regAccess_keeps_stns _ _ _ _ fun a => ?_))
  cases acc with
  | whole => exact (State.answerRead_keeps_stns ..).trans (State.popTrace_keeps_stns ..)
  | low => exact (State.answerRead_keeps_stns ..).trans (State.popTrace_keeps_stns ..)
  | high =>
    dsimp only
    split
    · exact State.answerRead_keeps_stns ..
    · exact State.answerRead_keeps_stns ..

theorem execSupV0Read_keeps_stns (p : Port) : Keeps State.stns s (execSupV0Read p s) := by
  have answered (v : BitVec 64) : ((s.regAccess p 0x4000 id).answerRead p v).stns = s.stns :=
    (State.answerRead_keeps_stns ..).trans (State.regAccess_keeps_stns _ _ _ _ fun _ => rfl)
  refine Keeps.next (ite_keeps_stns (ite_keeps_stns ?_ (answered _)) rfl)
  exact answered ((s.regAccess p 0x4000 id).readBar0 p 0x4000 4)

theorem execAdminQueueEnable_keeps_stns (p : Port) : Keeps State.stns s (execAdminQueueEnable p s) := by
  have touched := State.touch_keeps_stns s p
  refine Keeps.next (ite_keeps_stns touched ?_)
  split
  · exact touched
  · exact ite_keeps_stns ((State.raise_keeps_stns ..).trans touched) touched

theorem execPageWrite_keeps_stns (a : PageAddr) (handle : BitVec 32) (actor first : Nat) (beats : List (BitVec 512)) (poison : BitVec 64)
    (l : PageLine) : Keeps State.stns s (execPageWrite a handle actor first beats poison l s) := by
  unfold execPageWrite
  dsimp only
  split
  · exact Keeps.fault _
  · split
    · exact Keeps.next (State.logStale_keeps_stns ..)
    · split
      · exact Keeps.next (State.writePage_keeps_stns ..)
      · exact Keeps.next ((State.writePage_keeps_stns ..).trans (State.readPage_keeps_stns ..))

theorem execWriteBack_keeps_stns (k : Fin 4) (verify : PageLine) : Keeps State.stns s (execWriteBack k verify s) := by
  refine Keeps.next ?_
  split
  · rfl
  · refine ite_keeps_stns rfl ((State.scrubGo_keeps_stns ..).trans (ite_keeps_stns ?_ ?_))
    · exact (State.scrubCounts_keeps_stns ..).trans (State.elogPage_keeps_stns ..)
    · exact (State.scrubCounts_keeps_stns ..).trans (State.writeBackPage_keeps_stns ..)

theorem execRangeScrubRead_keeps_stns (d : DieId) (flips : List Nat) (place : Option PageAddr) :
    Keeps State.stns s (execRangeScrubRead d flips place s) := by
  refine Keeps.next ?_
  split
  · rfl
  · exact ite_keeps_stns rfl ((State.scrubGo_keeps_stns ..).trans (State.scrubPage_keeps_stns (s.takeM _) ..))

theorem execRetirePage_keeps_stns (c : HostCmd) : Keeps State.stns s (execRetirePage c s) := by
  refine Keeps.next (State.host_keeps_stns _ _ _ _ _ _ fun a => ?_)
  have added := State.addCmd_keeps_stns a c (Cmd.start c a.clock .moving)
  exact ite_keeps_stns ((State.finish_keeps_stns ..).trans added) added

theorem execChunkReadBack_keeps_stns (back : List Byte) (target : SlotRead) :
    Keeps State.stns s (execChunkReadBack back target s) := by
  refine Keeps.next ?_
  split
  · rfl
  · split
    · rfl
    · refine ite_keeps_stns (State.finish_keeps_stns ..) (ite_keeps_stns ?_ ?_)
      · exact State.stageCheck_keeps_stns ..
      · exact State.finish_keeps_stns ..

/-- The rows outside Instr.movesStations leave every station alone. -/
theorem exec_keeps_stns (i : Instr) (hi : i.movesStations = false) : Keeps State.stns s (exec i s) := by
  cases i with
  | orderFence c =>
    exact Keeps.next (State.host_keeps_stns _ _ _ _ _ _ fun a => (State.fenceGo_keeps_stns ..).trans (State.addCmd_keeps_stns ..))
  | createQp c => exact Keeps.next (State.host_keeps_stns _ _ _ _ _ _ fun a => State.finishNew_keeps_stns ..)
  | imageStage c data => exact Keeps.next (State.host_keeps_stns _ _ _ _ _ _ (State.runStage_keeps_stns c data))
  | imageConfirm c => exact Keeps.next (State.host_keeps_stns _ _ _ _ _ _ (State.runConfirm_keeps_stns c))
  | retirePage c => exact execRetirePage_keeps_stns s c
  | monitorCtl c data => exact execMonitorCtl_keeps_stns s c data
  | sqTailWrite p q v | cqHeadWrite p q v => exact Keeps.next (doorbell_keeps_stns s p q _)
  | adminQueueEnable p => exact execAdminQueueEnable_keeps_stns s p
  | evtStatClear p w v raised | evtMaskWrite p w v | evtRouteWrite p w v =>
    exact Keeps.next (State.regAccess_keeps_stns _ _ _ _ fun a => State.sendEvents_keeps_stns ..)
  | msixVectorUnmask p v => exact Keeps.next (ite_keeps_stns (State.msix_keeps_stns ..) rfl)
  | monSelWrite p v | elogIdxWrite p v poisoned => exact Keeps.next (State.regAccess_keeps_stns _ _ _ _ fun _ => rfl)
  | flushNow p | flushAtBoundary p | clrcnt p =>
    exact Keeps.next (State.regAccess_keeps_stns _ _ _ _ fun a => State.modSel_keeps_stns ..)
  | trcDataRead p acc flips => exact execTrcDataRead_keeps_stns s p acc flips
  | supV0Read p => exact execSupV0Read_keeps_stns s p
  | registerWrite p ofs size v =>
    exact Keeps.next (State.regAccess_keeps_stns _ _ _ _ fun a => ite_keeps_stns (State.regEffect_keeps_stns ..) rfl)
  | watchdogReport d | thermalCapRaise | thermalStopClear | ceLeak => exact Keeps.next rfl
  | stationStateSave st | fuseLoadDone => exact Keeps.next (ite_keeps_stns rfl rfl)
  | portLinkTrained p gen width msix => exact Keeps.next (ite_keeps_stns rfl (ite_keeps_stns rfl rfl))
  | vbusMismatch st | drbgHealthFail | ucieLinkRetrain d => exact Keeps.next (State.raise_keeps_stns ..)
  | pageWrite a handle actor first beats poison l => exact execPageWrite_keeps_stns s a handle actor first beats poison l
  | writeBack k verify => exact execWriteBack_keeps_stns s k verify
  | patrolScrub k flips place => exact Keeps.next (ite_keeps_stns rfl (ite_keeps_stns rfl (State.scrubPage_keeps_stns (s.takeM _) ..)))
  | controlStoreScrub upsets => exact Keeps.next (foldl_keeps_stns _ (fun _ _ => ite_keeps_stns rfl (State.raise_keeps_stns ..)) _ _)
  | trialWindowExpiry | linkRateOrWidthChange p gen width => exact Keeps.next (ite_keeps_stns rfl (State.raise_keeps_stns ..))
  | selfTestTimeout parts | selfTestDone parts => exact Keeps.next (State.testEnds_keeps_stns ..)
  | chunkReadBack back target => exact execChunkReadBack_keeps_stns s back target
  | rangeScrubRead d flips place => exact execRangeScrubRead_keeps_stns s d flips place
  | _ => cases hi

end

end Sys2Proof.Machine
end

section
/-!
PROOFS of the frame of a station's standing (01, 12): the rows that leave alone its fault, block reset, stabled buffers, broken write state
and latency fault.
-/
namespace Sys2Proof.Machine

/-! ### Operations -/

theorem State.burnUnwritten_standing (s : State) (st : Stn) : (s.burnUnwritten st).standing = s.standing :=
  State.giveBack_standing ..

theorem State.sealsGo_standing (s : State) : s.sealsGo.standing = s.standing :=
  foldl_standing _ State.sealGo_standing _ _

theorem State.sealNow_standing (s : State) (st : Stn) : (s.sealNow st).standing = s.standing :=
  State.modStn_modCtx_standing ..

theorem State.opsDone_standing (s : State) (d : DieId) (p : Fin 5) : (s.opsDone d p).standing = s.standing :=
  ite_standing rfl ((State.grantsGo_standing _).trans (State.wakeDue_standing ..))

theorem State.useGo_standing (s : State) (use : PoolUse) : (s.useGo use).standing = s.standing := by
  unfold State.useGo
  split
  · exact (State.settle_standing ..).trans (State.numberLabels_standing ..)
  · rfl

theorem State.turnRound_standing (s : State) (st : Stn) : (s.turnRound st).standing = s.standing := by
  unfold State.turnRound
  dsimp only
  split
  · rfl
  · exact ite_standing rfl ((State.rampTo_standing ..).trans (State.modStn_modServo_standing ..))

theorem State.turnAtRest_standing (s : State) (st : Stn) : (s.turnAtRest st).standing = s.standing := by
  unfold State.turnAtRest
  dsimp only
  split
  · rfl
  · exact ite_standing ((State.settle_standing ..).trans (State.nextWrap_standing ..)) rfl

theorem State.readAgain_standing (s : State) (st : Stn) : (s.readAgain st).standing = s.standing := by
  refine ite_standing rfl ?_
  rw [State.modStn_standing_upd, State.runBack_standing, State.aim_standing]

theorem State.mountTensioned_standing (s : State) (st : Stn) (r : CmdRef) : (s.mountTensioned st r).standing = s.standing := by
  unfold State.mountTensioned
  split
  · exact State.mountOn_standing ..
  · exact State.mountReads_standing ..

theorem State.rawFails_standing (s : State) (st : Stn) (lon lane : Nat) : (s.rawFails st lon lane).standing = s.standing := by
  have fenced := State.fenceLane_standing s (dieOf st) .compression lane
  have dropped : ((s.fenceLane (dieOf st) .compression lane).dropJobs (· == JobKind.compress st lon)).standing = s.standing :=
    (State.dropJobs_standing ..).trans fenced
  refine ite_standing fenced (ite_standing ?_ ?_)
  · exact (State.jobFails_standing ..).trans dropped
  · exact (State.addJob_standing ..).trans ((State.startOver_standing ..).trans dropped)

/-- A host row whose command is launched keeps the ledger where its start does. -/
theorem launched_standing {s : State} {opc : Nat} {c : HostCmd} {own : State → Option Ending} {blocked : State → Option Hold}
    {k : State → Cmd} {go : CmdRef → State → State} (h : ∀ r a, (go r a).standing = a.standing) :
    Keeps State.standing s (.next (s.host opc c own blocked fun a => a.launch c (k a) go)) :=
  Keeps.next (State.host_standing _ _ _ _ _ _ fun a => State.launch_standing a _ _ _ h)

theorem State.climbFrom_standing (s : State) (st : Stn) (g : RGath) : (s.climbFrom st g).standing = s.standing := by
  unfold State.climbFrom
  split
  · rfl
  · split
    · exact ite_standing (State.climb_standing ..) rfl
    · rfl

/-! ### Rows that choose between several effects -/

section
variable (s : State)

theorem execAppend_standing (c : HostCmd) : Keeps State.standing s (execAppend c s) := by
  have ran := State.host_standing s 0x01 c (appendOwn c) (appendBlocked c) _ (State.runAppend_standing c)
  refine Keeps.next (ite_standing (State.hold_standing ..) (ite_standing ?_ ran))
  exact (State.gapLon_standing ..).trans ran

theorem execDeleteQp_standing (c : HostCmd) : Keeps State.standing s (execDeleteQp c s) := by
  refine Keeps.next (State.host_standing _ _ _ _ _ _ fun a => ?_)
  dsimp only
  rw [State.finishNew_standing, State.modPort_standing, State.abandonOpen_standing]

theorem execResetQp_standing (c : HostCmd) : Keeps State.standing s (execResetQp c s) := by
  refine Keeps.next (State.host_standing _ _ _ _ _ _ fun a => ?_)
  dsimp only
  rw [State.modQp_standing, State.dropGoneKeys_standing, State.abortQueue_standing, State.modQp_standing,
    State.addCmd_standing]

theorem execMountOpenTimeout_standing (st : Stn) : Keeps State.standing s (execMountOpenTimeout st s) := by
  refine Keeps.next ?_
  split
  · rfl
  · exact ite_standing ((State.modStn_standing_upd ..).trans (State.finish_standing ..)) rfl

theorem execPoolGrant_standing (d : DieId) (owner len : Nat) (use : PoolUse) :
    Keeps State.standing s (execPoolGrant d owner len use s) := by
  refine Keeps.next (ite_standing (State.misuse_standing ..) (ite_standing rfl ?_))
  split
  · exact State.poolRefuse_standing ..
  · refine ite_standing rfl ?_
    split
    · dsimp only
      rw [State.useGo_standing, State.grantsGo_standing, State.grantUse_standing, State.takeBuf_standing]
    · exact State.poolWait_standing ..
    · exact ite_standing (State.poolRefuse_standing ..) (State.poolWait_standing ..)

theorem execPoolAdd_standing (d : DieId) (owner : Nat) (handle : BitVec 32) (name : Nat) :
    Keeps State.standing s (execPoolAdd d owner handle name s) := by
  refine Keeps.next ?_
  split
  · exact State.misuse_standing ..
  · exact ite_standing rfl (State.opsDone_standing ..)

theorem execPoolRelease_standing (d : DieId) (owner : Nat) (handle : BitVec 32) :
    Keeps State.standing s (execPoolRelease d owner handle s) := by
  refine Keeps.next ?_
  split
  · exact State.misuse_standing ..
  · exact ite_standing rfl ((State.opsDone_standing ..).trans (State.strike_standing ..))

theorem execPoolFree_standing (d : DieId) (owner : Nat) (handle : BitVec 32) :
    Keeps State.standing s (execPoolFree d owner handle s) := by
  refine Keeps.next ?_
  split
  · exact State.misuse_standing ..
  · exact ite_standing rfl ((State.opsDone_standing ..).trans (State.freeBuf_standing ..))

theorem execPageRead_standing (a : PageAddr) (handle : BitVec 32) (actor : Nat) (l : PageLine) (c : Consumer) :
    Keeps State.standing s (execPageRead a handle actor l c s) := by
  have read : ((s.takeSlot a).readPage a l 1 handle actor).2.standing = s.standing := State.readPage_standing ..
  have judged := ite_standing (c := (s.takeSlot a).staleAccess a handle) ((State.logStale_standing _ a handle actor).trans read) read
  unfold execPageRead
  split
  · exact Keeps.fault _
  · exact Keeps.next (ite_standing judged ((State.consume_standing ..).trans judged))

theorem execVddCoreWarning_standing (mv : Nat) : Keeps State.standing s (execVddCoreWarning mv s) := by
  have reads := State.railReads_standing s 0 mv
  refine Keeps.next (ite_standing rfl (ite_standing (ite_standing ?_ reads) ?_))
  · exact (State.raise_standing ..).trans reads
  · refine (State.eachWriting_standing _ _ fun a st => ite_standing (State.runOut_standing ..) rfl).trans ?_
    exact (State.raise_standing ..).trans reads

theorem execDipRecovery_standing (min : Nat) (regrades : List Regrade) : Keeps State.standing s (execDipRecovery min regrades s) := by
  refine Keeps.next (ite_standing rfl ((foldl_standing _ (fun _ _ => State.dipResume_standing ..) _ _).trans ?_))
  exact (State.raise_standing ..).trans (foldl_standing _ State.regrade_standing _ _)

theorem execThermalThrottle_standing (d : DieId) (temp : BitVec 16) : Keeps State.standing s (execThermalThrottle d temp s) := by
  have heated := State.heat_standing s d temp
  refine Keeps.next (ite_standing rfl (ite_standing heated ?_))
  exact (State.setCap_standing ..).trans ((State.raise_standing ..).trans heated)

theorem execThermalThrottleStep_standing : Keeps State.standing s (execThermalThrottleStep s) := by
  refine Keeps.next ?_
  split
  · exact State.setCap_standing ..
  · rfl

theorem execThermalStop_standing (d : DieId) (temp : BitVec 16) : Keeps State.standing s (execThermalStop d temp s) := by
  have heated := State.heat_standing s d temp
  refine Keeps.next (ite_standing rfl (ite_standing heated ?_))
  exact (foldl_standing _ State.controlledStop_standing _ _).trans ((State.raise_standing ..).trans heated)

theorem execBusWarningStep_standing (st : Stn) (n : Nat) : Keeps State.standing s (execBusWarningStep st n s) := by
  refine Keeps.next ?_
  split
  · exact ite_standing rfl ((State.setBusCap_standing ..).trans (State.busReads_standing ..))
  · rfl

theorem execBusRecovery_standing (st : Stn) (n : Nat) : Keeps State.standing s (execBusRecovery st n s) := by
  refine Keeps.next (ite_standing rfl ?_)
  rw [State.holdExit_standing, State.busRaise_standing, State.modStn_modSpeed_standing, State.busReads_standing]

theorem execUcieLinkDown_standing : Keeps State.standing s (execUcieLinkDown s) := by
  refine Keeps.next (ite_standing rfl ?_)
  have stopped (a : State) (st : Stn) : (((a.controlledStop st).failStation st).burnUnwritten st).standing = a.standing := by
    rw [State.burnUnwritten_standing, State.failStation_standing, State.controlledStop_standing]
  dsimp only
  rw [State.sealsGo_standing, State.raise_standing, foldl_standing _ State.endReading_standing,
    foldl_standing _ stopped, State.finishAll_standing, standing_upd]

theorem execLinkLoss_standing (st : Stn) : Keeps State.standing s (execLinkLoss st s) := by
  refine Keeps.next (ite_standing rfl ?_)
  rw [State.powerGo_standing, State.loseLink_standing, State.raise_standing, State.count_standing]

theorem execBankSwapTimeout_standing (st : Stn) (loop : LoopId) : Keeps State.standing s (execBankSwapTimeout st loop s) := by
  cases loop with
  | reel => exact Keeps.next rfl
  | lateral | skew | aux => exact Keeps.next (State.modStn_modServo_standing ..)

theorem execTensioned_standing (st : Stn) : Keeps State.standing s (execTensioned st s) := by
  have closed := State.modStn_modServo_standing s st fun _ v => { v with motion := .tensioned, closing := false, ramp := none, vRef := 0 }
  refine Keeps.next (ite_standing rfl ?_)
  dsimp only
  split
  · exact ite_standing ((State.mountTensioned_standing ..).trans closed) ((State.serveSeek_standing ..).trans closed)
  · exact (State.powerGo_standing _).trans ((State.serveSeek_standing ..).trans closed)

theorem execTensionTimeout_standing (st : Stn) : Keeps State.standing s (execTensionTimeout st s) := by
  have opened := State.openLoops_standing s st
  refine Keeps.next (ite_standing rfl ?_)
  dsimp only
  split
  · exact ite_standing ((State.finish_standing ..).trans ((State.dismount_standing ..).trans opened)) opened
  · exact (State.powerGo_standing _).trans opened

theorem execSpeedStepDone_standing (st : Stn) : Keeps State.standing s (execSpeedStepDone st s) := by
  have stepped := State.modStn_modSpeed_standing s st fun _ x => { x with stepping := none, lastStep := s.clock }
  exact Keeps.next (ite_standing rfl (ite_standing ((State.fillResume_standing ..).trans stepped) stepped))

theorem execBackhitchDone_standing (st : Stn) (gap : Nat) : Keeps State.standing s (execBackhitchDone st gap s) := by
  refine Keeps.next (ite_standing rfl (ite_standing (State.controlledStop_standing ..) ?_))
  rw [State.modStn_modWrite_standing, State.capDown_standing, State.resume_standing, State.newRun_standing, State.endFill_standing,
    State.modStn_modSpeed_standing]

theorem execSpeedDecision_standing (st : Stn) : Keeps State.standing s (execSpeedDecision st s) := by
  refine Keeps.next ?_
  rw [State.modStn_modLink_standing, State.powerGo_standing, State.readAgain_standing, State.serveSeek_standing,
    State.speedDecide_standing, State.turnAtRest_standing]

theorem execWrapStart_standing (st : Stn) : Keeps State.standing s (execWrapStart st s) := by
  refine Keeps.next (ite_standing rfl (ite_standing (State.controlledStop_standing ..) ?_))
  rw [State.capDown_standing, State.modStn_standing_upd, State.newRun_standing]

theorem execRereadPassDone_standing (st : Stn) : Keeps State.standing s (execRereadPassDone st s) := by
  have merged := State.modStn_modRecall_standing s st fun _ => Recall.again
  refine Keeps.next (ite_standing rfl ?_)
  split
  · exact (State.mountSearch_standing ..).trans merged
  · have aimed := (State.aim_standing (s.modStn st fun t => t.modRecall Recall.again) st (s.stns[st]).readSide.wrap 0).trans merged
    refine ite_standing rfl (ite_standing ?_ ?_)
    · exact (State.controlledStop_standing ..).trans aimed
    · exact (State.modStn_modServo_standing ..).trans ((State.rampTo_standing ..).trans aimed)

theorem execRebuildPassDone_standing (st : Stn) : Keeps State.standing s (execRebuildPassDone st s) := by
  refine Keeps.next ?_
  split
  · rfl
  · exact ite_standing rfl (State.rebuild_standing ..)

theorem execGatheringPlace_standing (st : Stn) (ahead : Nat) : Keeps State.standing s (execGatheringPlace st ahead s) := by
  refine Keeps.next (ite_standing rfl ?_)
  split
  · exact State.placeTail_standing ..
  · rfl
  · exact ite_standing (State.reserveFault_standing ..) ((State.settle_standing ..).trans (State.placeNext_standing ..))

theorem execEmptyGathering_standing (st : Stn) : Keeps State.standing s (execEmptyGathering st s) := by
  refine Keeps.next (ite_standing rfl (ite_standing (State.controlledStop_standing ..) ?_))
  exact (State.modStn_modWrite_standing ..).trans (State.closeEmpty_standing ..)

theorem execEngineDispatch_standing (d : DieId) (r : Region) : Keeps State.standing s (execEngineDispatch d r s) := by
  have dropped := State.dropJobs_standing s s.hashOver
  refine Keeps.next (ite_standing ?_ (ite_standing dropped ?_))
  · exact (foldl_standing _ State.jobRefused_standing _ _).trans dropped
  · split
    · exact dropped
    · split
      · exact dropped
      · exact dropped

theorem execBlockEmit_standing (st : Stn) (lon : Nat) : Keeps State.standing s (execBlockEmit st lon s) := by
  refine Keeps.next ?_
  split
  · rfl
  · rfl
  · split
    · exact (State.afterBlock_standing ..).trans (State.modRec_standing ..)
    · refine ite_standing rfl ?_
      split
      · exact State.afterBlock_standing ..
      · dsimp only
        rw [State.settle_standing, State.afterBlock_standing, State.modStn_modSpeed_standing, State.modRec_standing]

theorem execCheckFail_standing (st : Stn) (lon block : Nat) : Keeps State.standing s (execCheckFail st lon block s) := by
  refine Keeps.next ?_
  split
  · rfl
  · split
    · rfl
    · split
      · rfl
      · refine ite_standing rfl (ite_standing (State.rawFails_standing ..) ?_)
        refine (State.settle_standing ..).trans ((State.modRec_standing ..).trans ?_)
        split
        · exact State.burnFrom_standing ..
        · exact ite_standing (State.burnFrom_standing ..) rfl

theorem execEncryptionDone_standing (st : Stn) (gnum : Nat) : Keeps State.standing s (execEncryptionDone st gnum s) := by
  refine Keeps.next (ite_standing rfl ?_)
  dsimp only
  rw [State.settle_standing, State.releaseAll_standing, State.modStn_standing, State.dropJobs_standing]
  intro t
  split <;> rfl

theorem execBootImageChoice_standing (f : Flash) : Keeps State.standing s (execBootImageChoice f s) := by
  have applied (a : State) (l : List Nat) : (a.portsApply.raiseAll l).standing = a.standing :=
    (State.raiseAll_standing ..).trans (State.portsApply_standing a)
  refine Keeps.next (ite_standing rfl (ite_standing ?_ ?_))
  · rw [State.tryE4_standing, applied, standing_upd, State.flash_standing]
  · dsimp only
    rw [standing_upd, applied, standing_upd, State.flash_standing]

theorem execWrapEnd_standing (st : Stn) : Keeps State.standing s (execWrapEnd st s) := by
  refine Keeps.next (ite_standing rfl (ite_standing (ite_standing ?_ ?_) (ite_standing ?_ rfl)))
  · exact State.turn_standing ..
  · exact (State.quiesceGate_standing ..).trans (State.voidWriting_standing ..)
  · exact State.recallWrapEnd_standing ..

theorem execGatheringDecode_standing (st : Stn) (gnum : Nat) : Keeps State.standing s (execGatheringDecode st gnum s) := by
  refine Keeps.next ?_
  split
  · rfl
  · exact ite_standing rfl ((State.readOn_standing ..).trans (State.decodeGath_standing ..))

theorem execQuireDecode_standing (st : Stn) (quire : Nat) : Keeps State.standing s (execQuireDecode st quire s) := by
  refine Keeps.next ?_
  split
  · rfl
  · exact ite_standing ((State.readOn_standing ..).trans (State.decodeQuire_standing ..)) rfl

theorem execDecryptionDone_standing (st : Stn) (gnum : Nat) : Keeps State.standing s (execDecryptionDone st gnum s) := by
  have dropped : (s.dropJobs fun j => j == .decrypt st gnum).standing = s.standing := State.dropJobs_standing ..
  refine Keeps.next (ite_standing rfl ?_)
  dsimp only
  split
  · exact dropped
  · split
    · exact (State.readOn_standing ..).trans ((State.tagFailed_standing ..).trans dropped)
    · split
      · exact (State.endpaperPassed_standing ..).trans ((State.modStn_modRecall_standing ..).trans dropped)
      · rw [State.readOn_standing, State.climbFrom_standing, State.labelRead_standing, State.modStn_modRecall_standing, dropped]

theorem execDecompressionDone_standing (st : Stn) (lon : Nat) : Keeps State.standing s (execDecompressionDone st lon s) := by
  have dropped (f : JobKind → Bool) : (s.dropJobs f).standing = s.standing := State.dropJobs_standing s f
  refine Keeps.next (ite_standing rfl ?_)
  dsimp only
  rw [State.readOn_standing, State.readDone_standing, State.modStn_modRecall_standing, dropped]

/-- Of the rows that may change a station, those outside Instr.setsStanding leave alone what keeps it from its work. -/
theorem exec_movesStations_keeps_standing (i : Instr) (hi : (i.movesStations && !i.setsStanding) = true) : Keeps State.standing s (exec i s) := by
  -- The word for SEAL is also a command of Lean and cannot name a case: it comes last.
  have sealed (c : HostCmd) : Keeps State.standing s (exec (.seal c) s) :=
    Keeps.next (State.host_standing _ _ _ _ _ _ fun a =>
      (State.launch_standing (a.sealNow _) _ _ _ State.startSeal_standing).trans (State.sealNow_standing ..))
  cases i with
  | append c => exact execAppend_standing s c
  | read c | locate c | verify c => exact Keeps.next (State.host_standing _ _ _ _ _ _ (State.runReader_standing c))
  | flush c => exact launched_standing State.startFlush_standing
  | migrate c => exact launched_standing State.startMigrate_standing
  | identify c | getLog c => exact launched_standing State.startAdmin_standing
  | deleteQp c => exact execDeleteQp_standing s c
  | resetQp c => exact execResetQp_standing s c
  | mount c cart => exact launched_standing State.startMount_standing
  | unmount c => exact launched_standing State.startUnmount_standing
  | initVolume c => exact launched_standing State.startInit_standing
  | selfTest c parts => exact Keeps.next (State.host_standing _ _ _ _ _ _ (State.runTest_standing c parts))
  | powerState c => exact Keeps.next (State.host_standing _ _ _ _ _ _ (State.runPower_standing c))
  | scrubRange c => exact launched_standing State.startScrub_standing
  | completionWrite p q => exact Keeps.next (State.writeDone_standing ..)
  | warmRequest p =>
    have woken := ite_standing (c := (s.ports[p]).linkUp = true) (State.modPort_standing s p fun h => { h with l1 := false }) rfl
    exact Keeps.next (ite_standing ((State.warmSource_standing ..).trans woken) woken)
  | thermalTripRelease | refclkStable => exact Keeps.next (State.tryExit_standing _)
  | warmN => exact Keeps.next (State.warmSource_standing ..)
  | portReset p => exact Keeps.next (State.portReset_standing ..)
  | resetRelease src => exact Keeps.next (ite_standing rfl (State.tryExit_standing _))
  | bootImageChoice f => exact execBootImageChoice_standing s f
  | memoryReady =>
    have built (a : State) : ((a.buildPools 0).buildPools 1).standing = a.standing :=
      (State.buildPools_standing ..).trans (State.buildPools_standing ..)
    exact Keeps.next (ite_standing rfl ((State.tryE4_standing _).trans (built _)))
  | deviceReady => exact Keeps.next (State.deviceReady_standing s)
  | vddCoreWarning mv => exact execVddCoreWarning_standing s mv
  | dipStop => exact Keeps.next (ite_standing rfl (State.eachWriting_standing _ _ State.controlledStop_standing))
  | dipRecovery min regrades => exact execDipRecovery_standing s min regrades
  | thermalThrottle d temp => exact execThermalThrottle_standing s d temp
  | thermalThrottleStep => exact execThermalThrottleStep_standing s
  | thermalStop d temp => exact execThermalStop_standing s d temp
  | busWarning st n => exact Keeps.next (State.busLevel_standing _ _ _ _ _ fun a => State.setBusCap_standing ..)
  | busWarningStep st n => exact execBusWarningStep_standing s st n
  | busStop st n =>
    exact Keeps.next (State.busLevel_standing _ _ _ _ _ fun a =>
      (State.modStn_modSpeed_standing ..).trans (State.controlledStop_standing a st))
  | busHold st n =>
    exact Keeps.next (State.busLevel_standing _ _ _ _ _ fun a => (State.modStn_standing_upd ..).trans (State.hold__standing a st))
  | busRecovery st n => exact execBusRecovery_standing s st n
  | busRecoveryStep st n => exact Keeps.next (ite_standing rfl ((State.busRaise_standing ..).trans (State.busReads_standing ..)))
  | upstreamFrame st lane f => exact Keeps.next (State.rxFrame_standing ..)
  | downstreamFrame st lane ncell => exact Keeps.next (State.txFrame_standing ..)
  | sidebandContainer st slot => exact Keeps.next (State.container_standing ..)
  | laneDown st lane => exact Keeps.next (State.laneDown_standing ..)
  | laneTrainingRetry st lane => exact Keeps.next (State.laneRetry_standing ..)
  | linkLoss st => exact execLinkLoss_standing s st
  | linkRecovered st => exact Keeps.next (ite_standing ((State.holdExit_standing ..).trans (State.modStn_modLink_standing ..)) rfl)
  | rowDecode st pos track => exact Keeps.next (State.rowDecode_standing ..)
  | retryAttempt st => exact Keeps.next (State.retryAttempt_standing ..)
  | bandFreeze st => exact Keeps.next (State.modStn_modWrite_standing ..)
  | gatheringAcceptance st gnum => exact Keeps.next ((State.powerGo_standing _).trans (State.acceptance_standing ..))
  | intakeDone p q tag data ep => exact Keeps.next (State.intake_standing ..)
  | engineDispatch d r => exact execEngineDispatch_standing s d r
  | engineLaneFault d r lane => exact Keeps.next (State.fenceLane_standing ..)
  | blockEmit st lon => exact execBlockEmit_standing s st lon
  | rightAwayMark st lon block =>
    exact Keeps.next ((State.settle_standing ..).trans ((State.releaseAll_standing ..).trans (State.modRec_standing ..)))
  | checkFail st lon block => exact execCheckFail_standing s st lon block
  | encryptionDone st gnum => exact execEncryptionDone_standing s st gnum
  | gatheringPlace st ahead => exact execGatheringPlace_standing s st ahead
  | emptyGathering st => exact execEmptyGathering_standing s st
  | speedDecision st => exact execSpeedDecision_standing s st
  | speedStepDone st => exact execSpeedStepDone_standing s st
  | stopDone st => exact Keeps.next (ite_standing (State.modStn_standing_upd ..) rfl)
  | backhitchDone st gap => exact execBackhitchDone_standing s st gap
  | wrapEnd st => exact execWrapEnd_standing s st
  | wrapStart st => exact execWrapStart_standing s st
  | gatheringDecode st gnum => exact execGatheringDecode_standing s st gnum
  | quireDecode st quire => exact execQuireDecode_standing s st quire
  | rereadPassDone st => exact execRereadPassDone_standing s st
  | recordHandover st lon =>
    exact Keeps.next ((State.readOn_standing ..).trans (State.handover_standing ..))
  | rebuildPassDone st => exact execRebuildPassDone_standing s st
  | lateralSample st => exact Keeps.next ((State.turnRound_standing ..).trans (State.lateral_standing ..))
  | writeInhibitEnd st | lateralSettled st => exact Keeps.next (ite_standing (State.modStn_modServo_standing ..) rfl)
  | missWinh st => exact Keeps.next (ite_standing ((State.inhibitWrite_standing ..).trans (State.count_standing ..)) rfl)
  | missStop st =>
    have stopped := (State.controlledStop_standing (s.count st 0 [25]) st).trans (State.count_standing ..)
    exact Keeps.next (ite_standing ((State.loseLpos_standing ..).trans stopped) rfl)
  | reelSample st => exact Keeps.next (State.reel_standing ..)
  | reelMissStop st => exact Keeps.next (ite_standing (State.controlledStop_standing ..) rfl)
  | auxSample st => exact Keeps.next (State.auxSample_standing ..)
  | lposWord st => exact Keeps.next (ite_standing ((State.settle_standing ..).trans (State.lposTake_standing ..)) rfl)
  | lposLost st => exact Keeps.next (ite_standing (State.loseLpos_standing ..) rfl)
  | kappaUpdate st takeUp servoLen => exact Keeps.next (State.kappa_standing ..)
  | bankSwapTimeout st loop => exact execBankSwapTimeout_standing s st loop
  | rampDone st => exact Keeps.next ((State.powerGo_standing _).trans (State.rampDone_standing ..))
  | tensioned st => exact execTensioned_standing s st
  | tensionTimeout st => exact execTensionTimeout_standing s st
  | poolGrant d owner len use => exact execPoolGrant_standing s d owner len use
  | poolAdd d owner handle name => exact execPoolAdd_standing s d owner handle name
  | poolRelease d owner handle => exact execPoolRelease_standing s d owner handle
  | poolFree d owner handle => exact execPoolFree_standing s d owner handle
  | pageRead a handle actor l c => exact execPageRead_standing s a handle actor l c
  | ucieLinkDown => exact execUcieLinkDown_standing s
  | ledgerWriteDone =>
    refine Keeps.next ?_
    split
    · rfl
    · exact State.ledgerDone_standing ..
  | monitorSample d slot v => exact Keeps.next (ite_standing rfl ((State.monTake_standing ..).trans (State.monReading_standing ..)))
  | decryptionDone st gnum => exact execDecryptionDone_standing s st gnum
  | decompressionDone st lon => exact execDecompressionDone_standing s st lon
  | mountOpenTimeout st => exact execMountOpenTimeout_standing s st
  | _ => cases hi <;> exact sealed _

end

/-- The rows outside Instr.setsStanding leave alone what keeps a station from its work. -/
theorem exec_keeps_standing (s : State) (i : Instr) (hi : i.setsStanding = false) : Keeps State.standing s (exec i s) := by
  cases hm : i.movesStations with
  | true => exact exec_movesStations_keeps_standing s i (by rw [hm, hi]; rfl)
  | false => exact (exec_keeps_stns s i hm).comp (Vector.map Station.standing)

/-- Settles O8: the standing of a station is part of the station, and a row that moves stations leaves it alone outside Instr.setsStanding. -/
theorem stationFrame : Obligations.StationFrame :=
  ⟨fun i s _ hi h => (exec_keeps_stns s i hi).of_next h, fun i s _ hi h => (exec_keeps_standing s i hi).of_next h⟩

end Sys2Proof.Machine
end

section
/-!
PROOFS that buffer memory stays in its canonical form (09, Layout): the rows that may write memory keep the form, a step keeps it, and
what a step does to the queue of commands and the clock (00).
-/
namespace Sys2Proof.Machine

/-- `t` is canonical where `s` is: what a row that may write memory keeps. -/
structure StaysCanonical (s t : State) : Prop where
  wf : Memory.wf s.mem = true → Memory.wf t.mem = true

section
variable {s t u : State}

theorem StaysCanonical.trans (h : StaysCanonical s t) (k : StaysCanonical t u) : StaysCanonical s u := ⟨k.wf ∘ h.wf⟩

/-- Memory that is as it was stays canonical. -/
theorem StaysCanonical.of_mem (h : t.mem = s.mem) : StaysCanonical s t := ⟨fun wf => h ▸ wf⟩

/-- Memory that is lost is canonical: every byte reads as the fill. -/
theorem StaysCanonical.of_empty (h : t.mem = []) : StaysCanonical s t := ⟨fun _ => by rw [h]; rfl⟩

/-- Writing pages keeps the canonical form. -/
theorem PagesOnly.staysCanonical (h : PagesOnly s t) : StaysCanonical s t := ⟨h.2⟩

theorem ite_staysCanonical {c : Prop} [Decidable c] (ht : StaysCanonical s t) (hu : StaysCanonical s u) :
    StaysCanonical s (if c then t else u) := by
  split
  · exact ht
  · exact hu

end

/-! ### The rows that may write memory -/

/-- A cold source loses buffer memory, where it was not asserted. -/
theorem State.coldSource_staysCanonical (s : State) (src : ResetSource) (b : Option (Nat × Nat)) : StaysCanonical s (s.coldSource src b) := by
  refine ite_staysCanonical (.of_mem rfl) ?_
  split
  · exact .of_empty rfl
  · exact .of_empty rfl

theorem State.refclkLoss_staysCanonical (s : State) : StaysCanonical s s.refclkLoss :=
  ite_staysCanonical (.of_mem rfl) (.of_empty rfl)

theorem State.scrubGo_staysCanonical (s : State) (d : DieId) : StaysCanonical s (s.scrubGo d) := by
  unfold State.scrubGo
  split
  · exact .of_mem rfl
  · exact ite_staysCanonical (.of_mem (State.finishWith_keeps_mem ..)) (.of_mem rfl)

theorem State.scrubCounts_staysCanonical (s : State) (w : PendingWb) (skip remap : Nat) :
    StaysCanonical s (s.scrubCounts w skip remap) := ite_staysCanonical (.of_mem rfl) (.of_mem rfl)

theorem State.takeSlot_staysCanonical (s : State) (a : PageAddr) : StaysCanonical s (s.takeSlot a) := .of_mem rfl

theorem State.takeM_staysCanonical (s : State) (a : PageAddr) : StaysCanonical s (s.takeM a) := .of_mem rfl

/-- A row that answers only states whose memory is canonical where memory was. -/
def RowStaysCanonical (s : State) (o : Host.Outcome State Fault Refusal) : Prop := ∀ t, o = .next t → StaysCanonical s t

theorem RowStaysCanonical.next {s t : State} (h : StaysCanonical s t) : RowStaysCanonical s (.next t) := by
  rintro _ ⟨⟩
  exact h

theorem RowStaysCanonical.fault (s : State) (f : Fault) : RowStaysCanonical s (.fault f) := by
  rintro _ ⟨⟩

section
variable (s : State)

theorem execWatchdogExpiry_staysCanonical : RowStaysCanonical s (execWatchdogExpiry s) := by
  refine .next (ite_staysCanonical (.of_mem rfl) (ite_staysCanonical (State.coldSource_staysCanonical ..) (.of_mem ?_)))
  exact (State.warmSource_keeps_mem ..).trans (keeps_mem_of (State.blackBox_control ..))

theorem execPackageFault_staysCanonical (f : PkgFault) : RowStaysCanonical s (execPackageFault f s) := by
  refine .next ?_
  split
  · exact State.refclkLoss_staysCanonical s
  · exact State.coldSource_staysCanonical ..

theorem execMemoryReady_staysCanonical : RowStaysCanonical s (execMemoryReady s) := by
  refine .next (ite_staysCanonical (.of_mem rfl) (.of_empty ?_))
  rw [State.tryE4_keeps_mem, keeps_mem_of (State.buildPools_control ..), keeps_mem_of (State.buildPools_control ..)]

theorem execPageRead_staysCanonical (a : PageAddr) (handle : BitVec 32) (actor : Nat) (l : PageLine) (c : Consumer) :
    RowStaysCanonical s (execPageRead a handle actor l c s) := by
  have read : StaysCanonical s ((s.takeSlot a).readPage a l 1 handle actor).2 :=
    (s.takeSlot_staysCanonical a).trans (State.readPage_pages ..).staysCanonical
  have judged := ite_staysCanonical (c := (s.takeSlot a).staleAccess a handle)
    (read.trans (.of_mem (keeps_mem_of (State.logStale_control _ a handle actor)))) read
  unfold execPageRead
  split
  · exact .fault s _
  · exact .next (ite_staysCanonical judged (judged.trans (State.consume_pages ..).staysCanonical))

theorem execPageWrite_staysCanonical (a : PageAddr) (handle : BitVec 32) (actor first : Nat) (beats : List (BitVec 512)) (poison : BitVec 64)
    (l : PageLine) : RowStaysCanonical s (execPageWrite a handle actor first beats poison l s) := by
  have read : StaysCanonical s ((s.takeSlot a).readPage a l 4 handle actor).2 :=
    (s.takeSlot_staysCanonical a).trans (State.readPage_pages ..).staysCanonical
  unfold execPageWrite
  dsimp only
  split
  · exact .fault s _
  · split
    · exact .next (.of_mem (keeps_mem_of (State.logStale_control (s.takeSlot a) a handle actor)))
    · split
      · exact .next ((s.takeSlot_staysCanonical a).trans (State.writePage_pages ..).staysCanonical)
      · exact .next (read.trans (State.writePage_pages ..).staysCanonical)

theorem execWriteBack_staysCanonical (k : Fin 4) (verify : PageLine) : RowStaysCanonical s (execWriteBack k verify s) := by
  refine .next ?_
  split
  · exact .of_mem rfl
  · next w rest _ =>
    have taken : StaysCanonical s ((s.takeM w.addr).modStack k fun x => { x with wbs := rest }) := .of_mem rfl
    refine ite_staysCanonical (.of_mem rfl) (taken.trans (.trans (ite_staysCanonical ?_ ?_) (State.scrubGo_staysCanonical ..)))
    · exact .trans (.of_mem (keeps_mem_of (State.elogPage_control ..))) (State.scrubCounts_staysCanonical ..)
    · exact (State.writeBackPage_pages ..).staysCanonical.trans (State.scrubCounts_staysCanonical ..)

theorem execPatrolScrub_staysCanonical (k : Fin 4) (flips : List Nat) (place : Option PageAddr) :
    RowStaysCanonical s (execPatrolScrub k flips place s) := by
  refine .next (ite_staysCanonical (.of_mem rfl) (ite_staysCanonical (.of_mem rfl) ?_))
  exact (s.takeM_staysCanonical _).trans ((State.scrubPage_pages ..).modStack ..).staysCanonical

theorem execRangeScrubRead_staysCanonical (d : DieId) (flips : List Nat) (place : Option PageAddr) :
    RowStaysCanonical s (execRangeScrubRead d flips place s) := by
  refine .next ?_
  split
  · exact .of_mem rfl
  · refine ite_staysCanonical (.of_mem rfl) (.trans ?_ (State.scrubGo_staysCanonical ..))
    exact ((s.takeM_staysCanonical _).trans (State.scrubPage_pages ..).staysCanonical).trans (.of_mem rfl)

/-- The rows of Instr.writesMemory keep the canonical form. -/
theorem exec_writesMemory_staysCanonical (i : Instr) (hi : i.writesMemory = true) : RowStaysCanonical s (exec i s) := by
  cases i with
  | powerOnReset => exact .next (.of_empty rfl)
  | resetN => exact .next (State.coldSource_staysCanonical ..)
  | supplyReset rail mv =>
    exact .next (ite_staysCanonical (.of_mem rfl) (.trans (.of_mem (State.railReads_keeps_mem ..)) (State.coldSource_staysCanonical ..)))
  | thermalTrip d temp =>
    have heated : StaysCanonical s (s.heat d temp) := .of_mem (State.heat_keeps_mem ..)
    refine .next (ite_staysCanonical (.of_mem rfl) (.trans ?_ (State.coldSource_staysCanonical ..)))
    exact heated.trans (.of_mem rfl)
  | watchdogExpiry => exact execWatchdogExpiry_staysCanonical s
  | packageFault f => exact execPackageFault_staysCanonical s f
  | refclkLoss => exact .next (State.refclkLoss_staysCanonical s)
  | memoryReady => exact execMemoryReady_staysCanonical s
  | pageRead a handle actor l c => exact execPageRead_staysCanonical s a handle actor l c
  | pageWrite a handle actor first beats poison l => exact execPageWrite_staysCanonical s a handle actor first beats poison l
  | writeBack k verify => exact execWriteBack_staysCanonical s k verify
  | patrolScrub k flips place => exact execPatrolScrub_staysCanonical s k flips place
  | rangeScrubRead d flips place => exact execRangeScrubRead_staysCanonical s d flips place
  | _ => cases hi

/-- No row leaves the canonical form. -/
theorem exec_staysCanonical (i : Instr) : RowStaysCanonical s (exec i s) := by
  cases hi : i.writesMemory with
  | true => exact exec_writesMemory_staysCanonical s i hi
  | false => exact fun t h => .of_mem ((exec_keeps_mem s i hi).of_next h)

end

/-! ### A step -/

/-- A step with a command waiting runs it on the state with the queue's rest. -/
theorem step_cons (s : State) (c : Instr) (rest : List Instr) : step { s with pending := c :: rest } = exec c { s with pending := rest } := rfl

/-- A step with nothing waiting lets a cycle pass. -/
theorem step_nil {s : State} (h : s.pending = []) : step s = .next s.tick := by
  unfold step
  rw [h]

/-- A cycle that passes changes of the control state the clock alone. -/
theorem State.tick_control (s : State) : s.tick.control = { s.control with clock := s.clock + 1 } := by
  have waked : ((([0, 1] : List DieId).foldl (fun a d => ([0, 1, 2, 3, 4] : List (Fin 5)).foldl (fun b p => b.wakeDue d p) a) s).grantsGo).control
      = s.control :=
    (State.grantsGo_control _).trans (foldl_control _ (fun a _ => foldl_control _ (fun b _ => State.wakeDue_control ..) _ a) _ s)
  have ticked (u : State) (hu : u.control = s.control) :
      State.control { u with clock := u.clock + 1 } = { s.control with clock := s.clock + 1 } := by
    have hc : u.clock = s.clock := congrArg Control.clock hu
    rw [← hu, ← hc]
    rfl
  unfold State.tick
  split
  · exact ticked _ waked
  · exact ticked s rfl

/-- Where no pool has a wake due, the clock is all that changes. -/
theorem State.tick_of_no_wakes {s : State} (h : ∀ (d : DieId) (p : Fin 5), ((s.dies[d]).pools[p]).due = 0) :
    s.tick = { s with clock := s.clock + 1 } := by
  have none_due : ¬ (s.dies.toList.any fun x => x.pools.toList.any fun q => decide (0 < q.due)) = true := by
    simp only [List.any_eq_true, decide_eq_true_eq, Vector.mem_toList_iff, Vector.mem_iff_getElem]
    rintro ⟨_, ⟨d, hd, rfl⟩, _, ⟨p, hp, rfl⟩, hpos⟩
    exact Nat.lt_irrefl 0 (h ⟨d, hd⟩ ⟨p, hp⟩ ▸ hpos)
  unfold State.tick
  rw [if_neg none_due]

/-- Settles O5: a step runs a row, which keeps the canonical form, or lets a cycle pass, which leaves memory alone. -/
theorem memoryStaysCanonical : Obligations.MemoryStaysCanonical := by
  intro s t wf h
  cases hp : s.pending with
  | nil =>
    rw [step_nil hp] at h
    cases h
    exact (StaysCanonical.of_mem (congrArg Control.mem (State.tick_control s))).wf wf
  | cons c rest =>
    have ran : step s = exec c { s with pending := rest } := by unfold step; rw [hp]
    exact (exec_staysCanonical { s with pending := rest } c t (ran ▸ h)).wf wf

/-- Settles O4: memory is empty at reset. -/
theorem memoryCanonicalAtReset : Obligations.MemoryCanonicalAtReset := rfl

/-- Settles O1: a step by its two cases, and the frame of the queue and the clock over every row. -/
theorem stepRunsFront : Obligations.StepRunsFront := by
  refine ⟨fun c rest s => step_cons s c rest, fun s hp hw => ?_, fun s hp => ?_, fun i s t h => ?_⟩
  · rw [step_nil hp, State.tick_of_no_wakes hw]
  · have ticked := State.tick_control s
    exact ⟨_, step_nil hp, congrArg Control.clock ticked, (congrArg Control.pending ticked).trans hp⟩
  · exact Prod.mk.inj ((exec_keeps_queue s i).of_next h)

end Sys2Proof.Machine
end

section
/-!
PROOFS of what the ledger is trusted for (11, R368; 08, R261; 09, R300): the ledger that a completed write leaves, and which rows move its
anchors.
-/
namespace Sys2Proof.Machine

/-- The page number of a retirement joins its die's list, where it is new and the list has room. -/
def joinRetired (dpn : Nat) (l : List Nat) : List Nat := if l.contains dpn ∨ l.length ≥ 2048 then l else l ++ [dpn]

theorem joinRetired_eq_append (dpn : Nat) (l : List Nat) : ∃ r, joinRetired dpn l = l ++ r := by
  unfold joinRetired
  split
  · exact ⟨[], (List.append_nil l).symm⟩
  · exact ⟨[dpn], rfl⟩

/-- What a completed write leaves of the ledger. -/
def Ledger.written (l : Ledger) (secVer : BitVec 32) : LedgerOp → Ledger
  | .newVolume _ _ => { l with volCnt := l.volCnt + 1, npfx := l.npfx + 1 }
  | .retire d dpn _ => { l with retired := vmod l.retired d (joinRetired dpn) }
  | .confirm _ => l.confirm secVer
  | .stageTrial slot _ => { l with trial := some slot, tstate := .pending }

/-- The ledger once a write has completed. -/
theorem State.ledgerDone_ledger (s : State) (op : LedgerOp) : (s.ledgerDone op).ledger = s.ledger.written s.img.secVer op := by
  cases op with
  | newVolume st w => exact State.volumeNumbered_keeps_ledger ..
  | retire d dpn w => exact (State.finish_keeps_ledger ..).trans (State.retired_ledger ..)
  | confirm w => exact State.ledgerDone_confirm_ledger ..
  | stageTrial slot w => exact State.finish_keeps_ledger ..

theorem Ledger.written_pwrCnt (l : Ledger) (v : BitVec 32) (op : LedgerOp) : (l.written v op).pwrCnt = l.pwrCnt := by
  cases op <;> rfl

/-- A completed write takes no page from the lists of retired pages. -/
theorem Ledger.written_retired (l : Ledger) (v : BitVec 32) (op : LedgerOp) (d : DieId) :
    ∃ r, (l.written v op).retired[d] = l.retired[d] ++ r := by
  cases op with
  | retire e dpn w =>
    show ∃ r, (vmod l.retired e (joinRetired dpn))[d] = _
    rw [vmod_get]
    split
    · exact joinRetired_eq_append ..
    · exact ⟨[], (List.append_nil _).symm⟩
  | newVolume | confirm | stageTrial => exact ⟨[], (List.append_nil _).symm⟩

/-- The ledger once LEDGER_WRITE_DONE has run: as it was with no write in progress, and as the oldest one leaves it. -/
theorem exec_ledgerWriteDone_ledger {s t : State} (h : exec .ledgerWriteDone s = .next t) :
    t.ledger = s.ledger ∨ ∃ op rest, t.ledger = { s.ledger with writing := rest }.written s.img.secVer op := by
  cases hw : s.ledger.writing with
  | nil =>
    rw [exec_ledgerWriteDone_nil hw] at h
    cases h
    exact .inl rfl
  | cons op rest =>
    rw [exec_ledgerWriteDone_cons hw] at h
    cases h
    exact .inr ⟨op, rest, State.ledgerDone_ledger { s with ledger := { s.ledger with writing := rest } } op⟩

/-- No row takes a page from the lists of retired pages. -/
theorem retired_of_exec {i : Instr} {s t : State} (h : exec i s = .next t) (d : DieId) :
    ∃ l, t.ledger.retired[d] = s.ledger.retired[d] ++ l := by
  by_cases hw : i = .ledgerWriteDone
  · subst hw
    obtain same | ⟨op, rest, hl⟩ := exec_ledgerWriteDone_ledger h
    · exact ⟨[], by rw [same, List.append_nil]⟩
    · rw [hl]
      exact Ledger.written_retired ..
  · have same : t.ledger.retired = s.ledger.retired := by
      by_cases hp : i = .powerOnReset
      · subst hp
        cases h
        rfl
      · exact congrArg Anchors.retired ((exec_keeps_anchors s i hw hp).of_next h)
    exact ⟨[], by rw [same, List.append_nil]⟩

/-- All but the power-on count changes with LEDGER_WRITE_DONE alone. -/
theorem anchors_of_exec {i : Instr} {s t : State} (hi : i ≠ .ledgerWriteDone) (h : exec i s = .next t) :
    { t.anchors with pwrCnt := s.ledger.pwrCnt } = s.anchors := by
  by_cases hp : i = .powerOnReset
  · subst hp
    cases h
    rfl
  · rw [(exec_keeps_anchors s i hi hp).of_next h]
    rfl

/-- The power-on count changes with POWER_ON_RESET alone. -/
theorem pwrCnt_of_exec {i : Instr} {s t : State} (hi : i ≠ .powerOnReset) (h : exec i s = .next t) : t.ledger.pwrCnt = s.ledger.pwrCnt := by
  by_cases hw : i = .ledgerWriteDone
  · subst hw
    obtain same | ⟨op, rest, hl⟩ := exec_ledgerWriteDone_ledger h
    · rw [same]
    · rw [hl, Ledger.written_pwrCnt]
  · exact congrArg Anchors.pwrCnt ((exec_keeps_anchors s i hw hi).of_next h)

/-- Settles O9: LEDGER_WRITE_DONE and POWER_ON_RESET are the rows that do not keep the anchors, and what each leaves is known. -/
theorem ledgerAnchored : Obligations.LedgerAnchored := fun i s _ h =>
  ⟨floor_le_of_exec h, retired_of_exec h, fun hi => anchors_of_exec hi h, fun hi => pwrCnt_of_exec hi h,
    fun hi => (exec_keeps_ledger s i hi).of_next h⟩

end Sys2Proof.Machine
end

section
/-!
PROOFS about every command: which of them fault (09, Layout), and what State.reset holds (12, 13, 14).
-/
namespace Sys2Proof.Machine

/-! ### Faults -/

/-- A command that reads or writes a page that Table 9.1 does not have. -/
def AtAbsentPage (i : Instr) : Prop :=
  (∃ a h n o c, i = .pageRead a h n o c ∧ ¬ a.frame < regionPages a.region) ∨
  (∃ a h n k b p o, i = .pageWrite a h n k b p o ∧ ¬ a.frame < regionPages a.region)

theorem PageAddr.exists_eq (a : PageAddr) : a.exists = decide (a.frame < regionPages a.region) := rfl

theorem exec_pageRead_absent {a : PageAddr} (ha : ¬ a.frame < regionPages a.region) (s : State) (h : BitVec 32) (n : Nat) (o : PageLine)
    (c : Consumer) : exec (.pageRead a h n o c) s = .fault .noSuchPage := by
  show execPageRead a h n o c s = _
  unfold execPageRead
  rw [PageAddr.exists_eq, if_pos (by simp only [ha, decide_false, Bool.not_false])]

theorem exec_pageWrite_absent {a : PageAddr} (ha : ¬ a.frame < regionPages a.region) (s : State) (h : BitVec 32) (n k : Nat)
    (b : List (BitVec 512)) (p : BitVec 64) (o : PageLine) : exec (.pageWrite a h n k b p o) s = .fault .noSuchPage := by
  show execPageWrite a h n k b p o s = _
  unfold execPageWrite
  dsimp only
  rw [PageAddr.exists_eq, if_pos (by simp only [ha, decide_false, Bool.not_false])]

theorem exec_pageRead_next {a : PageAddr} (ha : a.frame < regionPages a.region) (s : State) (h : BitVec 32) (n : Nat) (o : PageLine)
    (c : Consumer) : ∃ t, exec (.pageRead a h n o c) s = .next t := by
  show ∃ t, execPageRead a h n o c s = _
  unfold execPageRead
  rw [PageAddr.exists_eq, if_neg (by simp only [ha, decide_true, Bool.not_true, Bool.false_eq_true, not_false_eq_true])]
  exact ⟨_, rfl⟩

theorem exec_pageWrite_next {a : PageAddr} (ha : a.frame < regionPages a.region) (s : State) (h : BitVec 32) (n k : Nat)
    (b : List (BitVec 512)) (p : BitVec 64) (o : PageLine) : ∃ t, exec (.pageWrite a h n k b p o) s = .next t := by
  show ∃ t, execPageWrite a h n k b p o s = _
  unfold execPageWrite
  dsimp only
  rw [PageAddr.exists_eq, if_neg (by simp only [ha, decide_true, Bool.not_true, Bool.false_eq_true, not_false_eq_true])]
  split
  · exact ⟨_, rfl⟩
  · split <;> exact ⟨_, rfl⟩

/-- A command faults at an absent page, and otherwise answers a next state. -/
theorem exec_answers (i : Instr) (s : State) :
    (AtAbsentPage i ∧ exec i s = .fault .noSuchPage) ∨ (¬ AtAbsentPage i ∧ ∃ t, exec i s = .next t) := by
  cases i with
  | pageRead a h n o c =>
    by_cases ha : a.frame < regionPages a.region
    · exact .inr ⟨by rintro (⟨_, _, _, _, _, ⟨⟩, hb⟩ | ⟨_, _, _, _, _, _, _, ⟨⟩, _⟩); exact hb ha, exec_pageRead_next ha ..⟩
    · exact .inl ⟨.inl ⟨a, h, n, o, c, rfl, ha⟩, exec_pageRead_absent ha ..⟩
  | pageWrite a h n k b p o =>
    by_cases ha : a.frame < regionPages a.region
    · exact .inr ⟨by rintro (⟨_, _, _, _, _, ⟨⟩, _⟩ | ⟨_, _, _, _, _, _, _, ⟨⟩, hb⟩); exact hb ha, exec_pageWrite_next ha ..⟩
    · exact .inl ⟨.inr ⟨a, h, n, k, b, p, o, rfl, ha⟩, exec_pageWrite_absent ha ..⟩
  | _ => exact .inr ⟨by rintro (⟨_, _, _, _, _, ⟨⟩, _⟩ | ⟨_, _, _, _, _, _, _, ⟨⟩, _⟩), _, rfl⟩

/-- Settles O2: a command faults at an absent page alone, and nothing is refused. -/
theorem onlyAbsentPagesFault : Obligations.OnlyAbsentPagesFault := by
  refine ⟨fun i s r hr => ?_, fun i s f => ⟨fun hf => ?_, ?_⟩, fun i s ⟨hr, hw⟩ => ?_⟩
  · obtain ⟨-, h⟩ | ⟨-, t, h⟩ := exec_answers i s <;> rw [h] at hr <;> cases hr
  · obtain ⟨ha, h⟩ | ⟨-, t, h⟩ := exec_answers i s
    · rw [h] at hf
      cases hf
      exact ⟨rfl, ha⟩
    · rw [h] at hf
      cases hf
  · rintro ⟨rfl, ha⟩
    obtain ⟨-, h⟩ | ⟨hn, -⟩ := exec_answers i s
    · exact h
    · exact absurd ha hn
  · obtain ⟨⟨a, h, n, o, c, hi, hb⟩ | ⟨a, h, n, k, b, p, o, hi, hb⟩, -⟩ | ⟨-, h⟩ := exec_answers i s
    · exact absurd (hr a h n o c hi) hb
    · exact absurd (hw a h n k b p o hi) hb
    · exact h

/-! ### The state after reset -/

theorem State.reset_stns (st : Stn) : State.reset.stns[st] = Station.reset := Vector.getElem_replicate ..

theorem State.reset_ports (p : Port) : State.reset.ports[p] = HostPort.reset := Vector.getElem_replicate ..

theorem State.reset_dies (d : DieId) : State.reset.dies[d] = Die.reset := Vector.getElem_replicate ..

theorem Link.reset_lanes (n : Lane) : Link.reset.lanes[n] = LaneRx.reset := Vector.getElem_replicate ..

theorem Die.reset_monitors (n : Fin 64) : Die.reset.monitors[n] = MonSlot.reset := Vector.getElem_replicate ..

/-- Settles O3: the fields of State.reset are written out, and an element of a vector of equal elements is that element. -/
theorem resetValues : Obligations.ResetValues := by
  unfold Obligations.ResetValues
  refine ⟨rfl, rfl, rfl, rfl, rfl, rfl, rfl, rfl, rfl, rfl, rfl, rfl, rfl, rfl, rfl, rfl, rfl, rfl, rfl, rfl, rfl, rfl, rfl,
    fun st => ?_, fun p => ?_, fun d => ?_⟩
  · rw [State.reset_stns]
    exact ⟨rfl, rfl, rfl, rfl, rfl, rfl, rfl, rfl, rfl, rfl, rfl, rfl, rfl, rfl, rfl, rfl, rfl, rfl,
      fun n => congrArg LaneRx.up (Link.reset_lanes n)⟩
  · rw [State.reset_ports]
    exact ⟨rfl, rfl, rfl, rfl, rfl, rfl, rfl, rfl, rfl, rfl, rfl, rfl, rfl, rfl, rfl, rfl⟩
  · rw [State.reset_dies]
    exact ⟨Die.reset_monitors, rfl, rfl, rfl⟩

end Sys2Proof.Machine
end

section
/-!
PROOFS of the event registers (13, R414 to R416; 14, R439): W1C writes of EVT_STAT, writes of a mask or routing word, and the unmasking of a
vector. Each changes words of one port and then sends messages from it.
-/
namespace Sys2Proof.Machine

/-- `t` is `s` with the registers of port `p` written as in `h`, and the messages of the sources in `l` sent as they let them through: sent at once,
or left pending on a masked vector. -/
structure Rewrote (s t : State) (p : Port) (h : HostPort) (l : List Nat) : Prop where
  port : t.ports[p] = { h with msixPend := (t.ports[p]).msixPend }
  only : OnlyPort s t p
  sends : ∀ n ∈ l, ∀ x < 64, h.mask.getLsbD n = false → h.vecOf n = some x → h.linkUp = true → h.msixEn = true →
    if h.msixMask.getLsbD x then (t.ports[p]).msixPend.getLsbD x = true else .msix p x ∈ t.out

/-- A register access that changes its port and then sends messages. -/
theorem State.rewrote (s : State) (p : Port) (f : HostPort → HostPort) (l : List Nat) :
    Rewrote s (((s.modPort p fun h => { h with l1 := false }).modPort p f).sendEvents p l) p (f { s.ports[p] with l1 := false }) l := by
  have written : (((s.modPort p fun h => { h with l1 := false }).modPort p f).ports[p]) = f { s.ports[p] with l1 := false } := by
    simp only [State.modPort_ports, vmod_get_self]
  obtain ⟨m, o, sent⟩ := State.sendEvents_frame l ((s.modPort p fun h => { h with l1 := false }).modPort p f) p
  refine ⟨?_, ?_, fun n hn x hx hm hv hl he => ?_⟩
  · rw [sent]
    simp only [State.modPort_ports, vmod_get_self]
  · rw [sent]
    refine ⟨rfl, fun q hq => ?_⟩
    show (vmod (vmod (vmod s.ports p _) p f) p _)[q] = _
    rw [vmod_others _ _ _ q hq, vmod_others _ _ _ q hq, vmod_others _ _ _ q hq]
  · have sends := sent_all l ((s.modPort p fun h => { h with l1 := false }).modPort p f) p n x hn hx
    rw [written] at sends
    exact sends hm hv hl he

/-- The source n is among those of word w whose bit is set in v. -/
theorem mem_wordSources {w n : Nat} {v : BitVec 32} (hw : n / 32 = w) (hv : v.getLsbD (n % 32) = true) : n ∈ wordSources w v := by
  unfold wordSources
  simp only [List.mem_map, List.mem_filter, List.mem_range]
  exact ⟨n % 32, ⟨Nat.mod_lt _ (by decide), hv⟩, by omega⟩

/-- A bit of word w of a register. -/
theorem getLsbD_extractWord {m : Nat} (x : BitVec m) {w n : Nat} (hw : n / 32 = w) :
    (x.extractLsb' (32 * w) 32).getLsbD (n % 32) = x.getLsbD n := by
  rw [BitVec.getLsbD_extractLsb', decide_eq_true (Nat.mod_lt n (by decide)), Bool.true_and, show 32 * w + n % 32 = n by omega]

section
variable {p : Port} {s : State}

/-! ### EVT_STAT (R415) -/

theorem exec_evtStatClear_of_regAnswers {w : Fin 8} {v raised : BitVec 32} (ha : s.regAnswers p (0x200 + 4 * w.val) = true) :
    ∃ t, exec (.evtStatClear p w v raised) s = .next t ∧ Rewrote s t p
      { s.ports[p] with l1 := false, stat := putWord (s.ports[p]).stat w.val ((s.ports[p]).stat.extractLsb' (32 * w.val) 32 &&& ~~~(v &&& ~~~raised)) }
      (wordSources w.val ((s.ports[p]).stat.extractLsb' (32 * w.val) 32 &&& v &&& raised)) := by
  have written := State.rewrote s p
    (fun h => { h with stat := putWord h.stat w.val ((s.ports[p]).stat.extractLsb' (32 * w.val) 32 &&& ~~~(v &&& ~~~raised)) })
  refine ⟨_, ?_, written _⟩
  show execEvtStatClear p w v raised s = _
  unfold execEvtStatClear
  rw [State.regAccess_answers s p _ _ ha]
  simp only [State.modPort_ports, vmod_get_self]

/-- What a W1C write leaves of a status bit. -/
theorem getLsbD_cleared (x : BitVec 256) (w : Nat) (v raised : BitVec 32) {n : Nat} (hn : n < 256) :
    (putWord x w (x.extractLsb' (32 * w) 32 &&& ~~~(v &&& ~~~raised))).getLsbD n =
      if n / 32 = w ∧ v.getLsbD (n % 32) = true ∧ raised.getLsbD (n % 32) = false then false else x.getLsbD n := by
  have h32 : n % 32 < 32 := Nat.mod_lt _ (by decide)
  rw [putWord_bit _ _ _ _ hn]
  by_cases hw : n / 32 = w
  · simp only [hw, if_true, true_and, BitVec.getLsbD_and, BitVec.getLsbD_not, getLsbD_extractWord x hw, h32, decide_true, Bool.true_and]
    cases v.getLsbD (n % 32) <;> cases raised.getLsbD (n % 32) <;> simp
  · rw [if_neg hw, if_neg (fun h => hw h.1)]

/-! ### The mask words (R414, R416) -/

/-- The masks after a write of a word: those of sources 198 and 214 stay clear. -/
def writtenMask (m : BitVec 256) (w : Nat) (v : BitVec 32) : BitVec 256 :=
  putWord m w v &&& ~~~(BitVec.twoPow 256 198 ||| BitVec.twoPow 256 214)

theorem getLsbD_writtenMask (m : BitVec 256) (w : Nat) (v : BitVec 32) {n : Nat} (hn : n < 256) :
    (writtenMask m w v).getLsbD n = ((if n / 32 = w then v.getLsbD (n % 32) else m.getLsbD n) && n != 198 && n != 214) := by
  have h198 : (n != 198) = !decide (198 = n) := by rw [bne, Bool.beq_eq_decide_eq, decide_eq_decide.mpr eq_comm]
  have h214 : (n != 214) = !decide (214 = n) := by rw [bne, Bool.beq_eq_decide_eq, decide_eq_decide.mpr eq_comm]
  unfold writtenMask
  rw [BitVec.getLsbD_and, putWord_bit _ _ _ _ hn, BitVec.getLsbD_not, BitVec.getLsbD_or, BitVec.getLsbD_twoPow, BitVec.getLsbD_twoPow, h198, h214]
  simp [hn, Bool.and_assoc]

theorem exec_evtMaskWrite_of_regAnswers {w : Fin 8} {v : BitVec 32} (ha : s.regAnswers p (0x220 + 4 * w.val) = true) :
    ∃ t, exec (.evtMaskWrite p w v) s = .next t ∧ Rewrote s t p { s.ports[p] with l1 := false, mask := writtenMask (s.ports[p]).mask w.val v }
      (wordSources w.val ((s.ports[p]).mask.extractLsb' (32 * w.val) 32 &&& ~~~v &&& (s.ports[p]).stat.extractLsb' (32 * w.val) 32)) := by
  refine ⟨_, ?_, State.rewrote s p (fun h => { h with mask := writtenMask h.mask w.val v }) _⟩
  show execEvtMaskWrite p w v s = _
  unfold execEvtMaskWrite
  rw [State.regAccess_answers s p _ _ ha]
  simp only [State.modPort_ports, vmod_get_self]
  rfl

/-! ### The routing words (R414, R439) -/

theorem exec_evtRouteWrite_of_regAnswers {w : Fin 64} {v : BitVec 32} (ha : s.regAnswers p (0x240 + 4 * w.val) = true) :
    ∃ t, exec (.evtRouteWrite p w v) s = .next t ∧ Rewrote s t p { s.ports[p] with l1 := false, route := s.routeWord p w v }
      (((List.range 4).map (4 * w.val + ·)).filter fun n => (s.ports[p]).stat.getLsbD n && ((s.ports[p]).vecOf n).isNone) := by
  have same : (s.modPort p fun h => { h with l1 := false }).routeWord p w v = s.routeWord p w v := by
    unfold State.routeWord State.routeByte
    simp only [State.modPort_ports, vmod_get_self]
    rfl
  refine ⟨_, ?_, State.rewrote s p (fun h => { h with route := s.routeWord p w v }) _⟩
  show execEvtRouteWrite p w v s = _
  unfold execEvtRouteWrite
  rw [State.regAccess_answers s p _ _ ha]
  simp only [State.modPort_ports, vmod_get_self, same]
  rfl

/-- A routing byte after a write of its word. -/
theorem State.routeWord_getElem (s : State) (p : Port) (w : Fin 64) (v : BitVec 32) (i : Fin 256) :
    (s.routeWord p w v)[i] = if i.val / 4 = w.val ∧ (v.extractLsb' (8 * (i.val % 4)) 8 = 0xFF ∨
      (v.extractLsb' (8 * (i.val % 4)) 8).toNat < s.img.nvec p.val) then v.extractLsb' (8 * (i.val % 4)) 8 else (s.ports[p]).route[i] := by
  show (Vector.ofFn _)[i.val] = _
  rw [Vector.getElem_ofFn]
  by_cases hi : i.val / 4 = w.val
  · rw [if_pos hi, State.routeByte]
    simp only [hi, true_and]
  · rw [if_neg hi, if_neg fun h => hi h.1]

/-! ### The MSI-X table (R415) -/

/-- A port whose MSI-X table no longer masks a vector. -/
def HostPort.unmasked (h : HostPort) (v : Fin 64) : HostPort :=
  { h with msixMask := h.msixMask &&& ~~~ BitVec.twoPow 64 v.val, msixPend := h.msixPend &&& ~~~ BitVec.twoPow 64 v.val }

/-- A bit of a word whose bit v is cleared. -/
theorem getLsbD_clearBit (x : BitVec 64) (v : Nat) {n : Nat} (hn : n < 64) :
    (x &&& ~~~ BitVec.twoPow 64 v).getLsbD n = (x.getLsbD n && n != v) := by
  have hb : (n != v) = !decide (v = n) := by rw [bne, Bool.beq_eq_decide_eq, decide_eq_decide.mpr eq_comm]
  rw [BitVec.getLsbD_and, BitVec.getLsbD_not, BitVec.getLsbD_twoPow, hb]
  cases hv : decide (v = n) with
  | true => simp [hn, of_decide_eq_true hv]
  | false => simp [hn]

/-- A message on an unmasked vector leaves at once, where the link is up and MSI-X enabled. -/
theorem State.msix_of_unmasked {v : Nat} (hm : (s.ports[p]).msixMask.getLsbD v = false) :
    s.msix p v = { s with out := (if (s.ports[p]).linkUp && (s.ports[p]).msixEn then [.msix p v] else []) ++ s.out } := by
  unfold State.msix
  dsimp only
  rw [hm]
  cases (s.ports[p]).linkUp <;> cases (s.ports[p]).msixEn <;> rfl

theorem exec_msixVectorUnmask (p : Port) (v : Fin 64) (s : State) :
    exec (.msixVectorUnmask p v) s = .next { s.modPort p (·.unmasked v) with
      out := (if (s.ports[p]).msixPend.getLsbD v.val && (s.ports[p]).linkUp && (s.ports[p]).msixEn then [.msix p v.val] else []) ++ s.out } := by
  have clear : (((s.modPort p (·.unmasked v)).ports[p]).msixMask).getLsbD v.val = false := by
    rw [State.modPort_ports, vmod_get_self, HostPort.unmasked, getLsbD_clearBit _ _ v.isLt, bne_self_eq_false, Bool.and_false]
  show Host.Outcome.next (if (s.ports[p]).msixPend.getLsbD v.val then (s.modPort p (·.unmasked v)).msix p v.val else s.modPort p (·.unmasked v)) = _
  rw [State.msix_of_unmasked clear]
  cases (s.ports[p]).msixPend.getLsbD v.val with
  | true => simp only [if_true, Bool.true_and, State.modPort_ports, vmod_get_self]; rfl
  | false => rfl

end

/-! ### The obligation -/

/-- What a W1C write of EVT_STAT leaves and sends (R415). -/
theorem evtStatClear_spec (p : Port) (w : Fin 8) (v raised : BitVec 32) (s : State) (ha : s.regAnswers p (0x200 + 4 * w.val) = true) :
    ∃ t, exec (.evtStatClear p w v raised) s = .next t ∧
      (∀ n < 256, (t.ports[p]).stat.getLsbD n =
        if n / 32 = w.val ∧ v.getLsbD (n % 32) = true ∧ raised.getLsbD (n % 32) = false then false else (s.ports[p]).stat.getLsbD n) ∧
      (∀ n < 256, ∀ x < 64, n / 32 = w.val → v.getLsbD (n % 32) = true → raised.getLsbD (n % 32) = true → (s.ports[p]).stat.getLsbD n = true →
        (s.ports[p]).mask.getLsbD n = false → (s.ports[p]).vecOf n = some x → (s.ports[p]).linkUp = true → (s.ports[p]).msixEn = true →
        if (s.ports[p]).msixMask.getLsbD x then (t.ports[p]).msixPend.getLsbD x = true else .msix p x ∈ t.out) ∧
      t.ports[p] = { s.ports[p] with l1 := false, stat := (t.ports[p]).stat, msixPend := (t.ports[p]).msixPend } ∧ OnlyPort s t p := by
  obtain ⟨t, run, port, only, sends⟩ := exec_evtStatClear_of_regAnswers (v := v) (raised := raised) ha
  refine ⟨t, run, fun n hn => ?_, fun n hn x hx hw hv hr hs hm hvec hl he => ?_, by rw [port], only⟩
  · rw [port]
    exact getLsbD_cleared _ _ _ _ hn
  · have chosen : ((s.ports[p]).stat.extractLsb' (32 * w.val) 32 &&& v &&& raised).getLsbD (n % 32) = true := by
      simp only [BitVec.getLsbD_and, getLsbD_extractWord _ hw, hv, hr, hs, Bool.and_self]
    exact sends n (mem_wordSources hw chosen) x hx hm hvec hl he

/-- What a write of a mask word leaves and sends (R414, R416). -/
theorem evtMaskWrite_spec (p : Port) (w : Fin 8) (v : BitVec 32) (s : State) (ha : s.regAnswers p (0x220 + 4 * w.val) = true) :
    ∃ t, exec (.evtMaskWrite p w v) s = .next t ∧
      (∀ n < 256, (t.ports[p]).mask.getLsbD n =
        ((if n / 32 = w.val then v.getLsbD (n % 32) else (s.ports[p]).mask.getLsbD n) && n != 198 && n != 214)) ∧
      (∀ n < 256, ∀ x < 64, n / 32 = w.val → (s.ports[p]).mask.getLsbD n = true → v.getLsbD (n % 32) = false →
        (s.ports[p]).stat.getLsbD n = true → (s.ports[p]).vecOf n = some x → (s.ports[p]).linkUp = true → (s.ports[p]).msixEn = true →
        if (s.ports[p]).msixMask.getLsbD x then (t.ports[p]).msixPend.getLsbD x = true else .msix p x ∈ t.out) ∧
      t.ports[p] = { s.ports[p] with l1 := false, mask := (t.ports[p]).mask, msixPend := (t.ports[p]).msixPend } ∧ OnlyPort s t p := by
  obtain ⟨t, run, port, only, sends⟩ := exec_evtMaskWrite_of_regAnswers (v := v) ha
  refine ⟨t, run, fun n hn => ?_, fun n hn x hx hw hm hv hs hvec hl he => ?_, by rw [port], only⟩
  · rw [port]
    exact getLsbD_writtenMask _ _ _ hn
  · have h32 : n % 32 < 32 := Nat.mod_lt _ (by decide)
    have chosen : ((s.ports[p]).mask.extractLsb' (32 * w.val) 32 &&& ~~~v &&& (s.ports[p]).stat.extractLsb' (32 * w.val) 32).getLsbD (n % 32) = true := by
      simp only [BitVec.getLsbD_and, BitVec.getLsbD_not, getLsbD_extractWord _ hw, hm, hv, hs, h32, decide_true, Bool.not_false, Bool.and_self]
    have unmasked : (writtenMask (s.ports[p]).mask w.val v).getLsbD n = false := by
      rw [getLsbD_writtenMask _ _ _ hn, if_pos hw, hv, Bool.false_and, Bool.false_and]
    exact sends n (mem_wordSources hw chosen) x hx unmasked hvec hl he

/-- What a write of a routing word leaves and sends (R414, R439). -/
theorem evtRouteWrite_spec (p : Port) (w : Fin 64) (v : BitVec 32) (s : State) (ha : s.regAnswers p (0x240 + 4 * w.val) = true) :
    ∃ t, exec (.evtRouteWrite p w v) s = .next t ∧
      (∀ i : Fin 256, (t.ports[p]).route[i] =
        let b := v.extractLsb' (8 * (i.val % 4)) 8
        if i.val / 4 = w.val ∧ (b = 0xFF ∨ b.toNat < s.img.nvec p.val) then b else (s.ports[p]).route[i]) ∧
      (∀ n < 256, ∀ x < 64, n / 4 = w.val → (s.ports[p]).stat.getLsbD n = true → (s.ports[p]).mask.getLsbD n = false →
        (s.ports[p]).vecOf n = none → (t.ports[p]).vecOf n = some x → (s.ports[p]).linkUp = true → (s.ports[p]).msixEn = true →
        if (s.ports[p]).msixMask.getLsbD x then (t.ports[p]).msixPend.getLsbD x = true else .msix p x ∈ t.out) ∧
      t.ports[p] = { s.ports[p] with l1 := false, route := (t.ports[p]).route, msixPend := (t.ports[p]).msixPend } ∧ OnlyPort s t p := by
  obtain ⟨t, run, port, only, sends⟩ := exec_evtRouteWrite_of_regAnswers (v := v) ha
  refine ⟨t, run, fun i => ?_, fun n hn x hx hw hs hm hnone hvec hl he => ?_, by rw [port], only⟩
  · rw [port]
    exact State.routeWord_getElem s p w v i
  · have listed : n ∈ ((List.range 4).map (4 * w.val + ·)).filter fun n => (s.ports[p]).stat.getLsbD n && ((s.ports[p]).vecOf n).isNone := by
      simp only [List.mem_filter, List.mem_map, List.mem_range, hs, hnone, Option.isNone_none, Bool.and_self, and_true]
      exact ⟨n % 4, Nat.mod_lt _ (by decide), by omega⟩
    rw [port] at hvec
    exact sends n listed x hx hm hvec hl he

/-- What the unmasking of a vector leaves and sends (R415). -/
theorem msixVectorUnmask_spec (p : Port) (v : Fin 64) (s : State) :
    ∃ t, exec (.msixVectorUnmask p v) s = .next t ∧
      t.ports[p] = { s.ports[p] with msixMask := (t.ports[p]).msixMask, msixPend := (t.ports[p]).msixPend } ∧
      (∀ n < 64, (t.ports[p]).msixMask.getLsbD n = ((s.ports[p]).msixMask.getLsbD n && n != v.val) ∧
        (t.ports[p]).msixPend.getLsbD n = ((s.ports[p]).msixPend.getLsbD n && n != v.val)) ∧
      t.out = (if (s.ports[p]).msixPend.getLsbD v.val && (s.ports[p]).linkUp && (s.ports[p]).msixEn then [.msix p v.val] else []) ++ s.out ∧
      OnlyPort s t p := by
  have port : (s.modPort p (·.unmasked v)).ports[p] = (s.ports[p]).unmasked v := by rw [State.modPort_ports, vmod_get_self]
  refine ⟨_, exec_msixVectorUnmask p v s, ?_, fun n hn => ?_, rfl, rfl, vmod_others s.ports p _⟩
  · simp only [port]
    rfl
  · simp only [port]
    exact ⟨getLsbD_clearBit _ _ hn, getLsbD_clearBit _ _ hn⟩

/-- Settles O11: each of the four rows rewrites words of one port and sends the messages of the sources that this lets through. -/
theorem eventRegisters : Obligations.EventRegisters :=
  ⟨⟨evtStatClear_spec, msixVectorUnmask_spec⟩, evtMaskWrite_spec, evtRouteWrite_spec⟩

end Sys2Proof.Machine
end

section
/-!
PROOFS of the trace data register (13, R425, R428): what a read of TRC_DATA pops, corrects or drops.
-/
namespace Sys2Proof.Machine

/-! ### The access -/

/-- Whether a register answers rests on the stage of the reset and the port's link alone. -/
theorem State.regAnswers_congr {s t : State} {p : Port} {ofs : Nat} (hr : t.rst = s.rst) (hl : (t.ports[p]).linkUp = (s.ports[p]).linkUp) :
    t.regAnswers p ofs = s.regAnswers p ofs := by
  unfold State.regAnswers
  rw [hr, hl]

/-- A read that its register answers and that keeps the register answering is all that the access does. -/
theorem State.readAccess_answers {s t : State} {p : Port} {ofs : Nat} {f : State → State} (ha : s.regAnswers p ofs = true)
    (ht : f (s.modPort p fun h => { h with l1 := false }) = t) (hr : t.rst = s.rst) (hl : (t.ports[p]).linkUp = (s.ports[p]).linkUp) :
    (if (s.regAccess p ofs f).regAnswers p ofs || !((s.regAccess p ofs f).ports[p]).linkUp then s.regAccess p ofs f else
      (s.regAccess p ofs f).answerRead p 0) = t := by
  rw [State.regAccess_answers s p ofs f ha, ht, State.regAnswers_congr hr hl, ha, Bool.true_or]
  rfl

/-! ### The pop -/

section
variable {s : State} {p : Port} {d : DieId} {q : Fin 4} {flips : BitVec 73}

theorem State.popTrace_nil (h : ((s.dies[d]).trace[q]).words = []) :
    s.popTrace p d q flips = (((s.dies[d]).trace[q]).lastWord,
      s.modPort p fun x => { x with underrun := x.underrun ||| BitVec.twoPow 8 (4 * d.val + q.val) }) := by
  unfold State.popTrace
  simp only [h]

/-- A queue whose head word has been read out as `v`. -/
def TraceQ.popped (t : TraceQ) (r : List TWord) (v : BitVec 64) (e c : Bool) : TraceQ :=
  { t with words := r, frag := !e, lastWord := v, lastEnd := e, lastCorr := c, corr := if c then satInc t.corr else t.corr }

theorem State.popTrace_cons_some {w : TWord} {r : List TWord} {v : BitVec 64} {e c : Bool} (h : ((s.dies[d]).trace[q]).words = w :: r)
    (hs : secdedRead (w.data ^^^ flips.extractLsb' 0 64) (w.last ^^ flips.getLsbD 64) (w.check ^^^ flips.extractLsb' 65 8) = some (v, e, c)) :
    s.popTrace p d q flips = (v, s.modDie d fun x => x.modTrace q fun _ => ((s.dies[d]).trace[q]).popped r v e c) := by
  unfold State.popTrace
  simp only [h, hs]
  refine congrArg (Prod.mk v) ?_
  unfold State.modDie Die.modTrace vmod TraceQ.popped
  simp only [h, TraceQ.dropHead, List.drop_succ_cons, List.drop_zero]

theorem State.popTrace_cons_none {w : TWord} {r : List TWord} (h : ((s.dies[d]).trace[q]).words = w :: r)
    (hs : secdedRead (w.data ^^^ flips.extractLsb' 0 64) (w.last ^^ flips.getLsbD 64) (w.check ^^^ flips.extractLsb' 65 8) = none) :
    s.popTrace p d q flips = (BitVec.ofNat 64 ((s.dropWord d q).draw).1, ((s.dropWord d q).draw).2) := by
  unfold State.popTrace
  simp only [h, hs]

/-- A word dropped as uncorrectable: UNC and LOST count it, and the queue's event is raised. -/
theorem State.dropWord_cons {w : TWord} {r : List TWord} (h : ((s.dies[d]).trace[q]).words = w :: r) :
    s.dropWord d q = (s.modDie d fun x => x.modTrace q fun _ =>
      { ((s.dies[d]).trace[q]) with words := r, frag := !w.last, lost := satInc ((s.dies[d]).trace[q]).lost,
                                    unc := satInc ((s.dies[d]).trace[q]).unc }).raise (242 + 8 * d.val) := by
  unfold State.dropWord
  refine congrArg (fun x => State.raise x _) ?_
  unfold State.modDie Die.modTrace vmod
  simp only [TraceQ.dropHead, h]

end

theorem EventsOnly.rst {s t : State} (h : EventsOnly s t) : t.rst = s.rst := by
  rw [h.1]

theorem EventsOnly.linkUp {s t : State} (h : EventsOnly s t) (p : Port) : (t.ports[p]).linkUp = (s.ports[p]).linkUp := by
  rw [h.2.1 p]

theorem State.dropWord_rst (s : State) (d : DieId) (q : Fin 4) : (s.dropWord d q).rst = s.rst := by
  unfold State.dropWord
  rw [(State.raise_events _ _ _).rst]
  rfl

theorem State.dropWord_linkUp (s : State) (d : DieId) (q : Fin 4) (p : Port) : ((s.dropWord d q).ports[p]).linkUp = (s.ports[p]).linkUp := by
  unfold State.dropWord
  rw [(State.raise_events _ _ _).linkUp p]
  rfl

/-! ### The obligation -/

section
variable {s : State} {p : Port} {flips : BitVec 73}

theorem linkUp_awake (s : State) (p : Port) : ((s.modPort p fun h => { h with l1 := false }).ports[p]).linkUp = (s.ports[p]).linkUp := by
  rw [State.modPort_ports, vmod_get_self]

theorem exec_trcDataRead_whole_nil (ha : s.regAnswers p 0x818 = true)
    (h : ((s.dies[(s.ports[p]).traceSel.1]).trace[(s.ports[p]).traceSel.2]).words = []) :
    exec (.trcDataRead p .whole flips) s = .next ((s.modPort p fun h =>
      { h with l1 := false, underrun := h.underrun ||| BitVec.twoPow 8 (4 * (s.ports[p]).traceSel.1.val + (s.ports[p]).traceSel.2.val) }).emit
        (.value p ((s.dies[(s.ports[p]).traceSel.1]).trace[(s.ports[p]).traceSel.2]).lastWord)) := by
  refine congrArg Host.Outcome.next (State.readAccess_answers ha ?_ ?_ ?_)
  · dsimp only
    rw [State.traceSel_awake, State.popTrace_nil (s := s.modPort p fun h => { h with l1 := false }) h]
    simp only [State.modPort, vmod_vmod]
    rfl
  · rfl
  · show ((State.modPort s p _).ports[p]).linkUp = _
    rw [State.modPort_ports, vmod_get_self]

theorem exec_trcDataRead_whole_some {w : TWord} {r : List TWord} {v : BitVec 64} {e c : Bool} (ha : s.regAnswers p 0x818 = true)
    (h : ((s.dies[(s.ports[p]).traceSel.1]).trace[(s.ports[p]).traceSel.2]).words = w :: r)
    (hs : secdedRead (w.data ^^^ flips.extractLsb' 0 64) (w.last ^^ flips.getLsbD 64) (w.check ^^^ flips.extractLsb' 65 8) = some (v, e, c)) :
    exec (.trcDataRead p .whole flips) s = .next (((s.modPort p fun h => { h with l1 := false }).modDie (s.ports[p]).traceSel.1 fun d =>
      d.modTrace (s.ports[p]).traceSel.2 fun _ =>
        ((s.dies[(s.ports[p]).traceSel.1]).trace[(s.ports[p]).traceSel.2]).popped r v e c).emit (.value p v)) := by
  refine congrArg Host.Outcome.next (State.readAccess_answers ha ?_ ?_ ?_)
  · dsimp only
    rw [State.traceSel_awake, State.popTrace_cons_some (s := s.modPort p fun h => { h with l1 := false }) h hs]
    rfl
  · rfl
  · exact linkUp_awake s p

theorem exec_trcDataRead_low_some {w : TWord} {r : List TWord} {v : BitVec 64} {e c : Bool} (ha : s.regAnswers p 0x818 = true)
    (h : ((s.dies[(s.ports[p]).traceSel.1]).trace[(s.ports[p]).traceSel.2]).words = w :: r)
    (hs : secdedRead (w.data ^^^ flips.extractLsb' 0 64) (w.last ^^ flips.getLsbD 64) (w.check ^^^ flips.extractLsb' 65 8) = some (v, e, c)) :
    exec (.trcDataRead p .low flips) s = .next (((s.modPort p fun h => { h with l1 := false, trcHigh := some (v.extractLsb' 32 32) }).modDie
      (s.ports[p]).traceSel.1 fun d => d.modTrace (s.ports[p]).traceSel.2 fun _ =>
        ((s.dies[(s.ports[p]).traceSel.1]).trace[(s.ports[p]).traceSel.2]).popped r v e c).emit (.value p ((v.setWidth 32).setWidth 64))) := by
  refine congrArg Host.Outcome.next (State.readAccess_answers ha ?_ ?_ ?_)
  · dsimp only
    rw [State.traceSel_awake, State.popTrace_cons_some (s := s.modPort p fun h => { h with l1 := false }) h hs]
    simp only [State.modPort, State.modDie, vmod_vmod]
    rfl
  · rfl
  · show ((State.modPort s p _).ports[p]).linkUp = _
    rw [State.modPort_ports, vmod_get_self]

theorem exec_trcDataRead_high {v : BitVec 32} (ha : s.regAnswers p 0x818 = true) (h : (s.ports[p]).trcHigh = some v) :
    exec (.trcDataRead p .high flips) s =
      .next ((s.modPort p fun h => { h with l1 := false, trcHigh := none }).emit (.value p (v.setWidth 64))) := by
  have latched : ((s.modPort p fun h => { h with l1 := false }).ports[p]).trcHigh = some v := by
    rw [State.modPort_ports, vmod_get_self]
    exact h
  refine congrArg Host.Outcome.next (State.readAccess_answers ha ?_ ?_ ?_)
  · dsimp only
    rw [latched]
    simp only [State.modPort, vmod_vmod]
    rfl
  · rfl
  · show ((State.modPort s p _).ports[p]).linkUp = _
    rw [State.modPort_ports, vmod_get_self]

theorem exec_trcDataRead_whole_none {w : TWord} {r : List TWord} (ha : s.regAnswers p 0x818 = true)
    (h : ((s.dies[(s.ports[p]).traceSel.1]).trace[(s.ports[p]).traceSel.2]).words = w :: r)
    (hs : secdedRead (w.data ^^^ flips.extractLsb' 0 64) (w.last ^^ flips.getLsbD 64) (w.check ^^^ flips.extractLsb' 65 8) = none) :
    exec (.trcDataRead p .whole flips) s =
      .next ((((s.modPort p fun h => { h with l1 := false }).dropWord (s.ports[p]).traceSel.1 (s.ports[p]).traceSel.2).draw.2).emit
        (.value p (BitVec.ofNat 64 ((s.modPort p fun h => { h with l1 := false }).dropWord (s.ports[p]).traceSel.1 (s.ports[p]).traceSel.2).draw.1))) := by
  refine congrArg Host.Outcome.next (State.readAccess_answers ha ?_ ?_ ?_)
  · dsimp only
    rw [State.traceSel_awake, State.popTrace_cons_none (s := s.modPort p fun h => { h with l1 := false }) h hs]
    rfl
  · exact State.dropWord_rst _ _ _
  · exact (State.dropWord_linkUp _ _ _ p).trans (linkUp_awake s p)

end

/-- Settles O13: an access that its register answers is the pop of the selected queue's head word, which is corrected, dropped or absent. -/
theorem traceWordsRead : Obligations.TraceWordsRead := by
  refine ⟨fun p flips s ha => ⟨exec_trcDataRead_whole_nil ha, fun w r v e c h hs =>
    ⟨exec_trcDataRead_whole_some ha h hs, exec_trcDataRead_low_some ha h hs⟩, fun v hv => exec_trcDataRead_high ha hv⟩,
    fun p flips s ha w r h hs => ?_⟩
  have drop := State.dropWord_cons (s := s.modPort p fun h => { h with l1 := false }) h
  refine ⟨_, _, _, exec_trcDataRead_whole_none ha h hs, rfl, ?_⟩
  rw [drop]
  exact ⟨State.raise_events _ _ _, State.raise_flagged _ _ _ (by omega)⟩

end Sys2Proof.Machine
end

section
/-!
PROOFS of the code of the stored trace words (13, R425). Syndrome and overall parity are linear in the 73 stored bits and zero for a word as it was
written, so what a word that reads wrong gives is decided by the wrong bits alone.
-/
namespace Sys2Proof.Machine

/-! ### Parities are linear -/

/-- The parity of a list of bits. -/
def parityOf (l : List Bool) : Bool := l.foldl (fun b x => b != x) false

theorem foldl_parity (a : Bool) (l : List Bool) : l.foldl (fun b x => b != x) a = (a ^^ parityOf l) := by
  unfold parityOf
  induction l generalizing a with
  | nil => exact (Bool.xor_false a).symm
  | cons x l ih =>
    rw [List.foldl_cons, List.foldl_cons, ih (a != x), ih (false != x)]
    cases a <;> cases x <;> simp

theorem parityOf_cons (x : Bool) (l : List Bool) : parityOf (x :: l) = (x ^^ parityOf l) := by
  rw [parityOf, List.foldl_cons, foldl_parity, Bool.false_bne]

theorem parityOf_append (l m : List Bool) : parityOf (l ++ m) = (parityOf l ^^ parityOf m) := by
  rw [parityOf, List.foldl_append, foldl_parity]
  rfl

theorem parityOf_zipWith {l m : List Bool} (h : l.length = m.length) : parityOf (List.zipWith (· ^^ ·) l m) = (parityOf l ^^ parityOf m) := by
  induction l generalizing m with
  | nil =>
    cases m with
    | nil => rfl
    | cons y m => cases h
  | cons x l ih =>
    cases m with
    | nil => cases h
    | cons y m =>
      rw [List.zipWith_cons_cons, parityOf_cons, parityOf_cons, parityOf_cons, ih (Nat.succ.inj h)]
      cases x <;> cases y <;> simp

/-- The parity of the bits that stand at the positions with bit j set. -/
def coveredParity (ps : List Nat) (l : List Bool) (j : Nat) : Bool :=
  (List.zip ps l).foldl (fun b pb => if pb.1.testBit j then b != pb.2 else b) false

/-- The covered bits count alone. -/
theorem coveredParity_eq (ps : List Nat) (l : List Bool) (j : Nat) :
    coveredParity ps l j = parityOf (List.zipWith (fun k x => k.testBit j && x) ps l) := by
  have fold : ∀ (a : Bool) (ps : List Nat) (l : List Bool), (List.zip ps l).foldl (fun b pb => if pb.1.testBit j then b != pb.2 else b) a =
      (List.zipWith (fun k x => k.testBit j && x) ps l).foldl (fun b x => b != x) a := by
    intro a ps
    induction ps generalizing a with
    | nil => intro l; rfl
    | cons k ps ih =>
      intro l
      cases l with
      | nil => rfl
      | cons x l =>
        rw [List.zip_cons_cons, List.zipWith_cons_cons, List.foldl_cons, List.foldl_cons, ih]
        cases k.testBit j <;> simp
  exact fold false ps l

theorem coveredParity_zipWith (ps : List Nat) {l m : List Bool} (j : Nat) (h : l.length = m.length) :
    coveredParity ps (List.zipWith (· ^^ ·) l m) j = (coveredParity ps l j ^^ coveredParity ps m j) := by
  have masks : ∀ (ps : List Nat) (l m : List Bool), l.length = m.length →
      List.zipWith (fun k x => k.testBit j && x) ps (List.zipWith (· ^^ ·) l m) =
        List.zipWith (· ^^ ·) (List.zipWith (fun k x => k.testBit j && x) ps l) (List.zipWith (fun k x => k.testBit j && x) ps m) := by
    intro ps
    induction ps with
    | nil => intro l m _; simp
    | cons k ps ih =>
      intro l m h
      match l, m, h with
      | [], [], _ => rfl
      | x :: l, y :: m, h =>
        simp only [List.zipWith_cons_cons, ih l m (Nat.succ.inj h)]
        cases k.testBit j <;> simp
  rw [coveredParity_eq, coveredParity_eq, coveredParity_eq, masks ps l m h]
  exact parityOf_zipWith (by rw [List.length_zipWith, List.length_zipWith, h])

theorem secdedLow_eq_ofBits (l : List Bool) : secdedLow l = Nat.ofBits fun j : Fin 7 => coveredParity secdedPos l j.val := by
  have sum : ∀ f : Nat → Bool, (List.range 7).foldl (fun acc j => acc + (f j).toNat * 2 ^ j) 0 = Nat.ofBits fun j : Fin 7 => f j.val := by
    intro f
    simp only [List.range_succ, List.range_zero, List.nil_append, List.cons_append, List.foldl_cons, List.foldl_nil, Nat.ofBits, Fin.foldr,
      Fin.foldr.loop]
    omega
  exact sum (coveredParity secdedPos l)

theorem secdedLow_lt (l : List Bool) : secdedLow l < 128 := by
  rw [secdedLow_eq_ofBits]
  exact Nat.ofBits_lt_two_pow _

theorem secdedLow_zipWith {l m : List Bool} (h : l.length = m.length) :
    secdedLow (List.zipWith (· ^^ ·) l m) = secdedLow l ^^^ secdedLow m := by
  refine Nat.eq_of_testBit_eq fun j => ?_
  rw [Nat.testBit_xor, secdedLow_eq_ofBits, secdedLow_eq_ofBits, secdedLow_eq_ofBits]
  by_cases hj : j < 7
  · rw [Nat.testBit_ofBits_lt _ _ hj, Nat.testBit_ofBits_lt _ _ hj, Nat.testBit_ofBits_lt _ _ hj]
    exact coveredParity_zipWith _ _ h
  · rw [Nat.testBit_ofBits_ge _ _ (by omega), Nat.testBit_ofBits_ge _ _ (by omega), Nat.testBit_ofBits_ge _ _ (by omega)]
    rfl

/-! ### The stored bits of a word -/

/-- The 65 protected bits of a word. -/
def protectedBits (data : BitVec 64) (last : Bool) : List Bool :=
  ((List.range 64).map fun i => data.getLsbD i) ++ [last]

theorem protectedBits_length (data e : BitVec 64) (last f : Bool) : (protectedBits data last).length = (protectedBits e f).length := by
  simp only [protectedBits, List.length_append, List.length_map]
  rfl

theorem protectedBits_xor (data e : BitVec 64) (last f : Bool) :
    protectedBits (data ^^^ e) (last ^^ f) = List.zipWith (· ^^ ·) (protectedBits data last) (protectedBits e f) := by
  unfold protectedBits
  rw [List.zipWith_append (by simp), List.zipWith_map]
  simp [List.zipWith_self]

theorem bitsOfNat_xor (n a b : Nat) : bitsOfNat n (a ^^^ b) = List.zipWith (· ^^ ·) (bitsOfNat n a) (bitsOfNat n b) := by
  induction n with
  | zero => rfl
  | succ n ih => rw [bitsOfNat, bitsOfNat, bitsOfNat, List.zipWith_cons_cons, ih, Nat.testBit_xor]

theorem bitsOfNat_length (n a : Nat) : (bitsOfNat n a).length = n := by
  induction n with
  | zero => rfl
  | succ n ih => rw [bitsOfNat, List.length_cons, ih]

/-- The syndrome of a stored word. -/
def syndrome (data : BitVec 64) (last : Bool) (check : BitVec 8) : Nat :=
  secdedLow (protectedBits data last) ^^^ (check.toNat % 128)

/-- The parity of all the bits of a stored word. -/
def wholeParity (data : BitVec 64) (last : Bool) (check : BitVec 8) : Bool :=
  parityOf (protectedBits data last ++ bitsOfNat 8 check.toNat)

section
variable (data e : BitVec 64) (last f : Bool) (check g : BitVec 8)

theorem syndrome_xor : syndrome (data ^^^ e) (last ^^ f) (check ^^^ g) = syndrome data last check ^^^ syndrome e f g := by
  unfold syndrome
  rw [protectedBits_xor, secdedLow_zipWith (protectedBits_length ..), BitVec.toNat_xor, show 128 = 2 ^ 7 from rfl, Nat.xor_mod_two_pow]
  ac_rfl

theorem wholeParity_xor : wholeParity (data ^^^ e) (last ^^ f) (check ^^^ g) = (wholeParity data last check ^^ wholeParity e f g) := by
  unfold wholeParity
  rw [protectedBits_xor, BitVec.toNat_xor, bitsOfNat_xor, parityOf_append, parityOf_append, parityOf_append, parityOf_zipWith (protectedBits_length ..),
    parityOf_zipWith (by rw [bitsOfNat_length, bitsOfNat_length]), Bool.xor_assoc, Bool.xor_assoc,
    Bool.xor_left_comm (parityOf (protectedBits e f))]

end

/-! ### A word as it was written -/

section
variable (data : BitVec 64) (last : Bool)

/-- The check bits: the seven of the syndrome, then the one that makes the parity even. -/
theorem secded_toNat : (secded data last).toNat = secdedLow (protectedBits data last) +
    128 * (parityOf (protectedBits data last ++ bitsOfNat 7 (secdedLow (protectedBits data last)))).toNat := by
  have low := secdedLow_lt (protectedBits data last)
  show (BitVec.ofNat 8 _).toNat = _
  rw [BitVec.toNat_ofNat, Nat.mul_comm 128]
  have all := Bool.toNat_lt (parityOf (protectedBits data last ++ bitsOfNat 7 (secdedLow (protectedBits data last))))
  exact Nat.mod_eq_of_lt (show secdedLow (protectedBits data last) + (parityOf (protectedBits data last ++ bitsOfNat 7
    (secdedLow (protectedBits data last)))).toNat * 128 < 2 ^ 8 by omega)

theorem syndrome_written : syndrome data last (secded data last) = 0 := by
  have low := secdedLow_lt (protectedBits data last)
  unfold syndrome
  rw [secded_toNat, Nat.add_mul_mod_self_left, Nat.mod_eq_of_lt low, Nat.xor_self]

theorem bitsOfNat_congr {n a b : Nat} (h : a % 2 ^ n = b % 2 ^ n) : bitsOfNat n a = bitsOfNat n b := by
  have same : ∀ i < n, a.testBit i = b.testBit i := fun i hi => by
    have bit := congrArg (·.testBit i) h
    simpa only [Nat.testBit_mod_two_pow, hi, decide_true, Bool.true_and] using bit
  clear h
  induction n with
  | zero => rfl
  | succ n ih => rw [bitsOfNat, bitsOfNat, same n (Nat.lt_succ_self n), ih fun i hi => same i (Nat.lt_succ_of_lt hi)]

/-- A byte of seven low bits and a top bit. -/
theorem bitsOfNat_eight {a : Nat} (h : a < 128) (b : Bool) : bitsOfNat 8 (a + 128 * b.toNat) = b :: bitsOfNat 7 a := by
  have top : (a + 128 * b.toNat).testBit 7 = b := by
    rw [Nat.testBit_eq_decide_div_mod_eq]
    cases b
    · exact decide_eq_false (by rw [Bool.toNat_false]; omega)
    · exact decide_eq_true (by rw [Bool.toNat_true]; omega)
  rw [bitsOfNat, top, bitsOfNat_congr (b := a) (by omega)]

theorem wholeParity_written : wholeParity data last (secded data last) = false := by
  unfold wholeParity
  rw [secded_toNat, bitsOfNat_eight (secdedLow_lt _), parityOf_append, parityOf_cons, parityOf_append, Bool.xor_left_comm, Bool.xor_self]

end

/-! ### A word that reads wrong -/

section
variable (data : BitVec 64) (last : Bool)

/-- What reading a word out does, by its syndrome and its parity. -/
theorem secdedRead_eq (check : BitVec 8) : secdedRead data last check =
    if syndrome data last check = 0 then some (data, last, wholeParity data last check)
    else if !wholeParity data last check then none
    else match (List.zip secdedPos (List.range 65)).find? (fun p => p.1 == syndrome data last check) with
      | some (_, 64) => some (data, !last, true)
      | some (_, i) => some (data ^^^ BitVec.ofNat 64 (2 ^ i), last, true)
      | none => if [1, 2, 4, 8, 16, 32, 64].contains (syndrome data last check) then some (data, last, true) else none := rfl

theorem secdedRead_written : secdedRead data last (secded data last) = some (data, last, false) := by
  rw [secdedRead_eq, syndrome_written, wholeParity_written, if_pos rfl]

/-- What wrong bits of odd number do, by the syndrome that they have. -/
theorem secdedRead_wrong {e : BitVec 64} {f : Bool} {g : BitVec 8} {k : Nat} (hk : syndrome e f g = k) (hp : wholeParity e f g = true) :
    secdedRead (data ^^^ e) (last ^^ f) (secded data last ^^^ g) =
      if k = 0 then some (data ^^^ e, last ^^ f, true)
      else match (List.zip secdedPos (List.range 65)).find? (fun p => p.1 == k) with
        | some (_, 64) => some (data ^^^ e, !(last ^^ f), true)
        | some (_, i) => some (data ^^^ e ^^^ BitVec.ofNat 64 (2 ^ i), last ^^ f, true)
        | none => if [1, 2, 4, 8, 16, 32, 64].contains k then some (data ^^^ e, last ^^ f, true) else none := by
  rw [secdedRead_eq, syndrome_xor, wholeParity_xor, syndrome_written, wholeParity_written, hk, hp, Nat.zero_xor]
  rfl

/-- The position of a protected bit names that bit. -/
theorem find_secdedPos : ∀ i < 65, secdedPos.getD i 0 ≠ 0 ∧
    (List.zip secdedPos (List.range 65)).find? (fun p => p.1 == secdedPos.getD i 0) = some (secdedPos.getD i 0, i) := by
  decide +kernel

/-- The syndrome and the parity that one wrong data bit gives. -/
theorem wrong_data_bit : ∀ i : Fin 64, syndrome (BitVec.twoPow 64 i.val) false 0#8 = secdedPos.getD i.val 0 ∧
    wholeParity (BitVec.twoPow 64 i.val) false 0#8 = true := by
  decide +kernel

theorem wrong_last : syndrome 0#64 true 0#8 = secdedPos.getD 64 0 ∧ wholeParity 0#64 true 0#8 = true := by
  decide +kernel

/-- A wrong check bit gives its own power of two, which names no protected bit; the parity bit gives none. -/
theorem wrong_check_bit : ∀ i : Fin 8, wholeParity 0#64 false (BitVec.twoPow 8 i.val) = true ∧
    (syndrome 0#64 false (BitVec.twoPow 8 i.val) = 0 ∨
      (List.zip secdedPos (List.range 65)).find? (fun p => p.1 == syndrome 0#64 false (BitVec.twoPow 8 i.val)) = none ∧
        [1, 2, 4, 8, 16, 32, 64].contains (syndrome 0#64 false (BitVec.twoPow 8 i.val)) = true) := by
  decide +kernel

theorem secdedRead_data_bit (i : Fin 64) : secdedRead (data ^^^ BitVec.twoPow 64 i.val) last (secded data last) = some (data, last, true) := by
  obtain ⟨hk, hp⟩ := wrong_data_bit i
  obtain ⟨hne, hf⟩ := find_secdedPos i.val (by omega)
  have read := secdedRead_wrong data last hk hp
  rw [Bool.xor_false, BitVec.xor_zero, if_neg hne, hf] at read
  have undo : data ^^^ BitVec.twoPow 64 i.val ^^^ BitVec.ofNat 64 (2 ^ i.val) = data := by
    rw [BitVec.xor_assoc, show BitVec.ofNat 64 (2 ^ i.val) = BitVec.twoPow 64 i.val from BitVec.eq_of_toNat_eq (by rw [BitVec.toNat_ofNat, BitVec.toNat_twoPow]),
      BitVec.xor_self, BitVec.xor_zero]
  rw [read]
  split
  · next h =>
    simp only [Option.some.injEq, Prod.mk.injEq] at h
    omega
  · next h =>
    simp only [Option.some.injEq, Prod.mk.injEq] at h
    rw [← h.2, undo]
  · next h => cases h

theorem secdedRead_last : secdedRead data (!last) (secded data last) = some (data, last, true) := by
  obtain ⟨hk, hp⟩ := wrong_last
  obtain ⟨hne, hf⟩ := find_secdedPos 64 (by omega)
  have read := secdedRead_wrong data last hk hp
  rw [Bool.xor_true, BitVec.xor_zero, BitVec.xor_zero, if_neg hne] at read
  rw [read, hf, Bool.not_not]
  rfl

theorem secdedRead_check_bit (i : Fin 8) :
    secdedRead data last (secded data last ^^^ BitVec.twoPow 8 i.val) = some (data, last, true) := by
  obtain ⟨hp, hk | ⟨hf, hc⟩⟩ := wrong_check_bit i
  · have read := secdedRead_wrong data last hk hp
    rwa [Bool.xor_false, BitVec.xor_zero, if_pos rfl] at read
  · have read := secdedRead_wrong data last rfl hp
    rw [Bool.xor_false, BitVec.xor_zero, hf, if_pos hc, ite_self] at read
    exact read

end

/-- Settles O14: a single wrong bit gives an odd parity and the syndrome that names it. -/
theorem singleUpsetsCorrected : Obligations.SingleUpsetsCorrected := by
  intro data last
  exact ⟨secdedRead_written data last, secdedRead_data_bit data last, secdedRead_last data last, secdedRead_check_bit data last⟩

end Sys2Proof.Machine
end

section
/-!
PROOFS of the registers that select what a port sees (13, R423; 14, R441), and of the registers without a row of their own (14, R434, R435, R438).
-/
namespace Sys2Proof.Machine

theorem bits_eq {w : Nat} (x : BitVec w) (lo len : Nat) : bits x lo len = x.toNat / 2 ^ lo % 2 ^ len := by
  rw [bits, BitVec.extractLsb'_toNat, Nat.shiftRight_eq_div_pow]

theorem eq_fin2 {n : Nat} {d : Fin 2} (h : d.val = n % 2) : d = fin2 n :=
  Fin.ext h

/-- Coming out of L1 and then changing the port is one change of the port. -/
theorem State.modPort_modPort (s : State) (p : Port) (f g : HostPort → HostPort) : (s.modPort p f).modPort p g = s.modPort p fun h => g (f h) := by
  unfold State.modPort
  rw [vmod_vmod]
  rfl

/-! ### Windows -/

section
variable {p : Port} {s : State}

theorem exec_monSelWrite_of_regAnswers {v : BitVec 32} {d : DieId} {k : Fin 64} (ha : s.regAnswers p 0x400 = true)
    (hd : d.val = v.toNat / 256 % 2) (hk : k.val = v.toNat % 64) :
    exec (.monSelWrite p v) s = .next (s.modPort p fun h =>
      { h with l1 := false, monSel := v.setWidth 9 &&& 0x13F, snap := ((s.dies[d]).monitors[k]).snapshot }) := by
  obtain rfl : d = fin2 (bits v 8 1) := eq_fin2 (by rw [bits_eq, hd]; omega)
  obtain rfl : k = ⟨bits v 0 6, (v.extractLsb' 0 6).isLt⟩ := Fin.ext (hk.trans ((bits_eq v 0 6).trans (by rw [Nat.pow_zero, Nat.div_one]; rfl)).symm)
  refine congrArg Host.Outcome.next ((State.regAccess_answers s p _ _ ha).trans ?_)
  exact State.modPort_modPort ..

theorem exec_elogIdxWrite_of_regAnswers {v : BitVec 32} {d : DieId} (poisoned : Bool) (ha : s.regAnswers p 0x200C = true)
    (hd : d.val = (s.ports[p]).elogDie.toNat) :
    exec (.elogIdxWrite p v poisoned) s = .next (s.modPort p fun h =>
      { h with l1 := false, elogIdx := v.setWidth 16, elogValid := ((s.dies[d]).elogAt (v.toNat % 65536)).isSome,
               elogPois := ((s.dies[d]).elogAt (v.toNat % 65536)).isSome && poisoned,
               elogView := if poisoned then none else (s.dies[d]).elogAt (v.toNat % 65536) }) := by
  have die : fin2 (s.ports[p]).elogDie.toNat = d := (eq_fin2 (by omega)).symm
  have index : bits v 0 16 = v.toNat % 65536 := by rw [bits_eq]; omega
  refine congrArg Host.Outcome.next ((State.regAccess_answers s p _ _ ha).trans ?_)
  simp only [index, State.modPort_ports, vmod_get_self, die]
  exact State.modPort_modPort ..

end

/-- Settles O15: a window register answers with the copy that it names. -/
theorem windowSelects : Obligations.WindowSelects :=
  ⟨fun _ _ _ _ _ ha hd hk => exec_monSelWrite_of_regAnswers ha hd hk, fun _ _ poisoned _ _ ha hd => exec_elogIdxWrite_of_regAnswers poisoned ha hd⟩

/-! ### Registers without a row of their own -/

/-- What a write that its register answers comes to. -/
theorem exec_registerWrite_of_regAnswers {s : State} {p : Port} {ofs : Nat} (size : Nat) (v : BitVec 64) (ha : s.regAnswers p ofs = true) :
    exec (.registerWrite p ofs size v) s = .next (if writeOk ofs size then (s.modPort p fun h => { h with l1 := false }).regEffect p ofs size v
      else s.modPort p fun h => { h with l1 := false }) :=
  congrArg Host.Outcome.next (State.regAccess_answers s p ofs _ ha)

theorem writeOk_iff (ofs size : Nat) : writeOk ofs size = true ↔ size = 4 ∧ ofs % 4 = 0 ∨ size = 8 ∧ ofs ∈ [0x48, 0x108, 0x110] := by
  rw [writeOk, wideWrite, Bool.or_eq_true, Bool.and_eq_true, Bool.and_eq_true, beq_iff_eq, beq_iff_eq, beq_iff_eq, List.contains_iff_mem]

/-- A register that is not one of those that take a write ignores it. -/
theorem State.regEffect_of_notMem {ofs : Nat} (h4 : ofs % 4 = 0)
    (h : ofs ∉ [0x48, 0x4C, 0x88, 0x104, 0x108, 0x10C, 0x110, 0x114, 0x800, 0x804, 0x2000]) (s : State) (p : Port) (size : Nat) (v : BitVec 64) :
    s.regEffect p ofs size v = s := by
  simp only [List.mem_cons, List.not_mem_nil, or_false, not_or] at h
  unfold State.regEffect
  rw [if_neg (by omega), if_neg (by omega), if_neg (by omega), if_neg (by omega), if_neg (by omega), if_neg (by omega), if_neg (by omega),
    if_neg (by omega)]

theorem exec_registerWrite_ignored {s : State} {p : Port} {ofs size : Nat} {v : BitVec 64} (ha : s.regAnswers p ofs = true)
    (h : ofs ∉ [0x48, 0x4C, 0x88, 0x104, 0x108, 0x10C, 0x110, 0x114, 0x800, 0x804, 0x2000] ∨
      ¬ (size = 4 ∨ size = 8 ∧ ofs ∈ [0x48, 0x108, 0x110])) :
    exec (.registerWrite p ofs size v) s = .next (s.modPort p fun h => { h with l1 := false }) := by
  rw [exec_registerWrite_of_regAnswers size v ha]
  refine congrArg Host.Outcome.next ?_
  split
  · next ok =>
    obtain ⟨h4, hm⟩ | ⟨h8, hm⟩ := (writeOk_iff ofs size).mp ok
    · obtain h | h := h
      · exact State.regEffect_of_notMem hm h ..
      · exact absurd (.inl h4) h
    · obtain h | h := h
      · simp only [List.mem_cons, List.not_mem_nil, or_false, not_or] at h hm
        omega
      · exact absurd (.inr ⟨h8, hm⟩) h
  · rfl

/-- A write of a set-up register of the admin queue, which takes it only while EN is 0. -/
theorem State.setupWrite_awake (s : State) (p : Port) (f : HostPort → HostPort) :
    (s.modPort p fun h => { h with l1 := false }).setupWrite p f =
      if (s.ports[p]).aqEn then s.modPort p fun h => { h with l1 := false } else s.modPort p fun h => f { h with l1 := false } := by
  unfold State.setupWrite
  rw [State.modPort_ports, vmod_get_self, State.modPort_modPort]

/-- A write of TRC_CTL selects its queue and then enables or disables it. -/
theorem State.trcCtlWrite_awake (s : State) (p : Port) (v : BitVec 64) :
    (((s.modPort p fun h => { h with l1 := false }).modPort p fun h => { h with qsel := v.setWidth 3 }).modSel p fun q => { q with en := v.getLsbD 4 }) =
      (s.modPort p fun h => { h with l1 := false, qsel := v.setWidth 3 }).modDie (fin2 (v.toNat % 8 / 4)) fun d =>
        d.modTrace ⟨v.toNat % 4, by omega⟩ fun q => { q with en := v.getLsbD 4 } := by
  have queue : ∀ h : (v.setWidth 3).toNat % 4 < 4, (⟨(v.setWidth 3).toNat % 4, h⟩ : Fin 4) = ⟨v.toNat % 4, by omega⟩ := fun h =>
    Fin.ext (show (v.setWidth 3).toNat % 4 = v.toNat % 4 by rw [BitVec.toNat_setWidth]; omega)
  rw [State.modPort_modPort, State.modSel]
  simp only [HostPort.traceSel, State.modPort_ports, vmod_get_self, queue]
  rw [BitVec.toNat_setWidth]

/-- Settles O17: an offset at a time, of those that take a write. -/
theorem registerWrites : Obligations.RegisterWrites := by
  intro p v s
  refine ⟨fun ofs size ha h => exec_registerWrite_ignored ha h, ?_, ?_, ?_, ?_, ?_, ?_, ?_, ?_⟩ <;> intro ha <;>
    refine (exec_registerWrite_of_regAnswers _ v ha).trans (congrArg Host.Outcome.next ?_)
  · rfl
  · exact State.setupWrite_awake ..
  · exact State.setupWrite_awake ..
  · exact State.setupWrite_awake ..
  · exact State.setupWrite_awake ..
  · exact State.trcCtlWrite_awake ..
  · exact State.modPort_modPort ..
  · exact State.modPort_modPort ..

end Sys2Proof.Machine
end

section
/-!
PROOFS of AQ_CTL.EN (14, R438; 11, R379).
-/
namespace Sys2Proof.Machine

section
variable {p : Port} {s : State}

/-- The ERR code of a port that has been touched, by the first condition that fails. -/
theorem State.aqCheck_touch (hs : s.answers p = true) :
    (s.touch p).aqCheck p =
      if (s.ports[p]).featAccept.getLsbD 0 = true ∧ (s.ports[p]).featAccept &&& ~~~s.featOffer = 0 then
        if 2 ≤ (s.ports[p]).aqDepth.toNat ∧ (s.ports[p]).aqDepth.toNat ≤ 4096 then
          if (s.ports[p]).aqSqBase.toNat % 4096 = 0 ∧ (s.ports[p]).aqCqBase.toNat % 4096 = 0 then 0 else 4
        else 3
      else 2 := by
  have awake : (s.touch p).answers p = true := by
    unfold State.touch State.answers
    rw [State.modPort_ports, vmod_get_self]
    exact hs
  have port : (s.touch p).ports[p] = { s.ports[p] with l1 := false } := by
    rw [State.touch, State.modPort_ports, vmod_get_self]
  unfold State.aqCheck
  simp only [awake, port, Bool.not_true, Bool.false_eq_true, if_false]
  rw [← ite_not (p := _ ∧ (s.ports[p]).featAccept &&& _ = 0), ← ite_not (p := 2 ≤ _ ∧ _), ← ite_not (p := _ % 4096 = 0 ∧ _)]
  refine if_congr ?_ rfl (if_congr ?_ rfl (if_congr ?_ rfl rfl))
  · rw [not_and_or, Bool.not_eq_true, Bool.not_eq_true']
    exact Iff.rfl
  · omega
  · omega

/-- What a write of 1 to AQ_CTL.EN comes to while EN is 0. -/
theorem exec_adminQueueEnable_of_regAnswers (ha : s.regAnswers p 0x100 = true) (he : (s.ports[p]).aqEn = false) :
    exec (.adminQueueEnable p) s = .next (match (s.touch p).aqCheck p with
      | 0 => (s.touch p).modPort p fun h =>
        { h with aqEn := true, aqErr := 0, qps := [Qp.fresh 0 h.aqDepth.toNat h.aqSqBase h.aqCqBase 0], rr := 0 }
      | n => if n = 2 then ((s.touch p).modPort p fun h => { h with aqErr := BitVec.ofNat 3 n }).raise (225 + 8 * p.val)
        else (s.touch p).modPort p fun h => { h with aqErr := BitVec.ofNat 3 n }) := by
  have awake : ((s.touch p).ports[p]).aqEn = false := by
    rw [State.touch, State.modPort_ports, vmod_get_self]
    exact he
  refine congrArg Host.Outcome.next (if_neg ?_)
  rw [awake, State.touch_regAnswers, ha]
  decide

end

/-- Settles O20: the conditions are checked in the order of Table 14.5, and a write of 1 does what their check names. -/
theorem adminQueueEnabled : Obligations.AdminQueueEnabled := by
  intro p s ha
  refine ⟨fun he => ?_, fun he hs hf hd hb => ?_, fun he hs hf => ?_, fun he hs hf hd => ?_, fun he hs hf hd hb => ?_⟩
  · have awake : ((s.touch p).ports[p]).aqEn = true := by
      rw [State.touch, State.modPort_ports, vmod_get_self]
      exact he
    exact congrArg Host.Outcome.next (if_pos (.inl awake))
  all_goals
    rw [exec_adminQueueEnable_of_regAnswers ha he, State.aqCheck_touch hs]
  · rw [if_pos hf, if_pos hd, if_pos hb]
    exact congrArg Host.Outcome.next (State.modPort_modPort ..)
  · rw [if_neg hf]
    exact ⟨_, congrArg (fun t => Host.Outcome.next (State.raise t (225 + 8 * p.val))) (State.modPort_modPort ..),
      State.raise_flagged _ _ _ (by omega), State.raise_events ..⟩
  · rw [if_pos hf, if_neg hd]
    exact congrArg Host.Outcome.next (State.modPort_modPort ..)
  · rw [if_pos hf, if_pos hd, if_neg hb]
    exact congrArg Host.Outcome.next (State.modPort_modPort ..)

end Sys2Proof.Machine
end

section
/-!
PROOFS of a port reset (12, R405) and of a change of a link's rate or width (14, Table 14.3).
-/
namespace Sys2Proof.Machine

/-- What a port reset has done before the port itself is restored: its queues' commands are aborted, its open records abandoned, its waits gone. -/
def State.portDrained (s : State) (p : Port) : State :=
  (((s.ports[p]).qps.map (·.id)).foldl (fun a q => (a.abortQueue p q).abandonOpen p q) s).dropWaits fun w => w.owner == 1 + p.val

theorem State.portDrained_mainControl (s : State) (p : Port) : mainControl (s.portDrained p) = mainControl s := by
  have queues : ∀ (l : List Nat) (a : State), mainControl (l.foldl (fun a q => (a.abortQueue p q).abandonOpen p q) a) = mainControl a := by
    intro l
    induction l with
    | nil => intro a; rfl
    | cons q l ih =>
      intro a
      rw [List.foldl_cons, ih, mainControl_of (State.abandonOpen_control (a.abortQueue p q) p q), abortQueue_mainControl]
  exact (mainControl_of (State.dropWaits_control ..)).trans (queues _ s)

/-- What the main control state tells of the set-up registers of a port. -/
theorem regs_of_mainControl {s t : State} (h : mainControl t = mainControl s) (q : Port) : (t.ports[q]).regs = (s.ports[q]).regs := by
  have h6 : t.ports.map HostPort.regs = s.ports.map HostPort.regs := congrArg Control.regs h
  have := congrArg (fun v => v[q]) h6
  simpa using this

/-- The end of a port reset: the port is restored, and its locks, its staging session and its wait for a power state go. -/
def State.portRestored (s : State) (p : Port) : State :=
  { s.modPort p HostPort.portReset with
    locks := s.locks.filter fun l => l.cmd.port != p
    boot := { s.boot with staging := s.boot.staging.filter fun x => x.port != p }
    power := { s.power with target := s.power.target.filter fun x => x.2.port != p }
    rst := { s.rst.assert (.perst p) with portRst := s.rst.portRst ||| BitVec.twoPow 2 p.val } }

theorem State.portReset_eq (s : State) (p : Port) : s.portReset p = (s.portDrained p).portRestored p := by
  unfold State.portReset
  extract_lets ids drained
  show _ = State.portRestored drained p
  clear_value drained
  rfl

/-- What a port reset leaves: the port's event state and little else of it, and of the rest of the package all but the port's locks, staging session
and wait for a power state. -/
structure PortRestored (s t : State) (p : Port) : Prop where
  port : ∃ h, h.regs = (s.ports[p]).regs ∧ t.ports[p] = HostPort.portReset h
  others : ∀ q, q ≠ p → (t.ports[q]).regs = (s.ports[q]).regs
  locks : ∀ l ∈ t.locks, l.cmd.port ≠ p
  cause : t.rst.cause = s.rst.cause ||| BitVec.twoPow 14 (12 + p.val)
  mem : t.mem = s.mem
  ledger : t.ledger = s.ledger
  supply : t.supply = s.supply
  thermal : t.thermal = s.thermal
  stores : t.stores = s.stores

theorem State.portReset_restored (s : State) (p : Port) : PortRestored s (s.portReset p) p := by
  have main := s.portDrained_mainControl p
  have rst : (s.portDrained p).rst = s.rst := congrArg Control.rst main
  have mem := s.portReset_keeps_mem p
  have ledger := s.portReset_keeps_ledger p
  rw [State.portReset_eq] at mem ledger ⊢
  have supply : (s.portDrained p).supply = s.supply := congrArg Control.supply main
  have thermal : (s.portDrained p).thermal = s.thermal := congrArg Control.thermal main
  have stores : (s.portDrained p).stores = s.stores := congrArg Control.stores main
  have regs := regs_of_mainControl main
  generalize s.portDrained p = u at rst mem ledger supply thermal stores regs
  refine ⟨⟨u.ports[p], regs p, vmod_get_self ..⟩, fun q hq => ?_, fun l hl => ?_, ?_, mem, ledger, supply, thermal, stores⟩
  · exact (congrArg HostPort.regs (vmod_others _ _ _ q hq)).trans (regs q)
  · exact bne_iff_ne.mp (List.mem_filter.mp hl).2
  · show u.rst.cause ||| _ = _
    rw [rst]
    rfl

theorem exec_linkRateOrWidthChange_of_up {s : State} {p : Port} {gen width : Nat} (hu : (s.ports[p]).linkUp = true)
    (hc : ¬ ((s.ports[p]).gen = gen ∧ (s.ports[p]).width = width)) :
    exec (.linkRateOrWidthChange p gen width) s =
      .next ((s.modPort p fun h => { h with gen := gen, width := width }).raise (226 + 8 * p.val)) := by
  refine congrArg Host.Outcome.next (if_neg ?_)
  rw [hu]
  exact fun h => h.elim Bool.noConfusion hc

theorem exec_linkRateOrWidthChange_of_same {s : State} {p : Port} {gen width : Nat}
    (h : (s.ports[p]).linkUp = false ∨ ((s.ports[p]).gen = gen ∧ (s.ports[p]).width = width)) :
    exec (.linkRateOrWidthChange p gen width) s = .next s := by
  refine congrArg Host.Outcome.next (if_pos ?_)
  exact h.imp_left fun hd => by rw [hd]; rfl

/-- Settles O18: a port reset by what the drained port keeps, a link change by its one event. -/
theorem portLinksAndResets : Obligations.PortLinksAndResets := by
  refine ⟨fun p s => ?_, fun p gen width s hu hc => ?_, fun p gen width s h => exec_linkRateOrWidthChange_of_same h⟩
  · obtain ⟨⟨h, regs, port⟩, others, locks, cause, mem, ledger, supply, thermal, stores⟩ := s.portReset_restored p
    refine ⟨s.portReset p, rfl, ?_, ?_, ?_, ?_, ?_, ?_, locks, cause, mem, ledger, supply, thermal, stores, others⟩ <;> rw [port]
    · rfl
    · rfl
    · rfl
    · rfl
    · exact congrArg PortRegs.mask regs
    · exact congrArg PortRegs.route regs
  · exact ⟨_, exec_linkRateOrWidthChange_of_up hu hc, State.raise_flagged _ _ _ (by omega), State.raise_events _ _ _⟩

end Sys2Proof.Machine
end

section
/-!
PROOFS of the cold sources and the power-on reset (12, R391 to R398, R412), of the loss of REFCLK and of the release of a source (15, R458; 12, R396, R411).
-/
namespace Sys2Proof.Machine

/-! ### The cold sources -/

/-- What a cold source leaves, with the black-box entry `b` where its cause has one. -/
structure ColdReset (s t : State) (src : ResetSource) (bit : Nat) (b : BlackBox) : Prop where
  restored : ColdRestored s t
  cause : t.rst.cause = s.rst.cause ||| BitVec.twoPow 14 bit
  asserted : t.rst.asserted = s.rst.asserted ++ [src]
  ledger : t.ledger = { s.ledger with bbox := if bit = 1 then s.ledger.bbox else (b :: s.ledger.bbox).take 64,
                                      bboxCnt := s.ledger.bboxCnt + (if bit = 1 then 0 else 1), writing := [] }
  entry : b.cause = bit
  trip : t.thermal.trip = s.thermal.trip

theorem State.coldSource_none_spec {s : State} {src : ResetSource} (hs : src ∉ s.rst.asserted) (hc : causeBit src = 1) :
    ColdReset s (s.coldSource src none) src 1 (s.boxEntry 1 0) := by
  obtain ⟨restored, cause, asserted, ledger, trip⟩ := assertCold_spec s src hs
  rw [coldSource_first s src hs none]
  rw [hc] at cause
  exact ⟨restored, cause, asserted, ledger, rfl, trip⟩

theorem State.coldSource_some_spec {s : State} {src : ResetSource} {c : Nat} (d : Nat) (hs : src ∉ s.rst.asserted) (hc : causeBit src = c) (h1 : c ≠ 1) :
    ColdReset s (s.coldSource src (some (c, d))) src c (s.boxEntry c d) := by
  obtain ⟨restored, cause, asserted, ledger, trip⟩ := boxed_spec s src c d hs
  rw [coldSource_first s src hs (some (c, d))]
  rw [hc] at cause
  refine ⟨restored, cause, asserted, ?_, rfl, trip⟩
  rw [if_neg h1, if_neg h1]
  exact ledger

theorem exec_resetN {s : State} (hs : .resetN ∉ s.rst.asserted) :
    ∃ t, exec .resetN s = .next t ∧ ColdReset s t .resetN 1 (s.boxEntry 1 0) :=
  ⟨_, rfl, State.coldSource_none_spec hs rfl⟩

theorem exec_supplyReset {s : State} {rail : Fin 6} {mv : Nat} (hs : .supply ∉ s.rst.asserted) (hv : mv ≤ railReset.getD rail.val 0) :
    ∃ t, exec (.supplyReset rail mv) s = .next t ∧ ColdReset s t .supply 2 ((s.railReads rail.castSucc mv).boxEntry 2 0) := by
  obtain ⟨restored, cause, asserted, ledger, entry, trip⟩ :=
    State.coldSource_some_spec (s := s.railReads rail.castSucc mv) (src := .supply) (c := 2) 0 hs rfl (by decide)
  exact ⟨_, congrArg Host.Outcome.next (if_neg (Nat.not_lt.mpr hv)), restored, cause, asserted, ledger, entry, trip⟩

/-- A state in which the thermal trip holds. -/
def State.tripped (s : State) (d : DieId) (temp : BitVec 16) : State :=
  { s.heat d temp with thermal := { (s.heat d temp).thermal with trip := true }, rst := { s.rst with tripHeld := true } }

theorem exec_thermalTrip {s : State} {d : DieId} {temp : BitVec 16} (hs : .thermal ∉ s.rst.asserted) (ht : 120 * 256 ≤ temp.toInt) :
    ∃ t, exec (.thermalTrip d temp) s = .next t ∧ ColdReset (s.tripped d temp) t .thermal 3 ((s.tripped d temp).boxEntry 3 0) :=
  ⟨_, congrArg Host.Outcome.next (if_neg (Int.not_lt.mpr ht)), State.coldSource_some_spec (s := s.tripped d temp) 0 hs rfl (by decide)⟩

theorem exec_watchdogExpiry_cold {s : State} (hs : .watchdogCold ∉ s.rst.asserted) (hd : s.wdogDue = true) (hc : s.img.wdogCold = true) :
    ∃ t, exec .watchdogExpiry s = .next t ∧ ColdReset s t .watchdogCold 4 (s.boxEntry 4 0) := by
  refine ⟨_, congrArg Host.Outcome.next ((if_neg ?_).trans (if_pos hc)), State.coldSource_some_spec 0 hs rfl (by decide)⟩
  rw [hd]
  decide

theorem exec_packageFault {s : State} {f : PkgFault} (hs : .packageFault ∉ s.rst.asserted) (hf : f ≠ .refclk) :
    ∃ t, exec (.packageFault f) s = .next t ∧ ColdReset s t .packageFault 5 (s.boxEntry 5 (pkgDetail f)) := by
  refine ⟨_, ?_, State.coldSource_some_spec (pkgDetail f) hs rfl (by decide)⟩
  cases f with
  | refclk => exact absurd rfl hf
  | _ => rfl

theorem stns_of_coldRestored {s t : State} (h : ColdRestored s t) : t.stns = State.reset.stns := by
  obtain ⟨-, -, -, -, -, stns, -⟩ := h
  exact stns

/-- Settles O21: every cold source is one assertion, with the black-box entry of its cause where it has one. -/
theorem coldResets : Obligations.ColdResets := by
  refine ⟨fun i src cause detail s hi hs => ?_, fun s => ?_⟩
  · obtain ⟨rfl, rfl, rfl⟩ | ⟨⟨rail, mv, rfl, hv⟩, rfl, rfl, rfl⟩ | ⟨⟨d, temp, rfl, ht⟩, rfl, rfl, rfl⟩ | ⟨rfl, hd, hc, rfl, rfl, rfl⟩ |
      ⟨⟨f, hf, rfl, rfl⟩, rfl, rfl⟩ := hi
    · obtain ⟨t, run, restored, cause, asserted, ledger, entry, -⟩ := exec_resetN hs
      exact ⟨t, _, run, restored, cause, asserted, ledger, entry, fun h => absurd rfl h, fun h => absurd h (by decide),
        reset_stn t (stns_of_coldRestored restored)⟩
    · obtain ⟨t, run, restored, cause, asserted, ledger, entry, -⟩ := exec_supplyReset hs hv
      exact ⟨t, _, run, restored, cause, asserted, ledger, entry, fun _ => rfl, fun h => absurd h (by decide),
        reset_stn t (stns_of_coldRestored restored)⟩
    · obtain ⟨t, run, restored, cause, asserted, ledger, entry, trip⟩ := exec_thermalTrip hs ht
      exact ⟨t, _, run, restored, cause, asserted, ledger, entry, fun _ => rfl, fun _ => trip,
        reset_stn t (stns_of_coldRestored restored)⟩
    · obtain ⟨t, run, restored, cause, asserted, ledger, entry, -⟩ := exec_watchdogExpiry_cold hs hd hc
      exact ⟨t, _, run, restored, cause, asserted, ledger, entry, fun _ => rfl, fun h => absurd h (by decide),
        reset_stn t (stns_of_coldRestored restored)⟩
    · obtain ⟨t, run, restored, cause, asserted, ledger, entry, -⟩ := exec_packageFault hs hf
      exact ⟨t, _, run, restored, cause, asserted, ledger, entry, fun _ => rfl, fun h => absurd h (by decide),
        reset_stn t (stns_of_coldRestored restored)⟩
  · exact ⟨s.powerOn, rfl, ⟨rfl, rfl, rfl, rfl, rfl, rfl, rfl, rfl, rfl, rfl, rfl, rfl, rfl, rfl, rfl, rfl, rfl, rfl, rfl, rfl⟩, rfl, rfl, rfl, rfl, rfl, rfl⟩

/-! ### REFCLK and releases -/

theorem State.refclkLoss_spec {s : State} (hl : s.rst.refclkLost = false) :
    ColdRestored s s.refclkLoss ∧ s.refclkLoss.rst.refclkLost = true ∧ s.refclkLoss.rst.cause = s.rst.cause ||| BitVec.twoPow 14 5 ∧
      s.refclkLoss.ledger = { s.ledger with bbox := (s.boxEntry 5 5 :: s.ledger.bbox).take 64, bboxCnt := s.ledger.bboxCnt + 1, writing := [] } := by
  obtain ⟨boxed, -⟩ := blackBox_eq s 5 5
  have loss : s.refclkLoss = (s.blackBox 5 5).coldReset { (s.blackBox 5 5).rst with cause := (s.blackBox 5 5).rst.cause ||| BitVec.twoPow 14 5,
                                                                                    refclkLost := true } := by
    rw [State.refclkLoss, hl]
    exact if_neg (by decide)
  rw [loss, boxed]
  exact ⟨⟨rfl, rfl, rfl, rfl, rfl, rfl, rfl, rfl, rfl, rfl, rfl, rfl, rfl, rfl, rfl, rfl, rfl, rfl, rfl, rfl⟩, rfl, rfl, rfl⟩

/-- The exit of a package that is held begins, where nothing holds it any more. -/
theorem State.tryExit_held {s : State} (h : s.rst.stage = .held) :
    s.tryExit = if s.rst.holds (· != .warm) || s.rst.refclkLost then s
      else { s with rst := { s.rst with stage := if s.rst.reach = .powerOn then .e1 else .e2 } } := by
  unfold State.tryExit
  rw [h]

/-- Settles O22: the loss is one cold reset, and each release changes what holds the exit and lets it go on. -/
theorem clockLossAndReleases : Obligations.ClockLossAndReleases := by
  refine ⟨fun i s hi hl => ?_, fun s => ?_⟩
  · obtain ⟨restored, lost, cause, ledger⟩ := State.refclkLoss_spec hl
    obtain rfl | rfl := hi
    · exact ⟨_, _, rfl, restored, lost, cause, ledger, rfl, rfl⟩
    · exact ⟨_, _, rfl, restored, lost, cause, ledger, rfl, rfl⟩
  · dsimp only
    refine fun held => ⟨fun src hs => ?_, ?_, ?_⟩
    · exact congrArg Host.Outcome.next ((if_neg hs).trans (State.tryExit_held held))
    · exact congrArg Host.Outcome.next (State.tryExit_held held)
    · exact congrArg Host.Outcome.next (State.tryExit_held held)

end Sys2Proof.Machine
end

section
/-!
PROOFS of the warm reset (12, R400 to R404): a warm request that does not reach the reset controller, and the end of a quiesce.
-/
namespace Sys2Proof.Machine

/-! ### Warm requests -/

/-- A request of port 1 does not cross the inter-die link while that is down (R16): it wakes the port's link and no more. -/
theorem exec_warmRequest_one_of_ucieDown {s : State} (h : s.ucieDown = true) :
    exec (.warmRequest 1) s = .next (if (s.ports[(1 : Port)]).linkUp then s.modPort 1 fun h => { h with l1 := false } else s) := by
  refine congrArg Host.Outcome.next (if_neg ?_)
  rw [h]
  cases (s.ports[(1 : Port)]).linkUp <;> exact Bool.noConfusion

/-- A package that is ready, with port 1's link up and the inter-die link down. -/
def splitPackage : State :=
  { State.reset with
    rst := { State.reset.rst with stage := .ready }
    ucieDown := true
    ports := Vector.replicate 2 { HostPort.reset with linkUp := true } }

/-- Refutes O23: with the inter-die link down, a warm request of port 1 starts no quiesce (R16), and the statement does not ask that it is up. -/
theorem not_warmSourcesAndSaves : ¬ Obligations.WarmSourcesAndSaves := by
  rintro ⟨warm, -⟩
  obtain ⟨t, run, stage, -⟩ := warm (.warmRequest 1) .warmRequest 9 splitPackage rfl (.inr (.inl ⟨⟨1, rfl, rfl⟩, rfl, rfl⟩))
  rw [exec_warmRequest_one_of_ucieDown rfl] at run
  cases run
  cases stage

/-! ### A change of both ports, or both dies -/

theorem mem_allStns (st : Stn) : st ∈ allStns := by
  revert st
  decide

theorem vmod_both {α : Type} (v : Vector α 2) (f : Fin 2 → α → α) (i : Fin 2) : (vmod (vmod v 0 (f 0)) 1 (f 1))[i] = f i v[i] := by
  match i with
  | 0 => rw [vmod_get_ne _ _ _ _ (by decide), vmod_get_self]
  | 1 => rw [vmod_get_self, vmod_get_ne _ _ _ _ (by decide)]

theorem State.eachPort_port (s : State) (f : Port → HostPort → HostPort) (p : Port) : (s.eachPort f).ports[p] = f p s.ports[p] :=
  vmod_both s.ports f p

theorem State.eachDie_die (s : State) (f : DieId → Die → Die) (d : DieId) : (s.eachDie f).dies[d] = f d s.dies[d] :=
  vmod_both s.dies f d

/-! ### The end of a quiesce -/

/-- The stations and the buffers at the end of a quiesce, before the logic domain is reset. -/
def State.stationsStabled (s : State) : State :=
  (allStns.foldl (fun a st => a.warmStn st) s).stableAll

theorem State.stationsStabled_kept (s : State) : Kept s s.stationsStabled := by
  obtain ⟨kept, -⟩ := warmStns_spec allStns (by decide) s
  exact kept.trans ⟨State.stableAll_control .., State.stableAll_mounts .., State.stableAll_keeps_ledger ..⟩

theorem State.stationsStabled_stn (s : State) (st : Stn) : (s.stationsStabled.stns[st]).stabled = (s.stns[st]).mount.isSome ∧
    (s.stationsStabled.stns[st]).broken = ((s.stns[st]).broken || ((s.stns[st]).mount.isSome && !s.rst.saved.getLsbD st.val)) := by
  obtain ⟨-, each⟩ := warmStns_spec allStns (by decide) s
  obtain ⟨stabled, broken⟩ := (iff_of_eq (if_pos (mem_allStns st))).mp (each st)
  have same : (s.stationsStabled.stns[st]).standing = ((allStns.foldl (fun a st => a.warmStn st) s).stns[st]).standing := by
    rw [← standing_at, ← standing_at, State.stationsStabled, State.stableAll_standing]
  exact ⟨(stabled_of same).1.trans stabled, (stabled_of same).2.trans broken⟩

/-- The logic domain of `b` enters reset; `s` is the state before the quiesce ended. -/
def State.logicLoss (b s : State) : State :=
  { (b.eachPort fun _ h => h.warm).eachDie fun _ d => d.warm with
    stores := Vector.replicate 10 Store.reset, locks := [], ucieDown := false, test := none, blkRst := []
    migs := s.migs.map fun (j : MigJob) => j.park s
    power := State.reset.power, vault := { b.vault with slots := Vector.replicate 8 none, domains := [] }
    boot := { b.boot with staging := none }, hbm := b.hbm.map fun k => { k with lost := false } }

theorem State.warmLoss_eq (s : State) : s.warmLoss = s.stationsStabled.logicLoss s := by
  unfold State.warmLoss State.stationsStabled
  generalize (allStns.foldl (fun a st => a.warmStn st) s).stableAll = b
  rfl

theorem State.logicLoss_port (b s : State) (p : Port) : (b.logicLoss s).ports[p] = (b.ports[p]).warm :=
  State.eachPort_port b (fun _ h => h.warm) p

theorem State.logicLoss_die (b s : State) (d : DieId) : (b.logicLoss s).dies[d] = (b.dies[d]).warm :=
  State.eachDie_die (b.eachPort fun _ h => h.warm) (fun _ x => x.warm) d

theorem State.logicLoss_stns (b s : State) : (b.logicLoss s).stns = b.stns := by
  simp only [State.logicLoss, State.eachDie_keeps_stns, State.eachPort_keeps_stns]

/-- What the logic domain's reset at the end of a quiesce of `s` leaves, before the exit goes on. -/
structure LogicLost (s t : State) : Prop where
  rst : t.rst = s.rst
  mem : t.mem = s.mem
  ledger : t.ledger = s.ledger
  image : t.boot.image = s.boot.image
  domains : t.vault.domains = []
  clock : t.clock = s.clock
  pending : t.pending = s.pending
  locks : t.locks = []
  slots : t.vault.slots = Vector.replicate 8 none
  stores : t.stores = State.reset.stores
  power : t.power = State.reset.power
  staging : t.boot.staging = none
  port : ∀ p : Port, (t.ports[p]).qps = [] ∧ (t.ports[p]).aqEn = false ∧ (t.ports[p]).featAccept = 0 ∧ (t.ports[p]).stat = 0 ∧
    (t.ports[p]).linkUp = (s.ports[p]).linkUp
  die : ∀ d : DieId, (t.dies[d]).monitors = Vector.replicate 64 MonSlot.reset
  stn : ∀ st : Stn, (t.stns[st]).stabled = (s.stns[st]).mount.isSome ∧ (t.stns[st]).mount = (s.stns[st]).mount ∧
    (t.stns[st]).broken = ((s.stns[st]).broken || ((s.stns[st]).mount.isSome && !s.rst.saved.getLsbD st.val))

theorem State.warmLoss_lost (s : State) : LogicLost s s.warmLoss := by
  obtain ⟨control, mounts, ledger⟩ := s.stationsStabled_kept
  have stn := s.stationsStabled_stn
  rw [State.warmLoss_eq]
  generalize s.stationsStabled = b at control mounts ledger stn
  constructor
  case rst => exact congrArg Control.rst control
  case mem => exact congrArg Control.mem control
  case ledger =>
    simp only [State.logicLoss, State.eachDie_keeps_ledger, State.eachPort_keeps_ledger]
    exact ledger
  case image => exact congrArg (fun c => c.boot.image) control
  case domains => rfl
  case clock => exact congrArg Control.clock control
  case pending => exact congrArg Control.pending control
  case locks => rfl
  case slots => rfl
  case stores => rfl
  case power => rfl
  case staging => rfl
  case port =>
    intro p
    rw [State.logicLoss_port]
    exact ⟨rfl, rfl, rfl, rfl, congrArg PortRegs.linkUp (regs_at control p)⟩
  case die =>
    intro d
    rw [State.logicLoss_die]
    rfl
  case stn =>
    intro st
    rw [State.logicLoss_stns]
    obtain ⟨stabled, broken⟩ := stn st
    exact ⟨stabled, mount_of mounts st, broken⟩

/-- Settles O24: the stations keep what R402 names, the logic domain loses the rest, and the exit goes on to its hold point. -/
theorem quiesceEnds : Obligations.QuiesceEnds := by
  intro s hq
  have run : exec .quiesceEnd s = .next s.warmLoss.tryE4 := congrArg Host.Outcome.next (if_pos hq)
  obtain ⟨rst, mem, ledger, image, domains, clock, pending, locks, slots, stores, power, staging, port, die, stn⟩ := s.warmLoss_lost
  generalize s.warmLoss = c at run rst mem ledger image domains clock pending locks slots stores power staging port die stn
  obtain ⟨g, v, exits, stage, hold, stns⟩ := tryE4_spec c
  rw [exits] at run
  rw [rst] at hold
  refine ⟨_, run, stage, hold, mem, ledger, image, domains, clock, pending, locks, slots, stores, power, staging, port, die, fun st => ?_⟩
  obtain ⟨standing, mount⟩ := stns st
  obtain ⟨stabled, mounted, broken⟩ := stn st
  exact ⟨(stabled_of standing).1.trans stabled, mount.trans mounted, (stabled_of standing).2.trans broken⟩

end Sys2Proof.Machine
end

section
/-!
PROOFS of the boot controller: the choice of an image at E2 (11, R369, R370), and the stages of an exit after it (12, Table 12.3).
-/
namespace Sys2Proof.Machine

/-! ### Events raised in turn -/

theorem EventsOnly.flagged {s t : State} (h : EventsOnly s t) {n : Nat} (hs : s.flagged n) : t.flagged n := fun p =>
  h.2.2.2.1 p n (hs p)

theorem EventsOnly.ledger {s t : State} (h : EventsOnly s t) : t.ledger = s.ledger := by
  rw [h.1]

theorem EventsOnly.boot {s t : State} (h : EventsOnly s t) : t.boot = s.boot := by
  rw [h.1]

theorem State.raiseAll_flagged {n : Nat} {l : List Nat} (hn : n ∈ l) (h : n < 256) (s : State) : (s.raiseAll l).flagged n := by
  induction l generalizing s with
  | nil => cases hn
  | cons x l ih =>
    cases hn with
    | head => exact (State.raiseAll_events l (s.raise n)).flagged (State.raise_flagged s n 0 h)
    | tail _ hn => exact ih hn (s.raise x)

/-! ### The candidates (R369) -/

/-- Every slot is a candidate, a pending trial's first and else CUR. -/
theorem Ledger.beginBoot_candidates (l : Ledger) : (∀ x, x ∈ l.beginBoot.1) ∧
    l.beginBoot.1.head? = some (if l.tstate = .pending then l.trial.getD l.cur else l.cur) := by
  have order : ∀ (first : Option SlotId) (cur : SlotId),
      (∀ x, x ∈ ([cur, .a, .b, .factory] : List SlotId).foldl (fun o x => if o.contains x then o else o ++ [x]) first.toList) ∧
      (([cur, .a, .b, .factory] : List SlotId).foldl (fun o x => if o.contains x then o else o ++ [x]) first.toList).head? = some (first.getD cur) := by
    intro first cur
    rcases first with _ | first
    · cases cur <;> exact ⟨fun x => by cases x <;> decide, rfl⟩
    · cases first <;> cases cur <;> exact ⟨fun x => by cases x <;> decide, rfl⟩
  by_cases h : l.tstate = .pending
  · have := order l.trial l.cur
    unfold Ledger.beginBoot
    simpa only [h, if_true] using this
  · have := order none l.cur
    unfold Ledger.beginBoot
    simpa only [h, if_false, Option.toList_none, Option.getD_none] using this

/-- What of the ledger the choice rests on. -/
structure SameBoot (l m : Ledger) : Prop where
  cur : m.cur = l.cur
  pin : m.pin = l.pin
  floor : m.floor = l.floor

theorem Ledger.beginBoot_same (l : Ledger) : SameBoot l l.beginBoot.2.1 := by
  unfold Ledger.beginBoot
  dsimp only
  split <;> exact ⟨rfl, rfl, rfl⟩

theorem Ledger.reject_same (l : Ledger) (x : SlotId) (e : Nat) : SameBoot l (l.reject x e) := by
  unfold Ledger.reject
  dsimp only
  split <;> exact ⟨rfl, rfl, rfl⟩

/-- Candidates that fail are rejected, and the next is tried. -/
theorem bootTry_append {f : Flash} {l : Ledger} {pre : List SlotId} (hp : ∀ y ∈ pre, ∃ e, accept (slotOf f y) l.floor l.pin = .error e)
    (n : Nat) (post : List SlotId) : ∃ m, SameBoot l m ∧ bootTry f l n (pre ++ post) = bootTry f m (n + pre.length) post := by
  induction pre generalizing l n with
  | nil => exact ⟨l, ⟨rfl, rfl, rfl⟩, rfl⟩
  | cons y pre ih =>
    obtain ⟨e, he⟩ := hp y (List.mem_cons_self ..)
    obtain ⟨cur, pin, floor⟩ := l.reject_same y e
    obtain ⟨m, ⟨cur', pin', floor'⟩, run⟩ := ih (l := l.reject y e) (fun z hz => by
      rw [floor, pin]
      exact hp z (List.mem_cons_of_mem _ hz)) (n + 1)
    refine ⟨m, ⟨cur'.trans cur, pin'.trans pin, floor'.trans floor⟩, ?_⟩
    rw [List.cons_append, bootTry, he, List.length_cons, show n + (pre.length + 1) = n + 1 + pre.length by omega]
    exact run

theorem bootTry_accepted {f : Flash} {l : Ledger} {x : SlotId} {g : Image} (h : accept (slotOf f x) l.floor l.pin = .ok g) (n : Nat)
    (post : List SlotId) : bootTry f l n (x :: post) = (l.bootFrom x g, some g, n) := by
  rw [bootTry, h]

theorem Ledger.bootFrom_booted (l : Ledger) (x : SlotId) (g : Image) : (l.bootFrom x g).booted = some x ∧
    (l.bootFrom x g).pin = if x = l.cur ∧ g.movesPin l.pin ≠ [] then g.movesPin l.pin else l.pin := by
  unfold Ledger.bootFrom
  by_cases hx : x = l.cur
  · rw [if_pos hx]
    refine ⟨rfl, ?_⟩
    show (if (g.movesPin l.pin).isEmpty then _ else _) = _
    cases hp : g.movesPin l.pin with
    | nil => simp
    | cons a r => simp [hx]
  · rw [if_neg hx, if_neg fun h => hx h.1]
    exact ⟨rfl, rfl⟩

/-! ### The row -/

/-- The state in which a choice's outcome `r` has been applied, and its events raised. -/
def State.chosen (s : State) (ops : List FlashOp) (abandoned : Bool) (r : Ledger × Option Image × Nat) : State :=
  (State.portsApply { s.flash ops with
    ledger := r.1, boot := { s.boot with octal := true, image := r.2.1, recovery := r.2.1.isNone }, pinsSet := r.2.1.isSome }).raiseAll
      ((if abandoned then [6] else []) ++ List.replicate r.2.2 5)

theorem exec_bootImageChoice {f : Flash} {s : State} (h : s.rst.stage = .e2) {r : Ledger × Option Image × Nat}
    (hr : bootTry f s.ledger.beginBoot.2.1 0 s.ledger.beginBoot.1 = r) : ∃ ops, exec (.bootImageChoice f) s =
      .next (if r.2.1.isNone then (s.chosen ops s.ledger.beginBoot.2.2 r).tryE4
        else { s.chosen ops s.ledger.beginBoot.2.2 r with rst := { (s.chosen ops s.ledger.beginBoot.2.2 r).rst with stage := .e3 } }) := by
  subst hr
  exact ⟨_, congrArg Host.Outcome.next (if_neg (not_not_intro h))⟩

theorem State.flash_eq (s : State) (ops : List FlashOp) : ∃ o, s.flash ops = { s with out := o } := by
  unfold State.flash
  induction ops generalizing s with
  | nil => exact ⟨s.out, rfl⟩
  | cons x ops ih =>
    obtain ⟨o, h⟩ := ih (s.emit (.flash x))
    exact ⟨o, h⟩

/-- What a choice leaves of the boot state, the ledger and the ports. -/
structure Chosen (s t : State) (r : Ledger × Option Image × Nat) : Prop where
  rst : t.rst = s.rst
  ledger : t.ledger = r.1
  image : t.boot.image = r.2.1
  recovery : t.boot.recovery = r.2.1.isNone
  rejected : r.2.2 ≠ 0 → t.flagged 5
  down : ∀ p : Port, (match r.2.1 with | some g => g.portOn p.val = false | none => p ≠ 0) → (t.ports[p]).linkUp = false

theorem State.chosen_spec (s : State) (ops : List FlashOp) (abandoned : Bool) (r : Ledger × Option Image × Nat) :
    Chosen s (s.chosen ops abandoned r) r := by
  obtain ⟨o, flash⟩ := s.flash_eq ops
  unfold State.chosen
  rw [flash]
  have only := fun (u : State) => State.raiseAll_events ((if abandoned then [6] else []) ++ List.replicate r.2.2 5) u
  constructor
  case rst => exact (only _).rst
  case ledger => exact (only _).ledger
  case image => exact congrArg Boot.image (only _).boot
  case recovery => exact congrArg Boot.recovery (only _).boot
  case rejected =>
    exact fun h => State.raiseAll_flagged (List.mem_append_right _ (List.mem_replicate.mpr ⟨h, rfl⟩)) (by decide) _
  case down =>
    intro p hp
    rw [(only _).linkUp p, State.portsApply, State.eachPort_port]
    cases hg : r.2.1 with
    | none =>
      rw [hg] at hp
      simp only [if_neg hp]
    | some g =>
      rw [hg] at hp
      simp only [hp, Bool.false_eq_true, if_false]

theorem exec_bootImageChoice_accepted {f : Flash} {s : State} {pre post : List SlotId} {x : SlotId} {g : Image} (h : s.rst.stage = .e2)
    (ho : s.ledger.beginBoot.1 = pre ++ x :: post) (hp : ∀ y ∈ pre, ∃ e, accept (slotOf f y) s.ledger.floor s.ledger.pin = .error e)
    (hx : accept (slotOf f x) s.ledger.floor s.ledger.pin = .ok g) :
    ∃ (t : State) (m : Ledger), exec (.bootImageChoice f) s = .next { t with rst := { t.rst with stage := .e3 } } ∧ SameBoot s.ledger m ∧
      Chosen s t (m.bootFrom x g, some g, pre.length) := by
  obtain ⟨cur, pin, floor⟩ := s.ledger.beginBoot_same
  obtain ⟨m, ⟨cur', pin', floor'⟩, tried⟩ := bootTry_append (l := s.ledger.beginBoot.2.1) (fun y hy => by rw [floor, pin]; exact hp y hy) 0 (x :: post)
  rw [← ho, bootTry_accepted (by rw [floor', floor, pin', pin]; exact hx), Nat.zero_add] at tried
  obtain ⟨ops, run⟩ := exec_bootImageChoice h tried
  exact ⟨_, m, run, ⟨cur'.trans cur, pin'.trans pin, floor'.trans floor⟩, s.chosen_spec ops _ _⟩

theorem exec_bootImageChoice_rejected {f : Flash} {s : State} (h : s.rst.stage = .e2)
    (hp : ∀ y, ∃ e, accept (slotOf f y) s.ledger.floor s.ledger.pin = .error e) :
    ∃ (t : State) (m : Ledger), exec (.bootImageChoice f) s = .next t.tryE4 ∧ Chosen s t ({ m with booted := none }, none, s.ledger.beginBoot.1.length) := by
  obtain ⟨cur, pin, floor⟩ := s.ledger.beginBoot_same
  obtain ⟨m, -, tried⟩ := bootTry_append (l := s.ledger.beginBoot.2.1) (pre := s.ledger.beginBoot.1)
    (fun y _ => by rw [floor, pin]; exact hp y) 0 []
  rw [List.append_nil, Nat.zero_add] at tried
  obtain ⟨ops, run⟩ := exec_bootImageChoice h tried
  exact ⟨_, m, run, s.chosen_spec ops _ _⟩

/-- Settles O25: the candidates before the one accepted are rejected in turn, and the outcome is applied to the ports. -/
theorem imageChosen : Obligations.ImageChosen := by
  intro f s h
  obtain ⟨all, head⟩ := s.ledger.beginBoot_candidates
  refine ⟨all, head, fun pre post x g ho hp hx => ?_, fun hp => ?_⟩
  · obtain ⟨t, m, run, ⟨cur, pin, -⟩, -, ledger, image, recovery, rejected, down⟩ := exec_bootImageChoice_accepted h ho hp hx
    obtain ⟨booted, moved⟩ := m.bootFrom_booted x g
    rw [cur, pin] at moved
    refine ⟨_, run, image, recovery, rfl, (congrArg Ledger.booted ledger).trans booted, (congrArg Ledger.pin ledger).trans moved, fun hne => ?_,
      fun p hp => down p hp⟩
    exact rejected (fun h0 => hne (List.length_eq_zero_iff.mp h0))
  · obtain ⟨t, m, run, -, ledger, image, recovery, rejected, down⟩ := exec_bootImageChoice_rejected h hp
    obtain ⟨g, v, exits, stage, -, -⟩ := tryE4_spec t
    rw [exits] at run
    refine ⟨_, run, image, recovery, stage, (congrArg Ledger.booted ledger), rejected (fun h0 => ?_), down 1 (show (1 : Port) ≠ 0 by decide)⟩
    exact List.not_mem_nil (List.length_eq_zero_iff.mp h0 ▸ all .a)

end Sys2Proof.Machine
end

section
/-!
PROOFS of the stages of an exit from reset after the image's choice (12, Table 12.3; 09, R288, R301; 11, R371; 12, R393, R395).
-/
namespace Sys2Proof.Machine

/-! ### The pools (R301) -/

/-- A raise leaves the pools of every die. -/
theorem EventsOnly.pools {s t : State} (h : EventsOnly s t) (d : DieId) : (t.dies[d]).pools = (s.dies[d]).pools := by
  rw [h.2.2.1 d]

/-- A pool in which every buffer is free. -/
def Pool.allFree (q : Pool) : Prop := q.bufs = [] ∧ q.waits = []

/-- POOL_BUILD replaces the pools of its die by free ones, and raises at most an event. -/
theorem State.buildPools_spec (s : State) (d : DieId) : ∃ (f : Fin 5 → Nat) (r : List Nat), EventsOnly
    (s.modDie d fun x => { x with pools := Vector.ofFn fun p : Fin 5 => { Pool.reset with count := f p }, builtRet := r }) (s.buildPools d) := by
  unfold State.buildPools
  extract_lets x ret want got s1
  refine ⟨fun p => got.getD p.val 0, ret, ?_⟩
  show EventsOnly s1 _
  split
  · exact EventsOnly.refl s1
  · exact State.raise_events ..

theorem State.buildPools_same (s : State) (d : DieId) (p : Fin 5) : (((s.buildPools d).dies[d]).pools[p]).allFree := by
  obtain ⟨f, r, only⟩ := s.buildPools_spec d
  rw [only.pools d, State.modDie_dies, vmod_get_self]
  show Pool.allFree (Vector.ofFn fun p : Fin 5 => { Pool.reset with count := f p })[p.val]
  rw [Vector.getElem_ofFn]
  exact ⟨rfl, rfl⟩

theorem State.buildPools_other (s : State) {d e : DieId} (h : e ≠ d) : ((s.buildPools d).dies[e]).pools = (s.dies[e]).pools := by
  obtain ⟨f, r, only⟩ := s.buildPools_spec d
  rw [only.pools e, State.modDie_dies, vmod_others _ _ _ e h]

theorem State.buildPools_all (s : State) (d : DieId) (p : Fin 5) : ((((s.buildPools 0).buildPools 1).dies[d]).pools[p]).allFree := by
  match d with
  | 0 =>
    rw [State.buildPools_other _ (by decide)]
    exact State.buildPools_same s 0 p
  | 1 => exact State.buildPools_same _ 1 p

/-! ### DEVICE_READY -/

theorem State.openIdle_eq (s : State) : ∃ v, s.openIdle = { s with stns := v } := by
  have each : ∀ (l : List Stn) (s : State), ∃ v, l.foldl (fun a st =>
      if (a.stns[st]).mount.isNone ∧ (a.stns[st]).mountCmd.isNone ∧ ((a.stns[st]).servo.motion = .tensioned ∨ (a.stns[st]).servo.closing)
        then a.openLoops st else a) s = { s with stns := v } := by
    intro l
    induction l with
    | nil => exact fun s => ⟨s.stns, rfl⟩
    | cons st l ih =>
      intro s
      rw [List.foldl_cons]
      split
      · obtain ⟨v, h⟩ := ih (s.openLoops st)
        exact ⟨v, h⟩
      · exact ih s
  exact each allStns s

/-- The state at DEVICE_READY before anything is reported: the image is applied, unless the package recovers, and READY is set. -/
def State.madeReady (s : State) : State :=
  { (if s.boot.recovery then s else s.applyImage.startTrial) with
    rst := { (if s.boot.recovery then s else s.applyImage.startTrial).rst with
      stage := if s.boot.recovery then .recovery else .ready, lastRst := s.rst.reach.code, wdogLast := Vector.replicate 2 s.clock } }

theorem exec_deviceReady {s : State} (h : s.rst.stage = .e4) (hd : s.rst.deferred = []) :
    exec .deviceReady s = .next (s.madeReady.raise 0).openIdle := by
  refine congrArg Host.Outcome.next ((if_neg (not_not_intro h)).trans ((if_pos ?_)))
  rw [hd]
  rfl

/-! ### The obligation -/

theorem exec_memoryReady {s : State} (h : s.rst.stage = .e3) :
    exec .memoryReady s = .next ((({ s with mem := [], ucieDown := false } : State).buildPools 0).buildPools 1).tryE4 :=
  congrArg Host.Outcome.next (if_neg (not_not_intro h))

/-- The port of a link that has come up. -/
def HostPort.trained (h : HostPort) (gen width : Nat) (msix : Option (BitVec 64)) : HostPort :=
  { h with linkUp := true, l1 := false, gen := gen, width := width, msixEn := msix.isSome, msixMask := msix.getD (BitVec.allOnes 64) }

theorem exec_portLinkTrained {p : Port} {gen width : Nat} {msix : Option (BitVec 64)} {g : Image} {s : State} (hm : s.mayTrain p = true)
    (hg : s.boot.image = some g) : ∃ r, exec (.portLinkTrained p gen width msix) s =
      .next { s.modPort p fun h => h.trained (min gen (g.linkMax p.val)) width msix with rst := r } := by
  show ∃ r, execPortLinkTrained p gen width msix s = _
  unfold execPortLinkTrained
  rw [if_neg (by rw [hm]; decide), hg]
  dsimp only
  split
  · exact ⟨_, rfl⟩
  · exact ⟨s.rst, rfl⟩

/-- Settles O26: each stage is one change of the package, and its events. -/
theorem exitStages : Obligations.ExitStages := by
  refine ⟨fun s h => congrArg Host.Outcome.next (if_pos h), fun s h => ?_, fun s h hd => ?_, fun p gen width msix g s hm hg => ?_⟩
  · have control := (State.buildPools_control (({ s with mem := [], ucieDown := false } : State).buildPools 0) 1).trans (State.buildPools_control ..)
    have pools := State.buildPools_all { s with mem := [], ucieDown := false }
    have run := exec_memoryReady h
    generalize (({ s with mem := [], ucieDown := false } : State).buildPools 0).buildPools 1 = u at control pools run
    obtain ⟨g, v, exits, stage, -, -⟩ := tryE4_spec u
    rw [exits] at run
    have mem : u.mem = [] := congrArg Control.mem control
    refine ⟨_, run, fun a => ?_, congrArg Control.ucieDown control, stage, pools⟩
    show Memory.read u.mem a = _
    rw [mem]
    rfl
  · have run := exec_deviceReady h hd
    have mem := s.deviceReady_keeps_mem
    have ledger := s.deviceReady_keeps_ledger
    have rst := (State.raise_events s.madeReady 0 0).rst
    have flag := State.raise_flagged s.madeReady 0 0 (by decide)
    have ready : s.deviceReady = (s.madeReady.raise 0).openIdle := Host.Outcome.next.inj run
    rw [ready] at mem ledger
    obtain ⟨v, idle⟩ := (s.madeReady.raise 0).openIdle_eq
    rw [idle] at run mem ledger
    refine ⟨_, run, congrArg ResetCtl.stage rst, congrArg ResetCtl.lastRst rst, flag, fun d => ?_, mem, ledger⟩
    show (s.madeReady.raise 0).rst.wdogLast[d] = s.clock
    rw [rst]
    exact Vector.getElem_replicate ..
  · obtain ⟨r, run⟩ := exec_portLinkTrained (gen := gen) (width := width) (msix := msix) hm hg
    have port : (s.modPort p fun h => h.trained (min gen (g.linkMax p.val)) width msix).ports[p] =
      (s.ports[p]).trained (min gen (g.linkMax p.val)) width msix := by rw [State.modPort_ports, vmod_get_self]
    exact ⟨_, run, congrArg HostPort.linkUp port, congrArg HostPort.gen port, congrArg HostPort.width port, congrArg HostPort.msixEn port,
      vmod_others _ _ _, rfl⟩

end Sys2Proof.Machine
end

section
/-!
PROOFS of completed ledger writes, of the chunks of a staged image, and of the end of a trial (11, R368, R374, R375; 08, R261; 09, R300).
-/
namespace Sys2Proof.Machine

theorem mem_joinRetired {dpn : Nat} {l : List Nat} (h : l.length < 2048) : dpn ∈ joinRetired dpn l := by
  unfold joinRetired
  split
  · next hc =>
    obtain hc | hl := hc
    · exact List.contains_iff_mem.mp hc
    · exact absurd h (Nat.not_lt.mpr hl)
  · exact List.mem_append_right _ (List.mem_singleton.mpr rfl)

/-- The ledger once the oldest write has completed. -/
theorem exec_ledgerWriteDone_written {s : State} {op : LedgerOp} {rest : List LedgerOp} (h : s.ledger.writing = op :: rest) :
    ∃ t, exec .ledgerWriteDone s = .next t ∧ t.ledger = { s.ledger with writing := rest }.written s.img.secVer op :=
  ⟨_, exec_ledgerWriteDone_cons h, State.ledgerDone_ledger ..⟩

section
variable {s : State} {x : Staging} {w : CmdRef} {ofs : Nat} {data back : List Byte} {last : Bool} {target : SlotRead}

/-- A chunk is read back: what it comes to, by whether it agrees and whether it is the last. -/
theorem exec_chunkReadBack (hx : s.boot.staging = some x) (hc : x.chunk = some (w, ofs, data, last)) :
    exec (.chunkReadBack back target) s = .next (
      if back ≠ data then { s with boot := { s.boot with staging := none } }.finish w { status := 0xF, reason := 14 }
      else if last then s.stageCheck x w (ofs + data.length) target
      else { s with boot := { s.boot with staging := some { x with chunk := none, total := x.total ++ data } } }.finish w (.ok 0)) := by
  show execChunkReadBack back target s = _
  unfold execChunkReadBack
  rw [hx]
  dsimp only
  rw [hc]

/-- A staged image that passes its checks waits for the ledger write that sets it pending. -/
theorem State.stageCheck_none (h : stagedReason target ofs s.ledger.floor s.ledger.pin = none) :
    s.stageCheck x w ofs target = { s with boot := { s.boot with staging := none },
                                           ledger := { s.ledger with writing := s.ledger.writing ++ [.stageTrial x.target w] } } := by
  unfold State.stageCheck
  dsimp only
  rw [h]

/-- One that does not is rejected with its reason, and event 5 is raised. -/
theorem State.stageCheck_some {n : Nat} (h : stagedReason target ofs s.ledger.floor s.ledger.pin = some n) :
    (s.stageCheck x w ofs target).boot.staging = none ∧ (s.stageCheck x w ofs target).flagged 5 ∧
      (s.stageCheck x w ofs target).ledger = { s.ledger with rejSlot := some x.target, rejReason := n } := by
  obtain ⟨o, flash⟩ := State.flash_eq { s with boot := { s.boot with staging := none },
                                               ledger := { s.ledger with rejSlot := some x.target, rejReason := n } } (eraseOps x.target 0)
  unfold State.stageCheck
  dsimp only
  rw [h]
  dsimp only
  rw [flash]
  refine ⟨?_, State.finish_flagged _ _ _ _ (State.raise_flagged _ _ _ (by decide)), ?_⟩
  · rw [show ∀ u : State, u.boot = u.control.boot from fun _ => rfl, State.finish_control, State.raise_control]
    rfl
  · rw [State.finish_keeps_ledger, State.raise_keeps_ledger]

end

theorem exec_trialWindowExpiry_of_running {s : State} (h : s.ledger.tstate = .running) : exec .trialWindowExpiry s =
    .next ({ s with ledger := { s.ledger with tstate := .expired }, boot := { s.boot with trialEnd := none } }.raise 7) :=
  congrArg Host.Outcome.next (if_neg (not_not_intro h))

/-- Settles O27: the ledger after a completed write, the three ends of a chunk's read back, and the end of a trial. -/
theorem ledgerAndStaging : Obligations.LedgerAndStaging := by
  refine ⟨fun rest s => ⟨fun st w h => ?_, fun d dpn w h hl => ?_, fun slot w h => ?_⟩, fun x w ofs data back last target s hx hc =>
    ⟨fun hb => ?_, fun hb hl => ?_, fun hb hl => ?_⟩, fun s h => ?_⟩
  · obtain ⟨t, run, ledger⟩ := exec_ledgerWriteDone_written h
    exact ⟨t, run, congrArg Ledger.volCnt ledger, congrArg Ledger.npfx ledger⟩
  · obtain ⟨t, run, ledger⟩ := exec_ledgerWriteDone_written h
    refine ⟨t, run, ?_, congrArg Ledger.writing ledger⟩
    rw [ledger]
    show dpn ∈ (vmod s.ledger.retired d (joinRetired dpn))[d]
    rw [vmod_get_self]
    exact mem_joinRetired hl
  · obtain ⟨t, run, ledger⟩ := exec_ledgerWriteDone_written h
    exact ⟨t, run, congrArg Ledger.trial ledger, congrArg Ledger.tstate ledger, congrArg Ledger.writing ledger,
      (congrArg Ledger.cur ledger).trans rfl, (congrArg Ledger.booted ledger).trans rfl⟩
  · rw [exec_chunkReadBack hx hc, if_pos hb]
  · rw [exec_chunkReadBack hx hc, if_neg (not_not_intro hb), hl]
    rfl
  · have run := exec_chunkReadBack (back := back) (target := target) hx hc
    rw [if_neg (not_not_intro hb), if_pos hl] at run
    cases hr : stagedReason target (ofs + data.length) s.ledger.floor s.ledger.pin with
    | none =>
      rw [State.stageCheck_none hr] at run
      exact ⟨_, run, rfl, fun n hn => (nomatch hn), fun _ => rfl⟩
    | some n =>
      obtain ⟨staging, flag, ledger⟩ := State.stageCheck_some (x := x) (w := w) hr
      refine ⟨_, run, staging, fun m hm => ?_, fun hn => (nomatch hn)⟩
      obtain rfl := Option.some.inj hm
      exact ⟨flag, congrArg Ledger.rejSlot ledger, congrArg Ledger.rejReason ledger, (congrArg Ledger.writing ledger).trans rfl⟩
  · have only := State.raise_events { s with ledger := { s.ledger with tstate := .expired }, boot := { s.boot with trialEnd := none } } 7 0
    exact ⟨_, exec_trialWindowExpiry_of_running h, only.ledger, congrArg Boot.trialEnd only.boot, State.raise_flagged _ _ _ (by decide)⟩

end Sys2Proof.Machine
end

section
/-!
PROOFS about the ends of host commands (10, R319, R320): what an ending changes, the completion that it leaves waiting, and the command that an
accepted entry becomes.
-/
namespace Sys2Proof.Machine

/-- `t` differs from `s` in its ports, in its dies and in what has left alone. -/
def PortsOnly (s t : State) : Prop := t = { s with ports := t.ports, dies := t.dies, out := t.out }

theorem PortsOnly.trans {s t u : State} (h : PortsOnly s t) (k : PortsOnly t u) : PortsOnly s u := by
  unfold PortsOnly at *
  rw [k, h]

theorem EventsOnly.portsOnly {s t : State} (h : EventsOnly s t) : PortsOnly s t := h.1

theorem State.modPort_portsOnly (s : State) (p : Port) (f : HostPort → HostPort) : PortsOnly s (s.modPort p f) := rfl

theorem State.modQp_portsOnly (s : State) (p : Port) (q : Nat) (f : Qp → Qp) : PortsOnly s (s.modQp p q f) := rfl

theorem State.take_portsOnly (s : State) (c : HostCmd) : PortsOnly s (s.take c) := s.take_rest c

theorem State.logErr_portsOnly (s : State) (p : Port) (e : CmdErr) : PortsOnly s (s.logErr p e) :=
  (State.modPort_portsOnly ..).trans (State.logErr_events s p e).portsOnly

theorem State.finishNew_portsOnly (s : State) (c : HostCmd) (f : Ending) : PortsOnly s (s.finishNew c f) := by
  unfold State.finishNew State.putDone
  dsimp only
  split
  · exact (State.logErr_portsOnly ..).trans (State.modQp_portsOnly ..)
  · exact State.modQp_portsOnly ..

theorem State.finish_portsOnly (s : State) (r : CmdRef) (f : Ending) : PortsOnly s (s.finish r f) := by
  unfold State.finish
  split
  · rfl
  · unfold State.putDone
    dsimp only
    split
    · exact ((State.modQp_portsOnly ..).trans (State.logErr_portsOnly ..)).trans (State.modQp_portsOnly ..)
    · exact (State.modQp_portsOnly ..).trans (State.modQp_portsOnly ..)

/-! ### The queue after an ending -/

/-- The completion of an ending. -/
def doneOf (e : Entry) (at_ : Nat) (f : Ending) (own : Bool) : Done :=
  { opc := e.opc, stn := e.stn, tag := e.tag, status := BitVec.ofNat 8 f.status, result := BitVec.ofNat 64 f.result,
    log := f.logged, final := false, at_ := at_, sqhd := none, len := e.dlen.toNat, kept := f.status == 0 || f.kept, locks := own }

theorem HostPort.qp_congr {g h : HostPort} (e : g.qps = h.qps) (q : Nat) : g.qp? q = h.qp? q := by
  unfold HostPort.qp?
  rw [e]

/-- An entry that fails a check leaves its completion as the last that waits on its queue. -/
theorem State.finishNew_qp (s : State) (c : HostCmd) (f : Ending) : ((s.finishNew c f).ports[c.port]).qp? c.qid =
    ((s.ports[c.port]).qp? c.qid).map fun x => { x with done := x.done ++ [doneOf c.entry s.clock f false] } := by
  have logged : ∀ (b : Bool) (e : CmdErr), ((if b then s.logErr c.port e else s).ports[c.port]).qp? c.qid = (s.ports[c.port]).qp? c.qid := fun b e => by
    cases b with
    | false => rfl
    | true => exact HostPort.qp_congr (State.logErr_qps ..) _
  unfold State.finishNew State.putDone
  rw [State.modQp_qp _ _ _ _ (by exact fun _ => rfl)]
  exact congrArg _ (logged f.logged _)

theorem State.finishNew_ended {s : State} {c : HostCmd} {x : Qp} (hq : (s.ports[c.port]).qp? c.qid = some x) (f : Ending) :
    (s.finishNew c f).ended (refOf c) f.status f.result := by
  refine ⟨{ x with done := x.done ++ [doneOf c.entry s.clock f false] }, doneOf c.entry s.clock f false, ?_, List.getLast?_concat .., rfl, rfl, rfl, rfl⟩
  exact (State.finishNew_qp s c f).trans (by rw [hq]; rfl)

/-- An outstanding command is found by its tag. -/
theorem State.cmd_tag {s : State} {r : CmdRef} {k : Cmd} (h : s.cmd? r = some k) : ∃ x, (s.ports[r.port]).qp? r.qid = some x ∧ k.entry.tag = r.tag := by
  unfold State.cmd? at h
  split at h
  · next x hx =>
    have found := List.find?_some (p := fun c : Cmd => c.entry.tag == r.tag) h
    exact ⟨x, hx, eq_of_beq found⟩
  · cases h

theorem State.finish_ended {s : State} {r : CmdRef} {k : Cmd} (h : s.cmd? r = some k) (f : Ending) : (s.finish r f).ended r f.status f.result := by
  obtain ⟨x, hx, tag⟩ := State.cmd_tag h
  have queue := State.finish_qp s r f k h
  rw [hx] at queue
  exact ⟨_, _, queue, List.getLast?_concat .., tag, rfl, rfl, rfl⟩

/-! ### The queues alone decide -/

/-- Whether a command has ended, or is outstanding, rests on the queues of its port. -/
theorem State.ended_congr {s t : State} {r : CmdRef} {a b : Nat} (h : (t.ports[r.port]).qps = (s.ports[r.port]).qps) (he : s.ended r a b) : t.ended r a b := by
  obtain ⟨x, d, hx, rest⟩ := he
  exact ⟨x, d, (HostPort.qp_congr h _).trans hx, rest⟩

theorem State.underWay_congr {s t : State} {r : CmdRef} {e : Entry} {ph : Phase} (h : (t.ports[r.port]).qps = (s.ports[r.port]).qps)
    (hu : s.underWay r e ph) : t.underWay r e ph := by
  obtain ⟨k, hk, rest⟩ := hu
  exact ⟨k, (State.cmd_congr r h).trans hk, rest⟩

/-! ### Accepted entries -/

section
variable {s : State} {opc : Nat} {c : HostCmd} {own : Option Ending}

/-- The queue of an accepted entry, once it is taken. -/
theorem State.accepts_taken (h : s.accepts opc c own) : ∃ x, ((s.take c).ports[c.port]).qp? c.qid = some x := by
  obtain ⟨x, hx, -⟩ := State.accepts_queue h
  exact ⟨_, (State.take_qp s c).trans (by rw [hx]; rfl)⟩

/-- An accepted entry that becomes a command in phase `ph`. -/
theorem State.accepts_underWay (h : s.accepts opc c own) (k : Cmd) (hk : k.entry = c.entry) :
    ((s.take c).addCmd c k).underWay (refOf c) c.entry k.phase :=
  ⟨k, State.taken_cmd s opc c own k h hk, hk, rfl⟩

/-- An accepted entry that ends at once. -/
theorem State.accepts_ended (h : s.accepts opc c own) (k : Cmd) (hk : k.entry = c.entry) (f : Ending) :
    (((s.take c).addCmd c k).finish (refOf c) f).ended (refOf c) f.status f.result :=
  State.finish_ended (State.taken_cmd s opc c own k h hk) f

end

end Sys2Proof.Machine
end

section
/-!
PROOFS of what every host command does before its own effect (10, R320, R342, R469), and of the LON that a failing FIRST keeps (R337, R470).
-/
namespace Sys2Proof.Machine

/-! ### The common part of the host rows -/

section
variable {s : State} {opc : Nat} {c : HostCmd} {own : State → Option Ending} {blocked : State → Option Hold} {run : State → State}

theorem State.host_of_outOfTurn (h : s.atTurn c = false) : s.host opc c own blocked run = s := by
  unfold State.host
  rw [h]
  rfl

theorem State.host_of_fence (h : s.atTurn c = true) (hf : s.fenceHolds c = true) : s.host opc c own blocked run = s.hold c .fence := by
  unfold State.host
  rw [h, hf]
  rfl

theorem State.host_of_check {f : Ending} (h : s.atTurn c = true) (hf : s.fenceHolds c = false) (hc : s.checks opc c = some f) :
    s.host opc c own blocked run = (s.take c).finishNew c f := by
  unfold State.host
  rw [h, hf, hc]
  rfl

end

/-- Every host row but APPEND is the common part with an effect of its own. -/
theorem exec_hostRow {i : Instr} {opc : Nat} {c : HostCmd} (h : i.hostRow = some (opc, c)) (hn : ∀ d, i ≠ .append d) :
    opc ≠ 1 ∧ ∃ own blocked run, ∀ s, exec i s = .next (State.host s opc c own blocked run) := by
  cases i with
  | append d => exact absurd rfl (hn d)
  | _ => cases h <;> exact ⟨by decide, _, _, _, fun _ => rfl⟩

/-- The checks of R469 give an ending with a status and nothing more. -/
theorem State.checks_result {s : State} {opc : Nat} {c : HostCmd} {f : Ending} (h : s.checks opc c = some f) : f.result = 0 := by
  unfold State.checks at h
  cases hk : cmdSpec opc with
  | none =>
    rw [hk] at h
    cases h
    rfl
  | some k =>
    rw [hk] at h
    dsimp only at h
    repeat' split at h
    all_goals cases h <;> rfl

/-- A port that looks at an entry has its queue. -/
theorem State.atTurn_queue {s : State} {c : HostCmd} (h : s.atTurn c = true) : ∃ x, (s.ports[c.port]).qp? c.qid = some x := by
  unfold State.atTurn at h
  simp only [Bool.and_eq_true] at h
  obtain ⟨⟨⟨-, waits⟩, -⟩, -⟩ := h
  cases hx : (s.ports[c.port]).qp? c.qid with
  | some x => exact ⟨x, rfl⟩
  | none =>
    rw [hx] at waits
    cases waits

/-- What ends an entry that fails a check: it is taken, and its completion waits; its queue has no other command than before. -/
structure TakenAndEnded (s t : State) (c : HostCmd) (f : Ending) : Prop where
  rest : PortsOnly s t
  ended : t.ended (refOf c) f.status f.result
  queue : ∃ x y, (s.ports[c.port]).qp? c.qid = some x ∧ (t.ports[c.port]).qp? c.qid = some y ∧ y.sqHead = (x.sqHead + 1) % x.depth ∧ y.cmds = x.cmds

theorem State.take_finishNew {s : State} {c : HostCmd} (h : s.atTurn c = true) (f : Ending) : TakenAndEnded s ((s.take c).finishNew c f) c f := by
  obtain ⟨x, hx⟩ := State.atTurn_queue h
  have taken := State.take_qp s c
  rw [hx] at taken
  have ended := State.finishNew_qp (s.take c) c f
  rw [taken] at ended
  exact ⟨(State.take_portsOnly s c).trans (State.finishNew_portsOnly ..), State.finishNew_ended taken f, x, _, hx, ended, rfl, rfl⟩

/-! ### APPEND -/

section
variable {s : State} {c : HostCmd}

theorem State.startsRecord_turn (h : s.startsRecord c = true) : s.atTurn c = true ∧ s.fenceHolds c = false := by
  unfold State.startsRecord at h
  simp only [Bool.and_eq_true, Bool.not_eq_true'] at h
  obtain ⟨⟨⟨⟨⟨turn, fence⟩, -⟩, -⟩, -⟩, -⟩ := h
  exact ⟨turn, fence⟩

theorem State.startsRecord_of_atLonLimit (h : s.atLonLimit c = true) : s.startsRecord c = true ∧ s.checks 1 c = none := by
  unfold State.atLonLimit at h
  simp only [Bool.and_eq_true, Option.isNone_iff_eq_none] at h
  exact h.1

theorem State.startsRecord_of_firstBecomesGap (h : s.firstBecomesGap c = true) : s.startsRecord c = true := by
  unfold State.firstBecomesGap at h
  simp only [Bool.and_eq_true] at h
  exact h.1.1.1.1

/-- Below the limit of R272 an APPEND is the common part, after which a FIRST that failed keeps its LON. -/
theorem exec_append_of_below (h : s.atLonLimit c = false) :
    exec (.append c) s = .next (if s.firstBecomesGap c then (s.host 0x01 c (appendOwn c) (appendBlocked c) (State.runAppend c)).gapLon c
      else s.host 0x01 c (appendOwn c) (appendBlocked c) (State.runAppend c)) := by
  refine congrArg Host.Outcome.next (if_neg ?_)
  rw [h]
  exact Bool.noConfusion

theorem exec_append_of_noRecord (h : s.startsRecord c = false) :
    exec (.append c) s = .next (s.host 0x01 c (appendOwn c) (appendBlocked c) (State.runAppend c)) := by
  have below : s.atLonLimit c = false := Bool.eq_false_iff.mpr fun hl => by
    rw [(State.startsRecord_of_atLonLimit hl).1] at h
    cases h
  have noGap : s.firstBecomesGap c = false := Bool.eq_false_iff.mpr fun hg => by
    rw [State.startsRecord_of_firstBecomesGap hg] at h
    cases h
  rw [exec_append_of_below below, noGap]
  rfl

end

/-- A LON that is kept as a gap changes the station's volume context alone. -/
theorem State.gapLon_eq (s : State) (c : HostCmd) : ∃ v, s.gapLon c = { s with stns := v } := ⟨_, rfl⟩

/-- Settles O28: the common part of the host rows, and for APPEND what it adds. -/
theorem hostChecks : Obligations.HostChecks := by
  intro i opc c s hi
  by_cases hn : ∀ d, i ≠ .append d
  · obtain ⟨opcode, own, blocked, run, row⟩ := exec_hostRow hi hn
    refine ⟨fun h => ?_, fun h hf => ?_, fun f h hf hc => ?_⟩
    · rw [row, State.host_of_outOfTurn h]
    · rw [row, State.host_of_fence h hf]
    · obtain ⟨rest, ended, queue⟩ := State.take_finishNew h f
      rw [State.checks_result hc] at ended
      refine ⟨_, (row s).trans (congrArg Host.Outcome.next (State.host_of_check h hf hc)), ?_, ended, queue⟩
      rw [if_neg fun hg => opcode hg.1]
      exact rest
  · obtain ⟨d, hd⟩ := not_forall_not.mp hn
    subst hd
    cases hi
    refine ⟨fun h => ?_, fun h hf => ?_, fun f h hf hc => ?_⟩
    · rw [exec_append_of_noRecord (Bool.eq_false_iff.mpr fun hs => by rw [(State.startsRecord_turn hs).1] at h; cases h), State.host_of_outOfTurn h]
    · rw [exec_append_of_noRecord (Bool.eq_false_iff.mpr fun hs => by rw [(State.startsRecord_turn hs).2] at hf; cases hf), State.host_of_fence h hf]
    · have below : s.atLonLimit c = false := Bool.eq_false_iff.mpr fun hl => by
        rw [(State.startsRecord_of_atLonLimit hl).2] at hc
        cases hc
      obtain ⟨rest, ended, queue⟩ := State.take_finishNew h f
      rw [State.checks_result hc] at ended
      have run := exec_append_of_below below
      rw [State.host_of_check h hf hc] at run
      generalize (s.take c).finishNew c f = u at run rest ended queue
      cases hg : s.firstBecomesGap c with
      | false =>
        rw [hg] at run
        refine ⟨u, run, ?_, ended, queue⟩
        rw [if_neg fun h => Bool.noConfusion h.2]
        exact rest
      | true =>
        rw [hg] at run
        refine ⟨u.gapLon c, run, ?_, ended, queue⟩
        rw [if_pos ⟨rfl, rfl⟩]
        unfold PortsOnly at rest
        rw [rest]
        rfl

end Sys2Proof.Machine
end

section
/-!
PROOFS of the monitors (13, R419): a running slot of a corrected-read source takes no MONITOR_SAMPLE.
-/
namespace Sys2Proof.Machine

/-- A slot of class 0x0B is fed by the corrected reads themselves (R293), and a sample from outside does nothing to it. -/
theorem exec_monitorSample_of_corrected {s : State} {d : DieId} {k : Fin 64} {v : BitVec 32} (h : srcClass ((s.dies[d]).monitors[k]).source = 0x0B) :
    exec (.monitorSample d k v) s = .next s :=
  congrArg Host.Outcome.next (if_pos (.inr h))

/-- A slot that runs on corrected reads. -/
def correctedSlot : MonSlot := { MonSlot.reset with run := true, source := 0x0B000000 }

/-- A package in which every slot runs on corrected reads. -/
def correctedPackage : State :=
  { State.reset with dies := Vector.replicate 2 { Die.reset with monitors := Vector.replicate 64 correctedSlot } }

/-- Refutes O31: a running slot whose source is class 0x0B counts no sample of MONITOR_SAMPLE, and the statement does not except it. -/
theorem not_monitors : ¬ Obligations.Monitors := by
  rintro ⟨-, samples⟩
  obtain ⟨-, running⟩ := samples correctedPackage 0 0 0
  obtain ⟨t, run, count, -⟩ := running rfl
  rw [exec_monitorSample_of_corrected rfl] at run
  cases run
  cases count

end Sys2Proof.Machine
end

section
/-!
PROOFS about the queue pairs of both ports while commands end: a queue stays, and one without outstanding commands is not touched.
-/
namespace Sys2Proof.Machine

/-- A queue of which nothing but its commands, its completions and its keys differs. -/
def Qp.SameRegs (x y : Qp) : Prop := y = { x with cmds := y.cmds, done := y.done, keys := y.keys }

theorem Qp.SameRegs.trans {x y z : Qp} (h : x.SameRegs y) (k : y.SameRegs z) : x.SameRegs z := by
  unfold Qp.SameRegs at *
  rw [k, h]

/-- Every queue of `s` is a queue of `t` with the same registers, and one without outstanding commands is as it was. -/
structure QpsKept (s t : State) : Prop where
  regs : ∀ (p : Port) (q : Nat) (x : Qp), (s.ports[p]).qp? q = some x → ∃ y, (t.ports[p]).qp? q = some y ∧ x.SameRegs y
  stays : ∀ (p : Port) (q : Nat), ((t.ports[p]).qp? q).isSome = ((s.ports[p]).qp? q).isSome
  idle : ∀ (p : Port) (q : Nat) (x : Qp), (s.ports[p]).qp? q = some x → x.cmds = [] → (t.ports[p]).qp? q = some x

theorem QpsKept.refl (s : State) : QpsKept s s := ⟨fun _ _ x h => ⟨x, h, rfl⟩, fun _ _ => rfl, fun _ _ _ h _ => h⟩

theorem QpsKept.trans {s t u : State} (h : QpsKept s t) (k : QpsKept t u) : QpsKept s u :=
  ⟨fun p q x hx => by
    obtain ⟨y, hy, same⟩ := h.regs p q x hx
    obtain ⟨z, hz, too⟩ := k.regs p q y hy
    exact ⟨z, hz, same.trans too⟩,
   fun p q => (k.stays p q).trans (h.stays p q), fun p q x hx hc => k.idle p q x (h.idle p q x hx hc) hc⟩

theorem QpsKept.of_qps {s t : State} (h : ∀ p : Port, (t.ports[p]).qps = (s.ports[p]).qps) : QpsKept s t :=
  ⟨fun p q x hx => ⟨x, (HostPort.qp_congr (h p) q).trans hx, rfl⟩, fun p q => by rw [HostPort.qp_congr (h p)], fun p q x hx _ => (HostPort.qp_congr (h p) q).trans hx⟩

/-- The queues are part of the service state. -/
theorem qps_of_service {s t : State} (h : t.service = s.service) (p : Port) : (t.ports[p]).qps = (s.ports[p]).qps := by
  have ports : t.ports.map HostPort.service = s.ports.map HostPort.service := congrArg Service.ports h
  have port : (t.ports.map HostPort.service)[p.val] = (s.ports.map HostPort.service)[p.val] := by rw [ports]
  rw [Vector.getElem_map, Vector.getElem_map] at port
  exact congrArg PortService.qps port

theorem QpsKept.of_service {s t : State} (h : t.service = s.service) : QpsKept s t :=
  QpsKept.of_qps (qps_of_service h)

/-- A change of one queue that keeps its number, and keeps it whole where no command is outstanding. -/
theorem State.modQp_qpsKept (s : State) (p : Port) (q : Nat) (f : Qp → Qp) (hid : ∀ x : Qp, x.SameRegs (f x))
    (hf : ∀ x, (s.ports[p]).qp? q = some x → x.cmds = [] → f x = x) : QpsKept s (s.modQp p q f) := by
  have hid' : ∀ x, (f x).id = x.id := fun x => by rw [hid x]
  refine ⟨fun p' q' x hx => ?_, fun p' q' => ?_, fun p' q' x hx hc => ?_⟩
  · by_cases hp : p' = p
    · subst hp
      by_cases hq : q' = q
      · subst hq
        exact ⟨f x, (State.modQp_qp _ _ _ _ hid').trans (by rw [hx]; rfl), hid x⟩
      · exact ⟨x, (State.modQp_other _ _ _ _ _ hid' hq).trans hx, rfl⟩
    · exact ⟨x, by rw [State.modQp_port _ _ _ _ _ hp, hx], rfl⟩
  · by_cases hp : p' = p
    · subst hp
      by_cases hq : q' = q
      · subst hq
        rw [State.modQp_qp _ _ _ _ hid', Option.isSome_map]
      · rw [State.modQp_other _ _ _ _ _ hid' hq]
    · rw [State.modQp_port _ _ _ _ _ hp]
  · by_cases hp : p' = p
    · subst hp
      by_cases hq : q' = q
      · subst hq
        rw [State.modQp_qp _ _ _ _ hid', hx, Option.map_some, hf x hx hc]
      · rw [State.modQp_other _ _ _ _ _ hid' hq, hx]
    · rw [State.modQp_port _ _ _ _ _ hp, hx]

theorem State.modCmd_qpsKept (s : State) (r : CmdRef) (f : Cmd → Cmd) : QpsKept s (s.modCmd r f) :=
  State.modQp_qpsKept s _ _ _ (by exact fun _ => rfl) fun x _ hc => by
    rw [hc]
    show { x with cmds := [] } = x
    rw [← hc]

theorem State.logErr_qpsKept (s : State) (p : Port) (e : CmdErr) : QpsKept s (s.logErr p e) :=
  QpsKept.of_qps fun p' => State.logErr_qps s p p' e

/-- A queue that has an outstanding command. -/
theorem State.cmds_ne_nil_of_cmd {s : State} {r : CmdRef} {k : Cmd} {x : Qp} (h : s.cmd? r = some k)
    (hx : (s.ports[r.port]).qp? r.qid = some x) : x.cmds ≠ [] := by
  intro hc
  unfold State.cmd? at h
  rw [hx] at h
  dsimp only at h
  rw [hc] at h
  cases h

/-- A queue of a port after a command's end: the one that the command was on, or as it was. -/
theorem State.finish_other (s : State) (r : CmdRef) (f : Ending) (p : Port) (q : Nat) (h : p ≠ r.port ∨ q ≠ r.qid) :
    ((s.finish r f).ports[p]).qp? q = (s.ports[p]).qp? q := by
  have modified : ∀ (u : State) (g : Qp → Qp), (∀ x, (g x).id = x.id) → ((u.modQp r.port r.qid g).ports[p]).qp? q = (u.ports[p]).qp? q := by
    intro u g hg
    by_cases hp : p = r.port
    · subst hp
      rw [State.modQp_other _ _ _ _ _ hg (h.resolve_left (not_not_intro rfl))]
    · rw [State.modQp_port _ _ _ _ _ hp]
  unfold State.finish
  split
  · rfl
  · unfold State.putDone
    dsimp only
    refine (modified _ _ (by exact fun _ => rfl)).trans ?_
    split
    · exact (HostPort.qp_congr (State.logErr_qps ..) q).trans (modified _ _ (by exact fun _ => rfl))
    · exact modified _ _ (by exact fun _ => rfl)

theorem State.finish_none {s : State} {r : CmdRef} (h : s.cmd? r = none) (f : Ending) : s.finish r f = s := by
  unfold State.finish
  rw [h]

theorem State.finish_qpsKept (s : State) (r : CmdRef) (f : Ending) : QpsKept s (s.finish r f) := by
  cases h : s.cmd? r with
  | none =>
    rw [State.finish_none h]
    exact QpsKept.refl s
  | some k =>
    refine ⟨fun p q x hx => ?_, fun p q => ?_, fun p q x hx hc => ?_⟩
    · by_cases hr : p = r.port ∧ q = r.qid
      · obtain ⟨rfl, rfl⟩ := hr
        have queue := State.finish_qp s r f k h
        rw [hx] at queue
        exact ⟨_, queue, rfl⟩
      · exact ⟨x, by rw [State.finish_other s r f p q (not_and_or.mp hr), hx], rfl⟩
    · by_cases hr : p = r.port ∧ q = r.qid
      · obtain ⟨rfl, rfl⟩ := hr
        rw [State.finish_qp s r f k h, Option.isSome_map]
      · rw [State.finish_other s r f p q (not_and_or.mp hr)]
    · by_cases hr : p = r.port ∧ q = r.qid
      · obtain ⟨rfl, rfl⟩ := hr
        exact absurd hc (State.cmds_ne_nil_of_cmd h hx)
      · rw [State.finish_other s r f p q (not_and_or.mp hr), hx]

theorem State.finishAll_qpsKept (s : State) (l : List CmdRef) (f : Ending) : QpsKept s (s.finishAll l f) := by
  unfold State.finishAll
  induction l generalizing s with
  | nil => exact QpsKept.refl s
  | cons r l ih => exact (State.finish_qpsKept s r f).trans (ih _)

theorem State.finishWith_qpsKept (s : State) (r : CmdRef) (f : Ending) (buf : List Byte) : QpsKept s (s.finishWith r f buf) := by
  unfold State.finishWith
  split
  · exact QpsKept.refl s
  · split
    · exact (QpsKept.of_service (State.sendResult_service ..)).trans (State.finish_qpsKept ..)
    · exact (QpsKept.of_service (State.sendResult_service ..)).trans (State.finish_qpsKept ..)

end Sys2Proof.Machine
end

section
/-!
PROOFS of the self-tests (10, R353 to R355).
-/
namespace Sys2Proof.Machine

/-! ### A command that is launched -/

theorem unblocked_eq (s : State) : unblocked s = none := rfl

/-- Whether a command waits for the exit to P0 rests on the power state. -/
theorem State.mustWake_congr {s t : State} (h : t.power = s.power) (opc : Nat) : t.mustWake opc = s.mustWake opc := by
  unfold State.mustWake
  rw [h]

theorem PortsOnly.power {s t : State} (h : PortsOnly s t) : t.power = s.power := by
  rw [h]

/-- A wake changes the power state, and lets the links out of their quiet; the queues stay. -/
theorem State.wakeFor_qps (s : State) (r : CmdRef) (p : Port) : ((s.wakeFor r).ports[p]).qps = (s.ports[p]).qps := by
  unfold State.wakeFor
  dsimp only
  split
  · rfl
  · exact qps_of_service (State.leaveQuiet_service ..) p

theorem test_of_service {s t : State} (h : t.service = s.service) : t.test = s.test :=
  congrArg Service.test h

theorem State.leaveQuiet_test (s : State) : s.leaveQuiet.test = s.test :=
  test_of_service (State.leaveQuiet_service s)

/-- A wake leaves the self-test alone. -/
theorem State.wakeFor_test (s : State) (r : CmdRef) : (s.wakeFor r).test = s.test := by
  unfold State.wakeFor
  dsimp only
  split
  · rfl
  · rw [State.leaveQuiet_test]

section
variable {s : State} {opc : Nat} {c : HostCmd} {own : Option Ending}

theorem State.accepts_opc (h : s.accepts opc c own) : c.entry.opc.toNat = opc := by
  obtain ⟨-, -, -, ho⟩ := State.accepts_queue h
  exact ho

/-- An accepted entry that must wait for the exit to P0 is outstanding in phase queued. -/
theorem State.launch_waits {u : State} {k : Cmd} {go : CmdRef → State → State} (hw : u.mustWake c.entry.opc.toNat = true) :
    u.launch c k go = (u.addCmd c { k with phase := .queued }).wakeFor (refOf c) := if_pos hw

theorem State.launch_goes {u : State} {k : Cmd} {go : CmdRef → State → State} (hw : u.mustWake c.entry.opc.toNat = false) :
    u.launch c k go = go (refOf c) (u.addCmd c k) := if_neg (by rw [hw]; exact Bool.noConfusion)

/-- What an accepted entry that needs no exit to P0 comes to. -/
theorem State.taken_mustWake (h : s.accepts opc c own) : (s.take c).mustWake c.entry.opc.toNat = s.mustWake opc := by
  rw [State.accepts_opc h]
  exact State.mustWake_congr (State.take_portsOnly s c).power opc

end

/-! ### The running test -/

/-- The parts of a test's report. -/
def State.testParts (s : State) (x : TestRun) (parts : List TestPart) : List TestPart :=
  (testEntries x.kind).map fun e => s.untouched x (partOf parts e)

/-- The status with which a test ends, by its outcome and by how many parts failed. -/
def testStatus (outcome fail : Nat) : Nat :=
  if (if outcome = 0 ∧ fail ≠ 0 then 1 else outcome) = 0 then 0
  else if (if outcome = 0 ∧ fail ≠ 0 then 1 else outcome) = 1 then 0xC else 0x11

section
variable {s : State} {x : TestRun} {parts : List TestPart} {outcome : Nat}

theorem State.testEnds_none (h : s.test = none) : s.testEnds outcome parts = s := by
  unfold State.testEnds
  rw [h]

/-- The test that runs ends with its counts and its report. -/
theorem State.testEnds_some (h : s.test = some x) : ∃ report, s.testEnds outcome parts = ({ s with test := none } : State).finishWith x.cmd
    { status := testStatus outcome ((s.testParts x parts).filter fun y => y.state == 2).length
      result := ((s.testParts x parts).filter fun y => y.state != 0).length + 256 * ((s.testParts x parts).filter fun y => y.state == 2).length } report := by
  unfold State.testEnds
  rw [h]
  exact ⟨_, rfl⟩

theorem State.finishWith_portsOnly (s : State) (r : CmdRef) (f : Ending) (buf : List Byte) : PortsOnly s (s.finishWith r f buf) := by
  have sent : ∀ (k : Cmd) (ep : Bool), PortsOnly s (s.sendResult r.port k.entry buf ep) := fun k ep => by
    unfold State.sendResult
    split <;> rfl
  unfold State.finishWith
  split
  · rfl
  · split
    · exact (sent ..).trans (State.finish_portsOnly ..)
    · exact (sent ..).trans (State.finish_portsOnly ..)

theorem PortsOnly.test {s t : State} (h : PortsOnly s t) : t.test = s.test := by
  rw [h]

theorem State.testEnds_test : (s.testEnds outcome parts).test = none := by
  cases h : s.test with
  | none => rw [State.testEnds_none h, h]
  | some x =>
    obtain ⟨report, ends⟩ := State.testEnds_some (outcome := outcome) (parts := parts) h
    rw [ends, (State.finishWith_portsOnly ..).test]

theorem State.testEnds_qpsKept : QpsKept s (s.testEnds outcome parts) := by
  cases h : s.test with
  | none =>
    rw [State.testEnds_none h]
    exact QpsKept.refl s
  | some x =>
    obtain ⟨report, ends⟩ := State.testEnds_some (outcome := outcome) (parts := parts) h
    rw [ends]
    exact (QpsKept.of_qps (s := s) (t := { s with test := none }) fun _ => rfl).trans (State.finishWith_qpsKept ..)

/-- A command with a result buffer that is not poisoned ends with the status it was given. -/
theorem State.finishWith_ended {r : CmdRef} {k : Cmd} {f : Ending} {buf : List Byte} (h : s.cmd? r = some k) (hp : k.poisoned = false ∨ k.entry.rptr = 0) :
    (s.finishWith r f buf).ended r f.status f.result := by
  have sent : (s.sendResult r.port k.entry buf).cmd? r = some k := by
    rw [State.cmd_congr (s := s) r (qps_of_service (State.sendResult_service ..) r.port), h]
  have clean : ¬ ((k.poisoned && k.entry.rptr ≠ 0) = true) := by
    obtain hp | hp := hp
    · rw [hp]
      exact Bool.noConfusion
    · rw [hp]
      simp
  unfold State.finishWith
  rw [h]
  dsimp only
  rw [if_neg clean]
  exact State.finish_ended sent f

theorem State.testEnds_ended {k : Cmd} (h : s.test = some x) (hk : s.cmd? x.cmd = some k) (hp : k.poisoned = false ∨ k.entry.rptr = 0) :
    (s.testEnds outcome parts).ended x.cmd (testStatus outcome ((s.testParts x parts).filter fun y => y.state == 2).length)
      (((s.testParts x parts).filter fun y => y.state != 0).length + 256 * ((s.testParts x parts).filter fun y => y.state == 2).length) := by
  obtain ⟨report, ends⟩ := State.testEnds_some (outcome := outcome) (parts := parts) h
  rw [ends]
  exact State.finishWith_ended (s := { s with test := none }) hk hp

end

/-! ### The row -/

section
variable {s : State} {c : HostCmd} {parts : List TestPart}

theorem exec_selfTest_accepted (h : s.accepts 0x88 c (testOwn c s)) : exec (.selfTest c parts) s = .next ((s.take c).runTest c parts) :=
  congrArg Host.Outcome.next (State.host_run s 0x88 c (testOwn c) unblocked _ h rfl)

theorem State.runTest_abort {u : State} {x : Qp} (hk : c.entry.cd 0 1 = 0xF) (hq : (u.ports[c.port]).qp? c.qid = some x) :
    (u.runTest c parts).test = none ∧ (u.runTest c parts).ended (refOf c) 0 0 := by
  have run : u.runTest c parts = (u.testEnds 3 parts).finishNew c (.ok 0) := if_pos hk
  have stays := (State.testEnds_qpsKept (s := u) (outcome := 3) (parts := parts)).stays c.port c.qid
  rw [hq] at stays
  obtain ⟨y, hy⟩ := Option.isSome_iff_exists.mp stays
  rw [run]
  exact ⟨(State.finishNew_portsOnly ..).test.trans State.testEnds_test, State.finishNew_ended hy (.ok 0)⟩

/-- A test that starts: its record, and its command. -/
theorem State.runTest_start (h : s.accepts 0x88 c (testOwn c s)) (hk : c.entry.cd 0 1 ≠ 0xF) :
    ((s.take c).runTest c parts).test = some ⟨c.entry.cd 0 1, refOf c, c.entry.rptr, (s.take c).clock, (s.take c).mountsHeld, (s.take c).buffersHeld⟩ ∧
      ((s.take c).runTest c parts).underWay (refOf c) c.entry (if s.mustWake 0x88 then .queued else .moving) := by
  have run : (s.take c).runTest c parts = ({ s.take c with
      test := some ⟨c.entry.cd 0 1, refOf c, c.entry.rptr, (s.take c).clock, (s.take c).mountsHeld, (s.take c).buffersHeld⟩ } : State).launch c
        (Cmd.start c (s.take c).clock .moving) (fun _ s => s) := if_neg hk
  have wake := State.taken_mustWake h
  rw [run]
  cases hw : s.mustWake 0x88 with
  | true =>
    rw [State.launch_waits (u := { s.take c with test := some _ }) (wake.trans hw)]
    refine ⟨State.wakeFor_test .., State.underWay_congr (State.wakeFor_qps ..) ?_⟩
    exact State.accepts_underWay h { Cmd.start c (s.take c).clock .moving with phase := .queued } rfl
  | false =>
    rw [State.launch_goes (u := { s.take c with test := some _ }) (wake.trans hw)]
    exact ⟨rfl, State.accepts_underWay h (Cmd.start c (s.take c).clock .moving) rfl⟩

/-- Taking an entry leaves the mounts, the buffers and the clock. -/
theorem State.take_held (s : State) (c : HostCmd) :
    (s.take c).clock = s.clock ∧ (s.take c).mountsHeld = s.mountsHeld ∧ (s.take c).buffersHeld = s.buffersHeld := by
  have rest := State.take_rest s c
  refine ⟨by rw [rest], ?_, ?_⟩
  · unfold State.mountsHeld
    rw [rest]
  · have pools : ∀ d : DieId, ((s.take c).dies[d]).pools = (s.dies[d]).pools := (State.take_events s c).pools
    unfold State.buffersHeld State.poolHeld
    simp only [pools]

end

theorem testStatus_eq (outcome fail : Nat) (h : outcome = 0 ∨ outcome = 2) :
    testStatus outcome fail = if outcome = 2 then 0x11 else if fail = 0 then 0 else 0x0C := by
  unfold testStatus
  obtain rfl | rfl := h
  · by_cases hf : fail = 0
    · simp [hf]
    · simp [hf]
  · simp

/-- Settles O33: the start of a test is its record and its command, and each of its ends is its command's end with the counts of its parts. -/
theorem selfTests : Obligations.SelfTests := by
  refine fun s => ⟨fun c parts h => ⟨_, exec_selfTest_accepted h, ?_⟩, fun i parts x k hi hx hk hp => ?_, fun h parts => ?_⟩
  · split
    · next kind =>
      obtain ⟨x, hq⟩ := State.accepts_taken h
      exact State.runTest_abort kind hq
    · next kind =>
      obtain ⟨clock, mounts, buffers⟩ := s.take_held c
      have start := State.runTest_start (parts := parts) h kind
      rw [clock, mounts, buffers] at start
      exact start
  · have ends := fun outcome => State.testEnds_ended (outcome := outcome) (parts := parts) hx hk hp
    obtain rfl | rfl := hi
    · have ended := ends 0
      rw [testStatus_eq 0 _ (.inl rfl), if_neg (by decide)] at ended
      refine ⟨_, rfl, State.testEnds_test, ?_⟩
      rw [if_neg nofun]
      exact ended
    · have ended := ends 2
      rw [testStatus_eq 2 _ (.inr rfl), if_pos rfl] at ended
      refine ⟨_, rfl, State.testEnds_test, ?_⟩
      rw [if_pos rfl]
      exact ended
  · exact ⟨congrArg Host.Outcome.next (State.testEnds_none h), congrArg Host.Outcome.next (State.testEnds_none h)⟩

end Sys2Proof.Machine
end

section
/-!
PROOFS of IMAGE_STAGE, IMAGE_CONFIRM and RETIRE_PAGE (11, R373 to R376; 09, R300).
-/
namespace Sys2Proof.Machine

theorem PortsOnly.ledger {s t : State} (h : PortsOnly s t) : t.ledger = s.ledger := by
  rw [h]

theorem PortsOnly.boot {s t : State} (h : PortsOnly s t) : t.boot = s.boot := by
  rw [h]

theorem State.take_ledger (s : State) (c : HostCmd) : (s.take c).ledger = s.ledger := (State.take_portsOnly s c).ledger

theorem State.take_boot (s : State) (c : HostCmd) : (s.take c).boot = s.boot := (State.take_portsOnly s c).boot

/-- Every operation of the flash port leaves the package. -/
theorem State.flash_out {ops : List FlashOp} {o : FlashOp} (h : o ∈ ops) (s : State) : Out.flash o ∈ (s.flash ops).out := by
  have kept : ∀ (ops : List FlashOp) (s : State) (x : Out), x ∈ s.out → x ∈ (s.flash ops).out := by
    intro ops
    induction ops with
    | nil => exact fun _ _ hx => hx
    | cons a ops ih => exact fun s x hx => ih (s.emit (.flash a)) x (List.mem_cons_of_mem _ hx)
  induction ops generalizing s with
  | nil => cases h
  | cons a ops ih =>
    cases h with
    | head => exact kept ops (s.emit (.flash o)) _ (List.mem_cons_self ..)
    | tail _ h => exact ih h (s.emit (.flash a))

theorem State.flash_ports (s : State) (ops : List FlashOp) : (s.flash ops).ports = s.ports := by
  obtain ⟨o, h⟩ := s.flash_eq ops
  rw [h]

theorem State.flash_boot (s : State) (ops : List FlashOp) : (s.flash ops).boot = s.boot := by
  obtain ⟨o, h⟩ := s.flash_eq ops
  rw [h]

/-! ### IMAGE_STAGE -/

section
variable {s : State} {c : HostCmd} {data : List Byte}

/-- The session of an accepted chunk is its port's own, at the target of Table 11.9 where the chunk opens it. -/
theorem stageSession_of_own (h : stageOwn c s = none) : ∃ x, s.stageSession c = some x ∧ x.port = c.port ∧
    (c.entry.cd 0 4 = 0 → s.ledger.target = some x.target ∧ x.total = []) := by
  unfold stageOwn at h
  dsimp only at h
  split at h
  · cases h
  split at h
  · cases h
  next hport =>
  split at h
  · cases h
  next htarget =>
  split at h
  · cases h
  next hnext =>
  unfold State.stageSession
  by_cases ho : c.entry.cd 0 4 = 0
  · rw [if_pos ho]
    cases ht : s.ledger.target with
    | none => exact absurd ⟨ho, by rw [ht]; rfl⟩ htarget
    | some t => exact ⟨_, rfl, rfl, fun _ => ⟨rfl, rfl⟩⟩
  · rw [if_neg ho]
    cases hs : s.boot.staging with
    | none => exact absurd ⟨ho, by rw [hs]; rfl⟩ hnext
    | some x =>
      rw [hs, Option.any_some, bne_iff_ne, Classical.not_not] at hport
      exact ⟨x, rfl, hport, fun h0 => absurd h0 ho⟩

/-- What a chunk that starts leaves: its session, with the chunk being programmed, and the operations of the flash. -/
theorem State.stageGo_some {x : Staging} (h : s.stageSession c = some x) : ∃ y, (s.stageGo c data).boot.staging = some y ∧ y.port = x.port ∧
    y.target = x.target ∧ y.total = x.total ∧ y.nextOfs = c.entry.cd 0 4 + c.entry.dlen.toNat ∧
    y.chunk = some (refOf c, c.entry.cd 0 4, padTo c.entry.dlen.toNat data, c.entry.flag 0) ∧
    (∀ o ∈ chunkOps x.target (c.entry.cd 0 4) (padTo c.entry.dlen.toNat data) (c.entry.flag 0), Out.flash o ∈ (s.stageGo c data).out) ∧
    (s.stageGo c data).ports = s.ports := by
  unfold State.stageGo
  rw [h]
  dsimp only
  refine ⟨{ x with nextOfs := c.entry.cd 0 4 + c.entry.dlen.toNat,
                   chunk := some (refOf c, c.entry.cd 0 4, padTo c.entry.dlen.toNat data, c.entry.flag 0) },
    ?_, rfl, rfl, rfl, rfl, rfl, fun o ho => State.flash_out ho _, State.flash_ports ..⟩
  rw [State.flash_boot]
  rfl

theorem exec_imageStage_accepted (h : s.accepts 0x8A c (stageOwn c s)) (hb : stageBlocked c s = none) :
    exec (.imageStage c data) s = .next (((s.take c).addCmd c (Cmd.start c (s.take c).clock .moving)).stageGo c data) :=
  congrArg Host.Outcome.next (State.host_run s 0x8A c (stageOwn c) (stageBlocked c) _ h hb)

/-! ### IMAGE_CONFIRM and RETIRE_PAGE -/

theorem exec_imageConfirm_accepted (h : s.accepts 0x8B c (confirmOwn c s)) : exec (.imageConfirm c) s = .next ((s.take c).runConfirm c) :=
  congrArg Host.Outcome.next (State.host_run s 0x8B c (confirmOwn c) unblocked _ h rfl)

theorem State.runConfirm_eq (u : State) (c : HostCmd) : u.runConfirm c =
    if u.ledger.tstate = .running ∨ u.ledger.booted ≠ some u.ledger.cur then
      { u.addCmd c (Cmd.start c u.clock .moving) with ledger := { u.ledger with writing := u.ledger.writing ++ [.confirm (refOf c)] } }
    else (u.addCmd c (Cmd.start c u.clock .moving)).finish (refOf c) (.ok 0) := rfl

theorem exec_retirePage_accepted (h : s.accepts 0x8C c (retireOwn c s)) : exec (.retirePage c) s = .next (
    if ((s.take c).ledger.retired[fin2 (c.entry.cd 0 1)]).contains (c.entry.cd 4 4) then
      ((s.take c).addCmd c (Cmd.start c (s.take c).clock .moving)).finish (refOf c) (.ok 0)
    else { (s.take c).addCmd c (Cmd.start c (s.take c).clock .moving) with
      ledger := { (s.take c).ledger with writing := (s.take c).ledger.writing ++ [.retire (fin2 (c.entry.cd 0 1)) (c.entry.cd 4 4) (refOf c)] } }) :=
  congrArg Host.Outcome.next (State.host_run s 0x8C c (retireOwn c) unblocked _ h rfl)

end

/-- Settles O32: a chunk by its session, and the other two by whether there is something to write. -/
theorem ledgerCommands : Obligations.LedgerCommands := by
  refine fun c data s => ⟨fun h hb => ?_, fun h => ?_, fun h => ?_⟩
  · have own := h.2.2.2.2
    obtain ⟨x, session, port, opens⟩ := stageSession_of_own own
    have taken : ((s.take c).addCmd c (Cmd.start c (s.take c).clock .moving)).stageSession c = some x := by
      rw [← session]
      show State.stageSession (State.addCmd _ _ _) c = _
      unfold State.stageSession
      show (if _ then (s.take c).ledger.target.map _ else (s.take c).boot.staging) = _
      rw [State.take_ledger, State.take_boot]
    obtain ⟨y, staging, yport, target, total, next, chunk, flash, ports⟩ := State.stageGo_some (data := data) taken
    refine ⟨_, y, exec_imageStage_accepted h hb, ?_, staging, yport.trans port, next, chunk, fun ho => ?_, fun o ho => ?_⟩
    · exact State.underWay_congr (by rw [ports]) (State.accepts_underWay h (Cmd.start c (s.take c).clock .moving) rfl)
    · rw [target, total]
      exact opens ho
    · rw [target] at ho
      exact flash o ho
  · refine ⟨_, exec_imageConfirm_accepted h, ?_⟩
    rw [State.runConfirm_eq, State.take_ledger]
    split
    · exact ⟨State.accepts_underWay h (Cmd.start c (s.take c).clock .moving) rfl, rfl⟩
    · refine ⟨State.accepts_ended h (Cmd.start c (s.take c).clock .moving) rfl (.ok 0), ?_⟩
      rw [State.finish_keeps_ledger]
      exact State.take_ledger s c
  · refine ⟨_, exec_retirePage_accepted h, ?_⟩
    rw [State.take_ledger]
    split
    · refine ⟨State.accepts_ended h (Cmd.start c (s.take c).clock .moving) rfl (.ok 0), ?_⟩
      rw [State.finish_keeps_ledger]
      exact State.take_ledger s c
    · exact ⟨State.accepts_underWay h (Cmd.start c (s.take c).clock .moving) rfl, rfl⟩

end Sys2Proof.Machine
end

section
/-!
PROOFS of the power states (10, R351, R352): an entry to a deeper state whose own command ends before the state is in force.
-/
namespace Sys2Proof.Machine

/-! ### A package that takes commands -/

/-- A port that is up, with one admin entry waiting. -/
def adminPort : HostPort :=
  { HostPort.reset with linkUp := true, aqEn := true, featAccept := 0xFF, qps := [{ Qp.fresh 0 64 0x1000 0x2000 0 with sqTail := 1 }] }

/-- A package that is ready, with one admin entry waiting on port 0. -/
def adminPackage : State :=
  { State.reset with
    rst := { State.reset.rst with stage := .ready }
    boot := { State.reset.boot with image := some ⟨7, 1, []⟩ }
    ports := #v[adminPort, HostPort.reset] }

/-- POWER_STATE with TARGET 3. -/
def toP3 : HostCmd :=
  ⟨0, 0, { opc := 0x89, flags := 0, tag := 1, stn := 0xFF, cflags := 0, rsv := 0, mnt := 0, dlen := 0, dptr := 0, rptr := 0, cdw := 3 }, []⟩

/-- A record that is accepted and not durable. -/
def owedRec : Rec :=
  { Rec.fresh 5 0 1 none none with taken := 4, accepted := 4, written := 4, input := [1, 2, 3, 4], ended := true, complete := true }

/-- Station 2 owes a record, and its FLUSH that names the POWER_STATE's own command has its work done. -/
def namesakeFlush : State := adminPackage.modStn 2 fun t =>
  { t with mount := some ⟨1, .append, 0, []⟩, ctx := some { VolCtx.blank with state := .unsealed, recs := [owedRec] }
           write := { t.write with flushes := [⟨.flush (refOf toP3), [], true, 0⟩] } }

theorem exec_powerState_accepted {s : State} {c : HostCmd} (h : s.accepts 0x89 c (powerOwn c s)) :
    exec (.powerState c) s = .next ((s.take c).runPower c) :=
  congrArg Host.Outcome.next (State.host_run s 0x89 c (powerOwn c) unblocked _ h rfl)

theorem namesakeFlush_accepts : namesakeFlush.accepts 0x89 toP3 (powerOwn toP3 namesakeFlush) := by
  unfold State.accepts
  decide +kernel

/-- The FLUSH ends the command, while the station's work keeps the package in P0. -/
theorem namesakeFlush_run : ((namesakeFlush.take toP3).runPower toP3).power.state = 0 ∧
    ((namesakeFlush.take toP3).runPower toP3).cmd? (refOf toP3) = none := by
  decide +kernel

/-- Refutes O35: where a FLUSH that a station holds names the POWER_STATE's command, its completion ends that command while the entry goes on. -/
theorem not_powerStates : ¬ Obligations.PowerStates := by
  intro h
  obtain ⟨enters, -⟩ := h namesakeFlush
  obtain ⟨t, run, -, deeper⟩ := enters toP3 namesakeFlush_accepts
  rw [exec_powerState_accepted namesakeFlush_accepts] at run
  rw [← Host.Outcome.next.inj run] at deeper
  obtain ⟨state, gone⟩ := namesakeFlush_run
  obtain ⟨reached, -⟩ | ⟨-, -, k, found, -⟩ := deeper (by decide)
  · rw [state] at reached
    exact absurd reached (by decide)
  · rw [gone] at found
    cases found

end Sys2Proof.Machine
end

section
/-!
SUPPORT. What has left the package: `OutGrows`, which every operation keeps.
-/
namespace Sys2Proof.Machine

/-- What has left the package still has. -/
structure OutGrows (s t : State) : Prop where
  mem : ∀ o ∈ s.out, o ∈ t.out

theorem OutGrows.refl (s : State) : OutGrows s s := ⟨fun _ h => h⟩

theorem OutGrows.trans {s t u : State} (h : OutGrows s t) (k : OutGrows t u) : OutGrows s u := ⟨fun o ho => k.mem o (h.mem o ho)⟩

theorem OutGrows.of_eq {s t : State} (h : t.out = s.out) : OutGrows s t := ⟨fun o ho => by rw [h]; exact ho⟩

theorem State.emit_outGrows (s : State) (o : Out) : OutGrows s (s.emit o) := ⟨fun _ h => List.mem_cons_of_mem _ h⟩

theorem State.msix_outGrows (s : State) (p : Port) (v : Nat) : OutGrows s (s.msix p v) := by
  unfold State.msix
  extract_lets h
  split
  · exact OutGrows.refl s
  split
  · exact OutGrows.of_eq rfl
  · exact State.emit_outGrows ..

theorem State.sendEvent_outGrows (s : State) (p : Port) (n : Nat) : OutGrows s (s.sendEvent p n) := by
  unfold State.sendEvent
  extract_lets h
  split
  · exact OutGrows.refl s
  split
  · exact State.msix_outGrows ..
  · exact OutGrows.refl s

theorem State.modPort_outGrows (s : State) (p : Port) (f : HostPort → HostPort) : OutGrows s (s.modPort p f) := OutGrows.of_eq rfl

theorem State.raisePort_outGrows (s : State) (p : Port) (n : Nat) : OutGrows s (s.raisePort p n) := by
  unfold State.raisePort
  split
  · exact OutGrows.refl s
  · exact (State.modPort_outGrows s p _).trans (State.sendEvent_outGrows ..)

theorem State.putTrace_outGrows (s : State) (d : DieId) (q : Fin 4) (w : List (BitVec 64)) : OutGrows s (s.putTrace d q w).1 := by
  unfold State.putTrace
  dsimp only
  split
  · exact OutGrows.refl s
  · exact OutGrows.of_eq rfl

theorem State.raise1_outGrows (s : State) (n x : Nat) : OutGrows s (s.raise1 n x).1 :=
  ((State.raisePort_outGrows ..).trans (State.raisePort_outGrows ..)).trans (State.putTrace_outGrows ..)

theorem State.raise_outGrows (s : State) (n x : Nat) : OutGrows s (s.raise n x) := by
  unfold State.raise
  dsimp only
  split
  · exact (State.raise1_outGrows ..).trans (State.raise1_outGrows ..)
  · exact State.raise1_outGrows ..

theorem State.trace_outGrows (s : State) (d : DieId) (q : Fin 4) (w : List (BitVec 64)) : OutGrows s (s.trace d q w) := by
  unfold State.trace
  dsimp only
  split
  · exact (State.putTrace_outGrows ..).trans (State.raise_outGrows ..)
  · exact State.putTrace_outGrows ..

theorem State.logErr_outGrows (s : State) (p : Port) (e : CmdErr) : OutGrows s (s.logErr p e) := by
  unfold State.logErr
  extract_lets n s1
  have base : OutGrows s s1 := OutGrows.of_eq rfl
  split
  · exact base.trans (State.raise_outGrows ..)
  · exact base

theorem State.modQp_outGrows (s : State) (p : Port) (q : Nat) (f : Qp → Qp) : OutGrows s (s.modQp p q f) := OutGrows.of_eq rfl

theorem State.finish_outGrows (s : State) (r : CmdRef) (f : Ending) : OutGrows s (s.finish r f) := by
  unfold State.finish
  split
  · exact OutGrows.refl s
  · unfold State.putDone
    dsimp only
    split
    · exact ((State.modQp_outGrows ..).trans (State.logErr_outGrows ..)).trans (State.modQp_outGrows ..)
    · exact (State.modQp_outGrows ..).trans (State.modQp_outGrows ..)

end Sys2Proof.Machine
end

section
/-!
SUPPORT. What the operations of one station change: `StnOnly`, a preorder for those that touch the station, the engine regions and what
leaves the package, and `WriteOnly`, for those of its write side. Then the rules of the controlled stop, the ceiling and the run-out.
-/
namespace Sys2Proof.Machine

/-- The lanes and groups in service stay, and no lane has a job that it did not have. -/
structure Engine.Kept (e e' : Engine) : Prop where
  fenced : e'.fenced = e.fenced
  groups : e'.groups = e.groups
  running : ∀ x ∈ e'.running, x ∈ e.running

theorem Engine.Kept.refl (e : Engine) : e.Kept e := ⟨rfl, rfl, fun _ h => h⟩

theorem Engine.Kept.trans {a b c : Engine} (h : a.Kept b) (k : b.Kept c) : a.Kept c :=
  ⟨k.fenced.trans h.fenced, k.groups.trans h.groups, fun x hx => h.running x (k.running x hx)⟩

/-- Nothing but station `st`, the engine regions and what leaves the package differs. -/
structure StnOnly (st : Stn) (s t : State) : Prop where
  rest : t = { s with stns := t.stns, dies := t.dies, out := t.out }
  others : ∀ j, j ≠ st → t.stns[j] = s.stns[j]
  engines : ∀ d : DieId, t.dies[d] = { s.dies[d] with engines := (t.dies[d]).engines }
  left : OutGrows s t
  lanes : ∀ (d : DieId) (r : Fin 4), ((s.dies[d]).engines[r]).Kept (t.dies[d]).engines[r]

theorem StnOnly.refl (st : Stn) (s : State) : StnOnly st s s := ⟨rfl, fun _ _ => rfl, fun _ => rfl, OutGrows.refl s, fun _ _ => Engine.Kept.refl _⟩

theorem StnOnly.trans {st : Stn} {s t u : State} (h : StnOnly st s t) (k : StnOnly st t u) : StnOnly st s u where
  rest := by rw [k.rest, h.rest]
  others := fun j hj => (k.others j hj).trans (h.others j hj)
  engines := fun d => by rw [k.engines d, h.engines d]
  left := h.left.trans k.left
  lanes := fun d r => (h.lanes d r).trans (k.lanes d r)

section
variable {st : Stn} {s t : State} (h : StnOnly st s t)
include h
theorem StnOnly.ports : t.ports = s.ports := by rw [h.rest]
theorem StnOnly.supply : t.supply = s.supply := by rw [h.rest]
theorem StnOnly.thermal : t.thermal = s.thermal := by rw [h.rest]
theorem StnOnly.clock : t.clock = s.clock := by rw [h.rest]
theorem StnOnly.boot : t.boot = s.boot := by rw [h.rest]
theorem StnOnly.rst : t.rst = s.rst := by rw [h.rest]
theorem StnOnly.power : t.power = s.power := by rw [h.rest]
theorem StnOnly.ucieDown : t.ucieDown = s.ucieDown := by rw [h.rest]
theorem StnOnly.img : t.img = s.img := by rw [h.rest]; rfl

theorem StnOnly.flagged {n : Nat} (hs : s.flagged n) : t.flagged n := fun p => by rw [h.ports]; exact hs p

theorem StnOnly.ready : t.ready = s.ready := by rw [h.rest]; rfl

theorem StnOnly.mayResume : t.mayResume = s.mayResume := by
  unfold State.mayResume; rw [h.ready, h.supply]
end

theorem State.modStn_stn (s : State) (st : Stn) (f : Station → Station) : (s.modStn st f).stns[st] = f s.stns[st] := vmod_get_self ..

theorem State.modStn_stn_ne (s : State) {st j : Stn} (hj : j ≠ st) (f : Station → Station) : (s.modStn st f).stns[j] = s.stns[j] :=
  vmod_get_ne _ _ _ _ (Ne.symm hj)

theorem State.modStn_stnOnly (s : State) (st : Stn) (f : Station → Station) : StnOnly st s (s.modStn st f) :=
  ⟨rfl, fun _ hj => State.modStn_stn_ne s hj f, fun _ => rfl, OutGrows.of_eq rfl, fun _ _ => Engine.Kept.refl _⟩

theorem State.emit_stnOnly (s : State) (st : Stn) (o : Out) : StnOnly st s (s.emit o) :=
  ⟨rfl, fun _ _ => rfl, fun _ => rfl, State.emit_outGrows s o, fun _ _ => Engine.Kept.refl _⟩

/-- A change of the engine regions of one die. -/
theorem State.modDie_stnOnly (s : State) (st : Stn) (d : DieId) (f : Die → Die) (h : ∀ x, f x = { x with engines := (f x).engines })
    (kept : ∀ (x : Die) (r : Fin 4), (x.engines[r]).Kept (f x).engines[r]) : StnOnly st s (s.modDie d f) := by
  refine ⟨rfl, fun _ _ => rfl, fun d' => ?_, OutGrows.of_eq rfl, fun d' r => ?_⟩
  · rw [State.modDie_dies, vmod_get]
    split
    · exact h _
    · rfl
  · rw [State.modDie_dies, vmod_get]
    split
    · exact kept _ r
    · exact Engine.Kept.refl _

/-- A change of one engine region. -/
theorem Die.modEngine_kept (x : Die) (r r' : Fin 4) (f : Engine → Engine) (h : ∀ e : Engine, e.Kept (f e)) :
    (x.engines[r']).Kept (x.modEngine r f).engines[r'] := by
  unfold Die.modEngine
  rw [vmod_get]
  split
  · exact h _
  · exact Engine.Kept.refl _

/-- A job that joins the wait of a region, unless it is there. -/
theorem Die.addJob_kept (x : Die) (r r' : Fin 4) (j : Job) : (x.engines[r']).Kept (x.modEngine r fun e =>
    if e.waiting.any (fun w => w.kind == j.kind) || e.running.any (fun w => w.2.kind == j.kind) then e
    else { e with waiting := e.waiting ++ [{ j with ord := e.nextOrd }] }).engines[r'] :=
  x.modEngine_kept r r' _ fun e => by
    split
    · exact Engine.Kept.refl e
    · exact ⟨rfl, rfl, fun _ h => h⟩

theorem State.addJob_stnOnly (s : State) (st : Stn) (d : DieId) (r : Fin 4) (j : Job) : StnOnly st s (s.addJob d r j) :=
  State.modDie_stnOnly s st d _ (fun _ => rfl) fun x r' => x.addJob_kept r r' j

/-- The jobs of a kind leave the regions of a die. -/
theorem Die.dropJobs_kept (x : Die) (f : JobKind → Bool) (r : Fin 4) :
    (x.engines[r]).Kept (x.engines.map fun e =>
      { e with running := e.running.filter (fun w => !f w.2.kind), waiting := e.waiting.filter (fun w => !f w.kind) })[r] := by
  rw [Fin.getElem_fin, Fin.getElem_fin, Vector.getElem_map]
  exact ⟨rfl, rfl, fun _ h => (List.mem_filter.1 h).1⟩

theorem State.dropJobs_stnOnly (s : State) (st : Stn) (f : JobKind → Bool) : StnOnly st s (s.dropJobs f) :=
  (State.modDie_stnOnly s st 0 _ (by exact fun _ => rfl) fun x r => x.dropJobs_kept f r).trans
    (State.modDie_stnOnly _ st 1 _ (by exact fun _ => rfl) fun x r => x.dropJobs_kept f r)

theorem State.dropLost_stnOnly (s : State) (st : Stn) : StnOnly st s (s.dropLost st) := State.dropJobs_stnOnly ..

theorem State.dropJobs_stns (s : State) (f : JobKind → Bool) : (s.dropJobs f).stns = s.stns := rfl

theorem State.addJob_stns (s : State) (d : DieId) (r : Fin 4) (j : Job) : (s.addJob d r j).stns = s.stns := rfl

/-! ### The write side -/

/-- What no work on a volume changes of its context but a write fault: its geometry, and whether a write fault has occurred. -/
def VolCtx.fixed (v : VolCtx) : List Byte × Bool := (v.geo, v.faulted)

/-- Of station `st` nothing but its write side and its volume context differs; the context keeps what is fixed, and no FLUSH work comes
where there is none. -/
structure WriteOnly (st : Stn) (s t : State) : Prop extends StnOnly st s t where
  side : t.stns[st] = { s.stns[st] with write := (t.stns[st]).write, ctx := (t.stns[st]).ctx }
  geo : (t.stns[st]).ctx.map (·.fixed) = (s.stns[st]).ctx.map (·.fixed)
  idle : (s.stns[st]).write.flushes = [] → (t.stns[st]).write.flushes = []
  sent : (t.stns[st]).write.sent ⊆ (s.stns[st]).write.sent

theorem WriteOnly.refl (st : Stn) (s : State) : WriteOnly st s s := ⟨StnOnly.refl st s, rfl, rfl, id, List.Subset.refl _⟩

theorem WriteOnly.trans {st : Stn} {s t u : State} (h : WriteOnly st s t) (k : WriteOnly st t u) : WriteOnly st s u where
  toStnOnly := h.toStnOnly.trans k.toStnOnly
  side := by rw [k.side, h.side]
  geo := k.geo.trans h.geo
  idle := fun e => k.idle (h.idle e)
  sent := fun _ e => h.sent (k.sent e)

theorem WriteOnly.servo {st : Stn} {s t : State} (h : WriteOnly st s t) : (t.stns[st]).servo = (s.stns[st]).servo := by rw [h.side]
theorem WriteOnly.speed {st : Stn} {s t : State} (h : WriteOnly st s t) : (t.stns[st]).speed = (s.stns[st]).speed := by rw [h.side]
theorem WriteOnly.link {st : Stn} {s t : State} (h : WriteOnly st s t) : (t.stns[st]).link = (s.stns[st]).link := by rw [h.side]

/-- A change of the write side and of the context of a station. -/
theorem State.modStn_writeOnly (s : State) (st : Stn) (f : Station → Station)
    (h : f s.stns[st] = { s.stns[st] with write := (f s.stns[st]).write, ctx := (f s.stns[st]).ctx })
    (hg : (f s.stns[st]).ctx.map (·.fixed) = (s.stns[st]).ctx.map (·.fixed))
    (hi : (s.stns[st]).write.flushes = [] → (f s.stns[st]).write.flushes = [] := by exact id)
    (hs : (f s.stns[st]).write.sent ⊆ (s.stns[st]).write.sent := by exact fun _ h => h) : WriteOnly st s (s.modStn st f) := by
  refine ⟨State.modStn_stnOnly s st f, ?_, ?_, ?_, ?_⟩
  · rw [State.modStn_stn]; exact h
  · rw [State.modStn_stn]; exact hg
  · rw [State.modStn_stn]; exact hi
  · rw [State.modStn_stn]; exact hs

theorem State.modWrite_writeOnly (s : State) (st : Stn) (f : Write → Write)
    (hi : (s.stns[st]).write.flushes = [] → (f (s.stns[st]).write).flushes = [] := by exact id)
    (hs : (f (s.stns[st]).write).sent ⊆ (s.stns[st]).write.sent := by exact fun _ h => h) : WriteOnly st s (s.modStn st fun t => t.modWrite f) :=
  State.modStn_writeOnly s st _ rfl rfl hi hs

theorem State.addJob_writeOnly (s : State) (st : Stn) (d : DieId) (r : Fin 4) (j : Job) : WriteOnly st s (s.addJob d r j) :=
  ⟨State.addJob_stnOnly s st d r j, rfl, rfl, id, fun _ h => h⟩

theorem State.dropLost_writeOnly (s : State) (st : Stn) : WriteOnly st s (s.dropLost st) := ⟨State.dropLost_stnOnly s st, rfl, rfl, id, fun _ h => h⟩

/-- A station of which nothing but its write side and its context differs, and neither the feed nor the geometry; no position is new among
those sent. -/
def Station.SameFeed (t u : Station) : Prop :=
  u = { t with write := u.write, ctx := u.ctx } ∧ u.ctx.map (·.fixed) = t.ctx.map (·.fixed) ∧ u.write.feed = t.write.feed ∧
    (t.write.flushes = [] → u.write.flushes = []) ∧ u.write.sent ⊆ t.write.sent

theorem Station.SameFeed.trans {t u x : Station} (h : t.SameFeed u) (k : u.SameFeed x) : t.SameFeed x := by
  obtain ⟨h1, h2, h3, h4, h5⟩ := h
  obtain ⟨k1, k2, k3, k4, k5⟩ := k
  exact ⟨by rw [k1, h1], k2.trans h2, k3.trans h3, fun e => k4 (h4 e), fun _ e => h5 (k5 e)⟩

theorem Station.dropColophon_sameFeed (t : Station) : t.SameFeed t.dropColophon := by
  unfold Station.dropColophon
  split
  · exact ⟨rfl, rfl, rfl, id, fun _ h => h⟩
  next v hv => exact ⟨rfl, by rw [hv]; rfl, rfl, id, fun _ h => h⟩

theorem VolCtx.foldl_fixed {α : Type} (f : VolCtx → α → VolCtx) (h : ∀ a x, (f a x).fixed = a.fixed) (l : List α) (v : VolCtx) :
    (l.foldl f v).fixed = v.fixed := by
  induction l generalizing v with
  | nil => rfl
  | cons x l ih => exact (ih _).trans (h v x)

theorem Station.unplace_sameFeed (t : Station) (keep : Nat) (begun : Bool) : t.SameFeed (t.unplace keep begun) := by
  unfold Station.unplace
  split
  · exact ⟨rfl, rfl, rfl, id, fun _ h => h⟩
  next v hv =>
    extract_lets w cut kept inCut undone heads v1 v2 bands tails t1
    have geo1 : v1.fixed = v.fixed := VolCtx.foldl_fixed _ (fun a g => by split <;> [rfl; split <;> rfl]) _ _
    have geo2 : v2.fixed = v.fixed := by
      rw [← geo1]; simp only [v2]; split <;> rfl
    have base : t.SameFeed t1 := ⟨rfl, by rw [hv]; exact congrArg some geo2, rfl, id, fun _ h => h⟩
    split
    · exact base.trans t1.dropColophon_sameFeed
    · exact base

theorem State.unplace_writeOnly (s : State) (st : Stn) (keep : Nat) (begun : Bool) : WriteOnly st s (s.unplace st keep begun) :=
  have same := (s.stns[st]).unplace_sameFeed keep begun
  (State.modStn_writeOnly s st _ same.1 same.2.1 same.2.2.2.1 same.2.2.2.2).trans (State.dropLost_writeOnly ..)

theorem State.unplace_feed (s : State) (st : Stn) (keep : Nat) (begun : Bool) :
    ((s.unplace st keep begun).stns[st]).write.feed = (s.stns[st]).write.feed := by
  have same := (s.stns[st]).unplace_sameFeed keep begun
  refine Eq.trans ?_ same.2.2.1
  exact congrArg (fun x : Station => x.write.feed) (State.modStn_stn s st _)

theorem Write.opened_feed (w : Write) : (w.opened.getD w).feed = w.feed := by
  unfold Write.opened; split <;> rfl

theorem Write.opened_flushes (w : Write) : (w.opened.getD w).flushes = w.flushes := by
  unfold Write.opened; split <;> rfl

theorem Write.opened_sent (w : Write) : (w.opened.getD w).sent = w.sent := by
  unfold Write.opened; split <;> rfl

theorem State.closeGath_writeOnly (s : State) (st : Stn) (a b : Bool) : WriteOnly st s (s.closeGath st a b) := by
  unfold State.closeGath
  extract_lets t
  split
  · exact WriteOnly.refl st s
  next v hv => 
    refine (State.modStn_writeOnly s st _ rfl (by rw [hv]; rfl) (fun e => ?_) ?_).trans (State.addJob_writeOnly ..)
    · have none_ : (t.write.opened.getD t.write).flushes = [] := (Write.opened_flushes _).trans e
      dsimp only
      rw [none_]
      split <;> rfl
    · have same : (t.write.opened.getD t.write).sent = t.write.sent := Write.opened_sent _
      dsimp only
      rw [same]
      exact fun _ h => h

theorem State.closeGath_feed (s : State) (st : Stn) (a b : Bool) : ((s.closeGath st a b).stns[st]).write.feed = (s.stns[st]).write.feed := by
  unfold State.closeGath
  extract_lets t
  split
  · rfl
  next v hv =>
    refine Eq.trans ?_ (Write.opened_feed _)
    exact congrArg (fun x : Station => x.write.feed) (State.modStn_stn s st _)

theorem State.closeOpen_writeOnly (s : State) (st : Stn) : WriteOnly st s (s.closeOpen st) := by
  unfold State.closeOpen
  split
  · exact WriteOnly.refl st s
  split
  · exact State.closeGath_writeOnly ..
  · exact State.modWrite_writeOnly ..

theorem State.closeOpen_feed (s : State) (st : Stn) : ((s.closeOpen st).stns[st]).write.feed = (s.stns[st]).write.feed := by
  unfold State.closeOpen
  split
  · rfl
  split
  · exact State.closeGath_feed ..
  · exact (congrArg (fun x : Station => x.write.feed) (State.modStn_stn s st _)).trans rfl

theorem State.runOut_writeOnly (s : State) (st : Stn) : WriteOnly st s (s.runOut st) := by
  unfold State.runOut
  extract_lets t
  split
  · exact ((State.unplace_writeOnly ..).trans (State.modWrite_writeOnly ..)).trans (State.closeOpen_writeOnly ..)
  split
  · exact (State.unplace_writeOnly ..).trans (State.modWrite_writeOnly ..)
  · exact WriteOnly.refl st s

/-- A station that writes goes over to run-out fill. -/
theorem State.runOut_feed (s : State) (st : Stn) (h : (s.stns[st]).write.feed = .writing) : ((s.runOut st).stns[st]).write.feed = .runOut := by
  unfold State.runOut
  extract_lets t
  rw [if_pos h, State.closeOpen_feed]
  exact congrArg (fun x : Station => x.write.feed) (State.modStn_stn ..)

theorem State.voidWriting_writeOnly (s : State) (st : Stn) : WriteOnly st s (s.voidWriting st) :=
  (State.modWrite_writeOnly s st _ (hs := fun _ h => List.mem_of_mem_filter h)).trans (State.unplace_writeOnly ..)

theorem State.voidWriting_feed (s : State) (st : Stn) : ((s.voidWriting st).stns[st]).write.feed = .off := by
  unfold State.voidWriting
  rw [State.unplace_feed]
  exact congrArg (fun x : Station => x.write.feed) (State.modStn_stn ..)

/-! ### Ramps, stops and ceilings -/

theorem State.rampTo_stnOnly (s : State) (st : Stn) (why : RampFor) (mm : Nat) : StnOnly st s (s.rampTo st why mm) :=
  State.modStn_stnOnly ..

theorem State.rampTo_stn (s : State) (st : Stn) (why : RampFor) (mm : Nat) :
    (s.rampTo st why mm).stns[st] = (s.stns[st]).modServo fun v => v.rampTo why mm := State.modStn_stn ..

/-- A ramp of a station whose loops hold its tape. -/
theorem Servo.rampTo_of_closed {v : Servo} (h : v.motion = .moving ∨ v.motion = .tensioned) (why : RampFor) (mm : Nat) :
    v.rampTo why mm = { v with ramp := some (why, mm), vRef := v.vHat, motion := .moving, settled := false, calm := 0 } := by
  unfold Servo.rampTo
  rw [if_neg]
  rcases h with h | h <;> rw [h] <;> decide

theorem State.controlledStop_stnOnly (s : State) (st : Stn) : StnOnly st s (s.controlledStop st) := by
  unfold State.controlledStop
  extract_lets t
  split
  · exact StnOnly.refl st s
  · exact ((State.runOut_writeOnly s st).toStnOnly.trans (State.rampTo_stnOnly ..)).trans (State.modStn_stnOnly ..)

/-- What a controlled stop leaves of a station that moves and was not stopping. -/
theorem State.controlledStop_stn (s : State) (st : Stn) (hm : (s.stns[st]).servo.motion = .moving) (hs : (s.stns[st]).servo.stops = false) :
    (s.controlledStop st).stns[st] = { (s.runOut st).stns[st] with
      servo := { (s.stns[st]).servo with
        ramp := some (.stop, 0), vRef := (s.stns[st]).servo.vHat, motion := .moving, settled := false, calm := 0, back := none }
      speed := { (s.stns[st]).speed with stopping := true, stepping := none } } := by
  have keep := State.runOut_writeOnly s st
  unfold State.controlledStop
  extract_lets t
  rw [if_neg (by simp only [t, hm, hs]; decide), State.modStn_stn, State.rampTo_stn]
  unfold Station.modServo
  beta_reduce
  rw [keep.servo, keep.speed, Servo.rampTo_of_closed (.inl hm)]

/-- A station that moves is stopping after a controlled stop. -/
theorem State.controlledStop_stops (s : State) (st : Stn) (hm : (s.stns[st]).servo.motion = .moving) :
    ((s.controlledStop st).stns[st]).servo.stops = true := by
  by_cases hs : (s.stns[st]).servo.stops = true
  · unfold State.controlledStop
    extract_lets t
    rw [if_pos (.inr hs)]; exact hs
  · rw [State.controlledStop_stn s st hm (by simpa using hs)]; rfl

theorem State.stepTo_stnOnly (s : State) (st : Stn) (i : Nat) : StnOnly st s (s.stepTo st i) :=
  ((State.runOut_writeOnly s st).toStnOnly.trans (State.rampTo_stnOnly ..)).trans (State.modStn_stnOnly ..)

theorem State.capDown_stnOnly (s : State) (st : Stn) : StnOnly st s (s.capDown st) := by
  have ramp : ∀ (s : State) (why : RampFor) (mm : Nat) (f : Station → Station), StnOnly st s ((s.rampTo st why mm).modStn st f) :=
    fun s why mm f => (State.rampTo_stnOnly ..).trans (State.modStn_stnOnly ..)
  unfold State.capDown
  extract_lets t hi
  split
  · exact StnOnly.refl st s
  split
  · split
    · exact StnOnly.refl st s
    · exact ramp ..
  split
  · exact StnOnly.refl st s
  split
  · split
    · exact State.stepTo_stnOnly ..
    · exact StnOnly.refl st s
  split
  · exact ramp ..
  · exact StnOnly.refl st s

/-! ### Every station in turn -/

/-- Nothing but the stations, the engine regions and what leaves the package differs. -/
structure StnsOnly (s t : State) : Prop where
  rest : t = { s with stns := t.stns, dies := t.dies, out := t.out }
  engines : ∀ d : DieId, t.dies[d] = { s.dies[d] with engines := (t.dies[d]).engines }

theorem StnsOnly.refl (s : State) : StnsOnly s s := ⟨rfl, fun _ => rfl⟩

theorem StnsOnly.trans {s t u : State} (h : StnsOnly s t) (k : StnsOnly t u) : StnsOnly s u where
  rest := by rw [k.rest, h.rest]
  engines := fun d => by rw [k.engines d, h.engines d]

theorem StnOnly.stnsOnly {st : Stn} {s t : State} (h : StnOnly st s t) : StnsOnly s t := ⟨h.rest, h.engines⟩

section
variable {s t : State} (h : StnsOnly s t)
include h
theorem StnsOnly.ports : t.ports = s.ports := by rw [h.rest]
theorem StnsOnly.supply : t.supply = s.supply := by rw [h.rest]
theorem StnsOnly.thermal : t.thermal = s.thermal := by rw [h.rest]
theorem StnsOnly.flagged {n : Nat} (hs : s.flagged n) : t.flagged n := fun p => by rw [h.ports]; exact hs p
end

section
variable {f : State → Stn → State} (only : ∀ a st, StnOnly st a (f a st))
include only

theorem foldl_stnsOnly (l : List Stn) (s : State) : StnsOnly s (l.foldl f s) := by
  induction l generalizing s with
  | nil => exact StnsOnly.refl s
  | cons st l ih => exact (only s st).stnsOnly.trans (ih _)

theorem foldl_stn_of_not_mem {l : List Stn} {j : Stn} (hj : j ∉ l) (s : State) : (l.foldl f s).stns[j] = s.stns[j] := by
  induction l generalizing s with
  | nil => rfl
  | cons st l ih =>
    obtain ⟨ne, hj⟩ := not_or.mp (mt List.mem_cons.mpr hj)
    exact (ih hj _).trans ((only s st).others j ne)

/-- A station that is reached once is what its own step makes of it, in a state in which it is as it was. -/
theorem foldl_stn {l : List Stn} (nodup : l.Nodup) {j : Stn} (hj : j ∈ l) (s : State) :
    ∃ a : State, StnsOnly s a ∧ a.stns[j] = s.stns[j] ∧ (l.foldl f s).stns[j] = (f a j).stns[j] := by
  induction l generalizing s with
  | nil => cases hj
  | cons st l ih =>
    obtain ⟨notin, nodup⟩ := List.nodup_cons.mp nodup
    by_cases e : j = st
    · subst e
      exact ⟨s, StnsOnly.refl s, rfl, foldl_stn_of_not_mem only notin _⟩
    · obtain ⟨a, ha, same, out⟩ := ih nodup ((List.mem_cons.mp hj).resolve_left e) (f s st)
      exact ⟨a, (only s st).stnsOnly.trans ha, same.trans ((only s st).others j e), out⟩

theorem foldl_allStns_stn (s : State) (j : Stn) :
    ∃ a : State, StnsOnly s a ∧ a.stns[j] = s.stns[j] ∧ (allStns.foldl f s).stns[j] = (f a j).stns[j] :=
  foldl_stn only (by decide) (mem_allStns j) s
end

end Sys2Proof.Machine
end

section
/-!
SUPPORT. What assembly and the grants of buffers change of a station: `Station.Packs`, a preorder (04, R104 to R110). Records are packed,
gatherings close and take their numbers, and those that had theirs get at most a buffer.
-/
namespace Sys2Proof.Machine

/-- A record of which nothing differs but how much of it is packed, and the room for its output. -/
def Rec.Packs (r r' : Rec) : Prop :=
  r' = { r with packed := r'.packed, incDone := r'.incDone, last := r'.last, grps := r'.grps, outCap := r'.outCap }

theorem Rec.Packs.refl (r : Rec) : r.Packs r := rfl

theorem Rec.Packs.trans {a b c : Rec} (h : a.Packs b) (k : b.Packs c) : a.Packs c := by
  unfold Rec.Packs at *
  rw [k, h]

theorem Rec.Packs.lon {r r' : Rec} (h : r.Packs r') : r'.lon = r.lon := by rw [h]

/-- A gathering of which nothing differs but the buffer of its C2 rows. -/
def Gath.Granted (g g' : Gath) : Prop := g' = { g with c2Buf := g'.c2Buf }

theorem Gath.Granted.refl (g : Gath) : g.Granted g := rfl

theorem Gath.Granted.trans {a b c : Gath} (h : a.Granted b) (k : b.Granted c) : a.Granted c := by
  unfold Gath.Granted at *
  rw [k, h]

/-- A volume context whose records are packed, and whose numbers are taken. -/
structure VolCtx.Packs (v v' : VolCtx) : Prop where
  rest : v' = { v with
    recs := v'.recs, gnum := v'.gnum, freeSlots := v'.freeSlots, inGroup := v'.inGroup, grpEnd := v'.grpEnd
    parDue := v'.parDue, labelQ := v'.labelQ }
  gnum : v.gnum ≤ v'.gnum
  recs : List.Forall₂ Rec.Packs v.recs v'.recs

theorem VolCtx.Packs.refl (v : VolCtx) : v.Packs v := ⟨rfl, le_refl _, List.forall₂_same.2 fun r _ => Rec.Packs.refl r⟩

theorem VolCtx.Packs.trans {a b c : VolCtx} (h : a.Packs b) (k : b.Packs c) : a.Packs c where
  rest := by rw [k.rest, h.rest]
  gnum := h.gnum.trans k.gnum
  recs := by
    have one := h.recs
    have two := k.recs
    revert two
    generalize c.recs = n
    generalize a.recs = l at one
    generalize b.recs = m at one
    induction one generalizing n with
    | nil => intro two; cases two; exact .nil
    | cons hx _ ih =>
      intro two
      cases two with
      | cons kx kl => exact .cons (hx.trans kx) (ih _ kl)

/-- A context of which nothing but its records differs. -/
theorem VolCtx.Packs.of_recs (v : VolCtx) {l : List Rec} (h : List.Forall₂ Rec.Packs v.recs l) : v.Packs { v with recs := l } :=
  ⟨rfl, le_refl _, h⟩

theorem VolCtx.Packs.fixed {v v' : VolCtx} (h : v.Packs v') : v'.fixed = v.fixed := by rw [h.rest]; rfl

theorem forall₂_map_packs (f : Rec → Rec) (h : ∀ r : Rec, r.Packs (f r)) (l : List Rec) : List.Forall₂ Rec.Packs l (l.map f) := by
  induction l with
  | nil => exact .nil
  | cons x l ih => exact .cons (h x) ih

/-- The record of a LON goes on. -/
theorem VolCtx.Packs.rec? {v v' : VolCtx} (h : v.Packs v') {lon : Nat} {r : Rec} (hr : v.rec? lon = some r) :
    ∃ r', v'.rec? lon = some r' ∧ r.Packs r' := by
  have both := h.recs
  unfold VolCtx.rec? at *
  revert hr
  generalize v.recs = l at both
  generalize v'.recs = l' at both
  induction both with
  | nil => intro hr; cases hr
  | cons hx _ ih =>
    intro hr
    rw [List.find?_cons] at hr ⊢
    rw [hx.lon]
    split at hr
    · cases hr
      exact ⟨_, rfl, hx⟩
    · exact ih hr

/-- A write side that packs: of its numbered gatherings none is lost, and the new ones are numbered from `n`. -/
structure Write.Packs (n : Option Nat) (w w' : Write) : Prop where
  rest : w' = { w with
    gaths := w'.gaths, openSegs := w'.openSegs, openBytes := w'.openBytes, openBuf := w'.openBuf, bufs := w'.bufs
    closeDue := w'.closeDue, flushes := w'.flushes }
  kept : ∀ g ∈ w.gaths, ∃ g' ∈ w'.gaths, g.Granted g'
  made : ∀ g' ∈ w'.gaths, (∃ g ∈ w.gaths, g.Granted g') ∨ ∃ m, n = some m ∧ m ≤ g'.gnum
  idle : w.flushes = [] → w'.flushes = []

theorem Write.Packs.refl (n : Option Nat) (w : Write) : Write.Packs n w w :=
  ⟨rfl, fun g hg => ⟨g, hg, .refl g⟩, fun g hg => .inl ⟨g, hg, .refl g⟩, id⟩

theorem Write.Packs.trans {n n' : Option Nat} {a b c : Write} (h : Write.Packs n a b) (k : Write.Packs n' b c)
    (le : ∀ m', n' = some m' → ∃ m, n = some m ∧ m ≤ m') : Write.Packs n a c where
  rest := by rw [k.rest, h.rest]
  kept := fun g hg => by
    obtain ⟨g1, h1, e1⟩ := h.kept g hg
    obtain ⟨g2, h2, e2⟩ := k.kept g1 h1
    exact ⟨g2, h2, e1.trans e2⟩
  idle := fun e => k.idle (h.idle e)
  made := fun g hg => by
    obtain ⟨g1, h1, e1⟩ | ⟨m', e, lt⟩ := k.made g hg
    · obtain ⟨g0, h0, e0⟩ | ⟨m, e, lt⟩ := h.made g1 h1
      · exact .inl ⟨g0, h0, e0.trans e1⟩
      · exact .inr ⟨m, e, by rw [e1]; exact lt⟩
    · obtain ⟨m, em, lem⟩ := le m' e
      exact .inr ⟨m, em, lem.trans lt⟩

/-- A write side whose numbered gatherings stay. -/
theorem Write.Packs.of_gaths {n : Option Nat} {w w' : Write} (h : w' = { w with
    openSegs := w'.openSegs, openBytes := w'.openBytes
    openBuf := w'.openBuf, bufs := w'.bufs, closeDue := w'.closeDue }) : Write.Packs n w w' := by
  have flushes : w'.flushes = w.flushes := by rw [h]
  have same : w'.gaths = w.gaths := by rw [h]
  exact ⟨by rw [h], fun g hg => ⟨g, by rw [same]; exact hg, .refl g⟩, fun g hg => .inl ⟨g, by rw [← same]; exact hg, .refl g⟩,
    fun e => flushes.trans e⟩

/-- A gathering gets the buffer of its C2 rows. -/
theorem Write.Packs.buffered {m : Option Nat} {w : Write} (n : Nat) (h : BitVec 32) :
    Write.Packs m w { w with gaths := w.gaths.map fun g => if g.gnum = n then { g with c2Buf := some h } else g } := by
  have granted (g : Gath) : g.Granted (if g.gnum = n then { g with c2Buf := some h } else g) := by split <;> rfl
  refine ⟨rfl, fun g hg => ⟨_, List.mem_map.2 ⟨g, hg, rfl⟩, granted g⟩, fun g' hg' => ?_, id⟩
  obtain ⟨g, hg, rfl⟩ := List.mem_map.1 hg'
  exact .inl ⟨g, hg, granted g⟩

/-- A station that packs: nothing but its write side and its context differs. -/
structure Station.Packs (t u : Station) : Prop where
  rest : u = { t with write := u.write, ctx := u.ctx }
  none : t.ctx = none → u.ctx = none
  ctx : ∀ v, t.ctx = some v → ∃ v', u.ctx = some v' ∧ v.Packs v'
  write : Write.Packs (t.ctx.map (·.gnum)) t.write u.write

theorem Station.Packs.refl (t : Station) : t.Packs t := ⟨rfl, id, fun v h => ⟨v, h, .refl v⟩, .refl ..⟩

theorem Station.Packs.trans {a b c : Station} (h : a.Packs b) (k : b.Packs c) : a.Packs c where
  rest := by rw [k.rest, h.rest]
  none := fun e => k.none (h.none e)
  ctx := fun v hv => by
    obtain ⟨v1, h1, p1⟩ := h.ctx v hv
    obtain ⟨v2, h2, p2⟩ := k.ctx v1 h1
    exact ⟨v2, h2, p1.trans p2⟩
  write := h.write.trans k.write fun m' e => by
    cases hv : a.ctx with
    | none => rw [h.none hv] at e; cases e
    | some v =>
      obtain ⟨v1, h1, p1⟩ := h.ctx v hv
      rw [h1] at e
      cases e
      exact ⟨v.gnum, rfl, p1.gnum⟩

theorem Station.Packs.same {t u : Station} (h : t.Packs u) : t.SameFeed u := by
  refine ⟨h.rest, ?_, by rw [h.write.rest], h.write.idle, by rw [h.write.rest]; exact fun _ e => e⟩
  cases hv : t.ctx with
  | none => rw [h.none hv]
  | some v =>
    obtain ⟨v', e, p⟩ := h.ctx v hv
    rw [e, Option.map_some, Option.map_some, p.fixed]

/-- A station of which only the write side differs. -/
theorem Station.Packs.of_write (t : Station) {w : Write} (h : Write.Packs (t.ctx.map (·.gnum)) t.write w) : t.Packs { t with write := w } :=
  ⟨rfl, id, fun v hv => ⟨v, hv, .refl v⟩, h⟩

/-- A station of which only the write side and the context differ. -/
theorem Station.Packs.of_ctx {t : Station} {v v' : VolCtx} {w : Write} (ctx : t.ctx = some v) (hv : v.Packs v') (h : Write.Packs (some v.gnum) t.write w) :
    t.Packs { t with write := w, ctx := some v' } := by
  refine ⟨rfl, fun e => (by rw [e] at ctx; cases ctx), fun u hu => ⟨v', rfl, ?_⟩, by rw [ctx]; exact h⟩
  rw [ctx] at hu
  cases hu
  exact hv

/-! ### Packing -/

/-- A write side with one more segment packed: its gatherings are as they were. -/
def Write.Segs (w w' : Write) : Prop := w' = { w with openSegs := w'.openSegs, openBytes := w'.openBytes }

theorem packRec_packs {w w1 : Write} {r r1 : Rec} {cover : Option Nat} (h : packRec w r cover = some (w1, r1)) : w.Segs w1 ∧ r.Packs r1 := by
  unfold packRec at h
  extract_lets has grow full rd room n whole total bytes segs at h
  split at h
  · split at h
    · cases h; exact ⟨rfl, rfl⟩
    · cases h
  split at h
  · cases h
  · split at h
    · cases h
    · cases h; exact ⟨rfl, rfl⟩

theorem packInc_packs {w w1 : Write} {l l1 : List Rec} (h : packInc w l = some (w1, l1)) : w.Segs w1 ∧ List.Forall₂ Rec.Packs l l1 := by
  induction l generalizing l1 with
  | nil => cases h
  | cons r rest ih =>
    unfold packInc at h
    split at h
    next w2 r2 hp =>
      cases h
      split at hp
      · obtain ⟨segs, packs⟩ := packRec_packs hp
        exact ⟨segs, .cons packs (List.forall₂_same.2 fun r _ => .refl r)⟩
      · cases hp
    · obtain ⟨⟨w3, l3⟩, hx, e⟩ := Option.map_eq_some_iff.mp h
      cases e
      obtain ⟨segs, packs⟩ := ih hx
      exact ⟨segs, .cons (.refl r) packs⟩

theorem packFirst_packs {w w1 : Write} {cover : Option (List (Nat × Nat))} {l l1 : List Rec} (h : packFirst w cover l = some (w1, l1)) :
    w.Segs w1 ∧ List.Forall₂ Rec.Packs l l1 := by
  induction l generalizing l1 with
  | nil => cases h
  | cons r rest ih =>
    unfold packFirst at h
    extract_lets c at h
    split at h
    next w2 r2 hp =>
      cases h
      obtain ⟨x, -, hx⟩ := Option.bind_eq_some_iff.mp hp
      obtain ⟨segs, packs⟩ := packRec_packs hx
      exact ⟨segs, .cons packs (List.forall₂_same.2 fun r _ => .refl r)⟩
    · obtain ⟨⟨w3, l3⟩, hx, e⟩ := Option.map_eq_some_iff.mp h
      cases e
      obtain ⟨segs, packs⟩ := ih hx
      exact ⟨segs, .cons (.refl r) packs⟩

theorem Write.opened_packs {n : Option Nat} {w w1 : Write} (h : w.opened = some w1) : Write.Packs n w w1 := by
  unfold Write.opened at h
  split at h <;> cases h <;> exact .of_gaths rfl

theorem Write.openedOr_packs (n : Option Nat) (w : Write) : Write.Packs n w (w.opened.getD w) := by
  cases h : w.opened with
  | none => exact .refl n w
  | some x => exact Write.opened_packs h

/-- A write side with one gathering more, whose number is new. -/
theorem Write.Packs.append {n : Nat} {w w' : Write} {l : List Gath} (rest : w' = { w with
    gaths := w.gaths ++ l, openSegs := w'.openSegs
    openBytes := w'.openBytes, openBuf := w'.openBuf, bufs := w'.bufs, closeDue := w'.closeDue, flushes := w'.flushes })
    (idle : w.flushes = [] → w'.flushes = []) (h : ∀ g ∈ l, n ≤ g.gnum) : Write.Packs (some n) w w' := by
  have same : w'.gaths = w.gaths ++ l := by rw [rest]
  refine ⟨by rw [rest], fun g hg => ⟨g, by rw [same]; exact List.mem_append_left _ hg, .refl g⟩, fun g hg => ?_, idle⟩
  rw [same] at hg
  obtain hg | hg := List.mem_append.1 hg
  · exact .inl ⟨g, hg, .refl g⟩
  · exact .inr ⟨n, rfl, h g hg⟩

/-- The records of a gathering that closes note its group. -/
theorem forall₂_grouped (f : Rec → Bool) (n : Nat) (l : List Rec) :
    List.Forall₂ Rec.Packs l (l.map fun r => if f r then { r with grps := if r.grps.contains n then r.grps else r.grps ++ [n] } else r) :=
  forall₂_map_packs _ (fun r => by split <;> rfl) l

theorem State.closeGath_packs (s : State) (st : Stn) (forFlush ends : Bool) : (s.stns[st]).Packs (s.closeGath st forFlush ends).stns[st] := by
  unfold State.closeGath
  extract_lets t
  split
  · exact .refl _
  next v hv =>
    rw [State.addJob_stns, State.modStn_stn]
    refine .of_ctx hv ⟨rfl, Nat.le_succ _, forall₂_grouped _ _ _⟩ ?_
    refine (Write.openedOr_packs (some v.gnum) (s.stns[st]).write).trans (n' := some v.gnum) (.append rfl (fun e => ?_) fun g hg => ?_) fun m hm => ⟨m, hm, le_refl m⟩
    · dsimp only
      rw [e]
      split <;> rfl
    rw [List.mem_singleton.1 hg]
    exact le_refl v.gnum

theorem State.assembleOnce_packs {s t : State} {st : Stn} (h : s.assembleOnce st = some t) : (s.stns[st]).Packs t.stns[st] := by
  unfold State.assembleOnce at h
  extract_lets u at h
  split at h
  · cases h
  next v hv =>
    split at h
    · cases h
    next w hw =>
      have open_ : Write.Packs (some v.gnum) u.write w := by
        split at hw
        · exact Write.opened_packs hw
        · cases hw
      extract_lets job full inc ends at h
      clear_value job
      split at h
      next w1 recs packed =>
        cases h
        have both : w.Segs w1 ∧ List.Forall₂ Rec.Packs v.recs recs := by
          cases inc : packInc w v.recs with
          | some x =>
            rw [inc] at packed
            cases packed
            exact packInc_packs inc
          | none =>
            rw [inc] at packed
            have packed : (if full then none else packFirst w (job.map (·.cover)) v.recs) = some (w1, recs) := packed
            split at packed
            · cases packed
            · exact packFirst_packs packed
        obtain ⟨segs, packs⟩ := both
        rw [State.modStn_stn]
        refine .of_ctx hv (.of_recs v packs) (open_.trans (n' := some v.gnum) (.of_gaths ?_) fun m hm => ⟨m, hm, le_refl m⟩)
        rw [show w1 = _ from segs]
      split at h
      · cases h
      split at h
      · cases h; exact State.closeGath_packs ..
      split at h
      · cases h; exact State.closeGath_packs ..
      split at h
      · split at h
        · cases h; exact State.closeGath_packs ..
        · cases h
      · split at h
        · cases h; exact State.closeGath_packs ..
        split at h
        · cases h; exact State.closeGath_packs ..
        · cases h

theorem State.assemble_packs (s : State) (st : Stn) (n : Nat) : (s.stns[st]).Packs (s.assemble st n).stns[st] := by
  induction n generalizing s with
  | zero => exact .refl _
  | succ n ih =>
    generalize ht : s.assemble st (n + 1) = t
    unfold State.assemble at ht
    split at ht
    next s1 h =>
      rw [← ht]
      exact (State.assembleOnce_packs h).trans (ih s1)
    · rw [← ht]
      exact .refl _

theorem foldl_addJob_stns {α : Type} (d : DieId) (r : Fin 4) (f : State → α → Job) (l : List α) (s : State) :
    (l.foldl (fun a x => a.addJob d r (f a x)) s).stns = s.stns := by
  induction l generalizing s with
  | nil => rfl
  | cons x l ih => exact (ih _).trans rfl

theorem State.numberLabels_packs (s : State) (st : Stn) : (s.stns[st]).Packs (s.numberLabels st).stns[st] := by
  generalize hu : s.numberLabels st = u
  unfold State.numberLabels at hu
  extract_lets t at hu
  split at hu
  · rw [← hu]; exact .refl _
  next v hv =>
    dsimp only at hu
    split at hu
    · rw [← hu]; exact .refl _
    · rw [← hu, foldl_addJob_stns, State.modStn_stn]
      refine .of_ctx hv ⟨rfl, Nat.le_add_right _ _, List.forall₂_same.2 fun r _ => .refl r⟩ (.append rfl id fun g hg => ?_)
      obtain ⟨p, -, rfl⟩ := List.mem_map.1 hg
      exact Nat.le_add_right _ _

theorem State.assembleAll_packs (s : State) (st : Stn) : (s.stns[st]).Packs (s.assembleAll st).stns[st] := by
  unfold State.assembleAll
  split
  · exact .refl _
  · exact (State.numberLabels_packs ..).trans (State.assemble_packs ..)

end Sys2Proof.Machine
end

section
/-!
PROOFS of the dips of VDD_CORE and the junctions (12, R408 to R411).
-/
namespace Sys2Proof.Machine

theorem EventsOnly.supply {s t : State} (h : EventsOnly s t) : t.supply = s.supply := by rw [h.1]

theorem EventsOnly.thermal {s t : State} (h : EventsOnly s t) : t.thermal = s.thermal := by rw [h.1]

theorem State.raise_supply (s : State) (n x : Nat) : (s.raise n x).supply = s.supply := (State.raise_events s n x).supply

theorem State.raise_thermal (s : State) (n x : Nat) : (s.raise n x).thermal = s.thermal := (State.raise_events s n x).thermal

theorem State.raise_stn (s : State) (n x : Nat) (st : Stn) : (s.raise n x).stns[st] = s.stns[st] := by rw [State.raise_keeps_stns]

/-! ### Dips -/

/-- What `eachWriting` does is done for every station whose write feed is on. -/
theorem State.eachWriting_stnsOnly (s : State) {f : State → Stn → State} (only : ∀ a st, StnOnly st a (f a st)) : StnsOnly s (s.eachWriting f) :=
  foldl_stnsOnly (fun a st => by split <;> [exact StnOnly.refl st a; exact only a st]) allStns s

theorem State.eachWriting_stn (s : State) {f : State → Stn → State} (only : ∀ a st, StnOnly st a (f a st)) (j : Stn)
    (on : (s.stns[j]).write.feed ≠ .off) :
    ∃ a : State, a.stns[j] = s.stns[j] ∧ ((s.eachWriting f).stns[j]) = (f a j).stns[j] := by
  obtain ⟨a, -, same, out⟩ := foldl_allStns_stn (f := fun a st => if (a.stns[st]).write.feed = .off then a else f a st)
    (fun a st => by split <;> [exact StnOnly.refl st a; exact only a st]) s j
  refine ⟨a, same, out.trans ?_⟩
  rw [if_neg (by rw [same]; exact on)]

theorem State.regrade_stnsOnly (s : State) (x : Regrade) : StnsOnly s (s.regrade x) := by
  unfold State.regrade
  extract_lets st
  split
  · exact StnsOnly.refl s
  split
  · exact StnsOnly.refl s
  extract_lets g
  split
  · exact StnsOnly.refl s
  · exact (State.modStn_stnOnly ..).stnsOnly

theorem State.resume_stnOnly (s : State) (st : Stn) : StnOnly st s (s.resume st) := State.modStn_stnOnly ..

theorem State.fillResume_stnOnly (s : State) (st : Stn) : StnOnly st s (s.fillResume st) := by
  unfold State.fillResume
  extract_lets t s1
  refine StnOnly.trans ?_ (State.capDown_stnOnly ..)
  refine StnOnly.trans ?_ (State.resume_stnOnly ..)
  have fill : StnOnly st s s1 := State.modStn_stnOnly ..
  split
  · exact fill
  · exact fill.trans (State.emit_stnOnly ..)

theorem State.dipResume_stnOnly (s : State) (st : Stn) : StnOnly st s (s.dipResume st) := by
  unfold State.dipResume
  extract_lets t
  split
  · exact State.fillResume_stnOnly ..
  · exact StnOnly.refl st s

/-- A dip that begins with a level. -/
def State.dipBegun (s : State) (mv : Nat) : State :=
  { s.railReads 0 mv with
    supply := { (s.railReads 0 mv).supply with dip := true, recov := false, dipStart := s.clock, dipNow := 10 * mv, dipStopped := false } }

theorem exec_vddCoreWarning_begins (s : State) {mv : Nat} (low : mv < 715) (calm : s.supply.dip = false) :
    ∃ t, exec (.vddCoreWarning mv) s = .next t ∧ t.supply.dip = true ∧ t.supply.dipStart = s.clock ∧
      t.supply.dipNow = 10 * mv ∧ t.flagged 2 ∧ ∀ st : Stn, (s.stns[st]).write.feed = .writing → (t.stns[st]).write.feed = .runOut := by
  have only : ∀ (a : State) (st : Stn), StnOnly st a (if (a.stns[st]).write.feed = Feed.writing then a.runOut st else a) := fun a st => by
    split
    · exact (State.runOut_writeOnly a st).toStnOnly
    · exact StnOnly.refl st a
  have run : exec (.vddCoreWarning mv) s =
      .next (((s.dipBegun mv).raise 2).eachWriting fun a st => if (a.stns[st]).write.feed = Feed.writing then a.runOut st else a) :=
    congrArg Host.Outcome.next ((if_neg (by omega)).trans (if_neg (by simp [State.railReads, calm])))
  refine ⟨_, run, ?_⟩
  have rest := State.eachWriting_stnsOnly
    ((s.dipBegun mv).raise 2)
    only
  refine ⟨?_, ?_, ?_, rest.flagged (State.raise_flagged _ 2 0 (by decide)), fun st writing => ?_⟩
  · rw [rest.supply, State.raise_supply]; rfl
  · rw [rest.supply, State.raise_supply]; rfl
  · rw [rest.supply, State.raise_supply]; rfl
  · obtain ⟨a, same, out⟩ := State.eachWriting_stn
      ((s.dipBegun mv).raise 2)
      only st (by rw [State.raise_stn]; show (s.stns[st]).write.feed ≠ _; rw [writing]; decide)
    have here : (a.stns[st]).write.feed = .writing := by rw [same, State.raise_stn]; exact writing
    rw [out, if_pos here]
    exact State.runOut_feed a st here

theorem exec_vddCoreWarning_again (s : State) {mv : Nat} (low : mv < 715) (dip : s.supply.dip = true) :
    ∃ t, exec (.vddCoreWarning mv) s = .next t ∧ t.supply.dip = true ∧ t.supply.recov = false ∧
      t.supply.dipNow = min s.supply.dipNow (10 * mv) ∧ (s.supply.recov = true → t.flagged 2) ∧ t.stns = s.stns := by
  let s2 : State := { s.railReads 0 mv with
    supply := { (s.railReads 0 mv).supply with recov := false, dipNow := min s.supply.dipNow (10 * mv) } }
  have run : exec (.vddCoreWarning mv) s = .next (if s.supply.recov then s2.raise 2 else s2) :=
    congrArg Host.Outcome.next ((if_neg (by omega)).trans (if_pos dip))
  refine ⟨_, run, ?_⟩
  split
  next recov => exact ⟨by rw [State.raise_supply]; exact dip, by rw [State.raise_supply], by rw [State.raise_supply],
    fun _ => State.raise_flagged _ 2 0 (by decide), State.raise_keeps_stns ..⟩
  next recov => exact ⟨dip, rfl, rfl, fun h => absurd h recov, rfl⟩

theorem exec_dipStop_of_dip (s : State) (dip : s.supply.dip = true) (first : s.supply.dipStopped = false) :
    ∃ t, exec .dipStop s = .next t ∧ t.supply = { s.supply with dipStopped := true } ∧
      ∀ st : Stn, (s.stns[st]).write.feed ≠ .off → (s.stns[st]).servo.motion = .moving → (t.stns[st]).servo.stops = true := by
  refine ⟨_, congrArg Host.Outcome.next (if_neg (by simp [dip, first])), ?_, fun st on moves => ?_⟩
  · rw [(State.eachWriting_stnsOnly _ State.controlledStop_stnOnly).supply]
  · obtain ⟨a, same, out⟩ := State.eachWriting_stn { s with supply := { s.supply with dipStopped := true } }
      State.controlledStop_stnOnly st on
    rw [out]
    exact State.controlledStop_stops a st (by rw [same]; exact moves)

/-- The supply after a recovery: the dip is over, and its length in µs and its minimum are kept. -/
def Supply.dipOver (u : Supply) (clock low : Nat) : Supply :=
  { u with
    dip := false, recov := false
    dipLen := BitVec.ofNat 32 (if (clock - u.dipStart) / 800 < 2 ^ 32 then (clock - u.dipStart) / 800 else 2 ^ 32 - 1)
    dipMin := BitVec.ofNat 16 (if 10 * low < u.dipNow then 10 * low else u.dipNow) }

theorem State.regrades_supply (l : List Regrade) (a : State) : (l.foldl (fun a x => a.regrade x) a).supply = a.supply := by
  induction l generalizing a with
  | nil => rfl
  | cons x l ih => exact (ih _).trans (State.regrade_stnsOnly a x).supply

theorem exec_dipRecovery_run (s : State) (low : Nat) (regrades : List Regrade) (dip : s.supply.dip = true) :
    ∃ (a : State) (n : Nat), exec (.dipRecovery low regrades) s = .next (allStns.foldl (fun a st => a.dipResume st) (a.raise 1 n)) ∧
      a.supply = s.supply.dipOver s.clock low :=
  ⟨_, _, congrArg Host.Outcome.next (if_neg (by simp [dip])),
    State.regrades_supply regrades { s with supply := s.supply.dipOver s.clock low }⟩

theorem exec_dipRecovery_of_dip (s : State) (low : Nat) (regrades : List Regrade) (dip : s.supply.dip = true) :
    ∃ t, exec (.dipRecovery low regrades) s = .next t ∧ t.supply.dip = false ∧ t.supply.recov = false ∧
      t.supply.dipMin = BitVec.ofNat 16 (min s.supply.dipNow (10 * low)) ∧
      t.supply.dipLen = BitVec.ofNat 32 (min ((s.clock - s.supply.dipStart) / 800) (2 ^ 32 - 1)) ∧ t.flagged 1 := by
  obtain ⟨a, n, run, supply⟩ := exec_dipRecovery_run s low regrades dip
  have rest := foldl_stnsOnly State.dipResume_stnOnly allStns (a.raise 1 n)
  have done := rest.supply.trans ((State.raise_supply a 1 n).trans supply)
  refine ⟨_, run, by rw [done]; rfl, by rw [done]; rfl, ?_, ?_, rest.flagged (State.raise_flagged a 1 n (by decide))⟩
  · rw [done]
    exact congrArg (BitVec.ofNat 16) (by split <;> omega)
  · rw [done]
    exact congrArg (BitVec.ofNat 32) (by split <;> omega)

/-! ### Junctions -/

theorem State.setCap_thermal (s : State) (c : Option Nat) : (s.setCap c).thermal = { s.thermal with cap := c } :=
  (foldl_stnsOnly State.capDown_stnOnly allStns _).thermal

theorem State.setCap_flagged {s : State} {n : Nat} (c : Option Nat) (h : s.flagged n) : (s.setCap c).flagged n :=
  (foldl_stnsOnly State.capDown_stnOnly allStns { s with thermal := { s.thermal with cap := c } }).flagged h

theorem exec_thermalThrottle_begins (s : State) (d : DieId) (temp : BitVec 16) (hot : (s.img.throttleC : Int) * 256 ≤ temp.toInt)
    (cool : s.thermal.throt = false) :
    ∃ t, exec (.thermalThrottle d temp) s = .next t ∧ t.thermal.throt = true ∧ t.thermal.cap = some (s.topMoving - 4) ∧ t.flagged 3 := by
  refine ⟨_, congrArg Host.Outcome.next ((if_neg (by omega)).trans (if_neg (by simp [cool]))), ?_, ?_,
    State.setCap_flagged _ (State.raise_flagged _ 3 0 (by decide))⟩
  · rw [State.setCap_thermal, State.raise_thermal]
  · rw [State.setCap_thermal]

theorem exec_thermalThrottleStep_of_cap (s : State) {c : Nat} (hot : s.thermal.throt = true) (cap : s.thermal.cap = some c) :
    ∃ t, exec .thermalThrottleStep s = .next t ∧ t.thermal = { s.thermal with cap := some (c - 4) } := by
  refine ⟨s.setCap (some (c - 4)), ?_, State.setCap_thermal ..⟩
  show execThermalThrottleStep s = _
  unfold execThermalThrottleStep
  rw [hot, cap]

theorem exec_thermalThrottleStep_idle (s : State) (h : s.thermal.throt = false ∨ s.thermal.cap = none) :
    exec .thermalThrottleStep s = .next s := by
  show execThermalThrottleStep s = _
  unfold execThermalThrottleStep
  rcases h with h | h
  · rw [h]
  · rw [h]; split <;> [contradiction; rfl]

theorem exec_thermalCapRaise_eq (s : State) :
    ∃ t, exec .thermalCapRaise s = .next t ∧ t.thermal.throt = false ∧
      (∀ c, s.thermal.cap = some c → t.thermal.cap = if s.topGeo < c + 4 then none else some (c + 4)) ∧ t.stns = s.stns :=
  ⟨_, rfl, rfl, fun c hc => by show s.thermal.cap.bind _ = _; rw [hc]; rfl, rfl⟩

theorem exec_thermalStop_begins (s : State) (d : DieId) (temp : BitVec 16) (hot : (s.img.stopC : Int) * 256 ≤ temp.toInt)
    (cool : s.thermal.stop = false) :
    ∃ t, exec (.thermalStop d temp) s = .next t ∧ t.thermal.stop = true ∧ t.flagged 4 ∧
      ∀ st : Stn, (s.stns[st]).servo.motion = .moving → (t.stns[st]).servo.stops = true := by
  have run : ∃ a : State, exec (.thermalStop d temp) s = .next (allStns.foldl (fun a st => a.controlledStop st) (a.raise 4)) ∧
      a.thermal.stop = true ∧ a.stns = s.stns :=
    ⟨_, congrArg Host.Outcome.next ((if_neg (by omega)).trans (if_neg (by simp [cool]))), rfl, rfl⟩
  obtain ⟨a, run, stop, stns⟩ := run
  have rest := foldl_stnsOnly State.controlledStop_stnOnly allStns (a.raise 4)
  refine ⟨_, run, by rw [rest.thermal, State.raise_thermal, stop], rest.flagged (State.raise_flagged a 4 0 (by decide)), fun st moves => ?_⟩
  obtain ⟨b, -, same, out⟩ := foldl_allStns_stn State.controlledStop_stnOnly (a.raise 4) st
  rw [out]
  exact State.controlledStop_stops b st (by rw [same, State.raise_stn, stns]; exact moves)

/-- Settles O42: each level is one branch of its row, and the stations are visited in turn, each by an operation that touches it alone. -/
theorem dipsAndHeat : Obligations.DipsAndHeat := by
  unfold Obligations.DipsAndHeat
  refine ⟨fun s => ⟨?_, fun mv => exec_vddCoreWarning_begins s, fun mv => exec_vddCoreWarning_again s, exec_dipStop_of_dip s,
    exec_dipRecovery_of_dip s, ?_⟩, fun s => ⟨?_, exec_thermalThrottle_begins s, fun c => exec_thermalThrottleStep_of_cap s,
    exec_thermalThrottleStep_idle s, exec_thermalCapRaise_eq s, ?_, exec_thermalStop_begins s, ⟨_, rfl, rfl, rfl, rfl⟩⟩⟩
  · exact fun mv high => congrArg Host.Outcome.next (if_pos high)
  · exact fun calm low regrades => ⟨congrArg Host.Outcome.next (if_pos (by simp [calm])), congrArg Host.Outcome.next (if_pos (by simp [calm]))⟩
  · exact fun d temp cool => congrArg Host.Outcome.next (if_pos cool)
  · exact fun d temp cool => congrArg Host.Outcome.next (if_pos cool)

end Sys2Proof.Machine
end

section
/-!
SUPPORT. The commands of the other queues and tags while one changes or ends, and `Woken`: what the return of buffers to their pools, and
the grants that follow it, can do (R313).
-/
namespace Sys2Proof.Machine

/-! ### Commands under other names -/

theorem find_dropFirst {α : Type} (p q : α → Bool) (l : List α) (h : ∀ x, p x = true → q x = false) :
    (dropFirst p l).find? q = l.find? q := by
  induction l with
  | nil => rfl
  | cons x r ih =>
    unfold dropFirst
    split
    next hp => rw [List.find?_cons_of_neg (by simp [h x hp])]
    · simp only [List.find?_cons, ih]

theorem find_modFirst_ne {α : Type} (p q : α → Bool) (f : α → α) (l : List α) (h : ∀ x, p x = true → q x = false ∧ q (f x) = false) :
    (modFirst p f l).find? q = l.find? q := by
  induction l with
  | nil => rfl
  | cons x r ih =>
    unfold modFirst
    split
    next hp => rw [List.find?_cons_of_neg (by simp [(h x hp).2]), List.find?_cons_of_neg (by simp [(h x hp).1])]
    · simp only [List.find?_cons, ih]

theorem State.cmd_of_qp {s t : State} {r : CmdRef} (h : (t.ports[r.port]).qp? r.qid = (s.ports[r.port]).qp? r.qid) : t.cmd? r = s.cmd? r := by
  unfold State.cmd?
  rw [h]

/-- The command of another name after a change of the commands of one queue. -/
theorem State.modQp_cmd_ne (s : State) (r r' : CmdRef) (f : Qp → Qp) (hid : ∀ x, (f x).id = x.id) (ne : r' ≠ r)
    (same : ∀ x : Qp, r'.tag ≠ r.tag → ((f x).cmds.find? fun c => c.entry.tag == r'.tag) = x.cmds.find? fun c => c.entry.tag == r'.tag) :
    (s.modQp r.port r.qid f).cmd? r' = s.cmd? r' := by
  obtain ⟨p, q, t⟩ := r
  obtain ⟨p', q', t'⟩ := r'
  by_cases hp : p' = p
  · subst hp
    by_cases hq : q' = q
    · subst hq
      have ht : t' ≠ t := fun ht => ne (by rw [ht])
      unfold State.cmd?
      dsimp only
      rw [State.modQp_qp _ _ _ _ hid]
      cases (s.ports[p']).qp? q' with
      | none => rfl
      | some x => exact same x ht
    · exact State.cmd_of_qp (State.modQp_other _ _ _ _ _ hid hq)
  · exact State.cmd_of_qp (congrArg (fun h => HostPort.qp? h q') (State.modQp_port s _ _ _ f hp))

theorem State.modCmd_cmd_ne (s : State) {r r' : CmdRef} (f : Cmd → Cmd) (hf : ∀ k, (f k).entry = k.entry) (ne : r' ≠ r) :
    (s.modCmd r f).cmd? r' = s.cmd? r' := by
  refine State.modQp_cmd_ne s r r' _ (fun _ => rfl) ne fun x ht => find_modFirst_ne _ _ _ _ fun k hk => ?_
  have tag : k.entry.tag = r.tag := eq_of_beq hk
  rw [hf, tag]
  exact ⟨beq_false_of_ne (Ne.symm ht), beq_false_of_ne (Ne.symm ht)⟩

theorem State.finish_cmd_ne (s : State) {r r' : CmdRef} (f : Ending) (ne : r' ≠ r) : (s.finish r f).cmd? r' = s.cmd? r' := by
  unfold State.finish
  split
  · rfl
  · next c hc =>
    unfold State.putDone
    dsimp only
    refine (State.modQp_cmd_ne _ r r' _ (by exact fun _ => rfl) ne (by exact fun _ _ => rfl)).trans ?_
    refine Eq.trans ?_ (State.modQp_cmd_ne s r r' (fun x => { x with cmds := dropFirst (fun k => k.entry.tag == r.tag) x.cmds }) (fun _ => rfl) ne
      fun x ht => find_dropFirst _ _ _ fun k hk => ?_)
    · split
      · exact State.cmd_congr _ (State.logErr_qps ..)
      · rfl
    · rw [show k.entry.tag = r.tag from eq_of_beq hk]
      exact beq_false_of_ne (Ne.symm ht)

/-! ### What waits to be written -/

/-- Of every queue the completions that wait still do, before any that have come; the rest of it is as it was, but for its commands and
keys and for a RESET_QP. -/
def DonesGrow (s t : State) : Prop :=
  ∀ (p : Port) (q : Nat) (x : Qp), (s.ports[p]).qp? q = some x → ∃ y l, (t.ports[p]).qp? q = some y ∧ y.done = x.done ++ l

theorem DonesGrow.refl (s : State) : DonesGrow s s := fun _ _ x h => ⟨x, [], h, (List.append_nil _).symm⟩

theorem DonesGrow.trans {s t u : State} (h : DonesGrow s t) (k : DonesGrow t u) : DonesGrow s u := fun p q x hx => by
  obtain ⟨y, l, hy, dy⟩ := h p q x hx
  obtain ⟨z, m, hz, dz⟩ := k p q y hy
  exact ⟨z, l ++ m, hz, by rw [dz, dy, List.append_assoc]⟩

theorem DonesGrow.of_qps {s t : State} (h : ∀ p : Port, (t.ports[p]).qps = (s.ports[p]).qps) : DonesGrow s t := fun p q x hx =>
  ⟨x, [], (HostPort.qp_congr (h p) q).trans hx, (List.append_nil _).symm⟩

theorem DonesGrow.of_service {s t : State} (h : t.service = s.service) : DonesGrow s t := DonesGrow.of_qps (qps_of_service h)

theorem State.modQp_donesGrow (s : State) (p : Port) (q : Nat) (f : Qp → Qp) (hid : ∀ x, (f x).id = x.id) (hf : ∀ x, ∃ l, (f x).done = x.done ++ l) :
    DonesGrow s (s.modQp p q f) := fun p' q' x hx => by
  by_cases hp : p' = p
  · subst hp
    by_cases hq : q' = q
    · subst hq
      obtain ⟨l, hl⟩ := hf x
      exact ⟨f x, l, by rw [State.modQp_qp _ _ _ _ hid, hx]; rfl, hl⟩
    · exact ⟨x, [], by rw [State.modQp_other _ _ _ _ _ hid hq, hx], (List.append_nil _).symm⟩
  · exact ⟨x, [], by rw [State.modQp_port _ _ _ _ _ hp, hx], (List.append_nil _).symm⟩

theorem State.modCmd_donesGrow (s : State) (r : CmdRef) (f : Cmd → Cmd) : DonesGrow s (s.modCmd r f) :=
  State.modQp_donesGrow s _ _ _ (fun _ => rfl) fun _ => ⟨[], (List.append_nil _).symm⟩

theorem State.finish_donesGrow (s : State) (r : CmdRef) (f : Ending) : DonesGrow s (s.finish r f) := by
  unfold State.finish
  split
  · exact DonesGrow.refl s
  · unfold State.putDone
    dsimp only
    refine DonesGrow.trans ?_ (State.modQp_donesGrow _ _ _ _ (by exact fun _ => rfl) fun x => ⟨_, rfl⟩)
    have dropped := State.modQp_donesGrow s r.port r.qid
      (fun x => { x with cmds := dropFirst (fun k => k.entry.tag == r.tag) x.cmds }) (fun _ => rfl) fun _ => ⟨[], (List.append_nil _).symm⟩
    split
    · exact dropped.trans (DonesGrow.of_qps fun p' => State.logErr_qps ..)
    · exact dropped

theorem DonesGrow.answered {s t : State} (h : DonesGrow s t) {r : CmdRef} {n : Nat} (ha : s.answered r n) : t.answered r n := by
  obtain ⟨x, d, hx, hd, rest⟩ := ha
  obtain ⟨y, l, hy, dy⟩ := h _ _ x hx
  exact ⟨y, d, hy, by rw [dy]; exact List.mem_append_left _ hd, rest⟩

theorem State.answered_of_ended {s : State} {r : CmdRef} {a b : Nat} (h : s.ended r a b) : s.answered r a := by
  obtain ⟨x, d, hx, last, tag, fin, st, -⟩ := h
  exact ⟨x, d, hx, List.mem_of_getLast? last, tag, fin, st⟩

/-! ### Buffers that return -/

/-- A command keeps its phase, but for one that waited for a buffer. -/
def Cmd.GoesOn (k k' : Cmd) : Prop := k'.phase = k.phase ∨ k.phase = .needBuffer ∨ k.phase = .waitBuffer

theorem Cmd.GoesOn.trans {a b c : Cmd} (h : a.GoesOn b) (k : b.GoesOn c) : a.GoesOn c := by
  obtain h | h := h
  · unfold Cmd.GoesOn at *
    rwa [h] at k
  · exact .inr h

/-- A die keeps its fault, and its engine regions their lanes in service (`Engine.Kept`). -/
structure Die.Stays (x y : Die) : Prop where
  fault : y.fault = x.fault
  lanes : ∀ r : Fin 4, (x.engines[r]).Kept y.engines[r]

theorem Die.Stays.refl (x : Die) : x.Stays x := ⟨rfl, fun _ => Engine.Kept.refl _⟩

theorem Die.Stays.trans {x y z : Die} (h : x.Stays y) (k : y.Stays z) : x.Stays z :=
  ⟨k.fault.trans h.fault, fun r => (h.lanes r).trans (k.lanes r)⟩

theorem Die.Stays.of_eq {x y : Die} (h : y.fault = x.fault ∧ y.engines = x.engines) : x.Stays y :=
  ⟨h.1, fun r => by rw [h.2]; exact Engine.Kept.refl _⟩

/-- What waking the waiters of the pools can do: buffers are granted, and IDENTIFY and GET_LOG send their data and end. -/
structure Woken (s t : State) : Prop where
  rest : t = { s with ports := t.ports, dies := t.dies, hbm := t.hbm, stns := t.stns, out := t.out, fresh := t.fresh }
  stns : ∀ j : Stn, (s.stns[j]).Packs t.stns[j]
  flagged : ∀ n, s.flagged n → t.flagged n
  qps : QpsKept s t
  dones : DonesGrow s t
  cmd : ∀ r k, s.cmd? r = some k → k.entry.opc ≠ 0x80 → k.entry.opc ≠ 0x84 →
    ∃ k', t.cmd? r = some k' ∧ k'.entry = k.entry ∧ k'.status = k.status ∧ k'.lon = k.lon ∧ k.GoesOn k'
  flushes : ∀ j : Stn, (t.stns[j]).write.flushes = (s.stns[j]).write.flushes
  left : OutGrows s t
  core : ∀ d : DieId, (s.dies[d]).Stays t.dies[d]
  lost : ∀ n : Fin 4, (t.hbm[n]).lost = (s.hbm[n]).lost

theorem Woken.refl (s : State) : Woken s s :=
  ⟨rfl, fun _ => Station.Packs.refl _, fun _ h => h, QpsKept.refl s, DonesGrow.refl s, fun _ k h _ _ => ⟨k, h, rfl, rfl, rfl, .inl rfl⟩,
    fun _ => rfl, OutGrows.refl s, fun _ => Die.Stays.refl _, fun _ => rfl⟩

theorem Woken.trans {s t u : State} (h : Woken s t) (k : Woken t u) : Woken s u where
  rest := by rw [k.rest, h.rest]
  stns := fun j => (h.stns j).trans (k.stns j)
  flagged := fun n hn => k.flagged n (h.flagged n hn)
  qps := h.qps.trans k.qps
  dones := h.dones.trans k.dones
  cmd := fun r c hc h80 h84 => by
    obtain ⟨c1, hc1, e1, s1, l1, g1⟩ := h.cmd r c hc h80 h84
    obtain ⟨c2, hc2, e2, s2, l2, g2⟩ := k.cmd r c1 hc1 (by rw [e1]; exact h80) (by rw [e1]; exact h84)
    exact ⟨c2, hc2, e2.trans e1, s2.trans s1, l2.trans l1, g1.trans g2⟩
  flushes := fun j => (k.flushes j).trans (h.flushes j)
  left := h.left.trans k.left
  core := fun d => (h.core d).trans (k.core d)
  lost := fun n => (k.lost n).trans (h.lost n)

/-- An operation that leaves the ports and the stations alone. -/
theorem Woken.of_dies {s t : State} (rest : t = { s with dies := t.dies, hbm := t.hbm, out := t.out, fresh := t.fresh })
    (core : ∀ d : DieId, (s.dies[d]).Stays t.dies[d]) (lost : ∀ n : Fin 4, (t.hbm[n]).lost = (s.hbm[n]).lost) (left : OutGrows s t) :
    Woken s t where
  core := core
  lost := lost
  rest := by rw [rest]
  stns := fun j => by rw [rest]; exact Station.Packs.refl _
  flagged := fun n h => by rw [rest]; exact h
  qps := by rw [rest]; exact QpsKept.of_qps fun _ => rfl
  dones := by rw [rest]; exact DonesGrow.of_qps fun _ => rfl
  cmd := fun r k h _ _ => ⟨k, by rw [rest]; exact h, rfl, rfl, rfl, .inl rfl⟩
  flushes := fun j => by rw [rest]
  left := left

theorem State.modStn_woken (s : State) (st : Stn) (f : Station → Station) (same : ∀ x : Station, x.Packs (f x))
    (flushes : ∀ x : Station, (f x).write.flushes = x.write.flushes) : Woken s (s.modStn st f) where
  rest := rfl
  stns := fun j => by
    rw [State.modStn_stns, vmod_get]
    split
    · exact same _
    · exact Station.Packs.refl _
  flagged := fun _ h => h
  qps := QpsKept.of_qps fun _ => rfl
  dones := DonesGrow.of_qps fun _ => rfl
  cmd := fun _ k h _ _ => ⟨k, h, rfl, rfl, rfl, .inl rfl⟩
  flushes := fun j => by
    rw [State.modStn_stns, vmod_get]
    split
    · exact flushes _
    · rfl
  left := OutGrows.of_eq rfl
  core := fun _ => Die.Stays.refl _
  lost := fun _ => rfl

theorem State.modCmd_flagged {s : State} {n : Nat} (r : CmdRef) (f : Cmd → Cmd) (h : s.flagged n) : (s.modCmd r f).flagged n := fun p => by
  refine Eq.trans ?_ (h p)
  unfold State.modCmd State.modQp
  rw [State.modPort_ports, vmod_get]
  split <;> rfl

/-- A command goes on with the buffer that it asked for. -/
theorem State.modCmd_woken (s : State) (r : CmdRef) (f : Cmd → Cmd)
    (hf : ∀ k, (f k).entry = k.entry ∧ (f k).status = k.status ∧ (f k).lon = k.lon ∧ k.GoesOn (f k)) : Woken s (s.modCmd r f) where
  rest := rfl
  stns := fun _ => Station.Packs.refl _
  flagged := fun _ h => State.modCmd_flagged r f h
  qps := State.modCmd_qpsKept ..
  dones := State.modCmd_donesGrow s r f
  cmd := fun r' k h _ _ => by
    by_cases e : r' = r
    · subst e
      exact ⟨f k, by rw [State.modCmd_cmd _ _ _ fun k => (hf k).1, h]; rfl, hf k⟩
    · exact ⟨k, by rw [State.modCmd_cmd_ne _ _ (fun k => (hf k).1) e, h], rfl, rfl, rfl, .inl rfl⟩
  flushes := fun _ => rfl
  left := OutGrows.of_eq rfl
  core := fun _ => Die.Stays.refl _
  lost := fun _ => rfl

/-- The fault and the engine regions of a die, while an event is raised or a command ends. -/
theorem EventsOnly.core {s t : State} (h : EventsOnly s t) (d : DieId) : (s.dies[d]).Stays t.dies[d] := by
  rw [h.2.2.1 d]
  exact Die.Stays.of_eq ⟨rfl, rfl⟩

theorem State.logErr_core (s : State) (p : Port) (e : CmdErr) (d : DieId) : (s.dies[d]).Stays (s.logErr p e).dies[d] :=
  (Die.Stays.of_eq ⟨rfl, rfl⟩).trans ((State.logErr_events s p e).core d)

theorem State.finish_core (s : State) (r : CmdRef) (f : Ending) (d : DieId) : (s.dies[d]).Stays (s.finish r f).dies[d] := by
  unfold State.finish
  split
  · exact Die.Stays.refl _
  next c _ =>
    unfold State.putDone
    dsimp only
    split
    · have logged := State.logErr_core (s.modQp r.port r.qid fun x => { x with cmds := dropFirst (fun k => k.entry.tag == r.tag) x.cmds }) r.port
        (cmdErr s.micros r.qid c.entry f) d
      exact ⟨logged.fault, logged.lanes⟩
    · exact Die.Stays.refl _

/-- An IDENTIFY or GET_LOG ends. -/
theorem State.finish_woken {s : State} {r : CmdRef} {k : Cmd} (h : s.cmd? r = some k) (opc : k.entry.opc = 0x80 ∨ k.entry.opc = 0x84) (f : Ending) :
    Woken s (s.finish r f) where
  rest := by rw [State.finish_portsOnly s r f]
  stns := fun j => by rw [State.finish_portsOnly s r f]; exact Station.Packs.refl _
  flagged := fun n hn => State.finish_flagged s r f n hn
  qps := State.finish_qpsKept ..
  dones := State.finish_donesGrow s r f
  cmd := fun r' k' hk h80 h84 => by
    have ne : r' ≠ r := by
      rintro rfl
      rw [h] at hk
      cases hk
      exact opc.elim h80 h84
    exact ⟨k', (State.finish_cmd_ne s f ne).trans hk, rfl, rfl, rfl, .inl rfl⟩
  flushes := fun j => by rw [State.finish_portsOnly s r f]
  left := State.finish_outGrows s r f
  core := State.finish_core s r f
  lost := fun n => by rw [State.finish_portsOnly s r f]

theorem foldl_woken {α : Type} {f : State → α → State} (h : ∀ a x, Woken a (f a x)) (l : List α) (s : State) : Woken s (l.foldl f s) := by
  induction l generalizing s with
  | nil => exact Woken.refl s
  | cons x l ih => exact (h s x).trans (ih _)

theorem State.modDie_core (s : State) (d d' : DieId) (f : Die → Die) (h : ∀ x : Die, x.Stays (f x)) :
    (s.dies[d']).Stays (s.modDie d f).dies[d'] := by
  rw [State.modDie_dies, vmod_get]
  split
  · exact h _
  · exact Die.Stays.refl _

theorem State.modDie_woken (s : State) (d : DieId) (f : Die → Die) (h : ∀ x : Die, x.Stays (f x)) : Woken s (s.modDie d f) :=
  Woken.of_dies rfl (fun d' => State.modDie_core s d d' f h) (fun _ => rfl) (OutGrows.of_eq rfl)

theorem State.emit_woken (s : State) (o : Out) : Woken s (s.emit o) :=
  Woken.of_dies rfl (fun _ => Die.Stays.refl _) (fun _ => rfl) (State.emit_outGrows s o)

theorem State.sendAdmin_woken (s : State) (r : CmdRef) (ep : Bool) : Woken s (s.sendAdmin r ep) := by
  unfold State.sendAdmin
  split
  · exact Woken.refl s
  next k hk =>
    split
    · exact Woken.refl s
    next opc =>
      have opc : k.entry.opc = 0x80 ∨ k.entry.opc = 0x84 := by
        by_contra h
        exact opc (not_or.mp h)
      extract_lets b
      have sent : Woken s (s.sendData r.port k.entry k.sgl 0 b ep) := foldl_woken State.emit_woken _ s
      exact sent.trans (State.finish_woken
        ((State.cmd_congr r (qps_of_service (State.sendData_service ..) _)).trans hk) opc _)

theorem State.grantsGo_woken (s : State) : Woken s s.grantsGo := 
  foldl_woken (f := fun a (c : CmdRef × Cmd) => a.sendAdmin c.1 false) (fun a c => State.sendAdmin_woken a c.1 false) _ s

theorem State.addRoom_woken (s : State) (st : Stn) (lon n : Nat) : Woken s (s.addRoom st lon n) :=
  State.modStn_woken s st _ (fun x => by
    unfold Station.modCtx
    cases hv : x.ctx with
    | none => exact ⟨rfl, fun _ => rfl, fun v e => (by rw [hv] at e; cases e), .refl ..⟩
    | some v => exact .of_ctx hv (.of_recs v (forall₂_map_packs _ (fun r => by split <;> rfl) _)) (.refl ..)) fun _ => rfl

theorem State.takeBuf_woken (s : State) (d : DieId) (p : Fin 5) (k : Nat) : Woken s (s.takeBuf d p k).2 :=
  Woken.of_dies rfl (fun d' => State.modDie_core s.draw.2 d d' _ (by exact fun _ => Die.Stays.of_eq ⟨rfl, rfl⟩)) (fun _ => rfl) (OutGrows.of_eq rfl)

theorem Cmd.granted_goesOn (k : Cmd) (h : BitVec 32) : k.GoesOn (k.granted h) := by
  unfold Cmd.GoesOn Cmd.granted
  dsimp only
  split
  next w => exact .inr w
  · exact .inl rfl

theorem State.grantUse_woken (s : State) (d : DieId) (h : BitVec 32) (use : PoolUse) : Woken s (s.grantUse d h use) := by
  unfold State.grantUse
  extract_lets a
  have base : Woken s a := State.modDie_woken _ _ _ (by exact fun _ => Die.Stays.of_eq ⟨rfl, rfl⟩)
  cases use with
  | command p q tag =>
    dsimp only
    split
    · exact base
    next c hc =>
      have went := base.trans (State.modCmd_woken a ⟨p, q, tag⟩ (fun c => c.granted h) fun k => ⟨rfl, rfl, rfl, k.granted_goesOn h⟩)
      split
      · exact went.trans (State.modDie_woken _ _ _ (by exact fun x => ⟨rfl, fun r => x.addJob_kept _ r _⟩))
      · exact went
  | compressOut st lon => exact base.trans (State.addRoom_woken ..)
  | siding st lon => exact base.trans (State.addRoom_woken ..)
  | gathering st => exact base.trans (State.modStn_woken a st _ (by exact fun x => .of_write x (.of_gaths rfl)) (by exact fun _ => rfl))
  | c2Rows st n => exact base.trans (State.modStn_woken a st _ (by exact fun x => .of_write x (.buffered n h)) (by exact fun _ => rfl))
  | context st => exact base
  | other => exact base

theorem State.wake_woken (s : State) (d : DieId) (p : Fin 5) : Woken s (s.wake d p) := by
  unfold State.wake
  split
  · exact Woken.refl s
  next w rest _ =>
    dsimp only
    exact ((State.modDie_woken _ _ _ (by exact fun _ => Die.Stays.of_eq ⟨rfl, rfl⟩)).trans (State.takeBuf_woken ..)).trans (State.grantUse_woken ..)

theorem State.wakeDue_woken (s : State) (d : DieId) (p : Fin 5) : Woken s (s.wakeDue d p) :=
  (State.modDie_woken _ _ _ (by exact fun _ => Die.Stays.of_eq ⟨rfl, rfl⟩)).trans (foldl_woken (fun a _ => State.wake_woken a d p) _ _)

/-- One page leaves the remap table of its stack. -/
theorem State.dropRemap_woken_once (s : State) (d : DieId) (h : BitVec 32) (n : Nat) : Woken s
    ((s.modStack (dpnPage d n).stack fun x =>
      { x with remap := x.remap.filter fun e => !(e.region == .pool && e.frame == (dpnPage d n).frame) }).elogPage (dpnPage d n) 8 0 0 h 0) := by
  refine Woken.of_dies rfl (fun d' => State.modDie_core _ _ d' _ (by exact fun _ => Die.Stays.of_eq ⟨rfl, rfl⟩)) (fun k => ?_) (OutGrows.of_eq rfl)
  show ((vmod s.hbm _ _)[k]).lost = _
  rw [vmod_get]
  split <;> rfl

theorem State.dropRemap_woken (s : State) (d : DieId) (h : BitVec 32) (l : List Nat) : Woken s (s.dropRemap d h l) :=
  foldl_woken (fun a n => State.dropRemap_woken_once a d h n) l s

theorem State.putBack_woken (s : State) (d : DieId) (p : Fin 5) (i : Nat) : Woken s (s.putBack d p i) := by
  unfold State.putBack
  extract_lets b s1
  have base : Woken s s1 := State.modDie_woken _ _ _ (by exact fun _ => Die.Stays.of_eq ⟨rfl, rfl⟩)
  split
  · exact base.trans (State.dropRemap_woken ..)
  · exact base

theorem State.returnBuf_woken (s : State) (d : DieId) (p : Fin 5) (i : Nat) : Woken s (s.returnBuf d p i) := by
  unfold State.returnBuf
  extract_lets s1
  have base : Woken s s1 := (State.putBack_woken ..).trans (State.modDie_woken _ _ _ (by exact fun _ => Die.Stays.of_eq ⟨rfl, rfl⟩))
  split
  · exact base
  · exact base.trans (State.wakeDue_woken ..)

theorem State.freePool_woken (s : State) (st : Stn) (p : Fin 5) : Woken s (s.freePool st p) :=
  foldl_woken (fun a _ => State.returnBuf_woken a _ _ _) _ s

theorem State.freeSpent_woken (s : State) (st : Stn) : Woken s (s.freeSpent st) :=
  (foldl_woken (fun a p => State.freePool_woken a st p) _ s).trans (State.grantsGo_woken _)

end Sys2Proof.Machine
end

section
/-!
PROOFS of the motor bus (07, R249, R250, Table 7.14).
-/
namespace Sys2Proof.Machine

/-- What the motor bus has set at a station, and its level. -/
def Station.bus (t : Station) : Option Nat × Bool × Bool × Nat := (t.speed.busCap, t.speed.busStop, t.speed.busHeld, t.speed.vbus)

/-- Every station is as the motor bus has set it. -/
structure BusKept (s t : State) : Prop where
  stn : ∀ j : Stn, (t.stns[j]).bus = (s.stns[j]).bus

theorem BusKept.trans {s t u : State} (h : BusKept s t) (k : BusKept t u) : BusKept s u := ⟨fun j => (k.stn j).trans (h.stn j)⟩

theorem BusKept.refl (s : State) : BusKept s s := ⟨fun _ => rfl⟩

theorem BusKept.of_stns {s t : State} (h : t.stns = s.stns) : BusKept s t := ⟨fun j => by rw [h]⟩

theorem State.modStn_busKept (s : State) (st : Stn) (f : Station → Station) (h : ∀ x, (f x).bus = x.bus) : BusKept s (s.modStn st f) where
  stn j := by
    rw [State.modStn_stns, vmod_get]
    split
    · exact h _
    · rfl

theorem Woken.busKept {s t : State} (h : Woken s t) : BusKept s t := ⟨fun j => by rw [(h.stns j).rest]; rfl⟩

theorem WriteOnly.busKept {st : Stn} {s t : State} (h : WriteOnly st s t) : BusKept s t where
  stn j := by
    by_cases e : j = st
    · subst e; rw [h.side]; rfl
    · rw [h.others j e]

theorem State.finish_busKept (s : State) (r : CmdRef) (f : Ending) : BusKept s (s.finish r f) :=
  BusKept.of_stns (by rw [State.finish_portsOnly s r f])

theorem State.controlledStop_busKept (s : State) (st : Stn) : BusKept s (s.controlledStop st) := by
  unfold State.controlledStop
  extract_lets t
  split
  · exact BusKept.refl s
  · exact ((State.runOut_writeOnly s st).busKept.trans (State.modStn_busKept _ _ _ (by exact fun _ => rfl))).trans
      (State.modStn_busKept _ _ _ (by exact fun _ => rfl))

theorem State.stepTo_busKept (s : State) (st : Stn) (i : Nat) : BusKept s (s.stepTo st i) :=
  ((State.runOut_writeOnly s st).busKept.trans (State.modStn_busKept _ _ _ (by exact fun _ => rfl))).trans
    (State.modStn_busKept _ _ _ (by exact fun _ => rfl))

theorem State.capDown_busKept (s : State) (st : Stn) : BusKept s (s.capDown st) := by
  have ramp : ∀ (s : State) (why : RampFor) (mm : Nat) (f : Servo → Servo), BusKept s ((s.rampTo st why mm).modStn st fun t => t.modServo f) :=
    fun s why mm f => (State.modStn_busKept _ _ _ (by exact fun _ => rfl)).trans (State.modStn_busKept _ _ _ (by exact fun _ => rfl))
  unfold State.capDown
  extract_lets t hi
  split
  · exact BusKept.refl s
  split
  · split
    · exact BusKept.refl s
    · exact ramp ..
  split
  · exact BusKept.refl s
  split
  · split
    · exact State.stepTo_busKept ..
    · exact BusKept.refl s
  split
  · exact ramp ..
  · exact BusKept.refl s

/-- The station leaves, but what the motor bus has set stays. -/
theorem State.dismount_busKept (s : State) (st : Stn) : BusKept s (s.dismount st) := by
  unfold State.dismount
  refine BusKept.trans ?_ (State.freeSpent_woken _ st).busKept
  exact ⟨(State.modStn_busKept s st _ (by exact fun _ => rfl)).stn⟩

theorem State.openStation_busKept (s : State) (st : Stn) : BusKept s (s.openStation st) := by
  have loops : ∀ s : State, BusKept s (s.openLoops st) := fun s => State.modStn_busKept _ _ _ (by exact fun _ => rfl)
  unfold State.openStation
  extract_lets t
  split
  · exact State.controlledStop_busKept ..
  split
  · exact BusKept.refl s
  split
  · exact loops s
  split
  · exact (loops s).trans (State.dismount_busKept ..)
  next c _ =>
    extract_lets unload s1
    have left : BusKept s s1 := ((loops s).trans (State.modStn_busKept _ st _ (by exact fun _ => rfl))).trans (State.dismount_busKept ..)
    exact left.trans (State.finish_busKept ..)

theorem State.mountWaits_busKept (s : State) (st : Stn) : BusKept s (s.mountWaits st) := by
  unfold State.mountWaits
  split
  · exact BusKept.refl s
  · exact BusKept.of_stns rfl

theorem State.mountGo_busKept (s : State) (st : Stn) : BusKept s (s.mountGo st) := by
  have loops : ∀ (s : State) (f : Station → Station) (_ : ∀ x, (f x).bus = x.bus), BusKept s ((s.modStn st f).closeLoops st) := fun s f h =>
    (State.modStn_busKept s st f h).trans (State.modStn_busKept _ _ _ (by exact fun _ => rfl))
  unfold State.mountGo
  extract_lets t geo
  split
  · exact BusKept.refl s
  split
  · exact BusKept.refl s
  split
  · exact BusKept.refl s
  next r _ k _ _ =>
    extract_lets s1
    have base : BusKept s s1 := BusKept.of_stns rfl
    split
    · exact base.trans (loops s1 _ (by exact fun _ => rfl))
    split
    · exact (State.dismount_busKept ..).trans (State.finish_busKept ..)
    · exact base.trans (loops s1 _ (by exact fun _ => rfl))

theorem State.holdExit_busKept (s : State) (st : Stn) : BusKept s (s.holdExit st) := by
  unfold State.holdExit
  extract_lets t s1
  split
  · have base : BusKept s s1 := ((State.modStn_busKept s st _ (by exact fun _ => rfl)).trans (State.mountWaits_busKept ..)).trans
      (State.mountGo_busKept ..)
    split
    · split
      · exact base.trans (State.openStation_busKept ..)
      · exact base
    · exact base
  · exact BusKept.refl s

/-! ### The rows -/

/-- A level crossed downward. -/
theorem State.busLevel_crossed (s : State) (st : Stn) {counts level : Nat} (f : State → State) (h : s.img.busMv st.val counts < level) :
    s.busLevel st counts level f = f ((s.busReads st counts).raise (73 + 16 * st.val)) := if_neg (by omega)

theorem State.busRead_flagged (s : State) (st : Stn) (counts : Nat) :
    ((s.busReads st counts).raise (73 + 16 * st.val)).flagged (73 + 16 * st.val) :=
  State.raise_flagged _ _ 0 (by omega)

/-- A reading changes the level alone, and how it dips. -/
theorem State.busReads_stn (s : State) (st : Stn) (counts : Nat) : ∃ dip low,
    (s.busReads st counts).stns[st] = { s.stns[st] with speed := { (s.stns[st]).speed with
      vbus := s.img.busMv st.val counts, inDip := dip, dipMin := low } } :=
  ⟨_, _, State.modStn_stn ..⟩

theorem State.busRead_stn (s : State) (st : Stn) (counts : Nat) : ∃ dip low,
    ((s.busReads st counts).raise (73 + 16 * st.val)).stns[st] = { s.stns[st] with speed := { (s.stns[st]).speed with
      vbus := s.img.busMv st.val counts, inDip := dip, dipMin := low } } := by
  rw [State.raise_stn]
  exact State.busReads_stn s st counts

theorem State.setBusCap_stnOnly (s : State) (st : Stn) (c : Option Nat) : StnOnly st s (s.setBusCap st c) :=
  (State.modStn_stnOnly ..).trans (State.capDown_stnOnly ..)

/-- Where the motor bus has set two stations alike. -/
theorem Station.bus_eq {t : Station} {cap : Option Nat} {stop held : Bool} {mv : Nat} (h : t.bus = (cap, stop, held, mv)) :
    t.speed.busCap = cap ∧ t.speed.busStop = stop ∧ t.speed.busHeld = held ∧ t.speed.vbus = mv := by
  simpa only [Station.bus, Prod.mk.injEq] using h

theorem State.setBusCap_bus (s : State) (st : Stn) (c : Option Nat) :
    ((s.setBusCap st c).stns[st]).bus = (c, (s.stns[st]).speed.busStop, (s.stns[st]).speed.busHeld, (s.stns[st]).speed.vbus) := by
  refine ((State.capDown_busKept _ st).stn st).trans ?_
  exact congrArg Station.bus (State.modStn_stn s st _)

theorem exec_busWarning_crossed (s : State) (st : Stn) {counts : Nat} (low : s.img.busMv st.val counts < s.img.busWarn) :
    ∃ t, exec (.busWarning st counts) s = .next t ∧ (t.stns[st]).speed.busCap = some ((s.stns[st]).servo.setStep - 4) ∧
      (t.stns[st]).speed.vbus = s.img.busMv st.val counts ∧ t.flagged (73 + 16 * st.val) := by
  obtain ⟨dip, min, read⟩ := State.busRead_stn s st counts
  refine ⟨_, congrArg Host.Outcome.next (State.busLevel_crossed s st _ low), ?_⟩
  have flag := State.busRead_flagged s st counts
  generalize (s.busReads st counts).raise (73 + 16 * st.val) = u at read flag ⊢
  obtain ⟨cap, -, -, vbus⟩ := Station.bus_eq (State.setBusCap_bus u st (some ((u.stns[st]).servo.setStep - 4)))
  exact ⟨by rw [cap, read], by rw [vbus, read], (State.setBusCap_stnOnly ..).flagged flag⟩

theorem exec_busWarningStep_low (s : State) (st : Stn) {counts c : Nat} (low : s.img.busMv st.val counts < s.img.busWarn)
    (cap : (s.stns[st]).speed.busCap = some c) :
    ∃ t, exec (.busWarningStep st counts) s = .next t ∧ (t.stns[st]).speed.busCap = some (c - 4) := by
  refine ⟨(s.busReads st counts).setBusCap st (some (c - 4)), ?_, (Station.bus_eq (State.setBusCap_bus ..)).1⟩
  show execBusWarningStep st counts s = _
  unfold execBusWarningStep
  rw [cap]
  exact congrArg Host.Outcome.next (if_neg (by omega))

theorem exec_busWarningStep_high (s : State) (st : Stn) {counts : Nat} (high : s.img.busWarn ≤ s.img.busMv st.val counts) :
    exec (.busWarningStep st counts) s = .next s := by
  show execBusWarningStep st counts s = _
  unfold execBusWarningStep
  split
  · exact congrArg Host.Outcome.next (if_pos high)
  · rfl

theorem exec_busStop_crossed (s : State) (st : Stn) {counts : Nat} (low : s.img.busMv st.val counts < s.img.busStop) :
    ∃ t, exec (.busStop st counts) s = .next t ∧ (t.stns[st]).speed.busStop = true ∧ t.flagged (73 + 16 * st.val) ∧
      ((s.stns[st]).servo.motion = .moving → (t.stns[st]).servo.stops = true) := by
  obtain ⟨dip, min, read⟩ := State.busRead_stn s st counts
  refine ⟨_, congrArg Host.Outcome.next (State.busLevel_crossed s st _ low), ?_⟩
  have flag := State.busRead_flagged s st counts
  generalize (s.busReads st counts).raise (73 + 16 * st.val) = u at read flag ⊢
  refine ⟨?_, ((State.controlledStop_stnOnly u st).trans (State.modStn_stnOnly ..)).flagged flag, fun moves => ?_⟩
  · rw [State.modStn_stn]; rfl
  · rw [State.modStn_stn]
    exact State.controlledStop_stops u st (by rw [read]; exact moves)

/-- What Hold leaves of a station. -/
theorem State.holdUp_stn (s : State) (st : Stn) : ((s.hold_ st).stns[st]).men = true ∧ ((s.hold_ st).stns[st]).wgate = true ∧
    ((s.stns[st]).servo.motion ≠ .open_ → ((s.hold_ st).stns[st]).servo.motion = .hold) := by
  unfold State.hold_
  extract_lets t s1
  rw [State.modStn_stn]
  have motion : (s1.stns[st]).servo.motion = (s.stns[st]).servo.motion := by
    simp only [s1]
    split
    · rfl
    · rw [(State.voidWriting_writeOnly s st).servo]
  refine ⟨rfl, rfl, fun closed => ?_⟩
  rw [← motion] at closed
  dsimp only
  rw [decide_eq_false closed, Bool.false_and, if_neg Bool.false_ne_true]

theorem State.holdUp_stnOnly (s : State) (st : Stn) : StnOnly st s (s.hold_ st) := by
  unfold State.hold_
  extract_lets t s1
  refine StnOnly.trans ?_ (State.modStn_stnOnly ..)
  simp only [s1]
  split
  · exact StnOnly.refl st s
  · exact (State.voidWriting_writeOnly s st).toStnOnly

theorem exec_busHold_crossed (s : State) (st : Stn) {counts : Nat} (low : s.img.busMv st.val counts < s.img.busHold) :
    ∃ t, exec (.busHold st counts) s = .next t ∧ (t.stns[st]).speed.busHeld = true ∧ (t.stns[st]).men = true ∧ (t.stns[st]).wgate = true ∧
      t.flagged (73 + 16 * st.val) ∧ ((s.stns[st]).servo.motion ≠ .open_ → (t.stns[st]).servo.motion = .hold) := by
  obtain ⟨dip, min, read⟩ := State.busRead_stn s st counts
  refine ⟨_, congrArg Host.Outcome.next (State.busLevel_crossed s st _ low), ?_⟩
  have flag := State.busRead_flagged s st counts
  generalize (s.busReads st counts).raise (73 + 16 * st.val) = u at read flag ⊢
  obtain ⟨men, wgate, hold⟩ := State.holdUp_stn u st
  refine ⟨?_, ?_, ?_, ((State.holdUp_stnOnly u st).trans (State.modStn_stnOnly ..)).flagged flag, fun closed => ?_⟩
  · rw [State.modStn_stn]
  · rw [State.modStn_stn]; exact men
  · rw [State.modStn_stn]; exact wgate
  · rw [State.modStn_stn]
    exact hold (by rw [read]; exact closed)

/-- The highest step that the cap of a station may be raised to. -/
def Station.top (t : Station) : Nat := match t.ctx with | some v => geoHigh v.geo | none => 32

theorem State.busRaise_bus (s : State) (st : Stn) : ((s.busRaise st).stns[st]).bus =
    ((s.stns[st]).speed.busCap.bind (raisedCap (s.stns[st]).top), (s.stns[st]).speed.busStop, (s.stns[st]).speed.busHeld, (s.stns[st]).speed.vbus) :=
  congrArg Station.bus (State.modStn_stn s st _)

theorem exec_busRecovery_raised (s : State) (st : Stn) {counts : Nat} (high : s.img.busRecov < s.img.busMv st.val counts) :
    ∃ t, exec (.busRecovery st counts) s = .next t ∧ (t.stns[st]).speed.busStop = false ∧ (t.stns[st]).speed.busHeld = false ∧
      (t.stns[st]).speed.busCap = (s.stns[st]).speed.busCap.bind (raisedCap (s.stns[st]).top) := by
  obtain ⟨dip, min, read⟩ := State.busReads_stn s st counts
  refine ⟨_, congrArg Host.Outcome.next (if_neg (by omega)), ?_⟩
  generalize s.busReads st counts = u at read ⊢
  have bus := (State.holdExit_busKept ((u.modStn st fun t => t.modSpeed fun x => { x with busStop := false, busHeld := false }).busRaise st) st).stn st
  rw [State.busRaise_bus, State.modStn_stn, read] at bus
  obtain ⟨cap, stop, held, -⟩ := Station.bus_eq bus
  exact ⟨stop, held, cap⟩

theorem exec_busRecoveryStep_raised (s : State) (st : Stn) {counts : Nat} (high : s.img.busRecov < s.img.busMv st.val counts) :
    ∃ t, exec (.busRecoveryStep st counts) s = .next t ∧
      (t.stns[st]).speed.busCap = (s.stns[st]).speed.busCap.bind (raisedCap (s.stns[st]).top) ∧
      (t.stns[st]).speed.busStop = (s.stns[st]).speed.busStop := by
  obtain ⟨dip, min, read⟩ := State.busReads_stn s st counts
  refine ⟨_, congrArg Host.Outcome.next (if_neg (by omega)), ?_⟩
  generalize s.busReads st counts = u at read ⊢
  have bus := State.busRaise_bus u st
  rw [read] at bus
  obtain ⟨cap, stop, -, -⟩ := Station.bus_eq bus
  exact ⟨cap, stop⟩

/-- Settles O43: a level crossed is read and raised first; what follows touches the station alone and keeps what the bus has set. -/
theorem motorBus : Obligations.MotorBus := by
  unfold Obligations.MotorBus
  intro s st counts mv x top
  refine ⟨fun high => ⟨congrArg Host.Outcome.next (if_pos high), exec_busWarningStep_high s st high⟩, exec_busWarning_crossed s st,
    fun low c => exec_busWarningStep_low s st low, fun high => congrArg Host.Outcome.next (if_pos high), exec_busStop_crossed s st,
    fun high => congrArg Host.Outcome.next (if_pos high), exec_busHold_crossed s st,
    fun low => ⟨congrArg Host.Outcome.next (if_pos low), congrArg Host.Outcome.next (if_pos low)⟩,
    exec_busRecovery_raised s st, exec_busRecoveryStep_raised s st,
    ⟨_, rfl, State.raise_flagged _ _ 0 (by omega), State.raise_keeps_stns ..⟩⟩

end Sys2Proof.Machine
end

section
/-!
PROOFS of the link's loss (06, R187): while a power state is entered, a reader that the loss has not ended closes the loops again.
-/
namespace Sys2Proof.Machine

/-- A READ whose station number is 8, which is taken modulo 8. -/
def readOfStation8 : Entry :=
  { opc := 0x02, flags := 0, tag := 1, stn := 8, cflags := 0, rsv := 0, mnt := 0, dlen := 0, dptr := 0, rptr := 0, cdw := 0 }

/-- P1 is being entered; station 2 owes a record, and a FLUSH of its work is done for that READ; station 0 is open with its cartridge threaded. -/
def readerAtEntry : State :=
  let s : State := { adminPackage with
    power := { adminPackage.power with target := some (1, ⟨0, 0, 9⟩) }
    ports := #v[{ adminPort with qps := [{ Qp.fresh 0 64 0x1000 0x2000 0 with cmds := [Cmd.start ⟨0, 0, readOfStation8, []⟩ 0 .flushing] }] }, HostPort.reset] }
  (s.modStn 2 fun t =>
    { t with mount := some ⟨1, .append, 0, []⟩, ctx := some { VolCtx.blank with state := .unsealed, recs := [owedRec] }
             write := { t.write with flushes := [⟨.reader ⟨0, 0, 1⟩, [], true, 0⟩] } }).modStn 0 fun t =>
    { t with servo := { t.servo with threaded := true }, link := { t.link with lost := false } }

theorem readerAtEntry_linked : (readerAtEntry.stns[(0 : Stn)]).link.lost = false := by
  decide +kernel

theorem exec_linkLoss_linked {s : State} {st : Stn} (h : (s.stns[st]).link.lost = false) :
    exec (.linkLoss st) s = .next (((s.count st 0 [28]).raise (64 + 16 * st.val)).loseLink st).powerGo :=
  congrArg Host.Outcome.next (if_neg (by rw [h]; exact Bool.false_ne_true))

/-- The entry goes on with the loss; the READ goes on with it, and closes the loops of the station that has lost its link. -/
theorem readerAtEntry_men :
    (((((readerAtEntry.count 0 0 [28]).raise (64 + 16 * (0 : Stn).val)).loseLink 0).powerGo).stns[(0 : Stn)]).men = false := by
  decide +kernel

/-- Refutes O44: a link loss lets a power-state entry go on, with which a READ that a FLUSH held up closes the loops of the station again. -/
theorem not_lanesAndLinks : ¬ Obligations.LanesAndLinks := by
  intro h
  obtain ⟨-, stations⟩ := h
  obtain ⟨-, loses, -⟩ := stations readerAtEntry 0
  obtain ⟨t, run, -, men, -⟩ := loses readerAtEntry_linked
  rw [exec_linkLoss_linked readerAtEntry_linked] at run
  rw [← Host.Outcome.next.inj run, readerAtEntry_men] at men
  cases men

end Sys2Proof.Machine
end

section
/-!
SUPPORT. What follows from a change of a station's write pipeline: `Going`, a preorder in which the end of a command, the work of a FLUSH and of
a closure, and the buffers that return with them all stay.
-/
namespace Sys2Proof.Machine

/-- Whether a station moves and is stopping. -/
def Station.haltingNow (t : Station) : Prop := t.servo.motion = .moving ∧ t.servo.stops = true

/-- The sequence number that a lane of a station sends next. -/
def Station.nextSeq (t : Station) (l : Lane) : BitVec 8 := (t.link.lanes[l]).txSeq

/-- A link whose lanes go on with the sequence numbers that they have, and whose rows that wait for a retry stay. -/
structure Link.Steady (k k' : Link) : Prop where
  seqs : ∀ l : Lane, (k'.lanes[l]).txSeq = (k.lanes[l]).txSeq
  retry : k'.retry = k.retry

theorem Link.Steady.of_eq {k k' : Link} (h : k' = k) : k.Steady k' := ⟨fun _ => by rw [h], by rw [h]⟩

/-- What commands that end, and the work that they waited for, keep. -/
structure Going (s t : State) : Prop where
  flagged : ∀ n, s.flagged n → t.flagged n
  qps : QpsKept s t
  dones : DonesGrow s t
  halting : ∀ st : Stn, (s.stns[st]).haltingNow → (t.stns[st]).haltingNow
  fault : ∀ d : DieId, (t.dies[d]).fault = (s.dies[d]).fault
  lost : ∀ n : Fin 4, (t.hbm[n]).lost = (s.hbm[n]).lost
  locks : t.locks = s.locks
  left : OutGrows s t
  lanes : ∀ (d : DieId) (r : Fin 4), ((s.dies[d]).engines[r]).Kept (t.dies[d]).engines[r]
  links : ∀ st : Stn, (s.stns[st]).link.Steady (t.stns[st]).link
  sent : ∀ st : Stn, (t.stns[st]).write.sent ⊆ (s.stns[st]).write.sent

theorem Going.refl (s : State) : Going s s :=
  ⟨fun _ h => h, QpsKept.refl s, DonesGrow.refl s, fun _ h => h, fun _ => rfl, fun _ => rfl, rfl, OutGrows.refl s,
    fun _ _ => Engine.Kept.refl _, fun _ => .of_eq rfl, fun _ _ h => h⟩

theorem Going.trans {s t u : State} (h : Going s t) (k : Going t u) : Going s u where
  flagged := fun n hn => k.flagged n (h.flagged n hn)
  qps := h.qps.trans k.qps
  dones := h.dones.trans k.dones
  halting := fun st hs => k.halting st (h.halting st hs)
  fault := fun d => (k.fault d).trans (h.fault d)
  lost := fun n => (k.lost n).trans (h.lost n)
  locks := k.locks.trans h.locks
  left := h.left.trans k.left
  lanes := fun d r => (h.lanes d r).trans (k.lanes d r)
  links := fun st => ⟨fun l => ((k.links st).seqs l).trans ((h.links st).seqs l), (k.links st).retry.trans (h.links st).retry⟩
  sent := fun st _ e => h.sent st (k.sent st e)

/-- A lane goes on with the sequence number that it has. -/
theorem Going.seqs {s t : State} (h : Going s t) (st : Stn) (l : Lane) : (t.stns[st]).nextSeq l = (s.stns[st]).nextSeq l :=
  (h.links st).seqs l

theorem foldl_going {α : Type} {f : State → α → State} (h : ∀ a x, Going a (f a x)) (l : List α) (s : State) : Going s (l.foldl f s) := by
  induction l generalizing s with
  | nil => exact Going.refl s
  | cons x l ih => exact (h s x).trans (ih _)

theorem Woken.going {s t : State} (h : Woken s t) : Going s t where
  flagged := h.flagged
  qps := h.qps
  dones := h.dones
  halting := fun st hs => by rw [(h.stns st).rest]; exact hs
  fault := fun d => (h.core d).fault
  lanes := fun d => (h.core d).lanes
  lost := h.lost
  locks := by rw [h.rest]
  left := h.left
  links := fun st => .of_eq (by rw [(h.stns st).rest])
  sent := fun st => by rw [(h.stns st).write.rest]; exact fun _ e => e

/-- An operation on one station, which keeps a stop in progress. -/
theorem StnOnly.going {st : Stn} {s t : State} (h : StnOnly st s t) (keep : (s.stns[st]).haltingNow → (t.stns[st]).haltingNow)
    (link : (s.stns[st]).link.Steady (t.stns[st]).link) (sent : (t.stns[st]).write.sent ⊆ (s.stns[st]).write.sent) : Going s t where
  links := fun j => by
    by_cases e : j = st
    · subst e; exact link
    · exact .of_eq (by rw [h.others j e])
  sent := fun j => by
    by_cases e : j = st
    · subst e; exact sent
    · rw [h.others j e]; exact fun _ h => h
  flagged := fun _ hn => h.flagged hn
  qps := QpsKept.of_qps fun p => by rw [h.ports]
  dones := DonesGrow.of_qps fun p => by rw [h.ports]
  halting := fun j hj => by
    by_cases e : j = st
    · subst e; exact keep hj
    · rw [h.others j e]; exact hj
  fault := fun d => by rw [h.engines d]
  lanes := h.lanes
  lost := fun n => by rw [h.rest]
  locks := by rw [h.rest]
  left := h.left

theorem WriteOnly.going {st : Stn} {s t : State} (h : WriteOnly st s t) : Going s t :=
  h.toStnOnly.going (fun hs => by rw [h.side]; exact hs) (.of_eq h.link) h.sent

/-- A change of a station that leaves its servo alone. -/
theorem State.modStn_going (s : State) (st : Stn) (f : Station → Station) (h : (f s.stns[st]).servo = (s.stns[st]).servo)
    (link : (f s.stns[st]).link = (s.stns[st]).link := by rfl)
    (sent : (f s.stns[st]).write.sent ⊆ (s.stns[st]).write.sent := by exact fun _ h => h) : Going s (s.modStn st f) := by
  refine (State.modStn_stnOnly s st f).going (fun hs => ?_) (.of_eq (by rw [State.modStn_stn, link])) (by rw [State.modStn_stn]; exact sent)
  unfold Station.haltingNow
  rw [State.modStn_stn, h]
  exact hs

/-- A change of a station that does not move. -/
theorem State.modStn_going_of_still (s : State) (st : Stn) (f : Station → Station) (h : (s.stns[st]).servo.motion ≠ .moving)
    (link : (f s.stns[st]).link = (s.stns[st]).link := by rfl)
    (sent : (f s.stns[st]).write.sent ⊆ (s.stns[st]).write.sent := by exact fun _ h => h) : Going s (s.modStn st f) :=
  (State.modStn_stnOnly s st f).going (fun hs => absurd hs.1 h) (.of_eq (by rw [State.modStn_stn, link])) (by rw [State.modStn_stn]; exact sent)

theorem EventsOnly.going {s t : State} (h : EventsOnly s t) (left : OutGrows s t) : Going s t where
  left := left
  links := fun _ => .of_eq (by rw [h.1])
  sent := fun _ => by rw [h.1]; exact fun _ e => e
  locks := by rw [h.1]
  flagged := fun _ hn => h.flagged hn
  qps := QpsKept.of_qps h.qps
  dones := DonesGrow.of_qps h.qps
  halting := fun st hs => by rw [h.1]; exact hs
  fault := fun d => (h.core d).fault
  lanes := fun d => (h.core d).lanes
  lost := fun n => by rw [h.1]

theorem State.raise_going (s : State) (n x : Nat) : Going s (s.raise n x) := (State.raise_events s n x).going (State.raise_outGrows s n x)

theorem State.logErr_going (s : State) (p : Port) (e : CmdErr) : Going s (s.logErr p e) := by
  have rest := State.logErr_portsOnly s p e
  refine ⟨fun n h => (State.logErr_events s p e).flagged fun p' => ?_, QpsKept.of_qps fun p' => State.logErr_qps s p p' e,
    DonesGrow.of_qps fun p' => State.logErr_qps s p p' e, fun st h => by rw [rest]; exact h, fun d => (State.logErr_core s p e d).fault, fun n => by rw [rest],
    by rw [rest], State.logErr_outGrows s p e, fun d => (State.logErr_core s p e d).lanes, fun _ => .of_eq (by rw [rest]), fun _ => by rw [rest]; exact fun _ e => e⟩
  · rw [State.modPort_ports, vmod_get]
    split <;> exact h p'

theorem State.modCmd_going (s : State) (r : CmdRef) (f : Cmd → Cmd) : Going s (s.modCmd r f) where
  flagged := fun _ h => State.modCmd_flagged r f h
  qps := State.modCmd_qpsKept s r f
  dones := State.modCmd_donesGrow s r f
  halting := fun _ h => h
  fault := fun _ => rfl
  lanes := fun _ _ => Engine.Kept.refl _
  lost := fun _ => rfl
  locks := rfl
  left := OutGrows.of_eq rfl
  links := fun _ => .of_eq rfl
  sent := fun _ _ e => e

theorem State.finish_going (s : State) (r : CmdRef) (f : Ending) : Going s (s.finish r f) where
  flagged := fun n h => State.finish_flagged s r f n h
  qps := State.finish_qpsKept s r f
  dones := State.finish_donesGrow s r f
  halting := fun st h => by rw [State.finish_portsOnly s r f]; exact h
  fault := fun d => (State.finish_core s r f d).fault
  lanes := fun d => (State.finish_core s r f d).lanes
  lost := fun n => by rw [State.finish_portsOnly s r f]
  locks := by rw [State.finish_portsOnly s r f]
  left := State.finish_outGrows s r f
  links := fun _ => .of_eq (by rw [State.finish_portsOnly s r f])
  sent := fun _ => by rw [State.finish_portsOnly s r f]; exact fun _ e => e

theorem State.finishAll_going (s : State) (l : List CmdRef) (f : Ending) : Going s (s.finishAll l f) :=
  foldl_going (fun a r => State.finish_going a r f) l s

/-- A change of the parts of the package that no station, queue or die holds. -/
theorem Going.of_rest {s t : State} (ports : t.ports = s.ports) (stns : t.stns = s.stns) (dies : t.dies = s.dies) (hbm : t.hbm = s.hbm)
    (locks : t.locks = s.locks) (left : OutGrows s t) : Going s t where
  locks := locks
  left := left
  links := fun _ => .of_eq (by rw [stns])
  sent := fun _ => by rw [stns]; exact fun _ e => e
  flagged := fun n h p => by rw [ports]; exact h p
  qps := QpsKept.of_qps fun p => by rw [ports]
  dones := DonesGrow.of_qps fun p => by rw [ports]
  halting := fun st h => by rw [stns]; exact h
  fault := fun d => by rw [dies]
  lanes := fun d r => by rw [dies]; exact Engine.Kept.refl _
  lost := fun n => by rw [hbm]

theorem State.sendData_going (s : State) (p : Port) (e : Entry) (sgl : List SglEntry) (ofs : Nat) (data : List Byte) (ep : Bool) :
    Going s (s.sendData p e sgl ofs data ep) :=
  foldl_going (f := State.emit) (fun a o => Going.of_rest rfl rfl rfl rfl rfl (State.emit_outGrows a o)) _ s

theorem State.sendResult_going (s : State) (p : Port) (e : Entry) (data : List Byte) (ep : Bool) : Going s (s.sendResult p e data ep) := by
  unfold State.sendResult
  split
  · exact Going.refl s
  · exact Going.of_rest rfl rfl rfl rfl rfl (State.emit_outGrows ..)

theorem State.finishWith_going (s : State) (r : CmdRef) (f : Ending) (b : List Byte) : Going s (s.finishWith r f b) := by
  unfold State.finishWith
  split
  · exact Going.refl s
  split
  · exact (State.sendResult_going ..).trans (State.finish_going ..)
  · exact (State.sendResult_going ..).trans (State.finish_going ..)

theorem State.finishLosses_going (s : State) (r : CmdRef) (lost : List Nat) (n : Nat) : Going s (s.finishLosses r lost n) := by
  unfold State.finishLosses
  split
  · exact Going.refl s
  split
  · exact State.finish_going ..
  · exact (foldl_going (fun a _ => State.logErr_going a _ _) _ s).trans (State.finish_going ..)

theorem State.finishSealed_going (s : State) (r : CmdRef) (lost : List Nat) (n : Nat) : Going s (s.finishSealed r lost n) := by
  unfold State.finishSealed
  split
  · exact State.finish_going ..
  · exact State.finishLosses_going ..

theorem State.endMig_going (s : State) (j : MigJob) (n : Nat) : Going s (s.endMig j n) := by
  unfold State.endMig
  dsimp only
  split
  · exact Going.of_rest rfl rfl rfl rfl rfl (OutGrows.of_eq rfl)
  · refine Going.trans ?_ (State.finishWith_going ..)
    exact Going.of_rest rfl rfl rfl rfl rfl (OutGrows.of_eq rfl)

/-! ### The tape of a station -/

theorem State.controlledStop_going (s : State) (st : Stn) : Going s (s.controlledStop st) := by
  unfold State.controlledStop
  extract_lets t
  split
  · exact Going.refl s
  next goes =>
    refine ((State.runOut_writeOnly s st).going.trans ?_)
    refine (((State.rampTo_stnOnly ..).trans (State.modStn_stnOnly ..)).going (fun hs => absurd ?_ goes) ?_ ?_)
    · obtain ⟨-, stops⟩ := hs
      rw [(State.runOut_writeOnly s st).servo] at stops
      exact .inr stops
    · exact .of_eq (by rw [State.modStn_stn, State.rampTo_stn]; rfl)
    · rw [State.modStn_stn, State.rampTo_stn]; exact fun _ e => e

theorem State.dismount_going (s : State) (st : Stn) : Going s (s.dismount st) := by
  unfold State.dismount
  refine Going.trans ?_ (State.freeSpent_woken _ st).going
  refine (State.modStn_going s st (fun t => { t with
    mount := none, ctx := none, mountCmd := none, write := Write.reset, readSide := Recall.reset
    speed := { Speed.reset with
      vbus := t.speed.vbus, dipMin := t.speed.dipMin, inDip := t.speed.inDip, busCap := t.speed.busCap, busStop := t.speed.busStop, busHeld := t.speed.busHeld } })
    rfl (sent := fun _ h => absurd h List.not_mem_nil)).trans (Going.of_rest rfl rfl rfl rfl rfl (OutGrows.of_eq rfl))

theorem State.openStation_going (s : State) (st : Stn) : Going s (s.openStation st) := by
  unfold State.openStation
  extract_lets t
  split
  · exact State.controlledStop_going ..
  next still =>
    have opened : Going s (s.openLoops st) := State.modStn_going_of_still _ _ _ still
    have still1 : ((s.openLoops st).stns[st]).servo.motion ≠ .moving := by
      unfold State.openLoops
      rw [State.modStn_stn]
      dsimp only
      split <;> decide
    split
    · exact Going.refl s
    split
    · exact opened
    split
    · exact opened.trans (State.dismount_going ..)
    · extract_lets unload s1
      have left : Going s s1 := (opened.trans (State.modStn_going_of_still _ _ _ still1)).trans (State.dismount_going ..)
      exact left.trans (State.finish_going ..)

theorem State.wantTape_going (s : State) (st : Stn) : Going s (s.wantTape st) := by
  unfold State.wantTape
  extract_lets s1 t
  have base : Going s s1 := State.modStn_going s st _ rfl
  split
  next h => exact base.trans (State.modStn_going_of_still _ _ _ (by
      show t.servo.motion ≠ _
      rw [h.1]; decide))
  · exact base

/-! ### Readers -/

theorem State.verifyOver_going (s : State) (r : CmdRef) : Going s (s.verifyOver r) := by
  unfold State.verifyOver
  split
  · exact Going.refl s
  extract_lets fit
  split
  · exact Going.refl s
  · exact State.finishWith_going ..

theorem State.verifyRec_going (s : State) (r : CmdRef) (lon : Nat) (f : Ending) (hash : List Byte) : Going s (s.verifyRec r lon f hash) := by
  unfold State.verifyRec
  split
  · exact Going.refl s
  next k _ =>
    extract_lets ofs fits s1 s2 s3
    have sent : Going s s1 := by
      simp only [s1]
      split
      · exact State.sendData_going ..
      · exact Going.refl s
    have logged : Going s1 s2 := by
      simp only [s2]
      split
      · exact State.logErr_going ..
      · exact Going.refl s1
    exact ((sent.trans logged).trans (State.modCmd_going ..)).trans (State.verifyOver_going ..)

theorem State.verifyNext_going (s : State) (r : CmdRef) (n : Nat) : Going s (s.verifyNext r n) := by
  induction n generalizing s with
  | zero => exact Going.refl s
  | succ n ih =>
    unfold State.verifyNext
    split
    · exact Going.refl s
    · extract_lets t lon
      split
      · exact (State.verifyRec_going ..).trans (ih _)
      · exact Going.refl s

theorem State.goReader_going (s : State) (r : CmdRef) : Going s (s.goReader r) := by
  unfold State.goReader
  split
  · exact Going.refl s
  next k _ =>
    extract_lets st t s1 rg s2 s3
    have base : Going s s1 := State.modCmd_going ..
    split
    · split
      · split
        · exact base.trans (State.finish_going ..)
        · exact base.trans (State.wantTape_going ..)
      split
      · have next : Going s s3 := (base.trans (State.modCmd_going ..)).trans (State.verifyNext_going ..)
        split
        · exact next
        · exact next.trans (State.wantTape_going ..)
      · exact (base.trans (State.modCmd_going ..)).trans (State.wantTape_going ..)
    · exact (base.trans (State.modCmd_going ..)).trans (State.wantTape_going ..)

theorem State.readerGo_going (s : State) (r : CmdRef) (lost : List Nat) : Going s (s.readerGo r lost) := by
  unfold State.readerGo
  split
  · exact Going.refl s
  split
  · exact State.finish_going ..
  · exact State.goReader_going ..

/-! ### The work of a FLUSH -/

theorem State.flushDone_going (s : State) (st : Stn) (j : FlushJob) : Going s (s.flushDone st j) := by
  unfold State.flushDone
  split
  · exact Going.refl s
  extract_lets lost
  split
  · exact State.finishLosses_going ..
  · exact State.readerGo_going ..
  · exact (State.modCmd_going ..).trans (State.openStation_going ..)
  · exact State.modStn_going s st _ rfl
  · split
    · exact State.endMig_going ..
    · exact Going.refl s
  · exact Going.refl s
  · exact Going.refl s

theorem State.flushesDone_going (s : State) (st : Stn) (n : Nat) : Going s (s.flushesDone st n) := by
  induction n generalizing s with
  | zero => exact Going.refl s
  | succ n ih =>
    unfold State.flushesDone
    extract_lets t
    split
    · exact Going.refl s
    split
    · exact Going.refl s
    · exact ((State.modStn_going s st _ rfl).trans (State.flushDone_going ..)).trans (ih _)

theorem State.flushSealed_going (s : State) (st : Stn) (lost : List Nat) (j : FlushJob) : Going s (s.flushSealed st lost j) := by
  unfold State.flushSealed
  extract_lets mine
  split
  · exact State.finishSealed_going ..
  · exact State.readerGo_going ..
  · exact (State.modCmd_going ..).trans (State.openStation_going ..)
  · exact Going.refl s

/-! ### The closure -/

theorem State.dropWork_going (s : State) (st : Stn) : Going s (s.dropWork st) := by
  have parked : Going s (s.stopMigs st) := Going.of_rest rfl rfl rfl rfl rfl (OutGrows.of_eq rfl)
  exact parked.trans (State.modStn_going _ st _ rfl)

theorem State.failStation_going (s : State) (st : Stn) : Going s (s.failStation st) :=
  (State.finishAll_going ..).trans (State.dropWork_going ..)

theorem State.closureFailed_going (s : State) (st : Stn) : Going s (s.closureFailed st) := by
  unfold State.closureFailed
  extract_lets s1
  exact (((State.raise_going s _ 0).trans (State.modStn_going s1 st _ rfl)).trans (State.controlledStop_going ..)).trans (State.failStation_going ..)

theorem State.closed_going (s : State) (st : Stn) (v : VolCtx) : Going s (s.closed st v) := by
  unfold State.closed
  extract_lets t s1 lost s2 s3 s4
  have one : Going s s1 := State.modStn_going s st _ rfl
  have two : Going s1 s2 := by
    simp only [s2]
    split
    · exact foldl_going (fun a j => State.flushSealed_going a st lost j) _ s1
    · exact Going.refl s1
  have three : Going s2 s3 := by
    simp only [s3]
    split
    · split
      · exact State.finishSealed_going ..
      · exact State.finish_going ..
    · exact Going.refl s2
  have four : Going s3 s4 := foldl_going (fun a (j : MigJob) => State.endMig_going a (j.sealedAs v) v.lon) _ s3
  exact (((one.trans two).trans three).trans four).trans (State.controlledStop_going ..)

theorem State.unsigned_going (s : State) (st : Stn) (v : VolCtx) : Going s (s.unsigned st v) := by
  unfold State.unsigned
  extract_lets s1 s2
  have one : Going s s1 := by
    simp only [s1]
    split
    · exact (State.finish_going ..).trans (State.modStn_going _ st _ rfl)
    · exact Going.refl s
  have two : Going s1 s2 := foldl_going (fun a (j : MigJob) => State.endMig_going a { j with status := 0xB } v.lon) _ s1
  split
  · exact (one.trans two).trans (State.closureFailed_going ..)
  · exact one.trans two

/-! ### Assembly -/

theorem foldl_writeOnly {α : Type} {st : Stn} {f : State → α → State} (h : ∀ a x, WriteOnly st a (f a x)) (l : List α) (s : State) :
    WriteOnly st s (l.foldl f s) := by
  induction l generalizing s with
  | nil => exact WriteOnly.refl st s
  | cons x l ih => exact (h s x).trans (ih _)

theorem State.numberLabels_writeOnly (s : State) (st : Stn) : WriteOnly st s (s.numberLabels st) := by
  unfold State.numberLabels
  extract_lets t room
  split
  · exact WriteOnly.refl st s
  next v hv =>
    extract_lets gs
    split
    · exact WriteOnly.refl st s
    · exact (State.modStn_writeOnly s st _ rfl (by rw [hv]; rfl)).trans
        (foldl_writeOnly (fun a g => State.addJob_writeOnly a st _ _ _) gs _)

theorem State.compose_writeOnly (s : State) (st : Stn) (k : GKind) (b : List Byte) : WriteOnly st s (s.compose st k b) := by
  refine (State.modStn_writeOnly s st _ rfl ?_).trans (State.numberLabels_writeOnly ..)
  show ((s.stns[st]).ctx.map _).map _ = _
  rw [Option.map_map]
  rfl

theorem State.modCtx_writeOnly (s : State) (st : Stn) (f : VolCtx → VolCtx) (h : ∀ v, (f v).fixed = v.fixed) :
    WriteOnly st s (s.modStn st fun t => t.modCtx f) := by
  refine State.modStn_writeOnly s st _ rfl ?_
  show ((s.stns[st]).ctx.map f).map _ = _
  rw [Option.map_map]
  exact congrArg (fun g => (s.stns[st]).ctx.map g) (funext h)

theorem State.composeEndpaper_writeOnly (s : State) (st : Stn) : WriteOnly st s (s.composeEndpaper st) := by
  unfold State.composeEndpaper
  split
  · exact WriteOnly.refl st s
  · exact State.compose_writeOnly ..

theorem State.composeSpines_writeOnly (s : State) (st : Stn) : WriteOnly st s (s.composeSpines st) := by
  unfold State.composeSpines
  split
  · exact WriteOnly.refl st s
  · exact (foldl_writeOnly (fun a w => State.compose_writeOnly a st _ _) _ s).trans (State.modCtx_writeOnly _ st _ fun _ => rfl)

theorem State.closeOnce_going {s t : State} {st : Stn} (h : s.closeOnce st = some t) : Going s t := by
  have set : ∀ (a : State) (c : Closing), Going a (a.modStn st fun t => t.modCtx fun v => { v with closing := c }) := fun a c =>
    State.modStn_going a st _ rfl
  unfold State.closeOnce at h
  extract_lets u w setTo d at h
  split at h
  · cases h
  next v hv =>
    extract_lets placed room stream s1 at h
    split at h
    · cases h
    split at h
    · cases h
    · cases h
    · cases h
    · split at h
      · cases h
      · cases h; exact set ..
    · split at h
      · cases h; exact set ..
      split at h
      · cases h
      · cases h
        exact ((State.composeEndpaper_writeOnly ..).going.trans (State.composeEndpaper_writeOnly ..).going).trans (set ..)
    · split at h
      · cases h
      · cases h
        exact ((State.modStn_going s st _ rfl).trans (State.composeSpines_writeOnly ..).going).trans (set ..)
    · split at h
      · cases h
      split at h
      · cases h
        exact State.unsigned_going ..
      · cases h
        have drawn : Going s d.2 := Going.of_rest rfl rfl rfl rfl rfl (OutGrows.of_eq rfl)
        have base : Going s s1 := drawn.trans (State.modStn_going _ st _ rfl)
        exact (base.trans (State.compose_writeOnly ..).going).trans (State.compose_writeOnly ..).going
    · split at h
      · cases h
        exact State.closed_going ..
      split at h
      · cases h
        exact (State.modWrite_writeOnly s st _).going
      · cases h

theorem State.closeAll_going (s : State) (st : Stn) (n : Nat) : Going s (s.closeAll st n) := by
  induction n generalizing s with
  | zero => exact Going.refl s
  | succ n ih =>
    unfold State.closeAll
    split
    next s1 h => exact (State.closeOnce_going h).trans (ih _)
    · exact Going.refl s

theorem State.assembleOnce_writeOnly {s t : State} {st : Stn} (h : s.assembleOnce st = some t) : WriteOnly st s t := by
  have idle := (State.assembleOnce_packs h).write.idle
  have sent : (t.stns[st]).write.sent = (s.stns[st]).write.sent := by rw [(State.assembleOnce_packs h).write.rest]
  unfold State.assembleOnce at h
  extract_lets u at h
  split at h
  · cases h
  next v hv =>
    split at h
    · cases h
    next w hw =>
      extract_lets job full inc ends at h
      clear_value job
      split at h
      · cases h
        refine State.modStn_writeOnly s st _ rfl (by rw [show (s.stns[st]).ctx = some v from hv]; rfl) (fun e => ?_) ?_
        · rw [State.modStn_stn] at idle
          exact idle e
        · rw [State.modStn_stn] at sent
          rw [sent]
          exact fun _ e => e
      split at h
      · cases h
      split at h
      · cases h; exact State.closeGath_writeOnly ..
      split at h
      · cases h; exact State.closeGath_writeOnly ..
      split at h
      · split at h
        · cases h; exact State.closeGath_writeOnly ..
        · cases h
      · split at h
        · cases h; exact State.closeGath_writeOnly ..
        split at h
        · cases h; exact State.closeGath_writeOnly ..
        · cases h

theorem State.assemble_writeOnly (s : State) (st : Stn) (n : Nat) : WriteOnly st s (s.assemble st n) := by
  induction n generalizing s with
  | zero => exact WriteOnly.refl st s
  | succ n ih =>
    unfold State.assemble
    split
    next s1 h => exact (State.assembleOnce_writeOnly h).trans (ih _)
    · exact WriteOnly.refl st s

theorem State.assembleAll_writeOnly (s : State) (st : Stn) : WriteOnly st s (s.assembleAll st) := by
  unfold State.assembleAll
  split
  · exact WriteOnly.refl st s
  · exact (State.numberLabels_writeOnly ..).trans (State.assemble_writeOnly ..)

/-! ### All of it -/

theorem State.settle_going (s : State) (st : Stn) : Going s (s.settle st) := by
  unfold State.settle
  split
  · exact Going.refl s
  · exact (((State.flushesDone_going ..).trans (State.closeAll_going ..)).trans (State.assembleAll_writeOnly ..).going).trans
      (State.freeSpent_woken ..).going

theorem State.addFlush_going (s : State) (st : Stn) (why : FlushFor) (cover : List (Nat × Nat)) : Going s (s.addFlush st why cover) := by
  unfold State.addFlush
  extract_lets s1 s2
  have one : Going s s1 := State.modStn_going s st _ rfl
  have two : Going s1 s2 := foldl_going (fun a c => (State.addJob_writeOnly a st _ _ _).going) cover s1
  exact (one.trans two).trans (State.settle_going ..)

theorem State.sealGo_going (s : State) (st : Stn) : Going s (s.sealGo st) := by
  unfold State.sealGo
  split
  · exact Going.refl s
  split
  · exact Going.refl s
  split
  · exact Going.refl s
  · exact (State.modStn_going s st _ rfl).trans (State.addFlush_going ..)

theorem State.sealsGo_going (s : State) : Going s s.sealsGo := foldl_going (fun a st => State.sealGo_going a st) allStns s

end Sys2Proof.Machine
end

section
/-!
PROOFS of the control stores, the dies, the stacks, the UCIe link and the DRBG in fault (11, R380 to R385; 01, Table 1.9; 08, R263).
-/
namespace Sys2Proof.Machine

/-! ### What a fault leaves of the package -/

theorem stores_of_control {s t : State} (h : t.control = s.control) : t.stores = s.stores := congrArg Control.stores h

theorem store_of_control {s t : State} (h : t.control = s.control) (n : Fin 10) : t.stores[n] = s.stores[n] := by rw [stores_of_control h]

theorem ucieDown_of_control {s t : State} (h : t.control = s.control) : t.ucieDown = s.ucieDown := congrArg Control.ucieDown h

theorem State.giveBack_writeOnly (s : State) (st : Stn) (gone : List Gath) : WriteOnly st s (s.giveBack st gone) := by
  unfold State.giveBack
  extract_lets t has
  split
  · exact WriteOnly.refl st s
  next v hv =>
    refine WriteOnly.trans (State.modStn_writeOnly s st _ rfl ?_ fun e => congrArg (List.map _) e) ⟨State.dropJobs_stnOnly _ st _, rfl, rfl, id, fun _ h => h⟩
    show some _ = Option.map _ (s.stns[st]).ctx
    rw [show (s.stns[st]).ctx = some v from hv]
    simp only [Option.map_some, VolCtx.prevGroup]
    split <;> rfl

theorem State.burnUnwritten_writeOnly (s : State) (st : Stn) : WriteOnly st s (s.burnUnwritten st) := State.giveBack_writeOnly ..

theorem Station.addFault_servo (t : Station) (f : StnFault) : (t.addFault f).servo = t.servo := by
  unfold Station.addFault
  split <;> rfl

theorem Station.addFault_link (t : Station) (f : StnFault) : (t.addFault f).link = t.link := by
  unfold Station.addFault
  split <;> rfl

theorem Station.addFault_write (t : Station) (f : StnFault) : (t.addFault f).write = t.write := by
  unfold Station.addFault
  split <;> rfl

/-- A die stops its stations, ends its commands and is in fault, with its event. -/
theorem State.faultDie_going (s : State) (d : DieId) : Going (s.modDie d fun x => { x with fault := true }) (s.faultDie d) := by
  unfold State.faultDie
  extract_lets sts s0 s1 mine
  have each : Going s0 s1 := foldl_going (fun a t => (((State.controlledStop_going a t).trans (State.failStation_going ..)).trans
    (State.burnUnwritten_writeOnly ..).going).trans (State.modStn_going _ t (fun x => x.addFault .die) (Station.addFault_servo ..)
      (Station.addFault_link ..) (by rw [Station.addFault_write]; exact fun _ h => h))) sts s0
  exact (each.trans (State.finishAll_going ..)).trans (State.raise_going ..)

theorem State.faultDie_fault (s : State) (d : DieId) : ((s.faultDie d).dies[d]).fault = true := by
  rw [(State.faultDie_going s d).fault d, State.modDie_dies, vmod_get_self]

theorem State.faultDie_flagged (s : State) (d : DieId) : (s.faultDie d).flagged (198 + 16 * d.val) := by
  unfold State.faultDie
  exact State.raise_flagged _ _ 0 (by omega)

theorem State.faultDie_keeps_flagged {s : State} (d : DieId) {n : Nat} (h : s.flagged n) : (s.faultDie d).flagged n :=
  (State.faultDie_going s d).flagged n h

theorem State.faultDie_lost (s : State) (d : DieId) (n : Fin 4) : ((s.faultDie d).hbm[n]).lost = (s.hbm[n]).lost :=
  (State.faultDie_going s d).lost n

/-! ### Control stores -/

theorem State.modStore_store (s : State) (k : Fin 10) (f : Store → Store) : ((s.modStore k f).stores[k]) = f s.stores[k] := vmod_get_self ..

theorem exec_controlStoreFetch_idle (s : State) (n : Fin 10) (cond : Bool) (flips : BitVec 144)
    (h : (s.stores[n]).words.isEmpty = true ∨ (s.stores[n]).halted.isSome = true) : exec (.controlStoreFetch n cond flips) s = .next s :=
  congrArg Host.Outcome.next (if_pos h)

section
variable {s : State} {n : Fin 10} {cond : Bool} {flips : BitVec 144} (words : (s.stores[n]).words.isEmpty = false)
  (runs : (s.stores[n]).halted = none)
include words runs

theorem exec_controlStoreFetch_ok {a : BitVec 13} {m : Nat} (ok : (s.stores[n]).fetch cond flips = .ok (a, m)) :
    ∃ t, exec (.controlStoreFetch n cond flips) s = .next t ∧ (t.stores[n]).addr = a ∧ (t.stores[n]).halted = none ∧
      (t.stores[n]).corrected = (if m = 0 then (s.stores[n]).corrected else (s.stores[n]).corrected + 1) ∧
      (m ≠ 0 → t.flagged (200 + 16 * (storeDie n).val)) := by
  let s1 := s.modStore n fun x => { x with addr := a, corrected := if m = 0 then x.corrected else x.corrected + 1 }
  have run : exec (.controlStoreFetch n cond flips) s = .next (if m = 0 then s1 else s1.raise (200 + 16 * (storeDie n).val)) := by
    refine congrArg Host.Outcome.next ((if_neg ?_).trans ?_)
    · rw [words, runs]; decide
    · rw [ok]
  have store : s1.stores[n] = { s.stores[n] with addr := a, corrected := if m = 0 then (s.stores[n]).corrected else (s.stores[n]).corrected + 1 } :=
    State.modStore_store ..
  refine ⟨_, run, ?_⟩
  split
  next zero => exact ⟨by rw [store], by rw [store]; exact runs, by rw [store]; exact if_pos zero, fun h => absurd zero h⟩
  next some_ =>
    have raised := (store_of_control (State.raise_control s1 (200 + 16 * (storeDie n).val) 0) n).trans store
    exact ⟨by rw [raised], by rw [raised]; exact runs, by rw [raised]; exact if_neg some_, fun _ => State.raise_flagged _ _ 0 (by omega)⟩

theorem exec_controlStoreFetch_halts {why : HaltCause} (error : (s.stores[n]).fetch cond flips = .error why) :
    exec (.controlStoreFetch n cond flips) s = .next (s.halts n why) := by
  refine congrArg Host.Outcome.next ((if_neg ?_).trans ?_)
  · rw [words, runs]; decide
  · rw [error]

end

theorem Station.mem_addFault (t : Station) (f : StnFault) : f ∈ (t.addFault f).faults := by
  unfold Station.addFault
  split
  next h => exact List.contains_iff_mem.mp h
  · exact List.mem_append_right _ (List.mem_singleton_self f)

theorem State.fallback_stnOnly (s : State) (st : Stn) : StnOnly st s (s.fallback st) := by
  unfold State.fallback
  split
  · exact (State.rampTo_stnOnly ..).trans (State.modStn_stnOnly ..)
  · exact StnOnly.refl st s

/-- What the end of a station's commands leaves of the station. -/
theorem State.failStation_stn (s : State) (st : Stn) : ((s.failStation st).stns[st]).faults = (s.stns[st]).faults ∧
    ((s.failStation st).stns[st]).wgate = (s.stns[st]).wgate := by
  unfold State.failStation State.dropWork
  rw [State.modStn_stn]
  have same : ((s.finishAll (s.cmdsOf st) (.st 0xC)).stopMigs st).stns = s.stns := State.finishAll_keeps_stns ..
  rw [same]
  exact ⟨rfl, rfl⟩

/-- What a halt leaves of a station before its commands end: the tape stops, the gate closes. -/
def State.gateShut (s : State) (st : Stn) : State :=
  ((if (s.stns[st]).write.feed = .off then s else s.voidWriting st).fallback st).modStn st fun t => { t.addFault .sequencer with wgate := true }

theorem State.gateShut_stnOnly (s : State) (st : Stn) : StnOnly st s (s.gateShut st) := by
  unfold State.gateShut
  refine StnOnly.trans ?_ (State.modStn_stnOnly ..)
  refine StnOnly.trans ?_ (State.fallback_stnOnly ..)
  split
  · exact StnOnly.refl st s
  · exact (State.voidWriting_writeOnly s st).toStnOnly

theorem State.gateShut_stn (s : State) (st : Stn) : StnFault.sequencer ∈ ((s.gateShut st).stns[st]).faults ∧
    ((s.gateShut st).stns[st]).wgate = true := by
  unfold State.gateShut
  rw [State.modStn_stn]
  exact ⟨Station.mem_addFault _ _, rfl⟩

theorem State.stationHalts_gateShut (s : State) (st : Stn) :
    s.stationHalts st = ((s.raise (78 + 16 * st.val)).gateShut st).failStation st := rfl

/-- A timetable sequencer that halts faults its station. -/
theorem State.stationHalts_eq (s : State) (st : Stn) : StnFault.sequencer ∈ ((s.stationHalts st).stns[st]).faults ∧
    ((s.stationHalts st).stns[st]).wgate = true ∧ (s.stationHalts st).flagged (78 + 16 * st.val) := by
  rw [State.stationHalts_gateShut]
  have raised : (s.raise (78 + 16 * st.val)).flagged (78 + 16 * st.val) := State.raise_flagged _ _ 0 (by omega)
  generalize s.raise (78 + 16 * st.val) = a at raised ⊢
  obtain ⟨faults, wgate⟩ := State.failStation_stn (a.gateShut st) st
  obtain ⟨mem, shut⟩ := State.gateShut_stn a st
  exact ⟨by rw [faults]; exact mem, by rw [wgate]; exact shut,
    (State.failStation_going _ st).flagged _ ((State.gateShut_stnOnly a st).flagged raised)⟩

/-- The halted store, and what follows by the unit that it ran. -/
theorem State.halts_eq (s : State) (n : Fin 10) (why : HaltCause) : ∃ a : State, (a.stores[n]).halted = some why ∧ s.halts n why =
    if n.val < 8 then a.stationHalts (stnOf n.val) else ((a.raise (197 + 16 * (n.val - 8))).faultDie (storeDie n)).sealsGo :=
  ⟨s.modStore n fun x => { x with halted := some why }, (congrArg Store.halted (State.modStore_store s n _)).trans rfl, rfl⟩

theorem State.halts_stores (s : State) (n : Fin 10) (why : HaltCause) : ((s.halts n why).stores[n]).halted = some why := by
  obtain ⟨a, store, eq⟩ := State.halts_eq s n why
  rw [eq]
  split
  · rw [store_of_control (State.stationHalts_control ..), store]
  · rw [store_of_control (State.sealsGo_control ..), store_of_control (State.faultDie_control ..),
      store_of_control (State.raise_control ..), store]

theorem State.halts_station (s : State) (n : Fin 10) (why : HaltCause) (h : n.val < 8) :
    StnFault.sequencer ∈ ((s.halts n why).stns[stnOf n.val]).faults ∧ ((s.halts n why).stns[stnOf n.val]).wgate = true ∧
      (s.halts n why).flagged (78 + 16 * n.val) := by
  have number : (stnOf n.val).val = n.val := Nat.mod_eq_of_lt h
  obtain ⟨a, -, eq⟩ := State.halts_eq s n why
  rw [eq, if_pos h]
  obtain ⟨faults, wgate, flag⟩ := State.stationHalts_eq a (stnOf n.val)
  exact ⟨faults, wgate, by rw [number] at flag; exact flag⟩

theorem State.halts_die (s : State) (n : Fin 10) (why : HaltCause) (h : 8 ≤ n.val) :
    ((s.halts n why).dies[storeDie n]).fault = true ∧ (s.halts n why).flagged (197 + 16 * (n.val - 8)) := by
  obtain ⟨a, -, eq⟩ := State.halts_eq s n why
  rw [eq, if_neg (by omega)]
  refine ⟨?_, (State.sealsGo_going _).flagged _ (State.faultDie_keeps_flagged _ (State.raise_flagged _ _ 0 (by omega)))⟩
  rw [(State.sealsGo_going _).fault]
  exact State.faultDie_fault ..

theorem exec_controlStoreScrub_eq (s : State) (l : List StoreUpset) :
    ∃ t, exec (.controlStoreScrub l) s = .next t ∧ t.stores = s.stores ∧
      ∀ u ∈ l, u.flips ≠ 0 → (s.stores[u.store]).words.isEmpty = false → t.flagged (200 + 16 * (storeDie u.store).val) := by
  refine ⟨_, rfl, ?_⟩
  induction l generalizing s with
  | nil => exact ⟨rfl, fun u hu => absurd hu List.not_mem_nil⟩
  | cons u l ih =>
    rw [List.foldl_cons]
    have rest : ∀ (l : List StoreUpset) (a : State), Going a (l.foldl (fun a u => if u.flips = 0 ∨ (a.stores[u.store]).words.isEmpty then a
        else a.raise (200 + 16 * (storeDie u.store).val)) a) := fun l a => foldl_going (fun a u => by
      split
      · exact Going.refl a
      · exact State.raise_going ..) l a
    by_cases idle : u.flips = 0 ∨ (s.stores[u.store]).words.isEmpty = true
    · rw [if_pos idle]
      obtain ⟨stores, flags⟩ := ih s
      refine ⟨stores, fun x hx nz words => ?_⟩
      cases hx with
      | head => exact absurd idle (not_or.mpr ⟨nz, by rw [words]; exact Bool.false_ne_true⟩)
      | tail _ hx => exact flags x hx nz words
    · rw [if_neg idle]
      have same : (s.raise (200 + 16 * (storeDie u.store).val)).stores = s.stores := stores_of_control (State.raise_control ..)
      obtain ⟨stores, flags⟩ := ih (s.raise (200 + 16 * (storeDie u.store).val))
      refine ⟨stores.trans same, fun x hx nz words => ?_⟩
      cases hx with
      | head => exact (rest l _).flagged _ (State.raise_flagged _ _ 0 (by omega))
      | tail _ hx => exact flags x hx nz (by rw [same]; exact words)

/-! ### Stacks -/

theorem exec_stackLost_eq (s : State) (k : Fin 4) (have_ : (s.hbm[k]).lost = false) :
    ∃ t, exec (.stackLost k) s = .next t ∧ (t.hbm[k]).lost = true ∧ t.flagged (36 + 8 * k.val) ∧
      (t.dies[dieOfStack k]).fault = true ∧ t.flagged (198 + 16 * (dieOfStack k).val) := by
  refine ⟨_, congrArg Host.Outcome.next (if_neg (by rw [have_]; exact Bool.false_ne_true)), ?_, ?_, ?_, ?_⟩
  · rw [(State.sealsGo_going _).lost, State.faultDie_lost, (State.raise_going ..).lost]
    exact congrArg Stack.lost (vmod_get_self s.hbm k _)
  · exact (State.sealsGo_going _).flagged _ (State.faultDie_keeps_flagged _ (State.raise_flagged _ _ 0 (by omega)))
  · rw [(State.sealsGo_going _).fault]
    exact State.faultDie_fault ..
  · exact (State.sealsGo_going _).flagged _ (State.faultDie_flagged _ _)

/-! ### The UCIe link -/

/-- What the link's loss does to a station of die 1. -/
def State.cutOff (a : State) (st : Stn) : State := ((a.controlledStop st).failStation st).burnUnwritten st

theorem State.cutOff_going (a : State) (st : Stn) : Going a (a.cutOff st) :=
  ((State.controlledStop_going a st).trans (State.failStation_going ..)).trans (State.burnUnwritten_writeOnly ..).going

theorem State.failStation_stn_ne (s : State) {st j : Stn} (h : j ≠ st) : (s.failStation st).stns[j] = s.stns[j] := by
  unfold State.failStation State.dropWork
  rw [State.modStn_stn_ne _ h]
  have same : ((s.finishAll (s.cmdsOf st) (.st 0xC)).stopMigs st).stns = s.stns := State.finishAll_keeps_stns ..
  rw [same]

theorem State.cutOff_stn_ne (a : State) {st j : Stn} (h : j ≠ st) : (a.cutOff st).stns[j] = a.stns[j] :=
  ((State.burnUnwritten_writeOnly ..).others j h).trans ((State.failStation_stn_ne _ h).trans ((State.controlledStop_stnOnly a st).others j h))

/-- A station that moves is stopping once it is cut off. -/
theorem State.cutOff_halting (a : State) (st : Stn) (h : (a.stns[st]).servo.motion = .moving) : ((a.cutOff st).stns[st]).haltingNow := by
  refine (State.burnUnwritten_writeOnly ..).going.halting st ((State.failStation_going ..).halting st ⟨?_, State.controlledStop_stops a st h⟩)
  by_cases stops : (a.stns[st]).servo.stops = true
  · exact ((State.controlledStop_going a st).halting st ⟨h, stops⟩).1
  · rw [State.controlledStop_stn a st h (by simpa using stops)]

theorem foldl_cutOff_halting {l : List Stn} {st : Stn} (mem : st ∈ l) (a : State) (h : (a.stns[st]).servo.motion = .moving) :
    ((l.foldl State.cutOff a).stns[st]).haltingNow := by
  induction l generalizing a with
  | nil => cases mem
  | cons x l ih =>
    rw [List.foldl_cons]
    by_cases e : st = x
    · subst e
      exact (foldl_going State.cutOff_going l _).halting st (State.cutOff_halting a st h)
    · exact ih ((List.mem_cons.mp mem).resolve_left e) (a.cutOff x) (by rw [State.cutOff_stn_ne a e]; exact h)

/-- A command that is on the list of those that end is answered, whatever of the list comes before it. -/
theorem State.finishAll_answered {s : State} {l : List CmdRef} {r : CmdRef} {k : Cmd} (mem : r ∈ l) (h : s.cmd? r = some k) (f : Ending) :
    (s.finishAll l f).answered r f.status := by
  induction l generalizing s with
  | nil => cases mem
  | cons x l ih =>
    by_cases e : r = x
    · subst e
      exact (State.finishAll_going (s.finish r f) l f).dones.answered (State.answered_of_ended (State.finish_ended h f))
    · exact ih ((List.mem_cons.mp mem).resolve_left e) ((State.finish_cmd_ne s f e).trans h)

theorem State.endReading_going (s : State) (st : Stn) : Going s (s.endReading st) := by
  unfold State.endReading
  extract_lets t
  split
  · exact Going.refl s
  · exact (State.modStn_going s st _ rfl).trans (State.controlledStop_going ..)

theorem mem_die1 : ∀ st : Stn, 4 ≤ st.val → st ∈ ([4, 5, 6, 7] : List Stn) := by decide

theorem exec_ucieLinkDown_eq (s : State) (up : s.ucieDown = false) :
    ∃ t, exec .ucieLinkDown s = .next t ∧ t.ucieDown = true ∧ t.flagged 214 ∧
      (∀ st : Stn, 4 ≤ st.val → (s.stns[st]).servo.motion = .moving → (t.stns[st]).servo.stops = true) ∧
      ∀ c ∈ s.allCmds, crossesDies c.1 c.2 = true → s.cmd? c.1 = some c.2 → t.answered c.1 0x0C := by
  let s1 : State := { s with ucieDown := true }
  let crossing := (s.allCmds.filter fun c => crossesDies c.1 c.2).map (·.1)
  let s2 := s1.finishAll crossing (.st 0xC)
  let s3 := ([4, 5, 6, 7] : List Stn).foldl State.cutOff s2
  let s4 := ([0, 1, 2, 3] : List Stn).foldl (fun a st => a.endReading st) s3
  have run : exec .ucieLinkDown s = .next (s4.raise 214).sealsGo := congrArg Host.Outcome.next (if_neg (by rw [up]; exact Bool.false_ne_true))
  have three : Going s3 s4 := foldl_going State.endReading_going _ s3
  have after : Going s4 (s4.raise 214).sealsGo := (State.raise_going ..).trans (State.sealsGo_going _)
  refine ⟨_, run, ?_, (State.sealsGo_going _).flagged _ (State.raise_flagged _ _ 0 (by decide)), fun st die1 moves => ?_, fun c mem crosses found => ?_⟩
  · have finished : s2.control = s1.control := State.finishAll_control ..
    have cut : s3.control = s2.control := foldl_control _ (fun a st => by
      exact (State.burnUnwritten_control ..).trans ((State.failStation_control ..).trans (State.controlledStop_control ..))) _ s2
    have reading : s4.control = s3.control := foldl_control _ State.endReading_control _ s3
    rw [ucieDown_of_control (State.sealsGo_control _), ucieDown_of_control (State.raise_control ..), ucieDown_of_control reading,
      ucieDown_of_control cut, ucieDown_of_control finished]
  · have mem : st ∈ ([4, 5, 6, 7] : List Stn) := mem_die1 st die1
    have here : (s2.stns[st]).servo.motion = .moving := by
      have same : s2.stns = s1.stns := State.finishAll_keeps_stns ..
      rw [same]; exact moves
    exact (after.halting st (three.halting st (foldl_cutOff_halting mem s2 here))).2
  · have listed : c.1 ∈ crossing := List.mem_map.mpr ⟨c, List.mem_filter.mpr ⟨mem, crosses⟩, rfl⟩
    have ended : s2.answered c.1 0xC := State.finishAll_answered (s := s1) listed found (.st 0xC)
    exact (((foldl_going State.cutOff_going _ s2).trans three).trans after).dones.answered ended

/-- Settles O59: what follows a fault keeps the fault, its events, the stops and the answers (`Going`). -/
theorem sequencersAndFaults : Obligations.SequencersAndFaults := by
  unfold Obligations.SequencersAndFaults
  intro s
  refine ⟨exec_controlStoreFetch_idle s, fun n cond flips a m words runs => exec_controlStoreFetch_ok words runs,
    fun n cond flips why words runs error => ⟨_, exec_controlStoreFetch_halts words runs error, State.halts_stores s n why,
      State.halts_station s n why, State.halts_die s n why⟩,
    exec_controlStoreScrub_eq s, fun k lost => congrArg Host.Outcome.next (if_pos lost), exec_stackLost_eq s,
    fun down => congrArg Host.Outcome.next (if_pos down), exec_ucieLinkDown_eq s,
    fun d => ⟨_, rfl, State.raise_flagged _ _ 0 (by omega), State.raise_events ..⟩,
    ⟨_, rfl, ?_, ?_, State.raise_flagged _ _ 0 (by decide)⟩⟩
  · rw [(State.raise_events ..).1]
  · rw [(State.raise_events ..).1]

end Sys2Proof.Machine
end

section
/-!
PROOFS of CREATE_QP, DELETE_QP and RESET_QP (10, R347, R349, R350).
-/
namespace Sys2Proof.Machine

/-! ### The other queues of a port -/

theorem State.finishNew_other (s : State) (c : HostCmd) (f : Ending) {q : Nat} (h : q ≠ c.qid) :
    ((s.finishNew c f).ports[c.port]).qp? q = (s.ports[c.port]).qp? q := by
  unfold State.finishNew State.putDone
  rw [State.modQp_other _ _ _ _ _ (by exact fun _ => rfl) h]
  split
  · exact HostPort.qp_congr (State.logErr_qps ..) _
  · rfl

theorem State.take_other (s : State) (c : HostCmd) {q : Nat} (h : q ≠ c.qid) : ((s.take c).ports[c.port]).qp? q = (s.ports[c.port]).qp? q := by
  rw [(State.take_events s c).qp]
  refine Eq.trans ?_ (State.modQp_other s c.port c.qid q (fun x => { x with sqHead := (x.sqHead + 1) % x.depth, held := none }) (fun _ => rfl) h)
  rw [State.modPort_ports, vmod_get_self]
  split <;> rfl

/-- The queue that an accepted admin entry is on. -/
theorem State.accepts_admin {s : State} {opc : Nat} {c : HostCmd} {own : Option Ending} (h : s.accepts opc c own) (admin : 0x80 ≤ opc) : c.qid = 0 := by
  obtain ⟨-, -, checks, -, -⟩ := h
  unfold State.checks at checks
  split at checks
  · cases checks
  · split at checks
    · cases checks
    next one =>
      have one : s.check1 opc c = true := by simpa using one
      unfold State.check1 at one
      simp only [Bool.and_eq_true, beq_iff_eq] at one
      obtain ⟨⟨-, kind⟩, -⟩ := one
      rw [decide_eq_true admin] at kind
      exact eq_of_beq kind.symm

/-! ### CREATE_QP -/

theorem exec_createQp_accepted {s : State} {c : HostCmd} (h : s.accepts 0x81 c (createOwn c s)) :
    ∃ t, exec (.createQp c) s = .next t ∧ t.ended (refOf c) 0 0 ∧
      (t.ports[c.port]).qp? (c.entry.cd 0 2) = some (Qp.fresh (c.entry.cd 0 2) (c.entry.cd 2 2) (BitVec.ofNat 64 (c.entry.cd 8 8))
        (BitVec.ofNat 64 (c.entry.cd 0x10 8)) (c.entry.cd 4 2)) := by
  generalize hx : Qp.fresh (c.entry.cd 0 2) (c.entry.cd 2 2) (BitVec.ofNat 64 (c.entry.cd 8 8))
    (BitVec.ofNat 64 (c.entry.cd 0x10 8)) (c.entry.cd 4 2) = x
  have id : x.id = c.entry.cd 0 2 := by rw [← hx]; rfl
  have run : exec (.createQp c) s = .next (((s.take c).modPort c.port fun h => { h with qps := h.qps ++ [x] }).finishNew c (.ok 0)) := by
    rw [← hx]
    exact congrArg Host.Outcome.next (State.host_run s 0x81 c (createOwn c) unblocked _ h rfl)
  obtain ⟨y, hy⟩ := State.accepts_taken h
  have admin := State.accepts_admin h (by decide)
  obtain ⟨-, -, -, -, own⟩ := h
  obtain ⟨q1, absent⟩ : ¬ (c.entry.cd 0 2 < 1 ∨ c.entry.cd 0 2 > 511) ∧ (s.ports[c.port]).qp? (c.entry.cd 0 2) = none := by
    unfold createOwn at own
    extract_lets e q at own
    split at own
    · cases own
    next range =>
      split at own
      · cases own
      split at own
      · cases own
      split at own
      · cases own
      split at own
      · cases own
      next gone => exact ⟨range, by simpa using gone⟩
  have other : c.entry.cd 0 2 ≠ c.qid := by omega
  have added : ∀ q, (((s.take c).modPort c.port fun h => { h with qps := h.qps ++ [x] }).ports[c.port]).qp? q =
      (((s.take c).ports[c.port]).qp? q).or ([x].find? fun x => x.id == q) := fun q => by
    rw [State.modPort_ports, vmod_get_self]
    exact List.find?_append
  refine ⟨_, run, State.finishNew_ended (x := y) (by rw [added, hy]; rfl) (.ok 0), ?_⟩
  rw [State.finishNew_other _ _ _ other, added, State.take_other s c other, absent, List.find?_cons_of_pos (by simp [id])]
  rfl

/-! ### DELETE_QP -/

theorem State.abandonRec_writeOnly (s : State) (st : Stn) (lon : Nat) (why : Abandon) : WriteOnly st s (s.abandonRec st lon why) := by
  have burn : ∀ (a : State) (n : Nat), WriteOnly st a (a.burnFrom st n) := fun a n =>
    (State.giveBack_writeOnly ..).trans (State.numberLabels_writeOnly ..)
  unfold State.abandonRec
  extract_lets s1 s2
  have one : WriteOnly st s s1 := 
    (State.modCtx_writeOnly s st (fun v => v.modRec lon fun r => r.abandonAs why) fun _ => rfl).trans ⟨State.dropJobs_stnOnly _ st _, rfl, rfl, id, fun _ h => h⟩
  have two : WriteOnly st s1 s2 := by
    simp only [s2]
    split
    · exact burn ..
    split
    · exact burn ..
    · exact WriteOnly.refl st s1
  exact (one.trans two).trans (State.assembleAll_writeOnly ..)

theorem State.abandonOpen_going (s : State) (p : Port) (q : Nat) : Going s (s.abandonOpen p q) :=
  foldl_going (fun a st => by
    split
    · exact Going.refl a
    · exact (foldl_going (fun b (r : Rec) => (State.abandonRec_writeOnly b st r.lon .queueGone).going) _ a).trans (State.settle_going ..)) allStns s

/-- A queue leaves its port, and no other. -/
theorem State.filter_qp (a : State) (p : Port) (q q' : Nat) :
    ((a.modPort p fun h => { h with qps := h.qps.filter fun x => x.id != q }).ports[p]).qp? q' = if q' = q then none else (a.ports[p]).qp? q' := by
  rw [State.modPort_ports, vmod_get_self]
  unfold HostPort.qp?
  dsimp only
  rw [List.find?_filter]
  split
  next e =>
    refine List.find?_eq_none.mpr fun x _ => ?_
    by_cases h : x.id = q <;> simp [h, e]
  next e =>
    congr 1
    funext x
    by_cases h : x.id = q' <;> simp [h, e]

theorem exec_deleteQp_accepted {s : State} {c : HostCmd} (h : s.accepts 0x82 c (deleteOwn c s)) :
    ∃ t, exec (.deleteQp c) s = .next t ∧ t.ended (refOf c) 0 0 ∧ (t.ports[c.port]).qp? (c.entry.cd 0 2) = none := by
  have run : exec (.deleteQp c) s = .next ((((s.take c).abandonOpen c.port (c.entry.cd 0 2)).modPort c.port fun h =>
      { h with qps := h.qps.filter fun x => x.id != c.entry.cd 0 2 }).finishNew c (.ok 0)) :=
    congrArg Host.Outcome.next (State.host_run s 0x82 c (deleteOwn c) unblocked _ h rfl)
  obtain ⟨y, hy⟩ := State.accepts_taken h
  have admin := State.accepts_admin h (by decide)
  obtain ⟨-, -, -, -, own⟩ := h
  have other : c.entry.cd 0 2 ≠ c.qid := by
    unfold deleteOwn at own
    extract_lets q at own
    split at own
    · cases own
    · split at own
      · cases own
      next nz => rw [admin]; exact nz
  have kept := (State.abandonOpen_going (s.take c) c.port (c.entry.cd 0 2)).qps.stays c.port c.qid
  rw [hy] at kept
  obtain ⟨z, hz⟩ := Option.isSome_iff_exists.mp kept
  generalize (s.take c).abandonOpen c.port (c.entry.cd 0 2) = a at run hz
  have here := State.filter_qp a c.port (c.entry.cd 0 2) c.qid
  have gone := State.filter_qp a c.port (c.entry.cd 0 2) (c.entry.cd 0 2)
  rw [if_neg (Ne.symm other), hz] at here
  rw [if_pos rfl] at gone
  exact ⟨_, run, State.finishNew_ended here (.ok 0), (State.finishNew_other _ _ _ other).trans gone⟩

/-! ### RESET_QP -/

theorem State.migHalt_going (s : State) (j : MigJob) : Going s (s.migHalt j) := by
  unfold State.migHalt
  extract_lets j1 s1
  have base : Going s s1 := by
    simp only [s1]
    refine Going.trans ?_ (State.endReading_going ..)
    exact Going.of_rest rfl rfl rfl rfl rfl (OutGrows.of_eq rfl)
  split
  · exact base.trans (State.endMig_going ..)
  split
  · exact base.trans (State.addFlush_going ..)
  · exact base.trans (State.endMig_going ..)

theorem State.openLoops_going_of_still {s : State} {st : Stn} (h : (s.stns[st]).servo.motion ≠ .moving) : Going s (s.openLoops st) :=
  State.modStn_going_of_still s st _ h

theorem State.dropMount_going (s : State) (st : Stn) : Going s (s.dropMount st) := by
  have left := State.dismount_going s st
  unfold State.dropMount
  generalize s.dismount st = a at left ⊢
  dsimp only
  split
  · exact left.trans (State.controlledStop_going ..)
  next still => exact left.trans (State.openLoops_going_of_still still)

theorem State.abortKind_going (s : State) (r : CmdRef) (k : Cmd) : Going s (s.abortKind r k) := by
  unfold State.abortKind
  extract_lets st
  generalize k.entry.opc.toNat = opc
  split
  · exact ((State.abandonRec_writeOnly ..).going.trans (State.sealGo_going ..)).trans (State.settle_going ..)
  · exact (State.modStn_going s st _ rfl).trans (State.endReading_going ..)
  · exact (State.modStn_going s st _ rfl).trans (State.endReading_going ..)
  · exact (State.modStn_going s st _ rfl).trans (State.endReading_going ..)
  · exact State.modStn_going s st _ rfl
  · split
    · exact State.migHalt_going ..
    · exact Going.refl s
  · exact State.modStn_going s st _ rfl
  · split
    · exact State.dropMount_going ..
    · exact Going.refl s
  · split
    · exact Going.of_rest rfl rfl rfl rfl rfl (OutGrows.of_eq rfl)
    · exact Going.refl s
  · exact ((State.modDie_woken s 0 _ (by exact fun _ => Die.Stays.of_eq ⟨rfl, rfl⟩)).trans
      (State.modDie_woken _ 1 _ (by exact fun _ => Die.Stays.of_eq ⟨rfl, rfl⟩))).going
  · exact Going.refl s

theorem State.forgetCmd_qpsKept (s : State) (r : CmdRef) : QpsKept s (s.forgetCmd r) := QpsKept.of_qps fun _ => rfl

theorem State.undone_qpsKept (s : State) (p : Port) (q : Nat) (d : Done) : QpsKept s (s.undone p q d) := by
  unfold State.undone
  extract_lets s1 st
  have base : QpsKept s s1 := QpsKept.of_qps fun _ => rfl
  split
  · exact base.trans ((State.abandonRec_writeOnly ..).going.trans (State.settle_going ..)).qps
  · exact base

/-- What an abort of a queue's commands sets off, once the queue is empty. -/
def State.aborted (a : State) (p : Port) (q : Nat) (x : Qp) : State :=
  x.done.foldl (fun a d => a.undone p q d) (x.cmds.foldl (fun a k => a.abortEffect ⟨p, q, k.entry.tag⟩ k) a)

theorem foldl_qpsKept {α : Type} {f : State → α → State} (h : ∀ a x, QpsKept a (f a x)) (l : List α) (s : State) : QpsKept s (l.foldl f s) := by
  induction l generalizing s with
  | nil => exact QpsKept.refl s
  | cons x l ih => exact (h s x).trans (ih _)

theorem State.aborted_qpsKept (a : State) (p : Port) (q : Nat) (x : Qp) : QpsKept a (a.aborted p q x) :=
  (foldl_qpsKept (fun a (k : Cmd) => (State.forgetCmd_qpsKept a ⟨p, q, k.entry.tag⟩).trans (State.abortKind_going _ _ k).qps) x.cmds a).trans
    (foldl_qpsKept (fun a d => State.undone_qpsKept a p q d) x.done _)

theorem State.abortQueue_eq {s : State} {p : Port} {q : Nat} {x : Qp} (h : (s.ports[p]).qp? q = some x) :
    s.abortQueue p q = (s.modQp p q fun x => { x with cmds := [], done := [], held := none }).aborted p q x := by
  unfold State.abortQueue
  rw [h]
  rfl

/-- An aborted queue has neither commands nor completions left, and what the aborts set off leaves it so. -/
theorem State.abortQueue_qp {s : State} {p : Port} {q : Nat} {x : Qp} (h : (s.ports[p]).qp? q = some x) :
    ((s.abortQueue p q).ports[p]).qp? q = some { x with cmds := [], done := [], held := none } := by
  rw [State.abortQueue_eq h]
  refine (State.aborted_qpsKept ..).idle p q _ ?_ rfl
  rw [State.modQp_qp _ _ _ _ (by exact fun _ => rfl), h]
  rfl

theorem State.dropGoneKeys_qp {s : State} {p : Port} {q : Nat} {x : Qp} (h : (s.ports[p]).qp? q = some x) :
    ∃ keys, ((s.dropGoneKeys p q).ports[p]).qp? q = some { x with keys := keys } := by
  refine ⟨x.keys.filter fun k => !(s.stns[k.stn]).ctx.all fun v => (v.rec? k.lon).all fun r => r.abandon.isSome,
    (State.modQp_qp _ _ _ _ (by exact fun _ => rfl)).trans ?_⟩
  rw [h]
  rfl

/-- The FINAL entry of a reset that is taken at a time. -/
def finalEntry (at_ : Nat) (x : Qp) : Done :=
  { opc := 0, stn := 0, tag := 0, status := 0, result := 0, log := false, final := true, at_ := at_, sqhd := some x.sqHead, len := 0,
    kept := true, locks := false }

/-- A RESET_QP that has been taken. -/
def State.resetNow (s : State) (c : HostCmd) (q : Nat) : State :=
  ((((s.addCmd c (Cmd.start c s.clock .moving)).modQp c.port q fun x => { x with resetting := some (refOf c) }).abortQueue c.port q).dropGoneKeys
    c.port q).modQp c.port q fun x => { x with done := x.done ++ [finalEntry s.clock x] }

theorem State.resetNow_qp {s : State} {c : HostCmd} {q : Nat} {x : Qp} (other : q ≠ c.qid) (h : (s.ports[c.port]).qp? q = some x) :
    ∃ keys, ((s.resetNow c q).ports[c.port]).qp? q = some
      { x with cmds := [], done := [finalEntry s.clock x], held := none, resetting := some (refOf c), keys := keys } := by
  have marked : (((s.addCmd c (Cmd.start c s.clock .moving)).modQp c.port q fun x => { x with resetting := some (refOf c) }).ports[c.port]).qp? q =
      some { x with resetting := some (refOf c) } := by
    rw [State.modQp_qp _ _ _ _ (by exact fun _ => rfl)]
    unfold State.addCmd
    rw [State.modQp_other _ _ _ _ _ (by exact fun _ => rfl) other, h]
    rfl
  obtain ⟨keys, keyed⟩ := State.dropGoneKeys_qp (State.abortQueue_qp marked)
  refine ⟨keys, (State.modQp_qp _ _ _ _ (by exact fun _ => rfl)).trans ?_⟩
  rw [keyed]
  rfl

theorem exec_resetQp_accepted {s : State} {c : HostCmd} (h : s.accepts 0x83 c (resetOwn c s)) :
    ∃ t x y d, exec (.resetQp c) s = .next t ∧ (s.ports[c.port]).qp? (c.entry.cd 0 2) = some x ∧
      (t.ports[c.port]).qp? (c.entry.cd 0 2) = some y ∧ y.cmds = [] ∧ y.done = [d] ∧ d.final = true ∧ d.status = 0 ∧
      d.sqhd = some x.sqHead ∧ y.resetting = some (refOf c) ∧ y.sqHead = x.sqHead := by
  have run : exec (.resetQp c) s = .next ((s.take c).resetNow c (c.entry.cd 0 2)) :=
    congrArg Host.Outcome.next (State.host_run s 0x83 c (resetOwn c) unblocked (fun s => s.resetNow c (c.entry.cd 0 2)) h rfl)
  have admin := State.accepts_admin h (by decide)
  obtain ⟨-, -, -, -, own⟩ := h
  obtain ⟨x, hx, other⟩ : ∃ x, (s.ports[c.port]).qp? (c.entry.cd 0 2) = some x ∧ c.entry.cd 0 2 ≠ c.qid := by
    unfold resetOwn at own
    extract_lets q at own
    split at own
    · cases own
    next x hx =>
      split at own
      · cases own
      next nz => exact ⟨x, hx, by rw [admin]; exact nz⟩
  obtain ⟨keys, hy⟩ := State.resetNow_qp other ((State.take_other s c other).trans hx)
  exact ⟨_, x, _, _, run, hx, hy, rfl, rfl, rfl, rfl, rfl, rfl, rfl⟩

/-- Settles O30: an abort leaves every idle queue as it is (`QpsKept`), so the queue that is reset keeps its one FINAL entry. -/
theorem queuePairs : Obligations.QueuePairs := by
  unfold Obligations.QueuePairs
  exact ⟨fun c s => ⟨exec_createQp_accepted, exec_deleteQp_accepted⟩, fun c s => exec_resetQp_accepted⟩

end Sys2Proof.Machine
end

section
/-!
PROOFS of IDENTIFY and GET_LOG (10, R331, R356; 09, R313).
-/
namespace Sys2Proof.Machine

/-! ### What the data is made of -/

/-- The parts of the package that IDENTIFY and GET_LOG send. -/
structure DataKept (s t : State) : Prop where
  boot : t.boot = s.boot
  ledger : t.ledger = s.ledger
  stnMap : t.stnMap = s.stnMap
  stns : t.stns = s.stns
  errs : ∀ p : Port, (t.ports[p]).errs = (s.ports[p]).errs ∧ (t.ports[p]).errCnt = (s.ports[p]).errCnt
  elog : ∀ d : DieId, (t.dies[d]).elog = (s.dies[d]).elog ∧ (t.dies[d]).elogCnt = (s.dies[d]).elogCnt

theorem DataKept.refl (s : State) : DataKept s s := ⟨rfl, rfl, rfl, rfl, fun _ => ⟨rfl, rfl⟩, fun _ => ⟨rfl, rfl⟩⟩

theorem DataKept.trans {s t u : State} (h : DataKept s t) (k : DataKept t u) : DataKept s u where
  boot := k.boot.trans h.boot
  ledger := k.ledger.trans h.ledger
  stnMap := k.stnMap.trans h.stnMap
  stns := k.stns.trans h.stns
  errs := fun p => ⟨(k.errs p).1.trans (h.errs p).1, (k.errs p).2.trans (h.errs p).2⟩
  elog := fun d => ⟨(k.elog d).1.trans (h.elog d).1, (k.elog d).2.trans (h.elog d).2⟩

theorem DataKept.bytes {s t : State} (h : DataKept s t) (p : Port) (e : Entry) : t.adminBytes p e = s.adminBytes p e := by
  have img : t.img = s.img := by unfold State.img; rw [h.boot]
  have ident : ∀ n, t.identData p n = s.identData p n := fun n => by
    unfold State.identData State.identDevice State.featOffer
    rw [img, h.boot, h.stnMap, h.ledger]
  have log : ∀ n d, t.logData p n d = s.logData p n d := fun n d => by
    unfold State.logData
    simp only [(h.errs p).1, (h.errs p).2, (h.elog d).1, (h.elog d).2, h.ledger, h.stns]
  unfold State.adminBytes
  rw [ident, log]

theorem EventsOnly.dataKept {s t : State} (h : EventsOnly s t) : DataKept s t := by
  refine ⟨h.boot, h.ledger, ?_, ?_, fun p => ?_, fun d => ?_⟩
  · rw [h.1]
  · rw [h.1]
  · rw [h.2.1 p]; exact ⟨rfl, rfl⟩
  · rw [h.2.2.1 d]; exact ⟨rfl, rfl⟩

theorem State.modQp_dataKept (s : State) (p : Port) (q : Nat) (f : Qp → Qp) : DataKept s (s.modQp p q f) := by
  refine ⟨rfl, rfl, rfl, rfl, fun p' => ?_, fun _ => ⟨rfl, rfl⟩⟩
  unfold State.modQp
  rw [State.modPort_ports, vmod_get]
  split <;> exact ⟨rfl, rfl⟩

theorem State.modPort_dataKept (s : State) (p : Port) (f : HostPort → HostPort) (h : ∀ x, (f x).errs = x.errs ∧ (f x).errCnt = x.errCnt) :
    DataKept s (s.modPort p f) := by
  refine ⟨rfl, rfl, rfl, rfl, fun p' => ?_, fun _ => ⟨rfl, rfl⟩⟩
  rw [State.modPort_ports, vmod_get]
  split
  · exact h _
  · exact ⟨rfl, rfl⟩

theorem State.modDie_dataKept (s : State) (d : DieId) (f : Die → Die) (h : ∀ x, (f x).elog = x.elog ∧ (f x).elogCnt = x.elogCnt) :
    DataKept s (s.modDie d f) := by
  refine ⟨rfl, rfl, rfl, rfl, fun _ => ⟨rfl, rfl⟩, fun d' => ?_⟩
  rw [State.modDie_dies, vmod_get]
  split
  · exact h _
  · exact ⟨rfl, rfl⟩

theorem State.take_dataKept (s : State) (c : HostCmd) : DataKept s (s.take c) :=
  ((State.modQp_dataKept ..).trans (State.modPort_dataKept _ _ _ (by intro x; split <;> exact ⟨rfl, rfl⟩))).trans (State.take_events s c).dataKept

theorem State.emit_dataKept (s : State) (o : Out) : DataKept s (s.emit o) :=
  ⟨rfl, rfl, rfl, rfl, fun _ => ⟨rfl, rfl⟩, fun _ => ⟨rfl, rfl⟩⟩

theorem foldl_dataKept {α : Type} {f : State → α → State} (h : ∀ a x, DataKept a (f a x)) (l : List α) (s : State) : DataKept s (l.foldl f s) := by
  induction l generalizing s with
  | nil => exact DataKept.refl s
  | cons x l ih => exact (h s x).trans (ih _)

/-- A command that ends without a failure is not logged. -/
theorem State.finish_dataKept (s : State) (r : CmdRef) {f : Ending} (h : f.logged = false) : DataKept s (s.finish r f) := by
  unfold State.finish
  split
  · exact DataKept.refl s
  · rw [h]
    exact (State.modQp_dataKept ..).trans (State.modQp_dataKept ..)

/-! ### Data that leaves -/

/-- A command's data has left, and its completion waits. -/
structure DataSent (t : State) (r : CmdRef) (out : List Out) (len : Nat) : Prop where
  done : ∃ x e, (t.ports[r.port]).qp? r.qid = some x ∧ e ∈ x.done ∧ e.tag = r.tag ∧ e.status = 0 ∧ e.result = BitVec.ofNat 64 len
  out : ∀ o ∈ out, o ∈ t.out

theorem DataSent.mono {t u : State} {r : CmdRef} {l : List Out} {n : Nat} (h : DataSent t r l n) (grow : DonesGrow t u)
    (out : ∀ o ∈ t.out, o ∈ u.out) : DataSent u r l n := by
  obtain ⟨x, e, hx, mem, rest⟩ := h.done
  obtain ⟨y, m, hy, dy⟩ := grow _ _ x hx
  exact ⟨⟨y, e, hy, by rw [dy]; exact List.mem_append_left _ mem, rest⟩, fun o ho => out o (h.out o ho)⟩

theorem foldl_emit_out (l : List Out) (s : State) : (∀ o ∈ l, o ∈ (l.foldl State.emit s).out) ∧ ∀ o ∈ s.out, o ∈ (l.foldl State.emit s).out := by
  induction l generalizing s with
  | nil => exact ⟨fun o h => absurd h List.not_mem_nil, fun o h => h⟩
  | cons x l ih =>
    obtain ⟨new, old⟩ := ih (s.emit x)
    refine ⟨fun o h => ?_, fun o h => old o (List.mem_cons_of_mem _ h)⟩
    cases h with
    | head => exact old x (List.mem_cons_self ..)
    | tail _ h => exact new o h

theorem State.finish_out (s : State) (r : CmdRef) {f : Ending} (h : f.logged = false) : (s.finish r f).out = s.out := by
  unfold State.finish
  split
  · rfl
  · rw [h]
    rfl

/-- What sending does for the command that it is of. -/
theorem State.sendAdmin_eq {s : State} {r : CmdRef} {k : Cmd} (h : s.cmd? r = some k) (opc : k.entry.opc = 0x80 ∨ k.entry.opc = 0x84) :
    s.sendAdmin r false = (s.sendData r.port k.entry k.sgl 0 (s.adminBytes r.port k.entry)).finish r (.ok (s.adminBytes r.port k.entry).length) := by
  unfold State.sendAdmin
  rw [h]
  dsimp only
  rw [if_neg (fun hn => opc.elim hn.1 hn.2)]
  rfl

theorem ok_not_logged (n : Nat) : (Ending.ok n).logged = false := rfl

theorem State.sendAdmin_ended {s : State} {r : CmdRef} {k : Cmd} (h : s.cmd? r = some k) (opc : k.entry.opc = 0x80 ∨ k.entry.opc = 0x84) :
    (s.sendAdmin r false).ended r 0 (s.adminBytes r.port k.entry).length ∧
      ∀ o ∈ sendSegs r.port 0 (s.adminBytes r.port k.entry) false (dataSegs k.entry k.sgl), o ∈ (s.sendAdmin r false).out := by
  rw [State.sendAdmin_eq h opc]
  refine ⟨State.finish_ended ((State.cmd_congr r (qps_of_service (State.sendData_service ..) _)).trans h) (.ok _), fun o ho => ?_⟩
  rw [State.finish_out _ _ (ok_not_logged _)]
  exact (foldl_emit_out _ s).1 o ho

theorem State.sendAdmin_sent {s : State} {r : CmdRef} {k : Cmd} (h : s.cmd? r = some k) (opc : k.entry.opc = 0x80 ∨ k.entry.opc = 0x84) :
    DataSent (s.sendAdmin r false) r (sendSegs r.port 0 (s.adminBytes r.port k.entry) false (dataSegs k.entry k.sgl))
      (s.adminBytes r.port k.entry).length := by
  obtain ⟨⟨x, d, hx, last, tag, -, status, result⟩, out⟩ := State.sendAdmin_ended h opc
  exact ⟨⟨x, d, hx, List.mem_of_getLast? last, tag, status, result⟩, out⟩

theorem State.sendAdmin_keeps (s : State) (r : CmdRef) : DataKept s (s.sendAdmin r false) ∧ ∀ o ∈ s.out, o ∈ (s.sendAdmin r false).out := by
  unfold State.sendAdmin
  split
  · exact ⟨DataKept.refl s, fun o h => h⟩
  next k _ =>
    split
    · exact ⟨DataKept.refl s, fun o h => h⟩
    · have sent : DataKept s (s.sendData r.port k.entry k.sgl 0 (s.adminBytes r.port k.entry) false) := foldl_dataKept State.emit_dataKept _ s
      refine ⟨sent.trans (State.finish_dataKept _ r rfl), fun o h => ?_⟩
      rw [State.finish_out _ r rfl]
      exact (foldl_emit_out _ s).2 o h

theorem State.sendAdmin_cmd_ne (s : State) {r r' : CmdRef} (ne : r' ≠ r) : (s.sendAdmin r false).cmd? r' = s.cmd? r' := by
  unfold State.sendAdmin
  split
  · rfl
  · split
    · rfl
    · rw [State.finish_cmd_ne _ _ ne]
      exact State.cmd_congr r' (qps_of_service (State.sendData_service ..) _)

/-- Of several commands that send, each one on the list does. -/
theorem foldl_sendAdmin_sent {r : CmdRef} {b : List Byte} {e : Entry} {sgl : List SglEntry} (opc : e.opc = 0x80 ∨ e.opc = 0x84)
    (l : List (CmdRef × Cmd)) (s : State) (hb : s.adminBytes r.port e = b)
    (h : DataSent s r (sendSegs r.port 0 b false (dataSegs e sgl)) b.length ∨
      r ∈ l.map (·.1) ∧ ∃ k, s.cmd? r = some k ∧ k.entry = e ∧ k.sgl = sgl) :
    DataSent (l.foldl (fun a c => a.sendAdmin c.1 false) s) r (sendSegs r.port 0 b false (dataSegs e sgl)) b.length := by
  induction l generalizing s with
  | nil =>
    rcases h with h | ⟨h, -⟩
    · exact h
    · cases h
  | cons x l ih =>
    rw [List.foldl_cons]
    obtain ⟨keeps, out⟩ := State.sendAdmin_keeps s x.1
    refine ih _ ((keeps.bytes _ _).trans hb) ?_
    rcases h with sent | ⟨mem, k, hk, entry, list⟩
    · exact .inl (sent.mono (State.sendAdmin_woken s x.1 false).dones out)
    · by_cases here : r = x.1
      · left
        rw [← here]
        have := State.sendAdmin_sent hk (by rw [entry]; exact opc)
        rw [entry, list, hb] at this
        exact this
      · right
        exact ⟨(List.mem_cons.mp mem).resolve_left here, k, (State.sendAdmin_cmd_ne s here).trans hk, entry, list⟩

/-! ### The entry -/

/-- An IDENTIFY or GET_LOG that is taken, and needs no exit to P0. -/
def State.adminTaken (s : State) (c : HostCmd) : State :=
  State.startAdmin (refOf c) ((s.take c).addCmd c (Cmd.start c (s.take c).clock .needBuffer))

theorem exec_adminData_accepted {i : Instr} {opc : Nat} {own : Option Ending} {c : HostCmd} {s : State}
    (h : i = .identify c ∧ opc = 0x80 ∧ own = identOwn c s ∨ i = .getLog c ∧ opc = 0x84 ∧ own = logOwn c s) (acc : s.accepts opc c own)
    (awake : s.mustWake opc = false) : exec i s = .next (s.adminTaken c) := by
  have go := State.launch_goes (c := c) (k := Cmd.start c (s.take c).clock .needBuffer) (go := State.startAdmin)
    ((State.taken_mustWake acc).trans awake)
  obtain ⟨rfl, rfl, rfl⟩ | ⟨rfl, rfl, rfl⟩ := h
  · exact congrArg Host.Outcome.next ((State.host_run s 0x80 c (identOwn c) unblocked
      (fun s => s.launch c (Cmd.start c s.clock .needBuffer) State.startAdmin) acc rfl).trans go)
  · exact congrArg Host.Outcome.next ((State.host_run s 0x84 c (logOwn c) unblocked
      (fun s => s.launch c (Cmd.start c s.clock .needBuffer) State.startAdmin) acc rfl).trans go)

theorem State.startAdmin_waits {s : State} {r : CmdRef} {k : Cmd} (h : s.cmd? r = some k) (data : s.adminBytes r.port k.entry ≠ [])
    (stage : s.rst.stage ≠ .recovery) : (State.startAdmin r s).underWay r k.entry .needBuffer := by
  have waits : State.startAdmin r s = s.modCmd r fun k => { k with phase := .needBuffer } := by
    unfold State.startAdmin
    rw [h]
    refine if_neg (not_or.mpr ⟨fun none => data (List.isEmpty_iff.mp none), stage⟩)
  rw [waits]
  exact ⟨{ k with phase := .needBuffer }, by rw [State.modCmd_cmd _ _ _ (by exact fun _ => rfl), h]; rfl, rfl, rfl⟩

theorem State.startAdmin_sends {s : State} {r : CmdRef} {k : Cmd} (h : s.cmd? r = some k)
    (now : s.adminBytes r.port k.entry = [] ∨ s.rst.stage = .recovery) : State.startAdmin r s = s.sendAdmin r false := by
  unfold State.startAdmin
  rw [h]
  exact if_pos (now.imp_left List.isEmpty_iff.mpr)

/-- The state in which an accepted IDENTIFY or GET_LOG begins sends what the state before sent. -/
theorem State.addAdmin_same (s : State) (c : HostCmd) (k : Cmd) : ((s.take c).addCmd c k).adminBytes c.port c.entry = s.adminBytes c.port c.entry ∧
    ((s.take c).addCmd c k).rst.stage = s.rst.stage :=
  ⟨((State.take_dataKept s c).trans (State.modQp_dataKept ..)).bytes .., by
    rw [State.take_portsOnly s c]
    rfl⟩

section
variable {s : State} {opc : Nat} {own : Option Ending} {c : HostCmd}

theorem State.adminTaken_waits (acc : s.accepts opc c own) (data : s.adminBytes c.port c.entry ≠ []) (alive : s.rst.stage ≠ .recovery) :
    (s.adminTaken c).underWay (refOf c) c.entry .needBuffer := by
  have taken := State.taken_cmd s opc c own (Cmd.start c (s.take c).clock .needBuffer) acc rfl
  obtain ⟨bytes, stage⟩ := State.addAdmin_same s c (Cmd.start c (s.take c).clock .needBuffer)
  exact State.startAdmin_waits taken (fun e => data (bytes.symm.trans e)) (fun e => alive (stage.symm.trans e))

theorem State.adminTaken_ended (acc : s.accepts opc c own) (admin : c.entry.opc = 0x80 ∨ c.entry.opc = 0x84)
    (now : s.adminBytes c.port c.entry = [] ∨ s.rst.stage = .recovery) :
    (s.adminTaken c).ended (refOf c) 0 (s.adminBytes c.port c.entry).length ∧
      ∀ o ∈ sendSegs c.port 0 (s.adminBytes c.port c.entry) false (dataSegs c.entry c.sgl), o ∈ (s.adminTaken c).out := by
  have taken := State.taken_cmd s opc c own (Cmd.start c (s.take c).clock .needBuffer) acc rfl
  obtain ⟨bytes, stage⟩ := State.addAdmin_same s c (Cmd.start c (s.take c).clock .needBuffer)
  have sends := State.startAdmin_sends taken (now.imp bytes.trans stage.trans)
  have sent := State.sendAdmin_ended taken admin
  rw [← sends] at sent
  rw [← bytes]
  exact sent

end

/-! ### The grant of its buffer -/

theorem State.mem_allCmds {s : State} {r : CmdRef} {k : Cmd} (h : s.cmd? r = some k) : (r, k) ∈ s.allCmds := by
  obtain ⟨x, hx, tag⟩ := State.cmd_tag h
  have found : x.cmds.find? (fun c => c.entry.tag == r.tag) = some k := by
    unfold State.cmd? at h
    rwa [hx] at h
  have id : x.id = r.qid := eq_of_beq (List.find?_some (p := fun x : Qp => x.id == r.qid) hx)
  have port : ∀ p : Port, p ∈ ([0, 1] : List Port) := by decide
  refine List.mem_flatMap.mpr ⟨r.port, port _, List.mem_flatMap.mpr ⟨x, List.mem_of_find?_eq_some hx, List.mem_map.mpr ⟨k, List.mem_of_find?_eq_some found, ?_⟩⟩⟩
  rw [id, tag]

/-- An IDENTIFY or GET_LOG that holds its buffer sends its data. -/
theorem State.grantsGo_sent {s : State} {r : CmdRef} {k : Cmd} (h : s.cmd? r = some k) (opc : k.entry.opc = 0x80 ∨ k.entry.opc = 0x84)
    (moving : k.phase = .moving) (held : k.handle.isSome = true) :
    DataSent s.grantsGo r (sendSegs r.port 0 (s.adminBytes r.port k.entry) false (dataSegs k.entry k.sgl)) (s.adminBytes r.port k.entry).length := by
  have picked : (r, k) ∈ s.allCmds.filter fun c => c.2.phase == .moving && c.2.handle.isSome && (c.2.entry.opc == 0x80 || c.2.entry.opc == 0x84) :=
    List.mem_filter.mpr ⟨State.mem_allCmds h, by obtain e | e := opc <;> simp [moving, held, e]⟩
  exact foldl_sendAdmin_sent opc _ s rfl (.inr ⟨List.mem_map_of_mem picked, k, h, rfl, rfl⟩)

theorem State.takeBuf_dataKept (s : State) (d : DieId) (p : Fin 5) (k : Nat) : DataKept s (s.takeBuf d p k).2 := by
  have drawn : DataKept s s.draw.2 := ⟨rfl, rfl, rfl, rfl, fun _ => ⟨rfl, rfl⟩, fun _ => ⟨rfl, rfl⟩⟩
  unfold State.takeBuf
  exact drawn.trans (State.modDie_dataKept _ _ _ (by exact fun _ => ⟨rfl, rfl⟩))

/-- A buffer that a command is granted. -/
theorem State.grantUse_command {s : State} {d : DieId} {b : BitVec 32} {r : CmdRef} {k : Cmd} (h : s.cmd? r = some k) (opc : k.entry.opc ≠ 1) :
    (s.grantUse d b (.command r.port r.qid r.tag)).cmd? r = some (k.granted b) ∧ DataKept s (s.grantUse d b (.command r.port r.qid r.tag)) := by
  generalize hb : (s.modDie d fun x => x.modPool (fin5 (hPool b)) fun q =>
    q.setBuf { q.buf (hIndex b) with holds := s.holdsFor (.command r.port r.qid r.tag) }) = a
  have found : a.cmd? r = some k := by rw [← hb]; exact h
  have kept : DataKept s a := by
    rw [← hb]
    exact State.modDie_dataKept _ _ _ fun _ => ⟨rfl, rfl⟩
  have run : s.grantUse d b (.command r.port r.qid r.tag) = a.modCmd r fun c => c.granted b := by
    unfold State.grantUse
    dsimp only
    rw [hb, found]
    exact if_neg fun e => opc e.1
  rw [run]
  exact ⟨by rw [State.modCmd_cmd _ _ _ (by exact fun _ => rfl), found]; rfl, kept.trans (State.modQp_dataKept ..)⟩

/-- A grant to an IDENTIFY or GET_LOG that waits for its buffer. -/
theorem exec_poolGrant_admin {s : State} {d : DieId} {owner len : Nat} {p : Fin 5} {r : CmdRef} {k : Cmd}
    (h : s.cmd? r = some k) (opc : k.entry.opc = 0x80 ∨ k.entry.opc = 0x84) (waits : k.phase = .needBuffer ∨ k.phase = .waitBuffer)
    (acting : actingOwner owner = true) (may : s.mayRequest d owner len (.command r.port r.qid r.tag) = true) (pool : poolFor len = some p)
    (turn : s.poolTurn d p (.poolGrant d owner len (.command r.port r.qid r.tag)) = true) (granted : s.grantOutcome d p owner = .granted) :
    ∃ t, exec (.poolGrant d owner len (.command r.port r.qid r.tag)) s = .next t ∧
      DataSent t r (sendSegs r.port 0 (s.adminBytes r.port k.entry) false (dataSegs k.entry k.sgl)) (s.adminBytes r.port k.entry).length := by
  have run : exec (.poolGrant d owner len (.command r.port r.qid r.tag)) s =
      .next (((s.takeBuf d p owner).2.grantUse d (s.takeBuf d p owner).1 (.command r.port r.qid r.tag)).grantsGo) := by
    show execPoolGrant d owner len (.command r.port r.qid r.tag) s = _
    unfold execPoolGrant
    rw [acting, may, pool]
    dsimp only
    rw [turn, granted]
    rfl
  have drawn := State.takeBuf_dataKept s d p owner
  have still : (s.takeBuf d p owner).2.cmd? r = some k := h
  have not1 : k.entry.opc ≠ 1 := by
    rintro e
    rw [e] at opc
    revert opc
    decide
  generalize s.takeBuf d p owner = u at run drawn still
  obtain ⟨got, kept⟩ := State.grantUse_command (d := d) (b := u.1) still not1
  refine ⟨_, run, ?_⟩
  have sent := State.grantsGo_sent got opc (if_pos waits) rfl
  rw [show (k.granted u.1).entry = k.entry from rfl, show (k.granted u.1).sgl = k.sgl from rfl, (drawn.trans kept).bytes] at sent
  exact sent

/-- Settles O29: nothing between the entry and its sending, nor between the grant and its sending, changes what the data is made of
(`DataKept`). -/
theorem deviceData : Obligations.DeviceData := by
  refine ⟨fun i opc own c s which acc awake => ?_, fun s d owner len p pt q tag k found opc waits _ acting may pool turn granted => ?_⟩
  · refine ⟨_, exec_adminData_accepted which acc awake, State.adminTaken_waits acc, State.adminTaken_ended acc ?_⟩
    have opcode := State.accepts_opc acc
    obtain ⟨-, rfl, -⟩ | ⟨-, rfl, -⟩ := which
    · exact .inl (BitVec.eq_of_toNat_eq opcode)
    · exact .inr (BitVec.eq_of_toNat_eq opcode)
  · obtain ⟨t, run, ⟨x, e, hx, mem, tag, status, result⟩, out⟩ :=
      exec_poolGrant_admin (r := ⟨pt, q, tag⟩) found opc waits acting may pool turn granted
    exact ⟨t, x, e, run, hx, mem, tag, status, result, out⟩

end Sys2Proof.Machine
end

section
/-!
PROOFS of the block resets (12, R406, R407): a station in Hold whose loops cannot open at once.
-/
namespace Sys2Proof.Machine

/-- BLOCK_RESET of station 0, KIND 0, DIE 0, INDEX 0. -/
def resetStation0 : HostCmd :=
  ⟨0, 0, { opc := 0x91, flags := 0, tag := 1, stn := 0xFF, cflags := 0, rsv := 0, mnt := 0, dlen := 0, dptr := 0, rptr := 0, cdw := 0 }, []⟩

/-- Station 0 is in Hold, with no mount: its cartridge has been taken away, and its head-end is not yet at rest. -/
def heldStation : State := adminPackage.modStn 0 fun t => { t with servo := { t.servo with motion := .hold } }

theorem heldStation_accepts : heldStation.accepts 0x91 resetStation0 (blkOwn resetStation0 heldStation) := by
  unfold State.accepts
  decide +kernel

theorem exec_blockReset_accepted {s : State} {c : HostCmd} (h : s.accepts 0x91 c (blkOwn c s)) :
    exec (.blockReset c) s = .next (State.runBlock c (s.take c)) :=
  congrArg Host.Outcome.next (State.host_run s 0x91 c (blkOwn c) unblocked (State.runBlock c) h rfl)

/-- The station goes into reset, and stays in Hold. -/
theorem heldStation_run : ((State.runBlock resetStation0 (heldStation.take resetStation0)).stns[(0 : Stn)]).servo.motion = .hold := by
  decide +kernel

/-- Refutes O34: a station in Hold is Open only once its head-end is at rest (Table 7.13), in a block reset too. -/
theorem not_blockResets : ¬ Obligations.BlockResets := by
  intro h
  obtain ⟨enters, -⟩ := h heldStation
  obtain ⟨t, run, -, -, station, -⟩ := enters resetStation0 heldStation_accepts
  rw [exec_blockReset_accepted heldStation_accepts] at run
  obtain ⟨-, opened, -⟩ := station (by decide)
  rw [← Host.Outcome.next.inj run] at opened
  exact absurd (heldStation_run.symm.trans opened) (by decide)

end Sys2Proof.Machine
end

section
/-!
PROOFS of MOUNT, UNMOUNT and INIT_VOLUME (10, R334 to R336; 07, R237, R246; 08, R261).
-/
namespace Sys2Proof.Machine

/-! ### A volume that leaves its station -/

/-- What is left of a station that is dismounted: its servo, its loops and its tape are as they were. -/
structure Station.Dismounted (t u : Station) : Prop where
  mount : u.mount = none
  mountCmd : u.mountCmd = none
  servo : u.servo = t.servo
  men : u.men = t.men
  wgate : u.wgate = t.wgate

/-- A station whose volume has left it. -/
def Station.emptied (t : Station) : Station :=
  { t with
    mount := none, ctx := none, mountCmd := none, write := Write.reset, readSide := Recall.reset
    speed := { Speed.reset with vbus := t.speed.vbus, dipMin := t.speed.dipMin, inDip := t.speed.inDip, busCap := t.speed.busCap, busStop := t.speed.busStop, busHeld := t.speed.busHeld } }

/-- The package once a volume has left its station, before its buffers return. -/
def State.emptied (s : State) (st : Stn) : State :=
  { s.modStn st Station.emptied with
    migs := s.migs.filter (fun j => !(j.src == st || j.dst == st))
    vault := { s.vault with slots := vmod s.vault.slots st fun _ => none } }

theorem State.dismount_eq (s : State) (st : Stn) : s.dismount st = (s.emptied st).freeSpent st := rfl

theorem State.emptied_stn (s : State) (st : Stn) : (s.emptied st).stns[st] = (s.stns[st]).emptied := State.modStn_stn ..

theorem State.emptied_cmd (s : State) (st : Stn) (r : CmdRef) : (s.emptied st).cmd? r = s.cmd? r := rfl

theorem State.dismount_stn (s : State) (st : Stn) : (s.stns[st]).Dismounted (s.dismount st).stns[st] := by
  rw [State.dismount_eq]
  obtain ⟨side, -, -⟩ := (State.freeSpent_woken (s.emptied st) st).stns st
  rw [State.emptied_stn] at side
  exact ⟨by rw [side]; rfl, by rw [side]; rfl, by rw [side]; rfl, by rw [side]; rfl, by rw [side]; rfl⟩

theorem State.dismount_cmd {s : State} {st : Stn} {r : CmdRef} {k : Cmd} (h : s.cmd? r = some k) (h80 : k.entry.opc ≠ 0x80)
    (h84 : k.entry.opc ≠ 0x84) : ∃ k', (s.dismount st).cmd? r = some k' ∧ k'.entry = k.entry ∧ k'.status = k.status := by
  rw [State.dismount_eq]
  obtain ⟨k', found, entry, status, -⟩ := (State.freeSpent_woken (s.emptied st) st).cmd r k h h80 h84
  exact ⟨k', found, entry, status⟩

/-- What an ending leaves of the stations. -/
theorem State.finish_stn (s : State) (r : CmdRef) (f : Ending) (st : Stn) : (s.finish r f).stns[st] = s.stns[st] := by
  rw [State.finish_portsOnly s r f]

/-! ### A MOUNT that goes on -/

section
variable {s : State} {st : Stn} {r : CmdRef} {k : Cmd} (cmd : (s.stns[st]).mountCmd = some r) (found : s.cmd? r = some k)
include cmd found

theorem State.mountGo_waits (h : ¬ ((s.stns[st]).servo.motion = .open_ ∧ (s.stns[st]).servo.closing = false)) : s.mountGo st = s := by
  unfold State.mountGo
  extract_lets t
  rw [show t.mountCmd = some r from cmd]
  dsimp only
  rw [found]
  refine if_pos ?_
  by_cases m : (s.stns[st]).servo.motion = .open_
  · refine .inr (.inl ?_)
    by_contra c
    exact h ⟨m, Bool.eq_false_iff.mpr c⟩
  · exact .inl m

section
variable (opened : (s.stns[st]).servo.motion = .open_ ∧ (s.stns[st]).servo.closing = false) (opc : k.entry.opc = 0x85) (queued : k.phase = .queued)
  (ctx : (s.stns[st]).ctx = none)
include opened opc queued ctx

theorem State.mountGo_threads (reach : reachable s.img (s.geoOf st) st (mountWraps k.entry (s.geoOf st)) = true) :
    s.mountGo st = ((s.modCmd r fun k => { k with phase := .threading }).modStn st fun t =>
      t.thread s.img st (mountMode k.entry == 2) (s.geoOf st)).closeLoops st := by
  unfold State.mountGo
  extract_lets t geo
  rw [show t.mountCmd = some r from cmd]
  dsimp only
  rw [found]
  dsimp only
  rw [if_neg (by rw [show t.servo.motion = .open_ from opened.1, show t.servo.closing = false from opened.2, opc, queued]; simp), show t.ctx = none from ctx, if_neg (by simp), if_neg (by simp [geo, reach])]

theorem State.mountGo_fails (reach : reachable s.img (s.geoOf st) st (mountWraps k.entry (s.geoOf st)) = false) :
    s.mountGo st = (s.dismount st).finish r (.st 0xC) := by
  unfold State.mountGo
  extract_lets t geo
  rw [show t.mountCmd = some r from cmd]
  dsimp only
  rw [found]
  dsimp only
  rw [if_neg (by rw [show t.servo.motion = .open_ from opened.1, show t.servo.closing = false from opened.2, opc, queued]; simp), show t.ctx = none from ctx, if_neg (by simp), if_pos (by simp [geo, reach])]

end
end

/-- A MOUNT that is noted at its station. -/
def State.mountNoted (s : State) (r : CmdRef) (st : Stn) : State :=
  (s.modCmd r fun k => { k with phase := .queued }).modStn st fun t => { t with mountCmd := some r }

section
variable {s : State} {r : CmdRef} {k : Cmd}

theorem State.startMount_eq (found : s.cmd? r = some k) : State.startMount r s = (s.mountNoted r k.entry.st).mountGo k.entry.st := by
  unfold State.startMount
  rw [found]
  rfl

theorem State.mountNoted_cmd (found : s.cmd? r = some k) (st : Stn) : (s.mountNoted r st).cmd? r = some { k with phase := .queued } :=
  (State.modCmd_cmd s r (fun k => { k with phase := .queued }) fun _ => rfl).trans (by rw [found]; rfl)

theorem State.mountNoted_stn (s : State) (r : CmdRef) (st : Stn) :
    (s.mountNoted r st).stns[st] = { s.stns[st] with mountCmd := some r } := State.modStn_stn ..

/-- The geometry of a station with no volume is that of the MOUNT under way. -/
theorem State.mountNoted_geo {st : Stn} (found : s.cmd? r = some k) (ctx : (s.stns[st]).ctx = none) (mount : (s.stns[st]).mount = none) :
    (s.mountNoted r st).geoOf st = s.mountGeo k.entry := by
  unfold State.geoOf
  extract_lets t
  have here : t = { s.stns[st] with mountCmd := some r } := State.mountNoted_stn s r st
  have cmd : t.mountCmd.bind (s.mountNoted r st).cmd? = some { k with phase := .queued } := by
    rw [here]
    exact State.mountNoted_cmd found st
  rw [show t.ctx = none by rw [here]; exact ctx, show t.mount = none by rw [here]; exact mount, cmd]
  rfl

end

/-! ### The entries -/

/-- A command that is taken, where it needs no exit to P0. -/
def State.takenAs (s : State) (c : HostCmd) (ph : Phase) : State := (s.take c).addCmd c (Cmd.start c (s.take c).clock ph)

section
variable {s : State} {c : HostCmd} {opc : Nat} {own : Option Ending}

theorem State.takenAs_cmd (h : s.accepts opc c own) (ph : Phase) :
    (s.takenAs c ph).cmd? (refOf c) = some (Cmd.start c (s.take c).clock ph) := State.taken_cmd s opc c own _ h rfl

theorem State.takenAs_portsOnly (s : State) (c : HostCmd) (ph : Phase) : PortsOnly s (s.takenAs c ph) :=
  (State.take_portsOnly s c).trans (State.modQp_portsOnly ..)

theorem State.takenAs_stn (s : State) (c : HostCmd) (ph : Phase) (st : Stn) : (s.takenAs c ph).stns[st] = s.stns[st] := by
  rw [State.takenAs_portsOnly s c ph]

theorem State.takenAs_boot (s : State) (c : HostCmd) (ph : Phase) : (s.takenAs c ph).boot = s.boot := (State.takenAs_portsOnly s c ph).boot

theorem img_congr {s t : State} (h : t.boot = s.boot) : t.img = s.img := by
  unfold State.img
  rw [h]

theorem State.mountGeo_congr {s t : State} (h : t.boot = s.boot) (e : Entry) : t.mountGeo e = s.mountGeo e := by
  unfold State.mountGeo
  rw [img_congr h]

theorem State.accepts_launch (acc : s.accepts opc c own) (awake : s.mustWake c.entry.opc.toNat = false) (ph : Phase) (go : CmdRef → State → State) :
    (s.take c).launch c (Cmd.start c (s.take c).clock ph) go = go (refOf c) (s.takenAs c ph) :=
  State.launch_goes ((State.taken_mustWake acc).trans (by rw [State.accepts_opc acc] at awake; exact awake))

end

section
variable {s : State} {c : HostCmd} {cart : Cartridge} (awake : s.mustWake c.entry.opc.toNat = false)
include awake

theorem exec_mount_accepted (h : s.accepts 0x85 c (mountOwn c cart s)) :
    exec (.mount c cart) s = .next (((s.takenAs c .queued).mountNoted (refOf c) c.entry.st).mountGo c.entry.st) := by
  refine (congrArg Host.Outcome.next ((State.host_run s 0x85 c (mountOwn c cart) unblocked
    (fun s => s.launch c (Cmd.start c s.clock .queued) State.startMount) h rfl).trans (State.accepts_launch h awake ..))).trans ?_
  rw [State.startMount_eq (State.takenAs_cmd h .queued)]
  rfl

theorem exec_mount_open (h : s.accepts 0x85 c (mountOwn c cart s))
    (opened : (s.stns[c.entry.st]).servo.motion = .open_ ∧ (s.stns[c.entry.st]).servo.closing = false) (ctx : (s.stns[c.entry.st]).ctx = none) :
    (reachable s.img (s.mountGeo c.entry) c.entry.st (mountWraps c.entry (s.mountGeo c.entry)) = true → ∃ t, exec (.mount c cart) s = .next t ∧
      (t.stns[c.entry.st]).mountCmd = some (refOf c) ∧ t.underWay (refOf c) c.entry .threading ∧ (t.stns[c.entry.st]).servo.threaded = true ∧
      (t.stns[c.entry.st]).servo.reelSet = s.img.reelOf (s.mountGeo c.entry) ∧ (t.stns[c.entry.st]).servo.closing = true ∧
      (t.stns[c.entry.st]).men = false) ∧
    (reachable s.img (s.mountGeo c.entry) c.entry.st (mountWraps c.entry (s.mountGeo c.entry)) = false → ∃ t, exec (.mount c cart) s = .next t ∧
      (t.stns[c.entry.st]).mountCmd = none ∧ t.ended (refOf c) 0x0C 0) := by
  have run := exec_mount_accepted awake h
  have mount : (s.stns[c.entry.st]).mount = none := by
    have own := h.2.2.2.2
    unfold mountOwn at own
    dsimp only at own
    split at own
    · cases own
    split at own
    · cases own
    next none => 
      by_contra hm
      exact none (.inl (Option.isSome_iff_ne_none.mpr hm))
  have opc : c.entry.opc = 0x85 := BitVec.eq_of_toNat_eq (State.accepts_opc h)
  have taken := State.takenAs_cmd h .queued
  have here := State.takenAs_stn s c .queued c.entry.st
  have geo := State.mountNoted_geo (st := c.entry.st) taken (by rw [here]; exact ctx) (by rw [here]; exact mount)
  have found := State.mountNoted_cmd taken c.entry.st
  have stn := State.mountNoted_stn (s.takenAs c .queued) (refOf c) c.entry.st
  have img : ((s.takenAs c .queued).mountNoted (refOf c) c.entry.st).img = s.img := img_congr (State.takenAs_boot s c .queued)
  rw [State.mountGeo_congr (State.takenAs_boot s c .queued), show (Cmd.start c (s.take c).clock Phase.queued).entry = c.entry from rfl] at geo
  rw [here] at stn
  generalize (s.takenAs c .queued).mountNoted (refOf c) c.entry.st = w at run geo found stn img
  have cmd : (w.stns[c.entry.st]).mountCmd = some (refOf c) := by rw [stn]
  have still : (w.stns[c.entry.st]).servo.motion = .open_ ∧ (w.stns[c.entry.st]).servo.closing = false := by rw [stn]; exact opened
  have empty : (w.stns[c.entry.st]).ctx = none := by rw [stn]; exact ctx
  refine ⟨fun reach => ?_, fun reach => ?_⟩
  · rw [State.mountGo_threads cmd found still opc rfl empty (by rw [geo, img]; exact reach), geo, img] at run
    refine ⟨_, run, ?_⟩
    unfold State.closeLoops
    rw [State.modStn_stn, State.modStn_stn]
    refine ⟨by rw [show ((w.modCmd (refOf c) fun k => { k with phase := .threading }).stns[c.entry.st]) = w.stns[c.entry.st] from rfl]; exact cmd,
      ⟨_, (State.modCmd_cmd w _ _ (by exact fun _ => rfl)).trans (by rw [found]; rfl), rfl, rfl⟩, rfl, rfl, rfl, rfl⟩
  · rw [State.mountGo_fails cmd found still opc rfl empty (by rw [geo, img]; exact reach)] at run
    obtain ⟨k', left, -, -⟩ := State.dismount_cmd (st := c.entry.st) found (by show c.entry.opc ≠ _; rw [opc]; decide)
      (by show c.entry.opc ≠ _; rw [opc]; decide)
    exact ⟨_, run, by rw [State.finish_stn]; exact (State.dismount_stn w c.entry.st).mountCmd, State.finish_ended left (.st 0xC)⟩

theorem exec_mount_waits (h : s.accepts 0x85 c (mountOwn c cart s))
    (busy : ¬ ((s.stns[c.entry.st]).servo.motion = .open_ ∧ (s.stns[c.entry.st]).servo.closing = false)) :
    ∃ t, exec (.mount c cart) s = .next t ∧ (t.stns[c.entry.st]).mountCmd = some (refOf c) ∧ t.underWay (refOf c) c.entry .queued ∧
        (t.stns[c.entry.st]).servo = (s.stns[c.entry.st]).servo := by
  have run := exec_mount_accepted awake h
  have found := State.mountNoted_cmd (State.takenAs_cmd h .queued) c.entry.st
  have stn := State.mountNoted_stn (s.takenAs c .queued) (refOf c) c.entry.st
  rw [State.takenAs_stn] at stn
  generalize (s.takenAs c .queued).mountNoted (refOf c) c.entry.st = w at run found stn
  have cmd : (w.stns[c.entry.st]).mountCmd = some (refOf c) := by rw [stn]
  rw [State.mountGo_waits cmd found (by rw [stn]; exact busy)] at run
  exact ⟨w, run, cmd, ⟨_, found, rfl, rfl⟩, by rw [stn]⟩

end

/-! ### UNMOUNT -/

/-- An UNMOUNT that opens its station. -/
def State.unmountNoted (s : State) (r : CmdRef) (st : Stn) : State :=
  (s.modStn st fun t => { t with mountCmd := some r, ctx := t.ctx.map VolCtx.report }).modCmd r fun k => { k with phase := .opening }

section
variable {s : State} {r : CmdRef} {k : Cmd}

theorem State.unmountNoted_stn (s : State) (r : CmdRef) {st : Stn} (ctx : (s.stns[st]).ctx = none) :
    (s.unmountNoted r st).stns[st] = { s.stns[st] with mountCmd := some r, ctx := none } := by
  refine (State.modStn_stn s st _).trans ?_
  rw [ctx]
  rfl

theorem State.startUnmount_empty (found : s.cmd? r = some k) (ctx : (s.stns[k.entry.st]).ctx = none) :
    State.startUnmount r s = (s.unmountNoted r k.entry.st).openStation k.entry.st := by
  unfold State.startUnmount
  rw [found]
  dsimp only
  rw [State.modStn_stn, ctx]
  rfl

end

/-- A station whose loops have opened, with its cartridge unthreaded where it is to be unloaded. -/
def State.unthreaded (s : State) (st : Stn) (unload : Bool) : State :=
  (s.openLoops st).modStn st fun t => t.modServo fun v =>
    if unload then { v with threaded := false, aux := v.aux.loadNew (s.img.auxSet st.val 1) } else v

theorem State.unthreaded_stn (s : State) (st : Stn) (unload : Bool) (rests : (s.stns[st]).servo.motion ≠ .hold) :
    ((s.unthreaded st unload).stns[st]).servo.motion = .open_ ∧ ((s.unthreaded st unload).stns[st]).men = true ∧
      ((s.unthreaded st unload).stns[st]).wgate = true ∧
      ((s.unthreaded st unload).stns[st]).servo.threaded = ((s.stns[st]).servo.threaded && !unload) := by
  unfold State.unthreaded
  rw [State.modStn_stn, show (s.openLoops st).stns[st] = _ from State.modStn_stn s st _]
  have motion : (if (s.stns[st]).servo.motion = Motion.hold then Motion.hold else .open_) = .open_ := if_neg rests
  cases unload with
  | true => exact ⟨motion, rfl, rfl, (Bool.and_false _).symm⟩
  | false => exact ⟨motion, rfl, rfl, (Bool.and_true _).symm⟩

/-- A controlled stop leaves the command that its station waits for. -/
theorem State.controlledStop_mountCmd (s : State) (st : Stn) : ((s.controlledStop st).stns[st]).mountCmd = (s.stns[st]).mountCmd := by
  unfold State.controlledStop
  extract_lets t
  split
  · rfl
  · rw [State.modStn_stn, State.rampTo_stn]
    show ((s.runOut st).stns[st]).mountCmd = _
    rw [(State.runOut_writeOnly s st).side]

/-- A station at rest opens for the command that waits. -/
theorem State.openStation_rests {s : State} {st : Stn} {r : CmdRef} {k : Cmd} (cmd : (s.stns[st]).mountCmd = some r) (found : s.cmd? r = some k)
    (rests : ¬ ((s.stns[st]).servo.motion = .moving ∨ (s.stns[st]).servo.motion = .hold)) : ∃ f : Ending,
    f.status = k.status.toNat ∧ f.result = 0 ∧
      s.openStation st = ((s.unthreaded st (k.entry.opc == 0x86 && k.entry.flag 0)).dismount st).finish r f := by
  obtain ⟨moves, holds⟩ := not_or.mp rests
  refine ⟨{ status := k.status.toNat, result := 0, lon := k.lon }, rfl, rfl, ?_⟩
  unfold State.openStation
  extract_lets t
  rw [if_neg moves, if_neg holds, show t.mountCmd = some r from cmd]
  dsimp only
  rw [found]
  rfl

/-- What the UNMOUNT of a station with no volume context comes to. -/
theorem exec_unmount_accepted {s : State} {c : HostCmd} (awake : s.mustWake c.entry.opc.toNat = false)
    (h : s.accepts 0x86 c (unmountOwn c s)) (ctx : (s.stns[c.entry.st]).ctx = none) :
    exec (.unmount c) s = .next (((s.takenAs c .flushing).unmountNoted (refOf c) c.entry.st).openStation c.entry.st) := by
  refine (congrArg Host.Outcome.next ((State.host_run s 0x86 c (unmountOwn c) unblocked
    (fun s => s.launch c (Cmd.start c s.clock .flushing) State.startUnmount) h rfl).trans (State.accepts_launch h awake ..))).trans ?_
  rw [State.startUnmount_empty (State.takenAs_cmd h .flushing) (by rw [State.takenAs_stn]; exact ctx)]
  rfl

theorem exec_unmount_opens {s : State} {c : HostCmd} (awake : s.mustWake c.entry.opc.toNat = false)
    (h : s.accepts 0x86 c (unmountOwn c s)) (ctx : (s.stns[c.entry.st]).ctx = none) : ∃ t, exec (.unmount c) s = .next t ∧
      if (s.stns[c.entry.st]).servo.motion = .moving ∨ (s.stns[c.entry.st]).servo.motion = .hold then
        t.underWay (refOf c) c.entry .opening ∧ (t.stns[c.entry.st]).mountCmd = some (refOf c)
      else t.ended (refOf c) 0 0 ∧ (t.stns[c.entry.st]).mount = none ∧ (t.stns[c.entry.st]).servo.motion = .open_ ∧
        (t.stns[c.entry.st]).men = true ∧ (t.stns[c.entry.st]).wgate = true ∧
        (t.stns[c.entry.st]).servo.threaded = ((s.stns[c.entry.st]).servo.threaded && !c.entry.flag 0) := by
  have run := exec_unmount_accepted awake h ctx
  obtain ⟨k, found, entry, phase, status⟩ : ∃ k, ((s.takenAs c .flushing).unmountNoted (refOf c) c.entry.st).cmd? (refOf c) = some k ∧
      k.entry = c.entry ∧ k.phase = .opening ∧ k.status = 0 :=
    ⟨_, (State.modCmd_cmd _ _ _ (by exact fun _ => rfl)).trans (congrArg _ (State.takenAs_cmd h .flushing)), rfl, rfl, rfl⟩
  have stn := State.unmountNoted_stn (s.takenAs c .flushing) (refOf c) (st := c.entry.st) (by rw [State.takenAs_stn]; exact ctx)
  rw [State.takenAs_stn] at stn
  have opc : c.entry.opc = 0x86 := BitVec.eq_of_toNat_eq (State.accepts_opc h)
  generalize (s.takenAs c .flushing).unmountNoted (refOf c) c.entry.st = w at run found stn
  have cmd : (w.stns[c.entry.st]).mountCmd = some (refOf c) := by rw [stn]
  have motion : (w.stns[c.entry.st]).servo = (s.stns[c.entry.st]).servo := by rw [stn]
  refine ⟨_, run, ?_⟩
  rw [← motion]
  split
  next busy =>
    unfold State.openStation
    extract_lets t
    by_cases moves : t.servo.motion = .moving
    · rw [if_pos moves]
      have only := State.controlledStop_stnOnly w c.entry.st
      refine ⟨State.underWay_congr (by rw [only.ports]) ⟨k, found, entry, phase⟩, ?_⟩
      rw [State.controlledStop_mountCmd]
      exact cmd
    · rw [if_neg moves, if_pos (busy.resolve_left moves)]
      exact ⟨⟨k, found, entry, phase⟩, cmd⟩
  next rests =>
    obtain ⟨f, ending, result, opens⟩ := State.openStation_rests cmd found rests
    rw [entry, show (c.entry.opc == 0x86 && c.entry.flag 0) = c.entry.flag 0 by rw [opc]; rfl] at opens
    obtain ⟨opened, men, wgate, threaded⟩ := State.unthreaded_stn w c.entry.st (c.entry.flag 0) (not_or.mp rests).2
    have same : (w.unthreaded c.entry.st (c.entry.flag 0)).cmd? (refOf c) = some k := found
    obtain ⟨k', left, -, -⟩ := State.dismount_cmd (st := c.entry.st) same (by rw [entry, opc]; decide) (by rw [entry, opc]; decide)
    have gone := State.dismount_stn (w.unthreaded c.entry.st (c.entry.flag 0)) c.entry.st
    have ended := State.finish_ended left f
    rw [ending, result, status] at ended
    rw [opens, State.finish_stn, gone.servo, gone.men, gone.wgate, opened, men, wgate, threaded]
    exact ⟨ended, gone.mount, rfl, rfl, rfl, rfl⟩

/-! ### INIT_VOLUME -/

theorem exec_initVolume_accepted {s : State} {c : HostCmd} (awake : s.mustWake c.entry.opc.toNat = false)
    (h : s.accepts 0x87 c (initOwn c s)) : ∃ t, exec (.initVolume c) s = .next t ∧ t.underWay (refOf c) c.entry .moving ∧
      (t.stns[c.entry.st]).mountCmd = some (refOf c) ∧
      t.ledger = { s.ledger with writing := s.ledger.writing ++ [.newVolume c.entry.st (refOf c)] } := by
  have run : exec (.initVolume c) s = .next (State.startInit (refOf c) (s.takenAs c .moving)) :=
    congrArg Host.Outcome.next ((State.host_run s 0x87 c (initOwn c) unblocked
      (fun s => s.launch c (Cmd.start c s.clock .moving) State.startInit) h rfl).trans (State.accepts_launch h awake ..))
  have found := State.takenAs_cmd h .moving
  have ledger := (State.takenAs_portsOnly s c .moving).ledger
  have volume : (s.takenAs c .moving).noVolume = false := by
    have own := h.2.2.2.2
    unfold initOwn at own
    dsimp only at own
    split at own
    · cases own
    split at own
    · cases own
    split at own
    · cases own
    split at own
    · cases own
    next free =>
      rw [State.takenAs_portsOnly s c .moving]
      exact Bool.eq_false_iff.mpr free
  generalize s.takenAs c .moving = u at run found ledger volume
  have goes : State.startInit (refOf c) u = ((u.modCmd (refOf c) fun k => { k with phase := .moving }).modStn c.entry.st fun t =>
      { t with mountCmd := some (refOf c) }).drawVolume c.entry.st (refOf c) := by
    unfold State.startInit
    rw [found]
    dsimp only
    rw [volume]
    rfl
  rw [goes] at run
  refine ⟨_, run, ⟨_, (State.modCmd_cmd u (refOf c) (fun k => { k with phase := .moving }) fun _ => rfl).trans (by rw [found]; rfl), rfl, rfl⟩, ?_, ?_⟩
  · exact (congrArg Station.mountCmd (State.modStn_stn (u.modCmd (refOf c) fun k => { k with phase := .moving }) c.entry.st _)).trans rfl
  · rw [← ledger]
    rfl

/-! ### A station that does not open -/

theorem exec_mountOpenTimeout_waits {s : State} {st : Stn} {r : CmdRef} {k : Cmd} (cmd : (s.stns[st]).mountCmd = some r)
    (found : s.cmd? r = some k) (opc : k.entry.opc = 0x85) (queued : k.phase = .queued) :
    ∃ t, exec (.mountOpenTimeout st) s = .next t ∧ t.ended r 0x0C 0 ∧ (t.stns[st]).mountCmd = none := by
  have run : exec (.mountOpenTimeout st) s = .next ((s.finish r (.st 0xC)).modStn st fun t => { t with mountCmd := none }) := by
    show execMountOpenTimeout st s = _
    unfold execMountOpenTimeout
    rw [cmd]
    dsimp only
    rw [found, if_pos (by rw [Option.any_some, opc, queued]; rfl)]
  exact ⟨_, run, State.ended_congr (s := s.finish r (.st 0xC)) rfl (State.finish_ended found (.st 0xC)),
    (congrArg Station.mountCmd (State.modStn_stn ..)).trans rfl⟩

/-- Settles O36: each command by what it finds at its station. -/
theorem mounting : Obligations.Mounting := by
  refine fun s c awake => ⟨fun cart h => ?_, exec_unmount_opens awake, exec_initVolume_accepted awake, fun st r k => exec_mountOpenTimeout_waits⟩
  split
  next opened => exact fun ctx => exec_mount_open awake h opened ctx
  next busy => exact exec_mount_waits awake h busy

end Sys2Proof.Machine
end

section
/-!
PROOFS of an APPEND that is taken (10, R313, R337, R338, R343, R468).
-/
namespace Sys2Proof.Machine

/-! ### The intake that starts -/

section
variable {s : State} {r : CmdRef} {k : Cmd}

/-- An APPEND that starts waits for a buffer, or for the hash lane where it brings no bytes. -/
theorem State.startAppend_cmd (found : s.cmd? r = some k) : (State.startAppend r s).cmd? r =
    some { k with phase := if k.entry.dlen = 0 then .moving else .needBuffer } := by
  have phase : ∀ ph, (s.modCmd r fun k => { k with phase := ph }).cmd? r = some { k with phase := ph } := fun ph =>
    (State.modCmd_cmd s r (fun k => { k with phase := ph }) fun _ => rfl).trans (by rw [found]; rfl)
  unfold State.startAppend
  rw [found]
  dsimp only
  split
  · exact (State.cmd_congr r rfl).trans (phase .moving)
  · exact phase .needBuffer

theorem State.startAppend_rest (r : CmdRef) (s : State) : (State.startAppend r s).stns = s.stns ∧ (State.startAppend r s).locks = s.locks := by
  unfold State.startAppend
  split
  · exact ⟨rfl, rfl⟩
  · split <;> exact ⟨rfl, rfl⟩

end

/-! ### The bytes that its record takes -/

/-- A record that takes the bytes of an APPEND. -/
def Rec.extended (c : HostCmd) (r : Rec) : Rec :=
  { r with
    taken := r.taken + c.entry.dlen.toNat
    cuts := if c.entry.flag apBlkEnd && c.entry.dlen.toNat > 0 then r.cuts ++ [r.taken + c.entry.dlen.toNat] else r.cuts
    ended := c.entry.flag apEnd, endFrom := if c.entry.flag apEnd then r.taken else r.endFrom }

/-- The write entry of the interlocking of an APPEND. -/
def appendLock (c : HostCmd) (lon : Nat) : Lock := ⟨true, c.entry.st, c.entry.mnt, lon, lon, refOf c⟩

/-- A package in which an APPEND has extended its record and taken its lock. -/
def State.extended (s : State) (c : HostCmd) (lon : Nat) : State :=
  let t := s.modRec c.entry.st lon (Rec.extended c)
  let u := if c.entry.flag apEnd then t.dropKey c.port c.qid fun k => k.stn == c.entry.st && k.mnt == c.entry.mnt && k.lon == lon else t
  { u with locks := u.locks ++ [appendLock c lon] }

theorem State.dropKey_qp {s : State} {p : Port} {q : Nat} {x : Qp} (h : (s.ports[p]).qp? q = some x) (f : RecKey → Bool) :
    ((s.dropKey p q f).ports[p]).qp? q = some { x with keys := x.keys.filter fun k => !f k } :=
  (State.modQp_qp s p q (fun x => { x with keys := x.keys.filter fun k => !f k }) fun _ => rfl).trans (by rw [h]; rfl)

section
variable (s : State) (c : HostCmd) (lon : Nat)

theorem State.extended_stn : ((s.extended c lon).stns[c.entry.st]).ctx = ((s.stns[c.entry.st]).ctx).map fun v => v.modRec lon (Rec.extended c) := by
  unfold State.extended
  extract_lets t u
  have ctx : (t.stns[c.entry.st]).ctx = ((s.stns[c.entry.st]).ctx).map fun v => v.modRec lon (Rec.extended c) :=
    congrArg Station.ctx (State.modStn_stn s c.entry.st _)
  rw [← ctx]
  show (u.stns[c.entry.st]).ctx = _
  simp only [u]
  split <;> rfl

theorem State.extended_rest : (s.extended c lon).locks = s.locks ++ [appendLock c lon] ∧ (s.extended c lon).power = s.power := by
  unfold State.extended
  extract_lets t u
  have same : u.locks = s.locks ∧ u.power = s.power := by
    simp only [u]
    split <;> exact ⟨rfl, rfl⟩
  exact ⟨congrArg (· ++ [appendLock c lon]) same.1, same.2⟩

theorem State.extended_qp {s : State} {c : HostCmd} {x : Qp} (h : (s.ports[c.port]).qp? c.qid = some x) :
    ∃ keys, ((s.extended c lon).ports[c.port]).qp? c.qid = some { x with keys := keys } := by
  unfold State.extended
  extract_lets t u
  show ∃ keys, ((u.ports[c.port]).qp? c.qid) = _
  simp only [u]
  split
  · exact ⟨_, State.dropKey_qp (s := t) h _⟩
  · exact ⟨x.keys, h⟩

end

/-- The command of an APPEND that is taken. -/
def appendCmd (c : HostCmd) (at_ : Nat) (lon taken : Nat) : Cmd :=
  { Cmd.start c at_ .needBuffer with lon := lon, count := taken, bumped := c.entry.flag apFirst }

/-- What an APPEND leaves that is taken for a record. -/
theorem State.extended_launch {s : State} {c : HostCmd} {lon : Nat} {x : Qp} (at_ taken : Nat) (h : (s.ports[c.port]).qp? c.qid = some x)
    (free : x.tagUsed c.entry.tag = false) (awake : s.mustWake c.entry.opc.toNat = false) :
    ∃ t k, (s.extended c lon).launch c (appendCmd c at_ lon taken) State.startAppend = t ∧ t.cmd? (refOf c) = some k ∧ k.lon = lon ∧
      k.count = taken ∧ k.phase = (if c.entry.dlen = 0 then .moving else .needBuffer) ∧ t.locks = s.locks ++ [appendLock c lon] ∧
      (t.stns[c.entry.st]).ctx = ((s.stns[c.entry.st]).ctx).map fun v => v.modRec lon (Rec.extended c) := by
  obtain ⟨keys, queue⟩ := State.extended_qp lon h
  obtain ⟨locks, power⟩ := State.extended_rest s c lon
  have found := State.addCmd_cmd _ c (appendCmd c at_ lon taken) _ queue free rfl
  obtain ⟨stns, same⟩ := State.startAppend_rest (refOf c) ((s.extended c lon).addCmd c (appendCmd c at_ lon taken))
  refine ⟨_, _, State.launch_goes ((State.mustWake_congr power _).trans awake), State.startAppend_cmd found, rfl, rfl, rfl, same.trans locks, ?_⟩
  rw [stns]
  exact State.extended_stn s c lon

/-! ### The two cases -/

theorem VolCtx.rec_modRec (v : VolCtx) (lon : Nat) (f : Rec → Rec) (hf : ∀ r, (f r).lon = r.lon) :
    (v.modRec lon f).rec? lon = (v.rec? lon).map f := by
  unfold VolCtx.rec? VolCtx.modRec
  rw [find_map_key _ _ _ (by intro x; by_cases h : x.lon = lon <;> simp [h, hf])]
  cases h : v.recs.find? fun r => r.lon == lon with
  | none => rfl
  | some r =>
    have here : r.lon = lon := eq_of_beq (List.find?_some (p := fun r : Rec => r.lon == lon) h)
    rw [Option.map_some, Option.map_some, if_pos here]

section
variable {u : State} {c : HostCmd} {v : VolCtx}

/-- An APPEND that goes on with a record. -/
theorem State.runAppend_continues {r : Rec} (ctx : (u.stns[c.entry.st]).ctx = some v) (first : c.entry.flag apFirst = false)
    (target : u.appendRec c = some r) (alive : r.abandon = none) (found : v.rec? r.lon = some r)
    (fits : breaches r.declared (r.taken + c.entry.dlen.toNat) (c.entry.flag apEnd) = false) :
    State.runAppend c u = (u.extended c r.lon).launch c (appendCmd c u.clock r.lon r.taken) State.startAppend := by
  have lon : u.appendLon c = r.lon := by unfold State.appendLon; rw [first, target]; rfl
  have gone : u.appendGone c = none := by
    unfold State.appendGone
    rw [first, target, if_neg Bool.false_ne_true, Option.filter_some, alive]
    rfl
  unfold State.runAppend
  dsimp only
  rw [gone, lon, first]
  dsimp only
  rw [if_neg Bool.false_ne_true, show u.ctxOf c.entry = some v from ctx, Option.bind_some, found]
  dsimp only
  rw [fits, if_neg Bool.false_ne_true]
  unfold appendCmd State.extended
  rw [first]
  rfl

/-- The record that a FIRST starts. -/
def startedRec (c : HostCmd) (lon : Nat) : Rec :=
  Rec.fresh lon c.port c.qid (if c.entry.flag apRkey then some (apKey c.entry) else none) (if c.entry.flag apDecl then some (apSize c.entry) else none)

/-- The package once a FIRST has started its record. -/
def State.started (u : State) (c : HostCmd) (lon : Nat) : State :=
  let s := u.modStn c.entry.st fun t => t.modCtx fun v => { v with lon := v.lon + 1, recs := v.recs ++ [startedRec c lon] }
  if c.entry.flag apRkey && !c.entry.flag apEnd then
    s.modQp c.port c.qid fun x => { x with keys := x.keys ++ [⟨apKey c.entry, c.entry.st, c.entry.mnt, lon⟩] }
  else s

theorem State.started_ctx (ctx : (u.stns[c.entry.st]).ctx = some v) (lon : Nat) :
    ((u.started c lon).stns[c.entry.st]).ctx = some { v with lon := v.lon + 1, recs := v.recs ++ [startedRec c lon] } := by
  have here : ((u.modStn c.entry.st fun t => t.modCtx fun v => { v with lon := v.lon + 1, recs := v.recs ++ [startedRec c lon] }).stns[c.entry.st]).ctx =
      some { v with lon := v.lon + 1, recs := v.recs ++ [startedRec c lon] } :=
    (congrArg Station.ctx (State.modStn_stn u c.entry.st _)).trans (by unfold Station.modCtx; rw [ctx]; rfl)
  unfold State.started
  extract_lets s
  split
  · exact here
  · exact here

theorem State.started_rest (u : State) (c : HostCmd) (lon : Nat) :
    (u.started c lon).locks = u.locks ∧ (u.started c lon).power = u.power ∧ (u.started c lon).clock = u.clock := by
  unfold State.started
  extract_lets s
  split <;> exact ⟨rfl, rfl, rfl⟩

theorem State.started_qp {x : Qp} (h : (u.ports[c.port]).qp? c.qid = some x) (lon : Nat) :
    ∃ keys, ((u.started c lon).ports[c.port]).qp? c.qid = some { x with keys := keys } := by
  unfold State.started
  extract_lets s
  split
  · exact ⟨_, (State.modQp_qp s _ _ _ (by exact fun _ => rfl)).trans (by rw [show (s.ports[c.port]).qp? c.qid = some x from h]; rfl)⟩
  · exact ⟨x.keys, h⟩

/-- An APPEND that starts a record. -/
theorem State.runAppend_starts (ctx : (u.stns[c.entry.st]).ctx = some v) (first : c.entry.flag apFirst = true) (absent : v.rec? v.lon = none)
    (fits : breaches (if c.entry.flag apDecl then some (apSize c.entry) else none) c.entry.dlen.toNat (c.entry.flag apEnd) = false) :
    State.runAppend c u = ((u.started c v.lon).extended c v.lon).launch c (appendCmd c u.clock v.lon 0) State.startAppend ∧
      ({ v with lon := v.lon + 1, recs := v.recs ++ [startedRec c v.lon] } : VolCtx).rec? v.lon = some (startedRec c v.lon) := by
  have lon : u.appendLon c = v.lon := by
    unfold State.appendLon
    rw [first, if_pos rfl, show u.ctxOf c.entry = some v from ctx]
  have gone : u.appendGone c = none := by unfold State.appendGone; rw [first]; rfl
  have started := State.started_ctx ctx v.lon
  have found : ({ v with lon := v.lon + 1, recs := v.recs ++ [startedRec c v.lon] } : VolCtx).rec? v.lon = some (startedRec c v.lon) := by
    unfold VolCtx.rec? at absent ⊢
    rw [List.find?_append, absent]
    have here : ((startedRec c v.lon).lon == v.lon) = true := beq_self_eq_true v.lon
    unfold List.find?
    rw [here]
    rfl
  refine ⟨?_, found⟩
  have fit : breaches (startedRec c v.lon).declared ((startedRec c v.lon).taken + c.entry.dlen.toNat) (c.entry.flag apEnd) = false := by
    rw [show (startedRec c v.lon).taken = 0 from rfl, Nat.zero_add]
    exact fits
  unfold State.runAppend
  dsimp only
  rw [gone, lon, first]
  dsimp only
  rw [if_pos rfl]
  show (match ((u.started c v.lon).ctxOf c.entry).bind (fun w => w.rec? v.lon) with | none => _ | some r => _) = _
  rw [show (u.started c v.lon).ctxOf c.entry = _ from started, Option.bind_some, found]
  dsimp only
  rw [fit, if_neg Bool.false_ne_true]
  unfold appendCmd State.extended
  rw [first]
  rfl

end

/-! ### The row -/

section
variable {s : State} {c : HostCmd} (h : s.accepts 0x01 c (appendOwn c s))
include h

/-- An accepted APPEND below the limit of R272. -/
theorem exec_append_accepted (free : appendBlocked c s = none) (below : s.atLonLimit c = false) : exec (.append c) s = .next (State.runAppend c (s.take c)) := by
  have gap : s.firstBecomesGap c = false := by
    obtain ⟨-, -, checks, fields, own⟩ := h
    have list : listOk c = true := by
      unfold fieldsOk at fields
      simp only [Bool.and_eq_true] at fields
      exact fields.2
    unfold State.firstBecomesGap
    rw [checks, own, list]
    simp
  rw [exec_append_of_below below, gap]
  exact congrArg Host.Outcome.next (State.host_run s 0x01 c (appendOwn c) (appendBlocked c) (State.runAppend c) h free)

/-- The queue of an accepted APPEND, once the entry is taken. -/
theorem State.accepts_free : ∃ x, ((s.take c).ports[c.port]).qp? c.qid = some x ∧ x.tagUsed c.entry.tag = false := by
  obtain ⟨x, hx, tag, -⟩ := State.accepts_queue h
  exact ⟨{ x with sqHead := (x.sqHead + 1) % x.depth, held := none }, (State.take_qp s c).trans (by rw [hx]; rfl), tag⟩

end

theorem State.take_appendRec (s : State) (c : HostCmd) : (s.take c).appendRec c = s.appendRec c := by
  have key : ∀ k, (s.take c).keyOf c.port c.qid k = s.keyOf c.port c.qid k := fun k => by
    unfold State.keyOf
    rw [State.take_qp]
    cases (s.ports[c.port]).qp? c.qid <;> rfl
  have ctx : (s.take c).ctxOf c.entry = s.ctxOf c.entry := by
    unfold State.ctxOf
    rw [State.take_portsOnly s c]
  unfold State.appendRec
  dsimp only
  rw [ctx, key]

/-- Settles O37: a continuation goes on with its record, a FIRST with the one that it starts, and the limit of R272 comes before both. -/
theorem appendTaken : Obligations.AppendTaken := by
  intro s c v h free awake ctx
  obtain ⟨x, queue, unused⟩ := State.accepts_free h
  have portsOnly := State.take_portsOnly s c
  have locks : (s.take c).locks = s.locks := by rw [portsOnly]
  have taken : ((s.take c).stns[c.entry.st]).ctx = some v := by rw [portsOnly]; exact ctx
  have awakes : (s.take c).mustWake c.entry.opc.toNat = false := (State.taken_mustWake h).trans awake
  refine ⟨fun r first target alive found fits => ?_, fun first below absent fits => ?_, fun first limit => ?_⟩
  · have below : s.atLonLimit c = false := Bool.eq_false_iff.mpr fun limit => by
      have starts := (State.startsRecord_of_atLonLimit limit).1
      unfold State.startsRecord at starts
      rw [first] at starts
      simp at starts
    have run := exec_append_accepted h free below
    rw [State.runAppend_continues taken first ((State.take_appendRec s c).trans target) alive found fits] at run
    obtain ⟨t, k, ht, cmd, lon, count, phase, lock, after⟩ := State.extended_launch (lon := r.lon) (s.take c).clock r.taken queue unused awakes
    rw [ht] at run
    rw [taken] at after
    rw [locks] at lock
    exact ⟨t, _, r.extended c, k, run, after, rfl, (v.rec_modRec r.lon (Rec.extended c) (fun _ => rfl)).trans (by rw [found]; rfl), rfl, rfl, rfl, cmd, lon, count,
      phase, lock⟩
  · have run := exec_append_accepted h free below
    obtain ⟨starts, found⟩ := State.runAppend_starts taken first absent fits
    rw [starts] at run
    obtain ⟨locks', power, -⟩ := State.started_rest (s.take c) c v.lon
    obtain ⟨keys, started⟩ := State.started_qp queue v.lon
    obtain ⟨t, k, ht, cmd, lon, count, phase, lock, after⟩ := State.extended_launch (lon := v.lon) (s.take c).clock 0 started unused
      ((State.mustWake_congr power _).trans awakes)
    rw [ht] at run
    rw [State.started_ctx taken] at after
    rw [locks', locks] at lock
    exact ⟨t, _, (startedRec c v.lon).extended c, k, run, after, rfl, (VolCtx.rec_modRec _ v.lon (Rec.extended c) (fun _ => rfl)).trans (by rw [found]; rfl),
      Nat.zero_add _, rfl, rfl, rfl, rfl, cmd, lon, count, phase, lock⟩
  · exact congrArg Host.Outcome.next (if_pos limit)

end Sys2Proof.Machine
end

section
/-!
PROOFS of READ, LOCATE and VERIFY of a volume mounted for reading (10, R343, R346).
-/
namespace Sys2Proof.Machine

/-! ### The tape is asked for -/

theorem State.closeLoops_stnOnly (s : State) (st : Stn) : StnOnly st s (s.closeLoops st) := State.modStn_stnOnly ..

/-- The request is noted; the loops may close, and nothing else of the station changes that a seek rests on. -/
theorem State.wantTape_stn (s : State) (st : Stn) : StnOnly st s (s.wantTape st) ∧ ((s.wantTape st).stns[st]).speed.wantSeek = true ∧
    ((s.wantTape st).stns[st]).speed.busCap = (s.stns[st]).speed.busCap ∧ ((s.wantTape st).stns[st]).servo.motion = (s.stns[st]).servo.motion ∧
    ((s.wantTape st).stns[st]).readSide = (s.stns[st]).readSide ∧ ((s.wantTape st).stns[st]).ctx = (s.stns[st]).ctx := by
  unfold State.wantTape
  extract_lets s1 t
  have noted : s1.stns[st] = (s.stns[st]).modSpeed fun x => { x with wantSeek := true } := State.modStn_stn ..
  have only : StnOnly st s s1 := State.modStn_stnOnly ..
  split
  · refine ⟨only.trans (State.closeLoops_stnOnly ..), ?_⟩
    rw [show (s1.closeLoops st).stns[st] = _ from State.modStn_stn s1 st _, noted]
    exact ⟨rfl, rfl, rfl, rfl, rfl⟩
  · rw [noted]
    exact ⟨only, rfl, rfl, rfl, rfl, rfl⟩

theorem State.aim_stnOnly (s : State) (st : Stn) (wrap : Nat) (ofs : Int) : StnOnly st s (s.aim st wrap ofs) := State.modStn_stnOnly ..

theorem State.aim_motion (s : State) (st : Stn) (wrap : Nat) (ofs : Int) :
    ((s.aim st wrap ofs).stns[st]).servo.motion = (s.stns[st]).servo.motion := by
  unfold State.aim
  rw [State.modStn_stn]
  unfold Station.modServo Servo.leaveBand
  dsimp only
  split <;> rfl

/-- A station at rest turns to the reader that asks for its tape. -/
theorem State.serveSeek_rests {s : State} {st : Stn} (wants : (s.stns[st]).speed.wantSeek = true) (rests : (s.stns[st]).servo.motion = .tensioned)
    (place : (s.stns[st]).readSide.seekTo = none) : StnOnly st s (s.serveSeek st) ∧ ((s.serveSeek st).stns[st]).readSide.active = true ∧
      ((s.serveSeek st).stns[st]).servo.motion = .moving ∧ ((s.serveSeek st).stns[st]).servo.ramp = some (.locate, ladder (s.ceiling st)) := by
  unfold State.serveSeek
  extract_lets t wrap hi rev s1
  rw [if_neg (by rw [show t.speed.wantSeek = true from wants, show t.servo.motion = .tensioned from rests]; simp),
    show t.readSide.seekTo = none from place]
  have motion : (s1.stns[st]).servo.motion = .tensioned := (State.aim_motion ..).trans rests
  refine ⟨((State.aim_stnOnly ..).trans (State.rampTo_stnOnly ..)).trans (State.modStn_stnOnly ..), ?_⟩
  rw [State.modStn_stn, State.rampTo_stn, show (s1.stns[st]).modServo (fun v => v.rampTo .locate (ladder hi)) = { s1.stns[st] with
    servo := { (s1.stns[st]).servo with ramp := some (.locate, ladder hi), vRef := (s1.stns[st]).servo.vHat, motion := .moving, settled := false, calm := 0 } }
    from by unfold Station.modServo; beta_reduce; rw [Servo.rampTo_of_closed (.inr motion)]]
  exact ⟨rfl, rfl, rfl⟩

theorem State.serveSeek_moves {s : State} {st : Stn} (busy : (s.stns[st]).servo.motion ≠ .tensioned) : s.serveSeek st = s := by
  unfold State.serveSeek
  extract_lets t wrap hi rev s1
  exact if_pos (.inr busy)

theorem State.ceiling_congr {s t : State} {st : Stn} (thermal : t.thermal = s.thermal) (ctx : (t.stns[st]).ctx = (s.stns[st]).ctx)
    (cap : (t.stns[st]).speed.busCap = (s.stns[st]).speed.busCap) : t.ceiling st = s.ceiling st := by
  unfold State.ceiling
  dsimp only
  rw [thermal, ctx, cap]

/-! ### A reader that starts -/

/-- The command of a reader moves, and how many records it reads is noted. -/
def State.readerMoves (s : State) (r : CmdRef) : State := s.modCmd r fun k => { k with phase := .moving }

def State.readerCounts (s : State) (r : CmdRef) : State :=
  s.modCmd r fun k => { k with count := if k.entry.opc = 6 && !k.entry.flag 0 then k.entry.cd 8 8 else 0 }

/-- A reader of a volume mounted for reading reads from tape. -/
theorem State.goReader_tape {s : State} {r : CmdRef} {k : Cmd} {m : Mount} {st : Stn} (found : s.cmd? r = some k) (here : k.entry.st = st)
    (mount : (s.stns[st]).mount = some m) (mode : m.mode = .read) :
    ∃ u k', s.goReader r = u.wantTape st ∧ PortsOnly s u ∧ u.cmd? r = some k' ∧ k'.entry = k.entry ∧ k'.phase = .moving := by
  subst here
  have noAppend : ((s.stns[k.entry.st]).mount.any fun m => m.mode == .append) = false := by
    rw [mount, Option.any_some, mode]
    rfl
  have forms : s.goReader r = (s.readerMoves r).wantTape k.entry.st ∨ s.goReader r = ((s.readerMoves r).readerCounts r).wantTape k.entry.st := by
    unfold State.goReader
    rw [found]
    dsimp only
    rw [noAppend]
    split
    · split
      · exact .inl rfl
      · rw [if_neg (fun h => Bool.false_ne_true h.2)]
        exact .inr rfl
    · exact .inr rfl
  have moves : (s.readerMoves r).cmd? r = some { k with phase := .moving } :=
    (State.modCmd_cmd s r (fun k => { k with phase := .moving }) fun _ => rfl).trans (by rw [found]; rfl)
  obtain form | form := forms
  · exact ⟨_, _, form, State.modQp_portsOnly .., moves, rfl, rfl⟩
  · have counts : ∃ k', ((s.readerMoves r).readerCounts r).cmd? r = some k' ∧ k'.entry = k.entry ∧ k'.phase = .moving := by
      unfold State.readerCounts
      rw [State.modCmd_cmd _ _ _ (by exact fun _ => rfl), moves]
      exact ⟨_, rfl, rfl, rfl⟩
    obtain ⟨k', asks, entry, phase⟩ := counts
    exact ⟨_, k', form, (State.modQp_portsOnly ..).trans (State.modQp_portsOnly ..), asks, entry, phase⟩

/-- A reader with nothing to flush first asks for the tape, and is served. -/
theorem State.startReader_tape {s : State} {r : CmdRef} {k : Cmd} {v : VolCtx} {st : Stn} (found : s.cmd? r = some k) (here : k.entry.st = st)
    (ctx : (s.stns[st]).ctx = some v) (recs : v.recs = []) : State.startReader r s = (s.goReader r).serveSeek st := by
  subst here
  unfold State.startReader
  rw [found]
  dsimp only
  rw [ctx]
  dsimp only
  rw [recs]
  exact if_pos (.inl rfl)

/-- The state in which an accepted reader has taken its lock. -/
def State.readerTaken (s : State) (c : HostCmd) : State :=
  ({ s.take c with locks := (s.take c).locks ++ [readLock c] }).addCmd c (Cmd.start c (s.take c).clock .moving)

section
variable {i : Instr} {opc : Nat} {c : HostCmd} {s : State}
  (which : i = .read c ∧ opc = 0x02 ∨ i = .locate c ∧ opc = 0x03 ∨ i = .verify c ∧ opc = 0x06)
  (h : s.accepts opc c (readerOwn c s)) (free : readerBlocked c s = none) (awake : s.mustWake opc = false)
include which h free awake

theorem exec_reader_accepted : exec i s = .next (State.startReader (refOf c) (s.readerTaken c)) := by
  have go : State.runReader c (s.take c) = State.startReader (refOf c) (s.readerTaken c) :=
    State.launch_goes (u := { s.take c with locks := (s.take c).locks ++ [readLock c] }) (go := State.startReader)
      ((State.taken_mustWake h).trans awake)
  obtain ⟨rfl, rfl⟩ | ⟨rfl, rfl⟩ | ⟨rfl, rfl⟩ := which
  · exact congrArg Host.Outcome.next ((State.host_run s _ c (readerOwn c) (readerBlocked c) (State.runReader c) h free).trans go)
  · exact congrArg Host.Outcome.next ((State.host_run s _ c (readerOwn c) (readerBlocked c) (State.runReader c) h free).trans go)
  · exact congrArg Host.Outcome.next ((State.host_run s _ c (readerOwn c) (readerBlocked c) (State.runReader c) h free).trans go)

end

/-- Settles O38: the lock is taken with the entry, and the request for the tape is served where the station is at rest. -/
theorem readersSeek : Obligations.ReadersSeek := by
  intro i opc c s m v which h free awake mount mode ctx recs place
  have run := exec_reader_accepted which h free awake
  have found : (s.readerTaken c).cmd? (refOf c) = some (Cmd.start c (s.take c).clock .moving) := State.taken_cmd s opc c _ _ h rfl
  have stns : (s.readerTaken c).stns = s.stns := (congrArg State.stns (State.take_portsOnly s c)).trans rfl
  have locks : (s.readerTaken c).locks = s.locks ++ [readLock c] :=
    congrArg (· ++ [readLock c]) ((congrArg State.locks (State.take_portsOnly s c)).trans rfl)
  have thermal : (s.readerTaken c).thermal = s.thermal := (congrArg State.thermal (State.take_portsOnly s c)).trans rfl
  generalize s.readerTaken c = w at run found stns locks thermal
  rw [State.startReader_tape (v := v) found (st := c.entry.st) rfl (by rw [stns]; exact ctx) recs] at run
  obtain ⟨u, k', goes, portsOnly, asks, entry, phase⟩ := State.goReader_tape (m := m) found (st := c.entry.st) rfl (by rw [stns]; exact mount) mode
  have same : u.stns = s.stns := (congrArg State.stns portsOnly).trans stns
  rw [goes] at run
  obtain ⟨only, wants, cap, motion, side, context⟩ := State.wantTape_stn u c.entry.st
  rw [same] at cap motion side context
  refine ⟨_, run, ?_⟩
  have uLocks : u.locks = s.locks ++ [readLock c] := (congrArg State.locks portsOnly).trans locks
  have uThermal : u.thermal = s.thermal := (congrArg State.thermal portsOnly).trans thermal
  have under : u.underWay (refOf c) c.entry .moving := ⟨k', asks, entry, phase⟩
  split
  next rests =>
    obtain ⟨served, active, moves, ramp⟩ := State.serveSeek_rests wants (motion.trans rests) (by rw [side]; exact place)
    have both := only.trans served
    refine ⟨by rw [both.rest]; exact uLocks, State.underWay_congr (by rw [both.ports]) under, active, moves, ?_⟩
    rw [ramp, State.ceiling_congr (s := s) (by rw [only.thermal, uThermal]) context cap]
  next busy =>
    rw [State.serveSeek_moves (by rw [motion]; exact busy)]
    exact ⟨by rw [only.rest]; exact uLocks, State.underWay_congr (by rw [only.ports]) under, wants⟩

end Sys2Proof.Machine
end

section
/-!
PROOFS of FLUSH and ORDER_FENCE (10, R342, R345; 04, R130, R139).
-/
namespace Sys2Proof.Machine

/-! ### The work of a FLUSH while its data is packed -/

/-- What a FLUSH is for, and what it covers. -/
def FlushJob.work (j : FlushJob) : FlushFor × List (Nat × Nat) := (j.why, j.cover)

/-- The FLUSH work of a write side. -/
def Write.works (w : Write) : List (FlushFor × List (Nat × Nat)) := w.flushes.map FlushJob.work

theorem map_modFirst {α β : Type} (g : α → β) (p : α → Bool) (f : α → α) (h : ∀ x, g (f x) = g x) (l : List α) :
    (modFirst p f l).map g = l.map g := by
  induction l with
  | nil => rfl
  | cons x l ih =>
    unfold modFirst
    split
    · rw [List.map_cons, List.map_cons, h]
    · rw [List.map_cons, List.map_cons, ih]

theorem packRec_works {w w1 : Write} {r r1 : Rec} {cover : Option Nat} (h : packRec w r cover = some (w1, r1)) : w1.works = w.works := by
  unfold packRec at h
  extract_lets has grow full rd room n whole total bytes segs at h
  split at h
  · split at h
    · cases h; rfl
    · cases h
  split at h
  · cases h
  · split at h
    · cases h
    · cases h; rfl

theorem packInc_works {w w1 : Write} {l l1 : List Rec} (h : packInc w l = some (w1, l1)) : w1.works = w.works := by
  induction l generalizing l1 with
  | nil => cases h
  | cons r rest ih =>
    unfold packInc at h
    split at h
    next w2 r2 hp =>
      cases h
      split at hp
      · exact packRec_works hp
      · cases hp
    · obtain ⟨⟨w3, l3⟩, hx, e⟩ := Option.map_eq_some_iff.mp h
      cases e
      exact ih hx

theorem packFirst_works {w w1 : Write} {cover : Option (List (Nat × Nat))} {l l1 : List Rec} (h : packFirst w cover l = some (w1, l1)) :
    w1.works = w.works := by
  induction l generalizing l1 with
  | nil => cases h
  | cons r rest ih =>
    unfold packFirst at h
    extract_lets c at h
    split at h
    next w2 r2 hp =>
      cases h
      obtain ⟨x, -, hx⟩ := Option.bind_eq_some_iff.mp hp
      exact packRec_works hx
    · obtain ⟨⟨w3, l3⟩, hx, e⟩ := Option.map_eq_some_iff.mp h
      cases e
      exact ih hx

theorem Write.opened_works {w w1 : Write} (h : w.opened = some w1) : w1.works = w.works := by
  unfold Write.opened at h
  split at h <;> cases h <;> rfl

theorem Write.openedOr_works (w : Write) : (w.opened.getD w).works = w.works := by
  cases h : w.opened with
  | none => rfl
  | some x => exact Write.opened_works h

/-- The gathering that a FLUSH closes is noted with its work. -/
theorem Write.closed_works (w : Write) (b : Bool) (n : Nat) :
    (if b then modFirst (fun j => !j.closed) (fun j => { j with closed := true, lastG := n }) w.flushes else w.flushes).map FlushJob.work = w.works := by
  split
  · exact map_modFirst FlushJob.work _ (fun j => { j with closed := true, lastG := n }) (fun _ => rfl) _
  · rfl

theorem State.closeGath_works (s : State) (st : Stn) (forFlush ends : Bool) :
    ((s.closeGath st forFlush ends).stns[st]).write.works = (s.stns[st]).write.works := by
  unfold State.closeGath
  extract_lets t
  split
  · rfl
  next v hv =>
    refine (congrArg (fun x : Station => x.write.works) (State.modStn_stn s st _)).trans ?_
    exact (Write.closed_works ((s.stns[st]).write.opened.getD (s.stns[st]).write) forFlush v.gnum).trans (Write.openedOr_works _)

theorem State.assembleOnce_works {s t : State} {st : Stn} (h : s.assembleOnce st = some t) :
    (t.stns[st]).write.works = (s.stns[st]).write.works := by
  unfold State.assembleOnce at h
  extract_lets u at h
  split at h
  · cases h
  next v hv =>
    split at h
    · cases h
    next w hw =>
      have open_ : w.works = u.write.works := by
        split at hw
        · exact Write.opened_works hw
        · cases hw
      extract_lets job full inc ends at h
      clear_value job
      split at h
      next w1 recs packed =>
        cases h
        refine (congrArg (fun x : Station => x.write.works) (State.modStn_stn s st _)).trans (Eq.trans ?_ open_)
        cases inc : packInc w v.recs with
        | some x =>
          rw [inc] at packed
          cases packed
          exact packInc_works inc
        | none =>
          rw [inc] at packed
          have packed : (if full then none else packFirst w (job.map (·.cover)) v.recs) = some (w1, recs) := packed
          split at packed
          · cases packed
          · exact packFirst_works packed
      split at h
      · cases h
      split at h
      · cases h; exact State.closeGath_works ..
      split at h
      · cases h; exact State.closeGath_works ..
      split at h
      · split at h
        · cases h; exact State.closeGath_works ..
        · cases h
      · split at h
        · cases h; exact State.closeGath_works ..
        split at h
        · cases h; exact State.closeGath_works ..
        · cases h

theorem State.assemble_works (s : State) (st : Stn) (n : Nat) : ((s.assemble st n).stns[st]).write.works = (s.stns[st]).write.works := by
  induction n generalizing s with
  | zero => rfl
  | succ n ih =>
    generalize ht : s.assemble st (n + 1) = t
    unfold State.assemble at ht
    split at ht
    next s1 h =>
      rw [← ht]
      exact (ih s1).trans (State.assembleOnce_works h)
    · rw [← ht]

theorem State.numberLabels_works (s : State) (st : Stn) : ((s.numberLabels st).stns[st]).write.works = (s.stns[st]).write.works := by
  unfold State.numberLabels
  extract_lets t
  split
  · rfl
  · dsimp only
    split
    · rfl
    · refine (congrArg (fun v : Vector Station 8 => (v[st]).write.works) (foldl_addJob_stns ..)).trans ?_
      rw [State.modStn_stn]
      rfl

theorem State.assembleAll_works (s : State) (st : Stn) : ((s.assembleAll st).stns[st]).write.works = (s.stns[st]).write.works := by
  unfold State.assembleAll
  split
  · rfl
  · exact (State.assemble_works ..).trans (State.numberLabels_works ..)

/-! ### A station that owes one FLUSH -/

/-- Work whose gathering has not closed is not done. -/
theorem flushReady_open {v : VolCtx} {w : Write} {j : FlushJob} (h : j.closed = false) : flushReady v w j = false := by
  unfold flushReady
  dsimp only
  rw [h]
  simp

theorem State.flushesDone_open {s : State} {st : Stn} (h : ∀ j ∈ (s.stns[st]).write.flushes, j.closed = false) (n : Nat) : s.flushesDone st n = s := by
  cases n with
  | zero => rfl
  | succ n =>
    unfold State.flushesDone
    extract_lets t
    split
    · rfl
    next v _ =>
      rw [show t.write.flushes.find? (flushReady v t.write) = none from
        List.find?_eq_none.mpr fun j hj => by rw [flushReady_open (h j hj)]; exact Bool.false_ne_true]

theorem State.closeAll_idle {s : State} {st : Stn} {v : VolCtx} (ctx : (s.stns[st]).ctx = some v) (h : v.closing = .none) (n : Nat) :
    s.closeAll st n = s := by
  cases n with
  | zero => rfl
  | succ n =>
    have none : s.closeOnce st = none := by
      unfold State.closeOnce
      dsimp only
      rw [ctx]
      dsimp only
      rw [h]
      exact ite_self _
    unfold State.closeAll
    rw [none]

/-- The buffers that go back leave the work of a station's FLUSHes. -/
theorem State.freeSpent_works (s : State) (st : Stn) : ((s.freeSpent st).stns[st]).write.works = (s.stns[st]).write.works := by
  unfold Write.works
  rw [(State.freeSpent_woken s st).flushes st]

/-- A station whose volume is not being closed settles with its FLUSHes, and with the commands that wait for no buffer. -/
theorem State.settle_open {s : State} {st : Stn} {v : VolCtx} (ctx : (s.stns[st]).ctx = some v) (closing : v.closing = .none)
    (h : ∀ j ∈ (s.stns[st]).write.flushes, j.closed = false) : ((s.settle st).stns[st]).write.works = (s.stns[st]).write.works ∧
      ∀ r k, s.cmd? r = some k → k.entry.opc ≠ 0x80 → k.entry.opc ≠ 0x84 → ∃ k', (s.settle st).cmd? r = some k' ∧ k'.entry = k.entry ∧ k.GoesOn k' := by
  unfold State.settle
  split
  · exact ⟨rfl, fun r k hk _ _ => ⟨k, hk, rfl, .inl rfl⟩⟩
  · rw [State.flushesDone_open h, State.closeAll_idle ctx closing]
    refine ⟨(State.freeSpent_works ..).trans (State.assembleAll_works ..), fun r k hk h80 h84 => ?_⟩
    obtain ⟨k', found, entry, -, -, goes⟩ := (State.freeSpent_woken (s.assembleAll st) st).cmd r k
      ((State.cmd_congr r (by rw [(State.assembleAll_writeOnly s st).ports])).trans hk) h80 h84
    exact ⟨k', found, entry, goes⟩

/-- A station that gets its first FLUSH. -/
def State.flushAsked (s : State) (st : Stn) (why : FlushFor) (cover : List (Nat × Nat)) : State :=
  cover.foldl (fun a c => a.addJob (dieOf st) rComp (a.compressJob st c.1)) (s.modStn st fun t => { t with
    ctx := t.ctx.map fun v => { v with recs := v.recs.map fun r => r.cutAt cover }
    write := { t.write with flushes := t.write.flushes ++ [⟨why, cover, false, 0⟩] } })

theorem State.flushAsked_stn (s : State) (st : Stn) (why : FlushFor) (cover : List (Nat × Nat)) :
    (s.flushAsked st why cover).stns[st] = { s.stns[st] with
      ctx := ((s.stns[st]).ctx).map fun v => { v with recs := v.recs.map fun r => r.cutAt cover }
      write := { (s.stns[st]).write with flushes := (s.stns[st]).write.flushes ++ [⟨why, cover, false, 0⟩] } } := by
  unfold State.flushAsked
  rw [foldl_addJob_stns]
  exact State.modStn_stn ..

theorem State.flushAsked_stnOnly (s : State) (st : Stn) (why : FlushFor) (cover : List (Nat × Nat)) : StnOnly st s (s.flushAsked st why cover) := by
  have jobs : ∀ (l : List (Nat × Nat)) (a : State),
      WriteOnly st a (l.foldl (fun a c => a.addJob (dieOf st) rComp (a.compressJob st c.1)) a) :=
    foldl_writeOnly fun a c => State.addJob_writeOnly a st _ _ _
  exact (State.modStn_stnOnly s st _).trans (jobs cover _).toStnOnly

theorem State.addFlush_first {s : State} {st : Stn} {v : VolCtx} (why : FlushFor) (cover : List (Nat × Nat)) (ctx : (s.stns[st]).ctx = some v)
    (closing : v.closing = .none) (none : (s.stns[st]).write.flushes = []) :
    ((s.addFlush st why cover).stns[st]).write.works = [(why, cover)] ∧
      ∀ r k, s.cmd? r = some k → k.entry.opc ≠ 0x80 → k.entry.opc ≠ 0x84 →
        ∃ k', (s.addFlush st why cover).cmd? r = some k' ∧ k'.entry = k.entry ∧ k.GoesOn k' := by
  have here := State.flushAsked_stn s st why cover
  rw [ctx, none] at here
  have settled := State.settle_open (s := s.flushAsked st why cover) (st := st)
    (v := { v with recs := v.recs.map fun r => r.cutAt cover }) (by rw [here]; rfl) closing
    (by rw [here]; exact fun j hj => by rw [List.mem_singleton.mp hj])
  obtain ⟨works, cmds⟩ := settled
  rw [here] at works
  exact ⟨works, fun r k hk => cmds r k ((State.cmd_congr r (by rw [(State.flushAsked_stnOnly s st why cover).ports])).trans hk)⟩

/-! ### FLUSH -/

/-- A FLUSH that has been taken, whose losses are reported. -/
def State.flushTaken (s : State) (c : HostCmd) : State :=
  ((s.takenAs c .flushing).modStn c.entry.st fun t => t.modCtx VolCtx.report).modCmd (refOf c) fun k => { k with phase := .flushing }

theorem State.flushTaken_stn {s : State} {c : HostCmd} {v : VolCtx} (ctx : (s.stns[c.entry.st]).ctx = some v) : (s.flushTaken c).stns[c.entry.st] = { s.stns[c.entry.st] with ctx := some v.report } := by
  refine (State.modStn_stn (s.takenAs c .flushing) c.entry.st _).trans ?_
  rw [State.takenAs_stn]
  unfold Station.modCtx
  rw [ctx]
  rfl

theorem State.flushTaken_cmd {s : State} {c : HostCmd} (h : s.accepts 0x04 c (flushOwn c s)) : ∃ k, (s.flushTaken c).cmd? (refOf c) = some k ∧ k.entry = c.entry ∧ k.phase = .flushing :=
  ⟨_, (State.modCmd_cmd _ _ _ (by exact fun _ => rfl)).trans (congrArg _ (State.takenAs_cmd h .flushing)), rfl, rfl⟩

section
variable {s : State} {c : HostCmd} {v : VolCtx} (h : s.accepts 0x04 c (flushOwn c s)) (awake : s.mustWake 0x04 = false)
  (ctx : (s.stns[c.entry.st]).ctx = some v)
include h awake ctx

theorem exec_flush_accepted : exec (.flush c) s = .next (if v.closureBad then (s.flushTaken c).finish (refOf c) (.st 0xC)
    else if v.report.owes v.cover then (s.flushTaken c).addFlush c.entry.st (.flush (refOf c)) v.cover
    else (s.flushTaken c).finishLosses (refOf c) (lostIn v.report v.cover) (lostIn v.report v.cover).length) := by
  have waits : s.mustWake c.entry.opc.toNat = false := by rw [State.accepts_opc h]; exact awake
  refine (congrArg Host.Outcome.next ((State.host_run s 0x04 c (flushOwn c) unblocked
    (fun s => s.launch c (Cmd.start c s.clock .flushing) State.startFlush) h rfl).trans (State.accepts_launch h waits ..))).trans ?_
  have found := State.takenAs_cmd h .flushing
  have here : ((s.takenAs c .flushing).stns[c.entry.st]).ctx = some v := by rw [State.takenAs_stn]; exact ctx
  unfold State.flushTaken
  generalize s.takenAs c .flushing = u at found here ⊢
  unfold State.startFlush
  rw [found]
  dsimp only
  rw [show (u.stns[(Cmd.start c (s.take c).clock .flushing).entry.st]).ctx = some v from here]
  rfl

theorem exec_flush_owes (bad : v.closureBad = false) (owes : v.report.owes v.cover = true) (closing : v.closing = .none)
    (none : (s.stns[c.entry.st]).write.flushes = []) : ∃ t j, exec (.flush c) s = .next t ∧ t.underWay (refOf c) c.entry .flushing ∧
      j ∈ (t.stns[c.entry.st]).write.flushes ∧ j.why = .flush (refOf c) ∧ j.cover = v.cover := by
  have run := exec_flush_accepted h awake ctx
  rw [if_neg (by rw [bad]; exact Bool.false_ne_true), if_pos owes] at run
  have stn := State.flushTaken_stn ctx
  obtain ⟨k, found, entry, phase⟩ := State.flushTaken_cmd h
  generalize s.flushTaken c = u at run stn found
  obtain ⟨works, cmds⟩ := State.addFlush_first (.flush (refOf c)) v.cover (v := v.report) (by rw [stn]) closing (by rw [stn]; exact none)
  have opc : k.entry.opc = 4 := by rw [entry]; exact BitVec.eq_of_toNat_eq (State.accepts_opc h)
  obtain ⟨k', left, entry', goes⟩ := cmds (refOf c) k found (by rw [opc]; decide) (by rw [opc]; decide)
  have phase' : k'.phase = .flushing := by
    obtain goes | goes | goes := goes
    · rw [goes, phase]
    · rw [phase] at goes; cases goes
    · rw [phase] at goes; cases goes
  generalize u.addFlush c.entry.st (.flush (refOf c)) v.cover = t at run works left
  have mem : (FlushFor.flush (refOf c), v.cover) ∈ (t.stns[c.entry.st]).write.works := by rw [works]; exact List.mem_singleton_self _
  obtain ⟨j, hj, work⟩ := List.mem_map.mp mem
  exact ⟨t, j, run, ⟨k', left, entry'.trans entry, phase'⟩, hj, congrArg Prod.fst work, congrArg Prod.snd work⟩

theorem exec_flush_ends : (v.closureBad = true → ∃ t, exec (.flush c) s = .next t ∧ t.ended (refOf c) 0x0C 0) ∧
    (v.closureBad = false → v.report.owes v.cover = false → lostIn v.report v.cover = [] →
      ∃ t, exec (.flush c) s = .next t ∧ t.ended (refOf c) 0 0) := by
  have run := exec_flush_accepted h awake ctx
  obtain ⟨k, found, -, -⟩ := State.flushTaken_cmd h
  refine ⟨fun bad => ?_, fun bad durable lost => ?_⟩
  · rw [if_pos bad] at run
    exact ⟨_, run, State.finish_ended found (.st 0xC)⟩
  · rw [if_neg (by rw [bad]; exact Bool.false_ne_true), if_neg (by rw [durable]; exact Bool.false_ne_true), lost] at run
    have ends : (s.flushTaken c).finishLosses (refOf c) [] 0 = (s.flushTaken c).finish (refOf c) (.ok 0) := by
      unfold State.finishLosses
      rw [found]
      rfl
    rw [show ([] : List Nat).length = 0 from rfl, ends] at run
    exact ⟨_, run, State.finish_ended found (.ok 0)⟩

end

/-! ### ORDER_FENCE -/

theorem exec_orderFence_accepted {s : State} {c : HostCmd} {x : Qp} (h : s.accepts 0x05 c none) (queue : (s.ports[c.port]).qp? c.qid = some x) :
    ∃ t, exec (.orderFence c) s = .next t ∧
      if x.cmds = [] then t.ended (refOf c) 0 0 else t.underWay (refOf c) c.entry .moving ∧ t.fenceHolds c = true := by
  have run : exec (.orderFence c) s = .next ((s.takenAs c .moving).fenceGo c.port c.qid) :=
    congrArg Host.Outcome.next (State.host_run s 0x05 c (fun _ => none) unblocked
      (fun s => (s.addCmd c (Cmd.start c s.clock .moving)).fenceGo c.port c.qid) h rfl)
  have found := State.takenAs_cmd h .moving
  have added : ∃ y, ((s.takenAs c .moving).ports[c.port]).qp? c.qid = some y ∧ y.cmds = x.cmds ++ [Cmd.start c (s.take c).clock .moving] := by
    unfold State.takenAs State.addCmd
    rw [State.modQp_qp _ _ _ _ (by exact fun _ => rfl), State.take_qp, queue]
    exact ⟨_, rfl, rfl⟩
  obtain ⟨y, hy, cmds⟩ := added
  have opc : c.entry.opc = 5 := BitVec.eq_of_toNat_eq (State.accepts_opc h)
  generalize s.takenAs c .moving = u at run found hy
  refine ⟨_, run, ?_⟩
  split
  next none =>
    have alone : y.cmds = [Cmd.start c (s.take c).clock .moving] := by rw [cmds, none]; rfl
    have ends : u.fenceGo c.port c.qid = u.finish (refOf c) (.ok 0) := by
      unfold State.fenceGo
      rw [hy]
      dsimp only
      rw [alone]
      exact if_pos opc
    rw [ends]
    exact State.finish_ended found (.ok 0)
  next some =>
    have stays : u.fenceGo c.port c.qid = u := by
      obtain ⟨z, l, first⟩ := List.exists_cons_of_ne_nil some
      unfold State.fenceGo
      rw [hy]
      dsimp only
      rw [cmds, first]
      cases l <;> rfl
    rw [stays]
    refine ⟨⟨_, found, rfl, rfl⟩, ?_⟩
    unfold State.fenceHolds Qp.fenced
    rw [hy, Option.any_some, cmds, List.any_append]
    simp [Cmd.start, opc]

/-- Settles O39: a FLUSH by what its volume owes, and a fence by what else its queue has outstanding. -/
theorem flushAndFence : Obligations.FlushAndFence := by
  refine fun s c => ⟨fun v h awake ctx => ?_, fun x h queue => exec_orderFence_accepted h queue⟩
  obtain ⟨broken, done⟩ := exec_flush_ends h awake ctx
  exact ⟨broken, done, exec_flush_owes h awake ctx⟩

end Sys2Proof.Machine
end

section
/-!
PROOFS of the long commands (12, R403; 10, R344): a RECOVER_STABLED whose station goes on with work that names it.
-/
namespace Sys2Proof.Machine

/-- RECOVER_STABLED of every station. -/
def recoverAll : HostCmd :=
  ⟨0, 0, { opc := 0x8F, flags := 0, tag := 1, stn := 0xFF, cflags := 0, rsv := 0, mnt := 0, dlen := 0, dptr := 0, rptr := 0, cdw := 0 }, []⟩

/-- Station 0 is stabled with a record that was lost, and with the finished FLUSH of a reader of it that names the RECOVER_STABLED's command. -/
def stabledReader : State := adminPackage.modStn 0 fun t =>
  { t with stabled := true, mount := some ⟨1, .append, 0, []⟩
           ctx := some { VolCtx.blank with state := .unsealed, recs := [{ owedRec with abandon := some .lost }] }
           write := { t.write with flushes := [⟨.reader (refOf recoverAll), [(5, 4)], true, 0⟩] } }

theorem stabledReader_accepts : stabledReader.accepts 0x8F recoverAll none ∧ stabledReader.mustWake 0x8F = false := by
  unfold State.accepts
  decide +kernel

/-- The recovered station goes on with its reader, which ends with the loss of its record. -/
theorem stabledReader_run :
    (((State.startRecover (refOf recoverAll) (stabledReader.takenAs recoverAll .moving)).ports[(0 : Port)]).qp? 0).map
      (fun x => x.done.getLast?.map fun d => d.status) = some (some 0x0A) := by
  decide +kernel

theorem exec_recoverStabled_accepted {s : State} {c : HostCmd} (h : s.accepts 0x8F c none) (awake : s.mustWake 0x8F = false) :
    exec (.recoverStabled c) s = .next (State.startRecover (refOf c) (s.takenAs c .moving)) :=
  congrArg Host.Outcome.next ((State.host_run s 0x8F c (fun _ => none) unblocked
    (fun s => s.launch c (Cmd.start c s.clock .moving) State.startRecover) h rfl).trans
      (State.accepts_launch h (by rw [State.accepts_opc h]; exact awake) ..))

/-- The last completion that waits on a queue, of a command that has ended. -/
theorem State.ended_status {t : State} {r : CmdRef} {a b : Nat} (h : t.ended r a b) :
    ((t.ports[r.port]).qp? r.qid).map (fun x => x.done.getLast?.map fun d => d.status) = some (some (BitVec.ofNat 8 a)) := by
  obtain ⟨x, d, queue, last, -, -, status, -⟩ := h
  rw [queue, Option.map_some, last, Option.map_some, status]

/-- Refutes O40: RECOVER_STABLED ends with 0x0A where a FLUSH of its station that a reader waited for names its command. -/
theorem not_longCommands : ¬ Obligations.LongCommands := by
  intro h
  obtain ⟨-, -, -, resolves⟩ := h stabledReader recoverAll
  obtain ⟨accepts, awake⟩ := stabledReader_accepts
  obtain ⟨t, run, -, ends, -⟩ := resolves (.recoverStabled recoverAll) 0x8F (.inl ⟨rfl, rfl⟩) accepts awake (by decide +kernel)
  rw [exec_recoverStabled_accepted accepts awake] at run
  rw [← Host.Outcome.next.inj run] at ends
  obtain ends | ends := ends
  · exact absurd (stabledReader_run.symm.trans (State.ended_status ends)) (by decide)
  · exact absurd (stabledReader_run.symm.trans (State.ended_status ends)) (by decide)

end Sys2Proof.Machine
end

section
/-!
PROOFS of COMPLETION_WRITE (10, R319, R321, R322, R343, R347).
-/
namespace Sys2Proof.Machine

/-! ### Entry to a power state -/

theorem State.modPort_going (s : State) (p : Port) (f : HostPort → HostPort) (h : ∀ x, (f x).qps = x.qps ∧ (f x).stat = x.stat) :
    Going s (s.modPort p f) where
  flagged := fun n hn p' => by
    rw [State.modPort_ports, vmod_get]
    split
    · rw [(h _).2]; exact hn p'
    · exact hn p'
  qps := QpsKept.of_qps fun p' => by
    rw [State.modPort_ports, vmod_get]
    split
    · exact (h _).1
    · rfl
  dones := DonesGrow.of_qps fun p' => by
    rw [State.modPort_ports, vmod_get]
    split
    · exact (h _).1
    · rfl
  halting := fun _ h => h
  fault := fun _ => rfl
  lanes := fun _ _ => Engine.Kept.refl _
  lost := fun _ => rfl
  locks := rfl
  left := State.modPort_outGrows ..
  links := fun _ => .of_eq rfl
  sent := fun _ _ e => e

theorem State.powerFlush_going (s : State) : Going s s.powerFlush :=
  foldl_going (fun a st => by
    split
    · extract_lets t
      split
      · exact State.addFlush_going ..
      · exact Going.refl a
    · exact Going.refl a) allStns s

theorem State.powerStops_going (s : State) : Going s s.powerStops :=
  foldl_going (fun a st => by
    split
    · exact Going.refl a
    · exact State.controlledStop_going ..) allStns s

theorem Link.steady_quiet (k : Link) :
    k.Steady { k with lanes := k.lanes.mapFinIdx fun i l _ => if i = 0 then l else { l with up := false, training := false } } := by
  refine ⟨fun l => ?_, rfl⟩
  simp only [Fin.getElem_fin, Vector.getElem_mapFinIdx]
  split <;> rfl

theorem State.quietStn_going (s : State) (st : Stn) : Going s (s.quietStn st) := by
  unfold State.quietStn
  extract_lets s1
  refine Going.trans ?_ ((State.modStn_stnOnly s1 st _).going (fun hs => by rw [State.modStn_stn]; exact hs)
    (by rw [State.modStn_stn]; exact Link.steady_quiet _) (by rw [State.modStn_stn]; exact fun _ h => h))
  simp only [s1]
  split
  next rests => exact State.openLoops_going_of_still (by rw [rests]; decide)
  · exact Going.refl s

/-- A change of the power state alone. -/
theorem Going.of_power (s : State) (x : Power) : Going s { s with power := x } := Going.of_rest rfl rfl rfl rfl rfl (OutGrows.of_eq rfl)

theorem State.powerDeeper_going (s : State) : Going s s.powerDeeper := by
  unfold State.powerDeeper
  split
  · exact Going.refl s
  · split
    · exact Going.of_power ..
    · exact (Going.of_power s _).trans (foldl_going State.quietStn_going allStns _)
    · exact ((Going.of_power s _).trans (State.modPort_going _ _ _ (by exact fun _ => ⟨rfl, rfl⟩))).trans
        (State.modPort_going _ _ _ (by exact fun _ => ⟨rfl, rfl⟩))
    · exact Going.refl s

theorem State.powerEnd_going (s : State) : Going s s.powerEnd := by
  unfold State.powerEnd
  split
  · exact Going.refl s
  · split
    · exact (Going.of_power s _).trans (State.finish_going ..)
    · exact Going.refl s

theorem State.powerOnce_going (s : State) : Going s s.powerOnce := by
  unfold State.powerOnce
  split
  · exact Going.refl s
  · exact (((State.powerFlush_going s).trans (State.powerStops_going _)).trans (State.powerDeeper_going _)).trans (State.powerEnd_going _)

theorem State.powerGo_going (s : State) : Going s s.powerGo :=
  ((State.powerOnce_going s).trans (State.powerOnce_going _)).trans (State.powerOnce_going _)

theorem State.fenceGo_going (s : State) (p : Port) (q : Nat) : Going s (s.fenceGo p q) := by
  unfold State.fenceGo
  split
  · exact Going.refl s
  · split
    · split
      · exact State.finish_going ..
      · exact Going.refl s
    · exact Going.refl s

/-! ### The message and the trace of a completion -/

theorem State.msix_going (s : State) (p : Port) (v : Nat) : Going s (s.msix p v) := by
  unfold State.msix
  extract_lets h
  split
  · exact Going.refl s
  split
  · exact State.modPort_going s p _ fun _ => ⟨rfl, rfl⟩
  · exact Going.of_rest rfl rfl rfl rfl rfl (State.emit_outGrows ..)

theorem State.trace_going (s : State) (d : DieId) (q : Fin 4) (w : List (BitVec 64)) : Going s (s.trace d q w) := by
  have put : Going s (s.putTrace d q w).1 := (State.putTrace_events s d q w).going (State.putTrace_outGrows ..)
  unfold State.trace
  dsimp only
  split
  · exact put.trans (State.raise_going ..)
  · exact put

theorem State.reported_going (s : State) (d : Done) : Going s (s.reported d) := by
  unfold State.reported
  split
  · exact State.modStn_going s _ _ rfl
  · exact Going.refl s

/-! ### The row -/

/-- A queue whose oldest completion has been written. -/
def Qp.writtenDone (x : Qp) (rest : List Done) : Qp :=
  { x with done := rest, cqNext := (x.cqNext + 1) % x.depth, phase := if (x.cqNext + 1) % x.depth = 0 then !x.phase else x.phase }

/-- The completion of a command as it is written. -/
def Qp.entryOut (x : Qp) (p : Port) (q : Nat) (d : Done) : Out :=
  .completion p q x.cqNext (x.cqBase + BitVec.ofNat 64 (16 * x.cqNext)) (d.word q (d.sqhd.getD x.sqHead) x.phase)

/-- The package once a completion is written: the slot is taken, and the entry has left. -/
def State.doneWritten (s : State) (p : Port) (q : Nat) (x : Qp) (d : Done) (rest : List Done) : State :=
  (s.modQp p q fun z => { z with done := rest, cqNext := (x.cqNext + 1) % x.depth,
                                 phase := if (x.cqNext + 1) % x.depth = 0 then !z.phase else z.phase }).emit (x.entryOut p q d)

/-- The locks and the record of a command that is reported. -/
def State.doneReported (s : State) (p : Port) (q : Nat) (d : Done) : State :=
  if d.final then s else (if d.locks then s.unlock ⟨p, q, d.tag⟩ else s).reported d

/-- The message and the trace word of a completion. -/
def State.doneTold (s : State) (at_ : Nat) (p : Port) (q : Nat) (x : Qp) (d : Done) : State :=
  (s.msix p x.vec).trace p 2 [packetHead 2 p.val at_, cmdWord q (if d.final then 0 else d.tag) d.opc d.stn d.status, d.result]

section
variable {s : State} {p : Port} {q : Nat} {x : Qp} {d : Done} {rest : List Done}

theorem exec_completionWrite_room (queue : (s.ports[p]).qp? q = some x) (done_ : x.done = d :: rest) (room : x.cqFull = false)
    (answers : s.answers p = true) : exec (.completionWrite p q) s = .next ((
      if d.final then (((s.doneWritten p q x d rest).doneReported p q d).doneTold s.time p q x d).finalDone p q
      else ((s.doneWritten p q x d rest).doneReported p q d).doneTold s.time p q x d).fenceGo p q).powerGo := by
  refine congrArg Host.Outcome.next ?_
  unfold State.writeDone
  rw [queue]
  dsimp only
  rw [done_]
  dsimp only
  rw [room, answers]
  rfl

theorem exec_completionWrite_waits (queue : (s.ports[p]).qp? q = some x) (h : x.done = [] ∨ x.cqFull = true ∨ s.answers p = false) :
    exec (.completionWrite p q) s = .next s := by
  refine congrArg Host.Outcome.next ?_
  unfold State.writeDone
  rw [queue]
  dsimp only
  split
  · rfl
  next d rest hd =>
    refine if_pos ?_
    obtain h | h | h := h
    · rw [hd] at h; cases h
    · rw [h]; rfl
    · rw [h]; simp

theorem State.doneWritten_qp (queue : (s.ports[p]).qp? q = some x) :
    ((s.doneWritten p q x d rest).ports[p]).qp? q = some (x.writtenDone rest) := by
  refine (State.modQp_qp s p q _ (by exact fun _ => rfl)).trans ?_
  rw [queue]
  rfl

/-- What the report of a completion does to the queue it is on. -/
theorem State.doneReported_qps (s : State) (p : Port) (q : Nat) (d : Done) : QpsKept s (s.doneReported p q d) ∧ DonesGrow s (s.doneReported p q d) ∧
    OutGrows s (s.doneReported p q d) := by
  unfold State.doneReported
  split
  · exact ⟨QpsKept.refl s, DonesGrow.refl s, OutGrows.refl s⟩
  · have freed : ∀ a : State, (a.ports = s.ports ∧ a.out = s.out) → QpsKept s (a.reported d) ∧ DonesGrow s (a.reported d) ∧ OutGrows s (a.reported d) :=
      fun a ⟨ports, out⟩ => ⟨(QpsKept.of_qps fun p => by rw [ports]).trans (State.reported_going a d).qps,
        (DonesGrow.of_qps fun p => by rw [ports]).trans (State.reported_going a d).dones,
        (OutGrows.of_eq out).trans (State.reported_going a d).left⟩
    refine freed _ ?_
    split <;> exact ⟨rfl, rfl⟩

theorem State.doneReported_locks (s : State) (p : Port) (q : Nat) {d : Done} (final : d.final = false) :
    (s.doneReported p q d).locks = if d.locks then s.locks.filter fun l => l.cmd != ⟨p, q, d.tag⟩ else s.locks := by
  unfold State.doneReported
  rw [final, if_neg Bool.false_ne_true, (State.reported_going ..).locks]
  split <;> rfl

theorem State.doneTold_going (s : State) (n : Nat) (p : Port) (q : Nat) (x : Qp) (d : Done) : Going s (s.doneTold n p q x d) :=
  (State.msix_going ..).trans (State.trace_going ..)

/-- After a FINAL entry the queue has no entry left that was written and not taken, and is not being reset. -/
theorem State.finalDone_qp {y : Qp} (queue : (s.ports[p]).qp? q = some y) :
    OutGrows s (s.finalDone p q) ∧ ∃ z l, ((s.finalDone p q).ports[p]).qp? q = some z ∧ z.done = y.done ++ l ∧ z.cqNext = y.cqNext ∧ z.phase = y.phase ∧
      z.sqHead = y.sqTail ∧ z.resetting = none := by
  have emptied := State.modQp_qp s p q (fun x => { x with sqHead := x.sqTail, resetting := none }) (fun _ => rfl)
  rw [queue] at emptied
  unfold State.finalDone
  rw [queue]
  dsimp only
  split
  next r _ =>
    have ends := State.finish_going (s.modQp p q fun x => { x with sqHead := x.sqTail, resetting := none }) r (.ok 0)
    obtain ⟨z, hz, same⟩ := ends.qps.regs p q _ emptied
    obtain ⟨z', l, hz', grown⟩ := ends.dones p q _ emptied
    rw [hz] at hz'
    cases hz'
    exact ⟨(State.modQp_outGrows ..).trans ends.left, z, l, hz, grown, by rw [same], by rw [same], by rw [same], by rw [same]⟩
  · exact ⟨State.modQp_outGrows .., _, [], emptied, (List.append_nil _).symm, rfl, rfl, rfl, rfl⟩

end

/-- What follows a completion leaves the queue's registers, and its completions before those that come. -/
theorem State.after_done {a : State} {p : Port} {q : Nat} {y : Qp} (queue : (a.ports[p]).qp? q = some y) :
    Going a (a.fenceGo p q).powerGo ∧ ∃ z l, (((a.fenceGo p q).powerGo).ports[p]).qp? q = some z ∧ z.done = y.done ++ l ∧ y.SameRegs z := by
  have going := (State.fenceGo_going a p q).trans (State.powerGo_going _)
  obtain ⟨z, hz, same⟩ := going.qps.regs p q y queue
  obtain ⟨z', l, hz', grown⟩ := going.dones p q y queue
  rw [hz] at hz'
  cases hz'
  exact ⟨going, z, l, hz, grown, same⟩

/-- Settles O41: the slot is taken at once, and what a completion sets off leaves the queue's registers (`QpsKept`), the interlocking and what
has left (`Going`). -/
theorem completionsWritten : Obligations.CompletionsWritten := by
  refine fun s p q x queue => ⟨exec_completionWrite_waits queue, fun d rest done_ room answers => ?_⟩
  have run := exec_completionWrite_room queue done_ room answers
  have written := State.doneWritten_qp (d := d) (rest := rest) queue
  have out : x.entryOut p q d ∈ (s.doneWritten p q x d rest).out := List.mem_cons_self ..
  have locks : (s.doneWritten p q x d rest).locks = s.locks := rfl
  generalize s.doneWritten p q x d rest = w at run written out locks
  obtain ⟨kept, grow, left⟩ := State.doneReported_qps w p q d
  have held := State.doneReported_locks w p q (d := d)
  rw [locks] at held
  generalize w.doneReported p q d = u at run kept grow left held
  have told := State.doneTold_going u s.time p q x d
  generalize u.doneTold s.time p q x d = v at run told
  obtain ⟨y, hy, same⟩ := (kept.trans told.qps).regs p q _ written
  obtain ⟨y', l, hy', grown⟩ := (grow.trans told.dones) p q _ written
  rw [hy] at hy'
  cases hy'
  have outV := (left.trans told.left).mem _ out
  cases final : d.final with
  | false =>
    rw [final, if_neg Bool.false_ne_true] at run
    obtain ⟨going, z, m, hz, more, regs⟩ := State.after_done hy
    have all := same.trans regs
    have kept : ((v.fenceGo p q).powerGo).locks = _ := (going.locks.trans told.locks).trans (held final)
    refine ⟨_, z, run, hz, going.left.mem _ outV, by rw [all]; rfl, by rw [all]; rfl, ⟨l ++ m, by rw [more, grown, List.append_assoc]; rfl⟩,
      fun _ owns k hk => ?_, fun _ owns k hk => ?_, fun h => Bool.noConfusion h⟩
    · rw [kept, if_pos owns] at hk
      simpa using (List.mem_filter.mp hk).2
    · rw [kept, owns]
      exact hk
  | true =>
    rw [final, if_pos rfl] at run
    obtain ⟨leaves, z0, m0, hz0, more0, next0, phase0, head0, reset0⟩ := State.finalDone_qp hy
    obtain ⟨going, z, m, hz, more, regs⟩ := State.after_done hz0
    refine ⟨_, z, run, hz, (leaves.trans going.left).mem _ outV, ?_, ?_, ⟨l ++ (m0 ++ m), ?_⟩, fun h => Bool.noConfusion h, fun h => Bool.noConfusion h,
      fun _ => ⟨?_, ?_⟩⟩
    · rw [regs]; exact next0.trans (by rw [same]; rfl)
    · rw [regs]
      show z0.phase = if z0.cqNext = 0 then _ else _
      rw [phase0, next0, same]
      rfl
    · rw [more, more0, grown, List.append_assoc, List.append_assoc]; rfl
    · rw [regs]; exact head0.trans (by rw [same]; rfl)
    · rw [regs]; exact reset0

end Sys2Proof.Machine
end

section
/-!
PROOFS of UPSTREAM_FRAME, DOWNSTREAM_FRAME and SIDEBAND_CONTAINER (06, R168 to R182).
-/
namespace Sys2Proof.Machine

theorem Station.modLink_lane (t : Station) (l : Lane) (f : LaneRx → LaneRx) :
    ((t.modLink fun k => k.modLane l f).link.lanes[l]) = f t.link.lanes[l] := vmod_get_self ..

/-! ### Received frames -/

theorem Received.type_of_unfixed {f : Received} (h : f.fix = none) : f.type = 0 := by
  unfold Received.type; rw [h]; rfl

/-- A frame that the code cannot correct is counted and brings nothing. -/
theorem LaneRx.take_of_unfixed (l : LaneRx) {f : Received} (h : f.fix = none) :
    (l.take f).badFec = l.badFec + 1 ∧ (l.take f).frames = l.frames := by
  unfold LaneRx.take
  rw [Received.type_of_unfixed h, h]
  exact ⟨rfl, rfl⟩

theorem Received.fixed_of_data {f : Received} (h : f.type = 9) : f.fix.isSome = true ∧ f.sync = true := by
  unfold Received.type at h
  split at h
  next hx => simpa using hx
  · exact absurd h (by decide)

/-- A data frame clears both counts and sets the cell that is due. -/
theorem LaneRx.take_of_data (l : LaneRx) {f : Received} (h : f.type = 9) :
    (l.take f).badFec = 0 ∧ (l.take f).wrongSync = 0 ∧
      (l.take f).cell = BitVec.ofNat 32 (frameField f.msg 32 32) + BitVec.ofNat 32 (frameField f.msg 64 8) := by
  obtain ⟨fixed, sync⟩ := Received.fixed_of_data h
  unfold LaneRx.take
  rw [h]
  exact ⟨if_pos fixed, if_pos sync, rfl⟩

theorem exec_upstreamFrame_unfixed (s : State) (st : Stn) (lane : Lane) (f : RxFrame) (up : ((s.stns[st]).link.lanes[lane]).up = true)
    (h : (s.received st lane f).fix = none) :
    exec (.upstreamFrame st lane f) s = .next (s.modStn st fun t => t.modLink fun k => k.modLane lane fun l => l.take (s.received st lane f)) := by
  refine congrArg Host.Outcome.next ?_
  unfold State.rxFrame
  extract_lets t f' x s1 s2 s3
  rw [if_neg (by simp only [t, up]; decide), if_pos (by simp only [f', Received.type_of_unfixed h]; decide)]

theorem exec_upstreamFrame_data (s : State) (st : Stn) (lane : Lane) (f : RxFrame) (up : ((s.stns[st]).link.lanes[lane]).up = true)
    (data : (s.received st lane f).type = 9) (dfail : frameField (s.received st lane f).msg 78 1 = 0) (side : 1 < lane.val) :
    exec (.upstreamFrame st lane f) s = .next (s.modStn st fun t => t.modLink fun k => k.modLane lane fun l => l.take (s.received st lane f)) := by
  refine congrArg Host.Outcome.next ?_
  unfold State.rxFrame
  extract_lets t f' x s1 s2 s3
  rw [if_neg (by simp only [t, up]; decide), if_neg (by simp only [f', data]; decide), if_pos (.inr side)]
  simp only [s2]
  unfold State.rxStat
  extract_lets s4
  rw [if_pos side]
  exact if_neg (by simp only [x, f', dfail]; decide)

/-! ### Frames that are sent -/

/-- The oldest position of the layout joins those sent. -/
def State.posMoved (s : State) (st : Stn) (p : TxPos) : State :=
  s.modStn st fun t => t.modWrite fun w => { w with
    toSend := w.toSend.drop 1
    sent := w.sent ++ [p]
    cellPos := w.cellPos + 5216 }

theorem State.posMoved_nextSeq (s : State) (st : Stn) (p : TxPos) (l : Lane) :
    ((s.posMoved st p).stns[st]).nextSeq l = (s.stns[st]).nextSeq l :=
  (congrArg (fun t : Station => t.nextSeq l) (State.modStn_stn s st _)).trans rfl

theorem Write.unrewritten_sent (w : Write) (l : List RwEntry) : (l.foldl Write.unrewritten w).sent = w.sent := by
  induction l generalizing w with
  | nil => rfl
  | cons e l ih => exact ih (w.unrewritten e)

theorem Write.expire_sent (w : Write) : w.expire.sent = w.sent := Write.unrewritten_sent ..

theorem State.posSent_going (s : State) (st : Stn) (p : TxPos) : Going (s.posMoved st p) (s.posSent st p) := by
  unfold State.posSent
  extract_lets s1
  have moved : s1 = s.posMoved st p := rfl
  clear_value s1
  subst moved
  generalize s.posMoved st p = s1
  split
  · extract_lets s2
    have two : Going s1 s2 := (State.modWrite_writeOnly ..).going
    split
    · exact two
    · split
      · exact two
      next g _ =>
        extract_lets s3
        have three : Going s1 s3 := two.trans (modCtx_writeOnly s2 st (fun v => { v with
          recs := v.recs.map fun r => if g.segs.any fun x => x.lon == r.lon then { r with recorded := true } else r }) fun _ => rfl).going
        exact three.trans (Going.of_rest rfl rfl rfl rfl rfl (OutGrows.of_eq rfl))
  · refine State.modStn_going s1 st _ rfl (sent := ?_)
    show (Write.expire _).sent ⊆ _
    rw [Write.expire_sent]
    exact fun _ h => h
  · exact Going.refl s1

theorem Link.endRun_steady (k : Link) : k.Steady k.endRun := by
  refine ⟨fun l => ?_, rfl⟩
  unfold Link.endRun
  simp only [Fin.getElem_fin, Vector.getElem_map]

theorem State.quiesceGate_going (s : State) (st : Stn) : Going s (s.quiesceGate st) := by
  unfold State.quiesceGate
  split
  · exact (State.modStn_stnOnly s st _).going (fun hs => by rw [State.modStn_stn]; exact hs)
      (by rw [State.modStn_stn]; exact Link.endRun_steady _) (by rw [State.modStn_stn]; exact fun _ h => h)
  · exact Going.refl s

/-- What leaves the layout takes nothing back that has left the package, and no lane's sequence number moves with it. -/
theorem State.popSent_steady (s : State) (st : Stn) :
    OutGrows s (s.popSent st) ∧ ∀ l, ((s.popSent st).stns[st]).nextSeq l = (s.stns[st]).nextSeq l := by
  unfold State.popSent
  extract_lets t s1
  split
  · exact ⟨OutGrows.refl s, fun _ => rfl⟩
  · split
    · extract_lets s2
      have one (l : Lane) : (s1.stns[st]).nextSeq l = (s.stns[st]).nextSeq l := by
        simp only [s1]
        rw [State.modStn_stn]
        unfold Station.nextSeq Station.modLink
        simp only [Fin.getElem_fin, Vector.getElem_map]
      have two : Going _ s2 := (State.posSent_going s1 st _).trans (State.settle_going ..)
      have filled : Going s2 (s2.modStn st fun t => t.modWrite Write.fillOver) := State.modStn_going s2 st _ rfl rfl (by
        unfold Station.modWrite Write.fillOver
        dsimp only
        split <;> exact fun _ h => h)
      have three := (two.trans filled).trans (State.quiesceGate_going _ st)
      have moved (p : TxPos) : OutGrows s (s1.posMoved st p) := .of_eq rfl
      exact ⟨(moved _).trans three.left, fun l => (three.seqs st l).trans ((State.posMoved_nextSeq ..).trans (one l))⟩
    · exact ⟨OutGrows.refl s, fun _ => rfl⟩

/-- A lane that is up sends a codeword at the polarity of its pair and counts its sequence on. -/
theorem State.txFrame_sends (s : State) (st : Stn) (lane : Lane) (n : Nat) (up : ((s.stns[st]).link.lanes[lane]).up = true) :
    ∃ m, Out.frame st lane (polarity (s.img.inverts st.val lane.val false) (lineOf m)) ∈ (s.txFrame st lane n).out ∧
      ((s.txFrame st lane n).stns[st]).nextSeq lane = (s.stns[st]).nextSeq lane + 1 := by
  unfold State.txFrame
  extract_lets d t k l idle leads slots n' req seek point sb wg m line k1 k2 s1
  rw [if_neg (by simp only [l, k, t, up]; decide)]
  have lanes : k1.lanes = k.lanes := by
    simp only [k1]
    clear_value req
    cases req <;> rfl
  obtain ⟨left, seqs⟩ := State.popSent_steady s1 st
  have sent : Out.frame st lane (polarity (s.img.inverts st.val lane.val false) line) ∈ s1.out := List.mem_cons_self
  refine ⟨_, left.mem _ sent, (seqs lane).trans ?_⟩
  refine (congrArg (fun x : Station => x.nextSeq lane) (State.modStn_stn ..)).trans ?_
  unfold Station.nextSeq
  dsimp only
  refine (congrArg LaneRx.txSeq (vmod_get_self ..)).trans ?_
  rw [lanes]
  rfl

/-! ### Sideband containers -/

/-- A slot whose container no lane brought. -/
theorem exec_sidebandContainer_missing (s : State) (st : Stn) (slot : BitVec 16)
    (none_ : ∀ x ∈ (s.stns[st]).link.inBox, boxField x.2 0 16 ≠ slot.toNat) :
    ∃ t, exec (.sidebandContainer st slot) s = .next t ∧ (t.stns[st]).servo = (((s.stns[st]).servo.period slot none).slotComes slot).spoil slot := by
  have miss (b : Bool) : ((s.stns[st]).link.inBox.find? fun x => x.1 == b && boxField x.2 0 16 == slot.toNat) = none :=
    List.find?_eq_none.2 fun x hx => by simp [none_ x hx]
  refine ⟨_, rfl, ?_⟩
  unfold State.container
  extract_lets k hit s0
  have gone : (hit true <|> hit false) = none := by
    show ((s.stns[st]).link.inBox.find? _ <|> (s.stns[st]).link.inBox.find? _) = none
    rw [miss, miss]; rfl
  rw [gone, State.modStn_stn, State.modStn_stn]
  rfl

theorem Servo.spoil_keeps (v : Servo) (slot : BitVec 16) :
    slot ∈ (v.spoil slot).badSlots ∧ (v.spoil slot).lastBox = v.lastBox ∧ (v.spoil slot).perBox = v.perBox ∧ (v.spoil slot).reelSeen = v.reelSeen ∧
      (v.spoil slot).auxSeen = v.auxSeen := ⟨List.mem_cons_self, rfl, rfl, rfl, rfl⟩

theorem Servo.period_lastBox (v : Servo) (slot : BitVec 16) (x : Option (BitVec 208)) : (v.period slot x).lastBox = v.lastBox := by
  unfold Servo.period; split <;> rfl

/-- The slot that begins a reel period brings its reading. -/
theorem Servo.period_begins (v : Servo) {slot : BitVec 16} (x : Option (BitVec 208)) (h : slot = v.perNext) :
    (v.period slot x).perBox = x.getD v.perBox ∧ (v.period slot x).reelSeen = x.isSome ∧ (v.period slot x).auxSeen = x.isSome := by
  unfold Servo.period
  rw [if_neg (by simpa using h)]
  exact ⟨rfl, rfl, rfl⟩

theorem State.count_when_servo (s : State) (st : Stn) (c : Prop) [Decidable c] (track : Nat) (kinds : List Nat) :
    ((if c then s.count st track kinds else s).stns[st]).servo = (s.stns[st]).servo := by
  split
  · unfold State.count
    rw [State.modStn_stn]; rfl
  · rfl

theorem State.count_when_inBox (s : State) (st : Stn) (c : Prop) [Decidable c] (track : Nat) (kinds : List Nat) :
    ((if c then s.count st track kinds else s).stns[st]).link.inBox = (s.stns[st]).link.inBox := by
  split
  · unfold State.count
    rw [State.modStn_stn]; rfl
  · rfl

/-- A servo whose slot brought a container: the period and the crossings, and the slot spoilt where the container says so. -/
def Servo.boxed (v : Servo) (slot : BitVec 16) (x : BitVec 208) : Servo :=
  let u := (v.period slot (some x)).slotComes slot
  let all := u.crossings ++ crossingsOf x
  let u1 := { u with lastBox := x, crossings := all.drop (all.length - 80) }
  if boxBit x 19 then u1.spoil slot else u1

theorem Servo.boxed_keeps (v : Servo) (slot : BitVec 16) (x : BitVec 208) : (v.boxed slot x).lastBox = x ∧
    (v.boxed slot x).perBox = (v.period slot (some x)).perBox ∧ (v.boxed slot x).reelSeen = (v.period slot (some x)).reelSeen ∧
    (v.boxed slot x).auxSeen = (v.period slot (some x)).auxSeen := by
  unfold Servo.boxed
  split <;> exact ⟨rfl, rfl, rfl, rfl⟩

/-- The container that lane 0 brought for a slot is taken. -/
theorem exec_sidebandContainer_brought (s : State) (st : Stn) (slot : BitVec 16) {x : Bool × BitVec 208}
    (found : (s.stns[st]).link.inBox.find? (fun y => y.1 == true && boxField y.2 0 16 == slot.toNat) = some x) :
    ∃ t, exec (.sidebandContainer st slot) s = .next t ∧ (t.stns[st]).servo.lastBox = x.2 ∧
      (slot = (s.stns[st]).servo.perNext → (t.stns[st]).servo.perBox = x.2 ∧ (t.stns[st]).servo.reelSeen = true ∧ (t.stns[st]).servo.auxSeen = true) ∧
      ∀ y ∈ (t.stns[st]).link.inBox, boxField y.2 0 16 ≠ slot.toNat := by
  refine ⟨_, rfl, ?_⟩
  unfold State.container
  extract_lets k hit s0
  have taken : (hit true <|> hit false) = some x := by
    show ((s.stns[st]).link.inBox.find? _ <|> _) = _
    rw [found]; rfl
  rw [taken]
  obtain ⟨b, box⟩ := x
  dsimp only
  rw [State.count_when_servo, State.count_when_servo, State.count_when_inBox, State.count_when_inBox, State.modStn_stn, State.modStn_stn]
  obtain ⟨last, per, reel, aux⟩ := Servo.boxed_keeps (s.stns[st]).servo slot box
  refine ⟨last, fun begins => ?_, fun y hy => ?_⟩
  · obtain ⟨hp, hr, ha⟩ := Servo.period_begins (s.stns[st]).servo (some box) begins
    exact ⟨per.trans hp, reel.trans hr, aux.trans ha⟩
  · simpa using (List.mem_filter.1 hy).2

/-- Settles O45: each row by the rules of its frame or its container above. -/
theorem framesAndContainers : Obligations.FramesAndContainers := by
  unfold Obligations.FramesAndContainers
  intro s st lane
  extract_lets l
  refine ⟨fun down f n => ?_, fun m => State.received_lineOf s st lane m, fun f up unfixed => ?_, fun f up data dfail side => ?_, fun n up => ?_,
    fun slot none_ => ?_, fun slot x found => exec_sidebandContainer_brought s st slot found⟩
  · have closed : (!l.up) = true := by rw [down]; rfl
    exact ⟨congrArg Host.Outcome.next (if_pos closed), congrArg Host.Outcome.next (if_pos closed)⟩
  · refine ⟨_, exec_upstreamFrame_unfixed s st lane f up unfixed, ?_⟩
    rw [State.modStn_stn, Station.modLink_lane]
    exact LaneRx.take_of_unfixed _ unfixed
  · refine ⟨_, exec_upstreamFrame_data s st lane f up data dfail side, ?_⟩
    rw [State.modStn_stn, Station.modLink_lane]
    exact LaneRx.take_of_data _ data
  · obtain ⟨m, sent, seq⟩ := State.txFrame_sends s st lane n up
    exact ⟨_, m, rfl, sent, seq⟩
  · obtain ⟨t, run, servo⟩ := exec_sidebandContainer_missing s st slot none_
    obtain ⟨bad, last, -, reel, aux⟩ := Servo.spoil_keeps (((s.stns[st]).servo.period slot none).slotComes slot) slot
    rw [← servo] at bad last reel aux
    refine ⟨t, run, bad, last.trans (Servo.period_lastBox ..), fun begins => ?_⟩
    obtain ⟨-, hr, ha⟩ := Servo.period_begins (s.stns[st]).servo none begins
    exact ⟨reel.trans hr, aux.trans ha⟩

end Sys2Proof.Machine
end

section
/-!
PROOFS of ENGINE_DISPATCH and ENGINE_LANE_FAULT (01, R18, R19, R36, R37; 08, R252).
-/
namespace Sys2Proof.Machine

/-! ### What a job that fails leaves of the engines -/

/-- Events that were raised stay raised, and the engine regions keep their lanes (`Engine.Kept`). -/
structure LanesKept (s t : State) : Prop where
  flagged : ∀ n, s.flagged n → t.flagged n
  lanes : ∀ (d : DieId) (r : Fin 4), ((s.dies[d]).engines[r]).Kept (t.dies[d]).engines[r]

theorem LanesKept.refl (s : State) : LanesKept s s := ⟨fun _ h => h, fun _ _ => Engine.Kept.refl _⟩

theorem LanesKept.trans {s t u : State} (h : LanesKept s t) (k : LanesKept t u) : LanesKept s u :=
  ⟨fun n hn => k.flagged n (h.flagged n hn), fun d r => (h.lanes d r).trans (k.lanes d r)⟩

theorem Going.lanesKept {s t : State} (h : Going s t) : LanesKept s t := ⟨h.flagged, h.lanes⟩

theorem foldl_lanesKept {α : Type} {f : State → α → State} (h : ∀ a x, LanesKept a (f a x)) (l : List α) (s : State) : LanesKept s (l.foldl f s) := by
  induction l generalizing s with
  | nil => exact LanesKept.refl s
  | cons x l ih => exact (h s x).trans (ih _)

theorem State.modQp_lanesKept (s : State) (p : Port) (q : Nat) (f : Qp → Qp) : LanesKept s (s.modQp p q f) := by
  refine ⟨fun n hn p' => ?_, fun _ _ => Engine.Kept.refl _⟩
  unfold State.modQp
  rw [State.modPort_ports, vmod_get]
  split <;> exact hn p'

theorem State.modDie_lanesKept (s : State) (d : DieId) (f : Die → Die) (h : ∀ x : Die, x.Stays (f x)) : LanesKept s (s.modDie d f) :=
  (State.modDie_woken s d f h).going.lanesKept

theorem State.dropWaits_lanesKept (s : State) (f : Waiter → Bool) : LanesKept s (s.dropWaits f) :=
  (State.modDie_lanesKept s 0 _ (by exact fun _ => Die.Stays.of_eq ⟨rfl, rfl⟩)).trans
    (State.modDie_lanesKept _ 1 _ (by exact fun _ => Die.Stays.of_eq ⟨rfl, rfl⟩))

theorem State.rekey_lanesKept (s : State) (st : Stn) (mnt : BitVec 32) (lon : Nat) : LanesKept s (s.rekey st mnt lon) := by
  unfold State.rekey
  split
  · exact LanesKept.refl s
  · split
    · split
      · exact State.modQp_lanesKept ..
      · exact LanesKept.refl s
    · exact LanesKept.refl s

theorem State.modStn_lanesKept (s : State) (st : Stn) (f : Station → Station) : LanesKept s (s.modStn st f) :=
  ⟨fun _ h => h, fun _ _ => Engine.Kept.refl _⟩

theorem StnOnly.lanesKept {st : Stn} {s t : State} (h : StnOnly st s t) : LanesKept s t := ⟨fun _ hn => h.flagged hn, h.lanes⟩

theorem State.untakeAppend_lanesKept (s : State) (r : CmdRef) : LanesKept s (s.untakeAppend r) := by
  unfold State.untakeAppend
  split
  · exact LanesKept.refl s
  next k _ =>
    extract_lets st later s1 s2 s3
    have ended : LanesKept s s1 := (State.finishAll_going ..).lanesKept
    have freed : LanesKept s1 s2 := foldl_lanesKept (f := fun a (c : CmdRef) => a.dropWaits fun w => w.use == .command c.port c.qid c.tag)
      (fun a c => State.dropWaits_lanesKept a _) later s1
    have shorter : LanesKept s2 s3 := by
      refine LanesKept.trans ?_ (State.modStn_lanesKept ..)
      split
      · exact (State.dropJobs_stnOnly s2 st _).lanesKept
      · exact LanesKept.refl s2
    refine ((ended.trans freed).trans shorter).trans ?_
    split
    · exact State.modQp_lanesKept ..
    · exact State.rekey_lanesKept ..

theorem State.recallFails_going (s : State) (st : Stn) (hit : Cmd → Bool) (mig : Bool) (lon n : Nat) : Going s (s.recallFails st hit mig lon n) := by
  unfold State.recallFails
  extract_lets s1 s2
  have ended : Going s s1 := State.finishAll_going ..
  have halted : Going s1 s2 := by
    simp only [s2]
    split
    · split
      · exact State.migHalt_going ..
      · exact Going.refl s1
    · exact Going.refl s1
  exact (ended.trans halted).trans (State.endReading_going ..)

theorem State.labelFails_going (s : State) (st : Stn) (gnum n : Nat) : Going s (s.labelFails st gnum n) := by
  unfold State.labelFails
  extract_lets t mig
  split
  · split
    · exact Going.refl s
    · clear_value mig
      cases mig with
      | some j => exact State.migHalt_going ..
      | none =>
        dsimp only
        split
        · exact (State.finish_going ..).trans (State.modStn_going _ _ _ rfl)
        · exact (State.finish_going ..).trans (State.modStn_going _ _ _ rfl)
        · exact Going.refl s
  · exact Going.refl s

theorem State.burnFrom_writeOnly (s : State) (st : Stn) (n : Nat) : WriteOnly st s (s.burnFrom st n) :=
  (State.giveBack_writeOnly ..).trans (numberLabels_writeOnly ..)

theorem State.mountFail_going (s : State) (st : Stn) (r : CmdRef) (f : Ending) : Going s (s.mountFail st r f) :=
  (State.finish_going ..).trans (State.dropMount_going ..)

/-- A job that met a fenced lane twice ends its command or its record; the regions go on. -/
theorem State.jobFails_lanesKept (s : State) (j : Job) (n : Nat) : LanesKept s (s.jobFails j n) := by
  unfold State.jobFails
  split
  · extract_lets l
    split
    · exact (State.untakeAppend_lanesKept ..).trans ((State.finish_going ..).trans (State.sealGo_going ..)).lanesKept
    · exact ((State.abandonRec_writeOnly ..).going.trans (State.settle_going ..)).lanesKept
  · exact ((((State.finishAll_going ..).trans (State.abandonRec_writeOnly ..).going).trans (State.sealGo_going ..)).trans
      (State.settle_going ..)).lanesKept
  · exact (((State.labelFails_going ..).trans (State.burnFrom_writeOnly ..).going).trans (State.settle_going ..)).lanesKept
  · split
    · exact (State.mountFail_going ..).lanesKept
    · exact (State.recallFails_going ..).lanesKept
  all_goals exact (State.dropJobs_stnOnly s 0 _).lanesKept.trans (State.recallFails_going ..).lanesKept

theorem State.startRerun_lanesKept (s : State) (j : Job) : LanesKept s (s.startRerun j) := by
  unfold State.startRerun
  split
  · exact State.modStn_lanesKept ..
  · exact LanesKept.refl s

/-! ### ENGINE_LANE_FAULT -/

/-- The engine region that a lane fault leaves: the lane fenced, its group with a second one, and the jobs that they held back in the
wait (R36, R37). -/
def Engine.cut (e : Engine) (r : Region) (lane : Nat) (whole : Bool) (again : List Job) : Engine :=
  rejoin again { e with
    fenced := e.fenced ++ [lane], groups := if whole then e.groups ++ [lane / groupSize r] else e.groups
    running := e.running.filter fun x => !(x.1 == lane || (whole && x.1 / groupSize r == lane / groupSize r)) }

/-- A lane that fails takes its group out of service where another lane of it is fenced already. -/
def Engine.losesGroup (e : Engine) (r : Region) (lane : Nat) : Bool :=
  (e.fenced.any fun l => l / groupSize r == lane / groupSize r) && !e.groups.contains (lane / groupSize r)

theorem State.fenceLane_spec (s : State) (d : DieId) (r : Region) (lane : Nat) (lt : lane < laneCount r)
    (fresh : ((s.dies[d]).engines[regionNum r]).fenced.contains lane = false) :
    ∃ again, (((s.dies[d]).engines[regionNum r]).cut r lane (((s.dies[d]).engines[regionNum r]).losesGroup r lane) again).Kept
        ((s.fenceLane d r lane).dies[d]).engines[regionNum r] ∧
      (s.fenceLane d r lane).flagged (192 + 16 * d.val + (regionNum r).val) ∧
      (((s.dies[d]).engines[regionNum r]).losesGroup r lane = true → (s.fenceLane d r lane).flagged (196 + 16 * d.val)) := by
  unfold State.fenceLane
  extract_lets e g whole hit s1 s2 s3 s4
  rw [if_neg (by rintro (h | h) <;> [omega; exact absurd h (by rw [show e.fenced.contains lane = false from fresh]; decide)])]
  have cut : (s1.dies[d]).engines[regionNum r] = e.cut r lane (e.losesGroup r lane) (hit.filter fun j => !j.rerun) := by
    simp only [s1]
    rw [State.modDie_dies, vmod_get_self]
    exact vmod_get_self ..
  have two : LanesKept s1 s2 := (State.raise_going ..).lanesKept
  have three : LanesKept s2 s3 := by
    simp only [s3]
    split
    · exact (State.raise_going ..).lanesKept
    · exact LanesKept.refl s2
  have rest : LanesKept s3 ((hit.filter (·.rerun)).foldl (fun a j => a.jobFails j 0xC) s4) :=
    (foldl_lanesKept State.startRerun_lanesKept _ s3).trans (foldl_lanesKept (fun a j => State.jobFails_lanesKept a j 0xC) _ s4)
  have bound : (regionNum r).val < 4 := (regionNum r).isLt
  have die : d.val < 2 := d.isLt
  refine ⟨hit.filter fun j => !j.rerun, ?_, ?_, fun loses => ?_⟩
  · rw [← cut]
    exact ((two.trans three).trans rest).lanes d (regionNum r)
  · exact (three.trans rest).flagged _ (State.raise_flagged s1 _ _ (by omega))
  · refine rest.flagged _ ?_
    simp only [s3]
    rw [if_pos (show whole = true from loses)]
    exact State.raise_flagged s2 _ _ (by omega)

/-! ### ENGINE_DISPATCH -/

/-- Whether a job goes before another: the lower class, then the older (R19). -/
def State.before (s : State) (j k : Job) : Prop := s.jobClass j < s.jobClass k ∨ (s.jobClass j = s.jobClass k ∧ j.age < k.age)

/-- The first of the least of a list, as the dispatch looks for it. -/
theorem foldl_least (s : State) (l : List Job) (a : Option Job) (j : Job)
    (h : l.foldl (fun a j => match a with
      | none => some j
      | some b => if s.jobClass j < s.jobClass b ∨ (s.jobClass j = s.jobClass b ∧ j.age < b.age) then some j else some b) a = some j) :
    (j ∈ l ∨ a = some j) ∧ (∀ k ∈ l, ¬ s.before k j) ∧ ∀ b, a = some b → ¬ s.before b j := by
  induction l generalizing a with
  | nil =>
    refine ⟨.inr h, by simp, fun b hb => ?_⟩
    rw [show b = j by rw [List.foldl_nil] at h; simpa [hb] using h]
    unfold State.before; omega
  | cons x l ih =>
    rw [List.foldl_cons] at h
    obtain ⟨from_, least, first⟩ := ih _ h
    cases a with
    | none =>
      refine ⟨.inl (from_.elim (List.mem_cons_of_mem _) fun e => by cases e; exact List.mem_cons_self), fun k hk => ?_, by simp⟩
      obtain rfl | hk := List.mem_cons.1 hk
      · exact first _ rfl
      · exact least k hk
    | some b =>
      dsimp only at from_ first
      split at from_
      next lt =>
        rw [if_pos lt] at first
        have fx : ¬ s.before x j := first x rfl
        refine ⟨.inl (from_.elim (List.mem_cons_of_mem _) fun e => by cases e; exact List.mem_cons_self), fun k hk => ?_, fun c hc => ?_⟩
        · obtain rfl | hk := List.mem_cons.1 hk
          · exact fx
          · exact least k hk
        · cases hc
          unfold State.before at *
          omega
      next ge =>
        rw [if_neg ge] at first
        have fb : ¬ s.before b j := first b rfl
        refine ⟨from_.imp (List.mem_cons_of_mem _) id, fun k hk => ?_, fun c hc => by cases hc; exact fb⟩
        obtain rfl | hk := List.mem_cons.1 hk
        · unfold State.before at *
          omega
        · exact least k hk

/-- The job that is dispatched next: of those that have a lane and room, one of the lowest class that has waited longest. -/
theorem State.nextJob_least {s : State} {d : DieId} {r : Region} {j : Job} (h : s.nextJob d r = some j) :
    j ∈ ((s.dies[d]).engines[regionNum r]).waiting ∧ s.jobRoom j = true ∧ (s.laneFor d r j).isSome = true ∧
      ∀ k ∈ ((s.dies[d]).engines[regionNum r]).waiting, s.jobRoom k = true → (s.laneFor d r k).isSome = true → ¬ s.before k j := by
  obtain ⟨from_, least, -⟩ := foldl_least s _ none j h
  have mem := from_.resolve_right (by simp)
  rw [List.mem_filter, Bool.and_eq_true] at mem
  exact ⟨mem.1, mem.2.1, mem.2.2, fun k hk room lane => least k (List.mem_filter.2 ⟨hk, by rw [room, lane]; rfl⟩)⟩

/-- A lane in service that no job holds. -/
def Engine.Free (e : Engine) (r : Region) (l : Nat) : Prop :=
  e.fenced.contains l = false ∧ e.groups.contains (l / groupSize r) = false ∧ ∀ x ∈ e.running, x.1 ≠ l

theorem Engine.serves_iff (e : Engine) (r : Region) (l : Nat) :
    e.serves r l = true ↔ e.fenced.contains l = false ∧ e.groups.contains (l / groupSize r) = false := by
  unfold Engine.serves
  rw [Bool.and_eq_true, Bool.not_eq_true', Bool.not_eq_true']

theorem Engine.freeLane_free {e : Engine} {r : Region} {l : Nat} (h : e.freeLane r = some l) : e.Free r l := by
  have free := List.find?_some h
  rw [Bool.and_eq_true, Engine.serves_iff] at free
  obtain ⟨⟨fenced, group⟩, idle⟩ := free
  exact ⟨fenced, group, fun x hx e => by
    rw [Bool.not_eq_true', List.any_eq_false] at idle
    exact idle x hx (by rw [e]; exact beq_self_eq_true l)⟩

/-- The lane that a job gets is in service and free (R156). -/
theorem State.laneFor_free {s : State} {d : DieId} {r : Region} {j : Job} {l : Nat} (h : s.laneFor d r j = some l) :
    ((s.dies[d]).engines[regionNum r]).Free r l := by
  unfold State.laneFor at h
  extract_lets e last at h
  have serves : ∀ m, last = some m → e.serves r m = true := fun m hm => by
    simp only [last] at hm
    split at hm
    · exact (Option.filter_eq_some_iff.1 hm).2
    · exact absurd hm (by simp)
  clear_value last
  cases last with
  | none => exact Engine.freeLane_free h
  | some m =>
    dsimp only at h
    split at h
    next idle =>
      cases h
      obtain ⟨fenced, group⟩ := (Engine.serves_iff e r l).1 (serves l rfl)
      exact ⟨fenced, group, fun x hx eq => List.find?_eq_none.1 idle x hx (by rw [eq]; exact beq_self_eq_true l)⟩
    · split at h
      · exact Engine.freeLane_free h
      · cases h

/-- Settles O46: the dispatch by the lemmas on the next job and its lane, the lane fault by `State.fenceLane_spec`. -/
theorem engineLanes : Obligations.EngineLanes := by
  unfold Obligations.EngineLanes
  intro s d r
  extract_lets u e e0
  have live' (live : e.inReset = false) : ¬ e.inReset = true := by rw [live]; decide
  refine ⟨rfl, rfl, fun live none_ => ?_, fun live away => ?_, fun l j live near next lane => ⟨?_, State.laneFor_free lane⟩, fun j next => ?_,
    fun lane gone => ?_, fun lane lt fresh => ?_⟩
  · refine congrArg Host.Outcome.next ((if_neg (live' live)).trans ?_)
    rw [none_, ite_self]
  · exact congrArg Host.Outcome.next ((if_neg (live' live)).trans (if_pos away))
  · refine congrArg Host.Outcome.next (((if_neg (live' live)).trans (if_neg near)).trans ?_)
    rw [next]
    dsimp only
    rw [lane]
    rfl
  · obtain ⟨mem, room, lane, least⟩ := State.nextJob_least next
    refine ⟨mem, room, lane, fun k hk hr hl => ?_⟩
    have ge := least k hk hr hl
    unfold State.before at ge
    omega
  · refine congrArg Host.Outcome.next (if_pos gone)
  · obtain ⟨again, kept, flag, group⟩ := State.fenceLane_spec s d r lane lt fresh
    refine ⟨_, rfl, kept.fenced, flag, fun x hx => ?_, fun second whole => ?_⟩
    · have one := (List.mem_filter.1 (kept.running x hx)).2
      intro eq
      rw [eq] at one
      simp at one
    · have loses : e0.losesGroup r lane = true := by
        unfold Engine.losesGroup
        rw [second, whole]; rfl
      refine ⟨?_, group loses⟩
      rw [kept.groups]
      show _ ∈ (if e0.losesGroup r lane = true then _ else _)
      rw [if_pos loses]
      exact List.mem_append_right _ (List.mem_singleton.2 rfl)

end Sys2Proof.Machine
end

section
/-!
PROOFS of INTAKE_DONE, BLOCK_EMIT, RIGHT_AWAY_MARK, CHECK_FAIL and ENCRYPTION_DONE (04, R105, R108, R111, R113; 10, R331, R340, R470).
-/
namespace Sys2Proof.Machine

/-! ### A station that settles with no FLUSH and no closure -/

/-- A station whose volume is not being closed, and which owes no FLUSH. -/
structure Station.Open (t : Station) (v : VolCtx) : Prop where
  ctx : t.ctx = some v
  closing : v.closing = .none
  flushes : t.write.flushes = []

theorem State.settle_packs {s : State} {st : Stn} {v : VolCtx} (h : (s.stns[st]).Open v) : (s.stns[st]).Packs (s.settle st).stns[st] := by
  unfold State.settle
  split
  · exact .refl _
  · rw [State.flushesDone_open (fun j hj => by rw [h.flushes] at hj; cases hj), State.closeAll_idle h.ctx h.closing]
    exact (State.assembleAll_packs s st).trans ((State.freeSpent_woken (s.assembleAll st) st).stns st)

/-- The records of such a station go on while it settles. -/
theorem State.settle_rec {s : State} {st : Stn} {v : VolCtx} (h : (s.stns[st]).Open v) {lon : Nat} {r : Rec} (hr : v.rec? lon = some r) :
    ∃ v' r', ((s.settle st).stns[st]).ctx = some v' ∧ v'.rec? lon = some r' ∧ r.Packs r' := by
  obtain ⟨v', ctx', packs⟩ := (State.settle_packs h).ctx v h.ctx
  obtain ⟨r', found, same⟩ := packs.rec? hr
  exact ⟨v', r', ctx', found, same⟩

theorem State.sealGo_none {s : State} {st : Stn} {v : VolCtx} (ctx : (s.stns[st]).ctx = some v) (h : v.sealCmd = none) : s.sealGo st = s := by
  unfold State.sealGo
  rw [ctx]
  dsimp only
  rw [h]

/-! ### One record changed -/

theorem State.modRec_stn (s : State) (st : Stn) (lon : Nat) (f : Rec → Rec) :
    (s.modRec st lon f).stns[st] = { s.stns[st] with ctx := (s.stns[st]).ctx.map fun v => v.modRec lon f } := State.modStn_stn ..

theorem State.modRec_writeOnly (s : State) (st : Stn) (lon : Nat) (f : Rec → Rec) : WriteOnly st s (s.modRec st lon f) :=
  modCtx_writeOnly s st _ fun _ => rfl

theorem Station.Open.modRec {s : State} {st : Stn} {v : VolCtx} (h : (s.stns[st]).Open v) (lon : Nat) (f : Rec → Rec) :
    ((s.modRec st lon f).stns[st]).Open (v.modRec lon f) := by
  rw [State.modRec_stn]
  exact ⟨by rw [h.ctx]; rfl, h.closing, h.flushes⟩

theorem Station.Open.of_stn {t u : Station} {v : VolCtx} (h : t.Open v) (ctx : u.ctx = t.ctx) (flushes : u.write.flushes = t.write.flushes) : u.Open v :=
  ⟨ctx.trans h.ctx, h.closing, flushes.trans h.flushes⟩

theorem State.rec?_eq {s : State} {st : Stn} {v : VolCtx} (ctx : (s.stns[st]).ctx = some v) (lon : Nat) : s.rec? st lon = v.rec? lon := by
  unfold State.rec?
  rw [ctx]; rfl

theorem modAt_get {α : Type} (l : List α) (i : Nat) (f : α → α) : (modAt l i f)[i]? = l[i]?.map f := by
  unfold modAt
  rw [List.getElem?_mapIdx]
  simp

theorem modAt_map {α β : Type} (l : List α) (i : Nat) (f : α → α) (g : α → β) (h : ∀ x, g (f x) = g x) : (modAt l i f).map g = l.map g := by
  refine List.ext_getElem? fun j => ?_
  unfold modAt
  rw [List.getElem?_map, List.getElem?_mapIdx, List.getElem?_map, Option.map_map]
  congr 1
  funext x
  dsimp only [Function.comp]
  split
  · exact h x
  · rfl

theorem modAt_length {α : Type} (l : List α) (i : Nat) (f : α → α) : (modAt l i f).length = l.length := by
  unfold modAt
  rw [List.length_mapIdx]

/-! ### INTAKE_DONE -/

section
variable {s : State} {r : CmdRef} {k : Cmd} {v : VolCtx} {x : Rec} {data : List Byte} (cmd : s.cmd? r = some k) (opc : k.entry.opc = 1)
  (moving : k.phase = .moving) (len : data.length = k.entry.dlen.toNat) (ctx : (s.stns[k.entry.st]).ctx = some v) (rec_ : v.rec? k.lon = some x)
  (due : x.accepted = k.count) (runs : s.jobRuns (dieOf k.entry.st) rHash (.hash k.entry.st k.lon) = true)
include cmd opc moving len ctx rec_ due runs

/-- The hash job of a record's last APPEND has left its region. -/
def State.hashed (s : State) (k : Cmd) : State := if k.entry.flag apEnd then s.dropJobs fun j => j == .hash k.entry.st k.lon else s

omit cmd opc moving len ctx rec_ due runs in
theorem State.hashed_stnOnly (s : State) (k : Cmd) : StnOnly k.entry.st s (s.hashed k) ∧ (s.hashed k).stns = s.stns := by
  unfold State.hashed
  split
  · exact ⟨State.dropJobs_stnOnly .., rfl⟩
  · exact ⟨StnOnly.refl .., rfl⟩

theorem State.intake_poisoned : (s.intake r data true) =
    (((((s.hashed k).raise (227 + 8 * r.port.val)).finish r { status := 8, lon := k.lon, aux0 := k.count }).abandonRec k.entry.st k.lon .lost).sealGo
      k.entry.st).settle k.entry.st := by
  unfold State.intake
  rw [cmd]
  dsimp only
  rw [ctx, Option.bind_some, rec_]
  refine (if_neg (by simp [opc, moving, len, due, runs])).trans ?_
  exact if_pos rfl

/-- Poisoned data ends its APPEND, and raises the event of its port. -/
theorem exec_intakeDone_poisoned : ∃ t, exec (.intakeDone r.port r.qid r.tag data true) s = .next t ∧ t.answered r 8 ∧ t.flagged (227 + 8 * r.port.val) := by
  refine ⟨s.intake r data true, rfl, ?_⟩
  rw [State.intake_poisoned cmd opc moving len ctx rec_ due runs]
  have port : r.port.val < 2 := r.port.isLt
  have raised : ((s.hashed k).raise (227 + 8 * r.port.val)).flagged (227 + 8 * r.port.val) := State.raise_flagged _ _ _ (by omega)
  have found : ((s.hashed k).raise (227 + 8 * r.port.val)).cmd? r = some k := by
    refine (State.cmd_congr r ((State.raise_events _ _ _).qps r.port)).trans ?_
    exact (State.cmd_congr r (by rw [(State.hashed_stnOnly s k).1.ports])).trans cmd
  generalize (s.hashed k).raise (227 + 8 * r.port.val) = u at raised found
  have done_ := State.answered_of_ended (State.finish_ended found { status := 8, lon := k.lon, aux0 := k.count })
  have first : Going u (u.finish r { status := 8, lon := k.lon, aux0 := k.count }) := State.finish_going ..
  generalize u.finish r { status := 8, lon := k.lon, aux0 := k.count } = w at done_ first
  have rest := ((State.abandonRec_writeOnly w k.entry.st k.lon .lost).going.trans (State.sealGo_going _ k.entry.st)).trans (State.settle_going _ k.entry.st)
  exact ⟨rest.dones.answered done_, rest.flagged _ (first.flagged _ raised)⟩

/-- A record that has accepted the data of one more of its APPENDs. -/
def Rec.takes (k : Cmd) (data : List Byte) (x : Rec) : Rec :=
  let y := { x with accepted := x.accepted + data.length, input := x.input ++ data, complete := x.complete || k.entry.flag apEnd }
  if k.entry.flag apEnd then { y with hash := some (sha384 y.input) } else y

omit cmd opc moving len ctx rec_ due runs in
theorem Rec.takes_keeps (k : Cmd) (data : List Byte) (x : Rec) :
    (x.takes k data).lon = x.lon ∧ (x.takes k data).accepted = x.accepted + data.length ∧ (x.takes k data).input = x.input ++ data := by
  unfold Rec.takes
  split <;> exact ⟨rfl, rfl, rfl⟩

/-- The package once a record has accepted data: its compression job waits. -/
def State.dataIn (s : State) (k : Cmd) (data : List Byte) : State :=
  let u := (s.hashed k).modRec k.entry.st k.lon (Rec.takes k data)
  u.addJob (dieOf k.entry.st) rComp (u.compressJob k.entry.st k.lon)

theorem State.intake_clean (alive : x.abandon = none) : s.intake r data false = (((s.dataIn k data).endAppend r k k.lon
    (if k.entry.flag apEnd then some (sha384 (x.input ++ data)) else none)).sealGo k.entry.st).settle k.entry.st := by
  unfold State.intake
  rw [cmd]
  dsimp only
  rw [ctx, Option.bind_some, rec_]
  refine (if_neg (by simp [opc, moving, len, due, runs])).trans ?_
  dsimp only
  rw [alive]
  rfl

omit opc moving len ctx rec_ due runs in
theorem State.endAppend_ended (clean : k.poisoned = false) (lon : Nat) (hash : Option (List Byte)) :
    (s.endAppend r k lon hash).answered r 0 ∧ (s.endAppend r k lon hash).stns = s.stns := by
  have plain : (s.finish r (.ok lon)).answered r 0 ∧ (s.finish r (.ok lon)).stns = s.stns :=
    ⟨State.answered_of_ended (State.finish_ended cmd (.ok lon)), by rw [State.finish_portsOnly s r (.ok lon)]⟩
  unfold State.endAppend
  split
  next h =>
    split
    · exact ⟨State.answered_of_ended (State.finishWith_ended (f := { status := 0, result := lon, lon := lon }) cmd (.inl clean)),
        by rw [State.finishWith_portsOnly s r { status := 0, result := lon, lon := lon } h]⟩
    · exact plain
  · exact plain

/-- The data of an APPEND counts as accepted, and the APPEND completes. -/
theorem exec_intakeDone_clean (alive : x.abandon = none) (open_ : (s.stns[k.entry.st]).Open v) (unsealed : v.sealCmd = none) (clean : k.poisoned = false) :
    ∃ t v' x', exec (.intakeDone r.port r.qid r.tag data false) s = .next t ∧ t.answered r 0 ∧ (t.stns[k.entry.st]).ctx = some v' ∧
      v'.rec? k.lon = some x' ∧ x'.accepted = x.accepted + data.length ∧ x'.input = x.input ++ data := by
  have run : exec (.intakeDone r.port r.qid r.tag data false) s = .next (s.intake r data false) := rfl
  rw [State.intake_clean cmd opc moving len ctx rec_ due runs alive] at run
  have hashed := State.hashed_stnOnly s k
  have found : (s.dataIn k data).cmd? r = some k := by
    have ports : (s.dataIn k data).ports = s.ports :=
      (State.modRec_writeOnly (s.hashed k) k.entry.st k.lon (Rec.takes k data)).ports.trans hashed.1.ports
    exact (State.cmd_congr r (by rw [ports])).trans cmd
  have here : ((s.dataIn k data).stns[k.entry.st]).Open (v.modRec k.lon (Rec.takes k data)) :=
    Station.Open.modRec (s := s.hashed k) (by rw [hashed.2]; exact open_) k.lon _
  have mine : (v.modRec k.lon (Rec.takes k data)).rec? k.lon = some (x.takes k data) := by
    rw [VolCtx.rec_modRec _ _ _ fun y => (Rec.takes_keeps k data y).1, rec_]
    rfl
  generalize s.dataIn k data = u at run found here
  obtain ⟨done_, stns⟩ := State.endAppend_ended found clean k.lon (if k.entry.flag apEnd then some (sha384 (x.input ++ data)) else none)
  generalize u.endAppend r k k.lon (if k.entry.flag apEnd then some (sha384 (x.input ++ data)) else none) = w at run done_ stns
  have here' : (w.stns[k.entry.st]).Open (v.modRec k.lon (Rec.takes k data)) := by rw [stns]; exact here
  rw [State.sealGo_none here'.ctx unsealed] at run
  obtain ⟨v', x', ctx', found', packs⟩ := State.settle_rec here' mine
  obtain ⟨-, accepted, input⟩ := Rec.takes_keeps k data x
  exact ⟨_, v', x', run, (State.settle_going w k.entry.st).dones.answered done_, ctx', found',
    by rw [packs]; exact accepted, by rw [packs]; exact input⟩

end

/-! ### BLOCK_EMIT -/

theorem State.afterBlock_stns (s : State) (st : Stn) (lon : Nat) : (s.afterBlock st lon).stns = s.stns := by
  unfold State.afterBlock
  dsimp only
  split
  · rfl
  split
  · rfl
  split
  · split <;> rfl
  · rfl

theorem exec_blockEmit_idle {s : State} {st : Stn} {lon : Nat} (h : s.jobRuns (dieOf st) rComp (.compress st lon) = false) :
    exec (.blockEmit st lon) s = .next s := by
  have away : ((s.dies[dieOf st]).engines[rComp]).laneOf (.compress st lon) = none := by
    unfold Engine.laneOf
    rw [List.find?_eq_none.2 fun w hw e => ?_, Option.map_none]
    unfold State.jobRuns at h
    exact absurd e (List.any_eq_false.1 h w hw)
  refine congrArg Host.Outcome.next ?_
  rw [away]
  split
  · rfl
  · rfl
  next h => cases h

section
variable {s : State} {st : Stn} {v : VolCtx} {lon : Nat} {r : Rec} {l : Nat} (open_ : (s.stns[st]).Open v) (rec_ : v.rec? lon = some r)
include open_ rec_

/-- A block that is emitted joins its record. -/
theorem exec_blockEmit_new {b : Block} (alive : r.abandon = none) (first : r.redo = none)
    (lane : ((s.dies[dieOf st]).engines[rComp]).laneOf (.compress st lon) = some l) (room : r.stream.length + 131075 ≤ r.outCap)
    (emits : r.emitBlock l = some b) : ∃ t v' r', exec (.blockEmit st lon) s = .next t ∧ (t.stns[st]).ctx = some v' ∧ v'.rec? lon = some r' ∧
      r'.blocks = r.blocks ++ [b] ∧ r'.accepted = r.accepted := by
  have run : exec (.blockEmit st lon) s = .next ((((s.modRec st lon fun r => { r with blocks := r.blocks ++ [b] }).modStn st fun t => t.modSpeed fun x =>
      { x with fed := x.fed ++ [(s.clock, b.bytes.length)], taken := x.taken ++ [(s.clock, b.len, b.bytes.length)] }).afterBlock st lon).settle st) := by
    refine congrArg Host.Outcome.next ?_
    rw [State.rec?_eq open_.ctx, rec_, lane]
    dsimp only
    rw [first]
    dsimp only
    rw [if_neg (by rw [alive]; simpa using room), emits]
  have here := open_.modRec lon (fun r => { r with blocks := r.blocks ++ [b] })
  have mine : (v.modRec lon fun r => { r with blocks := r.blocks ++ [b] }).rec? lon = some { r with blocks := r.blocks ++ [b] } := by
    rw [VolCtx.rec_modRec _ _ _ (by exact fun _ => rfl), rec_]; rfl
  generalize s.modRec st lon (fun r => { r with blocks := r.blocks ++ [b] }) = u at run here
  have after : ((((u.modStn st fun t => t.modSpeed fun x => { x with
      fed := x.fed ++ [(s.clock, b.bytes.length)], taken := x.taken ++ [(s.clock, b.len, b.bytes.length)] }).afterBlock st lon)).stns[st]).Open
        (v.modRec lon fun r => { r with blocks := r.blocks ++ [b] }) := by
    rw [State.afterBlock_stns, State.modStn_stn]
    exact here.of_stn rfl rfl
  obtain ⟨v', r', ctx', found, packs⟩ := State.settle_rec after mine
  exact ⟨_, v', r', run, ctx', found, by rw [packs], by rw [packs]⟩

/-- A block that is emitted again keeps its bytes. -/
theorem exec_blockEmit_again {i : Nat} (redo : r.redo = some i) (lane : ((s.dies[dieOf st]).engines[rComp]).laneOf (.compress st lon) = some l) :
    ∃ t v' r', exec (.blockEmit st lon) s = .next t ∧ (t.stns[st]).ctx = some v' ∧ v'.rec? lon = some r' ∧
      r'.blocks.map (·.bytes) = r.blocks.map (·.bytes) ∧ r'.redo = if i + 1 < r.blocks.length then some (i + 1) else none := by
  refine ⟨(s.modRec st lon fun r => { r with
      blocks := modAt r.blocks i fun b => { b with lane := l }
      redo := if i + 1 < r.blocks.length then some (i + 1) else none }).afterBlock st lon, v.modRec lon fun r => { r with
      blocks := modAt r.blocks i fun b => { b with lane := l }
      redo := if i + 1 < r.blocks.length then some (i + 1) else none }, { r with
      blocks := modAt r.blocks i fun b => { b with lane := l }
      redo := if i + 1 < r.blocks.length then some (i + 1) else none }, ?_, ?_, ?_, modAt_map _ _ _ _ (by exact fun _ => rfl), rfl⟩
  · refine congrArg Host.Outcome.next ?_
    rw [State.rec?_eq open_.ctx, rec_, lane]
    dsimp only
    rw [redo]
  · rw [State.afterBlock_stns, State.modRec_stn]
    dsimp only
    rw [open_.ctx]; rfl
  · rw [VolCtx.rec_modRec _ _ _ (by exact fun _ => rfl), rec_]; rfl

end

/-! ### The release of gatherings -/

/-- The records of a volume go on, its numbers rise, and its gatherings keep theirs and whether they are encrypted. -/
structure Station.GoesOn (t : Station) (v : VolCtx) (u : Station) (v' : VolCtx) : Prop where
  recs : ∀ lon r, v.rec? lon = some r → ∃ r', v'.rec? lon = some r' ∧ r.Packs r'
  gnum : v.gnum ≤ v'.gnum
  gaths : ∀ g' ∈ u.write.gaths, (∃ g ∈ t.write.gaths, g'.gnum = g.gnum ∧ g'.encrypted = g.encrypted) ∨ v.gnum ≤ g'.gnum

theorem Station.GoesOn.trans {a b c : Station} {x y z : VolCtx} (h : a.GoesOn x b y) (k : b.GoesOn y c z) : a.GoesOn x c z where
  recs := fun lon r hr => by
    obtain ⟨r1, h1, p1⟩ := h.recs lon r hr
    obtain ⟨r2, h2, p2⟩ := k.recs lon r1 h1
    exact ⟨r2, h2, p1.trans p2⟩
  gnum := h.gnum.trans k.gnum
  gaths := fun g hg => by
    obtain ⟨g1, h1, n1, e1⟩ | ge := k.gaths g hg
    · obtain ⟨g0, h0, n0, e0⟩ | ge := h.gaths g1 h1
      · exact .inl ⟨g0, h0, n1.trans n0, e1.trans e0⟩
      · exact .inr (by rw [n1]; exact ge)
    · exact .inr (h.gnum.trans ge)

theorem Station.Packs.goesOn {t u : Station} {v : VolCtx} (h : t.Packs u) (ctx : t.ctx = some v) : ∃ v', u.ctx = some v' ∧ t.GoesOn v u v' ∧ v.Packs v' := by
  obtain ⟨v', e, p⟩ := h.ctx v ctx
  refine ⟨v', e, ⟨fun lon r hr => p.rec? hr, p.gnum, fun g' hg => ?_⟩, p⟩
  obtain ⟨g, hg, same⟩ | ⟨m, hm, le⟩ := h.write.made g' hg
  · exact .inl ⟨g, hg, by rw [same], by rw [same]⟩
  · rw [ctx] at hm
    cases hm
    exact .inr le

theorem releaseList_mem (v : VolCtx) {l : List Gath} {g' : Gath} (h : g' ∈ releaseList v l) : ∃ g ∈ l, g'.gnum = g.gnum ∧ g'.encrypted = g.encrypted := by
  induction l with
  | nil => cases h
  | cons g l ih =>
    unfold releaseList at h
    have later : g' ∈ releaseList v l → ∃ x ∈ g :: l, g'.gnum = x.gnum ∧ g'.encrypted = x.encrypted := fun hl => by
      obtain ⟨x, hx, same⟩ := ih hl
      exact ⟨x, List.mem_cons_of_mem _ hx, same⟩
    split at h
    · obtain rfl | hl := List.mem_cons.1 h
      · exact ⟨_, List.mem_cons_self, rfl, rfl⟩
      · exact later hl
    · split at h
      · obtain rfl | hl := List.mem_cons.1 h
        · exact ⟨_, List.mem_cons_self, rfl, rfl⟩
        · exact later hl
      · exact ⟨g', h, rfl, rfl⟩

theorem State.releaseHere_open {s : State} {st : Stn} {v : VolCtx} (h : (s.stns[st]).Open v) :
    ∃ v', ((s.releaseHere st).stns[st]).Open v' ∧ (s.stns[st]).GoesOn v (s.releaseHere st).stns[st] v' := by
  unfold State.releaseHere
  rw [State.modStn_stn, h.ctx]
  dsimp only
  refine ⟨_, ⟨rfl, ?_, h.flushes⟩, fun lon r hr => ⟨r, ?_, .refl r⟩, ?_, fun g' hg => .inl (releaseList_mem v hg)⟩
  · split <;> exact h.closing
  · split <;> exact hr
  · split <;> exact le_refl v.gnum

theorem Station.flushes_of_works {t : Station} (h : t.write.works = []) : t.write.flushes = [] := List.map_eq_nil_iff.1 h

theorem State.releaseAll_open {s : State} {st : Stn} {v : VolCtx} (h : (s.stns[st]).Open v) :
    ∃ v', ((s.releaseAll st).stns[st]).Open v' ∧ (s.stns[st]).GoesOn v (s.releaseAll st).stns[st] v' := by
  obtain ⟨v1, open1, goes1⟩ := State.releaseHere_open h
  unfold State.releaseAll
  generalize s.releaseHere st = u at open1 goes1
  obtain ⟨v2, ctx2, goes2, packs⟩ := (State.numberLabels_packs u st).goesOn open1.ctx
  have works : ((u.numberLabels st).stns[st]).write.works = [] := by
    rw [State.numberLabels_works]
    unfold Write.works
    rw [open1.flushes]
    rfl
  exact ⟨v2, ⟨ctx2, by rw [packs.rest]; exact open1.closing, Station.flushes_of_works works⟩, goes1.trans goes2⟩

/-- What is released and then settles. -/
theorem State.released_settle {s : State} {st : Stn} {v : VolCtx} (h : (s.stns[st]).Open v) :
    ∃ v', (((s.releaseAll st).settle st).stns[st]).ctx = some v' ∧ (s.stns[st]).GoesOn v ((s.releaseAll st).settle st).stns[st] v' := by
  obtain ⟨v1, open1, goes1⟩ := State.releaseAll_open h
  obtain ⟨v2, ctx2, goes2, -⟩ := (State.settle_packs open1).goesOn open1.ctx
  exact ⟨v2, ctx2, goes1.trans goes2⟩

/-! ### RIGHT_AWAY_MARK -/

section
variable {s : State} {st : Stn} {v : VolCtx} {lon : Nat} {r : Rec} (open_ : (s.stns[st]).Open v) (rec_ : v.rec? lon = some r)
include open_ rec_

/-- A block that equals its input carries its mark. -/
theorem exec_rightAwayMark_marks {n : Nat} {b : Block} (block : r.blocks[n]? = some b) (emitted : r.emitted n = true) (clean : b.poisoned = false) :
    ∃ t v' r' b', exec (.rightAwayMark st lon n) s = .next t ∧ (t.stns[st]).ctx = some v' ∧ v'.rec? lon = some r' ∧ r'.blocks[n]? = some b' ∧
      b'.marked = true ∧ b'.bytes = b.bytes := by
  have run : exec (.rightAwayMark st lon n) s = .next (((s.modRec st lon fun r => { r with
    blocks := if r.emitted n then modAt r.blocks n fun b => { b with marked := b.marked || !b.poisoned } else r.blocks }).releaseAll st).settle st) := rfl
  have here := open_.modRec lon (fun r => { r with
    blocks := if r.emitted n then modAt r.blocks n fun b => { b with marked := b.marked || !b.poisoned } else r.blocks })
  have mine : (v.modRec lon (fun r => { r with
      blocks := if r.emitted n then modAt r.blocks n fun b => { b with marked := b.marked || !b.poisoned } else r.blocks })).rec? lon =
      some { r with blocks := modAt r.blocks n fun b => { b with marked := b.marked || !b.poisoned } } := by
    rw [VolCtx.rec_modRec _ _ _ (by exact fun _ => rfl), rec_, Option.map_some, if_pos emitted]
  obtain ⟨v', ctx', goes⟩ := State.released_settle here
  obtain ⟨r', found, packs⟩ := goes.recs lon _ mine
  refine ⟨_, v', r', { b with marked := b.marked || !b.poisoned }, run, ctx', found, ?_, ?_, rfl⟩
  · rw [packs]
    dsimp only
    rw [modAt_get, block]; rfl
  · dsimp only
    rw [clean]; simp

end

/-! ### ENCRYPTION_DONE -/

theorem exec_encryptionDone_idle {s : State} {st : Stn} {gnum : Nat} (h : s.jobRuns (dieOf st) rCrypto (.encrypt st gnum) = false) :
    exec (.encryptionDone st gnum) s = .next s := congrArg Host.Outcome.next (if_pos (by rw [h]; rfl))

theorem sealGath_keeps (key : List Byte) (v : VolCtx) (g : Gath) : (sealGath key v g).gnum = g.gnum ∧ (sealGath key v g).encrypted = true := by
  unfold sealGath
  split <;> exact ⟨rfl, rfl⟩

/-- The gathering of a number as its crypto lane leaves it. -/
def Gath.sealedAs (key : List Byte) (v : VolCtx) (gnum : Nat) (g : Gath) : Gath := if g.gnum = gnum ∧ !g.encrypted then sealGath key v g else g

theorem Gath.sealedAs_encrypted {key : List Byte} {v : VolCtx} {gnum : Nat} {g : Gath} (h : (g.sealedAs key v gnum).gnum = gnum) :
    (g.sealedAs key v gnum).encrypted = true := by
  unfold Gath.sealedAs at *
  split at h
  next c => rw [if_pos c]; exact (sealGath_keeps key v g).2
  next c =>
    rw [if_neg c]
    cases he : g.encrypted with
    | true => rfl
    | false => exact absurd ⟨h, by rw [he]; rfl⟩ c

theorem Engine.Kept.not_runs {e e' : Engine} (h : e.Kept e') {k : JobKind} (gone : (e.running.any fun w => w.2.kind == k) = false) :
    (e'.running.any fun w => w.2.kind == k) = false := by
  rw [List.any_eq_false] at *
  exact fun w hw => gone w (h.running w hw)

theorem State.dropJobs_gone (s : State) (d : DieId) (r : Fin 4) (k : JobKind) : (s.dropJobs fun j => j == k).jobRuns d r k = false := by
  have each (x : Die) : ((x.engines.map fun (e : Engine) => { e with
      running := e.running.filter (fun w => !(w.2.kind == k)), waiting := e.waiting.filter (fun w => !(w.kind == k)) })[r].running.any fun w => w.2.kind == k) = false := by
    rw [Fin.getElem_fin, Vector.getElem_map, List.any_eq_false]
    intro w hw
    have keep := (List.mem_filter.1 hw).2
    simpa using keep
  unfold State.jobRuns State.dropJobs
  rw [State.eachDie_die]
  exact each _

theorem State.releaseAll_going (s : State) (st : Stn) : Going s (s.releaseAll st) := by
  have first : Going s (s.releaseHere st) := by
    refine State.modStn_going s st _ ?_ ?_ ?_
    · dsimp only; split <;> rfl
    · dsimp only; split <;> rfl
    · dsimp only; split <;> exact fun _ h => h
  exact first.trans (numberLabels_writeOnly ..).going

/-- A crypto lane has done its work: the gatherings of its number are encrypted, and its job is gone. -/
theorem exec_encryptionDone_done {s : State} {st : Stn} {v : VolCtx} (open_ : (s.stns[st]).Open v) {gnum : Nat} (lt : gnum < v.gnum)
    (runs : s.jobRuns (dieOf st) rCrypto (.encrypt st gnum) = true) : ∃ t, exec (.encryptionDone st gnum) s = .next t ∧
      t.jobRuns (dieOf st) rCrypto (.encrypt st gnum) = false ∧ ∀ g ∈ (t.stns[st]).write.gaths, g.gnum = gnum → g.encrypted = true := by
  have run : exec (.encryptionDone st gnum) s = _ := congrArg Host.Outcome.next (if_neg (by rw [runs]; decide))
  refine ⟨_, run, ?_⟩
  extract_lets key s1
  have gone := State.dropJobs_gone s (dieOf st) rCrypto (.encrypt st gnum)
  have here : s1.stns[st] = { s.stns[st] with write := { (s.stns[st]).write with gaths := (s.stns[st]).write.gaths.map (Gath.sealedAs key v gnum) } } := by
    simp only [s1]
    rw [State.modStn_stn, State.dropJobs_stns]
    split
    next h => rw [open_.ctx] at h; cases h
    next h => rw [open_.ctx] at h; cases h; rfl
  have idle : s1.jobRuns (dieOf st) rCrypto (.encrypt st gnum) = false := gone
  clear_value s1
  have open1 : (s1.stns[st]).Open v := by
    rw [here]; exact open_.of_stn rfl rfl
  obtain ⟨v', -, goes⟩ := State.released_settle open1
  refine ⟨(((State.releaseAll_going s1 st).trans (State.settle_going _ st)).lanes (dieOf st) rCrypto).not_runs idle, fun g hg number => ?_⟩
  obtain ⟨g1, h1, n1, e1⟩ | ge := goes.gaths g hg
  · rw [here] at h1
    obtain ⟨g0, -, rfl⟩ := List.mem_map.1 h1
    rw [e1]
    exact Gath.sealedAs_encrypted (by rw [← n1]; exact number)
  · omega

/-! ### CHECK_FAIL -/

theorem Rec.unpack_keeps (r : Rec) (l : List Seg) : (r.unpack l).lon = r.lon ∧ (r.unpack l).blocks = r.blocks := by
  unfold Rec.unpack
  induction l generalizing r with
  | nil => exact ⟨rfl, rfl⟩
  | cons g l ih =>
    rw [List.foldl_cons]
    obtain ⟨lon, blocks⟩ := ih (if g.lon ≠ r.lon then r else if g.inc then { r with incDone := false }
      else { r with packed := min r.packed g.offset, last := if g.last then false else r.last })
    refine ⟨lon.trans ?_, blocks.trans ?_⟩
    · split
      · rfl
      · split <;> rfl
    · split
      · rfl
      · split <;> rfl

/-- The blocks of a record. -/
def VolCtx.blocksOf (v : VolCtx) (lon : Nat) : Option (List Block) := (v.rec? lon).map (·.blocks)

/-- A station whose volume is not being closed, which owes no FLUSH, and whose record of a LON has the given blocks. -/
def Station.Holds (t : Station) (lon : Nat) (l : List Block) : Prop := ∃ v, t.Open v ∧ v.blocksOf lon = some l

theorem VolCtx.prevGroup_keeps (v : VolCtx) (gone : List Gath) : (v.prevGroup gone).recs = v.recs ∧ (v.prevGroup gone).closing = v.closing := by
  unfold VolCtx.prevGroup
  split <;> exact ⟨rfl, rfl⟩

theorem VolCtx.blocksOf_unpack {v v' : VolCtx} {segs : List Seg} (h : v'.recs = v.recs.map fun r => r.unpack segs) (lon : Nat) :
    v'.blocksOf lon = v.blocksOf lon := by
  unfold VolCtx.blocksOf VolCtx.rec?
  rw [h, find_map_key _ _ _ fun r => by rw [(r.unpack_keeps segs).1]]
  rw [Option.map_map]
  congr 1
  funext r
  exact (r.unpack_keeps segs).2

theorem State.giveBack_holds {s : State} {st : Stn} {lon : Nat} {l : List Block} (h : (s.stns[st]).Holds lon l) (gone : List Gath) :
    ((s.giveBack st gone).stns[st]).Holds lon l := by
  obtain ⟨v, open_, blocks⟩ := h
  unfold State.giveBack
  dsimp only
  rw [open_.ctx]
  dsimp only
  rw [State.dropJobs_stns, State.modStn_stn]
  obtain ⟨recs, closing⟩ := v.prevGroup_keeps gone
  refine ⟨_, ⟨rfl, closing.trans open_.closing, ?_⟩, (VolCtx.blocksOf_unpack (v := v) (by rw [recs]) lon).trans blocks⟩
  dsimp only
  rw [open_.flushes]; rfl

theorem VolCtx.Packs.blocksOf {v v' : VolCtx} (h : v.Packs v') {lon : Nat} {l : List Block} (hl : v.blocksOf lon = some l) : v'.blocksOf lon = some l := by
  obtain ⟨r, hr, rfl⟩ := Option.map_eq_some_iff.1 hl
  obtain ⟨r', hr', same⟩ := h.rec? hr
  unfold VolCtx.blocksOf
  rw [hr', Option.map_some, same]

theorem State.numberLabels_holds {s : State} {st : Stn} {lon : Nat} {l : List Block} (h : (s.stns[st]).Holds lon l) :
    ((s.numberLabels st).stns[st]).Holds lon l := by
  obtain ⟨v, open_, blocks⟩ := h
  obtain ⟨v', ctx', packs⟩ := (State.numberLabels_packs s st).ctx v open_.ctx
  have works : ((s.numberLabels st).stns[st]).write.works = [] := by
    rw [State.numberLabels_works]
    unfold Write.works
    rw [open_.flushes]
    rfl
  exact ⟨v', ⟨ctx', by rw [packs.rest]; exact open_.closing, Station.flushes_of_works works⟩, packs.blocksOf blocks⟩

theorem State.burnFrom_holds {s : State} {st : Stn} {lon : Nat} {l : List Block} (h : (s.stns[st]).Holds lon l) (n : Nat) :
    ((s.burnFrom st n).stns[st]).Holds lon l := State.numberLabels_holds (State.giveBack_holds h _)

/-- The raw block that takes a block's place. -/
def Rec.rawAt (r : Rec) (n : Nat) (b : Block) : List Byte :=
  dressBlock { r with blocks := r.blocks.take n } b.start b.last (rawBlock r.input b.start (b.start + b.len) b.last)

section
variable {s : State} {st : Stn} {v : VolCtx} {lon : Nat} {r : Rec} {n : Nat} {b : Block} (open_ : (s.stns[st]).Open v) (rec_ : v.rec? lon = some r)
  (block : r.blocks[n]? = some b)
include open_ rec_ block

theorem exec_checkFail_marked (marked : b.marked = true) : exec (.checkFail st lon n) s = .next s := by
  refine congrArg Host.Outcome.next ?_
  rw [open_.ctx]
  dsimp only
  rw [rec_]
  dsimp only
  rw [block]
  exact if_pos (by rw [marked]; simp)

variable (emitted : r.emitted n = true) (fresh : b.marked = false) (clean : b.poisoned = false) (alive : r.abandon = none)
include emitted fresh clean alive

/-- A block that fails its check is replaced by a raw one. -/
theorem exec_checkFail_replaces (differs : b.bytes ≠ r.rawAt n b) : ∃ t v' r' b', exec (.checkFail st lon n) s = .next t ∧
    (t.stns[st]).ctx = some v' ∧ v'.rec? lon = some r' ∧ r'.blocks[n]? = some b' ∧ b'.bytes = r.rawAt n b := by
  have run : ∃ s1 : State, (s1.stns[st]).Holds lon r.blocks ∧ exec (.checkFail st lon n) s =
      .next ((s1.modRec st lon fun x => { x with blocks := modAt x.blocks n fun b' => { b' with bytes := r.rawAt n b } }).settle st) := by
    have holds : (s.stns[st]).Holds lon r.blocks := ⟨v, open_, by unfold VolCtx.blocksOf; rw [rec_]; rfl⟩
    refine ⟨match (s.stns[st]).write.gaths.find? fun g => !g.released && Machine.holds g.segs lon (r.blockOfs n) with
      | some g => s.burnFrom st g.gnum
      | none => if Machine.holds (s.stns[st]).write.openSegs lon (r.blockOfs n) then s.burnFrom st v.gnum else s, ?_, congrArg Host.Outcome.next ?_⟩
    · split
      · exact State.burnFrom_holds holds _
      · split
        · exact State.burnFrom_holds holds _
        · exact holds
    · rw [open_.ctx]
      dsimp only
      rw [rec_]
      dsimp only
      rw [block]
      refine (if_neg (by rw [fresh, clean, alive, emitted]; decide)).trans (if_neg differs)
  obtain ⟨s1, ⟨v1, open1, blocks⟩, run⟩ := run
  obtain ⟨r1, rec1, blocks⟩ := Option.map_eq_some_iff.1 blocks
  obtain ⟨v', r', ctx', found, packs⟩ := State.settle_rec (open1.modRec lon fun x => { x with blocks := modAt x.blocks n fun b' => { b' with bytes := r.rawAt n b } })
    ((VolCtx.rec_modRec v1 lon _ (by exact fun _ => rfl)).trans (by rw [rec1]; rfl))
  refine ⟨_, v', r', { b with bytes := r.rawAt n b }, run, ctx', found, ?_, rfl⟩
  rw [packs]
  show (modAt r1.blocks n _)[n]? = _
  rw [blocks, modAt_get, block]
  rfl

/-- The lane of a raw block that fails is fenced. -/
theorem exec_checkFail_fences (same : b.bytes = r.rawAt n b) (lane : b.lane < 8) : ∃ t, exec (.checkFail st lon n) s = .next t ∧
    b.lane ∈ ((t.dies[dieOf st]).engines[rComp]).fenced ∧
    (((s.dies[dieOf st]).engines[rComp]).fenced.contains b.lane = false → t.flagged (193 + 16 * (dieOf st).val)) := by
  have run : exec (.checkFail st lon n) s = .next (s.rawFails st lon b.lane) := by
    refine congrArg Host.Outcome.next ?_
    rw [open_.ctx]
    dsimp only
    rw [rec_]
    dsimp only
    rw [block]
    exact (if_neg (by rw [fresh, clean, alive, emitted]; decide)).trans (if_pos same)
  have fenced : b.lane ∈ (((s.fenceLane (dieOf st) .compression b.lane).dies[dieOf st]).engines[rComp]).fenced ∧
      (((s.dies[dieOf st]).engines[rComp]).fenced.contains b.lane = false → (s.fenceLane (dieOf st) .compression b.lane).flagged (193 + 16 * (dieOf st).val)) := by
    cases already : ((s.dies[dieOf st]).engines[rComp]).fenced.contains b.lane with
    | true =>
      rw [show s.fenceLane (dieOf st) .compression b.lane = s from if_pos (.inr already)]
      exact ⟨List.contains_iff_mem.1 already, by simp⟩
    | false =>
      obtain ⟨again, kept, flag, -⟩ := State.fenceLane_spec s (dieOf st) .compression b.lane lane already
      refine ⟨?_, fun _ => ?_⟩
      · rw [show (((s.fenceLane (dieOf st) .compression b.lane).dies[dieOf st]).engines[rComp]).fenced = _ from kept.fenced]
        exact List.mem_append_right _ (List.mem_singleton.2 rfl)
      · have number : 192 + 16 * (dieOf st).val + (regionNum .compression).val = 193 + 16 * (dieOf st).val := by
          rw [show (regionNum .compression).val = 1 from rfl]; omega
        rw [number] at flag
        exact flag
  have rest : LanesKept (s.fenceLane (dieOf st) .compression b.lane) (s.rawFails st lon b.lane) := by
    unfold State.rawFails
    dsimp only
    generalize s.fenceLane (dieOf st) .compression b.lane = u
    have dropped : LanesKept u (u.dropJobs fun x => x == .compress st lon) := (State.dropJobs_stnOnly u st _).lanesKept
    split
    · exact LanesKept.refl u
    split
    · exact dropped.trans (State.jobFails_lanesKept ..)
    · exact (dropped.trans (State.modStn_lanesKept ..)).trans (State.addJob_stnOnly _ st _ _ _).lanesKept
  exact ⟨_, run, by rw [(rest.lanes _ _).fenced]; exact fenced.1, fun free => rest.flagged _ (fenced.2 free)⟩

end

/-- Settles O47: each row by its rule above. -/
theorem intakeAndBlocks : Obligations.IntakeAndBlocks := by
  unfold Obligations.IntakeAndBlocks
  refine ⟨fun s p q tag data k v x cmd opc moving len ctx rec_ due runs => ⟨fun alive flushes closing unsealed clean => ?_, ?_⟩,
    fun s st v ctx closing flushes => ?_⟩
  · exact exec_intakeDone_clean cmd opc moving len ctx rec_ due runs alive ⟨ctx, closing, flushes⟩ unsealed clean
  · exact exec_intakeDone_poisoned cmd opc moving len ctx rec_ due runs
  · have open_ : (s.stns[st]).Open v := ⟨ctx, closing, flushes⟩
    refine ⟨fun lon idle => exec_blockEmit_idle idle, fun lon r b l rec_ alive first lane room emits => ?_, fun lon r l i rec_ redo lane => ?_,
      fun lon r n b rec_ block emitted clean => ?_, fun lon r n b rec_ block marked => ?_, fun lon r n b rec_ block emitted fresh clean alive => ⟨?_, ?_⟩,
      fun gnum idle => exec_encryptionDone_idle idle, fun gnum lt runs => exec_encryptionDone_done open_ lt runs⟩
    · exact exec_blockEmit_new open_ rec_ alive first lane room emits
    · exact exec_blockEmit_again open_ rec_ redo lane
    · exact exec_rightAwayMark_marks open_ rec_ block emitted clean
    · exact exec_checkFail_marked open_ rec_ block marked
    · exact exec_checkFail_replaces open_ rec_ block emitted fresh clean alive
    · exact exec_checkFail_fences open_ rec_ block emitted fresh clean alive

end Sys2Proof.Machine
end

section
/-!
PROOFS of GATHERING_PLACE, EMPTY_GATHERING, BAND_FREEZE and GATHERING_ACCEPTANCE (04, R122, R127, R128, R471, R472, R475; 03, R93).
-/
namespace Sys2Proof.Machine

/-! ### What a closure keeps where no FLUSH waits -/

/-- What the servo knows of its place along the tape (R221, R238). -/
def Servo.placing (v : Servo) : List Bool × Option Seek × Option Nat × Bool × Nat × Nat := (v.lposBits, v.seek, v.lposWord, v.lposOk, v.lpos, v.lposMiss)

/-- A station keeps what is fixed of its volume and its place, no FLUSH work comes where there is none, and the power state stays. -/
structure WorkKept (st : Stn) (s t : State) : Prop where
  fixed : (t.stns[st]).ctx.map (·.fixed) = (s.stns[st]).ctx.map (·.fixed)
  idle : (s.stns[st]).write.flushes = [] → (t.stns[st]).write.flushes = []
  power : t.power = s.power
  placing : (t.stns[st]).servo.placing = (s.stns[st]).servo.placing

theorem WorkKept.trans {st : Stn} {s t u : State} (h : WorkKept st s t) (k : WorkKept st t u) : WorkKept st s u :=
  ⟨k.fixed.trans h.fixed, fun e => k.idle (h.idle e), k.power.trans h.power, k.placing.trans h.placing⟩

theorem WorkKept.of_stns {st : Stn} {s t : State} (h : t.stns = s.stns) (power : t.power = s.power := by rfl) : WorkKept st s t :=
  ⟨by rw [h], by rw [h]; exact id, power, by rw [h]⟩

theorem PortsOnly.workKept {st : Stn} {s t : State} (h : PortsOnly s t) : WorkKept st s t := .of_stns (by rw [h]) h.power

theorem WriteOnly.workKept {st : Stn} {s t : State} (h : WriteOnly st s t) : WorkKept st s t := ⟨h.geo, h.idle, h.power, by rw [h.side]⟩

theorem foldl_workKept {α : Type} {st : Stn} {f : State → α → State} (h : ∀ a x, WorkKept st a (f a x)) (l : List α) (s : State) :
    WorkKept st s (l.foldl f s) := by
  induction l generalizing s with
  | nil => exact .of_stns rfl
  | cons x l ih => exact (h s x).trans (ih _)

theorem Station.Packs.workKept {st : Stn} {s t : State} (h : (s.stns[st]).Packs t.stns[st]) (power : t.power = s.power) : WorkKept st s t :=
  ⟨h.same.2.1, h.write.idle, power, by rw [h.rest]⟩

theorem State.finish_workKept (s : State) (st : Stn) (r : CmdRef) (f : Ending) : WorkKept st s (s.finish r f) :=
  (State.finish_portsOnly s r f).workKept

theorem State.endMig_workKept (s : State) (st : Stn) (j : MigJob) (n : Nat) : WorkKept st s (s.endMig j n) := by
  unfold State.endMig
  extract_lets parked s1
  have left : WorkKept st s s1 := .of_stns rfl
  split
  · exact left
  · exact left.trans (State.finishWith_portsOnly ..).workKept

theorem State.finishLosses_workKept (s : State) (st : Stn) (r : CmdRef) (l : List Nat) (n : Nat) : WorkKept st s (s.finishLosses r l n) := by
  unfold State.finishLosses
  split
  · exact .of_stns rfl
  split
  · exact State.finish_workKept ..
  · exact (foldl_workKept (fun a _ => (State.logErr_portsOnly ..).workKept) _ s).trans (State.finish_workKept ..)

theorem State.finishSealed_workKept (s : State) (st : Stn) (r : CmdRef) (l : List Nat) (n : Nat) : WorkKept st s (s.finishSealed r l n) := by
  unfold State.finishSealed
  split
  · exact State.finish_workKept ..
  · exact State.finishLosses_workKept ..

theorem Servo.rampTo_placing (v : Servo) (why : RampFor) (mm : Nat) : (v.rampTo why mm).placing = v.placing := by
  unfold Servo.rampTo
  split <;> rfl

theorem State.controlledStop_workKept (s : State) (st : Stn) : WorkKept st s (s.controlledStop st) := by
  unfold State.controlledStop
  extract_lets t
  split
  · exact .of_stns rfl
  · refine (State.runOut_writeOnly s st).workKept.trans ?_
    generalize s.runOut st = u
    refine ⟨?_, ?_, rfl, ?_⟩
    · rw [State.modStn_stn, State.rampTo_stn]; rfl
    · rw [State.modStn_stn, State.rampTo_stn]; exact id
    · rw [State.modStn_stn, State.rampTo_stn]
      exact Servo.rampTo_placing (u.stns[st]).servo .stop 0

theorem State.dropWork_workKept (s : State) (st : Stn) : WorkKept st s (s.dropWork st) := by
  have parked : WorkKept st s (s.stopMigs st) := .of_stns rfl
  refine parked.trans ?_
  unfold State.dropWork
  generalize s.stopMigs st = u
  refine ⟨?_, fun e => ?_, rfl, by rw [State.modStn_stn]⟩
  · rw [State.modStn_stn]
    dsimp only
    rw [Option.map_map]
    rfl
  · rw [State.modStn_stn]
    exact congrArg (List.map _) e

theorem State.failStation_workKept (s : State) (st : Stn) : WorkKept st s (s.failStation st) :=
  (foldl_workKept (fun a r => State.finish_workKept a st r (.st 0xC)) (s.cmdsOf st) s).trans (State.dropWork_workKept ..)

theorem State.raise_workKept (s : State) (st : Stn) (n x : Nat) : WorkKept st s (s.raise n x) :=
  .of_stns (by rw [(State.raise_events s n x).1]) (by rw [(State.raise_events s n x).1])

theorem State.closureFailed_workKept (s : State) (st : Stn) : WorkKept st s (s.closureFailed st) := by
  unfold State.closureFailed
  extract_lets s1
  have raised : WorkKept st s s1 := State.raise_workKept ..
  exact ((raised.trans (State.modCtx_writeOnly s1 st _ (by exact fun _ => rfl)).workKept).trans (State.controlledStop_workKept ..)).trans
    (State.failStation_workKept ..)

theorem State.unsigned_workKept {s : State} {st : Stn} {v : VolCtx} : WorkKept st s (s.unsigned st v) := by
  unfold State.unsigned
  extract_lets s1 s2
  have one : WorkKept st s s1 := by
    simp only [s1]
    split
    · exact (State.finish_workKept ..).trans (State.modCtx_writeOnly _ st _ (by exact fun _ => rfl)).workKept
    · exact .of_stns rfl
  have two : WorkKept st s1 s2 := foldl_workKept (fun a (j : MigJob) => State.endMig_workKept a st { j with status := 0xB } v.lon) _ s1
  split
  · exact (one.trans two).trans (State.closureFailed_workKept ..)
  · exact one.trans two

theorem State.closed_workKept {s : State} {st : Stn} {v : VolCtx} (ctx : (s.stns[st]).ctx = some v) (none : (s.stns[st]).write.flushes = []) :
    WorkKept st s (s.closed st v) := by
  unfold State.closed
  extract_lets t s1 lost s2 s3 s4
  have one : WorkKept st s s1 := by
    refine ⟨?_, fun e => ?_, rfl, by simp only [s1]; rw [State.modStn_stn]⟩
    · simp only [s1]
      rw [State.modStn_stn, ctx]
      rfl
    · simp only [s1]
      rw [State.modStn_stn]
      dsimp only
      split
      · rfl
      · exact e
  have two : WorkKept st s1 s2 := by
    simp only [s2]
    rw [show t.write.flushes = [] from none]
    split <;> exact .of_stns rfl
  have three : WorkKept st s2 s3 := by
    simp only [s3]
    split
    · split
      · exact State.finishSealed_workKept ..
      · exact State.finish_workKept ..
    · exact .of_stns rfl
  have four : WorkKept st s3 s4 := foldl_workKept (fun a (j : MigJob) => State.endMig_workKept a st (j.sealedAs v) v.lon) _ s3
  exact (((one.trans two).trans three).trans four).trans (State.controlledStop_workKept ..)

theorem State.closeOnce_workKept {s t : State} {st : Stn} (h : s.closeOnce st = some t) (none_ : (s.stns[st]).write.flushes = []) : WorkKept st s t := by
  have set (a : State) (c : Closing) : WorkKept st a (a.modStn st fun t => t.modCtx fun v => { v with closing := c }) :=
    (State.modCtx_writeOnly a st (fun v => { v with closing := c }) fun _ => rfl).workKept
  unfold State.closeOnce at h
  extract_lets u w setTo d at h
  split at h
  · cases h
  next v hv =>
    extract_lets placed room stream s1 at h
    split at h
    · cases h
    split at h
    · cases h
    · cases h
    · cases h
    · split at h
      · cases h
      · cases h; exact set ..
    · split at h
      · cases h; exact set ..
      split at h
      · cases h
      · cases h
        exact ((State.composeEndpaper_writeOnly ..).trans (State.composeEndpaper_writeOnly ..)).workKept.trans (set ..)
    · split at h
      · cases h
      · cases h
        exact ((State.modCtx_writeOnly s st _ (by exact fun _ => rfl)).trans (State.composeSpines_writeOnly ..)).workKept.trans (set ..)
    · split at h
      · cases h
      split at h
      · cases h; exact State.unsigned_workKept
      · cases h
        have bytes : WorkKept st s d.2 := .of_stns rfl
        have drawn : WorkKept st s s1 := bytes.trans (State.modCtx_writeOnly d.2 st (fun v => { v with colStream := some stream, closing := .tail })
          fun _ => rfl).workKept
        exact (drawn.trans (State.compose_writeOnly ..).workKept).trans (State.compose_writeOnly ..).workKept
    · split at h
      · cases h; exact State.closed_workKept hv none_
      split at h
      · cases h
        exact (State.modWrite_writeOnly s st _).workKept
      · cases h

theorem State.closeAll_workKept {s : State} {st : Stn} (none_ : (s.stns[st]).write.flushes = []) (n : Nat) : WorkKept st s (s.closeAll st n) := by
  induction n generalizing s with
  | zero => exact .of_stns rfl
  | succ n ih =>
    unfold State.closeAll
    split
    next s1 h =>
      have one := State.closeOnce_workKept h none_
      exact one.trans (ih (one.idle none_))
    · exact .of_stns rfl

theorem State.settle_workKept {s : State} {st : Stn} (none_ : (s.stns[st]).write.flushes = []) : WorkKept st s (s.settle st) := by
  unfold State.settle
  split
  · exact .of_stns rfl
  · rw [State.flushesDone_open (fun j hj => by rw [none_] at hj; cases hj)]
    exact ((State.closeAll_workKept none_ 8).trans (State.assembleAll_writeOnly ..).workKept).trans
      (Station.Packs.workKept ((State.freeSpent_woken _ st).stns st) (by rw [(State.freeSpent_woken _ st).rest]))

/-- A station has a volume in which a write fault has occurred, and owes no FLUSH. -/
def Station.Failed (t : Station) : Prop := (∃ v, t.ctx = some v ∧ v.faulted = true) ∧ t.write.flushes = []

theorem WorkKept.failed {st : Stn} {s t : State} (h : WorkKept st s t) (f : (s.stns[st]).Failed) : (t.stns[st]).Failed := by
  obtain ⟨⟨v, ctx, faulted⟩, none_⟩ := f
  have fixed := h.fixed
  rw [ctx, Option.map_some, Option.map_eq_some_iff] at fixed
  obtain ⟨v', ctx', same⟩ := fixed
  exact ⟨⟨v', ctx', (congrArg Prod.snd same).trans faulted⟩, h.idle none_⟩

/-- The context of a volume in which a write fault has just occurred: its closure begins. -/
def State.faultBegins (s : State) (st : Stn) (v0 : VolCtx) : State :=
  (s.raise (68 + 16 * st.val)).modStn st fun t => t.modCtx fun v => { v with
    faulted := true, closing := .incompletes, colStream := none
    recs := v.recs.map fun r => if r.isComplete && r.inGood (s.stns[st]).write (goodRun v0 (s.stns[st]).write) then { r with durable := true } else r.abandonAs .fault }

/-- The write side of such a volume: the next group begins, and the closure goes to the tail. -/
def Station.faultGroup (t : Station) : Station :=
  match t.ctx with
  | none => t
  | some v =>
    let top := (v.quires.map (·.quire)).foldl (fun a q => max a (q + 1)) v.q0
    { t with
      ctx := some { v with group := v.group + 1, q0 := top, prevIn := 0, inGroup := 0, grpEnd := false, parDue := [], freeSlots := [] }
      write := { t.write with tailLeft := none, flushes := t.write.flushes.map fun j => { j with closed := true } } }

theorem State.faultGroup_writeOnly (s : State) (st : Stn) : WriteOnly st s (s.modStn st Station.faultGroup) := by
  cases hv : (s.stns[st]).ctx with
  | none =>
    have same : (s.stns[st]).faultGroup = s.stns[st] := by unfold Station.faultGroup; rw [hv]
    exact State.modStn_writeOnly s st _ (by rw [same]) (by rw [same]) (by rw [same]; exact id) (by rw [same]; exact fun _ h => h)
  | some v =>
    have same : (s.stns[st]).faultGroup = { s.stns[st] with
        ctx := some { v with
          group := v.group + 1, q0 := (v.quires.map (·.quire)).foldl (fun a q => max a (q + 1)) v.q0, prevIn := 0, inGroup := 0, grpEnd := false
          parDue := [], freeSlots := [] }
        write := { (s.stns[st]).write with tailLeft := none, flushes := (s.stns[st]).write.flushes.map fun j => { j with closed := true } } } := by
      unfold Station.faultGroup; rw [hv]
    exact State.modStn_writeOnly s st _ (by rw [same]) (by rw [same, hv]; rfl) (by rw [same]; exact congrArg (List.map _)) (by rw [same]; exact fun _ h => h)

theorem State.dropJobs_writeOnly (s : State) (st : Stn) (f : JobKind → Bool) : WriteOnly st s (s.dropJobs f) :=
  ⟨State.dropJobs_stnOnly s st f, rfl, rfl, id, fun _ h => h⟩

/-- What a write fault does before its station settles: what is not recorded burns, the group ends, and an INIT_VOLUME completes. -/
def State.faultGoes (s : State) (st : Stn) (v0 : VolCtx) : State :=
  let s2 := ((((s.burnFrom st 0).modStn st Station.dropColophon).dropLost st).dropJobs fun k => match k with
    | .compress a _ => a == st
    | _ => false)
  let s3 := s2.modStn st Station.faultGroup
  match v0.initCmd with
  | some c => (s3.finish c { status := 0x10 }).modStn st fun t => t.modCtx fun v => { v with initCmd := none }
  | none => s3

theorem State.faultGoes_keeps (s : State) (st : Stn) (v0 : VolCtx) : WorkKept st s (s.faultGoes st v0) ∧ Going s (s.faultGoes st v0) := by
  have colophon (a : State) : WriteOnly st a (a.modStn st Station.dropColophon) := by
    obtain ⟨side, fixed, -, idle, sent⟩ := (a.stns[st]).dropColophon_sameFeed
    exact State.modStn_writeOnly a st _ side fixed idle sent
  unfold State.faultGoes
  extract_lets s2 s3
  have burnt : WriteOnly st s s2 := (((State.burnFrom_writeOnly s st 0).trans (colophon _)).trans (State.dropLost_writeOnly ..)).trans
    (State.dropJobs_writeOnly ..)
  have grouped : WriteOnly st s s3 := burnt.trans (State.faultGroup_writeOnly s2 st)
  split
  · exact ⟨(grouped.workKept.trans (State.finish_workKept ..)).trans (State.modCtx_writeOnly _ st _ (by exact fun _ => rfl)).workKept,
      (grouped.going.trans (State.finish_going ..)).trans (State.modCtx_writeOnly _ st _ (by exact fun _ => rfl)).going⟩
  · exact ⟨grouped.workKept, grouped.going⟩

theorem State.writeFault_eq {s : State} {st : Stn} {v : VolCtx} (ctx : (s.stns[st]).ctx = some v) (sound : v.faulted = false) :
    s.writeFault st = ((s.faultBegins st v).faultGoes st v).settle st := by
  unfold State.writeFault
  rw [ctx]
  dsimp only
  rw [if_neg (by rw [sound]; decide)]
  rfl

/-- A write fault: its event is raised, and the volume is marked with it. -/
theorem State.writeFault_spec {s : State} {st : Stn} {v : VolCtx} (ctx : (s.stns[st]).ctx = some v) (sound : v.faulted = false)
    (none_ : (s.stns[st]).write.flushes = []) : ((s.writeFault st).stns[st]).Failed ∧ (s.writeFault st).flagged (68 + 16 * st.val) ∧
      (s.writeFault st).power = s.power := by
  have below : st.val < 8 := st.isLt
  have flag : (s.faultBegins st v).flagged (68 + 16 * st.val) := State.raise_flagged s _ 0 (by omega)
  have failed : ((s.faultBegins st v).stns[st]).Failed := by
    unfold State.faultBegins
    rw [State.modStn_stn, (State.raise_events s (68 + 16 * st.val) 0).1]
    unfold Station.modCtx
    dsimp only
    rw [ctx]
    exact ⟨⟨_, rfl, rfl⟩, none_⟩
  have power : (s.faultBegins st v).power = s.power := (State.raise_workKept s st (68 + 16 * st.val) 0).power
  rw [State.writeFault_eq ctx sound]
  generalize s.faultBegins st v = u at flag failed power
  obtain ⟨kept, going⟩ := State.faultGoes_keeps u st v
  have idle := (kept.failed failed).2
  exact ⟨(State.settle_workKept idle).failed (kept.failed failed), (going.trans (State.settle_going _ st)).flagged _ flag,
    ((State.settle_workKept idle).power.trans kept.power).trans power⟩

/-! ### GATHERING_ACCEPTANCE -/

theorem State.powerGo_idle {s : State} (h : s.power.target = none) : s.powerGo = s := by
  have once : s.powerOnce = s := by
    unfold State.powerOnce
    rw [h]
  unfold State.powerGo
  rw [once, once, once]

section
variable {s : State} {st : Stn} {v : VolCtx} {g : Gath} (found : (s.stns[st]).write.gaths.find? (fun x => x.gnum == g.gnum) = some g)
include found

theorem exec_gatheringAcceptance_waits (power : s.power.target = none) (undecided : (s.stns[st]).write.decidable g = false) :
    exec (.gatheringAcceptance st g.gnum) s = .next s := by
  have stays : s.acceptance st g.gnum = s := by
    unfold State.acceptance
    dsimp only
    rw [found]
    exact if_pos (by rw [undecided]; rfl)
  refine congrArg Host.Outcome.next ?_
  rw [stays]
  exact State.powerGo_idle power

variable (decided : (s.stns[st]).write.decidable g = true) (stabled : (s.stns[st]).stabled = false)
include decided stabled

theorem State.acceptance_decides : s.acceptance st g.gnum = if g.passes then s.acceptGath st g else s.rejectGath st g := by
  unfold State.acceptance
  dsimp only
  rw [found]
  exact if_neg (by rw [decided, stabled]; decide)

/-- The target of the power state is no part of what settles. -/
theorem exec_gatheringAcceptance_passes (power : s.power.target = none) (open_ : (s.stns[st]).Open v) (lt : g.gnum < v.gnum) (passes : g.passes = true)
    (made : v.initCmd = none) : ∃ t, exec (.gatheringAcceptance st g.gnum) s = .next t ∧ ∀ x ∈ (t.stns[st]).write.gaths, x.gnum ≠ g.gnum := by
  have run : exec (.gatheringAcceptance st g.gnum) s = .next (s.acceptance st g.gnum).powerGo := rfl
  rw [State.acceptance_decides found decided stabled, if_pos passes] at run
  let u := s.modStn st fun t =>
    match t.ctx with
    | none => t
    | some v =>
      let w := { t.write with gaths := t.write.gaths.filter (fun x => x.gnum != g.gnum), rwq := t.write.rwq.filter fun e => e.gnum != g.gnum }.dropGraded
      { t with write := w, ctx := some (markDurable { v with colDone := v.colDone + if g.kind = .colophon then 1 else 0 } w) }
  have here : ∃ v', (u.stns[st]).Open v' ∧ v'.gnum = v.gnum ∧ v'.initCmd = none ∧
      (u.stns[st]).write.gaths = (s.stns[st]).write.gaths.filter fun x => x.gnum != g.gnum := by
    simp only [u]
    rw [State.modStn_stn, open_.ctx]
    exact ⟨_, ⟨rfl, open_.closing, open_.flushes⟩, rfl, made, rfl⟩
  have power' : u.power = s.power := rfl
  have accepts : s.acceptGath st g = u.settle st := by
    obtain ⟨v', open', -, made', -⟩ := here
    unfold State.acceptGath
    show (match (u.stns[st]).ctx with | none => _ | some v => _) = _
    rw [open'.ctx]
    dsimp only
    revert made'
    generalize v'.initCmd = c
    rintro rfl
    rfl
  rw [accepts] at run
  obtain ⟨v', open', gnum, -, gaths⟩ := here
  have packs := State.settle_packs open'
  rw [State.powerGo_idle (by rw [(State.settle_workKept open'.flushes).power, power', power])] at run
  refine ⟨_, run, fun x hx => ?_⟩
  obtain ⟨y, hy, same⟩ | ⟨m, hm, le⟩ := packs.write.made x hx
  · rw [gaths] at hy
    rw [same]
    simpa using (List.mem_filter.1 hy).2
  · rw [open'.ctx] at hm
    cases hm
    have le : v'.gnum ≤ x.gnum := le
    omega

/-- A gathering that does not pass is a write fault. -/
theorem exec_gatheringAcceptance_fault (ctx : (s.stns[st]).ctx = some v) (none_ : (s.stns[st]).write.flushes = []) (power : s.power.target = none) (fails : g.passes = false)
    (sound : v.faulted = false) (kind : g.kind ≠ .colophon) :
    ∃ t v', exec (.gatheringAcceptance st g.gnum) s = .next t ∧ t.flagged (68 + 16 * st.val) ∧ (t.stns[st]).ctx = some v' ∧ v'.faulted = true := by
  have run : exec (.gatheringAcceptance st g.gnum) s = .next (s.acceptance st g.gnum).powerGo := rfl
  have rejects : s.rejectGath st g = s.writeFault st := by
    unfold State.rejectGath
    rw [ctx]
    dsimp only
    rw [if_neg (by simp [kind]), if_neg (by rw [sound]; decide)]
  rw [State.acceptance_decides found decided stabled, if_neg (by rw [fails]; decide), rejects] at run
  obtain ⟨⟨⟨v', ctx', faulted⟩, -⟩, flag, same⟩ := State.writeFault_spec ctx sound none_
  rw [State.powerGo_idle (by rw [same, power])] at run
  exact ⟨_, v', run, flag, ctx', faulted⟩

end

/-! ### GATHERING_PLACE -/

theorem Write.layBand_keeps (w : Write) (n : Nat) : (w.layBand n).gaths = w.gaths ∧ (w.layBand n).flushes = w.flushes := ⟨rfl, rfl⟩

theorem Write.layGath_keeps (w : Write) (l : List PosKind) (n : Nat) : (w.layGath l n).flushes = w.flushes := by
  unfold Write.layGath
  dsimp only
  split <;> rfl

theorem Write.endBand_over (w : Write) (n : Nat) : (w.endBand n).wrapOver = true ∧ (w.endBand n).flushes = w.flushes := by
  unfold Write.endBand Write.fillOver
  split
  · split <;> exact ⟨rfl, rfl⟩
  · split <;> exact ⟨rfl, rfl⟩

/-- A gathering as it is placed: with its wrap, and what the accumulators hold of a parity gathering, or its LPOS and the chain so far. -/
def Gath.PlacedFrom (g' g : Gath) (v : VolCtx) (w : Write) (lpos : Nat) : Prop :=
  g'.gnum = g.gnum ∧ g'.placed = true ∧ g'.wrap = w.wrap ∧
    if g.kind = .parity then g'.payload = (v.acc g.quire).getD (g.qpos - 32) (zeros areaBytes)
    else g'.lpos = lpos ∧ g'.prev = if v.chain.isEmpty then zeros 48 else v.chain

/-- What is placed next: the context and the gathering. -/
def placedNext (v : VolCtx) (w : Write) (lpos : Nat) (g : Gath) : VolCtx × Gath :=
  if g.kind = .parity then
    (v, { g with placed := true, wrap := w.wrap, payload := (v.acc g.quire).getD (g.qpos - 32) (zeros areaBytes) })
  else placeHeadered v w lpos g

theorem placedNext_spec (v : VolCtx) (w : Write) (lpos : Nat) (g : Gath) :
    (placedNext v w lpos g).2.PlacedFrom g v w lpos ∧ (placedNext v w lpos g).1.closing = v.closing := by
  unfold placedNext Gath.PlacedFrom
  split
  · exact ⟨⟨rfl, rfl, rfl, rfl⟩, rfl⟩
  · unfold placeHeadered
    dsimp only
    split <;> exact ⟨⟨rfl, rfl, rfl, rfl, rfl⟩, rfl⟩

section
variable {s : State} {st : Stn} {v : VolCtx} {g : Gath} (n : Nat) (open_ : (s.stns[st]).Open v) (ready : s.ready = true)
  (tail : (s.stns[st]).write.tailLeft = none) (reserve : (s.stns[st]).intoReserve = false) (lays : (s.stns[st]).write.lays = true)
  (ahead : (s.stns[st]).write.ahead < 2) (lpos : (s.stns[st]).servo.lposOk = true)
  (next : (s.stns[st]).write.gaths.find? (fun g => !g.placed) = some g) (released : g.released = true)
include open_ ready tail reserve lays ahead lpos next released

/-- The next gathering goes to its place, or ends the layout of the wrap. -/
theorem exec_gatheringPlace_next : exec (.gatheringPlace st n) s = .next (State.settle (
    if (s.stns[st]).write.fits v then
      if g.c2Buf.isNone then s
      else s.modStn st fun t => { t with
        ctx := some (placedNext v (s.stns[st]).write (s.lposAt st n) g).1
        write := { ((s.stns[st]).write.layGath (gathPositions g) g.gnum) with
          gaths := (s.stns[st]).write.gaths.map (fun x => if x.gnum = g.gnum then (placedNext v (s.stns[st]).write (s.lposAt st n) g).2 else x)
          empties := (s.stns[st]).write.emptiesAfter g } }
    else s.modStn st fun t => t.modWrite fun w => w.endBand (lastPlaced v w)) st) := by
  have place : exec (.gatheringPlace st n) s = .next ((s.placeNext st n).settle st) := by
    refine congrArg Host.Outcome.next ((if_neg (by rw [ready]; decide)).trans ?_)
    rw [tail]
    exact if_neg (by rw [reserve]; decide)
  rw [place]
  refine congrArg (fun x => Host.Outcome.next (State.settle x st)) ?_
  unfold State.placeNext
  dsimp only
  rw [open_.ctx]
  dsimp only
  rw [if_neg (by rw [lays, lpos, tail]; simpa using ahead), next, if_neg (by simp [released])]
  cases fits : (s.stns[st]).write.fits v with
  | false => rfl
  | true => rfl

/-- A gathering that fits the wrap waits for the buffer of its C2 rows, or is laid out. -/
theorem exec_gatheringPlace_fits (fits : (s.stns[st]).write.fits v = true) :
    (g.c2Buf = none → ∃ t, exec (.gatheringPlace st n) s = .next t ∧ (t.stns[st]).write.toSend = (s.stns[st]).write.toSend) ∧
    (g.c2Buf.isSome = true → ∃ t, exec (.gatheringPlace st n) s = .next t ∧
      (t.stns[st]).write.toSend = ((s.stns[st]).write.layGath (gathPositions g) g.gnum).toSend ∧
      ∃ g' ∈ (t.stns[st]).write.gaths, g'.PlacedFrom g v (s.stns[st]).write (s.lposAt st n)) := by
  have run := exec_gatheringPlace_next n open_ ready tail reserve lays ahead lpos next released
  rw [if_pos fits] at run
  refine ⟨fun none_ => ?_, fun some_ => ?_⟩
  · rw [none_] at run
    exact ⟨_, run, by rw [show (if (none : Option (BitVec 32)).isNone then s else _) = s from rfl, (State.settle_packs open_).write.rest]⟩
  · rw [if_neg (by rw [Option.isNone_iff_eq_none]; rintro e; rw [e] at some_; cases some_)] at run
    obtain ⟨placed, closing⟩ := placedNext_spec v (s.stns[st]).write (s.lposAt st n) g
    generalize placedNext v (s.stns[st]).write (s.lposAt st n) g = r at run placed closing
    let u := s.modStn st fun t => { t with
      ctx := some r.1
      write := { ((s.stns[st]).write.layGath (gathPositions g) g.gnum) with
        gaths := (s.stns[st]).write.gaths.map (fun x => if x.gnum = g.gnum then r.2 else x)
        empties := (s.stns[st]).write.emptiesAfter g } }
    have here : (u.stns[st]).Open r.1 ∧ (u.stns[st]).write.toSend = ((s.stns[st]).write.layGath (gathPositions g) g.gnum).toSend ∧
        r.2 ∈ (u.stns[st]).write.gaths := by
      simp only [u]
      rw [State.modStn_stn]
      refine ⟨⟨rfl, closing.trans open_.closing, ?_⟩, rfl, List.mem_map.2 ⟨g, List.mem_of_find?_eq_some next, if_pos rfl⟩⟩
      exact (Write.layGath_keeps ..).trans open_.flushes
    replace run : exec (.gatheringPlace st n) s = .next (u.settle st) := run
    clear_value u
    obtain ⟨openU, sent, mem⟩ := here
    have packs := (State.settle_packs openU).write
    obtain ⟨g', mem', same⟩ := packs.kept r.2 mem
    refine ⟨_, run, by rw [packs.rest]; exact sent, g', mem', ?_⟩
    rw [same]
    exact placed

/-- A gathering that does not fit ends the layout of the wrap. -/
theorem exec_gatheringPlace_over (fits : (s.stns[st]).write.fits v = false) :
    ∃ t, exec (.gatheringPlace st n) s = .next t ∧ (t.stns[st]).write.wrapOver = true := by
  have run := exec_gatheringPlace_next n open_ ready tail reserve lays ahead lpos next released
  rw [if_neg (by rw [fits]; decide)] at run
  let u := s.modStn st fun t => t.modWrite fun w => w.endBand (lastPlaced v w)
  have here : (u.stns[st]).Open v ∧ (u.stns[st]).write.wrapOver = true := by
    simp only [u]
    rw [State.modStn_stn]
    obtain ⟨wrap, flushes⟩ := Write.endBand_over (s.stns[st]).write (lastPlaced v (s.stns[st]).write)
    exact ⟨open_.of_stn rfl flushes, wrap⟩
  replace run : exec (.gatheringPlace st n) s = .next (u.settle st) := run
  clear_value u
  exact ⟨_, run, by rw [(State.settle_packs here.1).write.rest]; exact here.2⟩

end

/-! ### EMPTY_GATHERING -/

/-- The gathering that closes takes the volume's next number and the open segments. -/
theorem State.closeGath_stn {s : State} {st : Stn} {v : VolCtx} (ctx : (s.stns[st]).ctx = some v) (a b : Bool) :
    ∃ v' g, ((s.closeGath st a b).stns[st]).ctx = some v' ∧ v'.gnum = v.gnum + 1 ∧
      ((s.closeGath st a b).stns[st]).write.gaths = (s.stns[st]).write.gaths ++ [g] ∧ g.gnum = v.gnum ∧ g.segs = (s.stns[st]).write.openSegs ∧
      ((s.closeGath st a b).stns[st]).write.openSegs = [] ∧ ((s.closeGath st a b).stns[st]).write.empties = (s.stns[st]).write.empties := by
  have opened : ((s.stns[st]).write.opened.getD (s.stns[st]).write).gaths = (s.stns[st]).write.gaths ∧
      ((s.stns[st]).write.opened.getD (s.stns[st]).write).openSegs = (s.stns[st]).write.openSegs ∧
      ((s.stns[st]).write.opened.getD (s.stns[st]).write).empties = (s.stns[st]).write.empties := by
    unfold Write.opened
    split <;> exact ⟨rfl, rfl, rfl⟩
  generalize hu : s.closeGath st a b = u
  unfold State.closeGath at hu
  extract_lets t at hu
  split at hu
  next h => rw [show t.ctx = some v from ctx] at h; cases h
  next v0 h =>
    rw [show t.ctx = some v from ctx] at h
    cases h
    rw [← hu, State.addJob_stns, State.modStn_stn]
    obtain ⟨gaths, segs, empties⟩ := opened
    exact ⟨_, _, rfl, rfl, congrArg (· ++ _) gaths, rfl, segs, rfl, empties⟩

/-- An empty gathering closes; an open gathering that holds segments stays as it is. -/
theorem State.closeEmpty_stn {s : State} {st : Stn} {v : VolCtx} (ctx : (s.stns[st]).ctx = some v) (whole : (s.stns[st]).write.openSegs.any (·.inc) = false) :
    ∃ v' g, ((s.closeEmpty st).stns[st]).ctx = some v' ∧ v'.gnum = v.gnum + 1 ∧
      ((s.closeEmpty st).stns[st]).write.gaths = (s.stns[st]).write.gaths ++ [g] ∧ g.gnum = v.gnum ∧ g.segs = [] ∧
      ((s.closeEmpty st).stns[st]).write.openSegs = (s.stns[st]).write.openSegs ∧
      ((s.closeEmpty st).stns[st]).write.empties = (s.stns[st]).write.empties := by
  unfold State.closeEmpty
  extract_lets w s1
  by_cases empty : w.openSegs.isEmpty
  · rw [if_pos (.inl empty)]
    obtain ⟨v', g, ctx', gnum, gaths, number, segs, open_, empties⟩ := State.closeGath_stn ctx false false
    have none_ : (s.stns[st]).write.openSegs = [] := List.isEmpty_iff.1 empty
    exact ⟨v', g, ctx', gnum, gaths, number, segs.trans none_, open_.trans none_.symm, empties⟩
  · rw [if_neg (by rintro (h | h) <;> [exact empty h; exact absurd h (by rw [show w.openSegs.any (·.inc) = false from whole]; decide)])]
    let u := s.modStn st fun t => t.modWrite fun w => { w with openSegs := [], openBytes := [], openBuf := none }
    have here : (u.stns[st]).ctx = some v ∧ (u.stns[st]).write.openSegs = [] ∧ (u.stns[st]).write.gaths = (s.stns[st]).write.gaths ∧
        (u.stns[st]).write.empties = (s.stns[st]).write.empties := by
      simp only [u]
      rw [State.modStn_stn]
      exact ⟨ctx, rfl, rfl, rfl⟩
    obtain ⟨ctxU, segsU, gathsU, emptiesU⟩ := here
    obtain ⟨v', g, ctx', gnum, gaths, number, segs, -, empties⟩ := State.closeGath_stn ctxU false false
    rw [State.modStn_stn]
    exact ⟨v', g, ctx', gnum, gaths.trans (congrArg (· ++ [g]) gathsU), number, segs.trans segsU, rfl, empties.trans emptiesU⟩

theorem exec_emptyGathering_made {s : State} {st : Stn} {v : VolCtx} (open_ : (s.stns[st]).Open v) (ready : s.ready = true)
    (writing : (s.stns[st]).write.feed = .writing) (placed : (s.stns[st]).write.unplaced = 0) (ahead : (s.stns[st]).write.ahead < 2)
    (may : s.mayClose st = true) (has : (s.stns[st]).write.hasEmpty = true) (few : (s.stns[st]).write.empties < 256)
    (whole : (s.stns[st]).write.openSegs.any (·.inc) = false) : ∃ t v' g, exec (.emptyGathering st) s = .next t ∧ (t.stns[st]).ctx = some v' ∧
      v'.gnum = v.gnum + 1 ∧ (t.stns[st]).write.gaths = (s.stns[st]).write.gaths ++ [g] ∧ g.gnum = v.gnum ∧ g.segs = [] ∧
      (t.stns[st]).write.openSegs = (s.stns[st]).write.openSegs ∧ (t.stns[st]).write.empties = (s.stns[st]).write.empties + 1 := by
  have run : exec (.emptyGathering st) s = .next ((s.closeEmpty st).modStn st fun t => t.modWrite fun w => { w with empties := w.empties + 1 }) := by
    refine congrArg Host.Outcome.next ?_
    rw [if_neg (by rw [ready, writing, placed, may, has]; simpa using ahead), if_neg (by rintro ⟨h, -⟩; omega), open_.flushes]
    rfl
  obtain ⟨v', g, ctx', gnum, gaths, number, segs, same, empties⟩ := State.closeEmpty_stn open_.ctx whole
  refine ⟨_, v', g, run, ?_⟩
  rw [State.modStn_stn]
  exact ⟨ctx', gnum, gaths, number, segs, same, congrArg (· + 1) empties⟩

/-! ### BAND_FREEZE -/

/-- A band that is not frozen yet. -/
def TxPos.unfrozen (p : TxPos) : Bool :=
  match p.kind with
  | .band _ => p.slots.isEmpty
  | _ => false

theorem exec_bandFreeze_freezes {s : State} {st : Stn} {p : TxPos} (due : (s.stns[st]).write.toSend.find? TxPos.unfrozen = some p) :
    ∃ t, exec (.bandFreeze st) s = .next t ∧ ∀ x ∈ (t.stns[st]).write.toSend, x.seq = p.seq → x.slots = fillBand (s.stns[st]).write p.bandNo := by
  refine ⟨_, rfl, ?_⟩
  rw [State.modStn_stn]
  show ∀ x ∈ ((s.stns[st]).write.freeze).toSend, _
  unfold Write.freeze
  generalize found : List.find? _ _ = o
  obtain rfl : o = some p := found.symm.trans due
  intro x hx number
  obtain ⟨y, -, rfl⟩ := List.mem_map.1 hx
  by_cases h : y.seq = p.seq
  · rw [if_pos h]
  · rw [if_neg h] at number
    exact absurd number h

/-- Settles O48: each row by its rule above. -/
theorem gatheringsRecorded : Obligations.GatheringsRecorded := by
  unfold Obligations.GatheringsRecorded
  intro s st v ctx closing flushes power
  have open_ : (s.stns[st]).Open v := ⟨ctx, closing, flushes⟩
  refine ⟨fun n away => congrArg Host.Outcome.next (if_pos (by rw [away]; rfl)),
    fun n g ready tail reserve lays ahead lpos next released => ⟨fun fits => ?_, fun fits => ?_, fun fits => ?_⟩, ?_, fun unplaced => ?_, fun p due => ?_,
    fun g found undecided => exec_gatheringAcceptance_waits found power undecided, fun g found lt decided stabled passes made => ?_,
    fun g found decided stabled fails sound kind => ?_⟩
  · exact (exec_gatheringPlace_fits n open_ ready tail reserve lays ahead lpos next released fits).1
  · exact (exec_gatheringPlace_fits n open_ ready tail reserve lays ahead lpos next released fits).2
  · exact exec_gatheringPlace_over n open_ ready tail reserve lays ahead lpos next released fits
  · exact fun ready writing placed ahead may has few whole => exec_emptyGathering_made open_ ready writing placed ahead may has few whole
  · exact congrArg Host.Outcome.next (if_pos (.inr (.inr (.inl unplaced))))
  · exact exec_bandFreeze_freezes due
  · exact exec_gatheringAcceptance_passes found decided stabled power open_ lt passes made
  · exact exec_gatheringAcceptance_fault found decided stabled ctx flushes power fails sound kind

end Sys2Proof.Machine
end

section
/-!
OBLIGATIONS. The rows of the read channel (O52): a row that was not received is Missing in verify, and the row that has waited longest for a
retry gets its next attempt.
-/
namespace Sys2Proof.Machine

/-! ### Grades -/

theorem State.faultBegins_going (s : State) (st : Stn) (v : VolCtx) : Going s (s.faultBegins st v) :=
  (State.raise_going s _ 0).trans (State.modStn_going _ st _ rfl)

theorem State.writeFault_going (s : State) (st : Stn) : Going s (s.writeFault st) := by
  cases ctx : (s.stns[st]).ctx with
  | none =>
    have same : s.writeFault st = s := by unfold State.writeFault; rw [ctx]
    rw [same]
    exact Going.refl s
  | some v =>
    cases sound : v.faulted with
    | false =>
      rw [State.writeFault_eq ctx sound]
      exact ((State.faultBegins_going s st v).trans (State.faultGoes_keeps _ st v).2).trans (State.settle_going ..)
    | true =>
      have fails : s.writeFault st = s.closureFailed st := by unfold State.writeFault; rw [ctx]; exact if_pos sound
      rw [fails]
      exact State.closureFailed_going s st

theorem State.trackDied_going (s : State) (st : Stn) (t : Track) : Going s (s.trackDied st t) := by
  unfold State.trackDied
  extract_lets s1 n
  have raised : Going s s1 := State.raise_going ..
  split
  · exact raised
  · split
    · split
      · exact raised.trans (State.closureFailed_going ..)
      · exact raised
    · split
      · exact raised.trans (State.writeFault_going ..)
      · exact raised

theorem Write.queueRow_sent (w : Write) (n r : Nat) (t : Track) (hard : Bool) (reach : Nat) : (w.queueRow n r t hard reach).sent = w.sent := by
  unfold Write.queueRow
  split <;> rfl

theorem Write.verdict_sent (w : Write) (n r : Nat) (t : Track) (g : Grade) : (w.verdict n r t g).sent = w.sent := by
  unfold Write.verdict
  split
  · rw [Write.expire_sent]
  · rfl

theorem Write.queueGrade_sent (w : Write) (p : TxPos) (t : Track) (g : Grade) : (w.queueGrade p t g).sent = w.sent := by
  unfold Write.queueGrade
  split
  · split
    · rfl
    · exact Write.queueRow_sent ..
  · split
    · exact Write.verdict_sent ..
    · rfl
  · rfl

/-- A position as it is once its row on a track has its grade, where it is the one of a sequence number. -/
def TxPos.withGrade (seq : Nat) (t : Track) (g : Grade) (q : TxPos) : TxPos := if q.seq = seq then { q with graded := q.graded ++ [(t, g)] } else q

theorem Write.gradeRow_sent (w : Write) (p : TxPos) (t : Track) (g : Grade) : (w.gradeRow p t g).1.sent = w.sent.map (TxPos.withGrade p.seq t g) := by
  unfold Write.gradeRow
  extract_lets b w1 sum full dies w2
  split
  · exact Write.queueGrade_sent ..
  · have queued : w2.sent = w1.sent := Write.queueGrade_sent ..
    dsimp only
    split
    · exact queued
    · exact queued

/-- A row that had no grade has the one that it was given, wherever its position still is among those sent. -/
theorem State.grade_graded {s : State} {st : Stn} {pos : Nat} {p : TxPos} {t : Track}
    (found : (s.stns[st]).write.sent.find? (fun q => q.seq == pos) = some p) (fresh : (p.graded.any fun x => x.1 == t) = false) (g : Grade) :
    ∀ q ∈ ((s.grade st pos t g).stns[st]).write.sent, q.seq = pos → (t, g) ∈ q.graded := by
  let r := (s.stns[st]).write.gradeRow p t g
  let s1 := s.modStn st fun k => { k with write := r.1.dropGraded }
  have eq : s.grade st pos t g = if r.2 then s1.trackDied st t else s1 := by
    unfold State.grade
    rw [found]
    exact if_neg (by rw [fresh]; decide)
  rw [eq]
  have seq : p.seq = pos := by simpa using List.find?_some found
  have graded : ∀ q ∈ (s1.stns[st]).write.sent, q.seq = pos → (t, g) ∈ q.graded := by
    intro q hq hseq
    simp only [s1] at hq
    rw [State.modStn_stn] at hq
    have mem : q ∈ r.1.sent := List.mem_of_mem_filter hq
    rw [Write.gradeRow_sent] at mem
    obtain ⟨x, -, rfl⟩ := List.mem_map.1 mem
    unfold TxPos.withGrade at hseq ⊢
    split at hseq
    · rw [if_pos (by assumption)]
      exact List.mem_append_right _ (List.mem_singleton.2 rfl)
    next other => exact absurd (hseq.trans seq.symm) other
  split
  · exact fun q hq => graded q ((State.trackDied_going s1 st t).sent st hq)
  · exact graded

theorem State.count_write (s : State) (st : Stn) (t : Nat) (l : List Nat) : ((s.count st t l).stns[st]).write = (s.stns[st]).write :=
  (congrArg Station.write (State.modStn_stn ..)).trans rfl

theorem State.rowMissing_graded {s : State} {st : Stn} {pos : Nat} {p : TxPos} {t : Track}
    (found : (s.stns[st]).write.sent.find? (fun q => q.seq == pos) = some p) (fresh : (p.graded.any fun x => x.1 == t) = false) (grid : Bool) :
    ∀ q ∈ ((s.rowMissing st pos t grid).stns[st]).write.sent, q.seq = pos → (t, Grade.missing) ∈ q.graded := by
  unfold State.rowMissing
  extract_lets s1
  have same : (s1.stns[st]).write = (s.stns[st]).write := by
    simp only [s1]
    rw [State.modStn_stn]
    cases grid
    · rfl
    · exact State.count_write ..
  have found1 := found
  rw [← same] at found1
  rw [found1]
  refine State.grade_graded ?_ fresh .missing
  rw [(State.trace_events ..).1]
  exact found1

/-! ### Rows that wait for a retry -/

/-- The rows of a station that wait for a retry, the longest first. -/
def State.retries (s : State) (st : Stn) : List RetryRow := (s.stns[st]).link.retry

theorem Going.retries {s t : State} (h : Going s t) (st : Stn) : t.retries st = s.retries st := (h.links st).retry

theorem State.modStn_retries (s : State) (st : Stn) (f : Station → Station) (h : (f s.stns[st]).link.retry = (s.stns[st]).link.retry) :
    (s.modStn st f).retries st = s.retries st :=
  (congrArg (fun t : Station => t.link.retry) (State.modStn_stn s st f)).trans h

theorem State.count_retries (s : State) (st : Stn) (t : Nat) (l : List Nat) : (s.count st t l).retries st = s.retries st :=
  State.modStn_retries s st _ rfl

theorem State.grade_retries (s : State) (st : Stn) (pos : Nat) (t : Track) (g : Grade) : (s.grade st pos t g).retries st = s.retries st := by
  unfold State.grade
  split
  · rfl
  split
  · rfl
  extract_lets r s1
  have kept : s1.retries st = s.retries st := State.modStn_retries s st _ rfl
  split
  · exact ((State.trackDied_going s1 st t).retries st).trans kept
  · exact kept

theorem State.tailOver_retries (s : State) (st : Stn) : (s.tailOver st).retries st = s.retries st := by
  unfold State.tailOver
  extract_lets t k
  split
  · exact ((State.controlledStop_going ..).retries st).trans (State.modStn_retries s st _ rfl)
  · rfl

theorem State.gathRow_retries (s : State) (st : Stn) (p : RxPos) (n : Nat) (kind : GKind) (i : Nat) (t : Track) (syms : List Nat) (r : RRow) :
    (s.gathRow st p n kind i t syms r).retries st = s.retries st := by
  unfold State.gathRow
  extract_lets k row ord
  split
  · rfl
  split
  · exact ((State.controlledStop_going ..).retries st).trans (State.modStn_retries s st _ rfl)
  · refine State.modStn_retries s st _ ?_
    dsimp only
    split <;> rfl

theorem State.tailRead_retries (s : State) (st : Stn) (p : RxPos) (low i : Nat) : (s.tailRead st p low i).retries st = s.retries st := by
  refine State.modStn_retries s st _ ?_
  dsimp only
  split <;> rfl

theorem State.recallRow_retries (s : State) (st : Stn) (p : RxPos) (t : Track) (syms : List Nat) (load : Nat) (id : Option RowId) :
    (s.recallRow st p t syms load id).retries st = s.retries st := by
  unfold State.recallRow
  extract_lets k r
  split
  · split
    · exact State.gathRow_retries ..
    · split
      · rfl
      · split
        · exact State.tailRead_retries ..
        · exact State.gathRow_retries ..
  · split
    · split
      · rfl
      · extract_lets a s1
        have kept : s1.retries st = s.retries st := State.modStn_retries s st _ rfl
        split
        · exact ((State.raise_going ..).retries st).trans kept
        · exact kept
    · rfl
  · rfl

theorem State.rowDone_retries (s : State) (st : Stn) (pos : Nat) (t : Track) (o : RowOut) (rung : Nat) :
    (s.rowDone st pos t o rung).retries st = s.retries st := by
  have packet (a : State) (l : List (BitVec 64)) : (a.trace (dieOf st) 3 l).retries st = a.retries st := (State.trace_going a _ _ _).retries st
  unfold State.rowDone
  extract_lets k info sent way s0 g bad
  have noted : s0.retries st = s.retries st := (State.modStn_retries _ st _ rfl).trans (State.count_retries ..)
  clear_value s0 sent
  split
  · extract_lets x s1
    have told : s1.retries st = s.retries st := by
      simp only [s1]
      split
      · exact noted
      · exact (packet ..).trans noted
    exact (State.grade_retries ..).trans told
  · split
    · exact noted
    · extract_lets gr s1 s2
      have told : s1.retries st = s.retries st := by
        simp only [s1]
        split
        · exact (packet ..).trans noted
        · exact noted
      have counted : s2.retries st = s.retries st := by
        simp only [s2]
        split
        · exact (State.count_retries ..).trans told
        · exact told
      refine (State.tailOver_retries ..).trans ?_
      split
      · exact (State.recallRow_retries ..).trans counted
      · exact counted

/-- The next attempt of the row that has waited longest: it goes, or waits on with one attempt more. -/
theorem State.retryAttempt_retries {s : State} {st : Stn} {r : RetryRow} {rest : List RetryRow} (first : (s.stns[st]).link.retry = r :: rest) :
    (s.retryAttempt st).retries st = rest ∨ ∃ b, (s.retryAttempt st).retries st = { r with tries := r.tries + 1, back := b } :: rest := by
  unfold State.retryAttempt
  extract_lets k g
  split
  next empty => cases empty.symm.trans first
  next r' rest' front =>
  obtain ⟨rfl, rfl⟩ := List.cons.inj (first.symm.trans front)
  extract_lets cells prim l drop lost finish
  have dropped : drop.retries st = rest := congrArg (fun t : Station => t.link.retry) (State.modStn_stn s st _)
  have finished (b : Option (Int × List Nat × Nat × Nat)) : (finish drop b).retries st = rest := by
    simp only [finish]
    split
    · exact (State.count_retries ..).trans ((State.rowDone_retries ..).trans dropped)
    · exact (State.rowDone_retries ..).trans dropped
  split
  · exact .inl (finished _)
  · extract_lets x back once cnt
    have counted (a : State) : (cnt a).retries st = a.retries st := by
      simp only [cnt]
      split
      · exact State.count_retries ..
      · rfl
    split
    · exact .inl ((State.count_retries ..).trans ((counted _).trans ((State.rowDone_retries ..).trans dropped)))
    · split
      · exact .inl ((counted _).trans (finished _))
      · exact .inr ⟨back, (counted _).trans (congrArg (fun t : Station => t.link.retry) (State.modStn_stn s st _))⟩

/-! ### The obligation -/

section
variable {s : State} {st : Stn} {pos : Nat} (unread : (s.stns[st]).link.rx.find? (fun q => q.num == pos) = none)

theorem exec_rowDecode_unwanted (unsent : (s.stns[st]).write.sent.find? (fun p => p.seq == pos) = none) (still : (s.stns[st]).readSide.active = false)
    (t : Track) : exec (.rowDecode st pos t) s = .next s := by
  refine congrArg Host.Outcome.next ?_
  unfold State.rowDecode
  extract_lets k lane sent off
  have gone : sent = none := unsent
  split
  · rw [gone]
    rfl
  · have unwanted : k.wantsRows pos = false := by
      unfold Station.wantsRows
      rw [Bool.or_eq_false_iff, List.any_eq_false]
      exact ⟨still, fun p hp => List.find?_eq_none.1 unsent p hp⟩
    rw [unwanted]
    rfl

include unread in
theorem exec_rowDecode_missing {p : TxPos} {t : Track} (found : (s.stns[st]).write.sent.find? (fun q => q.seq == pos) = some p)
    (fresh : (p.graded.any fun x => x.1 == t) = false) (past : pos < (s.stns[st]).link.rxNum ∨ (s.stns[st]).link.grid = none) :
    exec (.rowDecode st pos t) s = .next (s.rowMissing st pos t true) := by
  refine congrArg Host.Outcome.next ?_
  unfold State.rowDecode
  extract_lets k lane sent off
  have here : sent = some p := found
  split
  · refine if_pos ?_
    simp only [here, Option.any_some, fresh, Bool.not_false, Bool.true_and, Bool.or_eq_true, decide_eq_true_eq]
    exact past.imp id fun h => by simp only [k, h]; rfl
  next q read => cases read.symm.trans unread

end

/-- Settles O52: what a row without a grade is graded when its cells have gone by, and what an attempt leaves of the rows that wait, follow from
the grade that is put with its position and from the queue of retries, which nothing else of an attempt moves. -/
theorem rowsGraded : Obligations.RowsGraded := by
  intro s st
  refine ⟨fun pos t unsent still => exec_rowDecode_unwanted unsent still t, fun pos p t found fresh unread past =>
    ⟨_, exec_rowDecode_missing unread found fresh past, State.rowMissing_graded found fresh true⟩, fun empty => ?_, fun r rest first =>
    ⟨_, rfl, State.retryAttempt_retries first⟩⟩
  refine congrArg Host.Outcome.next ?_
  unfold State.retryAttempt
  extract_lets k
  split
  · rfl
  next front => cases front.symm.trans empty

end Sys2Proof.Machine
end

section
/-!
OBLIGATIONS. The speed of a writing station, and where its writing stops and goes on (O49).
-/
namespace Sys2Proof.Machine

/-! ### The speed decision -/

/-- A station whose ratio has been brought up to date (R134). -/
def State.rated (s : State) (st : Stn) : State := s.modStn st fun t => t.modSpeed fun x => x.ratio s.clock

theorem State.rated_stn (s : State) (st : Stn) :
    (s.rated st).stns[st] = { s.stns[st] with speed := (s.stns[st]).speed.ratio s.clock } := State.modStn_stn ..

theorem State.rated_occupancy (s : State) (st : Stn) : (s.rated st).occupancy st = s.occupancy st := by
  unfold State.occupancy Station.charges
  rw [State.rated_stn]
  rfl

theorem State.rated_ceiling (s : State) (st : Stn) : (s.rated st).ceiling st = s.ceiling st := by
  unfold State.ceiling
  rw [State.rated_stn]
  rfl

theorem State.rated_mayStart (s : State) (st : Stn) : (s.rated st).mayStart st = s.mayStart st := by
  have same : (s.rated st).mayMove st = s.mayMove st := by
    unfold State.mayMove State.linkLost
    rw [State.rated_stn]
    rfl
  unfold State.mayStart
  rw [State.rated_stn, same]
  rfl

theorem State.turnAtRest_idle {s : State} {st : Stn} (h : (s.stns[st]).write.wrapOver = false ∨ (s.stns[st]).write.feed ≠ .off) :
    s.turnAtRest st = s := by
  unfold State.turnAtRest
  extract_lets t
  split
  · rfl
  · refine if_neg fun ⟨isOver, _, off, _⟩ => ?_
    rcases h with h | h
    · exact absurd (h.symm.trans isOver) (by decide)
    · exact h off

theorem State.serveSeek_idle {s : State} {st : Stn} (h : (s.stns[st]).speed.wantSeek = false) : s.serveSeek st = s :=
  if_pos (.inl (by rw [h]; rfl))

theorem State.readAgain_idle {s : State} {st : Stn} (h : (s.stns[st]).servo.motion = .moving) : s.readAgain st = s := by
  unfold State.readAgain
  exact if_pos (.inr (.inr (.inr (.inr (.inl (by rw [h]; decide))))))

/-- A station once the counts of its link begin a new interval. -/
def State.newCounts (s : State) (st : Stn) : State := s.modStn st fun t => t.modLink fun k => { k with counts := [] }

theorem State.newCounts_stn (s : State) (st : Stn) : (s.newCounts st).stns[st] = { s.stns[st] with link := { (s.stns[st]).link with counts := [] } } :=
  State.modStn_stn ..

/-- A decision after which the tape moves and nothing waits for it. -/
theorem exec_speedDecision_moves {s t : State} {st : Stn} (turned : s.turnAtRest st = s) (decided : s.speedDecide st = t)
    (seek : (t.stns[st]).speed.wantSeek = false) (moves : (t.stns[st]).servo.motion = .moving) (power : t.power.target = none) :
    exec (.speedDecision st) s = .next (t.newCounts st) := by
  have run : exec (.speedDecision st) s = .next (((((s.turnAtRest st).speedDecide st).serveSeek st).readAgain st).powerGo.newCounts st) := rfl
  rw [run, turned, decided, State.serveSeek_idle seek, State.readAgain_idle moves, State.powerGo_idle power]

/-- A step of a station that moves. -/
theorem State.stepTo_stn (s : State) (st : Stn) (i : Nat) (hm : (s.stns[st]).servo.motion = .moving) :
    (s.stepTo st i).stns[st] = { (s.runOut st).stns[st] with
      servo := { (s.stns[st]).servo with
        ramp := some (.step, ladder i), vRef := (s.stns[st]).servo.vHat, motion := .moving, settled := false, calm := 0, setStep := i }
      speed := { (s.stns[st]).speed with stepping := some i } } := by
  have keep := State.runOut_writeOnly s st
  unfold State.stepTo
  rw [State.modStn_stn, State.rampTo_stn]
  unfold Station.modServo
  beta_reduce
  rw [keep.servo, keep.speed, Servo.rampTo_of_closed (.inl hm)]

section
variable {s : State} {st : Stn} (power : s.power.target = none) (seek : (s.stns[st]).speed.wantSeek = false)
include power seek

section
variable (stopped : (s.stns[st]).speed.stopped = false) (ready : s.ready = true) (writing : (s.stns[st]).write.feed = .writing)
  (ramp : (s.stns[st]).servo.ramp = none) (stepping : (s.stns[st]).speed.stepping = none) (parity : (s.stns[st]).parityRuns = false)
  (moving : (s.stns[st]).servo.motion = .moving)
include stopped ready writing ramp stepping parity moving

/-- What the decision of a writing station that nothing holds back chooses. -/
def State.choice (s : State) (st : Stn) : State :=
  let o := s.occupancy st
  let cur := (s.stns[st]).servo.setStep
  let s1 := s.rated st
  if s.ceiling st < cur then s1.stepTo st (s.ceiling st)
  else if o ≤ s.img.stop then s1.controlledStop st
  else if o ≤ s.img.low ∧ s1.floor st < cur then s1.stepTo st (cur - 1)
  else if s.img.high ≤ o ∧ cur < s.ceiling st ∧ (s.stns[st]).speed.lastStep + s.img.dwell ≤ s.clock then s1.stepTo st (cur + 1)
  else s1

omit power moving in
theorem State.speedDecide_chooses : s.speedDecide st = s.choice st := by
  have stn := State.rated_stn s st
  unfold State.speedDecide State.choice
  extract_lets s0 t o g lo hi cur o' cur' s1
  have rated : s0 = s1 := rfl
  have occ : o = o' := State.rated_occupancy s st
  have ceil : hi = s.ceiling st := State.rated_ceiling s st
  have step : cur = cur' := (congrArg (fun x : Station => x.servo.setStep) stn).trans rfl
  have speed : t.speed = (s.stns[st]).speed.ratio s.clock := congrArg Station.speed stn
  have free : (t.speed.wantSeek && t.write.feed == .writing && t.ctx.any (fun v => v.inGroup == 0 && !v.grpEnd) && !t.parityRuns
      && t.servo.ramp.isNone && t.write.unplaced == 0) = false := by
    rw [speed, show ((s.stns[st]).speed.ratio s.clock).wantSeek = false from seek]
    rfl
  have goes : (!s0.ready || t.write.feed != .writing || t.servo.ramp.isSome || t.speed.stepping.isSome || t.parityRuns) = false := by
    have hr : s0.ready = true := ready
    have hw : t.write.feed = .writing := (congrArg (fun x : Station => x.write.feed) stn).trans writing
    have hp : t.servo.ramp = none := (congrArg (fun x : Station => x.servo.ramp) stn).trans ramp
    have hs : t.speed.stepping = none := (congrArg (fun x : Station => x.speed.stepping) stn).trans stepping
    have hq : t.parityRuns = false := (congrArg Station.parityRuns stn).trans parity
    rw [hr, hw, hp, hs, hq]
    rfl
  rw [if_neg (by rw [speed]; exact (by rw [stopped]; decide : ¬ (s.stns[st]).speed.stopped = true)), if_neg (by rw [free]; decide),
    if_neg (by rw [goes]; decide), ceil, occ, step]
  simp only [Bool.and_eq_true, decide_eq_true_eq, ge_iff_le, gt_iff_lt, and_assoc]
  rw [speed]
  rfl

omit stopped ready writing ramp stepping parity in
/-- A step that the decision takes. -/
theorem State.rated_stepTo (i : Nat) : let t := (s.rated st).stepTo st i
    (t.stns[st]).speed.wantSeek = false ∧ (t.stns[st]).servo.motion = .moving ∧ t.power.target = none ∧
      (t.stns[st]).speed.stepping = some i ∧ (t.stns[st]).servo.setStep = i := by
  intro t
  have stn := State.rated_stn s st
  have stepped : t.stns[st] = _ := State.stepTo_stn (s.rated st) st i (by rw [stn]; exact moving)
  have only : StnOnly st s t := (State.modStn_stnOnly ..).trans (State.stepTo_stnOnly ..)
  rw [only.power, stepped, stn]
  exact ⟨seek, rfl, power, rfl, rfl⟩

omit stopped ready writing parity in
/-- What the decision of a writing station that nothing holds back does. -/
theorem State.choice_spec : let t := s.choice st
    (t.stns[st]).speed.wantSeek = false ∧ (t.stns[st]).servo.motion = .moving ∧ t.power.target = none ∧
      if s.ceiling st < (s.stns[st]).servo.setStep then
        (t.stns[st]).speed.stepping = some (s.ceiling st) ∧ (t.stns[st]).servo.setStep = s.ceiling st
      else if s.occupancy st ≤ s.img.stop then (t.stns[st]).speed.stopping = true ∧ (t.stns[st]).servo.stops = true
      else if s.occupancy st ≤ s.img.low ∧ (s.rated st).floor st < (s.stns[st]).servo.setStep then
        (t.stns[st]).speed.stepping = some ((s.stns[st]).servo.setStep - 1) ∧ (t.stns[st]).servo.setStep = (s.stns[st]).servo.setStep - 1
      else if s.img.high ≤ s.occupancy st ∧ (s.stns[st]).servo.setStep < s.ceiling st ∧ (s.stns[st]).speed.lastStep + s.img.dwell ≤ s.clock then
        (t.stns[st]).speed.stepping = some ((s.stns[st]).servo.setStep + 1) ∧ (t.stns[st]).servo.setStep = (s.stns[st]).servo.setStep + 1
      else (t.stns[st]).speed.stepping = none ∧ (t.stns[st]).servo.setStep = (s.stns[st]).servo.setStep ∧
        (t.stns[st]).write = (s.stns[st]).write := by
  have stn := State.rated_stn s st
  have step := State.rated_stepTo power seek moving
  intro t
  simp only [t]
  unfold State.choice
  extract_lets o cur s1
  split
  · exact step _
  split
  · have stops : (s1.stns[st]).servo.stops = false := by
      rw [stn]
      unfold Servo.stops
      rw [ramp]
      rfl
    have only : StnOnly st s (s1.controlledStop st) := (State.modStn_stnOnly ..).trans (State.controlledStop_stnOnly ..)
    rw [only.power, State.controlledStop_stn s1 st (by rw [stn]; exact moving) stops, stn]
    exact ⟨seek, rfl, power, rfl, rfl⟩
  split
  · exact step _
  split
  · exact step _
  · rw [stn]
    exact ⟨seek, moving, power, stepping, rfl, rfl⟩

end

omit power seek in
/-- A run back of a station whose loops hold its tape. -/
theorem State.runBack_stn {b : RunBack} (rests : (s.stns[st]).servo.motion = .moving ∨ (s.stns[st]).servo.motion = .tensioned) :
    (s.runBack st b).stns[st] = { s.stns[st] with servo := { (s.stns[st]).servo with
      reverse := !b.rev, back := some b, ramp := some (.backhitch, b.mm), vRef := (s.stns[st]).servo.vHat, motion := .moving
      settled := false, calm := 0 } } := by
  unfold State.runBack
  rw [State.rampTo_stn, State.modStn_stn]
  exact congrArg (fun v => { s.stns[st] with servo := v })
    (Servo.rampTo_of_closed (v := { (s.stns[st]).servo with reverse := !b.rev, back := some b }) rests _ _)

omit power seek in
theorem State.runBack_stnOnly {b : RunBack} : StnOnly st s (s.runBack st b) := (State.modStn_stnOnly ..).trans (State.rampTo_stnOnly ..)

section
variable {v : VolCtx} (ctx : (s.stns[st]).ctx = some v) (tensioned : (s.stns[st]).servo.motion = .tensioned)

omit power seek in
include ctx tensioned in
/-- A start from rest: straight at the start of a wrap that lies ahead, and else after a run back. -/
theorem State.startAt_spec (i : Nat) : let t := s.startAt st i
    let rev := (s.stns[st]).write.wrap % 2 == 1
    (t.stns[st]).speed.wantSeek = (s.stns[st]).speed.wantSeek ∧ (t.stns[st]).servo.motion = .moving ∧ t.power = s.power ∧
      (t.stns[st]).write.feed = .resume ∧
      if (s.stns[st]).write.cellPos = 0 ∧ (s.stns[st]).inRange v.geo rev = false then (t.stns[st]).servo.reverse = rev
      else (t.stns[st]).servo.back.isSome = true ∧ (t.stns[st]).servo.reverse = !rev := by
  intro t rev
  simp only [t]
  unfold State.startAt
  extract_lets w rev' d geo s1
  have same : geo = v.geo := by simp only [geo]; rw [ctx]
  have straight : (w.cellPos = 0 ∧ (!(s.stns[st]).inRange geo rev') = true) ↔
      ((s.stns[st]).write.cellPos = 0 ∧ (s.stns[st]).inRange v.geo rev = false) := by
    rw [same, Bool.not_eq_true']
  rw [State.modStn_stn]
  by_cases h : (s.stns[st]).write.cellPos = 0 ∧ (s.stns[st]).inRange v.geo rev = false
  · have here : s1 = (s.modStn st fun t => t.modServo fun v => { v with reverse := rev' }).rampTo st .start (ladder i) := if_pos (straight.2 h)
    have stn : s1.stns[st] = { s.stns[st] with servo := { (s.stns[st]).servo with
        reverse := rev', ramp := some (.start, ladder i), vRef := (s.stns[st]).servo.vHat, motion := .moving, settled := false, calm := 0 } } := by
      rw [here, State.rampTo_stn, State.modStn_stn]
      exact congrArg (fun v => { s.stns[st] with servo := v })
        (Servo.rampTo_of_closed (v := { (s.stns[st]).servo with reverse := rev' }) (.inr tensioned) _ _)
    have power : s1.power = s.power := by rw [here]; rfl
    rw [if_pos h, stn]
    exact ⟨rfl, rfl, power, rfl, rfl⟩
  · have here : s1 = d.2.runBack st ⟨lposBefore rev' (placeLpos geo w.wrap w.cellPos) (1 + d.1 % 100000), rev', .start, ladder i⟩ :=
      if_neg fun e => h (straight.1 e)
    have stn := State.runBack_stn (s := d.2) (st := st)
      (b := ⟨lposBefore rev' (placeLpos geo w.wrap w.cellPos) (1 + d.1 % 100000), rev', .start, ladder i⟩) (.inr tensioned)
    have power : s1.power = s.power := by rw [here]; exact State.runBack_stnOnly.power
    rw [if_neg h]
    rw [← here] at stn
    rw [stn]
    exact ⟨rfl, rfl, power, rfl, rfl, rfl⟩

include ctx tensioned in
theorem exec_speedDecision_starts (stopped : (s.stns[st]).speed.stopped = true) (may : s.mayStart st = true) (enough : s.img.restart ≤ s.occupancy st)
    (empties : (s.stns[st]).write.empties < 256) (wrapOver : (s.stns[st]).write.wrapOver = false) :
    ∃ t, exec (.speedDecision st) s = .next t ∧ (t.stns[st]).servo.motion = .moving ∧ (t.stns[st]).write.feed = .resume ∧
        if (s.stns[st]).write.cellPos = 0 ∧ (s.stns[st]).inRange v.geo ((s.stns[st]).write.wrap % 2 == 1) = false then
          (t.stns[st]).servo.reverse = ((s.stns[st]).write.wrap % 2 == 1)
        else (t.stns[st]).servo.back.isSome = true ∧ (t.stns[st]).servo.reverse = !((s.stns[st]).write.wrap % 2 == 1) := by
  have stn := State.rated_stn s st
  have decided : ∃ i, s.speedDecide st = (s.rated st).startAt st i := by
    unfold State.speedDecide
    extract_lets s0 t o g lo hi cur
    have occ : o = s.occupancy st := State.rated_occupancy s st
    have starts : (s0.mayStart st && (decide (o ≥ g.restart) || t.flushWaits || t.resumes)
        && (decide (t.write.empties < 256) || t.write.gaths.any fun x => x.released && !x.recorded)) = true := by
      have hm : s0.mayStart st = true := (State.rated_mayStart s st).trans may
      have he : t.write.empties < 256 := by
        have same : t.write = (s.stns[st]).write := (congrArg Station.write stn).trans rfl
        rw [same]; exact empties
      rw [hm, decide_eq_true (by rw [occ]; exact enough : o ≥ g.restart), decide_eq_true he]
      rfl
    have speed : t.speed = (s.stns[st]).speed.ratio s.clock := congrArg Station.speed stn
    have still : t.servo.motion = .tensioned := (congrArg (fun x : Station => x.servo.motion) stn).trans tensioned
    rw [if_pos (by rw [speed]; exact stopped), if_pos starts]
    split
    next h => cases h.symm.trans still
    · exact ⟨_, rfl⟩
    next _ h => exact absurd still h
  obtain ⟨i, decided⟩ := decided
  obtain ⟨want, moves, same, feed, way⟩ := State.startAt_spec (s := s.rated st) (st := st) (v := v) (by rw [stn]; exact ctx) (by rw [stn]; exact tensioned) i
  have run := exec_speedDecision_moves (State.turnAtRest_idle (.inl wrapOver)) decided (want.trans (by rw [stn]; exact seek)) moves
    (by rw [same]; exact power)
  refine ⟨_, run, ?_⟩
  rw [State.newCounts_stn]
  refine ⟨moves, feed, ?_⟩
  rw [stn] at way
  exact way

end
end

/-! ### Where writing goes on -/

/-- A splice slot is laid out wherever the tape stands. -/
theorem Write.laySplice_cells (w : Write) (n c : Nat) :
    ({ w with cellPos := c } : Write).laySplice n = { w.laySplice n with cellPos := c } := by
  have lay (l : List PosKind) : ({ w with cellPos := c } : Write).lay l n = { w.lay l n with cellPos := c } := rfl
  unfold Write.laySplice
  rw [lay]
  dsimp only
  split <;> rfl

/-- The write side of a station with a splice slot laid out. -/
def Station.spliced (t : Station) : Write :=
  match t.ctx with
  | some v => t.write.laySplice (lastPlaced v t.write)
  | none => t.write

theorem Station.spliced_congr {t u : Station} {c : Nat} (ctx : u.ctx = t.ctx) (write : u.write = { t.write with cellPos := c }) :
    u.spliced = { t.spliced with cellPos := c } := by
  unfold Station.spliced
  rw [ctx, write]
  split
  · exact Write.laySplice_cells ..
  · rfl

theorem Station.spliced_toSend {t : Station} {v : VolCtx} (h : t.ctx = some v) : t.spliced.toSend = (t.write.laySplice (lastPlaced v t.write)).toSend := by
  unfold Station.spliced
  rw [h]

theorem State.resume_stn (s : State) (st : Stn) : (s.resume st).stns[st] = { s.stns[st] with
    wgate := false
    resumes := false
    write := { (s.stns[st]).spliced with feed := .writing }
    servo := { (s.stns[st]).servo with clkStep := (s.stns[st]).servo.setStep }
    speed := { (s.stns[st]).speed with stopped := false, stopping := false } } := State.modStn_stn ..

theorem State.endFill_stn (s : State) (st : Stn) (n : Nat) : (s.endFill st n).stns[st] = { s.stns[st] with
    write := { (s.stns[st]).write with cellPos := (s.stns[st]).write.cellPos + n }
    link := (s.stns[st]).link.endRun } := State.modStn_stn ..

theorem State.newRun_stn (s : State) (st : Stn) : ∃ k, (s.newRun st).stns[st] = { s.stns[st] with link := k } := ⟨_, State.modStn_stn ..⟩

theorem State.capDown_idle {s : State} {st : Stn} (h : (s.stns[st]).servo.setStep ≤ s.ceiling st) : s.capDown st = s := if_pos (.inl h)

/-- What a station that writes on, with `c` cells of its wrap behind, has of a station `x` that it was. -/
structure Station.WritesOn (x : Station) (c : Nat) (t : Station) : Prop where
  write : t.write = { x.spliced with
    cellPos := c
    feed := .writing }
  wgate : t.wgate = false
  clock : t.servo.clkStep = x.servo.setStep
  stepping : t.speed.stepping = x.speed.stepping
  lastStep : t.speed.lastStep = x.speed.lastStep

/-- Writing that goes on from a state with the tape further on, at a step that no ceiling lowers. -/
theorem State.resume_spec {s s1 : State} {st : Stn} {c : Nat} (write : (s1.stns[st]).write = { (s.stns[st]).write with cellPos := c })
    (ctx : (s1.stns[st]).ctx = (s.stns[st]).ctx) (servo : (s1.stns[st]).servo = (s.stns[st]).servo) (speed : (s1.stns[st]).speed = (s.stns[st]).speed)
    (thermal : s1.thermal = s.thermal) (step : (s.stns[st]).servo.setStep ≤ s.ceiling st) :
    (s1.resume st).capDown st = s1.resume st ∧ (s.stns[st]).WritesOn c ((s1.resume st).stns[st]) := by
  have stn := State.resume_stn s1 st
  have set : (s1.stns[st]).servo.setStep = (s.stns[st]).servo.setStep := by rw [servo]
  have cap : (s1.stns[st]).speed.busCap = (s.stns[st]).speed.busCap := by rw [speed]
  have stepping : (s1.stns[st]).speed.stepping = (s.stns[st]).speed.stepping := by rw [speed]
  have last : (s1.stns[st]).speed.lastStep = (s.stns[st]).speed.lastStep := by rw [speed]
  refine ⟨State.capDown_idle ?_, ?_⟩
  · rw [State.ceiling_congr (s := s) (t := s1.resume st) thermal (by rw [stn]; exact ctx) (by rw [stn]; exact cap), stn]
    exact set.trans_le step
  · rw [stn, Station.spliced_congr ctx write]
    exact ⟨rfl, rfl, set, stepping, last⟩

/-- Writing goes on from run-out fill. -/
theorem State.fillResume_spec {s : State} {st : Stn} (step : (s.stns[st]).servo.setStep ≤ s.ceiling st) :
    (s.stns[st]).WritesOn ((s.stns[st]).write.cellPos + (s.stns[st]).link.leadCells) ((s.fillResume st).stns[st]) ∧
      ((s.stns[st]).servo.clkStep ≠ (s.stns[st]).servo.setStep → Out.gatePulse st ∈ (s.fillResume st).out) := by
  unfold State.fillResume
  extract_lets t s1
  let s2 := if t.servo.clkStep = t.servo.setStep then s1 else s1.emit (.gatePulse st)
  have pulse : t.servo.clkStep ≠ t.servo.setStep → Out.gatePulse st ∈ s2.out := fun h => by
    simp only [s2]
    rw [if_neg h]
    exact List.mem_cons_self
  have same : s2.stns = s1.stns ∧ s2.thermal = s.thermal := by
    simp only [s2]
    split <;> exact ⟨rfl, rfl⟩
  obtain ⟨stns, thermal⟩ := same
  have filled := State.endFill_stn s st t.link.leadCells
  obtain ⟨idle, on⟩ := State.resume_spec (s := s) (s1 := s2) (st := st) (c := t.write.cellPos + t.link.leadCells) (by rw [stns, filled])
    (by rw [stns, filled]) (by rw [stns, filled]) (by rw [stns, filled]) thermal step
  show _ ∧ (_ → _ ∈ ((s2.resume st).capDown st).out)
  rw [show (if t.servo.clkStep = t.servo.setStep then s1 else s1.emit (.gatePulse st)) = s2 from rfl, idle]
  exact ⟨on, pulse⟩

/-! ### SPEED_STEP_DONE, STOP_DONE, BACKHITCH_DONE and WRAP_START -/

/-- A station whose step is over. -/
def State.stepOver (s : State) (st : Stn) : State :=
  s.modStn st fun t => t.modSpeed fun x => { x with
    stepping := none
    lastStep := s.clock }

theorem State.stepOver_stn (s : State) (st : Stn) :
    (s.stepOver st).stns[st] = { s.stns[st] with speed := { (s.stns[st]).speed with
      stepping := none
      lastStep := s.clock } } := State.modStn_stn ..

section
variable {s : State} {st : Stn}

theorem exec_speedStepDone_idle (h : (s.stns[st]).speed.stepping = none ∨ (s.stns[st]).servo.settled = false) : exec (.speedStepDone st) s = .next s := by
  refine congrArg Host.Outcome.next (if_pos ?_)
  rcases h with h | h
  · exact .inl (by rw [h]; rfl)
  · exact .inr (.inr (.inl (by rw [h]; rfl)))

theorem exec_speedStepDone_over {n : Nat} (stepping : (s.stns[st]).speed.stepping = some n) (ramp : (s.stns[st]).servo.ramp = none)
    (settled : (s.stns[st]).servo.settled = true) (feed : (s.stns[st]).write.feed = .runOut) :
    exec (.speedStepDone st) s = .next (if s.mayResume ∧ !(s.stns[st]).write.wrapOver then (s.stepOver st).fillResume st else s.stepOver st) := by
  refine congrArg Host.Outcome.next (if_neg ?_)
  rw [stepping, ramp, settled, feed]
  rintro (h | h | h | h)
  · cases h
  · cases h
  · cases h
  · exact h rfl

theorem exec_stopDone_idle (h : (s.stns[st]).speed.stopping = false ∨ 1000 ≤ (s.stns[st]).servo.speedMm) : exec (.stopDone st) s = .next s := by
  refine congrArg Host.Outcome.next (if_neg ?_)
  rw [Bool.and_eq_true, decide_eq_true_eq]
  rintro ⟨stopping, slow⟩
  rcases h with h | h
  · exact absurd (h.symm.trans stopping) (by decide)
  · exact absurd slow (by omega)

theorem exec_stopDone_stops (stopping : (s.stns[st]).speed.stopping = true) (slow : (s.stns[st]).servo.speedMm < 1000) :
    ∃ t, exec (.stopDone st) s = .next t ∧ (t.stns[st]).wgate = true ∧ (t.stns[st]).write.feed = .off := by
  refine ⟨_, congrArg Host.Outcome.next (if_pos (by rw [stopping, decide_eq_true slow]; rfl)), ?_⟩
  rw [State.modStn_stn]
  exact ⟨rfl, rfl⟩

theorem exec_backhitchDone_idle (n : Nat) (h : (s.stns[st]).write.feed ≠ .resume ∨ (s.stns[st]).servo.settled = false) :
    exec (.backhitchDone st n) s = .next s := by
  refine congrArg Host.Outcome.next (if_pos ?_)
  rcases h with h | h
  · exact .inl h
  · exact .inr (.inr (.inr (.inr (.inl (by rw [h]; rfl)))))

theorem exec_wrapStart_idle (h : (s.stns[st]).write.feed ≠ .resume ∨ (s.stns[st]).servo.settled = false) : exec (.wrapStart st) s = .next s := by
  refine congrArg Host.Outcome.next (if_pos ?_)
  rcases h with h | h
  · exact .inl h
  · exact .inr (.inr (.inr (.inr (.inl (by rw [h]; rfl)))))

section
variable (feed : (s.stns[st]).write.feed = .resume) (ramp : (s.stns[st]).servo.ramp = none) (moving : (s.stns[st]).servo.motion = .moving)
  (settled : (s.stns[st]).servo.settled = true) (may : s.mayResume = true)
include feed ramp moving settled may

/-- A station once a backhitch has ended, before writing goes on: `n` cells further, in a new run of positions. -/
def State.hitched (s : State) (st : Stn) (n : Nat) : State :=
  (((s.modStn st fun t => t.modSpeed fun x => { x with lastStep := s.clock }).endFill st n).newRun st)

theorem exec_backhitchDone_eq (n : Nat) (begun : (s.stns[st]).write.cellPos ≠ 0) (back : (s.stns[st]).servo.back = none)
    (way : (s.stns[st]).servo.reverse = ((s.stns[st]).write.wrap % 2 == 1)) :
    exec (.backhitchDone st n) s = .next (if !(s.stns[st]).servo.lposOk then s.controlledStop st
      else (((s.hitched st (min n (32000 - (s.stns[st]).write.late))).resume st).capDown st).modStn st fun t => t.modWrite fun w => { w with late := 0 }) := by
  refine congrArg Host.Outcome.next (if_neg ?_)
  rw [feed, ramp, moving, settled, may, back, way]
  simpa using begun

theorem exec_wrapStart_lost (start : (s.stns[st]).write.cellPos = 0) (lost : (s.stns[st]).servo.lposOk = false) :
    exec (.wrapStart st) s = .next (s.controlledStop st) := by
  refine congrArg Host.Outcome.next ((if_neg ?_).trans (if_pos (by rw [lost]; rfl)))
  rw [feed, ramp, moving, settled, may, start]
  decide

theorem exec_backhitchDone_goes (n : Nat) (begun : (s.stns[st]).write.cellPos ≠ 0) (back : (s.stns[st]).servo.back = none)
    (way : (s.stns[st]).servo.reverse = ((s.stns[st]).write.wrap % 2 == 1)) (lpos : (s.stns[st]).servo.lposOk = true)
    (step : (s.stns[st]).servo.setStep ≤ s.ceiling st) :
    ∃ t, exec (.backhitchDone st n) s = .next t ∧ (t.stns[st]).write.feed = .writing ∧ (t.stns[st]).wgate = false ∧
          (t.stns[st]).write.cellPos = (s.stns[st]).write.cellPos + min n (32000 - (s.stns[st]).write.late) ∧
          (t.stns[st]).servo.clkStep = (s.stns[st]).servo.setStep ∧ (t.stns[st]).write.toSend = (s.stns[st]).spliced.toSend := by
  have run := exec_backhitchDone_eq feed ramp moving settled may n begun back way
  rw [if_neg (by rw [lpos]; decide)] at run
  generalize min n (32000 - (s.stns[st]).write.late) = gap at run ⊢
  let s0 := s.modStn st fun t => t.modSpeed fun x => { x with lastStep := s.clock }
  have stn0 : s0.stns[st] = { s.stns[st] with speed := { (s.stns[st]).speed with lastStep := s.clock } } := State.modStn_stn ..
  have stn1 : ∃ k, (s.hitched st gap).stns[st] = { s0.stns[st] with
      write := { (s0.stns[st]).write with cellPos := (s0.stns[st]).write.cellPos + gap }
      link := k } := by
    obtain ⟨k, run⟩ := State.newRun_stn (s0.endFill st gap) st
    exact ⟨k, run.trans (by rw [State.endFill_stn])⟩
  obtain ⟨k, stn1⟩ := stn1
  obtain ⟨idle, on⟩ := State.resume_spec (s := s0) (s1 := s.hitched st gap) (c := (s0.stns[st]).write.cellPos + gap) (by rw [stn1]) (by rw [stn1])
    (by rw [stn1]) (by rw [stn1]) rfl (by
      rw [State.ceiling_congr (s := s) (t := s0) rfl (by rw [stn0]) (by rw [stn0]), stn0]
      exact step)
  rw [idle] at run
  refine ⟨_, run, ?_⟩
  rw [State.modStn_stn]
  unfold Station.modWrite
  dsimp only
  rw [on.write, on.wgate, on.clock, stn0]
  exact ⟨rfl, rfl, rfl, rfl, rfl⟩

theorem exec_wrapStart_goes (start : (s.stns[st]).write.cellPos = 0) (lpos : (s.stns[st]).servo.lposOk = true)
    (step : (s.stns[st]).servo.setStep ≤ s.ceiling st) :
    ∃ t, exec (.wrapStart st) s = .next t ∧ (t.stns[st]).write.feed = .writing ∧ (t.stns[st]).wgate = false ∧ (t.stns[st]).write.dead = 0 ∧
        (t.stns[st]).servo.clkStep = (s.stns[st]).servo.setStep := by
  let t := (s.newRun st).modStn st fun t => { t with
      wgate := false, resumes := false
      write := { t.write with feed := .writing, dead := 0, sums := Vector.replicate 128 [] }
      servo := { t.servo with clkStep := t.servo.setStep }
      speed := { t.speed with stopped := false, stopping := false, stepping := none, lastStep := s.clock }
      link := t.link.endRun }
  have run : exec (.wrapStart st) s = .next (t.capDown st) := by
    refine congrArg Host.Outcome.next ((if_neg ?_).trans (if_neg (by rw [lpos]; decide)))
    rw [feed, ramp, moving, settled, may, start]
    decide
  have stn : ∃ k, t.stns[st] = { s.stns[st] with
      wgate := false, resumes := false
      write := { (s.stns[st]).write with feed := .writing, dead := 0, sums := Vector.replicate 128 [] }
      servo := { (s.stns[st]).servo with clkStep := (s.stns[st]).servo.setStep }
      speed := { (s.stns[st]).speed with stopped := false, stopping := false, stepping := none, lastStep := s.clock }
      link := k } := by
    obtain ⟨k, run⟩ := State.newRun_stn s st
    exact ⟨_, (State.modStn_stn ..).trans (by rw [run])⟩
  obtain ⟨k, stn⟩ := stn
  rw [State.capDown_idle (by
    rw [State.ceiling_congr (s := s) (t := t) rfl (by rw [stn]) (by rw [stn]), stn]
    exact step)] at run
  refine ⟨_, run, ?_⟩
  rw [stn]
  exact ⟨rfl, rfl, rfl, rfl⟩

end

end

/-! ### Turns -/

/-- What the work around a turn leaves of a station: no closure begins, the wrap stays, and so do the start of the wrap and that no track of it is
dead. -/
structure Station.Turns (t u : Station) : Prop where
  closing : (∃ v, t.ctx = some v ∧ v.closing = .none) → ∃ v, u.ctx = some v ∧ v.closing = .none
  wrap : u.write.wrap = t.write.wrap
  start : t.write.cellPos = 0 → u.write.cellPos = 0
  live : t.write.dead = 0 → u.write.dead = 0

theorem Station.Turns.refl (t : Station) : t.Turns t := ⟨id, rfl, id, id⟩

theorem Station.Turns.trans {t u x : Station} (h : t.Turns u) (k : u.Turns x) : t.Turns x :=
  ⟨fun e => k.closing (h.closing e), k.wrap.trans h.wrap, fun e => k.start (h.start e), fun e => k.live (h.live e)⟩

theorem Station.Packs.turns {t u : Station} (h : t.Packs u) : t.Turns u where
  closing := fun ⟨v, ctx, none_⟩ => by
    obtain ⟨v', ctx', packs⟩ := h.ctx v ctx
    exact ⟨v', ctx', by rw [packs.rest]; exact none_⟩
  wrap := by rw [h.write.rest]
  start := fun e => by rw [h.write.rest]; exact e
  live := fun e => by rw [h.write.rest]; exact e

/-- A change of the context that leaves the closure alone. -/
theorem State.modCtx_turns (s : State) (st : Stn) (f : VolCtx → VolCtx) (h : ∀ v, (f v).closing = v.closing) :
    (s.stns[st]).Turns (s.modStn st fun t => t.modCtx f).stns[st] := by
  rw [State.modStn_stn]
  exact ⟨fun ⟨v, ctx, none_⟩ => ⟨f v, congrArg (Option.map f) ctx, (h v).trans none_⟩, rfl, id, id⟩

theorem VolCtx.foldl_closing {α : Type} (f : VolCtx → α → VolCtx) (h : ∀ a x, (f a x).closing = a.closing) (l : List α) (v : VolCtx) :
    (l.foldl f v).closing = v.closing := by
  induction l generalizing v with
  | nil => rfl
  | cons x l ih => exact (ih _).trans (h v x)

theorem Station.dropColophon_turns (t : Station) : t.Turns t.dropColophon := by
  unfold Station.dropColophon
  split
  · exact .refl t
  next v hv =>
    refine ⟨fun ⟨u, ctx, none_⟩ => ⟨_, rfl, ?_⟩, rfl, id, id⟩
    obtain rfl : v = u := Option.some.inj (hv.symm.trans ctx)
    dsimp only
    rw [none_]
    rfl

theorem Station.unplace_turns (t : Station) (keep : Nat) (begun : Bool) : t.Turns (t.unplace keep begun) := by
  unfold Station.unplace
  split
  · exact .refl t
  next v hv =>
    extract_lets w cut kept inCut undone heads v1 v2 bands tails t1
    have one : v1.closing = v.closing := VolCtx.foldl_closing _ (fun a g => by split <;> [rfl; split <;> rfl]) _ _
    have two : v2.closing = v.closing := by
      rw [← one]; simp only [v2]; split <;> rfl
    have base : t.Turns t1 := ⟨fun ⟨u, ctx, none_⟩ => ⟨v2, rfl, by
      obtain rfl : v = u := Option.some.inj (hv.symm.trans ctx)
      exact two.trans none_⟩, rfl, id, id⟩
    split
    · exact base.trans t1.dropColophon_turns
    · exact base

theorem State.voidWriting_turns (s : State) (st : Stn) : (s.stns[st]).Turns (s.voidWriting st).stns[st] := by
  unfold State.voidWriting
  extract_lets begun
  have voided : (s.stns[st]).Turns (s.modStn st fun t => t.modWrite Write.void).stns[st] := by
    rw [State.modStn_stn]
    exact ⟨id, rfl, fun e => (congrArg (· - _) e).trans (Nat.zero_sub _), id⟩
  refine voided.trans ?_
  generalize s.modStn st (fun t => t.modWrite Write.void) = u
  exact Eq.subst (motive := fun x => (u.stns[st]).Turns x) (State.modStn_stn u st fun t => t.unplace 0 begun).symm (Station.unplace_turns ..)

theorem State.giveBack_turns (s : State) (st : Stn) (gone : List Gath) : (s.stns[st]).Turns (s.giveBack st gone).stns[st] := by
  generalize he : s.giveBack st gone = u
  unfold State.giveBack at he
  extract_lets t has at he
  split at he
  · rw [← he]; exact .refl _
  next v hv =>
    rw [← he]
    refine Eq.subst (motive := fun x => (s.stns[st]).Turns x) (State.modStn_stn s st _).symm ?_
    refine ⟨fun ⟨u, ctx, none_⟩ => ⟨_, rfl, ?_⟩, rfl, id, id⟩
    obtain rfl : v = u := Option.some.inj (hv.symm.trans ctx)
    have same : (v.prevGroup gone).closing = v.closing := by
      unfold VolCtx.prevGroup
      split <;> rfl
    exact same.trans none_

theorem State.compose_turns (s : State) (st : Stn) (k : GKind) (b : List Byte) : (s.stns[st]).Turns (s.compose st k b).stns[st] :=
  (State.modCtx_turns s st (fun v => { v with
    labelQ := v.labelQ ++ (streamParts b).zipIdx.map fun p => (k, p.2, p.1)
    copies := if k = .endpaper then v.copies + 1 else v.copies }) fun _ => rfl).trans (State.numberLabels_packs ..).turns

theorem State.composeEndpaper_turns (s : State) (st : Stn) : (s.stns[st]).Turns (s.composeEndpaper st).stns[st] := by
  generalize he : s.composeEndpaper st = u
  unfold State.composeEndpaper at he
  split at he
  · rw [← he]; exact .refl _
  · rw [← he]; exact State.compose_turns ..

theorem foldl_turns {α : Type} {st : Stn} {f : State → α → State} (h : ∀ (a : State) (x : α), (a.stns[st]).Turns (f a x).stns[st]) (l : List α) (s : State) :
    (s.stns[st]).Turns (l.foldl f s).stns[st] := by
  induction l generalizing s with
  | nil => exact .refl _
  | cons x l ih => exact (h s x).trans (ih _)

theorem State.composeSpines_turns (s : State) (st : Stn) : (s.stns[st]).Turns (s.composeSpines st).stns[st] := by
  generalize he : s.composeSpines st = u
  unfold State.composeSpines at he
  split at he
  · rw [← he]; exact .refl _
  next v _ =>
    rw [← he]
    exact (foldl_turns (fun a w => State.compose_turns a st .spine (spineStream v w)) v.spineDue s).trans
      (State.modCtx_turns _ st (fun v => { v with spineDue := [] }) fun _ => rfl)

theorem State.turnLabels_keeps (s : State) (st : Stn) (w : Nat) :
    WriteOnly st s (s.turnLabels st w) ∧ (s.stns[st]).Turns (s.turnLabels st w).stns[st] := by
  generalize he : s.turnLabels st w = u
  unfold State.turnLabels at he
  split at he
  · rw [← he]; exact ⟨WriteOnly.refl st s, .refl _⟩
  next v _ =>
    extract_lets s1 s2 at he
    have one : WriteOnly st s s1 ∧ (s.stns[st]).Turns s1.stns[st] := ⟨modCtx_writeOnly s st _ (by exact fun _ => rfl), State.modCtx_turns s st _ (by exact fun _ => rfl)⟩
    have two : WriteOnly st s1 s2 ∧ (s1.stns[st]).Turns s2.stns[st] := by
      generalize hs : s2 = x
      simp only [s2] at hs
      split at hs
      · rw [← hs]
        exact ⟨(State.composeEndpaper_writeOnly ..).trans (State.composeEndpaper_writeOnly ..),
          (State.composeEndpaper_turns ..).trans (State.composeEndpaper_turns ..)⟩
      · rw [← hs]
        exact ⟨WriteOnly.refl st s1, .refl _⟩
    rw [← he]
    exact ⟨(one.1.trans two.1).trans (State.composeSpines_writeOnly ..), (one.2.trans two.2).trans (State.composeSpines_turns ..)⟩

theorem State.closeOpen_turns (s : State) (st : Stn) : (s.stns[st]).Turns (s.closeOpen st).stns[st] := by
  generalize he : s.closeOpen st = u
  unfold State.closeOpen at he
  split at he
  · rw [← he]; exact .refl _
  split at he
  · rw [← he]; exact (State.closeGath_packs ..).turns
  · rw [← he, State.modStn_stn]
    exact ⟨id, rfl, id, id⟩

/-- A servo that is sent to a wrap. -/
def Servo.aimedAt (v : Servo) (g : Image) (geo : List Byte) (st : Stn) (wrap : Nat) : Servo :=
  let band := wrap / max (geoWpb geo) 1
  let v1 := { v with
    reverse := wrap % 2 == 1
    back := none
    yTarget := lateralWord (setPoint g geo st wrap + 0) }
  if band = v.dataBand then v1 else v1.leaveBand g st band

theorem State.aim_stn (s : State) (st : Stn) (wrap : Nat) :
    (s.aim st wrap 0).stns[st] = { s.stns[st] with servo := (s.stns[st]).servo.aimedAt s.img (s.geoOf st) st wrap } := State.modStn_stn ..

/-- A servo on its way to a wrap, from where `v` was: its direction, and in another data band that its loop is open and LPOS to be acquired. -/
def Servo.TurnedTo (v' v : Servo) (g : Image) (geo : List Byte) (st : Stn) (wrap : Nat) : Prop :=
  v'.reverse = (wrap % 2 == 1) ∧
    let band := wrap / max (geoWpb geo) 1
    (band ≠ v.dataBand → v'.dataBand = band ∧ (∃ l d, v'.seek = some ⟨band, false, false, l ++ seekMoves g st v.dataBand band, d⟩) ∧
      v'.lposOk = false ∧ v'.settled = false)

theorem Servo.aimedAt_turned (v : Servo) (g : Image) (geo : List Byte) (st : Stn) (wrap : Nat) : (v.aimedAt g geo st wrap).TurnedTo v g geo st wrap := by
  unfold Servo.aimedAt Servo.TurnedTo
  extract_lets band v1
  by_cases h : band = v.dataBand
  · rw [if_pos h]
    exact ⟨rfl, fun other => absurd h other⟩
  · rw [if_neg h]
    exact ⟨rfl, fun _ => ⟨rfl, ⟨_, _, rfl⟩, rfl, rfl⟩⟩

theorem Servo.TurnedTo.rampTo {v' v : Servo} {g : Image} {geo : List Byte} {st : Stn} {wrap : Nat} (h : v'.TurnedTo v g geo st wrap) (why : RampFor)
    (mm : Nat) : (v'.rampTo why mm).TurnedTo v g geo st wrap := by
  obtain ⟨way, other⟩ := h
  unfold Servo.rampTo
  split
  · exact ⟨way, other⟩
  · exact ⟨way, fun band => by
      obtain ⟨moved, seek, lpos, -⟩ := other band
      exact ⟨moved, seek, lpos, rfl⟩⟩

/-- A station at the start of a wrap: nothing of it is recorded, no track of it is dead, and nothing closes its volume. -/
structure Station.AtStart (t : Station) (wrap : Nat) : Prop where
  opens : ∃ v, t.Open v
  wrap : t.write.wrap = wrap
  start : t.write.cellPos = 0
  live : t.write.dead = 0

theorem Station.AtStart.turns {t u : Station} {n : Nat} (h : t.AtStart n) (k : t.Turns u) (idle : t.write.flushes = [] → u.write.flushes = []) :
    u.AtStart n := by
  obtain ⟨⟨v, ctx, closing, flushes⟩, wrap, start, live⟩ := h
  obtain ⟨v', ctx', closing'⟩ := k.closing ⟨v, ctx, closing⟩
  exact ⟨⟨v', ctx', closing', idle flushes⟩, k.wrap.trans wrap, k.start start, k.live live⟩

/-- A station whose write side is on the next wrap. -/
def Station.newWrap (w : Nat) (stopping : Bool) (t : Station) : Station := { t with
  speed := { t.speed with stepping := none }
  write := ({ t.write with
    wrap := w + 1, cellPos := 0, late := 0, inRun := 0, bandsOn := 0, dead := 0, sums := Vector.replicate 128 [], wrapOver := false, owed := none
    feed := if stopping then .off else .resume } : Write).requeue }

/-- A station whose parity gatherings that found no room have no number. -/
def State.freeParity (s : State) (st : Stn) : State :=
  let left := (s.stns[st]).write.gaths.filter fun g => g.kind == .parity && !g.recorded
  if left.isEmpty then s else s.giveBack st left

theorem State.freeParity_keeps (s : State) (st : Stn) : WriteOnly st s (s.freeParity st) ∧ (s.stns[st]).Turns (s.freeParity st).stns[st] := by
  generalize he : s.freeParity st = u
  unfold State.freeParity at he
  extract_lets left at he
  split at he
  · rw [← he]; exact ⟨WriteOnly.refl st s, .refl _⟩
  · rw [← he]; exact ⟨State.giveBack_writeOnly .., State.giveBack_turns ..⟩

section
variable {s : State} {st : Stn} {v : VolCtx}

theorem State.nextWrap_eq (h : (s.stns[st]).Open v) (stopping : Bool) :
    s.nextWrap st stopping = ((((s.freeParity st).modStn st (Station.newWrap (s.stns[st]).write.wrap stopping)).turnLabels st
      (s.stns[st]).write.wrap).closeOpen st).aim st ((s.stns[st]).write.wrap + 1) 0 := by
  obtain ⟨ctx, closing, -⟩ := h
  unfold State.nextWrap
  extract_lets t w left s1
  split
  next none_ => cases none_.symm.trans ctx
  next v' found =>
    obtain rfl : v' = v := Option.some.inj (found.symm.trans ctx)
    extract_lets s2
    have labels : s2 = s1.turnLabels st w := if_pos (by rw [closing]; decide)
    rw [labels]
    rfl

/-- A station that turns to the next wrap. -/
theorem State.nextWrap_spec (h : (s.stns[st]).Open v) (stopping : Bool) : let t := s.nextWrap st stopping
    (t.stns[st]).AtStart ((s.stns[st]).write.wrap + 1) ∧ (t.stns[st]).wgate = (s.stns[st]).wgate ∧
      (t.stns[st]).servo.TurnedTo (s.stns[st]).servo s.img v.geo st ((s.stns[st]).write.wrap + 1) := by
  intro t
  have eq : t = _ := State.nextWrap_eq h stopping
  obtain ⟨ctx, closing, flushes⟩ := h
  generalize (s.stns[st]).write.wrap = w at eq ⊢
  obtain ⟨freed, kept⟩ := State.freeParity_keeps s st
  generalize s.freeParity st = s0 at eq freed kept
  obtain ⟨v0, ctx0, closing0⟩ := kept.closing ⟨v, ctx, closing⟩
  let s1 := s0.modStn st (Station.newWrap w stopping)
  have stn1 : s1.stns[st] = (s0.stns[st]).newWrap w stopping := State.modStn_stn ..
  have start1 : (s1.stns[st]).AtStart (w + 1) := by
    rw [stn1]
    exact ⟨⟨v0, ctx0, closing0, freed.idle flushes⟩, rfl, rfl, rfl⟩
  obtain ⟨labelled, labels⟩ := State.turnLabels_keeps s1 st w
  let s2 := (s1.turnLabels st w).closeOpen st
  have wrote : WriteOnly st s1 s2 := labelled.trans (State.closeOpen_writeOnly ..)
  have start2 : (s2.stns[st]).AtStart (w + 1) := start1.turns (labels.trans (State.closeOpen_turns ..)) wrote.idle
  have geo2 : s2.geoOf st = v.geo := by
    have fixed : (s2.stns[st]).ctx.map (·.fixed) = some v.fixed := by
      rw [wrote.geo, stn1]
      exact freed.geo.trans (congrArg (Option.map _) ctx)
    obtain ⟨v2, ctx2, -, -⟩ := start2.opens
    rw [ctx2] at fixed
    unfold State.geoOf
    dsimp only
    rw [ctx2]
    exact congrArg Prod.fst (Option.some.inj fixed)
  have servo2 : (s2.stns[st]).servo = (s.stns[st]).servo := by
    rw [wrote.servo, stn1]
    exact freed.servo
  have img2 : s2.img = s.img := wrote.toStnOnly.img.trans ((State.modStn_stnOnly s0 st _).img.trans freed.toStnOnly.img)
  have gate2 : (s2.stns[st]).wgate = (s.stns[st]).wgate := by
    rw [wrote.side, stn1]
    show (s0.stns[st]).wgate = _
    rw [freed.side]
  have stn : t.stns[st] = { s2.stns[st] with servo := (s2.stns[st]).servo.aimedAt s2.img (s2.geoOf st) st (w + 1) } := by
    rw [eq]
    exact State.aim_stn s2 st (w + 1)
  rw [stn, servo2, img2, geo2]
  obtain ⟨⟨v2, ctx2, closing2, flushes2⟩, wrap2, cells2, live2⟩ := start2
  exact ⟨⟨⟨v2, ctx2, closing2, flushes2⟩, wrap2, cells2, live2⟩, gate2, Servo.aimedAt_turned ..⟩

/-- A station whose gate has closed at the end of a wrap. -/
def State.wrapCut (s : State) (st : Stn) : State := (s.voidWriting st).modStn st fun t => { t with
  wgate := true
  link := t.link.endRun }

theorem State.wrapCut_stn (s : State) (st : Stn) : (s.wrapCut st).stns[st] = { (s.voidWriting st).stns[st] with
    wgate := true
    link := ((s.voidWriting st).stns[st]).link.endRun } := State.modStn_stn ..

/-- What the end of a wrap leaves before the turn. -/
theorem State.wrapCut_spec (h : (s.stns[st]).Open v) : let u := s.wrapCut st
    (∃ v', (u.stns[st]).Open v' ∧ v'.fixed = v.fixed) ∧ (u.stns[st]).wgate = true ∧ (u.stns[st]).write.wrap = (s.stns[st]).write.wrap ∧
      (u.stns[st]).servo = (s.stns[st]).servo ∧ u.img = s.img := by
  obtain ⟨ctx, closing, flushes⟩ := h
  intro u
  have voided := State.voidWriting_writeOnly s st
  have turns := State.voidWriting_turns s st
  obtain ⟨v', ctx', closing'⟩ := turns.closing ⟨v, ctx, closing⟩
  have fixed := voided.geo
  rw [ctx, ctx'] at fixed
  rw [show u.stns[st] = _ from State.wrapCut_stn s st]
  exact ⟨⟨v', ⟨ctx', closing', voided.idle flushes⟩, Option.some.inj fixed⟩, rfl, turns.wrap, voided.servo,
    (State.modStn_stnOnly ..).img.trans voided.toStnOnly.img⟩

theorem State.turn_eq (ctx : (s.stns[st]).ctx = some v) : s.turn st =
    if (s.stns[st]).write.wrap + 1 ≥ geoWraps v.geo then (if v.faulted then (s.wrapCut st).closureFailed st else (s.wrapCut st).writeFault st)
    else (if (s.stns[st]).servo.stops then (s.wrapCut st).nextWrap st (s.stns[st]).servo.stops
      else ((s.wrapCut st).nextWrap st (s.stns[st]).servo.stops).rampTo st .start (ladder (s.stns[st]).servo.setStep)).settle st := by
  unfold State.turn
  extract_lets t
  split
  next none_ => cases none_.symm.trans ctx
  next v' found =>
    obtain rfl : v' = v := Option.some.inj (found.symm.trans ctx)
    rfl

/-- The end of a wrap that another one follows. -/
theorem State.turn_next (h : (s.stns[st]).Open v) (more : (s.stns[st]).write.wrap + 1 < geoWraps v.geo) : let t := s.turn st
    (t.stns[st]).wgate = true ∧ (t.stns[st]).AtStart ((s.stns[st]).write.wrap + 1) ∧
      (t.stns[st]).servo.TurnedTo (s.stns[st]).servo s.img v.geo st ((s.stns[st]).write.wrap + 1) := by
  intro t
  have eq : t = _ := State.turn_eq h.ctx
  rw [if_neg (by omega)] at eq
  obtain ⟨⟨v', open', fixed⟩, gate, wrap, servo, img⟩ := State.wrapCut_spec h
  generalize (s.stns[st]).servo.stops = stopping at eq
  obtain ⟨start, gate', turned⟩ := State.nextWrap_spec open' stopping
  rw [gate] at gate'
  rw [wrap] at start turned
  rw [servo, img, show v'.geo = v.geo from congrArg Prod.fst fixed] at turned
  generalize (s.wrapCut st).nextWrap st stopping = a at eq start gate' turned
  let b := if stopping then a else a.rampTo st .start (ladder (s.stns[st]).servo.setStep)
  have ramped : (b.stns[st]).wgate = true ∧ (b.stns[st]).AtStart ((s.stns[st]).write.wrap + 1) ∧
      (b.stns[st]).servo.TurnedTo (s.stns[st]).servo s.img v.geo st ((s.stns[st]).write.wrap + 1) := by
    simp only [b]
    split
    · exact ⟨gate', start, turned⟩
    · rw [State.rampTo_stn]
      obtain ⟨⟨v2, ctx2, closing2, flushes2⟩, wrap2, cells2, live2⟩ := start
      exact ⟨gate', ⟨⟨v2, ctx2, closing2, flushes2⟩, wrap2, cells2, live2⟩, turned.rampTo ..⟩
  have settled : t = b.settle st := eq
  clear_value b
  obtain ⟨gateB, startB, turnedB⟩ := ramped
  obtain ⟨v2, open2⟩ := startB.opens
  have packs := State.settle_packs open2
  rw [settled]
  refine ⟨?_, startB.turns packs.turns packs.write.idle, ?_⟩
  · rw [packs.rest]; exact gateB
  · rw [packs.rest]; exact turnedB

theorem exec_wrapEnd_writes (moving : (s.stns[st]).servo.motion = .moving) (feed : (s.stns[st]).write.feed = .writing) (ready : s.ready = true) :
    exec (.wrapEnd st) s = .next (s.turn st) :=
  congrArg Host.Outcome.next ((if_neg (by rw [moving]; decide)).trans ((if_pos (.inl feed)).trans (if_pos ready)))

/-- The end of the last wrap, where no write fault has come yet. -/
theorem State.turn_last (h : (s.stns[st]).Open v) (last : geoWraps v.geo ≤ (s.stns[st]).write.wrap + 1) (sound : v.faulted = false) :
    ((s.turn st).stns[st]).Failed ∧ (s.turn st).flagged (68 + 16 * st.val) := by
  obtain ⟨⟨v', ⟨ctx', -, flushes'⟩, fixed⟩, -⟩ := State.wrapCut_spec h
  rw [State.turn_eq h.ctx, if_pos last, if_neg (by rw [sound]; decide)]
  obtain ⟨failed, flag, -⟩ := State.writeFault_spec ctx' ((congrArg Prod.snd fixed).trans sound) flushes'
  exact ⟨failed, flag⟩

end

/-! ### The obligation -/

/-- Settles O49: the decision of R133 is one of five for a station that writes and a start for one that rests, writing goes on through a splice slot or at
the start of a wrap, and a turn goes through `AtStart`, which what follows of the write pipeline keeps. -/
theorem speedAndWriting : Obligations.SpeedAndWriting := by
  refine ⟨fun s st => ?_, fun s st => ?_⟩
  · intro s1 o cur power seek
    refine ⟨fun stopped ready writing ramp stepping parity moving => ?_, fun v ctx stopped may enough empties tensioned wrapOver =>
      exec_speedDecision_starts power seek ctx tensioned stopped may enough empties wrapOver⟩
    obtain ⟨want, moves, rests, chosen⟩ := State.choice_spec power seek ramp stepping moving
    refine ⟨_, exec_speedDecision_moves (State.turnAtRest_idle (.inr (by rw [writing]; decide)))
      (State.speedDecide_chooses seek stopped ready writing ramp stepping parity) want moves rests, ?_⟩
    rw [State.newCounts_stn]
    exact ⟨rfl, chosen⟩
  · intro x splice
    refine ⟨exec_speedStepDone_idle, fun n stepping ramp settled feed => ?_, exec_stopDone_idle, exec_stopDone_stops,
      fun n h => ⟨exec_backhitchDone_idle n h, exec_wrapStart_idle h⟩, fun n feed ramp moving settled may step => ⟨fun lost => ⟨fun begun back way => ?_, fun start => ?_⟩,
        fun lpos begun back way => ?_, fun lpos start => exec_wrapStart_goes feed ramp moving settled may start lpos step⟩,
      fun still => congrArg Host.Outcome.next (if_pos still), fun v ctx moving feed ready closing flushes => ⟨fun more => ?_, fun last sound => ?_⟩⟩
    · have run := exec_speedStepDone_over stepping ramp settled feed
      have stn := State.stepOver_stn s st
      refine ⟨fun may more step => ?_, fun ends => ?_⟩
      · rw [if_pos (by rw [may, show (s.stns[st]).write.wrapOver = false from more]; decide)] at run
        obtain ⟨on, pulse⟩ := State.fillResume_spec (s := s.stepOver st) (st := st) (by
          rw [State.ceiling_congr (s := s) (t := s.stepOver st) rfl (by rw [stn]) (by rw [stn]), stn]
          exact step)
        rw [stn] at on pulse
        exact ⟨_, run, by rw [on.write], on.wgate, on.stepping, on.lastStep, on.clock, pulse, fun v ctx => by
          rw [on.write]; exact Station.spliced_toSend ctx⟩
      · rw [if_neg (by
          rintro ⟨may, more⟩
          rcases ends with h | h
          · rw [h] at may; cases may
          · rw [show (s.stns[st]).write.wrapOver = true from h] at more; cases more)] at run
        exact ⟨_, run, by rw [stn], by rw [stn], by rw [stn]⟩
    · have run := exec_backhitchDone_eq feed ramp moving settled may n begun back way
      rw [if_pos (by rw [show (s.stns[st]).servo.lposOk = false from lost]; rfl)] at run
      exact ⟨_, run, State.controlledStop_stops s st moving⟩
    · exact ⟨_, exec_wrapStart_lost feed ramp moving settled may start lost, State.controlledStop_stops s st moving⟩
    · obtain ⟨t, run, writes, gate, cells, clock, sends⟩ := exec_backhitchDone_goes feed ramp moving settled may n begun back way lpos step
      exact ⟨t, run, writes, gate, cells, clock, fun v ctx => sends.trans (Station.spliced_toSend ctx)⟩
    · obtain ⟨gate, start, way, band⟩ := State.turn_next ⟨ctx, closing, flushes⟩ more
      exact ⟨_, exec_wrapEnd_writes moving feed ready, gate, start.wrap, start.start, start.live, way, band⟩
    · obtain ⟨⟨⟨v', ctx', faulted⟩, -⟩, flag⟩ := State.turn_last ⟨ctx, closing, flushes⟩ last sound
      exact ⟨_, v', exec_wrapEnd_writes moving feed ready, flag, ctx', faulted⟩

end Sys2Proof.Machine
end

section
/-!
OBLIGATIONS. The pages of buffer memory: how they are read, written and scrubbed (O57, O58).
-/
namespace Sys2Proof.Machine

/-! ### Bytes of a page -/

theorem leBytes_length (n v : Nat) : (leBytes n v).length = n := by
  induction n generalizing v with
  | zero => rfl
  | succ n ih => exact congrArg (· + 1) (ih _)

theorem leNat_leBytes (n v : Nat) : leNat (leBytes n v) = v % 256 ^ n := by
  induction n generalizing v with
  | zero => exact (Nat.mod_one v).symm
  | succ n ih =>
    show (BitVec.ofNat 8 v).toNat + 256 * leNat (leBytes n (v / 256)) = _
    rw [ih, BitVec.toNat_ofNat, show 256 ^ (n + 1) = 256 * 256 ^ n from Nat.pow_succ', Nat.mod_mul]

theorem padTo_length (n : Nat) (l : List Byte) : (padTo n l).length = n := by
  simp only [padTo, zeros, List.length_append, List.length_take, List.length_replicate]
  omega

theorem padTo_of_length {n : Nat} {l : List Byte} (h : l.length = n) : padTo n l = l := by
  unfold padTo zeros
  rw [List.take_of_length_le (by omega), h, Nat.sub_self, List.replicate_zero, List.append_nil]

/-- What a stretch of bytes just written reads as. -/
theorem Memory.readBytes_written {m : List Host.Cell} (h : Memory.wf m = true) (l : List Byte) (a i n : Nat) (fits : i + n ≤ l.length) :
    Memory.readBytes (Memory.writeBytes m a l) (a + i) n = (l.drop i).take n := by
  apply List.ext_getElem
  · simp only [Memory.readBytes, List.length_map, List.length_range, List.length_take, List.length_drop]
    omega
  · intro j h1 _
    simp only [Memory.readBytes, List.length_map, List.length_range] at h1
    simp only [Memory.readBytes, List.getElem_map, List.getElem_range, List.getElem_take, List.getElem_drop]
    rw [Nat.add_assoc]
    exact Memory.read_writeBytes l m a (i + j) h (by omega)

/-- What a stretch of bytes outside a string that is written reads as. -/
theorem Memory.readBytes_unwritten {m : List Host.Cell} (h : Memory.wf m = true) (l : List Byte) {a b n : Nat} (apart : b + n ≤ a ∨ a + l.length ≤ b) :
    Memory.readBytes (Memory.writeBytes m a l) b n = Memory.readBytes m b n := by
  refine List.map_congr_left fun i hi => Memory.read_writeBytes_other l m a (b + i) h ?_
  rw [List.mem_range] at hi
  omega

theorem PageImg.side_length (g : PageImg) (n : Nat) : (g.side n).length = 32 := by
  simp only [PageImg.side, zeros, List.length_append, leBytes_length, List.length_replicate]

/-- A page as it reads once it is stored. -/
def PageImg.kept (g : PageImg) : PageImg := { g with
  data := padTo 4096 g.data
  owner := g.owner % 64 }

/-- The bytes that a page is stored as. -/
def PageImg.bytes (g : PageImg) (n : Nat) : List Byte := padTo 4096 g.data ++ g.side n

theorem PageImg.bytes_length (g : PageImg) (n : Nat) : (g.bytes n).length = 4128 := by
  unfold PageImg.bytes
  rw [List.length_append, padTo_length, PageImg.side_length]

theorem PageImg.bytes_data (g : PageImg) (n : Nat) : ((g.bytes n).drop 0).take 4096 = padTo 4096 g.data := by
  unfold PageImg.bytes
  rw [List.drop_zero, List.take_append_of_le_length (by rw [padTo_length]), List.take_of_length_le (by rw [padTo_length])]

/-- A field of the sideband stored with a page. -/
theorem PageImg.bytes_side (g : PageImg) (n o k : Nat) : ((g.bytes n).drop (4096 + o)).take k = ((g.side n).drop o).take k := by
  unfold PageImg.bytes
  rw [List.drop_append, padTo_length, List.drop_eq_nil_of_le (by rw [padTo_length]; omega), Nat.add_sub_cancel_left, List.nil_append]

theorem PageImg.side_fields (g : PageImg) (n : Nat) : ((g.side n).drop 0).take 8 = leBytes 8 g.poison.toNat ∧
    ((g.side n).drop 8).take 4 = leBytes 4 g.handle.toNat ∧ ((g.side n).drop 12).take 1 = leBytes 1 (g.owner % 64) ∧
      ((g.side n).drop 16).take 8 = leBytes 8 g.wgen.toNat ∧ ((g.side n).drop 24).take 4 = leBytes 4 n := by
  have past (k m v : Nat) (h : k ≤ m) : (leBytes k v).drop m = [] := List.drop_eq_nil_of_le (by rw [leBytes_length]; exact h)
  unfold PageImg.side
  simp [List.drop_append, leBytes_length, zeros, past]

/-! ### A page that is stored -/

theorem ofNat_toNat_mod {w m : Nat} (x : BitVec w) (h : 2 ^ w = m) : BitVec.ofNat w (x.toNat % m) = x := by
  subst h
  rw [Nat.mod_eq_of_lt x.isLt, BitVec.ofNat_toNat, BitVec.setWidth_eq]

/-- What a place holds that a page has just been stored at. -/
theorem State.setPage_at {s : State} (h : Memory.wf s.mem = true) (a b : PageAddr) (g : PageImg) (place : b.base = (s.redirect a).base) :
    (s.setPage a g).pageAt b = g.kept ∧ (s.setPage a g).nameAt b = a.name % 2 ^ 32 := by
  have read (i n : Nat) (fits : i + n ≤ 4128) :
      Memory.readBytes (s.setPage a g).mem (b.base + i) n = ((g.bytes a.name).drop i).take n := by
    rw [place]
    exact Memory.readBytes_written h (g.bytes a.name) (s.redirect a).base i n (by rw [PageImg.bytes_length]; exact fits)
  have side (o n : Nat) (fits : o + n ≤ 32) :
      Memory.readBytes (s.setPage a g).mem (b.base + 4096 + o) n = ((g.side a.name).drop o).take n := by
    rw [Nat.add_assoc, read _ n (by omega), PageImg.bytes_side]
  obtain ⟨poison, handle, owner, wgen, name⟩ := PageImg.side_fields g a.name
  constructor
  · have data := read 0 4096 (by omega)
    rw [Nat.add_zero, PageImg.bytes_data] at data
    unfold State.pageAt PageImg.kept
    dsimp only
    rw [side 0 8 (by decide), side 8 4 (by decide), side 12 1 (by decide), side 16 8 (by decide), poison, handle, owner, wgen,
      data, leNat_leBytes, leNat_leBytes, leNat_leBytes, leNat_leBytes]
    simp only [PageImg.mk.injEq]
    exact ⟨trivial, ofNat_toNat_mod _ (by norm_num), ofNat_toNat_mod _ (by norm_num), by omega, ofNat_toNat_mod _ (by norm_num)⟩
  · unfold State.nameAt
    rw [side 24 4 (by decide), name, leNat_leBytes]
    norm_num

/-- What a place holds that lies apart from where a page has just been stored. -/
theorem State.setPage_apart {s : State} (h : Memory.wf s.mem = true) {a b : PageAddr} (g : PageImg)
    (apart : b.base + 4128 ≤ (s.redirect a).base ∨ (s.redirect a).base + 4128 ≤ b.base) : (s.setPage a g).pageAt b = s.pageAt b := by
  have read (i n : Nat) (fits : i + n ≤ 4128) :
      Memory.readBytes (s.setPage a g).mem (b.base + i) n = Memory.readBytes s.mem (b.base + i) n :=
    Memory.readBytes_unwritten h (g.bytes a.name) (by rw [PageImg.bytes_length]; omega)
  have side (o n : Nat) (fits : o + n ≤ 32) :
      Memory.readBytes (s.setPage a g).mem (b.base + 4096 + o) n = Memory.readBytes s.mem (b.base + 4096 + o) n := by
    rw [Nat.add_assoc, read _ n (by omega)]
  have data := read 0 4096 (by omega)
  rw [Nat.add_zero] at data
  unfold State.pageAt
  dsimp only
  rw [side 0 8 (by decide), side 8 4 (by decide), side 12 1 (by decide), side 16 8 (by decide),
    data]

theorem State.setPage_other {s : State} (h : Memory.wf s.mem = true) (a : PageAddr) (g : PageImg) {x : Nat}
    (apart : x < (s.redirect a).base ∨ (s.redirect a).base + 4128 ≤ x) : Memory.read (s.setPage a g).mem x = Memory.read s.mem x :=
  Memory.read_writeBytes_other (g.bytes a.name) s.mem _ x h (by rw [PageImg.bytes_length]; exact apart)

theorem State.writePage_page {s : State} (h : Memory.wf s.mem = true) (a : PageAddr) (g : PageImg) :
    (s.writePage a g).page a = ({ g with wgen := g.wgen + 1 } : PageImg).kept := (State.setPage_at h a (s.redirect a) _ rfl).1

/-! ### What a read of a page depends on -/

theorem State.page_congr {s t : State} {a : PageAddr} (mem : t.mem = s.mem) (way : t.redirect a = s.redirect a) : t.page a = s.page a := by
  unfold State.page State.pageAt
  rw [way, mem]

theorem State.decodePage_congr {s t : State} {a : PageAddr} (mem : t.mem = s.mem) (way : t.redirect a = s.redirect a) (img : t.img = s.img)
    (l : PageLine) : t.decodePage a l = s.decodePage a l := by
  unfold State.decodePage State.pageAt State.nameAt
  rw [way, mem, img]

/-- A read of the page addressed with every bit right. -/
theorem State.decodePage_clean {s : State} {a : PageAddr} (name : s.nameAt (s.redirect a) = a.name) : s.decodePage a .clean = (.clean, s.page a) := by
  unfold State.decodePage
  dsimp only [PageLine.clean]
  rw [show pageErrors s.img.pageT [] = some [] from rfl]
  exact (if_neg (by rw [ne_eq, not_not]; exact name)).trans (if_pos rfl)

/-- A read with no wrong bit of a place that carries another name. -/
theorem State.decodePage_misplaced {s : State} {a : PageAddr} {l : PageLine} (right : l.flips = []) (other : s.nameAt (l.place.getD (s.redirect a)) ≠ a.name) :
    s.decodePage a l = (.uncorrectable, s.pageAt (l.place.getD (s.redirect a))) := by
  unfold State.decodePage
  rw [right]
  rw [show pageErrors s.img.pageT [] = some [] from rfl]
  exact if_pos other

theorem eraseDups_of_nodup {l : List Nat} (h : l.Nodup) : l.eraseDups = l := by
  induction l with
  | nil => rfl
  | cons x l ih =>
    obtain ⟨fresh, rest⟩ := List.nodup_cons.1 h
    rw [List.eraseDups_cons, List.filter_eq_self.2 fun y hy => ?_, ih rest]
    simpa using fun e : y = x => fresh (e ▸ hy)

/-- Wrong bits within the strength of the page code are found. -/
theorem pageErrors_within {t : Nat} {flips : List Nat} (nodup : flips.Nodup) (inside : ∀ n ∈ flips, n < 33024 + 16 * t) (few : flips.length ≤ t) :
    pageErrors t flips = some flips := by
  have all : flips.eraseDups.filter (· < 33024 + 16 * t) = flips := by
    rw [eraseDups_of_nodup nodup]
    exact List.filter_eq_self.2 fun n hn => decide_eq_true (inside n hn)
  unfold pageErrors
  dsimp only
  rw [all]
  exact if_pos few

/-- A read with wrong bits within the strength of the page code. -/
theorem State.decodePage_corrects {s : State} {a : PageAddr} {l : PageLine} (here : l.place = none)
    (found : pageErrors s.img.pageT l.flips = some l.flips) (name : s.nameAt (s.redirect a) = a.name) :
    s.decodePage a l = (if l.flips = [] then .clean else .corrected l.flips.length, s.page a) := by
  have none_ : (l.flips.filter fun p => !l.flips.contains p) = [] := List.filter_eq_nil_iff.2 fun p hp => by simp [hp]
  unfold State.decodePage
  rw [here, found]
  dsimp only
  rw [none_]
  refine (if_neg (by rw [ne_eq, not_not]; exact name)).trans ?_
  cases l.flips with
  | nil => rfl
  | cons x r => rfl

/-! ### Hard faults -/

/-- Pages of one stack lie whole pages apart. -/
theorem PageAddr.base_apart {a b : PageAddr} (stack : a.stack = b.stack) :
    a.base = b.base ∨ a.base + 4128 ≤ b.base ∨ b.base + 4128 ≤ a.base := by
  have region (r : HbmRegion) : ∃ n, regionBase r = n * pageBytes := by
    cases r
    · exact ⟨0, rfl⟩
    · exact ⟨8912896, rfl⟩
    · exact ⟨9109504, rfl⟩
    · exact ⟨9142272, rfl⟩
    · exact ⟨9146368, rfl⟩
  obtain ⟨n, hn⟩ := region a.region
  obtain ⟨m, hm⟩ := region b.region
  unfold PageAddr.base
  rw [stack, hn, hm]
  generalize b.stack.val * stackBytes = z
  have size : pageBytes = 4224 := rfl
  rw [size]
  omega

theorem State.redirect_stack (s : State) (a : PageAddr) : (s.redirect a).stack = a.stack := by
  unfold State.redirect
  split <;> rfl

theorem State.elogPage_mem (s : State) (a : PageAddr) (kind bits detail : Nat) (h : BitVec 32) (actor : Nat) :
    (s.elogPage a kind bits detail h actor).mem = s.mem ∧ (s.elogPage a kind bits detail h actor).hbm = s.hbm := ⟨rfl, rfl⟩

theorem State.redirect_congr {s t : State} (hbm : ∀ k : Fin 4, (t.hbm[k]).remap = (s.hbm[k]).remap) (a : PageAddr) : t.redirect a = s.redirect a := by
  unfold State.redirect
  rw [hbm a.stack]

/-- A remap table with the entry of another page replaced. -/
theorem find_replaced (l : List Remap) {r r' : HbmRegion} {f f' n : Nat} (other : ¬ (r' = r ∧ f' = f)) :
    (⟨r', f', n⟩ :: l.filter fun e => !(e.region == r' && e.frame == f')).find? (fun e => e.region == r && e.frame == f) =
      l.find? fun e => e.region == r && e.frame == f := by
  rw [List.find?_cons_of_neg (by simpa using fun e => fun h => other ⟨e, h⟩), List.find?_filter]
  refine congrArg (fun p => List.find? p l) (funext fun e => ?_)
  by_cases h : e.region = r ∧ e.frame = f
  · obtain ⟨rfl, rfl⟩ := h
    have apart : ¬ (e.region = r' ∧ e.frame = f') := fun ⟨h1, h2⟩ => other ⟨h1.symm, h2.symm⟩
    simpa [Classical.or_iff_not_imp_left] using apart
  · have miss : (e.region == r && e.frame == f) = false := by simpa using h
    simp [miss]

/-- What a hard fault does to buffer memory: the page is copied to where its accesses go from then on. -/
structure HardFaulted (s t : State) (a : PageAddr) (g : PageImg) : Prop where
  page : g.data = (s.page a).data → g.wgen = (s.page a).wgen → g.data.length = 4096 →
    (t.page a).data = (s.page a).data ∧ (t.page a).wgen = (s.page a).wgen
  wbs : ∀ k : Fin 4, (t.hbm[k]).wbs = (s.hbm[k]).wbs
  flagged : ∀ n, s.flagged n → t.flagged n

theorem State.modStack_wbs (s : State) (j : Fin 4) {f : Stack → Stack} (h : ∀ x, (f x).wbs = x.wbs) (k : Fin 4) :
    ((s.modStack j f).hbm[k]).wbs = (s.hbm[k]).wbs := by
  unfold State.modStack
  rw [vmod_get]
  split
  · rw [h]
  · rfl

/-- A page that is stored where the accesses of `t` go, read as page `a` of the same stack. -/
theorem State.setPage_reads {s : State} (h : Memory.wf s.mem = true) {a t : PageAddr} {g : PageImg} (stack : t.stack = a.stack)
    (same : t ≠ a → g.data = (s.page a).data ∧ g.wgen = (s.page a).wgen) (size : g.data.length = 4096) :
    ((s.setPage t g).page a).data = g.data ∧ ((s.setPage t g).page a).wgen = g.wgen := by
  have level : (s.redirect a).stack = (s.redirect t).stack := by rw [State.redirect_stack, State.redirect_stack, stack]
  have way : (s.setPage t g).redirect a = s.redirect a := rfl
  unfold State.page
  rw [way]
  by_cases place : (s.redirect a).base = (s.redirect t).base
  · rw [(State.setPage_at h t (s.redirect a) g place).1]
    exact ⟨padTo_of_length size, rfl⟩
  · have apart := (PageAddr.base_apart level).resolve_left place
    rw [State.setPage_apart h g apart]
    obtain ⟨data, wgen⟩ := same fun e => place (by rw [e])
    exact ⟨data.symm, wgen.symm⟩

theorem State.hardFault_faulted {s : State} (h : Memory.wf s.mem = true) (a : PageAddr) (g : PageImg) (bits detail : Nat) (handle : BitVec 32) (actor : Nat) :
    HardFaulted s (s.hardFault a g bits detail handle actor) a g := by
  have told (u : State) (p : PageAddr) (kind n : Nat) (name : Nat) :
      ((u.elogPage p kind bits detail handle actor).raise n name).mem = u.mem ∧ ((u.elogPage p kind bits detail handle actor).raise n name).hbm = u.hbm ∧
        ∀ m, u.flagged m → ((u.elogPage p kind bits detail handle actor).raise n name).flagged m := by
    have only := State.raise_events (u.elogPage p kind bits detail handle actor) n name
    exact ⟨by rw [only.1]; rfl, by rw [only.1]; rfl, fun m hm => only.flagged hm⟩
  unfold State.hardFault
  extract_lets s0 k target
  have mem0 : s0.mem = s.mem := rfl
  have hbm0 : s0.hbm = s.hbm := rfl
  have flag0 : ∀ n, s.flagged n → s0.flagged n := fun _ hn => hn
  have page0 : s0.page a = s.page a := State.page_congr rfl rfl
  have stack (t : PageAddr) (ht : target = some t) : t.stack = a.stack := by
    simp only [target] at ht
    split at ht
    · obtain ⟨e, -, rfl⟩ := Option.map_eq_some_iff.1 ht
      rfl
    · cases ht; rfl
  have wf0 : Memory.wf s0.mem = true := h
  clear_value s0 target
  -- a page stored in a state that reads `a` as `s` does, but for where the page stored goes, and told of
  have stored (u : State) (t : PageAddr) (kind n : Nat) (mem : u.mem = s0.mem) (same : t ≠ a → u.page a = s0.page a) (beside : t.stack = a.stack)
      (wbs : ∀ j : Fin 4, (u.hbm[j]).wbs = (s0.hbm[j]).wbs) (flags : ∀ m, s0.flagged m → u.flagged m) :
      HardFaulted s (((u.setPage t g).elogPage t kind bits detail handle actor).raise n t.name) a g := by
    obtain ⟨mem', hbm', flags'⟩ := told (u.setPage t g) t kind n t.name
    refine ⟨fun data wgen size => ?_, fun j => ?_, fun m hm => flags' m (flags m (flag0 m hm))⟩
    · rw [State.page_congr mem' (State.redirect_congr (fun j => by rw [hbm']) a), ← data, ← wgen]
      refine State.setPage_reads (by rw [mem]; exact wf0) beside (fun other => ?_) size
      rw [same other, page0]
      exact ⟨data, wgen⟩
    · rw [hbm', show (u.setPage t g).hbm = u.hbm from rfl, wbs, hbm0]
  cases target with
  | none =>
    have remaps (j : Fin 4) : ((s0.modStack a.stack fun x => { x with badSpares := a.frame :: x.badSpares }).hbm[j]).remap = (s0.hbm[j]).remap := by
      unfold State.modStack
      rw [vmod_get]
      split <;> rfl
    refine ⟨fun _ _ _ => ?_, fun j => ?_, flag0⟩
    · rw [← page0]
      have same : _ = s0.page a := State.page_congr (s := s0) (t := s0.modStack a.stack fun x => { x with badSpares := a.frame :: x.badSpares }) rfl
        (State.redirect_congr remaps a)
      exact ⟨congrArg PageImg.data same, congrArg PageImg.wgen same⟩
    · rw [← hbm0]
      exact State.modStack_wbs s0 a.stack (f := fun x => { x with badSpares := a.frame :: x.badSpares }) (fun _ => rfl) j
  | some t =>
    have beside := stack t rfl
    dsimp only
    split
    next n _ =>
      refine stored _ t 5 _ rfl (fun other => State.page_congr rfl ?_) beside (State.modStack_wbs s0 a.stack fun _ => rfl) fun _ hm => hm
      unfold State.redirect State.modStack
      dsimp only
      rw [vmod_get_self]
      dsimp only
      rw [find_replaced]
      rintro ⟨region, frame⟩
      exact other (by cases t; cases a; simp_all)
    · exact stored s0 t 6 _ rfl (fun _ => rfl) beside (fun _ => rfl) fun _ hm => hm

/-! ### PAGE_READ and PAGE_WRITE -/

theorem State.takeSlot_redirect (s : State) (a b : PageAddr) : (s.takeSlot a).redirect b = s.redirect b :=
  State.redirect_modStack s b a.stack _ fun _ => rfl

theorem State.takeSlot_page (s : State) (a b : PageAddr) : (s.takeSlot a).page b = s.page b := State.page_congr rfl (State.takeSlot_redirect ..)

theorem State.takeSlot_decodePage (s : State) (a b : PageAddr) (l : PageLine) : (s.takeSlot a).decodePage b l = s.decodePage b l := by
  have mem : (s.takeSlot a).mem = s.mem := rfl
  have img : (s.takeSlot a).img = s.img := rfl
  have way := State.takeSlot_redirect s a b
  generalize s.takeSlot a = t at mem img way
  exact State.decodePage_congr mem way img l

theorem State.readPage_clean {s : State} {a : PageAddr} (name : s.nameAt (s.redirect a) = a.name) (detail : Nat) (h : BitVec 32) (actor : Nat) :
    s.readPage a .clean detail h actor = (s.page a, s) := by
  unfold State.readPage
  rw [State.decodePage_clean name]
  generalize s.page a = g
  exact (if_neg Bool.false_ne_true).trans (Prod.ext rfl ((if_neg fun h => absurd h.2 (Nat.lt_irrefl 0)).trans (if_neg (Nat.lt_irrefl 0))))

/-- A read that cannot be corrected raises the stack's event. -/
theorem State.readPage_bad {s : State} (wf : Memory.wf s.mem = true) {a : PageAddr} {l : PageLine} (bad : (s.decodePage a l).1.bad = true) (detail : Nat)
    (h : BitVec 32) (actor : Nat) : (s.readPage a l detail h actor).2.flagged (33 + 8 * a.stack.val) := by
  have below := a.stack.isLt
  unfold State.readPage
  dsimp only
  rw [if_pos bad]
  refine (State.hardFault_faulted ?_ a _ 0 detail h actor).flagged _ (State.raise_flagged _ _ _ (by omega))
  rw [(State.raise_events ..).1]
  exact wf

theorem State.logStale_flagged (s : State) (a : PageAddr) (h : BitVec 32) (actor : Nat) :
    (s.logStale a h actor).flagged (240 + 8 * (dieOfStack a.stack).val) := by
  have below := (dieOfStack a.stack).isLt
  exact State.raise_flagged _ _ 0 (by omega)

theorem State.logStale_keeps (s : State) (a : PageAddr) (h : BitVec 32) (actor : Nat) :
    (s.logStale a h actor).mem = s.mem ∧ ∀ n, s.flagged n → (s.logStale a h actor).flagged n := by
  unfold State.logStale
  extract_lets d
  generalize hu : (s.modDie d fun x => { x with misuse := vmod x.misuse ⟨actor % 64, by omega⟩ (· + 1) }).elogPage a 10 0 11 h actor = u
  have only := State.raise_events u (240 + 8 * d.val) 0
  exact ⟨by rw [only.1, ← hu]; rfl, fun n hn => only.flagged (by rw [← hu]; exact hn)⟩

section
variable {s : State} {a : PageAddr} {h : BitVec 32} {actor : Nat} (there : a.exists = true) (wf : Memory.wf s.mem = true)
include there

theorem exec_pageRead_copyOnly (o : PageLine) : exec (.pageRead a h actor o .copyOnly) s = .next
    (if s.staleAccess a h then ((s.takeSlot a).readPage a o 1 h actor).2.logStale a h actor else ((s.takeSlot a).readPage a o 1 h actor).2) := by
  refine (if_neg (by rw [there]; decide)).trans (congrArg Host.Outcome.next ?_)
  have same : (s.takeSlot a).staleAccess a h = s.staleAccess a h := rfl
  rw [same]
  cases s.staleAccess a h with
  | true => exact ite_self _
  | false => exact ite_self _

theorem exec_pageRead_clean (fresh : s.staleAccess a h = false) (name : s.nameAt (s.redirect a) = a.name) (sound : (s.page a).poison = 0) (c : Consumer) :
    exec (.pageRead a h actor .clean c) s = .next (s.takeSlot a) := by
  have read := State.readPage_clean (s := s.takeSlot a) (a := a) (by rw [State.takeSlot_redirect]; exact name) 1 h actor
  have fresh' : (s.takeSlot a).staleAccess a h = false := fresh
  refine (if_neg (by rw [there]; decide)).trans (congrArg Host.Outcome.next ?_)
  dsimp only
  rw [read, fresh']
  exact if_pos ((congrArg PageImg.poison (State.takeSlot_page s a a)).trans sound)

theorem exec_pageWrite_stale (stale : s.staleAccess a h = true) (first : Nat) (beats : List (BitVec 512)) (poison : BitVec 64) (o : PageLine) :
    exec (.pageWrite a h actor first beats poison o) s = .next ((s.takeSlot a).logStale a h actor) :=
  (if_neg (by rw [there]; decide)).trans (if_pos stale)

theorem exec_pageWrite_whole (fresh : s.staleAccess a h = false) (first : Nat) {beats : List (BitVec 512)} (whole : beats.length = 64) (poison : BitVec 64)
    (o : PageLine) : exec (.pageWrite a h actor first beats poison o) s = .next ((s.takeSlot a).writePage a { ((s.page a).merge 0 beats poison) with
      handle := h
      owner := s.lastNamed a h }) := by
  have fresh' : (s.takeSlot a).staleAccess a h = false := fresh
  refine (if_neg (by rw [there]; decide)).trans ((if_neg (by rw [fresh']; decide)).trans ((if_pos (by omega)).trans ?_))
  rw [State.takeSlot_page]
  rfl

theorem exec_pageWrite_part (fresh : s.staleAccess a h = false) (name : s.nameAt (s.redirect a) = a.name) (first : Nat) {beats : List (BitVec 512)}
    (part : beats.length < 64) (poison : BitVec 64) :
    exec (.pageWrite a h actor first beats poison .clean) s = .next ((s.takeSlot a).writePage a { ((s.page a).merge first beats poison) with
      handle := h
      owner := s.lastNamed a h
      wgen := (s.page a).wgen }) := by
  have fresh' : (s.takeSlot a).staleAccess a h = false := fresh
  have name' : (s.takeSlot a).nameAt ((s.takeSlot a).redirect a) = a.name := by rw [State.takeSlot_redirect]; exact name
  refine (if_neg (by rw [there]; decide)).trans ((if_neg (by rw [fresh']; decide)).trans ((if_neg (by omega)).trans ?_))
  dsimp only
  rw [State.readPage_clean name', State.decodePage_clean name', State.takeSlot_page]
  rfl

end

theorem beats_length (l : List (BitVec 512)) : (l.flatMap beatBytes).length = 64 * l.length := by
  induction l with
  | nil => rfl
  | cons x l ih =>
    rw [List.flatMap_cons, List.length_append, ih, beatBytes, leBytes_length, List.length_cons]
    omega

theorem State.page_length (s : State) (a : PageAddr) : (s.page a).data.length = 4096 := by
  simp [State.page, State.pageAt, Memory.readBytes]

/-- Beats merged into a page where they fit. -/
theorem PageImg.merge_data {g : PageImg} {first : Nat} {beats : List (BitVec 512)} (fits : first + beats.length ≤ 64) (p : BitVec 64) :
    (g.merge first beats p).data = g.data.take (64 * first) ++ beats.flatMap beatBytes ++ g.data.drop (64 * (first + beats.length)) := by
  have all : min beats.length (64 - first) = beats.length := by omega
  unfold PageImg.merge
  dsimp only
  rw [all, List.take_length]

theorem PageImg.merge_length {g : PageImg} {first : Nat} {beats : List (BitVec 512)} (fits : first + beats.length ≤ 64) (size : g.data.length = 4096)
    (p : BitVec 64) : (g.merge first beats p).data.length = 4096 := by
  rw [PageImg.merge_data fits]
  simp only [List.length_append, List.length_take, List.length_drop, beats_length, size]
  omega

theorem PageImg.merge_poison {g : PageImg} {beats : List (BitVec 512)} (whole : beats.length = 64) (p : BitVec 64) :
    (g.merge 0 beats p).poison = p := by
  have mask : BitVec.ofNat 64 ((2 ^ min beats.length (64 - 0) - 1) <<< 0) = BitVec.allOnes 64 := by
    rw [whole]
    decide
  unfold PageImg.merge
  dsimp only
  rw [mask, BitVec.not_allOnes, BitVec.and_zero, BitVec.zero_or, BitVec.and_allOnes]

/-- Settles O57: a page that is stored reads back as it was stored, and every outcome of a read or write is the one of its branch of the page code and of
the stale access. -/
theorem pagesReadAndWritten : Obligations.PagesReadAndWritten := by
  intro s a h actor there wf
  have kept (g : PageImg) : (((s.takeSlot a).writePage a g).page a) = _ := State.writePage_page (s := s.takeSlot a) wf a g
  have other (g : PageImg) (x : Nat) (hx : x < (s.redirect a).base ∨ (s.redirect a).base + 4128 ≤ x) :
      Memory.read ((s.takeSlot a).writePage a g).mem x = Memory.read s.mem x :=
    State.setPage_other (s := s.takeSlot a) wf a _ (by rw [State.takeSlot_redirect]; exact hx)
  refine ⟨fun o stale => ⟨⟨_, exec_pageRead_copyOnly there o, ?_⟩, fun first beats poison => ⟨_, exec_pageWrite_stale there stale first beats poison o, ?_, ?_⟩⟩,
    fun l here nodup inside few name => State.decodePage_corrects here (pageErrors_within nodup inside few) name,
    fun l right misplaced => congrArg Prod.fst (State.decodePage_misplaced right misplaced),
    fun c fresh name sound => exec_pageRead_clean there fresh name sound c, fun o bad => ⟨_, exec_pageRead_copyOnly there o, ?_⟩,
    fun first beats poison o fresh whole => ⟨_, exec_pageWrite_whole there fresh first whole poison o, ?_, fun x hx => other _ x hx⟩,
    fun first beats poison fresh name _ fits part => ⟨_, exec_pageWrite_part there fresh name first part poison, ?_, ?_, fun x hx => other _ x hx⟩⟩
  · rw [if_pos stale]
    exact State.logStale_flagged _ a h actor
  · exact (State.logStale_keeps ..).1
  · exact State.logStale_flagged _ a h actor
  · have read := State.readPage_bad (s := s.takeSlot a) wf (a := a) (l := o) (by rw [State.takeSlot_decodePage]; exact bad) 1 h actor
    split
    · exact (State.logStale_keeps ..).2 _ read
    · exact read
  · rw [kept]
    unfold PageImg.kept
    dsimp only
    have data : ((s.page a).merge 0 beats poison).data = beats.flatMap beatBytes := by
      rw [PageImg.merge_data (by omega), whole, List.drop_eq_nil_of_le (by rw [State.page_length])]
      simp
    rw [PageImg.merge_poison whole, data, padTo_of_length (by rw [beats_length, whole])]
    rfl
  · rw [kept]
    exact (padTo_of_length (PageImg.merge_length fits (State.page_length s a) poison)).trans (PageImg.merge_data fits poison)
  · rw [kept]
    rfl

end Sys2Proof.Machine
end

section
/-!
OBLIGATIONS. Write-backs, the patrol and range scrubs of buffer memory (O58).
-/
namespace Sys2Proof.Machine

/-! ### Class M's slot -/

theorem State.takeM_redirect (s : State) (a b : PageAddr) : (s.takeM a).redirect b = s.redirect b :=
  State.redirect_modStack s b a.stack _ fun _ => rfl

theorem State.takeM_decodePage (s : State) (a b : PageAddr) (l : PageLine) : (s.takeM a).decodePage b l = s.decodePage b l := by
  have mem : (s.takeM a).mem = s.mem := rfl
  have img : (s.takeM a).img = s.img := rfl
  have way := State.takeM_redirect s a b
  generalize s.takeM a = t at mem img way
  exact State.decodePage_congr mem way img l

theorem State.takeM_hbm (s : State) (a : PageAddr) (k : Fin 4) :
    ((s.takeM a).hbm[k]).wbs = (s.hbm[k]).wbs ∧ ((s.takeM a).hbm[k]).remap = (s.hbm[k]).remap ∧ (k ≠ a.stack → (s.takeM a).hbm[k] = s.hbm[k]) := by
  unfold State.takeM State.modStack
  dsimp only
  rw [vmod_get]
  split
  next e => exact ⟨rfl, rfl, fun h => absurd e.symm h⟩
  · exact ⟨rfl, rfl, fun _ => rfl⟩

theorem State.takeM_serves (s : State) (a b : PageAddr) : (s.takeM a).serves b = s.serves b := by
  unfold State.serves
  rw [(State.takeM_hbm s a b.stack).2.1]

/-- A scrub of a page that reads clean changes nothing. -/
theorem State.scrubPage_clean {s : State} {a : PageAddr} {l : PageLine} (clean : (s.decodePage (s.serves a) l).1 = .clean) (detail : Nat) :
    s.scrubPage a l detail = s := by
  unfold State.scrubPage
  dsimp only
  rw [clean]
  rfl

/-! ### Write-backs -/

theorem State.scrubGo_keeps (s : State) (d : DieId) : (s.scrubGo d).mem = s.mem ∧ (s.scrubGo d).hbm = s.hbm := by
  unfold State.scrubGo
  split
  · exact ⟨rfl, rfl⟩
  split
  · exact ⟨by rw [State.finishWith_portsOnly]; rfl, by rw [State.finishWith_portsOnly]; rfl⟩
  · exact ⟨rfl, rfl⟩

theorem State.scrubCounts_keeps (s : State) (w : PendingWb) (n m : Nat) : (s.scrubCounts w n m).mem = s.mem ∧ (s.scrubCounts w n m).hbm = s.hbm := by
  unfold State.scrubCounts
  split <;> exact ⟨rfl, rfl⟩

/-- A read of the page addressed, with every bit right, of a place that carries another name. -/
theorem State.readPage_misnamed {s : State} {a : PageAddr} (other : s.nameAt (s.redirect a) ≠ a.name) (detail : Nat) (h : BitVec 32) (actor : Nat) :
    (s.readPage a .clean detail h actor).2 = ((s.elogPage a 1 0 detail h actor).raise (33 + 8 * a.stack.val) a.name).hardFault a
      { s.page a with poison := allPoison } 0 detail h actor := by
  have found := State.decodePage_misplaced (l := .clean) rfl other
  unfold State.readPage
  dsimp only
  rw [found]
  rfl

/-- A page that is stored, and told of. -/
theorem State.stored_again {s : State} (wf : Memory.wf s.mem = true) (a : PageAddr) (g : PageImg) (kind bits detail : Nat) (h : BitVec 32) (actor : Nat) :
    let t := (s.writePage a g).elogPage a kind bits detail h actor
    t.page a = ({ g with wgen := g.wgen + 1 } : PageImg).kept ∧ t.hbm = s.hbm ∧ Memory.wf t.mem = true :=
  ⟨(State.page_congr rfl (State.redirect_congr (fun _ => rfl) a)).trans (State.writePage_page wf a g), rfl, (State.setPage_pages s a _).2 wf⟩

/-- A write-back whose verify read finds no wrong bit stores the page again, with its write count one higher. -/
theorem State.writeBackPage_clean {s : State} (wf : Memory.wf s.mem = true) (w : PendingWb) : let t := s.writeBackPage w .clean
    (t.page w.addr).data = (s.page w.addr).data ∧ (t.page w.addr).wgen = (s.page w.addr).wgen + 1 ∧ ∀ k : Fin 4, (t.hbm[k]).wbs = (s.hbm[k]).wbs := by
  intro t
  obtain ⟨stored, hbm1, wf1⟩ := State.stored_again wf w.addr (s.page w.addr) 2 w.bits w.detail w.handle w.actor
  have kept (g : PageImg) (size : g.data.length = 4096) : ({ g with wgen := g.wgen + 1 } : PageImg).kept.data = g.data ∧
      ({ g with wgen := g.wgen + 1 } : PageImg).kept.wgen = g.wgen + 1 := ⟨padTo_of_length size, rfl⟩
  obtain ⟨data, wgen⟩ := kept _ (State.page_length s w.addr)
  have again : t = s.writeBackPage w .clean := rfl
  clear_value t
  unfold State.writeBackPage at again
  generalize (s.writePage w.addr (s.page w.addr)).elogPage w.addr 2 w.bits w.detail w.handle w.actor = s1 at stored hbm1 wf1 again
  have data1 : (s1.page w.addr).data = (s.page w.addr).data := (congrArg PageImg.data stored).trans data
  have wgen1 : (s1.page w.addr).wgen = (s.page w.addr).wgen + 1 := (congrArg PageImg.wgen stored).trans wgen
  have unfixed : ¬ ((!(s1.decodePage w.addr .clean).1.bad) = true ∧ (s1.decodePage w.addr .clean).1.fixed > s.img.hardBits) := by
    rintro ⟨_, more⟩
    by_cases name : s1.nameAt (s1.redirect w.addr) = w.addr.name
    · rw [State.decodePage_clean name] at more
      exact Nat.not_lt_zero _ more
    · rw [State.decodePage_misplaced (l := .clean) rfl name] at more
      exact Nat.not_lt_zero _ more
  dsimp only at again
  rw [if_neg unfixed] at again
  rw [again]
  clear again t
  by_cases name : s1.nameAt (s1.redirect w.addr) = w.addr.name
  · rw [State.readPage_clean name]
    exact ⟨data1, wgen1, fun k => by rw [hbm1]⟩
  · rw [State.readPage_misnamed name]
    generalize hu : (s1.elogPage w.addr 1 0 w.detail w.handle w.actor).raise (33 + 8 * w.addr.stack.val) w.addr.name = u
    have only : EventsOnly _ u := hu ▸ State.raise_events ..
    have mem : u.mem = s1.mem := by rw [only.1]; rfl
    have hbm : u.hbm = s1.hbm := by rw [only.1]; rfl
    have page : u.page w.addr = s1.page w.addr := State.page_congr mem (State.redirect_congr (fun k => by rw [hbm]) _)
    rw [← page] at data1 wgen1 ⊢
    have fault := State.hardFault_faulted (s := u) (by rw [mem]; exact wf1) w.addr { u.page w.addr with poison := allPoison } 0 w.detail w.handle w.actor
    have poisoned (g : PageImg) (size : g.data.length = 4096) : ({ g with poison := allPoison } : PageImg).data = g.data ∧
        ({ g with poison := allPoison } : PageImg).wgen = g.wgen ∧ ({ g with poison := allPoison } : PageImg).data.length = 4096 := ⟨rfl, rfl, size⟩
    obtain ⟨same, count, size⟩ := poisoned (u.page w.addr) (State.page_length u w.addr)
    obtain ⟨data, wgen⟩ := fault.page same count size
    exact ⟨data.trans data1, wgen.trans wgen1, fun k => (fault.wbs k).trans (by rw [hbm, hbm1])⟩

section
variable {s : State} {k : Fin 4} {w : PendingWb} {rest : List PendingWb} (front : (s.hbm[k]).wbs = w :: rest)

/-- A stack whose oldest write-back has class M's slot. -/
def State.wbTaken (s : State) (k : Fin 4) (w : PendingWb) (rest : List PendingWb) : State :=
  (s.takeM w.addr).modStack k fun x => { x with wbs := rest }

theorem State.wbTaken_page (s : State) (k : Fin 4) (w : PendingWb) (rest : List PendingWb) : (s.wbTaken k w rest).page w.addr = s.page w.addr :=
  State.page_congr rfl ((State.redirect_modStack (s.takeM w.addr) w.addr k (fun x => { x with wbs := rest }) fun _ => rfl).trans
    (State.takeM_redirect s w.addr w.addr))

theorem State.wbTaken_wbs (s : State) (k : Fin 4) (w : PendingWb) (rest : List PendingWb) : ((s.wbTaken k w rest).hbm[k]).wbs = rest := by
  unfold State.wbTaken State.modStack
  rw [vmod_get_self]

include front

theorem exec_writeBack_waits (busy : s.mGranted w.addr = false) (o : PageLine) : exec (.writeBack k o) s = .next s := by
  show execWriteBack k o s = _
  unfold execWriteBack
  rw [front]
  exact congrArg Host.Outcome.next (if_pos (by rw [busy]; rfl))

theorem exec_writeBack_drops (granted : s.mGranted w.addr = true) (written : (s.page w.addr).wgen ≠ w.wgen) (o : PageLine) :
    exec (.writeBack k o) s = .next ((((s.wbTaken k w rest).elogPage w.addr 3 w.bits w.detail w.handle w.actor).scrubCounts w 1 0).scrubGo
      (dieOfStack w.addr.stack)) := by
  have page : (((s.takeM w.addr).modStack k fun x => { x with wbs := rest }).page w.addr) = s.page w.addr := State.wbTaken_page s k w rest
  show execWriteBack k o s = _
  unfold execWriteBack
  rw [front]
  dsimp only
  rw [if_neg (by rw [granted]; decide), if_pos (by rw [page]; exact written)]
  rfl

theorem exec_writeBack_writes (granted : s.mGranted w.addr = true) (fresh : (s.page w.addr).wgen = w.wgen) (o : PageLine) :
    ∃ n, exec (.writeBack k o) s = .next ((((s.wbTaken k w rest).writeBackPage w o).scrubCounts w 0 n).scrubGo (dieOfStack w.addr.stack)) := by
  have page : (((s.takeM w.addr).modStack k fun x => { x with wbs := rest }).page w.addr) = s.page w.addr := State.wbTaken_page s k w rest
  refine ⟨remapped (s.wbTaken k w rest) ((s.wbTaken k w rest).writeBackPage w o) w.addr.stack, ?_⟩
  show execWriteBack k o s = _
  unfold execWriteBack
  rw [front]
  dsimp only
  rw [if_neg (by rw [granted]; decide), if_neg (by rw [page]; exact fun other => other fresh)]
  rfl

end

/-! ### The patrol -/

theorem patrolPage_stack (k : Fin 4) (n : Nat) : (patrolPage k n).stack = k := by
  unfold patrolPage
  split
  · rfl
  split
  · rfl
  split
  · rfl
  split <;> rfl

theorem exec_patrolScrub_waits {s : State} {k : Fin 4} {o : PageLine} (h : s.img.patrolH = 0 ∨ s.power.state = 3 ∨
    s.mGranted (patrolPage k (s.hbm[k]).patrol) = false ∨ s.scrubFirst (patrolPage k (s.hbm[k]).patrol) = true) :
    exec (.patrolScrub k o.flips o.place) s = .next s := by
  refine congrArg Host.Outcome.next ?_
  by_cases off : s.img.patrolH = 0 ∨ s.power.state = 3
  · exact if_pos off
  · refine (if_neg off).trans (if_pos ?_)
    rcases h with h | h | h | h
    · exact absurd (.inl h) off
    · exact absurd (.inr h) off
    · exact .inl (by rw [h]; rfl)
    · exact .inr h

theorem exec_patrolScrub_clean {s : State} {k : Fin 4} {o : PageLine} (on : s.img.patrolH ≠ 0) (awake : s.power.state ≠ 3)
    (granted : s.mGranted (patrolPage k (s.hbm[k]).patrol) = true) (first : s.scrubFirst (patrolPage k (s.hbm[k]).patrol) = false)
    (clean : (s.decodePage (s.serves (patrolPage k (s.hbm[k]).patrol)) o).1 = .clean) :
    exec (.patrolScrub k o.flips o.place) s = .next ((s.takeM (patrolPage k (s.hbm[k]).patrol)).modStack k fun x => { x with
      patrol := ((s.hbm[k]).patrol + 1) % stackPages }) := by
  refine congrArg Host.Outcome.next ((if_neg fun h => h.elim on awake).trans ((if_neg ?_).trans ?_))
  · rw [granted, first]
    decide
  · have reads : (s.takeM (patrolPage k (s.hbm[k]).patrol)).scrubPage (patrolPage k (s.hbm[k]).patrol) o 2 = s.takeM (patrolPage k (s.hbm[k]).patrol) :=
      State.scrubPage_clean (by rw [State.takeM_serves, State.takeM_decodePage]; exact clean) 2
    exact congrArg (fun u : State => u.modStack k fun x => { x with patrol := ((s.hbm[k]).patrol + 1) % stackPages }) reads

/-! ### Range scrubs -/

/-- The job of a range scrub once a page has been read without an error. -/
def ScrubJob.readOne (j : ScrubJob) : ScrubJob := { j with
  next := j.next + 1
  left := j.left - 1
  npage := j.npage + 1 }

section
variable {s : State} {d : DieId} {j : ScrubJob} {o : PageLine} (scrub : (s.dies[d]).scrub = some j)
include scrub

theorem exec_rangeScrubRead_waits (h : j.left = 0 ∨ s.mGranted (dpnPage d j.next) = false) : exec (.rangeScrubRead d o.flips o.place) s = .next s := by
  show execRangeScrubRead d o.flips o.place s = _
  unfold execRangeScrubRead
  rw [scrub]
  exact congrArg Host.Outcome.next (if_pos (h.imp id fun busy => by rw [busy]; rfl))

theorem exec_rangeScrubRead_clean (granted : s.mGranted (dpnPage d j.next) = true) (more : j.left ≠ 0)
    (clean : (s.decodePage (dpnPage d j.next) o).1 = .clean) (served : (s.decodePage (s.serves (dpnPage d j.next)) o).1 = .clean) :
    exec (.rangeScrubRead d o.flips o.place) s = .next (((s.takeM (dpnPage d j.next)).modDie d fun x => { x with scrub := some j.readOne }).scrubGo d) := by
  have reads : (s.takeM (dpnPage d j.next)).scrubPage (dpnPage d j.next) o 3 = s.takeM (dpnPage d j.next) :=
    State.scrubPage_clean (by rw [State.takeM_serves, State.takeM_decodePage]; exact served) 3
  have still : remapped s (s.takeM (dpnPage d j.next)) (dpnPage d j.next).stack = 0 := if_pos (State.takeM_hbm ..).2.1
  show execRangeScrubRead d o.flips o.place s = _
  unfold execRangeScrubRead
  rw [scrub]
  refine congrArg Host.Outcome.next ((if_neg (by rw [granted]; simpa using more)).trans ?_)
  have job : ({ j with
      next := j.next + 1, left := j.left - 1, npage := j.npage + 1, ncorr := j.ncorr + (if PageOutcome.clean.fixed > 0 then 1 else 0)
      nbits := j.nbits + PageOutcome.clean.fixed, maxBits := max j.maxBits PageOutcome.clean.fixed, nunc := j.nunc + PageOutcome.clean.bad.toNat
      nremap := j.nremap + 0, unc := if PageOutcome.clean.bad then j.unc ++ [j.next] else j.unc } : ScrubJob) = j.readOne := by
    unfold ScrubJob.readOne
    simp [PageOutcome.fixed, PageOutcome.bad]
  have line : (⟨o.flips, o.place⟩ : PageLine) = o := rfl
  dsimp only
  rw [line, reads, clean, still, job]

end

/-- A range scrub with pages left goes on. -/
theorem State.scrubGo_goes {s : State} {d : DieId} {j : ScrubJob} (scrub : (s.dies[d]).scrub = some j) (more : j.left ≠ 0) : s.scrubGo d = s := by
  unfold State.scrubGo
  rw [scrub]
  exact if_neg fun h => more h.1

/-- Whether a write-back of a die's range scrub still waits. -/
def State.scrubWaits (s : State) (d : DieId) : Bool := s.hbm.toList.any fun k => k.wbs.any fun w => w.detail == 3 && dieOfStack w.addr.stack == d

theorem State.scrubWaits_iff {s : State} {d : DieId} :
    s.scrubWaits d = true ↔ ∃ n : Fin 4, ∃ w ∈ (s.hbm[n]).wbs, w.detail = 3 ∧ dieOfStack w.addr.stack = d := by
  unfold State.scrubWaits
  simp only [List.any_eq_true, Bool.and_eq_true, beq_iff_eq, Vector.mem_toList_iff, Vector.mem_iff_getElem]
  constructor
  · rintro ⟨x, ⟨i, hi, rfl⟩, w, hw, h⟩
    exact ⟨⟨i, hi⟩, w, hw, h⟩
  · rintro ⟨n, w, hw, h⟩
    exact ⟨_, ⟨n.val, n.isLt, rfl⟩, w, hw, h⟩

/-- A range scrub that has read its last page and waits for a write-back. -/
theorem State.scrubGo_waits {s : State} {d : DieId} {j : ScrubJob} (scrub : (s.dies[d]).scrub = some j) (waits : s.scrubWaits d = true) : s.scrubGo d = s := by
  unfold State.scrubGo
  rw [scrub]
  refine if_neg fun h => ?_
  have none_ : (!s.scrubWaits d) = true := h.2
  rw [waits] at none_
  cases none_

/-- A range scrub that has read its last page and waits for nothing. -/
theorem State.scrubGo_ends {s : State} {d : DieId} {j : ScrubJob} (scrub : (s.dies[d]).scrub = some j) (last : j.left = 0) (free : s.scrubWaits d = false) :
    s.scrubGo d = (s.modDie d fun x => { x with scrub := none }).finishWith j.cmd (.ok j.nunc) j.bytes := by
  unfold State.scrubGo
  rw [scrub]
  exact if_pos ⟨last, by rw [show (s.hbm.toList.any fun k => k.wbs.any fun w => w.detail == 3 && dieOfStack w.addr.stack == d) = false from free]; rfl⟩

/-- A die whose range scrub has read a page without an error. -/
def State.readOne (s : State) (d : DieId) (j : ScrubJob) : State := (s.takeM (dpnPage d j.next)).modDie d fun x => { x with scrub := some j.readOne }

theorem State.readOne_scrub (s : State) (d : DieId) (j : ScrubJob) : ((s.readOne d j).dies[d]).scrub = some j.readOne := by
  unfold State.readOne
  rw [State.modDie_dies, vmod_get_self]

theorem State.readOne_waits (s : State) (d : DieId) (j : ScrubJob) : (s.readOne d j).scrubWaits d = true ↔
    ∃ n : Fin 4, ∃ w ∈ (s.hbm[n]).wbs, w.detail = 3 ∧ dieOfStack w.addr.stack = d := by
  rw [State.scrubWaits_iff]
  have same (n : Fin 4) : ((s.readOne d j).hbm[n]).wbs = (s.hbm[n]).wbs := (State.takeM_hbm s _ n).1
  simp only [same]

theorem State.finish_scrub (s : State) (r : CmdRef) (f : Ending) (d : DieId) : ((s.finish r f).dies[d]).scrub = (s.dies[d]).scrub := by
  unfold State.finish
  split
  · rfl
  next c _ =>
    unfold State.putDone
    dsimp only
    split
    · have logged := (State.logErr_events (s.modQp r.port r.qid fun x => { x with cmds := dropFirst (fun k => k.entry.tag == r.tag) x.cmds }) r.port
        (cmdErr s.micros r.qid c.entry f)).2.2.1 d
      exact (congrArg Die.scrub logged).trans rfl
    · rfl

theorem State.finishWith_scrub (s : State) (r : CmdRef) (f : Ending) (l : List Byte) (d : DieId) :
    ((s.finishWith r f l).dies[d]).scrub = (s.dies[d]).scrub := by
  have sent (p : Port) (e : Entry) (b : Bool) : (s.sendResult p e l b).dies = s.dies := by
    unfold State.sendResult
    split <;> rfl
  unfold State.finishWith
  split
  · rfl
  split
  · rw [State.finish_scrub, sent]
  · rw [State.finish_scrub, sent]

/-! ### The obligation -/

/-- Settles O58: class M's slot changes neither pages nor write-backs, a clean verify read leaves the page that was stored again, wherever a remap sends
it, and a range scrub goes on, waits or ends by what is left of it. -/
theorem pagesScrubbed : Obligations.PagesScrubbed := by
  intro s wf
  refine ⟨fun k none_ o => ?_, fun k w rest o front busy => exec_writeBack_waits front busy o, fun k w rest o front granted written =>
      ⟨_, exec_writeBack_drops front granted written o, ?_, ?_⟩, fun k w rest front granted fresh => ?_, fun k o h => exec_patrolScrub_waits h,
    fun k o on awake granted first clean => ⟨_, exec_patrolScrub_clean on awake granted first clean, rfl, ?_, fun k' other => ?_⟩,
    ⟨_, rfl, rfl, fun k n => ?_⟩, fun d none_ o => ?_, fun d j o scrub h => exec_rangeScrubRead_waits scrub h,
    fun d j o scrub granted more clean served => ⟨_, exec_rangeScrubRead_clean scrub granted (by omega) clean served, ?_⟩,
    fun d j c o scrub granted last found sound clean served => ⟨fun free => ⟨_, exec_rangeScrubRead_clean scrub granted (by omega) clean served, ?_⟩,
      fun waits => ⟨_, exec_rangeScrubRead_clean scrub granted (by omega) clean served, ?_⟩⟩⟩
  · show execWriteBack k o s = _
    unfold execWriteBack
    rw [none_]
  · rw [(State.scrubGo_keeps ..).2, (State.scrubCounts_keeps ..).2]
    exact State.wbTaken_wbs s k w rest
  · rw [(State.scrubGo_keeps ..).1, (State.scrubCounts_keeps ..).1]
    rfl
  · obtain ⟨n, run⟩ := exec_writeBack_writes front granted fresh .clean
    obtain ⟨data, wgen, wbs⟩ := State.writeBackPage_clean (s := s.wbTaken k w rest) wf w
    rw [State.wbTaken_page] at data wgen
    refine ⟨_, run, ?_⟩
    generalize (s.wbTaken k w rest).writeBackPage w .clean = u at data wgen wbs
    have mem : ((u.scrubCounts w 0 n).scrubGo (dieOfStack w.addr.stack)).mem = u.mem :=
      (State.scrubGo_keeps ..).1.trans (State.scrubCounts_keeps ..).1
    have hbm : ((u.scrubCounts w 0 n).scrubGo (dieOfStack w.addr.stack)).hbm = u.hbm :=
      (State.scrubGo_keeps ..).2.trans (State.scrubCounts_keeps ..).2
    rw [State.page_congr mem (State.redirect_congr (fun k => by rw [hbm]) _), hbm, data, wgen, wbs, State.wbTaken_wbs, fresh]
    exact ⟨rfl, rfl, rfl⟩
  · unfold State.modStack
    rw [vmod_get_self]
  · unfold State.modStack
    dsimp only
    rw [vmod_get_ne _ _ _ _ other.symm]
    exact (State.takeM_hbm s _ k').2.2 (by rw [patrolPage_stack]; exact other)
  · simp
  · show execRangeScrubRead d o.flips o.place s = _
    unfold execRangeScrubRead
    rw [none_]
  · have scrub' := State.readOne_scrub s d j
    have goes : ((s.readOne d j).scrubGo d) = s.readOne d j := State.scrubGo_goes scrub' (by unfold ScrubJob.readOne; dsimp only; omega)
    exact (congrArg (fun u : State => (u.dies[d]).scrub) goes).trans scrub'
  · have scrub' := State.readOne_scrub s d j
    have none_ : j.readOne.left = 0 := by unfold ScrubJob.readOne; dsimp only; omega
    have free' : (s.readOne d j).scrubWaits d = false := by
      rw [Bool.eq_false_iff]
      intro h
      obtain ⟨n, w, hw, detail, die⟩ := (State.readOne_waits s d j).1 h
      exact free n w hw detail die
    have ends := State.scrubGo_ends scrub' none_ free'
    have found' : ((s.readOne d j).modDie d fun x => { x with scrub := none }).cmd? j.readOne.cmd = some c := found
    have ended := State.finishWith_ended (f := .ok j.readOne.nunc) (buf := j.readOne.bytes) found' (.inl sound)
    rw [← ends] at ended
    refine ⟨?_, ended⟩
    refine (congrArg (fun u : State => (u.dies[d]).scrub) ends).trans ((State.finishWith_scrub ..).trans ?_)
    rw [State.modDie_dies, vmod_get_self]
  · have scrub' := State.readOne_scrub s d j
    have goes : ((s.readOne d j).scrubGo d) = s.readOne d j := State.scrubGo_waits scrub' ((State.readOne_waits s d j).2 waits)
    refine (congrArg (fun u : State => (u.dies[d]).scrub) goes).trans (scrub'.trans ?_)
    unfold ScrubJob.readOne
    rw [last]

end Sys2Proof.Machine
end

section
/-!
PROOFS of the pool operations (09, R304 to R313): requests for buffers, and ADD, RELEASE and FREE.
-/
namespace Sys2Proof.Machine

/-! ### The buffers of a pool -/

theorem putBuf_find_ne (b : Buf) (l : List Buf) {j : Nat} (ne : j ≠ b.index) :
    (putBuf b l).find? (fun x => x.index == j) = l.find? fun x => x.index == j := by
  have other : ((b.index == j) = true) → False := fun h => ne (eq_of_beq h).symm
  induction l with
  | nil =>
    unfold putBuf
    split
    · rfl
    · exact List.find?_cons_of_neg other
  | cons c r ih =>
    unfold putBuf
    split
    · split
      · rfl
      · exact List.find?_cons_of_neg other
    · split
      next same =>
        rw [List.find?_cons_of_neg (a := c) (by rw [← same]; exact other)]
        split
        · rfl
        · exact List.find?_cons_of_neg other
      · simp only [List.find?_cons, ih]

theorem putBuf_find_self {b : Buf} (used : b ≠ Buf.fresh b.index) (l : List Buf) :
    (putBuf b l).find? (fun x => x.index == b.index) = some b := by
  have here : ((b.index == b.index) = true) := beq_self_eq_true _
  induction l with
  | nil =>
    unfold putBuf
    rw [if_neg used]
    exact List.find?_cons_of_pos here
  | cons c r ih =>
    unfold putBuf
    rw [if_neg used, if_neg used]
    split
    · exact List.find?_cons_of_pos here
    · split
      · exact List.find?_cons_of_pos here
      next ne =>
        rw [List.find?_cons_of_neg (a := c) (by simpa using fun h : c.index = b.index => ne h.symm)]
        exact ih

/-- A buffer that is back in its first state leaves the list. -/
theorem putBuf_find_fresh {b : Buf} (fresh : b = Buf.fresh b.index) {l : List Buf} (sorted : l.Pairwise fun x y => x.index < y.index) :
    (putBuf b l).find? (fun x => x.index == b.index) = none := by
  have gone : ∀ r : List Buf, (∀ x ∈ r, b.index < x.index) → r.find? (fun x => x.index == b.index) = none := fun r h =>
    List.find?_eq_none.mpr fun x hx same => absurd (h x hx) (by rw [eq_of_beq same]; exact Nat.lt_irrefl _)
  induction l with
  | nil =>
    unfold putBuf
    rw [if_pos fresh]
    rfl
  | cons c r ih =>
    obtain ⟨least, rest⟩ := List.pairwise_cons.mp sorted
    unfold putBuf
    rw [if_pos fresh, if_pos fresh]
    split
    next below =>
      refine gone _ fun x hx => ?_
      rcases List.mem_cons.mp hx with rfl | hx
      · exact below
      · exact below.trans (least x hx)
    · split
      next same => exact gone r fun x hx => by rw [same]; exact least x hx
      next ne =>
        rw [List.find?_cons_of_neg (a := c) (by simpa using fun h : c.index = b.index => ne h.symm)]
        exact ih rest

theorem Pool.buf_index (q : Pool) (i : Nat) : (q.buf i).index = i := by
  unfold Pool.buf
  cases h : q.bufs.find? fun b => b.index == i with
  | none => rfl
  | some b => exact eq_of_beq (List.find?_some (p := fun b : Buf => b.index == i) h)

theorem Pool.setBuf_other (q : Pool) (b : Buf) {j : Nat} (ne : j ≠ b.index) : (q.setBuf b).buf j = q.buf j :=
  congrArg (fun o : Option Buf => o.getD (Buf.fresh j)) (putBuf_find_ne b q.bufs ne)

theorem Pool.setBuf_used (q : Pool) {b : Buf} {i : Nat} (index : b.index = i) (used : b.owners ≠ []) : (q.setBuf b).buf i = b := by
  subst index
  exact (congrArg (fun o : Option Buf => o.getD (Buf.fresh b.index))
    (putBuf_find_self (fun h => used (congrArg Buf.owners h)) q.bufs)).trans rfl

theorem Pool.setBuf_sorted {q : Pool} {b : Buf} {i : Nat} (index : b.index = i) (sorted : q.bufs.Pairwise fun x y => x.index < y.index) :
    (q.setBuf b).buf i = b := by
  subst index
  by_cases fresh : b = Buf.fresh b.index
  · exact (congrArg (fun o : Option Buf => o.getD (Buf.fresh b.index)) (putBuf_find_fresh fresh sorted)).trans fresh.symm
  · exact (congrArg (fun o : Option Buf => o.getD (Buf.fresh b.index)) (putBuf_find_self fresh q.bufs)).trans rfl

/-- One buffer of a die's pool replaced. -/
def State.putBufAt (s : State) (d : DieId) (p : Fin 5) (f : Pool → Buf) : State :=
  s.modDie d fun x => x.modPool p fun q => q.setBuf (f q)

theorem State.modPool_at (s : State) (d : DieId) (p : Fin 5) (f : Pool → Pool) :
    ((s.modDie d fun x => x.modPool p f).dies[d]).pools[p] = f ((s.dies[d]).pools[p]) := by
  rw [State.modDie_dies, vmod_get_self]
  exact vmod_get_self ..

theorem State.putBufAt_pool (s : State) (d : DieId) (p : Fin 5) (f : Pool → Buf) :
    ((s.putBufAt d p f).dies[d]).pools[p] = ((s.dies[d]).pools[p]).setBuf (f ((s.dies[d]).pools[p])) := State.modPool_at ..

/-! ### Handles -/

theorem handle_bits (a : BitVec 3) (b : BitVec 24) (c : BitVec 5) : bits (a ++ b ++ c) 29 3 = a.toNat ∧ bits (a ++ b ++ c) 5 24 = b.toNat := by
  have parts : (a ++ b ++ c).toNat = (a.toNat * 2 ^ 24 + b.toNat) * 2 ^ 5 + c.toNat := by
    rw [BitVec.toNat_append, BitVec.toNat_append, ← Nat.shiftLeft_add_eq_or_of_lt c.isLt, ← Nat.shiftLeft_add_eq_or_of_lt b.isLt,
      Nat.shiftLeft_eq, Nat.shiftLeft_eq]
  have := a.isLt
  have := b.isLt
  have := c.isLt
  unfold bits
  rw [BitVec.extractLsb'_toNat, BitVec.extractLsb'_toNat, parts, Nat.shiftRight_eq_div_pow, Nat.shiftRight_eq_div_pow]
  omega

theorem mkHandle_pool (p : Fin 5) (i g : Nat) : fin5 (hPool (mkHandle p.val i g)) = p := by
  have below := p.isLt
  have pool : hPool (mkHandle p.val i g) = p.val % 8 := (handle_bits ..).1.trans (BitVec.toNat_ofNat ..)
  refine Fin.ext ?_
  show hPool _ % 5 = p.val
  rw [pool]
  omega

theorem mkHandle_index (p : Nat) {i : Nat} (below : i < 2 ^ 24) (g : Nat) : hIndex (mkHandle p i g) = i :=
  (handle_bits ..).2.trans ((BitVec.toNat_ofNat ..).trans (Nat.mod_eq_of_lt below))

/-! ### Grants -/

theorem freeIndex_le (n : Nat) (l : List Buf) : freeIndex n l ≤ n + l.length := by
  induction l generalizing n with
  | nil => exact Nat.le_refl _
  | cons b r ih =>
    have here := ih n
    have next := ih (n + 1)
    unfold freeIndex
    rw [List.length_cons]
    split
    · omega
    · split <;> omega

/-- Where no IDENTIFY or GET_LOG holds a buffer there is none to send. -/
theorem State.grantsGo_idle {s : State} (idle : s.adminIdle) : s.grantsGo = s := by
  have none : (s.allCmds.filter fun c => c.2.phase == .moving && c.2.handle.isSome && (c.2.entry.opc == 0x80 || c.2.entry.opc == 0x84)) = [] := by
    refine List.filter_eq_nil_iff.mpr fun c hc go => ?_
    obtain ⟨⟨-, held⟩, opc⟩ := (Bool.and_eq_true_iff.mp go).imp_left Bool.and_eq_true_iff.mp
    have opc : c.2.entry.opc = 0x80 ∨ c.2.entry.opc = 0x84 := (Bool.or_eq_true_iff.mp opc).imp eq_of_beq eq_of_beq
    rw [idle c hc opc] at held
    exact Bool.noConfusion held
  unfold State.grantsGo
  rw [none]
  rfl

/-- The buffer that a grant takes. -/
def State.takenIndex (s : State) (d : DieId) (p : Fin 5) : Nat :=
  freeIndex (s.draw.1 % max ((s.dies[d]).pools[p]).freeCount 1) ((s.dies[d]).pools[p]).bufs

theorem State.takenIndex_below {s : State} {d : DieId} {p : Fin 5} {owner : Nat} (granted : s.grantOutcome d p owner = .granted)
    (size : ((s.dies[d]).pools[p]).count + ((s.dies[d]).pools[p]).bufs.length < 2 ^ 24) : s.takenIndex d p < 2 ^ 24 := by
  have least : ((s.dies[d]).pools[p]).freeCount ≥ 1 := by
    unfold State.grantOutcome at granted
    dsimp only at granted
    split at granted
    next h => exact h.1
    · split at granted <;> exact absurd granted (by decide)
  have most : ((s.dies[d]).pools[p]).freeCount ≤ ((s.dies[d]).pools[p]).count := Nat.sub_le ..
  have drawn : s.draw.1 % max ((s.dies[d]).pools[p]).freeCount 1 < max ((s.dies[d]).pools[p]).freeCount 1 := Nat.mod_lt _ (by omega)
  refine Nat.lt_of_le_of_lt (freeIndex_le _ _) ?_
  omega

/-- A buffer granted without a use of its own: it has one owner, its generation is as it was, and the others are as they were. -/
theorem State.takeBuf_other {s : State} {d : DieId} {p : Fin 5} {owner : Nat} (below : s.takenIndex d p < 2 ^ 24) :
    let t := (s.takeBuf d p owner).2.grantUse d (s.takeBuf d p owner).1 .other
    t.ports = s.ports ∧ (((t.dies[d]).pools[p]).buf (s.takenIndex d p)).owners = [owner] ∧
      (((t.dies[d]).pools[p]).buf (s.takenIndex d p)).gen = (((s.dies[d]).pools[p]).buf (s.takenIndex d p)).gen ∧
      ∀ j, j ≠ s.takenIndex d p → ((t.dies[d]).pools[p]).buf j = ((s.dies[d]).pools[p]).buf j := by
  intro t
  refine ⟨rfl, ?_⟩
  have pool : fin5 (hPool (s.takeBuf d p owner).1) = p := mkHandle_pool ..
  have index : hIndex (s.takeBuf d p owner).1 = s.takenIndex d p := mkHandle_index _ below _
  have taken : (((s.takeBuf d p owner).2.dies[d]).pools[p]).bufs =
      (((s.dies[d]).pools[p]).setBuf { ((s.dies[d]).pools[p]).buf (s.takenIndex d p) with owners := [owner], freePend := false }).bufs := by
    unfold State.takeBuf
    dsimp only
    rw [State.modPool_at]
    rfl
  have run : t = (s.takeBuf d p owner).2.putBufAt d p fun q =>
      { q.buf (s.takenIndex d p) with holds := (s.takeBuf d p owner).2.holdsFor .other } := by
    show State.modDie _ _ _ = _
    rw [pool, index]
    rfl
  generalize s.takenIndex d p = i at taken run
  have was := Pool.buf_index ((s.dies[d]).pools[p]) i
  have held : ∀ j, (((s.takeBuf d p owner).2.dies[d]).pools[p]).buf j =
      (((s.dies[d]).pools[p]).setBuf { ((s.dies[d]).pools[p]).buf i with owners := [owner], freePend := false }).buf j := fun j => by
    unfold Pool.buf at taken ⊢
    rw [taken]
  have owned : (((s.takeBuf d p owner).2.dies[d]).pools[p]).buf i = { ((s.dies[d]).pools[p]).buf i with owners := [owner], freePend := false } :=
    (held i).trans (Pool.setBuf_used _ was (by exact List.cons_ne_nil owner []))
  have here : ((t.dies[d]).pools[p]).buf i =
      { (((s.takeBuf d p owner).2.dies[d]).pools[p]).buf i with holds := (s.takeBuf d p owner).2.holdsFor .other } := by
    rw [run, State.putBufAt_pool]
    refine Pool.setBuf_used _ (Pool.buf_index ..) ?_
    rw [owned]
    exact List.cons_ne_nil owner []
  rw [here, owned]
  refine ⟨rfl, rfl, fun j ne => ?_⟩
  rw [run, State.putBufAt_pool, Pool.setBuf_other _ _ (by exact fun h => ne (h.trans (Pool.buf_index ..))), held j]
  exact Pool.setBuf_other _ _ fun h => ne (h.trans was)

/-! ### Misuse -/

/-- What a misuse does (R307, R309). -/
theorem State.misuse_spec (s : State) (d : DieId) (owner : Nat) (h : BitVec 32) (reason : Nat) :
    ∃ e, ((s.misuse d owner h reason).dies[d]).pools = (s.dies[d]).pools ∧ (s.misuse d owner h reason).flagged (240 + 8 * d.val) ∧
      ((s.misuse d owner h reason).dies[d]).misuse[(⟨owner % 64, by omega⟩ : Fin 64)] = (s.dies[d]).misuse[(⟨owner % 64, by omega⟩ : Fin 64)] + 1 ∧
      ((s.misuse d owner h reason).dies[d]).elog.head? = some e ∧ e.kind = 9 ∧ e.detail = reason ∧ e.handle = h ∧ e.actor = owner := by
  have below := d.isLt
  unfold State.misuse
  generalize hu : (s.modDie d fun x => { x with misuse := vmod x.misuse ⟨owner % 64, by omega⟩ (· + 1) }) = u
  have die : u.dies[d] = { s.dies[d] with misuse := vmod (s.dies[d]).misuse ⟨owner % 64, by omega⟩ (· + 1) } := by
    rw [← hu]
    exact vmod_get_self ..
  generalize he : (⟨_, _, _, _, _, _, _, _, _⟩ : ELogEntry) = e
  have only := (State.raise_events (u.elogPut d e) (240 + 8 * d.val) 0).2.2.1 d
  have put : (u.elogPut d e).dies[d] = { u.dies[d] with elog := (e :: (u.dies[d]).elog).take elogDepth, elogCnt := (u.dies[d]).elogCnt + 1 } :=
    vmod_get_self ..
  refine ⟨e, ?_, State.raise_flagged _ _ 0 (by omega), ?_, ?_, ?_⟩
  · rw [only, put, die]
  · rw [only, put, die]
    exact vmod_get_self ..
  · rw [only, put]
    rfl
  · rw [← he]
    exact ⟨rfl, rfl, rfl, rfl⟩

/-- An ADD, RELEASE or FREE that breaks a rule is misuse. -/
theorem exec_poolOp_misuse {s : State} {d : DieId} {owner : Nat} {h : BitVec 32} {i : Instr} {n : Nat}
    (broken : (∃ name, i = .poolAdd d owner h name ∧ addMisuse (s.dies[d]) owner h name = some n) ∨
      i = .poolRelease d owner h ∧ releaseMisuse (s.dies[d]) owner h = some n ∨ i = .poolFree d owner h ∧ freeMisuse (s.dies[d]) owner h = some n) :
    exec i s = .next (s.misuse d owner h n) := by
  obtain ⟨name, rfl, bad⟩ | ⟨rfl, bad⟩ | ⟨rfl, bad⟩ := broken
  · show execPoolAdd d owner h name s = _
    unfold execPoolAdd
    rw [bad]
  · show execPoolRelease d owner h s = _
    unfold execPoolRelease
    rw [bad]
  · show execPoolFree d owner h s = _
    unfold execPoolFree
    rw [bad]

/-! ### Refusals -/

theorem State.finishAll_cmd {s : State} {r : CmdRef} (l : List CmdRef) (others : ∀ x ∈ l, x ≠ r) (f : Ending) : (s.finishAll l f).cmd? r = s.cmd? r := by
  unfold State.finishAll
  induction l generalizing s with
  | nil => rfl
  | cons x l ih =>
    exact (ih fun y hy => others y (List.mem_cons_of_mem _ hy)).trans (State.finish_cmd_ne s f (others x (List.mem_cons_self ..)).symm)

/-- A queue whose commands stay. -/
theorem State.modQp_cmd_same (s : State) (p : Port) (q : Nat) (f : Qp → Qp) (hid : ∀ x, (f x).id = x.id) (same : ∀ x, (f x).cmds = x.cmds) (r : CmdRef) :
    (s.modQp p q f).cmd? r = s.cmd? r := by
  by_cases hp : r.port = p
  · subst hp
    by_cases hq : r.qid = q
    · subst hq
      unfold State.cmd?
      rw [State.modQp_qp _ _ _ _ hid]
      cases (s.ports[r.port]).qp? r.qid with
      | none => rfl
      | some x => exact congrArg (List.find? fun c : Cmd => c.entry.tag == r.tag) (same x)
    · exact State.cmd_of_qp (State.modQp_other _ _ _ _ _ hid hq)
  · exact State.cmd_of_qp (congrArg (fun h => HostPort.qp? h r.qid) (State.modQp_port s _ _ _ f hp))

theorem State.dropKey_cmd (s : State) (p : Port) (q : Nat) (f : RecKey → Bool) (r : CmdRef) : (s.dropKey p q f).cmd? r = s.cmd? r :=
  State.modQp_cmd_same _ _ _ _ (by exact fun _ => rfl) (by exact fun _ => rfl) r

theorem State.rekey_cmd (s : State) (st : Stn) (mnt : BitVec 32) (lon : Nat) (r : CmdRef) : (s.rekey st mnt lon).cmd? r = s.cmd? r := by
  unfold State.rekey
  split
  · rfl
  · split
    · split
      · exact State.modQp_cmd_same _ _ _ _ (by exact fun _ => rfl) (by exact fun _ => rfl) r
      · rfl
    · rfl

theorem foldl_ports {α : Type} {f : State → α → State} (h : ∀ a x, (f a x).ports = a.ports) (l : List α) (s : State) : (l.foldl f s).ports = s.ports := by
  induction l generalizing s with
  | nil => rfl
  | cons x l ih => exact (ih _).trans (h s x)

theorem State.dropWaits_ports (s : State) (f : Waiter → Bool) : (s.dropWaits f).ports = s.ports := by
  unfold State.dropWaits State.eachDie
  rfl

theorem State.dropJobs_ports (s : State) (f : JobKind → Bool) : (s.dropJobs f).ports = s.ports := by
  unfold State.dropJobs State.eachDie
  rfl

/-- The wait of one command. -/
def Waiter.isOf (c : CmdRef) (w : Waiter) : Bool := w.use == .command c.port c.qid c.tag

theorem State.dropWaitsAll_ports (l : List CmdRef) (s : State) : (l.foldl (fun a c => a.dropWaits (Waiter.isOf c)) s).ports = s.ports :=
  foldl_ports (fun a c => State.dropWaits_ports a (Waiter.isOf c)) l s

/-- An APPEND whose bytes are taken back is still outstanding. -/
theorem State.untakeAppend_cmd (s : State) (r : CmdRef) : (s.untakeAppend r).cmd? r = s.cmd? r := by
  unfold State.untakeAppend
  split
  · rfl
  next k _ =>
    extract_lets st later s1 s2 s3
    have others : ∀ x ∈ later, x ≠ r := fun x hx => by
      obtain ⟨c, hc, rfl⟩ := List.mem_map.mp hx
      exact bne_iff_ne.mp (Bool.and_eq_true_iff.mp (List.mem_filter.mp hc).2).2
    have finished : s1.cmd? r = s.cmd? r := State.finishAll_cmd later others _
    clear_value s1 later
    have waits : s2.ports = s1.ports := State.dropWaitsAll_ports later s1
    clear_value s2
    have jobs : s3.ports = s2.ports := by
      have dropped : (if k.bumped then s2.dropJobs fun j => j == .hash st k.lon else s2).ports = s2.ports := by
        split
        · exact State.dropJobs_ports ..
        · rfl
      exact dropped
    clear_value s3
    have here : s3.cmd? r = s.cmd? r := (State.cmd_congr r (congrArg (fun v : Vector HostPort 2 => (v[r.port]).qps) (jobs.trans waits))).trans finished
    split
    · exact (State.dropKey_cmd ..).trans here
    · exact (State.rekey_cmd ..).trans here

/-- A command that is refused its buffer for good ends with 0x0D. -/
theorem State.refuseCmd_answered {s : State} {r : CmdRef} {k : Cmd} (found : s.cmd? r = some k) : (s.refuseCmd r).answered r 0x0D := by
  have ends : ∀ {t : State}, t.cmd? r = some k → (t.finish r (.st 0xD)).answered r 0x0D := fun h =>
    State.answered_of_ended (State.finish_ended h (.st 0xD))
  unfold State.refuseCmd
  rw [found]
  dsimp only
  split
  · exact (State.sealGo_going _ _).dones.answered (ends ((State.untakeAppend_cmd s r).trans found))
  · exact ends found

/-! ### ADD, RELEASE and FREE -/

theorem State.adminIdle_of_ports {s t : State} (ports : t.ports = s.ports) (idle : s.adminIdle) : t.adminIdle := by
  unfold State.adminIdle State.allCmds
  rw [ports]
  exact idle

/-- Wakes with nobody waiting. -/
theorem State.wakeDue_nobody {s : State} {d : DieId} {p : Fin 5} (nobody : ((s.dies[d]).pools[p]).waits = [] ∨ ((s.dies[d]).pools[p]).due = 0) :
    s.wakeDue d p = s.modDie d fun x => x.modPool p fun q => { q with due := 0 } := by
  unfold State.wakeDue
  dsimp only
  generalize hu : (s.modDie d fun x => x.modPool p fun q => { q with due := 0 }) = u
  obtain none | zero := nobody
  · have still : u.wake d p = u := by
      have waits : ((u.dies[d]).pools[p]).waits = [] := by
        rw [← hu, State.modPool_at]
        exact none
      unfold State.wake
      rw [waits]
      rfl
    exact List.foldlRecOn (motive := fun t => t = u) _ _ rfl fun t ht _ _ => by rw [ht, still]
  · rw [zero]
    rfl

/-- After an operation on a pool in which no wake is due, or nobody waits, its buffers are as the operation left them. -/
theorem State.opsDone_buf {s : State} {d : DieId} {p : Fin 5} (idle : s.adminIdle)
    (nobody : ((s.dies[d]).pools[p]).waits = [] ∨ ((s.dies[d]).pools[p]).due = 0) (i : Nat) :
    (((s.opsDone d p).dies[d]).pools[p]).buf i = ((s.dies[d]).pools[p]).buf i := by
  unfold State.opsDone
  split
  · rfl
  · rw [State.wakeDue_nobody nobody, State.grantsGo_idle (s := s.modDie d _) idle, State.modPool_at]
    rfl

/-- A buffer goes back to a pool for which nobody waits. -/
theorem State.putBack_pool (s : State) (d : DieId) (p : Fin 5) (i : Nat) :
    (s.putBack d p i).ports = s.ports ∧ ((s.putBack d p i).dies[d]).pools[p] = ((s.dies[d]).pools[p]).setBuf
      { ((s.dies[d]).pools[p]).buf i with
        owners := []
        freePend := false
        gen := nextGen (((s.dies[d]).pools[p]).buf i).gen
        holds := .other } := by
  unfold State.putBack
  dsimp only
  generalize hb : ({ ((s.dies[d]).pools[p]).buf i with
        owners := []
        freePend := false
        gen := nextGen (((s.dies[d]).pools[p]).buf i).gen
        holds := .other } : Buf) = b
  have put : (s.putBufAt d p fun _ => b).ports = s.ports ∧ ((s.putBufAt d p fun _ => b).dies[d]).pools[p] = ((s.dies[d]).pools[p]).setBuf b :=
    ⟨rfl, State.putBufAt_pool ..⟩
  split
  · refine List.foldlRecOn (motive := fun t : State => t.ports = s.ports ∧ (t.dies[d]).pools[p] = ((s.dies[d]).pools[p]).setBuf b) _ _ put fun t ht n _ => ?_
    refine ⟨ht.1, Eq.trans ?_ ht.2⟩
    unfold State.elogPage State.elogPut
    dsimp only
    rw [State.modDie_dies, vmod_get]
    split <;> rfl
  · exact put

/-- A buffer returns to a pool for which nobody waits. -/
theorem State.returnBuf_pool {s : State} {d : DieId} {p : Fin 5} (i : Nat) (none : ((s.dies[d]).pools[p]).waits = []) :
    (s.returnBuf d p i).ports = s.ports ∧ (((s.returnBuf d p i).dies[d]).pools[p]).waits = [] ∧
      (((s.returnBuf d p i).dies[d]).pools[p]).bufs = (((s.dies[d]).pools[p]).setBuf
        { ((s.dies[d]).pools[p]).buf i with
          owners := []
          freePend := false
          gen := nextGen (((s.dies[d]).pools[p]).buf i).gen
          holds := .other }).bufs := by
  obtain ⟨ports, pool⟩ := State.putBack_pool s d p i
  unfold State.returnBuf
  generalize s.putBack d p i = u at ports pool
  dsimp only
  have due := State.modPool_at u d p fun q => { q with due := q.due + 1 }
  rw [pool] at due
  generalize hv : (u.modDie d fun x => x.modPool p fun q => { q with due := q.due + 1 }) = v at due
  have same : v.ports = s.ports := by
    rw [← hv]
    exact ports
  have nobody : ((v.dies[d]).pools[p]).waits = [] := by
    rw [due]
    exact none
  split
  · exact ⟨same, nobody, by rw [due]⟩
  · rw [State.wakeDue_nobody (.inl nobody), State.modPool_at]
    exact ⟨same, nobody, by rw [due]⟩

section
variable {s : State} {d : DieId} {owner : Nat} {h : BitVec 32} (idle : s.adminIdle)
include idle

/-- An operation that changes the buffer of a handle, in a pool in which no wake is due. -/
theorem State.putBufAt_done (due : ((s.dies[d]).pools[fin5 (hPool h)]).due = 0) (f : Pool → Buf)
    (used : (f ((s.dies[d]).pools[fin5 (hPool h)])).owners ≠ []) (index : ∀ q, (f q).index = hIndex h) :
    ((((s.putBufAt d (fin5 (hPool h)) f).opsDone d (fin5 (hPool h))).dies[d]).bufOf h) = f ((s.dies[d]).pools[fin5 (hPool h)]) := by
  have put := State.putBufAt_pool s d (fin5 (hPool h)) f
  unfold Die.bufOf
  rw [State.opsDone_buf (s := s.putBufAt d (fin5 (hPool h)) f) idle (.inr (by rw [put]; exact due)), put]
  exact Pool.setBuf_used _ (index _) used

theorem exec_poolAdd_adds (due : ((s.dies[d]).pools[fin5 (hPool h)]).due = 0) {name : Nat} (good : addMisuse (s.dies[d]) owner h name = none)
    (turn : s.poolTurn d (fin5 (hPool h)) (.poolAdd d owner h name) = true) :
    ∃ t, exec (.poolAdd d owner h name) s = .next t ∧
      (t.dies[d]).bufOf h = { (s.dies[d]).bufOf h with owners := ((s.dies[d]).bufOf h).owners ++ [name] } := by
  have run : exec (.poolAdd d owner h name) s = .next ((s.putBufAt d (fin5 (hPool h)) fun q =>
      { q.buf (hIndex h) with owners := (q.buf (hIndex h)).owners ++ [name] }).opsDone d (fin5 (hPool h))) := by
    show execPoolAdd d owner h name s = _
    unfold execPoolAdd
    rw [good, turn]
    rfl
  exact ⟨_, run, State.putBufAt_done idle due _ (List.append_ne_nil_of_right_ne_nil _ (List.cons_ne_nil name [])) fun q => Pool.buf_index ..⟩

/-- A name is struck from the buffer of a handle, and others are left. -/
theorem State.strike_done (due : ((s.dies[d]).pools[fin5 (hPool h)]).due = 0) {owners : List Nat} (left : owners ≠ []) (pend : Bool) :
    ((((s.strike d h owners pend).opsDone d (fin5 (hPool h))).dies[d]).bufOf h) =
      { (s.dies[d]).bufOf h with
        owners := owners
        freePend := pend } := by
  have run : s.strike d h owners pend = s.putBufAt d (fin5 (hPool h)) fun q =>
      { q.buf (hIndex h) with
        owners := owners
        freePend := pend } := if_neg fun e => left (List.isEmpty_iff.mp e)
  rw [run]
  exact State.putBufAt_done idle due _ left fun q => Pool.buf_index ..

omit idle in
theorem exec_poolRelease_strikes (good : releaseMisuse (s.dies[d]) owner h = none)
    (turn : s.poolTurn d (fin5 (hPool h)) (.poolRelease d owner h) = true) :
    exec (.poolRelease d owner h) s = .next ((s.strike d h (((s.dies[d]).bufOf h).owners.filter (· != owner)) ((s.dies[d]).bufOf h).freePend).opsDone d
      (fin5 (hPool h))) := by
  show execPoolRelease d owner h s = _
  unfold execPoolRelease
  rw [good, turn]
  rfl

omit idle in
theorem exec_poolFree_strikes (good : freeMisuse (s.dies[d]) owner h = none)
    (turn : s.poolTurn d (fin5 (hPool h)) (.poolFree d owner h) = true) :
    exec (.poolFree d owner h) s = .next ((s.strike d h ((s.dies[d]).bufOf h).owners.dropLast true).opsDone d (fin5 (hPool h))) := by
  show execPoolFree d owner h s = _
  unfold execPoolFree
  rw [good, turn]
  rfl

/-- The last owner's FREE of a pool's buffer for which nobody waits. -/
theorem State.strike_returns (sorted : ((s.dies[d]).pools[fin5 (hPool h)]).bufs.Pairwise fun a b => a.index < b.index)
    (none : ((s.dies[d]).pools[fin5 (hPool h)]).waits = []) (pend : Bool) :
    ((((s.strike d h [] pend).opsDone d (fin5 (hPool h))).dies[d]).bufOf h) =
      { (s.dies[d]).bufOf h with
        owners := []
        freePend := false
        gen := nextGen ((s.dies[d]).bufOf h).gen
        holds := .other } := by
  obtain ⟨ports, nobody, bufs⟩ := State.returnBuf_pool (s := s) (d := d) (hIndex h) none
  unfold Die.bufOf
  rw [show s.strike d h [] pend = s.returnBuf d (fin5 (hPool h)) (hIndex h) from rfl,
    State.opsDone_buf (State.adminIdle_of_ports ports idle) (.inl nobody)]
  have same := congrArg (fun l : List Buf => (l.find? fun b => b.index == hIndex h).getD (Buf.fresh (hIndex h))) bufs
  exact same.trans (Pool.setBuf_sorted (Pool.buf_index ..) sorted)

end

/-! ### Requests -/

/-- A request of an agent that the rules allow, in its turn. -/
theorem exec_poolGrant_turn {s : State} {d : DieId} {owner len : Nat} {use : PoolUse} {p : Fin 5} (acting : actingOwner owner = true)
    (may : s.mayRequest d owner len use = true) (pool : poolFor len = some p) (turn : s.poolTurn d p (.poolGrant d owner len use) = true) :
    exec (.poolGrant d owner len use) s = .next (match s.grantOutcome d p owner with
      | .granted => (((s.takeBuf d p owner).2.grantUse d (s.takeBuf d p owner).1 use).grantsGo).useGo use
      | .none => s.poolWait d p ⟨owner, len, use⟩
      | .refused => if owner = 1 ∨ owner = 2 then s.poolRefuse use else s.poolWait d p ⟨owner, len, use⟩) := by
  show execPoolGrant d owner len use s = _
  unfold execPoolGrant
  rw [acting, may, pool]
  dsimp only
  rw [turn]
  rfl

theorem exec_poolGrant_invalid {s : State} {d : DieId} {owner len : Nat} {use : PoolUse} (acting : actingOwner owner = true)
    (may : s.mayRequest d owner len use = true) (invalid : poolFor len = none) : exec (.poolGrant d owner len use) s = .next (s.poolRefuse use) := by
  show execPoolGrant d owner len use s = _
  unfold execPoolGrant
  rw [acting, may, invalid]
  rfl

theorem exec_poolGrant_unasked {s : State} {d : DieId} {owner len : Nat} {use : PoolUse} (acting : actingOwner owner = true)
    (may : s.mayRequest d owner len use = false) : exec (.poolGrant d owner len use) s = .next s := by
  show execPoolGrant d owner len use s = _
  unfold execPoolGrant
  rw [acting, may]
  rfl

theorem exec_poolGrant_early {s : State} {d : DieId} {owner len : Nat} {use : PoolUse} {p : Fin 5} (acting : actingOwner owner = true)
    (pool : poolFor len = some p) (turn : s.poolTurn d p (.poolGrant d owner len use) = false) : exec (.poolGrant d owner len use) s = .next s := by
  cases may : s.mayRequest d owner len use with
  | false => exact exec_poolGrant_unasked acting may
  | true =>
    show execPoolGrant d owner len use s = _
    unfold execPoolGrant
    rw [acting, may, pool]
    dsimp only
    rw [turn]
    rfl

theorem State.poolRefuse_keeps {s : State} {use : PoolUse} (h : ∀ p q tag, use ≠ .command p q tag) : s.poolRefuse use = s := by
  unfold State.poolRefuse
  split
  next p q tag => exact absurd rfl (h p q tag)
  · rfl

/-- A request that waits joins the end of its pool's wait list. -/
theorem State.poolWait_waits (s : State) (d : DieId) (p : Fin 5) (owner len : Nat) :
    (((s.poolWait d p ⟨owner, len, .other⟩).dies[d]).pools[p]).waits = ((s.dies[d]).pools[p]).waits ++ [⟨owner, len, .other⟩] :=
  congrArg Pool.waits (State.modPool_at s d p fun q => { q with waits := q.waits ++ [⟨owner, len, .other⟩] })

/-- Settles O56: a buffer that is put in its place of the sorted list is the one that its index then finds (`Pool.setBuf_used`,
`Pool.setBuf_sorted`), and the wakes that follow find nobody, or are not due. -/
theorem poolOperations : Obligations.PoolOperations := by
  refine fun s d owner h => ⟨fun len use foreign => ?_, fun len p use acting pool early => exec_poolGrant_early acting pool early,
    fun len use acting unasked => exec_poolGrant_unasked acting unasked, fun len use acting invalid nobody => ?_,
    fun len pt q tag k acting invalid may found => ?_, fun len p acting may pool turn granted idle size => ?_,
    fun len p acting may pool turn denied whose => ?_, fun len p pt q tag k may pool turn refused host found => ?_, fun i n broken => ?_,
    fun idle sorted due => ⟨fun name good turn => exec_poolAdd_adds idle due good turn, fun good turn left => ?_, fun good turn more => ?_,
      fun good turn one none => ?_⟩⟩
  · have run : exec (.poolGrant d owner len use) s = .next (s.misuse d owner 0 10) := by
      show execPoolGrant d owner len use s = _
      unfold execPoolGrant
      rw [foreign]
      rfl
    obtain ⟨e, pools, event, -, head, kind, detail, -, actor⟩ := State.misuse_spec s d owner 0 10
    exact ⟨_, e, run, pools, event, head, kind, detail, actor⟩
  · cases may : s.mayRequest d owner len use with
    | false => exact exec_poolGrant_unasked acting may
    | true => exact (exec_poolGrant_invalid acting may invalid).trans (congrArg Host.Outcome.next (State.poolRefuse_keeps nobody))
  · exact ⟨_, exec_poolGrant_invalid acting may invalid, State.refuseCmd_answered found⟩
  · have run := exec_poolGrant_turn acting may pool turn
    rw [granted] at run
    obtain ⟨ports, owned, gen, others⟩ := State.takeBuf_other (State.takenIndex_below granted size)
    dsimp only at run ports owned gen others
    generalize (s.takeBuf d p owner).2.grantUse d (s.takeBuf d p owner).1 .other = t at run ports owned gen others
    rw [State.grantsGo_idle (State.adminIdle_of_ports ports idle)] at run
    exact ⟨t, _, run, owned, gen, others⟩
  · have run := exec_poolGrant_turn acting may pool turn
    refine ⟨_, run, ?_⟩
    cases out : s.grantOutcome d p owner with
    | granted => exact absurd out denied
    | none => exact State.poolWait_waits ..
    | refused =>
      have other : ¬ (owner = 1 ∨ owner = 2) := fun host => whose.elim (fun e => by rw [out] at e; exact Grant.noConfusion e) fun ne =>
        host.elim ne.1 ne.2
      dsimp only
      rw [if_neg other]
      exact State.poolWait_waits ..
  · have acting : actingOwner owner = true := by rcases host with rfl | rfl <;> rfl
    have run := exec_poolGrant_turn acting may pool turn
    rw [refused] at run
    dsimp only at run
    rw [if_pos host] at run
    exact ⟨_, run, State.refuseCmd_answered found⟩
  · obtain ⟨e, pools, event, count, head, kind, detail, handle, actor⟩ := State.misuse_spec s d owner h n
    exact ⟨_, e, exec_poolOp_misuse broken, pools, event, count, head, kind, detail, handle, actor⟩
  · exact ⟨_, exec_poolRelease_strikes good turn, State.strike_done idle due left _⟩
  · have left : ((s.dies[d]).bufOf h).owners.dropLast ≠ [] := fun e => by
      have := congrArg List.length e
      rw [List.length_dropLast, List.length_nil] at this
      omega
    exact ⟨_, exec_poolFree_strikes good turn, State.strike_done idle due left _⟩
  · have run := exec_poolFree_strikes good turn
    rw [List.eq_nil_of_length_eq_zero (l := ((s.dies[d]).bufOf h).owners.dropLast) (by rw [List.length_dropLast, one])] at run
    refine ⟨_, run, ?_⟩
    rw [State.strike_returns idle sorted none]
    exact ⟨rfl, rfl, rfl⟩

end Sys2Proof.Machine
end

section
/-!
PROOFS of the reel loop, the auxiliary loop, the reel diameters and the bank swaps (07, R222 to R244).
-/
namespace Sys2Proof.Machine

/-! ### Traces of loop samples -/

/-- A loop sample's packet leaves the stations alone, and what is raised stays raised. -/
theorem State.servoTrace_stns (s : State) (st : Stn) (ty : Nat) (w1 w2 : BitVec 64) : (s.servoTrace st ty w1 w2).stns = s.stns := by
  unfold State.servoTrace
  dsimp only
  split
  · exact (congrArg State.stns (State.trace_events ..).1).trans rfl
  · rfl

theorem State.servoTrace_img (s : State) (st : Stn) (ty : Nat) (w1 w2 : BitVec 64) : (s.servoTrace st ty w1 w2).img = s.img := by
  unfold State.servoTrace
  dsimp only
  split
  · exact (congrArg (fun u : State => u.img) (State.trace_events ..).1).trans rfl
  · rfl

theorem State.servoTrace_flagged (s : State) (st : Stn) (ty : Nat) (w1 w2 : BitVec 64) {n : Nat} (h : s.flagged n) :
    (s.servoTrace st ty w1 w2).flagged n := by
  unfold State.servoTrace
  dsimp only
  split
  · exact (State.trace_events ..).flagged h
  · exact h

/-! ### The reel loop -/

/-- What a reel sample leaves of the servo: the references have moved on, and the period is counted or not (R233, R236). -/
structure Servo.Reeled (v w : Servo) (g : Image) (st : Stn) (f : Nat) : Prop where
  seen : w.reelSeen = false
  miss : w.missReel = if v.reelSeen then 0 else v.missReel + 1
  motion : w.motion = v.motion
  speed : (w.vRef, w.aRef) = v.nextRef g st f
  tension : w.tRef = if v.tenFresh then w.tHat else tenStep (g.motion st.val 0x0A) v.tRef (BitVec.ofNat 32 (leAt v.reelSet 0x294 4))
  speedCh : w.speedCh.r1 = w.vRef
  tensCh : w.tensCh.r1 = w.tRef

theorem Servo.Reeled.loadStep {v w : Servo} {g : Image} {st : Stn} {f : Nat} (h : v.Reeled w g st f) (i : Nat) : v.Reeled (w.loadStep g st i) g st f :=
  ⟨h.seen, h.miss, h.motion, h.speed, h.tension, h.speedCh, h.tensCh⟩

theorem State.reel_idle {s : State} {st : Stn} (h : (s.stns[st]).men = true ∨ (s.stns[st]).link.lost = true) : s.reel st = s.draw.2 := if_pos h

theorem State.reel_samples {s : State} {st : Stn} (men : (s.stns[st]).men = false) (lost : (s.stns[st]).link.lost = false) :
    ∃ w a b w1 w2, (s.stns[st]).servo.Reeled w s.img st s.draw.1 ∧
      s.reel st = ((if (s.stns[st]).servo.reelSeen then s.draw.2 else s.draw.2.count st 0 [26]).modStn st fun t => { t with
        servo := w
        link := { t.link with outCmds := t.link.outCmds ++
          [(0, a, BitVec.ofNat 16 (1024 * (s.stns[st]).servo.perSlot.toNat + 64 * s.img.reelPhase st.val + 10240)),
           (1, b, BitVec.ofNat 16 (1024 * (s.stns[st]).servo.perSlot.toNat + 64 * s.img.reelPhase st.val + 10240))] } }).servoTrace st 3 w1 w2 := by
  have go : ¬ ((s.stns[st]).men = true ∨ (s.stns[st]).link.lost = true) := by
    rw [men, lost]
    exact fun h => h.elim Bool.noConfusion Bool.noConfusion
  unfold State.reel
  extract_lets dr f u t v g geo set ang angs rad rs rt ws wt fresh servo vHat fs cur kS kT jS jT half tHat ref vRef tTarget tRef sp tn ev et bin cv ct fv ft uT
    k fV fT mot mT mS lim top tooFast within uTo uSo apply wasV speedCh wasT tens0 tensCh v1 step v2
  rw [if_neg (show ¬ (t.men = true ∨ t.link.lost = true) from go)]
  have base : v.Reeled v1 g st f := by
    refine ⟨rfl, rfl, rfl, rfl, rfl, rfl, ?_⟩
    show (if tooFast then tens0 else tens0.learn tn bin et).r1 = tRef
    split <;> rfl
  have all : v.Reeled v2 g st f := by
    show v.Reeled (if _ then _ else _) g st f
    split
    · exact base.loadStep step
    · exact base
  exact ⟨v2, _, _, _, _, all, rfl⟩

/-! ### The auxiliary loop -/

section
variable {s : State} {st : Stn}

theorem State.auxSample_idle (h : (s.stns[st]).servo.perCnt % 4 ≠ 1 ∨ (s.stns[st]).link.lost = true ∨ (s.stns[st]).servo.motion = .hold) :
    s.auxSample st = s := if_pos h

variable (due : (s.stns[st]).servo.perCnt % 4 = 1) (lost : (s.stns[st]).link.lost = false) (free : (s.stns[st]).servo.motion ≠ .hold)
include due lost free

theorem State.auxSample_due : ¬ ((s.stns[st]).servo.perCnt % 4 ≠ 1 ∨ (s.stns[st]).link.lost = true ∨ (s.stns[st]).servo.motion = .hold) := by
  rw [lost]
  rintro (h | h | h)
  · exact h due
  · exact Bool.noConfusion h
  · exact free h

theorem State.auxSample_misses (seen : (s.stns[st]).servo.auxSeen = false) : s.auxSample st = s.count st 0 [27] :=
  (if_neg (State.auxSample_due due lost free)).trans (if_pos (by rw [seen]; rfl))

theorem State.auxSample_sends (seen : (s.stns[st]).servo.auxSeen = true) :
    ∃ lp val, s.auxSample st = s.draw.2.modStn st fun t => { t with
      servo := { t.servo with
        aux := lp
        auxSeen := false }
      link := { t.link with outCmds := t.link.outCmds ++
        [(4, val, BitVec.ofNat 16 (1024 * (s.stns[st]).servo.perSlot.toNat + 64 * s.img.auxPhase st.val + 10240))] } } :=
  ⟨_, _, (if_neg (State.auxSample_due due lost free)).trans (if_neg (by rw [seen]; decide))⟩

end

/-! ### The diameters -/

theorem State.kappa_idle {s : State} {st : Stn} (h : 0 < (s.stns[st]).servo.missSrv ∨ (s.stns[st]).servo.ends.length < 3 ∨ (s.stns[st]).servo.speedMm < 500)
    (takeUp : Bool) (n : Nat) : s.kappa st takeUp n = s := if_pos h

/-- The correction of one reel set. -/
def Servo.withKappa (v : Servo) (takeUp : Bool) (k : Nat) : Servo := if takeUp then { v with kappaT := k } else { v with kappaS := k }

/-- A correction is taken up within 5 % of nominal. -/
theorem State.kappa_takes {s : State} {st : Stn} (miss : (s.stns[st]).servo.missSrv = 0) (ends : 3 ≤ (s.stns[st]).servo.ends.length)
    (fast : 500 ≤ (s.stns[st]).servo.speedMm) (takeUp : Bool) (n : Nat) :
    ∃ k, 62260 ≤ k ∧ k ≤ 68812 ∧ ((s.kappa st takeUp n).stns[st]).servo = (s.stns[st]).servo.withKappa takeUp k := by
  have go : ¬ (0 < (s.stns[st]).servo.missSrv ∨ (s.stns[st]).servo.ends.length < 3 ∨ (s.stns[st]).servo.speedMm < 500) := by omega
  unfold State.kappa
  extract_lets v rad r old want d new clamped k s1
  rw [if_neg (show ¬ (v.missSrv > 0 ∨ v.ends.length < 3 ∨ v.speedMm < 500) from go)]
  refine ⟨k, ?_, ?_, ?_⟩
  · show 62260 ≤ if new > 68812 then 68812 else if new < 62260 then 62260 else new.toNat
    split
    · omega
    · split <;> omega
  · show (if new > 68812 then 68812 else if new < 62260 then 62260 else new.toNat) ≤ 68812
    split
    · omega
    · split <;> omega
  · have set : (s1.stns[st]).servo = v.withKappa takeUp k := congrArg Station.servo (State.modStn_stn ..)
    split
    · rw [State.raise_stn]
      exact set
    · exact set

/-! ### Bank swaps -/

theorem BankedLoop.takeSwap_of_swap {b : BankedLoop} (h : b.swap = true) : b.takeSwap = { b with
    active := 1 - b.active
    swap := false } := if_pos h

theorem BankedLoop.takeSwap_idle {b : BankedLoop} (h : b.swap = false) : b.takeSwap = b := if_neg (by rw [h]; decide)

/-- The lateral loop's bank swap. -/
def Servo.lateralSwapped (v : Servo) : Servo :=
  { v with
    lateral := v.lateral.takeSwap
    settled := v.settled && !v.lateral.swap
    calm := if v.lateral.swap then 0 else v.calm }

theorem Servo.lateralSwapped_idle {v : Servo} (h : v.lateral.swap = false) : v.lateralSwapped = v := by
  unfold Servo.lateralSwapped
  rw [BankedLoop.takeSwap_idle h, h, Bool.not_false, Bool.and_true]
  rfl

theorem exec_bankSwap_lateral (s : State) (st : Stn) :
    exec (.bankSwapTimeout st .lateral) s = .next (s.modStn st fun t => t.modServo Servo.lateralSwapped) := rfl

theorem State.modServo_servo (s : State) (st : Stn) (f : Servo → Servo) :
    ((s.modStn st fun t => t.modServo f).stns[st]).servo = f (s.stns[st]).servo := congrArg Station.servo (State.modStn_stn ..)

/-- Settles O54: what a reel sample computes is left to the model; its references, counts and commands are read off the servo that it
leaves (`Servo.Reeled`). -/
theorem reelAndBanks : Obligations.ReelAndBanks := by
  refine fun s st => ⟨fun rests => congrArg Host.Outcome.next (State.reel_idle rests), fun men lost => ?_, fun few => ?_, fun many moves => ?_,
    fun idle => congrArg Host.Outcome.next (State.auxSample_idle idle),
    fun due lost free seen => congrArg Host.Outcome.next (State.auxSample_misses due lost free seen), fun due lost free seen => ?_,
    fun idle takeUp n => congrArg Host.Outcome.next (State.kappa_idle idle takeUp n), fun miss ends fast takeUp n => ?_, rfl, fun swap => ?_, fun none => ?_,
    ⟨_, rfl, State.modServo_servo ..⟩, ⟨_, rfl, State.modServo_servo ..⟩⟩
  · obtain ⟨w, a, b, w1, w2, reeled, run⟩ := State.reel_samples men lost
    refine ⟨_, a, b, congrArg Host.Outcome.next run, ?_⟩
    generalize hu : (if (s.stns[st]).servo.reelSeen then s.draw.2 else s.draw.2.count st 0 [26]) = u
    have cmds : (u.stns[st]).link.outCmds = (s.stns[st]).link.outCmds := by
      rw [← hu]
      split
      · rfl
      · exact (congrArg (fun t : Station => t.link.outCmds) (State.modStn_stn s.draw.2 st _)).trans rfl
    rw [State.servoTrace_stns, State.modStn_stn]
    dsimp only
    rw [cmds]
    exact ⟨rfl, reeled.seen, reeled.miss, reeled.motion, reeled.speed, reeled.tension, reeled.speedCh, reeled.tensCh⟩
  · exact congrArg Host.Outcome.next (if_neg (by omega))
  · exact ⟨_, congrArg Host.Outcome.next (if_pos many), State.controlledStop_stops s st moves⟩
  · obtain ⟨lp, val, run⟩ := State.auxSample_sends due lost free seen
    refine ⟨_, val, congrArg Host.Outcome.next run, ?_⟩
    rw [State.modStn_stn]
    exact ⟨rfl, rfl⟩
  · obtain ⟨k, low, high, set⟩ := State.kappa_takes miss ends fast takeUp n
    refine ⟨_, rfl, ?_⟩
    dsimp only
    rw [set]
    cases takeUp <;> exact ⟨low, high, rfl⟩
  · refine ⟨_, exec_bankSwap_lateral s st, ?_⟩
    rw [State.modServo_servo]
    unfold Servo.lateralSwapped
    rw [BankedLoop.takeSwap_of_swap swap, swap]
    exact ⟨rfl, rfl, rfl, Bool.and_false _, rfl⟩
  · exact ⟨_, exec_bankSwap_lateral s st, (State.modServo_servo ..).trans (Servo.lateralSwapped_idle none)⟩

end Sys2Proof.Machine
end

section
/-!
PROOFS of LPOS words and the closing of the loops (07, R220, R246): the command that waits for the loops, and the sending of what its queue
holds (09, R313).
-/
namespace Sys2Proof.Machine

/-- A GET_LOG of LID 3, with a tag. -/
def logEntry : Entry :=
  { opc := 0x84, flags := 0, tag := 1, stn := 0, cflags := 0, rsv := 0, mnt := 0, dlen := 0, dptr := 0, rptr := 0, cdw := 3 }

/-- Queue 5 stands twice on port 0: in the one that is found the command that waits for the loops of station 0, in the other a GET_LOG of
the same tag that holds its buffer. -/
def twinQueues : State :=
  let waits : Cmd := Cmd.start ⟨0, 5, logEntry, []⟩ 0 .threading
  let holds : Cmd := { Cmd.start ⟨0, 5, logEntry, []⟩ 0 .moving with handle := some 0 }
  let q := Qp.fresh 5 64 0x1000 0x2000 0
  ({ State.reset with ports := #v[{ HostPort.reset with qps := [{ q with cmds := [waits] }, { q with cmds := [holds] }] }, HostPort.reset] }).modStn 0 fun t =>
    { t with servo := { t.servo with closing := true, motion := .tensioned }, mountCmd := some ⟨0, 5, 1⟩ }

theorem twinQueues_waits : (twinQueues.cmd? ⟨0, 5, 1⟩).map (fun k => k.phase) = some .threading ∧ twinQueues.power.target = none ∧
    (twinQueues.stns[(0 : Stn)]).servo.closing = true ∧ (twinQueues.stns[(0 : Stn)]).servo.motion ≠ .hold ∧
    (twinQueues.stns[(0 : Stn)]).mountCmd = some ⟨0, 5, 1⟩ := by
  decide +kernel

/-- The dismounted station's buffers return, and the sending that follows ends the command with 0. -/
theorem twinQueues_run :
    (((((twinQueues.openLoops 0).dismount 0).finish ⟨0, 5, 1⟩ (.st 0xC)).ports[(0 : Port)]).qp? 5).map
      (fun x => x.done.getLast?.map fun d => d.status) = some (some 0) := by
  decide +kernel

theorem exec_tensionTimeout_mount {s : State} {st : Stn} {r : CmdRef} {k : Cmd} (closing : (s.stns[st]).servo.closing = true)
    (mount : (s.stns[st]).mountCmd = some r) (found : s.cmd? r = some k) (phase : k.phase = .threading) :
    exec (.tensionTimeout st) s = .next (((s.openLoops st).dismount st).finish r (.st 0xC)) := by
  have still : (s.openLoops st).cmd? r = some k := found
  show execTensionTimeout st s = _
  unfold execTensionTimeout
  extract_lets t s1
  rw [if_neg (show ¬ ((!t.servo.closing) = true) by rw [show t.servo.closing = true from closing]; decide),
    show t.mountCmd = some r from mount]
  dsimp only
  rw [show s1.cmd? r = some k from still, Option.any_some, phase]
  exact congrArg Host.Outcome.next (if_pos (by decide))

/-- What O55 says of loops that have not closed in time for a command that waits for them. -/
theorem LposAndRamps.waits (h : Obligations.LposAndRamps) {s : State} {st : Stn} {r : CmdRef} {k : Cmd} (target : s.power.target = none)
    (closing : (s.stns[st]).servo.closing = true) (mount : (s.stns[st]).mountCmd = some r) (found : s.cmd? r = some k) (phase : k.phase = .threading)
    (motion : (s.stns[st]).servo.motion ≠ .hold) : ∃ t, exec (.tensionTimeout st) s = .next t ∧ t.ended r 0x0C 0 := by
  obtain ⟨-, -, -, -, -, -, -, -, -, -, waits, -⟩ := h s st target
  obtain ⟨t, run, ends, -⟩ := (waits r k closing mount found phase).2 motion
  exact ⟨t, run, ends⟩

/-- Refutes O55: where two queues of a port have the same id, the TENSION_TIMEOUT of a station whose waiting command is a GET_LOG finds it
ended, for the GET_LOG of its name that holds a buffer has sent its data when the station's buffers returned; so nothing ends with 0x0C. -/
theorem not_lposAndRamps : ¬ Obligations.LposAndRamps := by
  intro h
  obtain ⟨phase, target, closing, motion, mount⟩ := twinQueues_waits
  obtain ⟨k, found, threading⟩ := Option.map_eq_some_iff.mp phase
  obtain ⟨t, run, ends⟩ := LposAndRamps.waits h target closing mount found threading motion
  rw [exec_tensionTimeout_mount closing mount found threading] at run
  rw [← Host.Outcome.next.inj run] at ends
  exact absurd (twinQueues_run.symm.trans (State.ended_status ends)) (by decide)

end Sys2Proof.Machine
end

section
/-!
PROOFS of the lateral loop (07, R217 to R221, R225, R238 to R241, Table 7.11).
-/
namespace Sys2Proof.Machine

/-! ### Words and frames -/

theorem sat32_toInt (x : Word) : sat32 x.toInt = x := by
  have above := x.toInt_lt
  have below := x.le_toInt
  norm_num at above below
  unfold sat32
  rw [if_neg (by omega), if_neg (by omega)]
  exact BitVec.ofInt_toInt

/-- What a servo frame does not tell. -/
structure Servo.Heeded (v w : Servo) : Prop where
  crossings : w.crossings = []
  seek : w.seek = v.seek
  back : w.back = v.back
  lateral : w.lateral = v.lateral
  missSrv : w.missSrv = v.missSrv
  within : w.within = v.within
  inhibit : w.inhibit = v.inhibit

theorem Servo.heed_heeded (v : Servo) (f : Nat) (fr : Option Frame × Option Frame) : v.Heeded (v.heed f fr) := by
  unfold Servo.heed
  split
  · exact ⟨rfl, rfl, rfl, rfl, rfl, rfl, rfl⟩
  · exact ⟨rfl, rfl, rfl, rfl, rfl, rfl, rfl⟩

theorem Servo.heed_missing {v : Servo} {f : Nat} {fr : Option Frame × Option Frame} (none : (fr.1 <|> fr.2) = none) :
    v.heed f fr = { v with
      crossings := []
      ends := []
      lposBits := []
      lpos := if v.vHat = 0 then v.lpos else v.counted (decide (v.vHat.toInt < 0)) } := by
  unfold Servo.heed
  rw [none]

theorem Servo.heed_lpos {v : Servo} {f : Nat} {fr : Option Frame × Option Frame} {a : Frame} (some : (fr.1 <|> fr.2) = some a) :
    (v.heed f fr).lpos = v.counted a.rev := by
  unfold Servo.heed
  rw [some]

theorem no_frame {fr : Option Frame × Option Frame} (first : fr.1 = none) (second : fr.2 = none) : (fr.1 <|> fr.2) = none := by
  rw [first, second]
  rfl

theorem bothFrames_isSome (fr : Option Frame × Option Frame) : (bothFrames fr).isSome = (fr.1.isSome && fr.2.isSome) := by
  obtain ⟨a, b⟩ := fr
  cases a <;> cases b <;> rfl

/-! ### The skew loop and the write inhibit -/

/-- A station after the skew loop's sample or without one: its lateral loop is as it was, and what it sends more goes to the skew actuator. -/
structure Station.Skewed (t u : Station) : Prop where
  servo : u.servo = { t.servo with
    skewL := u.servo.skewL
    eSkew := u.servo.eSkew }
  cmds : ∃ l, u.link.outCmds = t.link.outCmds ++ l ∧ ∀ x ∈ l, x.1 = 3

theorem Station.Skewed.refl (t : Station) : t.Skewed t := ⟨rfl, [], (List.append_nil _).symm, fun _ h => absurd h List.not_mem_nil⟩

theorem State.count_skewed (s : State) (st : Stn) (n : Nat) (l : List Nat) : (s.stns[st]).Skewed (s.count st n l).stns[st] := by
  unfold State.count
  rw [State.modStn_stn]
  exact ⟨rfl, [], (List.append_nil _).symm, fun _ h => absurd h List.not_mem_nil⟩

theorem State.skewSample_skewed (s : State) (st : Stn) (f : Nat) (a b : Frame) (at_ : BitVec 16) : (s.stns[st]).Skewed (s.skewSample st f a b at_).stns[st] := by
  unfold State.skewSample
  extract_lets t pitch phi lp r e x val
  rw [State.servoTrace_stns, State.modStn_stn]
  exact ⟨rfl, [(3, val, at_)], rfl, fun y hy => by rw [List.mem_singleton.mp hy]⟩

theorem State.skewSample_flagged (s : State) (st : Stn) (f : Nat) (a b : Frame) (at_ : BitVec 16) {n : Nat} (h : s.flagged n) :
    (s.skewSample st f a b at_).flagged n := by
  unfold State.skewSample
  extract_lets t pitch phi lp r e x val
  exact State.servoTrace_flagged _ _ _ _ _ h

theorem State.inhibitWrite_idle {s : State} {st : Stn} (h : (s.stns[st]).servo.inhibit = true) : s.inhibitWrite st = s := if_pos (.inl h)

/-- What the inhibition of writing does (R241). -/
theorem State.inhibitWrite_spec (s : State) (st : Stn) (feed : (s.stns[st]).write.feed = .writing) :
    ((s.inhibitWrite st).stns[st]).servo.inhibit = true ∧ ((s.stns[st]).servo.inhibit = false → (s.inhibitWrite st).flagged (70 + 16 * st.val)) := by
  have below := st.isLt
  cases h : (s.stns[st]).servo.inhibit with
  | true =>
    rw [State.inhibitWrite_idle h]
    exact ⟨h, fun no => Bool.noConfusion no⟩
  | false =>
    have run : s.inhibitWrite st = _ := if_neg (show ¬ ((s.stns[st]).servo.inhibit = true ∨ (s.stns[st]).write.feed = .off ∨
      (s.stns[st]).write.feed = .resume) by rw [h, feed]; decide)
    rw [run]
    exact ⟨by rw [State.raise_stn, State.modStn_stn]; rfl, fun _ => State.raise_flagged _ _ 0 (by omega)⟩

/-- A station that writing was inhibited at, or not. -/
structure Station.Inhibited (t u : Station) : Prop where
  servo : u.servo = { t.servo with
    inhibit := u.servo.inhibit
    within := u.servo.within
    calm := u.servo.calm
    settled := u.servo.settled }
  within : t.servo.within = 0 → u.servo.within = 0
  settled : t.servo.settled = false → u.servo.settled = false
  cmds : u.link.outCmds = t.link.outCmds

theorem State.inhibitWrite_inhibited (s : State) (st : Stn) : (s.stns[st]).Inhibited (s.inhibitWrite st).stns[st] := by
  unfold State.inhibitWrite
  extract_lets t
  split
  · exact ⟨rfl, id, id, rfl⟩
  · rw [State.raise_stn, State.modStn_stn]
    exact ⟨rfl, fun _ => rfl, fun _ => rfl, rfl⟩

/-! ### The lateral loop -/

/-- What a sample of the closed lateral loop with a valid reader, which decoded `a`, leaves of a station, within `lim` or not. -/
structure Station.Sampled (t u : Station) (fr : Option Frame × Option Frame) (a : Frame) (lim : Nat) : Prop where
  missSrv : u.servo.missSrv = 0
  crossings : u.servo.crossings = []
  lpos : u.servo.lpos = t.servo.counted a.rev
  seek : u.servo.seek = t.servo.seek
  back : u.servo.back = t.servo.back
  cmds : ∃ val l, u.link.outCmds = t.link.outCmds ++ (2, val, (frameEnd t.servo.origin fr a).extractLsb' 0 16 + 19200) :: l ∧ ∀ x ∈ l, x.1 = 3
  near : u.servo.eLat.toInt.natAbs ≤ lim → u.servo.within = t.servo.within + 1
  far : ¬ u.servo.eLat.toInt.natAbs ≤ lim → u.servo.within = 0 ∧ u.servo.settled = false

theorem Station.Sampled.skewed {t u w : Station} {fr : Option Frame × Option Frame} {a : Frame} {lim : Nat} (h : t.Sampled u fr a lim) (k : u.Skewed w) :
    t.Sampled w fr a lim := by
  obtain ⟨val, l, cmds, all⟩ := h.cmds
  obtain ⟨m, more, also⟩ := k.cmds
  refine ⟨by rw [k.servo]; exact h.missSrv, by rw [k.servo]; exact h.crossings, by rw [k.servo]; exact h.lpos, by rw [k.servo]; exact h.seek,
    by rw [k.servo]; exact h.back, ⟨val, l ++ m, by rw [more, cmds, List.append_assoc]; rfl, fun x hx => (List.mem_append.mp hx).elim (all x) (also x)⟩,
    by rw [k.servo]; exact h.near, by rw [k.servo]; exact h.far⟩

theorem Station.Sampled.inhibited {t u w : Station} {fr : Option Frame × Option Frame} {a : Frame} {lim : Nat} (h : t.Sampled u fr a lim)
    (beyond : ¬ u.servo.eLat.toInt.natAbs ≤ lim) (k : u.Inhibited w) : t.Sampled w fr a lim := by
  have same : w.servo.eLat = u.servo.eLat := by rw [k.servo]
  obtain ⟨zero, open_⟩ := h.far beyond
  refine ⟨by rw [k.servo]; exact h.missSrv, by rw [k.servo]; exact h.crossings, by rw [k.servo]; exact h.lpos, by rw [k.servo]; exact h.seek,
    by rw [k.servo]; exact h.back, by rw [k.cmds]; exact h.cmds, fun near => absurd (by rw [← same]; exact near) beyond,
    fun _ => ⟨k.within zero, k.settled open_⟩⟩

/-- A servo with one sample more that no reader gave. -/
def Servo.unread (v : Servo) (f : Nat) (fr : Option Frame × Option Frame) : Servo :=
  { v.heed f fr with
    missSrv := v.missSrv + 1
    within := 0
    calm := 0
    settled := false }

theorem State.lateralLoop_still {s : State} {st : Stn} (h : ¬ ((s.stns[st]).servo.motion = .moving ∨ (s.stns[st]).servo.motion = .tensioned)) :
    s.lateralLoop st = s.draw.2 := if_pos ⟨fun e => h (.inl e), fun e => h (.inr e)⟩

section
variable {s : State} {st : Stn} (runs : (s.stns[st]).servo.motion = .moving ∨ (s.stns[st]).servo.motion = .tensioned)
include runs

theorem State.lateralLoop_misses (missed : (((s.stns[st]).servo.frames s.draw.1).1 <|> ((s.stns[st]).servo.frames s.draw.1).2) = none) :
    s.lateralLoop st = (s.draw.2.modStn st fun t => t.modServo fun v => v.unread s.draw.1 ((s.stns[st]).servo.frames s.draw.1)).count st 0 [23] := by
  unfold State.lateralLoop
  extract_lets d f u t v fr
  rw [if_neg (show ¬ (v.motion ≠ .moving ∧ v.motion ≠ .tensioned) from fun h => runs.elim h.1 h.2), show (fr.1 <|> fr.2) = none from missed]
  rfl

/-- A sample of the closed lateral loop with a valid reader: a station `u` with the sample taken, where it lies beyond `WINH_LIM` the write
inhibit, and the skew loop's sample, or none. -/
theorem State.lateralLoop_reads {a : Frame} (read : (((s.stns[st]).servo.frames s.draw.1).1 <|> ((s.stns[st]).servo.frames s.draw.1).2) = some a) :
    ∃ u b : State, (s.stns[st]).Sampled u.stns[st] ((s.stns[st]).servo.frames s.draw.1) a (s.img.winhLim st.val * 65536) ∧
      (u.stns[st]).servo.inhibit = (s.stns[st]).servo.inhibit ∧ (u.stns[st]).write.feed = (s.stns[st]).write.feed ∧
      b = (if (u.stns[st]).servo.eLat.toInt.natAbs ≤ s.img.winhLim st.val * 65536 then u else u.inhibitWrite st) ∧
      (b.stns[st]).Skewed (s.lateralLoop st).stns[st] ∧ ∀ n, b.flagged n → (s.lateralLoop st).flagged n := by
  generalize run : s.lateralLoop st = res
  unfold State.lateralLoop at run
  extract_lets d f u t v fr lp heeded at run
  rw [if_neg (show ¬ (v.motion ≠ .moving ∧ v.motion ≠ .tensioned) from fun h => runs.elim h.1 h.2)] at run
  split at run
  next missed => exact nomatch missed.symm.trans read
  next a' found =>
    obtain rfl : a' = a := Option.some.inj (found.symm.trans read)
    extract_lets y te apply e x val ok s1 s2 s3 at run
    have heard := v.heed_heeded f fr
    have value : (sat32 e).toInt = e := congrArg BitVec.toInt (sat32_toInt (sat32 (v.yStar.toInt - y)))
    have stn : s2.stns[st] = s1.stns[st] := by rw [State.servoTrace_stns]
    have error : (s2.stns[st]).servo.eLat = sat32 e := by
      rw [stn, State.modStn_stn]
    refine ⟨s2, s3, ?_, ?_, ?_, ?_, ?_⟩
    · rw [stn, State.modStn_stn]
      refine ⟨rfl, heard.crossings, Servo.heed_lpos read, heard.seek, heard.back, ⟨val, [], rfl, fun _ h => absurd h List.not_mem_nil⟩, fun near => ?_,
        fun far => ?_⟩
      · dsimp only at near
        rw [value] at near
        exact if_pos near
      · dsimp only at far
        rw [value] at far
        refine ⟨if_neg far, ?_⟩
        dsimp only
        rw [show decide ok = false from decide_eq_false far, Bool.and_false, Bool.false_and]
    · rw [stn, State.modStn_stn]
      exact heard.inhibit
    · rw [stn, State.modStn_stn]
      rfl
    · rw [error, value]
      rfl
    · clear_value s3
      rw [← run]
      split
      · exact ⟨State.skewSample_skewed .., fun n h => State.skewSample_flagged _ _ _ _ _ _ h⟩
      · exact ⟨State.count_skewed .., fun n h => h⟩

end

/-- A sample of the closed lateral loop with a valid reader. -/
theorem State.lateralLoop_samples {s : State} {st : Stn} (runs : (s.stns[st]).servo.motion = .moving ∨ (s.stns[st]).servo.motion = .tensioned) {a : Frame}
    (read : (((s.stns[st]).servo.frames s.draw.1).1 <|> ((s.stns[st]).servo.frames s.draw.1).2) = some a) :
    (s.stns[st]).Sampled (s.lateralLoop st).stns[st] ((s.stns[st]).servo.frames s.draw.1) a (s.img.winhLim st.val * 65536) ∧
      (¬ ((s.lateralLoop st).stns[st]).servo.eLat.toInt.natAbs ≤ s.img.winhLim st.val * 65536 → (s.stns[st]).servo.inhibit = false →
        (s.stns[st]).write.feed = .writing → ((s.lateralLoop st).stns[st]).servo.inhibit = true ∧ (s.lateralLoop st).flagged (70 + 16 * st.val)) := by
  obtain ⟨u, b, sampled, inhibit, feed, hb, skewed, raised⟩ := State.lateralLoop_reads runs read
  by_cases near : (u.stns[st]).servo.eLat.toInt.natAbs ≤ s.img.winhLim st.val * 65536
  · rw [if_pos near] at hb
    subst hb
    exact ⟨sampled.skewed skewed, fun far => absurd (by rw [skewed.servo]; exact near) far⟩
  · rw [if_neg near] at hb
    subst hb
    refine ⟨(sampled.inhibited near (State.inhibitWrite_inhibited u st)).skewed skewed, fun _ free writes => ?_⟩
    obtain ⟨set, event⟩ := State.inhibitWrite_spec u st (feed.trans writes)
    exact ⟨by rw [skewed.servo]; exact set, raised _ (event (inhibit.trans free))⟩

/-! ### The seek and the run back -/

theorem State.lateral_closed {s : State} {st : Stn} (seek : (s.stns[st]).servo.seek = none) : s.lateral st = s.lateralLoop st := by
  unfold State.lateral
  extract_lets v
  rw [show v.seek = none from seek]

theorem State.lateral_still {s : State} {st : Stn} (h : ¬ ((s.stns[st]).servo.motion = .moving ∨ (s.stns[st]).servo.motion = .tensioned)) :
    s.lateral st = s.draw.2 := by
  unfold State.lateral
  extract_lets v fr
  split
  · exact State.lateralLoop_still h
  · exact if_pos ⟨fun e => h (.inl e), fun e => h (.inr e)⟩

/-- The lateral loop closed for the band sought. -/
def State.seekOver (s : State) (st : Stn) : State := s.modStn st fun t => t.modServo fun v => { v with seek := none }

section
variable {s : State} {st : Stn} {q : Seek} (runs : (s.stns[st]).servo.motion = .moving ∨ (s.stns[st]).servo.motion = .tensioned)
  (seek : (s.stns[st]).servo.seek = some q)
include runs seek

theorem State.lateral_closes (word : q.word = true) (first : ((s.stns[st]).servo.frames s.draw.1).1.isSome = true)
    (second : ((s.stns[st]).servo.frames s.draw.1).2.isSome = true) : s.lateral st = (s.seekOver st).lateralLoop st := by
  unfold State.lateral
  extract_lets v fr
  rw [show v.seek = some q from seek]
  dsimp only
  rw [if_neg (show ¬ (v.motion ≠ .moving ∧ v.motion ≠ .tensioned) from fun h => runs.elim h.1 h.2), show fr.1.isSome = true from first,
    show fr.2.isSome = true from second, word]
  rfl

theorem State.lateral_seeks (open_ : q.word = false ∨ ((s.stns[st]).servo.frames s.draw.1).1 = none ∨ ((s.stns[st]).servo.frames s.draw.1).2 = none) :
    s.lateral st = s.seekSample st q := by
  unfold State.lateral
  extract_lets v fr
  rw [show v.seek = some q from seek]
  dsimp only
  rw [if_neg (show ¬ (v.motion ≠ .moving ∧ v.motion ≠ .tensioned) from fun h => runs.elim h.1 h.2)]
  refine if_neg ?_
  rcases open_ with h | h | h
  · rw [h, Bool.and_false]
    decide
  · rw [show fr.1 = none from h, Option.isSome_none, Bool.false_and, Bool.false_and]
    decide
  · rw [show fr.2 = none from h, Option.isSome_none, Bool.and_false, Bool.false_and]
    decide

end

/-- A sample while the lateral loop is open. -/
theorem State.seekSample_spec (s : State) (st : Stn) (q : Seek) : ∃ w, (s.stns[st]).servo.Heeded w ∧
    ({ s.stns[st] with servo := { w with
      seek := some { q with both := ((s.stns[st]).servo.frames s.draw.1).1.isSome && ((s.stns[st]).servo.frames s.draw.1).2.isSome } } } : Station).Skewed
      (s.seekSample st q).stns[st] := by
  refine ⟨_, (s.stns[st]).servo.heed_heeded s.draw.1 ((s.stns[st]).servo.frames s.draw.1), ?_⟩
  rw [← bothFrames_isSome]
  unfold State.seekSample
  extract_lets t d v fr s1
  have here : s1.stns[st] = { s.stns[st] with servo := { v.heed d.1 fr with seek := some { q with both := (bothFrames fr).isSome } } } :=
    State.modStn_stn ..
  refine Eq.subst (motive := fun t : Station => t.Skewed _) here ?_
  split
  · exact State.skewSample_skewed ..
  · exact Station.Skewed.refl _

theorem State.turnRound_idle {s : State} {st : Stn} (h : (s.stns[st]).servo.back = none) : s.turnRound st = s := by
  unfold State.turnRound
  extract_lets v
  rw [show v.back = none from h]

/-- A run back that has passed its place turns round. -/
theorem State.turnRound_turns {s : State} {st : Stn} {b : RunBack} (back : (s.stns[st]).servo.back = some b) (ok : (s.stns[st]).servo.lposOk = true)
    (ramp : (s.stns[st]).servo.ramp = none) (moves : (s.stns[st]).servo.motion = .moving) (passed : b.passed (s.stns[st]).servo.lpos = true) :
    ((s.turnRound st).stns[st]).servo.back = none ∧ ((s.turnRound st).stns[st]).servo.reverse = b.rev ∧
      ((s.turnRound st).stns[st]).servo.ramp = some (b.why, min b.mm (ladder (s.ceiling st))) := by
  unfold State.turnRound
  extract_lets v
  rw [show v.back = some b from back]
  dsimp only
  rw [show v.lposOk = true from ok, show v.ramp = none from ramp, show v.motion = .moving from moves, show b.passed v.lpos = true from passed,
    if_neg (by decide), State.rampTo_stn, State.modStn_stn]
  unfold Station.modServo
  dsimp only
  rw [Servo.rampTo_of_closed (.inl (by exact moves))]
  exact ⟨rfl, rfl, rfl⟩

/-! ### Missing samples and LPOS -/

/-- LPOS is lost (R221). -/
theorem State.loseLpos_spec (s : State) (st : Stn) : ((s.loseLpos st).stns[st]).servo.lposOk = false ∧
    ((s.loseLpos st).stns[st]).servo.ramp = (s.stns[st]).servo.ramp ∧ ((s.stns[st]).servo.lposOk = true → (s.loseLpos st).flagged (71 + 16 * st.val)) := by
  have below := st.isLt
  unfold State.loseLpos
  extract_lets t s1
  split
  next ok =>
    have here : s1.stns[st] = t.modServo fun v => { v with
      lposOk := false
      lposWord := none
      lposMiss := 0 } := State.modStn_stn ..
    have kept {u : State} (h : WriteOnly st s1 u) : (u.stns[st]).servo.lposOk = false ∧ (u.stns[st]).servo.ramp = t.servo.ramp := by
      rw [h.side, here]
      exact ⟨rfl, rfl⟩
    rw [State.raise_stn, ← and_assoc]
    refine ⟨kept ?_, fun _ => State.raise_flagged _ _ 0 (by omega)⟩
    split
    · exact State.unplace_writeOnly ..
    · split
      · exact State.unplace_writeOnly ..
      · exact WriteOnly.refl st s1
  next lost => exact ⟨Bool.eq_false_iff.mpr lost, rfl, fun ok => absurd ok lost⟩

theorem State.controlledStop_lposOk (s : State) (st : Stn) : ((s.controlledStop st).stns[st]).servo.lposOk = (s.stns[st]).servo.lposOk :=
  congrArg (fun x : List Bool × Option Seek × Option Nat × Bool × Nat × Nat => x.2.2.2.1) (State.controlledStop_workKept s st).placing

section
variable {s : State} {st : Stn}

theorem exec_missWinh_inhibits (many : s.img.missWinh st.val ≤ (s.stns[st]).servo.missSrv) :
    exec (.missWinh st) s = .next ((s.count st 0 [24]).inhibitWrite st) := congrArg Host.Outcome.next (if_pos many)

theorem exec_missStop_stops (many : s.img.missStop st.val ≤ (s.stns[st]).servo.missSrv) (moves : (s.stns[st]).servo.motion = .moving) :
    exec (.missStop st) s = .next (((s.count st 0 [25]).controlledStop st).loseLpos st) := congrArg Host.Outcome.next (if_pos ⟨many, moves⟩)

theorem State.count_servo (s : State) (st : Stn) (n : Nat) (l : List Nat) : ((s.count st n l).stns[st]).servo = (s.stns[st]).servo :=
  (congrArg Station.servo (State.modStn_stn s st _)).trans rfl

end

/-- Settles O53: a sample is one of three kinds, and what each leaves of its station is said once (`Station.Sampled`, `Servo.Heeded`,
`Station.Skewed`). -/
theorem lateralLoop : Obligations.LateralLoop := by
  intro s st v fr runs none_
  refine ⟨fun still => ?_, fun go back seek first second => ?_, fun q go back seek open_ => ?_, fun q go back seek word first second => ?_,
    fun a go back seek read => ?_, fun b moves back ok ramp seek first second passed => ?_, ?_, ?_, fun few => congrArg Host.Outcome.next (if_neg (Nat.not_le.mpr few)),
    fun many writes => ?_, fun few => congrArg Host.Outcome.next (if_neg fun h => few.elim (fun e => Nat.not_le.mpr e h.1) fun e => e h.2), fun many moves => ?_⟩
  · refine congrArg Host.Outcome.next ?_
    rw [State.lateral_still still]
    unfold State.turnRound
    extract_lets w
    have rests : (w.motion != .moving) = true := bne_iff_ne.mpr fun e => still (.inl e)
    split
    · rfl
    · exact if_pos (by rw [rests, Bool.or_true, Bool.true_or])
  · have run := State.lateralLoop_misses (s := s) (st := st) go (no_frame first second)
    have servo : ((s.lateralLoop st).stns[st]).servo = v.unread s.draw.1 fr := by
      rw [run, State.count_servo, State.modServo_servo]
      rfl
    refine ⟨s.lateralLoop st, congrArg Host.Outcome.next ?_, ?_⟩
    · rw [State.lateral_closed seek]
      exact State.turnRound_idle (by rw [servo]; exact (Servo.heed_heeded ..).back.trans back)
    · rw [servo]
      unfold Servo.unread
      rw [Servo.heed_missing (no_frame first second)]
  · obtain ⟨w, heeded, skewed⟩ := State.seekSample_spec s st q
    obtain ⟨l, cmds, all⟩ := skewed.cmds
    refine ⟨s.seekSample st q, l, congrArg Host.Outcome.next ?_, ?_⟩
    · rw [State.lateral_seeks go seek open_]
      exact State.turnRound_idle (by rw [skewed.servo]; exact heeded.back.trans back)
    · rw [skewed.servo]
      exact ⟨rfl, heeded.lateral, heeded.missSrv, heeded.within, heeded.crossings, cmds, all⟩
  · have over_ : ((s.seekOver st).stns[st]).servo = { v with seek := none } := State.modServo_servo ..
    have frames : ((s.seekOver st).stns[st]).servo.frames (s.seekOver st).draw.1 = fr := by rw [over_]; rfl
    obtain ⟨a, found⟩ := Option.isSome_iff_exists.mp first
    obtain ⟨sampled, -⟩ := State.lateralLoop_samples (s := s.seekOver st) (st := st) (by rw [over_]; exact go) (a := a) (by rw [frames, found]; rfl)
    refine ⟨(s.seekOver st).lateralLoop st, congrArg Host.Outcome.next ?_, sampled.seek.trans (by rw [over_]), sampled.missSrv, sampled.crossings⟩
    rw [State.lateral_closes go seek word first second]
    exact State.turnRound_idle (sampled.back.trans (by rw [over_]; exact back))
  · obtain ⟨sampled, inhibits⟩ := State.lateralLoop_samples go read
    obtain ⟨val, l, cmds, all⟩ := sampled.cmds
    refine ⟨s.lateralLoop st, val, l, congrArg Host.Outcome.next ?_, sampled.missSrv, sampled.crossings, sampled.lpos, cmds, all, ?_⟩
    · rw [State.lateral_closed seek]
      exact State.turnRound_idle (sampled.back.trans back)
    · split
      next near => exact sampled.near near
      next far => exact ⟨(sampled.far far).1, (sampled.far far).2, inhibits far⟩
  · have run := State.lateralLoop_misses (s := s) (st := st) (.inl moves) (no_frame first second)
    rw [← State.lateral_closed seek] at run
    generalize hu : s.lateral st = u at run
    have servo : (u.stns[st]).servo = v.unread s.draw.1 fr := by
      rw [run, State.count_servo, State.modServo_servo]
      rfl
    unfold Servo.unread at servo
    rw [Servo.heed_missing (no_frame first second)] at servo
    have side : (u.stns[st]).ctx = (s.stns[st]).ctx ∧ (u.stns[st]).speed = (s.stns[st]).speed ∧ u.thermal = s.thermal := by
      rw [run]
      unfold State.count
      rw [State.modStn_stn, State.modStn_stn]
      exact ⟨rfl, rfl, rfl⟩
    obtain ⟨context, speed, thermal⟩ := side
    refine ⟨u.turnRound st, congrArg (fun x : State => Host.Outcome.next (x.turnRound st)) hu, ?_⟩
    rw [← State.ceiling_congr (s := s) (t := u) thermal context (by rw [speed])]
    exact State.turnRound_turns (by rw [servo]; exact back) (by rw [servo]; exact ok) (by rw [servo]; exact ramp) (by rw [servo]; exact moves)
      (by rw [servo]; exact passed)
  · split
    next h => exact ⟨_, congrArg Host.Outcome.next (if_pos h), State.modServo_servo ..⟩
    next h => exact congrArg Host.Outcome.next (if_neg h)
  · split
    next h => exact ⟨_, congrArg Host.Outcome.next (if_pos h), State.modServo_servo ..⟩
    next h => exact congrArg Host.Outcome.next (if_neg h)
  · exact ⟨_, exec_missWinh_inhibits many, (State.inhibitWrite_spec (s.count st 0 [24]) st (by rw [State.count_write]; exact writes)).1⟩
  · obtain ⟨lost, ramp, event⟩ := State.loseLpos_spec ((s.count st 0 [25]).controlledStop st) st
    refine ⟨_, exec_missStop_stops many moves, ?_, lost, fun ok => event ?_⟩
    · unfold Servo.stops
      rw [ramp]
      exact State.controlledStop_stops _ _ (by rw [State.count_servo]; exact moves)
    · rw [State.controlledStop_lposOk, State.count_servo]
      exact ok

end Sys2Proof.Machine
end

section
/-!
PROOFS of the recall of gatherings (06, R209): a reading whose station goes to Hold.
-/
namespace Sys2Proof.Machine

/-- An image whose thresholds allow one re-reading pass. -/
def onePass : Image := ⟨7, 1, [(12, List.replicate 0x1E 0 ++ [1, 0])]⟩

/-- A volume of depth 2 without parity, whose first group has two data gatherings. -/
def pairVol : VolCtx := { VolCtx.blank with state := .sealed, depth := 2, quires := [⟨0, none, none, 0, 2, 0, 0⟩] }

/-- The first gathering of the group, with its payload, and the second, erased as a whole after C3. -/
def readOne : RGath := { RGath.fresh 7 .data with whole := true, plain := some [], slot := some (0, 0) }
def lostOne : RGath := { RGath.fresh 8 .data with whole := true, slot := some (1, 0), ord := 1 }

/-- Station 0 is in Hold, and the group of its reading has been read to its end. -/
def heldReading : State := ({ State.reset with boot := { State.reset.boot with image := some onePass } }).modStn 0 fun t =>
  { t with ctx := some pairVol, servo := { t.servo with motion := .hold }, link := { t.link with rxOrd := 2 }
           readSide := { Recall.reset with active := true, gaths := [readOne, lostOne], c3Done := [1] } }

theorem heldReading_due : (heldReading.stns[(0 : Stn)]).quireDue pairVol 0 = true := by decide +kernel

theorem heldReading_reads : (heldReading.stns[(0 : Stn)]).readSide.active = true ∧ (heldReading.stns[(0 : Stn)]).readSide.ended = false ∧
    (heldReading.stns[(0 : Stn)]).readSide.reread = false ∧ heldReading.readersOf 0 = [] ∧ heldReading.migOf 0 = none ∧
    (heldReading.stns[(0 : Stn)]).ctx = some pairVol := by decide +kernel

/-- What C3 leaves of a reading whose quire it goes through. -/
def Recall.throughC3 (k : Recall) (v : VolCtx) (quire : Nat) : Recall :=
  { (((k.addMissing v quire).mended v quire).foldl (fun a g => a.modGath g.gnum fun _ => g) (k.addMissing v quire)) with
    c3Done := quire :: (k.addMissing v quire).c3Done.filter (· != quire) }

/-- The data gatherings of a group that are not read, and not given up. -/
def Recall.leftIn (k : Recall) (v : VolCtx) (x : RGroup) : List RGath := (k.inGroup v x).filter fun g => g.kind == .data && g.plain.isNone && !g.unrec

theorem heldReading_left : ((heldReading.stns[(0 : Stn)]).readSide.throughC3 pairVol 0).groupOf pairVol 0 = some ⟨0, 0, 2, true, [⟨0, 0, 7⟩, ⟨1, 1, 8⟩]⟩ ∧
    ((heldReading.stns[(0 : Stn)]).readSide.throughC3 pairVol 0).leftIn pairVol ⟨0, 0, 2, true, [⟨0, 0, 7⟩, ⟨1, 1, 8⟩]⟩ = [lostOne] ∧
    ((((heldReading.stns[(0 : Stn)]).readSide.throughC3 pairVol 0).slotOf pairVol lostOne).any fun q =>
      ((heldReading.stns[(0 : Stn)]).readSide.throughC3 pairVol 0).c3Done.contains q.1) = true ∧
    ((heldReading.stns[(0 : Stn)]).readSide.throughC3 pairVol 0).pass < heldReading.img.rereadMax := by decide +kernel

/-- The station stays in Hold. -/
theorem heldReading_run : ((((heldReading.decodeQuire 0 pairVol 0).readOn 0).stns[(0 : Stn)]).servo.motion) = .hold := by decide +kernel

theorem exec_quireDecode_due {s : State} {st : Stn} {v : VolCtx} {quire : Nat} (ctx : (s.stns[st]).ctx = some v) (due : (s.stns[st]).quireDue v quire = true) :
    exec (.quireDecode st quire) s = .next ((s.decodeQuire st v quire).readOn st) := by
  show execQuireDecode st quire s = _
  unfold execQuireDecode
  extract_lets t
  rw [show t.ctx = some v from ctx]
  exact congrArg Host.Outcome.next (if_pos due)

/-- What O50 says of the tape of a station whose group is to be read again. -/
theorem GatheringsRead.runsBack (h : Obligations.GatheringsRead) {s : State} {st : Stn} {v : VolCtx} {quire : Nat} {x : RGroup}
    (active : (s.stns[st]).readSide.active = true) (ended : (s.stns[st]).readSide.ended = false) (reread : (s.stns[st]).readSide.reread = false)
    (readers : s.readersOf st = []) (mig : s.migOf st = none) (ctx : (s.stns[st]).ctx = some v) (due : (s.stns[st]).quireDue v quire = true)
    (group : ((s.stns[st]).readSide.throughC3 v quire).groupOf v quire = some x) (some_ : ((s.stns[st]).readSide.throughC3 v quire).leftIn v x ≠ [])
    (erased : ∀ g ∈ ((s.stns[st]).readSide.throughC3 v quire).leftIn v x, g.erasedStill = true ∧
      (((s.stns[st]).readSide.throughC3 v quire).slotOf v g).any (fun q => ((s.stns[st]).readSide.throughC3 v quire).c3Done.contains q.1) = true)
    (pass : ((s.stns[st]).readSide.throughC3 v quire).pass < s.img.rereadMax) :
    ∃ t, exec (.quireDecode st quire) s = .next t ∧ (t.stns[st]).servo.motion = .moving := by
  obtain ⟨-, quires, -⟩ := h s st active ended reread readers mig
  obtain ⟨t, run, -, -, moves, -⟩ := ((quires v quire ctx due).2 x group some_ erased).1 pass
  exact ⟨t, run, moves⟩

/-- Refutes O50: a station in Hold, or Open, whose group is to be read again stays where it is, for a ramp does not move it. -/
theorem not_gatheringsRead : ¬ Obligations.GatheringsRead := by
  intro h
  obtain ⟨active, ended, reread, readers, mig, ctx⟩ := heldReading_reads
  obtain ⟨group, left, slot, pass⟩ := heldReading_left
  obtain ⟨t, run, moves⟩ := GatheringsRead.runsBack h active ended reread readers mig ctx heldReading_due group (by rw [left]; exact List.cons_ne_nil lostOne [])
    (fun g hg => by
      rw [left] at hg
      rw [List.mem_singleton.mp hg]
      exact ⟨by decide, slot⟩) pass
  rw [exec_quireDecode_due ctx heldReading_due] at run
  rw [← Host.Outcome.next.inj run, heldReading_run] at moves
  exact Motion.noConfusion moves

end Sys2Proof.Machine
end

section
/-!
PROOFS of the recall of records (06, R210): a re-reading pass that ends with the station in Hold.
-/
namespace Sys2Proof.Machine

/-- Station 0 is in Hold while a re-reading pass is under way. -/
def heldPass : State := State.reset.modStn 0 fun t =>
  { t with servo := { t.servo with motion := .hold }, readSide := { Recall.reset with active := true, reread := true } }

theorem heldPass_over : (heldPass.stns[(0 : Stn)]).readSide.active = true ∧ (heldPass.stns[(0 : Stn)]).readSide.reread = true ∧
    heldPass.mountIn 0 .readEndpaper = none ∧ (heldPass.stns[(0 : Stn)]).passRead = true ∧ (heldPass.stns[(0 : Stn)]).readSide.ended = false ∧
    (heldPass.stns[(0 : Stn)]).servo.motion = .hold := by decide +kernel

/-- What follows a pass that is over, before the end of the recording (R210). -/
def State.readsOn (s : State) (st : Stn) : State :=
  ((((s.modStn st fun t => t.modRecall Recall.again).aim st (s.stns[st]).readSide.wrap 0).rampTo st .locate (ladder (s.ceiling st))).modStn st fun t =>
    t.modServo fun v => { v with setStep := s.ceiling st })

theorem exec_rereadPassDone_over {s : State} {st : Stn} (active : (s.stns[st]).readSide.active = true) (reread : (s.stns[st]).readSide.reread = true)
    (mount : s.mountIn st .readEndpaper = none) (over_ : (s.stns[st]).passRead = true) (ended : (s.stns[st]).readSide.ended = false) :
    exec (.rereadPassDone st) s = .next (s.readsOn st) := by
  show execRereadPassDone st s = _
  unfold execRereadPassDone
  extract_lets t s1
  rw [if_neg (show ¬ ((!t.readSide.active) = true ∨ (!t.readSide.reread) = true) by
    rw [show t.readSide.active = true from active, show t.readSide.reread = true from reread]; decide), mount]
  dsimp only
  rw [if_neg (show ¬ ((!t.passRead) = true) by rw [show t.passRead = true from over_]; decide),
    if_neg (show ¬ (t.readSide.ended = true) by rw [show t.readSide.ended = false from ended]; decide)]
  rfl

/-- A station in Hold stays there. -/
theorem State.readsOn_held {s : State} {st : Stn} (held : (s.stns[st]).servo.motion = .hold) : ((s.readsOn st).stns[st]).servo.motion = .hold := by
  unfold State.readsOn
  rw [State.modServo_servo, State.rampTo_stn]
  generalize hu : (s.modStn st fun t => t.modRecall Recall.again) = u
  have same : ((u.aim st (s.stns[st]).readSide.wrap 0).stns[st]).servo.motion = .hold := by
    rw [State.aim_motion, ← hu, State.modStn_stn]
    exact held
  show (Servo.rampTo _ _ _).motion = .hold
  unfold Servo.rampTo
  rw [if_pos (.inr same)]
  exact same

/-- Refutes O51: a re-reading pass that ends because its station went to Hold, or opened, does not set the tape in motion. -/
theorem not_recordsRead : ¬ Obligations.RecordsRead := by
  intro h
  obtain ⟨active, reread, mount, read, ended, held⟩ := heldPass_over
  obtain ⟨-, -, passes, -⟩ := h heldPass 0
  obtain ⟨t, run, -, goes⟩ := (passes active reread mount).2 read
  rw [exec_rereadPassDone_over active reread mount read ended] at run
  obtain ⟨moves, -⟩ := goes ended
  rw [← Host.Outcome.next.inj run, State.readsOn_held held] at moves
  exact Motion.noConfusion moves

end Sys2Proof.Machine
end

section
/-!
PROOFS of the statement that the commands named in it run: what the families' own statements leave out, and the whole.
-/
namespace Sys2Proof.Machine

/-! ### Data frames on a lane -/

/-- A link changed in what it follows of the clock tracks alone: its lanes stay. -/
def Link.SameLanes (k k' : Link) : Prop := k'.lanes = k.lanes

theorem Link.SameLanes.trans {a b c : Link} (h : a.SameLanes b) (k : b.SameLanes c) : a.SameLanes c := Eq.trans k h

theorem Link.addPos_sameLanes (k : Link) (c : BitVec 32) (m : Option Nat) : k.SameLanes (k.addPos c m) := rfl

theorem Link.marker_sameLanes (k : Link) (c : BitVec 32) (m : Nat) : k.SameLanes (k.marker c m) := by
  unfold Link.marker
  extract_lets before spl k1 pair
  cases k.grid with
  | some g =>
    dsimp only
    split
    · rfl
    · split <;> rfl
  | none =>
    dsimp only
    split <;> rfl

theorem Link.passed_sameLanes (k : Link) (c : BitVec 32) : k.SameLanes (k.passed c) := by
  unfold Link.passed
  cases k.grid with
  | some g =>
    dsimp only
    split
    · split <;> rfl
    · rfl
  | none => rfl

theorem Link.clockCell_sameLanes (k : Link) (c : BitVec 32) (b : Bool) : k.SameLanes (k.clockCell c b) := by
  unfold Link.clockCell
  extract_lets l k1 k2
  refine Link.SameLanes.trans (b := k2) ?_ (Link.passed_sameLanes ..)
  simp only [k2]
  split
  · exact Link.marker_sameLanes ..
  · rfl

theorem Link.clockCells_sameLanes (k : Link) (c : BitVec 32) (l : List Bool) : k.SameLanes (k.clockCells c l) := by
  have each {α : Type} (f : Link → α → Link) (h : ∀ (a : Link) (x : α), a.SameLanes (f a x)) (l : List α) (a : Link) : a.SameLanes (l.foldl f a) := by
    induction l generalizing a with
    | nil => rfl
    | cons x l ih => exact (h a x).trans (ih _)
  unfold Link.clockCells
  extract_lets next gap k1
  refine Link.SameLanes.trans (b := k1) ?_ (each _ (fun a x => Link.clockCell_sameLanes ..) _ _)
  simp only [k1]
  split
  · exact each _ (fun a x => Link.clockCell_sameLanes ..) _ _
  · rfl

theorem State.rxStat_lanes (s : State) (st : Stn) (lane : Lane) (x : BitVec 5140) :
    ((s.rxStat st lane x).stns[st]).link.lanes = (s.stns[st]).link.lanes := by
  unfold State.rxStat
  extract_lets s1
  have kept : (s1.stns[st]).link.lanes = (s.stns[st]).link.lanes := by
    simp only [s1]
    split
    · rw [State.modStn_stn]; rfl
    · rfl
  split
  · exact kept
  · rw [State.modStn_stn]
    unfold Station.modLink
    dsimp only
    split <;> exact kept

/-- A data frame, whatever its STAT says, is taken by its lane. -/
theorem State.rxFrame_data {s : State} {st : Stn} {lane : Lane} {f : RxFrame} (up : ((s.stns[st]).link.lanes[lane]).up = true)
    (data : (s.received st lane f).type = 9) :
    ((s.rxFrame st lane f).stns[st]).link.lanes[lane] = ((s.stns[st]).link.lanes[lane]).take (s.received st lane f) := by
  unfold State.rxFrame
  extract_lets t f' x s1 s2 s3
  have taken : (s1.stns[st]).link.lanes[lane] = (t.link.lanes[lane]).take f' := by
    simp only [s1]
    rw [State.modStn_stn, Station.modLink_lane]
  have two : (s2.stns[st]).link.lanes = (s1.stns[st]).link.lanes := State.rxStat_lanes ..
  have three : (s3.stns[st]).link.lanes = (s1.stns[st]).link.lanes := by
    simp only [s3]
    rw [State.modStn_stn]
    exact two
  have all_ : ∀ u : State, (u.stns[st]).link.lanes = (s1.stns[st]).link.lanes → (u.stns[st]).link.lanes[lane] = (t.link.lanes[lane]).take f' :=
    fun u h => (congrArg (fun l : Vector LaneRx 16 => l[lane]) h).trans taken
  rw [if_neg (by simp only [t, up]; decide), if_neg (by simp only [f', data]; decide)]
  split
  · exact all_ _ two
  · split
    · exact all_ _ three
    · refine all_ _ (Eq.trans ?_ three)
      rw [State.modStn_stn]
      exact Link.clockCells_sameLanes ..

/-! ### One station changed in two ways -/

theorem State.modStn_congr {s : State} {st : Stn} {f g : Station → Station} (h : f (s.stns[st]) = g (s.stns[st])) : s.modStn st f = s.modStn st g := by
  unfold State.modStn vmod
  rw [h]

theorem State.modServo_congr {s : State} {st : Stn} {f g : Servo → Servo} (h : f (s.stns[st]).servo = g (s.stns[st]).servo) :
    (s.modStn st fun t => t.modServo f) = s.modStn st fun t => t.modServo g :=
  State.modStn_congr (congrArg (fun v => { s.stns[st] with servo := v }) h)

theorem Servo.lateralSwapped_of_swap {v : Servo} (h : v.lateral.swap = true) : v.lateralSwapped = { v with
    lateral := { v.lateral with
      active := 1 - v.lateral.active
      swap := false }
    settled := false
    calm := 0 } := by
  unfold Servo.lateralSwapped
  rw [BankedLoop.takeSwap_of_swap h, h, Bool.not_true, Bool.and_false]
  rfl

/-! ### LPOS words, the ends of ramps, and the closing of the loops -/

section
variable {s : State} {st : Stn}

/-- An LPOS word that passes its check is the last word, and its bits are used up. -/
theorem exec_lposWord_passes (bits : (s.stns[st]).servo.lposBits.length = 48) (passes : lposPasses (s.stns[st]).servo.wordBits = true)
    (idle : (s.stns[st]).write.flushes = []) : ∃ t, exec (.lposWord st) s = .next t ∧ (t.stns[st]).servo.lposBits = [] ∧
      (t.stns[st]).servo.lposWord = some (natOfBits (((s.stns[st]).servo.wordBits.drop 12).take 24)) := by
  refine ⟨(s.lposTake st).settle st, congrArg Host.Outcome.next (if_pos bits), ?_⟩
  have none_ : ((s.lposTake st).stns[st]).write.flushes = [] := by
    unfold State.lposTake
    rw [State.modStn_stn]
    exact idle
  have placing := (State.settle_workKept none_).placing
  have taken : ((s.lposTake st).stns[st]).servo.lposBits = [] ∧
      ((s.lposTake st).stns[st]).servo.lposWord = some (natOfBits (((s.stns[st]).servo.wordBits.drop 12).take 24)) := by
    unfold State.lposTake
    rw [State.modServo_servo]
    extract_lets w val band ok here v1
    have word : v1.lposBits = [] ∧ v1.lposWord = some val := ⟨rfl, if_pos passes⟩
    rw [if_neg (show ¬ (!ok) = true by rw [show ok = true from passes]; decide)]
    split
    · exact word
    · split
      · split
        · exact word
        · exact word
      · exact word
  exact ⟨(congrArg (fun x => x.1) placing).trans taken.left, (congrArg (fun x => x.2.2.1) placing).trans taken.right⟩

/-- A station at rest, for which nothing waits, is left as it rests. -/
theorem State.rested_eq (readers : s.readersOf st = []) (mountCmd : (s.stns[st]).mountCmd = none) (mount : (s.stns[st]).mount.isSome = true)
    (seek : (s.stns[st]).speed.wantSeek = false) : ((s.rested st).stns[st]).servo.ramp = none ∧ (s.rested st).power = s.power := by
  unfold State.rested
  extract_lets s1 s2 t
  have none_ : s2 = s1 := by
    simp only [s2]
    unfold State.locatesDone
    rw [show s1.readersOf st = [] from readers]
    rfl
  have here : s1.stns[st] = _ := State.modStn_stn ..
  have quiet : t.mountCmd = none ∧ t.mount.isSome = true ∧ t.speed.wantSeek = false ∧ t.servo.ramp = none := by
    simp only [t]
    rw [none_, here]
    exact ⟨mountCmd, mount, seek, rfl⟩
  obtain ⟨qcmd, qmount, qseek, qramp⟩ := quiet
  rw [qcmd, Option.bind_none]
  dsimp only
  rw [if_neg (by rw [Option.isNone_eq_false_iff.mpr qmount]; exact fun h => absurd h.1 Bool.noConfusion), State.serveSeek_idle qseek]
  exact ⟨qramp, by rw [none_]; rfl⟩

/-- A ramp whose reference has arrived is over. -/
theorem State.rampDone_ends (ramp : (s.stns[st]).servo.ramp.isSome = true) (arrived : (s.stns[st]).servo.arrived = true)
    (readers : s.readersOf st = []) (mountCmd : (s.stns[st]).mountCmd = none) (mount : (s.stns[st]).mount.isSome = true)
    (seek : (s.stns[st]).speed.wantSeek = false) : ((s.rampDone st).stns[st]).servo.ramp = none ∧ (s.rampDone st).power = s.power := by
  obtain ⟨⟨why, mm⟩, found⟩ := Option.isSome_iff_exists.mp ramp
  have rests := State.rested_eq readers mountCmd mount seek
  have loads : ∀ f : Servo → Servo, (∀ v, (f v).ramp = none) → ((s.modStn st fun t => t.modServo f).stns[st]).servo.ramp = none := fun f h =>
    (congrArg Servo.ramp (State.modServo_servo ..)).trans (h _)
  unfold State.rampDone
  extract_lets t
  rw [if_neg (show ¬ (!t.servo.arrived) = true by rw [show t.servo.arrived = true from arrived]; decide), show t.servo.ramp = some (why, mm) from found]
  cases why with
  | tension => exact ⟨loads _ fun _ => rfl, rfl⟩
  | stop => exact rests
  | fallback => exact rests
  | locate =>
    dsimp only
    rw [if_neg (by rw [show (s.modStn st _).readersOf st = [] from readers]; simp)]
    exact ⟨loads _ fun _ => rfl, rfl⟩
  | _ => exact ⟨loads _ fun _ => rfl, rfl⟩

/-- Loops that have closed leave a station without a MOUNT Tensioned. -/
theorem exec_tensioned_rests (target : s.power.target = none) (closing : (s.stns[st]).servo.closing = true) (mountCmd : (s.stns[st]).mountCmd = none)
    (seek : (s.stns[st]).speed.wantSeek = false) : exec (.tensioned st) s = .next (s.modStn st fun t => t.modServo fun v => { v with
      motion := .tensioned
      closing := false
      ramp := none
      vRef := 0 }) := by
  show execTensioned st s = _
  unfold execTensioned
  extract_lets t s1
  have quiet : (s1.stns[st]).speed.wantSeek = false := by
    simp only [s1]
    rw [State.modStn_stn]
    exact seek
  rw [if_neg (show ¬ (!t.servo.closing) = true by rw [show t.servo.closing = true from closing]; decide), show t.mountCmd = none from mountCmd]
  dsimp only
  rw [State.serveSeek_idle quiet, State.powerGo_idle (s := s1) target]

/-- Loops that have not closed in time open a station without a MOUNT. -/
theorem exec_tensionTimeout_opens (target : s.power.target = none) (closing : (s.stns[st]).servo.closing = true)
    (mountCmd : (s.stns[st]).mountCmd = none) : exec (.tensionTimeout st) s = .next (s.openLoops st) := by
  show execTensionTimeout st s = _
  unfold execTensionTimeout
  extract_lets t s1
  rw [if_neg (show ¬ (!t.servo.closing) = true by rw [show t.servo.closing = true from closing]; decide), show t.mountCmd = none from mountCmd]
  exact congrArg Host.Outcome.next (State.powerGo_idle (s := s1) target)

end

/-! ### The obligation -/

/-- Settles O60: the families' own statements give most of the clauses; LPOS words, ramps, loops that close and swaps of a bank have rules of
their own above. -/
theorem commandsComplete : Obligations.CommandsComplete := by
  refine ⟨fun s c => ?_, fun s st lane up => ?_, fun s st target => ?_, fun s st => ?_⟩
  · refine ⟨fun i opc own row acc awake empty => ?_, fun acc => ?_, fun acc => (queuePairs.1 c s).2 acc, fun acc => ?_, fun parts acc kind => ?_,
      fun parts x k test found clean => ⟨?_, ?_⟩, fun p w v raised answers => ?_, fun p w v answers => ?_, fun p w v answers => ?_, fun p v => ?_, fun p => ?_,
      fun p gen width up => ?_, fun p q x d rest found done room answers => ?_⟩
    · obtain ⟨t, run, -, sends⟩ := deviceData.1 i opc own c s row acc awake
      exact ⟨t, run, (sends empty).left⟩
    · obtain ⟨t, run, ends, made⟩ := (queuePairs.1 c s).1 acc
      exact ⟨t, run, ends, by rw [made]; rfl⟩
    · obtain ⟨t, x, y, d, run, -, found, cmds, done, final, -, -, resetting, -⟩ := queuePairs.2 c s acc
      exact ⟨t, y, run, found, cmds, resetting, d, done, final⟩
    · obtain ⟨t, run, starts⟩ := (selfTests s).1 c parts acc
      rw [if_neg kind] at starts
      exact ⟨t, run, starts.left⟩
    · obtain ⟨t, run, over_, ends⟩ := (selfTests s).2.1 (.selfTestDone parts) parts x k (.inl rfl) test found (.inl clean)
      exact ⟨t, _, _, run, over_, ends⟩
    · obtain ⟨t, run, over_, ends⟩ := (selfTests s).2.1 (.selfTestTimeout parts) parts x k (.inr rfl) test found (.inl clean)
      rw [if_pos rfl] at ends
      exact ⟨t, _, run, over_, ends⟩
    · obtain ⟨t, run, stat, -⟩ := evtStatClear_spec p w v raised s answers
      exact ⟨t, run, fun n hn word set raised => (stat n hn).trans (if_pos ⟨word, set, raised⟩)⟩
    · obtain ⟨t, run, mask, -⟩ := evtMaskWrite_spec p w v s answers
      refine ⟨t, run, fun n hn word warm cold => ?_⟩
      rw [mask n hn, if_pos word, bne_iff_ne.mpr warm, bne_iff_ne.mpr cold, Bool.and_true, Bool.and_true]
    · obtain ⟨t, run, route, -⟩ := evtRouteWrite_spec p w v s answers
      exact ⟨t, run, fun i word vec => (route i).trans (if_pos ⟨word, .inr vec⟩)⟩
    · obtain ⟨t, run, -, bits, -⟩ := msixVectorUnmask_spec p v s
      obtain ⟨mask, pend⟩ := bits v.val v.isLt
      rw [bne_self_eq_false, Bool.and_false] at mask pend
      exact ⟨t, run, mask, pend⟩
    · obtain ⟨t, run, qps, down, aqEn, -, -, -, -, cause, -⟩ := portLinksAndResets.1 p s
      refine ⟨t, run, qps, down, aqEn, ?_⟩
      have below := p.isLt
      rw [cause, BitVec.getLsbD_or, BitVec.getLsbD_twoPow]
      simp [show 12 + p.val < 14 by omega]
    · by_cases same : (s.ports[p]).gen = gen ∧ (s.ports[p]).width = width
      · exact ⟨s, exec_linkRateOrWidthChange_of_same (.inr same), same⟩
      · obtain ⟨t, run, -, events⟩ := portLinksAndResets.2.1 p gen width s up same
        refine ⟨t, run, ?_⟩
        rw [events.2.1 p, Fin.getElem_fin, State.modPort_self]
        exact ⟨rfl, rfl⟩
    · obtain ⟨t, y, run, queue, -, next, -⟩ := (completionsWritten s p q x found).2 d rest done room answers
      exact ⟨t, y, run, queue, next⟩
  · extract_lets l
    obtain ⟨-, -, unfixed, -, sends, -, boxes⟩ := framesAndContainers s st lane
    refine ⟨fun f fix => ?_, fun f data => ?_, fun n => ?_, fun slot x found => ?_⟩
    · obtain ⟨t, run, bad, -⟩ := unfixed f up fix
      exact ⟨t, run, bad⟩
    · obtain ⟨bad, sync, -⟩ := LaneRx.take_of_data l data
      refine ⟨_, rfl, ?_⟩
      rw [State.rxFrame_data up data]
      exact ⟨bad, sync⟩
    · obtain ⟨t, m, run, sent, seq⟩ := sends n up
      exact ⟨t, _, run, sent, seq⟩
    · obtain ⟨t, run, box, -⟩ := boxes slot x found
      exact ⟨t, run, box⟩
  · extract_lets x
    obtain ⟨-, steps, -, -, -, resumes, -, ends⟩ := speedAndWriting.2 s st
    refine ⟨fun seek stopped ready writing ramp stepping parity moving => ?_, fun n stepping ramp settled feed may more step => ?_,
      fun stopping slow => ?_, fun feed ramp moving settled may step => ⟨fun n lpos begun back way => ?_, fun lpos start => ?_⟩,
      fun v ctx moving feed ready closing flushes more => ?_⟩
    · obtain ⟨t, run, -, chosen⟩ := (speedAndWriting.1 s st target seek).1 stopped ready writing ramp stepping parity moving
      refine ⟨fun low => ?_, fun high empty => ?_⟩
      · rw [if_pos low] at chosen
        exact ⟨t, run, chosen.right, chosen.left⟩
      · rw [if_neg (Nat.not_lt.mpr high), if_pos empty] at chosen
        exact ⟨t, run, chosen.right⟩
    · obtain ⟨t, run, writes, -, over_, -⟩ := (steps n stepping ramp settled feed).1 may more step
      exact ⟨t, run, writes, over_⟩
    · exact congrArg Host.Outcome.next (if_pos (by rw [show (s.stns[st]).speed.stopping = true from stopping, Bool.true_and]; exact decide_eq_true slow))
    · obtain ⟨t, run, writes, gate, -⟩ := (resumes n feed ramp moving settled may step).2.1 lpos begun back way
      exact ⟨t, run, writes, gate⟩
    · obtain ⟨t, run, writes, gate, -⟩ := (resumes 0 feed ramp moving settled may step).2.2 lpos start
      exact ⟨t, run, writes, gate⟩
    · obtain ⟨t, run, gate, wrap, -⟩ := (ends v ctx moving feed ready closing flushes).1 more
      exact ⟨t, run, gate, wrap⟩
  · intro v fr
    obtain ⟨-, -, -, -, samples, -, -, -, -, inhibits, -, lost⟩ := lateralLoop s st
    obtain ⟨-, reel, -, stops, -, -, aux, -, kappa, -⟩ := reelAndBanks s st
    refine ⟨fun runs seek back read => ?_, fun inhibit within => ?_, fun calm => ?_, inhibits, fun many moves => ?_, fun men linked => ?_, stops,
      fun due linked free seen => ?_, fun miss ends fast takeUp n => ?_, fun swap => ?_, fun swap => ?_, fun swap => ?_, exec_lposWord_passes, fun gone ok => ?_,
      fun target ramp arrived mountCmd mount seek readers => ?_, fun target closing mountCmd seek => ⟨?_, fun free => ?_⟩⟩
    · have found : (fr.1 <|> fr.2).isSome = true := by
        revert read
        cases fr.1 <;> cases fr.2 <;> exact id
      obtain ⟨a, found⟩ := Option.isSome_iff_exists.mp found
      obtain ⟨t, val, l, run, miss, crossings, -, cmds, -⟩ := samples a runs back seek found
      refine ⟨t, run, crossings, miss, ?_⟩
      rw [cmds, List.length_append, List.length_cons]
      omega
    · exact congrArg Host.Outcome.next (if_pos ⟨inhibit, within⟩)
    · exact congrArg Host.Outcome.next (if_pos calm)
    · obtain ⟨t, run, stopped, gone, -⟩ := lost many moves
      exact ⟨t, run, stopped, gone⟩
    · obtain ⟨t, a, b, run, cmds, -⟩ := reel men linked
      exact ⟨t, a, b, _, run, cmds⟩
    · obtain ⟨t, val, run, -, cmds⟩ := aux due linked free seen
      exact ⟨t, val, _, run, cmds⟩
    · obtain ⟨t, run, low, high, -⟩ := kappa miss ends fast takeUp n
      exact ⟨t, run, low, high⟩
    · exact congrArg Host.Outcome.next (State.modServo_congr (Servo.lateralSwapped_of_swap swap))
    · exact congrArg Host.Outcome.next (State.modServo_congr (congrArg (fun b => { v with skewL := b }) (BankedLoop.takeSwap_of_swap swap)))
    · exact congrArg Host.Outcome.next (State.modServo_congr (congrArg (fun b => { v with aux := b }) (BankedLoop.takeSwap_of_swap swap)))
    · obtain ⟨none_, -, flag⟩ := State.loseLpos_spec s st
      exact ⟨_, congrArg Host.Outcome.next (if_pos gone), none_, flag ok⟩
    · obtain ⟨over_, power⟩ := State.rampDone_ends ramp arrived readers mountCmd mount seek
      refine ⟨_, congrArg Host.Outcome.next (State.powerGo_idle (s := s.rampDone st) (by rw [power]; exact target)), over_⟩
    · refine ⟨_, exec_tensioned_rests target closing mountCmd seek, ?_⟩
      rw [State.modServo_servo]
      exact ⟨rfl, rfl⟩
    · refine ⟨_, exec_tensionTimeout_opens target closing mountCmd, ?_⟩
      unfold State.openLoops
      rw [State.modStn_stn]
      exact ⟨if_neg free, rfl⟩

end Sys2Proof.Machine
end
